-- ==== Sys2Proof/Word.lean ====
section
/-! DEFINITION. The plain kinds of data every other file uses: a byte, a sparse map by number and a sparse memory. -/
namespace Sys2Proof

/-- One byte. -/
abbrev Byte := BitVec 8

/-- A sparse map from a unit's number to what that unit holds. The canonical form (keys strictly rising, no entry
equal to the default) is `Machine.mapWf`. -/
abbrev SMap (α : Type) := List (Nat × α)

/-- A sparse byte memory in the host's cells; an address that is not listed reads 0. -/
abbrev Memory := List Host.Cell

end Sys2Proof
end

