-- ==== Sys2Proof/Machine/Bits.lean ====
section
/-! DEFINITION. Bit fields, little-endian bytes, saturating counters and the sparse maps, each once. -/
namespace Sys2Proof.Machine

/-- Field of `w` bits at bit `lo` of a register value. -/
def field (v lo w : Nat) : Nat := v / 2 ^ lo % 2 ^ w

/-- Bit `i` of a value. -/
def bit (v i : Nat) : Bool := v / 2 ^ i % 2 == 1

/-- 1 for true. -/
def b2n (b : Bool) : Nat := if b then 1 else 0

/-- A saturating sum in a counter of `w` bits (the counters the registers call saturating). -/
def satAdd (w a b : Nat) : Nat := min (a + b) (2 ^ w - 1)

/-- A value held in `w` bits, larger ones shown as the field's largest. -/
def clampTo (w v : Nat) : Nat := min v (2 ^ w - 1)

/-- The `n` little-endian bytes of a value. -/
def leBytes : Nat → Nat → List Nat
  | 0, _ => []
  | n + 1, v => v % 256 :: leBytes n (v / 256)

/-- The value that little-endian bytes spell. -/
def leNat : List Nat → Nat
  | [] => 0
  | b :: t => b % 256 + 256 * leNat t

/-- Bytes `[off, off + n)` of a byte list; bytes beyond its end read 0. -/
def slice (l : List Nat) (off n : Nat) : List Nat :=
  let t := (l.drop off).take n
  t ++ List.replicate (n - t.length) 0

/-- The little-endian number of `n` bytes at `off`. -/
def leAt (l : List Nat) (off n : Nat) : Nat := leNat ((l.drop off).take n)

/-- A list padded with `d` to at least `n` entries. -/
def padTo {α : Type} (n : Nat) (d : α) (l : List α) : List α := l ++ List.replicate (n - l.length) d

/-- Two's-complement reading of a `w`-bit value. -/
def toSigned (w v : Nat) : Int := if v % 2 ^ w < 2 ^ (w - 1) then (v % 2 ^ w : Nat) else (v % 2 ^ w : Nat) - (2 ^ w : Nat)

/-- The `w`-bit two's-complement code of an integer. -/
def ofSigned (w : Nat) (i : Int) : Nat := (i % (2 ^ w : Nat)).toNat

/-- The bytes of a list of numbers. -/
def toBytes (l : List Nat) : List Nat := l.map (fun b => b % 256)

/-- Times of the last four happenings, newest first, with one more at `tc`. -/
def noteTime (tc : Nat) (l : List Nat) : List Nat := (tc :: l).take 4

/-- Four happenings lie within `span` of one another. -/
def fourWithin (span : Nat) (l : List Nat) : Bool :=
  match l with
  | [a, _, _, d] => decide (a < d + span)
  | _ => false

/-- The entry of a list, or a default. -/
def nth {α : Type} (d : α) (l : List α) (i : Nat) : α := (l[i]?).getD d

/-- A list with entry `i` replaced (unchanged where there is no entry `i`). -/
def setNth {α : Type} : List α → Nat → α → List α
  | [], _, _ => []
  | _ :: t, 0, v => v :: t
  | a :: t, i + 1, v => a :: setNth t i v

/-- Reading a sparse map. -/
def mapGet {α : Type} (d : α) : SMap α → Nat → α
  | [], _ => d
  | (a, v) :: t, k => if a = k then v else mapGet d t k

/-- Placing an entry in rising order of keys. -/
def mapPut {α : Type} : SMap α → Nat → α → SMap α
  | [], k, v => [(k, v)]
  | (a, w) :: t, k, v => if k < a then (k, v) :: (a, w) :: t else if k = a then (k, v) :: t else (a, w) :: mapPut t k v

/-- Taking an entry out. -/
def mapDel {α : Type} (m : SMap α) (k : Nat) : SMap α := m.filter (fun e => e.1 != k)

/-- Writing a sparse map: writing the default removes the entry. -/
def mapSet {α : Type} [DecidableEq α] (d : α) (m : SMap α) (k : Nat) (v : α) : SMap α :=
  if v = d then mapDel m k else mapPut m k v

/-- The sparse map of a list: a later entry for a key counts. -/
def toMap (l : List (Nat × Nat)) : SMap Nat := l.foldl (fun m e => mapSet 0 m e.1 e.2) []

/-- Changing one entry of a sparse map. -/
def mapMod {α : Type} [DecidableEq α] (d : α) (m : SMap α) (k : Nat) (f : α → α) : SMap α :=
  mapSet d m k (f (mapGet d m k))

/-- Changing every entry of a sparse map; an entry that becomes the default goes. -/
def mapEach {α : Type} [DecidableEq α] (d : α) (f : α → α) (m : SMap α) : SMap α :=
  (m.map (fun e => (e.1, f e.2))).filter (fun e => decide (e.2 ≠ d))

/-- Keys strictly rising. -/
def keysRising {α : Type} : SMap α → Bool
  | [] => true
  | [_] => true
  | (a, _) :: (b, w) :: t => decide (a < b) && keysRising ((b, w) :: t)

/-- The canonical form of a sparse map. -/
def mapWf {α : Type} [DecidableEq α] (d : α) (m : SMap α) : Bool :=
  keysRising m && m.all (fun e => decide (e.2 ≠ d))

/-- One byte of memory. -/
def memRead (m : Memory) (a : Nat) : Byte := mapGet 0 m a

/-- Writing one byte of memory. -/
def memWrite (m : Memory) (a : Nat) (v : Byte) : Memory := mapSet 0 m a v

/-- `n` bytes from `a`. -/
def memBytes (m : Memory) (a n : Nat) : List Nat := (List.range n).map (fun i => (memRead m (a + i)).toNat)

/-- Writing consecutive bytes from `a`. -/
def memPutBytes (m : Memory) (a : Nat) : List Nat → Memory
  | [] => m
  | b :: t => memPutBytes (memWrite m a (BitVec.ofNat 8 b)) (a + 1) t

/-- Removing every listed byte of `[a, a + n)`: those bytes read 0. -/
def memClear (m : Memory) (a n : Nat) : Memory := m.filter (fun c => c.1 < a || a + n ≤ c.1)

end Sys2Proof.Machine

namespace Sys2Proof

/-- The canonical form of a memory: addresses strictly rising, no listed byte 0. -/
def Memory.wf (m : Memory) : Bool := Machine.mapWf 0 m

end Sys2Proof
end

