-- ==== Sys2Proof/Machine/BlocksLink.lean ====
section
/-! DEFINITION. State of Ovilink: links, cartridges, forwarding, remote access, time alignment (chapter 12, LNK block). -/
namespace Sys2Proof.Machine

/-- `LNK.LINK[l]` states (Table 12.12). -/
inductive LinkState
  | unlicensed | noLight | training | up | quiesced | wrongNeighbour | down
  deriving DecidableEq, Repr

/-- State code of `LNK.LINK[l]`. -/
def LinkState.code : LinkState → Nat
  | .unlicensed => 0 | .noLight => 1 | .training => 2 | .up => 3 | .quiesced => 4 | .wrongNeighbour => 5 | .down => 6

/-- A flit's header fields and payload (Table 12.3). -/
structure Flit where
  dest : Nat
  src : Nat
  endpoint : Nat
  ty : Nat                  -- 0 IDLE, 1 WRITE, 2 READ, 3 READ_DATA, 4 ACK, 5 STATUS
  scheduled : Bool
  vc : Nat
  lenM1 : Nat
  hops : Nat
  frame : Nat
  tag : Nat
  addr : Nat
  payload : List Nat        -- bytes
  deriving DecidableEq, Repr

/-- A flit with the trailer fields the link rules use (Table 12.4). -/
structure LinkFlit where
  flit : Flit
  seq : Nat
  credU : Nat
  ack : Nat
  credS : Nat
  deriving DecidableEq, Repr

/-- A flit that waits in a link output for a credit, with its class and channel. -/
structure OutFlit where
  flit : Flit
  since : Nat               -- tc since which it waits
  from_ : Option (Nat × Nat) := none -- link and class whose receiver buffer it stands in (R267)
  deriving DecidableEq, Repr

/-- A timing-symbol candidate: what the neighbour of a link last announced (R277, R278). -/
structure Symbol where
  master : Nat
  depth : Nat
  tc : Nat                  -- own tc at its arrival
  deriving DecidableEq, Repr

/-- One Ovilink link. -/
structure Link where
  state : LinkState := .unlicensed
  lanesGood : Nat := 0
  lanesUsed : Nat := 0
  width : Nat := 0
  neighbourKnown : Bool := false
  neighbour : Nat := 0
  required : Bool := false
  expected : Nat := 0
  minWidth : Nat := 0
  expectAny : Bool := true
  lengthM : Nat := 0
  dateline : Bool := false
  quiesce : Bool := false
  replays : Nat := 0
  fecUncorrectable : Nat := 0
  widthDrops : Nat := 0
  fecCorrected : Nat := 0
  creditStalls : Nat := 0
  retrains : Nat := 0
  light : Bool := false
  addLanes : Nat := 0       -- lanes good for 1 s that wait for the next entry interval (R262)
  newLanes : Nat := 0       -- lanes good for less than 1 s, with the tc since which they are
  newAt : SMap Nat := []
  sendSeq : Nat := 0        -- next sequence number sent, 12 bits
  expectSeq : Nat := 0      -- next sequence number expected
  replay : List LinkFlit := []   -- sent and not acknowledged, oldest first (R266)
  again : Nat := 0          -- times the oldest flit has been resent in a row
  usedCredits : List Nat := [0, 0, 0, 0]  -- class * 2 + vc -> receiver buffers in use
  owed : List Nat := [0, 0]      -- credits to return to the neighbour: unscheduled, scheduled
  waiting : List OutFlit := []   -- flits that wait for a credit
  symbol : Option Symbol := none
  lost : Bool := false      -- a required link has fallen below its minimum in this frame (R263)
  deriving DecidableEq, Repr

/-- One laser cartridge (Table 12.13, R257). -/
structure Cart where
  failed : Nat := 0         -- wavelengths without a working laser
  aged : Nat := 0
  spareUsed : Nat := 0
  spareMap : Nat := 0
  present : Bool := true
  tuning : Nat := 0         -- wavelengths whose spare is being tuned
  blanked : Bool := false
  deriving DecidableEq, Repr

/-- A peer request without an answer (R271). -/
structure PeerReq where
  endpoint : Nat
  tag : Nat
  device : Nat
  core : Nat
  uid : Nat
  racc : Bool               -- a remote access of LNK.RACC
  at_ : Nat                 -- tc of issue
  deriving DecidableEq, Repr

/-- Ovilink (LNK block). -/
structure LnkBlk where
  assigned : Bool
  id : Nat
  links : List Link         -- 32
  carts : List Cart         -- 4
  fwd : SMap Nat            -- j -> `LNK.FWD[j]`, the link sets of devices 2j and 2j + 1
  master : Nat
  depth : Nat
  masterKnown : Bool
  upstream : Nat
  isMaster : Bool
  acquired : Bool
  locked : Bool
  offset : Int              -- 1/16 tc
  notAdmitted : Nat
  unreachable : Nat
  suppressed : Nat
  naSec : Nat               -- 1 + second of the last NOT_ADMITTED event, 0 none (R273)
  naCount : Nat             -- refused since that event
  raccState : Nat
  raccStatus : Nat
  raccWrite : Bool
  raccPeer : Nat
  raccAddr : Nat            -- bits [39:5]
  raccData : List Nat       -- 4 words
  raccAt : Nat
  nextTag : Nat
  requests : List PeerReq
  presets : List Nat        -- light-engine presets of the keeper firmware (R363)
  deriving DecidableEq, Repr

def link0 : Link := {}
def cart0 : Cart := {}

/-- LNK at reset (Tables 12.9 to 12.13); the four cartridges are fitted (log 6). -/
def lnkReset : LnkBlk :=
  { assigned := false, id := 0, links := List.replicate 32 {}, carts := List.replicate 4 {}, fwd := [], master := 0,
    depth := 0, masterKnown := false, upstream := 0, isMaster := false, acquired := false, locked := false,
    offset := 0, notAdmitted := 0, unreachable := 0, suppressed := 0, naSec := 0, naCount := 0,
    raccState := 0, raccStatus := 0, raccWrite := false, raccPeer := 0, raccAddr := 0,
    raccData := List.replicate 4 0, raccAt := 0, nextTag := 0, requests := [], presets := [] }

end Sys2Proof.Machine
end

