-- ==== Sys2Proof/Config.lean ====
section
/-! DEFINITION. The values the spec leaves open. Each is a constant without a body: nothing can evaluate it or prove a
value of it. The first argument of most is `State.fresh`, so that every use is a fresh value. -/
namespace Sys2Proof.Config

/-- R80: the order in which a pane or a reduction adds partial sums. `sumOrder fresh i` places the i-th term. -/
opaque sumOrder : Nat → Nat → Nat

/-- R75: the error, in units in the last place, of element `i` of an EXP, RCP, RSQRT or SIGMOID (kept to at most 2). -/
opaque vecError : Nat → Nat → Nat

/-- A result the spec does not state (RCP of 0, RSQRT of 0 or of a negative number, an INT32 result out of range or of
a NaN, a sum outside INT32 in CSUM): element `i` of use `fresh`. -/
opaque unstated : Nat → Nat → Nat

/-- R96: the 16 stochastic-rounding bits of element `i` for a rounding seed, core, frame and context slot; the spec names
the key and not the generator. -/
opaque roundBits : Nat → Nat → Nat → Nat → Nat → Nat

/-- A choice between outcomes the spec leaves to the implementation. -/
opaque choice : Nat → Nat → Nat

/-- R287: Gulreong's assigned PCI vendor ID, which the spec does not give. -/
opaque vendorId : Nat

/-- R187: count `i` of the network records of the frame that ended at use `fresh`: cycles of waiting, which the model does
not count, and flits between sill units and tiles. -/
opaque netCount : Nat → Nat → Nat

/-- R378: byte `i` of the ML-DSA-65 public key derived from an identity seed. -/
opaque identityKey : Nat → Nat → Nat

/-- R394: byte `i` of the signature made at use `fresh`; signing is outside the model. -/
opaque signature : Nat → Nat → Nat

end Sys2Proof.Config
end

