-- ==== Sys2Proof/Machine/Numbers.lean ====
section
/-! DEFINITION. Number formats (chapter 04): layouts, special values, rounding and exact arithmetic. A value is an exact
dyadic number, so that every rounding happens where a rule names it and nowhere else. -/
namespace Sys2Proof.Machine

/-- A decoded value: (−1)^neg × m × 2^e, an infinity or NaN. -/
inductive Val
  | nan
  | inf (neg : Bool)
  | fin (neg : Bool) (m : Nat) (e : Int)
  deriving DecidableEq, Repr

/-- Which special codes a floating layout has (Table 4.2). -/
inductive Specials
  | ieee | e4m3 | none
  deriving DecidableEq, Repr

/-- A floating layout (Table 4.1). -/
structure Layout where
  eb : Nat
  mb : Nat
  bias : Nat
  sp : Specials
  deriving DecidableEq, Repr

def layFP32 : Layout := ⟨8, 23, 127, .ieee⟩
def layBF16 : Layout := ⟨8, 7, 127, .ieee⟩
def layFP16 : Layout := ⟨5, 10, 15, .ieee⟩
def layE4M3 : Layout := ⟨4, 3, 7, .e4m3⟩
def layE5M2 : Layout := ⟨5, 2, 15, .ieee⟩
def layE3M2 : Layout := ⟨3, 2, 3, .none⟩
def layE2M3 : Layout := ⟨2, 3, 1, .none⟩
def layE2M1 : Layout := ⟨2, 1, 1, .none⟩

/-- What the elements of a format code (Table 3.9) are. -/
inductive ElemKind
  | float (l : Layout)
  | int (bits : Nat)     -- two's complement
  | mxint                -- INT8 code times 2^-6 (R84)
  | code (bits : Nat)    -- W2, W1
  | none
  deriving DecidableEq, Repr

/-- Elements of a format code, Table 3.9. -/
def elemKind : Nat → ElemKind
  | 0x01 => .float layFP32
  | 0x02 => .float layBF16
  | 0x03 => .float layFP16
  | 0x04 => .float layE4M3
  | 0x05 => .float layE5M2
  | 0x06 => .float layE4M3
  | 0x07 => .float layE5M2
  | 0x08 => .float layE3M2
  | 0x09 => .float layE2M3
  | 0x0A => .float layE2M1
  | 0x0B => .mxint
  | 0x0C => .int 8
  | 0x0D => .int 4
  | 0x0E => .code 2
  | 0x0F => .code 1
  | 0x10 => .int 32
  | _ => .none

/-- Bits of one element. -/
def elemBits (f : Nat) : Nat :=
  match elemKind f with
  | .float l => 1 + l.eb + l.mb
  | .int b => b
  | .mxint => 8
  | .code b => b
  | .none => 0

/-- The MX formats (block scale E8M0 over 32 elements). -/
def isMx (f : Nat) : Bool := 0x06 ≤ f && f ≤ 0x0B

/-- Floor of log2 of a positive number. -/
def log2 (n : Nat) : Nat := Nat.log2 n

/-- The largest finite magnitude code of a layout. -/
def Layout.maxCode (l : Layout) : Nat :=
  match l.sp with
  | .ieee => (2 ^ l.eb - 1) * 2 ^ l.mb - 1
  | .e4m3 => 0x7E
  | .none => 2 ^ (l.eb + l.mb) - 1

/-- Exponent of the smallest subnormal. -/
def Layout.emin (l : Layout) : Int := 1 - l.bias - l.mb

/-- A code of a layout read as a value (R81, R82). -/
def Layout.decode (l : Layout) (c : Nat) : Val :=
  let s := bit c (l.eb + l.mb)
  let e := field c l.mb l.eb
  let m := field c 0 l.mb
  let mag := c % 2 ^ (l.eb + l.mb)
  let special : Option Val :=
    match l.sp with
    | .ieee => if e = 2 ^ l.eb - 1 then (if m = 0 then some (.inf s) else some .nan) else none
    | .e4m3 => if mag = 0x7F then some .nan else none
    | .none => none
  match special with
  | some v => v
  | none => if e = 0 then .fin s m l.emin else .fin s (2 ^ l.mb + m) (e - l.bias - l.mb)

/-- The canonical NaN of a layout (Table 4.2); 0 where it has none. -/
def Layout.canonNan (l : Layout) : Nat :=
  match l.sp with
  | .ieee => (2 ^ l.eb - 1) * 2 ^ l.mb + 2 ^ (l.mb - 1)
  | .e4m3 => 0x7F
  | .none => 0

/-- Code of an infinity. -/
def Layout.infCode (l : Layout) (neg : Bool) : Nat := b2n neg * 2 ^ (l.eb + l.mb) + (2 ^ l.eb - 1) * 2 ^ l.mb

/-- Rounding modes of CONVERT (R95); `sr r` carries the 16 random bits. -/
inductive Rnd
  | rne
  | sr (r : Nat)
  deriving DecidableEq, Repr

/-- m × 2^(−k) rounded to an integer (R95). -/
def shiftRound (rnd : Rnd) (m k : Nat) : Nat :=
  match rnd with
  | .rne =>
    let q := m / 2 ^ k
    let r := m % 2 ^ k
    if 2 * r > 2 ^ k then q + 1 else if 2 * r = 2 ^ k then q + q % 2 else q
  | .sr r => (m * 2 ^ 16 + r * 2 ^ k) / 2 ^ (k + 16)

/-- Magnitude m × 2^e rounded onto a layout's grid with the exponent range unbounded above: the magnitude code, which
exceeds `maxCode` exactly when the value overflows (R97). -/
def Layout.roundMag (l : Layout) (rnd : Rnd) (m : Nat) (e : Int) : Nat :=
  if m = 0 then 0 else
  let top : Int := (log2 m : Nat) + e
  let q : Int := max (top - l.mb) l.emin
  let n := if e ≥ q then m * 2 ^ (e - q).toNat else shiftRound rnd m (q - e).toNat
  let (n, q) := if n = 2 ^ (l.mb + 1) then (2 ^ l.mb, q + 1) else (n, q)
  if n < 2 ^ l.mb then n else ((q - l.emin).toNat + 1) * 2 ^ l.mb + (n - 2 ^ l.mb)

/-- Sign placed on a magnitude code. -/
def Layout.withSign (l : Layout) (neg : Bool) (mag : Nat) : Nat := b2n neg * 2 ^ (l.eb + l.mb) + mag

/-- A value rounded to nearest even into an IEEE layout, overflow to infinity. -/
def Layout.encodeIeee (l : Layout) (v : Val) : Nat :=
  match v with
  | .nan => l.canonNan
  | .inf n => l.infCode n
  | .fin n m e =>
    let c := l.roundMag .rne m e
    if c > l.maxCode then l.infCode n else l.withSign n c

/-- FP32 code whose value is subnormal taken as zero of its sign (R75, R91, R94). -/
def flush32 (c : Nat) : Nat := if field c 23 8 = 0 then b2n (bit c 31) * 2 ^ 31 else c

/-- A value rounded into FP32 with subnormal results flushed (R75, R91). -/
def toF32 (v : Val) : Nat := flush32 (layFP32.encodeIeee v)

/-- Value of an FP32 code. -/
def f32Val (c : Nat) : Val := layFP32.decode c

/-- A value whose FP32 subnormals are taken as zero, keeping the sign. -/
def flushVal (v : Val) : Val :=
  match v with
  | .fin n m e => if m ≠ 0 ∧ (log2 m : Nat) + e < -126 then .fin n 0 0 else v
  | _ => v

/-- One element's value from its code, block scale apart (R81 to R84). -/
def elemVal (f c : Nat) : Val :=
  match elemKind f with
  | .float l => l.decode c
  | .int b => let i := toSigned b c; .fin (decide (i < 0)) i.natAbs 0
  | .mxint => let i := toSigned 8 c; .fin (decide (i < 0)) i.natAbs (-6)
  | _ => .fin false (c % 2 ^ 32) 0

/-- Negation. -/
def Val.negate : Val → Val
  | .nan => .nan
  | .inf n => .inf (!n)
  | .fin n m e => .fin (!n) m e

/-- The signed integer m at a lower exponent. -/
def signedAt (n : Bool) (m : Nat) (e lo : Int) : Int :=
  let k : Int := (m * 2 ^ (e - lo).toNat : Nat)
  if n then -k else k

/-- Exact sum; infinity − infinity is NaN; an exact zero of opposite signs is +0. -/
def Val.add : Val → Val → Val
  | .nan, _ => .nan
  | _, .nan => .nan
  | .inf a, .inf b => if a = b then .inf a else .nan
  | .inf a, .fin _ _ _ => .inf a
  | .fin _ _ _, .inf b => .inf b
  | .fin a m e, .fin b k f =>
    if m = 0 ∧ k = 0 then .fin (a && b) 0 0
    else
      let lo := min e f
      let s := signedAt a m e lo + signedAt b k f lo
      if s = 0 then .fin false 0 0 else .fin (decide (s < 0)) s.natAbs lo

/-- Exact product; zero times infinity is NaN. -/
def Val.mul : Val → Val → Val
  | .nan, _ => .nan
  | _, .nan => .nan
  | .inf a, .inf b => .inf (a != b)
  | .inf a, .fin b k _ => if k = 0 then .nan else .inf (a != b)
  | .fin a m _, .inf b => if m = 0 then .nan else .inf (a != b)
  | .fin a m e, .fin b k f => .fin (a != b) (m * k) (e + f)

/-- Multiplication by a power of two. -/
def Val.scale (v : Val) (k : Int) : Val :=
  match v with
  | .fin n m e => .fin n m (e + k)
  | _ => v

/-- Strict order of R101 on numbers, signed zeros ordered; false on NaN. -/
def Val.lt : Val → Val → Bool
  | .nan, _ => false
  | _, .nan => false
  | .inf a, .inf b => a && !b
  | .inf a, .fin _ _ _ => a
  | .fin _ _ _, .inf b => !b
  | .fin a m e, .fin b k f =>
    if m = 0 ∧ k = 0 then a && !b
    else
      let lo := min e f
      decide (signedAt a m e lo < signedAt b k f lo)

/-- Whether a value is NaN. -/
def Val.isNan : Val → Bool
  | .nan => true
  | _ => false

/-- Whether a value is an infinity. -/
def Val.isInf : Val → Bool
  | .inf _ => true
  | _ => false

/-- a ≥ b in the order of R101, false on NaN. -/
def Val.ge (a b : Val) : Bool := !a.isNan && !b.isNan && !a.lt b

/-- Maximum of R101. -/
def Val.max (a b : Val) : Val := if a.isNan || b.isNan then .nan else if a.lt b then b else a

/-- Minimum of R101. -/
def Val.min (a b : Val) : Val := if a.isNan || b.isNan then .nan else if a.lt b then a else b

/-- |a| of a finite value compared: a < b in magnitude. -/
def Val.absLt (a b : Val) : Bool :=
  match a, b with
  | .fin _ m e, .fin _ k f => let lo := Min.min e f; decide (signedAt false m e lo < signedAt false k f lo)
  | _, _ => false

/-- FP32 operations of the vector unit: one rounding each, subnormal results flushed (R75). -/
def f32Add (a b : Nat) : Nat := toF32 ((f32Val a).add (f32Val b))
/-- FP32 difference. -/
def f32Sub (a b : Nat) : Nat := toF32 ((f32Val a).add (f32Val b).negate)
/-- FP32 product. -/
def f32Mul (a b : Nat) : Nat := toF32 ((f32Val a).mul (f32Val b))
/-- Maximum of two FP32 codes. -/
def f32Max (a b : Nat) : Nat := toF32 ((f32Val a).max (f32Val b))
/-- Minimum of two FP32 codes. -/
def f32Min (a b : Nat) : Nat := toF32 ((f32Val a).min (f32Val b))

/-- An integer of finite value rounded to nearest even. -/
def roundInt (n : Bool) (m : Nat) (e : Int) : Int :=
  let k : Int := (if e ≥ 0 then m * 2 ^ e.toNat else shiftRound .rne m (-e).toNat : Nat)
  if n then -k else k

/-- Reading packed elements: element `i` of `bits` bits from a byte list, little end first (R85). -/
def packedAt (l : List Nat) (bits i : Nat) : Nat :=
  let b0 := i * bits / 8
  field (leAt l b0 8) (i * bits % 8) bits

/-- Packing element codes little end first into bytes (R85), as one number. -/
def packNat (bits : Nat) : List Nat → Nat
  | [] => 0
  | c :: t => c % 2 ^ bits + 2 ^ bits * packNat bits t

/-- A row of element codes packed and padded to whole 32-byte units. -/
def packRow (bits : Nat) (codes : List Nat) : List Nat :=
  leBytes ((codes.length * bits + 255) / 256 * 32) (packNat bits codes)

/-- Terms placed in the order `key` gives (R80): each term is inserted at `key i` of the list so far. -/
def freeOrder {α : Type} (key : Nat → Nat) (l : List α) : List α :=
  match l with
  | [] => []
  | [x] => [x]
  | x :: y :: t =>
    (y :: t).foldl (fun acc z => let i := key acc.length % (acc.length + 1); acc.take i ++ z :: acc.drop i) [x]

end Sys2Proof.Machine
end

