-- ==== Sys2Proof/Machine/CommandData.lean ====
section
/-! DEFINITION. Records that some commands carry: readings and verdicts from outside the block. -/
namespace Sys2Proof.Machine

/-- What the keeper's fetch returned and what its engine found (R361, R362, R365): the bytes it read, whether every read
completed, the verdict on the firmware signature and on each licence signature (slots 0 to 2, then the bundle in
order). Signature checking itself is outside the model (log 7). -/
structure FetchResult where
  readsOk : Bool
  file : List Nat
  bundle : List Nat
  fwSig : Bool
  slotSigs : List Bool
  bundleSigs : List Bool
  sillPllOk : Bool          -- step 4: every sill PLL and the time-counter PLL locked
  taps : List (Nat × Nat)   -- step 4: hinge FIFOs (the link into each) with the tap each set (R181)
  deadTiles : List Nat           -- step 5: tiles whose training or self-test failed
  readBack : List (Nat × Nat)    -- step 5: errors in the zeroed memory (36 × word + symbol and the bits changed; R147)
  deriving DecidableEq, Repr

/-- The unit whose read of host memory failed (R305): the submission-queue fetch of a pair, the read of a sequence's
APPEND buffer, or the keeper. -/
inductive HostReader
  | fetch (q : Nat) | buffer (n : Nat) | keeper
  deriving DecidableEq, Repr

/-- How a read of host memory ended without data (R305). -/
inductive ReadEnd
  | timeout | unsupported | aborted
  deriving DecidableEq, Repr

/-- Readings of the temperature sensors at one sample: region, sensor a, sensor b; footprint, a, b; sill, sensor,
reading; the inlet. Units of 1/16 °C. A sensor that is not listed keeps its last reading. -/
structure TempReadings where
  regions : List (Nat × Nat × Nat)
  mems : List (Nat × Nat × Nat)
  sills : List (Nat × Nat × Nat)
  inlet : Option Nat
  deriving DecidableEq, Repr

/-- What the activity estimator and the frame program's recorded activity say of the next frame (R350, R352, R353, R39),
which no rule gives as a table: powers in mW before the correction factor, temperatures in 1/16 °C, paths in core
cycles. Keys: `(level * 16 + divisor) * 512 + region` in `power` and `predict`, `region` in `demoted`, `level * 512 +
region` in `path` (log 41). `duty` is `power` at 50% hot duty (R335), with its keys. -/
structure Forecast where
  fixed : Nat               -- W: links, lasers, memory, sills, conversion
  links : Nat               -- W: links and lasers within it
  rest : Nat                -- W: forecast of the present frame until its end
  power : SMap Nat
  duty : SMap Nat
  demoted : SMap Nat
  predict : SMap Nat
  path : SMap Nat
  deriving DecidableEq, Repr

end Sys2Proof.Machine
end

