-- ==== Sys2Proof/Syntax.lean ====
section
/-! DEFINITION. The commands of the block, one constructor for each row of the opcode table, with their operands. What
an operand means stands at the command's meaning, `Machine.exec<Constructor>`. -/
namespace Sys2Proof
open Sys2Proof.Machine

/-- A command. -/
inductive Instr
  /-- POWER_ON (R329). -/
  | powerOn (osc : Nat) (maddr : Nat)
  /-- LOSS_OF_POWER (R326). -/
  | lossOfPower
  /-- INPUT_WARN_BAND (R326). -/
  | inputWarnBand (v : Nat)
  /-- VPM_SHUTDOWN (R326). -/
  | vpmShutdown
  /-- STAGE1_CONVERTER_FAIL (R327). -/
  | stage1ConverterFail (i : Nat)
  /-- RAIL_OUT_OF_REGULATION (R328). -/
  | railOutOfRegulation (k : Nat)
  /-- PERST_N_ASSERT (R369). -/
  | perstNAssert
  /-- PERST_N_RELEASE (R360). -/
  | perstNRelease
  /-- OSC_WAIT_EXPIRY (R310). -/
  | oscWaitExpiry
  /-- SYSTEM_PLL_LOCK_TIMEOUT (R311). -/
  | systemPllLockTimeout
  /-- SYSTEM_PLL_LOCK (R360). -/
  | systemPllLock
  /-- HOT_RESET (R288). -/
  | hotReset
  /-- FATAL_CONDITION (R370). -/
  | fatalCondition (cause : Nat)
  /-- HALT_HOLD_END (R370). -/
  | haltHoldEnd
  /-- KEEPER_WATCHDOG_EXPIRY (R364). -/
  | keeperWatchdogExpiry
  /-- SILL_RESET_REQUEST (R368). -/
  | sillResetRequest (sill : Nat)
  /-- REFCLK_LOST (R324). -/
  | refclkLost (what : Nat) (host : Bool)
  /-- KEEPER_GO (R361). -/
  | keeperGo
  /-- FIRMWARE_VERIFIED (R362). -/
  | firmwareVerified (r : FetchResult)
  /-- REGION_GENERATOR_LOCK_TIMEOUT (R312). -/
  | regionGeneratorLockTimeout (r : Nat)
  /-- HINGE_FIFO_SETTLE_TIMEOUT (R181). -/
  | hingeFifoSettleTimeout
  /-- LOAD (R239). -/
  | loadImage
  /-- LOAD_VERIFIED (R239). -/
  | loadVerified (sigOk : Bool) (flips : List (Nat × Nat)) (bad : List Nat)
  /-- UNLOAD (R251). -/
  | unloadImage
  /-- ENABLE (R244). -/
  | enableImage
  /-- CHECK_COMPLETE (R245). -/
  | checkComplete (hops : Nat) (fibre : Nat) (f : Forecast)
  /-- SUSPEND (R251). -/
  | suspendImage
  /-- FRAME_ENTRY (R28). -/
  | frameEntry (paths : SMap Nat)
  /-- SLAT_BOUNDARY (R35). -/
  | slatBoundary (losses : List (Nat × Nat × Nat)) (drained : List (Nat × Nat))
  /-- CONTEXT_SWITCH_DONE (R73). -/
  | contextSwitchDone (n : Nat) (parity : Bool) (flips : List (Nat × Nat)) (bad : List Nat)
  /-- PLAN_POINT (R29). -/
  | planPoint (f : Forecast)
  /-- FRAME_END (R40). -/
  | frameEnd (losses : List (Nat × Nat × Nat)) (drained : List (Nat × Nat)) (flips : List (Nat × Nat)) (bad : List Nat)
  /-- CONFIRM_DEADLINE (R47). -/
  | confirmDeadline
  /-- STATUS_RECORD_RECEIVE (R44). -/
  | statusRecordReceive (b : List Nat)
  /-- PERIOD_ARM (R32). -/
  | periodArm (v : Nat)
  /-- PERIOD_WITHDRAW (R33). -/
  | periodWithdraw (v : Nat)
  /-- LIMIT_WRITE (R323). -/
  | limitWrite (v : Nat)
  /-- LIMIT_ARM (R323). -/
  | limitArm (v : Nat)
  /-- LIMIT_WITHDRAW (R323). -/
  | limitWithdraw (v : Nat)
  /-- CAP_WRITE (R348). -/
  | capWrite (which : Nat) (v : Nat)
  /-- COOL_BASE_WRITE (R357). -/
  | coolBaseWrite (v : Nat)
  /-- SCRUB_WRITE (R150). -/
  | scrubWrite (v : Nat)
  /-- CE_THRESH_WRITE (R150). -/
  | ceThreshWrite (v : Nat)
  /-- BNK_SEL_WRITE (R169). -/
  | bnkSelWrite (v : Nat)
  /-- BNK_HCMD_GO (R169). -/
  | bnkHcmdGo (v : Nat)
  /-- QP_ENABLE (R236). -/
  | qpEnable (q : Nat) (v : Nat)
  /-- QP_DISABLE (R236). -/
  | qpDisable (q : Nat) (v : Nat)
  /-- SQ_TAIL_DOORBELL (R210). -/
  | sqTailDoorbell (off : Nat) (width : Nat) (v : Nat)
  /-- CQ_HEAD_DOORBELL (R215). -/
  | cqHeadDoorbell (off : Nat) (width : Nat) (v : Nat)
  /-- OPEN (R223). -/
  | openEntry (q : Nat) (b : List Nat)
  /-- APPEND (R221). -/
  | appendEntry (q : Nat) (b : List Nat)
  /-- GENERATE (R232). -/
  | generateEntry (q : Nat) (b : List Nat)
  /-- FORK (R219). -/
  | forkEntry (q : Nat) (b : List Nat)
  /-- CLOSE (R218). -/
  | closeEntry (q : Nat) (b : List Nat)
  /-- QUERY (R218). -/
  | queryEntry (q : Nat) (b : List Nat)
  /-- FORK_COPY_DONE (R219). -/
  | forkCopyDone (child : Nat) (flips : List (Nat × Nat)) (bad : List Nat)
  /-- LANE_FILL (R225). -/
  | laneFill (late : List Nat) (reads : List (Nat × List Nat)) (bad : List Nat)
  /-- POOL_SET_STARVED (R229). -/
  | poolSetStarved (j : Nat)
  /-- REQ_COALESCE_TIMEOUT (R217). -/
  | reqCoalesceTimeout (q : Nat)
  /-- SQ_FETCH_RETRY (R305). -/
  | sqFetchRetry (q : Nat)
  /-- DESCRIPTOR_DISPATCH (R64). -/
  | descriptorDispatch (n : Nat) (parity : Bool)
  /-- LOAD_DESC (R63). -/
  | loadDesc (n : Nat) (looks : List Nat)
  /-- STORE_DESC (R63). -/
  | storeDesc (n : Nat) (looks : List Nat) (parity : Bool)
  /-- SEND (R58). -/
  | send (n : Nat) (parity : Bool)
  /-- RECV (R58). -/
  | recv (n : Nat)
  /-- MATMUL (R108). -/
  | matmul (n : Nat) (p : Nat) (cycle : Nat) (blocks : Nat) (parity : Bool)
  /-- CONVERT (R94). -/
  | convert (n : Nat) (count : Nat) (parity : Bool)
  /-- GATHER (R164). -/
  | gather (n : Nat)
  /-- WAIT_COUNTER (R65). -/
  | waitCounter (n : Nat)
  /-- WAIT_SLAT_START (R67). -/
  | waitSlatStart (n : Nat)
  /-- WAIT_FRAME_OFFSET (R67). -/
  | waitFrameOffset (n : Nat)
  /-- WAIT_CONFIRM (R67). -/
  | waitConfirm (n : Nat)
  /-- WAIT_QUIESCE (R67). -/
  | waitQuiesce (n : Nat)
  /-- WAIT_YIELD (R56). -/
  | waitYield (n : Nat)
  /-- LOOP (R68). -/
  | loop (n : Nat)
  /-- SKIP (R69). -/
  | skip (n : Nat) (parity : Bool)
  /-- VEC_ADD (R75). -/
  | vecAdd (n : Nat) (count : Nat) (parity : Bool)
  /-- VEC_SUB (R75). -/
  | vecSub (n : Nat) (count : Nat) (parity : Bool)
  /-- VEC_MUL (R75). -/
  | vecMul (n : Nat) (count : Nat) (parity : Bool)
  /-- VEC_MAX (R101). -/
  | vecMax (n : Nat) (count : Nat) (parity : Bool)
  /-- VEC_MIN (R101). -/
  | vecMin (n : Nat) (count : Nat) (parity : Bool)
  /-- ADDS (R75). -/
  | vecAdds (n : Nat) (count : Nat) (parity : Bool)
  /-- MULS (R75). -/
  | vecMuls (n : Nat) (count : Nat) (parity : Bool)
  /-- EXP (R75). -/
  | vecExp (n : Nat) (count : Nat) (parity : Bool)
  /-- RCP (R75). -/
  | vecRcp (n : Nat) (count : Nat) (parity : Bool)
  /-- RSQRT (R75). -/
  | vecRsqrt (n : Nat) (count : Nat) (parity : Bool)
  /-- SIGMOID (R75). -/
  | vecSigmoid (n : Nat) (count : Nat) (parity : Bool)
  /-- RSUM (R75). -/
  | vecRsum (n : Nat) (count : Nat) (parity : Bool)
  /-- RMAX (R101). -/
  | vecRmax (n : Nat) (count : Nat) (parity : Bool)
  /-- RSUMSQ (R75). -/
  | vecRsumsq (n : Nat) (count : Nat) (parity : Bool)
  /-- RARGMAX (R101). -/
  | vecRargmax (n : Nat) (count : Nat) (parity : Bool)
  /-- ROWSUB (R75). -/
  | vecRowsub (n : Nat) (count : Nat) (parity : Bool)
  /-- ROWMUL (R75). -/
  | vecRowmul (n : Nat) (count : Nat) (parity : Bool)
  /-- CSUM (R75). -/
  | vecCsum (n : Nat) (count : Nat) (parity : Bool)
  /-- MASKGE (R101). -/
  | vecMaskge (n : Nat) (count : Nat) (parity : Bool)
  /-- MASKLT (R101). -/
  | vecMasklt (n : Nat) (count : Nat) (parity : Bool)
  /-- DESCRIPTOR_COMPLETE (R65). -/
  | descriptorComplete (n : Nat) (qi : Nat)
  /-- CORE_PARITY_FENCE (R77). -/
  | coreParityFence (n : Nat)
  /-- UNIT_WATCHDOG_EXPIRY (R77). -/
  | unitWatchdogExpiry (n : Nat) (qi : Nat)
  /-- DRAIN_HALF_DONE (R111). -/
  | drainHalfDone (n : Nat) (p : Nat) (held : Nat) (fa : Nat) (fb : Nat) (fd : Nat) (tail : Nat) (parity : Bool)
  /-- PANE_PARITY_ERROR (R125). -/
  | paneParityError (n : Nat) (p : Nat)
  /-- NET_READ (R178). -/
  | netRead (id : Nat) (beats : Nat) (parity : Bool) (flips : List (Nat × Nat))
  /-- NET_WRITE (R179). -/
  | netWrite (id : Nat) (beats : Nat) (parity : Bool)
  /-- NET_SEND (R180). -/
  | netSend (id : Nat) (parity : Bool)
  /-- NET_READ_DATA (R179). -/
  | netReadData (id : Nat)
  /-- NET_ACK (R178). -/
  | netAck (id : Nat)
  /-- NET_ERROR (R178). -/
  | netError (id : Nat)
  /-- FLIT_CREDIT_RETURN (R184). -/
  | flitCreditReturn (link : Nat) (vc : Nat)
  /-- FLIT_CRC_ERROR (R185). -/
  | flitCrcError (l : Nat) (again : Bool)
  /-- LINK_REPLAY_LIMIT (R185). -/
  | linkReplayLimit (l : Nat)
  /-- NET_REQUEST_AGED (R131). -/
  | netRequestAged (id : Nat)
  /-- OWNER_SASH_REQUEST (R130). -/
  | ownerSashRequest (n : Nat) (beats : Nat) (parity : Bool) (store : Bool) (flips : List (Nat × Nat))
  /-- BANK_REFRESH_DUE (R141). -/
  | bankRefreshDue (n : Nat) (b : Nat) (serving : Bool) (idled : Bool)
  /-- TILE_TEMP_SAMPLE (R141). -/
  | tileTempSample (n : Nat)
  /-- SCRUB_RUN (R144). -/
  | scrubRun (n : Nat) (flips : List (Nat × Nat)) (again : List (Nat × Nat)) (parity : List Nat)
  /-- SASH_STALL_TIMEOUT (R148). -/
  | sashStallTimeout (n : Nat)
  /-- SASH_RETRAIN_DONE (R148). -/
  | sashRetrainDone (n : Nat) (ok : Bool)
  /-- BANK_ACCESS_TIMEOUT (R148). -/
  | bankAccessTimeout (n : Nat) (b : Nat)
  /-- DATAPATH_PARITY_FENCE (R140). -/
  | datapathParityFence (n : Nat)
  /-- CE_THRESHOLD (R145). -/
  | ceThreshold (n : Nat)
  /-- BANK_COMMAND_START (R442). -/
  | bankCommandStart (n : Nat) (b : Nat) (idle : List Nat)
  /-- NEXT (R156). -/
  | microNext (n : Nat) (b : Nat) (parity : Bool) (flips : List (Nat × Nat))
  /-- FETCH (R156). -/
  | microFetch (n : Nat) (b : Nat) (parity : Bool) (flips : List (Nat × Nat))
  /-- FETCHC (R155). -/
  | microFetchc (n : Nat) (b : Nat) (parity : Bool) (flips : List (Nat × Nat))
  /-- COPYOUT (R162). -/
  | microCopyout (n : Nat) (b : Nat) (parity : Option Nat)
  /-- PIECE (R156). -/
  | microPiece (n : Nat) (b : Nat)
  /-- SEGB (R156). -/
  | microSegb (n : Nat) (b : Nat)
  /-- OUT (R155). -/
  | microOut (n : Nat) (b : Nat) (parity : Option Nat)
  /-- CLEAR (R156). -/
  | microClear (n : Nat) (b : Nat)
  /-- JUMP (R156). -/
  | microJump (n : Nat) (b : Nat)
  /-- DONE (R164). -/
  | microDone (n : Nat) (b : Nat)
  /-- SELOP (R156). -/
  | microSelop (n : Nat) (b : Nat)
  /-- RESERVED_MICRO_OP (R156). -/
  | reservedMicroOp (n : Nat) (b : Nat)
  /-- MICRO_OP_TIMEOUT (R166). -/
  | microOpTimeout (n : Nat) (b : Nat)
  /-- HOST_COMMAND_TIMEOUT (R166). -/
  | hostCommandTimeout (n : Nat) (b : Nat)
  /-- BANK_UNIT_PARITY_FENCE (R166). -/
  | bankUnitParityFence (n : Nat) (b : Nat)
  /-- PAGE_WALK_DONE (R200). -/
  | pageWalkDone (r : Nat) (lane : Nat) (word : Nat) (cycles : Nat) (parity : Bool) (flips : List (Nat × Nat))
  /-- BAR2_READ (R290). -/
  | bar2Read (off : Nat) (len : Nat) (flips : List (Nat × Nat)) (parity : Bool)
  /-- BAR2_WRITE (R290). -/
  | bar2Write (off : Nat) (bytes : List Nat) (allEnabled : Bool) (parity : Bool)
  /-- MEMRD (R299). -/
  | memrd (hpa : Nat) (flips : List (Nat × Nat)) (parity : Bool)
  /-- MEMRDDATA (R299). -/
  | memrddata (hpa : Nat) (flips : List (Nat × Nat)) (parity : Bool)
  /-- MEMWR (R299). -/
  | memwr (hpa : Nat) (bytes : List Nat) (poison : Bool) (parity : Bool)
  /-- MEMWRPTL (R134). -/
  | memwrptl (hpa : Nat) (bytes : List Nat) (mask : Nat) (poison : Bool) (parity : Bool)
  /-- MEMSPECRD (R286). -/
  | memspecrd (hpa : Nat)
  /-- HDM_DECODER_COMMIT (R296). -/
  | hdmDecoderCommit (i : Nat) (hpa : Nat) (dpa : Nat) (size : Nat) (ways : Nat) (lock : Bool)
  /-- HDM_DECODER_UNCOMMIT (R302). -/
  | hdmDecoderUncommit (i : Nat)
  /-- TO_DEVICE (R300). -/
  | toDevice (i : Nat) (v : Nat)
  /-- TO_HOST (R301). -/
  | toHost (i : Nat) (v : Nat)
  /-- BAR2_BASE_WRITE (R291). -/
  | bar2BaseWrite (v : Nat)
  /-- POISONED_TLP (R304). -/
  | poisonedTlp (bar : Nat) (off : Nat)
  /-- BUS_MASTER_ENABLE_CHANGE (R294). -/
  | busMasterEnableChange (on : Bool)
  /-- D3HOT_ENTRY (R288). -/
  | d3hotEntry
  /-- D0_RETURN (R288). -/
  | d0Return
  /-- HOST_READ_FAILED (R305). -/
  | hostReadFailed (r : HostReader) (e : ReadEnd)
  /-- DOE_DISCOVERY (R306). -/
  | doeDiscovery (i : Nat) (ty : Nat) (len : Nat)
  /-- CDAT_READ (R306). -/
  | cdatRead (i : Nat) (ty : Nat) (len : Nat)
  /-- DOE_ABORT (R306). -/
  | doeAbort
  /-- GET_IDENTITY (R393). -/
  | getIdentity
  /-- GET_CERT (R393). -/
  | getCert (i : Nat)
  /-- GET_REPORT (R394). -/
  | getReport (nonce : List Nat)
  /-- GET_PROTECTION (R393). -/
  | getProtection
  /-- IDENTIFY_MEMORY_DEVICE (R286). -/
  | identifyMemoryDevice
  /-- GET_SUPPORTED_LOGS (R286). -/
  | getSupportedLogs
  /-- GET_LOG (R286). -/
  | getLog (off : Nat) (len : Nat)
  /-- GET_EVENT_RECORDS (R286). -/
  | getEventRecords
  /-- CLEAR_EVENT_RECORDS (R286). -/
  | clearEventRecords (handles : List Nat)
  /-- GET_HEALTH_INFO (R286). -/
  | getHealthInfo
  /-- UNSUPPORTED_MAILBOX_OPCODE (R286). -/
  | unsupportedMailboxOpcode (op : Nat)
  /-- NONCE_REQUEST (R387). -/
  | nonceRequest
  /-- PROTECTION_CHANGE (R389). -/
  | protectionChange
  /-- DEBUG_UNLOCK (R392). -/
  | debugUnlock
  /-- PRT_COMMAND_DONE (R389). -/
  | prtCommandDone (readsOk : Bool) (pkg : List Nat) (sigA : Bool) (sigB : Bool) (storeOk : Bool)
  /-- LNK_DEVICE_WRITE (R284). -/
  | lnkDeviceWrite (v : Nat)
  /-- LNK_FWD_WRITE (R275). -/
  | lnkFwdWrite (j : Nat) (v : Nat)
  /-- QUIESCE_SET (R266). -/
  | quiesceSet (l : Nat)
  /-- QUIESCE_CLEAR (R259). -/
  | quiesceClear (l : Nat)
  /-- DATELINE_WRITE (R276). -/
  | datelineWrite (l : Nat) (on : Bool)
  /-- RACC_READ (R272). -/
  | raccRead (peer : Nat)
  /-- RACC_WRITE (R272). -/
  | raccWrite (peer : Nat)
  /-- RACC_TIMEOUT (R272). -/
  | raccTimeout
  /-- LINK_TRAINED (R259). -/
  | linkTrained (l : Nat) (lanes : Nat) (neighbour : Option Nat) (lengthM : Nat) (light : Bool)
  /-- LINK_TRAIN_RETRY (R259). -/
  | linkTrainRetry (l : Nat) (light : Bool)
  /-- LANE_DROP (R261). -/
  | laneDrop (l : Nat) (i : Nat) (uncorrectable : Nat) (corrected : Nat)
  /-- LANE_ADD (R262). -/
  | laneAdd (l : Nat) (i : Nat)
  /-- LASER_FAIL (R257). -/
  | laserFail (k : Nat) (w : Nat)
  /-- SPARE_LASER_IN_SERVICE (R257). -/
  | spareLaserInService (k : Nat) (w : Nat)
  /-- LASER_AGED (R257). -/
  | laserAged (k : Nat) (w : Nat)
  /-- CARTRIDGE_LEVER_OPEN (R433). -/
  | cartridgeLeverOpen (k : Nat)
  /-- OVI_WRITE_FLIT (R273). -/
  | oviWriteFlit (l : Nat) (f : LinkFlit) (parity : Bool)
  /-- OVI_READ_FLIT (R273). -/
  | oviReadFlit (l : Nat) (f : LinkFlit) (parity : Bool) (flips : List (Nat × Nat))
  /-- OVI_READ_DATA_FLIT (R272). -/
  | oviReadDataFlit (l : Nat) (f : LinkFlit)
  /-- OVI_ACK_FLIT (R271). -/
  | oviAckFlit (l : Nat) (f : LinkFlit) (parity : Bool)
  /-- OVI_STATUS_FLIT (R270). -/
  | oviStatusFlit (l : Nat) (f : LinkFlit)
  /-- OVI_IDLE_FLIT (R267). -/
  | oviIdleFlit (l : Nat) (f : LinkFlit)
  /-- OVI_FLIT_ERROR (R266). -/
  | oviFlitError (l : Nat) (sent : Bool)
  /-- OVI_REPLAY_LIMIT (R266). -/
  | oviReplayLimit (l : Nat)
  /-- PEER_REQUEST_TIMEOUT (R271). -/
  | peerRequestTimeout (endpoint : Nat) (tag : Nat) (parity : Bool)
  /-- CREDIT_STALL (R276). -/
  | creditStall (l : Nat) (scheduled : Bool)
  /-- TIMING_SYMBOL_SEND (R277). -/
  | timingSymbolSend (l : Nat)
  /-- TIMING_SYMBOL (R278). -/
  | timingSymbol (l : Nat) (symTc : Nat) (master : Option Nat) (depth : Nat) (phase : Nat) (back : Int)
  /-- ALIGNMENT_TIMEOUT (R280). -/
  | alignmentTimeout
  /-- SUSTAINED_DROOP (R315). -/
  | sustainedDroop (r : Nat)
  /-- GENERATOR_LOCK_LOST (R317). -/
  | generatorLockLost (r : Nat)
  /-- FALLBACK_SWITCH (R317). -/
  | fallbackSwitch (r : Nat)
  /-- DIVISOR_STEP (R318). -/
  | divisorStep (r : Nat)
  /-- PHASE_FAIL (R334). -/
  | phaseFail (r : Nat) (phase : Nat)
  /-- VSENSOR_EXCLUDE (R332). -/
  | vsensorExclude (r : Nat) (k : Nat)
  /-- SHUNT_FIRE (R336). -/
  | shuntFire (r : Nat)
  /-- BOND_SAMPLE (R337). -/
  | bondSample (r : Nat) (vOut : Nat) (vMin : Nat) (cur : Nat)
  /-- BOND_SUSPECT (R337). -/
  | bondSuspect (r : Nat)
  /-- PEAK_LIMITER_ENGAGE (R338). -/
  | peakLimiterEngage (measure : Nat) (value : Nat)
  /-- PEAK_LIMITER_RELEASE (R338). -/
  | peakLimiterRelease (power : Nat)
  /-- SHUTTER_RAMP_DONE (R340). -/
  | shutterRampDone (r : Nat)
  /-- TEMP_SAMPLE (R343). -/
  | tempSample (t : TempReadings)
  /-- SENSOR_SUSPECT (R344). -/
  | sensorSuspect (mem : Bool) (r : Nat)
  /-- SENSOR_FAIL (R344). -/
  | sensorFail (cls : Nat) (u : Nat) (k : Nat)
  /-- TEMP_TRIP (R346). -/
  | tempTrip (cls : Nat) (u : Nat)
  /-- HOLD_RELEASE (R346). -/
  | holdRelease (cls : Nat) (u : Nat)
  /-- MODEL_UPDATE (R345). -/
  | modelUpdate (powers : List (Nat × Nat))
  /-- AVG_SAMPLE (R349). -/
  | avgSample (power : Nat) (voltage : Nat) (current : Nat) (peak : Nat) (rails : List (Nat × Nat))
  /-- ESTIMATOR_SECOND (R351). -/
  | estimatorSecond (measured : Nat) (estimate : Nat)
  /-- COOLING_ESTIMATE (R356). -/
  | coolingEstimate
  /-- EVT_ENABLE (R398). -/
  | evtEnable (v : Nat)
  /-- EVT_DISABLE (R398). -/
  | evtDisable (v : Nat)
  /-- EVT_HEAD_WRITE (R397). -/
  | evtHeadWrite (v : Nat)
  /-- EVT_COALESCE_TIMEOUT (R403). -/
  | evtCoalesceTimeout
  /-- REPORT_DONE (R406). -/
  | reportDone
  /-- MCTP_CONTROL_MESSAGE (R410). -/
  | mctpControlMessage (bus : Nat) (cmd : Nat) (data : List Nat)
  /-- GET_SENSOR_READING (R410). -/
  | getSensorReading (bus : Nat) (id : Nat)
  /-- SET_NUMERIC_EFFECTER_VALUE (R411). -/
  | setNumericEffecterValue (bus : Nat) (id : Nat) (v : Nat)
  /-- SET_EVENT_RECEIVER (R411). -/
  | setEventReceiver (bus : Nat) (receiver : Option Nat) (polls : Bool)
  /-- I3C_DYNAMIC_ADDRESS (R428). -/
  | i3cDynamicAddress (a : Nat)
  /-- DBG_SEL_WRITE (R422). -/
  | dbgSelWrite (v : Nat)
  /-- DBG_STATUS_CLEAR (R421). -/
  | dbgStatusClear (v : Nat)
  /-- REGISTER_WRITE (R246). -/
  | registerWrite (off : Nat) (width : Nat) (v : Nat)
  /-- BRING_UP_COMPLETE (R366). -/
  | bringUpComplete (cores : List Nat) (panes : List (Nat × Nat))
  /-- NEIGHBOUR_ID_ANNOUNCE (R264). -/
  | neighbourIdAnnounce (l : Nat) (neighbour : Option Nat)
  /-- HANDOVER_COMPLETE (R300). -/
  | handoverComplete (i : Nat)
  /-- PCIE_LINK_UP (R288). -/
  | pcieLinkUp (speed : Nat) (width : Nat) (mode : Nat)
  /-- INPUT_WARN_LEAVE (R326). -/
  | inputWarnLeave (v : Nat)
  /-- DBG_CS_READ (R422). -/
  | dbgCsRead (k : Nat) (parity : Bool)
  deriving DecidableEq, Repr

end Sys2Proof
end

