-- ==== Sys2Proof/Decode.lean ====
section
/-! DEFINITION. The commands that a word spells by the opcode table's bits. -/
namespace Sys2Proof

/-- No row of the opcode table gives its command any bits: commands are events and register accesses, and none is a
word. So no word spells a command. -/
def decodeTableWord (_nbits _w : Nat) : Option Instr := none

end Sys2Proof
end

