-- ==== Sys2Proof/Machine/BlocksBank.lean ====
section
/-! DEFINITION. State of the bank units (chapter 07, BNK block) and of the page walkers (chapter 09). -/
namespace Sys2Proof.Machine

/-- One command slot (Tables 7.10 to 7.12). -/
structure Slot where
  state : Nat := 0          -- Table 7.1
  cause : Nat := 0          -- Table 7.2
  entry : Nat := 0
  op : Nat := 0
  accFmt : Nat := 0
  rowLen : Nat := 0
  countM1 : Nat := 0
  listOff : Nat := 0
  tableOff : Nat := 0
  resultOff : Nat := 0
  resultLen : Nat := 0
  entriesDone : Nat := 0
  resultUsed : Nat := 0
  nan : Bool := false
  sat : Bool := false
  changedTc : Nat := 0
  uid1 : Nat := 0           -- 1 + queue entry of the GATHER that filled it, 0 none
  ctxSlot : Nat := 0        -- context slot of that GATHER
  deriving DecidableEq, Repr

/-- What the unit keeps for a running command (R156). -/
structure BankRun where
  slot : Nat
  pc : Nat
  index : Nat := 0
  weight : Nat := 0
  segEnd : Bool := false
  remaining : Nat
  taken : Nat := 0          -- entries taken: the list cursor
  piece : Nat := 0          -- P
  segCount : Nat := 0
  cursor : Nat              -- result cursor, units
  row : List Nat := []      -- row buffer
  acc : List Nat := []      -- accumulator codes (FP32 or INT32)
  buf : List Nat := []      -- list buffer: bytes of the entries not yet taken
  key : Nat := 0            -- names the free contents of the buffers before they are first written
  ranTc : Nat := 0          -- run time so far, tc, yields left out
  sinceTc : Nat := 0        -- tc since which it runs
  deriving DecidableEq, Repr

/-- One bank unit. -/
structure BankUnit where
  slots : List Slot := List.replicate 8 {}
  order : List Nat := []    -- queued slots, first queued first
  run : Option BankRun := none
  yielded : List BankRun := []   -- host or keeper commands that have yielded
  parityTimes : List Nat := []   -- tc of the last four buffer parity errors, newest first
  parityDue : Bool := false      -- four of them have come within a second (R166)
  unclean : List Nat := []       -- buffers to be cleared before the next command: 0 row, 1 list, 2 accumulator (R166)
  deriving DecidableEq, Repr

def slot0 : Slot := {}
def bankUnit0 : BankUnit := {}

/-- Bank units and the BNK block. -/
structure BnkBlk where
  units : SMap BankUnit     -- tile * 32 + bank
  stock : Bool              -- words 0-15 loaded (R156)
  imageWords : Bool
  firstWord : Nat
  words : List Nat          -- the image's words, from firstWord on
  selTile : Nat
  selBank : Nat
  done : Nat
  refused : Nat
  faulted : Nat
  deriving DecidableEq, Repr

/-- A lane record as the walker has read it (Table 9.4). -/
structure LaneRec where
  seq : Nat := 0xFFFFFFFF
  committed : Nat := 0
  n : Nat := 0
  drafts : Nat := 0
  active : Bool := false
  ptBase : Nat := 0
  ptWords : Nat := 0
  sealGroup : Nat := 0xFFFF
  sealPage : Nat := 0xFFFFFFFF
  deriving DecidableEq, Repr

/-- A look-aside entry: one page-table word (R200). -/
structure Look where
  lane : Nat
  word : Nat
  entries : List Nat
  deriving DecidableEq, Repr

/-- A piece of a KV LOAD or STORE that waits for its translation (R199). -/
structure KvPiece where
  core : Nat
  uid : Nat
  write : Bool
  addr : Nat                -- KV address
  len : Nat
  local_ : Nat
  deriving DecidableEq, Repr

/-- A walk: the word being read and the pieces that wait for it. -/
structure Walk where
  lane : Nat
  word : Nat
  started : Bool
  pieces : List KvPiece
  deriving DecidableEq, Repr

/-- Walker counters (Table 9.9). -/
structure WalkRec where
  lookups : Nat := 0
  misses : Nat := 0
  cycles : Nat := 0
  faults0d : Nat := 0
  faults0e : Nat := 0
  sealWrites : Nat := 0
  deriving DecidableEq, Repr

/-- One region's page walker. -/
structure Walker where
  lanes : List LaneRec := []
  looks : List Look := []   -- most recently used first, at most 128
  walks : List Walk := []
  ready : List KvPiece := []     -- pieces whose walk is over and that wait for a READ to be answered (R178)
  ctr : WalkRec := {}
  last : WalkRec := {}
  deriving DecidableEq, Repr

def walker0 : Walker := {}

/-- Micro-program words 0 to 15 (Table 7.4). -/
def stockProgram : List Nat :=
  [0x5800000B, 0x40000000, 0x0800000A, 0x18000000, 0x28000003, 0x30000002, 0x38000000, 0x28000006, 0x48000001,
   0x50000000, 0x48000009, 0x0800000A, 0x10000000, 0x20000000, 0x2800000C, 0x4800000B]

/-- BNK at reset (Table 7.9). -/
def bnkReset : BnkBlk :=
  { units := [], stock := false, imageWords := false, firstWord := 32, words := [], selTile := 0, selBank := 0,
    done := 0, refused := 0, faulted := 0 }

end Sys2Proof.Machine
end

