-- ==== Sys2Proof/Machine/BlocksCore.lean ====
section
/-! DEFINITION. State of the cores: sequencers, contexts, unit queues, panes, amax and exception records (chapters 03 to
05). Units are held in sparse maps by number; a core that nothing has touched is not listed. -/
namespace Sys2Proof.Machine

/-- An active LOOP (R68). -/
structure LoopFr where
  first : Nat               -- table index of the body's first descriptor
  past : Nat                -- table index after the body
  iter : Nat
  count : Nat               -- iterations
  memStep : Int
  csStep : Int
  deriving DecidableEq, Repr

/-- An amax record (Table 4.9). -/
structure Amax where
  amax : Nat := 0           -- FP32 code
  nans : Nat := 0
  infs : Nat := 0
  sats : Nat := 0
  unders : Nat := 0
  elements : Nat := 0
  frame : Nat := 0
  outFmt : Nat := 0
  flags : Nat := 0
  deriving DecidableEq, Repr

/-- One entry of an exception record (Table 5.5). -/
structure ExcEntry where
  count : Nat := 0
  row : Nat := 0
  col : Nat := 0
  kblock : Nat := 0
  sticky : Bool := false
  pane : Nat := 0
  desc : Nat := 0
  seen : Nat := 0           -- tc of the first occurrence (R120; the model's own, log 104)
  deriving DecidableEq, Repr

/-- A buffer posted by RECV (R58). -/
structure Posted where
  channel : Nat
  uid : Nat
  addr : Nat                -- core-store byte address
  len : Nat                 -- bytes
  taken : Option (Nat × Nat) := none   -- core and queue entry of the SEND that fills it
  got : Nat := 0            -- bytes of that SEND so far
  bad : Bool := false       -- its length differs: it is taken in and written nowhere (R58)
  deriving DecidableEq, Repr

/-- A SEND, or its first packets, in a save area (R59). Its bytes stand in memory. -/
structure Arrival where
  channel : Nat
  src : Nat × Nat           -- core and queue entry of the SEND
  total : Nat
  off : Nat                 -- byte offset past the swap set of the save area
  got : Nat                 -- bytes written so far
  deriving DecidableEq, Repr

/-- One context of a core (R54, R65, R68, R73). -/
structure Ctx where
  role1 : Nat := 0          -- 1 + role bound, 0 none
  idle : Bool := true       -- the role is idle in this frame's template
  pos : Nat := 0            -- table index the sequencer dispatches next
  ended : Bool := false     -- the end of the table has been passed
  loops : List LoopFr := [] -- innermost first
  ctrs : List Nat := List.replicate 16 0
  stopped : Bool := false   -- by a descriptor fault (R76)
  fault : Nat := 0          -- last fault code this frame
  faultIdx : Nat := 0
  cut : Bool := false       -- cut off at a slat boundary (R36)
  yielded : Bool := false   -- holds at a yield (R56)
  amax : SMap Amax := []
  excs : List ExcEntry := List.replicate 6 {}
  posted : List Posted := []
  arrivals : List Arrival := []            -- SENDs in the save area (R59)
  saved : Bool := false     -- the save area holds its fixed state (R73)
  seqSaved : Bool := false  -- the position, loops and counters there are those of the present frame
  saveBad : Bool := false   -- the last save could not be performed (R149)
  srCount : Nat := 0        -- stochastic-rounding draws this frame (R96)
  publish : Bool := false   -- records wait to be published at the next restore (R100)
  frame : Nat := 0          -- frame of this state
  deriving DecidableEq, Repr

/-- The six unit queues (R64). -/
inductive UnitQ
  | transfer | message | pane (p : Nat) | vector | bank
  deriving DecidableEq, Repr

/-- A dispatched descriptor, its stepped fields already applied. -/
structure QEntry where
  uid : Nat
  q : UnitQ
  slot : Nat
  role : Nat
  idx : Nat                 -- descriptor index within the table
  w0 : Nat
  w1 : Nat
  started : Bool := false
  done : Bool := false
  fault : Nat := 0
  need : Nat := 0           -- requests, halves or rows in all
  issued : Nat := 0
  got : Nat := 0            -- those finished
  since : Nat := 0          -- tc of its start, and of a pane's last A step or drain word (R125)
  deriving DecidableEq, Repr

/-- A core's sequencer and queues. -/
structure CoreSt where
  resident1 : Nat := 0      -- 1 + resident slot, 0 none
  switch1 : Nat := 0        -- 1 + slot being restored, 0 none
  queue : List QEntry := []
  nextUid : Nat := 0
  faultFrames : List Nat := []   -- frames with fault 0x01 or 0x0C, newest first (R77)
  deriving DecidableEq, Repr

/-- An accumulator half that waits for or is in the drain (R108). -/
structure HalfAcc where
  uid : Nat
  half : Nat                -- which half of the file
  outs : List (Nat × Nat × Nat)  -- outputs not drained yet: row, column, accumulator code
  deriving DecidableEq, Repr

/-- The exact sum of one accumulator update as it forms (R90 to R92, R117). -/
structure PartSum where
  sum : Val := .fin false 0 0    -- of the finite products
  nan : Bool := false       -- a NaN multiplicand
  zi : Bool := false        -- a product of zero and infinity
  pos : Bool := false       -- a product of +infinity
  neg : Bool := false
  deriving DecidableEq, Repr

/-- One output of a half that is being filled: the update that forms and those formed, each with its k-block. -/
structure FillOut where
  row : Nat
  col : Nat
  part : PartSum := {}
  ups : List (Nat × Val) := []
  deriving DecidableEq, Repr

/-- The half a pane is filling (R108). -/
structure Fill where
  uid : Nat
  half : Nat
  index : Nat               -- m-tile and n-block: t * nb + j
  block : Nat               -- next k-block
  outs : List FillOut
  deriving DecidableEq, Repr

/-- A pane's counter record (Table 5.4). -/
structure PaneCtr where
  issue : Nat := 0
  held : Nat := 0
  freezeA : Nat := 0
  freezeB : Nat := 0
  freezeD : Nat := 0
  tail : Nat := 0
  matmuls : Nat := 0
  deriving DecidableEq, Repr

/-- One pane. -/
structure Pane where
  lastHalf : Nat := 1       -- the half used last (R108); which half comes first after reset is the model's choice (log 105)
  fill : Option Fill := none
  halves : List HalfAcc := []    -- oldest first, at most two with the one being filled
  ctr : PaneCtr := {}
  last : PaneCtr := {}      -- record of the ended frame
  deriving DecidableEq, Repr

def ctx0 : Ctx := {}
def core0 : CoreSt := {}
def pane0 : Pane := {}
def amax0 : Amax := {}

/-- Records that a context has published for the next report (R100, R120, R409). -/
structure PubRec where
  core : Nat
  slot : Nat
  amax : SMap Amax
  excs : List ExcEntry
  frame : Nat
  deriving DecidableEq, Repr

/-- All the cores. -/
structure CoresBlk where
  desc : SMap Nat           -- descriptor stores: core * 4096 + index -> 128-bit descriptor
  store : Memory            -- core stores: core * 2^20 + byte address
  ctx : SMap Ctx            -- core * 4 + slot
  core : SMap CoreSt
  pane : SMap Pane          -- core * 2 + pane
  published : List PubRec
  deriving DecidableEq, Repr

/-- Cores at reset: stores zero (log 5), no role bound. -/
def coresReset : CoresBlk := { desc := [], store := [], ctx := [], core := [], pane := [], published := [] }

end Sys2Proof.Machine
end

