-- ==== Sys2Proof/Machine/BlocksHost.lean ====
section
/-! DEFINITION. State of the blocks the host and the board see first: keeper and device state, pins, floor plan, host
interface, events and reports, debug. Each structure names the registers it holds; its reset value stands beside it. -/
namespace Sys2Proof.Machine

/-- Device states, Table 17.1. -/
inductive DevState
  | rom | staging | ready | checking | running | suspended | halted
  deriving DecidableEq, Repr

/-- `DEV.STATE.state` code, Table 17.1. -/
def DevState.code : DevState → Nat
  | .rom => 0 | .staging => 1 | .ready => 2 | .checking => 3 | .running => 4 | .suspended => 5 | .halted => 6

/-- Where step 1 of bring-up stands (R310, R311, R360). -/
inductive BootPhase
  | unpowered     -- no rails
  | inReset       -- PERST_N asserted
  | oscWait       -- OSC_EN high, the OSC_WAIT delay runs
  | pllStart      -- the system PLL has been started
  | pllFailed     -- three attempts failed: the module stays in reset
  | romRuns       -- the keeper runs
  deriving DecidableEq, Repr

/-- Features the accepted licences enable (Table 0.3). -/
structure Features where
  links : Nat := 0          -- bit l: link l licensed
  w2w1 : Bool := false
  req : Bool := false
  cxlMem : Bool := false
  deriving DecidableEq, Repr

/-- A fence-table entry, `FLP.CORE[n]` (Table 1.13). -/
structure CoreFence where
  pane0 : Bool := false
  pane1 : Bool := false
  core : Bool := false
  tile : Bool := false
  banks : Nat := 0          -- bit b: bank b fenced
  pane0Cause : Nat := 0
  pane1Cause : Nat := 0
  coreCause : Nat := 0
  tileCause : Nat := 0
  deriving DecidableEq, Repr

/-- Values fused for each module (R441, R17, Table 17.9): kept across everything. -/
structure Fuses where
  grade : Nat               -- 1 X, 2 S, 3 E
  serial : Nat              -- 64 bits
  fences : SMap CoreFence   -- the fused fence list (cause 0x1)
  sentinels : List Nat      -- 16 region columns
  shipped : Nat             -- good panes at final test
  binTrim : SMap Nat        -- per region, 8 bits
  theta : SMap Nat          -- per region, theta_r
  tau : SMap Nat            -- per region, tau_r in ms
  coupling : SMap Nat       -- forecast coupling of a sentinel column, q * 4 + layer
  seed : List Nat           -- 32-byte identity seed
  deriving DecidableEq, Repr

/-- Keeper, `DEV.STATE`, the KPR block and the pins of Table 21.1 that hold state. -/
structure KprBlk where
  state : DevState
  prev : DevState
  step : Nat                -- last bring-up step completed
  belowGrade : Bool
  haltCause : Nat
  resetCause : Nat
  boot : BootPhase
  railsUp : Bool
  perst : Bool              -- level of PERST_N: true released
  oscEn : Bool
  pllTries : Nat            -- failed attempts of the system PLL
  oscWait : Nat             -- strap as latched, 3 bits
  maddr : Nat               -- strap as latched, 2 bits
  blanked : Bool            -- every laser blanked by reset or HALTED
  fwResult : Nat            -- KPR.STATUS.result
  fetched : Nat
  fwAddr : Nat              -- bits [63:12]
  fwLen : Nat
  licAddr : Nat
  licLen : Nat
  fwVersion : Nat
  licAccepted : Nat
  licRejected : Nat
  fwDigest : List Nat       -- digest of the running firmware
  resident : List Nat       -- the resident part in keeper SRAM
  features : Features
  deriving DecidableEq, Repr

/-- One `FLP.DELTA` entry (Table 1.14). -/
structure Delta where
  tc : Nat := 0
  gen : Nat := 0
  kind : Nat := 0
  cause : Nat := 0
  sub : Nat := 0
  unit : Nat := 0
  deriving DecidableEq, Repr

/-- The floor plan (FLP block). The tables `cores` and `dark` hold fences before publication too (R19). -/
structure FlpBlk where
  valid : Bool
  gen : Nat
  cores : SMap CoreFence
  dark : SMap Bool
  total : Nat               -- DELTA_HEAD.total; `next` is total mod 64
  deltas : SMap Delta       -- key j = 0..63
  deriving DecidableEq, Repr

/-- One HDM decoder and its window (R296, Table 13.9). -/
structure Win where
  committed : Bool := false
  striped : Bool := false
  owner : Nat := 0          -- 0 host, 1 device, 2 moving to device, 3 moving to host
  handovers : Nat := 0
  hpa : Nat := 0
  dpa : Nat := 0            -- packed DPA start
  size : Nat := 0
  error : Bool := false     -- Error Not Committed
  lock : Bool := false      -- Lock On Commit
  deriving DecidableEq, Repr

/-- The Advanced Error Reporting capability (Tables 13.1 and 13.4, R305); bit numbers, layout and reset values are the
PCI Express capability's (log 99). -/
structure Aer where
  status : Nat := 0               -- Uncorrectable Error Status
  mask : Nat := 0x400000          -- Uncorrectable Error Mask
  severity : Nat := 0x462030      -- Uncorrectable Error Severity
  first : Nat := 0                -- First Error Pointer
  header : List Nat := []         -- header log of that error: requester kind, address, length
  deriving DecidableEq, Repr

/-- Host interface (HIF block, MSI-X, configuration-space state the rules name). -/
structure HifBlk where
  linkUp : Bool
  speed : Nat
  width : Nat
  mode : Nat                -- 2 and 3 are CXL
  memActive : Bool
  bme : Bool
  d3hot : Bool
  baseGib : Nat
  ownedDiscards : Nat
  poisonReturned : Nat
  completerAborts : Nat
  unsupported : Nat
  poisonedIn : Nat
  errKind : Nat
  errWindow : Nat
  errAddr : Nat
  win : List Win            -- 4
  stagingDiscards : Nat     -- writes into the locked staging span discarded so far (R240; the event's count, log 103)
  discardSeen : Bool        -- a discarded CXL.mem write has raised its first event (R303)
  discardWin : Nat          -- 1 ms window of the last such event
  msixAddr : SMap Nat       -- vector -> address
  msixData : SMap Nat
  msixUnmask : SMap Nat     -- vector control complemented in bit 0: unlisted is masked
  pba : Nat                 -- pending bits
  aer : Aer
  doeBusy : Bool
  doeError : Bool
  doeOut : List Nat         -- response data object waiting in the mailbox
  cxlEvents : List Nat      -- handles of CXL event records held
  deriving DecidableEq, Repr

/-- One event record before its phase and lost bits are known (Table 19.1). -/
structure EvtRec where
  tc : Nat
  frame : Nat
  kind : Nat
  severity : Nat
  seq : Nat
  reason : Nat
  unit : Nat
  count : Nat
  data : List Nat           -- 32-bit fields from byte 32
  deriving DecidableEq, Repr

/-- Report settings (`EVT.REPORT_BASE`, `REPORT_CTRL`, `AMAX_SEL`, `REGION_SEL`). -/
structure RepSet where
  base : Nat := 0           -- bits [63:12]
  slotsLog2 : Nat := 0
  every : Nat := 0
  slotLog2 : Nat := 16
  sections : Nat := 0
  vector : Nat := 0
  signal : Bool := false
  amax : Nat := 0
  regions : List Nat := List.replicate 8 0
  deriving DecidableEq, Repr

/-- A frame report being written (R406). -/
structure ReportRun where
  addr : Nat
  frame : Nat
  bytes : List Nat          -- the slot's bytes from byte 8 on
  truncated : Bool
  vector : Nat
  signal : Bool
  deriving DecidableEq, Repr

/-- A report whose frame has ended and whose outcome is not known yet (R406): its settings and its sections' entries. -/
structure Prepared where
  rep : RepSet
  frame : Nat               -- number of the frame
  entries : List (List (List Nat))
  deriving DecidableEq, Repr

/-- Events and reports (EVT block). -/
structure EvtBlk where
  ringAddr : Nat            -- bits [63:12]
  sizeLog2 : Nat
  enable : Bool
  vector : Nat
  coalN : Nat
  coalUs : Nat
  minSev : Nat
  head : Nat
  tail : Nat
  phase : Bool
  written : Nat
  lost : Nat
  limited : Nat
  filtered : Nat
  hold : List EvtRec        -- in seq order, at most 512
  nextSeq : Nat
  lostFlag : Bool           -- the next record written carries lost
  unsignalled : Nat
  unsignalledAt : Nat       -- tc of the first record not yet signalled
  refusedSec : Nat          -- second of the kind 0x0002 window (R401, R436)
  refusedN : Nat
  rep : RepSet              -- as written
  repNow : RepSet           -- in force in the present frame (R412)
  repLast : Nat
  repSkipped : Nat
  repTruncated : Nat
  prepared : List Prepared  -- oldest first
  running : Option ReportRun
  deriving DecidableEq, Repr

/-- Telemetry: the management endpoint (R410, R411, R428). -/
structure TelBlk where
  receiver : Option Nat     -- SetEventReceiver
  polls : Bool              -- the receiver polls by SMBus
  waiting : List (Nat × List Nat)  -- event messages that wait for its poll, oldest first
  pemSec : Nat
  pemN : Nat
  alert : Bool              -- SMB_ALERT_N asserted
  i3c : Option Nat          -- dynamic address
  eid : Nat                 -- MCTP endpoint ID
  deriving DecidableEq, Repr

/-- DBG block, Tables 20.5 to 20.7. -/
structure DbgBlk where
  paritySeen : Bool
  selChanged : Bool
  core : Nat
  slot : Nat
  csBase : Nat
  deriving DecidableEq, Repr

/-- What the block puts on its pins, links and bus, newest first. The model's own record of outputs. -/
inductive Output
  | data (bytes : List Nat)
  | poison
  | completerAbort
  | unsupportedRequest
  | done                                  -- a normal completion without data
  | msix (vector : Nat)
  | pem (kind : Nat) (bytes : List Nat)   -- PlatformEventMessage
  | mctp (bytes : List Nat)
  | doe (bytes : List Nat)
  | reading (id : Nat) (value : Option Int)
  | mailbox (code : Nat) (bytes : List Nat)
  | link (l : Nat) (class_ : Nat) (lanes : List (Nat × List Nat))  -- a flit: lane, the bytes it carries in order
  | training (l : Nat) (bytes : List Nat)  -- training words with this device's ID
  | symbol (l tc master depth : Nat)
  | errorMessage (bit : Nat) (fatal : Bool)  -- an AER error message (log 99)
  deriving DecidableEq, Repr

/-- Sparse-map defaults of the floor plan. -/
def coreFence0 : CoreFence := {}
/-- Default of the delta log. -/
def delta0 : Delta := {}

/-- Fuses of the model's reset state: log 3 (DESIGN CHOICE: R441 gives no default). -/
def fusesReset : Fuses :=
  { grade := 1, serial := 0, fences := [], sentinels := [0, 1, 2, 3, 32, 33, 34, 35, 64, 65, 66, 67, 96, 97, 98, 99],
    shipped := 24576, binTrim := [], theta := [], tau := [], coupling := [], seed := List.replicate 32 0 }

/-- Keeper at power-on with PERST_N asserted (R329, Table 17.13). -/
def kprReset : KprBlk :=
  { state := .rom, prev := .rom, step := 0, belowGrade := false, haltCause := 0, resetCause := 0, boot := .inReset,
    railsUp := true, perst := false, oscEn := false, pllTries := 0, oscWait := 0, maddr := 0, blanked := true,
    fwResult := 0, fetched := 0, fwAddr := 0, fwLen := 0, licAddr := 0, licLen := 0, fwVersion := 0,
    licAccepted := 0, licRejected := 0, fwDigest := [], resident := [], features := {} }

/-- Floor plan before publication (R19). -/
def flpReset : FlpBlk := { valid := false, gen := 0, cores := [], dark := [], total := 0, deltas := [] }

/-- Host interface at reset (Tables 13.6 to 13.9). -/
def hifReset : HifBlk :=
  { linkUp := false, speed := 0, width := 0, mode := 0, memActive := false, bme := false, d3hot := false, baseGib := 0,
    ownedDiscards := 0, poisonReturned := 0, completerAborts := 0, unsupported := 0, poisonedIn := 0, errKind := 0,
    errWindow := 0, errAddr := 0, win := List.replicate 4 {}, stagingDiscards := 0, discardSeen := false, discardWin := 0, msixAddr := [],
    msixData := [], msixUnmask := [], pba := 0, aer := {}, doeBusy := false, doeError := false, doeOut := [],
    cxlEvents := [] }

/-- Events at reset (Table 19.11). -/
def evtReset : EvtBlk :=
  { ringAddr := 0, sizeLog2 := 0, enable := false, vector := 0, coalN := 0, coalUs := 0, minSev := 0, head := 0,
    tail := 0, phase := false, written := 0, lost := 0, limited := 0, filtered := 0, hold := [], nextSeq := 0,
    lostFlag := false, unsignalled := 0, unsignalledAt := 0, refusedSec := 0, refusedN := 0, rep := {}, repNow := {},
    repLast := 0, repSkipped := 0, repTruncated := 0, prepared := [], running := none }

/-- Management endpoint at power-up. -/
def telReset : TelBlk := { receiver := none, polls := false, waiting := [], pemSec := 0, pemN := 0, alert := false, i3c := none, eid := 0 }

/-- DBG at reset. -/
def dbgReset : DbgBlk := { paritySeen := false, selChanged := false, core := 0, slot := 0, csBase := 0 }

end Sys2Proof.Machine
end

