-- ==== Sys2Proof/Machine/BlocksMem.lean ====
section
/-! DEFINITION. State of the tiles, their arbiters and the MEM block (chapter 06) and of the on-device network
(chapter 08). -/
namespace Sys2Proof.Machine

/-- What a request at a tile's arbiter or a packet is for. -/
inductive Requester
  | core (n : Nat)          -- by core number: owning or another core
  | bar2
  | cxl
  | peer (device : Nat)
  | keeper
  deriving DecidableEq, Repr

/-- Packet kinds (Table 8.2). -/
inductive PktKind
  | read | write | send | readData | ack | error
  deriving DecidableEq, Repr

/-- Causes an ERROR packet carries (Table 8.2). -/
inductive ErrCause
  | uncorrectable | unmapped | fenced | narrow | notAdmitted
  deriving DecidableEq, Repr

/-- A packet in the network or a request at an arbiter (R172, R178 to R180). -/
structure Packet where
  id : Nat
  kind : PktKind
  src : Nat                 -- endpoint (R174)
  dst : Nat
  tag : Option Nat          -- bits [7:0] of the frame number (R179)
  addr : Nat                -- device physical address, or receive channel of a SEND
  len : Nat                 -- bytes
  bytes : List Nat
  slot : Nat                -- destination slot of a SEND
  core : Nat                -- issuing core
  uid : Nat                 -- issuing descriptor's entry
  local_ : Nat              -- core-store byte address the data comes from or goes to
  off : Nat                 -- place of a SEND packet's bytes in its SEND
  total : Nat               -- whole length of the SEND
  err : Option ErrCause
  unsent : Nat              -- flits that still wait for a credit at the source (R184)
  hops : List (Nat × Nat)   -- the route's links, each 4 × link + virtual channel, with the flits in its receiver's buffer
  aged : Bool               -- moved to order 2 (R131)
  arrived : Nat := 0        -- 1 + tc at which its header reached the arbiter, 0 not yet (R131)
  done : Nat := 0           -- bytes the arbiter has served (R130)
  asked : Bool := false     -- an ERROR that answers a READ (R178)
  deriving DecidableEq, Repr

/-- An owner transfer piece waiting at its tile's arbiter (R130). -/
structure SashReq where
  core : Nat
  uid : Nat
  write : Bool
  addr : Nat
  len : Nat
  local_ : Nat
  done : Nat := 0           -- bytes served
  deriving DecidableEq, Repr

/-- A request of the host or of a peer that a retraining tile holds (R148). -/
inductive HeldReq
  | bar2Read (a len : Nat) (parity : Bool)
  | bar2Write (a : Nat) (bytes : List Nat) (parity : Bool)
  | cxlRead (a : Nat) (parity : Bool)
  | cxlWrite (a : Nat) (parts : List (Nat × List Nat)) (parity : Bool)   -- addresses and bytes of its whole halves
  | peerWrite (l : Nat) (f : Flit) (parity : Bool)  -- from link `l`
  | peerRead (l : Nat) (f : Flit) (parity : Bool)
  deriving DecidableEq, Repr

/-- One tile: counters, refresh and scrub state (Tables 6.7 and 6.17, R140, R144, R145, R148). -/
structure Tile where
  refresh : Nat := 0        -- 0 Normal, 1 Double, 2 Throttled
  corrected : Nat := 0
  uncorrectable : Nat := 0
  hardWords : Nat := 0
  maxOwed : Nat := 0
  window : Nat := 0         -- index of the R145 window
  windowCorrected : Nat := 0
  windowRaised : Bool := false
  run : Nat := 0            -- next scrub run
  passes : Nat := 0
  retraining : Bool := false
  parityTimes : List Nat := []   -- tc of the last four datapath parity errors, newest first
  parityDue : Bool := false      -- four of them have come within a second (R140)
  scrubNext : Nat := 0           -- tc at which the next scrub run falls due (R144)
  cool83 : Nat := 0         -- 1 + tc since which the reading is at most 83 °C, 0 not
  cool93 : Nat := 0
  queue : List SashReq := []     -- owner requests waiting
  holds : List HeldReq := []     -- requests of the host and of peers that wait for a retraining, oldest first
  deriving DecidableEq, Repr

def tile0 : Tile := {}

/-- The memory and the MEM block. -/
structure MemBlk where
  dram : Memory             -- data bytes by device physical address
  check : Memory            -- check byte i of the code word at a: key a / 32 * 4 + i
  tiles : SMap Tile
  owed : SMap Nat           -- tile * 32 + bank -> refreshes owed
  hard : SMap Nat           -- stuck symbols: word * 36 + symbol -> 1 + the byte it reads as (R139)
  dpBad : List Nat          -- tiles whose datapath fails parity in the command under way (the model's own, log 102)
  openRows : SMap Nat       -- (tile * 32 + bank) * 4 + sub-array -> 1 + row
  selftestDone : Bool
  ready : Bool
  scrubEnable : Bool
  scrubPeriod : Nat
  ceWindow : Nat
  ceCount : Nat
  corrected : Nat
  busErrors : Nat
  hardWords : Nat
  berrAddr : Nat
  berrRequester : Nat
  berrSource : Nat
  berrCause : Nat
  berrWrite : Bool
  berrSyndrome : Nat
  narrowCount : Nat
  narrowEntrance : Nat
  narrowSource : Nat
  narrowAddr : Nat
  narrowWin : Nat           -- 1 + index of the 1 ms window of the last narrow-write event, 0 none
  ueSec : Nat               -- second of the R138 window
  ueN : Nat
  deriving DecidableEq, Repr

/-- A region's network record (Table 8.7). -/
structure NetRec where
  flitsOut : Nat := 0
  aged : Nat := 0
  suppressed : Nat := 0
  replays : Nat := 0
  deriving DecidableEq, Repr

/-- A sill's network record (Table 8.8). -/
structure SillRec where
  aFlits : Nat := 0
  bFlits : Nat := 0
  replays : Nat := 0
  deriving DecidableEq, Repr

/-- Replay state of an on-device link (R185). -/
structure LinkReplay where
  inRow : Nat := 0          -- replays of the present flit
  sec : Nat := 0
  inSec : Nat := 0
  deriving DecidableEq, Repr

def netRec0 : NetRec := {}
def linkReplay0 : LinkReplay := {}

/-- The on-device network. -/
structure NetBlk where
  packets : List Packet     -- in flight or at an arbiter, those at an arbiter in their order of arrival
  held : List Packet        -- SENDs held at a destination without a posted RECV (R180)
  nextId : Nat
  taps : SMap Nat           -- hinge FIFO (the link into it) -> synchroniser tap (R181)
  replay : SMap LinkReplay
  regions : SMap NetRec     -- the present frame
  regionsLast : SMap NetRec -- the ended frame
  sills : List SillRec
  sillsLast : List SillRec
  waits : Nat               -- names the ended frame's counts that the model leaves free
  order : Nat               -- route table (R176)
  via : Nat
  deriving DecidableEq, Repr

/-- MEM at reset (Tables 6.10 to 6.17). -/
def memReset : MemBlk :=
  { dram := [], check := [], tiles := [], owed := [], hard := [], dpBad := [], openRows := [], selftestDone := false, ready := false,
    scrubEnable := true, scrubPeriod := 0x18, ceWindow := 0x0E10, ceCount := 0x400, corrected := 0, busErrors := 0,
    hardWords := 0, berrAddr := 0, berrRequester := 0, berrSource := 0, berrCause := 0, berrWrite := false,
    berrSyndrome := 0, narrowCount := 0, narrowEntrance := 0, narrowSource := 0, narrowAddr := 0, narrowWin := 0,
    ueSec := 0, ueN := 0 }

/-- The network at reset: no packet, every credit free, default routes (R176). -/
def netReset : NetBlk :=
  { packets := [], held := [], nextId := 0, taps := [], replay := [], regions := [], regionsLast := [],
    sills := List.replicate 4 {}, sillsLast := List.replicate 4 {}, waits := 0, order := 0, via := 0 }

end Sys2Proof.Machine
end

