-- ==== Sys2Proof/Machine/BlocksPlan.lean ====
section
/-! DEFINITION. State of frames and time (FRM, CLK.TC) and of the Flital image (DEV loading and enabling). -/
namespace Sys2Proof.Machine

/-- One section of an image: its table entry and its bytes (Table 11.2). -/
structure Section where
  ty : Nat
  records : Nat
  offset : Nat
  size : Nat
  bytes : List Nat
  deriving DecidableEq, Repr

/-- A verified image: header fields (Table 11.1) and sections. -/
structure Image where
  version : Nat
  length : Nat
  sigOff : Nat
  keySlot : Nat
  minFw : Nat
  imageId : Nat
  roundSeed : Nat
  sections : List Section
  digest : List Nat
  deriving DecidableEq, Repr

/-- A load in progress (R239): the span it took from the registers when it started. -/
structure LoadRun where
  first : Nat
  length : Nat
  acceptedTc : Nat
  deriving DecidableEq, Repr

/-- A consistency check in progress (R244). -/
structure CheckRun where
  fromSuspended : Bool
  acceptedTc : Nat
  fenced : Bool              -- a fence has landed since acceptance (R245)
  deriving DecidableEq, Repr

/-- Loading and enabling (DEV block, Tables 11.9 to 11.12). -/
structure DevBlk where
  result : Nat
  sect : Nat
  detail : Nat
  reason : Nat
  baseTile : Nat
  imageLen : Nat
  image : Option Image       -- the loaded image
  inForce : Bool             -- it has entered RUNNING
  loadRun : Option LoadRun
  checkRun : Option CheckRun
  lock : Option (Nat × Nat)  -- staging span locked: first tile, length (R240)
  staged : Option (Nat × Nat) -- span the loaded image was staged in: first tile, length (0x0304)
  suspendReq : Bool          -- SUSPENDED is due at E
  rebinds : SMap Nat         -- role -> 1 + index of the spare record it is bound to (R249)
  spareUsed : SMap Bool      -- spare record index -> used
  lastRole : Nat
  deriving DecidableEq, Repr

/-- A vote received for the next frame (Table 2.2). -/
structure Vote where
  flags : Nat := 0
  frame : Nat := 0
  level : Nat := 0
  start : Nat := 0
  period : Nat := 0
  present : Bool := false
  deriving DecidableEq, Repr

/-- A completion received (Table 2.2). -/
structure Completion where
  flags : Nat := 0
  frame : Nat := 0
  present : Bool := false
  deriving DecidableEq, Repr

/-- A role found incomplete at E (report section 1). -/
structure Incomplete where
  role : Nat
  core : Nat
  slot : Nat
  fault : Nat
  index : Nat
  deriving DecidableEq, Repr

/-- What the planner and the report know of the frame that has ended or is running. -/
structure FrameFacts where
  number : Nat := 0
  start : Nat := 0
  period : Nat := 0
  level : Nat := 0
  template : Nat := 0
  lockstep : Bool := false
  faulted : Bool := false          -- R45 or R46
  overrun : Bool := false          -- completion bit 0
  suppressed : Bool := false       -- completion bit 1
  fenced : Bool := false           -- completion bit 2
  incompletes : List Incomplete := []
  faults : Nat := 0                -- descriptor faults
  fences : Nat := 0                -- units fenced during the frame
  overAllow : Nat := 0             -- region-slats over the allowance
  lockstepFault : Bool := false
  confirmed : Bool := false
  dropped : Bool := false          -- R48
  buffers : List Nat := []         -- result buffers whose roles were all complete at E
  deriving DecidableEq, Repr

/-- A lockstep frame that has ended and awaits confirmation, with the completions received for it, by device (R47). -/
structure Awaited where
  facts : FrameFacts
  completions : SMap Completion := []
  deriving DecidableEq, Repr

/-- Where the frame cycle stands. -/
inductive FramePhase
  | idle        -- no frame runs
  | waiting     -- the next frame's start is fixed and not yet reached
  | inFrame
  deriving DecidableEq, Repr

/-- Stretch record of a region (Table 2.14) with the present frame's counts. -/
structure Stretch where
  lastLoss : Nat := 0
  overAllow : Nat := 0
  worstSlat : Nat := 0
  nowLoss : Nat := 0
  nowWorst : Nat := 0
  nowOver : Nat := 0
  lastOver : Nat := 0
  deriving DecidableEq, Repr

/-- Default of the stretch table. -/
def stretch0 : Stretch := {}

/-- Frames, slats and time (FRM block, `CLK.TC`). -/
structure FrmBlk where
  tc : Nat
  tcRuns : Bool             -- step 4 has started the time counter
  phase : FramePhase
  count : Nat
  frameStart : Nat
  period : Nat
  slatsM1 : Nat
  allowance : Nat
  planLead : Nat
  startReg : Nat
  latch : Nat
  nextArm : Bool
  nextPeriod : Nat
  lastGood : Nat
  lastDrop : Nat
  overruns : Nat
  lockFaults : Nat
  members : Nat
  confirmWait : Nat
  slats : List (Nat × Nat)  -- louvre, offset; 16 entries
  results : List Nat        -- 64 entries
  stretch : SMap Stretch
  slat : Nat
  nextAt : Nat              -- start tc of the next frame
  nextNumber : Nat          -- its number
  planned : Bool            -- the plan point of the present frame has passed
  votes : SMap Vote         -- by device, for the next frame
  voteBad : Bool            -- own vote carries bit 3 (alignment lost)
  awaiting : List Awaited   -- lockstep frames that await confirmation, oldest first (R47)
  completionsNext : SMap Completion -- completions that came before this member's own E
  now : FrameFacts          -- the present frame
  ended : FrameFacts        -- the last ended frame
  dropNext : Bool           -- R48: the frame after the faulted one is dropped
  fencedNow : List (Nat × Nat × Nat)  -- kind, unit, bank of the units fenced in this frame, oldest first (R250)
  deriving DecidableEq, Repr

/-- All ones of 64 bits. -/
def ones64 : Nat := 2 ^ 64 - 1

/-- Defaults of the record maps. -/
def vote0 : Vote := {}
/-- Default of the completion maps. -/
def completion0 : Completion := {}

/-- FRM at reset (Tables 2.5 to 2.14). -/
def frmReset : FrmBlk :=
  { tc := 0, tcRuns := false, phase := .idle, count := 0, frameStart := 0, period := 0, slatsM1 := 0, allowance := 0,
    planLead := 0, startReg := 0, latch := 0, nextArm := false, nextPeriod := 0, lastGood := ones64,
    lastDrop := ones64, overruns := 0, lockFaults := 0, members := 0, confirmWait := 0,
    slats := List.replicate 16 (0, 0), results := List.replicate 64 ones64, stretch := [], slat := 0, nextAt := 0,
    nextNumber := 0, planned := false, votes := [], voteBad := false, awaiting := [],
    completionsNext := [], now := {}, ended := {}, dropNext := false, fencedNow := [] }

/-- DEV at reset (Tables 11.9 to 11.12). -/
def devReset : DevBlk :=
  { result := 0, sect := 255, detail := 0, reason := 0, baseTile := 0, imageLen := 0, image := none, inForce := false,
    loadRun := none, checkRun := none, lock := none, staged := none, suspendReq := false, rebinds := [],
    spareUsed := [], lastRole := 0 }

end Sys2Proof.Machine
end

