-- ==== Sys2Proof/Machine/BlocksPower.lean ====
section
/-! DEFINITION. State of the clocks (chapter 14), power delivery and the power cap (chapters 15 and 16), the
temperature side (chapter 16) and of protection (chapter 18). -/
namespace Sys2Proof.Machine

/-- One region's clocks, `CLK.REGION[r]` (Table 14.9); `ramping` is `divisor ≠ target`. -/
structure ClkRegion where
  source : Nat := 3         -- 0 own generator, 1 fall-back mesh, 2 stopped, 3 not started
  divisor : Nat := 0
  target : Nat := 0         -- where the steps of R318 end
  nextStep : Nat := 0       -- tc of the next step
  lockLost : Bool := false
  holding : Bool := false   -- clocks held between the loss of lock and the switch to the mesh (R317)
  droopEvents : Nat := 0
  plus1 : Nat := 0          -- last ended frame
  plus2 : Nat := 0
  now1 : Nat := 0           -- present frame
  now2 : Nat := 0
  stopUntil : Nat := 0      -- the core clock is stopped until this tc (R320)
  deriving DecidableEq, Repr

def clkRegion0 : ClkRegion := {}

/-- CLK block; the time counter itself is `FrmBlk.tc`. -/
structure ClkBlk where
  started : Bool            -- step 4 has run: the registers read
  limit : Nat               -- `CLK.LIMIT.divisor_min`
  nextArm : Bool
  nextDivisor : Nat
  refOk : Bool
  sillLocked : Bool
  tcLocked : Bool
  regions : SMap ClkRegion
  deriving DecidableEq, Repr

/-- CLK at reset (Tables 14.7 to 14.9). -/
def clkReset : ClkBlk :=
  { started := false, limit := 4, nextArm := false, nextDivisor := 0, refOk := false, sillLocked := false,
    tcLocked := false, regions := [] }

/-- One regulator group, `PWR.GROUP[r]` (Table 15.9). -/
structure Group where
  setpoint : Nat := 0       -- mV
  planned : Nat := 0        -- set-point planned for the next frame, 0 none (R330)
  vMin : Nat := 0
  vOut : Nat := 0
  current : Nat := 0        -- 10 mA
  phasesFailed : Nat := 0
  shutter : Nat := 0        -- 0 open, 1 closed, 2 opening, 3 dark
  dutyLimited : Bool := false
  dutyNext : Bool := false  -- the limit governs the next frame: it stood at the plan point (R335)
  dutyNow : Bool := false   -- the limit governs the present frame
  bondSuspect : Bool := false
  sensorsExcluded : Nat := 0
  shuntFires : Nat := 0     -- last ended frame
  nowFires : Nat := 0
  irModel : Nat := 0        -- 0.01 mΩ
  irSamples : Nat := 0      -- samples learned, up to 1,000
  excessSince : Nat := 0    -- 1 + tc since which the excess has stayed above 25 mV, 0 not
  openDeferred : Nat := 0
  deferFrame : Nat := 0     -- 1 + frame of the last deferral event, 0 none
  wantOpen : Bool := false  -- opens at the next slat boundary that allows it (R340)
  openAt : Nat := 0         -- boundary B at which the opening began
  deriving DecidableEq, Repr

def group0 : Group := {}

/-- One rail, `PWR.RAIL[k]`. The set-point of VCORE is the bus set-point, which follows from the regions' (R330). -/
structure Rail where
  setpoint : Nat := 0
  measured : Nat := 0
  current : Nat := 0
  deriving DecidableEq, Repr

/-- The plan of the next frame as the plan point chose it (R354, R355). -/
structure Plan where
  own : Nat := 0
  level : Nat := 0
  divisors : SMap Nat := []   -- raised d(r), only regions above the level's divisor
  demote : List Nat := []     -- regions demoted
  raised : Nat := 0
  demoted : Nat := 0
  thermal : Bool := false
  budget : Bool := false
  limit : Bool := false
  votes : Bool := false
  limitDiv : Nat := 4         -- `CLK.LIMIT` as the plan point found it (R322)
  deriving DecidableEq, Repr

/-- PWR block. -/
structure PwrBlk where
  cap1 : Nat
  cap8 : Nat
  force1 : Nat              -- cap governing the current frame
  force8 : Nat
  next1 : Nat               -- caps the last plan point fixed for the next frame
  next8 : Nat
  samples1 : List Nat       -- newest first, at most 1,000 samples of 1 ms
  samples8 : List Nat       -- at most 8,000
  avg1 : Nat
  avg8 : Nat
  overEvents : Nat
  overSec : Nat             -- 1 + second of the last warn event, 0 none
  budget : Nat
  fixed : Nat
  compute : Nat
  links : Nat
  estimate : Nat
  measured : Nat
  k : Nat                   -- 1/4,096
  kNext : Nat               -- takes effect at the next plan point (R351)
  trims : Nat
  lowReports : Nat
  lowHour : Nat             -- 1 + hour of the last info event, 0 none
  energies : List Nat       -- energy table of the activity estimator (R363)
  plan : Plan
  nowPlan : Plan            -- plan of the present frame
  deriving DecidableEq, Repr

/-- Power delivery beside the caps. -/
structure SupBlk where
  capLimited : Bool
  limiting : Bool
  inputWarn : Bool
  railsOk : Nat
  stage1Ok : Nat
  voltage : Nat
  current : Nat
  power : Nat
  peak : Nat
  nowPeak : Nat
  engagements : Nat
  limitedUs : Nat
  engagedAt : Nat
  limitMs : Nat             -- 1 + millisecond of the last limiter event, 0 none
  rails : List Rail
  params : List Nat         -- regulator parameters of the keeper firmware (R363)
  groups : SMap Group
  deriving DecidableEq, Repr

/-- PWR caps at reset (Table 16.9). -/
def pwrReset : PwrBlk :=
  { cap1 := 0x5DC, cap8 := 0x5AA, force1 := 0, force8 := 0, next1 := 0x5DC, next8 := 0x5AA, samples1 := [],
    samples8 := [], avg1 := 0, avg8 := 0, overEvents := 0, overSec := 0, budget := 0, fixed := 0, compute := 0,
    links := 0, estimate := 0, measured := 0, k := 0x1000, kNext := 0x1000, trims := 0, lowReports := 0, lowHour := 0,
    energies := [], plan := {}, nowPlan := {} }

/-- Power delivery with the rails up and nothing measured yet (R329). -/
def supReset : SupBlk :=
  { capLimited := false, limiting := false, inputWarn := false, railsOk := 15, stage1Ok := 3, voltage := 0,
    current := 0, power := 0, peak := 0, nowPeak := 0, engagements := 0, limitedUs := 0, engagedAt := 0, limitMs := 0,
    rails := [{}, { setpoint := 1050 }, { setpoint := 450 }, { setpoint := 900 }], params := [], groups := [] }

/-- A pair of sensors with what rests on it; temperatures in 1/16 °C. The counters `differSince` and the like hold
1 + the tc since which their condition has held, 0 where it does not. -/
structure Pair where
  a : Nat := 0
  b : Nat := 0
  stateA : Nat := 0         -- 0 good, 1 suspect, 2 failed
  stateB : Nat := 0
  model : Nat := 0
  forecast : Nat := 0
  holdCount : Nat := 0
  modelGoverns : Bool := false
  modelSec : Nat := 0       -- 1 + second of the last info event of R345
  held : Bool := false
  coolSince : Nat := 0
  tripSince : Nat := 0
  differSince : Nat := 0
  demoted : Bool := false
  raised : Bool := false
  demoteSec : Nat := 0
  deriving DecidableEq, Repr

def pair0 : Pair := {}

/-- The 16 sensors of one sill. -/
structure SillHeat where
  readings : List Nat := List.replicate 16 0
  suspect : Nat := 0
  failed : Nat := 0
  held : Bool := false
  coolSince : Nat := 0
  tripSince : Nat := 0
  deriving DecidableEq, Repr

/-- THM block. -/
structure ThmBlk where
  started : Bool            -- step 4 has run
  ready : Bool              -- every sensor has been sampled
  regions : SMap Pair
  mems : SMap Pair
  sills : List SillHeat
  inlet : Nat
  inletFailed : Bool
  theta : Nat               -- 1e-5 °C/W
  qualS : Nat
  base : Nat
  baseValid : Bool
  selfCaptured : Bool
  warning : Bool
  warnedAt : Nat            -- tc of the last warning
  recent : List Nat         -- last 600 qualifying values of the resistance, newest first
  powers : List Nat         -- 1 s averages of the last 60 s, newest first
  below : Nat               -- qualifying seconds in a row below 1.10 times the baseline
  holds : Nat
  demotions : Nat
  modelEvents : Nat
  flagged : Nat
  predicted : List Nat      -- THM.SENTINEL[i].predicted
  deriving DecidableEq, Repr

/-- THM at reset (Tables 16.6 to 16.8). -/
def thmReset : ThmBlk :=
  { started := false, ready := false, regions := [], mems := [], sills := List.replicate 4 {}, inlet := 0,
    inletFailed := false, theta := 0, qualS := 0, base := 0, baseValid := false, selfCaptured := false,
    warning := false, warnedAt := 0, recent := [], powers := [], below := 0, holds := 0, demotions := 0,
    modelEvents := 0, flagged := 0, predicted := List.replicate 16 0 }

/-- Protection: PRT registers, the non-volatile block and the certificates. -/
structure PrtBlk where
  result : Nat
  op : Nat
  pkgAddr : Nat             -- bits [63:12]
  pkgLen : Nat
  running : Nat             -- op of the command in progress, 0 none
  nonce : Option (List Nat)
  scope : Nat               -- unlock scope in force
  block : Memory            -- the 16,384 bytes in force
  seqNo : Nat               -- copy sequence number (R380)
  identity : Bool           -- step 3 has derived the identity key
  certs : List (List Nat)   -- indices 0 to 2
  deriving DecidableEq, Repr

/-- Bytes of the shipment licence: magic, serial 0 (log 3), number 0, no feature beyond
its 32 links (R386, log 3); signature bytes zero (log 7: no signature byte is used, the verdict is an operand). -/
def shipmentLicence : List Nat :=
  [0x4C, 0x55, 0x4D, 0x4C, 0x49, 0x43, 0x00, 0x01] ++ List.replicate 8 0 ++ List.replicate 4 0 ++ [0, 0, 0, 0]
    ++ [0xFF, 0xFF, 0xFF, 0xFF]

/-- The protection block as shipped (R382). -/
def shippedBlock : Memory :=
  memPutBytes (memPutBytes (memPutBytes (memPutBytes [] 0
    ([0x50, 0x52, 0x4F, 0x54, 0x42, 0x4C, 0x4B, 0x01] ++ [0, 0, 0, 0] ++ [0, 0, 0, 0] ++ [0x04, 1, 1, 0, 1]))
    0x0F80 [0, 0, 0x00, 0x03]) 0x1000 [0, 0, 0xFF, 0xFF]) 0x1400 shipmentLicence

/-- PRT at reset. -/
def prtReset : PrtBlk :=
  { result := 0, op := 0, pkgAddr := 0, pkgLen := 0, running := 0, nonce := none, scope := 0, block := shippedBlock,
    seqNo := 0, identity := false, certs := [[], [], []] }

end Sys2Proof.Machine
end

