-- ==== Sys2Proof/Machine/BlocksReq.lean ====
section
/-! DEFINITION. State of the request engine (chapter 10, REQ block, queue pairs, sequence contexts). -/
namespace Sys2Proof.Machine

/-- Context states (Table 10.6, in order). -/
inductive SeqState
  | free | idle | prefill | decode | forking | closing | damaged
  deriving DecidableEq, Repr

/-- QUERY code of a context state (Table 10.8). -/
def SeqState.code : SeqState → Nat
  | .free => 0 | .idle => 1 | .prefill => 2 | .decode => 3 | .forking => 4 | .closing => 5 | .damaged => 6

/-- Parameters of a GENERATE (Table 10.2). -/
structure GenParams where
  n : Nat
  temperature : Nat         -- FP32 codes
  topP : Nat
  topK : Nat
  maxDrafts : Nat
  penalty : Nat
  repetition : Nat
  stop : Nat
  seed : Nat
  deriving DecidableEq, Repr

/-- A work-queue entry: APPEND or GENERATE in submission order (R218). A token that is still to be read from the host
buffer is none; `buffer` is the buffer's host address. -/
inductive Work
  | append (tag : Nat) (tokens : List (Option Nat)) (buffer : Nat)
  | generate (tag : Nat) (p : GenParams)
  deriving DecidableEq, Repr

/-- An APPEND whose tokens are in the unprocessed list: it completes when every token but the last is committed. -/
structure AppendRun where
  tag : Nat
  left : Nat                -- tokens of the list still ahead of its completion
  buffer : Nat              -- host address of its tokens
  deriving DecidableEq, Repr

/-- A GENERATE in progress. -/
structure GenRun where
  tag : Nat
  p : GenParams
  remaining : Nat
  proposals : List Nat      -- draft record of its previous decode step
  first : Bool
  deriving DecidableEq, Repr

/-- One page of a sequence: group of each pool of its set and whether it is sealed. -/
structure Page where
  groups : List Nat         -- one for each pool of the set, in pool order
  sealed : Bool
  deriving DecidableEq, Repr

/-- A step of a sequence in a lane of a frame (R224, R226). -/
structure Step where
  lane : Nat                -- service lane
  frame : Nat
  n : Nat
  drafts : List Nat
  decode : Bool
  sealPage : Option Nat
  sealGroups : List Nat     -- per pool
  dead : Bool               -- releases nothing: the work was cancelled, or the sequence closes or is lost
  gen : Option GenRun := none -- the GENERATE it was cancelled from (R237)
  deriving DecidableEq, Repr

/-- One sequence context (R220). -/
structure Seq where
  state : SeqState := .free -- idle here means open; PREFILL and DECODE follow from the work (Table 10.6)
  qp : Nat := 0
  poolSet : Nat := 0
  len : Nat := 0            -- committed length L
  pending : Option Nat := none
  unprocessed : List (Option Nat) := [] -- appended tokens; none is still in the host's buffer
  work : List Work := []
  appends : List AppendRun := []
  gen : Option GenRun := none
  recent : List Nat := []   -- at most 64, newest last
  slot : Nat := 0           -- page-table slot in every pool of its set (log 28)
  pages : List Page := []
  steps : List Step := []   -- unsettled steps
  placed : Nat := 0         -- 1 + the last frame it was given a lane in (R225)
  spareSeal : Option (Nat × List Nat) := none -- page and seal groups kept from a lane that went idle (R227)
  lastFrame : Nat := 0
  closeTag : Option Nat := none
  quiet : Bool := false     -- closes without completions (R236)
  deriving DecidableEq, Repr

/-- A FORK whose page copy runs (R219). -/
structure ForkRun where
  tag : Nat
  qp : Nat
  parent : Nat
  child : Nat
  deriving DecidableEq, Repr

/-- An OPEN that waits for admission (R223). -/
structure OpenReq where
  tag : Nat
  qp : Nat
  poolSet : Nat
  wait : Nat
  frame : Nat               -- frame of acceptance
  deriving DecidableEq, Repr

/-- A completion without its phase, sq_head and place (Table 10.3). -/
structure Cqe where
  tag : Nat
  seq : Nat
  reason : Nat
  status : Nat
  count : Nat
  flags : Nat
  committed : Nat
  data : List Nat           -- bytes 20 to 63
  deriving DecidableEq, Repr

/-- One queue pair (Table 10.12). -/
structure QPair where
  sqBase : Nat := 0         -- bits [63:12]
  cqBase : Nat := 0
  enable : Bool := false
  vector : Nat := 0
  coalN : Nat := 0
  coalUs : Nat := 0
  sizeLog2 : Nat := 0
  sqHead : Nat := 0
  sqTail : Nat := 0
  cqTail : Nat := 0
  cqHead : Nat := 0
  phase : Bool := false
  busy : Bool := false
  held : List Cqe := []     -- completions that wait for space
  parked : List (List Nat) := [] -- entries fetched that wait for space to complete in (R213)
  unsignalled : Nat := 0
  unsignalledAt : Nat := 0
  fetchFailed : Nat := 0    -- 1 an SQ read has failed, 2 its retry is out, 3 fetching stopped until a tail doorbell (R305)
  failedAt : Nat := 0
  deriving DecidableEq, Repr

def seq0 : Seq := {}
def qpair0 : QPair := {}

/-- The request engine. -/
structure ReqBlk where
  qp : SMap QPair
  turn : Nat                -- queue pair whose turn it is, and the entries taken from it in this turn (R212)
  taken : Nat
  seqs : SMap Seq
  rings : SMap (List Nat)   -- pool set -> its ring of sequences, head first
  starved : SMap Nat        -- pool set -> consecutive fills without a lane
  usedGroups : SMap Nat     -- (pool * 32 + pool tile) * 4096 + group -> share count
  opens : List OpenReq
  forks : List ForkRun
  contexts : Nat            -- REQ.CONFIG values of the image in force
  lanes : Nat
  draftsMax : Nat
  stepMax : Nat
  admitFrames : Nat
  serving : Bool            -- the image in force has a service section
  poolSets : Nat
  pageWait : Nat
  tokens : Nat
  dropped : Nat
  settleLate : Nat
  sets : Nat
  settleTc : Nat
  filled : Nat              -- 1 + frame whose lanes have been filled, 0 none
  settled : Nat             -- 1 + last settled frame, 0 none
  sampleSec : Nat           -- 1 + second of the last kind 0x0039 event, 0 none
  deriving DecidableEq, Repr

/-- REQ at reset (Tables 10.11 and 10.12). -/
def reqReset : ReqBlk :=
  { qp := [], turn := 0, taken := 0, seqs := [], rings := [], starved := [], usedGroups := [], opens := [], forks := [], contexts := 0,
    lanes := 0, draftsMax := 0, stepMax := 0, admitFrames := 0, serving := false, poolSets := 0, pageWait := 0,
    tokens := 0, dropped := 0, settleLate := 0, sets := 0, settleTc := 0, filled := 0, settled := 0, sampleSec := 0 }

end Sys2Proof.Machine
end

