-- ==== Sys2Proof/Machine/State.lean ====
section
/-! DEFINITION. The state of one Veral, the reasons a step can stop, and the state after reset. -/
namespace Sys2Proof.Machine

/-- Everything the spec gives the block, by the blocks of its register map, and the model's own four fields. -/
structure State where
  kpr : KprBlk              -- keeper, DEV.STATE, KPR, pins
  fuses : Fuses
  flp : FlpBlk
  hif : HifBlk
  evt : EvtBlk
  tel : TelBlk
  dbg : DbgBlk
  dev : DevBlk              -- image, load, check, roles and spares
  frm : FrmBlk
  cores : CoresBlk
  mem : MemBlk
  net : NetBlk
  bnk : BnkBlk
  walkers : SMap Walker     -- region -> its page walker
  req : ReqBlk
  lnk : LnkBlk
  clk : ClkBlk
  pwr : PwrBlk
  sup : SupBlk              -- power delivery
  thm : ThmBlk
  prt : PrtBlk
  /-- Commands that wait, first in first out (the model's own). -/
  pending : List Instr
  /-- What the block has put out, newest first (the model's own). -/
  out : List Output
  /-- How many free values have been used (the model's own, log 1). -/
  fresh : Nat
  /-- What the block has written to host memory (the model's own); it is never read back. -/
  hostMem : Memory
  deriving DecidableEq, Repr

/-- Reasons a step stops with a fault. -/
inductive Fault
  /-- Raised by a command whose operands name a unit that the device does not have (`WellFormed` says which). Safe: the
  hardware can receive no such command. -/
  | noSuchUnit
  deriving DecidableEq, Repr

/-- Reasons a step is refused. -/
inductive Refusal
  /-- Raised for a command that has no meaning yet; the string is its mnemonic in the opcode table. Safe. -/
  | notModelled (mnemonic : String)
  deriving DecidableEq, Repr

/-- The block with its rails up and PERST_N asserted, before anything has been commanded. -/
def State.reset : State :=
  { kpr := kprReset, fuses := fusesReset, flp := flpReset, hif := hifReset, evt := evtReset, tel := telReset,
    dbg := dbgReset, dev := devReset, frm := frmReset, cores := coresReset, mem := memReset, net := netReset,
    bnk := bnkReset, walkers := [], req := reqReset, lnk := lnkReset, clk := clkReset, pwr := pwrReset,
    sup := supReset, thm := thmReset, prt := prtReset, pending := [], out := [], fresh := 0, hostMem := [] }

end Sys2Proof.Machine
end

