-- ==== Sys2Proof/Machine/Ops.lean ====
section
/-! DEFINITION. Operations every family shares: unit numbers, events and their ring (chapter 19), state changes, fences
(chapter 1), fatal conditions and whole-device reset (chapter 17). -/
namespace Sys2Proof.Machine

/-- One second, one millisecond, one microsecond of tc. -/
def tcSec : Nat := 1000000000
/-- One millisecond of tc. -/
def tcMs : Nat := 1000000
/-- One microsecond of tc. -/
def tcUs : Nat := 1000

/-- Core positions; tiles carry the same numbers (R6). -/
def coreCount : Nat := 12288
/-- Banks of a tile. -/
def bankCount : Nat := 24

/-- R11: region of a core or tile. -/
def regionOf (n : Nat) : Nat := n / 3072 * 128 + n % 3072 / 768 * 32 + n % 768 / 32 / 6 * 8 + n % 32 / 4

/-- R11: cores of a region in ascending number. -/
def coresOf (r : Nat) : List Nat :=
  (List.range 24).map (fun i => r / 128 * 3072 + r % 128 / 32 * 768 + (r % 32 / 8 * 6 + i / 4) * 32 + r % 8 * 4 + i % 4)

/-- R11: region column of a region. -/
def columnOf (r : Nat) : Nat := r / 128 * 32 + r % 32

/-- Compute layer of a region. -/
def layerOf (r : Nat) : Nat := r % 128 / 32

/-- Fence entry of a core and its tile. -/
def State.fence (s : State) (n : Nat) : CoreFence := mapGet coreFence0 s.flp.cores n

/-- The core is fenced. -/
def State.coreFenced (s : State) (n : Nat) : Bool := (s.fence n).core

/-- The tile is fenced. -/
def State.tileFenced (s : State) (n : Nat) : Bool := (s.fence n).tile

/-- The bank, or its tile, is fenced. -/
def State.bankFenced (s : State) (n b : Nat) : Bool := (s.fence n).tile || bit (s.fence n).banks b

/-- The pane is fenced. -/
def State.paneFenced (s : State) (n p : Nat) : Bool := if p = 0 then (s.fence n).pane0 else (s.fence n).pane1

/-- The region has gone dark. -/
def State.dark (s : State) (r : Nat) : Bool := mapGet false s.flp.dark r

/-- The pane is good: neither it nor its core is fenced (R12). -/
def State.paneGood (s : State) (n p : Nat) : Bool := !s.coreFenced n && !s.paneFenced n p

/-- Good panes of a core. -/
def goodPanesOf (f : CoreFence) : Nat := if f.core then 0 else b2n (!f.pane0) + b2n (!f.pane1)

/-- Good panes now: 24,576 less those the fence table takes away. -/
def State.goodPanes (s : State) : Nat := 24576 - (s.flp.cores.map (fun e => 2 - goodPanesOf e.2)).sum

/-- Unfenced cores now. -/
def State.goodCores (s : State) : Nat := 12288 - (s.flp.cores.filter (fun e => e.2.core)).length

/-- Fenced tiles now. -/
def State.fencedTiles (s : State) : Nat := (s.flp.cores.filter (fun e => e.2.tile)).length

/-- Bits set in a value of `w` bits. -/
def popcount (w v : Nat) : Nat := ((List.range w).filter (fun i => bit v i)).length

/-- Fenced banks in unfenced tiles now. -/
def State.fencedBanks (s : State) : Nat :=
  (s.flp.cores.map (fun e => if e.2.tile then 0 else popcount bankCount e.2.banks)).sum

/-- The device is in one of the states named. -/
def State.inStates (s : State) (l : List DevState) : Bool := l.any (fun d => d == s.kpr.state)

/-- A new output of the block. -/
def emit (o : Output) (s : State) : State := { s with out := o :: s.out }

/-- Fresh values used once more. -/
def useFresh (s : State) : State := { s with fresh := s.fresh + 1 }

/-- Writing bytes to host memory by bus mastering. -/
def hostPut (a : Nat) (bytes : List Nat) (s : State) : State := { s with hostMem := memPutBytes s.hostMem a bytes }

/-! ## Signals -/

/-- R293: an MSI-X vector is signalled, or its pending bit is set while it is masked or Bus Master Enable is 0. -/
def signalMsix (v : Nat) (s : State) : State :=
  if s.hif.bme && bit (mapGet 0 s.hif.msixUnmask v) 0 then emit (.msix v) s
  else { s with hif := { s.hif with pba := s.hif.pba ||| 2 ^ v } }

/-! ## The event ring (R397 to R403) -/

/-- Slots of the ring. -/
def State.ringSize (s : State) : Nat := 2 ^ s.evt.sizeLog2

/-- R397, R400: a record can be written at once. -/
def State.ringOpen (s : State) : Bool :=
  s.evt.enable && s.hif.bme && decide ((s.evt.tail + 1) % s.ringSize ≠ s.evt.head % s.ringSize)

/-- Bytes 0 to 15 of a record (Table 19.1) with its flags byte. -/
def evtHead (r : EvtRec) (flags : Nat) : List Nat :=
  leBytes 8 r.tc ++ leBytes 4 r.frame ++ leBytes 2 r.kind ++ [r.severity, flags]

/-- Bytes 16 to 31. -/
def evtMid (r : EvtRec) : List Nat := leBytes 4 r.seq ++ leBytes 2 r.reason ++ [0, 0] ++ leBytes 4 r.unit ++ leBytes 4 r.count

/-- Bytes 32 to 63. -/
def evtData (r : EvtRec) : List Nat := slice ((r.data.map (leBytes 4)).flatten) 0 32

/-- R399, R403: one record goes into the ring, and the vector is signalled where coalescing asks for it. -/
def writeRecord (r : EvtRec) (s : State) : State :=
  let a := s.evt.ringAddr * 4096 + 64 * s.evt.tail
  let flags := b2n s.evt.phase + 2 * b2n s.evt.lostFlag
  let s := hostPut (a + 16) (evtMid r ++ evtData r) s
  let s := hostPut a (evtHead r flags) s
  let tail := (s.evt.tail + 1) % s.ringSize
  let n := s.evt.unsignalled + 1
  let now := decide (2 ≤ r.severity) || decide (max 1 s.evt.coalN ≤ n)
  let s := { s with evt := { s.evt with
    tail := tail, phase := if tail = 0 then !s.evt.phase else s.evt.phase,
    written := satAdd 32 s.evt.written 1, lostFlag := false,
    unsignalled := if now then 0 else n,
    unsignalledAt := if s.evt.unsignalled = 0 then s.frm.tc else s.evt.unsignalledAt } }
  if now then signalMsix s.evt.vector s else s

/-- R400: held records are written in seq order while the ring takes them. -/
def flushHeld : List EvtRec → State → State
  | [], s => { s with evt := { s.evt with hold := [] } }
  | r :: t, s => if s.ringOpen then flushHeld t (writeRecord r s) else { s with evt := { s.evt with hold := r :: t } }

/-- Writing what the hold buffer has. -/
def flushEvents (s : State) : State := flushHeld s.evt.hold s

/-- The list without its first entry that meets a test. -/
def dropFirst {α : Type} (p : α → Bool) : List α → List α
  | [] => []
  | a :: t => if p a then t else a :: dropFirst p t

/-- One event is lost (R400). -/
def loseEvent (s : State) : State :=
  { s with evt := { s.evt with lost := satAdd 16 s.evt.lost 1, lostFlag := true } }

/-- R400: a record joins the hold buffer, displacing the oldest held info or else warn record where it is full. -/
def holdRecord (r : EvtRec) (s : State) : State :=
  let add (l : List EvtRec) (s : State) : State := { s with evt := { s.evt with hold := l ++ [r] } }
  if s.evt.hold.length < 512 then add s.evt.hold s
  else if s.evt.hold.any (fun e => e.severity == 0) then
    add (dropFirst (fun e => e.severity == 0) s.evt.hold) (loseEvent s)
  else if s.evt.hold.any (fun e => e.severity == 1) then
    add (dropFirst (fun e => e.severity == 1) s.evt.hold) (loseEvent s)
  else loseEvent s

/-- R411: kinds that also go out as PlatformEventMessages. -/
def pemKinds : List Nat := [0x0001, 0x0004, 0x0010, 0x0024, 0x0066]

/-- R411, R428: a PlatformEventMessage to the receiver, at most 10 in a second; for one that polls by SMBus it waits and
SMB_ALERT_N is asserted. -/
def sendPem (r : EvtRec) (s : State) : State :=
  if pemKinds.contains r.kind && s.tel.receiver.isSome then
    let sec := s.frm.tc / tcSec
    let n := if s.tel.pemSec = sec then s.tel.pemN else 0
    if n < 10 then
      let bytes := evtHead r (b2n s.evt.phase) ++ evtMid r
      let s := { s with tel := { s.tel with pemSec := sec, pemN := n + 1 } }
      if s.tel.polls then { s with tel := { s.tel with alert := true, waiting := s.tel.waiting ++ [(r.kind, bytes)] } }
      else emit (.pem r.kind bytes) s
    else { s with tel := { s.tel with pemSec := sec } }
  else s

/-- No unit (Table 19.1). -/
def noUnit : Nat := 0xFFFFFFFF

/-- R400, R401: one event with every field of its record. Events below the minimum severity are counted and take no
seq number; write-refused events are limited to 1,000 in a second. -/
def raiseFull (kind severity reason unit count : Nat) (data : List Nat) (s : State) : State :=
  let r : EvtRec := {
    tc := s.frm.tc, frame := s.frm.count % 2 ^ 32, kind := kind, severity := severity,
    seq := s.evt.nextSeq % 2 ^ 32, reason := reason, unit := unit % 2 ^ 32, count := count % 2 ^ 32,
    data := data.map (fun d => d % 2 ^ 32) }
  let s := sendPem r s
  if severity < s.evt.minSev && decide (severity ≠ 3) then
    { s with evt := { s.evt with filtered := satAdd 8 s.evt.filtered 1 } }
  else
    let sec := s.frm.tc / tcSec
    let n := if s.evt.refusedSec = sec then s.evt.refusedN else 0
    if kind = 2 && decide (1000 ≤ n) then
      { s with evt := { s.evt with limited := satAdd 8 s.evt.limited 1 } }
    else
      let s := if kind = 2 then { s with evt := { s.evt with refusedSec := sec, refusedN := n + 1 } } else s
      flushEvents (holdRecord r { s with evt := { s.evt with nextSeq := s.evt.nextSeq + 1 } })

/-- An event without reason or count. -/
def raise (kind severity unit : Nat) (data : List Nat) (s : State) : State := raiseFull kind severity 0 unit 0 data s

/-- The two 32-bit fields of a 64-bit value. -/
def split64 (v : Nat) : List Nat := [v % 2 ^ 32, v / 2 ^ 32 % 2 ^ 32]

/-- A write or command refused: kind 0x0002 with the offset, the value and a reason (R246). -/
def refuse (off v reason : Nat) (s : State) : State := raiseFull 0x0002 0 reason off 0 (split64 v) s

/-- The keeper runs (R310, R360). No register write acts before. -/
def State.keeperUp (s : State) : Bool := decide (s.kpr.boot = .romRuns)

/-- The host can reach the registers and doorbells: the keeper runs and the BARs decode, which they do not in D3hot
(R288). No write arrives otherwise. -/
def State.hostUp (s : State) : Bool := s.keeperUp && !s.hif.d3hot

/-- R246, R417: a register write that sets a bit which is neither writable (`rw`) nor a read-only bit reading 1 (`ro`)
is ignored with 0x0123. No write arrives before the keeper runs. -/
def regWrite (off v rw ro : Nat) (body : State → State) (s : State) : State :=
  if !s.hostUp then s
  else if v &&& ((2 ^ 64 - 1) ^^^ (rw ||| ro)) ≠ 0 then refuse off v 0x0123 s else body s

/-- R420: a register write is ignored with 0x0120 outside the states that take it. -/
def inState (off v : Nat) (l : List DevState) (body : State → State) (s : State) : State :=
  if !s.hostUp then s else if s.inStates l then body s else refuse off v 0x0120 s

/-! ## Device states (R359) -/

/-- A state change with its info event. -/
def setState (d : DevState) (s : State) : State :=
  let old := s.kpr.state
  raise 0x0001 0 noUnit [d.code, old.code, s.kpr.haltCause] { s with kpr := { s.kpr with state := d, prev := old } }

/-- R304: an error the AER capability records, by its bit of the Uncorrectable Error registers (log 99). Unless the host
masks it, a message goes out with the severity the host gave it, and the header log takes it while it holds no other. -/
def aerError (b : Nat) (header : List Nat) (s : State) : State :=
  let a := s.hif.aer
  let a1 := { a with status := a.status ||| 2 ^ b }
  if bit a.mask b then { s with hif := { s.hif with aer := a1 } }
  else emit (.errorMessage b (bit a.severity b)) { s with hif := { s.hif with
    aer := if bit a.status a.first then a1 else { a1 with first := b, header := header } } }

/-- R370: what stops the device in HALTED. -/
def haltNow (cause : Nat) (s : State) : State :=
  { s with
    kpr := { s.kpr with state := .halted, prev := s.kpr.state, haltCause := cause, blanked := true },
    frm := { s.frm with phase := .idle } }

/-- R370, R324: a fatal condition; `tell` says that the host path still runs, so that the error and its event can go out.
A second condition during the hold changes nothing. -/
def fatalTell (tell : Bool) (cause : Nat) (s : State) : State :=
  if s.kpr.state = .halted then s
  else if tell then raise 0x0001 3 noUnit [6, s.kpr.state.code, cause] (aerError 22 [] (haltNow cause s))
  else haltNow cause s

/-- R370: a fatal condition of Table 17.7. -/
def fatal (cause : Nat) (s : State) : State := fatalTell true cause s

/-- R369, R371, Table 17.9: everything is lost but the fuses, the protection block, the straps, the two causes and what
lies outside the reset (rails, input, management endpoint, voltage sensors excluded for the power-up). -/
def wholeReset (cause halt : Nat) (perst : Bool) (s : State) : State :=
  let z := State.reset
  { z with
    fuses := s.fuses,
    kpr := { kprReset with
      resetCause := cause, haltCause := halt, perst := perst, oscEn := perst, oscWait := s.kpr.oscWait,
      maddr := s.kpr.maddr, railsUp := s.kpr.railsUp,
      boot := if perst then (if s.kpr.boot = .oscWait then .oscWait else .pllStart) else .inReset },
    prt := { prtReset with block := s.prt.block, seqNo := s.prt.seqNo, certs := s.prt.certs },
    sup := { supReset with
      capLimited := s.sup.capLimited, inputWarn := s.sup.inputWarn, railsOk := s.sup.railsOk,
      stage1Ok := s.sup.stage1Ok, voltage := s.sup.voltage, current := s.sup.current, power := s.sup.power,
      rails := s.sup.rails,
      groups := s.sup.groups.filterMap (fun e =>
        if e.2.sensorsExcluded = 0 then none else some (e.1, { group0 with
          sensorsExcluded := e.2.sensorsExcluded, dutyLimited := decide (e.2.sensorsExcluded = 15) })) },
    tel := { s.tel with pemSec := 0, pemN := 0 },
    lnk := { lnkReset with carts := s.lnk.carts.map (fun c => { cart0 with present := c.present }) },
    pending := s.pending, out := s.out, fresh := s.fresh, hostMem := s.hostMem }

/-! ## Commands about units -/

/-- A command about a unit that the device does not have stops (log 53); any other answers the next state. -/
def onUnit (exists_ : Prop) [Decidable exists_] (t : State) : Host.Outcome State Fault Refusal :=
  if exists_ then .next t else .fault .noSuchUnit

/-! ## Fences (R20 to R22) -/

/-- One unit to be fenced: kind as in `FLP.DELTA`, unit and sub-unit. -/
structure FenceItem where
  kind : Nat                -- 1 pane, 2 core, 3 tile, 4 bank, 5 region dark
  unit : Nat
  sub : Nat := 0
  deriving DecidableEq, Repr

/-- The unit is fenced already. -/
def State.fencedAlready (s : State) (f : FenceItem) : Bool :=
  match f.kind with
  | 1 => s.paneFenced f.unit f.sub
  | 2 => s.coreFenced f.unit
  | 3 => s.tileFenced f.unit
  | 4 => bit (s.fence f.unit).banks f.sub
  | _ => s.dark f.unit

/-- The fence-table entry with a unit fenced. -/
def CoreFence.fenced (e : CoreFence) (cause : Nat) (f : FenceItem) : CoreFence :=
  match f.kind with
  | 1 => if f.sub = 0 then { e with pane0 := true, pane0Cause := cause } else { e with pane1 := true, pane1Cause := cause }
  | 2 => { e with core := true, coreCause := cause }
  | 3 => { e with tile := true, tileCause := cause }
  | _ => { e with banks := e.banks ||| 2 ^ f.sub, tileCause := cause }

/-- Step 3 of R20: the tables take a fence. -/
def fenceTable (cause : Nat) (f : FenceItem) (s : State) : State :=
  if f.kind = 5 then { s with flp := { s.flp with dark := mapSet false s.flp.dark f.unit true } }
  else { s with flp := { s.flp with cores := mapMod coreFence0 s.flp.cores f.unit (fun e => e.fenced cause f) } }

/-- Step 4 of R20: one entry of the delta log, with the generation after the update. -/
def fenceDelta (gen cause : Nat) (f : FenceItem) (s : State) : State :=
  { s with flp := { s.flp with
    deltas := mapSet delta0 s.flp.deltas (s.flp.total % 64)
      { tc := s.frm.tc, gen := gen, kind := f.kind, cause := cause, sub := f.sub, unit := f.unit },
    total := (s.flp.total + 1) % 2 ^ 32 } }

/-- R421: DBG notes that the selected context's core has been fenced. -/
def fenceDbg (f : FenceItem) (s : State) : State :=
  if f.kind = 2 && decide (s.dbg.core = f.unit) then { s with dbg := { s.dbg with selChanged := true } } else s

/-- R20 to R22: one occurrence fences units, given in the order of R21. Units fenced already keep their fence. Before
publication only the tables change (R19). -/
def fenceUnits (cause : Nat) (l : List FenceItem) (s : State) : State :=
  let l := l.filter (fun f => !s.fencedAlready f)
  if l.isEmpty then s
  else
    let s := l.foldl (fun s f => fenceDbg f (fenceTable cause f s)) s
    let s := { s with
      dev := { s.dev with checkRun := s.dev.checkRun.map (fun c => { c with fenced := true }) }
      frm := { s.frm with fencedNow := if s.kpr.state = .running then s.frm.fencedNow ++ l.map (fun f => (f.kind, f.unit, f.sub)) else s.frm.fencedNow } }
    if !s.flp.valid then s
    else
      let gen := (s.flp.gen + 2) % 2 ^ 32
      let s := l.foldl (fun s f => fenceDelta gen cause f s) s
      let s := { s with flp := { s.flp with gen := gen } }
      let s := l.foldl (fun s f => raise 0x0010 1 f.unit [f.kind, cause, f.sub, gen] s) s
      match s.frm.phase, l with
      | .inFrame, f :: _ =>
        let n := s.frm.now
        raise 0x0026 2 f.unit [f.kind]
          { s with frm := { s.frm with now := { n with fenced := true, fences := n.fences + l.length } } }
      | _, _ => s

/-- R15, R17, R19: the table entry of a core whose fused fences meet fences that came before they were read. What the
fuses fence has been fenced from the start and shows their cause; everything else keeps its own. -/
def CoreFence.withFused (e fuse : CoreFence) : CoreFence :=
  { pane0 := fuse.pane0 || e.pane0, pane0Cause := if fuse.pane0 then fuse.pane0Cause else e.pane0Cause
    pane1 := fuse.pane1 || e.pane1, pane1Cause := if fuse.pane1 then fuse.pane1Cause else e.pane1Cause
    core := fuse.core || e.core, coreCause := if fuse.core then fuse.coreCause else e.coreCause
    tile := fuse.tile || e.tile, banks := fuse.banks ||| e.banks
    tileCause := if fuse.tile || (!e.tile && decide (fuse.banks ≠ 0)) then fuse.tileCause else e.tileCause }

/-- R15, R339: a region's power gate closes for good: its clocks stop and its core stores are lost (R318). -/
def darken (r : Nat) (s : State) : State :=
  { s with
    sup := { s.sup with groups := mapMod group0 s.sup.groups r (fun g => { g with shutter := 3, wantOpen := false }) },
    clk := { s.clk with regions := mapMod clkRegion0 s.clk.regions r (fun c =>
      { c with source := 2, divisor := 0, target := 0 }) },
    cores := { s.cores with store := (coresOf r).foldl (fun m n => memClear m (n * 2 ^ 20) (2 ^ 20)) s.cores.store } }

/-- R15, R21: a region that has gone dark is fenced with its cores and tiles. -/
def fenceRegion (r : Nat) (s : State) : State :=
  fenceUnits 6 ([{ kind := 5, unit := r }] ++ (coresOf r).map (fun n => { kind := 2, unit := n })
    ++ (coresOf r).map (fun n => { kind := 3, unit := n })) s

end Sys2Proof.Machine
end

