-- ==== Sys2Proof/Machine/Clock.lean ====
section
/-! DEFINITION. Clocks (chapter 14): the region generators, the fall-back mesh, divisor steps, set-points that follow
them, and the start of the reference clock and the system PLL. -/
namespace Sys2Proof.Machine

/-- Regions of the device. -/
def regionCount : Nat := 512

/-- R310 to R312: the clocks run, so the clock events of the device can happen. -/
def State.powered (s : State) : Bool := s.kpr.railsUp && decide (s.kpr.boot = .romRuns) && decide (s.kpr.state ≠ .halted)

/-- One region's clock record. -/
def State.clkOf (s : State) (r : Nat) : ClkRegion := mapGet clkRegion0 s.clk.regions r

/-- Changing one region's clock record. -/
def setClk (r : Nat) (f : ClkRegion → ClkRegion) (s : State) : State :=
  { s with clk := { s.clk with regions := mapMod clkRegion0 s.clk.regions r f } }

/-- One region's regulator group. -/
def State.groupOf (s : State) (r : Nat) : Group := mapGet group0 s.sup.groups r

/-- Changing one regulator group. -/
def setGroup (r : Nat) (f : Group → Group) (s : State) : State :=
  { s with sup := { s.sup with groups := mapMod group0 s.sup.groups r f } }

/-- Table 15.3: set-point of a divisor, mV, before bin trim. -/
def setpointOf (d : Nat) : Nat :=
  match d with
  | 4 => 800
  | 5 => 745
  | 6 => 705
  | 7 => 675
  | _ => 650

/-- R330: the set-point of a divisor in a region with its fused trim. -/
def State.setpointAt (s : State) (r d : Nat) : Nat := setpointOf d + mapGet 0 s.fuses.binTrim r

/-- R330: a region's set-point moves to the value of a divisor plus the fused trim. -/
def moveSetpoint (r d : Nat) (s : State) : State :=
  setGroup r (fun g => { g with setpoint := s.setpointAt r d }) s

/-- R330: the VCORE bus stands 25 mV above the highest set-point in force or planned for the next frame, at least at
675 mV. -/
def State.vcoreBus (s : State) : Nat :=
  max 675 ((s.sup.groups.filter (fun e => max e.2.setpoint e.2.planned ≠ 0)).foldl
    (fun m e => max m (max e.2.setpoint e.2.planned + 25)) 0)

/-- One step of a divisor toward its target. -/
def stepToward (d t : Nat) : Nat := if d < t then d + 1 else if t < d then d - 1 else d

/-- R318: the clocks of a region start at /8 and step toward a divisor, the first step 1,000 tc later. -/
def startClocks (r target : Nat) (s : State) : State :=
  setClk r (fun c => { c with source := 0, divisor := 8, target := target, nextStep := s.frm.tc + 1000, holding := false })
    (moveSetpoint r target s)

/-- R318: a region's divisor starts to change: the first step now, the rest 1,000 tc apart. A fall in frequency keeps
its set-point until the last step (R331). Steps toward the same point go on as they were, and steps toward another one end
where the divisor already is the new point. A region whose clocks are held takes no new point (R317). -/
def changeDivisor (r target : Nat) (s : State) : State :=
  let c := s.clkOf r
  if c.source ≠ 0 || c.holding || c.target = target then s
  else if c.divisor = target then setClk r (fun c => { c with target := target }) (moveSetpoint r target s)
  else
    let s := if target < c.divisor || stepToward c.divisor target = target then moveSetpoint r target s else s
    setClk r (fun c => { c with divisor := stepToward c.divisor target, target := target, nextStep := s.frm.tc + 1000 }) s

/-- R316, R318: a region moves to the fall-back mesh at /8. One whose shutter is closed has no clock to move; its clocks
start on the mesh when it opens. -/
def toFallback (r cause : Nat) (s : State) : State :=
  let stopped := decide ((s.clkOf r).source = 2)
  let s := setClk r (fun c =>
    let c := { c with lockLost := true, holding := false }
    if stopped then c else { c with source := 1, divisor := 8, target := 8 }) s
  raise 0x0050 1 r [cause] (if stopped then s else moveSetpoint r 8 s)

/-- R317: a region whose generator has lost lock and that is not on the mesh yet: its core and network clocks are held. -/
def State.clocksHeld (s : State) (r : Nat) : Bool := (s.clkOf r).holding

/-! ## The reference clock and the system PLL (R310, R311, R360) -/

/-- R310: at the end of the wait the system PLL is started. -/
def doOscWaitExpiry (s : State) : State :=
  if s.kpr.boot = .oscWait then
    { s with kpr := { s.kpr with boot := .pllStart, pllTries := 0 }, clk := { s.clk with refOk := true } }
  else s

/-- R310. -/
def execOscWaitExpiry (s : State) : Host.Outcome State Fault Refusal := .next (doOscWaitExpiry s)

/-- R311: an attempt has failed; after the third the module stays in reset. -/
def doSystemPllLockTimeout (s : State) : State :=
  if s.kpr.boot = .pllStart then
    { s with kpr := { s.kpr with
        pllTries := s.kpr.pllTries + 1, boot := if s.kpr.pllTries + 1 < 3 then .pllStart else .pllFailed } }
  else s

/-- R311. -/
def execSystemPllLockTimeout (s : State) : Host.Outcome State Fault Refusal := .next (doSystemPllLockTimeout s)

/-- R360, Table 17.5: the system PLL has locked; the keeper runs from mask ROM and step 1 is done. -/
def doSystemPllLock (s : State) : State :=
  if s.kpr.boot = .pllStart then
    { s with kpr := { s.kpr with boot := .romRuns, step := 1 }, clk := { s.clk with refOk := true } }
  else s

/-- R360. -/
def execSystemPllLock (s : State) : Host.Outcome State Fault Refusal := .next (doSystemPllLock s)

/-- R324: loss of REFCLK (0), the system PLL (1), a sill PLL (2) or the time-counter PLL (3) is fatal. With REFCLK every
PLL loses lock. `host` says that the host path still runs, as the event then needs. -/
def doRefclkLost (what : Nat) (host : Bool) (s : State) : State :=
  if s.powered then
    fatalTell host 0x03 { s with clk := { s.clk with
      refOk := s.clk.refOk && decide (what ≠ 0), sillLocked := s.clk.sillLocked && decide (what = 3),
      tcLocked := s.clk.tcLocked && decide (what ≠ 0) && decide (what ≠ 3) } }
  else s

/-- R324. -/
def execRefclkLost (what : Nat) (host : Bool) (s : State) : Host.Outcome State Fault Refusal :=
  onUnit (what < 4) (doRefclkLost what host s)

/-! ## Region generators (R312, R315 to R318) -/

/-- R312: a generator that has not locked in bring-up puts its region on the mesh. -/
def doRegionGeneratorLockTimeout (r : Nat) (s : State) : State :=
  if s.powered && decide (s.kpr.state = .staging) && s.clk.started && decide ((s.clkOf r).source = 0) then toFallback r 1 s
  else s

/-- R312. -/
def execRegionGeneratorLockTimeout (r : Nat) (s : State) : Host.Outcome State Fault Refusal :=
  onUnit (r < regionCount) (doRegionGeneratorLockTimeout r s)

/-- R181, R14: a hinge FIFO that does not settle is fatal. -/
def doHingeFifoSettleTimeout (s : State) : State :=
  if s.powered && decide (s.kpr.state = .staging) then fatal 0x01 s else s

/-- R181. -/
def execHingeFifoSettleTimeout (s : State) : Host.Outcome State Fault Refusal := .next (doHingeFifoSettleTimeout s)

/-- R315: a droop of 10 µs at or beyond 50 mV. -/
def doSustainedDroop (r : Nat) (s : State) : State :=
  if s.powered && decide ((s.clkOf r).source < 2) then
    raise 0x0051 1 r [] (setClk r (fun c => { c with droopEvents := satAdd 8 c.droopEvents 1 }) s)
  else s

/-- R315. -/
def execSustainedDroop (r : Nat) (s : State) : Host.Outcome State Fault Refusal :=
  onUnit (r < regionCount) (doSustainedDroop r s)

/-- R317: a running generator loses lock; the region's clocks are held. -/
def doGeneratorLockLost (r : Nat) (s : State) : State :=
  if s.powered && decide ((s.clkOf r).source = 0) then setClk r (fun c => { c with holding := true, lockLost := true }) s
  else s

/-- R317. -/
def execGeneratorLockLost (r : Nat) (s : State) : Host.Outcome State Fault Refusal :=
  onUnit (r < regionCount) (doGeneratorLockLost r s)

/-- R317: the held region moves to the mesh; a ramp in progress is abandoned (R325). -/
def doFallbackSwitch (r : Nat) (s : State) : State :=
  if s.powered && (s.clkOf r).holding then toFallback r 2 s else s

/-- R317. -/
def execFallbackSwitch (r : Nat) (s : State) : Host.Outcome State Fault Refusal :=
  onUnit (r < regionCount) (doFallbackSwitch r s)

/-- R318: a step of a ramp is due; with the last one a falling set-point moves (R331). -/
def doDivisorStep (r : Nat) (s : State) : State :=
  let c := s.clkOf r
  if s.powered && decide (c.source = 0) && !c.holding && decide (c.divisor ≠ c.target) && decide (c.nextStep ≤ s.frm.tc) then
    let d := stepToward c.divisor c.target
    let s := if d = c.target then moveSetpoint r d s else s
    setClk r (fun c => { c with divisor := d, nextStep := c.nextStep + 1000 }) s
  else s

/-- R318. -/
def execDivisorStep (r : Nat) (s : State) : Host.Outcome State Fault Refusal := onUnit (r < regionCount) (doDivisorStep r s)

/-- R25: one tc of the time counter, once step 4 has started it. It is what the block does while no command waits
(log 4). -/
def tick (s : State) : State :=
  if s.frm.tcRuns then { s with frm := { s.frm with tc := (s.frm.tc + 1) % 2 ^ 64 } } else s

end Sys2Proof.Machine
end

