-- ==== Sys2Proof/Machine/Code.lean ====
section
/-! DEFINITION. The code word: Reed-Solomon over GF(2^8) with polynomial 0x11D (R132, R133). -/
namespace Sys2Proof.Machine

/-- Multiplication by α. -/
def gfDouble (a : Nat) : Nat := if a < 128 then 2 * a else Nat.xor (2 * a % 256) 0x1D

/-- Product in GF(2^8), bit by bit of b from its lowest. -/
def gfMulFrom : Nat → Nat → Nat → Nat
  | 0, _, _ => 0
  | n + 1, a, b => Nat.xor (if b % 2 = 1 then a else 0) (gfMulFrom n (gfDouble a) (b / 2))

/-- Product in GF(2^8). -/
def gfMul (a b : Nat) : Nat := gfMulFrom 8 a b

/-- α^k. -/
def gfPow : Nat → Nat
  | 0 => 1
  | k + 1 => gfDouble (gfPow k)

/-- One step of the division by g(x) = x^4 + 0x0F x^3 + 0x36 x^2 + 0x78 x + 0x40: the remainder (r3, r2, r1, r0)
after one more data byte. -/
def rsStep (r : Nat × Nat × Nat × Nat) (d : Nat) : Nat × Nat × Nat × Nat :=
  let f := Nat.xor r.1 d
  (Nat.xor r.2.1 (gfMul f 0x0F), Nat.xor r.2.2.1 (gfMul f 0x36), Nat.xor r.2.2.2 (gfMul f 0x78), gfMul f 0x40)

/-- The four check bytes of 32 data bytes (R132). -/
def rsCheck (data : List Nat) : List Nat :=
  let r := data.foldl (fun r d => rsStep r (d % 256)) (0, 0, 0, 0)
  [r.1, r.2.1, r.2.2.1, r.2.2.2]

/-- r(x) at a point by Horner's rule, c_0 first. -/
def rsEval (x : Nat) (word : List Nat) : Nat := word.foldl (fun a c => Nat.xor (gfMul a x) (c % 256)) 0

/-- Syndromes S_0 to S_3 of a received word (R132). -/
def rsSyndromes (word : List Nat) : List Nat := [rsEval 1 word, rsEval 2 word, rsEval 4 word, rsEval 8 word]

/-- The syndrome field of `MEM.LAST_BERR_INFO`: S_3 in the top byte (Table 6.15). -/
def rsSyndromeField (word : List Nat) : Nat := leNat (rsSyndromes word)

/-- What the tile controller's decoder answers (R133). -/
inductive Decoded
  | good (data : List Nat)
  | corrected (data : List Nat) (symbol : Nat)
  | uncorrectable (syndrome : Nat)
  deriving DecidableEq, Repr

/-- The exponent p of a single-byte error, if the syndromes show one. -/
def rsLocate (s0 s1 s2 s3 : Nat) : Option Nat :=
  if s0 = 0 then none
  else ((List.range 36).filter (fun p =>
    s1 = gfMul s0 (gfPow p) && s2 = gfMul s1 (gfPow p) && s3 = gfMul s2 (gfPow p))).head?

/-- Decoding 36 received symbols (R133). -/
def rsDecode (word : List Nat) : Decoded :=
  let s0 := rsEval 1 word
  let s1 := rsEval 2 word
  let s2 := rsEval 4 word
  let s3 := rsEval 8 word
  if s0 = 0 ∧ s1 = 0 ∧ s2 = 0 ∧ s3 = 0 then .good (word.take 32)
  else
    match rsLocate s0 s1 s2 s3 with
    | some p =>
      let i := 35 - p
      .corrected ((setNth word i (Nat.xor (nth 0 word i) s0)).take 32) i
    | none => .uncorrectable (rsSyndromeField word)

end Sys2Proof.Machine
end

