-- ==== Sys2Proof/Machine/Routes.lean ====
section
/-! DEFINITION. The parts of the on-device network and the routes through it (chapter 8): links, endpoints, routes, and the
flits counted along them. -/
namespace Sys2Proof.Machine

/-! ## Links and endpoints (R170, R173, R174)

Directed links by number: 4 × core + port for the mesh link into that core from the neighbour at x − 1, x + 1, y − 1 or
y + 1; 0xC000 + region for the jamb link up into that region's jamb core, 0xC200 + region for the one down into the hub;
0xC400 + 2 × sill + (0 lower, 1 higher neighbour) for the bridge into that sill; 0xC500 + e and 0xC600 + e for the hub's
port to and from sill endpoint 0x3000 + e. -/

/-- Column and row of a core in its layer. -/
def coreX (n : Nat) : Nat := n % 32
/-- Row of a core in its layer. -/
def coreY (n : Nat) : Nat := n % 768 / 32

/-- R170: a mesh port of a core has a neighbour: 2,960 directed links on a layer. -/
def portExists (n port : Nat) : Bool :=
  match port with
  | 0 => decide (0 < coreX n)
  | 1 => decide (coreX n < 31)
  | 2 => decide (0 < coreY n)
  | _ => decide (coreY n < 23)

/-- R170: a mesh link, a jamb link or a bridge. -/
def linkExists (l : Nat) : Bool :=
  if l < 0xC000 then portExists (l / 4) (l % 4) else decide (l < 0xC408)

/-- R174: a sill unit's endpoint number. -/
def sillEndpoint (e : Nat) : Bool :=
  decide (0x3000 ≤ e) && decide (e < 0x3100) &&
    (decide (e % 0x40 < 3) || (decide (e / 0x40 = 0xC0) && decide (0x10 ≤ e % 0x40) && decide (e % 0x40 ≤ 0x13)))

/-- R173: a link or hub port of the network. -/
def portOrLink (l : Nat) : Bool :=
  linkExists l || (decide (0xC500 ≤ l) && decide (l < 0xC700) && sillEndpoint (0x3000 + l % 0x100))

/-- R174: the host interface, the keeper and the request engine. -/
def hostEndpoint : Nat := 0x3010
/-- R174. -/
def keeperEndpoint : Nat := 0x3011
/-- R174. -/
def engineEndpoint : Nat := 0x3012
/-- R174: the planner. -/
def plannerEndpoint : Nat := 0x3013
/-- R174: light engine `g` of the eight, two on a sill. -/
def lightEndpoint (g : Nat) : Nat := 0x3000 + 0x40 * (g / 2) + 1 + g % 2

/-- Stack of an endpoint (R174). -/
def stackOf (e : Nat) : Nat := if e < 0x3000 then e / 3072 else (e - 0x3000) / 0x40

/-- R170: the jamb core of a region. -/
def jambCore (r : Nat) : Nat := r / 128 * 3072 + r % 128 / 32 * 768 + (r % 32 / 8 * 6 + 2) * 32 + r % 8 * 4 + 1

/-! ## Routes (R175, R176) -/

/-- Steps of one leg between two coordinates, both ends included. -/
def leg (a b : Nat) : List Nat :=
  if a ≤ b then (List.range (b - a + 1)).map (fun i => a + i) else (List.range (a - b + 1)).map (fun i => a - i)

/-- The mesh link between two adjacent cores, by the position of the one it leaves. -/
def meshLink (base x0 y0 x1 y1 : Nat) : Nat :=
  4 * (base + y1 * 32 + x1) + (if x0 < x1 then 0 else if x1 < x0 then 1 else if y0 < y1 then 2 else 3)

/-- Links of a mesh leg between two cores of a layer, in the layer's dimension order. -/
def meshLinks (n0 n1 : Nat) (yFirst : Bool) : List Nat :=
  let x0 := coreX n0; let y0 := coreY n0; let x1 := coreX n1; let y1 := coreY n1
  let path := if yFirst then (leg y0 y1).map (fun y => (x0, y)) ++ (leg x0 x1).tail.map (fun x => (x, y1))
    else (leg x0 x1).map (fun x => (x, y0)) ++ (leg y0 y1).tail.map (fun y => (x1, y))
  (path.zip path.tail).map (fun p => meshLink (n0 / 768 * 768) p.1.1 p.1.2 p.2.1 p.2.2)

/-- Neighbour stacks on the ring 0, 1, 3, 2: lower and higher. -/
def ringNeighbours (s : Nat) : Nat × Nat := if s = 0 ∨ s = 3 then (1, 2) else (0, 3)

/-- Bit of `via` for a route between opposite stacks. -/
def viaBit (s : Nat) : Nat := match s with | 0 => 0 | 3 => 1 | 1 => 2 | _ => 3

/-- R175: the bridges a packet crosses between two stacks, each as the stack it leaves and the stack it reaches. -/
def bridges (a b via : Nat) : List (Nat × Nat) :=
  if a = b then []
  else
    let (lo, hi) := ringNeighbours a
    if b = lo || b = hi then [(a, b)]
    else let m := if bit via (viaBit a) then hi else lo; [(a, m), (m, b)]

/-- The link of a bridge. -/
def bridgeLink (b : Nat × Nat) : Nat := 0xC400 + 2 * b.2 + b2n (decide (b.1 ≠ (ringNeighbours b.2).1))

/-- R173, R175, Table 8.3: the links of a route, each with its phase: false outbound, true inbound. The ring leg, which
leads towards a jamb link, is outbound (log 112). -/
def State.routeOf (s : State) (src dst : Nat) : List (Nat × Bool) :=
  let order (n : Nat) : Bool := bit s.net.order (n / 768)
  if src < coreCount && dst < coreCount && decide (src / 768 = dst / 768) then
    (meshLinks src dst (order src)).map (fun l => (l, true))
  else
    (if src < coreCount then meshLinks src (jambCore (regionOf src)) (order src) ++ [0xC200 + regionOf src]
      else [0xC600 + src % 0x100]).map (fun l => (l, false))
    ++ (bridges (stackOf src) (stackOf dst) s.net.via).map (fun b => (bridgeLink b, false))
    ++ (if dst < coreCount then
        ((0xC000 + regionOf dst) :: meshLinks (jambCore (regionOf dst)) dst (order dst)).map (fun l => (l, true))
      else [(0xC500 + dst % 0x100, false)])

/-! ## Counters (R187) -/

/-- Changing a region's network record. -/
def setNet (r : Nat) (f : NetRec → NetRec) (s : State) : State :=
  { s with net := { s.net with regions := mapMod netRec0 s.net.regions r f } }

/-- Changing a sill's network record. -/
def setSillNet (k : Nat) (f : SillRec → SillRec) (s : State) : State :=
  { s with net := { s.net with sills := setNth s.net.sills k (f (nth {} s.net.sills k)) } }

/-- The core a mesh link leaves. -/
def linkFrom (l : Nat) : Nat :=
  match l % 4 with
  | 0 => l / 4 - 1
  | 1 => l / 4 + 1
  | 2 => l / 4 - 32
  | _ => l / 4 + 32

/-- Tables 8.7 and 8.8: flits sent on a link count where it leaves a region or is a bridge. -/
def countFlits (l flits : Nat) (s : State) : State :=
  let out (r : Nat) (s : State) : State := setNet r (fun x => { x with flitsOut := satAdd 32 x.flitsOut flits }) s
  if flits = 0 then s
  else if l < 0xC000 then if regionOf (linkFrom l) = regionOf (l / 4) then s else out (regionOf (linkFrom l)) s
  else if l < 0xC200 then s
  else if l < 0xC400 then out (l - 0xC200) s
  else if l < 0xC408 then
    let k := (l - 0xC400) / 2
    let from_ := if l % 2 = 0 then (ringNeighbours k).1 else (ringNeighbours k).2
    setSillNet from_ (fun x =>
      if k = (ringNeighbours from_).1 then { x with aFlits := satAdd 32 x.aFlits flits }
      else { x with bFlits := satAdd 32 x.bFlits flits }) s
  else s

/-- Flits that cross the network whole within one command (log 65). -/
def crossNet (src dst flits : Nat) (s : State) : State :=
  (s.routeOf src dst).foldl (fun s l => countFlits l.1 flits s) s

/-- R172: pieces of `len` bytes at `a`: they do not cross a 2 KiB boundary. -/
def pieceLens : Nat → Nat → Nat → List Nat
  | 0, _, _ => []
  | fuel + 1, a, len => if len = 0 then [] else
      let n := min len (2048 - a % 2048)
      n :: pieceLens fuel (a + n) (len - n)

/-- R172: flits of the packets that carry `len` bytes at `a`. -/
def dataFlits (a len : Nat) : Nat := ((pieceLens (len / 2048 + 2) a len).map (fun n => 1 + (n + 63) / 64)).sum

/-- R172, R174, R175: a sill unit's access to a tile crosses the network: a READ and its READ_DATA, or a WRITE and its
ACK. -/
def crossAccess (unit tile a len : Nat) (write : Bool) (s : State) : State :=
  let heads := (pieceLens (len / 2048 + 2) a len).length
  crossNet tile unit (if write then heads else dataFlits a len) (crossNet unit tile (if write then dataFlits a len else heads) s)

end Sys2Proof.Machine
end

