-- ==== Sys2Proof/Machine/Power.lean ====
section
/-! DEFINITION. Power delivery (chapter 15) and the averages and estimate of the power cap (R349, R351). -/
namespace Sys2Proof.Machine

/-! ## Power on and off (R326, R329) -/

/-- R326, R371: with the rails gone everything is lost but the fuses and the protection block. -/
def losePower (s : State) : State :=
  let z := wholeReset 0 0 false s
  { z with
    kpr := { z.kpr with railsUp := false, boot := .unpowered, oscWait := 0, maddr := 0 },
    sup := { supReset with railsOk := 0, stage1Ok := 0, rails := List.replicate 4 {} }, tel := telReset }

/-- R326: loss of the input. -/
def doLossOfPower (s : State) : State := losePower s

/-- R326. -/
def execLossOfPower (s : State) : Host.Outcome State Fault Refusal := .next (doLossOfPower s)

/-- R326, Table 15.1: a shutdown of the VPM has the same effect as a loss of power. -/
def doVpmShutdown (s : State) : State := if s.kpr.railsUp then losePower s else s

/-- R326. -/
def execVpmShutdown (s : State) : Host.Outcome State Fault Refusal := .next (doVpmShutdown s)

/-- R329, R310, R424: the rails rise, the straps are latched and the device is in ROM with PERST_N asserted (log 2). -/
def doPowerOn (osc maddr : Nat) (s : State) : State :=
  if s.kpr.railsUp then s
  else
    let z := wholeReset 0 0 false s
    { z with kpr := { z.kpr with railsUp := true, oscWait := osc, maddr := maddr }, sup := supReset, tel := telReset }

/-- R329. -/
def execPowerOn (osc maddr : Nat) (s : State) : Host.Outcome State Fault Refusal := .next (doPowerOn (osc % 8) (maddr % 4) s)

/-- Table 15.1: the voltage, in 10 mV, lies in a warn band. -/
def inWarnBand (v : Nat) : Bool := (decide (4600 ≤ v) && decide (v < 4800)) || (decide (6000 < v) && decide (v ≤ 6300))

/-- R326: entry into a warn band; one event for each entry. -/
def doInputWarnBand (v : Nat) (s : State) : State :=
  if s.kpr.railsUp && inWarnBand v && !s.sup.inputWarn then
    raise 0x0058 1 noUnit [v] { s with sup := { s.sup with inputWarn := true, voltage := v } }
  else s

/-- R326. -/
def execInputWarnBand (v : Nat) (s : State) : Host.Outcome State Fault Refusal := .next (doInputWarnBand (v % 2 ^ 16) s)

/-- R326, Table 15.7: the input is back in its range. -/
def doInputWarnLeave (v : Nat) (s : State) : State :=
  if s.kpr.railsUp && decide (4800 ≤ v) && decide (v ≤ 6000) then
    { s with sup := { s.sup with inputWarn := false, voltage := v } }
  else s

/-- R326. -/
def execInputWarnLeave (v : Nat) (s : State) : Host.Outcome State Fault Refusal := .next (doInputWarnLeave (v % 2 ^ 16) s)

/-- R327: a stage-one converter fails; with the second one power is lost. -/
def doStage1ConverterFail (i : Nat) (s : State) : State :=
  if s.kpr.railsUp && bit s.sup.stage1Ok i then
    let ok := s.sup.stage1Ok - 2 ^ i
    if ok = 0 then losePower s
    else raise 0x0059 1 i [] { s with sup := { s.sup with stage1Ok := ok, capLimited := true } }
  else s

/-- R327. -/
def execStage1ConverterFail (i : Nat) (s : State) : Host.Outcome State Fault Refusal :=
  onUnit (i < 2) (doStage1ConverterFail i s)

/-- R328: a rail out of regulation is fatal. -/
def doRailOutOfRegulation (k : Nat) (s : State) : State :=
  if s.kpr.railsUp then
    let s := { s with sup := { s.sup with railsOk := if bit s.sup.railsOk k then s.sup.railsOk - 2 ^ k else s.sup.railsOk } }
    if s.powered then fatal 0x02 s else s
  else s

/-- R328. -/
def execRailOutOfRegulation (k : Nat) (s : State) : Host.Outcome State Fault Refusal :=
  onUnit (k < 4) (doRailOutOfRegulation k s)

/-! ## Regulator groups (R332 to R337) -/

/-- R332: a voltage sensor is excluded for the power-up; with all four the region is duty-limited. -/
def doVsensorExclude (r k : Nat) (s : State) : State :=
  if s.powered && !bit (s.groupOf r).sensorsExcluded k then
    let ex := (s.groupOf r).sensorsExcluded + 2 ^ k
    raise 0x005B 0 r [k]
      (setGroup r (fun g => { g with sensorsExcluded := ex, dutyLimited := g.dutyLimited || decide (ex = 15) }) s)
  else s

/-- R332. -/
def execVsensorExclude (r k : Nat) (s : State) : Host.Outcome State Fault Refusal :=
  onUnit (r < regionCount ∧ k < 4) (doVsensorExclude r k s)

/-- R336: a firing of the droop shunt is counted; no event. -/
def doShuntFire (r : Nat) (s : State) : State :=
  if s.powered then setGroup r (fun g => { g with nowFires := satAdd 32 g.nowFires 1 }) s else s

/-- R336. -/
def execShuntFire (r : Nat) (s : State) : Host.Outcome State Fault Refusal := onUnit (r < regionCount) (doShuntFire r s)

/-- R337: the excess drop of a group in mV under an IR model in 0.01 mΩ (currents in 10 mA). -/
def excessDrop (g : Group) : Int := (g.vOut : Int) - g.vMin - (g.irModel * g.current / 10000 : Nat)

/-- R337: a sample of output, lowest sensor and current. Samples of at least 1.0 A teach the model until a bond is
suspected; its value is a running median whose weights the spec does not give, so it is a free value (log 11). -/
def doBondSample (r vOut vMin cur : Nat) (s : State) : State :=
  if s.powered then
    let learn := decide (100 ≤ cur) && !(s.groupOf r).bondSuspect
    let v := Config.unstated s.fresh 0 % 2 ^ 16
    let s := if learn then useFresh s else s
    setGroup r (fun g =>
      let n := if learn then min 1000 (g.irSamples + 1) else g.irSamples
      let g := { g with vOut := vOut, vMin := vMin, current := cur, irSamples := n,
                        irModel := if learn && decide (n = 1000) then v else g.irModel }
      { g with excessSince :=
          if n = 1000 && decide (25 < excessDrop g) then (if g.excessSince = 0 then s.frm.tc + 1 else g.excessSince) else 0 }) s
  else s

/-- R337. -/
def execBondSample (r vOut vMin cur : Nat) (s : State) : Host.Outcome State Fault Refusal :=
  onUnit (r < regionCount) (doBondSample r (vOut % 2 ^ 12) (vMin % 2 ^ 12) (cur % 2 ^ 12) s)

/-- R337: the excess has stayed above 25 mV for 10 ms. The unstarted counter stands one above its tc. -/
def doBondSuspect (r : Nat) (s : State) : State :=
  let g := s.groupOf r
  if s.powered && !g.bondSuspect && decide (g.excessSince ≠ 0) && decide (g.excessSince + 10 * tcMs ≤ s.frm.tc + 1) then
    raise 0x005C 1 r [(excessDrop g).toNat] (setGroup r (fun g => { g with bondSuspect := true, dutyLimited := true }) s)
  else s

/-- R337. -/
def execBondSuspect (r : Nat) (s : State) : Host.Outcome State Fault Refusal := onUnit (r < regionCount) (doBondSuspect r s)

/-! ## The peak limiter (R338) -/

/-- R327: one stage-one converter carries the module. -/
def State.oneConverter (s : State) : Bool := decide (s.sup.stage1Ok ≠ 3)

/-- Table 15.5: the threshold of a measure (input power over 1 µs and held, VCORE current over 1 µs and held), in W or A,
with both converters or with one (R327). -/
def peakThreshold (one : Bool) (measure : Nat) : Nat :=
  match measure with
  | 1 => if one then 1300 else 2400
  | 2 => if one then 900 else 1700
  | 3 => if one then 1200 else 2200
  | _ => if one then 950 else 1700

/-- Table 15.5: the release level, W. -/
def peakRelease (one : Bool) : Nat := if one then 850 else 1600

/-- R338: the limiter engages when a measure 1 to 4 of Table 15.5 crosses its threshold; at most one event in a
millisecond. -/
def doPeakLimiterEngage (measure value : Nat) (s : State) : State :=
  if s.powered && !s.sup.limiting && decide (peakThreshold s.oneConverter measure < value) then
    let ms := s.frm.tc / tcMs + 1
    let first := decide (s.sup.limitMs ≠ ms)
    let s := { s with sup := { s.sup with
      limiting := true, engagements := satAdd 32 s.sup.engagements 1, engagedAt := s.frm.tc, limitMs := ms } }
    if first then raise 0x005D 1 noUnit [measure] s else s
  else s

/-- R338: the measure and its value in W or A. -/
def execPeakLimiterEngage (measure value : Nat) (s : State) : Host.Outcome State Fault Refusal :=
  onUnit (1 ≤ measure ∧ measure ≤ 4) (doPeakLimiterEngage measure value s)

/-- R338: the limiter releases once input power has stayed below the release level; its time engaged is counted in µs. -/
def doPeakLimiterRelease (power : Nat) (s : State) : State :=
  if s.powered && s.sup.limiting && decide (power < peakRelease s.oneConverter) then
    { s with sup := { s.sup with
        limiting := false, limitedUs := satAdd 32 s.sup.limitedUs ((s.frm.tc - s.sup.engagedAt) / tcUs) } }
  else s

/-- R338: the highest input power of the last 1 ms, W. -/
def execPeakLimiterRelease (power : Nat) (s : State) : Host.Outcome State Fault Refusal := .next (doPeakLimiterRelease power s)

/-! ## Averages and estimate (R349, R351) -/

/-- Mean of a list of samples, rounded down; 0 for none. -/
def meanOf (l : List Nat) : Nat := if l.isEmpty then 0 else l.sum / l.length

/-- R349: a window's average is judged at a sample. -/
def judgeAverage (window avg cap : Nat) (s : State) : State :=
  if cap ≠ 0 && decide (cap * 102 < avg * 100) then
    let sec := s.frm.tc / tcSec + 1
    let first := decide (s.pwr.overSec ≠ sec)
    let s := { s with pwr := { s.pwr with overEvents := satAdd 16 s.pwr.overEvents 1, overSec := sec } }
    if first then raise 0x0064 1 noUnit [window, avg, cap] s else s
  else s

/-- R410: an input sample in the supply's registers and in both averages' windows. -/
def takeSample (power voltage current peak : Nat) (rails : List (Nat × Nat)) (s : State) : State :=
  let w1 := (power :: s.pwr.samples1).take 1000
  let w8 := (power :: s.pwr.samples8).take 8000
  { s with
    sup := { s.sup with
      power := power, voltage := voltage, current := current, nowPeak := max s.sup.nowPeak peak,
      rails := (s.sup.rails.zip (padTo 4 (0, 0) rails)).map (fun e => { e.1 with measured := e.2.1, current := e.2.2 }) },
    pwr := { s.pwr with samples1 := w1, samples8 := w8, avg1 := meanOf w1, avg8 := meanOf w8 } }

/-- R349: in RUNNING each average is judged against its cap in force, the 1 s average first. -/
def judgeAverages (s : State) : State :=
  if s.kpr.state = .running then judgeAverage 8 s.pwr.avg8 s.pwr.force8 (judgeAverage 1 s.pwr.avg1 s.pwr.force1 s) else s

/-- R349, R410: the input is sampled into both windows in every state with rails, and judged in RUNNING. -/
def doAvgSample (power voltage current peak : Nat) (rails : List (Nat × Nat)) (s : State) : State :=
  if s.kpr.railsUp then judgeAverages (takeSample power voltage current peak rails s) else s

/-- R349: input power in W, voltage in 10 mV, current in 10 mA, largest 1 µs average, and for the four rails measured mV
and 0.1 A. -/
def execAvgSample (power voltage current peak : Nat) (rails : List (Nat × Nat)) (s : State) :
    Host.Outcome State Fault Refusal :=
  .next (doAvgSample (power % 2 ^ 16) (voltage % 2 ^ 16) (current % 2 ^ 16) (peak % 2 ^ 16) ((padTo 4 (0, 0) rails).take 4) s)

/-- R351: at a second of tc the measured input of that second is compared with the corrected estimate. `estimate` is the
estimator's figure before correction, in W. -/
def doEstimatorSecond (measured estimate : Nat) (s : State) : State :=
  if s.powered then
    let corrected := estimate * s.pwr.k / 4096
    let s := { s with pwr := { s.pwr with estimate := corrected % 2 ^ 16, measured := measured } }
    if corrected * 115 < measured * 100 then
      let k := if corrected = 0 then 0x2000 else min 0x2000 (s.pwr.k * measured / corrected)
      raise 0x0065 1 noUnit [k, measured, corrected]
        { s with pwr := { s.pwr with kNext := max s.pwr.kNext k, trims := satAdd 8 s.pwr.trims 1 } }
    else if measured * 100 < corrected * 85 then
      let hour := s.frm.tc / (3600 * tcSec) + 1
      let first := decide (s.pwr.lowHour ≠ hour)
      let s := { s with pwr := { s.pwr with lowReports := satAdd 8 s.pwr.lowReports 1, lowHour := hour } }
      if first then raise 0x0065 0 noUnit [s.pwr.k, measured, corrected] s else s
    else s
  else s

/-- R351. -/
def execEstimatorSecond (measured estimate : Nat) (s : State) : Host.Outcome State Fault Refusal :=
  .next (doEstimatorSecond (measured % 2 ^ 16) (estimate % 2 ^ 16) s)

end Sys2Proof.Machine
end

