-- ==== Sys2Proof/Machine/Thermal.lean ====
section
/-! DEFINITION. Temperatures, holds, models and the cooling estimate (chapter 16). Temperatures are in 1/16 °C. -/
namespace Sys2Proof.Machine

/-- Sensor pair of a region. -/
def State.pairOf (s : State) (r : Nat) : Pair := mapGet pair0 s.thm.regions r

/-- Sensor pair of a memory footprint. -/
def State.memPairOf (s : State) (r : Nat) : Pair := mapGet pair0 s.thm.mems r

/-- Changing a region's record. -/
def setPair (r : Nat) (f : Pair → Pair) (s : State) : State :=
  { s with thm := { s.thm with regions := mapMod pair0 s.thm.regions r f } }

/-- Changing a footprint's record. -/
def setMemPair (r : Nat) (f : Pair → Pair) (s : State) : State :=
  { s with thm := { s.thm with mems := mapMod pair0 s.thm.mems r f } }

/-- Changing a sill's record. -/
def setSill (i : Nat) (f : SillHeat → SillHeat) (s : State) : State :=
  { s with thm := { s.thm with sills := setNth s.thm.sills i (f (nth {} s.thm.sills i)) } }

/-- R344: the higher valid reading of a pair. -/
def pairReading (p : Pair) : Option Nat :=
  if p.stateA = 2 then (if p.stateB = 2 then none else some p.b)
  else if p.stateB = 2 then some p.a
  else some (max p.a p.b)

/-- R345: the governing temperature of a compute region. -/
def State.regionTemp (s : State) (r : Nat) : Nat :=
  let p := s.pairOf r
  match pairReading p with
  | none => p.model
  | some t => if layerOf r = 1 || layerOf r = 2 then max t p.model else t

/-- Table 16.2: the governing temperature of a memory footprint. -/
def State.memTemp (s : State) (r : Nat) : Nat := (pairReading (s.memPairOf r)).getD (s.regionTemp r)

/-- Readings of a sill's sensors that have not failed. -/
def validSill (h : SillHeat) : List Nat :=
  ((List.range 16).filter (fun i => !bit h.failed i)).map (fun i => nth 0 h.readings i)

/-- R345, Table 16.2: the governing temperature of a sill. -/
def State.sillTemp (s : State) (i : Nat) : Nat :=
  let v := validSill (nth {} s.thm.sills i)
  if v.isEmpty then ((List.range 32).map (fun j => s.regionTemp (i * 128 + j))).foldl max 0 else v.foldl max 0

/-- R345: the mean of the governing temperatures below and above a region. -/
def State.boundTemp (s : State) (r : Nat) : Nat :=
  let below := if layerOf r = 0 then s.sillTemp (r / 128) else s.memTemp (r - 32)
  (below + s.memTemp r) / 2

/-- A counter of a condition: 1 + the tc since which it has held, 0 where it does not hold. -/
def since (holds : Bool) (old tc : Nat) : Nat := if holds then (if old = 0 then tc + 1 else old) else 0

/-- The condition of a `since` counter has held for a time. -/
def heldFor (c tc time : Nat) : Bool := decide (c ≠ 0) && decide (c + time ≤ tc + 1)

/-- A hold begins (R346): its event and its count. -/
def holdBegins (unit temp : Nat) (s : State) : State :=
  raise 0x0062 1 unit [temp] { s with thm := { s.thm with holds := satAdd 16 s.thm.holds 1 } }

/-- R346, Table 16.3: a compute region is judged. -/
def judgeRegion (r : Nat) (s : State) : State :=
  let t := s.regionTemp r
  let p := s.pairOf r
  let tc := s.frm.tc
  let begins := !p.held && decide (1648 < t)
  let s := setPair r (fun p => { p with
    held := p.held || begins, holdCount := if begins then satAdd 8 p.holdCount 1 else p.holdCount,
    coolSince := since (decide (t ≤ 1600)) p.coolSince tc, tripSince := since (decide (1760 < t)) p.tripSince tc,
    differSince := since (decide (p.stateA ≠ 2) && decide (p.stateB ≠ 2) &&
      (decide (p.b + 128 < p.a) || decide (p.a + 128 < p.b))) p.differSince tc }) s
  if begins then holdBegins r t s else s

/-- R346, Table 16.3: a memory footprint is judged. -/
def judgeMem (r : Nat) (s : State) : State :=
  let t := s.memTemp r
  let p := s.memPairOf r
  let tc := s.frm.tc
  let begins := !p.held && decide (1520 < t)
  let s := setMemPair r (fun p => { p with
    held := p.held || begins, coolSince := since (decide (t ≤ 1488)) p.coolSince tc,
    tripSince := since (decide (1680 < t)) p.tripSince tc,
    differSince := since (decide (p.stateA ≠ 2) && decide (p.stateB ≠ 2) &&
      (decide (p.b + 128 < p.a) || decide (p.a + 128 < p.b))) p.differSince tc }) s
  if begins then holdBegins (r + 0x1000) t s else s

/-- R346, Table 16.3: a sill is judged. -/
def judgeSill (i : Nat) (s : State) : State :=
  let t := s.sillTemp i
  let h := nth {} s.thm.sills i
  let tc := s.frm.tc
  let begins := !h.held && decide (1648 < t)
  let s := setSill i (fun h => { h with
    held := h.held || begins, coolSince := since (decide (t ≤ 1600)) h.coolSince tc,
    tripSince := since (decide (1760 < t)) h.tripSince tc }) s
  if begins then holdBegins (i + 0x2000) t s else s

/-- The temperature units: region, footprint, sill, inlet. -/
def sensorState (cls u k : Nat) (s : State) : Nat :=
  match cls with
  | 0 => if k = 0 then (s.pairOf u).stateA else (s.pairOf u).stateB
  | 1 => if k = 0 then (s.memPairOf u).stateA else (s.memPairOf u).stateB
  | 2 => if bit (nth {} s.thm.sills u).failed k then 2 else if bit (nth {} s.thm.sills u).suspect k then 1 else 0
  | _ => if s.thm.inletFailed then 2 else 0

/-- Excluding a sensor: its state and its reading. -/
def failSensor (cls u k : Nat) (s : State) : State :=
  let f : Pair → Pair := fun p => if k = 0 then { p with stateA := 2, a := 0 } else { p with stateB := 2, b := 0 }
  match cls with
  | 0 => setPair u f s
  | 1 => setMemPair u f s
  | 2 => setSill u (fun h => { h with failed := h.failed ||| 2 ^ k, readings := setNth h.readings k 0 }) s
  | _ => { s with thm := { s.thm with inletFailed := true, inlet := 0 } }

/-- R344: a sensor fails and is excluded until reset. The inlet sensor has no unit number in Table 19.4 (log 12). -/
def doSensorFail (cls u k : Nat) (s : State) : State :=
  if s.powered && s.thm.started && decide (sensorState cls u k s ≠ 2) then
    let fresh := decide (sensorState cls u k s = 0)
    let s := failSensor cls u k s
    let s := if fresh then { s with thm := { s.thm with flagged := satAdd 16 s.thm.flagged 1 } } else s
    raise 0x0060 1 (if cls = 3 then noUnit else u + 0x1000 * cls) [k, 2] s
  else s

/-- R344: a reading above 150 °C fails its sensor. -/
def failHot (cls u k x : Nat) (s : State) : State := if 2400 < x then doSensorFail cls u k s else s

/-- R344: sensors that read out of range fail before their readings are taken. -/
def failReadings (t : TempReadings) (s : State) : State :=
  let s := t.regions.foldl (fun s e => failHot 0 e.1 1 e.2.2 (failHot 0 e.1 0 e.2.1 s)) s
  let s := t.mems.foldl (fun s e => failHot 1 e.1 1 e.2.2 (failHot 1 e.1 0 e.2.1 s)) s
  let s := t.sills.foldl (fun s e => failHot 2 e.1 e.2.1 e.2.2 s) s
  failHot 3 0 0 (t.inlet.getD 0) s

/-- R343: the readings are taken; a failed sensor reads 0 (Table 16.7). -/
def takeReadings (t : TempReadings) (s : State) : State :=
  let put (p : Pair) (a b : Nat) : Pair :=
    { p with a := if p.stateA = 2 then 0 else a, b := if p.stateB = 2 then 0 else b }
  let s := t.regions.foldl (fun s e => setPair e.1 (fun p => put p e.2.1 e.2.2) s) s
  let s := t.mems.foldl (fun s e => setMemPair e.1 (fun p => put p e.2.1 e.2.2) s) s
  let s := t.sills.foldl (fun s e => setSill e.1 (fun h =>
    { h with readings := setNth h.readings e.2.1 (if bit h.failed e.2.1 then 0 else e.2.2) }) s) s
  { s with thm := { s.thm with ready := true, inlet := if s.thm.inletFailed then 0 else t.inlet.getD s.thm.inlet } }

/-- Regions of a list and those of their stacks' other regions whose governing temperature the readings can change:
every region, footprint and sill named. Before step 4 and in HALTED only the inlet sensor is read (R410). -/
def doTempSample (t : TempReadings) (s : State) : State :=
  if s.powered && s.thm.started then
    let s := takeReadings t (failReadings t s)
    let s := t.regions.foldl (fun s e => judgeRegion e.1 s) s
    let s := t.mems.foldl (fun s e => judgeMem e.1 s) s
    (List.range 4).foldl (fun s i => judgeSill i s) s
  else if s.kpr.railsUp && !s.thm.inletFailed then
    { s with thm := { s.thm with inlet := if 2400 < t.inlet.getD 0 then s.thm.inlet else t.inlet.getD s.thm.inlet } }
  else s

/-- The readings of sensors that exist, in 12 bits. -/
def TempReadings.narrow (t : TempReadings) : TempReadings :=
  let pairs (l : List (Nat × Nat × Nat)) : List (Nat × Nat × Nat) :=
    (l.filter (fun e => decide (e.1 < 512))).map (fun e => (e.1, e.2.1 % 2 ^ 12, e.2.2 % 2 ^ 12))
  { regions := pairs t.regions, mems := pairs t.mems
    sills := (t.sills.filter (fun e => decide (e.1 < 4) && decide (e.2.1 < 16))).map (fun e => (e.1, e.2.1, e.2.2 % 2 ^ 12))
    inlet := t.inlet.map (fun v => v % 2 ^ 12) }

/-- R343, R346: a sample of the sensors, and the holds of the units sampled. -/
def execTempSample (t : TempReadings) (s : State) : Host.Outcome State Fault Refusal := .next (doTempSample t.narrow s)

/-- R344: the lower sensor of a pair that has differed by more than 8 °C for more than 100 ms is flagged suspect.
`mem` names a memory footprint. -/
def doSensorSuspect (mem : Bool) (r : Nat) (s : State) : State :=
  let p := if mem then s.memPairOf r else s.pairOf r
  let k := if p.a < p.b then 0 else 1
  let flagged := if k = 0 then p.stateA else p.stateB
  if s.powered && s.thm.started && heldFor p.differSince s.frm.tc (100 * tcMs) && decide (flagged = 0) then
    let f : Pair → Pair := fun p => if k = 0 then { p with stateA := 1 } else { p with stateB := 1 }
    let s := if mem then setMemPair r f s else setPair r f s
    raise 0x0060 0 (if mem then r + 0x1000 else r) [k, 1] { s with thm := { s.thm with flagged := satAdd 16 s.thm.flagged 1 } }
  else s

/-- R344. -/
def execSensorSuspect (mem : Bool) (r : Nat) (s : State) : Host.Outcome State Fault Refusal :=
  onUnit (r < regionCount) (doSensorSuspect mem r s)

/-- R344: class 0 region, 1 footprint, 2 sill, 3 inlet. -/
def execSensorFail (cls u k : Nat) (s : State) : Host.Outcome State Fault Refusal :=
  onUnit ((cls < 2 ∧ u < 512 ∧ k < 2) ∨ (cls = 2 ∧ u < 4 ∧ k < 16) ∨ (cls = 3 ∧ u = 0 ∧ k = 0)) (doSensorFail cls u k s)

/-- Since when a unit lies above its trip temperature. -/
def tripSinceOf (cls u : Nat) (s : State) : Nat :=
  match cls with
  | 0 => (s.pairOf u).tripSince
  | 1 => (s.memPairOf u).tripSince
  | _ => (nth {} s.thm.sills u).tripSince

/-- R346: a trip temperature exceeded for 100 µs is fatal. -/
def doTempTrip (cls u : Nat) (s : State) : State :=
  if s.powered && s.thm.started && heldFor (tripSinceOf cls u s) s.frm.tc (100 * tcUs) then fatal 0x04 s else s

/-- R346: class 0 region, 1 footprint, 2 sill. -/
def execTempTrip (cls u : Nat) (s : State) : Host.Outcome State Fault Refusal :=
  onUnit ((cls < 2 ∧ u < 512) ∨ (cls = 2 ∧ u < 4)) (doTempTrip cls u s)

/-- R346: a unit at or below its release temperature for 1 ms leaves its hold. -/
def doHoldRelease (cls u : Nat) (s : State) : State :=
  if s.powered && s.thm.started then
    match cls with
    | 0 => if (s.pairOf u).held && heldFor (s.pairOf u).coolSince s.frm.tc tcMs then
             setPair u (fun p => { p with held := false }) s else s
    | 1 => if (s.memPairOf u).held && heldFor (s.memPairOf u).coolSince s.frm.tc tcMs then
             setMemPair u (fun p => { p with held := false }) s else s
    | _ => if (nth {} s.thm.sills u).held && heldFor (nth {} s.thm.sills u).coolSince s.frm.tc tcMs then
             setSill u (fun h => { h with held := false }) s else s
  else s

/-- R346. -/
def execHoldRelease (cls u : Nat) (s : State) : Host.Outcome State Fault Refusal :=
  onUnit ((cls < 2 ∧ u < 512) ∨ (cls = 2 ∧ u < 4)) (doHoldRelease cls u s)

/-- R345: the model of one region from its power over the last 1 ms before correction, in mW. -/
def updateModel (r mw : Nat) (s : State) : State :=
  let t := s.boundTemp r + mapGet 0 s.fuses.theta r * (mw * s.pwr.k / 4096) / 2000
  let s := setPair r (fun p => { p with model := clampTo 12 t }) s
  let p := s.pairOf r
  let governs := match pairReading p with
    | none => true
    | some x => (layerOf r = 1 || layerOf r = 2) && decide (x < p.model)
  let sec := s.frm.tc / tcSec + 1
  let event := governs && (pairReading p).isSome && decide (p.modelSec ≠ sec)
  let s := setPair r (fun p => { p with modelGoverns := governs, modelSec := if event then sec else p.modelSec }) s
  if event then
    raise 0x0061 0 r [p.model, (pairReading p).getD 0]
      { s with thm := { s.thm with modelEvents := satAdd 16 s.thm.modelEvents 1 } }
  else s

/-- R345: the models of the regions listed, each with its power in mW, and the holds that follow. -/
def doModelUpdate (powers : List (Nat × Nat)) (s : State) : State :=
  if s.powered && s.thm.started then
    powers.foldl (fun s e => judgeRegion e.1 s) (powers.foldl (fun s e => updateModel e.1 e.2 s) s)
  else s

/-- R345. -/
def execModelUpdate (powers : List (Nat × Nat)) (s : State) : Host.Outcome State Fault Refusal :=
  .next (doModelUpdate (powers.filter (fun e => decide (e.1 < 512))) s)

/-! ## Cooling (R356) -/

/-- R356: the mean governing temperature of the 128 footprints of memory layer 3. -/
def State.topTemp (s : State) : Nat :=
  ((List.range 128).map (fun i => s.memTemp (i / 32 * 128 + 96 + i % 32))).sum / 128

/-- R356: the resistance in 10^−5 °C/W at an input power in W. -/
def coolResistance (top inlet p : Nat) : Nat := (top - inlet) * 100000 / (16 * p)

/-- R356: every 1 s average of the last 60 s lies within 10% of the present one. -/
def steadyPower (p : Nat) (l : List Nat) : Bool :=
  decide (60 ≤ l.length) && l.all (fun q => decide (p * 9 ≤ q * 10) && decide (q * 10 ≤ p * 11))

/-- R356: the baseline that stands after a qualifying second. -/
def captureBase (t : ThmBlk) : ThmBlk :=
  if t.base = 0 && decide (t.qualS = 600) && decide (t.theta ≠ 0) then
    { t with base := t.theta, baseValid := true, selfCaptured := true } else t

/-- R356: the warning begins or is repeated every hour, and clears after 600 qualifying seconds below 1.10. -/
def judgeCooling (s : State) : State :=
  let t := s.thm
  if t.base ≠ 0 && decide (t.base * 115 < t.theta * 100) then
    if !t.warning || decide (t.warnedAt + 3600 * tcSec ≤ s.frm.tc) then
      raise 0x0066 1 noUnit [t.theta, t.base] { s with thm := { t with warning := true, warnedAt := s.frm.tc } }
    else s
  else if t.warning && decide (600 ≤ t.below) then { s with thm := { t with warning := false } }
  else s

/-- R356: the estimate of one second. -/
def doCoolingEstimate (s : State) : State :=
  if s.powered && s.thm.started && !s.thm.inletFailed then
    let p := s.pwr.avg1
    let powers := (p :: s.thm.powers).take 60
    let s := { s with thm := { s.thm with powers := powers } }
    if decide (800 ≤ p) && steadyPower p powers then
      let x := coolResistance s.topTemp s.thm.inlet p
      let recent := (x :: s.thm.recent).take 600
      let t := captureBase { s.thm with
        recent := recent, theta := clampTo 16 (meanOf recent), qualS := satAdd 20 s.thm.qualS 1 }
      judgeCooling { s with thm := { t with below := if x * 100 < t.base * 110 then t.below + 1 else 0 } }
    else judgeCooling s
  else s

/-- R356. -/
def execCoolingEstimate (s : State) : Host.Outcome State Fault Refusal := .next (doCoolingEstimate s)

end Sys2Proof.Machine
end

