-- ==== Sys2Proof/Machine/Tile.lean ====
section
/-! DEFINITION. Stacked memory (chapter 6): addresses, code words, bus errors, narrow writes, refresh, scrub. -/
namespace Sys2Proof.Machine

/-- R136, R137: first address beyond the device physical space. -/
def deviceSpace : Nat := 0xC000000000
/-- Size of a tile's slot (R7). -/
def slotSize : Nat := 0x4000000
/-- Data bytes of a tile. -/
def tileData : Nat := 0x3000000
/-- Data bytes of a bank. -/
def bankData : Nat := 0x200000

/-- Tile of a device physical address (R7). -/
def tileOf (a : Nat) : Nat := a / slotSize
/-- Bank of a device physical address (R128). -/
def bankOf (a : Nat) : Nat := a % slotSize / bankData
/-- DRAM row (R128). -/
def rowOf (a : Nat) : Nat := a % bankData / 2048
/-- The address lies in no bank. -/
def inHole (a : Nat) : Bool := decide (deviceSpace ≤ a) || decide (tileData ≤ a % slotSize)

/-- Who asks: the requester code and source of Table 6.15. -/
structure Who where
  code : Nat
  source : Nat
  unit : Option Nat := none -- the sill unit that sends it through the network (R174)
  deriving DecidableEq, Repr

/-- What an access answers; the causes are those of Table 6.15. -/
inductive MemAns
  | data (bytes : List Nat)
  | error (cause : Nat)
  deriving DecidableEq, Repr

/-- One tile's record. -/
def State.tileRec (s : State) (n : Nat) : Tile := mapGet tile0 s.mem.tiles n

/-- Changing one tile's record. -/
def setTile (n : Nat) (f : Tile → Tile) (s : State) : State :=
  { s with mem := { s.mem with tiles := mapMod tile0 s.mem.tiles n f } }

/-- The cause that refuses any access to a word: hole or fence. -/
def State.wordBlocked (s : State) (a : Nat) : Option Nat :=
  if inHole a then some 3 else if s.bankFenced (tileOf a) (bankOf a) then some 4 else none

/-- The 36 symbols stored for the code word at `a`. -/
def State.storedWord (s : State) (a : Nat) : List Nat := memBytes s.mem.dram a 32 ++ memBytes s.mem.check (a / 32 * 4) 4

/-- R139: the 36 symbols the code word at `a` reads as: a stuck symbol reads as what it is stuck at. -/
def State.codeWord (s : State) (a : Nat) : List Nat :=
  if s.mem.hard.isEmpty then s.storedWord a
  else (s.storedWord a).zipIdx.map (fun e =>
    match mapGet 0 s.mem.hard (a / 32 * 36 + e.2) with
    | 0 => e.1
    | v + 1 => v)

/-- R437: the row of an access stays open in its sub-array. -/
def openRow (a : Nat) (s : State) : State :=
  { s with mem := { s.mem with
      openRows := mapSet 0 s.mem.openRows ((tileOf a * 32 + bankOf a) * 4 + rowOf a % 4) (rowOf a + 1) } }

/-- Storing one whole code word with fresh check bytes (R134). -/
def storeWord (a : Nat) (bytes : List Nat) (s : State) : State :=
  openRow a { s with mem := { s.mem with
    dram := memPutBytes s.mem.dram a bytes, check := memPutBytes s.mem.check (a / 32 * 4) (rsCheck bytes) } }

/-- Bits of one byte change. -/
def flipByte (m : Memory) (a x : Nat) : Memory := memWrite m a (memRead m a ^^^ BitVec.ofNat 8 x)

/-- Errors that have come into stored symbols: index 36 × word + symbol from the word at `a`, and the bits changed. -/
def flipSymbols (a : Nat) (flips : List (Nat × Nat)) (s : State) : State :=
  flips.foldl (fun s f =>
    let w := a / 32 * 32 + f.1 / 36 * 32
    let i := f.1 % 36
    if i < 32 then { s with mem := { s.mem with dram := flipByte s.mem.dram (w + i) f.2 } }
    else { s with mem := { s.mem with check := flipByte s.mem.check (w / 32 * 4 + (i - 32)) f.2 } }) s

/-- R137: a bus error is recorded and counted. -/
def busError (w : Who) (a cause syndrome : Nat) (write : Bool) (s : State) : State :=
  { s with mem := { s.mem with
      busErrors := satAdd 16 s.mem.busErrors 1, berrAddr := a / 32 * 32 % 2 ^ 40, berrRequester := w.code,
      berrSource := w.source, berrCause := cause, berrWrite := write, berrSyndrome := if cause = 1 then syndrome else 0 } }

/-- R133, R145: one corrected error of a tile. -/
def countCorrected (n : Nat) (s : State) : State :=
  let win := s.frm.tc / (max 1 s.mem.ceWindow * tcSec)
  let s := { s with mem := { s.mem with corrected := satAdd 32 s.mem.corrected 1 } }
  setTile n (fun t =>
    if t.window = win then { t with corrected := satAdd 24 t.corrected 1, windowCorrected := t.windowCorrected + 1 }
    else { t with corrected := satAdd 24 t.corrected 1, window := win, windowCorrected := 1, windowRaised := false }) s

/-- R138: the event of an uncorrectable demand read, at most 1,000 in a second. -/
def uncorrectableEvent (w : Who) (a syndrome : Nat) (s : State) : State :=
  let sec := s.frm.tc / tcSec
  let n := if s.mem.ueSec = sec then s.mem.ueN else 0
  if n < 1000 then
    raise 0x0030 1 (tileOf a) (split64 (a / 32 * 32) ++ [w.code, w.source, syndrome])
      { s with mem := { s.mem with ueSec := sec, ueN := n + 1 } }
  else s

/-- R140: a datapath parity error of a tile, with the times of the last four. -/
def parityError (w : Who) (a : Nat) (write : Bool) (s : State) : State :=
  setTile (tileOf a) (fun t =>
    let l := noteTime s.frm.tc t.parityTimes
    { t with parityTimes := l, parityDue := t.parityDue || fourWithin tcSec l }) (busError w a 2 0 write s)

/-- R140: a command runs while the datapath buffers of some tiles fail parity. -/
def withBadPaths (tiles : List Nat) (f : State → State) (s : State) : State :=
  let s := f { s with mem := { s.mem with dpBad := tiles } }
  { s with mem := { s.mem with dpBad := [] } }

/-- The datapath of the tile of an address fails parity in the command under way. -/
def State.pathBad (s : State) (a : Nat) : Bool := s.mem.dpBad.contains (tileOf a)

/-- An uncorrectable word is counted for its tile (Table 6.17). -/
def countUncorrectable (n : Nat) (s : State) : State :=
  setTile n (fun t => { t with uncorrectable := satAdd 16 t.uncorrectable 1 }) s

/-- R133, R137: reading one code word. -/
def readWord (w : Who) (parity : Bool) (a : Nat) (s : State) : MemAns × State :=
  match s.wordBlocked a with
  | some c => (.error c, busError w a c 0 false s)
  | none =>
    let s := openRow a s
    if parity || s.pathBad a then (.error 2, parityError w a false s)
    else
      match rsDecode (s.codeWord a) with
      | .good d => (.data d, s)
      | .corrected d _ => (.data d, countCorrected (tileOf a) s)
      | .uncorrectable syn =>
        (.error 1, uncorrectableEvent w a syn (busError w a 1 syn false (countUncorrectable (tileOf a) s)))

/-- Reading consecutive code words, stopping at the first that gives a bus error. -/
def readWords (w : Who) (parity : Bool) : Nat → Nat → List Nat → State → MemAns × State
  | 0, _, acc, s => (.data acc, s)
  | n + 1, a, acc, s =>
    match readWord w parity a s with
    | (.data d, s) => readWords w parity n (a + 32) (acc ++ d) s
    | (.error c, s) => (.error c, s)

/-- R172, R175: the packets of a sill unit's access. -/
def netAccess (w : Who) (a len : Nat) (write : Bool) (s : State) : State :=
  match w.unit with
  | some u => crossAccess u (tileOf a) a len write s
  | none => s

/-- R136: reading `len` bytes at `a`: whole code words are decoded and the bytes asked for are returned. -/
def readBytes (w : Who) (parity : Bool) (a len : Nat) (s : State) : MemAns × State :=
  let first := a / 32 * 32
  let s := netAccess w a len false s
  match readWords w parity ((a + len + 31) / 32 - a / 32) first [] s with
  | (.data d, s) => (.data (slice d (a - first) len), s)
  | e => e

/-- The first word of a span that is blocked. -/
def State.blockedIn (s : State) (a : Nat) : Nat → Option (Nat × Nat)
  | 0 => none
  | n + 1 => match s.wordBlocked a with
    | some c => some (a, c)
    | none => s.blockedIn (a + 32) n

/-- Storing consecutive whole code words. -/
def storeWords : Nat → Nat → List Nat → State → State
  | 0, _, _, s => s
  | n + 1, a, bytes, s => storeWords n (a + 32) (bytes.drop 32) (storeWord a (slice bytes 0 32) s)

/-- R240: a byte of the locked staging span. -/
def State.lockedByte (s : State) (a : Nat) : Bool :=
  match s.dev.lock with
  | none => false
  | some (first, len) =>
    decide (first ≤ tileOf a) && decide (a % slotSize < tileData) &&
      decide ((tileOf a - first) * tileData + a % slotSize < len)

/-- R240: some code word of a span lies in the staging lock. -/
def State.lockedIn (s : State) (a : Nat) : Nat → Bool
  | 0 => false
  | n + 1 => s.lockedByte a || s.lockedIn (a + 32) n

/-- R240: some byte of a span of `len` bytes lies in the staging lock. -/
def State.lockedSpan (s : State) (a len : Nat) : Bool :=
  match s.dev.lock with
  | none => false
  | some (first, n) =>
    let hit (b : Nat) : Bool := decide (first ≤ tileOf b) && decide (b % slotSize < tileData)
      && decide ((tileOf b - first) * tileData + b % slotSize < n)
    hit a || hit (a + (len - 1))

/-- R240, R303: a write discarded for ownership: an event for the first after reset, then at most one in a millisecond. -/
def discardEvent (unit addr count : Nat) (s : State) : State :=
  let win := s.frm.tc / tcMs
  if !s.hif.discardSeen || decide (s.hif.discardWin ≠ win) then
    raiseFull 0x0070 1 0 unit count (split64 addr) { s with hif := { s.hif with discardSeen := true, discardWin := win } }
  else s

/-- R240, R303: a write into the locked staging span is discarded and recorded as one into a device-owned window is; the
event carries the count of such writes (log 103). -/
def stagingDiscard (a : Nat) (s : State) : State :=
  let n := s.hif.stagingDiscards + 1
  discardEvent noUnit a n { s with hif := { s.hif with stagingDiscards := n } }

/-- R134, R137, R240: writing whole code words; a write that meets a bus error changes nothing in memory. The cause is
returned. -/
def writeBytes (w : Who) (parity : Bool) (a : Nat) (bytes : List Nat) (s : State) : Option Nat × State :=
  let n := bytes.length / 32
  let s := netAccess w a bytes.length true s
  if s.lockedIn a n then (none, stagingDiscard a s)
  else match s.blockedIn a n with
  | some (b, c) => (some c, busError w b c 0 true s)
  | none => if parity || s.pathBad a then (some 2, parityError w a true s) else (none, storeWords n a bytes s)

/-- R135: a narrow write is discarded, counted and recorded. -/
def narrowWrite (entrance source addr : Nat) (s : State) : State :=
  let win := s.frm.tc / tcMs + 1
  let first := decide (s.mem.narrowWin ≠ win)
  let s := { s with mem := { s.mem with
    narrowCount := satAdd 32 s.mem.narrowCount 1, narrowEntrance := entrance, narrowSource := source,
    narrowAddr := addr % 2 ^ 40, narrowWin := win } }
  if first then raiseFull 0x0031 1 0 noUnit s.mem.narrowCount ([entrance, source] ++ split64 addr) s else s

/-! ## Refresh, temperature, scrub -/

/-- Operations that need step 5 of bring-up done and the tile in service. -/
def State.tileLive (s : State) (n : Nat) : Bool := s.powered && s.mem.ready && !s.tileFenced n

/-- R142, R437: refreshing a bank closes its rows and repays what it owes. -/
def refreshBank (n b : Nat) (s : State) : State :=
  { s with mem := { s.mem with
      owed := mapSet 0 s.mem.owed (n * 32 + b) 0,
      openRows := s.mem.openRows.filter (fun e => e.1 / 4 ≠ n * 32 + b) } }

/-- R141, R142: a refresh falls due. While the bank serves a granted stream it is postponed; a fifth owed forces all.
`idled` says that the bank has been idle since its last refresh fell due, and has then repaid what it owed. -/
def doBankRefreshDue (n b : Nat) (serving idled : Bool) (s : State) : State :=
  if s.tileLive n && !s.bankFenced n b then
    let s := if idled then refreshBank n b s else s
    let owed := mapGet 0 s.mem.owed (n * 32 + b)
    if serving && decide (owed < 4) then
      setTile n (fun t => { t with maxOwed := max t.maxOwed (owed + 1) })
        { s with mem := { s.mem with owed := mapSet 0 s.mem.owed (n * 32 + b) (owed + 1) } }
    else refreshBank n b s
  else s

/-- R141. -/
def execBankRefreshDue (n b : Nat) (serving idled : Bool) (s : State) : Host.Outcome State Fault Refusal :=
  onUnit (n < coreCount ∧ b < bankCount) (doBankRefreshDue n b serving idled s)

/-- R141, Table 6.7: a tile's refresh state from its temperature in 1/16 °C. -/
def nextRefresh (t : Tile) (temp tc : Nat) : Tile :=
  let t := { t with cool83 := since (decide (temp ≤ 1328)) t.cool83 tc, cool93 := since (decide (temp ≤ 1488)) t.cool93 tc }
  if 1520 < temp then { t with refresh := 2 }
  else if t.refresh = 2 then (if heldFor t.cool93 tc tcMs then { t with refresh := 1 } else t)
  else if t.refresh = 1 then (if heldFor t.cool83 tc tcMs then { t with refresh := 0 } else t)
  else if 1360 < temp then { t with refresh := 1 }
  else t

/-- R141, R143: a tile controller samples its temperature. -/
def doTileTempSample (n : Nat) (s : State) : State :=
  if s.tileLive n then
    let temp := s.memTemp (regionOf n)
    let old := (s.tileRec n).refresh
    let s := setTile n (fun t => nextRefresh t temp s.frm.tc) s
    let new := (s.tileRec n).refresh
    if old ≠ 2 && decide (new = 2) then raise 0x0032 1 n [1, temp] s
    else if old = 2 && decide (new ≠ 2) then raise 0x0032 1 n [0, temp] s
    else s
  else s

/-- R141. -/
def execTileTempSample (n : Nat) (s : State) : Host.Outcome State Fault Refusal :=
  onUnit (n < coreCount) (doTileTempSample n s)

/-- The scrubber's own accesses (Table 6.15). -/
def scrubWho : Who := { code := 8, source := 0 }

/-- R144, Table 6.6: the scrubber meets a word it cannot correct; the word is left as stored. -/
def scrubBad (n a syn : Nat) (s : State) : State :=
  raise 0x0034 1 n (split64 a ++ [syn]) (busError scrubWho a 1 syn false (countUncorrectable n s))

/-- R139, R144: symbol `i` of the word at `a` shows the same fault after a write-back: it is stuck at what it reads as. -/
def countHard (n a i : Nat) (s : State) : State :=
  setTile n (fun t => { t with hardWords := satAdd 8 t.hardWords 1 })
    { s with mem := { s.mem with
        hardWords := satAdd 16 s.mem.hardWords 1
        hard := mapSet 0 s.mem.hard (a / 32 * 36 + i) (nth 0 (s.codeWord a) i + 1) } }

/-- R144: the second read of a word after its write-back; `i` is the symbol that was corrected. -/
def scrubAgain (n a i : Nat) (s : State) : State :=
  match rsDecode (s.codeWord a) with
  | .good _ => s
  | .corrected _ j => (fun s => if i = j then countHard n a i s else s) (countCorrected n s)
  | .uncorrectable syn => scrubBad n a syn s

/-- One word of a scrub run (R144): a corrected word is written back and read once more, where `again` holds the errors
that are back in it. `parity` is a parity error in the datapath (R140). -/
def scrubWord (n a : Nat) (parity : Bool) (again : List (Nat × Nat)) (s : State) : State :=
  if parity then raise 0x0034 1 n (split64 a ++ [0]) (parityError scrubWho a false s)
  else match rsDecode (s.codeWord a) with
  | .good _ => s
  | .corrected d i => scrubAgain n a i (flipSymbols a again (storeWord a d (countCorrected n s)))
  | .uncorrectable syn => scrubBad n a syn s

/-- The errors of a list that lie in word `i` of a run, renumbered to that word. -/
def flipsOf (i : Nat) (l : List (Nat × Nat)) : List (Nat × Nat) :=
  (l.filter (fun f => decide (f.1 / 36 = i))).map (fun f => (f.1 % 36, f.2))

/-- R144: time between two scrub runs of a tile, tc. -/
def State.scrubStep (s : State) : Nat := s.mem.scrubPeriod * 3600 * tcSec / 24576

/-- R130, Table 6.3: no request of a higher order waits at the tile's arbiter. -/
def State.arbiterFree (s : State) (n : Nat) : Bool :=
  (s.tileRec n).queue.isEmpty && !s.net.packets.any (fun p => decide (p.dst = n) && decide (p.arrived ≠ 0))

/-- A scrub run of a tile may start: it is due, and nothing that goes first waits (R130, R144). -/
def State.scrubDue (s : State) (n : Nat) : Bool :=
  s.tileLive n && s.mem.scrubEnable && !(s.tileRec n).retraining && decide ((s.tileRec n).scrubNext ≤ s.frm.tc) && s.arbiterFree n

/-- R144: one run of the patrol scrubber, 64 words of one row. `flips` are errors that have come into the words since
they were written, `again` those that are back after the write-back, `parity` the words that meet a parity error. -/
def doScrubRun (n : Nat) (flips again : List (Nat × Nat)) (parity : List Nat) (s : State) : State :=
  if s.scrubDue n then
    let k := (s.tileRec n).run
    let b := k / 1024
    let base := n * slotSize + b * bankData + k % 1024 * 2048
    let s := if s.bankFenced n b then s
      else (List.range 64).foldl (fun s i => scrubWord n (base + 32 * i) (parity.contains i) (flipsOf i again) s)
        (openRow base (flipSymbols base flips s))
    setTile n (fun t =>
      let t := { t with scrubNext := s.frm.tc + s.scrubStep }
      if k + 1 < 24576 then { t with run := k + 1 } else { t with run := 0, passes := satAdd 32 t.passes 1 }) s
  else s

/-- R144. -/
def execScrubRun (n : Nat) (flips again : List (Nat × Nat)) (parity : List Nat) (s : State) :
    Host.Outcome State Fault Refusal :=
  onUnit (n < coreCount)
    (doScrubRun n (flips.filter (fun f => decide (f.1 < 2304))) (again.filter (fun f => decide (f.1 < 2304))) parity s)

/-- R145: the corrected errors of a tile within the present window have reached the threshold. -/
def doCeThreshold (n : Nat) (s : State) : State :=
  let t := s.tileRec n
  let win := s.frm.tc / (max 1 s.mem.ceWindow * tcSec)
  if s.tileLive n && decide (t.window = win) && !t.windowRaised && decide (s.mem.ceCount ≤ t.windowCorrected) then
    raise 0x0033 1 n [t.windowCorrected] (setTile n (fun t => { t with windowRaised := true }) s)
  else s

/-- R145. -/
def execCeThreshold (n : Nat) (s : State) : Host.Outcome State Fault Refusal := onUnit (n < coreCount) (doCeThreshold n s)

/-- R148: a sash channel returns no beat for 2 µs and retrains. -/
def doSashStallTimeout (n : Nat) (s : State) : State :=
  if s.tileLive n && !(s.tileRec n).retraining then setTile n (fun t => { t with retraining := true }) s else s

/-- R148. -/
def execSashStallTimeout (n : Nat) (s : State) : Host.Outcome State Fault Refusal :=
  onUnit (n < coreCount) (doSashStallTimeout n s)

end Sys2Proof.Machine
end

