-- ==== Sys2Proof/Machine/HostIf.lean ====
section
/-! DEFINITION. Host interface (chapter 13): BAR2, CXL.mem, windows and their ownership, the CXL mailbox, DOE transport. -/
namespace Sys2Proof.Machine

/-! ## BAR2 (R289 to R291) -/

/-- A flag of the protection header (Table 18.4): 0 enrolled, 1 debug_policy, 2 bar2_permitted. -/
def State.prtFlag (s : State) (i : Nat) : Bool := bit (memRead s.prt.block 16).toNat i

/-- States in which device memory is open to the host (R290, R291). -/
def memStates : List DevState := [.ready, .checking, .running, .suspended]

/-- R305: bits of the Uncorrectable Error registers: poisoned TLP received, completion timeout, completer abort,
unsupported request (log 99). -/
def aerPoisoned : Nat := 12
/-- Completion timeout. -/
def aerTimeout : Nat := 14
/-- Completer abort. -/
def aerAbort : Nat := 15
/-- Unsupported request. -/
def aerUnsupported : Nat := 20

/-- What the header log holds of a request: a type of the model's own (0 read, 1 write, 2 a completion), its address and
length (log 99). -/
def aerHeader (ty addr len : Nat) : List Nat := [ty, addr, len]

/-- R290, R383: BAR2 decodes. -/
def State.bar2Live (s : State) : Bool :=
  s.keeperUp && s.inStates memStates && !s.hif.win.any (fun w => w.committed) && s.prtFlag 2 && !s.hif.d3hot

/-- R304: an error of the host interface overwrites `HIF.LAST_ERR`. -/
def lastErr (kind window addr : Nat) (s : State) : State :=
  { s with hif := { s.hif with errKind := kind, errWindow := window, errAddr := addr % 2 ^ 40 } }

/-- R304: an access to BAR2 while it does not decode; in D3hot nothing reaches the function's BARs (R288). -/
def bar2Unsupported (ty off len : Nat) (s : State) : State :=
  aerError aerUnsupported (aerHeader ty off len) (lastErr 4 0 off { s with hif := { s.hif with
    unsupported := satAdd 12 s.hif.unsupported 1 } })

/-- R290: device physical address of a BAR2 offset. -/
def State.bar2Addr (s : State) (off : Nat) : Nat := s.hif.baseGib * 2 ^ 30 + off

/-- R148: the tile of an address retrains and holds what reaches it. -/
def State.tileHolds (s : State) (a : Nat) : Bool := (s.tileRec (tileOf a)).retraining && !inHole a

/-- R148: a tile holds a request. -/
def holdRequest (a : Nat) (q : HeldReq) (s : State) : State := setTile (tileOf a) (fun t => { t with holds := t.holds ++ [q] }) s

/-- R304: a BAR2 read ends in Completer Abort. -/
def bar2Abort (a len : Nat) (s : State) : State :=
  emit .completerAbort (aerError aerAbort (aerHeader 0 a len) (lastErr 3 0 a { s with hif := { s.hif with
    completerAborts := satAdd 12 s.hif.completerAborts 1 } }))

/-- R290, R304: a BAR2 read is served. -/
def serveBar2Read (a len : Nat) (parity : Bool) (s : State) : State :=
  match readBytes { code := 3, source := 0, unit := some hostEndpoint } parity a len s with
  | (.data d, s) => emit (.data d) s
  | (.error _, s) => bar2Abort a len s

/-- R290, R304: a host read through BAR2. `flips` are errors that have come into the words since they were written. -/
def doBar2Read (off len : Nat) (flips : List (Nat × Nat)) (parity : Bool) (s : State) : State :=
  if !s.bar2Live then (if s.keeperUp then emit .unsupportedRequest (bar2Unsupported 0 off len s) else s)
  else
    let a := s.bar2Addr off
    let s := flipSymbols a flips s
    if s.tileHolds a then holdRequest a (.bar2Read a len parity) s else serveBar2Read a len parity s

/-- Length of a request at an offset of the aperture: 1 to 4,096 bytes that do not leave it. -/
def apertureLen (off len : Nat) : Nat := min (max 1 (min len 4096)) (2 ^ 36 - off % 2 ^ 36)

/-- R290: the offset in the aperture and the length. -/
def execBar2Read (off len : Nat) (flips : List (Nat × Nat)) (parity : Bool) (s : State) : Host.Outcome State Fault Refusal :=
  .next (doBar2Read (off % 2 ^ 36) (apertureLen off len) flips parity s)

/-- Table 6.5: a BAR2 write that does not cover whole aligned code words with every byte enabled. -/
def bar2Narrow (off : Nat) (bytes : List Nat) (allEnabled : Bool) : Bool :=
  decide (off % 32 ≠ 0) || decide (bytes.length % 32 ≠ 0) || !allEnabled

/-- R290: a BAR2 write of whole code words is served. -/
def serveBar2Write (a : Nat) (bytes : List Nat) (parity : Bool) (s : State) : State :=
  (writeBytes { code := 3, source := 0, unit := some hostEndpoint } parity a bytes s).2

/-- R290, R304, Table 6.5: a host write through BAR2; discarded while BAR2 does not decode or where it is narrow. -/
def doBar2Write (off : Nat) (bytes : List Nat) (allEnabled parity : Bool) (s : State) : State :=
  if !s.bar2Live then (if s.keeperUp then bar2Unsupported 1 off bytes.length s else s)
  else
    let a := s.bar2Addr off
    if bar2Narrow off bytes allEnabled then
      (if s.lockedSpan a bytes.length then stagingDiscard a s else narrowWrite 3 0 a s)
    else if s.tileHolds a then holdRequest a (.bar2Write a bytes parity) s
    else serveBar2Write a bytes parity s

/-- R290. -/
def execBar2Write (off : Nat) (bytes : List Nat) (allEnabled parity : Bool) (s : State) : Host.Outcome State Fault Refusal :=
  .next (doBar2Write (off % 2 ^ 36) (toBytes (bytes.take (apertureLen off bytes.length))) allEnabled parity s)

/-! ## CXL.mem (R295 to R303) -/

/-- R297: device physical address of packed DPA `d` in a window's mode. -/
def dpaToAddr (striped : Bool) (d : Nat) : Nat :=
  let n := d / tileData
  let u := d % tileData
  if striped then
    let g := u / 0x1000
    n * slotSize + g % 24 * bankData + g / 24 * 0x1000 + u % 0x1000
  else n * slotSize + u

/-- Window `i`. -/
def State.window (s : State) (i : Nat) : Win := nth {} s.hif.win i

/-- R302: requests follow the old ownership until the switch. -/
def Win.deviceOwned (w : Win) : Bool := decide (w.owner = 1) || decide (w.owner = 3)

/-- R301: peers and bank units may write a window that is device-owned; from the command that hands it to the host they
may not. -/
def Win.workOwned (w : Win) : Bool := decide (w.owner = 1)

/-- The window a device physical address lies in, if a decoder is committed over it (R161, R299). -/
def State.windowOf (s : State) (a : Nat) : Option Win :=
  let hit (w : Win) : Bool :=
    let n := a / slotSize
    w.committed && decide (a % slotSize < tileData) && decide (w.dpa ≤ n * tileData) && decide (n * tileData < w.dpa + w.size)
  s.hif.win.find? hit

/-- R296: the window whose host range a CXL.mem request of 64 bytes falls in. -/
def State.winAt (s : State) (hpa : Nat) : Option Nat :=
  (List.range 4).find? (fun i =>
    (s.window i).committed && decide ((s.window i).hpa ≤ hpa) && decide (hpa + 64 ≤ (s.window i).hpa + (s.window i).size))

/-- R296, R297: the device physical address of a host address in window `i`: the offset in the host range is the offset in
the packed DPA range. -/
def State.winAddr (s : State) (i hpa : Nat) : Nat :=
  dpaToAddr (s.window i).striped ((s.window i).dpa + (hpa - (s.window i).hpa))

/-- R303: a CXL.mem access to a device-owned window. -/
def ownedRead (i a : Nat) (s : State) : State :=
  emit .poison (lastErr 2 i a { s with hif := { s.hif with poisonReturned := satAdd 12 s.hif.poisonReturned 1 } })

/-- R303: a CXL.mem write to a device-owned window is discarded and completes normally. -/
def ownedWrite (i a : Nat) (s : State) : State :=
  let s := lastErr 1 i a { s with hif := { s.hif with ownedDiscards := satAdd 12 s.hif.ownedDiscards 1 } }
  emit .done (discardEvent i a s.hif.ownedDiscards s)

/-- R304: a poisoned CXL.mem write. -/
def poisonedWrite (a : Nat) (s : State) : State :=
  let s := lastErr 5 0 a { s with hif := { s.hif with poisonedIn := satAdd 16 s.hif.poisonedIn 1 } }
  raise 0x0071 1 noUnit (split64 a) s

/-- A CXL.mem read of 64 bytes is served. -/
def serveCxlRead (a : Nat) (parity : Bool) (s : State) : State :=
  match readBytes { code := 4, source := 0, unit := some hostEndpoint } parity a 64 s with
  | (.data d, s) => emit (.data d) s
  | (.error _, s) => emit .poison s

/-- R299, R296, Table 17.8: a CXL.mem read of 64 bytes at a host address; one outside every window reaches no memory of
this device. D3hot stops the BARs only (R288). -/
def cxlRead (hpa : Nat) (flips : List (Nat × Nat)) (parity : Bool) (s : State) : State :=
  if s.kpr.state = .halted then emit .poison s
  else match s.winAt hpa with
  | none => s
  | some i =>
    let a := s.winAddr i hpa
    let s := flipSymbols a flips s
    if (s.window i).deviceOwned then ownedRead i a s
    else if s.tileHolds a then holdRequest a (.cxlRead a parity) s
    else serveCxlRead a parity s

/-- R299: MemRd. -/
def doMemrd (hpa : Nat) (flips : List (Nat × Nat)) (parity : Bool) (s : State) : State := cxlRead (hpa / 64 * 64) flips parity s

/-- R299: MemRd of the 64-byte line of a host address. -/
def execMemrd (hpa : Nat) (flips : List (Nat × Nat)) (parity : Bool) (s : State) : Host.Outcome State Fault Refusal :=
  .next (doMemrd hpa flips parity s)

/-- R299: MemRdData. -/
def doMemrddata (hpa : Nat) (flips : List (Nat × Nat)) (parity : Bool) (s : State) : State :=
  cxlRead (hpa / 64 * 64) flips parity s

/-- R299: MemRdData, served as MemRd. -/
def execMemrddata (hpa : Nat) (flips : List (Nat × Nat)) (parity : Bool) (s : State) : Host.Outcome State Fault Refusal :=
  .next (doMemrddata hpa flips parity s)

/-- R137: the whole code words of a CXL.mem write are performed; one that meets a bus error is one error of the request,
and the words after it are not written. -/
def writeParts (parity : Bool) : List (Nat × List Nat) → State → State
  | [], s => s
  | p :: t, s =>
    match writeBytes { code := 4, source := 0, unit := some hostEndpoint } parity p.1 p.2 s with
    | (none, s) => writeParts parity t s
    | (some _, s) => s

/-- R299, R303, R304: a CXL.mem write of whole code words at a host address. A write received after the command that hands
its window to the device is discarded, as though the window were device-owned (Table 13.10). -/
def cxlWrite (hpa : Nat) (parts : Nat → Option (List (Nat × List Nat))) (poison parity : Bool) (s : State) : State :=
  if s.kpr.state = .halted then emit .done s
  else match s.winAt hpa with
  | none => s
  | some i =>
    let a := s.winAddr i hpa
    if (s.window i).deviceOwned || decide ((s.window i).owner = 2) then ownedWrite i a s
    else if poison then emit .done (poisonedWrite a s)
    else match parts a with
      | none => emit .done (if s.lockedSpan a 64 then stagingDiscard a s else narrowWrite 4 0 a s)
      | some l => if s.tileHolds a then holdRequest a (.cxlWrite a l parity) s else emit .done (writeParts parity l s)

/-- The 64 bytes of a line; a shorter list goes on with zeros. -/
def lineBytes (bytes : List Nat) : List Nat := slice bytes 0 64

/-- R299, R303, R304: MemWr of 64 bytes. -/
def doMemwr (hpa : Nat) (bytes : List Nat) (poison parity : Bool) (s : State) : State :=
  cxlWrite (hpa / 64 * 64) (fun a => some [(a, lineBytes bytes)]) poison parity s

/-- R299: MemWr. -/
def execMemwr (hpa : Nat) (bytes : List Nat) (poison parity : Bool) (s : State) : Host.Outcome State Fault Refusal :=
  .next (doMemwr hpa bytes poison parity s)

/-- R134, Table 6.5: a 32-byte half is enabled whole, not at all, or partly. -/
def halfEnabled (mask : Nat) (h : Nat) : Option Bool :=
  let m := mask / 2 ^ (32 * h) % 2 ^ 32
  if m = 0 then some false else if m = 2 ^ 32 - 1 then some true else none

/-- R134: the enabled halves of a line with byte enables, `none` where a half is partly enabled. -/
def enabledHalves (bytes : List Nat) (mask a : Nat) : Option (List (Nat × List Nat)) :=
  match halfEnabled mask 0, halfEnabled mask 1 with
  | some h0, some h1 =>
    some ((if h0 then [(a, slice bytes 0 32)] else []) ++ (if h1 then [(a + 32, slice bytes 32 32)] else []))
  | _, _ => none

/-- R134, Table 6.8: MemWrPtl; ownership is judged before width. -/
def doMemwrptl (hpa : Nat) (bytes : List Nat) (mask : Nat) (poison parity : Bool) (s : State) : State :=
  cxlWrite (hpa / 64 * 64) (enabledHalves bytes mask) poison parity s

/-- R134: MemWrPtl with its 64 byte enables. -/
def execMemwrptl (hpa : Nat) (bytes : List Nat) (mask : Nat) (poison parity : Bool) (s : State) :
    Host.Outcome State Fault Refusal :=
  .next (doMemwrptl hpa bytes mask poison parity s)

/-- R286: MemSpecRd is accepted and ignored. -/
def doMemspecrd (_hpa : Nat) (s : State) : State := s

/-- R286. -/
def execMemspecrd (hpa : Nat) (s : State) : Host.Outcome State Fault Refusal := .next (doMemspecrd hpa s)

/-! ## Windows -/

/-- Alignment of a decoder: 16 tiles (R296). -/
def winUnit : Nat := 0x30000000

/-- R383: the packed range lies wholly within one permitted entry of the protection block. -/
def permitted (block : Memory) (dpa size : Nat) : Bool :=
  (List.range (min 8 (memRead block 17).toNat)).any (fun e =>
    let start := leNat (memBytes block (0x0F80 + 8 * e) 2)
    let units := leNat (memBytes block (0x0F80 + 8 * e + 2) 2)
    decide (start * winUnit ≤ dpa) && decide (dpa + size ≤ (start + units) * winUnit))

/-- R296, R383: a decoder may commit. -/
def State.canCommit (s : State) (i dpa size ways : Nat) : Bool :=
  s.hif.memActive && decide (ways = 1) && decide (dpa % winUnit = 0) && decide (size % winUnit = 0) &&
    decide (0 < size) && decide (dpa + size ≤ 12288 * tileData) && permitted s.prt.block dpa size &&
    (List.range 4).all (fun j =>
      decide (j = i) || !(s.window j).committed || decide (dpa + size ≤ (s.window j).dpa) ||
        decide ((s.window j).dpa + (s.window j).size ≤ dpa))

/-- Changing window `i`. -/
def setWin (i : Nat) (f : Win → Win) (s : State) : State :=
  { s with hif := { s.hif with win := setNth s.hif.win i (f (nth {} s.hif.win i)) } }

/-- R296, R302: a decoder commits as a host-owned window, or reports Error Not Committed. -/
def doHdmDecoderCommit (i hpa dpa size ways : Nat) (lock : Bool) (s : State) : State :=
  if !s.powered || (s.window i).committed then s
  else if s.canCommit i dpa size ways then
    setWin i (fun w => { w with
      committed := true, owner := 0, hpa := hpa, dpa := dpa, size := size, error := false, lock := lock }) s
  else setWin i (fun w => { w with error := true }) s

/-- R296: decoder `i`, its host range base, its packed DPA range, interleave ways and Lock On Commit. -/
def execHdmDecoderCommit (i hpa dpa size ways : Nat) (lock : Bool) (s : State) : Host.Outcome State Fault Refusal :=
  onUnit (i < 4) (doHdmDecoderCommit i (hpa % 2 ^ 64) (dpa % 2 ^ 64) (size % 2 ^ 64) ways lock s)

/-- R302: uncommitting a decoder ends its window; a locked decoder stays. -/
def doHdmDecoderUncommit (i : Nat) (s : State) : State :=
  if s.powered && (s.window i).committed && !(s.window i).lock then
    setWin i (fun w => { w with committed := false, owner := 0, hpa := 0, dpa := 0, size := 0 }) s
  else s

/-- R302. -/
def execHdmDecoderUncommit (i : Nat) (s : State) : Host.Outcome State Fault Refusal :=
  onUnit (i < 4) (doHdmDecoderUncommit i s)

/-- R300, R301: the owner field leaves the moving state and the hand-over is counted. -/
def doHandoverComplete (i : Nat) (s : State) : State :=
  let o := (s.window i).owner
  if s.powered && (s.window i).committed && (decide (o = 2) || decide (o = 3)) then
    setWin i (fun w => { w with owner := if o = 2 then 1 else 0, handovers := satAdd 16 w.handovers 1 }) s
  else s

/-- R300. -/
def execHandoverComplete (i : Nat) (s : State) : Host.Outcome State Fault Refusal := onUnit (i < 4) (doHandoverComplete i s)

/-- R302, R307: a write of `HIF.WIN[i]`. Bit 8 is striped, bit 1 to_host, bit 0 to_device. -/
def writeWin (i v : Nat) (s : State) : State :=
  let w := s.window i
  let off := 0x500100 + 8 * i
  regWrite off v 0x103 (w.handovers * 2 ^ 16 + b2n w.committed * 2 ^ 9 + w.owner * 2 ^ 4) (fun s =>
  let no := refuse off v 0x0120 s
  if !s.inStates memStates then no
  else if bit v 0 || bit v 1 then
    if bit v 0 && bit v 1 then no
    else if !s.inStates [.ready, .running, .suspended] || !w.committed || bit v 8 != w.striped then no
    else if bit v 0 then (if w.owner = 0 then setWin i (fun w => { w with owner := 2 }) s else no)
    else (if w.owner = 1 then setWin i (fun w => { w with owner := 3 }) s else no)
  else if w.committed then no
  else setWin i (fun w => { w with striped := bit v 8 }) s) s

/-- R291: a write of `HIF.BAR2_BASE`. -/
def writeBar2Base (v : Nat) (s : State) : State :=
  regWrite 0x500008 v 0x3FF 0 (fun s =>
    if v ≤ 704 ∧ s.inStates memStates then { s with hif := { s.hif with baseGib := v } }
    else refuse 0x500008 v 0x0120 s) s

/-! ## The link, power states, poisoned writes -/

/-- R295: the conditions under which Mem_Active is set. -/
def State.cxlReady (s : State) : Bool := decide (2 ≤ s.hif.mode) && s.kpr.features.cxlMem && s.mem.ready

/-- R295: Mem_Active is set once its conditions hold. -/
def updateMemActive (s : State) : State :=
  { s with hif := { s.hif with memActive := s.hif.memActive || s.cxlReady } }

/-- R287: the class code in configuration space: a processing accelerator on a PCIe link, a CXL memory device on a CXL
link. -/
def State.classCode (s : State) : Nat := if 2 ≤ s.hif.mode then 0x050210 else 0x120000

/-- R287, R441: the identity registers of configuration space by their offsets: vendor and device, class code (byte 8 is
the revision, which no rule gives), subsystem vendor and subsystem; the layout is the PCI Express header's (log 99). -/
def State.configIdentity (s : State) (off : Nat) : Option Nat :=
  match off with
  | 0x00 => some (Config.vendorId % 2 ^ 16 + 0x4C56 * 2 ^ 16)
  | 0x08 => some (Config.unstated 0 off % 256 + s.classCode * 256)
  | 0x2C => some (Config.vendorId % 2 ^ 16 + s.fuses.grade * 2 ^ 16)
  | _ => none

/-- R304, Table 13.1: the registers of the AER capability, by their offsets from its header. -/
def State.readAer (s : State) (off : Nat) : Option Nat :=
  match off with
  | 0x04 => some s.hif.aer.status
  | 0x08 => some s.hif.aer.mask
  | 0x0C => some s.hif.aer.severity
  | 0x18 => some s.hif.aer.first
  | _ => none

/-- R304: the host writes a register of the AER capability: status bits clear where 1 is written, mask and severity take
the value. A cleared first error frees the header log. -/
def writeAer (off v : Nat) (s : State) : State :=
  let a := s.hif.aer
  let set (a : Aer) : State := { s with hif := { s.hif with aer := a } }
  match off with
  | 0x04 => set { a with
      status := a.status &&& (0xFFFFFFFF ^^^ (v % 2 ^ 32)), first := if bit v a.first then 0 else a.first
      header := if bit v a.first then [] else a.header }
  | 0x08 => set { a with mask := v % 2 ^ 32 }
  | 0x0C => set { a with severity := v % 2 ^ 32 }
  | _ => s

/-- R288: the link finishes training at a rate, a width and a mode. -/
def doPcieLinkUp (speed width mode : Nat) (s : State) : State :=
  if s.kpr.railsUp && decide (s.kpr.boot = .romRuns) then
    updateMemActive { s with hif := { s.hif with linkUp := true, speed := speed, width := width, mode := mode } }
  else s

/-- Table 13.6: speed code 1 to 6, width, mode; 256-byte flits and flit mode exist at 64 GT/s only, and 68-byte flits
below (Table 13.1). -/
def execPcieLinkUp (speed width mode : Nat) (s : State) : Host.Outcome State Fault Refusal :=
  onUnit (1 ≤ speed ∧ speed ≤ 6 ∧ width ∈ [1, 2, 4, 8, 16] ∧ mode < 4 ∧ ((speed = 6) ↔ (mode = 1 ∨ mode = 3)))
    (doPcieLinkUp speed width mode s)

/-- R288: D3hot stops BAR decoding. -/
def doD3hotEntry (s : State) : State := if s.powered then { s with hif := { s.hif with d3hot := true } } else s

/-- R288. -/
def execD3hotEntry (s : State) : Host.Outcome State Fault Refusal := .next (doD3hotEntry s)

/-- R288: D0 restores it. -/
def doD0Return (s : State) : State := if s.powered then { s with hif := { s.hif with d3hot := false } } else s

/-- R288. -/
def execD0Return (s : State) : Host.Outcome State Fault Refusal := .next (doD0Return s)

/-- R304: a poisoned write through a BAR is discarded, counted and reported. For BAR2 the address is the device physical
one; for BAR0 and BAR4 it is the offset (log 15). -/
def doPoisonedTlp (bar off : Nat) (s : State) : State :=
  if s.powered && s.hostUp then
    poisonedWrite (if bar = 2 then s.bar2Addr off else off) (aerError aerPoisoned (aerHeader 1 off 0) s)
  else s

/-- Size of a BAR (Table 13.2). -/
def barSize (bar : Nat) : Nat := if bar = 0 then 2 ^ 24 else if bar = 2 then 2 ^ 36 else 2 ^ 20

/-- R304: BAR 0, 2 or 4 and an offset within it. -/
def execPoisonedTlp (bar off : Nat) (s : State) : Host.Outcome State Fault Refusal :=
  onUnit (bar = 0 ∨ bar = 2 ∨ bar = 4) (doPoisonedTlp bar (off % barSize bar) s)

/-! ## CXL mailbox (R286). Payload layouts are the CXL specification's (log 16). -/

/-- The mailbox answers in CXL mode while the device is not HALTED. -/
def State.mailboxLive (s : State) : Bool := s.powered && s.hif.linkUp && decide (2 ≤ s.hif.mode)

/-- A mailbox answer with a return code (0 success, 3 unsupported) and payload. -/
def mailbox (code : Nat) (bytes : List Nat) (s : State) : State :=
  if s.mailboxLive then emit (.mailbox code bytes) s else s

/-- R286: 576 GiB of volatile capacity in units of 256 MiB, no persistent capacity. -/
def doIdentifyMemoryDevice (s : State) : State :=
  mailbox 0 (List.replicate 16 0 ++ leBytes 8 2304 ++ leBytes 8 2304 ++ List.replicate 35 0) s

/-- R286. -/
def execIdentifyMemoryDevice (s : State) : Host.Outcome State Fault Refusal := .next (doIdentifyMemoryDevice s)

/-- UUID of the Command Effects Log. -/
def celUuid : List Nat :=
  [0x0D, 0xA9, 0xC0, 0xB5, 0xBF, 0x41, 0x4B, 0x78, 0x8F, 0x79, 0x96, 0xB1, 0x62, 0x3B, 0x3F, 0x17]

/-- The Command Effects Log: an opcode and its effects for each command. -/
def commandEffects : List Nat :=
  ([0x0100, 0x0101, 0x0400, 0x0401, 0x4000, 0x4200].map (fun o => leBytes 2 o ++ [0, 0])).flatten

/-- R286: the one log. -/
def doGetSupportedLogs (s : State) : State :=
  mailbox 0 ([1, 0] ++ List.replicate 6 0 ++ celUuid ++ leBytes 4 commandEffects.length) s

/-- R286. -/
def execGetSupportedLogs (s : State) : Host.Outcome State Fault Refusal := .next (doGetSupportedLogs s)

/-- R286: bytes of the Command Effects Log. -/
def doGetLog (off len : Nat) (s : State) : State := mailbox 0 ((commandEffects.drop off).take len) s

/-- R286: an offset and a length; what lies past the log's end is not returned. -/
def execGetLog (off len : Nat) (s : State) : Host.Outcome State Fault Refusal := .next (doGetLog off len s)

/-- R286: the event records held. -/
def doGetEventRecords (s : State) : State :=
  mailbox 0 (List.replicate 20 0 ++ leBytes 2 s.hif.cxlEvents.length ++ List.replicate 10 0) s

/-- R286. -/
def execGetEventRecords (s : State) : Host.Outcome State Fault Refusal := .next (doGetEventRecords s)

/-- R286: the records of the handles named go; none clears them all. -/
def doClearEventRecords (handles : List Nat) (s : State) : State :=
  if s.mailboxLive then
    mailbox 0 [] { s with hif := { s.hif with
      cxlEvents := if handles.isEmpty then [] else s.hif.cxlEvents.filter (fun h => !handles.contains h) } }
  else s

/-- R286. -/
def execClearEventRecords (handles : List Nat) (s : State) : Host.Outcome State Fault Refusal :=
  .next (doClearEventRecords (handles.map (fun h => h % 2 ^ 16)) s)

/-- R286: 18 bytes of health; the spec states none of them, so each is a free value. -/
def doGetHealthInfo (s : State) : State :=
  if s.mailboxLive then
    mailbox 0 ((List.range 18).map (fun i => Config.unstated s.fresh i % 256)) (useFresh s)
  else s

/-- R286. -/
def execGetHealthInfo (s : State) : Host.Outcome State Fault Refusal := .next (doGetHealthInfo s)

/-- R286: the opcodes the mailbox serves. -/
def mailboxOpcodes : List Nat := [0x0100, 0x0101, 0x0400, 0x0401, 0x4000, 0x4200]

/-- R286: any other opcode returns Unsupported. -/
def doUnsupportedMailboxOpcode (_op : Nat) (s : State) : State := mailbox 3 [] s

/-- R286. -/
def execUnsupportedMailboxOpcode (op : Nat) (s : State) : Host.Outcome State Fault Refusal :=
  onUnit (¬ mailboxOpcodes.contains (op % 2 ^ 16)) (doUnsupportedMailboxOpcode (op % 2 ^ 16) s)

/-! ## Data Object Exchange (R306) -/

/-- R306: a response in the mailbox. While the error bit stands, or without a trained link, there is none. -/
def doeAnswer (bytes : List Nat) (s : State) : State :=
  if s.kpr.railsUp && s.hif.linkUp && !s.hif.doeError then emit (.doe bytes) { s with hif := { s.hif with doeOut := bytes } }
  else s

/-- R306: a request the mailbox does not serve. -/
def doeRefuse (s : State) : State :=
  if s.kpr.railsUp && s.hif.linkUp then { s with hif := { s.hif with doeError := true, doeOut := [] } } else s

/-- R306: the protocols by index: Discovery, attestation, and CXL Table Access in CXL mode. -/
def State.doeProtocols (s : State) : List (List Nat) :=
  [[1, 0, 0], leBytes 2 (Config.vendorId % 65536) ++ [1]] ++ (if 2 ≤ s.hif.mode then [[0x98, 0x1E, 2]] else [])

/-- R306: the mailbox takes an object: it is of a type that is carried, and at most 64 KiB long. -/
def doeTakes (carried ty len : Nat) : Bool := decide (ty = carried) && decide (len ≤ 65536)

/-- R306: Discovery of one index; the last byte names the next index, 0 at the end (PCIe layout, log 16). An object of
another type `ty`, or one of more than 64 KiB, is answered with the error bit. -/
def doDoeDiscovery (i ty len : Nat) (s : State) : State :=
  let l := s.doeProtocols
  if !doeTakes 0 ty len then doeRefuse s
  else doeAnswer (if i < l.length then nth [] l i ++ [if i + 1 < l.length then i + 1 else 0] else [0xFF, 0xFF, 0, 0]) s

/-- R306: an object under the PCI-SIG's vendor ID: its type, its length in bytes, and the index that a Discovery names. -/
def execDoeDiscovery (i ty len : Nat) (s : State) : Host.Outcome State Fault Refusal :=
  .next (doDoeDiscovery (i % 256) ty len s)

/-- R306: CDAT entries: header, one DSMAS over 576 GiB, and read and write latency (1,000 ns) and bandwidth (121 GB/s).
The layout is the CXL specification's (log 16). -/
def cdatEntries : List (List Nat) :=
  let dslbis (ty base value : Nat) : List Nat := [1, 0, 24, 0, 0, 0, ty, 0] ++ leBytes 8 base ++ leBytes 2 value ++ List.replicate 6 0
  let body : List (List Nat) :=
    [[0, 0, 24, 0, 0, 0, 0, 0] ++ leBytes 8 0 ++ leBytes 8 0x9000000000,
     dslbis 1 1000 1000, dslbis 2 1000 1000, dslbis 4 1000 121, dslbis 5 1000 121]
  let len := 16 + 24 * body.length
  let head (sum : Nat) : List Nat := leBytes 4 len ++ [1, sum] ++ List.replicate 10 0
  let total := (head 0 ++ body.flatten).sum
  head ((256 - total % 256) % 256) :: body

/-- R306: CDAT is served in CXL mode only, an entry at a time; the answer names the next entry, 0xFFFF after the last. -/
def doCdatRead (i ty len : Nat) (s : State) : State :=
  if s.hif.mode < 2 || !doeTakes 2 ty len || decide (cdatEntries.length ≤ i) then doeRefuse s
  else doeAnswer ([0, 0] ++ leBytes 2 (if i + 1 < cdatEntries.length then i + 1 else 0xFFFF) ++ nth [] cdatEntries i) s

/-- R306: an object under the CXL vendor ID: its type, its length in bytes, and the entry that a table access names. -/
def execCdatRead (i ty len : Nat) (s : State) : Host.Outcome State Fault Refusal := .next (doCdatRead i ty len s)

/-- R306: DOE Abort resets the mailbox. -/
def doDoeAbort (s : State) : State :=
  if s.kpr.railsUp && s.hif.linkUp then { s with hif := { s.hif with doeBusy := false, doeError := false, doeOut := [] } } else s

/-- R306. -/
def execDoeAbort (s : State) : Host.Outcome State Fault Refusal := .next (doDoeAbort s)

end Sys2Proof.Machine
end

