-- ==== Sys2Proof/Machine/Shake.lean ====
section
/-! DEFINITION. SHAKE256 (FIPS 202), which R377 names for every digest. A state is 25 lanes of 64 bits, lane (x, y) at
x + 5 y. -/
namespace Sys2Proof.Machine

/-- A lane turned left by `n` places, below 64. -/
def turnLane (n v : Nat) : Nat := v * 2 ^ n % 2 ^ 64 + v / 2 ^ (64 - n)

/-- Lane `i` of a state. -/
def lane (a : List Nat) (i : Nat) : Nat := nth 0 a i

/-- The parity of the five lanes of column `x`. -/
def columnParity (a : List Nat) (x : Nat) : Nat := (List.range 5).foldl (fun v y => v ^^^ lane a (x + 5 * y)) 0

/-- θ: every lane takes the parities of the columns beside its own. -/
def mixColumns (a : List Nat) : List Nat :=
  let par := (List.range 5).map (columnParity a)
  a.zipIdx.map (fun e => e.1 ^^^ lane par ((e.2 + 4) % 5) ^^^ turnLane 1 (lane par ((e.2 + 1) % 5)))

/-- ρ and π in one walk over the 24 lanes but (0, 0): step `k` carries the lane at (x, y) to (y, 2x + 3y), which is the
walk's next place, turned by the k-th triangular number. -/
def carryLanes (a : List Nat) : Nat → Nat → Nat → Nat → List Nat → List Nat
  | 0, _, _, _, b => b
  | n + 1, k, x, y, b =>
    let z := (2 * x + 3 * y) % 5
    carryLanes a n (k + 1) y z (setNth b (y + 5 * z) (turnLane (k * (k + 1) / 2 % 64) (lane a (x + 5 * y))))

/-- χ: a lane takes the next-but-one lane of its row wherever the next one has a 0. -/
def mixRow (b : List Nat) (i : Nat) : Nat :=
  let row := i - i % 5
  lane b i ^^^ (lane b (row + (i + 2) % 5) - (lane b (row + (i + 1) % 5) &&& lane b (row + (i + 2) % 5)))

/-- One step of the feedback register whose low bits make the round constants. -/
def registerStep (v : Nat) : Nat := if v < 128 then 2 * v else 2 * v ^^^ 0x171

/-- ι: the constant of a round, its bits at the places 2 ^ j - 1, and the register after it. -/
def roundConstant (v : Nat) : Nat × Nat :=
  (List.range 7).foldl (fun e j => (e.1 + e.2 % 2 * 2 ^ (2 ^ j - 1), registerStep e.2)) (0, v)

/-- `n` rounds, the feedback register at `v`. -/
def keccakRounds : Nat → Nat → List Nat → List Nat
  | 0, _, a => a
  | n + 1, v, a =>
    let m := mixColumns a
    let b := carryLanes m 24 1 1 0 m
    let c := (List.range 25).map (mixRow b)
    keccakRounds n (roundConstant v).2 (setNth c 0 (lane c 0 ^^^ (roundConstant v).1))

/-- The permutation. -/
def keccakF (a : List Nat) : List Nat := keccakRounds 24 1 a

/-- Absorbing one block of 136 bytes. -/
def absorb (a block : List Nat) : List Nat :=
  keccakF ((List.range 25).map (fun i => Nat.xor (nth 0 a i) (if i < 17 then leAt block (8 * i) 8 else 0)))

/-- Absorbing whole blocks, at most `n` of them. -/
def absorbAll : Nat → List Nat → List Nat → List Nat
  | 0, a, _ => a
  | n + 1, a, m => absorbAll n (absorb a (m.take 136)) (m.drop 136)

/-- The padded message: 0x1F, zeros, and 0x80 in the last byte of the block. -/
def shakePad (m : List Nat) : List Nat :=
  let z := 135 - m.length % 136
  if z = 0 then m ++ [0x9F] else m ++ [0x1F] ++ List.replicate (z - 1) 0 ++ [0x80]

/-- The first 64 bytes of SHAKE256 output: the digest of R377. -/
def shake256 (m : List Nat) : List Nat :=
  let p := shakePad m
  ((absorbAll (p.length / 136) (List.replicate 25 0) p).take 8).flatMap (leBytes 8)

/-- The first `n` bytes of SHAKE256 output, up to one block of 136. -/
def shake256Short (n : Nat) (m : List Nat) : List Nat :=
  let p := shakePad m
  ((((absorbAll (p.length / 136) (List.replicate 25 0) p).take 17).flatMap (leBytes 8))).take n

end Sys2Proof.Machine
end

