-- ==== Sys2Proof/Machine/Protect.lean ====
section
/-! DEFINITION. Protection and attestation (chapter 18). Signatures themselves are outside the model: their verdicts come
with the command, and the bytes the device signs are free values (log 7). -/
namespace Sys2Proof.Machine

/-- The protection block in force, 16,384 bytes. -/
def State.block (s : State) : List Nat := memBytes s.prt.block 0 16384

/-- A little-endian field of the block in force. -/
def State.blockLe (s : State) (off n : Nat) : Nat := leNat (memBytes s.prt.block off n)

/-- Header fields (Table 18.4). -/
def State.floor (s : State) : Nat := s.blockLe 12 4

/-- R384: a device ID lies within some admission entry in use. -/
def State.admitted (s : State) (id : Nat) : Bool :=
  (List.range (min 256 (s.blockLe 18 2))).any (fun e =>
    decide (s.blockLe (0x1000 + 4 * e) 2 ≤ id) && decide (id ≤ s.blockLe (0x1002 + 4 * e) 2))

/-- R378, R387: bytes drawn from the entropy source. -/
def entropy (n : Nat) (s : State) : List Nat := (List.range n).map (fun i => Config.unstated s.fresh i % 256)

/-! ## PRT commands (R387 to R395) -/

/-- R395: PRT commands and their registers are accepted in READY and SUSPENDED while none runs. -/
def State.prtOpen (s : State) : Bool := s.inStates [.ready, .suspended] && decide (s.prt.result ≠ 1)

/-- R387 to R389, R395: a write of `PRT.CMD`. -/
def writePrtCmd (v : Nat) (s : State) : State :=
  let op := v % 4
  let go := bit v 63
  regWrite 0xA00008 v (2 ^ 63 + 3) 0 (fun s =>
  if !s.prtOpen || (go && (decide (op = 0) || (decide (op = 3) && decide (s.kpr.state ≠ .ready)))) then
    refuse 0xA00008 v 0x0120 s
  else if !go then { s with prt := { s.prt with op := op } }
  else if op = 1 then useFresh { s with prt := { s.prt with op := op, nonce := some (entropy 32 s), result := 2 } }
  else { s with prt := { s.prt with op := op, result := 1, running := op } }) s

/-- R387: op 1 with go draws a fresh nonce. -/
def doNonceRequest (s : State) : State := writePrtCmd (2 ^ 63 + 1) s

/-- R387. -/
def execNonceRequest (s : State) : Host.Outcome State Fault Refusal := .next (doNonceRequest s)

/-- R389: op 2 with go starts a change. -/
def doProtectionChange (s : State) : State := writePrtCmd (2 ^ 63 + 2) s

/-- R389. -/
def execProtectionChange (s : State) : Host.Outcome State Fault Refusal := .next (doProtectionChange s)

/-- R392: op 3 with go starts a debug unlock. -/
def doDebugUnlock (s : State) : State := writePrtCmd (2 ^ 63 + 3) s

/-- R392. -/
def execDebugUnlock (s : State) : Host.Outcome State Fault Refusal := .next (doDebugUnlock s)

/-- Every byte of a span is zero. -/
def zeros (l : List Nat) (off n : Nat) : Bool := (slice l off n).all (fun b => decide (b = 0))

/-- R388, R392, test 2 of Table 18.8: the package's form. -/
def packageForm (op serial : Nat) (pkg : List Nat) : Bool :=
  let n := if op = 2 then 16384 else 32
  decide (pkg.length = 32 + n + 2 * 3328) &&
  decide (slice pkg 0 8 = [0x50, 0x52, 0x54, 0x43, 0x48, 0x47, 0x00, 0x01]) && decide (leAt pkg 8 1 = op) &&
  zeros pkg 9 23 && zeros pkg (32 + n + 3309) 19 && zeros pkg (32 + n + 3328 + 3309) 19 &&
  (decide (op = 2) ||
    (decide (leAt pkg 32 8 = serial) && decide (leAt pkg 40 1 ≠ 0) && decide (leAt pkg 40 1 < 8) && zeros pkg 41 23))

/-- Test 4 of Table 18.8: the new block's form against the change count in force. -/
def newBlockForm (oldCount : Nat) (b : List Nat) : Bool :=
  let wins := leAt b 17 1
  let adm := leAt b 18 2
  let lic := leAt b 20 1
  let flags := leAt b 16 1
  decide (slice b 0 8 = [0x50, 0x52, 0x4F, 0x54, 0x42, 0x4C, 0x4B, 0x01]) &&
  decide (wins ≤ 8) && decide (adm ≤ 256) && decide (1 ≤ lic) && decide (lic ≤ 3) && decide (flags < 8) &&
  zeros b 21 43 && zeros b 0x0FC0 64 && zeros b 0x3C20 992 &&
  zeros b (0x0F80 + 8 * wins) (64 - 8 * wins) && zeros b (0x1000 + 4 * adm) (1024 - 4 * adm) &&
  zeros b (0x1400 + 3424 * lic) (10272 - 3424 * lic) &&
  (List.range (min 8 wins)).all (fun e => zeros b (0x0F80 + 8 * e + 4) 4) &&
  decide (leAt b 8 4 = oldCount + 1) && bit flags 0 &&
  !zeros b 0x40 1952 && !zeros b 0x7E0 1952 && decide (slice b 0x40 1952 ≠ slice b 0x7E0 1952)

/-- Test 9: every committed decoder lies within a permitted entry of the new block. -/
def decodersPermitted (b : List Nat) (wins : List Win) : Bool :=
  wins.all (fun w => !w.committed || permitted (memPutBytes [] 0 b) w.dpa w.size)

/-- Table 18.8: the tests in order; 2 where all pass. -/
def packageResult (readsOk : Bool) (pkg : List Nat) (sigA sigB storeOk : Bool) (s : State) : Nat :=
  let op := s.prt.running
  let b := slice pkg 32 16384
  if !readsOk then 0x0D
  else if !packageForm op s.fuses.serial pkg || decide (s.prt.pkgLen ≠ pkg.length) then 0x03
  else if s.prt.nonce = none then 0x04
  else if op = 2 && !newBlockForm (s.blockLe 8 4) b then 0x0E
  else if !sigA then 0x05
  else if !sigB then 0x06
  else if op = 2 && decide (leAt b 12 4 < s.floor) then 0x08
  else if op = 2 && decide (slice b 0x1400 3424 ≠ memBytes s.prt.block 0x1400 3424) then 0x09
  else if op = 2 && !decodersPermitted b s.hif.win then 0x0A
  else if op = 3 && !s.prtFlag 1 then 0x0B
  else if op = 2 && !storeOk then 0x0C
  else 2

/-- R389 to R392: a change or unlock ends. A committed block takes effect at once in the parts of Table 18.9 that say
so; clearing debug_policy ends an unlock. While Bus Master Enable is 0 the package is not read (R294). -/
def doPrtCommandDone (readsOk : Bool) (pkg : List Nat) (sigA sigB storeOk : Bool) (s : State) : State :=
  let op := s.prt.running
  if op = 0 || !s.hif.bme || decide (s.kpr.state = .halted) then s
  else
    let r := packageResult readsOk pkg sigA sigB storeOk s
    let s := { s with prt := { s.prt with result := r, running := 0, nonce := none } }
    let s := if r ≠ 2 then s
      else if op = 2 then
        let b := slice pkg 32 16384
        { s with prt := { s.prt with
            block := memPutBytes [] 0 b, seqNo := s.prt.seqNo + 1, scope := if bit (leAt b 16 1) 1 then s.prt.scope else 0 } }
      else { s with prt := { s.prt with scope := leAt pkg 40 1 } }
    raise 0x0006 (if r = 2 then 0 else 1) noUnit [op, r] s

/-- R389: whether the host read completed, the package, the verdicts on its two signatures under the keys of R390, and
whether the store's write and read-back succeeded. -/
def execPrtCommandDone (readsOk : Bool) (pkg : List Nat) (sigA sigB storeOk : Bool) (s : State) :
    Host.Outcome State Fault Refusal := .next (doPrtCommandDone readsOk (toBytes pkg) sigA sigB storeOk s)

/-! ## Attestation (R393, R394) -/

/-- R393: a response with its code and status, in every state but HALTED. -/
def attest (code status : Nat) (data : List Nat) (s : State) : State :=
  if s.kpr.state = .halted then s else doeAnswer ([code + 0x80, status, 0, 0] ++ data) s

/-- Table 18.2: the identity record. -/
def State.identityRecord (s : State) : List Nat :=
  leBytes 2 (Config.vendorId % 65536) ++ leBytes 2 0x4C56 ++ leBytes 2 s.fuses.grade ++ [s.fuses.grade, 0]
    ++ leBytes 8 s.fuses.serial ++ leBytes 2 s.fuses.shipped ++ List.replicate 14 0
    ++ (List.range 1952).map (fun i => Config.identityKey (leNat s.fuses.seed) i % 256)

/-- R393: GET_IDENTITY. -/
def doGetIdentity (s : State) : State := attest 0x01 0 s.identityRecord s

/-- R393. -/
def execGetIdentity (s : State) : Host.Outcome State Fault Refusal := .next (doGetIdentity s)

/-- R379, R393: GET_CERT of index 0 to 2; another index is a bad request. -/
def doGetCert (i : Nat) (s : State) : State :=
  if i < 3 then attest 0x02 0 (leBytes 4 (nth [] s.prt.certs i).length ++ nth [] s.prt.certs i) s
  else attest 0x02 1 [] s

/-- R393. -/
def execGetCert (i : Nat) (s : State) : Host.Outcome State Fault Refusal := .next (doGetCert (i % 256) s)

/-- The features in force as the licence's field. -/
def State.featureBits (s : State) : Nat :=
  b2n s.kpr.features.w2w1 + 2 * b2n s.kpr.features.req + 4 * b2n s.kpr.features.cxlMem

/-- Table 18.11: the report body. -/
def State.reportBody (s : State) (nonce : List Nat) : List Nat :=
  let im := s.dev.image
  let imFlags := match im with
    | none => 0
    | some i => 1 + 2 * b2n s.dev.inForce + 4 * b2n (decide (i.keySlot = 1))
  leBytes 2 (Config.vendorId % 65536) ++ leBytes 2 0x4C56 ++ [s.fuses.grade, s.kpr.state.code, s.prt.scope, imFlags]
    ++ leBytes 8 s.fuses.serial ++ slice nonce 0 32 ++ leBytes 8 s.frm.tc ++ leBytes 4 s.kpr.fwVersion
    ++ leBytes 4 s.floor ++ slice s.kpr.fwDigest 0 64 ++ shake256 s.block
    ++ slice ((im.map (fun i => i.digest)).getD []) 0 64 ++ leBytes 8 ((im.map (fun i => i.imageId)).getD 0)
    ++ leBytes 4 s.featureBits ++ leBytes 4 s.kpr.features.links
    ++ leBytes 2 (if s.flp.valid then s.goodPanes else 0) ++ leBytes 2 s.fuses.shipped ++ leBytes 4 (s.blockLe 8 4)
    ++ List.replicate 40 0

/-- R393, R394: GET_REPORT. The signature's bytes are free values. -/
def doGetReport (nonce : List Nat) (s : State) : State :=
  if !s.prt.identity then attest 0x03 2 [] s
  else attest 0x03 0 (s.reportBody nonce ++ (List.range 3309).map (fun i => Config.signature s.fresh i % 256)) (useFresh s)

/-- R393: the verifier's nonce has 32 bytes. -/
def execGetReport (nonce : List Nat) (s : State) : Host.Outcome State Fault Refusal :=
  .next (doGetReport (toBytes (slice nonce 0 32)) s)

/-- R393: GET_PROTECTION. -/
def doGetProtection (s : State) : State := attest 0x04 0 s.block s

/-- R393. -/
def execGetProtection (s : State) : Host.Outcome State Fault Refusal := .next (doGetProtection s)

end Sys2Proof.Machine
end

