-- ==== Sys2Proof/Machine/Image.lean ====
section
/-! DEFINITION. The Flital image (chapter 11): its header, sections and records, read from its bytes, and what the image in
force says of roles, frames, pools and service. -/
namespace Sys2Proof.Machine

/-! ## Parsing (R242, R439) -/

/-- Entry `i` of a section table (Table 11.2) with the section's bytes. -/
def parseSection (img : List Nat) (i : Nat) : Section :=
  let e := 0x100 + 32 * i
  { ty := leAt img e 2, records := leAt img (e + 4) 4, offset := leAt img (e + 8) 8, size := leAt img (e + 16) 8,
    bytes := (img.drop (leAt img (e + 8) 8)).take (leAt img (e + 16) 8) }

/-- An image read from its bytes (Table 11.1). -/
def parseImage (img : List Nat) : Image :=
  { version := leAt img 8 2, length := leAt img 16 8, sigOff := leAt img 24 8, keySlot := leAt img 32 1,
    minFw := leAt img 36 4, imageId := leAt img 40 8, roundSeed := leAt img 48 8,
    sections := (List.range (leAt img 10 2)).map (parseSection img),
    digest := shake256 (img.take (leAt img 24 8)) }

/-- A section of the image, if it has it. -/
def Image.sect (i : Image) (ty : Nat) : Option Section := i.sections.find? (fun x => decide (x.ty = ty))

/-- Bytes of a section, none where it is absent. -/
def Image.bytes (i : Image) (ty : Nat) : List Nat := ((i.sect ty).map (fun x => x.bytes)).getD []

/-- Records of a section. -/
def Image.records (i : Image) (ty : Nat) : Nat := ((i.sect ty).map (fun x => x.records)).getD 0

/-- A little-endian field of a 32-byte record. -/
def Image.recLe (i : Image) (ty r off n : Nat) : Nat := leAt (i.bytes ty) (32 * r + off) n

/-- A role record (Table 11.4). -/
structure RoleRec where
  core : Nat
  slot : Nat
  slats : Nat
  start : Nat
  len : Nat
  swapStart : Nat
  swapLen : Nat
  tasks : Nat
  save : Nat
  entry : List Nat
  deriving DecidableEq, Repr

/-- Role `r` of an image. -/
def Image.role (i : Image) (r : Nat) : RoleRec :=
  let f := i.recLe 1 r
  { core := f 0 2 % 2 ^ 14, slot := f 0 2 / 2 ^ 14, slats := f 2 2, start := f 4 2, len := f 6 2, swapStart := f 8 2,
    swapLen := f 10 2, tasks := f 12 4, save := f 16 8, entry := (List.range 4).map (fun t => f (24 + 2 * t) 2) }

/-- Roles of an image. -/
def Image.roles (i : Image) : Nat := i.records 1

/-- A spare record (Table 11.5). -/
structure SpareRec where
  core : Nat
  slot : Nat
  count : Nat
  save : Nat
  covers : List Nat
  deriving DecidableEq, Repr

/-- Spare record `k`. -/
def Image.spare (i : Image) (k : Nat) : SpareRec :=
  let f := i.recLe 0x0E k
  { core := f 0 2 % 2 ^ 14, slot := f 0 2 / 2 ^ 14, count := f 2 1, save := f 8 8,
    covers := (List.range (min 8 (f 2 1))).map (fun j => f (16 + 2 * j) 2) }

/-- FRAME fields (Table 11.16). -/
def Image.frameLe (i : Image) (off n : Nat) : Nat := leAt (i.bytes 3) off n

/-- Template index of a frame number (R439, Table 11.16). -/
def Image.templateOf (i : Image) (k : Nat) : Nat := i.frameLe (16 + k % max 1 (i.frameLe 15 1)) 1

/-- A template is lockstep. -/
def Image.lockstep (i : Image) (t : Nat) : Bool := bit (i.frameLe (32 + 16 * t) 1) 0

/-- Pair mask of a template. -/
def Image.pairMask (i : Image) (t : Nat) : Nat := i.frameLe (36 + 16 * t) 4

/-- Slats of the table. -/
def Image.slats (i : Image) : Nat := i.frameLe 13 1

/-- Offset and louvre pattern of slat `i`. -/
def Image.slat (i : Image) (k : Nat) : Nat × Nat := (i.frameLe (96 + 8 * k) 4, i.frameLe (100 + 8 * k) 1)

/-- Lockstep members LINKS declares; the group of one where a template is lockstep without a declaration (R440). -/
def Image.memberCount (i : Image) : Nat :=
  let m := i.recLe 0x0B 0 4 4
  if m ≠ 0 then m
  else if (List.range (i.frameLe 14 1)).any (fun t => i.lockstep t) then 1 else 0

/-- IDs of the declared members. -/
def Image.memberIds (i : Image) : List Nat :=
  (List.range (i.recLe 0x0B 0 4 4)).map (fun k => leAt (i.bytes 0x0B) (32 * 33 + 2 * k) 2)

/-- A ladder level: lanes, divisor, forecast (Table 11.16); levels the image lacks repeat its last. -/
def Image.level (i : Image) (v : Nat) : Nat × Nat × Nat :=
  let r := min v (i.records 5 - 1)
  (i.recLe 5 r 0 2, i.recLe 5 r 2 1, i.recLe 5 r 4 4)

/-- A region is hot in a louvre pattern (Table 11.3, R347). -/
def Image.hot (i : Image) (pattern r : Nat) : Bool :=
  if pattern = 0 then decide (layerOf r % 2 = 0)
  else if pattern = 1 then decide (layerOf r % 2 = 1)
  else (List.range (i.records 4 / 3)).any (fun j =>
    decide (i.recLe 4 (3 * j) 0 2 = pattern) && bit (leAt (i.bytes 4) (32 * (3 * j + 1) + r / 8) 1) (r % 8))

/-- A result-buffer pair (Table 11.16). -/
structure PairRec where
  pair : Nat
  length : Nat
  even : Nat
  odd : Nat
  roles : List Nat
  deriving DecidableEq, Repr

/-- The declared pairs. -/
def Image.pairs (i : Image) : List PairRec :=
  let n := i.recLe 7 0 0 1
  (List.range n).map (fun k =>
    let f := i.recLe 7 (1 + k)
    { pair := f 0 1, length := f 4 4, even := f 8 8, odd := f 16 8,
      roles := (List.range (f 28 4)).map (fun j => leAt (i.bytes 7) (32 * (1 + n) + 4 * (f 24 4 + j)) 4) })

/-- A result-region record of BANKPROG. -/
structure RegionRec where
  tile : Nat
  bank : Nat
  slot : Nat
  off : Nat
  len : Nat
  deriving DecidableEq, Repr

/-- BANKPROG: first word, words, region records. -/
def Image.bankWords (i : Image) : Nat × List Nat :=
  (i.recLe 9 0 0 2, (List.range (i.recLe 9 0 2 2)).map (fun k => leAt (i.bytes 9) (32 + 4 * k) 4))

/-- Result regions of the slots. -/
def Image.regions (i : Image) : List RegionRec :=
  let base := 1 + (i.recLe 9 0 2 2 + 7) / 8
  (List.range (i.recLe 9 0 4 4)).map (fun k =>
    let f := i.recLe 9 (base + k)
    { tile := f 0 2, bank := f 2 1, slot := f 3 1, off := f 4 2, len := f 6 2 })

/-- A pool (Table 9.1, Table 11.16). -/
structure PoolRec where
  region : Nat
  tileCount : Nat
  streams : Nat
  lanes : Nat
  pageFmt : Nat
  laneBase : Nat
  off : Nat
  groups : Nat
  maxPages : Nat
  laneBlock : Nat
  ptBase : Nat
  ptLen : Nat
  tiles : List Nat          -- region-local indices
  deriving DecidableEq, Repr

/-- Pool `p`. -/
def Image.pool (i : Image) (p : Nat) : PoolRec :=
  let f := fun off n => leAt (i.bytes 0x0A) (96 * p + off) n
  { region := f 0 2, tileCount := f 2 1, streams := f 3 1, lanes := f 4 1, pageFmt := f 5 1, laneBase := f 6 2,
    off := f 8 4, groups := f 12 2, maxPages := f 14 2, laneBlock := f 16 8, ptBase := f 24 8, ptLen := f 32 8,
    tiles := (List.range (f 2 1)).map (fun t => f (40 + t) 1) }

/-- Every pool. -/
def Image.pools (i : Image) : List PoolRec := (List.range (i.records 0x0A / 3)).map i.pool

/-- The pool of a region. -/
def Image.poolOf (i : Image) (r : Nat) : Option PoolRec := i.pools.find? (fun p => decide (p.region = r))

/-- Insertion of a number into a rising list without repeats. -/
def insertRising (x : Nat) : List Nat → List Nat
  | [] => [x]
  | y :: t => if x < y then x :: y :: t else if x = y then y :: t else y :: insertRising x t

/-- R440: the lane bases of the pool sets in rising order; set j is the j-th. -/
def Image.setBases (i : Image) : List Nat := i.pools.foldl (fun l p => insertRising p.laneBase l) []

/-- The pools of pool set j, in pool order, with their numbers. -/
def Image.setPools (i : Image) (j : Nat) : List (Nat × PoolRec) :=
  match i.setBases[j]? with
  | none => []
  | some b => (((List.range (i.records 0x0A / 3)).map (fun p => (p, i.pool p))).filter (fun e => decide (e.2.laneBase = b)))

/-- SERVICE fields. -/
def Image.serviceLe (i : Image) (off n : Nat) : Nat := leAt (i.bytes 0x0D) off n

/-- The image has a service section. -/
def Image.hasService (i : Image) : Bool := (i.sect 0x0D).isSome

/-- Pool sets the service uses. -/
def Image.serviceSets (i : Image) : List Nat :=
  (List.range (i.serviceLe 12 2)).map (fun k => leAt (i.bytes 0x0D) (64 + 2 * k) 2)

/-- Records of SERVICE before its stop sets. -/
def Image.stopBase (i : Image) : Nat := 2 + (i.serviceLe 12 2 + 15) / 16

/-- Stop set j: its tokens. -/
def Image.stopSet (i : Image) (j : Nat) : List Nat :=
  ((List.range 16).map (fun k => leAt (i.bytes 0x0D) (32 * (i.stopBase + 2 * j) + 4 * k) 4)).filter (fun t => decide (t ≠ 0xFFFFFFFF))

/-- Offset of penalty table j, past the ones before it. -/
def Image.penaltyAt (i : Image) : Nat → Nat
  | 0 => 32 * (i.stopBase + 2 * i.serviceLe 15 1)
  | j + 1 => i.penaltyAt j + 32 * (1 + (leAt (i.bytes 0x0D) (i.penaltyAt j) 4 + 3) / 4)

/-- Penalty table j: token and FP32 bias. -/
def Image.penalty (i : Image) (j : Nat) : List (Nat × Nat) :=
  let at_ := i.penaltyAt j
  (List.range (leAt (i.bytes 0x0D) at_ 4)).map (fun k =>
    (leAt (i.bytes 0x0D) (at_ + 32 + 8 * k) 4, leAt (i.bytes 0x0D) (at_ + 36 + 8 * k) 4))

/-- A descriptor of TASKS as a 128-bit number, word 0 in the low half. -/
def Image.task (i : Image) (k : Nat) : Nat := leAt (i.bytes 2) (16 * k) 16

/-! ## The image in force -/

/-- Present binding of a role: its own record, or the spare it has been bound to (R249). -/
structure Binding where
  core : Nat
  slot : Nat
  places : List Nat         -- descriptor-store index of each descriptor of its table
  slats : Nat
  swapStart : Nat
  swapLen : Nat
  save : Nat
  entry : List Nat
  deriving DecidableEq, Repr

/-- Roles whose record names a core. -/
def Image.residents (i : Image) (n : Nat) : List Nat :=
  (List.range i.roles).filter (fun r => decide ((i.role r).core = n))

/-- Descriptor-store indexes of a core that no resident table takes, in rising order. -/
def Image.freePlaces (i : Image) (n : Nat) : List Nat :=
  let rs := (i.residents n).map i.role
  (List.range 4096).filter (fun k => !rs.any (fun r => decide (r.start ≤ k) && decide (k < r.start + r.len)))

/-- Lengths of the copies on the core of spare record `k`, in record order, up to and without that of covered role `r`. -/
def Image.copiesBefore (i : Image) (k r : Nat) : List Nat :=
  let lens (l : List Nat) : List Nat := l.map (fun x => (i.role x).len)
  let c := (i.spare k).core
  ((List.range k).filter (fun j => decide ((i.spare j).core = c))).flatMap (fun j => lens (i.spare j).covers)
    ++ lens ((i.spare k).covers.takeWhile (fun x => decide (x ≠ r)))

/-- The first of a rising list of places from which `n` places in a row are free. -/
def firstFit (free : List Nat) (n : Nat) : Option Nat :=
  ((free.zip (free.drop (n - 1))).find? (fun e => decide (e.2 = e.1 + (n - 1)))).map Prod.fst

/-- The places a copy of `n` descriptors takes: the first contiguous range that is free (R54), else the lowest free
places (log 20). -/
def takeRange (free : List Nat) (n : Nat) : List Nat :=
  match firstFit free n with
  | some a => (List.range n).map (fun j => a + j)
  | none => free.take n

/-- Descriptor-store places of the copy of role `r` that spare record `k` holds: the copies of a core take their places
in record order (log 20). -/
def Image.copyPlaces (i : Image) (k r : Nat) : List Nat :=
  let free := (i.copiesBefore k r).foldl (fun free n =>
    let t := takeRange free n
    free.filter (fun a => !t.contains a)) (i.freePlaces (i.spare k).core)
  takeRange free (i.role r).len

/-- Binding of role `r`; `j` is 0, or 1 + the spare record it is bound to. -/
def Image.binding (i : Image) (j r : Nat) : Binding :=
  let x := i.role r
  if j = 0 then
    { core := x.core, slot := x.slot, places := (List.range x.len).map (fun k => x.start + k), slats := x.slats,
      swapStart := x.swapStart, swapLen := x.swapLen, save := x.save, entry := x.entry }
  else
    let sp := i.spare (j - 1)
    { core := sp.core, slot := sp.slot, places := i.copyPlaces (j - 1) r, slats := x.slats, swapStart := x.swapStart,
      swapLen := x.swapLen, save := sp.save, entry := x.entry }

/-- The image in force. -/
def State.inForceImage (s : State) : Option Image := if s.dev.inForce then s.dev.image else none

/-- Present binding of a role of the image in force. -/
def State.bindingOf (s : State) (r : Nat) : Option Binding :=
  match s.inForceImage with
  | some i => if r < i.roles then some (i.binding (mapGet 0 s.dev.rebinds r) r) else none
  | none => none

end Sys2Proof.Machine
end

