-- ==== Sys2Proof/Machine/Sequencer.lean ====
section
/-! DEFINITION. Cores (chapter 3): contexts, descriptor fields, dispatch into the unit queues, counters, WAIT, LOOP and
SKIP, descriptor faults, and the start of a queued descriptor on its unit. -/
namespace Sys2Proof.Machine

/-! ## Access -/

/-- Context `k` of core `n`. -/
def State.ctxOf (s : State) (n k : Nat) : Ctx := mapGet ctx0 s.cores.ctx (n * 4 + k)

/-- Changing one context. -/
def setCtx (n k : Nat) (f : Ctx → Ctx) (s : State) : State :=
  { s with cores := { s.cores with ctx := mapMod ctx0 s.cores.ctx (n * 4 + k) f } }

/-- Sequencer and queues of core `n`. -/
def State.coreRec (s : State) (n : Nat) : CoreSt := mapGet core0 s.cores.core n

/-- Changing one core's sequencer and queues. -/
def setCore (n : Nat) (f : CoreSt → CoreSt) (s : State) : State :=
  { s with cores := { s.cores with core := mapMod core0 s.cores.core n f } }

/-- Pane `p` of core `n`. -/
def State.paneOf (s : State) (n p : Nat) : Pane := mapGet pane0 s.cores.pane (n * 2 + p)

/-- Changing one pane. -/
def setPane (n p : Nat) (f : Pane → Pane) (s : State) : State :=
  { s with cores := { s.cores with pane := mapMod pane0 s.cores.pane (n * 2 + p) f } }

/-- Size of a core store. -/
def storeSize : Nat := 0x100000

/-- Bytes of a core store. -/
def State.storeBytes (s : State) (n a len : Nat) : List Nat := memBytes s.cores.store (n * storeSize + a) len

/-- Writing bytes into a core store; nothing reaches past its end. -/
def putStore (n a : Nat) (bytes : List Nat) (s : State) : State :=
  { s with cores := { s.cores with store := memPutBytes s.cores.store (n * storeSize + a) (bytes.take (storeSize - a)) } }

/-- Contexts of a core that a role is bound to. -/
def State.contexts (s : State) (n : Nat) : List Nat :=
  (List.range 4).filter (fun k => decide ((s.ctxOf n k).role1 ≠ 0))

/-- The core runs: RUNNING, inside a frame that has not been dropped, unfenced, its region clocked and its clocks neither
held nor stopped (R15, R28, R48, R317, R320, R339). -/
def State.coreRuns (s : State) (n : Nat) : Bool :=
  s.powered && decide (s.kpr.state = .running) && decide (s.frm.phase = .inFrame) && !s.frm.now.dropped
    && !s.coreFenced n && decide ((s.clkOf (regionOf n)).source < 2) && !s.clocksHeld (regionOf n)
    && decide ((s.clkOf (regionOf n)).stopUntil ≤ s.frm.tc)

/-! ## Descriptor fields (R57, R68) -/

/-- Kind of a descriptor from its word 0 (Table 3.3). -/
def kindOf (w0 : Nat) : Nat := field w0 60 4

/-- A field of a word moved by a signed step, within its width. -/
def stepField (w lo width : Nat) (d : Int) : Nat :=
  w - field w lo width * 2 ^ lo + ofSigned width ((field w lo width : Nat) + d) * 2 ^ lo

/-- R68: the words of a descriptor with the steps of the enclosing loops. -/
def stepWords (w0 w1 : Nat) (mem cs : Int) : Nat × Nat :=
  if !bit w0 59 then (w0, w1)
  else match kindOf w0 with
    | 1 => (stepField w0 17 15 cs, stepField w1 29 35 mem)
    | 2 => (stepField w0 17 15 cs, stepField w1 29 35 mem)
    | 3 => (stepField w0 17 15 cs, if field w0 3 2 = 0 then w1 else stepField w1 13 35 mem)
    | 4 => (stepField w0 17 15 cs, w1)
    | 5 => (w0, stepField (stepField w1 49 15 cs) 19 15 cs)
    | 6 => (w0, stepField (stepField w1 49 15 cs) 19 15 cs)
    | 7 => (w0, stepField (stepField w1 49 15 cs) 19 15 cs)
    | 8 => (w0, stepField w1 48 16 mem)
    | 11 => (w0, stepField w1 49 15 cs)
    | _ => (w0, w1)

/-- Sum of the iterations' steps. -/
def Ctx.steps (c : Ctx) : Int × Int :=
  c.loops.foldl (fun a l => (a.1 + l.iter * l.memStep, a.2 + l.iter * l.csStep)) (0, 0)

/-- Descriptor `i` of a role's table as stored. -/
def State.descOf (s : State) (b : Binding) (i : Nat) : Nat := mapGet 0 s.cores.desc (b.core * 4096 + nth 0 b.places i)

/-- What the sequencer of a core stands before: slot, role, table index, words with steps. -/
structure Next where
  slot : Nat
  role : Nat
  idx : Nat
  len : Nat
  w0 : Nat
  w1 : Nat
  deriving DecidableEq, Repr

/-- R28, R36, R56, R73, R76: the descriptor the sequencer may dispatch next. -/
def State.nextDesc (s : State) (n : Nat) : Option Next :=
  let c := s.coreRec n
  if !s.coreRuns n || decide (c.resident1 = 0) || decide (c.switch1 ≠ 0) || decide (s.frm.tc < s.frm.frameStart + 128) then none
  else
    let k := c.resident1 - 1
    let x := s.ctxOf n k
    if x.role1 = 0 || x.idle || x.ended || x.stopped || x.cut || x.yielded then none
    else match s.bindingOf (x.role1 - 1) with
      | none => none
      | some b =>
        let d := s.descOf b x.pos
        let (m, cs) := x.steps
        let (w0, w1) := stepWords (d % 2 ^ 64) (d / 2 ^ 64) m cs
        some { slot := k, role := x.role1 - 1, idx := x.pos, len := b.places.length, w0 := w0, w1 := w1 }

/-- R68: the position after a descriptor: past the end of a body its loop goes back or ends. -/
def settlePos (pos : Nat) : List LoopFr → Nat × List LoopFr
  | [] => (pos, [])
  | l :: t =>
    if l.past ≠ pos then (pos, l :: t)
    else if l.iter + 1 < l.count then (l.first, { l with iter := l.iter + 1 } :: t)
    else settlePos pos t

/-- A context moves to a table index. -/
def Ctx.goTo (c : Ctx) (pos len : Nat) : Ctx :=
  let (p, l) := settlePos pos c.loops
  { c with pos := p, loops := l, ended := decide (len ≤ p) }

/-! ## Faults and counters (R65, R76) -/

/-- R76: a descriptor fault stops the context; the event names role, core, descriptor and code. Faults 0x01 and 0x0C are
noted for R77. -/
def descFault (n k role idx code : Nat) (s : State) : State :=
  let fr := s.frm.count
  let s := setCtx n k (fun c => { c with stopped := true, fault := code, faultIdx := idx }) s
  let s := if code = 1 || code = 0x0C then
      setCore n (fun c => if c.faultFrames.head? = some fr then c else { c with faultFrames := (fr :: c.faultFrames).take 16 }) s
    else s
  raise 0x0021 2 n [role, idx, k, code]
    { s with frm := { s.frm with now := { s.frm.now with faults := s.frm.now.faults + 1 } } }

/-- The counter `c` of a context. -/
def Ctx.ctr (x : Ctx) (c : Nat) : Nat := nth 0 x.ctrs c

/-- R65: one signal; at 65,535 the counter stays and the descriptor faults with 0x05. -/
def signalOnce (n k role idx ctr : Nat) (s : State) : State :=
  if (s.ctxOf n k).ctr ctr = 65535 then descFault n k role idx 5 s
  else setCtx n k (fun c => { c with ctrs := setNth c.ctrs ctr (c.ctr ctr + 1) }) s

/-- R65: the signal of a completed descriptor with word 0 `w0`. -/
def signalDesc (n k role idx w0 : Nat) (s : State) : State :=
  if bit w0 36 then signalOnce n k role idx (field w0 32 4) s else s

/-- The precondition of a descriptor holds. -/
def Ctx.preMet (x : Ctx) (w0 : Nat) : Bool := !bit w0 58 || decide (field w0 37 16 ≤ x.ctr (field w0 53 4))

/-- R65: a consuming precondition subtracts as it is met. -/
def Ctx.consumePre (x : Ctx) (w0 : Nat) : Ctx :=
  if bit w0 58 && bit w0 57 then { x with ctrs := setNth x.ctrs (field w0 53 4) (x.ctr (field w0 53 4) - field w0 37 16) } else x

/-! ## Dispatch (R64) -/

/-- The queue a kind goes to; none for WAIT, LOOP and SKIP. -/
def queueOf (w0 : Nat) : Option UnitQ :=
  match kindOf w0 with
  | 1 => some .transfer
  | 2 => some .transfer
  | 3 => some .message
  | 4 => some .message
  | 5 => some (.pane (field w0 31 1))
  | 6 => some .vector
  | 7 => some .vector
  | 8 => some .bank
  | _ => none

/-- A unit queue by number: transfer, message, pane 0, pane 1, vector, bank. -/
def queueAt (i : Nat) : UnitQ :=
  match i with
  | 0 => .transfer
  | 1 => .message
  | 2 => .pane 0
  | 3 => .pane 1
  | 4 => .vector
  | _ => .bank

/-- Entries of a queue that have not started. -/
def CoreSt.waiting (c : CoreSt) (q : UnitQ) : Nat := (c.queue.filter (fun e => decide (e.q = q) && !e.started)).length

/-- Dispatching one descriptor into its queue. -/
def pushEntry (n : Nat) (d : Next) (q : UnitQ) (s : State) : State :=
  let s := setCore n (fun c =>
    { c with
      queue := c.queue ++ [{ uid := c.nextUid, q := q, slot := d.slot, role := d.role, idx := d.idx, w0 := d.w0, w1 := d.w1 }]
      nextUid := c.nextUid + 1 }) s
  setCtx n d.slot (fun c => c.goTo (d.idx + 1) d.len) s

/-- R64: the sequencer dispatches the next descriptor, or stalls. `parity` is a parity error in the descriptor store. -/
def doDescriptorDispatch (n : Nat) (parity : Bool) (s : State) : State :=
  match s.nextDesc n with
  | none => s
  | some d =>
    if parity then descFault n d.slot d.role d.idx 0x0C s
    else match queueOf d.w0 with
      | none => s
      | some q => if (s.coreRec n).waiting q < 8 then pushEntry n d q s else s

/-- R64. -/
def execDescriptorDispatch (n : Nat) (parity : Bool) (s : State) : Host.Outcome State Fault Refusal :=
  onUnit (n < coreCount) (doDescriptorDispatch n parity s)

/-! ## WAIT, LOOP and SKIP -/

/-- R67: a WAIT of condition `cond` is met and passed: it consumes, signals and lets dispatch go on. -/
def passWait (n cond : Nat) (met : State → Next → Bool) (after : Next → Ctx → Ctx) (s : State) : State :=
  match s.nextDesc n with
  | none => s
  | some d =>
    if kindOf d.w0 = 9 && decide (field d.w0 28 4 = cond) && (s.ctxOf n d.slot).preMet d.w0 && met s d then
      let s := setCtx n d.slot (fun c => (after d (c.consumePre d.w0)).goTo (d.idx + 1) d.len) s
      signalDesc n d.slot d.role d.idx d.w0 s
    else s

/-- Every descriptor the context has dispatched has completed. -/
def State.quiet (s : State) (n k : Nat) : Bool := !(s.coreRec n).queue.any (fun e => decide (e.slot = k))

/-- R65, R67: condition 0x0, a counter; the value is judged after a consuming precondition of the WAIT itself. -/
def doWaitCounter (n : Nat) (s : State) : State :=
  passWait n 0
    (fun s d => decide (field d.w0 7 16 ≤ ((s.ctxOf n d.slot).consumePre d.w0).ctr (field d.w0 23 4)))
    (fun d c => if bit d.w0 27 then
        { c with ctrs := setNth c.ctrs (field d.w0 23 4) (c.ctr (field d.w0 23 4) - field d.w0 7 16) }
      else c) s

/-- R65. -/
def execWaitCounter (n : Nat) (s : State) : Host.Outcome State Fault Refusal := onUnit (n < coreCount) (doWaitCounter n s)

/-- R67: condition 0x1, the start of a slat. -/
def doWaitSlatStart (n : Nat) (s : State) : State :=
  passWait n 1 (fun s d => decide (s.frm.frameStart + (nth (0, 0) s.frm.slats (field d.w1 0 4)).2 ≤ s.frm.tc)) (fun _ c => c) s

/-- R67. -/
def execWaitSlatStart (n : Nat) (s : State) : Host.Outcome State Fault Refusal :=
  onUnit (n < coreCount) (doWaitSlatStart n s)

/-- R67: condition 0x2, an offset from S. -/
def doWaitFrameOffset (n : Nat) (s : State) : State :=
  passWait n 2 (fun s d => decide (s.frm.frameStart + field d.w1 0 27 ≤ s.frm.tc)) (fun _ c => c) s

/-- R67. -/
def execWaitFrameOffset (n : Nat) (s : State) : Host.Outcome State Fault Refusal :=
  onUnit (n < coreCount) (doWaitFrameOffset n s)

/-- R67: condition 0x3, the previous frame is confirmed or was not lockstep. -/
def doWaitConfirm (n : Nat) (s : State) : State :=
  passWait n 3 (fun s _ => !s.frm.ended.lockstep || s.frm.ended.confirmed) (fun _ c => c) s

/-- R67. -/
def execWaitConfirm (n : Nat) (s : State) : Host.Outcome State Fault Refusal := onUnit (n < coreCount) (doWaitConfirm n s)

/-- R67: condition 0x4, quiesce. -/
def doWaitQuiesce (n : Nat) (s : State) : State := passWait n 4 (fun s d => s.quiet n d.slot) (fun _ c => c) s

/-- R67. -/
def execWaitQuiesce (n : Nat) (s : State) : Host.Outcome State Fault Refusal := onUnit (n < coreCount) (doWaitQuiesce n s)

/-- R56, R67: condition 0x5, yield; on a core with one context it acts as quiesce. -/
def doWaitYield (n : Nat) (s : State) : State :=
  let alone := decide ((s.contexts n).length ≤ 1)
  passWait n 5 (fun s d => s.quiet n d.slot) (fun _ c => { c with yielded := !alone }) s

/-- R56. -/
def execWaitYield (n : Nat) (s : State) : Host.Outcome State Fault Refusal := onUnit (n < coreCount) (doWaitYield n s)

/-- R68: a LOOP begins. -/
def doLoop (n : Nat) (s : State) : State :=
  match s.nextDesc n with
  | none => s
  | some d =>
    if kindOf d.w0 = 10 && (s.ctxOf n d.slot).preMet d.w0 then
      let l : LoopFr := {
        first := d.idx + 1, past := d.idx + 1 + field d.w0 24 8, iter := 0, count := field d.w0 0 16 + 1,
        memStep := toSigned 32 (field d.w1 32 32), csStep := toSigned 16 (field d.w1 16 16) }
      setCtx n d.slot (fun c =>
        let c := c.consumePre d.w0
        { c with loops := l :: c.loops, pos := d.idx + 1, ended := decide (d.len ≤ d.idx + 1) }) s
    else s

/-- R68. -/
def execLoop (n : Nat) (s : State) : Host.Outcome State Fault Refusal := onUnit (n < coreCount) (doLoop n s)

/-- R69: how often each of `fuel` descriptors from table index `i` would complete, given the loops still open around it
(past, count); its index and word 0. -/
def skipCounts (get : Nat → Nat) : Nat → Nat → List (Nat × Nat) → List (Nat × Nat × Nat)
  | 0, _, _ => []
  | fuel + 1, i, open_ =>
    let open_ := open_.filter (fun l => decide (i < l.1))
    let w0 := get i % 2 ^ 64
    if kindOf w0 = 10 then skipCounts get fuel (i + 1) ((i + 1 + field w0 24 8, field w0 0 16 + 1) :: open_)
    else (i, w0, (open_.map Prod.snd).foldl (· * ·) 1) :: skipCounts get fuel (i + 1) open_

/-- Signals given together by one skipped descriptor: the counter stops at 65,535 with fault 0x05. -/
def signalMany (n k role idx w0 times : Nat) (s : State) : State :=
  if bit w0 36 then
    let c := field w0 32 4
    let v := (s.ctxOf n k).ctr c + times
    let s := setCtx n k (fun x => { x with ctrs := setNth x.ctrs c (min v 65535) }) s
    if 65535 < v then descFault n k role idx 5 s else s
  else s

/-- The mask of a SKIP has a set bit. -/
def maskAny (bytes : List Nat) (nbits : Nat) : Bool := (List.range nbits).any (fun i => bit (nth 0 bytes (i / 8)) (i % 8))

/-- R69: a SKIP reads its mask; `parity` is a parity error in those bytes. No rule says what a body does that leaves the
table or that ends inside or past a LOOP body: the model jumps to the index after it, leaves outer loops open, and reads
descriptors past the table from store place 0 (log 108). -/
def doSkip (n : Nat) (parity : Bool) (s : State) : State :=
  match s.nextDesc n with
  | none => s
  | some d =>
    if kindOf d.w0 = 11 && (s.ctxOf n d.slot).preMet d.w0 then
      let s := setCtx n d.slot (fun c => c.consumePre d.w0) s
      if parity then descFault n d.slot d.role d.idx 1 s
      else
        let nbits := field d.w1 36 13 + 1
        let body := field d.w0 24 8
        if maskAny (s.storeBytes n (32 * field d.w1 49 15) ((nbits + 7) / 8)) nbits then
          setCtx n d.slot (fun c => c.goTo (d.idx + 1) d.len) s
        else
          match s.bindingOf d.role with
          | none => s
          | some b =>
            let s := setCtx n d.slot (fun c => c.goTo (d.idx + 1 + body) d.len) s
            (skipCounts (s.descOf b) body (d.idx + 1) []).foldl (fun s e => signalMany n d.slot d.role e.1 e.2.1 e.2.2 s) s
    else s

/-- R69. -/
def execSkip (n : Nat) (parity : Bool) (s : State) : Host.Outcome State Fault Refusal :=
  onUnit (n < coreCount) (doSkip n parity s)

/-! ## Units -/

/-- Changing one queue entry. -/
def updEntry (n uid : Nat) (f : QEntry → QEntry) (s : State) : State :=
  setCore n (fun c => { c with queue := c.queue.map (fun e => if e.uid = uid then f e else e) }) s

/-- Taking one entry out of its queue. -/
def dropEntry (n uid : Nat) (s : State) : State :=
  setCore n (fun c => { c with queue := c.queue.filter (fun e => decide (e.uid ≠ uid)) }) s

/-- An entry by number. -/
def State.entryOf (s : State) (n uid : Nat) : Option QEntry := (s.coreRec n).queue.find? (fun e => decide (e.uid = uid))

/-- R76: an entry's descriptor faults: it leaves its queue. -/
def faultEntry (n : Nat) (e : QEntry) (code : Nat) (s : State) : State :=
  descFault n e.slot e.role e.idx code (dropEntry n e.uid s)

/-- An entry's work is done; its signal follows with DESCRIPTOR_COMPLETE. -/
def doneEntry (n uid : Nat) (s : State) : State := updEntry n uid (fun e => { e with done := true }) s

/-- The unit works on an entry of the queue that keeps it from starting another. RECV posts a buffer and holds nothing,
and the bank port is free once a GATHER has gone to its bank. -/
def CoreSt.unitBusy (c : CoreSt) (q : UnitQ) : Bool :=
  c.queue.any (fun e => decide (e.q = q) && e.started && !e.done && decide (kindOf e.w0 ≠ 4) && decide (q ≠ .bank))

/-- The head of a queue: its first entry that has not started. -/
def CoreSt.head (c : CoreSt) (q : UnitQ) : Option QEntry := c.queue.find? (fun e => decide (e.q = q) && !e.started)

/-- A precondition that consumes from the counter that another one consumes from. -/
def sharesCounter (w v : Nat) : Bool :=
  bit w 58 && bit w 57 && bit v 58 && bit v 57 && decide (field w 53 4 = field v 53 4)

/-- R66: another queue head of the context, dispatched before `e`, finds a consuming precondition on the same counter
met: it consumes first. -/
def State.yieldsTo (s : State) (n : Nat) (e : QEntry) : Bool :=
  (List.range 6).any (fun i => match (s.coreRec n).head (queueAt i) with
    | none => false
    | some x => decide (x.slot = e.slot) && decide (x.uid < e.uid) && sharesCounter x.w0 e.w0
        && !(s.coreRec n).unitBusy x.q && (s.ctxOf n x.slot).preMet x.w0)

/-- R64, R66: the head of a queue that may start: its precondition holds, its unit is free, and no head dispatched before
it takes the counter first. -/
def State.startable (s : State) (n : Nat) (q : UnitQ) : Option QEntry :=
  if !s.coreRuns n || (s.coreRec n).unitBusy q then none
  else
    match (s.coreRec n).head q with
    | none => none
    | some e => if (s.ctxOf n e.slot).preMet e.w0 && !s.yieldsTo n e then some e else none

/-- A queue head starts: its precondition is consumed. -/
def startEntry (n : Nat) (e : QEntry) (s : State) : State :=
  updEntry n e.uid (fun e => { e with started := true, since := s.frm.tc }) (setCtx n e.slot (fun c => c.consumePre e.w0) s)

/-- Running the head of a queue where it is of the kind asked for; a parity error in the core store is fault 0x01. -/
def runUnit (n : Nat) (q : UnitQ) (is_ : QEntry → Bool) (parity : Bool) (body : QEntry → State → State) (s : State) : State :=
  match s.startable n q with
  | none => s
  | some e =>
    if is_ e then
      let s := startEntry n e s
      if parity then faultEntry n e 1 s else body { e with started := true } s
    else s

/-- R65: the first finished entry of a queue completes: its counter is signalled. -/
def doDescriptorComplete (n qi : Nat) (s : State) : State :=
  match (s.coreRec n).queue.find? (fun e => decide (e.q = queueAt qi) && e.done) with
  | none => s
  | some e => if s.coreRuns n then signalDesc n e.slot e.role e.idx e.w0 (dropEntry n e.uid s) else s

/-- R65. -/
def execDescriptorComplete (n qi : Nat) (s : State) : Host.Outcome State Fault Refusal :=
  onUnit (n < coreCount ∧ qi < 6) (doDescriptorComplete n qi s)

/-- R77: faults 0x01 or 0x0C in 4 of 16 consecutive frames, the present one the last. -/
def CoreSt.parityDue (c : CoreSt) (frame : Nat) : Bool :=
  decide (4 ≤ (c.faultFrames.filter (fun f => decide (frame < f + 16))).length)

/-- R77: such a core is fenced with cause 0x3. -/
def doCoreParityFence (n : Nat) (s : State) : State :=
  if s.powered && (s.coreRec n).parityDue s.frm.count then fenceUnits 3 [{ kind := 2, unit := n }] s else s

/-- R77. -/
def execCoreParityFence (n : Nat) (s : State) : Host.Outcome State Fault Refusal :=
  onUnit (n < coreCount) (doCoreParityFence n s)

/-- Faulting every entry of a list. -/
def faultAll (n code : Nat) : List QEntry → State → State
  | [], s => s
  | e :: t, s => faultAll n code t (faultEntry n e code s)

/-- R125, R78: every MATMUL on a pane faults with 0x0A and the pane's halves are lost. -/
def failPane (n p : Nat) (s : State) : State :=
  setPane n p (fun x => { x with fill := none, halves := [] })
    (faultAll n 0x0A ((s.coreRec n).queue.filter (fun e => decide (e.q = .pane p) && !e.done)) s)

end Sys2Proof.Machine
end

