-- ==== Sys2Proof/Machine/VecMath.lean ====
section
/-! DEFINITION. What the vector unit computes on one row (Table 3.11, R75, R101) and what CONVERT does to one row
(R94 to R99), as functions of numbers alone. -/
namespace Sys2Proof.Machine

/-- Integer square root, one bit at a time from bit `i`. -/
def isqrtFrom (n : Nat) : Nat → Nat → Nat
  | 0, r => if (r + 1) * (r + 1) ≤ n then r + 1 else r
  | i + 1, r => let c := r + 2 ^ (i + 1); isqrtFrom n i (if c * c ≤ n then c else r)

/-- Integer square root. -/
def isqrt (n : Nat) : Nat := isqrtFrom n (log2 n / 2 + 1) 0

/-- ln 2 with 128 fraction bits. -/
def ln2Fix : Nat := 0xB17217F7D1CF79ABC9E3B39803F2F6AF

/-- Σ r^k / k! from term k on, 128 fraction bits. -/
def expTerms (r : Nat) : Nat → Nat → Nat → Nat
  | 0, _, _ => 0
  | fuel + 1, k, t => t + expTerms r fuel (k + 1) (t * r / 2 ^ 128 / (k + 1))

/-- A dyadic close to e^x, to about 2^−120 of its value; arguments beyond ±300 are taken as ±300, far past FP32. -/
def expApprox (neg : Bool) (m : Nat) (e : Int) : Nat × Int :=
  let mag : Nat := if (log2 m : Nat) + e ≥ 9 then 300 * 2 ^ 128
    else if e + 128 ≥ 0 then m * 2 ^ (e + 128).toNat else m / 2 ^ (-(e + 128)).toNat
  let x : Int := if neg then -(mag : Int) else mag
  let n := x / (ln2Fix : Int)
  let r := (x - n * (ln2Fix : Int)).toNat
  (expTerms r 40 0 (2 ^ 128), n - 128)

/-- A dyadic close to 1 / (m × 2^e), m positive. -/
def rcpApprox (m : Nat) (e : Int) : Nat × Int :=
  let k := log2 m + 100
  (2 ^ k / m, -(k : Int) - e)

/-- A dyadic close to 1 / √(m × 2^e), m positive. -/
def rsqrtApprox (m : Nat) (e : Int) : Nat × Int :=
  let (m, e) := if e % 2 = 0 then (m, e) else (2 * m, e - 1)
  let k := log2 m + 100
  (isqrt (2 ^ (2 * k) / m), -(k : Int) - e / 2)

/-- A dyadic close to 1 / (1 + e^−x). -/
def sigmoidApprox (neg : Bool) (m : Nat) (e : Int) : Nat × Int :=
  let (y, f) := expApprox (!neg) m e
  let lo := min 0 f
  rcpApprox (2 ^ (-lo).toNat + y * 2 ^ (f - lo).toNat) lo

/-- |a·2^e − b·2^f| ≤ 2 units in the last place of FP32 at a·2^e. -/
def within2Ulp (a : Nat) (e : Int) (b : Nat) (f : Int) : Bool :=
  let u : Int := max ((log2 a : Nat) + e) (-126) - 23 + 1
  let lo := min (min e f) u
  let d := signedAt false a e lo - signedAt false b f lo
  decide ((d.natAbs : Int) ≤ signedAt false 1 u lo)

/-- A result within 2 units in the last place of the exact one (R75): the correctly rounded code moved by the free
error, where the moved code still meets the bound. -/
def approxF32 (key i : Nat) (neg : Bool) (a : Nat × Int) : Nat :=
  let base := layFP32.roundMag .rne a.1 a.2
  let res :=
    if base > layFP32.maxCode then layFP32.maxCode + 1
    else
      let c := base + Config.vecError key i % 5 - 2
      if c > layFP32.maxCode then base
      else match layFP32.decode c with
        | .fin _ m e => if within2Ulp a.1 a.2 m e then c else base
        | _ => base
  flush32 (layFP32.withSign neg res)

/-- An FP32 result the spec does not state; a NaN is the canonical one all the same (R82). -/
def unstatedF32 (key i : Nat) : Nat :=
  let c := flush32 (Config.unstated key i % 2 ^ 32)
  if (f32Val c).isNan then layFP32.canonNan else c

/-- EXP, RCP, RSQRT and SIGMOID of one FP32 value (R75). RCP and RSQRT of zero and RSQRT of a negative number are
values the spec does not state; at infinity the limits are taken (DEDUCED). -/
def vecUnary (op key i c : Nat) : Nat :=
  match op, f32Val c with
  | _, .nan => layFP32.canonNan
  | 0x08, .inf n => if n then 0 else layFP32.infCode false
  | 0x08, .fin n m e => approxF32 key i false (expApprox n m e)
  | 0x09, .inf n => layFP32.withSign n 0
  | 0x09, .fin n m e => if m = 0 then unstatedF32 key i else approxF32 key i n (rcpApprox m e)
  | 0x0A, .inf n => if n then unstatedF32 key i else 0
  | 0x0A, .fin n m e => if m = 0 ∨ n then unstatedF32 key i else approxF32 key i false (rsqrtApprox m e)
  | 0x0B, .inf n => if n then 0 else 0x3F800000
  | 0x0B, .fin n m e => approxF32 key i false (sigmoidApprox n m e)
  | _, _ => 0

/-- One element read by the vector unit: widened to FP32, subnormals taken as zero (R75). -/
def vecIn (f c : Nat) : Nat := toF32 (elemVal f c)

/-- An FP32 result rounded into out_fmt (R75). An INT32 result out of range, or of a NaN, is not stated. -/
def vecOut (f key i c : Nat) : Nat :=
  match elemKind f, f32Val c with
  | .float l, v => if f = 0x01 then c else l.encodeIeee v
  | .int b, .fin n m e =>
    let k := roundInt n m e
    if -(2 ^ (b - 1) : Nat) ≤ k ∧ k < (2 ^ (b - 1) : Nat) then ofSigned b k else Config.unstated key i % 2 ^ b
  | .int b, _ => Config.unstated key i % 2 ^ b
  | _, _ => 0

/-- Element-wise result of ops 0x01 to 0x05 on two FP32 codes. -/
def vecBinary (op a b : Nat) : Nat :=
  match op with
  | 0x01 => f32Add a b
  | 0x02 => f32Sub a b
  | 0x03 => f32Mul a b
  | 0x04 => f32Max a b
  | _ => f32Min a b

/-- One lane's accumulation step of the reduction tree. -/
def laneAdd (f : Nat → Nat → Nat) (a : Option Nat) (b : Nat) : Option Nat :=
  match a with
  | none => some b
  | some x => some (f x b)

/-- The 64 lane sums of the terms dealt to the lanes in turn. -/
def laneSums (f : Nat → Nat → Nat) : List Nat → Nat → List (Option Nat) → List (Option Nat)
  | [], _, acc => acc
  | x :: t, i, acc => laneSums f t ((i + 1) % 64) (setNth acc i (laneAdd f (nth none acc i) x))

/-- One level of the tree over the lanes. -/
def treeLevel (f : Nat → Nat → Nat) : List (Option Nat) → List (Option Nat)
  | some a :: some b :: t => some (f a b) :: treeLevel f t
  | some a :: none :: t => some a :: treeLevel f t
  | none :: b :: t => b :: treeLevel f t
  | l => l

/-- A reduction in the fixed tree of 64 lanes (R75), its terms dealt in a free order (R80). -/
def treeReduce (f : Nat → Nat → Nat) (key : Nat) (row : List Nat) : Nat :=
  let lanes := laneSums f (freeOrder (Config.sumOrder key) row) 0 (List.replicate 64 none)
  let l6 := treeLevel f (treeLevel f (treeLevel f (treeLevel f (treeLevel f (treeLevel f lanes)))))
  match l6 with
  | some a :: _ => a
  | _ => 0

/-- Maximum of a row (R101): order does not matter. -/
def rowMax : List Nat → Nat
  | [] => 0
  | [a] => f32Max a a
  | a :: t => f32Max a (rowMax t)

/-- Index of the first row maximum, NaN above every number (R101). -/
def rowArgmax (row : List Nat) : Nat :=
  let best := row.foldl (fun (st : Nat × Nat × Val) c =>
    let (i, b, v) := st
    let w := f32Val c
    if v.isNan then (i + 1, b, v)
    else if i = 0 ∨ w.isNan ∨ v.lt w then (i + 1, i, w) else (i + 1, b, v)) (0, 0, Val.fin false 0 0)
  best.2.1

/-- Running FP32 sums along a row. -/
def csumF32 : Option Nat → List Nat → List Nat
  | _, [] => []
  | none, a :: t => a :: csumF32 (some a) t
  | some s, a :: t => let r := f32Add s a; r :: csumF32 (some r) t

/-- Running exact integer sums along a row. -/
def csumInt : Int → List Int → List Int
  | _, [] => []
  | s, a :: t => (s + a) :: csumInt (s + a) t

/-- An exact integer sum as an INT32 element, free where it falls outside INT32. -/
def int32Or (key i : Nat) (k : Int) : Nat :=
  if -(2 ^ 31 : Nat) ≤ k ∧ k < (2 ^ 31 : Nat) then ofSigned 32 k else Config.unstated key i % 2 ^ 32

/-- Element codes of a row plane's row. -/
def rowCodes (f n : Nat) (bytes : List Nat) : List Nat := (List.range n).map (packedAt bytes (elemBits f))

/-- Result elements (out_fmt codes) of one row of an op whose result is a row plane: element-wise, scalar and CSUM.
`s2` holds the second operand's FP32 codes: a row, or the one scalar the row uses. -/
def vecRow (op inF outF key : Nat) (codes s2 : List Nat) : List Nat :=
  let a := codes.map (vecIn inF)
  let k := nth 0 s2 0
  let out (i c : Nat) := vecOut outF key i c
  if op = 0x16 ∧ inF = 0x10 then
    let sums := csumInt 0 (codes.map (toSigned 32))
    (sums.zipIdx).map (fun p => if outF = 0x10 then int32Or key p.2 p.1
      else out p.2 (toF32 (.fin (decide (p.1 < 0)) p.1.natAbs 0)))
  else
    let r : List Nat :=
      if op ≤ 0x05 then (a.zip s2).map (fun p => vecBinary op p.1 p.2)
      else match op with
        | 0x06 => a.map (fun x => f32Add x k)
        | 0x07 => a.map (fun x => f32Mul x k)
        | 0x14 => a.map (fun x => f32Sub x k)
        | 0x15 => a.map (fun x => f32Mul x k)
        | 0x16 => csumF32 none a
        | _ => (a.zipIdx).map (fun p => vecUnary op key p.2 p.1)
    (r.zipIdx).map (fun p => out p.2 p.1)

/-- The one result element of a row for RSUM, RMAX, RSUMSQ and RARGMAX. -/
def vecReduce (op inF outF key i : Nat) (codes : List Nat) : Nat :=
  let a := codes.map (vecIn inF)
  match op with
  | 0x10 => vecOut outF key i (treeReduce f32Add key a)
  | 0x11 => vecOut outF key i (rowMax a)
  | 0x12 => vecOut outF key i (treeReduce f32Add key (a.map (fun x => f32Mul x x)))
  | _ =>
    let j := rowArgmax a
    if outF = 0x10 then j else vecOut outF key i (toF32 (.fin false j 0))

/-- The mask bits of a row for MASKGE and MASKLT (R101). -/
def vecMask (op inF : Nat) (codes s2 : List Nat) : List Nat :=
  (codes.zip s2).map (fun p =>
    let a := f32Val (vecIn inF p.1)
    let b := f32Val p.2
    b2n (if op = 0x18 then a.ge b else a.lt b))

/-- What one CONVERT adds to its amax record (R99). -/
structure AmaxFold where
  amax : Val := .fin false 0 0
  nans : Nat := 0
  infs : Nat := 0
  sats : Nat := 0
  unders : Nat := 0
  elements : Nat := 0
  deriving DecidableEq, Repr

/-- A CONVERT input widened to FP32, exact but for INT32, its FP32 subnormals zero (R94). `x8` is the block scale of an
MX input (none otherwise). -/
def convIn (f c : Nat) (x8 : Option Nat) : Val :=
  match x8 with
  | some k => if k = 255 then .nan else (elemVal f c).scale ((k : Int) - 127)
  | none =>
    if f = 0x10 then f32Val (toF32 (elemVal f c))
    else if f ≤ 0x03 then flushVal (elemVal f c) else elemVal f c

/-- Outcome of converting one element: code, counted as saturated, counted as underflow. -/
structure ConvOut where
  code : Nat
  sat : Bool
  under : Bool
  deriving DecidableEq, Repr

/-- Rounding and saturating a scaled value into out_fmt (R95, R97, Table 4.8). What a zero scalar makes of a nonzero
input is zero before any rounding and does not count as underflow (log 109). -/
def convOut (f : Nat) (rnd : Rnd) (special : Bool) (x : Val) : ConvOut :=
  match elemKind f with
  | .float l =>
    let mx := isMx f
    match x with
    | .nan => ⟨l.canonNan, false, false⟩
    | .inf n =>
      if mx then ⟨l.withSign n l.maxCode, true, false⟩
      else if f ≤ 0x03 then ⟨l.infCode n, false, false⟩
      else if special then ⟨if f = 0x04 then 0x7F else l.infCode n, false, false⟩
      else ⟨l.withSign n l.maxCode, true, false⟩
    | .fin n m e =>
      let c := l.roundMag rnd m e
      if c > l.maxCode then
        if special && !mx then ⟨if f = 0x04 then 0x7F else l.infCode n, true, false⟩
        else ⟨l.withSign n l.maxCode, true, false⟩
      else ⟨l.withSign n c, false, decide (m ≠ 0 ∧ c = 0)⟩
  | .int b => convInt b x 0 rnd
  | .mxint => convInt 8 x 6 rnd
  | _ => ⟨0, false, false⟩
where
  /-- Rounding into a two's-complement code of x × 2^k. -/
  convInt (b : Nat) (x : Val) (k : Int) (rnd : Rnd) : ConvOut :=
    let big (n : Bool) : Nat := if n then 2 ^ (b - 1) else 2 ^ (b - 1) - 1
    match x with
    | .nan => ⟨0, false, false⟩
    | .inf n => ⟨big n, true, false⟩
    | .fin n m e =>
      let e := e + k
      let v := if e ≥ 0 then m * 2 ^ e.toNat else shiftRound rnd m (-e).toNat
      if v > (if n then 2 ^ (b - 1) else 2 ^ (b - 1) - 1) then ⟨big n, true, false⟩
      else ⟨ofSigned b (if n then -(v : Int) else v), false, decide (m ≠ 0 ∧ v = 0)⟩

/-- emax of R98. -/
def mxEmax (f : Nat) : Int :=
  match f with
  | 0x06 => 8
  | 0x07 => 15
  | 0x08 => 4
  | 0x09 => 2
  | 0x0A => 2
  | _ => 0

/-- The larger of two magnitudes. -/
def maxAbs (a b : Val) : Val := if a.absLt b then b else a

/-- Folding one input into an amax fold: before scaling, NaN and infinity apart (R99). -/
def foldInput (a : AmaxFold) (v : Val) : AmaxFold :=
  match v with
  | .nan => { a with nans := a.nans + 1, elements := a.elements + 1 }
  | .inf _ => { a with infs := a.infs + 1, elements := a.elements + 1 }
  | .fin _ m e => { a with amax := maxAbs a.amax (.fin false m e), elements := a.elements + 1 }

/-- Folding one output's counts. -/
def foldOutput (a : AmaxFold) (o : ConvOut) : AmaxFold :=
  { a with sats := a.sats + b2n o.sat, unders := a.unders + b2n o.under }

/-- The scale byte of a block (R98). -/
def blockScale (f : Nat) (special : Bool) (xs : List Val) : Nat :=
  if xs.any Val.isNan || (special && xs.any Val.isInf) then 255
  else
    match xs.foldl (fun a x => if x.isInf then a else maxAbs a x) (Val.fin false 0 0) with
    | .fin _ m e => if m = 0 then 127 else ((max ((log2 m : Nat) + e - mxEmax f) (-127)) + 127).toNat
    | _ => 127

/-- One block converted into an MX out_fmt: scale byte, element codes and the counts. -/
def convBlock (f : Nat) (rnds : List Rnd) (special : Bool) (xs : List Val) (a : AmaxFold) :
    Nat × List Nat × AmaxFold :=
  let k := blockScale f special xs
  let a := xs.foldl foldInput a
  if k = 255 then
    (255, xs.map (fun _ => 0), { a with sats := a.sats + (xs.filter (fun x => !x.isNan && !x.isInf)).length })
  else
    let outs := (xs.zip rnds).map (fun p => convOut f p.2 special (p.1.scale (127 - (k : Int))))
    (k, outs.map ConvOut.code, outs.foldl foldOutput a)

/-- One row converted into a plain out_fmt with a scalar (1 where none). -/
def convRow (f : Nat) (rnds : List Rnd) (special : Bool) (scalar : Val) (xs : List Val) (a : AmaxFold) :
    List Nat × AmaxFold :=
  let a := xs.foldl foldInput a
  let outs := (xs.zip rnds).map (fun p => convOut f p.2 special (p.1.mul scalar))
  (outs.map ConvOut.code, outs.foldl foldOutput a)

/-- A list cut into pieces of `n`, with fuel. -/
def chunks {α : Type} (n : Nat) : Nat → List α → List (List α)
  | 0, _ => []
  | _, [] => []
  | k + 1, x :: t => (x :: t).take n :: chunks n k ((x :: t).drop n)

/-- One row converted into an MX out_fmt: element codes, scale bytes, counts. -/
def convMxRow (f : Nat) (rnds : List Rnd) (special : Bool) (xs : List Val) (a : AmaxFold) :
    List Nat × List Nat × AmaxFold :=
  (chunks 32 xs.length (xs.zip rnds)).foldl (fun st blk =>
    let (codes, scales, a) := st
    let (k, cs, a) := convBlock f (blk.map Prod.snd) special (blk.map Prod.fst) a
    (codes ++ cs, scales ++ [k], a)) ([], [], a)

end Sys2Proof.Machine
end

