-- ==== Sys2Proof/Machine/Banks.lean ====
section
/-! DEFINITION. The bank units (chapter 7): slots, the start of a command, the micro-ops, errors, the end of a command,
GATHER and the BNK registers that start a host command. -/
namespace Sys2Proof.Machine

/-! ## Access -/

/-- One bank unit. -/
def State.unitOf (s : State) (n b : Nat) : BankUnit := mapGet bankUnit0 s.bnk.units (n * 32 + b)

/-- Changing one bank unit. -/
def setUnit (n b : Nat) (f : BankUnit → BankUnit) (s : State) : State :=
  { s with bnk := { s.bnk with units := mapMod bankUnit0 s.bnk.units (n * 32 + b) f } }

/-- A slot of a unit. -/
def BankUnit.slot (u : BankUnit) (i : Nat) : Slot := nth {} u.slots i

/-- Changing one slot. -/
def setSlot (n b i : Nat) (f : Slot → Slot) (s : State) : State :=
  setUnit n b (fun u => { u with slots := setNth u.slots i (f (u.slot i)) }) s

/-- A slot enters a state (Table 7.12 word 3). -/
def slotState (n b i st cause : Nat) (s : State) : State :=
  setSlot n b i (fun x => { x with state := st, cause := cause, changedTc := s.frm.tc }) s

/-- R153: the slot is free. -/
def Slot.free (x : Slot) : Bool := decide (x.state ≠ 1) && decide (x.state ≠ 2)

/-- Changing the running command. -/
def setRun (n b : Nat) (f : BankRun → BankRun) (s : State) : State :=
  setUnit n b (fun u => { u with run := u.run.map f }) s

/-- Micro-program word `k` of every unit: the stock program, then the image's words (R156). -/
def State.microWord (s : State) (k : Nat) : Option Nat :=
  if k < 16 then (if s.bnk.stock then stockProgram[k]? else none)
  else if s.bnk.imageWords && decide (s.bnk.firstWord ≤ k) then s.bnk.words[k - s.bnk.firstWord]? else none

/-- The unit can work: the device has memory and the bank is in service. -/
def State.bankLive (s : State) (n b : Nat) : Bool := s.powered && s.mem.ready && !s.bankFenced n b

/-! ## The end of a command (Table 7.2) -/

/-- Slot state a cause ends in. -/
def causeState (cause : Nat) : Nat :=
  match cause with
  | 0 => 3
  | 1 => 4 | 2 => 4 | 3 => 4 | 7 => 4 | 9 => 4 | 0x0A => 4
  | 6 => 6
  | _ => 5

/-- Descriptor fault of a GATHER by cause. -/
def causeFault (cause : Nat) : Nat :=
  match cause with
  | 4 => 2
  | 5 => 2
  | 0x0B => 0x0A
  | _ => 9

/-- R164, R166: the GATHER of a slot completes, or faults. -/
def tellCore (n : Nat) (x : Slot) (cause : Nat) (s : State) : State :=
  if x.uid1 = 0 || cause = 6 then s
  else match s.entryOf n (x.uid1 - 1) with
    | none => s
    | some e => if cause = 0 then doneEntry n e.uid s else faultEntry n e (causeFault cause) s

/-- Totals of Table 7.9. -/
def countEnd (st : Nat) (s : State) : State :=
  { s with bnk := { s.bnk with
      done := satAdd 32 s.bnk.done (b2n (decide (st = 3))), refused := satAdd 16 s.bnk.refused (b2n (decide (st = 4)))
      faulted := satAdd 16 s.bnk.faulted (b2n (decide (st = 5))) } }

/-- The command of slot `i` ends with a cause (0: DONE). -/
def endSlot (n b i cause : Nat) (s : State) : State :=
  let x := (s.unitOf n b).slot i
  let st := causeState cause
  let s := countEnd st (slotState n b i st cause s)
  let s := setUnit n b (fun u =>
    { u with
      order := u.order.filter (fun k => decide (k ≠ i)), yielded := u.yielded.filter (fun r => decide (r.slot ≠ i))
      run := match u.run with | some r => if r.slot = i then none else some r | none => none }) s
  tellCore n x cause (setSlot n b i (fun x => { x with uid1 := 0 }) s)

/-- The running command ends. -/
def endRun (n b cause : Nat) (s : State) : State :=
  match (s.unitOf n b).run with
  | none => s
  | some r => endSlot n b r.slot cause s

/-- Ending the commands of a list of slots. -/
def endSlots (n b cause : Nat) : List Nat → State → State
  | [], s => s
  | i :: t, s => endSlots n b cause t (endSlot n b i cause s)

/-- Slots whose command is queued or running, of those a test picks. -/
def BankUnit.busySlots (u : BankUnit) (p : Nat → Slot → Bool) : List Nat :=
  (List.range 8).filter (fun i => !(u.slot i).free && p i (u.slot i))

/-- R168: a bank is fenced: every queued and running command ends in FAULT with cause 0x0B. -/
def failBank (n b : Nat) (s : State) : State := endSlots n b 0x0B ((s.unitOf n b).busySlots (fun _ _ => true)) s

/-- A bank is fenced and its commands end. -/
def fenceBank (n b cause : Nat) (s : State) : State := failBank n b (fenceUnits cause [{ kind := 4, unit := n, sub := b }] s)

/-- R165: the core commands of a tile's banks that a test picks are cut. -/
def cutBanks (n : Nat) (p : Slot → Bool) (s : State) : State :=
  (List.range bankCount).foldl (fun s b =>
    endSlots n b 6 ((s.unitOf n b).busySlots (fun i x => decide (i < 6) && p x)) s) s

/-! ## Commands reach their slots (R153, R164, R169) -/

/-- A slot's command is queued. -/
def queueSlot (n b i : Nat) (s : State) : State :=
  setUnit n b (fun u => { u with order := u.order ++ [i] }) (slotState n b i 1 0 s)

/-- Fields of a GATHER (Table 3.8) put into its slot; the result region is the image's. -/
def gatherSlot (w0 w1 uid k : Nat) (x : Slot) : Slot :=
  { x with
    entry := field w0 16 8, countM1 := field w0 0 16, listOff := field w1 48 16, tableOff := field w1 32 16
    rowLen := field w1 24 8, op := field w1 20 4, accFmt := field w1 18 2, entriesDone := 0, resultUsed := 0
    nan := false, sat := false, uid1 := uid + 1, ctxSlot := k }

/-- R164: GATHER. It waits at the head of its queue while its slot is not free; a fenced bank is fault 0x03. -/
def doGather (n : Nat) (s : State) : State :=
  runUnit n .bank (fun e => decide (kindOf e.w0 = 8) && ((s.unitOf n (field e.w0 27 5)).slot (field e.w0 24 3)).free) false
    (fun e s =>
      let b := field e.w0 27 5
      let i := field e.w0 24 3
      if s.bankFenced n b then faultEntry n e 3 s
      else queueSlot n b i (setSlot n b i (gatherSlot e.w0 e.w1 e.uid e.slot) s)) s

/-- R164. -/
def execGather (n : Nat) (s : State) : Host.Outcome State Fault Refusal := onUnit (n < coreCount) (doGather n s)

/-- R169: `BNK.SEL`. -/
def writeBnkSel (v : Nat) (s : State) : State :=
  regWrite 0xD00008 v 0x7FFFF 0 (inState 0xD00008 v [.ready, .running, .suspended] (fun s =>
    if coreCount ≤ field v 5 14 || bankCount ≤ field v 0 5 then refuse 0xD00008 v 0x0333 s
    else { s with bnk := { s.bnk with selTile := field v 5 14, selBank := field v 0 5 } })) s

/-- R169. The operand is the value written. -/
def execBnkSelWrite (v : Nat) (s : State) : Host.Outcome State Fault Refusal := .next (writeBnkSel (v % 2 ^ 64) s)

/-- Word 0 of a slot as read (Table 7.10). -/
def slotWord0 (x : Slot) : Nat :=
  x.state * 2 ^ 61 + x.cause * 2 ^ 56 + x.entry * 2 ^ 40 + x.op * 2 ^ 36 + x.accFmt * 2 ^ 34 + x.rowLen * 2 ^ 24 + x.countM1

/-- R169: `BNK.HCMD` word 0: fields of slot 6 of the selected bank, and go. -/
def writeHcmd0 (v : Nat) (s : State) : State :=
  let n := s.bnk.selTile
  let b := s.bnk.selBank
  let x := (s.unitOf n b).slot 6
  regWrite 0xD00200 v 0x1FFFCFF00FFFF (slotWord0 x) (fun s =>
    if !s.inStates [.ready, .running, .suspended] then refuse 0xD00200 v (if bit v 48 then 0x0331 else 0x0120) s
    else if !x.free then refuse 0xD00200 v 0x0330 s
    else if bit v 48 && s.bankFenced n b then refuse 0xD00200 v 0x0332 s
    else
      let s := setSlot n b 6 (fun x =>
        { x with entry := field v 40 8, op := field v 36 4, accFmt := field v 34 2, rowLen := field v 24 8, countM1 := field v 0 16 }) s
      if bit v 48 then
        queueSlot n b 6 (setSlot n b 6 (fun x => { x with entriesDone := 0, resultUsed := 0, nan := false, sat := false }) s)
      else s) s

/-- R169: `BNK.HCMD` word 1. -/
def writeHcmd1 (v : Nat) (s : State) : State :=
  let n := s.bnk.selTile
  let b := s.bnk.selBank
  if !s.hostUp then s
  else if !s.inStates [.ready, .running, .suspended] then refuse 0xD00208 v 0x0120 s
  else if !((s.unitOf n b).slot 6).free then refuse 0xD00208 v 0x0330 s
  else setSlot n b 6 (fun x =>
    { x with listOff := field v 48 16, tableOff := field v 32 16, resultOff := field v 16 16, resultLen := field v 0 16 }) s

/-- R169: a write of go; the operand is the value of word 0 without its go bit. -/
def doBnkHcmdGo (v : Nat) (s : State) : State := writeHcmd0 (if bit v 48 then v else v + 2 ^ 48) s

/-- R169. -/
def execBnkHcmdGo (v : Nat) (s : State) : Host.Outcome State Fault Refusal := .next (doBnkHcmdGo (v % 2 ^ 64) s)

/-! ## The start of a command (R152, R442) -/

/-- The word of a command's entry is loaded. -/
def State.entryLoaded (s : State) (k : Nat) : Bool := (s.microWord k).isSome

/-- R442: the first cause that refuses a command's fields, 0 where none does. -/
def State.slotCause (s : State) (x : Slot) : Nat :=
  if x.rowLen = 0 || 4 < x.op || x.accFmt = 3 || (x.op = 4 && x.accFmt = 2) then 0x0A
  else if 65536 < x.listOff + (x.countM1 + 4) / 4 || 65536 < x.resultOff + x.resultLen || x.resultLen = 0 then 9
  else if !s.entryLoaded x.entry then 7
  else 0

/-- A core command is queued. -/
def BankUnit.coreWaits (u : BankUnit) : Bool := u.order.any (fun i => decide (i < 6))

/-- R152: a host or keeper command yields to a waiting core command. -/
def yieldRun (n b : Nat) (s : State) : State :=
  setUnit n b (fun u =>
    match u.run with
    | some r =>
      if 6 ≤ r.slot && u.coreWaits then
        { u with run := none, yielded := u.yielded ++ [{ r with ranTc := r.ranTc + (s.frm.tc - r.sinceTc) }] }
      else u
    | none => u) s

/-- R166: a buffer that failed parity while no command ran has been cleared. -/
def BankRun.cleared (r : BankRun) (l : List Nat) : BankRun :=
  { r with
    row := if l.contains 0 then List.replicate 512 0 else r.row
    acc := if l.contains 2 then List.replicate 4096 0 else r.acc }

/-- A queued command starts, or is refused. -/
def startSlot (n b i : Nat) (s : State) : State :=
  let x := (s.unitOf n b).slot i
  let s := setUnit n b (fun u => { u with order := u.order.filter (fun k => decide (k ≠ i)) }) s
  let c := s.slotCause x
  if c ≠ 0 then endSlot n b i c s
  else
    let r : BankRun := {
      slot := i, pc := x.entry, remaining := x.countM1 + 1, cursor := x.resultOff, sinceTc := s.frm.tc, key := s.fresh }
    slotState n b i 2 0 (setUnit n b (fun u => { u with run := some (r.cleared u.unclean), unclean := [] })
      { s with fresh := s.fresh + 2 })

/-- R166: a parity error in a unit's buffers is noted for the fence. -/
def noteParity (n b : Nat) (s : State) : State :=
  setUnit n b (fun u =>
    let l := noteTime s.frm.tc u.parityTimes
    { u with parityTimes := l, parityDue := u.parityDue || fourWithin tcSec l }) s

/-- R166: parity errors found in buffers while no command runs; one found while a command runs is that command's. -/
def idleParity (n b : Nat) (buffers : List Nat) (s : State) : State :=
  if (s.unitOf n b).run.isSome then s
  else setUnit n b (fun u => { u with unclean := u.unclean ++ buffers }) (buffers.foldl (fun s _ => noteParity n b s) s)

/-- R152, R442: the unit takes the next command: core commands before others, then a yielded command, then the one
queued first. `idle` are the buffers in which parity errors were found while no command ran (R166): 0 row, 1 list, 2
accumulator. -/
def doBankCommandStart (n b : Nat) (idle : List Nat) (s : State) : State :=
  if !s.bankLive n b then s
  else
    let s := yieldRun n b (idleParity n b idle s)
    let u := s.unitOf n b
    if u.run.isSome then s
    else match u.order.find? (fun i => decide (i < 6)), u.yielded, u.order with
      | some i, _, _ => startSlot n b i s
      | none, r :: t, _ => setUnit n b (fun u => { u with run := some { r with sinceTc := s.frm.tc }, yielded := t }) s
      | none, [], i :: _ => startSlot n b i s
      | none, [], [] => s

/-- R442. -/
def execBankCommandStart (n b : Nat) (idle : List Nat) (s : State) : Host.Outcome State Fault Refusal :=
  onUnit (n < coreCount ∧ b < bankCount) (doBankCommandStart n b idle s)

/-! ## Micro-ops (R155, R156) -/

/-- First address of a bank. -/
def bankBase (n b : Nat) : Nat := n * slotSize + b * bankData

/-- What a micro-op knows: its slot's fields, the run, its target word. -/
structure Micro where
  x : Slot
  r : BankRun
  target : Nat
  deriving DecidableEq, Repr

/-- R158: a sash access to the bank waits, so that it goes before the unit's next micro-op. -/
def State.sashWaits (s : State) (n b : Nat) : Bool :=
  !(s.tileRec n).retraining &&
    ((s.tileRec n).queue.any (fun q => decide (bankOf (q.addr + q.done) = b))
      || s.net.packets.any (fun p => decide (p.dst = n) && decide (p.arrived ≠ 0) && decide (bankOf (p.addr + p.done) = b)))

/-- The running command, which may start its next micro-op: no core command waits for it to yield (R152) and no sash
access to the bank goes first (R158). -/
def State.microRun (s : State) (n b : Nat) : Option BankRun :=
  if !s.bankLive n b || s.sashWaits n b then none
  else (s.unitOf n b).run.filter (fun r => !(decide (6 ≤ r.slot) && (s.unitOf n b).coreWaits))

/-- The running command stands at a micro-op of the code asked for. -/
def State.microAt (s : State) (n b code : Nat) : Option Micro :=
  match s.microRun n b with
  | none => none
  | some r => match s.microWord r.pc with
    | none => none
    | some w => if field w 27 5 = code then some { x := (s.unitOf n b).slot r.slot, r := r, target := field w 0 8 } else none

/-- Running a micro-op where the command stands at one of its code. -/
def micro (code n b : Nat) (body : Micro → State → State) (s : State) : State :=
  match s.microAt n b code with
  | none => s
  | some m => body m s

/-- The command goes to another word. -/
def goWord (n b k : Nat) (s : State) : State := setRun n b (fun r => { r with pc := k }) s

/-- The command goes on with the next word. -/
def nextWord (n b : Nat) (m : Micro) (s : State) : State := goWord n b (m.r.pc + 1) s

/-- R166: a parity error in a unit buffer: noted for the fence, and the command ends with cause 0x05. -/
def bufferParity (n b : Nat) (s : State) : State :=
  endRun n b 5 (noteParity n b s)

/-- R166: a bank unit's read answers with its bytes, or ends the command: cause 0x04 on an uncorrectable word,
0x0B on a fence. -/
def bankTake (n b : Nat) (k : List Nat → State → State) (r : MemAns × State) : State :=
  match r.1 with
  | .data d => k d r.2
  | .error c => endRun n b (if c = 1 || c = 2 then 4 else 0x0B) r.2

/-- R166: reading units of the bank. -/
def bankRead (n b unit len : Nat) (flips : List (Nat × Nat)) (k : List Nat → State → State) (s : State) : State :=
  let a := bankBase n b + 32 * unit
  bankTake n b k (readBytes { code := 6, source := b } false a (32 * len) (flipSymbols a flips s))

/-- Units of the present piece. -/
def Micro.n (m : Micro) : Nat := min 16 (m.x.rowLen - m.r.piece)

/-- Bits of a table element: BF16, or FP32 and INT32; 32 under copy, which ignores acc_fmt. -/
def Micro.bits (m : Micro) : Nat := if m.x.accFmt = 1 && decide (m.x.op ≠ 0) then 16 else 32

/-- Elements of a run of units. -/
def Micro.elems (m : Micro) (units : Nat) : Nat := units * 256 / m.bits

/-- A row element in the accumulator's type: FP32 widened from BF16 exactly, or the 32-bit code. -/
def Micro.widen (m : Micro) (c : Nat) : Nat := if m.bits = 16 then c * 65536 else c

/-- Identity of CLEAR. -/
def Micro.identity (m : Micro) : Nat :=
  if m.x.op = 3 then (if m.x.accFmt = 2 then 2 ^ 31 else layFP32.infCode true) else 0

/-- One element combined: the new accumulator code and whether it saturated. -/
def Micro.combine (m : Micro) (acc c : Nat) : Nat × Bool :=
  if m.x.accFmt = 2 then
    let a := toSigned 32 acc
    let v := toSigned 32 c
    if m.x.op = 3 then (ofSigned 32 (max a v), false)
    else
      let t := a + v
      if t < -(2 ^ 31 : Nat) then (2 ^ 31, true)
      else if (2 ^ 31 : Nat) ≤ t then (2 ^ 31 - 1, true) else (ofSigned 32 t, false)
  else if m.x.op = 3 then (layFP32.encodeIeee ((f32Val acc).max (f32Val c)), false)
  else
    let v := flush32 c
    (f32Add (flush32 acc) (if m.x.op = 4 then f32Mul v (flush32 m.r.weight) else v), false)

/-- Accumulator element `i`; free before it is first written. -/
def BankRun.accAt (r : BankRun) (i : Nat) : Nat := (r.acc[i]?).getD (Config.unstated r.key i % 2 ^ 32)

/-- Accumulator elements from `first` on combined with a piece. -/
def Micro.combineAll (m : Micro) (first : Nat) (codes : List Nat) : List (Nat × Bool) :=
  (codes.zipIdx).map (fun p => m.combine (m.r.accAt (first + p.2)) (m.widen p.1))

/-- The accumulator with the elements from `i` on replaced; elements before them that nothing has written stay free. -/
def BankRun.putAcc (r : BankRun) (i : Nat) (new : List Nat) : List Nat :=
  (List.range i).map r.accAt ++ new ++ r.acc.drop (i + new.length)

/-- R157: while a piece of the row at `unit` transfers, the rows of the entries that follow in the list buffer are opened,
one in a sub-array, up to the first whose sub-array is in use or that leaves the bank. -/
def openAhead (n b : Nat) (m : Micro) : Nat → List Nat → List Nat → State → State
  | 0, _, _, s => s
  | fuel + 1, buf, used, s =>
    let unit := m.x.tableOff + field (leAt buf 0 8) 0 16 * m.x.rowLen
    let a := bankBase n b + 32 * unit
    if buf.length < 8 || decide (65536 < unit + m.x.rowLen) || used.contains (rowOf a % 4) then s
    else openAhead n b m fuel (buf.drop 8) ((rowOf a % 4) :: used) (openRow a s)

/-- R156, R154: FETCH reads piece P of the row; FETCHC also combines it. -/
def fetchPiece (n b : Nat) (combine parity : Bool) (flips : List (Nat × Nat)) (m : Micro) (s : State) : State :=
  let row := m.x.tableOff + m.r.index * m.x.rowLen
  if 65536 < row + m.x.rowLen then endRun n b 1 s
  else if parity then bufferParity n b s
  else bankRead n b (row + m.r.piece) m.n flips (fun d s =>
    let at_ (u : Nat) : Nat := rowOf (bankBase n b + 32 * u) % 4
    let s := openAhead n b m 4 m.r.buf [at_ (row + m.r.piece), at_ (row + m.r.piece + m.n - 1)] s
    let s := setRun n b (fun r => { r with row := d }) s
    let s := if combine && decide (m.x.op ≠ 0) then
        let first := m.elems m.r.piece
        let codes := (List.range (m.elems m.n)).map (packedAt d m.bits)
        let res := m.combineAll first codes
        let s := setRun n b (fun r => { r with acc := r.putAcc first (res.map Prod.fst) }) s
        if res.any Prod.snd then setSlot n b m.r.slot (fun x => { x with sat := true }) s else s
      else s
    nextWord n b m s) s

/-- The first `k` words of a piece are written at the result cursor. -/
def writeUnits (n b k : Nat) (bytes : List Nat) (m : Micro) (s : State) : Option Nat × State :=
  match writeBytes { code := 6, source := b } false (bankBase n b + 32 * m.r.cursor) (slice bytes 0 (32 * k)) s with
  | (some c, s) => (some c, s)
  | (none, s) =>
    (none, setSlot n b m.r.slot (fun x => { x with resultUsed := x.resultUsed + k })
      (setRun n b (fun r => { r with cursor := r.cursor + k }) s))

/-- R151, R162, R166: writing a piece at the result cursor. `parity` is the first word of it whose buffer fails parity:
that word is not written, those before it are. -/
def writePiece (n b : Nat) (parity : Option Nat) (bytes : List Nat) (m : Micro) (s : State) : State :=
  let a := bankBase n b + 32 * m.r.cursor
  let hostOwned := (List.range m.n).any (fun i =>
    match s.windowOf (a + 32 * i) with
    | some w => !w.workOwned
    | none => false)
  if m.x.resultOff + m.x.resultLen < m.r.cursor + m.n then endRun n b 2 s
  else if hostOwned then endRun n b 3 s
  else match parity.filter (fun i => decide (i < m.n)) with
    | some i => bufferParity n b (writeUnits n b i bytes m s).2
    | none => match writeUnits n b m.n bytes m s with
      | (some _, s) => endRun n b 0x0B s
      | (none, s) => nextWord n b m s

/-- An FP32 value divided by a count, rounded to nearest even (R155). -/
def divCount (c k : Nat) : Nat :=
  match f32Val c with
  | .nan => layFP32.canonNan
  | .inf n => layFP32.infCode n
  | .fin n m e =>
    let q := m * 2 ^ 100 / k
    toF32 (.fin n (2 * q + b2n (decide (m * 2 ^ 100 % k ≠ 0))) (e - 101))

/-- R155: a finished accumulator element in the result's format. -/
def Micro.finish (m : Micro) (acc : Nat) : Nat :=
  if m.x.op = 0 then acc
  else if m.x.accFmt = 2 then
    if m.x.op = 2 then (if m.r.segCount = 0 then 0 else ofSigned 32 (Int.tdiv (toSigned 32 acc) m.r.segCount)) else acc
  else
    let c := if m.x.op = 2 then (if m.r.segCount = 0 then layFP32.canonNan else divCount acc m.r.segCount) else acc
    if m.bits = 16 then layBF16.encodeIeee (f32Val c) else c

/-- The result element is NaN. -/
def Micro.isNan (m : Micro) (c : Nat) : Bool :=
  decide (m.x.accFmt ≠ 2) && decide (m.x.op ≠ 0)
    && (if m.bits = 16 then layBF16.decode c else f32Val c).isNan

/-- List words left from the entry after those taken. -/
def Micro.listLeft (m : Micro) : Nat := (m.r.remaining + 3) / 4

/-- R154: the next list entry is taken. -/
def takeEntry (n b : Nat) (m : Micro) (buf : List Nat) (s : State) : State :=
  let e := leAt buf 0 8
  let s := setRun n b (fun r =>
    { r with
      index := field e 0 16, weight := field e 32 32, segEnd := bit e 31, remaining := r.remaining - 1, taken := r.taken + 1
      segCount := r.segCount + 1, buf := buf.drop 8 }) s
  nextWord n b m (setSlot n b m.r.slot (fun x => { x with entriesDone := x.entriesDone + 1 }) s)

/-- NEXT: the list buffer is refilled with up to 32 list words when it is empty. -/
def microNext (n b : Nat) (parity : Bool) (flips : List (Nat × Nat)) (m : Micro) (s : State) : State :=
  if m.r.remaining = 0 then goWord n b m.target s
  else if parity then bufferParity n b s
  else if m.r.buf = [] then
    bankRead n b (m.x.listOff + m.r.taken / 4) (min 32 m.listLeft) flips (fun d s => takeEntry n b m d s) s
  else takeEntry n b m m.r.buf s

/-- The accumulator piece P finished, as bytes. -/
def Micro.outBytes (m : Micro) : List Nat × Bool :=
  let first := m.elems m.r.piece
  let codes := (List.range (m.elems m.n)).map (fun i => m.finish (m.r.accAt (first + i)))
  (packRow m.bits codes, codes.any m.isNan)

/-- OUT. -/
def microOut (n b : Nat) (parity : Option Nat) (m : Micro) (s : State) : State :=
  let (bytes, nan) := m.outBytes
  let s' := writePiece n b parity bytes m s
  if nan && decide (((s'.unitOf n b).run.map (fun r => r.cursor)) ≠ some m.r.cursor) && (s'.unitOf n b).run.isSome then
    setSlot n b m.r.slot (fun x => { x with nan := true }) s'
  else s'

/-- The row buffer's bytes; free before it is first written. -/
def BankRun.rowBytes (r : BankRun) (n : Nat) : List Nat :=
  (List.range n).map (fun i => (r.row[i]?).getD (Config.unstated (r.key + 1) i % 256))

/-- NEXT. `parity` is a parity error in a unit buffer, `flips` the errors in the words read. -/
def doMicroNext (n b : Nat) (parity : Bool) (flips : List (Nat × Nat)) (s : State) : State :=
  micro 1 n b (microNext n b parity flips) s

/-- R156. -/
def execMicroNext (n b : Nat) (parity : Bool) (flips : List (Nat × Nat)) (s : State) : Host.Outcome State Fault Refusal :=
  onUnit (n < coreCount ∧ b < bankCount) (doMicroNext n b parity flips s)

/-- FETCH. Operands as for NEXT. -/
def doMicroFetch (n b : Nat) (parity : Bool) (flips : List (Nat × Nat)) (s : State) : State :=
  micro 2 n b (fetchPiece n b false parity flips) s

/-- R156. -/
def execMicroFetch (n b : Nat) (parity : Bool) (flips : List (Nat × Nat)) (s : State) : Host.Outcome State Fault Refusal :=
  onUnit (n < coreCount ∧ b < bankCount) (doMicroFetch n b parity flips s)

/-- FETCHC. Operands as for NEXT. -/
def doMicroFetchc (n b : Nat) (parity : Bool) (flips : List (Nat × Nat)) (s : State) : State :=
  micro 3 n b (fetchPiece n b true parity flips) s

/-- R155. -/
def execMicroFetchc (n b : Nat) (parity : Bool) (flips : List (Nat × Nat)) (s : State) : Host.Outcome State Fault Refusal :=
  onUnit (n < coreCount ∧ b < bankCount) (doMicroFetchc n b parity flips s)

/-- COPYOUT. `parity` is the first word whose row buffer fails parity. -/
def doMicroCopyout (n b : Nat) (parity : Option Nat) (s : State) : State :=
  micro 4 n b (fun m s => writePiece n b parity (m.r.rowBytes (32 * m.n)) m s) s

/-- R162. -/
def execMicroCopyout (n b : Nat) (parity : Option Nat) (s : State) : Host.Outcome State Fault Refusal :=
  onUnit (n < coreCount ∧ b < bankCount) (doMicroCopyout n b parity s)

/-- PIECE. -/
def doMicroPiece (n b : Nat) (s : State) : State :=
  micro 5 n b (fun m s =>
    if m.r.piece + 16 < m.x.rowLen then goWord n b m.target (setRun n b (fun r => { r with piece := r.piece + 16 }) s)
    else nextWord n b m (setRun n b (fun r => { r with piece := 0 }) s)) s

/-- R156. -/
def execMicroPiece (n b : Nat) (s : State) : Host.Outcome State Fault Refusal :=
  onUnit (n < coreCount ∧ b < bankCount) (doMicroPiece n b s)

/-- SEGB. -/
def doMicroSegb (n b : Nat) (s : State) : State :=
  micro 6 n b (fun m s => if !m.r.segEnd && decide (m.r.remaining ≠ 0) then goWord n b m.target s else nextWord n b m s) s

/-- R156. -/
def execMicroSegb (n b : Nat) (s : State) : Host.Outcome State Fault Refusal :=
  onUnit (n < coreCount ∧ b < bankCount) (doMicroSegb n b s)

/-- OUT. `parity` is the first word whose accumulator elements fail parity. -/
def doMicroOut (n b : Nat) (parity : Option Nat) (s : State) : State :=
  micro 7 n b (microOut n b parity) s

/-- R155. -/
def execMicroOut (n b : Nat) (parity : Option Nat) (s : State) : Host.Outcome State Fault Refusal :=
  onUnit (n < coreCount ∧ b < bankCount) (doMicroOut n b parity s)

/-- CLEAR. -/
def doMicroClear (n b : Nat) (s : State) : State :=
  micro 8 n b (fun m s =>
    nextWord n b m (setRun n b (fun r => { r with acc := List.replicate (m.elems m.x.rowLen) m.identity, segCount := 0 }) s)) s

/-- R156. -/
def execMicroClear (n b : Nat) (s : State) : Host.Outcome State Fault Refusal :=
  onUnit (n < coreCount ∧ b < bankCount) (doMicroClear n b s)

/-- JUMP. -/
def doMicroJump (n b : Nat) (s : State) : State :=
  micro 9 n b (fun m s => goWord n b m.target s) s

/-- R156. -/
def execMicroJump (n b : Nat) (s : State) : Host.Outcome State Fault Refusal :=
  onUnit (n < coreCount ∧ b < bankCount) (doMicroJump n b s)

/-- DONE. -/
def doMicroDone (n b : Nat) (s : State) : State :=
  micro 10 n b (fun _ s => endRun n b 0 s) s

/-- R164. -/
def execMicroDone (n b : Nat) (s : State) : Host.Outcome State Fault Refusal :=
  onUnit (n < coreCount ∧ b < bankCount) (doMicroDone n b s)

/-- SELOP. -/
def doMicroSelop (n b : Nat) (s : State) : State :=
  micro 11 n b (fun m s => if m.x.op = 0 then goWord n b m.target s else nextWord n b m s) s

/-- R156. -/
def execMicroSelop (n b : Nat) (s : State) : Host.Outcome State Fault Refusal :=
  onUnit (n < coreCount ∧ b < bankCount) (doMicroSelop n b s)

/-- R156: the command stands at a reserved micro-op or at a word that is not loaded: it stops with cause 0x07. -/
def doReservedMicroOp (n b : Nat) (s : State) : State :=
  match s.microRun n b with
  | none => s
  | some r => match s.microWord r.pc with
    | none => endRun n b 7 s
    | some w => if field w 27 5 = 0 || 0x0B < field w 27 5 then endRun n b 7 s else s

/-- R156. -/
def execReservedMicroOp (n b : Nat) (s : State) : Host.Outcome State Fault Refusal :=
  onUnit (n < coreCount ∧ b < bankCount) (doReservedMicroOp n b s)

/-! ## Limits (R166) -/

/-- R166: a micro-op does not end within 2 µs: the unit and its bank are fenced with cause 0x4. -/
def doMicroOpTimeout (n b : Nat) (s : State) : State :=
  if s.bankLive n b && (s.unitOf n b).run.isSome then fenceBank n b 4 s else s

/-- R166. -/
def execMicroOpTimeout (n b : Nat) (s : State) : Host.Outcome State Fault Refusal :=
  onUnit (n < coreCount ∧ b < bankCount) (doMicroOpTimeout n b s)

/-- R166: a host or keeper command has run 100 ms, time yielded left out. -/
def doHostCommandTimeout (n b : Nat) (s : State) : State :=
  match (s.unitOf n b).run with
  | none => s
  | some r =>
    if s.bankLive n b && decide (6 ≤ r.slot) && decide (100 * tcMs ≤ r.ranTc + (s.frm.tc - r.sinceTc)) then endRun n b 8 s else s

/-- R166. -/
def execHostCommandTimeout (n b : Nat) (s : State) : Host.Outcome State Fault Refusal :=
  onUnit (n < coreCount ∧ b < bankCount) (doHostCommandTimeout n b s)

/-- R166: 4 buffer parity errors within 1 s fence the bank with cause 0x3. -/
def doBankUnitParityFence (n b : Nat) (s : State) : State :=
  if s.bankLive n b && (s.unitOf n b).parityDue then fenceBank n b 3 s else s

/-- R166. -/
def execBankUnitParityFence (n b : Nat) (s : State) : Host.Outcome State Fault Refusal :=
  onUnit (n < coreCount ∧ b < bankCount) (doBankUnitParityFence n b s)

/-! ## Unit watchdog (R77) -/

/-- The bank of a GATHER. -/
def gatherBank (e : QEntry) : Nat := field e.w0 27 5

/-- R77, R125: a unit has made no completion within 1 ms of a descriptor's start, a pane no A step or drain word: fault
0x0B, and the unit is fenced with cause 0x4: its pane, the bank of its GATHER, or the core for units that are not fenced
alone. A RECV that has posted its buffer keeps no unit busy (log 24). -/
def doUnitWatchdogExpiry (n qi : Nat) (s : State) : State :=
  match (s.coreRec n).queue.find? (fun e =>
    decide (e.q = queueAt qi) && e.started && !e.done && decide (kindOf e.w0 ≠ 4)) with
  | none => s
  | some e =>
    if !s.coreRuns n || decide (s.frm.tc < e.since + tcMs) then s
    else
      let s := faultEntry n e 0x0B s
      match queueAt qi with
      | .pane p => failPane n p (fenceUnits 4 [{ kind := 1, unit := n, sub := p }] s)
      | .bank => fenceBank n (gatherBank e) 4 s
      | _ => fenceUnits 4 [{ kind := 2, unit := n }] s

/-- R77. -/
def execUnitWatchdogExpiry (n qi : Nat) (s : State) : Host.Outcome State Fault Refusal :=
  onUnit (n < coreCount ∧ qi < 6) (doUnitWatchdogExpiry n qi s)

end Sys2Proof.Machine
end

