-- ==== Sys2Proof/Machine/Network.lean ====
section
/-! DEFINITION. The on-device network (chapter 8): flits, credits, routes, the packets in flight, replays. -/
namespace Sys2Proof.Machine

/-- A packet discarded under R179, counted in a region. -/
def suppress (r : Nat) (s : State) : State := setNet r (fun x => { x with suppressed := satAdd 32 x.suppressed 1 }) s

/-! ## Packets and credits (R172, R173, R184) -/

/-- A response packet. -/
def PktKind.response : PktKind → Bool
  | .readData => true
  | .ack => true
  | .error => true
  | _ => false

/-- Flits of a packet: a header, and 64 bytes each of data. -/
def Packet.flits (p : Packet) : Nat :=
  match p.kind with
  | .write => 1 + (p.len + 63) / 64
  | .send => 1 + (p.len + 63) / 64
  | .readData => 1 + (p.len + 63) / 64
  | _ => 1

/-- Buffers of a virtual channel, in flits (R181; the depth of other buffers than hinge FIFOs is not stated, log 22). -/
def vcDepth : Nat := 16

/-- R173: a packet's links as buffers, 4 × link + virtual channel: class, and 2 in the inbound phase. -/
def State.hopsOf (s : State) (p : Packet) : List (Nat × Nat) :=
  (s.routeOf p.src p.dst).map (fun l => (4 * l.1 + b2n p.kind.response + 2 * b2n l.2, 0))

/-- Flits of a packet in a buffer. -/
def Packet.inBuffer (p : Packet) (key : Nat) : Nat := ((p.hops.filter (fun h => decide (h.1 = key))).map Prod.snd).sum

/-- R184: credits that other packets leave for packet `id` at a buffer. -/
def State.freeFor (s : State) (id key : Nat) : Nat :=
  vcDepth - ((s.net.packets.filter (fun q => decide (q.id ≠ id))).map (fun q => q.inBuffer key)).sum

/-- R317: a link into or out of a region whose network clock is held. -/
def State.linkHeld (s : State) (l : Nat) : Bool :=
  if l < 0xC000 then s.clocksHeld (regionOf (l / 4)) || s.clocksHeld (regionOf (linkFrom l))
  else if l < 0xC200 then s.clocksHeld (l - 0xC000)
  else if l < 0xC400 then s.clocksHeld (l - 0xC200)
  else false

/-- A packet issued before `id` has flits in a buffer: those leave it first. -/
def State.behind (s : State) (id key : Nat) : Bool :=
  s.net.packets.any (fun q => decide (q.id < id) && decide (q.inBuffer key ≠ 0))

/-- Flits moving on along the hops of packet `id` as far as credits and the packets before it allow; `supply` come from
before the first of them. The new contents and what found no room. -/
def flowHops (s : State) (id : Nat) : List (Nat × Nat) → Nat → List (Nat × Nat) × Nat
  | [], supply => ([], supply)
  | (key, at_) :: t, supply =>
    let room := if s.linkHeld (key / 4) then at_ else s.freeFor id key
    if s.behind id key then
      let k := min (at_ + supply) room
      ((key, k) :: (flowHops s id t 0).1, at_ + supply - k)
    else
      let r := flowHops s id t (at_ + supply)
      let k := min r.2 room
      ((key, k) :: r.1, r.2 - k)

/-- Flits of a list of hops. -/
def hopFlits (l : List (Nat × Nat)) : Nat := (l.map Prod.snd).sum

/-- The flits that have come onto each link are counted (R187). -/
def countHops : List (Nat × Nat) → List (Nat × Nat) → State → State
  | h :: t, g :: u, s => countHops t u (countFlits (g.1 / 4) (hopFlits (g :: u) - hopFlits (h :: t)) s)
  | _, _, s => s

/-- One packet moves on. -/
def flowPacket (id : Nat) (s : State) : State :=
  match s.net.packets.find? (fun p => decide (p.id = id)) with
  | none => s
  | some p =>
    let r := flowHops s id p.hops p.unsent
    countHops p.hops r.1 { s with net := { s.net with
      packets := s.net.packets.map (fun q => if q.id = id then { q with hops := r.1, unsent := r.2 } else q) } }

/-- Every packet moves on, in the order of issue, as often as there are packets. -/
def flowAll (s : State) : State :=
  let ids := s.net.packets.map (fun p => p.id)
  ids.foldl (fun s _ => ids.foldl (fun s id => flowPacket id s) s) s

/-- R184: a packet is put into the network; flits without a credit wait at the source. -/
def inject (p : Packet) (s : State) : State :=
  let hops := s.hopsOf p
  let p := { p with id := s.net.nextId, unsent := if hops.isEmpty then 0 else p.flits, hops := hops, arrived := 0, done := 0 }
  flowPacket p.id { s with net := { s.net with packets := s.net.packets ++ [p], nextId := s.net.nextId + 1 } }

/-- The buffer in which a packet waits for its destination. -/
def Packet.lastHop (p : Packet) : Option Nat := p.hops.getLast?.map Prod.fst

/-- R130, R177, R180, R184: packet `id` of a kind can arrive now: all its flits stand before its destination, and no
packet stands before it in the buffer there or comes before it in its class from the same source. -/
def State.arrivable (s : State) (id : Nat) (k : PktKind) : Option Packet :=
  match s.net.packets.find? (fun p => decide (p.id = id) && decide (p.kind = k)) with
  | none => none
  | some p =>
    let before := s.net.packets.any (fun q => decide (q.id < p.id) && decide (q.src = p.src) && decide (q.dst = p.dst)
      && q.kind.response == p.kind.response)
    let waits := decide (p.unsent ≠ 0) || p.hops.dropLast.any (fun h => decide (h.2 ≠ 0))
    let queued := p.lastHop.any (fun key => s.behind id key)
    let held (e : Nat) : Bool := decide (e < coreCount) && s.clocksHeld (regionOf e)
    if before || waits || queued || held p.dst || !s.powered then none else some p

/-- A packet has left the network: its buffers are free, and others move on. -/
def takePacket (id : Nat) (s : State) : State :=
  flowAll { s with net := { s.net with packets := s.net.packets.filter (fun p => decide (p.id ≠ id)) } }

/-- Answering a request packet. -/
def answer (p : Packet) (k : PktKind) (bytes : List Nat) (err : Option ErrCause) (s : State) : State :=
  inject { p with
    kind := k, src := p.dst, dst := p.src, bytes := bytes, err := err, aged := false, asked := decide (p.kind = .read) } s

/-! ## Requests at a tile's arbiter (R130, R131) -/

/-- A request packet reaches its tile's arbiter: it leaves the buffers of the network and stands last in the order of
arrival there. -/
def reachArbiter (p : Packet) (s : State) : State :=
  if p.arrived ≠ 0 then s
  else flowAll { s with net := { s.net with
    packets := s.net.packets.filter (fun q => decide (q.id ≠ p.id)) ++ [{ p with arrived := s.frm.tc + 1, hops := [] }] } }

/-- A request that has waited 256 network cycles waits at the arbiter of tile `n`: it goes before the owning core. -/
def State.agedWaits (s : State) (n : Nat) : Bool :=
  s.net.packets.any (fun p => decide (p.dst = n) && decide (p.arrived ≠ 0) && p.aged)

/-- R130, Table 6.3: it is the turn of request `id` at tile `n`: no other network request came before it, and the owning
core has none waiting or this one has aged. -/
def State.netTurn (s : State) (id n : Nat) : Bool :=
  match s.net.packets.find? (fun p => decide (p.dst = n) && decide (p.arrived ≠ 0)) with
  | none => false
  | some p => decide (p.id = id) && (p.aged || (s.tileRec n).queue.isEmpty) && !(s.tileRec n).retraining

/-- A request that has been served in part. -/
def servedPart (id k : Nat) (bytes : List Nat) (s : State) : State :=
  { s with net := { s.net with
      packets := s.net.packets.map (fun q => if q.id = id then { q with done := q.done + k, bytes := bytes } else q) } }

/-- 256 network cycles of a region in tc: 1.4 GHz, half of it on the fall-back mesh. -/
def State.agingTime (s : State) (r : Nat) : Nat := if (s.clkOf r).source = 1 then 366 else 183

/-- R179: the tag of the frame that runs now. -/
def State.frameTag (s : State) : Nat := s.frm.count % 256

/-- R179: a tagged request belongs to the frame that runs now. -/
def State.tagged (s : State) (p : Packet) : Bool :=
  match p.tag with
  | none => true
  | some t => decide (s.frm.phase = .inFrame) && !s.frm.now.dropped && decide (t = s.frameTag)

/-! ## Credits and replays -/

/-- R184: the destination at the end of a link takes one flit out of the buffer of a virtual channel, the oldest packet's
first; the credit returns, and flits that waited for it move on. In a buffer inside a route a flit goes on as soon as
there is a credit for it. -/
def doFlitCreditReturn (link vc : Nat) (s : State) : State :=
  let key := 4 * link + vc
  match s.net.packets.find? (fun p => decide (p.lastHop = some key) && decide (p.inBuffer key ≠ 0)) with
  | none => s
  | some p =>
    if !s.powered then s
    else flowAll { s with net := { s.net with packets := s.net.packets.map (fun q =>
      if q.id = p.id then { q with hops := q.hops.map (fun h => if h.1 = key then (h.1, h.2 - 1) else h) } else q) } }

/-- R184. -/
def execFlitCreditReturn (link vc : Nat) (s : State) : Host.Outcome State Fault Refusal :=
  onUnit (portOrLink link ∧ vc < 4) (doFlitCreditReturn link vc s)

/-- R187: the record that counts a link's replays. -/
def countReplay (l : Nat) (s : State) : State :=
  if l < 0xC000 then setNet (regionOf (l / 4)) (fun x => { x with replays := satAdd 32 x.replays 1 }) s
  else if l < 0xC200 then setNet (l - 0xC000) (fun x => { x with replays := satAdd 32 x.replays 1 }) s
  else
    let k := if l < 0xC400 then (l - 0xC200) / 128 else (l - 0xC400) / 2
    setSillNet k (fun x => { x with replays := satAdd 32 x.replays 1 }) s

/-- R185: a flit fails its CRC and is sent again; `again` when it is the flit that failed last on this link. -/
def doFlitCrcError (l : Nat) (again : Bool) (s : State) : State :=
  if s.powered then
    let sec := s.frm.tc / tcSec
    countReplay l { s with net := { s.net with replay := mapMod linkReplay0 s.net.replay l (fun x =>
      { inRow := if again then x.inRow + 1 else 1, sec := sec, inSec := if x.sec = sec then x.inSec + 1 else 1 }) } }
  else s

/-- R185. -/
def execFlitCrcError (l : Nat) (again : Bool) (s : State) : Host.Outcome State Fault Refusal :=
  onUnit (linkExists l) (doFlitCrcError l again s)

/-- R185: the limits of a link's replays. -/
def LinkReplay.failed (x : LinkReplay) : Bool := decide (4 ≤ x.inRow) || decide (1000 < x.inSec)

/-- R185, R14: a link beyond its replay limit is fatal. -/
def doLinkReplayLimit (l : Nat) (s : State) : State :=
  if s.powered && (mapGet linkReplay0 s.net.replay l).failed then fatal 0x01 s else s

/-- R185. -/
def execLinkReplayLimit (l : Nat) (s : State) : Host.Outcome State Fault Refusal :=
  onUnit (linkExists l) (doLinkReplayLimit l s)

/-- R131: a request has waited 256 network cycles at its arbiter. -/
def doNetRequestAged (id : Nat) (s : State) : State :=
  match s.net.packets.find? (fun p => decide (p.id = id)) with
  | none => s
  | some p =>
    if s.powered && !p.aged && decide (p.arrived ≠ 0) && decide (p.arrived + s.agingTime (regionOf p.dst) ≤ s.frm.tc + 1) then
      setNet (regionOf p.dst) (fun x => { x with aged := satAdd 32 x.aged 1 })
        { s with net := { s.net with packets := s.net.packets.map (fun q => if q.id = id then { q with aged := true } else q) } }
    else s

/-- R131. -/
def execNetRequestAged (id : Nat) (s : State) : Host.Outcome State Fault Refusal := .next (doNetRequestAged id s)

end Sys2Proof.Machine
end

