-- ==== Sys2Proof/Machine/Walking.lean ====
section
/-! DEFINITION. KV addresses and the page walkers (chapter 9): lane records, the look-aside buffer, translation. -/
namespace Sys2Proof.Machine

/-- R198: a KV address. -/
def isKv (a : Nat) : Bool := decide (deviceSpace ≤ a) && decide (a < 2 ^ 40)

/-- Changing one region's walker. -/
def setWalker (r : Nat) (f : Walker → Walker) (s : State) : State :=
  { s with walkers := mapMod walker0 s.walkers r f }

/-- A region's walker. -/
def State.walkerOf (s : State) (r : Nat) : Walker := mapGet walker0 s.walkers r

/-- The pool of a region in the image in force. -/
def State.poolIn (s : State) (r : Nat) : Option PoolRec := s.inForceImage.bind (fun i => i.poolOf r)

/-- Tile of pool tile `t` (Table 9.1). -/
def PoolRec.tile (p : PoolRec) (t : Nat) : Nat := nth 0 (coresOf p.region) (nth 0 p.tiles t)

/-- R190: the address of a byte of a page. -/
def PoolRec.address (p : PoolRec) (t group stream off : Nat) : Nat :=
  p.tile t * slotSize + p.off + group * (p.streams * 16384) + stream * 16384 + off

/-- A lane record from its bytes (Table 9.4). -/
def parseLane (b : List Nat) : LaneRec :=
  { seq := leAt b 0 4, committed := leAt b 4 4, n := leAt b 8 4, drafts := leAt b 12 1, active := bit (leAt b 13 1) 0,
    ptBase := leAt b 16 8, ptWords := leAt b 24 2, sealGroup := leAt b 26 2, sealPage := leAt b 28 4 }

/-- What a translation answers. -/
inductive Translated
  | at_ (addr : Nat) (toSeal : Bool)
  | walk (lane word : Nat)
  | fails (code : Nat)
  deriving DecidableEq, Repr

/-- Position of the word at page offset `o` of page `i` (R199). -/
def wordPos (i o : Nat) : Nat :=
  let o := o % 0x2000
  i * 64 + 16 * (o / 2048) + o % 512 / 32

/-- A tile that is fenced gives fault 0x03. -/
def State.unlessFenced (s : State) (tile : Nat) (t : Translated) : Translated := if s.tileFenced tile then .fails 3 else t

/-- R199: the lane record of a KV address as its region's walker has it. -/
def State.laneOf (s : State) (r a : Nat) : LaneRec := nth {} (s.walkerOf r).lanes (field a 34 4)

/-- R199: a piece that fails before any table is looked at: no such lane, or a page past its tables. -/
def State.kvRefused (s : State) (r a : Nat) : Bool :=
  let l := s.laneOf r a
  let page := field a 14 14
  match s.poolIn r with
  | none => true
  | some p => decide (p.lanes ≤ field a 34 4) || !l.active || (decide (page ≠ 0x3FFF)
      && (decide ((l.committed + l.n - 1) / 64 < page) || decide (16 * l.ptWords ≤ page)))

/-- R200: a piece looks its page-table word up in the look-aside buffer; one of the seal group does not. -/
def State.looksUp (s : State) (r a : Nat) : Bool := !s.kvRefused r a && decide (field a 14 14 ≠ 0x3FFF)

/-- R199: the translation of one piece by the walker of region `r`. -/
def State.translate (s : State) (r : Nat) (write : Bool) (a len : Nat) : Translated :=
  match s.poolIn r with
  | none => .fails 0x0D
  | some p =>
    let w := s.walkerOf r
    let q := field a 34 4
    let stream := field a 28 6
    let page := field a 14 14
    let o := field a 0 14
    let rec_ := s.laneOf r a
    if s.kvRefused r a then .fails 0x0D
    else if page = 0x3FFF then
      if rec_.sealPage = 0xFFFFFFFF then .fails 0x0D
      else
        let t := rec_.sealPage % p.tileCount
        s.unlessFenced (p.tile t) (.at_ (p.address t rec_.sealGroup stream o) true)
    else match w.looks.find? (fun l => decide (l.lane = q) && decide (l.word = page / 16)) with
      | none => .walk q (page / 16)
      | some l =>
        let e := nth 0 l.entries (page % 16)
        if !bit e 15 then .fails 0x0D
        else if write && bit e 14 then .fails 0x0E
        else if write && (List.range (len / 32)).any (fun i => decide (wordPos page (o + 32 * i) < rec_.committed)) then .fails 0x0E
        else
          let t := page % p.tileCount
          s.unlessFenced (p.tile t) (.at_ (p.address t (field e 0 12) stream o) false)

/-- R200: a hit makes its entry the most recently used. -/
def touchLook (l : Look) (ls : List Look) : List Look :=
  l :: ls.filter (fun x => !(decide (x.lane = l.lane) && decide (x.word = l.word)))

/-- A lookup's effect on the look-aside order. -/
def Walker.touch (w : Walker) (lane word : Nat) : Walker :=
  match w.looks.find? (fun l => decide (l.lane = lane) && decide (l.word = word)) with
  | some l => { w with looks := touchLook l w.looks }
  | none => w

/-- R207: the counters of one translated piece. -/
def countLookup (r : Nat) (write : Bool) (a len : Nat) (t : Translated) (s : State) : State :=
  setWalker r (fun w =>
    let c := w.ctr
    let w := if s.looksUp r a then w.touch (field a 34 4) (field a 14 14 / 16) else w
    match t with
    | .at_ _ sl => { w with ctr := { c with
        lookups := satAdd 32 c.lookups 1, sealWrites := satAdd 32 c.sealWrites (if sl && write then len / 32 else 0) } }
    | .walk _ _ => w
    | .fails code => { w with ctr := { c with
        lookups := satAdd 32 c.lookups 1, faults0d := satAdd 32 c.faults0d (b2n (decide (code = 0x0D)))
        faults0e := satAdd 32 c.faults0e (b2n (decide (code = 0x0E))) } }) s

/-- R208: look-aside entries that fail parity are discarded, so that their words are walked again: 1024 × lane + word. -/
def discardLooks (r : Nat) (l : List Nat) (s : State) : State :=
  if l.isEmpty then s else setWalker r (fun w => { w with looks := w.looks.filter (fun x => !l.contains (1024 * x.lane + x.word)) }) s

/-- R200: a piece waits for the walk of its word; a fifth walk waits for one of the four. -/
def joinWalk (r lane word : Nat) (p : KvPiece) (s : State) : State :=
  setWalker r (fun w =>
    if w.walks.any (fun x => decide (x.lane = lane) && decide (x.word = word)) then
      { w with walks := w.walks.map (fun x =>
          if x.lane = lane ∧ x.word = word then { x with pieces := x.pieces ++ [p] } else x) }
    else
      let run := (w.walks.filter (fun x => x.started)).length
      { w with walks := w.walks ++ [{ lane := lane, word := word, started := decide (run < 4), pieces := [p] }] }) s

/-- Requester of a walker's own reads: another core, the first of its region (Table 6.15 names no walker, log 23). -/
def walkerWho (r : Nat) : Who := { code := 2, source := nth 0 (coresOf r) 0 }

/-- R197, R200: in the entry interval the walker reads its lane block and flushes its look-aside buffer. A block that
cannot be read is a walker failure (R14). -/
def openWalker (r : Nat) (s : State) : State :=
  let s := setWalker r (fun w => { w with lanes := [], looks := [], walks := [], ready := [] }) s
  match s.poolIn r with
  | none => s
  | some p =>
    match readBytes (walkerWho r) false (p.laneBlock + 512 * (s.frm.count % 2)) 512 s with
    | (.data b, s) => setWalker r (fun w => { w with lanes := (List.range 16).map (fun q => parseLane (b.drop (32 * q))) }) s
    | (.error _, s) => fatal 0x01 s

end Sys2Proof.Machine
end

