-- ==== Sys2Proof/Machine/Transfer.lean ====
section
/-! DEFINITION. Transfers of the cores: LOAD, STORE, RECV and SEND to a role, their pieces on the sash and in the network,
and the arrival of every packet kind (chapters 3, 6, 8 and 9). -/
namespace Sys2Proof.Machine

/-! ## Pieces (R172, R199) -/

/-- One piece of a transfer: its memory or KV address, its bytes, and its place in the core store. -/
structure Piece where
  addr : Nat
  len : Nat
  local_ : Nat
  deriving DecidableEq, Repr

/-- A run of bytes cut at 2 KiB boundaries of its target. -/
def cutRun : Nat → Nat → Nat → Nat → List Piece
  | 0, _, _, _ => []
  | fuel + 1, a, len, l =>
    let n := min len (2048 - a % 2048)
    if len = 0 then [] else { addr := a, len := n, local_ := l } :: cutRun fuel (a + n) (len - n) (l + n)

/-- The pieces of a LOAD or STORE (Table 3.4): its rows in order, each cut. -/
def transferPieces (w0 w1 : Nat) : List Piece :=
  let cs := 32 * field w0 17 15
  let m := 32 * field w1 29 35
  let len := 32 * field w1 17 12
  let stride := 32 * field w1 0 17
  (List.range (field w0 0 12 + 1)).flatMap (fun i => cutRun (len / 2048 + 2) (m + i * stride) len (cs + i * len))

/-- The pieces of a SEND: 2 KiB each from its start. -/
def sendPieces (w0 : Nat) : List Piece := cutRun 66 0 (32 * field w0 5 12) (32 * field w0 17 15)

/-- R178: READs of a core that are not answered yet. -/
def State.readsOut (s : State) (n : Nat) : Nat :=
  (s.net.packets.filter (fun p => decide (p.core = n)
    && (decide (p.kind = .read) || decide (p.kind = .readData) || (decide (p.kind = .error) && p.asked)))).length

/-- A fenced word of a piece refuses it when it is issued (R63); its bus error is recorded. -/
def State.issueBlocked (s : State) (a len : Nat) : Option (Nat × Nat) := s.blockedIn a ((len + 31) / 32)

/-- A piece with its physical address goes to the own sash or into the network. -/
def issueAt (n : Nat) (e : QEntry) (write : Bool) (a len local_ : Nat) (s : State) : State :=
  match s.issueBlocked a len with
  | some (b, c) => faultEntry n e 3 (busError { code := if tileOf a = n then 1 else 2, source := n } b c 0 write s)
  | none =>
    if tileOf a = n then
      setTile n (fun t => { t with queue := t.queue ++ [
        { core := n, uid := e.uid, write := write, addr := a, len := len, local_ := local_ }] }) s
    else
      inject {
        id := 0, kind := if write then .write else .read, src := n, dst := tileOf a, tag := some s.frameTag, addr := a
        len := len, bytes := if write then s.storeBytes n local_ len else [], slot := 0, core := n, uid := e.uid
        local_ := local_, off := 0, total := len, err := none, unsent := 0, hops := [], aged := false } s

/-- A piece is issued: a KV address is translated first (R199). -/
def issuePiece (n : Nat) (e : QEntry) (p : Piece) (s : State) : State :=
  let write := decide (kindOf e.w0 = 2)
  if isKv p.addr then
    let r := regionOf n
    let t := s.translate r write p.addr p.len
    let s := countLookup r write p.addr p.len t s
    match t with
    | .fails code => faultEntry n e code s
    | .walk lane word =>
      joinWalk r lane word { core := n, uid := e.uid, write := write, addr := p.addr, len := p.len, local_ := p.local_ } s
    | .at_ a _ => issueAt n e write a p.len p.local_ s
  else issueAt n e write p.addr p.len p.local_ s

/-- R178: the next pieces of a transfer are issued, a LOAD while fewer than 32 READs are out. -/
def issueMore (n uid : Nat) : List Piece → State → State
  | [], s => s
  | p :: t, s =>
    match s.entryOf n uid with
    | none => s
    | some e =>
      if kindOf e.w0 = 1 && decide (32 ≤ s.readsOut n) then s
      else issueMore n uid t (issuePiece n e p (updEntry n uid (fun e => { e with issued := e.issued + 1 }) s))

/-- The pieces of a transfer that are still to be issued. -/
def issueRest (n uid : Nat) (s : State) : State :=
  match s.entryOf n uid with
  | none => s
  | some e => issueMore n uid ((transferPieces e.w0 e.w1).drop e.issued) s

/-- One more piece of an entry is finished; with the last the entry is done. -/
def gotPiece (n uid : Nat) (s : State) : State :=
  updEntry n uid (fun e => { e with got := e.got + 1, done := decide (e.got + 1 = e.need) }) s

/-- Pieces whose walk is over go on, each translated again with its word in the look-aside buffer; those of a LOAD wait
while 32 READs are out (R178). -/
def resumePieces : List KvPiece → State → State
  | [], s => s
  | p :: t, s =>
    match s.entryOf p.core p.uid with
    | none => resumePieces t s
    | some e =>
      if !p.write && decide (32 ≤ s.readsOut p.core) then
        resumePieces t (setWalker (regionOf p.core) (fun w => { w with ready := w.ready ++ [p] }) s)
      else resumePieces t (issuePiece p.core e { addr := p.addr, len := p.len, local_ := p.local_ } s)

/-- Waiting transfers of a core go on when a READ has been answered. -/
def resumeReads (n : Nat) (s : State) : State :=
  let r := regionOf n
  let l := (s.walkerOf r).ready
  let s := resumePieces l (setWalker r (fun w => { w with ready := [] }) s)
  match (s.coreRec n).queue.find? (fun e => e.started && !e.done && decide (kindOf e.w0 = 1) && decide (e.issued < e.need)) with
  | none => s
  | some e => issueRest n e.uid s

/-- A transfer starts: its pieces are counted and issued. `looks` are entries of the look-aside buffer that fail parity. -/
def startTransfer (n : Nat) (looks : List Nat) (e : QEntry) (s : State) : State :=
  issueRest n e.uid (discardLooks (regionOf n) looks
    (updEntry n e.uid (fun x => { x with need := (transferPieces e.w0 e.w1).length }) s))

/-- R63: LOAD. -/
def doLoadDesc (n : Nat) (looks : List Nat) (s : State) : State :=
  runUnit n .transfer (fun e => decide (kindOf e.w0 = 1)) false (startTransfer n looks) s

/-- R63. -/
def execLoadDesc (n : Nat) (looks : List Nat) (s : State) : Host.Outcome State Fault Refusal :=
  onUnit (n < coreCount) (doLoadDesc n looks s)

/-- R63: STORE. `parity` is a parity error in a byte it reads from the core store. -/
def doStoreDesc (n : Nat) (looks : List Nat) (parity : Bool) (s : State) : State :=
  runUnit n .transfer (fun e => decide (kindOf e.w0 = 2)) parity (startTransfer n looks) s

/-- R63. -/
def execStoreDesc (n : Nat) (looks : List Nat) (parity : Bool) (s : State) : Host.Outcome State Fault Refusal :=
  onUnit (n < coreCount) (doStoreDesc n looks parity s)

/-! ## The own sash (R130) -/

/-- The fault of a bus error on a transfer in flight (Table 6.6). -/
def inFlightFault (cause : Nat) : Nat := if cause = 1 || cause = 2 then 2 else 0x0A

/-- The first owner request of a tile has been served for `k` more bytes; with the last it leaves the queue. -/
def servedOwner (n k : Nat) (q : SashReq) (s : State) : State :=
  if q.done + k = q.len then resumeReads n (gotPiece n q.uid (setTile n (fun x => { x with queue := x.queue.tail }) s))
  else setTile n (fun x => { x with queue := { q with done := q.done + k } :: x.queue.tail }) s

/-- R76: the first owner request of a tile fails: it is gone and its descriptor faults. -/
def failOwner (n code : Nat) (e : QEntry) (s : State) : State :=
  faultEntry n e code (setTile n (fun x => { x with queue := x.queue.tail }) s)

/-- R130: the owning core's first waiting request takes up to `beats` code words, while no aged network request goes
first. `parity` is a parity error in the sash datapath, `store` one in a core-store byte that a write reads (R53), `flips`
the errors that have come into the words of the request since they were written. -/
def doOwnerSashRequest (n beats : Nat) (parity store : Bool) (flips : List (Nat × Nat)) (s : State) : State :=
  if !s.coreRuns n || (s.tileRec n).retraining || s.agedWaits n then s
  else match (s.tileRec n).queue with
    | [] => s
    | q :: t =>
      match s.entryOf n q.uid with
      | none => setTile n (fun x => { x with queue := t }) s
      | some e =>
        let w : Who := { code := 1, source := n }
        let k := min (32 * beats) (q.len - q.done)
        if q.write then
          if store then failOwner n 1 e s
          else match writeBytes w parity (q.addr + q.done) (s.storeBytes n (q.local_ + q.done) k) s with
          | (none, s) => servedOwner n k q s
          | (some c, s) => failOwner n (inFlightFault c) e s
        else
          match readBytes w parity (q.addr + q.done) k (flipSymbols q.addr flips s) with
          | (.data d, s) => servedOwner n k q (putStore n (q.local_ + q.done) d s)
          | (.error c, s) => failOwner n (inFlightFault c) e s

/-- R130. -/
def execOwnerSashRequest (n beats : Nat) (parity store : Bool) (flips : List (Nat × Nat)) (s : State) :
    Host.Outcome State Fault Refusal := onUnit (n < coreCount) (doOwnerSashRequest n beats parity store flips s)

/-! ## Requests that arrive (R178, R179) -/

/-- Cause an ERROR packet carries for a bus error (Table 8.2). -/
def errOf (cause : Nat) : ErrCause := if cause = 1 || cause = 2 then .uncorrectable else if cause = 3 then .unmapped else .fenced

/-- The arbiter serves up to `beats` code words of a READ. -/
def serveNetRead (p : Packet) (beats : Nat) (parity : Bool) (flips : List (Nat × Nat)) (s : State) : State :=
  let k := min (32 * beats) (p.len - p.done)
  match readBytes { code := 2, source := p.core } parity (p.addr + p.done) k (flipSymbols p.addr flips s) with
  | (.data d, s) =>
    if p.done + k = p.len then answer p .readData (p.bytes ++ d) none (takePacket p.id s)
    else servedPart p.id k (p.bytes ++ d) s
  | (.error c, s) => answer p .error [] (some (errOf c)) (takePacket p.id s)

/-- R130, R178: a READ reaches the arbiter of its tile, and takes up to `beats` code words when it is its turn. -/
def doNetRead (id beats : Nat) (parity : Bool) (flips : List (Nat × Nat)) (s : State) : State :=
  match s.arrivable id .read with
  | none => s
  | some p =>
    let s := reachArbiter p s
    if s.netTurn id p.dst then serveNetRead p beats parity flips s else s

/-- R178. -/
def execNetRead (id beats : Nat) (parity : Bool) (flips : List (Nat × Nat)) (s : State) : Host.Outcome State Fault Refusal :=
  .next (doNetRead id beats parity flips s)

/-- The arbiter serves up to `beats` code words of a WRITE. -/
def serveNetWrite (p : Packet) (beats : Nat) (parity : Bool) (s : State) : State :=
  let k := min (32 * beats) (p.len - p.done)
  match writeBytes { code := 2, source := p.core } parity (p.addr + p.done) (slice p.bytes p.done k) s with
  | (none, s) =>
    if p.done + k = p.len then answer p .ack [] none (takePacket p.id s) else servedPart p.id k p.bytes s
  | (some c, s) => answer p .error [] (some (errOf c)) (takePacket p.id s)

/-- R179: a WRITE reaches its tile. -/
def doNetWrite (id beats : Nat) (parity : Bool) (s : State) : State :=
  match s.arrivable id .write with
  | none => s
  | some p =>
    if !s.tagged p then suppress (regionOf p.dst) (takePacket id s)
    else
      let s := reachArbiter p s
      if s.netTurn id p.dst then serveNetWrite p beats parity s else s

/-- R179. -/
def execNetWrite (id beats : Nat) (parity : Bool) (s : State) : Host.Outcome State Fault Refusal :=
  .next (doNetWrite id beats parity s)

/-! ## SEND and RECV (R58, R59, R180) -/

/-- Bytes of a SEND reach a posted buffer; with the last the RECV is done, or faults with 0x06 where the lengths differ. -/
def fillPosted (n k uid total : Nat) (bytes : List Nat) (off : Nat) (s : State) : State :=
  match (s.ctxOf n k).posted.find? (fun p => decide (p.uid = uid)) with
  | none => s
  | some p =>
    let s := if p.bad then s else putStore n (p.addr + off) bytes s
    let got := p.got + bytes.length
    if got < total then
      setCtx n k (fun c => { c with posted := c.posted.map (fun x => if x.uid = uid then { x with got := got } else x) }) s
    else
      let s := setCtx n k (fun c => { c with posted := c.posted.filter (fun x => decide (x.uid ≠ uid)) }) s
      if p.bad then s else doneEntry n uid s

/-- A SEND takes a buffer; a length that differs is fault 0x06 on the receiver (R58). -/
def takePosted (n k uid total : Nat) (src : Nat × Nat) (s : State) : State :=
  match (s.ctxOf n k).posted.find? (fun p => decide (p.uid = uid)) with
  | none => s
  | some p =>
    let bad := decide (p.len ≠ total)
    let s := setCtx n k (fun c => { c with posted := c.posted.map (fun x =>
      if x.uid = uid then { x with taken := some src, bad := bad } else x) }) s
    if bad then (match s.entryOf n uid with | some e => faultEntry n e 6 s | none => s) else s

/-- The buffer that packets of a SEND go to: the one it has taken, or the first free one of its channel. -/
def Ctx.bufferFor (c : Ctx) (channel : Nat) (src : Nat × Nat) : Option Posted :=
  match c.posted.find? (fun p => decide (p.channel = channel) && decide (p.taken = some src)) with
  | some p => some p
  | none => c.posted.find? (fun p => decide (p.channel = channel) && decide (p.taken = none))

/-- A SEND packet fills its buffer. -/
def deliver (n k : Nat) (p : Packet) (b : Posted) (s : State) : State :=
  let src := (p.core, p.uid)
  let s := if b.taken = none then takePosted n k b.uid p.total src s else s
  fillPosted n k b.uid p.total p.bytes p.off s

/-- Where the arrivals of a context stand in its save area: past its fixed state and its swap set (log 113). -/
def Binding.arrivalsAt (b : Binding) : Nat := b.save + 4096 + 32 * b.swapLen

/-- The SEND of a packet in the save area, or the place after those there for one that begins. -/
def Ctx.arrivalFor (c : Ctx) (p : Packet) : Arrival :=
  match c.arrivals.find? (fun a => decide (a.src = (p.core, p.uid)) && decide (a.channel = p.addr)) with
  | some a => a
  | none =>
    { channel := p.addr, src := (p.core, p.uid), total := p.total, got := 0
      off := c.arrivals.foldl (fun m a => max m (a.off + a.total)) 0 }

/-- A SEND packet joins its SEND in the list of those in the save area. -/
def saveArrival (p : Packet) (x : Arrival) (l : List Arrival) : List Arrival :=
  if l.contains x then l.map (fun a => if a = x then { a with got := a.got + p.len } else a)
  else l ++ [{ x with got := p.len }]

/-- R59: a SEND packet for a context that is not resident is written into its save area, or answered with an error where
that cannot be written. -/
def savePacket (p : Packet) (parity : Bool) (s : State) : State :=
  let n := p.dst
  match s.bindingOf ((s.ctxOf n p.slot).role1 - 1) with
  | none => answer p .error [] (some .unmapped) s
  | some b =>
    let x := (s.ctxOf n p.slot).arrivalFor p
    match writeBytes { code := 1, source := n } parity (b.arrivalsAt + x.off + x.got) p.bytes s with
    | (none, s) => answer p .ack [] none (setCtx n p.slot (fun c => { c with arrivals := saveArrival p x c.arrivals }) s)
    | (some c, s) => answer p .error [] (some (errOf c)) s

/-- The context is on its core and restored. -/
def State.resident (s : State) (n k : Nat) : Bool :=
  decide ((s.coreRec n).resident1 = k + 1) && decide ((s.coreRec n).switch1 = 0)

/-- Held packets of a channel. -/
def State.heldFor (s : State) (n k channel : Nat) : List Packet :=
  s.net.held.filter (fun p => decide (p.dst = n) && decide (p.slot = k) && decide (p.addr = channel))

/-- A packet of a SEND may go to the buffer: its SEND has it, or it is free and nothing is held before. -/
def Posted.open_ (b : Posted) (held : List Packet) : Bool := b.taken.isSome || held.isEmpty

/-- R58, R59, R180: a SEND packet at its destination: it fills a posted buffer, goes to the save area, is held, or waits
in the network where four are held. `parity` is a parity error in the sash datapath to the save area. -/
def doNetSend (id : Nat) (parity : Bool) (s : State) : State :=
  match s.arrivable id .send with
  | none => s
  | some p =>
    let n := p.dst
    if !s.tagged p then suppress (regionOf n) (takePacket id s)
    else if s.coreFenced n then answer p .error [] (some .fenced) (takePacket id s)
    else if !s.resident n p.slot then savePacket p parity (takePacket id s)
    else
      let held := s.heldFor n p.slot p.addr
      match ((s.ctxOf n p.slot).bufferFor p.addr (p.core, p.uid)).filter (fun b => b.open_ held) with
      | some b => answer p .ack [] none (deliver n p.slot p b (takePacket id s))
      | none =>
        if held.length < 4 then
          let s := takePacket id s
          { s with net := { s.net with held := s.net.held ++ [p] } }
        else s

/-- R180. -/
def execNetSend (id : Nat) (parity : Bool) (s : State) : Host.Outcome State Fault Refusal := .next (doNetSend id parity s)

/-- Held packets of a channel that find a buffer go into it, in their order. -/
def feedPosted (n k channel : Nat) : List Packet → State → State
  | [], s => s
  | p :: t, s =>
    match (s.ctxOf n k).bufferFor channel (p.core, p.uid) with
    | none => feedPosted n k channel t s
    | some b =>
      let s := { s with net := { s.net with held := s.net.held.filter (fun q => decide (q.id ≠ p.id)) } }
      feedPosted n k channel t (answer p .ack [] none (deliver n k p b s))

/-- R59: one SEND of the save area goes into a posted buffer. Where its bytes cannot be read the RECV faults as its own
access to the tile would (Table 6.6). -/
def feedArrival (n k : Nat) (b : Posted) (a : Arrival) (s : State) : State :=
  match s.bindingOf ((s.ctxOf n k).role1 - 1) with
  | none => s
  | some bind =>
    let s := setCtx n k (fun c => { c with arrivals := c.arrivals.filter (fun x => decide (x ≠ a)) }) s
    match readBytes { code := 1, source := n } false (bind.arrivalsAt + a.off) a.got s with
    | (.data d, s) => fillPosted n k b.uid a.total d 0 (takePosted n k b.uid a.total a.src s)
    | (.error c, s) => match s.entryOf n b.uid with
      | some e => faultEntry n e (inFlightFault c)
          (setCtx n k (fun x => { x with posted := x.posted.filter (fun y => decide (y.uid ≠ b.uid)) }) s)
      | none => s

/-- R59: the SENDs of the save area go, in their order of arrival, into the posted buffers of their channels. -/
def feedSaved (n k : Nat) (s : State) : State :=
  (s.ctxOf n k).arrivals.foldl (fun s a =>
    match (s.ctxOf n k).posted.find? (fun b => decide (b.channel = a.channel) && decide (b.taken = none)) with
    | some b => feedArrival n k b a s
    | none => s) s

/-- R58: RECV posts its buffer. -/
def recvBody (n : Nat) (e : QEntry) (s : State) : State :=
  let channel := field e.w0 1 4
  let s := setCtx n e.slot (fun c => { c with posted := c.posted ++ [
    { channel := channel, uid := e.uid, addr := 32 * field e.w0 17 15, len := 32 * field e.w0 5 12 }] }) s
  let s := feedSaved n e.slot s
  feedPosted n e.slot channel (s.heldFor n e.slot channel) s

/-- R58: RECV. -/
def doRecv (n : Nat) (s : State) : State :=
  runUnit n .message (fun e => decide (kindOf e.w0 = 4)) false (fun e s => recvBody n e s) s

/-- R58. -/
def execRecv (n : Nat) (s : State) : Host.Outcome State Fault Refusal := onUnit (n < coreCount) (doRecv n s)

/-- R55, R58, R172: a SEND to a role channel, cut into packets. No rule says what a SEND does whose role the image does not
hold: the model raises fault 0x03 (log 114). -/
def sendToRole (n : Nat) (e : QEntry) (s : State) : State :=
  match s.bindingOf (field e.w1 48 16) with
  | none => faultEntry n e 3 s
  | some b =>
    let total := 32 * field e.w0 5 12
    let ps := sendPieces e.w0
    let s := updEntry n e.uid (fun x => { x with need := ps.length, issued := ps.length }) s
    ps.foldl (fun s p =>
      inject {
        id := 0, kind := .send, src := n, dst := b.core, tag := some s.frameTag, addr := field e.w1 44 4, len := p.len
        bytes := s.storeBytes n p.local_ p.len, slot := b.slot, core := n, uid := e.uid, local_ := p.local_
        off := p.addr, total := total, err := none, unsent := 0, hops := [], aged := false } s) s

/-! ## Responses that arrive -/

/-- R179: READ_DATA reaches its requester, or is discarded where the descriptor was abandoned. -/
def doNetReadData (id : Nat) (s : State) : State :=
  match s.arrivable id .readData with
  | none => s
  | some p =>
    let s := takePacket id s
    resumeReads p.core (match s.entryOf p.core p.uid with
      | none => suppress (regionOf p.core) s
      | some _ => gotPiece p.core p.uid (putStore p.core p.local_ p.bytes s))

/-- R179. -/
def execNetReadData (id : Nat) (s : State) : Host.Outcome State Fault Refusal := .next (doNetReadData id s)

/-- R178: an ACK reaches its requester. -/
def doNetAck (id : Nat) (s : State) : State :=
  match s.arrivable id .ack with
  | none => s
  | some p =>
    let s := takePacket id s
    match s.entryOf p.core p.uid with
    | none => suppress (regionOf p.core) s
    | some _ => gotPiece p.core p.uid s

/-- R178. -/
def execNetAck (id : Nat) (s : State) : Host.Outcome State Fault Refusal := .next (doNetAck id s)

/-- Descriptor fault of an ERROR packet (Tables 3.12, 6.6, 8.9). -/
def errFault : ErrCause → Nat
  | .uncorrectable => 2
  | .unmapped => 3
  | .fenced => 0x0A
  | .narrow => 4
  | .notAdmitted => 7

/-- R178: an ERROR reaches its requester and faults its descriptor. -/
def doNetError (id : Nat) (s : State) : State :=
  match s.arrivable id .error with
  | none => s
  | some p =>
    let s := takePacket id s
    resumeReads p.core (match s.entryOf p.core p.uid, p.err with
      | some e, some c => faultEntry p.core e (errFault c) s
      | _, _ => suppress (regionOf p.core) s)

/-- R178. -/
def execNetError (id : Nat) (s : State) : Host.Outcome State Fault Refusal := .next (doNetError id s)

/-! ## Page walks (R200) -/

/-- Pieces whose word could not be read fault. -/
def failPieces (code : Nat) : List KvPiece → State → State
  | [], s => s
  | p :: t, s =>
    match s.entryOf p.core p.uid with
    | none => failPieces code t s
    | some e => failPieces code t (faultEntry p.core e code s)

/-- R200: the first `n` walks that wait start while fewer than four run. -/
def startWalks (ws : List Walk) : List Walk :=
  let run := (ws.filter (fun x => x.started)).length
  (ws.foldl (fun (a : List Walk × Nat) x =>
    if x.started then (a.1 ++ [x], a.2)
    else if a.2 < 4 then (a.1 ++ [{ x with started := true }], a.2 + 1) else (a.1 ++ [x], a.2)) ([], run)).1

/-- R200: a walk of region `r` returns: its word fills the look-aside buffer and its pieces go on. `cycles` is how long
the walk took, `parity` a parity error in the datapath. A word that is fenced or uncorrectable faults the pieces (Table
6.6). A tile that retrains holds the read (R148). -/
def doPageWalkDone (r lane word cycles : Nat) (parity : Bool) (flips : List (Nat × Nat)) (s : State) : State :=
  match (s.walkerOf r).walks.find? (fun x => decide (x.lane = lane) && decide (x.word = word) && x.started) with
  | none => s
  | some w =>
    let base := (nth {} (s.walkerOf r).lanes lane).ptBase + 32 * word
    if !s.powered || (s.tileRec (tileOf base)).retraining then s
    else
      let s := setWalker r (fun x =>
        { x with
          walks := startWalks (x.walks.filter (fun y => !(decide (y.lane = lane) && decide (y.word = word))))
          ctr := { x.ctr with misses := satAdd 32 x.ctr.misses 1, cycles := satAdd 32 x.ctr.cycles cycles } }) s
      match readBytes (walkerWho r) parity base 32 (flipSymbols base flips s) with
      | (.data b, s) =>
        let l : Look := { lane := lane, word := word, entries := (List.range 16).map (fun j => leAt b (2 * j) 2) }
        resumePieces w.pieces (setWalker r (fun x => { x with looks := (touchLook l x.looks).take 128 }) s)
      | (.error c, s) => failPieces (if c = 4 then 3 else 2) w.pieces s

/-- R200. -/
def execPageWalkDone (r lane word cycles : Nat) (parity : Bool) (flips : List (Nat × Nat)) (s : State) :
    Host.Outcome State Fault Refusal :=
  onUnit (r < regionCount ∧ lane < 16) (doPageWalkDone r lane word cycles parity flips s)

end Sys2Proof.Machine
end

