-- ==== Sys2Proof/Machine/LinkBase.lean ====
section
/-! DEFINITION. Ovilink flits (chapter 12): their bytes, link outputs, credits and replay, routes, requests to peers and
their answers, links going down. -/
namespace Sys2Proof.Machine

/-! ## Bytes (Tables 12.3 and 12.4) -/

/-- One bit of CRC-32C, least significant bit first. -/
def crcBit (c : Nat) : Nat := if c % 2 = 1 then (c / 2) ^^^ 0x82F63B78 else c / 2

/-- One byte of CRC-32C. -/
def crcByte (c b : Nat) : Nat := crcBit (crcBit (crcBit (crcBit (crcBit (crcBit (crcBit (crcBit (c ^^^ b))))))))

/-- CRC-32C with the usual initial and final complement (log 33). -/
def crc32c (l : List Nat) : Nat := l.foldl crcByte 0xFFFFFFFF ^^^ 0xFFFFFFFF

/-- A flit's header. -/
def flitHeader (f : Flit) : List Nat :=
  leBytes 2 f.dest ++ leBytes 2 f.src ++ leBytes 2 f.endpoint
    ++ [f.ty * 32 + b2n f.scheduled * 16 + f.vc * 8 + f.lenM1, f.hops, f.frame] ++ leBytes 2 f.tag ++ leBytes 5 f.addr

/-- The 280 bytes of a flit on a link. -/
def flitBytes (f : LinkFlit) : List Nat :=
  let body := flitHeader f.flit ++ slice f.flit.payload 0 256
  let tail := leBytes 2 (f.seq * 16 + f.credU) ++ leBytes 2 (f.ack * 16 + f.credS)
  body ++ leBytes 4 (crc32c (body ++ tail)) ++ tail

/-- R265: the bytes of a flit, spread over the active lanes in turn, lowest first. -/
def laneBytes (used : Nat) (b : List Nat) : List (Nat × List Nat) :=
  let lanes := (List.range 16).filter (fun i => bit used i)
  lanes.zipIdx.map (fun e =>
    (e.1, (List.range ((b.length + lanes.length - 1 - e.2) / max 1 lanes.length)).map (fun k => nth 0 b (k * lanes.length + e.2))))

/-! ## Links -/

/-- Link `l`. -/
def State.linkOf (s : State) (l : Nat) : Link := nth {} s.lnk.links l

/-- Changing one link. -/
def setLink (l : Nat) (f : Link → Link) (s : State) : State :=
  { s with lnk := { s.lnk with links := setNth s.lnk.links l (f (nth {} s.lnk.links l)) } }

/-- A link takes new flits. -/
def Link.usable (x : Link) : Bool := decide (x.state = .up) && !x.quiesce

/-- A request flit. -/
def Flit.request (f : Flit) : Bool := decide (f.ty = 1) || decide (f.ty = 2)

/-- Place of a flit's class and channel in the credit counts. -/
def Flit.lane (f : Flit) : Nat := 2 * b2n f.scheduled + f.vc

/-- R267: receiver buffers of a class; its two channels share them (log 32). -/
def linkDepth : Nat := 4096

/-- Receiver buffers of a flit's class in use. -/
def Link.classUsed (x : Link) (f : Flit) : Nat :=
  nth 0 x.usedCredits (2 * b2n f.scheduled) + nth 0 x.usedCredits (2 * b2n f.scheduled + 1)

/-- R266, R267: a flit may leave on a link now. -/
def Link.canSend (x : Link) (f : Flit) : Bool :=
  decide (x.state = .up) && decide (x.classUsed f < linkDepth) && decide (x.replay.length < 4096)

/-- R266, R267: a flit leaves on a link: it takes a credit and a sequence number, carries acknowledgement and returned
credits, and stays in the replay buffer. -/
def transmit (l : Nat) (f : Flit) (s : State) : State :=
  let x := s.linkOf l
  let cu := min 15 (nth 0 x.owed 0)
  let cs := min 15 (nth 0 x.owed 1)
  let lf : LinkFlit := { flit := f, seq := x.sendSeq, credU := cu, ack := (x.expectSeq + 4095) % 4096, credS := cs }
  emit (.link l (b2n f.scheduled) (laneBytes x.lanesUsed (flitBytes lf))) (setLink l (fun x => { x with
    sendSeq := (x.sendSeq + 1) % 4096, replay := x.replay ++ [lf], owed := [nth 0 x.owed 0 - cu, nth 0 x.owed 1 - cs],
    usedCredits := setNth x.usedCredits f.lane (nth 0 x.usedCredits f.lane + 1) }) s)

/-- R276: a flit as it leaves on a link: on a dateline link it moves to channel 1. -/
def Link.leaving (x : Link) (f : Flit) : Flit := if x.dateline then { f with vc := 1 } else f

/-- R268: the waiting flit served next: STATUS, then scheduled, then unscheduled, each in order, against a credit. -/
def Link.nextOut (x : Link) : Option OutFlit :=
  let ready := x.waiting.filter (fun o => x.canSend (x.leaving o.flit))
  match ready.find? (fun o => decide (o.flit.ty = 5)) with
  | some o => some o
  | none => match ready.find? (fun o => o.flit.scheduled) with
    | some o => some o
    | none => ready.head?

/-- The first waiting flit equal to one goes. -/
def dropOut (o : OutFlit) : List OutFlit → List OutFlit
  | [] => []
  | a :: t => if a = o then t else a :: dropOut o t

/-- An IDLE flit with the acknowledgement and what credits are owed; it takes no sequence number (log 47). -/
def sendIdle (l : Nat) (s : State) : State :=
  let x := s.linkOf l
  let cu := min 15 (nth 0 x.owed 0)
  let cs := min 15 (nth 0 x.owed 1)
  let f : Flit := {
    dest := 0, src := 0, endpoint := 0, ty := 0, scheduled := false, vc := 0, lenM1 := 0, hops := 0, frame := 0, tag := 0
    addr := 0, payload := [] }
  let lf : LinkFlit := { flit := f, seq := (x.sendSeq + 4095) % 4096, credU := cu, ack := (x.expectSeq + 4095) % 4096, credS := cs }
  emit (.link l 0 (laneBytes x.lanesUsed (flitBytes lf)))
    (setLink l (fun x => { x with owed := [nth 0 x.owed 0 - cu, nth 0 x.owed 1 - cs] }) s)

/-- R267: a receiver buffer of a link is free again: its credit is owed to the neighbour. -/
def oweCredit (l c : Nat) (s : State) : State := setLink l (fun x => { x with owed := setNth x.owed c (nth 0 x.owed c + 1) }) s

/-- R267: a flit that stood in a receiver buffer, if it did, has left it; an IDLE flit takes the credit back. -/
def freeBuffer (p : Option (Nat × Nat)) (s : State) : State :=
  match p with
  | some (l, c) => if (s.linkOf l).state = .up then sendIdle l (oweCredit l c s) else s
  | none => s

/-- Sending what can be sent. -/
def drainLink (l : Nat) : Nat → State → State
  | 0, s => s
  | n + 1, s =>
    match (s.linkOf l).nextOut with
    | none => s
    | some o =>
      drainLink l n (freeBuffer o.from_
        (transmit l ((s.linkOf l).leaving o.flit) (setLink l (fun x => { x with waiting := dropOut o x.waiting }) s)))

/-- R267: a flit goes to a link's output; `p` is the receiver buffer it stands in until it leaves. -/
def queueFrom (p : Option (Nat × Nat)) (l : Nat) (f : Flit) (s : State) : State :=
  let x := s.linkOf l
  drainLink l (x.waiting.length + 1) (setLink l (fun x => { x with waiting := x.waiting ++ [{ flit := f, since := s.frm.tc, from_ := p }] }) s)

/-- R267: a flit of this device goes to a link's output. -/
def queueOn (l : Nat) (f : Flit) (s : State) : State := queueFrom none l f s

/-- Flits of the on-device network that carry an Ovilink flit between its ends on this device (R172, log 65). -/
def Flit.netFlits (f : Flit) : Nat := if f.ty = 2 || f.ty = 4 then 1 else 1 + (32 * (f.lenM1 + 1) + 63) / 64

/-- The light engine of a link (R8, R174). -/
def linkEndpoint (l : Nat) : Nat := lightEndpoint (l / 4)

/-! ## Routes (R274) -/

/-- The link set of a destination. -/
def State.fwdSet (s : State) (dest : Nat) : Nat := field (mapGet 0 s.lnk.fwd (dest / 2)) (32 * (dest % 2)) 32

/-- R274: the link a flit leaves on. -/
def State.routeTo (s : State) (dest endpoint : Nat) : Option Nat :=
  let set := s.fwdSet dest
  let ls := (List.range 32).filter (fun l => bit set l && (s.linkOf l).usable)
  match ls with
  | [] => none
  | _ => ls[endpoint % ls.length]?

/-- A flit is discarded for want of a route. -/
def countUnreachable (s : State) : State := { s with lnk := { s.lnk with unreachable := satAdd 16 s.lnk.unreachable 1 } }

/-- Sending a response or a status flit. -/
def sendResponse (f : Flit) (s : State) : State :=
  match s.routeTo f.dest f.endpoint with
  | some l => queueOn l f s
  | none => countUnreachable s

/-- An ACK flit of one record (Table 12.5) to the source of a request. -/
def ackFlit (own : Nat) (f : Flit) (status : Nat) : Flit :=
  { dest := f.src, src := own, endpoint := f.endpoint, ty := 4, scheduled := f.scheduled, vc := 0, lenM1 := 0, hops := 48,
    frame := 0, tag := f.tag, addr := 0, payload := leBytes 2 f.endpoint ++ leBytes 2 f.tag ++ [status, 0, 0, 0] }

/-! ## Answers to own requests (R271, R272) -/

/-- The entry of a request that is answered; the request is no longer outstanding. -/
def dropRequest (r : PeerReq) (s : State) : State :=
  { s with lnk := { s.lnk with requests := s.lnk.requests.filter (fun q => !(decide (q.endpoint = r.endpoint) && decide (q.tag = r.tag))) } }

/-- Table 12.5: descriptor fault of a status, 0 where the status raises none. -/
def statusFault (status : Nat) : Nat := if status = 0 || status = 7 then 0 else if status ≤ 4 then 4 else 7

/-- An answer reaches the requester on this device: a core's descriptor or the remote access. -/
def ownAnswer (endpoint tag status : Nat) (data : List Nat) (s : State) : State :=
  match s.lnk.requests.find? (fun r => decide (r.endpoint = endpoint) && decide (r.tag = tag)) with
  | none => s
  | some r =>
    let s := dropRequest r s
    if r.racc then
      let d := if status = 0 && !s.lnk.raccWrite then (List.range 4).map (fun i => leAt data (8 * i) 8) else s.lnk.raccData
      { s with lnk := { s.lnk with raccState := if status = 0 then 2 else 3, raccStatus := status, raccData := d } }
    else match s.entryOf r.core r.uid with
      | none => s
      | some e =>
        if status = 0 then gotPiece r.core r.uid s
        else if statusFault status = 0 then s
        else faultEntry r.core e (statusFault status) s

/-- R266, R274: a flit is lost: a request is answered UNREACHABLE to its source. -/
def loseFlit (own : Bool) (f : Flit) (s : State) : State :=
  if !f.request then s
  else if own then ownAnswer f.endpoint f.tag 6 [] s
  else sendResponse (ackFlit s.lnk.id f 6) s

/-- R274: a flit that cannot go on is counted and lost. -/
def discardFlit (own : Bool) (f : Flit) (s : State) : State := loseFlit own f (countUnreachable s)

/-- Sending an own request, which crosses the network to the light engine. -/
def sendRequest (f : Flit) (s : State) : State :=
  match s.routeTo f.dest f.endpoint with
  | some l => queueOn l f (crossNet f.endpoint (linkEndpoint l) f.netFlits s)
  | none => discardFlit true f s

/-- Requests of an endpoint without an answer. -/
def State.peerOut (s : State) (endpoint : Nat) : Nat := (s.lnk.requests.filter (fun r => decide (r.endpoint = endpoint))).length

/-- A request to a peer is issued under the next tag. -/
def issueRequest (r : PeerReq) (f : Flit) (s : State) : State :=
  let tag := s.lnk.nextTag
  sendRequest { f with tag := tag, src := s.lnk.id }
    { s with lnk := { s.lnk with nextTag := (tag + 1) % 65536, requests := s.lnk.requests ++ [{ r with tag := tag, at_ := s.frm.tc }] } }

/-! ## Peer SENDs (R58, R269, R271) -/

/-- A run of bytes cut at 256-byte boundaries of the peer's address. -/
def peerPieces : Nat → Nat → Nat → Nat → List Piece
  | 0, _, _, _ => []
  | fuel + 1, a, len, l =>
    let n := min len (256 - a % 256)
    if len = 0 then [] else { addr := a, len := n, local_ := l } :: peerPieces fuel (a + n) (len - n) (l + n)

/-- The pieces of a SEND to a peer. -/
def sendPeerPieces (w0 w1 : Nat) : List Piece :=
  let len := 32 * field w0 5 12
  peerPieces (len / 256 + 2) (32 * field w1 13 35) len (32 * field w0 17 15)

/-- R271: the next pieces go out while fewer than 256 requests of the core are out. `parity` is a parity error in a byte
that is read from the core store for them (R53). -/
def issuePeer (n uid : Nat) (parity : Bool) : List Piece → State → State
  | [], s => s
  | p :: t, s =>
    match s.entryOf n uid with
    | none => s
    | some e =>
      if 256 ≤ s.peerOut n then s
      else if parity then faultEntry n e 1 s
      else
        let sch := bit e.w0 3
        let s := updEntry n uid (fun e => { e with issued := e.issued + 1 }) s
        issuePeer n uid parity t (issueRequest { endpoint := n, tag := 0, device := field e.w1 48 16, core := n, uid := uid, racc := false, at_ := 0 }
          { dest := field e.w1 48 16, src := 0, endpoint := n, ty := 1, scheduled := sch, vc := 0, lenM1 := p.len / 32 - 1, hops := 48,
            frame := if sch then s.frameTag else 0, tag := 0, addr := p.addr, payload := s.storeBytes n p.local_ p.len } s)

/-- The pieces of a peer SEND that are still to be issued. -/
def issuePeerRest (n uid : Nat) (parity : Bool) (s : State) : State :=
  match s.entryOf n uid with
  | none => s
  | some e => issuePeer n uid parity ((sendPeerPieces e.w0 e.w1).drop e.issued) s

/-- Stalled peer SENDs of a core go on when a request has been answered. -/
def resumePeer (endpoint : Nat) (parity : Bool) (s : State) : State :=
  match (s.coreRec endpoint).queue.find? (fun e => e.started && !e.done && decide (kindOf e.w0 = 3) &&
      decide (field e.w0 3 2 ≠ 0) && decide (e.issued < e.need)) with
  | none => s
  | some e => issuePeerRest endpoint e.uid parity s

/-- A request of this device is without an answer. -/
def State.asked (s : State) (endpoint tag : Nat) : Bool :=
  s.lnk.requests.any (fun r => decide (r.endpoint = endpoint) && decide (r.tag = tag))

/-- An answer from link `l` with what it lets go on; it crosses the network to its requester. -/
def takeAnswer (l endpoint tag status : Nat) (data : List Nat) (parity : Bool) (s : State) : State :=
  let s := if s.asked endpoint tag then crossNet (linkEndpoint l) endpoint (1 + (data.length + 63) / 64) s else s
  resumePeer endpoint parity (ownAnswer endpoint tag status data s)

/-- Members of the lockstep group besides this device. -/
def State.otherMembers (s : State) : List Nat :=
  match s.inForceImage with
  | some i => (i.memberIds.foldl (fun l m => insertRising m l) []).filter (fun m => decide (m ≠ s.lnk.id))
  | none => []

/-- R58, R269, R284: a SEND to a peer device. Without an own ID, or for a scheduled SEND outside the group, it raises
fault 0x07. -/
def sendToPeer (n : Nat) (e : QEntry) (s : State) : State :=
  let dev := field e.w1 48 16
  if !s.lnk.assigned || (bit e.w0 3 && !s.otherMembers.contains dev) then faultEntry n e 7 s
  else
    let ps := sendPeerPieces e.w0 e.w1
    issuePeerRest n e.uid false (updEntry n e.uid (fun x => { x with need := ps.length }) s)

/-- R58: SEND. `parity` is a parity error in a byte it reads from the core store. -/
def doSend (n : Nat) (parity : Bool) (s : State) : State :=
  runUnit n .message (fun e => decide (kindOf e.w0 = 3)) parity
    (fun e s => if field e.w0 3 2 = 0 then sendToRole n e s else sendToPeer n e s) s

/-- R58. -/
def execSend (n : Nat) (parity : Bool) (s : State) : Host.Outcome State Fault Refusal :=
  onUnit (n < coreCount) (doSend n parity s)

/-! ## Links going down (R259, R263, R266) -/

/-- R263: a link the image requires has gone below its minimum in a frame. -/
def noteLoss (l : Nat) (s : State) : State :=
  setLink l (fun x => { x with lost := x.lost || (s.kpr.state == .running && x.required &&
    (decide (x.state ≠ .up) || decide (x.width < x.minWidth))) }) s

/-- A request flit is this device's own. -/
def State.ownFlit (s : State) (f : Flit) : Bool := decide (f.src = s.lnk.id) && s.lnk.assigned

/-- R266: what was in the replay buffer of a link that went down is lost. -/
def discardAll : List Flit → State → State
  | [], s => s
  | f :: t, s => discardAll t (loseFlit (s.ownFlit f) f s)

/-- R274: a flit that waited at a link that went down takes another link of its set, or is discarded. -/
def reroute : List OutFlit → State → State
  | [], s => s
  | o :: t, s => reroute t (match s.routeTo o.flit.dest o.flit.endpoint with
    | some l => queueFrom o.from_ l o.flit s
    | none => freeBuffer o.from_ (discardFlit (s.ownFlit o.flit) o.flit s))

/-- Flits that came from a link that is down stand in no receiver buffer of it any more. -/
def leaveBuffers (l : Nat) (s : State) : State :=
  { s with lnk := { s.lnk with links := s.lnk.links.map (fun x => { x with waiting := x.waiting.map (fun o =>
      if o.from_.any (fun p => decide (p.1 = l)) then { o with from_ := none } else o) }) } }

/-- A link goes down into a state: its buffers empty, UNREACHABLE is answered for the requests in its replay buffer, and
flits that have not left take another route (log 87). -/
def linkDown (l : Nat) (st : LinkState) (s : State) : State :=
  let x := s.linkOf l
  let s := setLink l (fun x => { x with
    state := st, width := 0, lanesUsed := 0, replay := [], waiting := [], usedCredits := [0, 0, 0, 0], owed := [0, 0],
    sendSeq := 0, expectSeq := 0, again := 0, symbol := none, addLanes := 0, newLanes := 0, newAt := []
    neighbourKnown := false }) s
  let s := leaveBuffers l s
  noteLoss l (reroute ((x.waiting.map (fun o => if o.from_.any (fun p => decide (p.1 = l)) then { o with from_ := none } else o))) (discardAll (x.replay.map (fun f => f.flit)) s))

/-- R266: a quiesced link goes down once nothing is left in it. -/
def settleQuiesce (l : Nat) (s : State) : State :=
  let x := s.linkOf l
  if x.quiesce && (decide (x.state = .up) || decide (x.state = .wrongNeighbour)) && x.replay.isEmpty && x.waiting.isEmpty then
    linkDown l .quiesced s
  else s

/-! ## Frame-status records (Table 2.2) -/

/-- A frame-status record's bytes. -/
def statusRecord (device kind flags frame level start period : Nat) : List Nat :=
  leBytes 2 device ++ [kind, flags] ++ leBytes 8 frame ++ [level, 0, 0, 0] ++ leBytes 8 start ++ leBytes 4 period ++ leBytes 4 0

/-- A STATUS flit crosses the network from the planner to the light engine. -/
def sendStatusFlit (f : Flit) (s : State) : State :=
  match s.routeTo f.dest f.endpoint with
  | some l => queueOn l f (crossNet plannerEndpoint (linkEndpoint l) f.netFlits s)
  | none => countUnreachable s

/-- R270: a record goes to every other member, in ascending device ID, each in a STATUS flit of its own. -/
def sendStatus (record : List Nat) (s : State) : State :=
  if !s.lnk.assigned then s
  else
    let f : Flit := {
      dest := 0, src := s.lnk.id, endpoint := plannerEndpoint, ty := 5, scheduled := true, vc := 0, lenM1 := 0, hops := 48, frame := 0
      tag := 0, addr := 0, payload := record }
    s.otherMembers.foldl (fun s m => sendStatusFlit { f with dest := m } s) s

end Sys2Proof.Machine
end

