-- ==== Sys2Proof/Machine/Lanes.lean ====
section
/-! DEFINITION. Widths of Ovilink links and the neighbours they accept (R259 to R264). -/
namespace Sys2Proof.Machine

/-- R259: the width for a number of good lanes. -/
def widthFor (n : Nat) : Nat := if 16 ≤ n then 16 else if 8 ≤ n then 8 else if 4 ≤ n then 4 else 0

/-- The lowest `n` lanes of a set. -/
def lowestLanes (set n : Nat) : Nat := (((List.range 16).filter (fun i => bit set i)).take n).foldl (fun m i => m ||| 2 ^ i) 0

/-- Lanes of a link that may carry flits: good ones that have been so for 1 s and do not wait to be added (R262). -/
def Link.ready (x : Link) : Nat := x.lanesGood &&& (0xFFFF ^^^ (x.addLanes ||| x.newLanes))

/-- R264: the link's neighbour is one it accepts. -/
def Link.accepts (x : Link) : Bool := x.neighbourKnown && (x.expectAny || decide (x.neighbour = x.expected))

/-- R264: a trained link whose neighbour is not the one expected carries no flits: it holds what it has and counts as
down; with the right neighbour again it is up. -/
def judgeNeighbour (l : Nat) (s : State) : State :=
  let x := s.linkOf l
  if x.state = .up && !x.accepts then noteLoss l (setLink l (fun x => { x with state := .wrongNeighbour }) s)
  else if x.state = .wrongNeighbour && x.accepts then setLink l (fun x => { x with state := .up }) s
  else s

/-- R259, R261: a trained link takes the width of its lanes at once; without four it goes down. A reduction is counted
and told. -/
def rewidth (l : Nat) (s : State) : State :=
  let x := s.linkOf l
  if x.state = .up || x.state = .wrongNeighbour then
    let w := widthFor (popcount 16 x.ready)
    if w = x.width then setLink l (fun x => { x with lanesUsed := lowestLanes x.ready w }) s
    else
      let narrower := decide (w < x.width)
      let s := setLink l (fun x => { x with
        width := w, lanesUsed := lowestLanes x.ready w, widthDrops := if narrower then satAdd 16 x.widthDrops 1 else x.widthDrops }) s
      let s := if narrower then raise 0x0040 0 l [x.width, w] s else s
      if w = 0 then linkDown l .down s else noteLoss l s
  else s

/-- R262: the lanes that wait are added. -/
def addWaiting (l : Nat) (s : State) : State :=
  if (s.linkOf l).addLanes = 0 then s else rewidth l (setLink l (fun x => { x with addLanes := 0 }) s)

end Sys2Proof.Machine
end

