-- ==== Sys2Proof/Machine/Reports.lean ====
section
/-! DEFINITION. Events and frame reports (chapter 19): the EVT registers, signalling, and the frame report. -/
namespace Sys2Proof.Machine

/-! ## EVT registers (R397, R398, R412) -/

/-- R412: an EVT write outside HALTED. -/
def evtWrite (off v rw ro : Nat) (body : State → State) (s : State) : State :=
  regWrite off v rw ro (inState off v [.rom, .staging, .ready, .checking, .running, .suspended] body) s

/-- A size that may be written: 6 to 16, or the reset value 0 (log 30). -/
def ringSizeOk (k : Nat) : Bool := decide (k = 0) || (decide (6 ≤ k) && decide (k ≤ 16))

/-- R398: `EVT.RING_BASE`. -/
def writeRingBase (v : Nat) (s : State) : State :=
  evtWrite 0x100000 v (2 ^ 64 - 4096 + 31) 0 (fun s =>
    if s.evt.enable then refuse 0x100000 v 0x0120 s
    else if !ringSizeOk (field v 0 5) then refuse 0x100000 v 0x0123 s
    else { s with evt := { s.evt with ringAddr := v / 4096, sizeLog2 := field v 0 5 } }) s

/-- R398: `EVT.CTRL`. A change of enable from 0 to 1 starts the ring at slot 0 with phase 1. -/
def writeEvtCtrl (v : Nat) (s : State) : State :=
  evtWrite 0x100008 v (2 ^ 63 + (2 ^ 48 - 2 ^ 16) + 3) 0 (fun s =>
    if 64 ≤ field v 40 8 then refuse 0x100008 v 0x0123 s
    else
      let start := bit v 63 && !s.evt.enable
      if start && (decide (s.evt.sizeLog2 < 6) || decide (16 < s.evt.sizeLog2) || decide (s.evt.ringAddr = 0)) then
        refuse 0x100008 v 0x0123 s
      else
        let s := { s with evt := { s.evt with
          enable := bit v 63, vector := field v 40 8, coalN := field v 32 8, coalUs := field v 16 16, minSev := field v 0 2 } }
        if start then flushEvents { s with evt := { s.evt with tail := 0, head := 0, phase := true } } else s) s

/-- R397: `EVT.HEAD`. -/
def writeEvtHead (v : Nat) (s : State) : State :=
  evtWrite 0x100010 v 0xFFFF 0 (fun s =>
    let n := s.ringSize
    if n ≤ v || (s.evt.tail + n - s.evt.head % n) % n < (v + n - s.evt.head % n) % n then refuse 0x100010 v 0x0123 s
    else flushEvents { s with evt := { s.evt with head := v } }) s

/-- R412: `EVT.REPORT_BASE`. -/
def writeReportBase (v : Nat) (s : State) : State :=
  evtWrite 0x100100 v (2 ^ 64 - 4096 + 15) 0 (fun s =>
    if 8 < field v 0 4 then refuse 0x100100 v 0x0123 s
    else { s with evt := { s.evt with rep := { s.evt.rep with base := v / 4096, slotsLog2 := field v 0 4 } } }) s

/-- R412: `EVT.REPORT_CTRL`. -/
def writeReportCtrl (v : Nat) (s : State) : State :=
  evtWrite 0x100108 v (2 ^ 64 - 2 ^ 23) 0 (fun s =>
    if field v 40 8 < 16 || 24 < field v 40 8 || 64 ≤ field v 24 8 then refuse 0x100108 v 0x0123 s
    else { s with evt := { s.evt with rep := { s.evt.rep with
      every := field v 48 16, slotLog2 := field v 40 8, sections := field v 32 8, vector := field v 24 8,
      signal := bit v 23 } } }) s

/-- R412: `EVT.AMAX_SEL`. -/
def writeAmaxSel (v : Nat) (s : State) : State :=
  evtWrite 0x100118 v (2 ^ 64 - 1) 0 (fun s => { s with evt := { s.evt with rep := { s.evt.rep with amax := v } } }) s

/-- R412: `EVT.REGION_SEL[i]`. -/
def writeRegionSel (i v : Nat) (s : State) : State :=
  evtWrite (0x100140 + 8 * i) v (2 ^ 64 - 1) 0 (fun s =>
    { s with evt := { s.evt with rep := { s.evt.rep with regions := setNth s.evt.rep.regions i v } } }) s

/-- R398: a write of EVT.CTRL that sets enable. -/
def doEvtEnable (v : Nat) (s : State) : State := writeEvtCtrl (v % 2 ^ 63 + 2 ^ 63) s

/-- R398. -/
def execEvtEnable (v : Nat) (s : State) : Host.Outcome State Fault Refusal := .next (doEvtEnable (v % 2 ^ 64) s)

/-- R398: a write of EVT.CTRL that clears enable. -/
def doEvtDisable (v : Nat) (s : State) : State := writeEvtCtrl (v % 2 ^ 63) s

/-- R398. -/
def execEvtDisable (v : Nat) (s : State) : Host.Outcome State Fault Refusal := .next (doEvtDisable (v % 2 ^ 64) s)

/-- R397: a write of EVT.HEAD. -/
def doEvtHeadWrite (v : Nat) (s : State) : State := writeEvtHead v s

/-- R397. -/
def execEvtHeadWrite (v : Nat) (s : State) : Host.Outcome State Fault Refusal := .next (doEvtHeadWrite (v % 2 ^ 64) s)

/-- R403: coalesce_us have passed since the first record that is not signalled. -/
def doEvtCoalesceTimeout (s : State) : State :=
  if decide (0 < s.evt.unsignalled) && decide (0 < s.evt.coalUs) && decide (s.evt.unsignalledAt + s.evt.coalUs * tcUs ≤ s.frm.tc) then
    signalMsix s.evt.vector { s with evt := { s.evt with unsignalled := 0 } }
  else s

/-- R403. -/
def execEvtCoalesceTimeout (s : State) : Host.Outcome State Fault Refusal := .next (doEvtCoalesceTimeout s)

/-! ## Entries of the report's sections (Table 19.6) -/

/-- Section 1: an incomplete role. -/
def incompleteEntry (x : Incomplete) : List Nat :=
  leBytes 4 x.role ++ leBytes 2 x.core ++ [x.slot, x.fault] ++ leBytes 2 x.index ++ List.replicate 6 0

/-- Table 5.5: one entry of an exception record; without its sticky bit only the frame shows. -/
def excBytes (frame : Nat) (e : ExcEntry) : List Nat :=
  if e.sticky then
    leBytes 4 e.count ++ leBytes 2 e.row ++ leBytes 2 e.col ++ [e.kblock % 256, 1 + 2 * e.pane] ++ leBytes 2 (e.desc % 4096)
      ++ leBytes 4 frame
  else List.replicate 12 0 ++ leBytes 4 frame

/-- Section 2: a context's exception record. -/
def excRecord (p : PubRec) : List Nat :=
  p.excs.flatMap (excBytes p.frame) ++ leBytes 2 p.core ++ [p.slot] ++ List.replicate 29 0

/-- Table 4.9: an amax record. -/
def amaxBytes (a : Amax) : List Nat :=
  leBytes 4 a.amax ++ leBytes 4 a.nans ++ leBytes 4 a.infs ++ leBytes 4 a.sats ++ leBytes 4 a.unders ++ leBytes 4 a.elements
    ++ leBytes 4 a.frame ++ [a.outFmt, a.flags, 0, 0]

/-- Section 8: an amax record with its place. -/
def amaxRecord (p : PubRec) (e : Nat × Amax) : List Nat :=
  amaxBytes e.2 ++ leBytes 2 p.core ++ [p.slot, e.1] ++ List.replicate 28 0

/-- Section 3: a region's clock record (Table 19.7). -/
def State.clockRecord (s : State) (frame r : Nat) : List Nat :=
  let st := mapGet stretch0 s.frm.stretch r
  let c := s.clkOf r
  let g := s.groupOf r
  let p := mapGet pair0 s.thm.regions r
  let flags := b2n (decide (c.source = 1)) + 2 * b2n p.held + 4 * b2n p.demoted + 8 * b2n p.raised
    + 16 * b2n g.dutyLimited + 32 * b2n (s.dark r)
  leBytes 4 st.lastLoss ++ leBytes 2 st.worstSlat ++ [if c.source < 2 then c.divisor else 0, flags] ++ leBytes 4 c.plus1
    ++ leBytes 4 c.plus2 ++ leBytes 4 g.shuntFires ++ leBytes 2 st.lastOver ++ leBytes 2 r ++ leBytes 4 frame ++ leBytes 4 0

/-- Section 4: a pane's counter record (Table 5.4); a fenced pane reads 0. -/
def State.paneRecord (s : State) (frame n p : Nat) : List Nat :=
  if !s.paneGood n p then List.replicate 32 0
  else
    let c := (s.paneOf n p).last
    leBytes 4 c.issue ++ leBytes 4 c.held ++ leBytes 4 c.freezeA ++ leBytes 4 c.freezeB ++ leBytes 4 c.freezeD
      ++ leBytes 4 c.tail ++ leBytes 4 c.matmuls ++ leBytes 4 frame

/-- A count of cycles of waiting in the network in the ended frame: the model has no such cycles, and leaves it free
(log 65). -/
def State.netFree (s : State) (i : Nat) : Nat := Config.netCount s.net.waits i % 2 ^ 32

/-- Section 5: a region's network record (Table 8.7). -/
def State.netRecord (s : State) (frame r : Nat) : List Nat :=
  let c := mapGet netRec0 s.net.regionsLast r
  leBytes 4 c.flitsOut ++ leBytes 4 (s.netFree (8 * r + 1)) ++ leBytes 4 (s.netFree (8 * r + 2))
    ++ leBytes 4 (s.netFree (8 * r + 3)) ++ leBytes 4 c.aged ++ leBytes 4 c.suppressed ++ leBytes 4 c.replays ++ leBytes 4 frame

/-- Section 6: a sill's network record (Table 8.8). -/
def State.sillRecord (s : State) (frame k : Nat) : List Nat :=
  let c := nth ({} : SillRec) s.net.sillsLast k
  let i := 8 * (512 + k)
  leBytes 4 c.aFlits ++ leBytes 4 c.bFlits
    ++ leBytes 4 (s.netFree (i + 2)) ++ leBytes 4 (s.netFree (i + 3)) ++ leBytes 4 (s.netFree (i + 4))
    ++ leBytes 4 c.replays ++ leBytes 4 frame ++ leBytes 4 0

/-- Section 7: a region's walker record (Table 9.9). -/
def State.walkRecord (s : State) (frame r : Nat) : List Nat :=
  let c := (s.walkerOf r).last
  leBytes 4 c.lookups ++ leBytes 4 c.misses ++ leBytes 4 c.cycles ++ leBytes 4 c.faults0d ++ leBytes 4 c.faults0e
    ++ leBytes 4 c.sealWrites ++ leBytes 4 frame ++ leBytes 4 0

/-! ## Building the report (R405 to R409) -/

/-- Regions the settings select, in ascending number. -/
def RepSet.selected (r : RepSet) : List Nat := (List.range 512).filter (fun k => bit (nth 0 r.regions (k / 64)) (k % 64))

/-- The live records of the contexts on their cores as the frame ends, which its report takes. -/
def State.liveRecords (s : State) (frame : Nat) : List PubRec :=
  (s.cores.core.filter (fun e => decide (e.2.resident1 ≠ 0))).map (fun e =>
    let x := s.ctxOf e.1 (e.2.resident1 - 1)
    { core := e.1, slot := e.2.resident1 - 1, amax := x.amax, excs := x.excs, frame := frame })

/-- The eight sections' entries for a frame that has ended. -/
def State.reportEntries (s : State) (rep : RepSet) (frame : Nat) (pubs : List PubRec) : List (List (List Nat)) :=
  let rs := rep.selected
  let pubs := pubs.filter (fun p => rs.contains (regionOf p.core))
  [((s.frm.ended.incompletes.take 1024).map incompleteEntry),
   ((pubs.filter (fun p => p.excs.any (fun e => e.sticky))).map excRecord),
   rs.map (s.clockRecord frame),
   rs.flatMap (fun r => (coresOf r).flatMap (fun n => [s.paneRecord frame n 0, s.paneRecord frame n 1])),
   rs.map (s.netRecord frame),
   (List.range 4).map (s.sillRecord frame),
   (rs.filter (fun r => (s.poolIn r).isSome)).map (s.walkRecord frame),
   pubs.flatMap (fun p => (p.amax.filter (fun e => bit rep.amax e.1 && bit e.2.flags 0)).map (amaxRecord p))]

/-- Entry sizes of the sections. -/
def entrySizes : List Nat := [16, 128, 32, 32, 32, 32, 32, 64]

/-- R405: at the end of a frame that is to be reported its counters are taken; records published since the last report
are taken with them (R409). -/
def prepareReport (s : State) : State :=
  let rep := s.evt.repNow
  let k := s.frm.ended.number
  if rep.every = 0 || decide (k % rep.every ≠ 0) then s
  else
    let pubs := s.cores.published ++ s.liveRecords k
    { s with
      evt := { s.evt with prepared := s.evt.prepared ++ [{ rep := rep, frame := k, entries := s.reportEntries rep k pubs }] },
      cores := { s.cores with published := [] } }

/-- A report under construction: bytes after the header, directory, whether a section has been cut. -/
structure Layouting where
  body : List Nat := []
  dir : List Nat := []
  cut : Bool := false
  deriving DecidableEq, Repr

/-- R408: one section is laid out in what room the slot has left. -/
def layoutSection (sections slot i : Nat) (es : List (List Nat)) (l : Layouting) : Layouting :=
  if !bit sections i then { l with dir := l.dir ++ List.replicate 24 0 }
  else
    let size := nth 1 entrySizes i
    let off := 256 + l.body.length
    let take := if l.cut then 0 else min es.length ((slot - off) / size)
    let short := decide (take < es.length)
    let bytes := (es.take take).flatten
    { body := l.body ++ bytes ++ List.replicate ((32 - bytes.length % 32) % 32) 0,
      dir := l.dir ++ leBytes 4 off ++ leBytes 4 bytes.length ++ leBytes 4 take ++ leBytes 2 size ++ [i + 1, b2n short]
        ++ List.replicate 8 0,
      cut := l.cut || short }

/-- Bytes of a report from byte 8 on, and whether it was truncated; `f` is what is known of its frame. -/
def State.reportBytes (s : State) (f : FrameFacts) (p : Prepared) : List Nat × Bool :=
  let l := ((List.range 8).zip p.entries).foldl (fun l e => layoutSection p.rep.sections (2 ^ p.rep.slotLog2) e.1 e.2 l) {}
  let flags := b2n f.lockstep + 2 * b2n (!f.incompletes.isEmpty) + 4 * b2n f.lockstepFault + 8 * b2n f.confirmed + 16 * b2n l.cut
  (leBytes 8 f.start ++ leBytes 4 f.period ++ [f.level, flags, f.template, 0] ++ leBytes 4 f.incompletes.length
    ++ leBytes 4 f.faults ++ leBytes 4 f.fences ++ leBytes 4 f.overAllow
    ++ leBytes 8 (s.frm.overruns * 2 ^ 32 + s.frm.lockFaults) ++ List.replicate 16 0 ++ l.dir ++ l.body, l.cut)

/-- R406, R407: the outcome of a frame that has ended is known: its report starts, or is skipped. -/
def startReport (f : FrameFacts) (s : State) : State :=
  match s.evt.prepared.find? (fun p => decide (p.frame = f.number)) with
  | none => s
  | some p =>
    let s := { s with evt := { s.evt with prepared := s.evt.prepared.filter (fun p => decide (p.frame ≠ f.number)) } }
    if s.evt.running.isSome || !s.hif.bme then { s with evt := { s.evt with repSkipped := satAdd 16 s.evt.repSkipped 1 } }
    else
      let a := p.rep.base * 4096 + p.frame / p.rep.every % 2 ^ p.rep.slotsLog2 * 2 ^ p.rep.slotLog2
      let (bytes, cut) := s.reportBytes f p
      hostPut a (List.replicate 8 0xFF) { s with evt := { s.evt with
        running := some { addr := a, frame := p.frame, bytes := bytes, truncated := cut, vector := p.rep.vector, signal := p.rep.signal } } }

/-- R406: the report's writes complete: sections and header, then the frame number, then the signal. -/
def doReportDone (s : State) : State :=
  match s.evt.running with
  | none => s
  | some r =>
    if !s.hif.bme || s.kpr.state = .halted then s
    else
      let s := hostPut r.addr (leBytes 8 r.frame) (hostPut (r.addr + 8) r.bytes s)
      let s := { s with evt := { s.evt with
        running := none, repLast := r.frame % 2 ^ 32,
        repTruncated := if r.truncated then satAdd 16 s.evt.repTruncated 1 else s.evt.repTruncated } }
      if r.signal then signalMsix r.vector s else s

/-- R406. -/
def execReportDone (s : State) : Host.Outcome State Fault Refusal := .next (doReportDone s)

end Sys2Proof.Machine
end

