-- ==== Sys2Proof/Machine/Sampler.lean ====
section
/-! DEFINITION. The sampler of the request engine (R231 to R234), as functions of numbers alone. -/
namespace Sys2Proof.Machine

/-- What the service gives the sampler for one set. -/
structure SampleSet where
  vocabulary : Nat
  bias : List (Nat × Nat)   -- the named penalty table: token and FP32 bias
  recent : List Nat         -- the recent-token window before this position
  seq : Nat
  position : Nat
  key : Nat                 -- names the free errors of the exponentials
  deriving DecidableEq, Repr

/-- FP32 quotient, rounded to nearest even: 100 quotient bits and a sticky bit. -/
def f32Div (a b : Nat) : Nat :=
  match f32Val a, f32Val b with
  | .fin n m e, .fin k d f =>
    if d = 0 then layFP32.infCode (n != k)
    else
      let x := m * 2 ^ 100
      toF32 (.fin (n != k) (2 * (x / d) + b2n (decide (x % d ≠ 0))) (e - f - 101))
  | .inf n, .fin k _ _ => layFP32.infCode (n != k)
  | .fin n _ _, .inf k => layFP32.withSign (n != k) 0
  | _, _ => layFP32.canonNan

/-- Step 1 of R231: used entries below the vocabulary size whose logit is a number. -/
def keepCandidates (vocabulary : Nat) (l : List (Nat × Nat)) : List (Nat × Nat) :=
  l.filter (fun c => decide (c.1 ≠ 0xFFFFFFFF) && decide (c.1 < vocabulary) && !(f32Val c.2).isNan)

/-- The first token of a set that lies at or above the vocabulary size. -/
def outOfRange (vocabulary : Nat) (l : List (Nat × Nat)) : Option Nat :=
  (l.find? (fun c => decide (c.1 ≠ 0xFFFFFFFF) && decide (vocabulary ≤ c.1))).map (fun c => c.1)

/-- Step 2: infinities become the largest finite values. -/
def capLogit (c : Nat) : Nat := match f32Val c with | .inf n => layFP32.withSign n layFP32.maxCode | _ => c

/-- Steps 2 to 4 on one candidate. -/
def adjustLogit (x : SampleSet) (repetition : Nat) (c : Nat × Nat) : Nat × Nat :=
  let l := (x.bias.filter (fun e => decide (e.1 = c.1))).foldl (fun l e => f32Add l e.2) (capLogit c.2)
  if !x.recent.contains c.1 then (c.1, l)
  else if !bit l 31 && decide (l % 2 ^ 31 ≠ 0) then (c.1, f32Div l repetition)
  else (c.1, f32Mul l repetition)

/-- The order of steps 5 and 6: the larger logit first, ties to the lower token. -/
def before (a b : Nat × Nat) : Bool :=
  (f32Val b.2).lt (f32Val a.2) || (!(f32Val a.2).lt (f32Val b.2) && decide (a.1 < b.1))

/-- Insertion in that order. -/
def insertCandidate (c : Nat × Nat) : List (Nat × Nat) → List (Nat × Nat)
  | [] => [c]
  | d :: t => if before c d then c :: d :: t else d :: insertCandidate c t

/-- The candidates in that order. -/
def sortCandidates (l : List (Nat × Nat)) : List (Nat × Nat) := l.foldr insertCandidate []

/-- Step 7: the weight of a candidate, an FP32 code (the error of the exponential is free, log 29). -/
def candidateWeight (key temperature top i c : Nat) : Nat :=
  match f32Val (f32Div (f32Sub c top) temperature) with
  | .fin n m e => approxF32 key i false (expApprox n m e)
  | .inf true => 0
  | _ => layFP32.canonNan

/-- A non-negative FP32 code as a multiple of 2^−149. -/
def fixed149 (c : Nat) : Nat := match f32Val c with | .fin _ m e => m * 2 ^ (e + 149).toNat | _ => 0

/-- The shortest prefix of weights whose sum reaches `top_p` of the whole; at least one. -/
def prefixLen (topP total : Nat) : Nat → List Nat → Nat
  | _, [] => 0
  | sum, w :: t => if fixed149 topP * total ≤ (sum + w) * 2 ^ 149 then 1 else 1 + prefixLen topP total (sum + w) t

/-- Step 8: the first of the kept candidates whose running sum exceeds u of the kept sum, u in 2^−24. -/
def drawIndex (u total : Nat) : Nat → List Nat → Nat
  | _, [] => 0
  | _, [_] => 0
  | sum, w :: t => if u * total < (sum + w) * 2 ^ 24 then 0 else 1 + drawIndex u total (sum + w) t

/-- R232: u of a position, in 2^−24. -/
def drawU (seed seq position : Nat) : Nat := leNat (shake256Short 3 (leBytes 8 seed ++ leBytes 4 seq ++ leBytes 4 position))

/-- R231: the token sampled from one set; none where no candidate remains. -/
def sampleSet (x : SampleSet) (p : GenParams) (l : List (Nat × Nat)) : Option Nat :=
  let c := sortCandidates ((keepCandidates x.vocabulary l).map (adjustLogit x p.repetition))
  match c with
  | [] => none
  | top :: _ =>
    if p.temperature % 2 ^ 31 = 0 then some top.1
    else
      let c := if p.topK = 0 then c else c.take p.topK
      let w := (List.range c.length).map (fun i => fixed149 (candidateWeight x.key p.temperature top.2 i (nth (0, 0) c i).2))
      let w := w.take (prefixLen p.topP w.sum 0 w)
      some (nth (0, 0) c (drawIndex (drawU p.seed x.seq x.position) w.sum 0 w)).1

/-- R233: how many drafts are accepted, given the tokens sampled (none where a set gave none). -/
def acceptedDrafts : List (Option Nat) → List Nat → Nat
  | some s :: t, d :: ds => if s = d then 1 + acceptedDrafts t ds else 0
  | _, _ => 0

/-- The tokens sampled before the first set that gave none. -/
def sampledPrefix : List (Option Nat) → List Nat
  | some s :: t => s :: sampledPrefix t
  | _ => []

/-- The tokens up to and with the first stop token. -/
def cutAtStop (stops : List Nat) : List Nat → List Nat
  | [] => []
  | s :: t => if stops.contains s then [s] else s :: cutAtStop stops t

end Sys2Proof.Machine
end

