-- ==== Sys2Proof/Machine/Queues.lean ====
section
/-! DEFINITION. Queue pairs of the request engine (chapter 10): registers, doorbells, completions, acceptance of entries. -/
namespace Sys2Proof.Machine

/-! ## Access -/

/-- Queue pair `q`. -/
def State.qpOf (s : State) (q : Nat) : QPair := mapGet qpair0 s.req.qp q

/-- Changing one queue pair. -/
def setQp (q : Nat) (f : QPair → QPair) (s : State) : State :=
  { s with req := { s.req with qp := mapMod qpair0 s.req.qp q f } }

/-- Sequence context `n`. -/
def State.seqOf (s : State) (n : Nat) : Seq := mapGet seq0 s.req.seqs n

/-- Changing one sequence context. -/
def setSeq (n : Nat) (f : Seq → Seq) (s : State) : State :=
  { s with req := { s.req with seqs := mapMod seq0 s.req.seqs n f } }

/-- Entries of a queue pair. -/
def QPair.size (p : QPair) : Nat := 2 ^ p.sizeLog2

/-- CQ slots written and not released. -/
def QPair.usedSlots (p : QPair) : Nat := (p.cqTail + p.size - p.cqHead % p.size) % p.size

/-- CQ slots the engine may write: one stays empty, so that a full queue differs from an empty one (log 25). While Bus
Master Enable is 0 every CQ counts as full (R294). -/
def State.freeSlots (s : State) (q : Nat) : Nat :=
  let p := s.qpOf q
  if s.hif.bme then p.size - 1 - p.usedSlots else 0

/-! ## Completions (R213 to R217) -/

/-- Bytes 0 to 15 of a completion (Table 10.3). -/
def cqeHead (c : Cqe) (sqHead : Nat) (phase : Bool) : List Nat :=
  leBytes 4 c.tag ++ leBytes 4 c.seq ++ leBytes 2 c.reason ++ [c.status, c.count] ++ leBytes 2 sqHead
    ++ [c.flags, b2n phase]

/-- Bytes 16 to 63. -/
def cqeRest (c : Cqe) : List Nat := leBytes 4 c.committed ++ slice c.data 0 44

/-- R214, R217: one completion is written: bytes 16 to 63 first, then bytes 0 to 15, and the vector is signalled where
coalescing asks for it. -/
def writeCqe (q : Nat) (c : Cqe) (s : State) : State :=
  let p := s.qpOf q
  let a := p.cqBase * 4096 + 64 * p.cqTail
  let s := hostPut (a + 16) (cqeRest c) s
  let s := hostPut a (cqeHead c p.sqHead p.phase) s
  let tail := (p.cqTail + 1) % p.size
  let n := p.unsignalled + 1
  let now := decide (max 1 p.coalN ≤ n)
  let s := setQp q (fun p => { p with
    cqTail := tail, phase := if tail = 0 then !p.phase else p.phase, unsignalled := if now then 0 else n,
    unsignalledAt := if p.unsignalled = 0 then s.frm.tc else p.unsignalledAt }) s
  if now then signalMsix p.vector s else s

/-- R213: held completions are written in order while slots are free. -/
def flushCqes (q : Nat) : List Cqe → State → State
  | [], s => setQp q (fun p => { p with held := [] }) s
  | c :: t, s => if 0 < s.freeSlots q then flushCqes q t (writeCqe q c s) else setQp q (fun p => { p with held := c :: t }) s

/-- R213: the CQ of a queue pair takes no entry. -/
def State.cqFull (s : State) (q : Nat) : Bool := (s.qpOf q).enable && decide (s.freeSlots q = 0)

/-- Writing the completions a queue pair holds. -/
def flushCq (q : Nat) (s : State) : State := flushCqes q (s.qpOf q).held s

/-- A completion of a queue pair: written, or held while its CQ is full. A pair out of service takes none (R236). -/
def complete (q : Nat) (c : Cqe) (s : State) : State :=
  if (s.qpOf q).enable then flushCq q (setQp q (fun p => { p with held := p.held ++ [c] }) s) else s

/-- A completion that ends its submission, without tokens or data. -/
def lastCqe (tag seq reason status committed : Nat) : Cqe :=
  { tag := tag, seq := seq, reason := reason, status := status, count := 0, flags := 1, committed := committed, data := [] }

/-! ## Queue-pair registers (R209, R236) -/

/-- BAR0 offset of word `w` of queue pair `q`. -/
def qpOff (q w : Nat) : Nat := 0x401000 + 32 * q + 8 * w

/-- States in which queue-pair registers may be written. -/
def qpStates : List DevState := [.ready, .running, .suspended]

/-- R236: a write of word 0 or 1, a base. -/
def writeQpBase (q w v : Nat) (s : State) : State :=
  let p := s.qpOf q
  if !s.hostUp then s
  else if v % 4096 ≠ 0 || p.enable || p.busy || !s.inStates qpStates then refuse (qpOff q w) v 0x0730 s
  else if w = 0 then setQp q (fun p => { p with sqBase := v / 4096 }) s
  else setQp q (fun p => { p with cqBase := v / 4096 }) s

/-- Word 2 with its reserved bits clear and its fields in range; a size of 0 stands for no size yet. -/
def qpWord2Ok (v : Nat) : Bool :=
  decide (field v 48 15 = 0) && decide (field v 4 12 = 0) && decide (field v 40 8 < 64) &&
    (decide (field v 0 4 = 0) || (decide (4 ≤ field v 0 4) && decide (field v 0 4 ≤ 12)))

/-- Word 2 as it reads, without enable. -/
def QPair.word2 (p : QPair) : Nat := p.vector * 2 ^ 40 + p.coalN * 2 ^ 32 + p.coalUs * 2 ^ 16 + p.sizeLog2

/-- Taking the fields of word 2 other than enable. -/
def QPair.takeWord2 (p : QPair) (v : Nat) : QPair :=
  { p with vector := field v 40 8, coalN := field v 32 8, coalUs := field v 16 16, sizeLog2 := field v 0 4 }

/-! ## Freeing contexts (R218, R222, R236) -/

/-- A group of a pool: key of its share count. -/
def groupKey (pool tile group : Nat) : Nat := (pool * 32 + tile) * 4096 + group

/-- One share of a group goes. -/
def dropGroup (key : Nat) (s : State) : State :=
  { s with req := { s.req with usedGroups := mapSet 0 s.req.usedGroups key (mapGet 0 s.req.usedGroups key - 1) } }

/-- Pools of a pool set of the image in force. -/
def State.poolsOf (s : State) (j : Nat) : List (Nat × PoolRec) :=
  match s.inForceImage with
  | some i => i.setPools j
  | none => []

/-- Group keys of page `i`, one for each pool of its set. -/
def pageKeys (pools : List (Nat × PoolRec)) (i : Nat) (groups : List Nat) : List Nat :=
  (pools.zip groups).map (fun e => groupKey e.1.1 (i % max 1 e.1.2.tileCount) e.2)

/-- Every group key of a sequence: its pages and the seal groups that its steps hold or a lane left it (R227). -/
def State.seqKeys (s : State) (x : Seq) : List Nat :=
  let pools := s.poolsOf x.poolSet
  ((List.range x.pages.length).zip x.pages).flatMap (fun e => pageKeys pools e.1 e.2.groups)
    ++ x.steps.flatMap (fun t => match t.sealPage with | some i => pageKeys pools i t.sealGroups | none => [])
    ++ (match x.spareSeal with | some e => pageKeys pools e.1 e.2 | none => [])

/-- R222: a group lies in a fenced tile. -/
def State.keyFenced (s : State) (x : Seq) (key : Nat) : Bool :=
  (s.poolsOf x.poolSet).any (fun e => decide (e.1 = key / 4096 / 32) && s.tileFenced (nth 0 (coresOf e.2.region) (nth 0 e.2.tiles (key / 4096 % 32))))

/-- R236: busy falls when no context of a queue pair closes silently any more. -/
def settleBusy (q : Nat) (s : State) : State :=
  if s.req.seqs.any (fun e => decide (e.2.qp = q) && e.2.quiet) then s else setQp q (fun p => { p with busy := false }) s

/-- A context becomes FREE: its groups in tiles that are not fenced go (R222) and it leaves its ring. -/
def freeSeq (n : Nat) (s : State) : State :=
  let x := s.seqOf n
  let s := ((s.seqKeys x).filter (fun k => !s.keyFenced x k)).foldl (fun s k => dropGroup k s) s
  settleBusy x.qp { s with req := { s.req with
    seqs := mapDel s.req.seqs n,
    rings := mapMod [] s.req.rings x.poolSet (fun l => l.filter (fun m => decide (m ≠ n))) } }

/-- Work of a sequence: the tags of what runs and waits, in submission order. -/
def Seq.tags (x : Seq) : List Nat :=
  x.appends.map (fun a => a.tag) ++ (match x.gen with | some g => [g.tag] | none => [])
    ++ x.work.map (fun w => match w with | .append t _ _ => t | .generate t _ => t)

/-- Every command of a sequence ends with a status; its unprocessed tokens beyond a step under way go. The step keeps the
GENERATE it was cancelled from. -/
def endWork (n reason status : Nat) (s : State) : State :=
  let x := s.seqOf n
  let s := x.tags.foldl (fun s t => complete x.qp (lastCqe t n reason status x.len) s) s
  let ahead := ((x.steps.filter (fun t => !t.decode)).map (fun t => t.n)).foldl max 0
  setSeq n (fun x => { x with
    work := [], appends := [], gen := none, unprocessed := x.unprocessed.take ahead,
    steps := x.steps.map (fun t => { t with dead := true, gen := if t.dead then t.gen else x.gen }) }) s

/-- A fork that runs from or to a sequence. -/
def State.forkFrom (s : State) (n : Nat) : Bool := s.req.forks.any (fun f => decide (f.parent = n))

/-- R237: a closing sequence becomes FREE once no frame names it and no fork copies from it: its work completes ABORTED,
then the CLOSE completes OK. -/
def finishClose (n : Nat) (s : State) : State :=
  let x := s.seqOf n
  if x.state = .closing && x.steps.isEmpty && !s.forkFrom n then
    if x.quiet then freeSeq n s
    else
      let s := endWork n 0 0x07 s
      let s := match x.closeTag with
        | some t => complete x.qp (lastCqe t n 0 0 x.len) s
        | none => s
      freeSeq n s
  else s

/-- R236: one context of a pair that is taken out of service closes without completions. -/
def closeQuiet (n : Nat) (s : State) : State :=
  finishClose n (setSeq n (fun x => { x with
    state := .closing, quiet := true, closeTag := none, work := [], appends := [], gen := none,
    steps := x.steps.map (fun t => { t with dead := true }) }) s)

/-- R236: a pair is taken out of service. -/
def disableQp (q : Nat) (s : State) : State :=
  let s := setQp q (fun p => { p with enable := false, busy := true, held := [], parked := [], unsignalled := 0, fetchFailed := 0 }) s
  let kids := (s.req.forks.filter (fun f => decide (f.qp = q))).map (fun f => f.child)
  let s := { s with req := { s.req with
    opens := s.req.opens.filter (fun o => decide (o.qp ≠ q)), forks := s.req.forks.filter (fun f => decide (f.qp ≠ q)) } }
  let s := kids.foldl (fun s n => freeSeq n s) s
  let own := (s.req.seqs.filter (fun e => decide (e.2.qp = q))).map (fun e => e.1)
  settleBusy q (own.foldl (fun s n => closeQuiet n s) s)

/-- R236: a write of word 2. Over an enabled pair only enable counts (log 30). -/
def writeQp2 (q v : Nat) (s : State) : State :=
  let p := s.qpOf q
  let no := refuse (qpOff q 2) v 0x0730 s
  if !s.hostUp then s
  else if !s.inStates qpStates then no
  else if !bit v 63 then
    if p.enable then disableQp q s
    else if p.busy then (if v = p.word2 then s else no)
    else if qpWord2Ok v then setQp q (fun p => p.takeWord2 v) s else no
  else if !s.kpr.features.req then refuse (qpOff q 2) v 0x0610 s
  else if !qpWord2Ok v || decide (field v 0 4 = 0) || decide (p.sqBase = 0) || decide (p.cqBase = 0) then no
  else if (p.enable || p.busy) && decide (v % 2 ^ 63 ≠ p.word2) then no
  else if p.enable then s
  else setQp q (fun p => { p.takeWord2 v with
    enable := true, sqHead := 0, sqTail := 0, cqTail := 0, cqHead := 0, phase := true, held := [], parked := [], unsignalled := 0,
    fetchFailed := 0 }) s

/-- R236: a write that sets enable. -/
def doQpEnable (q v : Nat) (s : State) : State := writeQp2 q (v % 2 ^ 63 + 2 ^ 63) s

/-- R236: a queue pair and the value written. -/
def execQpEnable (q v : Nat) (s : State) : Host.Outcome State Fault Refusal := onUnit (q < 256) (doQpEnable q (v % 2 ^ 64) s)

/-- R236: a write that clears enable. -/
def doQpDisable (q v : Nat) (s : State) : State := writeQp2 q (v % 2 ^ 63) s

/-- R236. -/
def execQpDisable (q v : Nat) (s : State) : Host.Outcome State Fault Refusal :=
  onUnit (q < 256) (doQpDisable q (v % 2 ^ 64) s)

/-! ## Doorbells (R210, R211, R215) -/

/-- Unit of a refused BAR4 write (Table 19.4). -/
def bar4Unit : Nat := 0xFFFFFFFE

/-- R289: BAR4 takes aligned writes of 4 or 8 bytes. -/
def barWidth (off width : Nat) : Bool := (decide (width = 4) || decide (width = 8)) && decide (off % width = 0)

/-- R288, R289: BAR4 decodes: not in ROM, STAGING or HALTED, nor in D3hot. -/
def State.bar4Live (s : State) : Bool := s.powered && !s.inStates [.rom, .staging] && !s.hif.d3hot

/-- R292: what a read of BAR4 returns, at any offset; none: it completes with Unsupported Request (R289). -/
def State.readBar4 (s : State) : Option Nat := if s.bar4Live then some 0 else none

/-- R210, R211: a write to the SQ tail doorbell: bits [11:0] are the new tail. -/
def sqTail (q v : Nat) (s : State) : State :=
  let p := s.qpOf q
  let i := v % 4096
  if !p.enable || decide (p.size ≤ i) then refuse bar4Unit v 0x0731 s
  else setQp q (fun p => { p with sqTail := i, fetchFailed := if p.fetchFailed = 3 then 0 else p.fetchFailed }) s

/-- R215: a write to the CQ head doorbell: a head beyond the last written entry is ignored. -/
def cqHead (q v : Nat) (s : State) : State :=
  let p := s.qpOf q
  let i := v % 4096
  if !p.enable || decide (p.size ≤ i) then refuse bar4Unit v 0x0731 s
  else if p.usedSlots < (i + p.size - p.cqHead) % p.size then refuse bar4Unit v 0x0732 s
  else flushCq q (setQp q (fun p => { p with cqHead := i }) s)

/-- R217: coalesce_us have passed since the first completion that is not signalled. -/
def doReqCoalesceTimeout (q : Nat) (s : State) : State :=
  let p := s.qpOf q
  if p.enable && decide (0 < p.unsignalled) && decide (0 < p.coalUs) && decide (p.unsignalledAt + p.coalUs * tcUs ≤ s.frm.tc) then
    signalMsix p.vector (setQp q (fun p => { p with unsignalled := 0 }) s)
  else s

/-- R217. -/
def execReqCoalesceTimeout (q : Nat) (s : State) : Host.Outcome State Fault Refusal :=
  onUnit (q < 256) (doReqCoalesceTimeout q s)

/-- R305: the retry of a failed SQ fetch goes out 1 ms after it. -/
def doSqFetchRetry (q : Nat) (s : State) : State :=
  let p := s.qpOf q
  if p.enable && decide (p.fetchFailed = 1) && decide (p.failedAt + tcMs ≤ s.frm.tc) then
    setQp q (fun p => { p with fetchFailed := 2 }) s
  else s

/-- R305. -/
def execSqFetchRetry (q : Nat) (s : State) : Host.Outcome State Fault Refusal := onUnit (q < 256) (doSqFetchRetry q s)

/-! ## Acceptance (R212, R235) -/

/-- R212: a queue pair has an entry that the engine can read. -/
def State.hasEntry (s : State) (q : Nat) : Bool :=
  let p := s.qpOf q
  p.enable && decide (p.sqHead ≠ p.sqTail) && s.hif.bme && (decide (p.fetchFailed = 0) || decide (p.fetchFailed = 2)) &&
    s.inStates [.ready, .checking, .running, .suspended]

/-- R212: the queue pair that the engine reads next: the one whose turn it is for up to 16 entries, then the next in
rotation that has one. -/
def State.nextPair (s : State) : Option Nat :=
  if s.hasEntry s.req.turn && decide (s.req.taken < 16) then some s.req.turn
  else ((List.range 256).map (fun i => (s.req.turn + 1 + i) % 256)).find? s.hasEntry

/-- R212: the engine reads the next entry of a queue pair now. -/
def State.canFetch (s : State) (q : Nat) : Bool := decide (s.nextPair = some q)

/-- R212: the head passes an entry of a queue pair. -/
def passHead (q : Nat) (s : State) : State :=
  let more := decide (s.req.turn = q) && decide (s.req.taken < 16)
  setQp q (fun p => { p with sqHead := (p.sqHead + 1) % p.size, fetchFailed := 0 })
    { s with req := { s.req with turn := q, taken := if more then s.req.taken + 1 else 1 } }

/-- Fields of a submission entry. -/
def entryTag (b : List Nat) : Nat := leAt b 4 4
/-- Sequence an entry names. -/
def entrySeq (b : List Nat) : Nat := leAt b 8 4

/-- Table 10.7: the reason a command is refused in the present state, 0 where it is served. -/
def State.stateReason (s : State) (anyTime : Bool) : Nat :=
  match s.kpr.state with
  | .running => if s.req.serving then 0 else 0x0704
  | .suspended => if anyTime then 0 else 0x0702
  | _ => 0x0701

/-- Bytes that must be 0: given as offset and count. -/
def allZero (b : List Nat) (l : List (Nat × Nat)) : Bool := l.all (fun e => (slice b e.1 e.2).all (fun x => decide (x = 0)))

/-- R235: an accepted entry is served. `run` acts on what the entry asks for; a reserved field is refused first after the
state (log 27). -/
def serve (q : Nat) (b : List Nat) (anyTime : Bool) (reserved : List (Nat × Nat)) (known : Bool) (run : State → State)
    (s : State) : State :=
  let r := s.stateReason anyTime
  if r ≠ 0 then complete q (lastCqe (entryTag b) (entrySeq b) r 0x01 0) s
  else if !known || !allZero b reserved then complete q (lastCqe (entryTag b) (entrySeq b) 0x0720 0x02 0) s
  else run s

/-- R218: an entry acts on a sequence of its own queue pair; any other is UNKNOWN. -/
def withSeq (q : Nat) (b : List Nat) (run : Nat → Seq → State → State) (s : State) : State :=
  let n := entrySeq b
  let x := s.seqOf n
  if x.state = .free || decide (x.qp ≠ q) || s.req.forks.any (fun f => decide (f.child = n)) then
    complete q (lastCqe (entryTag b) n 0x0721 0x04 0) s
  else run n x s

/-- The 64 bytes of an entry with its opcode; a shorter list goes on with zeros. -/
def entryBytes (op : Nat) (b : List Nat) : List Nat := op % 256 :: toBytes (slice b 1 63)

/-- The opcode of an entry that is served as QUERY is: QUERY's own, or one that no row has. -/
def queryOpcode (b : List Nat) : Nat :=
  let o := nth 0 b 0 % 256
  if 1 ≤ o ∧ o ≤ 5 then 6 else o

end Sys2Proof.Machine
end

