-- ==== Sys2Proof/Machine/Request.lean ====
section
/-! DEFINITION. The request engine (chapter 10): commands, admission, settling, lane filling, damage. -/
namespace Sys2Proof.Machine

/-! ## Sequences (R220, R221) -/

/-- The tokens beyond the committed length, p first; one that is still in the host's buffer is none. -/
def Seq.known (x : Seq) : List (Option Nat) := x.pending.toList.map some ++ x.unprocessed

/-- Table 10.6: the state of a context. -/
def State.seqState (s : State) (n : Nat) : SeqState :=
  let x := s.seqOf n
  if x.state ≠ .idle then x.state
  else if s.forkFrom n then .forking
  else if 2 ≤ x.known.length then .prefill
  else if x.gen.isSome && x.pending.isSome && x.unprocessed.isEmpty then .decode
  else .idle

/-- A context may take a lane. -/
def SeqState.runnable (x : SeqState) : Bool := decide (x = .prefill) || decide (x = .decode)

/-- R221: maximum length of a pool set. -/
def State.maxLen (s : State) (j : Nat) : Nat :=
  match s.poolsOf j with
  | e :: _ => 64 * e.2.maxPages
  | [] => 0

/-- R220: tokens join the recent-token window. -/
def Seq.remember (x : Seq) (l : List Nat) : Seq :=
  { x with recent := (x.recent ++ l).drop ((x.recent ++ l).length - 64) }

/-- The tokens beyond the committed length become `l`, whose first is the pending token once it has been read. A token
joins the recent-token window as it becomes pending. -/
def Seq.withKnown (x : Seq) (l : List (Option Nat)) : Seq :=
  match l with
  | some t :: u => { (if x.pending.isSome then x else x.remember [t]) with pending := some t, unprocessed := u }
  | l => { x with pending := none, unprocessed := l }

/-- Tokens join the unprocessed list; without a pending token the first becomes it. -/
def Seq.addTokens (x : Seq) (l : List (Option Nat)) : Seq := x.withKnown (x.known ++ l)

/-- An APPEND that has been served completes. -/
def completeAppends (n : Nat) : List AppendRun → State → State
  | [], s => setSeq n (fun x => { x with appends := [] }) s
  | a :: t, s =>
    if a.left = 0 then completeAppends n t (complete (s.seqOf n).qp (lastCqe a.tag n 0 0 (s.seqOf n).len) s)
    else setSeq n (fun x => { x with appends := a :: t }) s

/-- The work at the head of a sequence's queue starts, in submission order: APPENDs until a GENERATE, which starts when
every appended token is processed. A GENERATE that cannot add a position ends with LENGTH, and so does an APPEND that a
GENERATE before it has left no room for (log 115). -/
def startWork (n : Nat) : List Work → State → State
  | [], s => setSeq n (fun x => { x with work := [] }) s
  | .append tag l a :: t, s =>
    let x := s.seqOf n
    if x.gen.isSome then setSeq n (fun x => { x with work := .append tag l a :: t }) s
    else if s.maxLen x.poolSet < x.len + x.known.length + l.length - 1 then
      startWork n t (complete x.qp (lastCqe tag n 0 0x06 x.len) s)
    else
      let left := x.known.length + l.length - 1
      let s := setSeq n (fun x => { x.addTokens l with appends := x.appends ++ [{ tag := tag, left := left, buffer := a }] }) s
      startWork n t (completeAppends n (s.seqOf n).appends s)
  | .generate tag p :: t, s =>
    let x := s.seqOf n
    if x.gen.isSome || x.pending.isNone || !x.unprocessed.isEmpty then setSeq n (fun x => { x with work := .generate tag p :: t }) s
    else if s.maxLen x.poolSet < x.len + 1 then startWork n t (complete x.qp (lastCqe tag n 0 0x06 x.len) s)
    else
      setSeq n (fun x => { x with
        work := t, gen := some { tag := tag, p := p, remaining := p.n, proposals := [], first := true } }) s

/-- R221: a GENERATE whose next step cannot add one position ends with LENGTH. -/
def endFull (n : Nat) (s : State) : State :=
  let x := s.seqOf n
  match x.gen with
  | some g => if s.maxLen x.poolSet < x.len + 1 then
      complete x.qp (lastCqe g.tag n 0 0x06 x.len) (setSeq n (fun x => { x with gen := none }) s) else s
  | none => s

/-- Starting what can start; while a fork copies from the sequence its work waits. -/
def advance (n : Nat) (s : State) : State :=
  if (s.seqOf n).state = .idle && !s.forkFrom n then startWork n (s.seqOf n).work s else s

/-! ## Commands (Tables 10.2 to 10.5) -/

/-- The pool sets the service uses. -/
def State.serviceSets (s : State) : List Nat := match s.inForceImage with | some i => i.serviceSets | none => []

/-- A SERVICE field of the image in force. -/
def State.serviceLe (s : State) (off n : Nat) : Nat := match s.inForceImage with | some i => i.serviceLe off n | none => 0

/-- R223: OPEN waits for an admission pass. -/
def openBody (q : Nat) (b : List Nat) (s : State) : State :=
  let j := leAt b 16 1
  if j ≠ 0xFF && !s.serviceSets.contains j then complete q (lastCqe (entryTag b) (entrySeq b) 0x0726 0x02 0) s
  else
    let o : OpenReq := { tag := entryTag b, qp := q, poolSet := j, wait := leAt b 18 2, frame := s.frm.count }
    { s with req := { s.req with opens := s.req.opens ++ [o] } }

/-- Entries of the work queue in use (R218): those that wait and those that run. -/
def Seq.workUsed (x : Seq) : Nat := x.tags.length

/-- A work item joins a sequence's queue, or the command completes LOST, BUSY, INVALID or LENGTH. `bad` is the reason its
own fields are refused with, 0 for none. -/
def queueWork (q : Nat) (b : List Nat) (bad : Nat) (w : Work) (long : Seq → State → Bool) (s : State) : State :=
  withSeq q b (fun n x s =>
    if x.state = .damaged then complete q (lastCqe (entryTag b) n 0 0x09 x.len) s
    else if x.state ≠ .idle then complete q (lastCqe (entryTag b) n 0 0x05 x.len) s
    else if 4 ≤ x.workUsed then complete q (lastCqe (entryTag b) n 0x0722 0x05 x.len) s
    else if bad ≠ 0 then complete q (lastCqe (entryTag b) n bad 0x02 x.len) s
    else if long x s then complete q (lastCqe (entryTag b) n 0 0x06 x.len) s
    else advance n (setSeq n (fun x => { x with work := x.work ++ [w] }) s)) s

/-- Tokens of APPENDs that wait in a work queue. -/
def Seq.queuedTokens (x : Seq) : Nat := (x.work.map (fun w => match w with | .append _ l _ => l.length | .generate _ _ => 0)).sum

/-- R221: an APPEND that would take a sequence past its maximum length. -/
def appendTooLong (count : Nat) (x : Seq) (s : State) : Bool :=
  decide (s.maxLen x.poolSet < x.len + x.unprocessed.length + x.queuedTokens + count)

/-- The tokens of an APPEND: inline, or to be read from its host buffer as its steps need them. -/
def appendTokens (b : List Nat) : List (Option Nat) :=
  let n := leAt b 16 4
  if n ≤ 8 then (List.range n).map (fun i => some (leAt b (32 + 4 * i) 4)) else List.replicate n none

/-- R221, Table 10.5: APPEND. -/
def appendBody (q : Nat) (b : List Nat) (s : State) : State :=
  let n := leAt b 16 4
  let bad := if n = 0 || 65535 < n || (8 < n && leAt b 24 8 % 4 ≠ 0) then 0x0725 else 0
  let l := if bad = 0 then appendTokens b else []
  queueWork q b bad (.append (entryTag b) l (leAt b 24 8)) (appendTooLong n) s

/-- Tokens of `l` that have not been read take, in order, what the host's buffer holds (nothing listed reads as 0). -/
def readTokens : List (Option Nat) → List Nat → List (Option Nat)
  | [], _ => []
  | some t :: u, r => some t :: readTokens u r
  | none :: u, r => some (nth 0 r 0 % 2 ^ 32) :: readTokens u r.tail

/-- R218: a read of the host buffer of a sequence's APPEND fails: the APPEND completes HOST_FAULT. The tokens read so far
stay, the others go; what was appended after them follows (log 116). -/
def hostFault (n : Nat) (s : State) : State :=
  let x := s.seqOf n
  let i := x.known.findIdx (fun t => t.isNone)
  match x.appends.find? (fun a => decide (i ≤ a.left)) with
  | none => s
  | some a =>
    if x.known.length ≤ i then s
    else
      let gone := a.left + 1 - i
      let s := setSeq n (fun x => { x.withKnown (x.known.take i ++ x.known.drop (a.left + 1)) with
        appends := (x.appends.filter (fun c => decide (c.left ≠ a.left))).map (fun c =>
          if a.left < c.left then { c with left := c.left - gone } else c) }) s
      advance n (complete x.qp (lastCqe a.tag n 0 0x0A x.len) s)

/-- The parameters of a GENERATE. -/
def parseGen (b : List Nat) : GenParams :=
  { n := leAt b 16 4, temperature := leAt b 20 4, topP := leAt b 24 4, topK := leAt b 28 2, maxDrafts := leAt b 30 1,
    penalty := leAt b 31 1, repetition := leAt b 32 4, stop := leAt b 36 1, seed := leAt b 40 8 }

/-- Table 10.2: the parameters lie in their ranges; FP32 values are compared by their codes. -/
def State.genOk (s : State) (p : GenParams) : Bool :=
  decide (1 ≤ p.n) && decide (p.n ≤ 65535) &&
    (decide (p.temperature = 0) || (decide (0x37800000 ≤ p.temperature) && decide (p.temperature ≤ 0x43800000))) &&
    decide (0 < p.topP) && decide (p.topP ≤ 0x3F800000) && decide (p.topK ≤ 256) && decide (p.maxDrafts ≤ s.req.draftsMax) &&
    (decide (p.penalty = 0xFF) || decide (p.penalty < s.serviceLe 14 1)) &&
    decide (0x3F800000 ≤ p.repetition) && decide (p.repetition ≤ 0x41800000) &&
    (decide (p.stop = 0xFF) || decide (p.stop < s.serviceLe 15 1))

/-- R232: GENERATE. -/
def generateBody (q : Nat) (b : List Nat) (s : State) : State :=
  let p := parseGen b
  queueWork q b (if s.genOk p then 0 else 0x0724) (.generate (entryTag b) p) (fun _ _ => false) s

/-! ## Free contexts, page-table slots and groups -/

/-- Page-table words of a sequence in a pool. -/
def PoolRec.ptWords (p : PoolRec) : Nat := (p.maxPages + 15) / 16

/-- Page-table slots of a pool. -/
def PoolRec.ptSlots (p : PoolRec) : Nat := p.ptLen / (32 * max 1 p.ptWords)

/-- Free contexts. -/
def State.freeContexts (s : State) : List Nat := (List.range s.req.contexts).filter (fun n => decide ((s.seqOf n).state = .free))

/-- Page-table slots of a pool set that no sequence holds. -/
def State.freeTables (s : State) (j : Nat) : List Nat :=
  let n := ((s.poolsOf j).map (fun e => e.2.ptSlots)).foldl min (if (s.poolsOf j).isEmpty then 0 else 16384)
  (List.range n).filter (fun k => !s.req.seqs.any (fun e => decide (e.2.poolSet = j) && decide (e.2.slot = k)))

/-- Free groups of a pool tile. -/
def State.freeGroups (s : State) (pool : Nat) (p : PoolRec) (tile : Nat) : List Nat :=
  (List.range p.groups).filter (fun g => decide (mapGet 0 s.req.usedGroups (groupKey pool tile g) = 0))

/-- Free groups of a pool set. -/
def State.setFree (s : State) (j : Nat) : Nat :=
  ((s.poolsOf j).map (fun e => ((List.range e.2.tileCount).map (fun t => (s.freeGroups e.1 e.2 t).length)).sum)).sum

/-- One entry of a list, which one being free (log 28). -/
def pick (key i : Nat) (l : List Nat) : Nat := nth 0 l (Config.choice key i % max 1 l.length)

/-- The keeper's and the engine's own accesses, requester 0x7 (log 26). -/
def engineWho : Who := { code := 7, source := 0, unit := some engineEndpoint }

/-- Zeros for a span inside one row are written as one request: `writeBytes` with zeros, whose check bytes are zero too. -/
def zeroPiece (a len : Nat) (s : State) : State :=
  let s := netAccess engineWho a len true s
  if s.lockedSpan a len then stagingDiscard a s
  else match s.wordBlocked a with
  | some c => busError engineWho a c 0 true s
  | none =>
    if s.pathBad a then parityError engineWho a true s
    else openRow a { s with mem := { s.mem with
      dram := memClear s.mem.dram a len, check := memClear s.mem.check (a / 32 * 4) (len / 32 * 4) } }

/-- Zeros for a span, by pieces that do not cross a row (2 KiB, R172). -/
def zeroPieces : Nat → Nat → Nat → State → State
  | 0, _, _, s => s
  | fuel + 1, a, len, s =>
    if len = 0 then s
    else
      let n := min len (2048 - a % 2048)
      zeroPieces fuel (a + n) (len - n) (zeroPiece a n s)

/-- R195: a span is made zero in every byte. -/
def zeroSpan (a len : Nat) (s : State) : State := zeroPieces (len / 2048 + 2) a len s

/-- A group is handed out for page `i` of a pool: it holds one share and reads as zero. -/
def takeGroup (pool : Nat) (p : PoolRec) (i g : Nat) (s : State) : State :=
  let t := i % max 1 p.tileCount
  zeroSpan (p.address t g 0 0) (p.streams * 16384)
    { s with req := { s.req with usedGroups := mapSet 0 s.req.usedGroups (groupKey pool t g) 1 } }

/-- R226: groups for page `i` in every pool of a set, each in its pool tile, none where a pool has no free group. -/
def takePage (i : Nat) : List (Nat × PoolRec) → List Nat → State → Option (List Nat × State)
  | [], acc, s => some (acc, s)
  | (n, p) :: t, acc, s =>
    match s.freeGroups n p (i % max 1 p.tileCount) with
    | [] => none
    | l =>
      let g := pick s.fresh 0 l
      takePage i t (acc ++ [g]) (takeGroup n p i g (useFresh s))

/-- Groups for pages `from` on, `count` of them. -/
def takePages (pools : List (Nat × PoolRec)) : Nat → Nat → List Page → State → Option (List Page × State)
  | 0, _, acc, s => some (acc, s)
  | n + 1, i, acc, s =>
    match takePage i pools [] s with
    | none => none
    | some (g, s) => takePages pools n (i + 1) (acc ++ [{ groups := g, sealed := false }]) s

/-! ## FORK (R219) -/

/-- A shared group of the parent has no room for another share. -/
def State.sharesFull (s : State) (x : Seq) : Bool :=
  let pools := s.poolsOf x.poolSet
  ((List.range x.pages.length).zip x.pages).any (fun e =>
    e.2.sealed && (pageKeys pools e.1 e.2.groups).any (fun k => decide (255 ≤ mapGet 0 s.req.usedGroups k)))

/-- Sealed pages are shared. -/
def shareGroups (keys : List Nat) (s : State) : State :=
  keys.foldl (fun s k => { s with req := { s.req with usedGroups := mapSet 0 s.req.usedGroups k (mapGet 0 s.req.usedGroups k + 1) } }) s

/-- The child's pages: a sealed page is shared, any other gets a fresh group of the same pool tiles. -/
def forkPages (pools : List (Nat × PoolRec)) : Nat → List Page → List Page → State → Option (List Page × State)
  | _, [], acc, s => some (acc, s)
  | i, p :: t, acc, s =>
    if p.sealed then forkPages pools (i + 1) t (acc ++ [p]) (shareGroups (pageKeys pools i p.groups) s)
    else match takePage i pools [] s with
      | none => none
      | some (g, s) => forkPages pools (i + 1) t (acc ++ [{ groups := g, sealed := false }]) s

/-- R219: FORK of a sequence. -/
def forkBody (q : Nat) (b : List Nat) (s : State) : State :=
  withSeq q b (fun n x s =>
    let tag := entryTag b
    if x.state = .damaged then complete q (lastCqe tag n 0 0x09 x.len) s
    else if x.state ≠ .idle || !x.tags.isEmpty || s.forkFrom n then complete q (lastCqe tag n 0x0723 0x05 x.len) s
    else if s.sharesFull x then complete q (lastCqe tag n 0 0x06 x.len) s
    else
      match s.freeContexts, s.freeTables x.poolSet, forkPages (s.poolsOf x.poolSet) 0 x.pages [] s with
      | c :: cs, t :: ts, some (pages, s2) =>
        let child := pick s2.fresh 0 (c :: cs)
        let slot := pick s2.fresh 1 (t :: ts)
        let s := setSeq child (fun _ => { x with
          state := .forking, pages := pages, slot := slot, steps := [], unprocessed := [], spareSeal := none, placed := 0
          closeTag := none }) (useFresh s2)
        { s with req := { s.req with forks := s.req.forks ++ [{ tag := tag, qp := q, parent := n, child := child }] } }
      | _, _, _ => complete q (lastCqe tag n 0 0x03 x.len) s) s

/-- Copying one group of a pool: read through the code and written with fresh check bytes; a word that cannot be read
stays zero in the copy (log 31). -/
def copySpan : Nat → Nat → Nat → State → State
  | 0, _, _, s => s
  | n + 1, a, c, s =>
    match readBytes engineWho false a 32 s with
    | (.data d, s) => copySpan n (a + 32) (c + 32) (writeBytes engineWho false c d s).2
    | (.error _, s) => copySpan n (a + 32) (c + 32) s

/-- Copying the unsealed pages of a fork. -/
def copyPages (pools : List (Nat × PoolRec)) : Nat → List Page → List Page → State → State
  | _, [], _, s => s
  | _, _, [], s => s
  | i, p :: ps, c :: cs, s =>
    let s := if p.sealed then s
      else (pools.zip (p.groups.zip c.groups)).foldl (fun s e =>
        let t := i % max 1 e.1.2.tileCount
        copySpan (e.1.2.streams * 512) (e.1.2.address t e.2.1 0 0) (e.1.2.address t e.2.2 0 0) s) s
    copyPages pools (i + 1) ps cs s

/-- A sequence joins the tail of the ring of its pool set. -/
def joinRing (j n : Nat) (s : State) : State :=
  { s with req := { s.req with rings := mapMod [] s.req.rings j (fun l => l ++ [n]) } }

/-- A page of the parent that has been sealed since the fork was accepted is shared with the child. -/
def forkedPages (ps cs : List Page) : List Page := (ps.zip cs).map (fun e => if e.1.sealed then e.1 else e.2)

/-- The fresh groups of the child for such pages go. -/
def reshare (pools : List (Nat × PoolRec)) : Nat → List Page → List Page → State → State
  | i, p :: ps, c :: cs, s =>
    reshare pools (i + 1) ps cs (if p.sealed && !c.sealed then
        shareGroups (pageKeys pools i p.groups) ((pageKeys pools i c.groups).foldl (fun s k => dropGroup k s) s)
      else s)
  | _, [], _, s => s
  | _, _ :: _, [], s => s

/-- R219: the page copy of a fork is accepted: the child becomes IDLE and the completion is written. A step of the parent
that was still unsettled when the fork was accepted has settled first (R237). -/
def forkCopied (child : Nat) (s : State) : State :=
  match s.req.forks.find? (fun f => decide (f.child = child)) with
  | none => s
  | some f =>
    let x := s.seqOf f.parent
    if !s.powered || !x.steps.isEmpty then s
    else
      let pools := s.poolsOf x.poolSet
      let pages := forkedPages x.pages (s.seqOf child).pages
      let s := reshare pools 0 x.pages (s.seqOf child).pages s
      let s := copyPages pools 0 x.pages pages s
      let s := joinRing x.poolSet child (setSeq child (fun y => { y with
        state := .idle, pages := pages, len := x.len, pending := x.pending, recent := x.recent }) s)
      let s := { s with req := { s.req with forks := s.req.forks.filter (fun g => decide (g.child ≠ child)) } }
      let s := complete f.qp { lastCqe f.tag child 0 0 (s.seqOf child).len with data := leBytes 4 f.parent } s
      finishClose f.parent (advance f.parent s)

/-- R219. `flips` are errors that have come into the memory (36 × word + symbol and the bits changed), `bad` the tiles
whose datapath fails parity meanwhile (R140). -/
def doForkCopyDone (child : Nat) (flips : List (Nat × Nat)) (bad : List Nat) (s : State) : State :=
  withBadPaths bad (fun s => forkCopied child (flipSymbols 0 flips s)) s

/-- R219. -/
def execForkCopyDone (child : Nat) (flips : List (Nat × Nat)) (bad : List Nat) (s : State) : Host.Outcome State Fault Refusal :=
  onUnit (child < 16384) (doForkCopyDone child flips bad s)

/-! ## CLOSE and QUERY (R218, R237) -/

/-- CLOSE: with cancel_only the work ends and the context stays, else the context closes. -/
def closeBody (q : Nat) (b : List Nat) (s : State) : State :=
  withSeq q b (fun n x s =>
    let tag := entryTag b
    if x.state = .closing then complete q (lastCqe tag n 0 0x05 x.len) s
    else if bit (nth 0 b 1) 0 then
      let s := endWork n 0 0x07 s
      complete q (lastCqe tag n 0 0 x.len) s
    else
      finishClose n (setSeq n (fun x => { x with
        state := .closing, closeTag := some tag, steps := x.steps.map (fun t => { t with dead := true }) }) s)) s

/-- Table 10.8: what QUERY reports. -/
def State.queryData (s : State) (n : Nat) : List Nat :=
  let x := s.seqOf n
  [(s.seqState n).code, x.poolSet, 0, 0] ++ leBytes 4 x.known.length
    ++ leBytes 4 ((x.gen.map (fun g => g.remaining)).getD 0) ++ leBytes 4 (s.seqKeys x).length
    ++ leBytes 4 (x.pending.getD 0xFFFFFFFF) ++ leBytes 8 x.lastFrame

/-- R218: QUERY. -/
def queryBody (q : Nat) (b : List Nat) (s : State) : State :=
  withSeq q b (fun n x s => complete q { lastCqe (entryTag b) n 0 0 x.len with data := s.queryData n } s) s

/-! ## Acceptance (R212, R213, Tables 10.1 and 10.2) -/

/-- What an accepted entry does, by its opcode, with the bytes that are reserved for it. An opcode that Table 10.1 does
not list completes INVALID. -/
def runEntry (q : Nat) (b : List Nat) (s : State) : State :=
  match nth 0 b 0 with
  | 1 => serve q b false [(1, 3), (12, 4), (17, 1), (20, 44)] true (openBody q b) s
  | 2 => serve q b false [(1, 3), (12, 4), (20, 4)] true (appendBody q b) s
  | 3 => serve q b false [(1, 3), (12, 4), (37, 3), (48, 16)] true (generateBody q b) s
  | 4 => serve q b false [(1, 3), (12, 52)] true (forkBody q b) s
  | 5 => serve q b true [(2, 2), (12, 52)] (decide (nth 0 b 1 < 2)) (closeBody q b) s
  | 6 => serve q b true [(1, 3), (12, 52)] true (queryBody q b) s
  | _ => serve q b true [] false id s

/-- Two entries concern one sequence. -/
def sameSeq (b c : List Nat) : Bool := decide (nth 0 b 0 ≠ 1) && decide (nth 0 c 0 ≠ 1) && decide (entrySeq b = entrySeq c)

/-- R213: an entry that would complete at once waits while the CQ is full, and behind it those of its sequence
(log 117). -/
def State.parks (s : State) (q : Nat) (b : List Nat) (t : State) : Bool :=
  (s.qpOf q).parked.any (sameSeq b) || (s.cqFull q && decide ((s.qpOf q).held.length < (t.qpOf q).held.length))

/-- R212, R213: the entry at the head of a queue pair is accepted. -/
def accept (q : Nat) (b : List Nat) (s : State) : State :=
  if !s.canFetch q then s
  else
    let s := passHead q s
    let t := runEntry q b s
    if s.parks q b t then setQp q (fun p => { p with parked := p.parked ++ [b] }) s else t

/-- R213: entries that wait for space are served in order while there is some. -/
def unpark (q : Nat) : List (List Nat) → State → State
  | [], s => setQp q (fun p => { p with parked := [] }) s
  | b :: t, s => if 0 < s.freeSlots q then unpark q t (runEntry q b s) else setQp q (fun p => { p with parked := b :: t }) s

/-- R213: space has come back to a queue pair: its completions are written, then what waits for space is served. -/
def releaseCq (q : Nat) (s : State) : State :=
  let s := flushCq q s
  unpark q (s.qpOf q).parked s

/-- R223: OPEN is accepted. -/
def doOpenEntry (q : Nat) (b : List Nat) (s : State) : State := accept q b s

/-- R223: a queue pair and the 64 bytes at its head. -/
def execOpenEntry (q : Nat) (b : List Nat) (s : State) : Host.Outcome State Fault Refusal :=
  onUnit (q < 256) (doOpenEntry q (entryBytes 1 b) s)

/-- R221: APPEND is accepted. -/
def doAppendEntry (q : Nat) (b : List Nat) (s : State) : State := accept q b s

/-- R221. -/
def execAppendEntry (q : Nat) (b : List Nat) (s : State) : Host.Outcome State Fault Refusal :=
  onUnit (q < 256) (doAppendEntry q (entryBytes 2 b) s)

/-- R232: GENERATE is accepted. -/
def doGenerateEntry (q : Nat) (b : List Nat) (s : State) : State := accept q b s

/-- R232. -/
def execGenerateEntry (q : Nat) (b : List Nat) (s : State) : Host.Outcome State Fault Refusal :=
  onUnit (q < 256) (doGenerateEntry q (entryBytes 3 b) s)

/-- R219: FORK is accepted. -/
def doForkEntry (q : Nat) (b : List Nat) (s : State) : State := accept q b s

/-- R219. -/
def execForkEntry (q : Nat) (b : List Nat) (s : State) : Host.Outcome State Fault Refusal :=
  onUnit (q < 256) (doForkEntry q (entryBytes 4 b) s)

/-- R218: CLOSE is accepted. -/
def doCloseEntry (q : Nat) (b : List Nat) (s : State) : State := accept q b s

/-- R218. -/
def execCloseEntry (q : Nat) (b : List Nat) (s : State) : Host.Outcome State Fault Refusal :=
  onUnit (q < 256) (doCloseEntry q (entryBytes 5 b) s)

/-- R218: QUERY is accepted. -/
def doQueryEntry (q : Nat) (b : List Nat) (s : State) : State := accept q b s

/-- R218: opcode 0x06, or one that Table 10.1 does not list. -/
def execQueryEntry (q : Nat) (b : List Nat) (s : State) : Host.Outcome State Fault Refusal :=
  onUnit (q < 256) (doQueryEntry q (entryBytes (queryOpcode b) b) s)

/-! ## Writes of BAR4 (R210, R292) -/

/-- R210, R292: a write of BAR4: its offset names the doorbell. Any other offset or width is ignored, and so is every
write while BAR4 does not decode. -/
def bar4Write (off width v : Nat) (s : State) : State :=
  if !s.bar4Live || !barWidth off width then s
  else match off % 4096 with
  | 0 => sqTail (off / 4096) v s
  | 8 => releaseCq (off / 4096) (cqHead (off / 4096) v s)
  | _ => s

/-- R210: a write of BAR4 with an SQ tail. -/
def doSqTailDoorbell (off width v : Nat) (s : State) : State := bar4Write off width v s

/-- R210: an offset in BAR4, the width in bytes and the value. -/
def execSqTailDoorbell (off width v : Nat) (s : State) : Host.Outcome State Fault Refusal :=
  .next (doSqTailDoorbell (off % 2 ^ 20) width v s)

/-- R215: a write of BAR4 with a CQ head. -/
def doCqHeadDoorbell (off width v : Nat) (s : State) : State := bar4Write off width v s

/-- R215. -/
def execCqHeadDoorbell (off width v : Nat) (s : State) : Host.Outcome State Fault Refusal :=
  .next (doCqHeadDoorbell (off % 2 ^ 20) width v s)

/-! ## Admission (R223) -/

/-- Pool sets of the service that can take one more sequence. -/
def State.openSets (s : State) (j : Nat) : List Nat :=
  (if j = 0xFF then s.serviceSets else [j]).filter (fun k => !(s.freeTables k).isEmpty)

/-- The sets with the most free groups. -/
def State.widest (s : State) (l : List Nat) : List Nat :=
  let m := (l.map s.setFree).foldl max 0
  l.filter (fun k => decide (s.setFree k = m))

/-- One OPEN in an admission pass: admitted, held for a later pass while its wait_frames have not run out, or
NO_CONTEXT. -/
def admitOne (o : OpenReq) (s : State) : State :=
  match s.freeContexts, s.widest (s.openSets o.poolSet) with
  | c :: cs, j :: js =>
    let n := pick s.fresh 0 (c :: cs)
    let set := pick s.fresh 1 (j :: js)
    let slot := pick s.fresh 2 (s.freeTables set)
    let s := setSeq n (fun _ => { seq0 with state := .idle, qp := o.qp, poolSet := set, slot := slot }) (useFresh s)
    complete o.qp (lastCqe o.tag n 0 0 0) (joinRing set n s)
  | _, _ =>
    if s.frm.count < o.frame + o.wait then { s with req := { s.req with opens := s.req.opens ++ [o] } }
    else complete o.qp (lastCqe o.tag 0 0 0x03 0) s

/-- R223: an admission pass, in acceptance order. -/
def admissionPass (s : State) : State :=
  if s.req.serving && decide (s.frm.count % max 1 s.req.admitFrames = 0) then
    s.req.opens.foldl (fun s o => admitOne o s) { s with req := { s.req with opens := [] } }
  else s

/-! ## Damage and loading (R222) -/

/-- A tile that holds a page or the page table of a sequence is fenced. -/
def State.seqHit (s : State) (x : Seq) : Bool :=
  (s.poolsOf x.poolSet).any (fun e => s.tileFenced (tileOf (e.2.ptBase + 32 * e.2.ptWords * x.slot)) ||
    (List.range (min x.pages.length e.2.tileCount)).any (fun t => s.tileFenced (e.2.tile t)))

/-- One sequence becomes DAMAGED: its work completes LOST. -/
def damageSeq (n : Nat) (s : State) : State :=
  let x := s.seqOf n
  if x.state = .idle && s.seqHit x then
    let s := endWork n 0 0x09 s
    setSeq n (fun x => { x with state := .damaged, unprocessed := [], steps := x.steps.map (fun t => { t with dead := true, gen := none }) }) s
  else s

/-- R222: at a frame boundary every sequence hit by a fence becomes DAMAGED. -/
def damagePass (s : State) : State := (s.req.seqs.map (fun e => e.1)).foldl (fun s n => damageSeq n s) s

/-- R222: loading an image frees every context; whatever is pending completes ABORTED with 0x0703. -/
def freeAll (s : State) : State :=
  let s := s.req.opens.foldl (fun s o => complete o.qp (lastCqe o.tag 0 0x0703 0x07 0) s) s
  let s := s.req.forks.foldl (fun s f => complete f.qp (lastCqe f.tag f.parent 0x0703 0x07 (s.seqOf f.parent).len) s) s
  let s := s.req.qp.foldl (fun s e => e.2.parked.foldl (fun s b =>
    complete e.1 (lastCqe (entryTag b) (entrySeq b) 0x0703 0x07 0) s) (setQp e.1 (fun p => { p with parked := [] }) s)) s
  let ns := s.req.seqs.map (fun e => e.1)
  let s := ns.foldl (fun s n =>
    let s := endWork n 0x0703 0x07 s
    match (s.seqOf n).closeTag with
    | some t => complete (s.seqOf n).qp (lastCqe t n 0x0703 0x07 (s.seqOf n).len) s
    | none => s) s
  let s := { s with req := { s.req with
    opens := [], forks := [], seqs := [], rings := [], starved := [], usedGroups := [], filled := 0, settled := 0, pageWait := 0 } }
  (List.range 256).foldl (fun s q => settleBusy q s) s

/-! ## Settling (R224, R231 to R233) -/

/-- Base of the sampler area of a lane for a frame's parity (R230). -/
def State.samplerAt (s : State) (frame lane : Nat) : Nat := s.serviceLe (16 + 8 * (frame % 2)) 8 + 18496 * lane

/-- R224: the sampler area of a lane lies in a result buffer that is valid for the frame. -/
def State.areaValid (s : State) (frame lane : Nat) (buffers : List Nat) : Bool :=
  match s.inForceImage with
  | none => false
  | some i =>
    let a := s.samplerAt frame lane
    i.pairs.any (fun p =>
      let base := if frame % 2 = 0 then p.even else p.odd
      decide (base ≤ a) && decide (a + 18496 ≤ base + p.length) && buffers.contains (2 * p.pair + frame % 2))

/-- The 256 candidates of set `j`. -/
def parseSet (b : List Nat) (j : Nat) : List (Nat × Nat) :=
  (List.range 256).map (fun i => (leAt b (2048 * j + 8 * i) 4, leAt b (2048 * j + 8 * i + 4) 4))

/-- The draft record after the 9 sets. -/
def parseDrafts (b : List Nat) : List Nat :=
  (List.range (min 8 (leAt b 18432 1))).map (fun i => leAt b (18436 + 4 * i) 4)

/-- R231: at most one event in a second names a token outside the vocabulary. -/
def droppedToken (lane : Nat) (t : Nat) (s : State) : State :=
  let sec := s.frm.tc / tcSec + 1
  if s.req.sampleSec = sec then s else raise 0x0039 1 lane [t] { s with req := { s.req with sampleSec := sec } }

/-- What a settled decode step gives. -/
structure Sampled where
  released : List Nat
  accepted : Nat
  stopped : Bool
  numeric : Bool
  deriving DecidableEq, Repr

/-- R231 to R233: a decode step's tokens from the sets 0 to d of its area. -/
def State.sampleStep (s : State) (n : Nat) (x : Seq) (g : GenRun) (t : Step) (b : List Nat) : Sampled :=
  let im := s.inForceImage
  let bias := match im with | some i => if g.p.penalty = 0xFF then [] else i.penalty g.p.penalty | none => []
  let stops := match im with | some i => if g.p.stop = 0xFF then [] else i.stopSet g.p.stop | none => []
  let outs := (List.range (t.drafts.length + 1)).map (fun j =>
    let recent := x.recent ++ t.drafts.take j
    sampleSet { vocabulary := s.serviceLe 8 4, bias := bias, recent := recent.drop (recent.length - 64), seq := n,
                position := x.len + j, key := s.fresh + j } g.p (parseSet b j))
  let a := acceptedDrafts outs t.drafts
  let all := (sampledPrefix outs).take (a + 1)
  let cut := (cutAtStop stops all).take g.remaining
  { released := cut, accepted := a,
    stopped := (match cut.getLast? with | some y => stops.contains y | none => false),
    numeric := outs.any (fun o => o.isNone) }

/-- Sealing at a commit: the seal groups take the page's place and the open groups go (R194). -/
def commitSeal (n : Nat) (t : Step) (s : State) : State :=
  match t.sealPage with
  | none => s
  | some i =>
    let x := s.seqOf n
    let old := (nth { groups := [], sealed := false } x.pages i).groups
    let s := (pageKeys (s.poolsOf x.poolSet) i old).foldl (fun s k => dropGroup k s) s
    setSeq n (fun x => { x with pages := setNth x.pages i { groups := t.sealGroups, sealed := true } }) s

/-- The seal groups of a step that commits nothing go back. -/
def dropSeal (n : Nat) (t : Step) (s : State) : State :=
  match t.sealPage with
  | none => s
  | some i => (pageKeys (s.poolsOf (s.seqOf n).poolSet) i t.sealGroups).foldl (fun s k => dropGroup k s) s

/-- One page-table word of a sequence (Table 9.3). -/
def ptWord (pages : List Page) (k w : Nat) : List Nat :=
  (List.range 16).flatMap (fun j =>
    match pages[16 * w + j]? with
    | some p => leBytes 2 (2 ^ 15 + b2n p.sealed * 2 ^ 14 + nth 0 p.groups k % 4096)
    | none => [0, 0])

/-- R196: the page tables of a sequence are written in every pool of its set. -/
def writeTables (n : Nat) (s : State) : State :=
  let x := s.seqOf n
  let pools := s.poolsOf x.poolSet
  ((List.range pools.length).zip pools).foldl (fun s e =>
    let p := e.2.2
    (List.range p.ptWords).foldl (fun s w =>
      (writeBytes engineWho false (p.ptBase + 32 * (p.ptWords * x.slot + w)) (ptWord x.pages e.1 w) s).2) s) s

/-- A prefill step commits: L advances by n and the token after them becomes p. -/
def Seq.commitPrefill (x : Seq) (n : Nat) : Seq :=
  let y := (x.remember (((x.known.drop 1).take n).filterMap id)).withKnown (x.known.drop n)
  { y with len := x.len + n, appends := x.appends.map (fun a => { a with left := a.left - n }) }

/-- A GENERATE's completion for a settled step (Table 10.3). -/
def genCqe (n : Nat) (g : GenRun) (o : Sampled) (len status : Nat) (last : Bool) : Cqe :=
  { tag := g.tag, seq := n, reason := 0, status := status, count := o.released.length,
    flags := b2n last + 2 * b2n o.stopped + 16 * o.accepted, committed := len, data := o.released.flatMap (leBytes 4) }

/-- R233: a decode step commits and completes. -/
def commitDecode (n : Nat) (t : Step) (b : List Nat) (s : State) : State :=
  let x := s.seqOf n
  match x.gen with
  | none => s
  | some g =>
    let o := s.sampleStep n x g t b
    let s := (List.range (t.drafts.length + 1)).foldl (fun s j =>
      match outOfRange (s.serviceLe 8 4) (parseSet b j) with
      | some y => droppedToken t.lane y s
      | none => s) { s with fresh := s.fresh + t.drafts.length + 1 }
    let r := o.released.length
    let len := x.len + r
    let left := g.remaining - r
    let s := setSeq n (fun x => { x.remember o.released with
      len := len, pending := (match o.released.getLast? with | some y => some y | none => x.pending),
      gen := some { g with remaining := left, proposals := parseDrafts b, first := false } }) s
    let s := { s with req := { s.req with tokens := satAdd 32 s.req.tokens r } }
    let status := if left = 0 || o.stopped then some 0 else if o.numeric then some 0x08
      else if s.maxLen x.poolSet < len + 1 then some 0x06 else none
    match status with
    | some c => complete x.qp (genCqe n g o len c true) (setSeq n (fun x => { x with gen := none }) s)
    | none => complete x.qp (genCqe n g o len 0 false) s

/-- R237: a cancelled decode step whose area is valid: L and p follow the commit and nothing is released (log 118). -/
def commitCancelled (n : Nat) (t : Step) (b : List Nat) (s : State) : State :=
  match t.gen with
  | none => s
  | some g =>
    let o := s.sampleStep n (s.seqOf n) g t b
    setSeq n (fun x => { x with
      len := x.len + o.released.length, pending := (match o.released.getLast? with | some y => some y | none => x.pending) })
      { s with fresh := s.fresh + t.drafts.length + 1 }

/-- The tokens of a cancelled prefill step that does not commit go; what has been appended since follows p. -/
def Seq.dropStep (x : Seq) (n : Nat) : Seq :=
  { x.withKnown (x.known.take 1 ++ x.known.drop (n + 1)) with appends := x.appends.map (fun a => { a with left := a.left - n }) }

/-- R230, R231: the sampler reads the sets 0 to d of a decode lane and its draft record. -/
def readArea (a d : Nat) (s : State) : MemAns × State :=
  match readBytes engineWho false a (2048 * (d + 1)) s with
  | (.error c, s) => (.error c, s)
  | (.data x, s) =>
    match readBytes engineWho false (a + 18432) 64 s with
    | (.error c, s) => (.error c, s)
    | (.data y, s) => (.data (slice x 0 18432 ++ y), s)

/-- A step commits (R224). A decode step whose area cannot be read commits nothing (log 31). -/
def commitStep (n : Nat) (t : Step) (s : State) : State :=
  let done (s : State) : State := writeTables n (completeAppends n (s.seqOf n).appends s)
  if !t.decode then done (setSeq n (fun x => x.commitPrefill t.n) (commitSeal n t s))
  else match readArea (s.samplerAt t.frame t.lane) t.drafts.length s with
    | (.error _, s) => dropSeal n t s
    | (.data b, s) => done ((if t.dead then commitCancelled else commitDecode) n t b (commitSeal n t s))

/-- R224: one step of frame `t.frame` is settled. -/
def settleStep (buffers : List Nat) (n : Nat) (t : Step) (s : State) : State :=
  let ok := s.areaValid t.frame t.lane buffers
  let s := setSeq n (fun x => { x with steps := x.steps.filter (fun u => decide (u.frame ≠ t.frame)), lastFrame := t.frame }) s
  let s := if ok then s else { s with req := { s.req with dropped := satAdd 16 s.req.dropped 1 } }
  if (s.seqOf n).state = .closing || (s.seqOf n).state = .damaged then finishClose n (dropSeal n t s)
  else if ok then advance n (endFull n (commitStep n t s))
  else
    let s := dropSeal n t s
    if t.dead && !t.decode then
      let s := setSeq n (fun x => x.dropStep t.n) s
      advance n (completeAppends n (s.seqOf n).appends s)
    else advance n s

/-- Candidate sets sampled in a frame. -/
def State.setsOf (s : State) (frame : Nat) : Nat :=
  (s.req.seqs.map (fun e => ((e.2.steps.filter (fun t => decide (t.frame = frame) && t.decode && (!t.dead || t.gen.isSome))).map
    (fun t => t.drafts.length + 1)).sum)).sum

/-- R224: settling a frame, with the result buffers that are valid for it. How long it takes is free within T_settle. -/
def settleFrame (frame : Nat) (buffers : List Nat) (s : State) : State :=
  if !s.req.serving then s
  else
    let sets := s.setsOf frame
    let bound := 2000 + (sets + 7) / 8 * 400
    let steps := s.req.seqs.flatMap (fun e => (e.2.steps.filter (fun t => decide (t.frame = frame))).map (fun t => (e.1, t)))
    let s := steps.foldl (fun s e => settleStep buffers e.1 e.2 s) s
    useFresh { s with req := { s.req with
      settled := frame + 1, sets := sets, settleTc := Config.unstated s.fresh 0 % (bound + 1) } }

/-! ## Lane filling (R225 to R227) -/

/-- An idle lane record. -/
def idleRecord : List Nat := leBytes 4 0xFFFFFFFF ++ List.replicate 22 0 ++ leBytes 2 0xFFFF ++ leBytes 4 0xFFFFFFFF

/-- A lane record (Table 9.4) of a sequence's step in one pool of its set, `k` the pool's place in the set. -/
def laneRecord (n : Nat) (x : Seq) (t : Step) (k : Nat) (p : PoolRec) : List Nat :=
  leBytes 4 n ++ leBytes 4 x.len ++ leBytes 4 t.n ++ [t.drafts.length, 1, 0, 0]
    ++ leBytes 8 (p.ptBase + 32 * p.ptWords * x.slot) ++ leBytes 2 p.ptWords
    ++ (match t.sealPage with
        | some i => leBytes 2 (nth 0 t.sealGroups k) ++ leBytes 4 i
        | none => leBytes 2 0xFFFF ++ leBytes 4 0xFFFFFFFF)

/-- One record of a pool's lane block for a frame. -/
def writeRecordOf (p : PoolRec) (frame q : Nat) (bytes : List Nat) (s : State) : State :=
  (writeBytes engineWho false (p.laneBlock + 512 * (frame % 2) + 32 * q) bytes s).2

/-- R197: every lane block of a frame starts idle. -/
def clearBlocks (frame : Nat) (s : State) : State :=
  match s.inForceImage with
  | none => s
  | some i => i.pools.foldl (fun s p => (List.range 16).foldl (fun s q => writeRecordOf p frame q idleRecord s) s) s

/-- The token-block record of a lane: p and the tokens that follow, zero beyond them. -/
def writeTokens (frame lane : Nat) (tokens : List Nat) (s : State) : State :=
  (writeBytes engineWho false (s.serviceLe (32 + 8 * (frame % 2)) 8 + 256 * lane) (slice (tokens.flatMap (leBytes 4)) 0 256) s).2

/-- R226, R232: the step a sequence would take: positions, drafts, whether it decodes. -/
def State.planStep (s : State) (x : Seq) : Nat × List Nat × Bool :=
  if 2 ≤ x.known.length then (min (min s.req.stepMax (x.known.length - 1)) (s.maxLen x.poolSet - x.len), [], false)
  else match x.gen with
    | none => (1, [], true)
    | some g =>
      let room := s.maxLen x.poolSet - (x.len + 1)
      let d := min (min (min g.proposals.length g.p.maxDrafts) (min (g.remaining - 1) (s.req.stepMax - 1))) room
      (1 + d, g.proposals.take (if g.first then 0 else d), true)

/-- R226: the lowest full unsealed page. -/
def Seq.sealable (x : Seq) : Option Nat :=
  (List.range x.pages.length).find? (fun i =>
    decide (64 * (i + 1) ≤ x.len) && !(nth { groups := [], sealed := true } x.pages i).sealed)

/-- R225: a sequence is eligible for a lane, apart from its pages. It holds no lane in the present frame, dropped or not,
and its step adds a position (R221). -/
def State.eligible (s : State) (late : List Nat) (n : Nat) : Bool :=
  let x := s.seqOf n
  (s.seqState n).runnable && x.steps.isEmpty && decide (2 ≤ s.freeSlots x.qp) && (s.qpOf x.qp).held.isEmpty && !late.contains n
    && decide (x.placed ≠ s.frm.count + 1) && decide (0 < (s.planStep x).1)

/-- R194, R226, R227: the seal of a step: the groups that a lane gone idle has left, or free ones, or none. -/
def takeSeal (x : Seq) (pools : List (Nat × PoolRec)) (s : State) : Option (Nat × List Nat) × State :=
  match x.sealable with
  | none => (none, s)
  | some i =>
    match x.spareSeal with
    | some e => if e.1 = i then (some e, s) else (none, s)
    | none => match takePage i pools [] s with
      | none => (none, s)
      | some (g, s) => (some (i, g), s)

/-- A sequence is placed in a lane of a frame; none where a page it needs has no free group. Of an APPEND's buffer the
engine reads what the step needs and the token after it; `tokens` is what the host's memory gives (R218). -/
def placeSeq (n frame lane : Nat) (tokens : List Nat) (s : State) : Option State :=
  let x := s.seqOf n
  let pools := s.poolsOf x.poolSet
  let (len, drafts, decode) := s.planStep x
  let need := (x.len + len - 1) / 64 + 1
  match takePages pools (need - x.pages.length) x.pages.length x.pages s with
  | none => none
  | some (pages, s) =>
    let x := { x with pages := pages }
    let (sg, s) := takeSeal x pools s
    let t : Step := { lane := lane, frame := frame, n := len, drafts := drafts, decode := decode, sealPage := sg.map (fun e => e.1),
                      sealGroups := (sg.map (fun e => e.2)).getD [], dead := false }
    let x := x.withKnown (readTokens (x.known.take (len + 1)) tokens ++ x.known.drop (len + 1))
    let x := { x with steps := x.steps ++ [t], placed := frame + 1, spareSeal := if sg.isSome then none else x.spareSeal }
    let s := writeTables n (setSeq n (fun _ => x) s)
    let s := ((List.range pools.length).zip pools).foldl (fun s e =>
      writeRecordOf e.2.2 frame (lane - e.2.2.laneBase) (laneRecord n x t e.1 e.2.2) s) s
    let known := x.known.map (fun t => t.getD 0)
    some (writeTokens frame lane ((known.take 1 ++ (if decode then drafts else known.tail)).take len) s)

/-- R226: walking a ring: free lanes take eligible sequences in order; a placed one moves to the tail. `acc` counts the
sequences skipped for lack of a group. -/
def walkRing (late : List Nat) (reads : SMap (List Nat)) (frame j : Nat) : List Nat → List Nat → Nat → State → Nat × State
  | [], _, acc, s => (acc, s)
  | _, [], acc, s => (acc, s)
  | n :: t, lane :: ls, acc, s =>
    if s.eligible late n then
      match placeSeq n frame lane (mapGet [] reads n) s with
      | none => walkRing late reads frame j t (lane :: ls) (acc + 1) s
      | some s =>
        walkRing late reads frame j t ls acc { s with req := { s.req with
          rings := mapMod [] s.req.rings j (fun l => l.filter (fun m => decide (m ≠ n)) ++ [n]) } }
    else walkRing late reads frame j t (lane :: ls) acc s

/-- The lanes of a pool set below a lane count. -/
def State.lanesOf (s : State) (j count : Nat) : List Nat :=
  match s.poolsOf j with
  | e :: _ => ((List.range e.2.lanes).map (fun q => e.2.laneBase + q)).filter (fun l => decide (l < count))
  | [] => []

/-- Filling the lanes of one pool set; R229 counts the fills without a lane. -/
def fillSet (late : List Nat) (reads : SMap (List Nat)) (frame count j : Nat) (a : Nat × State) : Nat × State :=
  let ring := mapGet [] a.2.req.rings j
  let want := ring.any (fun n => (a.2.seqState n).runnable)
  let (w, s) := walkRing late reads frame j ring (a.2.lanesOf j count) a.1 a.2
  let placed := ring.any (fun n => (s.seqOf n).steps.any (fun t => decide (t.frame = frame)))
  (w, { s with req := { s.req with starved := mapMod 0 s.req.starved j (fun k => if want && !placed then k + 1 else 0) } })

/-- Lanes of the ladder level that governs the present frame. -/
def State.planLanes (s : State) : Nat := match s.inForceImage with | some i => (i.level s.frm.now.level).1 | none => 0

/-- R225 to R228: in frame k + 1, once frame k is settled, the lanes of frame k + 2 are filled; an image without a
service gets idle lane blocks (R197). `late` lists sequences whose settling had not ended when the fill began, `reads` for
a sequence what the engine reads of its APPEND's host buffer. -/
def fillLanes (late : List Nat) (reads : SMap (List Nat)) (s : State) : State :=
  let next := s.frm.count + 1
  if s.powered && s.inStates [.running] && decide (s.frm.phase = .inFrame)
      && (!s.req.serving || decide (s.frm.count ≤ s.req.settled)) && decide (s.req.filled ≠ next + 1) then
    let s := clearBlocks next s
    let s := { s with req := { s.req with settleLate := satAdd 16 s.req.settleLate late.length } }
    let (w, s) := s.serviceSets.foldl (fun a j => fillSet late reads next s.planLanes j a) (0, s)
    { s with req := { s.req with filled := next + 1, pageWait := w } }
  else s

/-- R225. `bad` lists tiles whose datapath fails parity meanwhile (R140). -/
def doLaneFill (late : List Nat) (reads : SMap (List Nat)) (bad : List Nat) (s : State) : State :=
  withBadPaths bad (fillLanes late reads) s

/-- R225. -/
def execLaneFill (late : List Nat) (reads : List (Nat × List Nat)) (bad : List Nat) (s : State) :
    Host.Outcome State Fault Refusal := .next (doLaneFill (late.filter (fun n => decide (n < 16384))) reads bad s)

/-- R227: lanes of the next frame at or above a count are rewritten as idle; their sequences are not stepped, and the
groups allocated for them stay allocated. -/
def rewriteLanes (count : Nat) (s : State) : State :=
  let next := s.frm.count + 1
  let hit := s.req.seqs.flatMap (fun e =>
    (e.2.steps.filter (fun t => decide (t.frame = next) && decide (count ≤ t.lane))).map (fun t => (e.1, t)))
  hit.foldl (fun s e =>
    let pools := s.poolsOf (s.seqOf e.1).poolSet
    let s := pools.foldl (fun s p => writeRecordOf p.2 next (e.2.lane - p.2.laneBase) idleRecord s) s
    finishClose e.1 (setSeq e.1 (fun x => { x with
      steps := x.steps.filter (fun t => decide (t.frame ≠ next)), placed := 0
      spareSeal := match e.2.sealPage with | some i => some (i, e.2.sealGroups) | none => x.spareSeal }) s)) s

/-- R229: a pool set with runnable sequences has filled no lane for 64 fills in a row. -/
def doPoolSetStarved (j : Nat) (s : State) : State :=
  if s.powered && decide (64 ≤ mapGet 0 s.req.starved j) then
    let n := ((mapGet [] s.req.rings j).filter (fun n => (s.seqState n).runnable)).length
    raise 0x0038 1 j [n] { s with req := { s.req with starved := mapSet 0 s.req.starved j 0 } }
  else s

/-- R229. -/
def execPoolSetStarved (j : Nat) (s : State) : Host.Outcome State Fault Refusal := onUnit (j < 512) (doPoolSetStarved j s)

end Sys2Proof.Machine
end

