-- ==== Sys2Proof/Machine/Lockstep.lean ====
section
/-! DEFINITION. How a frame's work stops and how its outcome becomes known (chapter 2): completeness of roles, result
buffers, and the votes and completions of a lockstep group. -/
namespace Sys2Proof.Machine

/-! ## Roles at the end of a frame (R40, R41) -/

/-- A role has work in a template: its entry point is not the idle mark (Table 11.4). -/
def Image.active (i : Image) (t r : Nat) : Bool := decide (nth 0xFFFF (i.role r).entry t ≠ 0xFFFF)

/-- The role has retired its table and every write of it has been accepted. A role that is idle in the template has
nothing to retire (log 36). -/
def State.roleComplete (s : State) (i : Image) (t r : Nat) : Bool :=
  if !i.active t r then true
  else match s.bindingOf r with
    | none => false
    | some b =>
      let x := s.ctxOf b.core b.slot
      decide (x.role1 = r + 1) && x.ended && !x.stopped && !x.cut && s.quiet b.core b.slot && !s.coreFenced b.core

/-- Descriptor index at which an incomplete role stands: the first it has not retired. -/
def State.unretired (s : State) (n k : Nat) : Nat :=
  let x := s.ctxOf n k
  if x.stopped then x.faultIdx
  else ((s.coreRec n).queue.filter (fun e => decide (e.slot = k))).foldl (fun m e => min m e.idx) x.pos

/-- Report entry of an incomplete role. -/
def State.incompleteOf (s : State) (r : Nat) : Incomplete :=
  match s.bindingOf r with
  | none => { role := r, core := 0, slot := 0, fault := 0, index := 0 }
  | some b =>
    { role := r, core := b.core, slot := b.slot, fault := (s.ctxOf b.core b.slot).fault, index := s.unretired b.core b.slot }

/-- Incomplete roles of the present frame, in role order. -/
def State.incompletes (s : State) : List Incomplete :=
  match s.inForceImage with
  | none => []
  | some i => ((List.range i.roles).filter (fun r => !s.roleComplete i s.frm.now.template r)).map s.incompleteOf

/-- R41, R43: buffers of the frame's template whose contributing roles are all complete. -/
def State.goodBuffers (s : State) (bad : List Nat) : List Nat :=
  match s.inForceImage with
  | none => []
  | some i =>
    let k := s.frm.now.number
    ((i.pairs.filter (fun p => bit (i.pairMask s.frm.now.template) p.pair)).filter
      (fun p => !p.roles.any (fun r => bad.contains r))).map (fun p => 2 * p.pair + k % 2)

/-! ## Stopping work (R36, R40) -/

/-- Packets that carry writes of abandoned descriptors are suppressed: those of the entries named. -/
def suppressOf (n : Nat) (uids : List Nat) (s : State) : State :=
  let gone := s.net.packets.filter (fun p => decide (p.core = n) && uids.contains p.uid && (p.kind == .write || p.kind == .send))
  let s := gone.foldl (fun s p => suppress (regionOf (if p.dst < coreCount then p.dst else n)) s) s
  if gone.isEmpty then s
  else flowAll { s with net := { s.net with packets := s.net.packets.filter (fun p => !gone.any (fun g => decide (g.id = p.id))) } }

/-- R36, R40: a context abandons its descriptors in progress: its queue entries, halves, posted buffers, requests that
wait at a tile or a walker and its bank commands are gone. -/
def dropContext (n k : Nat) (s : State) : State :=
  let uids := ((s.coreRec n).queue.filter (fun e => decide (e.slot = k))).map (fun e => e.uid)
  let mine := fun (c u : Nat) => decide (c = n) && uids.contains u
  let s := setCore n (fun c => { c with queue := c.queue.filter (fun e => decide (e.slot ≠ k)) }) s
  let s := [0, 1].foldl (fun s p => setPane n p (fun x => { x with
    halves := x.halves.filter (fun h => !uids.contains h.uid)
    fill := x.fill.filter (fun f => !uids.contains f.uid) }) s) s
  let s := setCtx n k (fun c => { c with posted := [] }) s
  let s := { s with
    mem := { s.mem with
      tiles := mapEach tile0 (fun t => { t with queue := t.queue.filter (fun q => !mine q.core q.uid) }) s.mem.tiles }
    walkers := mapEach walker0 (fun w => { w with
      ready := w.ready.filter (fun p => !mine p.core p.uid)
      walks := w.walks.map (fun x => { x with pieces := x.pieces.filter (fun p => !mine p.core p.uid) }) }) s.walkers }
  cutBanks n (fun x => decide (x.uid1 ≠ 0) && decide (x.ctxSlot = k)) s

/-- Cores that have contexts, in rising order. -/
def State.boundCores (s : State) : List Nat :=
  (s.cores.ctx.filter (fun e => decide (e.2.role1 ≠ 0))).foldl (fun l e => insertRising (e.1 / 4) l) []

/-- R40, R180: at the end of a frame every context of every core abandons its work; SENDs held at a destination are
suppressed and save areas are empty. -/
def stopAll (s : State) : State :=
  let s := s.boundCores.foldl (fun s n => (s.contexts n).foldl (fun s k =>
    setCtx n k (fun c => { c with arrivals := [] }) (dropContext n k s)) s) s
  let s := s.net.held.foldl (fun s p => suppress (regionOf p.dst) s) s
  { s with net := { s.net with held := [] } }

/-- R40, R41: the frame's work stops now: its incomplete roles and good buffers are noted. -/
def stopFrame (s : State) : State :=
  let inc := s.incompletes
  let good := s.goodBuffers (inc.map (fun x => x.role))
  let s := stopAll s
  { s with frm := { s.frm with
    now := { s.frm.now with incompletes := inc, buffers := good, overrun := !inc.isEmpty || s.frm.now.faulted }
    overruns := if inc.isEmpty then s.frm.overruns else satAdd 32 s.frm.overruns 1 } }

/-! ## Outcomes (R41, R47, R48) -/

/-- The buffers named hold a frame's results. -/
def setResults (f : FrameFacts) (s : State) : State :=
  { s with frm := { s.frm with results := f.buffers.foldl (fun l b => setNth l b f.number) s.frm.results } }

/-- R41: the outcome of a frame that is not lockstep. A unit that was fenced during it has raised its fault event
(`fenceUnits`); where every role is complete all the same, R41 marks the frame good, and that is the model's choice
against the word "faults" of Table 2.3 (log 100). -/
def plainOutcome (f : FrameFacts) (s : State) : State :=
  let s := if f.faulted then s else setResults f s
  let s := settleFrame f.number (if f.faulted then [] else f.buffers) s
  match f.incompletes with
  | x :: _ =>
    raise 0x0020 2 x.core [x.role, x.index, x.slot] { s with frm := { s.frm with lastDrop := f.number } }
  | [] =>
    if f.faulted || f.dropped then { s with frm := { s.frm with lastDrop := f.number } }
    else { s with frm := { s.frm with lastGood := f.number } }

/-- R47: what a lockstep fault does to its frame: no buffer is valid. -/
def failOutcome (f : FrameFacts) (s : State) : State :=
  settleFrame f.number []
    { s with frm := { s.frm with lastDrop := f.number, lockFaults := satAdd 32 s.frm.lockFaults 1 } }

/-- R48: the running frame is dropped at this moment as though it were its E. -/
def dropCurrent (s : State) : State :=
  let s := stopFrame s
  let f := { s.frm.now with dropped := true, lockstepFault := s.frm.now.lockstep }
  let s := { s with frm := { s.frm with now := f } }
  if f.lockstep then failOutcome f s else plainOutcome f s

/-- Completion flags of a frame (Table 2.2). -/
def FrameFacts.flags (f : FrameFacts) : Nat := b2n f.overrun + 2 * b2n f.suppressed + 4 * b2n f.fenced

/-- The frame of a number, while it awaits confirmation. -/
def State.awaitedOf (s : State) (k : Nat) : Option Awaited := s.frm.awaiting.find? (fun a => decide (a.facts.number = k))

/-- A frame's outcome is known: it awaits nothing, and what is kept of the last ended frame follows. -/
def endWait (f : FrameFacts) (s : State) : State :=
  { s with frm := { s.frm with
      awaiting := s.frm.awaiting.filter (fun a => decide (a.facts.number ≠ f.number))
      ended := if s.frm.ended.number = f.number then f else s.frm.ended } }

/-- R270: the completion of a lockstep frame goes to the other members. -/
def sendCompletion (f : FrameFacts) (s : State) : State := sendStatus (statusRecord s.lnk.id 2 f.flags f.number 0 0 0) s

/-- R48: the frame after the faulted frame `k` is dropped too: at once where it runs or already awaits confirmation, and
as it begins where it is still to come. -/
def dropAfter (k : Nat) (s : State) : State :=
  match s.awaitedOf (k + 1) with
  | some a =>
    let g := { a.facts with dropped := true, lockstepFault := true }
    startReport g (failOutcome g (endWait g s))
  | none =>
    if s.frm.phase = .inFrame && decide (s.frm.now.number = k + 1) then (if s.frm.now.dropped then s else dropCurrent s)
    else if s.frm.nextNumber = k + 1 then { s with frm := { s.frm with dropNext := true } }
    else s

/-- R47, R48: a frame that has ended has a lockstep fault, by a member and its completion flags. -/
def lockstepFault (f : FrameFacts) (device flags : Nat) (s : State) : State :=
  let g := { f with lockstepFault := true }
  dropAfter f.number (startReport g (failOutcome g (raise 0x0022 2 device [flags] (endWait g s))))

/-- R47: a frame is confirmed. -/
def confirmFrame (f : FrameFacts) (s : State) : State :=
  let g := { f with confirmed := true }
  let s := setResults g (endWait g s)
  startReport g (settleFrame g.number g.buffers { s with frm := { s.frm with lastGood := g.number } })

/-- The first other member, in rising order, whose completion for a frame is missing. -/
def State.missingMember (s : State) (a : Awaited) : Option Nat :=
  s.otherMembers.find? (fun m => !(mapGet completion0 a.completions m).present)

/-- The first other member whose completion carries a flag. -/
def State.flaggedMember (s : State) (a : Awaited) : Option Nat :=
  s.otherMembers.find? (fun m => decide ((mapGet completion0 a.completions m).flags ≠ 0))

/-- R47: a flag makes a lockstep fault of the frame that awaits confirmation, and every completion without one confirms
it. -/
def judgeConfirm (k : Nat) (s : State) : State :=
  match s.awaitedOf k with
  | none => s
  | some a => match s.flaggedMember a with
    | some m => lockstepFault a.facts m (mapGet completion0 a.completions m).flags s
    | none => if (s.missingMember a).isNone then confirmFrame a.facts s else s

/-- R47, R440: the end of a lockstep frame: the completion is sent, and the frame awaits the others' unless its own
carries a flag. -/
def lockstepEnd (s : State) : State :=
  let f := s.frm.ended
  let s := sendCompletion f s
  let s := { s with frm := { s.frm with
    awaiting := s.frm.awaiting ++ [{ facts := f, completions := s.frm.completionsNext }], completionsNext := [] } }
  if f.flags ≠ 0 then lockstepFault f s.lnk.id f.flags s else judgeConfirm f.number s

/-- R48, R270: the end of a frame that was dropped: its outcome is known already. A lockstep frame still sends its
completion. -/
def droppedEnd (s : State) : State :=
  let f := s.frm.ended
  let s := if f.lockstep then sendCompletion f s else s
  startReport f { s with frm := { s.frm with completionsNext := [] } }

/-- The outcome of the frame that has just ended. -/
def endOutcome (s : State) : State :=
  if s.frm.ended.dropped then droppedEnd s
  else if s.frm.ended.lockstep then lockstepEnd s
  else startReport s.frm.ended (plainOutcome s.frm.ended s)

/-- The oldest frame whose confirm point has come. -/
def State.confirmDue (s : State) : Option Awaited :=
  s.frm.awaiting.find? (fun a => decide (a.facts.start + a.facts.period + s.frm.confirmWait ≤ s.frm.tc))

/-- R47: the confirm point of a frame. -/
def doConfirmDeadline (s : State) : State :=
  if !s.powered then s
  else match s.confirmDue with
    | none => s
    | some a => match s.missingMember a with
      | some m => lockstepFault a.facts m 0 s
      | none => judgeConfirm a.facts.number s

/-- R47. -/
def execConfirmDeadline (s : State) : Host.Outcome State Fault Refusal := .next (doConfirmDeadline s)

/-! ## Records received (R44 to R46) -/

/-- Period of the frame after the present one, or of the one that waits to start. -/
def State.nextPeriodNow (s : State) : Nat :=
  if s.frm.nextArm && decide (s.frm.latch = s.frm.nextAt) then s.frm.nextPeriod else s.frm.period

/-- R46: a vote with other timing: the current lockstep frame faults and the device suspends at the boundary. The event
is written as the vote is absorbed: R46 does not say when (log 101). -/
def divergent (device start period : Nat) (s : State) : State :=
  let n := s.frm.now
  let s := { s with
    frm := { s.frm with now := { n with faulted := n.faulted || (n.lockstep && decide (s.frm.phase = .inFrame)) } }
    dev := { s.dev with suspendReq := true } }
  raiseFull 0x0023 2 0x0136 device 0 (split64 start ++ [period]) s

/-- R46: this device's start and period of the frame a vote names: the present one's, or else the next one's. -/
def State.ownTiming (s : State) (frame : Nat) : Nat × Nat :=
  if s.frm.phase = .inFrame && decide (frame = s.frm.count) then (s.frm.frameStart, s.frm.period)
  else (s.frm.nextAt, s.nextPeriodNow)

/-- R44, R46: a vote. Its timing is compared whatever frame it names, and it counts for the next frame. -/
def takeVote (b : List Nat) (s : State) : State :=
  let d := leAt b 0 2
  let v : Vote := { flags := leAt b 3 1, frame := leAt b 4 8, level := leAt b 12 1 % 8, start := leAt b 16 8, period := leAt b 24 4, present := true }
  let own := s.ownTiming v.frame
  let s := if v.frame = s.frm.nextNumber then { s with frm := { s.frm with votes := mapSet vote0 s.frm.votes d v } } else s
  if v.start ≠ own.1 || v.period ≠ own.2 then divergent d v.start v.period s else s

/-- R47: a completion, of a frame that awaits confirmation or of the one still running here. -/
def takeCompletion (b : List Nat) (s : State) : State :=
  let d := leAt b 0 2
  let c : Completion := { flags := leAt b 3 1 % 16, frame := leAt b 4 8, present := true }
  if (s.awaitedOf c.frame).isSome then
    judgeConfirm c.frame { s with frm := { s.frm with awaiting := s.frm.awaiting.map (fun a =>
      if a.facts.number = c.frame then { a with completions := mapSet completion0 a.completions d c } else a) } }
  else if s.frm.phase = .inFrame && decide (c.frame = s.frm.now.number) then
    { s with frm := { s.frm with completionsNext := mapSet completion0 s.frm.completionsNext d c } }
  else s

/-- A frame-status record of another member (Table 2.2); reserved kinds do nothing. -/
def absorbRecord (b : List Nat) (s : State) : State :=
  if !s.otherMembers.contains (leAt b 0 2) then s
  else match leAt b 2 1 with
    | 1 => if s.kpr.state = .running then takeVote b s else s
    | 2 => takeCompletion b s
    | _ => s

/-- R44: the planner absorbs a record. -/
def doStatusRecordReceive (b : List Nat) (s : State) : State := if s.powered then absorbRecord b s else s

/-- R44. -/
def execStatusRecordReceive (b : List Nat) (s : State) : Host.Outcome State Fault Refusal :=
  .next (doStatusRecordReceive (toBytes (slice b 0 32)) s)

end Sys2Proof.Machine
end

