-- ==== Sys2Proof/Machine/Link.lean ====
section
/-! DEFINITION. Ovilink commands (chapter 12): LNK registers, training and lanes, lasers, flits that arrive, timeouts. -/
namespace Sys2Proof.Machine

/-! ## Time alignment (R277 to R280) -/

/-- The link is trained: it carries training words and timing symbols (R264). -/
def Link.trained (x : Link) : Bool := decide (x.state = .up) || decide (x.state = .wrongNeighbour)

/-- R279, R284: the device takes part in mastership: it has an ID, and its acquisition is done or not deferred. -/
def State.inMastership (s : State) : Bool := s.lnk.assigned && (s.lnk.acquired || s.inStates [.staging, .ready])

/-- R280: candidate upstreams: trained links with a symbol of the last 16 µs. -/
def State.candidates (s : State) : List (Nat × Symbol) :=
  (List.range 32).filterMap (fun l =>
    match (s.linkOf l).symbol with
    | some y => if (s.linkOf l).trained && decide (s.frm.tc < y.tc + 16 * tcUs) then some (l, y) else none
    | none => none)

/-- R277: one candidate precedes another: lowest master, then smallest depth, then lowest link. -/
def precedes (a b : Nat × Symbol) : Bool :=
  decide (a.2.master < b.2.master) || (decide (a.2.master = b.2.master) &&
    (decide (a.2.depth < b.2.depth) || (decide (a.2.depth = b.2.depth) && decide (a.1 < b.1))))

/-- The first candidate. -/
def bestCandidate : List (Nat × Symbol) → Option (Nat × Symbol)
  | [] => none
  | c :: t => some (t.foldl (fun m d => if precedes d m then d else m) c)

/-- R280: alignment is lost: locked clears, an event, and bit 3 of the votes. -/
def loseAlignment (s : State) : State :=
  if !s.lnk.locked then s
  else
    raise 0x0044 1 s.lnk.upstream [ofSigned 32 s.lnk.offset]
      { s with lnk := { s.lnk with locked := false }, frm := { s.frm with voteBad := true } }

/-- The device locks; its votes are good again. -/
def lockTime (s : State) : State := { s with lnk := { s.lnk with locked := true }, frm := { s.frm with voteBad := false } }

/-- The device is master: it is aligned with itself (log 46). It acquires, as the first of its links is trained (R279). -/
def beMaster (s : State) : State :=
  { s with lnk := { s.lnk with
      master := s.lnk.id, masterKnown := true, isMaster := true, depth := 0, offset := 0
      acquired := s.lnk.acquired || s.lnk.links.any (fun x => x.trained) } }

/-- R277, R279: master, depth and upstream follow from what the neighbours announce; where none takes part the device is
master itself. A change of master is a loss of alignment. -/
def judgeMaster (s : State) : State :=
  if !s.inMastership then
    let s := loseAlignment s
    { s with lnk := { s.lnk with masterKnown := false, isMaster := false } }
  else match bestCandidate s.candidates with
    | none =>
      if s.lnk.masterKnown && decide (s.lnk.master ≠ s.lnk.id) then beMaster (loseAlignment s) else lockTime (beMaster s)
    | some (l, y) =>
      let own := decide (s.lnk.id ≤ y.master)
      let m := if own then s.lnk.id else y.master
      let changed := s.lnk.masterKnown && decide (s.lnk.master ≠ m)
      let s := if changed then loseAlignment s else s
      if own then
        let s := beMaster s
        if changed then s else lockTime s
      else { s with lnk := { s.lnk with
        master := m, masterKnown := true, isMaster := false, depth := y.depth + 1, upstream := l } }

/-- R278: the apparent delay of a symbol, in 1/16 tc: from its count to the receiver's at its arrival, `phase` sixteenths
into the tick. -/
def State.apparentDelay (s : State) (symTc phase : Nat) : Int := (16 * s.frm.tc + phase : Nat) - (16 * symTc : Nat)

/-- R278: the offset to the upstream, in 1/16 tc: half the difference of the apparent delays on the two fibres; `back` is
that of this device's own symbol at the upstream. -/
def State.measuredOffset (s : State) (symTc phase : Nat) (back : Int) : Int := (s.apparentDelay symTc phase - back) / 2

/-- R279: the first symbol followed loads the upstream's count, corrected by the measured offset; the symbols held are
taken again at the new time. What is left of the offset is answered with it. -/
def acquireTime (offset : Int) (s : State) : Int × State :=
  if s.lnk.acquired then (offset, s)
  else
    let tc := (((16 * s.frm.tc : Nat) : Int) - offset).toNat / 16 % 2 ^ 64
    (offset - ((16 * s.frm.tc : Nat) - (16 * tc : Nat)),
     { s with
        frm := { s.frm with tc := tc }
        lnk := { s.lnk with
          acquired := true, links := s.lnk.links.map (fun x => { x with symbol := x.symbol.map (fun y => { y with tc := tc }) }) } })

/-- The offset last measured. -/
def withOffset (offset : Int) (s : State) : State := { s with lnk := { s.lnk with offset := offset } }

/-- R278 to R280: what a symbol of the upstream does: the first one loads the count, later ones only steer the rate. The
offset to the upstream is taken as that to the master (log 85). `lock` is false where the master has just changed. -/
def followUpstream (offset : Int) (lock : Bool) (s : State) : State :=
  let (offset, s) := acquireTime offset s
  let s := withOffset offset s
  let inside := decide (-32 ≤ offset) && decide (offset ≤ 32) && decide (s.lnk.depth ≤ 32)
  if !inside then loseAlignment s else if lock then lockTime s else s

/-- R277 to R280: a timing symbol arrives: the sender's count, its master (none for a device that takes no part), its
depth. `phase` is the sixteenth of the tick at which it arrives, `back` the apparent delay of this device's symbol at the
other end. -/
def doTimingSymbol (l symTc : Nat) (master : Option Nat) (depth phase : Nat) (back : Int) (s : State) : State :=
  if !s.powered || !s.frm.tcRuns || !(s.linkOf l).trained then s
  else
    let s := setLink l (fun x => { x with symbol := master.map (fun m => { master := m, depth := depth, tc := s.frm.tc }) }) s
    let old := s.lnk.master
    let known := s.lnk.masterKnown
    let s := judgeMaster s
    if s.lnk.masterKnown && !s.lnk.isMaster && decide (s.lnk.upstream = l) && master.isSome then
      followUpstream (s.measuredOffset symTc phase back) (!known || decide (old = s.lnk.master)) s
    else s

/-- R277. -/
def execTimingSymbol (l symTc : Nat) (master : Option Nat) (depth phase : Nat) (back : Int) (s : State) :
    Host.Outcome State Fault Refusal :=
  onUnit (l < 32) (doTimingSymbol l (symTc % 2 ^ 64) (master.map (fun m => m % 2 ^ 16)) (depth % 64) (phase % 16) back s)

/-- R277: a link sends its symbol. A device that takes no part announces no master (65,536 in the model's output). -/
def doTimingSymbolSend (l : Nat) (s : State) : State :=
  if s.powered && s.frm.tcRuns && (s.linkOf l).trained then
    emit (.symbol l s.frm.tc
      (if !s.inMastership then 65536 else if s.lnk.masterKnown then s.lnk.master else s.lnk.id)
      (if s.inMastership && s.lnk.masterKnown then s.lnk.depth else 0)) s
  else s

/-- R277. -/
def execTimingSymbolSend (l : Nat) (s : State) : Host.Outcome State Fault Refusal := onUnit (l < 32) (doTimingSymbolSend l s)

/-- R280: no symbol from any candidate for 16 µs: the follower has lost its alignment and knows no master. -/
def doAlignmentTimeout (s : State) : State :=
  if s.powered && s.lnk.masterKnown && !s.lnk.isMaster && s.candidates.isEmpty then
    let s := loseAlignment s
    { s with lnk := { s.lnk with masterKnown := false } }
  else s

/-- R280. -/
def execAlignmentTimeout (s : State) : Host.Outcome State Fault Refusal := .next (doAlignmentTimeout s)

/-! ## LNK registers (R284) -/

/-- States that take `LNK.FWD`, quiesce and the remote-access registers. -/
def lnkStates : List DevState := [.ready, .running, .suspended]

/-- R284: the ID goes to the neighbours of trained links in training words. -/
def announce (s : State) : State :=
  ((List.range 32).filter (fun l => (s.linkOf l).trained)).foldl
    (fun s l => emit (.training l (leBytes 2 s.lnk.id ++ [b2n s.lnk.assigned])) s) s

/-- R284: `LNK.DEVICE`: assigned in bit 16, the ID in bits [15:0]. -/
def writeLnkDevice (v : Nat) (s : State) : State :=
  let off := 0x600008
  regWrite off v 0x1FFFF 0 (inState off v [.rom, .ready] (fun s =>
    let s := { s with lnk := { s.lnk with assigned := bit v 16, id := field v 0 16 } }
    judgeMaster (announce s))) s

/-- R284. The operand is the value written. -/
def execLnkDeviceWrite (v : Nat) (s : State) : Host.Outcome State Fault Refusal := .next (writeLnkDevice (v % 2 ^ 64) s)

/-- R274, R275: `LNK.FWD[j]`: the link sets of devices 2j and 2j + 1. -/
def writeFwd (j v : Nat) (s : State) : State :=
  let off := 0x640000 + 8 * j
  inState off v lnkStates (fun s => { s with lnk := { s.lnk with fwd := mapSet 0 s.lnk.fwd j v } }) s

/-- R275. -/
def execLnkFwdWrite (j v : Nat) (s : State) : Host.Outcome State Fault Refusal :=
  onUnit (j < 32768) (writeFwd j (v % 2 ^ 64) s)

/-- Word 1 of `LNK.LINK[l]` (Table 12.12). -/
def Link.word1 (x : Link) : Nat :=
  x.expected * 2 ^ 48 + x.minWidth * 2 ^ 40 + x.lengthM * 2 ^ 16 + b2n x.expectAny * 4 + b2n x.dateline * 2 + b2n x.quiesce

/-- One training attempt begins; those after bring-up are counted. -/
def beginTraining (l : Nat) (s : State) : State :=
  setLink l (fun x => { x with
    state := .training, retrains := if s.inStates [.rom, .staging] then x.retrains else satAdd 16 x.retrains 1 }) s

/-- R266: quiesce is set: the link drains and goes down; one that is not up is held down at once. -/
def setQuiesce (l : Nat) (s : State) : State :=
  let x := s.linkOf l
  let s := setLink l (fun x => { x with quiesce := true }) s
  if x.state = .unlicensed then s else if x.trained then settleQuiesce l s else linkDown l .quiesced s

/-- R259: quiesce is cleared: a link that was held down trains. -/
def clearQuiesce (l : Nat) (s : State) : State :=
  let s := setLink l (fun x => { x with quiesce := false }) s
  if (s.linkOf l).state = .quiesced then beginTraining l s else s

/-- R284: word 1 of `LNK.LINK[l]`: dateline in bit 1 changes in READY and SUSPENDED only, quiesce in bit 0 in RUNNING
too. -/
def writeLinkWord1 (l v : Nat) (s : State) : State :=
  let off := 0x601008 + 32 * l
  let x := s.linkOf l
  regWrite off v 3 x.word1 (fun s =>
    if !s.inStates lnkStates || (bit v 1 != x.dateline && !s.inStates [.ready, .suspended]) then refuse off v 0x0120 s
    else
      let s := setLink l (fun x => { x with dateline := bit v 1 }) s
      if bit v 0 && !x.quiesce then setQuiesce l s
      else if !bit v 0 && x.quiesce then clearQuiesce l s
      else s) s

/-- R266: setting quiesce. -/
def doQuiesceSet (l : Nat) (s : State) : State := writeLinkWord1 l (2 * b2n (s.linkOf l).dateline + 1) s

/-- R266. -/
def execQuiesceSet (l : Nat) (s : State) : Host.Outcome State Fault Refusal := onUnit (l < 32) (doQuiesceSet l s)

/-- R259: clearing quiesce. -/
def doQuiesceClear (l : Nat) (s : State) : State := writeLinkWord1 l (2 * b2n (s.linkOf l).dateline) s

/-- R259. -/
def execQuiesceClear (l : Nat) (s : State) : Host.Outcome State Fault Refusal := onUnit (l < 32) (doQuiesceClear l s)

/-- R276: writing the dateline bit. -/
def doDatelineWrite (l : Nat) (on : Bool) (s : State) : State := writeLinkWord1 l (2 * b2n on + b2n (s.linkOf l).quiesce) s

/-- R276. -/
def execDatelineWrite (l : Nat) (on : Bool) (s : State) : Host.Outcome State Fault Refusal :=
  onUnit (l < 32) (doDatelineWrite l on s)

/-! ## Remote access (R272) -/

/-- R284: remote-access registers may be written now. -/
def State.raccOpen (s : State) : Bool := s.inStates lnkStates && decide (s.lnk.raccState ≠ 1)

/-- R272: the access starts. Without an ID no request flit leaves (R284), and the access ends by its timeout. -/
def startRacc (s : State) : State :=
  let s := { s with lnk := { s.lnk with raccState := 1, raccStatus := 0, raccAt := s.frm.tc } }
  if !s.lnk.assigned then s
  else
    issueRequest { endpoint := hostEndpoint, tag := 0, device := s.lnk.raccPeer, core := 0, uid := 0, racc := true, at_ := 0 }
      { dest := s.lnk.raccPeer, src := 0, endpoint := hostEndpoint, ty := if s.lnk.raccWrite then 1 else 2, scheduled := false
        vc := 0, lenM1 := 0, hops := 48, frame := 0, tag := 0, addr := s.lnk.raccAddr * 32
        payload := if s.lnk.raccWrite then (s.lnk.raccData.map (leBytes 8)).flatten else [] } s

/-- R272: `LNK.RACC_CMD`: go in bit 63, write in bit 32, the peer in bits [15:0]. -/
def writeRaccCmd (v : Nat) (s : State) : State :=
  let off := 0x600020
  regWrite off v (2 ^ 63 + 2 ^ 32 + 0xFFFF) (s.lnk.raccState * 2 ^ 61 + s.lnk.raccStatus * 2 ^ 48) (fun s =>
    if !s.raccOpen then refuse off v 0x0120 s
    else
      let s := { s with lnk := { s.lnk with raccWrite := bit v 32, raccPeer := field v 0 16 } }
      if bit v 63 then startRacc s else s) s

/-- `LNK.RACC_ADDR`: bits [39:5]. -/
def writeRaccAddr (v : Nat) (s : State) : State :=
  let off := 0x600028
  regWrite off v 0xFFFFFFFFE0 0 (fun s =>
    if !s.raccOpen then refuse off v 0x0120 s else { s with lnk := { s.lnk with raccAddr := field v 5 35 } }) s

/-- `LNK.RACC_DATA[i]`. -/
def writeRaccData (i v : Nat) (s : State) : State :=
  if !s.hostUp then s else if !s.raccOpen then refuse (0x600040 + 8 * i) v 0x0120 s
  else { s with lnk := { s.lnk with raccData := setNth s.lnk.raccData i v } }

/-- R272: a read of peer memory. -/
def doRaccRead (peer : Nat) (s : State) : State := writeRaccCmd (2 ^ 63 + peer) s

/-- R272: go with write 0, and the peer. -/
def execRaccRead (peer : Nat) (s : State) : Host.Outcome State Fault Refusal := .next (doRaccRead (peer % 2 ^ 16) s)

/-- R272: a write of peer memory. -/
def doRaccWrite (peer : Nat) (s : State) : State := writeRaccCmd (2 ^ 63 + 2 ^ 32 + peer) s

/-- R272: go with write 1, and the peer. -/
def execRaccWrite (peer : Nat) (s : State) : Host.Outcome State Fault Refusal := .next (doRaccWrite (peer % 2 ^ 16) s)

/-- R272: no answer after 100 µs. -/
def doRaccTimeout (s : State) : State :=
  if s.powered && decide (s.lnk.raccState = 1) && decide (s.lnk.raccAt + 100 * tcUs ≤ s.frm.tc) then
    { s with lnk := { s.lnk with
        raccState := 3, raccStatus := 8, requests := s.lnk.requests.filter (fun r => !r.racc) } }
  else s

/-- R272. -/
def execRaccTimeout (s : State) : Host.Outcome State Fault Refusal := .next (doRaccTimeout s)

/-! ## Training (R258, R259, R264) -/

/-- The cartridge of link `l`. -/
def State.cartOf (s : State) (l : Nat) : Cart := nth {} s.lnk.carts (l / 8)

/-- Lanes of a link whose wavelength has a laser. -/
def Cart.lit (c : Cart) : Nat := if c.present && !c.blanked then 0xFFFF ^^^ c.failed else 0

/-- R259, R264: training ends: the link is up at the width of its good lanes, or down. -/
def doLinkTrained (l lanes : Nat) (neighbour : Option Nat) (lengthM : Nat) (light : Bool) (s : State) : State :=
  if !s.powered || decide ((s.linkOf l).state ≠ .training) then s
  else
    let good := if light then lanes &&& (s.cartOf l).lit else 0
    let w := widthFor (popcount 16 good)
    let s := setLink l (fun x => { x with
      lanesGood := good, addLanes := 0, newLanes := 0, newAt := [], light := light, neighbourKnown := decide (w ≠ 0) && neighbour.isSome
      neighbour := neighbour.getD 0, lengthM := min lengthM 255, width := w, lanesUsed := lowestLanes good w
      state := if w ≠ 0 then .up else if light then .down else .noLight }) s
    if w = 0 then noteLoss l s else judgeNeighbour l s

/-- R259: the lanes good in both directions, the ID the neighbour announces, the fibre's length, whether light is
present. -/
def execLinkTrained (l lanes : Nat) (neighbour : Option Nat) (lengthM : Nat) (light : Bool) (s : State) :
    Host.Outcome State Fault Refusal :=
  onUnit (l < 32) (doLinkTrained l (lanes % 2 ^ 16) (neighbour.map (fun n => n % 2 ^ 16)) lengthM light s)

/-- R259: a link that is down trains again while light is present. -/
def doLinkTrainRetry (l : Nat) (light : Bool) (s : State) : State :=
  let x := s.linkOf l
  if !s.powered || x.quiesce || !(s.cartOf l).present || !(decide (x.state = .down) || decide (x.state = .noLight)) then s
  else
    let s := setLink l (fun x => { x with light := light, state := if light then .down else .noLight }) s
    if light then beginTraining l s else s

/-- R259. -/
def execLinkTrainRetry (l : Nat) (light : Bool) (s : State) : Host.Outcome State Fault Refusal :=
  onUnit (l < 32) (doLinkTrainRetry l light s)

/-- R264: training words on a trained link carry a new ID of the neighbour, or none. -/
def doNeighbourIdAnnounce (l : Nat) (neighbour : Option Nat) (s : State) : State :=
  if s.powered && (s.linkOf l).trained then
    let s := setLink l (fun x => { x with neighbourKnown := neighbour.isSome, neighbour := neighbour.getD 0 }) s
    let s := judgeNeighbour l s
    drainLink l ((s.linkOf l).waiting.length + 1) s
  else s

/-- R264. -/
def execNeighbourIdAnnounce (l : Nat) (neighbour : Option Nat) (s : State) : Host.Outcome State Fault Refusal :=
  onUnit (l < 32) (doNeighbourIdAnnounce l (neighbour.map (fun n => n % 2 ^ 16)) s)

/-! ## Lanes and lasers (R257, R261, R262, R433) -/

/-- A lane of a link is no longer good. -/
def dropLane (l i : Nat) (s : State) : State :=
  if bit (s.linkOf l).lanesGood i then
    rewidth l (setLink l (fun x => { x with
      lanesGood := x.lanesGood - 2 ^ i, addLanes := if bit x.addLanes i then x.addLanes - 2 ^ i else x.addLanes
      newLanes := if bit x.newLanes i then x.newLanes - 2 ^ i else x.newLanes, newAt := mapSet 0 x.newAt i 0 }) s)
  else s

/-- R261: a lane in use is dropped. With it come the codewords its FEC has found uncorrectable and corrected. -/
def doLaneDrop (l i uncorrectable corrected : Nat) (s : State) : State :=
  if s.powered && bit (s.linkOf l).lanesUsed i then
    dropLane l i (setLink l (fun x => { x with
      fecUncorrectable := satAdd 16 x.fecUncorrectable uncorrectable, fecCorrected := satAdd 32 x.fecCorrected corrected }) s)
  else s

/-- R261. -/
def execLaneDrop (l i uncorrectable corrected : Nat) (s : State) : Host.Outcome State Fault Refusal :=
  onUnit (l < 32 ∧ i < 16) (doLaneDrop l i uncorrectable corrected s)

/-- R284: a lane has become good in both directions: it shows at once, and its second of R262 begins. -/
def lightLane (l i : Nat) (s : State) : State :=
  setLink l (fun x => { x with
    lanesGood := x.lanesGood ||| 2 ^ i, newLanes := x.newLanes ||| 2 ^ i, newAt := mapSet 0 x.newAt i s.frm.tc }) s

/-- R262: a lane that has been good for 1 s waits for the next entry interval; outside RUNNING it is added at once. -/
def admitLane (l i : Nat) (s : State) : State :=
  let old (x : Link) : Link := { x with newLanes := x.newLanes - 2 ^ i, newAt := mapSet 0 x.newAt i 0 }
  if s.kpr.state = .running then setLink l (fun x => { old x with addLanes := x.addLanes ||| 2 ^ i }) s
  else rewidth l (setLink l old s)

/-- R262: a lane of a trained link is good in both directions: it has just become so, or it has been so for 1 s. -/
def doLaneAdd (l i : Nat) (s : State) : State :=
  let x := s.linkOf l
  if s.powered && x.trained && bit (s.cartOf l).lit i then
    if !bit x.lanesGood i then lightLane l i s
    else if bit x.newLanes i && decide (mapGet 0 x.newAt i + tcSec ≤ s.frm.tc) then admitLane l i s
    else s
  else s

/-- R262. -/
def execLaneAdd (l i : Nat) (s : State) : Host.Outcome State Fault Refusal := onUnit (l < 32 ∧ i < 16) (doLaneAdd l i s)

/-- Changing one cartridge. -/
def setCart (k : Nat) (f : Cart → Cart) (s : State) : State :=
  { s with lnk := { s.lnk with carts := setNth s.lnk.carts k (f (nth {} s.lnk.carts k)) } }

/-- The links of a cartridge (R9, R257). -/
def cartLinks (k : Nat) : List Nat := (List.range 8).map (fun j => 8 * k + j)

/-- R257: a working laser fails: its lane is dark on the 8 links. The group's spare starts to tune to the wavelength; a
second failure in the group loses the wavelength. -/
def doLaserFail (k w : Nat) (s : State) : State :=
  let c := nth {} s.lnk.carts k
  if !s.powered || !c.present || bit c.failed w then s
  else
    let spent := bit c.spareUsed (w / 4) || decide (field c.tuning (w / 4 * 4) 4 ≠ 0)
    let s := setCart k (fun c => { c with
      failed := c.failed ||| 2 ^ w, tuning := if spent then c.tuning else c.tuning ||| 2 ^ w }) s
    let s := raise 0x0041 1 k [w, if spent then 3 else 1] s
    (cartLinks k).foldl (fun s l => dropLane l w s) s

/-- R257: cartridge and wavelength. -/
def execLaserFail (k w : Nat) (s : State) : Host.Outcome State Fault Refusal := onUnit (k < 4 ∧ w < 16) (doLaserFail k w s)

/-- R257: the spare takes the failed wavelength; its lanes retrain and come back under R262. -/
def doSpareLaserInService (k w : Nat) (s : State) : State :=
  let c := nth {} s.lnk.carts k
  if !s.powered || !c.present || !bit c.tuning w then s
  else
    let g := w / 4
    raise 0x0041 1 k [w, 2] (setCart k (fun c => { c with
      failed := c.failed - 2 ^ w, tuning := c.tuning - 2 ^ w, spareUsed := c.spareUsed ||| 2 ^ g
      spareMap := c.spareMap - field c.spareMap (2 * g) 2 * 2 ^ (2 * g) + w % 4 * 2 ^ (2 * g) }) s)

/-- R257. -/
def execSpareLaserInService (k w : Nat) (s : State) : Host.Outcome State Fault Refusal :=
  onUnit (k < 4 ∧ w < 16) (doSpareLaserInService k w s)

/-- R257: a laser's bias has risen above 120%. -/
def doLaserAged (k w : Nat) (s : State) : State :=
  let c := nth {} s.lnk.carts k
  if !s.powered || !c.present || bit c.aged w then s
  else raise 0x0041 0 k [w, 4] (setCart k (fun c => { c with aged := c.aged ||| 2 ^ w }) s)

/-- R257. -/
def execLaserAged (k w : Nat) (s : State) : Host.Outcome State Fault Refusal := onUnit (k < 4 ∧ w < 16) (doLaserAged k w s)

/-- R433: a lever is opened: the lasers are blanked, present clears, each working wavelength is told as lost and the
eight links go down. The cartridge stays unused until the next whole-device reset. -/
def doCartridgeLeverOpen (k : Nat) (s : State) : State :=
  let c := nth {} s.lnk.carts k
  if !s.powered || !c.present then s
  else
    let s := setCart k (fun c => { c with present := false, blanked := true, tuning := 0, failed := 0xFFFF }) s
    let s := ((List.range 16).filter (fun w => !bit c.failed w)).foldl (fun s w => raise 0x0041 1 k [w, 3] s) s
    (cartLinks k).foldl (fun s l =>
      let s := setLink l (fun x => { x with lanesGood := 0 }) s
      if (s.linkOf l).state = .unlicensed || (s.linkOf l).state = .quiesced then s else linkDown l .down s) s

/-- R433. -/
def execCartridgeLeverOpen (k : Nat) (s : State) : Host.Outcome State Fault Refusal :=
  onUnit (k < 4) (doCartridgeLeverOpen k s)

/-! ## Acknowledgements and credits (R266, R267) -/

/-- Sequence numbers from the oldest unacknowledged flit through an acknowledged one leave the replay buffer. -/
def ackedReplay (ack : Nat) (l : List LinkFlit) : List LinkFlit :=
  match l with
  | [] => []
  | f :: t =>
    let n := (ack + 4096 - f.seq) % 4096 + 1
    if n ≤ (f :: t).length then (f :: t).drop n else f :: t

/-- R267: returned credits of a class: channel 0 first (log 32). -/
def returnCredits (used : List Nat) (c n : Nat) : List Nat :=
  let a := min n (nth 0 used (2 * c))
  setNth (setNth used (2 * c) (nth 0 used (2 * c) - a)) (2 * c + 1) (nth 0 used (2 * c + 1) - (n - a))

/-- R266, R267: what a flit's trailer says: flits acknowledged and credits returned. -/
def takeTrailer (l : Nat) (f : LinkFlit) (s : State) : State :=
  let s := setLink l (fun x =>
    let rest := ackedReplay f.ack x.replay
    { x with
      replay := rest, again := if rest.length < x.replay.length then 0 else x.again
      usedCredits := returnCredits (returnCredits x.usedCredits 0 f.credU) 1 f.credS }) s
  settleQuiesce l (drainLink l ((s.linkOf l).waiting.length + 1) s)

/-- R266: a flit arrives on a link that is up. One out of order is discarded and the acknowledgement repeated; the one
expected is taken and goes on; `body` says when it leaves its receiver buffer. -/
def receive (l : Nat) (f : LinkFlit) (body : State → State) (s : State) : State :=
  if !s.powered || decide ((s.linkOf l).state ≠ .up) then s
  else if f.seq ≠ (s.linkOf l).expectSeq then sendIdle l s
  else
    let s := setLink l (fun x => { x with expectSeq := (x.expectSeq + 1) % 4096 }) s
    let s := takeTrailer l f s
    let sent := (s.linkOf l).sendSeq
    let s := body s
    if (s.linkOf l).state = .up && decide ((s.linkOf l).sendSeq = sent) then sendIdle l s else s

/-! ## Delivery and forwarding (R274) -/

/-- R274: a flit from link `i` for another device goes on with one hop less, through the sills between the two light
engines; its receiver buffer is free when it leaves (R267). -/
def forward (i : Nat) (f : Flit) (s : State) : State :=
  let c := b2n f.scheduled
  let f := { f with hops := f.hops - 1 }
  if f.hops = 0 then oweCredit i c (discardFlit false f s)
  else match s.routeTo f.dest f.endpoint with
    | some l => queueFrom (some (i, c)) l f (crossNet (linkEndpoint i) (linkEndpoint l) f.netFlits s)
    | none => oweCredit i c (discardFlit false f s)

/-- R274, R284: a flit from link `i` is delivered here, forwarded, or, without an own ID, answered UNREACHABLE where it is
a request. A flit that is delivered has left its receiver buffer. -/
def route (i : Nat) (f : Flit) (here : State → State) (s : State) : State :=
  let c := b2n f.scheduled
  if !s.lnk.assigned then
    (if f.request then sendResponse (ackFlit s.lnk.id f 6) (oweCredit i c s) else forward i f s)
  else if f.dest = s.lnk.id then here (oweCredit i c s)
  else forward i f s

/-- Bytes a request asks for or carries. -/
def Flit.len (f : Flit) : Nat := 32 * (f.lenM1 + 1)

/-- R273: a request refused NOT_ADMITTED is counted, with at most one event in a second. -/
def notAdmitted (f : Flit) (s : State) : State :=
  let sec := s.frm.tc / tcSec + 1
  let s := { s with lnk := { s.lnk with notAdmitted := satAdd 32 s.lnk.notAdmitted 1, naCount := s.lnk.naCount + 1 } }
  if s.lnk.naSec = sec then s
  else raise 0x0042 1 f.src [s.lnk.naCount] { s with lnk := { s.lnk with naSec := sec, naCount := 0 } }

/-- R273, checks 1 and 2, R301: the source is admitted and no word lies in a window that is host-owned or moving to the
host. -/
def State.peerAllowed (s : State) (f : Flit) : Bool :=
  s.admitted f.src && !(List.range (f.lenM1 + 1)).any (fun i =>
    match s.windowOf (f.addr + 32 * i) with
    | some w => !w.workOwned
    | none => false)

/-- R269: a scheduled WRITE carries the number of the frame that runs now. -/
def State.inFrameTag (s : State) (f : Flit) : Bool :=
  decide (s.frm.phase = .inFrame) && !s.frm.now.dropped && decide (f.frame = s.frameTag)

/-- R269, R47: a suppressed WRITE: counted, and bit 1 of the completion of the frame it belongs to: a frame that awaits
confirmation where the tag is its own, whose completion goes out again with the bit, or the frame that runs (log 34). -/
def suppressPeer (f : Flit) (s : State) : State :=
  let s := { s with lnk := { s.lnk with suppressed := satAdd 16 s.lnk.suppressed 1 } }
  match s.frm.awaiting.find? (fun a => decide (a.facts.number % 256 = f.frame)) with
  | some a =>
    let g := { a.facts with suppressed := true }
    lockstepFault g s.lnk.id g.flags (sendCompletion g s)
  | none =>
  if s.frm.phase = .inFrame then
    { s with frm := { s.frm with now := { s.frm.now with suppressed := true } } }
  else s

/-- ACK status of a bus error (Tables 6.6 and 12.5). -/
def peerStatus (cause : Nat) : Nat := if cause = 3 then 2 else if cause = 4 then 3 else 1

/-- The requester of a peer's access: it comes from the light engine of its link. -/
def peerWho (l : Nat) (f : Flit) : Who := { code := 5, source := f.src, unit := some (linkEndpoint l) }

/-- R273: a WRITE that is allowed reaches its tile, and the status it is answered with. A narrow one into the locked
staging span is discarded as one into a device-owned window is (R240). -/
def performWrite (l : Nat) (parity : Bool) (f : Flit) (s : State) : Nat × State :=
  let w := peerWho l f
  match s.wordBlocked f.addr with
    | some c => (peerStatus c, busError w f.addr c 0 true s)
    | none =>
      if f.addr % 32 ≠ 0 then
        (4, if s.lockedSpan f.addr f.len then stagingDiscard f.addr s else narrowWrite 5 f.src f.addr s)
      else match writeBytes w parity f.addr (slice f.payload 0 f.len) s with
        | (none, s) => (0, s)
        | (some c, s) => (peerStatus c, s)

/-- R273: a READ that is allowed reaches its tile and is answered with READ_DATA or an ACK record. -/
def performRead (l : Nat) (parity : Bool) (f : Flit) (s : State) : State :=
  match readBytes (peerWho l f) parity f.addr f.len s with
    | (.data d, s) =>
      sendResponse { ackFlit s.lnk.id f 0 with ty := 3, lenM1 := f.lenM1, payload := d } s
    | (.error c, s) => sendResponse (ackFlit s.lnk.id f (peerStatus c)) s

/-- R273: an allowed WRITE is performed and answered. -/
def answerWrite (l : Nat) (parity : Bool) (f : Flit) (s : State) : State :=
  let (st, s) := performWrite l parity f s
  sendResponse (ackFlit s.lnk.id f st) s

/-- R148, R269, R273: a WRITE addressed to this device: refused, suppressed, held by a tile that retrains, or performed. -/
def peerWrite (l : Nat) (parity : Bool) (f : Flit) (s : State) : State :=
  if !s.peerAllowed f then sendResponse (ackFlit s.lnk.id f 5) (notAdmitted f s)
  else if f.scheduled && !s.inFrameTag f then sendResponse (ackFlit s.lnk.id f 7) (suppressPeer f s)
  else if s.tileHolds f.addr then holdRequest f.addr (.peerWrite l f parity) s
  else answerWrite l parity f s

/-- R148, R273: a READ addressed to this device: refused, held by a tile that retrains, or performed. -/
def peerRead (l : Nat) (parity : Bool) (f : Flit) (s : State) : State :=
  if !s.peerAllowed f then sendResponse (ackFlit s.lnk.id f 5) (notAdmitted f s)
  else if s.tileHolds f.addr then holdRequest f.addr (.peerRead l f parity) s
  else performRead l parity f s

/-- A flit of a type with its fields in their widths (Tables 12.3 and 12.4). -/
def LinkFlit.narrow (ty : Nat) (f : LinkFlit) : LinkFlit :=
  { flit := { f.flit with
      ty := ty, dest := f.flit.dest % 2 ^ 16, src := f.flit.src % 2 ^ 16, endpoint := f.flit.endpoint % 2 ^ 16
      vc := f.flit.vc % 2, lenM1 := f.flit.lenM1 % 8, hops := f.flit.hops % 64, frame := f.flit.frame % 256
      tag := f.flit.tag % 2 ^ 16, addr := f.flit.addr % 2 ^ 40, payload := toBytes (f.flit.payload.take 256) }
    seq := f.seq % 4096, credU := f.credU % 16, ack := f.ack % 4096, credS := f.credS % 16 }

/-- R273: a WRITE flit arrives on link `l`. `parity` is a parity error in the tile's datapath. -/
def doOviWriteFlit (l : Nat) (f : LinkFlit) (parity : Bool) (s : State) : State :=
  receive l f (route l f.flit (peerWrite l parity f.flit)) s

/-- R273. -/
def execOviWriteFlit (l : Nat) (f : LinkFlit) (parity : Bool) (s : State) : Host.Outcome State Fault Refusal :=
  onUnit (l < 32) (doOviWriteFlit l (f.narrow 1) parity s)

/-- R273: a READ flit. `flips` are errors that have come into the words since they were written. -/
def doOviReadFlit (l : Nat) (f : LinkFlit) (parity : Bool) (flips : List (Nat × Nat)) (s : State) : State :=
  receive l f (route l f.flit (fun s => peerRead l parity f.flit (flipSymbols f.flit.addr flips s))) s

/-- R273. -/
def execOviReadFlit (l : Nat) (f : LinkFlit) (parity : Bool) (flips : List (Nat × Nat)) (s : State) :
    Host.Outcome State Fault Refusal := onUnit (l < 32) (doOviReadFlit l (f.narrow 2) parity flips s)

/-- R272: READ_DATA reaches its requester. -/
def doOviReadDataFlit (l : Nat) (f : LinkFlit) (s : State) : State :=
  receive l f (route l f.flit (fun s => takeAnswer l f.flit.endpoint f.flit.tag 0 (slice f.flit.payload 0 f.flit.len) false s)) s

/-- R272. -/
def execOviReadDataFlit (l : Nat) (f : LinkFlit) (s : State) : Host.Outcome State Fault Refusal :=
  onUnit (l < 32) (doOviReadDataFlit l (f.narrow 3) s)

/-- The records of an ACK flit; a record of zeros after the first is padding (R265). -/
def ackRecords (f : Flit) : List (List Nat) :=
  let l := (List.range (4 * (f.lenM1 + 1))).map (fun i => slice f.payload (8 * i) 8)
  l.take 1 ++ (l.drop 1).filter (fun r => r.any (fun b => decide (b ≠ 0)))

/-- R271: an ACK flit: each of its records answers a request. `parity` is a parity error in the core store, in what a
SEND that goes on reads there (R53). -/
def doOviAckFlit (l : Nat) (f : LinkFlit) (parity : Bool) (s : State) : State :=
  receive l f (route l f.flit (fun s =>
    (ackRecords f.flit).foldl (fun s r => takeAnswer l (leAt r 0 2) (leAt r 2 2) (leAt r 4 1) [] parity s) s)) s

/-- R271. -/
def execOviAckFlit (l : Nat) (f : LinkFlit) (parity : Bool) (s : State) : Host.Outcome State Fault Refusal :=
  onUnit (l < 32) (doOviAckFlit l (f.narrow 4) parity s)

/-- R270: a STATUS flit: up to 8 frame-status records. -/
def doOviStatusFlit (l : Nat) (f : LinkFlit) (s : State) : State :=
  receive l f (route l f.flit (fun s =>
    (List.range (f.flit.lenM1 + 1)).foldl (fun s i => absorbRecord (slice f.flit.payload (32 * i) 32) s)
      (crossNet (linkEndpoint l) plannerEndpoint f.flit.netFlits s))) s

/-- R270. -/
def execOviStatusFlit (l : Nat) (f : LinkFlit) (s : State) : Host.Outcome State Fault Refusal :=
  onUnit (l < 32) (doOviStatusFlit l (f.narrow 5) s)

/-- R267: an IDLE flit: acknowledgements and credits only. -/
def doOviIdleFlit (l : Nat) (f : LinkFlit) (s : State) : State :=
  if s.powered && decide ((s.linkOf l).state = .up) then takeTrailer l f s else s

/-- R267. -/
def execOviIdleFlit (l : Nat) (f : LinkFlit) (s : State) : Host.Outcome State Fault Refusal :=
  onUnit (l < 32) (doOviIdleFlit l (f.narrow 0) s)

/-! ## Errors and timeouts -/

/-- R266: a flit is bad. `sent` false: it was received here and is discarded, which the acknowledgement says. `sent` true:
the neighbour has discarded one of this device's flits, and everything not acknowledged goes out again in order. -/
def doOviFlitError (l : Nat) (sent : Bool) (s : State) : State :=
  let x := s.linkOf l
  if !s.powered || decide (x.state ≠ .up) then s
  else if !sent then sendIdle l s
  else if x.replay.isEmpty then s
  else
    let s := setLink l (fun x => { x with replays := satAdd 32 x.replays x.replay.length, again := x.again + 1 }) s
    x.replay.foldl (fun s f => emit (.link l (b2n f.flit.scheduled) (laneBytes x.lanesUsed (flitBytes f))) s) s

/-- R266. -/
def execOviFlitError (l : Nat) (sent : Bool) (s : State) : Host.Outcome State Fault Refusal :=
  onUnit (l < 32) (doOviFlitError l sent s)

/-- R266: a link has resent one flit 4 times in a row: it goes down. -/
def doOviReplayLimit (l : Nat) (s : State) : State :=
  let x := s.linkOf l
  if s.powered && decide (x.state = .up) && decide (4 ≤ x.again) then linkDown l .down s else s

/-- R266. -/
def execOviReplayLimit (l : Nat) (s : State) : Host.Outcome State Fault Refusal := onUnit (l < 32) (doOviReplayLimit l s)

/-- R271: a request of a core has had no answer for 1 ms: fault 0x07. `parity` is a parity error in what a SEND that goes
on reads from the core store (R53). -/
def doPeerRequestTimeout (endpoint tag : Nat) (parity : Bool) (s : State) : State :=
  match s.lnk.requests.find? (fun r => decide (r.endpoint = endpoint) && decide (r.tag = tag) && !r.racc) with
  | none => s
  | some r =>
    if !s.powered || decide (s.frm.tc < r.at_ + tcMs) then s
    else
      let s := dropRequest r s
      match s.entryOf r.core r.uid with
      | none => resumePeer endpoint parity s
      | some e => resumePeer endpoint parity (faultEntry r.core e 7 s)

/-- R271. -/
def execPeerRequestTimeout (endpoint tag : Nat) (parity : Bool) (s : State) : Host.Outcome State Fault Refusal :=
  .next (doPeerRequestTimeout (endpoint % 2 ^ 16) (tag % 2 ^ 16) parity s)

/-- R276: a link output has waited 10 ms for a credit of a class. -/
def doCreditStall (l : Nat) (scheduled : Bool) (s : State) : State :=
  let stalled (o : OutFlit) : Bool := o.flit.scheduled == scheduled && decide (o.since + 10 * tcMs ≤ s.frm.tc)
  if s.powered && (s.linkOf l).waiting.any stalled then
    raise 0x0043 1 l [b2n scheduled] (setLink l (fun x => { x with
      creditStalls := satAdd 16 x.creditStalls 1
      waiting := x.waiting.map (fun o => if o.flit.scheduled == scheduled then { o with since := s.frm.tc } else o) }) s)
  else s

/-- R276. -/
def execCreditStall (l : Nat) (scheduled : Bool) (s : State) : Host.Outcome State Fault Refusal :=
  onUnit (l < 32) (doCreditStall l scheduled s)

end Sys2Proof.Machine
end

