-- ==== Sys2Proof/Machine/Loading.lean ====
section
/-! DEFINITION. Loading an image (chapter 11): the DEV.CTRL commands, the staging span, and the tests of a load. The
verdict on the image's signature comes with the command (log 7). -/
namespace Sys2Proof.Machine

/-! ## DEV.CTRL (R239, R244, R251, R252) -/

/-- A refused DEV.CTRL command. -/
def refuseCtrl (v code : Nat) (s : State) : State := refuse 0x0 v code s

/-- R239, R240: a load is accepted: it takes the staging registers and locks the span. -/
def startLoad (s : State) : State :=
  { s with dev := { s.dev with
      result := 1, sect := 255, detail := 0, reason := 0
      loadRun := some { first := s.dev.baseTile, length := s.dev.imageLen, acceptedTc := s.frm.tc }
      lock := some (s.dev.baseTile, s.dev.imageLen) } }

/-- R51: the FRM registers an image fixes show it, or 0 without one. -/
def showImage (i : Option Image) (s : State) : State :=
  match i with
  | none =>
    { s with frm := { s.frm with
        period := 0, slatsM1 := 0, allowance := 0, planLead := 0, members := 0, confirmWait := 0
        slats := List.replicate 16 (0, 0) } }
  | some i =>
    { s with frm := { s.frm with
        period := i.frameLe 0 4 % 2 ^ 27, slatsM1 := (i.slats - 1) % 16, allowance := i.frameLe 12 1
        planLead := i.frameLe 4 4 % 2 ^ 27, members := i.memberCount, confirmWait := i.frameLe 8 4
        slats := (List.range 16).map (fun k => if k < i.slats then ((i.slat k).2, (i.slat k).1 % 2 ^ 27) else (0, 0)) } }

/-- What goes with an image that is discarded: rebindings, its frame numbering and whatever waits for an outcome. -/
def forgetImage (s : State) : State :=
  let s := freeAll s
  { s with
    dev := { s.dev with inForce := false, rebinds := [], spareUsed := [], lastRole := 0 }
    frm := { s.frm with awaiting := [], completionsNext := [], dropNext := false, count := 0 }
    evt := { s.evt with prepared := [] } }

/-- R435: outside RUNNING and SUSPENDED a region on its own generator runs at /4 (log 48). -/
def toBringUpPoint (s : State) : State := (List.range regionCount).foldl (fun s r => changeDivisor r 4 s) s

/-- The device without an image. -/
def withoutImage (s : State) : State := { s with dev := { s.dev with image := none, lock := none, staged := none } }

/-- R251: a SUSPENDED device that loses its image is READY. -/
def readyIfSuspended (s : State) : State :=
  if s.kpr.state = .suspended then toBringUpPoint (setState .ready s) else s

/-- R251: an unload. -/
def unloadNow (s : State) : State := readyIfSuspended (withoutImage (showImage none (forgetImage s)))

/-- R330: no frame comes that was planned: a region keeps no set-point for it, and one whose divisor stays goes back to
its own. -/
def dropPlanned (s : State) : State :=
  (List.range regionCount).foldl (fun s r =>
    let s := if (s.groupOf r).planned = 0 then s else setGroup r (fun g => { g with planned := 0 }) s
    let c := s.clkOf r
    if c.source = 0 && decide (c.divisor = c.target) && decide (c.divisor ≠ 0) then moveSetpoint r c.divisor s else s) s

/-- R262, R330: what a device does at once as it leaves RUNNING: the lanes that wait are added, and set-points planned for
a frame go. -/
def leaveRunning (s : State) : State := dropPlanned ((List.range 32).foldl (fun s l => addWaiting l s) s)

/-- R31, R34: the device enters SUSPENDED. No frame runs; pending changes of period and limit are discarded, which the
state-change event says with 0x0135. -/
def enterSuspended (s : State) : State :=
  let armed := s.frm.nextArm || s.clk.nextArm
  let s := { s with
    kpr := { s.kpr with state := .suspended, prev := s.kpr.state }
    frm := { s.frm with phase := .idle, nextArm := false, planned := false, votes := [] }
    clk := { s.clk with nextArm := false }
    dev := { s.dev with suspendReq := false } }
  leaveRunning (raiseFull 0x0001 0 (if armed then 0x0135 else 0) noUnit 0 [5, s.kpr.prev.code, s.kpr.haltCause] s)

/-- R251: a suspension is asked for: it comes at E, and at once where no frame has begun yet (log 38). -/
def requestSuspend (s : State) : State :=
  if s.frm.phase = .inFrame then { s with dev := { s.dev with suspendReq := true } } else enterSuspended s

/-- R244: an enable is accepted: the check runs. -/
def startCheck (s : State) : State :=
  let back := decide (s.kpr.state = .suspended)
  setState .checking { s with dev := { s.dev with
    result := 4, sect := 255, detail := 0, reason := 0
    checkRun := some { fromSuspended := back, acceptedTc := s.frm.tc, fenced := false } } }

/-- R252, Table 11.7: a write of DEV.CTRL. -/
def writeDevCtrl (v : Nat) (s : State) : State :=
  regWrite 0x0 v 15 0 (fun s =>
    if 1 < popcount 4 v then refuseCtrl v 0x0121 s
    else if v = 0 then s
    else
      let idle := s.inStates [.ready, .suspended] && s.dev.loadRun.isNone
      if v = 8 then
        (if s.kpr.state = .running then requestSuspend s else refuseCtrl v 0x0120 s)
      else if !idle then refuseCtrl v 0x0120 s
      else if v = 2 then startLoad s
      else if s.dev.image.isNone then refuseCtrl v (if v = 1 then 0x0110 else 0x0120) s
      else if v = 4 then unloadNow s
      else startCheck s) s

/-- R239: a write of DEV.CTRL.load. -/
def doLoadImage (s : State) : State := writeDevCtrl 2 s

/-- R239. -/
def execLoadImage (s : State) : Host.Outcome State Fault Refusal := .next (doLoadImage s)

/-- R251: a write of DEV.CTRL.unload. -/
def doUnloadImage (s : State) : State := writeDevCtrl 4 s

/-- R251. -/
def execUnloadImage (s : State) : Host.Outcome State Fault Refusal := .next (doUnloadImage s)

/-- R244: a write of DEV.CTRL.enable. -/
def doEnableImage (s : State) : State := writeDevCtrl 1 s

/-- R244. -/
def execEnableImage (s : State) : Host.Outcome State Fault Refusal := .next (doEnableImage s)

/-- R251: a write of DEV.CTRL.suspend. -/
def doSuspendImage (s : State) : State := writeDevCtrl 8 s

/-- R251. -/
def execSuspendImage (s : State) : Host.Outcome State Fault Refusal := .next (doSuspendImage s)

/-! ## The staging span (R238) -/

/-- Address of image byte `b`. -/
def stagedAt (first b : Nat) : Nat := (first + b / tileData) * slotSize + b % tileData

/-- The first tile of a span that does not exist or through which it meets a fence or a committed striped window. -/
def State.spanBad (s : State) (first length : Nat) : Option Nat :=
  let tiles := (length + tileData - 1) / tileData
  let hit (k : Nat) : Bool :=
    let t := first + k
    let last := min length ((k + 1) * tileData) - k * tileData
    decide (coreCount ≤ t) || s.tileFenced t || (List.range ((last + bankData - 1) / bankData)).any (fun b => s.bankFenced t b)
      || (match s.windowOf (t * slotSize) with | some w => w.striped | none => false)
  ((List.range tiles).find? hit).map (fun k => first + k)

/-- What the keeper takes of a staged word's read; a word it cannot read has free bytes (log 37). -/
def stagedBytes (r : MemAns × State) : List Nat × State :=
  match r.1 with
  | .data d => (d, r.2)
  | .error _ => ((List.range 32).map (fun i => Config.unstated r.2.fresh i % 256), useFresh r.2)

/-- One staged word as the keeper reads it. -/
def stagedWord (first b : Nat) (s : State) : List Nat × State :=
  stagedBytes (readWord { code := 7, source := 0, unit := some keeperEndpoint } false (stagedAt first b) s)

/-- The keeper reads the staged image word by word; the words read so far are newest first. -/
def readStaged (first : Nat) : Nat → Nat → List (List Nat) → State → List Nat × State
  | 0, _, acc, s => (acc.reverse.flatten, s)
  | n + 1, b, acc, s =>
    let w := stagedWord first b s
    readStaged first n (b + 32) (w.1 :: acc) w.2

/-! ## The tests of a load (R242, R243, R439) -/

/-- Section types of Table 11.3. -/
def sectionTypes : List Nat := (List.range 14).map (fun k => k + 1)

/-- Types every image has (R243). -/
def requiredTypes : List Nat := [1, 2, 3, 5, 6, 7]

/-- Bytes of a span are all zero. -/
def allZeros (img : List Nat) (off n : Nat) : Bool := ((img.drop off).take n).all (fun b => decide (b = 0))

/-- 0x0101: magic, version and reserved bytes of the header. -/
def headerOk (img : List Nat) : Bool :=
  decide (img.take 8 = [0x46, 0x4C, 0x49, 0x54, 0x41, 0x4C, 0x00, 0x01]) && decide (leAt img 8 2 = 1)
    && allZeros img 12 4 && allZeros img 33 3 && allZeros img 56 200

/-- End of the section table. -/
def tableEnd (img : List Nat) : Nat := 0x100 + 32 * leAt img 10 2

/-- 0x0102: lengths and the signature's place. -/
def lengthsOk (img : List Nat) (length : Nat) : Bool :=
  let sig := leAt img 24 8
  decide (length % 32 = 0) && decide (length ≤ 0x40000000) && decide (0x100 ≤ length) && decide (leAt img 16 8 = length)
    && decide (tableEnd img ≤ length) && decide (sig % 32 = 0) && decide (tableEnd img ≤ sig) && decide (sig + 3309 ≤ length)
    && allZeros img (sig + 3309) (length - (sig + 3309))

/-- 0x0103: the section-table index at fault, 255 for a missing type or a wrong count. -/
def typesBad (i : Image) : Option Nat :=
  let n := i.sections.length
  if n < 6 || 32 < n then some 255
  else
    let types := i.sections.map (fun x => x.ty)
    match (List.range n).find? (fun k => !sectionTypes.contains (nth 0 types k) || (types.take k).contains (nth 0 types k)) with
    | some k => some k
    | none => if requiredTypes.all (fun t => types.contains t) then none else some 255

/-- Entries of the penalty tables of a SERVICE section, in records, from record `at_`. -/
def penaltyRecords (bytes : List Nat) : Nat → Nat → Nat
  | 0, _ => 0
  | n + 1, at_ =>
    let k := 1 + (leAt bytes (32 * at_) 4 + 3) / 4
    k + penaltyRecords bytes n (at_ + k)

/-- Record count that Table 11.15 fixes or derives for a section. -/
def countOk (x : Section) : Bool :=
  let n := x.records
  let le := leAt x.bytes
  match x.ty with
  | 1 => decide (1 ≤ n) && decide (n ≤ 49152)
  | 3 => decide (n = 8)
  | 4 => decide (n % 3 = 0)
  | 7 => decide (n = 1 + le 0 1 + (le 4 4 + 7) / 8)
  | 8 => decide (n = 1)
  | 9 => decide (n = 1 + (le 2 2 + 7) / 8 + le 4 4)
  | 0x0A => decide (n % 3 = 0)
  | 0x0B => decide (n = 33 + (le 4 4 + 15) / 16)
  | 0x0D =>
    let head := 2 + (le 12 2 + 15) / 16 + 2 * le 15 1
    decide (2 ≤ n) && decide (n = head + penaltyRecords x.bytes (le 14 1) head)
  | _ => true

/-- R439: size of a section for its records. -/
def sizeOk (x : Section) : Bool :=
  if x.ty = 2 then decide (x.size = (16 * x.records + 31) / 32 * 32) && allZeros x.bytes (16 * x.records) 16
  else decide (x.size = 32 * x.records)

/-- 0x0104: the section-table index at fault. A section that reaches to the signature's place is refused too (R242). -/
def layoutBad (img : List Nat) (i : Image) : Option Nat :=
  let sig := i.sigOff
  let bad (k : Nat) : Bool :=
    match i.sections[k]? with
    | none => false
    | some x =>
      let e := 0x100 + 32 * k
      !allZeros img (e + 2) 2 || !allZeros img (e + 24) 8 || decide (x.offset % 32 ≠ 0) || decide (x.size % 32 ≠ 0)
        || decide (x.offset < tableEnd img) || decide (sig ≤ x.offset + x.size)
        || (i.sections.take k).any (fun y => decide (0 < x.size) && decide (0 < y.size) && decide (x.offset < y.offset + y.size) && decide (y.offset < x.offset + x.size))
        || !sizeOk x || !countOk x
  (List.range i.sections.length).find? bad

/-- What a load answers: a refusal with reason code, section index and detail, or the image. -/
inductive LoadAns
  | refused (code sect detail : Nat)
  | loaded (i : Image)
  deriving DecidableEq, Repr

/-- R239, R242, R243: the tests of a load in their order. -/
def State.loadAnswer (s : State) (first length : Nat) (img : List Nat) (sigOk : Bool) : LoadAns :=
  match s.spanBad first length with
  | some t => .refused 0x0111 255 t
  | none =>
    if !headerOk img then .refused 0x0101 255 0
    else if !lengthsOk img length then .refused 0x0102 255 0
    else
      let i := parseImage img
      match typesBad i with
      | some k => .refused 0x0103 k 0
      | none => match layoutBad img i with
        | some k => .refused 0x0104 k 0
        | none =>
          if s.kpr.fwVersion < i.minFw then .refused 0x0105 255 0
          else if 1 < i.keySlot || !s.prtFlag 0 then .refused 0x0601 255 0
          else if !sigOk then .refused 0x0602 255 0
          else .loaded i

/-- R239: a load that is refused changes only its status, ends the lock and raises 0x0003. -/
def refuseLoad (code sect detail : Nat) (s : State) : State :=
  raiseFull 0x0003 1 code detail 0 [3, sect] { s with dev := { s.dev with
    loadRun := none, lock := none, result := 3, sect := sect, detail := detail, reason := code } }

/-- The registers after a load that succeeded. -/
def withImage (i : Image) (s : State) : State :=
  { s with dev := { s.dev with
      loadRun := none, image := some i, staged := s.dev.loadRun.map (fun l => (l.first, l.length))
      result := 2, sect := 255, detail := 0, reason := 0 } }

/-- R239: the registers and the image after the tests of a load. -/
def concludeLoad (a : LoadAns) (s : State) : State :=
  match a with
  | .refused code sect detail => refuseLoad code sect detail s
  | .loaded i => withImage i (showImage (some i) (forgetImage s))

/-- R239 to R241: what the keeper concludes from the staged bytes. -/
def judgeLoad (l : LoadRun) (sigOk : Bool) (x : List Nat × State) : State :=
  concludeLoad (x.2.loadAnswer l.first l.length x.1 sigOk) x.2

/-- The staged bytes; none are read where a tile of the span is fenced or the span is no row of the memory. -/
def readImage (l : LoadRun) (s : State) : List Nat × State :=
  if (s.spanBad l.first l.length).isSome then ([], s)
  else readStaged l.first (if l.length ≤ 0x40000000 then (max l.length 256 + 31) / 32 else 8) 0 [] s

/-- R239 to R241: the load ends. A refused one changes only its status and ends the lock; a verified image replaces the
image held, and in SUSPENDED the image in force. -/
def loadEnds (sigOk : Bool) (s : State) : State :=
  match s.dev.loadRun with
  | none => s
  | some l => if !s.powered then s else judgeLoad l sigOk (readImage l s)

/-- R239. `flips` are errors that have come into the memory (36 × word + symbol and the bits changed), `bad` the tiles
whose datapath fails parity meanwhile (R140). -/
def doLoadVerified (sigOk : Bool) (flips : List (Nat × Nat)) (bad : List Nat) (s : State) : State :=
  withBadPaths bad (fun s => loadEnds sigOk (flipSymbols 0 flips s)) s

/-- R239. -/
def execLoadVerified (sigOk : Bool) (flips : List (Nat × Nat)) (bad : List Nat) (s : State) :
    Host.Outcome State Fault Refusal :=
  .next (doLoadVerified sigOk flips bad s)

end Sys2Proof.Machine
end

