-- ==== Sys2Proof/Machine/Bringup.lean ====
section
/-! DEFINITION. Bring-up and reset (chapter 17): PERST_N, the firmware download, steps 3 to 9, fatal conditions. -/
namespace Sys2Proof.Machine

/-! ## Reset (R368 to R371) -/

/-- R369, R371: PERST_N is asserted: a whole-device reset with cause 0x1 that also clears halt_cause; OSC_EN falls. -/
def doPerstNAssert (s : State) : State := if s.kpr.railsUp && s.kpr.perst then wholeReset 1 0 false s else s

/-- R369. -/
def execPerstNAssert (s : State) : Host.Outcome State Fault Refusal := .next (doPerstNAssert s)

/-- R310, R360: PERST_N is released: OSC_EN rises and the OSC_WAIT delay runs. -/
def doPerstNRelease (s : State) : State :=
  if s.kpr.railsUp && !s.kpr.perst then
    { s with kpr := { s.kpr with perst := true, oscEn := true, boot := .oscWait } }
  else s

/-- R360. -/
def execPerstNRelease (s : State) : Host.Outcome State Fault Refusal := .next (doPerstNRelease s)

/-- R288: hot reset, link disable or loss of a trained link. -/
def doHotReset (s : State) : State :=
  if s.kpr.railsUp && s.kpr.perst && s.hif.linkUp then wholeReset 2 s.kpr.haltCause true s else s

/-- R288. -/
def execHotReset (s : State) : Host.Outcome State Fault Refusal := .next (doHotReset s)

/-- R370: a fatal condition of Table 17.7. -/
def doFatalCondition (cause : Nat) (s : State) : State := if s.powered then fatal cause s else s

/-- R370: causes 0x01 to 0x07. -/
def execFatalCondition (cause : Nat) (s : State) : Host.Outcome State Fault Refusal :=
  onUnit (1 ≤ cause ∧ cause ≤ 7) (doFatalCondition cause s)

/-- R370: the hold ends in a whole-device reset with cause 0x3; halt_cause is kept. -/
def doHaltHoldEnd (s : State) : State :=
  if s.kpr.state = .halted then wholeReset 3 s.kpr.haltCause true s else s

/-- R370. -/
def execHaltHoldEnd (s : State) : Host.Outcome State Fault Refusal := .next (doHaltHoldEnd s)

/-- R364: the watchdog runs from entry to STAGING. -/
def doKeeperWatchdogExpiry (s : State) : State :=
  if s.powered && decide (s.kpr.state ≠ .rom) then fatal 5 s else s

/-- R364. -/
def execKeeperWatchdogExpiry (s : State) : Host.Outcome State Fault Refusal := .next (doKeeperWatchdogExpiry s)

/-- R368: a sill controller asks for a reset of its sill. -/
def doSillResetRequest (_sill : Nat) (s : State) : State := if s.powered then fatal 6 s else s

/-- R368. -/
def execSillResetRequest (sill : Nat) (s : State) : Host.Outcome State Fault Refusal :=
  onUnit (sill < 4) (doSillResetRequest sill s)

/-! ## The firmware download (R361, R362, R375) -/

/-- R375: KPR registers take writes in ROM while no fetch runs. -/
def State.kprOpen (s : State) : Bool := s.hostUp && s.powered && decide (s.kpr.state = .rom) && decide (s.kpr.fwResult ≠ 1)

/-- R375: a write of a KPR register. -/
def kprWrite (off v rw : Nat) (body : State → State) (s : State) : State :=
  regWrite off v rw 0 (fun s => if s.kprOpen then body s else refuse off v 0x0120 s) s

/-- R361: `KPR.CMD`. -/
def writeKprCmd (v : Nat) (s : State) : State :=
  kprWrite 0x200000 v 1 (fun s =>
    if bit v 0 then { s with kpr := { s.kpr with fwResult := 1, fetched := 0 } } else s) s

/-- `KPR.FW_ADDR`. -/
def writeFwAddr (v : Nat) (s : State) : State :=
  kprWrite 0x200010 v (2 ^ 64 - 4096) (fun s => { s with kpr := { s.kpr with fwAddr := v / 4096 } }) s

/-- `KPR.FW_LEN`. -/
def writeFwLen (v : Nat) (s : State) : State :=
  kprWrite 0x200018 v 0xFFFFFF (fun s => { s with kpr := { s.kpr with fwLen := v } }) s

/-- `KPR.LIC_ADDR`. -/
def writeLicAddr (v : Nat) (s : State) : State :=
  kprWrite 0x200020 v (2 ^ 64 - 4096) (fun s => { s with kpr := { s.kpr with licAddr := v / 4096 } }) s

/-- `KPR.LIC_LEN`: at most 0x1_0000; a longer one lies outside the field's range (R246). -/
def writeLicLen (v : Nat) (s : State) : State :=
  kprWrite 0x200028 v 0x1FFFF (fun s =>
    if 0x10000 < v then refuse 0x200028 v 0x0123 s else { s with kpr := { s.kpr with licLen := v } }) s

/-- R361: go. -/
def doKeeperGo (s : State) : State := writeKprCmd 1 s

/-- R361. -/
def execKeeperGo (s : State) : Host.Outcome State Fault Refusal := .next (doKeeperGo s)

/-- Test 2 of Table 17.4. -/
def fileForm (fwLen : Nat) (f : List Nat) : Bool :=
  decide (256 ≤ f.length) && decide (slice f 0 8 = [0x4B, 0x45, 0x45, 0x50, 0x46, 0x57, 0, 1]) && zeros f 12 4 &&
    zeros f 48 208 && decide (leAt f 16 8 = fwLen) && decide (leAt f 16 8 = f.length) && decide (f.length ≤ 0x800000) &&
    decide (f.length % 32 = 0) && decide (leAt f 24 8 % 32 = 0) && decide (leAt f 24 8 + 3309 ≤ f.length)

/-- A unit-table entry: a known type, its span inside the file, the remaining bytes 0. -/
def unitTableOk (f : List Nat) (i : Nat) : Bool :=
  let e := slice f (0x100 + 32 * i) 32
  decide (1 ≤ leAt e 0 2) && decide (leAt e 0 2 ≤ 3) && zeros e 2 6 && zeros e 24 8 &&
    decide (leAt e 8 8 + leAt e 16 8 ≤ f.length)

/-- Test 3 of Table 17.4. -/
def fileParts (f : List Nat) : Bool :=
  let n := leAt f 44 4
  decide (leAt f 40 4 ≤ 0x200000) && decide (leAt f 32 8 + leAt f 40 4 ≤ f.length) && decide (n ≤ 64) &&
    decide (0x100 + 32 * n ≤ f.length) && (List.range (min n 64)).all (unitTableOk f)

/-- Table 17.4: the tests in order; 2 where all pass. -/
def firmwareResult (r : FetchResult) (s : State) : Nat :=
  if !r.readsOk then 0x07
  else if !fileForm s.kpr.fwLen r.file then 0x03
  else if !fileParts r.file then 0x08
  else if !r.fwSig then 0x05
  else if leAt r.file 8 4 < s.floor then 0x06
  else 2

/-- R361, R363: the unit tables of a type, one after another. -/
def unitTables (f : List Nat) (ty : Nat) : List Nat :=
  (List.range (min 64 (leAt f 44 4))).flatMap (fun i =>
    let e := slice f (0x100 + 32 * i) 32
    if leAt e 0 2 = ty then slice f (leAt e 8 8) (leAt e 16 8) else [])

/-! ## Steps 3 to 5 (R365, R366) -/

/-- R386: a licence is accepted: magic, this device's serial, reserved bytes 0, and its signature. -/
def licenceOk (serial : Nat) (b : List Nat) (sig : Bool) : Bool :=
  decide (slice b 0 8 = [0x4C, 0x55, 0x4D, 0x4C, 0x49, 0x43, 0, 1]) && decide (leAt b 8 8 = serial) &&
    decide (leAt b 20 4 < 8) && zeros b 28 68 && zeros b 3405 19 && sig

/-- R386: the features in force with those of a licence. -/
def Features.join (f : Features) (b : List Nat) : Features :=
  let v := leAt b 20 4
  { links := f.links ||| leAt b 24 4, w2w1 := f.w2w1 || bit v 0, req := f.req || bit v 1, cxlMem := f.cxlMem || bit v 2 }

/-- R365: one licence is checked. -/
def checkLicence (unit : Nat) (b : List Nat) (sig : Bool) (s : State) : State :=
  if licenceOk s.fuses.serial b sig then
    { s with kpr := { s.kpr with
        features := s.kpr.features.join b, licAccepted := satAdd 8 s.kpr.licAccepted 1 } }
  else
    raise 0x0005 1 unit [leAt b 16 4] { s with kpr := { s.kpr with licRejected := satAdd 8 s.kpr.licRejected 1 } }

/-- Licence `i` of a run of them. -/
def licenceAt (b : List Nat) (i : Nat) : List Nat := slice b (3424 * i) 3424

/-- R365, R378: step 3: the licences of the protection block, then those of the bundle; the identity key is derived. -/
def stepLicences (r : FetchResult) (s : State) : State :=
  let slots := memBytes s.prt.block 0x1400 10272
  let s := (List.range (min 3 (s.blockLe 20 1))).foldl (fun s i => checkLicence i (licenceAt slots i) (nth false r.slotSigs i) s) s
  let s := (List.range (min 19 (r.bundle.length / 3424))).foldl (fun s i =>
    checkLicence (0x100 + i) (licenceAt r.bundle i) (nth false r.bundleSigs i) s) s
  { s with kpr := { s.kpr with step := 3 }, prt := { s.prt with identity := true } }

/-- The time counter starts at 0, and the clock and temperature registers read. -/
def startTime (s : State) : State :=
  { s with
    frm := { s.frm with tc := 0, tcRuns := true }
    clk := { s.clk with started := true, sillLocked := true, tcLocked := true }
    thm := { s.thm with started := true }, kpr := { s.kpr with step := 4 } }

/-- R181, R363: what step 4 writes into the units it brings up: the energy table of the estimator, the parameters of the
regulator groups, the taps of the hinge FIFOs. -/
def writeStepFour (r : FetchResult) (s : State) : State :=
  { s with
    pwr := { s.pwr with energies := unitTables r.file 1 }, sup := { s.sup with params := unitTables r.file 3 }
    net := { s.net with taps := r.taps.foldl (fun m e => if portOrLink e.1 then mapSet 0 m e.1 e.2 else m) [] } }

/-- R312, R435: step 4: PLLs and the time counter start, every region starts at /8 toward /4; a sill PLL or time-counter
PLL that does not lock is fatal (R14). -/
def stepClocks (r : FetchResult) (s : State) : State :=
  if !r.sillPllOk then fatal 1 s
  else ((List.range regionCount).filter (fun k => !s.dark k)).foldl (fun s k => startClocks k 4 s)
    (writeStepFour r (startTime s))

/-- R15, R17, R19, R441: the fused fences go into the tables, beside the fences that have come in ROM. -/
def fuseFences (s : State) : State :=
  { s with flp := { s.flp with
      cores := s.fuses.fences.foldl (fun m e => mapMod coreFence0 m e.1 (fun c => CoreFence.withFused c e.2)) s.flp.cores } }

/-- The memory and the stock bank programs stand ready. -/
def memoryStands (s : State) : State :=
  { s with
    mem := { s.mem with selftestDone := true, ready := true }, bnk := { s.bnk with stock := true }
    kpr := { s.kpr with step := 5 } }

/-- R147: a word that the read-back meets is counted where it holds an error; nothing is fenced (R139). -/
def countReadBack (w : Nat) (s : State) : State :=
  if (s.wordBlocked (32 * w)).isSome then s
  else match rsDecode (s.codeWord (32 * w)) with
    | .good _ => s
    | .corrected _ _ => countCorrected (tileOf (32 * w)) s
    | .uncorrectable _ => countUncorrectable (tileOf (32 * w)) s

/-- R147: the read-back of the zero fill meets the errors it meets. -/
def readBackZeros (flips : List (Nat × Nat)) (s : State) : State :=
  (flips.foldl (fun l e => insertRising (e.1 / 36) l) []).foldl (fun s w => countReadBack w s) (flipSymbols 0 flips s)

/-- R146, R147, R156: step 5: the memories are trained, tested and zeroed, scrub and the stock bank programs stand ready.
Tiles that failed are fenced with cause 0x2; what the read-back finds is counted. -/
def stepMemory (r : FetchResult) (s : State) : State :=
  updateMemActive (memoryStands (readBackZeros r.readBack
    (fenceUnits 2 (r.deadTiles.map (fun n => { kind := 3, unit := n })) s)))

/-- R258, R259, R363: step 6 begins: the light engines take their presets and every licensed link trains. -/
def startLinks (file : List Nat) (s : State) : State :=
  let s := { s with kpr := { s.kpr with blanked := false }, lnk := { s.lnk with presets := unitTables file 2 } }
  ((List.range 32).filter (fun l => bit s.kpr.features.links l)).foldl
    (fun s l => setLink l (fun x => { x with state := .training }) s) s

/-- The verified file's version, digest and resident part. -/
def takeFirmware (f : List Nat) (s : State) : State :=
  { s with kpr := { s.kpr with
    fwVersion := leAt f 8 4, fwDigest := shake256 (f.take (leAt f 24 8)), resident := slice f (leAt f 32 8) (leAt f 40 4)
    step := 2 } }

/-- Steps 5 and 6 where step 4 has not halted the device. -/
def stagingGoesOn (r : FetchResult) (s : State) : State :=
  if s.kpr.state = .staging then startLinks r.file (stepMemory r s) else s

/-- R362, R366: a verified file: STAGING is entered and steps 3 to 5 run; step 6 begins. -/
def enterStaging (r : FetchResult) (s : State) : State :=
  stagingGoesOn r (stepClocks r (stepLicences r (fuseFences (setState .staging (takeFirmware r.file s)))))

/-- R361, R362: the fetch ends and the file is tested. It cannot end while Bus Master Enable is 0. -/
def doFirmwareVerified (r : FetchResult) (s : State) : State :=
  if !s.powered || decide (s.kpr.state ≠ .rom) || decide (s.kpr.fwResult ≠ 1) || !s.hif.bme then s
  else
    let c := firmwareResult r s
    let s := { s with kpr := { s.kpr with fwResult := c, fetched := (r.file.length + r.bundle.length) % 2 ^ 32 } }
    if c = 2 then enterStaging r s else s

/-- A result whose files are bytes and whose tiles exist. -/
def FetchResult.narrow (r : FetchResult) : FetchResult :=
  { r with
    file := toBytes r.file, bundle := toBytes r.bundle, deadTiles := r.deadTiles.filter (fun n => decide (n < coreCount)) }

/-- R362: what the keeper read and found. The bundle has the length that was written. -/
def execFirmwareVerified (r : FetchResult) (s : State) : Host.Outcome State Fault Refusal :=
  .next (doFirmwareVerified r.narrow s)

/-! ## Steps 6 to 9 -/

/-- R259: a link whose training has not ended within the window is down. -/
def endTraining (l : Nat) (s : State) : State :=
  setLink l (fun x => if x.state = .training then { x with state := if x.light then .down else .noLight } else x) s

/-- R3, Table 0.2: the good panes a grade guarantees. -/
def gradeFigure (grade : Nat) : Nat := if grade = 1 then 24064 else if grade = 2 then 22528 else 20480

/-- R19, R367: step 8: the floor plan is published and the count is held against the grade. -/
def publishFloorPlan (s : State) : State :=
  let s := { s with flp := { s.flp with gen := 2, valid := true }, kpr := { s.kpr with step := 8 } }
  let fig := gradeFigure s.fuses.grade
  if s.goodPanes < fig then
    raise 0x0004 1 noUnit [s.goodPanes, fig] { s with kpr := { s.kpr with belowGrade := true } }
  else s

/-- Step 9 is done. -/
def stepNine (s : State) : State := { s with kpr := { s.kpr with step := 9 } }

/-- R366: the link window ends, cores and panes that failed are fenced with cause 0x2, the floor plan is published, and
the device is READY. -/
def doBringUpComplete (cores : List Nat) (panes : List (Nat × Nat)) (s : State) : State :=
  if s.powered && decide (s.kpr.state = .staging) && decide (s.kpr.step = 5) then
    stepNine (setState .ready (publishFloorPlan (fenceUnits 2 (panes.map (fun p => { kind := 1, unit := p.1, sub := p.2 })
      ++ cores.map (fun n => { kind := 2, unit := n })) ((List.range 32).foldl (fun s l => endTraining l s) s))))
  else s

/-- R366: the cores and the panes that failed their tests. -/
def execBringUpComplete (cores : List Nat) (panes : List (Nat × Nat)) (s : State) : Host.Outcome State Fault Refusal :=
  .next (doBringUpComplete (cores.filter (fun n => decide (n < coreCount))) (panes.filter (fun p => decide (p.1 < coreCount) && decide (p.2 < 2))) s)

end Sys2Proof.Machine
end

