-- ==== Sys2Proof/Machine/Contexts.lean ====
section
/-! DEFINITION. Contexts at frame and slat boundaries (R36, R54, R56, R73, R100): their restart, their switches, and the
fixed state that a save area holds. -/
namespace Sys2Proof.Machine

/-! ## The fixed state (R73)

Its layout in the 4 KiB is the model's own (log 66): counters at 0, position at 32, number of active loops at 36, whether a
fault has stopped the context and which at 37 and 38, the frame of the state at 40, loops at 64, the exception record at
192 with the times of its first occurrences at 320, amax records at 2,048. -/

/-- A loop frame. -/
def loopBytes (l : LoopFr) : List Nat :=
  leBytes 4 l.first ++ leBytes 4 l.past ++ leBytes 4 l.iter ++ leBytes 4 l.count ++ leBytes 8 (ofSigned 64 l.memStep)
    ++ leBytes 8 (ofSigned 64 l.csStep)

/-- The loop frame that 32 bytes hold. -/
def loopFrom (b : List Nat) : LoopFr :=
  { first := leAt b 0 4, past := leAt b 4 4, iter := leAt b 8 4, count := leAt b 12 4
    memStep := toSigned 64 (leAt b 16 8), csStep := toSigned 64 (leAt b 24 8) }

/-- A context's amax record; one that no CONVERT has folded into shows the frame alone (R99). -/
def Ctx.amaxRec (c : Ctx) (id : Nat) : Amax :=
  let a := mapGet amax0 c.amax id
  if bit a.flags 0 then a else { frame := c.frame }

/-- The fixed state of a context as its save area holds it. -/
def Ctx.fixedBytes (c : Ctx) : List Nat :=
  slice (c.ctrs.flatMap (leBytes 2) ++ leBytes 4 c.pos ++ [c.loops.length, b2n c.stopped, c.fault, 0] ++ leBytes 4 c.frame) 0 64
    ++ slice (c.loops.flatMap loopBytes) 0 128
    ++ slice (c.excs.flatMap (excBytes c.frame)) 0 128
    ++ slice (c.excs.flatMap (fun e => leBytes 8 e.seen)) 0 1728
    ++ slice ((List.range 64).flatMap (fun id => amaxBytes (c.amaxRec id))) 0 2048

/-- An exception entry of a fixed state. -/
def excFrom (b : List Nat) (i : Nat) : ExcEntry :=
  let f (off n : Nat) : Nat := leAt b (192 + 16 * i + off) n
  if bit (f 9 1) 0 then
    { count := f 0 4, row := f 4 2, col := f 6 2, kblock := f 8 1, sticky := true, pane := b2n (bit (f 9 1) 1), desc := f 10 2
      seen := leAt b (320 + 8 * i) 8 }
  else {}

/-- An amax record of a fixed state. -/
def amaxFrom (b : List Nat) (id : Nat) : Amax :=
  let f (off n : Nat) : Nat := leAt b (2048 + 32 * id + off) n
  if bit (f 29 1) 0 then
    { amax := f 0 4, nans := f 4 4, infs := f 8 4, sats := f 12 4, unders := f 16 4, elements := f 20 4, frame := f 24 4
      outFmt := f 28 1, flags := f 29 1 }
  else amax0

/-- The records that a fixed state holds. -/
def Ctx.withRecords (b : List Nat) (c : Ctx) : Ctx :=
  { c with
    excs := (List.range 6).map (excFrom b)
    amax := (List.range 64).foldl (fun m id => mapSet amax0 m id (amaxFrom b id)) [] }

/-- Counters, position and loops that a fixed state holds, for a table of `len` descriptors. -/
def Ctx.withSequencer (len : Nat) (b : List Nat) (c : Ctx) : Ctx :=
  { c with
    ctrs := (List.range 16).map (fun i => leAt b (2 * i) 2), pos := leAt b 32 4, ended := decide (len ≤ leAt b 32 4)
    loops := (List.range (min 4 (leAt b 36 1))).map (fun i => loopFrom (slice b (64 + 32 * i) 32)) }

/-- A word of memory as an observer sees it: decoded where it can be, else as stored. -/
def State.seenWord (s : State) (a : Nat) : List Nat :=
  match rsDecode (s.codeWord a) with
  | .good d => d
  | .corrected d _ => d
  | .uncorrectable _ => memBytes s.mem.dram a 32

/-- R422: a context as it runs where it is resident, and as it was last saved where it is not. -/
def State.seenCtx (s : State) (n k : Nat) : Ctx :=
  let c := s.ctxOf n k
  match s.bindingOf (c.role1 - 1) with
  | none => c
  | some b =>
    if s.resident n k || !c.saved || decide (c.role1 = 0) then c
    else
      let d := (List.range 6).flatMap (fun i => s.seenWord (b.save + 32 * i))
      { c.withSequencer b.places.length d with stopped := bit (leAt d 37 1) 0, fault := leAt d 38 1, frame := leAt d 40 4 }

/-! ## Publishing and restarting (R28, R100) -/

/-- R99, R100: the live records of a context go to the amax area of its core store and are cleared. -/
def publishRecords (n k frame : Nat) (s : State) : State :=
  let x := s.ctxOf n k
  let base := n * storeSize + 0xFE000 + 0x800 * k
  let m := memPutBytes (memClear s.cores.store base 0x800) base ((List.range 64).flatMap (fun id => amaxBytes (x.amaxRec id)))
  setCtx n k (fun c => { c with amax := [], excs := List.replicate 6 {}, publish := false, frame := frame })
    { s with cores := { s.cores with store := m } }

/-- R28: a context restarts for a frame. What its save area holds of an earlier frame's sequencer is of no use to it. -/
def restartContext (i : Image) (t n k : Nat) (s : State) : State :=
  setCtx n k (fun c =>
    let e := nth 0xFFFF (i.role (c.role1 - 1)).entry t
    let idle := decide (e = 0xFFFF)
    { c with
      idle := idle, pos := if idle then 0 else e, ended := false, loops := [], ctrs := List.replicate 16 0, stopped := false
      fault := 0, faultIdx := 0, cut := false, yielded := false, posted := [], arrivals := [], seqSaved := false
      srCount := 0 }) s

/-! ## Switches at slat boundaries (R36, R56, R73) -/

/-- The context that owns slat `j` on a core. -/
def State.ownerAt (s : State) (n j : Nat) : Option Nat :=
  (s.contexts n).find? (fun k => match s.bindingOf ((s.ctxOf n k).role1 - 1) with
    | some b => bit b.slats j
    | none => false)

/-- R73: the owner of a core for slat `j`: a core with one context keeps it; another starts a switch where its owner
changes. With a new run of slats the owner's yield ends (R56), also where the switch away from it is still pending. -/
def beginSwitch (n j : Nat) (s : State) : State :=
  match s.contexts n with
  | [] => setCore n (fun c => { c with resident1 := 0, switch1 := 0 }) s
  | [k] => setCore n (fun c => { c with resident1 := k + 1, switch1 := 0 }) s
  | _ =>
    match s.ownerAt n j with
    | none => setCore n (fun c => { c with switch1 := if c.resident1 = 0 then 0 else 5 }) s
    | some k =>
      let c := s.coreRec n
      if c.resident1 = k + 1 && decide (c.switch1 = 0) then s
      else setCtx n k (fun c => { c with yielded := false })
        (setCore n (fun c => { c with switch1 := if c.resident1 = k + 1 then 0 else k + 1 }) s)

/-- The context whose share of a core runs: the resident one, or the one whose restore is pending. -/
def CoreSt.holder (c : CoreSt) : Option Nat :=
  if c.switch1 = 0 then (if c.resident1 = 0 then none else some (c.resident1 - 1))
  else if c.switch1 < 5 then some (c.switch1 - 1)
  else none

/-- R36: a context of a time-sliced core is cut off where its share ends with work unfinished. -/
def cutOutgoing (n j : Nat) (s : State) : State :=
  match (s.coreRec n).holder with
  | none => s
  | some k =>
    let x := s.ctxOf n k
    if (s.contexts n).length ≤ 1 || s.ownerAt n j = some k || x.idle || ((x.ended || x.yielded) && s.quiet n k) then s
    else
      let uids := ((s.coreRec n).queue.filter (fun e => decide (e.slot = k))).map (fun e => e.uid)
      setCtx n k (fun c => { c with cut := true }) (dropContext n k (suppressOf n uids s))

/-- The core's own requests (Table 6.15). -/
def coreWho (n : Nat) : Who := { code := 1, source := n }

/-- R73: a context's fixed state and swap set are saved. `parity` is a parity error in a core-store byte of the swap set:
the data is not used and the context faults with 0x01 (R53). A save that is not performed makes the context fault at its
next restore (R149; for the core store that is the model's choice, log 119). -/
def saveContext (n k : Nat) (parity : Bool) (s : State) : State :=
  let x := s.ctxOf n k
  match s.bindingOf (x.role1 - 1) with
  | none => s
  | some b =>
    if x.role1 = 0 then s
    else if parity && decide (b.swapLen ≠ 0) then
      descFault n k (x.role1 - 1) x.pos 1 (setCtx n k (fun c => { c with saveBad := true }) s)
    else match writeBytes (coreWho n) false b.save (x.fixedBytes ++ s.storeBytes n (32 * b.swapStart) (32 * b.swapLen)) s with
      | (none, s) => setCtx n k (fun c => { c with saved := true, seqSaved := true, saveBad := false }) s
      | (some _, s) => setCtx n k (fun c => { c with saveBad := true }) s

/-- What a restore takes from a save area it could read: the swap set, the records, and the sequencer's state where it is
that of this frame. -/
def takeSaved (n k : Nat) (b : Binding) (d : List Nat) (s : State) : State :=
  setCtx n k (fun c =>
    let c := if c.saved then c.withRecords d else c
    if c.seqSaved then c.withSequencer b.places.length d else c)
    (putStore n (32 * b.swapStart) (d.drop 4096) s)

/-- What a restore leaves that could not read its save area: free bytes and records (log 43). -/
def takeUnread (n k : Nat) (b : Binding) (s : State) : State :=
  let d := (List.range (4096 + 32 * b.swapLen)).map (fun j => Config.unstated s.fresh j % 256)
  setCtx n k (fun c => c.withRecords d) (putStore n (32 * b.swapStart) (d.drop 4096) (useFresh s))

/-- R76, R149: the context that comes in faults before it dispatches. -/
def restoreFault (n k code : Nat) (s : State) : State :=
  let x := s.ctxOf n k
  descFault n k (x.role1 - 1) x.pos code (setCtx n k (fun c => { c with saveBad := false }) s)

/-- R73, R149: a context comes back from its save area. -/
def restoreContext (n k : Nat) (s : State) : State :=
  match s.bindingOf ((s.ctxOf n k).role1 - 1) with
  | none => s
  | some b =>
    match readBytes (coreWho n) false b.save (4096 + 32 * b.swapLen) s with
    | (.data d, s) =>
      let s := takeSaved n k b d s
      if (s.ctxOf n k).saveBad then restoreFault n k 2 s else s
    | (.error c, s) => restoreFault n k (inFlightFault c) (takeUnread n k b s)

/-- R100, R120, R409: a context that was not resident at frame entry publishes as it is restored. -/
def publishAtRestore (n k : Nat) (s : State) : State :=
  let x := s.ctxOf n k
  if !x.publish then s
  else
    let due := decide (s.evt.repNow.every ≠ 0) && decide (x.frame % max 1 s.evt.repNow.every = 0)
    let p : PubRec := { core := n, slot := k, amax := x.amax, excs := x.excs, frame := x.frame }
    publishRecords n k s.frm.count (if due then { s with cores := { s.cores with published := s.cores.published ++ [p] } } else s)

/-- R59, R73, R100: the incoming context is restored, publishes, and takes the SENDs that came for it. -/
def bringIn (n k : Nat) (s : State) : State := feedSaved n k (publishAtRestore n k (restoreContext n k s))

/-- The switch of a core is over. -/
def endSwitch (n : Nat) (s : State) : State :=
  let c := s.coreRec n
  let s := setCore n (fun c => { c with resident1 := if 5 ≤ c.switch1 then 0 else c.switch1, switch1 := 0 }) s
  if s.dbg.core = n && (decide (s.dbg.slot + 1 = c.resident1) || decide (s.dbg.slot + 1 = c.switch1)) then
    { s with dbg := { s.dbg with selChanged := true } }
  else s

/-- R73: the switch of a core completes. -/
def doContextSwitchDone (n : Nat) (parity : Bool) (flips : List (Nat × Nat)) (bad : List Nat) (s : State) : State :=
  let c := s.coreRec n
  if c.switch1 = 0 || !s.coreRuns n then s
  else withBadPaths bad (fun s =>
    let s := flipSymbols 0 flips s
    let s := if c.resident1 = 0 then s else saveContext n (c.resident1 - 1) parity s
    endSwitch n (if 5 ≤ c.switch1 then s else bringIn n (c.switch1 - 1) s)) s

/-- R73. `parity` is a parity error in the core-store bytes that are saved, `flips` the errors that have come into the
memory (36 × word + symbol and the bits changed), `bad` the tiles whose datapath fails parity meanwhile. -/
def execContextSwitchDone (n : Nat) (parity : Bool) (flips : List (Nat × Nat)) (bad : List Nat) (s : State) :
    Host.Outcome State Fault Refusal := onUnit (n < coreCount) (doContextSwitchDone n parity flips bad s)

end Sys2Proof.Machine
end

