-- ==== Sys2Proof/Machine/PaneMath.lean ====
section
/-! DEFINITION. What a pane computes (chapter 05): geometry, operand layout, accumulator updates, exceptions and the
drain, as functions of the bytes the feeders read. -/
namespace Sys2Proof.Machine

/-- A MATMUL descriptor's fields (Table 3.6). -/
structure MatDesc where
  pane : Nat
  transom : Bool
  aF : Nat
  bF : Nat
  oF : Nat
  acc : Bool
  rows : Nat
  aAddr : Nat
  bAddr : Nat
  cAddr : Nat
  kb : Nat
  nb : Nat
  deriving DecidableEq, Repr

/-- Outputs per n-block (Table 5.1). -/
def MatDesc.width (d : MatDesc) : Nat := if d.transom then 64 else 16

/-- k-block depth of a format (Table 5.1), by the weight format. -/
def MatDesc.depth (d : MatDesc) : Nat :=
  let sq :=
    match elemBits d.bF with
    | 16 => 16
    | 4 => 64
    | 2 => 128
    | 1 => 256
    | _ => 32
  if d.transom then sq / 4 else sq

/-- Rows of an m-tile (Table 5.1). -/
def MatDesc.tile (d : MatDesc) : Nat := if d.transom then 64 else 256

/-- K and N of R104. -/
def MatDesc.K (d : MatDesc) : Nat := d.kb * d.depth
def MatDesc.N (d : MatDesc) : Nat := d.nb * d.width

/-- Whether the weights are codes (R87). -/
def MatDesc.coded (d : MatDesc) : Bool := d.bF = 0x0E || d.bF = 0x0F

/-- Whether the accumulator is INT32 (Table 4.6). -/
def MatDesc.isInt (d : MatDesc) : Bool := d.aF = 0x0C || d.aF = 0x0D

/-- m-tiles of the MATMUL. -/
def MatDesc.tiles (d : MatDesc) : Nat := (d.rows + d.tile - 1) / d.tile

/-- Halves the MATMUL fills: one for each m-tile and n-block. -/
def MatDesc.halves (d : MatDesc) : Nat := d.tiles * d.nb

/-- A row length in bytes (Table 5.2). -/
def MatDesc.aRowBytes (d : MatDesc) : Nat := (d.K * elemBits d.aF + 255) / 256 * 32

/-- Start of the A scales. -/
def MatDesc.aScaleAt (d : MatDesc) : Nat := d.aAddr * 32 + d.rows * d.aRowBytes

/-- A scale row length in bytes. -/
def MatDesc.aScaleRow (d : MatDesc) : Nat := (d.K / 32 + 31) / 32 * 32

/-- Column segment bytes of a B block. -/
def MatDesc.seg (d : MatDesc) : Nat := d.depth * elemBits d.bF / 8

/-- Bytes of all B blocks. -/
def MatDesc.bBytes (d : MatDesc) : Nat := d.kb * d.nb * d.width * d.seg

/-- Start and size of the codebook plane (code mode). -/
def MatDesc.bookAt (d : MatDesc) : Nat := d.bAddr * 32 + d.bBytes
def MatDesc.bookRec (d : MatDesc) : Nat := if d.bF = 0x0E then 4 else 2
def MatDesc.bookBytes (d : MatDesc) : Nat :=
  if d.coded then (32 + d.nb * (d.K / 32) * d.width * d.bookRec + 31) / 32 * 32 else 0

/-- Start of the B scales. -/
def MatDesc.bScaleAt (d : MatDesc) : Nat := d.bookAt + d.bookBytes

/-- Whether B has a scale plane: MX weights, or MX activations in code mode. -/
def MatDesc.hasBScale (d : MatDesc) : Bool := isMx d.aF

/-- Ends of the planes in bytes. -/
def MatDesc.aEnd (d : MatDesc) : Nat := d.aScaleAt + (if isMx d.aF then d.rows * d.aScaleRow else 0)
def MatDesc.bEnd (d : MatDesc) : Nat := d.bScaleAt + (if d.hasBScale then (d.N * (d.K / 32) + 31) / 32 * 32 else 0)

/-- Bytes of a drained element and of a drain row. -/
def MatDesc.outBytes (d : MatDesc) : Nat := if d.oF = 0x02 then 2 else 4
def MatDesc.cEnd (d : MatDesc) : Nat := d.cAddr * 32 + d.rows * d.N * d.outBytes

/-- One occurrence of an exception kind (R119). -/
structure Exc where
  kind : Nat
  kblock : Nat
  row : Nat
  col : Nat
  deriving DecidableEq, Repr

/-- A core-store reader: byte address and length. -/
abbrev Reader := Nat → Nat → List Nat

/-- Value of activation element k of row r. -/
def MatDesc.aElem (d : MatDesc) (rd : Reader) (r k : Nat) : Val :=
  let bits := elemBits d.aF
  let p := k * bits
  elemVal d.aF (field (leNat (rd (d.aAddr * 32 + r * d.aRowBytes + p / 8) 3)) (p % 8) bits)

/-- Code of weight element k of column c in n-block j. -/
def MatDesc.bCode (d : MatDesc) (rd : Reader) (j c k : Nat) : Nat :=
  let bits := elemBits d.bF
  let p := k % d.depth * bits
  field (leNat (rd (d.bAddr * 32 + ((j * d.kb + k / d.depth) * d.width + c) * d.seg + p / 8) 3)) (p % 8) bits

/-- Value of weight element k: its own, or the codebook entry its code selects (R87, R88). -/
def MatDesc.bElem (d : MatDesc) (rd : Reader) (j c k : Nat) : Val :=
  let w := d.bCode rd j c k
  if d.coded then
    let r := (j * (d.K / 32) + k / 32) * d.width + c
    elemVal d.aF (leNat (rd (d.bookAt + 32 + r * d.bookRec + w) 1))
  else elemVal d.bF w

/-- Accumulator updates of one output: one for each 32-element block of MX and code mode, else one for each k-block
(R91). -/
def MatDesc.blocky (d : MatDesc) : Bool := isMx d.aF || d.coded
def MatDesc.updLen (d : MatDesc) : Nat := if d.blocky then 32 else d.depth

/-- One product joins an update (R91, R92). -/
def PartSum.addProduct (p : PartSum) (a b : Val) : PartSum :=
  if a.isNan || b.isNan then { p with nan := true }
  else match a.mul b with
    | .nan => { p with zi := true }
    | .inf n => if n then { p with neg := true } else { p with pos := true }
    | q => { p with sum := p.sum.add q }

/-- R92: kind 0 in an update: zero times infinity, or infinities of both signs among its products, whatever else stands
among them (log 106). -/
def PartSum.kind0 (p : PartSum) : Bool := p.zi || (p.pos && p.neg)

/-- The exact sum of an update. -/
def PartSum.value (p : PartSum) : Val :=
  if p.nan || p.kind0 then .nan else if p.pos then .inf false else if p.neg then .inf true else p.sum

/-- Update u of the output (r, c) of n-block j: its exact sum, scaled by its block scales, with kinds 0 and 1. A scale of
0xFF makes every element of its block NaN (R85), so such an update records kind 1 alone (log 106). -/
def MatDesc.endUpdate (d : MatDesc) (rd : Reader) (j r c u : Nat) (p : PartSum) : Val × Bool × Bool :=
  if isMx d.aF then
    let xa := leNat (rd (d.aScaleAt + r * d.aScaleRow + u) 1)
    let xb := leNat (rd (d.bScaleAt + (j * (d.K / 32) + u) * d.width + c) 1)
    if xa = 255 ∨ xb = 255 then (.nan, false, true) else (p.value.scale ((xa : Int) + xb - 254), p.kind0, p.nan)
  else (p.value, p.kind0, p.nan)

/-- Element k of one output is taken: its product joins the update that forms; a finished update joins the list with its
k-block, and its kinds 0 and 1 are returned. -/
def MatDesc.stepOut (d : MatDesc) (rd : Reader) (j k : Nat) (st : FillOut × List Exc) : FillOut × List Exc :=
  let (o, xs) := st
  let c := o.col - j * d.width
  let part := o.part.addProduct (d.aElem rd o.row k) (d.bElem rd j c k)
  if (k + 1) % d.updLen = 0 then
    let (v, k0, k1) := d.endUpdate rd j o.row c (k / d.updLen) part
    let mk (b : Bool) (n : Nat) : List Exc := if b then [⟨n, k / d.depth, o.row, o.col⟩] else []
    ({ o with part := {}, ups := o.ups ++ [(k / d.depth, v)] }, xs ++ mk k0 0 ++ mk k1 1)
  else ({ o with part := part }, xs)

/-- One k-block of a half: every output takes its elements (R108). -/
def MatDesc.takeBlock (d : MatDesc) (rd : Reader) (j kb : Nat) (outs : List FillOut) : List FillOut × List Exc :=
  let l := outs.map (fun o => (List.range d.depth).foldl (fun st i => d.stepOut rd j (kb * d.depth + i) st) (o, []))
  (l.map Prod.fst, l.flatMap Prod.snd)

/-- One FP32 accumulator update (R91, R92): new code, kind 0, kind 2. -/
def accF32 (acc : Nat) (v : Val) : Nat × Bool × Bool :=
  let a := f32Val acc
  let t := a.add v
  let c := toF32 t
  (c, t.isNan && !a.isNan && !v.isNan, (f32Val c).isInf && !t.isInf)

/-- Saturation into INT32. -/
def satInt32 (k : Int) : Int × Bool :=
  if k < -(2 ^ 31 : Nat) then (-(2 ^ 31 : Nat), true)
  else if k > (2 ^ 31 - 1 : Nat) then ((2 ^ 31 - 1 : Nat), true) else (k, false)

/-- An exact value that is an integer. -/
def valInt : Val → Int
  | .fin n m e => roundInt n m e
  | _ => 0

/-- The FP32 sum of an output's updates, added in a free order (R80), and the exceptions that adding them makes. -/
def accumulateF32 (key row col : Nat) (ups : List (Nat × Val)) : Nat × List Exc :=
  (freeOrder (Config.sumOrder key) ups).foldl (fun st u =>
    let (c, z, o) := accF32 st.1 u.2
    let mk (b : Bool) (k : Nat) : List Exc := if b then [⟨k, u.1, row, col⟩] else []
    (c, st.2 ++ mk z 0 ++ mk o 2)) (0, [])

/-- The INT32 sum of an output's updates: exact where it cannot saturate, else saturating at each update in a free
order (R91, R80). -/
def accumulateInt (key row col : Nat) (ups : List (Nat × Val)) : Int × List Exc :=
  let ints := ups.map (fun u => (u.1, valInt u.2))
  if (ints.map (fun u => u.2.natAbs)).foldl (· + ·) 0 < 2 ^ 31 then
    ((ints.map Prod.snd).foldl (· + ·) 0, [])
  else
    (freeOrder (Config.sumOrder key) ints).foldl (fun st u =>
      let (k, o) := satInt32 (st.1 + u.2)
      (k, if o then st.2 ++ [⟨3, u.1, row, col⟩] else st.2)) (0, [])

/-- The drained code of an output with the exceptions the drain adds (R111, R112, R95). Only FP32 totals follow R91's
flush of subnormal results. R119 gives kb − 1 as the k-block of kind 4; the model gives it to every kind a drain records
(log 107). -/
def MatDesc.drainF (d : MatDesc) (row col acc old : Nat) : Nat × List Exc :=
  let at_ (b : Bool) (k : Nat) : List Exc := if b then [⟨k, d.kb - 1, row, col⟩] else []
  let lay := if d.oF = 0x02 then layBF16 else layFP32
  let o := lay.decode old
  let a := f32Val acc
  let t := if d.acc then o.add a else a
  if d.acc ∧ o.isNan then (lay.canonNan, [])
  else if t.isNan then (lay.canonNan, at_ (!a.isNan) 0)
  else
    let c := lay.encodeIeee t
    let c := if d.oF ≠ 0x02 && decide (field c lay.mb lay.eb = 0) then lay.withSign (bit c (lay.eb + lay.mb)) 0 else c
    let ovf := (lay.decode c).isInf && !t.isInf
    (c, at_ ovf (if d.oF = 0x02 then 4 else 2))

/-- The drained INT32 of an output (R112), its saturation at k-block kb − 1 (log 107). -/
def MatDesc.drainI (d : MatDesc) (row col : Nat) (acc : Int) (old : Nat) : Nat × List Exc :=
  if d.acc then
    let (k, o) := satInt32 (toSigned 32 old + acc)
    (ofSigned 32 k, if o then [⟨3, d.kb - 1, row, col⟩] else [])
  else (ofSigned 32 acc, [])

/-- An output's accumulator code once its last k-block has been taken, with the exceptions of its sums. -/
def MatDesc.sumOut (d : MatDesc) (key : Nat) (o : FillOut) : Nat × List Exc :=
  if d.isInt then
    let (k, xs) := accumulateInt key o.row o.col o.ups
    (ofSigned 32 k, xs)
  else accumulateF32 key o.row o.col o.ups

/-- Rows of m-tile t. -/
def MatDesc.tileRows (d : MatDesc) (t : Nat) : List Nat :=
  (List.range (min d.tile (d.rows - t * d.tile))).map (fun i => t * d.tile + i)

/-- The outputs of half h (m-tile h div nb, n-block h mod nb), in row order, before its first k-block. -/
def MatDesc.startOuts (d : MatDesc) (h : Nat) : List FillOut :=
  (d.tileRows (h / d.nb)).flatMap (fun r => (List.range d.width).map (fun c => { row := r, col := h % d.nb * d.width + c }))

/-- The accumulator content of a half whose k-blocks have all been taken, with the exceptions of its sums. -/
def MatDesc.sumHalf (d : MatDesc) (key : Nat) (outs : List FillOut) : List (Nat × Nat × Nat) × List Exc :=
  let l := outs.map (fun o => (o, d.sumOut key o))
  (l.map (fun x => (x.1.row, x.1.col, x.2.1)), l.flatMap (fun x => x.2.2))

/-- Byte address of an output in the drain plane. -/
def MatDesc.outAt (d : MatDesc) (row col : Nat) : Nat := d.cAddr * 32 + (row * d.N + col) * d.outBytes

/-- Draining one output: the code to write and its exceptions. -/
def MatDesc.drainOne (d : MatDesc) (row col acc old : Nat) : Nat × List Exc :=
  if d.isInt then d.drainI row col (toSigned 32 acc) old else d.drainF row col acc old

/-- Exceptions of a half in the order of R108: k-block, row, column. -/
def excBefore (a b : Exc) : Bool :=
  a.kblock < b.kblock || (a.kblock = b.kblock && (a.row < b.row || (a.row = b.row && a.col < b.col)))

/-- The first occurrence of a kind. -/
def firstExc (kind : Nat) (xs : List Exc) : Option Exc :=
  (xs.filter (fun x => x.kind = kind)).foldl (fun a x =>
    match a with
    | none => some x
    | some y => if excBefore x y then some x else some y) none

/-- Whether two byte ranges overlap. -/
def overlaps (a aEnd b bEnd : Nat) : Bool := a < bEnd && b < aEnd && a < aEnd && b < bEnd

end Sys2Proof.Machine
end

