-- ==== Sys2Proof/Machine/Panes.lean ====
section
/-! DEFINITION. The panes (chapter 5): MATMUL, the drain of a half, exception records, counters, and the end of a
pane. A k-block's operands are read as it is taken (log 21). -/
namespace Sys2Proof.Machine

/-- A MATMUL descriptor from its words (Table 3.6). -/
def matDesc (w0 w1 : Nat) : MatDesc :=
  { pane := field w0 31 1, transom := bit w0 30, aF := field w0 25 5, bF := field w0 20 5, oF := field w0 15 5,
    acc := bit w0 14, rows := field w0 0 12 + 1, aAddr := field w1 49 15, bAddr := field w1 34 15,
    cAddr := field w1 19 15, kb := field w1 11 8 + 1, nb := field w1 5 6 + 1 }

/-- R93, R120: occurrences of one kind join an exception record; the first keeps its place. Where pane 1 recorded its
first occurrence at the tc at which pane 0 has one, pane 0 wins the tie (log 104). -/
def foldExc (kind pane desc tc : Nat) (xs : List Exc) (e : ExcEntry) : ExcEntry :=
  let n := (xs.filter (fun x => decide (x.kind = kind))).length
  match firstExc kind xs with
  | none => e
  | some x =>
    if e.sticky && !(decide (e.seen = tc) && decide (pane < e.pane)) then { e with count := satAdd 32 e.count n }
    else {
      count := satAdd 32 e.count n, row := x.row, col := x.col, kblock := x.kblock, sticky := true, pane := pane
      desc := desc, seen := tc }

/-- Exceptions of a MATMUL join its context's record. -/
def recordExcs (n k pane desc : Nat) (xs : List Exc) (s : State) : State :=
  setCtx n k (fun c => { c with excs := (c.excs.zipIdx).map (fun p => foldExc p.2 pane desc s.frm.tc xs p.1) }) s

/-! ## Issue (R71, R72, R335, R338, R346) -/

/-- The region of a core is at the cool issue limit: the slat's pattern makes it cool, it is demoted, it or its sill is
held, or the peak limiter is engaged. -/
def State.coolHeld (s : State) (n : Nat) : Bool :=
  let r := regionOf n
  let hot := match s.inForceImage with
    | some i => i.hot (nth (0, 0) s.frm.slats s.frm.slat).1 r
    | none => false
  !hot || s.pwr.nowPlan.demote.contains r || (s.pairOf r).held || (nth {} s.thm.sills (r / 128)).held || s.sup.limiting

/-- Pane `p` may issue in a core cycle with this region cycle count. -/
def State.mayIssue (s : State) (n p cycle : Nat) : Bool :=
  if s.coolHeld n then decide (cycle % 4 = 2 * p)
  else if (s.groupOf (regionOf n)).dutyNow then decide (cycle % 4 / 2 = p)
  else true

/-! ## Filling a half (R108, R127) -/

/-- The next half of a MATMUL begins: nothing of it has been taken. -/
def openFill (n p : Nat) (e : QEntry) (s : State) : State :=
  setPane n p (fun x =>
    { x with
      lastHalf := 1 - x.lastHalf
      fill := some {
        uid := e.uid, half := 1 - x.lastHalf, index := e.issued, block := 0, outs := (matDesc e.w0 e.w1).startOuts e.issued } })
    (updEntry n e.uid (fun e => { e with issued := e.issued + 1 }) s)

/-- Every k-block of the half has been taken: its sums are formed and wait for the drain. -/
def closeFill (n p : Nat) (e : QEntry) (f : Fill) (s : State) : State :=
  let (outs, xs) := (matDesc e.w0 e.w1).sumHalf s.fresh f.outs
  setPane n p (fun x => { x with fill := none, halves := x.halves ++ [{ uid := f.uid, half := f.half, outs := outs }] })
    (recordExcs n e.slot p e.idx xs (useFresh s))

/-- One k-block: its B block is loaded and every row of the m-tile takes its A step, with the bytes the core store holds
now (R127). -/
def fillBlock (n p : Nat) (e : QEntry) (f : Fill) (s : State) : State :=
  let d := matDesc e.w0 e.w1
  let (outs, xs) := d.takeBlock (fun a len => s.storeBytes n a len) (f.index % d.nb) f.block f.outs
  let f := { f with block := f.block + 1, outs := outs }
  let s := recordExcs n e.slot p e.idx xs s
  let s := updEntry n e.uid (fun e => { e with since := s.frm.tc }) s
  let s := setPane n p (fun x =>
    { x with fill := some f, ctr := { x.ctr with issue := satAdd 32 x.ctr.issue (d.tileRows (f.index / d.nb)).length } }) s
  if f.block = d.kb then closeFill n p e f s else s

/-- One k-block of the half being filled, or of the next half of a started MATMUL where a half of the file is free. -/
def feedStep (n p : Nat) (s : State) : State :=
  match (s.paneOf n p).fill with
  | some f => match s.entryOf n f.uid with
    | some e => fillBlock n p e f s
    | none => setPane n p (fun x => { x with fill := none }) s
  | none =>
    if 2 ≤ (s.paneOf n p).halves.length then s
    else match (s.coreRec n).queue.find? (fun e => decide (e.q = .pane p) && e.started && decide (e.issued < e.need)) with
      | none => s
      | some e =>
        let s := openFill n p e s
        match (s.paneOf n p).fill with
        | some f => fillBlock n p e f s
        | none => s

/-- R108: a pane goes on for up to `blocks` k-blocks. -/
def feedPane (n p : Nat) : Nat → State → State
  | 0, s => s
  | blocks + 1, s => feedPane n p blocks (feedStep n p s)

/-- R113: drain planes of two MATMULs overlap. -/
def drainsOverlap (a b : MatDesc) : Bool := overlaps (a.cAddr * 32) a.cEnd (b.cAddr * 32) b.cEnd

/-- R113: the MATMUL that may start: its precondition holds, the one before has taken its last A step, and its drain
planes do not meet those of one still draining. -/
def State.paneNext (s : State) (n p : Nat) : Option QEntry :=
  if !s.coreRuns n then none
  else
    let q := (s.coreRec n).queue.filter (fun e => decide (e.q = .pane p) && !e.done)
    match q.find? (fun e => !e.started) with
    | none => none
    | some e =>
      let run := q.filter (fun x => x.started)
      if (s.ctxOf n e.slot).preMet e.w0 && !s.yieldsTo n e && run.all (fun x => decide (x.issued = x.need)
          && !drainsOverlap (matDesc x.w0 x.w1) (matDesc e.w0 e.w1)) then some e
      else none

/-- R89: the codebook header agrees with the descriptor. -/
def State.headerOk (s : State) (n : Nat) (d : MatDesc) : Bool :=
  !d.coded || (decide (leNat (s.storeBytes n d.bookAt 1) = d.aF)
    && decide (leNat (s.storeBytes n (d.bookAt + 1) 1) = elemBits d.bF))

/-- The MATMUL that a pane is filling halves for. -/
def State.paneRunning (s : State) (n p : Nat) : Option QEntry :=
  (s.coreRec n).queue.find? (fun e => decide (e.q = .pane p) && e.started && !e.done
    && (decide (e.issued < e.need) || (s.paneOf n p).fill.any (fun f => decide (f.uid = e.uid))))

/-- A MATMUL goes on. In a core cycle in which the pane may not issue it is held. -/
def runMatmul (n p cycle blocks : Nat) (parity : Bool) (e : QEntry) (s : State) : State :=
  if parity then setPane n p (fun x => { x with fill := none }) (faultEntry n e 1 s)
  else if s.mayIssue n p cycle then feedPane n p blocks s
  else setPane n p (fun x => { x with ctr := { x.ctr with held := satAdd 32 x.ctr.held 1 } }) s

/-- R108: pane `p` runs its MATMUL on, or starts the next one, for up to `blocks` k-blocks, the first A step in a core
cycle whose region cycle count is `cycle`. `parity` is a parity error in an operand byte. -/
def doMatmul (n p cycle blocks : Nat) (parity : Bool) (s : State) : State :=
  match s.paneRunning n p with
  | some e => if s.coreRuns n then runMatmul n p cycle blocks parity e s else s
  | none =>
    match s.paneNext n p with
    | none => s
    | some e =>
      let s := startEntry n e s
      let d := matDesc e.w0 e.w1
      if s.paneFenced n p then faultEntry n e 0x0A s
      else if !s.headerOk n d then faultEntry n e 8 (recordExcs n e.slot p e.idx [⟨5, 0, 0, 0⟩] s)
      else runMatmul n p cycle blocks parity e (updEntry n e.uid (fun e => { e with need := d.halves }) s)

/-- R108. -/
def execMatmul (n p cycle blocks : Nat) (parity : Bool) (s : State) : Host.Outcome State Fault Refusal :=
  onUnit (n < coreCount ∧ p < 2) (doMatmul n p cycle blocks parity s)

/-- R111, R112: draining one output; its exceptions are returned. -/
def drainOut (n : Nat) (d : MatDesc) (o : Nat × Nat × Nat) (st : State × List Exc) : State × List Exc :=
  let (s, xs) := st
  let (row, col, acc) := o
  let at_ := d.outAt row col
  let (c, ys) := d.drainOne row col acc (leNat (s.storeBytes n at_ d.outBytes))
  (putStore n at_ (leBytes d.outBytes c) s, xs ++ ys)

/-- Cycles counted since the last drained half (Table 5.3). -/
def PaneCtr.addCycles (c : PaneCtr) (held fa fb fd tail : Nat) : PaneCtr :=
  { c with
    held := satAdd 32 c.held held, freezeA := satAdd 32 c.freezeA fa, freezeB := satAdd 32 c.freezeB fb
    freezeD := satAdd 32 c.freezeD fd, tail := satAdd 32 c.tail tail }

/-- R111: the first `k` outputs that the oldest half still holds are drained. -/
def drainWords (n p k : Nat) (s : State) : State :=
  match (s.paneOf n p).halves with
  | [] => s
  | h :: rest =>
    match s.entryOf n h.uid with
    | none => s
    | some e =>
      let (s, xs) := (h.outs.take k).foldl (fun st o => drainOut n (matDesc e.w0 e.w1) o st) (s, [])
      let s := updEntry n e.uid (fun e => { e with since := s.frm.tc }) (recordExcs n e.slot p e.idx xs s)
      setPane n p (fun x => { x with halves := { h with outs := h.outs.drop k } :: rest }) s

/-- R40, R127: what the drains have written before work stops: pane 2 × core + pane, and outputs. -/
def drainBefore (l : List (Nat × Nat)) (s : State) : State := l.foldl (fun s x => drainWords (x.1 / 2) (x.1 % 2) x.2 s) s

/-- R111: the oldest half has been drained. `held` to `tail` are the cycles the pane has spent held, frozen for A, B or
the drain, and in the tail since the half before (timing is outside the model); `parity` is a parity error in an old
drain content (R53). -/
def doDrainHalfDone (n p held fa fb fd tail : Nat) (parity : Bool) (s : State) : State :=
  match (s.paneOf n p).halves with
  | [] => s
  | h :: rest =>
    if !s.coreRuns n || s.paneFenced n p then s
    else match s.entryOf n h.uid with
      | none => setPane n p (fun x => { x with halves := rest }) s
      | some e =>
        let drop (last : Bool) (s : State) : State := setPane n p (fun x =>
          let c := x.ctr.addCycles held fa fb fd tail
          { x with halves := x.halves.tail, ctr := if last then { c with matmuls := satAdd 32 c.matmuls 1 } else c }) s
        if parity && (matDesc e.w0 e.w1).acc then faultEntry n e 1 (drop false s)
        else
          let last := decide (e.got + 1 = e.need)
          drop last (updEntry n e.uid (fun e => { e with got := e.got + 1, done := last }) (drainWords n p h.outs.length s))

/-- R111. -/
def execDrainHalfDone (n p held fa fb fd tail : Nat) (parity : Bool) (s : State) : Host.Outcome State Fault Refusal :=
  onUnit (n < coreCount ∧ p < 2) (doDrainHalfDone n p held fa fb fd tail parity s)

/-- R125: a parity error in a buffer of a pane. -/
def doPaneParityError (n p : Nat) (s : State) : State :=
  if s.powered && s.paneGood n p then failPane n p (fenceUnits 3 [{ kind := 1, unit := n, sub := p }] s) else s

/-- R125. -/
def execPaneParityError (n p : Nat) (s : State) : Host.Outcome State Fault Refusal :=
  onUnit (n < coreCount ∧ p < 2) (doPaneParityError n p s)

end Sys2Proof.Machine
end

