-- ==== Sys2Proof/Machine/Vector.lean ====
section
/-! DEFINITION. The vector unit (chapters 3 and 4): the twenty VEC operations and CONVERT, from the planes in the core
store to the planes in the core store. Rows are processed in order, each read whole before its result is written; other
units may write between two rows (R78, log 111). -/
namespace Sys2Proof.Machine

/-- Fields of a VEC descriptor (Table 3.7). -/
structure VecDesc where
  op : Nat
  inF : Nat
  outF : Nat
  rows : Nat
  src1 : Nat                -- byte addresses
  src2 : Nat
  dst : Nat
  n : Nat                   -- elements per row
  deriving DecidableEq, Repr

/-- A VEC descriptor from its words. -/
def vecDesc (w0 w1 : Nat) : VecDesc :=
  { op := field w0 24 8, inF := field w0 19 5, outF := field w0 14 5, rows := field w0 0 12 + 1,
    src1 := 32 * field w1 49 15, src2 := 32 * field w1 34 15, dst := 32 * field w1 19 15, n := field w1 4 15 }

/-- Bytes of a row of `n` elements of a format, padded to whole units (R438). -/
def rowBytes (f n : Nat) : Nat := (n * elemBits f + 255) / 256 * 32

/-- Element codes of row `r` of a plane in the core store. -/
def State.rowAt (s : State) (core f n at_ r : Nat) : List Nat :=
  rowCodes f n (s.storeBytes core (at_ + r * rowBytes f n) (rowBytes f n))

/-- FP32 codes of row `r` of a source plane (R75). -/
def State.rowF32 (s : State) (core f n at_ r : Nat) : List Nat := (s.rowAt core f n at_ r).map (vecIn f)

/-- Element `i` of a run of packed elements. -/
def State.elemAt (s : State) (core f at_ i : Nat) : Nat :=
  packedAt (s.storeBytes core (at_ + i * elemBits f / 256 * 32) 32) (elemBits f) (i % (256 / max 1 (elemBits f)))

/-- Rows with a result row each, those of `l`: `second` gives the second operand's FP32 codes for a row. -/
def vecRows (core : Nat) (d : VecDesc) (second : State → Nat → List Nat) (l : List Nat) (s : State) : State :=
  l.foldl (fun s r =>
    let codes := s.rowAt core d.inF d.n d.src1 r
    let res := vecRow d.op d.inF d.outF s.fresh codes (second s r)
    useFresh (putStore core (d.dst + r * rowBytes d.outF d.n) (packRow (elemBits d.outF) res) s)) s

/-- Element-wise with a second row (R438). -/
def vecElement (core : Nat) (d : VecDesc) (l : List Nat) (s : State) : State :=
  vecRows core d (fun s r => s.rowF32 core d.inF d.n d.src2 r) l s

/-- With one scalar for every row. -/
def vecScalar (core : Nat) (d : VecDesc) (l : List Nat) (s : State) : State :=
  vecRows core d (fun s _ => [vecIn d.inF (s.elemAt core d.inF d.src2 0)]) l s

/-- With one scalar for each row. -/
def vecPerRow (core : Nat) (d : VecDesc) (l : List Nat) (s : State) : State :=
  vecRows core d (fun s r => [vecIn d.inF (s.elemAt core d.inF d.src2 r)]) l s

/-- Without a second operand. -/
def vecAlone (core : Nat) (d : VecDesc) (l : List Nat) (s : State) : State := vecRows core d (fun _ _ => []) l s

/-- One element for each row, packed end to end; the last one is followed by zeros to a whole unit. -/
def vecReduceRows (core : Nat) (d : VecDesc) (l : List Nat) (s : State) : State :=
  let bytes := elemBits d.outF / 8
  l.foldl (fun s r =>
    let c := vecReduce d.op d.inF d.outF s.fresh r (s.rowAt core d.inF d.n d.src1 r)
    let pad := if r + 1 = d.rows then rowBytes d.outF d.rows - d.rows * bytes else 0
    useFresh (putStore core (d.dst + r * bytes) (leBytes bytes c ++ List.replicate pad 0) s)) s

/-- One bit for each element, each row padded to whole units. -/
def vecMaskRows (core : Nat) (d : VecDesc) (l : List Nat) (s : State) : State :=
  l.foldl (fun s r =>
    let bits := vecMask d.op d.inF (s.rowAt core d.inF d.n d.src1 r) (s.rowF32 core d.inF d.n d.src2 r)
    putStore core (d.dst + r * ((d.n + 255) / 256 * 32)) (packRow 1 bits) s) s

/-! ## The run of a descriptor, row by row (R78) -/

/-- The next `count` rows of an entry that has `total` are processed with what the core store holds now; with the last
one its work is done. `parity` is a parity error in a source byte. -/
def nextRows (n total count : Nat) (parity : Bool) (work : List Nat → State → State) (e : QEntry) (s : State) : State :=
  if parity then faultEntry n e 1 s
  else
    let k := min count (total - e.got)
    updEntry n e.uid (fun e => { e with need := total, got := e.got + k, done := decide (e.got + k = total), since := s.frm.tc })
      (work ((List.range k).map (fun i => e.got + i)) s)

/-- The vector unit goes on with the descriptor it has begun, or starts the head of its queue, where it is of the kind
asked for. -/
def runVector (n : Nat) (is_ : QEntry → Bool) (body : QEntry → State → State) (s : State) : State :=
  match (s.coreRec n).queue.find? (fun e => decide (e.q = .vector) && e.started && !e.done) with
  | some e => if s.coreRuns n && is_ e then body e s else s
  | none => runUnit n .vector is_ false body s

/-- Running `count` rows of a VEC of one op. -/
def runVec (op : Nat) (work : Nat → VecDesc → List Nat → State → State) (core count : Nat) (parity : Bool) (s : State) : State :=
  runVector core (fun e => decide (kindOf e.w0 = 6) && decide (field e.w0 24 8 = op))
    (fun e s => nextRows core (vecDesc e.w0 e.w1).rows count parity (work core (vecDesc e.w0 e.w1)) e s) s

/-- ADD: its next `count` rows. `parity` is a parity error in a source byte. -/
def doVecAdd (n count : Nat) (parity : Bool) (s : State) : State := runVec 0x01 vecElement n count parity s

/-- R75. -/
def execVecAdd (n count : Nat) (parity : Bool) (s : State) : Host.Outcome State Fault Refusal :=
  onUnit (n < coreCount) (doVecAdd n count parity s)

/-- SUB: its next `count` rows. `parity` is a parity error in a source byte. -/
def doVecSub (n count : Nat) (parity : Bool) (s : State) : State := runVec 0x02 vecElement n count parity s

/-- R75. -/
def execVecSub (n count : Nat) (parity : Bool) (s : State) : Host.Outcome State Fault Refusal :=
  onUnit (n < coreCount) (doVecSub n count parity s)

/-- MUL: its next `count` rows. `parity` is a parity error in a source byte. -/
def doVecMul (n count : Nat) (parity : Bool) (s : State) : State := runVec 0x03 vecElement n count parity s

/-- R75. -/
def execVecMul (n count : Nat) (parity : Bool) (s : State) : Host.Outcome State Fault Refusal :=
  onUnit (n < coreCount) (doVecMul n count parity s)

/-- MAX (R101): its next `count` rows. `parity` is a parity error in a source byte. -/
def doVecMax (n count : Nat) (parity : Bool) (s : State) : State := runVec 0x04 vecElement n count parity s

/-- R101. -/
def execVecMax (n count : Nat) (parity : Bool) (s : State) : Host.Outcome State Fault Refusal :=
  onUnit (n < coreCount) (doVecMax n count parity s)

/-- MIN (R101): its next `count` rows. `parity` is a parity error in a source byte. -/
def doVecMin (n count : Nat) (parity : Bool) (s : State) : State := runVec 0x05 vecElement n count parity s

/-- R101. -/
def execVecMin (n count : Nat) (parity : Bool) (s : State) : Host.Outcome State Fault Refusal :=
  onUnit (n < coreCount) (doVecMin n count parity s)

/-- ADDS: its next `count` rows. `parity` is a parity error in a source byte. -/
def doVecAdds (n count : Nat) (parity : Bool) (s : State) : State := runVec 0x06 vecScalar n count parity s

/-- R75. -/
def execVecAdds (n count : Nat) (parity : Bool) (s : State) : Host.Outcome State Fault Refusal :=
  onUnit (n < coreCount) (doVecAdds n count parity s)

/-- MULS: its next `count` rows. `parity` is a parity error in a source byte. -/
def doVecMuls (n count : Nat) (parity : Bool) (s : State) : State := runVec 0x07 vecScalar n count parity s

/-- R75. -/
def execVecMuls (n count : Nat) (parity : Bool) (s : State) : Host.Outcome State Fault Refusal :=
  onUnit (n < coreCount) (doVecMuls n count parity s)

/-- EXP: its next `count` rows. `parity` is a parity error in a source byte. -/
def doVecExp (n count : Nat) (parity : Bool) (s : State) : State := runVec 0x08 vecAlone n count parity s

/-- R75. -/
def execVecExp (n count : Nat) (parity : Bool) (s : State) : Host.Outcome State Fault Refusal :=
  onUnit (n < coreCount) (doVecExp n count parity s)

/-- RCP: its next `count` rows. `parity` is a parity error in a source byte. -/
def doVecRcp (n count : Nat) (parity : Bool) (s : State) : State := runVec 0x09 vecAlone n count parity s

/-- R75. -/
def execVecRcp (n count : Nat) (parity : Bool) (s : State) : Host.Outcome State Fault Refusal :=
  onUnit (n < coreCount) (doVecRcp n count parity s)

/-- RSQRT: its next `count` rows. `parity` is a parity error in a source byte. -/
def doVecRsqrt (n count : Nat) (parity : Bool) (s : State) : State := runVec 0x0A vecAlone n count parity s

/-- R75. -/
def execVecRsqrt (n count : Nat) (parity : Bool) (s : State) : Host.Outcome State Fault Refusal :=
  onUnit (n < coreCount) (doVecRsqrt n count parity s)

/-- SIGMOID: its next `count` rows. `parity` is a parity error in a source byte. -/
def doVecSigmoid (n count : Nat) (parity : Bool) (s : State) : State := runVec 0x0B vecAlone n count parity s

/-- R75. -/
def execVecSigmoid (n count : Nat) (parity : Bool) (s : State) : Host.Outcome State Fault Refusal :=
  onUnit (n < coreCount) (doVecSigmoid n count parity s)

/-- RSUM: its next `count` rows. `parity` is a parity error in a source byte. -/
def doVecRsum (n count : Nat) (parity : Bool) (s : State) : State := runVec 0x10 vecReduceRows n count parity s

/-- R75. -/
def execVecRsum (n count : Nat) (parity : Bool) (s : State) : Host.Outcome State Fault Refusal :=
  onUnit (n < coreCount) (doVecRsum n count parity s)

/-- RMAX (R101): its next `count` rows. `parity` is a parity error in a source byte. -/
def doVecRmax (n count : Nat) (parity : Bool) (s : State) : State := runVec 0x11 vecReduceRows n count parity s

/-- R101. -/
def execVecRmax (n count : Nat) (parity : Bool) (s : State) : Host.Outcome State Fault Refusal :=
  onUnit (n < coreCount) (doVecRmax n count parity s)

/-- RSUMSQ: its next `count` rows. `parity` is a parity error in a source byte. -/
def doVecRsumsq (n count : Nat) (parity : Bool) (s : State) : State := runVec 0x12 vecReduceRows n count parity s

/-- R75. -/
def execVecRsumsq (n count : Nat) (parity : Bool) (s : State) : Host.Outcome State Fault Refusal :=
  onUnit (n < coreCount) (doVecRsumsq n count parity s)

/-- RARGMAX (R101): its next `count` rows. `parity` is a parity error in a source byte. -/
def doVecRargmax (n count : Nat) (parity : Bool) (s : State) : State := runVec 0x13 vecReduceRows n count parity s

/-- R101. -/
def execVecRargmax (n count : Nat) (parity : Bool) (s : State) : Host.Outcome State Fault Refusal :=
  onUnit (n < coreCount) (doVecRargmax n count parity s)

/-- ROWSUB: its next `count` rows. `parity` is a parity error in a source byte. -/
def doVecRowsub (n count : Nat) (parity : Bool) (s : State) : State := runVec 0x14 vecPerRow n count parity s

/-- R75. -/
def execVecRowsub (n count : Nat) (parity : Bool) (s : State) : Host.Outcome State Fault Refusal :=
  onUnit (n < coreCount) (doVecRowsub n count parity s)

/-- ROWMUL: its next `count` rows. `parity` is a parity error in a source byte. -/
def doVecRowmul (n count : Nat) (parity : Bool) (s : State) : State := runVec 0x15 vecPerRow n count parity s

/-- R75. -/
def execVecRowmul (n count : Nat) (parity : Bool) (s : State) : Host.Outcome State Fault Refusal :=
  onUnit (n < coreCount) (doVecRowmul n count parity s)

/-- CSUM: its next `count` rows. `parity` is a parity error in a source byte. -/
def doVecCsum (n count : Nat) (parity : Bool) (s : State) : State := runVec 0x16 vecAlone n count parity s

/-- R75. -/
def execVecCsum (n count : Nat) (parity : Bool) (s : State) : Host.Outcome State Fault Refusal :=
  onUnit (n < coreCount) (doVecCsum n count parity s)

/-- MASKGE (R101): its next `count` rows. `parity` is a parity error in a source byte. -/
def doVecMaskge (n count : Nat) (parity : Bool) (s : State) : State := runVec 0x18 vecMaskRows n count parity s

/-- R101. -/
def execVecMaskge (n count : Nat) (parity : Bool) (s : State) : Host.Outcome State Fault Refusal :=
  onUnit (n < coreCount) (doVecMaskge n count parity s)

/-- MASKLT (R101): its next `count` rows. `parity` is a parity error in a source byte. -/
def doVecMasklt (n count : Nat) (parity : Bool) (s : State) : State := runVec 0x19 vecMaskRows n count parity s

/-- R101. -/
def execVecMasklt (n count : Nat) (parity : Bool) (s : State) : Host.Outcome State Fault Refusal :=
  onUnit (n < coreCount) (doVecMasklt n count parity s)

/-! ## CONVERT -/

/-- Fields of a CONVERT descriptor (Table 3.7). -/
structure ConvDesc where
  inF : Nat
  outF : Nat
  rnd : Bool
  sat : Bool
  amax : Nat
  scaleSrc : Nat
  rows : Nat
  src : Nat                 -- byte addresses
  scaleAt : Nat
  dst : Nat
  n : Nat
  deriving DecidableEq, Repr

/-- A CONVERT descriptor from its words. -/
def convDesc (w0 w1 : Nat) : ConvDesc :=
  { inF := field w0 27 5, outF := field w0 22 5, rnd := bit w0 21, sat := bit w0 20, amax := field w0 14 6,
    scaleSrc := field w0 12 2, rows := field w0 0 12 + 1, src := 32 * field w1 49 15, scaleAt := 32 * field w1 34 15,
    dst := 32 * field w1 19 15, n := field w1 4 15 }

/-- Bytes of a row of a scale plane (R438). -/
def scaleRow (n : Nat) : Nat := ((n + 31) / 32 + 31) / 32 * 32

/-- Inputs of a row after the exactness step of R94; those of an MX format with their block's scale. -/
def State.convInputs (s : State) (core : Nat) (d : ConvDesc) (r : Nat) : List Val :=
  let codes := s.rowAt core d.inF d.n d.src r
  if isMx d.inF then
    let scales := s.storeBytes core (d.scaleAt + r * scaleRow d.n) (scaleRow d.n)
    (codes.zipIdx).map (fun p => convIn d.inF p.1 (some (nth 0 scales (p.2 / 32))))
  else codes.map (fun c => convIn d.inF c none)

/-- R95, R96: the rounding of each element of a row; stochastic bits are drawn in element order. -/
def State.convRounds (s : State) (core slot : Nat) (d : ConvDesc) : List Rnd :=
  let seed := (s.inForceImage.map (fun i => i.roundSeed)).getD 0
  let at_ := (s.ctxOf core slot).srCount
  (List.range d.n).map (fun i =>
    if d.rnd then .sr (Config.roundBits seed core s.frm.count slot (at_ + i) % 2 ^ 16) else .rne)

/-- One row: result planes written, counts folded. -/
def convOneRow (core slot : Nat) (d : ConvDesc) (r : Nat) (st : State × AmaxFold) : State × AmaxFold :=
  let (s, a) := st
  let xs := s.convInputs core d r
  let rnds := s.convRounds core slot d
  let s' := if d.rnd then setCtx core slot (fun c => { c with srCount := c.srCount + d.n }) s else s
  let dst := d.dst + r * rowBytes d.outF d.n
  if isMx d.outF then
    let (codes, scales, a) := convMxRow d.outF rnds d.sat xs a
    (putStore core (d.scaleAt + r * scaleRow d.n) (slice scales 0 (scaleRow d.n))
      (putStore core dst (packRow (elemBits d.outF) codes) s'), a)
  else
    let k := if d.scaleSrc = 1 then f32Val (leNat (s.storeBytes core d.scaleAt 4)) else .fin false 1 0
    let (codes, a) := convRow d.outF rnds d.sat k xs a
    (putStore core dst (packRow (elemBits d.outF) codes) s', a)

/-- The FP32 code of an amax that is not stated where it lies beyond FP32. -/
def amaxCode (key : Nat) (v : Val) : Nat :=
  let c := layFP32.encodeIeee v
  if (layFP32.decode c).isInf then Config.unstated key 0 % 2 ^ 32 else c

/-- R99: a CONVERT's counts folded into its amax record. Bit 1 of flags compares out_fmt alone, the one format the record
holds (log 110). -/
def Amax.fold (m : Amax) (key frame outF : Nat) (a : AmaxFold) : Amax :=
  let used := bit m.flags 0
  let c := amaxCode key a.amax
  { amax := if (f32Val m.amax).absLt (f32Val c) then c else m.amax
    nans := satAdd 32 m.nans a.nans
    infs := satAdd 32 m.infs a.infs
    sats := satAdd 32 m.sats a.sats
    unders := satAdd 32 m.unders a.unders
    elements := satAdd 32 m.elements a.elements
    frame := frame % 2 ^ 32
    outFmt := outF
    flags := 1 + 2 * b2n (bit m.flags 1 || (used && decide (m.outFmt ≠ outF))) }

/-- Rows of a CONVERT: their planes are written and they are folded into its amax record. -/
def convert (core slot : Nat) (d : ConvDesc) (l : List Nat) (s : State) : State :=
  let (s, a) := l.foldl (fun st r => convOneRow core slot d r st) (s, {})
  useFresh (setCtx core slot (fun c =>
    { c with amax := mapMod amax0 c.amax d.amax (fun m => m.fold s.fresh s.frm.count d.outF a) }) s)

/-- CONVERT: its next `count` rows. `parity` is a parity error in a source byte. -/
def doConvert (n count : Nat) (parity : Bool) (s : State) : State :=
  runVector n (fun e => decide (kindOf e.w0 = 7))
    (fun e s => nextRows n (convDesc e.w0 e.w1).rows count parity (convert n e.slot (convDesc e.w0 e.w1)) e s) s

/-- R94. -/
def execConvert (n count : Nat) (parity : Bool) (s : State) : Host.Outcome State Fault Refusal :=
  onUnit (n < coreCount) (doConvert n count parity s)

end Sys2Proof.Machine
end

