-- ==== Sys2Proof/Machine/Check.lean ====
section
/-! DEFINITION. The consistency check (R244): the tests of steps 1 to 8 in their order. A refusal is a reason code with
the section-table index and the detail. -/
namespace Sys2Proof.Machine

/-- A failed test: reason code and detail. -/
abbrev Refused := Option (Nat × Nat)

/-- The first of a list of tests that fails: (broken, code, detail). -/
def firstBroken (l : List (Bool × Nat × Nat)) : Refused := (l.find? (fun e => e.1)).map (fun e => e.2)

/-- The first record that fails. -/
def perRecord (n : Nat) (f : Nat → Refused) : Refused := (List.range n).findSome? f

/-- Whether two spans of `n` bytes meet. -/
def meets (a n b m : Nat) : Bool := decide (0 < n) && decide (0 < m) && decide (a < b + m) && decide (b < a + n)

/-- What a check knows beside the state: the image, whether it resumes the image in force, the tc of its acceptance, and
the hops and extra fibre of the longest route of the lockstep group, which lie in other devices' tables (log 39). -/
structure CheckEnv where
  i : Image
  resume : Bool
  accepted : Nat
  hops : Nat
  fibre : Nat
  deriving DecidableEq, Repr

/-! ## Memory spans -/

/-- The first tile at which a span meets a hole, the end of the device space or a fence. -/
def State.spanTile (s : State) (a n : Nat) : Option Nat :=
  let bad (t : Nat) : Bool :=
    let lo := max a (t * slotSize) - t * slotSize
    let hi := min (a + n) ((t + 1) * slotSize) - t * slotSize
    decide (coreCount ≤ t) || decide (tileData < hi) || s.tileFenced t
      || (List.range ((hi + bankData - 1) / bankData)).any (fun b => decide (lo / bankData ≤ b) && s.bankFenced t b)
  let first := a / slotSize
  ((List.range ((a + n + slotSize - 1) / slotSize - first)).map (fun k => first + k)).find? bad

/-- A span lies in a window declared or committed as striped (R161, R298). Windows cover whole tiles. -/
def State.inStriped (s : State) (e : CheckEnv) (a n : Nat) : Bool :=
  let t := tileOf a
  let declared := (List.range (e.i.records 6)).any (fun k =>
    let f := e.i.recLe 6 k
    decide (f 0 1 = 5) && decide (f 1 1 = 1) && decide (f 8 8 ≤ t * tileData) && decide (t * tileData < f 8 8 + f 16 8))
  decide (0 < n) && (declared || (match s.windowOf (t * slotSize) with | some w => w.striped | none => false))

/-- Areas of the image, kinds 1 to 4: base and length. -/
def Image.areas (i : Image) : List (Nat × Nat) :=
  ((List.range (i.records 6)).filter (fun k => decide (1 ≤ i.recLe 6 k 0 1) && decide (i.recLe 6 k 0 1 ≤ 4))).map
    (fun k => (i.recLe 6 k 8 8, i.recLe 6 k 16 8))

/-- Save areas of roles and spares with the length each needs (R73). -/
def Image.saves (i : Image) : List (Nat × Nat) :=
  (List.range i.roles).map (fun r => ((i.role r).save, 4096 + 32 * (i.role r).swapLen))
    ++ (List.range (i.records 0x0E)).map (fun k =>
      ((i.spare k).save, 4096 + 32 * ((i.spare k).covers.foldl (fun m r => max m (i.role r).swapLen) 0)))

/-! ## Descriptors -/

/-- Words of descriptor `k` of a role's table. -/
def Image.words (i : Image) (x : RoleRec) (k : Nat) : Nat × Nat :=
  let d := i.task (x.tasks + k)
  (d % 2 ^ 64, d / 2 ^ 64)

/-- Kinds of the descriptors of a role's table. -/
def Image.table (i : Image) (r : Nat) : List (Nat × Nat) := (List.range (i.role r).len).map (i.words (i.role r))

/-- LOOPs that enclose table index `k`, outermost first: (end, iterations, memory step, core-store step). -/
def enclosing (t : List (Nat × Nat)) (k : Nat) : List (Nat × Nat × Int × Int) :=
  ((t.take k).zipIdx.filter (fun e => decide (kindOf e.1.1 = 10) && decide (k < e.2 + 1 + field e.1.1 24 8))).map (fun e =>
    (e.2 + 1 + field e.1.1 24 8, field e.1.1 0 16 + 1, toSigned 32 (field e.1.2 32 32), toSigned 16 (field e.1.2 16 16)))

/-- How often a descriptor runs in a frame. -/
def timesRun (t : List (Nat × Nat)) (k : Nat) : Nat := (enclosing t k).foldl (fun n l => n * l.2.1) 1

/-- Bytes of SENDs to role `r` in one run of a descriptor list. -/
def sendBytes (t : List (Nat × Nat)) (r : Nat) : Nat :=
  (t.zipIdx.map (fun e =>
    if kindOf e.1.1 = 3 && decide (field e.1.1 3 2 = 0) && decide (field e.1.2 48 16 = r) then
      32 * field e.1.1 5 12 * timesRun t e.2
    else 0)).sum

/-- R59: the largest total of SENDs to role `r` that one frame allows: each template runs every table from its entry. -/
def Image.sendsTo (i : Image) (r : Nat) : Nat :=
  ((List.range (min 4 (i.frameLe 14 1))).map (fun t =>
    ((List.range i.roles).map (fun q =>
      let e := nth 0 (i.role q).entry t
      if e = 0xFFFF then 0 else sendBytes ((i.table q).drop e) r)).sum)).foldl max 0

/-- 0x0206: a save area cannot hold the swap set and the arrivals of role `r`. -/
def Image.saveSmall (i : Image) (save r : Nat) : Bool :=
  decide (tileData < save % slotSize + 4096 + 32 * (i.role r).swapLen + i.sendsTo r)

/-- Reserved bits of a kind: masks of word 0 below bit 32 and of word 1 (Tables 3.4 to 3.8). -/
def reservedMask (w0 : Nat) : Nat × Nat :=
  match kindOf w0 with
  | 1 => (0x1F000, 0)
  | 2 => (0x1F000, 0)
  | 3 => (0x7, if field w0 3 2 = 0 then 2 ^ 44 - 1 else 0x1FFF)
  | 4 => (0x1, 2 ^ 64 - 1)
  | 5 => (0x3000, 0x1F)
  | 6 => (0, 0xF)
  | 7 => (0, 0xF)
  | 8 => (0, 0x3FFFF)
  | 9 => (0x7F, 2 ^ 64 - 2 ^ 27)
  | 10 => (0xFF0000, 0xFFFF)
  | _ => (0xFFFFFF, 2 ^ 36 - 1)

/-- 0x0140 (R57). -/
def reservedBad (w0 w1 : Nat) : Bool :=
  let k := kindOf w0
  let m := reservedMask w0
  decide (k = 0) || decide (12 ≤ k) || decide (w0 &&& m.1 ≠ 0) || decide (w1 &&& m.2 ≠ 0) || (bit w0 36 && decide (10 ≤ k))

/-- A format a VEC takes (Table 3.9). -/
def vecFmt (f : Nat) : Bool := [0x01, 0x02, 0x03, 0x10].contains f

/-- A VEC op of Table 3.11 that is not reserved. -/
def vecOpOk (op : Nat) : Bool :=
  (decide (1 ≤ op) && decide (op ≤ 0x0B)) || (decide (0x10 ≤ op) && decide (op ≤ 0x16)) || decide (op = 0x18) || decide (op = 0x19)

/-- 0x0143 (R62, R67, R167): a format or another field out of range. -/
def fieldBad (slats w0 w1 : Nat) : Bool :=
  match kindOf w0 with
  | 1 => decide (field w1 17 12 = 0)
  | 2 => decide (field w1 17 12 = 0)
  | 3 => decide (field w0 5 12 = 0) || decide (field w0 3 2 = 1)
  | 4 => decide (field w0 5 12 = 0)
  | 5 =>
    let d := matDesc w0 w1
    !(decide (2 ≤ d.aF) && decide (d.aF ≤ 0x0D) && decide (2 ≤ d.bF) && decide (d.bF ≤ 0x0F) && [0x01, 0x02, 0x10].contains d.oF)
  | 6 =>
    let d := vecDesc w0 w1
    !vecOpOk d.op || !vecFmt d.inF || (if 0x18 ≤ d.op then decide (d.outF ≠ 0) else !vecFmt d.outF) || decide (d.n = 0)
      || decide (field w0 12 2 ≠ 0)
  | 7 =>
    let d := convDesc w0 w1
    !((decide (1 ≤ d.inF) && decide (d.inF ≤ 0x0D)) || decide (d.inF = 0x10)) || decide (d.outF = 0) || decide (0x0D < d.outF)
      || decide (d.scaleSrc = 3) || decide (d.n = 0)
  | 8 => decide (24 ≤ field w0 27 5) || decide (field w1 24 8 = 0) || decide (4 < field w1 20 4) || decide (field w1 18 2 = 3)
      || (decide (field w1 20 4 = 4) && decide (field w1 18 2 = 2))
  | 9 =>
    let c := field w0 28 4
    decide (5 < c) || (if c = 1 then decide (slats ≤ field w1 0 27) else decide (c ≠ 2) && decide (field w1 0 27 ≠ 0))
  | _ => decide (field w0 24 8 = 0)

/-- 0x0343 (R198, R206): a KV address where none may stand, or beyond its region's pool. -/
def Image.kvBad (i : Image) (core w0 w1 : Nat) : Bool :=
  match kindOf w0 with
  | 3 => decide (field w0 3 2 ≠ 0) && isKv (32 * field w1 13 35)
  | 1 | 2 =>
    let a := 32 * field w1 29 35
    isKv a && (match i.poolOf (regionOf core) with
      | none => true
      | some p => decide (p.lanes ≤ field a 34 4) || decide (p.streams ≤ field a 28 6))
  | _ => false

/-- 0x0802 to 0x0807 in ascending order (R60, R61, R90, R98, R107). -/
def fmtBad (w0 w1 : Nat) : Option Nat :=
  match kindOf w0 with
  | 5 =>
    let d := matDesc w0 w1
    if !d.coded && d.aF ≠ d.bF then some 0x0802
    else if d.isInt != decide (d.oF = 0x10) then some 0x0803
    else if d.coded && ! [0x04, 0x06, 0x07, 0x0B, 0x0C].contains d.aF then some 0x0805
    else if d.transom && isMx d.aF && decide (d.K % 32 ≠ 0) then some 0x0807
    else none
  | 7 =>
    let d := convDesc w0 w1
    if d.rnd && ! [0x04, 0x05, 0x06, 0x07, 0x0A, 0x0D].contains d.outF then some 0x0804
    else if (decide (d.scaleSrc = 2) != isMx d.outF) || (isMx d.inF && (decide (d.scaleSrc ≠ 0) || isMx d.outF)) then some 0x0806
    else none
  | _ => none

/-- 0x0141 (R68): the LOOP at table index `k`. -/
def loopBad (t : List (Nat × Nat)) (k w0 : Nat) : Bool :=
  let out := enclosing t k
  let last := k + 1 + field w0 24 8
  decide (4 ≤ out.length) || decide (t.length < last) || out.any (fun l => decide (l.1 < last))
    || ((t.drop (k + 1)).take (field w0 24 8)).any (fun e => decide (kindOf e.1 = 9) && decide (field e.1 28 4 = 5))

/-- Micro-program words the image gives a unit: 0 to 15 and its own (R167). -/
def Image.wordLoaded (i : Image) (k : Nat) : Bool :=
  decide (k < 16) || (decide (i.bankWords.1 ≤ k) && decide (k < i.bankWords.1 + i.bankWords.2.length))

/-- A plane of a descriptor: first byte before the steps, whether the core-store step moves it, length, written. -/
structure Plane where
  at_ : Nat
  moves : Bool
  len : Nat
  write : Bool
  deriving DecidableEq, Repr

/-- Planes of a VEC (R438). -/
def vecPlanes (d : VecDesc) : List Plane :=
  let full := d.rows * rowBytes d.inF d.n
  let second := if d.op ≤ 5 ∨ 0x18 ≤ d.op then full
    else if d.op = 6 ∨ d.op = 7 then 32
    else if d.op = 0x14 ∨ d.op = 0x15 then rowBytes d.inF d.rows
    else 0
  let out := if 0x18 ≤ d.op then d.rows * ((d.n + 255) / 256 * 32)
    else if 0x10 ≤ d.op ∧ d.op ≤ 0x13 then rowBytes d.outF d.rows
    else d.rows * rowBytes d.outF d.n
  [⟨d.src1, true, full, false⟩, ⟨d.src2, false, second, false⟩, ⟨d.dst, true, out, true⟩]

/-- Planes of a CONVERT (R438). -/
def convPlanes (d : ConvDesc) : List Plane :=
  let scale := if isMx d.inF ∨ d.scaleSrc = 2 then d.rows * scaleRow d.n else if d.scaleSrc = 1 then 32 else 0
  [⟨d.src, true, d.rows * rowBytes d.inF d.n, false⟩, ⟨d.scaleAt, false, scale, decide (d.scaleSrc = 2)⟩,
    ⟨d.dst, true, d.rows * rowBytes d.outF d.n, true⟩]

/-- Core-store planes of a descriptor. -/
def planesOf (w0 w1 : Nat) : List Plane :=
  match kindOf w0 with
  | 1 => [⟨32 * field w0 17 15, true, 32 * (field w0 0 12 + 1) * field w1 17 12, true⟩]
  | 2 => [⟨32 * field w0 17 15, true, 32 * (field w0 0 12 + 1) * field w1 17 12, false⟩]
  | 3 => [⟨32 * field w0 17 15, true, 32 * field w0 5 12, false⟩]
  | 4 => [⟨32 * field w0 17 15, true, 32 * field w0 5 12, true⟩]
  | 5 =>
    let d := matDesc w0 w1
    [⟨32 * d.aAddr, true, d.aEnd - 32 * d.aAddr, false⟩, ⟨32 * d.bAddr, false, d.bEnd - 32 * d.bAddr, false⟩,
      ⟨32 * d.cAddr, true, d.cEnd - 32 * d.cAddr, true⟩]
  | 6 => vecPlanes (vecDesc w0 w1)
  | 7 => convPlanes (convDesc w0 w1)
  | 11 => [⟨32 * field w1 49 15, true, (field w1 36 13 + 8) / 8, false⟩]
  | _ => []

/-- Start of a plane under a core-store step. -/
def Plane.start (p : Plane) (cs : Int) : Int := p.at_ + (if p.moves then 32 * cs else 0)

/-- 0x0142, 0x0144, 0x0145, 0x0302 and 0x0313 of one execution with its steps, for a table bound to a core. -/
def State.runBad (s : State) (core w0 w1 : Nat) (mem cs : Int) : Option Nat :=
  let ps := planesOf w0 w1
  let out (p : Plane) : Bool := decide (p.start cs < 0) || decide (0x100000 < p.start cs + p.len)
  let amax (p : Plane) : Bool := p.write && decide (0 < p.len) && decide (0xFE000 < p.start cs + p.len)
  let hits (p q : Plane) : Bool := p.write && !q.write && decide (p.start cs < q.start cs + q.len) && decide (q.start cs < p.start cs + p.len)
  if ps.any out then some 0x0142
  else if ps.any amax then some 0x0144
  else if kindOf w0 = 5 && ps.any (fun p => ps.any (hits p)) then some 0x0145
  else match kindOf w0 with
    | 8 =>
      let l : Int := field w1 48 16 + (if bit w0 59 then mem else 0)
      if s.bankFenced core (field w0 27 5) then some 0x0302
      else if l < 0 || 65536 < l + (field w0 0 16 + 4) / 4 then some 0x0313
      else none
    | 1 | 2 =>
      let a : Int := 32 * (field w1 29 35 + mem)
      let row (r : Nat) : Bool :=
        let x := a + 32 * r * field w1 0 17
        decide (x < 0) || (!isKv x.toNat && (s.spanTile x.toNat (32 * field w1 17 12)).isSome)
      if (List.range (field w0 0 12 + 1)).any row then some 0x0302 else none
    | _ => none

/-- Every iteration of the enclosing loops in loop order, outermost first: the first code found. -/
def everyRun (test : Int → Int → Option Nat) : List (Nat × Nat × Int × Int) → Int → Int → Option Nat
  | [], m, c => test m c
  | l :: t, m, c => (List.range l.2.1).findSome? (fun (k : Nat) => everyRun test t (m + (k : Int) * l.2.2.1) (c + (k : Int) * l.2.2.2))

/-- Step 5: one descriptor (R244). -/
def State.descBad (s : State) (e : CheckEnv) (core : Nat) (t : List (Nat × Nat)) (k : Nat) : Option Nat :=
  let (w0, w1) := nth (0, 0) t k
  let entry := field w0 16 8
  if reservedBad w0 w1 then some 0x0140
  else if fieldBad e.i.slats w0 w1 then some 0x0143
  else if e.i.kvBad core w0 w1 then some 0x0343
  else match fmtBad w0 w1 with
    | some c => some c
    | none =>
      if kindOf w0 = 10 && loopBad t k w0 then some 0x0141
      else if kindOf w0 = 5 && s.paneFenced core (field w0 31 1) then some 0x0204
      else if kindOf w0 = 8 && decide (6 ≤ field w0 24 3) then some 0x0311
      else if kindOf w0 = 8 && !e.i.wordLoaded entry then some 0x0312
      else if bit w0 59 then everyRun (s.runBad core w0 w1) (enclosing t k) 0 0
      else s.runBad core w0 w1 0 0

/-! ## The binding the check tests -/

/-- A role's core and save area: on a resumption its present binding, since rebindings stand (R251). -/
def State.checkBinding (s : State) (e : CheckEnv) (r : Nat) : Binding :=
  e.i.binding (if e.resume then mapGet 0 s.dev.rebinds r else 0) r

/-! ## Step 1: licences -/

/-- 0x0611 to 0x0614. -/
def State.step1 (s : State) (e : CheckEnv) (ty : Nat) : Refused :=
  let f := s.kpr.features
  match ty with
  | 2 => if f.w2w1 then none
    else perRecord e.i.roles (fun r =>
      if (e.i.table r).any (fun d => decide (kindOf d.1 = 5) && (matDesc d.1 d.2).coded) then some (0x0612, r) else none)
  | 6 => if f.cxlMem then none else perRecord (e.i.records 6) (fun k => if e.i.recLe 6 k 0 1 = 5 then some (0x0614, k) else none)
  | 0x0B => perRecord 32 (fun l => if e.i.recLe 0x0B (1 + l) 0 1 = 1 && !bit f.links l then some (0x0613, l) else none)
  | 0x0D => if f.req then none else some (0x0611, 0)
  | _ => none

/-! ## Step 2: roles and floor plan -/

/-- R54: swap sets of two roles do not overlap. -/
def swapMeets (a b : RoleRec) : Bool := meets a.swapStart a.swapLen b.swapStart b.swapLen

/-- 0x0205 (R54, R247), against the roles before it on the core. -/
def contextBad (i : Image) (x : RoleRec) (others : List RoleRec) : Bool :=
  let n := i.slats
  decide (x.slats = 0) || decide (2 ^ n ≤ x.slats)
    || (List.range (min 4 (i.frameLe 14 1))).any (fun t =>
      i.lockstep t && decide (nth 0 x.entry t ≠ 0xFFFF) && decide (x.slats ≠ 2 ^ n - 1))
    || decide (32768 < x.swapStart + x.swapLen)
    || others.any (fun y => decide (x.slats &&& y.slats ≠ 0) || swapMeets x y)
    || decide (32768 < x.swapLen + (others.map (fun y => y.swapLen)).sum)

/-- One ROLES record. -/
def State.roleBad (s : State) (e : CheckEnv) (r : Nat) : Refused :=
  let x := e.i.role r
  let b := s.checkBinding e r
  let before := (List.range r).map e.i.role
  let same := before.filter (fun y => decide (y.core = x.core))
  firstBroken [
    (decide (coreCount ≤ x.core) || same.any (fun y => decide (y.slot = x.slot)) || decide (x.len = 0), 0x0201, r),
    (decide (4096 < x.start + x.len) || decide (e.i.records 2 < x.tasks + x.len)
      || same.any (fun y => meets x.start x.len y.start y.len), 0x0202, r),
    (s.coreFenced b.core, 0x0203, r),
    (contextBad e.i x same, 0x0205, r),
    (((List.range e.i.roles).any (fun q => decide (q ≠ r) && decide ((e.i.role q).core = x.core)))
      && e.i.saveSmall b.save r, 0x0206, r)]

/-- R248: why a spare on a core could not take a role beside the roles `on`. -/
def State.spareCannot (s : State) (i : Image) (sp : SpareRec) (on : List Nat) (r : Nat) : Bool :=
  let x := i.role r
  let res := on.map i.role
  let t := i.table r
  res.any (fun y => decide (x.slats &&& y.slats ≠ 0) || swapMeets x y)
    || decide (32768 < x.swapLen + (res.map (fun y => y.swapLen)).sum)
    || decide (4096 < ((i.residents sp.core).map (fun q => (i.role q).len)).sum + (sp.covers.map (fun q => (i.role q).len)).sum)
    || t.any (fun d => decide (kindOf d.1 = 8))
    || (decide (regionOf sp.core ≠ regionOf x.core) &&
      t.any (fun d => (decide (kindOf d.1 = 1) || decide (kindOf d.1 = 2)) && isKv (32 * field d.2 29 35)))
    || t.any (fun d => decide (kindOf d.1 = 5) && s.paneFenced sp.core (field d.1 31 1))

/-- One SPARES record. -/
def State.spareBad (s : State) (e : CheckEnv) (k : Nat) : Refused :=
  let i := e.i
  let sp := i.spare k
  let taken := (List.range i.roles).any (fun r => decide ((i.role r).core = sp.core) && decide ((i.role r).slot = sp.slot))
    || (List.range k).any (fun j => decide ((i.spare j).core = sp.core) && decide ((i.spare j).slot = sp.slot))
  let form := decide (sp.count = 0) || decide (8 < sp.count) || !allZeros (i.bytes 0x0E) (32 * k + 3) 5
    || (List.range 8).any (fun j => decide (sp.count ≤ j) && decide (i.recLe 0x0E k (16 + 2 * j) 2 ≠ 0xFFFF))
    || sp.covers.any (fun r => decide (i.roles ≤ r))
  let shared := !(i.residents sp.core).isEmpty
    || (List.range (i.records 0x0E)).any (fun j => decide (j ≠ k) && decide ((i.spare j).core = sp.core))
  let small := if shared then sp.covers.find? (i.saveSmall sp.save) else none
  match firstBroken [(small.isSome, 0x0206, small.getD 0),
      (decide (coreCount ≤ sp.core) || s.coreFenced sp.core || taken, 0x0207, sp.core), (form, 0x0207, k)] with
  | some x => some x
  | none => (sp.covers.find? (s.spareCannot i sp (i.residents sp.core))).map (fun r => (0x0208, r))

/-- 0x0201 to 0x0208, 0x0204 apart. -/
def State.step2 (s : State) (e : CheckEnv) (ty : Nat) : Refused :=
  match ty with
  | 1 => perRecord e.i.roles (s.roleBad e)
  | 0x0E => perRecord (e.i.records 0x0E) (s.spareBad e)
  | _ => none

/-! ## Step 3: memory -/

/-- One MEMORY record. -/
def State.areaBad (s : State) (e : CheckEnv) (k : Nat) : Refused :=
  let f := e.i.recLe 6 k
  let kind := f 0 1
  let a := f 8 8
  let n := f 16 8
  let window := decide (kind = 5)
  let unit := if window then 16 * tileData else 32
  let form := decide (kind = 0) || decide (5 < kind) || (if window then decide (1 < f 1 1) else decide (f 1 1 ≠ 0))
    || !allZeros (e.i.bytes 6) (32 * k + 2) 6 || !allZeros (e.i.bytes 6) (32 * k + 24) 8 || decide (n = 0)
    || decide (a % unit ≠ 0) || decide (n % unit ≠ 0)
  let area := !window && decide (1 ≤ kind) && decide (kind ≤ 4)
  let earlier := (List.range k).filter (fun j => decide (1 ≤ e.i.recLe 6 j 0 1) && decide (e.i.recLe 6 j 0 1 ≤ 4))
  let hole := if area then s.spanTile a n else none
  let staged := (List.range ((e.i.length + tileData - 1) / tileData)).any (fun t =>
    match s.dev.staged with
    | none => false
    | some (first, len) => meets a n ((first + t) * slotSize) (min len ((t + 1) * tileData) - t * tileData))
  firstBroken [
    (area && earlier.any (fun j => meets a n (e.i.recLe 6 j 8 8) (e.i.recLe 6 j 16 8)), 0x0301, k),
    (form, 0x0303, k),
    (hole.isSome, 0x0303, hole.getD 0),
    (!e.resume && (decide (kind = 1) || decide (kind = 2)) && staged, 0x0304, k),
    (decide (kind = 2) && s.inStriped e a n, 0x0305, k)]

/-- 0x0306: a save area of a core. -/
def State.saveBad (s : State) (e : CheckEnv) (core save swapLen : Nat) : Bool :=
  let n := 4096 + 32 * swapLen
  decide (tileOf save ≠ core) || decide (save % 4096 ≠ 0) || (s.spanTile save n).isSome
    || e.i.areas.any (fun x => meets save n x.1 x.2)

/-- The region records' first record index. -/
def Image.regionBase (i : Image) : Nat := 1 + (i.recLe 9 0 2 2 + 7) / 8

/-- One result-region record (R24, R161, R167): 0x0310 also where its bank or tile is fenced. -/
def State.regionBad (s : State) (e : CheckEnv) (k : Nat) : Refused :=
  let regs := e.i.regions
  let x := nth { tile := 0, bank := 0, slot := 0, off := 0, len := 0 } regs k
  let same := (regs.take k).filter (fun y => decide (y.tile = x.tile) && decide (y.bank = x.bank))
  firstBroken [
    (decide (x.tile < coreCount) && s.inStriped e (x.tile * slotSize) x.len, 0x0305, x.tile),
    (!allZeros (e.i.bytes 9) (32 * (e.i.regionBase + k) + 8) 24 || decide (coreCount ≤ x.tile) || decide (24 ≤ x.bank)
      || decide (6 ≤ x.slot) || decide (x.len = 0) || decide (65536 < x.off + x.len)
      || s.tileFenced x.tile || s.bankFenced x.tile x.bank
      || same.any (fun y => decide (y.slot = x.slot) || meets x.off x.len y.off y.len), 0x0310, x.tile)]

/-- Bytes of a group (Table 9.1). -/
def PoolRec.groupSize (p : PoolRec) : Nat := p.streams * 16384

/-- Memory an area of a pool may not meet: areas, save areas, result buffers, result regions, lane blocks, page tables. -/
def Image.otherMemory (i : Image) : List (Nat × Nat) :=
  i.areas ++ i.saves ++ i.pairs.flatMap (fun p => [(p.even, p.length), (p.odd, p.length)])
    ++ i.regions.map (fun x => (x.tile * slotSize + x.bank * bankData + 32 * x.off, 32 * x.len))
    ++ i.pools.flatMap (fun p => [(p.laneBlock, 1024), (p.ptBase, p.ptLen)])

/-- A span lies in one tile of a region, free of holes and fences. -/
def State.inRegion (s : State) (r a n : Nat) : Bool :=
  decide (regionOf (tileOf a) = r) && decide (tileOf a < coreCount) && decide (a % slotSize + n ≤ tileData)
    && !s.tileFenced (tileOf a) && (s.spanTile a n).isNone

/-- One pool (Table 9.8), its three records in turn, each in ascending order of code (R244). The first record has its
fields and the lane block, the second the tiles and the rest of the page-table area. -/
def State.poolBad (s : State) (e : CheckEnv) (k : Nat) : Refused :=
  let i := e.i
  let p := i.pool k
  let before := (List.range k).map i.pool
  let b := i.bytes 0x0A
  let size := p.groups * p.groupSize
  let lanesOf := fun (q : PoolRec) => (q.laneBase, q.lanes)
  let form := decide (512 ≤ p.region) || decide (p.tileCount = 0) || decide (24 < p.tileCount) || decide (p.streams = 0)
    || decide (64 < p.streams) || decide (p.lanes = 0) || decide (16 < p.lanes) || decide (512 ≤ p.laneBase)
    || decide (p.off % 0x100000 ≠ 0) || decide (p.groups = 0) || decide (4096 < p.groups) || decide (p.maxPages = 0)
    || decide (16383 < p.maxPages)
  let area (t : Nat) : Nat := nth 0 (coresOf p.region) t * slotSize + p.off
  let maxLanes := if i.hasService then i.serviceLe 0 2 else 512
  firstBroken [
    (form || decide (tileData < p.off + size) || before.any (fun q => decide (q.region = p.region)), 0x0340, p.region),
    (!s.inRegion p.region p.laneBlock 1024, 0x0342, p.region),
    (decide (maxLanes < p.laneBase + p.lanes)
      || before.any (fun q => decide (lanesOf q ≠ lanesOf p) && meets p.laneBase p.lanes q.laneBase q.lanes), 0x0344, p.region),
    (before.any (fun q => decide (lanesOf q = lanesOf p) && decide (q.maxPages ≠ p.maxPages)), 0x0345, p.region),
    (!(decide (p.pageFmt = 4) || decide (p.pageFmt = 5)), 0x0801, p.region),
    (!allZeros b (96 * k + 40 + p.tileCount) (24 - p.tileCount)
      || p.tiles.any (fun t => decide (24 ≤ t) || s.tileFenced (nth 0 (coresOf p.region) t) || (s.spanTile (area t) size).isSome),
      0x0340, p.region),
    (p.tiles.any (fun t => i.otherMemory.any (fun m => meets (area t) size m.1 m.2)), 0x0341, p.region),
    (!s.inRegion p.region p.ptBase p.ptLen, 0x0342, p.region),
    (!allZeros b (96 * k + 64) 32, 0x0340, p.region)]

/-- A bank-unit list of a role lies in a striped window (R161). -/
def State.listStriped (s : State) (e : CheckEnv) (r : Nat) : Bool :=
  let core := (s.checkBinding e r).core
  (e.i.table r).any (fun d => decide (kindOf d.1 = 8) && s.inStriped e (core * slotSize) 1)

/-- 0x0301 to 0x0306, 0x0310, 0x0340 to 0x0345, 0x0801. -/
def State.step3 (s : State) (e : CheckEnv) (ty : Nat) : Refused :=
  match ty with
  | 1 => perRecord e.i.roles (fun r =>
      let b := s.checkBinding e r
      if s.saveBad e b.core b.save b.swapLen then some (0x0306, r) else none)
  | 2 => perRecord e.i.roles (fun r => if s.listStriped e r then some (0x0305, r) else none)
  | 6 => perRecord (e.i.records 6) (s.areaBad e)
  | 9 => perRecord e.i.regions.length (s.regionBad e)
  | 0x0A => perRecord (e.i.records 0x0A / 3) (s.poolBad e)
  | 0x0E => perRecord (e.i.records 0x0E) (fun k =>
      let sp := e.i.spare k
      if s.saveBad e sp.core sp.save (sp.covers.foldl (fun m r => max m (e.i.role r).swapLen) 0) then some (0x0306, sp.core) else none)
  | _ => none

/-! ## Step 4: frame program and routes -/

/-- Slat table and allowance (R35, R37). -/
def slatsBad (i : Image) : Bool :=
  let n := i.slats
  decide (n = 0) || decide (16 < n) || decide ((i.slat 0).1 ≠ 0) || decide (i.frameLe 0 4 ≤ (i.slat (n - 1)).1)
    || (List.range (n - 1)).any (fun k => decide ((i.slat (k + 1)).1 ≤ (i.slat k).1)) || decide (100 < i.frameLe 12 1)

/-- Templates, cycle and reserved bytes (Table 11.16). -/
def templatesBad (i : Image) : Bool :=
  let b := i.bytes 3
  let t := i.frameLe 14 1
  let c := i.frameLe 15 1
  decide (t = 0) || decide (4 < t) || decide (c = 0) || decide (16 < c)
    || (List.range c).any (fun k => decide (t ≤ i.frameLe (16 + k) 1)) || !allZeros b (16 + c) (16 - c)
    || (List.range t).any (fun k => decide (1 < i.frameLe (32 + 16 * k) 1) || !allZeros b (33 + 16 * k) 3 || !allZeros b (40 + 16 * k) 8)
    || !allZeros b (32 + 16 * t) (64 - 16 * t) || (List.range i.slats).any (fun k => !allZeros b (101 + 8 * k) 3)
    || !allZeros b (96 + 8 * i.slats) (128 - 8 * i.slats) || !allZeros b 224 32

/-- The first role with an entry point outside its table. -/
def entryBad (i : Image) : Option Nat :=
  (List.range i.roles).find? (fun r =>
    (List.range (min 4 (i.frameLe 14 1))).any (fun t =>
      decide (nth 0 (i.role r).entry t ≠ 0xFFFF) && decide ((i.role r).len ≤ nth 0 (i.role r).entry t)))

/-- The FRAME record in the order R244 gives. -/
def State.frameBad (s : State) (e : CheckEnv) : Refused :=
  let i := e.i
  let p := i.frameLe 0 4
  let lead := i.frameLe 4 4
  let undeclared := (List.range (i.frameLe 14 1)).any (fun t =>
    (List.range 32).any (fun k => bit (i.pairMask t) k && !i.pairs.any (fun x => decide (x.pair = k))))
  firstBroken [
    (decide (p < 1000) || decide (67108864 < p), 0x0131, 0),
    (decide (lead < 100) || decide (p < lead + 128), 0x0132, 0),
    (slatsBad i, 0x0130, 0),
    (templatesBad i, 0x0137, 0),
    ((entryBad i).isSome, 0x0137, (entryBad i).getD 0),
    (undeclared, 0x0138, 0),
    (decide (s.frm.startReg ≠ 0) && decide (s.frm.startReg < e.accepted + 5000000 + 10000), 0x0133, 0)]

/-- One RESULTS record. -/
def resultBad (i : Image) (k : Nat) : Bool :=
  let b := i.bytes 7
  let n := i.recLe 7 0 0 1
  let roles := i.recLe 7 0 4 4
  if k = 0 then decide (n = 0) || decide (32 < n) || !allZeros b 1 3 || !allZeros b 8 24
  else if k ≤ n then
    let f := i.recLe 7 k
    decide (31 < f 0 1) || (List.range (k - 1)).any (fun j => decide (i.recLe 7 (1 + j) 0 1 = f 0 1)) || !allZeros b (32 * k + 1) 3
      || decide (f 4 4 % 32 ≠ 0) || decide (roles < f 24 4 + f 28 4)
      || (List.range (f 28 4)).any (fun j => decide (i.roles ≤ leAt b (32 * (1 + n) + 4 * (f 24 4 + j)) 4))
  else
    let first := 8 * (k - 1 - n)
    (List.range 8).any (fun j => decide (roles ≤ first + j) && decide (i.recLe 7 k (4 * j) 4 ≠ 0))

/-- 0x0130 to 0x0133, 0x0137, 0x0138, 0x0150, 0x0151. -/
def State.step4 (s : State) (e : CheckEnv) (ty : Nat) : Refused :=
  match ty with
  | 3 => s.frameBad e
  | 7 => perRecord (e.i.records 7) (fun k => if resultBad e.i k then some (0x0138, k) else none)
  | 8 =>
    let via := e.i.recLe 8 0 2 1
    firstBroken [(decide (16 ≤ via) || !allZeros (e.i.bytes 8) 3 29, 0x0150, 0),
      (decide (via = 6) || decide (via = 9), 0x0151, 0)]
  | _ => none

/-! ## Step 5: descriptors -/

/-- A micro-program word with a reserved op or a target outside the loaded words (R167). -/
def microBad (i : Image) (w : Nat) : Bool :=
  let op := field w 27 5
  decide (op = 0) || decide (0x0B < op) || ([1, 5, 6, 9, 0x0B].contains op && !i.wordLoaded (w % 256))

/-- One record of the micro-program part of BANKPROG. -/
def wordsBad (i : Image) (k : Nat) : Bool :=
  let b := i.bytes 9
  let (first, ws) := i.bankWords
  if k = 0 then decide (first < 32) || decide (255 < first) || decide (224 < ws.length) || decide (256 < first + ws.length) || !allZeros b 8 24
  else (List.range 8).any (fun j =>
    let n := 8 * (k - 1) + j
    if n < ws.length then microBad i (nth 0 ws n) else decide (i.recLe 9 k (4 * j) 4 ≠ 0))

/-- 0x0140 to 0x0145, 0x0204, 0x0302, 0x0311 to 0x0313, 0x0343, 0x0802 to 0x0807. -/
def State.step5 (s : State) (e : CheckEnv) (ty : Nat) : Refused :=
  match ty with
  | 2 => perRecord e.i.roles (fun r =>
      let core := (s.checkBinding e r).core
      let t := e.i.table r
      ((List.range t.length).findSome? (s.descBad e core t)).map (fun c => (c, r)))
  | 9 => perRecord e.i.regionBase (fun k => if wordsBad e.i k then some (0x0312, k) else none)
  | _ => none

/-! ## Step 6: links -/

/-- R282: the path bound of the declared group. -/
def CheckEnv.pathBound (e : CheckEnv) : Nat := 600 + 535 * (e.hops - 1) + 5 * e.fibre + (e.i.recLe 0x0B 0 4 4 - 1)

/-- The link record of link `l`. -/
def State.linkBad (s : State) (i : Image) (l : Nat) : Refused :=
  let f := i.recLe 0x0B (1 + l)
  let b := i.bytes 0x0B
  let x := s.linkOf l
  let trained := decide (x.state = .up) || decide (x.state = .wrongNeighbour)
  let required := decide (f 0 1 = 1)
  let width := f 1 1
  firstBroken [
    (required && (!trained || decide (x.width < width)), 0x0401, l),
    (trained && (!x.neighbourKnown || (decide (f 2 1 = 0) && decide (x.neighbour ≠ f 4 2))), 0x0402, l),
    (decide (1 < f 0 1) || decide (1 < f 2 1) || (if required then ! [4, 8, 16].contains width else decide (width ≠ 0))
      || !allZeros b (32 * (1 + l) + 3) 1 || !allZeros b (32 * (1 + l) + 6) 26, 0x0403, l)]

/-- 0x0401 to 0x0405, and 0x0132 against the path bound. -/
def State.step6 (s : State) (e : CheckEnv) (ty : Nat) : Refused :=
  if ty ≠ 0x0B then none
  else
    let i := e.i
    let b := i.bytes 0x0B
    let members := i.recLe 0x0B 0 4 4
    let head := firstBroken [
      (!s.lnk.assigned || decide (s.lnk.id ≠ i.recLe 0x0B 0 0 2) || decide (65536 < members) || !allZeros b 2 2 || !allZeros b 8 24
        || (decide (members ≠ 0) && !i.memberIds.contains (i.recLe 0x0B 0 0 2)), 0x0403, 0),
      (decide (members ≠ 0) && !s.lnk.locked, 0x0404, 0)]
    match head with
    | some x => some x
    | none => match perRecord 32 (s.linkBad i) with
      | some x => some x
      | none => firstBroken [
        (!allZeros b (32 * 33 + 2 * members) (32 * ((members + 15) / 16) - 2 * members), 0x0403, 32 + (members + 15) / 16),
        (decide (members ≠ 0) && decide (i.frameLe 8 4 < e.pathBound + 200), 0x0405, 0),
        (decide (members ≠ 0) && decide (i.frameLe 4 4 < e.pathBound), 0x0132, 0)]

/-! ## Step 7: power and thermal -/

/-- A region of a LOUVRES map is hot. -/
def Image.mapHot (i : Image) (j r : Nat) : Bool := bit (leAt (i.bytes 4) (32 * (3 * j + 1) + r / 8) 1) (r % 8)

/-- One pattern: its first record has the ID, the others the map. -/
def louvreBad (i : Image) (j : Nat) : Refused :=
  let id := i.recLe 4 (3 * j) 0 2
  let pair := (List.range 512).find? (fun r => decide (layerOf r < 3) && i.mapHot j r && i.mapHot j (r + 32))
  firstBroken [
    (decide (id < 2) || decide (255 < id) || (List.range j).any (fun k => decide (i.recLe 4 (3 * k) 0 2 = id))
      || !allZeros (i.bytes 4) (32 * 3 * j + 2) 30, 0x0502, 3 * j),
    (pair.isSome, 0x0501, pair.getD 0)]

/-- The 1 s cap in force (R348): before any frame runs, the cap as last written under the 800 W limit of R327. -/
def State.capInForce (s : State) : Nat :=
  if s.pwr.force1 ≠ 0 then s.pwr.force1 else if s.sup.capLimited then min 800 s.pwr.cap1 else s.pwr.cap1

/-- One level. -/
def State.levelBad (s : State) (i : Image) (v : Nat) : Refused :=
  let f := i.recLe 5 v
  let lanes := if i.hasService then i.serviceLe 0 2 else 512
  firstBroken [
    (decide (8 ≤ v) || decide (f 2 1 < 4) || decide (8 < f 2 1) || decide (lanes < f 0 2)
      || (decide (0 < v) && decide (i.recLe 5 (v - 1) 4 4 < f 4 4)) || !allZeros (i.bytes 5) (32 * v + 3) 1
      || !allZeros (i.bytes 5) (32 * v + 8) 24, 0x0503, v),
    (decide (v + 1 = i.records 5) && decide (s.capInForce < f 4 4), 0x0504, v)]

/-- 0x0501 to 0x0505. -/
def State.step7 (s : State) (e : CheckEnv) (ty : Nat) : Refused :=
  let i := e.i
  match ty with
  | 3 =>
    if (List.range i.slats).any (fun k => decide (1 < (i.slat k).2) &&
      !(List.range (i.records 4 / 3)).any (fun j => decide (i.recLe 4 (3 * j) 0 2 = (i.slat k).2))) then some (0x0502, 0)
    else none
  | 4 => perRecord (i.records 4 / 3) (louvreBad i)
  | 5 => if i.records 5 = 0 then some (0x0503, 0) else perRecord (i.records 5) (s.levelBad i)
  | 0x0C => perRecord (i.records 0x0C) (fun k =>
      let f := i.recLe 0x0C k
      if i.frameLe 14 1 ≤ f 0 1 || i.slats ≤ f 1 1 || 7 < f 2 1 || !allZeros (i.bytes 0x0C) (32 * k + 3) 29 then some (0x0505, k) else none)
  | _ => none

/-! ## Step 8: service -/

/-- A span lies in a declared result buffer. -/
def Image.inBuffer (i : Image) (a n : Nat) : Bool :=
  i.pairs.any (fun p => (decide (p.even ≤ a) && decide (a + n ≤ p.even + p.length)) || (decide (p.odd ≤ a) && decide (a + n ≤ p.odd + p.length)))

/-- The first two records of SERVICE. -/
def State.serviceBad (s : State) (i : Image) : Refused :=
  let f := i.serviceLe
  let lanes := f 0 2
  let settle := 2000 + (lanes * (1 + f 5 1) + 7) / 8 * 400
  let lock := if (List.range (i.frameLe 14 1)).any (fun t => i.lockstep t) then i.frameLe 8 4 else 0
  let areas := [(f 16 8, 18496 * lanes), (f 24 8, 18496 * lanes), (f 32 8, 256 * lanes), (f 40 8, 256 * lanes)]
  firstBroken [
    (decide (i.frameLe 0 4 < settle + 4000 + 40 * lanes + lock + i.frameLe 4 4) || decide (i.frameLe 4 4 < 1200), 0x0711, 0),
    (areas.any (fun x => !i.inBuffer x.1 x.2 || (s.spanTile x.1 x.2).isSome), 0x0712, 0),
    (decide (lanes = 0) || decide (512 < lanes) || decide (f 2 2 = 0) || decide (16384 < f 2 2) || decide (f 4 1 = 0) || decide (64 < f 4 1)
      || decide (8 < f 5 1) || decide (f 4 1 ≤ f 5 1) || decide (f 6 1 = 0) || !allZeros (i.bytes 0x0D) 7 1 || decide (64 < f 14 1)
      || decide (64 < f 15 1) || !allZeros (i.bytes 0x0D) 48 16, 0x0713, 0),
    (decide (f 8 4 = 0), 0x0714, 0)]

/-- The list of pool sets. -/
def setListBad (i : Image) (k : Nat) : Refused :=
  let n := i.serviceLe 12 2
  let entry := fun j => leAt (i.bytes 0x0D) (64 + 32 * k + 2 * j) 2
  firstBroken [
    ((List.range 16).any (fun j => decide (n ≤ 16 * k + j) && decide (entry j ≠ 0)), 0x0713, 2 + k),
    ((List.range 16).any (fun j => decide (16 * k + j < n) && decide (i.setBases.length ≤ entry j)), 0x0715, 2 + k)]

/-- Penalty table `j`: more than 1,024 entries, reserved bytes or unused entries. -/
def penaltyBad (i : Image) (j : Nat) : Refused :=
  let b := i.bytes 0x0D
  let a := i.penaltyAt j
  let n := leAt b a 4
  if 1024 < n || !allZeros b (a + 4) 28 || !allZeros b (a + 32 + 8 * n) (32 * ((n + 3) / 4) - 8 * n) then some (0x0714, a / 32) else none

/-- 0x0711 to 0x0715. -/
def State.step8 (s : State) (e : CheckEnv) (ty : Nat) : Refused :=
  if ty ≠ 0x0D then none
  else match s.serviceBad e.i with
    | some x => some x
    | none => match perRecord ((e.i.serviceLe 12 2 + 15) / 16) (setListBad e.i) with
      | some x => some x
      | none => perRecord (e.i.serviceLe 14 1) (penaltyBad e.i)

/-! ## The whole check -/

/-- One step over the sections in section-table order: section index, code, detail. -/
def overSections (i : Image) (step : Nat → Refused) : Option (Nat × Nat × Nat) :=
  i.sections.zipIdx.findSome? (fun e => (step e.1.ty).map (fun x => (e.2, x.1, x.2)))

/-- R244: steps 1 to 8; the first failure. -/
def State.checkImage (s : State) (e : CheckEnv) : Option (Nat × Nat × Nat) :=
  [s.step1 e, s.step2 e, s.step3 e, s.step4 e, s.step5 e, s.step6 e, s.step7 e, s.step8 e].findSome? (overSections e.i)

end Sys2Proof.Machine
end

