-- ==== Sys2Proof/Machine/Planner.lean ====
section
/-! DEFINITION. The planner (chapters 2, 14, 16): budget, forecasts, the choice of a plan, and each region's point. What
the estimator and the recorded activity say comes with the command (`Forecast`). -/
namespace Sys2Proof.Machine

/-! ## Budget (R327, R348, R349) -/

/-- Energy of the newest `span` tc of a window in W·tc: whole samples of 1 ms, and the rest of the span at the next
older sample (log 42). -/
def windowEnergy (samples : List Nat) (span : Nat) : Nat :=
  (samples.take (span / tcMs)).sum * tcMs + nth 0 samples (span / tcMs) * (span % tcMs)

/-- Room_W in mW (R349): window length, cap, samples, forecast W until the frame's end, time left, next period. -/
def roomOf (window cap : Nat) (samples : List Nat) (rest left period : Nat) : Nat :=
  let e := windowEnergy samples (window - period - left) + rest * left
  (((cap * window : Nat) : Int) - e).toNat * 1000 / max 1 period

/-- The budget of a frame of period `period` that starts `left` tc from now, in mW. -/
def State.budgetOf (s : State) (rest left period : Nat) : Nat :=
  let r1 := roomOf tcSec s.pwr.next1 s.pwr.samples1 rest left period
  let r8 := roomOf (8 * tcSec) s.pwr.next8 s.pwr.samples8 rest left period
  min (min r1 r8) (if s.sup.capLimited then 800000 else 1600000)

/-- R327: a cap under the limit that a failed stage-one converter brings. -/
def State.underLimit (s : State) (cap : Nat) : Nat := if s.sup.capLimited then min 800 cap else cap

/-- R349: past samples above a lower cap count as the cap. -/
def clipSamples (force next : Nat) (l : List Nat) : List Nat := if next < force then l.map (min next) else l

/-- R348, R351: the caps of the next frame are fixed, past energy is clipped, and a trimmed k takes effect. -/
def fixCaps (s : State) : State :=
  let n1 := s.underLimit s.pwr.cap1
  let n8 := s.underLimit s.pwr.cap8
  { s with pwr := { s.pwr with
      next1 := n1, next8 := n8, k := s.pwr.kNext
      samples1 := clipSamples s.pwr.force1 n1 s.pwr.samples1, samples8 := clipSamples s.pwr.force8 n8 s.pwr.samples8 } }

/-! ## Forecasts (R352, R353) -/

/-- Regions that hold a role with work in a template. -/
def State.activeRegions (s : State) (i : Image) (t : Nat) : List Nat :=
  ((List.range i.roles).filter (fun r => decide (nth 0xFFFF (i.role r).entry t ≠ 0xFFFF))).foldl (fun l r =>
    match s.bindingOf r with
    | some b => insertRising (regionOf b.core) l
    | none => l) []

/-- What the choice of a plan looks at: the image, the forecast, the regions with power, the frame's period. -/
structure Scene where
  i : Image
  f : Forecast
  act : List Nat
  period : Nat
  deriving DecidableEq, Repr

/-- The region is powered in the planned frame (R339, R352). -/
def State.lit (s : State) (c : Scene) (r : Nat) : Bool := c.act.contains r && !s.dark r

/-- P_fc of a region in mW (R352); a duty-limited region is forecast at that duty. -/
def State.regionPower (s : State) (c : Scene) (v d r : Nat) : Nat :=
  let table := if (s.groupOf r).dutyLimited then c.f.duty else c.f.power
  if s.lit c r then mapGet 0 table ((v * 16 + d) * 512 + r) * s.pwr.k / 4096 else 0

/-- Power of a region demoted to cool for the frame. -/
def State.demotedPower (s : State) (c : Scene) (r : Nat) : Nat :=
  if s.lit c r then mapGet 0 c.f.demoted r * s.pwr.k / 4096 else 0

/-- T_ss of a region (R352). -/
def State.steadyTemp (s : State) (c : Scene) (v d r : Nat) : Nat :=
  s.boundTemp r + mapGet 0 s.fuses.theta r * s.regionPower c v d r / 2000

/-- Twice T_mem_ss of footprint `m` (R352), from the T_ss of the regions. -/
def State.steadyMem2 (s : State) (t : Nat → Nat) (m : Nat) : Int :=
  let d (r : Nat) : Int := (t r : Int) - s.regionTemp r
  if layerOf m = 3 then 2 * s.memTemp m + 2 * d m else 2 * s.memTemp m + d m + d (m + 32)

/-- R352: a region passes under divisors `ds` (others at `base`). -/
def State.passes (s : State) (c : Scene) (v base : Nat) (ds : SMap Nat) (r : Nat) : Bool :=
  let t (q : Nat) : Nat := s.steadyTemp c v (mapGet base ds q) q
  decide (t r ≤ 1520) && decide (s.steadyMem2 t r ≤ 2880) && (decide (layerOf r = 0) || decide (s.steadyMem2 t (r - 32) ≤ 2880))
    && (!s.fuses.sentinels.contains (columnOf r) || decide (mapGet 0 c.f.predict ((v * 16 + mapGet base ds r) * 512 + r) ≤ 1520))

/-! ## Points (R37, R39, R319 to R322) -/

/-- R320: frequency changes use the stop. -/
def State.stopMode (s : State) : Bool := decide (64 < s.frm.members)

/-- R37, R39, R321: slat 0 of a frame, whose critical path takes `path` cycles, has the slack that a change between two
points needs: none in a glide, n × 1,000 tc in a stop. Both sides are scaled by 4,000 × the lower point's divisor. -/
def State.slackOk (s : State) (i : Image) (period path old new : Nat) : Bool :=
  let d := max 1 (max old new)
  let len := if 1 < i.slats then (i.slat 1).1 else period
  let n := if old < new then new - old else old - new
  let stop := if s.stopMode then (n * 2800 + d - 1) / d else 0
  decide ((path + stop) * (4000 * d) ≤ (len - 128) * 28 * (400 - i.frameLe 12 1)) && (!s.stopMode || decide (n ≤ 3))

/-- R39, R319 to R321: the point a region takes at a boundary whose plan gives it `t`. In a stop it moves at most three
steps at a time, and without the slack for the change it keeps its point. The point it has is where its steps end, also
while it still takes them (log 82). -/
def State.takenPoint (s : State) (i : Image) (period path r t : Nat) : Nat :=
  let p := (s.clkOf r).target
  let t := if !s.stopMode then t else if p + 3 < t then p + 3 else if t + 3 < p then p - 3 else t
  if t = p || s.slackOk i period path p t then t else p

/-- The point a region would change from; a region without clocks of its own has none to change from (R318). -/
def State.pointFrom (s : State) (r d : Nat) : Nat := if (s.clkOf r).source = 0 then (s.clkOf r).target else d

/-- Divisor of a ladder level. -/
def Image.divisor (i : Image) (v : Nat) : Nat := (i.level v).2.1

/-- R354: a region's divisor is raised while it does not pass and slack allows. -/
def raiseRegion (s : State) (c : Scene) (v base r : Nat) : Nat → SMap Nat → SMap Nat
  | 0, ds => ds
  | n + 1, ds =>
    let d := mapGet base ds r
    if s.passes c v base ds r || 8 ≤ d || !s.slackOk c.i c.period (mapGet 0 c.f.path (v * 512 + r)) (s.pointFrom r (d + 1)) (d + 1) then ds
    else raiseRegion s c v base r n (mapSet base ds r (d + 1))

/-- R354, R355: the divisors d(r) of a level. -/
def State.divisorsOf (s : State) (c : Scene) (v base : Nat) : SMap Nat :=
  let mesh := (List.range regionCount).foldl (fun ds r => if (s.clkOf r).source = 1 then mapSet base ds r 8 else ds) []
  (List.range regionCount).foldl (fun ds r => if (s.clkOf r).source = 1 then ds else raiseRegion s c v base r 4 ds) mesh

/-- Compute power of a plan in mW. -/
def State.planPower (s : State) (c : Scene) (v base : Nat) (ds : SMap Nat) (demote : List Nat) : Nat :=
  ((List.range regionCount).map (fun r =>
    if demote.contains r then s.demotedPower c r else s.regionPower c v (mapGet base ds r) r)).sum

/-! ## Choosing (R354) -/

/-- A plan being chosen: the level, its divisors, its demotions and what lower levels failed on. -/
structure Choice where
  own : Nat := 7
  base : Nat := 8
  divs : SMap Nat := []
  demote : List Nat := []
  thermal : Bool := false
  budget : Bool := false
  limit : Bool := false
  found : Bool := false
  deriving DecidableEq, Repr

/-- One level of the loop. What a level failed on is noted for the levels below the one chosen, so not for level 7
(Table 16.9). -/
def State.tryLevel (s : State) (c : Scene) (budget v : Nat) (a : Choice) : Choice :=
  if a.found then a
  else if c.i.divisor v < s.clk.limit then { a with limit := a.limit || decide (v < 7) }
  else
    let base := c.i.divisor v
    let ds := s.divisorsOf c v base
    let cool := (List.range regionCount).all (s.passes c v base ds)
    let fits := decide (c.f.fixed * 1000 + s.planPower c v base ds [] ≤ budget)
    if cool && fits then { a with own := v, base := base, divs := ds, found := true }
    else { a with thermal := a.thermal || (!cool && decide (v < 7)), budget := a.budget || (!fits && decide (v < 7)) }

/-- The undemoted region with the highest P_fc, the lowest number among equals. -/
def State.hottest (s : State) (c : Scene) (base : Nat) (ds : SMap Nat) (demote : List Nat) : Option Nat :=
  ((List.range regionCount).filter (fun r => !demote.contains r)).foldl (fun (best : Option Nat) r =>
    match best with
    | none => some r
    | some b => if s.regionPower c 7 (mapGet base ds b) b < s.regionPower c 7 (mapGet base ds r) r then some r else some b) none

/-- Demotions until the plan fits the budget. -/
def demoteUntil (s : State) (c : Scene) (budget base : Nat) (ds : SMap Nat) : Nat → List Nat → List Nat
  | 0, demote => demote
  | n + 1, demote =>
    if c.f.fixed * 1000 + s.planPower c 7 base ds demote ≤ budget then demote
    else match s.hottest c base ds demote with
      | none => demote
      | some r => demoteUntil s c budget base ds n (insertRising r demote)

/-- R354, R322: the choice. -/
def State.choose (s : State) (c : Scene) (budget : Nat) : Choice :=
  let a := (List.range 8).foldl (fun a v => s.tryLevel c budget v a) {}
  if a.found then a
  else
    let base := max (c.i.divisor 7) s.clk.limit
    let ds := s.divisorsOf c 7 base
    let hot := (List.range regionCount).filter (fun r => !s.passes c 7 base ds r)
    { a with own := 7, base := base, divs := ds, demote := demoteUntil s c budget base ds regionCount hot }

/-- Forecasts of the chosen plan as the registers show them. -/
def noteForecasts (c : Scene) (a : Choice) (s : State) : State :=
  let t (r : Nat) : Nat := s.steadyTemp c a.own (mapGet a.base a.divs r) r
  let q := s.fuses.sentinels.map (fun q =>
    ((List.range 4).map (fun l =>
      let r := q / 32 * 128 + l * 32 + q % 32
      mapGet 0 c.f.predict ((a.own * 16 + mapGet a.base a.divs r) * 512 + r))).foldl max 0)
  let regions := (List.range regionCount).map (fun r => (r, clampTo 12 (t r)))
  let mems := (List.range regionCount).map (fun r => (r, clampTo 12 ((s.steadyMem2 t r / 2).toNat)))
  let s := regions.foldl (fun s e => setPair e.1 (fun p => { p with forecast := e.2 }) s) s
  let s := mems.foldl (fun s e => setMemPair e.1 (fun p => { p with forecast := e.2 }) s) s
  { s with thm := { s.thm with predicted := q.map (clampTo 12) } }

/-- R335: a duty limit raised before a plan point governs the frame it plans. -/
def fixDuty (s : State) : State :=
  { s with sup := { s.sup with groups := mapEach group0 (fun g => { g with dutyNext := g.dutyLimited }) s.sup.groups } }

/-- R29, R349 to R354: the plan of the frame that starts at `start` with period `period` is fixed now. -/
def fixPlan (i : Image) (f : Forecast) (number start period : Nat) (s : State) : State :=
  let s := fixDuty (fixCaps s)
  let c : Scene := { i := i, f := f, act := s.activeRegions i (i.templateOf number), period := period }
  let budget := s.budgetOf f.rest (start - s.frm.tc) period
  let a := s.choose c budget
  let power := s.planPower c a.own a.base a.divs a.demote
  noteForecasts c a { s with pwr := { s.pwr with
    budget := clampTo 16 (budget / 1000), fixed := clampTo 16 f.fixed, compute := clampTo 16 (power / 1000), links := clampTo 16 f.links
    plan := {
      own := a.own, level := a.own, divisors := a.divs, demote := a.demote, raised := (a.divs.filter (fun e => decide (a.base < e.2))).length
      demoted := a.demote.length, thermal := a.thermal, budget := a.budget, limit := a.limit, votes := false, limitDiv := s.clk.limit } } }

/-- R322, R355: a region's divisor in a frame of a plan that runs at its final level. -/
def Plan.pointOf (p : Plan) (i : Image) (r : Nat) : Nat :=
  max (mapGet (max (i.divisor p.own) p.limitDiv) p.divisors r) (max (i.divisor p.level) p.limitDiv)

end Sys2Proof.Machine
end

