-- ==== Sys2Proof/Machine/Frame.lean ====
section
/-! DEFINITION. The frame cycle (chapter 2): entry, slats, context switches, plan point and end, spare roles and
suspension by rule (chapter 11), shutters (chapter 15), period and limit changes. -/
namespace Sys2Proof.Machine

/-! ## Lost roles and spares (R249, R250) -/

/-- R249: a role's core, or a pane that its MATMULs name, is fenced. -/
def State.roleLost (s : State) (i : Image) (r : Nat) : Bool :=
  match s.bindingOf r with
  | none => false
  | some b =>
    let f := s.fence b.core
    f.core || ((f.pane0 || f.pane1) && (i.table r).any (fun d => decide (kindOf d.1 = 5) && s.paneFenced b.core (field d.1 31 1)))

/-- Lost roles in rising order. -/
def State.lostRoles (s : State) (i : Image) : List Nat := (List.range i.roles).filter (s.roleLost i)

/-- Other roles whose context stands on a core now. -/
def State.rolesOn (s : State) (i : Image) (n r : Nat) : List Nat :=
  (List.range i.roles).filter (fun q => decide (q ≠ r) && decide ((s.bindingOf q).map (fun b => b.core) = some n))

/-- R249: the first spare record that can take a role, beside the roles that stand on its core now. -/
def State.spareFor (s : State) (i : Image) (r : Nat) : Option Nat :=
  (List.range (i.records 0x0E)).find? (fun k =>
    let sp := i.spare k
    sp.covers.contains r && !mapGet false s.dev.spareUsed k && !s.coreFenced sp.core && !s.spareCannot i sp (s.rolesOn i sp.core r) r)

/-- A role is bound to a spare record. -/
def bindSpare (i : Image) (r k : Nat) (s : State) : State :=
  let old := (s.bindingOf r).map (fun b => (b.core, b.slot))
  let sp := i.spare k
  let s := match old with
    | some (n, j) => setCtx n j (fun _ => ctx0) s
    | none => s
  let s := setCtx sp.core sp.slot (fun _ => { ctx0 with role1 := r + 1, frame := s.frm.ended.number }) s
  let s := { s with dev := { s.dev with
    rebinds := mapSet 0 s.dev.rebinds r (k + 1), spareUsed := mapSet false s.dev.spareUsed k true, lastRole := r } }
  raise 0x0011 1 sp.core [r, (old.map (fun b => b.1)).getD 0] s

/-- R249: every lost role that a spare can take is bound to it, in rising order. -/
def rebindLost (i : Image) (s : State) : State :=
  (s.lostRoles i).foldl (fun s r => match s.spareFor i r with | some k => bindSpare i r k s | none => s) s

/-- Spans of memory whose fence suspends the image: areas, pools with their lane blocks and page tables, and save areas,
those of spare records among them (log 40). -/
def Image.imageSpans (i : Image) : List (Nat × Nat) :=
  i.areas
    ++ i.pools.flatMap (fun p => [(p.laneBlock, 1024), (p.ptBase, p.ptLen)]
        ++ (List.range p.tileCount).map (fun t => (p.tile t * slotSize + p.off, p.groups * p.groupSize)))
    ++ i.saves

/-- A fenced tile (kind 3) or bank (kind 4) holds a part of a span. -/
def fenceMeets (f : Nat × Nat × Nat) (x : Nat × Nat) : Bool :=
  match f.1 with
  | 3 => meets (f.2.1 * slotSize) tileData x.1 x.2
  | 4 => meets (f.2.1 * slotSize + f.2.2 * bankData) bankData x.1 x.2
  | _ => false

/-- R250: the first role or tile that suspends the device at the end of this frame: a lost role, once the rebindings that
can be made have been made, or a tile fenced in this frame, whole or in a bank, that holds image memory. -/
def State.unserved (s : State) (i : Image) : Option Nat :=
  match (s.lostRoles i).head? with
  | some r => some r
  | none => (s.frm.fencedNow.find? (fun f => i.imageSpans.any (fenceMeets f))).map (fun f => f.2.1)

/-- R263: required links that were lost. -/
def State.lostLinks (s : State) : List Nat := (List.range 32).filter (fun l => (s.linkOf l).lost)

/-! ## Shutters (R339, R340) -/

/-- Neighbours of a group in its row: the groups at the positions on either side (R340). -/
def groupNeighbours (r : Nat) : List Nat :=
  let p := 4 * (r % 8) + layerOf r
  let at_ (q : Nat) : Nat := r / 128 * 128 + q % 4 * 32 + r % 32 / 8 * 8 + q / 4
  (if p = 0 then [] else [at_ (p - 1)]) ++ (if p = 31 then [] else [at_ (p + 1)])

/-- Table 15.4: current limit of a group, in 10 mA. -/
def groupLimit (g : Group) : Nat :=
  match popcount 4 g.phasesFailed with
  | 0 => 600
  | 1 => 600
  | 2 => 400
  | _ => 0

/-- A neighbour that keeps a shutter closed: its current is above 90% of its limit. -/
def State.busyNeighbour (s : State) (r : Nat) : Option Nat :=
  (groupNeighbours r).find? (fun q => decide (groupLimit (s.groupOf q) * 9 < (s.groupOf q).current * 10))

/-- A deferral is counted, with at most one event per region and frame (no unit where the sill's eight are taken). -/
def deferOpening (r q : Nat) (s : State) : State :=
  let first := decide ((s.groupOf r).deferFrame ≠ s.frm.count + 1)
  let s := setGroup r (fun g => { g with openDeferred := satAdd 8 g.openDeferred 1, deferFrame := s.frm.count + 1 }) s
  if first then raise 0x005E 0 r [q] s else s

/-- R340: at boundary `b` the regions that wait open in rising order, at most eight on a sill. -/
def openShutters (b : Nat) (s : State) : State :=
  ((List.range regionCount).filter (fun r => (s.groupOf r).wantOpen && !s.dark r)).foldl (fun s r =>
    match s.busyNeighbour r with
    | some q => deferOpening r q s
    | none =>
      let begun := (s.sup.groups.filter (fun e => decide (e.1 / 128 = r / 128) && decide (e.2.shutter = 2) && decide (e.2.openAt = b))).length
      if 8 ≤ begun then deferOpening r noUnit s
      else setGroup r (fun g => { g with shutter := 2, wantOpen := false, openAt := b }) s) s

/-- R318: the stores of these cores are lost. -/
def clearStores (cs : List Nat) (s : State) : State :=
  { s with cores := { s.cores with store := cs.foldl (fun m n => memClear m (n * 2 ^ 20) (2 ^ 20)) s.cores.store } }

/-- R339: a region's shutter closes: its clocks stop and its core stores are lost. -/
def closeShutter (r : Nat) (s : State) : State :=
  clearStores (coresOf r)
    (setClk r (fun c => { c with source := 2, divisor := 0, target := 0 })
      (setGroup r (fun g => { g with shutter := 1, wantOpen := false, planned := 0 }) s))

/-- R339: the shutters of a frame whose template gives work to the regions `act`. -/
def setShutters (act : List Nat) (s : State) : State :=
  (List.range regionCount).foldl (fun s r =>
    let g := s.groupOf r
    if g.shutter = 3 then s
    else if !act.contains r then (if g.shutter = 1 then setGroup r (fun g => { g with wantOpen := false }) s else closeShutter r s)
    else if g.shutter = 1 then setGroup r (fun g => { g with wantOpen := true }) s
    else s) s

/-! ## Frame entry (R28) -/

/-- The present frame's divisor of a region. -/
def State.pointNow (s : State) (r : Nat) : Nat :=
  match s.inForceImage with
  | some i => s.pwr.nowPlan.pointOf i r
  | none => 4

/-- R320: a region that changes by `n` steps in a stop has its core clock stopped for n × 1,000 tc. -/
def stopClock (r n : Nat) (s : State) : State :=
  if s.stopMode then setClk r (fun c => { c with stopUntil := s.frm.frameStart + n * 1000 }) s else s

/-- R319 to R321, R330: a region takes its point at the start of a frame whose slat 0 takes it `path` cycles. Where it
keeps its point, a set-point that the plan point raised goes back. -/
def enterPoint (i : Image) (path r : Nat) (s : State) : State :=
  let c := s.clkOf r
  if c.source ≠ 0 || c.holding then s
  else
    let t := s.takenPoint i s.frm.period path r (s.pointNow r)
    let s := setGroup r (fun g => { g with planned := 0 }) s
    if t = c.target then (if c.divisor = t then moveSetpoint r t s else s)
    else stopClock r (if t < c.target then c.target - t else t - c.target) (changeDivisor r t s)

/-- R44, R45: the level of the next frame, and the member whose vote is missing or carries bit 3 with its flags. The
first frame after an enable has had no plan point, so no vote can be missing (log 44). -/
def State.nextLevel (s : State) : Nat × Option (Nat × Nat) :=
  let other := s.otherMembers
  let vote (m : Nat) : Vote := mapGet vote0 s.frm.votes m
  let bad := if s.frm.planned then other.find? (fun m => !(vote m).present || bit (vote m).flags 3) else none
  let top := other.foldl (fun l m => if (vote m).present then max l (vote m).level else l) s.pwr.plan.own
  (if bad.isSome then 7 else top, bad.map (fun m => (m, (vote m).flags)))

/-- R347: the demotions of a frame: their flags, counts and events. -/
def applyDemotions (s : State) : State :=
  let p := s.pwr.nowPlan
  let base (r : Nat) : Nat := match s.inForceImage with | some i => i.divisor p.level | none => r
  let sec := s.frm.tc / tcSec + 1
  (List.range regionCount).foldl (fun s r =>
    let d := p.demote.contains r
    let tell := d && decide ((s.pairOf r).demoteSec ≠ sec)
    let s := setPair r (fun q => { q with
      demoted := d, raised := decide (base r < s.pointNow r), demoteSec := if tell then sec else q.demoteSec }) s
    let s := if d then { s with thm := { s.thm with demotions := satAdd 16 s.thm.demotions 1 } } else s
    if tell then raise 0x0063 1 r [s.frm.count] s else s) s

/-- R153: slots 0 to 5 of every bank unit return to IDLE. -/
def idleSlots (s : State) : State :=
  { s with bnk := { s.bnk with units := s.bnk.units.map (fun (e : Nat × BankUnit) => (e.1, { e.2 with
      slots := e.2.slots.zipIdx.map (fun x =>
        if x.2 < 6 && decide (x.1.state ≠ 0) then { x.1 with state := 0, cause := 0, changedTc := s.frm.tc } else x.1) })) } }

/-- R28, R73, R100: the contexts of a core at a frame's start. -/
def enterCore (i : Image) (t n : Nat) (s : State) : State :=
  let k1 := (s.coreRec n).resident1
  let s := (s.contexts n).foldl (fun s k =>
    let s := if k1 = k + 1 then publishRecords n k s.frm.count s else setCtx n k (fun c => { c with publish := true }) s
    restartContext i t n k s) s
  beginSwitch n 0 s

/-- R28: the frame at `nextAt` becomes current at a level; `faulted` says that a vote for it is missing (R45). -/
def beginFrame (i : Image) (level : Nat) (faulted : Bool) (s : State) : State :=
  let period := s.nextPeriodNow
  let k := s.frm.nextNumber
  let t := i.templateOf k
  { s with
    frm := { s.frm with
      phase := .inFrame, count := k, frameStart := s.frm.nextAt, period := period
      nextArm := s.frm.nextArm && decide (s.frm.latch ≠ s.frm.nextAt), slat := 0, nextAt := s.frm.nextAt + period
      nextNumber := k + 1, planned := false, votes := []
      now := { number := k, start := s.frm.nextAt, period := period, level := level, template := t, lockstep := i.lockstep t, faulted := faulted } }
    pwr := { s.pwr with
      force1 := s.pwr.next1, force8 := s.pwr.next8
      nowPlan := { s.pwr.plan with level := level, votes := decide (s.pwr.plan.own < level) }
      plan := { s.pwr.plan with level := level, votes := decide (s.pwr.plan.own < level) } }
    evt := { s.evt with repNow := s.evt.rep }
    sup := { s.sup with groups := mapEach group0 (fun g => { g with dutyNow := g.dutyNext }) s.sup.groups } }

/-- R45: the member whose vote is missing is reported. -/
def tellMissing (bad : Option (Nat × Nat)) (s : State) : State :=
  match bad with
  | some (m, f) => raise 0x0022 2 m [f] s
  | none => s

/-- R28: what the device does in the entry interval: lost roles, links, shutters, operating points, contexts. `paths`
lists for regions the critical path of the frame's slat 0 (R39); a region that is not listed has none. -/
def enterRegions (i : Image) (paths : SMap Nat) (s : State) : State :=
  let s := rebindLost i s
  let s := (List.range 32).foldl (fun s l => addWaiting l s) s
  let s := openShutters s.frm.frameStart (setShutters (s.activeRegions i s.frm.now.template) s)
  let s := applyDemotions ((List.range regionCount).foldl (fun s r => enterPoint i (mapGet 0 paths r) r s) s)
  s.boundCores.foldl (fun s n => enterCore i s.frm.now.template n s) (idleSlots s)

/-- R197, R200: the page walkers of the image's pools take their lane blocks. -/
def openPools (i : Image) (s : State) : State := i.pools.foldl (fun s p => openWalker p.region s) s

/-- R48: a frame that is to be dropped is dropped as it begins. -/
def dropIfDue (s : State) : State :=
  if s.frm.dropNext then dropCurrent { s with frm := { s.frm with dropNext := false } } else s

/-- R227: with a higher level the lanes of the frame are written again. -/
def rewriteForLevel (i : Image) (level : Nat) (s : State) : State :=
  if (i.level level).1 < (i.level s.pwr.plan.own).1 then rewriteLanes (i.level level).1 s else s

/-- R28 for the image in force. -/
def enterFrame (i : Image) (paths : SMap Nat) (s : State) : State :=
  let v := s.nextLevel
  dropIfDue (admissionPass (damagePass (openPools i (enterRegions i paths
    (tellMissing v.2 (beginFrame i v.1 v.2.isSome (rewriteForLevel i v.1 s)))))))

end Sys2Proof.Machine
end

