-- ==== Sys2Proof/Machine/Cycle.lean ====
section
/-! DEFINITION. The commands of the frame cycle (chapter 2) and the end of the consistency check (R245). -/
namespace Sys2Proof.Machine

/-! ## FRAME_ENTRY and SHUTTER_RAMP_DONE -/

/-- R28: the next frame begins once its start has come. A device that is to suspend before it does so instead. -/
def doFrameEntry (paths : SMap Nat) (s : State) : State :=
  match s.inForceImage with
  | none => s
  | some i =>
    if s.powered && decide (s.kpr.state = .running) && decide (s.frm.phase = .waiting) && decide (s.frm.nextAt ≤ s.frm.tc) then
      (if s.dev.suspendReq then enterSuspended s else enterFrame i paths s)
    else s

/-- R28: `paths` lists regions with the recorded critical path of the frame's slat 0, in core cycles (R39, log 41). -/
def execFrameEntry (paths : SMap Nat) (s : State) : Host.Outcome State Fault Refusal :=
  .next (doFrameEntry (toMap (paths.filter (fun e => decide (e.1 < 512)))) s)

/-- R340: 4,000 tc after its boundary the shutter is open: the region's clocks start, on the mesh where its generator has
lost lock, and its entry-interval actions happen. -/
def doShutterRampDone (r : Nat) (s : State) : State :=
  let g := s.groupOf r
  if s.powered && decide (g.shutter = 2) && decide (g.openAt + 4000 ≤ s.frm.tc) then
    let s := setGroup r (fun g => { g with shutter := 0, planned := 0 }) s
    let s := if (s.clkOf r).lockLost then setClk r (fun c => { c with source := 1, divisor := 8, target := 8 }) (moveSetpoint r 8 s)
      else startClocks r (s.pointNow r) s
    match s.inForceImage with
    | none => s
    | some i =>
      if s.frm.phase = .inFrame && !s.frm.now.dropped then
        let s := (coresOf r).foldl (fun s n => (s.contexts n).foldl (fun s k => restartContext i s.frm.now.template n k s) s) s
        if (i.poolOf r).isSome then openWalker r s else s
      else s
  else s

/-- R340. -/
def execShutterRampDone (r : Nat) (s : State) : Host.Outcome State Fault Refusal :=
  onUnit (r < regionCount) (doShutterRampDone r s)

/-! ## SLAT_BOUNDARY (R35, R36, R38) -/

/-- R38, Table 2.14: one region's stretched cycles in the slat that ends: cycles of d + 1 and of d + 2 root periods. -/
def stretchLoss (j span r plus1 plus2 : Nat) (s : State) : State :=
  let loss := plus1 + 2 * plus2
  let permille := clampTo 10 ((loss * 10000 + 14 * span) / max 1 (28 * span))
  let above := decide (28 * s.frm.allowance * span < 4000 * loss)
  let s := setClk r (fun c => { c with now1 := satAdd 32 c.now1 plus1, now2 := satAdd 32 c.now2 plus2 }) s
  let s := { s with frm := { s.frm with
    stretch := mapMod stretch0 s.frm.stretch r (fun x => { x with
      nowLoss := satAdd 32 x.nowLoss loss, nowWorst := max x.nowWorst permille
      overAllow := if above then satAdd 16 x.overAllow 1 else x.overAllow, nowOver := if above then x.nowOver + 1 else x.nowOver })
    now := if above then { s.frm.now with overAllow := s.frm.now.overAllow + 1 } else s.frm.now } }
  if above then raise 0x0025 0 r [j, loss] s else s

/-- The stretches of the slat that ends at offset `till`. -/
def endSlat (till : Nat) (losses : List (Nat × Nat × Nat)) (s : State) : State :=
  let from_ := (nth (0, 0) s.frm.slats s.frm.slat).2
  losses.foldl (fun s e => stretchLoss s.frm.slat (till - from_) e.1 e.2.1 e.2.2 s) s

/-- Slat `j` is the present one. -/
def withSlat (j : Nat) (s : State) : State := { s with frm := { s.frm with slat := j } }

/-- R36, R73: contexts at a slat boundary; in a dropped frame none runs. -/
def switchContexts (j : Nat) (s : State) : State :=
  if s.frm.now.dropped then s else s.boundCores.foldl (fun s n => beginSwitch n j (cutOutgoing n j s)) s

/-- R35, R36, R73, R340: the next slat begins once its offset has come. -/
def doSlatBoundary (losses : List (Nat × Nat × Nat)) (drained : List (Nat × Nat)) (s : State) : State :=
  let j := s.frm.slat + 1
  let off := (nth (0, 0) s.frm.slats j).2
  if s.powered && decide (s.kpr.state = .running) && decide (s.frm.phase = .inFrame) && decide (j ≤ s.frm.slatsM1)
      && decide (off < s.frm.period) && decide (s.frm.frameStart + off ≤ s.frm.tc) then
    openShutters (s.frm.frameStart + off) (switchContexts j (withSlat j (endSlat off losses (drainBefore drained s))))
  else s

/-- What is listed of regions, with counts of 32 bits. -/
def narrowLosses (l : List (Nat × Nat × Nat)) : List (Nat × Nat × Nat) :=
  (l.filter (fun e => decide (e.1 < 512))).map (fun e => (e.1, e.2.1 % 2 ^ 32, e.2.2 % 2 ^ 32))

/-- R35: `losses` lists regions with the cycles of the ended slat that lasted one and two root periods longer, `drained`
panes (2 × core + pane) with the outputs their drains wrote before the boundary (R127). -/
def execSlatBoundary (losses : List (Nat × Nat × Nat)) (drained : List (Nat × Nat)) (s : State) : Host.Outcome State Fault Refusal :=
  .next (doSlatBoundary (narrowLosses losses) drained s)

/-! ## PLAN_POINT (R29, R44, R227, R270, R331) -/

/-- R323: a limit that latches where this frame ends passes into `CLK.LIMIT`. -/
def latchLimit (s : State) : State :=
  if s.clk.nextArm && decide (s.frm.latch = s.frm.nextAt) then
    { s with clk := { s.clk with limit := s.clk.nextDivisor, nextArm := false } }
  else s

/-- R330: the divisor whose set-point a region is planned to need in the next frame; 0 where it has none. -/
def State.plannedPoint (s : State) (i : Image) (act : List Nat) (path r : Nat) : Nat :=
  let c := s.clkOf r
  if !act.contains r || s.dark r then 0
  else if c.source = 0 then s.takenPoint i s.nextPeriodNow path r (s.pwr.plan.pointOf i r)
  else if c.source = 1 || c.lockLost then 8
  else s.pwr.plan.pointOf i r

/-- R330, R331: the set-points planned for the next frame are noted, and those of running regions whose frequency will
rise move now. While a region still steps, its set-point keeps what its present divisor needs. -/
def raiseSetpoints (i : Image) (f : Forecast) (s : State) : State :=
  let act := s.activeRegions i (i.templateOf s.frm.nextNumber)
  (List.range regionCount).foldl (fun s r =>
    let c := s.clkOf r
    let t := s.plannedPoint i act (mapGet 0 f.path (s.pwr.plan.own * 512 + r)) r
    let s := setGroup r (fun g => { g with planned := if t = 0 then 0 else s.setpointAt r t }) s
    if c.source = 0 && decide (0 < t) && decide (t < c.target) then moveSetpoint r (min t c.divisor) s else s) s

/-- R44, R270: the vote for the next frame goes to every other member. -/
def sendVote (s : State) : State :=
  let flags := if s.frm.voteBad then 8 else 0
  sendStatus (statusRecord s.lnk.id 1 flags s.frm.nextNumber s.pwr.plan.own s.frm.nextAt s.nextPeriodNow) s

/-- The plan point of the present frame has passed. -/
def markPlanned (s : State) : State := { s with frm := { s.frm with planned := true } }

/-- R227: where the level has fewer lanes than were filled, the lanes are written again. -/
def trimLanes (i : Image) (s : State) : State :=
  if (i.level s.pwr.plan.own).1 < s.planLanes then rewriteLanes (i.level s.pwr.plan.own).1 s else s

/-- The next frame's plan, from the limit in force. -/
def planNext (i : Image) (f : Forecast) (s : State) : State := fixPlan i f s.frm.nextNumber s.frm.nextAt s.nextPeriodNow s

/-- R29: the plan of the next frame is fixed. -/
def doPlanPoint (f : Forecast) (s : State) : State :=
  match s.inForceImage with
  | none => s
  | some i =>
    if s.powered && decide (s.kpr.state = .running) && decide (s.frm.phase = .inFrame) && !s.frm.planned
        && decide (s.frm.nextAt ≤ s.frm.tc + s.frm.planLead) then
      trimLanes i (sendVote (raiseSetpoints i f (markPlanned (planNext i f (latchLimit s)))))
    else s

/-- A forecast with its maps in canonical form. -/
def Forecast.narrow (f : Forecast) : Forecast :=
  { f with power := toMap f.power, duty := toMap f.duty, demoted := toMap f.demoted, predict := toMap f.predict, path := toMap f.path }

/-- R29. -/
def execPlanPoint (f : Forecast) (s : State) : Host.Outcome State Fault Refusal := .next (doPlanPoint f.narrow s)

/-! ## FRAME_END (R40 to R43, R250, R263) -/

/-- The counters of the frame become those of the last ended frame; those that count cycles of the network are free. -/
def shiftCounters (s : State) : State :=
  useFresh { s with
    net := { s.net with regionsLast := s.net.regions, regions := [], sillsLast := s.net.sills, sills := List.replicate 4 {}, waits := s.fresh }
    cores := { s.cores with pane := (s.cores.pane.map (fun (e : Nat × Pane) => (e.1, { e.2 with last := e.2.ctr, ctr := {} }))).filter (fun e => decide (e.2 ≠ pane0)) }
    walkers := (s.walkers.map (fun (e : Nat × Walker) => (e.1, { e.2 with last := e.2.ctr, ctr := {} }))).filter (fun e => decide (e.2 ≠ walker0))
    clk := { s.clk with
      regions := (s.clk.regions.map (fun (e : Nat × ClkRegion) => (e.1, { e.2 with plus1 := e.2.now1, plus2 := e.2.now2, now1 := 0, now2 := 0 }))).filter (fun e => decide (e.2 ≠ clkRegion0)) }
    sup := { s.sup with
      peak := s.sup.nowPeak, nowPeak := 0
      groups := (s.sup.groups.map (fun (e : Nat × Group) => (e.1, { e.2 with shuntFires := e.2.nowFires, nowFires := 0 }))).filter (fun e => decide (e.2 ≠ group0)) }
    frm := { s.frm with
      stretch := (s.frm.stretch.map (fun (e : Nat × Stretch) => (e.1, { e.2 with
        lastLoss := e.2.nowLoss, worstSlat := e.2.nowWorst, lastOver := e.2.nowOver, nowLoss := 0, nowWorst := 0, nowOver := 0 }))).filter (fun e => decide (e.2 ≠ stretch0)) } }

/-- R250, R263: the events of the rules that suspend the device. -/
def tellSuspended (i : Image) (s : State) : State :=
  let s := match s.unserved i with
    | some u => raiseFull 0x0024 1 0 u 0 [1] s
    | none => s
  s.lostLinks.foldl (fun s l => raiseFull 0x0024 1 0x0401 l 0 [2] s) s

/-- R222, R250, R251, R263: where the device suspends at this E it rebinds what it can first; the rules' events come before
the state change. The sequences that a fence has hit become DAMAGED at this boundary. -/
def suspendIfDue (i : Image) (s : State) : State :=
  let t := rebindLost i s
  let due := (t.unserved i).isSome || !t.lostLinks.isEmpty || s.dev.suspendReq
  let s := if due then enterSuspended (damagePass (tellSuspended i t)) else s
  { s with frm := { s.frm with fencedNow := [] } }

/-- R40: the work of the frame stops; a dropped frame has stopped already. -/
def stopWork (s : State) : State := if s.frm.now.dropped then stopAll s else stopFrame s

/-- The frame has ended, and the next one waits for its start. -/
def passFrame (s : State) : State := { s with frm := { s.frm with phase := .waiting, ended := s.frm.now } }

/-- R40: the frame ends once E has come. -/
def doFrameEnd (losses : List (Nat × Nat × Nat)) (drained flips : List (Nat × Nat)) (bad : List Nat) (s : State) : State :=
  match s.inForceImage with
  | none => s
  | some i =>
    if s.powered && decide (s.kpr.state = .running) && decide (s.frm.phase = .inFrame) && s.frm.planned && decide (s.frm.nextAt ≤ s.frm.tc) then
      withBadPaths bad (fun s => suspendIfDue i (endOutcome (prepareReport (shiftCounters (passFrame (stopWork
        (endSlat s.frm.period losses (drainBefore drained (flipSymbols 0 flips s)))))))) ) s
    else s

/-- R40: `losses` and `drained` as for SLAT_BOUNDARY, for the frame's last slat; `flips` are errors that have come into the
memory (36 × word + symbol and the bits changed), `bad` tiles whose datapath fails parity as results are read. -/
def execFrameEnd (losses : List (Nat × Nat × Nat)) (drained flips : List (Nat × Nat)) (bad : List Nat) (s : State) :
    Host.Outcome State Fault Refusal := .next (doFrameEnd (narrowLosses losses) drained flips bad s)

/-! ## CHECK_COMPLETE (R244, R245) -/

/-- R244: the check is refused: the device returns to the state it came from. -/
def refuseCheck (c : CheckRun) (sect code detail : Nat) (s : State) : State :=
  let s := setState (if c.fromSuspended then .suspended else .ready) { s with dev := { s.dev with
    checkRun := none, result := 6, sect := sect, detail := detail % 2 ^ 32, reason := code } }
  raiseFull 0x0003 1 code detail 0 [6, sect] s

/-- R52, R245, R248: every descriptor store is written: each role's table at its own place, and the copies that spare
records hold. -/
def applyDescriptors (i : Image) (s : State) : State :=
  let put (m : SMap Nat) (core : Nat) (places : List Nat) (r : Nat) : SMap Nat :=
    places.zipIdx.foldl (fun m e => mapSet 0 m (core * 4096 + e.1) (i.task ((i.role r).tasks + e.2))) m
  let own := (List.range i.roles).foldl (fun m r =>
    let b := i.binding 0 r
    put m b.core b.places r) []
  let all := (List.range (i.records 0x0E)).foldl (fun m k =>
    (i.spare k).covers.foldl (fun m r => put m (i.spare k).core (i.copyPlaces k r) r) m) own
  { s with cores := { s.cores with desc := all } }

/-- R77, R245: every role is bound to its context; a new image starts with every context clear and its own frame numbers. -/
def applyContexts (i : Image) (resume : Bool) (s : State) : State :=
  let s := if resume then s
    else { s with cores := { s.cores with
      ctx := [], published := []
      core := (s.cores.core.map (fun (e : Nat × CoreSt) => (e.1, { e.2 with resident1 := 0, switch1 := 0, queue := [], faultFrames := [] }))).filter (fun e => decide (e.2 ≠ core0)) } }
  (List.range i.roles).foldl (fun s r =>
    let b := i.binding (mapGet 0 s.dev.rebinds r) r
    setCtx b.core b.slot (fun c => { c with role1 := r + 1 }) s) s

/-- R167, R176, R245: micro-program words, slot result regions and route tables. -/
def applyBanks (i : Image) (s : State) : State :=
  let w := i.bankWords
  let has := (i.sect 9).isSome
  let cleared := s.bnk.units.map (fun (e : Nat × BankUnit) => (e.1, { e.2 with
    slots := e.2.slots.zipIdx.map (fun x => if x.2 < 6 then { x.1 with resultOff := 0, resultLen := 0 } else x.1) }))
  let s := { s with
    bnk := { s.bnk with imageWords := has && !w.2.isEmpty, firstWord := if has then w.1 else 32, words := if has then w.2 else [], units := cleared }
    net := { s.net with order := i.recLe 8 0 0 2, via := i.recLe 8 0 2 1 } }
  if has then i.regions.foldl (fun s x => setSlot x.tile x.bank x.slot (fun y => { y with resultOff := x.off, resultLen := x.len }) s) s
  else s

/-- R245: areas of kind zero and pool areas are filled with zeros, for a new image only. -/
def applyZeros (i : Image) (s : State) : State :=
  let areas := ((List.range (i.records 6)).filter (fun k => decide (i.recLe 6 k 0 1 = 4))).map (fun k => (i.recLe 6 k 8 8, i.recLe 6 k 16 8))
  let pools := i.pools.flatMap (fun p => (List.range p.tileCount).map (fun t => (p.tile t * slotSize + p.off, p.groups * p.groupSize)))
  (areas ++ pools).foldl (fun s x => zeroSpan x.1 x.2 s) s

/-- R245: the LNK fields the image fixes. -/
def applyLinks (i : Image) (s : State) : State :=
  let has := (i.sect 0x0B).isSome
  let s := (List.range 32).foldl (fun s l =>
    let f := i.recLe 0x0B (1 + l)
    setLink l (fun x => { x with
      required := has && decide (f 0 1 = 1), minWidth := if has then f 1 1 else 0, expectAny := !has || decide (f 2 1 = 1)
      expected := if has then f 4 2 else 0, lost := false }) s) s
  (List.range 32).foldl (fun s l => judgeNeighbour l s) s

/-- R245: the REQ values the image fixes. -/
def applyService (i : Image) (s : State) : State :=
  let f := i.serviceLe
  if i.hasService then
    { s with req := { s.req with
        contexts := f 2 2, lanes := f 0 2, draftsMax := f 5 1, stepMax := f 4 1, admitFrames := f 6 1, serving := true, poolSets := i.setBases.length } }
  else { s with req := { s.req with
    contexts := 0, lanes := 0, draftsMax := 0, stepMax := 0, admitFrames := 0, serving := false, poolSets := i.setBases.length } }

/-- R30, R31: where the first frame starts. -/
def State.firstStart (s : State) : Nat :=
  if s.frm.startReg ≠ 0 then s.frm.startReg else (s.frm.tc + 10000 + 65535) / 65536 * 65536

/-- R245: the registers of an enable that succeeded. -/
def enterForce (s : State) : State :=
  { s with dev := { s.dev with inForce := true, checkRun := none, lock := none, result := 5, sect := 255, detail := 0, reason := 0 } }

/-- R30, R31: the first frame waits for its start. -/
def awaitFirst (resume : Bool) (s : State) : State :=
  { s with frm := { s.frm with
    phase := .waiting, nextAt := s.firstStart, nextNumber := if resume then s.frm.nextNumber else 0, planned := false, votes := [], fencedNow := []
    now := if resume then s.frm.now else {}, ended := if resume then s.frm.ended else {} } }

/-- R245: what the image writes: descriptor stores, contexts, banks, links, service and, for a new one, its zeroed areas. -/
def writeImage (i : Image) (resume : Bool) (s : State) : State :=
  let s := applyService i (applyLinks i (applyBanks i (applyContexts i resume (applyDescriptors i s))))
  if resume then s else applyZeros i s

/-- R197: the lane blocks of a new image's pools, of both parities, are idle (log 78). -/
def openService (resume : Bool) (s : State) : State := if resume then s else clearBlocks 1 (clearBlocks 0 s)

/-- The plan of the first frame. -/
def planFirst (i : Image) (f : Forecast) (s : State) : State := fixPlan i f s.frm.nextNumber s.frm.nextAt s.frm.period s

/-- R245: apply: the image is in force and the device in RUNNING; the plan of its first frame is fixed. -/
def applyImage (i : Image) (resume : Bool) (f : Forecast) (s : State) : State :=
  setState .running (raiseSetpoints i f (planFirst i f (openService resume (awaitFirst resume (writeImage i resume (enterForce s))))))

/-- R245: the check ends. `hops` and `fibre` give the longest route of a lockstep group (log 39), `f` the forecast of the
first frame. -/
def doCheckComplete (hops fibre : Nat) (f : Forecast) (s : State) : State :=
  match s.dev.checkRun, s.dev.image with
  | some c, some i =>
    if !s.powered || s.kpr.state ≠ .checking then s
    else if c.fenced then refuseCheck c 255 0x0210 0 s
    else
      let resume := s.dev.inForce
      match s.checkImage { i := i, resume := resume, accepted := c.acceptedTc, hops := hops, fibre := fibre } with
      | some (sect, code, detail) => refuseCheck c sect code detail s
      | none => applyImage i resume f s
  | _, _ => s

/-- R245. -/
def execCheckComplete (hops fibre : Nat) (f : Forecast) (s : State) : Host.Outcome State Fault Refusal :=
  .next (doCheckComplete (max 1 (hops % 2 ^ 16)) (fibre % 2 ^ 16) f.narrow s)

/-! ## FRM and CLK registers (R32, R33, R51, R323) -/

/-- R51: `FRM.START`. -/
def writeStart (v : Nat) (s : State) : State :=
  inState 0x300028 v [.ready, .suspended] (fun s => { s with frm := { s.frm with startReg := v } }) s

/-- R33, R51, R323: `FRM.LATCH`. -/
def writeLatch (v : Nat) (s : State) : State :=
  inState 0x300030 v [.running] (fun s =>
    if s.frm.nextArm || s.clk.nextArm then refuse 0x300030 v 0x0135 s else { s with frm := { s.frm with latch := v } }) s

/-- R32: the latch lies on a boundary at least two periods after the present frame's start. -/
def State.latchOk (s : State) : Bool :=
  decide (s.frm.frameStart + 2 * s.frm.period ≤ s.frm.latch) && decide ((s.frm.latch - s.frm.frameStart) % max 1 s.frm.period = 0)
    && decide (0 < s.frm.period)

/-- R33: the latch's own plan point has not come. -/
def State.beforeLatchPlan (s : State) : Bool := decide (s.frm.tc + s.frm.planLead < s.frm.latch)

/-- R32, R33: `FRM.NEXT`. No rule orders the two codes of an arm that fails both conditions: the model tests the latch first
and records 0x0134 (log 120). -/
def writeNext (v : Nat) (s : State) : State :=
  let off := 0x300038
  regWrite off v (2 ^ 63 + 2 ^ 27 - 1) 0 (inState off v [.running] (fun s =>
    let p := field v 0 27
    if s.frm.nextArm then
      (if bit v 63 || !s.beforeLatchPlan then refuse off v 0x0135 s else { s with frm := { s.frm with nextArm := false } })
    else if !bit v 63 then { s with frm := { s.frm with nextPeriod := p } }
    else if !s.latchOk then refuse off v 0x0134 s
    else if p < 1000 || 67108864 < p || p ≤ s.frm.planLead + 128 then refuse off v 0x0131 s
    else { s with frm := { s.frm with nextArm := true, nextPeriod := p } })) s

/-- R32: `FRM.NEXT` written with arm = 1. -/
def doPeriodArm (v : Nat) (s : State) : State := writeNext (v % 2 ^ 63 + 2 ^ 63) s

/-- R32. -/
def execPeriodArm (v : Nat) (s : State) : Host.Outcome State Fault Refusal := .next (doPeriodArm (v % 2 ^ 64) s)

/-- R33: `FRM.NEXT` written with arm = 0. -/
def doPeriodWithdraw (v : Nat) (s : State) : State := writeNext (v % 2 ^ 63) s

/-- R33. -/
def execPeriodWithdraw (v : Nat) (s : State) : Host.Outcome State Fault Refusal := .next (doPeriodWithdraw (v % 2 ^ 64) s)

/-- A divisor limit in its range. -/
def limitOk (d : Nat) : Bool := decide (4 ≤ d) && decide (d ≤ 8)

/-- R323: `CLK.LIMIT`. -/
def writeClkLimit (v : Nat) (s : State) : State :=
  let off := 0x700010
  regWrite off v 15 0 (inState off v [.ready, .running, .suspended] (fun s =>
    if s.kpr.state = .running && decide (1 < s.frm.members) then refuse off v 0x0120 s
    else if !limitOk v then refuse off v 0x0123 s
    else { s with clk := { s.clk with limit := v } })) s

/-- R323: `CLK.NEXT`. -/
def writeClkNext (v : Nat) (s : State) : State :=
  let off := 0x700018
  regWrite off v (2 ^ 63 + 15) 0 (inState off v [.ready, .running, .suspended] (fun s =>
    let d := field v 0 4
    if s.clk.nextArm then
      (if bit v 63 || !s.beforeLatchPlan then refuse off v 0x0135 s else { s with clk := { s.clk with nextArm := false } })
    else if !limitOk d then refuse off v 0x0123 s
    else if !bit v 63 then { s with clk := { s.clk with nextDivisor := d } }
    else if s.kpr.state ≠ .running || !s.latchOk then refuse off v 0x0134 s
    else { s with clk := { s.clk with nextArm := true, nextDivisor := d } })) s

/-- R323: a direct write of the limit. -/
def doLimitWrite (v : Nat) (s : State) : State := writeClkLimit v s

/-- R323. -/
def execLimitWrite (v : Nat) (s : State) : Host.Outcome State Fault Refusal := .next (doLimitWrite (v % 2 ^ 64) s)

/-- R323: `CLK.NEXT` written with arm = 1. -/
def doLimitArm (v : Nat) (s : State) : State := writeClkNext (v % 2 ^ 63 + 2 ^ 63) s

/-- R323. -/
def execLimitArm (v : Nat) (s : State) : Host.Outcome State Fault Refusal := .next (doLimitArm (v % 2 ^ 64) s)

/-- R323: `CLK.NEXT` written with arm = 0. -/
def doLimitWithdraw (v : Nat) (s : State) : State := writeClkNext (v % 2 ^ 63) s

/-- R323. -/
def execLimitWithdraw (v : Nat) (s : State) : Host.Outcome State Fault Refusal := .next (doLimitWithdraw (v % 2 ^ 64) s)

/-! ## Caps and the cooling baseline (R348, R357) -/

/-- States in which the caps and the baseline may be written. -/
def capStates : List DevState := [.staging, .ready, .checking, .running, .suspended]

/-- Offset of `PWR.CAP_1S` (0) or `PWR.CAP_8S` (1). -/
def capOff (which : Nat) : Nat := 0x800000 + 8 * which

/-- R348: a cap takes a value in its order and range. -/
def setCap (which v : Nat) (s : State) : State :=
  let c := v % 2 ^ 16
  let c1 := if which = 0 then c else s.pwr.cap1
  let c8 := if which = 0 then s.pwr.cap8 else c
  if c8 < 600 || c1 < c8 || 1600 < c1 then refuse (capOff which) v 0x0123 s
  else { s with pwr := { s.pwr with cap1 := c1, cap8 := c8 } }

/-- The cap in force, which reads in bits [63:48]. -/
def State.capForce (s : State) (which : Nat) : Nat := (if which = 0 then s.pwr.force1 else s.pwr.force8) * 2 ^ 48

/-- R348: `PWR.CAP_1S` (0) or `PWR.CAP_8S` (1). -/
def writeCap (which v : Nat) (s : State) : State :=
  regWrite (capOff which) v 0xFFFF (s.capForce which) (inState (capOff which) v capStates (setCap which v)) s

/-- R411: a cap written by another way than the host's BARs, under the same rules. -/
def writeCapAside (which v : Nat) (s : State) : State :=
  if !s.keeperUp then s
  else if v &&& ((2 ^ 64 - 1) ^^^ (0xFFFF ||| s.capForce which)) ≠ 0 then refuse (capOff which) v 0x0123 s
  else if s.inStates capStates then setCap which v s
  else refuse (capOff which) v 0x0120 s

/-- R348. -/
def doCapWrite (which v : Nat) (s : State) : State := writeCap which v s

/-- R348: 0 the 1 s cap, 1 the 8 s cap. -/
def execCapWrite (which v : Nat) (s : State) : Host.Outcome State Fault Refusal :=
  onUnit (which < 2) (doCapWrite which (v % 2 ^ 64) s)

/-- R357: `THM.COOL_BASE`. -/
def writeCoolBase (v : Nat) (s : State) : State :=
  regWrite 0x900010 v 0xFFFF 0 (inState 0x900010 v capStates (fun s =>
    { s with thm := { s.thm with base := v, baseValid := decide (v ≠ 0), selfCaptured := false } })) s

/-- R357. -/
def doCoolBaseWrite (v : Nat) (s : State) : State := writeCoolBase v s

/-- R357. -/
def execCoolBaseWrite (v : Nat) (s : State) : Host.Outcome State Fault Refusal := .next (doCoolBaseWrite (v % 2 ^ 64) s)

end Sys2Proof.Machine
end

