-- ==== Sys2Proof/Machine/Debug.lean ====
section
/-! DEFINITION. The DBG block (R421, R422). -/
namespace Sys2Proof.Machine

/-- States in which DBG reads and takes writes (Table 20.4). -/
def dbgStates : List DevState := [.ready, .checking, .running, .suspended]

/-- R421: an unlock with scope bit 0 is in force. -/
def State.dbgOpen (s : State) : Bool := bit s.prt.scope 0 && s.inStates dbgStates

/-- `DBG.STATUS` (Table 20.5). -/
def State.dbgStatus (s : State) : Nat :=
  s.prt.scope * 16 + b2n (s.resident s.dbg.core s.dbg.slot) * 8 + b2n s.dbg.paritySeen * 2 + b2n s.dbg.selChanged

/-- Descriptor-store index a context dispatches next: the place of its position in its table. -/
def State.nextPlace (s : State) (c : Ctx) : Nat :=
  if c.role1 = 0 then 0 else ((s.bindingOf (c.role1 - 1)).map (fun b => nth 0 b.places c.pos)).getD 0

/-- `DBG.SEQ` (Table 20.7) of the selected context. -/
def State.dbgSeq (s : State) : Nat :=
  let c := s.seenCtx s.dbg.core s.dbg.slot
  s.nextPlace c % 4096 * 2 ^ 52 + c.loops.length % 8 * 2 ^ 49 + b2n c.stopped * 2 ^ 48
    + ((c.loops.head?.map (fun l => l.iter)).getD 0) % 65536 * 2 ^ 32 + c.frame % 65536 * 2 ^ 16 + c.fault % 256

/-- `DBG.CTR[i]`. -/
def State.dbgCtr (s : State) (i : Nat) : Nat := nth 0 (s.seenCtx s.dbg.core s.dbg.slot).ctrs i % 65536

/-- R422: the selected core's store can be read. -/
def State.csReadable (s : State) : Bool :=
  let n := s.dbg.core
  !s.coreFenced n && !s.dark (regionOf n) && decide ((s.groupOf (regionOf n)).shutter = 0)

/-- R422: `DBG.CS[k]` where no parity error is met. -/
def State.dbgCs (s : State) (k : Nat) : Nat :=
  if s.csReadable then leNat (s.storeBytes s.dbg.core (s.dbg.csBase * 32 + 8 * k) 8) else 0

/-- R421, R422: `DBG.SEL`. -/
def writeDbgSel (v : Nat) (s : State) : State :=
  let off := 0xF00008
  regWrite off v (0xFFFF * 2 ^ 32 + 0x7FFF) 0 (fun s =>
    if !s.dbgOpen then refuse off v 0x0120 s
    else if coreCount ≤ field v 34 14 || 0x7F80 < field v 0 15 then refuse off v 0x0123 s
    else { s with dbg := { s.dbg with core := field v 34 14, slot := field v 32 2, csBase := field v 0 15 } }) s

/-- R422. The operand is the value written. -/
def execDbgSelWrite (v : Nat) (s : State) : Host.Outcome State Fault Refusal := .next (writeDbgSel (v % 2 ^ 64) s)

/-- R421: `DBG.STATUS`: a 1 clears bit 1 or bit 0. -/
def writeDbgStatus (v : Nat) (s : State) : State :=
  let off := 0xF00000
  regWrite off v 3 (if s.dbgOpen then s.dbgStatus else 0) (fun s =>
    if !s.dbgOpen then refuse off v 0x0120 s
    else { s with dbg := { s.dbg with
      paritySeen := s.dbg.paritySeen && !bit v 1, selChanged := s.dbg.selChanged && !bit v 0 } }) s

/-- R421. -/
def execDbgStatusClear (v : Nat) (s : State) : Host.Outcome State Fault Refusal := .next (writeDbgStatus (v % 2 ^ 64) s)

/-- R422: a host read of `DBG.CS[k]`. `parity`: the word fails parity in the core store. In D3hot no BAR decodes (R288). -/
def doDbgCsRead (k : Nat) (parity : Bool) (s : State) : State :=
  if !s.keeperUp then s
  else if s.hif.d3hot then emit .unsupportedRequest s
  else if !s.dbgOpen then emit (.data (leBytes 8 0)) s
  else if parity && s.csReadable then
    emit (.data (leBytes 8 0)) { s with dbg := { s.dbg with paritySeen := true } }
  else emit (.data (leBytes 8 (s.dbgCs k))) s

/-- R422: word 0 to 511 of the window. -/
def execDbgCsRead (k : Nat) (parity : Bool) (s : State) : Host.Outcome State Fault Refusal :=
  onUnit (k < 512) (doDbgCsRead k parity s)

end Sys2Proof.Machine
end

