-- ==== Sys2Proof/Machine/Telemetry.lean ====
section
/-! DEFINITION. The management endpoint (R410, R411, R428): MCTP control messages, PLDM sensors and effecters, the event
receiver, the I3C address. Message layouts are those of the MCTP and PLDM specifications (log 16). -/
namespace Sys2Proof.Machine

/-- Buses of the endpoint: 0 SMBus, 1 I3C, 2 PCIe vendor-defined messages while the link is trained. -/
def State.busLive (s : State) (bus : Nat) : Bool := s.kpr.railsUp && (decide (bus < 2) || s.hif.linkUp)

/-- R428: a receiver that polls by SMBus collects what waits for it, and SMB_ALERT_N is released. -/
def collectWaiting (bus : Nat) (s : State) : State :=
  if bus = 0 && s.tel.polls then
    let s := s.tel.waiting.foldl (fun s e => emit (.pem e.1 e.2) s) s
    { s with tel := { s.tel with waiting := [], alert := false } }
  else s

/-- R410: an MCTP control request of a command: Set Endpoint ID (0x01), Get Endpoint ID (0x02) and Get Message Type Support
(0x05, MCTP control and PLDM) are answered from what the endpoint knows; Get Endpoint UUID (0x03) and Get Version Support
(0x04) with bytes the spec does not state; any other command is unsupported (completion code 5). -/
def controlAnswer (cmd : Nat) (data : List Nat) (s : State) : State :=
  match cmd with
  | 1 =>
    let eid := nth 0 data 1
    emit (.mctp [1, 0, 0, eid, 0]) { s with tel := { s.tel with eid := eid } }
  | 2 => emit (.mctp [2, 0, s.tel.eid, 0, 0]) s
  | 3 => emit (.mctp ([3, 0] ++ (List.range 16).map (fun i => Config.unstated s.fresh i % 256))) (useFresh s)
  | 4 => emit (.mctp ([4, 0] ++ (List.range 5).map (fun i => Config.unstated s.fresh i % 256))) (useFresh s)
  | 5 => emit (.mctp [5, 0, 2, 0, 1]) s
  | _ => emit (.mctp [cmd, 5]) s

/-- R410: an MCTP control message reaches the endpoint over one of its buses, in any state. -/
def doMctpControlMessage (bus cmd : Nat) (data : List Nat) (s : State) : State :=
  if s.busLive bus then controlAnswer cmd data (collectWaiting bus s) else s

/-- R410: the bus, the command code and its data bytes. -/
def execMctpControlMessage (bus cmd : Nat) (data : List Nat) (s : State) : Host.Outcome State Fault Refusal :=
  onUnit (bus < 3) (doMctpControlMessage bus (cmd % 256) (toBytes (data.take 64)) s)

/-- Hottest governing temperature of the regions in service (Table 19.9, sensor 5). -/
def State.hottestRegion (s : State) : Nat :=
  (((List.range regionCount).filter (fun r => !s.dark r)).map s.regionTemp).foldl max 0

/-- Hottest governing temperature of the memory footprints (sensor 6). -/
def State.hottestMem (s : State) : Nat := ((List.range regionCount).map s.memTemp).foldl max 0

/-- `THM.COOL.ratio`: the resistance by the baseline, in 0.1%; 0 without a baseline. -/
def State.coolRatio (s : State) : Nat := if s.thm.base = 0 then 0 else clampTo 12 (s.thm.theta * 1000 / s.thm.base)

/-- Links up, one bit each (`LNK.STATUS.up`). -/
def State.linksUp (s : State) : Nat :=
  ((List.range 32).filter (fun l => decide ((s.linkOf l).state = .up))).foldl (fun m l => m + 2 ^ l) 0

/-- Sensors of Table 19.9 that every state serves. -/
def basicSensors : List Nat := [1, 2, 3, 4, 8, 10]

/-- Table 19.9: a sensor's value; none is operational state unavailable. -/
def State.sensor (s : State) (id : Nat) : Option Int :=
  if s.inStates [.rom, .halted] && !basicSensors.contains id then none
  else match id with
    | 1 => some (s.sup.power : Nat)
    | 2 => some (s.sup.voltage : Nat)
    | 3 => some (s.pwr.avg1 : Nat)
    | 4 => some (s.pwr.avg8 : Nat)
    | 5 => some (s.hottestRegion : Nat)
    | 6 => some (s.hottestMem : Nat)
    | 7 => some (s.coolRatio : Nat)
    | 8 => some (s.thm.inlet : Nat)
    | 9 => some ((if s.flp.valid then s.goodPanes else 0 : Nat) : Nat)
    | 10 => some (s.kpr.state.code : Nat)
    | 11 => some (popcount 32 s.linksUp : Nat)
    | 12 => some (s.mem.corrected : Nat)
    | 13 => some (s.req.tokens : Nat)
    | _ => none

/-- R410: a PLDM request for a sensor. -/
def doGetSensorReading (bus id : Nat) (s : State) : State :=
  if s.busLive bus then emit (.reading id (s.sensor id)) s else s

/-- R410: bus and sensor. -/
def execGetSensorReading (bus id : Nat) (s : State) : Host.Outcome State Fault Refusal :=
  onUnit (bus < 3) (doGetSensorReading bus (id % 2 ^ 16) s)

/-- R411: effecters 1 and 2 are the caps, written under the rules of the host's writes. -/
def doSetNumericEffecterValue (bus id v : Nat) (s : State) : State :=
  if s.busLive bus && (decide (id = 1) || decide (id = 2)) then writeCapAside (id - 1) v s else s

/-- R411: bus, effecter and value. -/
def execSetNumericEffecterValue (bus id v : Nat) (s : State) : Host.Outcome State Fault Refusal :=
  onUnit (bus < 3) (doSetNumericEffecterValue bus id (v % 2 ^ 64) s)

/-- R411: the receiver of event messages, or none; whether it polls by SMBus (R428). Messages that wait for an earlier
poller go with it. -/
def doSetEventReceiver (bus : Nat) (receiver : Option Nat) (polls : Bool) (s : State) : State :=
  if s.busLive bus then
    { s with tel := { s.tel with receiver := receiver, polls := polls && receiver.isSome, waiting := [], alert := false } }
  else s

/-- R411: endpoint IDs have 8 bits. -/
def execSetEventReceiver (bus : Nat) (receiver : Option Nat) (polls : Bool) (s : State) : Host.Outcome State Fault Refusal :=
  onUnit (bus < 3) (doSetEventReceiver bus (receiver.map (fun e => e % 256)) polls s)

/-- R428: ENTDAA or SETDASA assigns a dynamic I3C address, kept until the next power-up. -/
def doI3cDynamicAddress (a : Nat) (s : State) : State :=
  if s.kpr.railsUp then { s with tel := { s.tel with i3c := some a } } else s

/-- R428. -/
def execI3cDynamicAddress (a : Nat) (s : State) : Host.Outcome State Fault Refusal := .next (doI3cDynamicAddress (a % 128) s)

end Sys2Proof.Machine
end

