-- ==== Sys2Proof/Machine/Upkeep.lean ====
section
/-! DEFINITION. Registers of the memory (R150) and the host-interface commands that reach the request engine (R294,
R305). -/
namespace Sys2Proof.Machine

/-! ## MEM.SCRUB and MEM.CE_THRESH (R150) -/

/-- States in which the two registers are writable. -/
def memWriteStates : List DevState := [.ready, .running, .suspended]

/-- Full passes of the slowest tile in service (Table 6.11); 0 until the memory is ready. -/
def State.scrubPasses (s : State) : Nat :=
  if !s.mem.ready then 0
  else
    let good := (List.range coreCount).filter (fun n => !s.tileFenced n)
    match good with
    | [] => 0
    | n :: t => t.foldl (fun m k => min m (s.tileRec k).passes) (s.tileRec n).passes

/-- R150: a write of `MEM.SCRUB`: enable in bit 8, the period in hours in bits [7:0]. -/
def writeScrub (v : Nat) (s : State) : State :=
  let off := 0xC00008
  let h := field v 0 8
  regWrite off v 0x1FF (if v < 2 ^ 32 then 0 else s.scrubPasses * 2 ^ 32) (fun s =>
    if !s.inStates memWriteStates || h = 0 || 168 < h then refuse off v 0x0320 s
    else { s with mem := { s.mem with scrubEnable := bit v 8, scrubPeriod := h } }) s

/-- R150. The operand is the value written. -/
def execScrubWrite (v : Nat) (s : State) : Host.Outcome State Fault Refusal := .next (writeScrub (v % 2 ^ 64) s)

/-- R150: a write of `MEM.CE_THRESH`: the window in seconds in bits [47:32], the count in bits [23:0]. -/
def writeCeThresh (v : Nat) (s : State) : State :=
  let off := 0xC00010
  regWrite off v 0xFFFF00FFFFFF 0 (fun s =>
    if !s.inStates memWriteStates || field v 32 16 = 0 || field v 0 24 = 0 then refuse off v 0x0320 s
    else { s with mem := { s.mem with ceWindow := field v 32 16, ceCount := field v 0 24 } }) s

/-- R150. -/
def execCeThreshWrite (v : Nat) (s : State) : Host.Outcome State Fault Refusal := .next (writeCeThresh (v % 2 ^ 64) s)

/-! ## Windows and the aperture (R291, R300, R301) -/

/-- R300: a write of `HIF.WIN[i]` that sets to_device and not to_host. -/
def doToDevice (i v : Nat) (s : State) : State := writeWin i (v / 4 * 4 + 1) s

/-- R300: the window and the value written; bits [1:0] are the command's. -/
def execToDevice (i v : Nat) (s : State) : Host.Outcome State Fault Refusal := onUnit (i < 4) (doToDevice i (v % 2 ^ 64) s)

/-- R301: a write of `HIF.WIN[i]` that sets to_host and not to_device. -/
def doToHost (i v : Nat) (s : State) : State := writeWin i (v / 4 * 4 + 2) s

/-- R301. -/
def execToHost (i v : Nat) (s : State) : Host.Outcome State Fault Refusal := onUnit (i < 4) (doToHost i (v % 2 ^ 64) s)

/-- R291: `HIF.BAR2_BASE`; later requests are translated with the new base. -/
def execBar2BaseWrite (v : Nat) (s : State) : Host.Outcome State Fault Refusal := .next (writeBar2Base (v % 2 ^ 64) s)

/-! ## Bus mastering (R293, R294, R305) -/

/-- R293: a pending vector that is unmasked is signalled while bus mastering is allowed. -/
def sendPending (v : Nat) (s : State) : State :=
  if bit s.hif.pba v && bit (mapGet 0 s.hif.msixUnmask v) 0 && s.hif.bme then
    emit (.msix v) { s with hif := { s.hif with pba := s.hif.pba - 2 ^ v } }
  else s

/-- R294: Bus Master Enable changes. What was held goes on when it returns to 1: event records, pending vectors,
completions and the entries that wait for their space. -/
def doBusMasterEnableChange (on : Bool) (s : State) : State :=
  if !s.powered then s
  else
    let s := { s with hif := { s.hif with bme := on } }
    if on then
      let s := (List.range 64).foldl (fun s v => sendPending v s) (flushEvents s)
      (s.req.qp.map (fun e => e.1)).foldl (fun s q => releaseCq q s) s
    else s

/-- R294. -/
def execBusMasterEnableChange (on : Bool) (s : State) : Host.Outcome State Fault Refusal :=
  .next (doBusMasterEnableChange on s)

/-- The status code of a completion without data, as PCI Express codes it (log 45). -/
def ReadEnd.code : ReadEnd → Nat
  | .timeout => 0
  | .unsupported => 1
  | .aborted => 4

/-- The AER bit of a requester's case (log 99). -/
def ReadEnd.aerBit : ReadEnd → Nat
  | .timeout => aerTimeout
  | .unsupported => aerUnsupported
  | .aborted => aerAbort

/-- R305: a submission-queue fetch fails: it is retried once, after 1 ms; when the retry fails the pair fetches nothing until
its next tail doorbell. -/
def fetchFails (q : Nat) (s : State) : State :=
  if s.canFetch q then
    setQp q (fun p => if p.fetchFailed = 2 then { p with fetchFailed := 3 }
      else { p with fetchFailed := 1, failedAt := s.frm.tc }) s
  else s

/-- R305: what the unit does whose read failed. -/
def readerFails (r : HostReader) (s : State) : State :=
  match r with
  | .fetch q => fetchFails q s
  | .buffer n => hostFault n s
  | .keeper => s

/-- The queue pair whose work a read was for; the keeper's has none. -/
def State.readerPair (s : State) : HostReader → Nat
  | .fetch q => q
  | .buffer n => (s.seqOf n).qp
  | .keeper => noUnit

/-- R305: a read of host memory ends without data: AER, an event, and what its unit does. -/
def doHostReadFailed (r : HostReader) (e : ReadEnd) (s : State) : State :=
  if !s.powered || !s.hif.bme then s
  else readerFails r (raise 0x0072 1 (s.readerPair r) [e.code] (aerError e.aerBit (aerHeader 2 0 0) s))

/-- R305. No read is out while Bus Master Enable is 0 (R294). -/
def execHostReadFailed (r : HostReader) (e : ReadEnd) (s : State) : Host.Outcome State Fault Refusal :=
  .next (doHostReadFailed r e s)

end Sys2Proof.Machine
end

