-- ==== Sys2Proof/Machine/Regs.lean ====
section
/-! DEFINITION. The register map (chapter 20): what every register reads as, and the write of any register. -/
namespace Sys2Proof.Machine

/-- A register value from its fields: lowest bit, width, value. A field holds at most its largest value. -/
def pack : List (Nat × Nat × Nat) → Nat
  | [] => 0
  | (lo, w, v) :: t => clampTo w v * 2 ^ lo + pack t

/-- Entry number and offset within the entry, for an offset inside an array register. -/
def inArray (off base stride count : Nat) : Option (Nat × Nat) :=
  if base ≤ off ∧ off < base + stride * count then some ((off - base) / stride, (off - base) % stride) else none

/-! ## Block views -/

/-- DEV (Tables 11.9 to 11.12, 17.13). -/
def State.readDev (s : State) (o : Nat) : Nat :=
  let d := s.dev
  let k := s.kpr
  match o with
  | 0x08 => pack [(32, 8, k.haltCause), (28, 4, k.resetCause), (20, 4, k.step), (16, 1, b2n k.belowGrade),
      (8, 4, k.prev.code), (0, 4, k.state.code)]
  | 0x10 => pack [(56, 8, d.result), (48, 8, d.sect), (16, 32, d.detail), (0, 16, d.reason)]
  | 0x18 => d.baseTile
  | 0x20 => d.imageLen
  | 0x28 => match d.image with
    | none => 0
    | some i => pack [(63, 1, 1), (62, 1, b2n d.inForce), (61, 1, i.keySlot), (32, 8, i.sections.length),
        (16, 16, i.roles), (0, 16, i.version)]
  | 0x30 => (d.image.map (fun i => i.imageId)).getD 0
  | 0x38 => match d.image with
    | none => 0
    | some i =>
      let n := i.records 0x0E
      let used := (List.range n).filter (fun k => mapGet false d.spareUsed k)
      let free := (List.range n).filter (fun k => !mapGet false d.spareUsed k && !s.coreFenced (i.spare k).core)
      pack [(48, 16, n), (32, 16, free.length), (16, 16, used.length), (0, 16, d.lastRole)]
  | _ => 0

/-- EVT (Table 19.11). -/
def State.readEvt (s : State) (o : Nat) : Nat :=
  let e := s.evt
  match o with
  | 0x000 => pack [(12, 52, e.ringAddr), (0, 5, e.sizeLog2)]
  | 0x008 => pack [(63, 1, b2n e.enable), (40, 8, e.vector), (32, 8, e.coalN), (16, 16, e.coalUs), (0, 2, e.minSev)]
  | 0x010 => e.head
  | 0x018 => pack [(48, 16, e.tail), (38, 10, e.hold.length), (0, 1, b2n e.phase)]
  | 0x020 => pack [(32, 32, e.written), (16, 16, e.lost), (8, 8, e.limited), (0, 8, e.filtered)]
  | 0x100 => pack [(12, 52, e.rep.base), (0, 4, e.rep.slotsLog2)]
  | 0x108 => pack [(48, 16, e.rep.every), (40, 8, e.rep.slotLog2), (32, 8, e.rep.sections), (24, 8, e.rep.vector),
      (23, 1, b2n e.rep.signal)]
  | 0x110 => pack [(32, 32, e.repLast % 2 ^ 32), (16, 16, e.repSkipped), (0, 16, e.repTruncated)]
  | 0x118 => e.rep.amax
  | _ => match inArray o 0x140 8 8 with
    | some (i, _) => nth 0 e.rep.regions i
    | none => 0

/-- KPR (Table 17.14). -/
def State.readKpr (s : State) (o : Nat) : Nat :=
  let k := s.kpr
  match o with
  | 0x08 => pack [(56, 8, k.fwResult), (0, 32, k.fetched)]
  | 0x10 => k.fwAddr * 4096
  | 0x18 => k.fwLen
  | 0x20 => k.licAddr * 4096
  | 0x28 => k.licLen
  | 0x30 => pack [(32, 32, k.fwVersion), (24, 8, k.licAccepted), (16, 8, k.licRejected)]
  | _ => 0

/-- FRM (Tables 2.5 to 2.14). `FRM.LOCK.members` has 16 bits for up to 65,536 members: the model reads 0xFFFF there, as for
any value a field cannot hold (`pack`, log 121). -/
def State.readFrm (s : State) (o : Nat) : Nat :=
  let f := s.frm
  match o with
  | 0x00 => pack [(16, 4, f.slat), (8, 3, f.now.level), (2, 1, b2n (!f.awaiting.isEmpty)), (1, 1, b2n f.now.lockstep),
      (0, 1, b2n (decide (f.phase = .inFrame)))]
  | 0x08 => f.count
  | 0x10 => f.frameStart
  | 0x18 => f.period
  | 0x20 => pack [(44, 4, f.slatsM1), (32, 8, f.allowance), (0, 27, f.planLead)]
  | 0x28 => f.startReg
  | 0x30 => f.latch
  | 0x38 => pack [(63, 1, b2n f.nextArm), (0, 27, f.nextPeriod)]
  | 0x40 => f.lastGood
  | 0x48 => f.lastDrop
  | 0x50 => pack [(32, 32, f.overruns), (0, 32, f.lockFaults)]
  | 0x58 => pack [(48, 16, f.members), (0, 32, f.confirmWait)]
  | _ => match inArray o 0x100 8 16, inArray o 0x200 8 64, inArray o 0x1000 8 512 with
    | some (i, _), _, _ => pack [(32, 8, (nth (0, 0) f.slats i).1), (0, 27, (nth (0, 0) f.slats i).2)]
    | _, some (i, _), _ => nth ones64 f.results i
    | _, _, some (r, _) =>
      let x := mapGet stretch0 f.stretch r
      pack [(32, 32, x.lastLoss), (16, 16, x.overAllow), (0, 10, x.worstSlat)]
    | _, _, _ => 0

/-- Sequence contexts, by the test they meet. -/
def State.countSeqs (s : State) (p : Nat × Seq → Bool) : Nat := (s.req.seqs.filter p).length

/-- REQ (Tables 10.11, 10.12). -/
def State.readReq (s : State) (o : Nat) : Nat :=
  let r := s.req
  match o with
  | 0x00 => pack [(8, 8, r.poolSets), (1, 1, b2n s.kpr.features.req),
      (0, 1, b2n (r.serving && decide (s.kpr.state = .running)))]
  | 0x08 => pack [(34, 15, r.contexts), (24, 10, r.lanes), (20, 4, r.draftsMax), (13, 7, r.stepMax), (0, 8, r.admitFrames)]
  | 0x10 => pack [(32, 16, s.countSeqs (fun e => decide (e.2.state ≠ .free))),
      (16, 16, s.countSeqs (fun e => (s.seqState e.1).runnable)), (0, 16, r.pageWait)]
  | 0x18 => pack [(32, 32, r.tokens), (16, 16, r.dropped), (0, 16, r.settleLate)]
  | 0x20 => pack [(32, 32, r.sets), (0, 32, r.settleTc)]
  | _ => match inArray o 0x1000 32 256 with
    | none => 0
    | some (q, w) =>
      let p := s.qpOf q
      match w with
      | 0 => p.sqBase * 4096
      | 8 => p.cqBase * 4096
      | 16 => b2n p.enable * 2 ^ 63 + p.word2
      | _ => pack [(48, 16, s.countSeqs (fun e => decide (e.2.state ≠ .free) && decide (e.2.qp = q))),
          (36, 12, p.sqHead), (24, 12, p.cqTail), (2, 1, b2n p.busy), (1, 1, b2n (s.cqFull q)), (0, 1, b2n p.phase)]

/-- HIF (Tables 13.6 to 13.9, R293). -/
def State.readHif (s : State) (o : Nat) : Nat :=
  let h := s.hif
  match o with
  | 0x00 => pack [(12, 4, h.speed), (7, 5, h.width), (5, 2, h.mode), (3, 1, b2n h.memActive),
      (2, 1, b2n s.kpr.features.cxlMem), (1, 1, b2n s.bar2Live), (0, 1, b2n h.bme)]
  | 0x08 => h.baseGib
  | 0x10 => pack [(52, 12, h.ownedDiscards), (40, 12, h.poisonReturned), (28, 12, h.completerAborts),
      (16, 12, h.unsupported), (0, 16, h.poisonedIn)]
  | 0x18 => pack [(60, 4, h.errKind), (58, 2, h.errWindow), (0, 40, h.errAddr)]
  | 0x9000 => h.pba
  | _ => match inArray o 0x100 8 4, inArray o 0x8000 16 64 with
    | some (i, _), _ =>
      let w := s.window i
      pack [(16, 16, w.handovers), (9, 1, b2n w.committed), (8, 1, b2n w.striped), (4, 2, w.owner)]
    | _, some (v, 0) => mapGet 0 h.msixAddr v
    | _, some (v, _) => pack [(0, 32, mapGet 0 h.msixData v), (32, 1, 1 - mapGet 0 h.msixUnmask v)]
    | _, _ => 0

/-- One word of `LNK.LINK[l]` (Table 12.12). -/
def Link.readWord (x : Link) (w : Nat) : Nat :=
  match w with
  | 0 => pack [(48, 16, x.neighbour), (32, 16, x.lanesGood), (16, 16, x.lanesUsed), (8, 5, x.width),
      (4, 4, x.state.code), (3, 1, b2n x.required), (2, 1, b2n x.neighbourKnown)]
  | 8 => x.word1
  | 16 => pack [(32, 32, x.replays), (16, 16, x.fecUncorrectable), (0, 16, x.widthDrops)]
  | _ => pack [(32, 32, x.fecCorrected), (16, 16, x.creditStalls), (0, 16, x.retrains)]

/-- LNK (Tables 12.9 to 12.13). -/
def State.readLnk (s : State) (o : Nat) : Nat :=
  let l := s.lnk
  match o with
  | 0x00 => pack [(32, 32, s.linksUp), (0, 32, s.kpr.features.links)]
  | 0x08 => pack [(16, 1, b2n l.assigned), (0, 16, l.id)]
  | 0x10 => pack [(48, 16, l.master), (42, 6, l.depth), (40, 1, b2n l.masterKnown), (35, 5, l.upstream),
      (34, 1, b2n l.isMaster), (33, 1, b2n l.acquired), (32, 1, b2n l.locked), (0, 32, ofSigned 32 l.offset)]
  | 0x18 => pack [(32, 32, l.notAdmitted), (16, 16, l.unreachable), (0, 16, l.suppressed)]
  | 0x20 => pack [(61, 2, l.raccState), (48, 8, l.raccStatus), (32, 1, b2n l.raccWrite), (0, 16, l.raccPeer)]
  | 0x28 => l.raccAddr * 32
  | _ => match inArray o 0x40 8 4, inArray o 0x1000 32 32, inArray o 0x2000 8 4, inArray o 0x40000 8 32768 with
    | some (i, _), _, _, _ => nth 0 l.raccData i
    | _, some (i, w), _, _ => (s.linkOf i).readWord w
    | _, _, some (k, _), _ =>
      let c := nth cart0 l.carts k
      pack [(48, 16, c.failed), (32, 16, c.aged), (28, 4, c.spareUsed), (20, 8, c.spareMap), (0, 1, b2n c.present)]
    | _, _, _, some (j, _) => mapGet 0 l.fwd j
    | _, _, _, _ => 0

/-- Regions whose clocks have a source (0 own generator, 1 fall-back mesh). -/
def State.regionsOn (s : State) (source : Nat) : Nat :=
  ((List.range regionCount).filter (fun r => decide ((s.clkOf r).source = source))).length

/-- CLK (Tables 14.7 to 14.9): 0 until step 4 (R420). -/
def State.readClk (s : State) (o : Nat) : Nat :=
  if !s.clk.started then 0
  else match o with
    | 0x00 => s.frm.tc
    | 0x08 => pack [(22, 10, s.regionsOn 1), (12, 10, s.regionsOn 0), (9, 3, s.kpr.oscWait), (8, 1, b2n s.stopMode),
        (2, 1, b2n s.clk.tcLocked), (1, 1, b2n s.clk.sillLocked), (0, 1, b2n s.clk.refOk)]
    | 0x10 => s.clk.limit
    | 0x18 => pack [(63, 1, b2n s.clk.nextArm), (0, 4, s.clk.nextDivisor)]
    | _ => match inArray o 0x1000 8 512 with
      | none => 0
      | some (r, _) =>
        let c := s.clkOf r
        let run := decide (c.source < 2)
        pack [(62, 2, c.source), (58, 4, if run then c.divisor else 0), (57, 1, b2n (run && c.divisor != c.target)),
          (56, 1, b2n c.lockLost), (48, 8, c.droopEvents), (24, 24, c.plus1), (0, 24, c.plus2)]

/-- One word of `PWR.GROUP[r]` (Table 15.9). -/
def State.readGroup (s : State) (r w : Nat) : Nat :=
  let g := s.groupOf r
  match w with
  | 0 => pack [(52, 12, g.setpoint), (40, 12, g.vMin), (28, 12, g.vOut), (16, 12, g.current), (12, 4, g.phasesFailed),
      (10, 2, g.shutter), (9, 1, b2n g.dutyLimited), (8, 1, b2n g.bondSuspect), (4, 4, g.sensorsExcluded),
      (3, 1, b2n (decide (g.sensorsExcluded = 15)))]
  | _ => pack [(32, 32, g.shuntFires), (16, 16, if g.irSamples < 1000 then 0 else g.irModel), (8, 8, g.openDeferred),
      (0, 8, mapGet 0 s.fuses.binTrim r)]

/-- PWR (Tables 15.7 to 15.9, 16.9). -/
def State.readPwr (s : State) (o : Nat) : Nat :=
  let p := s.pwr
  let u := s.sup
  match o with
  | 0x00 => pack [(48, 16, p.force1), (0, 16, p.cap1)]
  | 0x08 => pack [(48, 16, p.force8), (0, 16, p.cap8)]
  | 0x10 => pack [(48, 16, p.avg1), (32, 16, p.avg8), (16, 16, p.overEvents)]
  | 0x18 => pack [(48, 16, p.budget), (32, 16, p.fixed), (16, 16, p.compute), (0, 16, p.links)]
  | 0x20 => pack [(48, 16, p.estimate), (32, 16, p.measured), (16, 16, p.k), (8, 8, p.trims), (0, 8, p.lowReports)]
  | 0x28 => pack [(61, 3, p.plan.own), (58, 3, p.plan.level), (40, 10, p.plan.raised), (30, 10, p.plan.demoted),
      (3, 1, b2n p.plan.thermal), (2, 1, b2n p.plan.budget), (1, 1, b2n p.plan.limit), (0, 1, b2n p.plan.votes)]
  | 0x100 => pack [(11, 1, b2n u.capLimited), (10, 1, b2n u.limiting), (9, 1, b2n u.inputWarn), (4, 4, u.railsOk),
      (0, 2, u.stage1Ok)]
  | 0x108 => pack [(48, 16, u.voltage), (32, 16, u.current), (16, 16, u.power), (0, 16, u.peak)]
  | 0x110 => pack [(32, 32, u.engagements), (0, 32, u.limitedUs)]
  | _ => match inArray o 0x120 8 4, inArray o 0x1000 16 512 with
    | some (k, _), _ =>
      let x := nth ({} : Rail) u.rails k
      pack [(48, 16, if k = 0 then s.vcoreBus else x.setpoint), (32, 16, x.measured), (16, 16, x.current)]
    | _, some (r, w) => s.readGroup r w
    | _, _ => 0

/-- Region pairs that meet a test. -/
def State.countPairs (s : State) (p : Pair → Bool) : Nat := (s.thm.regions.filter (fun e => p e.2)).length

/-- THM (Tables 16.6 to 16.8): 0 until step 4 (R420). -/
def State.readThm (s : State) (o : Nat) : Nat :=
  let t := s.thm
  if !t.started then 0
  else match o with
    | 0x00 => pack [(32, 10, s.countPairs (fun p => p.modelGoverns)), (22, 10, s.countPairs (fun p => p.held)),
        (12, 10, s.countPairs (fun p => p.demoted)), (2, 10, s.countPairs (fun p => p.raised)), (1, 1, b2n t.warning),
        (0, 1, b2n t.ready)]
    | 0x08 => pack [(52, 12, t.inlet), (36, 16, t.theta), (24, 12, s.coolRatio), (4, 20, t.qualS), (3, 1, b2n t.baseValid),
        (2, 1, b2n t.selfCaptured), (1, 1, b2n t.warning)]
    | 0x10 => t.base
    | 0x18 => pack [(48, 16, t.holds), (32, 16, t.demotions), (16, 16, t.modelEvents), (0, 16, t.flagged)]
    | _ => match inArray o 0x100 8 16, inArray o 0x200 8 4, inArray o 0x1000 16 512, inArray o 0x3000 8 512 with
      | some (i, _), _, _, _ =>
        let q := nth 0 s.fuses.sentinels i
        let now := ((List.range 4).map (fun y => s.regionTemp (q / 32 * 128 + y * 32 + q % 32))).foldl max 0
        pack [(52, 12, nth 0 t.predicted i), (40, 12, now), (0, 7, q)]
      | _, some (i, _), _, _ =>
        let x := nth ({} : SillHeat) t.sills i
        pack [(52, 12, s.sillTemp i), (36, 16, x.suspect), (20, 16, x.failed)]
      | _, _, some (r, 0), _ =>
        let p := s.pairOf r
        pack [(52, 12, s.regionTemp r), (40, 12, p.a), (28, 12, p.b), (16, 12, p.model), (4, 12, p.forecast)]
      | _, _, some (r, _), _ =>
        let p := s.pairOf r
        pack [(24, 8, p.holdCount), (16, 8, mapGet 0 s.fuses.tau r), (15, 1, b2n p.modelGoverns), (14, 1, b2n p.held),
          (13, 1, b2n p.demoted), (12, 1, b2n p.raised), (10, 2, p.stateA), (8, 2, p.stateB),
          (0, 8, mapGet 0 s.fuses.theta r)]
      | _, _, _, some (r, _) =>
        let p := s.memPairOf r
        pack [(52, 12, s.memTemp r), (40, 12, p.a), (28, 12, p.b), (16, 12, p.forecast), (10, 2, p.stateA), (8, 2, p.stateB)]
      | _, _, _, _ => 0

/-- PRT (Table 18.13). -/
def State.readPrt (s : State) (o : Nat) : Nat :=
  let p := s.prt
  match o with
  | 0x00 => pack [(56, 8, p.result), (24, 32, s.blockLe 8 4), (8, 16, s.blockLe 18 2), (4, 3, p.scope),
      (2, 1, b2n (s.prtFlag 2)), (1, 1, b2n (s.prtFlag 1)), (0, 1, b2n (s.prtFlag 0))]
  | 0x08 => p.op
  | 0x10 => p.pkgAddr * 4096
  | 0x18 => p.pkgLen
  | 0x20 => s.fuses.serial
  | 0x28 => s.floor
  | _ => match inArray o 0x40 8 4, inArray o 0x1000 8 2048 with
    | some (i, _), _ => (p.nonce.map (fun b => leAt b (8 * i) 8)).getD 0
    | _, some (j, _) => s.blockLe (8 * j) 8
    | _, _ => 0

/-- Good panes of a region. -/
def State.regionPanes (s : State) (r : Nat) : Nat := ((coresOf r).map (fun n => goodPanesOf (s.fence n))).sum

/-- Unfenced cores of a region. -/
def State.regionCores (s : State) (r : Nat) : Nat := ((coresOf r).filter (fun n => !s.coreFenced n)).length

/-- `FLP.CORE[n]` (Table 1.13). -/
def CoreFence.word (e : CoreFence) : Nat :=
  pack [(40, 24, e.banks), (36, 4, e.tileCause), (32, 4, e.coreCause), (28, 4, e.pane1Cause), (24, 4, e.pane0Cause),
    (3, 1, b2n e.tile), (2, 1, b2n e.core), (1, 1, b2n e.pane1), (0, 1, b2n e.pane0)]

/-- FLP (Tables 1.6 to 1.14): 0 but for the version before publication (R19). -/
def State.readFlp (s : State) (o : Nat) : Nat :=
  let f := s.flp
  if !f.valid then (if o = 0 then 1 * 2 ^ 48 else 0)
  else match o with
    | 0x00 => pack [(48, 16, 1), (40, 8, s.fuses.grade), (0, 1, 1)]
    | 0x08 => f.gen
    | 0x10 => pack [(48, 16, s.goodPanes), (32, 16, s.goodCores), (16, 16, s.fencedTiles), (0, 16, s.fencedBanks)]
    | 0x18 => s.fuses.shipped
    | 0x20 => pack [(32, 32, f.total), (0, 6, f.total % 64)]
    | _ => match inArray o 0x1000 8 16, inArray o 0x2000 16 64, inArray o 0x10000 8 512, inArray o 0x20000 8 12288 with
      | some (i, _), _, _, _ => nth 0 s.fuses.sentinels i
      | _, some (j, 0), _, _ => (mapGet delta0 f.deltas j).tc
      | _, some (j, _), _, _ =>
        let d := mapGet delta0 f.deltas j
        pack [(32, 32, d.gen), (28, 4, d.kind), (24, 4, d.cause), (19, 5, d.sub), (0, 14, d.unit)]
      | _, _, some (r, _), _ =>
        pack [(15, 1, b2n (s.fuses.sentinels.contains (columnOf r))), (14, 1, b2n (s.dark r)), (8, 6, s.regionPanes r),
          (0, 5, s.regionCores r)]
      | _, _, _, some (n, _) => (s.fence n).word
      | _, _, _, _ => 0

/-- `MEM.TILE[n]` (Table 6.17). -/
def State.readTileWord (s : State) (n : Nat) : Nat :=
  let t := s.tileRec n
  pack [(40, 24, t.corrected), (24, 16, t.uncorrectable), (16, 8, t.hardWords), (8, 8, t.maxOwed),
    (0, 2, if s.tileFenced n then 3 else t.refresh)]

/-- MEM (Tables 6.10 to 6.17): 0 until step 5 (R420), but for the two settings. -/
def State.readMem (s : State) (o : Nat) : Nat :=
  let m := s.mem
  let any (p : Tile → Bool) : Bool := m.tiles.any (fun e => !s.tileFenced e.1 && p e.2)
  match o with
  | 0x00 => pack [(4, 1, b2n (any (fun t => decide (t.refresh = 2)))), (3, 1, b2n (any (fun t => decide (t.refresh ≠ 0)))),
      (2, 1, b2n (m.ready && m.scrubEnable && s.powered)), (1, 1, b2n m.selftestDone), (0, 1, b2n m.ready)]
  | 0x08 => pack [(32, 32, s.scrubPasses), (8, 1, b2n m.scrubEnable), (0, 8, m.scrubPeriod)]
  | 0x10 => pack [(32, 16, m.ceWindow), (0, 24, m.ceCount)]
  | 0x18 => pack [(32, 32, m.corrected), (16, 16, m.busErrors), (0, 16, m.hardWords)]
  | 0x20 => m.berrAddr
  | 0x28 => pack [(56, 8, m.berrRequester), (40, 16, m.berrSource), (36, 4, m.berrCause), (32, 1, b2n m.berrWrite),
      (0, 32, m.berrSyndrome)]
  | 0x30 => pack [(32, 32, m.narrowCount), (24, 8, m.narrowEntrance), (0, 16, m.narrowSource)]
  | 0x38 => m.narrowAddr
  | _ => match inArray o 0x10000 8 12288 with
    | some (n, _) => if m.ready then s.readTileWord n else 0
    | none => 0

/-- A word of a command slot as read (Tables 7.10 to 7.12). -/
def slotWord (x : Slot) (w : Nat) : Nat :=
  match w with
  | 0 => slotWord0 x
  | 8 => pack [(48, 16, x.listOff), (32, 16, x.tableOff), (16, 16, x.resultOff), (0, 16, x.resultLen)]
  | 16 => pack [(32, 32, x.entriesDone), (16, 16, x.resultUsed), (1, 1, b2n x.nan), (0, 1, b2n x.sat)]
  | _ => x.changedTc

/-- BNK (Tables 7.9 to 7.12). -/
def State.readBnk (s : State) (o : Nat) : Nat :=
  let b := s.bnk
  let u := s.unitOf b.selTile b.selBank
  match o with
  | 0x00 => pack [(8, 1, b2n b.imageWords), (0, 8, if b.imageWords then b.firstWord + b.words.length - 1 else 0x0F)]
  | 0x08 => pack [(5, 14, b.selTile), (0, 5, b.selBank)]
  | 0x10 => pack [(32, 32, b.done), (16, 16, b.refused), (0, 16, b.faulted)]
  | _ => match inArray o 0x100 32 8, inArray o 0x200 32 1, inArray o 0x1000 8 128 with
    | some (i, w), _, _ => slotWord (u.slot i) w
    | _, some (_, w), _ => slotWord (u.slot 6) w
    | _, _, some (k, _) => pack [(32, 32, (s.microWord (2 * k + 1)).getD 0), (0, 32, (s.microWord (2 * k)).getD 0)]
    | _, _, _ => 0

/-- DBG (Tables 20.5 to 20.7): 0 without an unlock of scope bit 0 (R421). -/
def State.readDbg (s : State) (o : Nat) : Nat :=
  if !s.dbgOpen then 0
  else match o with
    | 0x00 => s.dbgStatus
    | 0x08 => pack [(34, 14, s.dbg.core), (32, 2, s.dbg.slot), (0, 15, s.dbg.csBase)]
    | 0x10 => s.dbgSeq
    | _ => match inArray o 0x100 8 16, inArray o 0x1000 8 512 with
      | some (i, _), _ => s.dbgCtr i
      | _, some (k, _) => s.dbgCs k
      | _, _ => 0

/-- Table 20.4: the states in which a block (by its number in Table 20.2) reads its values; in the others it reads 0. -/
def blockReads (b : Nat) : List DevState :=
  match b with
  | 0x0 => [.rom, .staging, .ready, .checking, .running, .suspended, .halted]
  | 0x1 => [.rom, .staging, .ready, .checking, .running, .suspended, .halted]
  | 0x2 => [.rom, .staging, .ready, .checking, .running, .suspended, .halted]
  | 0xB => [.rom, .staging, .ready, .checking, .running, .suspended, .halted]
  | 0x3 => [.ready, .checking, .running, .suspended]
  | 0xF => [.ready, .checking, .running, .suspended]
  | 0x4 => [.staging, .ready, .checking, .running, .suspended]
  | 0x7 => [.staging, .ready, .checking, .running, .suspended]
  | 0x9 => [.staging, .ready, .checking, .running, .suspended]
  | 0xC => [.staging, .ready, .checking, .running, .suspended]
  | 0xD => [.staging, .ready, .checking, .running, .suspended]
  | 0x5 => [.rom, .staging, .ready, .checking, .running, .suspended]
  | 0x6 => [.rom, .staging, .ready, .checking, .running, .suspended]
  | 0x8 => [.rom, .staging, .ready, .checking, .running, .suspended]
  | 0xA => [.rom, .staging, .ready, .checking, .running, .suspended]
  | _ => []

/-- R414, R416, R417, R420: what the register at an 8-byte aligned BAR0 offset reads as. -/
def State.readReg (s : State) (off : Nat) : Nat :=
  let o := off % 2 ^ 20
  if !s.inStates (blockReads (off / 2 ^ 20)) || off % 8 ≠ 0 then 0
  else match off / 2 ^ 20 with
    | 0x0 => s.readDev o
    | 0x1 => s.readEvt o
    | 0x2 => s.readKpr o
    | 0x3 => s.readFrm o
    | 0x4 => s.readReq o
    | 0x5 => s.readHif o
    | 0x6 => s.readLnk o
    | 0x7 => s.readClk o
    | 0x8 => s.readPwr o
    | 0x9 => s.readThm o
    | 0xA => s.readPrt o
    | 0xB => s.readFlp o
    | 0xC => s.readMem o
    | 0xD => s.readBnk o
    | 0xF => s.readDbg o
    | _ => 0

/-- R415: the bytes of a read of any width at any offset, as 64-bit reads would hold them. -/
def State.readBytes0 (s : State) (off width : Nat) : List Nat :=
  (List.range width).map (fun i => field (s.readReg ((off + i) / 8 * 8)) (8 * ((off + i) % 8)) 8)

/-! ## Writes that have no row of their own -/

/-- R253: `DEV.IMAGE_BASE` and `DEV.IMAGE_LEN` take writes. -/
def State.imageOpen (s : State) : Bool :=
  s.dev.loadRun.isNone && ((decide (s.kpr.state = .ready) && s.dev.image.isNone) || decide (s.kpr.state = .suspended))

/-- R253: `DEV.IMAGE_BASE`. -/
def writeImageBase (v : Nat) (s : State) : State :=
  regWrite 0x18 v 0x3FFF 0 (fun s =>
    if !s.imageOpen then refuse 0x18 v 0x0122 s
    else if coreCount ≤ v then refuse 0x18 v 0x0123 s
    else { s with dev := { s.dev with baseTile := v } }) s

/-- R253: `DEV.IMAGE_LEN`. -/
def writeImageLen (v : Nat) (s : State) : State :=
  regWrite 0x20 v 0x7FFFFFFF 0 (fun s =>
    if !s.imageOpen then refuse 0x20 v 0x0122 s else { s with dev := { s.dev with imageLen := v } }) s

/-- R395: `PRT.PKG_ADDR`. -/
def writePkgAddr (v : Nat) (s : State) : State :=
  regWrite 0xA00010 v (2 ^ 64 - 4096) 0 (fun s =>
    if !s.prtOpen then refuse 0xA00010 v 0x0120 s else { s with prt := { s.prt with pkgAddr := v / 4096 } }) s

/-- R395: `PRT.PKG_LEN`. -/
def writePkgLen (v : Nat) (s : State) : State :=
  regWrite 0xA00018 v 0x7FFF 0 (fun s =>
    if !s.prtOpen then refuse 0xA00018 v 0x0120 s else { s with prt := { s.prt with pkgLen := v } }) s

/-- R293: an entry of the MSI-X table, in the layout of the PCI Express specification: the message address, then the
data and the vector control, whose bit 0 masks. Unmasking signals a pending vector. -/
def writeMsix (v w x : Nat) (s : State) : State :=
  if !s.hostUp || s.inStates [.halted] then s
  else if w = 0 then { s with hif := { s.hif with msixAddr := mapSet 0 s.hif.msixAddr v (x / 4 * 4) } }
  else
    let h := { s.hif with
      msixData := mapSet 0 s.hif.msixData v (field x 0 32),
      msixUnmask := mapSet 0 s.hif.msixUnmask v (1 - field x 32 1) }
    sendPending v { s with hif := h }

/-! ## The write of any register -/

/-- Bits of a register that a 32-bit write of the other half carries over as they stand (R414); every other bit of that
half is written as 0. A register that is not named holds nothing beside its writable fields. -/
def keepMask (off : Nat) : Nat :=
  if off = 0x600020 then 2 ^ 32 + 0xFFFF
  else if off = 0x800000 ∨ off = 0x800008 then 0xFFFF
  else if off = 0xC00008 then 0x1FF
  else if off = 0xD00200 then 0xFFFCFF00FFFF
  else if off = 0xF00000 then 0
  else if 0x500100 ≤ off ∧ off < 0x500120 then 0x100
  else if 0x601000 ≤ off ∧ off < 0x601400 then 3
  else 2 ^ 64 - 1

/-- The blocks whose array registers take writes. -/
def writeArrays (off v : Nat) (s : State) : State :=
  match inArray off 0x100140 8 8, inArray off 0x401000 32 256, inArray off 0x500100 8 4, inArray off 0x508000 16 64 with
  | some (i, _), _, _, _ => writeRegionSel i v s
  | _, some (q, w), _, _ =>
    if w = 0 then writeQpBase q 0 v s else if w = 8 then writeQpBase q 1 v s else if w = 16 then writeQp2 q v s
    else if !s.hostUp then s else refuse off v 0x0123 s
  | _, _, some (i, _), _ => writeWin i v s
  | _, _, _, some (i, w) => writeMsix i w v s
  | _, _, _, _ => match inArray off 0x600040 8 4, inArray off 0x601000 32 32, inArray off 0x640000 8 32768 with
    | some (i, _), _, _ => writeRaccData i v s
    | _, some (l, w), _ => if w = 8 then writeLinkWord1 l v s else if !s.hostUp then s else refuse off v 0x0123 s
    | _, _, some (j, _) => writeFwd j v s
    | _, _, _ => if !s.hostUp || off = 0x509000 then s else refuse off v 0x0123 s

/-- A 64-bit write of the register at an aligned offset: under its own rules, or, for a register without a writable
field and an offset that no table lists, ignored with 0x0123 (R246, R417). The PBA ignores writes. -/
def writeReg (off v : Nat) (s : State) : State :=
  match off with
  | 0x000000 => writeDevCtrl v s
  | 0x000018 => writeImageBase v s
  | 0x000020 => writeImageLen v s
  | 0x100000 => writeRingBase v s
  | 0x100008 => writeEvtCtrl v s
  | 0x100010 => writeEvtHead v s
  | 0x100100 => writeReportBase v s
  | 0x100108 => writeReportCtrl v s
  | 0x100118 => writeAmaxSel v s
  | 0x200000 => writeKprCmd v s
  | 0x200010 => writeFwAddr v s
  | 0x200018 => writeFwLen v s
  | 0x200020 => writeLicAddr v s
  | 0x200028 => writeLicLen v s
  | 0x300028 => writeStart v s
  | 0x300030 => writeLatch v s
  | 0x300038 => writeNext v s
  | 0x500008 => writeBar2Base v s
  | 0x600008 => writeLnkDevice v s
  | 0x600020 => writeRaccCmd v s
  | 0x600028 => writeRaccAddr v s
  | 0x700010 => writeClkLimit v s
  | 0x700018 => writeClkNext v s
  | 0x800000 => writeCap 0 v s
  | 0x800008 => writeCap 1 v s
  | 0x900010 => writeCoolBase v s
  | 0xA00008 => writePrtCmd v s
  | 0xA00010 => writePkgAddr v s
  | 0xA00018 => writePkgLen v s
  | 0xC00008 => writeScrub v s
  | 0xC00010 => writeCeThresh v s
  | 0xD00008 => writeBnkSel v s
  | 0xD00200 => writeHcmd0 v s
  | 0xD00208 => writeHcmd1 v s
  | 0xF00000 => writeDbgStatus v s
  | 0xF00008 => writeDbgSel v s
  | _ => writeArrays off v s

/-- R414: the 64-bit value that a 32-bit write stands for. -/
def State.merged (s : State) (off v : Nat) : Nat :=
  let r := off / 8 * 8
  let kept := s.readReg r &&& keepMask r
  if off % 8 = 0 then kept / 2 ^ 32 * 2 ^ 32 + v else kept % 2 ^ 32 + v * 2 ^ 32

/-- R414, R415: a host write of BAR0. Offsets from 0x1000000 stand for the registers of the AER capability in configuration
space, which the host writes while the link is up (log 99). -/
def doRegisterWrite (off width v : Nat) (s : State) : State :=
  if 0x1000000 ≤ off then (if s.hif.linkUp then writeAer (off - 0x1000000) v s else s)
  else if !s.hostUp then s
  else if (width ≠ 4 && width ≠ 8) || off % width ≠ 0 then refuse off v 0 s
  else if width = 8 then writeReg off v s
  else writeReg (off / 8 * 8) (s.merged off (v % 2 ^ 32)) s

/-- R246, R304, R414 to R420: the offset, the width in bytes and the value written. -/
def execRegisterWrite (off width v : Nat) (s : State) : Host.Outcome State Fault Refusal :=
  .next (doRegisterWrite off width (v % 2 ^ 64) s)

end Sys2Proof.Machine
end

