-- ==== Sys2Proof/Machine/Stall.lean ====
section
/-! DEFINITION. Failing sash channels and banks (R140, R148), regions that go dark (R15, R334), and the answers to what
waits at them. -/
namespace Sys2Proof.Machine

/-! ## What waits at a tile (R148) -/

/-- Owner requests of a tile that are answered with fault 0x0A. -/
def failRequests (n : Nat) : List SashReq → State → State
  | [], s => s
  | q :: t, s =>
    match s.entryOf n q.uid with
    | none => failRequests n t s
    | some e => failRequests n t (faultEntry n e 0x0A s)

/-- The owner requests at a tile whose spans a test picks are answered; the others stay. -/
def failWaiting (n : Nat) (hit : Nat → Nat → Bool) (s : State) : State :=
  let gone := (s.tileRec n).queue.filter (fun q => hit q.addr q.len)
  failRequests n gone (setTile n (fun t => { t with queue := t.queue.filter (fun q => !hit q.addr q.len) }) s)

/-- The network requests that have reached a tile's arbiter and whose spans a test picks are answered. -/
def failPackets (n : Nat) (hit : Nat → Nat → Bool) (s : State) : State :=
  (s.net.packets.filter (fun p => decide (p.dst = n) && decide (p.arrived ≠ 0) && (p.kind == .read || p.kind == .write)
    && hit p.addr p.len)).foldl (fun s p => answer p .error [] (some .fenced) (takePacket p.id s)) s

/-- The word a walk of region `r` reads. -/
def State.walkAt (s : State) (r : Nat) (x : Walk) : Nat := (nth {} (s.walkerOf r).lanes x.lane).ptBase + 32 * x.word

/-- The walks whose reads wait at a tile end; their pieces fault. -/
def failWalks (n : Nat) (hit : Nat → Nat → Bool) (s : State) : State :=
  let r := regionOf n
  let gone (x : Walk) : Bool := x.started && decide (tileOf (s.walkAt r x) = n) && hit (s.walkAt r x) 32
  let l := (s.walkerOf r).walks.filter gone
  failPieces 0x0A (l.flatMap (fun x => x.pieces))
    (setWalker r (fun w => { w with walks := startWalks (w.walks.filter (fun x => !gone x)) }) s)

/-- First byte and length of a request that a tile holds. -/
def HeldReq.span : HeldReq → Nat × Nat
  | .bar2Read a len _ => (a, len)
  | .bar2Write a bytes _ => (a, bytes.length)
  | .cxlRead a _ => (a, 64)
  | .cxlWrite a _ _ => (a, 64)
  | .peerWrite _ f _ => (f.addr, f.len)
  | .peerRead _ f _ => (f.addr, f.len)

/-- A request that a tile held is served; at a fenced tile or bank it meets the bus error of its requester (Table 6.6). -/
def serveHeld (q : HeldReq) (s : State) : State :=
  match q with
  | .bar2Read a len p => serveBar2Read a len p s
  | .bar2Write a bytes p => serveBar2Write a bytes p s
  | .cxlRead a p => serveCxlRead a p s
  | .cxlWrite _ parts p => emit .done (writeParts p parts s)
  | .peerWrite l f p => answerWrite l p f s
  | .peerRead l f p => performRead l p f s

/-- The requests a tile holds whose spans a test picks are served, oldest first. -/
def serveHolds (n : Nat) (hit : Nat → Nat → Bool) (s : State) : State :=
  let pick (q : HeldReq) : Bool := hit q.span.1 q.span.2
  let l := (s.tileRec n).holds.filter pick
  l.foldl (fun s q => serveHeld q s) (setTile n (fun t => { t with holds := t.holds.filter (fun q => !pick q) }) s)

/-- Every span. -/
def anySpan (_a _len : Nat) : Bool := true

/-- Some byte of a span lies in bank `b` of its tile. -/
def inBank (b a len : Nat) : Bool := decide (bankOf a ≤ b) && decide (b ≤ bankOf (a + (len - 1)))

/-- R148: a fence takes effect: what waits at the tile, in the spans a test picks, is answered now. -/
def answerWaiting (n : Nat) (hit : Nat → Nat → Bool) (s : State) : State :=
  serveHolds n hit (failWalks n hit (failPackets n hit (failWaiting n hit s)))

/-! ## Fences (R15, R140, R148, R334) -/

/-- R168: the commands of a fenced tile's banks end. -/
def failBanks (n : Nat) (s : State) : State := (List.range bankCount).foldl (fun s b => failBank n b s) s

/-- R140, R148: a tile is fenced: its banks' commands end (R168) and what waits at it is answered. -/
def fenceTile (n cause : Nat) (s : State) : State :=
  answerWaiting n anySpan (setTile n (fun t => { t with retraining := false })
    (failBanks n (fenceUnits cause [{ kind := 3, unit := n }] s)))

/-- R15, R168: a region goes dark: its cores and tiles are fenced, the commands of its banks end, what its own cores wait
for at its tiles goes with them, and what others wait for there is answered. -/
def goDark (r : Nat) (s : State) : State :=
  (coresOf r).foldl (fun s n =>
    answerWaiting n anySpan (setTile n (fun t => { t with queue := [], retraining := false }) (failBanks n s)))
    (fenceRegion r (darken r s))

/-- R334, Table 15.4: a phase of a group fails. -/
def doPhaseFail (r phase : Nat) (s : State) : State :=
  if s.powered && !bit (s.groupOf r).phasesFailed phase then
    let failed := (s.groupOf r).phasesFailed + 2 ^ phase
    let s := setGroup r (fun g =>
      { g with phasesFailed := failed, dutyLimited := g.dutyLimited || decide (popcount 4 failed = 2) }) s
    let s := raise 0x005A 1 r [failed] s
    if 3 ≤ popcount 4 failed && !s.dark r then goDark r s else s
  else s

/-- R334. -/
def execPhaseFail (r phase : Nat) (s : State) : Host.Outcome State Fault Refusal :=
  onUnit (r < regionCount ∧ phase < 4) (doPhaseFail r phase s)

/-- R148: a sash retraining ends. On success the tile serves what it holds; on failure it is fenced with cause 0x5. -/
def doSashRetrainDone (n : Nat) (ok : Bool) (s : State) : State :=
  if s.tileLive n && (s.tileRec n).retraining then
    let s := setTile n (fun t => { t with retraining := false }) s
    if ok then serveHolds n anySpan (raise 0x0035 0 n [] s) else fenceTile n 5 s
  else s

/-- R148. -/
def execSashRetrainDone (n : Nat) (ok : Bool) (s : State) : Host.Outcome State Fault Refusal :=
  onUnit (n < coreCount) (doSashRetrainDone n ok s)

/-- R148: a bank does not complete a granted access within 2 µs: it is fenced with cause 0x4. -/
def doBankAccessTimeout (n b : Nat) (s : State) : State :=
  if s.bankLive n b then answerWaiting n (inBank b) (fenceBank n b 4 s) else s

/-- R148. -/
def execBankAccessTimeout (n b : Nat) (s : State) : Host.Outcome State Fault Refusal :=
  onUnit (n < coreCount ∧ b < bankCount) (doBankAccessTimeout n b s)

/-- R140: four datapath parity errors within some 1 s fence the tile with cause 0x3. -/
def doDatapathParityFence (n : Nat) (s : State) : State :=
  if s.tileLive n && (s.tileRec n).parityDue then fenceTile n 3 s else s

/-- R140. -/
def execDatapathParityFence (n : Nat) (s : State) : Host.Outcome State Fault Refusal :=
  onUnit (n < coreCount) (doDatapathParityFence n s)

end Sys2Proof.Machine
end

