-- ==== Sys2Proof/Machine/Dispatch.lean ====
section
/-! DEFINITION. One arm for each command: a direct call of its meaning. -/
namespace Sys2Proof.Machine

/-- The effect of a command on everything but the queue. -/
def exec (i : Instr) (s : State) : Host.Outcome State Fault Refusal :=
  match i with
  | .powerOn osc maddr => Sys2Proof.Machine.execPowerOn osc maddr s
  | .lossOfPower => Sys2Proof.Machine.execLossOfPower s
  | .inputWarnBand v => Sys2Proof.Machine.execInputWarnBand v s
  | .vpmShutdown => Sys2Proof.Machine.execVpmShutdown s
  | .stage1ConverterFail j => Sys2Proof.Machine.execStage1ConverterFail j s
  | .railOutOfRegulation k => Sys2Proof.Machine.execRailOutOfRegulation k s
  | .perstNAssert => Sys2Proof.Machine.execPerstNAssert s
  | .perstNRelease => Sys2Proof.Machine.execPerstNRelease s
  | .oscWaitExpiry => Sys2Proof.Machine.execOscWaitExpiry s
  | .systemPllLockTimeout => Sys2Proof.Machine.execSystemPllLockTimeout s
  | .systemPllLock => Sys2Proof.Machine.execSystemPllLock s
  | .hotReset => Sys2Proof.Machine.execHotReset s
  | .fatalCondition cause => Sys2Proof.Machine.execFatalCondition cause s
  | .haltHoldEnd => Sys2Proof.Machine.execHaltHoldEnd s
  | .keeperWatchdogExpiry => Sys2Proof.Machine.execKeeperWatchdogExpiry s
  | .sillResetRequest sill => Sys2Proof.Machine.execSillResetRequest sill s
  | .refclkLost what host => Sys2Proof.Machine.execRefclkLost what host s
  | .keeperGo => Sys2Proof.Machine.execKeeperGo s
  | .firmwareVerified r => Sys2Proof.Machine.execFirmwareVerified r s
  | .regionGeneratorLockTimeout r => Sys2Proof.Machine.execRegionGeneratorLockTimeout r s
  | .hingeFifoSettleTimeout => Sys2Proof.Machine.execHingeFifoSettleTimeout s
  | .loadImage => Sys2Proof.Machine.execLoadImage s
  | .loadVerified sigOk flips bad => Sys2Proof.Machine.execLoadVerified sigOk flips bad s
  | .unloadImage => Sys2Proof.Machine.execUnloadImage s
  | .enableImage => Sys2Proof.Machine.execEnableImage s
  | .checkComplete hops fibre f => Sys2Proof.Machine.execCheckComplete hops fibre f s
  | .suspendImage => Sys2Proof.Machine.execSuspendImage s
  | .frameEntry paths => Sys2Proof.Machine.execFrameEntry paths s
  | .slatBoundary losses drained => Sys2Proof.Machine.execSlatBoundary losses drained s
  | .contextSwitchDone n parity flips bad => Sys2Proof.Machine.execContextSwitchDone n parity flips bad s
  | .planPoint f => Sys2Proof.Machine.execPlanPoint f s
  | .frameEnd losses drained flips bad => Sys2Proof.Machine.execFrameEnd losses drained flips bad s
  | .confirmDeadline => Sys2Proof.Machine.execConfirmDeadline s
  | .statusRecordReceive b => Sys2Proof.Machine.execStatusRecordReceive b s
  | .periodArm v => Sys2Proof.Machine.execPeriodArm v s
  | .periodWithdraw v => Sys2Proof.Machine.execPeriodWithdraw v s
  | .limitWrite v => Sys2Proof.Machine.execLimitWrite v s
  | .limitArm v => Sys2Proof.Machine.execLimitArm v s
  | .limitWithdraw v => Sys2Proof.Machine.execLimitWithdraw v s
  | .capWrite which v => Sys2Proof.Machine.execCapWrite which v s
  | .coolBaseWrite v => Sys2Proof.Machine.execCoolBaseWrite v s
  | .scrubWrite v => Sys2Proof.Machine.execScrubWrite v s
  | .ceThreshWrite v => Sys2Proof.Machine.execCeThreshWrite v s
  | .bnkSelWrite v => Sys2Proof.Machine.execBnkSelWrite v s
  | .bnkHcmdGo v => Sys2Proof.Machine.execBnkHcmdGo v s
  | .qpEnable q v => Sys2Proof.Machine.execQpEnable q v s
  | .qpDisable q v => Sys2Proof.Machine.execQpDisable q v s
  | .sqTailDoorbell off width v => Sys2Proof.Machine.execSqTailDoorbell off width v s
  | .cqHeadDoorbell off width v => Sys2Proof.Machine.execCqHeadDoorbell off width v s
  | .openEntry q b => Sys2Proof.Machine.execOpenEntry q b s
  | .appendEntry q b => Sys2Proof.Machine.execAppendEntry q b s
  | .generateEntry q b => Sys2Proof.Machine.execGenerateEntry q b s
  | .forkEntry q b => Sys2Proof.Machine.execForkEntry q b s
  | .closeEntry q b => Sys2Proof.Machine.execCloseEntry q b s
  | .queryEntry q b => Sys2Proof.Machine.execQueryEntry q b s
  | .forkCopyDone child flips bad => Sys2Proof.Machine.execForkCopyDone child flips bad s
  | .laneFill late reads bad => Sys2Proof.Machine.execLaneFill late reads bad s
  | .poolSetStarved j => Sys2Proof.Machine.execPoolSetStarved j s
  | .reqCoalesceTimeout q => Sys2Proof.Machine.execReqCoalesceTimeout q s
  | .sqFetchRetry q => Sys2Proof.Machine.execSqFetchRetry q s
  | .descriptorDispatch n parity => Sys2Proof.Machine.execDescriptorDispatch n parity s
  | .loadDesc n looks => Sys2Proof.Machine.execLoadDesc n looks s
  | .storeDesc n looks parity => Sys2Proof.Machine.execStoreDesc n looks parity s
  | .send n parity => Sys2Proof.Machine.execSend n parity s
  | .recv n => Sys2Proof.Machine.execRecv n s
  | .matmul n p cycle blocks parity => Sys2Proof.Machine.execMatmul n p cycle blocks parity s
  | .convert n count parity => Sys2Proof.Machine.execConvert n count parity s
  | .gather n => Sys2Proof.Machine.execGather n s
  | .waitCounter n => Sys2Proof.Machine.execWaitCounter n s
  | .waitSlatStart n => Sys2Proof.Machine.execWaitSlatStart n s
  | .waitFrameOffset n => Sys2Proof.Machine.execWaitFrameOffset n s
  | .waitConfirm n => Sys2Proof.Machine.execWaitConfirm n s
  | .waitQuiesce n => Sys2Proof.Machine.execWaitQuiesce n s
  | .waitYield n => Sys2Proof.Machine.execWaitYield n s
  | .loop n => Sys2Proof.Machine.execLoop n s
  | .skip n parity => Sys2Proof.Machine.execSkip n parity s
  | .vecAdd n count parity => Sys2Proof.Machine.execVecAdd n count parity s
  | .vecSub n count parity => Sys2Proof.Machine.execVecSub n count parity s
  | .vecMul n count parity => Sys2Proof.Machine.execVecMul n count parity s
  | .vecMax n count parity => Sys2Proof.Machine.execVecMax n count parity s
  | .vecMin n count parity => Sys2Proof.Machine.execVecMin n count parity s
  | .vecAdds n count parity => Sys2Proof.Machine.execVecAdds n count parity s
  | .vecMuls n count parity => Sys2Proof.Machine.execVecMuls n count parity s
  | .vecExp n count parity => Sys2Proof.Machine.execVecExp n count parity s
  | .vecRcp n count parity => Sys2Proof.Machine.execVecRcp n count parity s
  | .vecRsqrt n count parity => Sys2Proof.Machine.execVecRsqrt n count parity s
  | .vecSigmoid n count parity => Sys2Proof.Machine.execVecSigmoid n count parity s
  | .vecRsum n count parity => Sys2Proof.Machine.execVecRsum n count parity s
  | .vecRmax n count parity => Sys2Proof.Machine.execVecRmax n count parity s
  | .vecRsumsq n count parity => Sys2Proof.Machine.execVecRsumsq n count parity s
  | .vecRargmax n count parity => Sys2Proof.Machine.execVecRargmax n count parity s
  | .vecRowsub n count parity => Sys2Proof.Machine.execVecRowsub n count parity s
  | .vecRowmul n count parity => Sys2Proof.Machine.execVecRowmul n count parity s
  | .vecCsum n count parity => Sys2Proof.Machine.execVecCsum n count parity s
  | .vecMaskge n count parity => Sys2Proof.Machine.execVecMaskge n count parity s
  | .vecMasklt n count parity => Sys2Proof.Machine.execVecMasklt n count parity s
  | .descriptorComplete n qi => Sys2Proof.Machine.execDescriptorComplete n qi s
  | .coreParityFence n => Sys2Proof.Machine.execCoreParityFence n s
  | .unitWatchdogExpiry n qi => Sys2Proof.Machine.execUnitWatchdogExpiry n qi s
  | .drainHalfDone n p held fa fb fd tail parity => Sys2Proof.Machine.execDrainHalfDone n p held fa fb fd tail parity s
  | .paneParityError n p => Sys2Proof.Machine.execPaneParityError n p s
  | .netRead id beats parity flips => Sys2Proof.Machine.execNetRead id beats parity flips s
  | .netWrite id beats parity => Sys2Proof.Machine.execNetWrite id beats parity s
  | .netSend id parity => Sys2Proof.Machine.execNetSend id parity s
  | .netReadData id => Sys2Proof.Machine.execNetReadData id s
  | .netAck id => Sys2Proof.Machine.execNetAck id s
  | .netError id => Sys2Proof.Machine.execNetError id s
  | .flitCreditReturn link vc => Sys2Proof.Machine.execFlitCreditReturn link vc s
  | .flitCrcError l again => Sys2Proof.Machine.execFlitCrcError l again s
  | .linkReplayLimit l => Sys2Proof.Machine.execLinkReplayLimit l s
  | .netRequestAged id => Sys2Proof.Machine.execNetRequestAged id s
  | .ownerSashRequest n beats parity store flips => Sys2Proof.Machine.execOwnerSashRequest n beats parity store flips s
  | .bankRefreshDue n b serving idled => Sys2Proof.Machine.execBankRefreshDue n b serving idled s
  | .tileTempSample n => Sys2Proof.Machine.execTileTempSample n s
  | .scrubRun n flips again parity => Sys2Proof.Machine.execScrubRun n flips again parity s
  | .sashStallTimeout n => Sys2Proof.Machine.execSashStallTimeout n s
  | .sashRetrainDone n ok => Sys2Proof.Machine.execSashRetrainDone n ok s
  | .bankAccessTimeout n b => Sys2Proof.Machine.execBankAccessTimeout n b s
  | .datapathParityFence n => Sys2Proof.Machine.execDatapathParityFence n s
  | .ceThreshold n => Sys2Proof.Machine.execCeThreshold n s
  | .bankCommandStart n b idle => Sys2Proof.Machine.execBankCommandStart n b idle s
  | .microNext n b parity flips => Sys2Proof.Machine.execMicroNext n b parity flips s
  | .microFetch n b parity flips => Sys2Proof.Machine.execMicroFetch n b parity flips s
  | .microFetchc n b parity flips => Sys2Proof.Machine.execMicroFetchc n b parity flips s
  | .microCopyout n b parity => Sys2Proof.Machine.execMicroCopyout n b parity s
  | .microPiece n b => Sys2Proof.Machine.execMicroPiece n b s
  | .microSegb n b => Sys2Proof.Machine.execMicroSegb n b s
  | .microOut n b parity => Sys2Proof.Machine.execMicroOut n b parity s
  | .microClear n b => Sys2Proof.Machine.execMicroClear n b s
  | .microJump n b => Sys2Proof.Machine.execMicroJump n b s
  | .microDone n b => Sys2Proof.Machine.execMicroDone n b s
  | .microSelop n b => Sys2Proof.Machine.execMicroSelop n b s
  | .reservedMicroOp n b => Sys2Proof.Machine.execReservedMicroOp n b s
  | .microOpTimeout n b => Sys2Proof.Machine.execMicroOpTimeout n b s
  | .hostCommandTimeout n b => Sys2Proof.Machine.execHostCommandTimeout n b s
  | .bankUnitParityFence n b => Sys2Proof.Machine.execBankUnitParityFence n b s
  | .pageWalkDone r lane word cycles parity flips => Sys2Proof.Machine.execPageWalkDone r lane word cycles parity flips s
  | .bar2Read off len flips parity => Sys2Proof.Machine.execBar2Read off len flips parity s
  | .bar2Write off bytes allEnabled parity => Sys2Proof.Machine.execBar2Write off bytes allEnabled parity s
  | .memrd hpa flips parity => Sys2Proof.Machine.execMemrd hpa flips parity s
  | .memrddata hpa flips parity => Sys2Proof.Machine.execMemrddata hpa flips parity s
  | .memwr hpa bytes poison parity => Sys2Proof.Machine.execMemwr hpa bytes poison parity s
  | .memwrptl hpa bytes mask poison parity => Sys2Proof.Machine.execMemwrptl hpa bytes mask poison parity s
  | .memspecrd hpa => Sys2Proof.Machine.execMemspecrd hpa s
  | .hdmDecoderCommit j hpa dpa size ways lock => Sys2Proof.Machine.execHdmDecoderCommit j hpa dpa size ways lock s
  | .hdmDecoderUncommit j => Sys2Proof.Machine.execHdmDecoderUncommit j s
  | .toDevice j v => Sys2Proof.Machine.execToDevice j v s
  | .toHost j v => Sys2Proof.Machine.execToHost j v s
  | .bar2BaseWrite v => Sys2Proof.Machine.execBar2BaseWrite v s
  | .poisonedTlp bar off => Sys2Proof.Machine.execPoisonedTlp bar off s
  | .busMasterEnableChange on => Sys2Proof.Machine.execBusMasterEnableChange on s
  | .d3hotEntry => Sys2Proof.Machine.execD3hotEntry s
  | .d0Return => Sys2Proof.Machine.execD0Return s
  | .hostReadFailed r e => Sys2Proof.Machine.execHostReadFailed r e s
  | .doeDiscovery j ty len => Sys2Proof.Machine.execDoeDiscovery j ty len s
  | .cdatRead j ty len => Sys2Proof.Machine.execCdatRead j ty len s
  | .doeAbort => Sys2Proof.Machine.execDoeAbort s
  | .getIdentity => Sys2Proof.Machine.execGetIdentity s
  | .getCert j => Sys2Proof.Machine.execGetCert j s
  | .getReport nonce => Sys2Proof.Machine.execGetReport nonce s
  | .getProtection => Sys2Proof.Machine.execGetProtection s
  | .identifyMemoryDevice => Sys2Proof.Machine.execIdentifyMemoryDevice s
  | .getSupportedLogs => Sys2Proof.Machine.execGetSupportedLogs s
  | .getLog off len => Sys2Proof.Machine.execGetLog off len s
  | .getEventRecords => Sys2Proof.Machine.execGetEventRecords s
  | .clearEventRecords handles => Sys2Proof.Machine.execClearEventRecords handles s
  | .getHealthInfo => Sys2Proof.Machine.execGetHealthInfo s
  | .unsupportedMailboxOpcode op => Sys2Proof.Machine.execUnsupportedMailboxOpcode op s
  | .nonceRequest => Sys2Proof.Machine.execNonceRequest s
  | .protectionChange => Sys2Proof.Machine.execProtectionChange s
  | .debugUnlock => Sys2Proof.Machine.execDebugUnlock s
  | .prtCommandDone readsOk pkg sigA sigB storeOk => Sys2Proof.Machine.execPrtCommandDone readsOk pkg sigA sigB storeOk s
  | .lnkDeviceWrite v => Sys2Proof.Machine.execLnkDeviceWrite v s
  | .lnkFwdWrite j v => Sys2Proof.Machine.execLnkFwdWrite j v s
  | .quiesceSet l => Sys2Proof.Machine.execQuiesceSet l s
  | .quiesceClear l => Sys2Proof.Machine.execQuiesceClear l s
  | .datelineWrite l on => Sys2Proof.Machine.execDatelineWrite l on s
  | .raccRead peer => Sys2Proof.Machine.execRaccRead peer s
  | .raccWrite peer => Sys2Proof.Machine.execRaccWrite peer s
  | .raccTimeout => Sys2Proof.Machine.execRaccTimeout s
  | .linkTrained l lanes neighbour lengthM light => Sys2Proof.Machine.execLinkTrained l lanes neighbour lengthM light s
  | .linkTrainRetry l light => Sys2Proof.Machine.execLinkTrainRetry l light s
  | .laneDrop l j uncorrectable corrected => Sys2Proof.Machine.execLaneDrop l j uncorrectable corrected s
  | .laneAdd l j => Sys2Proof.Machine.execLaneAdd l j s
  | .laserFail k w => Sys2Proof.Machine.execLaserFail k w s
  | .spareLaserInService k w => Sys2Proof.Machine.execSpareLaserInService k w s
  | .laserAged k w => Sys2Proof.Machine.execLaserAged k w s
  | .cartridgeLeverOpen k => Sys2Proof.Machine.execCartridgeLeverOpen k s
  | .oviWriteFlit l f parity => Sys2Proof.Machine.execOviWriteFlit l f parity s
  | .oviReadFlit l f parity flips => Sys2Proof.Machine.execOviReadFlit l f parity flips s
  | .oviReadDataFlit l f => Sys2Proof.Machine.execOviReadDataFlit l f s
  | .oviAckFlit l f parity => Sys2Proof.Machine.execOviAckFlit l f parity s
  | .oviStatusFlit l f => Sys2Proof.Machine.execOviStatusFlit l f s
  | .oviIdleFlit l f => Sys2Proof.Machine.execOviIdleFlit l f s
  | .oviFlitError l sent => Sys2Proof.Machine.execOviFlitError l sent s
  | .oviReplayLimit l => Sys2Proof.Machine.execOviReplayLimit l s
  | .peerRequestTimeout endpoint tag parity => Sys2Proof.Machine.execPeerRequestTimeout endpoint tag parity s
  | .creditStall l scheduled => Sys2Proof.Machine.execCreditStall l scheduled s
  | .timingSymbolSend l => Sys2Proof.Machine.execTimingSymbolSend l s
  | .timingSymbol l symTc master depth phase back => Sys2Proof.Machine.execTimingSymbol l symTc master depth phase back s
  | .alignmentTimeout => Sys2Proof.Machine.execAlignmentTimeout s
  | .sustainedDroop r => Sys2Proof.Machine.execSustainedDroop r s
  | .generatorLockLost r => Sys2Proof.Machine.execGeneratorLockLost r s
  | .fallbackSwitch r => Sys2Proof.Machine.execFallbackSwitch r s
  | .divisorStep r => Sys2Proof.Machine.execDivisorStep r s
  | .phaseFail r phase => Sys2Proof.Machine.execPhaseFail r phase s
  | .vsensorExclude r k => Sys2Proof.Machine.execVsensorExclude r k s
  | .shuntFire r => Sys2Proof.Machine.execShuntFire r s
  | .bondSample r vOut vMin cur => Sys2Proof.Machine.execBondSample r vOut vMin cur s
  | .bondSuspect r => Sys2Proof.Machine.execBondSuspect r s
  | .peakLimiterEngage measure value => Sys2Proof.Machine.execPeakLimiterEngage measure value s
  | .peakLimiterRelease power => Sys2Proof.Machine.execPeakLimiterRelease power s
  | .shutterRampDone r => Sys2Proof.Machine.execShutterRampDone r s
  | .tempSample t => Sys2Proof.Machine.execTempSample t s
  | .sensorSuspect mem r => Sys2Proof.Machine.execSensorSuspect mem r s
  | .sensorFail cls u k => Sys2Proof.Machine.execSensorFail cls u k s
  | .tempTrip cls u => Sys2Proof.Machine.execTempTrip cls u s
  | .holdRelease cls u => Sys2Proof.Machine.execHoldRelease cls u s
  | .modelUpdate powers => Sys2Proof.Machine.execModelUpdate powers s
  | .avgSample power voltage current peak rails => Sys2Proof.Machine.execAvgSample power voltage current peak rails s
  | .estimatorSecond measured estimate => Sys2Proof.Machine.execEstimatorSecond measured estimate s
  | .coolingEstimate => Sys2Proof.Machine.execCoolingEstimate s
  | .evtEnable v => Sys2Proof.Machine.execEvtEnable v s
  | .evtDisable v => Sys2Proof.Machine.execEvtDisable v s
  | .evtHeadWrite v => Sys2Proof.Machine.execEvtHeadWrite v s
  | .evtCoalesceTimeout => Sys2Proof.Machine.execEvtCoalesceTimeout s
  | .reportDone => Sys2Proof.Machine.execReportDone s
  | .mctpControlMessage bus cmd data => Sys2Proof.Machine.execMctpControlMessage bus cmd data s
  | .getSensorReading bus id => Sys2Proof.Machine.execGetSensorReading bus id s
  | .setNumericEffecterValue bus id v => Sys2Proof.Machine.execSetNumericEffecterValue bus id v s
  | .setEventReceiver bus receiver polls => Sys2Proof.Machine.execSetEventReceiver bus receiver polls s
  | .i3cDynamicAddress a => Sys2Proof.Machine.execI3cDynamicAddress a s
  | .dbgSelWrite v => Sys2Proof.Machine.execDbgSelWrite v s
  | .dbgStatusClear v => Sys2Proof.Machine.execDbgStatusClear v s
  | .registerWrite off width v => Sys2Proof.Machine.execRegisterWrite off width v s
  | .bringUpComplete cores panes => Sys2Proof.Machine.execBringUpComplete cores panes s
  | .neighbourIdAnnounce l neighbour => Sys2Proof.Machine.execNeighbourIdAnnounce l neighbour s
  | .handoverComplete j => Sys2Proof.Machine.execHandoverComplete j s
  | .pcieLinkUp speed width mode => Sys2Proof.Machine.execPcieLinkUp speed width mode s
  | .inputWarnLeave v => Sys2Proof.Machine.execInputWarnLeave v s
  | .dbgCsRead k parity => Sys2Proof.Machine.execDbgCsRead k parity s

end Sys2Proof.Machine
end

