-- ==== Sys2Proof/WellFormed.lean ====
section
/-! DEFINITION. Which commands can exist: every unit that an operand names is one the device has. A command that is not
well-formed stops with `Fault.noSuchUnit` and nothing else does. Operands that carry values are taken within their widths
and need no check (log 53). -/
namespace Sys2Proof
open Sys2Proof.Machine

/-- The units that the operands name exist. -/
def Instr.wf (i : Instr) : Bool :=
  match i with
  | .powerOn _ _ => true
  | .lossOfPower => true
  | .inputWarnBand _ => true
  | .vpmShutdown => true
  | .stage1ConverterFail i => decide (i < 2)
  | .railOutOfRegulation k => decide (k < 4)
  | .perstNAssert => true
  | .perstNRelease => true
  | .oscWaitExpiry => true
  | .systemPllLockTimeout => true
  | .systemPllLock => true
  | .hotReset => true
  | .fatalCondition cause => decide (1 ≤ cause ∧ cause ≤ 7)
  | .haltHoldEnd => true
  | .keeperWatchdogExpiry => true
  | .sillResetRequest sill => decide (sill < 4)
  | .refclkLost what _ => decide (what < 4)
  | .keeperGo => true
  | .firmwareVerified _ => true
  | .regionGeneratorLockTimeout r => decide (r < regionCount)
  | .hingeFifoSettleTimeout => true
  | .loadImage => true
  | .loadVerified _ _ _ => true
  | .unloadImage => true
  | .enableImage => true
  | .checkComplete _ _ _ => true
  | .suspendImage => true
  | .frameEntry _ => true
  | .slatBoundary _ _ => true
  | .contextSwitchDone n _ _ _ => decide (n < coreCount)
  | .planPoint _ => true
  | .frameEnd _ _ _ _ => true
  | .confirmDeadline => true
  | .statusRecordReceive _ => true
  | .periodArm _ => true
  | .periodWithdraw _ => true
  | .limitWrite _ => true
  | .limitArm _ => true
  | .limitWithdraw _ => true
  | .capWrite which _ => decide (which < 2)
  | .coolBaseWrite _ => true
  | .scrubWrite _ => true
  | .ceThreshWrite _ => true
  | .bnkSelWrite _ => true
  | .bnkHcmdGo _ => true
  | .qpEnable q _ => decide (q < 256)
  | .qpDisable q _ => decide (q < 256)
  | .sqTailDoorbell _ _ _ => true
  | .cqHeadDoorbell _ _ _ => true
  | .openEntry q _ => decide (q < 256)
  | .appendEntry q _ => decide (q < 256)
  | .generateEntry q _ => decide (q < 256)
  | .forkEntry q _ => decide (q < 256)
  | .closeEntry q _ => decide (q < 256)
  | .queryEntry q _ => decide (q < 256)
  | .forkCopyDone child _ _ => decide (child < 16384)
  | .laneFill _ _ _ => true
  | .poolSetStarved j => decide (j < 512)
  | .reqCoalesceTimeout q => decide (q < 256)
  | .sqFetchRetry q => decide (q < 256)
  | .descriptorDispatch n _ => decide (n < coreCount)
  | .loadDesc n _ => decide (n < coreCount)
  | .storeDesc n _ _ => decide (n < coreCount)
  | .send n _ => decide (n < coreCount)
  | .recv n => decide (n < coreCount)
  | .matmul n p _ _ _ => decide (n < coreCount ∧ p < 2)
  | .convert n _ _ => decide (n < coreCount)
  | .gather n => decide (n < coreCount)
  | .waitCounter n => decide (n < coreCount)
  | .waitSlatStart n => decide (n < coreCount)
  | .waitFrameOffset n => decide (n < coreCount)
  | .waitConfirm n => decide (n < coreCount)
  | .waitQuiesce n => decide (n < coreCount)
  | .waitYield n => decide (n < coreCount)
  | .loop n => decide (n < coreCount)
  | .skip n _ => decide (n < coreCount)
  | .vecAdd n _ _ => decide (n < coreCount)
  | .vecSub n _ _ => decide (n < coreCount)
  | .vecMul n _ _ => decide (n < coreCount)
  | .vecMax n _ _ => decide (n < coreCount)
  | .vecMin n _ _ => decide (n < coreCount)
  | .vecAdds n _ _ => decide (n < coreCount)
  | .vecMuls n _ _ => decide (n < coreCount)
  | .vecExp n _ _ => decide (n < coreCount)
  | .vecRcp n _ _ => decide (n < coreCount)
  | .vecRsqrt n _ _ => decide (n < coreCount)
  | .vecSigmoid n _ _ => decide (n < coreCount)
  | .vecRsum n _ _ => decide (n < coreCount)
  | .vecRmax n _ _ => decide (n < coreCount)
  | .vecRsumsq n _ _ => decide (n < coreCount)
  | .vecRargmax n _ _ => decide (n < coreCount)
  | .vecRowsub n _ _ => decide (n < coreCount)
  | .vecRowmul n _ _ => decide (n < coreCount)
  | .vecCsum n _ _ => decide (n < coreCount)
  | .vecMaskge n _ _ => decide (n < coreCount)
  | .vecMasklt n _ _ => decide (n < coreCount)
  | .descriptorComplete n qi => decide (n < coreCount ∧ qi < 6)
  | .coreParityFence n => decide (n < coreCount)
  | .unitWatchdogExpiry n qi => decide (n < coreCount ∧ qi < 6)
  | .drainHalfDone n p _ _ _ _ _ _ => decide (n < coreCount ∧ p < 2)
  | .paneParityError n p => decide (n < coreCount ∧ p < 2)
  | .netRead _ _ _ _ => true
  | .netWrite _ _ _ => true
  | .netSend _ _ => true
  | .netReadData _ => true
  | .netAck _ => true
  | .netError _ => true
  | .flitCreditReturn link vc => decide (portOrLink link ∧ vc < 4)
  | .flitCrcError l _ => decide (linkExists l)
  | .linkReplayLimit l => decide (linkExists l)
  | .netRequestAged _ => true
  | .ownerSashRequest n _ _ _ _ => decide (n < coreCount)
  | .bankRefreshDue n b _ _ => decide (n < coreCount ∧ b < bankCount)
  | .tileTempSample n => decide (n < coreCount)
  | .scrubRun n _ _ _ => decide (n < coreCount)
  | .sashStallTimeout n => decide (n < coreCount)
  | .sashRetrainDone n _ => decide (n < coreCount)
  | .bankAccessTimeout n b => decide (n < coreCount ∧ b < bankCount)
  | .datapathParityFence n => decide (n < coreCount)
  | .ceThreshold n => decide (n < coreCount)
  | .bankCommandStart n b _ => decide (n < coreCount ∧ b < bankCount)
  | .microNext n b _ _ => decide (n < coreCount ∧ b < bankCount)
  | .microFetch n b _ _ => decide (n < coreCount ∧ b < bankCount)
  | .microFetchc n b _ _ => decide (n < coreCount ∧ b < bankCount)
  | .microCopyout n b _ => decide (n < coreCount ∧ b < bankCount)
  | .microPiece n b => decide (n < coreCount ∧ b < bankCount)
  | .microSegb n b => decide (n < coreCount ∧ b < bankCount)
  | .microOut n b _ => decide (n < coreCount ∧ b < bankCount)
  | .microClear n b => decide (n < coreCount ∧ b < bankCount)
  | .microJump n b => decide (n < coreCount ∧ b < bankCount)
  | .microDone n b => decide (n < coreCount ∧ b < bankCount)
  | .microSelop n b => decide (n < coreCount ∧ b < bankCount)
  | .reservedMicroOp n b => decide (n < coreCount ∧ b < bankCount)
  | .microOpTimeout n b => decide (n < coreCount ∧ b < bankCount)
  | .hostCommandTimeout n b => decide (n < coreCount ∧ b < bankCount)
  | .bankUnitParityFence n b => decide (n < coreCount ∧ b < bankCount)
  | .pageWalkDone r lane _ _ _ _ => decide (r < regionCount ∧ lane < 16)
  | .bar2Read _ _ _ _ => true
  | .bar2Write _ _ _ _ => true
  | .memrd _ _ _ => true
  | .memrddata _ _ _ => true
  | .memwr _ _ _ _ => true
  | .memwrptl _ _ _ _ _ => true
  | .memspecrd _ => true
  | .hdmDecoderCommit i _ _ _ _ _ => decide (i < 4)
  | .hdmDecoderUncommit i => decide (i < 4)
  | .toDevice i _ => decide (i < 4)
  | .toHost i _ => decide (i < 4)
  | .bar2BaseWrite _ => true
  | .poisonedTlp bar _ => decide (bar = 0 ∨ bar = 2 ∨ bar = 4)
  | .busMasterEnableChange _ => true
  | .d3hotEntry => true
  | .d0Return => true
  | .hostReadFailed _ _ => true
  | .doeDiscovery _ _ _ => true
  | .cdatRead _ _ _ => true
  | .doeAbort => true
  | .getIdentity => true
  | .getCert _ => true
  | .getReport _ => true
  | .getProtection => true
  | .identifyMemoryDevice => true
  | .getSupportedLogs => true
  | .getLog _ _ => true
  | .getEventRecords => true
  | .clearEventRecords _ => true
  | .getHealthInfo => true
  | .unsupportedMailboxOpcode op => decide (¬ mailboxOpcodes.contains (op % 2 ^ 16))
  | .nonceRequest => true
  | .protectionChange => true
  | .debugUnlock => true
  | .prtCommandDone _ _ _ _ _ => true
  | .lnkDeviceWrite _ => true
  | .lnkFwdWrite j _ => decide (j < 32768)
  | .quiesceSet l => decide (l < 32)
  | .quiesceClear l => decide (l < 32)
  | .datelineWrite l _ => decide (l < 32)
  | .raccRead _ => true
  | .raccWrite _ => true
  | .raccTimeout => true
  | .linkTrained l _ _ _ _ => decide (l < 32)
  | .linkTrainRetry l _ => decide (l < 32)
  | .laneDrop l i _ _ => decide (l < 32 ∧ i < 16)
  | .laneAdd l i => decide (l < 32 ∧ i < 16)
  | .laserFail k w => decide (k < 4 ∧ w < 16)
  | .spareLaserInService k w => decide (k < 4 ∧ w < 16)
  | .laserAged k w => decide (k < 4 ∧ w < 16)
  | .cartridgeLeverOpen k => decide (k < 4)
  | .oviWriteFlit l _ _ => decide (l < 32)
  | .oviReadFlit l _ _ _ => decide (l < 32)
  | .oviReadDataFlit l _ => decide (l < 32)
  | .oviAckFlit l _ _ => decide (l < 32)
  | .oviStatusFlit l _ => decide (l < 32)
  | .oviIdleFlit l _ => decide (l < 32)
  | .oviFlitError l _ => decide (l < 32)
  | .oviReplayLimit l => decide (l < 32)
  | .peerRequestTimeout _ _ _ => true
  | .creditStall l _ => decide (l < 32)
  | .timingSymbolSend l => decide (l < 32)
  | .timingSymbol l _ _ _ _ _ => decide (l < 32)
  | .alignmentTimeout => true
  | .sustainedDroop r => decide (r < regionCount)
  | .generatorLockLost r => decide (r < regionCount)
  | .fallbackSwitch r => decide (r < regionCount)
  | .divisorStep r => decide (r < regionCount)
  | .phaseFail r phase => decide (r < regionCount ∧ phase < 4)
  | .vsensorExclude r k => decide (r < regionCount ∧ k < 4)
  | .shuntFire r => decide (r < regionCount)
  | .bondSample r _ _ _ => decide (r < regionCount)
  | .bondSuspect r => decide (r < regionCount)
  | .peakLimiterEngage measure _ => decide (1 ≤ measure ∧ measure ≤ 4)
  | .peakLimiterRelease _ => true
  | .shutterRampDone r => decide (r < regionCount)
  | .tempSample _ => true
  | .sensorSuspect _ r => decide (r < regionCount)
  | .sensorFail cls u k =>
    decide ((cls < 2 ∧ u < 512 ∧ k < 2) ∨ (cls = 2 ∧ u < 4 ∧ k < 16) ∨ (cls = 3 ∧ u = 0 ∧ k = 0))
  | .tempTrip cls u => decide ((cls < 2 ∧ u < 512) ∨ (cls = 2 ∧ u < 4))
  | .holdRelease cls u => decide ((cls < 2 ∧ u < 512) ∨ (cls = 2 ∧ u < 4))
  | .modelUpdate _ => true
  | .avgSample _ _ _ _ _ => true
  | .estimatorSecond _ _ => true
  | .coolingEstimate => true
  | .evtEnable _ => true
  | .evtDisable _ => true
  | .evtHeadWrite _ => true
  | .evtCoalesceTimeout => true
  | .reportDone => true
  | .mctpControlMessage bus _ _ => decide (bus < 3)
  | .getSensorReading bus _ => decide (bus < 3)
  | .setNumericEffecterValue bus _ _ => decide (bus < 3)
  | .setEventReceiver bus _ _ => decide (bus < 3)
  | .i3cDynamicAddress _ => true
  | .dbgSelWrite _ => true
  | .dbgStatusClear _ => true
  | .registerWrite _ _ _ => true
  | .bringUpComplete _ _ => true
  | .neighbourIdAnnounce l _ => decide (l < 32)
  | .handoverComplete i => decide (i < 4)
  | .pcieLinkUp speed width mode =>
    decide (1 ≤ speed ∧ speed ≤ 6 ∧ width ∈ [1, 2, 4, 8, 16] ∧ mode < 4 ∧ ((speed = 6) ↔ (mode = 1 ∨ mode = 3)))
  | .inputWarnLeave _ => true
  | .dbgCsRead k _ => decide (k < 512)

end Sys2Proof
end

