-- ==== Sys2Proof/Safety.lean ====
section
/-! DEFINITION. What the claims call a sound state and a safe run. -/
namespace Sys2Proof.Machine

/-- Every byte memory of the state is in canonical form: stacked memory and its check symbols, the core stores, the
protection store and what has been written to host memory. -/
def State.memoryOk (s : State) : Bool :=
  s.mem.dram.wf && s.mem.check.wf && s.cores.store.wf && s.prt.block.wf && s.hostMem.wf

/-- Where the frame cycle stands. -/
abbrev FrmBlk.cycle (f : FrmBlk) : FramePhase × Nat × Nat × Nat × Nat × Nat × Nat × Bool :=
  (f.phase, f.count, f.frameStart, f.period, f.slat, f.nextAt, f.nextNumber, f.planned)

/-- Table 17.2: a command may take the device from a state to a state, or leave it where it is. Every reset ends in ROM,
and every state but HALTED can meet a fatal condition. -/
def DevState.mayFollow (a b : DevState) : Bool :=
  decide (a = b) || decide (b = .rom) || decide (b = .halted) ||
    match a, b with
    | .rom, .staging => true
    | .staging, .ready => true
    | .ready, .checking => true
    | .suspended, .checking => true
    | .suspended, .ready => true
    | .checking, .running => true
    | .checking, .ready => true
    | .checking, .suspended => true
    | .running, .suspended => true
    | _, _ => false

/-- What outlives a whole-device reset (Table 17.9), in a device that is otherwise as State.reset has it; the keeper, the
rails and input, and the management endpoint are stated beside it. -/
def State.afterReset (s : State) : State :=
  { State.reset with
    fuses := s.fuses
    prt := { prtReset with block := s.prt.block, seqNo := s.prt.seqNo, certs := s.prt.certs }
    lnk := { lnkReset with carts := s.lnk.carts.map (fun c => { cart0 with present := c.present }) }
    pending := s.pending, out := s.out, fresh := s.fresh, hostMem := s.hostMem }

/-- A device that has lost its power: only the fuses, the protection block and which cartridges are inserted remain. -/
def State.unpowered (s : State) : State :=
  { s.afterReset with
    kpr := { kprReset with railsUp := false, boot := .unpowered }
    sup := { supReset with railsOk := 0, stage1Ok := 0, rails := List.replicate 4 {} } }

/-- The engine has taken the entry at the head of a queue pair. -/
def State.taken (s : State) (q : Nat) : State :=
  setQp q (fun p => { p with sqHead := (p.sqHead + 1) % p.size, fetchFailed := 0 }) s

/-- What a packet carries, beside where its flits stand. -/
def Packet.content (p : Packet) : Packet := { p with unsent := 0, hops := [], arrived := 0, done := 0 }

/-- The parts of the state that an operation may promise to leave alone. -/
structure Untouched where
  /-- Stacked memory and its check symbols. -/
  stacked : Bool
  /-- The core stores. -/
  store : Bool
  /-- The protection store's block. -/
  protection : Bool
  /-- The event ring and reports, the management endpoint, the pending MSI-X bits and what was written to host memory. -/
  reports : Bool
  /-- DEV.STATE. -/
  state : Bool
  /-- The time counter. -/
  tc : Bool
  /-- Where the frame cycle stands: phase, count, start, period, slat, the next frame and whether it is planned. -/
  cycle : Bool
  /-- The keeper, DEV.STATE and the pins. -/
  kpr : Bool
  /-- The floor plan. -/
  flp : Bool
  /-- The host interface beside the pending MSI-X bits. -/
  hif : Bool
  /-- DBG. -/
  dbg : Bool
  /-- Loading and enabling. -/
  dev : Bool
  /-- Frames and time. -/
  frm : Bool
  /-- The cores beside their stores. -/
  cores : Bool
  /-- The tiles and MEM beside the bytes. -/
  mem : Bool
  /-- The on-device network. -/
  net : Bool
  /-- The bank units. -/
  bnk : Bool
  /-- The page walkers. -/
  walkers : Bool
  /-- The request engine. -/
  req : Bool
  /-- Ovilink. -/
  lnk : Bool
  /-- The clocks. -/
  clk : Bool
  /-- The power cap. -/
  pwr : Bool
  /-- Power delivery. -/
  sup : Bool
  /-- Temperatures. -/
  thm : Bool
  /-- Protection beside the block. -/
  prt : Bool
  deriving DecidableEq, Repr

/-- What every command keeps (the fuses, the commands that still wait, canonical memories), and the parts that `u` says
are left alone. -/
structure Keeps (u : Untouched) (s t : State) : Prop where
  fuses : t.fuses = s.fuses
  pending : t.pending = s.pending
  memoryOk : s.memoryOk = true → t.memoryOk = true
  stacked : u.stacked = true → t.mem.dram = s.mem.dram ∧ t.mem.check = s.mem.check
  store : u.store = true → t.cores.store = s.cores.store
  protection : u.protection = true → t.prt.block = s.prt.block
  reports : u.reports = true → t.evt = s.evt ∧ t.tel = s.tel ∧ t.hif.pba = s.hif.pba ∧ t.hostMem = s.hostMem
  state : u.state = true → t.kpr.state = s.kpr.state
  tc : u.tc = true → t.frm.tc = s.frm.tc
  cycle : u.cycle = true → t.frm.cycle = s.frm.cycle
  kpr : u.kpr = true → t.kpr = s.kpr
  flp : u.flp = true → t.flp = s.flp
  hif : u.hif = true → { t.hif with pba := 0 } = { s.hif with pba := 0 }
  dbg : u.dbg = true → t.dbg = s.dbg
  dev : u.dev = true → t.dev = s.dev
  frm : u.frm = true → t.frm = s.frm
  cores : u.cores = true → { t.cores with store := [] } = { s.cores with store := [] }
  mem : u.mem = true → { t.mem with dram := [], check := [] } = { s.mem with dram := [], check := [] }
  net : u.net = true → t.net = s.net
  bnk : u.bnk = true → t.bnk = s.bnk
  walkers : u.walkers = true → t.walkers = s.walkers
  req : u.req = true → t.req = s.req
  lnk : u.lnk = true → t.lnk = s.lnk
  clk : u.clk = true → t.clk = s.clk
  pwr : u.pwr = true → t.pwr = s.pwr
  sup : u.sup = true → t.sup = s.sup
  thm : u.thm = true → t.thm = s.thm
  prt : u.prt = true → { t.prt with block := [] } = { s.prt with block := [] }

/-- The parts of the state, named as `Untouched` names them. -/
inductive Part
  | stacked | store | protection | reports | state | tc | cycle | kpr | flp
  | hif | dbg | dev | frm | cores | mem | net | bnk | walkers
  | req | lnk | clk | pwr | sup | thm | prt
  deriving DecidableEq, Repr

/-- Everything but the parts of a list is promised. -/
def Untouched.allBut (l : List Part) : Untouched where
  stacked := !l.contains .stacked
  store := !l.contains .store
  protection := !l.contains .protection
  reports := !l.contains .reports
  state := !l.contains .state
  tc := !l.contains .tc
  cycle := !l.contains .cycle
  kpr := !l.contains .kpr
  flp := !l.contains .flp
  hif := !l.contains .hif
  dbg := !l.contains .dbg
  dev := !l.contains .dev
  frm := !l.contains .frm
  cores := !l.contains .cores
  mem := !l.contains .mem
  net := !l.contains .net
  bnk := !l.contains .bnk
  walkers := !l.contains .walkers
  req := !l.contains .req
  lnk := !l.contains .lnk
  clk := !l.contains .clk
  pwr := !l.contains .pwr
  sup := !l.contains .sup
  thm := !l.contains .thm
  prt := !l.contains .prt

/-- What a whole-device reset changes: all but the protection block (and the fuses). -/
def wholeDevice : List Part :=
  [.stacked, .store, .reports, .state, .tc, .cycle, .kpr, .flp, .hif, .dbg, .dev, .frm, .cores, .mem, .net, .bnk, .walkers, .req, .lnk, .clk, .pwr, .sup, .thm, .prt]

/-- The footprint of a command: the parts that it may change. -/
def footprint (c : Instr) : List Part :=
  match c with
  | .powerOn _ _ => wholeDevice
  | .lossOfPower => wholeDevice
  | .inputWarnBand _ => [.reports, .sup]
  | .vpmShutdown => wholeDevice
  | .stage1ConverterFail _ => wholeDevice
  | .railOutOfRegulation _ => [.reports, .state, .cycle, .kpr, .hif, .frm, .sup]
  | .perstNAssert => wholeDevice
  | .perstNRelease => [.kpr]
  | .oscWaitExpiry => [.kpr, .clk]
  | .systemPllLockTimeout => [.kpr]
  | .systemPllLock => [.kpr, .clk]
  | .hotReset => wholeDevice
  | .fatalCondition _ => [.reports, .state, .cycle, .kpr, .hif, .frm]
  | .haltHoldEnd => wholeDevice
  | .keeperWatchdogExpiry => [.reports, .state, .cycle, .kpr, .hif, .frm]
  | .sillResetRequest _ => [.reports, .state, .cycle, .kpr, .hif, .frm]
  | .refclkLost _ _ => [.reports, .state, .cycle, .kpr, .hif, .frm, .clk]
  | .keeperGo => [.reports, .kpr]
  | .firmwareVerified _ => [.stacked, .reports, .state, .tc, .cycle, .kpr, .flp, .hif, .dbg, .dev, .frm, .mem, .net,
      .bnk, .lnk, .clk, .pwr, .sup, .thm, .prt]
  | .regionGeneratorLockTimeout _ => [.reports, .clk, .sup]
  | .hingeFifoSettleTimeout => [.reports, .state, .cycle, .kpr, .hif, .frm]
  | .loadImage => [.reports, .state, .cycle, .kpr, .dev, .frm, .cores, .req, .lnk, .clk, .sup]
  | .loadVerified _ _ _ => [.stacked, .reports, .cycle, .dev, .frm, .mem, .req]
  | .unloadImage => [.reports, .state, .cycle, .kpr, .dev, .frm, .cores, .req, .lnk, .clk, .sup]
  | .enableImage => [.reports, .state, .cycle, .kpr, .dev, .frm, .cores, .req, .lnk, .clk, .sup]
  | .checkComplete _ _ _ => [.stacked, .reports, .state, .cycle, .kpr, .hif, .dev, .frm, .cores, .mem, .net, .bnk,
      .req, .lnk, .pwr, .sup, .thm]
  | .suspendImage => [.reports, .state, .cycle, .kpr, .dev, .frm, .cores, .req, .lnk, .clk, .sup]
  | .frameEntry _ => [.stacked, .store, .reports, .state, .cycle, .kpr, .hif, .dev, .frm, .cores, .mem, .net, .bnk,
      .walkers, .req, .lnk, .clk, .pwr, .sup, .thm]
  | .slatBoundary _ _ => [.store, .reports, .cycle, .frm, .cores, .mem, .net, .bnk, .walkers, .clk, .sup]
  | .contextSwitchDone _ _ _ _ => [.stacked, .store, .reports, .hif, .dbg, .frm, .cores, .mem, .net]
  | .planPoint _ => [.stacked, .reports, .cycle, .hif, .frm, .mem, .net, .req, .lnk, .clk, .pwr, .sup, .thm]
  | .frameEnd _ _ _ _ => [.stacked, .store, .reports, .state, .cycle, .kpr, .hif, .dev, .frm, .cores, .mem, .net,
      .bnk, .walkers, .req, .lnk, .clk, .sup]
  | .confirmDeadline => [.stacked, .reports, .hif, .frm, .cores, .mem, .net, .bnk, .walkers, .req]
  | .statusRecordReceive _ => [.stacked, .reports, .hif, .dev, .frm, .cores, .mem, .net, .bnk, .walkers, .req]
  | .periodArm _ => [.reports, .frm]
  | .periodWithdraw _ => [.reports, .frm]
  | .limitWrite _ => [.reports, .clk]
  | .limitArm _ => [.reports, .clk]
  | .limitWithdraw _ => [.reports, .clk]
  | .capWrite _ _ => [.reports, .pwr]
  | .coolBaseWrite _ => [.reports, .thm]
  | .scrubWrite _ => [.reports, .mem]
  | .ceThreshWrite _ => [.reports, .mem]
  | .bnkSelWrite _ => [.reports, .bnk]
  | .bnkHcmdGo _ => [.reports, .bnk]
  | .qpEnable _ _ => [.reports, .req]
  | .qpDisable _ _ => [.reports, .req]
  | .sqTailDoorbell _ _ _ => [.stacked, .reports, .hif, .mem, .net, .req]
  | .cqHeadDoorbell _ _ _ => [.stacked, .reports, .hif, .mem, .net, .req]
  | .openEntry _ _ => [.stacked, .reports, .hif, .mem, .net, .req]
  | .appendEntry _ _ => [.stacked, .reports, .hif, .mem, .net, .req]
  | .generateEntry _ _ => [.stacked, .reports, .hif, .mem, .net, .req]
  | .forkEntry _ _ => [.stacked, .reports, .hif, .mem, .net, .req]
  | .closeEntry _ _ => [.stacked, .reports, .hif, .mem, .net, .req]
  | .queryEntry _ _ => [.stacked, .reports, .hif, .mem, .net, .req]
  | .forkCopyDone _ _ _ => [.stacked, .reports, .hif, .mem, .net, .req]
  | .laneFill _ _ _ => [.stacked, .reports, .hif, .mem, .net, .req]
  | .poolSetStarved _ => [.reports, .req]
  | .reqCoalesceTimeout _ => [.reports, .req]
  | .sqFetchRetry _ => [.req]
  | .descriptorDispatch _ _ => [.reports, .frm, .cores]
  | .loadDesc _ _ => [.reports, .frm, .cores, .mem, .net, .walkers]
  | .storeDesc _ _ _ => [.reports, .frm, .cores, .mem, .net, .walkers]
  | .send _ _ => [.reports, .frm, .cores, .net, .lnk]
  | .recv _ => [.store, .reports, .frm, .cores, .mem, .net]
  | .matmul _ _ _ _ _ => [.reports, .frm, .cores]
  | .convert _ _ _ => [.store, .reports, .frm, .cores]
  | .gather _ => [.reports, .frm, .cores, .bnk]
  | .waitCounter _ => [.reports, .frm, .cores]
  | .waitSlatStart _ => [.reports, .frm, .cores]
  | .waitFrameOffset _ => [.reports, .frm, .cores]
  | .waitConfirm _ => [.reports, .frm, .cores]
  | .waitQuiesce _ => [.reports, .frm, .cores]
  | .waitYield _ => [.reports, .frm, .cores]
  | .loop _ => [.cores]
  | .skip _ _ => [.reports, .frm, .cores]
  | .vecAdd _ _ _ => [.store, .reports, .frm, .cores]
  | .vecSub _ _ _ => [.store, .reports, .frm, .cores]
  | .vecMul _ _ _ => [.store, .reports, .frm, .cores]
  | .vecMax _ _ _ => [.store, .reports, .frm, .cores]
  | .vecMin _ _ _ => [.store, .reports, .frm, .cores]
  | .vecAdds _ _ _ => [.store, .reports, .frm, .cores]
  | .vecMuls _ _ _ => [.store, .reports, .frm, .cores]
  | .vecExp _ _ _ => [.store, .reports, .frm, .cores]
  | .vecRcp _ _ _ => [.store, .reports, .frm, .cores]
  | .vecRsqrt _ _ _ => [.store, .reports, .frm, .cores]
  | .vecSigmoid _ _ _ => [.store, .reports, .frm, .cores]
  | .vecRsum _ _ _ => [.store, .reports, .frm, .cores]
  | .vecRmax _ _ _ => [.store, .reports, .frm, .cores]
  | .vecRsumsq _ _ _ => [.store, .reports, .frm, .cores]
  | .vecRargmax _ _ _ => [.store, .reports, .frm, .cores]
  | .vecRowsub _ _ _ => [.store, .reports, .frm, .cores]
  | .vecRowmul _ _ _ => [.store, .reports, .frm, .cores]
  | .vecCsum _ _ _ => [.store, .reports, .frm, .cores]
  | .vecMaskge _ _ _ => [.store, .reports, .frm, .cores]
  | .vecMasklt _ _ _ => [.store, .reports, .frm, .cores]
  | .descriptorComplete _ _ => [.reports, .frm, .cores]
  | .coreParityFence _ => [.reports, .flp, .dbg, .dev, .frm]
  | .unitWatchdogExpiry _ _ => [.reports, .flp, .dbg, .dev, .frm, .cores, .bnk]
  | .drainHalfDone _ _ _ _ _ _ _ _ => [.store, .reports, .frm, .cores]
  | .paneParityError _ _ => [.reports, .flp, .dbg, .dev, .frm, .cores]
  | .netRead _ _ _ _ => [.stacked, .reports, .mem, .net]
  | .netWrite _ _ _ => [.stacked, .reports, .hif, .mem, .net]
  | .netSend _ _ => [.stacked, .store, .reports, .hif, .frm, .cores, .mem, .net]
  | .netReadData _ => [.store, .reports, .frm, .cores, .mem, .net, .walkers]
  | .netAck _ => [.cores, .net]
  | .netError _ => [.reports, .frm, .cores, .mem, .net, .walkers]
  | .flitCreditReturn _ _ => [.net]
  | .flitCrcError _ _ => [.net]
  | .linkReplayLimit _ => [.reports, .state, .cycle, .kpr, .hif, .frm]
  | .netRequestAged _ => [.net]
  | .ownerSashRequest _ _ _ _ _ => [.stacked, .store, .reports, .hif, .frm, .cores, .mem, .net, .walkers]
  | .bankRefreshDue _ _ _ _ => [.mem]
  | .tileTempSample _ => [.reports, .mem]
  | .scrubRun _ _ _ _ => [.stacked, .reports, .mem]
  | .sashStallTimeout _ => [.mem]
  | .sashRetrainDone _ _ => [.stacked, .reports, .flp, .hif, .dbg, .dev, .frm, .cores, .mem, .net, .bnk, .walkers,
      .req, .lnk]
  | .bankAccessTimeout _ _ => [.stacked, .reports, .flp, .hif, .dbg, .dev, .frm, .cores, .mem, .net, .bnk, .walkers,
      .req, .lnk]
  | .datapathParityFence _ => [.stacked, .reports, .flp, .hif, .dbg, .dev, .frm, .cores, .mem, .net, .bnk, .walkers,
      .req, .lnk]
  | .ceThreshold _ => [.reports, .mem]
  | .bankCommandStart _ _ _ => [.reports, .frm, .cores, .bnk]
  | .microNext _ _ _ _ => [.stacked, .reports, .frm, .cores, .mem, .net, .bnk]
  | .microFetch _ _ _ _ => [.stacked, .reports, .frm, .cores, .mem, .net, .bnk]
  | .microFetchc _ _ _ _ => [.stacked, .reports, .frm, .cores, .mem, .net, .bnk]
  | .microCopyout _ _ _ => [.stacked, .reports, .hif, .frm, .cores, .mem, .net, .bnk]
  | .microPiece _ _ => [.bnk]
  | .microSegb _ _ => [.bnk]
  | .microOut _ _ _ => [.stacked, .reports, .hif, .frm, .cores, .mem, .net, .bnk]
  | .microClear _ _ => [.bnk]
  | .microJump _ _ => [.bnk]
  | .microDone _ _ => [.reports, .frm, .cores, .bnk]
  | .microSelop _ _ => [.bnk]
  | .reservedMicroOp _ _ => [.reports, .frm, .cores, .bnk]
  | .microOpTimeout _ _ => [.reports, .flp, .dbg, .dev, .frm, .cores, .bnk]
  | .hostCommandTimeout _ _ => [.reports, .frm, .cores, .bnk]
  | .bankUnitParityFence _ _ => [.reports, .flp, .dbg, .dev, .frm, .cores, .bnk]
  | .pageWalkDone _ _ _ _ _ _ => [.stacked, .reports, .frm, .cores, .mem, .net, .walkers]
  | .bar2Read _ _ _ _ => [.stacked, .reports, .hif, .mem, .net]
  | .bar2Write _ _ _ _ => [.stacked, .reports, .hif, .mem, .net]
  | .memrd _ _ _ => [.stacked, .reports, .hif, .mem, .net]
  | .memrddata _ _ _ => [.stacked, .reports, .hif, .mem, .net]
  | .memwr _ _ _ _ => [.stacked, .reports, .hif, .mem, .net]
  | .memwrptl _ _ _ _ _ => [.stacked, .reports, .hif, .mem, .net]
  | .memspecrd _ => []
  | .hdmDecoderCommit _ _ _ _ _ _ => [.hif]
  | .hdmDecoderUncommit _ => [.hif]
  | .toDevice _ _ => [.reports, .hif]
  | .toHost _ _ => [.reports, .hif]
  | .bar2BaseWrite _ => [.reports, .hif]
  | .poisonedTlp _ _ => [.reports, .hif]
  | .busMasterEnableChange _ => [.stacked, .reports, .hif, .mem, .net, .req]
  | .d3hotEntry => [.hif]
  | .d0Return => [.hif]
  | .hostReadFailed _ _ => [.reports, .hif, .req]
  | .doeDiscovery _ _ _ => [.hif]
  | .cdatRead _ _ _ => [.hif]
  | .doeAbort => [.hif]
  | .getIdentity => [.hif]
  | .getCert _ => [.hif]
  | .getReport _ => [.hif]
  | .getProtection => [.hif]
  | .identifyMemoryDevice => []
  | .getSupportedLogs => []
  | .getLog _ _ => []
  | .getEventRecords => []
  | .clearEventRecords _ => [.hif]
  | .getHealthInfo => []
  | .unsupportedMailboxOpcode _ => []
  | .nonceRequest => [.reports, .prt]
  | .protectionChange => [.reports, .prt]
  | .debugUnlock => [.reports, .prt]
  | .prtCommandDone _ _ _ _ _ => [.protection, .reports, .prt]
  | .lnkDeviceWrite _ => [.reports, .frm, .lnk]
  | .lnkFwdWrite _ _ => [.reports, .lnk]
  | .quiesceSet _ => [.reports, .frm, .cores, .lnk]
  | .quiesceClear _ => [.reports, .frm, .cores, .lnk]
  | .datelineWrite _ _ => [.reports, .frm, .cores, .lnk]
  | .raccRead _ => [.reports, .frm, .cores, .net, .lnk]
  | .raccWrite _ => [.reports, .frm, .cores, .net, .lnk]
  | .raccTimeout => [.lnk]
  | .linkTrained _ _ _ _ _ => [.lnk]
  | .linkTrainRetry _ _ => [.lnk]
  | .laneDrop _ _ _ _ => [.reports, .frm, .cores, .lnk]
  | .laneAdd _ _ => [.reports, .frm, .cores, .lnk]
  | .laserFail _ _ => [.reports, .frm, .cores, .lnk]
  | .spareLaserInService _ _ => [.reports, .lnk]
  | .laserAged _ _ => [.reports, .lnk]
  | .cartridgeLeverOpen _ => [.reports, .frm, .cores, .lnk]
  | .oviWriteFlit _ _ _ => [.stacked, .reports, .hif, .frm, .cores, .mem, .net, .bnk, .walkers, .req, .lnk]
  | .oviReadFlit _ _ _ _ => [.stacked, .reports, .frm, .cores, .mem, .net, .lnk]
  | .oviReadDataFlit _ _ => [.reports, .frm, .cores, .net, .lnk]
  | .oviAckFlit _ _ _ => [.reports, .frm, .cores, .net, .lnk]
  | .oviStatusFlit _ _ => [.stacked, .reports, .hif, .dev, .frm, .cores, .mem, .net, .bnk, .walkers, .req, .lnk]
  | .oviIdleFlit _ _ => [.reports, .frm, .cores, .lnk]
  | .oviFlitError _ _ => [.lnk]
  | .oviReplayLimit _ => [.reports, .frm, .cores, .lnk]
  | .peerRequestTimeout _ _ _ => [.reports, .frm, .cores, .net, .lnk]
  | .creditStall _ _ => [.reports, .lnk]
  | .timingSymbolSend _ => []
  | .timingSymbol _ _ _ _ _ _ => [.reports, .tc, .frm, .lnk]
  | .alignmentTimeout => [.reports, .frm, .lnk]
  | .sustainedDroop _ => [.reports, .clk]
  | .generatorLockLost _ => [.clk]
  | .fallbackSwitch _ => [.reports, .clk, .sup]
  | .divisorStep _ => [.clk, .sup]
  | .phaseFail _ _ => [.stacked, .store, .reports, .flp, .hif, .dbg, .dev, .frm, .cores, .mem, .net, .bnk, .walkers,
      .req, .lnk, .clk, .sup]
  | .vsensorExclude _ _ => [.reports, .sup]
  | .shuntFire _ => [.sup]
  | .bondSample _ _ _ _ => [.sup]
  | .bondSuspect _ => [.reports, .sup]
  | .peakLimiterEngage _ _ => [.reports, .sup]
  | .peakLimiterRelease _ => [.sup]
  | .shutterRampDone _ => [.reports, .state, .cycle, .kpr, .hif, .frm, .cores, .mem, .net, .walkers, .clk, .sup]
  | .tempSample _ => [.reports, .thm]
  | .sensorSuspect _ _ => [.reports, .thm]
  | .sensorFail _ _ _ => [.reports, .thm]
  | .tempTrip _ _ => [.reports, .state, .cycle, .kpr, .hif, .frm]
  | .holdRelease _ _ => [.thm]
  | .modelUpdate _ => [.reports, .thm]
  | .avgSample _ _ _ _ _ => [.reports, .pwr, .sup]
  | .estimatorSecond _ _ => [.reports, .pwr]
  | .coolingEstimate => [.reports, .thm]
  | .evtEnable _ => [.reports]
  | .evtDisable _ => [.reports]
  | .evtHeadWrite _ => [.reports]
  | .evtCoalesceTimeout => [.reports]
  | .reportDone => [.reports]
  | .mctpControlMessage _ _ _ => [.reports]
  | .getSensorReading _ _ => []
  | .setNumericEffecterValue _ _ _ => [.reports, .pwr]
  | .setEventReceiver _ _ _ => [.reports]
  | .i3cDynamicAddress _ => [.reports]
  | .dbgSelWrite _ => [.reports, .dbg]
  | .dbgStatusClear _ => [.reports, .dbg]
  | .registerWrite _ _ _ => [.reports, .state, .cycle, .kpr, .hif, .dbg, .dev, .frm, .cores, .mem, .net, .bnk, .req,
      .lnk, .clk, .pwr, .sup, .thm, .prt]
  | .bringUpComplete _ _ => [.reports, .state, .kpr, .flp, .dbg, .dev, .frm, .lnk]
  | .neighbourIdAnnounce _ _ => [.lnk]
  | .handoverComplete _ => [.hif]
  | .pcieLinkUp _ _ _ => [.hif]
  | .inputWarnLeave _ => [.sup]
  | .dbgCsRead _ _ => [.dbg]

/-- Every command of a list names things that exist. -/
def State.queueOk (s : State) : Bool := s.pending.all (fun c => c.wf)

/-- A run is safe where no step of it stops. -/
def runsSafely : Nat → State → Prop
  | 0, _ => True
  | n + 1, s => ∃ t, step s = .next t ∧ runsSafely n t

end Sys2Proof.Machine
end

