-- ==== Sys2Proof/Certificates/Slice0/Obligations.lean ====
section
/-! DEFINITION. The statements for the provers. A statement of several clauses names the command each clause is about;
`∃ t, exec c s = .next t ∧ …` says that the command completes and what its next state holds. -/
open Sys2Proof Sys2Proof.Machine

/-- For every command c, every state s and every rest of the queue: a step of s with c at the front of its queue is exec
of c on s with the queue's rest. -/
def Obligations.StepRunsTheFrontCommand : Prop :=
  ∀ (c : Instr) (rest : List Instr) (s : State),
    step { s with pending := c :: rest } = exec c { s with pending := rest }

/-- With no command waiting a step answers a next state: the time counter counts one tc (modulo 2^64) where step 4 has
started it, and nothing else changes; where it has not started, nothing changes. That the tick is what an empty
queue does is the model's choice (log 4). -/
def Obligations.EmptyQueueTakesOneTc : Prop :=
  ∀ s : State, s.pending = [] →
    (s.frm.tcRuns = true → step s = .next { s with frm := { s.frm with tc := (s.frm.tc + 1) % 2 ^ 64 } }) ∧
    (s.frm.tcRuns = false → step s = .next s)

/-- The opcode table gives no row any bits, so decodeTableWord answers none for every word and withFetchWord leaves
every state unchanged. -/
def Obligations.NoWordSpellsACommand : Prop :=
  ∀ (nbits w : Nat) (s : State), Sys2Proof.decodeTableWord nbits w = none ∧ s.withFetchWord nbits w = s

/-- For every state s whose byte memories (stacked memory with its check symbols, core stores, protection block, host
memory) are in canonical form: if a step answers next t, then t's memories are in canonical form too, the fuses are
unchanged, and the queue of t is the queue of s without its front. -/
def Obligations.StepKeepsTheInvariant : Prop :=
  ∀ s t : State, step s = .next t →
    (s.memoryOk = true → t.memoryOk = true) ∧ t.fuses = s.fuses ∧ t.pending = s.pending.tail

/-- After reset every byte memory is in canonical form, the queue is empty, DEV.STATE is ROM with bring-up step 0, no
floor plan is published (generation 0, no fence, no dark region), the time counter does not run, no frame is in
progress, no image is held or in force, no queue pair is enabled, the event ring is disabled, and CAP_1S is 1,500,
CAP_8S 1,450, MEM.SCRUB enabled with a period of 24, the error window 3,600 with a count of 1,024, LAST_GOOD and
LAST_DROP are all ones and CLK.LIMIT is 4. -/
def Obligations.ResetHasTheInvariant : Prop :=
  State.reset.memoryOk = true ∧ State.reset.pending = [] ∧ State.reset.kpr.state = .rom ∧ State.reset.kpr.step = 0 ∧
    State.reset.flp.valid = false ∧ State.reset.flp.gen = 0 ∧ State.reset.flp.cores = [] ∧ State.reset.flp.dark = [] ∧
    State.reset.frm.tcRuns = false ∧ State.reset.frm.phase = .idle ∧ State.reset.dev.image = none ∧
    State.reset.dev.inForce = false ∧ (∀ q, (State.reset.qpOf q).enable = false) ∧
    State.reset.evt.enable = false ∧ State.reset.pwr.cap1 = 1500 ∧ State.reset.pwr.cap8 = 1450 ∧
    State.reset.mem.scrubEnable = true ∧ State.reset.mem.scrubPeriod = 24 ∧ State.reset.mem.ceWindow = 3600 ∧
    State.reset.mem.ceCount = 1024 ∧ State.reset.frm.lastGood = 2 ^ 64 - 1 ∧ State.reset.frm.lastDrop = 2 ^ 64 - 1 ∧
    State.reset.clk.limit = 4

/-- For every command c and state s: if exec answers next t, then t has the fuses and the waiting commands of s, keeps
canonical memories canonical, and differs from s only in the parts that footprint c lists (beside the list of
outputs and the count of free values, which are the model's own). The parts are the blocks of the register map, with
stacked memory, the core stores, the protection block, DEV.STATE and the time counter as parts of their own. -/
def Obligations.EveryCommandStaysInItsFootprint : Prop :=
  ∀ (c : Instr) (s t : State), exec c s = .next t → Keeps (Untouched.allBut (footprint c)) s t

/-- For every command c and state s: where c is well-formed, exec answers a next state; where it is not, exec stops with
the fault noSuchUnit. No command is refused. -/
def Obligations.WellFormedCommandsComplete : Prop :=
  ∀ (c : Instr) (s : State),
    (c.wf = true → ∃ t, exec c s = .next t) ∧ (c.wf = false → exec c s = .fault .noSuchUnit)

/-- From every state whose waiting commands are all well-formed, every number of steps runs without a fault or a
refusal. -/
def Obligations.WellFormedQueuesRunSafely : Prop :=
  ∀ (n : Nat) (s : State), s.queueOk = true → runsSafely n s

/-- POWER_ON on a device whose rails are down raises them and latches both straps; the device is in ROM with PERST_N
asserted and everything at its reset value but the fuses, the protection block with its sequence number and
certificates, which cartridges are inserted, and host memory. POWER_ON with the rails up changes nothing.
LOSS_OF_POWER, and VPM_SHUTDOWN with the rails up, lower the rails and lose everything but these.
STAGE1_CONVERTER_FAIL with both converters up clears its bit of stage1_ok, sets cap_limited and raises the warn
event 0x0059, and changes nothing beside what that event writes; with the other converter failed already the power
is lost. A second failure of the same converter, and a shutdown without rails, change nothing. That PERST_N reads
asserted at power on is the model's choice (log 2). -/
def Obligations.PowerComesAndGoes : Prop :=
  (∀ (s : State) (osc maddr : Nat), s.kpr.railsUp = false →
      exec (.powerOn osc maddr) s = .next
        { s.afterReset with kpr := { kprReset with oscWait := osc % 8, maddr := maddr % 4 } }) ∧
  (∀ (s : State) (osc maddr : Nat), s.kpr.railsUp = true → exec (.powerOn osc maddr) s = .next s) ∧
  (∀ (s : State), exec .lossOfPower s = .next s.unpowered) ∧
  (∀ (s : State), s.kpr.railsUp = true → exec .vpmShutdown s = .next s.unpowered) ∧
  (∀ (s : State), s.kpr.railsUp = false → exec .vpmShutdown s = .next s) ∧
  (∀ (s : State) (i : Nat), i < 2 → s.kpr.railsUp = true → s.sup.stage1Ok = 3 →
      exec (.stage1ConverterFail i) s = .next
        (raise 0x0059 1 i [] { s with sup := { s.sup with stage1Ok := 3 - 2 ^ i, capLimited := true } })) ∧
  (∀ (s : State) (i : Nat), i < 2 → s.kpr.railsUp = true → s.sup.stage1Ok = 2 ^ i →
      exec (.stage1ConverterFail i) s = .next s.unpowered) ∧
  (∀ (s : State) (i : Nat), i < 2 → bit s.sup.stage1Ok i = false → exec (.stage1ConverterFail i) s = .next s)

/-- PHASE_FAIL of a good phase, with which fewer than three of the group have failed, sets its bit of phases_failed,
duty-limits the region where it is the second, raises the warn event 0x005A and changes nothing else; with the third
the region goes dark: its shutter is closed, its clocks are stopped, and the region, every core of it and every tile
of it are fenced. VSENSOR_EXCLUDE sets its bit of sensors_excluded, duty-limits the region with the fourth, raises
the info event 0x005B and changes nothing else. SHUNT_FIRE counts the firing, saturating at 32 bits. BOND_SAMPLE
takes the three measurements, 12 bits each; with a current below 1.00 A and a learned loop model an excess drop over
25 mV starts its time and a smaller one ends it. BOND_SUSPECT, where the excess has stood for 10 ms, sets
bond_suspect, duty-limits the region, raises the warn event 0x005C with the excess and changes nothing else. -/
def Obligations.RegulatorGroups : Prop :=
  (∀ (s : State) (r p : Nat), r < regionCount → p < 4 → s.powered = true → bit (s.groupOf r).phasesFailed p = false →
      popcount 4 ((s.groupOf r).phasesFailed + 2 ^ p) < 3 →
      exec (.phaseFail r p) s = .next
        (raise 0x005A 1 r [(s.groupOf r).phasesFailed + 2 ^ p] (setGroup r (fun g => { g with phasesFailed := (s.groupOf r).phasesFailed + 2 ^ p, dutyLimited := g.dutyLimited || decide (popcount 4 ((s.groupOf r).phasesFailed + 2 ^ p) = 2) }) s))) ∧
  (∀ (s : State) (r p : Nat), r < regionCount → p < 4 → s.powered = true → bit (s.groupOf r).phasesFailed p = false →
      popcount 4 ((s.groupOf r).phasesFailed + 2 ^ p) = 3 → s.dark r = false → ∃ t, exec (.phaseFail r p) s = .next t ∧
      (t.groupOf r).phasesFailed = (s.groupOf r).phasesFailed + 2 ^ p ∧ (t.groupOf r).shutter = 3 ∧
      (t.clkOf r).source = 2 ∧ t.dark r = true ∧ (∀ n, n ∈ coresOf r → t.coreFenced n = true ∧ t.tileFenced n = true)) ∧
  (∀ (s : State) (r k : Nat), r < regionCount → k < 4 → s.powered = true → bit (s.groupOf r).sensorsExcluded k = false →
      exec (.vsensorExclude r k) s = .next
        (raise 0x005B 0 r [k] (setGroup r (fun g => { g with sensorsExcluded := (s.groupOf r).sensorsExcluded + 2 ^ k, dutyLimited := g.dutyLimited || decide ((s.groupOf r).sensorsExcluded + 2 ^ k = 15) }) s))) ∧
  (∀ (s : State) (r : Nat), r < regionCount → s.powered = true →
      exec (.shuntFire r) s = .next (setGroup r (fun g => { g with nowFires := satAdd 32 g.nowFires 1 }) s)) ∧
  (∀ (s : State) (r vOut vMin cur : Nat), r < regionCount → s.powered = true → ∃ t,
      exec (.bondSample r vOut vMin cur) s = .next t ∧ (t.groupOf r).vOut = vOut % 4096 ∧
      (t.groupOf r).vMin = vMin % 4096 ∧ (t.groupOf r).current = cur % 4096) ∧
  (∀ (s : State) (r vOut vMin cur : Nat), r < regionCount → s.powered = true → cur < 100 → vMin < 4096 → vOut < 4096 →
      (s.groupOf r).irSamples = 1000 → ∃ t, exec (.bondSample r vOut vMin cur) s = .next t ∧
      (t.groupOf r).excessSince = (if 25 < (vOut : Int) - vMin - ((s.groupOf r).irModel * cur / 10000 : Nat) then (if (s.groupOf r).excessSince = 0 then s.frm.tc + 1 else (s.groupOf r).excessSince) else 0) ∧
      (t.groupOf r).irModel = (s.groupOf r).irModel) ∧
  (∀ (s : State) (r : Nat), r < regionCount → s.powered = true → (s.groupOf r).bondSuspect = false →
      (s.groupOf r).excessSince ≠ 0 → (s.groupOf r).excessSince + 10000000 ≤ s.frm.tc + 1 →
      exec (.bondSuspect r) s = .next
        (raise 0x005C 1 r [(excessDrop (s.groupOf r)).toNat] (setGroup r (fun g => { g with bondSuspect := true, dutyLimited := true }) s)))

/-- PEAK_LIMITER_ENGAGE of a measure above its threshold of Table 15.5 (for measure 2: 1,700 W, or 900 W with one
converter) sets limiting, counts the engagement and notes its time; at or below the threshold nothing changes.
PEAK_LIMITER_RELEASE below the release level (1,600 W, or 850 W with one converter) clears it and adds the time
engaged in µs. AVG_SAMPLE puts the sample at the front of both windows of 1,000 and 8,000 samples, each average is
the mean of its window, and the input registers and the peak take the other measurements. ESTIMATOR_SECOND shows
measured and corrected input power; where the measured value lies from 85% to 115% of the corrected estimate nothing
else changes, and above it the factor of the next plan point rises, up to 2.0, and the trim is counted.
INPUT_WARN_BAND with a voltage of 46.00 V to 47.99 V or 60.01 V to 63.00 V, where no warning stands, sets
input_warn, takes the voltage and raises the warn event 0x0058. INPUT_WARN_LEAVE with a voltage of 48 V to 60 V
clears input_warn and takes the voltage. RAIL_OUT_OF_REGULATION clears the rail's bit of rails_ok and, while the
clocks run, is the fatal condition 0x02. -/
def Obligations.LimiterAndAverages : Prop :=
  (∀ (s : State) (m v : Nat), 1 ≤ m → m ≤ 4 → s.powered = true → s.sup.limiting = false →
      peakThreshold s.oneConverter m < v → ∃ t, exec (.peakLimiterEngage m v) s = .next t ∧
      t.sup = { s.sup with limiting := true, engagements := satAdd 32 s.sup.engagements 1, engagedAt := s.frm.tc, limitMs := s.frm.tc / 1000000 + 1 }) ∧
  (∀ (s : State) (m v : Nat), 1 ≤ m → m ≤ 4 → v ≤ peakThreshold s.oneConverter m →
      exec (.peakLimiterEngage m v) s = .next s) ∧
  (∀ (s : State) (v : Nat), s.powered = true → s.sup.limiting = false → s.sup.stage1Ok = 3 → 1700 < v → ∃ t,
      exec (.peakLimiterEngage 2 v) s = .next t ∧ t.sup.limiting = true) ∧
  (∀ (s : State) (v : Nat), s.powered = true → s.sup.limiting = false → s.sup.stage1Ok ≠ 3 → 900 < v → ∃ t,
      exec (.peakLimiterEngage 2 v) s = .next t ∧ t.sup.limiting = true) ∧
  (∀ (s : State) (v : Nat), s.powered = true → s.sup.limiting = true → v < 850 ∨ (s.sup.stage1Ok = 3 ∧ v < 1600) →
      exec (.peakLimiterRelease v) s = .next
        { s with sup := { s.sup with limiting := false, limitedUs := satAdd 32 s.sup.limitedUs ((s.frm.tc - s.sup.engagedAt) / 1000) } }) ∧
  (∀ (s : State) (p v c k : Nat) (rails : List (Nat × Nat)), p < 2 ^ 16 → v < 2 ^ 16 → c < 2 ^ 16 → k < 2 ^ 16 →
      s.kpr.railsUp = true → ∃ t, exec (.avgSample p v c k rails) s = .next t ∧
      t.pwr.samples1 = (p :: s.pwr.samples1).take 1000 ∧ t.pwr.samples8 = (p :: s.pwr.samples8).take 8000 ∧
      t.pwr.avg1 = meanOf t.pwr.samples1 ∧ t.pwr.avg8 = meanOf t.pwr.samples8 ∧ t.sup.power = p ∧ t.sup.voltage = v ∧
      t.sup.current = c ∧ t.sup.nowPeak = max s.sup.nowPeak k) ∧
  (∀ (s : State) (m e : Nat), m < 2 ^ 16 → e < 2 ^ 16 → s.powered = true → m * 100 ≤ e * s.pwr.k / 4096 * 115 →
      e * s.pwr.k / 4096 * 85 ≤ m * 100 →
      exec (.estimatorSecond m e) s = .next
        { s with pwr := { s.pwr with estimate := e * s.pwr.k / 4096 % 2 ^ 16, measured := m } }) ∧
  (∀ (s : State) (m e : Nat), m < 2 ^ 16 → e < 2 ^ 16 → s.powered = true → 0 < e * s.pwr.k / 4096 →
      e * s.pwr.k / 4096 * 115 < m * 100 → ∃ t, exec (.estimatorSecond m e) s = .next t ∧
      t.pwr = { s.pwr with estimate := e * s.pwr.k / 4096 % 2 ^ 16, measured := m, kNext := max s.pwr.kNext (min 8192 (s.pwr.k * m / (e * s.pwr.k / 4096))), trims := satAdd 8 s.pwr.trims 1 }) ∧
  (∀ (s : State) (v : Nat), (4600 ≤ v ∧ v < 4800) ∨ (6000 < v ∧ v ≤ 6300) → s.kpr.railsUp = true →
      s.sup.inputWarn = false →
      exec (.inputWarnBand v) s = .next
        (raise 0x0058 1 noUnit [v] { s with sup := { s.sup with inputWarn := true, voltage := v } })) ∧
  (∀ (s : State) (v : Nat), 4800 ≤ v → v ≤ 6000 → s.kpr.railsUp = true →
      exec (.inputWarnLeave v) s = .next { s with sup := { s.sup with inputWarn := false, voltage := v } }) ∧
  (∀ (s : State) (k : Nat), k < 4 → s.powered = true → bit s.sup.railsOk k = true →
      exec (.railOutOfRegulation k) s = .next
        (fatal 2 { s with sup := { s.sup with railsOk := s.sup.railsOk - 2 ^ k } }))

/-- PERST_N_ASSERT with the rails up and the pin released is a whole-device reset with reset_cause 1 that clears
halt_cause and lowers OSC_EN; PERST_N_RELEASE raises OSC_EN and starts the OSC_WAIT delay; OSC_WAIT_EXPIRY starts
the system PLL and shows REFCLK good; a SYSTEM_PLL_LOCK_TIMEOUT counts an attempt, and the third one leaves the
module in reset; SYSTEM_PLL_LOCK lets the keeper run with bring-up step 1 done. Out of its turn each of the five
changes nothing. -/
def Obligations.ResetPinAndPllSequence : Prop :=
  (∀ (s : State), s.kpr.railsUp = true → s.kpr.perst = true → ∃ t, exec .perstNAssert s = .next t ∧
      t = { s.afterReset with kpr := t.kpr, sup := t.sup, tel := t.tel } ∧
      t.kpr = { kprReset with resetCause := 1, oscWait := s.kpr.oscWait, maddr := s.kpr.maddr } ∧
      t.sup.groups.all (fun e => decide (e.2.shutter = 0)) = true ∧ t.tel = { s.tel with pemSec := 0, pemN := 0 }) ∧
  (∀ (s : State), s.kpr.railsUp = false ∨ s.kpr.perst = false → exec .perstNAssert s = .next s) ∧
  (∀ (s : State), s.kpr.railsUp = true → s.kpr.perst = false →
      exec .perstNRelease s = .next { s with kpr := { s.kpr with perst := true, oscEn := true, boot := .oscWait } }) ∧
  (∀ (s : State), s.kpr.railsUp = false ∨ s.kpr.perst = true → exec .perstNRelease s = .next s) ∧
  (∀ (s : State), s.kpr.boot = .oscWait →
      exec .oscWaitExpiry s = .next
        { s with kpr := { s.kpr with boot := .pllStart, pllTries := 0 }, clk := { s.clk with refOk := true } }) ∧
  (∀ (s : State), s.kpr.boot = .pllStart → s.kpr.pllTries < 2 →
      exec .systemPllLockTimeout s = .next { s with kpr := { s.kpr with pllTries := s.kpr.pllTries + 1 } }) ∧
  (∀ (s : State), s.kpr.boot = .pllStart → s.kpr.pllTries = 2 →
      exec .systemPllLockTimeout s = .next { s with kpr := { s.kpr with pllTries := 3, boot := .pllFailed } }) ∧
  (∀ (s : State), s.kpr.boot = .pllStart →
      exec .systemPllLock s = .next
        { s with kpr := { s.kpr with boot := .romRuns, step := 1 }, clk := { s.clk with refOk := true } }) ∧
  (∀ (s : State), s.kpr.boot ≠ .oscWait → s.kpr.boot ≠ .pllStart → exec .oscWaitExpiry s = .next s ∧
      exec .systemPllLockTimeout s = .next s ∧ exec .systemPllLock s = .next s)

/-- With the clocks running and the device not yet HALTED, FATAL_CONDITION, KEEPER_WATCHDOG_EXPIRY (from STAGING on),
SILL_RESET_REQUEST, REFCLK_LOST, HINGE_FIFO_SETTLE_TIMEOUT (in STAGING), TEMP_TRIP (a trip temperature exceeded for
100 µs) and LINK_REPLAY_LIMIT (after four resends in a row) each enter HALTED with their cause, note the previous
state, blank the lasers and stop the frame, and set Uncorrectable Internal Error; of the keeper and the frame block
they change nothing else, and the memory, the cores, the protection block and the temperatures are as before.
REFCLK_LOST also clears the lock bits that the lost clock ends, and with the host path stopped it enters HALTED
without the error bit, the message and the event. Where the device is HALTED already each of these changes nothing.
HALT_HOLD_END in HALTED is a whole-device reset with reset_cause 3 that keeps halt_cause, and HOT_RESET with the
link up one with reset_cause 2 that keeps halt_cause; both raise OSC_EN, keep the straps, the fuses, the protection
block and host memory, and leave every other block as at reset beside the rails, the input and the management
endpoint. HALT_HOLD_END outside HALTED and HOT_RESET without the link change nothing. -/
def Obligations.FatalConditionsHalt : Prop :=
  (∀ (s : State) (cause : Nat), 1 ≤ cause → cause ≤ 7 → s.powered = true → ∃ t, exec (.fatalCondition cause) s = .next t ∧
      t.kpr = { s.kpr with state := .halted, prev := s.kpr.state, haltCause := cause, blanked := true } ∧
      t.frm = { s.frm with phase := .idle } ∧ t.hif.aer.status = s.hif.aer.status ||| 2 ^ 22 ∧ t.mem = s.mem ∧
      t.cores = s.cores ∧ t.prt = s.prt ∧ t.thm = s.thm) ∧
  (∀ (s : State), s.powered = true → s.kpr.state ≠ .rom → ∃ t, exec .keeperWatchdogExpiry s = .next t ∧
      t.kpr = { s.kpr with state := .halted, prev := s.kpr.state, haltCause := 5, blanked := true } ∧
      t.frm = { s.frm with phase := .idle } ∧ t.hif.aer.status = s.hif.aer.status ||| 2 ^ 22 ∧ t.mem = s.mem ∧
      t.cores = s.cores ∧ t.prt = s.prt ∧ t.thm = s.thm) ∧
  (∀ (s : State) (sill : Nat), sill < 4 → s.powered = true → ∃ t, exec (.sillResetRequest sill) s = .next t ∧
      t.kpr = { s.kpr with state := .halted, prev := s.kpr.state, haltCause := 6, blanked := true } ∧
      t.frm = { s.frm with phase := .idle } ∧ t.hif.aer.status = s.hif.aer.status ||| 2 ^ 22 ∧ t.mem = s.mem ∧
      t.cores = s.cores ∧ t.prt = s.prt ∧ t.thm = s.thm) ∧
  (∀ (s : State) (what : Nat), what < 4 → s.powered = true → ∃ t, exec (.refclkLost what true) s = .next t ∧
      t.kpr = { s.kpr with state := .halted, prev := s.kpr.state, haltCause := 3, blanked := true } ∧
      t.frm = { s.frm with phase := .idle } ∧ t.hif.aer.status = s.hif.aer.status ||| 2 ^ 22 ∧ t.mem = s.mem ∧
      t.cores = s.cores ∧ t.prt = s.prt ∧ t.thm = s.thm ∧
      (what = 0 → t.clk.refOk = false ∧ t.clk.sillLocked = false ∧ t.clk.tcLocked = false) ∧
      (what = 3 → t.clk.tcLocked = false)) ∧
  (∀ (s : State) (what : Nat), what < 4 → s.powered = true → ∃ t, exec (.refclkLost what false) s = .next t ∧
      t.kpr = { s.kpr with state := .halted, prev := s.kpr.state, haltCause := 3, blanked := true } ∧
      t.frm = { s.frm with phase := .idle } ∧ t.mem = s.mem ∧ t.cores = s.cores ∧ t.prt = s.prt ∧ t.thm = s.thm ∧
      t.hif = s.hif ∧ t.evt = s.evt ∧ t.out = s.out) ∧
  (∀ (s : State), s.powered = true → s.kpr.state = .staging → ∃ t, exec .hingeFifoSettleTimeout s = .next t ∧
      t.kpr = { s.kpr with state := .halted, prev := s.kpr.state, haltCause := 1, blanked := true } ∧
      t.frm = { s.frm with phase := .idle } ∧ t.hif.aer.status = s.hif.aer.status ||| 2 ^ 22 ∧ t.mem = s.mem ∧
      t.cores = s.cores ∧ t.prt = s.prt ∧ t.thm = s.thm) ∧
  (∀ (s : State) (cls u : Nat), (cls < 2 ∧ u < 512) ∨ (cls = 2 ∧ u < 4) → s.powered = true → s.thm.started = true →
      tripSinceOf cls u s ≠ 0 → tripSinceOf cls u s + 100000 ≤ s.frm.tc + 1 → ∃ t, exec (.tempTrip cls u) s = .next t ∧
      t.kpr = { s.kpr with state := .halted, prev := s.kpr.state, haltCause := 4, blanked := true } ∧
      t.frm = { s.frm with phase := .idle } ∧ t.hif.aer.status = s.hif.aer.status ||| 2 ^ 22 ∧ t.mem = s.mem ∧
      t.cores = s.cores ∧ t.prt = s.prt ∧ t.thm = s.thm) ∧
  (∀ (s : State) (l : Nat), linkExists l = true → s.powered = true → 4 ≤ (mapGet linkReplay0 s.net.replay l).inRow → ∃ t,
      exec (.linkReplayLimit l) s = .next t ∧
      t.kpr = { s.kpr with state := .halted, prev := s.kpr.state, haltCause := 1, blanked := true } ∧
      t.frm = { s.frm with phase := .idle } ∧ t.hif.aer.status = s.hif.aer.status ||| 2 ^ 22 ∧ t.mem = s.mem ∧
      t.cores = s.cores ∧ t.prt = s.prt ∧ t.thm = s.thm) ∧
  (∀ (s : State) (c k l cls u what : Nat) (host : Bool), s.kpr.state = .halted → 1 ≤ c → c ≤ 7 → k < 4 →
      linkExists l = true → (cls < 2 ∧ u < 512) ∨ (cls = 2 ∧ u < 4) → what < 4 → exec (.fatalCondition c) s = .next s ∧
      exec .keeperWatchdogExpiry s = .next s ∧ exec (.sillResetRequest k) s = .next s ∧
      exec (.refclkLost what host) s = .next s ∧ exec .hingeFifoSettleTimeout s = .next s ∧
      exec (.tempTrip cls u) s = .next s ∧ exec (.linkReplayLimit l) s = .next s) ∧
  (∀ (s : State), s.kpr.state = .halted → ∃ t, exec .haltHoldEnd s = .next t ∧
      t = { s.afterReset with kpr := t.kpr, sup := t.sup, tel := { s.tel with pemSec := 0, pemN := 0 } } ∧
      t.kpr.resetCause = 3 ∧ t.kpr.haltCause = s.kpr.haltCause ∧ t.kpr.state = .rom ∧ t.kpr.oscEn = true ∧
      t.kpr.oscWait = s.kpr.oscWait ∧ t.kpr.maddr = s.kpr.maddr) ∧
  (∀ (s : State), s.kpr.railsUp = true → s.kpr.perst = true → s.hif.linkUp = true → ∃ t, exec .hotReset s = .next t ∧
      t = { s.afterReset with kpr := t.kpr, sup := t.sup, tel := { s.tel with pemSec := 0, pemN := 0 } } ∧
      t.kpr.resetCause = 2 ∧ t.kpr.haltCause = s.kpr.haltCause ∧ t.kpr.state = .rom ∧ t.kpr.oscEn = true ∧
      t.kpr.oscWait = s.kpr.oscWait ∧ t.kpr.maddr = s.kpr.maddr) ∧
  (∀ (s : State), s.kpr.state ≠ .halted → exec .haltHoldEnd s = .next s) ∧
  (∀ (s : State), s.hif.linkUp = false → exec .hotReset s = .next s)

/-- REGION_GENERATOR_LOCK_TIMEOUT in STAGING and FALLBACK_SWITCH of a held region put the region on the fall-back mesh
at /8 with its set-point at the /8 value, note the lost lock and end the hold. SUSTAINED_DROOP counts the droop,
saturating at 8 bits, and leaves source and divisor alone. GENERATOR_LOCK_LOST of a region on its own generator
holds the region's clocks and changes nothing else; while they are held no core of the region runs. DIVISOR_STEP
moves the divisor one step toward its target, the next step due 1,000 tc later. SHUTTER_RAMP_DONE, 4,000 tc after
its boundary and with no image in force, opens the shutter and starts the region's clocks at /8, on the mesh where
its generator has lost lock. None of them changes another region's clocks. -/
def Obligations.RegionClocks : Prop :=
  (∀ (s : State) (r : Nat), r < regionCount → s.powered = true → s.kpr.state = .staging → s.clk.started = true →
      (s.clkOf r).source = 0 → ∃ t, exec (.regionGeneratorLockTimeout r) s = .next t ∧ (t.clkOf r).source = 1 ∧
      (t.clkOf r).divisor = 8 ∧ (t.clkOf r).lockLost = true ∧ (t.clkOf r).holding = false ∧
      (t.groupOf r).setpoint = 650 + mapGet 0 s.fuses.binTrim r ∧ (∀ k, k ≠ r → t.clkOf k = s.clkOf k)) ∧
  (∀ (s : State) (r : Nat), r < regionCount → s.powered = true → (s.clkOf r).source < 2 → ∃ t,
      exec (.sustainedDroop r) s = .next t ∧
      t.clkOf r = { s.clkOf r with droopEvents := satAdd 8 (s.clkOf r).droopEvents 1 } ∧
      (∀ k, k ≠ r → t.clkOf k = s.clkOf k)) ∧
  (∀ (s : State) (r : Nat), r < regionCount → s.powered = true → (s.clkOf r).source = 0 →
      exec (.generatorLockLost r) s = .next (setClk r (fun c => { c with holding := true, lockLost := true }) s)) ∧
  (∀ (s : State) (r : Nat), r < regionCount → s.powered = true → (s.clkOf r).source = 0 → ∃ t,
      exec (.generatorLockLost r) s = .next t ∧ (∀ n, regionOf n = r → t.coreRuns n = false)) ∧
  (∀ (s : State) (r : Nat), r < regionCount → s.powered = true → (s.clkOf r).source < 2 → (s.clkOf r).holding = true →
      ∃ t, exec (.fallbackSwitch r) s = .next t ∧ (t.clkOf r).source = 1 ∧ (t.clkOf r).divisor = 8 ∧
      (t.clkOf r).target = 8 ∧ (t.clkOf r).lockLost = true ∧ (t.clkOf r).holding = false ∧
      (t.groupOf r).setpoint = 650 + mapGet 0 s.fuses.binTrim r ∧ (∀ k, k ≠ r → t.clkOf k = s.clkOf k)) ∧
  (∀ (s : State) (r : Nat), r < regionCount → s.powered = true → (s.clkOf r).source = 0 → (s.clkOf r).holding = false →
      (s.clkOf r).divisor ≠ (s.clkOf r).target → (s.clkOf r).nextStep ≤ s.frm.tc → ∃ t,
      exec (.divisorStep r) s = .next t ∧
      t.clkOf r = { s.clkOf r with divisor := stepToward (s.clkOf r).divisor (s.clkOf r).target, nextStep := (s.clkOf r).nextStep + 1000 } ∧
      (∀ k, k ≠ r → t.clkOf k = s.clkOf k)) ∧
  (∀ (s : State) (r : Nat), r < regionCount → s.powered = true → (s.groupOf r).shutter = 2 →
      (s.groupOf r).openAt + 4000 ≤ s.frm.tc → s.inForceImage = none → ∃ t, exec (.shutterRampDone r) s = .next t ∧
      (t.groupOf r).shutter = 0 ∧ (t.clkOf r).divisor = 8 ∧ ((s.clkOf r).lockLost = true → (t.clkOf r).source = 1) ∧
      ((s.clkOf r).lockLost = false → (t.clkOf r).source = 0 ∧ (t.clkOf r).nextStep = s.frm.tc + 1000) ∧
      (∀ k, k ≠ r → t.clkOf k = s.clkOf k))

/-- KEEPER_GO, where KPR registers take writes, starts the fetch: result 1, nothing fetched, nothing else changed. A
fetch that ends with any other result than 2 of Table 17.4 leaves the device in ROM with that result and the bytes
fetched, and changes nothing else. One that ends with result 2, every sill PLL and the time counter locked, enters
STAGING with the time counter started at 0, step 5 done and the memory ready; the fused cores and the tiles that
failed are fenced, and every core fenced before stays fenced; the estimator, the light engines and the regulators
have the file's tables, and the protection block is as before. With a sill PLL that did not lock the device is
HALTED with cause 1. BRING_UP_COMPLETE after step 5 publishes the floor plan with generation 2 and enters READY with
step 9 done; the cores and the panes that failed are fenced, no link trains any longer, and memory, core stores and
clocks are as before. -/
def Obligations.KeeperBringUp : Prop :=
  (∀ (s : State), s.kprOpen = true →
      exec .keeperGo s = .next { s with kpr := { s.kpr with fwResult := 1, fetched := 0 } }) ∧
  (∀ (r : FetchResult) (s : State), toBytes r.file = r.file → toBytes r.bundle = r.bundle → s.powered = true →
      s.kpr.state = .rom → s.kpr.fwResult = 1 → s.hif.bme = true → firmwareResult r s ≠ 2 →
      exec (.firmwareVerified r) s = .next
        { s with kpr := { s.kpr with fwResult := firmwareResult r s, fetched := (r.file.length + r.bundle.length) % 2 ^ 32 } }) ∧
  (∀ (r : FetchResult) (s : State), toBytes r.file = r.file → s.powered = true → s.kpr.state = .rom → s.kpr.fwResult = 1 →
      s.hif.bme = true → firmwareResult r s = 2 → r.sillPllOk = true → ∃ t, exec (.firmwareVerified r) s = .next t ∧
      t.kpr.state = .staging ∧ t.kpr.step = 5 ∧ t.frm.tc = 0 ∧ t.frm.tcRuns = true ∧ t.mem.ready = true ∧
      (∀ e, e ∈ s.fuses.fences → e.2.core = true → t.coreFenced e.1 = true) ∧
      (∀ n, n ∈ r.deadTiles → n < 12288 → t.tileFenced n = true) ∧
      (∀ n, s.coreFenced n = true → t.coreFenced n = true) ∧ t.pwr.energies = unitTables r.file 1 ∧
      t.lnk.presets = unitTables r.file 2 ∧ t.sup.params = unitTables r.file 3 ∧ t.prt.block = s.prt.block) ∧
  (∀ (r : FetchResult) (s : State), toBytes r.file = r.file → s.powered = true → s.kpr.state = .rom → s.kpr.fwResult = 1 →
      s.hif.bme = true → firmwareResult r s = 2 → r.sillPllOk = false → ∃ t, exec (.firmwareVerified r) s = .next t ∧
      t.kpr.state = .halted ∧ t.kpr.haltCause = 1) ∧
  (∀ (cores : List Nat) (panes : List (Nat × Nat)) (s : State), s.powered = true → s.kpr.state = .staging →
      s.kpr.step = 5 → ∃ t, exec (.bringUpComplete cores panes) s = .next t ∧ t.kpr.state = .ready ∧
      t.kpr.prev = .staging ∧ t.kpr.step = 9 ∧ t.flp.valid = true ∧ t.flp.gen = 2 ∧
      (∀ n, n ∈ cores → n < 12288 → t.coreFenced n = true) ∧
      (∀ p, p ∈ panes → p.1 < 12288 → p.2 < 2 → t.paneFenced p.1 p.2 = true) ∧
      (∀ l, l < 32 → s.lnk.links.length = 32 → (t.linkOf l).state ≠ .training) ∧ t.mem = s.mem ∧ t.cores = s.cores ∧
      t.clk = s.clk)

/-- LOAD_IMAGE in READY or SUSPENDED with no load running starts a load of the span in the staging registers, shows
result 1 with reason, section and detail cleared, locks the span and changes nothing else. LOAD_VERIFIED ends it
with the answer that the tests of chapter 11 give for the bytes read: a refused load shows result 3 with its reason,
section and detail, ends the lock and keeps the image held; an accepted one shows result 2 and holds the new image;
neither changes DEV.STATE or the core stores. UNLOAD_IMAGE with an image held leaves the device READY with no image
held or in force, no rebinding, and period and member count 0, and ENABLE_IMAGE enters CHECKING with result 4 and a
check that remembers the state it came from; neither changes the stacked memory or the core stores. SUSPEND_IMAGE in
a running frame asks for SUSPENDED at its end and changes nothing else, and between frames enters SUSPENDED at once.
Without an image, enable is refused with 0x0110 and unload with 0x0120. -/
def Obligations.ImageCommands : Prop :=
  (∀ (s : State), s.hostUp = true → s.kpr.state = .ready ∨ s.kpr.state = .suspended → s.dev.loadRun = none →
      exec .loadImage s = .next
        { s with dev := { s.dev with result := 1, sect := 255, detail := 0, reason := 0, loadRun := some { first := s.dev.baseTile, length := s.dev.imageLen, acceptedTc := s.frm.tc }, lock := some (s.dev.baseTile, s.dev.imageLen) } }) ∧
  (∀ (l : LoadRun) (sigOk : Bool) (flips : List (Nat × Nat)) (bad : List Nat) (x : List Nat × State) (s : State),
      s.powered = true → s.dev.loadRun = some l →
      x = readImage l (flipSymbols 0 flips { s with mem := { s.mem with dpBad := bad } }) → ∃ t,
      exec (.loadVerified sigOk flips bad) s = .next t ∧ t.dev.loadRun = none ∧ t.kpr.state = s.kpr.state ∧
      t.cores.store = s.cores.store ∧
      (∀ code sect detail, x.2.loadAnswer l.first l.length x.1 sigOk = .refused code sect detail → t.dev.result = 3 ∧
        t.dev.reason = code ∧ t.dev.sect = sect ∧ t.dev.detail = detail ∧ t.dev.lock = none ∧
        t.dev.image = s.dev.image) ∧
      (∀ i, x.2.loadAnswer l.first l.length x.1 sigOk = .loaded i → t.dev.result = 2 ∧ t.dev.reason = 0 ∧
        t.dev.image = some i)) ∧
  (∀ (i : Image) (s : State), s.hostUp = true → s.kpr.state = .ready ∨ s.kpr.state = .suspended → s.dev.loadRun = none →
      s.dev.image = some i → ∃ t, exec .unloadImage s = .next t ∧ t.dev.image = none ∧ t.dev.inForce = false ∧
      t.dev.rebinds = [] ∧ t.frm.period = 0 ∧ t.frm.members = 0 ∧ t.kpr.state = .ready ∧ t.mem.dram = s.mem.dram ∧
      t.mem.check = s.mem.check ∧ t.cores.store = s.cores.store) ∧
  (∀ (i : Image) (s : State), s.hostUp = true → s.kpr.state = .ready ∨ s.kpr.state = .suspended → s.dev.loadRun = none →
      s.dev.image = some i → ∃ t, exec .enableImage s = .next t ∧ t.kpr.state = .checking ∧
      t.dev = { s.dev with result := 4, sect := 255, detail := 0, reason := 0, checkRun := some { fromSuspended := decide (s.kpr.state = .suspended), acceptedTc := s.frm.tc, fenced := false } } ∧
      t.frm = s.frm ∧ t.mem = s.mem ∧ t.cores = s.cores) ∧
  (∀ (s : State), s.hostUp = true → s.kpr.state = .ready ∨ s.kpr.state = .suspended → s.dev.loadRun = none →
      s.dev.image = none → exec .enableImage s = .next (refuseCtrl 1 0x0110 s) ∧
      exec .unloadImage s = .next (refuseCtrl 4 0x0120 s)) ∧
  (∀ (s : State), s.hostUp = true → s.kpr.state = .running → s.frm.phase = .inFrame →
      exec .suspendImage s = .next { s with dev := { s.dev with suspendReq := true } }) ∧
  (∀ (s : State), s.hostUp = true → s.kpr.state = .running → s.frm.phase = .waiting → ∃ t,
      exec .suspendImage s = .next t ∧ t.kpr.state = .suspended ∧ t.kpr.prev = .running ∧ t.frm.phase = .idle ∧
      t.frm.nextArm = false ∧ t.clk.nextArm = false)

/-- CHECK_COMPLETE where a fence has landed since the enable was accepted gives back the state the enable came from,
with result 6, reason 0x0210 and section 255. Where no fence has landed and a test of chapter 11 fails, it gives
back that state with result 6 and the section, reason and detail of the first that fails; in both the image stays
held and memory, cores and frame registers are as before. Where no fence has landed and every test passes, the image
is in force, the device is RUNNING with result 5, the staging lock has ended and the first frame waits for its
start; a new image's frame numbers start at 0. -/
def Obligations.CheckEnds : Prop :=
  (∀ (c : CheckRun) (i : Image) (hops fibre : Nat) (f : Forecast) (s : State), s.powered = true →
      s.kpr.state = .checking → s.dev.image = some i → s.dev.checkRun = some c → c.fenced = true → ∃ t,
      exec (.checkComplete hops fibre f) s = .next t ∧ t.kpr.state = (if c.fromSuspended then .suspended else .ready) ∧
      t.dev = { s.dev with checkRun := none, result := 6, sect := 255, detail := 0, reason := 0x0210 } ∧ t.mem = s.mem ∧
      t.cores = s.cores ∧ t.frm = s.frm) ∧
  (∀ (c : CheckRun) (i : Image) (hops fibre : Nat) (f : Forecast) (sect code detail : Nat) (s : State), 1 ≤ hops →
      hops < 2 ^ 16 → fibre < 2 ^ 16 → s.powered = true → s.kpr.state = .checking → s.dev.image = some i →
      s.dev.checkRun = some c → c.fenced = false →
      s.checkImage { i := i, resume := s.dev.inForce, accepted := c.acceptedTc, hops := hops, fibre := fibre } = some (sect,
        code, detail) →
      ∃ t, exec (.checkComplete hops fibre f) s = .next t ∧
      t.kpr.state = (if c.fromSuspended then .suspended else .ready) ∧
      t.dev = { s.dev with checkRun := none, result := 6, sect := sect, detail := detail % 2 ^ 32, reason := code } ∧
      t.mem = s.mem ∧ t.cores = s.cores ∧ t.frm = s.frm) ∧
  (∀ (c : CheckRun) (i : Image) (hops fibre : Nat) (f : Forecast) (s : State), 1 ≤ hops → hops < 2 ^ 16 → fibre < 2 ^ 16 →
      s.powered = true → s.kpr.state = .checking → s.dev.image = some i → s.dev.checkRun = some c → c.fenced = false →
      s.checkImage { i := i, resume := s.dev.inForce, accepted := c.acceptedTc, hops := hops, fibre := fibre } = none →
      ∃ t, exec (.checkComplete hops fibre f) s = .next t ∧ t.kpr.state = .running ∧ t.kpr.prev = .checking ∧
      t.dev.inForce = true ∧ t.dev.image = some i ∧ t.dev.result = 5 ∧ t.dev.checkRun = none ∧ t.dev.lock = none ∧
      t.frm.phase = .waiting ∧ t.frm.nextAt = s.firstStart ∧ (s.dev.inForce = false → t.frm.nextNumber = 0))

/-- FRAME_ENTRY, once the start of the waiting frame has come and where the image has no pools, makes it current: its
number, its start, its period, slat 0, and the next frame one number and one period on. SLAT_BOUNDARY, once the next
slat's offset has come, makes that slat current. PLAN_POINT, once the plan lead is reached, marks the next frame as
planned. FRAME_END, once E has come, leaves the frame cycle waiting for the next frame where no fence of the frame
has hit the image, no required link was lost and nobody asked for SUSPENDED; where somebody did, the device is
SUSPENDED and no frame runs. In each of them no other part of the frame cycle changes, the time counter stands
still, and, but for the entry to SUSPENDED, the keeper block is as before. Before its time each of the four changes
nothing. -/
def Obligations.FrameCycle : Prop :=
  (∀ (i : Image) (paths : SMap Nat) (s : State), s.inForceImage = some i → s.powered = true → s.kpr.state = .running →
      s.frm.phase = .waiting → s.frm.nextAt ≤ s.frm.tc → s.dev.suspendReq = false → i.pools = [] → ∃ t,
      exec (.frameEntry paths) s = .next t ∧
      t.frm.cycle = (.inFrame, s.frm.nextNumber, s.frm.nextAt, s.nextPeriodNow, 0, s.frm.nextAt + s.nextPeriodNow,
        s.frm.nextNumber + 1, false) ∧
      t.frm.tc = s.frm.tc ∧ t.kpr = s.kpr) ∧
  (∀ (i : Image) (losses : List (Nat × Nat × Nat)) (drained : List (Nat × Nat)) (s : State), s.inForceImage = some i →
      s.powered = true → s.kpr.state = .running → s.frm.phase = .inFrame → s.frm.slat + 1 ≤ s.frm.slatsM1 →
      (nth (0, 0) s.frm.slats (s.frm.slat + 1)).2 < s.frm.period →
      s.frm.frameStart + (nth (0, 0) s.frm.slats (s.frm.slat + 1)).2 ≤ s.frm.tc → ∃ t,
      exec (.slatBoundary losses drained) s = .next t ∧
      t.frm.cycle = (.inFrame, s.frm.count, s.frm.frameStart, s.frm.period, s.frm.slat + 1, s.frm.nextAt, s.frm.nextNumber,
        s.frm.planned) ∧
      t.frm.tc = s.frm.tc ∧ t.kpr = s.kpr) ∧
  (∀ (i : Image) (f : Forecast) (s : State), s.inForceImage = some i → s.powered = true → s.kpr.state = .running →
      s.frm.phase = .inFrame → s.frm.planned = false → s.frm.nextAt ≤ s.frm.tc + s.frm.planLead → ∃ t,
      exec (.planPoint f) s = .next t ∧
      t.frm.cycle = (.inFrame, s.frm.count, s.frm.frameStart, s.frm.period, s.frm.slat, s.frm.nextAt, s.frm.nextNumber,
        true) ∧
      t.frm.tc = s.frm.tc ∧ t.kpr = s.kpr) ∧
  (∀ (i : Image) (losses : List (Nat × Nat × Nat)) (drained flips : List (Nat × Nat)) (bad : List Nat) (u s : State),
      s.inForceImage = some i → s.powered = true → s.kpr.state = .running → s.frm.phase = .inFrame →
      s.frm.planned = true → s.frm.nextAt ≤ s.frm.tc → s.dev.suspendReq = false →
      u = rebindLost i (endOutcome (prepareReport (shiftCounters (passFrame (stopWork (endSlat s.frm.period (narrowLosses losses) (drainBefore drained (flipSymbols 0 flips { s with mem := { s.mem with dpBad := bad } })))))))) →
      u.unserved i = none → u.lostLinks = [] → ∃ t, exec (.frameEnd losses drained flips bad) s = .next t ∧
      t.frm.cycle = (.waiting, s.frm.count, s.frm.frameStart, s.frm.period, s.frm.slat, s.frm.nextAt, s.frm.nextNumber,
        true) ∧
      t.frm.tc = s.frm.tc ∧ t.kpr = s.kpr) ∧
  (∀ (i : Image) (losses : List (Nat × Nat × Nat)) (drained flips : List (Nat × Nat)) (bad : List Nat) (s : State),
      s.inForceImage = some i → s.powered = true → s.kpr.state = .running → s.frm.phase = .inFrame →
      s.frm.planned = true → s.frm.nextAt ≤ s.frm.tc → s.dev.suspendReq = true → ∃ t,
      exec (.frameEnd losses drained flips bad) s = .next t ∧ t.kpr.state = .suspended ∧ t.frm.phase = .idle ∧
      t.dev.suspendReq = false ∧ t.frm.tc = s.frm.tc) ∧
  (∀ (i : Image) (paths : SMap Nat) (losses : List (Nat × Nat × Nat)) (drained flips : List (Nat × Nat)) (bad : List Nat) (f : Forecast) (s : State),
      s.inForceImage = some i → s.frm.tc + s.frm.planLead < s.frm.nextAt →
      s.frm.tc < s.frm.frameStart + (nth (0, 0) s.frm.slats (s.frm.slat + 1)).2 → exec (.frameEntry paths) s = .next s ∧
      exec (.planPoint f) s = .next s ∧ exec (.frameEnd losses drained flips bad) s = .next s ∧
      exec (.slatBoundary losses drained) s = .next s)

/-- PERIOD_ARM in RUNNING with nothing armed, a usable latch and a period of 1,000 to 67,108,864 tc above the plan lead
plus 128 arms the change; with such a latch and another period it is refused with 0x0131, and with a latch that is
no boundary at least two periods after the present frame's start with 0x0134; while a change is armed it is refused
with 0x0135. PERIOD_WITHDRAW before the plan point of the latch clears the arm bit, and at or after it is refused
with 0x0135; with nothing armed it only sets the period field. LIMIT_WRITE with a divisor of 4 to 8 in READY or
SUSPENDED sets CLK.LIMIT, and with another one is refused with 0x0123. LIMIT_ARM in RUNNING with a usable latch arms
the limit, without one it is refused with 0x0134; LIMIT_WITHDRAW in time clears the arm bit. Nothing else changes in
any of them but what a refusal records. That an arm that fails both tests of R32 shows 0x0134 is the model's choice
(log 120). -/
def Obligations.FrameRegisterWrites : Prop :=
  (∀ (s : State) (p : Nat), s.hostUp = true → s.kpr.state = .running → 1000 ≤ p → p ≤ 67108864 →
      s.frm.planLead + 128 < p → s.frm.nextArm = false → s.latchOk = true →
      exec (.periodArm p) s = .next { s with frm := { s.frm with nextArm := true, nextPeriod := p } }) ∧
  (∀ (s : State) (p : Nat), s.hostUp = true → s.kpr.state = .running → p < 2 ^ 27 → p < 1000 ∨ 67108864 < p ∨
      p ≤ s.frm.planLead + 128 → s.frm.nextArm = false → s.latchOk = true →
      exec (.periodArm p) s = .next (refuse 0x300038 (2 ^ 63 + p) 0x0131 s)) ∧
  (∀ (s : State) (p : Nat), s.hostUp = true → s.kpr.state = .running → p < 2 ^ 27 → s.frm.nextArm = false →
      s.frm.latch < s.frm.frameStart + 2 * s.frm.period ∨ (s.frm.latch - s.frm.frameStart) % s.frm.period ≠ 0 →
      0 < s.frm.period → exec (.periodArm p) s = .next (refuse 0x300038 (2 ^ 63 + p) 0x0134 s)) ∧
  (∀ (s : State) (p : Nat), s.hostUp = true → s.kpr.state = .running → p < 2 ^ 27 → s.frm.nextArm = true →
      exec (.periodArm p) s = .next (refuse 0x300038 (2 ^ 63 + p) 0x0135 s)) ∧
  (∀ (s : State) (p : Nat), s.hostUp = true → s.kpr.state = .running → p < 2 ^ 27 → s.frm.nextArm = true →
      s.frm.tc + s.frm.planLead < s.frm.latch →
      exec (.periodWithdraw p) s = .next { s with frm := { s.frm with nextArm := false } }) ∧
  (∀ (s : State) (p : Nat), s.hostUp = true → s.kpr.state = .running → p < 2 ^ 27 → s.frm.nextArm = true →
      s.frm.latch ≤ s.frm.tc + s.frm.planLead → exec (.periodWithdraw p) s = .next (refuse 0x300038 p 0x0135 s)) ∧
  (∀ (s : State) (p : Nat), s.hostUp = true → s.kpr.state = .running → p < 2 ^ 27 → s.frm.nextArm = false →
      exec (.periodWithdraw p) s = .next { s with frm := { s.frm with nextPeriod := p } }) ∧
  (∀ (s : State) (d : Nat), s.hostUp = true → s.kpr.state = .ready ∨ s.kpr.state = .suspended → 4 ≤ d → d ≤ 8 →
      exec (.limitWrite d) s = .next { s with clk := { s.clk with limit := d } }) ∧
  (∀ (s : State) (d : Nat), s.hostUp = true → s.kpr.state = .ready ∨ s.kpr.state = .suspended → d < 4 ∨ 8 < d → d < 16 →
      exec (.limitWrite d) s = .next (refuse 0x700010 d 0x0123 s)) ∧
  (∀ (s : State) (d : Nat), s.hostUp = true → s.kpr.state = .running → 4 ≤ d → d ≤ 8 → s.clk.nextArm = false →
      s.latchOk = true →
      exec (.limitArm d) s = .next { s with clk := { s.clk with nextArm := true, nextDivisor := d } }) ∧
  (∀ (s : State) (d : Nat), s.hostUp = true → s.kpr.state = .running → 4 ≤ d → d ≤ 8 → s.clk.nextArm = false →
      s.latchOk = false → exec (.limitArm d) s = .next (refuse 0x700018 (2 ^ 63 + d) 0x0134 s)) ∧
  (∀ (s : State) (d : Nat), s.hostUp = true → s.kpr.state = .running → d < 16 → s.clk.nextArm = true →
      s.frm.tc + s.frm.planLead < s.frm.latch →
      exec (.limitWithdraw d) s = .next { s with clk := { s.clk with nextArm := false } })

/-- CAP_WRITE of PWR.CAP1 (0) or PWR.CAP8 (1), in STAGING to SUSPENDED, with 600 to 1,600 W and CAP8 at most CAP1 sets
that cap and changes nothing else; a CAP8 below 600 W or above CAP1 and a CAP1 above 1,600 W or below CAP8 are
refused with 0x0123. COOL_BASE_WRITE in those states sets the base and base_valid, which is 0 for a base of 0, and
changes nothing else but ending a capture. SCRUB_WRITE in READY, RUNNING and SUSPENDED with a period of 1 to 168
hours sets enable and period and nothing else; another period is refused with 0x0320. CE_THRESH_WRITE in those
states with both fields nonzero sets them and nothing else; a zero field is refused with 0x0320. -/
def Obligations.CapCoolAndMemoryRegisters : Prop :=
  (∀ (s : State) (c : Nat), s.hostUp = true → s.inStates capStates = true → c ≤ 1600 → s.pwr.cap8 ≤ c → 600 ≤ s.pwr.cap8 →
      exec (.capWrite 0 c) s = .next { s with pwr := { s.pwr with cap1 := c } }) ∧
  (∀ (s : State) (c : Nat), s.hostUp = true → s.inStates capStates = true → 600 ≤ c → c ≤ s.pwr.cap1 → s.pwr.cap1 ≤ 1600 →
      exec (.capWrite 1 c) s = .next { s with pwr := { s.pwr with cap8 := c } }) ∧
  (∀ (s : State) (c : Nat), s.hostUp = true → s.inStates capStates = true → c < 2 ^ 16 → s.pwr.cap1 < c ∨ c < 600 →
      exec (.capWrite 1 c) s = .next (refuse 0x800008 c 0x0123 s)) ∧
  (∀ (s : State) (c : Nat), s.hostUp = true → s.inStates capStates = true → c < 2 ^ 16 → 1600 < c ∨ c < s.pwr.cap8 →
      exec (.capWrite 0 c) s = .next (refuse 0x800000 c 0x0123 s)) ∧
  (∀ (s : State) (v : Nat), s.hostUp = true → s.inStates capStates = true → v < 2 ^ 16 →
      exec (.coolBaseWrite v) s = .next
        { s with thm := { s.thm with base := v, baseValid := decide (v ≠ 0), selfCaptured := false } }) ∧
  (∀ (s : State) (h : Nat) (on : Bool), s.hostUp = true → s.inStates memWriteStates = true → 1 ≤ h → h ≤ 168 →
      exec (.scrubWrite (256 * b2n on + h)) s = .next
        { s with mem := { s.mem with scrubEnable := on, scrubPeriod := h } }) ∧
  (∀ (s : State) (h : Nat) (on : Bool), s.hostUp = true → s.inStates memWriteStates = true → h = 0 ∨ 168 < h → h < 256 →
      exec (.scrubWrite (256 * b2n on + h)) s = .next (refuse 0xC00008 (256 * b2n on + h) 0x0320 s)) ∧
  (∀ (s : State) (w n : Nat), s.hostUp = true → s.inStates memWriteStates = true → 1 ≤ w → w < 2 ^ 16 → 1 ≤ n →
      n < 2 ^ 24 →
      exec (.ceThreshWrite (2 ^ 32 * w + n)) s = .next { s with mem := { s.mem with ceWindow := w, ceCount := n } }) ∧
  (∀ (s : State) (w n : Nat), s.hostUp = true → s.inStates memWriteStates = true → w < 2 ^ 16 → n < 2 ^ 24 → w = 0 ∨
      n = 0 → exec (.ceThreshWrite (2 ^ 32 * w + n)) s = .next (refuse 0xC00010 (2 ^ 32 * w + n) 0x0320 s))

/-- In READY, RUNNING and SUSPENDED BNK_SEL_WRITE selects an existing bank and refuses any other with 0x0333.
BNK_HCMD_GO there is refused with 0x0330 while the host slot is queued or running, and else with 0x0332 where the
bank is fenced; otherwise the slot takes the five fields of the word, clears its progress, is QUEUED and waits
behind the others. In another state it is refused with 0x0331. DBG_SEL_WRITE, with scope bit 0 unlocked, selects a
core, a slot and a core-store base, and refuses a core that does not exist or a base above 0x7F80 with 0x0123;
DBG_STATUS_CLEAR there clears the flags whose bits are 1. While debug is locked both are refused with 0x0120.
BAR2_BASE_WRITE of at most 704 GiB, in a state that takes it, sets the base; a higher one is refused with 0x0120.
Nothing else changes in any of them but what a refusal records. -/
def Obligations.BankAndDebugRegisters : Prop :=
  (∀ (s : State) (n b : Nat), s.hostUp = true → s.inStates [.ready, .running, .suspended] = true → n < 12288 → b < 24 →
      exec (.bnkSelWrite (32 * n + b)) s = .next { s with bnk := { s.bnk with selTile := n, selBank := b } }) ∧
  (∀ (s : State) (n b : Nat), s.hostUp = true → s.inStates [.ready, .running, .suspended] = true → n < 16384 → b < 32 →
      12288 ≤ n ∨ 24 ≤ b → exec (.bnkSelWrite (32 * n + b)) s = .next (refuse 0xD00008 (32 * n + b) 0x0333 s)) ∧
  (∀ (s : State) (entry op fmt row cm : Nat), s.hostUp = true → s.inStates [.ready, .running, .suspended] = true →
      entry < 256 → op < 16 → fmt < 4 → row < 256 → cm < 2 ^ 16 →
      ((s.unitOf s.bnk.selTile s.bnk.selBank).slot 6).state = 1 ∨
      ((s.unitOf s.bnk.selTile s.bnk.selBank).slot 6).state = 2 →
      exec (.bnkHcmdGo (2 ^ 40 * entry + 2 ^ 36 * op + 2 ^ 34 * fmt + 2 ^ 24 * row + cm)) s = .next
        (refuse 0xD00200 (2 ^ 48 + 2 ^ 40 * entry + 2 ^ 36 * op + 2 ^ 34 * fmt + 2 ^ 24 * row + cm) 0x0330 s)) ∧
  (∀ (s : State) (entry op fmt row cm : Nat), s.hostUp = true → s.inStates [.ready, .running, .suspended] = true →
      entry < 256 → op < 16 → fmt < 4 → row < 256 → cm < 2 ^ 16 →
      ((s.unitOf s.bnk.selTile s.bnk.selBank).slot 6).free = true → s.bankFenced s.bnk.selTile s.bnk.selBank = true →
      exec (.bnkHcmdGo (2 ^ 40 * entry + 2 ^ 36 * op + 2 ^ 34 * fmt + 2 ^ 24 * row + cm)) s = .next
        (refuse 0xD00200 (2 ^ 48 + 2 ^ 40 * entry + 2 ^ 36 * op + 2 ^ 34 * fmt + 2 ^ 24 * row + cm) 0x0332 s)) ∧
  (∀ (s : State) (entry op fmt row cm : Nat), s.hostUp = true → s.inStates [.ready, .running, .suspended] = false →
      entry < 256 → op < 16 → fmt < 4 → row < 256 → cm < 2 ^ 16 →
      exec (.bnkHcmdGo (2 ^ 40 * entry + 2 ^ 36 * op + 2 ^ 34 * fmt + 2 ^ 24 * row + cm)) s = .next
        (refuse 0xD00200 (2 ^ 48 + 2 ^ 40 * entry + 2 ^ 36 * op + 2 ^ 34 * fmt + 2 ^ 24 * row + cm) 0x0331 s)) ∧
  (∀ (s : State) (entry op fmt row cm : Nat), s.hostUp = true → s.inStates [.ready, .running, .suspended] = true →
      entry < 256 → op < 16 → fmt < 4 → row < 256 → cm < 2 ^ 16 →
      ((s.unitOf s.bnk.selTile s.bnk.selBank).slot 6).free = true →
      (s.unitOf s.bnk.selTile s.bnk.selBank).slots.length = 8 → s.bankFenced s.bnk.selTile s.bnk.selBank = false → ∃ t,
      exec (.bnkHcmdGo (2 ^ 40 * entry + 2 ^ 36 * op + 2 ^ 34 * fmt + 2 ^ 24 * row + cm)) s = .next t ∧
      (t.unitOf s.bnk.selTile s.bnk.selBank) = { (s.unitOf s.bnk.selTile s.bnk.selBank) with order := (s.unitOf s.bnk.selTile s.bnk.selBank).order ++ [6], slots := setNth (s.unitOf s.bnk.selTile s.bnk.selBank).slots 6 { (s.unitOf s.bnk.selTile s.bnk.selBank).slot 6 with state := 1, cause := 0, changedTc := s.frm.tc, entry := entry, op := op, accFmt := fmt, rowLen := row, countM1 := cm, entriesDone := 0, resultUsed := 0, nan := false, sat := false } } ∧
      (∀ k, k ≠ s.bnk.selTile * 32 + s.bnk.selBank → mapGet bankUnit0 t.bnk.units k = mapGet bankUnit0 s.bnk.units k) ∧
      t = { s with bnk := { s.bnk with units := t.bnk.units } }) ∧
  (∀ (s : State) (core slot base : Nat), s.hostUp = true → s.dbgOpen = true → core < 12288 → slot < 4 → base ≤ 0x7F80 →
      exec (.dbgSelWrite (2 ^ 34 * core + 2 ^ 32 * slot + base)) s = .next
        { s with dbg := { s.dbg with core := core, slot := slot, csBase := base } }) ∧
  (∀ (s : State) (core slot base : Nat), s.hostUp = true → s.dbgOpen = true → core < 16384 → slot < 4 → base < 0x8000 →
      12288 ≤ core ∨ 0x7F80 < base →
      exec (.dbgSelWrite (2 ^ 34 * core + 2 ^ 32 * slot + base)) s = .next
        (refuse 0xF00008 (2 ^ 34 * core + 2 ^ 32 * slot + base) 0x0123 s)) ∧
  (∀ (s : State) (a b : Bool), s.hostUp = true → s.dbgOpen = true →
      exec (.dbgStatusClear (2 * b2n a + b2n b)) s = .next
        { s with dbg := { s.dbg with paritySeen := s.dbg.paritySeen && !a, selChanged := s.dbg.selChanged && !b } }) ∧
  (∀ (s : State) (core slot base v : Nat), s.hostUp = true → s.dbgOpen = false → core < 16384 → slot < 4 → base < 0x8000 →
      v < 4 →
      exec (.dbgSelWrite (2 ^ 34 * core + 2 ^ 32 * slot + base)) s = .next
        (refuse 0xF00008 (2 ^ 34 * core + 2 ^ 32 * slot + base) 0x0120 s) ∧
      exec (.dbgStatusClear v) s = .next (refuse 0xF00000 v 0x0120 s)) ∧
  (∀ (s : State) (v : Nat), s.hostUp = true → s.inStates memStates = true → v ≤ 704 →
      exec (.bar2BaseWrite v) s = .next { s with hif := { s.hif with baseGib := v } }) ∧
  (∀ (s : State) (v : Nat), s.hostUp = true → 704 < v → v < 1024 →
      exec (.bar2BaseWrite v) s = .next (refuse 0x500008 v 0x0120 s))

/-- REGISTER_WRITE of 8 or 16 bits, or at an offset not aligned to its width, is refused with its own offset and value
and changes no register. A 64-bit write of DEV.STATE or FRM.COUNT, which are read-only, is refused with 0x0123. A
64-bit write of FRM.START in READY or SUSPENDED sets it, and in RUNNING it is refused with 0x0120. A 32-bit write of
FRM.START changes one half and keeps the other. A write before the keeper runs or in D3hot changes nothing. Once the
link is up a write of the AER mask or severity register in configuration space sets it, and one of its status
register clears the bits written with 1; where these registers stand is presumed (log 99). -/
def Obligations.RegisterWriteRules : Prop :=
  (∀ (s : State) (off w v : Nat), s.hostUp = true → off < 2 ^ 24 → w = 1 ∨ w = 2 → v < 2 ^ (8 * w) →
      exec (.registerWrite off w v) s = .next (refuse off v 0 s)) ∧
  (∀ (s : State) (off w v : Nat), s.hostUp = true → off < 2 ^ 24 → w = 4 ∨ w = 8 → off % w ≠ 0 → v < 2 ^ (8 * w) →
      exec (.registerWrite off w v) s = .next (refuse off v 0 s)) ∧
  (∀ (s : State) (v : Nat), s.hostUp = true → v < 2 ^ 64 →
      exec (.registerWrite 0x000008 8 v) s = .next (refuse 0x000008 v 0x0123 s) ∧
      exec (.registerWrite 0x300000 8 v) s = .next (refuse 0x300000 v 0x0123 s)) ∧
  (∀ (s : State) (v : Nat), s.hostUp = true → v < 2 ^ 64 → s.kpr.state = .ready ∨ s.kpr.state = .suspended →
      exec (.registerWrite 0x300028 8 v) s = .next { s with frm := { s.frm with startReg := v } }) ∧
  (∀ (s : State) (v : Nat), s.hostUp = true → v < 2 ^ 64 → s.kpr.state = .running →
      exec (.registerWrite 0x300028 8 v) s = .next (refuse 0x300028 v 0x0120 s)) ∧
  (∀ (s : State) (lo hi : Nat), s.hostUp = true → lo < 2 ^ 32 → hi < 2 ^ 32 → s.kpr.state = .suspended →
      s.frm.startReg < 2 ^ 64 →
      exec (.registerWrite 0x300028 4 lo) s = .next
        { s with frm := { s.frm with startReg := s.frm.startReg / 2 ^ 32 * 2 ^ 32 + lo } } ∧
      exec (.registerWrite 0x30002C 4 hi) s = .next
        { s with frm := { s.frm with startReg := s.frm.startReg % 2 ^ 32 + hi * 2 ^ 32 } }) ∧
  (∀ (s : State) (off w v : Nat), s.hostUp = false → off < 2 ^ 24 → w = 1 ∨ w = 2 ∨ w = 4 ∨ w = 8 → v < 2 ^ (8 * w) →
      exec (.registerWrite off w v) s = .next s) ∧
  (∀ (s : State) (v : Nat), s.hif.linkUp = true → v < 2 ^ 32 →
      exec (.registerWrite 0x1000008 4 v) s = .next
        { s with hif := { s.hif with aer := { s.hif.aer with mask := v } } } ∧
      exec (.registerWrite 0x100000C 4 v) s = .next
        { s with hif := { s.hif with aer := { s.hif.aer with severity := v } } }) ∧
  (∀ (s : State) (v : Nat), s.hif.linkUp = true → v < 2 ^ 32 → ∃ t, exec (.registerWrite 0x1000004 4 v) s = .next t ∧
      t.hif.aer.status = s.hif.aer.status &&& (0xFFFFFFFF ^^^ v) ∧ t.hif.aer.mask = s.hif.aer.mask ∧
      t = { s with hif := { s.hif with aer := t.hif.aer } })

/-- QP_ENABLE of a pair that is not enabled or busy, with both bases set, a size of 16 to 4,096 and a vector below 64,
enables it with both queues empty and phase 1; without the feature bit it is refused with 0x0610, and a bad size
with 0x0730. QP_DISABLE of an enabled pair without sequences or forks takes it out of service: what it held and its
waiting OPENs go. A write of 4 or 8 bytes to the SQ doorbell of an enabled pair in BAR4 moves its tail to bits
[11:0], and ends the wait after a second failed fetch; one to the CQ doorbell moves the head where nothing is held
or parked. An index past the size, or a pair that is not enabled, is refused with 0x0731, and a head beyond the last
written entry with 0x0732. A write of BAR4 of another width or at another offset, and any while BAR4 does not
decode, changes nothing. Nothing else changes in any of them but what a refusal records. REQ_COALESCE_TIMEOUT, once
coalesce_us have passed since the first unsignalled completion, signals the vector and clears the count.
SQ_FETCH_RETRY, 1 ms after a failed read, lets the pair fetch again. A HOST_READ_FAILED sets its AER bit and raises
event 0x0072 with the queue pair; for a pair that fetches it notes the first failure with its time, and at the
failure of the retry the pair stops fetching; for the buffer of an APPEND whose next token is not read yet the
APPEND ends, the tokens read so far stay and the others of its buffer go. While Bus Master Enable is 0 no read is
out and it changes nothing. Nothing else changes in any of them. -/
def Obligations.QueuePairRegisters : Prop :=
  (∀ (s : State) (q vec n us sz : Nat), s.hostUp = true → s.inStates qpStates = true → q < 256 → vec < 64 → n < 256 →
      us < 2 ^ 16 → 4 ≤ sz → sz ≤ 12 → s.kpr.features.req = true → (s.qpOf q).enable = false → (s.qpOf q).busy = false →
      (s.qpOf q).sqBase ≠ 0 → (s.qpOf q).cqBase ≠ 0 →
      exec (.qpEnable q (2 ^ 40 * vec + 2 ^ 32 * n + 2 ^ 16 * us + sz)) s = .next
        (setQp q (fun p => { p with enable := true, vector := vec, coalN := n, coalUs := us, sizeLog2 := sz, sqHead := 0, sqTail := 0, cqHead := 0, cqTail := 0, phase := true, held := [], parked := [], unsignalled := 0, fetchFailed := 0 }) s)) ∧
  (∀ (s : State) (q v : Nat), s.hostUp = true → s.inStates qpStates = true → q < 256 → v < 2 ^ 63 →
      s.kpr.features.req = false → exec (.qpEnable q v) s = .next (refuse (qpOff q 2) (v + 2 ^ 63) 0x0610 s)) ∧
  (∀ (s : State) (q sz : Nat), s.hostUp = true → s.inStates qpStates = true → q < 256 → sz < 4 ∨ 12 < sz → sz < 16 →
      s.kpr.features.req = true → exec (.qpEnable q sz) s = .next (refuse (qpOff q 2) (sz + 2 ^ 63) 0x0730 s)) ∧
  (∀ (s : State) (q v : Nat), s.hostUp = true → s.inStates qpStates = true → q < 256 → v < 2 ^ 63 →
      (s.qpOf q).enable = true → s.req.seqs.all (fun e => decide (e.2.qp ≠ q)) = true →
      s.req.forks.all (fun f => decide (f.qp ≠ q)) = true → ∃ t, exec (.qpDisable q v) s = .next t ∧
      t.qpOf q = { s.qpOf q with enable := false, busy := false, held := [], parked := [], unsignalled := 0, fetchFailed := 0 } ∧
      (∀ j, j ≠ q → t.qpOf j = s.qpOf j) ∧
      t = { s with req := { s.req with qp := t.req.qp, opens := s.req.opens.filter (fun o => decide (o.qp ≠ q)) } }) ∧
  (∀ (s : State) (q w v : Nat), s.bar4Live = true → q < 256 → w = 4 ∨ w = 8 → (s.qpOf q).enable = true →
      v % 4096 < (s.qpOf q).size →
      exec (.sqTailDoorbell (4096 * q) w v) s = .next
        (setQp q (fun p => { p with sqTail := v % 4096, fetchFailed := if p.fetchFailed = 3 then 0 else p.fetchFailed }) s)) ∧
  (∀ (s : State) (q w v : Nat), s.bar4Live = true → q < 256 → w = 4 ∨ w = 8 → (s.qpOf q).enable = false ∨
      (s.qpOf q).size ≤ v % 4096 → exec (.sqTailDoorbell (4096 * q) w v) s = .next (refuse bar4Unit v 0x0731 s)) ∧
  (∀ (s : State) (q w v : Nat), s.bar4Live = true → q < 256 → w = 4 ∨ w = 8 → (s.qpOf q).enable = false ∨
      (s.qpOf q).size ≤ v % 4096 → ∃ t, exec (.cqHeadDoorbell (4096 * q + 8) w v) s = .next t ∧
      t = releaseCq q (refuse bar4Unit v 0x0731 s)) ∧
  (∀ (s : State) (q w v : Nat), s.bar4Live = true → q < 256 → w = 4 ∨ w = 8 → (s.qpOf q).enable = true →
      v % 4096 < (s.qpOf q).size →
      (s.qpOf q).usedSlots < (v % 4096 + (s.qpOf q).size - (s.qpOf q).cqHead) % (s.qpOf q).size →
      exec (.cqHeadDoorbell (4096 * q + 8) w v) s = .next (releaseCq q (refuse bar4Unit v 0x0732 s))) ∧
  (∀ (s : State) (q w v : Nat), s.bar4Live = true → q < 256 → w = 4 ∨ w = 8 → (s.qpOf q).enable = true →
      v % 4096 < (s.qpOf q).size →
      (v % 4096 + (s.qpOf q).size - (s.qpOf q).cqHead) % (s.qpOf q).size ≤ (s.qpOf q).usedSlots → (s.qpOf q).held = [] →
      (s.qpOf q).parked = [] → ∃ t, exec (.cqHeadDoorbell (4096 * q + 8) w v) s = .next t ∧
      (t.qpOf q) = { s.qpOf q with cqHead := v % 4096 } ∧ (∀ j, j ≠ q → t.qpOf j = s.qpOf j) ∧
      t = { s with req := { s.req with qp := t.req.qp } }) ∧
  (∀ (s : State) (off w v : Nat), s.bar4Live = false ∨ (w ≠ 4 ∧ w ≠ 8) ∨ off % w ≠ 0 ∨ (off % 4096 ≠ 0 ∧ off % 4096 ≠ 8) →
      off < 2 ^ 20 → exec (.sqTailDoorbell off w v) s = .next s ∧ exec (.cqHeadDoorbell off w v) s = .next s) ∧
  (∀ (s : State) (q : Nat), q < 256 → (s.qpOf q).enable = true → 0 < (s.qpOf q).unsignalled → 0 < (s.qpOf q).coalUs →
      (s.qpOf q).unsignalledAt + (s.qpOf q).coalUs * 1000 ≤ s.frm.tc →
      exec (.reqCoalesceTimeout q) s = .next
        (signalMsix (s.qpOf q).vector (setQp q (fun p => { p with unsignalled := 0 }) s))) ∧
  (∀ (s : State) (q : Nat), q < 256 → (s.qpOf q).enable = true → (s.qpOf q).fetchFailed = 1 →
      (s.qpOf q).failedAt + 1000000 ≤ s.frm.tc →
      exec (.sqFetchRetry q) s = .next (setQp q (fun p => { p with fetchFailed := 2 }) s)) ∧
  (∀ (s : State) (q : Nat) (e : ReadEnd), s.powered = true → s.hif.bme = true → s.canFetch q = true →
      exec (.hostReadFailed (.fetch q) e) s = .next
        (setQp q (fun p => if p.fetchFailed = 2 then { p with fetchFailed := 3 } else { p with fetchFailed := 1, failedAt := s.frm.tc }) (raise 0x0072 1 q [e.code] (aerError e.aerBit (aerHeader 2 0 0) s)))) ∧
  (∀ (s : State) (e : ReadEnd), s.powered = true → s.hif.bme = true →
      exec (.hostReadFailed .keeper e) s = .next
        (raise 0x0072 1 noUnit [e.code] (aerError e.aerBit (aerHeader 2 0 0) s))) ∧
  (∀ (s : State) (n : Nat) (e : ReadEnd) (a : AppendRun) (i : Nat), s.powered = true → s.hif.bme = true →
      (s.seqOf n).appends = [a] → (s.seqOf n).known.findIdx (fun t => t.isNone) = i → i ≤ a.left →
      i < (s.seqOf n).known.length → (s.seqOf n).work = [] → ∃ t, exec (.hostReadFailed (.buffer n) e) s = .next t ∧
      (t.seqOf n).appends = [] ∧ (t.seqOf n).known = (s.seqOf n).known.take i ++ (s.seqOf n).known.drop (a.left + 1) ∧
      (t.seqOf n).len = (s.seqOf n).len ∧ t.hif.aer.status = s.hif.aer.status ||| 2 ^ e.aerBit ∧ t.mem = s.mem ∧
      t.frm = s.frm) ∧
  (∀ (s : State) (r : HostReader) (e : ReadEnd), s.powered = false ∨ s.hif.bme = false →
      exec (.hostReadFailed r e) s = .next s)

/-- An accepted entry passes the head of its queue. OPEN of a pool set the service uses, or of any set (0xFF), waits for
the next admission pass, and nothing else changes. APPEND of 1 to 8 inline tokens to an idle sequence that a
GENERATE holds up waits in its work queue, and one of more than 8 tokens from a host buffer waits there with its
tokens unread. To a sequence without work or tokens, APPEND of 2 to 8 tokens makes the first one pending and the
rest unprocessed, where they fit the maximum length. GENERATE with parameters in range, on a sequence whose tokens
are all processed but the pending one, starts. An entry in another state than its command is served in completes
with the reason of Table 10.7; a reserved field that is not 0 completes with 0x0720; a sequence that the pair does
not own completes with 0x0721. -/
def Obligations.EntriesAreAccepted : Prop :=
  (∀ (s : State) (q : Nat) (b e : List Nat), q < 256 → e = entryBytes 1 b → s.canFetch q = true →
      (s.qpOf q).parked.any (sameSeq e) = false → s.stateReason false = 0 →
      allZero e [(1, 3), (12, 4), (17, 1), (20, 44)] = true → leAt e 16 1 = 0xFF ∨ leAt e 16 1 ∈ s.serviceSets →
      exec (.openEntry q b) s = .next
        { passHead q s with req := { (passHead q s).req with opens := s.req.opens ++ [{ tag := entryTag e, qp := q, poolSet := leAt e 16 1, wait := leAt e 18 2, frame := s.frm.count }] } }) ∧
  (∀ (s : State) (q : Nat) (b e : List Nat), q < 256 → e = entryBytes 2 b → s.canFetch q = true →
      (s.qpOf q).parked.any (sameSeq e) = false → s.stateReason false = 0 →
      allZero e [(1, 3), (12, 4), (20, 4)] = true → (s.seqOf (entrySeq e)).state = .idle →
      (s.seqOf (entrySeq e)).qp = q →
      s.req.forks.all (fun f => decide (f.child ≠ entrySeq e) && decide (f.parent ≠ entrySeq e)) = true →
      1 ≤ leAt e 16 4 → leAt e 16 4 ≤ 8 → (s.seqOf (entrySeq e)).workUsed < 4 →
      appendTooLong (leAt e 16 4) (s.seqOf (entrySeq e)) s = false → (s.seqOf (entrySeq e)).gen.isSome = true →
      (s.seqOf (entrySeq e)).work = [] →
      exec (.appendEntry q b) s = .next
        (setSeq (entrySeq e) (fun x => { x with work := [.append (entryTag e) ((List.range (leAt e 16 4)).map (fun i => some (leAt e (32 + 4 * i) 4))) (leAt e 24 8)] }) (passHead q s))) ∧
  (∀ (s : State) (q : Nat) (b e : List Nat), q < 256 → e = entryBytes 2 b → s.canFetch q = true →
      (s.qpOf q).parked.any (sameSeq e) = false → s.stateReason false = 0 →
      allZero e [(1, 3), (12, 4), (20, 4)] = true → (s.seqOf (entrySeq e)).state = .idle →
      (s.seqOf (entrySeq e)).qp = q →
      s.req.forks.all (fun f => decide (f.child ≠ entrySeq e) && decide (f.parent ≠ entrySeq e)) = true →
      8 < leAt e 16 4 → leAt e 16 4 ≤ 65535 → leAt e 24 8 % 4 = 0 → (s.seqOf (entrySeq e)).workUsed < 4 →
      appendTooLong (leAt e 16 4) (s.seqOf (entrySeq e)) s = false → (s.seqOf (entrySeq e)).gen.isSome = true →
      (s.seqOf (entrySeq e)).work = [] →
      exec (.appendEntry q b) s = .next
        (setSeq (entrySeq e) (fun x => { x with work := [.append (entryTag e) (List.replicate (leAt e 16 4) none) (leAt e 24 8)] }) (passHead q s))) ∧
  (∀ (s : State) (q : Nat) (b e : List Nat), q < 256 → e = entryBytes 2 b → s.canFetch q = true →
      (s.qpOf q).parked.any (sameSeq e) = false → s.stateReason false = 0 →
      allZero e [(1, 3), (12, 4), (20, 4)] = true → (s.seqOf (entrySeq e)).state = .idle →
      (s.seqOf (entrySeq e)).qp = q →
      s.req.forks.all (fun f => decide (f.child ≠ entrySeq e) && decide (f.parent ≠ entrySeq e)) = true →
      2 ≤ leAt e 16 4 → leAt e 16 4 ≤ 8 → appendTooLong (leAt e 16 4) (s.seqOf (entrySeq e)) s = false →
      (s.seqOf (entrySeq e)).tags = [] → (s.seqOf (entrySeq e)).pending = none →
      (s.seqOf (entrySeq e)).unprocessed = [] → ∃ t, exec (.appendEntry q b) s = .next t ∧
      (t.seqOf (entrySeq e)).pending = some (leAt e 32 4) ∧
      (t.seqOf (entrySeq e)).unprocessed = ((List.range (leAt e 16 4)).map (fun i => some (leAt e (32 + 4 * i) 4))).tail ∧
      (t.seqOf (entrySeq e)).tags = [entryTag e] ∧ (t.seqOf (entrySeq e)).len = (s.seqOf (entrySeq e)).len ∧
      t.req.qp = (passHead q s).req.qp ∧ t.hostMem = s.hostMem ∧ t.mem = s.mem) ∧
  (∀ (s : State) (q : Nat) (b e : List Nat), q < 256 → e = entryBytes 3 b → s.canFetch q = true →
      (s.qpOf q).parked.any (sameSeq e) = false → s.stateReason false = 0 →
      allZero e [(1, 3), (12, 4), (37, 3), (48, 16)] = true → (s.seqOf (entrySeq e)).state = .idle →
      (s.seqOf (entrySeq e)).qp = q →
      s.req.forks.all (fun f => decide (f.child ≠ entrySeq e) && decide (f.parent ≠ entrySeq e)) = true →
      s.genOk (parseGen e) = true → (s.seqOf (entrySeq e)).tags = [] → (s.seqOf (entrySeq e)).pending.isSome = true →
      (s.seqOf (entrySeq e)).unprocessed = [] →
      (s.seqOf (entrySeq e)).len + 1 ≤ s.maxLen (s.seqOf (entrySeq e)).poolSet → ∃ t,
      exec (.generateEntry q b) s = .next t ∧
      t.seqOf (entrySeq e) = { s.seqOf (entrySeq e) with gen := some { tag := entryTag e, p := parseGen e, remaining := leAt e 16 4, proposals := [], first := true } } ∧
      (∀ n, n ≠ entrySeq e → t.seqOf n = s.seqOf n) ∧
      t = { passHead q s with req := { (passHead q s).req with seqs := t.req.seqs } }) ∧
  (∀ (s : State) (q : Nat) (b e : List Nat), q < 256 → e = entryBytes 4 b → s.canFetch q = true →
      (s.qpOf q).parked.any (sameSeq e) = false → 0 < s.freeSlots q → s.stateReason false ≠ 0 →
      exec (.forkEntry q b) s = .next
        (complete q (lastCqe (entryTag e) (entrySeq e) (s.stateReason false) 0x01 0) (passHead q s))) ∧
  (∀ (s : State) (q : Nat) (b e : List Nat), q < 256 → e = entryBytes 4 b → s.canFetch q = true →
      (s.qpOf q).parked.any (sameSeq e) = false → 0 < s.freeSlots q → s.stateReason false = 0 →
      allZero e [(1, 3), (12, 52)] = false →
      exec (.forkEntry q b) s = .next (complete q (lastCqe (entryTag e) (entrySeq e) 0x0720 0x02 0) (passHead q s))) ∧
  (∀ (s : State) (q : Nat) (b e : List Nat), q < 256 → e = entryBytes 4 b → s.canFetch q = true →
      (s.qpOf q).parked.any (sameSeq e) = false → s.stateReason false = 0 → allZero e [(1, 3), (12, 52)] = true →
      0 < s.freeSlots q → (s.seqOf (entrySeq e)).state = .free ∨ (s.seqOf (entrySeq e)).qp ≠ q →
      exec (.forkEntry q b) s = .next (complete q (lastCqe (entryTag e) (entrySeq e) 0x0721 0x04 0) (passHead q s))) ∧
  (∀ (s : State) (q : Nat) (b e : List Nat), q < 256 → e = entryBytes 1 b → s.canFetch q = false →
      exec (.openEntry q b) s = .next s)

/-- FORK of an idle sequence without work, with a free context, a free page table, groups for its unsealed pages and
room for its shares, makes a child in FORKING with the parent's length whose copy runs. FORK_COPY_DONE makes the
child IDLE with the parent's length and ends the run. CLOSE with cancel_only ends the work of the sequence and keeps
it open; without it, a sequence with no step under way and no fork is FREE again and leaves its ring. QUERY
completes with the state of Table 10.8 and changes no sequence; an opcode that Table 10.1 does not list completes
with 0x0720. While the completion queue is full, or an entry of its sequence waits already, a QUERY waits for space. -/
def Obligations.SequencesForkAndClose : Prop :=
  (∀ (s s2 : State) (q : Nat) (b e : List Nat) (pages : List Page), q < 256 → e = entryBytes 4 b → s.canFetch q = true →
      (s.qpOf q).parked.any (sameSeq e) = false → s.stateReason false = 0 → allZero e [(1, 3), (12, 52)] = true →
      s.cqFull q = false → (s.seqOf (entrySeq e)).state = .idle → (s.seqOf (entrySeq e)).qp = q →
      s.req.forks.all (fun f => decide (f.child ≠ entrySeq e) && decide (f.parent ≠ entrySeq e)) = true →
      (s.seqOf (entrySeq e)).tags = [] → s.sharesFull (s.seqOf (entrySeq e)) = false → s.freeContexts ≠ [] →
      s.freeTables (s.seqOf (entrySeq e)).poolSet ≠ [] →
      forkPages (s.poolsOf (s.seqOf (entrySeq e)).poolSet) 0 (s.seqOf (entrySeq e)).pages [] (passHead q s) = some (pages,
        s2) →
      ∃ t, exec (.forkEntry q b) s = .next t ∧
      t.req.forks = s2.req.forks ++ [{ tag := entryTag e, qp := q, parent := entrySeq e, child := pick s2.fresh 0 s.freeContexts }] ∧
      (t.seqOf (pick s2.fresh 0 s.freeContexts)).state = .forking ∧
      (t.seqOf (pick s2.fresh 0 s.freeContexts)).pages = pages ∧
      (t.seqOf (pick s2.fresh 0 s.freeContexts)).len = (s.seqOf (entrySeq e)).len ∧ t.hostMem = s2.hostMem) ∧
  (∀ (s : State) (f : ForkRun) (child : Nat) (flips : List (Nat × Nat)) (bad : List Nat), child < 16384 →
      s.req.forks.find? (fun g => decide (g.child = child)) = some f → s.powered = true →
      (s.seqOf f.parent).steps = [] → ∃ t, exec (.forkCopyDone child flips bad) s = .next t ∧
      (t.seqOf child).state = .idle ∧ (t.seqOf child).len = (s.seqOf f.parent).len ∧
      t.req.forks = s.req.forks.filter (fun g => decide (g.child ≠ child))) ∧
  (∀ (s : State) (q : Nat) (b e : List Nat), q < 256 → e = entryBytes 5 b → s.canFetch q = true →
      (s.qpOf q).parked.any (sameSeq e) = false → s.stateReason true = 0 → allZero e [(2, 2), (12, 52)] = true →
      0 < s.freeSlots q → nth 0 e 1 = 1 → (s.seqOf (entrySeq e)).state = .idle → (s.seqOf (entrySeq e)).qp = q →
      s.req.forks.all (fun f => decide (f.child ≠ entrySeq e) && decide (f.parent ≠ entrySeq e)) = true → ∃ t,
      exec (.closeEntry q b) s = .next t ∧ (t.seqOf (entrySeq e)).tags = [] ∧ (t.seqOf (entrySeq e)).state = .idle ∧
      (t.seqOf (entrySeq e)).len = (s.seqOf (entrySeq e)).len ∧
      (t.seqOf (entrySeq e)).pages = (s.seqOf (entrySeq e)).pages ∧ (∀ n, n ≠ entrySeq e → t.seqOf n = s.seqOf n)) ∧
  (∀ (s : State) (q : Nat) (b e : List Nat), q < 256 → e = entryBytes 5 b → s.canFetch q = true →
      (s.qpOf q).parked.any (sameSeq e) = false → s.stateReason true = 0 → allZero e [(1, 3), (12, 52)] = true →
      0 < s.freeSlots q → (s.seqOf (entrySeq e)).state = .idle → (s.seqOf (entrySeq e)).qp = q →
      s.req.forks.all (fun f => decide (f.child ≠ entrySeq e) && decide (f.parent ≠ entrySeq e)) = true →
      (s.seqOf (entrySeq e)).steps = [] → ∃ t, exec (.closeEntry q b) s = .next t ∧ t.seqOf (entrySeq e) = seq0 ∧
      (entrySeq e) ∉ mapGet [] t.req.rings (s.seqOf (entrySeq e)).poolSet ∧
      (∀ n, n ≠ entrySeq e → t.seqOf n = s.seqOf n)) ∧
  (∀ (s : State) (q : Nat) (b e : List Nat), q < 256 → e = entryBytes (queryOpcode b) b → s.canFetch q = true →
      (s.qpOf q).parked.any (sameSeq e) = false → s.stateReason true = 0 → allZero e [(1, 3), (12, 52)] = true →
      nth 0 e 0 = 6 → 0 < s.freeSlots q → (s.seqOf (entrySeq e)).state ≠ .free → (s.seqOf (entrySeq e)).qp = q →
      s.req.forks.all (fun f => decide (f.child ≠ entrySeq e) && decide (f.parent ≠ entrySeq e)) = true →
      exec (.queryEntry q b) s = .next
        (complete q { lastCqe (entryTag e) (entrySeq e) 0 0 (s.seqOf (entrySeq e)).len with data := s.queryData (entrySeq e) } (passHead q s))) ∧
  (∀ (s : State) (q : Nat) (b e : List Nat), q < 256 → e = entryBytes (queryOpcode b) b → nth 0 e 0 = 0 ∨ 6 < nth 0 e 0 →
      s.canFetch q = true → (s.qpOf q).parked.any (sameSeq e) = false → 0 < s.freeSlots q → s.stateReason true = 0 →
      exec (.queryEntry q b) s = .next (complete q (lastCqe (entryTag e) (entrySeq e) 0x0720 0x02 0) (passHead q s))) ∧
  (∀ (s : State) (q : Nat) (b e : List Nat), q < 256 → e = entryBytes (queryOpcode b) b → s.canFetch q = true →
      (s.qpOf q).parked.any (sameSeq e) = true ∨ s.freeSlots q = 0 →
      exec (.queryEntry q b) s = .next (setQp q (fun p => { p with parked := p.parked ++ [e] }) (passHead q s)))

/-- Completing a command of an enabled pair that holds no completion: with a free slot and Bus Master Enable set, the 64
bytes of Table 10.3 are written at the CQ tail in two writes, bytes 16 to 63 first, the tail moves on, and the phase
inverts where it returns to slot 0; without a free slot the completion is held and host memory is unchanged.
Completing for a pair out of service does nothing. No other pair, no sequence and no memory of the device changes. -/
def Obligations.CompletionsReachTheHost : Prop :=
  ∀ (q : Nat) (c : Cqe) (s : State),
    ((s.qpOf q).enable = true → (s.qpOf q).held = [] → 0 < s.freeSlots q →
      (complete q c s).hostMem =
          memPutBytes (memPutBytes s.hostMem ((s.qpOf q).cqBase * 4096 + 64 * (s.qpOf q).cqTail + 16) (cqeRest c))
            ((s.qpOf q).cqBase * 4096 + 64 * (s.qpOf q).cqTail) (cqeHead c (s.qpOf q).sqHead (s.qpOf q).phase) ∧
        ((complete q c s).qpOf q).cqTail = ((s.qpOf q).cqTail + 1) % (s.qpOf q).size ∧
        ((complete q c s).qpOf q).held = [] ∧
        ((complete q c s).qpOf q).phase =
          (if ((s.qpOf q).cqTail + 1) % (s.qpOf q).size = 0 then !(s.qpOf q).phase else (s.qpOf q).phase)) ∧
    ((s.qpOf q).enable = true → (s.qpOf q).held = [] → s.freeSlots q = 0 →
      ((complete q c s).qpOf q).held = [c] ∧ (complete q c s).hostMem = s.hostMem ∧
        ((complete q c s).qpOf q).cqTail = (s.qpOf q).cqTail) ∧
    ((s.qpOf q).enable = false → complete q c s = s) ∧
    (∀ j, j ≠ q → (complete q c s).qpOf j = s.qpOf j) ∧ (complete q c s).req.seqs = s.req.seqs ∧
    (complete q c s).mem = s.mem

/-- LANE_FILL in a running frame whose predecessor is settled, or that serves no requests, for a next frame not yet
filled, marks that frame filled and counts the sequences that were late; the frame cycle, the cores, the queue pairs
and the count of settled frames stay, and host memory stays while no staging lock stands. LANE_FILL of a frame
already filled, outside RUNNING or outside a frame changes nothing. POOL_SET_STARVED after 64 fills without a lane
clears the count of that set and raises event 0x0038 with its runnable sequences, and before that changes nothing. -/
def Obligations.LanesAndStarvation : Prop :=
  (∀ (s : State) (late : List Nat) (reads : List (Nat × List Nat)) (bad : List Nat), s.powered = true →
      s.kpr.state = .running → s.frm.phase = .inFrame → s.req.serving = false ∨ s.frm.count ≤ s.req.settled →
      s.req.filled ≠ s.frm.count + 2 → ∃ t, exec (.laneFill late reads bad) s = .next t ∧
      t.req.filled = s.frm.count + 2 ∧ t.req.settled = s.req.settled ∧
      t.req.settleLate = satAdd 16 s.req.settleLate (late.filter (fun n => decide (n < 16384))).length ∧ t.frm = s.frm ∧
      t.cores = s.cores ∧ t.req.qp = s.req.qp ∧ (s.dev.lock = none → t.hostMem = s.hostMem)) ∧
  (∀ (s : State) (late : List Nat) (reads : List (Nat × List Nat)) (bad : List Nat), s.req.filled = s.frm.count + 2 ∨
      s.kpr.state ≠ .running ∨ s.frm.phase ≠ .inFrame → s.mem.dpBad = [] → exec (.laneFill late reads bad) s = .next s) ∧
  (∀ (s : State) (j : Nat), j < 512 → s.powered = true → 64 ≤ mapGet 0 s.req.starved j →
      exec (.poolSetStarved j) s = .next
        (raise 0x0038 1 j [((mapGet [] s.req.rings j).filter (fun n => (s.seqState n).runnable)).length] { s with req := { s.req with starved := mapSet 0 s.req.starved j 0 } })) ∧
  (∀ (s : State) (j : Nat), j < 512 → mapGet 0 s.req.starved j < 64 → exec (.poolSetStarved j) s = .next s)

/-- The descriptor the sequencer stands before goes to the queue of its kind, behind what waits there, while fewer than
8 entries of that queue have not started, and the context goes on to the next place. With 8 it stalls and nothing
changes; nothing changes either where the sequencer stands before no descriptor, or before one that no queue takes.
A parity error in the descriptor store faults it with 0x0C and dispatches nothing. DESCRIPTOR_COMPLETE takes the
first finished entry of a queue out of it and adds 1 to the counter it signals; one at 65,535 stays, and the
descriptor faults with 0x05; with no finished entry nothing changes. A descriptor fault stops its context with the
code and the index, counts one more fault of the frame, and leaves the place, the counters, every queue, every store
and every other context. Nothing else changes. -/
def Obligations.DescriptorsAreDispatched : Prop :=
  (∀ (s : State) (n : Nat) (d : Next) (q : UnitQ), n < 12288 → s.nextDesc n = some d → queueOf d.w0 = some q →
      (s.coreRec n).waiting q < 8 →
      exec (.descriptorDispatch n false) s = .next
        (setCtx n d.slot (fun c => c.goTo (d.idx + 1) d.len) (setCore n (fun c => { c with queue := c.queue ++ [{ uid := c.nextUid, q := q, slot := d.slot, role := d.role, idx := d.idx, w0 := d.w0, w1 := d.w1 }], nextUid := c.nextUid + 1 }) s))) ∧
  (∀ (s : State) (n : Nat) (d : Next) (q : UnitQ), n < 12288 → s.nextDesc n = some d → queueOf d.w0 = some q →
      8 ≤ (s.coreRec n).waiting q → exec (.descriptorDispatch n false) s = .next s) ∧
  (∀ (s : State) (n : Nat) (d : Next), n < 12288 → s.nextDesc n = some d → queueOf d.w0 = none →
      exec (.descriptorDispatch n false) s = .next s) ∧
  (∀ (s : State) (n : Nat) (p : Bool), n < 12288 → s.nextDesc n = none → exec (.descriptorDispatch n p) s = .next s) ∧
  (∀ (s : State) (n : Nat) (d : Next), n < 12288 → s.nextDesc n = some d →
      exec (.descriptorDispatch n true) s = .next (descFault n d.slot d.role d.idx 0x0C s)) ∧
  (∀ (s : State) (n qi : Nat) (e : QEntry), n < 12288 → qi < 6 → s.coreRuns n = true →
      (s.coreRec n).queue.find? (fun e => decide (e.q = queueAt qi) && e.done) = some e → bit e.w0 36 = false →
      exec (.descriptorComplete n qi) s = .next
        (setCore n (fun c => { c with queue := c.queue.filter (fun x => decide (x.uid ≠ e.uid)) }) s)) ∧
  (∀ (s : State) (n qi : Nat) (e : QEntry), n < 12288 → qi < 6 → s.coreRuns n = true →
      (s.coreRec n).queue.find? (fun e => decide (e.q = queueAt qi) && e.done) = some e → bit e.w0 36 = true →
      (s.ctxOf n e.slot).ctr (field e.w0 32 4) ≠ 65535 →
      exec (.descriptorComplete n qi) s = .next
        (setCtx n e.slot (fun c => { c with ctrs := setNth c.ctrs (field e.w0 32 4) (c.ctr (field e.w0 32 4) + 1) }) (setCore n (fun c => { c with queue := c.queue.filter (fun x => decide (x.uid ≠ e.uid)) }) s))) ∧
  (∀ (s : State) (n qi : Nat) (e : QEntry), n < 12288 → qi < 6 → s.coreRuns n = true →
      (s.coreRec n).queue.find? (fun e => decide (e.q = queueAt qi) && e.done) = some e → bit e.w0 36 = true →
      (s.ctxOf n e.slot).ctr (field e.w0 32 4) = 65535 →
      exec (.descriptorComplete n qi) s = .next
        (descFault n e.slot e.role e.idx 5 (setCore n (fun c => { c with queue := c.queue.filter (fun x => decide (x.uid ≠ e.uid)) }) s))) ∧
  (∀ (s : State) (n qi : Nat), n < 12288 → qi < 6 →
      (s.coreRec n).queue.find? (fun e => decide (e.q = queueAt qi) && e.done) = none →
      exec (.descriptorComplete n qi) s = .next s) ∧
  (∀ (s : State) (n k role idx code : Nat),
      ((descFault n k role idx code s).ctxOf n k = { s.ctxOf n k with stopped := true, fault := code, faultIdx := idx } ∧
        (∀ j, j ≠ 4 * n + k → mapGet ctx0 (descFault n k role idx code s).cores.ctx j = mapGet ctx0 s.cores.ctx j) ∧
        (descFault n k role idx code s).frm = { s.frm with now := { s.frm.now with faults := s.frm.now.faults + 1 } } ∧
        (∀ m, ((descFault n k role idx code s).coreRec m).queue = (s.coreRec m).queue) ∧
        (descFault n k role idx code s).cores.store = s.cores.store ∧ (descFault n k role idx code s).mem = s.mem))

/-- A WAIT at the sequencer whose precondition and condition hold is passed by the command of its condition: a counter
that has reached the value, the start of a slat, an offset from S, the previous frame confirmed or not lockstep,
quiesce, yield. The context takes a consuming precondition, with consume its counter falls by the value, and it goes
on to the next place; after a yield it holds where another context shares the core. Where the WAIT signals, the
counter rises by 1, or at 65,535 stays with descriptor fault 0x05. Nothing else changes. Where the condition of the
WAIT at the sequencer does not hold, its command changes nothing: a counter below the value, a slat not yet begun,
an offset not yet reached, a lockstep frame not confirmed, a descriptor of the context not complete. Nothing changes
either where the precondition is not met, or where the sequencer stands before no descriptor. -/
def Obligations.WaitsPass : Prop :=
  (∀ (s : State) (n : Nat) (d : Next), n < 12288 → s.nextDesc n = some d → kindOf d.w0 = 9 → field d.w0 28 4 = 0 →
      (s.ctxOf n d.slot).preMet d.w0 = true →
      field d.w0 7 16 ≤ ((s.ctxOf n d.slot).consumePre d.w0).ctr (field d.w0 23 4) →
      exec (.waitCounter n) s = .next
        (signalDesc n d.slot d.role d.idx d.w0 (setCtx n d.slot (fun c => (if bit d.w0 27 then { c.consumePre d.w0 with ctrs := setNth (c.consumePre d.w0).ctrs (field d.w0 23 4) ((c.consumePre d.w0).ctr (field d.w0 23 4) - field d.w0 7 16) } else c.consumePre d.w0).goTo (d.idx + 1) d.len) s))) ∧
  (∀ (s : State) (n : Nat) (d : Next), n < 12288 → s.nextDesc n = some d → kindOf d.w0 = 9 → field d.w0 28 4 = 1 →
      (s.ctxOf n d.slot).preMet d.w0 = true →
      s.frm.frameStart + (nth (0, 0) s.frm.slats (field d.w1 0 4)).2 ≤ s.frm.tc →
      exec (.waitSlatStart n) s = .next
        (signalDesc n d.slot d.role d.idx d.w0 (setCtx n d.slot (fun c => (c.consumePre d.w0).goTo (d.idx + 1) d.len) s))) ∧
  (∀ (s : State) (n : Nat) (d : Next), n < 12288 → s.nextDesc n = some d → kindOf d.w0 = 9 → field d.w0 28 4 = 2 →
      (s.ctxOf n d.slot).preMet d.w0 = true → s.frm.frameStart + field d.w1 0 27 ≤ s.frm.tc →
      exec (.waitFrameOffset n) s = .next
        (signalDesc n d.slot d.role d.idx d.w0 (setCtx n d.slot (fun c => (c.consumePre d.w0).goTo (d.idx + 1) d.len) s))) ∧
  (∀ (s : State) (n : Nat) (d : Next), n < 12288 → s.nextDesc n = some d → kindOf d.w0 = 9 → field d.w0 28 4 = 3 →
      (s.ctxOf n d.slot).preMet d.w0 = true → s.frm.ended.lockstep = false ∨ s.frm.ended.confirmed = true →
      exec (.waitConfirm n) s = .next
        (signalDesc n d.slot d.role d.idx d.w0 (setCtx n d.slot (fun c => (c.consumePre d.w0).goTo (d.idx + 1) d.len) s))) ∧
  (∀ (s : State) (n : Nat) (d : Next), n < 12288 → s.nextDesc n = some d → kindOf d.w0 = 9 → field d.w0 28 4 = 4 →
      (s.ctxOf n d.slot).preMet d.w0 = true → s.quiet n d.slot = true →
      exec (.waitQuiesce n) s = .next
        (signalDesc n d.slot d.role d.idx d.w0 (setCtx n d.slot (fun c => (c.consumePre d.w0).goTo (d.idx + 1) d.len) s))) ∧
  (∀ (s : State) (n : Nat) (d : Next), n < 12288 → s.nextDesc n = some d → kindOf d.w0 = 9 → field d.w0 28 4 = 5 →
      (s.ctxOf n d.slot).preMet d.w0 = true → s.quiet n d.slot = true →
      exec (.waitYield n) s = .next
        (signalDesc n d.slot d.role d.idx d.w0 (setCtx n d.slot (fun c => ({ c.consumePre d.w0 with yielded := !decide ((s.contexts n).length ≤ 1) }).goTo (d.idx + 1) d.len) s))) ∧
  (∀ (s : State) (n k role idx w0 : Nat), bit w0 36 = false → signalDesc n k role idx w0 s = s) ∧
  (∀ (s : State) (n k role idx w0 : Nat), bit w0 36 = true → (s.ctxOf n k).ctr (field w0 32 4) ≠ 65535 →
      signalDesc n k role idx w0 s = setCtx n k (fun c => { c with ctrs := setNth c.ctrs (field w0 32 4) (c.ctr (field w0 32 4) + 1) }) s) ∧
  (∀ (s : State) (n k role idx w0 : Nat), bit w0 36 = true → (s.ctxOf n k).ctr (field w0 32 4) = 65535 →
      signalDesc n k role idx w0 s = descFault n k role idx 5 s) ∧
  (∀ (s : State) (n : Nat) (d : Next), n < 12288 → s.nextDesc n = some d →
      ((s.ctxOf n d.slot).consumePre d.w0).ctr (field d.w0 23 4) < field d.w0 7 16 → exec (.waitCounter n) s = .next s) ∧
  (∀ (s : State) (n : Nat) (d : Next), n < 12288 → s.nextDesc n = some d →
      s.frm.tc < s.frm.frameStart + (nth (0, 0) s.frm.slats (field d.w1 0 4)).2 → exec (.waitSlatStart n) s = .next s) ∧
  (∀ (s : State) (n : Nat) (d : Next), n < 12288 → s.nextDesc n = some d → s.frm.tc < s.frm.frameStart + field d.w1 0 27 →
      exec (.waitFrameOffset n) s = .next s) ∧
  (∀ (s : State) (n : Nat), n < 12288 → s.frm.ended.lockstep = true → s.frm.ended.confirmed = false →
      exec (.waitConfirm n) s = .next s) ∧
  (∀ (s : State) (n : Nat) (d : Next), n < 12288 → s.nextDesc n = some d → s.quiet n d.slot = false →
      exec (.waitQuiesce n) s = .next s ∧ exec (.waitYield n) s = .next s) ∧
  (∀ (s : State) (n : Nat) (d : Next), n < 12288 → s.nextDesc n = some d → (s.ctxOf n d.slot).preMet d.w0 = false →
      exec (.waitCounter n) s = .next s ∧ exec (.waitSlatStart n) s = .next s ∧ exec (.waitFrameOffset n) s = .next s ∧
      exec (.waitConfirm n) s = .next s ∧ exec (.waitQuiesce n) s = .next s ∧ exec (.waitYield n) s = .next s) ∧
  (∀ (s : State) (n : Nat), n < 12288 → s.nextDesc n = none → exec (.waitCounter n) s = .next s ∧
      exec (.waitSlatStart n) s = .next s ∧ exec (.waitFrameOffset n) s = .next s ∧ exec (.waitConfirm n) s = .next s ∧
      exec (.waitQuiesce n) s = .next s ∧ exec (.waitYield n) s = .next s)

/-- LOOP opens a body of its length that repeats count_m1 + 1 times, with the two steps of its word 1, and the context
goes on into it. SKIP reads its mask from the core store: where a bit is set, the context goes on at the body; where
none is, it goes past the body, and every descriptor of the body that signals gives as many signals as it would have
completed. A parity error in the mask is descriptor fault 0x01 and the context stands. All three take a consuming
precondition. With another descriptor at the sequencer nothing changes, and nothing else changes in any of them. -/
def Obligations.LoopsAndSkips : Prop :=
  (∀ (s : State) (n : Nat) (d : Next), n < 12288 → s.nextDesc n = some d → kindOf d.w0 = 10 →
      (s.ctxOf n d.slot).preMet d.w0 = true →
      exec (.loop n) s = .next
        (setCtx n d.slot (fun c => { c.consumePre d.w0 with loops := { first := d.idx + 1, past := d.idx + 1 + field d.w0 24 8, iter := 0, count := field d.w0 0 16 + 1, memStep := toSigned 32 (field d.w1 32 32), csStep := toSigned 16 (field d.w1 16 16) } :: c.loops, pos := d.idx + 1, ended := decide (d.len ≤ d.idx + 1) }) s)) ∧
  (∀ (s : State) (n : Nat) (d : Next), n < 12288 → s.nextDesc n = some d → kindOf d.w0 = 11 →
      (s.ctxOf n d.slot).preMet d.w0 = true →
      maskAny (s.storeBytes n (32 * field d.w1 49 15) ((field d.w1 36 13 + 1 + 7) / 8)) (field d.w1 36 13 + 1) = true →
      exec (.skip n false) s = .next (setCtx n d.slot (fun c => (c.consumePre d.w0).goTo (d.idx + 1) d.len) s)) ∧
  (∀ (s : State) (n : Nat) (d : Next), n < 12288 → s.nextDesc n = some d → kindOf d.w0 = 11 →
      (s.ctxOf n d.slot).preMet d.w0 = true →
      maskAny (s.storeBytes n (32 * field d.w1 49 15) ((field d.w1 36 13 + 1 + 7) / 8)) (field d.w1 36 13 + 1) = false →
      ∃ t, exec (.skip n false) s = .next t ∧
      some t = (s.bindingOf d.role).map (fun b => (skipCounts (s.descOf b) (field d.w0 24 8) (d.idx + 1) []).foldl (fun s e => signalMany n d.slot d.role e.1 e.2.1 e.2.2 s) (setCtx n d.slot (fun c => (c.consumePre d.w0).goTo (d.idx + 1 + field d.w0 24 8) d.len) s))) ∧
  (∀ (s : State) (n : Nat) (d : Next), n < 12288 → s.nextDesc n = some d → kindOf d.w0 = 11 →
      (s.ctxOf n d.slot).preMet d.w0 = true →
      exec (.skip n true) s = .next
        (descFault n d.slot d.role d.idx 1 (setCtx n d.slot (fun c => c.consumePre d.w0) s))) ∧
  (∀ (s : State) (n : Nat) (d : Next) (p : Bool), n < 12288 → s.nextDesc n = some d → kindOf d.w0 ≠ 10 →
      kindOf d.w0 ≠ 11 → exec (.loop n) s = .next s ∧ exec (.skip n p) s = .next s)

/-- The head of its queue that may start does so: its precondition is consumed, its pieces are counted and issued. A
LOAD or STORE of one piece that is no KV address and meets no hole and no fence: on the own tile it waits at the
tile's arbiter as an owner request, on another it enters the network as a READ, or as a WRITE with the bytes of the
core store and the tag of the frame; nothing else changes. A piece that meets a hole or a fence faults the
descriptor with 0x03 and leaves the stores, stacked memory and the network. A SEND to a bound role enters the
network as one packet for each 2 KiB, with the bytes of the core store; to a role without a binding it faults with
0x03, which is the model's choice (log 114). A RECV posts its buffer for its channel. A parity error in what a STORE
or a SEND reads of the core store faults it with 0x01. Where no head may start, nothing changes. -/
def Obligations.TransfersAreIssued : Prop :=
  (∀ (s : State) (n : Nat) (looks : List Nat) (e : QEntry), n < 12288 → s.startable n .transfer = some e →
      kindOf e.w0 = 1 →
      exec (.loadDesc n looks) s = .next (startTransfer n looks { e with started := true } (startEntry n e s))) ∧
  (∀ (s : State) (n : Nat) (looks : List Nat) (e : QEntry), n < 12288 → s.startable n .transfer = some e →
      kindOf e.w0 = 2 →
      exec (.storeDesc n looks false) s = .next (startTransfer n looks { e with started := true } (startEntry n e s)) ∧
      exec (.storeDesc n looks true) s = .next (faultEntry n e 1 (startEntry n e s))) ∧
  (∀ (s : State) (n : Nat) (looks : List Nat) (e : QEntry) (p : Piece), n < 12288 → s.startable n .transfer = some e →
      kindOf e.w0 = 1 → s.entryOf n e.uid = some e → e.issued = 0 → transferPieces e.w0 e.w1 = [p] →
      isKv p.addr = false → s.issueBlocked p.addr p.len = none → tileOf p.addr = n → s.readsOut n < 32 → ∃ t,
      exec (.loadDesc n looks) s = .next t ∧
      (t.tileRec n).queue = (s.tileRec n).queue ++ [{ core := n, uid := e.uid, write := false, addr := p.addr, len := p.len, local_ := p.local_ }] ∧
      (t.coreRec n).queue = (s.coreRec n).queue.map (fun x => if x.uid = e.uid then { x with started := true, since := s.frm.tc, need := 1, issued := x.issued + 1 } else x) ∧
      t.ctxOf n e.slot = (s.ctxOf n e.slot).consumePre e.w0 ∧
      t = { s with mem := { s.mem with tiles := t.mem.tiles }, cores := { s.cores with core := t.cores.core, ctx := t.cores.ctx }, walkers := t.walkers }) ∧
  (∀ (s : State) (n : Nat) (looks : List Nat) (e : QEntry) (p : Piece), n < 12288 → s.startable n .transfer = some e →
      kindOf e.w0 = 1 → s.entryOf n e.uid = some e → e.issued = 0 → transferPieces e.w0 e.w1 = [p] →
      isKv p.addr = false → s.issueBlocked p.addr p.len = none → tileOf p.addr ≠ n → s.readsOut n < 32 → ∃ t,
      exec (.loadDesc n looks) s = .next t ∧
      t.net.packets.map Packet.content = s.net.packets.map Packet.content ++ [({ id := s.net.nextId, kind := .read, src := n, dst := tileOf p.addr, tag := some s.frameTag, addr := p.addr, len := p.len, bytes := [], slot := 0, core := n, uid := e.uid, local_ := p.local_, off := 0, total := p.len, err := none, unsent := 0, hops := [], aged := false } : Packet).content] ∧
      (t.coreRec n).queue = (s.coreRec n).queue.map (fun x => if x.uid = e.uid then { x with started := true, since := s.frm.tc, need := 1, issued := x.issued + 1 } else x) ∧
      t.ctxOf n e.slot = (s.ctxOf n e.slot).consumePre e.w0 ∧
      t = { s with net := { s.net with packets := t.net.packets, nextId := s.net.nextId + 1, regions := t.net.regions, sills := t.net.sills }, cores := { s.cores with core := t.cores.core, ctx := t.cores.ctx }, walkers := t.walkers }) ∧
  (∀ (s : State) (n : Nat) (looks : List Nat) (e : QEntry) (p : Piece), n < 12288 → s.startable n .transfer = some e →
      kindOf e.w0 = 2 → s.entryOf n e.uid = some e → e.issued = 0 → transferPieces e.w0 e.w1 = [p] →
      isKv p.addr = false → s.issueBlocked p.addr p.len = none → tileOf p.addr = n → ∃ t,
      exec (.storeDesc n looks false) s = .next t ∧
      (t.tileRec n).queue = (s.tileRec n).queue ++ [{ core := n, uid := e.uid, write := true, addr := p.addr, len := p.len, local_ := p.local_ }] ∧
      (t.coreRec n).queue = (s.coreRec n).queue.map (fun x => if x.uid = e.uid then { x with started := true, since := s.frm.tc, need := 1, issued := x.issued + 1 } else x) ∧
      t.ctxOf n e.slot = (s.ctxOf n e.slot).consumePre e.w0 ∧
      t = { s with mem := { s.mem with tiles := t.mem.tiles }, cores := { s.cores with core := t.cores.core, ctx := t.cores.ctx }, walkers := t.walkers }) ∧
  (∀ (s : State) (n : Nat) (looks : List Nat) (e : QEntry) (p : Piece), n < 12288 → s.startable n .transfer = some e →
      kindOf e.w0 = 2 → s.entryOf n e.uid = some e → e.issued = 0 → transferPieces e.w0 e.w1 = [p] →
      isKv p.addr = false → s.issueBlocked p.addr p.len = none → tileOf p.addr ≠ n → ∃ t,
      exec (.storeDesc n looks false) s = .next t ∧
      t.net.packets.map Packet.content = s.net.packets.map Packet.content ++ [({ id := s.net.nextId, kind := .write, src := n, dst := tileOf p.addr, tag := some s.frameTag, addr := p.addr, len := p.len, bytes := s.storeBytes n p.local_ p.len, slot := 0, core := n, uid := e.uid, local_ := p.local_, off := 0, total := p.len, err := none, unsent := 0, hops := [], aged := false } : Packet).content] ∧
      (t.coreRec n).queue = (s.coreRec n).queue.map (fun x => if x.uid = e.uid then { x with started := true, since := s.frm.tc, need := 1, issued := x.issued + 1 } else x) ∧
      t.ctxOf n e.slot = (s.ctxOf n e.slot).consumePre e.w0 ∧
      t = { s with net := { s.net with packets := t.net.packets, nextId := s.net.nextId + 1, regions := t.net.regions, sills := t.net.sills }, cores := { s.cores with core := t.cores.core, ctx := t.cores.ctx }, walkers := t.walkers }) ∧
  (∀ (s : State) (n : Nat) (looks : List Nat) (e : QEntry) (p : Piece), n < 12288 → s.startable n .transfer = some e →
      kindOf e.w0 = 2 → s.entryOf n e.uid = some e → e.issued = 0 → transferPieces e.w0 e.w1 = [p] →
      isKv p.addr = false → (s.issueBlocked p.addr p.len).isSome = true → ∃ t,
      exec (.storeDesc n looks false) s = .next t ∧ (t.ctxOf n e.slot).stopped = true ∧ (t.ctxOf n e.slot).fault = 3 ∧
      (t.coreRec n).queue.all (fun x => decide (x.uid ≠ e.uid)) = true ∧ t.cores.store = s.cores.store ∧
      t.mem.dram = s.mem.dram ∧ t.net = s.net) ∧
  (∀ (s : State) (n : Nat) (e : QEntry) (b : Binding), n < 12288 → s.startable n .message = some e → kindOf e.w0 = 3 →
      field e.w0 3 2 = 0 → s.bindingOf (field e.w1 48 16) = some b → ∃ t, exec (.send n false) s = .next t ∧
      (t.net.packets.drop s.net.packets.length).map (fun p => (p.kind, p.dst, p.slot, p.addr, p.off,
        p.bytes)) = (sendPieces e.w0).map (fun p => (PktKind.send, b.core, b.slot, field e.w1 44 4, p.addr,
        s.storeBytes n p.local_ p.len)) ∧
      (t.net.packets.take s.net.packets.length).map Packet.content = s.net.packets.map Packet.content ∧
      t.ctxOf n e.slot = (s.ctxOf n e.slot).consumePre e.w0 ∧ t.cores.store = s.cores.store ∧ t.mem = s.mem) ∧
  (∀ (s : State) (n : Nat) (e : QEntry), n < 12288 → s.startable n .message = some e → kindOf e.w0 = 3 →
      field e.w0 3 2 = 0 → s.bindingOf (field e.w1 48 16) = none →
      exec (.send n false) s = .next (faultEntry n { e with started := true } 3 (startEntry n e s))) ∧
  (∀ (s : State) (n : Nat) (e : QEntry), n < 12288 → s.startable n .message = some e → kindOf e.w0 = 3 →
      exec (.send n true) s = .next (faultEntry n e 1 (startEntry n e s))) ∧
  (∀ (s : State) (n : Nat) (e : QEntry), n < 12288 → s.startable n .message = some e → kindOf e.w0 = 4 →
      (s.ctxOf n e.slot).arrivals = [] → s.net.held = [] →
      exec (.recv n) s = .next
        (setCtx n e.slot (fun c => { c with posted := c.posted ++ [{ channel := field e.w0 1 4, uid := e.uid, addr := 32 * field e.w0 17 15, len := 32 * field e.w0 5 12 }] }) (startEntry n e s))) ∧
  (∀ (s : State) (n : Nat) (looks : List Nat) (p : Bool), n < 12288 → s.startable n .transfer = none →
      s.startable n .message = none → exec (.loadDesc n looks) s = .next s ∧ exec (.storeDesc n looks p) s = .next s ∧
      exec (.send n p) s = .next s ∧ exec (.recv n) s = .next s)

/-- A READ reaches the arbiter of its tile and waits there until its turn; then it takes up to its beats of code words,
and with the last of them it is answered with READ_DATA of the bytes read; at a bus error it is answered with ERROR
of its cause. A WRITE of its frame stores its bytes in stacked memory in the same way, and nothing else there
changes, and is answered with ACK or ERROR; one of another frame is discarded and counted. READ_DATA puts its bytes
at their place in the core store and counts for its descriptor; ACK counts for its descriptor; ERROR faults it with
the code of its cause; each is discarded and counted where the descriptor is gone. A SEND whose whole length comes
in one packet fills the buffer posted for its channel and is acknowledged; for a fenced core it is answered with
ERROR, for a context that is not resident it goes to its save area, without a buffer it is held, and with four held
it waits in the network; one of another frame is discarded and counted. A packet that cannot arrive changes nothing.
FLIT_CREDIT_RETURN at the last link of a route takes one flit of the oldest packet with flits there out of its
buffer, and flits that waited for the credit move on; no packet comes or goes and nothing outside the network
changes; with no flit there it changes nothing. FLIT_CRC_ERROR counts the replay of its link, in a row and in the
second, and in the record of its region, hub side or sill. NET_REQUEST_AGED marks a request that has waited 256
network cycles at its arbiter, once, and counts it in the region; before that, or for a packet that is not at an
arbiter, it changes nothing. -/
def Obligations.PacketsArrive : Prop :=
  (∀ (s s2 : State) (id beats : Nat) (parity : Bool) (flips : List (Nat × Nat)) (p : Packet) (d : List Nat),
      s.arrivable id .read = some p → (reachArbiter p s).netTurn id p.dst = true →
      readBytes { code := 2, source := p.core } parity (p.addr + p.done) (min (32 * beats) (p.len - p.done)) (flipSymbols p.addr flips (reachArbiter p s)) = (.data d,
        s2) →
      p.done + min (32 * beats) (p.len - p.done) = p.len →
      exec (.netRead id beats parity flips) s = .next (answer p .readData (p.bytes ++ d) none (takePacket id s2))) ∧
  (∀ (s s2 : State) (id beats : Nat) (parity : Bool) (flips : List (Nat × Nat)) (p : Packet) (d : List Nat),
      s.arrivable id .read = some p → (reachArbiter p s).netTurn id p.dst = true →
      readBytes { code := 2, source := p.core } parity (p.addr + p.done) (min (32 * beats) (p.len - p.done)) (flipSymbols p.addr flips (reachArbiter p s)) = (.data d,
        s2) →
      p.done + min (32 * beats) (p.len - p.done) ≠ p.len →
      exec (.netRead id beats parity flips) s = .next
        (servedPart id (min (32 * beats) (p.len - p.done)) (p.bytes ++ d) s2)) ∧
  (∀ (s s2 : State) (id beats : Nat) (parity : Bool) (flips : List (Nat × Nat)) (p : Packet) (c : Nat),
      s.arrivable id .read = some p → (reachArbiter p s).netTurn id p.dst = true →
      readBytes { code := 2, source := p.core } parity (p.addr + p.done) (min (32 * beats) (p.len - p.done)) (flipSymbols p.addr flips (reachArbiter p s)) = (.error c,
        s2) →
      exec (.netRead id beats parity flips) s = .next (answer p .error [] (some (errOf c)) (takePacket id s2))) ∧
  (∀ (s : State) (id beats : Nat) (p : Packet) (d : List Nat), s.arrivable id .read = some p →
      (reachArbiter p s).netTurn id p.dst = true → p.done + min (32 * beats) (p.len - p.done) = p.len →
      (readBytes { code := 2, source := p.core } false (p.addr + p.done) (min (32 * beats) (p.len - p.done)) (reachArbiter p s)).1 = .data d →
      ∃ t, exec (.netRead id beats false []) s = .next t ∧
      t.net.packets.map Packet.content = (s.net.packets.filter (fun x => decide (x.id ≠ id))).map Packet.content ++ [({ p with id := s.net.nextId, kind := .readData, src := p.dst, dst := p.src, bytes := p.bytes ++ d, err := none, aged := false, asked := true } : Packet).content] ∧
      t.mem.dram = s.mem.dram ∧ t.mem.check = s.mem.check ∧ t.cores = s.cores) ∧
  (∀ (s : State) (id beats : Nat) (parity : Bool) (flips : List (Nat × Nat)) (p : Packet), s.arrivable id .read = some p →
      (reachArbiter p s).netTurn id p.dst = false → exec (.netRead id beats parity flips) s = .next (reachArbiter p s)) ∧
  (∀ (s s2 : State) (id beats : Nat) (parity : Bool) (p : Packet), s.arrivable id .write = some p → s.tagged p = true →
      (reachArbiter p s).netTurn id p.dst = true →
      writeBytes { code := 2, source := p.core } parity (p.addr + p.done) (slice p.bytes p.done (min (32 * beats) (p.len - p.done))) (reachArbiter p s) = (none,
        s2) →
      p.done + min (32 * beats) (p.len - p.done) = p.len →
      exec (.netWrite id beats parity) s = .next (answer p .ack [] none (takePacket id s2))) ∧
  (∀ (s s2 : State) (id beats : Nat) (parity : Bool) (p : Packet) (c : Nat), s.arrivable id .write = some p →
      s.tagged p = true → (reachArbiter p s).netTurn id p.dst = true →
      writeBytes { code := 2, source := p.core } parity (p.addr + p.done) (slice p.bytes p.done (min (32 * beats) (p.len - p.done))) (reachArbiter p s) = (some c,
        s2) →
      exec (.netWrite id beats parity) s = .next (answer p .error [] (some (errOf c)) (takePacket id s2))) ∧
  (∀ (s : State) (id beats : Nat) (p : Packet), s.arrivable id .write = some p → s.tagged p = true →
      (reachArbiter p s).netTurn id p.dst = true → p.done = 0 → p.len = p.bytes.length → p.len ≤ 32 * beats →
      p.bytes.length % 32 = 0 → p.addr % 32 = 0 → s.lockedIn p.addr (p.bytes.length / 32) = false →
      s.blockedIn p.addr (p.bytes.length / 32) = none → s.pathBad p.addr = false → ∃ t,
      exec (.netWrite id beats false) s = .next t ∧ t.mem.dram = memPutBytes s.mem.dram p.addr p.bytes ∧
      t.net.packets.map Packet.content = (s.net.packets.filter (fun x => decide (x.id ≠ id))).map Packet.content ++ [({ p with id := s.net.nextId, kind := .ack, src := p.dst, dst := p.src, bytes := [], err := none, aged := false, asked := false } : Packet).content] ∧
      t.cores = s.cores ∧ t.mem.busErrors = s.mem.busErrors) ∧
  (∀ (s : State) (id beats : Nat) (parity : Bool) (p : Packet), s.arrivable id .write = some p → s.tagged p = false →
      exec (.netWrite id beats parity) s = .next (suppress (regionOf p.dst) (takePacket id s))) ∧
  (∀ (s : State) (id : Nat) (p : Packet) (e : QEntry), s.arrivable id .readData = some p →
      s.entryOf p.core p.uid = some e → e.got + 1 = e.need → e.issued = e.need → (s.coreRec p.core).queue = [e] →
      (s.walkerOf (regionOf p.core)).ready = [] → ∃ t, exec (.netReadData id) s = .next t ∧
      t.cores.store = memPutBytes s.cores.store (p.core * storeSize + p.local_) (p.bytes.take (storeSize - p.local_)) ∧
      (t.coreRec p.core).queue = [{ e with got := e.got + 1, done := true }] ∧ t.mem = s.mem ∧
      t.net.packets.map Packet.content = (s.net.packets.filter (fun x => decide (x.id ≠ id))).map Packet.content) ∧
  (∀ (s : State) (id : Nat) (p : Packet), s.arrivable id .readData = some p → s.entryOf p.core p.uid = none →
      exec (.netReadData id) s = .next (resumeReads p.core (suppress (regionOf p.core) (takePacket id s)))) ∧
  (∀ (s : State) (id : Nat) (p : Packet) (e : QEntry), s.arrivable id .ack = some p → s.entryOf p.core p.uid = some e →
      exec (.netAck id) s = .next
        (updEntry p.core p.uid (fun e => { e with got := e.got + 1, done := decide (e.got + 1 = e.need) }) (takePacket id s))) ∧
  (∀ (s : State) (id : Nat) (p : Packet), s.arrivable id .ack = some p → s.entryOf p.core p.uid = none →
      exec (.netAck id) s = .next (suppress (regionOf p.core) (takePacket id s))) ∧
  (∀ (s : State) (id : Nat) (p : Packet) (e : QEntry) (c : ErrCause), s.arrivable id .error = some p →
      s.entryOf p.core p.uid = some e → p.err = some c → (s.coreRec p.core).queue = [e] →
      (s.walkerOf (regionOf p.core)).ready = [] → ∃ t, exec (.netError id) s = .next t ∧
      (t.ctxOf p.core e.slot).stopped = true ∧ (t.ctxOf p.core e.slot).fault = errFault c ∧
      (t.coreRec p.core).queue = [] ∧ t.mem = s.mem ∧ t.cores.store = s.cores.store ∧
      t.net.packets.map Packet.content = (s.net.packets.filter (fun x => decide (x.id ≠ id))).map Packet.content) ∧
  (∀ (s : State) (id : Nat) (p : Packet), s.arrivable id .error = some p → s.entryOf p.core p.uid = none →
      exec (.netError id) s = .next (resumeReads p.core (suppress (regionOf p.core) (takePacket id s)))) ∧
  (∀ (s : State) (id : Nat) (parity : Bool) (p : Packet) (b : Posted), s.arrivable id .send = some p → s.tagged p = true →
      s.coreFenced p.dst = false → s.resident p.dst p.slot = true → s.heldFor p.dst p.slot p.addr = [] →
      (s.ctxOf p.dst p.slot).posted = [b] → b.channel = p.addr → b.taken = none → b.got = 0 → b.bad = false →
      b.len = p.total → p.off = 0 → p.bytes.length = p.total → ∃ t, exec (.netSend id parity) s = .next t ∧
      t.cores.store = memPutBytes s.cores.store (p.dst * storeSize + b.addr) (p.bytes.take (storeSize - b.addr)) ∧
      (t.ctxOf p.dst p.slot).posted = [] ∧
      (t.coreRec p.dst).queue = (s.coreRec p.dst).queue.map (fun e => if e.uid = b.uid then { e with done := true } else e) ∧
      t.mem = s.mem ∧
      t.net.packets.map Packet.content = (s.net.packets.filter (fun x => decide (x.id ≠ id))).map Packet.content ++ [({ p with id := s.net.nextId, kind := .ack, src := p.dst, dst := p.src, bytes := [], err := none, aged := false, asked := false } : Packet).content]) ∧
  (∀ (s : State) (id : Nat) (parity : Bool) (p : Packet), s.arrivable id .send = some p → s.tagged p = true →
      s.coreFenced p.dst = true →
      exec (.netSend id parity) s = .next (answer p .error [] (some .fenced) (takePacket id s))) ∧
  (∀ (s : State) (id : Nat) (parity : Bool) (p : Packet), s.arrivable id .send = some p → s.tagged p = true →
      s.coreFenced p.dst = false → s.resident p.dst p.slot = false →
      exec (.netSend id parity) s = .next (savePacket p parity (takePacket id s))) ∧
  (∀ (s : State) (id : Nat) (parity : Bool) (p : Packet), s.arrivable id .send = some p → s.tagged p = true →
      s.coreFenced p.dst = false → s.resident p.dst p.slot = true → (s.ctxOf p.dst p.slot).posted = [] →
      (s.heldFor p.dst p.slot p.addr).length < 4 → ∃ t, exec (.netSend id parity) s = .next t ∧
      t.net.held = s.net.held ++ [p] ∧
      t.net.packets.map Packet.content = (s.net.packets.filter (fun x => decide (x.id ≠ id))).map Packet.content ∧
      t.cores = s.cores ∧ t.mem = s.mem) ∧
  (∀ (s : State) (id : Nat) (parity : Bool) (p : Packet), s.arrivable id .send = some p → s.tagged p = true →
      s.coreFenced p.dst = false → s.resident p.dst p.slot = true → (s.ctxOf p.dst p.slot).posted = [] →
      4 ≤ (s.heldFor p.dst p.slot p.addr).length → exec (.netSend id parity) s = .next s) ∧
  (∀ (s : State) (id : Nat) (parity : Bool) (p : Packet), s.arrivable id .send = some p → s.tagged p = false →
      exec (.netSend id parity) s = .next (suppress (regionOf p.dst) (takePacket id s))) ∧
  (∀ (s : State) (id beats : Nat) (parity : Bool) (flips : List (Nat × Nat)), s.arrivable id .read = none →
      s.arrivable id .write = none → s.arrivable id .send = none → s.arrivable id .readData = none →
      s.arrivable id .ack = none → s.arrivable id .error = none → exec (.netRead id beats parity flips) s = .next s ∧
      exec (.netWrite id beats parity) s = .next s ∧ exec (.netSend id parity) s = .next s ∧
      exec (.netReadData id) s = .next s ∧ exec (.netAck id) s = .next s ∧ exec (.netError id) s = .next s) ∧
  (∀ (s : State) (link vc : Nat) (p : Packet), portOrLink link = true → vc < 4 → s.powered = true →
      s.net.packets.find? (fun p => decide (p.lastHop = some (4 * link + vc)) && decide (p.inBuffer (4 * link + vc) ≠ 0)) = some p →
      ∃ t, exec (.flitCreditReturn link vc) s = .next t ∧
      t = flowAll { s with net := { s.net with packets := s.net.packets.map (fun q => if q.id = p.id then { q with hops := q.hops.map (fun h => if h.1 = 4 * link + vc then (h.1, h.2 - 1) else h) } else q) } } ∧
      t.net.packets.map Packet.content = s.net.packets.map Packet.content ∧ t = { s with net := t.net }) ∧
  (∀ (s : State) (link vc : Nat), portOrLink link = true → vc < 4 →
      s.net.packets.find? (fun p => decide (p.lastHop = some (4 * link + vc)) && decide (p.inBuffer (4 * link + vc) ≠ 0)) = none →
      exec (.flitCreditReturn link vc) s = .next s) ∧
  (∀ (s : State) (l : Nat) (again : Bool), linkExists l = true → s.powered = true → ∃ t,
      exec (.flitCrcError l again) s = .next t ∧
      t = countReplay l { s with net := { s.net with replay := mapMod linkReplay0 s.net.replay l (fun x => { inRow := if again then x.inRow + 1 else 1, sec := s.frm.tc / 1000000000, inSec := if x.sec = s.frm.tc / 1000000000 then x.inSec + 1 else 1 }) } } ∧
      (l < 0xC000 →
        (mapGet netRec0 t.net.regions (regionOf (l / 4))).replays = satAdd 32 (mapGet netRec0 s.net.regions (regionOf (l / 4))).replays 1) ∧
      (0xC000 ≤ l → l < 0xC200 →
        (mapGet netRec0 t.net.regions (l - 0xC000)).replays = satAdd 32 (mapGet netRec0 s.net.regions (l - 0xC000)).replays 1) ∧
      mapGet linkReplay0 t.net.replay l = { inRow := if again then (mapGet linkReplay0 s.net.replay l).inRow + 1 else 1, sec := s.frm.tc / 1000000000, inSec := if (mapGet linkReplay0 s.net.replay l).sec = s.frm.tc / 1000000000 then (mapGet linkReplay0 s.net.replay l).inSec + 1 else 1 } ∧
      (∀ k, k ≠ l → mapGet linkReplay0 t.net.replay k = mapGet linkReplay0 s.net.replay k) ∧
      t = { s with net := { s.net with replay := t.net.replay, regions := t.net.regions, sills := t.net.sills } }) ∧
  (∀ (s : State) (id : Nat) (p : Packet), s.powered = true → s.net.packets.find? (fun p => decide (p.id = id)) = some p →
      p.aged = false → p.arrived ≠ 0 → p.arrived + s.agingTime (regionOf p.dst) ≤ s.frm.tc + 1 → ∃ t,
      exec (.netRequestAged id) s = .next t ∧
      t.net.packets = s.net.packets.map (fun q => if q.id = id then { q with aged := true } else q) ∧
      (mapGet netRec0 t.net.regions (regionOf p.dst)).aged = satAdd 32 (mapGet netRec0 s.net.regions (regionOf p.dst)).aged 1 ∧
      (∀ r, r ≠ regionOf p.dst → mapGet netRec0 t.net.regions r = mapGet netRec0 s.net.regions r) ∧
      t = { s with net := { s.net with packets := t.net.packets, regions := t.net.regions } }) ∧
  (∀ (s : State) (id : Nat) (p : Packet), s.net.packets.find? (fun p => decide (p.id = id)) = some p → p.arrived = 0 ∨
      p.aged = true ∨ s.frm.tc + 1 < p.arrived + s.agingTime (regionOf p.dst) → exec (.netRequestAged id) s = .next s)

/-- OWNER_SASH_REQUEST serves the first request that waits at the tile of a running core, up to its beats of code words.
A write without a bus error stores the bytes of the core store at its address and nothing else in stacked memory; a
read puts the bytes read at their place in the core store and nothing else; with its last word the request leaves
the queue and counts for its descriptor. A bus error ends the request and faults its descriptor, and so does a
parity error in the core store, with 0x01. A request whose descriptor is gone leaves the queue. While the sash
retrains, an aged network request waits, the core does not run or nothing waits, nothing happens. -/
def Obligations.OwnerRequests : Prop :=
  (∀ (s s2 : State) (n beats : Nat) (parity : Bool) (flips : List (Nat × Nat)) (q : SashReq) (rest : List SashReq) (e : QEntry),
      n < 12288 → s.coreRuns n = true → (s.tileRec n).retraining = false → s.agedWaits n = false →
      (s.tileRec n).queue = q :: rest → s.entryOf n q.uid = some e → q.write = true →
      writeBytes { code := 1, source := n } parity (q.addr + q.done) (s.storeBytes n (q.local_ + q.done) (min (32 * beats) (q.len - q.done))) s = (none,
        s2) →
      exec (.ownerSashRequest n beats parity false flips) s = .next
        (servedOwner n (min (32 * beats) (q.len - q.done)) q s2)) ∧
  (∀ (s s2 : State) (n beats : Nat) (parity : Bool) (flips : List (Nat × Nat)) (q : SashReq) (rest : List SashReq) (e : QEntry) (d : List Nat),
      n < 12288 → s.coreRuns n = true → (s.tileRec n).retraining = false → s.agedWaits n = false →
      (s.tileRec n).queue = q :: rest → s.entryOf n q.uid = some e → q.write = false →
      readBytes { code := 1, source := n } parity (q.addr + q.done) (min (32 * beats) (q.len - q.done)) (flipSymbols q.addr flips s) = (.data d,
        s2) →
      exec (.ownerSashRequest n beats parity false flips) s = .next
        (servedOwner n (min (32 * beats) (q.len - q.done)) q (putStore n (q.local_ + q.done) d s2))) ∧
  (∀ (s s2 : State) (n beats : Nat) (parity : Bool) (flips : List (Nat × Nat)) (q : SashReq) (rest : List SashReq) (e : QEntry) (c : Nat),
      n < 12288 → s.coreRuns n = true → (s.tileRec n).retraining = false → s.agedWaits n = false →
      (s.tileRec n).queue = q :: rest → s.entryOf n q.uid = some e → q.write = true →
      writeBytes { code := 1, source := n } parity (q.addr + q.done) (s.storeBytes n (q.local_ + q.done) (min (32 * beats) (q.len - q.done))) s = (some c,
        s2) →
      exec (.ownerSashRequest n beats parity false flips) s = .next (failOwner n (inFlightFault c) e s2)) ∧
  (∀ (s s2 : State) (n beats : Nat) (parity : Bool) (flips : List (Nat × Nat)) (q : SashReq) (rest : List SashReq) (e : QEntry) (c : Nat),
      n < 12288 → s.coreRuns n = true → (s.tileRec n).retraining = false → s.agedWaits n = false →
      (s.tileRec n).queue = q :: rest → s.entryOf n q.uid = some e → q.write = false →
      readBytes { code := 1, source := n } parity (q.addr + q.done) (min (32 * beats) (q.len - q.done)) (flipSymbols q.addr flips s) = (.error c,
        s2) →
      exec (.ownerSashRequest n beats parity false flips) s = .next (failOwner n (inFlightFault c) e s2)) ∧
  (∀ (s : State) (n beats : Nat) (parity : Bool) (flips : List (Nat × Nat)) (q : SashReq) (rest : List SashReq) (e : QEntry),
      n < 12288 → s.coreRuns n = true → (s.tileRec n).retraining = false → s.agedWaits n = false →
      (s.tileRec n).queue = q :: rest → s.entryOf n q.uid = some e → q.write = true →
      exec (.ownerSashRequest n beats parity true flips) s = .next (failOwner n 1 e s)) ∧
  (∀ (s : State) (n beats : Nat) (parity store : Bool) (flips : List (Nat × Nat)) (q : SashReq) (rest : List SashReq),
      n < 12288 → s.coreRuns n = true → (s.tileRec n).retraining = false → s.agedWaits n = false →
      (s.tileRec n).queue = q :: rest → s.entryOf n q.uid = none →
      exec (.ownerSashRequest n beats parity store flips) s = .next (setTile n (fun x => { x with queue := rest }) s)) ∧
  (∀ (s : State) (n beats : Nat) (q : SashReq) (rest : List SashReq) (e : QEntry), n < 12288 → s.coreRuns n = true →
      (s.tileRec n).retraining = false → s.agedWaits n = false → (s.tileRec n).queue = q :: rest →
      (s.coreRec n).queue = [e] → e.issued = e.need → (s.walkerOf (regionOf n)).ready = [] → q.done = 0 →
      q.len ≤ 32 * beats → e.uid = q.uid → q.write = true → q.addr % 32 = 0 → q.len % 32 = 0 →
      s.lockedIn q.addr (q.len / 32) = false → s.blockedIn q.addr (q.len / 32) = none → s.pathBad q.addr = false → ∃ t,
      exec (.ownerSashRequest n beats false false []) s = .next t ∧
      t.mem.dram = memPutBytes s.mem.dram q.addr (s.storeBytes n q.local_ q.len) ∧ t.cores.store = s.cores.store ∧
      (t.tileRec n).queue = rest ∧
      (t.coreRec n).queue = [{ e with got := e.got + 1, done := decide (e.got + 1 = e.need) }] ∧ t.net = s.net) ∧
  (∀ (s : State) (n beats : Nat) (q : SashReq) (rest : List SashReq) (e : QEntry) (d : List Nat), n < 12288 →
      s.coreRuns n = true → (s.tileRec n).retraining = false → s.agedWaits n = false → (s.tileRec n).queue = q :: rest →
      (s.coreRec n).queue = [e] → e.issued = e.need → (s.walkerOf (regionOf n)).ready = [] → q.done = 0 →
      q.len ≤ 32 * beats → e.uid = q.uid → q.write = false →
      (readBytes { code := 1, source := n } false q.addr q.len s).1 = .data d → ∃ t,
      exec (.ownerSashRequest n beats false false []) s = .next t ∧
      t.cores.store = memPutBytes s.cores.store (n * storeSize + q.local_) (d.take (storeSize - q.local_)) ∧
      t.mem.dram = s.mem.dram ∧ (t.tileRec n).queue = rest ∧
      (t.coreRec n).queue = [{ e with got := e.got + 1, done := decide (e.got + 1 = e.need) }] ∧ t.net = s.net) ∧
  (∀ (s : State) (n beats : Nat) (parity store : Bool) (flips : List (Nat × Nat)), n < 12288 →
      (s.tileRec n).retraining = true ∨ s.agedWaits n = true ∨ s.coreRuns n = false ∨ (s.tileRec n).queue = [] →
      exec (.ownerSashRequest n beats parity store flips) s = .next s)

/-- A VEC at the head of the vector queue starts, and the one under way goes on, with its next rows in order: `nextRows`
counts them, and the work of its family reads and writes their planes. The first row of each: its result row, packed
to whole units, is written at its destination in the core store and nothing else there changes; the five
element-wise operations take a second row, ADDS and MULS take the first element of their second operand, ROWSUB and
ROWMUL the element of the row, EXP, RCP, RSQRT, SIGMOID and CSUM take none; the four reductions write one element
for the row, and the two masks one bit for each element. The descriptor is done with its last row, and nothing but
the core and the count of free values changes. -/
def Obligations.VectorOperations : Prop :=
  (∀ (s : State) (n count : Nat) (parity : Bool) (p : Nat × Instr) (e : QEntry) (d : VecDesc), n < 12288 →
      (s.coreRec n).queue.find? (fun e => decide (e.q = .vector) && e.started && !e.done) = none →
      s.startable n .vector = some e → kindOf e.w0 = 6 →
      p ∈ [(0x01, Instr.vecAdd n count parity), (0x02, Instr.vecSub n count parity), (0x03, Instr.vecMul n count parity),
        (0x04, Instr.vecMax n count parity), (0x05, Instr.vecMin n count parity)] →
      field e.w0 24 8 = p.1 → d = vecDesc e.w0 e.w1 →
      exec p.2 s = .next (nextRows n d.rows count parity (vecElement n d) e (startEntry n e s))) ∧
  (∀ (s : State) (n count : Nat) (parity : Bool) (p : Nat × Instr) (e : QEntry) (d : VecDesc), n < 12288 →
      (s.coreRec n).queue.find? (fun e => decide (e.q = .vector) && e.started && !e.done) = some e →
      s.coreRuns n = true → kindOf e.w0 = 6 →
      p ∈ [(0x01, Instr.vecAdd n count parity), (0x02, Instr.vecSub n count parity), (0x03, Instr.vecMul n count parity),
        (0x04, Instr.vecMax n count parity), (0x05, Instr.vecMin n count parity)] →
      field e.w0 24 8 = p.1 → d = vecDesc e.w0 e.w1 →
      exec p.2 s = .next (nextRows n d.rows count parity (vecElement n d) e s)) ∧
  (∀ (s : State) (n count : Nat) (parity : Bool) (p : Nat × Instr) (e : QEntry) (d : VecDesc), n < 12288 →
      (s.coreRec n).queue.find? (fun e => decide (e.q = .vector) && e.started && !e.done) = none →
      s.startable n .vector = some e → kindOf e.w0 = 6 →
      p ∈ [(0x01, Instr.vecAdd n count parity), (0x02, Instr.vecSub n count parity), (0x03, Instr.vecMul n count parity),
        (0x04, Instr.vecMax n count parity), (0x05, Instr.vecMin n count parity)] →
      field e.w0 24 8 = p.1 → d = vecDesc e.w0 e.w1 → count = 1 → parity = false → e.got = 0 → ∃ t,
      exec p.2 s = .next t ∧
      t.cores.store = memPutBytes s.cores.store (n * storeSize + d.dst) ((packRow (elemBits d.outF) (vecRow d.op d.inF d.outF s.fresh (s.rowAt n d.inF d.n d.src1 0) (s.rowF32 n d.inF d.n d.src2 0))).take (storeSize - d.dst)) ∧
      (t.coreRec n).queue = (s.coreRec n).queue.map (fun x => if x.uid = e.uid then { x with started := true, since := s.frm.tc, need := d.rows, got := 1, done := decide (1 = d.rows) } else x) ∧
      t.ctxOf n e.slot = (s.ctxOf n e.slot).consumePre e.w0 ∧
      t = { s with cores := { s.cores with core := t.cores.core, ctx := t.cores.ctx, store := t.cores.store }, fresh := t.fresh }) ∧
  (∀ (s : State) (n count : Nat) (parity : Bool) (p : Nat × Instr) (e : QEntry) (d : VecDesc), n < 12288 →
      (s.coreRec n).queue.find? (fun e => decide (e.q = .vector) && e.started && !e.done) = none →
      s.startable n .vector = some e → kindOf e.w0 = 6 →
      p ∈ [(0x06, Instr.vecAdds n count parity), (0x07, Instr.vecMuls n count parity)] → field e.w0 24 8 = p.1 →
      d = vecDesc e.w0 e.w1 → exec p.2 s = .next (nextRows n d.rows count parity (vecScalar n d) e (startEntry n e s))) ∧
  (∀ (s : State) (n count : Nat) (parity : Bool) (p : Nat × Instr) (e : QEntry) (d : VecDesc), n < 12288 →
      (s.coreRec n).queue.find? (fun e => decide (e.q = .vector) && e.started && !e.done) = some e →
      s.coreRuns n = true → kindOf e.w0 = 6 →
      p ∈ [(0x06, Instr.vecAdds n count parity), (0x07, Instr.vecMuls n count parity)] → field e.w0 24 8 = p.1 →
      d = vecDesc e.w0 e.w1 → exec p.2 s = .next (nextRows n d.rows count parity (vecScalar n d) e s)) ∧
  (∀ (s : State) (n count : Nat) (parity : Bool) (p : Nat × Instr) (e : QEntry) (d : VecDesc), n < 12288 →
      (s.coreRec n).queue.find? (fun e => decide (e.q = .vector) && e.started && !e.done) = none →
      s.startable n .vector = some e → kindOf e.w0 = 6 →
      p ∈ [(0x06, Instr.vecAdds n count parity), (0x07, Instr.vecMuls n count parity)] → field e.w0 24 8 = p.1 →
      d = vecDesc e.w0 e.w1 → count = 1 → parity = false → e.got = 0 → ∃ t, exec p.2 s = .next t ∧
      t.cores.store = memPutBytes s.cores.store (n * storeSize + d.dst) ((packRow (elemBits d.outF) (vecRow d.op d.inF d.outF s.fresh (s.rowAt n d.inF d.n d.src1 0) [vecIn d.inF (s.elemAt n d.inF d.src2 0)])).take (storeSize - d.dst)) ∧
      (t.coreRec n).queue = (s.coreRec n).queue.map (fun x => if x.uid = e.uid then { x with started := true, since := s.frm.tc, need := d.rows, got := 1, done := decide (1 = d.rows) } else x) ∧
      t.ctxOf n e.slot = (s.ctxOf n e.slot).consumePre e.w0 ∧
      t = { s with cores := { s.cores with core := t.cores.core, ctx := t.cores.ctx, store := t.cores.store }, fresh := t.fresh }) ∧
  (∀ (s : State) (n count : Nat) (parity : Bool) (p : Nat × Instr) (e : QEntry) (d : VecDesc), n < 12288 →
      (s.coreRec n).queue.find? (fun e => decide (e.q = .vector) && e.started && !e.done) = none →
      s.startable n .vector = some e → kindOf e.w0 = 6 →
      p ∈ [(0x14, Instr.vecRowsub n count parity), (0x15, Instr.vecRowmul n count parity)] → field e.w0 24 8 = p.1 →
      d = vecDesc e.w0 e.w1 → exec p.2 s = .next (nextRows n d.rows count parity (vecPerRow n d) e (startEntry n e s))) ∧
  (∀ (s : State) (n count : Nat) (parity : Bool) (p : Nat × Instr) (e : QEntry) (d : VecDesc), n < 12288 →
      (s.coreRec n).queue.find? (fun e => decide (e.q = .vector) && e.started && !e.done) = some e →
      s.coreRuns n = true → kindOf e.w0 = 6 →
      p ∈ [(0x14, Instr.vecRowsub n count parity), (0x15, Instr.vecRowmul n count parity)] → field e.w0 24 8 = p.1 →
      d = vecDesc e.w0 e.w1 → exec p.2 s = .next (nextRows n d.rows count parity (vecPerRow n d) e s)) ∧
  (∀ (s : State) (n count : Nat) (parity : Bool) (p : Nat × Instr) (e : QEntry) (d : VecDesc), n < 12288 →
      (s.coreRec n).queue.find? (fun e => decide (e.q = .vector) && e.started && !e.done) = none →
      s.startable n .vector = some e → kindOf e.w0 = 6 →
      p ∈ [(0x14, Instr.vecRowsub n count parity), (0x15, Instr.vecRowmul n count parity)] → field e.w0 24 8 = p.1 →
      d = vecDesc e.w0 e.w1 → count = 1 → parity = false → e.got = 0 → ∃ t, exec p.2 s = .next t ∧
      t.cores.store = memPutBytes s.cores.store (n * storeSize + d.dst) ((packRow (elemBits d.outF) (vecRow d.op d.inF d.outF s.fresh (s.rowAt n d.inF d.n d.src1 0) [vecIn d.inF (s.elemAt n d.inF d.src2 0)])).take (storeSize - d.dst)) ∧
      (t.coreRec n).queue = (s.coreRec n).queue.map (fun x => if x.uid = e.uid then { x with started := true, since := s.frm.tc, need := d.rows, got := 1, done := decide (1 = d.rows) } else x) ∧
      t.ctxOf n e.slot = (s.ctxOf n e.slot).consumePre e.w0 ∧
      t = { s with cores := { s.cores with core := t.cores.core, ctx := t.cores.ctx, store := t.cores.store }, fresh := t.fresh }) ∧
  (∀ (s : State) (n count : Nat) (parity : Bool) (p : Nat × Instr) (e : QEntry) (d : VecDesc), n < 12288 →
      (s.coreRec n).queue.find? (fun e => decide (e.q = .vector) && e.started && !e.done) = none →
      s.startable n .vector = some e → kindOf e.w0 = 6 →
      p ∈ [(0x08, Instr.vecExp n count parity), (0x09, Instr.vecRcp n count parity), (0x0A, Instr.vecRsqrt n count parity),
        (0x0B, Instr.vecSigmoid n count parity), (0x16, Instr.vecCsum n count parity)] →
      field e.w0 24 8 = p.1 → d = vecDesc e.w0 e.w1 →
      exec p.2 s = .next (nextRows n d.rows count parity (vecAlone n d) e (startEntry n e s))) ∧
  (∀ (s : State) (n count : Nat) (parity : Bool) (p : Nat × Instr) (e : QEntry) (d : VecDesc), n < 12288 →
      (s.coreRec n).queue.find? (fun e => decide (e.q = .vector) && e.started && !e.done) = some e →
      s.coreRuns n = true → kindOf e.w0 = 6 →
      p ∈ [(0x08, Instr.vecExp n count parity), (0x09, Instr.vecRcp n count parity), (0x0A, Instr.vecRsqrt n count parity),
        (0x0B, Instr.vecSigmoid n count parity), (0x16, Instr.vecCsum n count parity)] →
      field e.w0 24 8 = p.1 → d = vecDesc e.w0 e.w1 →
      exec p.2 s = .next (nextRows n d.rows count parity (vecAlone n d) e s)) ∧
  (∀ (s : State) (n count : Nat) (parity : Bool) (p : Nat × Instr) (e : QEntry) (d : VecDesc), n < 12288 →
      (s.coreRec n).queue.find? (fun e => decide (e.q = .vector) && e.started && !e.done) = none →
      s.startable n .vector = some e → kindOf e.w0 = 6 →
      p ∈ [(0x08, Instr.vecExp n count parity), (0x09, Instr.vecRcp n count parity), (0x0A, Instr.vecRsqrt n count parity),
        (0x0B, Instr.vecSigmoid n count parity), (0x16, Instr.vecCsum n count parity)] →
      field e.w0 24 8 = p.1 → d = vecDesc e.w0 e.w1 → count = 1 → parity = false → e.got = 0 → ∃ t,
      exec p.2 s = .next t ∧
      t.cores.store = memPutBytes s.cores.store (n * storeSize + d.dst) ((packRow (elemBits d.outF) (vecRow d.op d.inF d.outF s.fresh (s.rowAt n d.inF d.n d.src1 0) [])).take (storeSize - d.dst)) ∧
      (t.coreRec n).queue = (s.coreRec n).queue.map (fun x => if x.uid = e.uid then { x with started := true, since := s.frm.tc, need := d.rows, got := 1, done := decide (1 = d.rows) } else x) ∧
      t.ctxOf n e.slot = (s.ctxOf n e.slot).consumePre e.w0 ∧
      t = { s with cores := { s.cores with core := t.cores.core, ctx := t.cores.ctx, store := t.cores.store }, fresh := t.fresh }) ∧
  (∀ (s : State) (n count : Nat) (parity : Bool) (p : Nat × Instr) (e : QEntry) (d : VecDesc), n < 12288 →
      (s.coreRec n).queue.find? (fun e => decide (e.q = .vector) && e.started && !e.done) = none →
      s.startable n .vector = some e → kindOf e.w0 = 6 →
      p ∈ [(0x10, Instr.vecRsum n count parity), (0x11, Instr.vecRmax n count parity), (0x12, Instr.vecRsumsq n count parity),
        (0x13, Instr.vecRargmax n count parity)] →
      field e.w0 24 8 = p.1 → d = vecDesc e.w0 e.w1 →
      exec p.2 s = .next (nextRows n d.rows count parity (vecReduceRows n d) e (startEntry n e s))) ∧
  (∀ (s : State) (n count : Nat) (parity : Bool) (p : Nat × Instr) (e : QEntry) (d : VecDesc), n < 12288 →
      (s.coreRec n).queue.find? (fun e => decide (e.q = .vector) && e.started && !e.done) = some e →
      s.coreRuns n = true → kindOf e.w0 = 6 →
      p ∈ [(0x10, Instr.vecRsum n count parity), (0x11, Instr.vecRmax n count parity), (0x12, Instr.vecRsumsq n count parity),
        (0x13, Instr.vecRargmax n count parity)] →
      field e.w0 24 8 = p.1 → d = vecDesc e.w0 e.w1 →
      exec p.2 s = .next (nextRows n d.rows count parity (vecReduceRows n d) e s)) ∧
  (∀ (s : State) (n count : Nat) (parity : Bool) (p : Nat × Instr) (e : QEntry) (d : VecDesc), n < 12288 →
      (s.coreRec n).queue.find? (fun e => decide (e.q = .vector) && e.started && !e.done) = none →
      s.startable n .vector = some e → kindOf e.w0 = 6 →
      p ∈ [(0x10, Instr.vecRsum n count parity), (0x11, Instr.vecRmax n count parity), (0x12, Instr.vecRsumsq n count parity),
        (0x13, Instr.vecRargmax n count parity)] →
      field e.w0 24 8 = p.1 → d = vecDesc e.w0 e.w1 → count = 1 → parity = false → e.got = 0 → ∃ t,
      exec p.2 s = .next t ∧
      t.cores.store = memPutBytes s.cores.store (n * storeSize + d.dst) ((leBytes (elemBits d.outF / 8) (vecReduce d.op d.inF d.outF s.fresh 0 (s.rowAt n d.inF d.n d.src1 0)) ++ List.replicate (if d.rows = 1 then rowBytes d.outF 1 - elemBits d.outF / 8 else 0) 0).take (storeSize - d.dst)) ∧
      (t.coreRec n).queue = (s.coreRec n).queue.map (fun x => if x.uid = e.uid then { x with started := true, since := s.frm.tc, need := d.rows, got := 1, done := decide (1 = d.rows) } else x) ∧
      t.ctxOf n e.slot = (s.ctxOf n e.slot).consumePre e.w0 ∧
      t = { s with cores := { s.cores with core := t.cores.core, ctx := t.cores.ctx, store := t.cores.store }, fresh := t.fresh }) ∧
  (∀ (s : State) (n count : Nat) (parity : Bool) (p : Nat × Instr) (e : QEntry) (d : VecDesc), n < 12288 →
      (s.coreRec n).queue.find? (fun e => decide (e.q = .vector) && e.started && !e.done) = none →
      s.startable n .vector = some e → kindOf e.w0 = 6 →
      p ∈ [(0x18, Instr.vecMaskge n count parity), (0x19, Instr.vecMasklt n count parity)] → field e.w0 24 8 = p.1 →
      d = vecDesc e.w0 e.w1 →
      exec p.2 s = .next (nextRows n d.rows count parity (vecMaskRows n d) e (startEntry n e s))) ∧
  (∀ (s : State) (n count : Nat) (parity : Bool) (p : Nat × Instr) (e : QEntry) (d : VecDesc), n < 12288 →
      (s.coreRec n).queue.find? (fun e => decide (e.q = .vector) && e.started && !e.done) = some e →
      s.coreRuns n = true → kindOf e.w0 = 6 →
      p ∈ [(0x18, Instr.vecMaskge n count parity), (0x19, Instr.vecMasklt n count parity)] → field e.w0 24 8 = p.1 →
      d = vecDesc e.w0 e.w1 → exec p.2 s = .next (nextRows n d.rows count parity (vecMaskRows n d) e s)) ∧
  (∀ (s : State) (n count : Nat) (parity : Bool) (p : Nat × Instr) (e : QEntry) (d : VecDesc), n < 12288 →
      (s.coreRec n).queue.find? (fun e => decide (e.q = .vector) && e.started && !e.done) = none →
      s.startable n .vector = some e → kindOf e.w0 = 6 →
      p ∈ [(0x18, Instr.vecMaskge n count parity), (0x19, Instr.vecMasklt n count parity)] → field e.w0 24 8 = p.1 →
      d = vecDesc e.w0 e.w1 → count = 1 → parity = false → e.got = 0 → ∃ t, exec p.2 s = .next t ∧
      t.cores.store = memPutBytes s.cores.store (n * storeSize + d.dst) ((packRow 1 (vecMask d.op d.inF (s.rowAt n d.inF d.n d.src1 0) (s.rowF32 n d.inF d.n d.src2 0))).take (storeSize - d.dst)) ∧
      (t.coreRec n).queue = (s.coreRec n).queue.map (fun x => if x.uid = e.uid then { x with started := true, since := s.frm.tc, need := d.rows, got := 1, done := decide (1 = d.rows) } else x) ∧
      t.ctxOf n e.slot = (s.ctxOf n e.slot).consumePre e.w0 ∧
      t = { s with cores := { s.cores with core := t.cores.core, ctx := t.cores.ctx, store := t.cores.store }, fresh := t.fresh })

/-- A VEC of any of the twenty operations, a CONVERT, a STORE or a SEND that meets a parity error in a byte it reads
faults with 0x01: its context stops, it leaves its queue, and no byte is written. CORE_PARITY_FENCE fences a core
with four such frames in sixteen, and no other core. UNIT_WATCHDOG_EXPIRY, 1 ms after the last progress of a
descriptor under way, faults it with 0x0B and fences the core for the transfer, message and vector units, the pane
for a pane; before that it changes nothing. -/
def Obligations.ParityStopsACore : Prop :=
  (∀ (s : State) (n count : Nat) (p : Nat × Instr) (e : QEntry), n < 12288 →
      (s.coreRec n).queue.find? (fun e => decide (e.q = .vector) && e.started && !e.done) = none →
      s.startable n .vector = some e → kindOf e.w0 = 6 →
      p ∈ [(0x01, Instr.vecAdd n count true), (0x02, Instr.vecSub n count true), (0x03, Instr.vecMul n count true), (0x04,
        Instr.vecMax n count true), (0x05, Instr.vecMin n count true), (0x06, Instr.vecAdds n count true), (0x07,
        Instr.vecMuls n count true), (0x14, Instr.vecRowsub n count true), (0x15, Instr.vecRowmul n count true), (0x08,
        Instr.vecExp n count true), (0x09, Instr.vecRcp n count true), (0x0A, Instr.vecRsqrt n count true), (0x0B,
        Instr.vecSigmoid n count true), (0x16, Instr.vecCsum n count true), (0x10, Instr.vecRsum n count true), (0x11,
        Instr.vecRmax n count true), (0x12, Instr.vecRsumsq n count true), (0x13, Instr.vecRargmax n count true), (0x18,
        Instr.vecMaskge n count true), (0x19, Instr.vecMasklt n count true)] →
      field e.w0 24 8 = p.1 → ∃ t, exec p.2 s = .next t ∧ (t.ctxOf n e.slot).stopped = true ∧
      (t.ctxOf n e.slot).fault = 1 ∧ (t.coreRec n).queue.all (fun x => x.uid != e.uid) = true ∧
      t.cores.store = s.cores.store ∧ t.mem = s.mem) ∧
  (∀ (s : State) (n count : Nat) (e : QEntry), n < 12288 →
      (s.coreRec n).queue.find? (fun e => decide (e.q = .vector) && e.started && !e.done) = none →
      s.startable n .vector = some e → kindOf e.w0 = 7 → ∃ t, exec (.convert n count true) s = .next t ∧
      (t.ctxOf n e.slot).stopped = true ∧ (t.ctxOf n e.slot).fault = 1 ∧
      (t.coreRec n).queue.all (fun x => x.uid != e.uid) = true ∧ t.cores.store = s.cores.store ∧ t.mem = s.mem) ∧
  (∀ (s : State) (n : Nat) (looks : List Nat) (e : QEntry), n < 12288 → s.startable n .transfer = some e →
      kindOf e.w0 = 2 → ∃ t, exec (.storeDesc n looks true) s = .next t ∧ (t.ctxOf n e.slot).stopped = true ∧
      (t.ctxOf n e.slot).fault = 1 ∧ (t.coreRec n).queue.all (fun x => x.uid != e.uid) = true ∧
      t.cores.store = s.cores.store ∧ t.mem = s.mem) ∧
  (∀ (s : State) (n : Nat) (e : QEntry), n < 12288 → s.startable n .message = some e → kindOf e.w0 = 3 → ∃ t,
      exec (.send n true) s = .next t ∧ (t.ctxOf n e.slot).stopped = true ∧ (t.ctxOf n e.slot).fault = 1 ∧
      (t.coreRec n).queue.all (fun x => x.uid != e.uid) = true ∧ t.cores.store = s.cores.store ∧ t.mem = s.mem) ∧
  (∀ (s : State) (n : Nat), n < 12288 → s.powered = true → (s.coreRec n).parityDue s.frm.count = true → ∃ t,
      exec (.coreParityFence n) s = .next t ∧ (t.fence n).core = true ∧
      ((s.fence n).core = false → (t.fence n).coreCause = 3) ∧ (∀ m, m ≠ n → t.fence m = s.fence m) ∧
      t.cores.store = s.cores.store ∧ t.mem = s.mem) ∧
  (∀ (s : State) (n qi : Nat) (e : QEntry), n < 12288 → qi = 0 ∨ qi = 1 ∨ qi = 4 → s.coreRuns n = true →
      (s.coreRec n).queue.find? (fun e => decide (e.q = queueAt qi) && e.started && !e.done && decide (kindOf e.w0 ≠ 4)) = some e →
      e.since + 1000000 ≤ s.frm.tc → ∃ t, exec (.unitWatchdogExpiry n qi) s = .next t ∧
      (t.ctxOf n e.slot).stopped = true ∧ (t.ctxOf n e.slot).fault = 0x0B ∧ t.cores.store = s.cores.store ∧
      (t.fence n).core = true ∧ (t.fence n).coreCause = 4 ∧ (∀ m, m ≠ n → t.fence m = s.fence m)) ∧
  (∀ (s : State) (n qi : Nat) (e : QEntry), n < 12288 → qi = 2 ∨ qi = 3 → s.coreRuns n = true →
      (s.coreRec n).queue.find? (fun e => decide (e.q = queueAt qi) && e.started && !e.done && decide (kindOf e.w0 ≠ 4)) = some e →
      e.since + 1000000 ≤ s.frm.tc → ∃ t, exec (.unitWatchdogExpiry n qi) s = .next t ∧
      (t.ctxOf n e.slot).stopped = true ∧ (t.ctxOf n e.slot).fault = 0x0B ∧ t.cores.store = s.cores.store ∧
      t.paneFenced n (qi - 2) = true ∧ (t.paneOf n (qi - 2)).halves = [] ∧ (t.fence n).core = (s.fence n).core ∧
      (∀ m, m ≠ n → t.fence m = s.fence m)) ∧
  (∀ (s : State) (n qi : Nat) (e : QEntry), n < 12288 → qi < 6 →
      (s.coreRec n).queue.find? (fun e => decide (e.q = queueAt qi) && e.started && !e.done && decide (kindOf e.w0 ≠ 4)) = some e →
      s.frm.tc < e.since + 1000000 → exec (.unitWatchdogExpiry n qi) s = .next s)

/-- A MATMUL that may start on a good pane, with its codebook header in order, starts and takes its next k-blocks, and
one under way goes on; in a core cycle in which the pane may not issue the cycle is counted as held and no k-block
is taken. With one k-block the half is complete: its sums are formed from the operands that the core store holds,
and it waits for the drain. No byte of the core store changes. On a fenced pane MATMUL faults with 0x0A, with
another codebook header with 0x08, and at a parity error in an operand with 0x01. DRAIN_HALF_DONE drains the outputs
that the oldest half still holds to their places in the drain plane, no other byte, takes the half out and counts it
for its descriptor; a parity error in an old content that it accumulates onto is fault 0x01. PANE_PARITY_ERROR
fences the pane, and its halves are lost. Where there is no such MATMUL or half, nothing changes. -/
def Obligations.PanesWork : Prop :=
  (∀ (s : State) (n p cycle blocks : Nat) (parity : Bool) (e : QEntry), n < 12288 → p < 2 → s.paneRunning n p = none →
      s.paneNext n p = some e → s.paneFenced n p = false → s.headerOk n (matDesc e.w0 e.w1) = true → parity = false →
      s.mayIssue n p cycle = true →
      exec (.matmul n p cycle blocks parity) s = .next
        (feedPane n p blocks (updEntry n e.uid (fun x => { x with need := (matDesc e.w0 e.w1).halves }) (startEntry n e s)))) ∧
  (∀ (s : State) (n p cycle blocks : Nat) (parity : Bool) (e : QEntry), n < 12288 → p < 2 → s.paneRunning n p = none →
      s.paneNext n p = some e → s.paneFenced n p = false → s.headerOk n (matDesc e.w0 e.w1) = true → parity = false →
      s.mayIssue n p cycle = false →
      exec (.matmul n p cycle blocks parity) s = .next
        (setPane n p (fun x => { x with ctr := { x.ctr with held := satAdd 32 x.ctr.held 1 } }) (updEntry n e.uid (fun x => { x with need := (matDesc e.w0 e.w1).halves }) (startEntry n e s)))) ∧
  (∀ (s : State) (n p cycle blocks : Nat) (parity : Bool) (e : QEntry), n < 12288 → p < 2 → s.paneRunning n p = none →
      s.paneNext n p = some e → s.paneFenced n p = false → s.headerOk n (matDesc e.w0 e.w1) = true → parity = true →
      ∃ t, exec (.matmul n p cycle blocks parity) s = .next t ∧ (t.ctxOf n e.slot).stopped = true ∧
      (t.ctxOf n e.slot).fault = 1 ∧ (t.coreRec n).queue.all (fun x => x.uid != e.uid) = true ∧
      t.cores.store = s.cores.store ∧ t.mem = s.mem ∧ (t.paneOf n p).fill = none ∧
      (t.paneOf n p).halves = (s.paneOf n p).halves) ∧
  (∀ (s : State) (n p cycle blocks : Nat) (e : QEntry), n < 12288 → p < 2 → s.paneRunning n p = some e →
      s.coreRuns n = true → s.mayIssue n p cycle = true →
      exec (.matmul n p cycle blocks false) s = .next (feedPane n p blocks s)) ∧
  (∀ (s : State) (n p cycle : Nat) (e : QEntry) (d : MatDesc), n < 12288 → p < 2 → s.paneRunning n p = none →
      s.paneNext n p = some e → s.paneFenced n p = false → s.headerOk n (matDesc e.w0 e.w1) = true →
      s.mayIssue n p cycle = true → d = matDesc e.w0 e.w1 → d.kb = 1 → 0 < d.halves → (s.paneOf n p).halves = [] →
      (s.paneOf n p).fill = none → (s.coreRec n).queue = [e] → e.issued = 0 → ∃ t,
      exec (.matmul n p cycle 1 false) s = .next t ∧
      (t.paneOf n p).halves = [{ uid := e.uid, half := 1 - (s.paneOf n p).lastHalf, outs := (d.sumHalf s.fresh (d.takeBlock (fun a len => s.storeBytes n a len) 0 0 (d.startOuts 0)).1).1 }] ∧
      (t.paneOf n p).fill = none ∧ t.cores.store = s.cores.store ∧ t.mem = s.mem ∧ t.net = s.net) ∧
  (∀ (s : State) (n p cycle blocks : Nat) (parity : Bool) (e : QEntry), n < 12288 → p < 2 → s.paneRunning n p = none →
      s.paneNext n p = some e → s.paneFenced n p = true → ∃ t, exec (.matmul n p cycle blocks parity) s = .next t ∧
      (t.ctxOf n e.slot).stopped = true ∧ (t.ctxOf n e.slot).fault = 0x0A ∧
      (t.coreRec n).queue.all (fun x => x.uid != e.uid) = true ∧ t.cores.store = s.cores.store ∧ t.mem = s.mem ∧
      t.cores.pane = s.cores.pane) ∧
  (∀ (s : State) (n p cycle blocks : Nat) (parity : Bool) (e : QEntry), n < 12288 → p < 2 → s.paneRunning n p = none →
      s.paneNext n p = some e → s.paneFenced n p = false → s.headerOk n (matDesc e.w0 e.w1) = false → ∃ t,
      exec (.matmul n p cycle blocks parity) s = .next t ∧ (t.ctxOf n e.slot).stopped = true ∧
      (t.ctxOf n e.slot).fault = 8 ∧ (t.coreRec n).queue.all (fun x => x.uid != e.uid) = true ∧
      t.cores.store = s.cores.store ∧ t.mem = s.mem ∧ t.cores.pane = s.cores.pane) ∧
  (∀ (s : State) (n p cycle blocks : Nat) (parity : Bool), n < 12288 → p < 2 → s.paneRunning n p = none →
      s.paneNext n p = none → exec (.matmul n p cycle blocks parity) s = .next s) ∧
  (∀ (s : State) (n p a b c f g : Nat) (par : Bool) (h : HalfAcc) (rest : List HalfAcc) (e : QEntry), n < 12288 → p < 2 →
      s.coreRuns n = true → s.paneFenced n p = false → (s.paneOf n p).halves = h :: rest → s.entryOf n h.uid = some e →
      par = false ∨ (matDesc e.w0 e.w1).acc = false → ∃ t, exec (.drainHalfDone n p a b c f g par) s = .next t ∧
      t.cores.store = (h.outs.foldl (fun st o => drainOut n (matDesc e.w0 e.w1) o st) (s, [])).1.cores.store ∧
      (∀ x, (∀ o ∈ h.outs, x < n * storeSize + (matDesc e.w0 e.w1).outAt o.1 o.2.1 ∨
        n * storeSize + (matDesc e.w0 e.w1).outAt o.1 o.2.1 + (matDesc e.w0 e.w1).outBytes ≤ x) →
        memRead t.cores.store x = memRead s.cores.store x) ∧
      (t.paneOf n p).halves = rest ∧
      (t.entryOf n h.uid).map (fun x => (x.got, x.done)) = some (e.got + 1, decide (e.got + 1 = e.need)) ∧
      t.mem = s.mem ∧ t.net = s.net) ∧
  (∀ (s : State) (n p a b c f g : Nat) (h : HalfAcc) (rest : List HalfAcc) (e : QEntry), n < 12288 → p < 2 →
      s.coreRuns n = true → s.paneFenced n p = false → (s.paneOf n p).halves = h :: rest → s.entryOf n h.uid = some e →
      (matDesc e.w0 e.w1).acc = true → ∃ t, exec (.drainHalfDone n p a b c f g true) s = .next t ∧
      (t.ctxOf n e.slot).stopped = true ∧ (t.ctxOf n e.slot).fault = 1 ∧
      (t.coreRec n).queue.all (fun x => x.uid != e.uid) = true ∧ t.cores.store = s.cores.store ∧
      (t.paneOf n p).halves = rest) ∧
  (∀ (s : State) (n p a b c f g : Nat) (par : Bool), n < 12288 → p < 2 → (s.paneOf n p).halves = [] ∨
      s.coreRuns n = false ∨ s.paneFenced n p = true → exec (.drainHalfDone n p a b c f g par) s = .next s) ∧
  (∀ (s : State) (n p : Nat), n < 12288 → p < 2 → s.powered = true → s.paneGood n p = true → ∃ t,
      exec (.paneParityError n p) s = .next t ∧ t.paneFenced n p = true ∧ (t.paneOf n p).halves = [] ∧
      (t.paneOf n p).fill = none ∧ (t.fence n).core = (s.fence n).core ∧ (t.fence n).tile = (s.fence n).tile ∧
      (∀ m, m ≠ n → t.fence m = s.fence m) ∧ t.cores.store = s.cores.store ∧ t.mem = s.mem)

/-- A CONVERT at the head of the vector queue starts, and the one under way goes on, with its next rows. The first row
between formats without block scales, rounding to nearest and without an input scale: the converted row is written
at its destination and nothing else in the core store, and its amax record names the frame and the format. Any
CONVERT changes only its result planes and its scale planes, and neither stacked memory nor the network. A GATHER
whose slot is free on an unfenced bank fills the slot from the descriptor and queues it, and changes neither stacked
memory nor the core store; on a fenced bank it faults with 0x03; while its slot is taken it waits and nothing
changes. -/
def Obligations.ConversionsAndGathers : Prop :=
  (∀ (s : State) (n count : Nat) (parity : Bool) (e : QEntry) (d : ConvDesc), n < 12288 →
      (s.coreRec n).queue.find? (fun e => decide (e.q = .vector) && e.started && !e.done) = none →
      s.startable n .vector = some e → kindOf e.w0 = 7 → d = convDesc e.w0 e.w1 →
      exec (.convert n count parity) s = .next
        (nextRows n d.rows count parity (convert n e.slot d) { e with started := true } (startEntry n e s))) ∧
  (∀ (s : State) (n count : Nat) (parity : Bool) (e : QEntry) (d : ConvDesc), n < 12288 →
      (s.coreRec n).queue.find? (fun e => decide (e.q = .vector) && e.started && !e.done) = some e →
      s.coreRuns n = true → kindOf e.w0 = 7 → d = convDesc e.w0 e.w1 →
      exec (.convert n count parity) s = .next (nextRows n d.rows count parity (convert n e.slot d) e s)) ∧
  (∀ (s : State) (n : Nat) (e : QEntry) (d : ConvDesc), n < 12288 →
      (s.coreRec n).queue.find? (fun e => decide (e.q = .vector) && e.started && !e.done) = none →
      s.startable n .vector = some e → kindOf e.w0 = 7 → d = convDesc e.w0 e.w1 → e.got = 0 → isMx d.inF = false →
      isMx d.outF = false → d.rnd = false → d.scaleSrc ≠ 1 → ∃ t, exec (.convert n 1 false) s = .next t ∧
      t.cores.store = memPutBytes s.cores.store (n * storeSize + d.dst) ((packRow (elemBits d.outF) (convRow d.outF (List.replicate d.n .rne) d.sat (.fin false 1 0) ((s.rowAt n d.inF d.n d.src 0).map (fun c => convIn d.inF c none)) {}).1).take (storeSize - d.dst)) ∧
      (mapGet amax0 (t.ctxOf n e.slot).amax d.amax).frame = s.frm.count % 2 ^ 32 ∧
      (mapGet amax0 (t.ctxOf n e.slot).amax d.amax).outFmt = d.outF ∧
      (t.coreRec n).queue = (s.coreRec n).queue.map (fun x => if x.uid = e.uid then { x with started := true, since := s.frm.tc, need := d.rows, got := 1, done := decide (1 = d.rows) } else x)) ∧
  (∀ (s : State) (n count x : Nat) (parity : Bool) (e : QEntry) (d : ConvDesc), n < 12288 →
      (s.coreRec n).queue.find? (fun e => decide (e.q = .vector) && e.started && !e.done) = none →
      s.startable n .vector = some e → kindOf e.w0 = 7 → d = convDesc e.w0 e.w1 → e.got = 0 →
      x < n * storeSize + d.dst ∨ n * storeSize + d.dst + d.rows * rowBytes d.outF d.n ≤ x →
      x < n * storeSize + d.scaleAt ∨ n * storeSize + d.scaleAt + d.rows * scaleRow d.n ≤ x → ∃ t,
      exec (.convert n count parity) s = .next t ∧ memRead t.cores.store x = memRead s.cores.store x ∧ t.mem = s.mem ∧
      t.net = s.net) ∧
  (∀ (s : State) (n : Nat) (e : QEntry) (u : BankUnit), n < 12288 → s.startable n .bank = some e → kindOf e.w0 = 8 →
      u = s.unitOf n (field e.w0 27 5) → (u.slot (field e.w0 24 3)).free = true → field e.w0 24 3 < u.slots.length →
      s.bankFenced n (field e.w0 27 5) = false → ∃ t, exec (.gather n) s = .next t ∧
      (t.unitOf n (field e.w0 27 5)).slot (field e.w0 24 3) = { gatherSlot e.w0 e.w1 e.uid e.slot (u.slot (field e.w0 24 3)) with state := 1, cause := 0, changedTc := s.frm.tc } ∧
      (t.unitOf n (field e.w0 27 5)).order = u.order ++ [field e.w0 24 3] ∧
      t = { startEntry n e s with bnk := { s.bnk with units := t.bnk.units } }) ∧
  (∀ (s : State) (n : Nat) (e : QEntry), n < 12288 → s.startable n .bank = some e → kindOf e.w0 = 8 →
      ((s.unitOf n (field e.w0 27 5)).slot (field e.w0 24 3)).free = true → s.bankFenced n (field e.w0 27 5) = true →
      ∃ t, exec (.gather n) s = .next t ∧ (t.ctxOf n e.slot).stopped = true ∧ (t.ctxOf n e.slot).fault = 3 ∧
      (t.coreRec n).queue.all (fun x => x.uid != e.uid) = true ∧ t.cores.store = s.cores.store ∧ t.mem = s.mem ∧
      t.bnk = s.bnk) ∧
  (∀ (s : State) (n : Nat) (e : QEntry), n < 12288 → s.startable n .bank = some e → kindOf e.w0 = 8 →
      ((s.unitOf n (field e.w0 27 5)).slot (field e.w0 24 3)).free = false → exec (.gather n) s = .next s)

/-- At its micro-op the running command of a bank unit does what Table 7.5 says, and nothing else changes. JUMP goes to
the target; SELOP goes there under copy only; SEGB goes there while the segment has not ended and entries remain;
PIECE moves P by 16 units and goes there while the row has more, else clears P; CLEAR sets every accumulator element
to the identity; NEXT takes the next buffered entry, or goes to the target when none remains. DONE ends the command:
its slot is DONE, and of memory and the core stores nothing changes. Where the command stands at another micro-op,
or may not start one, nothing changes. -/
def Obligations.MicroOpsMove : Prop :=
  (∀ (s : State) (n b : Nat) (m : Micro), n < 12288 → b < 24 → s.microAt n b 9 = some m →
      exec (.microJump n b) s = .next (setRun n b (fun r => { r with pc := m.target }) s)) ∧
  (∀ (s : State) (n b : Nat) (m : Micro), n < 12288 → b < 24 → s.microAt n b 11 = some m →
      exec (.microSelop n b) s = .next
        (setRun n b (fun r => { r with pc := if m.x.op = 0 then m.target else m.r.pc + 1 }) s)) ∧
  (∀ (s : State) (n b : Nat) (m : Micro), n < 12288 → b < 24 → s.microAt n b 6 = some m →
      exec (.microSegb n b) s = .next
        (setRun n b (fun r => { r with pc := if m.r.segEnd = false ∧ m.r.remaining ≠ 0 then m.target else m.r.pc + 1 }) s)) ∧
  (∀ (s : State) (n b : Nat) (m : Micro), n < 12288 → b < 24 → s.microAt n b 5 = some m → ∃ t,
      exec (.microPiece n b) s = .next t ∧
      (m.r.piece + 16 < m.x.rowLen → (t.unitOf n b).run = some { m.r with piece := m.r.piece + 16, pc := m.target }) ∧
      (m.x.rowLen ≤ m.r.piece + 16 → (t.unitOf n b).run = some { m.r with piece := 0, pc := m.r.pc + 1 }) ∧
      (∀ k, k ≠ n * 32 + b → mapGet bankUnit0 t.bnk.units k = mapGet bankUnit0 s.bnk.units k) ∧
      t = { s with bnk := { s.bnk with units := t.bnk.units } }) ∧
  (∀ (s : State) (n b : Nat) (m : Micro), n < 12288 → b < 24 → s.microAt n b 8 = some m → ∃ t,
      exec (.microClear n b) s = .next t ∧
      (t.unitOf n b).run = some { m.r with acc := List.replicate (m.elems m.x.rowLen) m.identity, segCount := 0, pc := m.r.pc + 1 } ∧
      (∀ k, k ≠ n * 32 + b → mapGet bankUnit0 t.bnk.units k = mapGet bankUnit0 s.bnk.units k) ∧
      t = { s with bnk := { s.bnk with units := t.bnk.units } }) ∧
  (∀ (s : State) (n b : Nat) (m : Micro) (parity : Bool) (flips : List (Nat × Nat)), n < 12288 → b < 24 →
      s.microAt n b 1 = some m → m.r.remaining = 0 →
      exec (.microNext n b parity flips) s = .next (setRun n b (fun r => { r with pc := m.target }) s)) ∧
  (∀ (s : State) (n b : Nat) (m : Micro) (flips : List (Nat × Nat)), n < 12288 → b < 24 → s.microAt n b 1 = some m →
      m.r.remaining ≠ 0 → m.r.buf ≠ [] → m.r.slot < (s.unitOf n b).slots.length → ∃ t,
      exec (.microNext n b false flips) s = .next t ∧
      (t.unitOf n b).run = some { m.r with index := field (leAt m.r.buf 0 8) 0 16, weight := field (leAt m.r.buf 0 8) 32 32, segEnd := bit (leAt m.r.buf 0 8) 31, remaining := m.r.remaining - 1, taken := m.r.taken + 1, segCount := m.r.segCount + 1, buf := m.r.buf.drop 8, pc := m.r.pc + 1 } ∧
      ((t.unitOf n b).slot m.r.slot).entriesDone = m.x.entriesDone + 1 ∧
      (∀ k, k ≠ n * 32 + b → mapGet bankUnit0 t.bnk.units k = mapGet bankUnit0 s.bnk.units k) ∧
      t = { s with bnk := { s.bnk with units := t.bnk.units } }) ∧
  (∀ (s : State) (n b : Nat) (m : Micro), n < 12288 → b < 24 → s.microAt n b 10 = some m →
      m.r.slot < (s.unitOf n b).slots.length → ∃ t, exec (.microDone n b) s = .next t ∧ (t.unitOf n b).run = none ∧
      ((t.unitOf n b).slot m.r.slot).state = 3 ∧ ((t.unitOf n b).slot m.r.slot).cause = 0 ∧
      t.bnk.done = satAdd 32 s.bnk.done 1 ∧
      (∀ k, k ≠ n * 32 + b → mapGet bankUnit0 t.bnk.units k = mapGet bankUnit0 s.bnk.units k) ∧ t.mem = s.mem ∧
      t.cores.store = s.cores.store) ∧
  (∀ (s : State) (n b : Nat) (pa : Bool) (pw : Option Nat) (fl : List (Nat × Nat)), n < 12288 → b < 24 →
      s.microRun n b = none ∨ ((s.microRun n b).map (fun r => (s.microWord r.pc).isSome)) = some false →
      exec (.microNext n b pa fl) s = .next s ∧ exec (.microFetch n b pa fl) s = .next s ∧
      exec (.microFetchc n b pa fl) s = .next s ∧ exec (.microCopyout n b pw) s = .next s ∧
      exec (.microPiece n b) s = .next s ∧ exec (.microSegb n b) s = .next s ∧ exec (.microOut n b pw) s = .next s ∧
      exec (.microClear n b) s = .next s ∧ exec (.microJump n b) s = .next s ∧ exec (.microDone n b) s = .next s ∧
      exec (.microSelop n b) s = .next s)

/-- FETCH reads the present piece of the row into the row buffer; FETCHC also combines it into the accumulator, except
under copy; NEXT with an empty buffer reads list words first. A row past the bank ends the command with cause 0x01,
and a read that meets an uncorrectable word with 0x04. COPYOUT writes the row buffer, and OUT the finished
accumulator, at the result cursor, no other byte of memory, and the cursor moves by the piece; OUT notes a NaN. Past
the result region the command ends with cause 0x02, and at a word a window has given to the host with cause 0x03,
and nothing is written. A parity error in a unit buffer ends the command with cause 0x05: of a piece the words
before it are written and no other. -/
def Obligations.MicroOpsReadAndWrite : Prop :=
  (∀ (s s2 : State) (n b : Nat) (m : Micro) (d : List Nat) (flips : List (Nat × Nat)), n < 12288 → b < 24 →
      s.microAt n b 2 = some m → m.x.tableOff + m.r.index * m.x.rowLen + m.x.rowLen ≤ 65536 →
      readBytes { code := 6, source := b } false (bankBase n b + 32 * (m.x.tableOff + m.r.index * m.x.rowLen + m.r.piece)) (32 * m.n) (flipSymbols (bankBase n b + 32 * (m.x.tableOff + m.r.index * m.x.rowLen + m.r.piece)) flips s) = (.data d,
        s2) →
      ∃ t, exec (.microFetch n b false flips) s = .next t ∧
      (t.unitOf n b).run = some { m.r with row := d, pc := m.r.pc + 1 } ∧
      (∀ k, k ≠ n * 32 + b → mapGet bankUnit0 t.bnk.units k = mapGet bankUnit0 s.bnk.units k) ∧
      (flips = [] → t.mem.dram = s.mem.dram) ∧ t.cores = s.cores) ∧
  (∀ (s s2 : State) (n b : Nat) (m : Micro) (d : List Nat) (flips : List (Nat × Nat)), n < 12288 → b < 24 →
      s.microAt n b 3 = some m → m.x.op ≠ 0 → m.x.tableOff + m.r.index * m.x.rowLen + m.x.rowLen ≤ 65536 →
      readBytes { code := 6, source := b } false (bankBase n b + 32 * (m.x.tableOff + m.r.index * m.x.rowLen + m.r.piece)) (32 * m.n) (flipSymbols (bankBase n b + 32 * (m.x.tableOff + m.r.index * m.x.rowLen + m.r.piece)) flips s) = (.data d,
        s2) →
      ∃ t, exec (.microFetchc n b false flips) s = .next t ∧
      (t.unitOf n b).run = some { m.r with row := d, acc := ({ m.r with row := d } : BankRun).putAcc (m.elems m.r.piece) ((m.combineAll (m.elems m.r.piece) ((List.range (m.elems m.n)).map (packedAt d m.bits))).map Prod.fst), pc := m.r.pc + 1 } ∧
      (∀ k, k ≠ n * 32 + b → mapGet bankUnit0 t.bnk.units k = mapGet bankUnit0 s.bnk.units k) ∧
      (flips = [] → t.mem.dram = s.mem.dram) ∧ t.cores = s.cores) ∧
  (∀ (s s2 : State) (n b : Nat) (m : Micro) (d : List Nat) (flips : List (Nat × Nat)), n < 12288 → b < 24 →
      s.microAt n b 3 = some m → m.x.op = 0 → m.x.tableOff + m.r.index * m.x.rowLen + m.x.rowLen ≤ 65536 →
      readBytes { code := 6, source := b } false (bankBase n b + 32 * (m.x.tableOff + m.r.index * m.x.rowLen + m.r.piece)) (32 * m.n) (flipSymbols (bankBase n b + 32 * (m.x.tableOff + m.r.index * m.x.rowLen + m.r.piece)) flips s) = (.data d,
        s2) →
      ∃ t, exec (.microFetchc n b false flips) s = .next t ∧
      (t.unitOf n b).run = some { m.r with row := d, pc := m.r.pc + 1 } ∧
      (∀ k, k ≠ n * 32 + b → mapGet bankUnit0 t.bnk.units k = mapGet bankUnit0 s.bnk.units k) ∧
      (flips = [] → t.mem.dram = s.mem.dram) ∧ t.cores = s.cores) ∧
  (∀ (s : State) (n b : Nat) (m : Micro) (parity : Bool) (flips : List (Nat × Nat)), n < 12288 → b < 24 →
      s.microAt n b 2 = some m → 65536 < m.x.tableOff + m.r.index * m.x.rowLen + m.x.rowLen →
      m.r.slot < (s.unitOf n b).slots.length → ∃ t, exec (.microFetch n b parity flips) s = .next t ∧
      (t.unitOf n b).run = none ∧ ((t.unitOf n b).slot m.r.slot).state = 4 ∧ ((t.unitOf n b).slot m.r.slot).cause = 1 ∧
      t.mem = s.mem) ∧
  (∀ (s s2 : State) (n b : Nat) (m : Micro) (flips : List (Nat × Nat)), n < 12288 → b < 24 → s.microAt n b 2 = some m →
      m.x.tableOff + m.r.index * m.x.rowLen + m.x.rowLen ≤ 65536 →
      readBytes { code := 6, source := b } false (bankBase n b + 32 * (m.x.tableOff + m.r.index * m.x.rowLen + m.r.piece)) (32 * m.n) (flipSymbols (bankBase n b + 32 * (m.x.tableOff + m.r.index * m.x.rowLen + m.r.piece)) flips s) = (.error 1,
        s2) →
      m.r.slot < (s.unitOf n b).slots.length → ∃ t, exec (.microFetch n b false flips) s = .next t ∧
      (t.unitOf n b).run = none ∧ ((t.unitOf n b).slot m.r.slot).state = 5 ∧ ((t.unitOf n b).slot m.r.slot).cause = 4) ∧
  (∀ (s s2 : State) (n b : Nat) (m : Micro) (d : List Nat) (flips : List (Nat × Nat)), n < 12288 → b < 24 →
      s.microAt n b 1 = some m → m.r.remaining ≠ 0 → m.r.buf = [] → m.r.slot < (s.unitOf n b).slots.length →
      readBytes { code := 6, source := b } false (bankBase n b + 32 * (m.x.listOff + m.r.taken / 4)) (32 * min 32 m.listLeft) (flipSymbols (bankBase n b + 32 * (m.x.listOff + m.r.taken / 4)) flips s) = (.data d,
        s2) →
      ∃ t, exec (.microNext n b false flips) s = .next t ∧
      (t.unitOf n b).run.map (fun r => (r.index, r.weight, r.remaining, r.buf, r.pc)) = some (field (leAt d 0 8) 0 16,
        field (leAt d 0 8) 32 32, m.r.remaining - 1, d.drop 8, m.r.pc + 1) ∧
      (flips = [] → t.mem.dram = s.mem.dram) ∧ t.cores = s.cores) ∧
  (∀ (s : State) (n b : Nat) (m : Micro), n < 12288 → b < 24 → s.microAt n b 4 = some m →
      m.r.cursor + m.n ≤ m.x.resultOff + m.x.resultLen →
      (List.range m.n).all (fun i => match s.windowOf (bankBase n b + 32 * m.r.cursor + 32 * i) with | some w => w.workOwned | none => true) = true →
      s.lockedIn (bankBase n b + 32 * m.r.cursor) (m.n) = false →
      s.blockedIn (bankBase n b + 32 * m.r.cursor) (m.n) = none → s.pathBad (bankBase n b + 32 * m.r.cursor) = false →
      m.r.slot < (s.unitOf n b).slots.length → ∃ t, exec (.microCopyout n b none) s = .next t ∧
      t.mem.dram = memPutBytes s.mem.dram (bankBase n b + 32 * m.r.cursor) (slice (m.r.rowBytes (32 * m.n)) 0 (32 * m.n)) ∧
      (t.unitOf n b).run = some { m.r with cursor := m.r.cursor + m.n, pc := m.r.pc + 1 } ∧
      ((t.unitOf n b).slot m.r.slot).resultUsed = m.x.resultUsed + m.n ∧
      (∀ k, k ≠ n * 32 + b → mapGet bankUnit0 t.bnk.units k = mapGet bankUnit0 s.bnk.units k) ∧ t.cores = s.cores) ∧
  (∀ (s : State) (n b : Nat) (m : Micro), n < 12288 → b < 24 → s.microAt n b 7 = some m →
      m.r.cursor + m.n ≤ m.x.resultOff + m.x.resultLen →
      (List.range m.n).all (fun i => match s.windowOf (bankBase n b + 32 * m.r.cursor + 32 * i) with | some w => w.workOwned | none => true) = true →
      s.lockedIn (bankBase n b + 32 * m.r.cursor) (m.n) = false →
      s.blockedIn (bankBase n b + 32 * m.r.cursor) (m.n) = none → s.pathBad (bankBase n b + 32 * m.r.cursor) = false →
      m.r.slot < (s.unitOf n b).slots.length → ∃ t, exec (.microOut n b none) s = .next t ∧
      t.mem.dram = memPutBytes s.mem.dram (bankBase n b + 32 * m.r.cursor) (slice (m.outBytes.1) 0 (32 * m.n)) ∧
      (t.unitOf n b).run = some { m.r with cursor := m.r.cursor + m.n, pc := m.r.pc + 1 } ∧
      (0 < m.n → ((t.unitOf n b).slot m.r.slot).nan = (m.x.nan || m.outBytes.2)) ∧
      (∀ k, k ≠ n * 32 + b → mapGet bankUnit0 t.bnk.units k = mapGet bankUnit0 s.bnk.units k) ∧ t.cores = s.cores) ∧
  (∀ (s : State) (n b : Nat) (m : Micro) (pw : Option Nat), n < 12288 → b < 24 → s.microAt n b 7 = some m →
      m.x.resultOff + m.x.resultLen < m.r.cursor + m.n → m.r.slot < (s.unitOf n b).slots.length → ∃ t,
      exec (.microOut n b pw) s = .next t ∧ (t.unitOf n b).run = none ∧ ((t.unitOf n b).slot m.r.slot).state = 4 ∧
      ((t.unitOf n b).slot m.r.slot).cause = 2 ∧ t.mem = s.mem) ∧
  (∀ (s : State) (n b : Nat) (m : Micro) (pw : Option Nat), n < 12288 → b < 24 → s.microAt n b 4 = some m →
      m.x.resultOff + m.x.resultLen < m.r.cursor + m.n → m.r.slot < (s.unitOf n b).slots.length → ∃ t,
      exec (.microCopyout n b pw) s = .next t ∧ (t.unitOf n b).run = none ∧ ((t.unitOf n b).slot m.r.slot).state = 4 ∧
      ((t.unitOf n b).slot m.r.slot).cause = 2 ∧ t.mem = s.mem) ∧
  (∀ (s : State) (n b i : Nat) (m : Micro) (w : Win) (pw : Option Nat), n < 12288 → b < 24 → s.microAt n b 4 = some m →
      m.r.cursor + m.n ≤ m.x.resultOff + m.x.resultLen → i < m.n →
      s.windowOf (bankBase n b + 32 * m.r.cursor + 32 * i) = some w → w.workOwned = false →
      m.r.slot < (s.unitOf n b).slots.length → ∃ t, exec (.microCopyout n b pw) s = .next t ∧
      (t.unitOf n b).run = none ∧ ((t.unitOf n b).slot m.r.slot).state = 4 ∧ ((t.unitOf n b).slot m.r.slot).cause = 3 ∧
      t.mem = s.mem) ∧
  (∀ (s : State) (n b i : Nat) (m : Micro), n < 12288 → b < 24 → s.microAt n b 4 = some m →
      m.r.cursor + m.n ≤ m.x.resultOff + m.x.resultLen → i < m.n →
      (List.range m.n).all (fun i => match s.windowOf (bankBase n b + 32 * m.r.cursor + 32 * i) with | some w => w.workOwned | none => true) = true →
      s.lockedIn (bankBase n b + 32 * m.r.cursor) (i) = false →
      s.blockedIn (bankBase n b + 32 * m.r.cursor) (i) = none → s.pathBad (bankBase n b + 32 * m.r.cursor) = false →
      m.r.slot < (s.unitOf n b).slots.length → ∃ t, exec (.microCopyout n b (some i)) s = .next t ∧
      t.mem.dram = memPutBytes s.mem.dram (bankBase n b + 32 * m.r.cursor) (slice (m.r.rowBytes (32 * m.n)) 0 (32 * i)) ∧
      (t.unitOf n b).run = none ∧ ((t.unitOf n b).slot m.r.slot).state = 5 ∧ ((t.unitOf n b).slot m.r.slot).cause = 5) ∧
  (∀ (s : State) (n b i : Nat) (m : Micro), n < 12288 → b < 24 → s.microAt n b 7 = some m →
      m.r.cursor + m.n ≤ m.x.resultOff + m.x.resultLen → i < m.n →
      (List.range m.n).all (fun i => match s.windowOf (bankBase n b + 32 * m.r.cursor + 32 * i) with | some w => w.workOwned | none => true) = true →
      s.lockedIn (bankBase n b + 32 * m.r.cursor) (i) = false →
      s.blockedIn (bankBase n b + 32 * m.r.cursor) (i) = none → s.pathBad (bankBase n b + 32 * m.r.cursor) = false →
      m.r.slot < (s.unitOf n b).slots.length → ∃ t, exec (.microOut n b (some i)) s = .next t ∧
      t.mem.dram = memPutBytes s.mem.dram (bankBase n b + 32 * m.r.cursor) (slice (m.outBytes.1) 0 (32 * i)) ∧
      (t.unitOf n b).run = none ∧ ((t.unitOf n b).slot m.r.slot).state = 5 ∧ ((t.unitOf n b).slot m.r.slot).cause = 5) ∧
  (∀ (s : State) (n b : Nat) (m : Micro) (flips : List (Nat × Nat)), n < 12288 → b < 24 → s.microAt n b 2 = some m →
      m.x.tableOff + m.r.index * m.x.rowLen + m.x.rowLen ≤ 65536 → m.r.slot < (s.unitOf n b).slots.length → ∃ t,
      exec (.microFetch n b true flips) s = .next t ∧ (t.unitOf n b).run = none ∧
      ((t.unitOf n b).slot m.r.slot).state = 5 ∧ ((t.unitOf n b).slot m.r.slot).cause = 5 ∧ t.mem = s.mem)

/-- BANK_COMMAND_START on a live unit without a running command takes the first queued core command, else the command
that yielded first, else the first queued one. A queued command whose fields are in order runs from its entry, else
it is refused with the cause of Table 7.2; one that yielded goes on where it stood. A host command that runs yields
to a waiting core command. RESERVED_MICRO_OP ends a command at a word that is not loaded, or at a reserved code,
with cause 0x07. HOST_COMMAND_TIMEOUT after 100 ms of running ends a host command with cause 0x08, and before that
changes nothing. MICRO_OP_TIMEOUT and BANK_UNIT_PARITY_FENCE fence the bank, with causes 0x4 and 0x3, and leave no
command running. Memory stays. -/
def Obligations.BankCommandsStartAndEnd : Prop :=
  (∀ (s : State) (n b i : Nat) (u : BankUnit) (idle : List Nat), n < 12288 → b < 24 → s.bankLive n b = true →
      u = s.unitOf n b → u.run = none → u.order.find? (fun i => decide (i < 6)) = some i ∨
      (u.order.find? (fun i => decide (i < 6)) = none ∧ u.yielded = [] ∧ u.order.head? = some i) → i < u.slots.length →
      s.slotCause (u.slot i) = 0 → ∃ t, exec (.bankCommandStart n b idle) s = .next t ∧
      (t.unitOf n b).run.map (fun r => (r.slot, r.pc, r.remaining, r.cursor)) = some (i, (u.slot i).entry,
        (u.slot i).countM1 + 1, (u.slot i).resultOff) ∧
      ((t.unitOf n b).slot i).state = 2 ∧ (t.unitOf n b).order = u.order.filter (fun k => decide (k ≠ i)) ∧
      (∀ k, k ≠ n * 32 + b → mapGet bankUnit0 t.bnk.units k = mapGet bankUnit0 s.bnk.units k) ∧ t.mem = s.mem ∧
      t.cores = s.cores) ∧
  (∀ (s : State) (n b i : Nat) (u : BankUnit) (idle : List Nat), n < 12288 → b < 24 → s.bankLive n b = true →
      u = s.unitOf n b → u.run = none → u.order.find? (fun i => decide (i < 6)) = some i ∨
      (u.order.find? (fun i => decide (i < 6)) = none ∧ u.yielded = [] ∧ u.order.head? = some i) → i < u.slots.length →
      s.slotCause (u.slot i) ≠ 0 → ∃ t, exec (.bankCommandStart n b idle) s = .next t ∧ (t.unitOf n b).run = none ∧
      ((t.unitOf n b).slot i).state = causeState (s.slotCause (u.slot i)) ∧
      ((t.unitOf n b).slot i).cause = s.slotCause (u.slot i) ∧ t.bnk.refused = satAdd 16 s.bnk.refused 1 ∧
      t.mem = s.mem) ∧
  (∀ (s : State) (n b : Nat) (u : BankUnit) (r : BankRun) (rest : List BankRun) (idle : List Nat), n < 12288 → b < 24 →
      s.bankLive n b = true → u = s.unitOf n b → u.run = none → u.order.find? (fun i => decide (i < 6)) = none →
      u.yielded = r :: rest → ∃ t, exec (.bankCommandStart n b idle) s = .next t ∧
      (t.unitOf n b).run = some { r with sinceTc := s.frm.tc } ∧ (t.unitOf n b).yielded = rest ∧
      (t.unitOf n b).slots = u.slots ∧
      (∀ k, k ≠ n * 32 + b → mapGet bankUnit0 t.bnk.units k = mapGet bankUnit0 s.bnk.units k) ∧ t.mem = s.mem ∧
      t.cores = s.cores) ∧
  (∀ (s : State) (n b i : Nat) (u : BankUnit) (r : BankRun) (idle : List Nat), n < 12288 → b < 24 →
      s.bankLive n b = true → u = s.unitOf n b → u.run = some r → 6 ≤ r.slot →
      u.order.find? (fun i => decide (i < 6)) = some i → i < u.slots.length → s.slotCause (u.slot i) = 0 → ∃ t,
      exec (.bankCommandStart n b idle) s = .next t ∧ (t.unitOf n b).run.map (fun r => r.slot) = some i ∧
      (t.unitOf n b).yielded = u.yielded ++ [{ r with ranTc := r.ranTc + (s.frm.tc - r.sinceTc) }] ∧
      (∀ k, k ≠ n * 32 + b → mapGet bankUnit0 t.bnk.units k = mapGet bankUnit0 s.bnk.units k) ∧ t.mem = s.mem ∧
      t.cores = s.cores) ∧
  (∀ (s : State) (n b : Nat) (r : BankRun), n < 12288 → b < 24 → s.microRun n b = some r → s.microWord r.pc = none ∨
      ((s.microWord r.pc).any (fun w => decide (field w 27 5 = 0 ∨ 0x0B < field w 27 5)) = true) →
      r.slot < (s.unitOf n b).slots.length → ∃ t, exec (.reservedMicroOp n b) s = .next t ∧ (t.unitOf n b).run = none ∧
      ((t.unitOf n b).slot r.slot).state = 4 ∧ ((t.unitOf n b).slot r.slot).cause = 7 ∧ t.mem = s.mem) ∧
  (∀ (s : State) (n b : Nat) (r : BankRun), n < 12288 → b < 24 → s.bankLive n b = true → (s.unitOf n b).run = some r →
      r.slot < (s.unitOf n b).slots.length → 6 ≤ r.slot → 100000000 ≤ r.ranTc + (s.frm.tc - r.sinceTc) → ∃ t,
      exec (.hostCommandTimeout n b) s = .next t ∧ (t.unitOf n b).run = none ∧ ((t.unitOf n b).slot r.slot).state = 5 ∧
      ((t.unitOf n b).slot r.slot).cause = 8 ∧ t.mem = s.mem) ∧
  (∀ (s : State) (n b : Nat) (r : BankRun), n < 12288 → b < 24 → (s.unitOf n b).run = some r → r.slot < 6 ∨
      r.ranTc + (s.frm.tc - r.sinceTc) < 100000000 → exec (.hostCommandTimeout n b) s = .next s) ∧
  (∀ (s : State) (n b : Nat) (r : BankRun), n < 12288 → b < 24 → s.bankLive n b = true → (s.unitOf n b).run = some r →
      r.slot < 8 → ((s.unitOf n b).slot r.slot).free = false → ∃ t, exec (.microOpTimeout n b) s = .next t ∧
      t.bankFenced n b = true ∧ (t.fence n).tileCause = 4 ∧ (t.unitOf n b).run = none ∧ t.mem = s.mem) ∧
  (∀ (s : State) (n b : Nat), n < 12288 → b < 24 → s.bankLive n b = true → (s.unitOf n b).parityDue = true →
      ((s.unitOf n b).run.all (fun r => decide (r.slot < 8) && !((s.unitOf n b).slot r.slot).free)) = true → ∃ t,
      exec (.bankUnitParityFence n b) s = .next t ∧ t.bankFenced n b = true ∧ (t.fence n).tileCause = 3 ∧
      (t.unitOf n b).run = none ∧ t.mem = s.mem)

/-- In a live tile: a refresh that falls due while a stream is served and fewer than 4 are owed is postponed, else the
bank is refreshed, its rows are closed and it owes none; a bank that has been idle has repaid first what it owed. A
scrub run that is due reads the 64 words of its row and moves on to the next run; over clean words it changes no
byte of data; of a fenced bank it reads nothing, and while it is not due nothing changes. The threshold event is
raised once in a window. A stalled sash retrains; when that ends well the tile serves what it holds, when it fails
the tile is fenced with cause 0x5. A bank that does not answer is fenced with cause 0x4, a tile with four parity
errors in a second with cause 0x3; what waits at the tile is answered. TILE_TEMP_SAMPLE above 95 °C makes the tile
throttled. PAGE_WALK_DONE counts the walk, puts the page-table word read in front of the look-aside entries and lets
the pieces go on, or faults them where the word cannot be read; where there is no such walk, or its tile retrains,
nothing changes. -/
def Obligations.MemoryUpkeep : Prop :=
  (∀ (s : State) (n b : Nat), n < 12288 → b < 24 → s.tileLive n = true → s.bankFenced n b = false →
      mapGet 0 s.mem.owed (n * 32 + b) < 4 → ∃ t, exec (.bankRefreshDue n b true false) s = .next t ∧
      mapGet 0 t.mem.owed (n * 32 + b) = mapGet 0 s.mem.owed (n * 32 + b) + 1 ∧
      (t.tileRec n).maxOwed = max (s.tileRec n).maxOwed (mapGet 0 s.mem.owed (n * 32 + b) + 1) ∧
      t = { s with mem := { s.mem with owed := t.mem.owed, tiles := t.mem.tiles } }) ∧
  (∀ (s : State) (n b : Nat) (serving idled : Bool), n < 12288 → b < 24 → s.tileLive n = true → s.bankFenced n b = false →
      serving = false ∨ (idled = false ∧ 4 ≤ mapGet 0 s.mem.owed (n * 32 + b)) → ∃ t,
      exec (.bankRefreshDue n b serving idled) s = .next t ∧ mapGet 0 t.mem.owed (n * 32 + b) = 0 ∧
      (∀ j, j < 4 → mapGet 0 t.mem.openRows ((n * 32 + b) * 4 + j) = 0) ∧
      t = { s with mem := { s.mem with owed := t.mem.owed, openRows := t.mem.openRows } }) ∧
  (∀ (s : State) (n b : Nat), n < 12288 → b < 24 → s.tileLive n = true → s.bankFenced n b = false → ∃ t,
      exec (.bankRefreshDue n b true true) s = .next t ∧ mapGet 0 t.mem.owed (n * 32 + b) = 1 ∧
      (∀ j, j < 4 → mapGet 0 t.mem.openRows ((n * 32 + b) * 4 + j) = 0) ∧
      (t.tileRec n).maxOwed = max (s.tileRec n).maxOwed 1 ∧
      t = { s with mem := { s.mem with owed := t.mem.owed, openRows := t.mem.openRows, tiles := t.mem.tiles } }) ∧
  (∀ (s : State) (n b : Nat) (serving idled : Bool), n < 12288 → b < 24 → s.tileLive n = false ∨ s.bankFenced n b = true →
      exec (.bankRefreshDue n b serving idled) s = .next s) ∧
  (∀ (s : State) (n : Nat) (fl ag : List (Nat × Nat)) (pa : List Nat), n < 12288 → s.scrubDue n = true →
      s.bankFenced n ((s.tileRec n).run / 1024) = false → fl.all (fun f => decide (f.1 < 2304)) = true →
      ag.all (fun f => decide (f.1 < 2304)) = true → ∃ t, exec (.scrubRun n fl ag pa) s = .next t ∧
      t.mem.dram = ((List.range 64).foldl (fun x i => scrubWord n ((n * slotSize + (s.tileRec n).run / 1024 * bankData + (s.tileRec n).run % 1024 * 2048) + 32 * i) (pa.contains i) (flipsOf i ag) x) (openRow (n * slotSize + (s.tileRec n).run / 1024 * bankData + (s.tileRec n).run % 1024 * 2048) (flipSymbols (n * slotSize + (s.tileRec n).run / 1024 * bankData + (s.tileRec n).run % 1024 * 2048) fl s))).mem.dram ∧
      (t.tileRec n).run = (if (s.tileRec n).run + 1 < 24576 then (s.tileRec n).run + 1 else 0) ∧
      (t.tileRec n).scrubNext = s.frm.tc + s.scrubStep ∧ t.cores = s.cores) ∧
  (∀ (s : State) (n : Nat) (fl ag : List (Nat × Nat)) (pa : List Nat), n < 12288 → s.scrubDue n = true →
      s.bankFenced n ((s.tileRec n).run / 1024) = true → ∃ t, exec (.scrubRun n fl ag pa) s = .next t ∧
      (t.tileRec n).run = (if (s.tileRec n).run + 1 < 24576 then (s.tileRec n).run + 1 else 0) ∧
      t = { s with mem := { s.mem with tiles := t.mem.tiles } }) ∧
  (∀ (s : State) (n : Nat), n < 12288 → s.scrubDue n = true → s.bankFenced n ((s.tileRec n).run / 1024) = false →
      (List.range 64).all (fun i => match rsDecode (s.codeWord ((n * slotSize + (s.tileRec n).run / 1024 * bankData + (s.tileRec n).run % 1024 * 2048) + 32 * i)) with | .good _ => true | _ => false) = true →
      ∃ t, exec (.scrubRun n [] [] []) s = .next t ∧ t.mem.dram = s.mem.dram ∧ t.mem.check = s.mem.check ∧
      t.mem.corrected = s.mem.corrected ∧
      (t.tileRec n).run = (if (s.tileRec n).run + 1 < 24576 then (s.tileRec n).run + 1 else 0) ∧
      (t.tileRec n).passes = (if (s.tileRec n).run + 1 < 24576 then (s.tileRec n).passes else satAdd 32 (s.tileRec n).passes 1) ∧
      t.cores = s.cores) ∧
  (∀ (s : State) (n : Nat) (fl ag : List (Nat × Nat)) (pa : List Nat), n < 12288 → s.scrubDue n = false →
      exec (.scrubRun n fl ag pa) s = .next s) ∧
  (∀ (s : State) (n : Nat), n < 12288 → s.tileLive n = true →
      (s.tileRec n).window = s.frm.tc / (max 1 s.mem.ceWindow * 1000000000) → (s.tileRec n).windowRaised = false →
      s.mem.ceCount ≤ (s.tileRec n).windowCorrected → ∃ t, exec (.ceThreshold n) s = .next t ∧
      t = raise 0x0033 1 n [(s.tileRec n).windowCorrected] (setTile n (fun x => { x with windowRaised := true }) s) ∧
      (t.tileRec n).windowRaised = true ∧ exec (.ceThreshold n) t = .next t) ∧
  (∀ (s : State) (n : Nat), n < 12288 → s.tileLive n = true → (s.tileRec n).retraining = false →
      exec (.sashStallTimeout n) s = .next (setTile n (fun t => { t with retraining := true }) s)) ∧
  (∀ (s : State) (n : Nat), n < 12288 → s.tileLive n = true → (s.tileRec n).retraining = true → ∃ t,
      exec (.sashRetrainDone n true) s = .next t ∧
      t = serveHolds n anySpan (raise 0x0035 0 n [] (setTile n (fun x => { x with retraining := false }) s)) ∧
      ((s.tileRec n).holds = [] → (t.tileRec n).retraining = false) ∧
      ((s.tileRec n).holds = [] → (t.tileRec n).queue = (s.tileRec n).queue) ∧
      ((s.tileRec n).holds = [] → t.mem.dram = s.mem.dram)) ∧
  (∀ (s : State) (n : Nat), n < 12288 → s.tileLive n = true → (s.tileRec n).retraining = true → (s.tileRec n).holds = [] →
      ∃ t, exec (.sashRetrainDone n false) s = .next t ∧ (t.fence n).tile = true ∧ (t.fence n).tileCause = 5 ∧
      (t.tileRec n).queue = [] ∧ (t.tileRec n).retraining = false ∧ (∀ m, m ≠ n → t.fence m = s.fence m) ∧
      t.mem.dram = s.mem.dram) ∧
  (∀ (s : State) (n b : Nat), n < 12288 → b < 24 → s.bankLive n b = true → (s.tileRec n).holds = [] → ∃ t,
      exec (.bankAccessTimeout n b) s = .next t ∧ t.bankFenced n b = true ∧ (t.fence n).tileCause = 4 ∧
      (t.fence n).tile = (s.fence n).tile ∧
      (t.tileRec n).queue = (s.tileRec n).queue.filter (fun q => !inBank b q.addr q.len) ∧ t.mem.dram = s.mem.dram) ∧
  (∀ (s : State) (n : Nat), n < 12288 → s.tileLive n = true → (s.tileRec n).parityDue = true → (s.tileRec n).holds = [] →
      ∃ t, exec (.datapathParityFence n) s = .next t ∧ (t.fence n).tile = true ∧ (t.fence n).tileCause = 3 ∧
      (t.tileRec n).queue = [] ∧ t.mem.dram = s.mem.dram) ∧
  (∀ (s : State) (n : Nat), n < 12288 → s.tileLive n = true → 1520 < s.memTemp (regionOf n) → ∃ t,
      exec (.tileTempSample n) s = .next t ∧ (t.tileRec n).refresh = 2 ∧ (t.tileRec n).queue = (s.tileRec n).queue ∧
      (∀ m, m ≠ n → t.tileRec m = s.tileRec m) ∧ t.mem.dram = s.mem.dram ∧ t.clk = s.clk) ∧
  (∀ (s s2 : State) (r lane word cyc : Nat) (parity : Bool) (flips : List (Nat × Nat)) (w : Walk) (b : List Nat),
      r < 512 → lane < 16 →
      (s.walkerOf r).walks.find? (fun x => decide (x.lane = lane) && decide (x.word = word) && x.started) = some w →
      s.powered = true →
      (s.tileRec (tileOf ((nth {} (s.walkerOf r).lanes lane).ptBase + 32 * word))).retraining = false →
      readBytes (walkerWho r) parity ((nth {} (s.walkerOf r).lanes lane).ptBase + 32 * word) 32 (flipSymbols ((nth {} (s.walkerOf r).lanes lane).ptBase + 32 * word) flips (setWalker r (fun x => { x with walks := startWalks (x.walks.filter (fun y => !(decide (y.lane = lane) && decide (y.word = word)))), ctr := { x.ctr with misses := satAdd 32 x.ctr.misses 1, cycles := satAdd 32 x.ctr.cycles cyc } }) s)) = (.data b,
        s2) →
      exec (.pageWalkDone r lane word cyc parity flips) s = .next
        (resumePieces w.pieces (setWalker r (fun x => { x with looks := (touchLook { lane := lane, word := word, entries := (List.range 16).map (fun j => leAt b (2 * j) 2) } x.looks).take 128 }) s2))) ∧
  (∀ (s s2 : State) (r lane word cyc : Nat) (parity : Bool) (flips : List (Nat × Nat)) (w : Walk) (c : Nat), r < 512 →
      lane < 16 →
      (s.walkerOf r).walks.find? (fun x => decide (x.lane = lane) && decide (x.word = word) && x.started) = some w →
      s.powered = true →
      (s.tileRec (tileOf ((nth {} (s.walkerOf r).lanes lane).ptBase + 32 * word))).retraining = false →
      readBytes (walkerWho r) parity ((nth {} (s.walkerOf r).lanes lane).ptBase + 32 * word) 32 (flipSymbols ((nth {} (s.walkerOf r).lanes lane).ptBase + 32 * word) flips (setWalker r (fun x => { x with walks := startWalks (x.walks.filter (fun y => !(decide (y.lane = lane) && decide (y.word = word)))), ctr := { x.ctr with misses := satAdd 32 x.ctr.misses 1, cycles := satAdd 32 x.ctr.cycles cyc } }) s)) = (.error c,
        s2) →
      exec (.pageWalkDone r lane word cyc parity flips) s = .next (failPieces (if c = 4 then 3 else 2) w.pieces s2)) ∧
  (∀ (s : State) (r lane word cyc : Nat) (parity : Bool) (flips : List (Nat × Nat)), r < 512 → lane < 16 →
      (s.walkerOf r).walks.find? (fun x => decide (x.lane = lane) && decide (x.word = word) && x.started) = none ∨
      (s.tileRec (tileOf ((nth {} (s.walkerOf r).lanes lane).ptBase + 32 * word))).retraining = true →
      exec (.pageWalkDone r lane word cyc parity flips) s = .next s)

/-- While BAR2 decodes, BAR2_READ answers with the bytes of memory at HIF.BAR2_BASE plus the offset, or with Completer
Abort at a bus error, and BAR2_WRITE of whole code words stores its bytes there and changes no other byte; a narrow
write is discarded and counted. While it does not decode, a read is answered as unsupported and nothing is written.
MEMRD and MEMRDDATA of a window that is not device-owned answer with its 64 bytes, or with poison at a bus error,
MEMWR stores 64 bytes and MEMWRPTL the halves enabled whole. In a device-owned window a read returns poison, and a
write, also one during the hand-over to the device, is discarded and counted. A tile whose sash retrains holds the
request. In HALTED a read returns poison and a write is discarded, and outside every window nothing changes.
MEMSPECRD changes nothing. A poisoned write changes no memory. -/
def Obligations.HostReachesMemory : Prop :=
  (∀ (s : State) (off len : Nat) (fl : List (Nat × Nat)) (pa : Bool), 0 < len → len ≤ 4096 → off + len ≤ 2 ^ 36 →
      s.keeperUp = true → s.bar2Live = false → ∃ t, exec (.bar2Read off len fl pa) s = .next t ∧
      t = emit .unsupportedRequest (bar2Unsupported 0 off len s) ∧ t.hif.unsupported = satAdd 12 s.hif.unsupported 1 ∧
      t.hif.errKind = 4 ∧ t.hif.errAddr = off % 2 ^ 40 ∧ t.mem = s.mem) ∧
  (∀ (s : State) (off : Nat) (bytes : List Nat) (en pa : Bool), 0 < bytes.length → bytes.length ≤ 4096 →
      off + bytes.length ≤ 2 ^ 36 → s.keeperUp = true → s.bar2Live = false →
      exec (.bar2Write off bytes en pa) s = .next (bar2Unsupported 1 off bytes.length s)) ∧
  (∀ (s s2 : State) (off len : Nat) (d : List Nat) (fl : List (Nat × Nat)) (pa : Bool), 0 < len → len ≤ 4096 →
      off + len ≤ 2 ^ 36 → s.bar2Live = true → s.tileHolds (s.bar2Addr off) = false →
      readBytes { code := 3, source := 0, unit := some hostEndpoint } pa (s.bar2Addr off) len (flipSymbols (s.bar2Addr off) fl s) = (.data d,
        s2) →
      exec (.bar2Read off len fl pa) s = .next (emit (.data d) s2)) ∧
  (∀ (s : State) (off len : Nat) (pa : Bool), 0 < len → len ≤ 4096 → off + len ≤ 2 ^ 36 → s.bar2Live = true →
      s.tileHolds (s.bar2Addr off) = false → ∃ t, exec (.bar2Read off len [] pa) s = .next t ∧ t.mem.dram = s.mem.dram ∧
      t.mem.check = s.mem.check ∧ t.cores = s.cores) ∧
  (∀ (s s2 : State) (off len c : Nat) (fl : List (Nat × Nat)) (pa : Bool), 0 < len → len ≤ 4096 → off + len ≤ 2 ^ 36 →
      s.bar2Live = true → s.tileHolds (s.bar2Addr off) = false →
      readBytes { code := 3, source := 0, unit := some hostEndpoint } pa (s.bar2Addr off) len (flipSymbols (s.bar2Addr off) fl s) = (.error c,
        s2) →
      exec (.bar2Read off len fl pa) s = .next (bar2Abort (s.bar2Addr off) len s2)) ∧
  (∀ (s : State) (off : Nat) (bytes : List Nat), 0 < bytes.length → bytes.length ≤ 4096 → off + bytes.length ≤ 2 ^ 36 →
      s.bar2Live = true → off % 32 = 0 → bytes.length % 32 = 0 → s.tileHolds (s.bar2Addr off) = false →
      s.mem.dpBad = [] → s.lockedIn (s.bar2Addr off) (bytes.length / 32) = false →
      s.blockedIn (s.bar2Addr off) (bytes.length / 32) = none → ∃ t,
      exec (.bar2Write off bytes true false) s = .next t ∧ t.mem.dram = memPutBytes s.mem.dram (s.bar2Addr off) bytes ∧
      t.out = s.out ∧ t.hif = s.hif ∧ t.cores = s.cores ∧ t.evt = s.evt) ∧
  (∀ (s : State) (off : Nat) (bytes : List Nat) (en pa : Bool), 0 < bytes.length → bytes.length ≤ 4096 →
      off + bytes.length ≤ 2 ^ 36 → s.bar2Live = true → off % 32 ≠ 0 ∨ bytes.length % 32 ≠ 0 ∨ en = false →
      s.lockedSpan (s.bar2Addr off) bytes.length = false → ∃ t, exec (.bar2Write off bytes en pa) s = .next t ∧
      t = narrowWrite 3 0 (s.bar2Addr off) s ∧ t.mem.dram = s.mem.dram ∧
      t.mem.narrowCount = satAdd 32 s.mem.narrowCount 1 ∧ t.mem.narrowEntrance = 3 ∧
      t.mem.narrowAddr = (s.bar2Addr off) % 2 ^ 40) ∧
  (∀ (s : State) (off len : Nat) (fl : List (Nat × Nat)) (pa : Bool), 0 < len → len ≤ 4096 → off + len ≤ 2 ^ 36 →
      s.bar2Live = true → s.tileHolds (s.bar2Addr off) = true →
      exec (.bar2Read off len fl pa) s = .next
        (holdRequest (s.bar2Addr off) (.bar2Read (s.bar2Addr off) len pa) (flipSymbols (s.bar2Addr off) fl s))) ∧
  (∀ (s s2 : State) (i hpa : Nat) (d : List Nat) (fl : List (Nat × Nat)) (pa : Bool), s.kpr.state ≠ .halted →
      s.winAt (hpa / 64 * 64) = some i → (s.window i).deviceOwned = false →
      s.tileHolds (s.winAddr i (hpa / 64 * 64)) = false →
      readBytes { code := 4, source := 0, unit := some hostEndpoint } pa (s.winAddr i (hpa / 64 * 64)) 64 (flipSymbols (s.winAddr i (hpa / 64 * 64)) fl s) = (.data d,
        s2) →
      exec (.memrd hpa fl pa) s = .next (emit (.data d) s2) ∧ exec (.memrddata hpa fl pa) s = .next (emit (.data d) s2)) ∧
  (∀ (s s2 : State) (i hpa c : Nat) (fl : List (Nat × Nat)) (pa : Bool), s.kpr.state ≠ .halted →
      s.winAt (hpa / 64 * 64) = some i → (s.window i).deviceOwned = false →
      s.tileHolds (s.winAddr i (hpa / 64 * 64)) = false →
      readBytes { code := 4, source := 0, unit := some hostEndpoint } pa (s.winAddr i (hpa / 64 * 64)) 64 (flipSymbols (s.winAddr i (hpa / 64 * 64)) fl s) = (.error c,
        s2) →
      exec (.memrd hpa fl pa) s = .next (emit .poison s2) ∧ exec (.memrddata hpa fl pa) s = .next (emit .poison s2)) ∧
  (∀ (s : State) (i hpa : Nat) (pa : Bool), s.kpr.state ≠ .halted → s.winAt (hpa / 64 * 64) = some i →
      (s.window i).deviceOwned = true →
      exec (.memrd hpa [] pa) s = .next (ownedRead i (s.winAddr i (hpa / 64 * 64)) s) ∧
      exec (.memrddata hpa [] pa) s = .next (ownedRead i (s.winAddr i (hpa / 64 * 64)) s)) ∧
  (∀ (s : State) (i hpa : Nat), s.kpr.state ≠ .halted → s.winAt (hpa / 64 * 64) = some i →
      (s.window i).deviceOwned = true → ∃ t, exec (.memrd hpa [] false) s = .next t ∧ t.out = .poison :: s.out ∧
      t.hif.poisonReturned = satAdd 12 s.hif.poisonReturned 1 ∧ t.hif.errKind = 2 ∧ t.hif.errWindow = i ∧ t.mem = s.mem) ∧
  (∀ (s : State) (i hpa : Nat) (bytes : List Nat), s.kpr.state ≠ .halted → s.winAt (hpa / 64 * 64) = some i →
      (s.window i).owner = 0 → bytes.length = 64 → s.tileHolds (s.winAddr i (hpa / 64 * 64)) = false →
      s.mem.dpBad = [] → s.lockedIn (s.winAddr i (hpa / 64 * 64)) 2 = false →
      s.blockedIn (s.winAddr i (hpa / 64 * 64)) 2 = none → ∃ t, exec (.memwr hpa bytes false false) s = .next t ∧
      t.mem.dram = memPutBytes s.mem.dram (s.winAddr i (hpa / 64 * 64)) bytes ∧ t.out = .done :: s.out ∧ t.hif = s.hif ∧
      t.cores = s.cores) ∧
  (∀ (s : State) (i hpa : Nat) (bytes : List Nat) (po pa : Bool), s.kpr.state ≠ .halted →
      s.winAt (hpa / 64 * 64) = some i → (s.window i).deviceOwned = true ∨ (s.window i).owner = 2 → ∃ t,
      exec (.memwr hpa bytes po pa) s = .next t ∧ t = ownedWrite i (s.winAddr i (hpa / 64 * 64)) s ∧ t.mem = s.mem ∧
      t.out.head? = some .done ∧ t.hif.ownedDiscards = satAdd 12 s.hif.ownedDiscards 1 ∧ t.hif.errKind = 1) ∧
  (∀ (s : State) (i hpa mask : Nat) (bytes : List Nat) (po pa : Bool), s.kpr.state ≠ .halted →
      s.winAt (hpa / 64 * 64) = some i → (s.window i).deviceOwned = true ∨ (s.window i).owner = 2 →
      exec (.memwrptl hpa bytes mask po pa) s = .next (ownedWrite i (s.winAddr i (hpa / 64 * 64)) s)) ∧
  (∀ (s : State) (i hpa : Nat) (bytes : List Nat), s.kpr.state ≠ .halted → s.winAt (hpa / 64 * 64) = some i →
      (s.window i).owner = 0 → bytes.length = 64 → s.tileHolds (s.winAddr i (hpa / 64 * 64)) = false →
      s.mem.dpBad = [] → s.lockedIn ((s.winAddr i (hpa / 64 * 64)) + 32) 1 = false →
      s.blockedIn ((s.winAddr i (hpa / 64 * 64)) + 32) 1 = none → ∃ t,
      exec (.memwrptl hpa bytes (2 ^ 64 - 2 ^ 32) false false) s = .next t ∧
      t.mem.dram = memPutBytes s.mem.dram ((s.winAddr i (hpa / 64 * 64)) + 32) (bytes.drop 32) ∧
      t.out = .done :: s.out ∧ t.cores = s.cores) ∧
  (∀ (s : State) (i hpa mask : Nat) (bytes : List Nat) (pa : Bool), s.kpr.state ≠ .halted →
      s.winAt (hpa / 64 * 64) = some i → (s.window i).owner = 0 →
      enabledHalves bytes mask (s.winAddr i (hpa / 64 * 64)) = none →
      s.lockedSpan (s.winAddr i (hpa / 64 * 64)) 64 = false →
      exec (.memwrptl hpa bytes mask false pa) s = .next (emit .done (narrowWrite 4 0 (s.winAddr i (hpa / 64 * 64)) s))) ∧
  (∀ (s : State) (i hpa : Nat) (bytes : List Nat) (mask : Nat) (pa : Bool), s.kpr.state ≠ .halted →
      s.winAt (hpa / 64 * 64) = some i → (s.window i).owner = 0 →
      exec (.memwr hpa bytes true pa) s = .next (emit .done (poisonedWrite (s.winAddr i (hpa / 64 * 64)) s)) ∧
      exec (.memwrptl hpa bytes mask true pa) s = .next (emit .done (poisonedWrite (s.winAddr i (hpa / 64 * 64)) s))) ∧
  (∀ (s : State) (hpa mask : Nat) (bytes : List Nat) (fl : List (Nat × Nat)) (po pa : Bool), s.kpr.state ≠ .halted →
      s.winAt (hpa / 64 * 64) = none → exec (.memrd hpa fl pa) s = .next s ∧ exec (.memrddata hpa fl pa) s = .next s ∧
      exec (.memwr hpa bytes po pa) s = .next s ∧ exec (.memwrptl hpa bytes mask po pa) s = .next s) ∧
  (∀ (s : State) (hpa mask : Nat) (bytes : List Nat) (fl : List (Nat × Nat)) (po pa : Bool), s.kpr.state = .halted →
      exec (.memrd hpa fl pa) s = .next (emit .poison s) ∧ exec (.memrddata hpa fl pa) s = .next (emit .poison s) ∧
      exec (.memwr hpa bytes po pa) s = .next (emit .done s) ∧
      exec (.memwrptl hpa bytes mask po pa) s = .next (emit .done s)) ∧
  (∀ (s : State) (hpa : Nat), exec (.memspecrd hpa) s = .next s) ∧
  (∀ (s : State) (bar off : Nat), bar = 0 ∧ off < 2 ^ 24 ∨ bar = 2 ∧ off < 2 ^ 36 ∨ bar = 4 ∧ off < 2 ^ 20 →
      s.powered = true → s.hostUp = true → ∃ t, exec (.poisonedTlp bar off) s = .next t ∧
      t.hif.aer.status = s.hif.aer.status ||| 2 ^ aerPoisoned ∧ t.hif.poisonedIn = satAdd 16 s.hif.poisonedIn 1 ∧
      t.hif.errKind = 5 ∧ t.mem = s.mem ∧ t.cores = s.cores)

/-- HDM_DECODER_COMMIT of a permitted, aligned range that meets no other window commits it as host-owned; any other
range only sets its error; a committed decoder stays. HDM_DECODER_UNCOMMIT ends a window that is not locked, and of
another changes nothing. HANDOVER_COMPLETE ends a hand-over and counts it; without one it changes nothing.
PCIE_LINK_UP records speed, width and mode, and sets Mem_Active where its conditions hold. D3HOT_ENTRY and
D0_RETURN, and Bus Master Enable falling, change their bit alone. Raising Bus Master Enable with nothing held
changes its bit alone. Nothing else changes in any of them. -/
def Obligations.WindowsAndLinkStates : Prop :=
  (∀ (s : State) (i hpa dpa size ways : Nat) (lock : Bool), i < 4 → hpa < 2 ^ 64 → dpa < 2 ^ 64 → size < 2 ^ 64 →
      s.powered = true → (s.window i).committed = false → s.canCommit i dpa size ways = true →
      exec (.hdmDecoderCommit i hpa dpa size ways lock) s = .next
        (setWin i (fun w => { w with committed := true, owner := 0, hpa := hpa, dpa := dpa, size := size, error := false, lock := lock }) s)) ∧
  (∀ (s : State) (i hpa dpa size ways : Nat) (lock : Bool), i < 4 → hpa < 2 ^ 64 → dpa < 2 ^ 64 → size < 2 ^ 64 →
      s.powered = true → (s.window i).committed = false → s.canCommit i dpa size ways = false →
      exec (.hdmDecoderCommit i hpa dpa size ways lock) s = .next (setWin i (fun w => { w with error := true }) s)) ∧
  (∀ (s : State) (i hpa dpa size ways : Nat) (lock : Bool), i < 4 → (s.window i).committed = true →
      exec (.hdmDecoderCommit i hpa dpa size ways lock) s = .next s) ∧
  (∀ (s : State) (i : Nat), i < 4 → s.powered = true → (s.window i).committed = true → (s.window i).lock = false →
      exec (.hdmDecoderUncommit i) s = .next
        (setWin i (fun w => { w with committed := false, owner := 0, hpa := 0, dpa := 0, size := 0 }) s)) ∧
  (∀ (s : State) (i : Nat), i < 4 → (s.window i).lock = true ∨ (s.window i).committed = false →
      exec (.hdmDecoderUncommit i) s = .next s) ∧
  (∀ (s : State) (i : Nat), i < 4 → s.powered = true → (s.window i).committed = true → (s.window i).owner = 2 ∨
      (s.window i).owner = 3 →
      exec (.handoverComplete i) s = .next
        (setWin i (fun w => { w with owner := if (s.window i).owner = 2 then 1 else 0, handovers := satAdd 16 w.handovers 1 }) s)) ∧
  (∀ (s : State) (i : Nat), i < 4 → (s.window i).committed = false ∨ (s.window i).owner < 2 →
      exec (.handoverComplete i) s = .next s) ∧
  (∀ (s : State) (i : Nat) (f : Win → Win), s.hif.win.length = 4 → i < 4 →
      ((setWin i f s).window i = f (s.window i) ∧ (∀ j, j ≠ i → (setWin i f s).window j = s.window j) ∧
        setWin i f s = { s with hif := { s.hif with win := (setWin i f s).hif.win } })) ∧
  (∀ (s : State) (v w m : Nat), 1 ≤ v → v ≤ 6 → w ∈ [1, 2, 4, 8, 16] → m < 4 → (v = 6) ↔ (m = 1 ∨ m = 3) →
      s.kpr.railsUp = true → s.kpr.boot = .romRuns →
      exec (.pcieLinkUp v w m) s = .next
        { s with hif := { s.hif with linkUp := true, speed := v, width := w, mode := m, memActive := s.hif.memActive || (decide (2 ≤ m) && s.kpr.features.cxlMem && s.mem.ready) } }) ∧
  (∀ (s : State), s.powered = true → exec .d3hotEntry s = .next { s with hif := { s.hif with d3hot := true } } ∧
      exec .d0Return s = .next { s with hif := { s.hif with d3hot := false } } ∧
      exec (.busMasterEnableChange false) s = .next { s with hif := { s.hif with bme := false } }) ∧
  (∀ (s : State), s.powered = true → s.hif.pba = 0 → s.evt.hold = [] → s.req.qp = [] → ∃ t,
      exec (.busMasterEnableChange true) s = .next t ∧ t.hif = { s.hif with bme := true } ∧ t.hostMem = s.hostMem ∧
      t.out = s.out ∧ t.req = s.req ∧ t.mem = s.mem ∧ t.cores = s.cores ∧ t.frm = s.frm) ∧
  (∀ (s : State) (on : Bool), s.powered = false → exec .d3hotEntry s = .next s ∧ exec .d0Return s = .next s ∧
      exec (.busMasterEnableChange on) s = .next s)

/-- For every command c and state s: where exec answers next t, the floor of t's protection block is at least that of s.
A change whose new floor is below the floor in force is refused: PRT_COMMAND_DONE leaves the block as it is and,
where the host can be read, ends with a result other than 2. A change that is committed puts its new floor in force,
whatever firmware runs, and leaves the keeper and its firmware as they are. A firmware file whose version is below
the floor in force never verifies. -/
def Obligations.TheFloorNeverFalls : Prop :=
  (∀ (c : Instr) (s t : State), exec c s = .next t → s.floor ≤ t.floor) ∧
    (∀ (pkg : List Nat) (readsOk sigA sigB storeOk : Bool) (s : State), s.prt.running = 2 →
      leAt (slice (toBytes pkg) 32 16384) 12 4 < s.floor →
      ∃ t, exec (.prtCommandDone readsOk pkg sigA sigB storeOk) s = .next t ∧ t.prt.block = s.prt.block ∧
        (s.hif.bme = true → s.kpr.state ≠ .halted → t.prt.result ≠ 2)) ∧
    (∀ (pkg : List Nat) (s : State), s.prt.running = 2 → s.hif.bme = true →
      s.kpr.state ≠ .halted → packageResult true (toBytes pkg) true true true s = 2 →
      ∃ t, exec (.prtCommandDone true pkg true true true) s = .next t ∧
        t.floor = leAt (slice (toBytes pkg) 32 16384) 12 4 ∧ t.kpr = s.kpr) ∧
    (∀ (r : FetchResult) (s : State), leAt r.file 8 4 < s.floor → firmwareResult r s ≠ 2)

/-- For every command c and state s: where exec answers next t, DEV.STATE of t is that of s, or a state that Table 17.2
lets follow it: ROM after a reset, HALTED after a fatal condition, STAGING after ROM, READY after STAGING, CHECKING
or SUSPENDED, CHECKING after READY or SUSPENDED, RUNNING after CHECKING, SUSPENDED after RUNNING or CHECKING. -/
def Obligations.StatesFollowTheTable : Prop :=
  ∀ (c : Instr) (s t : State), exec c s = .next t → s.kpr.state.mayFollow t.kpr.state = true

/-- NONCE_REQUEST in READY or SUSPENDED with no PRT command running shows a nonce of 32 bytes, which the model leaves
free, and result 2. PROTECTION_CHANGE there, and DEBUG_UNLOCK in READY, start: result 1. While one runs, elsewhere,
and for DEBUG_UNLOCK in SUSPENDED, the write is refused with 0x0120. PRT_COMMAND_DONE ends a running command: the
nonce is used up, the result is that of Table 18.8 and event 0x0006 reports it. A failed package changes neither the
block nor the unlock, a committed change is the new block, counts one and ends an unlock that it no longer allows,
and an unlock opens its scope. With none running, in HALTED, or while Bus Master Enable is 0, it changes nothing.
Nothing else changes in any of them. -/
def Obligations.ProtectionCommandsAct : Prop :=
  (∀ (s : State), s.hostUp = true → s.prtOpen = true →
      exec .nonceRequest s = .next
        (useFresh { s with prt := { s.prt with op := 1, nonce := some (entropy 32 s), result := 2 } })) ∧
  (∀ (s : State), s.hostUp = true → s.prtOpen = true →
      exec .protectionChange s = .next { s with prt := { s.prt with op := 2, result := 1, running := 2 } }) ∧
  (∀ (s : State), s.hostUp = true → s.kpr.state = .ready → s.prt.result ≠ 1 →
      exec .debugUnlock s = .next { s with prt := { s.prt with op := 3, result := 1, running := 3 } }) ∧
  (∀ (s : State), s.hostUp = true → s.kpr.state ≠ .ready ∨ s.prt.result = 1 →
      exec .debugUnlock s = .next (refuse 0xA00008 (2 ^ 63 + 3) 0x0120 s)) ∧
  (∀ (s : State), s.hostUp = true → s.prtOpen = false →
      exec .nonceRequest s = .next (refuse 0xA00008 (2 ^ 63 + 1) 0x0120 s) ∧
      exec .protectionChange s = .next (refuse 0xA00008 (2 ^ 63 + 2) 0x0120 s)) ∧
  (∀ (readsOk sigA sigB storeOk : Bool) (pkg : List Nat) (s : State), s.prt.running ≠ 0 → s.hif.bme = true →
      s.kpr.state ≠ .halted → packageResult readsOk (toBytes pkg) sigA sigB storeOk s ≠ 2 →
      exec (.prtCommandDone readsOk pkg sigA sigB storeOk) s = .next (raise 0x0006 1 noUnit [s.prt.running,
        packageResult readsOk (toBytes pkg) sigA sigB storeOk s] { s with prt := { s.prt with result := packageResult readsOk (toBytes pkg) sigA sigB storeOk s, running := 0, nonce := none } })) ∧
  (∀ (sigA sigB storeOk : Bool) (pkg : List Nat) (s : State), s.prt.running = 3 → s.hif.bme = true →
      s.kpr.state ≠ .halted → packageResult true (toBytes pkg) sigA sigB storeOk s = 2 →
      exec (.prtCommandDone true pkg sigA sigB storeOk) s = .next (raise 0x0006 0 noUnit [3,
        2] { s with prt := { s.prt with scope := leAt (toBytes pkg) 40 1, result := 2, running := 0, nonce := none } })) ∧
  -- K
  (∀ (sigA sigB storeOk : Bool) (pkg : List Nat) (s : State), s.prt.running = 2 → s.hif.bme = true →
      s.kpr.state ≠ .halted → packageResult true (toBytes pkg) sigA sigB storeOk s = 2 →
      exec (.prtCommandDone true pkg sigA sigB storeOk) s = .next (raise 0x0006 0 noUnit [2,
        2] { s with prt := { s.prt with block := memPutBytes [] 0 (slice (toBytes pkg) 32 16384), seqNo := s.prt.seqNo + 1, scope := if bit (leAt (slice (toBytes pkg) 32 16384) 16 1) 1 then s.prt.scope else 0, result := 2, running := 0, nonce := none } })) ∧
  (∀ (readsOk sigA sigB storeOk : Bool) (pkg : List Nat) (s : State), s.prt.running = 0 ∨ s.hif.bme = false ∨
      s.kpr.state = .halted → exec (.prtCommandDone readsOk pkg sigA sigB storeOk) s = .next s)

/-- In CXL mode with the link up each mailbox command answers and changes nothing but the outputs: the two identities
and logs with success, an opcode the mailbox does not serve with Unsupported; CLEAR_EVENT_RECORDS removes the
records named, or all, and changes nothing else; the bytes of GET_HEALTH_INFO are free values. Outside CXL mode none
of them changes anything. Each DOE and attestation request, with the link up and no error standing, leaves its
response in the mailbox and changes nothing else; without a link or with the error bit it changes nothing, and an
attestation request does nothing in HALTED. An object of another type or of more than 64 KiB, an entry that does not
exist, and CDAT outside CXL mode set the error bit; DOE_ABORT clears it. The payload layouts are presumed from the
PCIe and CXL specifications (log 16), so nothing is said here of the bytes of the mailbox. -/
def Obligations.MailboxAndDoe : Prop :=
  (∀ (s : State), s.mailboxLive = true → ∃ a b d f, exec .identifyMemoryDevice s = .next (emit (.mailbox 0 a) s) ∧
      exec .getSupportedLogs s = .next (emit (.mailbox 0 b) s) ∧
      exec .getEventRecords s = .next (emit (.mailbox 0 d) s) ∧
      exec .getHealthInfo s = .next (emit (.mailbox 0 f) (useFresh s)) ∧ a.length = 67 ∧ f.length = 18) ∧
  (∀ (s : State) (op : Nat), s.mailboxLive = true → op % 65536 ∉ mailboxOpcodes →
      exec (.unsupportedMailboxOpcode op) s = .next (emit (.mailbox 3 []) s)) ∧
  (∀ (s : State) (off len : Nat), s.mailboxLive = true →
      exec (.getLog off len) s = .next (emit (.mailbox 0 ((commandEffects.drop off).take len)) s)) ∧
  (∀ (s : State), s.mailboxLive = true →
      exec (.clearEventRecords []) s = .next (emit (.mailbox 0 []) { s with hif := { s.hif with cxlEvents := [] } })) ∧
  (∀ (s : State) (l : List Nat), s.mailboxLive = true → l ≠ [] →
      exec (.clearEventRecords l) s = .next
        (emit (.mailbox 0 []) { s with hif := { s.hif with cxlEvents := s.hif.cxlEvents.filter (fun h => !(l.map (fun x => x % 65536)).contains h) } })) ∧
  (∀ (s : State) (l : List Nat) (op off len : Nat), s.mailboxLive = false → op % 65536 ∉ mailboxOpcodes →
      exec .identifyMemoryDevice s = .next s ∧ exec .getSupportedLogs s = .next s ∧ exec .getEventRecords s = .next s ∧
      exec .getHealthInfo s = .next s ∧ exec (.clearEventRecords l) s = .next s ∧ exec (.getLog off len) s = .next s ∧
      exec (.unsupportedMailboxOpcode op) s = .next s) ∧
  (∀ (s : State) (i len : Nat), s.kpr.railsUp = true → s.hif.linkUp = true → s.hif.doeError = false →
      i < s.doeProtocols.length → i < 256 → len ≤ 65536 →
      exec (.doeDiscovery i 0 len) s = .next
        { emit (.doe (nth [] s.doeProtocols i ++ [if i + 1 < s.doeProtocols.length then i + 1 else 0])) s with hif := { s.hif with doeOut := nth [] s.doeProtocols i ++ [if i + 1 < s.doeProtocols.length then i + 1 else 0] } }) ∧
  (∀ (s : State) (i len : Nat), s.kpr.railsUp = true → s.hif.linkUp = true → s.hif.doeError = false → i < 256 →
      s.doeProtocols.length ≤ i → len ≤ 65536 →
      exec (.doeDiscovery i 0 len) s = .next
        { emit (.doe ([0xFF, 0xFF, 0, 0])) s with hif := { s.hif with doeOut := [0xFF, 0xFF, 0, 0] } }) ∧
  (∀ (s : State) (i len : Nat), s.kpr.railsUp = true → s.hif.linkUp = true → s.hif.doeError = false →
      i < cdatEntries.length → 2 ≤ s.hif.mode → len ≤ 65536 →
      exec (.cdatRead i 2 len) s = .next
        { emit (.doe ([0, 0] ++ leBytes 2 (if i + 1 < cdatEntries.length then i + 1 else 0xFFFF) ++ nth [] cdatEntries i)) s with hif := { s.hif with doeOut := [0, 0] ++ leBytes 2 (if i + 1 < cdatEntries.length then i + 1 else 0xFFFF) ++ nth [] cdatEntries i } }) ∧
  (∀ (s : State) (i ty len : Nat), s.kpr.railsUp = true → s.hif.linkUp = true → ty ≠ 0 ∨ 65536 < len →
      exec (.doeDiscovery i ty len) s = .next { s with hif := { s.hif with doeError := true, doeOut := [] } }) ∧
  (∀ (s : State) (i ty len : Nat), s.kpr.railsUp = true → s.hif.linkUp = true → s.hif.mode < 2 ∨ ty ≠ 2 ∨ 65536 < len ∨
      cdatEntries.length ≤ i →
      exec (.cdatRead i ty len) s = .next { s with hif := { s.hif with doeError := true, doeOut := [] } }) ∧
  (∀ (s : State), s.kpr.railsUp = true → s.hif.linkUp = true →
      exec .doeAbort s = .next { s with hif := { s.hif with doeBusy := false, doeError := false, doeOut := [] } }) ∧
  (∀ (s : State), s.kpr.railsUp = true → s.hif.linkUp = true → s.hif.doeError = false → s.kpr.state ≠ .halted →
      exec .getIdentity s = .next
        { emit (.doe ([0x81, 0, 0, 0] ++ s.identityRecord)) s with hif := { s.hif with doeOut := [0x81, 0, 0, 0] ++ s.identityRecord } } ∧
      exec .getProtection s = .next
        { emit (.doe ([0x84, 0, 0, 0] ++ s.block)) s with hif := { s.hif with doeOut := [0x84, 0, 0, 0] ++ s.block } }) ∧
  (∀ (s : State) (i : Nat), s.kpr.railsUp = true → s.hif.linkUp = true → s.hif.doeError = false → s.kpr.state ≠ .halted →
      i < 256 →
      exec (.getCert i) s = .next
        (if i < 3 then { emit (.doe ([0x82, 0, 0, 0] ++ (leBytes 4 (nth [] s.prt.certs i).length ++ nth [] s.prt.certs i))) s with hif := { s.hif with doeOut := [0x82, 0, 0, 0] ++ (leBytes 4 (nth [] s.prt.certs i).length ++ nth [] s.prt.certs i) } } else { emit (.doe ([0x82, 1, 0, 0] ++ [])) s with hif := { s.hif with doeOut := [0x82, 1, 0, 0] ++ [] } })) ∧
  (∀ (s : State) (l : List Nat), s.kpr.railsUp = true → s.hif.linkUp = true → s.hif.doeError = false →
      s.kpr.state ≠ .halted → s.prt.identity = false →
      exec (.getReport l) s = .next
        { emit (.doe ([0x83, 2, 0, 0] ++ [])) s with hif := { s.hif with doeOut := [0x83, 2, 0, 0] ++ [] } }) ∧
  (∀ (s : State) (l : List Nat), s.kpr.railsUp = true → s.hif.linkUp = true → s.hif.doeError = false →
      s.kpr.state ≠ .halted → l.length = 32 → l.all (fun b => decide (b < 256)) = true → s.prt.identity = true → ∃ t,
      exec (.getReport l) s = .next t ∧
      t = { emit (.doe t.hif.doeOut) (useFresh s) with hif := { s.hif with doeOut := t.hif.doeOut } } ∧
      t.hif.doeOut.take 4 = [0x83, 0, 0, 0] ∧ (t.hif.doeOut.drop 20).take 32 = l) ∧
  (∀ (s : State) (i len : Nat), s.kpr.railsUp = false ∨ s.hif.linkUp = false ∨ s.hif.doeError = true → len ≤ 65536 →
      i < cdatEntries.length → 2 ≤ s.hif.mode → exec (.doeDiscovery i 0 len) s = .next s ∧
      exec (.cdatRead i 2 len) s = .next s) ∧
  (∀ (s : State), s.kpr.railsUp = false ∨ s.hif.linkUp = false → exec .doeAbort s = .next s) ∧
  (∀ (s : State) (i : Nat) (l : List Nat), s.kpr.railsUp = false ∨ s.hif.linkUp = false ∨ s.hif.doeError = true ∨
      s.kpr.state = .halted → exec .getIdentity s = .next s ∧ exec (.getCert i) s = .next s ∧
      exec .getProtection s = .next s ∧
      exec (.getReport l) { s with prt := { s.prt with identity := false } } = .next
        { s with prt := { s.prt with identity := false } })

/-- LNK_DEVICE_WRITE in ROM and READY sets the ID and assigned, announces them on every trained link and judges the
master anew; it is refused with 0x0120 elsewhere, and with 0x0123 where a reserved bit is set. LNK_FWD_WRITE in
READY, RUNNING and SUSPENDED sets the link sets of two devices and nothing else, and is refused elsewhere.
QUIESCE_SET holds an empty link down in state quiesced, and one with flits in it only shows the bit; QUIESCE_CLEAR
of a quiesced link starts training, and of a link in another state clears the bit alone; a bit that has the value
already changes nothing. DATELINE_WRITE outside RUNNING sets the bit alone, and in RUNNING a change of it is refused
with 0x0120. RACC_READ and RACC_WRITE issue a request to the peer; without a route the access ends with UNREACHABLE,
without an own ID it waits; one under way refuses another. RACC_TIMEOUT after 100 µs ends it with status 8, and
before does nothing. A neighbour that announces an ID the link expects, or any where any is accepted, has the link
up; another, or none, has it in state wrong neighbour; on a link that is not trained nothing changes. -/
def Obligations.LinkRegisters : Prop :=
  (∀ (s : State) (v : Nat), s.hostUp = true → s.inStates [.rom, .ready] = true → v < 2 ^ 17 → ∃ t,
      exec (.lnkDeviceWrite v) s = .next t ∧
      t = judgeMaster (announce { s with lnk := { s.lnk with assigned := bit v 16, id := field v 0 16 } }) ∧
      t.lnk.assigned = bit v 16 ∧ t.lnk.id = v % 65536 ∧ t.lnk.fwd = s.lnk.fwd ∧ t.mem = s.mem ∧ t.cores = s.cores ∧
      t.kpr = s.kpr ∧ t.dev = s.dev ∧ t.req = s.req) ∧
  (∀ (s : State) (v : Nat), s.hostUp = true → s.inStates [.rom, .ready] = false → v < 2 ^ 17 →
      exec (.lnkDeviceWrite v) s = .next (refuse 0x600008 v 0x0120 s)) ∧
  (∀ (s : State) (v : Nat), s.hostUp = true → v < 2 ^ 64 → 2 ^ 17 ≤ v →
      exec (.lnkDeviceWrite v) s = .next (refuse 0x600008 v 0x0123 s)) ∧
  (∀ (s : State) (j v : Nat), s.hostUp = true → s.inStates [.ready, .running, .suspended] = true → j < 32768 → ∃ t,
      exec (.lnkFwdWrite j v) s = .next t ∧ t = { s with lnk := { s.lnk with fwd := t.lnk.fwd } } ∧
      t.fwdSet (2 * j) = v % 2 ^ 32 ∧ t.fwdSet (2 * j + 1) = v / 2 ^ 32 % 2 ^ 32 ∧
      (∀ d, d / 2 ≠ j → t.fwdSet d = s.fwdSet d)) ∧
  (∀ (s : State) (j v : Nat), s.hostUp = true → s.inStates [.ready, .running, .suspended] = false → j < 32768 →
      v < 2 ^ 64 → exec (.lnkFwdWrite j v) s = .next (refuse (0x640000 + 8 * j) v 0x0120 s)) ∧
  (∀ (s : State) (l : Nat), s.hostUp = true → l < 32 → s.lnk.links.length = 32 →
      s.inStates [.ready, .running, .suspended] = true → (s.linkOf l).quiesce = false →
      (s.linkOf l).state ≠ .unlicensed → (s.linkOf l).replay = [] → (s.linkOf l).waiting = [] → ∃ t,
      exec (.quiesceSet l) s = .next t ∧ (t.linkOf l).state = .quiesced ∧ (t.linkOf l).quiesce = true ∧
      (t.linkOf l).width = 0 ∧ (∀ m, m ≠ l → (s.linkOf m).waiting = [] → t.linkOf m = s.linkOf m) ∧
      t = { s with lnk := t.lnk }) ∧
  (∀ (s : State) (l : Nat), s.hostUp = true → l < 32 → s.inStates [.ready, .running, .suspended] = true →
      (s.linkOf l).quiesce = false → (s.linkOf l).state = .unlicensed ∨ (s.linkOf l).trained = true ∧
      ((s.linkOf l).replay ≠ [] ∨ (s.linkOf l).waiting ≠ []) →
      exec (.quiesceSet l) s = .next (setLink l (fun x => { x with quiesce := true }) s)) ∧
  (∀ (s : State) (l : Nat), s.hostUp = true → l < 32 → s.inStates [.ready, .running, .suspended] = true →
      (s.linkOf l).quiesce = true →
      exec (.quiesceClear l) s = .next
        (if (s.linkOf l).state = .quiesced then (setLink l (fun x => { x with quiesce := false, state := .training, retrains := satAdd 16 x.retrains 1 }) s) else (setLink l (fun x => { x with quiesce := false }) s))) ∧
  (∀ (s : State) (l : Nat), s.hostUp = true → l < 32 → s.lnk.links.length = 32 →
      s.inStates [.ready, .running, .suspended] = true →
      ((s.linkOf l).quiesce = true → exec (.quiesceSet l) s = .next s) ∧
      ((s.linkOf l).quiesce = false → exec (.quiesceClear l) s = .next s)) ∧
  (∀ (s : State) (l : Nat), s.hostUp = true → l < 32 → s.inStates [.ready, .running, .suspended] = false →
      exec (.quiesceSet l) s = .next (refuse (0x601008 + 32 * l) (2 * b2n (s.linkOf l).dateline + 1) 0x0120 s) ∧
      exec (.quiesceClear l) s = .next (refuse (0x601008 + 32 * l) (2 * b2n (s.linkOf l).dateline) 0x0120 s)) ∧
  (∀ (s : State) (l : Nat) (on : Bool), s.hostUp = true → l < 32 → s.inStates [.ready, .suspended] = true ∨
      s.kpr.state = .running ∧ (s.linkOf l).dateline = on →
      exec (.datelineWrite l on) s = .next (setLink l (fun x => { x with dateline := on }) s)) ∧
  (∀ (s : State) (l : Nat) (on : Bool), s.hostUp = true → l < 32 → s.inStates [.ready, .suspended] = false →
      s.kpr.state ≠ .running ∨ (s.linkOf l).dateline ≠ on →
      exec (.datelineWrite l on) s = .next
        (refuse (0x601008 + 32 * l) (2 * b2n on + b2n (s.linkOf l).quiesce) 0x0120 s)) ∧
  (∀ (s : State) (p : Nat), s.hostUp = true → s.raccOpen = true → s.lnk.assigned = false →
      exec (.raccRead p) s = .next
        { s with lnk := { s.lnk with raccWrite := false, raccPeer := (p % 65536), raccState := 1, raccStatus := 0, raccAt := s.frm.tc } } ∧
      exec (.raccWrite p) s = .next
        { s with lnk := { s.lnk with raccWrite := true, raccPeer := (p % 65536), raccState := 1, raccStatus := 0, raccAt := s.frm.tc } }) ∧
  (∀ (s : State) (p l : Nat), s.hostUp = true → p < 65536 → s.raccOpen = true → s.lnk.assigned = true →
      s.routeTo p hostEndpoint = some l → ∃ t, exec (.raccRead p) s = .next t ∧ t.lnk.raccState = 1 ∧
      t.lnk.raccPeer = p ∧ t.lnk.raccWrite = false ∧ t.lnk.raccAt = s.frm.tc ∧
      t.lnk.requests = s.lnk.requests ++ [{ endpoint := hostEndpoint, tag := s.lnk.nextTag, device := p, core := 0, uid := 0, racc := true, at_ := s.frm.tc }] ∧
      t.lnk.nextTag = (s.lnk.nextTag + 1) % 65536 ∧ ((s.linkOf l).waiting = [] → ∀ m, m ≠ l → t.linkOf m = s.linkOf m) ∧
      t = { s with lnk := t.lnk, net := t.net, out := t.out }) ∧
  (∀ (s : State) (p l : Nat), s.hostUp = true → p < 65536 → s.raccOpen = true → s.lnk.assigned = true →
      s.routeTo p hostEndpoint = some l → (s.linkOf l).waiting = [] → (s.linkOf l).replay.length < 4096 →
      nth 0 (s.linkOf l).usedCredits 0 + nth 0 (s.linkOf l).usedCredits 1 < linkDepth → ∃ t,
      exec (.raccWrite p) s = .next t ∧ t.lnk.raccState = 1 ∧ t.lnk.raccWrite = true ∧
      ((t.linkOf l).replay.getLast?).map (fun r => (r.flit.ty, r.flit.dest, r.flit.tag, r.flit.addr,
        r.flit.payload)) = some (1, p, s.lnk.nextTag, s.lnk.raccAddr * 32, (s.lnk.raccData.map (leBytes 8)).flatten) ∧
      (∀ m, m ≠ l → t.linkOf m = s.linkOf m) ∧ t = { s with lnk := t.lnk, net := t.net, out := t.out }) ∧
  (∀ (s : State) (p : Nat), s.hostUp = true → p < 65536 → s.raccOpen = true → s.lnk.assigned = true →
      s.lnk.requests = [] → s.routeTo p hostEndpoint = none → ∃ t, exec (.raccWrite p) s = .next t ∧
      t.lnk.raccState = 3 ∧ t.lnk.raccStatus = 6 ∧ t.lnk.raccWrite = true ∧ t.lnk.requests = [] ∧
      t.lnk.links = s.lnk.links ∧ t.lnk.unreachable = satAdd 16 s.lnk.unreachable 1 ∧ t = { s with lnk := t.lnk }) ∧
  (∀ (s : State) (p : Nat), s.hostUp = true → p < 65536 → s.raccOpen = false →
      exec (.raccRead p) s = .next (refuse 0x600020 (2 ^ 63 + p) 0x0120 s) ∧
      exec (.raccWrite p) s = .next (refuse 0x600020 (2 ^ 63 + 2 ^ 32 + p) 0x0120 s)) ∧
  (∀ (s : State), s.powered = true → s.lnk.raccState = 1 → s.lnk.raccAt + 100 * tcUs ≤ s.frm.tc →
      exec .raccTimeout s = .next
        { s with lnk := { s.lnk with raccState := 3, raccStatus := 8, requests := s.lnk.requests.filter (fun r => !r.racc) } }) ∧
  (∀ (s : State), s.powered = false ∨ s.lnk.raccState ≠ 1 ∨ s.frm.tc < s.lnk.raccAt + 100 * tcUs →
      exec .raccTimeout s = .next s) ∧
  (∀ (s : State) (l n : Nat), l < 32 → s.powered = true → (s.linkOf l).trained = true → (s.linkOf l).waiting = [] →
      (s.linkOf l).expectAny = true ∨ (s.linkOf l).expected = n % 65536 →
      exec (.neighbourIdAnnounce l (some n)) s = .next
        (setLink l (fun x => { x with state := .up, neighbour := n % 65536, neighbourKnown := true }) s)) ∧
  (∀ (s : State) (l n : Nat), l < 32 → s.lnk.links.length = 32 → s.powered = true → (s.linkOf l).trained = true →
      (s.linkOf l).expectAny = false → (s.linkOf l).expected ≠ n % 65536 → ∃ t,
      exec (.neighbourIdAnnounce l (some n)) s = .next t ∧ (t.linkOf l).state = .wrongNeighbour ∧
      (t.linkOf l).neighbour = n % 65536 ∧ (t.linkOf l).waiting = (s.linkOf l).waiting ∧
      (∀ m, m ≠ l → t.linkOf m = s.linkOf m) ∧ t = { s with lnk := t.lnk }) ∧
  (∀ (s : State) (l : Nat), l < 32 → s.lnk.links.length = 32 → s.powered = true → (s.linkOf l).trained = true → ∃ t,
      exec (.neighbourIdAnnounce l none) s = .next t ∧ (t.linkOf l).state = .wrongNeighbour ∧
      (t.linkOf l).neighbourKnown = false ∧ (t.linkOf l).waiting = (s.linkOf l).waiting ∧
      (∀ m, m ≠ l → t.linkOf m = s.linkOf m) ∧ t = { s with lnk := t.lnk }) ∧
  (∀ (s : State) (l : Nat) (n : Option Nat), l < 32 → s.powered = false ∨ (s.linkOf l).trained = false →
      exec (.neighbourIdAnnounce l n) s = .next s)

/-- LINK_TRAINED has a training link up at 16, 8 or 4 lanes where that many are good and lit and its neighbour is one it
accepts, in state wrong neighbour where it is not, and down or without light otherwise. LINK_TRAIN_RETRY starts
training of a link that is down while light is present. LANE_DROP takes a lane out, and the link has the width of
the lanes left, or is down. LANE_ADD of a new lane shows it as good; of one that has been good for 1 s it adds it,
in RUNNING at the next entry interval. A failed laser takes its wavelength from the 8 links of its cartridge and its
group's spare starts to tune, which SPARE_LASER_IN_SERVICE ends. LASER_AGED tells a worn laser once. Opening the
lever ends the cartridge and leaves its links down. Each of them changes nothing where the link, the lane, the laser
or the cartridge is not in the state it needs. None of them writes memory. -/
def Obligations.LinkHardware : Prop :=
  (∀ (s : State) (l lanes n m : Nat), l < 32 → s.powered = true → (s.linkOf l).state = .training →
      (s.linkOf l).expectAny = true ∨ (s.linkOf l).expected = n % 65536 →
      4 ≤ popcount 16 ((lanes % 65536) &&& (s.cartOf l).lit) →
      exec (.linkTrained l lanes (some n) m true) s = .next
        (setLink l (fun x => { x with lanesGood := ((lanes % 65536) &&& (s.cartOf l).lit), addLanes := 0, newLanes := 0, newAt := [], light := true, neighbourKnown := true, neighbour := n % 65536, lengthM := min m 255, width := (widthFor (popcount 16 ((lanes % 65536) &&& (s.cartOf l).lit))), lanesUsed := lowestLanes ((lanes % 65536) &&& (s.cartOf l).lit) (widthFor (popcount 16 ((lanes % 65536) &&& (s.cartOf l).lit))), state := .up }) s)) ∧
  (∀ (s : State) (l lanes n m : Nat), l < 32 → s.lnk.links.length = 32 → s.powered = true →
      (s.linkOf l).state = .training → (s.linkOf l).expectAny = false → (s.linkOf l).expected ≠ n % 65536 →
      4 ≤ popcount 16 ((lanes % 65536) &&& (s.cartOf l).lit) → ∃ t,
      exec (.linkTrained l lanes (some n) m true) s = .next t ∧ (t.linkOf l).state = .wrongNeighbour ∧
      (t.linkOf l).width = (widthFor (popcount 16 ((lanes % 65536) &&& (s.cartOf l).lit))) ∧
      (t.linkOf l).neighbour = n % 65536 ∧ (∀ m, m ≠ l → t.linkOf m = s.linkOf m) ∧ t = { s with lnk := t.lnk }) ∧
  (∀ (s : State) (l lanes m : Nat) (n : Option Nat) (light : Bool), l < 32 → s.lnk.links.length = 32 → s.powered = true →
      (s.linkOf l).state = .training → light = false ∨ popcount 16 ((lanes % 65536) &&& (s.cartOf l).lit) < 4 → ∃ t,
      exec (.linkTrained l lanes n m light) s = .next t ∧ (t.linkOf l).state = (if light then .down else .noLight) ∧
      (t.linkOf l).width = 0 ∧ (∀ m, m ≠ l → t.linkOf m = s.linkOf m) ∧ t = { s with lnk := t.lnk }) ∧
  (∀ (s : State) (l lanes m : Nat) (n : Option Nat) (light : Bool), l < 32 → s.powered = false ∨
      (s.linkOf l).state ≠ .training → exec (.linkTrained l lanes n m light) s = .next s) ∧
  (∀ (s : State) (l : Nat), l < 32 → s.powered = true → (s.linkOf l).quiesce = false → (s.cartOf l).present = true →
      (s.linkOf l).state = .down ∨ (s.linkOf l).state = .noLight →
      exec (.linkTrainRetry l true) s = .next
        (setLink l (fun x => { x with light := true, state := .training, retrains := if s.inStates [.rom, .staging] then x.retrains else satAdd 16 x.retrains 1 }) s) ∧
      exec (.linkTrainRetry l false) s = .next (setLink l (fun x => { x with light := false, state := .noLight }) s)) ∧
  (∀ (s : State) (l : Nat) (light : Bool), l < 32 → s.powered = false ∨ (s.linkOf l).quiesce = true ∨
      (s.cartOf l).present = false ∨ (s.linkOf l).state ≠ .down ∧ (s.linkOf l).state ≠ .noLight →
      exec (.linkTrainRetry l light) s = .next s) ∧
  (∀ (s : State) (l i u c : Nat), l < 32 → s.lnk.links.length = 32 → i < 16 → s.powered = true →
      (s.linkOf l).trained = true → bit (s.linkOf l).lanesUsed i = true → bit (s.linkOf l).lanesGood i = true →
      (s.linkOf l).addLanes = 0 → (s.linkOf l).newLanes = 0 →
      4 ≤ popcount 16 (((s.linkOf l).lanesGood - 2 ^ i) &&& 0xFFFF) → ∃ t, exec (.laneDrop l i u c) s = .next t ∧
      (t.linkOf l).lanesGood = ((s.linkOf l).lanesGood - 2 ^ i) ∧
      (t.linkOf l).width = widthFor (popcount 16 (((s.linkOf l).lanesGood - 2 ^ i) &&& 0xFFFF)) ∧
      (t.linkOf l).state = (s.linkOf l).state ∧
      (t.linkOf l).fecUncorrectable = satAdd 16 (s.linkOf l).fecUncorrectable u ∧
      (t.linkOf l).fecCorrected = satAdd 32 (s.linkOf l).fecCorrected c ∧ (∀ m, m ≠ l → t.linkOf m = s.linkOf m) ∧
      t.mem = s.mem ∧ t.cores = s.cores ∧ t.frm = s.frm) ∧
  (∀ (s : State) (l i u c : Nat), l < 32 → s.lnk.links.length = 32 → i < 16 → s.powered = true →
      (s.linkOf l).trained = true → (s.linkOf l).width ≠ 0 → bit (s.linkOf l).lanesUsed i = true →
      bit (s.linkOf l).lanesGood i = true → (s.linkOf l).addLanes = 0 → (s.linkOf l).newLanes = 0 →
      popcount 16 (((s.linkOf l).lanesGood - 2 ^ i) &&& 0xFFFF) < 4 → ∃ t, exec (.laneDrop l i u c) s = .next t ∧
      (t.linkOf l).lanesGood = ((s.linkOf l).lanesGood - 2 ^ i) ∧ (t.linkOf l).state = .down ∧ (t.linkOf l).width = 0 ∧
      t.mem.dram = s.mem.dram) ∧
  (∀ (s : State) (l i u c : Nat), l < 32 → i < 16 → s.powered = false ∨ bit (s.linkOf l).lanesUsed i = false →
      exec (.laneDrop l i u c) s = .next s) ∧
  (∀ (s : State) (l i : Nat), l < 32 → i < 16 → s.powered = true → (s.linkOf l).trained = true →
      bit (s.cartOf l).lit i = true → bit (s.linkOf l).lanesGood i = false →
      exec (.laneAdd l i) s = .next
        (setLink l (fun x => { x with lanesGood := x.lanesGood ||| 2 ^ i, newLanes := x.newLanes ||| 2 ^ i, newAt := mapSet 0 x.newAt i s.frm.tc }) s)) ∧
  (∀ (s : State) (l i : Nat), l < 32 → i < 16 → s.powered = true → (s.linkOf l).trained = true →
      bit (s.cartOf l).lit i = true → bit (s.linkOf l).lanesGood i = true → bit (s.linkOf l).newLanes i = true →
      mapGet 0 (s.linkOf l).newAt i + tcSec ≤ s.frm.tc → s.kpr.state = .running →
      exec (.laneAdd l i) s = .next
        (setLink l (fun x => { x with newLanes := x.newLanes - 2 ^ i, newAt := mapSet 0 x.newAt i 0, addLanes := x.addLanes ||| 2 ^ i }) s)) ∧
  (∀ (s : State) (l i : Nat), l < 32 → i < 16 → s.powered = true → (s.linkOf l).trained = true →
      bit (s.cartOf l).lit i = true → bit (s.linkOf l).lanesGood i = true → bit (s.linkOf l).newLanes i = true →
      mapGet 0 (s.linkOf l).newAt i + tcSec ≤ s.frm.tc → s.lnk.links.length = 32 → s.kpr.state ≠ .running →
      (s.linkOf l).addLanes = 0 →
      4 ≤ popcount 16 ((s.linkOf l).lanesGood &&& (0xFFFF ^^^ ((s.linkOf l).newLanes - 2 ^ i))) → ∃ t,
      exec (.laneAdd l i) s = .next t ∧ (t.linkOf l).lanesGood = (s.linkOf l).lanesGood ∧
      (t.linkOf l).newLanes = (s.linkOf l).newLanes - 2 ^ i ∧
      (t.linkOf l).width = widthFor (popcount 16 ((s.linkOf l).lanesGood &&& (0xFFFF ^^^ ((s.linkOf l).newLanes - 2 ^ i)))) ∧
      (t.linkOf l).lanesUsed = lowestLanes ((s.linkOf l).lanesGood &&& (0xFFFF ^^^ ((s.linkOf l).newLanes - 2 ^ i))) (widthFor (popcount 16 ((s.linkOf l).lanesGood &&& (0xFFFF ^^^ ((s.linkOf l).newLanes - 2 ^ i))))) ∧
      (∀ m, m ≠ l → t.linkOf m = s.linkOf m) ∧ t.mem = s.mem ∧ t.cores = s.cores) ∧
  (∀ (s : State) (l i : Nat), l < 32 → i < 16 → s.powered = false ∨ (s.linkOf l).trained = false ∨
      bit (s.cartOf l).lit i = false ∨ bit (s.linkOf l).lanesGood i = true ∧
      (bit (s.linkOf l).newLanes i = false ∨ s.frm.tc < mapGet 0 (s.linkOf l).newAt i + tcSec) →
      exec (.laneAdd l i) s = .next s) ∧
  (∀ (s : State) (k w : Nat), k < 4 → w < 16 → s.lnk.carts.length = 4 → s.powered = true →
      (nth {} s.lnk.carts k).present = true → bit (nth {} s.lnk.carts k).failed w = false → s.lnk.links.length = 32 →
      ∃ t, exec (.laserFail k w) s = .next t ∧ (nth {} t.lnk.carts k).failed = (nth {} s.lnk.carts k).failed ||| 2 ^ w ∧
      (bit (nth {} s.lnk.carts k).spareUsed (w / 4) = false → field (nth {} s.lnk.carts k).tuning (w / 4 * 4) 4 = 0 →
        (nth {} t.lnk.carts k).tuning = (nth {} s.lnk.carts k).tuning ||| 2 ^ w) ∧
      (bit (nth {} s.lnk.carts k).spareUsed (w / 4) = true → (nth {} t.lnk.carts k).tuning = (nth {} s.lnk.carts k).tuning) ∧
      (∀ l, l / 8 = k → bit (t.linkOf l).lanesGood w = false) ∧
      (∀ j, j ≠ k → nth {} t.lnk.carts j = nth {} s.lnk.carts j) ∧ t.mem.dram = s.mem.dram) ∧
  (∀ (s : State) (k w : Nat), k < 4 → w < 16 → s.powered = false ∨ (nth {} s.lnk.carts k).present = false ∨
      bit (nth {} s.lnk.carts k).failed w = true → exec (.laserFail k w) s = .next s) ∧
  (∀ (s : State) (k w : Nat), k < 4 → w < 16 → s.lnk.carts.length = 4 → s.powered = true →
      (nth {} s.lnk.carts k).present = true → bit (nth {} s.lnk.carts k).tuning w = true →
      bit (nth {} s.lnk.carts k).failed w = true → ∃ t, exec (.spareLaserInService k w) s = .next t ∧
      t = raise 0x0041 1 k [w, 2] (setCart k (fun _ => (nth {} t.lnk.carts k)) s) ∧
      (nth {} t.lnk.carts k) = { (nth {} s.lnk.carts k) with failed := (nth {} s.lnk.carts k).failed - 2 ^ w, tuning := (nth {} s.lnk.carts k).tuning - 2 ^ w, spareUsed := (nth {} t.lnk.carts k).spareUsed, spareMap := (nth {} t.lnk.carts k).spareMap } ∧
      bit (nth {} t.lnk.carts k).failed w = false ∧ bit (nth {} t.lnk.carts k).tuning w = false ∧
      bit (nth {} t.lnk.carts k).spareUsed (w / 4) = true ∧
      field (nth {} t.lnk.carts k).spareMap (2 * (w / 4)) 2 = w % 4) ∧
  (∀ (s : State) (k w : Nat), k < 4 → w < 16 → s.powered = false ∨ (nth {} s.lnk.carts k).present = false ∨
      bit (nth {} s.lnk.carts k).tuning w = false → exec (.spareLaserInService k w) s = .next s) ∧
  (∀ (s : State) (k w : Nat), k < 4 → w < 16 → s.powered = true → (nth {} s.lnk.carts k).present = true →
      bit (nth {} s.lnk.carts k).aged w = false →
      exec (.laserAged k w) s = .next
        (raise 0x0041 0 k [w, 4] (setCart k (fun c => { c with aged := c.aged ||| 2 ^ w }) s))) ∧
  (∀ (s : State) (k w : Nat), k < 4 → w < 16 → s.powered = false ∨ (nth {} s.lnk.carts k).present = false ∨
      bit (nth {} s.lnk.carts k).aged w = true → exec (.laserAged k w) s = .next s) ∧
  (∀ (s : State) (k : Nat), k < 4 → s.lnk.carts.length = 4 → s.powered = true → (nth {} s.lnk.carts k).present = true →
      s.lnk.links.length = 32 → ∃ t, exec (.cartridgeLeverOpen k) s = .next t ∧ (nth {} t.lnk.carts k).present = false ∧
      (nth {} t.lnk.carts k).blanked = true ∧ (nth {} t.lnk.carts k).lit = 0 ∧
      (∀ l, l / 8 = k → ((t.linkOf l).state = .down ∨ (t.linkOf l).state = .unlicensed ∨ (t.linkOf l).state = .quiesced) ∧
        (t.linkOf l).lanesGood = 0) ∧
      (∀ j, j ≠ k → nth {} t.lnk.carts j = nth {} s.lnk.carts j) ∧ t.mem.dram = s.mem.dram) ∧
  (∀ (s : State) (k : Nat), k < 4 → s.powered = false ∨ (nth {} s.lnk.carts k).present = false →
      exec (.cartridgeLeverOpen k) s = .next s)

/-- On a link that is up a flit out of order is discarded and the acknowledgement repeated, whatever its type; on one
that is not up nothing happens. The expected flit advances the sequence number. A WRITE addressed to this device
from an admitted source stores its whole words and no other byte; from a source that is not admitted it stores
nothing and is counted; at a tile that retrains it waits. A READ changes no byte and is answered. A request for
another device leaves on its route with one hop less. READ_DATA and ACK end the remote access they answer. A STATUS
flit whose records come from no other member changes nothing in the frame planner, and a vote in one is noted. An
IDLE flit only takes acknowledgements and credits. A bad flit received repeats the acknowledgement; one sent has
every flit not acknowledged sent again, and after four resends in a row the link goes down. A request of a core
without an answer for 1 ms stops its context with fault 0x07, and before that nothing happens. A flit that waits 10
ms for a credit raises the count and an event. -/
def Obligations.OviFlits : Prop :=
  (∀ (s : State) (l : Nat) (f : LinkFlit) (p : Bool) (fl : List (Nat × Nat)), l < 32 → s.powered = true →
      (s.linkOf l).state = .up → f.seq % 4096 ≠ (s.linkOf l).expectSeq →
      exec (.oviWriteFlit l f p) s = .next (sendIdle l s) ∧ exec (.oviReadFlit l f p fl) s = .next (sendIdle l s) ∧
      exec (.oviReadDataFlit l f) s = .next (sendIdle l s) ∧ exec (.oviAckFlit l f p) s = .next (sendIdle l s) ∧
      exec (.oviStatusFlit l f) s = .next (sendIdle l s)) ∧
  (∀ (s : State) (l : Nat) (f : LinkFlit) (p : Bool) (fl : List (Nat × Nat)), l < 32 → s.powered = false ∨
      (s.linkOf l).state ≠ .up → exec (.oviWriteFlit l f p) s = .next s ∧ exec (.oviReadFlit l f p fl) s = .next s ∧
      exec (.oviReadDataFlit l f) s = .next s ∧ exec (.oviAckFlit l f p) s = .next s ∧
      exec (.oviStatusFlit l f) s = .next s ∧ exec (.oviIdleFlit l f) s = .next s ∧
      exec (.oviFlitError l p) s = .next s ∧ exec (.oviReplayLimit l) s = .next s) ∧
  (∀ (s : State) (l : Nat) (f : LinkFlit), l < 32 → s.powered = true → (s.linkOf l).state = .up →
      (s.linkOf l).quiesce = false → f.seq % 4096 = (s.linkOf l).expectSeq → s.lnk.assigned = true →
      f.flit.dest % 65536 = s.lnk.id → (s.linkOf l).waiting = [] → f.flit.scheduled = false →
      s.peerAllowed (f.narrow 1).flit = true → (f.narrow 1).flit.addr % 32 = 0 →
      s.tileHolds (f.narrow 1).flit.addr = false → s.mem.dpBad = [] →
      s.lockedIn (f.narrow 1).flit.addr ((f.narrow 1).flit.lenM1 + 1) = false →
      s.blockedIn (f.narrow 1).flit.addr ((f.narrow 1).flit.lenM1 + 1) = none → ∃ t,
      exec (.oviWriteFlit l f false) s = .next t ∧ (t.linkOf l).expectSeq = ((s.linkOf l).expectSeq + 1) % 4096 ∧
      t.mem.dram = memPutBytes s.mem.dram (f.narrow 1).flit.addr (slice (f.narrow 1).flit.payload 0 (f.narrow 1).flit.len) ∧
      t.cores = s.cores ∧ t.frm = s.frm ∧ t.req = s.req ∧ t.lnk.fwd = s.lnk.fwd) ∧
  (∀ (s : State) (l : Nat) (f : LinkFlit) (p : Bool), l < 32 → s.powered = true → (s.linkOf l).state = .up →
      (s.linkOf l).quiesce = false → f.seq % 4096 = (s.linkOf l).expectSeq → s.lnk.assigned = true →
      f.flit.dest % 65536 = s.lnk.id → (s.linkOf l).waiting = [] → s.peerAllowed (f.narrow 1).flit = false → ∃ t,
      exec (.oviWriteFlit l f p) s = .next t ∧ (t.linkOf l).expectSeq = ((s.linkOf l).expectSeq + 1) % 4096 ∧
      t.lnk.notAdmitted = satAdd 32 s.lnk.notAdmitted 1 ∧ t.mem = s.mem ∧ t.cores = s.cores ∧ t.frm = s.frm) ∧
  (∀ (s : State) (l : Nat) (f : LinkFlit) (p : Bool), l < 32 → s.powered = true → (s.linkOf l).state = .up →
      (s.linkOf l).quiesce = false → f.seq % 4096 = (s.linkOf l).expectSeq → s.lnk.assigned = true →
      f.flit.dest % 65536 = s.lnk.id → (s.linkOf l).waiting = [] → s.peerAllowed (f.narrow 1).flit = true →
      f.flit.scheduled = false → s.tileHolds (f.narrow 1).flit.addr = true → ∃ t,
      exec (.oviWriteFlit l f p) s = .next t ∧ (t.linkOf l).expectSeq = ((s.linkOf l).expectSeq + 1) % 4096 ∧
      t.mem = (holdRequest (f.narrow 1).flit.addr (.peerWrite l (f.narrow 1).flit p) s).mem ∧ t.cores = s.cores ∧
      t.frm = s.frm) ∧
  (∀ (s : State) (l : Nat) (f : LinkFlit) (s2 : State) (d : List Nat) (p : Bool), l < 32 → s.powered = true →
      (s.linkOf l).state = .up → (s.linkOf l).quiesce = false → f.seq % 4096 = (s.linkOf l).expectSeq →
      s.lnk.assigned = true → f.flit.dest % 65536 = s.lnk.id → (s.linkOf l).waiting = [] →
      s.peerAllowed (f.narrow 2).flit = true → s.tileHolds (f.narrow 2).flit.addr = false →
      s.routeTo (f.narrow 2).flit.src (f.narrow 2).flit.endpoint = some l → (s.linkOf l).replay.length < 4096 →
      nth 0 (s.linkOf l).usedCredits (2 * b2n f.flit.scheduled) + nth 0 (s.linkOf l).usedCredits (2 * b2n f.flit.scheduled + 1) < linkDepth →
      readBytes (peerWho l (f.narrow 2).flit) p (f.narrow 2).flit.addr (f.narrow 2).flit.len s = (.data d, s2) → ∃ t,
      exec (.oviReadFlit l f p []) s = .next t ∧ (t.linkOf l).expectSeq = ((s.linkOf l).expectSeq + 1) % 4096 ∧
      t.mem.dram = s.mem.dram ∧ t.cores = s.cores ∧
      ((t.linkOf l).replay.getLast?).map (fun r => (r.flit.ty, r.flit.dest, r.flit.tag, r.flit.payload)) = some (3,
        (f.narrow 2).flit.src, (f.narrow 2).flit.tag, d)) ∧
  (∀ (s : State) (l : Nat) (f : LinkFlit) (m : Nat) (p : Bool), l < 32 → s.powered = true → (s.linkOf l).state = .up →
      (s.linkOf l).quiesce = false → f.seq % 4096 = (s.linkOf l).expectSeq → s.lnk.assigned = true →
      f.flit.dest % 65536 ≠ s.lnk.id → 2 ≤ f.flit.hops % 64 → (s.linkOf l).waiting = [] →
      s.routeTo (f.narrow 1).flit.dest (f.narrow 1).flit.endpoint = some m → m ≠ l → (s.linkOf m).waiting = [] →
      (s.linkOf m).replay.length < 4096 →
      nth 0 (s.linkOf m).usedCredits (2 * b2n f.flit.scheduled) + nth 0 (s.linkOf m).usedCredits (2 * b2n f.flit.scheduled + 1) < linkDepth →
      ∃ t, exec (.oviWriteFlit l f p) s = .next t ∧ (t.linkOf l).expectSeq = ((s.linkOf l).expectSeq + 1) % 4096 ∧
      ((t.linkOf m).replay.getLast?).map (fun r => (r.flit.ty, r.flit.dest, r.flit.src, r.flit.hops, r.flit.tag,
        r.flit.payload)) = some (1, (f.narrow 1).flit.dest, (f.narrow 1).flit.src, (f.narrow 1).flit.hops - 1,
        (f.narrow 1).flit.tag, (f.narrow 1).flit.payload) ∧
      t.mem = s.mem ∧ t.cores = s.cores ∧ t.frm = s.frm) ∧
  (∀ (s : State) (l : Nat) (f : LinkFlit) (r : PeerReq), l < 32 → s.powered = true → (s.linkOf l).state = .up →
      (s.linkOf l).quiesce = false → f.seq % 4096 = (s.linkOf l).expectSeq → s.lnk.assigned = true →
      f.flit.dest % 65536 = s.lnk.id → (s.linkOf l).waiting = [] → s.lnk.requests = [r] → r.racc = true →
      r.endpoint = (f.narrow 3).flit.endpoint → r.tag = (f.narrow 3).flit.tag → s.lnk.raccWrite = false →
      (s.coreRec (f.narrow 3).flit.endpoint).queue = [] → ∃ t, exec (.oviReadDataFlit l f) s = .next t ∧
      (t.linkOf l).expectSeq = ((s.linkOf l).expectSeq + 1) % 4096 ∧ t.lnk.raccState = 2 ∧ t.lnk.raccStatus = 0 ∧
      t.lnk.raccData = (List.range 4).map (fun i => leAt (slice (f.narrow 3).flit.payload 0 (f.narrow 3).flit.len) (8 * i) 8) ∧
      t.lnk.requests = [] ∧ t.mem = s.mem ∧ t.cores = s.cores ∧ t.frm = s.frm) ∧
  (∀ (s : State) (l : Nat) (f : LinkFlit) (r : PeerReq) (st : Nat) (p : Bool), l < 32 → s.powered = true →
      (s.linkOf l).state = .up → (s.linkOf l).quiesce = false → f.seq % 4096 = (s.linkOf l).expectSeq →
      s.lnk.assigned = true → f.flit.dest % 65536 = s.lnk.id → (s.linkOf l).waiting = [] → s.lnk.requests = [r] →
      r.racc = true → r.endpoint < 65536 → r.tag < 65536 → st < 256 →
      ackRecords (f.narrow 4).flit = [leBytes 2 r.endpoint ++ leBytes 2 r.tag ++ [st, 0, 0, 0]] →
      s.lnk.raccWrite = true → (s.coreRec r.endpoint).queue = [] → ∃ t, exec (.oviAckFlit l f p) s = .next t ∧
      (t.linkOf l).expectSeq = ((s.linkOf l).expectSeq + 1) % 4096 ∧ t.lnk.raccState = (if st = 0 then 2 else 3) ∧
      t.lnk.raccStatus = st ∧ t.lnk.requests = [] ∧ t.mem = s.mem ∧ t.cores = s.cores ∧ t.frm = s.frm) ∧
  (∀ (s : State) (l : Nat) (f : LinkFlit), l < 32 → s.powered = true → (s.linkOf l).state = .up →
      (s.linkOf l).quiesce = false → f.seq % 4096 = (s.linkOf l).expectSeq → s.lnk.assigned = true →
      f.flit.dest % 65536 = s.lnk.id → (s.linkOf l).waiting = [] →
      (List.range ((f.narrow 5).flit.lenM1 + 1)).all (fun i => !s.otherMembers.contains (leAt (slice (f.narrow 5).flit.payload (32 * i) 32) 0 2)) = true →
      ∃ t, exec (.oviStatusFlit l f) s = .next t ∧ (t.linkOf l).expectSeq = ((s.linkOf l).expectSeq + 1) % 4096 ∧
      t.frm = s.frm ∧ t.mem = s.mem ∧ t.cores = s.cores) ∧
  (∀ (s : State) (l : Nat) (f : LinkFlit), l < 32 → s.powered = true → (s.linkOf l).state = .up →
      (s.linkOf l).quiesce = false → f.seq % 4096 = (s.linkOf l).expectSeq → s.lnk.assigned = true →
      f.flit.dest % 65536 = s.lnk.id → (s.linkOf l).waiting = [] → (f.narrow 5).flit.lenM1 = 0 →
      s.otherMembers.contains (leAt (slice (f.narrow 5).flit.payload 0 32) 0 2) = true → s.kpr.state = .running →
      leAt (slice (f.narrow 5).flit.payload 0 32) 2 1 = 1 →
      leAt (slice (f.narrow 5).flit.payload 0 32) 4 8 = s.frm.nextNumber → s.frm.nextNumber ≠ s.frm.count →
      leAt (slice (f.narrow 5).flit.payload 0 32) 16 8 = s.frm.nextAt →
      leAt (slice (f.narrow 5).flit.payload 0 32) 24 4 = s.nextPeriodNow → ∃ t, exec (.oviStatusFlit l f) s = .next t ∧
      (t.linkOf l).expectSeq = ((s.linkOf l).expectSeq + 1) % 4096 ∧
      t.frm = { s.frm with votes := mapSet vote0 s.frm.votes (leAt (slice (f.narrow 5).flit.payload 0 32) 0 2) { flags := leAt (slice (f.narrow 5).flit.payload 0 32) 3 1, frame := leAt (slice (f.narrow 5).flit.payload 0 32) 4 8, level := leAt (slice (f.narrow 5).flit.payload 0 32) 12 1 % 8, start := leAt (slice (f.narrow 5).flit.payload 0 32) 16 8, period := leAt (slice (f.narrow 5).flit.payload 0 32) 24 4, present := true } } ∧
      t.mem = s.mem ∧ t.cores = s.cores) ∧
  (∀ (s : State) (l : Nat) (f : LinkFlit), l < 32 → s.lnk.links.length = 32 → s.powered = true →
      (s.linkOf l).state = .up → (s.linkOf l).quiesce = false → (s.linkOf l).waiting = [] →
      exec (.oviIdleFlit l f) s = .next
        (setLink l (fun x => { x with replay := ackedReplay (f.ack % 4096) x.replay, again := if (ackedReplay (f.ack % 4096) x.replay).length < x.replay.length then 0 else x.again, usedCredits := returnCredits (returnCredits x.usedCredits 0 (f.credU % 16)) 1 (f.credS % 16) }) s)) ∧
  (∀ (s : State) (l : Nat), l < 32 → s.powered = true → (s.linkOf l).state = .up →
      exec (.oviFlitError l false) s = .next (sendIdle l s)) ∧
  (∀ (s : State) (l : Nat), l < 32 → (s.linkOf l).replay = [] → exec (.oviFlitError l true) s = .next s) ∧
  (∀ (s : State) (l : Nat), l < 32 → s.lnk.links.length = 32 → s.powered = true → (s.linkOf l).state = .up →
      (s.linkOf l).replay ≠ [] → ∃ t, exec (.oviFlitError l true) s = .next t ∧
      t = { setLink l (fun x => { x with replays := satAdd 32 x.replays x.replay.length, again := x.again + 1 }) s with out := t.out } ∧
      t.out.length = s.out.length + (s.linkOf l).replay.length) ∧
  (∀ (s : State) (l : Nat), l < 32 → s.lnk.links.length = 32 → s.powered = true → (s.linkOf l).state = .up →
      4 ≤ (s.linkOf l).again → ∃ t, exec (.oviReplayLimit l) s = .next t ∧ t = linkDown l .down s ∧
      (t.linkOf l).state = .down ∧ (t.linkOf l).replay = [] ∧ (t.linkOf l).waiting = [] ∧ t.mem.dram = s.mem.dram) ∧
  (∀ (s : State) (l : Nat), l < 32 → (s.linkOf l).again < 4 → exec (.oviReplayLimit l) s = .next s) ∧
  (∀ (s : State) (e : QEntry) (r : PeerReq) (p : Bool), r.endpoint < 65536 → r.tag < 65536 → s.powered = true →
      s.lnk.requests = [r] → r.racc = false → r.core = r.endpoint → r.uid = e.uid → e.slot < 4 →
      (s.coreRec r.core).queue = [e] → r.at_ + tcMs ≤ s.frm.tc → ∃ t,
      exec (.peerRequestTimeout r.endpoint r.tag p) s = .next t ∧ t.lnk.requests = [] ∧ (t.coreRec r.core).queue = [] ∧
      (t.ctxOf r.core e.slot).stopped = true ∧ (t.ctxOf r.core e.slot).fault = 7 ∧
      (t.ctxOf r.core e.slot).faultIdx = e.idx ∧ t.lnk.links = s.lnk.links ∧ t.mem.dram = s.mem.dram) ∧
  (∀ (s : State) (e g : Nat) (p : Bool),
      s.lnk.requests.all (fun r => r.racc || decide (r.endpoint ≠ e % 65536) || decide (r.tag ≠ g % 65536) || decide (s.frm.tc < r.at_ + tcMs)) = true →
      exec (.peerRequestTimeout e g p) s = .next s) ∧
  (∀ (s : State) (l : Nat) (b : Bool), l < 32 → s.powered = true →
      (s.linkOf l).waiting.any (fun o => decide (o.flit.scheduled = b) && decide (o.since + 10 * tcMs ≤ s.frm.tc)) = true →
      exec (.creditStall l b) s = .next
        (raise 0x0043 1 l [b2n b] (setLink l (fun x => { x with creditStalls := satAdd 16 x.creditStalls 1, waiting := x.waiting.map (fun o => if o.flit.scheduled = b then { o with since := s.frm.tc } else o) }) s))) ∧
  (∀ (s : State) (l : Nat) (b : Bool), l < 32 → s.powered = false ∨
      (s.linkOf l).waiting.any (fun o => decide (o.flit.scheduled = b) && decide (o.since + 10 * tcMs ≤ s.frm.tc)) = false →
      exec (.creditStall l b) s = .next s)

/-- A trained link sends the count with the master and depth known, and no master where the device takes no part. A
symbol from the one candidate whose master is below the own ID makes that master the device's, one hop deeper; the
first followed sets TC, and the device is locked where the offset that is left lies within 32 sixteenths and the
depth within 32, unless its master has just changed. A symbol with a master not below the own ID, or with none,
makes the device its own master. A device that takes no part knows no master. On a link that is not trained, and
before the clock, no symbol does anything. Without a candidate the follower loses lock and master. A vote of another
member for the next frame with the same start and period is noted, one with other timing suspends the device,
whatever frame it names; a record of no other member does nothing. At the confirm point a missing completion, or a
flag in one, makes a lockstep fault, and the next frame is dropped; with every completion there and no flag the
frame is confirmed; before it nothing happens. CONTEXT_SWITCH_DONE saves the outgoing context, takes the incoming
one from its save area and makes it resident; without a switch under way it does nothing. A save or a restore that
is not performed stops the context. -/
def Obligations.AlignmentAndLockstep : Prop :=
  (∀ (s : State) (l : Nat), l < 32 → s.powered = true → s.frm.tcRuns = true → (s.linkOf l).trained = true →
      s.inMastership = true → s.lnk.masterKnown = true →
      exec (.timingSymbolSend l) s = .next (emit (.symbol l s.frm.tc s.lnk.master s.lnk.depth) s)) ∧
  (∀ (s : State) (l : Nat), l < 32 → s.powered = true → s.frm.tcRuns = true → (s.linkOf l).trained = true →
      s.inMastership = false → exec (.timingSymbolSend l) s = .next (emit (.symbol l s.frm.tc 65536 0) s)) ∧
  (∀ (s : State) (l y ph : Nat) (m : Option Nat) (d : Nat) (bk : Int), l < 32 → s.powered = false ∨ s.frm.tcRuns = false ∨
      (s.linkOf l).trained = false → exec (.timingSymbolSend l) s = .next s ∧
      exec (.timingSymbol l y m d ph bk) s = .next s) ∧
  (∀ (s : State) (l y m d ph : Nat) (bk : Int), l < 32 → s.lnk.links.length = 32 → s.powered = true →
      s.frm.tcRuns = true → (s.linkOf l).trained = true → s.inMastership = true →
      (∀ k, k < 32 → k ≠ l → (s.linkOf k).symbol = none) → (m % 65536) < s.lnk.id → ∃ t,
      exec (.timingSymbol l y (some m) d ph bk) s = .next t ∧ t.lnk.master = (m % 65536) ∧ t.lnk.masterKnown = true ∧
      t.lnk.isMaster = false ∧ t.lnk.upstream = l ∧ t.lnk.depth = d % 64 + 1 ∧
      (s.lnk.acquired = true → t.lnk.offset = (s.measuredOffset (y % 2 ^ 64) (ph % 16) bk) ∧ t.frm.tc = s.frm.tc) ∧
      (s.lnk.acquired = false →
        t.frm.tc = (((16 * s.frm.tc : Nat) : Int) - (s.measuredOffset (y % 2 ^ 64) (ph % 16) bk)).toNat / 16 % 2 ^ 64) ∧
      t.lnk.locked = (decide (-32 ≤ t.lnk.offset) && decide (t.lnk.offset ≤ 32) && decide (d % 64 < 32) && (!s.lnk.masterKnown || decide (s.lnk.master = (m % 65536)))) ∧
      t.lnk.acquired = true ∧ t.mem = s.mem ∧ t.cores = s.cores ∧ t.kpr = s.kpr) ∧
  (∀ (s : State) (l y m d ph : Nat) (bk : Int), l < 32 → s.lnk.links.length = 32 → s.powered = true →
      s.frm.tcRuns = true → (s.linkOf l).trained = true → s.inMastership = true →
      (∀ k, k < 32 → k ≠ l → (s.linkOf k).symbol = none) → s.lnk.id ≤ (m % 65536) → ∃ t,
      exec (.timingSymbol l y (some m) d ph bk) s = .next t ∧ t.lnk.master = s.lnk.id ∧ t.lnk.isMaster = true ∧
      t.lnk.depth = 0 ∧ t.lnk.acquired = true ∧
      t.lnk.locked = !(s.lnk.masterKnown && decide (s.lnk.master ≠ s.lnk.id)) ∧ t.frm.tc = s.frm.tc ∧ t.mem = s.mem ∧
      t.cores = s.cores ∧ t.kpr = s.kpr) ∧
  (∀ (s : State) (l y d ph : Nat) (bk : Int), l < 32 → s.lnk.links.length = 32 → s.powered = true → s.frm.tcRuns = true →
      (s.linkOf l).trained = true → s.inMastership = true → (∀ k, k < 32 → k ≠ l → (s.linkOf k).symbol = none) → ∃ t,
      exec (.timingSymbol l y none d ph bk) s = .next t ∧ (t.linkOf l).symbol = none ∧ t.lnk.master = s.lnk.id ∧
      t.lnk.isMaster = true ∧ t.lnk.depth = 0 ∧
      t.lnk.locked = !(s.lnk.masterKnown && decide (s.lnk.master ≠ s.lnk.id)) ∧ t.frm.tc = s.frm.tc ∧ t.mem = s.mem ∧
      t.cores = s.cores) ∧
  (∀ (s : State) (l y d ph : Nat) (m : Option Nat) (bk : Int), l < 32 → s.powered = true → s.frm.tcRuns = true →
      (s.linkOf l).trained = true → s.inMastership = false → ∃ t, exec (.timingSymbol l y m d ph bk) s = .next t ∧
      t.lnk.masterKnown = false ∧ t.lnk.isMaster = false ∧ t.lnk.locked = false ∧ t.lnk.acquired = s.lnk.acquired ∧
      t.frm.tc = s.frm.tc ∧ t.mem = s.mem ∧ t.cores = s.cores) ∧
  (∀ (s : State), s.powered = true → s.lnk.masterKnown = true → s.lnk.isMaster = false → s.candidates = [] → ∃ t,
      exec .alignmentTimeout s = .next t ∧ t.lnk.masterKnown = false ∧ t.lnk.locked = false ∧
      (s.lnk.locked = true → t.frm.voteBad = true) ∧ t.lnk.links = s.lnk.links ∧ t.frm.tc = s.frm.tc ∧ t.mem = s.mem ∧
      t.cores = s.cores) ∧
  (∀ (s : State), s.powered = false ∨ s.lnk.masterKnown = false ∨ s.lnk.isMaster = true ∨ s.candidates ≠ [] →
      exec .alignmentTimeout s = .next s) ∧
  (∀ (s : State) (a : Awaited) (m : Nat), s.powered = true → s.frm.awaiting = [a] →
      a.facts.start + a.facts.period + s.frm.confirmWait ≤ s.frm.tc → s.missingMember a = some m →
      s.frm.phase ≠ .inFrame → s.frm.nextNumber = a.facts.number + 1 → ∃ t, exec .confirmDeadline s = .next t ∧
      t.frm.awaiting = [] ∧ t.frm.lockFaults = satAdd 32 s.frm.lockFaults 1 ∧ t.frm.lastDrop = a.facts.number ∧
      t.frm.lastGood = s.frm.lastGood ∧ t.frm.results = s.frm.results ∧ t.frm.dropNext = true ∧ t.cores = s.cores) ∧
  (∀ (s : State) (a : Awaited) (m : Nat), s.powered = true → s.frm.awaiting = [a] →
      a.facts.start + a.facts.period + s.frm.confirmWait ≤ s.frm.tc → s.missingMember a = none →
      s.flaggedMember a = some m → s.frm.phase ≠ .inFrame → s.frm.nextNumber = a.facts.number + 1 → ∃ t,
      exec .confirmDeadline s = .next t ∧ t.frm.awaiting = [] ∧ t.frm.lockFaults = satAdd 32 s.frm.lockFaults 1 ∧
      t.frm.lastDrop = a.facts.number ∧ t.frm.results = s.frm.results ∧ t.frm.dropNext = true ∧ t.cores = s.cores) ∧
  (∀ (s : State) (a : Awaited), s.powered = true → s.frm.awaiting = [a] →
      a.facts.start + a.facts.period + s.frm.confirmWait ≤ s.frm.tc → s.missingMember a = none →
      s.flaggedMember a = none → ∃ t, exec .confirmDeadline s = .next t ∧ t.frm.awaiting = [] ∧
      t.frm.lastGood = a.facts.number ∧
      t.frm.results = a.facts.buffers.foldl (fun l b => setNth l b a.facts.number) s.frm.results ∧
      t.frm.lastDrop = s.frm.lastDrop ∧ t.frm.lockFaults = s.frm.lockFaults ∧ t.cores = s.cores) ∧
  (∀ (s : State), s.powered = false ∨ s.confirmDue = none → exec .confirmDeadline s = .next s) ∧
  (∀ (s : State) (b : List Nat), s.powered = false ∨ s.otherMembers.contains (leAt (toBytes (slice b 0 32)) 0 2) = false ∨
      leAt (toBytes (slice b 0 32)) 2 1 = 0 ∨ 2 < leAt (toBytes (slice b 0 32)) 2 1 ∨
      leAt (toBytes (slice b 0 32)) 2 1 = 1 ∧ s.kpr.state ≠ .running → exec (.statusRecordReceive b) s = .next s) ∧
  (∀ (s : State) (b : List Nat), s.otherMembers.contains (leAt (toBytes (slice b 0 32)) 0 2) = true → s.powered = true →
      s.kpr.state = .running → leAt (toBytes (slice b 0 32)) 2 1 = 1 →
      leAt (toBytes (slice b 0 32)) 4 8 = s.frm.nextNumber →
      leAt (toBytes (slice b 0 32)) 16 8 = (s.ownTiming s.frm.nextNumber).1 →
      leAt (toBytes (slice b 0 32)) 24 4 = (s.ownTiming s.frm.nextNumber).2 →
      exec (.statusRecordReceive b) s = .next
        { s with frm := { s.frm with votes := mapSet vote0 s.frm.votes (leAt (toBytes (slice b 0 32)) 0 2) { flags := leAt (toBytes (slice b 0 32)) 3 1, frame := leAt (toBytes (slice b 0 32)) 4 8, level := leAt (toBytes (slice b 0 32)) 12 1 % 8, start := leAt (toBytes (slice b 0 32)) 16 8, period := leAt (toBytes (slice b 0 32)) 24 4, present := true } } }) ∧
  (∀ (s : State) (b : List Nat), s.otherMembers.contains (leAt (toBytes (slice b 0 32)) 0 2) = true → s.powered = true →
      s.kpr.state = .running → leAt (toBytes (slice b 0 32)) 2 1 = 1 →
      leAt (toBytes (slice b 0 32)) 16 8 ≠ (s.ownTiming (leAt (toBytes (slice b 0 32)) 4 8)).1 ∨
      leAt (toBytes (slice b 0 32)) 24 4 ≠ (s.ownTiming (leAt (toBytes (slice b 0 32)) 4 8)).2 → ∃ t,
      exec (.statusRecordReceive b) s = .next t ∧ t.dev.suspendReq = true ∧
      (s.frm.now.lockstep = true → s.frm.phase = .inFrame → t.frm.now.faulted = true) ∧
      (leAt (toBytes (slice b 0 32)) 4 8 = s.frm.nextNumber →
        mapGet vote0 t.frm.votes (leAt (toBytes (slice b 0 32)) 0 2) = { flags := leAt (toBytes (slice b 0 32)) 3 1, frame := leAt (toBytes (slice b 0 32)) 4 8, level := leAt (toBytes (slice b 0 32)) 12 1 % 8, start := leAt (toBytes (slice b 0 32)) 16 8, period := leAt (toBytes (slice b 0 32)) 24 4, present := true }) ∧
      (leAt (toBytes (slice b 0 32)) 4 8 ≠ s.frm.nextNumber → t.frm.votes = s.frm.votes) ∧
      t.evt.nextSeq = s.evt.nextSeq + 1 ∧ t.mem = s.mem ∧ t.cores = s.cores) ∧
  (∀ (s : State) (a : Awaited) (b : List Nat), s.otherMembers.contains (leAt (toBytes (slice b 0 32)) 0 2) = true →
      s.powered = true → leAt (toBytes (slice b 0 32)) 2 1 = 2 → s.frm.awaiting = [a] →
      leAt (toBytes (slice b 0 32)) 4 8 = a.facts.number → leAt (toBytes (slice b 0 32)) 3 1 % 16 = 0 →
      s.otherMembers = [leAt (toBytes (slice b 0 32)) 0 2] → ∃ t, exec (.statusRecordReceive b) s = .next t ∧
      t.frm.awaiting = [] ∧ t.frm.lastGood = a.facts.number ∧ t.frm.lastDrop = s.frm.lastDrop ∧ t.cores = s.cores) ∧
  (∀ (s : State) (n : Nat) (b : Binding), n < 12288 → s.coreRuns n = true → s.mem.dpBad = [] → (s.coreRec n).switch1 = 5 →
      (s.coreRec n).resident1 ≠ 0 → (s.ctxOf n ((s.coreRec n).resident1 - 1)).role1 ≠ 0 →
      s.bindingOf ((s.ctxOf n ((s.coreRec n).resident1 - 1)).role1 - 1) = some b → b.save % 32 = 0 →
      s.lockedIn b.save (128 + b.swapLen) = false → s.blockedIn b.save (128 + b.swapLen) = none → ∃ t,
      exec (.contextSwitchDone n false [] []) s = .next t ∧ (t.coreRec n).resident1 = 0 ∧ (t.coreRec n).switch1 = 0 ∧
      t.mem.dram = memPutBytes s.mem.dram b.save ((s.ctxOf n ((s.coreRec n).resident1 - 1)).fixedBytes ++ s.storeBytes n (32 * b.swapStart) (32 * b.swapLen)) ∧
      (t.ctxOf n ((s.coreRec n).resident1 - 1)).saved = true ∧
      (t.ctxOf n ((s.coreRec n).resident1 - 1)).saveBad = false ∧ t.cores.store = s.cores.store) ∧
  -- K
  (∀ (s s2 : State) (n : Nat) (b : Binding) (d : List Nat), n < 12288 → s.coreRuns n = true → s.mem.dpBad = [] →
      1 ≤ (s.coreRec n).switch1 → (s.coreRec n).switch1 ≤ 4 → (s.coreRec n).resident1 = 0 →
      s.bindingOf ((s.ctxOf n ((s.coreRec n).switch1 - 1)).role1 - 1) = some b →
      readBytes (coreWho n) false b.save (4096 + 32 * b.swapLen) s = (.data d, s2) →
      (s.ctxOf n ((s.coreRec n).switch1 - 1)).saveBad = false →
      (s.ctxOf n ((s.coreRec n).switch1 - 1)).publish = false → (s.ctxOf n ((s.coreRec n).switch1 - 1)).arrivals = [] →
      ∃ t, exec (.contextSwitchDone n false [] []) s = .next t ∧ (t.coreRec n).resident1 = (s.coreRec n).switch1 ∧
      (t.coreRec n).switch1 = 0 ∧ t.cores.store = (putStore n (32 * b.swapStart) (d.drop 4096) s).cores.store ∧
      ((s.ctxOf n ((s.coreRec n).switch1 - 1)).seqSaved = true → (t.ctxOf n ((s.coreRec n).switch1 - 1)).pos = leAt d 32 4) ∧
      ((s.ctxOf n ((s.coreRec n).switch1 - 1)).seqSaved = false →
        (t.ctxOf n ((s.coreRec n).switch1 - 1)).pos = (s.ctxOf n ((s.coreRec n).switch1 - 1)).pos) ∧
      t.mem.dram = s.mem.dram) ∧
  (∀ (s : State) (n c : Nat) (b : Binding), n < 12288 → s.coreRuns n = true → s.mem.dpBad = [] →
      (s.coreRec n).switch1 = 5 → (s.coreRec n).resident1 ≠ 0 → (s.ctxOf n ((s.coreRec n).resident1 - 1)).role1 ≠ 0 →
      s.bindingOf ((s.ctxOf n ((s.coreRec n).resident1 - 1)).role1 - 1) = some b → b.save % 32 = 0 →
      s.lockedIn b.save (128 + b.swapLen) = false → s.wordBlocked b.save = some c → ∃ t,
      exec (.contextSwitchDone n false [] []) s = .next t ∧ (t.coreRec n).resident1 = 0 ∧
      (t.ctxOf n ((s.coreRec n).resident1 - 1)).saveBad = true ∧ t.mem.dram = s.mem.dram ∧
      t.cores.store = s.cores.store) ∧
  -- K
  (∀ (s s2 : State) (n : Nat) (b : Binding) (d : List Nat), n < 12288 → s.coreRuns n = true → s.mem.dpBad = [] →
      1 ≤ (s.coreRec n).switch1 → (s.coreRec n).switch1 ≤ 4 → (s.coreRec n).resident1 = 0 →
      s.bindingOf ((s.ctxOf n ((s.coreRec n).switch1 - 1)).role1 - 1) = some b →
      readBytes (coreWho n) false b.save (4096 + 32 * b.swapLen) s = (.data d, s2) →
      (s.ctxOf n ((s.coreRec n).switch1 - 1)).saveBad = true → (s.ctxOf n ((s.coreRec n).switch1 - 1)).publish = false →
      (s.ctxOf n ((s.coreRec n).switch1 - 1)).arrivals = [] → ∃ t, exec (.contextSwitchDone n false [] []) s = .next t ∧
      (t.ctxOf n ((s.coreRec n).switch1 - 1)).stopped = true ∧ (t.ctxOf n ((s.coreRec n).switch1 - 1)).fault = 2 ∧
      (t.ctxOf n ((s.coreRec n).switch1 - 1)).saveBad = false ∧ t.frm.now.faults = s.frm.now.faults + 1) ∧
  (∀ (s s2 : State) (n c : Nat) (b : Binding), n < 12288 → s.coreRuns n = true → s.mem.dpBad = [] →
      1 ≤ (s.coreRec n).switch1 → (s.coreRec n).switch1 ≤ 4 → (s.coreRec n).resident1 = 0 →
      s.bindingOf ((s.ctxOf n ((s.coreRec n).switch1 - 1)).role1 - 1) = some b →
      readBytes (coreWho n) false b.save (4096 + 32 * b.swapLen) s = (.error c, s2) →
      (s.ctxOf n ((s.coreRec n).switch1 - 1)).publish = false → (s.ctxOf n ((s.coreRec n).switch1 - 1)).arrivals = [] →
      ∃ t, exec (.contextSwitchDone n false [] []) s = .next t ∧
      (t.ctxOf n ((s.coreRec n).switch1 - 1)).stopped = true ∧
      (t.ctxOf n ((s.coreRec n).switch1 - 1)).fault = inFlightFault c ∧ t.mem.dram = s.mem.dram) ∧
  (∀ (s : State) (n : Nat) (p : Bool) (fl : List (Nat × Nat)) (bad : List Nat), n < 12288 → (s.coreRec n).switch1 = 0 ∨
      s.coreRuns n = false → exec (.contextSwitchDone n p fl bad) s = .next s)

/-- A sample sets the two readings of each pair it names, except that of a failed sensor, which reads 0, and those of
sills and the inlet; a unit above its limit is held, and pairs it does not name keep theirs. A sensor that reads
above 150 °C fails. Before the sensors start and in HALTED only the inlet is taken. The lower sensor of a pair that
has differed for 100 ms is suspect, once. A failed sensor reads 0 and is excluded, once. A hold ends where its unit
has been cool for 1 ms. The model of a region is the mean of the temperatures below and above it plus its power by
its thermal resistance; models of other regions stay. The cooling estimate keeps the last 60 averages, and without a
steady 800 W changes nothing else of the resistance; at a steady 800 W or more it takes the resistance of the second
into the mean. Without an inlet sensor it does nothing. Where its condition does not hold each of them changes
nothing. Temperatures are in 1/16 °C. -/
def Obligations.TemperaturesAndCooling : Prop :=
  (∀ (s : State) (x : TempReadings), s.powered = true → s.thm.started = true → ∃ t, exec (.tempSample x) s = .next t ∧
      t.thm.ready = true ∧ (∀ q, (∀ e ∈ x.regions, e.1 ≠ q) → t.pairOf q = s.pairOf q) ∧
      (∀ q, (∀ e ∈ x.mems, e.1 ≠ q) → t.memPairOf q = s.memPairOf q) ∧ t.mem = s.mem ∧ t.cores = s.cores ∧
      t.frm = s.frm ∧ t.pwr = s.pwr ∧ t.clk = s.clk) ∧
  (∀ (s : State) (r a b : Nat), s.powered = true → s.thm.started = true → r < 512 → a ≤ 2400 → b ≤ 2400 → ∃ t,
      exec (.tempSample { regions := [(r, a, b)], mems := [], sills := [], inlet := none }) s = .next t ∧
      (t.pairOf r).a = (if (s.pairOf r).stateA = 2 then 0 else a) ∧
      (t.pairOf r).b = (if (s.pairOf r).stateB = 2 then 0 else b) ∧
      (t.pairOf r).held = ((s.pairOf r).held || decide (1648 < t.regionTemp r)) ∧ t.thm.mems = s.thm.mems ∧
      t.thm.inlet = (if s.thm.inletFailed then 0 else s.thm.inlet)) ∧
  (∀ (s : State) (r a b : Nat), s.powered = true → s.thm.started = true → r < 512 → a ≤ 2400 → b ≤ 2400 → ∃ t,
      exec (.tempSample { regions := [], mems := [(r, a, b)], sills := [], inlet := none }) s = .next t ∧
      (t.memPairOf r).a = (if (s.memPairOf r).stateA = 2 then 0 else a) ∧
      (t.memPairOf r).b = (if (s.memPairOf r).stateB = 2 then 0 else b) ∧
      (t.memPairOf r).held = ((s.memPairOf r).held || decide (1520 < t.memTemp r)) ∧ t.thm.regions = s.thm.regions) ∧
  (∀ (s : State) (u k v : Nat) (x : Nat), s.powered = true → s.thm.started = true → u < 4 → k < 16 → v ≤ 2400 → x ≤ 2400 →
      s.thm.sills.length = 4 → (nth {} s.thm.sills u).readings.length = 16 → ∃ t,
      exec (.tempSample { regions := [], mems := [], sills := [(u, k, v)], inlet := some x }) s = .next t ∧
      nth 0 (nth {} t.thm.sills u).readings k = (if bit (nth {} s.thm.sills u).failed k then 0 else v) ∧
      (nth {} t.thm.sills u).held = ((nth {} s.thm.sills u).held || decide (1648 < t.sillTemp u)) ∧
      t.thm.inlet = (if s.thm.inletFailed then 0 else x) ∧ t.thm.regions = s.thm.regions ∧ t.thm.mems = s.thm.mems) ∧
  (∀ (s : State) (x : TempReadings), s.powered = false ∨ s.thm.started = false → s.kpr.railsUp = true →
      s.thm.inletFailed = false →
      exec (.tempSample x) s = .next
        { s with thm := { s.thm with inlet := if 2400 < (x.inlet.getD 0) % 4096 then s.thm.inlet else (x.inlet.map (fun v => v % 4096)).getD s.thm.inlet } }) ∧
  (∀ (s : State) (x : TempReadings), s.powered = false ∨ s.thm.started = false → s.kpr.railsUp = false ∨
      s.thm.inletFailed = true → exec (.tempSample x) s = .next s) ∧
  (∀ (s : State) (r a b : Nat), s.powered = true → s.thm.started = true → r < 512 → 2400 < a → a < 4096 → b ≤ 2400 →
      (s.pairOf r).stateA ≠ 2 → ∃ t,
      exec (.tempSample { regions := [(r, a, b)], mems := [], sills := [], inlet := none }) s = .next t ∧
      (t.pairOf r).stateA = 2 ∧ (t.pairOf r).a = 0 ∧ (t.pairOf r).b = (if (s.pairOf r).stateB = 2 then 0 else b)) ∧
  (∀ (s : State) (r : Nat), s.powered = true → s.thm.started = true → r < 512 →
      heldFor (s.pairOf r).differSince s.frm.tc (100 * tcMs) = true →
      (if (s.pairOf r).a < (s.pairOf r).b then (s.pairOf r).stateA else (s.pairOf r).stateB) = 0 →
      exec (.sensorSuspect false r) s = .next (raise 0x0060 0 r [if (s.pairOf r).a < (s.pairOf r).b then 0 else 1,
        1] { (setPair r (fun p => if p.a < p.b then { p with stateA := 1 } else { p with stateB := 1 }) s) with thm := { (setPair r (fun p => if p.a < p.b then { p with stateA := 1 } else { p with stateB := 1 }) s).thm with flagged := satAdd 16 s.thm.flagged 1 } })) ∧
  (∀ (s : State) (r : Nat), s.powered = true → s.thm.started = true → r < 512 →
      heldFor (s.memPairOf r).differSince s.frm.tc (100 * tcMs) = true →
      (if (s.memPairOf r).a < (s.memPairOf r).b then (s.memPairOf r).stateA else (s.memPairOf r).stateB) = 0 →
      exec (.sensorSuspect true r) s = .next
        (raise 0x0060 0 (r + 0x1000) [if (s.memPairOf r).a < (s.memPairOf r).b then 0 else 1,
        1] { (setMemPair r (fun p => if p.a < p.b then { p with stateA := 1 } else { p with stateB := 1 }) s) with thm := { (setMemPair r (fun p => if p.a < p.b then { p with stateA := 1 } else { p with stateB := 1 }) s).thm with flagged := satAdd 16 s.thm.flagged 1 } })) ∧
  (∀ (s : State) (m : Bool) (r : Nat), r < 512 → s.powered = false ∨ s.thm.started = false ∨
      heldFor (if m then s.memPairOf r else s.pairOf r).differSince s.frm.tc (100 * tcMs) = false ∨
      (s.pairOf r).stateA = 1 ∧ (s.pairOf r).stateB = 1 ∧ (s.memPairOf r).stateA = 1 ∧ (s.memPairOf r).stateB = 1 →
      exec (.sensorSuspect m r) s = .next s) ∧
  (∀ (s : State) (u k : Nat), s.powered = true → s.thm.started = true → u < 512 → k < 2 → sensorState 0 u k s ≠ 2 → ∃ t,
      exec (.sensorFail 0 u k) s = .next t ∧
      t.pairOf u = { (s.pairOf u) with stateA := if k = 0 then 2 else (s.pairOf u).stateA, a := if k = 0 then 0 else (s.pairOf u).a, stateB := if k = 0 then (s.pairOf u).stateB else 2, b := if k = 0 then (s.pairOf u).b else 0 } ∧
      (∀ q, q ≠ u → t.pairOf q = s.pairOf q) ∧ t.thm.mems = s.thm.mems ∧
      t.thm.flagged = (if sensorState 0 u k s = 0 then satAdd 16 s.thm.flagged 1 else s.thm.flagged) ∧ t.mem = s.mem ∧
      t.cores = s.cores ∧ t.frm = s.frm ∧ t.pwr = s.pwr ∧ t.clk = s.clk) ∧
  (∀ (s : State) (u k : Nat), s.powered = true → s.thm.started = true → u < 512 → k < 2 → sensorState 1 u k s ≠ 2 → ∃ t,
      exec (.sensorFail 1 u k) s = .next t ∧
      t.memPairOf u = { (s.memPairOf u) with stateA := if k = 0 then 2 else (s.memPairOf u).stateA, a := if k = 0 then 0 else (s.memPairOf u).a, stateB := if k = 0 then (s.memPairOf u).stateB else 2, b := if k = 0 then (s.memPairOf u).b else 0 } ∧
      (∀ q, q ≠ u → t.memPairOf q = s.memPairOf q) ∧ t.thm.regions = s.thm.regions ∧ t.thm.sills = s.thm.sills ∧
      t.thm.flagged = (if sensorState 1 u k s = 0 then satAdd 16 s.thm.flagged 1 else s.thm.flagged) ∧ t.mem = s.mem ∧
      t.cores = s.cores ∧ t.frm = s.frm ∧ t.pwr = s.pwr ∧ t.clk = s.clk) ∧
  (∀ (s : State) (u k : Nat), s.powered = true → s.thm.started = true → u < 4 → k < 16 → s.thm.sills.length = 4 →
      bit (nth {} s.thm.sills u).failed k = false → ∃ t, exec (.sensorFail 2 u k) s = .next t ∧
      bit (nth {} t.thm.sills u).failed k = true ∧ nth 0 (nth {} t.thm.sills u).readings k = 0 ∧
      (∀ j, j ≠ u → nth {} t.thm.sills j = nth {} s.thm.sills j) ∧ t.thm.regions = s.thm.regions ∧
      t.thm.mems = s.thm.mems ∧ t.mem = s.mem ∧ t.cores = s.cores ∧ t.frm = s.frm ∧ t.pwr = s.pwr ∧ t.clk = s.clk) ∧
  (∀ (s : State), s.powered = true → s.thm.started = true → s.thm.inletFailed = false → ∃ t,
      exec (.sensorFail 3 0 0) s = .next t ∧
      t.thm = { s.thm with inletFailed := true, inlet := 0, flagged := satAdd 16 s.thm.flagged 1 } ∧ t.mem = s.mem ∧
      t.cores = s.cores ∧ t.frm = s.frm ∧ t.pwr = s.pwr ∧ t.clk = s.clk) ∧
  (∀ (s : State) (c u k : Nat), c < 2 ∧ u < 512 ∧ k < 2 ∨ c = 2 ∧ u < 4 ∧ k < 16 ∨ c = 3 ∧ u = 0 ∧ k = 0 →
      s.powered = false ∨ s.thm.started = false ∨ sensorState c u k s = 2 → exec (.sensorFail c u k) s = .next s) ∧
  (∀ (s : State) (u : Nat), s.powered = true → s.thm.started = true → u < 512 → (s.pairOf u).held = true →
      heldFor (s.pairOf u).coolSince s.frm.tc tcMs = true →
      exec (.holdRelease 0 u) s = .next (setPair u (fun p => { p with held := false }) s)) ∧
  (∀ (s : State) (u : Nat), s.powered = true → s.thm.started = true → u < 512 → (s.memPairOf u).held = true →
      heldFor (s.memPairOf u).coolSince s.frm.tc tcMs = true →
      exec (.holdRelease 1 u) s = .next (setMemPair u (fun p => { p with held := false }) s)) ∧
  (∀ (s : State) (u : Nat), s.powered = true → s.thm.started = true → u < 4 → (nth {} s.thm.sills u).held = true →
      heldFor (nth {} s.thm.sills u).coolSince s.frm.tc tcMs = true →
      exec (.holdRelease 2 u) s = .next (setSill u (fun h => { h with held := false }) s)) ∧
  (∀ (s : State) (u : Nat), u < 4 → s.powered = false ∨ s.thm.started = false ∨
      heldFor (s.pairOf u).coolSince s.frm.tc tcMs = false ∧ heldFor (s.memPairOf u).coolSince s.frm.tc tcMs = false ∧
      heldFor (nth {} s.thm.sills u).coolSince s.frm.tc tcMs = false → exec (.holdRelease 0 u) s = .next s ∧
      exec (.holdRelease 1 u) s = .next s ∧ exec (.holdRelease 2 u) s = .next s) ∧
  (∀ (s : State) (r mw : Nat), s.powered = true → s.thm.started = true → r < 512 → ∃ t,
      exec (.modelUpdate [(r, mw)]) s = .next t ∧
      (t.pairOf r).model = clampTo 12 (s.boundTemp r + mapGet 0 s.fuses.theta r * (mw * s.pwr.k / 4096) / 2000) ∧
      (t.pairOf r).a = (s.pairOf r).a ∧ (t.pairOf r).b = (s.pairOf r).b ∧
      (t.pairOf r).held = ((s.pairOf r).held || decide (1648 < t.regionTemp r))) ∧
  (∀ (s : State) (l : List (Nat × Nat)), s.powered = true → s.thm.started = true → ∃ t,
      exec (.modelUpdate l) s = .next t ∧ (∀ q, (∀ e ∈ l, e.1 ≠ q) → t.pairOf q = s.pairOf q) ∧
      t.thm.mems = s.thm.mems ∧ t.thm.sills = s.thm.sills ∧ t.thm.inlet = s.thm.inlet ∧ t.mem = s.mem ∧
      t.cores = s.cores ∧ t.frm = s.frm ∧ t.pwr = s.pwr ∧ t.clk = s.clk) ∧
  (∀ (s : State) (l : List (Nat × Nat)), s.powered = false ∨ s.thm.started = false → exec (.modelUpdate l) s = .next s) ∧
  (∀ (s : State), s.powered = true → s.thm.started = true → s.thm.inletFailed = false →
      ¬ (800 ≤ s.pwr.avg1 ∧ steadyPower s.pwr.avg1 ((s.pwr.avg1 :: s.thm.powers).take 60) = true) → ∃ t,
      exec .coolingEstimate s = .next t ∧ t.thm.powers = (s.pwr.avg1 :: s.thm.powers).take 60 ∧
      t.thm.theta = s.thm.theta ∧ t.thm.base = s.thm.base ∧ t.thm.recent = s.thm.recent ∧ t.thm.qualS = s.thm.qualS ∧
      t.thm.regions = s.thm.regions ∧ t.thm.mems = s.thm.mems ∧ t.mem = s.mem ∧ t.cores = s.cores ∧ t.frm = s.frm ∧
      t.pwr = s.pwr ∧ t.clk = s.clk) ∧
  (∀ (s : State), s.powered = true → s.thm.started = true → s.thm.inletFailed = false → 800 ≤ s.pwr.avg1 →
      steadyPower s.pwr.avg1 ((s.pwr.avg1 :: s.thm.powers).take 60) = true → ∃ t, exec .coolingEstimate s = .next t ∧
      t.thm.recent = (coolResistance s.topTemp s.thm.inlet s.pwr.avg1 :: s.thm.recent).take 600 ∧
      t.thm.theta = clampTo 16 (meanOf t.thm.recent) ∧ t.thm.qualS = satAdd 20 s.thm.qualS 1 ∧
      t.thm.base = (if s.thm.base = 0 ∧ t.thm.qualS = 600 ∧ t.thm.theta ≠ 0 then t.thm.theta else s.thm.base) ∧
      t.thm.regions = s.thm.regions ∧ t.mem = s.mem ∧ t.cores = s.cores ∧ t.frm = s.frm ∧ t.pwr = s.pwr ∧ t.clk = s.clk) ∧
  (∀ (s : State), s.powered = false ∨ s.thm.started = false ∨ s.thm.inletFailed = true →
      exec .coolingEstimate s = .next s)

/-- EVT_ENABLE of a disabled ring with an address and a size of 2^6 to 2^16 records starts it at slot 0 with phase 1,
and what was held back goes out. With no address or another size it is refused with 0x0123, and so is a vector above
63, and in HALTED either is refused with 0x0120. EVT_DISABLE clears enable and takes the other fields.
EVT_HEAD_WRITE moves the head forward to at most the tail; beyond the ring or the tail it is refused with 0x0123. An
event, here that of an aged laser, takes the next sequence number; its 64 bytes go to the slot at the tail where the
ring is open, the tail moves on and the phase turns at slot 0; else it is held back. The coalescing timer signals
what is not signalled, and before its time does nothing. REPORT_DONE writes the report's slot, its first 8 bytes
last, and shows its frame; while the host cannot be written it waits. -/
def Obligations.EventsAndReports : Prop :=
  (∀ (s : State) (vec n us sev : Nat), s.hostUp = true → s.kpr.state ≠ .halted → vec < 64 → n < 256 → us < 65536 →
      sev < 4 → s.evt.enable = false → 6 ≤ s.evt.sizeLog2 → s.evt.sizeLog2 ≤ 16 → s.evt.ringAddr ≠ 0 →
      exec (.evtEnable (vec * 2 ^ 40 + n * 2 ^ 32 + us * 2 ^ 16 + sev)) s = .next
        (flushEvents { s with evt := { s.evt with enable := true, vector := vec, coalN := n, coalUs := us, minSev := sev, tail := 0, head := 0, phase := true } })) ∧
  (∀ (s : State) (vec n us sev : Nat), s.hostUp = true → s.kpr.state ≠ .halted → vec < 64 → n < 256 → us < 65536 →
      sev < 4 → s.evt.enable = false → 6 ≤ s.evt.sizeLog2 → s.evt.sizeLog2 ≤ 16 → s.evt.ringAddr ≠ 0 → s.evt.hold = [] →
      exec (.evtEnable (vec * 2 ^ 40 + n * 2 ^ 32 + us * 2 ^ 16 + sev)) s = .next
        { s with evt := { s.evt with enable := true, vector := vec, coalN := n, coalUs := us, minSev := sev, tail := 0, head := 0, phase := true, hold := [] } }) ∧
  (∀ (s : State) (vec n us sev : Nat), s.hostUp = true → s.kpr.state ≠ .halted → vec < 64 → n < 256 → us < 65536 →
      sev < 4 → s.evt.enable = false → s.evt.sizeLog2 < 6 ∨ 16 < s.evt.sizeLog2 ∨ s.evt.ringAddr = 0 →
      exec (.evtEnable (vec * 2 ^ 40 + n * 2 ^ 32 + us * 2 ^ 16 + sev)) s = .next
        (refuse 0x100008 ((vec * 2 ^ 40 + n * 2 ^ 32 + us * 2 ^ 16 + sev) + 2 ^ 63) 0x0123 s)) ∧
  (∀ (s : State) (vec n us sev : Nat), s.hostUp = true → s.kpr.state ≠ .halted → 64 ≤ vec → vec < 256 → n < 256 →
      us < 65536 → sev < 4 →
      exec (.evtEnable (vec * 2 ^ 40 + n * 2 ^ 32 + us * 2 ^ 16 + sev)) s = .next
        (refuse 0x100008 ((vec * 2 ^ 40 + n * 2 ^ 32 + us * 2 ^ 16 + sev) + 2 ^ 63) 0x0123 s) ∧
      exec (.evtDisable (vec * 2 ^ 40 + n * 2 ^ 32 + us * 2 ^ 16 + sev)) s = .next
        (refuse 0x100008 (vec * 2 ^ 40 + n * 2 ^ 32 + us * 2 ^ 16 + sev) 0x0123 s)) ∧
  (∀ (s : State) (vec n us sev : Nat), s.hostUp = true → s.kpr.state = .halted → vec < 64 → n < 256 → us < 65536 →
      sev < 4 →
      exec (.evtEnable (vec * 2 ^ 40 + n * 2 ^ 32 + us * 2 ^ 16 + sev)) s = .next
        (refuse 0x100008 ((vec * 2 ^ 40 + n * 2 ^ 32 + us * 2 ^ 16 + sev) + 2 ^ 63) 0x0120 s) ∧
      exec (.evtDisable (vec * 2 ^ 40 + n * 2 ^ 32 + us * 2 ^ 16 + sev)) s = .next
        (refuse 0x100008 (vec * 2 ^ 40 + n * 2 ^ 32 + us * 2 ^ 16 + sev) 0x0120 s)) ∧
  (∀ (s : State) (vec n us sev : Nat), s.hostUp = true → s.kpr.state ≠ .halted → vec < 64 → n < 256 → us < 65536 →
      sev < 4 → s.evt.enable = true →
      exec (.evtEnable (vec * 2 ^ 40 + n * 2 ^ 32 + us * 2 ^ 16 + sev)) s = .next
        { s with evt := { s.evt with enable := true, vector := vec, coalN := n, coalUs := us, minSev := sev } }) ∧
  (∀ (s : State) (vec n us sev : Nat), s.hostUp = true → s.kpr.state ≠ .halted → vec < 64 → n < 256 → us < 65536 →
      sev < 4 →
      exec (.evtDisable (vec * 2 ^ 40 + n * 2 ^ 32 + us * 2 ^ 16 + sev)) s = .next
        { s with evt := { s.evt with enable := false, vector := vec, coalN := n, coalUs := us, minSev := sev } }) ∧
  (∀ (s : State) (v : Nat), s.hostUp = true → s.kpr.state ≠ .halted → v < 65536 → v < s.ringSize →
      s.evt.head < s.ringSize → s.evt.tail < s.ringSize →
      (v + s.ringSize - s.evt.head) % s.ringSize ≤ (s.evt.tail + s.ringSize - s.evt.head) % s.ringSize →
      exec (.evtHeadWrite v) s = .next (flushEvents { s with evt := { s.evt with head := v } })) ∧
  (∀ (s : State) (v : Nat), s.hostUp = true → s.kpr.state ≠ .halted → v < 65536 → s.ringSize ≤ v ∨
      s.evt.head ≤ s.evt.tail ∧ s.evt.tail < v ∧ s.evt.tail < s.ringSize →
      exec (.evtHeadWrite v) s = .next (refuse 0x100010 v 0x0123 s)) ∧
  (∀ (s : State), 0 < s.evt.unsignalled → 0 < s.evt.coalUs → s.evt.unsignalledAt + s.evt.coalUs * tcUs ≤ s.frm.tc →
      exec .evtCoalesceTimeout s = .next (signalMsix s.evt.vector { s with evt := { s.evt with unsignalled := 0 } })) ∧
  (∀ (s : State), s.evt.unsignalled = 0 ∨ s.evt.coalUs = 0 ∨ s.frm.tc < s.evt.unsignalledAt + s.evt.coalUs * tcUs →
      exec .evtCoalesceTimeout s = .next s) ∧
  (∀ (s : State) (k w : Nat), k < 4 → w < 16 → s.powered = true → (nth {} s.lnk.carts k).present = true →
      bit (nth {} s.lnk.carts k).aged w = false → s.evt.minSev = 0 → s.evt.hold = [] → s.ringOpen = true → ∃ t,
      exec (.laserAged k w) s = .next t ∧ t.evt.nextSeq = s.evt.nextSeq + 1 ∧
      t.evt.tail = (s.evt.tail + 1) % s.ringSize ∧
      t.evt.phase = (if t.evt.tail = 0 then !s.evt.phase else s.evt.phase) ∧ t.evt.written = satAdd 32 s.evt.written 1 ∧
      t.evt.head = s.evt.head ∧ t.evt.hold = [] ∧ t.evt.lostFlag = false ∧
      t.hostMem = memPutBytes (memPutBytes s.hostMem (s.evt.ringAddr * 4096 + 64 * s.evt.tail + 16) (leBytes 4 (s.evt.nextSeq % 2 ^ 32) ++ leBytes 2 0 ++ [0,
        0] ++ leBytes 4 k ++ leBytes 4 0 ++ (leBytes 4 w ++ leBytes 4 4 ++ List.replicate 24 0))) (s.evt.ringAddr * 4096 + 64 * s.evt.tail) (leBytes 8 s.frm.tc ++ leBytes 4 (s.frm.count % 2 ^ 32) ++ leBytes 2 0x0041 ++ [0,
        b2n s.evt.phase + 2 * b2n s.evt.lostFlag])) ∧
  (∀ (s : State) (k w : Nat), k < 4 → w < 16 → s.powered = true → (nth {} s.lnk.carts k).present = true →
      bit (nth {} s.lnk.carts k).aged w = false → s.evt.minSev = 0 → s.evt.hold = [] → s.ringOpen = false → ∃ t,
      exec (.laserAged k w) s = .next t ∧ t.evt.nextSeq = s.evt.nextSeq + 1 ∧ t.evt.tail = s.evt.tail ∧
      t.evt.hold.length = 1 ∧
      (t.evt.hold.map (fun r => (r.kind, r.unit, r.seq))) = [(0x0041, k, s.evt.nextSeq % 2 ^ 32)] ∧
      t.hostMem = s.hostMem) ∧
  (∀ (s : State) (r : ReportRun), s.evt.running = some r → s.hif.bme = true → s.kpr.state ≠ .halted →
      exec .reportDone s = .next
        (if r.signal then signalMsix r.vector { s with hostMem := memPutBytes (memPutBytes s.hostMem (r.addr + 8) r.bytes) r.addr (leBytes 8 r.frame), evt := { s.evt with running := none, repLast := r.frame % 2 ^ 32, repTruncated := if r.truncated then satAdd 16 s.evt.repTruncated 1 else s.evt.repTruncated } } else { s with hostMem := memPutBytes (memPutBytes s.hostMem (r.addr + 8) r.bytes) r.addr (leBytes 8 r.frame), evt := { s.evt with running := none, repLast := r.frame % 2 ^ 32, repTruncated := if r.truncated then satAdd 16 s.evt.repTruncated 1 else s.evt.repTruncated } })) ∧
  (∀ (s : State), s.evt.running = none ∨ s.hif.bme = false ∨ s.kpr.state = .halted → exec .reportDone s = .next s)

/-- While the bus is live, Set Endpoint ID keeps the ID and Get Endpoint ID answers it; message types are answered, UUID
and versions with free values, and an unknown control command as unsupported; a receiver that polls collects what
waits for it first. A sensor answers its value, six of them in every state, the others in ROM and HALTED as
unavailable, and a number that is no sensor has none. Effecters 1 and 2 set the caps under the rules of the host's
writes, and other numbers nothing. SET_EVENT_RECEIVER keeps the receiver and drops what waited. On a bus that is not
live nothing happens. The I3C address is kept. DBG_CS_READ answers the word of the selected core's store while the
device is unlocked, and 0 otherwise; on a parity error it answers 0 and notes it; in D3hot it is unsupported. The
message layouts are presumed from the MCTP and PLDM specifications (log 16). -/
def Obligations.ManagementEndpoint : Prop :=
  (∀ (s : State) (bus eid : Nat), bus < 3 → s.busLive bus = true → eid < 256 → bus ≠ 0 ∨ s.tel.polls = false →
      exec (.mctpControlMessage bus 1 [0, eid]) s = .next (emit (.mctp [1, 0, 0, eid,
        0]) { s with tel := { s.tel with eid := eid } }) ∧
      exec (.mctpControlMessage bus 2 []) s = .next (emit (.mctp [2, 0, s.tel.eid, 0, 0]) s) ∧
      exec (.mctpControlMessage bus 5 []) s = .next (emit (.mctp [5, 0, 2, 0, 1]) s)) ∧
  (∀ (s : State) (bus : Nat), bus < 3 → s.busLive bus = true → bus ≠ 0 ∨ s.tel.polls = false → ∃ a b,
      exec (.mctpControlMessage bus 3 []) s = .next (emit (.mctp a) (useFresh s)) ∧
      exec (.mctpControlMessage bus 4 []) s = .next (emit (.mctp b) (useFresh s)) ∧ a.length = 18 ∧ b.length = 7) ∧
  (∀ (s : State) (bus cmd : Nat) (d : List Nat), bus < 3 → s.busLive bus = true → cmd % 256 = 0 ∨ 6 ≤ cmd % 256 →
      bus ≠ 0 ∨ s.tel.polls = false → exec (.mctpControlMessage bus cmd d) s = .next (emit (.mctp [cmd % 256, 5]) s)) ∧
  (∀ (s : State), s.busLive 0 = true → s.tel.polls = true → ∃ t, exec (.mctpControlMessage 0 2 []) s = .next t ∧
      t.out = .mctp [2, 0, s.tel.eid, 0, 0] :: (s.tel.waiting.reverse.map (fun e => Output.pem e.1 e.2) ++ s.out) ∧
      t = { s with tel := { s.tel with waiting := [], alert := false }, out := t.out }) ∧
  (∀ (s : State) (bus cmd id c : Nat) (d : List Nat) (r : Option Nat) (p : Bool), bus < 3 → s.busLive bus = false →
      exec (.mctpControlMessage bus cmd d) s = .next s ∧ exec (.getSensorReading bus id) s = .next s ∧
      exec (.setNumericEffecterValue bus id c) s = .next s ∧ exec (.setEventReceiver bus r p) s = .next s) ∧
  (∀ (s : State) (bus : Nat), bus < 3 → s.busLive bus = true →
      exec (.getSensorReading bus 1) s = .next (emit (.reading 1 (some (s.sup.power : Nat))) s) ∧
      exec (.getSensorReading bus 2) s = .next (emit (.reading 2 (some (s.sup.voltage : Nat))) s) ∧
      exec (.getSensorReading bus 3) s = .next (emit (.reading 3 (some (s.pwr.avg1 : Nat))) s) ∧
      exec (.getSensorReading bus 4) s = .next (emit (.reading 4 (some (s.pwr.avg8 : Nat))) s) ∧
      exec (.getSensorReading bus 8) s = .next (emit (.reading 8 (some (s.thm.inlet : Nat))) s) ∧
      exec (.getSensorReading bus 10) s = .next (emit (.reading 10 (some (s.kpr.state.code : Nat))) s)) ∧
  (∀ (s : State) (bus id : Nat), bus < 3 → s.busLive bus = true → id % 65536 = 0 ∨ 13 < id % 65536 ∨
      id % 65536 ∈ [5, 6, 7, 9, 11, 12, 13] ∧ s.inStates [.rom, .halted] = true →
      exec (.getSensorReading bus id) s = .next (emit (.reading (id % 65536) none) s)) ∧
  (∀ (s : State) (bus : Nat), bus < 3 → s.busLive bus = true → s.inStates [.rom, .halted] = false →
      exec (.getSensorReading bus 5) s = .next (emit (.reading 5 (some (s.hottestRegion : Nat))) s) ∧
      exec (.getSensorReading bus 6) s = .next (emit (.reading 6 (some (s.hottestMem : Nat))) s) ∧
      exec (.getSensorReading bus 7) s = .next (emit (.reading 7 (some (s.coolRatio : Nat))) s) ∧
      exec (.getSensorReading bus 9) s = .next
        (emit (.reading 9 (some (if s.flp.valid then s.goodPanes else 0 : Nat))) s) ∧
      exec (.getSensorReading bus 11) s = .next (emit (.reading 11 (some (popcount 32 s.linksUp : Nat))) s) ∧
      exec (.getSensorReading bus 12) s = .next (emit (.reading 12 (some (s.mem.corrected : Nat))) s) ∧
      exec (.getSensorReading bus 13) s = .next (emit (.reading 13 (some (s.req.tokens : Nat))) s)) ∧
  (∀ (s : State) (bus c : Nat), bus < 3 → s.busLive bus = true → s.keeperUp = true → s.inStates capStates = true →
      c ≤ 1600 → s.pwr.cap8 ≤ c → 600 ≤ s.pwr.cap8 →
      exec (.setNumericEffecterValue bus 1 c) s = .next { s with pwr := { s.pwr with cap1 := c } }) ∧
  (∀ (s : State) (bus c : Nat), bus < 3 → s.busLive bus = true → s.keeperUp = true → s.inStates capStates = true →
      600 ≤ c → c ≤ s.pwr.cap1 → s.pwr.cap1 ≤ 1600 →
      exec (.setNumericEffecterValue bus 2 c) s = .next { s with pwr := { s.pwr with cap8 := c } }) ∧
  (∀ (s : State) (bus c : Nat), bus < 3 → s.busLive bus = true → s.keeperUp = true → s.inStates capStates = false →
      c < 65536 → exec (.setNumericEffecterValue bus 1 c) s = .next (refuse (capOff 0) c 0x0120 s) ∧
      exec (.setNumericEffecterValue bus 2 c) s = .next (refuse (capOff 1) c 0x0120 s)) ∧
  (∀ (s : State) (bus id c : Nat), bus < 3 → s.busLive bus = true → id ≠ 1 → id ≠ 2 →
      exec (.setNumericEffecterValue bus id c) s = .next s) ∧
  (∀ (s : State) (bus : Nat) (r : Option Nat) (p : Bool), bus < 3 → s.busLive bus = true →
      exec (.setEventReceiver bus r p) s = .next
        { s with tel := { s.tel with receiver := r.map (fun e => e % 256), polls := p && r.isSome, waiting := [], alert := false } }) ∧
  (∀ (s : State) (a : Nat), s.kpr.railsUp = true →
      exec (.i3cDynamicAddress a) s = .next { s with tel := { s.tel with i3c := some (a % 128) } }) ∧
  (∀ (s : State) (a : Nat), s.kpr.railsUp = false → exec (.i3cDynamicAddress a) s = .next s) ∧
  (∀ (s : State) (k : Nat) (p : Bool), k < 512 → s.hostUp = true → s.dbgOpen = false →
      exec (.dbgCsRead k p) s = .next (emit (.data (leBytes 8 0)) s)) ∧
  (∀ (s : State) (k : Nat), k < 512 → s.hostUp = true → s.dbgOpen = true → s.csReadable = true →
      exec (.dbgCsRead k false) s = .next
        (emit (.data (leBytes 8 (leNat (s.storeBytes s.dbg.core (s.dbg.csBase * 32 + 8 * k) 8)))) s)) ∧
  (∀ (s : State) (k : Nat) (p : Bool), k < 512 → s.hostUp = true → s.dbgOpen = true → s.csReadable = false →
      exec (.dbgCsRead k p) s = .next (emit (.data (leBytes 8 0)) s)) ∧
  (∀ (s : State) (k : Nat), k < 512 → s.hostUp = true → s.dbgOpen = true → s.csReadable = true →
      exec (.dbgCsRead k true) s = .next
        (emit (.data (leBytes 8 0)) { s with dbg := { s.dbg with paritySeen := true } })) ∧
  (∀ (s : State) (k : Nat) (p : Bool), k < 512 → s.keeperUp = true → s.hif.d3hot = true →
      exec (.dbgCsRead k p) s = .next (emit .unsupportedRequest s)) ∧
  (∀ (s : State) (k : Nat) (p : Bool), k < 512 → s.keeperUp = false → exec (.dbgCsRead k p) s = .next s)

/-- In RUNNING with FRM.NEXT.arm at 1: every 64-bit write to FRM.LATCH, and every write to FRM.NEXT that leaves arm at 1
(with a period and no reserved bit), is ignored with 0x0135. A write to FRM.NEXT with arm = 0 before the plan point
of the latch clears arm and ignores the period field; at or after that plan point it is ignored with 0x0135.
PERIOD_ARM and PERIOD_WITHDRAW are those writes. -/
def Obligations.PendingPeriodIsFixed : Prop :=
  (∀ (s : State) (v : Nat), s.hostUp = true → s.kpr.state = .running → s.frm.nextArm = true → v < 2 ^ 64 →
      exec (.registerWrite 0x300030 8 v) s = .next (refuse 0x300030 v 0x0135 s)) ∧
  (∀ (s : State) (p : Nat), s.hostUp = true → s.kpr.state = .running → s.frm.nextArm = true → p < 2 ^ 27 →
      exec (.registerWrite 0x300038 8 (2 ^ 63 + p)) s = .next (refuse 0x300038 (2 ^ 63 + p) 0x0135 s) ∧
      exec (.periodArm p) s = .next (refuse 0x300038 (2 ^ 63 + p) 0x0135 s)) ∧
  (∀ (s : State) (p : Nat), s.hostUp = true → s.kpr.state = .running → s.frm.nextArm = true → p < 2 ^ 27 →
      s.frm.tc + s.frm.planLead < s.frm.latch →
      exec (.registerWrite 0x300038 8 p) s = .next { s with frm := { s.frm with nextArm := false } } ∧
      exec (.periodWithdraw p) s = .next { s with frm := { s.frm with nextArm := false } }) ∧
  (∀ (s : State) (p : Nat), s.hostUp = true → s.kpr.state = .running → s.frm.nextArm = true → p < 2 ^ 27 →
      s.frm.latch ≤ s.frm.tc + s.frm.planLead →
      exec (.registerWrite 0x300038 8 p) s = .next (refuse 0x300038 p 0x0135 s) ∧
      exec (.periodWithdraw p) s = .next (refuse 0x300038 p 0x0135 s))

/-- While BAR4 decodes: a write of 4 or 8 bytes at q × 0x1000 with an index inside an enabled queue sets its SQ tail,
and one at q × 0x1000 + 8 that releases what the queue has used sets its CQ head. A write at any other offset
changes nothing at all, so it raises no event. A read at any offset returns 0. -/
def Obligations.OnlyDoorbellsAreWritten : Prop :=
  (∀ (s : State) (q w v : Nat), s.bar4Live = true → q < 256 → w = 4 ∨ w = 8 → (s.qpOf q).enable = true →
      v % 4096 < (s.qpOf q).size → ∃ t, exec (.sqTailDoorbell (4096 * q) w v) s = .next t ∧
      t = setQp q (fun p => { p with sqTail := v % 4096, fetchFailed := if p.fetchFailed = 3 then 0 else p.fetchFailed }) s ∧
      (t.qpOf q).sqTail = v % 4096) ∧
  (∀ (s : State) (q w v : Nat), s.bar4Live = true → q < 256 → w = 4 ∨ w = 8 → (s.qpOf q).enable = true →
      v % 4096 < (s.qpOf q).size →
      (v % 4096 + (s.qpOf q).size - (s.qpOf q).cqHead) % (s.qpOf q).size ≤ (s.qpOf q).usedSlots → (s.qpOf q).held = [] →
      (s.qpOf q).parked = [] → ∃ t, exec (.cqHeadDoorbell (4096 * q + 8) w v) s = .next t ∧
      (t.qpOf q) = { s.qpOf q with cqHead := v % 4096 }) ∧
  (∀ (s : State) (off w v : Nat), off % 4096 ≠ 0 → off % 4096 ≠ 8 → exec (.sqTailDoorbell off w v) s = .next s ∧
      exec (.cqHeadDoorbell off w v) s = .next s) ∧
  (∀ (s : State), s.bar4Live = true → s.readBar4 = some 0)

/-- TO_DEVICE in READY, RUNNING or SUSPENDED on a committed window with owner 0 sets owner 2, and TO_HOST on one with
owner 1 sets owner 3; nothing else changes. In another state, on a window that is not committed or has another
owner, each is ignored with 0x0120, and so is a write that sets both bits or would change striped of a committed
window. While the owner reads 2 a CXL.mem read still answers with the bytes of memory, and while it reads 3 with
poison; a CXL.mem write that arrives during either is discarded (Table 13.10). Uncommitting a decoder that is not
locked ends its window and nothing else, and committing the same range again gives a host-owned window. -/
def Obligations.HandOversAreCommands : Prop :=
  (∀ (s : State) (i k : Nat), i < 4 → s.hif.win.length = 4 → s.hostUp = true → k < 4 →
      s.inStates [.ready, .running, .suspended] = true → (s.window i).committed = true → (s.window i).owner = 0 →
      exec (.toDevice i (256 * b2n (s.window i).striped + k)) s = .next (setWin i (fun w => { w with owner := 2 }) s)) ∧
  (∀ (s : State) (i k : Nat), i < 4 → s.hif.win.length = 4 → s.hostUp = true → k < 4 →
      s.inStates [.ready, .running, .suspended] = true → (s.window i).committed = true → (s.window i).owner = 1 →
      exec (.toHost i (256 * b2n (s.window i).striped + k)) s = .next (setWin i (fun w => { w with owner := 3 }) s)) ∧
  (∀ (s : State) (i : Nat), i < 4 → s.hif.win.length = 4 → s.hostUp = true →
      s.inStates [.ready, .running, .suspended] = false ∨ (s.window i).committed = false ∨ (s.window i).owner ≠ 0 →
      exec (.toDevice i (256 * b2n (s.window i).striped)) s = .next
        (refuse (0x500100 + 8 * i) (256 * b2n (s.window i).striped + 1) 0x0120 s)) ∧
  (∀ (s : State) (i : Nat), i < 4 → s.hif.win.length = 4 → s.hostUp = true →
      s.inStates [.ready, .running, .suspended] = false ∨ (s.window i).committed = false ∨ (s.window i).owner ≠ 1 →
      exec (.toHost i (256 * b2n (s.window i).striped)) s = .next
        (refuse (0x500100 + 8 * i) (256 * b2n (s.window i).striped + 2) 0x0120 s)) ∧
  (∀ (s : State) (i : Nat), i < 4 → s.hif.win.length = 4 → s.hostUp = true → (s.window i).committed = true →
      exec (.toDevice i (256 * b2n (!(s.window i).striped))) s = .next
        (refuse (0x500100 + 8 * i) (256 * b2n (!(s.window i).striped) + 1) 0x0120 s) ∧
      exec (.toHost i (256 * b2n (!(s.window i).striped))) s = .next
        (refuse (0x500100 + 8 * i) (256 * b2n (!(s.window i).striped) + 2) 0x0120 s)) ∧
  (∀ (s : State) (i : Nat), i < 4 → s.hif.win.length = 4 → s.hostUp = true →
      exec (.registerWrite (0x500100 + 8 * i) 8 (256 * b2n (s.window i).striped + 3)) s = .next
        (refuse (0x500100 + 8 * i) (256 * b2n (s.window i).striped + 3) 0x0120 s)) ∧
  (∀ (s : State) (i v : Nat), i < 4 → s.hostUp = false → exec (.toDevice i v) s = .next s ∧
      exec (.toHost i v) s = .next s) ∧
  (∀ (s s2 : State) (i hpa : Nat) (d : List Nat), s.kpr.state ≠ .halted → s.winAt (hpa / 64 * 64) = some i →
      (s.window i).owner = 2 → s.tileHolds (s.winAddr i (hpa / 64 * 64)) = false →
      readBytes { code := 4, source := 0, unit := some hostEndpoint } false (s.winAddr i (hpa / 64 * 64)) 64 s = (.data d,
        s2) →
      exec (.memrd hpa [] false) s = .next (emit (.data d) s2)) ∧
  (∀ (s : State) (i hpa : Nat), s.kpr.state ≠ .halted → s.winAt (hpa / 64 * 64) = some i → (s.window i).owner = 3 → ∃ t,
      exec (.memrd hpa [] false) s = .next t ∧ t.out = .poison :: s.out ∧ t.mem = s.mem ∧ t.hif.win = s.hif.win) ∧
  (∀ (s : State) (i hpa : Nat) (b : List Nat), s.kpr.state ≠ .halted → s.winAt (hpa / 64 * 64) = some i →
      (s.window i).owner = 2 ∨ (s.window i).owner = 3 → ∃ t, exec (.memwr hpa b false false) s = .next t ∧
      t.mem = s.mem ∧ t.hif.win = s.hif.win ∧ t.hif.ownedDiscards = satAdd 12 s.hif.ownedDiscards 1) ∧
  (∀ (s : State) (i : Nat), i < 4 → s.powered = true → (s.window i).committed = true → (s.window i).lock = false →
      exec (.hdmDecoderUncommit i) s = .next
        (setWin i (fun w => { w with committed := false, owner := 0, hpa := 0, dpa := 0, size := 0 }) s)) ∧
  (∀ (s : State) (i hpa dpa size : Nat), i < 4 → s.hif.win.length = 4 → hpa < 2 ^ 64 → dpa < 2 ^ 64 → size < 2 ^ 64 →
      s.powered = true → (s.window i).committed = false → s.canCommit i dpa size 1 = true → ∃ t,
      exec (.hdmDecoderCommit i hpa dpa size 1 false) s = .next t ∧ (t.window i).committed = true ∧
      (t.window i).owner = 0 ∧ (t.window i).dpa = dpa ∧ (∀ j, j ≠ i → t.window j = s.window j))

/-- For every 32 data bytes: the word with its four check bytes decodes to them. With any one of its 36 symbols changed
by any value the decoder gives the data back and names the symbol. With two different symbols changed it is
uncorrectable. -/
def Obligations.CodeWordsDecode : Prop :=
  (∀ (d : List Nat), d.length = 32 → d.all (fun b => decide (b < 256)) = true → rsDecode (d ++ rsCheck d) = .good d) ∧
  (∀ (d : List Nat) (i e : Nat), d.length = 32 → d.all (fun b => decide (b < 256)) = true → i < 36 → 0 < e → e < 256 →
      rsDecode (setNth (d ++ rsCheck d) i (Nat.xor (nth 0 (d ++ rsCheck d) i) e)) = .corrected d i) ∧
  (∀ (d : List Nat) (i e j f : Nat), d.length = 32 → d.all (fun b => decide (b < 256)) = true → i < j → j < 36 → 0 < e →
      e < 256 → 0 < f → f < 256 → ∃ x,
      rsDecode (setNth (setNth (d ++ rsCheck d) i (Nat.xor (nth 0 (d ++ rsCheck d) i) e)) j (Nat.xor (nth 0 (d ++ rsCheck d) j) f)) = .uncorrectable x)

/-- Where BAR2 decodes, a BAR2_WRITE of one whole code word at an aligned offset, with no staging lock, hole or fence
there, no stuck symbol in memory and no retraining of the tile, completes, and a BAR2_READ of that word in the state
it leaves answers with the bytes written and leaves memory as the write left it. A BAR2_READ of another word that
lies in no hole, fence or retraining tile and decodes without an error answers the same before and after the write. -/
def Obligations.WhatIsWrittenIsRead : Prop :=
  (∀ (s : State) (off : Nat) (d : List Nat), d.length = 32 → d.all (fun b => decide (b < 256)) = true →
      off + 32 ≤ 2 ^ 36 → off % 32 = 0 → s.bar2Live = true → s.mem.hard = [] → s.mem.dpBad = [] →
      s.tileHolds (s.hif.baseGib * 2 ^ 30 + off) = false → s.lockedIn (s.hif.baseGib * 2 ^ 30 + off) 1 = false →
      s.wordBlocked (s.hif.baseGib * 2 ^ 30 + off) = none → ∃ t u, exec (.bar2Write off d true false) s = .next t ∧
      exec (.bar2Read off 32 [] false) t = .next u ∧ u.out = .data d :: t.out ∧ u.mem.dram = t.mem.dram ∧
      t.mem.dram = memPutBytes s.mem.dram (s.hif.baseGib * 2 ^ 30 + off) d) ∧
  (∀ (s : State) (off away : Nat) (d e : List Nat), d.length = 32 → d.all (fun b => decide (b < 256)) = true →
      off + 32 ≤ 2 ^ 36 → off % 32 = 0 → away + 32 ≤ 2 ^ 36 → away % 32 = 0 → away ≠ off → s.bar2Live = true →
      s.mem.dpBad = [] → s.tileHolds (s.hif.baseGib * 2 ^ 30 + away) = false →
      s.wordBlocked (s.hif.baseGib * 2 ^ 30 + away) = none →
      rsDecode (s.codeWord (s.hif.baseGib * 2 ^ 30 + away)) = .good e → ∃ t u,
      exec (.bar2Write off d true false) s = .next t ∧ exec (.bar2Read away 32 [] false) t = .next u ∧
      u.out = .data e :: t.out ∧ u.mem.dram = t.mem.dram)
end

