-- ==== Sys2Proof/Laws/Maps.lean ====
section
/-! SUPPORT. The laws of the sparse maps and of memory: what a read gives after a write, and that every operation keeps
the canonical form. -/
namespace Sys2Proof.Machine

theorem mapGet_mapPut_same {α : Type} (d : α) (m : SMap α) (k : Nat) (v : α) : mapGet d (mapPut m k v) k = v := by
  induction m with
  | nil => simp [mapPut, mapGet]
  | cons e t ih =>
    obtain ⟨a, w⟩ := e
    simp only [mapPut]
    split
    · simp [mapGet]
    · split
      · simp [mapGet]
      · rename_i h1 h2
        simp [mapGet, Ne.symm h2, ih]

theorem mapGet_mapPut_other {α : Type} (d : α) (m : SMap α) {k j : Nat} (v : α) (h : j ≠ k) :
    mapGet d (mapPut m k v) j = mapGet d m j := by
  induction m with
  | nil => simp [mapPut, mapGet, Ne.symm h]
  | cons e t ih =>
    obtain ⟨a, w⟩ := e
    simp only [mapPut]
    split
    · simp [mapGet, Ne.symm h]
    · split
      · rename_i h1 h2
        subst h2
        simp [mapGet, Ne.symm h]
      · simp [mapGet, ih]

theorem mapGet_mapDel_same {α : Type} (d : α) (m : SMap α) (k : Nat) : mapGet d (mapDel m k) k = d := by
  induction m with
  | nil => rfl
  | cons e t ih =>
    obtain ⟨a, w⟩ := e
    by_cases h : a = k
    · subst h; simpa [mapDel] using ih
    · simpa [mapDel, h, mapGet] using ih

theorem mapGet_mapDel_other {α : Type} (d : α) (m : SMap α) {k j : Nat} (h : j ≠ k) :
    mapGet d (mapDel m k) j = mapGet d m j := by
  induction m with
  | nil => rfl
  | cons e t ih =>
    obtain ⟨a, w⟩ := e
    by_cases ha : a = k
    · subst ha; simpa [mapDel, mapGet, Ne.symm h] using ih
    · simp only [mapDel] at ih
      simp [mapDel, ha, mapGet, ih]

/-- A read after a write to the same key gives the value written. -/
@[simp] theorem mapGet_mapSet_same {α : Type} [DecidableEq α] (d : α) (m : SMap α) (k : Nat) (v : α) :
    mapGet d (mapSet d m k v) k = v := by
  unfold mapSet
  split
  · rename_i h; rw [mapGet_mapDel_same, h]
  · exact mapGet_mapPut_same d m k v

/-- A write leaves every other key alone. -/
theorem mapGet_mapSet_other {α : Type} [DecidableEq α] (d : α) (m : SMap α) {k j : Nat} (v : α) (h : j ≠ k) :
    mapGet d (mapSet d m k v) j = mapGet d m j := by
  unfold mapSet
  split
  · exact mapGet_mapDel_other d m h
  · exact mapGet_mapPut_other d m v h

/-- Both at once. -/
theorem mapGet_mapSet {α : Type} [DecidableEq α] (d : α) (m : SMap α) (k j : Nat) (v : α) :
    mapGet d (mapSet d m k v) j = if j = k then v else mapGet d m j := by
  split
  · rename_i h; subst h; exact mapGet_mapSet_same d m _ v
  · rename_i h; exact mapGet_mapSet_other d m v h

@[simp] theorem mapGet_mapMod_same {α : Type} [DecidableEq α] (d : α) (m : SMap α) (k : Nat) (f : α → α) :
    mapGet d (mapMod d m k f) k = f (mapGet d m k) := mapGet_mapSet_same d m k _

theorem mapGet_mapMod_other {α : Type} [DecidableEq α] (d : α) (m : SMap α) {k j : Nat} (f : α → α) (h : j ≠ k) :
    mapGet d (mapMod d m k f) j = mapGet d m j := mapGet_mapSet_other d m _ h

theorem mapGet_mapMod {α : Type} [DecidableEq α] (d : α) (m : SMap α) (k j : Nat) (f : α → α) :
    mapGet d (mapMod d m k f) j = if j = k then f (mapGet d m k) else mapGet d m j := mapGet_mapSet d m k j _

/-! ## The canonical form -/

theorem keysRising_tail {α : Type} {e : Nat × α} {t : SMap α} (h : keysRising (e :: t) = true) : keysRising t = true := by
  cases t with
  | nil => rfl
  | cons f t => obtain ⟨a, v⟩ := e; obtain ⟨b, w⟩ := f; simp [keysRising] at h; exact h.2

theorem keysRising_head {α : Type} {a : Nat} {v : α} {t : SMap α} (h : keysRising ((a, v) :: t) = true) :
    ∀ e ∈ t, a < e.1 := by
  induction t generalizing a v with
  | nil => simp
  | cons f t ih =>
    obtain ⟨b, w⟩ := f
    simp [keysRising] at h
    intro e he
    rcases List.mem_cons.1 he with rfl | he
    · exact h.1
    · exact Nat.lt_trans h.1 (ih h.2 e he)

theorem keysRising_cons {α : Type} {a : Nat} {v : α} {t : SMap α} (h : ∀ e ∈ t, a < e.1) (ht : keysRising t = true) :
    keysRising ((a, v) :: t) = true := by
  cases t with
  | nil => rfl
  | cons f t => obtain ⟨b, w⟩ := f; simp [keysRising, ht]; exact h (b, w) (by simp)

theorem keysRising_filter {α : Type} (p : Nat × α → Bool) {m : SMap α} (h : keysRising m = true) :
    keysRising (m.filter p) = true := by
  induction m with
  | nil => rfl
  | cons e t ih =>
    obtain ⟨a, v⟩ := e
    have ht := ih (keysRising_tail h)
    by_cases hp : p (a, v) = true
    · rw [List.filter_cons_of_pos hp]
      exact keysRising_cons (fun e he => keysRising_head h e (List.mem_filter.1 he).1) ht
    · rw [List.filter_cons_of_neg hp]; exact ht

theorem mem_mapPut {α : Type} {m : SMap α} {k : Nat} {v : α} {e : Nat × α} (h : e ∈ mapPut m k v) : e = (k, v) ∨ e ∈ m := by
  induction m with
  | nil => simpa [mapPut] using h
  | cons f t ih =>
    obtain ⟨a, w⟩ := f
    simp only [mapPut] at h
    split at h
    · simpa using h
    · split at h
      · rcases List.mem_cons.1 h with h | h
        · exact .inl h
        · exact .inr (List.mem_cons_of_mem _ h)
      · rcases List.mem_cons.1 h with h | h
        · exact .inr (by simp [h])
        · rcases ih h with h | h
          · exact .inl h
          · exact .inr (List.mem_cons_of_mem _ h)

theorem keysRising_mapPut {α : Type} {m : SMap α} (k : Nat) (v : α) (h : keysRising m = true) :
    keysRising (mapPut m k v) = true := by
  induction m with
  | nil => rfl
  | cons e t ih =>
    obtain ⟨a, w⟩ := e
    simp only [mapPut]
    split
    · rename_i hk
      refine keysRising_cons (fun e he => ?_) h
      rcases List.mem_cons.1 he with rfl | he
      · exact hk
      · exact Nat.lt_trans hk (keysRising_head h e he)
    · split
      · rename_i h1 h2
        subst h2
        exact keysRising_cons (keysRising_head h) (keysRising_tail h)
      · rename_i h1 h2
        refine keysRising_cons (fun e he => ?_) (ih (keysRising_tail h))
        rcases mem_mapPut he with rfl | he
        · show a < k
          omega
        · exact keysRising_head h e he

/-- A write keeps the canonical form. -/
theorem mapWf_mapSet {α : Type} [DecidableEq α] (d : α) {m : SMap α} (k : Nat) (v : α) (h : mapWf d m = true) :
    mapWf d (mapSet d m k v) = true := by
  simp only [mapWf, Bool.and_eq_true, List.all_eq_true, decide_eq_true_eq] at h ⊢
  unfold mapSet
  split
  · refine ⟨keysRising_filter _ h.1, fun e he => h.2 e (List.mem_filter.1 he).1⟩
  · rename_i hv
    refine ⟨keysRising_mapPut k v h.1, fun e he => ?_⟩
    rcases mem_mapPut he with rfl | he
    · exact hv
    · exact h.2 e he

theorem mapWf_mapMod {α : Type} [DecidableEq α] (d : α) {m : SMap α} (k : Nat) (f : α → α) (h : mapWf d m = true) :
    mapWf d (mapMod d m k f) = true := mapWf_mapSet d k _ h

theorem mapWf_filter {α : Type} [DecidableEq α] (d : α) (p : Nat × α → Bool) {m : SMap α} (h : mapWf d m = true) :
    mapWf d (m.filter p) = true := by
  simp only [mapWf, Bool.and_eq_true, List.all_eq_true, decide_eq_true_eq] at h ⊢
  exact ⟨keysRising_filter _ h.1, fun e he => h.2 e (List.mem_filter.1 he).1⟩

/-! ## Memory -/

@[simp] theorem memRead_memWrite_same (m : Memory) (a : Nat) (v : Byte) : memRead (memWrite m a v) a = v :=
  mapGet_mapSet_same 0 m a v

theorem memRead_memWrite_other (m : Memory) {a b : Nat} (v : Byte) (h : b ≠ a) : memRead (memWrite m a v) b = memRead m b :=
  mapGet_mapSet_other 0 m v h

/-- Writing consecutive bytes leaves every byte outside them alone. -/
theorem memRead_memPutBytes_other (m : Memory) (a : Nat) (l : List Nat) {b : Nat} (h : b < a ∨ a + l.length ≤ b) :
    memRead (memPutBytes m a l) b = memRead m b := by
  induction l generalizing m a with
  | nil => rfl
  | cons x t ih =>
    simp only [memPutBytes]
    simp only [List.length_cons] at h
    rw [ih _ _ (by omega), memRead_memWrite_other _ _ (by omega)]

/-- A byte inside consecutive bytes written reads as written. -/
theorem memRead_memPutBytes_same (m : Memory) (a : Nat) (l : List Nat) {i : Nat} (h : i < l.length) :
    memRead (memPutBytes m a l) (a + i) = BitVec.ofNat 8 l[i] := by
  induction l generalizing m a i with
  | nil => simp at h
  | cons x t ih =>
    simp only [memPutBytes]
    cases i with
    | zero => rw [memRead_memPutBytes_other _ _ _ (by omega)]; simp
    | succ i =>
      simp only [List.length_cons] at h
      have := ih (memWrite m a (BitVec.ofNat 8 x)) (a + 1) (i := i) (by omega)
      rw [show a + (i + 1) = a + 1 + i by omega, this]
      simp

theorem mapGet_filter {α : Type} (d : α) (m : SMap α) (p : Nat → Bool) (k : Nat) :
    mapGet d (m.filter (fun c => p c.1)) k = if p k then mapGet d m k else d := by
  induction m with
  | nil => simp [mapGet]
  | cons e t ih =>
    obtain ⟨a, w⟩ := e
    by_cases hp : p a = true
    · rw [List.filter_cons_of_pos (by simpa using hp)]
      by_cases hk : a = k
      · subst hk; simp [mapGet, hp]
      · simp [mapGet, hk, ih]
    · rw [List.filter_cons_of_neg (by simpa using hp), ih]
      by_cases hk : a = k
      · subst hk; simp [hp]
      · simp [mapGet, hk]

/-- Clearing a span makes its bytes read 0 and leaves the others alone. -/
theorem memRead_memClear (m : Memory) (a n b : Nat) :
    memRead (memClear m a n) b = if a ≤ b ∧ b < a + n then 0 else memRead m b := by
  have h := mapGet_filter (0 : Byte) m (fun x => decide (x < a) || decide (a + n ≤ x)) b
  have e : memRead (memClear m a n) b = mapGet 0 (m.filter (fun c => decide (c.1 < a) || decide (a + n ≤ c.1))) b := rfl
  rw [e, h]
  by_cases h1 : b < a
  · rw [if_pos (by simp [h1]), if_neg (by omega)]; rfl
  · by_cases h2 : a + n ≤ b
    · rw [if_pos (by simp [h2]), if_neg (by omega)]; rfl
    · rw [if_neg (by simp [h1, h2]), if_pos (by omega)]

theorem wf_memWrite {m : Memory} (a : Nat) (v : Byte) (h : m.wf = true) : (memWrite m a v).wf = true := mapWf_mapSet 0 a v h

theorem wf_memPutBytes {m : Memory} (a : Nat) (l : List Nat) (h : m.wf = true) : (memPutBytes m a l).wf = true := by
  induction l generalizing m a with
  | nil => exact h
  | cons x t ih => exact ih (a + 1) (wf_memWrite a _ h)

theorem wf_memClear {m : Memory} (a n : Nat) (h : m.wf = true) : (memClear m a n).wf = true := mapWf_filter 0 _ h

theorem wf_foldl_memClear {α : Type} (l : List α) (f : α → Nat) (g : α → Nat) {m : Memory} (h : m.wf = true) :
    (l.foldl (fun m n => memClear m (f n) (g n)) m).wf = true := by
  induction l generalizing m with
  | nil => exact h
  | cons x t ih => exact ih (wf_memClear _ _ h)

theorem wf_foldl_memPutBytes {α : Type} (l : List α) (f : α → Nat) (g : α → List Nat) {m : Memory} (h : m.wf = true) :
    (l.foldl (fun m e => memPutBytes m (f e) (g e)) m).wf = true := by
  induction l generalizing m with
  | nil => exact h
  | cons x t ih => exact ih (wf_memPutBytes _ _ h)

end Sys2Proof.Machine
end

