-- ==== Sys2Proof/Laws/Keeps.lean ====
section
/-! SUPPORT. How `Keeps` is shown of an operation: each lemma passes it through one construction. -/
namespace Sys2Proof.Machine
set_option linter.all false
set_option Elab.async false

/-- What `memoryOk` says of the five memories. -/
theorem memoryOk_iff (s : State) : s.memoryOk = true ↔ s.mem.dram.wf = true ∧ s.mem.check.wf = true ∧
    s.cores.store.wf = true ∧ s.prt.block.wf = true ∧ s.hostMem.wf = true := by
  simp [State.memoryOk, and_assoc]

theorem Keeps.refl {u : Untouched} (s : State) : Keeps u s s where
  fuses := rfl
  pending := rfl
  memoryOk := id
  stacked _ := ⟨rfl, rfl⟩
  store _ := rfl
  protection _ := rfl
  reports _ := ⟨rfl, rfl, rfl, rfl⟩
  state _ := rfl
  tc _ := rfl
  cycle _ := rfl
  kpr _ := rfl
  flp _ := rfl
  hif _ := rfl
  dbg _ := rfl
  dev _ := rfl
  frm _ := rfl
  cores _ := rfl
  mem _ := rfl
  net _ := rfl
  bnk _ := rfl
  walkers _ := rfl
  req _ := rfl
  lnk _ := rfl
  clk _ := rfl
  pwr _ := rfl
  sup _ := rfl
  thm _ := rfl
  prt _ := rfl

/-- A part that is not promised. -/
theorem Keeps.free {b : Bool} {p : Prop} (h : b = false) : b = true → p := fun k => absurd (h.symm.trans k) (by decide)

theorem Keeps.trans {u : Untouched} {a b c : State} (h : Keeps u a b) (k : Keeps u b c) : Keeps u a c where
  fuses := k.fuses.trans h.fuses
  pending := k.pending.trans h.pending
  memoryOk x := k.memoryOk (h.memoryOk x)
  stacked x := ⟨(k.stacked x).1.trans (h.stacked x).1, (k.stacked x).2.trans (h.stacked x).2⟩
  store x := (k.store x).trans (h.store x)
  protection x := (k.protection x).trans (h.protection x)
  reports x := ⟨(k.reports x).1.trans (h.reports x).1, (k.reports x).2.1.trans (h.reports x).2.1, (k.reports x).2.2.1.trans (h.reports x).2.2.1, (k.reports x).2.2.2.trans (h.reports x).2.2.2⟩
  state x := (k.state x).trans (h.state x)
  tc x := (k.tc x).trans (h.tc x)
  cycle x := (k.cycle x).trans (h.cycle x)
  kpr x := (k.kpr x).trans (h.kpr x)
  flp x := (k.flp x).trans (h.flp x)
  hif x := (k.hif x).trans (h.hif x)
  dbg x := (k.dbg x).trans (h.dbg x)
  dev x := (k.dev x).trans (h.dev x)
  frm x := (k.frm x).trans (h.frm x)
  cores x := (k.cores x).trans (h.cores x)
  mem x := (k.mem x).trans (h.mem x)
  net x := (k.net x).trans (h.net x)
  bnk x := (k.bnk x).trans (h.bnk x)
  walkers x := (k.walkers x).trans (h.walkers x)
  req x := (k.req x).trans (h.req x)
  lnk x := (k.lnk x).trans (h.lnk x)
  clk x := (k.clk x).trans (h.clk x)
  pwr x := (k.pwr x).trans (h.pwr x)
  sup x := (k.sup x).trans (h.sup x)
  thm x := (k.thm x).trans (h.thm x)
  prt x := (k.prt x).trans (h.prt x)

/-- A state written out, under a name of its own: `Keeps.upd` applies to such a term and to no other. -/
def State.made (kpr : KprBlk) (fuses : Fuses) (flp : FlpBlk) (hif : HifBlk) (evt : EvtBlk) (tel : TelBlk) (dbg : DbgBlk) (dev : DevBlk)
    (frm : FrmBlk) (cores : CoresBlk) (mem : MemBlk) (net : NetBlk) (bnk : BnkBlk) (walkers : SMap Walker) (req : ReqBlk) (lnk : LnkBlk)
    (clk : ClkBlk) (pwr : PwrBlk) (sup : SupBlk) (thm : ThmBlk) (prt : PrtBlk) (pending : List Instr) (out : List Output) (fresh : Nat)
    (hostMem : Memory) : State :=
  State.mk kpr fuses flp hif evt tel dbg dev frm cores mem net bnk walkers req lnk clk pwr sup thm prt pending out fresh hostMem

theorem State.mk_made (kpr fuses flp hif evt tel dbg dev frm cores mem net bnk walkers req lnk clk pwr sup thm prt pending out fresh hostMem) :
    State.mk kpr fuses flp hif evt tel dbg dev frm cores mem net bnk walkers req lnk clk pwr sup thm prt pending out fresh hostMem =
      State.made kpr fuses flp hif evt tel dbg dev frm cores mem net bnk walkers req lnk clk pwr sup thm prt pending out fresh hostMem := rfl

/-- A record update: the parts it may change are those whose promise is not given; the memories stay canonical. -/
theorem Keeps.upd {u : Untouched} {s0 S : State} (h : Keeps u s0 S) {kpr flp hif evt tel dbg dev frm cores mem net bnk walkers req lnk
    clk pwr sup thm prt out fresh hostMem} (hc : S.cores.store.wf = true → cores.store.wf = true := by exact fun x => x)
    (hd : S.mem.dram.wf = true → mem.dram.wf = true := by exact fun x => x)
    (hk : S.mem.check.wf = true → mem.check.wf = true := by exact fun x => x)
    (hp : S.prt.block.wf = true → prt.block.wf = true := by exact fun x => x)
    (hh : S.hostMem.wf = true → hostMem.wf = true := by exact fun x => x)
    (e_stacked : u.stacked = true → mem.dram = S.mem.dram ∧ mem.check = S.mem.check :=
      by first | exact Keeps.free (by assumption) | exact fun _ => ⟨rfl, rfl⟩)
    (e_store : u.store = true → cores.store = S.cores.store :=
      by first | exact Keeps.free (by assumption) | exact fun _ => rfl)
    (e_protection : u.protection = true → prt.block = S.prt.block :=
      by first | exact Keeps.free (by assumption) | exact fun _ => rfl)
    (e_reports : u.reports = true → evt = S.evt ∧ tel = S.tel ∧ hif.pba = S.hif.pba ∧ hostMem = S.hostMem :=
      by first | exact Keeps.free (by assumption) | exact fun _ => ⟨rfl, rfl, rfl, rfl⟩)
    (e_state : u.state = true → kpr.state = S.kpr.state :=
      by first | exact Keeps.free (by assumption) | exact fun _ => rfl)
    (e_tc : u.tc = true → frm.tc = S.frm.tc :=
      by first | exact Keeps.free (by assumption) | exact fun _ => rfl)
    (e_cycle : u.cycle = true → frm.cycle = S.frm.cycle :=
      by first | exact Keeps.free (by assumption) | exact fun _ => rfl)
    (e_kpr : u.kpr = true → kpr = S.kpr :=
      by first | exact Keeps.free (by assumption) | exact fun _ => rfl)
    (e_flp : u.flp = true → flp = S.flp :=
      by first | exact Keeps.free (by assumption) | exact fun _ => rfl)
    (e_hif : u.hif = true → { hif with pba := 0 } = { S.hif with pba := 0 } :=
      by first | exact Keeps.free (by assumption) | exact fun _ => rfl)
    (e_dbg : u.dbg = true → dbg = S.dbg :=
      by first | exact Keeps.free (by assumption) | exact fun _ => rfl)
    (e_dev : u.dev = true → dev = S.dev :=
      by first | exact Keeps.free (by assumption) | exact fun _ => rfl)
    (e_frm : u.frm = true → frm = S.frm :=
      by first | exact Keeps.free (by assumption) | exact fun _ => rfl)
    (e_cores : u.cores = true → { cores with store := [] } = { S.cores with store := [] } :=
      by first | exact Keeps.free (by assumption) | exact fun _ => rfl)
    (e_mem : u.mem = true → { mem with dram := [], check := [] } = { S.mem with dram := [], check := [] } :=
      by first | exact Keeps.free (by assumption) | exact fun _ => rfl)
    (e_net : u.net = true → net = S.net :=
      by first | exact Keeps.free (by assumption) | exact fun _ => rfl)
    (e_bnk : u.bnk = true → bnk = S.bnk :=
      by first | exact Keeps.free (by assumption) | exact fun _ => rfl)
    (e_walkers : u.walkers = true → walkers = S.walkers :=
      by first | exact Keeps.free (by assumption) | exact fun _ => rfl)
    (e_req : u.req = true → req = S.req :=
      by first | exact Keeps.free (by assumption) | exact fun _ => rfl)
    (e_lnk : u.lnk = true → lnk = S.lnk :=
      by first | exact Keeps.free (by assumption) | exact fun _ => rfl)
    (e_clk : u.clk = true → clk = S.clk :=
      by first | exact Keeps.free (by assumption) | exact fun _ => rfl)
    (e_pwr : u.pwr = true → pwr = S.pwr :=
      by first | exact Keeps.free (by assumption) | exact fun _ => rfl)
    (e_sup : u.sup = true → sup = S.sup :=
      by first | exact Keeps.free (by assumption) | exact fun _ => rfl)
    (e_thm : u.thm = true → thm = S.thm :=
      by first | exact Keeps.free (by assumption) | exact fun _ => rfl)
    (e_prt : u.prt = true → { prt with block := [] } = { S.prt with block := [] } :=
      by first | exact Keeps.free (by assumption) | exact fun _ => rfl) :
    Keeps u s0 (State.made kpr S.fuses flp hif evt tel dbg dev frm cores mem net bnk walkers req lnk clk pwr sup thm prt
      S.pending out fresh hostMem) where
  fuses := h.fuses
  pending := h.pending
  memoryOk x := by
    have y := (memoryOk_iff S).1 (h.memoryOk x)
    rw [memoryOk_iff]
    exact ⟨hd y.1, hk y.2.1, hc y.2.2.1, hp y.2.2.2.1, hh y.2.2.2.2⟩
  stacked x := ⟨(e_stacked x).1.trans (h.stacked x).1, (e_stacked x).2.trans (h.stacked x).2⟩
  store x := (e_store x).trans (h.store x)
  protection x := (e_protection x).trans (h.protection x)
  reports x := ⟨(e_reports x).1.trans (h.reports x).1, (e_reports x).2.1.trans (h.reports x).2.1, (e_reports x).2.2.1.trans (h.reports x).2.2.1, (e_reports x).2.2.2.trans (h.reports x).2.2.2⟩
  state x := (e_state x).trans (h.state x)
  tc x := (e_tc x).trans (h.tc x)
  cycle x := (e_cycle x).trans (h.cycle x)
  kpr x := (e_kpr x).trans (h.kpr x)
  flp x := (e_flp x).trans (h.flp x)
  hif x := (e_hif x).trans (h.hif x)
  dbg x := (e_dbg x).trans (h.dbg x)
  dev x := (e_dev x).trans (h.dev x)
  frm x := (e_frm x).trans (h.frm x)
  cores x := (e_cores x).trans (h.cores x)
  mem x := (e_mem x).trans (h.mem x)
  net x := (e_net x).trans (h.net x)
  bnk x := (e_bnk x).trans (h.bnk x)
  walkers x := (e_walkers x).trans (h.walkers x)
  req x := (e_req x).trans (h.req x)
  lnk x := (e_lnk x).trans (h.lnk x)
  clk x := (e_clk x).trans (h.clk x)
  pwr x := (e_pwr x).trans (h.pwr x)
  sup x := (e_sup x).trans (h.sup x)
  thm x := (e_thm x).trans (h.thm x)
  prt x := (e_prt x).trans (h.prt x)

theorem Keeps.foldl {α : Type _} {u : Untouched} {s0 : State} {f : State → α → State} (l : List α) {s : State} (h : Keeps u s0 s)
    (k : ∀ x a, Keeps u s0 x → Keeps u s0 (f x a)) : Keeps u s0 (l.foldl f s) := by
  induction l generalizing s with
  | nil => exact h
  | cons a t ih => exact ih (k s a h)

/-- The state that an answer comes with. -/
theorem Keeps.snd {α : Type _} {u : Untouched} {s0 : State} {p : α × State} {a : α} {t : State} (e : p = (a, t)) (h : Keeps u s0 p.2) :
    Keeps u s0 t := by rw [e] at h; exact h

theorem Keeps.foldlPair {α β : Type _} {u : Untouched} {s0 : State} {f : State × β → α → State × β} (l : List α) {st : State × β}
    (k : ∀ x a, Keeps u s0 x.1 → Keeps u s0 (f x a).1) (h : Keeps u s0 st.1) : Keeps u s0 (l.foldl f st).1 := by
  induction l generalizing st with
  | nil => exact h
  | cons a t ih => exact ih (k st a h)

theorem Keeps.foldlSnd {α β : Type _} {u : Untouched} {s0 : State} {f : β × State → α → β × State} (l : List α) {st : β × State}
    (k : ∀ x a, Keeps u s0 x.2 → Keeps u s0 (f x a).2) (h : Keeps u s0 st.2) : Keeps u s0 (l.foldl f st).2 := by
  induction l generalizing st with
  | nil => exact h
  | cons a t ih => exact ih (k st a h)

end Sys2Proof.Machine
end

