-- ==== Sys2Proof/Laws/KeepsOps.lean ====
section
/-! SUPPORT. Every operation of Machine/Ops.lean keeps the fuses, the queue and canonical memories. -/
namespace Sys2Proof.Machine
set_option linter.all false
set_option Elab.async false

theorem emit_keeps {pt : Untouched} {s0 : State} (o : Output) (s : State) (h_s : Keeps pt s0 s) : Keeps pt s0 (emit o s) := by
  unfold emit
  repeat' first
    | with_reducible assumption
    | (intro _)
    | (extract_lets +onlyGivenNames x; refine (fun hx : Keeps pt s0 x => ?_) ?_; try clear_value x; rotate_left; unfold x; clear x; rotate_right; rename State => z)
    | (extract_lets +onlyGivenNames x; have hb : MemBlk := x; clear hb; subst x)
    | (extract_lets +onlyGivenNames x; have hb : FrmBlk := x; clear hb; subst x)
    | (extract_lets +onlyGivenNames x; have hb : KprBlk := x; clear hb; subst x)
    | (extract_lets +onlyGivenNames x; try clear_value x; revert x; intro z)
    | (rw [State.mk_made]; with_reducible refine Keeps.upd ?_)
    | split

theorem useFresh_keeps {pt : Untouched} {s0 : State} (s : State) (h_s : Keeps pt s0 s) : Keeps pt s0 (useFresh s) := by
  unfold useFresh
  repeat' first
    | with_reducible assumption
    | (intro _)
    | (extract_lets +onlyGivenNames x; refine (fun hx : Keeps pt s0 x => ?_) ?_; try clear_value x; rotate_left; unfold x; clear x; rotate_right; rename State => z)
    | (extract_lets +onlyGivenNames x; have hb : MemBlk := x; clear hb; subst x)
    | (extract_lets +onlyGivenNames x; have hb : FrmBlk := x; clear hb; subst x)
    | (extract_lets +onlyGivenNames x; have hb : KprBlk := x; clear hb; subst x)
    | (extract_lets +onlyGivenNames x; try clear_value x; revert x; intro z)
    | (rw [State.mk_made]; with_reducible refine Keeps.upd ?_)
    | split

theorem hostPut_keeps {pt : Untouched} {s0 : State} (a : Nat) (bytes : List Nat) (s : State) (h_s : Keeps pt s0 s) (w_reports : pt.reports = false := by assumption) :
    Keeps pt s0 (hostPut a bytes s) := by
  unfold hostPut
  exact Keeps.upd h_s (hh := fun h => wf_memPutBytes _ _ h)

theorem signalMsix_keeps {pt : Untouched} {s0 : State} (v : Nat) (s : State) (h_s : Keeps pt s0 s) (w_reports : pt.reports = false := by assumption) :
    Keeps pt s0 (signalMsix v s) := by
  unfold signalMsix
  split
  · exact emit_keeps _ _ h_s
  · exact Keeps.upd h_s

theorem writeRecord_keeps {pt : Untouched} {s0 : State} (r : EvtRec) (s : State) (h_s : Keeps pt s0 s) (w_reports : pt.reports = false := by assumption) :
    Keeps pt s0 (writeRecord r s) := by
  unfold writeRecord
  repeat' first
    | with_reducible assumption
    | (intro _)
    | (extract_lets +onlyGivenNames x; refine (fun hx : Keeps pt s0 x => ?_) ?_; try clear_value x; rotate_left; unfold x; clear x; rotate_right; rename State => z)
    | (extract_lets +onlyGivenNames x; have hb : MemBlk := x; clear hb; subst x)
    | (extract_lets +onlyGivenNames x; have hb : FrmBlk := x; clear hb; subst x)
    | (extract_lets +onlyGivenNames x; have hb : KprBlk := x; clear hb; subst x)
    | (extract_lets +onlyGivenNames x; try clear_value x; revert x; intro z)
    | (with_reducible apply hostPut_keeps)
    | (with_reducible apply signalMsix_keeps)
    | (rw [State.mk_made]; with_reducible refine Keeps.upd ?_)
    | split

theorem flushHeld_keeps {pt : Untouched} {s0 : State} (l : List EvtRec) (s : State) (h_s : Keeps pt s0 s) (w_reports : pt.reports = false := by assumption) :
    Keeps pt s0 (flushHeld l s) := by
  induction l generalizing s with
  | nil => exact Keeps.upd h_s
  | cons r t ih =>
    unfold flushHeld
    split
    · exact ih _ (writeRecord_keeps _ _ h_s)
    · exact Keeps.upd h_s

theorem flushEvents_keeps {pt : Untouched} {s0 : State} (s : State) (h_s : Keeps pt s0 s) (w_reports : pt.reports = false := by assumption) :
    Keeps pt s0 (flushEvents s) := by
  unfold flushEvents
  repeat' first
    | with_reducible assumption
    | (intro _)
    | (extract_lets +onlyGivenNames x; refine (fun hx : Keeps pt s0 x => ?_) ?_; try clear_value x; rotate_left; unfold x; clear x; rotate_right; rename State => z)
    | (extract_lets +onlyGivenNames x; have hb : MemBlk := x; clear hb; subst x)
    | (extract_lets +onlyGivenNames x; have hb : FrmBlk := x; clear hb; subst x)
    | (extract_lets +onlyGivenNames x; have hb : KprBlk := x; clear hb; subst x)
    | (extract_lets +onlyGivenNames x; try clear_value x; revert x; intro z)
    | (with_reducible apply flushHeld_keeps)
    | (rw [State.mk_made]; with_reducible refine Keeps.upd ?_)

theorem loseEvent_keeps {pt : Untouched} {s0 : State} (s : State) (h_s : Keeps pt s0 s) (w_reports : pt.reports = false := by assumption) :
    Keeps pt s0 (loseEvent s) := by
  unfold loseEvent
  repeat' first
    | with_reducible assumption
    | (intro _)
    | (extract_lets +onlyGivenNames x; refine (fun hx : Keeps pt s0 x => ?_) ?_; try clear_value x; rotate_left; unfold x; clear x; rotate_right; rename State => z)
    | (extract_lets +onlyGivenNames x; have hb : MemBlk := x; clear hb; subst x)
    | (extract_lets +onlyGivenNames x; have hb : FrmBlk := x; clear hb; subst x)
    | (extract_lets +onlyGivenNames x; have hb : KprBlk := x; clear hb; subst x)
    | (extract_lets +onlyGivenNames x; try clear_value x; revert x; intro z)
    | (rw [State.mk_made]; with_reducible refine Keeps.upd ?_)
    | split

theorem holdRecord_keeps {pt : Untouched} {s0 : State} (r : EvtRec) (s : State) (h_s : Keeps pt s0 s) (w_reports : pt.reports = false := by assumption) :
    Keeps pt s0 (holdRecord r s) := by
  unfold holdRecord
  dsimp only
  split
  · exact Keeps.upd h_s
  · split
    · exact Keeps.upd (loseEvent_keeps _ h_s)
    · split
      · exact Keeps.upd (loseEvent_keeps _ h_s)
      · exact loseEvent_keeps _ h_s

theorem sendPem_keeps {pt : Untouched} {s0 : State} (r : EvtRec) (s : State) (h_s : Keeps pt s0 s) (w_reports : pt.reports = false := by assumption) :
    Keeps pt s0 (sendPem r s) := by
  unfold sendPem
  repeat' first
    | with_reducible assumption
    | (intro _)
    | (extract_lets +onlyGivenNames x; refine (fun hx : Keeps pt s0 x => ?_) ?_; try clear_value x; rotate_left; unfold x; clear x; rotate_right; rename State => z)
    | (extract_lets +onlyGivenNames x; have hb : MemBlk := x; clear hb; subst x)
    | (extract_lets +onlyGivenNames x; have hb : FrmBlk := x; clear hb; subst x)
    | (extract_lets +onlyGivenNames x; have hb : KprBlk := x; clear hb; subst x)
    | (extract_lets +onlyGivenNames x; try clear_value x; revert x; intro z)
    | (with_reducible apply emit_keeps)
    | (rw [State.mk_made]; with_reducible refine Keeps.upd ?_)
    | split

theorem raiseFull_keeps {pt : Untouched} {s0 : State} (kind severity reason unit count : Nat) (data : List Nat) (s : State) (h_s : Keeps pt s0 s) (w_reports : pt.reports = false := by assumption) :
    Keeps pt s0 (raiseFull kind severity reason unit count data s) := by
  unfold raiseFull
  repeat' first
    | with_reducible assumption
    | (intro _)
    | (extract_lets +onlyGivenNames x; refine (fun hx : Keeps pt s0 x => ?_) ?_; try clear_value x; rotate_left; unfold x; clear x; rotate_right; rename State => z)
    | (extract_lets +onlyGivenNames x; have hb : MemBlk := x; clear hb; subst x)
    | (extract_lets +onlyGivenNames x; have hb : FrmBlk := x; clear hb; subst x)
    | (extract_lets +onlyGivenNames x; have hb : KprBlk := x; clear hb; subst x)
    | (extract_lets +onlyGivenNames x; try clear_value x; revert x; intro z)
    | (with_reducible apply sendPem_keeps)
    | (with_reducible apply flushEvents_keeps)
    | (with_reducible apply holdRecord_keeps)
    | (rw [State.mk_made]; with_reducible refine Keeps.upd ?_)
    | split

theorem raise_keeps {pt : Untouched} {s0 : State} (kind severity unit : Nat) (data : List Nat) (s : State) (h_s : Keeps pt s0 s) (w_reports : pt.reports = false := by assumption) :
    Keeps pt s0 (raise kind severity unit data s) := by
  unfold raise
  repeat' first
    | with_reducible assumption
    | (intro _)
    | (extract_lets +onlyGivenNames x; refine (fun hx : Keeps pt s0 x => ?_) ?_; try clear_value x; rotate_left; unfold x; clear x; rotate_right; rename State => z)
    | (extract_lets +onlyGivenNames x; have hb : MemBlk := x; clear hb; subst x)
    | (extract_lets +onlyGivenNames x; have hb : FrmBlk := x; clear hb; subst x)
    | (extract_lets +onlyGivenNames x; have hb : KprBlk := x; clear hb; subst x)
    | (extract_lets +onlyGivenNames x; try clear_value x; revert x; intro z)
    | (with_reducible apply raiseFull_keeps)
    | (rw [State.mk_made]; with_reducible refine Keeps.upd ?_)

theorem refuse_keeps {pt : Untouched} {s0 : State} (off v reason : Nat) (s : State) (h_s : Keeps pt s0 s) (w_reports : pt.reports = false := by assumption) :
    Keeps pt s0 (refuse off v reason s) := by
  unfold refuse
  repeat' first
    | with_reducible assumption
    | (intro _)
    | (extract_lets +onlyGivenNames x; refine (fun hx : Keeps pt s0 x => ?_) ?_; try clear_value x; rotate_left; unfold x; clear x; rotate_right; rename State => z)
    | (extract_lets +onlyGivenNames x; have hb : MemBlk := x; clear hb; subst x)
    | (extract_lets +onlyGivenNames x; have hb : FrmBlk := x; clear hb; subst x)
    | (extract_lets +onlyGivenNames x; have hb : KprBlk := x; clear hb; subst x)
    | (extract_lets +onlyGivenNames x; try clear_value x; revert x; intro z)
    | (with_reducible apply raiseFull_keeps)
    | (rw [State.mk_made]; with_reducible refine Keeps.upd ?_)

theorem regWrite_keeps {pt : Untouched} {s0 : State} (off v rw ro : Nat) (body : State → State) (s : State) (k_body : ∀ x, Keeps pt s0 x → Keeps pt s0 (body x)) (h_s : Keeps pt s0 s) (w_reports : pt.reports = false := by assumption) :
    Keeps pt s0 (regWrite off v rw ro body s) := by
  unfold regWrite
  repeat' first
    | with_reducible assumption
    | (intro _)
    | (extract_lets +onlyGivenNames x; refine (fun hx : Keeps pt s0 x => ?_) ?_; try clear_value x; rotate_left; unfold x; clear x; rotate_right; rename State => z)
    | (extract_lets +onlyGivenNames x; have hb : MemBlk := x; clear hb; subst x)
    | (extract_lets +onlyGivenNames x; have hb : FrmBlk := x; clear hb; subst x)
    | (extract_lets +onlyGivenNames x; have hb : KprBlk := x; clear hb; subst x)
    | (extract_lets +onlyGivenNames x; try clear_value x; revert x; intro z)
    | (with_reducible apply k_body)
    | (with_reducible apply refuse_keeps)
    | split

theorem inState_keeps {pt : Untouched} {s0 : State} (off v : Nat) (l : List DevState) (body : State → State) (s : State) (k_body : ∀ x, Keeps pt s0 x → Keeps pt s0 (body x)) (h_s : Keeps pt s0 s) (w_reports : pt.reports = false := by assumption) :
    Keeps pt s0 (inState off v l body s) := by
  unfold inState
  repeat' first
    | with_reducible assumption
    | (intro _)
    | (extract_lets +onlyGivenNames x; refine (fun hx : Keeps pt s0 x => ?_) ?_; try clear_value x; rotate_left; unfold x; clear x; rotate_right; rename State => z)
    | (extract_lets +onlyGivenNames x; have hb : MemBlk := x; clear hb; subst x)
    | (extract_lets +onlyGivenNames x; have hb : FrmBlk := x; clear hb; subst x)
    | (extract_lets +onlyGivenNames x; have hb : KprBlk := x; clear hb; subst x)
    | (extract_lets +onlyGivenNames x; try clear_value x; revert x; intro z)
    | (with_reducible apply k_body)
    | (with_reducible apply refuse_keeps)
    | split

theorem setState_keeps {pt : Untouched} {s0 : State} (d : DevState) (s : State) (h_s : Keeps pt s0 s) (w_reports : pt.reports = false := by assumption) (w_state : pt.state = false := by assumption) (w_kpr : pt.kpr = false := by assumption) :
    Keeps pt s0 (setState d s) := by
  unfold setState
  dsimp only
  refine raise_keeps _ _ _ _ _ ?_
  rw [State.mk_made]
  with_reducible exact Keeps.upd h_s

theorem aerError_keeps {pt : Untouched} {s0 : State} (b : Nat) (header : List Nat) (s : State) (h_s : Keeps pt s0 s) (w_hif : pt.hif = false := by assumption) :
    Keeps pt s0 (aerError b header s) := by
  unfold aerError
  repeat' first
    | with_reducible assumption
    | (intro _)
    | (extract_lets +onlyGivenNames x; refine (fun hx : Keeps pt s0 x => ?_) ?_; try clear_value x; rotate_left; unfold x; clear x; rotate_right; rename State => z)
    | (extract_lets +onlyGivenNames x; have hb : MemBlk := x; clear hb; subst x)
    | (extract_lets +onlyGivenNames x; have hb : CoresBlk := x; clear hb; subst x)
    | (extract_lets +onlyGivenNames x; have hb : PrtBlk := x; clear hb; subst x)
    | (extract_lets +onlyGivenNames x; have hb : FrmBlk := x; clear hb; subst x)
    | (extract_lets +onlyGivenNames x; have hb : KprBlk := x; clear hb; subst x)
    | (extract_lets +onlyGivenNames x; have hb : HifBlk := x; clear hb; subst x)
    | (extract_lets +onlyGivenNames x; try clear_value x; revert x; intro z)
    | (with_reducible refine Keeps.upd ?_)
    | (with_reducible apply emit_keeps)
    | (rw [State.mk_made]; with_reducible refine Keeps.upd ?_)
    | split

theorem haltNow_keeps {pt : Untouched} {s0 : State} (cause : Nat) (s : State) (h_s : Keeps pt s0 s) (w_state : pt.state = false := by assumption) (w_cycle : pt.cycle = false := by assumption) (w_kpr : pt.kpr = false := by assumption) (w_frm : pt.frm = false := by assumption) :
    Keeps pt s0 (haltNow cause s) := by
  unfold haltNow
  repeat' first
    | with_reducible assumption
    | (intro _)
    | (extract_lets +onlyGivenNames x; refine (fun hx : Keeps pt s0 x => ?_) ?_; try clear_value x; rotate_left; unfold x; clear x; rotate_right; rename State => z)
    | (extract_lets +onlyGivenNames x; have hb : MemBlk := x; clear hb; subst x)
    | (extract_lets +onlyGivenNames x; have hb : CoresBlk := x; clear hb; subst x)
    | (extract_lets +onlyGivenNames x; have hb : PrtBlk := x; clear hb; subst x)
    | (extract_lets +onlyGivenNames x; have hb : FrmBlk := x; clear hb; subst x)
    | (extract_lets +onlyGivenNames x; have hb : KprBlk := x; clear hb; subst x)
    | (extract_lets +onlyGivenNames x; have hb : HifBlk := x; clear hb; subst x)
    | (extract_lets +onlyGivenNames x; try clear_value x; revert x; intro z)
    | (with_reducible refine Keeps.upd ?_)
    | (rw [State.mk_made]; with_reducible refine Keeps.upd ?_)
    | split

theorem fatalTell_keeps {pt : Untouched} {s0 : State} (tell : Bool) (cause : Nat) (s : State) (h_s : Keeps pt s0 s) (w_reports : pt.reports = false := by assumption) (w_state : pt.state = false := by assumption) (w_cycle : pt.cycle = false := by assumption) (w_kpr : pt.kpr = false := by assumption) (w_hif : pt.hif = false := by assumption) (w_frm : pt.frm = false := by assumption) :
    Keeps pt s0 (fatalTell tell cause s) := by
  unfold fatalTell
  repeat' first
    | with_reducible assumption
    | (intro _)
    | (extract_lets +onlyGivenNames x; refine (fun hx : Keeps pt s0 x => ?_) ?_; try clear_value x; rotate_left; unfold x; clear x; rotate_right; rename State => z)
    | (extract_lets +onlyGivenNames x; have hb : MemBlk := x; clear hb; subst x)
    | (extract_lets +onlyGivenNames x; have hb : CoresBlk := x; clear hb; subst x)
    | (extract_lets +onlyGivenNames x; have hb : PrtBlk := x; clear hb; subst x)
    | (extract_lets +onlyGivenNames x; have hb : FrmBlk := x; clear hb; subst x)
    | (extract_lets +onlyGivenNames x; have hb : KprBlk := x; clear hb; subst x)
    | (extract_lets +onlyGivenNames x; have hb : HifBlk := x; clear hb; subst x)
    | (extract_lets +onlyGivenNames x; try clear_value x; revert x; intro z)
    | (with_reducible refine Keeps.upd ?_)
    | (with_reducible apply raise_keeps)
    | (with_reducible apply aerError_keeps)
    | (with_reducible apply haltNow_keeps)
    | (rw [State.mk_made]; with_reducible refine Keeps.upd ?_)
    | split

theorem fatal_keeps {pt : Untouched} {s0 : State} (cause : Nat) (s : State) (h_s : Keeps pt s0 s) (w_reports : pt.reports = false := by assumption) (w_state : pt.state = false := by assumption) (w_cycle : pt.cycle = false := by assumption) (w_kpr : pt.kpr = false := by assumption) (w_hif : pt.hif = false := by assumption) (w_frm : pt.frm = false := by assumption) :
    Keeps pt s0 (fatal cause s) := by
  unfold fatal
  repeat' first
    | with_reducible assumption
    | (intro _)
    | (extract_lets +onlyGivenNames x; refine (fun hx : Keeps pt s0 x => ?_) ?_; try clear_value x; rotate_left; unfold x; clear x; rotate_right; rename State => z)
    | (extract_lets +onlyGivenNames x; have hb : MemBlk := x; clear hb; subst x)
    | (extract_lets +onlyGivenNames x; have hb : CoresBlk := x; clear hb; subst x)
    | (extract_lets +onlyGivenNames x; have hb : PrtBlk := x; clear hb; subst x)
    | (extract_lets +onlyGivenNames x; have hb : FrmBlk := x; clear hb; subst x)
    | (extract_lets +onlyGivenNames x; have hb : KprBlk := x; clear hb; subst x)
    | (extract_lets +onlyGivenNames x; have hb : HifBlk := x; clear hb; subst x)
    | (extract_lets +onlyGivenNames x; try clear_value x; revert x; intro z)
    | (with_reducible refine Keeps.upd ?_)
    | (with_reducible apply fatalTell_keeps)
    | (rw [State.mk_made]; with_reducible refine Keeps.upd ?_)
    | split

theorem wholeReset_keeps {pt : Untouched} {s0 : State} (cause halt : Nat) (perst : Bool) (s : State) (h_s : Keeps pt s0 s) (w_stacked : pt.stacked = false := by assumption) (w_store : pt.store = false := by assumption) (w_reports : pt.reports = false := by assumption) (w_state : pt.state = false := by assumption) (w_tc : pt.tc = false := by assumption) (w_cycle : pt.cycle = false := by assumption) (w_kpr : pt.kpr = false := by assumption) (w_flp : pt.flp = false := by assumption) (w_hif : pt.hif = false := by assumption) (w_dbg : pt.dbg = false := by assumption) (w_dev : pt.dev = false := by assumption) (w_frm : pt.frm = false := by assumption) (w_cores : pt.cores = false := by assumption) (w_mem : pt.mem = false := by assumption) (w_net : pt.net = false := by assumption) (w_bnk : pt.bnk = false := by assumption) (w_walkers : pt.walkers = false := by assumption) (w_req : pt.req = false := by assumption) (w_lnk : pt.lnk = false := by assumption) (w_clk : pt.clk = false := by assumption) (w_pwr : pt.pwr = false := by assumption) (w_sup : pt.sup = false := by assumption) (w_thm : pt.thm = false := by assumption) (w_prt : pt.prt = false := by assumption) :
    Keeps pt s0 (wholeReset cause halt perst s) := by
  unfold wholeReset
  exact Keeps.upd h_s (hc := fun _ => rfl) (hd := fun _ => rfl) (hk := fun _ => rfl)

theorem fenceTable_keeps {pt : Untouched} {s0 : State} (cause : Nat) (f : FenceItem) (s : State) (h_s : Keeps pt s0 s) (w_flp : pt.flp = false := by assumption) :
    Keeps pt s0 (fenceTable cause f s) := by
  unfold fenceTable
  repeat' first
    | with_reducible assumption
    | (intro _)
    | (extract_lets +onlyGivenNames x; refine (fun hx : Keeps pt s0 x => ?_) ?_; try clear_value x; rotate_left; unfold x; clear x; rotate_right; rename State => z)
    | (extract_lets +onlyGivenNames x; have hb : MemBlk := x; clear hb; subst x)
    | (extract_lets +onlyGivenNames x; have hb : FrmBlk := x; clear hb; subst x)
    | (extract_lets +onlyGivenNames x; have hb : KprBlk := x; clear hb; subst x)
    | (extract_lets +onlyGivenNames x; try clear_value x; revert x; intro z)
    | (rw [State.mk_made]; with_reducible refine Keeps.upd ?_)
    | split

theorem fenceDelta_keeps {pt : Untouched} {s0 : State} (gen cause : Nat) (f : FenceItem) (s : State) (h_s : Keeps pt s0 s) (w_flp : pt.flp = false := by assumption) :
    Keeps pt s0 (fenceDelta gen cause f s) := by
  unfold fenceDelta
  repeat' first
    | with_reducible assumption
    | (intro _)
    | (extract_lets +onlyGivenNames x; refine (fun hx : Keeps pt s0 x => ?_) ?_; try clear_value x; rotate_left; unfold x; clear x; rotate_right; rename State => z)
    | (extract_lets +onlyGivenNames x; have hb : MemBlk := x; clear hb; subst x)
    | (extract_lets +onlyGivenNames x; have hb : FrmBlk := x; clear hb; subst x)
    | (extract_lets +onlyGivenNames x; have hb : KprBlk := x; clear hb; subst x)
    | (extract_lets +onlyGivenNames x; try clear_value x; revert x; intro z)
    | (rw [State.mk_made]; with_reducible refine Keeps.upd ?_)
    | split

theorem fenceDbg_keeps {pt : Untouched} {s0 : State} (f : FenceItem) (s : State) (h_s : Keeps pt s0 s) (w_dbg : pt.dbg = false := by assumption) :
    Keeps pt s0 (fenceDbg f s) := by
  unfold fenceDbg
  repeat' first
    | with_reducible assumption
    | (intro _)
    | (extract_lets +onlyGivenNames x; refine (fun hx : Keeps pt s0 x => ?_) ?_; try clear_value x; rotate_left; unfold x; clear x; rotate_right; rename State => z)
    | (extract_lets +onlyGivenNames x; have hb : MemBlk := x; clear hb; subst x)
    | (extract_lets +onlyGivenNames x; have hb : FrmBlk := x; clear hb; subst x)
    | (extract_lets +onlyGivenNames x; have hb : KprBlk := x; clear hb; subst x)
    | (extract_lets +onlyGivenNames x; try clear_value x; revert x; intro z)
    | (rw [State.mk_made]; with_reducible refine Keeps.upd ?_)
    | split

theorem fenceUnits_keeps {pt : Untouched} {s0 : State} (cause : Nat) (l : List FenceItem) (s : State) (h_s : Keeps pt s0 s) (w_reports : pt.reports = false := by assumption) (w_flp : pt.flp = false := by assumption) (w_dbg : pt.dbg = false := by assumption) (w_dev : pt.dev = false := by assumption) (w_frm : pt.frm = false := by assumption) :
    Keeps pt s0 (fenceUnits cause l s) := by
  unfold fenceUnits
  extract_lets l s1 dv fz s2 gen s3 fv s4 s5 n fv2
  have h1 : Keeps pt s0 s1 := Keeps.foldl _ h_s (fun x a h => fenceDbg_keeps _ _ (fenceTable_keeps _ _ _ h))
  clear_value s1
  have h2 : Keeps pt s0 s2 := by unfold s2; rw [State.mk_made]; with_reducible exact Keeps.upd h1
  clear_value s2 gen
  have h3 : Keeps pt s0 s3 := Keeps.foldl _ h2 (fun x a h => fenceDelta_keeps _ _ _ _ h)
  clear_value s3
  have h4 : Keeps pt s0 s4 := by unfold s4; rw [State.mk_made]; with_reducible exact Keeps.upd h3
  clear_value s4
  have h5 : Keeps pt s0 s5 := Keeps.foldl _ h4 (fun x a h => raise_keeps _ _ _ _ _ h)
  clear_value s5
  split
  · exact h_s
  · split
    · exact h2
    · split
      · refine raise_keeps _ _ _ _ _ ?_
        rw [State.mk_made]; with_reducible exact Keeps.upd h5
      · exact h5

theorem darken_keeps {pt : Untouched} {s0 : State} (r : Nat) (s : State) (h_s : Keeps pt s0 s) (w_store : pt.store = false := by assumption) (w_clk : pt.clk = false := by assumption) (w_sup : pt.sup = false := by assumption) :
    Keeps pt s0 (darken r s) := by
  unfold darken
  generalize coresOf r = cs
  rw [State.mk_made]
  with_reducible refine Keeps.upd h_s (hc := ?_)
  exact fun h => wf_foldl_memClear _ _ _ h

theorem fenceRegion_keeps {pt : Untouched} {s0 : State} (r : Nat) (s : State) (h_s : Keeps pt s0 s) (w_reports : pt.reports = false := by assumption) (w_flp : pt.flp = false := by assumption) (w_dbg : pt.dbg = false := by assumption) (w_dev : pt.dev = false := by assumption) (w_frm : pt.frm = false := by assumption) :
    Keeps pt s0 (fenceRegion r s) := by
  unfold fenceRegion
  repeat' first
    | with_reducible assumption
    | (intro _)
    | (extract_lets +onlyGivenNames x; refine (fun hx : Keeps pt s0 x => ?_) ?_; try clear_value x; rotate_left; unfold x; clear x; rotate_right; rename State => z)
    | (extract_lets +onlyGivenNames x; have hb : MemBlk := x; clear hb; subst x)
    | (extract_lets +onlyGivenNames x; have hb : CoresBlk := x; clear hb; subst x)
    | (extract_lets +onlyGivenNames x; have hb : PrtBlk := x; clear hb; subst x)
    | (extract_lets +onlyGivenNames x; have hb : FrmBlk := x; clear hb; subst x)
    | (extract_lets +onlyGivenNames x; have hb : KprBlk := x; clear hb; subst x)
    | (extract_lets +onlyGivenNames x; have hb : HifBlk := x; clear hb; subst x)
    | (extract_lets +onlyGivenNames x; try clear_value x; revert x; intro z)
    | (with_reducible refine Keeps.upd ?_)
    | (with_reducible apply fenceUnits_keeps)
    | (rw [State.mk_made]; with_reducible refine Keeps.upd ?_)
    | split

end Sys2Proof.Machine
end

