-- ==== Sys2Proof/Laws/KeepsClock.lean ====
section
/-! SUPPORT. Every operation of Machine/Clock.lean keeps the fuses, the queue and canonical memories. -/
namespace Sys2Proof.Machine
set_option linter.all false
set_option Elab.async false

theorem setClk_keeps {pt : Untouched} {s0 : State} (r : Nat) (f : ClkRegion → ClkRegion) (s : State) (h_s : Keeps pt s0 s) (w_clk : pt.clk = false := by assumption) :
    Keeps pt s0 (setClk r f s) := by
  unfold setClk
  repeat' first
    | with_reducible assumption
    | (extract_lets +onlyGivenNames x; refine (fun hx : Keeps pt s0 x => ?_) ?_; try clear_value x; rotate_left; unfold x; clear x; rotate_right; rename State => z)
    | (extract_lets +onlyGivenNames x; have hb : KprBlk := x; clear hb; subst x)
    | (rw [State.mk_made]; with_reducible refine Keeps.upd ?_)

theorem setGroup_keeps {pt : Untouched} {s0 : State} (r : Nat) (f : Group → Group) (s : State) (h_s : Keeps pt s0 s) (w_sup : pt.sup = false := by assumption) :
    Keeps pt s0 (setGroup r f s) := by
  unfold setGroup
  repeat' first
    | with_reducible assumption
    | (extract_lets +onlyGivenNames x; refine (fun hx : Keeps pt s0 x => ?_) ?_; try clear_value x; rotate_left; unfold x; clear x; rotate_right; rename State => z)
    | (extract_lets +onlyGivenNames x; have hb : KprBlk := x; clear hb; subst x)
    | (rw [State.mk_made]; with_reducible refine Keeps.upd ?_)

theorem moveSetpoint_keeps {pt : Untouched} {s0 : State} (r d : Nat) (s : State) (h_s : Keeps pt s0 s) (w_sup : pt.sup = false := by assumption) :
    Keeps pt s0 (moveSetpoint r d s) := by
  unfold moveSetpoint
  repeat' first
    | with_reducible assumption
    | (intro _)
    | (extract_lets +onlyGivenNames x; refine (fun hx : Keeps pt s0 x => ?_) ?_; try clear_value x; rotate_left; unfold x; clear x; rotate_right; rename State => z)
    | (extract_lets +onlyGivenNames x; have hb : MemBlk := x; clear hb; subst x)
    | (extract_lets +onlyGivenNames x; have hb : CoresBlk := x; clear hb; subst x)
    | (extract_lets +onlyGivenNames x; have hb : PrtBlk := x; clear hb; subst x)
    | (extract_lets +onlyGivenNames x; have hb : FrmBlk := x; clear hb; subst x)
    | (extract_lets +onlyGivenNames x; have hb : KprBlk := x; clear hb; subst x)
    | (extract_lets +onlyGivenNames x; have hb : HifBlk := x; clear hb; subst x)
    | (extract_lets +onlyGivenNames x; try clear_value x; revert x; intro z)
    | (with_reducible refine Keeps.upd ?_)
    | (with_reducible apply setGroup_keeps)
    | (rw [State.mk_made]; with_reducible refine Keeps.upd ?_)
    | split

theorem startClocks_keeps {pt : Untouched} {s0 : State} (r target : Nat) (s : State) (h_s : Keeps pt s0 s) (w_clk : pt.clk = false := by assumption) (w_sup : pt.sup = false := by assumption) :
    Keeps pt s0 (startClocks r target s) := by
  unfold startClocks
  repeat' first
    | with_reducible assumption
    | (extract_lets +onlyGivenNames x; refine (fun hx : Keeps pt s0 x => ?_) ?_; try clear_value x; rotate_left; unfold x; clear x; rotate_right; rename State => z)
    | (extract_lets +onlyGivenNames x; have hb : KprBlk := x; clear hb; subst x)
    | (with_reducible apply setClk_keeps)
    | (with_reducible apply moveSetpoint_keeps)

theorem changeDivisor_keeps {pt : Untouched} {s0 : State} (r target : Nat) (s : State) (h_s : Keeps pt s0 s) (w_clk : pt.clk = false := by assumption) (w_sup : pt.sup = false := by assumption) :
    Keeps pt s0 (changeDivisor r target s) := by
  unfold changeDivisor
  repeat' first
    | with_reducible assumption
    | (intro _)
    | (extract_lets +onlyGivenNames x; refine (fun hx : Keeps pt s0 x => ?_) ?_; try clear_value x; rotate_left; unfold x; clear x; rotate_right; rename State => z)
    | (extract_lets +onlyGivenNames x; have hb : MemBlk := x; clear hb; subst x)
    | (extract_lets +onlyGivenNames x; have hb : CoresBlk := x; clear hb; subst x)
    | (extract_lets +onlyGivenNames x; have hb : PrtBlk := x; clear hb; subst x)
    | (extract_lets +onlyGivenNames x; have hb : FrmBlk := x; clear hb; subst x)
    | (extract_lets +onlyGivenNames x; have hb : KprBlk := x; clear hb; subst x)
    | (extract_lets +onlyGivenNames x; have hb : HifBlk := x; clear hb; subst x)
    | (extract_lets +onlyGivenNames x; try clear_value x; revert x; intro z)
    | (with_reducible refine Keeps.upd ?_)
    | (with_reducible apply setClk_keeps)
    | (with_reducible apply moveSetpoint_keeps)
    | (rw [State.mk_made]; with_reducible refine Keeps.upd ?_)
    | split

theorem toFallback_keeps {pt : Untouched} {s0 : State} (r cause : Nat) (s : State) (h_s : Keeps pt s0 s) (w_reports : pt.reports = false := by assumption) (w_clk : pt.clk = false := by assumption) (w_sup : pt.sup = false := by assumption) :
    Keeps pt s0 (toFallback r cause s) := by
  unfold toFallback
  repeat' first
    | with_reducible assumption
    | (intro _)
    | (extract_lets +onlyGivenNames x; refine (fun hx : Keeps pt s0 x => ?_) ?_; try clear_value x; rotate_left; unfold x; clear x; rotate_right; rename State => z)
    | (extract_lets +onlyGivenNames x; have hb : MemBlk := x; clear hb; subst x)
    | (extract_lets +onlyGivenNames x; have hb : CoresBlk := x; clear hb; subst x)
    | (extract_lets +onlyGivenNames x; have hb : PrtBlk := x; clear hb; subst x)
    | (extract_lets +onlyGivenNames x; have hb : FrmBlk := x; clear hb; subst x)
    | (extract_lets +onlyGivenNames x; have hb : KprBlk := x; clear hb; subst x)
    | (extract_lets +onlyGivenNames x; have hb : HifBlk := x; clear hb; subst x)
    | (extract_lets +onlyGivenNames x; try clear_value x; revert x; intro z)
    | (with_reducible refine Keeps.upd ?_)
    | (with_reducible apply setClk_keeps)
    | (with_reducible apply raise_keeps)
    | (with_reducible apply moveSetpoint_keeps)
    | (rw [State.mk_made]; with_reducible refine Keeps.upd ?_)
    | split

theorem doOscWaitExpiry_keeps {pt : Untouched} {s0 : State} (s : State) (h_s : Keeps pt s0 s) (w_kpr : pt.kpr = false := by assumption) (w_clk : pt.clk = false := by assumption) :
    Keeps pt s0 (doOscWaitExpiry s) := by
  unfold doOscWaitExpiry
  repeat' first
    | with_reducible assumption
    | (extract_lets +onlyGivenNames x; refine (fun hx : Keeps pt s0 x => ?_) ?_; try clear_value x; rotate_left; unfold x; clear x; rotate_right; rename State => z)
    | (extract_lets +onlyGivenNames x; have hb : KprBlk := x; clear hb; subst x)
    | (rw [State.mk_made]; with_reducible refine Keeps.upd ?_)
    | split

theorem doSystemPllLockTimeout_keeps {pt : Untouched} {s0 : State} (s : State) (h_s : Keeps pt s0 s) (w_kpr : pt.kpr = false := by assumption) :
    Keeps pt s0 (doSystemPllLockTimeout s) := by
  unfold doSystemPllLockTimeout
  repeat' first
    | with_reducible assumption
    | (extract_lets +onlyGivenNames x; refine (fun hx : Keeps pt s0 x => ?_) ?_; try clear_value x; rotate_left; unfold x; clear x; rotate_right; rename State => z)
    | (extract_lets +onlyGivenNames x; have hb : KprBlk := x; clear hb; subst x)
    | (rw [State.mk_made]; with_reducible refine Keeps.upd ?_)
    | split

theorem doSystemPllLock_keeps {pt : Untouched} {s0 : State} (s : State) (h_s : Keeps pt s0 s) (w_kpr : pt.kpr = false := by assumption) (w_clk : pt.clk = false := by assumption) :
    Keeps pt s0 (doSystemPllLock s) := by
  unfold doSystemPllLock
  repeat' first
    | with_reducible assumption
    | (extract_lets +onlyGivenNames x; refine (fun hx : Keeps pt s0 x => ?_) ?_; try clear_value x; rotate_left; unfold x; clear x; rotate_right; rename State => z)
    | (extract_lets +onlyGivenNames x; have hb : KprBlk := x; clear hb; subst x)
    | (rw [State.mk_made]; with_reducible refine Keeps.upd ?_)
    | split

theorem doRefclkLost_keeps {pt : Untouched} {s0 : State} (what : Nat) (host : Bool) (s : State) (h_s : Keeps pt s0 s) (w_reports : pt.reports = false := by assumption) (w_state : pt.state = false := by assumption) (w_cycle : pt.cycle = false := by assumption) (w_kpr : pt.kpr = false := by assumption) (w_hif : pt.hif = false := by assumption) (w_frm : pt.frm = false := by assumption) (w_clk : pt.clk = false := by assumption) :
    Keeps pt s0 (doRefclkLost what host s) := by
  unfold doRefclkLost
  repeat' first
    | with_reducible assumption
    | (intro _)
    | (extract_lets +onlyGivenNames x; refine (fun hx : Keeps pt s0 x => ?_) ?_; try clear_value x; rotate_left; unfold x; clear x; rotate_right; rename State => z)
    | (extract_lets +onlyGivenNames x; have hb : MemBlk := x; clear hb; subst x)
    | (extract_lets +onlyGivenNames x; have hb : CoresBlk := x; clear hb; subst x)
    | (extract_lets +onlyGivenNames x; have hb : PrtBlk := x; clear hb; subst x)
    | (extract_lets +onlyGivenNames x; have hb : FrmBlk := x; clear hb; subst x)
    | (extract_lets +onlyGivenNames x; have hb : KprBlk := x; clear hb; subst x)
    | (extract_lets +onlyGivenNames x; have hb : HifBlk := x; clear hb; subst x)
    | (extract_lets +onlyGivenNames x; try clear_value x; revert x; intro z)
    | (with_reducible refine Keeps.upd ?_)
    | (with_reducible apply fatalTell_keeps)
    | (rw [State.mk_made]; with_reducible refine Keeps.upd ?_)
    | split

theorem doRegionGeneratorLockTimeout_keeps {pt : Untouched} {s0 : State} (r : Nat) (s : State) (h_s : Keeps pt s0 s) (w_reports : pt.reports = false := by assumption) (w_clk : pt.clk = false := by assumption) (w_sup : pt.sup = false := by assumption) :
    Keeps pt s0 (doRegionGeneratorLockTimeout r s) := by
  unfold doRegionGeneratorLockTimeout
  repeat' first
    | with_reducible assumption
    | (extract_lets +onlyGivenNames x; refine (fun hx : Keeps pt s0 x => ?_) ?_; try clear_value x; rotate_left; unfold x; clear x; rotate_right; rename State => z)
    | (extract_lets +onlyGivenNames x; have hb : KprBlk := x; clear hb; subst x)
    | (with_reducible apply toFallback_keeps)
    | split

theorem doHingeFifoSettleTimeout_keeps {pt : Untouched} {s0 : State} (s : State) (h_s : Keeps pt s0 s) (w_reports : pt.reports = false := by assumption) (w_state : pt.state = false := by assumption) (w_cycle : pt.cycle = false := by assumption) (w_kpr : pt.kpr = false := by assumption) (w_hif : pt.hif = false := by assumption) (w_frm : pt.frm = false := by assumption) :
    Keeps pt s0 (doHingeFifoSettleTimeout s) := by
  unfold doHingeFifoSettleTimeout
  repeat' first
    | with_reducible assumption
    | (extract_lets +onlyGivenNames x; refine (fun hx : Keeps pt s0 x => ?_) ?_; try clear_value x; rotate_left; unfold x; clear x; rotate_right; rename State => z)
    | (extract_lets +onlyGivenNames x; have hb : KprBlk := x; clear hb; subst x)
    | (with_reducible apply fatal_keeps)
    | split

theorem doSustainedDroop_keeps {pt : Untouched} {s0 : State} (r : Nat) (s : State) (h_s : Keeps pt s0 s) (w_reports : pt.reports = false := by assumption) (w_clk : pt.clk = false := by assumption) :
    Keeps pt s0 (doSustainedDroop r s) := by
  unfold doSustainedDroop
  repeat' first
    | with_reducible assumption
    | (extract_lets +onlyGivenNames x; refine (fun hx : Keeps pt s0 x => ?_) ?_; try clear_value x; rotate_left; unfold x; clear x; rotate_right; rename State => z)
    | (extract_lets +onlyGivenNames x; have hb : KprBlk := x; clear hb; subst x)
    | (with_reducible apply raise_keeps)
    | (with_reducible apply setClk_keeps)
    | split

theorem doGeneratorLockLost_keeps {pt : Untouched} {s0 : State} (r : Nat) (s : State) (h_s : Keeps pt s0 s) (w_clk : pt.clk = false := by assumption) :
    Keeps pt s0 (doGeneratorLockLost r s) := by
  unfold doGeneratorLockLost
  repeat' first
    | with_reducible assumption
    | (extract_lets +onlyGivenNames x; refine (fun hx : Keeps pt s0 x => ?_) ?_; try clear_value x; rotate_left; unfold x; clear x; rotate_right; rename State => z)
    | (extract_lets +onlyGivenNames x; have hb : KprBlk := x; clear hb; subst x)
    | (with_reducible apply setClk_keeps)
    | split

theorem doFallbackSwitch_keeps {pt : Untouched} {s0 : State} (r : Nat) (s : State) (h_s : Keeps pt s0 s) (w_reports : pt.reports = false := by assumption) (w_clk : pt.clk = false := by assumption) (w_sup : pt.sup = false := by assumption) :
    Keeps pt s0 (doFallbackSwitch r s) := by
  unfold doFallbackSwitch
  repeat' first
    | with_reducible assumption
    | (extract_lets +onlyGivenNames x; refine (fun hx : Keeps pt s0 x => ?_) ?_; try clear_value x; rotate_left; unfold x; clear x; rotate_right; rename State => z)
    | (extract_lets +onlyGivenNames x; have hb : KprBlk := x; clear hb; subst x)
    | (with_reducible apply toFallback_keeps)
    | split

theorem doDivisorStep_keeps {pt : Untouched} {s0 : State} (r : Nat) (s : State) (h_s : Keeps pt s0 s) (w_clk : pt.clk = false := by assumption) (w_sup : pt.sup = false := by assumption) :
    Keeps pt s0 (doDivisorStep r s) := by
  unfold doDivisorStep
  repeat' first
    | with_reducible assumption
    | (extract_lets +onlyGivenNames x; refine (fun hx : Keeps pt s0 x => ?_) ?_; try clear_value x; rotate_left; unfold x; clear x; rotate_right; rename State => z)
    | (extract_lets +onlyGivenNames x; have hb : KprBlk := x; clear hb; subst x)
    | (extract_lets +onlyGivenNames x; try clear_value x; revert x; intro z)
    | (with_reducible apply moveSetpoint_keeps)
    | (with_reducible apply setClk_keeps)
    | split

theorem tick_keeps {pt : Untouched} {s0 : State} (s : State) (h_s : Keeps pt s0 s) (w_tc : pt.tc = false := by assumption) (w_frm : pt.frm = false := by assumption) :
    Keeps pt s0 (tick s) := by
  unfold tick
  repeat' first
    | with_reducible assumption
    | (extract_lets +onlyGivenNames x; refine (fun hx : Keeps pt s0 x => ?_) ?_; try clear_value x; rotate_left; unfold x; clear x; rotate_right; rename State => z)
    | (extract_lets +onlyGivenNames x; have hb : KprBlk := x; clear hb; subst x)
    | (rw [State.mk_made]; with_reducible refine Keeps.upd ?_)
    | split

end Sys2Proof.Machine
end

