-- ==== Sys2Proof/Laws/KeepsRoutes.lean ====
section
/-! SUPPORT. Every operation of Machine/Routes.lean keeps the fuses, the queue and canonical memories. -/
namespace Sys2Proof.Machine
set_option linter.all false
set_option Elab.async false

theorem setNet_keeps {pt : Untouched} {s0 : State} (r : Nat) (f : NetRec → NetRec) (s : State) (h_s : Keeps pt s0 s) (w_net : pt.net = false := by assumption) :
    Keeps pt s0 (setNet r f s) := by
  unfold setNet
  repeat' first
    | with_reducible assumption
    | (extract_lets +onlyGivenNames x; have hb : FrmBlk := x; clear hb; subst x)
    | (rw [State.mk_made]; with_reducible refine Keeps.upd ?_)

theorem setSillNet_keeps {pt : Untouched} {s0 : State} (k : Nat) (f : SillRec → SillRec) (s : State) (h_s : Keeps pt s0 s) (w_net : pt.net = false := by assumption) :
    Keeps pt s0 (setSillNet k f s) := by
  unfold setSillNet
  repeat' first
    | with_reducible assumption
    | (extract_lets +onlyGivenNames x; have hb : FrmBlk := x; clear hb; subst x)
    | (rw [State.mk_made]; with_reducible refine Keeps.upd ?_)

theorem countFlits_keeps {pt : Untouched} {s0 : State} (l flits : Nat) (s : State) (h_s : Keeps pt s0 s) (w_net : pt.net = false := by assumption) :
    Keeps pt s0 (countFlits l flits s) := by
  unfold countFlits
  dsimp only
  split
  · exact h_s
  · split
    · split
      · exact h_s
      · exact setNet_keeps _ _ _ h_s
    · split
      · exact h_s
      · split
        · exact setNet_keeps _ _ _ h_s
        · split
          · exact setSillNet_keeps _ _ _ h_s
          · exact h_s

theorem crossNet_keeps {pt : Untouched} {s0 : State} (src dst flits : Nat) (s : State) (h_s : Keeps pt s0 s) (w_net : pt.net = false := by assumption) :
    Keeps pt s0 (crossNet src dst flits s) := by
  unfold crossNet
  repeat' first
    | with_reducible assumption
    | (intro _)
    | (extract_lets +onlyGivenNames x; refine (fun hx : Keeps pt s0 x => ?_) ?_; try clear_value x; rotate_left; unfold x; clear x; rotate_right; rename State => z)
    | (extract_lets +onlyGivenNames x; have hb : MemBlk := x; clear hb; subst x)
    | (extract_lets +onlyGivenNames x; have hb : CoresBlk := x; clear hb; subst x)
    | (extract_lets +onlyGivenNames x; have hb : PrtBlk := x; clear hb; subst x)
    | (extract_lets +onlyGivenNames x; have hb : FrmBlk := x; clear hb; subst x)
    | (extract_lets +onlyGivenNames x; have hb : KprBlk := x; clear hb; subst x)
    | (extract_lets +onlyGivenNames x; have hb : HifBlk := x; clear hb; subst x)
    | (extract_lets +onlyGivenNames x; try clear_value x; revert x; intro z)
    | (with_reducible refine Keeps.upd ?_)
    | (with_reducible apply countFlits_keeps)
    | (with_reducible refine Keeps.foldl _ ?_ ?_)
    | (rw [State.mk_made]; with_reducible refine Keeps.upd ?_)
    | split

theorem crossAccess_keeps {pt : Untouched} {s0 : State} (unit tile a len : Nat) (write : Bool) (s : State) (h_s : Keeps pt s0 s) (w_net : pt.net = false := by assumption) :
    Keeps pt s0 (crossAccess unit tile a len write s) := by
  unfold crossAccess
  repeat' first
    | with_reducible assumption
    | (intro _)
    | (extract_lets +onlyGivenNames x; refine (fun hx : Keeps pt s0 x => ?_) ?_; try clear_value x; rotate_left; unfold x; clear x; rotate_right; rename State => z)
    | (extract_lets +onlyGivenNames x; have hb : MemBlk := x; clear hb; subst x)
    | (extract_lets +onlyGivenNames x; have hb : CoresBlk := x; clear hb; subst x)
    | (extract_lets +onlyGivenNames x; have hb : PrtBlk := x; clear hb; subst x)
    | (extract_lets +onlyGivenNames x; have hb : FrmBlk := x; clear hb; subst x)
    | (extract_lets +onlyGivenNames x; have hb : KprBlk := x; clear hb; subst x)
    | (extract_lets +onlyGivenNames x; have hb : HifBlk := x; clear hb; subst x)
    | (extract_lets +onlyGivenNames x; try clear_value x; revert x; intro z)
    | (with_reducible refine Keeps.upd ?_)
    | (with_reducible apply crossNet_keeps)
    | (rw [State.mk_made]; with_reducible refine Keeps.upd ?_)
    | split

end Sys2Proof.Machine
end

