-- ==== Sys2Proof/Laws/KeepsPower.lean ====
section
/-! SUPPORT. Every operation of Machine/Power.lean keeps the fuses, the queue and canonical memories. -/
namespace Sys2Proof.Machine
set_option linter.all false
set_option Elab.async false

theorem losePower_keeps {pt : Untouched} {s0 : State} (s : State) (h_s : Keeps pt s0 s) (w_stacked : pt.stacked = false := by assumption) (w_store : pt.store = false := by assumption) (w_reports : pt.reports = false := by assumption) (w_state : pt.state = false := by assumption) (w_tc : pt.tc = false := by assumption) (w_cycle : pt.cycle = false := by assumption) (w_kpr : pt.kpr = false := by assumption) (w_flp : pt.flp = false := by assumption) (w_hif : pt.hif = false := by assumption) (w_dbg : pt.dbg = false := by assumption) (w_dev : pt.dev = false := by assumption) (w_frm : pt.frm = false := by assumption) (w_cores : pt.cores = false := by assumption) (w_mem : pt.mem = false := by assumption) (w_net : pt.net = false := by assumption) (w_bnk : pt.bnk = false := by assumption) (w_walkers : pt.walkers = false := by assumption) (w_req : pt.req = false := by assumption) (w_lnk : pt.lnk = false := by assumption) (w_clk : pt.clk = false := by assumption) (w_pwr : pt.pwr = false := by assumption) (w_sup : pt.sup = false := by assumption) (w_thm : pt.thm = false := by assumption) (w_prt : pt.prt = false := by assumption) :
    Keeps pt s0 (losePower s) := by
  unfold losePower
  repeat' first
    | with_reducible assumption
    | (extract_lets +onlyGivenNames x; refine (fun hx : Keeps pt s0 x => ?_) ?_; try clear_value x; rotate_left; unfold x; clear x; rotate_right; rename State => z)
    | (with_reducible apply wholeReset_keeps)
    | (rw [State.mk_made]; with_reducible refine Keeps.upd ?_)

theorem doLossOfPower_keeps {pt : Untouched} {s0 : State} (s : State) (h_s : Keeps pt s0 s) (w_stacked : pt.stacked = false := by assumption) (w_store : pt.store = false := by assumption) (w_reports : pt.reports = false := by assumption) (w_state : pt.state = false := by assumption) (w_tc : pt.tc = false := by assumption) (w_cycle : pt.cycle = false := by assumption) (w_kpr : pt.kpr = false := by assumption) (w_flp : pt.flp = false := by assumption) (w_hif : pt.hif = false := by assumption) (w_dbg : pt.dbg = false := by assumption) (w_dev : pt.dev = false := by assumption) (w_frm : pt.frm = false := by assumption) (w_cores : pt.cores = false := by assumption) (w_mem : pt.mem = false := by assumption) (w_net : pt.net = false := by assumption) (w_bnk : pt.bnk = false := by assumption) (w_walkers : pt.walkers = false := by assumption) (w_req : pt.req = false := by assumption) (w_lnk : pt.lnk = false := by assumption) (w_clk : pt.clk = false := by assumption) (w_pwr : pt.pwr = false := by assumption) (w_sup : pt.sup = false := by assumption) (w_thm : pt.thm = false := by assumption) (w_prt : pt.prt = false := by assumption) :
    Keeps pt s0 (doLossOfPower s) := by
  unfold doLossOfPower
  repeat' first
    | with_reducible assumption
    | (extract_lets +onlyGivenNames x; refine (fun hx : Keeps pt s0 x => ?_) ?_; try clear_value x; rotate_left; unfold x; clear x; rotate_right; rename State => z)
    | (with_reducible apply losePower_keeps)
    | (rw [State.mk_made]; with_reducible refine Keeps.upd ?_)

theorem doVpmShutdown_keeps {pt : Untouched} {s0 : State} (s : State) (h_s : Keeps pt s0 s) (w_stacked : pt.stacked = false := by assumption) (w_store : pt.store = false := by assumption) (w_reports : pt.reports = false := by assumption) (w_state : pt.state = false := by assumption) (w_tc : pt.tc = false := by assumption) (w_cycle : pt.cycle = false := by assumption) (w_kpr : pt.kpr = false := by assumption) (w_flp : pt.flp = false := by assumption) (w_hif : pt.hif = false := by assumption) (w_dbg : pt.dbg = false := by assumption) (w_dev : pt.dev = false := by assumption) (w_frm : pt.frm = false := by assumption) (w_cores : pt.cores = false := by assumption) (w_mem : pt.mem = false := by assumption) (w_net : pt.net = false := by assumption) (w_bnk : pt.bnk = false := by assumption) (w_walkers : pt.walkers = false := by assumption) (w_req : pt.req = false := by assumption) (w_lnk : pt.lnk = false := by assumption) (w_clk : pt.clk = false := by assumption) (w_pwr : pt.pwr = false := by assumption) (w_sup : pt.sup = false := by assumption) (w_thm : pt.thm = false := by assumption) (w_prt : pt.prt = false := by assumption) :
    Keeps pt s0 (doVpmShutdown s) := by
  unfold doVpmShutdown
  repeat' first
    | with_reducible assumption
    | (extract_lets +onlyGivenNames x; refine (fun hx : Keeps pt s0 x => ?_) ?_; try clear_value x; rotate_left; unfold x; clear x; rotate_right; rename State => z)
    | (with_reducible apply losePower_keeps)
    | (rw [State.mk_made]; with_reducible refine Keeps.upd ?_)
    | split

theorem doPowerOn_keeps {pt : Untouched} {s0 : State} (osc maddr : Nat) (s : State) (h_s : Keeps pt s0 s) (w_stacked : pt.stacked = false := by assumption) (w_store : pt.store = false := by assumption) (w_reports : pt.reports = false := by assumption) (w_state : pt.state = false := by assumption) (w_tc : pt.tc = false := by assumption) (w_cycle : pt.cycle = false := by assumption) (w_kpr : pt.kpr = false := by assumption) (w_flp : pt.flp = false := by assumption) (w_hif : pt.hif = false := by assumption) (w_dbg : pt.dbg = false := by assumption) (w_dev : pt.dev = false := by assumption) (w_frm : pt.frm = false := by assumption) (w_cores : pt.cores = false := by assumption) (w_mem : pt.mem = false := by assumption) (w_net : pt.net = false := by assumption) (w_bnk : pt.bnk = false := by assumption) (w_walkers : pt.walkers = false := by assumption) (w_req : pt.req = false := by assumption) (w_lnk : pt.lnk = false := by assumption) (w_clk : pt.clk = false := by assumption) (w_pwr : pt.pwr = false := by assumption) (w_sup : pt.sup = false := by assumption) (w_thm : pt.thm = false := by assumption) (w_prt : pt.prt = false := by assumption) :
    Keeps pt s0 (doPowerOn osc maddr s) := by
  unfold doPowerOn
  repeat' first
    | with_reducible assumption
    | (extract_lets +onlyGivenNames x; refine (fun hx : Keeps pt s0 x => ?_) ?_; try clear_value x; rotate_left; unfold x; clear x; rotate_right; rename State => z)
    | (with_reducible apply wholeReset_keeps)
    | (rw [State.mk_made]; with_reducible refine Keeps.upd ?_)
    | split

theorem doInputWarnBand_keeps {pt : Untouched} {s0 : State} (v : Nat) (s : State) (h_s : Keeps pt s0 s) (w_reports : pt.reports = false := by assumption) (w_sup : pt.sup = false := by assumption) :
    Keeps pt s0 (doInputWarnBand v s) := by
  unfold doInputWarnBand
  repeat' first
    | with_reducible assumption
    | (extract_lets +onlyGivenNames x; refine (fun hx : Keeps pt s0 x => ?_) ?_; try clear_value x; rotate_left; unfold x; clear x; rotate_right; rename State => z)
    | (with_reducible apply raise_keeps)
    | (rw [State.mk_made]; with_reducible refine Keeps.upd ?_)
    | split

theorem doInputWarnLeave_keeps {pt : Untouched} {s0 : State} (v : Nat) (s : State) (h_s : Keeps pt s0 s) (w_sup : pt.sup = false := by assumption) :
    Keeps pt s0 (doInputWarnLeave v s) := by
  unfold doInputWarnLeave
  repeat' first
    | with_reducible assumption
    | (extract_lets +onlyGivenNames x; refine (fun hx : Keeps pt s0 x => ?_) ?_; try clear_value x; rotate_left; unfold x; clear x; rotate_right; rename State => z)
    | (rw [State.mk_made]; with_reducible refine Keeps.upd ?_)
    | split

theorem doStage1ConverterFail_keeps {pt : Untouched} {s0 : State} (i : Nat) (s : State) (h_s : Keeps pt s0 s) (w_stacked : pt.stacked = false := by assumption) (w_store : pt.store = false := by assumption) (w_reports : pt.reports = false := by assumption) (w_state : pt.state = false := by assumption) (w_tc : pt.tc = false := by assumption) (w_cycle : pt.cycle = false := by assumption) (w_kpr : pt.kpr = false := by assumption) (w_flp : pt.flp = false := by assumption) (w_hif : pt.hif = false := by assumption) (w_dbg : pt.dbg = false := by assumption) (w_dev : pt.dev = false := by assumption) (w_frm : pt.frm = false := by assumption) (w_cores : pt.cores = false := by assumption) (w_mem : pt.mem = false := by assumption) (w_net : pt.net = false := by assumption) (w_bnk : pt.bnk = false := by assumption) (w_walkers : pt.walkers = false := by assumption) (w_req : pt.req = false := by assumption) (w_lnk : pt.lnk = false := by assumption) (w_clk : pt.clk = false := by assumption) (w_pwr : pt.pwr = false := by assumption) (w_sup : pt.sup = false := by assumption) (w_thm : pt.thm = false := by assumption) (w_prt : pt.prt = false := by assumption) :
    Keeps pt s0 (doStage1ConverterFail i s) := by
  unfold doStage1ConverterFail
  repeat' first
    | with_reducible assumption
    | (extract_lets +onlyGivenNames x; refine (fun hx : Keeps pt s0 x => ?_) ?_; try clear_value x; rotate_left; unfold x; clear x; rotate_right; rename State => z)
    | (extract_lets +onlyGivenNames x; try clear_value x; revert x; intro z)
    | (with_reducible apply losePower_keeps)
    | (with_reducible apply raise_keeps)
    | (rw [State.mk_made]; with_reducible refine Keeps.upd ?_)
    | split

theorem doRailOutOfRegulation_keeps {pt : Untouched} {s0 : State} (k : Nat) (s : State) (h_s : Keeps pt s0 s) (w_reports : pt.reports = false := by assumption) (w_state : pt.state = false := by assumption) (w_cycle : pt.cycle = false := by assumption) (w_kpr : pt.kpr = false := by assumption) (w_hif : pt.hif = false := by assumption) (w_frm : pt.frm = false := by assumption) (w_sup : pt.sup = false := by assumption) :
    Keeps pt s0 (doRailOutOfRegulation k s) := by
  unfold doRailOutOfRegulation
  repeat' first
    | with_reducible assumption
    | (extract_lets +onlyGivenNames x; refine (fun hx : Keeps pt s0 x => ?_) ?_; try clear_value x; rotate_left; unfold x; clear x; rotate_right; rename State => z)
    | (extract_lets +onlyGivenNames x; try clear_value x; revert x; intro z)
    | (with_reducible apply fatal_keeps)
    | (rw [State.mk_made]; with_reducible refine Keeps.upd ?_)
    | split

theorem doVsensorExclude_keeps {pt : Untouched} {s0 : State} (r k : Nat) (s : State) (h_s : Keeps pt s0 s) (w_reports : pt.reports = false := by assumption) (w_sup : pt.sup = false := by assumption) :
    Keeps pt s0 (doVsensorExclude r k s) := by
  unfold doVsensorExclude
  repeat' first
    | with_reducible assumption
    | (extract_lets +onlyGivenNames x; refine (fun hx : Keeps pt s0 x => ?_) ?_; try clear_value x; rotate_left; unfold x; clear x; rotate_right; rename State => z)
    | (with_reducible apply raise_keeps)
    | (with_reducible apply setGroup_keeps)
    | split

theorem doShuntFire_keeps {pt : Untouched} {s0 : State} (r : Nat) (s : State) (h_s : Keeps pt s0 s) (w_sup : pt.sup = false := by assumption) :
    Keeps pt s0 (doShuntFire r s) := by
  unfold doShuntFire
  repeat' first
    | with_reducible assumption
    | (extract_lets +onlyGivenNames x; refine (fun hx : Keeps pt s0 x => ?_) ?_; try clear_value x; rotate_left; unfold x; clear x; rotate_right; rename State => z)
    | (with_reducible apply setGroup_keeps)
    | (rw [State.mk_made]; with_reducible refine Keeps.upd ?_)
    | split

theorem doBondSample_keeps {pt : Untouched} {s0 : State} (r vOut vMin cur : Nat) (s : State) (h_s : Keeps pt s0 s) (w_sup : pt.sup = false := by assumption) :
    Keeps pt s0 (doBondSample r vOut vMin cur s) := by
  unfold doBondSample
  repeat' first
    | with_reducible assumption
    | (extract_lets +onlyGivenNames x; refine (fun hx : Keeps pt s0 x => ?_) ?_; try clear_value x; rotate_left; unfold x; clear x; rotate_right; rename State => z)
    | (with_reducible apply useFresh_keeps)
    | (with_reducible apply setGroup_keeps)
    | split

theorem doBondSuspect_keeps {pt : Untouched} {s0 : State} (r : Nat) (s : State) (h_s : Keeps pt s0 s) (w_reports : pt.reports = false := by assumption) (w_sup : pt.sup = false := by assumption) :
    Keeps pt s0 (doBondSuspect r s) := by
  unfold doBondSuspect
  repeat' first
    | with_reducible assumption
    | (extract_lets +onlyGivenNames x; refine (fun hx : Keeps pt s0 x => ?_) ?_; try clear_value x; rotate_left; unfold x; clear x; rotate_right; rename State => z)
    | (extract_lets +onlyGivenNames x; try clear_value x; revert x; intro z)
    | (with_reducible apply raise_keeps)
    | (with_reducible apply setGroup_keeps)
    | split

theorem doPeakLimiterEngage_keeps {pt : Untouched} {s0 : State} (measure value : Nat) (s : State) (h_s : Keeps pt s0 s) (w_reports : pt.reports = false := by assumption) (w_sup : pt.sup = false := by assumption) :
    Keeps pt s0 (doPeakLimiterEngage measure value s) := by
  unfold doPeakLimiterEngage
  repeat' first
    | with_reducible assumption
    | (intro _)
    | (extract_lets +onlyGivenNames x; refine (fun hx : Keeps pt s0 x => ?_) ?_; try clear_value x; rotate_left; unfold x; clear x; rotate_right; rename State => z)
    | (extract_lets +onlyGivenNames x; have hb : MemBlk := x; clear hb; subst x)
    | (extract_lets +onlyGivenNames x; have hb : CoresBlk := x; clear hb; subst x)
    | (extract_lets +onlyGivenNames x; have hb : PrtBlk := x; clear hb; subst x)
    | (extract_lets +onlyGivenNames x; have hb : FrmBlk := x; clear hb; subst x)
    | (extract_lets +onlyGivenNames x; have hb : KprBlk := x; clear hb; subst x)
    | (extract_lets +onlyGivenNames x; have hb : HifBlk := x; clear hb; subst x)
    | (extract_lets +onlyGivenNames x; try clear_value x; revert x; intro z)
    | (with_reducible refine Keeps.upd ?_)
    | (with_reducible apply raise_keeps)
    | (rw [State.mk_made]; with_reducible refine Keeps.upd ?_)
    | split

theorem doPeakLimiterRelease_keeps {pt : Untouched} {s0 : State} (power : Nat) (s : State) (h_s : Keeps pt s0 s) (w_sup : pt.sup = false := by assumption) :
    Keeps pt s0 (doPeakLimiterRelease power s) := by
  unfold doPeakLimiterRelease
  repeat' first
    | with_reducible assumption
    | (intro _)
    | (extract_lets +onlyGivenNames x; refine (fun hx : Keeps pt s0 x => ?_) ?_; try clear_value x; rotate_left; unfold x; clear x; rotate_right; rename State => z)
    | (extract_lets +onlyGivenNames x; have hb : MemBlk := x; clear hb; subst x)
    | (extract_lets +onlyGivenNames x; have hb : CoresBlk := x; clear hb; subst x)
    | (extract_lets +onlyGivenNames x; have hb : PrtBlk := x; clear hb; subst x)
    | (extract_lets +onlyGivenNames x; have hb : FrmBlk := x; clear hb; subst x)
    | (extract_lets +onlyGivenNames x; have hb : KprBlk := x; clear hb; subst x)
    | (extract_lets +onlyGivenNames x; have hb : HifBlk := x; clear hb; subst x)
    | (extract_lets +onlyGivenNames x; try clear_value x; revert x; intro z)
    | (with_reducible refine Keeps.upd ?_)
    | (rw [State.mk_made]; with_reducible refine Keeps.upd ?_)
    | split

theorem judgeAverage_keeps {pt : Untouched} {s0 : State} (window avg cap : Nat) (s : State) (h_s : Keeps pt s0 s) (w_reports : pt.reports = false := by assumption) (w_pwr : pt.pwr = false := by assumption) :
    Keeps pt s0 (judgeAverage window avg cap s) := by
  unfold judgeAverage
  repeat' first
    | with_reducible assumption
    | (extract_lets +onlyGivenNames x; refine (fun hx : Keeps pt s0 x => ?_) ?_; try clear_value x; rotate_left; unfold x; clear x; rotate_right; rename State => z)
    | (extract_lets +onlyGivenNames x; try clear_value x; revert x; intro z)
    | (with_reducible apply raise_keeps)
    | (rw [State.mk_made]; with_reducible refine Keeps.upd ?_)
    | split

theorem takeSample_keeps {pt : Untouched} {s0 : State} (power voltage current peak : Nat) (rails : List (Nat × Nat)) (s : State)
    (h_s : Keeps pt s0 s) (w_pwr : pt.pwr = false := by assumption) (w_sup : pt.sup = false := by assumption) :
    Keeps pt s0 (takeSample power voltage current peak rails s) := by
  unfold takeSample
  extract_lets w1 w8
  clear_value w1 w8
  rw [State.mk_made]
  with_reducible exact Keeps.upd h_s

theorem judgeAverages_keeps {pt : Untouched} {s0 : State} (s : State) (h_s : Keeps pt s0 s) (w_reports : pt.reports = false := by assumption) (w_pwr : pt.pwr = false := by assumption) :
    Keeps pt s0 (judgeAverages s) := by
  unfold judgeAverages
  repeat' first
    | with_reducible assumption
    | (extract_lets +onlyGivenNames x; refine (fun hx : Keeps pt s0 x => ?_) ?_; try clear_value x; rotate_left; unfold x; clear x; rotate_right; rename State => z)
    | (with_reducible apply judgeAverage_keeps)
    | (rw [State.mk_made]; with_reducible refine Keeps.upd ?_)
    | split

theorem doAvgSample_keeps {pt : Untouched} {s0 : State} (power voltage current peak : Nat) (rails : List (Nat × Nat)) (s : State) (h_s : Keeps pt s0 s) (w_reports : pt.reports = false := by assumption) (w_pwr : pt.pwr = false := by assumption) (w_sup : pt.sup = false := by assumption) :
    Keeps pt s0 (doAvgSample power voltage current peak rails s) := by
  unfold doAvgSample
  repeat' first
    | with_reducible assumption
    | (extract_lets +onlyGivenNames x; refine (fun hx : Keeps pt s0 x => ?_) ?_; try clear_value x; rotate_left; unfold x; clear x; rotate_right; rename State => z)
    | (with_reducible apply judgeAverages_keeps)
    | (with_reducible apply takeSample_keeps)
    | split

theorem doEstimatorSecond_keeps {pt : Untouched} {s0 : State} (measured estimate : Nat) (s : State) (h_s : Keeps pt s0 s) (w_reports : pt.reports = false := by assumption) (w_pwr : pt.pwr = false := by assumption) :
    Keeps pt s0 (doEstimatorSecond measured estimate s) := by
  unfold doEstimatorSecond
  repeat' first
    | with_reducible assumption
    | (extract_lets +onlyGivenNames x; refine (fun hx : Keeps pt s0 x => ?_) ?_; try clear_value x; rotate_left; unfold x; clear x; rotate_right; rename State => z)
    | (extract_lets +onlyGivenNames x; try clear_value x; revert x; intro z)
    | (with_reducible apply raise_keeps)
    | (rw [State.mk_made]; with_reducible refine Keeps.upd ?_)
    | split

end Sys2Proof.Machine
end

