-- ==== Sys2Proof/Laws/KeepsThermal.lean ====
section
/-! SUPPORT. Every operation of Machine/Thermal.lean keeps the fuses, the queue and canonical memories. -/
namespace Sys2Proof.Machine
set_option linter.all false
set_option Elab.async false

theorem setPair_keeps {pt : Untouched} {s0 : State} (r : Nat) (f : Pair → Pair) (s : State) (h_s : Keeps pt s0 s) (w_thm : pt.thm = false := by assumption) :
    Keeps pt s0 (setPair r f s) := by
  unfold setPair
  repeat' first
    | with_reducible assumption
    | (rw [State.mk_made]; with_reducible refine Keeps.upd ?_)

theorem setMemPair_keeps {pt : Untouched} {s0 : State} (r : Nat) (f : Pair → Pair) (s : State) (h_s : Keeps pt s0 s) (w_thm : pt.thm = false := by assumption) :
    Keeps pt s0 (setMemPair r f s) := by
  unfold setMemPair
  repeat' first
    | with_reducible assumption
    | (rw [State.mk_made]; with_reducible refine Keeps.upd ?_)

theorem setSill_keeps {pt : Untouched} {s0 : State} (i : Nat) (f : SillHeat → SillHeat) (s : State) (h_s : Keeps pt s0 s) (w_thm : pt.thm = false := by assumption) :
    Keeps pt s0 (setSill i f s) := by
  unfold setSill
  repeat' first
    | with_reducible assumption
    | (rw [State.mk_made]; with_reducible refine Keeps.upd ?_)

theorem holdBegins_keeps {pt : Untouched} {s0 : State} (unit temp : Nat) (s : State) (h_s : Keeps pt s0 s) (w_reports : pt.reports = false := by assumption) (w_thm : pt.thm = false := by assumption) :
    Keeps pt s0 (holdBegins unit temp s) := by
  unfold holdBegins
  repeat' first
    | with_reducible assumption
    | (with_reducible apply raise_keeps)
    | (rw [State.mk_made]; with_reducible refine Keeps.upd ?_)
    | split

theorem judgeRegion_keeps {pt : Untouched} {s0 : State} (r : Nat) (s : State) (h_s : Keeps pt s0 s) (w_reports : pt.reports = false := by assumption) (w_thm : pt.thm = false := by assumption) :
    Keeps pt s0 (judgeRegion r s) := by
  unfold judgeRegion
  repeat' first
    | with_reducible assumption
    | (extract_lets +onlyGivenNames x; refine (fun hx : Keeps pt s0 x => ?_) ?_; try clear_value x; rotate_left; unfold x; clear x; rotate_right; rename State => z)
    | (extract_lets +onlyGivenNames x; try clear_value x; revert x; intro z)
    | (with_reducible apply setPair_keeps)
    | (with_reducible apply holdBegins_keeps)
    | split

theorem judgeMem_keeps {pt : Untouched} {s0 : State} (r : Nat) (s : State) (h_s : Keeps pt s0 s) (w_reports : pt.reports = false := by assumption) (w_thm : pt.thm = false := by assumption) :
    Keeps pt s0 (judgeMem r s) := by
  unfold judgeMem
  repeat' first
    | with_reducible assumption
    | (extract_lets +onlyGivenNames x; refine (fun hx : Keeps pt s0 x => ?_) ?_; try clear_value x; rotate_left; unfold x; clear x; rotate_right; rename State => z)
    | (extract_lets +onlyGivenNames x; try clear_value x; revert x; intro z)
    | (with_reducible apply setMemPair_keeps)
    | (with_reducible apply holdBegins_keeps)
    | split

theorem judgeSill_keeps {pt : Untouched} {s0 : State} (i : Nat) (s : State) (h_s : Keeps pt s0 s) (w_reports : pt.reports = false := by assumption) (w_thm : pt.thm = false := by assumption) :
    Keeps pt s0 (judgeSill i s) := by
  unfold judgeSill
  repeat' first
    | with_reducible assumption
    | (extract_lets +onlyGivenNames x; refine (fun hx : Keeps pt s0 x => ?_) ?_; try clear_value x; rotate_left; unfold x; clear x; rotate_right; rename State => z)
    | (extract_lets +onlyGivenNames x; try clear_value x; revert x; intro z)
    | (with_reducible apply setSill_keeps)
    | (with_reducible apply holdBegins_keeps)
    | split

theorem failSensor_keeps {pt : Untouched} {s0 : State} (cls u k : Nat) (s : State) (h_s : Keeps pt s0 s) (w_thm : pt.thm = false := by assumption) :
    Keeps pt s0 (failSensor cls u k s) := by
  unfold failSensor
  repeat' first
    | with_reducible assumption
    | (with_reducible apply setPair_keeps)
    | (with_reducible apply setMemPair_keeps)
    | (with_reducible apply setSill_keeps)
    | (rw [State.mk_made]; with_reducible refine Keeps.upd ?_)
    | split

theorem doSensorFail_keeps {pt : Untouched} {s0 : State} (cls u k : Nat) (s : State) (h_s : Keeps pt s0 s) (w_reports : pt.reports = false := by assumption) (w_thm : pt.thm = false := by assumption) :
    Keeps pt s0 (doSensorFail cls u k s) := by
  unfold doSensorFail
  repeat' first
    | with_reducible assumption
    | (with_reducible apply failSensor_keeps)
    | (with_reducible apply raise_keeps)
    | (rw [State.mk_made]; with_reducible refine Keeps.upd ?_)
    | split

theorem failHot_keeps {pt : Untouched} {s0 : State} (cls u k x : Nat) (s : State) (h_s : Keeps pt s0 s) (w_reports : pt.reports = false := by assumption) (w_thm : pt.thm = false := by assumption) :
    Keeps pt s0 (failHot cls u k x s) := by
  unfold failHot
  repeat' first
    | with_reducible assumption
    | (intro _)
    | (extract_lets +onlyGivenNames x; refine (fun hx : Keeps pt s0 x => ?_) ?_; try clear_value x; rotate_left; unfold x; clear x; rotate_right; rename State => z)
    | (extract_lets +onlyGivenNames x; have hb : MemBlk := x; clear hb; subst x)
    | (extract_lets +onlyGivenNames x; have hb : CoresBlk := x; clear hb; subst x)
    | (extract_lets +onlyGivenNames x; have hb : PrtBlk := x; clear hb; subst x)
    | (extract_lets +onlyGivenNames x; have hb : FrmBlk := x; clear hb; subst x)
    | (extract_lets +onlyGivenNames x; have hb : KprBlk := x; clear hb; subst x)
    | (extract_lets +onlyGivenNames x; have hb : HifBlk := x; clear hb; subst x)
    | (extract_lets +onlyGivenNames x; try clear_value x; revert x; intro z)
    | (with_reducible refine Keeps.upd ?_)
    | (with_reducible apply doSensorFail_keeps)
    | (rw [State.mk_made]; with_reducible refine Keeps.upd ?_)
    | split

theorem failReadings_keeps {pt : Untouched} {s0 : State} (t : TempReadings) (s : State) (h_s : Keeps pt s0 s) (w_reports : pt.reports = false := by assumption) (w_thm : pt.thm = false := by assumption) :
    Keeps pt s0 (failReadings t s) := by
  unfold failReadings
  repeat' first
    | with_reducible assumption
    | (intro _)
    | (extract_lets +onlyGivenNames x; refine (fun hx : Keeps pt s0 x => ?_) ?_; try clear_value x; rotate_left; unfold x; clear x; rotate_right; rename State => z)
    | (extract_lets +onlyGivenNames x; have hb : MemBlk := x; clear hb; subst x)
    | (extract_lets +onlyGivenNames x; have hb : CoresBlk := x; clear hb; subst x)
    | (extract_lets +onlyGivenNames x; have hb : PrtBlk := x; clear hb; subst x)
    | (extract_lets +onlyGivenNames x; have hb : FrmBlk := x; clear hb; subst x)
    | (extract_lets +onlyGivenNames x; have hb : KprBlk := x; clear hb; subst x)
    | (extract_lets +onlyGivenNames x; have hb : HifBlk := x; clear hb; subst x)
    | (extract_lets +onlyGivenNames x; try clear_value x; revert x; intro z)
    | (with_reducible refine Keeps.upd ?_)
    | (with_reducible apply failHot_keeps)
    | (with_reducible refine Keeps.foldl _ ?_ ?_)
    | (rw [State.mk_made]; with_reducible refine Keeps.upd ?_)
    | split

theorem takeReadings_keeps {pt : Untouched} {s0 : State} (t : TempReadings) (s : State) (h_s : Keeps pt s0 s) (w_thm : pt.thm = false := by assumption) :
    Keeps pt s0 (takeReadings t s) := by
  unfold takeReadings
  repeat' first
    | with_reducible assumption
    | (intro _)
    | (with_reducible apply setPair_keeps)
    | (with_reducible apply setMemPair_keeps)
    | (with_reducible apply setSill_keeps)
    | (with_reducible refine Keeps.foldl _ ?_ ?_)
    | (rw [State.mk_made]; with_reducible refine Keeps.upd ?_)

theorem doTempSample_keeps {pt : Untouched} {s0 : State} (t : TempReadings) (s : State) (h_s : Keeps pt s0 s) (w_reports : pt.reports = false := by assumption) (w_thm : pt.thm = false := by assumption) :
    Keeps pt s0 (doTempSample t s) := by
  unfold doTempSample
  repeat' first
    | with_reducible assumption
    | (intro _)
    | (with_reducible apply takeReadings_keeps)
    | (with_reducible apply failReadings_keeps)
    | (with_reducible apply judgeRegion_keeps)
    | (with_reducible apply judgeMem_keeps)
    | (with_reducible apply judgeSill_keeps)
    | (with_reducible refine Keeps.foldl _ ?_ ?_)
    | (rw [State.mk_made]; with_reducible refine Keeps.upd ?_)
    | split

theorem doSensorSuspect_keeps {pt : Untouched} {s0 : State} (mem : Bool) (r : Nat) (s : State) (h_s : Keeps pt s0 s) (w_reports : pt.reports = false := by assumption) (w_thm : pt.thm = false := by assumption) :
    Keeps pt s0 (doSensorSuspect mem r s) := by
  unfold doSensorSuspect
  repeat' first
    | with_reducible assumption
    | (extract_lets +onlyGivenNames x; refine (fun hx : Keeps pt s0 x => ?_) ?_; try clear_value x; rotate_left; unfold x; clear x; rotate_right; rename State => z)
    | (extract_lets +onlyGivenNames x; try clear_value x; revert x; intro z)
    | (with_reducible apply setMemPair_keeps)
    | (with_reducible apply setPair_keeps)
    | (with_reducible apply raise_keeps)
    | (rw [State.mk_made]; with_reducible refine Keeps.upd ?_)
    | split

theorem doTempTrip_keeps {pt : Untouched} {s0 : State} (cls u : Nat) (s : State) (h_s : Keeps pt s0 s) (w_reports : pt.reports = false := by assumption) (w_state : pt.state = false := by assumption) (w_cycle : pt.cycle = false := by assumption) (w_kpr : pt.kpr = false := by assumption) (w_hif : pt.hif = false := by assumption) (w_frm : pt.frm = false := by assumption) :
    Keeps pt s0 (doTempTrip cls u s) := by
  unfold doTempTrip
  repeat' first
    | with_reducible assumption
    | (with_reducible apply fatal_keeps)
    | split

theorem doHoldRelease_keeps {pt : Untouched} {s0 : State} (cls u : Nat) (s : State) (h_s : Keeps pt s0 s) (w_thm : pt.thm = false := by assumption) :
    Keeps pt s0 (doHoldRelease cls u s) := by
  unfold doHoldRelease
  repeat' first
    | with_reducible assumption
    | (with_reducible apply setPair_keeps)
    | (with_reducible apply setMemPair_keeps)
    | (with_reducible apply setSill_keeps)
    | split

theorem updateModel_keeps {pt : Untouched} {s0 : State} (r mw : Nat) (s : State) (h_s : Keeps pt s0 s) (w_reports : pt.reports = false := by assumption) (w_thm : pt.thm = false := by assumption) :
    Keeps pt s0 (updateModel r mw s) := by
  unfold updateModel
  repeat' first
    | with_reducible assumption
    | (extract_lets +onlyGivenNames x; refine (fun hx : Keeps pt s0 x => ?_) ?_; try clear_value x; rotate_left; unfold x; clear x; rotate_right; rename State => z)
    | (extract_lets +onlyGivenNames x; try clear_value x; revert x; intro z)
    | (with_reducible apply setPair_keeps)
    | (with_reducible apply raise_keeps)
    | (rw [State.mk_made]; with_reducible refine Keeps.upd ?_)
    | split

theorem doModelUpdate_keeps {pt : Untouched} {s0 : State} (powers : List (Nat × Nat)) (s : State) (h_s : Keeps pt s0 s) (w_reports : pt.reports = false := by assumption) (w_thm : pt.thm = false := by assumption) :
    Keeps pt s0 (doModelUpdate powers s) := by
  unfold doModelUpdate
  repeat' first
    | with_reducible assumption
    | (intro _)
    | (with_reducible apply judgeRegion_keeps)
    | (with_reducible apply updateModel_keeps)
    | (with_reducible refine Keeps.foldl _ ?_ ?_)
    | split

theorem judgeCooling_keeps {pt : Untouched} {s0 : State} (s : State) (h_s : Keeps pt s0 s) (w_reports : pt.reports = false := by assumption) (w_thm : pt.thm = false := by assumption) :
    Keeps pt s0 (judgeCooling s) := by
  unfold judgeCooling
  repeat' first
    | with_reducible assumption
    | (extract_lets +onlyGivenNames x; try clear_value x; revert x; intro z)
    | (with_reducible apply raise_keeps)
    | (rw [State.mk_made]; with_reducible refine Keeps.upd ?_)
    | split

theorem doCoolingEstimate_keeps {pt : Untouched} {s0 : State} (s : State) (h_s : Keeps pt s0 s) (w_reports : pt.reports = false := by assumption) (w_thm : pt.thm = false := by assumption) :
    Keeps pt s0 (doCoolingEstimate s) := by
  unfold doCoolingEstimate
  repeat' first
    | with_reducible assumption
    | (extract_lets +onlyGivenNames x; refine (fun hx : Keeps pt s0 x => ?_) ?_; try clear_value x; rotate_left; unfold x; clear x; rotate_right; rename State => z)
    | (extract_lets +onlyGivenNames x; try clear_value x; revert x; intro z)
    | (with_reducible apply judgeCooling_keeps)
    | (rw [State.mk_made]; with_reducible refine Keeps.upd ?_)
    | split

end Sys2Proof.Machine
end

