-- ==== Sys2Proof/Laws/KeepsTile.lean ====
section
/-! SUPPORT. Every operation of Machine/Tile.lean keeps the fuses, the queue and canonical memories. -/
namespace Sys2Proof.Machine
set_option linter.all false
set_option Elab.async false

theorem setTile_keeps {pt : Untouched} {s0 : State} (n : Nat) (f : Tile → Tile) (s : State) (h_s : Keeps pt s0 s) (w_mem : pt.mem = false := by assumption) :
    Keeps pt s0 (setTile n f s) := by
  unfold setTile
  repeat' first
    | with_reducible assumption
    | (intro _)
    | (extract_lets +onlyGivenNames x; refine (fun hx : Keeps pt s0 x => ?_) ?_; try clear_value x; rotate_left; unfold x; clear x; rotate_right; rename State => z)
    | (extract_lets +onlyGivenNames x; have hb : MemBlk := x; clear hb; subst x)
    | (extract_lets +onlyGivenNames x; have hb : CoresBlk := x; clear hb; subst x)
    | (extract_lets +onlyGivenNames x; have hb : FrmBlk := x; clear hb; subst x)
    | (extract_lets +onlyGivenNames x; have hb : KprBlk := x; clear hb; subst x)
    | (rw [State.mk_made]; with_reducible refine Keeps.upd ?_)

theorem openRow_keeps {pt : Untouched} {s0 : State} (a : Nat) (s : State) (h_s : Keeps pt s0 s) (w_mem : pt.mem = false := by assumption) :
    Keeps pt s0 (openRow a s) := by
  unfold openRow
  repeat' first
    | with_reducible assumption
    | (intro _)
    | (extract_lets +onlyGivenNames x; refine (fun hx : Keeps pt s0 x => ?_) ?_; try clear_value x; rotate_left; unfold x; clear x; rotate_right; rename State => z)
    | (extract_lets +onlyGivenNames x; have hb : MemBlk := x; clear hb; subst x)
    | (extract_lets +onlyGivenNames x; have hb : CoresBlk := x; clear hb; subst x)
    | (extract_lets +onlyGivenNames x; have hb : FrmBlk := x; clear hb; subst x)
    | (extract_lets +onlyGivenNames x; have hb : KprBlk := x; clear hb; subst x)
    | (rw [State.mk_made]; with_reducible refine Keeps.upd ?_)

theorem storeWord_keeps {pt : Untouched} {s0 : State} (a : Nat) (bytes : List Nat) (s : State) (h_s : Keeps pt s0 s) (w_stacked : pt.stacked = false := by assumption) (w_mem : pt.mem = false := by assumption) :
    Keeps pt s0 (storeWord a bytes s) := by
  unfold storeWord
  refine openRow_keeps _ _ ?_
  rw [State.mk_made]
  with_reducible exact Keeps.upd h_s (hd := fun h => wf_memPutBytes _ _ h) (hk := fun h => wf_memPutBytes _ _ h)

theorem wf_flipByte {m : Memory} (a x : Nat) (h : m.wf = true) : (flipByte m a x).wf = true := wf_memWrite _ _ h

theorem flipSymbols_keeps {pt : Untouched} {s0 : State} (a : Nat) (flips : List (Nat × Nat)) (s : State) (h_s : Keeps pt s0 s) (w_stacked : pt.stacked = false := by assumption) :
    Keeps pt s0 (flipSymbols a flips s) := by
  unfold flipSymbols
  refine Keeps.foldl _ h_s (fun x f h => ?_)
  dsimp only
  split
  · rw [State.mk_made]
    with_reducible exact Keeps.upd h (hd := fun h => wf_flipByte _ _ h)
  · rw [State.mk_made]
    with_reducible exact Keeps.upd h (hk := fun h => wf_flipByte _ _ h)

theorem busError_keeps {pt : Untouched} {s0 : State} (w : Who) (a cause syndrome : Nat) (write : Bool) (s : State) (h_s : Keeps pt s0 s) (w_mem : pt.mem = false := by assumption) :
    Keeps pt s0 (busError w a cause syndrome write s) := by
  unfold busError
  repeat' first
    | with_reducible assumption
    | (intro _)
    | (extract_lets +onlyGivenNames x; refine (fun hx : Keeps pt s0 x => ?_) ?_; try clear_value x; rotate_left; unfold x; clear x; rotate_right; rename State => z)
    | (extract_lets +onlyGivenNames x; have hb : MemBlk := x; clear hb; subst x)
    | (extract_lets +onlyGivenNames x; have hb : CoresBlk := x; clear hb; subst x)
    | (extract_lets +onlyGivenNames x; have hb : FrmBlk := x; clear hb; subst x)
    | (extract_lets +onlyGivenNames x; have hb : KprBlk := x; clear hb; subst x)
    | (rw [State.mk_made]; with_reducible refine Keeps.upd ?_)

theorem countCorrected_keeps {pt : Untouched} {s0 : State} (n : Nat) (s : State) (h_s : Keeps pt s0 s) (w_mem : pt.mem = false := by assumption) :
    Keeps pt s0 (countCorrected n s) := by
  unfold countCorrected
  repeat' first
    | with_reducible assumption
    | (intro _)
    | (extract_lets +onlyGivenNames x; refine (fun hx : Keeps pt s0 x => ?_) ?_; try clear_value x; rotate_left; unfold x; clear x; rotate_right; rename State => z)
    | (extract_lets +onlyGivenNames x; have hb : MemBlk := x; clear hb; subst x)
    | (extract_lets +onlyGivenNames x; have hb : CoresBlk := x; clear hb; subst x)
    | (extract_lets +onlyGivenNames x; have hb : FrmBlk := x; clear hb; subst x)
    | (extract_lets +onlyGivenNames x; have hb : KprBlk := x; clear hb; subst x)
    | (with_reducible apply setTile_keeps)
    | (rw [State.mk_made]; with_reducible refine Keeps.upd ?_)
    | split

theorem uncorrectableEvent_keeps {pt : Untouched} {s0 : State} (w : Who) (a syndrome : Nat) (s : State) (h_s : Keeps pt s0 s) (w_reports : pt.reports = false := by assumption) (w_mem : pt.mem = false := by assumption) :
    Keeps pt s0 (uncorrectableEvent w a syndrome s) := by
  unfold uncorrectableEvent
  repeat' first
    | with_reducible assumption
    | (intro _)
    | (extract_lets +onlyGivenNames x; refine (fun hx : Keeps pt s0 x => ?_) ?_; try clear_value x; rotate_left; unfold x; clear x; rotate_right; rename State => z)
    | (extract_lets +onlyGivenNames x; have hb : MemBlk := x; clear hb; subst x)
    | (extract_lets +onlyGivenNames x; have hb : CoresBlk := x; clear hb; subst x)
    | (extract_lets +onlyGivenNames x; have hb : FrmBlk := x; clear hb; subst x)
    | (extract_lets +onlyGivenNames x; have hb : KprBlk := x; clear hb; subst x)
    | (extract_lets +onlyGivenNames x; try clear_value x; revert x; intro z)
    | (with_reducible apply raise_keeps)
    | (rw [State.mk_made]; with_reducible refine Keeps.upd ?_)
    | split

theorem parityError_keeps {pt : Untouched} {s0 : State} (w : Who) (a : Nat) (write : Bool) (s : State) (h_s : Keeps pt s0 s) (w_mem : pt.mem = false := by assumption) :
    Keeps pt s0 (parityError w a write s) := by
  unfold parityError
  repeat' first
    | with_reducible assumption
    | (intro _)
    | (extract_lets +onlyGivenNames x; refine (fun hx : Keeps pt s0 x => ?_) ?_; try clear_value x; rotate_left; unfold x; clear x; rotate_right; rename State => z)
    | (extract_lets +onlyGivenNames x; have hb : MemBlk := x; clear hb; subst x)
    | (extract_lets +onlyGivenNames x; have hb : CoresBlk := x; clear hb; subst x)
    | (extract_lets +onlyGivenNames x; have hb : PrtBlk := x; clear hb; subst x)
    | (extract_lets +onlyGivenNames x; have hb : FrmBlk := x; clear hb; subst x)
    | (extract_lets +onlyGivenNames x; have hb : KprBlk := x; clear hb; subst x)
    | (extract_lets +onlyGivenNames x; have hb : HifBlk := x; clear hb; subst x)
    | (extract_lets +onlyGivenNames x; try clear_value x; revert x; intro z)
    | (with_reducible refine Keeps.upd ?_)
    | (with_reducible apply setTile_keeps)
    | (with_reducible apply busError_keeps)
    | (rw [State.mk_made]; with_reducible refine Keeps.upd ?_)
    | split

theorem withBadPaths_keeps {pt : Untouched} {s0 : State} (tiles : List Nat) (f : State → State) (s : State) (k_f : ∀ x, Keeps pt s0 x → Keeps pt s0 (f x)) (h_s : Keeps pt s0 s) (w_mem : pt.mem = false := by assumption) :
    Keeps pt s0 (withBadPaths tiles f s) := by
  unfold withBadPaths
  repeat' first
    | with_reducible assumption
    | (intro _)
    | (extract_lets +onlyGivenNames x; refine (fun hx : Keeps pt s0 x => ?_) ?_; try clear_value x; rotate_left; unfold x; clear x; rotate_right; rename State => z)
    | (extract_lets +onlyGivenNames x; have hb : MemBlk := x; clear hb; subst x)
    | (extract_lets +onlyGivenNames x; have hb : CoresBlk := x; clear hb; subst x)
    | (extract_lets +onlyGivenNames x; have hb : PrtBlk := x; clear hb; subst x)
    | (extract_lets +onlyGivenNames x; have hb : FrmBlk := x; clear hb; subst x)
    | (extract_lets +onlyGivenNames x; have hb : KprBlk := x; clear hb; subst x)
    | (extract_lets +onlyGivenNames x; have hb : HifBlk := x; clear hb; subst x)
    | (extract_lets +onlyGivenNames x; try clear_value x; revert x; intro z)
    | (with_reducible refine Keeps.upd ?_)
    | (with_reducible apply k_f)
    | (rw [State.mk_made]; with_reducible refine Keeps.upd ?_)
    | split

theorem countUncorrectable_keeps {pt : Untouched} {s0 : State} (n : Nat) (s : State) (h_s : Keeps pt s0 s) (w_mem : pt.mem = false := by assumption) :
    Keeps pt s0 (countUncorrectable n s) := by
  unfold countUncorrectable
  repeat' first
    | with_reducible assumption
    | (intro _)
    | (extract_lets +onlyGivenNames x; refine (fun hx : Keeps pt s0 x => ?_) ?_; try clear_value x; rotate_left; unfold x; clear x; rotate_right; rename State => z)
    | (extract_lets +onlyGivenNames x; have hb : MemBlk := x; clear hb; subst x)
    | (extract_lets +onlyGivenNames x; have hb : CoresBlk := x; clear hb; subst x)
    | (extract_lets +onlyGivenNames x; have hb : PrtBlk := x; clear hb; subst x)
    | (extract_lets +onlyGivenNames x; have hb : FrmBlk := x; clear hb; subst x)
    | (extract_lets +onlyGivenNames x; have hb : KprBlk := x; clear hb; subst x)
    | (extract_lets +onlyGivenNames x; have hb : HifBlk := x; clear hb; subst x)
    | (extract_lets +onlyGivenNames x; try clear_value x; revert x; intro z)
    | (with_reducible refine Keeps.upd ?_)
    | (with_reducible apply setTile_keeps)
    | (rw [State.mk_made]; with_reducible refine Keeps.upd ?_)
    | split

theorem readWord_keeps {pt : Untouched} {s0 : State} (w : Who) (parity : Bool) (a : Nat) (s : State) (h_s : Keeps pt s0 s) (w_reports : pt.reports = false := by assumption) (w_mem : pt.mem = false := by assumption) :
    Keeps pt s0 (readWord w parity a s).2 := by
  unfold readWord
  repeat' first
    | with_reducible assumption
    | (intro _)
    | (extract_lets +onlyGivenNames x; refine (fun hx : Keeps pt s0 x => ?_) ?_; try clear_value x; rotate_left; unfold x; clear x; rotate_right; rename State => z)
    | (extract_lets +onlyGivenNames x; have hb : MemBlk := x; clear hb; subst x)
    | (extract_lets +onlyGivenNames x; have hb : CoresBlk := x; clear hb; subst x)
    | (extract_lets +onlyGivenNames x; have hb : PrtBlk := x; clear hb; subst x)
    | (extract_lets +onlyGivenNames x; have hb : FrmBlk := x; clear hb; subst x)
    | (extract_lets +onlyGivenNames x; have hb : KprBlk := x; clear hb; subst x)
    | (extract_lets +onlyGivenNames x; have hb : HifBlk := x; clear hb; subst x)
    | (extract_lets +onlyGivenNames x; try clear_value x; revert x; intro z)
    | (with_reducible refine Keeps.upd ?_)
    | (with_reducible apply busError_keeps)
    | (with_reducible apply openRow_keeps)
    | (with_reducible apply parityError_keeps)
    | (with_reducible apply countCorrected_keeps)
    | (with_reducible apply uncorrectableEvent_keeps)
    | (with_reducible apply countUncorrectable_keeps)
    | (rw [State.mk_made]; with_reducible refine Keeps.upd ?_)
    | split

theorem readWords_keeps {pt : Untouched} {s0 : State} (w : Who) (parity : Bool) (n a : Nat) (acc : List Nat) (s : State) (h_s : Keeps pt s0 s) (w_reports : pt.reports = false := by assumption) (w_mem : pt.mem = false := by assumption) :
    Keeps pt s0 (readWords w parity n a acc s).2 := by
  induction n generalizing a acc s with
  | zero => exact h_s
  | succ n ih =>
    unfold readWords
    split
    · rename_i heq
      exact ih _ _ _ (Keeps.snd heq (readWord_keeps _ _ _ _ h_s))
    · rename_i heq
      exact Keeps.snd heq (readWord_keeps _ _ _ _ h_s)

theorem netAccess_keeps {pt : Untouched} {s0 : State} (w : Who) (a len : Nat) (write : Bool) (s : State) (h_s : Keeps pt s0 s) (w_net : pt.net = false := by assumption) :
    Keeps pt s0 (netAccess w a len write s) := by
  unfold netAccess
  repeat' first
    | with_reducible assumption
    | (intro _)
    | (extract_lets +onlyGivenNames x; refine (fun hx : Keeps pt s0 x => ?_) ?_; try clear_value x; rotate_left; unfold x; clear x; rotate_right; rename State => z)
    | (extract_lets +onlyGivenNames x; have hb : MemBlk := x; clear hb; subst x)
    | (extract_lets +onlyGivenNames x; have hb : CoresBlk := x; clear hb; subst x)
    | (extract_lets +onlyGivenNames x; have hb : PrtBlk := x; clear hb; subst x)
    | (extract_lets +onlyGivenNames x; have hb : FrmBlk := x; clear hb; subst x)
    | (extract_lets +onlyGivenNames x; have hb : KprBlk := x; clear hb; subst x)
    | (extract_lets +onlyGivenNames x; have hb : HifBlk := x; clear hb; subst x)
    | (extract_lets +onlyGivenNames x; try clear_value x; revert x; intro z)
    | (with_reducible refine Keeps.upd ?_)
    | (with_reducible apply crossAccess_keeps)
    | (rw [State.mk_made]; with_reducible refine Keeps.upd ?_)
    | split

theorem readBytes_keeps {pt : Untouched} {s0 : State} (w : Who) (parity : Bool) (a len : Nat) (s : State) (h_s : Keeps pt s0 s) (w_reports : pt.reports = false := by assumption) (w_mem : pt.mem = false := by assumption) (w_net : pt.net = false := by assumption) :
    Keeps pt s0 (readBytes w parity a len s).2 := by
  unfold readBytes
  repeat' first
    | with_reducible assumption
    | (intro _)
    | (extract_lets +onlyGivenNames x; refine (fun hx : Keeps pt s0 x => ?_) ?_; try clear_value x; rotate_left; unfold x; clear x; rotate_right; rename State => z)
    | (extract_lets +onlyGivenNames x; have hb : MemBlk := x; clear hb; subst x)
    | (extract_lets +onlyGivenNames x; have hb : CoresBlk := x; clear hb; subst x)
    | (extract_lets +onlyGivenNames x; have hb : PrtBlk := x; clear hb; subst x)
    | (extract_lets +onlyGivenNames x; have hb : FrmBlk := x; clear hb; subst x)
    | (extract_lets +onlyGivenNames x; have hb : KprBlk := x; clear hb; subst x)
    | (extract_lets +onlyGivenNames x; have hb : HifBlk := x; clear hb; subst x)
    | (extract_lets +onlyGivenNames x; try clear_value x; revert x; intro z)
    | (with_reducible refine Keeps.upd ?_)
    | (with_reducible apply netAccess_keeps)
    | (with_reducible apply readWords_keeps)
    | (with_reducible refine Keeps.snd (by with_reducible assumption) ?_)
    | (rw [State.mk_made]; with_reducible refine Keeps.upd ?_)
    | split

theorem storeWords_keeps {pt : Untouched} {s0 : State} (n a : Nat) (bytes : List Nat) (s : State) (h_s : Keeps pt s0 s) (w_stacked : pt.stacked = false := by assumption) (w_mem : pt.mem = false := by assumption) :
    Keeps pt s0 (storeWords n a bytes s) := by
  induction n generalizing a bytes s with
  | zero => exact h_s
  | succ n ih => exact ih _ _ _ (storeWord_keeps _ _ _ h_s)

theorem discardEvent_keeps {pt : Untouched} {s0 : State} (unit addr count : Nat) (s : State) (h_s : Keeps pt s0 s) (w_reports : pt.reports = false := by assumption) (w_hif : pt.hif = false := by assumption) :
    Keeps pt s0 (discardEvent unit addr count s) := by
  unfold discardEvent
  repeat' first
    | with_reducible assumption
    | (intro _)
    | (extract_lets +onlyGivenNames x; refine (fun hx : Keeps pt s0 x => ?_) ?_; try clear_value x; rotate_left; unfold x; clear x; rotate_right; rename State => z)
    | (extract_lets +onlyGivenNames x; have hb : MemBlk := x; clear hb; subst x)
    | (extract_lets +onlyGivenNames x; have hb : CoresBlk := x; clear hb; subst x)
    | (extract_lets +onlyGivenNames x; have hb : FrmBlk := x; clear hb; subst x)
    | (extract_lets +onlyGivenNames x; have hb : KprBlk := x; clear hb; subst x)
    | (extract_lets +onlyGivenNames x; try clear_value x; revert x; intro z)
    | (with_reducible apply raiseFull_keeps)
    | (rw [State.mk_made]; with_reducible refine Keeps.upd ?_)
    | split

theorem stagingDiscard_keeps {pt : Untouched} {s0 : State} (a : Nat) (s : State) (h_s : Keeps pt s0 s) (w_reports : pt.reports = false := by assumption) (w_hif : pt.hif = false := by assumption) :
    Keeps pt s0 (stagingDiscard a s) := by
  unfold stagingDiscard
  repeat' first
    | with_reducible assumption
    | (intro _)
    | (extract_lets +onlyGivenNames x; refine (fun hx : Keeps pt s0 x => ?_) ?_; try clear_value x; rotate_left; unfold x; clear x; rotate_right; rename State => z)
    | (extract_lets +onlyGivenNames x; have hb : MemBlk := x; clear hb; subst x)
    | (extract_lets +onlyGivenNames x; have hb : CoresBlk := x; clear hb; subst x)
    | (extract_lets +onlyGivenNames x; have hb : PrtBlk := x; clear hb; subst x)
    | (extract_lets +onlyGivenNames x; have hb : FrmBlk := x; clear hb; subst x)
    | (extract_lets +onlyGivenNames x; have hb : KprBlk := x; clear hb; subst x)
    | (extract_lets +onlyGivenNames x; have hb : HifBlk := x; clear hb; subst x)
    | (extract_lets +onlyGivenNames x; try clear_value x; revert x; intro z)
    | (with_reducible refine Keeps.upd ?_)
    | (with_reducible apply discardEvent_keeps)
    | (rw [State.mk_made]; with_reducible refine Keeps.upd ?_)
    | split

theorem writeBytes_keeps {pt : Untouched} {s0 : State} (w : Who) (parity : Bool) (a : Nat) (bytes : List Nat) (s : State) (h_s : Keeps pt s0 s) (w_stacked : pt.stacked = false := by assumption) (w_reports : pt.reports = false := by assumption) (w_hif : pt.hif = false := by assumption) (w_mem : pt.mem = false := by assumption) (w_net : pt.net = false := by assumption) :
    Keeps pt s0 (writeBytes w parity a bytes s).2 := by
  unfold writeBytes
  repeat' first
    | with_reducible assumption
    | (intro _)
    | (extract_lets +onlyGivenNames x; refine (fun hx : Keeps pt s0 x => ?_) ?_; try clear_value x; rotate_left; unfold x; clear x; rotate_right; rename State => z)
    | (extract_lets +onlyGivenNames x; have hb : MemBlk := x; clear hb; subst x)
    | (extract_lets +onlyGivenNames x; have hb : CoresBlk := x; clear hb; subst x)
    | (extract_lets +onlyGivenNames x; have hb : PrtBlk := x; clear hb; subst x)
    | (extract_lets +onlyGivenNames x; have hb : FrmBlk := x; clear hb; subst x)
    | (extract_lets +onlyGivenNames x; have hb : KprBlk := x; clear hb; subst x)
    | (extract_lets +onlyGivenNames x; have hb : HifBlk := x; clear hb; subst x)
    | (extract_lets +onlyGivenNames x; try clear_value x; revert x; intro z)
    | (with_reducible refine Keeps.upd ?_)
    | (with_reducible apply netAccess_keeps)
    | (with_reducible apply stagingDiscard_keeps)
    | (with_reducible apply busError_keeps)
    | (with_reducible apply parityError_keeps)
    | (with_reducible apply storeWords_keeps)
    | (rw [State.mk_made]; with_reducible refine Keeps.upd ?_)
    | split

theorem narrowWrite_keeps {pt : Untouched} {s0 : State} (entrance source addr : Nat) (s : State) (h_s : Keeps pt s0 s) (w_reports : pt.reports = false := by assumption) (w_mem : pt.mem = false := by assumption) :
    Keeps pt s0 (narrowWrite entrance source addr s) := by
  unfold narrowWrite
  repeat' first
    | with_reducible assumption
    | (intro _)
    | (extract_lets +onlyGivenNames x; refine (fun hx : Keeps pt s0 x => ?_) ?_; try clear_value x; rotate_left; unfold x; clear x; rotate_right; rename State => z)
    | (extract_lets +onlyGivenNames x; have hb : MemBlk := x; clear hb; subst x)
    | (extract_lets +onlyGivenNames x; have hb : CoresBlk := x; clear hb; subst x)
    | (extract_lets +onlyGivenNames x; have hb : FrmBlk := x; clear hb; subst x)
    | (extract_lets +onlyGivenNames x; have hb : KprBlk := x; clear hb; subst x)
    | (extract_lets +onlyGivenNames x; try clear_value x; revert x; intro z)
    | (with_reducible apply raiseFull_keeps)
    | (rw [State.mk_made]; with_reducible refine Keeps.upd ?_)
    | split

theorem refreshBank_keeps {pt : Untouched} {s0 : State} (n b : Nat) (s : State) (h_s : Keeps pt s0 s) (w_mem : pt.mem = false := by assumption) :
    Keeps pt s0 (refreshBank n b s) := by
  unfold refreshBank
  repeat' first
    | with_reducible assumption
    | (intro _)
    | (extract_lets +onlyGivenNames x; refine (fun hx : Keeps pt s0 x => ?_) ?_; try clear_value x; rotate_left; unfold x; clear x; rotate_right; rename State => z)
    | (extract_lets +onlyGivenNames x; have hb : MemBlk := x; clear hb; subst x)
    | (extract_lets +onlyGivenNames x; have hb : CoresBlk := x; clear hb; subst x)
    | (extract_lets +onlyGivenNames x; have hb : FrmBlk := x; clear hb; subst x)
    | (extract_lets +onlyGivenNames x; have hb : KprBlk := x; clear hb; subst x)
    | (rw [State.mk_made]; with_reducible refine Keeps.upd ?_)

theorem doBankRefreshDue_keeps {pt : Untouched} {s0 : State} (n b : Nat) (serving idled : Bool) (s : State) (h_s : Keeps pt s0 s) (w_mem : pt.mem = false := by assumption) :
    Keeps pt s0 (doBankRefreshDue n b serving idled s) := by
  unfold doBankRefreshDue
  repeat' first
    | with_reducible assumption
    | (intro _)
    | (extract_lets +onlyGivenNames x; refine (fun hx : Keeps pt s0 x => ?_) ?_; try clear_value x; rotate_left; unfold x; clear x; rotate_right; rename State => z)
    | (extract_lets +onlyGivenNames x; have hb : MemBlk := x; clear hb; subst x)
    | (extract_lets +onlyGivenNames x; have hb : CoresBlk := x; clear hb; subst x)
    | (extract_lets +onlyGivenNames x; have hb : PrtBlk := x; clear hb; subst x)
    | (extract_lets +onlyGivenNames x; have hb : FrmBlk := x; clear hb; subst x)
    | (extract_lets +onlyGivenNames x; have hb : KprBlk := x; clear hb; subst x)
    | (extract_lets +onlyGivenNames x; have hb : HifBlk := x; clear hb; subst x)
    | (extract_lets +onlyGivenNames x; try clear_value x; revert x; intro z)
    | (with_reducible refine Keeps.upd ?_)
    | (with_reducible apply refreshBank_keeps)
    | (with_reducible apply setTile_keeps)
    | (rw [State.mk_made]; with_reducible refine Keeps.upd ?_)
    | split

theorem doTileTempSample_keeps {pt : Untouched} {s0 : State} (n : Nat) (s : State) (h_s : Keeps pt s0 s) (w_reports : pt.reports = false := by assumption) (w_mem : pt.mem = false := by assumption) :
    Keeps pt s0 (doTileTempSample n s) := by
  unfold doTileTempSample
  repeat' first
    | with_reducible assumption
    | (intro _)
    | (extract_lets +onlyGivenNames x; refine (fun hx : Keeps pt s0 x => ?_) ?_; try clear_value x; rotate_left; unfold x; clear x; rotate_right; rename State => z)
    | (extract_lets +onlyGivenNames x; have hb : MemBlk := x; clear hb; subst x)
    | (extract_lets +onlyGivenNames x; have hb : CoresBlk := x; clear hb; subst x)
    | (extract_lets +onlyGivenNames x; have hb : FrmBlk := x; clear hb; subst x)
    | (extract_lets +onlyGivenNames x; have hb : KprBlk := x; clear hb; subst x)
    | (extract_lets +onlyGivenNames x; try clear_value x; revert x; intro z)
    | (with_reducible apply setTile_keeps)
    | (with_reducible apply raise_keeps)
    | (rw [State.mk_made]; with_reducible refine Keeps.upd ?_)
    | split

theorem scrubBad_keeps {pt : Untouched} {s0 : State} (n a syn : Nat) (s : State) (h_s : Keeps pt s0 s) (w_reports : pt.reports = false := by assumption) (w_mem : pt.mem = false := by assumption) :
    Keeps pt s0 (scrubBad n a syn s) := by
  unfold scrubBad
  repeat' first
    | with_reducible assumption
    | (intro _)
    | (extract_lets +onlyGivenNames x; refine (fun hx : Keeps pt s0 x => ?_) ?_; try clear_value x; rotate_left; unfold x; clear x; rotate_right; rename State => z)
    | (extract_lets +onlyGivenNames x; have hb : MemBlk := x; clear hb; subst x)
    | (extract_lets +onlyGivenNames x; have hb : CoresBlk := x; clear hb; subst x)
    | (extract_lets +onlyGivenNames x; have hb : PrtBlk := x; clear hb; subst x)
    | (extract_lets +onlyGivenNames x; have hb : FrmBlk := x; clear hb; subst x)
    | (extract_lets +onlyGivenNames x; have hb : KprBlk := x; clear hb; subst x)
    | (extract_lets +onlyGivenNames x; have hb : HifBlk := x; clear hb; subst x)
    | (extract_lets +onlyGivenNames x; try clear_value x; revert x; intro z)
    | (with_reducible refine Keeps.upd ?_)
    | (with_reducible apply raise_keeps)
    | (with_reducible apply busError_keeps)
    | (with_reducible apply countUncorrectable_keeps)
    | (rw [State.mk_made]; with_reducible refine Keeps.upd ?_)
    | split

theorem countHard_keeps {pt : Untouched} {s0 : State} (n a i : Nat) (s : State) (h_s : Keeps pt s0 s) (w_mem : pt.mem = false := by assumption) :
    Keeps pt s0 (countHard n a i s) := by
  unfold countHard
  repeat' first
    | with_reducible assumption
    | (intro _)
    | (extract_lets +onlyGivenNames x; refine (fun hx : Keeps pt s0 x => ?_) ?_; try clear_value x; rotate_left; unfold x; clear x; rotate_right; rename State => z)
    | (extract_lets +onlyGivenNames x; have hb : MemBlk := x; clear hb; subst x)
    | (extract_lets +onlyGivenNames x; have hb : CoresBlk := x; clear hb; subst x)
    | (extract_lets +onlyGivenNames x; have hb : PrtBlk := x; clear hb; subst x)
    | (extract_lets +onlyGivenNames x; have hb : FrmBlk := x; clear hb; subst x)
    | (extract_lets +onlyGivenNames x; have hb : KprBlk := x; clear hb; subst x)
    | (extract_lets +onlyGivenNames x; have hb : HifBlk := x; clear hb; subst x)
    | (extract_lets +onlyGivenNames x; try clear_value x; revert x; intro z)
    | (with_reducible refine Keeps.upd ?_)
    | (with_reducible apply setTile_keeps)
    | (rw [State.mk_made]; with_reducible refine Keeps.upd ?_)
    | split

theorem scrubAgain_keeps {pt : Untouched} {s0 : State} (n a i : Nat) (s : State) (h_s : Keeps pt s0 s) (w_reports : pt.reports = false := by assumption) (w_mem : pt.mem = false := by assumption) :
    Keeps pt s0 (scrubAgain n a i s) := by
  unfold scrubAgain
  repeat' first
    | with_reducible assumption
    | (intro _)
    | (extract_lets +onlyGivenNames x; refine (fun hx : Keeps pt s0 x => ?_) ?_; try clear_value x; rotate_left; unfold x; clear x; rotate_right; rename State => z)
    | (extract_lets +onlyGivenNames x; have hb : MemBlk := x; clear hb; subst x)
    | (extract_lets +onlyGivenNames x; have hb : CoresBlk := x; clear hb; subst x)
    | (extract_lets +onlyGivenNames x; have hb : PrtBlk := x; clear hb; subst x)
    | (extract_lets +onlyGivenNames x; have hb : FrmBlk := x; clear hb; subst x)
    | (extract_lets +onlyGivenNames x; have hb : KprBlk := x; clear hb; subst x)
    | (extract_lets +onlyGivenNames x; have hb : HifBlk := x; clear hb; subst x)
    | (extract_lets +onlyGivenNames x; try clear_value x; revert x; intro z)
    | (with_reducible refine Keeps.upd ?_)
    | (with_reducible apply countHard_keeps)
    | (with_reducible apply countCorrected_keeps)
    | (with_reducible apply scrubBad_keeps)
    | (rw [State.mk_made]; with_reducible refine Keeps.upd ?_)
    | split

theorem scrubWord_keeps {pt : Untouched} {s0 : State} (n a : Nat) (parity : Bool) (again : List (Nat × Nat)) (s : State) (h_s : Keeps pt s0 s) (w_stacked : pt.stacked = false := by assumption) (w_reports : pt.reports = false := by assumption) (w_mem : pt.mem = false := by assumption) :
    Keeps pt s0 (scrubWord n a parity again s) := by
  unfold scrubWord
  repeat' first
    | with_reducible assumption
    | (intro _)
    | (extract_lets +onlyGivenNames x; refine (fun hx : Keeps pt s0 x => ?_) ?_; try clear_value x; rotate_left; unfold x; clear x; rotate_right; rename State => z)
    | (extract_lets +onlyGivenNames x; have hb : MemBlk := x; clear hb; subst x)
    | (extract_lets +onlyGivenNames x; have hb : CoresBlk := x; clear hb; subst x)
    | (extract_lets +onlyGivenNames x; have hb : PrtBlk := x; clear hb; subst x)
    | (extract_lets +onlyGivenNames x; have hb : FrmBlk := x; clear hb; subst x)
    | (extract_lets +onlyGivenNames x; have hb : KprBlk := x; clear hb; subst x)
    | (extract_lets +onlyGivenNames x; have hb : HifBlk := x; clear hb; subst x)
    | (extract_lets +onlyGivenNames x; try clear_value x; revert x; intro z)
    | (with_reducible refine Keeps.upd ?_)
    | (with_reducible apply raise_keeps)
    | (with_reducible apply parityError_keeps)
    | (with_reducible apply scrubAgain_keeps)
    | (with_reducible apply flipSymbols_keeps)
    | (with_reducible apply storeWord_keeps)
    | (with_reducible apply countCorrected_keeps)
    | (with_reducible apply scrubBad_keeps)
    | (rw [State.mk_made]; with_reducible refine Keeps.upd ?_)
    | split

theorem doScrubRun_keeps {pt : Untouched} {s0 : State} (n : Nat) (flips again : List (Nat × Nat)) (parity : List Nat) (s : State) (h_s : Keeps pt s0 s) (w_stacked : pt.stacked = false := by assumption) (w_reports : pt.reports = false := by assumption) (w_mem : pt.mem = false := by assumption) :
    Keeps pt s0 (doScrubRun n flips again parity s) := by
  unfold doScrubRun
  repeat' first
    | with_reducible assumption
    | (intro _)
    | (extract_lets +onlyGivenNames x; refine (fun hx : Keeps pt s0 x => ?_) ?_; try clear_value x; rotate_left; unfold x; clear x; rotate_right; rename State => z)
    | (extract_lets +onlyGivenNames x; have hb : MemBlk := x; clear hb; subst x)
    | (extract_lets +onlyGivenNames x; have hb : CoresBlk := x; clear hb; subst x)
    | (extract_lets +onlyGivenNames x; have hb : PrtBlk := x; clear hb; subst x)
    | (extract_lets +onlyGivenNames x; have hb : FrmBlk := x; clear hb; subst x)
    | (extract_lets +onlyGivenNames x; have hb : KprBlk := x; clear hb; subst x)
    | (extract_lets +onlyGivenNames x; have hb : HifBlk := x; clear hb; subst x)
    | (extract_lets +onlyGivenNames x; try clear_value x; revert x; intro z)
    | (with_reducible refine Keeps.upd ?_)
    | (with_reducible apply scrubWord_keeps)
    | (with_reducible apply openRow_keeps)
    | (with_reducible apply flipSymbols_keeps)
    | (with_reducible apply setTile_keeps)
    | (with_reducible refine Keeps.foldl _ ?_ ?_)
    | (rw [State.mk_made]; with_reducible refine Keeps.upd ?_)
    | split

theorem doCeThreshold_keeps {pt : Untouched} {s0 : State} (n : Nat) (s : State) (h_s : Keeps pt s0 s) (w_reports : pt.reports = false := by assumption) (w_mem : pt.mem = false := by assumption) :
    Keeps pt s0 (doCeThreshold n s) := by
  unfold doCeThreshold
  repeat' first
    | with_reducible assumption
    | (intro _)
    | (extract_lets +onlyGivenNames x; refine (fun hx : Keeps pt s0 x => ?_) ?_; try clear_value x; rotate_left; unfold x; clear x; rotate_right; rename State => z)
    | (extract_lets +onlyGivenNames x; have hb : MemBlk := x; clear hb; subst x)
    | (extract_lets +onlyGivenNames x; have hb : CoresBlk := x; clear hb; subst x)
    | (extract_lets +onlyGivenNames x; have hb : FrmBlk := x; clear hb; subst x)
    | (extract_lets +onlyGivenNames x; have hb : KprBlk := x; clear hb; subst x)
    | (extract_lets +onlyGivenNames x; try clear_value x; revert x; intro z)
    | (with_reducible apply raise_keeps)
    | (with_reducible apply setTile_keeps)
    | (rw [State.mk_made]; with_reducible refine Keeps.upd ?_)
    | split

theorem doSashStallTimeout_keeps {pt : Untouched} {s0 : State} (n : Nat) (s : State) (h_s : Keeps pt s0 s) (w_mem : pt.mem = false := by assumption) :
    Keeps pt s0 (doSashStallTimeout n s) := by
  unfold doSashStallTimeout
  repeat' first
    | with_reducible assumption
    | (intro _)
    | (extract_lets +onlyGivenNames x; refine (fun hx : Keeps pt s0 x => ?_) ?_; try clear_value x; rotate_left; unfold x; clear x; rotate_right; rename State => z)
    | (extract_lets +onlyGivenNames x; have hb : MemBlk := x; clear hb; subst x)
    | (extract_lets +onlyGivenNames x; have hb : CoresBlk := x; clear hb; subst x)
    | (extract_lets +onlyGivenNames x; have hb : FrmBlk := x; clear hb; subst x)
    | (extract_lets +onlyGivenNames x; have hb : KprBlk := x; clear hb; subst x)
    | (with_reducible apply setTile_keeps)
    | split

end Sys2Proof.Machine
end

