-- ==== Sys2Proof/Laws/KeepsHostIf.lean ====
section
/-! SUPPORT. Every operation of Machine/HostIf.lean keeps the fuses, the queue and canonical memories. -/
namespace Sys2Proof.Machine
set_option linter.all false
set_option Elab.async false

theorem lastErr_keeps {pt : Untouched} {s0 : State} (kind window addr : Nat) (s : State) (h_s : Keeps pt s0 s) (w_hif : pt.hif = false := by assumption) :
    Keeps pt s0 (lastErr kind window addr s) := by
  unfold lastErr
  repeat' first
    | with_reducible assumption
    | (extract_lets +onlyGivenNames x; refine (fun hx : Keeps pt s0 x => ?_) ?_; try clear_value x; rotate_left; unfold x; clear x; rotate_right; rename State => z)
    | (rw [State.mk_made]; with_reducible refine Keeps.upd ?_)

theorem bar2Unsupported_keeps {pt : Untouched} {s0 : State} (ty off len : Nat) (s : State) (h_s : Keeps pt s0 s) (w_hif : pt.hif = false := by assumption) :
    Keeps pt s0 (bar2Unsupported ty off len s) := by
  unfold bar2Unsupported
  repeat' first
    | with_reducible assumption
    | (intro _)
    | (extract_lets +onlyGivenNames x; refine (fun hx : Keeps pt s0 x => ?_) ?_; try clear_value x; rotate_left; unfold x; clear x; rotate_right; rename State => z)
    | (extract_lets +onlyGivenNames x; have hb : MemBlk := x; clear hb; subst x)
    | (extract_lets +onlyGivenNames x; have hb : CoresBlk := x; clear hb; subst x)
    | (extract_lets +onlyGivenNames x; have hb : PrtBlk := x; clear hb; subst x)
    | (extract_lets +onlyGivenNames x; have hb : FrmBlk := x; clear hb; subst x)
    | (extract_lets +onlyGivenNames x; have hb : KprBlk := x; clear hb; subst x)
    | (extract_lets +onlyGivenNames x; have hb : HifBlk := x; clear hb; subst x)
    | (extract_lets +onlyGivenNames x; try clear_value x; revert x; intro z)
    | (with_reducible refine Keeps.upd ?_)
    | (with_reducible apply aerError_keeps)
    | (with_reducible apply lastErr_keeps)
    | (rw [State.mk_made]; with_reducible refine Keeps.upd ?_)
    | split

theorem holdRequest_keeps {pt : Untouched} {s0 : State} (a : Nat) (q : HeldReq) (s : State) (h_s : Keeps pt s0 s) (w_mem : pt.mem = false := by assumption) :
    Keeps pt s0 (holdRequest a q s) := by
  unfold holdRequest
  repeat' first
    | with_reducible assumption
    | (intro _)
    | (extract_lets +onlyGivenNames x; refine (fun hx : Keeps pt s0 x => ?_) ?_; try clear_value x; rotate_left; unfold x; clear x; rotate_right; rename State => z)
    | (extract_lets +onlyGivenNames x; have hb : MemBlk := x; clear hb; subst x)
    | (extract_lets +onlyGivenNames x; have hb : CoresBlk := x; clear hb; subst x)
    | (extract_lets +onlyGivenNames x; have hb : PrtBlk := x; clear hb; subst x)
    | (extract_lets +onlyGivenNames x; have hb : FrmBlk := x; clear hb; subst x)
    | (extract_lets +onlyGivenNames x; have hb : KprBlk := x; clear hb; subst x)
    | (extract_lets +onlyGivenNames x; have hb : HifBlk := x; clear hb; subst x)
    | (extract_lets +onlyGivenNames x; try clear_value x; revert x; intro z)
    | (with_reducible refine Keeps.upd ?_)
    | (with_reducible apply setTile_keeps)
    | (rw [State.mk_made]; with_reducible refine Keeps.upd ?_)
    | split

theorem bar2Abort_keeps {pt : Untouched} {s0 : State} (a len : Nat) (s : State) (h_s : Keeps pt s0 s) (w_hif : pt.hif = false := by assumption) :
    Keeps pt s0 (bar2Abort a len s) := by
  unfold bar2Abort
  repeat' first
    | with_reducible assumption
    | (intro _)
    | (extract_lets +onlyGivenNames x; refine (fun hx : Keeps pt s0 x => ?_) ?_; try clear_value x; rotate_left; unfold x; clear x; rotate_right; rename State => z)
    | (extract_lets +onlyGivenNames x; have hb : MemBlk := x; clear hb; subst x)
    | (extract_lets +onlyGivenNames x; have hb : CoresBlk := x; clear hb; subst x)
    | (extract_lets +onlyGivenNames x; have hb : PrtBlk := x; clear hb; subst x)
    | (extract_lets +onlyGivenNames x; have hb : FrmBlk := x; clear hb; subst x)
    | (extract_lets +onlyGivenNames x; have hb : KprBlk := x; clear hb; subst x)
    | (extract_lets +onlyGivenNames x; have hb : HifBlk := x; clear hb; subst x)
    | (extract_lets +onlyGivenNames x; try clear_value x; revert x; intro z)
    | (with_reducible refine Keeps.upd ?_)
    | (with_reducible apply emit_keeps)
    | (with_reducible apply aerError_keeps)
    | (with_reducible apply lastErr_keeps)
    | (rw [State.mk_made]; with_reducible refine Keeps.upd ?_)
    | split

theorem serveBar2Read_keeps {pt : Untouched} {s0 : State} (a len : Nat) (parity : Bool) (s : State) (h_s : Keeps pt s0 s) (w_reports : pt.reports = false := by assumption) (w_hif : pt.hif = false := by assumption) (w_mem : pt.mem = false := by assumption) (w_net : pt.net = false := by assumption) :
    Keeps pt s0 (serveBar2Read a len parity s) := by
  unfold serveBar2Read
  repeat' first
    | with_reducible assumption
    | (intro _)
    | (extract_lets +onlyGivenNames x; refine (fun hx : Keeps pt s0 x => ?_) ?_; try clear_value x; rotate_left; unfold x; clear x; rotate_right; rename State => z)
    | (extract_lets +onlyGivenNames x; have hb : MemBlk := x; clear hb; subst x)
    | (extract_lets +onlyGivenNames x; have hb : CoresBlk := x; clear hb; subst x)
    | (extract_lets +onlyGivenNames x; have hb : PrtBlk := x; clear hb; subst x)
    | (extract_lets +onlyGivenNames x; have hb : FrmBlk := x; clear hb; subst x)
    | (extract_lets +onlyGivenNames x; have hb : KprBlk := x; clear hb; subst x)
    | (extract_lets +onlyGivenNames x; have hb : HifBlk := x; clear hb; subst x)
    | (extract_lets +onlyGivenNames x; try clear_value x; revert x; intro z)
    | (with_reducible refine Keeps.upd ?_)
    | (with_reducible apply readBytes_keeps)
    | (with_reducible apply emit_keeps)
    | (with_reducible apply bar2Abort_keeps)
    | (with_reducible refine Keeps.snd (by with_reducible assumption) ?_)
    | (rw [State.mk_made]; with_reducible refine Keeps.upd ?_)
    | split

theorem doBar2Read_keeps {pt : Untouched} {s0 : State} (off len : Nat) (flips : List (Nat × Nat)) (parity : Bool) (s : State) (h_s : Keeps pt s0 s) (w_stacked : pt.stacked = false := by assumption) (w_reports : pt.reports = false := by assumption) (w_hif : pt.hif = false := by assumption) (w_mem : pt.mem = false := by assumption) (w_net : pt.net = false := by assumption) :
    Keeps pt s0 (doBar2Read off len flips parity s) := by
  unfold doBar2Read
  repeat' first
    | with_reducible assumption
    | (intro _)
    | (extract_lets +onlyGivenNames x; refine (fun hx : Keeps pt s0 x => ?_) ?_; try clear_value x; rotate_left; unfold x; clear x; rotate_right; rename State => z)
    | (extract_lets +onlyGivenNames x; have hb : MemBlk := x; clear hb; subst x)
    | (extract_lets +onlyGivenNames x; have hb : CoresBlk := x; clear hb; subst x)
    | (extract_lets +onlyGivenNames x; have hb : PrtBlk := x; clear hb; subst x)
    | (extract_lets +onlyGivenNames x; have hb : FrmBlk := x; clear hb; subst x)
    | (extract_lets +onlyGivenNames x; have hb : KprBlk := x; clear hb; subst x)
    | (extract_lets +onlyGivenNames x; have hb : HifBlk := x; clear hb; subst x)
    | (extract_lets +onlyGivenNames x; try clear_value x; revert x; intro z)
    | (with_reducible refine Keeps.upd ?_)
    | (with_reducible apply emit_keeps)
    | (with_reducible apply bar2Unsupported_keeps)
    | (with_reducible apply flipSymbols_keeps)
    | (with_reducible apply holdRequest_keeps)
    | (with_reducible apply serveBar2Read_keeps)
    | (rw [State.mk_made]; with_reducible refine Keeps.upd ?_)
    | split

theorem serveBar2Write_keeps {pt : Untouched} {s0 : State} (a : Nat) (bytes : List Nat) (parity : Bool) (s : State) (h_s : Keeps pt s0 s) (w_stacked : pt.stacked = false := by assumption) (w_reports : pt.reports = false := by assumption) (w_hif : pt.hif = false := by assumption) (w_mem : pt.mem = false := by assumption) (w_net : pt.net = false := by assumption) :
    Keeps pt s0 (serveBar2Write a bytes parity s) := by
  unfold serveBar2Write
  repeat' first
    | with_reducible assumption
    | (intro _)
    | (extract_lets +onlyGivenNames x; refine (fun hx : Keeps pt s0 x => ?_) ?_; try clear_value x; rotate_left; unfold x; clear x; rotate_right; rename State => z)
    | (extract_lets +onlyGivenNames x; have hb : MemBlk := x; clear hb; subst x)
    | (extract_lets +onlyGivenNames x; have hb : CoresBlk := x; clear hb; subst x)
    | (extract_lets +onlyGivenNames x; have hb : PrtBlk := x; clear hb; subst x)
    | (extract_lets +onlyGivenNames x; have hb : FrmBlk := x; clear hb; subst x)
    | (extract_lets +onlyGivenNames x; have hb : KprBlk := x; clear hb; subst x)
    | (extract_lets +onlyGivenNames x; have hb : HifBlk := x; clear hb; subst x)
    | (extract_lets +onlyGivenNames x; try clear_value x; revert x; intro z)
    | (with_reducible refine Keeps.upd ?_)
    | (with_reducible apply writeBytes_keeps)
    | (with_reducible refine Keeps.snd (by with_reducible assumption) ?_)
    | (rw [State.mk_made]; with_reducible refine Keeps.upd ?_)
    | split

theorem doBar2Write_keeps {pt : Untouched} {s0 : State} (off : Nat) (bytes : List Nat) (allEnabled parity : Bool) (s : State) (h_s : Keeps pt s0 s) (w_stacked : pt.stacked = false := by assumption) (w_reports : pt.reports = false := by assumption) (w_hif : pt.hif = false := by assumption) (w_mem : pt.mem = false := by assumption) (w_net : pt.net = false := by assumption) :
    Keeps pt s0 (doBar2Write off bytes allEnabled parity s) := by
  unfold doBar2Write
  repeat' first
    | with_reducible assumption
    | (intro _)
    | (extract_lets +onlyGivenNames x; refine (fun hx : Keeps pt s0 x => ?_) ?_; try clear_value x; rotate_left; unfold x; clear x; rotate_right; rename State => z)
    | (extract_lets +onlyGivenNames x; have hb : MemBlk := x; clear hb; subst x)
    | (extract_lets +onlyGivenNames x; have hb : CoresBlk := x; clear hb; subst x)
    | (extract_lets +onlyGivenNames x; have hb : PrtBlk := x; clear hb; subst x)
    | (extract_lets +onlyGivenNames x; have hb : FrmBlk := x; clear hb; subst x)
    | (extract_lets +onlyGivenNames x; have hb : KprBlk := x; clear hb; subst x)
    | (extract_lets +onlyGivenNames x; have hb : HifBlk := x; clear hb; subst x)
    | (extract_lets +onlyGivenNames x; try clear_value x; revert x; intro z)
    | (with_reducible refine Keeps.upd ?_)
    | (with_reducible apply bar2Unsupported_keeps)
    | (with_reducible apply stagingDiscard_keeps)
    | (with_reducible apply narrowWrite_keeps)
    | (with_reducible apply holdRequest_keeps)
    | (with_reducible apply serveBar2Write_keeps)
    | (rw [State.mk_made]; with_reducible refine Keeps.upd ?_)
    | split

theorem ownedRead_keeps {pt : Untouched} {s0 : State} (i a : Nat) (s : State) (h_s : Keeps pt s0 s) (w_hif : pt.hif = false := by assumption) :
    Keeps pt s0 (ownedRead i a s) := by
  unfold ownedRead
  repeat' first
    | with_reducible assumption
    | (extract_lets +onlyGivenNames x; refine (fun hx : Keeps pt s0 x => ?_) ?_; try clear_value x; rotate_left; unfold x; clear x; rotate_right; rename State => z)
    | (with_reducible apply emit_keeps)
    | (with_reducible apply lastErr_keeps)
    | (rw [State.mk_made]; with_reducible refine Keeps.upd ?_)

theorem ownedWrite_keeps {pt : Untouched} {s0 : State} (i a : Nat) (s : State) (h_s : Keeps pt s0 s) (w_reports : pt.reports = false := by assumption) (w_hif : pt.hif = false := by assumption) :
    Keeps pt s0 (ownedWrite i a s) := by
  unfold ownedWrite
  repeat' first
    | with_reducible assumption
    | (extract_lets +onlyGivenNames x; refine (fun hx : Keeps pt s0 x => ?_) ?_; try clear_value x; rotate_left; unfold x; clear x; rotate_right; rename State => z)
    | (with_reducible apply lastErr_keeps)
    | (with_reducible apply emit_keeps)
    | (with_reducible apply discardEvent_keeps)
    | (rw [State.mk_made]; with_reducible refine Keeps.upd ?_)

theorem poisonedWrite_keeps {pt : Untouched} {s0 : State} (a : Nat) (s : State) (h_s : Keeps pt s0 s) (w_reports : pt.reports = false := by assumption) (w_hif : pt.hif = false := by assumption) :
    Keeps pt s0 (poisonedWrite a s) := by
  unfold poisonedWrite
  repeat' first
    | with_reducible assumption
    | (extract_lets +onlyGivenNames x; refine (fun hx : Keeps pt s0 x => ?_) ?_; try clear_value x; rotate_left; unfold x; clear x; rotate_right; rename State => z)
    | (with_reducible apply lastErr_keeps)
    | (with_reducible apply raise_keeps)
    | (rw [State.mk_made]; with_reducible refine Keeps.upd ?_)

theorem serveCxlRead_keeps {pt : Untouched} {s0 : State} (a : Nat) (parity : Bool) (s : State) (h_s : Keeps pt s0 s) (w_reports : pt.reports = false := by assumption) (w_mem : pt.mem = false := by assumption) (w_net : pt.net = false := by assumption) :
    Keeps pt s0 (serveCxlRead a parity s) := by
  unfold serveCxlRead
  repeat' first
    | with_reducible assumption
    | (intro _)
    | (extract_lets +onlyGivenNames x; refine (fun hx : Keeps pt s0 x => ?_) ?_; try clear_value x; rotate_left; unfold x; clear x; rotate_right; rename State => z)
    | (extract_lets +onlyGivenNames x; have hb : MemBlk := x; clear hb; subst x)
    | (extract_lets +onlyGivenNames x; have hb : CoresBlk := x; clear hb; subst x)
    | (extract_lets +onlyGivenNames x; have hb : PrtBlk := x; clear hb; subst x)
    | (extract_lets +onlyGivenNames x; have hb : FrmBlk := x; clear hb; subst x)
    | (extract_lets +onlyGivenNames x; have hb : KprBlk := x; clear hb; subst x)
    | (extract_lets +onlyGivenNames x; have hb : HifBlk := x; clear hb; subst x)
    | (extract_lets +onlyGivenNames x; try clear_value x; revert x; intro z)
    | (with_reducible refine Keeps.upd ?_)
    | (with_reducible apply readBytes_keeps)
    | (with_reducible apply emit_keeps)
    | (with_reducible refine Keeps.snd (by with_reducible assumption) ?_)
    | (rw [State.mk_made]; with_reducible refine Keeps.upd ?_)
    | split

theorem cxlRead_keeps {pt : Untouched} {s0 : State} (hpa : Nat) (flips : List (Nat × Nat)) (parity : Bool) (s : State) (h_s : Keeps pt s0 s) (w_stacked : pt.stacked = false := by assumption) (w_reports : pt.reports = false := by assumption) (w_hif : pt.hif = false := by assumption) (w_mem : pt.mem = false := by assumption) (w_net : pt.net = false := by assumption) :
    Keeps pt s0 (cxlRead hpa flips parity s) := by
  unfold cxlRead
  repeat' first
    | with_reducible assumption
    | (intro _)
    | (extract_lets +onlyGivenNames x; refine (fun hx : Keeps pt s0 x => ?_) ?_; try clear_value x; rotate_left; unfold x; clear x; rotate_right; rename State => z)
    | (extract_lets +onlyGivenNames x; have hb : MemBlk := x; clear hb; subst x)
    | (extract_lets +onlyGivenNames x; have hb : CoresBlk := x; clear hb; subst x)
    | (extract_lets +onlyGivenNames x; have hb : PrtBlk := x; clear hb; subst x)
    | (extract_lets +onlyGivenNames x; have hb : FrmBlk := x; clear hb; subst x)
    | (extract_lets +onlyGivenNames x; have hb : KprBlk := x; clear hb; subst x)
    | (extract_lets +onlyGivenNames x; have hb : HifBlk := x; clear hb; subst x)
    | (extract_lets +onlyGivenNames x; try clear_value x; revert x; intro z)
    | (with_reducible refine Keeps.upd ?_)
    | (with_reducible apply emit_keeps)
    | (with_reducible apply flipSymbols_keeps)
    | (with_reducible apply ownedRead_keeps)
    | (with_reducible apply holdRequest_keeps)
    | (with_reducible apply serveCxlRead_keeps)
    | (rw [State.mk_made]; with_reducible refine Keeps.upd ?_)
    | split

theorem doMemrd_keeps {pt : Untouched} {s0 : State} (hpa : Nat) (flips : List (Nat × Nat)) (parity : Bool) (s : State) (h_s : Keeps pt s0 s) (w_stacked : pt.stacked = false := by assumption) (w_reports : pt.reports = false := by assumption) (w_hif : pt.hif = false := by assumption) (w_mem : pt.mem = false := by assumption) (w_net : pt.net = false := by assumption) :
    Keeps pt s0 (doMemrd hpa flips parity s) := by
  unfold doMemrd
  repeat' first
    | with_reducible assumption
    | (intro _)
    | (extract_lets +onlyGivenNames x; refine (fun hx : Keeps pt s0 x => ?_) ?_; try clear_value x; rotate_left; unfold x; clear x; rotate_right; rename State => z)
    | (extract_lets +onlyGivenNames x; have hb : MemBlk := x; clear hb; subst x)
    | (extract_lets +onlyGivenNames x; have hb : CoresBlk := x; clear hb; subst x)
    | (extract_lets +onlyGivenNames x; have hb : PrtBlk := x; clear hb; subst x)
    | (extract_lets +onlyGivenNames x; have hb : FrmBlk := x; clear hb; subst x)
    | (extract_lets +onlyGivenNames x; have hb : KprBlk := x; clear hb; subst x)
    | (extract_lets +onlyGivenNames x; have hb : HifBlk := x; clear hb; subst x)
    | (extract_lets +onlyGivenNames x; try clear_value x; revert x; intro z)
    | (with_reducible refine Keeps.upd ?_)
    | (with_reducible apply cxlRead_keeps)
    | (rw [State.mk_made]; with_reducible refine Keeps.upd ?_)
    | split

theorem doMemrddata_keeps {pt : Untouched} {s0 : State} (hpa : Nat) (flips : List (Nat × Nat)) (parity : Bool) (s : State) (h_s : Keeps pt s0 s) (w_stacked : pt.stacked = false := by assumption) (w_reports : pt.reports = false := by assumption) (w_hif : pt.hif = false := by assumption) (w_mem : pt.mem = false := by assumption) (w_net : pt.net = false := by assumption) :
    Keeps pt s0 (doMemrddata hpa flips parity s) := by
  unfold doMemrddata
  repeat' first
    | with_reducible assumption
    | (intro _)
    | (extract_lets +onlyGivenNames x; refine (fun hx : Keeps pt s0 x => ?_) ?_; try clear_value x; rotate_left; unfold x; clear x; rotate_right; rename State => z)
    | (extract_lets +onlyGivenNames x; have hb : MemBlk := x; clear hb; subst x)
    | (extract_lets +onlyGivenNames x; have hb : CoresBlk := x; clear hb; subst x)
    | (extract_lets +onlyGivenNames x; have hb : PrtBlk := x; clear hb; subst x)
    | (extract_lets +onlyGivenNames x; have hb : FrmBlk := x; clear hb; subst x)
    | (extract_lets +onlyGivenNames x; have hb : KprBlk := x; clear hb; subst x)
    | (extract_lets +onlyGivenNames x; have hb : HifBlk := x; clear hb; subst x)
    | (extract_lets +onlyGivenNames x; try clear_value x; revert x; intro z)
    | (with_reducible refine Keeps.upd ?_)
    | (with_reducible apply cxlRead_keeps)
    | (rw [State.mk_made]; with_reducible refine Keeps.upd ?_)
    | split

theorem writeParts_keeps {pt : Untouched} {s0 : State} (parity : Bool) (l : List (Nat × List Nat)) (s : State) (h_s : Keeps pt s0 s) (w_stacked : pt.stacked = false := by assumption) (w_reports : pt.reports = false := by assumption) (w_hif : pt.hif = false := by assumption) (w_mem : pt.mem = false := by assumption) (w_net : pt.net = false := by assumption) :
    Keeps pt s0 (writeParts parity l s) := by
  induction l generalizing s with
  | nil => exact h_s
  | cons p t ih =>
    unfold writeParts
    split
    · rename_i heq; exact ih _ (Keeps.snd heq (writeBytes_keeps _ _ _ _ _ h_s))
    · rename_i heq; exact Keeps.snd heq (writeBytes_keeps _ _ _ _ _ h_s)

theorem cxlWrite_keeps {pt : Untouched} {s0 : State} (hpa : Nat) (parts : Nat → Option (List (Nat × List Nat))) (poison parity : Bool) (s : State) (h_s : Keeps pt s0 s) (w_stacked : pt.stacked = false := by assumption) (w_reports : pt.reports = false := by assumption) (w_hif : pt.hif = false := by assumption) (w_mem : pt.mem = false := by assumption) (w_net : pt.net = false := by assumption) :
    Keeps pt s0 (cxlWrite hpa parts poison parity s) := by
  unfold cxlWrite
  repeat' first
    | with_reducible assumption
    | (intro _)
    | (extract_lets +onlyGivenNames x; refine (fun hx : Keeps pt s0 x => ?_) ?_; try clear_value x; rotate_left; unfold x; clear x; rotate_right; rename State => z)
    | (extract_lets +onlyGivenNames x; have hb : MemBlk := x; clear hb; subst x)
    | (extract_lets +onlyGivenNames x; have hb : CoresBlk := x; clear hb; subst x)
    | (extract_lets +onlyGivenNames x; have hb : PrtBlk := x; clear hb; subst x)
    | (extract_lets +onlyGivenNames x; have hb : FrmBlk := x; clear hb; subst x)
    | (extract_lets +onlyGivenNames x; have hb : KprBlk := x; clear hb; subst x)
    | (extract_lets +onlyGivenNames x; have hb : HifBlk := x; clear hb; subst x)
    | (extract_lets +onlyGivenNames x; try clear_value x; revert x; intro z)
    | (with_reducible refine Keeps.upd ?_)
    | (with_reducible apply emit_keeps)
    | (with_reducible apply ownedWrite_keeps)
    | (with_reducible apply poisonedWrite_keeps)
    | (with_reducible apply stagingDiscard_keeps)
    | (with_reducible apply narrowWrite_keeps)
    | (with_reducible apply holdRequest_keeps)
    | (with_reducible apply writeParts_keeps)
    | (rw [State.mk_made]; with_reducible refine Keeps.upd ?_)
    | split

theorem doMemwr_keeps {pt : Untouched} {s0 : State} (hpa : Nat) (bytes : List Nat) (poison parity : Bool) (s : State) (h_s : Keeps pt s0 s) (w_stacked : pt.stacked = false := by assumption) (w_reports : pt.reports = false := by assumption) (w_hif : pt.hif = false := by assumption) (w_mem : pt.mem = false := by assumption) (w_net : pt.net = false := by assumption) :
    Keeps pt s0 (doMemwr hpa bytes poison parity s) := by
  unfold doMemwr
  repeat' first
    | with_reducible assumption
    | (intro _)
    | (extract_lets +onlyGivenNames x; refine (fun hx : Keeps pt s0 x => ?_) ?_; try clear_value x; rotate_left; unfold x; clear x; rotate_right; rename State => z)
    | (extract_lets +onlyGivenNames x; have hb : MemBlk := x; clear hb; subst x)
    | (extract_lets +onlyGivenNames x; have hb : CoresBlk := x; clear hb; subst x)
    | (extract_lets +onlyGivenNames x; have hb : PrtBlk := x; clear hb; subst x)
    | (extract_lets +onlyGivenNames x; have hb : FrmBlk := x; clear hb; subst x)
    | (extract_lets +onlyGivenNames x; have hb : KprBlk := x; clear hb; subst x)
    | (extract_lets +onlyGivenNames x; have hb : HifBlk := x; clear hb; subst x)
    | (extract_lets +onlyGivenNames x; try clear_value x; revert x; intro z)
    | (with_reducible refine Keeps.upd ?_)
    | (with_reducible apply cxlWrite_keeps)
    | (rw [State.mk_made]; with_reducible refine Keeps.upd ?_)
    | split

theorem doMemwrptl_keeps {pt : Untouched} {s0 : State} (hpa : Nat) (bytes : List Nat) (mask : Nat) (poison parity : Bool) (s : State) (h_s : Keeps pt s0 s) (w_stacked : pt.stacked = false := by assumption) (w_reports : pt.reports = false := by assumption) (w_hif : pt.hif = false := by assumption) (w_mem : pt.mem = false := by assumption) (w_net : pt.net = false := by assumption) :
    Keeps pt s0 (doMemwrptl hpa bytes mask poison parity s) := by
  unfold doMemwrptl
  repeat' first
    | with_reducible assumption
    | (intro _)
    | (extract_lets +onlyGivenNames x; refine (fun hx : Keeps pt s0 x => ?_) ?_; try clear_value x; rotate_left; unfold x; clear x; rotate_right; rename State => z)
    | (extract_lets +onlyGivenNames x; have hb : MemBlk := x; clear hb; subst x)
    | (extract_lets +onlyGivenNames x; have hb : CoresBlk := x; clear hb; subst x)
    | (extract_lets +onlyGivenNames x; have hb : PrtBlk := x; clear hb; subst x)
    | (extract_lets +onlyGivenNames x; have hb : FrmBlk := x; clear hb; subst x)
    | (extract_lets +onlyGivenNames x; have hb : KprBlk := x; clear hb; subst x)
    | (extract_lets +onlyGivenNames x; have hb : HifBlk := x; clear hb; subst x)
    | (extract_lets +onlyGivenNames x; try clear_value x; revert x; intro z)
    | (with_reducible refine Keeps.upd ?_)
    | (with_reducible apply cxlWrite_keeps)
    | (rw [State.mk_made]; with_reducible refine Keeps.upd ?_)
    | split

theorem doMemspecrd_keeps {pt : Untouched} {s0 : State} (_hpa : Nat) (s : State) (h_s : Keeps pt s0 s) : Keeps pt s0 (doMemspecrd _hpa s) := by
  unfold doMemspecrd
  repeat' first
    | with_reducible assumption
    | (intro _)
    | (extract_lets +onlyGivenNames x; refine (fun hx : Keeps pt s0 x => ?_) ?_; try clear_value x; rotate_left; unfold x; clear x; rotate_right; rename State => z)
    | (extract_lets +onlyGivenNames x; have hb : MemBlk := x; clear hb; subst x)
    | (extract_lets +onlyGivenNames x; have hb : CoresBlk := x; clear hb; subst x)
    | (extract_lets +onlyGivenNames x; have hb : PrtBlk := x; clear hb; subst x)
    | (extract_lets +onlyGivenNames x; have hb : FrmBlk := x; clear hb; subst x)
    | (extract_lets +onlyGivenNames x; have hb : KprBlk := x; clear hb; subst x)
    | (extract_lets +onlyGivenNames x; have hb : HifBlk := x; clear hb; subst x)
    | (extract_lets +onlyGivenNames x; try clear_value x; revert x; intro z)
    | (with_reducible refine Keeps.upd ?_)
    | (rw [State.mk_made]; with_reducible refine Keeps.upd ?_)
    | split

theorem setWin_keeps {pt : Untouched} {s0 : State} (i : Nat) (f : Win → Win) (s : State) (h_s : Keeps pt s0 s) (w_hif : pt.hif = false := by assumption) :
    Keeps pt s0 (setWin i f s) := by
  unfold setWin
  repeat' first
    | with_reducible assumption
    | (extract_lets +onlyGivenNames x; refine (fun hx : Keeps pt s0 x => ?_) ?_; try clear_value x; rotate_left; unfold x; clear x; rotate_right; rename State => z)
    | (rw [State.mk_made]; with_reducible refine Keeps.upd ?_)

theorem doHdmDecoderCommit_keeps {pt : Untouched} {s0 : State} (i hpa dpa size ways : Nat) (lock : Bool) (s : State) (h_s : Keeps pt s0 s) (w_hif : pt.hif = false := by assumption) :
    Keeps pt s0 (doHdmDecoderCommit i hpa dpa size ways lock s) := by
  unfold doHdmDecoderCommit
  repeat' first
    | with_reducible assumption
    | (extract_lets +onlyGivenNames x; refine (fun hx : Keeps pt s0 x => ?_) ?_; try clear_value x; rotate_left; unfold x; clear x; rotate_right; rename State => z)
    | (with_reducible apply setWin_keeps)
    | split

theorem doHdmDecoderUncommit_keeps {pt : Untouched} {s0 : State} (i : Nat) (s : State) (h_s : Keeps pt s0 s) (w_hif : pt.hif = false := by assumption) :
    Keeps pt s0 (doHdmDecoderUncommit i s) := by
  unfold doHdmDecoderUncommit
  repeat' first
    | with_reducible assumption
    | (extract_lets +onlyGivenNames x; refine (fun hx : Keeps pt s0 x => ?_) ?_; try clear_value x; rotate_left; unfold x; clear x; rotate_right; rename State => z)
    | (with_reducible apply setWin_keeps)
    | split

theorem doHandoverComplete_keeps {pt : Untouched} {s0 : State} (i : Nat) (s : State) (h_s : Keeps pt s0 s) (w_hif : pt.hif = false := by assumption) :
    Keeps pt s0 (doHandoverComplete i s) := by
  unfold doHandoverComplete
  repeat' first
    | with_reducible assumption
    | (extract_lets +onlyGivenNames x; refine (fun hx : Keeps pt s0 x => ?_) ?_; try clear_value x; rotate_left; unfold x; clear x; rotate_right; rename State => z)
    | (extract_lets +onlyGivenNames x; try clear_value x; revert x; intro z)
    | (with_reducible apply setWin_keeps)
    | split

theorem writeWin_keeps {pt : Untouched} {s0 : State} (i v : Nat) (s : State) (h_s : Keeps pt s0 s) (w_reports : pt.reports = false := by assumption) (w_hif : pt.hif = false := by assumption) :
    Keeps pt s0 (writeWin i v s) := by
  unfold writeWin
  repeat' first
    | with_reducible assumption
    | (intro _)
    | (extract_lets +onlyGivenNames x; refine (fun hx : Keeps pt s0 x => ?_) ?_; try clear_value x; rotate_left; unfold x; clear x; rotate_right; rename State => z)
    | (extract_lets +onlyGivenNames x; have hb : MemBlk := x; clear hb; subst x)
    | (extract_lets +onlyGivenNames x; have hb : CoresBlk := x; clear hb; subst x)
    | (extract_lets +onlyGivenNames x; have hb : PrtBlk := x; clear hb; subst x)
    | (extract_lets +onlyGivenNames x; have hb : FrmBlk := x; clear hb; subst x)
    | (extract_lets +onlyGivenNames x; have hb : KprBlk := x; clear hb; subst x)
    | (extract_lets +onlyGivenNames x; have hb : HifBlk := x; clear hb; subst x)
    | (extract_lets +onlyGivenNames x; try clear_value x; revert x; intro z)
    | (with_reducible refine Keeps.upd ?_)
    | (with_reducible apply regWrite_keeps)
    | (with_reducible apply refuse_keeps)
    | (with_reducible apply setWin_keeps)
    | (rw [State.mk_made]; with_reducible refine Keeps.upd ?_)
    | split

theorem writeBar2Base_keeps {pt : Untouched} {s0 : State} (v : Nat) (s : State) (h_s : Keeps pt s0 s) (w_reports : pt.reports = false := by assumption) (w_hif : pt.hif = false := by assumption) :
    Keeps pt s0 (writeBar2Base v s) := by
  unfold writeBar2Base
  repeat' first
    | with_reducible assumption
    | (intro _)
    | (with_reducible apply regWrite_keeps)
    | (with_reducible apply refuse_keeps)
    | (rw [State.mk_made]; with_reducible refine Keeps.upd ?_)
    | split

theorem updateMemActive_keeps {pt : Untouched} {s0 : State} (s : State) (h_s : Keeps pt s0 s) (w_hif : pt.hif = false := by assumption) :
    Keeps pt s0 (updateMemActive s) := by
  unfold updateMemActive
  repeat' first
    | with_reducible assumption
    | (extract_lets +onlyGivenNames x; refine (fun hx : Keeps pt s0 x => ?_) ?_; try clear_value x; rotate_left; unfold x; clear x; rotate_right; rename State => z)
    | (rw [State.mk_made]; with_reducible refine Keeps.upd ?_)

theorem writeAer_keeps {pt : Untouched} {s0 : State} (off v : Nat) (s : State) (h_s : Keeps pt s0 s) (w_hif : pt.hif = false := by assumption) :
    Keeps pt s0 (writeAer off v s) := by
  unfold writeAer
  dsimp only
  split
  · rw [State.mk_made]; with_reducible exact Keeps.upd h_s
  · rw [State.mk_made]; with_reducible exact Keeps.upd h_s
  · rw [State.mk_made]; with_reducible exact Keeps.upd h_s
  · exact h_s

theorem doPcieLinkUp_keeps {pt : Untouched} {s0 : State} (speed width mode : Nat) (s : State) (h_s : Keeps pt s0 s) (w_hif : pt.hif = false := by assumption) :
    Keeps pt s0 (doPcieLinkUp speed width mode s) := by
  unfold doPcieLinkUp
  repeat' first
    | with_reducible assumption
    | (extract_lets +onlyGivenNames x; refine (fun hx : Keeps pt s0 x => ?_) ?_; try clear_value x; rotate_left; unfold x; clear x; rotate_right; rename State => z)
    | (with_reducible apply updateMemActive_keeps)
    | (rw [State.mk_made]; with_reducible refine Keeps.upd ?_)
    | split

theorem doD3hotEntry_keeps {pt : Untouched} {s0 : State} (s : State) (h_s : Keeps pt s0 s) (w_hif : pt.hif = false := by assumption) :
    Keeps pt s0 (doD3hotEntry s) := by
  unfold doD3hotEntry
  repeat' first
    | with_reducible assumption
    | (extract_lets +onlyGivenNames x; refine (fun hx : Keeps pt s0 x => ?_) ?_; try clear_value x; rotate_left; unfold x; clear x; rotate_right; rename State => z)
    | (rw [State.mk_made]; with_reducible refine Keeps.upd ?_)
    | split

theorem doD0Return_keeps {pt : Untouched} {s0 : State} (s : State) (h_s : Keeps pt s0 s) (w_hif : pt.hif = false := by assumption) :
    Keeps pt s0 (doD0Return s) := by
  unfold doD0Return
  repeat' first
    | with_reducible assumption
    | (extract_lets +onlyGivenNames x; refine (fun hx : Keeps pt s0 x => ?_) ?_; try clear_value x; rotate_left; unfold x; clear x; rotate_right; rename State => z)
    | (rw [State.mk_made]; with_reducible refine Keeps.upd ?_)
    | split

theorem doPoisonedTlp_keeps {pt : Untouched} {s0 : State} (bar off : Nat) (s : State) (h_s : Keeps pt s0 s) (w_reports : pt.reports = false := by assumption) (w_hif : pt.hif = false := by assumption) :
    Keeps pt s0 (doPoisonedTlp bar off s) := by
  unfold doPoisonedTlp
  repeat' first
    | with_reducible assumption
    | (intro _)
    | (extract_lets +onlyGivenNames x; refine (fun hx : Keeps pt s0 x => ?_) ?_; try clear_value x; rotate_left; unfold x; clear x; rotate_right; rename State => z)
    | (extract_lets +onlyGivenNames x; have hb : MemBlk := x; clear hb; subst x)
    | (extract_lets +onlyGivenNames x; have hb : CoresBlk := x; clear hb; subst x)
    | (extract_lets +onlyGivenNames x; have hb : PrtBlk := x; clear hb; subst x)
    | (extract_lets +onlyGivenNames x; have hb : FrmBlk := x; clear hb; subst x)
    | (extract_lets +onlyGivenNames x; have hb : KprBlk := x; clear hb; subst x)
    | (extract_lets +onlyGivenNames x; have hb : HifBlk := x; clear hb; subst x)
    | (extract_lets +onlyGivenNames x; try clear_value x; revert x; intro z)
    | (with_reducible refine Keeps.upd ?_)
    | (with_reducible apply poisonedWrite_keeps)
    | (with_reducible apply aerError_keeps)
    | (rw [State.mk_made]; with_reducible refine Keeps.upd ?_)
    | split

theorem mailbox_keeps {pt : Untouched} {s0 : State} (code : Nat) (bytes : List Nat) (s : State) (h_s : Keeps pt s0 s) : Keeps pt s0 (mailbox code bytes s) := by
  unfold mailbox
  repeat' first
    | with_reducible assumption
    | (extract_lets +onlyGivenNames x; refine (fun hx : Keeps pt s0 x => ?_) ?_; try clear_value x; rotate_left; unfold x; clear x; rotate_right; rename State => z)
    | (with_reducible apply emit_keeps)
    | split

theorem doIdentifyMemoryDevice_keeps {pt : Untouched} {s0 : State} (s : State) (h_s : Keeps pt s0 s) : Keeps pt s0 (doIdentifyMemoryDevice s) := by
  unfold doIdentifyMemoryDevice
  repeat' first
    | with_reducible assumption
    | (extract_lets +onlyGivenNames x; refine (fun hx : Keeps pt s0 x => ?_) ?_; try clear_value x; rotate_left; unfold x; clear x; rotate_right; rename State => z)
    | (with_reducible apply mailbox_keeps)

theorem doGetSupportedLogs_keeps {pt : Untouched} {s0 : State} (s : State) (h_s : Keeps pt s0 s) : Keeps pt s0 (doGetSupportedLogs s) := by
  unfold doGetSupportedLogs
  repeat' first
    | with_reducible assumption
    | (extract_lets +onlyGivenNames x; refine (fun hx : Keeps pt s0 x => ?_) ?_; try clear_value x; rotate_left; unfold x; clear x; rotate_right; rename State => z)
    | (with_reducible apply mailbox_keeps)

theorem doGetLog_keeps {pt : Untouched} {s0 : State} (off len : Nat) (s : State) (h_s : Keeps pt s0 s) : Keeps pt s0 (doGetLog off len s) := by
  unfold doGetLog
  repeat' first
    | with_reducible assumption
    | (extract_lets +onlyGivenNames x; refine (fun hx : Keeps pt s0 x => ?_) ?_; try clear_value x; rotate_left; unfold x; clear x; rotate_right; rename State => z)
    | (with_reducible apply mailbox_keeps)

theorem doGetEventRecords_keeps {pt : Untouched} {s0 : State} (s : State) (h_s : Keeps pt s0 s) : Keeps pt s0 (doGetEventRecords s) := by
  unfold doGetEventRecords
  repeat' first
    | with_reducible assumption
    | (extract_lets +onlyGivenNames x; refine (fun hx : Keeps pt s0 x => ?_) ?_; try clear_value x; rotate_left; unfold x; clear x; rotate_right; rename State => z)
    | (with_reducible apply mailbox_keeps)

theorem doClearEventRecords_keeps {pt : Untouched} {s0 : State} (handles : List Nat) (s : State) (h_s : Keeps pt s0 s) (w_hif : pt.hif = false := by assumption) :
    Keeps pt s0 (doClearEventRecords handles s) := by
  unfold doClearEventRecords
  repeat' first
    | with_reducible assumption
    | (extract_lets +onlyGivenNames x; refine (fun hx : Keeps pt s0 x => ?_) ?_; try clear_value x; rotate_left; unfold x; clear x; rotate_right; rename State => z)
    | (with_reducible apply mailbox_keeps)
    | (rw [State.mk_made]; with_reducible refine Keeps.upd ?_)
    | split

theorem doGetHealthInfo_keeps {pt : Untouched} {s0 : State} (s : State) (h_s : Keeps pt s0 s) : Keeps pt s0 (doGetHealthInfo s) := by
  unfold doGetHealthInfo
  repeat' first
    | with_reducible assumption
    | (extract_lets +onlyGivenNames x; refine (fun hx : Keeps pt s0 x => ?_) ?_; try clear_value x; rotate_left; unfold x; clear x; rotate_right; rename State => z)
    | (with_reducible apply mailbox_keeps)
    | (with_reducible apply useFresh_keeps)
    | split

theorem doUnsupportedMailboxOpcode_keeps {pt : Untouched} {s0 : State} (_op : Nat) (s : State) (h_s : Keeps pt s0 s) : Keeps pt s0 (doUnsupportedMailboxOpcode _op s) := by
  unfold doUnsupportedMailboxOpcode
  repeat' first
    | with_reducible assumption
    | (extract_lets +onlyGivenNames x; refine (fun hx : Keeps pt s0 x => ?_) ?_; try clear_value x; rotate_left; unfold x; clear x; rotate_right; rename State => z)
    | (with_reducible apply mailbox_keeps)

theorem doeAnswer_keeps {pt : Untouched} {s0 : State} (bytes : List Nat) (s : State) (h_s : Keeps pt s0 s) (w_hif : pt.hif = false := by assumption) :
    Keeps pt s0 (doeAnswer bytes s) := by
  unfold doeAnswer
  repeat' first
    | with_reducible assumption
    | (extract_lets +onlyGivenNames x; refine (fun hx : Keeps pt s0 x => ?_) ?_; try clear_value x; rotate_left; unfold x; clear x; rotate_right; rename State => z)
    | (with_reducible apply emit_keeps)
    | (rw [State.mk_made]; with_reducible refine Keeps.upd ?_)
    | split

theorem doeRefuse_keeps {pt : Untouched} {s0 : State} (s : State) (h_s : Keeps pt s0 s) (w_hif : pt.hif = false := by assumption) :
    Keeps pt s0 (doeRefuse s) := by
  unfold doeRefuse
  repeat' first
    | with_reducible assumption
    | (extract_lets +onlyGivenNames x; refine (fun hx : Keeps pt s0 x => ?_) ?_; try clear_value x; rotate_left; unfold x; clear x; rotate_right; rename State => z)
    | (rw [State.mk_made]; with_reducible refine Keeps.upd ?_)
    | split

theorem doDoeDiscovery_keeps {pt : Untouched} {s0 : State} (i ty len : Nat) (s : State) (h_s : Keeps pt s0 s) (w_hif : pt.hif = false := by assumption) :
    Keeps pt s0 (doDoeDiscovery i ty len s) := by
  unfold doDoeDiscovery
  repeat' first
    | with_reducible assumption
    | (intro _)
    | (extract_lets +onlyGivenNames x; refine (fun hx : Keeps pt s0 x => ?_) ?_; try clear_value x; rotate_left; unfold x; clear x; rotate_right; rename State => z)
    | (extract_lets +onlyGivenNames x; have hb : MemBlk := x; clear hb; subst x)
    | (extract_lets +onlyGivenNames x; have hb : CoresBlk := x; clear hb; subst x)
    | (extract_lets +onlyGivenNames x; have hb : PrtBlk := x; clear hb; subst x)
    | (extract_lets +onlyGivenNames x; have hb : FrmBlk := x; clear hb; subst x)
    | (extract_lets +onlyGivenNames x; have hb : KprBlk := x; clear hb; subst x)
    | (extract_lets +onlyGivenNames x; have hb : HifBlk := x; clear hb; subst x)
    | (extract_lets +onlyGivenNames x; try clear_value x; revert x; intro z)
    | (with_reducible refine Keeps.upd ?_)
    | (with_reducible apply doeRefuse_keeps)
    | (with_reducible apply doeAnswer_keeps)
    | (rw [State.mk_made]; with_reducible refine Keeps.upd ?_)
    | split

theorem doCdatRead_keeps {pt : Untouched} {s0 : State} (i ty len : Nat) (s : State) (h_s : Keeps pt s0 s) (w_hif : pt.hif = false := by assumption) :
    Keeps pt s0 (doCdatRead i ty len s) := by
  unfold doCdatRead
  repeat' first
    | with_reducible assumption
    | (intro _)
    | (extract_lets +onlyGivenNames x; refine (fun hx : Keeps pt s0 x => ?_) ?_; try clear_value x; rotate_left; unfold x; clear x; rotate_right; rename State => z)
    | (extract_lets +onlyGivenNames x; have hb : MemBlk := x; clear hb; subst x)
    | (extract_lets +onlyGivenNames x; have hb : CoresBlk := x; clear hb; subst x)
    | (extract_lets +onlyGivenNames x; have hb : PrtBlk := x; clear hb; subst x)
    | (extract_lets +onlyGivenNames x; have hb : FrmBlk := x; clear hb; subst x)
    | (extract_lets +onlyGivenNames x; have hb : KprBlk := x; clear hb; subst x)
    | (extract_lets +onlyGivenNames x; have hb : HifBlk := x; clear hb; subst x)
    | (extract_lets +onlyGivenNames x; try clear_value x; revert x; intro z)
    | (with_reducible refine Keeps.upd ?_)
    | (with_reducible apply doeRefuse_keeps)
    | (with_reducible apply doeAnswer_keeps)
    | (rw [State.mk_made]; with_reducible refine Keeps.upd ?_)
    | split

theorem doDoeAbort_keeps {pt : Untouched} {s0 : State} (s : State) (h_s : Keeps pt s0 s) (w_hif : pt.hif = false := by assumption) :
    Keeps pt s0 (doDoeAbort s) := by
  unfold doDoeAbort
  repeat' first
    | with_reducible assumption
    | (extract_lets +onlyGivenNames x; refine (fun hx : Keeps pt s0 x => ?_) ?_; try clear_value x; rotate_left; unfold x; clear x; rotate_right; rename State => z)
    | (rw [State.mk_made]; with_reducible refine Keeps.upd ?_)
    | split

end Sys2Proof.Machine
end

