-- ==== Sys2Proof/Laws/KeepsProtect.lean ====
section
/-! SUPPORT. Every operation of Machine/Protect.lean keeps the fuses, the queue and canonical memories. -/
namespace Sys2Proof.Machine
set_option linter.all false
set_option Elab.async false

theorem writePrtCmd_keeps {pt : Untouched} {s0 : State} (v : Nat) (s : State) (h_s : Keeps pt s0 s) (w_reports : pt.reports = false := by assumption) (w_prt : pt.prt = false := by assumption) :
    Keeps pt s0 (writePrtCmd v s) := by
  unfold writePrtCmd
  repeat' first
    | with_reducible assumption
    | (intro _)
    | (extract_lets +onlyGivenNames x; have hb : MemBlk := x; clear hb; subst x)
    | (with_reducible apply regWrite_keeps)
    | (with_reducible apply refuse_keeps)
    | (with_reducible apply useFresh_keeps)
    | (rw [State.mk_made]; with_reducible refine Keeps.upd ?_)
    | split

theorem doNonceRequest_keeps {pt : Untouched} {s0 : State} (s : State) (h_s : Keeps pt s0 s) (w_reports : pt.reports = false := by assumption) (w_prt : pt.prt = false := by assumption) :
    Keeps pt s0 (doNonceRequest s) := by
  unfold doNonceRequest
  repeat' first
    | with_reducible assumption
    | (extract_lets +onlyGivenNames x; refine (fun hx : Keeps pt s0 x => ?_) ?_; try clear_value x; rotate_left; unfold x; clear x; rotate_right; rename State => z)
    | (extract_lets +onlyGivenNames x; have hb : FrmBlk := x; clear hb; subst x)
    | (with_reducible apply writePrtCmd_keeps)

theorem doProtectionChange_keeps {pt : Untouched} {s0 : State} (s : State) (h_s : Keeps pt s0 s) (w_reports : pt.reports = false := by assumption) (w_prt : pt.prt = false := by assumption) :
    Keeps pt s0 (doProtectionChange s) := by
  unfold doProtectionChange
  repeat' first
    | with_reducible assumption
    | (extract_lets +onlyGivenNames x; refine (fun hx : Keeps pt s0 x => ?_) ?_; try clear_value x; rotate_left; unfold x; clear x; rotate_right; rename State => z)
    | (extract_lets +onlyGivenNames x; have hb : FrmBlk := x; clear hb; subst x)
    | (with_reducible apply writePrtCmd_keeps)

theorem doDebugUnlock_keeps {pt : Untouched} {s0 : State} (s : State) (h_s : Keeps pt s0 s) (w_reports : pt.reports = false := by assumption) (w_prt : pt.prt = false := by assumption) :
    Keeps pt s0 (doDebugUnlock s) := by
  unfold doDebugUnlock
  repeat' first
    | with_reducible assumption
    | (extract_lets +onlyGivenNames x; refine (fun hx : Keeps pt s0 x => ?_) ?_; try clear_value x; rotate_left; unfold x; clear x; rotate_right; rename State => z)
    | (extract_lets +onlyGivenNames x; have hb : FrmBlk := x; clear hb; subst x)
    | (with_reducible apply writePrtCmd_keeps)

theorem doPrtCommandDone_keeps {pt : Untouched} {s0 : State} (readsOk : Bool) (pkg : List Nat) (sigA sigB storeOk : Bool) (s : State)
    (h_s : Keeps pt s0 s) (w_protection : pt.protection = false := by assumption) (w_reports : pt.reports = false := by assumption) (w_prt : pt.prt = false := by assumption) :
    Keeps pt s0 (doPrtCommandDone readsOk pkg sigA sigB storeOk s) := by
  unfold doPrtCommandDone
  dsimp only
  split
  · exact h_s
  · refine raise_keeps _ _ _ _ _ ?_
    split
    · exact Keeps.upd h_s
    · split
      · exact Keeps.upd h_s (hp := fun _ => wf_memPutBytes _ _ rfl)
      · exact Keeps.upd h_s

theorem attest_keeps {pt : Untouched} {s0 : State} (code status : Nat) (data : List Nat) (s : State) (h_s : Keeps pt s0 s) (w_hif : pt.hif = false := by assumption) :
    Keeps pt s0 (attest code status data s) := by
  unfold attest
  repeat' first
    | with_reducible assumption
    | (extract_lets +onlyGivenNames x; refine (fun hx : Keeps pt s0 x => ?_) ?_; try clear_value x; rotate_left; unfold x; clear x; rotate_right; rename State => z)
    | (extract_lets +onlyGivenNames x; have hb : FrmBlk := x; clear hb; subst x)
    | (with_reducible apply doeAnswer_keeps)
    | split

theorem doGetIdentity_keeps {pt : Untouched} {s0 : State} (s : State) (h_s : Keeps pt s0 s) (w_hif : pt.hif = false := by assumption) :
    Keeps pt s0 (doGetIdentity s) := by
  unfold doGetIdentity
  repeat' first
    | with_reducible assumption
    | (extract_lets +onlyGivenNames x; refine (fun hx : Keeps pt s0 x => ?_) ?_; try clear_value x; rotate_left; unfold x; clear x; rotate_right; rename State => z)
    | (extract_lets +onlyGivenNames x; have hb : FrmBlk := x; clear hb; subst x)
    | (with_reducible apply attest_keeps)

theorem doGetCert_keeps {pt : Untouched} {s0 : State} (i : Nat) (s : State) (h_s : Keeps pt s0 s) (w_hif : pt.hif = false := by assumption) :
    Keeps pt s0 (doGetCert i s) := by
  unfold doGetCert
  repeat' first
    | with_reducible assumption
    | (extract_lets +onlyGivenNames x; refine (fun hx : Keeps pt s0 x => ?_) ?_; try clear_value x; rotate_left; unfold x; clear x; rotate_right; rename State => z)
    | (extract_lets +onlyGivenNames x; have hb : FrmBlk := x; clear hb; subst x)
    | (with_reducible apply attest_keeps)
    | split

theorem doGetReport_keeps {pt : Untouched} {s0 : State} (nonce : List Nat) (s : State) (h_s : Keeps pt s0 s) (w_hif : pt.hif = false := by assumption) :
    Keeps pt s0 (doGetReport nonce s) := by
  unfold doGetReport
  repeat' first
    | with_reducible assumption
    | (extract_lets +onlyGivenNames x; refine (fun hx : Keeps pt s0 x => ?_) ?_; try clear_value x; rotate_left; unfold x; clear x; rotate_right; rename State => z)
    | (extract_lets +onlyGivenNames x; have hb : FrmBlk := x; clear hb; subst x)
    | (with_reducible apply attest_keeps)
    | (with_reducible apply useFresh_keeps)
    | split

theorem doGetProtection_keeps {pt : Untouched} {s0 : State} (s : State) (h_s : Keeps pt s0 s) (w_hif : pt.hif = false := by assumption) :
    Keeps pt s0 (doGetProtection s) := by
  unfold doGetProtection
  repeat' first
    | with_reducible assumption
    | (extract_lets +onlyGivenNames x; refine (fun hx : Keeps pt s0 x => ?_) ?_; try clear_value x; rotate_left; unfold x; clear x; rotate_right; rename State => z)
    | (extract_lets +onlyGivenNames x; have hb : FrmBlk := x; clear hb; subst x)
    | (with_reducible apply attest_keeps)

end Sys2Proof.Machine
end

