-- ==== Sys2Proof/Laws/KeepsSequencer.lean ====
section
/-! SUPPORT. Every operation of Machine/Sequencer.lean keeps the fuses, the queue and canonical memories. -/
namespace Sys2Proof.Machine
set_option linter.all false
set_option Elab.async false

theorem setCtx_keeps {pt : Untouched} {s0 : State} (n k : Nat) (f : Ctx → Ctx) (s : State) (h_s : Keeps pt s0 s) (w_cores : pt.cores = false := by assumption) :
    Keeps pt s0 (setCtx n k f s) := by
  unfold setCtx
  repeat' first
    | with_reducible assumption
    | (intro _)
    | (extract_lets +onlyGivenNames x; refine (fun hx : Keeps pt s0 x => ?_) ?_; try clear_value x; rotate_left; unfold x; clear x; rotate_right; rename State => z)
    | (extract_lets +onlyGivenNames x; have hb : MemBlk := x; clear hb; subst x)
    | (extract_lets +onlyGivenNames x; have hb : FrmBlk := x; clear hb; subst x)
    | (extract_lets +onlyGivenNames x; have hb : KprBlk := x; clear hb; subst x)
    | (with_reducible refine Keeps.upd ?_)
    | (rw [State.mk_made]; with_reducible refine Keeps.upd ?_)
    | split

theorem setCore_keeps {pt : Untouched} {s0 : State} (n : Nat) (f : CoreSt → CoreSt) (s : State) (h_s : Keeps pt s0 s) (w_cores : pt.cores = false := by assumption) :
    Keeps pt s0 (setCore n f s) := by
  unfold setCore
  repeat' first
    | with_reducible assumption
    | (intro _)
    | (extract_lets +onlyGivenNames x; refine (fun hx : Keeps pt s0 x => ?_) ?_; try clear_value x; rotate_left; unfold x; clear x; rotate_right; rename State => z)
    | (extract_lets +onlyGivenNames x; have hb : MemBlk := x; clear hb; subst x)
    | (extract_lets +onlyGivenNames x; have hb : FrmBlk := x; clear hb; subst x)
    | (extract_lets +onlyGivenNames x; have hb : KprBlk := x; clear hb; subst x)
    | (with_reducible refine Keeps.upd ?_)
    | (rw [State.mk_made]; with_reducible refine Keeps.upd ?_)
    | split

theorem setPane_keeps {pt : Untouched} {s0 : State} (n p : Nat) (f : Pane → Pane) (s : State) (h_s : Keeps pt s0 s) (w_cores : pt.cores = false := by assumption) :
    Keeps pt s0 (setPane n p f s) := by
  unfold setPane
  repeat' first
    | with_reducible assumption
    | (intro _)
    | (extract_lets +onlyGivenNames x; refine (fun hx : Keeps pt s0 x => ?_) ?_; try clear_value x; rotate_left; unfold x; clear x; rotate_right; rename State => z)
    | (extract_lets +onlyGivenNames x; have hb : MemBlk := x; clear hb; subst x)
    | (extract_lets +onlyGivenNames x; have hb : FrmBlk := x; clear hb; subst x)
    | (extract_lets +onlyGivenNames x; have hb : KprBlk := x; clear hb; subst x)
    | (with_reducible refine Keeps.upd ?_)
    | (rw [State.mk_made]; with_reducible refine Keeps.upd ?_)
    | split

theorem putStore_keeps {pt : Untouched} {s0 : State} (n a : Nat) (bytes : List Nat) (s : State) (h_s : Keeps pt s0 s) (w_store : pt.store = false := by assumption) :
    Keeps pt s0 (putStore n a bytes s) := by
  unfold putStore
  rw [State.mk_made]
  with_reducible exact Keeps.upd h_s (hc := fun h => wf_memPutBytes _ _ h)

theorem descFault_keeps {pt : Untouched} {s0 : State} (n k role idx code : Nat) (s : State) (h_s : Keeps pt s0 s) (w_reports : pt.reports = false := by assumption) (w_frm : pt.frm = false := by assumption) (w_cores : pt.cores = false := by assumption) :
    Keeps pt s0 (descFault n k role idx code s) := by
  unfold descFault
  repeat' first
    | with_reducible assumption
    | (intro _)
    | (extract_lets +onlyGivenNames x; refine (fun hx : Keeps pt s0 x => ?_) ?_; try clear_value x; rotate_left; unfold x; clear x; rotate_right; rename State => z)
    | (extract_lets +onlyGivenNames x; have hb : MemBlk := x; clear hb; subst x)
    | (extract_lets +onlyGivenNames x; have hb : FrmBlk := x; clear hb; subst x)
    | (extract_lets +onlyGivenNames x; have hb : KprBlk := x; clear hb; subst x)
    | (with_reducible refine Keeps.upd ?_)
    | (with_reducible apply setCtx_keeps)
    | (with_reducible apply setCore_keeps)
    | (with_reducible apply raise_keeps)
    | (rw [State.mk_made]; with_reducible refine Keeps.upd ?_)
    | split

theorem signalOnce_keeps {pt : Untouched} {s0 : State} (n k role idx ctr : Nat) (s : State) (h_s : Keeps pt s0 s) (w_reports : pt.reports = false := by assumption) (w_frm : pt.frm = false := by assumption) (w_cores : pt.cores = false := by assumption) :
    Keeps pt s0 (signalOnce n k role idx ctr s) := by
  unfold signalOnce
  repeat' first
    | with_reducible assumption
    | (intro _)
    | (extract_lets +onlyGivenNames x; refine (fun hx : Keeps pt s0 x => ?_) ?_; try clear_value x; rotate_left; unfold x; clear x; rotate_right; rename State => z)
    | (extract_lets +onlyGivenNames x; have hb : MemBlk := x; clear hb; subst x)
    | (extract_lets +onlyGivenNames x; have hb : FrmBlk := x; clear hb; subst x)
    | (extract_lets +onlyGivenNames x; have hb : KprBlk := x; clear hb; subst x)
    | (with_reducible refine Keeps.upd ?_)
    | (with_reducible apply descFault_keeps)
    | (with_reducible apply setCtx_keeps)
    | (rw [State.mk_made]; with_reducible refine Keeps.upd ?_)
    | split

theorem signalDesc_keeps {pt : Untouched} {s0 : State} (n k role idx w0 : Nat) (s : State) (h_s : Keeps pt s0 s) (w_reports : pt.reports = false := by assumption) (w_frm : pt.frm = false := by assumption) (w_cores : pt.cores = false := by assumption) :
    Keeps pt s0 (signalDesc n k role idx w0 s) := by
  unfold signalDesc
  repeat' first
    | with_reducible assumption
    | (intro _)
    | (extract_lets +onlyGivenNames x; refine (fun hx : Keeps pt s0 x => ?_) ?_; try clear_value x; rotate_left; unfold x; clear x; rotate_right; rename State => z)
    | (extract_lets +onlyGivenNames x; have hb : MemBlk := x; clear hb; subst x)
    | (extract_lets +onlyGivenNames x; have hb : FrmBlk := x; clear hb; subst x)
    | (extract_lets +onlyGivenNames x; have hb : KprBlk := x; clear hb; subst x)
    | (with_reducible refine Keeps.upd ?_)
    | (with_reducible apply signalOnce_keeps)
    | (rw [State.mk_made]; with_reducible refine Keeps.upd ?_)
    | split

theorem pushEntry_keeps {pt : Untouched} {s0 : State} (n : Nat) (d : Next) (q : UnitQ) (s : State) (h_s : Keeps pt s0 s) (w_cores : pt.cores = false := by assumption) :
    Keeps pt s0 (pushEntry n d q s) := by
  unfold pushEntry
  repeat' first
    | with_reducible assumption
    | (intro _)
    | (extract_lets +onlyGivenNames x; refine (fun hx : Keeps pt s0 x => ?_) ?_; try clear_value x; rotate_left; unfold x; clear x; rotate_right; rename State => z)
    | (extract_lets +onlyGivenNames x; have hb : MemBlk := x; clear hb; subst x)
    | (extract_lets +onlyGivenNames x; have hb : FrmBlk := x; clear hb; subst x)
    | (extract_lets +onlyGivenNames x; have hb : KprBlk := x; clear hb; subst x)
    | (with_reducible refine Keeps.upd ?_)
    | (with_reducible apply setCore_keeps)
    | (with_reducible apply setCtx_keeps)
    | (rw [State.mk_made]; with_reducible refine Keeps.upd ?_)

theorem doDescriptorDispatch_keeps {pt : Untouched} {s0 : State} (n : Nat) (parity : Bool) (s : State) (h_s : Keeps pt s0 s) (w_reports : pt.reports = false := by assumption) (w_frm : pt.frm = false := by assumption) (w_cores : pt.cores = false := by assumption) :
    Keeps pt s0 (doDescriptorDispatch n parity s) := by
  unfold doDescriptorDispatch
  repeat' first
    | with_reducible assumption
    | (intro _)
    | (extract_lets +onlyGivenNames x; refine (fun hx : Keeps pt s0 x => ?_) ?_; try clear_value x; rotate_left; unfold x; clear x; rotate_right; rename State => z)
    | (extract_lets +onlyGivenNames x; have hb : MemBlk := x; clear hb; subst x)
    | (extract_lets +onlyGivenNames x; have hb : FrmBlk := x; clear hb; subst x)
    | (extract_lets +onlyGivenNames x; have hb : KprBlk := x; clear hb; subst x)
    | (with_reducible refine Keeps.upd ?_)
    | (with_reducible apply descFault_keeps)
    | (with_reducible apply pushEntry_keeps)
    | (rw [State.mk_made]; with_reducible refine Keeps.upd ?_)
    | split

theorem passWait_keeps {pt : Untouched} {s0 : State} (n cond : Nat) (met : State → Next → Bool) (after : Next → Ctx → Ctx) (s : State) (h_s : Keeps pt s0 s) (w_reports : pt.reports = false := by assumption) (w_frm : pt.frm = false := by assumption) (w_cores : pt.cores = false := by assumption) :
    Keeps pt s0 (passWait n cond met after s) := by
  unfold passWait
  repeat' first
    | with_reducible assumption
    | (intro _)
    | (extract_lets +onlyGivenNames x; refine (fun hx : Keeps pt s0 x => ?_) ?_; try clear_value x; rotate_left; unfold x; clear x; rotate_right; rename State => z)
    | (extract_lets +onlyGivenNames x; have hb : MemBlk := x; clear hb; subst x)
    | (extract_lets +onlyGivenNames x; have hb : FrmBlk := x; clear hb; subst x)
    | (extract_lets +onlyGivenNames x; have hb : KprBlk := x; clear hb; subst x)
    | (with_reducible refine Keeps.upd ?_)
    | (with_reducible apply setCtx_keeps)
    | (with_reducible apply signalDesc_keeps)
    | (rw [State.mk_made]; with_reducible refine Keeps.upd ?_)
    | split

theorem doWaitCounter_keeps {pt : Untouched} {s0 : State} (n : Nat) (s : State) (h_s : Keeps pt s0 s) (w_reports : pt.reports = false := by assumption) (w_frm : pt.frm = false := by assumption) (w_cores : pt.cores = false := by assumption) :
    Keeps pt s0 (doWaitCounter n s) := by
  unfold doWaitCounter
  repeat' first
    | with_reducible assumption
    | (intro _)
    | (extract_lets +onlyGivenNames x; refine (fun hx : Keeps pt s0 x => ?_) ?_; try clear_value x; rotate_left; unfold x; clear x; rotate_right; rename State => z)
    | (extract_lets +onlyGivenNames x; have hb : MemBlk := x; clear hb; subst x)
    | (extract_lets +onlyGivenNames x; have hb : FrmBlk := x; clear hb; subst x)
    | (extract_lets +onlyGivenNames x; have hb : KprBlk := x; clear hb; subst x)
    | (with_reducible refine Keeps.upd ?_)
    | (with_reducible apply passWait_keeps)
    | (rw [State.mk_made]; with_reducible refine Keeps.upd ?_)
    | split

theorem doWaitSlatStart_keeps {pt : Untouched} {s0 : State} (n : Nat) (s : State) (h_s : Keeps pt s0 s) (w_reports : pt.reports = false := by assumption) (w_frm : pt.frm = false := by assumption) (w_cores : pt.cores = false := by assumption) :
    Keeps pt s0 (doWaitSlatStart n s) := by
  unfold doWaitSlatStart
  repeat' first
    | with_reducible assumption
    | (intro _)
    | (extract_lets +onlyGivenNames x; refine (fun hx : Keeps pt s0 x => ?_) ?_; try clear_value x; rotate_left; unfold x; clear x; rotate_right; rename State => z)
    | (extract_lets +onlyGivenNames x; have hb : MemBlk := x; clear hb; subst x)
    | (extract_lets +onlyGivenNames x; have hb : FrmBlk := x; clear hb; subst x)
    | (extract_lets +onlyGivenNames x; have hb : KprBlk := x; clear hb; subst x)
    | (with_reducible refine Keeps.upd ?_)
    | (with_reducible apply passWait_keeps)
    | (rw [State.mk_made]; with_reducible refine Keeps.upd ?_)
    | split

theorem doWaitFrameOffset_keeps {pt : Untouched} {s0 : State} (n : Nat) (s : State) (h_s : Keeps pt s0 s) (w_reports : pt.reports = false := by assumption) (w_frm : pt.frm = false := by assumption) (w_cores : pt.cores = false := by assumption) :
    Keeps pt s0 (doWaitFrameOffset n s) := by
  unfold doWaitFrameOffset
  repeat' first
    | with_reducible assumption
    | (intro _)
    | (extract_lets +onlyGivenNames x; refine (fun hx : Keeps pt s0 x => ?_) ?_; try clear_value x; rotate_left; unfold x; clear x; rotate_right; rename State => z)
    | (extract_lets +onlyGivenNames x; have hb : MemBlk := x; clear hb; subst x)
    | (extract_lets +onlyGivenNames x; have hb : FrmBlk := x; clear hb; subst x)
    | (extract_lets +onlyGivenNames x; have hb : KprBlk := x; clear hb; subst x)
    | (with_reducible refine Keeps.upd ?_)
    | (with_reducible apply passWait_keeps)
    | (rw [State.mk_made]; with_reducible refine Keeps.upd ?_)
    | split

theorem doWaitConfirm_keeps {pt : Untouched} {s0 : State} (n : Nat) (s : State) (h_s : Keeps pt s0 s) (w_reports : pt.reports = false := by assumption) (w_frm : pt.frm = false := by assumption) (w_cores : pt.cores = false := by assumption) :
    Keeps pt s0 (doWaitConfirm n s) := by
  unfold doWaitConfirm
  repeat' first
    | with_reducible assumption
    | (intro _)
    | (extract_lets +onlyGivenNames x; refine (fun hx : Keeps pt s0 x => ?_) ?_; try clear_value x; rotate_left; unfold x; clear x; rotate_right; rename State => z)
    | (extract_lets +onlyGivenNames x; have hb : MemBlk := x; clear hb; subst x)
    | (extract_lets +onlyGivenNames x; have hb : FrmBlk := x; clear hb; subst x)
    | (extract_lets +onlyGivenNames x; have hb : KprBlk := x; clear hb; subst x)
    | (with_reducible refine Keeps.upd ?_)
    | (with_reducible apply passWait_keeps)
    | (rw [State.mk_made]; with_reducible refine Keeps.upd ?_)
    | split

theorem doWaitQuiesce_keeps {pt : Untouched} {s0 : State} (n : Nat) (s : State) (h_s : Keeps pt s0 s) (w_reports : pt.reports = false := by assumption) (w_frm : pt.frm = false := by assumption) (w_cores : pt.cores = false := by assumption) :
    Keeps pt s0 (doWaitQuiesce n s) := by
  unfold doWaitQuiesce
  repeat' first
    | with_reducible assumption
    | (intro _)
    | (extract_lets +onlyGivenNames x; refine (fun hx : Keeps pt s0 x => ?_) ?_; try clear_value x; rotate_left; unfold x; clear x; rotate_right; rename State => z)
    | (extract_lets +onlyGivenNames x; have hb : MemBlk := x; clear hb; subst x)
    | (extract_lets +onlyGivenNames x; have hb : FrmBlk := x; clear hb; subst x)
    | (extract_lets +onlyGivenNames x; have hb : KprBlk := x; clear hb; subst x)
    | (with_reducible refine Keeps.upd ?_)
    | (with_reducible apply passWait_keeps)
    | (rw [State.mk_made]; with_reducible refine Keeps.upd ?_)
    | split

theorem doWaitYield_keeps {pt : Untouched} {s0 : State} (n : Nat) (s : State) (h_s : Keeps pt s0 s) (w_reports : pt.reports = false := by assumption) (w_frm : pt.frm = false := by assumption) (w_cores : pt.cores = false := by assumption) :
    Keeps pt s0 (doWaitYield n s) := by
  unfold doWaitYield
  repeat' first
    | with_reducible assumption
    | (intro _)
    | (extract_lets +onlyGivenNames x; refine (fun hx : Keeps pt s0 x => ?_) ?_; try clear_value x; rotate_left; unfold x; clear x; rotate_right; rename State => z)
    | (extract_lets +onlyGivenNames x; have hb : MemBlk := x; clear hb; subst x)
    | (extract_lets +onlyGivenNames x; have hb : FrmBlk := x; clear hb; subst x)
    | (extract_lets +onlyGivenNames x; have hb : KprBlk := x; clear hb; subst x)
    | (with_reducible refine Keeps.upd ?_)
    | (with_reducible apply passWait_keeps)
    | (rw [State.mk_made]; with_reducible refine Keeps.upd ?_)
    | split

theorem doLoop_keeps {pt : Untouched} {s0 : State} (n : Nat) (s : State) (h_s : Keeps pt s0 s) (w_cores : pt.cores = false := by assumption) :
    Keeps pt s0 (doLoop n s) := by
  unfold doLoop
  repeat' first
    | with_reducible assumption
    | (intro _)
    | (extract_lets +onlyGivenNames x; refine (fun hx : Keeps pt s0 x => ?_) ?_; try clear_value x; rotate_left; unfold x; clear x; rotate_right; rename State => z)
    | (extract_lets +onlyGivenNames x; have hb : MemBlk := x; clear hb; subst x)
    | (extract_lets +onlyGivenNames x; have hb : FrmBlk := x; clear hb; subst x)
    | (extract_lets +onlyGivenNames x; have hb : KprBlk := x; clear hb; subst x)
    | (with_reducible refine Keeps.upd ?_)
    | (with_reducible apply setCtx_keeps)
    | (rw [State.mk_made]; with_reducible refine Keeps.upd ?_)
    | split

theorem signalMany_keeps {pt : Untouched} {s0 : State} (n k role idx w0 times : Nat) (s : State) (h_s : Keeps pt s0 s) (w_reports : pt.reports = false := by assumption) (w_frm : pt.frm = false := by assumption) (w_cores : pt.cores = false := by assumption) :
    Keeps pt s0 (signalMany n k role idx w0 times s) := by
  unfold signalMany
  repeat' first
    | with_reducible assumption
    | (intro _)
    | (extract_lets +onlyGivenNames x; refine (fun hx : Keeps pt s0 x => ?_) ?_; try clear_value x; rotate_left; unfold x; clear x; rotate_right; rename State => z)
    | (extract_lets +onlyGivenNames x; have hb : MemBlk := x; clear hb; subst x)
    | (extract_lets +onlyGivenNames x; have hb : FrmBlk := x; clear hb; subst x)
    | (extract_lets +onlyGivenNames x; have hb : KprBlk := x; clear hb; subst x)
    | (extract_lets +onlyGivenNames x; try clear_value x; revert x; intro z)
    | (with_reducible refine Keeps.upd ?_)
    | (with_reducible apply setCtx_keeps)
    | (with_reducible apply descFault_keeps)
    | (rw [State.mk_made]; with_reducible refine Keeps.upd ?_)
    | split

theorem doSkip_keeps {pt : Untouched} {s0 : State} (n : Nat) (parity : Bool) (s : State) (h_s : Keeps pt s0 s) (w_reports : pt.reports = false := by assumption) (w_frm : pt.frm = false := by assumption) (w_cores : pt.cores = false := by assumption) :
    Keeps pt s0 (doSkip n parity s) := by
  unfold doSkip
  repeat' first
    | with_reducible assumption
    | (intro _)
    | (extract_lets +onlyGivenNames x; refine (fun hx : Keeps pt s0 x => ?_) ?_; try clear_value x; rotate_left; unfold x; clear x; rotate_right; rename State => z)
    | (extract_lets +onlyGivenNames x; have hb : MemBlk := x; clear hb; subst x)
    | (extract_lets +onlyGivenNames x; have hb : FrmBlk := x; clear hb; subst x)
    | (extract_lets +onlyGivenNames x; have hb : KprBlk := x; clear hb; subst x)
    | (extract_lets +onlyGivenNames x; try clear_value x; revert x; intro z)
    | (with_reducible refine Keeps.upd ?_)
    | (with_reducible apply setCtx_keeps)
    | (with_reducible apply descFault_keeps)
    | (with_reducible apply signalMany_keeps)
    | (with_reducible refine Keeps.foldl _ ?_ ?_)
    | (rw [State.mk_made]; with_reducible refine Keeps.upd ?_)
    | split

theorem updEntry_keeps {pt : Untouched} {s0 : State} (n uid : Nat) (f : QEntry → QEntry) (s : State) (h_s : Keeps pt s0 s) (w_cores : pt.cores = false := by assumption) :
    Keeps pt s0 (updEntry n uid f s) := by
  unfold updEntry
  repeat' first
    | with_reducible assumption
    | (intro _)
    | (extract_lets +onlyGivenNames x; refine (fun hx : Keeps pt s0 x => ?_) ?_; try clear_value x; rotate_left; unfold x; clear x; rotate_right; rename State => z)
    | (extract_lets +onlyGivenNames x; have hb : MemBlk := x; clear hb; subst x)
    | (extract_lets +onlyGivenNames x; have hb : FrmBlk := x; clear hb; subst x)
    | (extract_lets +onlyGivenNames x; have hb : KprBlk := x; clear hb; subst x)
    | (with_reducible refine Keeps.upd ?_)
    | (with_reducible apply setCore_keeps)
    | (rw [State.mk_made]; with_reducible refine Keeps.upd ?_)
    | split

theorem dropEntry_keeps {pt : Untouched} {s0 : State} (n uid : Nat) (s : State) (h_s : Keeps pt s0 s) (w_cores : pt.cores = false := by assumption) :
    Keeps pt s0 (dropEntry n uid s) := by
  unfold dropEntry
  repeat' first
    | with_reducible assumption
    | (intro _)
    | (extract_lets +onlyGivenNames x; refine (fun hx : Keeps pt s0 x => ?_) ?_; try clear_value x; rotate_left; unfold x; clear x; rotate_right; rename State => z)
    | (extract_lets +onlyGivenNames x; have hb : MemBlk := x; clear hb; subst x)
    | (extract_lets +onlyGivenNames x; have hb : FrmBlk := x; clear hb; subst x)
    | (extract_lets +onlyGivenNames x; have hb : KprBlk := x; clear hb; subst x)
    | (with_reducible refine Keeps.upd ?_)
    | (with_reducible apply setCore_keeps)
    | (rw [State.mk_made]; with_reducible refine Keeps.upd ?_)
    | split

theorem faultEntry_keeps {pt : Untouched} {s0 : State} (n : Nat) (e : QEntry) (code : Nat) (s : State) (h_s : Keeps pt s0 s) (w_reports : pt.reports = false := by assumption) (w_frm : pt.frm = false := by assumption) (w_cores : pt.cores = false := by assumption) :
    Keeps pt s0 (faultEntry n e code s) := by
  unfold faultEntry
  repeat' first
    | with_reducible assumption
    | (intro _)
    | (extract_lets +onlyGivenNames x; refine (fun hx : Keeps pt s0 x => ?_) ?_; try clear_value x; rotate_left; unfold x; clear x; rotate_right; rename State => z)
    | (extract_lets +onlyGivenNames x; have hb : MemBlk := x; clear hb; subst x)
    | (extract_lets +onlyGivenNames x; have hb : FrmBlk := x; clear hb; subst x)
    | (extract_lets +onlyGivenNames x; have hb : KprBlk := x; clear hb; subst x)
    | (with_reducible refine Keeps.upd ?_)
    | (with_reducible apply descFault_keeps)
    | (with_reducible apply dropEntry_keeps)
    | (rw [State.mk_made]; with_reducible refine Keeps.upd ?_)

theorem doneEntry_keeps {pt : Untouched} {s0 : State} (n uid : Nat) (s : State) (h_s : Keeps pt s0 s) (w_cores : pt.cores = false := by assumption) :
    Keeps pt s0 (doneEntry n uid s) := by
  unfold doneEntry
  repeat' first
    | with_reducible assumption
    | (intro _)
    | (extract_lets +onlyGivenNames x; refine (fun hx : Keeps pt s0 x => ?_) ?_; try clear_value x; rotate_left; unfold x; clear x; rotate_right; rename State => z)
    | (extract_lets +onlyGivenNames x; have hb : MemBlk := x; clear hb; subst x)
    | (extract_lets +onlyGivenNames x; have hb : FrmBlk := x; clear hb; subst x)
    | (extract_lets +onlyGivenNames x; have hb : KprBlk := x; clear hb; subst x)
    | (with_reducible refine Keeps.upd ?_)
    | (with_reducible apply updEntry_keeps)
    | (rw [State.mk_made]; with_reducible refine Keeps.upd ?_)
    | split

theorem startEntry_keeps {pt : Untouched} {s0 : State} (n : Nat) (e : QEntry) (s : State) (h_s : Keeps pt s0 s) (w_cores : pt.cores = false := by assumption) :
    Keeps pt s0 (startEntry n e s) := by
  unfold startEntry
  repeat' first
    | with_reducible assumption
    | (intro _)
    | (extract_lets +onlyGivenNames x; refine (fun hx : Keeps pt s0 x => ?_) ?_; try clear_value x; rotate_left; unfold x; clear x; rotate_right; rename State => z)
    | (extract_lets +onlyGivenNames x; have hb : MemBlk := x; clear hb; subst x)
    | (extract_lets +onlyGivenNames x; have hb : CoresBlk := x; clear hb; subst x)
    | (extract_lets +onlyGivenNames x; have hb : PrtBlk := x; clear hb; subst x)
    | (extract_lets +onlyGivenNames x; have hb : FrmBlk := x; clear hb; subst x)
    | (extract_lets +onlyGivenNames x; have hb : KprBlk := x; clear hb; subst x)
    | (extract_lets +onlyGivenNames x; have hb : HifBlk := x; clear hb; subst x)
    | (extract_lets +onlyGivenNames x; try clear_value x; revert x; intro z)
    | (with_reducible refine Keeps.upd ?_)
    | (with_reducible apply updEntry_keeps)
    | (with_reducible apply setCtx_keeps)
    | (rw [State.mk_made]; with_reducible refine Keeps.upd ?_)
    | split

theorem runUnit_keeps {pt : Untouched} {s0 : State} (n : Nat) (q : UnitQ) (is_ : QEntry → Bool) (parity : Bool) (body : QEntry → State → State) (s : State) (k_body : ∀ y0 x, Keeps pt s0 x → Keeps pt s0 (body y0 x)) (h_s : Keeps pt s0 s) (w_reports : pt.reports = false := by assumption) (w_frm : pt.frm = false := by assumption) (w_cores : pt.cores = false := by assumption) :
    Keeps pt s0 (runUnit n q is_ parity body s) := by
  unfold runUnit
  repeat' first
    | with_reducible assumption
    | (intro _)
    | (extract_lets +onlyGivenNames x; refine (fun hx : Keeps pt s0 x => ?_) ?_; try clear_value x; rotate_left; unfold x; clear x; rotate_right; rename State => z)
    | (extract_lets +onlyGivenNames x; have hb : MemBlk := x; clear hb; subst x)
    | (extract_lets +onlyGivenNames x; have hb : FrmBlk := x; clear hb; subst x)
    | (extract_lets +onlyGivenNames x; have hb : KprBlk := x; clear hb; subst x)
    | (with_reducible refine Keeps.upd ?_)
    | (with_reducible apply k_body)
    | (with_reducible apply startEntry_keeps)
    | (with_reducible apply faultEntry_keeps)
    | split

theorem doDescriptorComplete_keeps {pt : Untouched} {s0 : State} (n qi : Nat) (s : State) (h_s : Keeps pt s0 s) (w_reports : pt.reports = false := by assumption) (w_frm : pt.frm = false := by assumption) (w_cores : pt.cores = false := by assumption) :
    Keeps pt s0 (doDescriptorComplete n qi s) := by
  unfold doDescriptorComplete
  repeat' first
    | with_reducible assumption
    | (intro _)
    | (extract_lets +onlyGivenNames x; refine (fun hx : Keeps pt s0 x => ?_) ?_; try clear_value x; rotate_left; unfold x; clear x; rotate_right; rename State => z)
    | (extract_lets +onlyGivenNames x; have hb : MemBlk := x; clear hb; subst x)
    | (extract_lets +onlyGivenNames x; have hb : FrmBlk := x; clear hb; subst x)
    | (extract_lets +onlyGivenNames x; have hb : KprBlk := x; clear hb; subst x)
    | (with_reducible refine Keeps.upd ?_)
    | (with_reducible apply signalDesc_keeps)
    | (with_reducible apply dropEntry_keeps)
    | (rw [State.mk_made]; with_reducible refine Keeps.upd ?_)
    | split

theorem doCoreParityFence_keeps {pt : Untouched} {s0 : State} (n : Nat) (s : State) (h_s : Keeps pt s0 s) (w_reports : pt.reports = false := by assumption) (w_flp : pt.flp = false := by assumption) (w_dbg : pt.dbg = false := by assumption) (w_dev : pt.dev = false := by assumption) (w_frm : pt.frm = false := by assumption) :
    Keeps pt s0 (doCoreParityFence n s) := by
  unfold doCoreParityFence
  repeat' first
    | with_reducible assumption
    | (intro _)
    | (extract_lets +onlyGivenNames x; refine (fun hx : Keeps pt s0 x => ?_) ?_; try clear_value x; rotate_left; unfold x; clear x; rotate_right; rename State => z)
    | (extract_lets +onlyGivenNames x; have hb : MemBlk := x; clear hb; subst x)
    | (extract_lets +onlyGivenNames x; have hb : FrmBlk := x; clear hb; subst x)
    | (extract_lets +onlyGivenNames x; have hb : KprBlk := x; clear hb; subst x)
    | (with_reducible refine Keeps.upd ?_)
    | (with_reducible apply fenceUnits_keeps)
    | (rw [State.mk_made]; with_reducible refine Keeps.upd ?_)
    | split

theorem faultAll_keeps {pt : Untouched} {s0 : State} (n code : Nat) (l : List QEntry) (s : State) (h_s : Keeps pt s0 s) (w_reports : pt.reports = false := by assumption) (w_frm : pt.frm = false := by assumption) (w_cores : pt.cores = false := by assumption) :
    Keeps pt s0 (faultAll n code l s) := by
  induction l generalizing s with
  | nil => exact h_s
  | cons e t ih =>
    unfold faultAll
    exact ih _ (faultEntry_keeps _ _ _ _ h_s)

theorem failPane_keeps {pt : Untouched} {s0 : State} (n p : Nat) (s : State) (h_s : Keeps pt s0 s) (w_reports : pt.reports = false := by assumption) (w_frm : pt.frm = false := by assumption) (w_cores : pt.cores = false := by assumption) :
    Keeps pt s0 (failPane n p s) := by
  unfold failPane
  repeat' first
    | with_reducible assumption
    | (intro _)
    | (extract_lets +onlyGivenNames x; refine (fun hx : Keeps pt s0 x => ?_) ?_; try clear_value x; rotate_left; unfold x; clear x; rotate_right; rename State => z)
    | (extract_lets +onlyGivenNames x; have hb : MemBlk := x; clear hb; subst x)
    | (extract_lets +onlyGivenNames x; have hb : CoresBlk := x; clear hb; subst x)
    | (extract_lets +onlyGivenNames x; have hb : PrtBlk := x; clear hb; subst x)
    | (extract_lets +onlyGivenNames x; have hb : FrmBlk := x; clear hb; subst x)
    | (extract_lets +onlyGivenNames x; have hb : KprBlk := x; clear hb; subst x)
    | (extract_lets +onlyGivenNames x; have hb : HifBlk := x; clear hb; subst x)
    | (extract_lets +onlyGivenNames x; try clear_value x; revert x; intro z)
    | (with_reducible refine Keeps.upd ?_)
    | (with_reducible apply setPane_keeps)
    | (with_reducible apply faultAll_keeps)
    | (rw [State.mk_made]; with_reducible refine Keeps.upd ?_)
    | split

end Sys2Proof.Machine
end

