-- ==== Sys2Proof/Laws/KeepsBanks.lean ====
section
/-! SUPPORT. Every operation of Machine/Banks.lean keeps the fuses, the queue and canonical memories. -/
namespace Sys2Proof.Machine
set_option linter.all false
set_option Elab.async false

theorem setUnit_keeps {pt : Untouched} {s0 : State} (n b : Nat) (f : BankUnit → BankUnit) (s : State) (h_s : Keeps pt s0 s) (w_bnk : pt.bnk = false := by assumption) :
    Keeps pt s0 (setUnit n b f s) := by
  unfold setUnit
  repeat' first
    | with_reducible assumption
    | (intro _)
    | (extract_lets +onlyGivenNames x; refine (fun hx : Keeps pt s0 x => ?_) ?_; try clear_value x; rotate_left; unfold x; clear x; rotate_right; rename State => z)
    | (extract_lets +onlyGivenNames x; have hb : FrmBlk := x; clear hb; subst x)
    | (extract_lets +onlyGivenNames x; have hb : KprBlk := x; clear hb; subst x)
    | (rw [State.mk_made]; with_reducible refine Keeps.upd ?_)
    | split

theorem setSlot_keeps {pt : Untouched} {s0 : State} (n b i : Nat) (f : Slot → Slot) (s : State) (h_s : Keeps pt s0 s) (w_bnk : pt.bnk = false := by assumption) :
    Keeps pt s0 (setSlot n b i f s) := by
  unfold setSlot
  repeat' first
    | with_reducible assumption
    | (intro _)
    | (extract_lets +onlyGivenNames x; refine (fun hx : Keeps pt s0 x => ?_) ?_; try clear_value x; rotate_left; unfold x; clear x; rotate_right; rename State => z)
    | (extract_lets +onlyGivenNames x; have hb : FrmBlk := x; clear hb; subst x)
    | (extract_lets +onlyGivenNames x; have hb : KprBlk := x; clear hb; subst x)
    | (with_reducible apply setUnit_keeps)
    | (rw [State.mk_made]; with_reducible refine Keeps.upd ?_)
    | split

theorem slotState_keeps {pt : Untouched} {s0 : State} (n b i st cause : Nat) (s : State) (h_s : Keeps pt s0 s) (w_bnk : pt.bnk = false := by assumption) :
    Keeps pt s0 (slotState n b i st cause s) := by
  unfold slotState
  repeat' first
    | with_reducible assumption
    | (intro _)
    | (extract_lets +onlyGivenNames x; refine (fun hx : Keeps pt s0 x => ?_) ?_; try clear_value x; rotate_left; unfold x; clear x; rotate_right; rename State => z)
    | (extract_lets +onlyGivenNames x; have hb : FrmBlk := x; clear hb; subst x)
    | (extract_lets +onlyGivenNames x; have hb : KprBlk := x; clear hb; subst x)
    | (with_reducible apply setSlot_keeps)
    | (rw [State.mk_made]; with_reducible refine Keeps.upd ?_)
    | split

theorem setRun_keeps {pt : Untouched} {s0 : State} (n b : Nat) (f : BankRun → BankRun) (s : State) (h_s : Keeps pt s0 s) (w_bnk : pt.bnk = false := by assumption) :
    Keeps pt s0 (setRun n b f s) := by
  unfold setRun
  repeat' first
    | with_reducible assumption
    | (intro _)
    | (extract_lets +onlyGivenNames x; refine (fun hx : Keeps pt s0 x => ?_) ?_; try clear_value x; rotate_left; unfold x; clear x; rotate_right; rename State => z)
    | (extract_lets +onlyGivenNames x; have hb : FrmBlk := x; clear hb; subst x)
    | (extract_lets +onlyGivenNames x; have hb : KprBlk := x; clear hb; subst x)
    | (with_reducible apply setUnit_keeps)
    | (rw [State.mk_made]; with_reducible refine Keeps.upd ?_)
    | split

theorem tellCore_keeps {pt : Untouched} {s0 : State} (n : Nat) (x : Slot) (cause : Nat) (s : State) (h_s : Keeps pt s0 s) (w_reports : pt.reports = false := by assumption) (w_frm : pt.frm = false := by assumption) (w_cores : pt.cores = false := by assumption) :
    Keeps pt s0 (tellCore n x cause s) := by
  unfold tellCore
  repeat' first
    | with_reducible assumption
    | (intro _)
    | (extract_lets +onlyGivenNames x; refine (fun hx : Keeps pt s0 x => ?_) ?_; try clear_value x; rotate_left; unfold x; clear x; rotate_right; rename State => z)
    | (extract_lets +onlyGivenNames x; have hb : FrmBlk := x; clear hb; subst x)
    | (extract_lets +onlyGivenNames x; have hb : KprBlk := x; clear hb; subst x)
    | (with_reducible apply doneEntry_keeps)
    | (with_reducible apply faultEntry_keeps)
    | (rw [State.mk_made]; with_reducible refine Keeps.upd ?_)
    | split

theorem countEnd_keeps {pt : Untouched} {s0 : State} (st : Nat) (s : State) (h_s : Keeps pt s0 s) (w_bnk : pt.bnk = false := by assumption) :
    Keeps pt s0 (countEnd st s) := by
  unfold countEnd
  repeat' first
    | with_reducible assumption
    | (intro _)
    | (extract_lets +onlyGivenNames x; refine (fun hx : Keeps pt s0 x => ?_) ?_; try clear_value x; rotate_left; unfold x; clear x; rotate_right; rename State => z)
    | (extract_lets +onlyGivenNames x; have hb : FrmBlk := x; clear hb; subst x)
    | (extract_lets +onlyGivenNames x; have hb : KprBlk := x; clear hb; subst x)
    | (rw [State.mk_made]; with_reducible refine Keeps.upd ?_)
    | split

theorem endSlot_keeps {pt : Untouched} {s0 : State} (n b i cause : Nat) (s : State) (h_s : Keeps pt s0 s) (w_reports : pt.reports = false := by assumption) (w_frm : pt.frm = false := by assumption) (w_cores : pt.cores = false := by assumption) (w_bnk : pt.bnk = false := by assumption) :
    Keeps pt s0 (endSlot n b i cause s) := by
  unfold endSlot
  repeat' first
    | with_reducible assumption
    | (intro _)
    | (extract_lets +onlyGivenNames x; refine (fun hx : Keeps pt s0 x => ?_) ?_; try clear_value x; rotate_left; unfold x; clear x; rotate_right; rename State => z)
    | (extract_lets +onlyGivenNames x; have hb : FrmBlk := x; clear hb; subst x)
    | (extract_lets +onlyGivenNames x; have hb : KprBlk := x; clear hb; subst x)
    | (with_reducible apply countEnd_keeps)
    | (with_reducible apply slotState_keeps)
    | (with_reducible apply setUnit_keeps)
    | (with_reducible apply tellCore_keeps)
    | (with_reducible apply setSlot_keeps)

theorem endRun_keeps {pt : Untouched} {s0 : State} (n b cause : Nat) (s : State) (h_s : Keeps pt s0 s) (w_reports : pt.reports = false := by assumption) (w_frm : pt.frm = false := by assumption) (w_cores : pt.cores = false := by assumption) (w_bnk : pt.bnk = false := by assumption) :
    Keeps pt s0 (endRun n b cause s) := by
  unfold endRun
  repeat' first
    | with_reducible assumption
    | (intro _)
    | (extract_lets +onlyGivenNames x; refine (fun hx : Keeps pt s0 x => ?_) ?_; try clear_value x; rotate_left; unfold x; clear x; rotate_right; rename State => z)
    | (extract_lets +onlyGivenNames x; have hb : FrmBlk := x; clear hb; subst x)
    | (extract_lets +onlyGivenNames x; have hb : KprBlk := x; clear hb; subst x)
    | (with_reducible apply endSlot_keeps)
    | (rw [State.mk_made]; with_reducible refine Keeps.upd ?_)
    | split

theorem endSlots_keeps {pt : Untouched} {s0 : State} (n b cause : Nat) (l : List Nat) (s : State) (h_s : Keeps pt s0 s) (w_reports : pt.reports = false := by assumption) (w_frm : pt.frm = false := by assumption) (w_cores : pt.cores = false := by assumption) (w_bnk : pt.bnk = false := by assumption) :
    Keeps pt s0 (endSlots n b cause l s) := by
  induction l generalizing s with
  | nil => exact h_s
  | cons i t ih =>
    unfold endSlots
    exact ih _ (endSlot_keeps _ _ _ _ _ h_s)

theorem failBank_keeps {pt : Untouched} {s0 : State} (n b : Nat) (s : State) (h_s : Keeps pt s0 s) (w_reports : pt.reports = false := by assumption) (w_frm : pt.frm = false := by assumption) (w_cores : pt.cores = false := by assumption) (w_bnk : pt.bnk = false := by assumption) :
    Keeps pt s0 (failBank n b s) := by
  unfold failBank
  repeat' first
    | with_reducible assumption
    | (intro _)
    | (extract_lets +onlyGivenNames x; refine (fun hx : Keeps pt s0 x => ?_) ?_; try clear_value x; rotate_left; unfold x; clear x; rotate_right; rename State => z)
    | (extract_lets +onlyGivenNames x; have hb : FrmBlk := x; clear hb; subst x)
    | (extract_lets +onlyGivenNames x; have hb : KprBlk := x; clear hb; subst x)
    | (with_reducible apply endSlots_keeps)
    | (rw [State.mk_made]; with_reducible refine Keeps.upd ?_)
    | split

theorem fenceBank_keeps {pt : Untouched} {s0 : State} (n b cause : Nat) (s : State) (h_s : Keeps pt s0 s) (w_reports : pt.reports = false := by assumption) (w_flp : pt.flp = false := by assumption) (w_dbg : pt.dbg = false := by assumption) (w_dev : pt.dev = false := by assumption) (w_frm : pt.frm = false := by assumption) (w_cores : pt.cores = false := by assumption) (w_bnk : pt.bnk = false := by assumption) :
    Keeps pt s0 (fenceBank n b cause s) := by
  unfold fenceBank
  repeat' first
    | with_reducible assumption
    | (intro _)
    | (extract_lets +onlyGivenNames x; refine (fun hx : Keeps pt s0 x => ?_) ?_; try clear_value x; rotate_left; unfold x; clear x; rotate_right; rename State => z)
    | (extract_lets +onlyGivenNames x; have hb : FrmBlk := x; clear hb; subst x)
    | (extract_lets +onlyGivenNames x; have hb : KprBlk := x; clear hb; subst x)
    | (with_reducible apply failBank_keeps)
    | (with_reducible apply fenceUnits_keeps)
    | (rw [State.mk_made]; with_reducible refine Keeps.upd ?_)

theorem cutBanks_keeps {pt : Untouched} {s0 : State} (n : Nat) (p : Slot → Bool) (s : State) (h_s : Keeps pt s0 s) (w_reports : pt.reports = false := by assumption) (w_frm : pt.frm = false := by assumption) (w_cores : pt.cores = false := by assumption) (w_bnk : pt.bnk = false := by assumption) :
    Keeps pt s0 (cutBanks n p s) := by
  unfold cutBanks
  exact Keeps.foldl _ h_s (fun x b h => endSlots_keeps _ _ _ _ _ h)

theorem queueSlot_keeps {pt : Untouched} {s0 : State} (n b i : Nat) (s : State) (h_s : Keeps pt s0 s) (w_bnk : pt.bnk = false := by assumption) :
    Keeps pt s0 (queueSlot n b i s) := by
  unfold queueSlot
  repeat' first
    | with_reducible assumption
    | (intro _)
    | (extract_lets +onlyGivenNames x; refine (fun hx : Keeps pt s0 x => ?_) ?_; try clear_value x; rotate_left; unfold x; clear x; rotate_right; rename State => z)
    | (extract_lets +onlyGivenNames x; have hb : FrmBlk := x; clear hb; subst x)
    | (extract_lets +onlyGivenNames x; have hb : KprBlk := x; clear hb; subst x)
    | (with_reducible apply setUnit_keeps)
    | (with_reducible apply slotState_keeps)
    | (rw [State.mk_made]; with_reducible refine Keeps.upd ?_)

theorem doGather_keeps {pt : Untouched} {s0 : State} (n : Nat) (s : State) (h_s : Keeps pt s0 s) (w_reports : pt.reports = false := by assumption) (w_frm : pt.frm = false := by assumption) (w_cores : pt.cores = false := by assumption) (w_bnk : pt.bnk = false := by assumption) :
    Keeps pt s0 (doGather n s) := by
  unfold doGather
  repeat' first
    | with_reducible assumption
    | (intro _)
    | (extract_lets +onlyGivenNames x; refine (fun hx : Keeps pt s0 x => ?_) ?_; try clear_value x; rotate_left; unfold x; clear x; rotate_right; rename State => z)
    | (extract_lets +onlyGivenNames x; have hb : FrmBlk := x; clear hb; subst x)
    | (extract_lets +onlyGivenNames x; have hb : KprBlk := x; clear hb; subst x)
    | (extract_lets +onlyGivenNames x; try clear_value x; revert x; intro z)
    | (with_reducible apply runUnit_keeps)
    | (with_reducible apply faultEntry_keeps)
    | (with_reducible apply queueSlot_keeps)
    | (with_reducible apply setSlot_keeps)
    | (rw [State.mk_made]; with_reducible refine Keeps.upd ?_)
    | split

theorem writeBnkSel_keeps {pt : Untouched} {s0 : State} (v : Nat) (s : State) (h_s : Keeps pt s0 s) (w_reports : pt.reports = false := by assumption) (w_bnk : pt.bnk = false := by assumption) :
    Keeps pt s0 (writeBnkSel v s) := by
  unfold writeBnkSel
  repeat' first
    | with_reducible assumption
    | (intro _)
    | (extract_lets +onlyGivenNames x; refine (fun hx : Keeps pt s0 x => ?_) ?_; try clear_value x; rotate_left; unfold x; clear x; rotate_right; rename State => z)
    | (extract_lets +onlyGivenNames x; have hb : FrmBlk := x; clear hb; subst x)
    | (extract_lets +onlyGivenNames x; have hb : KprBlk := x; clear hb; subst x)
    | (with_reducible apply regWrite_keeps)
    | (with_reducible apply inState_keeps)
    | (with_reducible apply refuse_keeps)
    | (rw [State.mk_made]; with_reducible refine Keeps.upd ?_)
    | split

theorem writeHcmd0_keeps {pt : Untouched} {s0 : State} (v : Nat) (s : State) (h_s : Keeps pt s0 s) (w_reports : pt.reports = false := by assumption) (w_bnk : pt.bnk = false := by assumption) :
    Keeps pt s0 (writeHcmd0 v s) := by
  unfold writeHcmd0
  repeat' first
    | with_reducible assumption
    | (intro _)
    | (extract_lets +onlyGivenNames x; refine (fun hx : Keeps pt s0 x => ?_) ?_; try clear_value x; rotate_left; unfold x; clear x; rotate_right; rename State => z)
    | (extract_lets +onlyGivenNames x; have hb : FrmBlk := x; clear hb; subst x)
    | (extract_lets +onlyGivenNames x; have hb : KprBlk := x; clear hb; subst x)
    | (with_reducible apply regWrite_keeps)
    | (with_reducible apply refuse_keeps)
    | (with_reducible apply setSlot_keeps)
    | (with_reducible apply queueSlot_keeps)
    | (rw [State.mk_made]; with_reducible refine Keeps.upd ?_)
    | split

theorem writeHcmd1_keeps {pt : Untouched} {s0 : State} (v : Nat) (s : State) (h_s : Keeps pt s0 s) (w_reports : pt.reports = false := by assumption) (w_bnk : pt.bnk = false := by assumption) :
    Keeps pt s0 (writeHcmd1 v s) := by
  unfold writeHcmd1
  repeat' first
    | with_reducible assumption
    | (intro _)
    | (extract_lets +onlyGivenNames x; refine (fun hx : Keeps pt s0 x => ?_) ?_; try clear_value x; rotate_left; unfold x; clear x; rotate_right; rename State => z)
    | (extract_lets +onlyGivenNames x; have hb : FrmBlk := x; clear hb; subst x)
    | (extract_lets +onlyGivenNames x; have hb : KprBlk := x; clear hb; subst x)
    | (extract_lets +onlyGivenNames x; try clear_value x; revert x; intro z)
    | (with_reducible apply refuse_keeps)
    | (with_reducible apply setSlot_keeps)
    | (rw [State.mk_made]; with_reducible refine Keeps.upd ?_)
    | split

theorem doBnkHcmdGo_keeps {pt : Untouched} {s0 : State} (v : Nat) (s : State) (h_s : Keeps pt s0 s) (w_reports : pt.reports = false := by assumption) (w_bnk : pt.bnk = false := by assumption) :
    Keeps pt s0 (doBnkHcmdGo v s) := by
  unfold doBnkHcmdGo
  repeat' first
    | with_reducible assumption
    | (intro _)
    | (extract_lets +onlyGivenNames x; refine (fun hx : Keeps pt s0 x => ?_) ?_; try clear_value x; rotate_left; unfold x; clear x; rotate_right; rename State => z)
    | (extract_lets +onlyGivenNames x; have hb : FrmBlk := x; clear hb; subst x)
    | (extract_lets +onlyGivenNames x; have hb : KprBlk := x; clear hb; subst x)
    | (with_reducible apply writeHcmd0_keeps)
    | (rw [State.mk_made]; with_reducible refine Keeps.upd ?_)
    | split

theorem yieldRun_keeps {pt : Untouched} {s0 : State} (n b : Nat) (s : State) (h_s : Keeps pt s0 s) (w_bnk : pt.bnk = false := by assumption) :
    Keeps pt s0 (yieldRun n b s) := by
  unfold yieldRun
  repeat' first
    | with_reducible assumption
    | (intro _)
    | (extract_lets +onlyGivenNames x; refine (fun hx : Keeps pt s0 x => ?_) ?_; try clear_value x; rotate_left; unfold x; clear x; rotate_right; rename State => z)
    | (extract_lets +onlyGivenNames x; have hb : FrmBlk := x; clear hb; subst x)
    | (extract_lets +onlyGivenNames x; have hb : KprBlk := x; clear hb; subst x)
    | (with_reducible apply setUnit_keeps)
    | (rw [State.mk_made]; with_reducible refine Keeps.upd ?_)
    | split

theorem startSlot_keeps {pt : Untouched} {s0 : State} (n b i : Nat) (s : State) (h_s : Keeps pt s0 s) (w_reports : pt.reports = false := by assumption) (w_frm : pt.frm = false := by assumption) (w_cores : pt.cores = false := by assumption) (w_bnk : pt.bnk = false := by assumption) :
    Keeps pt s0 (startSlot n b i s) := by
  unfold startSlot
  repeat' first
    | with_reducible assumption
    | (intro _)
    | (extract_lets +onlyGivenNames x; refine (fun hx : Keeps pt s0 x => ?_) ?_; try clear_value x; rotate_left; unfold x; clear x; rotate_right; rename State => z)
    | (extract_lets +onlyGivenNames x; have hb : MemBlk := x; clear hb; subst x)
    | (extract_lets +onlyGivenNames x; have hb : CoresBlk := x; clear hb; subst x)
    | (extract_lets +onlyGivenNames x; have hb : PrtBlk := x; clear hb; subst x)
    | (extract_lets +onlyGivenNames x; have hb : FrmBlk := x; clear hb; subst x)
    | (extract_lets +onlyGivenNames x; have hb : KprBlk := x; clear hb; subst x)
    | (extract_lets +onlyGivenNames x; have hb : HifBlk := x; clear hb; subst x)
    | (extract_lets +onlyGivenNames x; try clear_value x; revert x; intro z)
    | (with_reducible refine Keeps.upd ?_)
    | (with_reducible apply setUnit_keeps)
    | (with_reducible apply endSlot_keeps)
    | (with_reducible apply slotState_keeps)
    | (rw [State.mk_made]; with_reducible refine Keeps.upd ?_)
    | split

theorem noteParity_keeps {pt : Untouched} {s0 : State} (n b : Nat) (s : State) (h_s : Keeps pt s0 s) (w_bnk : pt.bnk = false := by assumption) :
    Keeps pt s0 (noteParity n b s) := by
  unfold noteParity
  repeat' first
    | with_reducible assumption
    | (intro _)
    | (extract_lets +onlyGivenNames x; refine (fun hx : Keeps pt s0 x => ?_) ?_; try clear_value x; rotate_left; unfold x; clear x; rotate_right; rename State => z)
    | (extract_lets +onlyGivenNames x; have hb : MemBlk := x; clear hb; subst x)
    | (extract_lets +onlyGivenNames x; have hb : CoresBlk := x; clear hb; subst x)
    | (extract_lets +onlyGivenNames x; have hb : PrtBlk := x; clear hb; subst x)
    | (extract_lets +onlyGivenNames x; have hb : FrmBlk := x; clear hb; subst x)
    | (extract_lets +onlyGivenNames x; have hb : KprBlk := x; clear hb; subst x)
    | (extract_lets +onlyGivenNames x; have hb : HifBlk := x; clear hb; subst x)
    | (extract_lets +onlyGivenNames x; try clear_value x; revert x; intro z)
    | (with_reducible refine Keeps.upd ?_)
    | (with_reducible apply setUnit_keeps)
    | (rw [State.mk_made]; with_reducible refine Keeps.upd ?_)
    | split

theorem idleParity_keeps {pt : Untouched} {s0 : State} (n b : Nat) (buffers : List Nat) (s : State) (h_s : Keeps pt s0 s) (w_bnk : pt.bnk = false := by assumption) :
    Keeps pt s0 (idleParity n b buffers s) := by
  unfold idleParity
  repeat' first
    | with_reducible assumption
    | (intro _)
    | (extract_lets +onlyGivenNames x; refine (fun hx : Keeps pt s0 x => ?_) ?_; try clear_value x; rotate_left; unfold x; clear x; rotate_right; rename State => z)
    | (extract_lets +onlyGivenNames x; have hb : MemBlk := x; clear hb; subst x)
    | (extract_lets +onlyGivenNames x; have hb : CoresBlk := x; clear hb; subst x)
    | (extract_lets +onlyGivenNames x; have hb : PrtBlk := x; clear hb; subst x)
    | (extract_lets +onlyGivenNames x; have hb : FrmBlk := x; clear hb; subst x)
    | (extract_lets +onlyGivenNames x; have hb : KprBlk := x; clear hb; subst x)
    | (extract_lets +onlyGivenNames x; have hb : HifBlk := x; clear hb; subst x)
    | (extract_lets +onlyGivenNames x; try clear_value x; revert x; intro z)
    | (with_reducible refine Keeps.upd ?_)
    | (with_reducible apply setUnit_keeps)
    | (with_reducible apply noteParity_keeps)
    | (with_reducible refine Keeps.foldl _ ?_ ?_)
    | (rw [State.mk_made]; with_reducible refine Keeps.upd ?_)
    | split

theorem doBankCommandStart_keeps {pt : Untouched} {s0 : State} (n b : Nat) (idle : List Nat) (s : State) (h_s : Keeps pt s0 s) (w_reports : pt.reports = false := by assumption) (w_frm : pt.frm = false := by assumption) (w_cores : pt.cores = false := by assumption) (w_bnk : pt.bnk = false := by assumption) :
    Keeps pt s0 (doBankCommandStart n b idle s) := by
  unfold doBankCommandStart
  repeat' first
    | with_reducible assumption
    | (intro _)
    | (extract_lets +onlyGivenNames x; refine (fun hx : Keeps pt s0 x => ?_) ?_; try clear_value x; rotate_left; unfold x; clear x; rotate_right; rename State => z)
    | (extract_lets +onlyGivenNames x; have hb : MemBlk := x; clear hb; subst x)
    | (extract_lets +onlyGivenNames x; have hb : CoresBlk := x; clear hb; subst x)
    | (extract_lets +onlyGivenNames x; have hb : PrtBlk := x; clear hb; subst x)
    | (extract_lets +onlyGivenNames x; have hb : FrmBlk := x; clear hb; subst x)
    | (extract_lets +onlyGivenNames x; have hb : KprBlk := x; clear hb; subst x)
    | (extract_lets +onlyGivenNames x; have hb : HifBlk := x; clear hb; subst x)
    | (extract_lets +onlyGivenNames x; try clear_value x; revert x; intro z)
    | (with_reducible refine Keeps.upd ?_)
    | (with_reducible apply yieldRun_keeps)
    | (with_reducible apply idleParity_keeps)
    | (with_reducible apply startSlot_keeps)
    | (with_reducible apply setUnit_keeps)
    | (rw [State.mk_made]; with_reducible refine Keeps.upd ?_)
    | split

theorem micro_keeps {pt : Untouched} {s0 : State} (code n b : Nat) (body : Micro → State → State) (s : State) (k_body : ∀ y0 x, Keeps pt s0 x → Keeps pt s0 (body y0 x)) (h_s : Keeps pt s0 s) : Keeps pt s0 (micro code n b body s) := by
  unfold micro
  repeat' first
    | with_reducible assumption
    | (intro _)
    | (extract_lets +onlyGivenNames x; refine (fun hx : Keeps pt s0 x => ?_) ?_; try clear_value x; rotate_left; unfold x; clear x; rotate_right; rename State => z)
    | (extract_lets +onlyGivenNames x; have hb : FrmBlk := x; clear hb; subst x)
    | (extract_lets +onlyGivenNames x; have hb : KprBlk := x; clear hb; subst x)
    | (with_reducible apply k_body)
    | (rw [State.mk_made]; with_reducible refine Keeps.upd ?_)
    | split

theorem goWord_keeps {pt : Untouched} {s0 : State} (n b k : Nat) (s : State) (h_s : Keeps pt s0 s) (w_bnk : pt.bnk = false := by assumption) :
    Keeps pt s0 (goWord n b k s) := by
  unfold goWord
  repeat' first
    | with_reducible assumption
    | (intro _)
    | (extract_lets +onlyGivenNames x; refine (fun hx : Keeps pt s0 x => ?_) ?_; try clear_value x; rotate_left; unfold x; clear x; rotate_right; rename State => z)
    | (extract_lets +onlyGivenNames x; have hb : FrmBlk := x; clear hb; subst x)
    | (extract_lets +onlyGivenNames x; have hb : KprBlk := x; clear hb; subst x)
    | (with_reducible apply setRun_keeps)
    | (rw [State.mk_made]; with_reducible refine Keeps.upd ?_)
    | split

theorem nextWord_keeps {pt : Untouched} {s0 : State} (n b : Nat) (m : Micro) (s : State) (h_s : Keeps pt s0 s) (w_bnk : pt.bnk = false := by assumption) :
    Keeps pt s0 (nextWord n b m s) := by
  unfold nextWord
  repeat' first
    | with_reducible assumption
    | (intro _)
    | (extract_lets +onlyGivenNames x; refine (fun hx : Keeps pt s0 x => ?_) ?_; try clear_value x; rotate_left; unfold x; clear x; rotate_right; rename State => z)
    | (extract_lets +onlyGivenNames x; have hb : FrmBlk := x; clear hb; subst x)
    | (extract_lets +onlyGivenNames x; have hb : KprBlk := x; clear hb; subst x)
    | (with_reducible apply goWord_keeps)
    | (rw [State.mk_made]; with_reducible refine Keeps.upd ?_)
    | split

theorem bufferParity_keeps {pt : Untouched} {s0 : State} (n b : Nat) (s : State) (h_s : Keeps pt s0 s) (w_reports : pt.reports = false := by assumption) (w_frm : pt.frm = false := by assumption) (w_cores : pt.cores = false := by assumption) (w_bnk : pt.bnk = false := by assumption) :
    Keeps pt s0 (bufferParity n b s) := by
  unfold bufferParity
  repeat' first
    | with_reducible assumption
    | (intro _)
    | (extract_lets +onlyGivenNames x; refine (fun hx : Keeps pt s0 x => ?_) ?_; try clear_value x; rotate_left; unfold x; clear x; rotate_right; rename State => z)
    | (extract_lets +onlyGivenNames x; have hb : MemBlk := x; clear hb; subst x)
    | (extract_lets +onlyGivenNames x; have hb : CoresBlk := x; clear hb; subst x)
    | (extract_lets +onlyGivenNames x; have hb : PrtBlk := x; clear hb; subst x)
    | (extract_lets +onlyGivenNames x; have hb : FrmBlk := x; clear hb; subst x)
    | (extract_lets +onlyGivenNames x; have hb : KprBlk := x; clear hb; subst x)
    | (extract_lets +onlyGivenNames x; have hb : HifBlk := x; clear hb; subst x)
    | (extract_lets +onlyGivenNames x; try clear_value x; revert x; intro z)
    | (with_reducible refine Keeps.upd ?_)
    | (with_reducible apply endRun_keeps)
    | (with_reducible apply noteParity_keeps)
    | (rw [State.mk_made]; with_reducible refine Keeps.upd ?_)
    | split

theorem bankTake_keeps {pt : Untouched} {s0 : State} (n b : Nat) (k : List Nat → State → State) (r : MemAns × State)
    (k_k : ∀ y0 x, Keeps pt s0 x → Keeps pt s0 (k y0 x)) (h : Keeps pt s0 r.2) (w_reports : pt.reports = false := by assumption) (w_frm : pt.frm = false := by assumption) (w_cores : pt.cores = false := by assumption) (w_bnk : pt.bnk = false := by assumption) :
    Keeps pt s0 (bankTake n b k r) := by
  unfold bankTake
  split
  · exact k_k _ _ h
  · exact endRun_keeps _ _ _ _ h

theorem bankRead_keeps {pt : Untouched} {s0 : State} (n b unit len : Nat) (flips : List (Nat × Nat)) (k : List Nat → State → State)
    (s : State) (k_k : ∀ y0 x, Keeps pt s0 x → Keeps pt s0 (k y0 x)) (h_s : Keeps pt s0 s) (w_stacked : pt.stacked = false := by assumption) (w_reports : pt.reports = false := by assumption) (w_frm : pt.frm = false := by assumption) (w_cores : pt.cores = false := by assumption) (w_mem : pt.mem = false := by assumption) (w_net : pt.net = false := by assumption) (w_bnk : pt.bnk = false := by assumption) :
    Keeps pt s0 (bankRead n b unit len flips k s) := by
  unfold bankRead
  exact bankTake_keeps _ _ _ _ k_k (readBytes_keeps _ _ _ _ _ (flipSymbols_keeps _ _ _ h_s))

theorem openAhead_keeps {pt : Untouched} {s0 : State} (n b : Nat) (m : Micro) (fuel : Nat) (buf used : List Nat) (s : State) (h_s : Keeps pt s0 s) (w_mem : pt.mem = false := by assumption) :
    Keeps pt s0 (openAhead n b m fuel buf used s) := by
  induction fuel generalizing buf used s with
  | zero => exact h_s
  | succ f ih =>
    unfold openAhead
    dsimp only
    split
    · exact h_s
    · exact ih _ _ _ (openRow_keeps _ _ h_s)

theorem fetchPiece_keeps {pt : Untouched} {s0 : State} (n b : Nat) (combine parity : Bool) (flips : List (Nat × Nat)) (m : Micro) (s : State) (h_s : Keeps pt s0 s) (w_stacked : pt.stacked = false := by assumption) (w_reports : pt.reports = false := by assumption) (w_frm : pt.frm = false := by assumption) (w_cores : pt.cores = false := by assumption) (w_mem : pt.mem = false := by assumption) (w_net : pt.net = false := by assumption) (w_bnk : pt.bnk = false := by assumption) :
    Keeps pt s0 (fetchPiece n b combine parity flips m s) := by
  unfold fetchPiece
  repeat' first
    | with_reducible assumption
    | (intro _)
    | (extract_lets +onlyGivenNames x; refine (fun hx : Keeps pt s0 x => ?_) ?_; try clear_value x; rotate_left; unfold x; clear x; rotate_right; rename State => z)
    | (extract_lets +onlyGivenNames x; have hb : MemBlk := x; clear hb; subst x)
    | (extract_lets +onlyGivenNames x; have hb : CoresBlk := x; clear hb; subst x)
    | (extract_lets +onlyGivenNames x; have hb : PrtBlk := x; clear hb; subst x)
    | (extract_lets +onlyGivenNames x; have hb : FrmBlk := x; clear hb; subst x)
    | (extract_lets +onlyGivenNames x; have hb : KprBlk := x; clear hb; subst x)
    | (extract_lets +onlyGivenNames x; have hb : HifBlk := x; clear hb; subst x)
    | (extract_lets +onlyGivenNames x; try clear_value x; revert x; intro z)
    | (with_reducible refine Keeps.upd ?_)
    | (with_reducible apply endRun_keeps)
    | (with_reducible apply bufferParity_keeps)
    | (with_reducible apply bankRead_keeps)
    | (with_reducible apply openAhead_keeps)
    | (with_reducible apply setRun_keeps)
    | (with_reducible apply setSlot_keeps)
    | (with_reducible apply nextWord_keeps)
    | (rw [State.mk_made]; with_reducible refine Keeps.upd ?_)
    | split

theorem writeUnits_keeps {pt : Untouched} {s0 : State} (n b k : Nat) (bytes : List Nat) (m : Micro) (s : State) (h_s : Keeps pt s0 s) (w_stacked : pt.stacked = false := by assumption) (w_reports : pt.reports = false := by assumption) (w_hif : pt.hif = false := by assumption) (w_mem : pt.mem = false := by assumption) (w_net : pt.net = false := by assumption) (w_bnk : pt.bnk = false := by assumption) :
    Keeps pt s0 (writeUnits n b k bytes m s).2 := by
  unfold writeUnits
  repeat' first
    | with_reducible assumption
    | (intro _)
    | (extract_lets +onlyGivenNames x; refine (fun hx : Keeps pt s0 x => ?_) ?_; try clear_value x; rotate_left; unfold x; clear x; rotate_right; rename State => z)
    | (extract_lets +onlyGivenNames x; have hb : MemBlk := x; clear hb; subst x)
    | (extract_lets +onlyGivenNames x; have hb : CoresBlk := x; clear hb; subst x)
    | (extract_lets +onlyGivenNames x; have hb : PrtBlk := x; clear hb; subst x)
    | (extract_lets +onlyGivenNames x; have hb : FrmBlk := x; clear hb; subst x)
    | (extract_lets +onlyGivenNames x; have hb : KprBlk := x; clear hb; subst x)
    | (extract_lets +onlyGivenNames x; have hb : HifBlk := x; clear hb; subst x)
    | (extract_lets +onlyGivenNames x; try clear_value x; revert x; intro z)
    | (with_reducible refine Keeps.upd ?_)
    | (with_reducible apply writeBytes_keeps)
    | (with_reducible apply setSlot_keeps)
    | (with_reducible apply setRun_keeps)
    | (with_reducible refine Keeps.snd (by with_reducible assumption) ?_)
    | (rw [State.mk_made]; with_reducible refine Keeps.upd ?_)
    | split

theorem writePiece_keeps {pt : Untouched} {s0 : State} (n b : Nat) (parity : Option Nat) (bytes : List Nat) (m : Micro) (s : State) (h_s : Keeps pt s0 s) (w_stacked : pt.stacked = false := by assumption) (w_reports : pt.reports = false := by assumption) (w_hif : pt.hif = false := by assumption) (w_frm : pt.frm = false := by assumption) (w_cores : pt.cores = false := by assumption) (w_mem : pt.mem = false := by assumption) (w_net : pt.net = false := by assumption) (w_bnk : pt.bnk = false := by assumption) :
    Keeps pt s0 (writePiece n b parity bytes m s) := by
  unfold writePiece
  repeat' first
    | with_reducible assumption
    | (intro _)
    | (extract_lets +onlyGivenNames x; refine (fun hx : Keeps pt s0 x => ?_) ?_; try clear_value x; rotate_left; unfold x; clear x; rotate_right; rename State => z)
    | (extract_lets +onlyGivenNames x; have hb : MemBlk := x; clear hb; subst x)
    | (extract_lets +onlyGivenNames x; have hb : CoresBlk := x; clear hb; subst x)
    | (extract_lets +onlyGivenNames x; have hb : PrtBlk := x; clear hb; subst x)
    | (extract_lets +onlyGivenNames x; have hb : FrmBlk := x; clear hb; subst x)
    | (extract_lets +onlyGivenNames x; have hb : KprBlk := x; clear hb; subst x)
    | (extract_lets +onlyGivenNames x; have hb : HifBlk := x; clear hb; subst x)
    | (extract_lets +onlyGivenNames x; try clear_value x; revert x; intro z)
    | (with_reducible refine Keeps.upd ?_)
    | (with_reducible apply endRun_keeps)
    | (with_reducible apply bufferParity_keeps)
    | (with_reducible apply writeUnits_keeps)
    | (with_reducible apply nextWord_keeps)
    | (with_reducible refine Keeps.snd (by with_reducible assumption) ?_)
    | (rw [State.mk_made]; with_reducible refine Keeps.upd ?_)
    | split

theorem takeEntry_keeps {pt : Untouched} {s0 : State} (n b : Nat) (m : Micro) (buf : List Nat) (s : State) (h_s : Keeps pt s0 s) (w_bnk : pt.bnk = false := by assumption) :
    Keeps pt s0 (takeEntry n b m buf s) := by
  unfold takeEntry
  repeat' first
    | with_reducible assumption
    | (intro _)
    | (extract_lets +onlyGivenNames x; refine (fun hx : Keeps pt s0 x => ?_) ?_; try clear_value x; rotate_left; unfold x; clear x; rotate_right; rename State => z)
    | (extract_lets +onlyGivenNames x; have hb : FrmBlk := x; clear hb; subst x)
    | (extract_lets +onlyGivenNames x; have hb : KprBlk := x; clear hb; subst x)
    | (with_reducible apply setRun_keeps)
    | (with_reducible apply nextWord_keeps)
    | (with_reducible apply setSlot_keeps)
    | split

theorem microNext_keeps {pt : Untouched} {s0 : State} (n b : Nat) (parity : Bool) (flips : List (Nat × Nat)) (m : Micro) (s : State) (h_s : Keeps pt s0 s) (w_stacked : pt.stacked = false := by assumption) (w_reports : pt.reports = false := by assumption) (w_frm : pt.frm = false := by assumption) (w_cores : pt.cores = false := by assumption) (w_mem : pt.mem = false := by assumption) (w_net : pt.net = false := by assumption) (w_bnk : pt.bnk = false := by assumption) :
    Keeps pt s0 (microNext n b parity flips m s) := by
  unfold microNext
  repeat' first
    | with_reducible assumption
    | (intro _)
    | (extract_lets +onlyGivenNames x; refine (fun hx : Keeps pt s0 x => ?_) ?_; try clear_value x; rotate_left; unfold x; clear x; rotate_right; rename State => z)
    | (extract_lets +onlyGivenNames x; have hb : FrmBlk := x; clear hb; subst x)
    | (extract_lets +onlyGivenNames x; have hb : KprBlk := x; clear hb; subst x)
    | (with_reducible apply goWord_keeps)
    | (with_reducible apply bufferParity_keeps)
    | (with_reducible apply bankRead_keeps)
    | (with_reducible apply takeEntry_keeps)
    | (rw [State.mk_made]; with_reducible refine Keeps.upd ?_)
    | split

theorem microOut_keeps {pt : Untouched} {s0 : State} (n b : Nat) (parity : Option Nat) (m : Micro) (s : State) (h_s : Keeps pt s0 s) (w_stacked : pt.stacked = false := by assumption) (w_reports : pt.reports = false := by assumption) (w_hif : pt.hif = false := by assumption) (w_frm : pt.frm = false := by assumption) (w_cores : pt.cores = false := by assumption) (w_mem : pt.mem = false := by assumption) (w_net : pt.net = false := by assumption) (w_bnk : pt.bnk = false := by assumption) :
    Keeps pt s0 (microOut n b parity m s) := by
  unfold microOut
  repeat' first
    | with_reducible assumption
    | (intro _)
    | (extract_lets +onlyGivenNames x; refine (fun hx : Keeps pt s0 x => ?_) ?_; try clear_value x; rotate_left; unfold x; clear x; rotate_right; rename State => z)
    | (extract_lets +onlyGivenNames x; have hb : MemBlk := x; clear hb; subst x)
    | (extract_lets +onlyGivenNames x; have hb : CoresBlk := x; clear hb; subst x)
    | (extract_lets +onlyGivenNames x; have hb : PrtBlk := x; clear hb; subst x)
    | (extract_lets +onlyGivenNames x; have hb : FrmBlk := x; clear hb; subst x)
    | (extract_lets +onlyGivenNames x; have hb : KprBlk := x; clear hb; subst x)
    | (extract_lets +onlyGivenNames x; have hb : HifBlk := x; clear hb; subst x)
    | (extract_lets +onlyGivenNames x; try clear_value x; revert x; intro z)
    | (with_reducible refine Keeps.upd ?_)
    | (with_reducible apply writePiece_keeps)
    | (with_reducible apply setSlot_keeps)
    | (rw [State.mk_made]; with_reducible refine Keeps.upd ?_)
    | split

theorem doMicroNext_keeps {pt : Untouched} {s0 : State} (n b : Nat) (parity : Bool) (flips : List (Nat × Nat)) (s : State) (h_s : Keeps pt s0 s) (w_stacked : pt.stacked = false := by assumption) (w_reports : pt.reports = false := by assumption) (w_frm : pt.frm = false := by assumption) (w_cores : pt.cores = false := by assumption) (w_mem : pt.mem = false := by assumption) (w_net : pt.net = false := by assumption) (w_bnk : pt.bnk = false := by assumption) :
    Keeps pt s0 (doMicroNext n b parity flips s) := by
  unfold doMicroNext
  repeat' first
    | with_reducible assumption
    | (intro _)
    | (extract_lets +onlyGivenNames x; refine (fun hx : Keeps pt s0 x => ?_) ?_; try clear_value x; rotate_left; unfold x; clear x; rotate_right; rename State => z)
    | (extract_lets +onlyGivenNames x; have hb : FrmBlk := x; clear hb; subst x)
    | (extract_lets +onlyGivenNames x; have hb : KprBlk := x; clear hb; subst x)
    | (with_reducible apply micro_keeps)
    | (with_reducible apply microNext_keeps)
    | (rw [State.mk_made]; with_reducible refine Keeps.upd ?_)

theorem doMicroFetch_keeps {pt : Untouched} {s0 : State} (n b : Nat) (parity : Bool) (flips : List (Nat × Nat)) (s : State) (h_s : Keeps pt s0 s) (w_stacked : pt.stacked = false := by assumption) (w_reports : pt.reports = false := by assumption) (w_frm : pt.frm = false := by assumption) (w_cores : pt.cores = false := by assumption) (w_mem : pt.mem = false := by assumption) (w_net : pt.net = false := by assumption) (w_bnk : pt.bnk = false := by assumption) :
    Keeps pt s0 (doMicroFetch n b parity flips s) := by
  unfold doMicroFetch
  repeat' first
    | with_reducible assumption
    | (intro _)
    | (extract_lets +onlyGivenNames x; refine (fun hx : Keeps pt s0 x => ?_) ?_; try clear_value x; rotate_left; unfold x; clear x; rotate_right; rename State => z)
    | (extract_lets +onlyGivenNames x; have hb : FrmBlk := x; clear hb; subst x)
    | (extract_lets +onlyGivenNames x; have hb : KprBlk := x; clear hb; subst x)
    | (with_reducible apply micro_keeps)
    | (with_reducible apply fetchPiece_keeps)
    | (rw [State.mk_made]; with_reducible refine Keeps.upd ?_)

theorem doMicroFetchc_keeps {pt : Untouched} {s0 : State} (n b : Nat) (parity : Bool) (flips : List (Nat × Nat)) (s : State) (h_s : Keeps pt s0 s) (w_stacked : pt.stacked = false := by assumption) (w_reports : pt.reports = false := by assumption) (w_frm : pt.frm = false := by assumption) (w_cores : pt.cores = false := by assumption) (w_mem : pt.mem = false := by assumption) (w_net : pt.net = false := by assumption) (w_bnk : pt.bnk = false := by assumption) :
    Keeps pt s0 (doMicroFetchc n b parity flips s) := by
  unfold doMicroFetchc
  repeat' first
    | with_reducible assumption
    | (intro _)
    | (extract_lets +onlyGivenNames x; refine (fun hx : Keeps pt s0 x => ?_) ?_; try clear_value x; rotate_left; unfold x; clear x; rotate_right; rename State => z)
    | (extract_lets +onlyGivenNames x; have hb : FrmBlk := x; clear hb; subst x)
    | (extract_lets +onlyGivenNames x; have hb : KprBlk := x; clear hb; subst x)
    | (with_reducible apply micro_keeps)
    | (with_reducible apply fetchPiece_keeps)
    | (rw [State.mk_made]; with_reducible refine Keeps.upd ?_)

theorem doMicroCopyout_keeps {pt : Untouched} {s0 : State} (n b : Nat) (parity : Option Nat) (s : State) (h_s : Keeps pt s0 s) (w_stacked : pt.stacked = false := by assumption) (w_reports : pt.reports = false := by assumption) (w_hif : pt.hif = false := by assumption) (w_frm : pt.frm = false := by assumption) (w_cores : pt.cores = false := by assumption) (w_mem : pt.mem = false := by assumption) (w_net : pt.net = false := by assumption) (w_bnk : pt.bnk = false := by assumption) :
    Keeps pt s0 (doMicroCopyout n b parity s) := by
  unfold doMicroCopyout
  repeat' first
    | with_reducible assumption
    | (intro _)
    | (extract_lets +onlyGivenNames x; refine (fun hx : Keeps pt s0 x => ?_) ?_; try clear_value x; rotate_left; unfold x; clear x; rotate_right; rename State => z)
    | (extract_lets +onlyGivenNames x; have hb : MemBlk := x; clear hb; subst x)
    | (extract_lets +onlyGivenNames x; have hb : CoresBlk := x; clear hb; subst x)
    | (extract_lets +onlyGivenNames x; have hb : PrtBlk := x; clear hb; subst x)
    | (extract_lets +onlyGivenNames x; have hb : FrmBlk := x; clear hb; subst x)
    | (extract_lets +onlyGivenNames x; have hb : KprBlk := x; clear hb; subst x)
    | (extract_lets +onlyGivenNames x; have hb : HifBlk := x; clear hb; subst x)
    | (extract_lets +onlyGivenNames x; try clear_value x; revert x; intro z)
    | (with_reducible refine Keeps.upd ?_)
    | (with_reducible apply micro_keeps)
    | (with_reducible apply writePiece_keeps)
    | (rw [State.mk_made]; with_reducible refine Keeps.upd ?_)
    | split

theorem doMicroPiece_keeps {pt : Untouched} {s0 : State} (n b : Nat) (s : State) (h_s : Keeps pt s0 s) (w_bnk : pt.bnk = false := by assumption) :
    Keeps pt s0 (doMicroPiece n b s) := by
  unfold doMicroPiece
  repeat' first
    | with_reducible assumption
    | (intro _)
    | (extract_lets +onlyGivenNames x; refine (fun hx : Keeps pt s0 x => ?_) ?_; try clear_value x; rotate_left; unfold x; clear x; rotate_right; rename State => z)
    | (extract_lets +onlyGivenNames x; have hb : FrmBlk := x; clear hb; subst x)
    | (extract_lets +onlyGivenNames x; have hb : KprBlk := x; clear hb; subst x)
    | (with_reducible apply micro_keeps)
    | (with_reducible apply goWord_keeps)
    | (with_reducible apply setRun_keeps)
    | (with_reducible apply nextWord_keeps)
    | (rw [State.mk_made]; with_reducible refine Keeps.upd ?_)
    | split

theorem doMicroSegb_keeps {pt : Untouched} {s0 : State} (n b : Nat) (s : State) (h_s : Keeps pt s0 s) (w_bnk : pt.bnk = false := by assumption) :
    Keeps pt s0 (doMicroSegb n b s) := by
  unfold doMicroSegb
  repeat' first
    | with_reducible assumption
    | (intro _)
    | (extract_lets +onlyGivenNames x; refine (fun hx : Keeps pt s0 x => ?_) ?_; try clear_value x; rotate_left; unfold x; clear x; rotate_right; rename State => z)
    | (extract_lets +onlyGivenNames x; have hb : FrmBlk := x; clear hb; subst x)
    | (extract_lets +onlyGivenNames x; have hb : KprBlk := x; clear hb; subst x)
    | (with_reducible apply micro_keeps)
    | (with_reducible apply goWord_keeps)
    | (with_reducible apply nextWord_keeps)
    | split

theorem doMicroOut_keeps {pt : Untouched} {s0 : State} (n b : Nat) (parity : Option Nat) (s : State) (h_s : Keeps pt s0 s) (w_stacked : pt.stacked = false := by assumption) (w_reports : pt.reports = false := by assumption) (w_hif : pt.hif = false := by assumption) (w_frm : pt.frm = false := by assumption) (w_cores : pt.cores = false := by assumption) (w_mem : pt.mem = false := by assumption) (w_net : pt.net = false := by assumption) (w_bnk : pt.bnk = false := by assumption) :
    Keeps pt s0 (doMicroOut n b parity s) := by
  unfold doMicroOut
  repeat' first
    | with_reducible assumption
    | (intro _)
    | (extract_lets +onlyGivenNames x; refine (fun hx : Keeps pt s0 x => ?_) ?_; try clear_value x; rotate_left; unfold x; clear x; rotate_right; rename State => z)
    | (extract_lets +onlyGivenNames x; have hb : MemBlk := x; clear hb; subst x)
    | (extract_lets +onlyGivenNames x; have hb : CoresBlk := x; clear hb; subst x)
    | (extract_lets +onlyGivenNames x; have hb : PrtBlk := x; clear hb; subst x)
    | (extract_lets +onlyGivenNames x; have hb : FrmBlk := x; clear hb; subst x)
    | (extract_lets +onlyGivenNames x; have hb : KprBlk := x; clear hb; subst x)
    | (extract_lets +onlyGivenNames x; have hb : HifBlk := x; clear hb; subst x)
    | (extract_lets +onlyGivenNames x; try clear_value x; revert x; intro z)
    | (with_reducible refine Keeps.upd ?_)
    | (with_reducible apply micro_keeps)
    | (with_reducible apply microOut_keeps)
    | (rw [State.mk_made]; with_reducible refine Keeps.upd ?_)
    | split

theorem doMicroClear_keeps {pt : Untouched} {s0 : State} (n b : Nat) (s : State) (h_s : Keeps pt s0 s) (w_bnk : pt.bnk = false := by assumption) :
    Keeps pt s0 (doMicroClear n b s) := by
  unfold doMicroClear
  repeat' first
    | with_reducible assumption
    | (intro _)
    | (extract_lets +onlyGivenNames x; refine (fun hx : Keeps pt s0 x => ?_) ?_; try clear_value x; rotate_left; unfold x; clear x; rotate_right; rename State => z)
    | (extract_lets +onlyGivenNames x; have hb : FrmBlk := x; clear hb; subst x)
    | (extract_lets +onlyGivenNames x; have hb : KprBlk := x; clear hb; subst x)
    | (with_reducible apply micro_keeps)
    | (with_reducible apply nextWord_keeps)
    | (with_reducible apply setRun_keeps)
    | split

theorem doMicroJump_keeps {pt : Untouched} {s0 : State} (n b : Nat) (s : State) (h_s : Keeps pt s0 s) (w_bnk : pt.bnk = false := by assumption) :
    Keeps pt s0 (doMicroJump n b s) := by
  unfold doMicroJump
  repeat' first
    | with_reducible assumption
    | (intro _)
    | (extract_lets +onlyGivenNames x; refine (fun hx : Keeps pt s0 x => ?_) ?_; try clear_value x; rotate_left; unfold x; clear x; rotate_right; rename State => z)
    | (extract_lets +onlyGivenNames x; have hb : FrmBlk := x; clear hb; subst x)
    | (extract_lets +onlyGivenNames x; have hb : KprBlk := x; clear hb; subst x)
    | (with_reducible apply micro_keeps)
    | (with_reducible apply goWord_keeps)
    | (rw [State.mk_made]; with_reducible refine Keeps.upd ?_)

theorem doMicroDone_keeps {pt : Untouched} {s0 : State} (n b : Nat) (s : State) (h_s : Keeps pt s0 s) (w_reports : pt.reports = false := by assumption) (w_frm : pt.frm = false := by assumption) (w_cores : pt.cores = false := by assumption) (w_bnk : pt.bnk = false := by assumption) :
    Keeps pt s0 (doMicroDone n b s) := by
  unfold doMicroDone
  repeat' first
    | with_reducible assumption
    | (intro _)
    | (extract_lets +onlyGivenNames x; refine (fun hx : Keeps pt s0 x => ?_) ?_; try clear_value x; rotate_left; unfold x; clear x; rotate_right; rename State => z)
    | (extract_lets +onlyGivenNames x; have hb : FrmBlk := x; clear hb; subst x)
    | (extract_lets +onlyGivenNames x; have hb : KprBlk := x; clear hb; subst x)
    | (with_reducible apply micro_keeps)
    | (with_reducible apply endRun_keeps)
    | (rw [State.mk_made]; with_reducible refine Keeps.upd ?_)

theorem doMicroSelop_keeps {pt : Untouched} {s0 : State} (n b : Nat) (s : State) (h_s : Keeps pt s0 s) (w_bnk : pt.bnk = false := by assumption) :
    Keeps pt s0 (doMicroSelop n b s) := by
  unfold doMicroSelop
  repeat' first
    | with_reducible assumption
    | (intro _)
    | (extract_lets +onlyGivenNames x; refine (fun hx : Keeps pt s0 x => ?_) ?_; try clear_value x; rotate_left; unfold x; clear x; rotate_right; rename State => z)
    | (extract_lets +onlyGivenNames x; have hb : FrmBlk := x; clear hb; subst x)
    | (extract_lets +onlyGivenNames x; have hb : KprBlk := x; clear hb; subst x)
    | (with_reducible apply micro_keeps)
    | (with_reducible apply goWord_keeps)
    | (with_reducible apply nextWord_keeps)
    | split

theorem doReservedMicroOp_keeps {pt : Untouched} {s0 : State} (n b : Nat) (s : State) (h_s : Keeps pt s0 s) (w_reports : pt.reports = false := by assumption) (w_frm : pt.frm = false := by assumption) (w_cores : pt.cores = false := by assumption) (w_bnk : pt.bnk = false := by assumption) :
    Keeps pt s0 (doReservedMicroOp n b s) := by
  unfold doReservedMicroOp
  repeat' first
    | with_reducible assumption
    | (intro _)
    | (extract_lets +onlyGivenNames x; refine (fun hx : Keeps pt s0 x => ?_) ?_; try clear_value x; rotate_left; unfold x; clear x; rotate_right; rename State => z)
    | (extract_lets +onlyGivenNames x; have hb : MemBlk := x; clear hb; subst x)
    | (extract_lets +onlyGivenNames x; have hb : CoresBlk := x; clear hb; subst x)
    | (extract_lets +onlyGivenNames x; have hb : PrtBlk := x; clear hb; subst x)
    | (extract_lets +onlyGivenNames x; have hb : FrmBlk := x; clear hb; subst x)
    | (extract_lets +onlyGivenNames x; have hb : KprBlk := x; clear hb; subst x)
    | (extract_lets +onlyGivenNames x; have hb : HifBlk := x; clear hb; subst x)
    | (extract_lets +onlyGivenNames x; try clear_value x; revert x; intro z)
    | (with_reducible refine Keeps.upd ?_)
    | (with_reducible apply endRun_keeps)
    | (rw [State.mk_made]; with_reducible refine Keeps.upd ?_)
    | split

theorem doMicroOpTimeout_keeps {pt : Untouched} {s0 : State} (n b : Nat) (s : State) (h_s : Keeps pt s0 s) (w_reports : pt.reports = false := by assumption) (w_flp : pt.flp = false := by assumption) (w_dbg : pt.dbg = false := by assumption) (w_dev : pt.dev = false := by assumption) (w_frm : pt.frm = false := by assumption) (w_cores : pt.cores = false := by assumption) (w_bnk : pt.bnk = false := by assumption) :
    Keeps pt s0 (doMicroOpTimeout n b s) := by
  unfold doMicroOpTimeout
  repeat' first
    | with_reducible assumption
    | (intro _)
    | (extract_lets +onlyGivenNames x; refine (fun hx : Keeps pt s0 x => ?_) ?_; try clear_value x; rotate_left; unfold x; clear x; rotate_right; rename State => z)
    | (extract_lets +onlyGivenNames x; have hb : FrmBlk := x; clear hb; subst x)
    | (extract_lets +onlyGivenNames x; have hb : KprBlk := x; clear hb; subst x)
    | (with_reducible apply fenceBank_keeps)
    | (rw [State.mk_made]; with_reducible refine Keeps.upd ?_)
    | split

theorem doHostCommandTimeout_keeps {pt : Untouched} {s0 : State} (n b : Nat) (s : State) (h_s : Keeps pt s0 s) (w_reports : pt.reports = false := by assumption) (w_frm : pt.frm = false := by assumption) (w_cores : pt.cores = false := by assumption) (w_bnk : pt.bnk = false := by assumption) :
    Keeps pt s0 (doHostCommandTimeout n b s) := by
  unfold doHostCommandTimeout
  repeat' first
    | with_reducible assumption
    | (intro _)
    | (extract_lets +onlyGivenNames x; refine (fun hx : Keeps pt s0 x => ?_) ?_; try clear_value x; rotate_left; unfold x; clear x; rotate_right; rename State => z)
    | (extract_lets +onlyGivenNames x; have hb : FrmBlk := x; clear hb; subst x)
    | (extract_lets +onlyGivenNames x; have hb : KprBlk := x; clear hb; subst x)
    | (with_reducible apply endRun_keeps)
    | (rw [State.mk_made]; with_reducible refine Keeps.upd ?_)
    | split

theorem doBankUnitParityFence_keeps {pt : Untouched} {s0 : State} (n b : Nat) (s : State) (h_s : Keeps pt s0 s) (w_reports : pt.reports = false := by assumption) (w_flp : pt.flp = false := by assumption) (w_dbg : pt.dbg = false := by assumption) (w_dev : pt.dev = false := by assumption) (w_frm : pt.frm = false := by assumption) (w_cores : pt.cores = false := by assumption) (w_bnk : pt.bnk = false := by assumption) :
    Keeps pt s0 (doBankUnitParityFence n b s) := by
  unfold doBankUnitParityFence
  repeat' first
    | with_reducible assumption
    | (intro _)
    | (extract_lets +onlyGivenNames x; refine (fun hx : Keeps pt s0 x => ?_) ?_; try clear_value x; rotate_left; unfold x; clear x; rotate_right; rename State => z)
    | (extract_lets +onlyGivenNames x; have hb : MemBlk := x; clear hb; subst x)
    | (extract_lets +onlyGivenNames x; have hb : CoresBlk := x; clear hb; subst x)
    | (extract_lets +onlyGivenNames x; have hb : PrtBlk := x; clear hb; subst x)
    | (extract_lets +onlyGivenNames x; have hb : FrmBlk := x; clear hb; subst x)
    | (extract_lets +onlyGivenNames x; have hb : KprBlk := x; clear hb; subst x)
    | (extract_lets +onlyGivenNames x; have hb : HifBlk := x; clear hb; subst x)
    | (extract_lets +onlyGivenNames x; try clear_value x; revert x; intro z)
    | (with_reducible refine Keeps.upd ?_)
    | (with_reducible apply fenceBank_keeps)
    | (rw [State.mk_made]; with_reducible refine Keeps.upd ?_)
    | split

theorem doUnitWatchdogExpiry_keeps {pt : Untouched} {s0 : State} (n qi : Nat) (s : State) (h_s : Keeps pt s0 s) (w_reports : pt.reports = false := by assumption) (w_flp : pt.flp = false := by assumption) (w_dbg : pt.dbg = false := by assumption) (w_dev : pt.dev = false := by assumption) (w_frm : pt.frm = false := by assumption) (w_cores : pt.cores = false := by assumption) (w_bnk : pt.bnk = false := by assumption) :
    Keeps pt s0 (doUnitWatchdogExpiry n qi s) := by
  unfold doUnitWatchdogExpiry
  repeat' first
    | with_reducible assumption
    | (intro _)
    | (extract_lets +onlyGivenNames x; refine (fun hx : Keeps pt s0 x => ?_) ?_; try clear_value x; rotate_left; unfold x; clear x; rotate_right; rename State => z)
    | (extract_lets +onlyGivenNames x; have hb : MemBlk := x; clear hb; subst x)
    | (extract_lets +onlyGivenNames x; have hb : CoresBlk := x; clear hb; subst x)
    | (extract_lets +onlyGivenNames x; have hb : PrtBlk := x; clear hb; subst x)
    | (extract_lets +onlyGivenNames x; have hb : FrmBlk := x; clear hb; subst x)
    | (extract_lets +onlyGivenNames x; have hb : KprBlk := x; clear hb; subst x)
    | (extract_lets +onlyGivenNames x; have hb : HifBlk := x; clear hb; subst x)
    | (extract_lets +onlyGivenNames x; try clear_value x; revert x; intro z)
    | (with_reducible refine Keeps.upd ?_)
    | (with_reducible apply faultEntry_keeps)
    | (with_reducible apply failPane_keeps)
    | (with_reducible apply fenceUnits_keeps)
    | (with_reducible apply fenceBank_keeps)
    | (rw [State.mk_made]; with_reducible refine Keeps.upd ?_)
    | split

end Sys2Proof.Machine
end

