-- ==== Sys2Proof/Laws/KeepsTransfer.lean ====
section
/-! SUPPORT. Every operation of Machine/Transfer.lean keeps the fuses, the queue and canonical memories. -/
namespace Sys2Proof.Machine
set_option linter.all false
set_option Elab.async false

theorem issueAt_keeps {pt : Untouched} {s0 : State} (n : Nat) (e : QEntry) (write : Bool) (a len local_ : Nat) (s : State) (h_s : Keeps pt s0 s) (w_reports : pt.reports = false := by assumption) (w_frm : pt.frm = false := by assumption) (w_cores : pt.cores = false := by assumption) (w_mem : pt.mem = false := by assumption) (w_net : pt.net = false := by assumption) :
    Keeps pt s0 (issueAt n e write a len local_ s) := by
  unfold issueAt
  repeat' first
    | with_reducible assumption
    | (intro _)
    | (extract_lets +onlyGivenNames x; refine (fun hx : Keeps pt s0 x => ?_) ?_; try clear_value x; rotate_left; unfold x; clear x; rotate_right; rename State => z)
    | (extract_lets +onlyGivenNames x; have hb : MemBlk := x; clear hb; subst x)
    | (extract_lets +onlyGivenNames x; have hb : CoresBlk := x; clear hb; subst x)
    | (extract_lets +onlyGivenNames x; have hb : PrtBlk := x; clear hb; subst x)
    | (extract_lets +onlyGivenNames x; have hb : FrmBlk := x; clear hb; subst x)
    | (extract_lets +onlyGivenNames x; have hb : KprBlk := x; clear hb; subst x)
    | (extract_lets +onlyGivenNames x; have hb : HifBlk := x; clear hb; subst x)
    | (extract_lets +onlyGivenNames x; try clear_value x; revert x; intro z)
    | (with_reducible refine Keeps.upd ?_)
    | (with_reducible apply faultEntry_keeps)
    | (with_reducible apply busError_keeps)
    | (with_reducible apply setTile_keeps)
    | (with_reducible apply inject_keeps)
    | (rw [State.mk_made]; with_reducible refine Keeps.upd ?_)
    | split

theorem issuePiece_keeps {pt : Untouched} {s0 : State} (n : Nat) (e : QEntry) (p : Piece) (s : State) (h_s : Keeps pt s0 s) (w_reports : pt.reports = false := by assumption) (w_frm : pt.frm = false := by assumption) (w_cores : pt.cores = false := by assumption) (w_mem : pt.mem = false := by assumption) (w_net : pt.net = false := by assumption) (w_walkers : pt.walkers = false := by assumption) :
    Keeps pt s0 (issuePiece n e p s) := by
  unfold issuePiece
  repeat' first
    | with_reducible assumption
    | (intro _)
    | (extract_lets +onlyGivenNames x; refine (fun hx : Keeps pt s0 x => ?_) ?_; try clear_value x; rotate_left; unfold x; clear x; rotate_right; rename State => z)
    | (extract_lets +onlyGivenNames x; have hb : CoresBlk := x; clear hb; subst x)
    | (extract_lets +onlyGivenNames x; have hb : FrmBlk := x; clear hb; subst x)
    | (extract_lets +onlyGivenNames x; have hb : KprBlk := x; clear hb; subst x)
    | (extract_lets +onlyGivenNames x; try clear_value x; revert x; intro z)
    | (with_reducible apply countLookup_keeps)
    | (with_reducible apply faultEntry_keeps)
    | (with_reducible apply joinWalk_keeps)
    | (with_reducible apply issueAt_keeps)
    | split

theorem issueMore_keeps {pt : Untouched} {s0 : State} (n uid : Nat) (l : List Piece) (s : State) (h_s : Keeps pt s0 s) (w_reports : pt.reports = false := by assumption) (w_frm : pt.frm = false := by assumption) (w_cores : pt.cores = false := by assumption) (w_mem : pt.mem = false := by assumption) (w_net : pt.net = false := by assumption) (w_walkers : pt.walkers = false := by assumption) :
    Keeps pt s0 (issueMore n uid l s) := by
  induction l generalizing s with
  | nil => exact h_s
  | cons p t ih =>
    unfold issueMore
    split
    · exact h_s
    · split
      · exact h_s
      · exact ih _ (issuePiece_keeps _ _ _ _ (updEntry_keeps _ _ _ _ h_s))

theorem issueRest_keeps {pt : Untouched} {s0 : State} (n uid : Nat) (s : State) (h_s : Keeps pt s0 s) (w_reports : pt.reports = false := by assumption) (w_frm : pt.frm = false := by assumption) (w_cores : pt.cores = false := by assumption) (w_mem : pt.mem = false := by assumption) (w_net : pt.net = false := by assumption) (w_walkers : pt.walkers = false := by assumption) :
    Keeps pt s0 (issueRest n uid s) := by
  unfold issueRest
  repeat' first
    | with_reducible assumption
    | (intro _)
    | (extract_lets +onlyGivenNames x; refine (fun hx : Keeps pt s0 x => ?_) ?_; try clear_value x; rotate_left; unfold x; clear x; rotate_right; rename State => z)
    | (extract_lets +onlyGivenNames x; have hb : CoresBlk := x; clear hb; subst x)
    | (extract_lets +onlyGivenNames x; have hb : FrmBlk := x; clear hb; subst x)
    | (extract_lets +onlyGivenNames x; have hb : KprBlk := x; clear hb; subst x)
    | (with_reducible apply issueMore_keeps)
    | (rw [State.mk_made]; with_reducible refine Keeps.upd ?_)
    | split

theorem gotPiece_keeps {pt : Untouched} {s0 : State} (n uid : Nat) (s : State) (h_s : Keeps pt s0 s) (w_cores : pt.cores = false := by assumption) :
    Keeps pt s0 (gotPiece n uid s) := by
  unfold gotPiece
  repeat' first
    | with_reducible assumption
    | (intro _)
    | (extract_lets +onlyGivenNames x; refine (fun hx : Keeps pt s0 x => ?_) ?_; try clear_value x; rotate_left; unfold x; clear x; rotate_right; rename State => z)
    | (extract_lets +onlyGivenNames x; have hb : CoresBlk := x; clear hb; subst x)
    | (extract_lets +onlyGivenNames x; have hb : FrmBlk := x; clear hb; subst x)
    | (extract_lets +onlyGivenNames x; have hb : KprBlk := x; clear hb; subst x)
    | (with_reducible apply updEntry_keeps)
    | (rw [State.mk_made]; with_reducible refine Keeps.upd ?_)

theorem resumePieces_keeps {pt : Untouched} {s0 : State}  (l : List KvPiece) (s : State) (h_s : Keeps pt s0 s) (w_reports : pt.reports = false := by assumption) (w_frm : pt.frm = false := by assumption) (w_cores : pt.cores = false := by assumption) (w_mem : pt.mem = false := by assumption) (w_net : pt.net = false := by assumption) (w_walkers : pt.walkers = false := by assumption) :
    Keeps pt s0 (resumePieces  l s) := by
  induction l generalizing s with
  | nil => exact h_s
  | cons p t ih =>
    unfold resumePieces
    split
    · exact ih _ h_s
    · split
      · exact ih _ (setWalker_keeps _ _ _ h_s)
      · exact ih _ (issuePiece_keeps _ _ _ _ h_s)

theorem resumeReads_keeps {pt : Untouched} {s0 : State} (n : Nat) (s : State) (h_s : Keeps pt s0 s) (w_reports : pt.reports = false := by assumption) (w_frm : pt.frm = false := by assumption) (w_cores : pt.cores = false := by assumption) (w_mem : pt.mem = false := by assumption) (w_net : pt.net = false := by assumption) (w_walkers : pt.walkers = false := by assumption) :
    Keeps pt s0 (resumeReads n s) := by
  unfold resumeReads
  repeat' first
    | with_reducible assumption
    | (intro _)
    | (extract_lets +onlyGivenNames x; refine (fun hx : Keeps pt s0 x => ?_) ?_; try clear_value x; rotate_left; unfold x; clear x; rotate_right; rename State => z)
    | (extract_lets +onlyGivenNames x; have hb : MemBlk := x; clear hb; subst x)
    | (extract_lets +onlyGivenNames x; have hb : CoresBlk := x; clear hb; subst x)
    | (extract_lets +onlyGivenNames x; have hb : PrtBlk := x; clear hb; subst x)
    | (extract_lets +onlyGivenNames x; have hb : FrmBlk := x; clear hb; subst x)
    | (extract_lets +onlyGivenNames x; have hb : KprBlk := x; clear hb; subst x)
    | (extract_lets +onlyGivenNames x; have hb : HifBlk := x; clear hb; subst x)
    | (extract_lets +onlyGivenNames x; try clear_value x; revert x; intro z)
    | (with_reducible refine Keeps.upd ?_)
    | (with_reducible apply resumePieces_keeps)
    | (with_reducible apply setWalker_keeps)
    | (with_reducible apply issueRest_keeps)
    | (rw [State.mk_made]; with_reducible refine Keeps.upd ?_)
    | split

theorem startTransfer_keeps {pt : Untouched} {s0 : State} (n : Nat) (looks : List Nat) (e : QEntry) (s : State) (h_s : Keeps pt s0 s) (w_reports : pt.reports = false := by assumption) (w_frm : pt.frm = false := by assumption) (w_cores : pt.cores = false := by assumption) (w_mem : pt.mem = false := by assumption) (w_net : pt.net = false := by assumption) (w_walkers : pt.walkers = false := by assumption) :
    Keeps pt s0 (startTransfer n looks e s) := by
  unfold startTransfer
  repeat' first
    | with_reducible assumption
    | (intro _)
    | (extract_lets +onlyGivenNames x; refine (fun hx : Keeps pt s0 x => ?_) ?_; try clear_value x; rotate_left; unfold x; clear x; rotate_right; rename State => z)
    | (extract_lets +onlyGivenNames x; have hb : MemBlk := x; clear hb; subst x)
    | (extract_lets +onlyGivenNames x; have hb : CoresBlk := x; clear hb; subst x)
    | (extract_lets +onlyGivenNames x; have hb : PrtBlk := x; clear hb; subst x)
    | (extract_lets +onlyGivenNames x; have hb : FrmBlk := x; clear hb; subst x)
    | (extract_lets +onlyGivenNames x; have hb : KprBlk := x; clear hb; subst x)
    | (extract_lets +onlyGivenNames x; have hb : HifBlk := x; clear hb; subst x)
    | (extract_lets +onlyGivenNames x; try clear_value x; revert x; intro z)
    | (with_reducible refine Keeps.upd ?_)
    | (with_reducible apply issueRest_keeps)
    | (with_reducible apply discardLooks_keeps)
    | (with_reducible apply updEntry_keeps)
    | (rw [State.mk_made]; with_reducible refine Keeps.upd ?_)
    | split

theorem doLoadDesc_keeps {pt : Untouched} {s0 : State} (n : Nat) (looks : List Nat) (s : State) (h_s : Keeps pt s0 s) (w_reports : pt.reports = false := by assumption) (w_frm : pt.frm = false := by assumption) (w_cores : pt.cores = false := by assumption) (w_mem : pt.mem = false := by assumption) (w_net : pt.net = false := by assumption) (w_walkers : pt.walkers = false := by assumption) :
    Keeps pt s0 (doLoadDesc n looks s) := by
  unfold doLoadDesc
  repeat' first
    | with_reducible assumption
    | (intro _)
    | (extract_lets +onlyGivenNames x; refine (fun hx : Keeps pt s0 x => ?_) ?_; try clear_value x; rotate_left; unfold x; clear x; rotate_right; rename State => z)
    | (extract_lets +onlyGivenNames x; have hb : MemBlk := x; clear hb; subst x)
    | (extract_lets +onlyGivenNames x; have hb : CoresBlk := x; clear hb; subst x)
    | (extract_lets +onlyGivenNames x; have hb : PrtBlk := x; clear hb; subst x)
    | (extract_lets +onlyGivenNames x; have hb : FrmBlk := x; clear hb; subst x)
    | (extract_lets +onlyGivenNames x; have hb : KprBlk := x; clear hb; subst x)
    | (extract_lets +onlyGivenNames x; have hb : HifBlk := x; clear hb; subst x)
    | (extract_lets +onlyGivenNames x; try clear_value x; revert x; intro z)
    | (with_reducible refine Keeps.upd ?_)
    | (with_reducible apply runUnit_keeps)
    | (with_reducible apply startTransfer_keeps)
    | (rw [State.mk_made]; with_reducible refine Keeps.upd ?_)
    | split

theorem doStoreDesc_keeps {pt : Untouched} {s0 : State} (n : Nat) (looks : List Nat) (parity : Bool) (s : State) (h_s : Keeps pt s0 s) (w_reports : pt.reports = false := by assumption) (w_frm : pt.frm = false := by assumption) (w_cores : pt.cores = false := by assumption) (w_mem : pt.mem = false := by assumption) (w_net : pt.net = false := by assumption) (w_walkers : pt.walkers = false := by assumption) :
    Keeps pt s0 (doStoreDesc n looks parity s) := by
  unfold doStoreDesc
  repeat' first
    | with_reducible assumption
    | (intro _)
    | (extract_lets +onlyGivenNames x; refine (fun hx : Keeps pt s0 x => ?_) ?_; try clear_value x; rotate_left; unfold x; clear x; rotate_right; rename State => z)
    | (extract_lets +onlyGivenNames x; have hb : MemBlk := x; clear hb; subst x)
    | (extract_lets +onlyGivenNames x; have hb : CoresBlk := x; clear hb; subst x)
    | (extract_lets +onlyGivenNames x; have hb : PrtBlk := x; clear hb; subst x)
    | (extract_lets +onlyGivenNames x; have hb : FrmBlk := x; clear hb; subst x)
    | (extract_lets +onlyGivenNames x; have hb : KprBlk := x; clear hb; subst x)
    | (extract_lets +onlyGivenNames x; have hb : HifBlk := x; clear hb; subst x)
    | (extract_lets +onlyGivenNames x; try clear_value x; revert x; intro z)
    | (with_reducible refine Keeps.upd ?_)
    | (with_reducible apply runUnit_keeps)
    | (with_reducible apply startTransfer_keeps)
    | (rw [State.mk_made]; with_reducible refine Keeps.upd ?_)
    | split

theorem servedOwner_keeps {pt : Untouched} {s0 : State} (n k : Nat) (q : SashReq) (s : State) (h_s : Keeps pt s0 s) (w_reports : pt.reports = false := by assumption) (w_frm : pt.frm = false := by assumption) (w_cores : pt.cores = false := by assumption) (w_mem : pt.mem = false := by assumption) (w_net : pt.net = false := by assumption) (w_walkers : pt.walkers = false := by assumption) :
    Keeps pt s0 (servedOwner n k q s) := by
  unfold servedOwner
  repeat' first
    | with_reducible assumption
    | (intro _)
    | (extract_lets +onlyGivenNames x; refine (fun hx : Keeps pt s0 x => ?_) ?_; try clear_value x; rotate_left; unfold x; clear x; rotate_right; rename State => z)
    | (extract_lets +onlyGivenNames x; have hb : MemBlk := x; clear hb; subst x)
    | (extract_lets +onlyGivenNames x; have hb : CoresBlk := x; clear hb; subst x)
    | (extract_lets +onlyGivenNames x; have hb : PrtBlk := x; clear hb; subst x)
    | (extract_lets +onlyGivenNames x; have hb : FrmBlk := x; clear hb; subst x)
    | (extract_lets +onlyGivenNames x; have hb : KprBlk := x; clear hb; subst x)
    | (extract_lets +onlyGivenNames x; have hb : HifBlk := x; clear hb; subst x)
    | (extract_lets +onlyGivenNames x; try clear_value x; revert x; intro z)
    | (with_reducible refine Keeps.upd ?_)
    | (with_reducible apply resumeReads_keeps)
    | (with_reducible apply gotPiece_keeps)
    | (with_reducible apply setTile_keeps)
    | (rw [State.mk_made]; with_reducible refine Keeps.upd ?_)
    | split

theorem failOwner_keeps {pt : Untouched} {s0 : State} (n code : Nat) (e : QEntry) (s : State) (h_s : Keeps pt s0 s) (w_reports : pt.reports = false := by assumption) (w_frm : pt.frm = false := by assumption) (w_cores : pt.cores = false := by assumption) (w_mem : pt.mem = false := by assumption) :
    Keeps pt s0 (failOwner n code e s) := by
  unfold failOwner
  repeat' first
    | with_reducible assumption
    | (intro _)
    | (extract_lets +onlyGivenNames x; refine (fun hx : Keeps pt s0 x => ?_) ?_; try clear_value x; rotate_left; unfold x; clear x; rotate_right; rename State => z)
    | (extract_lets +onlyGivenNames x; have hb : MemBlk := x; clear hb; subst x)
    | (extract_lets +onlyGivenNames x; have hb : CoresBlk := x; clear hb; subst x)
    | (extract_lets +onlyGivenNames x; have hb : PrtBlk := x; clear hb; subst x)
    | (extract_lets +onlyGivenNames x; have hb : FrmBlk := x; clear hb; subst x)
    | (extract_lets +onlyGivenNames x; have hb : KprBlk := x; clear hb; subst x)
    | (extract_lets +onlyGivenNames x; have hb : HifBlk := x; clear hb; subst x)
    | (extract_lets +onlyGivenNames x; try clear_value x; revert x; intro z)
    | (with_reducible refine Keeps.upd ?_)
    | (with_reducible apply faultEntry_keeps)
    | (with_reducible apply setTile_keeps)
    | (rw [State.mk_made]; with_reducible refine Keeps.upd ?_)
    | split

theorem doOwnerSashRequest_keeps {pt : Untouched} {s0 : State} (n beats : Nat) (parity store : Bool) (flips : List (Nat × Nat)) (s : State) (h_s : Keeps pt s0 s) (w_stacked : pt.stacked = false := by assumption) (w_store : pt.store = false := by assumption) (w_reports : pt.reports = false := by assumption) (w_hif : pt.hif = false := by assumption) (w_frm : pt.frm = false := by assumption) (w_cores : pt.cores = false := by assumption) (w_mem : pt.mem = false := by assumption) (w_net : pt.net = false := by assumption) (w_walkers : pt.walkers = false := by assumption) :
    Keeps pt s0 (doOwnerSashRequest n beats parity store flips s) := by
  unfold doOwnerSashRequest
  repeat' first
    | with_reducible assumption
    | (intro _)
    | (extract_lets +onlyGivenNames x; refine (fun hx : Keeps pt s0 x => ?_) ?_; try clear_value x; rotate_left; unfold x; clear x; rotate_right; rename State => z)
    | (extract_lets +onlyGivenNames x; have hb : MemBlk := x; clear hb; subst x)
    | (extract_lets +onlyGivenNames x; have hb : CoresBlk := x; clear hb; subst x)
    | (extract_lets +onlyGivenNames x; have hb : PrtBlk := x; clear hb; subst x)
    | (extract_lets +onlyGivenNames x; have hb : FrmBlk := x; clear hb; subst x)
    | (extract_lets +onlyGivenNames x; have hb : KprBlk := x; clear hb; subst x)
    | (extract_lets +onlyGivenNames x; have hb : HifBlk := x; clear hb; subst x)
    | (extract_lets +onlyGivenNames x; try clear_value x; revert x; intro z)
    | (with_reducible refine Keeps.upd ?_)
    | (with_reducible apply setTile_keeps)
    | (with_reducible apply failOwner_keeps)
    | (with_reducible apply writeBytes_keeps)
    | (with_reducible apply servedOwner_keeps)
    | (with_reducible apply readBytes_keeps)
    | (with_reducible apply flipSymbols_keeps)
    | (with_reducible apply putStore_keeps)
    | (with_reducible refine Keeps.snd (by with_reducible assumption) ?_)
    | (rw [State.mk_made]; with_reducible refine Keeps.upd ?_)
    | split

theorem serveNetRead_keeps {pt : Untouched} {s0 : State} (p : Packet) (beats : Nat) (parity : Bool) (flips : List (Nat × Nat)) (s : State) (h_s : Keeps pt s0 s) (w_stacked : pt.stacked = false := by assumption) (w_reports : pt.reports = false := by assumption) (w_mem : pt.mem = false := by assumption) (w_net : pt.net = false := by assumption) :
    Keeps pt s0 (serveNetRead p beats parity flips s) := by
  unfold serveNetRead
  repeat' first
    | with_reducible assumption
    | (intro _)
    | (extract_lets +onlyGivenNames x; refine (fun hx : Keeps pt s0 x => ?_) ?_; try clear_value x; rotate_left; unfold x; clear x; rotate_right; rename State => z)
    | (extract_lets +onlyGivenNames x; have hb : MemBlk := x; clear hb; subst x)
    | (extract_lets +onlyGivenNames x; have hb : CoresBlk := x; clear hb; subst x)
    | (extract_lets +onlyGivenNames x; have hb : PrtBlk := x; clear hb; subst x)
    | (extract_lets +onlyGivenNames x; have hb : FrmBlk := x; clear hb; subst x)
    | (extract_lets +onlyGivenNames x; have hb : KprBlk := x; clear hb; subst x)
    | (extract_lets +onlyGivenNames x; have hb : HifBlk := x; clear hb; subst x)
    | (extract_lets +onlyGivenNames x; try clear_value x; revert x; intro z)
    | (with_reducible refine Keeps.upd ?_)
    | (with_reducible apply readBytes_keeps)
    | (with_reducible apply flipSymbols_keeps)
    | (with_reducible apply answer_keeps)
    | (with_reducible apply takePacket_keeps)
    | (with_reducible apply servedPart_keeps)
    | (with_reducible refine Keeps.snd (by with_reducible assumption) ?_)
    | (rw [State.mk_made]; with_reducible refine Keeps.upd ?_)
    | split

theorem doNetRead_keeps {pt : Untouched} {s0 : State} (id beats : Nat) (parity : Bool) (flips : List (Nat × Nat)) (s : State) (h_s : Keeps pt s0 s) (w_stacked : pt.stacked = false := by assumption) (w_reports : pt.reports = false := by assumption) (w_mem : pt.mem = false := by assumption) (w_net : pt.net = false := by assumption) :
    Keeps pt s0 (doNetRead id beats parity flips s) := by
  unfold doNetRead
  repeat' first
    | with_reducible assumption
    | (intro _)
    | (extract_lets +onlyGivenNames x; refine (fun hx : Keeps pt s0 x => ?_) ?_; try clear_value x; rotate_left; unfold x; clear x; rotate_right; rename State => z)
    | (extract_lets +onlyGivenNames x; have hb : MemBlk := x; clear hb; subst x)
    | (extract_lets +onlyGivenNames x; have hb : CoresBlk := x; clear hb; subst x)
    | (extract_lets +onlyGivenNames x; have hb : PrtBlk := x; clear hb; subst x)
    | (extract_lets +onlyGivenNames x; have hb : FrmBlk := x; clear hb; subst x)
    | (extract_lets +onlyGivenNames x; have hb : KprBlk := x; clear hb; subst x)
    | (extract_lets +onlyGivenNames x; have hb : HifBlk := x; clear hb; subst x)
    | (extract_lets +onlyGivenNames x; try clear_value x; revert x; intro z)
    | (with_reducible refine Keeps.upd ?_)
    | (with_reducible apply reachArbiter_keeps)
    | (with_reducible apply serveNetRead_keeps)
    | (rw [State.mk_made]; with_reducible refine Keeps.upd ?_)
    | split

theorem serveNetWrite_keeps {pt : Untouched} {s0 : State} (p : Packet) (beats : Nat) (parity : Bool) (s : State) (h_s : Keeps pt s0 s) (w_stacked : pt.stacked = false := by assumption) (w_reports : pt.reports = false := by assumption) (w_hif : pt.hif = false := by assumption) (w_mem : pt.mem = false := by assumption) (w_net : pt.net = false := by assumption) :
    Keeps pt s0 (serveNetWrite p beats parity s) := by
  unfold serveNetWrite
  repeat' first
    | with_reducible assumption
    | (intro _)
    | (extract_lets +onlyGivenNames x; refine (fun hx : Keeps pt s0 x => ?_) ?_; try clear_value x; rotate_left; unfold x; clear x; rotate_right; rename State => z)
    | (extract_lets +onlyGivenNames x; have hb : MemBlk := x; clear hb; subst x)
    | (extract_lets +onlyGivenNames x; have hb : CoresBlk := x; clear hb; subst x)
    | (extract_lets +onlyGivenNames x; have hb : PrtBlk := x; clear hb; subst x)
    | (extract_lets +onlyGivenNames x; have hb : FrmBlk := x; clear hb; subst x)
    | (extract_lets +onlyGivenNames x; have hb : KprBlk := x; clear hb; subst x)
    | (extract_lets +onlyGivenNames x; have hb : HifBlk := x; clear hb; subst x)
    | (extract_lets +onlyGivenNames x; try clear_value x; revert x; intro z)
    | (with_reducible refine Keeps.upd ?_)
    | (with_reducible apply writeBytes_keeps)
    | (with_reducible apply answer_keeps)
    | (with_reducible apply takePacket_keeps)
    | (with_reducible apply servedPart_keeps)
    | (with_reducible refine Keeps.snd (by with_reducible assumption) ?_)
    | (rw [State.mk_made]; with_reducible refine Keeps.upd ?_)
    | split

theorem doNetWrite_keeps {pt : Untouched} {s0 : State} (id beats : Nat) (parity : Bool) (s : State) (h_s : Keeps pt s0 s) (w_stacked : pt.stacked = false := by assumption) (w_reports : pt.reports = false := by assumption) (w_hif : pt.hif = false := by assumption) (w_mem : pt.mem = false := by assumption) (w_net : pt.net = false := by assumption) :
    Keeps pt s0 (doNetWrite id beats parity s) := by
  unfold doNetWrite
  repeat' first
    | with_reducible assumption
    | (intro _)
    | (extract_lets +onlyGivenNames x; refine (fun hx : Keeps pt s0 x => ?_) ?_; try clear_value x; rotate_left; unfold x; clear x; rotate_right; rename State => z)
    | (extract_lets +onlyGivenNames x; have hb : MemBlk := x; clear hb; subst x)
    | (extract_lets +onlyGivenNames x; have hb : CoresBlk := x; clear hb; subst x)
    | (extract_lets +onlyGivenNames x; have hb : PrtBlk := x; clear hb; subst x)
    | (extract_lets +onlyGivenNames x; have hb : FrmBlk := x; clear hb; subst x)
    | (extract_lets +onlyGivenNames x; have hb : KprBlk := x; clear hb; subst x)
    | (extract_lets +onlyGivenNames x; have hb : HifBlk := x; clear hb; subst x)
    | (extract_lets +onlyGivenNames x; try clear_value x; revert x; intro z)
    | (with_reducible refine Keeps.upd ?_)
    | (with_reducible apply suppress_keeps)
    | (with_reducible apply takePacket_keeps)
    | (with_reducible apply reachArbiter_keeps)
    | (with_reducible apply serveNetWrite_keeps)
    | (rw [State.mk_made]; with_reducible refine Keeps.upd ?_)
    | split

theorem fillPosted_keeps {pt : Untouched} {s0 : State} (n k uid total : Nat) (bytes : List Nat) (off : Nat) (s : State) (h_s : Keeps pt s0 s) (w_store : pt.store = false := by assumption) (w_cores : pt.cores = false := by assumption) :
    Keeps pt s0 (fillPosted n k uid total bytes off s) := by
  unfold fillPosted
  repeat' first
    | with_reducible assumption
    | (intro _)
    | (extract_lets +onlyGivenNames x; refine (fun hx : Keeps pt s0 x => ?_) ?_; try clear_value x; rotate_left; unfold x; clear x; rotate_right; rename State => z)
    | (extract_lets +onlyGivenNames x; have hb : CoresBlk := x; clear hb; subst x)
    | (extract_lets +onlyGivenNames x; have hb : FrmBlk := x; clear hb; subst x)
    | (extract_lets +onlyGivenNames x; have hb : KprBlk := x; clear hb; subst x)
    | (extract_lets +onlyGivenNames x; try clear_value x; revert x; intro z)
    | (with_reducible apply putStore_keeps)
    | (with_reducible apply setCtx_keeps)
    | (with_reducible apply doneEntry_keeps)
    | split

theorem takePosted_keeps {pt : Untouched} {s0 : State} (n k uid total : Nat) (src : Nat × Nat) (s : State) (h_s : Keeps pt s0 s) (w_reports : pt.reports = false := by assumption) (w_frm : pt.frm = false := by assumption) (w_cores : pt.cores = false := by assumption) :
    Keeps pt s0 (takePosted n k uid total src s) := by
  unfold takePosted
  repeat' first
    | with_reducible assumption
    | (intro _)
    | (extract_lets +onlyGivenNames x; refine (fun hx : Keeps pt s0 x => ?_) ?_; try clear_value x; rotate_left; unfold x; clear x; rotate_right; rename State => z)
    | (extract_lets +onlyGivenNames x; have hb : CoresBlk := x; clear hb; subst x)
    | (extract_lets +onlyGivenNames x; have hb : FrmBlk := x; clear hb; subst x)
    | (extract_lets +onlyGivenNames x; have hb : KprBlk := x; clear hb; subst x)
    | (extract_lets +onlyGivenNames x; try clear_value x; revert x; intro z)
    | (with_reducible apply setCtx_keeps)
    | (with_reducible apply faultEntry_keeps)
    | split

theorem deliver_keeps {pt : Untouched} {s0 : State} (n k : Nat) (p : Packet) (b : Posted) (s : State) (h_s : Keeps pt s0 s) (w_store : pt.store = false := by assumption) (w_reports : pt.reports = false := by assumption) (w_frm : pt.frm = false := by assumption) (w_cores : pt.cores = false := by assumption) :
    Keeps pt s0 (deliver n k p b s) := by
  unfold deliver
  repeat' first
    | with_reducible assumption
    | (intro _)
    | (extract_lets +onlyGivenNames x; refine (fun hx : Keeps pt s0 x => ?_) ?_; try clear_value x; rotate_left; unfold x; clear x; rotate_right; rename State => z)
    | (extract_lets +onlyGivenNames x; have hb : CoresBlk := x; clear hb; subst x)
    | (extract_lets +onlyGivenNames x; have hb : FrmBlk := x; clear hb; subst x)
    | (extract_lets +onlyGivenNames x; have hb : KprBlk := x; clear hb; subst x)
    | (with_reducible apply takePosted_keeps)
    | (with_reducible apply fillPosted_keeps)
    | split

theorem savePacket_keeps {pt : Untouched} {s0 : State} (p : Packet) (parity : Bool) (s : State) (h_s : Keeps pt s0 s) (w_stacked : pt.stacked = false := by assumption) (w_reports : pt.reports = false := by assumption) (w_hif : pt.hif = false := by assumption) (w_cores : pt.cores = false := by assumption) (w_mem : pt.mem = false := by assumption) (w_net : pt.net = false := by assumption) :
    Keeps pt s0 (savePacket p parity s) := by
  unfold savePacket
  repeat' first
    | with_reducible assumption
    | (intro _)
    | (extract_lets +onlyGivenNames x; refine (fun hx : Keeps pt s0 x => ?_) ?_; try clear_value x; rotate_left; unfold x; clear x; rotate_right; rename State => z)
    | (extract_lets +onlyGivenNames x; have hb : MemBlk := x; clear hb; subst x)
    | (extract_lets +onlyGivenNames x; have hb : CoresBlk := x; clear hb; subst x)
    | (extract_lets +onlyGivenNames x; have hb : PrtBlk := x; clear hb; subst x)
    | (extract_lets +onlyGivenNames x; have hb : FrmBlk := x; clear hb; subst x)
    | (extract_lets +onlyGivenNames x; have hb : KprBlk := x; clear hb; subst x)
    | (extract_lets +onlyGivenNames x; have hb : HifBlk := x; clear hb; subst x)
    | (extract_lets +onlyGivenNames x; try clear_value x; revert x; intro z)
    | (with_reducible refine Keeps.upd ?_)
    | (with_reducible apply answer_keeps)
    | (with_reducible apply writeBytes_keeps)
    | (with_reducible apply setCtx_keeps)
    | (with_reducible refine Keeps.snd (by with_reducible assumption) ?_)
    | (rw [State.mk_made]; with_reducible refine Keeps.upd ?_)
    | split

theorem doNetSend_keeps {pt : Untouched} {s0 : State} (id : Nat) (parity : Bool) (s : State) (h_s : Keeps pt s0 s) (w_stacked : pt.stacked = false := by assumption) (w_store : pt.store = false := by assumption) (w_reports : pt.reports = false := by assumption) (w_hif : pt.hif = false := by assumption) (w_frm : pt.frm = false := by assumption) (w_cores : pt.cores = false := by assumption) (w_mem : pt.mem = false := by assumption) (w_net : pt.net = false := by assumption) :
    Keeps pt s0 (doNetSend id parity s) := by
  unfold doNetSend
  repeat' first
    | with_reducible assumption
    | (intro _)
    | (extract_lets +onlyGivenNames x; refine (fun hx : Keeps pt s0 x => ?_) ?_; try clear_value x; rotate_left; unfold x; clear x; rotate_right; rename State => z)
    | (extract_lets +onlyGivenNames x; have hb : MemBlk := x; clear hb; subst x)
    | (extract_lets +onlyGivenNames x; have hb : CoresBlk := x; clear hb; subst x)
    | (extract_lets +onlyGivenNames x; have hb : PrtBlk := x; clear hb; subst x)
    | (extract_lets +onlyGivenNames x; have hb : FrmBlk := x; clear hb; subst x)
    | (extract_lets +onlyGivenNames x; have hb : KprBlk := x; clear hb; subst x)
    | (extract_lets +onlyGivenNames x; have hb : HifBlk := x; clear hb; subst x)
    | (extract_lets +onlyGivenNames x; try clear_value x; revert x; intro z)
    | (with_reducible refine Keeps.upd ?_)
    | (with_reducible apply suppress_keeps)
    | (with_reducible apply takePacket_keeps)
    | (with_reducible apply answer_keeps)
    | (with_reducible apply savePacket_keeps)
    | (with_reducible apply deliver_keeps)
    | (rw [State.mk_made]; with_reducible refine Keeps.upd ?_)
    | split

theorem feedPosted_keeps {pt : Untouched} {s0 : State} (n k channel : Nat) (l : List Packet) (s : State) (h_s : Keeps pt s0 s) (w_store : pt.store = false := by assumption) (w_reports : pt.reports = false := by assumption) (w_frm : pt.frm = false := by assumption) (w_cores : pt.cores = false := by assumption) (w_net : pt.net = false := by assumption) :
    Keeps pt s0 (feedPosted n k channel l s) := by
  induction l generalizing s with
  | nil => exact h_s
  | cons p t ih =>
    unfold feedPosted
    split
    · exact ih _ h_s
    · extract_lets +onlyGivenNames nb s1
      have h1 : Keeps pt s0 s1 := by unfold s1; rw [State.mk_made]; with_reducible exact Keeps.upd h_s
      exact ih _ (answer_keeps _ _ _ _ _ (deliver_keeps _ _ _ _ _ h1))

theorem feedArrival_keeps {pt : Untouched} {s0 : State} (n k : Nat) (b : Posted) (a : Arrival) (s : State) (h_s : Keeps pt s0 s) (w_store : pt.store = false := by assumption) (w_reports : pt.reports = false := by assumption) (w_frm : pt.frm = false := by assumption) (w_cores : pt.cores = false := by assumption) (w_mem : pt.mem = false := by assumption) (w_net : pt.net = false := by assumption) :
    Keeps pt s0 (feedArrival n k b a s) := by
  unfold feedArrival
  repeat' first
    | with_reducible assumption
    | (intro _)
    | (extract_lets +onlyGivenNames x; refine (fun hx : Keeps pt s0 x => ?_) ?_; try clear_value x; rotate_left; unfold x; clear x; rotate_right; rename State => z)
    | (extract_lets +onlyGivenNames x; have hb : MemBlk := x; clear hb; subst x)
    | (extract_lets +onlyGivenNames x; have hb : CoresBlk := x; clear hb; subst x)
    | (extract_lets +onlyGivenNames x; have hb : PrtBlk := x; clear hb; subst x)
    | (extract_lets +onlyGivenNames x; have hb : FrmBlk := x; clear hb; subst x)
    | (extract_lets +onlyGivenNames x; have hb : KprBlk := x; clear hb; subst x)
    | (extract_lets +onlyGivenNames x; have hb : HifBlk := x; clear hb; subst x)
    | (extract_lets +onlyGivenNames x; try clear_value x; revert x; intro z)
    | (with_reducible refine Keeps.upd ?_)
    | (with_reducible apply setCtx_keeps)
    | (with_reducible apply readBytes_keeps)
    | (with_reducible apply fillPosted_keeps)
    | (with_reducible apply takePosted_keeps)
    | (with_reducible apply faultEntry_keeps)
    | (with_reducible refine Keeps.snd (by with_reducible assumption) ?_)
    | (rw [State.mk_made]; with_reducible refine Keeps.upd ?_)
    | split

theorem feedSaved_keeps {pt : Untouched} {s0 : State} (n k : Nat) (s : State) (h_s : Keeps pt s0 s) (w_store : pt.store = false := by assumption) (w_reports : pt.reports = false := by assumption) (w_frm : pt.frm = false := by assumption) (w_cores : pt.cores = false := by assumption) (w_mem : pt.mem = false := by assumption) (w_net : pt.net = false := by assumption) :
    Keeps pt s0 (feedSaved n k s) := by
  unfold feedSaved
  repeat' first
    | with_reducible assumption
    | (intro _)
    | (extract_lets +onlyGivenNames x; refine (fun hx : Keeps pt s0 x => ?_) ?_; try clear_value x; rotate_left; unfold x; clear x; rotate_right; rename State => z)
    | (extract_lets +onlyGivenNames x; have hb : MemBlk := x; clear hb; subst x)
    | (extract_lets +onlyGivenNames x; have hb : CoresBlk := x; clear hb; subst x)
    | (extract_lets +onlyGivenNames x; have hb : PrtBlk := x; clear hb; subst x)
    | (extract_lets +onlyGivenNames x; have hb : FrmBlk := x; clear hb; subst x)
    | (extract_lets +onlyGivenNames x; have hb : KprBlk := x; clear hb; subst x)
    | (extract_lets +onlyGivenNames x; have hb : HifBlk := x; clear hb; subst x)
    | (extract_lets +onlyGivenNames x; try clear_value x; revert x; intro z)
    | (with_reducible refine Keeps.upd ?_)
    | (with_reducible apply feedArrival_keeps)
    | (with_reducible refine Keeps.foldl _ ?_ ?_)
    | (rw [State.mk_made]; with_reducible refine Keeps.upd ?_)
    | split

theorem recvBody_keeps {pt : Untouched} {s0 : State} (n : Nat) (e : QEntry) (s : State) (h_s : Keeps pt s0 s) (w_store : pt.store = false := by assumption) (w_reports : pt.reports = false := by assumption) (w_frm : pt.frm = false := by assumption) (w_cores : pt.cores = false := by assumption) (w_mem : pt.mem = false := by assumption) (w_net : pt.net = false := by assumption) :
    Keeps pt s0 (recvBody n e s) := by
  unfold recvBody
  repeat' first
    | with_reducible assumption
    | (intro _)
    | (extract_lets +onlyGivenNames x; refine (fun hx : Keeps pt s0 x => ?_) ?_; try clear_value x; rotate_left; unfold x; clear x; rotate_right; rename State => z)
    | (extract_lets +onlyGivenNames x; have hb : MemBlk := x; clear hb; subst x)
    | (extract_lets +onlyGivenNames x; have hb : CoresBlk := x; clear hb; subst x)
    | (extract_lets +onlyGivenNames x; have hb : PrtBlk := x; clear hb; subst x)
    | (extract_lets +onlyGivenNames x; have hb : FrmBlk := x; clear hb; subst x)
    | (extract_lets +onlyGivenNames x; have hb : KprBlk := x; clear hb; subst x)
    | (extract_lets +onlyGivenNames x; have hb : HifBlk := x; clear hb; subst x)
    | (extract_lets +onlyGivenNames x; try clear_value x; revert x; intro z)
    | (with_reducible refine Keeps.upd ?_)
    | (with_reducible apply setCtx_keeps)
    | (with_reducible apply feedSaved_keeps)
    | (with_reducible apply feedPosted_keeps)
    | (rw [State.mk_made]; with_reducible refine Keeps.upd ?_)
    | split

theorem doRecv_keeps {pt : Untouched} {s0 : State} (n : Nat) (s : State) (h_s : Keeps pt s0 s) (w_store : pt.store = false := by assumption) (w_reports : pt.reports = false := by assumption) (w_frm : pt.frm = false := by assumption) (w_cores : pt.cores = false := by assumption) (w_mem : pt.mem = false := by assumption) (w_net : pt.net = false := by assumption) :
    Keeps pt s0 (doRecv n s) := by
  unfold doRecv
  repeat' first
    | with_reducible assumption
    | (intro _)
    | (extract_lets +onlyGivenNames x; refine (fun hx : Keeps pt s0 x => ?_) ?_; try clear_value x; rotate_left; unfold x; clear x; rotate_right; rename State => z)
    | (extract_lets +onlyGivenNames x; have hb : CoresBlk := x; clear hb; subst x)
    | (extract_lets +onlyGivenNames x; have hb : FrmBlk := x; clear hb; subst x)
    | (extract_lets +onlyGivenNames x; have hb : KprBlk := x; clear hb; subst x)
    | (with_reducible apply runUnit_keeps)
    | (with_reducible apply recvBody_keeps)

theorem sendToRole_keeps {pt : Untouched} {s0 : State} (n : Nat) (e : QEntry) (s : State) (h_s : Keeps pt s0 s) (w_reports : pt.reports = false := by assumption) (w_frm : pt.frm = false := by assumption) (w_cores : pt.cores = false := by assumption) (w_net : pt.net = false := by assumption) :
    Keeps pt s0 (sendToRole n e s) := by
  unfold sendToRole
  repeat' first
    | with_reducible assumption
    | (intro _)
    | (extract_lets +onlyGivenNames x; refine (fun hx : Keeps pt s0 x => ?_) ?_; try clear_value x; rotate_left; unfold x; clear x; rotate_right; rename State => z)
    | (extract_lets +onlyGivenNames x; have hb : MemBlk := x; clear hb; subst x)
    | (extract_lets +onlyGivenNames x; have hb : CoresBlk := x; clear hb; subst x)
    | (extract_lets +onlyGivenNames x; have hb : PrtBlk := x; clear hb; subst x)
    | (extract_lets +onlyGivenNames x; have hb : FrmBlk := x; clear hb; subst x)
    | (extract_lets +onlyGivenNames x; have hb : KprBlk := x; clear hb; subst x)
    | (extract_lets +onlyGivenNames x; have hb : HifBlk := x; clear hb; subst x)
    | (extract_lets +onlyGivenNames x; try clear_value x; revert x; intro z)
    | (with_reducible refine Keeps.upd ?_)
    | (with_reducible apply faultEntry_keeps)
    | (with_reducible apply updEntry_keeps)
    | (with_reducible apply inject_keeps)
    | (with_reducible refine Keeps.foldl _ ?_ ?_)
    | (rw [State.mk_made]; with_reducible refine Keeps.upd ?_)
    | split

theorem doNetReadData_keeps {pt : Untouched} {s0 : State} (id : Nat) (s : State) (h_s : Keeps pt s0 s) (w_store : pt.store = false := by assumption) (w_reports : pt.reports = false := by assumption) (w_frm : pt.frm = false := by assumption) (w_cores : pt.cores = false := by assumption) (w_mem : pt.mem = false := by assumption) (w_net : pt.net = false := by assumption) (w_walkers : pt.walkers = false := by assumption) :
    Keeps pt s0 (doNetReadData id s) := by
  unfold doNetReadData
  repeat' first
    | with_reducible assumption
    | (intro _)
    | (extract_lets +onlyGivenNames x; refine (fun hx : Keeps pt s0 x => ?_) ?_; try clear_value x; rotate_left; unfold x; clear x; rotate_right; rename State => z)
    | (extract_lets +onlyGivenNames x; have hb : MemBlk := x; clear hb; subst x)
    | (extract_lets +onlyGivenNames x; have hb : CoresBlk := x; clear hb; subst x)
    | (extract_lets +onlyGivenNames x; have hb : PrtBlk := x; clear hb; subst x)
    | (extract_lets +onlyGivenNames x; have hb : FrmBlk := x; clear hb; subst x)
    | (extract_lets +onlyGivenNames x; have hb : KprBlk := x; clear hb; subst x)
    | (extract_lets +onlyGivenNames x; have hb : HifBlk := x; clear hb; subst x)
    | (extract_lets +onlyGivenNames x; try clear_value x; revert x; intro z)
    | (with_reducible refine Keeps.upd ?_)
    | (with_reducible apply takePacket_keeps)
    | (with_reducible apply resumeReads_keeps)
    | (with_reducible apply suppress_keeps)
    | (with_reducible apply gotPiece_keeps)
    | (with_reducible apply putStore_keeps)
    | (rw [State.mk_made]; with_reducible refine Keeps.upd ?_)
    | split

theorem doNetAck_keeps {pt : Untouched} {s0 : State} (id : Nat) (s : State) (h_s : Keeps pt s0 s) (w_cores : pt.cores = false := by assumption) (w_net : pt.net = false := by assumption) :
    Keeps pt s0 (doNetAck id s) := by
  unfold doNetAck
  repeat' first
    | with_reducible assumption
    | (intro _)
    | (extract_lets +onlyGivenNames x; refine (fun hx : Keeps pt s0 x => ?_) ?_; try clear_value x; rotate_left; unfold x; clear x; rotate_right; rename State => z)
    | (extract_lets +onlyGivenNames x; have hb : CoresBlk := x; clear hb; subst x)
    | (extract_lets +onlyGivenNames x; have hb : FrmBlk := x; clear hb; subst x)
    | (extract_lets +onlyGivenNames x; have hb : KprBlk := x; clear hb; subst x)
    | (with_reducible apply takePacket_keeps)
    | (with_reducible apply suppress_keeps)
    | (with_reducible apply gotPiece_keeps)
    | split

theorem doNetError_keeps {pt : Untouched} {s0 : State} (id : Nat) (s : State) (h_s : Keeps pt s0 s) (w_reports : pt.reports = false := by assumption) (w_frm : pt.frm = false := by assumption) (w_cores : pt.cores = false := by assumption) (w_mem : pt.mem = false := by assumption) (w_net : pt.net = false := by assumption) (w_walkers : pt.walkers = false := by assumption) :
    Keeps pt s0 (doNetError id s) := by
  unfold doNetError
  repeat' first
    | with_reducible assumption
    | (intro _)
    | (extract_lets +onlyGivenNames x; refine (fun hx : Keeps pt s0 x => ?_) ?_; try clear_value x; rotate_left; unfold x; clear x; rotate_right; rename State => z)
    | (extract_lets +onlyGivenNames x; have hb : MemBlk := x; clear hb; subst x)
    | (extract_lets +onlyGivenNames x; have hb : CoresBlk := x; clear hb; subst x)
    | (extract_lets +onlyGivenNames x; have hb : PrtBlk := x; clear hb; subst x)
    | (extract_lets +onlyGivenNames x; have hb : FrmBlk := x; clear hb; subst x)
    | (extract_lets +onlyGivenNames x; have hb : KprBlk := x; clear hb; subst x)
    | (extract_lets +onlyGivenNames x; have hb : HifBlk := x; clear hb; subst x)
    | (extract_lets +onlyGivenNames x; try clear_value x; revert x; intro z)
    | (with_reducible refine Keeps.upd ?_)
    | (with_reducible apply takePacket_keeps)
    | (with_reducible apply resumeReads_keeps)
    | (with_reducible apply faultEntry_keeps)
    | (with_reducible apply suppress_keeps)
    | (rw [State.mk_made]; with_reducible refine Keeps.upd ?_)
    | split

theorem failPieces_keeps {pt : Untouched} {s0 : State} (code : Nat) (l : List KvPiece) (s : State) (h_s : Keeps pt s0 s) (w_reports : pt.reports = false := by assumption) (w_frm : pt.frm = false := by assumption) (w_cores : pt.cores = false := by assumption) :
    Keeps pt s0 (failPieces code l s) := by
  induction l generalizing s with
  | nil => exact h_s
  | cons p t ih =>
    unfold failPieces
    split
    · exact ih _ h_s
    · exact ih _ (faultEntry_keeps _ _ _ _ h_s)

theorem doPageWalkDone_keeps {pt : Untouched} {s0 : State} (r lane word cycles : Nat) (parity : Bool) (flips : List (Nat × Nat)) (s : State) (h_s : Keeps pt s0 s) (w_stacked : pt.stacked = false := by assumption) (w_reports : pt.reports = false := by assumption) (w_frm : pt.frm = false := by assumption) (w_cores : pt.cores = false := by assumption) (w_mem : pt.mem = false := by assumption) (w_net : pt.net = false := by assumption) (w_walkers : pt.walkers = false := by assumption) :
    Keeps pt s0 (doPageWalkDone r lane word cycles parity flips s) := by
  unfold doPageWalkDone
  repeat' first
    | with_reducible assumption
    | (intro _)
    | (extract_lets +onlyGivenNames x; refine (fun hx : Keeps pt s0 x => ?_) ?_; try clear_value x; rotate_left; unfold x; clear x; rotate_right; rename State => z)
    | (extract_lets +onlyGivenNames x; have hb : MemBlk := x; clear hb; subst x)
    | (extract_lets +onlyGivenNames x; have hb : CoresBlk := x; clear hb; subst x)
    | (extract_lets +onlyGivenNames x; have hb : PrtBlk := x; clear hb; subst x)
    | (extract_lets +onlyGivenNames x; have hb : FrmBlk := x; clear hb; subst x)
    | (extract_lets +onlyGivenNames x; have hb : KprBlk := x; clear hb; subst x)
    | (extract_lets +onlyGivenNames x; have hb : HifBlk := x; clear hb; subst x)
    | (extract_lets +onlyGivenNames x; try clear_value x; revert x; intro z)
    | (with_reducible refine Keeps.upd ?_)
    | (with_reducible apply setWalker_keeps)
    | (with_reducible apply readBytes_keeps)
    | (with_reducible apply flipSymbols_keeps)
    | (with_reducible apply resumePieces_keeps)
    | (with_reducible apply failPieces_keeps)
    | (with_reducible refine Keeps.snd (by with_reducible assumption) ?_)
    | (rw [State.mk_made]; with_reducible refine Keeps.upd ?_)
    | split

end Sys2Proof.Machine
end

