-- ==== Sys2Proof/Laws/KeepsLinkBase.lean ====
section
/-! SUPPORT. Every operation of Machine/LinkBase.lean keeps the fuses, the queue and canonical memories. -/
namespace Sys2Proof.Machine
set_option linter.all false
set_option Elab.async false

theorem setLink_keeps {pt : Untouched} {s0 : State} (l : Nat) (f : Link → Link) (s : State) (h_s : Keeps pt s0 s) (w_lnk : pt.lnk = false := by assumption) :
    Keeps pt s0 (setLink l f s) := by
  unfold setLink
  repeat' first
    | with_reducible assumption
    | (extract_lets +onlyGivenNames x; refine (fun hx : Keeps pt s0 x => ?_) ?_; try clear_value x; rotate_left; unfold x; clear x; rotate_right; rename State => z)
    | (extract_lets +onlyGivenNames x; have hb : FrmBlk := x; clear hb; subst x)
    | (extract_lets +onlyGivenNames x; have hb : KprBlk := x; clear hb; subst x)
    | (extract_lets +onlyGivenNames x; try clear_value x; revert x; intro z)
    | (rw [State.mk_made]; with_reducible refine Keeps.upd ?_)

theorem transmit_keeps {pt : Untouched} {s0 : State} (l : Nat) (f : Flit) (s : State) (h_s : Keeps pt s0 s) (w_lnk : pt.lnk = false := by assumption) :
    Keeps pt s0 (transmit l f s) := by
  unfold transmit
  repeat' first
    | with_reducible assumption
    | (intro _)
    | (extract_lets +onlyGivenNames x; refine (fun hx : Keeps pt s0 x => ?_) ?_; try clear_value x; rotate_left; unfold x; clear x; rotate_right; rename State => z)
    | (extract_lets +onlyGivenNames x; have hb : MemBlk := x; clear hb; subst x)
    | (extract_lets +onlyGivenNames x; have hb : CoresBlk := x; clear hb; subst x)
    | (extract_lets +onlyGivenNames x; have hb : PrtBlk := x; clear hb; subst x)
    | (extract_lets +onlyGivenNames x; have hb : FrmBlk := x; clear hb; subst x)
    | (extract_lets +onlyGivenNames x; have hb : KprBlk := x; clear hb; subst x)
    | (extract_lets +onlyGivenNames x; have hb : HifBlk := x; clear hb; subst x)
    | (extract_lets +onlyGivenNames x; try clear_value x; revert x; intro z)
    | (with_reducible refine Keeps.upd ?_)
    | (with_reducible apply emit_keeps)
    | (with_reducible apply setLink_keeps)
    | (rw [State.mk_made]; with_reducible refine Keeps.upd ?_)
    | split

theorem sendIdle_keeps {pt : Untouched} {s0 : State} (l : Nat) (s : State) (h_s : Keeps pt s0 s) (w_lnk : pt.lnk = false := by assumption) :
    Keeps pt s0 (sendIdle l s) := by
  unfold sendIdle
  repeat' first
    | with_reducible assumption
    | (intro _)
    | (extract_lets +onlyGivenNames x; refine (fun hx : Keeps pt s0 x => ?_) ?_; try clear_value x; rotate_left; unfold x; clear x; rotate_right; rename State => z)
    | (extract_lets +onlyGivenNames x; have hb : MemBlk := x; clear hb; subst x)
    | (extract_lets +onlyGivenNames x; have hb : CoresBlk := x; clear hb; subst x)
    | (extract_lets +onlyGivenNames x; have hb : PrtBlk := x; clear hb; subst x)
    | (extract_lets +onlyGivenNames x; have hb : FrmBlk := x; clear hb; subst x)
    | (extract_lets +onlyGivenNames x; have hb : KprBlk := x; clear hb; subst x)
    | (extract_lets +onlyGivenNames x; have hb : HifBlk := x; clear hb; subst x)
    | (extract_lets +onlyGivenNames x; try clear_value x; revert x; intro z)
    | (with_reducible refine Keeps.upd ?_)
    | (with_reducible apply emit_keeps)
    | (with_reducible apply setLink_keeps)
    | (rw [State.mk_made]; with_reducible refine Keeps.upd ?_)
    | split

theorem oweCredit_keeps {pt : Untouched} {s0 : State} (l c : Nat) (s : State) (h_s : Keeps pt s0 s) (w_lnk : pt.lnk = false := by assumption) :
    Keeps pt s0 (oweCredit l c s) := by
  unfold oweCredit
  repeat' first
    | with_reducible assumption
    | (intro _)
    | (extract_lets +onlyGivenNames x; refine (fun hx : Keeps pt s0 x => ?_) ?_; try clear_value x; rotate_left; unfold x; clear x; rotate_right; rename State => z)
    | (extract_lets +onlyGivenNames x; have hb : MemBlk := x; clear hb; subst x)
    | (extract_lets +onlyGivenNames x; have hb : CoresBlk := x; clear hb; subst x)
    | (extract_lets +onlyGivenNames x; have hb : PrtBlk := x; clear hb; subst x)
    | (extract_lets +onlyGivenNames x; have hb : FrmBlk := x; clear hb; subst x)
    | (extract_lets +onlyGivenNames x; have hb : KprBlk := x; clear hb; subst x)
    | (extract_lets +onlyGivenNames x; have hb : HifBlk := x; clear hb; subst x)
    | (extract_lets +onlyGivenNames x; try clear_value x; revert x; intro z)
    | (with_reducible refine Keeps.upd ?_)
    | (with_reducible apply setLink_keeps)
    | (rw [State.mk_made]; with_reducible refine Keeps.upd ?_)
    | split

theorem freeBuffer_keeps {pt : Untouched} {s0 : State} (p : Option (Nat × Nat)) (s : State) (h_s : Keeps pt s0 s) (w_lnk : pt.lnk = false := by assumption) :
    Keeps pt s0 (freeBuffer p s) := by
  unfold freeBuffer
  repeat' first
    | with_reducible assumption
    | (intro _)
    | (extract_lets +onlyGivenNames x; refine (fun hx : Keeps pt s0 x => ?_) ?_; try clear_value x; rotate_left; unfold x; clear x; rotate_right; rename State => z)
    | (extract_lets +onlyGivenNames x; have hb : MemBlk := x; clear hb; subst x)
    | (extract_lets +onlyGivenNames x; have hb : CoresBlk := x; clear hb; subst x)
    | (extract_lets +onlyGivenNames x; have hb : PrtBlk := x; clear hb; subst x)
    | (extract_lets +onlyGivenNames x; have hb : FrmBlk := x; clear hb; subst x)
    | (extract_lets +onlyGivenNames x; have hb : KprBlk := x; clear hb; subst x)
    | (extract_lets +onlyGivenNames x; have hb : HifBlk := x; clear hb; subst x)
    | (extract_lets +onlyGivenNames x; try clear_value x; revert x; intro z)
    | (with_reducible refine Keeps.upd ?_)
    | (with_reducible apply sendIdle_keeps)
    | (with_reducible apply oweCredit_keeps)
    | (rw [State.mk_made]; with_reducible refine Keeps.upd ?_)
    | split

theorem drainLink_keeps {pt : Untouched} {s0 : State} (l n : Nat) (s : State) (h_s : Keeps pt s0 s) (w_lnk : pt.lnk = false := by assumption) :
    Keeps pt s0 (drainLink l n s) := by
  induction n generalizing s with
  | zero => exact h_s
  | succ f ih =>
    unfold drainLink
    split
    · exact h_s
    · exact ih _ (freeBuffer_keeps _ _ (transmit_keeps _ _ _ (setLink_keeps _ _ _ h_s)))

theorem queueFrom_keeps {pt : Untouched} {s0 : State} (p : Option (Nat × Nat)) (l : Nat) (f : Flit) (s : State) (h_s : Keeps pt s0 s) (w_lnk : pt.lnk = false := by assumption) :
    Keeps pt s0 (queueFrom p l f s) := by
  unfold queueFrom
  repeat' first
    | with_reducible assumption
    | (intro _)
    | (extract_lets +onlyGivenNames x; refine (fun hx : Keeps pt s0 x => ?_) ?_; try clear_value x; rotate_left; unfold x; clear x; rotate_right; rename State => z)
    | (extract_lets +onlyGivenNames x; have hb : MemBlk := x; clear hb; subst x)
    | (extract_lets +onlyGivenNames x; have hb : CoresBlk := x; clear hb; subst x)
    | (extract_lets +onlyGivenNames x; have hb : PrtBlk := x; clear hb; subst x)
    | (extract_lets +onlyGivenNames x; have hb : FrmBlk := x; clear hb; subst x)
    | (extract_lets +onlyGivenNames x; have hb : KprBlk := x; clear hb; subst x)
    | (extract_lets +onlyGivenNames x; have hb : HifBlk := x; clear hb; subst x)
    | (extract_lets +onlyGivenNames x; try clear_value x; revert x; intro z)
    | (with_reducible refine Keeps.upd ?_)
    | (with_reducible apply drainLink_keeps)
    | (with_reducible apply setLink_keeps)
    | (rw [State.mk_made]; with_reducible refine Keeps.upd ?_)
    | split

theorem queueOn_keeps {pt : Untouched} {s0 : State} (l : Nat) (f : Flit) (s : State) (h_s : Keeps pt s0 s) (w_lnk : pt.lnk = false := by assumption) :
    Keeps pt s0 (queueOn l f s) := by
  unfold queueOn
  repeat' first
    | with_reducible assumption
    | (intro _)
    | (extract_lets +onlyGivenNames x; refine (fun hx : Keeps pt s0 x => ?_) ?_; try clear_value x; rotate_left; unfold x; clear x; rotate_right; rename State => z)
    | (extract_lets +onlyGivenNames x; have hb : MemBlk := x; clear hb; subst x)
    | (extract_lets +onlyGivenNames x; have hb : CoresBlk := x; clear hb; subst x)
    | (extract_lets +onlyGivenNames x; have hb : PrtBlk := x; clear hb; subst x)
    | (extract_lets +onlyGivenNames x; have hb : FrmBlk := x; clear hb; subst x)
    | (extract_lets +onlyGivenNames x; have hb : KprBlk := x; clear hb; subst x)
    | (extract_lets +onlyGivenNames x; have hb : HifBlk := x; clear hb; subst x)
    | (extract_lets +onlyGivenNames x; try clear_value x; revert x; intro z)
    | (with_reducible refine Keeps.upd ?_)
    | (with_reducible apply queueFrom_keeps)
    | (rw [State.mk_made]; with_reducible refine Keeps.upd ?_)
    | split

theorem countUnreachable_keeps {pt : Untouched} {s0 : State} (s : State) (h_s : Keeps pt s0 s) (w_lnk : pt.lnk = false := by assumption) :
    Keeps pt s0 (countUnreachable s) := by
  unfold countUnreachable
  repeat' first
    | with_reducible assumption
    | (extract_lets +onlyGivenNames x; refine (fun hx : Keeps pt s0 x => ?_) ?_; try clear_value x; rotate_left; unfold x; clear x; rotate_right; rename State => z)
    | (extract_lets +onlyGivenNames x; have hb : FrmBlk := x; clear hb; subst x)
    | (extract_lets +onlyGivenNames x; have hb : KprBlk := x; clear hb; subst x)
    | (extract_lets +onlyGivenNames x; try clear_value x; revert x; intro z)
    | (rw [State.mk_made]; with_reducible refine Keeps.upd ?_)

theorem sendResponse_keeps {pt : Untouched} {s0 : State} (f : Flit) (s : State) (h_s : Keeps pt s0 s) (w_lnk : pt.lnk = false := by assumption) :
    Keeps pt s0 (sendResponse f s) := by
  unfold sendResponse
  repeat' first
    | with_reducible assumption
    | (extract_lets +onlyGivenNames x; refine (fun hx : Keeps pt s0 x => ?_) ?_; try clear_value x; rotate_left; unfold x; clear x; rotate_right; rename State => z)
    | (extract_lets +onlyGivenNames x; have hb : FrmBlk := x; clear hb; subst x)
    | (extract_lets +onlyGivenNames x; have hb : KprBlk := x; clear hb; subst x)
    | (extract_lets +onlyGivenNames x; try clear_value x; revert x; intro z)
    | (with_reducible apply queueOn_keeps)
    | (with_reducible apply countUnreachable_keeps)
    | split

theorem dropRequest_keeps {pt : Untouched} {s0 : State} (r : PeerReq) (s : State) (h_s : Keeps pt s0 s) (w_lnk : pt.lnk = false := by assumption) :
    Keeps pt s0 (dropRequest r s) := by
  unfold dropRequest
  repeat' first
    | with_reducible assumption
    | (extract_lets +onlyGivenNames x; refine (fun hx : Keeps pt s0 x => ?_) ?_; try clear_value x; rotate_left; unfold x; clear x; rotate_right; rename State => z)
    | (extract_lets +onlyGivenNames x; have hb : FrmBlk := x; clear hb; subst x)
    | (extract_lets +onlyGivenNames x; have hb : KprBlk := x; clear hb; subst x)
    | (extract_lets +onlyGivenNames x; try clear_value x; revert x; intro z)
    | (rw [State.mk_made]; with_reducible refine Keeps.upd ?_)

theorem ownAnswer_keeps {pt : Untouched} {s0 : State} (endpoint tag status : Nat) (data : List Nat) (s : State) (h_s : Keeps pt s0 s) (w_reports : pt.reports = false := by assumption) (w_frm : pt.frm = false := by assumption) (w_cores : pt.cores = false := by assumption) (w_lnk : pt.lnk = false := by assumption) :
    Keeps pt s0 (ownAnswer endpoint tag status data s) := by
  unfold ownAnswer
  repeat' first
    | with_reducible assumption
    | (extract_lets +onlyGivenNames x; refine (fun hx : Keeps pt s0 x => ?_) ?_; try clear_value x; rotate_left; unfold x; clear x; rotate_right; rename State => z)
    | (extract_lets +onlyGivenNames x; have hb : FrmBlk := x; clear hb; subst x)
    | (extract_lets +onlyGivenNames x; have hb : KprBlk := x; clear hb; subst x)
    | (extract_lets +onlyGivenNames x; try clear_value x; revert x; intro z)
    | (with_reducible apply dropRequest_keeps)
    | (with_reducible apply gotPiece_keeps)
    | (with_reducible apply faultEntry_keeps)
    | (rw [State.mk_made]; with_reducible refine Keeps.upd ?_)
    | split

theorem loseFlit_keeps {pt : Untouched} {s0 : State} (own : Bool) (f : Flit) (s : State) (h_s : Keeps pt s0 s) (w_reports : pt.reports = false := by assumption) (w_frm : pt.frm = false := by assumption) (w_cores : pt.cores = false := by assumption) (w_lnk : pt.lnk = false := by assumption) :
    Keeps pt s0 (loseFlit own f s) := by
  unfold loseFlit
  repeat' first
    | with_reducible assumption
    | (intro _)
    | (extract_lets +onlyGivenNames x; refine (fun hx : Keeps pt s0 x => ?_) ?_; try clear_value x; rotate_left; unfold x; clear x; rotate_right; rename State => z)
    | (extract_lets +onlyGivenNames x; have hb : MemBlk := x; clear hb; subst x)
    | (extract_lets +onlyGivenNames x; have hb : CoresBlk := x; clear hb; subst x)
    | (extract_lets +onlyGivenNames x; have hb : PrtBlk := x; clear hb; subst x)
    | (extract_lets +onlyGivenNames x; have hb : FrmBlk := x; clear hb; subst x)
    | (extract_lets +onlyGivenNames x; have hb : KprBlk := x; clear hb; subst x)
    | (extract_lets +onlyGivenNames x; have hb : HifBlk := x; clear hb; subst x)
    | (extract_lets +onlyGivenNames x; try clear_value x; revert x; intro z)
    | (with_reducible refine Keeps.upd ?_)
    | (with_reducible apply ownAnswer_keeps)
    | (with_reducible apply sendResponse_keeps)
    | (rw [State.mk_made]; with_reducible refine Keeps.upd ?_)
    | split

theorem discardFlit_keeps {pt : Untouched} {s0 : State} (own : Bool) (f : Flit) (s : State) (h_s : Keeps pt s0 s) (w_reports : pt.reports = false := by assumption) (w_frm : pt.frm = false := by assumption) (w_cores : pt.cores = false := by assumption) (w_lnk : pt.lnk = false := by assumption) :
    Keeps pt s0 (discardFlit own f s) := by
  unfold discardFlit
  repeat' first
    | with_reducible assumption
    | (extract_lets +onlyGivenNames x; refine (fun hx : Keeps pt s0 x => ?_) ?_; try clear_value x; rotate_left; unfold x; clear x; rotate_right; rename State => z)
    | (extract_lets +onlyGivenNames x; have hb : FrmBlk := x; clear hb; subst x)
    | (extract_lets +onlyGivenNames x; have hb : KprBlk := x; clear hb; subst x)
    | (extract_lets +onlyGivenNames x; try clear_value x; revert x; intro z)
    | (with_reducible apply loseFlit_keeps)
    | (with_reducible apply countUnreachable_keeps)
    | split

theorem sendRequest_keeps {pt : Untouched} {s0 : State} (f : Flit) (s : State) (h_s : Keeps pt s0 s) (w_reports : pt.reports = false := by assumption) (w_frm : pt.frm = false := by assumption) (w_cores : pt.cores = false := by assumption) (w_net : pt.net = false := by assumption) (w_lnk : pt.lnk = false := by assumption) :
    Keeps pt s0 (sendRequest f s) := by
  unfold sendRequest
  repeat' first
    | with_reducible assumption
    | (intro _)
    | (extract_lets +onlyGivenNames x; refine (fun hx : Keeps pt s0 x => ?_) ?_; try clear_value x; rotate_left; unfold x; clear x; rotate_right; rename State => z)
    | (extract_lets +onlyGivenNames x; have hb : MemBlk := x; clear hb; subst x)
    | (extract_lets +onlyGivenNames x; have hb : CoresBlk := x; clear hb; subst x)
    | (extract_lets +onlyGivenNames x; have hb : PrtBlk := x; clear hb; subst x)
    | (extract_lets +onlyGivenNames x; have hb : FrmBlk := x; clear hb; subst x)
    | (extract_lets +onlyGivenNames x; have hb : KprBlk := x; clear hb; subst x)
    | (extract_lets +onlyGivenNames x; have hb : HifBlk := x; clear hb; subst x)
    | (extract_lets +onlyGivenNames x; try clear_value x; revert x; intro z)
    | (with_reducible refine Keeps.upd ?_)
    | (with_reducible apply queueOn_keeps)
    | (with_reducible apply crossNet_keeps)
    | (with_reducible apply discardFlit_keeps)
    | (rw [State.mk_made]; with_reducible refine Keeps.upd ?_)
    | split

theorem issueRequest_keeps {pt : Untouched} {s0 : State} (r : PeerReq) (f : Flit) (s : State) (h_s : Keeps pt s0 s) (w_reports : pt.reports = false := by assumption) (w_frm : pt.frm = false := by assumption) (w_cores : pt.cores = false := by assumption) (w_net : pt.net = false := by assumption) (w_lnk : pt.lnk = false := by assumption) :
    Keeps pt s0 (issueRequest r f s) := by
  unfold issueRequest
  repeat' first
    | with_reducible assumption
    | (extract_lets +onlyGivenNames x; refine (fun hx : Keeps pt s0 x => ?_) ?_; try clear_value x; rotate_left; unfold x; clear x; rotate_right; rename State => z)
    | (extract_lets +onlyGivenNames x; have hb : FrmBlk := x; clear hb; subst x)
    | (extract_lets +onlyGivenNames x; have hb : KprBlk := x; clear hb; subst x)
    | (extract_lets +onlyGivenNames x; try clear_value x; revert x; intro z)
    | (with_reducible apply sendRequest_keeps)
    | (rw [State.mk_made]; with_reducible refine Keeps.upd ?_)

theorem issuePeer_keeps {pt : Untouched} {s0 : State} (n uid : Nat) (parity : Bool) (l : List Piece) (s : State) (h_s : Keeps pt s0 s) (w_reports : pt.reports = false := by assumption) (w_frm : pt.frm = false := by assumption) (w_cores : pt.cores = false := by assumption) (w_net : pt.net = false := by assumption) (w_lnk : pt.lnk = false := by assumption) :
    Keeps pt s0 (issuePeer n uid parity l s) := by
  induction l generalizing s with
  | nil => exact h_s
  | cons p t ih =>
    unfold issuePeer
    split
    · exact h_s
    · split
      · exact h_s
      · split
        · exact faultEntry_keeps _ _ _ _ h_s
        · exact ih _ (issueRequest_keeps _ _ _ (updEntry_keeps _ _ _ _ h_s))

theorem issuePeerRest_keeps {pt : Untouched} {s0 : State} (n uid : Nat) (parity : Bool) (s : State) (h_s : Keeps pt s0 s) (w_reports : pt.reports = false := by assumption) (w_frm : pt.frm = false := by assumption) (w_cores : pt.cores = false := by assumption) (w_net : pt.net = false := by assumption) (w_lnk : pt.lnk = false := by assumption) :
    Keeps pt s0 (issuePeerRest n uid parity s) := by
  unfold issuePeerRest
  repeat' first
    | with_reducible assumption
    | (intro _)
    | (extract_lets +onlyGivenNames x; refine (fun hx : Keeps pt s0 x => ?_) ?_; try clear_value x; rotate_left; unfold x; clear x; rotate_right; rename State => z)
    | (extract_lets +onlyGivenNames x; have hb : MemBlk := x; clear hb; subst x)
    | (extract_lets +onlyGivenNames x; have hb : CoresBlk := x; clear hb; subst x)
    | (extract_lets +onlyGivenNames x; have hb : PrtBlk := x; clear hb; subst x)
    | (extract_lets +onlyGivenNames x; have hb : FrmBlk := x; clear hb; subst x)
    | (extract_lets +onlyGivenNames x; have hb : KprBlk := x; clear hb; subst x)
    | (extract_lets +onlyGivenNames x; have hb : HifBlk := x; clear hb; subst x)
    | (extract_lets +onlyGivenNames x; try clear_value x; revert x; intro z)
    | (with_reducible refine Keeps.upd ?_)
    | (with_reducible apply issuePeer_keeps)
    | (rw [State.mk_made]; with_reducible refine Keeps.upd ?_)
    | split

theorem resumePeer_keeps {pt : Untouched} {s0 : State} (endpoint : Nat) (parity : Bool) (s : State) (h_s : Keeps pt s0 s) (w_reports : pt.reports = false := by assumption) (w_frm : pt.frm = false := by assumption) (w_cores : pt.cores = false := by assumption) (w_net : pt.net = false := by assumption) (w_lnk : pt.lnk = false := by assumption) :
    Keeps pt s0 (resumePeer endpoint parity s) := by
  unfold resumePeer
  repeat' first
    | with_reducible assumption
    | (intro _)
    | (extract_lets +onlyGivenNames x; refine (fun hx : Keeps pt s0 x => ?_) ?_; try clear_value x; rotate_left; unfold x; clear x; rotate_right; rename State => z)
    | (extract_lets +onlyGivenNames x; have hb : MemBlk := x; clear hb; subst x)
    | (extract_lets +onlyGivenNames x; have hb : CoresBlk := x; clear hb; subst x)
    | (extract_lets +onlyGivenNames x; have hb : PrtBlk := x; clear hb; subst x)
    | (extract_lets +onlyGivenNames x; have hb : FrmBlk := x; clear hb; subst x)
    | (extract_lets +onlyGivenNames x; have hb : KprBlk := x; clear hb; subst x)
    | (extract_lets +onlyGivenNames x; have hb : HifBlk := x; clear hb; subst x)
    | (extract_lets +onlyGivenNames x; try clear_value x; revert x; intro z)
    | (with_reducible refine Keeps.upd ?_)
    | (with_reducible apply issuePeerRest_keeps)
    | (rw [State.mk_made]; with_reducible refine Keeps.upd ?_)
    | split

theorem takeAnswer_keeps {pt : Untouched} {s0 : State} (l endpoint tag status : Nat) (data : List Nat) (parity : Bool) (s : State) (h_s : Keeps pt s0 s) (w_reports : pt.reports = false := by assumption) (w_frm : pt.frm = false := by assumption) (w_cores : pt.cores = false := by assumption) (w_net : pt.net = false := by assumption) (w_lnk : pt.lnk = false := by assumption) :
    Keeps pt s0 (takeAnswer l endpoint tag status data parity s) := by
  unfold takeAnswer
  repeat' first
    | with_reducible assumption
    | (intro _)
    | (extract_lets +onlyGivenNames x; refine (fun hx : Keeps pt s0 x => ?_) ?_; try clear_value x; rotate_left; unfold x; clear x; rotate_right; rename State => z)
    | (extract_lets +onlyGivenNames x; have hb : MemBlk := x; clear hb; subst x)
    | (extract_lets +onlyGivenNames x; have hb : CoresBlk := x; clear hb; subst x)
    | (extract_lets +onlyGivenNames x; have hb : PrtBlk := x; clear hb; subst x)
    | (extract_lets +onlyGivenNames x; have hb : FrmBlk := x; clear hb; subst x)
    | (extract_lets +onlyGivenNames x; have hb : KprBlk := x; clear hb; subst x)
    | (extract_lets +onlyGivenNames x; have hb : HifBlk := x; clear hb; subst x)
    | (extract_lets +onlyGivenNames x; try clear_value x; revert x; intro z)
    | (with_reducible refine Keeps.upd ?_)
    | (with_reducible apply crossNet_keeps)
    | (with_reducible apply resumePeer_keeps)
    | (with_reducible apply ownAnswer_keeps)
    | (rw [State.mk_made]; with_reducible refine Keeps.upd ?_)
    | split

theorem sendToPeer_keeps {pt : Untouched} {s0 : State} (n : Nat) (e : QEntry) (s : State) (h_s : Keeps pt s0 s) (w_reports : pt.reports = false := by assumption) (w_frm : pt.frm = false := by assumption) (w_cores : pt.cores = false := by assumption) (w_net : pt.net = false := by assumption) (w_lnk : pt.lnk = false := by assumption) :
    Keeps pt s0 (sendToPeer n e s) := by
  unfold sendToPeer
  repeat' first
    | with_reducible assumption
    | (intro _)
    | (extract_lets +onlyGivenNames x; refine (fun hx : Keeps pt s0 x => ?_) ?_; try clear_value x; rotate_left; unfold x; clear x; rotate_right; rename State => z)
    | (extract_lets +onlyGivenNames x; have hb : MemBlk := x; clear hb; subst x)
    | (extract_lets +onlyGivenNames x; have hb : CoresBlk := x; clear hb; subst x)
    | (extract_lets +onlyGivenNames x; have hb : PrtBlk := x; clear hb; subst x)
    | (extract_lets +onlyGivenNames x; have hb : FrmBlk := x; clear hb; subst x)
    | (extract_lets +onlyGivenNames x; have hb : KprBlk := x; clear hb; subst x)
    | (extract_lets +onlyGivenNames x; have hb : HifBlk := x; clear hb; subst x)
    | (extract_lets +onlyGivenNames x; try clear_value x; revert x; intro z)
    | (with_reducible refine Keeps.upd ?_)
    | (with_reducible apply faultEntry_keeps)
    | (with_reducible apply issuePeerRest_keeps)
    | (with_reducible apply updEntry_keeps)
    | (rw [State.mk_made]; with_reducible refine Keeps.upd ?_)
    | split

theorem doSend_keeps {pt : Untouched} {s0 : State} (n : Nat) (parity : Bool) (s : State) (h_s : Keeps pt s0 s) (w_reports : pt.reports = false := by assumption) (w_frm : pt.frm = false := by assumption) (w_cores : pt.cores = false := by assumption) (w_net : pt.net = false := by assumption) (w_lnk : pt.lnk = false := by assumption) :
    Keeps pt s0 (doSend n parity s) := by
  unfold doSend
  repeat' first
    | with_reducible assumption
    | (intro _)
    | (extract_lets +onlyGivenNames x; refine (fun hx : Keeps pt s0 x => ?_) ?_; try clear_value x; rotate_left; unfold x; clear x; rotate_right; rename State => z)
    | (extract_lets +onlyGivenNames x; have hb : FrmBlk := x; clear hb; subst x)
    | (extract_lets +onlyGivenNames x; have hb : KprBlk := x; clear hb; subst x)
    | (extract_lets +onlyGivenNames x; try clear_value x; revert x; intro z)
    | (with_reducible apply runUnit_keeps)
    | (with_reducible apply sendToRole_keeps)
    | (with_reducible apply sendToPeer_keeps)
    | split

theorem noteLoss_keeps {pt : Untouched} {s0 : State} (l : Nat) (s : State) (h_s : Keeps pt s0 s) (w_lnk : pt.lnk = false := by assumption) :
    Keeps pt s0 (noteLoss l s) := by
  unfold noteLoss
  repeat' first
    | with_reducible assumption
    | (extract_lets +onlyGivenNames x; refine (fun hx : Keeps pt s0 x => ?_) ?_; try clear_value x; rotate_left; unfold x; clear x; rotate_right; rename State => z)
    | (extract_lets +onlyGivenNames x; have hb : FrmBlk := x; clear hb; subst x)
    | (extract_lets +onlyGivenNames x; have hb : KprBlk := x; clear hb; subst x)
    | (extract_lets +onlyGivenNames x; try clear_value x; revert x; intro z)
    | (with_reducible apply setLink_keeps)

theorem discardAll_keeps {pt : Untouched} {s0 : State}  (l : List Flit) (s : State) (h_s : Keeps pt s0 s) (w_reports : pt.reports = false := by assumption) (w_frm : pt.frm = false := by assumption) (w_cores : pt.cores = false := by assumption) (w_lnk : pt.lnk = false := by assumption) :
    Keeps pt s0 (discardAll  l s) := by
  induction l generalizing s with
  | nil => exact h_s
  | cons f t ih =>
    unfold discardAll
    exact ih _ (loseFlit_keeps _ _ _ h_s)

theorem reroute_keeps {pt : Untouched} {s0 : State}  (l : List OutFlit) (s : State) (h_s : Keeps pt s0 s) (w_reports : pt.reports = false := by assumption) (w_frm : pt.frm = false := by assumption) (w_cores : pt.cores = false := by assumption) (w_lnk : pt.lnk = false := by assumption) :
    Keeps pt s0 (reroute  l s) := by
  induction l generalizing s with
  | nil => exact h_s
  | cons o t ih =>
    unfold reroute
    split
    · exact ih _ (queueFrom_keeps _ _ _ _ h_s)
    · exact ih _ (freeBuffer_keeps _ _ (discardFlit_keeps _ _ _ h_s))

theorem leaveBuffers_keeps {pt : Untouched} {s0 : State} (l : Nat) (s : State) (h_s : Keeps pt s0 s) (w_lnk : pt.lnk = false := by assumption) :
    Keeps pt s0 (leaveBuffers l s) := by
  unfold leaveBuffers
  repeat' first
    | with_reducible assumption
    | (intro _)
    | (extract_lets +onlyGivenNames x; refine (fun hx : Keeps pt s0 x => ?_) ?_; try clear_value x; rotate_left; unfold x; clear x; rotate_right; rename State => z)
    | (extract_lets +onlyGivenNames x; have hb : MemBlk := x; clear hb; subst x)
    | (extract_lets +onlyGivenNames x; have hb : CoresBlk := x; clear hb; subst x)
    | (extract_lets +onlyGivenNames x; have hb : PrtBlk := x; clear hb; subst x)
    | (extract_lets +onlyGivenNames x; have hb : FrmBlk := x; clear hb; subst x)
    | (extract_lets +onlyGivenNames x; have hb : KprBlk := x; clear hb; subst x)
    | (extract_lets +onlyGivenNames x; have hb : HifBlk := x; clear hb; subst x)
    | (extract_lets +onlyGivenNames x; try clear_value x; revert x; intro z)
    | (with_reducible refine Keeps.upd ?_)
    | (rw [State.mk_made]; with_reducible refine Keeps.upd ?_)
    | split

theorem linkDown_keeps {pt : Untouched} {s0 : State} (l : Nat) (st : LinkState) (s : State) (h_s : Keeps pt s0 s) (w_reports : pt.reports = false := by assumption) (w_frm : pt.frm = false := by assumption) (w_cores : pt.cores = false := by assumption) (w_lnk : pt.lnk = false := by assumption) :
    Keeps pt s0 (linkDown l st s) := by
  unfold linkDown
  repeat' first
    | with_reducible assumption
    | (intro _)
    | (extract_lets +onlyGivenNames x; refine (fun hx : Keeps pt s0 x => ?_) ?_; try clear_value x; rotate_left; unfold x; clear x; rotate_right; rename State => z)
    | (extract_lets +onlyGivenNames x; have hb : MemBlk := x; clear hb; subst x)
    | (extract_lets +onlyGivenNames x; have hb : CoresBlk := x; clear hb; subst x)
    | (extract_lets +onlyGivenNames x; have hb : PrtBlk := x; clear hb; subst x)
    | (extract_lets +onlyGivenNames x; have hb : FrmBlk := x; clear hb; subst x)
    | (extract_lets +onlyGivenNames x; have hb : KprBlk := x; clear hb; subst x)
    | (extract_lets +onlyGivenNames x; have hb : HifBlk := x; clear hb; subst x)
    | (extract_lets +onlyGivenNames x; try clear_value x; revert x; intro z)
    | (with_reducible refine Keeps.upd ?_)
    | (with_reducible apply setLink_keeps)
    | (with_reducible apply leaveBuffers_keeps)
    | (with_reducible apply noteLoss_keeps)
    | (with_reducible apply reroute_keeps)
    | (with_reducible apply discardAll_keeps)
    | (rw [State.mk_made]; with_reducible refine Keeps.upd ?_)
    | split

theorem settleQuiesce_keeps {pt : Untouched} {s0 : State} (l : Nat) (s : State) (h_s : Keeps pt s0 s) (w_reports : pt.reports = false := by assumption) (w_frm : pt.frm = false := by assumption) (w_cores : pt.cores = false := by assumption) (w_lnk : pt.lnk = false := by assumption) :
    Keeps pt s0 (settleQuiesce l s) := by
  unfold settleQuiesce
  repeat' first
    | with_reducible assumption
    | (extract_lets +onlyGivenNames x; refine (fun hx : Keeps pt s0 x => ?_) ?_; try clear_value x; rotate_left; unfold x; clear x; rotate_right; rename State => z)
    | (extract_lets +onlyGivenNames x; have hb : FrmBlk := x; clear hb; subst x)
    | (extract_lets +onlyGivenNames x; have hb : KprBlk := x; clear hb; subst x)
    | (extract_lets +onlyGivenNames x; try clear_value x; revert x; intro z)
    | (with_reducible apply linkDown_keeps)
    | split

theorem sendStatusFlit_keeps {pt : Untouched} {s0 : State} (f : Flit) (s : State) (h_s : Keeps pt s0 s) (w_net : pt.net = false := by assumption) (w_lnk : pt.lnk = false := by assumption) :
    Keeps pt s0 (sendStatusFlit f s) := by
  unfold sendStatusFlit
  repeat' first
    | with_reducible assumption
    | (intro _)
    | (extract_lets +onlyGivenNames x; refine (fun hx : Keeps pt s0 x => ?_) ?_; try clear_value x; rotate_left; unfold x; clear x; rotate_right; rename State => z)
    | (extract_lets +onlyGivenNames x; have hb : MemBlk := x; clear hb; subst x)
    | (extract_lets +onlyGivenNames x; have hb : CoresBlk := x; clear hb; subst x)
    | (extract_lets +onlyGivenNames x; have hb : PrtBlk := x; clear hb; subst x)
    | (extract_lets +onlyGivenNames x; have hb : FrmBlk := x; clear hb; subst x)
    | (extract_lets +onlyGivenNames x; have hb : KprBlk := x; clear hb; subst x)
    | (extract_lets +onlyGivenNames x; have hb : HifBlk := x; clear hb; subst x)
    | (extract_lets +onlyGivenNames x; try clear_value x; revert x; intro z)
    | (with_reducible refine Keeps.upd ?_)
    | (with_reducible apply queueOn_keeps)
    | (with_reducible apply crossNet_keeps)
    | (with_reducible apply countUnreachable_keeps)
    | (rw [State.mk_made]; with_reducible refine Keeps.upd ?_)
    | split

theorem sendStatus_keeps {pt : Untouched} {s0 : State} (record : List Nat) (s : State) (h_s : Keeps pt s0 s) (w_net : pt.net = false := by assumption) (w_lnk : pt.lnk = false := by assumption) :
    Keeps pt s0 (sendStatus record s) := by
  unfold sendStatus
  repeat' first
    | with_reducible assumption
    | (intro _)
    | (extract_lets +onlyGivenNames x; refine (fun hx : Keeps pt s0 x => ?_) ?_; try clear_value x; rotate_left; unfold x; clear x; rotate_right; rename State => z)
    | (extract_lets +onlyGivenNames x; have hb : MemBlk := x; clear hb; subst x)
    | (extract_lets +onlyGivenNames x; have hb : CoresBlk := x; clear hb; subst x)
    | (extract_lets +onlyGivenNames x; have hb : PrtBlk := x; clear hb; subst x)
    | (extract_lets +onlyGivenNames x; have hb : FrmBlk := x; clear hb; subst x)
    | (extract_lets +onlyGivenNames x; have hb : KprBlk := x; clear hb; subst x)
    | (extract_lets +onlyGivenNames x; have hb : HifBlk := x; clear hb; subst x)
    | (extract_lets +onlyGivenNames x; try clear_value x; revert x; intro z)
    | (with_reducible refine Keeps.upd ?_)
    | (with_reducible apply sendStatusFlit_keeps)
    | (with_reducible refine Keeps.foldl _ ?_ ?_)
    | (rw [State.mk_made]; with_reducible refine Keeps.upd ?_)
    | split

end Sys2Proof.Machine
end

