-- ==== Sys2Proof/Laws/KeepsLanes.lean ====
section
/-! SUPPORT. Every operation of Machine/Lanes.lean keeps the fuses, the queue and canonical memories. -/
namespace Sys2Proof.Machine
set_option linter.all false
set_option Elab.async false

theorem judgeNeighbour_keeps {pt : Untouched} {s0 : State} (l : Nat) (s : State) (h_s : Keeps pt s0 s) (w_lnk : pt.lnk = false := by assumption) :
    Keeps pt s0 (judgeNeighbour l s) := by
  unfold judgeNeighbour
  repeat' first
    | with_reducible assumption
    | (extract_lets +onlyGivenNames x; refine (fun hx : Keeps pt s0 x => ?_) ?_; try clear_value x; rotate_left; unfold x; clear x; rotate_right; rename State => z)
    | (extract_lets +onlyGivenNames x; try clear_value x; revert x; intro z)
    | (with_reducible apply noteLoss_keeps)
    | (with_reducible apply setLink_keeps)
    | split

theorem rewidth_keeps {pt : Untouched} {s0 : State} (l : Nat) (s : State) (h_s : Keeps pt s0 s) (w_reports : pt.reports = false := by assumption) (w_frm : pt.frm = false := by assumption) (w_cores : pt.cores = false := by assumption) (w_lnk : pt.lnk = false := by assumption) :
    Keeps pt s0 (rewidth l s) := by
  unfold rewidth
  repeat' first
    | with_reducible assumption
    | (extract_lets +onlyGivenNames x; refine (fun hx : Keeps pt s0 x => ?_) ?_; try clear_value x; rotate_left; unfold x; clear x; rotate_right; rename State => z)
    | (extract_lets +onlyGivenNames x; try clear_value x; revert x; intro z)
    | (with_reducible apply setLink_keeps)
    | (with_reducible apply raise_keeps)
    | (with_reducible apply linkDown_keeps)
    | (with_reducible apply noteLoss_keeps)
    | split

theorem addWaiting_keeps {pt : Untouched} {s0 : State} (l : Nat) (s : State) (h_s : Keeps pt s0 s) (w_reports : pt.reports = false := by assumption) (w_frm : pt.frm = false := by assumption) (w_cores : pt.cores = false := by assumption) (w_lnk : pt.lnk = false := by assumption) :
    Keeps pt s0 (addWaiting l s) := by
  unfold addWaiting
  repeat' first
    | with_reducible assumption
    | (extract_lets +onlyGivenNames x; refine (fun hx : Keeps pt s0 x => ?_) ?_; try clear_value x; rotate_left; unfold x; clear x; rotate_right; rename State => z)
    | (with_reducible apply rewidth_keeps)
    | (with_reducible apply setLink_keeps)
    | split

end Sys2Proof.Machine
end

