-- ==== Sys2Proof/Laws/KeepsReports.lean ====
section
/-! SUPPORT. Every operation of Machine/Reports.lean keeps the fuses, the queue and canonical memories. -/
namespace Sys2Proof.Machine
set_option linter.all false
set_option Elab.async false

theorem evtWrite_keeps {pt : Untouched} {s0 : State} (off v rw ro : Nat) (body : State → State) (s : State) (k_body : ∀ x, Keeps pt s0 x → Keeps pt s0 (body x)) (h_s : Keeps pt s0 s) (w_reports : pt.reports = false := by assumption) :
    Keeps pt s0 (evtWrite off v rw ro body s) := by
  unfold evtWrite
  repeat' first
    | with_reducible assumption
    | (intro _)
    | (with_reducible apply regWrite_keeps)
    | (with_reducible apply inState_keeps)

theorem writeRingBase_keeps {pt : Untouched} {s0 : State} (v : Nat) (s : State) (h_s : Keeps pt s0 s) (w_reports : pt.reports = false := by assumption) :
    Keeps pt s0 (writeRingBase v s) := by
  unfold writeRingBase
  repeat' first
    | with_reducible assumption
    | (intro _)
    | (with_reducible apply evtWrite_keeps)
    | (with_reducible apply refuse_keeps)
    | (rw [State.mk_made]; with_reducible refine Keeps.upd ?_)
    | split

theorem writeEvtCtrl_keeps {pt : Untouched} {s0 : State} (v : Nat) (s : State) (h_s : Keeps pt s0 s) (w_reports : pt.reports = false := by assumption) :
    Keeps pt s0 (writeEvtCtrl v s) := by
  unfold writeEvtCtrl
  repeat' first
    | with_reducible assumption
    | (intro _)
    | (extract_lets +onlyGivenNames x; refine (fun hx : Keeps pt s0 x => ?_) ?_; try clear_value x; rotate_left; unfold x; clear x; rotate_right; rename State => z)
    | (extract_lets +onlyGivenNames x; try clear_value x; revert x; intro z)
    | (with_reducible apply evtWrite_keeps)
    | (with_reducible apply refuse_keeps)
    | (with_reducible apply flushEvents_keeps)
    | (rw [State.mk_made]; with_reducible refine Keeps.upd ?_)
    | split

theorem writeEvtHead_keeps {pt : Untouched} {s0 : State} (v : Nat) (s : State) (h_s : Keeps pt s0 s) (w_reports : pt.reports = false := by assumption) :
    Keeps pt s0 (writeEvtHead v s) := by
  unfold writeEvtHead
  repeat' first
    | with_reducible assumption
    | (intro _)
    | (extract_lets +onlyGivenNames x; try clear_value x; revert x; intro z)
    | (with_reducible apply evtWrite_keeps)
    | (with_reducible apply refuse_keeps)
    | (with_reducible apply flushEvents_keeps)
    | (rw [State.mk_made]; with_reducible refine Keeps.upd ?_)
    | split

theorem writeReportBase_keeps {pt : Untouched} {s0 : State} (v : Nat) (s : State) (h_s : Keeps pt s0 s) (w_reports : pt.reports = false := by assumption) :
    Keeps pt s0 (writeReportBase v s) := by
  unfold writeReportBase
  repeat' first
    | with_reducible assumption
    | (intro _)
    | (with_reducible apply evtWrite_keeps)
    | (with_reducible apply refuse_keeps)
    | (rw [State.mk_made]; with_reducible refine Keeps.upd ?_)
    | split

theorem writeReportCtrl_keeps {pt : Untouched} {s0 : State} (v : Nat) (s : State) (h_s : Keeps pt s0 s) (w_reports : pt.reports = false := by assumption) :
    Keeps pt s0 (writeReportCtrl v s) := by
  unfold writeReportCtrl
  repeat' first
    | with_reducible assumption
    | (intro _)
    | (with_reducible apply evtWrite_keeps)
    | (with_reducible apply refuse_keeps)
    | (rw [State.mk_made]; with_reducible refine Keeps.upd ?_)
    | split

theorem writeAmaxSel_keeps {pt : Untouched} {s0 : State} (v : Nat) (s : State) (h_s : Keeps pt s0 s) (w_reports : pt.reports = false := by assumption) :
    Keeps pt s0 (writeAmaxSel v s) := by
  unfold writeAmaxSel
  repeat' first
    | with_reducible assumption
    | (intro _)
    | (with_reducible apply evtWrite_keeps)
    | (rw [State.mk_made]; with_reducible refine Keeps.upd ?_)

theorem writeRegionSel_keeps {pt : Untouched} {s0 : State} (i v : Nat) (s : State) (h_s : Keeps pt s0 s) (w_reports : pt.reports = false := by assumption) :
    Keeps pt s0 (writeRegionSel i v s) := by
  unfold writeRegionSel
  repeat' first
    | with_reducible assumption
    | (intro _)
    | (with_reducible apply evtWrite_keeps)
    | (rw [State.mk_made]; with_reducible refine Keeps.upd ?_)

theorem doEvtEnable_keeps {pt : Untouched} {s0 : State} (v : Nat) (s : State) (h_s : Keeps pt s0 s) (w_reports : pt.reports = false := by assumption) :
    Keeps pt s0 (doEvtEnable v s) := by
  unfold doEvtEnable
  repeat' first
    | with_reducible assumption
    | (intro _)
    | (with_reducible apply writeEvtCtrl_keeps)
    | (rw [State.mk_made]; with_reducible refine Keeps.upd ?_)

theorem doEvtDisable_keeps {pt : Untouched} {s0 : State} (v : Nat) (s : State) (h_s : Keeps pt s0 s) (w_reports : pt.reports = false := by assumption) :
    Keeps pt s0 (doEvtDisable v s) := by
  unfold doEvtDisable
  repeat' first
    | with_reducible assumption
    | (intro _)
    | (with_reducible apply writeEvtCtrl_keeps)
    | (rw [State.mk_made]; with_reducible refine Keeps.upd ?_)

theorem doEvtHeadWrite_keeps {pt : Untouched} {s0 : State} (v : Nat) (s : State) (h_s : Keeps pt s0 s) (w_reports : pt.reports = false := by assumption) :
    Keeps pt s0 (doEvtHeadWrite v s) := by
  unfold doEvtHeadWrite
  repeat' first
    | with_reducible assumption
    | (intro _)
    | (with_reducible apply writeEvtHead_keeps)
    | (rw [State.mk_made]; with_reducible refine Keeps.upd ?_)

theorem doEvtCoalesceTimeout_keeps {pt : Untouched} {s0 : State} (s : State) (h_s : Keeps pt s0 s) (w_reports : pt.reports = false := by assumption) :
    Keeps pt s0 (doEvtCoalesceTimeout s) := by
  unfold doEvtCoalesceTimeout
  repeat' first
    | with_reducible assumption
    | (intro _)
    | (with_reducible apply signalMsix_keeps)
    | (rw [State.mk_made]; with_reducible refine Keeps.upd ?_)
    | split

theorem prepareReport_keeps {pt : Untouched} {s0 : State} (s : State) (h_s : Keeps pt s0 s) (w_reports : pt.reports = false := by assumption) (w_cores : pt.cores = false := by assumption) :
    Keeps pt s0 (prepareReport s) := by
  unfold prepareReport
  repeat' first
    | with_reducible assumption
    | (intro _)
    | (extract_lets +onlyGivenNames x; refine (fun hx : Keeps pt s0 x => ?_) ?_; try clear_value x; rotate_left; unfold x; clear x; rotate_right; rename State => z)
    | (extract_lets +onlyGivenNames x; have hb : MemBlk := x; clear hb; subst x)
    | (extract_lets +onlyGivenNames x; have hb : CoresBlk := x; clear hb; subst x)
    | (extract_lets +onlyGivenNames x; have hb : PrtBlk := x; clear hb; subst x)
    | (extract_lets +onlyGivenNames x; have hb : FrmBlk := x; clear hb; subst x)
    | (extract_lets +onlyGivenNames x; have hb : KprBlk := x; clear hb; subst x)
    | (extract_lets +onlyGivenNames x; have hb : HifBlk := x; clear hb; subst x)
    | (extract_lets +onlyGivenNames x; try clear_value x; revert x; intro z)
    | (with_reducible refine Keeps.upd ?_)
    | (rw [State.mk_made]; with_reducible refine Keeps.upd ?_)
    | split

theorem startReport_keeps {pt : Untouched} {s0 : State} (f : FrameFacts) (s : State) (h_s : Keeps pt s0 s) (w_reports : pt.reports = false := by assumption) :
    Keeps pt s0 (startReport f s) := by
  unfold startReport
  repeat' first
    | with_reducible assumption
    | (intro _)
    | (extract_lets +onlyGivenNames x; refine (fun hx : Keeps pt s0 x => ?_) ?_; try clear_value x; rotate_left; unfold x; clear x; rotate_right; rename State => z)
    | (extract_lets +onlyGivenNames x; have hb : MemBlk := x; clear hb; subst x)
    | (extract_lets +onlyGivenNames x; have hb : CoresBlk := x; clear hb; subst x)
    | (extract_lets +onlyGivenNames x; have hb : PrtBlk := x; clear hb; subst x)
    | (extract_lets +onlyGivenNames x; have hb : FrmBlk := x; clear hb; subst x)
    | (extract_lets +onlyGivenNames x; have hb : KprBlk := x; clear hb; subst x)
    | (extract_lets +onlyGivenNames x; have hb : HifBlk := x; clear hb; subst x)
    | (extract_lets +onlyGivenNames x; try clear_value x; revert x; intro z)
    | (with_reducible refine Keeps.upd ?_)
    | (with_reducible apply hostPut_keeps)
    | (rw [State.mk_made]; with_reducible refine Keeps.upd ?_)
    | split

theorem doReportDone_keeps {pt : Untouched} {s0 : State} (s : State) (h_s : Keeps pt s0 s) (w_reports : pt.reports = false := by assumption) :
    Keeps pt s0 (doReportDone s) := by
  unfold doReportDone
  repeat' first
    | with_reducible assumption
    | (intro _)
    | (extract_lets +onlyGivenNames x; refine (fun hx : Keeps pt s0 x => ?_) ?_; try clear_value x; rotate_left; unfold x; clear x; rotate_right; rename State => z)
    | (with_reducible apply hostPut_keeps)
    | (with_reducible apply signalMsix_keeps)
    | (rw [State.mk_made]; with_reducible refine Keeps.upd ?_)
    | split

end Sys2Proof.Machine
end

