-- ==== Sys2Proof/Laws/KeepsRequest.lean ====
section
/-! SUPPORT. Every operation of Machine/Request.lean keeps the fuses, the queue and canonical memories. -/
namespace Sys2Proof.Machine
set_option linter.all false
set_option Elab.async false

theorem completeAppends_keeps {pt : Untouched} {s0 : State} (n : Nat) (l : List AppendRun) (s : State) (h_s : Keeps pt s0 s) (w_reports : pt.reports = false := by assumption) (w_req : pt.req = false := by assumption) :
    Keeps pt s0 (completeAppends n l s) := by
  induction l generalizing s with
  | nil => exact setSeq_keeps _ _ _ h_s
  | cons a t ih =>
    unfold completeAppends
    split
    · exact ih _ (complete_keeps _ _ _ h_s)
    · exact setSeq_keeps _ _ _ h_s

theorem startWork_keeps {pt : Untouched} {s0 : State} (n : Nat) (l : List Work) (s : State) (h_s : Keeps pt s0 s) (w_reports : pt.reports = false := by assumption) (w_req : pt.req = false := by assumption) :
    Keeps pt s0 (startWork n l s) := by
  induction l generalizing s with
  | nil => exact setSeq_keeps _ _ _ h_s
  | cons w t ih =>
    cases w with
    | append tag l a =>
      unfold startWork
      dsimp only
      split
      · exact setSeq_keeps _ _ _ h_s
      · split
        · exact ih _ (complete_keeps _ _ _ h_s)
        · exact ih _ (completeAppends_keeps _ _ _ (setSeq_keeps _ _ _ h_s))
    | generate tag p =>
      unfold startWork
      dsimp only
      split
      · exact setSeq_keeps _ _ _ h_s
      · split
        · exact ih _ (complete_keeps _ _ _ h_s)
        · exact setSeq_keeps _ _ _ h_s

theorem endFull_keeps {pt : Untouched} {s0 : State} (n : Nat) (s : State) (h_s : Keeps pt s0 s) (w_reports : pt.reports = false := by assumption) (w_req : pt.req = false := by assumption) :
    Keeps pt s0 (endFull n s) := by
  unfold endFull
  repeat' first
    | with_reducible assumption
    | (intro _)
    | (extract_lets +onlyGivenNames x; refine (fun hx : Keeps pt s0 x => ?_) ?_; try clear_value x; rotate_left; unfold x; clear x; rotate_right; rename State => z)
    | (extract_lets +onlyGivenNames x; have hb : MemBlk := x; clear hb; subst x)
    | (extract_lets +onlyGivenNames x; have hb : CoresBlk := x; clear hb; subst x)
    | (extract_lets +onlyGivenNames x; have hb : PrtBlk := x; clear hb; subst x)
    | (extract_lets +onlyGivenNames x; have hb : FrmBlk := x; clear hb; subst x)
    | (extract_lets +onlyGivenNames x; have hb : KprBlk := x; clear hb; subst x)
    | (extract_lets +onlyGivenNames x; have hb : HifBlk := x; clear hb; subst x)
    | (extract_lets +onlyGivenNames x; try clear_value x; revert x; intro z)
    | (with_reducible refine Keeps.upd ?_)
    | (with_reducible apply complete_keeps)
    | (with_reducible apply setSeq_keeps)
    | (rw [State.mk_made]; with_reducible refine Keeps.upd ?_)
    | split

theorem advance_keeps {pt : Untouched} {s0 : State} (n : Nat) (s : State) (h_s : Keeps pt s0 s) (w_reports : pt.reports = false := by assumption) (w_req : pt.req = false := by assumption) :
    Keeps pt s0 (advance n s) := by
  unfold advance
  repeat' first
    | with_reducible assumption
    | (intro _)
    | (extract_lets +onlyGivenNames x; refine (fun hx : Keeps pt s0 x => ?_) ?_; try clear_value x; rotate_left; unfold x; clear x; rotate_right; rename State => z)
    | (extract_lets +onlyGivenNames x; have hb : MemBlk := x; clear hb; subst x)
    | (extract_lets +onlyGivenNames x; have hb : CoresBlk := x; clear hb; subst x)
    | (extract_lets +onlyGivenNames x; have hb : PrtBlk := x; clear hb; subst x)
    | (extract_lets +onlyGivenNames x; have hb : FrmBlk := x; clear hb; subst x)
    | (extract_lets +onlyGivenNames x; have hb : KprBlk := x; clear hb; subst x)
    | (extract_lets +onlyGivenNames x; have hb : HifBlk := x; clear hb; subst x)
    | (extract_lets +onlyGivenNames x; try clear_value x; revert x; intro z)
    | (with_reducible refine Keeps.upd ?_)
    | (with_reducible apply startWork_keeps)
    | (rw [State.mk_made]; with_reducible refine Keeps.upd ?_)
    | split

theorem openBody_keeps {pt : Untouched} {s0 : State} (q : Nat) (b : List Nat) (s : State) (h_s : Keeps pt s0 s) (w_reports : pt.reports = false := by assumption) (w_req : pt.req = false := by assumption) :
    Keeps pt s0 (openBody q b s) := by
  unfold openBody
  repeat' first
    | with_reducible assumption
    | (intro _)
    | (extract_lets +onlyGivenNames x; refine (fun hx : Keeps pt s0 x => ?_) ?_; try clear_value x; rotate_left; unfold x; clear x; rotate_right; rename State => z)
    | (extract_lets +onlyGivenNames x; have hb : FrmBlk := x; clear hb; subst x)
    | (extract_lets +onlyGivenNames x; have hb : KprBlk := x; clear hb; subst x)
    | (extract_lets +onlyGivenNames x; try clear_value x; revert x; intro z)
    | (with_reducible apply complete_keeps)
    | (rw [State.mk_made]; with_reducible refine Keeps.upd ?_)
    | split

theorem queueWork_keeps {pt : Untouched} {s0 : State} (q : Nat) (b : List Nat) (bad : Nat) (w : Work) (long : Seq → State → Bool) (s : State) (h_s : Keeps pt s0 s) (w_reports : pt.reports = false := by assumption) (w_req : pt.req = false := by assumption) :
    Keeps pt s0 (queueWork q b bad w long s) := by
  unfold queueWork
  repeat' first
    | with_reducible assumption
    | (intro _)
    | (extract_lets +onlyGivenNames x; refine (fun hx : Keeps pt s0 x => ?_) ?_; try clear_value x; rotate_left; unfold x; clear x; rotate_right; rename State => z)
    | (extract_lets +onlyGivenNames x; have hb : MemBlk := x; clear hb; subst x)
    | (extract_lets +onlyGivenNames x; have hb : CoresBlk := x; clear hb; subst x)
    | (extract_lets +onlyGivenNames x; have hb : PrtBlk := x; clear hb; subst x)
    | (extract_lets +onlyGivenNames x; have hb : FrmBlk := x; clear hb; subst x)
    | (extract_lets +onlyGivenNames x; have hb : KprBlk := x; clear hb; subst x)
    | (extract_lets +onlyGivenNames x; have hb : HifBlk := x; clear hb; subst x)
    | (extract_lets +onlyGivenNames x; try clear_value x; revert x; intro z)
    | (with_reducible refine Keeps.upd ?_)
    | (with_reducible apply withSeq_keeps)
    | (with_reducible apply complete_keeps)
    | (with_reducible apply advance_keeps)
    | (with_reducible apply setSeq_keeps)
    | (rw [State.mk_made]; with_reducible refine Keeps.upd ?_)
    | split

theorem appendBody_keeps {pt : Untouched} {s0 : State} (q : Nat) (b : List Nat) (s : State) (h_s : Keeps pt s0 s) (w_reports : pt.reports = false := by assumption) (w_req : pt.req = false := by assumption) :
    Keeps pt s0 (appendBody q b s) := by
  unfold appendBody
  repeat' first
    | with_reducible assumption
    | (intro _)
    | (extract_lets +onlyGivenNames x; refine (fun hx : Keeps pt s0 x => ?_) ?_; try clear_value x; rotate_left; unfold x; clear x; rotate_right; rename State => z)
    | (extract_lets +onlyGivenNames x; have hb : MemBlk := x; clear hb; subst x)
    | (extract_lets +onlyGivenNames x; have hb : CoresBlk := x; clear hb; subst x)
    | (extract_lets +onlyGivenNames x; have hb : PrtBlk := x; clear hb; subst x)
    | (extract_lets +onlyGivenNames x; have hb : FrmBlk := x; clear hb; subst x)
    | (extract_lets +onlyGivenNames x; have hb : KprBlk := x; clear hb; subst x)
    | (extract_lets +onlyGivenNames x; have hb : HifBlk := x; clear hb; subst x)
    | (extract_lets +onlyGivenNames x; try clear_value x; revert x; intro z)
    | (with_reducible refine Keeps.upd ?_)
    | (with_reducible apply queueWork_keeps)
    | (rw [State.mk_made]; with_reducible refine Keeps.upd ?_)
    | split

theorem hostFault_keeps {pt : Untouched} {s0 : State} (n : Nat) (s : State) (h_s : Keeps pt s0 s) (w_reports : pt.reports = false := by assumption) (w_req : pt.req = false := by assumption) :
    Keeps pt s0 (hostFault n s) := by
  unfold hostFault
  repeat' first
    | with_reducible assumption
    | (intro _)
    | (extract_lets +onlyGivenNames x; refine (fun hx : Keeps pt s0 x => ?_) ?_; try clear_value x; rotate_left; unfold x; clear x; rotate_right; rename State => z)
    | (extract_lets +onlyGivenNames x; have hb : MemBlk := x; clear hb; subst x)
    | (extract_lets +onlyGivenNames x; have hb : CoresBlk := x; clear hb; subst x)
    | (extract_lets +onlyGivenNames x; have hb : PrtBlk := x; clear hb; subst x)
    | (extract_lets +onlyGivenNames x; have hb : FrmBlk := x; clear hb; subst x)
    | (extract_lets +onlyGivenNames x; have hb : KprBlk := x; clear hb; subst x)
    | (extract_lets +onlyGivenNames x; have hb : HifBlk := x; clear hb; subst x)
    | (extract_lets +onlyGivenNames x; try clear_value x; revert x; intro z)
    | (with_reducible refine Keeps.upd ?_)
    | (with_reducible apply setSeq_keeps)
    | (with_reducible apply advance_keeps)
    | (with_reducible apply complete_keeps)
    | (rw [State.mk_made]; with_reducible refine Keeps.upd ?_)
    | split

theorem generateBody_keeps {pt : Untouched} {s0 : State} (q : Nat) (b : List Nat) (s : State) (h_s : Keeps pt s0 s) (w_reports : pt.reports = false := by assumption) (w_req : pt.req = false := by assumption) :
    Keeps pt s0 (generateBody q b s) := by
  unfold generateBody
  repeat' first
    | with_reducible assumption
    | (intro _)
    | (extract_lets +onlyGivenNames x; refine (fun hx : Keeps pt s0 x => ?_) ?_; try clear_value x; rotate_left; unfold x; clear x; rotate_right; rename State => z)
    | (extract_lets +onlyGivenNames x; have hb : MemBlk := x; clear hb; subst x)
    | (extract_lets +onlyGivenNames x; have hb : CoresBlk := x; clear hb; subst x)
    | (extract_lets +onlyGivenNames x; have hb : PrtBlk := x; clear hb; subst x)
    | (extract_lets +onlyGivenNames x; have hb : FrmBlk := x; clear hb; subst x)
    | (extract_lets +onlyGivenNames x; have hb : KprBlk := x; clear hb; subst x)
    | (extract_lets +onlyGivenNames x; have hb : HifBlk := x; clear hb; subst x)
    | (extract_lets +onlyGivenNames x; try clear_value x; revert x; intro z)
    | (with_reducible refine Keeps.upd ?_)
    | (with_reducible apply queueWork_keeps)
    | (rw [State.mk_made]; with_reducible refine Keeps.upd ?_)
    | split

theorem zeroPiece_keeps {pt : Untouched} {s0 : State} (a len : Nat) (s : State) (h_s : Keeps pt s0 s) (w_stacked : pt.stacked = false := by assumption) (w_reports : pt.reports = false := by assumption) (w_hif : pt.hif = false := by assumption) (w_mem : pt.mem = false := by assumption) (w_net : pt.net = false := by assumption) :
    Keeps pt s0 (zeroPiece a len s) := by
  unfold zeroPiece
  extract_lets +onlyGivenNames s1
  have h1 : Keeps pt s0 s1 := netAccess_keeps _ _ _ _ _ h_s
  clear_value s1
  split
  · exact stagingDiscard_keeps _ _ h1
  · split
    · exact busError_keeps _ _ _ _ _ _ h1
    · split
      · exact parityError_keeps _ _ _ _ h1
      · refine openRow_keeps _ _ ?_
        rw [State.mk_made]
        with_reducible exact Keeps.upd h1 (hd := fun h => wf_memClear _ _ h) (hk := fun h => wf_memClear _ _ h)

theorem zeroPieces_keeps {pt : Untouched} {s0 : State} (fuel a len : Nat) (s : State) (h_s : Keeps pt s0 s) (w_stacked : pt.stacked = false := by assumption) (w_reports : pt.reports = false := by assumption) (w_hif : pt.hif = false := by assumption) (w_mem : pt.mem = false := by assumption) (w_net : pt.net = false := by assumption) :
    Keeps pt s0 (zeroPieces fuel a len s) := by
  induction fuel generalizing a len s with
  | zero => exact h_s
  | succ n ih =>
    unfold zeroPieces
    dsimp only
    split
    · exact h_s
    · exact ih _ _ _ (zeroPiece_keeps _ _ _ h_s)

theorem zeroSpan_keeps {pt : Untouched} {s0 : State} (a len : Nat) (s : State) (h_s : Keeps pt s0 s) (w_stacked : pt.stacked = false := by assumption) (w_reports : pt.reports = false := by assumption) (w_hif : pt.hif = false := by assumption) (w_mem : pt.mem = false := by assumption) (w_net : pt.net = false := by assumption) :
    Keeps pt s0 (zeroSpan a len s) := by
  unfold zeroSpan
  repeat' first
    | with_reducible assumption
    | (intro _)
    | (extract_lets +onlyGivenNames x; refine (fun hx : Keeps pt s0 x => ?_) ?_; try clear_value x; rotate_left; unfold x; clear x; rotate_right; rename State => z)
    | (extract_lets +onlyGivenNames x; have hb : MemBlk := x; clear hb; subst x)
    | (extract_lets +onlyGivenNames x; have hb : CoresBlk := x; clear hb; subst x)
    | (extract_lets +onlyGivenNames x; have hb : PrtBlk := x; clear hb; subst x)
    | (extract_lets +onlyGivenNames x; have hb : FrmBlk := x; clear hb; subst x)
    | (extract_lets +onlyGivenNames x; have hb : KprBlk := x; clear hb; subst x)
    | (extract_lets +onlyGivenNames x; have hb : HifBlk := x; clear hb; subst x)
    | (extract_lets +onlyGivenNames x; try clear_value x; revert x; intro z)
    | (with_reducible refine Keeps.upd ?_)
    | (with_reducible apply zeroPieces_keeps)
    | (rw [State.mk_made]; with_reducible refine Keeps.upd ?_)
    | split

theorem takeGroup_keeps {pt : Untouched} {s0 : State} (pool : Nat) (p : PoolRec) (i g : Nat) (s : State) (h_s : Keeps pt s0 s) (w_stacked : pt.stacked = false := by assumption) (w_reports : pt.reports = false := by assumption) (w_hif : pt.hif = false := by assumption) (w_mem : pt.mem = false := by assumption) (w_net : pt.net = false := by assumption) (w_req : pt.req = false := by assumption) :
    Keeps pt s0 (takeGroup pool p i g s) := by
  unfold takeGroup
  repeat' first
    | with_reducible assumption
    | (intro _)
    | (extract_lets +onlyGivenNames x; refine (fun hx : Keeps pt s0 x => ?_) ?_; try clear_value x; rotate_left; unfold x; clear x; rotate_right; rename State => z)
    | (extract_lets +onlyGivenNames x; have hb : FrmBlk := x; clear hb; subst x)
    | (extract_lets +onlyGivenNames x; have hb : KprBlk := x; clear hb; subst x)
    | (extract_lets +onlyGivenNames x; try clear_value x; revert x; intro z)
    | (with_reducible apply zeroSpan_keeps)
    | (rw [State.mk_made]; with_reducible refine Keeps.upd ?_)

theorem takePage_keeps {pt : Untouched} {s0 : State} (i : Nat) (l : List (Nat × PoolRec)) (acc : List Nat) (s : State) (h_s : Keeps pt s0 s)
    {g : List Nat} {t : State} (h : takePage i l acc s = some (g, t)) (w_stacked : pt.stacked = false := by assumption) (w_reports : pt.reports = false := by assumption) (w_hif : pt.hif = false := by assumption) (w_mem : pt.mem = false := by assumption) (w_net : pt.net = false := by assumption) (w_req : pt.req = false := by assumption) :
    Keeps pt s0 t := by
  induction l generalizing acc s with
  | nil => cases h; exact h_s
  | cons p l ih =>
    obtain ⟨n, p⟩ := p
    unfold takePage at h
    split at h
    · cases h
    · exact ih _ _ (takeGroup_keeps _ _ _ _ _ (useFresh_keeps _ h_s)) h

theorem takePages_keeps {pt : Untouched} {s0 : State} (pools : List (Nat × PoolRec)) (n i : Nat) (acc : List Page) (s : State)
    (h_s : Keeps pt s0 s) {g : List Page} {t : State} (h : takePages pools n i acc s = some (g, t)) (w_stacked : pt.stacked = false := by assumption) (w_reports : pt.reports = false := by assumption) (w_hif : pt.hif = false := by assumption) (w_mem : pt.mem = false := by assumption) (w_net : pt.net = false := by assumption) (w_req : pt.req = false := by assumption) :
    Keeps pt s0 t := by
  induction n generalizing i acc s with
  | zero => cases h; exact h_s
  | succ n ih =>
    unfold takePages at h
    split at h
    · cases h
    · rename_i heq
      exact ih _ _ _ (takePage_keeps _ _ _ _ h_s heq) h

theorem shareGroups_keeps {pt : Untouched} {s0 : State} (keys : List Nat) (s : State) (h_s : Keeps pt s0 s) (w_req : pt.req = false := by assumption) :
    Keeps pt s0 (shareGroups keys s) := by
  unfold shareGroups
  repeat' first
    | with_reducible assumption
    | (intro _)
    | (extract_lets +onlyGivenNames x; refine (fun hx : Keeps pt s0 x => ?_) ?_; try clear_value x; rotate_left; unfold x; clear x; rotate_right; rename State => z)
    | (extract_lets +onlyGivenNames x; have hb : FrmBlk := x; clear hb; subst x)
    | (extract_lets +onlyGivenNames x; have hb : KprBlk := x; clear hb; subst x)
    | (extract_lets +onlyGivenNames x; try clear_value x; revert x; intro z)
    | (with_reducible refine Keeps.foldl _ ?_ ?_)
    | (rw [State.mk_made]; with_reducible refine Keeps.upd ?_)

theorem forkPages_keeps {pt : Untouched} {s0 : State} (pools : List (Nat × PoolRec)) (i : Nat) (l acc : List Page) (s : State)
    (h_s : Keeps pt s0 s) {g : List Page} {t : State} (h : forkPages pools i l acc s = some (g, t)) (w_stacked : pt.stacked = false := by assumption) (w_reports : pt.reports = false := by assumption) (w_hif : pt.hif = false := by assumption) (w_mem : pt.mem = false := by assumption) (w_net : pt.net = false := by assumption) (w_req : pt.req = false := by assumption) :
    Keeps pt s0 t := by
  induction l generalizing i acc s with
  | nil => unfold forkPages at h; cases h; exact h_s
  | cons p l ih =>
    unfold forkPages at h
    split at h
    · exact ih _ _ _ (shareGroups_keeps _ _ h_s) h
    · split at h
      · cases h
      · rename_i heq
        exact ih _ _ _ (takePage_keeps _ _ _ _ h_s heq) h

theorem forkBody_keeps {pt : Untouched} {s0 : State} (q : Nat) (b : List Nat) (s : State) (h_s : Keeps pt s0 s) (w_stacked : pt.stacked = false := by assumption) (w_reports : pt.reports = false := by assumption) (w_hif : pt.hif = false := by assumption) (w_mem : pt.mem = false := by assumption) (w_net : pt.net = false := by assumption) (w_req : pt.req = false := by assumption) :
    Keeps pt s0 (forkBody q b s) := by
  unfold forkBody
  refine withSeq_keeps _ _ _ _ ?_ h_s
  intro n x s h_s
  dsimp only
  split
  · exact complete_keeps _ _ _ h_s
  · split
    · exact complete_keeps _ _ _ h_s
    · split
      · exact complete_keeps _ _ _ h_s
      · split
        · rename_i heq
          rw [State.mk_made]
          with_reducible refine Keeps.upd ?_
          exact setSeq_keeps _ _ _ (useFresh_keeps _ (forkPages_keeps _ _ _ _ _ h_s heq))
        · exact complete_keeps _ _ _ h_s

theorem copySpan_keeps {pt : Untouched} {s0 : State} (n a c : Nat) (s : State) (h_s : Keeps pt s0 s) (w_stacked : pt.stacked = false := by assumption) (w_reports : pt.reports = false := by assumption) (w_hif : pt.hif = false := by assumption) (w_mem : pt.mem = false := by assumption) (w_net : pt.net = false := by assumption) :
    Keeps pt s0 (copySpan n a c s) := by
  induction n generalizing a c s with
  | zero => exact h_s
  | succ n ih =>
    unfold copySpan
    split
    · rename_i heq
      exact ih _ _ _ (writeBytes_keeps _ _ _ _ _ (Keeps.snd heq (readBytes_keeps _ _ _ _ _ h_s)))
    · rename_i heq
      exact ih _ _ _ (Keeps.snd heq (readBytes_keeps _ _ _ _ _ h_s))

theorem copyPages_keeps {pt : Untouched} {s0 : State} (pools : List (Nat × PoolRec)) (i : Nat) (ps cs : List Page) (s : State) (h_s : Keeps pt s0 s) (w_stacked : pt.stacked = false := by assumption) (w_reports : pt.reports = false := by assumption) (w_hif : pt.hif = false := by assumption) (w_mem : pt.mem = false := by assumption) (w_net : pt.net = false := by assumption) :
    Keeps pt s0 (copyPages pools i ps cs s) := by
  induction ps generalizing i cs s with
  | nil => unfold copyPages; exact h_s
  | cons p ps ih =>
    cases cs with
    | nil => unfold copyPages; exact h_s
    | cons c cs =>
      unfold copyPages
      refine ih _ _ _ ?_
      split
      · exact h_s
      · exact Keeps.foldl _ h_s (fun x e h => copySpan_keeps _ _ _ _ h)

theorem joinRing_keeps {pt : Untouched} {s0 : State} (j n : Nat) (s : State) (h_s : Keeps pt s0 s) (w_req : pt.req = false := by assumption) :
    Keeps pt s0 (joinRing j n s) := by
  unfold joinRing
  repeat' first
    | with_reducible assumption
    | (intro _)
    | (extract_lets +onlyGivenNames x; refine (fun hx : Keeps pt s0 x => ?_) ?_; try clear_value x; rotate_left; unfold x; clear x; rotate_right; rename State => z)
    | (extract_lets +onlyGivenNames x; have hb : FrmBlk := x; clear hb; subst x)
    | (extract_lets +onlyGivenNames x; have hb : KprBlk := x; clear hb; subst x)
    | (extract_lets +onlyGivenNames x; try clear_value x; revert x; intro z)
    | (rw [State.mk_made]; with_reducible refine Keeps.upd ?_)
    | split

theorem reshare_keeps {pt : Untouched} {s0 : State} (pools : List (Nat × PoolRec)) (i : Nat) (ps cs : List Page) (s : State) (h_s : Keeps pt s0 s) (w_req : pt.req = false := by assumption) :
    Keeps pt s0 (reshare pools i ps cs s) := by
  induction ps generalizing i cs s with
  | nil => unfold reshare; exact h_s
  | cons p ps ih =>
    cases cs with
    | nil => unfold reshare; exact h_s
    | cons c cs =>
      unfold reshare
      refine ih _ _ _ ?_
      split
      · exact shareGroups_keeps _ _ (Keeps.foldl _ h_s (fun x k h => dropGroup_keeps _ _ h))
      · exact h_s

theorem forkCopied_keeps {pt : Untouched} {s0 : State} (child : Nat) (s : State) (h_s : Keeps pt s0 s) (w_stacked : pt.stacked = false := by assumption) (w_reports : pt.reports = false := by assumption) (w_hif : pt.hif = false := by assumption) (w_mem : pt.mem = false := by assumption) (w_net : pt.net = false := by assumption) (w_req : pt.req = false := by assumption) :
    Keeps pt s0 (forkCopied child s) := by
  unfold forkCopied
  repeat' first
    | with_reducible assumption
    | (intro _)
    | (extract_lets +onlyGivenNames x; refine (fun hx : Keeps pt s0 x => ?_) ?_; try clear_value x; rotate_left; unfold x; clear x; rotate_right; rename State => z)
    | (extract_lets +onlyGivenNames x; have hb : MemBlk := x; clear hb; subst x)
    | (extract_lets +onlyGivenNames x; have hb : CoresBlk := x; clear hb; subst x)
    | (extract_lets +onlyGivenNames x; have hb : PrtBlk := x; clear hb; subst x)
    | (extract_lets +onlyGivenNames x; have hb : FrmBlk := x; clear hb; subst x)
    | (extract_lets +onlyGivenNames x; have hb : KprBlk := x; clear hb; subst x)
    | (extract_lets +onlyGivenNames x; have hb : HifBlk := x; clear hb; subst x)
    | (extract_lets +onlyGivenNames x; try clear_value x; revert x; intro z)
    | (with_reducible refine Keeps.upd ?_)
    | (with_reducible apply reshare_keeps)
    | (with_reducible apply copyPages_keeps)
    | (with_reducible apply joinRing_keeps)
    | (with_reducible apply setSeq_keeps)
    | (with_reducible apply complete_keeps)
    | (with_reducible apply finishClose_keeps)
    | (with_reducible apply advance_keeps)
    | (rw [State.mk_made]; with_reducible refine Keeps.upd ?_)
    | split

theorem doForkCopyDone_keeps {pt : Untouched} {s0 : State} (child : Nat) (flips : List (Nat × Nat)) (bad : List Nat) (s : State) (h_s : Keeps pt s0 s) (w_stacked : pt.stacked = false := by assumption) (w_reports : pt.reports = false := by assumption) (w_hif : pt.hif = false := by assumption) (w_mem : pt.mem = false := by assumption) (w_net : pt.net = false := by assumption) (w_req : pt.req = false := by assumption) :
    Keeps pt s0 (doForkCopyDone child flips bad s) := by
  unfold doForkCopyDone
  repeat' first
    | with_reducible assumption
    | (intro _)
    | (extract_lets +onlyGivenNames x; refine (fun hx : Keeps pt s0 x => ?_) ?_; try clear_value x; rotate_left; unfold x; clear x; rotate_right; rename State => z)
    | (extract_lets +onlyGivenNames x; have hb : MemBlk := x; clear hb; subst x)
    | (extract_lets +onlyGivenNames x; have hb : CoresBlk := x; clear hb; subst x)
    | (extract_lets +onlyGivenNames x; have hb : PrtBlk := x; clear hb; subst x)
    | (extract_lets +onlyGivenNames x; have hb : FrmBlk := x; clear hb; subst x)
    | (extract_lets +onlyGivenNames x; have hb : KprBlk := x; clear hb; subst x)
    | (extract_lets +onlyGivenNames x; have hb : HifBlk := x; clear hb; subst x)
    | (extract_lets +onlyGivenNames x; try clear_value x; revert x; intro z)
    | (with_reducible refine Keeps.upd ?_)
    | (with_reducible apply withBadPaths_keeps)
    | (with_reducible apply forkCopied_keeps)
    | (with_reducible apply flipSymbols_keeps)
    | (rw [State.mk_made]; with_reducible refine Keeps.upd ?_)
    | split

theorem closeBody_keeps {pt : Untouched} {s0 : State} (q : Nat) (b : List Nat) (s : State) (h_s : Keeps pt s0 s) (w_reports : pt.reports = false := by assumption) (w_req : pt.req = false := by assumption) :
    Keeps pt s0 (closeBody q b s) := by
  unfold closeBody
  repeat' first
    | with_reducible assumption
    | (intro _)
    | (extract_lets +onlyGivenNames x; refine (fun hx : Keeps pt s0 x => ?_) ?_; try clear_value x; rotate_left; unfold x; clear x; rotate_right; rename State => z)
    | (extract_lets +onlyGivenNames x; have hb : FrmBlk := x; clear hb; subst x)
    | (extract_lets +onlyGivenNames x; have hb : KprBlk := x; clear hb; subst x)
    | (extract_lets +onlyGivenNames x; try clear_value x; revert x; intro z)
    | (with_reducible apply withSeq_keeps)
    | (with_reducible apply complete_keeps)
    | (with_reducible apply endWork_keeps)
    | (with_reducible apply finishClose_keeps)
    | (with_reducible apply setSeq_keeps)
    | (rw [State.mk_made]; with_reducible refine Keeps.upd ?_)
    | split

theorem queryBody_keeps {pt : Untouched} {s0 : State} (q : Nat) (b : List Nat) (s : State) (h_s : Keeps pt s0 s) (w_reports : pt.reports = false := by assumption) (w_req : pt.req = false := by assumption) :
    Keeps pt s0 (queryBody q b s) := by
  unfold queryBody
  repeat' first
    | with_reducible assumption
    | (intro _)
    | (extract_lets +onlyGivenNames x; refine (fun hx : Keeps pt s0 x => ?_) ?_; try clear_value x; rotate_left; unfold x; clear x; rotate_right; rename State => z)
    | (extract_lets +onlyGivenNames x; have hb : MemBlk := x; clear hb; subst x)
    | (extract_lets +onlyGivenNames x; have hb : CoresBlk := x; clear hb; subst x)
    | (extract_lets +onlyGivenNames x; have hb : PrtBlk := x; clear hb; subst x)
    | (extract_lets +onlyGivenNames x; have hb : FrmBlk := x; clear hb; subst x)
    | (extract_lets +onlyGivenNames x; have hb : KprBlk := x; clear hb; subst x)
    | (extract_lets +onlyGivenNames x; have hb : HifBlk := x; clear hb; subst x)
    | (extract_lets +onlyGivenNames x; try clear_value x; revert x; intro z)
    | (with_reducible refine Keeps.upd ?_)
    | (with_reducible apply withSeq_keeps)
    | (with_reducible apply complete_keeps)
    | (rw [State.mk_made]; with_reducible refine Keeps.upd ?_)
    | split

theorem runEntry_keeps {pt : Untouched} {s0 : State} (q : Nat) (b : List Nat) (s : State) (h_s : Keeps pt s0 s) (w_stacked : pt.stacked = false := by assumption) (w_reports : pt.reports = false := by assumption) (w_hif : pt.hif = false := by assumption) (w_mem : pt.mem = false := by assumption) (w_net : pt.net = false := by assumption) (w_req : pt.req = false := by assumption) :
    Keeps pt s0 (runEntry q b s) := by
  unfold runEntry
  split
  · exact serve_keeps _ _ _ _ _ _ _ (fun x h => openBody_keeps _ _ _ h) h_s
  · exact serve_keeps _ _ _ _ _ _ _ (fun x h => appendBody_keeps _ _ _ h) h_s
  · exact serve_keeps _ _ _ _ _ _ _ (fun x h => generateBody_keeps _ _ _ h) h_s
  · exact serve_keeps _ _ _ _ _ _ _ (fun x h => forkBody_keeps _ _ _ h) h_s
  · exact serve_keeps _ _ _ _ _ _ _ (fun x h => closeBody_keeps _ _ _ h) h_s
  · exact serve_keeps _ _ _ _ _ _ _ (fun x h => queryBody_keeps _ _ _ h) h_s
  · exact serve_keeps _ _ _ _ _ _ _ (fun x h => h) h_s

theorem accept_keeps {pt : Untouched} {s0 : State} (q : Nat) (b : List Nat) (s : State) (h_s : Keeps pt s0 s) (w_stacked : pt.stacked = false := by assumption) (w_reports : pt.reports = false := by assumption) (w_hif : pt.hif = false := by assumption) (w_mem : pt.mem = false := by assumption) (w_net : pt.net = false := by assumption) (w_req : pt.req = false := by assumption) :
    Keeps pt s0 (accept q b s) := by
  unfold accept
  repeat' first
    | with_reducible assumption
    | (intro _)
    | (extract_lets +onlyGivenNames x; refine (fun hx : Keeps pt s0 x => ?_) ?_; try clear_value x; rotate_left; unfold x; clear x; rotate_right; rename State => z)
    | (extract_lets +onlyGivenNames x; have hb : MemBlk := x; clear hb; subst x)
    | (extract_lets +onlyGivenNames x; have hb : CoresBlk := x; clear hb; subst x)
    | (extract_lets +onlyGivenNames x; have hb : PrtBlk := x; clear hb; subst x)
    | (extract_lets +onlyGivenNames x; have hb : FrmBlk := x; clear hb; subst x)
    | (extract_lets +onlyGivenNames x; have hb : KprBlk := x; clear hb; subst x)
    | (extract_lets +onlyGivenNames x; have hb : HifBlk := x; clear hb; subst x)
    | (extract_lets +onlyGivenNames x; try clear_value x; revert x; intro z)
    | (with_reducible refine Keeps.upd ?_)
    | (with_reducible apply passHead_keeps)
    | (with_reducible apply runEntry_keeps)
    | (with_reducible apply setQp_keeps)
    | (rw [State.mk_made]; with_reducible refine Keeps.upd ?_)
    | split

theorem unpark_keeps {pt : Untouched} {s0 : State} (q : Nat) (l : List (List Nat)) (s : State) (h_s : Keeps pt s0 s) (w_stacked : pt.stacked = false := by assumption) (w_reports : pt.reports = false := by assumption) (w_hif : pt.hif = false := by assumption) (w_mem : pt.mem = false := by assumption) (w_net : pt.net = false := by assumption) (w_req : pt.req = false := by assumption) :
    Keeps pt s0 (unpark q l s) := by
  induction l generalizing s with
  | nil => exact setQp_keeps _ _ _ h_s
  | cons b t ih =>
    unfold unpark
    split
    · exact ih _ (runEntry_keeps _ _ _ h_s)
    · exact setQp_keeps _ _ _ h_s

theorem releaseCq_keeps {pt : Untouched} {s0 : State} (q : Nat) (s : State) (h_s : Keeps pt s0 s) (w_stacked : pt.stacked = false := by assumption) (w_reports : pt.reports = false := by assumption) (w_hif : pt.hif = false := by assumption) (w_mem : pt.mem = false := by assumption) (w_net : pt.net = false := by assumption) (w_req : pt.req = false := by assumption) :
    Keeps pt s0 (releaseCq q s) := by
  unfold releaseCq
  repeat' first
    | with_reducible assumption
    | (intro _)
    | (extract_lets +onlyGivenNames x; refine (fun hx : Keeps pt s0 x => ?_) ?_; try clear_value x; rotate_left; unfold x; clear x; rotate_right; rename State => z)
    | (extract_lets +onlyGivenNames x; have hb : MemBlk := x; clear hb; subst x)
    | (extract_lets +onlyGivenNames x; have hb : CoresBlk := x; clear hb; subst x)
    | (extract_lets +onlyGivenNames x; have hb : PrtBlk := x; clear hb; subst x)
    | (extract_lets +onlyGivenNames x; have hb : FrmBlk := x; clear hb; subst x)
    | (extract_lets +onlyGivenNames x; have hb : KprBlk := x; clear hb; subst x)
    | (extract_lets +onlyGivenNames x; have hb : HifBlk := x; clear hb; subst x)
    | (extract_lets +onlyGivenNames x; try clear_value x; revert x; intro z)
    | (with_reducible refine Keeps.upd ?_)
    | (with_reducible apply flushCq_keeps)
    | (with_reducible apply unpark_keeps)
    | (rw [State.mk_made]; with_reducible refine Keeps.upd ?_)
    | split

theorem doOpenEntry_keeps {pt : Untouched} {s0 : State} (q : Nat) (b : List Nat) (s : State) (h_s : Keeps pt s0 s) (w_stacked : pt.stacked = false := by assumption) (w_reports : pt.reports = false := by assumption) (w_hif : pt.hif = false := by assumption) (w_mem : pt.mem = false := by assumption) (w_net : pt.net = false := by assumption) (w_req : pt.req = false := by assumption) :
    Keeps pt s0 (doOpenEntry q b s) := by
  unfold doOpenEntry
  repeat' first
    | with_reducible assumption
    | (intro _)
    | (extract_lets +onlyGivenNames x; refine (fun hx : Keeps pt s0 x => ?_) ?_; try clear_value x; rotate_left; unfold x; clear x; rotate_right; rename State => z)
    | (extract_lets +onlyGivenNames x; have hb : MemBlk := x; clear hb; subst x)
    | (extract_lets +onlyGivenNames x; have hb : CoresBlk := x; clear hb; subst x)
    | (extract_lets +onlyGivenNames x; have hb : PrtBlk := x; clear hb; subst x)
    | (extract_lets +onlyGivenNames x; have hb : FrmBlk := x; clear hb; subst x)
    | (extract_lets +onlyGivenNames x; have hb : KprBlk := x; clear hb; subst x)
    | (extract_lets +onlyGivenNames x; have hb : HifBlk := x; clear hb; subst x)
    | (extract_lets +onlyGivenNames x; try clear_value x; revert x; intro z)
    | (with_reducible refine Keeps.upd ?_)
    | (with_reducible apply accept_keeps)
    | (rw [State.mk_made]; with_reducible refine Keeps.upd ?_)
    | split

theorem doAppendEntry_keeps {pt : Untouched} {s0 : State} (q : Nat) (b : List Nat) (s : State) (h_s : Keeps pt s0 s) (w_stacked : pt.stacked = false := by assumption) (w_reports : pt.reports = false := by assumption) (w_hif : pt.hif = false := by assumption) (w_mem : pt.mem = false := by assumption) (w_net : pt.net = false := by assumption) (w_req : pt.req = false := by assumption) :
    Keeps pt s0 (doAppendEntry q b s) := by
  unfold doAppendEntry
  repeat' first
    | with_reducible assumption
    | (intro _)
    | (extract_lets +onlyGivenNames x; refine (fun hx : Keeps pt s0 x => ?_) ?_; try clear_value x; rotate_left; unfold x; clear x; rotate_right; rename State => z)
    | (extract_lets +onlyGivenNames x; have hb : MemBlk := x; clear hb; subst x)
    | (extract_lets +onlyGivenNames x; have hb : CoresBlk := x; clear hb; subst x)
    | (extract_lets +onlyGivenNames x; have hb : PrtBlk := x; clear hb; subst x)
    | (extract_lets +onlyGivenNames x; have hb : FrmBlk := x; clear hb; subst x)
    | (extract_lets +onlyGivenNames x; have hb : KprBlk := x; clear hb; subst x)
    | (extract_lets +onlyGivenNames x; have hb : HifBlk := x; clear hb; subst x)
    | (extract_lets +onlyGivenNames x; try clear_value x; revert x; intro z)
    | (with_reducible refine Keeps.upd ?_)
    | (with_reducible apply accept_keeps)
    | (rw [State.mk_made]; with_reducible refine Keeps.upd ?_)
    | split

theorem doGenerateEntry_keeps {pt : Untouched} {s0 : State} (q : Nat) (b : List Nat) (s : State) (h_s : Keeps pt s0 s) (w_stacked : pt.stacked = false := by assumption) (w_reports : pt.reports = false := by assumption) (w_hif : pt.hif = false := by assumption) (w_mem : pt.mem = false := by assumption) (w_net : pt.net = false := by assumption) (w_req : pt.req = false := by assumption) :
    Keeps pt s0 (doGenerateEntry q b s) := by
  unfold doGenerateEntry
  repeat' first
    | with_reducible assumption
    | (intro _)
    | (extract_lets +onlyGivenNames x; refine (fun hx : Keeps pt s0 x => ?_) ?_; try clear_value x; rotate_left; unfold x; clear x; rotate_right; rename State => z)
    | (extract_lets +onlyGivenNames x; have hb : MemBlk := x; clear hb; subst x)
    | (extract_lets +onlyGivenNames x; have hb : CoresBlk := x; clear hb; subst x)
    | (extract_lets +onlyGivenNames x; have hb : PrtBlk := x; clear hb; subst x)
    | (extract_lets +onlyGivenNames x; have hb : FrmBlk := x; clear hb; subst x)
    | (extract_lets +onlyGivenNames x; have hb : KprBlk := x; clear hb; subst x)
    | (extract_lets +onlyGivenNames x; have hb : HifBlk := x; clear hb; subst x)
    | (extract_lets +onlyGivenNames x; try clear_value x; revert x; intro z)
    | (with_reducible refine Keeps.upd ?_)
    | (with_reducible apply accept_keeps)
    | (rw [State.mk_made]; with_reducible refine Keeps.upd ?_)
    | split

theorem doForkEntry_keeps {pt : Untouched} {s0 : State} (q : Nat) (b : List Nat) (s : State) (h_s : Keeps pt s0 s) (w_stacked : pt.stacked = false := by assumption) (w_reports : pt.reports = false := by assumption) (w_hif : pt.hif = false := by assumption) (w_mem : pt.mem = false := by assumption) (w_net : pt.net = false := by assumption) (w_req : pt.req = false := by assumption) :
    Keeps pt s0 (doForkEntry q b s) := by
  unfold doForkEntry
  repeat' first
    | with_reducible assumption
    | (intro _)
    | (extract_lets +onlyGivenNames x; refine (fun hx : Keeps pt s0 x => ?_) ?_; try clear_value x; rotate_left; unfold x; clear x; rotate_right; rename State => z)
    | (extract_lets +onlyGivenNames x; have hb : MemBlk := x; clear hb; subst x)
    | (extract_lets +onlyGivenNames x; have hb : CoresBlk := x; clear hb; subst x)
    | (extract_lets +onlyGivenNames x; have hb : PrtBlk := x; clear hb; subst x)
    | (extract_lets +onlyGivenNames x; have hb : FrmBlk := x; clear hb; subst x)
    | (extract_lets +onlyGivenNames x; have hb : KprBlk := x; clear hb; subst x)
    | (extract_lets +onlyGivenNames x; have hb : HifBlk := x; clear hb; subst x)
    | (extract_lets +onlyGivenNames x; try clear_value x; revert x; intro z)
    | (with_reducible refine Keeps.upd ?_)
    | (with_reducible apply accept_keeps)
    | (rw [State.mk_made]; with_reducible refine Keeps.upd ?_)
    | split

theorem doCloseEntry_keeps {pt : Untouched} {s0 : State} (q : Nat) (b : List Nat) (s : State) (h_s : Keeps pt s0 s) (w_stacked : pt.stacked = false := by assumption) (w_reports : pt.reports = false := by assumption) (w_hif : pt.hif = false := by assumption) (w_mem : pt.mem = false := by assumption) (w_net : pt.net = false := by assumption) (w_req : pt.req = false := by assumption) :
    Keeps pt s0 (doCloseEntry q b s) := by
  unfold doCloseEntry
  repeat' first
    | with_reducible assumption
    | (intro _)
    | (extract_lets +onlyGivenNames x; refine (fun hx : Keeps pt s0 x => ?_) ?_; try clear_value x; rotate_left; unfold x; clear x; rotate_right; rename State => z)
    | (extract_lets +onlyGivenNames x; have hb : MemBlk := x; clear hb; subst x)
    | (extract_lets +onlyGivenNames x; have hb : CoresBlk := x; clear hb; subst x)
    | (extract_lets +onlyGivenNames x; have hb : PrtBlk := x; clear hb; subst x)
    | (extract_lets +onlyGivenNames x; have hb : FrmBlk := x; clear hb; subst x)
    | (extract_lets +onlyGivenNames x; have hb : KprBlk := x; clear hb; subst x)
    | (extract_lets +onlyGivenNames x; have hb : HifBlk := x; clear hb; subst x)
    | (extract_lets +onlyGivenNames x; try clear_value x; revert x; intro z)
    | (with_reducible refine Keeps.upd ?_)
    | (with_reducible apply accept_keeps)
    | (rw [State.mk_made]; with_reducible refine Keeps.upd ?_)
    | split

theorem doQueryEntry_keeps {pt : Untouched} {s0 : State} (q : Nat) (b : List Nat) (s : State) (h_s : Keeps pt s0 s) (w_stacked : pt.stacked = false := by assumption) (w_reports : pt.reports = false := by assumption) (w_hif : pt.hif = false := by assumption) (w_mem : pt.mem = false := by assumption) (w_net : pt.net = false := by assumption) (w_req : pt.req = false := by assumption) :
    Keeps pt s0 (doQueryEntry q b s) := by
  unfold doQueryEntry
  repeat' first
    | with_reducible assumption
    | (intro _)
    | (extract_lets +onlyGivenNames x; refine (fun hx : Keeps pt s0 x => ?_) ?_; try clear_value x; rotate_left; unfold x; clear x; rotate_right; rename State => z)
    | (extract_lets +onlyGivenNames x; have hb : MemBlk := x; clear hb; subst x)
    | (extract_lets +onlyGivenNames x; have hb : CoresBlk := x; clear hb; subst x)
    | (extract_lets +onlyGivenNames x; have hb : PrtBlk := x; clear hb; subst x)
    | (extract_lets +onlyGivenNames x; have hb : FrmBlk := x; clear hb; subst x)
    | (extract_lets +onlyGivenNames x; have hb : KprBlk := x; clear hb; subst x)
    | (extract_lets +onlyGivenNames x; have hb : HifBlk := x; clear hb; subst x)
    | (extract_lets +onlyGivenNames x; try clear_value x; revert x; intro z)
    | (with_reducible refine Keeps.upd ?_)
    | (with_reducible apply accept_keeps)
    | (rw [State.mk_made]; with_reducible refine Keeps.upd ?_)
    | split

theorem bar4Write_keeps {pt : Untouched} {s0 : State} (off width v : Nat) (s : State) (h_s : Keeps pt s0 s) (w_stacked : pt.stacked = false := by assumption) (w_reports : pt.reports = false := by assumption) (w_hif : pt.hif = false := by assumption) (w_mem : pt.mem = false := by assumption) (w_net : pt.net = false := by assumption) (w_req : pt.req = false := by assumption) :
    Keeps pt s0 (bar4Write off width v s) := by
  unfold bar4Write
  repeat' first
    | with_reducible assumption
    | (intro _)
    | (extract_lets +onlyGivenNames x; refine (fun hx : Keeps pt s0 x => ?_) ?_; try clear_value x; rotate_left; unfold x; clear x; rotate_right; rename State => z)
    | (extract_lets +onlyGivenNames x; have hb : MemBlk := x; clear hb; subst x)
    | (extract_lets +onlyGivenNames x; have hb : CoresBlk := x; clear hb; subst x)
    | (extract_lets +onlyGivenNames x; have hb : PrtBlk := x; clear hb; subst x)
    | (extract_lets +onlyGivenNames x; have hb : FrmBlk := x; clear hb; subst x)
    | (extract_lets +onlyGivenNames x; have hb : KprBlk := x; clear hb; subst x)
    | (extract_lets +onlyGivenNames x; have hb : HifBlk := x; clear hb; subst x)
    | (extract_lets +onlyGivenNames x; try clear_value x; revert x; intro z)
    | (with_reducible refine Keeps.upd ?_)
    | (with_reducible apply sqTail_keeps)
    | (with_reducible apply releaseCq_keeps)
    | (with_reducible apply cqHead_keeps)
    | (rw [State.mk_made]; with_reducible refine Keeps.upd ?_)
    | split

theorem doSqTailDoorbell_keeps {pt : Untouched} {s0 : State} (off width v : Nat) (s : State) (h_s : Keeps pt s0 s) (w_stacked : pt.stacked = false := by assumption) (w_reports : pt.reports = false := by assumption) (w_hif : pt.hif = false := by assumption) (w_mem : pt.mem = false := by assumption) (w_net : pt.net = false := by assumption) (w_req : pt.req = false := by assumption) :
    Keeps pt s0 (doSqTailDoorbell off width v s) := by
  unfold doSqTailDoorbell
  repeat' first
    | with_reducible assumption
    | (intro _)
    | (extract_lets +onlyGivenNames x; refine (fun hx : Keeps pt s0 x => ?_) ?_; try clear_value x; rotate_left; unfold x; clear x; rotate_right; rename State => z)
    | (extract_lets +onlyGivenNames x; have hb : MemBlk := x; clear hb; subst x)
    | (extract_lets +onlyGivenNames x; have hb : CoresBlk := x; clear hb; subst x)
    | (extract_lets +onlyGivenNames x; have hb : PrtBlk := x; clear hb; subst x)
    | (extract_lets +onlyGivenNames x; have hb : FrmBlk := x; clear hb; subst x)
    | (extract_lets +onlyGivenNames x; have hb : KprBlk := x; clear hb; subst x)
    | (extract_lets +onlyGivenNames x; have hb : HifBlk := x; clear hb; subst x)
    | (extract_lets +onlyGivenNames x; try clear_value x; revert x; intro z)
    | (with_reducible refine Keeps.upd ?_)
    | (with_reducible apply bar4Write_keeps)
    | (rw [State.mk_made]; with_reducible refine Keeps.upd ?_)
    | split

theorem doCqHeadDoorbell_keeps {pt : Untouched} {s0 : State} (off width v : Nat) (s : State) (h_s : Keeps pt s0 s) (w_stacked : pt.stacked = false := by assumption) (w_reports : pt.reports = false := by assumption) (w_hif : pt.hif = false := by assumption) (w_mem : pt.mem = false := by assumption) (w_net : pt.net = false := by assumption) (w_req : pt.req = false := by assumption) :
    Keeps pt s0 (doCqHeadDoorbell off width v s) := by
  unfold doCqHeadDoorbell
  repeat' first
    | with_reducible assumption
    | (intro _)
    | (extract_lets +onlyGivenNames x; refine (fun hx : Keeps pt s0 x => ?_) ?_; try clear_value x; rotate_left; unfold x; clear x; rotate_right; rename State => z)
    | (extract_lets +onlyGivenNames x; have hb : MemBlk := x; clear hb; subst x)
    | (extract_lets +onlyGivenNames x; have hb : CoresBlk := x; clear hb; subst x)
    | (extract_lets +onlyGivenNames x; have hb : PrtBlk := x; clear hb; subst x)
    | (extract_lets +onlyGivenNames x; have hb : FrmBlk := x; clear hb; subst x)
    | (extract_lets +onlyGivenNames x; have hb : KprBlk := x; clear hb; subst x)
    | (extract_lets +onlyGivenNames x; have hb : HifBlk := x; clear hb; subst x)
    | (extract_lets +onlyGivenNames x; try clear_value x; revert x; intro z)
    | (with_reducible refine Keeps.upd ?_)
    | (with_reducible apply bar4Write_keeps)
    | (rw [State.mk_made]; with_reducible refine Keeps.upd ?_)
    | split

theorem admitOne_keeps {pt : Untouched} {s0 : State} (o : OpenReq) (s : State) (h_s : Keeps pt s0 s) (w_reports : pt.reports = false := by assumption) (w_req : pt.req = false := by assumption) :
    Keeps pt s0 (admitOne o s) := by
  unfold admitOne
  repeat' first
    | with_reducible assumption
    | (intro _)
    | (extract_lets +onlyGivenNames x; refine (fun hx : Keeps pt s0 x => ?_) ?_; try clear_value x; rotate_left; unfold x; clear x; rotate_right; rename State => z)
    | (extract_lets +onlyGivenNames x; have hb : FrmBlk := x; clear hb; subst x)
    | (extract_lets +onlyGivenNames x; have hb : KprBlk := x; clear hb; subst x)
    | (extract_lets +onlyGivenNames x; try clear_value x; revert x; intro z)
    | (with_reducible apply setSeq_keeps)
    | (with_reducible apply useFresh_keeps)
    | (with_reducible apply complete_keeps)
    | (with_reducible apply joinRing_keeps)
    | (rw [State.mk_made]; with_reducible refine Keeps.upd ?_)
    | split

theorem admissionPass_keeps {pt : Untouched} {s0 : State} (s : State) (h_s : Keeps pt s0 s) (w_reports : pt.reports = false := by assumption) (w_req : pt.req = false := by assumption) :
    Keeps pt s0 (admissionPass s) := by
  unfold admissionPass
  repeat' first
    | with_reducible assumption
    | (intro _)
    | (extract_lets +onlyGivenNames x; refine (fun hx : Keeps pt s0 x => ?_) ?_; try clear_value x; rotate_left; unfold x; clear x; rotate_right; rename State => z)
    | (extract_lets +onlyGivenNames x; have hb : FrmBlk := x; clear hb; subst x)
    | (extract_lets +onlyGivenNames x; have hb : KprBlk := x; clear hb; subst x)
    | (extract_lets +onlyGivenNames x; try clear_value x; revert x; intro z)
    | (with_reducible apply admitOne_keeps)
    | (with_reducible refine Keeps.foldl _ ?_ ?_)
    | (rw [State.mk_made]; with_reducible refine Keeps.upd ?_)
    | split

theorem damageSeq_keeps {pt : Untouched} {s0 : State} (n : Nat) (s : State) (h_s : Keeps pt s0 s) (w_reports : pt.reports = false := by assumption) (w_req : pt.req = false := by assumption) :
    Keeps pt s0 (damageSeq n s) := by
  unfold damageSeq
  repeat' first
    | with_reducible assumption
    | (intro _)
    | (extract_lets +onlyGivenNames x; refine (fun hx : Keeps pt s0 x => ?_) ?_; try clear_value x; rotate_left; unfold x; clear x; rotate_right; rename State => z)
    | (extract_lets +onlyGivenNames x; have hb : MemBlk := x; clear hb; subst x)
    | (extract_lets +onlyGivenNames x; have hb : CoresBlk := x; clear hb; subst x)
    | (extract_lets +onlyGivenNames x; have hb : PrtBlk := x; clear hb; subst x)
    | (extract_lets +onlyGivenNames x; have hb : FrmBlk := x; clear hb; subst x)
    | (extract_lets +onlyGivenNames x; have hb : KprBlk := x; clear hb; subst x)
    | (extract_lets +onlyGivenNames x; have hb : HifBlk := x; clear hb; subst x)
    | (extract_lets +onlyGivenNames x; try clear_value x; revert x; intro z)
    | (with_reducible refine Keeps.upd ?_)
    | (with_reducible apply endWork_keeps)
    | (with_reducible apply setSeq_keeps)
    | (rw [State.mk_made]; with_reducible refine Keeps.upd ?_)
    | split

theorem damagePass_keeps {pt : Untouched} {s0 : State} (s : State) (h_s : Keeps pt s0 s) (w_reports : pt.reports = false := by assumption) (w_req : pt.req = false := by assumption) :
    Keeps pt s0 (damagePass s) := by
  unfold damagePass
  repeat' first
    | with_reducible assumption
    | (intro _)
    | (extract_lets +onlyGivenNames x; refine (fun hx : Keeps pt s0 x => ?_) ?_; try clear_value x; rotate_left; unfold x; clear x; rotate_right; rename State => z)
    | (extract_lets +onlyGivenNames x; have hb : FrmBlk := x; clear hb; subst x)
    | (extract_lets +onlyGivenNames x; have hb : KprBlk := x; clear hb; subst x)
    | (extract_lets +onlyGivenNames x; try clear_value x; revert x; intro z)
    | (with_reducible apply damageSeq_keeps)
    | (with_reducible refine Keeps.foldl _ ?_ ?_)

theorem freeAll_keeps {pt : Untouched} {s0 : State} (s : State) (h_s : Keeps pt s0 s) (w_reports : pt.reports = false := by assumption) (w_req : pt.req = false := by assumption) :
    Keeps pt s0 (freeAll s) := by
  unfold freeAll
  repeat' first
    | with_reducible assumption
    | (intro _)
    | (extract_lets +onlyGivenNames x; refine (fun hx : Keeps pt s0 x => ?_) ?_; try clear_value x; rotate_left; unfold x; clear x; rotate_right; rename State => z)
    | (extract_lets +onlyGivenNames x; have hb : MemBlk := x; clear hb; subst x)
    | (extract_lets +onlyGivenNames x; have hb : CoresBlk := x; clear hb; subst x)
    | (extract_lets +onlyGivenNames x; have hb : PrtBlk := x; clear hb; subst x)
    | (extract_lets +onlyGivenNames x; have hb : FrmBlk := x; clear hb; subst x)
    | (extract_lets +onlyGivenNames x; have hb : KprBlk := x; clear hb; subst x)
    | (extract_lets +onlyGivenNames x; have hb : HifBlk := x; clear hb; subst x)
    | (extract_lets +onlyGivenNames x; try clear_value x; revert x; intro z)
    | (with_reducible refine Keeps.upd ?_)
    | (with_reducible apply complete_keeps)
    | (with_reducible apply setQp_keeps)
    | (with_reducible apply endWork_keeps)
    | (with_reducible apply settleBusy_keeps)
    | (with_reducible refine Keeps.foldl _ ?_ ?_)
    | (rw [State.mk_made]; with_reducible refine Keeps.upd ?_)
    | split

theorem droppedToken_keeps {pt : Untouched} {s0 : State} (lane : Nat) (t : Nat) (s : State) (h_s : Keeps pt s0 s) (w_reports : pt.reports = false := by assumption) (w_req : pt.req = false := by assumption) :
    Keeps pt s0 (droppedToken lane t s) := by
  unfold droppedToken
  repeat' first
    | with_reducible assumption
    | (intro _)
    | (extract_lets +onlyGivenNames x; refine (fun hx : Keeps pt s0 x => ?_) ?_; try clear_value x; rotate_left; unfold x; clear x; rotate_right; rename State => z)
    | (extract_lets +onlyGivenNames x; have hb : FrmBlk := x; clear hb; subst x)
    | (extract_lets +onlyGivenNames x; have hb : KprBlk := x; clear hb; subst x)
    | (extract_lets +onlyGivenNames x; try clear_value x; revert x; intro z)
    | (with_reducible apply raise_keeps)
    | (rw [State.mk_made]; with_reducible refine Keeps.upd ?_)
    | split

theorem commitSeal_keeps {pt : Untouched} {s0 : State} (n : Nat) (t : Step) (s : State) (h_s : Keeps pt s0 s) (w_req : pt.req = false := by assumption) :
    Keeps pt s0 (commitSeal n t s) := by
  unfold commitSeal
  repeat' first
    | with_reducible assumption
    | (intro _)
    | (extract_lets +onlyGivenNames x; refine (fun hx : Keeps pt s0 x => ?_) ?_; try clear_value x; rotate_left; unfold x; clear x; rotate_right; rename State => z)
    | (extract_lets +onlyGivenNames x; have hb : FrmBlk := x; clear hb; subst x)
    | (extract_lets +onlyGivenNames x; have hb : KprBlk := x; clear hb; subst x)
    | (extract_lets +onlyGivenNames x; try clear_value x; revert x; intro z)
    | (with_reducible apply dropGroup_keeps)
    | (with_reducible apply setSeq_keeps)
    | (with_reducible refine Keeps.foldl _ ?_ ?_)
    | split

theorem dropSeal_keeps {pt : Untouched} {s0 : State} (n : Nat) (t : Step) (s : State) (h_s : Keeps pt s0 s) (w_req : pt.req = false := by assumption) :
    Keeps pt s0 (dropSeal n t s) := by
  unfold dropSeal
  repeat' first
    | with_reducible assumption
    | (intro _)
    | (extract_lets +onlyGivenNames x; refine (fun hx : Keeps pt s0 x => ?_) ?_; try clear_value x; rotate_left; unfold x; clear x; rotate_right; rename State => z)
    | (extract_lets +onlyGivenNames x; have hb : FrmBlk := x; clear hb; subst x)
    | (extract_lets +onlyGivenNames x; have hb : KprBlk := x; clear hb; subst x)
    | (extract_lets +onlyGivenNames x; try clear_value x; revert x; intro z)
    | (with_reducible apply dropGroup_keeps)
    | (with_reducible refine Keeps.foldl _ ?_ ?_)
    | split

theorem writeTables_keeps {pt : Untouched} {s0 : State} (n : Nat) (s : State) (h_s : Keeps pt s0 s) (w_stacked : pt.stacked = false := by assumption) (w_reports : pt.reports = false := by assumption) (w_hif : pt.hif = false := by assumption) (w_mem : pt.mem = false := by assumption) (w_net : pt.net = false := by assumption) :
    Keeps pt s0 (writeTables n s) := by
  unfold writeTables
  repeat' first
    | with_reducible assumption
    | (intro _)
    | (extract_lets +onlyGivenNames x; refine (fun hx : Keeps pt s0 x => ?_) ?_; try clear_value x; rotate_left; unfold x; clear x; rotate_right; rename State => z)
    | (extract_lets +onlyGivenNames x; have hb : FrmBlk := x; clear hb; subst x)
    | (extract_lets +onlyGivenNames x; have hb : KprBlk := x; clear hb; subst x)
    | (extract_lets +onlyGivenNames x; try clear_value x; revert x; intro z)
    | (with_reducible apply writeBytes_keeps)
    | (with_reducible refine Keeps.snd (by with_reducible assumption) ?_)
    | (with_reducible refine Keeps.foldl _ ?_ ?_)

theorem commitDecode_keeps {pt : Untouched} {s0 : State} (n : Nat) (t : Step) (b : List Nat) (s : State) (h_s : Keeps pt s0 s) (w_reports : pt.reports = false := by assumption) (w_req : pt.req = false := by assumption) :
    Keeps pt s0 (commitDecode n t b s) := by
  unfold commitDecode
  repeat' first
    | with_reducible assumption
    | (intro _)
    | (extract_lets +onlyGivenNames x; refine (fun hx : Keeps pt s0 x => ?_) ?_; try clear_value x; rotate_left; unfold x; clear x; rotate_right; rename State => z)
    | (extract_lets +onlyGivenNames x; have hb : MemBlk := x; clear hb; subst x)
    | (extract_lets +onlyGivenNames x; have hb : CoresBlk := x; clear hb; subst x)
    | (extract_lets +onlyGivenNames x; have hb : PrtBlk := x; clear hb; subst x)
    | (extract_lets +onlyGivenNames x; have hb : FrmBlk := x; clear hb; subst x)
    | (extract_lets +onlyGivenNames x; have hb : KprBlk := x; clear hb; subst x)
    | (extract_lets +onlyGivenNames x; have hb : HifBlk := x; clear hb; subst x)
    | (extract_lets +onlyGivenNames x; try clear_value x; revert x; intro z)
    | (with_reducible refine Keeps.upd ?_)
    | (with_reducible apply droppedToken_keeps)
    | (with_reducible apply setSeq_keeps)
    | (with_reducible apply complete_keeps)
    | (with_reducible refine Keeps.foldl _ ?_ ?_)
    | (rw [State.mk_made]; with_reducible refine Keeps.upd ?_)
    | split

theorem commitCancelled_keeps {pt : Untouched} {s0 : State} (n : Nat) (t : Step) (b : List Nat) (s : State) (h_s : Keeps pt s0 s) (w_req : pt.req = false := by assumption) :
    Keeps pt s0 (commitCancelled n t b s) := by
  unfold commitCancelled
  repeat' first
    | with_reducible assumption
    | (intro _)
    | (extract_lets +onlyGivenNames x; refine (fun hx : Keeps pt s0 x => ?_) ?_; try clear_value x; rotate_left; unfold x; clear x; rotate_right; rename State => z)
    | (extract_lets +onlyGivenNames x; have hb : MemBlk := x; clear hb; subst x)
    | (extract_lets +onlyGivenNames x; have hb : CoresBlk := x; clear hb; subst x)
    | (extract_lets +onlyGivenNames x; have hb : PrtBlk := x; clear hb; subst x)
    | (extract_lets +onlyGivenNames x; have hb : FrmBlk := x; clear hb; subst x)
    | (extract_lets +onlyGivenNames x; have hb : KprBlk := x; clear hb; subst x)
    | (extract_lets +onlyGivenNames x; have hb : HifBlk := x; clear hb; subst x)
    | (extract_lets +onlyGivenNames x; try clear_value x; revert x; intro z)
    | (with_reducible refine Keeps.upd ?_)
    | (with_reducible apply setSeq_keeps)
    | (rw [State.mk_made]; with_reducible refine Keeps.upd ?_)
    | split

theorem readArea_keeps {pt : Untouched} {s0 : State} (a d : Nat) (s : State) (h_s : Keeps pt s0 s) (w_reports : pt.reports = false := by assumption) (w_mem : pt.mem = false := by assumption) (w_net : pt.net = false := by assumption) :
    Keeps pt s0 (readArea a d s).2 := by
  unfold readArea
  repeat' first
    | with_reducible assumption
    | (intro _)
    | (extract_lets +onlyGivenNames x; refine (fun hx : Keeps pt s0 x => ?_) ?_; try clear_value x; rotate_left; unfold x; clear x; rotate_right; rename State => z)
    | (extract_lets +onlyGivenNames x; have hb : FrmBlk := x; clear hb; subst x)
    | (extract_lets +onlyGivenNames x; have hb : KprBlk := x; clear hb; subst x)
    | (extract_lets +onlyGivenNames x; try clear_value x; revert x; intro z)
    | (with_reducible apply readBytes_keeps)
    | (with_reducible refine Keeps.snd (by with_reducible assumption) ?_)
    | split

theorem commitStep_keeps {pt : Untouched} {s0 : State} (n : Nat) (t : Step) (s : State) (h_s : Keeps pt s0 s) (w_stacked : pt.stacked = false := by assumption) (w_reports : pt.reports = false := by assumption) (w_hif : pt.hif = false := by assumption) (w_mem : pt.mem = false := by assumption) (w_net : pt.net = false := by assumption) (w_req : pt.req = false := by assumption) :
    Keeps pt s0 (commitStep n t s) := by
  have hd : ∀ x, Keeps pt s0 x → Keeps pt s0 (writeTables n (completeAppends n (x.seqOf n).appends x)) :=
    fun x h => writeTables_keeps _ _ (completeAppends_keeps _ _ _ h)
  unfold commitStep
  dsimp only
  split
  · exact hd _ (setSeq_keeps _ _ _ (commitSeal_keeps _ _ _ h_s))
  · split
    · rename_i heq
      exact dropSeal_keeps _ _ _ (Keeps.snd heq (readArea_keeps _ _ _ h_s))
    · rename_i heq
      refine hd _ ?_
      split
      · exact commitCancelled_keeps _ _ _ _ (commitSeal_keeps _ _ _ (Keeps.snd heq (readArea_keeps _ _ _ h_s)))
      · exact commitDecode_keeps _ _ _ _ (commitSeal_keeps _ _ _ (Keeps.snd heq (readArea_keeps _ _ _ h_s)))

theorem settleStep_keeps {pt : Untouched} {s0 : State} (buffers : List Nat) (n : Nat) (t : Step) (s : State) (h_s : Keeps pt s0 s) (w_stacked : pt.stacked = false := by assumption) (w_reports : pt.reports = false := by assumption) (w_hif : pt.hif = false := by assumption) (w_mem : pt.mem = false := by assumption) (w_net : pt.net = false := by assumption) (w_req : pt.req = false := by assumption) :
    Keeps pt s0 (settleStep buffers n t s) := by
  unfold settleStep
  repeat' first
    | with_reducible assumption
    | (intro _)
    | (extract_lets +onlyGivenNames x; refine (fun hx : Keeps pt s0 x => ?_) ?_; try clear_value x; rotate_left; unfold x; clear x; rotate_right; rename State => z)
    | (extract_lets +onlyGivenNames x; have hb : MemBlk := x; clear hb; subst x)
    | (extract_lets +onlyGivenNames x; have hb : CoresBlk := x; clear hb; subst x)
    | (extract_lets +onlyGivenNames x; have hb : PrtBlk := x; clear hb; subst x)
    | (extract_lets +onlyGivenNames x; have hb : FrmBlk := x; clear hb; subst x)
    | (extract_lets +onlyGivenNames x; have hb : KprBlk := x; clear hb; subst x)
    | (extract_lets +onlyGivenNames x; have hb : HifBlk := x; clear hb; subst x)
    | (extract_lets +onlyGivenNames x; try clear_value x; revert x; intro z)
    | (with_reducible refine Keeps.upd ?_)
    | (with_reducible apply setSeq_keeps)
    | (with_reducible apply finishClose_keeps)
    | (with_reducible apply dropSeal_keeps)
    | (with_reducible apply advance_keeps)
    | (with_reducible apply endFull_keeps)
    | (with_reducible apply commitStep_keeps)
    | (with_reducible apply completeAppends_keeps)
    | (rw [State.mk_made]; with_reducible refine Keeps.upd ?_)
    | split

theorem settleFrame_keeps {pt : Untouched} {s0 : State} (frame : Nat) (buffers : List Nat) (s : State) (h_s : Keeps pt s0 s) (w_stacked : pt.stacked = false := by assumption) (w_reports : pt.reports = false := by assumption) (w_hif : pt.hif = false := by assumption) (w_mem : pt.mem = false := by assumption) (w_net : pt.net = false := by assumption) (w_req : pt.req = false := by assumption) :
    Keeps pt s0 (settleFrame frame buffers s) := by
  unfold settleFrame
  repeat' first
    | with_reducible assumption
    | (intro _)
    | (extract_lets +onlyGivenNames x; refine (fun hx : Keeps pt s0 x => ?_) ?_; try clear_value x; rotate_left; unfold x; clear x; rotate_right; rename State => z)
    | (extract_lets +onlyGivenNames x; have hb : FrmBlk := x; clear hb; subst x)
    | (extract_lets +onlyGivenNames x; have hb : KprBlk := x; clear hb; subst x)
    | (extract_lets +onlyGivenNames x; try clear_value x; revert x; intro z)
    | (with_reducible apply settleStep_keeps)
    | (with_reducible apply useFresh_keeps)
    | (with_reducible refine Keeps.foldl _ ?_ ?_)
    | (rw [State.mk_made]; with_reducible refine Keeps.upd ?_)
    | split

theorem writeRecordOf_keeps {pt : Untouched} {s0 : State} (p : PoolRec) (frame q : Nat) (bytes : List Nat) (s : State) (h_s : Keeps pt s0 s) (w_stacked : pt.stacked = false := by assumption) (w_reports : pt.reports = false := by assumption) (w_hif : pt.hif = false := by assumption) (w_mem : pt.mem = false := by assumption) (w_net : pt.net = false := by assumption) :
    Keeps pt s0 (writeRecordOf p frame q bytes s) := by
  unfold writeRecordOf
  repeat' first
    | with_reducible assumption
    | (intro _)
    | (extract_lets +onlyGivenNames x; refine (fun hx : Keeps pt s0 x => ?_) ?_; try clear_value x; rotate_left; unfold x; clear x; rotate_right; rename State => z)
    | (extract_lets +onlyGivenNames x; have hb : FrmBlk := x; clear hb; subst x)
    | (extract_lets +onlyGivenNames x; have hb : KprBlk := x; clear hb; subst x)
    | (extract_lets +onlyGivenNames x; try clear_value x; revert x; intro z)
    | (with_reducible apply writeBytes_keeps)
    | (with_reducible refine Keeps.snd (by with_reducible assumption) ?_)

theorem clearBlocks_keeps {pt : Untouched} {s0 : State} (frame : Nat) (s : State) (h_s : Keeps pt s0 s) (w_stacked : pt.stacked = false := by assumption) (w_reports : pt.reports = false := by assumption) (w_hif : pt.hif = false := by assumption) (w_mem : pt.mem = false := by assumption) (w_net : pt.net = false := by assumption) :
    Keeps pt s0 (clearBlocks frame s) := by
  unfold clearBlocks
  repeat' first
    | with_reducible assumption
    | (intro _)
    | (extract_lets +onlyGivenNames x; refine (fun hx : Keeps pt s0 x => ?_) ?_; try clear_value x; rotate_left; unfold x; clear x; rotate_right; rename State => z)
    | (extract_lets +onlyGivenNames x; have hb : FrmBlk := x; clear hb; subst x)
    | (extract_lets +onlyGivenNames x; have hb : KprBlk := x; clear hb; subst x)
    | (extract_lets +onlyGivenNames x; try clear_value x; revert x; intro z)
    | (with_reducible apply writeRecordOf_keeps)
    | (with_reducible refine Keeps.foldl _ ?_ ?_)
    | split

theorem writeTokens_keeps {pt : Untouched} {s0 : State} (frame lane : Nat) (tokens : List Nat) (s : State) (h_s : Keeps pt s0 s) (w_stacked : pt.stacked = false := by assumption) (w_reports : pt.reports = false := by assumption) (w_hif : pt.hif = false := by assumption) (w_mem : pt.mem = false := by assumption) (w_net : pt.net = false := by assumption) :
    Keeps pt s0 (writeTokens frame lane tokens s) := by
  unfold writeTokens
  repeat' first
    | with_reducible assumption
    | (intro _)
    | (extract_lets +onlyGivenNames x; refine (fun hx : Keeps pt s0 x => ?_) ?_; try clear_value x; rotate_left; unfold x; clear x; rotate_right; rename State => z)
    | (extract_lets +onlyGivenNames x; have hb : FrmBlk := x; clear hb; subst x)
    | (extract_lets +onlyGivenNames x; have hb : KprBlk := x; clear hb; subst x)
    | (extract_lets +onlyGivenNames x; try clear_value x; revert x; intro z)
    | (with_reducible apply writeBytes_keeps)
    | (with_reducible refine Keeps.snd (by with_reducible assumption) ?_)

theorem takeSeal_keeps {pt : Untouched} {s0 : State} (x : Seq) (pools : List (Nat × PoolRec)) (s : State) (h_s : Keeps pt s0 s) (w_stacked : pt.stacked = false := by assumption) (w_reports : pt.reports = false := by assumption) (w_hif : pt.hif = false := by assumption) (w_mem : pt.mem = false := by assumption) (w_net : pt.net = false := by assumption) (w_req : pt.req = false := by assumption) :
    Keeps pt s0 (takeSeal x pools s).2 := by
  unfold takeSeal
  split
  · exact h_s
  · split
    · split <;> exact h_s
    · split
      · exact h_s
      · rename_i heq
        exact takePage_keeps _ _ _ _ h_s heq

theorem placeSeq_keeps {pt : Untouched} {s0 : State} (n frame lane : Nat) (tokens : List Nat) (s : State) (h_s : Keeps pt s0 s) {t : State}
    (h : placeSeq n frame lane tokens s = some t) (w_stacked : pt.stacked = false := by assumption) (w_reports : pt.reports = false := by assumption) (w_hif : pt.hif = false := by assumption) (w_mem : pt.mem = false := by assumption) (w_net : pt.net = false := by assumption) (w_req : pt.req = false := by assumption) :
    Keeps pt s0 t := by
  unfold placeSeq at h
  dsimp only at h
  split at h
  · cases h
  · rename_i pages s1 heq
    have h1 := takePages_keeps _ _ _ _ _ h_s heq
    cases h
    refine writeTokens_keeps _ _ _ _ (Keeps.foldl _ (writeTables_keeps _ _ (setSeq_keeps _ _ _ ?_)) (fun x e h => writeRecordOf_keeps _ _ _ _ _ h))
    exact takeSeal_keeps _ _ _ h1

theorem walkRing_keeps {pt : Untouched} {s0 : State} (late : List Nat) (reads : SMap (List Nat)) (frame j : Nat) (ring lanes : List Nat) (acc : Nat) (s : State)
    (h_s : Keeps pt s0 s) (w_stacked : pt.stacked = false := by assumption) (w_reports : pt.reports = false := by assumption) (w_hif : pt.hif = false := by assumption) (w_mem : pt.mem = false := by assumption) (w_net : pt.net = false := by assumption) (w_req : pt.req = false := by assumption) :
    Keeps pt s0 (walkRing late reads frame j ring lanes acc s).2 := by
  induction ring generalizing lanes acc s with
  | nil => unfold walkRing; exact h_s
  | cons n t ih =>
    cases lanes with
    | nil => unfold walkRing; exact h_s
    | cons lane ls =>
      unfold walkRing
      split
      · split
        · exact ih _ _ _ h_s
        · rename_i heq
          refine ih _ _ _ ?_
          rw [State.mk_made]
          with_reducible exact Keeps.upd (placeSeq_keeps _ _ _ _ _ h_s heq)
      · exact ih _ _ _ h_s

theorem fillSet_keeps {pt : Untouched} {s0 : State} (late : List Nat) (reads : SMap (List Nat)) (frame count j : Nat) (a : Nat × State) (h_s : Keeps pt s0 a.2) (w_stacked : pt.stacked = false := by assumption) (w_reports : pt.reports = false := by assumption) (w_hif : pt.hif = false := by assumption) (w_mem : pt.mem = false := by assumption) (w_net : pt.net = false := by assumption) (w_req : pt.req = false := by assumption) :
    Keeps pt s0 (fillSet late reads frame count j a).2 := by
  unfold fillSet
  dsimp only
  rw [State.mk_made]
  with_reducible exact Keeps.upd (walkRing_keeps _ _ _ _ _ _ _ _ h_s)

theorem fillLanes_keeps {pt : Untouched} {s0 : State} (late : List Nat) (reads : SMap (List Nat)) (s : State) (h_s : Keeps pt s0 s) (w_stacked : pt.stacked = false := by assumption) (w_reports : pt.reports = false := by assumption) (w_hif : pt.hif = false := by assumption) (w_mem : pt.mem = false := by assumption) (w_net : pt.net = false := by assumption) (w_req : pt.req = false := by assumption) :
    Keeps pt s0 (fillLanes late reads s) := by
  unfold fillLanes
  dsimp only
  split
  · rw [State.mk_made]
    refine Keeps.upd ?_
    refine Keeps.foldlSnd _ (fun x o hx => fillSet_keeps _ _ _ _ o x hx) ?_
    exact Keeps.upd (clearBlocks_keeps _ _ h_s)
  · exact h_s

theorem doLaneFill_keeps {pt : Untouched} {s0 : State} (late : List Nat) (reads : SMap (List Nat)) (bad : List Nat) (s : State) (h_s : Keeps pt s0 s) (w_stacked : pt.stacked = false := by assumption) (w_reports : pt.reports = false := by assumption) (w_hif : pt.hif = false := by assumption) (w_mem : pt.mem = false := by assumption) (w_net : pt.net = false := by assumption) (w_req : pt.req = false := by assumption) :
    Keeps pt s0 (doLaneFill late reads bad s) := by
  unfold doLaneFill
  repeat' first
    | with_reducible assumption
    | (intro _)
    | (extract_lets +onlyGivenNames x; refine (fun hx : Keeps pt s0 x => ?_) ?_; try clear_value x; rotate_left; unfold x; clear x; rotate_right; rename State => z)
    | (extract_lets +onlyGivenNames x; have hb : MemBlk := x; clear hb; subst x)
    | (extract_lets +onlyGivenNames x; have hb : CoresBlk := x; clear hb; subst x)
    | (extract_lets +onlyGivenNames x; have hb : PrtBlk := x; clear hb; subst x)
    | (extract_lets +onlyGivenNames x; have hb : FrmBlk := x; clear hb; subst x)
    | (extract_lets +onlyGivenNames x; have hb : KprBlk := x; clear hb; subst x)
    | (extract_lets +onlyGivenNames x; have hb : HifBlk := x; clear hb; subst x)
    | (extract_lets +onlyGivenNames x; try clear_value x; revert x; intro z)
    | (with_reducible refine Keeps.upd ?_)
    | (with_reducible apply withBadPaths_keeps)
    | (with_reducible apply fillLanes_keeps)
    | (rw [State.mk_made]; with_reducible refine Keeps.upd ?_)
    | split

theorem rewriteLanes_keeps {pt : Untouched} {s0 : State} (count : Nat) (s : State) (h_s : Keeps pt s0 s) (w_stacked : pt.stacked = false := by assumption) (w_reports : pt.reports = false := by assumption) (w_hif : pt.hif = false := by assumption) (w_mem : pt.mem = false := by assumption) (w_net : pt.net = false := by assumption) (w_req : pt.req = false := by assumption) :
    Keeps pt s0 (rewriteLanes count s) := by
  unfold rewriteLanes
  repeat' first
    | with_reducible assumption
    | (intro _)
    | (extract_lets +onlyGivenNames x; refine (fun hx : Keeps pt s0 x => ?_) ?_; try clear_value x; rotate_left; unfold x; clear x; rotate_right; rename State => z)
    | (extract_lets +onlyGivenNames x; have hb : MemBlk := x; clear hb; subst x)
    | (extract_lets +onlyGivenNames x; have hb : CoresBlk := x; clear hb; subst x)
    | (extract_lets +onlyGivenNames x; have hb : PrtBlk := x; clear hb; subst x)
    | (extract_lets +onlyGivenNames x; have hb : FrmBlk := x; clear hb; subst x)
    | (extract_lets +onlyGivenNames x; have hb : KprBlk := x; clear hb; subst x)
    | (extract_lets +onlyGivenNames x; have hb : HifBlk := x; clear hb; subst x)
    | (extract_lets +onlyGivenNames x; try clear_value x; revert x; intro z)
    | (with_reducible refine Keeps.upd ?_)
    | (with_reducible apply writeRecordOf_keeps)
    | (with_reducible apply finishClose_keeps)
    | (with_reducible apply setSeq_keeps)
    | (with_reducible refine Keeps.foldl _ ?_ ?_)
    | (rw [State.mk_made]; with_reducible refine Keeps.upd ?_)
    | split

theorem doPoolSetStarved_keeps {pt : Untouched} {s0 : State} (j : Nat) (s : State) (h_s : Keeps pt s0 s) (w_reports : pt.reports = false := by assumption) (w_req : pt.req = false := by assumption) :
    Keeps pt s0 (doPoolSetStarved j s) := by
  unfold doPoolSetStarved
  repeat' first
    | with_reducible assumption
    | (intro _)
    | (extract_lets +onlyGivenNames x; refine (fun hx : Keeps pt s0 x => ?_) ?_; try clear_value x; rotate_left; unfold x; clear x; rotate_right; rename State => z)
    | (extract_lets +onlyGivenNames x; have hb : FrmBlk := x; clear hb; subst x)
    | (extract_lets +onlyGivenNames x; have hb : KprBlk := x; clear hb; subst x)
    | (extract_lets +onlyGivenNames x; try clear_value x; revert x; intro z)
    | (with_reducible apply raise_keeps)
    | (rw [State.mk_made]; with_reducible refine Keeps.upd ?_)
    | split

end Sys2Proof.Machine
end

