-- ==== Sys2Proof/Laws/KeepsLink.lean ====
section
/-! SUPPORT. Every operation of Machine/Link.lean keeps the fuses, the queue and canonical memories. -/
namespace Sys2Proof.Machine
set_option linter.all false
set_option Elab.async false

theorem loseAlignment_keeps {pt : Untouched} {s0 : State} (s : State) (h_s : Keeps pt s0 s) (w_reports : pt.reports = false := by assumption) (w_frm : pt.frm = false := by assumption) (w_lnk : pt.lnk = false := by assumption) :
    Keeps pt s0 (loseAlignment s) := by
  unfold loseAlignment
  repeat' first
    | with_reducible assumption
    | (extract_lets +onlyGivenNames x; have hb : PrtBlk := x; clear hb; subst x)
    | (with_reducible apply raise_keeps)
    | (rw [State.mk_made]; with_reducible refine Keeps.upd ?_)
    | split

theorem lockTime_keeps {pt : Untouched} {s0 : State} (s : State) (h_s : Keeps pt s0 s) (w_frm : pt.frm = false := by assumption) (w_lnk : pt.lnk = false := by assumption) :
    Keeps pt s0 (lockTime s) := by
  unfold lockTime
  repeat' first
    | with_reducible assumption
    | (extract_lets +onlyGivenNames x; have hb : PrtBlk := x; clear hb; subst x)
    | (rw [State.mk_made]; with_reducible refine Keeps.upd ?_)

theorem beMaster_keeps {pt : Untouched} {s0 : State} (s : State) (h_s : Keeps pt s0 s) (w_lnk : pt.lnk = false := by assumption) :
    Keeps pt s0 (beMaster s) := by
  unfold beMaster
  repeat' first
    | with_reducible assumption
    | (intro _)
    | (extract_lets +onlyGivenNames x; refine (fun hx : Keeps pt s0 x => ?_) ?_; try clear_value x; rotate_left; unfold x; clear x; rotate_right; rename State => z)
    | (extract_lets +onlyGivenNames x; have hb : MemBlk := x; clear hb; subst x)
    | (extract_lets +onlyGivenNames x; have hb : CoresBlk := x; clear hb; subst x)
    | (extract_lets +onlyGivenNames x; have hb : PrtBlk := x; clear hb; subst x)
    | (extract_lets +onlyGivenNames x; have hb : FrmBlk := x; clear hb; subst x)
    | (extract_lets +onlyGivenNames x; have hb : KprBlk := x; clear hb; subst x)
    | (extract_lets +onlyGivenNames x; have hb : HifBlk := x; clear hb; subst x)
    | (extract_lets +onlyGivenNames x; try clear_value x; revert x; intro z)
    | (with_reducible refine Keeps.upd ?_)
    | (rw [State.mk_made]; with_reducible refine Keeps.upd ?_)
    | split

theorem judgeMaster_keeps {pt : Untouched} {s0 : State} (s : State) (h_s : Keeps pt s0 s) (w_reports : pt.reports = false := by assumption) (w_frm : pt.frm = false := by assumption) (w_lnk : pt.lnk = false := by assumption) :
    Keeps pt s0 (judgeMaster s) := by
  unfold judgeMaster
  repeat' first
    | with_reducible assumption
    | (intro _)
    | (extract_lets +onlyGivenNames x; refine (fun hx : Keeps pt s0 x => ?_) ?_; try clear_value x; rotate_left; unfold x; clear x; rotate_right; rename State => z)
    | (extract_lets +onlyGivenNames x; have hb : MemBlk := x; clear hb; subst x)
    | (extract_lets +onlyGivenNames x; have hb : CoresBlk := x; clear hb; subst x)
    | (extract_lets +onlyGivenNames x; have hb : PrtBlk := x; clear hb; subst x)
    | (extract_lets +onlyGivenNames x; have hb : FrmBlk := x; clear hb; subst x)
    | (extract_lets +onlyGivenNames x; have hb : KprBlk := x; clear hb; subst x)
    | (extract_lets +onlyGivenNames x; have hb : HifBlk := x; clear hb; subst x)
    | (extract_lets +onlyGivenNames x; try clear_value x; revert x; intro z)
    | (with_reducible refine Keeps.upd ?_)
    | (with_reducible apply loseAlignment_keeps)
    | (with_reducible apply beMaster_keeps)
    | (with_reducible apply lockTime_keeps)
    | (rw [State.mk_made]; with_reducible refine Keeps.upd ?_)
    | split

theorem acquireTime_keeps {pt : Untouched} {s0 : State} (offset : Int) (s : State) (h_s : Keeps pt s0 s) (w_tc : pt.tc = false := by assumption) (w_frm : pt.frm = false := by assumption) (w_lnk : pt.lnk = false := by assumption) :
    Keeps pt s0 (acquireTime offset s).2 := by
  unfold acquireTime
  dsimp only
  split
  · exact h_s
  · rw [State.mk_made]
    with_reducible exact Keeps.upd h_s

theorem withOffset_keeps {pt : Untouched} {s0 : State} (offset : Int) (s : State) (h_s : Keeps pt s0 s) (w_lnk : pt.lnk = false := by assumption) :
    Keeps pt s0 (withOffset offset s) := by
  unfold withOffset
  repeat' first
    | with_reducible assumption
    | (extract_lets +onlyGivenNames x; have hb : PrtBlk := x; clear hb; subst x)
    | (rw [State.mk_made]; with_reducible refine Keeps.upd ?_)

theorem followUpstream_keeps {pt : Untouched} {s0 : State} (offset : Int) (lock : Bool) (s : State) (h_s : Keeps pt s0 s) (w_reports : pt.reports = false := by assumption) (w_tc : pt.tc = false := by assumption) (w_frm : pt.frm = false := by assumption) (w_lnk : pt.lnk = false := by assumption) :
    Keeps pt s0 (followUpstream offset lock s) := by
  unfold followUpstream
  repeat' first
    | with_reducible assumption
    | (intro _)
    | (extract_lets +onlyGivenNames x; refine (fun hx : Keeps pt s0 x => ?_) ?_; try clear_value x; rotate_left; unfold x; clear x; rotate_right; rename State => z)
    | (extract_lets +onlyGivenNames x; have hb : MemBlk := x; clear hb; subst x)
    | (extract_lets +onlyGivenNames x; have hb : CoresBlk := x; clear hb; subst x)
    | (extract_lets +onlyGivenNames x; have hb : PrtBlk := x; clear hb; subst x)
    | (extract_lets +onlyGivenNames x; have hb : FrmBlk := x; clear hb; subst x)
    | (extract_lets +onlyGivenNames x; have hb : KprBlk := x; clear hb; subst x)
    | (extract_lets +onlyGivenNames x; have hb : HifBlk := x; clear hb; subst x)
    | (extract_lets +onlyGivenNames x; try clear_value x; revert x; intro z)
    | (with_reducible refine Keeps.upd ?_)
    | (with_reducible apply acquireTime_keeps)
    | (with_reducible apply withOffset_keeps)
    | (with_reducible apply loseAlignment_keeps)
    | (with_reducible apply lockTime_keeps)
    | (with_reducible refine Keeps.snd (by with_reducible assumption) ?_)
    | (rw [State.mk_made]; with_reducible refine Keeps.upd ?_)
    | split

theorem doTimingSymbol_keeps {pt : Untouched} {s0 : State} (l symTc : Nat) (master : Option Nat) (depth phase : Nat) (back : Int) (s : State) (h_s : Keeps pt s0 s) (w_reports : pt.reports = false := by assumption) (w_tc : pt.tc = false := by assumption) (w_frm : pt.frm = false := by assumption) (w_lnk : pt.lnk = false := by assumption) :
    Keeps pt s0 (doTimingSymbol l symTc master depth phase back s) := by
  unfold doTimingSymbol
  repeat' first
    | with_reducible assumption
    | (intro _)
    | (extract_lets +onlyGivenNames x; refine (fun hx : Keeps pt s0 x => ?_) ?_; try clear_value x; rotate_left; unfold x; clear x; rotate_right; rename State => z)
    | (extract_lets +onlyGivenNames x; have hb : MemBlk := x; clear hb; subst x)
    | (extract_lets +onlyGivenNames x; have hb : CoresBlk := x; clear hb; subst x)
    | (extract_lets +onlyGivenNames x; have hb : PrtBlk := x; clear hb; subst x)
    | (extract_lets +onlyGivenNames x; have hb : FrmBlk := x; clear hb; subst x)
    | (extract_lets +onlyGivenNames x; have hb : KprBlk := x; clear hb; subst x)
    | (extract_lets +onlyGivenNames x; have hb : HifBlk := x; clear hb; subst x)
    | (extract_lets +onlyGivenNames x; try clear_value x; revert x; intro z)
    | (with_reducible refine Keeps.upd ?_)
    | (with_reducible apply setLink_keeps)
    | (with_reducible apply judgeMaster_keeps)
    | (with_reducible apply followUpstream_keeps)
    | (rw [State.mk_made]; with_reducible refine Keeps.upd ?_)
    | split

theorem doTimingSymbolSend_keeps {pt : Untouched} {s0 : State} (l : Nat) (s : State) (h_s : Keeps pt s0 s) : Keeps pt s0 (doTimingSymbolSend l s) := by
  unfold doTimingSymbolSend
  repeat' first
    | with_reducible assumption
    | (extract_lets +onlyGivenNames x; have hb : PrtBlk := x; clear hb; subst x)
    | (with_reducible apply emit_keeps)
    | split

theorem doAlignmentTimeout_keeps {pt : Untouched} {s0 : State} (s : State) (h_s : Keeps pt s0 s) (w_reports : pt.reports = false := by assumption) (w_frm : pt.frm = false := by assumption) (w_lnk : pt.lnk = false := by assumption) :
    Keeps pt s0 (doAlignmentTimeout s) := by
  unfold doAlignmentTimeout
  repeat' first
    | with_reducible assumption
    | (extract_lets +onlyGivenNames x; have hb : PrtBlk := x; clear hb; subst x)
    | (with_reducible apply loseAlignment_keeps)
    | (rw [State.mk_made]; with_reducible refine Keeps.upd ?_)
    | split

theorem announce_keeps {pt : Untouched} {s0 : State} (s : State) (h_s : Keeps pt s0 s) : Keeps pt s0 (announce s) := by
  unfold announce
  repeat' first
    | with_reducible assumption
    | (intro _)
    | (extract_lets +onlyGivenNames x; refine (fun hx : Keeps pt s0 x => ?_) ?_; try clear_value x; rotate_left; unfold x; clear x; rotate_right; rename State => z)
    | (extract_lets +onlyGivenNames x; have hb : MemBlk := x; clear hb; subst x)
    | (extract_lets +onlyGivenNames x; have hb : CoresBlk := x; clear hb; subst x)
    | (extract_lets +onlyGivenNames x; have hb : PrtBlk := x; clear hb; subst x)
    | (extract_lets +onlyGivenNames x; have hb : FrmBlk := x; clear hb; subst x)
    | (extract_lets +onlyGivenNames x; have hb : KprBlk := x; clear hb; subst x)
    | (extract_lets +onlyGivenNames x; have hb : HifBlk := x; clear hb; subst x)
    | (extract_lets +onlyGivenNames x; try clear_value x; revert x; intro z)
    | (with_reducible refine Keeps.upd ?_)
    | (with_reducible apply emit_keeps)
    | (with_reducible refine Keeps.foldl _ ?_ ?_)
    | (rw [State.mk_made]; with_reducible refine Keeps.upd ?_)
    | split

theorem writeLnkDevice_keeps {pt : Untouched} {s0 : State} (v : Nat) (s : State) (h_s : Keeps pt s0 s) (w_reports : pt.reports = false := by assumption) (w_frm : pt.frm = false := by assumption) (w_lnk : pt.lnk = false := by assumption) :
    Keeps pt s0 (writeLnkDevice v s) := by
  unfold writeLnkDevice
  repeat' first
    | with_reducible assumption
    | (intro _)
    | (extract_lets +onlyGivenNames x; refine (fun hx : Keeps pt s0 x => ?_) ?_; try clear_value x; rotate_left; unfold x; clear x; rotate_right; rename State => z)
    | (with_reducible apply regWrite_keeps)
    | (with_reducible apply inState_keeps)
    | (with_reducible apply judgeMaster_keeps)
    | (with_reducible apply announce_keeps)
    | (rw [State.mk_made]; with_reducible refine Keeps.upd ?_)

theorem writeFwd_keeps {pt : Untouched} {s0 : State} (j v : Nat) (s : State) (h_s : Keeps pt s0 s) (w_reports : pt.reports = false := by assumption) (w_lnk : pt.lnk = false := by assumption) :
    Keeps pt s0 (writeFwd j v s) := by
  unfold writeFwd
  repeat' first
    | with_reducible assumption
    | (intro _)
    | (extract_lets +onlyGivenNames x; refine (fun hx : Keeps pt s0 x => ?_) ?_; try clear_value x; rotate_left; unfold x; clear x; rotate_right; rename State => z)
    | (with_reducible apply inState_keeps)
    | (rw [State.mk_made]; with_reducible refine Keeps.upd ?_)

theorem beginTraining_keeps {pt : Untouched} {s0 : State} (l : Nat) (s : State) (h_s : Keeps pt s0 s) (w_lnk : pt.lnk = false := by assumption) :
    Keeps pt s0 (beginTraining l s) := by
  unfold beginTraining
  repeat' first
    | with_reducible assumption
    | (extract_lets +onlyGivenNames x; have hb : PrtBlk := x; clear hb; subst x)
    | (with_reducible apply setLink_keeps)

theorem setQuiesce_keeps {pt : Untouched} {s0 : State} (l : Nat) (s : State) (h_s : Keeps pt s0 s) (w_reports : pt.reports = false := by assumption) (w_frm : pt.frm = false := by assumption) (w_cores : pt.cores = false := by assumption) (w_lnk : pt.lnk = false := by assumption) :
    Keeps pt s0 (setQuiesce l s) := by
  unfold setQuiesce
  repeat' first
    | with_reducible assumption
    | (extract_lets +onlyGivenNames x; refine (fun hx : Keeps pt s0 x => ?_) ?_; try clear_value x; rotate_left; unfold x; clear x; rotate_right; rename State => z)
    | (extract_lets +onlyGivenNames x; have hb : PrtBlk := x; clear hb; subst x)
    | (extract_lets +onlyGivenNames x; try clear_value x; revert x; intro z)
    | (with_reducible apply setLink_keeps)
    | (with_reducible apply settleQuiesce_keeps)
    | (with_reducible apply linkDown_keeps)
    | split

theorem clearQuiesce_keeps {pt : Untouched} {s0 : State} (l : Nat) (s : State) (h_s : Keeps pt s0 s) (w_lnk : pt.lnk = false := by assumption) :
    Keeps pt s0 (clearQuiesce l s) := by
  unfold clearQuiesce
  repeat' first
    | with_reducible assumption
    | (extract_lets +onlyGivenNames x; refine (fun hx : Keeps pt s0 x => ?_) ?_; try clear_value x; rotate_left; unfold x; clear x; rotate_right; rename State => z)
    | (extract_lets +onlyGivenNames x; have hb : PrtBlk := x; clear hb; subst x)
    | (with_reducible apply setLink_keeps)
    | (with_reducible apply beginTraining_keeps)
    | split

theorem writeLinkWord1_keeps {pt : Untouched} {s0 : State} (l v : Nat) (s : State) (h_s : Keeps pt s0 s) (w_reports : pt.reports = false := by assumption) (w_frm : pt.frm = false := by assumption) (w_cores : pt.cores = false := by assumption) (w_lnk : pt.lnk = false := by assumption) :
    Keeps pt s0 (writeLinkWord1 l v s) := by
  unfold writeLinkWord1
  repeat' first
    | with_reducible assumption
    | (intro _)
    | (extract_lets +onlyGivenNames x; refine (fun hx : Keeps pt s0 x => ?_) ?_; try clear_value x; rotate_left; unfold x; clear x; rotate_right; rename State => z)
    | (with_reducible apply regWrite_keeps)
    | (with_reducible apply refuse_keeps)
    | (with_reducible apply setLink_keeps)
    | (with_reducible apply setQuiesce_keeps)
    | (with_reducible apply clearQuiesce_keeps)
    | split

theorem doQuiesceSet_keeps {pt : Untouched} {s0 : State} (l : Nat) (s : State) (h_s : Keeps pt s0 s) (w_reports : pt.reports = false := by assumption) (w_frm : pt.frm = false := by assumption) (w_cores : pt.cores = false := by assumption) (w_lnk : pt.lnk = false := by assumption) :
    Keeps pt s0 (doQuiesceSet l s) := by
  unfold doQuiesceSet
  repeat' first
    | with_reducible assumption
    | (extract_lets +onlyGivenNames x; have hb : PrtBlk := x; clear hb; subst x)
    | (with_reducible apply writeLinkWord1_keeps)

theorem doQuiesceClear_keeps {pt : Untouched} {s0 : State} (l : Nat) (s : State) (h_s : Keeps pt s0 s) (w_reports : pt.reports = false := by assumption) (w_frm : pt.frm = false := by assumption) (w_cores : pt.cores = false := by assumption) (w_lnk : pt.lnk = false := by assumption) :
    Keeps pt s0 (doQuiesceClear l s) := by
  unfold doQuiesceClear
  repeat' first
    | with_reducible assumption
    | (extract_lets +onlyGivenNames x; have hb : PrtBlk := x; clear hb; subst x)
    | (with_reducible apply writeLinkWord1_keeps)

theorem doDatelineWrite_keeps {pt : Untouched} {s0 : State} (l : Nat) (on : Bool) (s : State) (h_s : Keeps pt s0 s) (w_reports : pt.reports = false := by assumption) (w_frm : pt.frm = false := by assumption) (w_cores : pt.cores = false := by assumption) (w_lnk : pt.lnk = false := by assumption) :
    Keeps pt s0 (doDatelineWrite l on s) := by
  unfold doDatelineWrite
  repeat' first
    | with_reducible assumption
    | (extract_lets +onlyGivenNames x; have hb : PrtBlk := x; clear hb; subst x)
    | (with_reducible apply writeLinkWord1_keeps)

theorem startRacc_keeps {pt : Untouched} {s0 : State} (s : State) (h_s : Keeps pt s0 s) (w_reports : pt.reports = false := by assumption) (w_frm : pt.frm = false := by assumption) (w_cores : pt.cores = false := by assumption) (w_net : pt.net = false := by assumption) (w_lnk : pt.lnk = false := by assumption) :
    Keeps pt s0 (startRacc s) := by
  unfold startRacc
  repeat' first
    | with_reducible assumption
    | (extract_lets +onlyGivenNames x; refine (fun hx : Keeps pt s0 x => ?_) ?_; try clear_value x; rotate_left; unfold x; clear x; rotate_right; rename State => z)
    | (extract_lets +onlyGivenNames x; have hb : PrtBlk := x; clear hb; subst x)
    | (extract_lets +onlyGivenNames x; try clear_value x; revert x; intro z)
    | (with_reducible apply issueRequest_keeps)
    | (rw [State.mk_made]; with_reducible refine Keeps.upd ?_)
    | split

theorem writeRaccCmd_keeps {pt : Untouched} {s0 : State} (v : Nat) (s : State) (h_s : Keeps pt s0 s) (w_reports : pt.reports = false := by assumption) (w_frm : pt.frm = false := by assumption) (w_cores : pt.cores = false := by assumption) (w_net : pt.net = false := by assumption) (w_lnk : pt.lnk = false := by assumption) :
    Keeps pt s0 (writeRaccCmd v s) := by
  unfold writeRaccCmd
  repeat' first
    | with_reducible assumption
    | (intro _)
    | (extract_lets +onlyGivenNames x; refine (fun hx : Keeps pt s0 x => ?_) ?_; try clear_value x; rotate_left; unfold x; clear x; rotate_right; rename State => z)
    | (with_reducible apply regWrite_keeps)
    | (with_reducible apply refuse_keeps)
    | (with_reducible apply startRacc_keeps)
    | (rw [State.mk_made]; with_reducible refine Keeps.upd ?_)
    | split

theorem writeRaccAddr_keeps {pt : Untouched} {s0 : State} (v : Nat) (s : State) (h_s : Keeps pt s0 s) (w_reports : pt.reports = false := by assumption) (w_lnk : pt.lnk = false := by assumption) :
    Keeps pt s0 (writeRaccAddr v s) := by
  unfold writeRaccAddr
  repeat' first
    | with_reducible assumption
    | (intro _)
    | (extract_lets +onlyGivenNames x; refine (fun hx : Keeps pt s0 x => ?_) ?_; try clear_value x; rotate_left; unfold x; clear x; rotate_right; rename State => z)
    | (with_reducible apply regWrite_keeps)
    | (with_reducible apply refuse_keeps)
    | (rw [State.mk_made]; with_reducible refine Keeps.upd ?_)
    | split

theorem writeRaccData_keeps {pt : Untouched} {s0 : State} (i v : Nat) (s : State) (h_s : Keeps pt s0 s) (w_reports : pt.reports = false := by assumption) (w_lnk : pt.lnk = false := by assumption) :
    Keeps pt s0 (writeRaccData i v s) := by
  unfold writeRaccData
  repeat' first
    | with_reducible assumption
    | (extract_lets +onlyGivenNames x; have hb : PrtBlk := x; clear hb; subst x)
    | (with_reducible apply refuse_keeps)
    | (rw [State.mk_made]; with_reducible refine Keeps.upd ?_)
    | split

theorem doRaccRead_keeps {pt : Untouched} {s0 : State} (peer : Nat) (s : State) (h_s : Keeps pt s0 s) (w_reports : pt.reports = false := by assumption) (w_frm : pt.frm = false := by assumption) (w_cores : pt.cores = false := by assumption) (w_net : pt.net = false := by assumption) (w_lnk : pt.lnk = false := by assumption) :
    Keeps pt s0 (doRaccRead peer s) := by
  unfold doRaccRead
  repeat' first
    | with_reducible assumption
    | (extract_lets +onlyGivenNames x; have hb : PrtBlk := x; clear hb; subst x)
    | (with_reducible apply writeRaccCmd_keeps)

theorem doRaccWrite_keeps {pt : Untouched} {s0 : State} (peer : Nat) (s : State) (h_s : Keeps pt s0 s) (w_reports : pt.reports = false := by assumption) (w_frm : pt.frm = false := by assumption) (w_cores : pt.cores = false := by assumption) (w_net : pt.net = false := by assumption) (w_lnk : pt.lnk = false := by assumption) :
    Keeps pt s0 (doRaccWrite peer s) := by
  unfold doRaccWrite
  repeat' first
    | with_reducible assumption
    | (extract_lets +onlyGivenNames x; have hb : PrtBlk := x; clear hb; subst x)
    | (with_reducible apply writeRaccCmd_keeps)

theorem doRaccTimeout_keeps {pt : Untouched} {s0 : State} (s : State) (h_s : Keeps pt s0 s) (w_lnk : pt.lnk = false := by assumption) :
    Keeps pt s0 (doRaccTimeout s) := by
  unfold doRaccTimeout
  repeat' first
    | with_reducible assumption
    | (extract_lets +onlyGivenNames x; have hb : PrtBlk := x; clear hb; subst x)
    | (rw [State.mk_made]; with_reducible refine Keeps.upd ?_)
    | split

theorem doLinkTrained_keeps {pt : Untouched} {s0 : State} (l lanes : Nat) (neighbour : Option Nat) (lengthM : Nat) (light : Bool) (s : State) (h_s : Keeps pt s0 s) (w_lnk : pt.lnk = false := by assumption) :
    Keeps pt s0 (doLinkTrained l lanes neighbour lengthM light s) := by
  unfold doLinkTrained
  repeat' first
    | with_reducible assumption
    | (intro _)
    | (extract_lets +onlyGivenNames x; refine (fun hx : Keeps pt s0 x => ?_) ?_; try clear_value x; rotate_left; unfold x; clear x; rotate_right; rename State => z)
    | (extract_lets +onlyGivenNames x; have hb : MemBlk := x; clear hb; subst x)
    | (extract_lets +onlyGivenNames x; have hb : CoresBlk := x; clear hb; subst x)
    | (extract_lets +onlyGivenNames x; have hb : PrtBlk := x; clear hb; subst x)
    | (extract_lets +onlyGivenNames x; have hb : FrmBlk := x; clear hb; subst x)
    | (extract_lets +onlyGivenNames x; have hb : KprBlk := x; clear hb; subst x)
    | (extract_lets +onlyGivenNames x; have hb : HifBlk := x; clear hb; subst x)
    | (extract_lets +onlyGivenNames x; try clear_value x; revert x; intro z)
    | (with_reducible refine Keeps.upd ?_)
    | (with_reducible apply setLink_keeps)
    | (with_reducible apply noteLoss_keeps)
    | (with_reducible apply judgeNeighbour_keeps)
    | (rw [State.mk_made]; with_reducible refine Keeps.upd ?_)
    | split

theorem doLinkTrainRetry_keeps {pt : Untouched} {s0 : State} (l : Nat) (light : Bool) (s : State) (h_s : Keeps pt s0 s) (w_lnk : pt.lnk = false := by assumption) :
    Keeps pt s0 (doLinkTrainRetry l light s) := by
  unfold doLinkTrainRetry
  repeat' first
    | with_reducible assumption
    | (extract_lets +onlyGivenNames x; refine (fun hx : Keeps pt s0 x => ?_) ?_; try clear_value x; rotate_left; unfold x; clear x; rotate_right; rename State => z)
    | (extract_lets +onlyGivenNames x; have hb : PrtBlk := x; clear hb; subst x)
    | (extract_lets +onlyGivenNames x; try clear_value x; revert x; intro z)
    | (with_reducible apply setLink_keeps)
    | (with_reducible apply beginTraining_keeps)
    | split

theorem doNeighbourIdAnnounce_keeps {pt : Untouched} {s0 : State} (l : Nat) (neighbour : Option Nat) (s : State) (h_s : Keeps pt s0 s) (w_lnk : pt.lnk = false := by assumption) :
    Keeps pt s0 (doNeighbourIdAnnounce l neighbour s) := by
  unfold doNeighbourIdAnnounce
  repeat' first
    | with_reducible assumption
    | (extract_lets +onlyGivenNames x; have hb : PrtBlk := x; clear hb; subst x)
    | (with_reducible apply setLink_keeps)
    | (with_reducible apply judgeNeighbour_keeps)
    | (with_reducible apply drainLink_keeps)
    | split

theorem dropLane_keeps {pt : Untouched} {s0 : State} (l i : Nat) (s : State) (h_s : Keeps pt s0 s) (w_reports : pt.reports = false := by assumption) (w_frm : pt.frm = false := by assumption) (w_cores : pt.cores = false := by assumption) (w_lnk : pt.lnk = false := by assumption) :
    Keeps pt s0 (dropLane l i s) := by
  unfold dropLane
  repeat' first
    | with_reducible assumption
    | (intro _)
    | (extract_lets +onlyGivenNames x; refine (fun hx : Keeps pt s0 x => ?_) ?_; try clear_value x; rotate_left; unfold x; clear x; rotate_right; rename State => z)
    | (extract_lets +onlyGivenNames x; have hb : MemBlk := x; clear hb; subst x)
    | (extract_lets +onlyGivenNames x; have hb : CoresBlk := x; clear hb; subst x)
    | (extract_lets +onlyGivenNames x; have hb : PrtBlk := x; clear hb; subst x)
    | (extract_lets +onlyGivenNames x; have hb : FrmBlk := x; clear hb; subst x)
    | (extract_lets +onlyGivenNames x; have hb : KprBlk := x; clear hb; subst x)
    | (extract_lets +onlyGivenNames x; have hb : HifBlk := x; clear hb; subst x)
    | (extract_lets +onlyGivenNames x; try clear_value x; revert x; intro z)
    | (with_reducible refine Keeps.upd ?_)
    | (with_reducible apply rewidth_keeps)
    | (with_reducible apply setLink_keeps)
    | (rw [State.mk_made]; with_reducible refine Keeps.upd ?_)
    | split

theorem doLaneDrop_keeps {pt : Untouched} {s0 : State} (l i uncorrectable corrected : Nat) (s : State) (h_s : Keeps pt s0 s) (w_reports : pt.reports = false := by assumption) (w_frm : pt.frm = false := by assumption) (w_cores : pt.cores = false := by assumption) (w_lnk : pt.lnk = false := by assumption) :
    Keeps pt s0 (doLaneDrop l i uncorrectable corrected s) := by
  unfold doLaneDrop
  repeat' first
    | with_reducible assumption
    | (extract_lets +onlyGivenNames x; have hb : PrtBlk := x; clear hb; subst x)
    | (with_reducible apply dropLane_keeps)
    | (with_reducible apply setLink_keeps)
    | split

theorem lightLane_keeps {pt : Untouched} {s0 : State} (l i : Nat) (s : State) (h_s : Keeps pt s0 s) (w_lnk : pt.lnk = false := by assumption) :
    Keeps pt s0 (lightLane l i s) := by
  unfold lightLane
  repeat' first
    | with_reducible assumption
    | (intro _)
    | (extract_lets +onlyGivenNames x; refine (fun hx : Keeps pt s0 x => ?_) ?_; try clear_value x; rotate_left; unfold x; clear x; rotate_right; rename State => z)
    | (extract_lets +onlyGivenNames x; have hb : MemBlk := x; clear hb; subst x)
    | (extract_lets +onlyGivenNames x; have hb : CoresBlk := x; clear hb; subst x)
    | (extract_lets +onlyGivenNames x; have hb : PrtBlk := x; clear hb; subst x)
    | (extract_lets +onlyGivenNames x; have hb : FrmBlk := x; clear hb; subst x)
    | (extract_lets +onlyGivenNames x; have hb : KprBlk := x; clear hb; subst x)
    | (extract_lets +onlyGivenNames x; have hb : HifBlk := x; clear hb; subst x)
    | (extract_lets +onlyGivenNames x; try clear_value x; revert x; intro z)
    | (with_reducible refine Keeps.upd ?_)
    | (with_reducible apply setLink_keeps)
    | (rw [State.mk_made]; with_reducible refine Keeps.upd ?_)
    | split

theorem admitLane_keeps {pt : Untouched} {s0 : State} (l i : Nat) (s : State) (h_s : Keeps pt s0 s) (w_reports : pt.reports = false := by assumption) (w_frm : pt.frm = false := by assumption) (w_cores : pt.cores = false := by assumption) (w_lnk : pt.lnk = false := by assumption) :
    Keeps pt s0 (admitLane l i s) := by
  unfold admitLane
  repeat' first
    | with_reducible assumption
    | (intro _)
    | (extract_lets +onlyGivenNames x; refine (fun hx : Keeps pt s0 x => ?_) ?_; try clear_value x; rotate_left; unfold x; clear x; rotate_right; rename State => z)
    | (extract_lets +onlyGivenNames x; have hb : MemBlk := x; clear hb; subst x)
    | (extract_lets +onlyGivenNames x; have hb : CoresBlk := x; clear hb; subst x)
    | (extract_lets +onlyGivenNames x; have hb : PrtBlk := x; clear hb; subst x)
    | (extract_lets +onlyGivenNames x; have hb : FrmBlk := x; clear hb; subst x)
    | (extract_lets +onlyGivenNames x; have hb : KprBlk := x; clear hb; subst x)
    | (extract_lets +onlyGivenNames x; have hb : HifBlk := x; clear hb; subst x)
    | (extract_lets +onlyGivenNames x; try clear_value x; revert x; intro z)
    | (with_reducible refine Keeps.upd ?_)
    | (with_reducible apply setLink_keeps)
    | (with_reducible apply rewidth_keeps)
    | (rw [State.mk_made]; with_reducible refine Keeps.upd ?_)
    | split

theorem doLaneAdd_keeps {pt : Untouched} {s0 : State} (l i : Nat) (s : State) (h_s : Keeps pt s0 s) (w_reports : pt.reports = false := by assumption) (w_frm : pt.frm = false := by assumption) (w_cores : pt.cores = false := by assumption) (w_lnk : pt.lnk = false := by assumption) :
    Keeps pt s0 (doLaneAdd l i s) := by
  unfold doLaneAdd
  repeat' first
    | with_reducible assumption
    | (intro _)
    | (extract_lets +onlyGivenNames x; refine (fun hx : Keeps pt s0 x => ?_) ?_; try clear_value x; rotate_left; unfold x; clear x; rotate_right; rename State => z)
    | (extract_lets +onlyGivenNames x; have hb : MemBlk := x; clear hb; subst x)
    | (extract_lets +onlyGivenNames x; have hb : CoresBlk := x; clear hb; subst x)
    | (extract_lets +onlyGivenNames x; have hb : PrtBlk := x; clear hb; subst x)
    | (extract_lets +onlyGivenNames x; have hb : FrmBlk := x; clear hb; subst x)
    | (extract_lets +onlyGivenNames x; have hb : KprBlk := x; clear hb; subst x)
    | (extract_lets +onlyGivenNames x; have hb : HifBlk := x; clear hb; subst x)
    | (extract_lets +onlyGivenNames x; try clear_value x; revert x; intro z)
    | (with_reducible refine Keeps.upd ?_)
    | (with_reducible apply lightLane_keeps)
    | (with_reducible apply admitLane_keeps)
    | (rw [State.mk_made]; with_reducible refine Keeps.upd ?_)
    | split

theorem setCart_keeps {pt : Untouched} {s0 : State} (k : Nat) (f : Cart → Cart) (s : State) (h_s : Keeps pt s0 s) (w_lnk : pt.lnk = false := by assumption) :
    Keeps pt s0 (setCart k f s) := by
  unfold setCart
  repeat' first
    | with_reducible assumption
    | (extract_lets +onlyGivenNames x; have hb : PrtBlk := x; clear hb; subst x)
    | (rw [State.mk_made]; with_reducible refine Keeps.upd ?_)

theorem doLaserFail_keeps {pt : Untouched} {s0 : State} (k w : Nat) (s : State) (h_s : Keeps pt s0 s) (w_reports : pt.reports = false := by assumption) (w_frm : pt.frm = false := by assumption) (w_cores : pt.cores = false := by assumption) (w_lnk : pt.lnk = false := by assumption) :
    Keeps pt s0 (doLaserFail k w s) := by
  unfold doLaserFail
  repeat' first
    | with_reducible assumption
    | (intro _)
    | (extract_lets +onlyGivenNames x; refine (fun hx : Keeps pt s0 x => ?_) ?_; try clear_value x; rotate_left; unfold x; clear x; rotate_right; rename State => z)
    | (extract_lets +onlyGivenNames x; try clear_value x; revert x; intro z)
    | (with_reducible apply setCart_keeps)
    | (with_reducible apply raise_keeps)
    | (with_reducible apply dropLane_keeps)
    | (with_reducible refine Keeps.foldl _ ?_ ?_)
    | split

theorem doSpareLaserInService_keeps {pt : Untouched} {s0 : State} (k w : Nat) (s : State) (h_s : Keeps pt s0 s) (w_reports : pt.reports = false := by assumption) (w_lnk : pt.lnk = false := by assumption) :
    Keeps pt s0 (doSpareLaserInService k w s) := by
  unfold doSpareLaserInService
  repeat' first
    | with_reducible assumption
    | (extract_lets +onlyGivenNames x; have hb : PrtBlk := x; clear hb; subst x)
    | (extract_lets +onlyGivenNames x; try clear_value x; revert x; intro z)
    | (with_reducible apply raise_keeps)
    | (with_reducible apply setCart_keeps)
    | split

theorem doLaserAged_keeps {pt : Untouched} {s0 : State} (k w : Nat) (s : State) (h_s : Keeps pt s0 s) (w_reports : pt.reports = false := by assumption) (w_lnk : pt.lnk = false := by assumption) :
    Keeps pt s0 (doLaserAged k w s) := by
  unfold doLaserAged
  repeat' first
    | with_reducible assumption
    | (extract_lets +onlyGivenNames x; have hb : PrtBlk := x; clear hb; subst x)
    | (extract_lets +onlyGivenNames x; try clear_value x; revert x; intro z)
    | (with_reducible apply raise_keeps)
    | (with_reducible apply setCart_keeps)
    | split

theorem doCartridgeLeverOpen_keeps {pt : Untouched} {s0 : State} (k : Nat) (s : State) (h_s : Keeps pt s0 s) (w_reports : pt.reports = false := by assumption) (w_frm : pt.frm = false := by assumption) (w_cores : pt.cores = false := by assumption) (w_lnk : pt.lnk = false := by assumption) :
    Keeps pt s0 (doCartridgeLeverOpen k s) := by
  unfold doCartridgeLeverOpen
  repeat' first
    | with_reducible assumption
    | (intro _)
    | (extract_lets +onlyGivenNames x; refine (fun hx : Keeps pt s0 x => ?_) ?_; try clear_value x; rotate_left; unfold x; clear x; rotate_right; rename State => z)
    | (extract_lets +onlyGivenNames x; have hb : MemBlk := x; clear hb; subst x)
    | (extract_lets +onlyGivenNames x; have hb : CoresBlk := x; clear hb; subst x)
    | (extract_lets +onlyGivenNames x; have hb : PrtBlk := x; clear hb; subst x)
    | (extract_lets +onlyGivenNames x; have hb : FrmBlk := x; clear hb; subst x)
    | (extract_lets +onlyGivenNames x; have hb : KprBlk := x; clear hb; subst x)
    | (extract_lets +onlyGivenNames x; have hb : HifBlk := x; clear hb; subst x)
    | (extract_lets +onlyGivenNames x; try clear_value x; revert x; intro z)
    | (with_reducible refine Keeps.upd ?_)
    | (with_reducible apply setCart_keeps)
    | (with_reducible apply raise_keeps)
    | (with_reducible apply setLink_keeps)
    | (with_reducible apply linkDown_keeps)
    | (with_reducible refine Keeps.foldl _ ?_ ?_)
    | (rw [State.mk_made]; with_reducible refine Keeps.upd ?_)
    | split

theorem takeTrailer_keeps {pt : Untouched} {s0 : State} (l : Nat) (f : LinkFlit) (s : State) (h_s : Keeps pt s0 s) (w_reports : pt.reports = false := by assumption) (w_frm : pt.frm = false := by assumption) (w_cores : pt.cores = false := by assumption) (w_lnk : pt.lnk = false := by assumption) :
    Keeps pt s0 (takeTrailer l f s) := by
  unfold takeTrailer
  repeat' first
    | with_reducible assumption
    | (extract_lets +onlyGivenNames x; have hb : PrtBlk := x; clear hb; subst x)
    | (with_reducible apply setLink_keeps)
    | (with_reducible apply settleQuiesce_keeps)
    | (with_reducible apply drainLink_keeps)

theorem receive_keeps {pt : Untouched} {s0 : State} (l : Nat) (f : LinkFlit) (body : State → State) (s : State) (k_body : ∀ x, Keeps pt s0 x → Keeps pt s0 (body x)) (h_s : Keeps pt s0 s) (w_reports : pt.reports = false := by assumption) (w_frm : pt.frm = false := by assumption) (w_cores : pt.cores = false := by assumption) (w_lnk : pt.lnk = false := by assumption) :
    Keeps pt s0 (receive l f body s) := by
  unfold receive
  repeat' first
    | with_reducible assumption
    | (intro _)
    | (extract_lets +onlyGivenNames x; refine (fun hx : Keeps pt s0 x => ?_) ?_; try clear_value x; rotate_left; unfold x; clear x; rotate_right; rename State => z)
    | (extract_lets +onlyGivenNames x; have hb : MemBlk := x; clear hb; subst x)
    | (extract_lets +onlyGivenNames x; have hb : CoresBlk := x; clear hb; subst x)
    | (extract_lets +onlyGivenNames x; have hb : PrtBlk := x; clear hb; subst x)
    | (extract_lets +onlyGivenNames x; have hb : FrmBlk := x; clear hb; subst x)
    | (extract_lets +onlyGivenNames x; have hb : KprBlk := x; clear hb; subst x)
    | (extract_lets +onlyGivenNames x; have hb : HifBlk := x; clear hb; subst x)
    | (extract_lets +onlyGivenNames x; try clear_value x; revert x; intro z)
    | (with_reducible refine Keeps.upd ?_)
    | (with_reducible apply k_body)
    | (with_reducible apply sendIdle_keeps)
    | (with_reducible apply setLink_keeps)
    | (with_reducible apply takeTrailer_keeps)
    | (rw [State.mk_made]; with_reducible refine Keeps.upd ?_)
    | split

theorem forward_keeps {pt : Untouched} {s0 : State} (i : Nat) (f : Flit) (s : State) (h_s : Keeps pt s0 s) (w_reports : pt.reports = false := by assumption) (w_frm : pt.frm = false := by assumption) (w_cores : pt.cores = false := by assumption) (w_net : pt.net = false := by assumption) (w_lnk : pt.lnk = false := by assumption) :
    Keeps pt s0 (forward i f s) := by
  unfold forward
  repeat' first
    | with_reducible assumption
    | (intro _)
    | (extract_lets +onlyGivenNames x; refine (fun hx : Keeps pt s0 x => ?_) ?_; try clear_value x; rotate_left; unfold x; clear x; rotate_right; rename State => z)
    | (extract_lets +onlyGivenNames x; have hb : MemBlk := x; clear hb; subst x)
    | (extract_lets +onlyGivenNames x; have hb : CoresBlk := x; clear hb; subst x)
    | (extract_lets +onlyGivenNames x; have hb : PrtBlk := x; clear hb; subst x)
    | (extract_lets +onlyGivenNames x; have hb : FrmBlk := x; clear hb; subst x)
    | (extract_lets +onlyGivenNames x; have hb : KprBlk := x; clear hb; subst x)
    | (extract_lets +onlyGivenNames x; have hb : HifBlk := x; clear hb; subst x)
    | (extract_lets +onlyGivenNames x; try clear_value x; revert x; intro z)
    | (with_reducible refine Keeps.upd ?_)
    | (with_reducible apply oweCredit_keeps)
    | (with_reducible apply discardFlit_keeps)
    | (with_reducible apply queueFrom_keeps)
    | (with_reducible apply crossNet_keeps)
    | (rw [State.mk_made]; with_reducible refine Keeps.upd ?_)
    | split

theorem route_keeps {pt : Untouched} {s0 : State} (i : Nat) (f : Flit) (here : State → State) (s : State) (k_here : ∀ x, Keeps pt s0 x → Keeps pt s0 (here x)) (h_s : Keeps pt s0 s) (w_reports : pt.reports = false := by assumption) (w_frm : pt.frm = false := by assumption) (w_cores : pt.cores = false := by assumption) (w_net : pt.net = false := by assumption) (w_lnk : pt.lnk = false := by assumption) :
    Keeps pt s0 (route i f here s) := by
  unfold route
  repeat' first
    | with_reducible assumption
    | (intro _)
    | (extract_lets +onlyGivenNames x; refine (fun hx : Keeps pt s0 x => ?_) ?_; try clear_value x; rotate_left; unfold x; clear x; rotate_right; rename State => z)
    | (extract_lets +onlyGivenNames x; have hb : MemBlk := x; clear hb; subst x)
    | (extract_lets +onlyGivenNames x; have hb : CoresBlk := x; clear hb; subst x)
    | (extract_lets +onlyGivenNames x; have hb : PrtBlk := x; clear hb; subst x)
    | (extract_lets +onlyGivenNames x; have hb : FrmBlk := x; clear hb; subst x)
    | (extract_lets +onlyGivenNames x; have hb : KprBlk := x; clear hb; subst x)
    | (extract_lets +onlyGivenNames x; have hb : HifBlk := x; clear hb; subst x)
    | (extract_lets +onlyGivenNames x; try clear_value x; revert x; intro z)
    | (with_reducible refine Keeps.upd ?_)
    | (with_reducible apply k_here)
    | (with_reducible apply sendResponse_keeps)
    | (with_reducible apply oweCredit_keeps)
    | (with_reducible apply forward_keeps)
    | (rw [State.mk_made]; with_reducible refine Keeps.upd ?_)
    | split

theorem notAdmitted_keeps {pt : Untouched} {s0 : State} (f : Flit) (s : State) (h_s : Keeps pt s0 s) (w_reports : pt.reports = false := by assumption) (w_lnk : pt.lnk = false := by assumption) :
    Keeps pt s0 (notAdmitted f s) := by
  unfold notAdmitted
  repeat' first
    | with_reducible assumption
    | (extract_lets +onlyGivenNames x; refine (fun hx : Keeps pt s0 x => ?_) ?_; try clear_value x; rotate_left; unfold x; clear x; rotate_right; rename State => z)
    | (extract_lets +onlyGivenNames x; have hb : PrtBlk := x; clear hb; subst x)
    | (extract_lets +onlyGivenNames x; try clear_value x; revert x; intro z)
    | (with_reducible apply raise_keeps)
    | (rw [State.mk_made]; with_reducible refine Keeps.upd ?_)
    | split

theorem suppressPeer_keeps {pt : Untouched} {s0 : State} (f : Flit) (s : State) (h_s : Keeps pt s0 s) (w_stacked : pt.stacked = false := by assumption) (w_reports : pt.reports = false := by assumption) (w_hif : pt.hif = false := by assumption) (w_frm : pt.frm = false := by assumption) (w_cores : pt.cores = false := by assumption) (w_mem : pt.mem = false := by assumption) (w_net : pt.net = false := by assumption) (w_bnk : pt.bnk = false := by assumption) (w_walkers : pt.walkers = false := by assumption) (w_req : pt.req = false := by assumption) (w_lnk : pt.lnk = false := by assumption) :
    Keeps pt s0 (suppressPeer f s) := by
  unfold suppressPeer
  repeat' first
    | with_reducible assumption
    | (intro _)
    | (extract_lets +onlyGivenNames x; refine (fun hx : Keeps pt s0 x => ?_) ?_; try clear_value x; rotate_left; unfold x; clear x; rotate_right; rename State => z)
    | (extract_lets +onlyGivenNames x; have hb : MemBlk := x; clear hb; subst x)
    | (extract_lets +onlyGivenNames x; have hb : CoresBlk := x; clear hb; subst x)
    | (extract_lets +onlyGivenNames x; have hb : PrtBlk := x; clear hb; subst x)
    | (extract_lets +onlyGivenNames x; have hb : FrmBlk := x; clear hb; subst x)
    | (extract_lets +onlyGivenNames x; have hb : KprBlk := x; clear hb; subst x)
    | (extract_lets +onlyGivenNames x; have hb : HifBlk := x; clear hb; subst x)
    | (extract_lets +onlyGivenNames x; try clear_value x; revert x; intro z)
    | (with_reducible refine Keeps.upd ?_)
    | (with_reducible apply lockstepFault_keeps)
    | (with_reducible apply sendCompletion_keeps)
    | (rw [State.mk_made]; with_reducible refine Keeps.upd ?_)
    | split

theorem performWrite_keeps {pt : Untouched} {s0 : State} (l : Nat) (parity : Bool) (f : Flit) (s : State) (h_s : Keeps pt s0 s) (w_stacked : pt.stacked = false := by assumption) (w_reports : pt.reports = false := by assumption) (w_hif : pt.hif = false := by assumption) (w_mem : pt.mem = false := by assumption) (w_net : pt.net = false := by assumption) :
    Keeps pt s0 (performWrite l parity f s).2 := by
  unfold performWrite
  repeat' first
    | with_reducible assumption
    | (intro _)
    | (extract_lets +onlyGivenNames x; refine (fun hx : Keeps pt s0 x => ?_) ?_; try clear_value x; rotate_left; unfold x; clear x; rotate_right; rename State => z)
    | (extract_lets +onlyGivenNames x; have hb : MemBlk := x; clear hb; subst x)
    | (extract_lets +onlyGivenNames x; have hb : CoresBlk := x; clear hb; subst x)
    | (extract_lets +onlyGivenNames x; have hb : PrtBlk := x; clear hb; subst x)
    | (extract_lets +onlyGivenNames x; have hb : FrmBlk := x; clear hb; subst x)
    | (extract_lets +onlyGivenNames x; have hb : KprBlk := x; clear hb; subst x)
    | (extract_lets +onlyGivenNames x; have hb : HifBlk := x; clear hb; subst x)
    | (extract_lets +onlyGivenNames x; try clear_value x; revert x; intro z)
    | (with_reducible refine Keeps.upd ?_)
    | (with_reducible apply busError_keeps)
    | (with_reducible apply stagingDiscard_keeps)
    | (with_reducible apply narrowWrite_keeps)
    | (with_reducible apply writeBytes_keeps)
    | (with_reducible refine Keeps.snd (by with_reducible assumption) ?_)
    | (rw [State.mk_made]; with_reducible refine Keeps.upd ?_)
    | split

theorem performRead_keeps {pt : Untouched} {s0 : State} (l : Nat) (parity : Bool) (f : Flit) (s : State) (h_s : Keeps pt s0 s) (w_reports : pt.reports = false := by assumption) (w_mem : pt.mem = false := by assumption) (w_net : pt.net = false := by assumption) (w_lnk : pt.lnk = false := by assumption) :
    Keeps pt s0 (performRead l parity f s) := by
  unfold performRead
  repeat' first
    | with_reducible assumption
    | (intro _)
    | (extract_lets +onlyGivenNames x; refine (fun hx : Keeps pt s0 x => ?_) ?_; try clear_value x; rotate_left; unfold x; clear x; rotate_right; rename State => z)
    | (extract_lets +onlyGivenNames x; have hb : MemBlk := x; clear hb; subst x)
    | (extract_lets +onlyGivenNames x; have hb : CoresBlk := x; clear hb; subst x)
    | (extract_lets +onlyGivenNames x; have hb : PrtBlk := x; clear hb; subst x)
    | (extract_lets +onlyGivenNames x; have hb : FrmBlk := x; clear hb; subst x)
    | (extract_lets +onlyGivenNames x; have hb : KprBlk := x; clear hb; subst x)
    | (extract_lets +onlyGivenNames x; have hb : HifBlk := x; clear hb; subst x)
    | (extract_lets +onlyGivenNames x; try clear_value x; revert x; intro z)
    | (with_reducible refine Keeps.upd ?_)
    | (with_reducible apply readBytes_keeps)
    | (with_reducible apply sendResponse_keeps)
    | (with_reducible refine Keeps.snd (by with_reducible assumption) ?_)
    | (rw [State.mk_made]; with_reducible refine Keeps.upd ?_)
    | split

theorem answerWrite_keeps {pt : Untouched} {s0 : State} (l : Nat) (parity : Bool) (f : Flit) (s : State) (h_s : Keeps pt s0 s) (w_stacked : pt.stacked = false := by assumption) (w_reports : pt.reports = false := by assumption) (w_hif : pt.hif = false := by assumption) (w_mem : pt.mem = false := by assumption) (w_net : pt.net = false := by assumption) (w_lnk : pt.lnk = false := by assumption) :
    Keeps pt s0 (answerWrite l parity f s) := by
  unfold answerWrite
  repeat' first
    | with_reducible assumption
    | (intro _)
    | (extract_lets +onlyGivenNames x; refine (fun hx : Keeps pt s0 x => ?_) ?_; try clear_value x; rotate_left; unfold x; clear x; rotate_right; rename State => z)
    | (extract_lets +onlyGivenNames x; have hb : MemBlk := x; clear hb; subst x)
    | (extract_lets +onlyGivenNames x; have hb : CoresBlk := x; clear hb; subst x)
    | (extract_lets +onlyGivenNames x; have hb : PrtBlk := x; clear hb; subst x)
    | (extract_lets +onlyGivenNames x; have hb : FrmBlk := x; clear hb; subst x)
    | (extract_lets +onlyGivenNames x; have hb : KprBlk := x; clear hb; subst x)
    | (extract_lets +onlyGivenNames x; have hb : HifBlk := x; clear hb; subst x)
    | (extract_lets +onlyGivenNames x; try clear_value x; revert x; intro z)
    | (with_reducible refine Keeps.upd ?_)
    | (with_reducible apply performWrite_keeps)
    | (with_reducible apply sendResponse_keeps)
    | (with_reducible refine Keeps.snd (by with_reducible assumption) ?_)
    | (rw [State.mk_made]; with_reducible refine Keeps.upd ?_)
    | split

theorem peerWrite_keeps {pt : Untouched} {s0 : State} (l : Nat) (parity : Bool) (f : Flit) (s : State) (h_s : Keeps pt s0 s) (w_stacked : pt.stacked = false := by assumption) (w_reports : pt.reports = false := by assumption) (w_hif : pt.hif = false := by assumption) (w_frm : pt.frm = false := by assumption) (w_cores : pt.cores = false := by assumption) (w_mem : pt.mem = false := by assumption) (w_net : pt.net = false := by assumption) (w_bnk : pt.bnk = false := by assumption) (w_walkers : pt.walkers = false := by assumption) (w_req : pt.req = false := by assumption) (w_lnk : pt.lnk = false := by assumption) :
    Keeps pt s0 (peerWrite l parity f s) := by
  unfold peerWrite
  repeat' first
    | with_reducible assumption
    | (intro _)
    | (extract_lets +onlyGivenNames x; refine (fun hx : Keeps pt s0 x => ?_) ?_; try clear_value x; rotate_left; unfold x; clear x; rotate_right; rename State => z)
    | (extract_lets +onlyGivenNames x; have hb : MemBlk := x; clear hb; subst x)
    | (extract_lets +onlyGivenNames x; have hb : CoresBlk := x; clear hb; subst x)
    | (extract_lets +onlyGivenNames x; have hb : PrtBlk := x; clear hb; subst x)
    | (extract_lets +onlyGivenNames x; have hb : FrmBlk := x; clear hb; subst x)
    | (extract_lets +onlyGivenNames x; have hb : KprBlk := x; clear hb; subst x)
    | (extract_lets +onlyGivenNames x; have hb : HifBlk := x; clear hb; subst x)
    | (extract_lets +onlyGivenNames x; try clear_value x; revert x; intro z)
    | (with_reducible refine Keeps.upd ?_)
    | (with_reducible apply sendResponse_keeps)
    | (with_reducible apply notAdmitted_keeps)
    | (with_reducible apply suppressPeer_keeps)
    | (with_reducible apply holdRequest_keeps)
    | (with_reducible apply answerWrite_keeps)
    | (rw [State.mk_made]; with_reducible refine Keeps.upd ?_)
    | split

theorem peerRead_keeps {pt : Untouched} {s0 : State} (l : Nat) (parity : Bool) (f : Flit) (s : State) (h_s : Keeps pt s0 s) (w_reports : pt.reports = false := by assumption) (w_mem : pt.mem = false := by assumption) (w_net : pt.net = false := by assumption) (w_lnk : pt.lnk = false := by assumption) :
    Keeps pt s0 (peerRead l parity f s) := by
  unfold peerRead
  repeat' first
    | with_reducible assumption
    | (intro _)
    | (extract_lets +onlyGivenNames x; refine (fun hx : Keeps pt s0 x => ?_) ?_; try clear_value x; rotate_left; unfold x; clear x; rotate_right; rename State => z)
    | (extract_lets +onlyGivenNames x; have hb : MemBlk := x; clear hb; subst x)
    | (extract_lets +onlyGivenNames x; have hb : CoresBlk := x; clear hb; subst x)
    | (extract_lets +onlyGivenNames x; have hb : PrtBlk := x; clear hb; subst x)
    | (extract_lets +onlyGivenNames x; have hb : FrmBlk := x; clear hb; subst x)
    | (extract_lets +onlyGivenNames x; have hb : KprBlk := x; clear hb; subst x)
    | (extract_lets +onlyGivenNames x; have hb : HifBlk := x; clear hb; subst x)
    | (extract_lets +onlyGivenNames x; try clear_value x; revert x; intro z)
    | (with_reducible refine Keeps.upd ?_)
    | (with_reducible apply sendResponse_keeps)
    | (with_reducible apply notAdmitted_keeps)
    | (with_reducible apply holdRequest_keeps)
    | (with_reducible apply performRead_keeps)
    | (rw [State.mk_made]; with_reducible refine Keeps.upd ?_)
    | split

theorem doOviWriteFlit_keeps {pt : Untouched} {s0 : State} (l : Nat) (f : LinkFlit) (parity : Bool) (s : State) (h_s : Keeps pt s0 s) (w_stacked : pt.stacked = false := by assumption) (w_reports : pt.reports = false := by assumption) (w_hif : pt.hif = false := by assumption) (w_frm : pt.frm = false := by assumption) (w_cores : pt.cores = false := by assumption) (w_mem : pt.mem = false := by assumption) (w_net : pt.net = false := by assumption) (w_bnk : pt.bnk = false := by assumption) (w_walkers : pt.walkers = false := by assumption) (w_req : pt.req = false := by assumption) (w_lnk : pt.lnk = false := by assumption) :
    Keeps pt s0 (doOviWriteFlit l f parity s) := by
  unfold doOviWriteFlit
  repeat' first
    | with_reducible assumption
    | (intro _)
    | (extract_lets +onlyGivenNames x; refine (fun hx : Keeps pt s0 x => ?_) ?_; try clear_value x; rotate_left; unfold x; clear x; rotate_right; rename State => z)
    | (extract_lets +onlyGivenNames x; have hb : MemBlk := x; clear hb; subst x)
    | (extract_lets +onlyGivenNames x; have hb : CoresBlk := x; clear hb; subst x)
    | (extract_lets +onlyGivenNames x; have hb : PrtBlk := x; clear hb; subst x)
    | (extract_lets +onlyGivenNames x; have hb : FrmBlk := x; clear hb; subst x)
    | (extract_lets +onlyGivenNames x; have hb : KprBlk := x; clear hb; subst x)
    | (extract_lets +onlyGivenNames x; have hb : HifBlk := x; clear hb; subst x)
    | (extract_lets +onlyGivenNames x; try clear_value x; revert x; intro z)
    | (with_reducible refine Keeps.upd ?_)
    | (with_reducible apply receive_keeps)
    | (with_reducible apply route_keeps)
    | (with_reducible apply peerWrite_keeps)
    | (rw [State.mk_made]; with_reducible refine Keeps.upd ?_)
    | split

theorem doOviReadFlit_keeps {pt : Untouched} {s0 : State} (l : Nat) (f : LinkFlit) (parity : Bool) (flips : List (Nat × Nat)) (s : State) (h_s : Keeps pt s0 s) (w_stacked : pt.stacked = false := by assumption) (w_reports : pt.reports = false := by assumption) (w_frm : pt.frm = false := by assumption) (w_cores : pt.cores = false := by assumption) (w_mem : pt.mem = false := by assumption) (w_net : pt.net = false := by assumption) (w_lnk : pt.lnk = false := by assumption) :
    Keeps pt s0 (doOviReadFlit l f parity flips s) := by
  unfold doOviReadFlit
  repeat' first
    | with_reducible assumption
    | (intro _)
    | (extract_lets +onlyGivenNames x; refine (fun hx : Keeps pt s0 x => ?_) ?_; try clear_value x; rotate_left; unfold x; clear x; rotate_right; rename State => z)
    | (extract_lets +onlyGivenNames x; have hb : MemBlk := x; clear hb; subst x)
    | (extract_lets +onlyGivenNames x; have hb : CoresBlk := x; clear hb; subst x)
    | (extract_lets +onlyGivenNames x; have hb : PrtBlk := x; clear hb; subst x)
    | (extract_lets +onlyGivenNames x; have hb : FrmBlk := x; clear hb; subst x)
    | (extract_lets +onlyGivenNames x; have hb : KprBlk := x; clear hb; subst x)
    | (extract_lets +onlyGivenNames x; have hb : HifBlk := x; clear hb; subst x)
    | (extract_lets +onlyGivenNames x; try clear_value x; revert x; intro z)
    | (with_reducible refine Keeps.upd ?_)
    | (with_reducible apply receive_keeps)
    | (with_reducible apply route_keeps)
    | (with_reducible apply peerRead_keeps)
    | (with_reducible apply flipSymbols_keeps)
    | (rw [State.mk_made]; with_reducible refine Keeps.upd ?_)
    | split

theorem doOviReadDataFlit_keeps {pt : Untouched} {s0 : State} (l : Nat) (f : LinkFlit) (s : State) (h_s : Keeps pt s0 s) (w_reports : pt.reports = false := by assumption) (w_frm : pt.frm = false := by assumption) (w_cores : pt.cores = false := by assumption) (w_net : pt.net = false := by assumption) (w_lnk : pt.lnk = false := by assumption) :
    Keeps pt s0 (doOviReadDataFlit l f s) := by
  unfold doOviReadDataFlit
  repeat' first
    | with_reducible assumption
    | (intro _)
    | (extract_lets +onlyGivenNames x; refine (fun hx : Keeps pt s0 x => ?_) ?_; try clear_value x; rotate_left; unfold x; clear x; rotate_right; rename State => z)
    | (extract_lets +onlyGivenNames x; have hb : MemBlk := x; clear hb; subst x)
    | (extract_lets +onlyGivenNames x; have hb : CoresBlk := x; clear hb; subst x)
    | (extract_lets +onlyGivenNames x; have hb : PrtBlk := x; clear hb; subst x)
    | (extract_lets +onlyGivenNames x; have hb : FrmBlk := x; clear hb; subst x)
    | (extract_lets +onlyGivenNames x; have hb : KprBlk := x; clear hb; subst x)
    | (extract_lets +onlyGivenNames x; have hb : HifBlk := x; clear hb; subst x)
    | (extract_lets +onlyGivenNames x; try clear_value x; revert x; intro z)
    | (with_reducible refine Keeps.upd ?_)
    | (with_reducible apply receive_keeps)
    | (with_reducible apply route_keeps)
    | (with_reducible apply takeAnswer_keeps)
    | (rw [State.mk_made]; with_reducible refine Keeps.upd ?_)
    | split

theorem doOviAckFlit_keeps {pt : Untouched} {s0 : State} (l : Nat) (f : LinkFlit) (parity : Bool) (s : State) (h_s : Keeps pt s0 s) (w_reports : pt.reports = false := by assumption) (w_frm : pt.frm = false := by assumption) (w_cores : pt.cores = false := by assumption) (w_net : pt.net = false := by assumption) (w_lnk : pt.lnk = false := by assumption) :
    Keeps pt s0 (doOviAckFlit l f parity s) := by
  unfold doOviAckFlit
  repeat' first
    | with_reducible assumption
    | (intro _)
    | (extract_lets +onlyGivenNames x; refine (fun hx : Keeps pt s0 x => ?_) ?_; try clear_value x; rotate_left; unfold x; clear x; rotate_right; rename State => z)
    | (extract_lets +onlyGivenNames x; have hb : MemBlk := x; clear hb; subst x)
    | (extract_lets +onlyGivenNames x; have hb : CoresBlk := x; clear hb; subst x)
    | (extract_lets +onlyGivenNames x; have hb : PrtBlk := x; clear hb; subst x)
    | (extract_lets +onlyGivenNames x; have hb : FrmBlk := x; clear hb; subst x)
    | (extract_lets +onlyGivenNames x; have hb : KprBlk := x; clear hb; subst x)
    | (extract_lets +onlyGivenNames x; have hb : HifBlk := x; clear hb; subst x)
    | (extract_lets +onlyGivenNames x; try clear_value x; revert x; intro z)
    | (with_reducible refine Keeps.upd ?_)
    | (with_reducible apply receive_keeps)
    | (with_reducible apply route_keeps)
    | (with_reducible apply takeAnswer_keeps)
    | (with_reducible refine Keeps.foldl _ ?_ ?_)
    | (rw [State.mk_made]; with_reducible refine Keeps.upd ?_)
    | split

theorem doOviStatusFlit_keeps {pt : Untouched} {s0 : State} (l : Nat) (f : LinkFlit) (s : State) (h_s : Keeps pt s0 s) (w_stacked : pt.stacked = false := by assumption) (w_reports : pt.reports = false := by assumption) (w_hif : pt.hif = false := by assumption) (w_dev : pt.dev = false := by assumption) (w_frm : pt.frm = false := by assumption) (w_cores : pt.cores = false := by assumption) (w_mem : pt.mem = false := by assumption) (w_net : pt.net = false := by assumption) (w_bnk : pt.bnk = false := by assumption) (w_walkers : pt.walkers = false := by assumption) (w_req : pt.req = false := by assumption) (w_lnk : pt.lnk = false := by assumption) :
    Keeps pt s0 (doOviStatusFlit l f s) := by
  unfold doOviStatusFlit
  repeat' first
    | with_reducible assumption
    | (intro _)
    | (extract_lets +onlyGivenNames x; refine (fun hx : Keeps pt s0 x => ?_) ?_; try clear_value x; rotate_left; unfold x; clear x; rotate_right; rename State => z)
    | (extract_lets +onlyGivenNames x; have hb : MemBlk := x; clear hb; subst x)
    | (extract_lets +onlyGivenNames x; have hb : CoresBlk := x; clear hb; subst x)
    | (extract_lets +onlyGivenNames x; have hb : PrtBlk := x; clear hb; subst x)
    | (extract_lets +onlyGivenNames x; have hb : FrmBlk := x; clear hb; subst x)
    | (extract_lets +onlyGivenNames x; have hb : KprBlk := x; clear hb; subst x)
    | (extract_lets +onlyGivenNames x; have hb : HifBlk := x; clear hb; subst x)
    | (extract_lets +onlyGivenNames x; try clear_value x; revert x; intro z)
    | (with_reducible refine Keeps.upd ?_)
    | (with_reducible apply receive_keeps)
    | (with_reducible apply route_keeps)
    | (with_reducible apply absorbRecord_keeps)
    | (with_reducible apply crossNet_keeps)
    | (with_reducible refine Keeps.foldl _ ?_ ?_)
    | (rw [State.mk_made]; with_reducible refine Keeps.upd ?_)
    | split

theorem doOviIdleFlit_keeps {pt : Untouched} {s0 : State} (l : Nat) (f : LinkFlit) (s : State) (h_s : Keeps pt s0 s) (w_reports : pt.reports = false := by assumption) (w_frm : pt.frm = false := by assumption) (w_cores : pt.cores = false := by assumption) (w_lnk : pt.lnk = false := by assumption) :
    Keeps pt s0 (doOviIdleFlit l f s) := by
  unfold doOviIdleFlit
  repeat' first
    | with_reducible assumption
    | (extract_lets +onlyGivenNames x; have hb : PrtBlk := x; clear hb; subst x)
    | (with_reducible apply takeTrailer_keeps)
    | split

theorem doOviFlitError_keeps {pt : Untouched} {s0 : State} (l : Nat) (sent : Bool) (s : State) (h_s : Keeps pt s0 s) (w_lnk : pt.lnk = false := by assumption) :
    Keeps pt s0 (doOviFlitError l sent s) := by
  unfold doOviFlitError
  repeat' first
    | with_reducible assumption
    | (intro _)
    | (extract_lets +onlyGivenNames x; refine (fun hx : Keeps pt s0 x => ?_) ?_; try clear_value x; rotate_left; unfold x; clear x; rotate_right; rename State => z)
    | (extract_lets +onlyGivenNames x; have hb : MemBlk := x; clear hb; subst x)
    | (extract_lets +onlyGivenNames x; have hb : CoresBlk := x; clear hb; subst x)
    | (extract_lets +onlyGivenNames x; have hb : PrtBlk := x; clear hb; subst x)
    | (extract_lets +onlyGivenNames x; have hb : FrmBlk := x; clear hb; subst x)
    | (extract_lets +onlyGivenNames x; have hb : KprBlk := x; clear hb; subst x)
    | (extract_lets +onlyGivenNames x; have hb : HifBlk := x; clear hb; subst x)
    | (extract_lets +onlyGivenNames x; try clear_value x; revert x; intro z)
    | (with_reducible refine Keeps.upd ?_)
    | (with_reducible apply sendIdle_keeps)
    | (with_reducible apply setLink_keeps)
    | (with_reducible apply emit_keeps)
    | (with_reducible refine Keeps.foldl _ ?_ ?_)
    | (rw [State.mk_made]; with_reducible refine Keeps.upd ?_)
    | split

theorem doOviReplayLimit_keeps {pt : Untouched} {s0 : State} (l : Nat) (s : State) (h_s : Keeps pt s0 s) (w_reports : pt.reports = false := by assumption) (w_frm : pt.frm = false := by assumption) (w_cores : pt.cores = false := by assumption) (w_lnk : pt.lnk = false := by assumption) :
    Keeps pt s0 (doOviReplayLimit l s) := by
  unfold doOviReplayLimit
  repeat' first
    | with_reducible assumption
    | (extract_lets +onlyGivenNames x; have hb : PrtBlk := x; clear hb; subst x)
    | (extract_lets +onlyGivenNames x; try clear_value x; revert x; intro z)
    | (with_reducible apply linkDown_keeps)
    | split

theorem doPeerRequestTimeout_keeps {pt : Untouched} {s0 : State} (endpoint tag : Nat) (parity : Bool) (s : State) (h_s : Keeps pt s0 s) (w_reports : pt.reports = false := by assumption) (w_frm : pt.frm = false := by assumption) (w_cores : pt.cores = false := by assumption) (w_net : pt.net = false := by assumption) (w_lnk : pt.lnk = false := by assumption) :
    Keeps pt s0 (doPeerRequestTimeout endpoint tag parity s) := by
  unfold doPeerRequestTimeout
  repeat' first
    | with_reducible assumption
    | (intro _)
    | (extract_lets +onlyGivenNames x; refine (fun hx : Keeps pt s0 x => ?_) ?_; try clear_value x; rotate_left; unfold x; clear x; rotate_right; rename State => z)
    | (extract_lets +onlyGivenNames x; have hb : MemBlk := x; clear hb; subst x)
    | (extract_lets +onlyGivenNames x; have hb : CoresBlk := x; clear hb; subst x)
    | (extract_lets +onlyGivenNames x; have hb : PrtBlk := x; clear hb; subst x)
    | (extract_lets +onlyGivenNames x; have hb : FrmBlk := x; clear hb; subst x)
    | (extract_lets +onlyGivenNames x; have hb : KprBlk := x; clear hb; subst x)
    | (extract_lets +onlyGivenNames x; have hb : HifBlk := x; clear hb; subst x)
    | (extract_lets +onlyGivenNames x; try clear_value x; revert x; intro z)
    | (with_reducible refine Keeps.upd ?_)
    | (with_reducible apply dropRequest_keeps)
    | (with_reducible apply resumePeer_keeps)
    | (with_reducible apply faultEntry_keeps)
    | (rw [State.mk_made]; with_reducible refine Keeps.upd ?_)
    | split

theorem doCreditStall_keeps {pt : Untouched} {s0 : State} (l : Nat) (scheduled : Bool) (s : State) (h_s : Keeps pt s0 s) (w_reports : pt.reports = false := by assumption) (w_lnk : pt.lnk = false := by assumption) :
    Keeps pt s0 (doCreditStall l scheduled s) := by
  unfold doCreditStall
  repeat' first
    | with_reducible assumption
    | (extract_lets +onlyGivenNames x; have hb : PrtBlk := x; clear hb; subst x)
    | (extract_lets +onlyGivenNames x; try clear_value x; revert x; intro z)
    | (with_reducible apply raise_keeps)
    | (with_reducible apply setLink_keeps)
    | split

end Sys2Proof.Machine
end

