-- ==== Sys2Proof/Laws/KeepsBringup.lean ====
section
/-! SUPPORT. Every operation of Machine/Bringup.lean keeps the fuses, the queue and canonical memories. -/
namespace Sys2Proof.Machine
set_option linter.all false
set_option Elab.async false

theorem doPerstNAssert_keeps {pt : Untouched} {s0 : State} (s : State) (h_s : Keeps pt s0 s) (w_stacked : pt.stacked = false := by assumption) (w_store : pt.store = false := by assumption) (w_reports : pt.reports = false := by assumption) (w_state : pt.state = false := by assumption) (w_tc : pt.tc = false := by assumption) (w_cycle : pt.cycle = false := by assumption) (w_kpr : pt.kpr = false := by assumption) (w_flp : pt.flp = false := by assumption) (w_hif : pt.hif = false := by assumption) (w_dbg : pt.dbg = false := by assumption) (w_dev : pt.dev = false := by assumption) (w_frm : pt.frm = false := by assumption) (w_cores : pt.cores = false := by assumption) (w_mem : pt.mem = false := by assumption) (w_net : pt.net = false := by assumption) (w_bnk : pt.bnk = false := by assumption) (w_walkers : pt.walkers = false := by assumption) (w_req : pt.req = false := by assumption) (w_lnk : pt.lnk = false := by assumption) (w_clk : pt.clk = false := by assumption) (w_pwr : pt.pwr = false := by assumption) (w_sup : pt.sup = false := by assumption) (w_thm : pt.thm = false := by assumption) (w_prt : pt.prt = false := by assumption) :
    Keeps pt s0 (doPerstNAssert s) := by
  unfold doPerstNAssert
  repeat' first
    | with_reducible assumption
    | (with_reducible apply wholeReset_keeps)
    | split

theorem doPerstNRelease_keeps {pt : Untouched} {s0 : State} (s : State) (h_s : Keeps pt s0 s) (w_kpr : pt.kpr = false := by assumption) :
    Keeps pt s0 (doPerstNRelease s) := by
  unfold doPerstNRelease
  repeat' first
    | with_reducible assumption
    | (rw [State.mk_made]; with_reducible refine Keeps.upd ?_)
    | split

theorem doHotReset_keeps {pt : Untouched} {s0 : State} (s : State) (h_s : Keeps pt s0 s) (w_stacked : pt.stacked = false := by assumption) (w_store : pt.store = false := by assumption) (w_reports : pt.reports = false := by assumption) (w_state : pt.state = false := by assumption) (w_tc : pt.tc = false := by assumption) (w_cycle : pt.cycle = false := by assumption) (w_kpr : pt.kpr = false := by assumption) (w_flp : pt.flp = false := by assumption) (w_hif : pt.hif = false := by assumption) (w_dbg : pt.dbg = false := by assumption) (w_dev : pt.dev = false := by assumption) (w_frm : pt.frm = false := by assumption) (w_cores : pt.cores = false := by assumption) (w_mem : pt.mem = false := by assumption) (w_net : pt.net = false := by assumption) (w_bnk : pt.bnk = false := by assumption) (w_walkers : pt.walkers = false := by assumption) (w_req : pt.req = false := by assumption) (w_lnk : pt.lnk = false := by assumption) (w_clk : pt.clk = false := by assumption) (w_pwr : pt.pwr = false := by assumption) (w_sup : pt.sup = false := by assumption) (w_thm : pt.thm = false := by assumption) (w_prt : pt.prt = false := by assumption) :
    Keeps pt s0 (doHotReset s) := by
  unfold doHotReset
  repeat' first
    | with_reducible assumption
    | (with_reducible apply wholeReset_keeps)
    | split

theorem doFatalCondition_keeps {pt : Untouched} {s0 : State} (cause : Nat) (s : State) (h_s : Keeps pt s0 s) (w_reports : pt.reports = false := by assumption) (w_state : pt.state = false := by assumption) (w_cycle : pt.cycle = false := by assumption) (w_kpr : pt.kpr = false := by assumption) (w_hif : pt.hif = false := by assumption) (w_frm : pt.frm = false := by assumption) :
    Keeps pt s0 (doFatalCondition cause s) := by
  unfold doFatalCondition
  repeat' first
    | with_reducible assumption
    | (with_reducible apply fatal_keeps)
    | split

theorem doHaltHoldEnd_keeps {pt : Untouched} {s0 : State} (s : State) (h_s : Keeps pt s0 s) (w_stacked : pt.stacked = false := by assumption) (w_store : pt.store = false := by assumption) (w_reports : pt.reports = false := by assumption) (w_state : pt.state = false := by assumption) (w_tc : pt.tc = false := by assumption) (w_cycle : pt.cycle = false := by assumption) (w_kpr : pt.kpr = false := by assumption) (w_flp : pt.flp = false := by assumption) (w_hif : pt.hif = false := by assumption) (w_dbg : pt.dbg = false := by assumption) (w_dev : pt.dev = false := by assumption) (w_frm : pt.frm = false := by assumption) (w_cores : pt.cores = false := by assumption) (w_mem : pt.mem = false := by assumption) (w_net : pt.net = false := by assumption) (w_bnk : pt.bnk = false := by assumption) (w_walkers : pt.walkers = false := by assumption) (w_req : pt.req = false := by assumption) (w_lnk : pt.lnk = false := by assumption) (w_clk : pt.clk = false := by assumption) (w_pwr : pt.pwr = false := by assumption) (w_sup : pt.sup = false := by assumption) (w_thm : pt.thm = false := by assumption) (w_prt : pt.prt = false := by assumption) :
    Keeps pt s0 (doHaltHoldEnd s) := by
  unfold doHaltHoldEnd
  repeat' first
    | with_reducible assumption
    | (with_reducible apply wholeReset_keeps)
    | split

theorem doKeeperWatchdogExpiry_keeps {pt : Untouched} {s0 : State} (s : State) (h_s : Keeps pt s0 s) (w_reports : pt.reports = false := by assumption) (w_state : pt.state = false := by assumption) (w_cycle : pt.cycle = false := by assumption) (w_kpr : pt.kpr = false := by assumption) (w_hif : pt.hif = false := by assumption) (w_frm : pt.frm = false := by assumption) :
    Keeps pt s0 (doKeeperWatchdogExpiry s) := by
  unfold doKeeperWatchdogExpiry
  repeat' first
    | with_reducible assumption
    | (with_reducible apply fatal_keeps)
    | split

theorem doSillResetRequest_keeps {pt : Untouched} {s0 : State} (_sill : Nat) (s : State) (h_s : Keeps pt s0 s) (w_reports : pt.reports = false := by assumption) (w_state : pt.state = false := by assumption) (w_cycle : pt.cycle = false := by assumption) (w_kpr : pt.kpr = false := by assumption) (w_hif : pt.hif = false := by assumption) (w_frm : pt.frm = false := by assumption) :
    Keeps pt s0 (doSillResetRequest _sill s) := by
  unfold doSillResetRequest
  repeat' first
    | with_reducible assumption
    | (with_reducible apply fatal_keeps)
    | split

theorem kprWrite_keeps {pt : Untouched} {s0 : State} (off v rw : Nat) (body : State → State) (s : State) (k_body : ∀ x, Keeps pt s0 x → Keeps pt s0 (body x)) (h_s : Keeps pt s0 s) (w_reports : pt.reports = false := by assumption) :
    Keeps pt s0 (kprWrite off v rw body s) := by
  unfold kprWrite
  repeat' first
    | with_reducible assumption
    | (intro _)
    | (with_reducible apply k_body)
    | (with_reducible apply regWrite_keeps)
    | (with_reducible apply refuse_keeps)
    | split

theorem writeKprCmd_keeps {pt : Untouched} {s0 : State} (v : Nat) (s : State) (h_s : Keeps pt s0 s) (w_reports : pt.reports = false := by assumption) (w_kpr : pt.kpr = false := by assumption) :
    Keeps pt s0 (writeKprCmd v s) := by
  unfold writeKprCmd
  repeat' first
    | with_reducible assumption
    | (intro _)
    | (with_reducible apply kprWrite_keeps)
    | (rw [State.mk_made]; with_reducible refine Keeps.upd ?_)
    | split

theorem writeFwAddr_keeps {pt : Untouched} {s0 : State} (v : Nat) (s : State) (h_s : Keeps pt s0 s) (w_reports : pt.reports = false := by assumption) (w_kpr : pt.kpr = false := by assumption) :
    Keeps pt s0 (writeFwAddr v s) := by
  unfold writeFwAddr
  repeat' first
    | with_reducible assumption
    | (intro _)
    | (with_reducible apply kprWrite_keeps)
    | (rw [State.mk_made]; with_reducible refine Keeps.upd ?_)

theorem writeFwLen_keeps {pt : Untouched} {s0 : State} (v : Nat) (s : State) (h_s : Keeps pt s0 s) (w_reports : pt.reports = false := by assumption) (w_kpr : pt.kpr = false := by assumption) :
    Keeps pt s0 (writeFwLen v s) := by
  unfold writeFwLen
  repeat' first
    | with_reducible assumption
    | (intro _)
    | (with_reducible apply kprWrite_keeps)
    | (rw [State.mk_made]; with_reducible refine Keeps.upd ?_)

theorem writeLicAddr_keeps {pt : Untouched} {s0 : State} (v : Nat) (s : State) (h_s : Keeps pt s0 s) (w_reports : pt.reports = false := by assumption) (w_kpr : pt.kpr = false := by assumption) :
    Keeps pt s0 (writeLicAddr v s) := by
  unfold writeLicAddr
  repeat' first
    | with_reducible assumption
    | (intro _)
    | (with_reducible apply kprWrite_keeps)
    | (rw [State.mk_made]; with_reducible refine Keeps.upd ?_)

theorem writeLicLen_keeps {pt : Untouched} {s0 : State} (v : Nat) (s : State) (h_s : Keeps pt s0 s) (w_reports : pt.reports = false := by assumption) (w_kpr : pt.kpr = false := by assumption) :
    Keeps pt s0 (writeLicLen v s) := by
  unfold writeLicLen
  repeat' first
    | with_reducible assumption
    | (intro _)
    | (with_reducible apply kprWrite_keeps)
    | (with_reducible apply refuse_keeps)
    | (rw [State.mk_made]; with_reducible refine Keeps.upd ?_)
    | split

theorem doKeeperGo_keeps {pt : Untouched} {s0 : State} (s : State) (h_s : Keeps pt s0 s) (w_reports : pt.reports = false := by assumption) (w_kpr : pt.kpr = false := by assumption) :
    Keeps pt s0 (doKeeperGo s) := by
  unfold doKeeperGo
  repeat' first
    | with_reducible assumption
    | (with_reducible apply writeKprCmd_keeps)

theorem checkLicence_keeps {pt : Untouched} {s0 : State} (unit : Nat) (b : List Nat) (sig : Bool) (s : State) (h_s : Keeps pt s0 s) (w_reports : pt.reports = false := by assumption) (w_kpr : pt.kpr = false := by assumption) :
    Keeps pt s0 (checkLicence unit b sig s) := by
  unfold checkLicence
  repeat' first
    | with_reducible assumption
    | (with_reducible apply raise_keeps)
    | (rw [State.mk_made]; with_reducible refine Keeps.upd ?_)
    | split

theorem stepLicences_keeps {pt : Untouched} {s0 : State} (r : FetchResult) (s : State) (h_s : Keeps pt s0 s) (w_reports : pt.reports = false := by assumption) (w_kpr : pt.kpr = false := by assumption) (w_prt : pt.prt = false := by assumption) :
    Keeps pt s0 (stepLicences r s) := by
  unfold stepLicences
  repeat' first
    | with_reducible assumption
    | (intro _)
    | (with_reducible refine Keeps.upd ?_)
    | (with_reducible apply checkLicence_keeps)
    | (with_reducible refine Keeps.foldl _ ?_ ?_)
    | (rw [State.mk_made]; with_reducible refine Keeps.upd ?_)

theorem startTime_keeps {pt : Untouched} {s0 : State} (s : State) (h_s : Keeps pt s0 s) (w_tc : pt.tc = false := by assumption) (w_kpr : pt.kpr = false := by assumption) (w_frm : pt.frm = false := by assumption) (w_clk : pt.clk = false := by assumption) (w_thm : pt.thm = false := by assumption) :
    Keeps pt s0 (startTime s) := by
  unfold startTime
  repeat' first
    | with_reducible assumption
    | (intro _)
    | (extract_lets +onlyGivenNames x; refine (fun hx : Keeps pt s0 x => ?_) ?_; try clear_value x; rotate_left; unfold x; clear x; rotate_right; rename State => z)
    | (extract_lets +onlyGivenNames x; have hb : MemBlk := x; clear hb; subst x)
    | (extract_lets +onlyGivenNames x; have hb : CoresBlk := x; clear hb; subst x)
    | (extract_lets +onlyGivenNames x; have hb : PrtBlk := x; clear hb; subst x)
    | (extract_lets +onlyGivenNames x; have hb : FrmBlk := x; clear hb; subst x)
    | (extract_lets +onlyGivenNames x; have hb : KprBlk := x; clear hb; subst x)
    | (extract_lets +onlyGivenNames x; have hb : HifBlk := x; clear hb; subst x)
    | (extract_lets +onlyGivenNames x; try clear_value x; revert x; intro z)
    | (with_reducible refine Keeps.upd ?_)
    | (rw [State.mk_made]; with_reducible refine Keeps.upd ?_)
    | split

theorem writeStepFour_keeps {pt : Untouched} {s0 : State} (r : FetchResult) (s : State) (h_s : Keeps pt s0 s) (w_net : pt.net = false := by assumption) (w_pwr : pt.pwr = false := by assumption) (w_sup : pt.sup = false := by assumption) :
    Keeps pt s0 (writeStepFour r s) := by
  unfold writeStepFour
  repeat' first
    | with_reducible assumption
    | (intro _)
    | (extract_lets +onlyGivenNames x; refine (fun hx : Keeps pt s0 x => ?_) ?_; try clear_value x; rotate_left; unfold x; clear x; rotate_right; rename State => z)
    | (extract_lets +onlyGivenNames x; have hb : MemBlk := x; clear hb; subst x)
    | (extract_lets +onlyGivenNames x; have hb : CoresBlk := x; clear hb; subst x)
    | (extract_lets +onlyGivenNames x; have hb : PrtBlk := x; clear hb; subst x)
    | (extract_lets +onlyGivenNames x; have hb : FrmBlk := x; clear hb; subst x)
    | (extract_lets +onlyGivenNames x; have hb : KprBlk := x; clear hb; subst x)
    | (extract_lets +onlyGivenNames x; have hb : HifBlk := x; clear hb; subst x)
    | (extract_lets +onlyGivenNames x; try clear_value x; revert x; intro z)
    | (with_reducible refine Keeps.upd ?_)
    | (with_reducible refine Keeps.foldl _ ?_ ?_)
    | (rw [State.mk_made]; with_reducible refine Keeps.upd ?_)
    | split

theorem stepClocks_keeps {pt : Untouched} {s0 : State} (r : FetchResult) (s : State) (h_s : Keeps pt s0 s) (w_reports : pt.reports = false := by assumption) (w_state : pt.state = false := by assumption) (w_tc : pt.tc = false := by assumption) (w_cycle : pt.cycle = false := by assumption) (w_kpr : pt.kpr = false := by assumption) (w_hif : pt.hif = false := by assumption) (w_frm : pt.frm = false := by assumption) (w_net : pt.net = false := by assumption) (w_clk : pt.clk = false := by assumption) (w_pwr : pt.pwr = false := by assumption) (w_sup : pt.sup = false := by assumption) (w_thm : pt.thm = false := by assumption) :
    Keeps pt s0 (stepClocks r s) := by
  unfold stepClocks
  repeat' first
    | with_reducible assumption
    | (intro _)
    | (extract_lets +onlyGivenNames x; refine (fun hx : Keeps pt s0 x => ?_) ?_; try clear_value x; rotate_left; unfold x; clear x; rotate_right; rename State => z)
    | (extract_lets +onlyGivenNames x; have hb : MemBlk := x; clear hb; subst x)
    | (extract_lets +onlyGivenNames x; have hb : CoresBlk := x; clear hb; subst x)
    | (extract_lets +onlyGivenNames x; have hb : PrtBlk := x; clear hb; subst x)
    | (extract_lets +onlyGivenNames x; have hb : FrmBlk := x; clear hb; subst x)
    | (extract_lets +onlyGivenNames x; have hb : KprBlk := x; clear hb; subst x)
    | (extract_lets +onlyGivenNames x; have hb : HifBlk := x; clear hb; subst x)
    | (extract_lets +onlyGivenNames x; try clear_value x; revert x; intro z)
    | (with_reducible refine Keeps.upd ?_)
    | (with_reducible apply fatal_keeps)
    | (with_reducible apply startClocks_keeps)
    | (with_reducible apply writeStepFour_keeps)
    | (with_reducible apply startTime_keeps)
    | (with_reducible refine Keeps.foldl _ ?_ ?_)
    | (rw [State.mk_made]; with_reducible refine Keeps.upd ?_)
    | split

theorem fuseFences_keeps {pt : Untouched} {s0 : State} (s : State) (h_s : Keeps pt s0 s) (w_flp : pt.flp = false := by assumption) :
    Keeps pt s0 (fuseFences s) := by
  unfold fuseFences
  repeat' first
    | with_reducible assumption
    | (intro _)
    | (extract_lets +onlyGivenNames x; refine (fun hx : Keeps pt s0 x => ?_) ?_; try clear_value x; rotate_left; unfold x; clear x; rotate_right; rename State => z)
    | (extract_lets +onlyGivenNames x; have hb : MemBlk := x; clear hb; subst x)
    | (extract_lets +onlyGivenNames x; have hb : CoresBlk := x; clear hb; subst x)
    | (extract_lets +onlyGivenNames x; have hb : PrtBlk := x; clear hb; subst x)
    | (extract_lets +onlyGivenNames x; have hb : FrmBlk := x; clear hb; subst x)
    | (extract_lets +onlyGivenNames x; have hb : KprBlk := x; clear hb; subst x)
    | (extract_lets +onlyGivenNames x; have hb : HifBlk := x; clear hb; subst x)
    | (extract_lets +onlyGivenNames x; try clear_value x; revert x; intro z)
    | (with_reducible refine Keeps.upd ?_)
    | (with_reducible refine Keeps.foldl _ ?_ ?_)
    | (rw [State.mk_made]; with_reducible refine Keeps.upd ?_)
    | split

theorem memoryStands_keeps {pt : Untouched} {s0 : State} (s : State) (h_s : Keeps pt s0 s) (w_kpr : pt.kpr = false := by assumption) (w_mem : pt.mem = false := by assumption) (w_bnk : pt.bnk = false := by assumption) :
    Keeps pt s0 (memoryStands s) := by
  unfold memoryStands
  repeat' first
    | with_reducible assumption
    | (intro _)
    | (extract_lets +onlyGivenNames x; refine (fun hx : Keeps pt s0 x => ?_) ?_; try clear_value x; rotate_left; unfold x; clear x; rotate_right; rename State => z)
    | (extract_lets +onlyGivenNames x; have hb : MemBlk := x; clear hb; subst x)
    | (extract_lets +onlyGivenNames x; have hb : CoresBlk := x; clear hb; subst x)
    | (extract_lets +onlyGivenNames x; have hb : PrtBlk := x; clear hb; subst x)
    | (extract_lets +onlyGivenNames x; have hb : FrmBlk := x; clear hb; subst x)
    | (extract_lets +onlyGivenNames x; have hb : KprBlk := x; clear hb; subst x)
    | (extract_lets +onlyGivenNames x; have hb : HifBlk := x; clear hb; subst x)
    | (extract_lets +onlyGivenNames x; try clear_value x; revert x; intro z)
    | (with_reducible refine Keeps.upd ?_)
    | (rw [State.mk_made]; with_reducible refine Keeps.upd ?_)
    | split

theorem countReadBack_keeps {pt : Untouched} {s0 : State} (w : Nat) (s : State) (h_s : Keeps pt s0 s) (w_mem : pt.mem = false := by assumption) :
    Keeps pt s0 (countReadBack w s) := by
  unfold countReadBack
  repeat' first
    | with_reducible assumption
    | (intro _)
    | (extract_lets +onlyGivenNames x; refine (fun hx : Keeps pt s0 x => ?_) ?_; try clear_value x; rotate_left; unfold x; clear x; rotate_right; rename State => z)
    | (extract_lets +onlyGivenNames x; have hb : MemBlk := x; clear hb; subst x)
    | (extract_lets +onlyGivenNames x; have hb : CoresBlk := x; clear hb; subst x)
    | (extract_lets +onlyGivenNames x; have hb : PrtBlk := x; clear hb; subst x)
    | (extract_lets +onlyGivenNames x; have hb : FrmBlk := x; clear hb; subst x)
    | (extract_lets +onlyGivenNames x; have hb : KprBlk := x; clear hb; subst x)
    | (extract_lets +onlyGivenNames x; have hb : HifBlk := x; clear hb; subst x)
    | (extract_lets +onlyGivenNames x; try clear_value x; revert x; intro z)
    | (with_reducible refine Keeps.upd ?_)
    | (with_reducible apply countCorrected_keeps)
    | (with_reducible apply countUncorrectable_keeps)
    | (rw [State.mk_made]; with_reducible refine Keeps.upd ?_)
    | split

theorem readBackZeros_keeps {pt : Untouched} {s0 : State} (flips : List (Nat × Nat)) (s : State) (h_s : Keeps pt s0 s) (w_stacked : pt.stacked = false := by assumption) (w_mem : pt.mem = false := by assumption) :
    Keeps pt s0 (readBackZeros flips s) := by
  unfold readBackZeros
  repeat' first
    | with_reducible assumption
    | (intro _)
    | (extract_lets +onlyGivenNames x; refine (fun hx : Keeps pt s0 x => ?_) ?_; try clear_value x; rotate_left; unfold x; clear x; rotate_right; rename State => z)
    | (extract_lets +onlyGivenNames x; have hb : MemBlk := x; clear hb; subst x)
    | (extract_lets +onlyGivenNames x; have hb : CoresBlk := x; clear hb; subst x)
    | (extract_lets +onlyGivenNames x; have hb : PrtBlk := x; clear hb; subst x)
    | (extract_lets +onlyGivenNames x; have hb : FrmBlk := x; clear hb; subst x)
    | (extract_lets +onlyGivenNames x; have hb : KprBlk := x; clear hb; subst x)
    | (extract_lets +onlyGivenNames x; have hb : HifBlk := x; clear hb; subst x)
    | (extract_lets +onlyGivenNames x; try clear_value x; revert x; intro z)
    | (with_reducible refine Keeps.upd ?_)
    | (with_reducible apply countReadBack_keeps)
    | (with_reducible apply flipSymbols_keeps)
    | (with_reducible refine Keeps.foldl _ ?_ ?_)
    | (rw [State.mk_made]; with_reducible refine Keeps.upd ?_)
    | split

theorem stepMemory_keeps {pt : Untouched} {s0 : State} (r : FetchResult) (s : State) (h_s : Keeps pt s0 s) (w_stacked : pt.stacked = false := by assumption) (w_reports : pt.reports = false := by assumption) (w_kpr : pt.kpr = false := by assumption) (w_flp : pt.flp = false := by assumption) (w_hif : pt.hif = false := by assumption) (w_dbg : pt.dbg = false := by assumption) (w_dev : pt.dev = false := by assumption) (w_frm : pt.frm = false := by assumption) (w_mem : pt.mem = false := by assumption) (w_bnk : pt.bnk = false := by assumption) :
    Keeps pt s0 (stepMemory r s) := by
  unfold stepMemory
  repeat' first
    | with_reducible assumption
    | (intro _)
    | (extract_lets +onlyGivenNames x; refine (fun hx : Keeps pt s0 x => ?_) ?_; try clear_value x; rotate_left; unfold x; clear x; rotate_right; rename State => z)
    | (extract_lets +onlyGivenNames x; have hb : MemBlk := x; clear hb; subst x)
    | (extract_lets +onlyGivenNames x; have hb : CoresBlk := x; clear hb; subst x)
    | (extract_lets +onlyGivenNames x; have hb : PrtBlk := x; clear hb; subst x)
    | (extract_lets +onlyGivenNames x; have hb : FrmBlk := x; clear hb; subst x)
    | (extract_lets +onlyGivenNames x; have hb : KprBlk := x; clear hb; subst x)
    | (extract_lets +onlyGivenNames x; have hb : HifBlk := x; clear hb; subst x)
    | (extract_lets +onlyGivenNames x; try clear_value x; revert x; intro z)
    | (with_reducible refine Keeps.upd ?_)
    | (with_reducible apply updateMemActive_keeps)
    | (with_reducible apply memoryStands_keeps)
    | (with_reducible apply readBackZeros_keeps)
    | (with_reducible apply fenceUnits_keeps)
    | (rw [State.mk_made]; with_reducible refine Keeps.upd ?_)
    | split

theorem startLinks_keeps {pt : Untouched} {s0 : State} (file : List Nat) (s : State) (h_s : Keeps pt s0 s) (w_kpr : pt.kpr = false := by assumption) (w_lnk : pt.lnk = false := by assumption) :
    Keeps pt s0 (startLinks file s) := by
  unfold startLinks
  repeat' first
    | with_reducible assumption
    | (intro _)
    | (extract_lets +onlyGivenNames x; refine (fun hx : Keeps pt s0 x => ?_) ?_; try clear_value x; rotate_left; unfold x; clear x; rotate_right; rename State => z)
    | (extract_lets +onlyGivenNames x; have hb : MemBlk := x; clear hb; subst x)
    | (extract_lets +onlyGivenNames x; have hb : CoresBlk := x; clear hb; subst x)
    | (extract_lets +onlyGivenNames x; have hb : PrtBlk := x; clear hb; subst x)
    | (extract_lets +onlyGivenNames x; have hb : FrmBlk := x; clear hb; subst x)
    | (extract_lets +onlyGivenNames x; have hb : KprBlk := x; clear hb; subst x)
    | (extract_lets +onlyGivenNames x; have hb : HifBlk := x; clear hb; subst x)
    | (extract_lets +onlyGivenNames x; try clear_value x; revert x; intro z)
    | (with_reducible refine Keeps.upd ?_)
    | (with_reducible apply setLink_keeps)
    | (with_reducible refine Keeps.foldl _ ?_ ?_)
    | (rw [State.mk_made]; with_reducible refine Keeps.upd ?_)
    | split

theorem takeFirmware_keeps {pt : Untouched} {s0 : State} (f : List Nat) (s : State) (h_s : Keeps pt s0 s) (w_kpr : pt.kpr = false := by assumption) :
    Keeps pt s0 (takeFirmware f s) := by
  unfold takeFirmware
  repeat' first
    | with_reducible assumption
    | (intro _)
    | (extract_lets +onlyGivenNames x; refine (fun hx : Keeps pt s0 x => ?_) ?_; try clear_value x; rotate_left; unfold x; clear x; rotate_right; rename State => z)
    | (extract_lets +onlyGivenNames x; have hb : MemBlk := x; clear hb; subst x)
    | (extract_lets +onlyGivenNames x; have hb : CoresBlk := x; clear hb; subst x)
    | (extract_lets +onlyGivenNames x; have hb : PrtBlk := x; clear hb; subst x)
    | (extract_lets +onlyGivenNames x; have hb : FrmBlk := x; clear hb; subst x)
    | (extract_lets +onlyGivenNames x; have hb : KprBlk := x; clear hb; subst x)
    | (extract_lets +onlyGivenNames x; have hb : HifBlk := x; clear hb; subst x)
    | (extract_lets +onlyGivenNames x; try clear_value x; revert x; intro z)
    | (with_reducible refine Keeps.upd ?_)
    | (rw [State.mk_made]; with_reducible refine Keeps.upd ?_)
    | split

theorem stagingGoesOn_keeps {pt : Untouched} {s0 : State} (r : FetchResult) (s : State) (h_s : Keeps pt s0 s) (w_stacked : pt.stacked = false := by assumption) (w_reports : pt.reports = false := by assumption) (w_kpr : pt.kpr = false := by assumption) (w_flp : pt.flp = false := by assumption) (w_hif : pt.hif = false := by assumption) (w_dbg : pt.dbg = false := by assumption) (w_dev : pt.dev = false := by assumption) (w_frm : pt.frm = false := by assumption) (w_mem : pt.mem = false := by assumption) (w_bnk : pt.bnk = false := by assumption) (w_lnk : pt.lnk = false := by assumption) :
    Keeps pt s0 (stagingGoesOn r s) := by
  unfold stagingGoesOn
  repeat' first
    | with_reducible assumption
    | (intro _)
    | (extract_lets +onlyGivenNames x; refine (fun hx : Keeps pt s0 x => ?_) ?_; try clear_value x; rotate_left; unfold x; clear x; rotate_right; rename State => z)
    | (extract_lets +onlyGivenNames x; have hb : MemBlk := x; clear hb; subst x)
    | (extract_lets +onlyGivenNames x; have hb : CoresBlk := x; clear hb; subst x)
    | (extract_lets +onlyGivenNames x; have hb : PrtBlk := x; clear hb; subst x)
    | (extract_lets +onlyGivenNames x; have hb : FrmBlk := x; clear hb; subst x)
    | (extract_lets +onlyGivenNames x; have hb : KprBlk := x; clear hb; subst x)
    | (extract_lets +onlyGivenNames x; have hb : HifBlk := x; clear hb; subst x)
    | (extract_lets +onlyGivenNames x; try clear_value x; revert x; intro z)
    | (with_reducible refine Keeps.upd ?_)
    | (with_reducible apply startLinks_keeps)
    | (with_reducible apply stepMemory_keeps)
    | (rw [State.mk_made]; with_reducible refine Keeps.upd ?_)
    | split

theorem enterStaging_keeps {pt : Untouched} {s0 : State} (r : FetchResult) (s : State) (h_s : Keeps pt s0 s) (w_stacked : pt.stacked = false := by assumption) (w_reports : pt.reports = false := by assumption) (w_state : pt.state = false := by assumption) (w_tc : pt.tc = false := by assumption) (w_cycle : pt.cycle = false := by assumption) (w_kpr : pt.kpr = false := by assumption) (w_flp : pt.flp = false := by assumption) (w_hif : pt.hif = false := by assumption) (w_dbg : pt.dbg = false := by assumption) (w_dev : pt.dev = false := by assumption) (w_frm : pt.frm = false := by assumption) (w_mem : pt.mem = false := by assumption) (w_net : pt.net = false := by assumption) (w_bnk : pt.bnk = false := by assumption) (w_lnk : pt.lnk = false := by assumption) (w_clk : pt.clk = false := by assumption) (w_pwr : pt.pwr = false := by assumption) (w_sup : pt.sup = false := by assumption) (w_thm : pt.thm = false := by assumption) (w_prt : pt.prt = false := by assumption) :
    Keeps pt s0 (enterStaging r s) := by
  unfold enterStaging
  repeat' first
    | with_reducible assumption
    | (intro _)
    | (extract_lets +onlyGivenNames x; refine (fun hx : Keeps pt s0 x => ?_) ?_; try clear_value x; rotate_left; unfold x; clear x; rotate_right; rename State => z)
    | (extract_lets +onlyGivenNames x; have hb : MemBlk := x; clear hb; subst x)
    | (extract_lets +onlyGivenNames x; have hb : CoresBlk := x; clear hb; subst x)
    | (extract_lets +onlyGivenNames x; have hb : PrtBlk := x; clear hb; subst x)
    | (extract_lets +onlyGivenNames x; have hb : FrmBlk := x; clear hb; subst x)
    | (extract_lets +onlyGivenNames x; have hb : KprBlk := x; clear hb; subst x)
    | (extract_lets +onlyGivenNames x; have hb : HifBlk := x; clear hb; subst x)
    | (extract_lets +onlyGivenNames x; try clear_value x; revert x; intro z)
    | (with_reducible refine Keeps.upd ?_)
    | (with_reducible apply stagingGoesOn_keeps)
    | (with_reducible apply stepClocks_keeps)
    | (with_reducible apply stepLicences_keeps)
    | (with_reducible apply fuseFences_keeps)
    | (with_reducible apply setState_keeps)
    | (with_reducible apply takeFirmware_keeps)
    | (rw [State.mk_made]; with_reducible refine Keeps.upd ?_)
    | split

theorem doFirmwareVerified_keeps {pt : Untouched} {s0 : State} (r : FetchResult) (s : State) (h_s : Keeps pt s0 s) (w_stacked : pt.stacked = false := by assumption) (w_reports : pt.reports = false := by assumption) (w_state : pt.state = false := by assumption) (w_tc : pt.tc = false := by assumption) (w_cycle : pt.cycle = false := by assumption) (w_kpr : pt.kpr = false := by assumption) (w_flp : pt.flp = false := by assumption) (w_hif : pt.hif = false := by assumption) (w_dbg : pt.dbg = false := by assumption) (w_dev : pt.dev = false := by assumption) (w_frm : pt.frm = false := by assumption) (w_mem : pt.mem = false := by assumption) (w_net : pt.net = false := by assumption) (w_bnk : pt.bnk = false := by assumption) (w_lnk : pt.lnk = false := by assumption) (w_clk : pt.clk = false := by assumption) (w_pwr : pt.pwr = false := by assumption) (w_sup : pt.sup = false := by assumption) (w_thm : pt.thm = false := by assumption) (w_prt : pt.prt = false := by assumption) :
    Keeps pt s0 (doFirmwareVerified r s) := by
  unfold doFirmwareVerified
  repeat' first
    | with_reducible assumption
    | (intro _)
    | (extract_lets +onlyGivenNames x; refine (fun hx : Keeps pt s0 x => ?_) ?_; try clear_value x; rotate_left; unfold x; clear x; rotate_right; rename State => z)
    | (extract_lets +onlyGivenNames x; have hb : MemBlk := x; clear hb; subst x)
    | (extract_lets +onlyGivenNames x; have hb : CoresBlk := x; clear hb; subst x)
    | (extract_lets +onlyGivenNames x; have hb : PrtBlk := x; clear hb; subst x)
    | (extract_lets +onlyGivenNames x; have hb : FrmBlk := x; clear hb; subst x)
    | (extract_lets +onlyGivenNames x; have hb : KprBlk := x; clear hb; subst x)
    | (extract_lets +onlyGivenNames x; have hb : HifBlk := x; clear hb; subst x)
    | (extract_lets +onlyGivenNames x; try clear_value x; revert x; intro z)
    | (with_reducible refine Keeps.upd ?_)
    | (with_reducible apply enterStaging_keeps)
    | (rw [State.mk_made]; with_reducible refine Keeps.upd ?_)
    | split

theorem endTraining_keeps {pt : Untouched} {s0 : State} (l : Nat) (s : State) (h_s : Keeps pt s0 s) (w_lnk : pt.lnk = false := by assumption) :
    Keeps pt s0 (endTraining l s) := by
  unfold endTraining
  repeat' first
    | with_reducible assumption
    | (with_reducible apply setLink_keeps)

theorem publishFloorPlan_keeps {pt : Untouched} {s0 : State} (s : State) (h_s : Keeps pt s0 s) (w_reports : pt.reports = false := by assumption) (w_kpr : pt.kpr = false := by assumption) (w_flp : pt.flp = false := by assumption) :
    Keeps pt s0 (publishFloorPlan s) := by
  unfold publishFloorPlan
  repeat' first
    | with_reducible assumption
    | (extract_lets +onlyGivenNames x; refine (fun hx : Keeps pt s0 x => ?_) ?_; try clear_value x; rotate_left; unfold x; clear x; rotate_right; rename State => z)
    | (extract_lets +onlyGivenNames x; have hb : KprBlk := x; clear hb; subst x)
    | (extract_lets +onlyGivenNames x; try clear_value x; revert x; intro z)
    | (with_reducible apply raise_keeps)
    | (rw [State.mk_made]; with_reducible refine Keeps.upd ?_)
    | split

theorem stepNine_keeps {pt : Untouched} {s0 : State} (s : State) (h_s : Keeps pt s0 s) (w_kpr : pt.kpr = false := by assumption) :
    Keeps pt s0 (stepNine s) := by
  unfold stepNine
  repeat' first
    | with_reducible assumption
    | (intro _)
    | (extract_lets +onlyGivenNames x; refine (fun hx : Keeps pt s0 x => ?_) ?_; try clear_value x; rotate_left; unfold x; clear x; rotate_right; rename State => z)
    | (extract_lets +onlyGivenNames x; have hb : MemBlk := x; clear hb; subst x)
    | (extract_lets +onlyGivenNames x; have hb : CoresBlk := x; clear hb; subst x)
    | (extract_lets +onlyGivenNames x; have hb : PrtBlk := x; clear hb; subst x)
    | (extract_lets +onlyGivenNames x; have hb : FrmBlk := x; clear hb; subst x)
    | (extract_lets +onlyGivenNames x; have hb : KprBlk := x; clear hb; subst x)
    | (extract_lets +onlyGivenNames x; have hb : HifBlk := x; clear hb; subst x)
    | (extract_lets +onlyGivenNames x; try clear_value x; revert x; intro z)
    | (with_reducible refine Keeps.upd ?_)
    | (rw [State.mk_made]; with_reducible refine Keeps.upd ?_)
    | split

theorem doBringUpComplete_keeps {pt : Untouched} {s0 : State} (cores : List Nat) (panes : List (Nat × Nat)) (s : State) (h_s : Keeps pt s0 s) (w_reports : pt.reports = false := by assumption) (w_state : pt.state = false := by assumption) (w_kpr : pt.kpr = false := by assumption) (w_flp : pt.flp = false := by assumption) (w_dbg : pt.dbg = false := by assumption) (w_dev : pt.dev = false := by assumption) (w_frm : pt.frm = false := by assumption) (w_lnk : pt.lnk = false := by assumption) :
    Keeps pt s0 (doBringUpComplete cores panes s) := by
  unfold doBringUpComplete
  repeat' first
    | with_reducible assumption
    | (intro _)
    | (extract_lets +onlyGivenNames x; refine (fun hx : Keeps pt s0 x => ?_) ?_; try clear_value x; rotate_left; unfold x; clear x; rotate_right; rename State => z)
    | (extract_lets +onlyGivenNames x; have hb : MemBlk := x; clear hb; subst x)
    | (extract_lets +onlyGivenNames x; have hb : CoresBlk := x; clear hb; subst x)
    | (extract_lets +onlyGivenNames x; have hb : PrtBlk := x; clear hb; subst x)
    | (extract_lets +onlyGivenNames x; have hb : FrmBlk := x; clear hb; subst x)
    | (extract_lets +onlyGivenNames x; have hb : KprBlk := x; clear hb; subst x)
    | (extract_lets +onlyGivenNames x; have hb : HifBlk := x; clear hb; subst x)
    | (extract_lets +onlyGivenNames x; try clear_value x; revert x; intro z)
    | (with_reducible refine Keeps.upd ?_)
    | (with_reducible apply stepNine_keeps)
    | (with_reducible apply setState_keeps)
    | (with_reducible apply publishFloorPlan_keeps)
    | (with_reducible apply fenceUnits_keeps)
    | (with_reducible apply endTraining_keeps)
    | (with_reducible refine Keeps.foldl _ ?_ ?_)
    | (rw [State.mk_made]; with_reducible refine Keeps.upd ?_)
    | split

end Sys2Proof.Machine
end

