-- ==== Sys2Proof/Laws/KeepsPanes.lean ====
section
/-! SUPPORT. Every operation of Machine/Panes.lean keeps the fuses, the queue and canonical memories. -/
namespace Sys2Proof.Machine
set_option linter.all false
set_option Elab.async false

theorem recordExcs_keeps {pt : Untouched} {s0 : State} (n k pane desc : Nat) (xs : List Exc) (s : State) (h_s : Keeps pt s0 s) (w_cores : pt.cores = false := by assumption) :
    Keeps pt s0 (recordExcs n k pane desc xs s) := by
  unfold recordExcs
  repeat' first
    | with_reducible assumption
    | (intro _)
    | (extract_lets +onlyGivenNames x; refine (fun hx : Keeps pt s0 x => ?_) ?_; try clear_value x; rotate_left; unfold x; clear x; rotate_right; rename State => z)
    | (extract_lets +onlyGivenNames x; have hb : MemBlk := x; clear hb; subst x)
    | (extract_lets +onlyGivenNames x; have hb : CoresBlk := x; clear hb; subst x)
    | (extract_lets +onlyGivenNames x; have hb : PrtBlk := x; clear hb; subst x)
    | (extract_lets +onlyGivenNames x; have hb : FrmBlk := x; clear hb; subst x)
    | (extract_lets +onlyGivenNames x; have hb : KprBlk := x; clear hb; subst x)
    | (extract_lets +onlyGivenNames x; have hb : HifBlk := x; clear hb; subst x)
    | (extract_lets +onlyGivenNames x; try clear_value x; revert x; intro z)
    | (with_reducible refine Keeps.upd ?_)
    | (with_reducible apply setCtx_keeps)
    | (rw [State.mk_made]; with_reducible refine Keeps.upd ?_)
    | split

theorem openFill_keeps {pt : Untouched} {s0 : State} (n p : Nat) (e : QEntry) (s : State) (h_s : Keeps pt s0 s) (w_cores : pt.cores = false := by assumption) :
    Keeps pt s0 (openFill n p e s) := by
  unfold openFill
  repeat' first
    | with_reducible assumption
    | (intro _)
    | (extract_lets +onlyGivenNames x; refine (fun hx : Keeps pt s0 x => ?_) ?_; try clear_value x; rotate_left; unfold x; clear x; rotate_right; rename State => z)
    | (extract_lets +onlyGivenNames x; have hb : MemBlk := x; clear hb; subst x)
    | (extract_lets +onlyGivenNames x; have hb : CoresBlk := x; clear hb; subst x)
    | (extract_lets +onlyGivenNames x; have hb : PrtBlk := x; clear hb; subst x)
    | (extract_lets +onlyGivenNames x; have hb : FrmBlk := x; clear hb; subst x)
    | (extract_lets +onlyGivenNames x; have hb : KprBlk := x; clear hb; subst x)
    | (extract_lets +onlyGivenNames x; have hb : HifBlk := x; clear hb; subst x)
    | (extract_lets +onlyGivenNames x; try clear_value x; revert x; intro z)
    | (with_reducible refine Keeps.upd ?_)
    | (with_reducible apply setPane_keeps)
    | (with_reducible apply updEntry_keeps)
    | (rw [State.mk_made]; with_reducible refine Keeps.upd ?_)
    | split

theorem closeFill_keeps {pt : Untouched} {s0 : State} (n p : Nat) (e : QEntry) (f : Fill) (s : State) (h_s : Keeps pt s0 s) (w_cores : pt.cores = false := by assumption) :
    Keeps pt s0 (closeFill n p e f s) := by
  unfold closeFill
  repeat' first
    | with_reducible assumption
    | (intro _)
    | (extract_lets +onlyGivenNames x; refine (fun hx : Keeps pt s0 x => ?_) ?_; try clear_value x; rotate_left; unfold x; clear x; rotate_right; rename State => z)
    | (extract_lets +onlyGivenNames x; have hb : MemBlk := x; clear hb; subst x)
    | (extract_lets +onlyGivenNames x; have hb : CoresBlk := x; clear hb; subst x)
    | (extract_lets +onlyGivenNames x; have hb : PrtBlk := x; clear hb; subst x)
    | (extract_lets +onlyGivenNames x; have hb : FrmBlk := x; clear hb; subst x)
    | (extract_lets +onlyGivenNames x; have hb : KprBlk := x; clear hb; subst x)
    | (extract_lets +onlyGivenNames x; have hb : HifBlk := x; clear hb; subst x)
    | (extract_lets +onlyGivenNames x; try clear_value x; revert x; intro z)
    | (with_reducible refine Keeps.upd ?_)
    | (with_reducible apply setPane_keeps)
    | (with_reducible apply recordExcs_keeps)
    | (with_reducible apply useFresh_keeps)
    | (rw [State.mk_made]; with_reducible refine Keeps.upd ?_)
    | split

theorem fillBlock_keeps {pt : Untouched} {s0 : State} (n p : Nat) (e : QEntry) (f : Fill) (s : State) (h_s : Keeps pt s0 s) (w_cores : pt.cores = false := by assumption) :
    Keeps pt s0 (fillBlock n p e f s) := by
  unfold fillBlock
  repeat' first
    | with_reducible assumption
    | (intro _)
    | (extract_lets +onlyGivenNames x; refine (fun hx : Keeps pt s0 x => ?_) ?_; try clear_value x; rotate_left; unfold x; clear x; rotate_right; rename State => z)
    | (extract_lets +onlyGivenNames x; have hb : MemBlk := x; clear hb; subst x)
    | (extract_lets +onlyGivenNames x; have hb : CoresBlk := x; clear hb; subst x)
    | (extract_lets +onlyGivenNames x; have hb : PrtBlk := x; clear hb; subst x)
    | (extract_lets +onlyGivenNames x; have hb : FrmBlk := x; clear hb; subst x)
    | (extract_lets +onlyGivenNames x; have hb : KprBlk := x; clear hb; subst x)
    | (extract_lets +onlyGivenNames x; have hb : HifBlk := x; clear hb; subst x)
    | (extract_lets +onlyGivenNames x; try clear_value x; revert x; intro z)
    | (with_reducible refine Keeps.upd ?_)
    | (with_reducible apply recordExcs_keeps)
    | (with_reducible apply updEntry_keeps)
    | (with_reducible apply setPane_keeps)
    | (with_reducible apply closeFill_keeps)
    | (rw [State.mk_made]; with_reducible refine Keeps.upd ?_)
    | split

theorem feedStep_keeps {pt : Untouched} {s0 : State} (n p : Nat) (s : State) (h_s : Keeps pt s0 s) (w_cores : pt.cores = false := by assumption) :
    Keeps pt s0 (feedStep n p s) := by
  unfold feedStep
  repeat' first
    | with_reducible assumption
    | (intro _)
    | (extract_lets +onlyGivenNames x; refine (fun hx : Keeps pt s0 x => ?_) ?_; try clear_value x; rotate_left; unfold x; clear x; rotate_right; rename State => z)
    | (extract_lets +onlyGivenNames x; have hb : MemBlk := x; clear hb; subst x)
    | (extract_lets +onlyGivenNames x; have hb : CoresBlk := x; clear hb; subst x)
    | (extract_lets +onlyGivenNames x; have hb : PrtBlk := x; clear hb; subst x)
    | (extract_lets +onlyGivenNames x; have hb : FrmBlk := x; clear hb; subst x)
    | (extract_lets +onlyGivenNames x; have hb : KprBlk := x; clear hb; subst x)
    | (extract_lets +onlyGivenNames x; have hb : HifBlk := x; clear hb; subst x)
    | (extract_lets +onlyGivenNames x; try clear_value x; revert x; intro z)
    | (with_reducible refine Keeps.upd ?_)
    | (with_reducible apply fillBlock_keeps)
    | (with_reducible apply setPane_keeps)
    | (with_reducible apply openFill_keeps)
    | (rw [State.mk_made]; with_reducible refine Keeps.upd ?_)
    | split

theorem feedPane_keeps {pt : Untouched} {s0 : State} (n p fuel : Nat) (s : State) (h_s : Keeps pt s0 s) (w_cores : pt.cores = false := by assumption) :
    Keeps pt s0 (feedPane n p fuel s) := by
  induction fuel generalizing s with
  | zero => exact h_s
  | succ f ih => exact ih _ (feedStep_keeps _ _ _ h_s)

theorem runMatmul_keeps {pt : Untouched} {s0 : State} (n p cycle blocks : Nat) (parity : Bool) (e : QEntry) (s : State) (h_s : Keeps pt s0 s) (w_reports : pt.reports = false := by assumption) (w_frm : pt.frm = false := by assumption) (w_cores : pt.cores = false := by assumption) :
    Keeps pt s0 (runMatmul n p cycle blocks parity e s) := by
  unfold runMatmul
  repeat' first
    | with_reducible assumption
    | (intro _)
    | (extract_lets +onlyGivenNames x; refine (fun hx : Keeps pt s0 x => ?_) ?_; try clear_value x; rotate_left; unfold x; clear x; rotate_right; rename State => z)
    | (extract_lets +onlyGivenNames x; have hb : MemBlk := x; clear hb; subst x)
    | (extract_lets +onlyGivenNames x; have hb : CoresBlk := x; clear hb; subst x)
    | (extract_lets +onlyGivenNames x; have hb : PrtBlk := x; clear hb; subst x)
    | (extract_lets +onlyGivenNames x; have hb : FrmBlk := x; clear hb; subst x)
    | (extract_lets +onlyGivenNames x; have hb : KprBlk := x; clear hb; subst x)
    | (extract_lets +onlyGivenNames x; have hb : HifBlk := x; clear hb; subst x)
    | (extract_lets +onlyGivenNames x; try clear_value x; revert x; intro z)
    | (with_reducible refine Keeps.upd ?_)
    | (with_reducible apply setPane_keeps)
    | (with_reducible apply faultEntry_keeps)
    | (with_reducible apply feedPane_keeps)
    | (rw [State.mk_made]; with_reducible refine Keeps.upd ?_)
    | split

theorem doMatmul_keeps {pt : Untouched} {s0 : State} (n p cycle blocks : Nat) (parity : Bool) (s : State) (h_s : Keeps pt s0 s) (w_reports : pt.reports = false := by assumption) (w_frm : pt.frm = false := by assumption) (w_cores : pt.cores = false := by assumption) :
    Keeps pt s0 (doMatmul n p cycle blocks parity s) := by
  unfold doMatmul
  repeat' first
    | with_reducible assumption
    | (intro _)
    | (extract_lets +onlyGivenNames x; refine (fun hx : Keeps pt s0 x => ?_) ?_; try clear_value x; rotate_left; unfold x; clear x; rotate_right; rename State => z)
    | (extract_lets +onlyGivenNames x; have hb : MemBlk := x; clear hb; subst x)
    | (extract_lets +onlyGivenNames x; have hb : CoresBlk := x; clear hb; subst x)
    | (extract_lets +onlyGivenNames x; have hb : PrtBlk := x; clear hb; subst x)
    | (extract_lets +onlyGivenNames x; have hb : FrmBlk := x; clear hb; subst x)
    | (extract_lets +onlyGivenNames x; have hb : KprBlk := x; clear hb; subst x)
    | (extract_lets +onlyGivenNames x; have hb : HifBlk := x; clear hb; subst x)
    | (extract_lets +onlyGivenNames x; try clear_value x; revert x; intro z)
    | (with_reducible refine Keeps.upd ?_)
    | (with_reducible apply runMatmul_keeps)
    | (with_reducible apply startEntry_keeps)
    | (with_reducible apply faultEntry_keeps)
    | (with_reducible apply recordExcs_keeps)
    | (with_reducible apply updEntry_keeps)
    | (rw [State.mk_made]; with_reducible refine Keeps.upd ?_)
    | split

theorem drainOut_keeps {pt : Untouched} {s0 : State} (n : Nat) (d : MatDesc) (o : Nat × Nat × Nat) (st : State × List Exc)
    (h_s : Keeps pt s0 st.1) (w_store : pt.store = false := by assumption) :
    Keeps pt s0 (drainOut n d o st).1 := by
  exact putStore_keeps _ _ _ _ h_s

theorem drainWords_keeps {pt : Untouched} {s0 : State} (n p k : Nat) (s : State) (h_s : Keeps pt s0 s) (w_store : pt.store = false := by assumption) (w_cores : pt.cores = false := by assumption) :
    Keeps pt s0 (drainWords n p k s) := by
  unfold drainWords
  split
  · exact h_s
  · split
    · exact h_s
    · rename_i h _ _ _ e _
      dsimp only
      refine setPane_keeps _ _ _ _ (updEntry_keeps _ _ _ _ (recordExcs_keeps _ _ _ _ _ _ ?_))
      exact Keeps.foldlPair _ (fun x o hx => drainOut_keeps n _ o x hx) h_s

theorem drainBefore_keeps {pt : Untouched} {s0 : State} (l : List (Nat × Nat)) (s : State) (h_s : Keeps pt s0 s) (w_store : pt.store = false := by assumption) (w_cores : pt.cores = false := by assumption) :
    Keeps pt s0 (drainBefore l s) := by
  unfold drainBefore
  repeat' first
    | with_reducible assumption
    | (intro _)
    | (extract_lets +onlyGivenNames x; refine (fun hx : Keeps pt s0 x => ?_) ?_; try clear_value x; rotate_left; unfold x; clear x; rotate_right; rename State => z)
    | (extract_lets +onlyGivenNames x; have hb : MemBlk := x; clear hb; subst x)
    | (extract_lets +onlyGivenNames x; have hb : CoresBlk := x; clear hb; subst x)
    | (extract_lets +onlyGivenNames x; have hb : PrtBlk := x; clear hb; subst x)
    | (extract_lets +onlyGivenNames x; have hb : FrmBlk := x; clear hb; subst x)
    | (extract_lets +onlyGivenNames x; have hb : KprBlk := x; clear hb; subst x)
    | (extract_lets +onlyGivenNames x; have hb : HifBlk := x; clear hb; subst x)
    | (extract_lets +onlyGivenNames x; try clear_value x; revert x; intro z)
    | (with_reducible refine Keeps.upd ?_)
    | (with_reducible apply drainWords_keeps)
    | (with_reducible refine Keeps.foldl _ ?_ ?_)
    | (rw [State.mk_made]; with_reducible refine Keeps.upd ?_)
    | split

theorem doDrainHalfDone_keeps {pt : Untouched} {s0 : State} (n p held fa fb fd tail : Nat) (parity : Bool) (s : State) (h_s : Keeps pt s0 s) (w_store : pt.store = false := by assumption) (w_reports : pt.reports = false := by assumption) (w_frm : pt.frm = false := by assumption) (w_cores : pt.cores = false := by assumption) :
    Keeps pt s0 (doDrainHalfDone n p held fa fb fd tail parity s) := by
  unfold doDrainHalfDone
  split
  · exact h_s
  · split
    · exact h_s
    · split
      · exact setPane_keeps _ _ _ _ h_s
      · dsimp only
        split
        · exact faultEntry_keeps _ _ _ _ (setPane_keeps _ _ _ _ h_s)
        · exact setPane_keeps _ _ _ _ (updEntry_keeps _ _ _ _ (drainWords_keeps _ _ _ _ h_s))

theorem doPaneParityError_keeps {pt : Untouched} {s0 : State} (n p : Nat) (s : State) (h_s : Keeps pt s0 s) (w_reports : pt.reports = false := by assumption) (w_flp : pt.flp = false := by assumption) (w_dbg : pt.dbg = false := by assumption) (w_dev : pt.dev = false := by assumption) (w_frm : pt.frm = false := by assumption) (w_cores : pt.cores = false := by assumption) :
    Keeps pt s0 (doPaneParityError n p s) := by
  unfold doPaneParityError
  repeat' first
    | with_reducible assumption
    | (extract_lets +onlyGivenNames x; have hb : FrmBlk := x; clear hb; subst x)
    | (extract_lets +onlyGivenNames x; have hb : KprBlk := x; clear hb; subst x)
    | (with_reducible refine Keeps.upd ?_)
    | (with_reducible apply failPane_keeps)
    | (with_reducible apply fenceUnits_keeps)
    | split

end Sys2Proof.Machine
end

