-- ==== Sys2Proof/Laws/KeepsPlanner.lean ====
section
/-! SUPPORT. Every operation of Machine/Planner.lean keeps the fuses, the queue and canonical memories. -/
namespace Sys2Proof.Machine
set_option linter.all false
set_option Elab.async false

theorem fixCaps_keeps {pt : Untouched} {s0 : State} (s : State) (h_s : Keeps pt s0 s) (w_pwr : pt.pwr = false := by assumption) :
    Keeps pt s0 (fixCaps s) := by
  unfold fixCaps
  repeat' first
    | with_reducible assumption
    | (rw [State.mk_made]; with_reducible refine Keeps.upd ?_)

theorem noteForecasts_keeps {pt : Untouched} {s0 : State} (c : Scene) (a : Choice) (s : State) (h_s : Keeps pt s0 s) (w_thm : pt.thm = false := by assumption) :
    Keeps pt s0 (noteForecasts c a s) := by
  unfold noteForecasts
  repeat' first
    | with_reducible assumption
    | (intro _)
    | (with_reducible apply setPair_keeps)
    | (with_reducible apply setMemPair_keeps)
    | (with_reducible refine Keeps.foldl _ ?_ ?_)
    | (rw [State.mk_made]; with_reducible refine Keeps.upd ?_)

theorem fixDuty_keeps {pt : Untouched} {s0 : State} (s : State) (h_s : Keeps pt s0 s) (w_sup : pt.sup = false := by assumption) :
    Keeps pt s0 (fixDuty s) := by
  unfold fixDuty
  repeat' first
    | with_reducible assumption
    | (intro _)
    | (extract_lets +onlyGivenNames x; refine (fun hx : Keeps pt s0 x => ?_) ?_; try clear_value x; rotate_left; unfold x; clear x; rotate_right; rename State => z)
    | (extract_lets +onlyGivenNames x; have hb : MemBlk := x; clear hb; subst x)
    | (extract_lets +onlyGivenNames x; have hb : CoresBlk := x; clear hb; subst x)
    | (extract_lets +onlyGivenNames x; have hb : PrtBlk := x; clear hb; subst x)
    | (extract_lets +onlyGivenNames x; have hb : FrmBlk := x; clear hb; subst x)
    | (extract_lets +onlyGivenNames x; have hb : KprBlk := x; clear hb; subst x)
    | (extract_lets +onlyGivenNames x; have hb : HifBlk := x; clear hb; subst x)
    | (extract_lets +onlyGivenNames x; try clear_value x; revert x; intro z)
    | (with_reducible refine Keeps.upd ?_)
    | (rw [State.mk_made]; with_reducible refine Keeps.upd ?_)
    | split

theorem fixPlan_keeps {pt : Untouched} {s0 : State} (i : Image) (f : Forecast) (number start period : Nat) (s : State) (h_s : Keeps pt s0 s) (w_pwr : pt.pwr = false := by assumption) (w_sup : pt.sup = false := by assumption) (w_thm : pt.thm = false := by assumption) :
    Keeps pt s0 (fixPlan i f number start period s) := by
  unfold fixPlan
  repeat' first
    | with_reducible assumption
    | (intro _)
    | (extract_lets +onlyGivenNames x; refine (fun hx : Keeps pt s0 x => ?_) ?_; try clear_value x; rotate_left; unfold x; clear x; rotate_right; rename State => z)
    | (extract_lets +onlyGivenNames x; have hb : MemBlk := x; clear hb; subst x)
    | (extract_lets +onlyGivenNames x; have hb : CoresBlk := x; clear hb; subst x)
    | (extract_lets +onlyGivenNames x; have hb : PrtBlk := x; clear hb; subst x)
    | (extract_lets +onlyGivenNames x; have hb : FrmBlk := x; clear hb; subst x)
    | (extract_lets +onlyGivenNames x; have hb : KprBlk := x; clear hb; subst x)
    | (extract_lets +onlyGivenNames x; have hb : HifBlk := x; clear hb; subst x)
    | (extract_lets +onlyGivenNames x; try clear_value x; revert x; intro z)
    | (with_reducible refine Keeps.upd ?_)
    | (with_reducible apply fixDuty_keeps)
    | (with_reducible apply fixCaps_keeps)
    | (with_reducible apply noteForecasts_keeps)
    | (rw [State.mk_made]; with_reducible refine Keeps.upd ?_)
    | split

end Sys2Proof.Machine
end

