-- ==== Sys2Proof/Laws/KeepsDebug.lean ====
section
/-! SUPPORT. Every operation of Machine/Debug.lean keeps the fuses, the queue and canonical memories. -/
namespace Sys2Proof.Machine
set_option linter.all false
set_option Elab.async false

theorem writeDbgSel_keeps {pt : Untouched} {s0 : State} (v : Nat) (s : State) (h_s : Keeps pt s0 s) (w_reports : pt.reports = false := by assumption) (w_dbg : pt.dbg = false := by assumption) :
    Keeps pt s0 (writeDbgSel v s) := by
  unfold writeDbgSel
  repeat' first
    | with_reducible assumption
    | (intro _)
    | (with_reducible apply regWrite_keeps)
    | (with_reducible apply refuse_keeps)
    | (rw [State.mk_made]; with_reducible refine Keeps.upd ?_)
    | split

theorem writeDbgStatus_keeps {pt : Untouched} {s0 : State} (v : Nat) (s : State) (h_s : Keeps pt s0 s) (w_reports : pt.reports = false := by assumption) (w_dbg : pt.dbg = false := by assumption) :
    Keeps pt s0 (writeDbgStatus v s) := by
  unfold writeDbgStatus
  repeat' first
    | with_reducible assumption
    | (intro _)
    | (with_reducible apply regWrite_keeps)
    | (with_reducible apply refuse_keeps)
    | (rw [State.mk_made]; with_reducible refine Keeps.upd ?_)
    | split

theorem doDbgCsRead_keeps {pt : Untouched} {s0 : State} (k : Nat) (parity : Bool) (s : State) (h_s : Keeps pt s0 s) (w_dbg : pt.dbg = false := by assumption) :
    Keeps pt s0 (doDbgCsRead k parity s) := by
  unfold doDbgCsRead
  repeat' first
    | with_reducible assumption
    | (with_reducible apply emit_keeps)
    | (rw [State.mk_made]; with_reducible refine Keeps.upd ?_)
    | split

end Sys2Proof.Machine
end

