-- ==== Sys2Proof/Laws/KeepsTelemetry.lean ====
section
/-! SUPPORT. Every operation of Machine/Telemetry.lean keeps the fuses, the queue and canonical memories. -/
namespace Sys2Proof.Machine
set_option linter.all false
set_option Elab.async false

theorem collectWaiting_keeps {pt : Untouched} {s0 : State} (bus : Nat) (s : State) (h_s : Keeps pt s0 s) (w_reports : pt.reports = false := by assumption) :
    Keeps pt s0 (collectWaiting bus s) := by
  unfold collectWaiting
  repeat' first
    | with_reducible assumption
    | (intro _)
    | (with_reducible apply emit_keeps)
    | (with_reducible refine Keeps.foldl _ ?_ ?_)
    | (rw [State.mk_made]; with_reducible refine Keeps.upd ?_)
    | split

theorem controlAnswer_keeps {pt : Untouched} {s0 : State} (cmd : Nat) (data : List Nat) (s : State) (h_s : Keeps pt s0 s) (w_reports : pt.reports = false := by assumption) :
    Keeps pt s0 (controlAnswer cmd data s) := by
  unfold controlAnswer
  repeat' first
    | with_reducible assumption
    | (extract_lets +onlyGivenNames x; refine (fun hx : Keeps pt s0 x => ?_) ?_; try clear_value x; rotate_left; unfold x; clear x; rotate_right; rename State => z)
    | (with_reducible apply emit_keeps)
    | (with_reducible apply useFresh_keeps)
    | (rw [State.mk_made]; with_reducible refine Keeps.upd ?_)
    | split

theorem doMctpControlMessage_keeps {pt : Untouched} {s0 : State} (bus cmd : Nat) (data : List Nat) (s : State) (h_s : Keeps pt s0 s) (w_reports : pt.reports = false := by assumption) :
    Keeps pt s0 (doMctpControlMessage bus cmd data s) := by
  unfold doMctpControlMessage
  repeat' first
    | with_reducible assumption
    | (extract_lets +onlyGivenNames x; refine (fun hx : Keeps pt s0 x => ?_) ?_; try clear_value x; rotate_left; unfold x; clear x; rotate_right; rename State => z)
    | (with_reducible apply controlAnswer_keeps)
    | (with_reducible apply collectWaiting_keeps)
    | split

theorem doGetSensorReading_keeps {pt : Untouched} {s0 : State} (bus id : Nat) (s : State) (h_s : Keeps pt s0 s) : Keeps pt s0 (doGetSensorReading bus id s) := by
  unfold doGetSensorReading
  repeat' first
    | with_reducible assumption
    | (extract_lets +onlyGivenNames x; refine (fun hx : Keeps pt s0 x => ?_) ?_; try clear_value x; rotate_left; unfold x; clear x; rotate_right; rename State => z)
    | (with_reducible apply emit_keeps)
    | split

theorem doSetNumericEffecterValue_keeps {pt : Untouched} {s0 : State} (bus id v : Nat) (s : State) (h_s : Keeps pt s0 s) (w_reports : pt.reports = false := by assumption) (w_pwr : pt.pwr = false := by assumption) :
    Keeps pt s0 (doSetNumericEffecterValue bus id v s) := by
  unfold doSetNumericEffecterValue
  repeat' first
    | with_reducible assumption
    | (intro _)
    | (extract_lets +onlyGivenNames x; refine (fun hx : Keeps pt s0 x => ?_) ?_; try clear_value x; rotate_left; unfold x; clear x; rotate_right; rename State => z)
    | (extract_lets +onlyGivenNames x; have hb : MemBlk := x; clear hb; subst x)
    | (extract_lets +onlyGivenNames x; have hb : CoresBlk := x; clear hb; subst x)
    | (extract_lets +onlyGivenNames x; have hb : PrtBlk := x; clear hb; subst x)
    | (extract_lets +onlyGivenNames x; have hb : FrmBlk := x; clear hb; subst x)
    | (extract_lets +onlyGivenNames x; have hb : KprBlk := x; clear hb; subst x)
    | (extract_lets +onlyGivenNames x; have hb : HifBlk := x; clear hb; subst x)
    | (extract_lets +onlyGivenNames x; try clear_value x; revert x; intro z)
    | (with_reducible refine Keeps.upd ?_)
    | (with_reducible apply writeCapAside_keeps)
    | (rw [State.mk_made]; with_reducible refine Keeps.upd ?_)
    | split

theorem doSetEventReceiver_keeps {pt : Untouched} {s0 : State} (bus : Nat) (receiver : Option Nat) (polls : Bool) (s : State) (h_s : Keeps pt s0 s) (w_reports : pt.reports = false := by assumption) :
    Keeps pt s0 (doSetEventReceiver bus receiver polls s) := by
  unfold doSetEventReceiver
  repeat' first
    | with_reducible assumption
    | (extract_lets +onlyGivenNames x; refine (fun hx : Keeps pt s0 x => ?_) ?_; try clear_value x; rotate_left; unfold x; clear x; rotate_right; rename State => z)
    | (rw [State.mk_made]; with_reducible refine Keeps.upd ?_)
    | split

theorem doI3cDynamicAddress_keeps {pt : Untouched} {s0 : State} (a : Nat) (s : State) (h_s : Keeps pt s0 s) (w_reports : pt.reports = false := by assumption) :
    Keeps pt s0 (doI3cDynamicAddress a s) := by
  unfold doI3cDynamicAddress
  repeat' first
    | with_reducible assumption
    | (extract_lets +onlyGivenNames x; refine (fun hx : Keeps pt s0 x => ?_) ?_; try clear_value x; rotate_left; unfold x; clear x; rotate_right; rename State => z)
    | (rw [State.mk_made]; with_reducible refine Keeps.upd ?_)
    | split

end Sys2Proof.Machine
end

