-- ==== Sys2Proof/Laws/KeepsRegs.lean ====
section
/-! SUPPORT. Every operation of Machine/Regs.lean keeps the fuses, the queue and canonical memories. -/
namespace Sys2Proof.Machine
set_option linter.all false
set_option Elab.async false

theorem writeImageBase_keeps {pt : Untouched} {s0 : State} (v : Nat) (s : State) (h_s : Keeps pt s0 s) (w_reports : pt.reports = false := by assumption) (w_dev : pt.dev = false := by assumption) :
    Keeps pt s0 (writeImageBase v s) := by
  unfold writeImageBase
  repeat' first
    | with_reducible assumption
    | (intro _)
    | (extract_lets +onlyGivenNames x; have hb : KprBlk := x; clear hb; subst x)
    | (with_reducible apply regWrite_keeps)
    | (with_reducible apply refuse_keeps)
    | (rw [State.mk_made]; with_reducible refine Keeps.upd ?_)
    | split

theorem writeImageLen_keeps {pt : Untouched} {s0 : State} (v : Nat) (s : State) (h_s : Keeps pt s0 s) (w_reports : pt.reports = false := by assumption) (w_dev : pt.dev = false := by assumption) :
    Keeps pt s0 (writeImageLen v s) := by
  unfold writeImageLen
  repeat' first
    | with_reducible assumption
    | (intro _)
    | (extract_lets +onlyGivenNames x; have hb : KprBlk := x; clear hb; subst x)
    | (with_reducible apply regWrite_keeps)
    | (with_reducible apply refuse_keeps)
    | (rw [State.mk_made]; with_reducible refine Keeps.upd ?_)
    | split

theorem writePkgAddr_keeps {pt : Untouched} {s0 : State} (v : Nat) (s : State) (h_s : Keeps pt s0 s) (w_reports : pt.reports = false := by assumption) (w_prt : pt.prt = false := by assumption) :
    Keeps pt s0 (writePkgAddr v s) := by
  unfold writePkgAddr
  repeat' first
    | with_reducible assumption
    | (intro _)
    | (extract_lets +onlyGivenNames x; have hb : KprBlk := x; clear hb; subst x)
    | (with_reducible apply regWrite_keeps)
    | (with_reducible apply refuse_keeps)
    | (rw [State.mk_made]; with_reducible refine Keeps.upd ?_)
    | split

theorem writePkgLen_keeps {pt : Untouched} {s0 : State} (v : Nat) (s : State) (h_s : Keeps pt s0 s) (w_reports : pt.reports = false := by assumption) (w_prt : pt.prt = false := by assumption) :
    Keeps pt s0 (writePkgLen v s) := by
  unfold writePkgLen
  repeat' first
    | with_reducible assumption
    | (intro _)
    | (extract_lets +onlyGivenNames x; have hb : KprBlk := x; clear hb; subst x)
    | (with_reducible apply regWrite_keeps)
    | (with_reducible apply refuse_keeps)
    | (rw [State.mk_made]; with_reducible refine Keeps.upd ?_)
    | split

theorem writeMsix_keeps {pt : Untouched} {s0 : State} (v w x : Nat) (s : State) (h_s : Keeps pt s0 s) (w_reports : pt.reports = false := by assumption) (w_hif : pt.hif = false := by assumption) :
    Keeps pt s0 (writeMsix v w x s) := by
  unfold writeMsix
  repeat' first
    | with_reducible assumption
    | (with_reducible apply sendPending_keeps)
    | (rw [State.mk_made]; with_reducible refine Keeps.upd ?_)
    | split

theorem writeArrays_keeps {pt : Untouched} {s0 : State} (off v : Nat) (s : State) (h_s : Keeps pt s0 s) (w_reports : pt.reports = false := by assumption) (w_hif : pt.hif = false := by assumption) (w_frm : pt.frm = false := by assumption) (w_cores : pt.cores = false := by assumption) (w_req : pt.req = false := by assumption) (w_lnk : pt.lnk = false := by assumption) :
    Keeps pt s0 (writeArrays off v s) := by
  unfold writeArrays
  repeat' first
    | with_reducible assumption
    | (with_reducible apply writeRegionSel_keeps)
    | (with_reducible apply writeQpBase_keeps)
    | (with_reducible apply writeQp2_keeps)
    | (with_reducible apply refuse_keeps)
    | (with_reducible apply writeWin_keeps)
    | (with_reducible apply writeMsix_keeps)
    | (with_reducible apply writeRaccData_keeps)
    | (with_reducible apply writeLinkWord1_keeps)
    | (with_reducible apply writeFwd_keeps)
    | (rw [State.mk_made]; with_reducible refine Keeps.upd ?_)
    | split

theorem writeReg_keeps {pt : Untouched} {s0 : State} (off v : Nat) (s : State) (h_s : Keeps pt s0 s) (w_reports : pt.reports = false := by assumption) (w_state : pt.state = false := by assumption) (w_cycle : pt.cycle = false := by assumption) (w_kpr : pt.kpr = false := by assumption) (w_hif : pt.hif = false := by assumption) (w_dbg : pt.dbg = false := by assumption) (w_dev : pt.dev = false := by assumption) (w_frm : pt.frm = false := by assumption) (w_cores : pt.cores = false := by assumption) (w_mem : pt.mem = false := by assumption) (w_net : pt.net = false := by assumption) (w_bnk : pt.bnk = false := by assumption) (w_req : pt.req = false := by assumption) (w_lnk : pt.lnk = false := by assumption) (w_clk : pt.clk = false := by assumption) (w_pwr : pt.pwr = false := by assumption) (w_sup : pt.sup = false := by assumption) (w_thm : pt.thm = false := by assumption) (w_prt : pt.prt = false := by assumption) :
    Keeps pt s0 (writeReg off v s) := by
  unfold writeReg
  repeat' first
    | with_reducible assumption
    | (with_reducible apply writeDevCtrl_keeps)
    | (with_reducible apply writeImageBase_keeps)
    | (with_reducible apply writeImageLen_keeps)
    | (with_reducible apply writeRingBase_keeps)
    | (with_reducible apply writeEvtCtrl_keeps)
    | (with_reducible apply writeEvtHead_keeps)
    | (with_reducible apply writeReportBase_keeps)
    | (with_reducible apply writeReportCtrl_keeps)
    | (with_reducible apply writeAmaxSel_keeps)
    | (with_reducible apply writeKprCmd_keeps)
    | (with_reducible apply writeFwAddr_keeps)
    | (with_reducible apply writeFwLen_keeps)
    | (with_reducible apply writeLicAddr_keeps)
    | (with_reducible apply writeLicLen_keeps)
    | (with_reducible apply writeStart_keeps)
    | (with_reducible apply writeLatch_keeps)
    | (with_reducible apply writeNext_keeps)
    | (with_reducible apply writeBar2Base_keeps)
    | (with_reducible apply writeLnkDevice_keeps)
    | (with_reducible apply writeRaccCmd_keeps)
    | (with_reducible apply writeRaccAddr_keeps)
    | (with_reducible apply writeClkLimit_keeps)
    | (with_reducible apply writeClkNext_keeps)
    | (with_reducible apply writeCap_keeps)
    | (with_reducible apply writeCoolBase_keeps)
    | (with_reducible apply writePrtCmd_keeps)
    | (with_reducible apply writePkgAddr_keeps)
    | (with_reducible apply writePkgLen_keeps)
    | (with_reducible apply writeScrub_keeps)
    | (with_reducible apply writeCeThresh_keeps)
    | (with_reducible apply writeBnkSel_keeps)
    | (with_reducible apply writeHcmd0_keeps)
    | (with_reducible apply writeHcmd1_keeps)
    | (with_reducible apply writeDbgStatus_keeps)
    | (with_reducible apply writeDbgSel_keeps)
    | (with_reducible apply writeArrays_keeps)
    | split

theorem doRegisterWrite_keeps {pt : Untouched} {s0 : State} (off width v : Nat) (s : State) (h_s : Keeps pt s0 s) (w_reports : pt.reports = false := by assumption) (w_state : pt.state = false := by assumption) (w_cycle : pt.cycle = false := by assumption) (w_kpr : pt.kpr = false := by assumption) (w_hif : pt.hif = false := by assumption) (w_dbg : pt.dbg = false := by assumption) (w_dev : pt.dev = false := by assumption) (w_frm : pt.frm = false := by assumption) (w_cores : pt.cores = false := by assumption) (w_mem : pt.mem = false := by assumption) (w_net : pt.net = false := by assumption) (w_bnk : pt.bnk = false := by assumption) (w_req : pt.req = false := by assumption) (w_lnk : pt.lnk = false := by assumption) (w_clk : pt.clk = false := by assumption) (w_pwr : pt.pwr = false := by assumption) (w_sup : pt.sup = false := by assumption) (w_thm : pt.thm = false := by assumption) (w_prt : pt.prt = false := by assumption) :
    Keeps pt s0 (doRegisterWrite off width v s) := by
  unfold doRegisterWrite
  repeat' first
    | with_reducible assumption
    | (intro _)
    | (extract_lets +onlyGivenNames x; refine (fun hx : Keeps pt s0 x => ?_) ?_; try clear_value x; rotate_left; unfold x; clear x; rotate_right; rename State => z)
    | (extract_lets +onlyGivenNames x; have hb : MemBlk := x; clear hb; subst x)
    | (extract_lets +onlyGivenNames x; have hb : CoresBlk := x; clear hb; subst x)
    | (extract_lets +onlyGivenNames x; have hb : PrtBlk := x; clear hb; subst x)
    | (extract_lets +onlyGivenNames x; have hb : FrmBlk := x; clear hb; subst x)
    | (extract_lets +onlyGivenNames x; have hb : KprBlk := x; clear hb; subst x)
    | (extract_lets +onlyGivenNames x; have hb : HifBlk := x; clear hb; subst x)
    | (extract_lets +onlyGivenNames x; try clear_value x; revert x; intro z)
    | (with_reducible refine Keeps.upd ?_)
    | (with_reducible apply writeAer_keeps)
    | (with_reducible apply refuse_keeps)
    | (with_reducible apply writeReg_keeps)
    | (rw [State.mk_made]; with_reducible refine Keeps.upd ?_)
    | split

end Sys2Proof.Machine
end

