-- ==== Sys2Proof/Laws/Masks.lean ====
section
/-! SUPPORT. What the mask test of a register write comes to for values given by their fields. -/
namespace Sys2Proof.Laws
open Sys2Proof.Machine

/-- A value below `2 ^ n` sets none of the bits of a mask whose low `n` bits are clear. -/
theorem and_eq_zero_of_low {v n c : Nat} (h : v < 2 ^ n) (k : c % 2 ^ n = 0) : v &&& c = 0 := by
  apply Nat.eq_of_testBit_eq
  intro i
  rw [Nat.testBit_and, Nat.zero_testBit, Bool.and_eq_false_iff]
  by_cases hi : i < n
  · right
    have := Nat.testBit_mod_two_pow c n i
    rw [k, Nat.zero_testBit] at this
    simpa [hi] using this.symm
  · left
    exact Nat.testBit_lt_two_pow (Nat.lt_of_lt_of_le h (Nat.pow_le_pow_right (by decide) (by omega)))

/-- The bits of a sum of a multiple of `2 ^ n` and a value below it are those of both. -/
theorem and_eq_zero_of_parts {a v n c : Nat} (h : v < 2 ^ n) (k : v &&& c = 0) (j : 2 ^ n * a &&& c = 0) :
    (2 ^ n * a + v) &&& c = 0 := by
  rw [Nat.two_pow_add_eq_or_of_lt h, Nat.and_or_distrib_right, k, j]; rfl

/-- A register write whose value fits the mask runs its body. -/
theorem regWrite_runs {off v rw ro : Nat} {body : State → State} {s : State} (h : s.hostUp = true)
    (k : v &&& ((2 ^ 64 - 1) ^^^ (rw ||| ro)) = 0) : regWrite off v rw ro body s = body s := by
  unfold regWrite; rw [h, if_neg (by simp), if_neg (fun hn => hn k)]

/-- A register write that sets a bit it may not set is refused. -/
theorem regWrite_refuses {off v rw ro : Nat} {body : State → State} {s : State} (h : s.hostUp = true)
    (k : v &&& ((2 ^ 64 - 1) ^^^ (rw ||| ro)) ≠ 0) : regWrite off v rw ro body s = refuse off v 0x0123 s := by
  unfold regWrite; rw [h, if_neg (by simp), if_pos k]

/-- Before the keeper runs no register write arrives. -/
theorem regWrite_down {off v rw ro : Nat} {body : State → State} {s : State} (h : s.hostUp = false) :
    regWrite off v rw ro body s = s := by
  simp [regWrite, h]

/-- A write in a state that takes it runs its body. -/
theorem inState_runs {off v : Nat} {l : List DevState} {body : State → State} {s : State} (h : s.hostUp = true)
    (k : s.inStates l = true) : inState off v l body s = body s := by
  simp [inState, h, k]

/-- A write in any other state is refused with 0x0120. -/
theorem inState_refuses {off v : Nat} {l : List DevState} {body : State → State} {s : State} (h : s.hostUp = true)
    (k : s.inStates l = false) : inState off v l body s = refuse off v 0x0120 s := by
  simp [inState, h, k]

end Sys2Proof.Laws
end

