-- ==== Sys2Proof/Laws/Ops.lean ====
section
/-! SUPPORT. What the shared operations can do to the state: events touch the event block, the management endpoint, the
pending MSI-X bits, the outputs and host memory; a state change touches DEV.STATE beside them. -/
namespace Sys2Proof.Machine

/-- Only what reporting touches differs. -/
def OnlyReports (s t : State) : Prop :=
  ∃ evt tel out hm pba, t = { s with evt := evt, tel := tel, out := out, hostMem := hm, hif := { s.hif with pba := pba } }

theorem OnlyReports.refl (s : State) : OnlyReports s s := ⟨s.evt, s.tel, s.out, s.hostMem, s.hif.pba, rfl⟩

theorem OnlyReports.trans {a b c : State} (h : OnlyReports a b) (k : OnlyReports b c) : OnlyReports a c := by
  obtain ⟨_, _, _, _, _, rfl⟩ := h
  obtain ⟨_, _, _, _, _, rfl⟩ := k
  exact ⟨_, _, _, _, _, rfl⟩

theorem onlyReports_emit (o : Output) (s : State) : OnlyReports s (emit o s) := ⟨_, _, _, _, _, rfl⟩

theorem onlyReports_signalMsix (v : Nat) (s : State) : OnlyReports s (signalMsix v s) := by
  unfold signalMsix
  split
  · exact onlyReports_emit _ _
  · exact ⟨_, _, _, _, _, rfl⟩

theorem onlyReports_writeRecord (r : EvtRec) (s : State) : OnlyReports s (writeRecord r s) := by
  unfold writeRecord hostPut
  dsimp only
  split
  · exact OnlyReports.trans ⟨_, _, _, _, _, rfl⟩ (onlyReports_signalMsix _ _)
  · exact ⟨_, _, _, _, _, rfl⟩

theorem onlyReports_flushHeld (l : List EvtRec) (s : State) : OnlyReports s (flushHeld l s) := by
  induction l generalizing s with
  | nil => exact ⟨_, _, _, _, _, rfl⟩
  | cons r l ih =>
    unfold flushHeld
    split
    · exact (onlyReports_writeRecord _ _).trans (ih _)
    · exact ⟨_, _, _, _, _, rfl⟩

theorem onlyReports_flushEvents (s : State) : OnlyReports s (flushEvents s) := onlyReports_flushHeld _ _

theorem onlyReports_loseEvent (s : State) : OnlyReports s (loseEvent s) := ⟨_, _, _, _, _, rfl⟩

theorem onlyReports_holdRecord (r : EvtRec) (s : State) : OnlyReports s (holdRecord r s) := by
  unfold holdRecord
  dsimp only
  split
  · exact ⟨_, _, _, _, _, rfl⟩
  · split
    · exact ⟨_, _, _, _, _, rfl⟩
    · split <;> exact ⟨_, _, _, _, _, rfl⟩

theorem onlyReports_sendPem (r : EvtRec) (s : State) : OnlyReports s (sendPem r s) := by
  unfold sendPem
  dsimp only
  repeat' first
    | exact .refl s
    | exact ⟨_, _, _, _, _, rfl⟩
    | split

theorem onlyReports_raiseFull (kind severity reason unit count : Nat) (data : List Nat) (s : State) :
    OnlyReports s (raiseFull kind severity reason unit count data s) := by
  unfold raiseFull
  extract_lets r s1
  have h1 : OnlyReports s s1 := onlyReports_sendPem r s
  clear_value s1 r
  refine h1.trans ?_
  split
  · exact ⟨_, _, _, _, _, rfl⟩
  · split
    · exact ⟨_, _, _, _, _, rfl⟩
    · refine OnlyReports.trans ?_ (onlyReports_flushEvents _)
      refine OnlyReports.trans ?_ (onlyReports_holdRecord _ _)
      refine OnlyReports.trans (b := if kind = 2 then _ else s1) ?_ ⟨_, _, _, _, _, rfl⟩
      split <;> exact ⟨_, _, _, _, _, rfl⟩

theorem onlyReports_raise (kind severity unit : Nat) (data : List Nat) (s : State) :
    OnlyReports s (raise kind severity unit data s) := onlyReports_raiseFull _ _ _ _ _ _ _

theorem onlyReports_refuse (off v reason : Nat) (s : State) : OnlyReports s (refuse off v reason s) :=
  onlyReports_raiseFull _ _ _ _ _ _ _

theorem OnlyReports.kpr {s t : State} (h : OnlyReports s t) : t.kpr = s.kpr := by obtain ⟨_, _, _, _, _, rfl⟩ := h; rfl
theorem OnlyReports.fuses {s t : State} (h : OnlyReports s t) : t.fuses = s.fuses := by obtain ⟨_, _, _, _, _, rfl⟩ := h; rfl
theorem OnlyReports.flp {s t : State} (h : OnlyReports s t) : t.flp = s.flp := by obtain ⟨_, _, _, _, _, rfl⟩ := h; rfl
theorem OnlyReports.dbg {s t : State} (h : OnlyReports s t) : t.dbg = s.dbg := by obtain ⟨_, _, _, _, _, rfl⟩ := h; rfl
theorem OnlyReports.dev {s t : State} (h : OnlyReports s t) : t.dev = s.dev := by obtain ⟨_, _, _, _, _, rfl⟩ := h; rfl
theorem OnlyReports.frm {s t : State} (h : OnlyReports s t) : t.frm = s.frm := by obtain ⟨_, _, _, _, _, rfl⟩ := h; rfl
theorem OnlyReports.cores {s t : State} (h : OnlyReports s t) : t.cores = s.cores := by obtain ⟨_, _, _, _, _, rfl⟩ := h; rfl
theorem OnlyReports.mem {s t : State} (h : OnlyReports s t) : t.mem = s.mem := by obtain ⟨_, _, _, _, _, rfl⟩ := h; rfl
theorem OnlyReports.net {s t : State} (h : OnlyReports s t) : t.net = s.net := by obtain ⟨_, _, _, _, _, rfl⟩ := h; rfl
theorem OnlyReports.bnk {s t : State} (h : OnlyReports s t) : t.bnk = s.bnk := by obtain ⟨_, _, _, _, _, rfl⟩ := h; rfl
theorem OnlyReports.walkers {s t : State} (h : OnlyReports s t) : t.walkers = s.walkers := by obtain ⟨_, _, _, _, _, rfl⟩ := h; rfl
theorem OnlyReports.req {s t : State} (h : OnlyReports s t) : t.req = s.req := by obtain ⟨_, _, _, _, _, rfl⟩ := h; rfl
theorem OnlyReports.lnk {s t : State} (h : OnlyReports s t) : t.lnk = s.lnk := by obtain ⟨_, _, _, _, _, rfl⟩ := h; rfl
theorem OnlyReports.clk {s t : State} (h : OnlyReports s t) : t.clk = s.clk := by obtain ⟨_, _, _, _, _, rfl⟩ := h; rfl
theorem OnlyReports.pwr {s t : State} (h : OnlyReports s t) : t.pwr = s.pwr := by obtain ⟨_, _, _, _, _, rfl⟩ := h; rfl
theorem OnlyReports.sup {s t : State} (h : OnlyReports s t) : t.sup = s.sup := by obtain ⟨_, _, _, _, _, rfl⟩ := h; rfl
theorem OnlyReports.thm {s t : State} (h : OnlyReports s t) : t.thm = s.thm := by obtain ⟨_, _, _, _, _, rfl⟩ := h; rfl
theorem OnlyReports.prt {s t : State} (h : OnlyReports s t) : t.prt = s.prt := by obtain ⟨_, _, _, _, _, rfl⟩ := h; rfl
theorem OnlyReports.pending {s t : State} (h : OnlyReports s t) : t.pending = s.pending := by obtain ⟨_, _, _, _, _, rfl⟩ := h; rfl
theorem OnlyReports.fresh {s t : State} (h : OnlyReports s t) : t.fresh = s.fresh := by obtain ⟨_, _, _, _, _, rfl⟩ := h; rfl

@[simp] theorem raiseFull_kpr (kind severity reason unit count : Nat) (data : List Nat) (s : State) : (raiseFull kind severity reason unit count data s).kpr = s.kpr :=
  (onlyReports_raiseFull _ _ _ _ _ _ s).kpr
@[simp] theorem raiseFull_fuses (kind severity reason unit count : Nat) (data : List Nat) (s : State) : (raiseFull kind severity reason unit count data s).fuses = s.fuses :=
  (onlyReports_raiseFull _ _ _ _ _ _ s).fuses
@[simp] theorem raiseFull_flp (kind severity reason unit count : Nat) (data : List Nat) (s : State) : (raiseFull kind severity reason unit count data s).flp = s.flp :=
  (onlyReports_raiseFull _ _ _ _ _ _ s).flp
@[simp] theorem raiseFull_dbg (kind severity reason unit count : Nat) (data : List Nat) (s : State) : (raiseFull kind severity reason unit count data s).dbg = s.dbg :=
  (onlyReports_raiseFull _ _ _ _ _ _ s).dbg
@[simp] theorem raiseFull_dev (kind severity reason unit count : Nat) (data : List Nat) (s : State) : (raiseFull kind severity reason unit count data s).dev = s.dev :=
  (onlyReports_raiseFull _ _ _ _ _ _ s).dev
@[simp] theorem raiseFull_frm (kind severity reason unit count : Nat) (data : List Nat) (s : State) : (raiseFull kind severity reason unit count data s).frm = s.frm :=
  (onlyReports_raiseFull _ _ _ _ _ _ s).frm
@[simp] theorem raiseFull_cores (kind severity reason unit count : Nat) (data : List Nat) (s : State) : (raiseFull kind severity reason unit count data s).cores = s.cores :=
  (onlyReports_raiseFull _ _ _ _ _ _ s).cores
@[simp] theorem raiseFull_mem (kind severity reason unit count : Nat) (data : List Nat) (s : State) : (raiseFull kind severity reason unit count data s).mem = s.mem :=
  (onlyReports_raiseFull _ _ _ _ _ _ s).mem
@[simp] theorem raiseFull_net (kind severity reason unit count : Nat) (data : List Nat) (s : State) : (raiseFull kind severity reason unit count data s).net = s.net :=
  (onlyReports_raiseFull _ _ _ _ _ _ s).net
@[simp] theorem raiseFull_bnk (kind severity reason unit count : Nat) (data : List Nat) (s : State) : (raiseFull kind severity reason unit count data s).bnk = s.bnk :=
  (onlyReports_raiseFull _ _ _ _ _ _ s).bnk
@[simp] theorem raiseFull_walkers (kind severity reason unit count : Nat) (data : List Nat) (s : State) : (raiseFull kind severity reason unit count data s).walkers = s.walkers :=
  (onlyReports_raiseFull _ _ _ _ _ _ s).walkers
@[simp] theorem raiseFull_req (kind severity reason unit count : Nat) (data : List Nat) (s : State) : (raiseFull kind severity reason unit count data s).req = s.req :=
  (onlyReports_raiseFull _ _ _ _ _ _ s).req
@[simp] theorem raiseFull_lnk (kind severity reason unit count : Nat) (data : List Nat) (s : State) : (raiseFull kind severity reason unit count data s).lnk = s.lnk :=
  (onlyReports_raiseFull _ _ _ _ _ _ s).lnk
@[simp] theorem raiseFull_clk (kind severity reason unit count : Nat) (data : List Nat) (s : State) : (raiseFull kind severity reason unit count data s).clk = s.clk :=
  (onlyReports_raiseFull _ _ _ _ _ _ s).clk
@[simp] theorem raiseFull_pwr (kind severity reason unit count : Nat) (data : List Nat) (s : State) : (raiseFull kind severity reason unit count data s).pwr = s.pwr :=
  (onlyReports_raiseFull _ _ _ _ _ _ s).pwr
@[simp] theorem raiseFull_sup (kind severity reason unit count : Nat) (data : List Nat) (s : State) : (raiseFull kind severity reason unit count data s).sup = s.sup :=
  (onlyReports_raiseFull _ _ _ _ _ _ s).sup
@[simp] theorem raiseFull_thm (kind severity reason unit count : Nat) (data : List Nat) (s : State) : (raiseFull kind severity reason unit count data s).thm = s.thm :=
  (onlyReports_raiseFull _ _ _ _ _ _ s).thm
@[simp] theorem raiseFull_prt (kind severity reason unit count : Nat) (data : List Nat) (s : State) : (raiseFull kind severity reason unit count data s).prt = s.prt :=
  (onlyReports_raiseFull _ _ _ _ _ _ s).prt
@[simp] theorem raiseFull_pending (kind severity reason unit count : Nat) (data : List Nat) (s : State) : (raiseFull kind severity reason unit count data s).pending = s.pending :=
  (onlyReports_raiseFull _ _ _ _ _ _ s).pending
@[simp] theorem raiseFull_fresh (kind severity reason unit count : Nat) (data : List Nat) (s : State) : (raiseFull kind severity reason unit count data s).fresh = s.fresh :=
  (onlyReports_raiseFull _ _ _ _ _ _ s).fresh

@[simp] theorem raise_kpr (kind severity unit : Nat) (data : List Nat) (s : State) : (raise kind severity unit data s).kpr = s.kpr :=
  (onlyReports_raise _ _ _ _ s).kpr
@[simp] theorem raise_fuses (kind severity unit : Nat) (data : List Nat) (s : State) : (raise kind severity unit data s).fuses = s.fuses :=
  (onlyReports_raise _ _ _ _ s).fuses
@[simp] theorem raise_flp (kind severity unit : Nat) (data : List Nat) (s : State) : (raise kind severity unit data s).flp = s.flp :=
  (onlyReports_raise _ _ _ _ s).flp
@[simp] theorem raise_dbg (kind severity unit : Nat) (data : List Nat) (s : State) : (raise kind severity unit data s).dbg = s.dbg :=
  (onlyReports_raise _ _ _ _ s).dbg
@[simp] theorem raise_dev (kind severity unit : Nat) (data : List Nat) (s : State) : (raise kind severity unit data s).dev = s.dev :=
  (onlyReports_raise _ _ _ _ s).dev
@[simp] theorem raise_frm (kind severity unit : Nat) (data : List Nat) (s : State) : (raise kind severity unit data s).frm = s.frm :=
  (onlyReports_raise _ _ _ _ s).frm
@[simp] theorem raise_cores (kind severity unit : Nat) (data : List Nat) (s : State) : (raise kind severity unit data s).cores = s.cores :=
  (onlyReports_raise _ _ _ _ s).cores
@[simp] theorem raise_mem (kind severity unit : Nat) (data : List Nat) (s : State) : (raise kind severity unit data s).mem = s.mem :=
  (onlyReports_raise _ _ _ _ s).mem
@[simp] theorem raise_net (kind severity unit : Nat) (data : List Nat) (s : State) : (raise kind severity unit data s).net = s.net :=
  (onlyReports_raise _ _ _ _ s).net
@[simp] theorem raise_bnk (kind severity unit : Nat) (data : List Nat) (s : State) : (raise kind severity unit data s).bnk = s.bnk :=
  (onlyReports_raise _ _ _ _ s).bnk
@[simp] theorem raise_walkers (kind severity unit : Nat) (data : List Nat) (s : State) : (raise kind severity unit data s).walkers = s.walkers :=
  (onlyReports_raise _ _ _ _ s).walkers
@[simp] theorem raise_req (kind severity unit : Nat) (data : List Nat) (s : State) : (raise kind severity unit data s).req = s.req :=
  (onlyReports_raise _ _ _ _ s).req
@[simp] theorem raise_lnk (kind severity unit : Nat) (data : List Nat) (s : State) : (raise kind severity unit data s).lnk = s.lnk :=
  (onlyReports_raise _ _ _ _ s).lnk
@[simp] theorem raise_clk (kind severity unit : Nat) (data : List Nat) (s : State) : (raise kind severity unit data s).clk = s.clk :=
  (onlyReports_raise _ _ _ _ s).clk
@[simp] theorem raise_pwr (kind severity unit : Nat) (data : List Nat) (s : State) : (raise kind severity unit data s).pwr = s.pwr :=
  (onlyReports_raise _ _ _ _ s).pwr
@[simp] theorem raise_sup (kind severity unit : Nat) (data : List Nat) (s : State) : (raise kind severity unit data s).sup = s.sup :=
  (onlyReports_raise _ _ _ _ s).sup
@[simp] theorem raise_thm (kind severity unit : Nat) (data : List Nat) (s : State) : (raise kind severity unit data s).thm = s.thm :=
  (onlyReports_raise _ _ _ _ s).thm
@[simp] theorem raise_prt (kind severity unit : Nat) (data : List Nat) (s : State) : (raise kind severity unit data s).prt = s.prt :=
  (onlyReports_raise _ _ _ _ s).prt
@[simp] theorem raise_pending (kind severity unit : Nat) (data : List Nat) (s : State) : (raise kind severity unit data s).pending = s.pending :=
  (onlyReports_raise _ _ _ _ s).pending
@[simp] theorem raise_fresh (kind severity unit : Nat) (data : List Nat) (s : State) : (raise kind severity unit data s).fresh = s.fresh :=
  (onlyReports_raise _ _ _ _ s).fresh

@[simp] theorem refuse_kpr (off v reason : Nat) (s : State) : (refuse off v reason s).kpr = s.kpr :=
  (onlyReports_refuse _ _ _ s).kpr
@[simp] theorem refuse_fuses (off v reason : Nat) (s : State) : (refuse off v reason s).fuses = s.fuses :=
  (onlyReports_refuse _ _ _ s).fuses
@[simp] theorem refuse_flp (off v reason : Nat) (s : State) : (refuse off v reason s).flp = s.flp :=
  (onlyReports_refuse _ _ _ s).flp
@[simp] theorem refuse_dbg (off v reason : Nat) (s : State) : (refuse off v reason s).dbg = s.dbg :=
  (onlyReports_refuse _ _ _ s).dbg
@[simp] theorem refuse_dev (off v reason : Nat) (s : State) : (refuse off v reason s).dev = s.dev :=
  (onlyReports_refuse _ _ _ s).dev
@[simp] theorem refuse_frm (off v reason : Nat) (s : State) : (refuse off v reason s).frm = s.frm :=
  (onlyReports_refuse _ _ _ s).frm
@[simp] theorem refuse_cores (off v reason : Nat) (s : State) : (refuse off v reason s).cores = s.cores :=
  (onlyReports_refuse _ _ _ s).cores
@[simp] theorem refuse_mem (off v reason : Nat) (s : State) : (refuse off v reason s).mem = s.mem :=
  (onlyReports_refuse _ _ _ s).mem
@[simp] theorem refuse_net (off v reason : Nat) (s : State) : (refuse off v reason s).net = s.net :=
  (onlyReports_refuse _ _ _ s).net
@[simp] theorem refuse_bnk (off v reason : Nat) (s : State) : (refuse off v reason s).bnk = s.bnk :=
  (onlyReports_refuse _ _ _ s).bnk
@[simp] theorem refuse_walkers (off v reason : Nat) (s : State) : (refuse off v reason s).walkers = s.walkers :=
  (onlyReports_refuse _ _ _ s).walkers
@[simp] theorem refuse_req (off v reason : Nat) (s : State) : (refuse off v reason s).req = s.req :=
  (onlyReports_refuse _ _ _ s).req
@[simp] theorem refuse_lnk (off v reason : Nat) (s : State) : (refuse off v reason s).lnk = s.lnk :=
  (onlyReports_refuse _ _ _ s).lnk
@[simp] theorem refuse_clk (off v reason : Nat) (s : State) : (refuse off v reason s).clk = s.clk :=
  (onlyReports_refuse _ _ _ s).clk
@[simp] theorem refuse_pwr (off v reason : Nat) (s : State) : (refuse off v reason s).pwr = s.pwr :=
  (onlyReports_refuse _ _ _ s).pwr
@[simp] theorem refuse_sup (off v reason : Nat) (s : State) : (refuse off v reason s).sup = s.sup :=
  (onlyReports_refuse _ _ _ s).sup
@[simp] theorem refuse_thm (off v reason : Nat) (s : State) : (refuse off v reason s).thm = s.thm :=
  (onlyReports_refuse _ _ _ s).thm
@[simp] theorem refuse_prt (off v reason : Nat) (s : State) : (refuse off v reason s).prt = s.prt :=
  (onlyReports_refuse _ _ _ s).prt
@[simp] theorem refuse_pending (off v reason : Nat) (s : State) : (refuse off v reason s).pending = s.pending :=
  (onlyReports_refuse _ _ _ s).pending
@[simp] theorem refuse_fresh (off v reason : Nat) (s : State) : (refuse off v reason s).fresh = s.fresh :=
  (onlyReports_refuse _ _ _ s).fresh

@[simp] theorem signalMsix_kpr (v : Nat) (s : State) : (signalMsix v s).kpr = s.kpr :=
  (onlyReports_signalMsix _ s).kpr
@[simp] theorem signalMsix_fuses (v : Nat) (s : State) : (signalMsix v s).fuses = s.fuses :=
  (onlyReports_signalMsix _ s).fuses
@[simp] theorem signalMsix_flp (v : Nat) (s : State) : (signalMsix v s).flp = s.flp :=
  (onlyReports_signalMsix _ s).flp
@[simp] theorem signalMsix_dbg (v : Nat) (s : State) : (signalMsix v s).dbg = s.dbg :=
  (onlyReports_signalMsix _ s).dbg
@[simp] theorem signalMsix_dev (v : Nat) (s : State) : (signalMsix v s).dev = s.dev :=
  (onlyReports_signalMsix _ s).dev
@[simp] theorem signalMsix_frm (v : Nat) (s : State) : (signalMsix v s).frm = s.frm :=
  (onlyReports_signalMsix _ s).frm
@[simp] theorem signalMsix_cores (v : Nat) (s : State) : (signalMsix v s).cores = s.cores :=
  (onlyReports_signalMsix _ s).cores
@[simp] theorem signalMsix_mem (v : Nat) (s : State) : (signalMsix v s).mem = s.mem :=
  (onlyReports_signalMsix _ s).mem
@[simp] theorem signalMsix_net (v : Nat) (s : State) : (signalMsix v s).net = s.net :=
  (onlyReports_signalMsix _ s).net
@[simp] theorem signalMsix_bnk (v : Nat) (s : State) : (signalMsix v s).bnk = s.bnk :=
  (onlyReports_signalMsix _ s).bnk
@[simp] theorem signalMsix_walkers (v : Nat) (s : State) : (signalMsix v s).walkers = s.walkers :=
  (onlyReports_signalMsix _ s).walkers
@[simp] theorem signalMsix_req (v : Nat) (s : State) : (signalMsix v s).req = s.req :=
  (onlyReports_signalMsix _ s).req
@[simp] theorem signalMsix_lnk (v : Nat) (s : State) : (signalMsix v s).lnk = s.lnk :=
  (onlyReports_signalMsix _ s).lnk
@[simp] theorem signalMsix_clk (v : Nat) (s : State) : (signalMsix v s).clk = s.clk :=
  (onlyReports_signalMsix _ s).clk
@[simp] theorem signalMsix_pwr (v : Nat) (s : State) : (signalMsix v s).pwr = s.pwr :=
  (onlyReports_signalMsix _ s).pwr
@[simp] theorem signalMsix_sup (v : Nat) (s : State) : (signalMsix v s).sup = s.sup :=
  (onlyReports_signalMsix _ s).sup
@[simp] theorem signalMsix_thm (v : Nat) (s : State) : (signalMsix v s).thm = s.thm :=
  (onlyReports_signalMsix _ s).thm
@[simp] theorem signalMsix_prt (v : Nat) (s : State) : (signalMsix v s).prt = s.prt :=
  (onlyReports_signalMsix _ s).prt
@[simp] theorem signalMsix_pending (v : Nat) (s : State) : (signalMsix v s).pending = s.pending :=
  (onlyReports_signalMsix _ s).pending
@[simp] theorem signalMsix_fresh (v : Nat) (s : State) : (signalMsix v s).fresh = s.fresh :=
  (onlyReports_signalMsix _ s).fresh

@[simp] theorem flushEvents_kpr  (s : State) : (flushEvents s).kpr = s.kpr :=
  (onlyReports_flushEvents  s).kpr
@[simp] theorem flushEvents_fuses  (s : State) : (flushEvents s).fuses = s.fuses :=
  (onlyReports_flushEvents  s).fuses
@[simp] theorem flushEvents_flp  (s : State) : (flushEvents s).flp = s.flp :=
  (onlyReports_flushEvents  s).flp
@[simp] theorem flushEvents_dbg  (s : State) : (flushEvents s).dbg = s.dbg :=
  (onlyReports_flushEvents  s).dbg
@[simp] theorem flushEvents_dev  (s : State) : (flushEvents s).dev = s.dev :=
  (onlyReports_flushEvents  s).dev
@[simp] theorem flushEvents_frm  (s : State) : (flushEvents s).frm = s.frm :=
  (onlyReports_flushEvents  s).frm
@[simp] theorem flushEvents_cores  (s : State) : (flushEvents s).cores = s.cores :=
  (onlyReports_flushEvents  s).cores
@[simp] theorem flushEvents_mem  (s : State) : (flushEvents s).mem = s.mem :=
  (onlyReports_flushEvents  s).mem
@[simp] theorem flushEvents_net  (s : State) : (flushEvents s).net = s.net :=
  (onlyReports_flushEvents  s).net
@[simp] theorem flushEvents_bnk  (s : State) : (flushEvents s).bnk = s.bnk :=
  (onlyReports_flushEvents  s).bnk
@[simp] theorem flushEvents_walkers  (s : State) : (flushEvents s).walkers = s.walkers :=
  (onlyReports_flushEvents  s).walkers
@[simp] theorem flushEvents_req  (s : State) : (flushEvents s).req = s.req :=
  (onlyReports_flushEvents  s).req
@[simp] theorem flushEvents_lnk  (s : State) : (flushEvents s).lnk = s.lnk :=
  (onlyReports_flushEvents  s).lnk
@[simp] theorem flushEvents_clk  (s : State) : (flushEvents s).clk = s.clk :=
  (onlyReports_flushEvents  s).clk
@[simp] theorem flushEvents_pwr  (s : State) : (flushEvents s).pwr = s.pwr :=
  (onlyReports_flushEvents  s).pwr
@[simp] theorem flushEvents_sup  (s : State) : (flushEvents s).sup = s.sup :=
  (onlyReports_flushEvents  s).sup
@[simp] theorem flushEvents_thm  (s : State) : (flushEvents s).thm = s.thm :=
  (onlyReports_flushEvents  s).thm
@[simp] theorem flushEvents_prt  (s : State) : (flushEvents s).prt = s.prt :=
  (onlyReports_flushEvents  s).prt
@[simp] theorem flushEvents_pending  (s : State) : (flushEvents s).pending = s.pending :=
  (onlyReports_flushEvents  s).pending
@[simp] theorem flushEvents_fresh  (s : State) : (flushEvents s).fresh = s.fresh :=
  (onlyReports_flushEvents  s).fresh

theorem OnlyReports.hif_linkUp {s t : State} (h : OnlyReports s t) : t.hif.linkUp = s.hif.linkUp := by obtain ⟨_, _, _, _, _, rfl⟩ := h; rfl
theorem OnlyReports.hif_speed {s t : State} (h : OnlyReports s t) : t.hif.speed = s.hif.speed := by obtain ⟨_, _, _, _, _, rfl⟩ := h; rfl
theorem OnlyReports.hif_width {s t : State} (h : OnlyReports s t) : t.hif.width = s.hif.width := by obtain ⟨_, _, _, _, _, rfl⟩ := h; rfl
theorem OnlyReports.hif_mode {s t : State} (h : OnlyReports s t) : t.hif.mode = s.hif.mode := by obtain ⟨_, _, _, _, _, rfl⟩ := h; rfl
theorem OnlyReports.hif_memActive {s t : State} (h : OnlyReports s t) : t.hif.memActive = s.hif.memActive := by obtain ⟨_, _, _, _, _, rfl⟩ := h; rfl
theorem OnlyReports.hif_bme {s t : State} (h : OnlyReports s t) : t.hif.bme = s.hif.bme := by obtain ⟨_, _, _, _, _, rfl⟩ := h; rfl
theorem OnlyReports.hif_d3hot {s t : State} (h : OnlyReports s t) : t.hif.d3hot = s.hif.d3hot := by obtain ⟨_, _, _, _, _, rfl⟩ := h; rfl
theorem OnlyReports.hif_baseGib {s t : State} (h : OnlyReports s t) : t.hif.baseGib = s.hif.baseGib := by obtain ⟨_, _, _, _, _, rfl⟩ := h; rfl
theorem OnlyReports.hif_ownedDiscards {s t : State} (h : OnlyReports s t) : t.hif.ownedDiscards = s.hif.ownedDiscards := by obtain ⟨_, _, _, _, _, rfl⟩ := h; rfl
theorem OnlyReports.hif_poisonReturned {s t : State} (h : OnlyReports s t) : t.hif.poisonReturned = s.hif.poisonReturned := by obtain ⟨_, _, _, _, _, rfl⟩ := h; rfl
theorem OnlyReports.hif_completerAborts {s t : State} (h : OnlyReports s t) : t.hif.completerAborts = s.hif.completerAborts := by obtain ⟨_, _, _, _, _, rfl⟩ := h; rfl
theorem OnlyReports.hif_unsupported {s t : State} (h : OnlyReports s t) : t.hif.unsupported = s.hif.unsupported := by obtain ⟨_, _, _, _, _, rfl⟩ := h; rfl
theorem OnlyReports.hif_poisonedIn {s t : State} (h : OnlyReports s t) : t.hif.poisonedIn = s.hif.poisonedIn := by obtain ⟨_, _, _, _, _, rfl⟩ := h; rfl
theorem OnlyReports.hif_errKind {s t : State} (h : OnlyReports s t) : t.hif.errKind = s.hif.errKind := by obtain ⟨_, _, _, _, _, rfl⟩ := h; rfl
theorem OnlyReports.hif_errWindow {s t : State} (h : OnlyReports s t) : t.hif.errWindow = s.hif.errWindow := by obtain ⟨_, _, _, _, _, rfl⟩ := h; rfl
theorem OnlyReports.hif_errAddr {s t : State} (h : OnlyReports s t) : t.hif.errAddr = s.hif.errAddr := by obtain ⟨_, _, _, _, _, rfl⟩ := h; rfl
theorem OnlyReports.hif_win {s t : State} (h : OnlyReports s t) : t.hif.win = s.hif.win := by obtain ⟨_, _, _, _, _, rfl⟩ := h; rfl
theorem OnlyReports.hif_discardSeen {s t : State} (h : OnlyReports s t) : t.hif.discardSeen = s.hif.discardSeen := by obtain ⟨_, _, _, _, _, rfl⟩ := h; rfl
theorem OnlyReports.hif_discardWin {s t : State} (h : OnlyReports s t) : t.hif.discardWin = s.hif.discardWin := by obtain ⟨_, _, _, _, _, rfl⟩ := h; rfl
theorem OnlyReports.hif_msixAddr {s t : State} (h : OnlyReports s t) : t.hif.msixAddr = s.hif.msixAddr := by obtain ⟨_, _, _, _, _, rfl⟩ := h; rfl
theorem OnlyReports.hif_msixData {s t : State} (h : OnlyReports s t) : t.hif.msixData = s.hif.msixData := by obtain ⟨_, _, _, _, _, rfl⟩ := h; rfl
theorem OnlyReports.hif_msixUnmask {s t : State} (h : OnlyReports s t) : t.hif.msixUnmask = s.hif.msixUnmask := by obtain ⟨_, _, _, _, _, rfl⟩ := h; rfl
theorem OnlyReports.hif_aer {s t : State} (h : OnlyReports s t) : t.hif.aer = s.hif.aer := by obtain ⟨_, _, _, _, _, rfl⟩ := h; rfl
theorem OnlyReports.hif_doeBusy {s t : State} (h : OnlyReports s t) : t.hif.doeBusy = s.hif.doeBusy := by obtain ⟨_, _, _, _, _, rfl⟩ := h; rfl
theorem OnlyReports.hif_doeError {s t : State} (h : OnlyReports s t) : t.hif.doeError = s.hif.doeError := by obtain ⟨_, _, _, _, _, rfl⟩ := h; rfl
theorem OnlyReports.hif_doeOut {s t : State} (h : OnlyReports s t) : t.hif.doeOut = s.hif.doeOut := by obtain ⟨_, _, _, _, _, rfl⟩ := h; rfl
theorem OnlyReports.hif_cxlEvents {s t : State} (h : OnlyReports s t) : t.hif.cxlEvents = s.hif.cxlEvents := by obtain ⟨_, _, _, _, _, rfl⟩ := h; rfl

@[simp] theorem raiseFull_hif_linkUp (kind severity reason unit count : Nat) (data : List Nat) (s : State) : (raiseFull kind severity reason unit count data s).hif.linkUp = s.hif.linkUp :=
  (onlyReports_raiseFull _ _ _ _ _ _ s).hif_linkUp
@[simp] theorem raiseFull_hif_speed (kind severity reason unit count : Nat) (data : List Nat) (s : State) : (raiseFull kind severity reason unit count data s).hif.speed = s.hif.speed :=
  (onlyReports_raiseFull _ _ _ _ _ _ s).hif_speed
@[simp] theorem raiseFull_hif_width (kind severity reason unit count : Nat) (data : List Nat) (s : State) : (raiseFull kind severity reason unit count data s).hif.width = s.hif.width :=
  (onlyReports_raiseFull _ _ _ _ _ _ s).hif_width
@[simp] theorem raiseFull_hif_mode (kind severity reason unit count : Nat) (data : List Nat) (s : State) : (raiseFull kind severity reason unit count data s).hif.mode = s.hif.mode :=
  (onlyReports_raiseFull _ _ _ _ _ _ s).hif_mode
@[simp] theorem raiseFull_hif_memActive (kind severity reason unit count : Nat) (data : List Nat) (s : State) : (raiseFull kind severity reason unit count data s).hif.memActive = s.hif.memActive :=
  (onlyReports_raiseFull _ _ _ _ _ _ s).hif_memActive
@[simp] theorem raiseFull_hif_bme (kind severity reason unit count : Nat) (data : List Nat) (s : State) : (raiseFull kind severity reason unit count data s).hif.bme = s.hif.bme :=
  (onlyReports_raiseFull _ _ _ _ _ _ s).hif_bme
@[simp] theorem raiseFull_hif_d3hot (kind severity reason unit count : Nat) (data : List Nat) (s : State) : (raiseFull kind severity reason unit count data s).hif.d3hot = s.hif.d3hot :=
  (onlyReports_raiseFull _ _ _ _ _ _ s).hif_d3hot
@[simp] theorem raiseFull_hif_baseGib (kind severity reason unit count : Nat) (data : List Nat) (s : State) : (raiseFull kind severity reason unit count data s).hif.baseGib = s.hif.baseGib :=
  (onlyReports_raiseFull _ _ _ _ _ _ s).hif_baseGib
@[simp] theorem raiseFull_hif_ownedDiscards (kind severity reason unit count : Nat) (data : List Nat) (s : State) : (raiseFull kind severity reason unit count data s).hif.ownedDiscards = s.hif.ownedDiscards :=
  (onlyReports_raiseFull _ _ _ _ _ _ s).hif_ownedDiscards
@[simp] theorem raiseFull_hif_poisonReturned (kind severity reason unit count : Nat) (data : List Nat) (s : State) : (raiseFull kind severity reason unit count data s).hif.poisonReturned = s.hif.poisonReturned :=
  (onlyReports_raiseFull _ _ _ _ _ _ s).hif_poisonReturned
@[simp] theorem raiseFull_hif_completerAborts (kind severity reason unit count : Nat) (data : List Nat) (s : State) : (raiseFull kind severity reason unit count data s).hif.completerAborts = s.hif.completerAborts :=
  (onlyReports_raiseFull _ _ _ _ _ _ s).hif_completerAborts
@[simp] theorem raiseFull_hif_unsupported (kind severity reason unit count : Nat) (data : List Nat) (s : State) : (raiseFull kind severity reason unit count data s).hif.unsupported = s.hif.unsupported :=
  (onlyReports_raiseFull _ _ _ _ _ _ s).hif_unsupported
@[simp] theorem raiseFull_hif_poisonedIn (kind severity reason unit count : Nat) (data : List Nat) (s : State) : (raiseFull kind severity reason unit count data s).hif.poisonedIn = s.hif.poisonedIn :=
  (onlyReports_raiseFull _ _ _ _ _ _ s).hif_poisonedIn
@[simp] theorem raiseFull_hif_errKind (kind severity reason unit count : Nat) (data : List Nat) (s : State) : (raiseFull kind severity reason unit count data s).hif.errKind = s.hif.errKind :=
  (onlyReports_raiseFull _ _ _ _ _ _ s).hif_errKind
@[simp] theorem raiseFull_hif_errWindow (kind severity reason unit count : Nat) (data : List Nat) (s : State) : (raiseFull kind severity reason unit count data s).hif.errWindow = s.hif.errWindow :=
  (onlyReports_raiseFull _ _ _ _ _ _ s).hif_errWindow
@[simp] theorem raiseFull_hif_errAddr (kind severity reason unit count : Nat) (data : List Nat) (s : State) : (raiseFull kind severity reason unit count data s).hif.errAddr = s.hif.errAddr :=
  (onlyReports_raiseFull _ _ _ _ _ _ s).hif_errAddr
@[simp] theorem raiseFull_hif_win (kind severity reason unit count : Nat) (data : List Nat) (s : State) : (raiseFull kind severity reason unit count data s).hif.win = s.hif.win :=
  (onlyReports_raiseFull _ _ _ _ _ _ s).hif_win
@[simp] theorem raiseFull_hif_discardSeen (kind severity reason unit count : Nat) (data : List Nat) (s : State) : (raiseFull kind severity reason unit count data s).hif.discardSeen = s.hif.discardSeen :=
  (onlyReports_raiseFull _ _ _ _ _ _ s).hif_discardSeen
@[simp] theorem raiseFull_hif_discardWin (kind severity reason unit count : Nat) (data : List Nat) (s : State) : (raiseFull kind severity reason unit count data s).hif.discardWin = s.hif.discardWin :=
  (onlyReports_raiseFull _ _ _ _ _ _ s).hif_discardWin
@[simp] theorem raiseFull_hif_msixAddr (kind severity reason unit count : Nat) (data : List Nat) (s : State) : (raiseFull kind severity reason unit count data s).hif.msixAddr = s.hif.msixAddr :=
  (onlyReports_raiseFull _ _ _ _ _ _ s).hif_msixAddr
@[simp] theorem raiseFull_hif_msixData (kind severity reason unit count : Nat) (data : List Nat) (s : State) : (raiseFull kind severity reason unit count data s).hif.msixData = s.hif.msixData :=
  (onlyReports_raiseFull _ _ _ _ _ _ s).hif_msixData
@[simp] theorem raiseFull_hif_msixUnmask (kind severity reason unit count : Nat) (data : List Nat) (s : State) : (raiseFull kind severity reason unit count data s).hif.msixUnmask = s.hif.msixUnmask :=
  (onlyReports_raiseFull _ _ _ _ _ _ s).hif_msixUnmask
@[simp] theorem raiseFull_hif_aer (kind severity reason unit count : Nat) (data : List Nat) (s : State) : (raiseFull kind severity reason unit count data s).hif.aer = s.hif.aer :=
  (onlyReports_raiseFull _ _ _ _ _ _ s).hif_aer
@[simp] theorem raiseFull_hif_doeBusy (kind severity reason unit count : Nat) (data : List Nat) (s : State) : (raiseFull kind severity reason unit count data s).hif.doeBusy = s.hif.doeBusy :=
  (onlyReports_raiseFull _ _ _ _ _ _ s).hif_doeBusy
@[simp] theorem raiseFull_hif_doeError (kind severity reason unit count : Nat) (data : List Nat) (s : State) : (raiseFull kind severity reason unit count data s).hif.doeError = s.hif.doeError :=
  (onlyReports_raiseFull _ _ _ _ _ _ s).hif_doeError
@[simp] theorem raiseFull_hif_doeOut (kind severity reason unit count : Nat) (data : List Nat) (s : State) : (raiseFull kind severity reason unit count data s).hif.doeOut = s.hif.doeOut :=
  (onlyReports_raiseFull _ _ _ _ _ _ s).hif_doeOut
@[simp] theorem raiseFull_hif_cxlEvents (kind severity reason unit count : Nat) (data : List Nat) (s : State) : (raiseFull kind severity reason unit count data s).hif.cxlEvents = s.hif.cxlEvents :=
  (onlyReports_raiseFull _ _ _ _ _ _ s).hif_cxlEvents

@[simp] theorem raise_hif_linkUp (kind severity unit : Nat) (data : List Nat) (s : State) : (raise kind severity unit data s).hif.linkUp = s.hif.linkUp :=
  (onlyReports_raise _ _ _ _ s).hif_linkUp
@[simp] theorem raise_hif_speed (kind severity unit : Nat) (data : List Nat) (s : State) : (raise kind severity unit data s).hif.speed = s.hif.speed :=
  (onlyReports_raise _ _ _ _ s).hif_speed
@[simp] theorem raise_hif_width (kind severity unit : Nat) (data : List Nat) (s : State) : (raise kind severity unit data s).hif.width = s.hif.width :=
  (onlyReports_raise _ _ _ _ s).hif_width
@[simp] theorem raise_hif_mode (kind severity unit : Nat) (data : List Nat) (s : State) : (raise kind severity unit data s).hif.mode = s.hif.mode :=
  (onlyReports_raise _ _ _ _ s).hif_mode
@[simp] theorem raise_hif_memActive (kind severity unit : Nat) (data : List Nat) (s : State) : (raise kind severity unit data s).hif.memActive = s.hif.memActive :=
  (onlyReports_raise _ _ _ _ s).hif_memActive
@[simp] theorem raise_hif_bme (kind severity unit : Nat) (data : List Nat) (s : State) : (raise kind severity unit data s).hif.bme = s.hif.bme :=
  (onlyReports_raise _ _ _ _ s).hif_bme
@[simp] theorem raise_hif_d3hot (kind severity unit : Nat) (data : List Nat) (s : State) : (raise kind severity unit data s).hif.d3hot = s.hif.d3hot :=
  (onlyReports_raise _ _ _ _ s).hif_d3hot
@[simp] theorem raise_hif_baseGib (kind severity unit : Nat) (data : List Nat) (s : State) : (raise kind severity unit data s).hif.baseGib = s.hif.baseGib :=
  (onlyReports_raise _ _ _ _ s).hif_baseGib
@[simp] theorem raise_hif_ownedDiscards (kind severity unit : Nat) (data : List Nat) (s : State) : (raise kind severity unit data s).hif.ownedDiscards = s.hif.ownedDiscards :=
  (onlyReports_raise _ _ _ _ s).hif_ownedDiscards
@[simp] theorem raise_hif_poisonReturned (kind severity unit : Nat) (data : List Nat) (s : State) : (raise kind severity unit data s).hif.poisonReturned = s.hif.poisonReturned :=
  (onlyReports_raise _ _ _ _ s).hif_poisonReturned
@[simp] theorem raise_hif_completerAborts (kind severity unit : Nat) (data : List Nat) (s : State) : (raise kind severity unit data s).hif.completerAborts = s.hif.completerAborts :=
  (onlyReports_raise _ _ _ _ s).hif_completerAborts
@[simp] theorem raise_hif_unsupported (kind severity unit : Nat) (data : List Nat) (s : State) : (raise kind severity unit data s).hif.unsupported = s.hif.unsupported :=
  (onlyReports_raise _ _ _ _ s).hif_unsupported
@[simp] theorem raise_hif_poisonedIn (kind severity unit : Nat) (data : List Nat) (s : State) : (raise kind severity unit data s).hif.poisonedIn = s.hif.poisonedIn :=
  (onlyReports_raise _ _ _ _ s).hif_poisonedIn
@[simp] theorem raise_hif_errKind (kind severity unit : Nat) (data : List Nat) (s : State) : (raise kind severity unit data s).hif.errKind = s.hif.errKind :=
  (onlyReports_raise _ _ _ _ s).hif_errKind
@[simp] theorem raise_hif_errWindow (kind severity unit : Nat) (data : List Nat) (s : State) : (raise kind severity unit data s).hif.errWindow = s.hif.errWindow :=
  (onlyReports_raise _ _ _ _ s).hif_errWindow
@[simp] theorem raise_hif_errAddr (kind severity unit : Nat) (data : List Nat) (s : State) : (raise kind severity unit data s).hif.errAddr = s.hif.errAddr :=
  (onlyReports_raise _ _ _ _ s).hif_errAddr
@[simp] theorem raise_hif_win (kind severity unit : Nat) (data : List Nat) (s : State) : (raise kind severity unit data s).hif.win = s.hif.win :=
  (onlyReports_raise _ _ _ _ s).hif_win
@[simp] theorem raise_hif_discardSeen (kind severity unit : Nat) (data : List Nat) (s : State) : (raise kind severity unit data s).hif.discardSeen = s.hif.discardSeen :=
  (onlyReports_raise _ _ _ _ s).hif_discardSeen
@[simp] theorem raise_hif_discardWin (kind severity unit : Nat) (data : List Nat) (s : State) : (raise kind severity unit data s).hif.discardWin = s.hif.discardWin :=
  (onlyReports_raise _ _ _ _ s).hif_discardWin
@[simp] theorem raise_hif_msixAddr (kind severity unit : Nat) (data : List Nat) (s : State) : (raise kind severity unit data s).hif.msixAddr = s.hif.msixAddr :=
  (onlyReports_raise _ _ _ _ s).hif_msixAddr
@[simp] theorem raise_hif_msixData (kind severity unit : Nat) (data : List Nat) (s : State) : (raise kind severity unit data s).hif.msixData = s.hif.msixData :=
  (onlyReports_raise _ _ _ _ s).hif_msixData
@[simp] theorem raise_hif_msixUnmask (kind severity unit : Nat) (data : List Nat) (s : State) : (raise kind severity unit data s).hif.msixUnmask = s.hif.msixUnmask :=
  (onlyReports_raise _ _ _ _ s).hif_msixUnmask
@[simp] theorem raise_hif_aer (kind severity unit : Nat) (data : List Nat) (s : State) : (raise kind severity unit data s).hif.aer = s.hif.aer :=
  (onlyReports_raise _ _ _ _ s).hif_aer
@[simp] theorem raise_hif_doeBusy (kind severity unit : Nat) (data : List Nat) (s : State) : (raise kind severity unit data s).hif.doeBusy = s.hif.doeBusy :=
  (onlyReports_raise _ _ _ _ s).hif_doeBusy
@[simp] theorem raise_hif_doeError (kind severity unit : Nat) (data : List Nat) (s : State) : (raise kind severity unit data s).hif.doeError = s.hif.doeError :=
  (onlyReports_raise _ _ _ _ s).hif_doeError
@[simp] theorem raise_hif_doeOut (kind severity unit : Nat) (data : List Nat) (s : State) : (raise kind severity unit data s).hif.doeOut = s.hif.doeOut :=
  (onlyReports_raise _ _ _ _ s).hif_doeOut
@[simp] theorem raise_hif_cxlEvents (kind severity unit : Nat) (data : List Nat) (s : State) : (raise kind severity unit data s).hif.cxlEvents = s.hif.cxlEvents :=
  (onlyReports_raise _ _ _ _ s).hif_cxlEvents

@[simp] theorem refuse_hif_linkUp (off v reason : Nat) (s : State) : (refuse off v reason s).hif.linkUp = s.hif.linkUp :=
  (onlyReports_refuse _ _ _ s).hif_linkUp
@[simp] theorem refuse_hif_speed (off v reason : Nat) (s : State) : (refuse off v reason s).hif.speed = s.hif.speed :=
  (onlyReports_refuse _ _ _ s).hif_speed
@[simp] theorem refuse_hif_width (off v reason : Nat) (s : State) : (refuse off v reason s).hif.width = s.hif.width :=
  (onlyReports_refuse _ _ _ s).hif_width
@[simp] theorem refuse_hif_mode (off v reason : Nat) (s : State) : (refuse off v reason s).hif.mode = s.hif.mode :=
  (onlyReports_refuse _ _ _ s).hif_mode
@[simp] theorem refuse_hif_memActive (off v reason : Nat) (s : State) : (refuse off v reason s).hif.memActive = s.hif.memActive :=
  (onlyReports_refuse _ _ _ s).hif_memActive
@[simp] theorem refuse_hif_bme (off v reason : Nat) (s : State) : (refuse off v reason s).hif.bme = s.hif.bme :=
  (onlyReports_refuse _ _ _ s).hif_bme
@[simp] theorem refuse_hif_d3hot (off v reason : Nat) (s : State) : (refuse off v reason s).hif.d3hot = s.hif.d3hot :=
  (onlyReports_refuse _ _ _ s).hif_d3hot
@[simp] theorem refuse_hif_baseGib (off v reason : Nat) (s : State) : (refuse off v reason s).hif.baseGib = s.hif.baseGib :=
  (onlyReports_refuse _ _ _ s).hif_baseGib
@[simp] theorem refuse_hif_ownedDiscards (off v reason : Nat) (s : State) : (refuse off v reason s).hif.ownedDiscards = s.hif.ownedDiscards :=
  (onlyReports_refuse _ _ _ s).hif_ownedDiscards
@[simp] theorem refuse_hif_poisonReturned (off v reason : Nat) (s : State) : (refuse off v reason s).hif.poisonReturned = s.hif.poisonReturned :=
  (onlyReports_refuse _ _ _ s).hif_poisonReturned
@[simp] theorem refuse_hif_completerAborts (off v reason : Nat) (s : State) : (refuse off v reason s).hif.completerAborts = s.hif.completerAborts :=
  (onlyReports_refuse _ _ _ s).hif_completerAborts
@[simp] theorem refuse_hif_unsupported (off v reason : Nat) (s : State) : (refuse off v reason s).hif.unsupported = s.hif.unsupported :=
  (onlyReports_refuse _ _ _ s).hif_unsupported
@[simp] theorem refuse_hif_poisonedIn (off v reason : Nat) (s : State) : (refuse off v reason s).hif.poisonedIn = s.hif.poisonedIn :=
  (onlyReports_refuse _ _ _ s).hif_poisonedIn
@[simp] theorem refuse_hif_errKind (off v reason : Nat) (s : State) : (refuse off v reason s).hif.errKind = s.hif.errKind :=
  (onlyReports_refuse _ _ _ s).hif_errKind
@[simp] theorem refuse_hif_errWindow (off v reason : Nat) (s : State) : (refuse off v reason s).hif.errWindow = s.hif.errWindow :=
  (onlyReports_refuse _ _ _ s).hif_errWindow
@[simp] theorem refuse_hif_errAddr (off v reason : Nat) (s : State) : (refuse off v reason s).hif.errAddr = s.hif.errAddr :=
  (onlyReports_refuse _ _ _ s).hif_errAddr
@[simp] theorem refuse_hif_win (off v reason : Nat) (s : State) : (refuse off v reason s).hif.win = s.hif.win :=
  (onlyReports_refuse _ _ _ s).hif_win
@[simp] theorem refuse_hif_discardSeen (off v reason : Nat) (s : State) : (refuse off v reason s).hif.discardSeen = s.hif.discardSeen :=
  (onlyReports_refuse _ _ _ s).hif_discardSeen
@[simp] theorem refuse_hif_discardWin (off v reason : Nat) (s : State) : (refuse off v reason s).hif.discardWin = s.hif.discardWin :=
  (onlyReports_refuse _ _ _ s).hif_discardWin
@[simp] theorem refuse_hif_msixAddr (off v reason : Nat) (s : State) : (refuse off v reason s).hif.msixAddr = s.hif.msixAddr :=
  (onlyReports_refuse _ _ _ s).hif_msixAddr
@[simp] theorem refuse_hif_msixData (off v reason : Nat) (s : State) : (refuse off v reason s).hif.msixData = s.hif.msixData :=
  (onlyReports_refuse _ _ _ s).hif_msixData
@[simp] theorem refuse_hif_msixUnmask (off v reason : Nat) (s : State) : (refuse off v reason s).hif.msixUnmask = s.hif.msixUnmask :=
  (onlyReports_refuse _ _ _ s).hif_msixUnmask
@[simp] theorem refuse_hif_aer (off v reason : Nat) (s : State) : (refuse off v reason s).hif.aer = s.hif.aer :=
  (onlyReports_refuse _ _ _ s).hif_aer
@[simp] theorem refuse_hif_doeBusy (off v reason : Nat) (s : State) : (refuse off v reason s).hif.doeBusy = s.hif.doeBusy :=
  (onlyReports_refuse _ _ _ s).hif_doeBusy
@[simp] theorem refuse_hif_doeError (off v reason : Nat) (s : State) : (refuse off v reason s).hif.doeError = s.hif.doeError :=
  (onlyReports_refuse _ _ _ s).hif_doeError
@[simp] theorem refuse_hif_doeOut (off v reason : Nat) (s : State) : (refuse off v reason s).hif.doeOut = s.hif.doeOut :=
  (onlyReports_refuse _ _ _ s).hif_doeOut
@[simp] theorem refuse_hif_cxlEvents (off v reason : Nat) (s : State) : (refuse off v reason s).hif.cxlEvents = s.hif.cxlEvents :=
  (onlyReports_refuse _ _ _ s).hif_cxlEvents

@[simp] theorem signalMsix_hif_linkUp (v : Nat) (s : State) : (signalMsix v s).hif.linkUp = s.hif.linkUp :=
  (onlyReports_signalMsix _ s).hif_linkUp
@[simp] theorem signalMsix_hif_speed (v : Nat) (s : State) : (signalMsix v s).hif.speed = s.hif.speed :=
  (onlyReports_signalMsix _ s).hif_speed
@[simp] theorem signalMsix_hif_width (v : Nat) (s : State) : (signalMsix v s).hif.width = s.hif.width :=
  (onlyReports_signalMsix _ s).hif_width
@[simp] theorem signalMsix_hif_mode (v : Nat) (s : State) : (signalMsix v s).hif.mode = s.hif.mode :=
  (onlyReports_signalMsix _ s).hif_mode
@[simp] theorem signalMsix_hif_memActive (v : Nat) (s : State) : (signalMsix v s).hif.memActive = s.hif.memActive :=
  (onlyReports_signalMsix _ s).hif_memActive
@[simp] theorem signalMsix_hif_bme (v : Nat) (s : State) : (signalMsix v s).hif.bme = s.hif.bme :=
  (onlyReports_signalMsix _ s).hif_bme
@[simp] theorem signalMsix_hif_d3hot (v : Nat) (s : State) : (signalMsix v s).hif.d3hot = s.hif.d3hot :=
  (onlyReports_signalMsix _ s).hif_d3hot
@[simp] theorem signalMsix_hif_baseGib (v : Nat) (s : State) : (signalMsix v s).hif.baseGib = s.hif.baseGib :=
  (onlyReports_signalMsix _ s).hif_baseGib
@[simp] theorem signalMsix_hif_ownedDiscards (v : Nat) (s : State) : (signalMsix v s).hif.ownedDiscards = s.hif.ownedDiscards :=
  (onlyReports_signalMsix _ s).hif_ownedDiscards
@[simp] theorem signalMsix_hif_poisonReturned (v : Nat) (s : State) : (signalMsix v s).hif.poisonReturned = s.hif.poisonReturned :=
  (onlyReports_signalMsix _ s).hif_poisonReturned
@[simp] theorem signalMsix_hif_completerAborts (v : Nat) (s : State) : (signalMsix v s).hif.completerAborts = s.hif.completerAborts :=
  (onlyReports_signalMsix _ s).hif_completerAborts
@[simp] theorem signalMsix_hif_unsupported (v : Nat) (s : State) : (signalMsix v s).hif.unsupported = s.hif.unsupported :=
  (onlyReports_signalMsix _ s).hif_unsupported
@[simp] theorem signalMsix_hif_poisonedIn (v : Nat) (s : State) : (signalMsix v s).hif.poisonedIn = s.hif.poisonedIn :=
  (onlyReports_signalMsix _ s).hif_poisonedIn
@[simp] theorem signalMsix_hif_errKind (v : Nat) (s : State) : (signalMsix v s).hif.errKind = s.hif.errKind :=
  (onlyReports_signalMsix _ s).hif_errKind
@[simp] theorem signalMsix_hif_errWindow (v : Nat) (s : State) : (signalMsix v s).hif.errWindow = s.hif.errWindow :=
  (onlyReports_signalMsix _ s).hif_errWindow
@[simp] theorem signalMsix_hif_errAddr (v : Nat) (s : State) : (signalMsix v s).hif.errAddr = s.hif.errAddr :=
  (onlyReports_signalMsix _ s).hif_errAddr
@[simp] theorem signalMsix_hif_win (v : Nat) (s : State) : (signalMsix v s).hif.win = s.hif.win :=
  (onlyReports_signalMsix _ s).hif_win
@[simp] theorem signalMsix_hif_discardSeen (v : Nat) (s : State) : (signalMsix v s).hif.discardSeen = s.hif.discardSeen :=
  (onlyReports_signalMsix _ s).hif_discardSeen
@[simp] theorem signalMsix_hif_discardWin (v : Nat) (s : State) : (signalMsix v s).hif.discardWin = s.hif.discardWin :=
  (onlyReports_signalMsix _ s).hif_discardWin
@[simp] theorem signalMsix_hif_msixAddr (v : Nat) (s : State) : (signalMsix v s).hif.msixAddr = s.hif.msixAddr :=
  (onlyReports_signalMsix _ s).hif_msixAddr
@[simp] theorem signalMsix_hif_msixData (v : Nat) (s : State) : (signalMsix v s).hif.msixData = s.hif.msixData :=
  (onlyReports_signalMsix _ s).hif_msixData
@[simp] theorem signalMsix_hif_msixUnmask (v : Nat) (s : State) : (signalMsix v s).hif.msixUnmask = s.hif.msixUnmask :=
  (onlyReports_signalMsix _ s).hif_msixUnmask
@[simp] theorem signalMsix_hif_aer (v : Nat) (s : State) : (signalMsix v s).hif.aer = s.hif.aer :=
  (onlyReports_signalMsix _ s).hif_aer
@[simp] theorem signalMsix_hif_doeBusy (v : Nat) (s : State) : (signalMsix v s).hif.doeBusy = s.hif.doeBusy :=
  (onlyReports_signalMsix _ s).hif_doeBusy
@[simp] theorem signalMsix_hif_doeError (v : Nat) (s : State) : (signalMsix v s).hif.doeError = s.hif.doeError :=
  (onlyReports_signalMsix _ s).hif_doeError
@[simp] theorem signalMsix_hif_doeOut (v : Nat) (s : State) : (signalMsix v s).hif.doeOut = s.hif.doeOut :=
  (onlyReports_signalMsix _ s).hif_doeOut
@[simp] theorem signalMsix_hif_cxlEvents (v : Nat) (s : State) : (signalMsix v s).hif.cxlEvents = s.hif.cxlEvents :=
  (onlyReports_signalMsix _ s).hif_cxlEvents

@[simp] theorem flushEvents_hif_linkUp  (s : State) : (flushEvents s).hif.linkUp = s.hif.linkUp :=
  (onlyReports_flushEvents  s).hif_linkUp
@[simp] theorem flushEvents_hif_speed  (s : State) : (flushEvents s).hif.speed = s.hif.speed :=
  (onlyReports_flushEvents  s).hif_speed
@[simp] theorem flushEvents_hif_width  (s : State) : (flushEvents s).hif.width = s.hif.width :=
  (onlyReports_flushEvents  s).hif_width
@[simp] theorem flushEvents_hif_mode  (s : State) : (flushEvents s).hif.mode = s.hif.mode :=
  (onlyReports_flushEvents  s).hif_mode
@[simp] theorem flushEvents_hif_memActive  (s : State) : (flushEvents s).hif.memActive = s.hif.memActive :=
  (onlyReports_flushEvents  s).hif_memActive
@[simp] theorem flushEvents_hif_bme  (s : State) : (flushEvents s).hif.bme = s.hif.bme :=
  (onlyReports_flushEvents  s).hif_bme
@[simp] theorem flushEvents_hif_d3hot  (s : State) : (flushEvents s).hif.d3hot = s.hif.d3hot :=
  (onlyReports_flushEvents  s).hif_d3hot
@[simp] theorem flushEvents_hif_baseGib  (s : State) : (flushEvents s).hif.baseGib = s.hif.baseGib :=
  (onlyReports_flushEvents  s).hif_baseGib
@[simp] theorem flushEvents_hif_ownedDiscards  (s : State) : (flushEvents s).hif.ownedDiscards = s.hif.ownedDiscards :=
  (onlyReports_flushEvents  s).hif_ownedDiscards
@[simp] theorem flushEvents_hif_poisonReturned  (s : State) : (flushEvents s).hif.poisonReturned = s.hif.poisonReturned :=
  (onlyReports_flushEvents  s).hif_poisonReturned
@[simp] theorem flushEvents_hif_completerAborts  (s : State) : (flushEvents s).hif.completerAborts = s.hif.completerAborts :=
  (onlyReports_flushEvents  s).hif_completerAborts
@[simp] theorem flushEvents_hif_unsupported  (s : State) : (flushEvents s).hif.unsupported = s.hif.unsupported :=
  (onlyReports_flushEvents  s).hif_unsupported
@[simp] theorem flushEvents_hif_poisonedIn  (s : State) : (flushEvents s).hif.poisonedIn = s.hif.poisonedIn :=
  (onlyReports_flushEvents  s).hif_poisonedIn
@[simp] theorem flushEvents_hif_errKind  (s : State) : (flushEvents s).hif.errKind = s.hif.errKind :=
  (onlyReports_flushEvents  s).hif_errKind
@[simp] theorem flushEvents_hif_errWindow  (s : State) : (flushEvents s).hif.errWindow = s.hif.errWindow :=
  (onlyReports_flushEvents  s).hif_errWindow
@[simp] theorem flushEvents_hif_errAddr  (s : State) : (flushEvents s).hif.errAddr = s.hif.errAddr :=
  (onlyReports_flushEvents  s).hif_errAddr
@[simp] theorem flushEvents_hif_win  (s : State) : (flushEvents s).hif.win = s.hif.win :=
  (onlyReports_flushEvents  s).hif_win
@[simp] theorem flushEvents_hif_discardSeen  (s : State) : (flushEvents s).hif.discardSeen = s.hif.discardSeen :=
  (onlyReports_flushEvents  s).hif_discardSeen
@[simp] theorem flushEvents_hif_discardWin  (s : State) : (flushEvents s).hif.discardWin = s.hif.discardWin :=
  (onlyReports_flushEvents  s).hif_discardWin
@[simp] theorem flushEvents_hif_msixAddr  (s : State) : (flushEvents s).hif.msixAddr = s.hif.msixAddr :=
  (onlyReports_flushEvents  s).hif_msixAddr
@[simp] theorem flushEvents_hif_msixData  (s : State) : (flushEvents s).hif.msixData = s.hif.msixData :=
  (onlyReports_flushEvents  s).hif_msixData
@[simp] theorem flushEvents_hif_msixUnmask  (s : State) : (flushEvents s).hif.msixUnmask = s.hif.msixUnmask :=
  (onlyReports_flushEvents  s).hif_msixUnmask
@[simp] theorem flushEvents_hif_aer  (s : State) : (flushEvents s).hif.aer = s.hif.aer :=
  (onlyReports_flushEvents  s).hif_aer
@[simp] theorem flushEvents_hif_doeBusy  (s : State) : (flushEvents s).hif.doeBusy = s.hif.doeBusy :=
  (onlyReports_flushEvents  s).hif_doeBusy
@[simp] theorem flushEvents_hif_doeError  (s : State) : (flushEvents s).hif.doeError = s.hif.doeError :=
  (onlyReports_flushEvents  s).hif_doeError
@[simp] theorem flushEvents_hif_doeOut  (s : State) : (flushEvents s).hif.doeOut = s.hif.doeOut :=
  (onlyReports_flushEvents  s).hif_doeOut
@[simp] theorem flushEvents_hif_cxlEvents  (s : State) : (flushEvents s).hif.cxlEvents = s.hif.cxlEvents :=
  (onlyReports_flushEvents  s).hif_cxlEvents

@[simp] theorem emit_kpr (o : Output) (s : State) : (emit o s).kpr = s.kpr := rfl
@[simp] theorem emit_fuses (o : Output) (s : State) : (emit o s).fuses = s.fuses := rfl
@[simp] theorem emit_flp (o : Output) (s : State) : (emit o s).flp = s.flp := rfl
@[simp] theorem emit_hif (o : Output) (s : State) : (emit o s).hif = s.hif := rfl
@[simp] theorem emit_evt (o : Output) (s : State) : (emit o s).evt = s.evt := rfl
@[simp] theorem emit_tel (o : Output) (s : State) : (emit o s).tel = s.tel := rfl
@[simp] theorem emit_dbg (o : Output) (s : State) : (emit o s).dbg = s.dbg := rfl
@[simp] theorem emit_dev (o : Output) (s : State) : (emit o s).dev = s.dev := rfl
@[simp] theorem emit_frm (o : Output) (s : State) : (emit o s).frm = s.frm := rfl
@[simp] theorem emit_cores (o : Output) (s : State) : (emit o s).cores = s.cores := rfl
@[simp] theorem emit_mem (o : Output) (s : State) : (emit o s).mem = s.mem := rfl
@[simp] theorem emit_net (o : Output) (s : State) : (emit o s).net = s.net := rfl
@[simp] theorem emit_bnk (o : Output) (s : State) : (emit o s).bnk = s.bnk := rfl
@[simp] theorem emit_walkers (o : Output) (s : State) : (emit o s).walkers = s.walkers := rfl
@[simp] theorem emit_req (o : Output) (s : State) : (emit o s).req = s.req := rfl
@[simp] theorem emit_lnk (o : Output) (s : State) : (emit o s).lnk = s.lnk := rfl
@[simp] theorem emit_clk (o : Output) (s : State) : (emit o s).clk = s.clk := rfl
@[simp] theorem emit_pwr (o : Output) (s : State) : (emit o s).pwr = s.pwr := rfl
@[simp] theorem emit_sup (o : Output) (s : State) : (emit o s).sup = s.sup := rfl
@[simp] theorem emit_thm (o : Output) (s : State) : (emit o s).thm = s.thm := rfl
@[simp] theorem emit_prt (o : Output) (s : State) : (emit o s).prt = s.prt := rfl
@[simp] theorem emit_pending (o : Output) (s : State) : (emit o s).pending = s.pending := rfl
@[simp] theorem emit_fresh (o : Output) (s : State) : (emit o s).fresh = s.fresh := rfl
@[simp] theorem emit_hostMem (o : Output) (s : State) : (emit o s).hostMem = s.hostMem := rfl

@[simp] theorem useFresh_kpr  (s : State) : (useFresh s).kpr = s.kpr := rfl
@[simp] theorem useFresh_fuses  (s : State) : (useFresh s).fuses = s.fuses := rfl
@[simp] theorem useFresh_flp  (s : State) : (useFresh s).flp = s.flp := rfl
@[simp] theorem useFresh_hif  (s : State) : (useFresh s).hif = s.hif := rfl
@[simp] theorem useFresh_evt  (s : State) : (useFresh s).evt = s.evt := rfl
@[simp] theorem useFresh_tel  (s : State) : (useFresh s).tel = s.tel := rfl
@[simp] theorem useFresh_dbg  (s : State) : (useFresh s).dbg = s.dbg := rfl
@[simp] theorem useFresh_dev  (s : State) : (useFresh s).dev = s.dev := rfl
@[simp] theorem useFresh_frm  (s : State) : (useFresh s).frm = s.frm := rfl
@[simp] theorem useFresh_cores  (s : State) : (useFresh s).cores = s.cores := rfl
@[simp] theorem useFresh_mem  (s : State) : (useFresh s).mem = s.mem := rfl
@[simp] theorem useFresh_net  (s : State) : (useFresh s).net = s.net := rfl
@[simp] theorem useFresh_bnk  (s : State) : (useFresh s).bnk = s.bnk := rfl
@[simp] theorem useFresh_walkers  (s : State) : (useFresh s).walkers = s.walkers := rfl
@[simp] theorem useFresh_req  (s : State) : (useFresh s).req = s.req := rfl
@[simp] theorem useFresh_lnk  (s : State) : (useFresh s).lnk = s.lnk := rfl
@[simp] theorem useFresh_clk  (s : State) : (useFresh s).clk = s.clk := rfl
@[simp] theorem useFresh_pwr  (s : State) : (useFresh s).pwr = s.pwr := rfl
@[simp] theorem useFresh_sup  (s : State) : (useFresh s).sup = s.sup := rfl
@[simp] theorem useFresh_thm  (s : State) : (useFresh s).thm = s.thm := rfl
@[simp] theorem useFresh_prt  (s : State) : (useFresh s).prt = s.prt := rfl
@[simp] theorem useFresh_pending  (s : State) : (useFresh s).pending = s.pending := rfl
@[simp] theorem useFresh_out  (s : State) : (useFresh s).out = s.out := rfl
@[simp] theorem useFresh_hostMem  (s : State) : (useFresh s).hostMem = s.hostMem := rfl

@[simp] theorem hostPut_kpr (a : Nat) (bytes : List Nat) (s : State) : (hostPut a bytes s).kpr = s.kpr := rfl
@[simp] theorem hostPut_fuses (a : Nat) (bytes : List Nat) (s : State) : (hostPut a bytes s).fuses = s.fuses := rfl
@[simp] theorem hostPut_flp (a : Nat) (bytes : List Nat) (s : State) : (hostPut a bytes s).flp = s.flp := rfl
@[simp] theorem hostPut_hif (a : Nat) (bytes : List Nat) (s : State) : (hostPut a bytes s).hif = s.hif := rfl
@[simp] theorem hostPut_evt (a : Nat) (bytes : List Nat) (s : State) : (hostPut a bytes s).evt = s.evt := rfl
@[simp] theorem hostPut_tel (a : Nat) (bytes : List Nat) (s : State) : (hostPut a bytes s).tel = s.tel := rfl
@[simp] theorem hostPut_dbg (a : Nat) (bytes : List Nat) (s : State) : (hostPut a bytes s).dbg = s.dbg := rfl
@[simp] theorem hostPut_dev (a : Nat) (bytes : List Nat) (s : State) : (hostPut a bytes s).dev = s.dev := rfl
@[simp] theorem hostPut_frm (a : Nat) (bytes : List Nat) (s : State) : (hostPut a bytes s).frm = s.frm := rfl
@[simp] theorem hostPut_cores (a : Nat) (bytes : List Nat) (s : State) : (hostPut a bytes s).cores = s.cores := rfl
@[simp] theorem hostPut_mem (a : Nat) (bytes : List Nat) (s : State) : (hostPut a bytes s).mem = s.mem := rfl
@[simp] theorem hostPut_net (a : Nat) (bytes : List Nat) (s : State) : (hostPut a bytes s).net = s.net := rfl
@[simp] theorem hostPut_bnk (a : Nat) (bytes : List Nat) (s : State) : (hostPut a bytes s).bnk = s.bnk := rfl
@[simp] theorem hostPut_walkers (a : Nat) (bytes : List Nat) (s : State) : (hostPut a bytes s).walkers = s.walkers := rfl
@[simp] theorem hostPut_req (a : Nat) (bytes : List Nat) (s : State) : (hostPut a bytes s).req = s.req := rfl
@[simp] theorem hostPut_lnk (a : Nat) (bytes : List Nat) (s : State) : (hostPut a bytes s).lnk = s.lnk := rfl
@[simp] theorem hostPut_clk (a : Nat) (bytes : List Nat) (s : State) : (hostPut a bytes s).clk = s.clk := rfl
@[simp] theorem hostPut_pwr (a : Nat) (bytes : List Nat) (s : State) : (hostPut a bytes s).pwr = s.pwr := rfl
@[simp] theorem hostPut_sup (a : Nat) (bytes : List Nat) (s : State) : (hostPut a bytes s).sup = s.sup := rfl
@[simp] theorem hostPut_thm (a : Nat) (bytes : List Nat) (s : State) : (hostPut a bytes s).thm = s.thm := rfl
@[simp] theorem hostPut_prt (a : Nat) (bytes : List Nat) (s : State) : (hostPut a bytes s).prt = s.prt := rfl
@[simp] theorem hostPut_pending (a : Nat) (bytes : List Nat) (s : State) : (hostPut a bytes s).pending = s.pending := rfl
@[simp] theorem hostPut_out (a : Nat) (bytes : List Nat) (s : State) : (hostPut a bytes s).out = s.out := rfl
@[simp] theorem hostPut_fresh (a : Nat) (bytes : List Nat) (s : State) : (hostPut a bytes s).fresh = s.fresh := rfl

@[simp] theorem setClk_kpr (r : Nat) (f : ClkRegion → ClkRegion) (s : State) : (setClk r f s).kpr = s.kpr := rfl
@[simp] theorem setClk_fuses (r : Nat) (f : ClkRegion → ClkRegion) (s : State) : (setClk r f s).fuses = s.fuses := rfl
@[simp] theorem setClk_flp (r : Nat) (f : ClkRegion → ClkRegion) (s : State) : (setClk r f s).flp = s.flp := rfl
@[simp] theorem setClk_hif (r : Nat) (f : ClkRegion → ClkRegion) (s : State) : (setClk r f s).hif = s.hif := rfl
@[simp] theorem setClk_evt (r : Nat) (f : ClkRegion → ClkRegion) (s : State) : (setClk r f s).evt = s.evt := rfl
@[simp] theorem setClk_tel (r : Nat) (f : ClkRegion → ClkRegion) (s : State) : (setClk r f s).tel = s.tel := rfl
@[simp] theorem setClk_dbg (r : Nat) (f : ClkRegion → ClkRegion) (s : State) : (setClk r f s).dbg = s.dbg := rfl
@[simp] theorem setClk_dev (r : Nat) (f : ClkRegion → ClkRegion) (s : State) : (setClk r f s).dev = s.dev := rfl
@[simp] theorem setClk_frm (r : Nat) (f : ClkRegion → ClkRegion) (s : State) : (setClk r f s).frm = s.frm := rfl
@[simp] theorem setClk_cores (r : Nat) (f : ClkRegion → ClkRegion) (s : State) : (setClk r f s).cores = s.cores := rfl
@[simp] theorem setClk_mem (r : Nat) (f : ClkRegion → ClkRegion) (s : State) : (setClk r f s).mem = s.mem := rfl
@[simp] theorem setClk_net (r : Nat) (f : ClkRegion → ClkRegion) (s : State) : (setClk r f s).net = s.net := rfl
@[simp] theorem setClk_bnk (r : Nat) (f : ClkRegion → ClkRegion) (s : State) : (setClk r f s).bnk = s.bnk := rfl
@[simp] theorem setClk_walkers (r : Nat) (f : ClkRegion → ClkRegion) (s : State) : (setClk r f s).walkers = s.walkers := rfl
@[simp] theorem setClk_req (r : Nat) (f : ClkRegion → ClkRegion) (s : State) : (setClk r f s).req = s.req := rfl
@[simp] theorem setClk_lnk (r : Nat) (f : ClkRegion → ClkRegion) (s : State) : (setClk r f s).lnk = s.lnk := rfl
@[simp] theorem setClk_pwr (r : Nat) (f : ClkRegion → ClkRegion) (s : State) : (setClk r f s).pwr = s.pwr := rfl
@[simp] theorem setClk_sup (r : Nat) (f : ClkRegion → ClkRegion) (s : State) : (setClk r f s).sup = s.sup := rfl
@[simp] theorem setClk_thm (r : Nat) (f : ClkRegion → ClkRegion) (s : State) : (setClk r f s).thm = s.thm := rfl
@[simp] theorem setClk_prt (r : Nat) (f : ClkRegion → ClkRegion) (s : State) : (setClk r f s).prt = s.prt := rfl
@[simp] theorem setClk_pending (r : Nat) (f : ClkRegion → ClkRegion) (s : State) : (setClk r f s).pending = s.pending := rfl
@[simp] theorem setClk_out (r : Nat) (f : ClkRegion → ClkRegion) (s : State) : (setClk r f s).out = s.out := rfl
@[simp] theorem setClk_fresh (r : Nat) (f : ClkRegion → ClkRegion) (s : State) : (setClk r f s).fresh = s.fresh := rfl
@[simp] theorem setClk_hostMem (r : Nat) (f : ClkRegion → ClkRegion) (s : State) : (setClk r f s).hostMem = s.hostMem := rfl

@[simp] theorem setGroup_kpr (r : Nat) (f : Group → Group) (s : State) : (setGroup r f s).kpr = s.kpr := rfl
@[simp] theorem setGroup_fuses (r : Nat) (f : Group → Group) (s : State) : (setGroup r f s).fuses = s.fuses := rfl
@[simp] theorem setGroup_flp (r : Nat) (f : Group → Group) (s : State) : (setGroup r f s).flp = s.flp := rfl
@[simp] theorem setGroup_hif (r : Nat) (f : Group → Group) (s : State) : (setGroup r f s).hif = s.hif := rfl
@[simp] theorem setGroup_evt (r : Nat) (f : Group → Group) (s : State) : (setGroup r f s).evt = s.evt := rfl
@[simp] theorem setGroup_tel (r : Nat) (f : Group → Group) (s : State) : (setGroup r f s).tel = s.tel := rfl
@[simp] theorem setGroup_dbg (r : Nat) (f : Group → Group) (s : State) : (setGroup r f s).dbg = s.dbg := rfl
@[simp] theorem setGroup_dev (r : Nat) (f : Group → Group) (s : State) : (setGroup r f s).dev = s.dev := rfl
@[simp] theorem setGroup_frm (r : Nat) (f : Group → Group) (s : State) : (setGroup r f s).frm = s.frm := rfl
@[simp] theorem setGroup_cores (r : Nat) (f : Group → Group) (s : State) : (setGroup r f s).cores = s.cores := rfl
@[simp] theorem setGroup_mem (r : Nat) (f : Group → Group) (s : State) : (setGroup r f s).mem = s.mem := rfl
@[simp] theorem setGroup_net (r : Nat) (f : Group → Group) (s : State) : (setGroup r f s).net = s.net := rfl
@[simp] theorem setGroup_bnk (r : Nat) (f : Group → Group) (s : State) : (setGroup r f s).bnk = s.bnk := rfl
@[simp] theorem setGroup_walkers (r : Nat) (f : Group → Group) (s : State) : (setGroup r f s).walkers = s.walkers := rfl
@[simp] theorem setGroup_req (r : Nat) (f : Group → Group) (s : State) : (setGroup r f s).req = s.req := rfl
@[simp] theorem setGroup_lnk (r : Nat) (f : Group → Group) (s : State) : (setGroup r f s).lnk = s.lnk := rfl
@[simp] theorem setGroup_clk (r : Nat) (f : Group → Group) (s : State) : (setGroup r f s).clk = s.clk := rfl
@[simp] theorem setGroup_pwr (r : Nat) (f : Group → Group) (s : State) : (setGroup r f s).pwr = s.pwr := rfl
@[simp] theorem setGroup_thm (r : Nat) (f : Group → Group) (s : State) : (setGroup r f s).thm = s.thm := rfl
@[simp] theorem setGroup_prt (r : Nat) (f : Group → Group) (s : State) : (setGroup r f s).prt = s.prt := rfl
@[simp] theorem setGroup_pending (r : Nat) (f : Group → Group) (s : State) : (setGroup r f s).pending = s.pending := rfl
@[simp] theorem setGroup_out (r : Nat) (f : Group → Group) (s : State) : (setGroup r f s).out = s.out := rfl
@[simp] theorem setGroup_fresh (r : Nat) (f : Group → Group) (s : State) : (setGroup r f s).fresh = s.fresh := rfl
@[simp] theorem setGroup_hostMem (r : Nat) (f : Group → Group) (s : State) : (setGroup r f s).hostMem = s.hostMem := rfl

@[simp] theorem setState_fuses (d : DevState) (s : State) : (setState d s).fuses = s.fuses := by unfold setState; simp
@[simp] theorem setState_flp (d : DevState) (s : State) : (setState d s).flp = s.flp := by unfold setState; simp
@[simp] theorem setState_dbg (d : DevState) (s : State) : (setState d s).dbg = s.dbg := by unfold setState; simp
@[simp] theorem setState_dev (d : DevState) (s : State) : (setState d s).dev = s.dev := by unfold setState; simp
@[simp] theorem setState_frm (d : DevState) (s : State) : (setState d s).frm = s.frm := by unfold setState; simp
@[simp] theorem setState_cores (d : DevState) (s : State) : (setState d s).cores = s.cores := by unfold setState; simp
@[simp] theorem setState_mem (d : DevState) (s : State) : (setState d s).mem = s.mem := by unfold setState; simp
@[simp] theorem setState_net (d : DevState) (s : State) : (setState d s).net = s.net := by unfold setState; simp
@[simp] theorem setState_bnk (d : DevState) (s : State) : (setState d s).bnk = s.bnk := by unfold setState; simp
@[simp] theorem setState_walkers (d : DevState) (s : State) : (setState d s).walkers = s.walkers := by unfold setState; simp
@[simp] theorem setState_req (d : DevState) (s : State) : (setState d s).req = s.req := by unfold setState; simp
@[simp] theorem setState_lnk (d : DevState) (s : State) : (setState d s).lnk = s.lnk := by unfold setState; simp
@[simp] theorem setState_clk (d : DevState) (s : State) : (setState d s).clk = s.clk := by unfold setState; simp
@[simp] theorem setState_pwr (d : DevState) (s : State) : (setState d s).pwr = s.pwr := by unfold setState; simp
@[simp] theorem setState_sup (d : DevState) (s : State) : (setState d s).sup = s.sup := by unfold setState; simp
@[simp] theorem setState_thm (d : DevState) (s : State) : (setState d s).thm = s.thm := by unfold setState; simp
@[simp] theorem setState_prt (d : DevState) (s : State) : (setState d s).prt = s.prt := by unfold setState; simp
@[simp] theorem setState_pending (d : DevState) (s : State) : (setState d s).pending = s.pending := by unfold setState; simp
@[simp] theorem setState_fresh (d : DevState) (s : State) : (setState d s).fresh = s.fresh := by unfold setState; simp

@[simp] theorem setState_state (d : DevState) (s : State) : (setState d s).kpr.state = d := by unfold setState; simp

@[simp] theorem setState_prev (d : DevState) (s : State) : (setState d s).kpr.prev = s.kpr.state := by unfold setState; simp

/-- All that an AER error changes: the status bit and what goes with it, and the messages that go out. -/
theorem aerError_only (b : Nat) (header : List Nat) (s : State) :
    ∃ aer out, aerError b header s = { s with hif := { s.hif with aer := aer }, out := out } ∧
      aer.status = s.hif.aer.status ||| 2 ^ b := by
  unfold aerError emit
  dsimp only
  split
  · exact ⟨_, _, rfl, rfl⟩
  · split <;> exact ⟨_, _, rfl, rfl⟩

@[simp] theorem aerError_status (b : Nat) (header : List Nat) (s : State) :
    (aerError b header s).hif.aer.status = s.hif.aer.status ||| 2 ^ b := by
  obtain ⟨_, _, e, h⟩ := aerError_only b header s
  rw [e, h]

@[simp] theorem aerError_kpr (b : Nat) (header : List Nat) (s : State) : (aerError b header s).kpr = s.kpr := by
  obtain ⟨_, _, e, _⟩ := aerError_only b header s
  rw [e]
@[simp] theorem aerError_frm (b : Nat) (header : List Nat) (s : State) : (aerError b header s).frm = s.frm := by
  obtain ⟨_, _, e, _⟩ := aerError_only b header s
  rw [e]
@[simp] theorem aerError_fuses (b : Nat) (header : List Nat) (s : State) : (aerError b header s).fuses = s.fuses := by
  obtain ⟨_, _, e, _⟩ := aerError_only b header s
  rw [e]
@[simp] theorem aerError_flp (b : Nat) (header : List Nat) (s : State) : (aerError b header s).flp = s.flp := by
  obtain ⟨_, _, e, _⟩ := aerError_only b header s
  rw [e]
@[simp] theorem aerError_evt (b : Nat) (header : List Nat) (s : State) : (aerError b header s).evt = s.evt := by
  obtain ⟨_, _, e, _⟩ := aerError_only b header s
  rw [e]
@[simp] theorem aerError_tel (b : Nat) (header : List Nat) (s : State) : (aerError b header s).tel = s.tel := by
  obtain ⟨_, _, e, _⟩ := aerError_only b header s
  rw [e]
@[simp] theorem aerError_dbg (b : Nat) (header : List Nat) (s : State) : (aerError b header s).dbg = s.dbg := by
  obtain ⟨_, _, e, _⟩ := aerError_only b header s
  rw [e]
@[simp] theorem aerError_dev (b : Nat) (header : List Nat) (s : State) : (aerError b header s).dev = s.dev := by
  obtain ⟨_, _, e, _⟩ := aerError_only b header s
  rw [e]
@[simp] theorem aerError_cores (b : Nat) (header : List Nat) (s : State) : (aerError b header s).cores = s.cores := by
  obtain ⟨_, _, e, _⟩ := aerError_only b header s
  rw [e]
@[simp] theorem aerError_mem (b : Nat) (header : List Nat) (s : State) : (aerError b header s).mem = s.mem := by
  obtain ⟨_, _, e, _⟩ := aerError_only b header s
  rw [e]
@[simp] theorem aerError_net (b : Nat) (header : List Nat) (s : State) : (aerError b header s).net = s.net := by
  obtain ⟨_, _, e, _⟩ := aerError_only b header s
  rw [e]
@[simp] theorem aerError_bnk (b : Nat) (header : List Nat) (s : State) : (aerError b header s).bnk = s.bnk := by
  obtain ⟨_, _, e, _⟩ := aerError_only b header s
  rw [e]
@[simp] theorem aerError_walkers (b : Nat) (header : List Nat) (s : State) : (aerError b header s).walkers = s.walkers := by
  obtain ⟨_, _, e, _⟩ := aerError_only b header s
  rw [e]
@[simp] theorem aerError_req (b : Nat) (header : List Nat) (s : State) : (aerError b header s).req = s.req := by
  obtain ⟨_, _, e, _⟩ := aerError_only b header s
  rw [e]
@[simp] theorem aerError_lnk (b : Nat) (header : List Nat) (s : State) : (aerError b header s).lnk = s.lnk := by
  obtain ⟨_, _, e, _⟩ := aerError_only b header s
  rw [e]
@[simp] theorem aerError_clk (b : Nat) (header : List Nat) (s : State) : (aerError b header s).clk = s.clk := by
  obtain ⟨_, _, e, _⟩ := aerError_only b header s
  rw [e]
@[simp] theorem aerError_pwr (b : Nat) (header : List Nat) (s : State) : (aerError b header s).pwr = s.pwr := by
  obtain ⟨_, _, e, _⟩ := aerError_only b header s
  rw [e]
@[simp] theorem aerError_sup (b : Nat) (header : List Nat) (s : State) : (aerError b header s).sup = s.sup := by
  obtain ⟨_, _, e, _⟩ := aerError_only b header s
  rw [e]
@[simp] theorem aerError_thm (b : Nat) (header : List Nat) (s : State) : (aerError b header s).thm = s.thm := by
  obtain ⟨_, _, e, _⟩ := aerError_only b header s
  rw [e]
@[simp] theorem aerError_prt (b : Nat) (header : List Nat) (s : State) : (aerError b header s).prt = s.prt := by
  obtain ⟨_, _, e, _⟩ := aerError_only b header s
  rw [e]
@[simp] theorem aerError_pending (b : Nat) (header : List Nat) (s : State) : (aerError b header s).pending = s.pending := by
  obtain ⟨_, _, e, _⟩ := aerError_only b header s
  rw [e]
@[simp] theorem aerError_fresh (b : Nat) (header : List Nat) (s : State) : (aerError b header s).fresh = s.fresh := by
  obtain ⟨_, _, e, _⟩ := aerError_only b header s
  rw [e]
@[simp] theorem aerError_hostMem (b : Nat) (header : List Nat) (s : State) : (aerError b header s).hostMem = s.hostMem := by
  obtain ⟨_, _, e, _⟩ := aerError_only b header s
  rw [e]

/-- R370: what a fatal condition leaves of the keeper. -/
theorem fatalTell_kpr (tell : Bool) (cause : Nat) (s : State) (h : s.kpr.state ≠ .halted) :
    (fatalTell tell cause s).kpr = { s.kpr with state := .halted, prev := s.kpr.state, haltCause := cause, blanked := true } := by
  unfold fatalTell haltNow
  rw [if_neg h]
  split
  · rw [raise_kpr, aerError_kpr]
  · rfl

/-- R370: the frame stops. -/
theorem fatalTell_frm (tell : Bool) (cause : Nat) (s : State) (h : s.kpr.state ≠ .halted) :
    (fatalTell tell cause s).frm = { s.frm with phase := .idle } := by
  unfold fatalTell haltNow
  rw [if_neg h]
  split
  · rw [raise_frm, aerError_frm]
  · rfl

/-- R370: the error that the host sees. -/
theorem fatalTell_status (cause : Nat) (s : State) (h : s.kpr.state ≠ .halted) :
    (fatalTell true cause s).hif.aer.status = s.hif.aer.status ||| 2 ^ 22 := by
  unfold fatalTell haltNow
  rw [if_neg h]
  simp

@[simp] theorem fatalTell_fuses (tell : Bool) (cause : Nat) (s : State) : (fatalTell tell cause s).fuses = s.fuses := by
  unfold fatalTell haltNow
  split
  · rfl
  · split
    · simp
    · rfl
@[simp] theorem fatalTell_flp (tell : Bool) (cause : Nat) (s : State) : (fatalTell tell cause s).flp = s.flp := by
  unfold fatalTell haltNow
  split
  · rfl
  · split
    · simp
    · rfl
@[simp] theorem fatalTell_dbg (tell : Bool) (cause : Nat) (s : State) : (fatalTell tell cause s).dbg = s.dbg := by
  unfold fatalTell haltNow
  split
  · rfl
  · split
    · simp
    · rfl
@[simp] theorem fatalTell_dev (tell : Bool) (cause : Nat) (s : State) : (fatalTell tell cause s).dev = s.dev := by
  unfold fatalTell haltNow
  split
  · rfl
  · split
    · simp
    · rfl
@[simp] theorem fatalTell_cores (tell : Bool) (cause : Nat) (s : State) : (fatalTell tell cause s).cores = s.cores := by
  unfold fatalTell haltNow
  split
  · rfl
  · split
    · simp
    · rfl
@[simp] theorem fatalTell_mem (tell : Bool) (cause : Nat) (s : State) : (fatalTell tell cause s).mem = s.mem := by
  unfold fatalTell haltNow
  split
  · rfl
  · split
    · simp
    · rfl
@[simp] theorem fatalTell_net (tell : Bool) (cause : Nat) (s : State) : (fatalTell tell cause s).net = s.net := by
  unfold fatalTell haltNow
  split
  · rfl
  · split
    · simp
    · rfl
@[simp] theorem fatalTell_bnk (tell : Bool) (cause : Nat) (s : State) : (fatalTell tell cause s).bnk = s.bnk := by
  unfold fatalTell haltNow
  split
  · rfl
  · split
    · simp
    · rfl
@[simp] theorem fatalTell_walkers (tell : Bool) (cause : Nat) (s : State) : (fatalTell tell cause s).walkers = s.walkers := by
  unfold fatalTell haltNow
  split
  · rfl
  · split
    · simp
    · rfl
@[simp] theorem fatalTell_req (tell : Bool) (cause : Nat) (s : State) : (fatalTell tell cause s).req = s.req := by
  unfold fatalTell haltNow
  split
  · rfl
  · split
    · simp
    · rfl
@[simp] theorem fatalTell_lnk (tell : Bool) (cause : Nat) (s : State) : (fatalTell tell cause s).lnk = s.lnk := by
  unfold fatalTell haltNow
  split
  · rfl
  · split
    · simp
    · rfl
@[simp] theorem fatalTell_clk (tell : Bool) (cause : Nat) (s : State) : (fatalTell tell cause s).clk = s.clk := by
  unfold fatalTell haltNow
  split
  · rfl
  · split
    · simp
    · rfl
@[simp] theorem fatalTell_pwr (tell : Bool) (cause : Nat) (s : State) : (fatalTell tell cause s).pwr = s.pwr := by
  unfold fatalTell haltNow
  split
  · rfl
  · split
    · simp
    · rfl
@[simp] theorem fatalTell_sup (tell : Bool) (cause : Nat) (s : State) : (fatalTell tell cause s).sup = s.sup := by
  unfold fatalTell haltNow
  split
  · rfl
  · split
    · simp
    · rfl
@[simp] theorem fatalTell_thm (tell : Bool) (cause : Nat) (s : State) : (fatalTell tell cause s).thm = s.thm := by
  unfold fatalTell haltNow
  split
  · rfl
  · split
    · simp
    · rfl
@[simp] theorem fatalTell_prt (tell : Bool) (cause : Nat) (s : State) : (fatalTell tell cause s).prt = s.prt := by
  unfold fatalTell haltNow
  split
  · rfl
  · split
    · simp
    · rfl
@[simp] theorem fatalTell_pending (tell : Bool) (cause : Nat) (s : State) : (fatalTell tell cause s).pending = s.pending := by
  unfold fatalTell haltNow
  split
  · rfl
  · split
    · simp
    · rfl
@[simp] theorem fatalTell_fresh (tell : Bool) (cause : Nat) (s : State) : (fatalTell tell cause s).fresh = s.fresh := by
  unfold fatalTell haltNow
  split
  · rfl
  · split
    · simp
    · rfl

end Sys2Proof.Machine
end

