-- ==== Sys2Proof/Laws/State.lean ====
section
/-! SUPPORT. What the updates of one record of the state leave alone, field by field, and what a read of that record gives
afterwards. -/
namespace Sys2Proof.Machine

@[simp] theorem setCtx_kpr (n k : Nat) (f : Ctx → Ctx) (s : State) : (setCtx n k f s).kpr = s.kpr := rfl
@[simp] theorem setCtx_fuses (n k : Nat) (f : Ctx → Ctx) (s : State) : (setCtx n k f s).fuses = s.fuses := rfl
@[simp] theorem setCtx_flp (n k : Nat) (f : Ctx → Ctx) (s : State) : (setCtx n k f s).flp = s.flp := rfl
@[simp] theorem setCtx_hif (n k : Nat) (f : Ctx → Ctx) (s : State) : (setCtx n k f s).hif = s.hif := rfl
@[simp] theorem setCtx_evt (n k : Nat) (f : Ctx → Ctx) (s : State) : (setCtx n k f s).evt = s.evt := rfl
@[simp] theorem setCtx_tel (n k : Nat) (f : Ctx → Ctx) (s : State) : (setCtx n k f s).tel = s.tel := rfl
@[simp] theorem setCtx_dbg (n k : Nat) (f : Ctx → Ctx) (s : State) : (setCtx n k f s).dbg = s.dbg := rfl
@[simp] theorem setCtx_dev (n k : Nat) (f : Ctx → Ctx) (s : State) : (setCtx n k f s).dev = s.dev := rfl
@[simp] theorem setCtx_frm (n k : Nat) (f : Ctx → Ctx) (s : State) : (setCtx n k f s).frm = s.frm := rfl
@[simp] theorem setCtx_mem (n k : Nat) (f : Ctx → Ctx) (s : State) : (setCtx n k f s).mem = s.mem := rfl
@[simp] theorem setCtx_net (n k : Nat) (f : Ctx → Ctx) (s : State) : (setCtx n k f s).net = s.net := rfl
@[simp] theorem setCtx_bnk (n k : Nat) (f : Ctx → Ctx) (s : State) : (setCtx n k f s).bnk = s.bnk := rfl
@[simp] theorem setCtx_walkers (n k : Nat) (f : Ctx → Ctx) (s : State) : (setCtx n k f s).walkers = s.walkers := rfl
@[simp] theorem setCtx_req (n k : Nat) (f : Ctx → Ctx) (s : State) : (setCtx n k f s).req = s.req := rfl
@[simp] theorem setCtx_lnk (n k : Nat) (f : Ctx → Ctx) (s : State) : (setCtx n k f s).lnk = s.lnk := rfl
@[simp] theorem setCtx_clk (n k : Nat) (f : Ctx → Ctx) (s : State) : (setCtx n k f s).clk = s.clk := rfl
@[simp] theorem setCtx_pwr (n k : Nat) (f : Ctx → Ctx) (s : State) : (setCtx n k f s).pwr = s.pwr := rfl
@[simp] theorem setCtx_sup (n k : Nat) (f : Ctx → Ctx) (s : State) : (setCtx n k f s).sup = s.sup := rfl
@[simp] theorem setCtx_thm (n k : Nat) (f : Ctx → Ctx) (s : State) : (setCtx n k f s).thm = s.thm := rfl
@[simp] theorem setCtx_prt (n k : Nat) (f : Ctx → Ctx) (s : State) : (setCtx n k f s).prt = s.prt := rfl
@[simp] theorem setCtx_pending (n k : Nat) (f : Ctx → Ctx) (s : State) : (setCtx n k f s).pending = s.pending := rfl
@[simp] theorem setCtx_out (n k : Nat) (f : Ctx → Ctx) (s : State) : (setCtx n k f s).out = s.out := rfl
@[simp] theorem setCtx_fresh (n k : Nat) (f : Ctx → Ctx) (s : State) : (setCtx n k f s).fresh = s.fresh := rfl
@[simp] theorem setCtx_hostMem (n k : Nat) (f : Ctx → Ctx) (s : State) : (setCtx n k f s).hostMem = s.hostMem := rfl

@[simp] theorem setCore_kpr (n : Nat) (f : CoreSt → CoreSt) (s : State) : (setCore n f s).kpr = s.kpr := rfl
@[simp] theorem setCore_fuses (n : Nat) (f : CoreSt → CoreSt) (s : State) : (setCore n f s).fuses = s.fuses := rfl
@[simp] theorem setCore_flp (n : Nat) (f : CoreSt → CoreSt) (s : State) : (setCore n f s).flp = s.flp := rfl
@[simp] theorem setCore_hif (n : Nat) (f : CoreSt → CoreSt) (s : State) : (setCore n f s).hif = s.hif := rfl
@[simp] theorem setCore_evt (n : Nat) (f : CoreSt → CoreSt) (s : State) : (setCore n f s).evt = s.evt := rfl
@[simp] theorem setCore_tel (n : Nat) (f : CoreSt → CoreSt) (s : State) : (setCore n f s).tel = s.tel := rfl
@[simp] theorem setCore_dbg (n : Nat) (f : CoreSt → CoreSt) (s : State) : (setCore n f s).dbg = s.dbg := rfl
@[simp] theorem setCore_dev (n : Nat) (f : CoreSt → CoreSt) (s : State) : (setCore n f s).dev = s.dev := rfl
@[simp] theorem setCore_frm (n : Nat) (f : CoreSt → CoreSt) (s : State) : (setCore n f s).frm = s.frm := rfl
@[simp] theorem setCore_mem (n : Nat) (f : CoreSt → CoreSt) (s : State) : (setCore n f s).mem = s.mem := rfl
@[simp] theorem setCore_net (n : Nat) (f : CoreSt → CoreSt) (s : State) : (setCore n f s).net = s.net := rfl
@[simp] theorem setCore_bnk (n : Nat) (f : CoreSt → CoreSt) (s : State) : (setCore n f s).bnk = s.bnk := rfl
@[simp] theorem setCore_walkers (n : Nat) (f : CoreSt → CoreSt) (s : State) : (setCore n f s).walkers = s.walkers := rfl
@[simp] theorem setCore_req (n : Nat) (f : CoreSt → CoreSt) (s : State) : (setCore n f s).req = s.req := rfl
@[simp] theorem setCore_lnk (n : Nat) (f : CoreSt → CoreSt) (s : State) : (setCore n f s).lnk = s.lnk := rfl
@[simp] theorem setCore_clk (n : Nat) (f : CoreSt → CoreSt) (s : State) : (setCore n f s).clk = s.clk := rfl
@[simp] theorem setCore_pwr (n : Nat) (f : CoreSt → CoreSt) (s : State) : (setCore n f s).pwr = s.pwr := rfl
@[simp] theorem setCore_sup (n : Nat) (f : CoreSt → CoreSt) (s : State) : (setCore n f s).sup = s.sup := rfl
@[simp] theorem setCore_thm (n : Nat) (f : CoreSt → CoreSt) (s : State) : (setCore n f s).thm = s.thm := rfl
@[simp] theorem setCore_prt (n : Nat) (f : CoreSt → CoreSt) (s : State) : (setCore n f s).prt = s.prt := rfl
@[simp] theorem setCore_pending (n : Nat) (f : CoreSt → CoreSt) (s : State) : (setCore n f s).pending = s.pending := rfl
@[simp] theorem setCore_out (n : Nat) (f : CoreSt → CoreSt) (s : State) : (setCore n f s).out = s.out := rfl
@[simp] theorem setCore_fresh (n : Nat) (f : CoreSt → CoreSt) (s : State) : (setCore n f s).fresh = s.fresh := rfl
@[simp] theorem setCore_hostMem (n : Nat) (f : CoreSt → CoreSt) (s : State) : (setCore n f s).hostMem = s.hostMem := rfl

@[simp] theorem setPane_kpr (n p : Nat) (f : Pane → Pane) (s : State) : (setPane n p f s).kpr = s.kpr := rfl
@[simp] theorem setPane_fuses (n p : Nat) (f : Pane → Pane) (s : State) : (setPane n p f s).fuses = s.fuses := rfl
@[simp] theorem setPane_flp (n p : Nat) (f : Pane → Pane) (s : State) : (setPane n p f s).flp = s.flp := rfl
@[simp] theorem setPane_hif (n p : Nat) (f : Pane → Pane) (s : State) : (setPane n p f s).hif = s.hif := rfl
@[simp] theorem setPane_evt (n p : Nat) (f : Pane → Pane) (s : State) : (setPane n p f s).evt = s.evt := rfl
@[simp] theorem setPane_tel (n p : Nat) (f : Pane → Pane) (s : State) : (setPane n p f s).tel = s.tel := rfl
@[simp] theorem setPane_dbg (n p : Nat) (f : Pane → Pane) (s : State) : (setPane n p f s).dbg = s.dbg := rfl
@[simp] theorem setPane_dev (n p : Nat) (f : Pane → Pane) (s : State) : (setPane n p f s).dev = s.dev := rfl
@[simp] theorem setPane_frm (n p : Nat) (f : Pane → Pane) (s : State) : (setPane n p f s).frm = s.frm := rfl
@[simp] theorem setPane_mem (n p : Nat) (f : Pane → Pane) (s : State) : (setPane n p f s).mem = s.mem := rfl
@[simp] theorem setPane_net (n p : Nat) (f : Pane → Pane) (s : State) : (setPane n p f s).net = s.net := rfl
@[simp] theorem setPane_bnk (n p : Nat) (f : Pane → Pane) (s : State) : (setPane n p f s).bnk = s.bnk := rfl
@[simp] theorem setPane_walkers (n p : Nat) (f : Pane → Pane) (s : State) : (setPane n p f s).walkers = s.walkers := rfl
@[simp] theorem setPane_req (n p : Nat) (f : Pane → Pane) (s : State) : (setPane n p f s).req = s.req := rfl
@[simp] theorem setPane_lnk (n p : Nat) (f : Pane → Pane) (s : State) : (setPane n p f s).lnk = s.lnk := rfl
@[simp] theorem setPane_clk (n p : Nat) (f : Pane → Pane) (s : State) : (setPane n p f s).clk = s.clk := rfl
@[simp] theorem setPane_pwr (n p : Nat) (f : Pane → Pane) (s : State) : (setPane n p f s).pwr = s.pwr := rfl
@[simp] theorem setPane_sup (n p : Nat) (f : Pane → Pane) (s : State) : (setPane n p f s).sup = s.sup := rfl
@[simp] theorem setPane_thm (n p : Nat) (f : Pane → Pane) (s : State) : (setPane n p f s).thm = s.thm := rfl
@[simp] theorem setPane_prt (n p : Nat) (f : Pane → Pane) (s : State) : (setPane n p f s).prt = s.prt := rfl
@[simp] theorem setPane_pending (n p : Nat) (f : Pane → Pane) (s : State) : (setPane n p f s).pending = s.pending := rfl
@[simp] theorem setPane_out (n p : Nat) (f : Pane → Pane) (s : State) : (setPane n p f s).out = s.out := rfl
@[simp] theorem setPane_fresh (n p : Nat) (f : Pane → Pane) (s : State) : (setPane n p f s).fresh = s.fresh := rfl
@[simp] theorem setPane_hostMem (n p : Nat) (f : Pane → Pane) (s : State) : (setPane n p f s).hostMem = s.hostMem := rfl

@[simp] theorem putStore_kpr (n a : Nat) (b : List Nat) (s : State) : (putStore n a b s).kpr = s.kpr := rfl
@[simp] theorem putStore_fuses (n a : Nat) (b : List Nat) (s : State) : (putStore n a b s).fuses = s.fuses := rfl
@[simp] theorem putStore_flp (n a : Nat) (b : List Nat) (s : State) : (putStore n a b s).flp = s.flp := rfl
@[simp] theorem putStore_hif (n a : Nat) (b : List Nat) (s : State) : (putStore n a b s).hif = s.hif := rfl
@[simp] theorem putStore_evt (n a : Nat) (b : List Nat) (s : State) : (putStore n a b s).evt = s.evt := rfl
@[simp] theorem putStore_tel (n a : Nat) (b : List Nat) (s : State) : (putStore n a b s).tel = s.tel := rfl
@[simp] theorem putStore_dbg (n a : Nat) (b : List Nat) (s : State) : (putStore n a b s).dbg = s.dbg := rfl
@[simp] theorem putStore_dev (n a : Nat) (b : List Nat) (s : State) : (putStore n a b s).dev = s.dev := rfl
@[simp] theorem putStore_frm (n a : Nat) (b : List Nat) (s : State) : (putStore n a b s).frm = s.frm := rfl
@[simp] theorem putStore_mem (n a : Nat) (b : List Nat) (s : State) : (putStore n a b s).mem = s.mem := rfl
@[simp] theorem putStore_net (n a : Nat) (b : List Nat) (s : State) : (putStore n a b s).net = s.net := rfl
@[simp] theorem putStore_bnk (n a : Nat) (b : List Nat) (s : State) : (putStore n a b s).bnk = s.bnk := rfl
@[simp] theorem putStore_walkers (n a : Nat) (b : List Nat) (s : State) : (putStore n a b s).walkers = s.walkers := rfl
@[simp] theorem putStore_req (n a : Nat) (b : List Nat) (s : State) : (putStore n a b s).req = s.req := rfl
@[simp] theorem putStore_lnk (n a : Nat) (b : List Nat) (s : State) : (putStore n a b s).lnk = s.lnk := rfl
@[simp] theorem putStore_clk (n a : Nat) (b : List Nat) (s : State) : (putStore n a b s).clk = s.clk := rfl
@[simp] theorem putStore_pwr (n a : Nat) (b : List Nat) (s : State) : (putStore n a b s).pwr = s.pwr := rfl
@[simp] theorem putStore_sup (n a : Nat) (b : List Nat) (s : State) : (putStore n a b s).sup = s.sup := rfl
@[simp] theorem putStore_thm (n a : Nat) (b : List Nat) (s : State) : (putStore n a b s).thm = s.thm := rfl
@[simp] theorem putStore_prt (n a : Nat) (b : List Nat) (s : State) : (putStore n a b s).prt = s.prt := rfl
@[simp] theorem putStore_pending (n a : Nat) (b : List Nat) (s : State) : (putStore n a b s).pending = s.pending := rfl
@[simp] theorem putStore_out (n a : Nat) (b : List Nat) (s : State) : (putStore n a b s).out = s.out := rfl
@[simp] theorem putStore_fresh (n a : Nat) (b : List Nat) (s : State) : (putStore n a b s).fresh = s.fresh := rfl
@[simp] theorem putStore_hostMem (n a : Nat) (b : List Nat) (s : State) : (putStore n a b s).hostMem = s.hostMem := rfl

@[simp] theorem setTile_kpr (n : Nat) (f : Tile → Tile) (s : State) : (setTile n f s).kpr = s.kpr := rfl
@[simp] theorem setTile_fuses (n : Nat) (f : Tile → Tile) (s : State) : (setTile n f s).fuses = s.fuses := rfl
@[simp] theorem setTile_flp (n : Nat) (f : Tile → Tile) (s : State) : (setTile n f s).flp = s.flp := rfl
@[simp] theorem setTile_hif (n : Nat) (f : Tile → Tile) (s : State) : (setTile n f s).hif = s.hif := rfl
@[simp] theorem setTile_evt (n : Nat) (f : Tile → Tile) (s : State) : (setTile n f s).evt = s.evt := rfl
@[simp] theorem setTile_tel (n : Nat) (f : Tile → Tile) (s : State) : (setTile n f s).tel = s.tel := rfl
@[simp] theorem setTile_dbg (n : Nat) (f : Tile → Tile) (s : State) : (setTile n f s).dbg = s.dbg := rfl
@[simp] theorem setTile_dev (n : Nat) (f : Tile → Tile) (s : State) : (setTile n f s).dev = s.dev := rfl
@[simp] theorem setTile_frm (n : Nat) (f : Tile → Tile) (s : State) : (setTile n f s).frm = s.frm := rfl
@[simp] theorem setTile_cores (n : Nat) (f : Tile → Tile) (s : State) : (setTile n f s).cores = s.cores := rfl
@[simp] theorem setTile_net (n : Nat) (f : Tile → Tile) (s : State) : (setTile n f s).net = s.net := rfl
@[simp] theorem setTile_bnk (n : Nat) (f : Tile → Tile) (s : State) : (setTile n f s).bnk = s.bnk := rfl
@[simp] theorem setTile_walkers (n : Nat) (f : Tile → Tile) (s : State) : (setTile n f s).walkers = s.walkers := rfl
@[simp] theorem setTile_req (n : Nat) (f : Tile → Tile) (s : State) : (setTile n f s).req = s.req := rfl
@[simp] theorem setTile_lnk (n : Nat) (f : Tile → Tile) (s : State) : (setTile n f s).lnk = s.lnk := rfl
@[simp] theorem setTile_clk (n : Nat) (f : Tile → Tile) (s : State) : (setTile n f s).clk = s.clk := rfl
@[simp] theorem setTile_pwr (n : Nat) (f : Tile → Tile) (s : State) : (setTile n f s).pwr = s.pwr := rfl
@[simp] theorem setTile_sup (n : Nat) (f : Tile → Tile) (s : State) : (setTile n f s).sup = s.sup := rfl
@[simp] theorem setTile_thm (n : Nat) (f : Tile → Tile) (s : State) : (setTile n f s).thm = s.thm := rfl
@[simp] theorem setTile_prt (n : Nat) (f : Tile → Tile) (s : State) : (setTile n f s).prt = s.prt := rfl
@[simp] theorem setTile_pending (n : Nat) (f : Tile → Tile) (s : State) : (setTile n f s).pending = s.pending := rfl
@[simp] theorem setTile_out (n : Nat) (f : Tile → Tile) (s : State) : (setTile n f s).out = s.out := rfl
@[simp] theorem setTile_fresh (n : Nat) (f : Tile → Tile) (s : State) : (setTile n f s).fresh = s.fresh := rfl
@[simp] theorem setTile_hostMem (n : Nat) (f : Tile → Tile) (s : State) : (setTile n f s).hostMem = s.hostMem := rfl

@[simp] theorem setUnit_kpr (n b : Nat) (f : BankUnit → BankUnit) (s : State) : (setUnit n b f s).kpr = s.kpr := rfl
@[simp] theorem setUnit_fuses (n b : Nat) (f : BankUnit → BankUnit) (s : State) : (setUnit n b f s).fuses = s.fuses := rfl
@[simp] theorem setUnit_flp (n b : Nat) (f : BankUnit → BankUnit) (s : State) : (setUnit n b f s).flp = s.flp := rfl
@[simp] theorem setUnit_hif (n b : Nat) (f : BankUnit → BankUnit) (s : State) : (setUnit n b f s).hif = s.hif := rfl
@[simp] theorem setUnit_evt (n b : Nat) (f : BankUnit → BankUnit) (s : State) : (setUnit n b f s).evt = s.evt := rfl
@[simp] theorem setUnit_tel (n b : Nat) (f : BankUnit → BankUnit) (s : State) : (setUnit n b f s).tel = s.tel := rfl
@[simp] theorem setUnit_dbg (n b : Nat) (f : BankUnit → BankUnit) (s : State) : (setUnit n b f s).dbg = s.dbg := rfl
@[simp] theorem setUnit_dev (n b : Nat) (f : BankUnit → BankUnit) (s : State) : (setUnit n b f s).dev = s.dev := rfl
@[simp] theorem setUnit_frm (n b : Nat) (f : BankUnit → BankUnit) (s : State) : (setUnit n b f s).frm = s.frm := rfl
@[simp] theorem setUnit_cores (n b : Nat) (f : BankUnit → BankUnit) (s : State) : (setUnit n b f s).cores = s.cores := rfl
@[simp] theorem setUnit_mem (n b : Nat) (f : BankUnit → BankUnit) (s : State) : (setUnit n b f s).mem = s.mem := rfl
@[simp] theorem setUnit_net (n b : Nat) (f : BankUnit → BankUnit) (s : State) : (setUnit n b f s).net = s.net := rfl
@[simp] theorem setUnit_walkers (n b : Nat) (f : BankUnit → BankUnit) (s : State) : (setUnit n b f s).walkers = s.walkers := rfl
@[simp] theorem setUnit_req (n b : Nat) (f : BankUnit → BankUnit) (s : State) : (setUnit n b f s).req = s.req := rfl
@[simp] theorem setUnit_lnk (n b : Nat) (f : BankUnit → BankUnit) (s : State) : (setUnit n b f s).lnk = s.lnk := rfl
@[simp] theorem setUnit_clk (n b : Nat) (f : BankUnit → BankUnit) (s : State) : (setUnit n b f s).clk = s.clk := rfl
@[simp] theorem setUnit_pwr (n b : Nat) (f : BankUnit → BankUnit) (s : State) : (setUnit n b f s).pwr = s.pwr := rfl
@[simp] theorem setUnit_sup (n b : Nat) (f : BankUnit → BankUnit) (s : State) : (setUnit n b f s).sup = s.sup := rfl
@[simp] theorem setUnit_thm (n b : Nat) (f : BankUnit → BankUnit) (s : State) : (setUnit n b f s).thm = s.thm := rfl
@[simp] theorem setUnit_prt (n b : Nat) (f : BankUnit → BankUnit) (s : State) : (setUnit n b f s).prt = s.prt := rfl
@[simp] theorem setUnit_pending (n b : Nat) (f : BankUnit → BankUnit) (s : State) : (setUnit n b f s).pending = s.pending := rfl
@[simp] theorem setUnit_out (n b : Nat) (f : BankUnit → BankUnit) (s : State) : (setUnit n b f s).out = s.out := rfl
@[simp] theorem setUnit_fresh (n b : Nat) (f : BankUnit → BankUnit) (s : State) : (setUnit n b f s).fresh = s.fresh := rfl
@[simp] theorem setUnit_hostMem (n b : Nat) (f : BankUnit → BankUnit) (s : State) : (setUnit n b f s).hostMem = s.hostMem := rfl

@[simp] theorem setSlot_kpr (n b i : Nat) (f : Slot → Slot) (s : State) : (setSlot n b i f s).kpr = s.kpr := rfl
@[simp] theorem setSlot_fuses (n b i : Nat) (f : Slot → Slot) (s : State) : (setSlot n b i f s).fuses = s.fuses := rfl
@[simp] theorem setSlot_flp (n b i : Nat) (f : Slot → Slot) (s : State) : (setSlot n b i f s).flp = s.flp := rfl
@[simp] theorem setSlot_hif (n b i : Nat) (f : Slot → Slot) (s : State) : (setSlot n b i f s).hif = s.hif := rfl
@[simp] theorem setSlot_evt (n b i : Nat) (f : Slot → Slot) (s : State) : (setSlot n b i f s).evt = s.evt := rfl
@[simp] theorem setSlot_tel (n b i : Nat) (f : Slot → Slot) (s : State) : (setSlot n b i f s).tel = s.tel := rfl
@[simp] theorem setSlot_dbg (n b i : Nat) (f : Slot → Slot) (s : State) : (setSlot n b i f s).dbg = s.dbg := rfl
@[simp] theorem setSlot_dev (n b i : Nat) (f : Slot → Slot) (s : State) : (setSlot n b i f s).dev = s.dev := rfl
@[simp] theorem setSlot_frm (n b i : Nat) (f : Slot → Slot) (s : State) : (setSlot n b i f s).frm = s.frm := rfl
@[simp] theorem setSlot_cores (n b i : Nat) (f : Slot → Slot) (s : State) : (setSlot n b i f s).cores = s.cores := rfl
@[simp] theorem setSlot_mem (n b i : Nat) (f : Slot → Slot) (s : State) : (setSlot n b i f s).mem = s.mem := rfl
@[simp] theorem setSlot_net (n b i : Nat) (f : Slot → Slot) (s : State) : (setSlot n b i f s).net = s.net := rfl
@[simp] theorem setSlot_walkers (n b i : Nat) (f : Slot → Slot) (s : State) : (setSlot n b i f s).walkers = s.walkers := rfl
@[simp] theorem setSlot_req (n b i : Nat) (f : Slot → Slot) (s : State) : (setSlot n b i f s).req = s.req := rfl
@[simp] theorem setSlot_lnk (n b i : Nat) (f : Slot → Slot) (s : State) : (setSlot n b i f s).lnk = s.lnk := rfl
@[simp] theorem setSlot_clk (n b i : Nat) (f : Slot → Slot) (s : State) : (setSlot n b i f s).clk = s.clk := rfl
@[simp] theorem setSlot_pwr (n b i : Nat) (f : Slot → Slot) (s : State) : (setSlot n b i f s).pwr = s.pwr := rfl
@[simp] theorem setSlot_sup (n b i : Nat) (f : Slot → Slot) (s : State) : (setSlot n b i f s).sup = s.sup := rfl
@[simp] theorem setSlot_thm (n b i : Nat) (f : Slot → Slot) (s : State) : (setSlot n b i f s).thm = s.thm := rfl
@[simp] theorem setSlot_prt (n b i : Nat) (f : Slot → Slot) (s : State) : (setSlot n b i f s).prt = s.prt := rfl
@[simp] theorem setSlot_pending (n b i : Nat) (f : Slot → Slot) (s : State) : (setSlot n b i f s).pending = s.pending := rfl
@[simp] theorem setSlot_out (n b i : Nat) (f : Slot → Slot) (s : State) : (setSlot n b i f s).out = s.out := rfl
@[simp] theorem setSlot_fresh (n b i : Nat) (f : Slot → Slot) (s : State) : (setSlot n b i f s).fresh = s.fresh := rfl
@[simp] theorem setSlot_hostMem (n b i : Nat) (f : Slot → Slot) (s : State) : (setSlot n b i f s).hostMem = s.hostMem := rfl

@[simp] theorem setRun_kpr (n b : Nat) (f : BankRun → BankRun) (s : State) : (setRun n b f s).kpr = s.kpr := rfl
@[simp] theorem setRun_fuses (n b : Nat) (f : BankRun → BankRun) (s : State) : (setRun n b f s).fuses = s.fuses := rfl
@[simp] theorem setRun_flp (n b : Nat) (f : BankRun → BankRun) (s : State) : (setRun n b f s).flp = s.flp := rfl
@[simp] theorem setRun_hif (n b : Nat) (f : BankRun → BankRun) (s : State) : (setRun n b f s).hif = s.hif := rfl
@[simp] theorem setRun_evt (n b : Nat) (f : BankRun → BankRun) (s : State) : (setRun n b f s).evt = s.evt := rfl
@[simp] theorem setRun_tel (n b : Nat) (f : BankRun → BankRun) (s : State) : (setRun n b f s).tel = s.tel := rfl
@[simp] theorem setRun_dbg (n b : Nat) (f : BankRun → BankRun) (s : State) : (setRun n b f s).dbg = s.dbg := rfl
@[simp] theorem setRun_dev (n b : Nat) (f : BankRun → BankRun) (s : State) : (setRun n b f s).dev = s.dev := rfl
@[simp] theorem setRun_frm (n b : Nat) (f : BankRun → BankRun) (s : State) : (setRun n b f s).frm = s.frm := rfl
@[simp] theorem setRun_cores (n b : Nat) (f : BankRun → BankRun) (s : State) : (setRun n b f s).cores = s.cores := rfl
@[simp] theorem setRun_mem (n b : Nat) (f : BankRun → BankRun) (s : State) : (setRun n b f s).mem = s.mem := rfl
@[simp] theorem setRun_net (n b : Nat) (f : BankRun → BankRun) (s : State) : (setRun n b f s).net = s.net := rfl
@[simp] theorem setRun_walkers (n b : Nat) (f : BankRun → BankRun) (s : State) : (setRun n b f s).walkers = s.walkers := rfl
@[simp] theorem setRun_req (n b : Nat) (f : BankRun → BankRun) (s : State) : (setRun n b f s).req = s.req := rfl
@[simp] theorem setRun_lnk (n b : Nat) (f : BankRun → BankRun) (s : State) : (setRun n b f s).lnk = s.lnk := rfl
@[simp] theorem setRun_clk (n b : Nat) (f : BankRun → BankRun) (s : State) : (setRun n b f s).clk = s.clk := rfl
@[simp] theorem setRun_pwr (n b : Nat) (f : BankRun → BankRun) (s : State) : (setRun n b f s).pwr = s.pwr := rfl
@[simp] theorem setRun_sup (n b : Nat) (f : BankRun → BankRun) (s : State) : (setRun n b f s).sup = s.sup := rfl
@[simp] theorem setRun_thm (n b : Nat) (f : BankRun → BankRun) (s : State) : (setRun n b f s).thm = s.thm := rfl
@[simp] theorem setRun_prt (n b : Nat) (f : BankRun → BankRun) (s : State) : (setRun n b f s).prt = s.prt := rfl
@[simp] theorem setRun_pending (n b : Nat) (f : BankRun → BankRun) (s : State) : (setRun n b f s).pending = s.pending := rfl
@[simp] theorem setRun_out (n b : Nat) (f : BankRun → BankRun) (s : State) : (setRun n b f s).out = s.out := rfl
@[simp] theorem setRun_fresh (n b : Nat) (f : BankRun → BankRun) (s : State) : (setRun n b f s).fresh = s.fresh := rfl
@[simp] theorem setRun_hostMem (n b : Nat) (f : BankRun → BankRun) (s : State) : (setRun n b f s).hostMem = s.hostMem := rfl

@[simp] theorem setQp_kpr (q : Nat) (f : QPair → QPair) (s : State) : (setQp q f s).kpr = s.kpr := rfl
@[simp] theorem setQp_fuses (q : Nat) (f : QPair → QPair) (s : State) : (setQp q f s).fuses = s.fuses := rfl
@[simp] theorem setQp_flp (q : Nat) (f : QPair → QPair) (s : State) : (setQp q f s).flp = s.flp := rfl
@[simp] theorem setQp_hif (q : Nat) (f : QPair → QPair) (s : State) : (setQp q f s).hif = s.hif := rfl
@[simp] theorem setQp_evt (q : Nat) (f : QPair → QPair) (s : State) : (setQp q f s).evt = s.evt := rfl
@[simp] theorem setQp_tel (q : Nat) (f : QPair → QPair) (s : State) : (setQp q f s).tel = s.tel := rfl
@[simp] theorem setQp_dbg (q : Nat) (f : QPair → QPair) (s : State) : (setQp q f s).dbg = s.dbg := rfl
@[simp] theorem setQp_dev (q : Nat) (f : QPair → QPair) (s : State) : (setQp q f s).dev = s.dev := rfl
@[simp] theorem setQp_frm (q : Nat) (f : QPair → QPair) (s : State) : (setQp q f s).frm = s.frm := rfl
@[simp] theorem setQp_cores (q : Nat) (f : QPair → QPair) (s : State) : (setQp q f s).cores = s.cores := rfl
@[simp] theorem setQp_mem (q : Nat) (f : QPair → QPair) (s : State) : (setQp q f s).mem = s.mem := rfl
@[simp] theorem setQp_net (q : Nat) (f : QPair → QPair) (s : State) : (setQp q f s).net = s.net := rfl
@[simp] theorem setQp_bnk (q : Nat) (f : QPair → QPair) (s : State) : (setQp q f s).bnk = s.bnk := rfl
@[simp] theorem setQp_walkers (q : Nat) (f : QPair → QPair) (s : State) : (setQp q f s).walkers = s.walkers := rfl
@[simp] theorem setQp_lnk (q : Nat) (f : QPair → QPair) (s : State) : (setQp q f s).lnk = s.lnk := rfl
@[simp] theorem setQp_clk (q : Nat) (f : QPair → QPair) (s : State) : (setQp q f s).clk = s.clk := rfl
@[simp] theorem setQp_pwr (q : Nat) (f : QPair → QPair) (s : State) : (setQp q f s).pwr = s.pwr := rfl
@[simp] theorem setQp_sup (q : Nat) (f : QPair → QPair) (s : State) : (setQp q f s).sup = s.sup := rfl
@[simp] theorem setQp_thm (q : Nat) (f : QPair → QPair) (s : State) : (setQp q f s).thm = s.thm := rfl
@[simp] theorem setQp_prt (q : Nat) (f : QPair → QPair) (s : State) : (setQp q f s).prt = s.prt := rfl
@[simp] theorem setQp_pending (q : Nat) (f : QPair → QPair) (s : State) : (setQp q f s).pending = s.pending := rfl
@[simp] theorem setQp_out (q : Nat) (f : QPair → QPair) (s : State) : (setQp q f s).out = s.out := rfl
@[simp] theorem setQp_fresh (q : Nat) (f : QPair → QPair) (s : State) : (setQp q f s).fresh = s.fresh := rfl
@[simp] theorem setQp_hostMem (q : Nat) (f : QPair → QPair) (s : State) : (setQp q f s).hostMem = s.hostMem := rfl

@[simp] theorem setSeq_kpr (n : Nat) (f : Seq → Seq) (s : State) : (setSeq n f s).kpr = s.kpr := rfl
@[simp] theorem setSeq_fuses (n : Nat) (f : Seq → Seq) (s : State) : (setSeq n f s).fuses = s.fuses := rfl
@[simp] theorem setSeq_flp (n : Nat) (f : Seq → Seq) (s : State) : (setSeq n f s).flp = s.flp := rfl
@[simp] theorem setSeq_hif (n : Nat) (f : Seq → Seq) (s : State) : (setSeq n f s).hif = s.hif := rfl
@[simp] theorem setSeq_evt (n : Nat) (f : Seq → Seq) (s : State) : (setSeq n f s).evt = s.evt := rfl
@[simp] theorem setSeq_tel (n : Nat) (f : Seq → Seq) (s : State) : (setSeq n f s).tel = s.tel := rfl
@[simp] theorem setSeq_dbg (n : Nat) (f : Seq → Seq) (s : State) : (setSeq n f s).dbg = s.dbg := rfl
@[simp] theorem setSeq_dev (n : Nat) (f : Seq → Seq) (s : State) : (setSeq n f s).dev = s.dev := rfl
@[simp] theorem setSeq_frm (n : Nat) (f : Seq → Seq) (s : State) : (setSeq n f s).frm = s.frm := rfl
@[simp] theorem setSeq_cores (n : Nat) (f : Seq → Seq) (s : State) : (setSeq n f s).cores = s.cores := rfl
@[simp] theorem setSeq_mem (n : Nat) (f : Seq → Seq) (s : State) : (setSeq n f s).mem = s.mem := rfl
@[simp] theorem setSeq_net (n : Nat) (f : Seq → Seq) (s : State) : (setSeq n f s).net = s.net := rfl
@[simp] theorem setSeq_bnk (n : Nat) (f : Seq → Seq) (s : State) : (setSeq n f s).bnk = s.bnk := rfl
@[simp] theorem setSeq_walkers (n : Nat) (f : Seq → Seq) (s : State) : (setSeq n f s).walkers = s.walkers := rfl
@[simp] theorem setSeq_lnk (n : Nat) (f : Seq → Seq) (s : State) : (setSeq n f s).lnk = s.lnk := rfl
@[simp] theorem setSeq_clk (n : Nat) (f : Seq → Seq) (s : State) : (setSeq n f s).clk = s.clk := rfl
@[simp] theorem setSeq_pwr (n : Nat) (f : Seq → Seq) (s : State) : (setSeq n f s).pwr = s.pwr := rfl
@[simp] theorem setSeq_sup (n : Nat) (f : Seq → Seq) (s : State) : (setSeq n f s).sup = s.sup := rfl
@[simp] theorem setSeq_thm (n : Nat) (f : Seq → Seq) (s : State) : (setSeq n f s).thm = s.thm := rfl
@[simp] theorem setSeq_prt (n : Nat) (f : Seq → Seq) (s : State) : (setSeq n f s).prt = s.prt := rfl
@[simp] theorem setSeq_pending (n : Nat) (f : Seq → Seq) (s : State) : (setSeq n f s).pending = s.pending := rfl
@[simp] theorem setSeq_out (n : Nat) (f : Seq → Seq) (s : State) : (setSeq n f s).out = s.out := rfl
@[simp] theorem setSeq_fresh (n : Nat) (f : Seq → Seq) (s : State) : (setSeq n f s).fresh = s.fresh := rfl
@[simp] theorem setSeq_hostMem (n : Nat) (f : Seq → Seq) (s : State) : (setSeq n f s).hostMem = s.hostMem := rfl

@[simp] theorem setLink_kpr (l : Nat) (f : Link → Link) (s : State) : (setLink l f s).kpr = s.kpr := rfl
@[simp] theorem setLink_fuses (l : Nat) (f : Link → Link) (s : State) : (setLink l f s).fuses = s.fuses := rfl
@[simp] theorem setLink_flp (l : Nat) (f : Link → Link) (s : State) : (setLink l f s).flp = s.flp := rfl
@[simp] theorem setLink_hif (l : Nat) (f : Link → Link) (s : State) : (setLink l f s).hif = s.hif := rfl
@[simp] theorem setLink_evt (l : Nat) (f : Link → Link) (s : State) : (setLink l f s).evt = s.evt := rfl
@[simp] theorem setLink_tel (l : Nat) (f : Link → Link) (s : State) : (setLink l f s).tel = s.tel := rfl
@[simp] theorem setLink_dbg (l : Nat) (f : Link → Link) (s : State) : (setLink l f s).dbg = s.dbg := rfl
@[simp] theorem setLink_dev (l : Nat) (f : Link → Link) (s : State) : (setLink l f s).dev = s.dev := rfl
@[simp] theorem setLink_frm (l : Nat) (f : Link → Link) (s : State) : (setLink l f s).frm = s.frm := rfl
@[simp] theorem setLink_cores (l : Nat) (f : Link → Link) (s : State) : (setLink l f s).cores = s.cores := rfl
@[simp] theorem setLink_mem (l : Nat) (f : Link → Link) (s : State) : (setLink l f s).mem = s.mem := rfl
@[simp] theorem setLink_net (l : Nat) (f : Link → Link) (s : State) : (setLink l f s).net = s.net := rfl
@[simp] theorem setLink_bnk (l : Nat) (f : Link → Link) (s : State) : (setLink l f s).bnk = s.bnk := rfl
@[simp] theorem setLink_walkers (l : Nat) (f : Link → Link) (s : State) : (setLink l f s).walkers = s.walkers := rfl
@[simp] theorem setLink_req (l : Nat) (f : Link → Link) (s : State) : (setLink l f s).req = s.req := rfl
@[simp] theorem setLink_clk (l : Nat) (f : Link → Link) (s : State) : (setLink l f s).clk = s.clk := rfl
@[simp] theorem setLink_pwr (l : Nat) (f : Link → Link) (s : State) : (setLink l f s).pwr = s.pwr := rfl
@[simp] theorem setLink_sup (l : Nat) (f : Link → Link) (s : State) : (setLink l f s).sup = s.sup := rfl
@[simp] theorem setLink_thm (l : Nat) (f : Link → Link) (s : State) : (setLink l f s).thm = s.thm := rfl
@[simp] theorem setLink_prt (l : Nat) (f : Link → Link) (s : State) : (setLink l f s).prt = s.prt := rfl
@[simp] theorem setLink_pending (l : Nat) (f : Link → Link) (s : State) : (setLink l f s).pending = s.pending := rfl
@[simp] theorem setLink_out (l : Nat) (f : Link → Link) (s : State) : (setLink l f s).out = s.out := rfl
@[simp] theorem setLink_fresh (l : Nat) (f : Link → Link) (s : State) : (setLink l f s).fresh = s.fresh := rfl
@[simp] theorem setLink_hostMem (l : Nat) (f : Link → Link) (s : State) : (setLink l f s).hostMem = s.hostMem := rfl

@[simp] theorem setCart_kpr (k : Nat) (f : Cart → Cart) (s : State) : (setCart k f s).kpr = s.kpr := rfl
@[simp] theorem setCart_fuses (k : Nat) (f : Cart → Cart) (s : State) : (setCart k f s).fuses = s.fuses := rfl
@[simp] theorem setCart_flp (k : Nat) (f : Cart → Cart) (s : State) : (setCart k f s).flp = s.flp := rfl
@[simp] theorem setCart_hif (k : Nat) (f : Cart → Cart) (s : State) : (setCart k f s).hif = s.hif := rfl
@[simp] theorem setCart_evt (k : Nat) (f : Cart → Cart) (s : State) : (setCart k f s).evt = s.evt := rfl
@[simp] theorem setCart_tel (k : Nat) (f : Cart → Cart) (s : State) : (setCart k f s).tel = s.tel := rfl
@[simp] theorem setCart_dbg (k : Nat) (f : Cart → Cart) (s : State) : (setCart k f s).dbg = s.dbg := rfl
@[simp] theorem setCart_dev (k : Nat) (f : Cart → Cart) (s : State) : (setCart k f s).dev = s.dev := rfl
@[simp] theorem setCart_frm (k : Nat) (f : Cart → Cart) (s : State) : (setCart k f s).frm = s.frm := rfl
@[simp] theorem setCart_cores (k : Nat) (f : Cart → Cart) (s : State) : (setCart k f s).cores = s.cores := rfl
@[simp] theorem setCart_mem (k : Nat) (f : Cart → Cart) (s : State) : (setCart k f s).mem = s.mem := rfl
@[simp] theorem setCart_net (k : Nat) (f : Cart → Cart) (s : State) : (setCart k f s).net = s.net := rfl
@[simp] theorem setCart_bnk (k : Nat) (f : Cart → Cart) (s : State) : (setCart k f s).bnk = s.bnk := rfl
@[simp] theorem setCart_walkers (k : Nat) (f : Cart → Cart) (s : State) : (setCart k f s).walkers = s.walkers := rfl
@[simp] theorem setCart_req (k : Nat) (f : Cart → Cart) (s : State) : (setCart k f s).req = s.req := rfl
@[simp] theorem setCart_clk (k : Nat) (f : Cart → Cart) (s : State) : (setCart k f s).clk = s.clk := rfl
@[simp] theorem setCart_pwr (k : Nat) (f : Cart → Cart) (s : State) : (setCart k f s).pwr = s.pwr := rfl
@[simp] theorem setCart_sup (k : Nat) (f : Cart → Cart) (s : State) : (setCart k f s).sup = s.sup := rfl
@[simp] theorem setCart_thm (k : Nat) (f : Cart → Cart) (s : State) : (setCart k f s).thm = s.thm := rfl
@[simp] theorem setCart_prt (k : Nat) (f : Cart → Cart) (s : State) : (setCart k f s).prt = s.prt := rfl
@[simp] theorem setCart_pending (k : Nat) (f : Cart → Cart) (s : State) : (setCart k f s).pending = s.pending := rfl
@[simp] theorem setCart_out (k : Nat) (f : Cart → Cart) (s : State) : (setCart k f s).out = s.out := rfl
@[simp] theorem setCart_fresh (k : Nat) (f : Cart → Cart) (s : State) : (setCart k f s).fresh = s.fresh := rfl
@[simp] theorem setCart_hostMem (k : Nat) (f : Cart → Cart) (s : State) : (setCart k f s).hostMem = s.hostMem := rfl

@[simp] theorem setWin_kpr (i : Nat) (f : Win → Win) (s : State) : (setWin i f s).kpr = s.kpr := rfl
@[simp] theorem setWin_fuses (i : Nat) (f : Win → Win) (s : State) : (setWin i f s).fuses = s.fuses := rfl
@[simp] theorem setWin_flp (i : Nat) (f : Win → Win) (s : State) : (setWin i f s).flp = s.flp := rfl
@[simp] theorem setWin_evt (i : Nat) (f : Win → Win) (s : State) : (setWin i f s).evt = s.evt := rfl
@[simp] theorem setWin_tel (i : Nat) (f : Win → Win) (s : State) : (setWin i f s).tel = s.tel := rfl
@[simp] theorem setWin_dbg (i : Nat) (f : Win → Win) (s : State) : (setWin i f s).dbg = s.dbg := rfl
@[simp] theorem setWin_dev (i : Nat) (f : Win → Win) (s : State) : (setWin i f s).dev = s.dev := rfl
@[simp] theorem setWin_frm (i : Nat) (f : Win → Win) (s : State) : (setWin i f s).frm = s.frm := rfl
@[simp] theorem setWin_cores (i : Nat) (f : Win → Win) (s : State) : (setWin i f s).cores = s.cores := rfl
@[simp] theorem setWin_mem (i : Nat) (f : Win → Win) (s : State) : (setWin i f s).mem = s.mem := rfl
@[simp] theorem setWin_net (i : Nat) (f : Win → Win) (s : State) : (setWin i f s).net = s.net := rfl
@[simp] theorem setWin_bnk (i : Nat) (f : Win → Win) (s : State) : (setWin i f s).bnk = s.bnk := rfl
@[simp] theorem setWin_walkers (i : Nat) (f : Win → Win) (s : State) : (setWin i f s).walkers = s.walkers := rfl
@[simp] theorem setWin_req (i : Nat) (f : Win → Win) (s : State) : (setWin i f s).req = s.req := rfl
@[simp] theorem setWin_lnk (i : Nat) (f : Win → Win) (s : State) : (setWin i f s).lnk = s.lnk := rfl
@[simp] theorem setWin_clk (i : Nat) (f : Win → Win) (s : State) : (setWin i f s).clk = s.clk := rfl
@[simp] theorem setWin_pwr (i : Nat) (f : Win → Win) (s : State) : (setWin i f s).pwr = s.pwr := rfl
@[simp] theorem setWin_sup (i : Nat) (f : Win → Win) (s : State) : (setWin i f s).sup = s.sup := rfl
@[simp] theorem setWin_thm (i : Nat) (f : Win → Win) (s : State) : (setWin i f s).thm = s.thm := rfl
@[simp] theorem setWin_prt (i : Nat) (f : Win → Win) (s : State) : (setWin i f s).prt = s.prt := rfl
@[simp] theorem setWin_pending (i : Nat) (f : Win → Win) (s : State) : (setWin i f s).pending = s.pending := rfl
@[simp] theorem setWin_out (i : Nat) (f : Win → Win) (s : State) : (setWin i f s).out = s.out := rfl
@[simp] theorem setWin_fresh (i : Nat) (f : Win → Win) (s : State) : (setWin i f s).fresh = s.fresh := rfl
@[simp] theorem setWin_hostMem (i : Nat) (f : Win → Win) (s : State) : (setWin i f s).hostMem = s.hostMem := rfl

@[simp] theorem setPair_kpr (r : Nat) (f : Pair → Pair) (s : State) : (setPair r f s).kpr = s.kpr := rfl
@[simp] theorem setPair_fuses (r : Nat) (f : Pair → Pair) (s : State) : (setPair r f s).fuses = s.fuses := rfl
@[simp] theorem setPair_flp (r : Nat) (f : Pair → Pair) (s : State) : (setPair r f s).flp = s.flp := rfl
@[simp] theorem setPair_hif (r : Nat) (f : Pair → Pair) (s : State) : (setPair r f s).hif = s.hif := rfl
@[simp] theorem setPair_evt (r : Nat) (f : Pair → Pair) (s : State) : (setPair r f s).evt = s.evt := rfl
@[simp] theorem setPair_tel (r : Nat) (f : Pair → Pair) (s : State) : (setPair r f s).tel = s.tel := rfl
@[simp] theorem setPair_dbg (r : Nat) (f : Pair → Pair) (s : State) : (setPair r f s).dbg = s.dbg := rfl
@[simp] theorem setPair_dev (r : Nat) (f : Pair → Pair) (s : State) : (setPair r f s).dev = s.dev := rfl
@[simp] theorem setPair_frm (r : Nat) (f : Pair → Pair) (s : State) : (setPair r f s).frm = s.frm := rfl
@[simp] theorem setPair_cores (r : Nat) (f : Pair → Pair) (s : State) : (setPair r f s).cores = s.cores := rfl
@[simp] theorem setPair_mem (r : Nat) (f : Pair → Pair) (s : State) : (setPair r f s).mem = s.mem := rfl
@[simp] theorem setPair_net (r : Nat) (f : Pair → Pair) (s : State) : (setPair r f s).net = s.net := rfl
@[simp] theorem setPair_bnk (r : Nat) (f : Pair → Pair) (s : State) : (setPair r f s).bnk = s.bnk := rfl
@[simp] theorem setPair_walkers (r : Nat) (f : Pair → Pair) (s : State) : (setPair r f s).walkers = s.walkers := rfl
@[simp] theorem setPair_req (r : Nat) (f : Pair → Pair) (s : State) : (setPair r f s).req = s.req := rfl
@[simp] theorem setPair_lnk (r : Nat) (f : Pair → Pair) (s : State) : (setPair r f s).lnk = s.lnk := rfl
@[simp] theorem setPair_clk (r : Nat) (f : Pair → Pair) (s : State) : (setPair r f s).clk = s.clk := rfl
@[simp] theorem setPair_pwr (r : Nat) (f : Pair → Pair) (s : State) : (setPair r f s).pwr = s.pwr := rfl
@[simp] theorem setPair_sup (r : Nat) (f : Pair → Pair) (s : State) : (setPair r f s).sup = s.sup := rfl
@[simp] theorem setPair_prt (r : Nat) (f : Pair → Pair) (s : State) : (setPair r f s).prt = s.prt := rfl
@[simp] theorem setPair_pending (r : Nat) (f : Pair → Pair) (s : State) : (setPair r f s).pending = s.pending := rfl
@[simp] theorem setPair_out (r : Nat) (f : Pair → Pair) (s : State) : (setPair r f s).out = s.out := rfl
@[simp] theorem setPair_fresh (r : Nat) (f : Pair → Pair) (s : State) : (setPair r f s).fresh = s.fresh := rfl
@[simp] theorem setPair_hostMem (r : Nat) (f : Pair → Pair) (s : State) : (setPair r f s).hostMem = s.hostMem := rfl

@[simp] theorem setMemPair_kpr (r : Nat) (f : Pair → Pair) (s : State) : (setMemPair r f s).kpr = s.kpr := rfl
@[simp] theorem setMemPair_fuses (r : Nat) (f : Pair → Pair) (s : State) : (setMemPair r f s).fuses = s.fuses := rfl
@[simp] theorem setMemPair_flp (r : Nat) (f : Pair → Pair) (s : State) : (setMemPair r f s).flp = s.flp := rfl
@[simp] theorem setMemPair_hif (r : Nat) (f : Pair → Pair) (s : State) : (setMemPair r f s).hif = s.hif := rfl
@[simp] theorem setMemPair_evt (r : Nat) (f : Pair → Pair) (s : State) : (setMemPair r f s).evt = s.evt := rfl
@[simp] theorem setMemPair_tel (r : Nat) (f : Pair → Pair) (s : State) : (setMemPair r f s).tel = s.tel := rfl
@[simp] theorem setMemPair_dbg (r : Nat) (f : Pair → Pair) (s : State) : (setMemPair r f s).dbg = s.dbg := rfl
@[simp] theorem setMemPair_dev (r : Nat) (f : Pair → Pair) (s : State) : (setMemPair r f s).dev = s.dev := rfl
@[simp] theorem setMemPair_frm (r : Nat) (f : Pair → Pair) (s : State) : (setMemPair r f s).frm = s.frm := rfl
@[simp] theorem setMemPair_cores (r : Nat) (f : Pair → Pair) (s : State) : (setMemPair r f s).cores = s.cores := rfl
@[simp] theorem setMemPair_mem (r : Nat) (f : Pair → Pair) (s : State) : (setMemPair r f s).mem = s.mem := rfl
@[simp] theorem setMemPair_net (r : Nat) (f : Pair → Pair) (s : State) : (setMemPair r f s).net = s.net := rfl
@[simp] theorem setMemPair_bnk (r : Nat) (f : Pair → Pair) (s : State) : (setMemPair r f s).bnk = s.bnk := rfl
@[simp] theorem setMemPair_walkers (r : Nat) (f : Pair → Pair) (s : State) : (setMemPair r f s).walkers = s.walkers := rfl
@[simp] theorem setMemPair_req (r : Nat) (f : Pair → Pair) (s : State) : (setMemPair r f s).req = s.req := rfl
@[simp] theorem setMemPair_lnk (r : Nat) (f : Pair → Pair) (s : State) : (setMemPair r f s).lnk = s.lnk := rfl
@[simp] theorem setMemPair_clk (r : Nat) (f : Pair → Pair) (s : State) : (setMemPair r f s).clk = s.clk := rfl
@[simp] theorem setMemPair_pwr (r : Nat) (f : Pair → Pair) (s : State) : (setMemPair r f s).pwr = s.pwr := rfl
@[simp] theorem setMemPair_sup (r : Nat) (f : Pair → Pair) (s : State) : (setMemPair r f s).sup = s.sup := rfl
@[simp] theorem setMemPair_prt (r : Nat) (f : Pair → Pair) (s : State) : (setMemPair r f s).prt = s.prt := rfl
@[simp] theorem setMemPair_pending (r : Nat) (f : Pair → Pair) (s : State) : (setMemPair r f s).pending = s.pending := rfl
@[simp] theorem setMemPair_out (r : Nat) (f : Pair → Pair) (s : State) : (setMemPair r f s).out = s.out := rfl
@[simp] theorem setMemPair_fresh (r : Nat) (f : Pair → Pair) (s : State) : (setMemPair r f s).fresh = s.fresh := rfl
@[simp] theorem setMemPair_hostMem (r : Nat) (f : Pair → Pair) (s : State) : (setMemPair r f s).hostMem = s.hostMem := rfl

@[simp] theorem setSill_kpr (i : Nat) (f : SillHeat → SillHeat) (s : State) : (setSill i f s).kpr = s.kpr := rfl
@[simp] theorem setSill_fuses (i : Nat) (f : SillHeat → SillHeat) (s : State) : (setSill i f s).fuses = s.fuses := rfl
@[simp] theorem setSill_flp (i : Nat) (f : SillHeat → SillHeat) (s : State) : (setSill i f s).flp = s.flp := rfl
@[simp] theorem setSill_hif (i : Nat) (f : SillHeat → SillHeat) (s : State) : (setSill i f s).hif = s.hif := rfl
@[simp] theorem setSill_evt (i : Nat) (f : SillHeat → SillHeat) (s : State) : (setSill i f s).evt = s.evt := rfl
@[simp] theorem setSill_tel (i : Nat) (f : SillHeat → SillHeat) (s : State) : (setSill i f s).tel = s.tel := rfl
@[simp] theorem setSill_dbg (i : Nat) (f : SillHeat → SillHeat) (s : State) : (setSill i f s).dbg = s.dbg := rfl
@[simp] theorem setSill_dev (i : Nat) (f : SillHeat → SillHeat) (s : State) : (setSill i f s).dev = s.dev := rfl
@[simp] theorem setSill_frm (i : Nat) (f : SillHeat → SillHeat) (s : State) : (setSill i f s).frm = s.frm := rfl
@[simp] theorem setSill_cores (i : Nat) (f : SillHeat → SillHeat) (s : State) : (setSill i f s).cores = s.cores := rfl
@[simp] theorem setSill_mem (i : Nat) (f : SillHeat → SillHeat) (s : State) : (setSill i f s).mem = s.mem := rfl
@[simp] theorem setSill_net (i : Nat) (f : SillHeat → SillHeat) (s : State) : (setSill i f s).net = s.net := rfl
@[simp] theorem setSill_bnk (i : Nat) (f : SillHeat → SillHeat) (s : State) : (setSill i f s).bnk = s.bnk := rfl
@[simp] theorem setSill_walkers (i : Nat) (f : SillHeat → SillHeat) (s : State) : (setSill i f s).walkers = s.walkers := rfl
@[simp] theorem setSill_req (i : Nat) (f : SillHeat → SillHeat) (s : State) : (setSill i f s).req = s.req := rfl
@[simp] theorem setSill_lnk (i : Nat) (f : SillHeat → SillHeat) (s : State) : (setSill i f s).lnk = s.lnk := rfl
@[simp] theorem setSill_clk (i : Nat) (f : SillHeat → SillHeat) (s : State) : (setSill i f s).clk = s.clk := rfl
@[simp] theorem setSill_pwr (i : Nat) (f : SillHeat → SillHeat) (s : State) : (setSill i f s).pwr = s.pwr := rfl
@[simp] theorem setSill_sup (i : Nat) (f : SillHeat → SillHeat) (s : State) : (setSill i f s).sup = s.sup := rfl
@[simp] theorem setSill_prt (i : Nat) (f : SillHeat → SillHeat) (s : State) : (setSill i f s).prt = s.prt := rfl
@[simp] theorem setSill_pending (i : Nat) (f : SillHeat → SillHeat) (s : State) : (setSill i f s).pending = s.pending := rfl
@[simp] theorem setSill_out (i : Nat) (f : SillHeat → SillHeat) (s : State) : (setSill i f s).out = s.out := rfl
@[simp] theorem setSill_fresh (i : Nat) (f : SillHeat → SillHeat) (s : State) : (setSill i f s).fresh = s.fresh := rfl
@[simp] theorem setSill_hostMem (i : Nat) (f : SillHeat → SillHeat) (s : State) : (setSill i f s).hostMem = s.hostMem := rfl

@[simp] theorem setWalker_kpr (r : Nat) (f : Walker → Walker) (s : State) : (setWalker r f s).kpr = s.kpr := rfl
@[simp] theorem setWalker_fuses (r : Nat) (f : Walker → Walker) (s : State) : (setWalker r f s).fuses = s.fuses := rfl
@[simp] theorem setWalker_flp (r : Nat) (f : Walker → Walker) (s : State) : (setWalker r f s).flp = s.flp := rfl
@[simp] theorem setWalker_hif (r : Nat) (f : Walker → Walker) (s : State) : (setWalker r f s).hif = s.hif := rfl
@[simp] theorem setWalker_evt (r : Nat) (f : Walker → Walker) (s : State) : (setWalker r f s).evt = s.evt := rfl
@[simp] theorem setWalker_tel (r : Nat) (f : Walker → Walker) (s : State) : (setWalker r f s).tel = s.tel := rfl
@[simp] theorem setWalker_dbg (r : Nat) (f : Walker → Walker) (s : State) : (setWalker r f s).dbg = s.dbg := rfl
@[simp] theorem setWalker_dev (r : Nat) (f : Walker → Walker) (s : State) : (setWalker r f s).dev = s.dev := rfl
@[simp] theorem setWalker_frm (r : Nat) (f : Walker → Walker) (s : State) : (setWalker r f s).frm = s.frm := rfl
@[simp] theorem setWalker_cores (r : Nat) (f : Walker → Walker) (s : State) : (setWalker r f s).cores = s.cores := rfl
@[simp] theorem setWalker_mem (r : Nat) (f : Walker → Walker) (s : State) : (setWalker r f s).mem = s.mem := rfl
@[simp] theorem setWalker_net (r : Nat) (f : Walker → Walker) (s : State) : (setWalker r f s).net = s.net := rfl
@[simp] theorem setWalker_bnk (r : Nat) (f : Walker → Walker) (s : State) : (setWalker r f s).bnk = s.bnk := rfl
@[simp] theorem setWalker_req (r : Nat) (f : Walker → Walker) (s : State) : (setWalker r f s).req = s.req := rfl
@[simp] theorem setWalker_lnk (r : Nat) (f : Walker → Walker) (s : State) : (setWalker r f s).lnk = s.lnk := rfl
@[simp] theorem setWalker_clk (r : Nat) (f : Walker → Walker) (s : State) : (setWalker r f s).clk = s.clk := rfl
@[simp] theorem setWalker_pwr (r : Nat) (f : Walker → Walker) (s : State) : (setWalker r f s).pwr = s.pwr := rfl
@[simp] theorem setWalker_sup (r : Nat) (f : Walker → Walker) (s : State) : (setWalker r f s).sup = s.sup := rfl
@[simp] theorem setWalker_thm (r : Nat) (f : Walker → Walker) (s : State) : (setWalker r f s).thm = s.thm := rfl
@[simp] theorem setWalker_prt (r : Nat) (f : Walker → Walker) (s : State) : (setWalker r f s).prt = s.prt := rfl
@[simp] theorem setWalker_pending (r : Nat) (f : Walker → Walker) (s : State) : (setWalker r f s).pending = s.pending := rfl
@[simp] theorem setWalker_out (r : Nat) (f : Walker → Walker) (s : State) : (setWalker r f s).out = s.out := rfl
@[simp] theorem setWalker_fresh (r : Nat) (f : Walker → Walker) (s : State) : (setWalker r f s).fresh = s.fresh := rfl
@[simp] theorem setWalker_hostMem (r : Nat) (f : Walker → Walker) (s : State) : (setWalker r f s).hostMem = s.hostMem := rfl

@[simp] theorem setNet_kpr (r : Nat) (f : NetRec → NetRec) (s : State) : (setNet r f s).kpr = s.kpr := rfl
@[simp] theorem setNet_fuses (r : Nat) (f : NetRec → NetRec) (s : State) : (setNet r f s).fuses = s.fuses := rfl
@[simp] theorem setNet_flp (r : Nat) (f : NetRec → NetRec) (s : State) : (setNet r f s).flp = s.flp := rfl
@[simp] theorem setNet_hif (r : Nat) (f : NetRec → NetRec) (s : State) : (setNet r f s).hif = s.hif := rfl
@[simp] theorem setNet_evt (r : Nat) (f : NetRec → NetRec) (s : State) : (setNet r f s).evt = s.evt := rfl
@[simp] theorem setNet_tel (r : Nat) (f : NetRec → NetRec) (s : State) : (setNet r f s).tel = s.tel := rfl
@[simp] theorem setNet_dbg (r : Nat) (f : NetRec → NetRec) (s : State) : (setNet r f s).dbg = s.dbg := rfl
@[simp] theorem setNet_dev (r : Nat) (f : NetRec → NetRec) (s : State) : (setNet r f s).dev = s.dev := rfl
@[simp] theorem setNet_frm (r : Nat) (f : NetRec → NetRec) (s : State) : (setNet r f s).frm = s.frm := rfl
@[simp] theorem setNet_cores (r : Nat) (f : NetRec → NetRec) (s : State) : (setNet r f s).cores = s.cores := rfl
@[simp] theorem setNet_mem (r : Nat) (f : NetRec → NetRec) (s : State) : (setNet r f s).mem = s.mem := rfl
@[simp] theorem setNet_bnk (r : Nat) (f : NetRec → NetRec) (s : State) : (setNet r f s).bnk = s.bnk := rfl
@[simp] theorem setNet_walkers (r : Nat) (f : NetRec → NetRec) (s : State) : (setNet r f s).walkers = s.walkers := rfl
@[simp] theorem setNet_req (r : Nat) (f : NetRec → NetRec) (s : State) : (setNet r f s).req = s.req := rfl
@[simp] theorem setNet_lnk (r : Nat) (f : NetRec → NetRec) (s : State) : (setNet r f s).lnk = s.lnk := rfl
@[simp] theorem setNet_clk (r : Nat) (f : NetRec → NetRec) (s : State) : (setNet r f s).clk = s.clk := rfl
@[simp] theorem setNet_pwr (r : Nat) (f : NetRec → NetRec) (s : State) : (setNet r f s).pwr = s.pwr := rfl
@[simp] theorem setNet_sup (r : Nat) (f : NetRec → NetRec) (s : State) : (setNet r f s).sup = s.sup := rfl
@[simp] theorem setNet_thm (r : Nat) (f : NetRec → NetRec) (s : State) : (setNet r f s).thm = s.thm := rfl
@[simp] theorem setNet_prt (r : Nat) (f : NetRec → NetRec) (s : State) : (setNet r f s).prt = s.prt := rfl
@[simp] theorem setNet_pending (r : Nat) (f : NetRec → NetRec) (s : State) : (setNet r f s).pending = s.pending := rfl
@[simp] theorem setNet_out (r : Nat) (f : NetRec → NetRec) (s : State) : (setNet r f s).out = s.out := rfl
@[simp] theorem setNet_fresh (r : Nat) (f : NetRec → NetRec) (s : State) : (setNet r f s).fresh = s.fresh := rfl
@[simp] theorem setNet_hostMem (r : Nat) (f : NetRec → NetRec) (s : State) : (setNet r f s).hostMem = s.hostMem := rfl

@[simp] theorem setSillNet_kpr (k : Nat) (f : SillRec → SillRec) (s : State) : (setSillNet k f s).kpr = s.kpr := rfl
@[simp] theorem setSillNet_fuses (k : Nat) (f : SillRec → SillRec) (s : State) : (setSillNet k f s).fuses = s.fuses := rfl
@[simp] theorem setSillNet_flp (k : Nat) (f : SillRec → SillRec) (s : State) : (setSillNet k f s).flp = s.flp := rfl
@[simp] theorem setSillNet_hif (k : Nat) (f : SillRec → SillRec) (s : State) : (setSillNet k f s).hif = s.hif := rfl
@[simp] theorem setSillNet_evt (k : Nat) (f : SillRec → SillRec) (s : State) : (setSillNet k f s).evt = s.evt := rfl
@[simp] theorem setSillNet_tel (k : Nat) (f : SillRec → SillRec) (s : State) : (setSillNet k f s).tel = s.tel := rfl
@[simp] theorem setSillNet_dbg (k : Nat) (f : SillRec → SillRec) (s : State) : (setSillNet k f s).dbg = s.dbg := rfl
@[simp] theorem setSillNet_dev (k : Nat) (f : SillRec → SillRec) (s : State) : (setSillNet k f s).dev = s.dev := rfl
@[simp] theorem setSillNet_frm (k : Nat) (f : SillRec → SillRec) (s : State) : (setSillNet k f s).frm = s.frm := rfl
@[simp] theorem setSillNet_cores (k : Nat) (f : SillRec → SillRec) (s : State) : (setSillNet k f s).cores = s.cores := rfl
@[simp] theorem setSillNet_mem (k : Nat) (f : SillRec → SillRec) (s : State) : (setSillNet k f s).mem = s.mem := rfl
@[simp] theorem setSillNet_bnk (k : Nat) (f : SillRec → SillRec) (s : State) : (setSillNet k f s).bnk = s.bnk := rfl
@[simp] theorem setSillNet_walkers (k : Nat) (f : SillRec → SillRec) (s : State) : (setSillNet k f s).walkers = s.walkers := rfl
@[simp] theorem setSillNet_req (k : Nat) (f : SillRec → SillRec) (s : State) : (setSillNet k f s).req = s.req := rfl
@[simp] theorem setSillNet_lnk (k : Nat) (f : SillRec → SillRec) (s : State) : (setSillNet k f s).lnk = s.lnk := rfl
@[simp] theorem setSillNet_clk (k : Nat) (f : SillRec → SillRec) (s : State) : (setSillNet k f s).clk = s.clk := rfl
@[simp] theorem setSillNet_pwr (k : Nat) (f : SillRec → SillRec) (s : State) : (setSillNet k f s).pwr = s.pwr := rfl
@[simp] theorem setSillNet_sup (k : Nat) (f : SillRec → SillRec) (s : State) : (setSillNet k f s).sup = s.sup := rfl
@[simp] theorem setSillNet_thm (k : Nat) (f : SillRec → SillRec) (s : State) : (setSillNet k f s).thm = s.thm := rfl
@[simp] theorem setSillNet_prt (k : Nat) (f : SillRec → SillRec) (s : State) : (setSillNet k f s).prt = s.prt := rfl
@[simp] theorem setSillNet_pending (k : Nat) (f : SillRec → SillRec) (s : State) : (setSillNet k f s).pending = s.pending := rfl
@[simp] theorem setSillNet_out (k : Nat) (f : SillRec → SillRec) (s : State) : (setSillNet k f s).out = s.out := rfl
@[simp] theorem setSillNet_fresh (k : Nat) (f : SillRec → SillRec) (s : State) : (setSillNet k f s).fresh = s.fresh := rfl
@[simp] theorem setSillNet_hostMem (k : Nat) (f : SillRec → SillRec) (s : State) : (setSillNet k f s).hostMem = s.hostMem := rfl

/-! ## The record itself -/

@[simp] theorem setCtx_ctxOf_same (n k : Nat) (f : Ctx → Ctx) (s : State) : (setCtx n k f s).ctxOf n k = f (s.ctxOf n k) := mapGet_mapMod_same ..
@[simp] theorem setCore_coreRec_same (n : Nat) (f : CoreSt → CoreSt) (s : State) : (setCore n f s).coreRec n = f (s.coreRec n) := mapGet_mapMod_same ..
@[simp] theorem setCore_coreRec_other (n : Nat) (f : CoreSt → CoreSt) (s : State) {j : Nat} (h : j ≠ n) : (setCore n f s).coreRec j = s.coreRec j := mapGet_mapMod_other _ _ _ h
@[simp] theorem setPane_paneOf_same (n p : Nat) (f : Pane → Pane) (s : State) : (setPane n p f s).paneOf n p = f (s.paneOf n p) := mapGet_mapMod_same ..
@[simp] theorem setTile_tileRec_same (n : Nat) (f : Tile → Tile) (s : State) : (setTile n f s).tileRec n = f (s.tileRec n) := mapGet_mapMod_same ..
@[simp] theorem setTile_tileRec_other (n : Nat) (f : Tile → Tile) (s : State) {j : Nat} (h : j ≠ n) : (setTile n f s).tileRec j = s.tileRec j := mapGet_mapMod_other _ _ _ h
@[simp] theorem setUnit_unitOf_same (n b : Nat) (f : BankUnit → BankUnit) (s : State) : (setUnit n b f s).unitOf n b = f (s.unitOf n b) := mapGet_mapMod_same ..
@[simp] theorem setQp_qpOf_same (q : Nat) (f : QPair → QPair) (s : State) : (setQp q f s).qpOf q = f (s.qpOf q) := mapGet_mapMod_same ..
@[simp] theorem setQp_qpOf_other (q : Nat) (f : QPair → QPair) (s : State) {j : Nat} (h : j ≠ q) : (setQp q f s).qpOf j = s.qpOf j := mapGet_mapMod_other _ _ _ h
@[simp] theorem setSeq_seqOf_same (n : Nat) (f : Seq → Seq) (s : State) : (setSeq n f s).seqOf n = f (s.seqOf n) := mapGet_mapMod_same ..
@[simp] theorem setSeq_seqOf_other (n : Nat) (f : Seq → Seq) (s : State) {j : Nat} (h : j ≠ n) : (setSeq n f s).seqOf j = s.seqOf j := mapGet_mapMod_other _ _ _ h
@[simp] theorem setPair_pairOf_same (r : Nat) (f : Pair → Pair) (s : State) : (setPair r f s).pairOf r = f (s.pairOf r) := mapGet_mapMod_same ..
@[simp] theorem setPair_pairOf_other (r : Nat) (f : Pair → Pair) (s : State) {j : Nat} (h : j ≠ r) : (setPair r f s).pairOf j = s.pairOf j := mapGet_mapMod_other _ _ _ h
@[simp] theorem setMemPair_memPairOf_same (r : Nat) (f : Pair → Pair) (s : State) : (setMemPair r f s).memPairOf r = f (s.memPairOf r) := mapGet_mapMod_same ..
@[simp] theorem setMemPair_memPairOf_other (r : Nat) (f : Pair → Pair) (s : State) {j : Nat} (h : j ≠ r) : (setMemPair r f s).memPairOf j = s.memPairOf j := mapGet_mapMod_other _ _ _ h
@[simp] theorem setWalker_walkerOf_same (r : Nat) (f : Walker → Walker) (s : State) : (setWalker r f s).walkerOf r = f (s.walkerOf r) := mapGet_mapMod_same ..
@[simp] theorem setWalker_walkerOf_other (r : Nat) (f : Walker → Walker) (s : State) {j : Nat} (h : j ≠ r) : (setWalker r f s).walkerOf j = s.walkerOf j := mapGet_mapMod_other _ _ _ h
@[simp] theorem setClk_clkOf_same (r : Nat) (f : ClkRegion → ClkRegion) (s : State) : (setClk r f s).clkOf r = f (s.clkOf r) := mapGet_mapMod_same ..
@[simp] theorem setClk_clkOf_other (r : Nat) (f : ClkRegion → ClkRegion) (s : State) {j : Nat} (h : j ≠ r) : (setClk r f s).clkOf j = s.clkOf j := mapGet_mapMod_other _ _ _ h
@[simp] theorem setGroup_groupOf_same (r : Nat) (f : Group → Group) (s : State) : (setGroup r f s).groupOf r = f (s.groupOf r) := mapGet_mapMod_same ..
@[simp] theorem setGroup_groupOf_other (r : Nat) (f : Group → Group) (s : State) {j : Nat} (h : j ≠ r) : (setGroup r f s).groupOf j = s.groupOf j := mapGet_mapMod_other _ _ _ h

/-! ## Records of one block beside each other -/

@[simp] theorem setCtx_coreRec (n k : Nat) (f : Ctx → Ctx) (s : State) (m : Nat) : (setCtx n k f s).coreRec m = s.coreRec m := rfl
@[simp] theorem setCtx_paneOf (n k : Nat) (f : Ctx → Ctx) (s : State) (m q : Nat) : (setCtx n k f s).paneOf m q = s.paneOf m q := rfl
@[simp] theorem setCore_ctxOf (n : Nat) (f : CoreSt → CoreSt) (s : State) (m q : Nat) : (setCore n f s).ctxOf m q = s.ctxOf m q := rfl
@[simp] theorem setCore_paneOf (n : Nat) (f : CoreSt → CoreSt) (s : State) (m q : Nat) : (setCore n f s).paneOf m q = s.paneOf m q := rfl
@[simp] theorem setPane_ctxOf (n p : Nat) (f : Pane → Pane) (s : State) (m q : Nat) : (setPane n p f s).ctxOf m q = s.ctxOf m q := rfl
@[simp] theorem setPane_coreRec (n p : Nat) (f : Pane → Pane) (s : State) (m : Nat) : (setPane n p f s).coreRec m = s.coreRec m := rfl
@[simp] theorem putStore_ctxOf (n a : Nat) (b : List Nat) (s : State) (m q : Nat) : (putStore n a b s).ctxOf m q = s.ctxOf m q := rfl
@[simp] theorem putStore_coreRec (n a : Nat) (b : List Nat) (s : State) (m : Nat) : (putStore n a b s).coreRec m = s.coreRec m := rfl
@[simp] theorem putStore_paneOf (n a : Nat) (b : List Nat) (s : State) (m q : Nat) : (putStore n a b s).paneOf m q = s.paneOf m q := rfl
@[simp] theorem setCtx_storeBytes (n k : Nat) (f : Ctx → Ctx) (s : State) (m x len : Nat) : (setCtx n k f s).storeBytes m x len = s.storeBytes m x len := rfl
@[simp] theorem setCore_storeBytes (n : Nat) (f : CoreSt → CoreSt) (s : State) (m x len : Nat) : (setCore n f s).storeBytes m x len = s.storeBytes m x len := rfl
@[simp] theorem setPane_storeBytes (n p : Nat) (f : Pane → Pane) (s : State) (m x len : Nat) : (setPane n p f s).storeBytes m x len = s.storeBytes m x len := rfl

end Sys2Proof.Machine
end

