-- ==== Sys2Proof/Tests/Slice0.lean ====
section
/-! SUPPORT. Tests: small states, values the spec works out, the checks of well-formedness, and for each statement with
hypotheses a state and operands that meet them all. -/
set_option maxRecDepth 40000
open Sys2Proof Sys2Proof.Machine

/-! ## Small states -/

/-- A device whose keeper runs, in a state. -/
def liveState (d : DevState) : State :=
  { State.reset with
    kpr := { kprReset with state := d, boot := .romRuns, perst := true, oscEn := true, blanked := false } }

/-- A device in a phase of its start. -/
def bootState (b : BootPhase) : State := { State.reset with kpr := { kprReset with boot := b, perst := true, oscEn := true } }

/-- A device without power. -/
def darkState : State := { State.reset with kpr := { kprReset with railsUp := false, boot := .unpowered } }

/-- The state at a time. -/
def atTc (tc : Nat) (s : State) : State := { s with frm := { s.frm with tc := tc } }

/-- A device whose peak limiter is engaged. -/
def limitingState : State := { liveState .running with sup := { supReset with limiting := true } }

/-- A device in HALTED. -/
def haltedState : State := { State.reset with kpr := { (liveState .halted).kpr with haltCause := 4 } }

/-- A device whose host link is up, with Bus Master Enable set. -/
def linkedState (d : DevState) : State :=
  { liveState d with hif := { hifReset with linkUp := true, speed := 5, width := 4, bme := true } }

/-- A device whose clocks and temperatures have started. -/
def clockedState (d : DevState) : State :=
  { linkedState d with clk := { clkReset with started := true }, thm := { thmReset with started := true } }

/-- A device whose keeper fetches its firmware. -/
def fetchingState : State :=
  { linkedState .rom with kpr := { (linkedState .rom).kpr with fwResult := 1, fwLen := 256 } }

/-- A fetch that returned nothing. -/
def emptyFetch : FetchResult :=
  { readsOk := false, file := [], bundle := [], fwSig := false, slotSigs := [], bundleSigs := [], sillPllOk := true, taps := [],
    deadTiles := [], readBack := [] }

/-- A firmware file that passes tests 2 and 3 of Table 17.4. -/
def goodFile : List Nat :=
  [0x4B, 0x45, 0x45, 0x50, 0x46, 0x57, 0, 1] ++ [1, 0, 0, 0, 0, 0, 0, 0] ++ leBytes 8 3584 ++ leBytes 8 256 ++
    List.replicate 16 0 ++ List.replicate 3536 0

/-- A fetch of that file. -/
def goodFetch : FetchResult :=
  { emptyFetch with readsOk := true, file := goodFile, fwSig := true }

/-- An image without sections. -/
def bareImage : Image :=
  { version := 1, length := 3648, sigOff := 288, keySlot := 0, minFw := 0, imageId := 7, roundSeed := 0, sections := [],
    digest := [] }

/-- A device that holds an image. -/
def loadedState (d : DevState) : State :=
  { linkedState d with dev := { devReset with image := some bareImage, result := 2 } }

/-- A device with an image in force, its frame in a phase. -/
def framedState (p : FramePhase) : State :=
  { loadedState .running with
    dev := { (loadedState .running).dev with inForce := true }
    frm := { frmReset with phase := p, period := 10000, frameStart := 65536, nextAt := 75536, nextNumber := 1, slatsM1 := 1,
                           slats := [(0, 0), (1, 5000)], tc := 80000, planned := true } }

/-- A device that checks an image. -/
def checkingState : State :=
  { loadedState .checking with
    dev := { (loadedState .checking).dev with
      checkRun := some { fromSuspended := false, acceptedTc := 0, fenced := false } } }

/-- A forecast that says nothing. -/
def noForecast : Forecast := { fixed := 0, links := 0, rest := 0, power := [], duty := [], demoted := [], predict := [], path := [] }

/-- A device that loads an image. -/
def loadingState : State :=
  { linkedState .ready with dev := { devReset with result := 1, loadRun := some { first := 0, length := 0, acceptedTc := 0 } } }

/-- A running device with a period change armed for a boundary to come. -/
def armedState : State :=
  { framedState .inFrame with frm := { (framedState .inFrame).frm with latch := 95536, nextArm := true, nextPeriod := 2000 } }

/-- A device whose host command slot is queued. -/
def queuedHost : State := setSlot 0 0 6 (fun x => { x with state := 1 }) (liveState .ready)

/-- A device unlocked for debug. -/
def unlockedState : State := { liveState .ready with prt := { prtReset with scope := 1 } }

/-- A running device whose queue pairs 3 and 4 are enabled and whose first frame runs. -/
def serviceState : State :=
  let s := framedState .inFrame
  let p : QPair := { sqBase := 16, cqBase := 32, enable := true, sizeLog2 := 4, sqTail := 2, phase := true }
  { s with
    kpr := { s.kpr with features := { req := true } }
    req := { reqReset with qp := [(3, p), (4, p)], contexts := 8, serving := true, draftsMax := 4 } }

/-- The 64 bytes of an entry: opcode with its flags, tag, sequence, the word at byte 16 and the words from byte 32 on. -/
def entry (op tag sequence w : Nat) (data : List Nat) : List Nat :=
  let l := leBytes 4 op ++ leBytes 4 tag ++ leBytes 4 sequence ++ leBytes 4 0 ++ leBytes 4 w ++ List.replicate 12 0
    ++ (data.map (leBytes 4)).flatten
  l ++ List.replicate (64 - l.length) 0

/-- A GENERATE of 16 tokens. -/
def genEntry : List Nat :=
  leBytes 4 3 ++ leBytes 4 9 ++ leBytes 4 5 ++ leBytes 4 0 ++ leBytes 4 16 ++ leBytes 4 0 ++ leBytes 4 0x3F800000
    ++ [8, 0, 4, 0xFF] ++ leBytes 4 0x3F800000 ++ [0xFF, 0, 0, 0] ++ leBytes 8 1 ++ List.replicate 16 0

/-- An image with one pool set, of 64 pages each of 64 positions at most. -/
def poolImage : Image :=
  let pool := [0, 0, 1, 1, 1, 0, 0, 0] ++ leBytes 4 0 ++ leBytes 2 16 ++ leBytes 2 64 ++ leBytes 8 0 ++ leBytes 8 0x200000
    ++ leBytes 8 4096 ++ List.replicate 56 0
  { bareImage with sections := [{ ty := 0x0A, records := 3, offset := 0, size := 96, bytes := pool }] }

/-- The device with sequence 5 of pair 3 open and without tokens. -/
def freshSeq : State :=
  let s := serviceState
  setSeq 5 (fun x => { x with state := .idle, qp := 3 })
    { s with dev := { s.dev with image := some poolImage }, req := { s.req with rings := [(0, [5])] } }

/-- The sequence holds a pending token. -/
def readySeq : State := setSeq 5 (fun x => { x with pending := some 7, len := 64 }) freshSeq

/-- A GENERATE runs on the sequence. -/
def busySeq : State :=
  setSeq 5 (fun x => { x with gen := some { tag := 8, p := parseGen genEntry, remaining := 16, proposals := [], first := true } })
    readySeq

/-- An APPEND of two tokens runs whose host buffer has not been read. -/
def bufferSeq : State :=
  setSeq 5 (fun x => { x with unprocessed := [none, none], appends := [{ tag := 9, left := 2, buffer := 4096 }] }) readySeq

/-- A fork of the sequence runs into context 6. -/
def forkedSeq : State :=
  let s := setSeq 6 (fun x => { x with state := .forking, qp := 3 }) readySeq
  { s with req := { s.req with forks := [{ tag := 9, qp := 3, parent := 5, child := 6 }] } }

/-- An image with one role on core 0, of two descriptors. -/
def roleImage : Image :=
  let role := leBytes 2 0 ++ leBytes 2 1 ++ leBytes 2 0 ++ leBytes 2 2 ++ List.replicate 24 0
  { bareImage with sections := [{ ty := 1, records := 1, offset := 0, size := 32, bytes := role }] }

/-- A running frame whose role on core 0 stands before a descriptor. -/
def coreState (w0 w1 : Nat) : State :=
  let s := framedState .inFrame
  setCore 0 (fun c => { c with resident1 := 1 }) (setCtx 0 0 (fun c => { c with role1 := 1, idle := false })
    { s with
      dev := { s.dev with image := some roleImage }
      clk := { clkReset with started := true, regions := [(0, { source := 0 })] }
      cores := { coresReset with desc := [(0, w1 * 2 ^ 64 + w0)] } })

/-- An entry of the transfer queue. -/
def waitingEntry (uid : Nat) : QEntry := { uid := uid, q := .transfer, slot := 0, role := 0, idx := 0, w0 := 2 ^ 60, w1 := 0 }

/-- The transfer queue of core 0 is full. -/
def fullQueue : State := setCore 0 (fun c => { c with queue := (List.range 8).map waitingEntry }) (coreState (2 ^ 60) 0)

/-- A finished entry with a signal. -/
def doneEntry0 : QEntry := { waitingEntry 0 with started := true, done := true, w0 := 2 ^ 60 + 2 ^ 36 + 5 * 2 ^ 32 }

/-- Core 0 has a finished entry. -/
def doneState : State := setCore 0 (fun c => { c with queue := [doneEntry0] }) (coreState (2 ^ 60) 0)

/-- Core 0 of the running frame has a queue. -/
def queueState (q : List QEntry) : State := setCore 0 (fun c => { c with queue := q }) (coreState 0 0)

/-- A LOAD of 64 bytes. -/
def loadEntry (a : Nat) : QEntry :=
  { waitingEntry 9 with w0 := 2 ^ 60 + 2 ^ 17, w1 := a / 32 * 2 ^ 29 + 2 * 2 ^ 17 }

/-- A core with a LOAD to start. -/
def loadState (a : Nat) : State := queueState [loadEntry a]

/-- A STORE of 64 bytes. -/
def storeEntry (a : Nat) : QEntry := { loadEntry a with w0 := 2 * 2 ^ 60 + 2 ^ 17 }

/-- A core with a STORE to start. -/
def storeState (a : Nat) : State := queueState [storeEntry a]

/-- A SEND of 64 bytes to role 0. -/
def sendEntry : QEntry := { waitingEntry 9 with q := .message, w0 := 3 * 2 ^ 60 + 2 * 2 ^ 5 + 2 ^ 17, w1 := 5 * 2 ^ 44 }

/-- A core with a SEND to start. -/
def sendState : State := queueState [sendEntry]

/-- A RECV of 64 bytes on channel 5. -/
def recvEntry : QEntry := { sendEntry with w0 := 4 * 2 ^ 60 + 2 * 2 ^ 5 + 2 ^ 17 + 5 * 2 }

/-- A core with a RECV to start. -/
def recvState : State := queueState [recvEntry]

/-- A LOAD under way that waits for its last piece. -/
def runningEntry : QEntry := { waitingEntry 9 with started := true, need := 1, issued := 1 }

/-- A READ from core 0 to tile 1. -/
def readPacket : Packet :=
  { id := 1, kind := .read, src := 0, dst := 1, tag := some 0, addr := 2 ^ 26, len := 64, bytes := [], slot := 0, core := 0,
    uid := 9, local_ := 32, off := 0, total := 64, err := none, unsent := 0, hops := [], aged := false }

/-- A WRITE on the same way. -/
def writePacket : Packet := { readPacket with id := 2, kind := .write, dst := 2, addr := 2 ^ 27, len := 32, total := 32, bytes := List.replicate 32 7 }

/-- READ_DATA back. -/
def dataPacket : Packet := { readPacket with id := 3, kind := .readData, src := 1, dst := 0, bytes := [1, 2, 3] }

/-- ACK back. -/
def ackPacket : Packet := { readPacket with id := 4, kind := .ack, src := 2, dst := 0 }

/-- ERROR back. -/
def errorPacket : Packet := { readPacket with id := 5, kind := .error, src := 3, dst := 0, err := some .fenced }

/-- Five packets under way and the LOAD that waits. -/
def netState : State :=
  let s := queueState [runningEntry]
  { s with net := { s.net with packets := [readPacket, writePacket, dataPacket, ackPacket, errorPacket], nextId := 6 } }

/-- The READ has waited at its arbiter. -/
def agedState : State := { netState with net := { netState.net with packets := [{ readPacket with arrived := 70000 }] } }

/-- A SEND of 64 bytes to core 0 on channel 5. -/
def sendPacket : Packet :=
  { readPacket with id := 6, kind := .send, src := 4, dst := 0, addr := 5, bytes := List.replicate 64 1, core := 4, uid := 3 }

/-- A buffer posted for that channel. -/
def postedState : State :=
  let s := setCtx 0 0 (fun c => { c with posted := [{ channel := 5, uid := 9, addr := 64, len := 64 }] })
    (queueState [{ runningEntry with q := .message, w0 := 4 * 2 ^ 60 }])
  { s with net := { s.net with packets := [sendPacket], nextId := 7 } }

/-- A request of the owning core. -/
def sashReq (write : Bool) : SashReq := { core := 0, uid := 9, write := write, addr := 64, len := 64, local_ := 32 }

/-- It waits at the tile. -/
def sashState (write : Bool) : State := setTile 0 (fun x => { x with queue := [sashReq write] }) (queueState [runningEntry])

/-- A response of two flits from core 1 to core 0, both before core 0. -/
def bufferedPacket : Packet := { dataPacket with id := 7, hops := [(7, 2)] }

/-- The network with that packet. -/
def bufferedState : State := { netState with net := { netState.net with packets := [bufferedPacket], nextId := 8 } }

/-- A VEC of one row of four FP32 elements, from units 0 and 1 to unit 2. -/
def vecEntry (op : Nat) : QEntry :=
  { waitingEntry 9 with
    q := .vector, w0 := 6 * 2 ^ 60 + op * 2 ^ 24 + 2 ^ 19 + 2 ^ 14, w1 := 2 ^ 34 + 2 * 2 ^ 19 + 4 * 2 ^ 4 }

/-- A core with a VEC to start. -/
def vecState (op : Nat) : State := queueState [vecEntry op]

/-- A CONVERT of one row of four elements from FP32 to BF16. -/
def convEntry : QEntry :=
  { vecEntry 0 with w0 := 7 * 2 ^ 60 + 2 ^ 27 + 2 * 2 ^ 22 + 3 * 2 ^ 14, w1 := 2 ^ 34 + 2 * 2 ^ 19 + 4 * 2 ^ 4 }

/-- A core with a CONVERT to start. -/
def convState : State := queueState [convEntry]

/-- A MATMUL of one row, one K-block and one N-block on pane 0. -/
def matEntry : QEntry :=
  { waitingEntry 9 with q := .pane 0, w0 := 5 * 2 ^ 60 + 2 * 2 ^ 25 + 2 * 2 ^ 20 + 2 ^ 15, w1 := 64 * 2 ^ 34 + 512 * 2 ^ 19 }

/-- A core with a MATMUL to start. -/
def matState : State := queueState [matEntry]

/-- A core whose MATMUL has a half to drain. -/
def drainState : State :=
  setPane 0 0 (fun x => { x with halves := [{ uid := 9, half := 0, outs := [(0, 0, 0)] }] })
    (queueState [{ matEntry with started := true, need := 1, issued := 1 }])

/-- A MATMUL with a codebook. -/
def codedEntry : QEntry := { matEntry with w0 := 5 * 2 ^ 60 + 2 * 2 ^ 25 + 14 * 2 ^ 20 + 2 ^ 15 }

/-- A core with that MATMUL to start. -/
def codedState : State := queueState [codedEntry]

/-- A MATMUL that accumulates onto its old drain contents. -/
def accEntry : QEntry := { matEntry with w0 := matEntry.w0 + 2 ^ 14, started := true, need := 1, issued := 1 }

/-- A core whose half of it is to drain. -/
def accState : State :=
  setPane 0 0 (fun x => { x with halves := [{ uid := 9, half := 0, outs := [(0, 0, 0)] }] }) (queueState [accEntry])

/-- A GATHER into slot 2 of bank 5. -/
def gatherEntry : QEntry :=
  { waitingEntry 9 with q := .bank, w0 := 8 * 2 ^ 60 + 5 * 2 ^ 27 + 2 * 2 ^ 24 + 33 * 2 ^ 16 + 7, w1 := 4 * 2 ^ 48 + 8 * 2 ^ 32 + 2 ^ 24 }

/-- A core with a GATHER to start. -/
def gatherState : State := queueState [gatherEntry]

/-- A bank unit whose core command stands at a word of the stock program, two entries from its end. -/
def bankRun (pc : Nat) : BankRun :=
  { slot := 2, pc := pc, remaining := 2, cursor := 100, row := List.replicate 32 3, buf := List.replicate 16 1 }

/-- The running command's slot: a sum of rows of one unit of FP32. -/
def bankSlot : Slot :=
  { state := 2, entry := 0, op := 1, rowLen := 1, countM1 := 3, listOff := 2, tableOff := 0, resultOff := 100, resultLen := 8 }

/-- A device with memory, and bank 5 of tile 1 at work. -/
def bankWith (r : BankRun) : State :=
  let s := framedState .inFrame
  setUnit 1 5 (fun u => { u with run := some r })
    (setSlot 1 5 r.slot (fun _ => bankSlot)
      { s with mem := { s.mem with ready := true }, bnk := { s.bnk with stock := true } })

/-- The command stands at a word. -/
def bankState (pc : Nat) : State := bankWith (bankRun pc)

/-- What its micro-op knows. -/
def bankMicro (pc : Nat) : Micro :=
  { x := bankSlot, r := bankRun pc, target := field ((stockProgram[pc]?).getD 0) 0 8 }

/-- No entry is left. -/
def emptyBank : State := bankWith { bankRun 2 with remaining := 0 }

/-- What NEXT knows then. -/
def emptyMicro : Micro := { bankMicro 2 with r := { bankRun 2 with remaining := 0 } }

/-- The entry taken names a row past the bank. -/
def farBank : State := bankWith { bankRun 12 with index := 65536 }

/-- What FETCH knows then. -/
def farMicro : Micro := { bankMicro 12 with r := { bankRun 12 with index := 65536 } }

/-- The list buffer is empty. -/
def unreadBank : State := bankWith { bankRun 2 with buf := [] }

/-- What NEXT knows then. -/
def unreadMicro : Micro := { bankMicro 2 with r := { bankRun 2 with buf := [] } }

/-- The result region is full. -/
def fullBank (pc : Nat) : State := bankWith { bankRun pc with cursor := 108 }

/-- What OUT knows then. -/
def fullMicro (pc : Nat) : Micro := { bankMicro pc with r := { bankRun pc with cursor := 108 } }

/-- A host command that has run for 100 ms. -/
def oldRun : BankRun := { bankRun 6 with slot := 6, ranTc := 100000000 }

/-- Its bank. -/
def oldBank : State := bankWith oldRun

/-- A command with a row length waits. -/
def waitingBank (row : Nat) : State :=
  setUnit 1 5 (fun u => { u with run := none, order := [2] }) (setSlot 1 5 2 (fun x => { x with state := 1, rowLen := row }) (bankState 0))

/-- The scrubber runs, and tile 1 is due. -/
def scrubState : State :=
  let s := bankState 6
  { s with mem := { s.mem with scrubEnable := true, scrubPeriod := 24 } }

/-- Memory layer readings of 100 °C over tile 1. -/
def hotState : State := { bankState 6 with thm := { thmReset with mems := [(regionOf 1, { a := 1600, b := 1590 })] } }

/-- A device with memory that admits BAR2. -/
def barState : State :=
  { liveState .ready with
    mem := { memReset with ready := true }
    prt := { prtReset with block := [(16, 4)] } }

/-- Window 1 is committed with an owner. -/
def winState (owner : Nat) : State :=
  let s := { barState with hif := { hifReset with linkUp := true, mode := 2, memActive := true } }
  setWin 1 (fun w => { w with committed := true, owner := owner, dpa := 0, size := 0x30000000 }) s

/-- A device whose protection block permits 16 tiles from tile 0. -/
def openWindow : State :=
  let s := winState 0
  setWin 1 (fun w => { w with committed := false })
    { s with prt := { s.prt with block := [(16, 4), (17, 1), (0x0F82, 1)] } }

/-- A bank whose command copies. -/
def copyBank : State := setSlot 1 5 2 (fun x => { x with op := 0 }) (bankState 3)

/-- A window the host owns, over the tile of the bank. -/
def hostWin : Win := { committed := true, owner := 0, dpa := 0, size := 0x30000000 }

/-- A bank whose result words a window has given to the host. -/
def hostBank : State := setWin 1 (fun _ => hostWin) (bankState 13)

/-- A host command runs while a core command waits. -/
def yieldBank : State := setUnit 1 5 (fun u => { u with run := some oldRun }) (waitingBank 1)

/-- A device that changes its protection block. -/
def changingState : State :=
  { linkedState .ready with prt := { prtReset with running := 2, pkgLen := 23072, nonce := some [], block := [] } }

/-- A device whose firmware floor is 1, while it changes its protection block. -/
def flooredState : State := { linkedState .ready with prt := { prtReset with running := 2, block := [(12, 1)] } }

/-- A device that unlocks debug, whose block allows it. -/
def unlockingState : State :=
  { linkedState .ready with prt := { prtReset with running := 3, pkgLen := 6720, nonce := some [], block := [(16, 2)] } }

/-- A package that unlocks scope bit 0. -/
def unlockPackage : List Nat :=
  [0x50, 0x52, 0x54, 0x43, 0x48, 0x47, 0x00, 0x01, 3] ++ List.replicate 23 0 ++ leBytes 8 unlockingState.fuses.serial ++ [1] ++
    List.replicate 23 0 ++ List.replicate 6656 0

/-- A protection block of change count 1, floor 3, two protection keys and one image key slot. -/
def newBlock : List Nat :=
  [0x50, 0x52, 0x4F, 0x54, 0x42, 0x4C, 0x4B, 0x01, 1, 0, 0, 0, 3, 0, 0, 0, 1, 0, 0, 0, 1] ++ List.replicate 43 0 ++
    List.replicate 1952 1 ++ List.replicate 1952 2 ++ List.replicate 12416 0

/-- A package that changes the protection block. -/
def changePackage : List Nat :=
  [0x50, 0x52, 0x54, 0x43, 0x48, 0x47, 0x00, 0x01, 2] ++ List.replicate 23 0 ++ newBlock ++ List.replicate 6656 0

/-- A device with an identity and a trained link. -/
def attestState : State := { linkedState .ready with prt := { prtReset with identity := true } }

/-- A link that is up, to a neighbour. -/
def upLink (n : Nat) : Link :=
  { state := .up, lanesGood := 0xFFFF, lanesUsed := 0xFFFF, width := 16, neighbourKnown := true, neighbour := n, light := true }

/-- Device 1 of a group in which every device may write; device 2 lies behind link 0 and device 3 behind link 1. -/
def meshState : State :=
  let s := framedState .inFrame
  { s with
    mem := { s.mem with ready := true }
    prt := { prtReset with block := [(18, 1), (0x1002, 9)] }
    lnk := { lnkReset with
      assigned := true, id := 1, acquired := true, fwd := [(1, 2 * 2 ^ 32 + 1)]
      links := [upLink 2, upLink 3] ++ List.replicate 30 {} } }

/-- The same device in READY. -/
def readyMesh : State := { meshState with kpr := { meshState.kpr with state := .ready } }

/-- Link 0 of the device is in another state. -/
def linkIn (f : Link → Link) : State := setLink 0 f meshState

/-- A flit of a type from device 2 to device 1. -/
def flitOf (ty : Nat) (payload : List Nat) : LinkFlit :=
  { flit := { dest := 1, src := 2, endpoint := 5, ty := ty, scheduled := false, vc := 0, lenM1 := 0, hops := 40, frame := 0, tag := 6,
              addr := 64, payload := payload }, seq := 0, credU := 0, ack := 4095, credS := 0 }

/-- A flit that waits for its acknowledgement. -/
def sentFlit : LinkFlit := { flitOf 1 (List.replicate 32 1) with flit := { (flitOf 1 (List.replicate 32 1)).flit with dest := 2, src := 1 } }

/-- A remote access waits for its answer. -/
def raccState : State :=
  { meshState with
    lnk := { meshState.lnk with
      raccState := 1, raccPeer := 2, requests := [{ endpoint := 5, tag := 6, device := 2, core := 0, uid := 0, racc := true, at_ := 0 }] } }

/-- A SEND to device 2 waits for its answer. -/
def peerState : State :=
  let s := setCore 0 (fun c => { c with queue := [{ sendEntry with started := true, need := 1, issued := 1 }] }) raccState
  { s with
    frm := { s.frm with tc := 2000000 }
    lnk := { s.lnk with requests := [{ endpoint := 0, tag := 6, device := 2, core := 0, uid := 9, racc := false, at_ := 0 }] } }

/-- A lockstep group of devices 1 and 2. -/
def lockImage : Image :=
  { bareImage with
    sections := [{ ty := 0x0B, records := 34, offset := 0, size := 1088,
                   bytes := leBytes 4 0 ++ leBytes 4 2 ++ List.replicate 1048 0 ++ leBytes 2 1 ++ leBytes 2 2 ++ List.replicate 28 0 }] }

/-- The ended frame of that group awaits confirmation. -/
def confirmState : State :=
  let s := framedState .waiting
  { s with
    dev := { s.dev with image := some lockImage }
    lnk := { s.lnk with assigned := true, id := 1 }
    frm := { s.frm with tc := 90000, confirmWait := 100, awaiting := [{ facts := { number := 7, start := 1000, period := 5000, lockstep := true } }] } }

/-- A core that switches from one context to another. -/
def switchState (k : Nat) : State := setCore 0 (fun c => { c with switch1 := k }) (coreState 0 0)

/-- The binding of the one role of `roleImage`. -/
def saveBinding : Binding := roleImage.binding 0 0

/-- A core whose context goes out. -/
def saveState : State := setCore 0 (fun c => { c with switch1 := 5 }) (coreState 0 0)

/-- A core whose context comes in. -/
def restoreState : State := setCore 0 (fun c => { c with resident1 := 0, switch1 := 1 }) (coreState 0 0)

/-- A walker waits for a page-table word. -/
def walkState : State :=
  setWalker 3 (fun x => { x with walks := [{ lane := 2, word := 7, pieces := [], started := true }] }) (bankState 6)

/-- Sensors of region 5 that have differed for a second. -/
def differState : State :=
  let s := clockedState .running
  { s with
    frm := { s.frm with tc := 1000000000 }
    thm := { s.thm with regions := [(5, { a := 800, b := 1000, differSince := 1 })], mems := [(6, { a := 800, b := 1000, differSince := 1 })] } }

/-- Units in a hold that have cooled. -/
def cooledState : State :=
  let s := clockedState .running
  { s with
    frm := { s.frm with tc := 1000000000 }
    thm := { s.thm with
      regions := [(5, { held := true, coolSince := 1 })], mems := [(6, { held := true, coolSince := 1 })]
      sills := [{}, { held := true, coolSince := 1 }, {}, {}] } }

/-- A device that has drawn 1,000 W for a minute. -/
def steadyState : State :=
  let s := clockedState .running
  { s with
    pwr := { s.pwr with avg1 := 1000 }
    thm := { s.thm with inlet := 480, powers := List.replicate 59 1000, mems := [] } }

/-- Events wait to be signalled. -/
def unsignalledState : State :=
  let s := linkedState .running
  { s with frm := { s.frm with tc := 1000000000 }, evt := { s.evt with unsignalled := 3, coalUs := 10, vector := 2 } }

/-- A ring with a size and an address. -/
def ringState : State := { liveState .ready with evt := { (liveState .ready).evt with sizeLog2 := 6, ringAddr := 1, tail := 20 } }

/-- A report is being written. -/
def reportState : State :=
  let s := linkedState .running
  { s with
    evt := { s.evt with running := some { addr := 0x10000, frame := 9, bytes := [1, 2, 3], truncated := false, vector := 2, signal := false } } }

/-! ## Reading memory that nothing has written -/

/-- Nothing has been written to stacked memory, and every datapath is good. -/
def blankMemory (s : State) : Prop := s.mem.dram = [] ∧ s.mem.check = [] ∧ s.mem.hard = [] ∧ s.mem.dpBad = []

theorem blank_codeWord {s : State} (h : blankMemory s) (a : Nat) : s.codeWord a = List.replicate 36 0 := by
  simp only [State.codeWord, State.storedWord, memBytes, h.1, h.2.1, h.2.2.1]
  rfl

theorem blank_word {s : State} (h : blankMemory s) (a : Nat) : rsDecode (s.codeWord a) = .good (List.replicate 32 0) := by
  rw [blank_codeWord h]; decide +kernel

theorem blank_words (w : Who) : ∀ (n a : Nat) (acc : List Nat) (s : State), blankMemory s →
    (∀ i < n, s.wordBlocked (a + 32 * i) = none) →
    ∃ t, readWords w false n a acc s = (.data (acc ++ List.replicate (32 * n) 0), t)
  | 0, _, acc, s, _, _ => ⟨s, by simp [readWords]⟩
  | n + 1, a, acc, s, h, hb => by
    have h0 : readWord w false a s = (.data (List.replicate 32 0), openRow a s) := by
      have e : s.wordBlocked a = none := hb 0 (Nat.succ_pos n)
      have p : (openRow a s).pathBad a = false := by simp [State.pathBad, openRow, h.2.2.2]
      have c : rsDecode ((openRow a s).codeWord a) = .good (List.replicate 32 0) := blank_word (s := openRow a s) h a
      simp only [readWord, e, p, c, Bool.or_self, Bool.false_eq_true, if_false]
    obtain ⟨t, ht⟩ := blank_words w n (a + 32) (acc ++ List.replicate 32 0) (openRow a s) h (fun i hi => by
      have := hb (i + 1) (Nat.succ_lt_succ hi)
      rw [show a + 32 * (i + 1) = a + 32 + 32 * i by omega] at this
      exact this)
    refine ⟨t, ?_⟩
    simp only [readWords, h0, ht, List.append_assoc, List.replicate_append_replicate]
    rw [show 32 + 32 * n = 32 * (n + 1) by omega]

theorem blank_bytes {n a k : Nat} {s : State} (h : blankMemory s) (ha : a % 32 = 0)
    (hb : ∀ i < k, s.wordBlocked (a + 32 * i) = none) :
    ∃ t, readBytes (coreWho n) false a (32 * k) s = (.data (List.replicate (32 * k) 0), t) := by
  obtain ⟨t, ht⟩ := blank_words (coreWho n) k a [] s h hb
  refine ⟨t, ?_⟩
  have e1 : a / 32 * 32 = a := by omega
  have e2 : (a + 32 * k + 31) / 32 - a / 32 = k := by omega
  simp only [readBytes, netAccess, coreWho] at *
  simp [e1, e2, ht, slice]

/-! ## Values the spec works out -/

/-- Chapter 0 and chapter 1: core 7,089 lies in region 292, column 68. -/
theorem test_regionNumbers : regionOf 7089 = 292 ∧ columnOf 292 = 68 ∧ (coresOf 292)[21]? = some 7089 := by decide

/-- Chapter 6: the address of the example's LOAD. -/
theorem test_addressMap : tileOf 0x6EC4148000 = 7089 ∧ bankOf 0x6EC4148000 = 0 ∧ rowOf 0x6EC4148000 = 656 ∧
    bankOf 0x6EC42B0000 = 1 := by decide

/-- Chapter 6: byte 7 of a word of zeros reads 0x5A. -/
theorem test_oneWrongByte : rsSyndromes (setNth (List.replicate 36 0) 7 0x5A) = [0x5A, 0x23, 0x0F, 0x88] ∧
    rsDecode (setNth (List.replicate 36 0) 7 0x5A) = .corrected (List.replicate 32 0) 7 := by decide

/-- Chapter 6: byte 20 also reads 0x01. -/
theorem test_twoWrongBytes :
    rsDecode (setNth (setNth (List.replicate 36 0) 7 0x5A) 20 1) = .uncorrectable 0x496F055B := by decide

/-- Table 4.11: six elements of a block into MXFP4, with 26 more that are exact. The example's sat_count is not tested: R97's
judgement after rounding counts no saturation at 6.5 (log 49). -/
theorem test_blockIntoMxfp4 :
    let xs := [Val.fin false 13 (-4), .fin false 19 (-6), .fin true 3 (-4), .fin false 7 (-4), .fin false 1 (-5), .fin false 1 (-4)]
      ++ List.replicate 26 (.fin false 1 (-3))
    let r := convBlock 0x0A (List.replicate 32 .rne) false xs {}
    r.1 = 0x7C ∧ r.2.1.take 6 = [7, 4, 0xB, 6, 0, 1] ∧ (r.2.2.amax, r.2.2.unders, r.2.2.elements) = (.fin false 13 (-4), 1, 32) := by decide

/-- Chapter 4: 2.375 rounded stochastically with r = 42,000 is 3, and with r = 40,959 it is 2. -/
theorem test_stochasticRounding :
    (convOut 0x0A (.sr 42000) false (.fin false 19 (-3))).code = 5 ∧
    (convOut 0x0A (.sr 40959) false (.fin false 19 (-3))).code = 4 := by decide

/-- Chapter 4: the largest finite value of FP8 E4M3 is 0x7E = 448. -/
theorem test_e4m3Max : layE4M3.maxCode = 0x7E ∧ (layE4M3.decode 0x7E).lt (.fin false 448 0) = false ∧
    (Val.fin false 448 0).lt (layE4M3.decode 0x7E) = false ∧ layE4M3.decode 0x7F = .nan := by decide

/-- Table 4.10: maxima, minima and comparisons with signed zeros and NaN. -/
theorem test_orderOfValues :
    f32Max 0 0x80000000 = 0 ∧ f32Min 0 0x80000000 = 0x80000000 ∧ f32Max 0x80000000 0 = 0 ∧
    f32Max 0x7FC00001 0x3F800000 = 0x7FC00000 ∧ f32Min 0xFF800000 0x7F800001 = 0x7FC00000 ∧
    (f32Val 0).ge (f32Val 0x80000000) = true ∧ (f32Val 0x80000000).ge (f32Val 0) = false ∧
    (f32Val 0x80000000).lt (f32Val 0) = true ∧ (f32Val 0x7FC00000).ge (f32Val 0x7FC00000) = false ∧
    (f32Val 0x7F800000).ge (f32Val 0x7F800000) = true := by decide

/-- Chapter 3: the LOAD of the worked example, word by word. -/
theorem test_loadWords :
    let w0 := 0x1E4000314000003F
    let w1 := 0x6EC4148000900090
    kindOf w0 = 1 ∧ bit w0 58 = true ∧ bit w0 57 = true ∧ field w0 53 4 = 2 ∧ field w0 37 16 = 1 ∧ bit w0 36 = true ∧
      field w0 32 4 = 1 ∧ field w0 17 15 = 0x2000 ∧ field w0 0 12 = 63 ∧ field w1 29 35 * 32 = 0x6EC4148000 ∧
      field w1 17 12 = 72 ∧ field w1 0 17 = 0x90 := by decide

/-- Chapter 3: the LOOP of the worked example, run on a core. -/
theorem test_loopWords :
    (match exec (.loop 0) (coreState 0xA000000002000005 0x0000240000000000) with
    | .next t => (t.ctxOf 0 0).loops.map (fun l => (l.past - l.first, l.count, l.memStep, l.csStep))
    | _ => []) = [(2, 6, 9216, 0)] := by decide

/-- Chapter 19: bytes 0 to 15 of the event of an incomplete role. -/
theorem test_eventHead :
    let r : EvtRec := { tc := 0x3BA6FF00, frame := 1000, kind := 0x0020, severity := 2, seq := 0, reason := 0, unit := 7089, count := 0,
                        data := [] }
    leAt (evtHead r 1) 0 8 = 0x3BA6FF00 ∧ leAt (evtHead r 1) 8 8 = 0x01020020000003E8 := by decide

/-- R145: the defaults of the corrected-error threshold. R348: those of the caps lie in order. -/
theorem test_resetValues : State.reset.mem.ceCount = 1024 ∧ State.reset.mem.ceWindow = 3600 ∧ State.reset.kpr.state = .rom ∧
    State.reset.pending = [] ∧ State.reset.mem.dram = [] := by decide

/-- The command in front runs, and the next one stays. -/
theorem test_stepTakesTheFront :
    (match step { State.reset with pending := [.inputWarnLeave 5400, .vpmShutdown] } with
    | .next t => some (t.sup.voltage, t.pending)
    | _ => none) = some (5400, [.vpmShutdown]) := by decide

/-- An empty queue counts one tc once the counter runs. -/
theorem test_stepIdles :
    (match step { State.reset with frm := { frmReset with tcRuns := true, tc := 2 ^ 64 - 1 } } with
    | .next t => some t.frm.tc
    | _ => none) = some 0 := by decide

/-- No word spells a command: the table gives no row any bits. -/
theorem test_noWord : decodeTableWord 8 0 = none ∧ State.reset.withFetchWord 8 0 = State.reset := by decide

/-! ## Well-formedness: for each check a command it refuses, and the same command with that operand in order -/

/-- Commands each of which one check refuses (1). -/
def illFormed1 : List Instr :=
  [.stage1ConverterFail 2, .railOutOfRegulation 4, .fatalCondition 0, .fatalCondition 8, .sillResetRequest 4,
   .refclkLost 4 true, .regionGeneratorLockTimeout regionCount, .contextSwitchDone coreCount true [] [],
   .capWrite 2 0, .qpEnable 256 0, .qpDisable 256 0, .openEntry 256 (entry 1 0 0 0 []),
   .appendEntry 256 (entry 2 0 0 0 []), .generateEntry 256 (entry 3 0 0 0 []), .forkEntry 256 (entry 4 0 0 0 []),
   .closeEntry 256 (entry 5 0 0 0 []), .queryEntry 256 (entry 6 0 0 0 []), .forkCopyDone 16384 [] [],
   .poolSetStarved 512, .reqCoalesceTimeout 256, .sqFetchRetry 256, .descriptorDispatch coreCount true,
   .loadDesc coreCount [], .storeDesc coreCount [] true, .send coreCount true, .recv coreCount,
   .matmul coreCount 0 0 0 true, .matmul 0 2 0 0 true, .convert coreCount 0 true, .gather coreCount,
   .waitCounter coreCount, .waitSlatStart coreCount, .waitFrameOffset coreCount, .waitConfirm coreCount,
   .waitQuiesce coreCount, .waitYield coreCount, .loop coreCount, .skip coreCount true, .vecAdd coreCount 0 true,
   .vecSub coreCount 0 true, .vecMul coreCount 0 true, .vecMax coreCount 0 true, .vecMin coreCount 0 true,
   .vecAdds coreCount 0 true, .vecMuls coreCount 0 true, .vecExp coreCount 0 true, .vecRcp coreCount 0 true,
   .vecRsqrt coreCount 0 true, .vecSigmoid coreCount 0 true, .vecRsum coreCount 0 true, .vecRmax coreCount 0 true,
   .vecRsumsq coreCount 0 true, .vecRargmax coreCount 0 true, .vecRowsub coreCount 0 true,
   .vecRowmul coreCount 0 true, .vecCsum coreCount 0 true, .vecMaskge coreCount 0 true,
   .vecMasklt coreCount 0 true, .descriptorComplete coreCount 0, .descriptorComplete 0 6]

theorem test_illFormed1 : illFormed1.all (fun c => !c.wf) = true := by decide

/-- Commands each of which one check refuses (2). -/
def illFormed2 : List Instr :=
  [.coreParityFence coreCount, .unitWatchdogExpiry coreCount 0, .unitWatchdogExpiry 0 6,
   .drainHalfDone coreCount 0 0 0 0 0 0 true, .drainHalfDone 0 2 0 0 0 0 0 true, .paneParityError coreCount 0,
   .paneParityError 0 2, .flitCreditReturn 1 4, .flitCreditReturn 0xC408 0, .flitCrcError 0xC408 true,
   .flitCrcError 2 true, .linkReplayLimit 0xC408, .linkReplayLimit 0, .ownerSashRequest coreCount 0 true true [],
   .bankRefreshDue coreCount 0 true true, .bankRefreshDue 0 bankCount true true, .tileTempSample coreCount,
   .scrubRun coreCount [] [] [], .sashStallTimeout coreCount, .sashRetrainDone coreCount true,
   .bankAccessTimeout coreCount 0, .bankAccessTimeout 0 bankCount, .datapathParityFence coreCount,
   .ceThreshold coreCount, .bankCommandStart coreCount 0 [], .bankCommandStart 0 bankCount [],
   .microNext coreCount 0 true [], .microNext 0 bankCount true [], .microFetch coreCount 0 true [],
   .microFetch 0 bankCount true [], .microFetchc coreCount 0 true [], .microFetchc 0 bankCount true [],
   .microCopyout coreCount 0 none, .microCopyout 0 bankCount none, .microPiece coreCount 0,
   .microPiece 0 bankCount, .microSegb coreCount 0, .microSegb 0 bankCount, .microOut coreCount 0 none,
   .microOut 0 bankCount none, .microClear coreCount 0, .microClear 0 bankCount, .microJump coreCount 0,
   .microJump 0 bankCount, .microDone coreCount 0, .microDone 0 bankCount, .microSelop coreCount 0,
   .microSelop 0 bankCount, .reservedMicroOp coreCount 0, .reservedMicroOp 0 bankCount,
   .microOpTimeout coreCount 0, .microOpTimeout 0 bankCount, .hostCommandTimeout coreCount 0,
   .hostCommandTimeout 0 bankCount, .bankUnitParityFence coreCount 0, .bankUnitParityFence 0 bankCount,
   .pageWalkDone regionCount 0 0 0 true [], .pageWalkDone 0 16 0 0 true [], .hdmDecoderCommit 4 0 0 0 0 true,
   .hdmDecoderUncommit 4]

theorem test_illFormed2 : illFormed2.all (fun c => !c.wf) = true := by decide

/-- Commands each of which one check refuses (3). -/
def illFormed3 : List Instr :=
  [.toDevice 4 0, .toHost 4 0, .poisonedTlp 1 0, .poisonedTlp 3 0, .unsupportedMailboxOpcode 0x4000,
   .unsupportedMailboxOpcode 0x10100, .lnkFwdWrite 32768 0, .quiesceSet 32, .quiesceClear 32,
   .datelineWrite 32 true, .linkTrained 32 0 none 0 true, .linkTrainRetry 32 true, .laneDrop 32 0 0 0,
   .laneDrop 0 16 0 0, .laneAdd 32 0, .laneAdd 0 16, .laserFail 4 0, .laserFail 0 16, .spareLaserInService 4 0,
   .spareLaserInService 0 16, .laserAged 4 0, .laserAged 0 16, .cartridgeLeverOpen 4,
   .oviWriteFlit 32 (flitOf 1 []) true, .oviReadFlit 32 (flitOf 2 []) true [], .oviReadDataFlit 32 (flitOf 3 []),
   .oviAckFlit 32 (flitOf 4 []) true, .oviStatusFlit 32 (flitOf 5 []), .oviIdleFlit 32 (flitOf 0 []),
   .oviFlitError 32 true, .oviReplayLimit 32, .creditStall 32 true, .timingSymbolSend 32,
   .timingSymbol 32 0 none 0 0 0, .sustainedDroop regionCount, .generatorLockLost regionCount,
   .fallbackSwitch regionCount, .divisorStep regionCount, .phaseFail regionCount 0, .phaseFail 0 4,
   .vsensorExclude regionCount 0, .vsensorExclude 0 4, .shuntFire regionCount, .bondSample regionCount 0 0 0,
   .bondSuspect regionCount, .peakLimiterEngage 0 0, .peakLimiterEngage 5 0, .shutterRampDone regionCount,
   .sensorSuspect true regionCount, .sensorFail 0 512 0, .sensorFail 0 0 2, .sensorFail 2 4 0, .sensorFail 2 0 16,
   .sensorFail 3 1 0, .sensorFail 4 0 0, .tempTrip 0 512, .tempTrip 2 4, .tempTrip 3 0, .holdRelease 0 512,
   .holdRelease 2 4]

theorem test_illFormed3 : illFormed3.all (fun c => !c.wf) = true := by decide

/-- Commands each of which one check refuses (4). -/
def illFormed4 : List Instr :=
  [.holdRelease 3 0, .mctpControlMessage 3 0 [], .getSensorReading 3 0, .setNumericEffecterValue 3 1 0,
   .setEventReceiver 3 none true, .neighbourIdAnnounce 32 none, .handoverComplete 4, .pcieLinkUp 0 1 0,
   .pcieLinkUp 7 1 0, .pcieLinkUp 1 1 4, .pcieLinkUp 0 1 0, .pcieLinkUp 7 1 1, .pcieLinkUp 1 3 0,
   .pcieLinkUp 1 1 4, .pcieLinkUp 6 1 0, .pcieLinkUp 1 1 1, .dbgCsRead 512 true]

theorem test_illFormed4 : illFormed4.all (fun c => !c.wf) = true := by decide

/-- The same commands with their operands in order (1). -/
def inOrder1 : List Instr :=
  [.stage1ConverterFail 0, .railOutOfRegulation 0, .fatalCondition 1, .sillResetRequest 0, .refclkLost 0 true,
   .regionGeneratorLockTimeout 0, .contextSwitchDone 0 true [] [], .capWrite 0 0, .qpEnable 0 0, .qpDisable 0 0,
   .openEntry 0 (entry 1 0 0 0 []), .appendEntry 0 (entry 2 0 0 0 []), .generateEntry 0 (entry 3 0 0 0 []),
   .forkEntry 0 (entry 4 0 0 0 []), .closeEntry 0 (entry 5 0 0 0 []), .queryEntry 0 (entry 6 0 0 0 []),
   .forkCopyDone 0 [] [], .poolSetStarved 0, .reqCoalesceTimeout 0, .sqFetchRetry 0, .descriptorDispatch 0 true,
   .loadDesc 0 [], .storeDesc 0 [] true, .send 0 true, .recv 0, .matmul 0 0 0 0 true, .convert 0 0 true, .gather 0,
   .waitCounter 0, .waitSlatStart 0, .waitFrameOffset 0, .waitConfirm 0, .waitQuiesce 0, .waitYield 0, .loop 0,
   .skip 0 true, .vecAdd 0 0 true, .vecSub 0 0 true, .vecMul 0 0 true, .vecMax 0 0 true, .vecMin 0 0 true,
   .vecAdds 0 0 true, .vecMuls 0 0 true, .vecExp 0 0 true, .vecRcp 0 0 true, .vecRsqrt 0 0 true,
   .vecSigmoid 0 0 true, .vecRsum 0 0 true, .vecRmax 0 0 true, .vecRsumsq 0 0 true, .vecRargmax 0 0 true,
   .vecRowsub 0 0 true, .vecRowmul 0 0 true, .vecCsum 0 0 true, .vecMaskge 0 0 true, .vecMasklt 0 0 true,
   .descriptorComplete 0 0, .coreParityFence 0, .unitWatchdogExpiry 0 0, .drainHalfDone 0 0 0 0 0 0 0 true]

theorem test_inOrder1 : inOrder1.all (fun c => c.wf) = true := by decide

/-- The same commands with their operands in order (2). -/
def inOrder2 : List Instr :=
  [.paneParityError 0 0, .flitCreditReturn 1 0, .flitCrcError 1 true, .linkReplayLimit 1,
   .ownerSashRequest 0 0 true true [], .bankRefreshDue 0 0 true true, .tileTempSample 0, .scrubRun 0 [] [] [],
   .sashStallTimeout 0, .sashRetrainDone 0 true, .bankAccessTimeout 0 0, .datapathParityFence 0, .ceThreshold 0,
   .bankCommandStart 0 0 [], .microNext 0 0 true [], .microFetch 0 0 true [], .microFetchc 0 0 true [],
   .microCopyout 0 0 none, .microPiece 0 0, .microSegb 0 0, .microOut 0 0 none, .microClear 0 0, .microJump 0 0,
   .microDone 0 0, .microSelop 0 0, .reservedMicroOp 0 0, .microOpTimeout 0 0, .hostCommandTimeout 0 0,
   .bankUnitParityFence 0 0, .pageWalkDone 0 0 0 0 true [], .hdmDecoderCommit 0 0 0 0 0 true,
   .hdmDecoderUncommit 0, .toDevice 0 0, .toHost 0 0, .poisonedTlp 0 0, .unsupportedMailboxOpcode 1,
   .lnkFwdWrite 0 0, .quiesceSet 0, .quiesceClear 0, .datelineWrite 0 true, .linkTrained 0 0 none 0 true,
   .linkTrainRetry 0 true, .laneDrop 0 0 0 0, .laneAdd 0 0, .laserFail 0 0, .spareLaserInService 0 0,
   .laserAged 0 0, .cartridgeLeverOpen 0, .oviWriteFlit 0 (flitOf 1 []) true, .oviReadFlit 0 (flitOf 2 []) true [],
   .oviReadDataFlit 0 (flitOf 3 []), .oviAckFlit 0 (flitOf 4 []) true, .oviStatusFlit 0 (flitOf 5 []),
   .oviIdleFlit 0 (flitOf 0 []), .oviFlitError 0 true, .oviReplayLimit 0, .creditStall 0 true, .timingSymbolSend 0,
   .timingSymbol 0 0 none 0 0 0, .sustainedDroop 0]

theorem test_inOrder2 : inOrder2.all (fun c => c.wf) = true := by decide

/-- The same commands with their operands in order (3). -/
def inOrder3 : List Instr :=
  [.generatorLockLost 0, .fallbackSwitch 0, .divisorStep 0, .phaseFail 0 0, .vsensorExclude 0 0, .shuntFire 0,
   .bondSample 0 0 0 0, .bondSuspect 0, .peakLimiterEngage 1 0, .shutterRampDone 0, .sensorSuspect true 0,
   .sensorFail 0 0 0, .tempTrip 0 0, .holdRelease 0 0, .mctpControlMessage 0 0 [], .getSensorReading 0 0,
   .setNumericEffecterValue 0 1 0, .setEventReceiver 0 none true, .neighbourIdAnnounce 0 none, .handoverComplete 0,
   .pcieLinkUp 1 1 0, .dbgCsRead 0 true]

theorem test_inOrder3 : inOrder3.all (fun c => c.wf) = true := by decide

/-! ## The hypotheses of the statements are met -/

theorem test_emptyQueue_hyps : (∃ s : State, s.pending = [] ∧ s.frm.tcRuns = true) ∧
    (∃ s : State, s.pending = [] ∧ s.frm.tcRuns = false) :=
  ⟨⟨{ State.reset with frm := { frmReset with tcRuns := true } }, by decide⟩, ⟨State.reset, by decide⟩⟩

theorem test_stepKeeps_hyps : State.reset.memoryOk = true ∧ step State.reset = .next (tick State.reset) := by
  exact ⟨by decide, rfl⟩

theorem test_footprint_hyps : exec .oscWaitExpiry State.reset = .next (doOscWaitExpiry State.reset) := rfl

theorem test_wellFormed_hyps : Instr.hotReset.wf = true ∧ (Instr.recv 12288).wf = false := by decide

theorem test_queueOk_hyps : (State.reset.push .hotReset).queueOk = true := by decide

theorem test_powerComesAndGoes_hyps :
    (∃ (s : State) (_osc _maddr : Nat), (s.kpr.railsUp = false)) ∧
    (∃ (s : State) (_osc _maddr : Nat), (s.kpr.railsUp = true)) ∧
    (∃ (s : State), (s.kpr.railsUp = true)) ∧
    (∃ (s : State), (s.kpr.railsUp = false)) ∧
    (∃ (s : State) (i : Nat), (i < 2) ∧ (s.kpr.railsUp = true) ∧ (s.sup.stage1Ok = 3)) ∧
    (∃ (s : State) (i : Nat), (i < 2) ∧ (s.kpr.railsUp = true) ∧ (s.sup.stage1Ok = 2 ^ i)) ∧
    (∃ (s : State) (i : Nat), (i < 2) ∧ (bit s.sup.stage1Ok i = false)) :=
  ⟨⟨darkState, 9, 2, by decide⟩,
    ⟨State.reset, 9, 2, by decide⟩,
    ⟨State.reset, by decide⟩,
    ⟨darkState, by decide⟩,
    ⟨State.reset, 1, by decide⟩,
    ⟨{ State.reset with sup := { supReset with stage1Ok := 2 } }, 1, by decide⟩,
    ⟨{ State.reset with sup := { supReset with stage1Ok := 2 } }, 0, by decide⟩⟩

theorem test_regulatorGroups_hyps :
    (∃ (s : State) (r p : Nat), (r < regionCount) ∧ (p < 4) ∧ (s.powered = true) ∧
        (bit (s.groupOf r).phasesFailed p = false) ∧ (popcount 4 ((s.groupOf r).phasesFailed + 2 ^ p) < 3)) ∧
    (∃ (s : State) (r p : Nat), (r < regionCount) ∧ (p < 4) ∧ (s.powered = true) ∧
        (bit (s.groupOf r).phasesFailed p = false) ∧ (popcount 4 ((s.groupOf r).phasesFailed + 2 ^ p) = 3) ∧
        (s.dark r = false)) ∧
    (∃ (s : State) (r k : Nat), (r < regionCount) ∧ (k < 4) ∧ (s.powered = true) ∧
        (bit (s.groupOf r).sensorsExcluded k = false)) ∧
    (∃ (s : State) (r : Nat), (r < regionCount) ∧ (s.powered = true)) ∧
    (∃ (s : State) (r _vOut _vMin _cur : Nat), (r < regionCount) ∧ (s.powered = true)) ∧
    (∃ (s : State) (r vOut vMin cur : Nat), (r < regionCount) ∧ (s.powered = true) ∧ (cur < 100) ∧ (vMin < 4096) ∧
        (vOut < 4096) ∧ ((s.groupOf r).irSamples = 1000)) ∧
    (∃ (s : State) (r : Nat), (r < regionCount) ∧ (s.powered = true) ∧ ((s.groupOf r).bondSuspect = false) ∧
        ((s.groupOf r).excessSince ≠ 0) ∧ ((s.groupOf r).excessSince + 10000000 ≤ s.frm.tc + 1)) :=
  ⟨⟨liveState .running, 511, 3, by decide⟩,
    ⟨(setGroup 5 (fun g => { g with phasesFailed := 3 }) (liveState .running)), 5, 3, by decide⟩,
    ⟨liveState .ready, 0, 0, by decide⟩,
    ⟨liveState .running, 7, by decide⟩,
    ⟨liveState .running, 3, 700, 690, 5120, by decide⟩,
    ⟨(setGroup 3 (fun g => { g with irSamples := 1000 }) (liveState .running)), 3, 700, 600, 99, by decide⟩,
    ⟨(setGroup 3 (fun g => { g with excessSince := 5 }) (atTc 10000004 (liveState .running))), 3, by decide⟩⟩

theorem test_limiterAndAverages_hyps :
    (∃ (s : State) (m v : Nat), (1 ≤ m) ∧ (m ≤ 4) ∧ (s.powered = true) ∧ (s.sup.limiting = false) ∧
        (peakThreshold s.oneConverter m < v)) ∧
    (∃ (s : State) (m v : Nat), (1 ≤ m) ∧ (m ≤ 4) ∧ (v ≤ peakThreshold s.oneConverter m)) ∧
    (∃ (s : State) (v : Nat), (s.powered = true) ∧ (s.sup.limiting = false) ∧ (s.sup.stage1Ok = 3) ∧ (1700 < v)) ∧
    (∃ (s : State) (v : Nat), (s.powered = true) ∧ (s.sup.limiting = false) ∧ (s.sup.stage1Ok ≠ 3) ∧ (900 < v)) ∧
    (∃ (s : State) (v : Nat), (s.powered = true) ∧ (s.sup.limiting = true) ∧ (v < 850 ∨ (s.sup.stage1Ok = 3 ∧ v < 1600))) ∧
    (∃ (s : State) (p v c k : Nat) (_rails : List (Nat × Nat)), (p < 2 ^ 16) ∧ (v < 2 ^ 16) ∧ (c < 2 ^ 16) ∧ (k < 2 ^ 16) ∧
        (s.kpr.railsUp = true)) ∧
    (∃ (s : State) (m e : Nat), (m < 2 ^ 16) ∧ (e < 2 ^ 16) ∧ (s.powered = true) ∧ (m * 100 ≤ e * s.pwr.k / 4096 * 115) ∧
        (e * s.pwr.k / 4096 * 85 ≤ m * 100)) ∧
    (∃ (s : State) (m e : Nat), (m < 2 ^ 16) ∧ (e < 2 ^ 16) ∧ (s.powered = true) ∧ (0 < e * s.pwr.k / 4096) ∧
        (e * s.pwr.k / 4096 * 115 < m * 100)) ∧
    (∃ (s : State) (v : Nat), ((4600 ≤ v ∧ v < 4800) ∨ (6000 < v ∧ v ≤ 6300)) ∧ (s.kpr.railsUp = true) ∧
        (s.sup.inputWarn = false)) ∧
    (∃ (s : State) (v : Nat), (4800 ≤ v) ∧ (v ≤ 6000) ∧ (s.kpr.railsUp = true)) ∧
    (∃ (s : State) (k : Nat), (k < 4) ∧ (s.powered = true) ∧ (bit s.sup.railsOk k = true)) :=
  ⟨⟨liveState .running, 4, 1701, by decide⟩,
    ⟨liveState .running, 1, 2400, by decide⟩,
    ⟨liveState .running, 1701, by decide⟩,
    ⟨{ liveState .running with sup := { supReset with stage1Ok := 1 } }, 901, by decide⟩,
    ⟨limitingState, 1599, by decide⟩,
    ⟨State.reset, 600, 5400, 1100, 700, [(0, 0), (1050, 3), (450, 2), (900, 1)], by decide⟩,
    ⟨liveState .running, 500, 500, by decide⟩,
    ⟨liveState .running, 600, 500, by decide⟩,
    ⟨State.reset, 4700, by decide⟩,
    ⟨State.reset, 6000, by decide⟩,
    ⟨liveState .running, 3, by decide⟩⟩

theorem test_resetPinAndPllSequence_hyps :
    (∃ (s : State), (s.kpr.railsUp = true) ∧ (s.kpr.perst = true)) ∧
    (∃ (s : State), (s.kpr.railsUp = false ∨ s.kpr.perst = false)) ∧
    (∃ (s : State), (s.kpr.railsUp = true) ∧ (s.kpr.perst = false)) ∧
    (∃ (s : State), (s.kpr.railsUp = false ∨ s.kpr.perst = true)) ∧
    (∃ (s : State), (s.kpr.boot = .oscWait)) ∧
    (∃ (s : State), (s.kpr.boot = .pllStart) ∧ (s.kpr.pllTries < 2)) ∧
    (∃ (s : State), (s.kpr.boot = .pllStart) ∧ (s.kpr.pllTries = 2)) ∧
    (∃ (s : State), (s.kpr.boot = .pllStart)) ∧
    (∃ (s : State), (s.kpr.boot ≠ .oscWait) ∧ (s.kpr.boot ≠ .pllStart)) :=
  ⟨⟨liveState .running, by decide⟩,
    ⟨State.reset, by decide⟩,
    ⟨State.reset, by decide⟩,
    ⟨liveState .ready, by decide⟩,
    ⟨bootState .oscWait, by decide⟩,
    ⟨bootState .pllStart, by decide⟩,
    ⟨{ bootState .pllStart with kpr := { (bootState .pllStart).kpr with pllTries := 2 } }, by decide⟩,
    ⟨bootState .pllStart, by decide⟩,
    ⟨liveState .ready, by decide⟩⟩

theorem test_fatalConditionsHalt_hyps1 :
    (∃ (s : State) (cause : Nat), (1 ≤ cause) ∧ (cause ≤ 7) ∧ (s.powered = true)) ∧
    (∃ (s : State), (s.powered = true) ∧ (s.kpr.state ≠ .rom)) ∧
    (∃ (s : State) (sill : Nat), (sill < 4) ∧ (s.powered = true)) ∧
    (∃ (s : State) (what : Nat), (what < 4) ∧ (s.powered = true)) ∧
    (∃ (s : State) (what : Nat), (what < 4) ∧ (s.powered = true)) ∧
    (∃ (s : State), (s.powered = true) ∧ (s.kpr.state = .staging)) ∧
    (∃ (s : State) (cls u : Nat), ((cls < 2 ∧ u < 512) ∨ (cls = 2 ∧ u < 4)) ∧ (s.powered = true) ∧ (s.thm.started = true) ∧
        (tripSinceOf cls u s ≠ 0) ∧ (tripSinceOf cls u s + 100000 ≤ s.frm.tc + 1)) ∧
    (∃ (s : State) (l : Nat), (linkExists l = true) ∧ (s.powered = true) ∧ (4 ≤ (mapGet linkReplay0 s.net.replay l).inRow)) :=
  ⟨⟨liveState .running, 7, by decide⟩,
    ⟨liveState .staging, by decide⟩,
    ⟨liveState .ready, 3, by decide⟩,
    ⟨liveState .running, 0, by decide⟩,
    ⟨liveState .running, 0, by decide⟩,
    ⟨liveState .staging, by decide⟩,
    ⟨(setPair 5 (fun p => { p with tripSince := 1 }) (atTc 100000 (clockedState .running))), 0, 5, by decide⟩,
    ⟨{ liveState .running with net := { netReset with replay := [(4, { inRow := 4 })] } }, 4, by decide⟩⟩

theorem test_fatalConditionsHalt_hyps2 :
    (∃ (s : State) (c k l cls u what : Nat) (_host : Bool), (s.kpr.state = .halted) ∧ (1 ≤ c) ∧ (c ≤ 7) ∧ (k < 4) ∧
        (linkExists l = true) ∧ ((cls < 2 ∧ u < 512) ∨ (cls = 2 ∧ u < 4)) ∧ (what < 4)) ∧
    (∃ (s : State), (s.kpr.state = .halted)) ∧
    (∃ (s : State), (s.kpr.railsUp = true) ∧ (s.kpr.perst = true) ∧ (s.hif.linkUp = true)) ∧
    (∃ (s : State), (s.kpr.state ≠ .halted)) ∧
    (∃ (s : State), (s.hif.linkUp = false)) :=
  ⟨⟨haltedState, 1, 3, 4, 2, 3, 0, true, by decide⟩,
    ⟨haltedState, by decide⟩,
    ⟨linkedState .running, by decide⟩,
    ⟨liveState .ready, by decide⟩,
    ⟨liveState .ready, by decide⟩⟩

theorem test_regionClocks_hyps :
    (∃ (s : State) (r : Nat), (r < regionCount) ∧ (s.powered = true) ∧ (s.kpr.state = .staging) ∧ (s.clk.started = true) ∧
        ((s.clkOf r).source = 0)) ∧
    (∃ (s : State) (r : Nat), (r < regionCount) ∧ (s.powered = true) ∧ ((s.clkOf r).source < 2)) ∧
    (∃ (s : State) (r : Nat), (r < regionCount) ∧ (s.powered = true) ∧ ((s.clkOf r).source = 0)) ∧
    (∃ (s : State) (r : Nat), (r < regionCount) ∧ (s.powered = true) ∧ ((s.clkOf r).source = 0)) ∧
    (∃ (s : State) (r : Nat), (r < regionCount) ∧ (s.powered = true) ∧ ((s.clkOf r).source < 2) ∧
        ((s.clkOf r).holding = true)) ∧
    (∃ (s : State) (r : Nat), (r < regionCount) ∧ (s.powered = true) ∧ ((s.clkOf r).source = 0) ∧
        ((s.clkOf r).holding = false) ∧ ((s.clkOf r).divisor ≠ (s.clkOf r).target) ∧ ((s.clkOf r).nextStep ≤ s.frm.tc)) ∧
    (∃ (s : State) (r : Nat), (r < regionCount) ∧ (s.powered = true) ∧ ((s.groupOf r).shutter = 2) ∧
        ((s.groupOf r).openAt + 4000 ≤ s.frm.tc) ∧ (s.inForceImage = none)) :=
  ⟨⟨(setClk 9 (fun c => { c with source := 0 }) (clockedState .staging)), 9, by decide⟩,
    ⟨(setClk 9 (fun c => { c with source := 0 }) (clockedState .ready)), 9, by decide⟩,
    ⟨(setClk 9 (fun c => { c with source := 0 }) (clockedState .running)), 9, by decide⟩,
    ⟨(setClk 9 (fun c => { c with source := 0 }) (clockedState .running)), 9, by decide⟩,
    ⟨(setClk 9 (fun c => { c with source := 0, holding := true }) (clockedState .running)), 9, by decide⟩,
    ⟨(setClk 9 (fun c => { c with source := 0, divisor := 8, target := 4 }) (clockedState .ready)), 9, by decide⟩,
    ⟨(setGroup 9 (fun g => { g with shutter := 2 }) (atTc 4000 (clockedState .running))), 9, by decide⟩⟩

theorem test_keeperBringUp_hyps :
    (∃ (s : State), (s.kprOpen = true)) ∧
    (∃ (r : FetchResult) (s : State), (toBytes r.file = r.file) ∧ (toBytes r.bundle = r.bundle) ∧ (s.powered = true) ∧
        (s.kpr.state = .rom) ∧ (s.kpr.fwResult = 1) ∧ (s.hif.bme = true) ∧ (firmwareResult r s ≠ 2)) ∧
    (∃ (r : FetchResult) (s : State), (toBytes r.file = r.file) ∧ (s.powered = true) ∧ (s.kpr.state = .rom) ∧
        (s.kpr.fwResult = 1) ∧ (s.hif.bme = true) ∧ (firmwareResult r s = 2) ∧ (r.sillPllOk = true)) ∧
    (∃ (r : FetchResult) (s : State), (toBytes r.file = r.file) ∧ (s.powered = true) ∧ (s.kpr.state = .rom) ∧
        (s.kpr.fwResult = 1) ∧ (s.hif.bme = true) ∧ (firmwareResult r s = 2) ∧ (r.sillPllOk = false)) ∧
    (∃ (_cores : List Nat) (_panes : List (Nat × Nat)) (s : State), (s.powered = true) ∧ (s.kpr.state = .staging) ∧
        (s.kpr.step = 5)) :=
  ⟨⟨liveState .rom, by decide +kernel⟩,
    ⟨emptyFetch, fetchingState, by decide +kernel⟩,
    ⟨goodFetch, { fetchingState with kpr := { fetchingState.kpr with fwLen := 3584 } }, by decide +kernel⟩,
    ⟨{ goodFetch with sillPllOk := false }, { fetchingState with kpr := { fetchingState.kpr with fwLen := 3584 } }, by decide +kernel⟩,
    ⟨[4, 12287], [(0, 1)], { liveState .staging with kpr := { (liveState .staging).kpr with step := 5 } }, by decide +kernel⟩⟩

theorem test_imageCommands_hyps :
    (∃ (s : State), (s.hostUp = true) ∧ (s.kpr.state = .ready ∨ s.kpr.state = .suspended) ∧ (s.dev.loadRun = none)) ∧
    (∃ (l : LoadRun) (_sigOk : Bool) (flips : List (Nat × Nat)) (bad : List Nat) (x : List Nat × State) (s : State),
        (s.powered = true) ∧ (s.dev.loadRun = some l) ∧
        (x = readImage l (flipSymbols 0 flips { s with mem := { s.mem with dpBad := bad } }))) ∧
    (∃ (i : Image) (s : State), (s.hostUp = true) ∧ (s.kpr.state = .ready ∨ s.kpr.state = .suspended) ∧
        (s.dev.loadRun = none) ∧ (s.dev.image = some i)) ∧
    (∃ (i : Image) (s : State), (s.hostUp = true) ∧ (s.kpr.state = .ready ∨ s.kpr.state = .suspended) ∧
        (s.dev.loadRun = none) ∧ (s.dev.image = some i)) ∧
    (∃ (s : State), (s.hostUp = true) ∧ (s.kpr.state = .ready ∨ s.kpr.state = .suspended) ∧ (s.dev.loadRun = none) ∧
        (s.dev.image = none)) ∧
    (∃ (s : State), (s.hostUp = true) ∧ (s.kpr.state = .running) ∧ (s.frm.phase = .inFrame)) ∧
    (∃ (s : State), (s.hostUp = true) ∧ (s.kpr.state = .running) ∧ (s.frm.phase = .waiting)) :=
  ⟨⟨linkedState .ready, by decide⟩,
    ⟨{ first := 0, length := 0, acceptedTc := 0 }, true, [], [], readImage { first := 0, length := 0, acceptedTc := 0 } (flipSymbols 0 [] { loadingState with mem := { loadingState.mem with dpBad := [] } }), loadingState, by decide⟩,
    ⟨bareImage, loadedState .suspended, by decide⟩,
    ⟨bareImage, loadedState .ready, by decide⟩,
    ⟨linkedState .ready, by decide⟩,
    ⟨framedState .inFrame, by decide⟩,
    ⟨framedState .waiting, by decide⟩⟩

theorem test_checkEnds_hyps :
    (∃ (c : CheckRun) (i : Image) (_hops _fibre : Nat) (_f : Forecast) (s : State), (s.powered = true) ∧
        (s.kpr.state = .checking) ∧ (s.dev.image = some i) ∧ (s.dev.checkRun = some c) ∧ (c.fenced = true)) ∧
    (∃ (c : CheckRun) (i : Image) (hops fibre : Nat) (_f : Forecast) (sect code detail : Nat) (s : State), (1 ≤ hops) ∧
        (hops < 2 ^ 16) ∧ (fibre < 2 ^ 16) ∧ (s.powered = true) ∧ (s.kpr.state = .checking) ∧ (s.dev.image = some i) ∧
        (s.dev.checkRun = some c) ∧ (c.fenced = false) ∧
        (s.checkImage { i := i, resume := s.dev.inForce, accepted := c.acceptedTc, hops := hops, fibre := fibre } = some (sect,
          code, detail))) ∧
    (∃ (c : CheckRun) (i : Image) (hops fibre : Nat) (_f : Forecast) (s : State), (1 ≤ hops) ∧ (hops < 2 ^ 16) ∧
        (fibre < 2 ^ 16) ∧ (s.powered = true) ∧ (s.kpr.state = .checking) ∧ (s.dev.image = some i) ∧
        (s.dev.checkRun = some c) ∧ (c.fenced = false) ∧
        (s.checkImage { i := i, resume := s.dev.inForce, accepted := c.acceptedTc, hops := hops, fibre := fibre } = none)) :=
  ⟨⟨{ fromSuspended := true, acceptedTc := 0, fenced := true }, bareImage, 1, 100, noForecast, { checkingState with dev := { checkingState.dev with checkRun := some { fromSuspended := true, acceptedTc := 0, fenced := true } } }, by decide⟩,
    ⟨{ fromSuspended := false, acceptedTc := 0, fenced := false }, poolImage, 1, 100, noForecast, 0, 0x0801, 0, { checkingState with dev := { checkingState.dev with image := some poolImage } }, by decide⟩,
    ⟨{ fromSuspended := false, acceptedTc := 0, fenced := false }, bareImage, 1, 100, noForecast, checkingState, by decide⟩⟩

theorem test_frameCycle_hyps :
    (∃ (i : Image) (_paths : SMap Nat) (s : State), (s.inForceImage = some i) ∧ (s.powered = true) ∧
        (s.kpr.state = .running) ∧ (s.frm.phase = .waiting) ∧ (s.frm.nextAt ≤ s.frm.tc) ∧ (s.dev.suspendReq = false) ∧
        (i.pools = [])) ∧
    (∃ (i : Image) (_losses : List (Nat × Nat × Nat)) (_drained : List (Nat × Nat)) (s : State), (s.inForceImage = some i) ∧
        (s.powered = true) ∧ (s.kpr.state = .running) ∧ (s.frm.phase = .inFrame) ∧ (s.frm.slat + 1 ≤ s.frm.slatsM1) ∧
        ((nth (0, 0) s.frm.slats (s.frm.slat + 1)).2 < s.frm.period) ∧
        (s.frm.frameStart + (nth (0, 0) s.frm.slats (s.frm.slat + 1)).2 ≤ s.frm.tc)) ∧
    (∃ (i : Image) (_f : Forecast) (s : State), (s.inForceImage = some i) ∧ (s.powered = true) ∧ (s.kpr.state = .running) ∧
        (s.frm.phase = .inFrame) ∧ (s.frm.planned = false) ∧ (s.frm.nextAt ≤ s.frm.tc + s.frm.planLead)) ∧
    (∃ (i : Image) (losses : List (Nat × Nat × Nat)) (drained flips : List (Nat × Nat)) (bad : List Nat) (u s : State),
        (s.inForceImage = some i) ∧ (s.powered = true) ∧ (s.kpr.state = .running) ∧ (s.frm.phase = .inFrame) ∧
        (s.frm.planned = true) ∧ (s.frm.nextAt ≤ s.frm.tc) ∧ (s.dev.suspendReq = false) ∧
        (u = rebindLost i (endOutcome (prepareReport (shiftCounters (passFrame (stopWork (endSlat s.frm.period (narrowLosses losses) (drainBefore drained (flipSymbols 0 flips { s with mem := { s.mem with dpBad := bad } }))))))))) ∧
        (u.unserved i = none) ∧ (u.lostLinks = [])) ∧
    (∃ (i : Image) (_losses : List (Nat × Nat × Nat)) (_drained _flips : List (Nat × Nat)) (_bad : List Nat) (s : State),
        (s.inForceImage = some i) ∧ (s.powered = true) ∧ (s.kpr.state = .running) ∧ (s.frm.phase = .inFrame) ∧
        (s.frm.planned = true) ∧ (s.frm.nextAt ≤ s.frm.tc) ∧ (s.dev.suspendReq = true)) ∧
    (∃ (i : Image) (_paths : SMap Nat) (_losses : List (Nat × Nat × Nat)) (_drained _flips : List (Nat × Nat)) (_bad : List Nat) (_f : Forecast) (s : State),
        (s.inForceImage = some i) ∧ (s.frm.tc + s.frm.planLead < s.frm.nextAt) ∧
        (s.frm.tc < s.frm.frameStart + (nth (0, 0) s.frm.slats (s.frm.slat + 1)).2)) :=
  ⟨⟨bareImage, [], framedState .waiting, by decide⟩,
    ⟨bareImage, [(511, 3, 2)], [], framedState .inFrame, by decide⟩,
    ⟨bareImage, noForecast, { framedState .inFrame with frm := { (framedState .inFrame).frm with planned := false } }, by decide⟩,
    ⟨bareImage, [], [], [], [], rebindLost bareImage (endOutcome (prepareReport (shiftCounters (passFrame (stopWork (endSlat (framedState .inFrame).frm.period (narrowLosses []) (drainBefore [] (flipSymbols 0 [] { framedState .inFrame with mem := { (framedState .inFrame).mem with dpBad := [] } })))))))), framedState .inFrame, by decide⟩,
    ⟨bareImage, [], [], [], [], { framedState .inFrame with dev := { (framedState .inFrame).dev with suspendReq := true } }, by decide⟩,
    ⟨bareImage, [], [], [], [], [], noForecast, atTc 65536 (framedState .inFrame), by decide⟩⟩

theorem test_frameRegisterWrites_hyps :
    (∃ (s : State) (p : Nat), (s.hostUp = true) ∧ (s.kpr.state = .running) ∧ (1000 ≤ p) ∧ (p ≤ 67108864) ∧
        (s.frm.planLead + 128 < p) ∧ (s.frm.nextArm = false) ∧ (s.latchOk = true)) ∧
    (∃ (s : State) (p : Nat), (s.hostUp = true) ∧ (s.kpr.state = .running) ∧ (p < 2 ^ 27) ∧
        (p < 1000 ∨ 67108864 < p ∨ p ≤ s.frm.planLead + 128) ∧ (s.frm.nextArm = false) ∧ (s.latchOk = true)) ∧
    (∃ (s : State) (p : Nat), (s.hostUp = true) ∧ (s.kpr.state = .running) ∧ (p < 2 ^ 27) ∧ (s.frm.nextArm = false) ∧
        (s.frm.latch < s.frm.frameStart + 2 * s.frm.period ∨ (s.frm.latch - s.frm.frameStart) % s.frm.period ≠ 0) ∧
        (0 < s.frm.period)) ∧
    (∃ (s : State) (p : Nat), (s.hostUp = true) ∧ (s.kpr.state = .running) ∧ (p < 2 ^ 27) ∧ (s.frm.nextArm = true)) ∧
    (∃ (s : State) (p : Nat), (s.hostUp = true) ∧ (s.kpr.state = .running) ∧ (p < 2 ^ 27) ∧ (s.frm.nextArm = true) ∧
        (s.frm.tc + s.frm.planLead < s.frm.latch)) ∧
    (∃ (s : State) (p : Nat), (s.hostUp = true) ∧ (s.kpr.state = .running) ∧ (p < 2 ^ 27) ∧ (s.frm.nextArm = true) ∧
        (s.frm.latch ≤ s.frm.tc + s.frm.planLead)) ∧
    (∃ (s : State) (p : Nat), (s.hostUp = true) ∧ (s.kpr.state = .running) ∧ (p < 2 ^ 27) ∧ (s.frm.nextArm = false)) ∧
    (∃ (s : State) (d : Nat), (s.hostUp = true) ∧ (s.kpr.state = .ready ∨ s.kpr.state = .suspended) ∧ (4 ≤ d) ∧ (d ≤ 8)) ∧
    (∃ (s : State) (d : Nat), (s.hostUp = true) ∧ (s.kpr.state = .ready ∨ s.kpr.state = .suspended) ∧ (d < 4 ∨ 8 < d) ∧
        (d < 16)) ∧
    (∃ (s : State) (d : Nat), (s.hostUp = true) ∧ (s.kpr.state = .running) ∧ (4 ≤ d) ∧ (d ≤ 8) ∧ (s.clk.nextArm = false) ∧
        (s.latchOk = true)) ∧
    (∃ (s : State) (d : Nat), (s.hostUp = true) ∧ (s.kpr.state = .running) ∧ (4 ≤ d) ∧ (d ≤ 8) ∧ (s.clk.nextArm = false) ∧
        (s.latchOk = false)) ∧
    (∃ (s : State) (d : Nat), (s.hostUp = true) ∧ (s.kpr.state = .running) ∧ (d < 16) ∧ (s.clk.nextArm = true) ∧
        (s.frm.tc + s.frm.planLead < s.frm.latch)) :=
  ⟨⟨framedState .inFrame |> fun s => { s with frm := { s.frm with latch := 85536 } }, 67108864, by decide⟩,
    ⟨framedState .inFrame |> fun s => { s with frm := { s.frm with latch := 85536 } }, 999, by decide⟩,
    ⟨framedState .inFrame |> fun s => { s with frm := { s.frm with latch := 85537 } }, 5000, by decide⟩,
    ⟨armedState, 5000, by decide⟩,
    ⟨armedState, 5000, by decide⟩,
    ⟨atTc 95536 armedState, 5000, by decide⟩,
    ⟨framedState .inFrame, 134217727, by decide⟩,
    ⟨liveState .suspended, 8, by decide⟩,
    ⟨liveState .suspended, 9, by decide⟩,
    ⟨framedState .inFrame |> fun s => { s with frm := { s.frm with latch := 85536 } }, 6, by decide⟩,
    ⟨framedState .inFrame, 6, by decide⟩,
    ⟨{ armedState with clk := { armedState.clk with nextArm := true } }, 15, by decide⟩⟩

theorem test_capCoolAndMemoryRegisters_hyps :
    (∃ (s : State) (c : Nat), (s.hostUp = true) ∧ (s.inStates capStates = true) ∧ (c ≤ 1600) ∧ (s.pwr.cap8 ≤ c) ∧
        (600 ≤ s.pwr.cap8)) ∧
    (∃ (s : State) (c : Nat), (s.hostUp = true) ∧ (s.inStates capStates = true) ∧ (600 ≤ c) ∧ (c ≤ s.pwr.cap1) ∧
        (s.pwr.cap1 ≤ 1600)) ∧
    (∃ (s : State) (c : Nat), (s.hostUp = true) ∧ (s.inStates capStates = true) ∧ (c < 2 ^ 16) ∧ (s.pwr.cap1 < c ∨ c < 600)) ∧
    (∃ (s : State) (c : Nat), (s.hostUp = true) ∧ (s.inStates capStates = true) ∧ (c < 2 ^ 16) ∧
        (1600 < c ∨ c < s.pwr.cap8)) ∧
    (∃ (s : State) (v : Nat), (s.hostUp = true) ∧ (s.inStates capStates = true) ∧ (v < 2 ^ 16)) ∧
    (∃ (s : State) (h : Nat) (_on : Bool), (s.hostUp = true) ∧ (s.inStates memWriteStates = true) ∧ (1 ≤ h) ∧ (h ≤ 168)) ∧
    (∃ (s : State) (h : Nat) (_on : Bool), (s.hostUp = true) ∧ (s.inStates memWriteStates = true) ∧ (h = 0 ∨ 168 < h) ∧
        (h < 256)) ∧
    (∃ (s : State) (w n : Nat), (s.hostUp = true) ∧ (s.inStates memWriteStates = true) ∧ (1 ≤ w) ∧ (w < 2 ^ 16) ∧ (1 ≤ n) ∧
        (n < 2 ^ 24)) ∧
    (∃ (s : State) (w n : Nat), (s.hostUp = true) ∧ (s.inStates memWriteStates = true) ∧ (w < 2 ^ 16) ∧ (n < 2 ^ 24) ∧
        (w = 0 ∨ n = 0)) :=
  ⟨⟨liveState .ready, 1600, by decide⟩,
    ⟨liveState .running, 600, by decide⟩,
    ⟨liveState .running, 599, by decide⟩,
    ⟨liveState .running, 1601, by decide⟩,
    ⟨liveState .staging, 500, by decide⟩,
    ⟨liveState .ready, 168, false, by decide⟩,
    ⟨liveState .ready, 169, true, by decide⟩,
    ⟨liveState .ready, 65535, 1, by decide⟩,
    ⟨liveState .ready, 0, 1, by decide⟩⟩

theorem test_bankAndDebugRegisters_hyps :
    (∃ (s : State) (n b : Nat), (s.hostUp = true) ∧ (s.inStates [.ready, .running, .suspended] = true) ∧ (n < 12288) ∧
        (b < 24)) ∧
    (∃ (s : State) (n b : Nat), (s.hostUp = true) ∧ (s.inStates [.ready, .running, .suspended] = true) ∧ (n < 16384) ∧
        (b < 32) ∧ (12288 ≤ n ∨ 24 ≤ b)) ∧
    (∃ (s : State) (entry op fmt row cm : Nat), (s.hostUp = true) ∧ (s.inStates [.ready, .running, .suspended] = true) ∧
        (entry < 256) ∧ (op < 16) ∧ (fmt < 4) ∧ (row < 256) ∧ (cm < 2 ^ 16) ∧
        (((s.unitOf s.bnk.selTile s.bnk.selBank).slot 6).state = 1 ∨ ((s.unitOf s.bnk.selTile s.bnk.selBank).slot 6).state = 2)) ∧
    (∃ (s : State) (entry op fmt row cm : Nat), (s.hostUp = true) ∧ (s.inStates [.ready, .running, .suspended] = true) ∧
        (entry < 256) ∧ (op < 16) ∧ (fmt < 4) ∧ (row < 256) ∧ (cm < 2 ^ 16) ∧
        (((s.unitOf s.bnk.selTile s.bnk.selBank).slot 6).free = true) ∧
        (s.bankFenced s.bnk.selTile s.bnk.selBank = true)) ∧
    (∃ (s : State) (entry op fmt row cm : Nat), (s.hostUp = true) ∧ (s.inStates [.ready, .running, .suspended] = false) ∧
        (entry < 256) ∧ (op < 16) ∧ (fmt < 4) ∧ (row < 256) ∧ (cm < 2 ^ 16)) ∧
    (∃ (s : State) (entry op fmt row cm : Nat), (s.hostUp = true) ∧ (s.inStates [.ready, .running, .suspended] = true) ∧
        (entry < 256) ∧ (op < 16) ∧ (fmt < 4) ∧ (row < 256) ∧ (cm < 2 ^ 16) ∧
        (((s.unitOf s.bnk.selTile s.bnk.selBank).slot 6).free = true) ∧
        ((s.unitOf s.bnk.selTile s.bnk.selBank).slots.length = 8) ∧ (s.bankFenced s.bnk.selTile s.bnk.selBank = false)) ∧
    (∃ (s : State) (core slot base : Nat), (s.hostUp = true) ∧ (s.dbgOpen = true) ∧ (core < 12288) ∧ (slot < 4) ∧
        (base ≤ 0x7F80)) ∧
    (∃ (s : State) (core slot base : Nat), (s.hostUp = true) ∧ (s.dbgOpen = true) ∧ (core < 16384) ∧ (slot < 4) ∧
        (base < 0x8000) ∧ (12288 ≤ core ∨ 0x7F80 < base)) ∧
    (∃ (s : State) (_a _b : Bool), (s.hostUp = true) ∧ (s.dbgOpen = true)) ∧
    (∃ (s : State) (core slot base v : Nat), (s.hostUp = true) ∧ (s.dbgOpen = false) ∧ (core < 16384) ∧ (slot < 4) ∧
        (base < 0x8000) ∧ (v < 4)) ∧
    (∃ (s : State) (v : Nat), (s.hostUp = true) ∧ (s.inStates memStates = true) ∧ (v ≤ 704)) ∧
    (∃ (s : State) (v : Nat), (s.hostUp = true) ∧ (704 < v) ∧ (v < 1024)) :=
  ⟨⟨liveState .ready, 12287, 23, by decide⟩,
    ⟨liveState .ready, 12288, 23, by decide⟩,
    ⟨queuedHost, 33, 2, 1, 128, 65535, by decide⟩,
    ⟨fenceUnits 2 [{ kind := 4, unit := 0, sub := 0 }] (liveState .ready), 33, 2, 1, 128, 65535, by decide⟩,
    ⟨liveState .staging, 33, 2, 1, 128, 65535, by decide⟩,
    ⟨liveState .ready, 33, 2, 1, 128, 65535, by decide⟩,
    ⟨unlockedState, 12287, 3, 0x7F80, by decide⟩,
    ⟨unlockedState, 12288, 3, 0x7F80, by decide⟩,
    ⟨unlockedState, true, false, by decide⟩,
    ⟨liveState .ready, 5, 1, 0, 3, by decide⟩,
    ⟨liveState .ready, 704, by decide⟩,
    ⟨liveState .ready, 705, by decide⟩⟩

theorem test_registerWriteRules_hyps :
    (∃ (s : State) (off w v : Nat), (s.hostUp = true) ∧ (off < 2 ^ 24) ∧ (w = 1 ∨ w = 2) ∧ (v < 2 ^ (8 * w))) ∧
    (∃ (s : State) (off w v : Nat), (s.hostUp = true) ∧ (off < 2 ^ 24) ∧ (w = 4 ∨ w = 8) ∧ (off % w ≠ 0) ∧
        (v < 2 ^ (8 * w))) ∧
    (∃ (s : State) (v : Nat), (s.hostUp = true) ∧ (v < 2 ^ 64)) ∧
    (∃ (s : State) (v : Nat), (s.hostUp = true) ∧ (v < 2 ^ 64) ∧ (s.kpr.state = .ready ∨ s.kpr.state = .suspended)) ∧
    (∃ (s : State) (v : Nat), (s.hostUp = true) ∧ (v < 2 ^ 64) ∧ (s.kpr.state = .running)) ∧
    (∃ (s : State) (lo hi : Nat), (s.hostUp = true) ∧ (lo < 2 ^ 32) ∧ (hi < 2 ^ 32) ∧ (s.kpr.state = .suspended) ∧
        (s.frm.startReg < 2 ^ 64)) ∧
    (∃ (s : State) (off w v : Nat), (s.hostUp = false) ∧ (off < 2 ^ 24) ∧ (w = 1 ∨ w = 2 ∨ w = 4 ∨ w = 8) ∧
        (v < 2 ^ (8 * w))) ∧
    (∃ (s : State) (v : Nat), (s.hif.linkUp = true) ∧ (v < 2 ^ 32)) ∧
    (∃ (s : State) (v : Nat), (s.hif.linkUp = true) ∧ (v < 2 ^ 32)) :=
  ⟨⟨liveState .ready, 0x28, 2, 65535, by decide⟩,
    ⟨liveState .ready, 0x300024, 8, 1, by decide⟩,
    ⟨liveState .ready, 1, by decide⟩,
    ⟨liveState .suspended, 65536, by decide⟩,
    ⟨liveState .running, 65536, by decide⟩,
    ⟨liveState .suspended, 7, 2, by decide⟩,
    ⟨bootState .oscWait, 0x28, 4, 9, by decide⟩,
    ⟨linkedState .ready, 0x400000, by decide⟩,
    ⟨{ linkedState .ready with hif := { (linkedState .ready).hif with aer := { (linkedState .ready).hif.aer with status := 0x400010 } } }, 0x400000, by decide⟩⟩

theorem test_queuePairRegisters_hyps1 :
    (∃ (s : State) (q vec n us sz : Nat), (s.hostUp = true) ∧ (s.inStates qpStates = true) ∧ (q < 256) ∧ (vec < 64) ∧
        (n < 256) ∧ (us < 2 ^ 16) ∧ (4 ≤ sz) ∧ (sz ≤ 12) ∧ (s.kpr.features.req = true) ∧ ((s.qpOf q).enable = false) ∧
        ((s.qpOf q).busy = false) ∧ ((s.qpOf q).sqBase ≠ 0) ∧ ((s.qpOf q).cqBase ≠ 0)) ∧
    (∃ (s : State) (q v : Nat), (s.hostUp = true) ∧ (s.inStates qpStates = true) ∧ (q < 256) ∧ (v < 2 ^ 63) ∧
        (s.kpr.features.req = false)) ∧
    (∃ (s : State) (q sz : Nat), (s.hostUp = true) ∧ (s.inStates qpStates = true) ∧ (q < 256) ∧ (sz < 4 ∨ 12 < sz) ∧
        (sz < 16) ∧ (s.kpr.features.req = true)) ∧
    (∃ (s : State) (q v : Nat), (s.hostUp = true) ∧ (s.inStates qpStates = true) ∧ (q < 256) ∧ (v < 2 ^ 63) ∧
        ((s.qpOf q).enable = true) ∧ (s.req.seqs.all (fun e => decide (e.2.qp ≠ q)) = true) ∧
        (s.req.forks.all (fun f => decide (f.qp ≠ q)) = true)) ∧
    (∃ (s : State) (q w v : Nat), (s.bar4Live = true) ∧ (q < 256) ∧ (w = 4 ∨ w = 8) ∧ ((s.qpOf q).enable = true) ∧
        (v % 4096 < (s.qpOf q).size)) ∧
    (∃ (s : State) (q w v : Nat), (s.bar4Live = true) ∧ (q < 256) ∧ (w = 4 ∨ w = 8) ∧
        ((s.qpOf q).enable = false ∨ (s.qpOf q).size ≤ v % 4096)) ∧
    (∃ (s : State) (q w v : Nat), (s.bar4Live = true) ∧ (q < 256) ∧ (w = 4 ∨ w = 8) ∧
        ((s.qpOf q).enable = false ∨ (s.qpOf q).size ≤ v % 4096)) ∧
    (∃ (s : State) (q w v : Nat), (s.bar4Live = true) ∧ (q < 256) ∧ (w = 4 ∨ w = 8) ∧ ((s.qpOf q).enable = true) ∧
        (v % 4096 < (s.qpOf q).size) ∧
        ((s.qpOf q).usedSlots < (v % 4096 + (s.qpOf q).size - (s.qpOf q).cqHead) % (s.qpOf q).size)) :=
  ⟨⟨setQp 255 (fun p => { p with sqBase := 1, cqBase := 2 }) serviceState, 255, 63, 4, 10, 4, by decide⟩,
    ⟨liveState .ready, 7, 4, by decide⟩,
    ⟨serviceState, 7, 13, by decide⟩,
    ⟨serviceState, 4, 0, by decide⟩,
    ⟨serviceState, 3, 8, 15, by decide⟩,
    ⟨serviceState, 3, 4, 16, by decide⟩,
    ⟨serviceState, 3, 4, 16, by decide⟩,
    ⟨serviceState, 3, 8, 4, by decide⟩⟩

theorem test_queuePairRegisters_hyps2 :
    (∃ (s : State) (q w v : Nat), (s.bar4Live = true) ∧ (q < 256) ∧ (w = 4 ∨ w = 8) ∧ ((s.qpOf q).enable = true) ∧
        (v % 4096 < (s.qpOf q).size) ∧
        ((v % 4096 + (s.qpOf q).size - (s.qpOf q).cqHead) % (s.qpOf q).size ≤ (s.qpOf q).usedSlots) ∧
        ((s.qpOf q).held = []) ∧ ((s.qpOf q).parked = [])) ∧
    (∃ (s : State) (off w _v : Nat),
        (s.bar4Live = false ∨ (w ≠ 4 ∧ w ≠ 8) ∨ off % w ≠ 0 ∨ (off % 4096 ≠ 0 ∧ off % 4096 ≠ 8)) ∧ (off < 2 ^ 20)) ∧
    (∃ (s : State) (q : Nat), (q < 256) ∧ ((s.qpOf q).enable = true) ∧ (0 < (s.qpOf q).unsignalled) ∧
        (0 < (s.qpOf q).coalUs) ∧ ((s.qpOf q).unsignalledAt + (s.qpOf q).coalUs * 1000 ≤ s.frm.tc)) ∧
    (∃ (s : State) (q : Nat), (q < 256) ∧ ((s.qpOf q).enable = true) ∧ ((s.qpOf q).fetchFailed = 1) ∧
        ((s.qpOf q).failedAt + 1000000 ≤ s.frm.tc)) ∧
    (∃ (s : State) (q : Nat) (_e : ReadEnd), (s.powered = true) ∧ (s.hif.bme = true) ∧ (s.canFetch q = true)) ∧
    (∃ (s : State) (_e : ReadEnd), (s.powered = true) ∧ (s.hif.bme = true)) ∧
    (∃ (s : State) (n : Nat) (_e : ReadEnd) (a : AppendRun) (i : Nat), (s.powered = true) ∧ (s.hif.bme = true) ∧
        ((s.seqOf n).appends = [a]) ∧ ((s.seqOf n).known.findIdx (fun t => t.isNone) = i) ∧ (i ≤ a.left) ∧
        (i < (s.seqOf n).known.length) ∧ ((s.seqOf n).work = [])) ∧
    (∃ (s : State) (_r : HostReader) (_e : ReadEnd), (s.powered = false ∨ s.hif.bme = false)) :=
  ⟨⟨setQp 3 (fun p => { p with cqTail := 3 }) serviceState, 3, 4, 3, by decide⟩,
    ⟨serviceState, 4100, 4, 7, by decide⟩,
    ⟨setQp 3 (fun p => { p with unsignalled := 2, unsignalledAt := 70000, coalUs := 10 }) serviceState, 3, by decide⟩,
    ⟨atTc 1000007 (setQp 3 (fun p => { p with fetchFailed := 1, failedAt := 7 }) serviceState), 3, by decide⟩,
    ⟨serviceState, 3, .aborted, by decide⟩,
    ⟨serviceState, .timeout, by decide⟩,
    ⟨bufferSeq, 5, .unsupported, { tag := 9, left := 2, buffer := 4096 }, 1, by decide⟩,
    ⟨{ serviceState with hif := { serviceState.hif with bme := false } }, .fetch 3, .timeout, by decide⟩⟩

theorem test_entriesAreAccepted_hyps :
    (∃ (s : State) (q : Nat) (b e : List Nat), (q < 256) ∧ (e = entryBytes 1 b) ∧ (s.canFetch q = true) ∧
        ((s.qpOf q).parked.any (sameSeq e) = false) ∧ (s.stateReason false = 0) ∧
        (allZero e [(1, 3), (12, 4), (17, 1), (20, 44)] = true) ∧ (leAt e 16 1 = 0xFF ∨ leAt e 16 1 ∈ s.serviceSets)) ∧
    (∃ (s : State) (q : Nat) (b e : List Nat), (q < 256) ∧ (e = entryBytes 2 b) ∧ (s.canFetch q = true) ∧
        ((s.qpOf q).parked.any (sameSeq e) = false) ∧ (s.stateReason false = 0) ∧
        (allZero e [(1, 3), (12, 4), (20, 4)] = true) ∧ ((s.seqOf (entrySeq e)).state = .idle) ∧
        ((s.seqOf (entrySeq e)).qp = q) ∧
        (s.req.forks.all (fun f => decide (f.child ≠ entrySeq e) && decide (f.parent ≠ entrySeq e)) = true) ∧
        (1 ≤ leAt e 16 4) ∧ (leAt e 16 4 ≤ 8) ∧ ((s.seqOf (entrySeq e)).workUsed < 4) ∧
        (appendTooLong (leAt e 16 4) (s.seqOf (entrySeq e)) s = false) ∧ ((s.seqOf (entrySeq e)).gen.isSome = true) ∧
        ((s.seqOf (entrySeq e)).work = [])) ∧
    (∃ (s : State) (q : Nat) (b e : List Nat), (q < 256) ∧ (e = entryBytes 2 b) ∧ (s.canFetch q = true) ∧
        ((s.qpOf q).parked.any (sameSeq e) = false) ∧ (s.stateReason false = 0) ∧
        (allZero e [(1, 3), (12, 4), (20, 4)] = true) ∧ ((s.seqOf (entrySeq e)).state = .idle) ∧
        ((s.seqOf (entrySeq e)).qp = q) ∧
        (s.req.forks.all (fun f => decide (f.child ≠ entrySeq e) && decide (f.parent ≠ entrySeq e)) = true) ∧
        (8 < leAt e 16 4) ∧ (leAt e 16 4 ≤ 65535) ∧ (leAt e 24 8 % 4 = 0) ∧ ((s.seqOf (entrySeq e)).workUsed < 4) ∧
        (appendTooLong (leAt e 16 4) (s.seqOf (entrySeq e)) s = false) ∧ ((s.seqOf (entrySeq e)).gen.isSome = true) ∧
        ((s.seqOf (entrySeq e)).work = [])) ∧
    (∃ (s : State) (q : Nat) (b e : List Nat), (q < 256) ∧ (e = entryBytes 2 b) ∧ (s.canFetch q = true) ∧
        ((s.qpOf q).parked.any (sameSeq e) = false) ∧ (s.stateReason false = 0) ∧
        (allZero e [(1, 3), (12, 4), (20, 4)] = true) ∧ ((s.seqOf (entrySeq e)).state = .idle) ∧
        ((s.seqOf (entrySeq e)).qp = q) ∧
        (s.req.forks.all (fun f => decide (f.child ≠ entrySeq e) && decide (f.parent ≠ entrySeq e)) = true) ∧
        (2 ≤ leAt e 16 4) ∧ (leAt e 16 4 ≤ 8) ∧ (appendTooLong (leAt e 16 4) (s.seqOf (entrySeq e)) s = false) ∧
        ((s.seqOf (entrySeq e)).tags = []) ∧ ((s.seqOf (entrySeq e)).pending = none) ∧
        ((s.seqOf (entrySeq e)).unprocessed = [])) ∧
    (∃ (s : State) (q : Nat) (b e : List Nat), (q < 256) ∧ (e = entryBytes 3 b) ∧ (s.canFetch q = true) ∧
        ((s.qpOf q).parked.any (sameSeq e) = false) ∧ (s.stateReason false = 0) ∧
        (allZero e [(1, 3), (12, 4), (37, 3), (48, 16)] = true) ∧ ((s.seqOf (entrySeq e)).state = .idle) ∧
        ((s.seqOf (entrySeq e)).qp = q) ∧
        (s.req.forks.all (fun f => decide (f.child ≠ entrySeq e) && decide (f.parent ≠ entrySeq e)) = true) ∧
        (s.genOk (parseGen e) = true) ∧ ((s.seqOf (entrySeq e)).tags = []) ∧
        ((s.seqOf (entrySeq e)).pending.isSome = true) ∧ ((s.seqOf (entrySeq e)).unprocessed = []) ∧
        ((s.seqOf (entrySeq e)).len + 1 ≤ s.maxLen (s.seqOf (entrySeq e)).poolSet)) ∧
    (∃ (s : State) (q : Nat) (b e : List Nat), (q < 256) ∧ (e = entryBytes 4 b) ∧ (s.canFetch q = true) ∧
        ((s.qpOf q).parked.any (sameSeq e) = false) ∧ (0 < s.freeSlots q) ∧ (s.stateReason false ≠ 0)) ∧
    (∃ (s : State) (q : Nat) (b e : List Nat), (q < 256) ∧ (e = entryBytes 4 b) ∧ (s.canFetch q = true) ∧
        ((s.qpOf q).parked.any (sameSeq e) = false) ∧ (0 < s.freeSlots q) ∧ (s.stateReason false = 0) ∧
        (allZero e [(1, 3), (12, 52)] = false)) ∧
    (∃ (s : State) (q : Nat) (b e : List Nat), (q < 256) ∧ (e = entryBytes 4 b) ∧ (s.canFetch q = true) ∧
        ((s.qpOf q).parked.any (sameSeq e) = false) ∧ (s.stateReason false = 0) ∧
        (allZero e [(1, 3), (12, 52)] = true) ∧ (0 < s.freeSlots q) ∧
        ((s.seqOf (entrySeq e)).state = .free ∨ (s.seqOf (entrySeq e)).qp ≠ q)) ∧
    (∃ (s : State) (q : Nat) (b e : List Nat), (q < 256) ∧ (e = entryBytes 1 b) ∧ (s.canFetch q = false)) :=
  ⟨⟨serviceState, 3, entry 1 9 0 255 [], entryBytes (nth 0 (entry 1 9 0 255 []) 0) (entry 1 9 0 255 []), by decide⟩,
    ⟨busySeq, 3, entry 2 9 5 1 [77], entryBytes (nth 0 (entry 2 9 5 1 [77]) 0) (entry 2 9 5 1 [77]), by decide⟩,
    ⟨busySeq, 3, entry 2 9 5 9 [], entryBytes (nth 0 (entry 2 9 5 9 []) 0) (entry 2 9 5 9 []), by decide⟩,
    ⟨freshSeq, 3, entry 2 9 5 8 [77, 78], entryBytes (nth 0 (entry 2 9 5 8 [77, 78]) 0) (entry 2 9 5 8 [77, 78]), by decide⟩,
    ⟨readySeq, 3, genEntry, entryBytes (nth 0 (genEntry) 0) (genEntry), by decide⟩,
    ⟨{ serviceState with req := { serviceState.req with serving := false } }, 3, entry 4 9 5 0 [], entryBytes (nth 0 (entry 4 9 5 0 []) 0) (entry 4 9 5 0 []), by decide⟩,
    ⟨serviceState, 3, entry 4 9 5 1 [], entryBytes (nth 0 (entry 4 9 5 1 []) 0) (entry 4 9 5 1 []), by decide⟩,
    ⟨serviceState, 3, entry 4 9 5 0 [], entryBytes (nth 0 (entry 4 9 5 0 []) 0) (entry 4 9 5 0 []), by decide⟩,
    ⟨serviceState, 9, entry 1 9 0 255 [], entryBytes (nth 0 (entry 1 9 0 255 []) 0) (entry 1 9 0 255 []), by decide⟩⟩

theorem test_sequencesForkAndClose_hyps :
    (∃ (s s2 : State) (q : Nat) (b e : List Nat) (pages : List Page), (q < 256) ∧ (e = entryBytes 4 b) ∧
        (s.canFetch q = true) ∧ ((s.qpOf q).parked.any (sameSeq e) = false) ∧ (s.stateReason false = 0) ∧
        (allZero e [(1, 3), (12, 52)] = true) ∧ (s.cqFull q = false) ∧ ((s.seqOf (entrySeq e)).state = .idle) ∧
        ((s.seqOf (entrySeq e)).qp = q) ∧
        (s.req.forks.all (fun f => decide (f.child ≠ entrySeq e) && decide (f.parent ≠ entrySeq e)) = true) ∧
        ((s.seqOf (entrySeq e)).tags = []) ∧ (s.sharesFull (s.seqOf (entrySeq e)) = false) ∧ (s.freeContexts ≠ []) ∧
        (s.freeTables (s.seqOf (entrySeq e)).poolSet ≠ []) ∧
        (forkPages (s.poolsOf (s.seqOf (entrySeq e)).poolSet) 0 (s.seqOf (entrySeq e)).pages [] (passHead q s) = some (pages,
          s2))) ∧
    (∃ (s : State) (f : ForkRun) (child : Nat) (_flips : List (Nat × Nat)) (_bad : List Nat), (child < 16384) ∧
        (s.req.forks.find? (fun g => decide (g.child = child)) = some f) ∧ (s.powered = true) ∧
        ((s.seqOf f.parent).steps = [])) ∧
    (∃ (s : State) (q : Nat) (b e : List Nat), (q < 256) ∧ (e = entryBytes 5 b) ∧ (s.canFetch q = true) ∧
        ((s.qpOf q).parked.any (sameSeq e) = false) ∧ (s.stateReason true = 0) ∧ (allZero e [(2, 2), (12, 52)] = true) ∧
        (0 < s.freeSlots q) ∧ (nth 0 e 1 = 1) ∧ ((s.seqOf (entrySeq e)).state = .idle) ∧
        ((s.seqOf (entrySeq e)).qp = q) ∧
        (s.req.forks.all (fun f => decide (f.child ≠ entrySeq e) && decide (f.parent ≠ entrySeq e)) = true)) ∧
    (∃ (s : State) (q : Nat) (b e : List Nat), (q < 256) ∧ (e = entryBytes 5 b) ∧ (s.canFetch q = true) ∧
        ((s.qpOf q).parked.any (sameSeq e) = false) ∧ (s.stateReason true = 0) ∧ (allZero e [(1, 3), (12, 52)] = true) ∧
        (0 < s.freeSlots q) ∧ ((s.seqOf (entrySeq e)).state = .idle) ∧ ((s.seqOf (entrySeq e)).qp = q) ∧
        (s.req.forks.all (fun f => decide (f.child ≠ entrySeq e) && decide (f.parent ≠ entrySeq e)) = true) ∧
        ((s.seqOf (entrySeq e)).steps = [])) ∧
    (∃ (s : State) (q : Nat) (b e : List Nat), (q < 256) ∧ (e = entryBytes (queryOpcode b) b) ∧ (s.canFetch q = true) ∧
        ((s.qpOf q).parked.any (sameSeq e) = false) ∧ (s.stateReason true = 0) ∧ (allZero e [(1, 3), (12, 52)] = true) ∧
        (nth 0 e 0 = 6) ∧ (0 < s.freeSlots q) ∧ ((s.seqOf (entrySeq e)).state ≠ .free) ∧
        ((s.seqOf (entrySeq e)).qp = q) ∧
        (s.req.forks.all (fun f => decide (f.child ≠ entrySeq e) && decide (f.parent ≠ entrySeq e)) = true)) ∧
    (∃ (s : State) (q : Nat) (b e : List Nat), (q < 256) ∧ (e = entryBytes (queryOpcode b) b) ∧
        (nth 0 e 0 = 0 ∨ 6 < nth 0 e 0) ∧ (s.canFetch q = true) ∧ ((s.qpOf q).parked.any (sameSeq e) = false) ∧
        (0 < s.freeSlots q) ∧ (s.stateReason true = 0)) ∧
    (∃ (s : State) (q : Nat) (b e : List Nat), (q < 256) ∧ (e = entryBytes (queryOpcode b) b) ∧ (s.canFetch q = true) ∧
        ((s.qpOf q).parked.any (sameSeq e) = true ∨ s.freeSlots q = 0)) :=
  ⟨⟨freshSeq, passHead 3 freshSeq, 3, entry 4 9 5 0 [], entryBytes (nth 0 (entry 4 9 5 0 []) 0) (entry 4 9 5 0 []), [], by decide⟩,
    ⟨forkedSeq, { tag := 9, qp := 3, parent := 5, child := 6 }, 6, [], [], by decide⟩,
    ⟨busySeq, 3, entry 261 9 5 0 [], entryBytes (nth 0 (entry 261 9 5 0 []) 0) (entry 261 9 5 0 []), by decide⟩,
    ⟨busySeq, 3, entry 5 9 5 0 [], entryBytes (nth 0 (entry 5 9 5 0 []) 0) (entry 5 9 5 0 []), by decide⟩,
    ⟨busySeq, 3, entry 6 9 5 0 [], entryBytes (nth 0 (entry 6 9 5 0 []) 0) (entry 6 9 5 0 []), by decide⟩,
    ⟨serviceState, 3, entry 7 9 5 0 [], entryBytes (nth 0 (entry 7 9 5 0 []) 0) (entry 7 9 5 0 []), by decide⟩,
    ⟨setQp 3 (fun p => { p with cqTail := 15 }) serviceState, 3, entry 6 9 5 0 [], entryBytes (nth 0 (entry 6 9 5 0 []) 0) (entry 6 9 5 0 []), by decide⟩⟩

theorem test_completions_hyps :
    ((serviceState.qpOf 3).enable = true ∧ (serviceState.qpOf 3).held = [] ∧ 0 < serviceState.freeSlots 3) ∧
    ((setQp 3 (fun p => { p with cqTail := 15 }) serviceState).qpOf 3).enable = true ∧
    (setQp 3 (fun p => { p with cqTail := 15 }) serviceState).freeSlots 3 = 0 ∧ (serviceState.qpOf 200).enable = false := by
  decide

theorem test_lanesAndStarvation_hyps :
    (∃ (s : State) (_late : List Nat) (_reads : List (Nat × List Nat)) (_bad : List Nat), (s.powered = true) ∧
        (s.kpr.state = .running) ∧ (s.frm.phase = .inFrame) ∧ (s.req.serving = false ∨ s.frm.count ≤ s.req.settled) ∧
        (s.req.filled ≠ s.frm.count + 2)) ∧
    (∃ (s : State) (_late : List Nat) (_reads : List (Nat × List Nat)) (_bad : List Nat),
        (s.req.filled = s.frm.count + 2 ∨ s.kpr.state ≠ .running ∨ s.frm.phase ≠ .inFrame) ∧ (s.mem.dpBad = [])) ∧
    (∃ (s : State) (j : Nat), (j < 512) ∧ (s.powered = true) ∧ (64 ≤ mapGet 0 s.req.starved j)) ∧
    (∃ (s : State) (j : Nat), (j < 512) ∧ (mapGet 0 s.req.starved j < 64)) :=
  ⟨⟨serviceState, [5, 16383], [], [], by decide⟩,
    ⟨{ serviceState with req := { serviceState.req with filled := 2 } }, [5], [], [], by decide⟩,
    ⟨{ serviceState with req := { serviceState.req with starved := [(2, 64)] } }, 2, by decide⟩,
    ⟨{ serviceState with req := { serviceState.req with starved := [(2, 63)] } }, 2, by decide⟩⟩

theorem test_descriptorsAreDispatched_hyps :
    (∃ (s : State) (n : Nat) (d : Next) (q : UnitQ), (n < 12288) ∧ (s.nextDesc n = some d) ∧ (queueOf d.w0 = some q) ∧
        ((s.coreRec n).waiting q < 8)) ∧
    (∃ (s : State) (n : Nat) (d : Next) (q : UnitQ), (n < 12288) ∧ (s.nextDesc n = some d) ∧ (queueOf d.w0 = some q) ∧
        (8 ≤ (s.coreRec n).waiting q)) ∧
    (∃ (s : State) (n : Nat) (d : Next), (n < 12288) ∧ (s.nextDesc n = some d) ∧ (queueOf d.w0 = none)) ∧
    (∃ (s : State) (n : Nat) (_p : Bool), (n < 12288) ∧ (s.nextDesc n = none)) ∧
    (∃ (s : State) (n : Nat) (d : Next), (n < 12288) ∧ (s.nextDesc n = some d)) ∧
    (∃ (s : State) (n qi : Nat) (e : QEntry), (n < 12288) ∧ (qi < 6) ∧ (s.coreRuns n = true) ∧
        ((s.coreRec n).queue.find? (fun e => decide (e.q = queueAt qi) && e.done) = some e) ∧ (bit e.w0 36 = false)) ∧
    (∃ (s : State) (n qi : Nat) (e : QEntry), (n < 12288) ∧ (qi < 6) ∧ (s.coreRuns n = true) ∧
        ((s.coreRec n).queue.find? (fun e => decide (e.q = queueAt qi) && e.done) = some e) ∧ (bit e.w0 36 = true) ∧
        ((s.ctxOf n e.slot).ctr (field e.w0 32 4) ≠ 65535)) ∧
    (∃ (s : State) (n qi : Nat) (e : QEntry), (n < 12288) ∧ (qi < 6) ∧ (s.coreRuns n = true) ∧
        ((s.coreRec n).queue.find? (fun e => decide (e.q = queueAt qi) && e.done) = some e) ∧ (bit e.w0 36 = true) ∧
        ((s.ctxOf n e.slot).ctr (field e.w0 32 4) = 65535)) ∧
    (∃ (s : State) (n qi : Nat), (n < 12288) ∧ (qi < 6) ∧
        ((s.coreRec n).queue.find? (fun e => decide (e.q = queueAt qi) && e.done) = none)) :=
  ⟨⟨coreState (2 ^ 60) 0, 0, { slot := 0, role := 0, idx := 0, len := 2, w0 := 2 ^ 60, w1 := 0 }, .transfer, by decide⟩,
    ⟨fullQueue, 0, { slot := 0, role := 0, idx := 0, len := 2, w0 := 2 ^ 60, w1 := 0 }, .transfer, by decide⟩,
    ⟨coreState (9 * 2 ^ 60) 0, 0, { slot := 0, role := 0, idx := 0, len := 2, w0 := 9 * 2 ^ 60, w1 := 0 }, by decide⟩,
    ⟨framedState .inFrame, 12287, true, by decide⟩,
    ⟨coreState (2 ^ 60) 0, 0, { slot := 0, role := 0, idx := 0, len := 2, w0 := 2 ^ 60, w1 := 0 }, by decide⟩,
    ⟨setCore 0 (fun c => { c with queue := [{ waitingEntry 0 with started := true, done := true }] }) (coreState (2 ^ 60) 0), 0, 0, { waitingEntry 0 with started := true, done := true }, by decide⟩,
    ⟨doneState, 0, 0, doneEntry0, by decide⟩,
    ⟨setCtx 0 0 (fun c => { c with ctrs := List.replicate 16 65535 }) doneState, 0, 0, doneEntry0, by decide⟩,
    ⟨fullQueue, 0, 0, by decide⟩⟩

theorem test_waitsPass_hyps1 :
    (∃ (s : State) (n : Nat) (d : Next), (n < 12288) ∧ (s.nextDesc n = some d) ∧ (kindOf d.w0 = 9) ∧ (field d.w0 28 4 = 0) ∧
        ((s.ctxOf n d.slot).preMet d.w0 = true) ∧
        (field d.w0 7 16 ≤ ((s.ctxOf n d.slot).consumePre d.w0).ctr (field d.w0 23 4))) ∧
    (∃ (s : State) (n : Nat) (d : Next), (n < 12288) ∧ (s.nextDesc n = some d) ∧ (kindOf d.w0 = 9) ∧ (field d.w0 28 4 = 1) ∧
        ((s.ctxOf n d.slot).preMet d.w0 = true) ∧
        (s.frm.frameStart + (nth (0, 0) s.frm.slats (field d.w1 0 4)).2 ≤ s.frm.tc)) ∧
    (∃ (s : State) (n : Nat) (d : Next), (n < 12288) ∧ (s.nextDesc n = some d) ∧ (kindOf d.w0 = 9) ∧ (field d.w0 28 4 = 2) ∧
        ((s.ctxOf n d.slot).preMet d.w0 = true) ∧ (s.frm.frameStart + field d.w1 0 27 ≤ s.frm.tc)) ∧
    (∃ (s : State) (n : Nat) (d : Next), (n < 12288) ∧ (s.nextDesc n = some d) ∧ (kindOf d.w0 = 9) ∧ (field d.w0 28 4 = 3) ∧
        ((s.ctxOf n d.slot).preMet d.w0 = true) ∧ (s.frm.ended.lockstep = false ∨ s.frm.ended.confirmed = true)) ∧
    (∃ (s : State) (n : Nat) (d : Next), (n < 12288) ∧ (s.nextDesc n = some d) ∧ (kindOf d.w0 = 9) ∧ (field d.w0 28 4 = 4) ∧
        ((s.ctxOf n d.slot).preMet d.w0 = true) ∧ (s.quiet n d.slot = true)) ∧
    (∃ (s : State) (n : Nat) (d : Next), (n < 12288) ∧ (s.nextDesc n = some d) ∧ (kindOf d.w0 = 9) ∧ (field d.w0 28 4 = 5) ∧
        ((s.ctxOf n d.slot).preMet d.w0 = true) ∧ (s.quiet n d.slot = true)) ∧
    (∃ (_s : State) (_n _k _role _idx w0 : Nat), (bit w0 36 = false)) ∧
    (∃ (s : State) (n k _role _idx w0 : Nat), (bit w0 36 = true) ∧ ((s.ctxOf n k).ctr (field w0 32 4) ≠ 65535)) :=
  ⟨⟨coreState (9 * 2 ^ 60) (0), 0, { slot := 0, role := 0, idx := 0, len := 2, w0 := 9 * 2 ^ 60, w1 := 0 }, by decide⟩,
    ⟨coreState (9 * 2 ^ 60 + 2 ^ 28) (1), 0, { slot := 0, role := 0, idx := 0, len := 2, w0 := 9 * 2 ^ 60 + 2 ^ 28, w1 := 1 }, by decide⟩,
    ⟨coreState (9 * 2 ^ 60 + 2 * 2 ^ 28) (5000), 0, { slot := 0, role := 0, idx := 0, len := 2, w0 := 9 * 2 ^ 60 + 2 * 2 ^ 28, w1 := 5000 }, by decide⟩,
    ⟨coreState (9 * 2 ^ 60 + 3 * 2 ^ 28) (0), 0, { slot := 0, role := 0, idx := 0, len := 2, w0 := 9 * 2 ^ 60 + 3 * 2 ^ 28, w1 := 0 }, by decide⟩,
    ⟨coreState (9 * 2 ^ 60 + 4 * 2 ^ 28 + 2 ^ 36) (0), 0, { slot := 0, role := 0, idx := 0, len := 2, w0 := 9 * 2 ^ 60 + 4 * 2 ^ 28 + 2 ^ 36, w1 := 0 }, by decide⟩,
    ⟨coreState (9 * 2 ^ 60 + 5 * 2 ^ 28) (0), 0, { slot := 0, role := 0, idx := 0, len := 2, w0 := 9 * 2 ^ 60 + 5 * 2 ^ 28, w1 := 0 }, by decide⟩,
    ⟨liveState .running, 0, 0, 0, 0, 0, by decide⟩,
    ⟨liveState .running, 0, 0, 0, 0, 2 ^ 36, by decide⟩⟩

theorem test_waitsPass_hyps2 :
    (∃ (s : State) (n k _role _idx w0 : Nat), (bit w0 36 = true) ∧ ((s.ctxOf n k).ctr (field w0 32 4) = 65535)) ∧
    (∃ (s : State) (n : Nat) (d : Next), (n < 12288) ∧ (s.nextDesc n = some d) ∧
        (((s.ctxOf n d.slot).consumePre d.w0).ctr (field d.w0 23 4) < field d.w0 7 16)) ∧
    (∃ (s : State) (n : Nat) (d : Next), (n < 12288) ∧ (s.nextDesc n = some d) ∧
        (s.frm.tc < s.frm.frameStart + (nth (0, 0) s.frm.slats (field d.w1 0 4)).2)) ∧
    (∃ (s : State) (n : Nat) (d : Next), (n < 12288) ∧ (s.nextDesc n = some d) ∧
        (s.frm.tc < s.frm.frameStart + field d.w1 0 27)) ∧
    (∃ (s : State) (n : Nat), (n < 12288) ∧ (s.frm.ended.lockstep = true) ∧ (s.frm.ended.confirmed = false)) ∧
    (∃ (s : State) (n : Nat) (d : Next), (n < 12288) ∧ (s.nextDesc n = some d) ∧ (s.quiet n d.slot = false)) ∧
    (∃ (s : State) (n : Nat) (d : Next), (n < 12288) ∧ (s.nextDesc n = some d) ∧ ((s.ctxOf n d.slot).preMet d.w0 = false)) ∧
    (∃ (s : State) (n : Nat), (n < 12288) ∧ (s.nextDesc n = none)) :=
  ⟨⟨setCtx 0 0 (fun c => { c with ctrs := List.replicate 16 65535 }) doneState, 0, 0, 0, 0, 2 ^ 36, by decide⟩,
    ⟨coreState (9 * 2 ^ 60 + 2 ^ 7) 0, 0, { slot := 0, role := 0, idx := 0, len := 2, w0 := 9 * 2 ^ 60 + 2 ^ 7, w1 := 0 }, by decide⟩,
    ⟨atTc 66000 (coreState (9 * 2 ^ 60 + 2 ^ 28) 1), 0, { slot := 0, role := 0, idx := 0, len := 2, w0 := 9 * 2 ^ 60 + 2 ^ 28, w1 := 1 }, by decide⟩,
    ⟨atTc 66000 (coreState (9 * 2 ^ 60 + 2 * 2 ^ 28) 5000), 0, { slot := 0, role := 0, idx := 0, len := 2, w0 := 9 * 2 ^ 60 + 2 * 2 ^ 28, w1 := 5000 }, by decide⟩,
    ⟨{ framedState .inFrame with frm := { (framedState .inFrame).frm with ended := { lockstep := true } } }, 12287, by decide⟩,
    ⟨fullQueue, 0, { slot := 0, role := 0, idx := 0, len := 2, w0 := 2 ^ 60, w1 := 0 }, by decide⟩,
    ⟨coreState (9 * 2 ^ 60 + 2 ^ 58 + 2 ^ 37) 0, 0, { slot := 0, role := 0, idx := 0, len := 2, w0 := 9 * 2 ^ 60 + 2 ^ 58 + 2 ^ 37, w1 := 0 }, by decide⟩,
    ⟨framedState .inFrame, 12287, by decide⟩⟩

theorem test_loopsAndSkips_hyps :
    (∃ (s : State) (n : Nat) (d : Next), (n < 12288) ∧ (s.nextDesc n = some d) ∧ (kindOf d.w0 = 10) ∧
        ((s.ctxOf n d.slot).preMet d.w0 = true)) ∧
    (∃ (s : State) (n : Nat) (d : Next), (n < 12288) ∧ (s.nextDesc n = some d) ∧ (kindOf d.w0 = 11) ∧
        ((s.ctxOf n d.slot).preMet d.w0 = true) ∧
        (maskAny (s.storeBytes n (32 * field d.w1 49 15) ((field d.w1 36 13 + 1 + 7) / 8)) (field d.w1 36 13 + 1) = true)) ∧
    (∃ (s : State) (n : Nat) (d : Next), (n < 12288) ∧ (s.nextDesc n = some d) ∧ (kindOf d.w0 = 11) ∧
        ((s.ctxOf n d.slot).preMet d.w0 = true) ∧
        (maskAny (s.storeBytes n (32 * field d.w1 49 15) ((field d.w1 36 13 + 1 + 7) / 8)) (field d.w1 36 13 + 1) = false)) ∧
    (∃ (s : State) (n : Nat) (d : Next), (n < 12288) ∧ (s.nextDesc n = some d) ∧ (kindOf d.w0 = 11) ∧
        ((s.ctxOf n d.slot).preMet d.w0 = true)) ∧
    (∃ (s : State) (n : Nat) (d : Next) (_p : Bool), (n < 12288) ∧ (s.nextDesc n = some d) ∧ (kindOf d.w0 ≠ 10) ∧
        (kindOf d.w0 ≠ 11)) :=
  ⟨⟨coreState (10 * 2 ^ 60 + 2 ^ 24 + 3) (2 ^ 32 * 64 + 2 ^ 16 * 65535), 0, { slot := 0, role := 0, idx := 0, len := 2, w0 := 10 * 2 ^ 60 + 2 ^ 24 + 3, w1 := 2 ^ 32 * 64 + 2 ^ 16 * 65535 }, by decide⟩,
    ⟨putStore 0 0 [1] (coreState (11 * 2 ^ 60 + 2 ^ 24) 0), 0, { slot := 0, role := 0, idx := 0, len := 2, w0 := 11 * 2 ^ 60 + 2 ^ 24, w1 := 0 }, by decide⟩,
    ⟨coreState (11 * 2 ^ 60 + 2 ^ 24) 0, 0, { slot := 0, role := 0, idx := 0, len := 2, w0 := 11 * 2 ^ 60 + 2 ^ 24, w1 := 0 }, by decide⟩,
    ⟨coreState (11 * 2 ^ 60 + 2 ^ 24) 0, 0, { slot := 0, role := 0, idx := 0, len := 2, w0 := 11 * 2 ^ 60 + 2 ^ 24, w1 := 0 }, by decide⟩,
    ⟨coreState (2 ^ 60) 0, 0, { slot := 0, role := 0, idx := 0, len := 2, w0 := 2 ^ 60, w1 := 0 }, true, by decide⟩⟩

theorem test_transfersAreIssued_hyps :
    (∃ (s : State) (n : Nat) (_looks : List Nat) (e : QEntry), (n < 12288) ∧ (s.startable n .transfer = some e) ∧
        (kindOf e.w0 = 1)) ∧
    (∃ (s : State) (n : Nat) (_looks : List Nat) (e : QEntry), (n < 12288) ∧ (s.startable n .transfer = some e) ∧
        (kindOf e.w0 = 2)) ∧
    (∃ (s : State) (n : Nat) (_looks : List Nat) (e : QEntry) (p : Piece), (n < 12288) ∧
        (s.startable n .transfer = some e) ∧ (kindOf e.w0 = 1) ∧ (s.entryOf n e.uid = some e) ∧ (e.issued = 0) ∧
        (transferPieces e.w0 e.w1 = [p]) ∧ (isKv p.addr = false) ∧ (s.issueBlocked p.addr p.len = none) ∧
        (tileOf p.addr = n) ∧ (s.readsOut n < 32)) ∧
    (∃ (s : State) (n : Nat) (_looks : List Nat) (e : QEntry) (p : Piece), (n < 12288) ∧
        (s.startable n .transfer = some e) ∧ (kindOf e.w0 = 1) ∧ (s.entryOf n e.uid = some e) ∧ (e.issued = 0) ∧
        (transferPieces e.w0 e.w1 = [p]) ∧ (isKv p.addr = false) ∧ (s.issueBlocked p.addr p.len = none) ∧
        (tileOf p.addr ≠ n) ∧ (s.readsOut n < 32)) ∧
    (∃ (s : State) (n : Nat) (_looks : List Nat) (e : QEntry) (p : Piece), (n < 12288) ∧
        (s.startable n .transfer = some e) ∧ (kindOf e.w0 = 2) ∧ (s.entryOf n e.uid = some e) ∧ (e.issued = 0) ∧
        (transferPieces e.w0 e.w1 = [p]) ∧ (isKv p.addr = false) ∧ (s.issueBlocked p.addr p.len = none) ∧
        (tileOf p.addr = n)) ∧
    (∃ (s : State) (n : Nat) (_looks : List Nat) (e : QEntry) (p : Piece), (n < 12288) ∧
        (s.startable n .transfer = some e) ∧ (kindOf e.w0 = 2) ∧ (s.entryOf n e.uid = some e) ∧ (e.issued = 0) ∧
        (transferPieces e.w0 e.w1 = [p]) ∧ (isKv p.addr = false) ∧ (s.issueBlocked p.addr p.len = none) ∧
        (tileOf p.addr ≠ n)) ∧
    (∃ (s : State) (n : Nat) (_looks : List Nat) (e : QEntry) (p : Piece), (n < 12288) ∧
        (s.startable n .transfer = some e) ∧ (kindOf e.w0 = 2) ∧ (s.entryOf n e.uid = some e) ∧ (e.issued = 0) ∧
        (transferPieces e.w0 e.w1 = [p]) ∧ (isKv p.addr = false) ∧ ((s.issueBlocked p.addr p.len).isSome = true)) ∧
    (∃ (s : State) (n : Nat) (e : QEntry) (b : Binding), (n < 12288) ∧ (s.startable n .message = some e) ∧
        (kindOf e.w0 = 3) ∧ (field e.w0 3 2 = 0) ∧ (s.bindingOf (field e.w1 48 16) = some b)) ∧
    (∃ (s : State) (n : Nat) (e : QEntry), (n < 12288) ∧ (s.startable n .message = some e) ∧ (kindOf e.w0 = 3) ∧
        (field e.w0 3 2 = 0) ∧ (s.bindingOf (field e.w1 48 16) = none)) ∧
    (∃ (s : State) (n : Nat) (e : QEntry), (n < 12288) ∧ (s.startable n .message = some e) ∧ (kindOf e.w0 = 3)) ∧
    (∃ (s : State) (n : Nat) (e : QEntry), (n < 12288) ∧ (s.startable n .message = some e) ∧ (kindOf e.w0 = 4) ∧
        ((s.ctxOf n e.slot).arrivals = []) ∧ (s.net.held = [])) ∧
    (∃ (s : State) (n : Nat) (_looks : List Nat) (_p : Bool), (n < 12288) ∧ (s.startable n .transfer = none) ∧
        (s.startable n .message = none)) :=
  ⟨⟨loadState 0, 0, [], loadEntry 0, by decide⟩,
    ⟨storeState 0, 0, [], storeEntry 0, by decide⟩,
    ⟨loadState 0, 0, [], loadEntry 0, { addr := 0, len := 64, local_ := 32 }, by decide⟩,
    ⟨loadState (2 ^ 26), 0, [], loadEntry (2 ^ 26), { addr := 2 ^ 26, len := 64, local_ := 32 }, by decide⟩,
    ⟨storeState 0, 0, [], storeEntry 0, { addr := 0, len := 64, local_ := 32 }, by decide⟩,
    ⟨storeState (2 ^ 26), 0, [], storeEntry (2 ^ 26), { addr := 2 ^ 26, len := 64, local_ := 32 }, by decide⟩,
    ⟨storeState 0x3000000, 0, [], storeEntry 0x3000000, { addr := 0x3000000, len := 64, local_ := 32 }, by decide⟩,
    ⟨sendState, 0, sendEntry, { core := 0, slot := 0, places := [0, 1], slats := 1, swapStart := 0, swapLen := 0, save := 0, entry := [0, 0, 0, 0] }, by decide⟩,
    ⟨{ sendState with dev := { sendState.dev with image := some bareImage } }, 0, sendEntry, by decide⟩,
    ⟨sendState, 0, sendEntry, by decide⟩,
    ⟨recvState, 0, recvEntry, by decide⟩,
    ⟨framedState .inFrame, 12287, [], true, by decide⟩⟩

theorem test_packetsArrive_hyps1 :
    (∃ (s : State) (id beats : Nat) (p : Packet) (d : List Nat), (s.arrivable id .read = some p) ∧
        ((reachArbiter p s).netTurn id p.dst = true) ∧ (p.done + min (32 * beats) (p.len - p.done) = p.len) ∧
        ((readBytes { code := 2, source := p.core } false (p.addr + p.done) (min (32 * beats) (p.len - p.done)) (reachArbiter p s)).1 = .data d)) ∧
    (∃ (s : State) (id _beats : Nat) (_parity : Bool) (_flips : List (Nat × Nat)) (p : Packet),
        (s.arrivable id .read = some p) ∧ ((reachArbiter p s).netTurn id p.dst = false)) ∧
    (∃ (s s2 : State) (id beats : Nat) (parity : Bool) (p : Packet), (s.arrivable id .write = some p) ∧
        (s.tagged p = true) ∧ ((reachArbiter p s).netTurn id p.dst = true) ∧
        (writeBytes { code := 2, source := p.core } parity (p.addr + p.done) (slice p.bytes p.done (min (32 * beats) (p.len - p.done))) (reachArbiter p s) = (none,
          s2)) ∧
        (p.done + min (32 * beats) (p.len - p.done) = p.len)) ∧
    (∃ (s s2 : State) (id beats : Nat) (parity : Bool) (p : Packet) (c : Nat), (s.arrivable id .write = some p) ∧
        (s.tagged p = true) ∧ ((reachArbiter p s).netTurn id p.dst = true) ∧
        (writeBytes { code := 2, source := p.core } parity (p.addr + p.done) (slice p.bytes p.done (min (32 * beats) (p.len - p.done))) (reachArbiter p s) = (some c,
          s2))) ∧
    (∃ (s : State) (id beats : Nat) (p : Packet), (s.arrivable id .write = some p) ∧ (s.tagged p = true) ∧
        ((reachArbiter p s).netTurn id p.dst = true) ∧ (p.done = 0) ∧ (p.len = p.bytes.length) ∧ (p.len ≤ 32 * beats) ∧
        (p.bytes.length % 32 = 0) ∧ (p.addr % 32 = 0) ∧ (s.lockedIn p.addr (p.bytes.length / 32) = false) ∧
        (s.blockedIn p.addr (p.bytes.length / 32) = none) ∧ (s.pathBad p.addr = false)) ∧
    (∃ (s : State) (id _beats : Nat) (_parity : Bool) (p : Packet), (s.arrivable id .write = some p) ∧ (s.tagged p = false)) ∧
    (∃ (s : State) (id : Nat) (p : Packet) (e : QEntry), (s.arrivable id .readData = some p) ∧
        (s.entryOf p.core p.uid = some e) ∧ (e.got + 1 = e.need) ∧ (e.issued = e.need) ∧
        ((s.coreRec p.core).queue = [e]) ∧ ((s.walkerOf (regionOf p.core)).ready = [])) ∧
    (∃ (s : State) (id : Nat) (p : Packet), (s.arrivable id .readData = some p) ∧ (s.entryOf p.core p.uid = none)) :=
  ⟨⟨netState, 1, 2, readPacket, List.replicate 64 0, by decide⟩,
    ⟨setTile 1 (fun x => { x with retraining := true }) netState, 1, 2, false, [], readPacket, by decide⟩,
    ⟨netState, (writeBytes { code := 2, source := 0 } false (2 ^ 27) (List.replicate 32 7) (reachArbiter writePacket netState)).2, 2, 1, false, writePacket, by decide⟩,
    ⟨netState, (writeBytes { code := 2, source := 0 } true (2 ^ 27) (List.replicate 32 7) (reachArbiter writePacket netState)).2, 2, 1, true, writePacket, 2, by decide⟩,
    ⟨netState, 2, 1, writePacket, by decide⟩,
    ⟨{ netState with frm := { netState.frm with count := 1 } }, 2, 1, false, writePacket, by decide⟩,
    ⟨netState, 3, dataPacket, runningEntry, by decide⟩,
    ⟨setCore 0 (fun c => { c with queue := [] }) netState, 3, dataPacket, by decide⟩⟩

theorem test_packetsArrive_hyps2 :
    (∃ (s : State) (id : Nat) (p : Packet) (e : QEntry), (s.arrivable id .ack = some p) ∧ (s.entryOf p.core p.uid = some e)) ∧
    (∃ (s : State) (id : Nat) (p : Packet), (s.arrivable id .ack = some p) ∧ (s.entryOf p.core p.uid = none)) ∧
    (∃ (s : State) (id : Nat) (p : Packet) (e : QEntry) (c : ErrCause), (s.arrivable id .error = some p) ∧
        (s.entryOf p.core p.uid = some e) ∧ (p.err = some c) ∧ ((s.coreRec p.core).queue = [e]) ∧
        ((s.walkerOf (regionOf p.core)).ready = [])) ∧
    (∃ (s : State) (id : Nat) (p : Packet), (s.arrivable id .error = some p) ∧ (s.entryOf p.core p.uid = none)) ∧
    (∃ (s : State) (id : Nat) (_parity : Bool) (p : Packet) (b : Posted), (s.arrivable id .send = some p) ∧
        (s.tagged p = true) ∧ (s.coreFenced p.dst = false) ∧ (s.resident p.dst p.slot = true) ∧
        (s.heldFor p.dst p.slot p.addr = []) ∧ ((s.ctxOf p.dst p.slot).posted = [b]) ∧ (b.channel = p.addr) ∧
        (b.taken = none) ∧ (b.got = 0) ∧ (b.bad = false) ∧ (b.len = p.total) ∧ (p.off = 0) ∧ (p.bytes.length = p.total)) ∧
    (∃ (s : State) (id : Nat) (_parity : Bool) (p : Packet), (s.arrivable id .send = some p) ∧ (s.tagged p = true) ∧
        (s.coreFenced p.dst = true)) ∧
    (∃ (s : State) (id : Nat) (_parity : Bool) (p : Packet), (s.arrivable id .send = some p) ∧ (s.tagged p = true) ∧
        (s.coreFenced p.dst = false) ∧ (s.resident p.dst p.slot = false)) ∧
    (∃ (s : State) (id : Nat) (_parity : Bool) (p : Packet), (s.arrivable id .send = some p) ∧ (s.tagged p = true) ∧
        (s.coreFenced p.dst = false) ∧ (s.resident p.dst p.slot = true) ∧ ((s.ctxOf p.dst p.slot).posted = []) ∧
        ((s.heldFor p.dst p.slot p.addr).length < 4)) :=
  ⟨⟨netState, 4, ackPacket, runningEntry, by decide⟩,
    ⟨setCore 0 (fun c => { c with queue := [] }) netState, 4, ackPacket, by decide⟩,
    ⟨netState, 5, errorPacket, runningEntry, .fenced, by decide⟩,
    ⟨setCore 0 (fun c => { c with queue := [] }) netState, 5, errorPacket, by decide⟩,
    ⟨postedState, 6, false, sendPacket, { channel := 5, uid := 9, addr := 64, len := 64 }, by decide⟩,
    ⟨fenceUnits 2 [{ kind := 2, unit := 0 }] postedState, 6, false, sendPacket, by decide⟩,
    ⟨setCore 0 (fun c => { c with resident1 := 2 }) postedState, 6, false, sendPacket, by decide⟩,
    ⟨setCtx 0 0 (fun c => { c with posted := [] }) postedState, 6, false, sendPacket, by decide⟩⟩

theorem test_packetsArrive_hyps3 :
    (∃ (s : State) (id : Nat) (_parity : Bool) (p : Packet), (s.arrivable id .send = some p) ∧ (s.tagged p = true) ∧
        (s.coreFenced p.dst = false) ∧ (s.resident p.dst p.slot = true) ∧ ((s.ctxOf p.dst p.slot).posted = []) ∧
        (4 ≤ (s.heldFor p.dst p.slot p.addr).length)) ∧
    (∃ (s : State) (id : Nat) (_parity : Bool) (p : Packet), (s.arrivable id .send = some p) ∧ (s.tagged p = false)) ∧
    (∃ (s : State) (id _beats : Nat) (_parity : Bool) (_flips : List (Nat × Nat)), (s.arrivable id .read = none) ∧
        (s.arrivable id .write = none) ∧ (s.arrivable id .send = none) ∧ (s.arrivable id .readData = none) ∧
        (s.arrivable id .ack = none) ∧ (s.arrivable id .error = none)) ∧
    (∃ (s : State) (link vc : Nat) (p : Packet), (portOrLink link = true) ∧ (vc < 4) ∧ (s.powered = true) ∧
        (s.net.packets.find? (fun p => decide (p.lastHop = some (4 * link + vc)) && decide (p.inBuffer (4 * link + vc) ≠ 0)) = some p)) ∧
    (∃ (s : State) (link vc : Nat), (portOrLink link = true) ∧ (vc < 4) ∧
        (s.net.packets.find? (fun p => decide (p.lastHop = some (4 * link + vc)) && decide (p.inBuffer (4 * link + vc) ≠ 0)) = none)) ∧
    (∃ (s : State) (l : Nat) (_again : Bool), (linkExists l = true) ∧ (s.powered = true)) ∧
    (∃ (s : State) (id : Nat) (p : Packet), (s.powered = true) ∧
        (s.net.packets.find? (fun p => decide (p.id = id)) = some p) ∧ (p.aged = false) ∧ (p.arrived ≠ 0) ∧
        (p.arrived + s.agingTime (regionOf p.dst) ≤ s.frm.tc + 1)) ∧
    (∃ (s : State) (id : Nat) (p : Packet), (s.net.packets.find? (fun p => decide (p.id = id)) = some p) ∧
        (p.arrived = 0 ∨ p.aged = true ∨ s.frm.tc + 1 < p.arrived + s.agingTime (regionOf p.dst))) :=
  ⟨⟨{ setCtx 0 0 (fun c => { c with posted := [] }) postedState with net := { postedState.net with held := List.replicate 4 sendPacket } }, 6, false, sendPacket, by decide⟩,
    ⟨{ postedState with frm := { postedState.frm with count := 1 } }, 6, false, sendPacket, by decide⟩,
    ⟨netState, 77, 1, false, [], by decide⟩,
    ⟨bufferedState, 1, 3, bufferedPacket, by decide⟩,
    ⟨netState, 0xC6C2, 0, by decide⟩,
    ⟨netState, 0xC407, true, by decide⟩,
    ⟨agedState, 1, { readPacket with arrived := 70000 }, by decide⟩,
    ⟨netState, 1, readPacket, by decide⟩⟩

theorem test_packetsArrive_hyps4 :
    (∃ (s s2 : State) (id beats : Nat) (parity : Bool) (flips : List (Nat × Nat)) (p : Packet) (d : List Nat),
        (s.arrivable id .read = some p) ∧ ((reachArbiter p s).netTurn id p.dst = true) ∧
        (readBytes { code := 2, source := p.core } parity (p.addr + p.done) (min (32 * beats) (p.len - p.done)) (flipSymbols p.addr flips (reachArbiter p s)) = (.data d,
          s2)) ∧
        (p.done + min (32 * beats) (p.len - p.done) = p.len)) :=
  ⟨netState, (readBytes { code := 2, source := 0 } false (2 ^ 26) 64 (reachArbiter readPacket netState)).2, 1, 2, false, [], readPacket, List.replicate 64 0, by decide⟩

theorem test_packetsArrive_hyps5 :
    (∃ (s s2 : State) (id beats : Nat) (parity : Bool) (flips : List (Nat × Nat)) (p : Packet) (d : List Nat),
        (s.arrivable id .read = some p) ∧ ((reachArbiter p s).netTurn id p.dst = true) ∧
        (readBytes { code := 2, source := p.core } parity (p.addr + p.done) (min (32 * beats) (p.len - p.done)) (flipSymbols p.addr flips (reachArbiter p s)) = (.data d,
          s2)) ∧
        (p.done + min (32 * beats) (p.len - p.done) ≠ p.len)) :=
  ⟨netState, (readBytes { code := 2, source := 0 } false (2 ^ 26) 32 (reachArbiter readPacket netState)).2, 1, 1, false, [], readPacket, List.replicate 32 0, by decide⟩

theorem test_packetsArrive_hyps6 :
    (∃ (s s2 : State) (id beats : Nat) (parity : Bool) (flips : List (Nat × Nat)) (p : Packet) (c : Nat),
        (s.arrivable id .read = some p) ∧ ((reachArbiter p s).netTurn id p.dst = true) ∧
        (readBytes { code := 2, source := p.core } parity (p.addr + p.done) (min (32 * beats) (p.len - p.done)) (flipSymbols p.addr flips (reachArbiter p s)) = (.error c,
          s2))) :=
  ⟨netState, (readBytes { code := 2, source := 0 } true (2 ^ 26) 64 (reachArbiter readPacket netState)).2, 1, 2, true, [], readPacket, 2, by decide⟩

theorem test_ownerRequests_hyps1 :
    (∃ (s s2 : State) (n beats : Nat) (parity : Bool) (_flips : List (Nat × Nat)) (q : SashReq) (rest : List SashReq) (e : QEntry),
        (n < 12288) ∧ (s.coreRuns n = true) ∧ ((s.tileRec n).retraining = false) ∧ (s.agedWaits n = false) ∧
        ((s.tileRec n).queue = q :: rest) ∧ (s.entryOf n q.uid = some e) ∧ (q.write = true) ∧
        (writeBytes { code := 1, source := n } parity (q.addr + q.done) (s.storeBytes n (q.local_ + q.done) (min (32 * beats) (q.len - q.done))) s = (none,
          s2))) ∧
    (∃ (s s2 : State) (n beats : Nat) (parity : Bool) (_flips : List (Nat × Nat)) (q : SashReq) (rest : List SashReq) (e : QEntry) (c : Nat),
        (n < 12288) ∧ (s.coreRuns n = true) ∧ ((s.tileRec n).retraining = false) ∧ (s.agedWaits n = false) ∧
        ((s.tileRec n).queue = q :: rest) ∧ (s.entryOf n q.uid = some e) ∧ (q.write = true) ∧
        (writeBytes { code := 1, source := n } parity (q.addr + q.done) (s.storeBytes n (q.local_ + q.done) (min (32 * beats) (q.len - q.done))) s = (some c,
          s2))) ∧
    (∃ (s : State) (n _beats : Nat) (_parity : Bool) (_flips : List (Nat × Nat)) (q : SashReq) (rest : List SashReq) (e : QEntry),
        (n < 12288) ∧ (s.coreRuns n = true) ∧ ((s.tileRec n).retraining = false) ∧ (s.agedWaits n = false) ∧
        ((s.tileRec n).queue = q :: rest) ∧ (s.entryOf n q.uid = some e) ∧ (q.write = true)) ∧
    (∃ (s : State) (n _beats : Nat) (_parity _store : Bool) (_flips : List (Nat × Nat)) (q : SashReq) (rest : List SashReq),
        (n < 12288) ∧ (s.coreRuns n = true) ∧ ((s.tileRec n).retraining = false) ∧ (s.agedWaits n = false) ∧
        ((s.tileRec n).queue = q :: rest) ∧ (s.entryOf n q.uid = none)) ∧
    (∃ (s : State) (n beats : Nat) (q : SashReq) (rest : List SashReq) (e : QEntry), (n < 12288) ∧ (s.coreRuns n = true) ∧
        ((s.tileRec n).retraining = false) ∧ (s.agedWaits n = false) ∧ ((s.tileRec n).queue = q :: rest) ∧
        ((s.coreRec n).queue = [e]) ∧ (e.issued = e.need) ∧ ((s.walkerOf (regionOf n)).ready = []) ∧ (q.done = 0) ∧
        (q.len ≤ 32 * beats) ∧ (e.uid = q.uid) ∧ (q.write = true) ∧ (q.addr % 32 = 0) ∧ (q.len % 32 = 0) ∧
        (s.lockedIn q.addr (q.len / 32) = false) ∧ (s.blockedIn q.addr (q.len / 32) = none) ∧
        (s.pathBad q.addr = false)) ∧
    (∃ (s : State) (n beats : Nat) (q : SashReq) (rest : List SashReq) (e : QEntry) (d : List Nat), (n < 12288) ∧
        (s.coreRuns n = true) ∧ ((s.tileRec n).retraining = false) ∧ (s.agedWaits n = false) ∧
        ((s.tileRec n).queue = q :: rest) ∧ ((s.coreRec n).queue = [e]) ∧ (e.issued = e.need) ∧
        ((s.walkerOf (regionOf n)).ready = []) ∧ (q.done = 0) ∧ (q.len ≤ 32 * beats) ∧ (e.uid = q.uid) ∧
        (q.write = false) ∧ ((readBytes { code := 1, source := n } false q.addr q.len s).1 = .data d)) ∧
    (∃ (s : State) (n _beats : Nat) (_parity _store : Bool) (_flips : List (Nat × Nat)), (n < 12288) ∧
        ((s.tileRec n).retraining = true ∨ s.agedWaits n = true ∨ s.coreRuns n = false ∨ (s.tileRec n).queue = [])) :=
  ⟨⟨sashState true, (writeBytes { code := 1, source := 0 } false 64 (List.replicate 64 0) (sashState true)).2, 0, 2, false, [], sashReq true, [], runningEntry, by decide⟩,
    ⟨sashState true, (writeBytes { code := 1, source := 0 } true 64 (List.replicate 64 0) (sashState true)).2, 0, 2, true, [], sashReq true, [], runningEntry, 2, by decide⟩,
    ⟨sashState true, 0, 2, false, [], sashReq true, [], runningEntry, by decide⟩,
    ⟨setCore 0 (fun c => { c with queue := [] }) (sashState true), 0, 2, false, true, [], sashReq true, [], by decide⟩,
    ⟨sashState true, 0, 2, sashReq true, [], runningEntry, by decide⟩,
    ⟨sashState false, 0, 2, sashReq false, [], runningEntry, List.replicate 64 0, by decide⟩,
    ⟨setTile 7 (fun x => { x with retraining := true }) (sashState true), 7, 2, false, false, [], by decide⟩⟩

theorem test_ownerRequests_hyps2 :
    (∃ (s s2 : State) (n beats : Nat) (parity : Bool) (flips : List (Nat × Nat)) (q : SashReq) (rest : List SashReq) (e : QEntry) (d : List Nat),
        (n < 12288) ∧ (s.coreRuns n = true) ∧ ((s.tileRec n).retraining = false) ∧ (s.agedWaits n = false) ∧
        ((s.tileRec n).queue = q :: rest) ∧ (s.entryOf n q.uid = some e) ∧ (q.write = false) ∧
        (readBytes { code := 1, source := n } parity (q.addr + q.done) (min (32 * beats) (q.len - q.done)) (flipSymbols q.addr flips s) = (.data d,
          s2))) :=
  ⟨sashState false, (readBytes { code := 1, source := 0 } false 64 64 (sashState false)).2, 0, 2, false, [], sashReq false, [], runningEntry, List.replicate 64 0, by decide⟩

theorem test_ownerRequests_hyps3 :
    (∃ (s s2 : State) (n beats : Nat) (parity : Bool) (flips : List (Nat × Nat)) (q : SashReq) (rest : List SashReq) (e : QEntry) (c : Nat),
        (n < 12288) ∧ (s.coreRuns n = true) ∧ ((s.tileRec n).retraining = false) ∧ (s.agedWaits n = false) ∧
        ((s.tileRec n).queue = q :: rest) ∧ (s.entryOf n q.uid = some e) ∧ (q.write = false) ∧
        (readBytes { code := 1, source := n } parity (q.addr + q.done) (min (32 * beats) (q.len - q.done)) (flipSymbols q.addr flips s) = (.error c,
          s2))) :=
  ⟨sashState false, (readBytes { code := 1, source := 0 } true 64 64 (sashState false)).2, 0, 2, true, [], sashReq false, [], runningEntry, 2, by decide⟩

theorem test_vectorOperations_hyps1 :
    (∃ (s : State) (n count : Nat) (parity : Bool) (p : Nat × Instr) (e : QEntry) (d : VecDesc), (n < 12288) ∧
        ((s.coreRec n).queue.find? (fun e => decide (e.q = .vector) && e.started && !e.done) = none) ∧
        (s.startable n .vector = some e) ∧ (kindOf e.w0 = 6) ∧
        (p ∈ [(0x01, Instr.vecAdd n count parity), (0x02, Instr.vecSub n count parity), (0x03, Instr.vecMul n count parity),
          (0x04, Instr.vecMax n count parity), (0x05, Instr.vecMin n count parity)]) ∧
        (field e.w0 24 8 = p.1) ∧ (d = vecDesc e.w0 e.w1)) ∧
    (∃ (s : State) (n count : Nat) (parity : Bool) (p : Nat × Instr) (e : QEntry) (d : VecDesc), (n < 12288) ∧
        ((s.coreRec n).queue.find? (fun e => decide (e.q = .vector) && e.started && !e.done) = some e) ∧
        (s.coreRuns n = true) ∧ (kindOf e.w0 = 6) ∧
        (p ∈ [(0x01, Instr.vecAdd n count parity), (0x02, Instr.vecSub n count parity), (0x03, Instr.vecMul n count parity),
          (0x04, Instr.vecMax n count parity), (0x05, Instr.vecMin n count parity)]) ∧
        (field e.w0 24 8 = p.1) ∧ (d = vecDesc e.w0 e.w1)) ∧
    (∃ (s : State) (n count : Nat) (parity : Bool) (p : Nat × Instr) (e : QEntry) (d : VecDesc), (n < 12288) ∧
        ((s.coreRec n).queue.find? (fun e => decide (e.q = .vector) && e.started && !e.done) = none) ∧
        (s.startable n .vector = some e) ∧ (kindOf e.w0 = 6) ∧
        (p ∈ [(0x01, Instr.vecAdd n count parity), (0x02, Instr.vecSub n count parity), (0x03, Instr.vecMul n count parity),
          (0x04, Instr.vecMax n count parity), (0x05, Instr.vecMin n count parity)]) ∧
        (field e.w0 24 8 = p.1) ∧ (d = vecDesc e.w0 e.w1) ∧ (count = 1) ∧ (parity = false) ∧ (e.got = 0)) ∧
    (∃ (s : State) (n count : Nat) (parity : Bool) (p : Nat × Instr) (e : QEntry) (d : VecDesc), (n < 12288) ∧
        ((s.coreRec n).queue.find? (fun e => decide (e.q = .vector) && e.started && !e.done) = none) ∧
        (s.startable n .vector = some e) ∧ (kindOf e.w0 = 6) ∧
        (p ∈ [(0x06, Instr.vecAdds n count parity), (0x07, Instr.vecMuls n count parity)]) ∧ (field e.w0 24 8 = p.1) ∧
        (d = vecDesc e.w0 e.w1)) ∧
    (∃ (s : State) (n count : Nat) (parity : Bool) (p : Nat × Instr) (e : QEntry) (d : VecDesc), (n < 12288) ∧
        ((s.coreRec n).queue.find? (fun e => decide (e.q = .vector) && e.started && !e.done) = some e) ∧
        (s.coreRuns n = true) ∧ (kindOf e.w0 = 6) ∧
        (p ∈ [(0x06, Instr.vecAdds n count parity), (0x07, Instr.vecMuls n count parity)]) ∧ (field e.w0 24 8 = p.1) ∧
        (d = vecDesc e.w0 e.w1)) ∧
    (∃ (s : State) (n count : Nat) (parity : Bool) (p : Nat × Instr) (e : QEntry) (d : VecDesc), (n < 12288) ∧
        ((s.coreRec n).queue.find? (fun e => decide (e.q = .vector) && e.started && !e.done) = none) ∧
        (s.startable n .vector = some e) ∧ (kindOf e.w0 = 6) ∧
        (p ∈ [(0x06, Instr.vecAdds n count parity), (0x07, Instr.vecMuls n count parity)]) ∧ (field e.w0 24 8 = p.1) ∧
        (d = vecDesc e.w0 e.w1) ∧ (count = 1) ∧ (parity = false) ∧ (e.got = 0)) ∧
    (∃ (s : State) (n count : Nat) (parity : Bool) (p : Nat × Instr) (e : QEntry) (d : VecDesc), (n < 12288) ∧
        ((s.coreRec n).queue.find? (fun e => decide (e.q = .vector) && e.started && !e.done) = none) ∧
        (s.startable n .vector = some e) ∧ (kindOf e.w0 = 6) ∧
        (p ∈ [(0x14, Instr.vecRowsub n count parity), (0x15, Instr.vecRowmul n count parity)]) ∧
        (field e.w0 24 8 = p.1) ∧ (d = vecDesc e.w0 e.w1)) ∧
    (∃ (s : State) (n count : Nat) (parity : Bool) (p : Nat × Instr) (e : QEntry) (d : VecDesc), (n < 12288) ∧
        ((s.coreRec n).queue.find? (fun e => decide (e.q = .vector) && e.started && !e.done) = some e) ∧
        (s.coreRuns n = true) ∧ (kindOf e.w0 = 6) ∧
        (p ∈ [(0x14, Instr.vecRowsub n count parity), (0x15, Instr.vecRowmul n count parity)]) ∧
        (field e.w0 24 8 = p.1) ∧ (d = vecDesc e.w0 e.w1)) :=
  ⟨⟨vecState 0x05, 0, 5, false, (0x05, .vecMin 0 5 false), vecEntry 0x05, vecDesc (vecEntry 0x05).w0 (vecEntry 0x05).w1, by decide⟩,
    ⟨setCore 0 (fun c => { c with queue := [{ (vecEntry 0x05) with started := true }] }) (vecState 0x05), 0, 5, false, (0x05, .vecMin 0 5 false), { (vecEntry 0x05) with started := true }, vecDesc (vecEntry 0x05).w0 (vecEntry 0x05).w1, by decide⟩,
    ⟨vecState 0x05, 0, 1, false, (0x05, .vecMin 0 1 false), vecEntry 0x05, vecDesc (vecEntry 0x05).w0 (vecEntry 0x05).w1, by decide⟩,
    ⟨vecState 0x07, 0, 5, false, (0x07, .vecMuls 0 5 false), vecEntry 0x07, vecDesc (vecEntry 0x07).w0 (vecEntry 0x07).w1, by decide⟩,
    ⟨setCore 0 (fun c => { c with queue := [{ (vecEntry 0x07) with started := true }] }) (vecState 0x07), 0, 5, false, (0x07, .vecMuls 0 5 false), { (vecEntry 0x07) with started := true }, vecDesc (vecEntry 0x07).w0 (vecEntry 0x07).w1, by decide⟩,
    ⟨vecState 0x07, 0, 1, false, (0x07, .vecMuls 0 1 false), vecEntry 0x07, vecDesc (vecEntry 0x07).w0 (vecEntry 0x07).w1, by decide⟩,
    ⟨vecState 0x15, 0, 5, false, (0x15, .vecRowmul 0 5 false), vecEntry 0x15, vecDesc (vecEntry 0x15).w0 (vecEntry 0x15).w1, by decide⟩,
    ⟨setCore 0 (fun c => { c with queue := [{ (vecEntry 0x15) with started := true }] }) (vecState 0x15), 0, 5, false, (0x15, .vecRowmul 0 5 false), { (vecEntry 0x15) with started := true }, vecDesc (vecEntry 0x15).w0 (vecEntry 0x15).w1, by decide⟩⟩

theorem test_vectorOperations_hyps2 :
    (∃ (s : State) (n count : Nat) (parity : Bool) (p : Nat × Instr) (e : QEntry) (d : VecDesc), (n < 12288) ∧
        ((s.coreRec n).queue.find? (fun e => decide (e.q = .vector) && e.started && !e.done) = none) ∧
        (s.startable n .vector = some e) ∧ (kindOf e.w0 = 6) ∧
        (p ∈ [(0x14, Instr.vecRowsub n count parity), (0x15, Instr.vecRowmul n count parity)]) ∧
        (field e.w0 24 8 = p.1) ∧ (d = vecDesc e.w0 e.w1) ∧ (count = 1) ∧ (parity = false) ∧ (e.got = 0)) ∧
    (∃ (s : State) (n count : Nat) (parity : Bool) (p : Nat × Instr) (e : QEntry) (d : VecDesc), (n < 12288) ∧
        ((s.coreRec n).queue.find? (fun e => decide (e.q = .vector) && e.started && !e.done) = none) ∧
        (s.startable n .vector = some e) ∧ (kindOf e.w0 = 6) ∧
        (p ∈ [(0x08, Instr.vecExp n count parity), (0x09, Instr.vecRcp n count parity), (0x0A, Instr.vecRsqrt n count parity),
          (0x0B, Instr.vecSigmoid n count parity), (0x16, Instr.vecCsum n count parity)]) ∧
        (field e.w0 24 8 = p.1) ∧ (d = vecDesc e.w0 e.w1)) ∧
    (∃ (s : State) (n count : Nat) (parity : Bool) (p : Nat × Instr) (e : QEntry) (d : VecDesc), (n < 12288) ∧
        ((s.coreRec n).queue.find? (fun e => decide (e.q = .vector) && e.started && !e.done) = some e) ∧
        (s.coreRuns n = true) ∧ (kindOf e.w0 = 6) ∧
        (p ∈ [(0x08, Instr.vecExp n count parity), (0x09, Instr.vecRcp n count parity), (0x0A, Instr.vecRsqrt n count parity),
          (0x0B, Instr.vecSigmoid n count parity), (0x16, Instr.vecCsum n count parity)]) ∧
        (field e.w0 24 8 = p.1) ∧ (d = vecDesc e.w0 e.w1)) ∧
    (∃ (s : State) (n count : Nat) (parity : Bool) (p : Nat × Instr) (e : QEntry) (d : VecDesc), (n < 12288) ∧
        ((s.coreRec n).queue.find? (fun e => decide (e.q = .vector) && e.started && !e.done) = none) ∧
        (s.startable n .vector = some e) ∧ (kindOf e.w0 = 6) ∧
        (p ∈ [(0x08, Instr.vecExp n count parity), (0x09, Instr.vecRcp n count parity), (0x0A, Instr.vecRsqrt n count parity),
          (0x0B, Instr.vecSigmoid n count parity), (0x16, Instr.vecCsum n count parity)]) ∧
        (field e.w0 24 8 = p.1) ∧ (d = vecDesc e.w0 e.w1) ∧ (count = 1) ∧ (parity = false) ∧ (e.got = 0)) ∧
    (∃ (s : State) (n count : Nat) (parity : Bool) (p : Nat × Instr) (e : QEntry) (d : VecDesc), (n < 12288) ∧
        ((s.coreRec n).queue.find? (fun e => decide (e.q = .vector) && e.started && !e.done) = none) ∧
        (s.startable n .vector = some e) ∧ (kindOf e.w0 = 6) ∧
        (p ∈ [(0x10, Instr.vecRsum n count parity), (0x11, Instr.vecRmax n count parity), (0x12,
          Instr.vecRsumsq n count parity), (0x13, Instr.vecRargmax n count parity)]) ∧
        (field e.w0 24 8 = p.1) ∧ (d = vecDesc e.w0 e.w1)) ∧
    (∃ (s : State) (n count : Nat) (parity : Bool) (p : Nat × Instr) (e : QEntry) (d : VecDesc), (n < 12288) ∧
        ((s.coreRec n).queue.find? (fun e => decide (e.q = .vector) && e.started && !e.done) = some e) ∧
        (s.coreRuns n = true) ∧ (kindOf e.w0 = 6) ∧
        (p ∈ [(0x10, Instr.vecRsum n count parity), (0x11, Instr.vecRmax n count parity), (0x12,
          Instr.vecRsumsq n count parity), (0x13, Instr.vecRargmax n count parity)]) ∧
        (field e.w0 24 8 = p.1) ∧ (d = vecDesc e.w0 e.w1)) ∧
    (∃ (s : State) (n count : Nat) (parity : Bool) (p : Nat × Instr) (e : QEntry) (d : VecDesc), (n < 12288) ∧
        ((s.coreRec n).queue.find? (fun e => decide (e.q = .vector) && e.started && !e.done) = none) ∧
        (s.startable n .vector = some e) ∧ (kindOf e.w0 = 6) ∧
        (p ∈ [(0x10, Instr.vecRsum n count parity), (0x11, Instr.vecRmax n count parity), (0x12,
          Instr.vecRsumsq n count parity), (0x13, Instr.vecRargmax n count parity)]) ∧
        (field e.w0 24 8 = p.1) ∧ (d = vecDesc e.w0 e.w1) ∧ (count = 1) ∧ (parity = false) ∧ (e.got = 0)) ∧
    (∃ (s : State) (n count : Nat) (parity : Bool) (p : Nat × Instr) (e : QEntry) (d : VecDesc), (n < 12288) ∧
        ((s.coreRec n).queue.find? (fun e => decide (e.q = .vector) && e.started && !e.done) = none) ∧
        (s.startable n .vector = some e) ∧ (kindOf e.w0 = 6) ∧
        (p ∈ [(0x18, Instr.vecMaskge n count parity), (0x19, Instr.vecMasklt n count parity)]) ∧
        (field e.w0 24 8 = p.1) ∧ (d = vecDesc e.w0 e.w1)) :=
  ⟨⟨vecState 0x15, 0, 1, false, (0x15, .vecRowmul 0 1 false), vecEntry 0x15, vecDesc (vecEntry 0x15).w0 (vecEntry 0x15).w1, by decide⟩,
    ⟨vecState 0x16, 0, 5, false, (0x16, .vecCsum 0 5 false), vecEntry 0x16, vecDesc (vecEntry 0x16).w0 (vecEntry 0x16).w1, by decide⟩,
    ⟨setCore 0 (fun c => { c with queue := [{ (vecEntry 0x16) with started := true }] }) (vecState 0x16), 0, 5, false, (0x16, .vecCsum 0 5 false), { (vecEntry 0x16) with started := true }, vecDesc (vecEntry 0x16).w0 (vecEntry 0x16).w1, by decide⟩,
    ⟨vecState 0x16, 0, 1, false, (0x16, .vecCsum 0 1 false), vecEntry 0x16, vecDesc (vecEntry 0x16).w0 (vecEntry 0x16).w1, by decide⟩,
    ⟨vecState 0x13, 0, 5, false, (0x13, .vecRargmax 0 5 false), vecEntry 0x13, vecDesc (vecEntry 0x13).w0 (vecEntry 0x13).w1, by decide⟩,
    ⟨setCore 0 (fun c => { c with queue := [{ (vecEntry 0x13) with started := true }] }) (vecState 0x13), 0, 5, false, (0x13, .vecRargmax 0 5 false), { (vecEntry 0x13) with started := true }, vecDesc (vecEntry 0x13).w0 (vecEntry 0x13).w1, by decide⟩,
    ⟨vecState 0x13, 0, 1, false, (0x13, .vecRargmax 0 1 false), vecEntry 0x13, vecDesc (vecEntry 0x13).w0 (vecEntry 0x13).w1, by decide⟩,
    ⟨vecState 0x19, 0, 5, false, (0x19, .vecMasklt 0 5 false), vecEntry 0x19, vecDesc (vecEntry 0x19).w0 (vecEntry 0x19).w1, by decide⟩⟩

theorem test_vectorOperations_hyps3 :
    (∃ (s : State) (n count : Nat) (parity : Bool) (p : Nat × Instr) (e : QEntry) (d : VecDesc), (n < 12288) ∧
        ((s.coreRec n).queue.find? (fun e => decide (e.q = .vector) && e.started && !e.done) = some e) ∧
        (s.coreRuns n = true) ∧ (kindOf e.w0 = 6) ∧
        (p ∈ [(0x18, Instr.vecMaskge n count parity), (0x19, Instr.vecMasklt n count parity)]) ∧
        (field e.w0 24 8 = p.1) ∧ (d = vecDesc e.w0 e.w1)) ∧
    (∃ (s : State) (n count : Nat) (parity : Bool) (p : Nat × Instr) (e : QEntry) (d : VecDesc), (n < 12288) ∧
        ((s.coreRec n).queue.find? (fun e => decide (e.q = .vector) && e.started && !e.done) = none) ∧
        (s.startable n .vector = some e) ∧ (kindOf e.w0 = 6) ∧
        (p ∈ [(0x18, Instr.vecMaskge n count parity), (0x19, Instr.vecMasklt n count parity)]) ∧
        (field e.w0 24 8 = p.1) ∧ (d = vecDesc e.w0 e.w1) ∧ (count = 1) ∧ (parity = false) ∧ (e.got = 0)) :=
  ⟨⟨setCore 0 (fun c => { c with queue := [{ (vecEntry 0x19) with started := true }] }) (vecState 0x19), 0, 5, false, (0x19, .vecMasklt 0 5 false), { (vecEntry 0x19) with started := true }, vecDesc (vecEntry 0x19).w0 (vecEntry 0x19).w1, by decide⟩,
    ⟨vecState 0x19, 0, 1, false, (0x19, .vecMasklt 0 1 false), vecEntry 0x19, vecDesc (vecEntry 0x19).w0 (vecEntry 0x19).w1, by decide⟩⟩

theorem test_parityStopsACore_hyps :
    (∃ (s : State) (n count : Nat) (p : Nat × Instr) (e : QEntry), (n < 12288) ∧
        ((s.coreRec n).queue.find? (fun e => decide (e.q = .vector) && e.started && !e.done) = none) ∧
        (s.startable n .vector = some e) ∧ (kindOf e.w0 = 6) ∧
        (p ∈ [(0x01, Instr.vecAdd n count true), (0x02, Instr.vecSub n count true), (0x03, Instr.vecMul n count true), (0x04,
          Instr.vecMax n count true), (0x05, Instr.vecMin n count true), (0x06, Instr.vecAdds n count true), (0x07,
          Instr.vecMuls n count true), (0x14, Instr.vecRowsub n count true), (0x15, Instr.vecRowmul n count true),
          (0x08, Instr.vecExp n count true), (0x09, Instr.vecRcp n count true), (0x0A, Instr.vecRsqrt n count true),
          (0x0B, Instr.vecSigmoid n count true), (0x16, Instr.vecCsum n count true), (0x10, Instr.vecRsum n count true),
          (0x11, Instr.vecRmax n count true), (0x12, Instr.vecRsumsq n count true), (0x13,
          Instr.vecRargmax n count true), (0x18, Instr.vecMaskge n count true), (0x19, Instr.vecMasklt n count true)]) ∧
        (field e.w0 24 8 = p.1)) ∧
    (∃ (s : State) (n _count : Nat) (e : QEntry), (n < 12288) ∧
        ((s.coreRec n).queue.find? (fun e => decide (e.q = .vector) && e.started && !e.done) = none) ∧
        (s.startable n .vector = some e) ∧ (kindOf e.w0 = 7)) ∧
    (∃ (s : State) (n : Nat) (_looks : List Nat) (e : QEntry), (n < 12288) ∧ (s.startable n .transfer = some e) ∧
        (kindOf e.w0 = 2)) ∧
    (∃ (s : State) (n : Nat) (e : QEntry), (n < 12288) ∧ (s.startable n .message = some e) ∧ (kindOf e.w0 = 3)) ∧
    (∃ (s : State) (n : Nat), (n < 12288) ∧ (s.powered = true) ∧ ((s.coreRec n).parityDue s.frm.count = true)) ∧
    (∃ (s : State) (n qi : Nat) (e : QEntry), (n < 12288) ∧ (qi = 0 ∨ qi = 1 ∨ qi = 4) ∧ (s.coreRuns n = true) ∧
        ((s.coreRec n).queue.find? (fun e => decide (e.q = queueAt qi) && e.started && !e.done && decide (kindOf e.w0 ≠ 4)) = some e) ∧
        (e.since + 1000000 ≤ s.frm.tc)) ∧
    (∃ (s : State) (n qi : Nat) (e : QEntry), (n < 12288) ∧ (qi = 2 ∨ qi = 3) ∧ (s.coreRuns n = true) ∧
        ((s.coreRec n).queue.find? (fun e => decide (e.q = queueAt qi) && e.started && !e.done && decide (kindOf e.w0 ≠ 4)) = some e) ∧
        (e.since + 1000000 ≤ s.frm.tc)) ∧
    (∃ (s : State) (n qi : Nat) (e : QEntry), (n < 12288) ∧ (qi < 6) ∧
        ((s.coreRec n).queue.find? (fun e => decide (e.q = queueAt qi) && e.started && !e.done && decide (kindOf e.w0 ≠ 4)) = some e) ∧
        (s.frm.tc < e.since + 1000000)) :=
  ⟨⟨vecState 0x16, 0, 1, (0x16, .vecCsum 0 1 true), vecEntry 0x16, by decide⟩,
    ⟨convState, 0, 1, convEntry, by decide⟩,
    ⟨storeState 0, 0, [], storeEntry 0, by decide⟩,
    ⟨sendState, 0, sendEntry, by decide⟩,
    ⟨setCore 12287 (fun c => { c with faultFrames := [0, 0, 0, 0] }) (liveState .running), 12287, by decide⟩,
    ⟨atTc 1000000 (queueState [runningEntry]), 0, 0, runningEntry, by decide⟩,
    ⟨atTc 1000000 (queueState [{ matEntry with started := true, need := 1, issued := 1 }]), 0, 2, { matEntry with started := true, need := 1, issued := 1 }, by decide⟩,
    ⟨queueState [runningEntry], 0, 0, runningEntry, by decide⟩⟩

theorem test_panesWork_hyps :
    (∃ (s : State) (n p cycle _blocks : Nat) (parity : Bool) (e : QEntry), (n < 12288) ∧ (p < 2) ∧
        (s.paneRunning n p = none) ∧ (s.paneNext n p = some e) ∧ (s.paneFenced n p = false) ∧
        (s.headerOk n (matDesc e.w0 e.w1) = true) ∧ (parity = false) ∧ (s.mayIssue n p cycle = true)) ∧
    (∃ (s : State) (n p cycle _blocks : Nat) (parity : Bool) (e : QEntry), (n < 12288) ∧ (p < 2) ∧
        (s.paneRunning n p = none) ∧ (s.paneNext n p = some e) ∧ (s.paneFenced n p = false) ∧
        (s.headerOk n (matDesc e.w0 e.w1) = true) ∧ (parity = false) ∧ (s.mayIssue n p cycle = false)) ∧
    (∃ (s : State) (n p _cycle _blocks : Nat) (parity : Bool) (e : QEntry), (n < 12288) ∧ (p < 2) ∧
        (s.paneRunning n p = none) ∧ (s.paneNext n p = some e) ∧ (s.paneFenced n p = false) ∧
        (s.headerOk n (matDesc e.w0 e.w1) = true) ∧ (parity = true)) ∧
    (∃ (s : State) (n p cycle _blocks : Nat) (e : QEntry), (n < 12288) ∧ (p < 2) ∧ (s.paneRunning n p = some e) ∧
        (s.coreRuns n = true) ∧ (s.mayIssue n p cycle = true)) ∧
    (∃ (s : State) (n p cycle : Nat) (e : QEntry) (d : MatDesc), (n < 12288) ∧ (p < 2) ∧ (s.paneRunning n p = none) ∧
        (s.paneNext n p = some e) ∧ (s.paneFenced n p = false) ∧ (s.headerOk n (matDesc e.w0 e.w1) = true) ∧
        (s.mayIssue n p cycle = true) ∧ (d = matDesc e.w0 e.w1) ∧ (d.kb = 1) ∧ (0 < d.halves) ∧
        ((s.paneOf n p).halves = []) ∧ ((s.paneOf n p).fill = none) ∧ ((s.coreRec n).queue = [e]) ∧ (e.issued = 0)) ∧
    (∃ (s : State) (n p _cycle _blocks : Nat) (_parity : Bool) (e : QEntry), (n < 12288) ∧ (p < 2) ∧
        (s.paneRunning n p = none) ∧ (s.paneNext n p = some e) ∧ (s.paneFenced n p = true)) ∧
    (∃ (s : State) (n p _cycle _blocks : Nat) (_parity : Bool) (e : QEntry), (n < 12288) ∧ (p < 2) ∧
        (s.paneRunning n p = none) ∧ (s.paneNext n p = some e) ∧ (s.paneFenced n p = false) ∧
        (s.headerOk n (matDesc e.w0 e.w1) = false)) ∧
    (∃ (s : State) (n p _cycle _blocks : Nat) (_parity : Bool), (n < 12288) ∧ (p < 2) ∧ (s.paneRunning n p = none) ∧
        (s.paneNext n p = none)) ∧
    (∃ (s : State) (n p _a _b _c _f _g : Nat) (par : Bool) (h : HalfAcc) (rest : List HalfAcc) (e : QEntry), (n < 12288) ∧
        (p < 2) ∧ (s.coreRuns n = true) ∧ (s.paneFenced n p = false) ∧ ((s.paneOf n p).halves = h :: rest) ∧
        (s.entryOf n h.uid = some e) ∧ (par = false ∨ (matDesc e.w0 e.w1).acc = false)) ∧
    (∃ (s : State) (n p _a _b _c _f _g : Nat) (h : HalfAcc) (rest : List HalfAcc) (e : QEntry), (n < 12288) ∧ (p < 2) ∧
        (s.coreRuns n = true) ∧ (s.paneFenced n p = false) ∧ ((s.paneOf n p).halves = h :: rest) ∧
        (s.entryOf n h.uid = some e) ∧ ((matDesc e.w0 e.w1).acc = true)) ∧
    (∃ (s : State) (n p _a _b _c _f _g : Nat) (_par : Bool), (n < 12288) ∧ (p < 2) ∧
        ((s.paneOf n p).halves = [] ∨ s.coreRuns n = false ∨ s.paneFenced n p = true)) ∧
    (∃ (s : State) (n p : Nat), (n < 12288) ∧ (p < 2) ∧ (s.powered = true) ∧ (s.paneGood n p = true)) :=
  ⟨⟨matState, 0, 0, 0, 1, false, matEntry, by decide⟩,
    ⟨{ matState with sup := { matState.sup with limiting := true } }, 0, 0, 1, 1, false, matEntry, by decide⟩,
    ⟨matState, 0, 0, 0, 1, true, matEntry, by decide⟩,
    ⟨setCore 0 (fun c => { c with queue := [{ matEntry with started := true, need := 1 }] }) matState, 0, 0, 0, 1, { matEntry with started := true, need := 1 }, by decide⟩,
    ⟨matState, 0, 0, 0, matEntry, matDesc matEntry.w0 matEntry.w1, by decide⟩,
    ⟨fenceTable 3 { kind := 1, unit := 0, sub := 0 } matState, 0, 0, 0, 1, false, matEntry, by decide⟩,
    ⟨codedState, 0, 0, 0, 1, false, codedEntry, by decide⟩,
    ⟨framedState .inFrame, 12287, 1, 0, 1, true, by decide⟩,
    ⟨drainState, 0, 0, 1, 2, 3, 4, 5, false, { uid := 9, half := 0, outs := [(0, 0, 0)] }, [], { matEntry with started := true, need := 1, issued := 1 }, by decide⟩,
    ⟨accState, 0, 0, 1, 2, 3, 4, 5, { uid := 9, half := 0, outs := [(0, 0, 0)] }, [], accEntry, by decide⟩,
    ⟨matState, 0, 0, 1, 2, 3, 4, 5, true, by decide⟩,
    ⟨drainState, 0, 0, by decide⟩⟩

theorem test_conversionsAndGathers_hyps :
    (∃ (s : State) (n _count : Nat) (_parity : Bool) (e : QEntry) (d : ConvDesc), (n < 12288) ∧
        ((s.coreRec n).queue.find? (fun e => decide (e.q = .vector) && e.started && !e.done) = none) ∧
        (s.startable n .vector = some e) ∧ (kindOf e.w0 = 7) ∧ (d = convDesc e.w0 e.w1)) ∧
    (∃ (s : State) (n _count : Nat) (_parity : Bool) (e : QEntry) (d : ConvDesc), (n < 12288) ∧
        ((s.coreRec n).queue.find? (fun e => decide (e.q = .vector) && e.started && !e.done) = some e) ∧
        (s.coreRuns n = true) ∧ (kindOf e.w0 = 7) ∧ (d = convDesc e.w0 e.w1)) ∧
    (∃ (s : State) (n : Nat) (e : QEntry) (d : ConvDesc), (n < 12288) ∧
        ((s.coreRec n).queue.find? (fun e => decide (e.q = .vector) && e.started && !e.done) = none) ∧
        (s.startable n .vector = some e) ∧ (kindOf e.w0 = 7) ∧ (d = convDesc e.w0 e.w1) ∧ (e.got = 0) ∧
        (isMx d.inF = false) ∧ (isMx d.outF = false) ∧ (d.rnd = false) ∧ (d.scaleSrc ≠ 1)) ∧
    (∃ (s : State) (n _count x : Nat) (_parity : Bool) (e : QEntry) (d : ConvDesc), (n < 12288) ∧
        ((s.coreRec n).queue.find? (fun e => decide (e.q = .vector) && e.started && !e.done) = none) ∧
        (s.startable n .vector = some e) ∧ (kindOf e.w0 = 7) ∧ (d = convDesc e.w0 e.w1) ∧ (e.got = 0) ∧
        (x < n * storeSize + d.dst ∨ n * storeSize + d.dst + d.rows * rowBytes d.outF d.n ≤ x) ∧
        (x < n * storeSize + d.scaleAt ∨ n * storeSize + d.scaleAt + d.rows * scaleRow d.n ≤ x)) ∧
    (∃ (s : State) (n : Nat) (e : QEntry) (u : BankUnit), (n < 12288) ∧ (s.startable n .bank = some e) ∧ (kindOf e.w0 = 8) ∧
        (u = s.unitOf n (field e.w0 27 5)) ∧ ((u.slot (field e.w0 24 3)).free = true) ∧
        (field e.w0 24 3 < u.slots.length) ∧ (s.bankFenced n (field e.w0 27 5) = false)) ∧
    (∃ (s : State) (n : Nat) (e : QEntry), (n < 12288) ∧ (s.startable n .bank = some e) ∧ (kindOf e.w0 = 8) ∧
        (((s.unitOf n (field e.w0 27 5)).slot (field e.w0 24 3)).free = true) ∧
        (s.bankFenced n (field e.w0 27 5) = true)) ∧
    (∃ (s : State) (n : Nat) (e : QEntry), (n < 12288) ∧ (s.startable n .bank = some e) ∧ (kindOf e.w0 = 8) ∧
        (((s.unitOf n (field e.w0 27 5)).slot (field e.w0 24 3)).free = false)) :=
  ⟨⟨convState, 0, 1, false, convEntry, convDesc convEntry.w0 convEntry.w1, by decide⟩,
    ⟨setCore 0 (fun c => { c with queue := [{ convEntry with started := true }] }) convState, 0, 1, false, { convEntry with started := true }, convDesc convEntry.w0 convEntry.w1, by decide⟩,
    ⟨convState, 0, convEntry, convDesc convEntry.w0 convEntry.w1, by decide⟩,
    ⟨convState, 0, 1, 4096, false, convEntry, convDesc convEntry.w0 convEntry.w1, by decide⟩,
    ⟨gatherState, 0, gatherEntry, bankUnit0, by decide⟩,
    ⟨fenceTable 3 { kind := 3, unit := 0 } gatherState, 0, gatherEntry, by decide⟩,
    ⟨setSlot 0 5 2 (fun x => { x with state := 1 }) gatherState, 0, gatherEntry, by decide⟩⟩

theorem test_microOpsMove_hyps :
    (∃ (s : State) (n b : Nat) (m : Micro), (n < 12288) ∧ (b < 24) ∧ (s.microAt n b 9 = some m)) ∧
    (∃ (s : State) (n b : Nat) (m : Micro), (n < 12288) ∧ (b < 24) ∧ (s.microAt n b 11 = some m)) ∧
    (∃ (s : State) (n b : Nat) (m : Micro), (n < 12288) ∧ (b < 24) ∧ (s.microAt n b 6 = some m)) ∧
    (∃ (s : State) (n b : Nat) (m : Micro), (n < 12288) ∧ (b < 24) ∧ (s.microAt n b 5 = some m)) ∧
    (∃ (s : State) (n b : Nat) (m : Micro), (n < 12288) ∧ (b < 24) ∧ (s.microAt n b 8 = some m)) ∧
    (∃ (s : State) (n b : Nat) (m : Micro) (_parity : Bool) (_flips : List (Nat × Nat)), (n < 12288) ∧ (b < 24) ∧
        (s.microAt n b 1 = some m) ∧ (m.r.remaining = 0)) ∧
    (∃ (s : State) (n b : Nat) (m : Micro) (_flips : List (Nat × Nat)), (n < 12288) ∧ (b < 24) ∧
        (s.microAt n b 1 = some m) ∧ (m.r.remaining ≠ 0) ∧ (m.r.buf ≠ []) ∧ (m.r.slot < (s.unitOf n b).slots.length)) ∧
    (∃ (s : State) (n b : Nat) (m : Micro), (n < 12288) ∧ (b < 24) ∧ (s.microAt n b 10 = some m) ∧
        (m.r.slot < (s.unitOf n b).slots.length)) ∧
    (∃ (s : State) (n b : Nat) (_pa : Bool) (_pw : Option Nat) (_fl : List (Nat × Nat)), (n < 12288) ∧ (b < 24) ∧
        (s.microRun n b = none ∨ ((s.microRun n b).map (fun r => (s.microWord r.pc).isSome)) = some false)) :=
  ⟨⟨bankState 8, 1, 5, bankMicro 8, by decide⟩,
    ⟨bankState 0, 1, 5, bankMicro 0, by decide⟩,
    ⟨bankState 5, 1, 5, bankMicro 5, by decide⟩,
    ⟨bankState 4, 1, 5, bankMicro 4, by decide⟩,
    ⟨bankState 1, 1, 5, bankMicro 1, by decide⟩,
    ⟨emptyBank, 1, 5, emptyMicro, true, [], by decide⟩,
    ⟨bankState 2, 1, 5, bankMicro 2, [], by decide⟩,
    ⟨bankState 9, 1, 5, bankMicro 9, by decide⟩,
    ⟨framedState .inFrame, 12287, 23, true, some 1, [], by decide⟩⟩

theorem test_microOpsReadAndWrite_hyps1 :
    (∃ (s : State) (n b : Nat) (m : Micro) (_parity : Bool) (_flips : List (Nat × Nat)), (n < 12288) ∧ (b < 24) ∧
        (s.microAt n b 2 = some m) ∧ (65536 < m.x.tableOff + m.r.index * m.x.rowLen + m.x.rowLen) ∧
        (m.r.slot < (s.unitOf n b).slots.length)) ∧
    (∃ (s : State) (n b : Nat) (m : Micro), (n < 12288) ∧ (b < 24) ∧ (s.microAt n b 4 = some m) ∧
        (m.r.cursor + m.n ≤ m.x.resultOff + m.x.resultLen) ∧
        ((List.range m.n).all (fun i => match s.windowOf (bankBase n b + 32 * m.r.cursor + 32 * i) with | some w => w.workOwned | none => true) = true) ∧
        (s.lockedIn (bankBase n b + 32 * m.r.cursor) (m.n) = false) ∧
        (s.blockedIn (bankBase n b + 32 * m.r.cursor) (m.n) = none) ∧
        (s.pathBad (bankBase n b + 32 * m.r.cursor) = false) ∧ (m.r.slot < (s.unitOf n b).slots.length)) ∧
    (∃ (s : State) (n b : Nat) (m : Micro), (n < 12288) ∧ (b < 24) ∧ (s.microAt n b 7 = some m) ∧
        (m.r.cursor + m.n ≤ m.x.resultOff + m.x.resultLen) ∧
        ((List.range m.n).all (fun i => match s.windowOf (bankBase n b + 32 * m.r.cursor + 32 * i) with | some w => w.workOwned | none => true) = true) ∧
        (s.lockedIn (bankBase n b + 32 * m.r.cursor) (m.n) = false) ∧
        (s.blockedIn (bankBase n b + 32 * m.r.cursor) (m.n) = none) ∧
        (s.pathBad (bankBase n b + 32 * m.r.cursor) = false) ∧ (m.r.slot < (s.unitOf n b).slots.length)) ∧
    (∃ (s : State) (n b : Nat) (m : Micro) (_pw : Option Nat), (n < 12288) ∧ (b < 24) ∧ (s.microAt n b 7 = some m) ∧
        (m.x.resultOff + m.x.resultLen < m.r.cursor + m.n) ∧ (m.r.slot < (s.unitOf n b).slots.length)) ∧
    (∃ (s : State) (n b : Nat) (m : Micro) (_pw : Option Nat), (n < 12288) ∧ (b < 24) ∧ (s.microAt n b 4 = some m) ∧
        (m.x.resultOff + m.x.resultLen < m.r.cursor + m.n) ∧ (m.r.slot < (s.unitOf n b).slots.length)) ∧
    (∃ (s : State) (n b i : Nat) (m : Micro) (w : Win) (_pw : Option Nat), (n < 12288) ∧ (b < 24) ∧
        (s.microAt n b 4 = some m) ∧ (m.r.cursor + m.n ≤ m.x.resultOff + m.x.resultLen) ∧ (i < m.n) ∧
        (s.windowOf (bankBase n b + 32 * m.r.cursor + 32 * i) = some w) ∧ (w.workOwned = false) ∧
        (m.r.slot < (s.unitOf n b).slots.length)) ∧
    (∃ (s : State) (n b i : Nat) (m : Micro), (n < 12288) ∧ (b < 24) ∧ (s.microAt n b 4 = some m) ∧
        (m.r.cursor + m.n ≤ m.x.resultOff + m.x.resultLen) ∧ (i < m.n) ∧
        ((List.range m.n).all (fun i => match s.windowOf (bankBase n b + 32 * m.r.cursor + 32 * i) with | some w => w.workOwned | none => true) = true) ∧
        (s.lockedIn (bankBase n b + 32 * m.r.cursor) (i) = false) ∧
        (s.blockedIn (bankBase n b + 32 * m.r.cursor) (i) = none) ∧
        (s.pathBad (bankBase n b + 32 * m.r.cursor) = false) ∧ (m.r.slot < (s.unitOf n b).slots.length)) ∧
    (∃ (s : State) (n b i : Nat) (m : Micro), (n < 12288) ∧ (b < 24) ∧ (s.microAt n b 7 = some m) ∧
        (m.r.cursor + m.n ≤ m.x.resultOff + m.x.resultLen) ∧ (i < m.n) ∧
        ((List.range m.n).all (fun i => match s.windowOf (bankBase n b + 32 * m.r.cursor + 32 * i) with | some w => w.workOwned | none => true) = true) ∧
        (s.lockedIn (bankBase n b + 32 * m.r.cursor) (i) = false) ∧
        (s.blockedIn (bankBase n b + 32 * m.r.cursor) (i) = none) ∧
        (s.pathBad (bankBase n b + 32 * m.r.cursor) = false) ∧ (m.r.slot < (s.unitOf n b).slots.length)) ∧
    (∃ (s : State) (n b : Nat) (m : Micro) (_flips : List (Nat × Nat)), (n < 12288) ∧ (b < 24) ∧
        (s.microAt n b 2 = some m) ∧ (m.x.tableOff + m.r.index * m.x.rowLen + m.x.rowLen ≤ 65536) ∧
        (m.r.slot < (s.unitOf n b).slots.length)) :=
  ⟨⟨farBank, 1, 5, farMicro, false, [], by decide⟩,
    ⟨bankState 13, 1, 5, bankMicro 13, by decide⟩,
    ⟨bankState 6, 1, 5, bankMicro 6, by decide⟩,
    ⟨fullBank 6, 1, 5, fullMicro 6, none, by decide⟩,
    ⟨fullBank 13, 1, 5, fullMicro 13, some 0, by decide⟩,
    ⟨hostBank, 1, 5, 0, bankMicro 13, hostWin, none, by decide⟩,
    ⟨bankState 13, 1, 5, 0, bankMicro 13, by decide⟩,
    ⟨bankState 6, 1, 5, 0, bankMicro 6, by decide⟩,
    ⟨bankState 12, 1, 5, bankMicro 12, [], by decide⟩⟩

theorem test_microOpsReadAndWrite_hyps2 :
    (∃ (s s2 : State) (n b : Nat) (m : Micro) (d : List Nat) (flips : List (Nat × Nat)), (n < 12288) ∧ (b < 24) ∧
        (s.microAt n b 2 = some m) ∧ (m.x.tableOff + m.r.index * m.x.rowLen + m.x.rowLen ≤ 65536) ∧
        (readBytes { code := 6, source := b } false (bankBase n b + 32 * (m.x.tableOff + m.r.index * m.x.rowLen + m.r.piece)) (32 * m.n) (flipSymbols (bankBase n b + 32 * (m.x.tableOff + m.r.index * m.x.rowLen + m.r.piece)) flips s) = (.data d,
          s2))) :=
  ⟨bankState 12, (readBytes { code := 6, source := 5 } false (bankBase 1 5) 32 (bankState 12)).2, 1, 5, bankMicro 12, List.replicate 32 0, [], by decide⟩

theorem test_microOpsReadAndWrite_hyps3 :
    (∃ (s s2 : State) (n b : Nat) (m : Micro) (d : List Nat) (flips : List (Nat × Nat)), (n < 12288) ∧ (b < 24) ∧
        (s.microAt n b 3 = some m) ∧ (m.x.op ≠ 0) ∧ (m.x.tableOff + m.r.index * m.x.rowLen + m.x.rowLen ≤ 65536) ∧
        (readBytes { code := 6, source := b } false (bankBase n b + 32 * (m.x.tableOff + m.r.index * m.x.rowLen + m.r.piece)) (32 * m.n) (flipSymbols (bankBase n b + 32 * (m.x.tableOff + m.r.index * m.x.rowLen + m.r.piece)) flips s) = (.data d,
          s2))) :=
  ⟨bankState 3, (readBytes { code := 6, source := 5 } false (bankBase 1 5) 32 (bankState 3)).2, 1, 5, bankMicro 3, List.replicate 32 0, [], by decide⟩

theorem test_microOpsReadAndWrite_hyps4 :
    (∃ (s s2 : State) (n b : Nat) (m : Micro) (d : List Nat) (flips : List (Nat × Nat)), (n < 12288) ∧ (b < 24) ∧
        (s.microAt n b 3 = some m) ∧ (m.x.op = 0) ∧ (m.x.tableOff + m.r.index * m.x.rowLen + m.x.rowLen ≤ 65536) ∧
        (readBytes { code := 6, source := b } false (bankBase n b + 32 * (m.x.tableOff + m.r.index * m.x.rowLen + m.r.piece)) (32 * m.n) (flipSymbols (bankBase n b + 32 * (m.x.tableOff + m.r.index * m.x.rowLen + m.r.piece)) flips s) = (.data d,
          s2))) :=
  ⟨copyBank, (readBytes { code := 6, source := 5 } false (bankBase 1 5) 32 copyBank).2, 1, 5, { bankMicro 3 with x := { bankSlot with op := 0 } }, List.replicate 32 0, [], by decide⟩

theorem test_microOpsReadAndWrite_hyps5 :
    (∃ (s s2 : State) (n b : Nat) (m : Micro) (flips : List (Nat × Nat)), (n < 12288) ∧ (b < 24) ∧
        (s.microAt n b 2 = some m) ∧ (m.x.tableOff + m.r.index * m.x.rowLen + m.x.rowLen ≤ 65536) ∧
        (readBytes { code := 6, source := b } false (bankBase n b + 32 * (m.x.tableOff + m.r.index * m.x.rowLen + m.r.piece)) (32 * m.n) (flipSymbols (bankBase n b + 32 * (m.x.tableOff + m.r.index * m.x.rowLen + m.r.piece)) flips s) = (.error 1,
          s2)) ∧
        (m.r.slot < (s.unitOf n b).slots.length)) :=
  ⟨bankState 12, (readBytes { code := 6, source := 5 } false (bankBase 1 5) 32 (flipSymbols (bankBase 1 5) [(0, 1), (1, 1), (2, 1)] (bankState 12))).2, 1, 5, bankMicro 12, [(0, 1), (1, 1), (2, 1)], by decide⟩

theorem test_microOpsReadAndWrite_hyps6 :
    (∃ (s s2 : State) (n b : Nat) (m : Micro) (d : List Nat) (flips : List (Nat × Nat)), (n < 12288) ∧ (b < 24) ∧
        (s.microAt n b 1 = some m) ∧ (m.r.remaining ≠ 0) ∧ (m.r.buf = []) ∧ (m.r.slot < (s.unitOf n b).slots.length) ∧
        (readBytes { code := 6, source := b } false (bankBase n b + 32 * (m.x.listOff + m.r.taken / 4)) (32 * min 32 m.listLeft) (flipSymbols (bankBase n b + 32 * (m.x.listOff + m.r.taken / 4)) flips s) = (.data d,
          s2))) :=
  ⟨unreadBank, (readBytes { code := 6, source := 5 } false (bankBase 1 5 + 64) 32 unreadBank).2, 1, 5, unreadMicro, List.replicate 32 0, [], by decide⟩

theorem test_bankCommandsStartAndEnd_hyps :
    (∃ (s : State) (n b i : Nat) (u : BankUnit) (_idle : List Nat), (n < 12288) ∧ (b < 24) ∧ (s.bankLive n b = true) ∧
        (u = s.unitOf n b) ∧ (u.run = none) ∧
        (u.order.find? (fun i => decide (i < 6)) = some i ∨ (u.order.find? (fun i => decide (i < 6)) = none ∧ u.yielded = [] ∧
          u.order.head? = some i)) ∧
        (i < u.slots.length) ∧ (s.slotCause (u.slot i) = 0)) ∧
    (∃ (s : State) (n b i : Nat) (u : BankUnit) (_idle : List Nat), (n < 12288) ∧ (b < 24) ∧ (s.bankLive n b = true) ∧
        (u = s.unitOf n b) ∧ (u.run = none) ∧
        (u.order.find? (fun i => decide (i < 6)) = some i ∨ (u.order.find? (fun i => decide (i < 6)) = none ∧ u.yielded = [] ∧
          u.order.head? = some i)) ∧
        (i < u.slots.length) ∧ (s.slotCause (u.slot i) ≠ 0)) ∧
    (∃ (s : State) (n b : Nat) (u : BankUnit) (r : BankRun) (rest : List BankRun) (_idle : List Nat), (n < 12288) ∧
        (b < 24) ∧ (s.bankLive n b = true) ∧ (u = s.unitOf n b) ∧ (u.run = none) ∧
        (u.order.find? (fun i => decide (i < 6)) = none) ∧ (u.yielded = r :: rest)) ∧
    (∃ (s : State) (n b i : Nat) (u : BankUnit) (r : BankRun) (_idle : List Nat), (n < 12288) ∧ (b < 24) ∧
        (s.bankLive n b = true) ∧ (u = s.unitOf n b) ∧ (u.run = some r) ∧ (6 ≤ r.slot) ∧
        (u.order.find? (fun i => decide (i < 6)) = some i) ∧ (i < u.slots.length) ∧ (s.slotCause (u.slot i) = 0)) ∧
    (∃ (s : State) (n b : Nat) (r : BankRun), (n < 12288) ∧ (b < 24) ∧ (s.microRun n b = some r) ∧
        (s.microWord r.pc = none ∨ ((s.microWord r.pc).any (fun w => decide (field w 27 5 = 0 ∨ 0x0B < field w 27 5)) = true)) ∧
        (r.slot < (s.unitOf n b).slots.length)) ∧
    (∃ (s : State) (n b : Nat) (r : BankRun), (n < 12288) ∧ (b < 24) ∧ (s.bankLive n b = true) ∧
        ((s.unitOf n b).run = some r) ∧ (r.slot < (s.unitOf n b).slots.length) ∧ (6 ≤ r.slot) ∧
        (100000000 ≤ r.ranTc + (s.frm.tc - r.sinceTc))) ∧
    (∃ (s : State) (n b : Nat) (r : BankRun), (n < 12288) ∧ (b < 24) ∧ ((s.unitOf n b).run = some r) ∧
        (r.slot < 6 ∨ r.ranTc + (s.frm.tc - r.sinceTc) < 100000000)) ∧
    (∃ (s : State) (n b : Nat) (r : BankRun), (n < 12288) ∧ (b < 24) ∧ (s.bankLive n b = true) ∧
        ((s.unitOf n b).run = some r) ∧ (r.slot < 8) ∧ (((s.unitOf n b).slot r.slot).free = false)) ∧
    (∃ (s : State) (n b : Nat), (n < 12288) ∧ (b < 24) ∧ (s.bankLive n b = true) ∧ ((s.unitOf n b).parityDue = true) ∧
        (((s.unitOf n b).run.all (fun r => decide (r.slot < 8) && !((s.unitOf n b).slot r.slot).free)) = true)) :=
  ⟨⟨waitingBank 1, 1, 5, 2, (waitingBank 1).unitOf 1 5, [0], by decide⟩,
    ⟨waitingBank 0, 1, 5, 2, (waitingBank 0).unitOf 1 5, [], by decide⟩,
    ⟨setUnit 1 5 (fun u => { u with run := none, yielded := [oldRun] }) (bankState 6), 1, 5, (setUnit 1 5 (fun u => { u with run := none, yielded := [oldRun] }) (bankState 6)).unitOf 1 5, oldRun, [], [], by decide⟩,
    ⟨yieldBank, 1, 5, 2, yieldBank.unitOf 1 5, oldRun, [], by decide⟩,
    ⟨bankState 16, 1, 5, bankRun 16, by decide⟩,
    ⟨oldBank, 1, 5, oldRun, by decide⟩,
    ⟨bankState 6, 1, 5, bankRun 6, by decide⟩,
    ⟨bankState 6, 1, 5, bankRun 6, by decide⟩,
    ⟨setUnit 1 5 (fun u => { u with parityDue := true }) (bankState 6), 1, 5, by decide⟩⟩

theorem test_memoryUpkeep_hyps1 :
    (∃ (s : State) (n b : Nat), (n < 12288) ∧ (b < 24) ∧ (s.tileLive n = true) ∧ (s.bankFenced n b = false) ∧
        (mapGet 0 s.mem.owed (n * 32 + b) < 4)) ∧
    (∃ (s : State) (n b : Nat) (serving idled : Bool), (n < 12288) ∧ (b < 24) ∧ (s.tileLive n = true) ∧
        (s.bankFenced n b = false) ∧ (serving = false ∨ (idled = false ∧ 4 ≤ mapGet 0 s.mem.owed (n * 32 + b)))) ∧
    (∃ (s : State) (n b : Nat), (n < 12288) ∧ (b < 24) ∧ (s.tileLive n = true) ∧ (s.bankFenced n b = false)) ∧
    (∃ (s : State) (n b : Nat) (_serving _idled : Bool), (n < 12288) ∧ (b < 24) ∧
        (s.tileLive n = false ∨ s.bankFenced n b = true)) ∧
    (∃ (s : State) (n : Nat) (fl ag : List (Nat × Nat)) (_pa : List Nat), (n < 12288) ∧ (s.scrubDue n = true) ∧
        (s.bankFenced n ((s.tileRec n).run / 1024) = false) ∧ (fl.all (fun f => decide (f.1 < 2304)) = true) ∧
        (ag.all (fun f => decide (f.1 < 2304)) = true)) ∧
    (∃ (s : State) (n : Nat) (_fl _ag : List (Nat × Nat)) (_pa : List Nat), (n < 12288) ∧ (s.scrubDue n = true) ∧
        (s.bankFenced n ((s.tileRec n).run / 1024) = true)) ∧
    (∃ (s : State) (n : Nat), (n < 12288) ∧ (s.scrubDue n = true) ∧ (s.bankFenced n ((s.tileRec n).run / 1024) = false) ∧
        ((List.range 64).all (fun i => match rsDecode (s.codeWord ((n * slotSize + (s.tileRec n).run / 1024 * bankData + (s.tileRec n).run % 1024 * 2048) + 32 * i)) with | .good _ => true | _ => false) = true)) ∧
    (∃ (s : State) (n : Nat) (_fl _ag : List (Nat × Nat)) (_pa : List Nat), (n < 12288) ∧ (s.scrubDue n = false)) :=
  ⟨⟨bankState 6, 1, 5, by decide⟩,
    ⟨bankState 6, 1, 5, false, true, by decide⟩,
    ⟨bankState 6, 1, 5, by decide⟩,
    ⟨liveState .rom, 1, 5, true, true, by decide⟩,
    ⟨scrubState, 1, [(70, 1)], [], [3], by decide⟩,
    ⟨fenceTable 3 { kind := 4, unit := 1, sub := 0 } scrubState, 1, [], [], [], by decide⟩,
    ⟨scrubState, 1, by decide, by decide, by decide,
      List.all_eq_true.2 (fun i _ => by rw [blank_word (s := scrubState) ⟨rfl, rfl, rfl, rfl⟩])⟩,
    ⟨liveState .ready, 5, [], [], [], by decide⟩⟩

theorem test_memoryUpkeep_hyps2 :
    (∃ (s : State) (n : Nat), (n < 12288) ∧ (s.tileLive n = true) ∧
        ((s.tileRec n).window = s.frm.tc / (max 1 s.mem.ceWindow * 1000000000)) ∧ ((s.tileRec n).windowRaised = false) ∧
        (s.mem.ceCount ≤ (s.tileRec n).windowCorrected)) ∧
    (∃ (s : State) (n : Nat), (n < 12288) ∧ (s.tileLive n = true) ∧ ((s.tileRec n).retraining = false)) ∧
    (∃ (s : State) (n : Nat), (n < 12288) ∧ (s.tileLive n = true) ∧ ((s.tileRec n).retraining = true)) ∧
    (∃ (s : State) (n : Nat), (n < 12288) ∧ (s.tileLive n = true) ∧ ((s.tileRec n).retraining = true) ∧
        ((s.tileRec n).holds = [])) ∧
    (∃ (s : State) (n b : Nat), (n < 12288) ∧ (b < 24) ∧ (s.bankLive n b = true) ∧ ((s.tileRec n).holds = [])) ∧
    (∃ (s : State) (n : Nat), (n < 12288) ∧ (s.tileLive n = true) ∧ ((s.tileRec n).parityDue = true) ∧
        ((s.tileRec n).holds = [])) ∧
    (∃ (s : State) (n : Nat), (n < 12288) ∧ (s.tileLive n = true) ∧ (1520 < s.memTemp (regionOf n))) ∧
    (∃ (s : State) (r lane word _cyc : Nat) (_parity : Bool) (_flips : List (Nat × Nat)), (r < 512) ∧ (lane < 16) ∧
        ((s.walkerOf r).walks.find? (fun x => decide (x.lane = lane) && decide (x.word = word) && x.started) = none ∨
          (s.tileRec (tileOf ((nth {} (s.walkerOf r).lanes lane).ptBase + 32 * word))).retraining = true)) :=
  ⟨⟨setTile 1 (fun x => { x with windowCorrected := 1024 }) (bankState 6), 1, by decide⟩,
    ⟨bankState 6, 1, by decide⟩,
    ⟨setTile 1 (fun x => { x with retraining := true }) (bankState 6), 1, by decide⟩,
    ⟨setTile 1 (fun x => { x with retraining := true }) (bankState 6), 1, by decide⟩,
    ⟨bankState 6, 1, 5, by decide⟩,
    ⟨setTile 1 (fun x => { x with parityDue := true }) (bankState 6), 1, by decide⟩,
    ⟨hotState, 1, by decide⟩,
    ⟨walkState, 3, 2, 8, 50, false, [], by decide⟩⟩

theorem test_memoryUpkeep_hyps3 :
    (∃ (s s2 : State) (r lane word cyc : Nat) (parity : Bool) (flips : List (Nat × Nat)) (w : Walk) (b : List Nat),
        (r < 512) ∧ (lane < 16) ∧
        ((s.walkerOf r).walks.find? (fun x => decide (x.lane = lane) && decide (x.word = word) && x.started) = some w) ∧
        (s.powered = true) ∧
        ((s.tileRec (tileOf ((nth {} (s.walkerOf r).lanes lane).ptBase + 32 * word))).retraining = false) ∧
        (readBytes (walkerWho r) parity ((nth {} (s.walkerOf r).lanes lane).ptBase + 32 * word) 32 (flipSymbols ((nth {} (s.walkerOf r).lanes lane).ptBase + 32 * word) flips (setWalker r (fun x => { x with walks := startWalks (x.walks.filter (fun y => !(decide (y.lane = lane) && decide (y.word = word)))), ctr := { x.ctr with misses := satAdd 32 x.ctr.misses 1, cycles := satAdd 32 x.ctr.cycles cyc } }) s)) = (.data b,
          s2))) :=
  ⟨walkState, (readBytes (walkerWho 3) false (32 * 7) 32 (setWalker 3 (fun x => { x with walks := [], ctr := { x.ctr with misses := 1, cycles := 50 } }) walkState)).2, 3, 2, 7, 50, false, [], { lane := 2, word := 7, pieces := [], started := true }, List.replicate 32 0, by decide⟩

theorem test_memoryUpkeep_hyps4 :
    (∃ (s s2 : State) (r lane word cyc : Nat) (parity : Bool) (flips : List (Nat × Nat)) (w : Walk) (c : Nat), (r < 512) ∧
        (lane < 16) ∧
        ((s.walkerOf r).walks.find? (fun x => decide (x.lane = lane) && decide (x.word = word) && x.started) = some w) ∧
        (s.powered = true) ∧
        ((s.tileRec (tileOf ((nth {} (s.walkerOf r).lanes lane).ptBase + 32 * word))).retraining = false) ∧
        (readBytes (walkerWho r) parity ((nth {} (s.walkerOf r).lanes lane).ptBase + 32 * word) 32 (flipSymbols ((nth {} (s.walkerOf r).lanes lane).ptBase + 32 * word) flips (setWalker r (fun x => { x with walks := startWalks (x.walks.filter (fun y => !(decide (y.lane = lane) && decide (y.word = word)))), ctr := { x.ctr with misses := satAdd 32 x.ctr.misses 1, cycles := satAdd 32 x.ctr.cycles cyc } }) s)) = (.error c,
          s2))) :=
  ⟨walkState, (readBytes (walkerWho 3) true (32 * 7) 32 (setWalker 3 (fun x => { x with walks := [], ctr := { x.ctr with misses := 1, cycles := 50 } }) walkState)).2, 3, 2, 7, 50, true, [], { lane := 2, word := 7, pieces := [], started := true }, 2, by decide⟩

theorem test_hostReachesMemory_hyps1 :
    (∃ (s : State) (off len : Nat) (_fl : List (Nat × Nat)) (_pa : Bool), (0 < len) ∧ (len ≤ 4096) ∧ (off + len ≤ 2 ^ 36) ∧
        (s.keeperUp = true) ∧ (s.bar2Live = false)) ∧
    (∃ (s : State) (off : Nat) (bytes : List Nat) (_en _pa : Bool), (0 < bytes.length) ∧ (bytes.length ≤ 4096) ∧
        (off + bytes.length ≤ 2 ^ 36) ∧ (s.keeperUp = true) ∧ (s.bar2Live = false)) ∧
    (∃ (s : State) (off len : Nat) (_pa : Bool), (0 < len) ∧ (len ≤ 4096) ∧ (off + len ≤ 2 ^ 36) ∧ (s.bar2Live = true) ∧
        (s.tileHolds (s.bar2Addr off) = false)) ∧
    (∃ (s : State) (off : Nat) (bytes : List Nat), (0 < bytes.length) ∧ (bytes.length ≤ 4096) ∧
        (off + bytes.length ≤ 2 ^ 36) ∧ (s.bar2Live = true) ∧ (off % 32 = 0) ∧ (bytes.length % 32 = 0) ∧
        (s.tileHolds (s.bar2Addr off) = false) ∧ (s.mem.dpBad = []) ∧
        (s.lockedIn (s.bar2Addr off) (bytes.length / 32) = false) ∧
        (s.blockedIn (s.bar2Addr off) (bytes.length / 32) = none)) ∧
    (∃ (s : State) (off : Nat) (bytes : List Nat) (en _pa : Bool), (0 < bytes.length) ∧ (bytes.length ≤ 4096) ∧
        (off + bytes.length ≤ 2 ^ 36) ∧ (s.bar2Live = true) ∧ (off % 32 ≠ 0 ∨ bytes.length % 32 ≠ 0 ∨ en = false) ∧
        (s.lockedSpan (s.bar2Addr off) bytes.length = false)) ∧
    (∃ (s : State) (off len : Nat) (_fl : List (Nat × Nat)) (_pa : Bool), (0 < len) ∧ (len ≤ 4096) ∧ (off + len ≤ 2 ^ 36) ∧
        (s.bar2Live = true) ∧ (s.tileHolds (s.bar2Addr off) = true)) ∧
    (∃ (s : State) (i hpa : Nat) (_pa : Bool), (s.kpr.state ≠ .halted) ∧ (s.winAt (hpa / 64 * 64) = some i) ∧
        ((s.window i).deviceOwned = true)) ∧
    (∃ (s : State) (i hpa : Nat), (s.kpr.state ≠ .halted) ∧ (s.winAt (hpa / 64 * 64) = some i) ∧
        ((s.window i).deviceOwned = true)) :=
  ⟨⟨liveState .rom, 2 ^ 36 - 32, 32, [], false, by decide⟩,
    ⟨liveState .rom, 2 ^ 36 - 32, [1], true, false, by decide⟩,
    ⟨barState, 32, 32, false, by decide⟩,
    ⟨barState, 64, List.replicate 64 5, by decide⟩,
    ⟨barState, 8, [1, 2], true, false, by decide⟩,
    ⟨setTile 0 (fun x => { x with retraining := true }) barState, 32, 32, [], false, by decide⟩,
    ⟨winState 1, 1, 0x4000, false, by decide⟩,
    ⟨winState 1, 1, 0x4000, by decide⟩⟩

theorem test_hostReachesMemory_hyps2 :
    (∃ (s : State) (i hpa : Nat) (bytes : List Nat), (s.kpr.state ≠ .halted) ∧ (s.winAt (hpa / 64 * 64) = some i) ∧
        ((s.window i).owner = 0) ∧ (bytes.length = 64) ∧ (s.tileHolds (s.winAddr i (hpa / 64 * 64)) = false) ∧
        (s.mem.dpBad = []) ∧ (s.lockedIn (s.winAddr i (hpa / 64 * 64)) 2 = false) ∧
        (s.blockedIn (s.winAddr i (hpa / 64 * 64)) 2 = none)) ∧
    (∃ (s : State) (i hpa : Nat) (_bytes : List Nat) (_po _pa : Bool), (s.kpr.state ≠ .halted) ∧
        (s.winAt (hpa / 64 * 64) = some i) ∧ ((s.window i).deviceOwned = true ∨ (s.window i).owner = 2)) ∧
    (∃ (s : State) (i hpa _mask : Nat) (_bytes : List Nat) (_po _pa : Bool), (s.kpr.state ≠ .halted) ∧
        (s.winAt (hpa / 64 * 64) = some i) ∧ ((s.window i).deviceOwned = true ∨ (s.window i).owner = 2)) ∧
    (∃ (s : State) (i hpa : Nat) (bytes : List Nat), (s.kpr.state ≠ .halted) ∧ (s.winAt (hpa / 64 * 64) = some i) ∧
        ((s.window i).owner = 0) ∧ (bytes.length = 64) ∧ (s.tileHolds (s.winAddr i (hpa / 64 * 64)) = false) ∧
        (s.mem.dpBad = []) ∧ (s.lockedIn ((s.winAddr i (hpa / 64 * 64)) + 32) 1 = false) ∧
        (s.blockedIn ((s.winAddr i (hpa / 64 * 64)) + 32) 1 = none)) ∧
    (∃ (s : State) (i hpa mask : Nat) (bytes : List Nat) (_pa : Bool), (s.kpr.state ≠ .halted) ∧
        (s.winAt (hpa / 64 * 64) = some i) ∧ ((s.window i).owner = 0) ∧
        (enabledHalves bytes mask (s.winAddr i (hpa / 64 * 64)) = none) ∧
        (s.lockedSpan (s.winAddr i (hpa / 64 * 64)) 64 = false)) ∧
    (∃ (s : State) (i hpa : Nat) (_bytes : List Nat) (_mask : Nat) (_pa : Bool), (s.kpr.state ≠ .halted) ∧
        (s.winAt (hpa / 64 * 64) = some i) ∧ ((s.window i).owner = 0)) ∧
    (∃ (s : State) (hpa _mask : Nat) (_bytes : List Nat) (_fl : List (Nat × Nat)) (_po _pa : Bool),
        (s.kpr.state ≠ .halted) ∧ (s.winAt (hpa / 64 * 64) = none)) ∧
    (∃ (s : State) (_hpa _mask : Nat) (_bytes : List Nat) (_fl : List (Nat × Nat)) (_po _pa : Bool),
        (s.kpr.state = .halted)) :=
  ⟨⟨winState 0, 1, 0x4000, List.replicate 64 5, by decide⟩,
    ⟨winState 2, 1, 0x4000, List.replicate 64 5, false, false, by decide⟩,
    ⟨winState 1, 1, 0x4000, 1, List.replicate 64 5, false, false, by decide⟩,
    ⟨winState 0, 1, 0x4000, List.replicate 64 5, by decide⟩,
    ⟨winState 0, 1, 0x4000, 1, List.replicate 64 5, false, by decide⟩,
    ⟨winState 0, 1, 0x4000, [], 1, false, by decide⟩,
    ⟨liveState .ready, 0x4000, 1, [], [], false, false, by decide⟩,
    ⟨haltedState, 0x4000, 1, [], [], false, false, by decide⟩⟩

theorem test_hostReachesMemory_hyps3 :
    (∃ (s : State) (bar off : Nat), (bar = 0 ∧ off < 2 ^ 24 ∨ bar = 2 ∧ off < 2 ^ 36 ∨ bar = 4 ∧ off < 2 ^ 20) ∧
        (s.powered = true) ∧ (s.hostUp = true)) :=
  ⟨winState 0, 4, 0xFFFFF, by decide⟩

theorem test_hostReachesMemory_hyps4 :
    (∃ (s s2 : State) (off len : Nat) (d : List Nat) (fl : List (Nat × Nat)) (pa : Bool), (0 < len) ∧ (len ≤ 4096) ∧
        (off + len ≤ 2 ^ 36) ∧ (s.bar2Live = true) ∧ (s.tileHolds (s.bar2Addr off) = false) ∧
        (readBytes { code := 3, source := 0, unit := some hostEndpoint } pa (s.bar2Addr off) len (flipSymbols (s.bar2Addr off) fl s) = (.data d,
          s2))) :=
  ⟨barState, (readBytes { code := 3, source := 0, unit := some hostEndpoint } false 32 32 barState).2, 32, 32, List.replicate 32 0, [], false, by decide⟩

theorem test_hostReachesMemory_hyps5 :
    (∃ (s s2 : State) (off len c : Nat) (fl : List (Nat × Nat)) (pa : Bool), (0 < len) ∧ (len ≤ 4096) ∧
        (off + len ≤ 2 ^ 36) ∧ (s.bar2Live = true) ∧ (s.tileHolds (s.bar2Addr off) = false) ∧
        (readBytes { code := 3, source := 0, unit := some hostEndpoint } pa (s.bar2Addr off) len (flipSymbols (s.bar2Addr off) fl s) = (.error c,
          s2))) :=
  ⟨barState, (readBytes { code := 3, source := 0, unit := some hostEndpoint } true 32 32 barState).2, 32, 32, 2, [], true, by decide⟩

theorem test_hostReachesMemory_hyps6 :
    (∃ (s s2 : State) (i hpa : Nat) (d : List Nat) (fl : List (Nat × Nat)) (pa : Bool), (s.kpr.state ≠ .halted) ∧
        (s.winAt (hpa / 64 * 64) = some i) ∧ ((s.window i).deviceOwned = false) ∧
        (s.tileHolds (s.winAddr i (hpa / 64 * 64)) = false) ∧
        (readBytes { code := 4, source := 0, unit := some hostEndpoint } pa (s.winAddr i (hpa / 64 * 64)) 64 (flipSymbols (s.winAddr i (hpa / 64 * 64)) fl s) = (.data d,
          s2))) :=
  ⟨winState 0, (readBytes { code := 4, source := 0, unit := some hostEndpoint } false 0x4000 64 (winState 0)).2, 1, 0x4000, List.replicate 64 0, [], false, by decide⟩

theorem test_hostReachesMemory_hyps7 :
    (∃ (s s2 : State) (i hpa c : Nat) (fl : List (Nat × Nat)) (pa : Bool), (s.kpr.state ≠ .halted) ∧
        (s.winAt (hpa / 64 * 64) = some i) ∧ ((s.window i).deviceOwned = false) ∧
        (s.tileHolds (s.winAddr i (hpa / 64 * 64)) = false) ∧
        (readBytes { code := 4, source := 0, unit := some hostEndpoint } pa (s.winAddr i (hpa / 64 * 64)) 64 (flipSymbols (s.winAddr i (hpa / 64 * 64)) fl s) = (.error c,
          s2))) :=
  ⟨winState 0, (readBytes { code := 4, source := 0, unit := some hostEndpoint } true 0x4000 64 (winState 0)).2, 1, 0x4000, 2, [], true, by decide⟩

theorem test_windowsAndLinkStates_hyps :
    (∃ (s : State) (i hpa dpa size ways : Nat) (_lock : Bool), (i < 4) ∧ (hpa < 2 ^ 64) ∧ (dpa < 2 ^ 64) ∧ (size < 2 ^ 64) ∧
        (s.powered = true) ∧ ((s.window i).committed = false) ∧ (s.canCommit i dpa size ways = true)) ∧
    (∃ (s : State) (i hpa dpa size ways : Nat) (_lock : Bool), (i < 4) ∧ (hpa < 2 ^ 64) ∧ (dpa < 2 ^ 64) ∧ (size < 2 ^ 64) ∧
        (s.powered = true) ∧ ((s.window i).committed = false) ∧ (s.canCommit i dpa size ways = false)) ∧
    (∃ (s : State) (i _hpa _dpa _size _ways : Nat) (_lock : Bool), (i < 4) ∧ ((s.window i).committed = true)) ∧
    (∃ (s : State) (i : Nat), (i < 4) ∧ (s.powered = true) ∧ ((s.window i).committed = true) ∧ ((s.window i).lock = false)) ∧
    (∃ (s : State) (i : Nat), (i < 4) ∧ ((s.window i).lock = true ∨ (s.window i).committed = false)) ∧
    (∃ (s : State) (i : Nat), (i < 4) ∧ (s.powered = true) ∧ ((s.window i).committed = true) ∧
        ((s.window i).owner = 2 ∨ (s.window i).owner = 3)) ∧
    (∃ (s : State) (i : Nat), (i < 4) ∧ ((s.window i).committed = false ∨ (s.window i).owner < 2)) ∧
    (∃ (s : State) (i : Nat) (_f : Win → Win), (s.hif.win.length = 4) ∧ (i < 4)) ∧
    (∃ (s : State) (v w m : Nat), (1 ≤ v) ∧ (v ≤ 6) ∧ (w ∈ [1, 2, 4, 8, 16]) ∧ (m < 4) ∧ ((v = 6) ↔ (m = 1 ∨ m = 3)) ∧
        (s.kpr.railsUp = true) ∧ (s.kpr.boot = .romRuns)) ∧
    (∃ (s : State), (s.powered = true)) ∧
    (∃ (s : State), (s.powered = true) ∧ (s.hif.pba = 0) ∧ (s.evt.hold = []) ∧ (s.req.qp = [])) ∧
    (∃ (s : State) (_on : Bool), (s.powered = false)) :=
  ⟨⟨openWindow, 3, 0x1000, 0, 0x30000000, 1, true, by decide⟩,
    ⟨openWindow, 3, 0x1000, 0, 0x30000001, 1, true, by decide⟩,
    ⟨winState 0, 1, 0x1000, 0, 0x30000000, 1, true, by decide⟩,
    ⟨winState 0, 1, by decide⟩,
    ⟨winState 0, 2, by decide⟩,
    ⟨winState 3, 1, by decide⟩,
    ⟨winState 1, 1, by decide⟩,
    ⟨winState 1, 1, id, by decide⟩,
    ⟨liveState .ready, 6, 16, 3, by decide⟩,
    ⟨liveState .ready, by decide⟩,
    ⟨liveState .ready, by decide⟩,
    ⟨haltedState, true, by decide⟩⟩

theorem newBlock_length : newBlock.length = 16384 := by
  simp only [newBlock, List.length_append, List.length_replicate, List.length_cons, List.length_nil]

theorem changePackage_bytes : toBytes changePackage = changePackage := by
  simp only [toBytes, changePackage, newBlock, List.map_append, List.map_replicate, List.map_cons, List.map_nil, Nat.reduceMod]

theorem changePackage_block : slice changePackage 32 16384 = newBlock := by
  have h : ([0x50, 0x52, 0x54, 0x43, 0x48, 0x47, 0x00, 0x01, 2] ++ List.replicate 23 0).length = 32 := rfl
  have e : (changePackage.drop 32).take 16384 = newBlock := by
    unfold changePackage
    rw [List.append_assoc, List.drop_append_of_le_length (Nat.le_of_eq h.symm), List.drop_of_length_le (Nat.le_of_eq h), List.nil_append]
    exact List.take_left' newBlock_length
  simp only [slice, e, newBlock_length, Nat.sub_self, List.replicate_zero, List.append_nil]

theorem changePackage_form : packageForm 2 1 changePackage = true := by decide +kernel

theorem newBlock_form : newBlockForm 0 newBlock = true := by decide +kernel

theorem newBlock_licence : slice newBlock 0x1400 3424 = memBytes [] 0x1400 3424 := by decide +kernel

theorem changePackage_taken : packageResult true (toBytes changePackage) true true true changingState = 2 := by
  have f : packageForm 2 changingState.fuses.serial changePackage = true := changePackage_form
  have g : newBlockForm (changingState.blockLe 8 4) newBlock = true := newBlock_form
  have l : changingState.prt.pkgLen = changePackage.length := by
    simp only [changePackage, changingState, newBlock_length, List.length_append, List.length_replicate, List.length_cons, List.length_nil]
  have d : decodersPermitted newBlock changingState.hif.win = true := rfl
  have r : changingState.prt.running = 2 := rfl
  have b : changingState.prt.block = [] := rfl
  have n : changingState.prt.nonce ≠ none := by decide
  have fl : ¬ leAt newBlock 12 4 < changingState.floor := by decide
  simp [packageResult, changePackage_bytes, changePackage_block, f, g, l, d, r, b, n, fl, newBlock_licence]

theorem test_floor_hyps :
    (exec .hotReset State.reset = .next (doHotReset State.reset)) ∧
    (changingState.prt.running = 2 ∧ changingState.hif.bme = true ∧ changingState.kpr.state ≠ .halted ∧
      packageResult true (toBytes changePackage) true true true changingState = 2) ∧
    (flooredState.prt.running = 2 ∧ leAt (slice (toBytes [1]) 32 16384) 12 4 < flooredState.floor) ∧
    (leAt ([] : List Nat) 8 4 < flooredState.floor) := by
  exact ⟨rfl, ⟨rfl, rfl, by decide, changePackage_taken⟩, by decide, by decide⟩

theorem test_states_hyps : exec .suspendImage (framedState .inFrame) = .next (doSuspendImage (framedState .inFrame)) := rfl

theorem test_protectionCommandsAct_hyps1 :
    (∃ (s : State), (s.hostUp = true) ∧ (s.prtOpen = true)) ∧
    (∃ (s : State), (s.hostUp = true) ∧ (s.prtOpen = true)) ∧
    (∃ (s : State), (s.hostUp = true) ∧ (s.kpr.state = .ready) ∧ (s.prt.result ≠ 1)) ∧
    (∃ (s : State), (s.hostUp = true) ∧ (s.kpr.state ≠ .ready ∨ s.prt.result = 1)) ∧
    (∃ (s : State), (s.hostUp = true) ∧ (s.prtOpen = false)) ∧
    (∃ (readsOk sigA sigB storeOk : Bool) (pkg : List Nat) (s : State), (s.prt.running ≠ 0) ∧ (s.hif.bme = true) ∧
        (s.kpr.state ≠ .halted) ∧ (packageResult readsOk (toBytes pkg) sigA sigB storeOk s ≠ 2)) ∧
    (∃ (sigA sigB storeOk : Bool) (pkg : List Nat) (s : State), (s.prt.running = 3) ∧ (s.hif.bme = true) ∧
        (s.kpr.state ≠ .halted) ∧ (packageResult true (toBytes pkg) sigA sigB storeOk s = 2)) ∧
    (∃ (_readsOk _sigA _sigB _storeOk : Bool) (_pkg : List Nat) (s : State),
        (s.prt.running = 0 ∨ s.hif.bme = false ∨ s.kpr.state = .halted)) :=
  ⟨⟨liveState .suspended, by decide⟩,
    ⟨liveState .suspended, by decide⟩,
    ⟨liveState .ready, by decide⟩,
    ⟨liveState .suspended, by decide⟩,
    ⟨liveState .running, by decide⟩,
    ⟨true, true, true, true, [1], changingState, by decide⟩,
    ⟨true, true, true, unlockPackage, unlockingState, by decide⟩,
    ⟨true, true, true, true, [1], liveState .ready, by decide⟩⟩

theorem test_protectionCommandsAct_hyps2 :
    (∃ (sigA sigB storeOk : Bool) (pkg : List Nat) (s : State), (s.prt.running = 2) ∧ (s.hif.bme = true) ∧
        (s.kpr.state ≠ .halted) ∧ (packageResult true (toBytes pkg) sigA sigB storeOk s = 2)) :=
  ⟨true, true, true, changePackage, changingState, rfl, rfl, by decide, changePackage_taken⟩

theorem test_mailboxAndDoe_hyps1 :
    (∃ (s : State), (s.mailboxLive = true)) ∧
    (∃ (s : State) (op : Nat), (s.mailboxLive = true) ∧ (op % 65536 ∉ mailboxOpcodes)) ∧
    (∃ (s : State) (_off _len : Nat), (s.mailboxLive = true)) ∧
    (∃ (s : State), (s.mailboxLive = true)) ∧
    (∃ (s : State) (l : List Nat), (s.mailboxLive = true) ∧ (l ≠ [])) ∧
    (∃ (s : State) (_l : List Nat) (op _off _len : Nat), (s.mailboxLive = false) ∧ (op % 65536 ∉ mailboxOpcodes)) ∧
    (∃ (s : State) (i len : Nat), (s.kpr.railsUp = true) ∧ (s.hif.linkUp = true) ∧ (s.hif.doeError = false) ∧
        (i < s.doeProtocols.length) ∧ (i < 256) ∧ (len ≤ 65536)) ∧
    (∃ (s : State) (i len : Nat), (s.kpr.railsUp = true) ∧ (s.hif.linkUp = true) ∧ (s.hif.doeError = false) ∧ (i < 256) ∧
        (s.doeProtocols.length ≤ i) ∧ (len ≤ 65536)) :=
  ⟨⟨winState 0, by decide⟩,
    ⟨winState 0, 0x0102, by decide⟩,
    ⟨winState 0, 20, 4, by decide⟩,
    ⟨winState 0, by decide⟩,
    ⟨winState 0, [3], by decide⟩,
    ⟨liveState .ready, [], 0, 0, 4, by decide⟩,
    ⟨winState 0, 2, 12, by decide⟩,
    ⟨winState 0, 3, 12, by decide⟩⟩

theorem test_mailboxAndDoe_hyps2 :
    (∃ (s : State) (i len : Nat), (s.kpr.railsUp = true) ∧ (s.hif.linkUp = true) ∧ (s.hif.doeError = false) ∧
        (i < cdatEntries.length) ∧ (2 ≤ s.hif.mode) ∧ (len ≤ 65536)) ∧
    (∃ (s : State) (_i ty len : Nat), (s.kpr.railsUp = true) ∧ (s.hif.linkUp = true) ∧ (ty ≠ 0 ∨ 65536 < len)) ∧
    (∃ (s : State) (i ty len : Nat), (s.kpr.railsUp = true) ∧ (s.hif.linkUp = true) ∧
        (s.hif.mode < 2 ∨ ty ≠ 2 ∨ 65536 < len ∨ cdatEntries.length ≤ i)) ∧
    (∃ (s : State), (s.kpr.railsUp = true) ∧ (s.hif.linkUp = true)) ∧
    (∃ (s : State), (s.kpr.railsUp = true) ∧ (s.hif.linkUp = true) ∧ (s.hif.doeError = false) ∧ (s.kpr.state ≠ .halted)) ∧
    (∃ (s : State) (i : Nat), (s.kpr.railsUp = true) ∧ (s.hif.linkUp = true) ∧ (s.hif.doeError = false) ∧
        (s.kpr.state ≠ .halted) ∧ (i < 256)) ∧
    (∃ (s : State) (_l : List Nat), (s.kpr.railsUp = true) ∧ (s.hif.linkUp = true) ∧ (s.hif.doeError = false) ∧
        (s.kpr.state ≠ .halted) ∧ (s.prt.identity = false)) ∧
    (∃ (s : State) (l : List Nat), (s.kpr.railsUp = true) ∧ (s.hif.linkUp = true) ∧ (s.hif.doeError = false) ∧
        (s.kpr.state ≠ .halted) ∧ (l.length = 32) ∧ (l.all (fun b => decide (b < 256)) = true) ∧
        (s.prt.identity = true)) :=
  ⟨⟨winState 0, 5, 65536, by decide⟩,
    ⟨linkedState .ready, 0, 1, 12, by decide⟩,
    ⟨winState 0, 5, 2, 65537, by decide⟩,
    ⟨linkedState .ready, by decide⟩,
    ⟨linkedState .ready, by decide⟩,
    ⟨linkedState .ready, 255, by decide⟩,
    ⟨{ linkedState .ready with prt := { prtReset with identity := false } }, List.replicate 32 255, by decide⟩,
    ⟨attestState, List.replicate 32 255, by decide⟩⟩

theorem test_mailboxAndDoe_hyps3 :
    (∃ (s : State) (i len : Nat), (s.kpr.railsUp = false ∨ s.hif.linkUp = false ∨ s.hif.doeError = true) ∧ (len ≤ 65536) ∧
        (i < cdatEntries.length) ∧ (2 ≤ s.hif.mode)) ∧
    (∃ (s : State), (s.kpr.railsUp = false ∨ s.hif.linkUp = false)) ∧
    (∃ (s : State) (_i : Nat) (_l : List Nat),
        (s.kpr.railsUp = false ∨ s.hif.linkUp = false ∨ s.hif.doeError = true ∨ s.kpr.state = .halted)) :=
  ⟨⟨{ winState 0 with hif := { (winState 0).hif with doeError := true } }, 0, 12, by decide⟩,
    ⟨liveState .ready, by decide⟩,
    ⟨haltedState, 1, [], by decide⟩⟩

theorem test_linkRegisters_hyps1 :
    (∃ (s : State) (v : Nat), (s.hostUp = true) ∧ (s.inStates [.rom, .ready] = true) ∧ (v < 2 ^ 17)) ∧
    (∃ (s : State) (v : Nat), (s.hostUp = true) ∧ (s.inStates [.rom, .ready] = false) ∧ (v < 2 ^ 17)) ∧
    (∃ (s : State) (v : Nat), (s.hostUp = true) ∧ (v < 2 ^ 64) ∧ (2 ^ 17 ≤ v)) ∧
    (∃ (s : State) (j _v : Nat), (s.hostUp = true) ∧ (s.inStates [.ready, .running, .suspended] = true) ∧ (j < 32768)) ∧
    (∃ (s : State) (j v : Nat), (s.hostUp = true) ∧ (s.inStates [.ready, .running, .suspended] = false) ∧ (j < 32768) ∧
        (v < 2 ^ 64)) ∧
    (∃ (s : State) (l : Nat), (s.hostUp = true) ∧ (l < 32) ∧ (s.lnk.links.length = 32) ∧
        (s.inStates [.ready, .running, .suspended] = true) ∧ ((s.linkOf l).quiesce = false) ∧
        ((s.linkOf l).state ≠ .unlicensed) ∧ ((s.linkOf l).replay = []) ∧ ((s.linkOf l).waiting = [])) ∧
    (∃ (s : State) (l : Nat), (s.hostUp = true) ∧ (l < 32) ∧ (s.inStates [.ready, .running, .suspended] = true) ∧
        ((s.linkOf l).quiesce = false) ∧
        ((s.linkOf l).state = .unlicensed ∨ (s.linkOf l).trained = true ∧ ((s.linkOf l).replay ≠ [] ∨
          (s.linkOf l).waiting ≠ []))) ∧
    (∃ (s : State) (l : Nat), (s.hostUp = true) ∧ (l < 32) ∧ (s.inStates [.ready, .running, .suspended] = true) ∧
        ((s.linkOf l).quiesce = true)) :=
  ⟨⟨readyMesh, 0x1FFFF, by decide⟩,
    ⟨meshState, 0x1FFFF, by decide⟩,
    ⟨readyMesh, 0x20000, by decide⟩,
    ⟨meshState, 32767, 2 ^ 64 - 1, by decide⟩,
    ⟨liveState .rom, 32767, 1, by decide⟩,
    ⟨meshState, 1, by decide⟩,
    ⟨linkIn (fun x => { x with replay := [sentFlit] }), 0, by decide⟩,
    ⟨linkIn (fun x => { x with state := .quiesced, quiesce := true }), 0, by decide⟩⟩

theorem test_linkRegisters_hyps2 :
    (∃ (s : State) (l : Nat), (s.hostUp = true) ∧ (l < 32) ∧ (s.lnk.links.length = 32) ∧
        (s.inStates [.ready, .running, .suspended] = true)) ∧
    (∃ (s : State) (l : Nat), (s.hostUp = true) ∧ (l < 32) ∧ (s.inStates [.ready, .running, .suspended] = false)) ∧
    (∃ (s : State) (l : Nat) (on : Bool), (s.hostUp = true) ∧ (l < 32) ∧
        (s.inStates [.ready, .suspended] = true ∨ s.kpr.state = .running ∧ (s.linkOf l).dateline = on)) ∧
    (∃ (s : State) (l : Nat) (on : Bool), (s.hostUp = true) ∧ (l < 32) ∧ (s.inStates [.ready, .suspended] = false) ∧
        (s.kpr.state ≠ .running ∨ (s.linkOf l).dateline ≠ on)) ∧
    (∃ (s : State) (_p : Nat), (s.hostUp = true) ∧ (s.raccOpen = true) ∧ (s.lnk.assigned = false)) ∧
    (∃ (s : State) (p l : Nat), (s.hostUp = true) ∧ (p < 65536) ∧ (s.raccOpen = true) ∧ (s.lnk.assigned = true) ∧
        (s.routeTo p hostEndpoint = some l)) ∧
    (∃ (s : State) (p l : Nat), (s.hostUp = true) ∧ (p < 65536) ∧ (s.raccOpen = true) ∧ (s.lnk.assigned = true) ∧
        (s.routeTo p hostEndpoint = some l) ∧ ((s.linkOf l).waiting = []) ∧ ((s.linkOf l).replay.length < 4096) ∧
        (nth 0 (s.linkOf l).usedCredits 0 + nth 0 (s.linkOf l).usedCredits 1 < linkDepth)) ∧
    (∃ (s : State) (p : Nat), (s.hostUp = true) ∧ (p < 65536) ∧ (s.raccOpen = true) ∧ (s.lnk.assigned = true) ∧
        (s.lnk.requests = []) ∧ (s.routeTo p hostEndpoint = none)) :=
  ⟨⟨meshState, 0, by decide⟩,
    ⟨liveState .rom, 31, by decide⟩,
    ⟨readyMesh, 31, true, by decide⟩,
    ⟨meshState, 31, true, by decide⟩,
    ⟨framedState .inFrame, 65535, by decide⟩,
    ⟨meshState, 3, 1, by decide⟩,
    ⟨meshState, 3, 1, by decide⟩,
    ⟨meshState, 4, by decide⟩⟩

theorem test_linkRegisters_hyps3 :
    (∃ (s : State) (p : Nat), (s.hostUp = true) ∧ (p < 65536) ∧ (s.raccOpen = false)) ∧
    (∃ (s : State), (s.powered = true) ∧ (s.lnk.raccState = 1) ∧ (s.lnk.raccAt + 100 * tcUs ≤ s.frm.tc)) ∧
    (∃ (s : State), (s.powered = false ∨ s.lnk.raccState ≠ 1 ∨ s.frm.tc < s.lnk.raccAt + 100 * tcUs)) ∧
    (∃ (s : State) (l n : Nat), (l < 32) ∧ (s.powered = true) ∧ ((s.linkOf l).trained = true) ∧
        ((s.linkOf l).waiting = []) ∧ ((s.linkOf l).expectAny = true ∨ (s.linkOf l).expected = n % 65536)) ∧
    (∃ (s : State) (l n : Nat), (l < 32) ∧ (s.lnk.links.length = 32) ∧ (s.powered = true) ∧ ((s.linkOf l).trained = true) ∧
        ((s.linkOf l).expectAny = false) ∧ ((s.linkOf l).expected ≠ n % 65536)) ∧
    (∃ (s : State) (l : Nat), (l < 32) ∧ (s.lnk.links.length = 32) ∧ (s.powered = true) ∧ ((s.linkOf l).trained = true)) ∧
    (∃ (s : State) (l : Nat) (_n : Option Nat), (l < 32) ∧ (s.powered = false ∨ (s.linkOf l).trained = false)) :=
  ⟨⟨raccState, 4, by decide⟩,
    ⟨atTc 100000 raccState, by decide⟩,
    ⟨atTc 99999 raccState, by decide⟩,
    ⟨linkIn (fun x => { x with state := .wrongNeighbour, expected := 9, expectAny := false }), 0, 9, by decide⟩,
    ⟨linkIn (fun x => { x with expected := 9, expectAny := false }), 0, 8, by decide⟩,
    ⟨meshState, 0, by decide⟩,
    ⟨meshState, 31, none, by decide⟩⟩

theorem test_linkHardware_hyps1 :
    (∃ (s : State) (l lanes n _m : Nat), (l < 32) ∧ (s.powered = true) ∧ ((s.linkOf l).state = .training) ∧
        ((s.linkOf l).expectAny = true ∨ (s.linkOf l).expected = n % 65536) ∧
        (4 ≤ popcount 16 ((lanes % 65536) &&& (s.cartOf l).lit))) ∧
    (∃ (s : State) (l lanes n _m : Nat), (l < 32) ∧ (s.lnk.links.length = 32) ∧ (s.powered = true) ∧
        ((s.linkOf l).state = .training) ∧ ((s.linkOf l).expectAny = false) ∧ ((s.linkOf l).expected ≠ n % 65536) ∧
        (4 ≤ popcount 16 ((lanes % 65536) &&& (s.cartOf l).lit))) ∧
    (∃ (s : State) (l lanes _m : Nat) (_n : Option Nat) (light : Bool), (l < 32) ∧ (s.lnk.links.length = 32) ∧
        (s.powered = true) ∧ ((s.linkOf l).state = .training) ∧
        (light = false ∨ popcount 16 ((lanes % 65536) &&& (s.cartOf l).lit) < 4)) ∧
    (∃ (s : State) (l _lanes _m : Nat) (_n : Option Nat) (_light : Bool), (l < 32) ∧
        (s.powered = false ∨ (s.linkOf l).state ≠ .training)) ∧
    (∃ (s : State) (l : Nat), (l < 32) ∧ (s.powered = true) ∧ ((s.linkOf l).quiesce = false) ∧
        ((s.cartOf l).present = true) ∧ ((s.linkOf l).state = .down ∨ (s.linkOf l).state = .noLight)) ∧
    (∃ (s : State) (l : Nat) (_light : Bool), (l < 32) ∧
        (s.powered = false ∨ (s.linkOf l).quiesce = true ∨ (s.cartOf l).present = false ∨ (s.linkOf l).state ≠ .down ∧
          (s.linkOf l).state ≠ .noLight)) ∧
    (∃ (s : State) (l i _u _c : Nat), (l < 32) ∧ (s.lnk.links.length = 32) ∧ (i < 16) ∧ (s.powered = true) ∧
        ((s.linkOf l).trained = true) ∧ (bit (s.linkOf l).lanesUsed i = true) ∧ (bit (s.linkOf l).lanesGood i = true) ∧
        ((s.linkOf l).addLanes = 0) ∧ ((s.linkOf l).newLanes = 0) ∧
        (4 ≤ popcount 16 (((s.linkOf l).lanesGood - 2 ^ i) &&& 0xFFFF))) ∧
    (∃ (s : State) (l i _u _c : Nat), (l < 32) ∧ (s.lnk.links.length = 32) ∧ (i < 16) ∧ (s.powered = true) ∧
        ((s.linkOf l).trained = true) ∧ ((s.linkOf l).width ≠ 0) ∧ (bit (s.linkOf l).lanesUsed i = true) ∧
        (bit (s.linkOf l).lanesGood i = true) ∧ ((s.linkOf l).addLanes = 0) ∧ ((s.linkOf l).newLanes = 0) ∧
        (popcount 16 (((s.linkOf l).lanesGood - 2 ^ i) &&& 0xFFFF) < 4)) :=
  ⟨⟨linkIn (fun x => { x with state := .training }), 0, 0x0F01, 2, 300, by decide⟩,
    ⟨linkIn (fun x => { x with state := .training, expectAny := false, expected := 9 }), 0, 0x0F01, 2, 300, by decide⟩,
    ⟨linkIn (fun x => { x with state := .training }), 0, 0x0701, 300, none, false, by decide⟩,
    ⟨meshState, 0, 0x0701, 300, none, false, by decide⟩,
    ⟨linkIn (fun x => { x with state := .noLight }), 0, by decide⟩,
    ⟨meshState, 0, true, by decide⟩,
    ⟨meshState, 1, 15, 1, 70000, by decide⟩,
    ⟨linkIn (fun x => { x with lanesGood := 15, lanesUsed := 15, width := 4 }), 0, 3, 1, 70000, by decide⟩⟩

theorem test_linkHardware_hyps2 :
    (∃ (s : State) (l i _u _c : Nat), (l < 32) ∧ (i < 16) ∧ (s.powered = false ∨ bit (s.linkOf l).lanesUsed i = false)) ∧
    (∃ (s : State) (l i : Nat), (l < 32) ∧ (i < 16) ∧ (s.powered = true) ∧ ((s.linkOf l).trained = true) ∧
        (bit (s.cartOf l).lit i = true) ∧ (bit (s.linkOf l).lanesGood i = false)) ∧
    (∃ (s : State) (l i : Nat), (l < 32) ∧ (i < 16) ∧ (s.powered = true) ∧ ((s.linkOf l).trained = true) ∧
        (bit (s.cartOf l).lit i = true) ∧ (bit (s.linkOf l).lanesGood i = true) ∧ (bit (s.linkOf l).newLanes i = true) ∧
        (mapGet 0 (s.linkOf l).newAt i + tcSec ≤ s.frm.tc) ∧ (s.kpr.state = .running)) ∧
    (∃ (s : State) (l i : Nat), (l < 32) ∧ (i < 16) ∧ (s.powered = true) ∧ ((s.linkOf l).trained = true) ∧
        (bit (s.cartOf l).lit i = true) ∧ (bit (s.linkOf l).lanesGood i = true) ∧ (bit (s.linkOf l).newLanes i = true) ∧
        (mapGet 0 (s.linkOf l).newAt i + tcSec ≤ s.frm.tc) ∧ (s.lnk.links.length = 32) ∧ (s.kpr.state ≠ .running) ∧
        ((s.linkOf l).addLanes = 0) ∧
        (4 ≤ popcount 16 ((s.linkOf l).lanesGood &&& (0xFFFF ^^^ ((s.linkOf l).newLanes - 2 ^ i))))) ∧
    (∃ (s : State) (l i : Nat), (l < 32) ∧ (i < 16) ∧
        (s.powered = false ∨ (s.linkOf l).trained = false ∨ bit (s.cartOf l).lit i = false ∨
          bit (s.linkOf l).lanesGood i = true ∧ (bit (s.linkOf l).newLanes i = false ∨
          s.frm.tc < mapGet 0 (s.linkOf l).newAt i + tcSec))) ∧
    (∃ (s : State) (k w : Nat), (k < 4) ∧ (w < 16) ∧ (s.lnk.carts.length = 4) ∧ (s.powered = true) ∧
        ((nth {} s.lnk.carts k).present = true) ∧ (bit (nth {} s.lnk.carts k).failed w = false) ∧
        (s.lnk.links.length = 32)) ∧
    (∃ (s : State) (k w : Nat), (k < 4) ∧ (w < 16) ∧
        (s.powered = false ∨ (nth {} s.lnk.carts k).present = false ∨ bit (nth {} s.lnk.carts k).failed w = true)) ∧
    (∃ (s : State) (k w : Nat), (k < 4) ∧ (w < 16) ∧ (s.lnk.carts.length = 4) ∧ (s.powered = true) ∧
        ((nth {} s.lnk.carts k).present = true) ∧ (bit (nth {} s.lnk.carts k).tuning w = true) ∧
        (bit (nth {} s.lnk.carts k).failed w = true)) :=
  ⟨⟨meshState, 31, 15, 1, 70000, by decide⟩,
    ⟨linkIn (fun x => { x with lanesUsed := 0x0F, lanesGood := 0x0F, width := 4 }), 0, 15, by decide⟩,
    ⟨atTc 1000000000 (linkIn (fun x => { x with lanesUsed := 0x0F, lanesGood := 0x801F, width := 4, newLanes := 0x8000, newAt := [] })), 0, 15, by decide⟩,
    ⟨{ atTc 1000000000 (linkIn (fun x => { x with lanesUsed := 0x0F, lanesGood := 0x807F, width := 4, newLanes := 0x8000, newAt := [] })) with kpr := readyMesh.kpr }, 0, 15, by decide⟩,
    ⟨meshState, 0, 15, by decide⟩,
    ⟨meshState, 0, 15, by decide⟩,
    ⟨{ meshState with lnk := { meshState.lnk with carts := [{ failed := 0x8000 }, {}, {}, {}] } }, 0, 15, by decide⟩,
    ⟨{ meshState with lnk := { meshState.lnk with carts := [{ failed := 0x8000, tuning := 0x8000 }, {}, {}, {}] } }, 0, 15, by decide⟩⟩

theorem test_linkHardware_hyps3 :
    (∃ (s : State) (k w : Nat), (k < 4) ∧ (w < 16) ∧
        (s.powered = false ∨ (nth {} s.lnk.carts k).present = false ∨ bit (nth {} s.lnk.carts k).tuning w = false)) ∧
    (∃ (s : State) (k w : Nat), (k < 4) ∧ (w < 16) ∧ (s.powered = true) ∧ ((nth {} s.lnk.carts k).present = true) ∧
        (bit (nth {} s.lnk.carts k).aged w = false)) ∧
    (∃ (s : State) (k w : Nat), (k < 4) ∧ (w < 16) ∧
        (s.powered = false ∨ (nth {} s.lnk.carts k).present = false ∨ bit (nth {} s.lnk.carts k).aged w = true)) ∧
    (∃ (s : State) (k : Nat), (k < 4) ∧ (s.lnk.carts.length = 4) ∧ (s.powered = true) ∧
        ((nth {} s.lnk.carts k).present = true) ∧ (s.lnk.links.length = 32)) ∧
    (∃ (s : State) (k : Nat), (k < 4) ∧ (s.powered = false ∨ (nth {} s.lnk.carts k).present = false)) :=
  ⟨⟨meshState, 3, 15, by decide⟩,
    ⟨meshState, 3, 15, by decide⟩,
    ⟨liveState .halted, 3, 15, by decide⟩,
    ⟨meshState, 0, by decide⟩,
    ⟨liveState .halted, 0, by decide⟩⟩

theorem test_oviFlits_hyps1 :
    (∃ (s : State) (l : Nat) (f : LinkFlit) (_p : Bool) (_fl : List (Nat × Nat)), (l < 32) ∧ (s.powered = true) ∧
        ((s.linkOf l).state = .up) ∧ (f.seq % 4096 ≠ (s.linkOf l).expectSeq)) ∧
    (∃ (s : State) (l : Nat) (_f : LinkFlit) (_p : Bool) (_fl : List (Nat × Nat)), (l < 32) ∧
        (s.powered = false ∨ (s.linkOf l).state ≠ .up)) ∧
    (∃ (s : State) (l : Nat) (f : LinkFlit), (l < 32) ∧ (s.powered = true) ∧ ((s.linkOf l).state = .up) ∧
        ((s.linkOf l).quiesce = false) ∧ (f.seq % 4096 = (s.linkOf l).expectSeq) ∧ (s.lnk.assigned = true) ∧
        (f.flit.dest % 65536 = s.lnk.id) ∧ ((s.linkOf l).waiting = []) ∧ (f.flit.scheduled = false) ∧
        (s.peerAllowed (f.narrow 1).flit = true) ∧ ((f.narrow 1).flit.addr % 32 = 0) ∧
        (s.tileHolds (f.narrow 1).flit.addr = false) ∧ (s.mem.dpBad = []) ∧
        (s.lockedIn (f.narrow 1).flit.addr ((f.narrow 1).flit.lenM1 + 1) = false) ∧
        (s.blockedIn (f.narrow 1).flit.addr ((f.narrow 1).flit.lenM1 + 1) = none)) ∧
    (∃ (s : State) (l : Nat) (f : LinkFlit) (_p : Bool), (l < 32) ∧ (s.powered = true) ∧ ((s.linkOf l).state = .up) ∧
        ((s.linkOf l).quiesce = false) ∧ (f.seq % 4096 = (s.linkOf l).expectSeq) ∧ (s.lnk.assigned = true) ∧
        (f.flit.dest % 65536 = s.lnk.id) ∧ ((s.linkOf l).waiting = []) ∧ (s.peerAllowed (f.narrow 1).flit = false)) ∧
    (∃ (s : State) (l : Nat) (f : LinkFlit) (_p : Bool), (l < 32) ∧ (s.powered = true) ∧ ((s.linkOf l).state = .up) ∧
        ((s.linkOf l).quiesce = false) ∧ (f.seq % 4096 = (s.linkOf l).expectSeq) ∧ (s.lnk.assigned = true) ∧
        (f.flit.dest % 65536 = s.lnk.id) ∧ ((s.linkOf l).waiting = []) ∧ (s.peerAllowed (f.narrow 1).flit = true) ∧
        (f.flit.scheduled = false) ∧ (s.tileHolds (f.narrow 1).flit.addr = true)) ∧
    (∃ (s : State) (l : Nat) (f : LinkFlit) (m : Nat) (_p : Bool), (l < 32) ∧ (s.powered = true) ∧
        ((s.linkOf l).state = .up) ∧ ((s.linkOf l).quiesce = false) ∧ (f.seq % 4096 = (s.linkOf l).expectSeq) ∧
        (s.lnk.assigned = true) ∧ (f.flit.dest % 65536 ≠ s.lnk.id) ∧ (2 ≤ f.flit.hops % 64) ∧
        ((s.linkOf l).waiting = []) ∧ (s.routeTo (f.narrow 1).flit.dest (f.narrow 1).flit.endpoint = some m) ∧ (m ≠ l) ∧
        ((s.linkOf m).waiting = []) ∧ ((s.linkOf m).replay.length < 4096) ∧
        (nth 0 (s.linkOf m).usedCredits (2 * b2n f.flit.scheduled) + nth 0 (s.linkOf m).usedCredits (2 * b2n f.flit.scheduled + 1) < linkDepth)) ∧
    (∃ (s : State) (l : Nat) (f : LinkFlit) (r : PeerReq), (l < 32) ∧ (s.powered = true) ∧ ((s.linkOf l).state = .up) ∧
        ((s.linkOf l).quiesce = false) ∧ (f.seq % 4096 = (s.linkOf l).expectSeq) ∧ (s.lnk.assigned = true) ∧
        (f.flit.dest % 65536 = s.lnk.id) ∧ ((s.linkOf l).waiting = []) ∧ (s.lnk.requests = [r]) ∧ (r.racc = true) ∧
        (r.endpoint = (f.narrow 3).flit.endpoint) ∧ (r.tag = (f.narrow 3).flit.tag) ∧ (s.lnk.raccWrite = false) ∧
        ((s.coreRec (f.narrow 3).flit.endpoint).queue = [])) ∧
    (∃ (s : State) (l : Nat) (f : LinkFlit) (r : PeerReq) (st : Nat) (_p : Bool), (l < 32) ∧ (s.powered = true) ∧
        ((s.linkOf l).state = .up) ∧ ((s.linkOf l).quiesce = false) ∧ (f.seq % 4096 = (s.linkOf l).expectSeq) ∧
        (s.lnk.assigned = true) ∧ (f.flit.dest % 65536 = s.lnk.id) ∧ ((s.linkOf l).waiting = []) ∧
        (s.lnk.requests = [r]) ∧ (r.racc = true) ∧ (r.endpoint < 65536) ∧ (r.tag < 65536) ∧ (st < 256) ∧
        (ackRecords (f.narrow 4).flit = [leBytes 2 r.endpoint ++ leBytes 2 r.tag ++ [st, 0, 0, 0]]) ∧
        (s.lnk.raccWrite = true) ∧ ((s.coreRec r.endpoint).queue = [])) :=
  ⟨⟨meshState, 1, { flitOf 3 [] with seq := 4095 }, true, [], by decide⟩,
    ⟨meshState, 2, flitOf 3 [], true, [], by decide⟩,
    ⟨meshState, 0, flitOf 1 (List.replicate 32 7), by decide⟩,
    ⟨{ meshState with prt := { meshState.prt with block := [] } }, 0, flitOf 1 (List.replicate 32 7), true, by decide⟩,
    ⟨setTile 0 (fun x => { x with retraining := true }) meshState, 0, flitOf 1 (List.replicate 32 7), true, by decide⟩,
    ⟨meshState, 0, { flitOf 1 (List.replicate 32 7) with flit := { (flitOf 1 (List.replicate 32 7)).flit with dest := 3 } }, 1, false, by decide⟩,
    ⟨setCore 5 (fun c => { c with queue := [] }) raccState, 0, flitOf 3 (leBytes 8 5 ++ leBytes 8 6 ++ leBytes 8 7 ++ leBytes 8 (2 ^ 64 - 1)), { endpoint := 5, tag := 6, device := 2, core := 0, uid := 0, racc := true, at_ := 0 }, by decide⟩,
    ⟨{ raccState with lnk := { raccState.lnk with raccWrite := true } }, 0, flitOf 4 ([5, 0, 6, 0, 5, 0, 0, 0] ++ List.replicate 24 0), { endpoint := 5, tag := 6, device := 2, core := 0, uid := 0, racc := true, at_ := 0 }, 5, true, by decide⟩⟩

theorem test_oviFlits_hyps2 :
    (∃ (s : State) (l : Nat) (f : LinkFlit), (l < 32) ∧ (s.powered = true) ∧ ((s.linkOf l).state = .up) ∧
        ((s.linkOf l).quiesce = false) ∧ (f.seq % 4096 = (s.linkOf l).expectSeq) ∧ (s.lnk.assigned = true) ∧
        (f.flit.dest % 65536 = s.lnk.id) ∧ ((s.linkOf l).waiting = []) ∧
        ((List.range ((f.narrow 5).flit.lenM1 + 1)).all (fun i => !s.otherMembers.contains (leAt (slice (f.narrow 5).flit.payload (32 * i) 32) 0 2)) = true)) ∧
    (∃ (s : State) (l : Nat) (f : LinkFlit), (l < 32) ∧ (s.powered = true) ∧ ((s.linkOf l).state = .up) ∧
        ((s.linkOf l).quiesce = false) ∧ (f.seq % 4096 = (s.linkOf l).expectSeq) ∧ (s.lnk.assigned = true) ∧
        (f.flit.dest % 65536 = s.lnk.id) ∧ ((s.linkOf l).waiting = []) ∧ ((f.narrow 5).flit.lenM1 = 0) ∧
        (s.otherMembers.contains (leAt (slice (f.narrow 5).flit.payload 0 32) 0 2) = true) ∧ (s.kpr.state = .running) ∧
        (leAt (slice (f.narrow 5).flit.payload 0 32) 2 1 = 1) ∧
        (leAt (slice (f.narrow 5).flit.payload 0 32) 4 8 = s.frm.nextNumber) ∧ (s.frm.nextNumber ≠ s.frm.count) ∧
        (leAt (slice (f.narrow 5).flit.payload 0 32) 16 8 = s.frm.nextAt) ∧
        (leAt (slice (f.narrow 5).flit.payload 0 32) 24 4 = s.nextPeriodNow)) ∧
    (∃ (s : State) (l : Nat) (_f : LinkFlit), (l < 32) ∧ (s.lnk.links.length = 32) ∧ (s.powered = true) ∧
        ((s.linkOf l).state = .up) ∧ ((s.linkOf l).quiesce = false) ∧ ((s.linkOf l).waiting = [])) ∧
    (∃ (s : State) (l : Nat), (l < 32) ∧ (s.powered = true) ∧ ((s.linkOf l).state = .up)) ∧
    (∃ (s : State) (l : Nat), (l < 32) ∧ ((s.linkOf l).replay = [])) ∧
    (∃ (s : State) (l : Nat), (l < 32) ∧ (s.lnk.links.length = 32) ∧ (s.powered = true) ∧ ((s.linkOf l).state = .up) ∧
        ((s.linkOf l).replay ≠ [])) ∧
    (∃ (s : State) (l : Nat), (l < 32) ∧ (s.lnk.links.length = 32) ∧ (s.powered = true) ∧ ((s.linkOf l).state = .up) ∧
        (4 ≤ (s.linkOf l).again)) ∧
    (∃ (s : State) (l : Nat), (l < 32) ∧ ((s.linkOf l).again < 4)) :=
  ⟨⟨meshState, 0, flitOf 5 (List.replicate 32 9), by decide⟩,
    ⟨{ confirmState with lnk := { meshState.lnk with id := 1 } }, 0, flitOf 5 (statusRecord 2 1 0 1 0 75536 10000), by decide⟩,
    ⟨linkIn (fun x => { x with replay := [sentFlit] }), 0, { flitOf 0 [] with ack := 0 }, by decide⟩,
    ⟨meshState, 1, by decide⟩,
    ⟨meshState, 1, by decide⟩,
    ⟨linkIn (fun x => { x with replay := [sentFlit] }), 0, by decide⟩,
    ⟨linkIn (fun x => { x with replay := [sentFlit], again := 4 }), 0, by decide⟩,
    ⟨meshState, 0, by decide⟩⟩

theorem test_oviFlits_hyps3 :
    (∃ (s : State) (e : QEntry) (r : PeerReq) (_p : Bool), (r.endpoint < 65536) ∧ (r.tag < 65536) ∧ (s.powered = true) ∧
        (s.lnk.requests = [r]) ∧ (r.racc = false) ∧ (r.core = r.endpoint) ∧ (r.uid = e.uid) ∧ (e.slot < 4) ∧
        ((s.coreRec r.core).queue = [e]) ∧ (r.at_ + tcMs ≤ s.frm.tc)) ∧
    (∃ (s : State) (e g : Nat) (_p : Bool),
        (s.lnk.requests.all (fun r => r.racc || decide (r.endpoint ≠ e % 65536) || decide (r.tag ≠ g % 65536) || decide (s.frm.tc < r.at_ + tcMs)) = true)) ∧
    (∃ (s : State) (l : Nat) (b : Bool), (l < 32) ∧ (s.powered = true) ∧
        ((s.linkOf l).waiting.any (fun o => decide (o.flit.scheduled = b) && decide (o.since + 10 * tcMs ≤ s.frm.tc)) = true)) ∧
    (∃ (s : State) (l : Nat) (b : Bool), (l < 32) ∧
        (s.powered = false ∨
          (s.linkOf l).waiting.any (fun o => decide (o.flit.scheduled = b) && decide (o.since + 10 * tcMs ≤ s.frm.tc)) = false)) :=
  ⟨⟨peerState, { sendEntry with started := true, need := 1, issued := 1 }, { endpoint := 0, tag := 6, device := 2, core := 0, uid := 9, racc := false, at_ := 0 }, true, by decide⟩,
    ⟨meshState, 65535, 0, true, by decide⟩,
    ⟨atTc 10000000 (linkIn (fun x => { x with waiting := [{ flit := sentFlit.flit, since := 0 }] })), 0, false, by decide⟩,
    ⟨meshState, 31, true, by decide⟩⟩

theorem test_oviFlits_hyps4 :
    (∃ (s : State) (l : Nat) (f : LinkFlit) (s2 : State) (d : List Nat) (p : Bool), (l < 32) ∧ (s.powered = true) ∧
        ((s.linkOf l).state = .up) ∧ ((s.linkOf l).quiesce = false) ∧ (f.seq % 4096 = (s.linkOf l).expectSeq) ∧
        (s.lnk.assigned = true) ∧ (f.flit.dest % 65536 = s.lnk.id) ∧ ((s.linkOf l).waiting = []) ∧
        (s.peerAllowed (f.narrow 2).flit = true) ∧ (s.tileHolds (f.narrow 2).flit.addr = false) ∧
        (s.routeTo (f.narrow 2).flit.src (f.narrow 2).flit.endpoint = some l) ∧ ((s.linkOf l).replay.length < 4096) ∧
        (nth 0 (s.linkOf l).usedCredits (2 * b2n f.flit.scheduled) + nth 0 (s.linkOf l).usedCredits (2 * b2n f.flit.scheduled + 1) < linkDepth) ∧
        (readBytes (peerWho l (f.narrow 2).flit) p (f.narrow 2).flit.addr (f.narrow 2).flit.len s = (.data d, s2))) :=
  ⟨meshState, 0, flitOf 2 [], (readBytes (peerWho 0 (flitOf 2 []).flit) false 64 32 meshState).2, List.replicate 32 0, false, by decide⟩

theorem test_alignmentAndLockstep_hyps1 :
    (∃ (s : State) (l : Nat), (l < 32) ∧ (s.powered = true) ∧ (s.frm.tcRuns = true) ∧ ((s.linkOf l).trained = true) ∧
        (s.inMastership = true) ∧ (s.lnk.masterKnown = true)) ∧
    (∃ (s : State) (l : Nat), (l < 32) ∧ (s.powered = true) ∧ (s.frm.tcRuns = true) ∧ ((s.linkOf l).trained = true) ∧
        (s.inMastership = false)) ∧
    (∃ (s : State) (l _y _ph : Nat) (_m : Option Nat) (_d : Nat) (_bk : Int), (l < 32) ∧
        (s.powered = false ∨ s.frm.tcRuns = false ∨ (s.linkOf l).trained = false)) ∧
    (∃ (s : State) (l _y m _d _ph : Nat) (_bk : Int), (l < 32) ∧ (s.lnk.links.length = 32) ∧ (s.powered = true) ∧
        (s.frm.tcRuns = true) ∧ ((s.linkOf l).trained = true) ∧ (s.inMastership = true) ∧
        ((∀ k, k < 32 → k ≠ l → (s.linkOf k).symbol = none)) ∧ ((m % 65536) < s.lnk.id)) ∧
    (∃ (s : State) (l _y m _d _ph : Nat) (_bk : Int), (l < 32) ∧ (s.lnk.links.length = 32) ∧ (s.powered = true) ∧
        (s.frm.tcRuns = true) ∧ ((s.linkOf l).trained = true) ∧ (s.inMastership = true) ∧
        ((∀ k, k < 32 → k ≠ l → (s.linkOf k).symbol = none)) ∧ (s.lnk.id ≤ (m % 65536))) ∧
    (∃ (s : State) (l _y _d _ph : Nat) (_bk : Int), (l < 32) ∧ (s.lnk.links.length = 32) ∧ (s.powered = true) ∧
        (s.frm.tcRuns = true) ∧ ((s.linkOf l).trained = true) ∧ (s.inMastership = true) ∧
        ((∀ k, k < 32 → k ≠ l → (s.linkOf k).symbol = none))) ∧
    (∃ (s : State) (l _y _d _ph : Nat) (_m : Option Nat) (_bk : Int), (l < 32) ∧ (s.powered = true) ∧
        (s.frm.tcRuns = true) ∧ ((s.linkOf l).trained = true) ∧ (s.inMastership = false)) ∧
    (∃ (s : State), (s.powered = true) ∧ (s.lnk.masterKnown = true) ∧ (s.lnk.isMaster = false) ∧ (s.candidates = [])) :=
  ⟨⟨{ meshState with frm := { meshState.frm with tcRuns := true }, lnk := { meshState.lnk with masterKnown := true, depth := 3 } }, 1, by decide⟩,
    ⟨{ meshState with frm := { meshState.frm with tcRuns := true }, lnk := { meshState.lnk with assigned := false } }, 1, by decide⟩,
    ⟨meshState, 9, 77, 5, none, 0, 0, by decide⟩,
    ⟨{ meshState with frm := { meshState.frm with tcRuns := true } }, 1, 77, 0, 31, 5, -32, by decide⟩,
    ⟨{ meshState with frm := { meshState.frm with tcRuns := true } }, 1, 77, 1, 31, 5, -32, by decide⟩,
    ⟨{ meshState with frm := { meshState.frm with tcRuns := true } }, 1, 77, 31, 5, -32, by decide⟩,
    ⟨{ meshState with frm := { meshState.frm with tcRuns := true }, lnk := { meshState.lnk with assigned := false } }, 1, 77, 31, 5, some 0, -32, by decide⟩,
    ⟨{ meshState with lnk := { meshState.lnk with masterKnown := true, locked := true } }, by decide⟩⟩

theorem test_alignmentAndLockstep_hyps2 :
    (∃ (s : State), (s.powered = false ∨ s.lnk.masterKnown = false ∨ s.lnk.isMaster = true ∨ s.candidates ≠ [])) ∧
    (∃ (s : State) (a : Awaited) (m : Nat), (s.powered = true) ∧ (s.frm.awaiting = [a]) ∧
        (a.facts.start + a.facts.period + s.frm.confirmWait ≤ s.frm.tc) ∧ (s.missingMember a = some m) ∧
        (s.frm.phase ≠ .inFrame) ∧ (s.frm.nextNumber = a.facts.number + 1)) ∧
    (∃ (s : State) (a : Awaited) (m : Nat), (s.powered = true) ∧ (s.frm.awaiting = [a]) ∧
        (a.facts.start + a.facts.period + s.frm.confirmWait ≤ s.frm.tc) ∧ (s.missingMember a = none) ∧
        (s.flaggedMember a = some m) ∧ (s.frm.phase ≠ .inFrame) ∧ (s.frm.nextNumber = a.facts.number + 1)) ∧
    (∃ (s : State) (a : Awaited), (s.powered = true) ∧ (s.frm.awaiting = [a]) ∧
        (a.facts.start + a.facts.period + s.frm.confirmWait ≤ s.frm.tc) ∧ (s.missingMember a = none) ∧
        (s.flaggedMember a = none)) ∧
    (∃ (s : State), (s.powered = false ∨ s.confirmDue = none)) ∧
    (∃ (s : State) (b : List Nat),
        (s.powered = false ∨ s.otherMembers.contains (leAt (toBytes (slice b 0 32)) 0 2) = false ∨
          leAt (toBytes (slice b 0 32)) 2 1 = 0 ∨ 2 < leAt (toBytes (slice b 0 32)) 2 1 ∨
          leAt (toBytes (slice b 0 32)) 2 1 = 1 ∧ s.kpr.state ≠ .running)) ∧
    (∃ (s : State) (b : List Nat), (s.otherMembers.contains (leAt (toBytes (slice b 0 32)) 0 2) = true) ∧
        (s.powered = true) ∧ (s.kpr.state = .running) ∧ (leAt (toBytes (slice b 0 32)) 2 1 = 1) ∧
        (leAt (toBytes (slice b 0 32)) 4 8 = s.frm.nextNumber) ∧
        (leAt (toBytes (slice b 0 32)) 16 8 = (s.ownTiming s.frm.nextNumber).1) ∧
        (leAt (toBytes (slice b 0 32)) 24 4 = (s.ownTiming s.frm.nextNumber).2)) ∧
    (∃ (s : State) (b : List Nat), (s.otherMembers.contains (leAt (toBytes (slice b 0 32)) 0 2) = true) ∧
        (s.powered = true) ∧ (s.kpr.state = .running) ∧ (leAt (toBytes (slice b 0 32)) 2 1 = 1) ∧
        (leAt (toBytes (slice b 0 32)) 16 8 ≠ (s.ownTiming (leAt (toBytes (slice b 0 32)) 4 8)).1 ∨
          leAt (toBytes (slice b 0 32)) 24 4 ≠ (s.ownTiming (leAt (toBytes (slice b 0 32)) 4 8)).2)) :=
  ⟨⟨meshState, by decide⟩,
    ⟨{ confirmState with frm := { confirmState.frm with nextNumber := 8 } }, { facts := { number := 7, start := 1000, period := 5000, lockstep := true } }, 2, by decide⟩,
    ⟨{ confirmState with frm := { confirmState.frm with nextNumber := 8, awaiting := [{ facts := { number := 7, start := 1000, period := 5000, lockstep := true }, completions := [(2, { flags := 1, frame := 7, present := true })] }] } }, { facts := { number := 7, start := 1000, period := 5000, lockstep := true }, completions := [(2, { flags := 1, frame := 7, present := true })] }, 2, by decide⟩,
    ⟨{ confirmState with frm := { confirmState.frm with awaiting := [{ facts := { number := 7, start := 1000, period := 5000, lockstep := true }, completions := [(2, { flags := 0, frame := 7, present := true })] }] } }, { facts := { number := 7, start := 1000, period := 5000, lockstep := true }, completions := [(2, { flags := 0, frame := 7, present := true })] }, by decide⟩,
    ⟨meshState, by decide⟩,
    ⟨meshState, List.replicate 32 255, by decide⟩,
    ⟨confirmState, statusRecord 2 1 0 1 0 75536 10000, by decide⟩,
    ⟨confirmState, statusRecord 2 1 0 1 0 75537 10000, by decide⟩⟩

theorem test_alignmentAndLockstep_hyps3 :
    (∃ (s : State) (a : Awaited) (b : List Nat), (s.otherMembers.contains (leAt (toBytes (slice b 0 32)) 0 2) = true) ∧
        (s.powered = true) ∧ (leAt (toBytes (slice b 0 32)) 2 1 = 2) ∧ (s.frm.awaiting = [a]) ∧
        (leAt (toBytes (slice b 0 32)) 4 8 = a.facts.number) ∧ (leAt (toBytes (slice b 0 32)) 3 1 % 16 = 0) ∧
        (s.otherMembers = [leAt (toBytes (slice b 0 32)) 0 2])) ∧
    (∃ (s : State) (n : Nat) (b : Binding), (n < 12288) ∧ (s.coreRuns n = true) ∧ (s.mem.dpBad = []) ∧
        ((s.coreRec n).switch1 = 5) ∧ ((s.coreRec n).resident1 ≠ 0) ∧
        ((s.ctxOf n ((s.coreRec n).resident1 - 1)).role1 ≠ 0) ∧
        (s.bindingOf ((s.ctxOf n ((s.coreRec n).resident1 - 1)).role1 - 1) = some b) ∧ (b.save % 32 = 0) ∧
        (s.lockedIn b.save (128 + b.swapLen) = false) ∧ (s.blockedIn b.save (128 + b.swapLen) = none)) ∧
    (∃ (s : State) (n c : Nat) (b : Binding), (n < 12288) ∧ (s.coreRuns n = true) ∧ (s.mem.dpBad = []) ∧
        ((s.coreRec n).switch1 = 5) ∧ ((s.coreRec n).resident1 ≠ 0) ∧
        ((s.ctxOf n ((s.coreRec n).resident1 - 1)).role1 ≠ 0) ∧
        (s.bindingOf ((s.ctxOf n ((s.coreRec n).resident1 - 1)).role1 - 1) = some b) ∧ (b.save % 32 = 0) ∧
        (s.lockedIn b.save (128 + b.swapLen) = false) ∧ (s.wordBlocked b.save = some c)) ∧
    (∃ (s : State) (n : Nat) (_p : Bool) (_fl : List (Nat × Nat)) (_bad : List Nat), (n < 12288) ∧
        ((s.coreRec n).switch1 = 0 ∨ s.coreRuns n = false)) :=
  ⟨⟨confirmState, { facts := { number := 7, start := 1000, period := 5000, lockstep := true } }, statusRecord 2 2 0 7 0 0 0, by decide⟩,
    ⟨saveState, 0, saveBinding, by decide⟩,
    ⟨{ saveState with flp := { saveState.flp with cores := [(0, { tile := true })] } }, 0, 4, saveBinding, by decide⟩,
    ⟨meshState, 12287, true, [], [3], by decide⟩⟩

theorem test_alignmentAndLockstep_hyps4 :
    (∃ (s s2 : State) (n : Nat) (b : Binding) (d : List Nat), (n < 12288) ∧ (s.coreRuns n = true) ∧ (s.mem.dpBad = []) ∧
        (1 ≤ (s.coreRec n).switch1) ∧ ((s.coreRec n).switch1 ≤ 4) ∧ ((s.coreRec n).resident1 = 0) ∧
        (s.bindingOf ((s.ctxOf n ((s.coreRec n).switch1 - 1)).role1 - 1) = some b) ∧
        (readBytes (coreWho n) false b.save (4096 + 32 * b.swapLen) s = (.data d, s2)) ∧
        ((s.ctxOf n ((s.coreRec n).switch1 - 1)).saveBad = false) ∧
        ((s.ctxOf n ((s.coreRec n).switch1 - 1)).publish = false) ∧
        ((s.ctxOf n ((s.coreRec n).switch1 - 1)).arrivals = [])) :=
  by
  obtain ⟨t, h⟩ := blank_bytes (n := 0) (a := saveBinding.save) (k := 128) (s := restoreState) ⟨rfl, rfl, rfl, rfl⟩
    (by decide) (by decide +kernel)
  have e : 4096 + 32 * saveBinding.swapLen = 32 * 128 := by decide
  exact ⟨restoreState, t, 0, saveBinding, List.replicate (32 * 128) 0, by decide, by decide, rfl,
    by decide, by decide, by decide, by decide, e ▸ h, by decide, by decide,
    by decide⟩

theorem test_alignmentAndLockstep_hyps5 :
    (∃ (s s2 : State) (n : Nat) (b : Binding) (d : List Nat), (n < 12288) ∧ (s.coreRuns n = true) ∧ (s.mem.dpBad = []) ∧
        (1 ≤ (s.coreRec n).switch1) ∧ ((s.coreRec n).switch1 ≤ 4) ∧ ((s.coreRec n).resident1 = 0) ∧
        (s.bindingOf ((s.ctxOf n ((s.coreRec n).switch1 - 1)).role1 - 1) = some b) ∧
        (readBytes (coreWho n) false b.save (4096 + 32 * b.swapLen) s = (.data d, s2)) ∧
        ((s.ctxOf n ((s.coreRec n).switch1 - 1)).saveBad = true) ∧
        ((s.ctxOf n ((s.coreRec n).switch1 - 1)).publish = false) ∧
        ((s.ctxOf n ((s.coreRec n).switch1 - 1)).arrivals = [])) :=
  by
  obtain ⟨t, h⟩ := blank_bytes (n := 0) (a := saveBinding.save) (k := 128) (s := (setCtx 0 0 (fun c => { c with saveBad := true }) restoreState)) ⟨rfl, rfl, rfl, rfl⟩
    (by decide) (by decide +kernel)
  have e : 4096 + 32 * saveBinding.swapLen = 32 * 128 := by decide
  exact ⟨setCtx 0 0 (fun c => { c with saveBad := true }) restoreState, t, 0, saveBinding, List.replicate (32 * 128) 0, by decide, by decide, rfl,
    by decide, by decide, by decide, by decide, e ▸ h, by decide, by decide,
    by decide⟩

theorem test_alignmentAndLockstep_hyps6 :
    (∃ (s s2 : State) (n c : Nat) (b : Binding), (n < 12288) ∧ (s.coreRuns n = true) ∧ (s.mem.dpBad = []) ∧
        (1 ≤ (s.coreRec n).switch1) ∧ ((s.coreRec n).switch1 ≤ 4) ∧ ((s.coreRec n).resident1 = 0) ∧
        (s.bindingOf ((s.ctxOf n ((s.coreRec n).switch1 - 1)).role1 - 1) = some b) ∧
        (readBytes (coreWho n) false b.save (4096 + 32 * b.swapLen) s = (.error c, s2)) ∧
        ((s.ctxOf n ((s.coreRec n).switch1 - 1)).publish = false) ∧
        ((s.ctxOf n ((s.coreRec n).switch1 - 1)).arrivals = [])) :=
  ⟨{ restoreState with flp := { restoreState.flp with cores := [(0, { tile := true })] } }, (readBytes (coreWho 0) false saveBinding.save (4096 + 32 * saveBinding.swapLen) { restoreState with flp := { restoreState.flp with cores := [(0, { tile := true })] } }).2, 0, 4, saveBinding, by decide⟩

theorem test_temperaturesAndCooling_hyps1 :
    (∃ (s : State) (_x : TempReadings), (s.powered = true) ∧ (s.thm.started = true)) ∧
    (∃ (s : State) (r a b : Nat), (s.powered = true) ∧ (s.thm.started = true) ∧ (r < 512) ∧ (a ≤ 2400) ∧ (b ≤ 2400)) ∧
    (∃ (s : State) (r a b : Nat), (s.powered = true) ∧ (s.thm.started = true) ∧ (r < 512) ∧ (a ≤ 2400) ∧ (b ≤ 2400)) ∧
    (∃ (s : State) (u k v : Nat) (x : Nat), (s.powered = true) ∧ (s.thm.started = true) ∧ (u < 4) ∧ (k < 16) ∧ (v ≤ 2400) ∧
        (x ≤ 2400) ∧ (s.thm.sills.length = 4) ∧ ((nth {} s.thm.sills u).readings.length = 16)) ∧
    (∃ (s : State) (_x : TempReadings), (s.powered = false ∨ s.thm.started = false) ∧ (s.kpr.railsUp = true) ∧
        (s.thm.inletFailed = false)) ∧
    (∃ (s : State) (_x : TempReadings), (s.powered = false ∨ s.thm.started = false) ∧
        (s.kpr.railsUp = false ∨ s.thm.inletFailed = true)) ∧
    (∃ (s : State) (r a b : Nat), (s.powered = true) ∧ (s.thm.started = true) ∧ (r < 512) ∧ (2400 < a) ∧ (a < 4096) ∧
        (b ≤ 2400) ∧ ((s.pairOf r).stateA ≠ 2)) ∧
    (∃ (s : State) (r : Nat), (s.powered = true) ∧ (s.thm.started = true) ∧ (r < 512) ∧
        (heldFor (s.pairOf r).differSince s.frm.tc (100 * tcMs) = true) ∧
        ((if (s.pairOf r).a < (s.pairOf r).b then (s.pairOf r).stateA else (s.pairOf r).stateB) = 0)) :=
  ⟨⟨clockedState .running, { regions := [(511, 1649, 100)], mems := [], sills := [], inlet := none }, by decide⟩,
    ⟨clockedState .running, 511, 1649, 100, by decide⟩,
    ⟨clockedState .running, 511, 1521, 100, by decide⟩,
    ⟨clockedState .running, 3, 15, 1700, 480, by decide⟩,
    ⟨liveState .rom, { regions := [], mems := [], sills := [], inlet := some 2400 }, by decide⟩,
    ⟨darkState, { regions := [], mems := [], sills := [], inlet := some 2400 }, by decide⟩,
    ⟨clockedState .running, 511, 2401, 100, by decide⟩,
    ⟨differState, 5, by decide⟩⟩

theorem test_temperaturesAndCooling_hyps2 :
    (∃ (s : State) (r : Nat), (s.powered = true) ∧ (s.thm.started = true) ∧ (r < 512) ∧
        (heldFor (s.memPairOf r).differSince s.frm.tc (100 * tcMs) = true) ∧
        ((if (s.memPairOf r).a < (s.memPairOf r).b then (s.memPairOf r).stateA else (s.memPairOf r).stateB) = 0)) ∧
    (∃ (s : State) (m : Bool) (r : Nat), (r < 512) ∧
        (s.powered = false ∨ s.thm.started = false ∨
          heldFor (if m then s.memPairOf r else s.pairOf r).differSince s.frm.tc (100 * tcMs) = false ∨
          (s.pairOf r).stateA = 1 ∧ (s.pairOf r).stateB = 1 ∧ (s.memPairOf r).stateA = 1 ∧ (s.memPairOf r).stateB = 1)) ∧
    (∃ (s : State) (u k : Nat), (s.powered = true) ∧ (s.thm.started = true) ∧ (u < 512) ∧ (k < 2) ∧
        (sensorState 0 u k s ≠ 2)) ∧
    (∃ (s : State) (u k : Nat), (s.powered = true) ∧ (s.thm.started = true) ∧ (u < 512) ∧ (k < 2) ∧
        (sensorState 1 u k s ≠ 2)) ∧
    (∃ (s : State) (u k : Nat), (s.powered = true) ∧ (s.thm.started = true) ∧ (u < 4) ∧ (k < 16) ∧
        (s.thm.sills.length = 4) ∧ (bit (nth {} s.thm.sills u).failed k = false)) ∧
    (∃ (s : State), (s.powered = true) ∧ (s.thm.started = true) ∧ (s.thm.inletFailed = false)) ∧
    (∃ (s : State) (c u k : Nat), (c < 2 ∧ u < 512 ∧ k < 2 ∨ c = 2 ∧ u < 4 ∧ k < 16 ∨ c = 3 ∧ u = 0 ∧ k = 0) ∧
        (s.powered = false ∨ s.thm.started = false ∨ sensorState c u k s = 2)) ∧
    (∃ (s : State) (u : Nat), (s.powered = true) ∧ (s.thm.started = true) ∧ (u < 512) ∧ ((s.pairOf u).held = true) ∧
        (heldFor (s.pairOf u).coolSince s.frm.tc tcMs = true)) :=
  ⟨⟨{ differState with thm := { differState.thm with mems := [(6, { a := 1000, b := 800, differSince := 1 })] } }, 6, by decide⟩,
    ⟨differState, false, 511, by decide⟩,
    ⟨differState, 511, 1, by decide⟩,
    ⟨differState, 6, 0, by decide⟩,
    ⟨differState, 3, 15, by decide⟩,
    ⟨steadyState, by decide⟩,
    ⟨liveState .ready, 3, 0, 0, by decide⟩,
    ⟨cooledState, 5, by decide⟩⟩

theorem test_temperaturesAndCooling_hyps3 :
    (∃ (s : State) (u : Nat), (s.powered = true) ∧ (s.thm.started = true) ∧ (u < 512) ∧ ((s.memPairOf u).held = true) ∧
        (heldFor (s.memPairOf u).coolSince s.frm.tc tcMs = true)) ∧
    (∃ (s : State) (u : Nat), (s.powered = true) ∧ (s.thm.started = true) ∧ (u < 4) ∧ ((nth {} s.thm.sills u).held = true) ∧
        (heldFor (nth {} s.thm.sills u).coolSince s.frm.tc tcMs = true)) ∧
    (∃ (s : State) (u : Nat), (u < 4) ∧
        (s.powered = false ∨ s.thm.started = false ∨ heldFor (s.pairOf u).coolSince s.frm.tc tcMs = false ∧
          heldFor (s.memPairOf u).coolSince s.frm.tc tcMs = false ∧
          heldFor (nth {} s.thm.sills u).coolSince s.frm.tc tcMs = false)) ∧
    (∃ (s : State) (r _mw : Nat), (s.powered = true) ∧ (s.thm.started = true) ∧ (r < 512)) ∧
    (∃ (s : State) (_l : List (Nat × Nat)), (s.powered = true) ∧ (s.thm.started = true)) ∧
    (∃ (s : State) (_l : List (Nat × Nat)), (s.powered = false ∨ s.thm.started = false)) ∧
    (∃ (s : State), (s.powered = true) ∧ (s.thm.started = true) ∧ (s.thm.inletFailed = false) ∧
        (¬ (800 ≤ s.pwr.avg1 ∧ steadyPower s.pwr.avg1 ((s.pwr.avg1 :: s.thm.powers).take 60) = true))) ∧
    (∃ (s : State), (s.powered = true) ∧ (s.thm.started = true) ∧ (s.thm.inletFailed = false) ∧ (800 ≤ s.pwr.avg1) ∧
        (steadyPower s.pwr.avg1 ((s.pwr.avg1 :: s.thm.powers).take 60) = true)) :=
  ⟨⟨cooledState, 6, by decide⟩,
    ⟨cooledState, 1, by decide⟩,
    ⟨cooledState, 3, by decide⟩,
    ⟨differState, 300, 3000, by decide⟩,
    ⟨differState, [(300, 3000), (301, 1)], by decide⟩,
    ⟨liveState .ready, [(300, 3000)], by decide⟩,
    ⟨differState, by decide⟩,
    ⟨steadyState, by decide⟩⟩

theorem test_temperaturesAndCooling_hyps4 :
    (∃ (s : State), (s.powered = false ∨ s.thm.started = false ∨ s.thm.inletFailed = true)) :=
  ⟨{ steadyState with thm := { steadyState.thm with inletFailed := true } }, by decide⟩

theorem test_eventsAndReports_hyps1 :
    (∃ (s : State) (vec n us sev : Nat), (s.hostUp = true) ∧ (s.kpr.state ≠ .halted) ∧ (vec < 64) ∧ (n < 256) ∧
        (us < 65536) ∧ (sev < 4) ∧ (s.evt.enable = false) ∧ (6 ≤ s.evt.sizeLog2) ∧ (s.evt.sizeLog2 ≤ 16) ∧
        (s.evt.ringAddr ≠ 0)) ∧
    (∃ (s : State) (vec n us sev : Nat), (s.hostUp = true) ∧ (s.kpr.state ≠ .halted) ∧ (vec < 64) ∧ (n < 256) ∧
        (us < 65536) ∧ (sev < 4) ∧ (s.evt.enable = false) ∧ (6 ≤ s.evt.sizeLog2) ∧ (s.evt.sizeLog2 ≤ 16) ∧
        (s.evt.ringAddr ≠ 0) ∧ (s.evt.hold = [])) ∧
    (∃ (s : State) (vec n us sev : Nat), (s.hostUp = true) ∧ (s.kpr.state ≠ .halted) ∧ (vec < 64) ∧ (n < 256) ∧
        (us < 65536) ∧ (sev < 4) ∧ (s.evt.enable = false) ∧
        (s.evt.sizeLog2 < 6 ∨ 16 < s.evt.sizeLog2 ∨ s.evt.ringAddr = 0)) ∧
    (∃ (s : State) (vec n us sev : Nat), (s.hostUp = true) ∧ (s.kpr.state ≠ .halted) ∧ (64 ≤ vec) ∧ (vec < 256) ∧
        (n < 256) ∧ (us < 65536) ∧ (sev < 4)) ∧
    (∃ (s : State) (vec n us sev : Nat), (s.hostUp = true) ∧ (s.kpr.state = .halted) ∧ (vec < 64) ∧ (n < 256) ∧
        (us < 65536) ∧ (sev < 4)) ∧
    (∃ (s : State) (vec n us sev : Nat), (s.hostUp = true) ∧ (s.kpr.state ≠ .halted) ∧ (vec < 64) ∧ (n < 256) ∧
        (us < 65536) ∧ (sev < 4) ∧ (s.evt.enable = true)) ∧
    (∃ (s : State) (vec n us sev : Nat), (s.hostUp = true) ∧ (s.kpr.state ≠ .halted) ∧ (vec < 64) ∧ (n < 256) ∧
        (us < 65536) ∧ (sev < 4)) ∧
    (∃ (s : State) (v : Nat), (s.hostUp = true) ∧ (s.kpr.state ≠ .halted) ∧ (v < 65536) ∧ (v < s.ringSize) ∧
        (s.evt.head < s.ringSize) ∧ (s.evt.tail < s.ringSize) ∧
        ((v + s.ringSize - s.evt.head) % s.ringSize ≤ (s.evt.tail + s.ringSize - s.evt.head) % s.ringSize)) :=
  ⟨⟨ringState, 63, 255, 65535, 3, by decide⟩,
    ⟨ringState, 63, 255, 65535, 3, by decide⟩,
    ⟨liveState .ready, 63, 255, 65535, 3, by decide⟩,
    ⟨ringState, 64, 255, 65535, 3, by decide⟩,
    ⟨liveState .halted, 63, 255, 65535, 3, by decide⟩,
    ⟨{ ringState with evt := { ringState.evt with enable := true } }, 63, 255, 65535, 3, by decide⟩,
    ⟨{ ringState with evt := { ringState.evt with enable := true } }, 63, 255, 65535, 3, by decide⟩,
    ⟨ringState, 20, by decide⟩⟩

theorem test_eventsAndReports_hyps2 :
    (∃ (s : State) (v : Nat), (s.hostUp = true) ∧ (s.kpr.state ≠ .halted) ∧ (v < 65536) ∧
        (s.ringSize ≤ v ∨ s.evt.head ≤ s.evt.tail ∧ s.evt.tail < v ∧ s.evt.tail < s.ringSize)) ∧
    (∃ (s : State), (0 < s.evt.unsignalled) ∧ (0 < s.evt.coalUs) ∧ (s.evt.unsignalledAt + s.evt.coalUs * tcUs ≤ s.frm.tc)) ∧
    (∃ (s : State), (s.evt.unsignalled = 0 ∨ s.evt.coalUs = 0 ∨ s.frm.tc < s.evt.unsignalledAt + s.evt.coalUs * tcUs)) ∧
    (∃ (s : State) (k w : Nat), (k < 4) ∧ (w < 16) ∧ (s.powered = true) ∧ ((nth {} s.lnk.carts k).present = true) ∧
        (bit (nth {} s.lnk.carts k).aged w = false) ∧ (s.evt.minSev = 0) ∧ (s.evt.hold = []) ∧ (s.ringOpen = true)) ∧
    (∃ (s : State) (k w : Nat), (k < 4) ∧ (w < 16) ∧ (s.powered = true) ∧ ((nth {} s.lnk.carts k).present = true) ∧
        (bit (nth {} s.lnk.carts k).aged w = false) ∧ (s.evt.minSev = 0) ∧ (s.evt.hold = []) ∧ (s.ringOpen = false)) ∧
    (∃ (s : State) (r : ReportRun), (s.evt.running = some r) ∧ (s.hif.bme = true) ∧ (s.kpr.state ≠ .halted)) ∧
    (∃ (s : State), (s.evt.running = none ∨ s.hif.bme = false ∨ s.kpr.state = .halted)) :=
  ⟨⟨ringState, 64, by decide⟩,
    ⟨unsignalledState, by decide⟩,
    ⟨ringState, by decide⟩,
    ⟨{ ringState with hif := (linkedState .ready).hif, evt := { ringState.evt with enable := true, tail := 63, head := 7, phase := true } }, 3, 15, by decide⟩,
    ⟨ringState, 3, 15, by decide⟩,
    ⟨reportState, { addr := 0x10000, frame := 9, bytes := [1, 2, 3], truncated := false, vector := 2, signal := false }, by decide⟩,
    ⟨ringState, by decide⟩⟩

theorem test_managementEndpoint_hyps1 :
    (∃ (s : State) (bus eid : Nat), (bus < 3) ∧ (s.busLive bus = true) ∧ (eid < 256) ∧ (bus ≠ 0 ∨ s.tel.polls = false)) ∧
    (∃ (s : State) (bus : Nat), (bus < 3) ∧ (s.busLive bus = true) ∧ (bus ≠ 0 ∨ s.tel.polls = false)) ∧
    (∃ (s : State) (bus cmd : Nat) (_d : List Nat), (bus < 3) ∧ (s.busLive bus = true) ∧ (cmd % 256 = 0 ∨ 6 ≤ cmd % 256) ∧
        (bus ≠ 0 ∨ s.tel.polls = false)) ∧
    (∃ (s : State), (s.busLive 0 = true) ∧ (s.tel.polls = true)) ∧
    (∃ (s : State) (bus _cmd _id _c : Nat) (_d : List Nat) (_r : Option Nat) (_p : Bool), (bus < 3) ∧
        (s.busLive bus = false)) ∧
    (∃ (s : State) (bus : Nat), (bus < 3) ∧ (s.busLive bus = true)) ∧
    (∃ (s : State) (bus id : Nat), (bus < 3) ∧ (s.busLive bus = true) ∧
        (id % 65536 = 0 ∨ 13 < id % 65536 ∨ id % 65536 ∈ [5, 6, 7, 9, 11, 12, 13] ∧ s.inStates [.rom, .halted] = true)) ∧
    (∃ (s : State) (bus : Nat), (bus < 3) ∧ (s.busLive bus = true) ∧ (s.inStates [.rom, .halted] = false)) :=
  ⟨⟨linkedState .ready, 2, 255, by decide⟩,
    ⟨linkedState .ready, 2, by decide⟩,
    ⟨liveState .halted, 1, 255, [], by decide⟩,
    ⟨{ liveState .ready with tel := { (liveState .ready).tel with polls := true } }, by decide⟩,
    ⟨liveState .ready, 2, 1, 1, 600, [], none, true, by decide⟩,
    ⟨liveState .halted, 0, by decide⟩,
    ⟨liveState .halted, 0, 13, by decide⟩,
    ⟨meshState, 0, by decide⟩⟩

theorem test_managementEndpoint_hyps2 :
    (∃ (s : State) (bus c : Nat), (bus < 3) ∧ (s.busLive bus = true) ∧ (s.keeperUp = true) ∧ (s.inStates capStates = true) ∧
        (c ≤ 1600) ∧ (s.pwr.cap8 ≤ c) ∧ (600 ≤ s.pwr.cap8)) ∧
    (∃ (s : State) (bus c : Nat), (bus < 3) ∧ (s.busLive bus = true) ∧ (s.keeperUp = true) ∧ (s.inStates capStates = true) ∧
        (600 ≤ c) ∧ (c ≤ s.pwr.cap1) ∧ (s.pwr.cap1 ≤ 1600)) ∧
    (∃ (s : State) (bus c : Nat), (bus < 3) ∧ (s.busLive bus = true) ∧ (s.keeperUp = true) ∧
        (s.inStates capStates = false) ∧ (c < 65536)) ∧
    (∃ (s : State) (bus id _c : Nat), (bus < 3) ∧ (s.busLive bus = true) ∧ (id ≠ 1) ∧ (id ≠ 2)) ∧
    (∃ (s : State) (bus : Nat) (_r : Option Nat) (_p : Bool), (bus < 3) ∧ (s.busLive bus = true)) ∧
    (∃ (s : State) (_a : Nat), (s.kpr.railsUp = true)) ∧
    (∃ (s : State) (_a : Nat), (s.kpr.railsUp = false)) ∧
    (∃ (s : State) (k : Nat) (_p : Bool), (k < 512) ∧ (s.hostUp = true) ∧ (s.dbgOpen = false)) :=
  ⟨⟨liveState .ready, 0, 1600, by decide⟩,
    ⟨liveState .running, 0, 600, by decide⟩,
    ⟨liveState .rom, 0, 600, by decide⟩,
    ⟨liveState .ready, 0, 3, 600, by decide⟩,
    ⟨liveState .ready, 0, some 255, true, by decide⟩,
    ⟨liveState .ready, 127, by decide⟩,
    ⟨darkState, 127, by decide⟩,
    ⟨liveState .ready, 511, true, by decide⟩⟩

theorem test_managementEndpoint_hyps3 :
    (∃ (s : State) (k : Nat), (k < 512) ∧ (s.hostUp = true) ∧ (s.dbgOpen = true) ∧ (s.csReadable = true)) ∧
    (∃ (s : State) (k : Nat) (_p : Bool), (k < 512) ∧ (s.hostUp = true) ∧ (s.dbgOpen = true) ∧ (s.csReadable = false)) ∧
    (∃ (s : State) (k : Nat), (k < 512) ∧ (s.hostUp = true) ∧ (s.dbgOpen = true) ∧ (s.csReadable = true)) ∧
    (∃ (s : State) (k : Nat) (_p : Bool), (k < 512) ∧ (s.keeperUp = true) ∧ (s.hif.d3hot = true)) ∧
    (∃ (s : State) (k : Nat) (_p : Bool), (k < 512) ∧ (s.keeperUp = false)) :=
  ⟨⟨unlockedState, 511, by decide⟩,
    ⟨{ unlockedState with flp := { unlockedState.flp with cores := [(0, { core := true })] } }, 511, true, by decide⟩,
    ⟨unlockedState, 511, by decide⟩,
    ⟨{ liveState .ready with hif := { hifReset with d3hot := true } }, 511, true, by decide⟩,
    ⟨darkState, 511, true, by decide⟩⟩

theorem test_pendingPeriodIsFixed_hyps :
    (∃ (s : State) (v : Nat), (s.hostUp = true) ∧ (s.kpr.state = .running) ∧ (s.frm.nextArm = true) ∧ (v < 2 ^ 64)) ∧
    (∃ (s : State) (p : Nat), (s.hostUp = true) ∧ (s.kpr.state = .running) ∧ (s.frm.nextArm = true) ∧ (p < 2 ^ 27)) ∧
    (∃ (s : State) (p : Nat), (s.hostUp = true) ∧ (s.kpr.state = .running) ∧ (s.frm.nextArm = true) ∧ (p < 2 ^ 27) ∧
        (s.frm.tc + s.frm.planLead < s.frm.latch)) ∧
    (∃ (s : State) (p : Nat), (s.hostUp = true) ∧ (s.kpr.state = .running) ∧ (s.frm.nextArm = true) ∧ (p < 2 ^ 27) ∧
        (s.frm.latch ≤ s.frm.tc + s.frm.planLead)) :=
  ⟨⟨armedState, 2 ^ 64 - 1, by decide⟩,
    ⟨armedState, 2 ^ 27 - 1, by decide⟩,
    ⟨armedState, 2 ^ 27 - 1, by decide⟩,
    ⟨atTc 95536 armedState, 0, by decide⟩⟩

theorem test_onlyDoorbellsAreWritten_hyps :
    (∃ (s : State) (q w v : Nat), (s.bar4Live = true) ∧ (q < 256) ∧ (w = 4 ∨ w = 8) ∧ ((s.qpOf q).enable = true) ∧
        (v % 4096 < (s.qpOf q).size)) ∧
    (∃ (s : State) (q w v : Nat), (s.bar4Live = true) ∧ (q < 256) ∧ (w = 4 ∨ w = 8) ∧ ((s.qpOf q).enable = true) ∧
        (v % 4096 < (s.qpOf q).size) ∧
        ((v % 4096 + (s.qpOf q).size - (s.qpOf q).cqHead) % (s.qpOf q).size ≤ (s.qpOf q).usedSlots) ∧
        ((s.qpOf q).held = []) ∧ ((s.qpOf q).parked = [])) ∧
    (∃ (_s : State) (off _w _v : Nat), (off % 4096 ≠ 0) ∧ (off % 4096 ≠ 8)) ∧
    (∃ (s : State), (s.bar4Live = true)) :=
  ⟨⟨serviceState, 3, 8, 15, by decide⟩,
    ⟨serviceState, 3, 8, 0, by decide⟩,
    ⟨serviceState, 0x3010, 8, 15, by decide⟩,
    ⟨serviceState, by decide⟩⟩

theorem test_handOversAreCommands_hyps1 :
    (∃ (s : State) (i k : Nat), (i < 4) ∧ (s.hif.win.length = 4) ∧ (s.hostUp = true) ∧ (k < 4) ∧
        (s.inStates [.ready, .running, .suspended] = true) ∧ ((s.window i).committed = true) ∧ ((s.window i).owner = 0)) ∧
    (∃ (s : State) (i k : Nat), (i < 4) ∧ (s.hif.win.length = 4) ∧ (s.hostUp = true) ∧ (k < 4) ∧
        (s.inStates [.ready, .running, .suspended] = true) ∧ ((s.window i).committed = true) ∧ ((s.window i).owner = 1)) ∧
    (∃ (s : State) (i : Nat), (i < 4) ∧ (s.hif.win.length = 4) ∧ (s.hostUp = true) ∧
        (s.inStates [.ready, .running, .suspended] = false ∨ (s.window i).committed = false ∨ (s.window i).owner ≠ 0)) ∧
    (∃ (s : State) (i : Nat), (i < 4) ∧ (s.hif.win.length = 4) ∧ (s.hostUp = true) ∧
        (s.inStates [.ready, .running, .suspended] = false ∨ (s.window i).committed = false ∨ (s.window i).owner ≠ 1)) ∧
    (∃ (s : State) (i : Nat), (i < 4) ∧ (s.hif.win.length = 4) ∧ (s.hostUp = true) ∧ ((s.window i).committed = true)) ∧
    (∃ (s : State) (i : Nat), (i < 4) ∧ (s.hif.win.length = 4) ∧ (s.hostUp = true)) ∧
    (∃ (s : State) (i _v : Nat), (i < 4) ∧ (s.hostUp = false)) ∧
    (∃ (s : State) (i hpa : Nat), (s.kpr.state ≠ .halted) ∧ (s.winAt (hpa / 64 * 64) = some i) ∧ ((s.window i).owner = 3)) ∧
    (∃ (s : State) (i hpa : Nat) (_b : List Nat), (s.kpr.state ≠ .halted) ∧ (s.winAt (hpa / 64 * 64) = some i) ∧
        ((s.window i).owner = 2 ∨ (s.window i).owner = 3)) ∧
    (∃ (s : State) (i : Nat), (i < 4) ∧ (s.powered = true) ∧ ((s.window i).committed = true) ∧ ((s.window i).lock = false)) ∧
    (∃ (s : State) (i hpa dpa size : Nat), (i < 4) ∧ (s.hif.win.length = 4) ∧ (hpa < 2 ^ 64) ∧ (dpa < 2 ^ 64) ∧
        (size < 2 ^ 64) ∧ (s.powered = true) ∧ ((s.window i).committed = false) ∧ (s.canCommit i dpa size 1 = true)) :=
  ⟨⟨winState 0, 1, 3, by decide⟩,
    ⟨winState 1, 1, 0, by decide⟩,
    ⟨winState 2, 1, by decide⟩,
    ⟨winState 3, 1, by decide⟩,
    ⟨winState 3, 1, by decide⟩,
    ⟨winState 0, 1, by decide⟩,
    ⟨darkState, 1, 0, by decide⟩,
    ⟨winState 3, 1, 0x4000, by decide⟩,
    ⟨winState 3, 1, 0x4000, List.replicate 64 1, by decide⟩,
    ⟨winState 1, 1, by decide⟩,
    ⟨openWindow, 1, 0x1000, 0, 0x30000000, by decide⟩⟩

theorem test_handOversAreCommands_hyps2 :
    (∃ (s s2 : State) (i hpa : Nat) (d : List Nat), (s.kpr.state ≠ .halted) ∧ (s.winAt (hpa / 64 * 64) = some i) ∧
        ((s.window i).owner = 2) ∧ (s.tileHolds (s.winAddr i (hpa / 64 * 64)) = false) ∧
        (readBytes { code := 4, source := 0, unit := some hostEndpoint } false (s.winAddr i (hpa / 64 * 64)) 64 s = (.data d,
          s2))) :=
  ⟨winState 2, (readBytes { code := 4, source := 0, unit := some hostEndpoint } false 0x4000 64 (winState 2)).2, 1, 0x4000, List.replicate 64 0, by decide⟩

theorem test_codeWordsDecode_hyps :
    (∃ (d : List Nat), (d.length = 32) ∧ (d.all (fun b => decide (b < 256)) = true)) ∧
    (∃ (d : List Nat) (i e : Nat), (d.length = 32) ∧ (d.all (fun b => decide (b < 256)) = true) ∧ (i < 36) ∧ (0 < e) ∧
        (e < 256)) ∧
    (∃ (d : List Nat) (i e j f : Nat), (d.length = 32) ∧ (d.all (fun b => decide (b < 256)) = true) ∧ (i < j) ∧ (j < 36) ∧
        (0 < e) ∧ (e < 256) ∧ (0 < f) ∧ (f < 256)) :=
  ⟨⟨List.replicate 32 255, by decide⟩,
    ⟨List.replicate 32 255, 35, 255, by decide⟩,
    ⟨List.replicate 32 255, 0, 255, 35, 1, by decide⟩⟩

theorem test_whatIsWrittenIsRead_hyps :
    (∃ (s : State) (off : Nat) (d : List Nat), (d.length = 32) ∧ (d.all (fun b => decide (b < 256)) = true) ∧
        (off + 32 ≤ 2 ^ 36) ∧ (off % 32 = 0) ∧ (s.bar2Live = true) ∧ (s.mem.hard = []) ∧ (s.mem.dpBad = []) ∧
        (s.tileHolds (s.hif.baseGib * 2 ^ 30 + off) = false) ∧ (s.lockedIn (s.hif.baseGib * 2 ^ 30 + off) 1 = false) ∧
        (s.wordBlocked (s.hif.baseGib * 2 ^ 30 + off) = none)) ∧
    (∃ (s : State) (off away : Nat) (d e : List Nat), (d.length = 32) ∧ (d.all (fun b => decide (b < 256)) = true) ∧
        (off + 32 ≤ 2 ^ 36) ∧ (off % 32 = 0) ∧ (away + 32 ≤ 2 ^ 36) ∧ (away % 32 = 0) ∧ (away ≠ off) ∧
        (s.bar2Live = true) ∧ (s.mem.dpBad = []) ∧ (s.tileHolds (s.hif.baseGib * 2 ^ 30 + away) = false) ∧
        (s.wordBlocked (s.hif.baseGib * 2 ^ 30 + away) = none) ∧
        (rsDecode (s.codeWord (s.hif.baseGib * 2 ^ 30 + away)) = .good e)) :=
  ⟨⟨barState, 64, List.replicate 32 255, by decide⟩,
    ⟨barState, 64, 96, List.replicate 32 255, List.replicate 32 0, by decide⟩⟩
end

section
/-! A pending change of the frame period (R33): what `FRM.LATCH` and `FRM.NEXT` do while `FRM.NEXT.arm` is 1. -/
namespace Sys2Proof.Proofs
open Sys2Proof.Machine Sys2Proof.Laws

/-! ## The commands as register writes -/

/-- An aligned 64-bit write of a BAR0 register below the AER window goes to that register (R414). -/
theorem exec_registerWrite_eight {off v : Nat} {s : State} (up : s.hostUp = true) (hoff : off < 0x1000000)
    (aligned : off % 8 = 0) (hv : v < 2 ^ 64) : exec (.registerWrite off 8 v) s = .next (writeReg off v s) := by
  change Host.Outcome.next (doRegisterWrite off 8 (v % 2 ^ 64) s) = _
  rw [Nat.mod_eq_of_lt hv, doRegisterWrite, if_neg (Nat.not_le.mpr hoff)]
  simp [up, aligned]

theorem exec_write_latch {v : Nat} {s : State} (up : s.hostUp = true) (hv : v < 2 ^ 64) :
    exec (.registerWrite 0x300030 8 v) s = .next (writeLatch v s) :=
  exec_registerWrite_eight up (by decide) (by decide) hv

theorem exec_write_next {v : Nat} {s : State} (up : s.hostUp = true) (hv : v < 2 ^ 64) :
    exec (.registerWrite 0x300038 8 v) s = .next (writeNext v s) :=
  exec_registerWrite_eight up (by decide) (by decide) hv

/-- PERIOD_ARM is the write of `FRM.NEXT` with arm = 1. -/
theorem exec_periodArm {p : Nat} (s : State) (hp : p < 2 ^ 63) :
    exec (.periodArm p) s = .next (writeNext (2 ^ 63 + p) s) := by
  change Host.Outcome.next (writeNext (p % 2 ^ 64 % 2 ^ 63 + 2 ^ 63) s) = _
  have harm : p % 2 ^ 64 % 2 ^ 63 + 2 ^ 63 = 2 ^ 63 + p := by omega
  rw [harm]

/-- PERIOD_WITHDRAW is the write of `FRM.NEXT` with arm = 0. -/
theorem exec_periodWithdraw {p : Nat} (s : State) (hp : p < 2 ^ 63) :
    exec (.periodWithdraw p) s = .next (writeNext p s) := by
  change Host.Outcome.next (writeNext (p % 2 ^ 64 % 2 ^ 63) s) = _
  have hkeep : p % 2 ^ 64 % 2 ^ 63 = p := by omega
  rw [hkeep]

/-! ## The fields of `FRM.NEXT` -/

/-- A value that holds a period alone has arm at 0. -/
theorem bit_arm_of_period {p : Nat} (hp : p < 2 ^ 27) : bit p 63 = false := by
  have hzero : p / 2 ^ 63 = 0 := Nat.div_eq_of_lt (by omega)
  rw [bit, hzero]; rfl

/-- A value that holds bit 63 and a period has arm at 1. -/
theorem bit_arm_of_arm_add_period {p : Nat} (hp : p < 2 ^ 27) : bit (2 ^ 63 + p) 63 = true := by
  have hone : (2 ^ 63 + p) / 2 ^ 63 = 1 := by omega
  rw [bit, hone]; rfl

/-- A period sets no reserved bit of `FRM.NEXT`. -/
theorem period_fits_next {p : Nat} (hp : p < 2 ^ 27) : p &&& ((2 ^ 64 - 1) ^^^ ((2 ^ 63 + 2 ^ 27 - 1) ||| 0)) = 0 :=
  and_eq_zero_of_low hp (by decide)

/-- Arm and a period set no reserved bit of `FRM.NEXT`. -/
theorem arm_add_period_fits_next {p : Nat} (hp : p < 2 ^ 27) :
    (2 ^ 63 + p) &&& ((2 ^ 64 - 1) ^^^ ((2 ^ 63 + 2 ^ 27 - 1) ||| 0)) = 0 :=
  and_eq_zero_of_parts (a := 2 ^ 36) hp (period_fits_next hp) (by decide)

/-! ## The two registers while a change is pending -/

theorem inStates_running {s : State} (running : s.kpr.state = .running) : s.inStates [.running] = true := by
  simp [State.inStates, running]

section Pending
variable {s : State} {v : Nat} (up : s.hostUp = true) (running : s.kpr.state = .running) (armed : s.frm.nextArm = true)
include up running armed

/-- `FRM.LATCH` takes no write. -/
theorem writeLatch_pending : writeLatch v s = refuse 0x300030 v 0x0135 s := by
  rw [writeLatch, inState_runs up (inStates_running running)]
  simp [armed]

/-- `FRM.NEXT` takes a withdrawal before the plan point and nothing else. -/
theorem writeNext_pending (fits : v &&& ((2 ^ 64 - 1) ^^^ ((2 ^ 63 + 2 ^ 27 - 1) ||| 0)) = 0) :
    writeNext v s = if bit v 63 || !s.beforeLatchPlan then refuse 0x300038 v 0x0135 s
      else { s with frm := { s.frm with nextArm := false } } := by
  rw [writeNext, regWrite_runs up fits, inState_runs up (inStates_running running)]
  exact if_pos armed

theorem writeNext_rearm {p : Nat} (hp : p < 2 ^ 27) :
    writeNext (2 ^ 63 + p) s = refuse 0x300038 (2 ^ 63 + p) 0x0135 s := by
  rw [writeNext_pending up running armed (arm_add_period_fits_next hp), bit_arm_of_arm_add_period hp, Bool.true_or,
    if_pos rfl]

theorem writeNext_withdraw_early {p : Nat} (hp : p < 2 ^ 27) (early : s.frm.tc + s.frm.planLead < s.frm.latch) :
    writeNext p s = { s with frm := { s.frm with nextArm := false } } := by
  have before : s.beforeLatchPlan = true := decide_eq_true early
  rw [writeNext_pending up running armed (period_fits_next hp), bit_arm_of_period hp, before]
  exact if_neg Bool.false_ne_true

theorem writeNext_withdraw_late {p : Nat} (hp : p < 2 ^ 27) (late : s.frm.latch ≤ s.frm.tc + s.frm.planLead) :
    writeNext p s = refuse 0x300038 p 0x0135 s := by
  have after : s.beforeLatchPlan = false := decide_eq_false (Nat.not_lt.mpr late)
  rw [writeNext_pending up running armed (period_fits_next hp), after, Bool.not_false, Bool.or_true, if_pos rfl]

end Pending

/-- Settles O55: `FRM.LATCH` refuses every write, and `FRM.NEXT` answers by arm and the plan point alone, whether it is
written as a register or by its two commands. -/
theorem pendingPeriodIsFixed : Obligations.PendingPeriodIsFixed := by
  unfold Obligations.PendingPeriodIsFixed
  refine ⟨?latch, ?rearm, ?early, ?late⟩
  case latch =>
    intro s v up running armed hv
    rw [exec_write_latch up hv, writeLatch_pending up running armed]
  case rearm =>
    intro s p up running armed hp
    rw [exec_write_next up (by omega), exec_periodArm s (by omega), writeNext_rearm up running armed hp]
    exact ⟨rfl, rfl⟩
  case early =>
    intro s p up running armed hp early
    rw [exec_write_next up (by omega), exec_periodWithdraw s (by omega), writeNext_withdraw_early up running armed hp early]
    exact ⟨rfl, rfl⟩
  case late =>
    intro s p up running armed hp late
    rw [exec_write_next up (by omega), exec_periodWithdraw s (by omega), writeNext_withdraw_late up running armed hp late]
    exact ⟨rfl, rfl⟩

end Sys2Proof.Proofs
end

section
/-! Writes and reads of BAR4 (R292): the two doorbells of each queue pair, and every other offset. -/
namespace Sys2Proof.Proofs
open Sys2Proof.Machine

/-! ## The commands as writes of BAR4 -/

/-- SQ_TAIL_DOORBELL is a write of the 1 MiB of BAR4. -/
theorem exec_sqTailDoorbell (off w v : Nat) (s : State) :
    exec (.sqTailDoorbell off w v) s = .next (bar4Write (off % 2 ^ 20) w v s) := rfl

/-- CQ_HEAD_DOORBELL is a write of the 1 MiB of BAR4. -/
theorem exec_cqHeadDoorbell (off w v : Nat) (s : State) :
    exec (.cqHeadDoorbell off w v) s = .next (bar4Write (off % 2 ^ 20) w v s) := rfl

/-! ## What a write of BAR4 reaches -/

/-- BAR4 takes both widths at an offset that is a multiple of 8. -/
theorem barWidth_of_dvd {off w : Nat} (hw : w = 4 ∨ w = 8) (aligned : 8 ∣ off) : barWidth off w = true := by
  obtain rfl | rfl := hw
  · have hmod : off % 4 = 0 := by omega
    simp [barWidth, hmod]
  · have hmod : off % 8 = 0 := by omega
    simp [barWidth, hmod]

/-- A write at an offset that names no doorbell changes nothing, whatever its width and whether or not BAR4 decodes. -/
theorem bar4Write_no_doorbell {off : Nat} (notSq : off % 4096 ≠ 0) (notCq : off % 4096 ≠ 8) (w v : Nat) (s : State) :
    bar4Write off w v s = s := by
  unfold bar4Write
  split
  · rfl
  · split
    · contradiction
    · contradiction
    · rfl

section Doorbells
variable {s : State} {w : Nat} (live : s.bar4Live = true) (hw : w = 4 ∨ w = 8)
include live hw

theorem bar4Write_sqTail (q v : Nat) : bar4Write (4096 * q) w v s = sqTail q v s := by
  have width : barWidth (4096 * q) w = true := barWidth_of_dvd hw (by omega)
  have place : 4096 * q % 4096 = 0 := by omega
  have pair : 4096 * q / 4096 = q := by omega
  simp [bar4Write, live, width, place, pair]

theorem bar4Write_cqHead (q v : Nat) : bar4Write (4096 * q + 8) w v s = releaseCq q (cqHead q v s) := by
  have width : barWidth (4096 * q + 8) w = true := barWidth_of_dvd hw (by omega)
  have place : (4096 * q + 8) % 4096 = 8 := by omega
  have pair : (4096 * q + 8) / 4096 = q := by omega
  simp [bar4Write, live, width, place, pair]

theorem exec_sqTailDoorbell_pair {q : Nat} (hq : q < 256) (v : Nat) :
    exec (.sqTailDoorbell (4096 * q) w v) s = .next (sqTail q v s) := by
  rw [exec_sqTailDoorbell, Nat.mod_eq_of_lt (by omega), bar4Write_sqTail live hw]

theorem exec_cqHeadDoorbell_pair {q : Nat} (hq : q < 256) (v : Nat) :
    exec (.cqHeadDoorbell (4096 * q + 8) w v) s = .next (releaseCq q (cqHead q v s)) := by
  rw [exec_cqHeadDoorbell, Nat.mod_eq_of_lt (by omega), bar4Write_cqHead live hw]

end Doorbells

/-! ## A queue pair that holds nothing back -/

/-- With no completion held, writing them leaves the pair as it is. -/
theorem flushCq_qpOf_of_none_held {s : State} {q : Nat} (held : (s.qpOf q).held = []) :
    (flushCq q s).qpOf q = s.qpOf q := by
  rw [flushCq, held, flushCqes, setQp_qpOf_same, ← held]

/-- With no entry parked, serving them leaves the pair as it is. -/
theorem unpark_nil_qpOf {s : State} {q : Nat} (parked : (s.qpOf q).parked = []) :
    (unpark q [] s).qpOf q = s.qpOf q := by
  rw [unpark, setQp_qpOf_same, ← parked]

/-- Space that comes back to a pair with nothing held and nothing parked leaves it as it is. -/
theorem releaseCq_qpOf_of_idle {s : State} {q : Nat} (held : (s.qpOf q).held = []) (parked : (s.qpOf q).parked = []) :
    (releaseCq q s).qpOf q = s.qpOf q := by
  have flushed : (flushCq q s).qpOf q = s.qpOf q := flushCq_qpOf_of_none_held held
  have waiting : ((flushCq q s).qpOf q).parked = [] := by rw [flushed, parked]
  rw [releaseCq, waiting, unpark_nil_qpOf waiting, flushed]

/-! ## The two doorbells of an enabled pair, at an index inside its queues -/

section Enabled
variable {s : State} {q v : Nat} (enabled : (s.qpOf q).enable = true) (inside : v % 4096 < (s.qpOf q).size)
include enabled inside

theorem sqTail_accepted : sqTail q v s =
    setQp q (fun p => { p with sqTail := v % 4096, fetchFailed := if p.fetchFailed = 3 then 0 else p.fetchFailed }) s := by
  simp [sqTail, enabled, Nat.not_le.mpr inside]

variable (used : (v % 4096 + (s.qpOf q).size - (s.qpOf q).cqHead) % (s.qpOf q).size ≤ (s.qpOf q).usedSlots)
include used

/-- The head moves, then held completions are written. -/
theorem cqHead_accepted : cqHead q v s = flushCq q (setQp q (fun p => { p with cqHead := v % 4096 }) s) := by
  simp [cqHead, enabled, Nat.not_le.mpr inside, Nat.not_lt.mpr used]

/-- Where nothing is held, the head alone of the pair moves. -/
theorem cqHead_qpOf_of_none_held (held : (s.qpOf q).held = []) :
    (cqHead q v s).qpOf q = { s.qpOf q with cqHead := v % 4096 } := by
  rw [cqHead_accepted enabled inside used, flushCq_qpOf_of_none_held (by rw [setQp_qpOf_same]; exact held), setQp_qpOf_same]

/-- Where nothing is parked either, what the released space starts leaves the pair so. -/
theorem releaseCq_cqHead_qpOf (held : (s.qpOf q).held = []) (parked : (s.qpOf q).parked = []) :
    (releaseCq q (cqHead q v s)).qpOf q = { s.qpOf q with cqHead := v % 4096 } := by
  have moved := cqHead_qpOf_of_none_held enabled inside used held
  rw [releaseCq_qpOf_of_idle (by rw [moved]; exact held) (by rw [moved]; exact parked), moved]

end Enabled

/-! ## Reads -/

/-- R292: while BAR4 decodes it reads as 0. -/
theorem readBar4_of_live {s : State} (live : s.bar4Live = true) : s.readBar4 = some 0 := if_pos live

/-- Settles O56: the offset of a write of BAR4 names a doorbell of one queue pair or nothing, and a doorbell moves its
index where the pair is enabled and the index inside. -/
theorem onlyDoorbellsAreWritten : Obligations.OnlyDoorbellsAreWritten := by
  unfold Obligations.OnlyDoorbellsAreWritten
  refine ⟨?sqTail, ?cqHead, ?noDoorbell, ?read⟩
  case sqTail =>
    intro s q w v live hq hw enabled inside
    refine ⟨_, exec_sqTailDoorbell_pair live hw hq v, sqTail_accepted enabled inside, ?_⟩
    rw [sqTail_accepted enabled inside, setQp_qpOf_same]
  case cqHead =>
    intro s q w v live hq hw enabled inside used held parked
    exact ⟨_, exec_cqHeadDoorbell_pair live hw hq v, releaseCq_cqHead_qpOf enabled inside used held parked⟩
  case noDoorbell =>
    intro s off w v notSq notCq
    have page : off % 2 ^ 20 % 4096 = off % 4096 := by omega
    rw [← page] at notSq notCq
    rw [exec_sqTailDoorbell, exec_cqHeadDoorbell, bar4Write_no_doorbell notSq notCq]
    exact ⟨rfl, rfl⟩
  case read =>
    intro s live
    exact readBar4_of_live live

end Sys2Proof.Proofs
end

section
/-! The firmware floor (R385): no command but PRT_COMMAND_DONE writes the protection block, and that one commits no block
whose floor is below the floor in force. -/
namespace Sys2Proof.Proofs
open Sys2Proof.Machine

/-! ## Every other command leaves the block alone -/

/-- Where an outcome is a next state, that state keeps what `u` promises. -/
def NextKeeps (u : Untouched) (s : State) (o : Host.Outcome State Fault Refusal) : Prop :=
  ∀ t, o = .next t → Keeps u s t

section NextKeeps
variable {u : Untouched} {s t : State}

theorem NextKeeps.next (h : Keeps u s t) : NextKeeps u s (.next t) := by
  rintro _ ⟨⟩
  exact h

theorem NextKeeps.onUnit {unitExists : Prop} [Decidable unitExists] (h : Keeps u s t) :
    NextKeeps u s (Machine.onUnit unitExists t) := by
  intro t' answers
  unfold Machine.onUnit at answers
  split at answers
  · exact NextKeeps.next h t' answers
  · contradiction

end NextKeeps

/-- No command but PRT_COMMAND_DONE writes the protection block: each may change at most what a reset changes. -/
theorem exec_keeps_block {c : Instr} (s : State)
    (other : ∀ readsOk pkg sigA sigB storeOk, c ≠ .prtCommandDone readsOk pkg sigA sigB storeOk) :
    NextKeeps (Untouched.allBut wholeDevice) s (exec c s) := by
  have same : Keeps (Untouched.allBut wholeDevice) s s := Keeps.refl s
  -- What a law needs to be free in `wholeDevice` is free there by evaluation.
  have free : false = false := rfl
  cases c with
  | powerOn => exact .next (doPowerOn_keeps _ _ _ same)
  | lossOfPower => exact .next (doLossOfPower_keeps _ same)
  | inputWarnBand => exact .next (doInputWarnBand_keeps _ _ same)
  | vpmShutdown => exact .next (doVpmShutdown_keeps _ same)
  | stage1ConverterFail => exact .onUnit (doStage1ConverterFail_keeps _ _ same)
  | railOutOfRegulation => exact .onUnit (doRailOutOfRegulation_keeps _ _ same)
  | perstNAssert => exact .next (doPerstNAssert_keeps _ same)
  | perstNRelease => exact .next (doPerstNRelease_keeps _ same)
  | oscWaitExpiry => exact .next (doOscWaitExpiry_keeps _ same)
  | systemPllLockTimeout => exact .next (doSystemPllLockTimeout_keeps _ same)
  | systemPllLock => exact .next (doSystemPllLock_keeps _ same)
  | hotReset => exact .next (doHotReset_keeps _ same)
  | fatalCondition => exact .onUnit (doFatalCondition_keeps _ _ same)
  | haltHoldEnd => exact .next (doHaltHoldEnd_keeps _ same)
  | keeperWatchdogExpiry => exact .next (doKeeperWatchdogExpiry_keeps _ same)
  | sillResetRequest => exact .onUnit (doSillResetRequest_keeps _ _ same)
  | refclkLost => exact .onUnit (doRefclkLost_keeps _ _ _ same)
  | keeperGo => exact .next (doKeeperGo_keeps _ same)
  | firmwareVerified => exact .next (doFirmwareVerified_keeps _ _ same)
  | regionGeneratorLockTimeout => exact .onUnit (doRegionGeneratorLockTimeout_keeps _ _ same)
  | hingeFifoSettleTimeout => exact .next (doHingeFifoSettleTimeout_keeps _ same)
  | loadImage => exact .next (doLoadImage_keeps _ same)
  | loadVerified => exact .next (doLoadVerified_keeps _ _ _ _ same)
  | unloadImage => exact .next (doUnloadImage_keeps _ same)
  | enableImage => exact .next (doEnableImage_keeps _ same)
  | checkComplete => exact .next (doCheckComplete_keeps _ _ _ _ same)
  | suspendImage => exact .next (doSuspendImage_keeps _ same)
  | frameEntry => exact .next (doFrameEntry_keeps _ _ same)
  | slatBoundary => exact .next (doSlatBoundary_keeps _ _ _ same)
  | contextSwitchDone => exact .onUnit (doContextSwitchDone_keeps _ _ _ _ _ same)
  | planPoint => exact .next (doPlanPoint_keeps _ _ same)
  | frameEnd => exact .next (doFrameEnd_keeps _ _ _ _ _ same)
  | confirmDeadline => exact .next (doConfirmDeadline_keeps _ same)
  | statusRecordReceive => exact .next (doStatusRecordReceive_keeps _ _ same)
  | periodArm => exact .next (doPeriodArm_keeps _ _ same)
  | periodWithdraw => exact .next (doPeriodWithdraw_keeps _ _ same)
  | limitWrite => exact .next (doLimitWrite_keeps _ _ same)
  | limitArm => exact .next (doLimitArm_keeps _ _ same)
  | limitWithdraw => exact .next (doLimitWithdraw_keeps _ _ same)
  | capWrite => exact .onUnit (doCapWrite_keeps _ _ _ same)
  | coolBaseWrite => exact .next (doCoolBaseWrite_keeps _ _ same)
  | scrubWrite => exact .next (writeScrub_keeps _ _ same)
  | ceThreshWrite => exact .next (writeCeThresh_keeps _ _ same)
  | bnkSelWrite => exact .next (writeBnkSel_keeps _ _ same)
  | bnkHcmdGo => exact .next (doBnkHcmdGo_keeps _ _ same)
  | qpEnable => exact .onUnit (doQpEnable_keeps _ _ _ same)
  | qpDisable => exact .onUnit (doQpDisable_keeps _ _ _ same)
  | sqTailDoorbell => exact .next (doSqTailDoorbell_keeps _ _ _ _ same)
  | cqHeadDoorbell => exact .next (doCqHeadDoorbell_keeps _ _ _ _ same)
  | openEntry => exact .onUnit (doOpenEntry_keeps _ _ _ same)
  | appendEntry => exact .onUnit (doAppendEntry_keeps _ _ _ same)
  | generateEntry => exact .onUnit (doGenerateEntry_keeps _ _ _ same)
  | forkEntry => exact .onUnit (doForkEntry_keeps _ _ _ same)
  | closeEntry => exact .onUnit (doCloseEntry_keeps _ _ _ same)
  | queryEntry => exact .onUnit (doQueryEntry_keeps _ _ _ same)
  | forkCopyDone => exact .onUnit (doForkCopyDone_keeps _ _ _ _ same)
  | laneFill => exact .next (doLaneFill_keeps _ _ _ _ same)
  | poolSetStarved => exact .onUnit (doPoolSetStarved_keeps _ _ same)
  | reqCoalesceTimeout => exact .onUnit (doReqCoalesceTimeout_keeps _ _ same)
  | sqFetchRetry => exact .onUnit (doSqFetchRetry_keeps _ _ same)
  | descriptorDispatch => exact .onUnit (doDescriptorDispatch_keeps _ _ _ same)
  | loadDesc => exact .onUnit (doLoadDesc_keeps _ _ _ same)
  | storeDesc => exact .onUnit (doStoreDesc_keeps _ _ _ _ same)
  | send => exact .onUnit (doSend_keeps _ _ _ same)
  | recv => exact .onUnit (doRecv_keeps _ _ same)
  | matmul => exact .onUnit (doMatmul_keeps _ _ _ _ _ _ same)
  | convert => exact .onUnit (doConvert_keeps _ _ _ _ same)
  | gather => exact .onUnit (doGather_keeps _ _ same)
  | waitCounter => exact .onUnit (doWaitCounter_keeps _ _ same)
  | waitSlatStart => exact .onUnit (doWaitSlatStart_keeps _ _ same)
  | waitFrameOffset => exact .onUnit (doWaitFrameOffset_keeps _ _ same)
  | waitConfirm => exact .onUnit (doWaitConfirm_keeps _ _ same)
  | waitQuiesce => exact .onUnit (doWaitQuiesce_keeps _ _ same)
  | waitYield => exact .onUnit (doWaitYield_keeps _ _ same)
  | loop => exact .onUnit (doLoop_keeps _ _ same)
  | skip => exact .onUnit (doSkip_keeps _ _ _ same)
  | vecAdd => exact .onUnit (doVecAdd_keeps _ _ _ _ same)
  | vecSub => exact .onUnit (doVecSub_keeps _ _ _ _ same)
  | vecMul => exact .onUnit (doVecMul_keeps _ _ _ _ same)
  | vecMax => exact .onUnit (doVecMax_keeps _ _ _ _ same)
  | vecMin => exact .onUnit (doVecMin_keeps _ _ _ _ same)
  | vecAdds => exact .onUnit (doVecAdds_keeps _ _ _ _ same)
  | vecMuls => exact .onUnit (doVecMuls_keeps _ _ _ _ same)
  | vecExp => exact .onUnit (doVecExp_keeps _ _ _ _ same)
  | vecRcp => exact .onUnit (doVecRcp_keeps _ _ _ _ same)
  | vecRsqrt => exact .onUnit (doVecRsqrt_keeps _ _ _ _ same)
  | vecSigmoid => exact .onUnit (doVecSigmoid_keeps _ _ _ _ same)
  | vecRsum => exact .onUnit (doVecRsum_keeps _ _ _ _ same)
  | vecRmax => exact .onUnit (doVecRmax_keeps _ _ _ _ same)
  | vecRsumsq => exact .onUnit (doVecRsumsq_keeps _ _ _ _ same)
  | vecRargmax => exact .onUnit (doVecRargmax_keeps _ _ _ _ same)
  | vecRowsub => exact .onUnit (doVecRowsub_keeps _ _ _ _ same)
  | vecRowmul => exact .onUnit (doVecRowmul_keeps _ _ _ _ same)
  | vecCsum => exact .onUnit (doVecCsum_keeps _ _ _ _ same)
  | vecMaskge => exact .onUnit (doVecMaskge_keeps _ _ _ _ same)
  | vecMasklt => exact .onUnit (doVecMasklt_keeps _ _ _ _ same)
  | descriptorComplete => exact .onUnit (doDescriptorComplete_keeps _ _ _ same)
  | coreParityFence => exact .onUnit (doCoreParityFence_keeps _ _ same)
  | unitWatchdogExpiry => exact .onUnit (doUnitWatchdogExpiry_keeps _ _ _ same)
  | drainHalfDone => exact .onUnit (doDrainHalfDone_keeps _ _ _ _ _ _ _ _ _ same)
  | paneParityError => exact .onUnit (doPaneParityError_keeps _ _ _ same)
  | netRead => exact .next (doNetRead_keeps _ _ _ _ _ same)
  | netWrite => exact .next (doNetWrite_keeps _ _ _ _ same)
  | netSend => exact .next (doNetSend_keeps _ _ _ same)
  | netReadData => exact .next (doNetReadData_keeps _ _ same)
  | netAck => exact .next (doNetAck_keeps _ _ same)
  | netError => exact .next (doNetError_keeps _ _ same)
  | flitCreditReturn => exact .onUnit (doFlitCreditReturn_keeps _ _ _ same)
  | flitCrcError => exact .onUnit (doFlitCrcError_keeps _ _ _ same)
  | linkReplayLimit => exact .onUnit (doLinkReplayLimit_keeps _ _ same)
  | netRequestAged => exact .next (doNetRequestAged_keeps _ _ same)
  | ownerSashRequest => exact .onUnit (doOwnerSashRequest_keeps _ _ _ _ _ _ same)
  | bankRefreshDue => exact .onUnit (doBankRefreshDue_keeps _ _ _ _ _ same)
  | tileTempSample => exact .onUnit (doTileTempSample_keeps _ _ same)
  | scrubRun => exact .onUnit (doScrubRun_keeps _ _ _ _ _ same)
  | sashStallTimeout => exact .onUnit (doSashStallTimeout_keeps _ _ same)
  | sashRetrainDone => exact .onUnit (doSashRetrainDone_keeps _ _ _ same)
  | bankAccessTimeout => exact .onUnit (doBankAccessTimeout_keeps _ _ _ same)
  | datapathParityFence => exact .onUnit (doDatapathParityFence_keeps _ _ same)
  | ceThreshold => exact .onUnit (doCeThreshold_keeps _ _ same)
  | bankCommandStart => exact .onUnit (doBankCommandStart_keeps _ _ _ _ same)
  | microNext => exact .onUnit (doMicroNext_keeps _ _ _ _ _ same)
  | microFetch => exact .onUnit (doMicroFetch_keeps _ _ _ _ _ same)
  | microFetchc => exact .onUnit (doMicroFetchc_keeps _ _ _ _ _ same)
  | microCopyout => exact .onUnit (doMicroCopyout_keeps _ _ _ _ same)
  | microPiece => exact .onUnit (doMicroPiece_keeps _ _ _ same)
  | microSegb => exact .onUnit (doMicroSegb_keeps _ _ _ same)
  | microOut => exact .onUnit (doMicroOut_keeps _ _ _ _ same)
  | microClear => exact .onUnit (doMicroClear_keeps _ _ _ same)
  | microJump => exact .onUnit (doMicroJump_keeps _ _ _ same)
  | microDone => exact .onUnit (doMicroDone_keeps _ _ _ same)
  | microSelop => exact .onUnit (doMicroSelop_keeps _ _ _ same)
  | reservedMicroOp => exact .onUnit (doReservedMicroOp_keeps _ _ _ same)
  | microOpTimeout => exact .onUnit (doMicroOpTimeout_keeps _ _ _ same)
  | hostCommandTimeout => exact .onUnit (doHostCommandTimeout_keeps _ _ _ same)
  | bankUnitParityFence => exact .onUnit (doBankUnitParityFence_keeps _ _ _ same)
  | pageWalkDone => exact .onUnit (doPageWalkDone_keeps _ _ _ _ _ _ _ same)
  | bar2Read => exact .next (doBar2Read_keeps _ _ _ _ _ same)
  | bar2Write => exact .next (doBar2Write_keeps _ _ _ _ _ same)
  | memrd => exact .next (doMemrd_keeps _ _ _ _ same)
  | memrddata => exact .next (doMemrddata_keeps _ _ _ _ same)
  | memwr => exact .next (doMemwr_keeps _ _ _ _ _ same)
  | memwrptl => exact .next (doMemwrptl_keeps _ _ _ _ _ _ same)
  | memspecrd => exact .next (doMemspecrd_keeps _ _ same)
  | hdmDecoderCommit => exact .onUnit (doHdmDecoderCommit_keeps _ _ _ _ _ _ _ same)
  | hdmDecoderUncommit => exact .onUnit (doHdmDecoderUncommit_keeps _ _ same)
  | toDevice => exact .onUnit (doToDevice_keeps _ _ _ same)
  | toHost => exact .onUnit (doToHost_keeps _ _ _ same)
  | bar2BaseWrite => exact .next (writeBar2Base_keeps _ _ same)
  | poisonedTlp => exact .onUnit (doPoisonedTlp_keeps _ _ _ same)
  | busMasterEnableChange => exact .next (doBusMasterEnableChange_keeps _ _ same)
  | d3hotEntry => exact .next (doD3hotEntry_keeps _ same)
  | d0Return => exact .next (doD0Return_keeps _ same)
  | hostReadFailed => exact .next (doHostReadFailed_keeps _ _ _ same)
  | doeDiscovery => exact .next (doDoeDiscovery_keeps _ _ _ _ same)
  | cdatRead => exact .next (doCdatRead_keeps _ _ _ _ same)
  | doeAbort => exact .next (doDoeAbort_keeps _ same)
  | getIdentity => exact .next (doGetIdentity_keeps _ same)
  | getCert => exact .next (doGetCert_keeps _ _ same)
  | getReport => exact .next (doGetReport_keeps _ _ same)
  | getProtection => exact .next (doGetProtection_keeps _ same)
  | identifyMemoryDevice => exact .next (doIdentifyMemoryDevice_keeps _ same)
  | getSupportedLogs => exact .next (doGetSupportedLogs_keeps _ same)
  | getLog => exact .next (doGetLog_keeps _ _ _ same)
  | getEventRecords => exact .next (doGetEventRecords_keeps _ same)
  | clearEventRecords => exact .next (doClearEventRecords_keeps _ _ same)
  | getHealthInfo => exact .next (doGetHealthInfo_keeps _ same)
  | unsupportedMailboxOpcode => exact .onUnit (doUnsupportedMailboxOpcode_keeps _ _ same)
  | nonceRequest => exact .next (doNonceRequest_keeps _ same)
  | protectionChange => exact .next (doProtectionChange_keeps _ same)
  | debugUnlock => exact .next (doDebugUnlock_keeps _ same)
  | prtCommandDone readsOk pkg sigA sigB storeOk => exact absurd rfl (other readsOk pkg sigA sigB storeOk)
  | lnkDeviceWrite => exact .next (writeLnkDevice_keeps _ _ same)
  | lnkFwdWrite => exact .onUnit (writeFwd_keeps _ _ _ same)
  | quiesceSet => exact .onUnit (doQuiesceSet_keeps _ _ same)
  | quiesceClear => exact .onUnit (doQuiesceClear_keeps _ _ same)
  | datelineWrite => exact .onUnit (doDatelineWrite_keeps _ _ _ same)
  | raccRead => exact .next (doRaccRead_keeps _ _ same)
  | raccWrite => exact .next (doRaccWrite_keeps _ _ same)
  | raccTimeout => exact .next (doRaccTimeout_keeps _ same)
  | linkTrained => exact .onUnit (doLinkTrained_keeps _ _ _ _ _ _ same)
  | linkTrainRetry => exact .onUnit (doLinkTrainRetry_keeps _ _ _ same)
  | laneDrop => exact .onUnit (doLaneDrop_keeps _ _ _ _ _ same)
  | laneAdd => exact .onUnit (doLaneAdd_keeps _ _ _ same)
  | laserFail => exact .onUnit (doLaserFail_keeps _ _ _ same)
  | spareLaserInService => exact .onUnit (doSpareLaserInService_keeps _ _ _ same)
  | laserAged => exact .onUnit (doLaserAged_keeps _ _ _ same)
  | cartridgeLeverOpen => exact .onUnit (doCartridgeLeverOpen_keeps _ _ same)
  | oviWriteFlit => exact .onUnit (doOviWriteFlit_keeps _ _ _ _ same)
  | oviReadFlit => exact .onUnit (doOviReadFlit_keeps _ _ _ _ _ same)
  | oviReadDataFlit => exact .onUnit (doOviReadDataFlit_keeps _ _ _ same)
  | oviAckFlit => exact .onUnit (doOviAckFlit_keeps _ _ _ _ same)
  | oviStatusFlit => exact .onUnit (doOviStatusFlit_keeps _ _ _ same)
  | oviIdleFlit => exact .onUnit (doOviIdleFlit_keeps _ _ _ same)
  | oviFlitError => exact .onUnit (doOviFlitError_keeps _ _ _ same)
  | oviReplayLimit => exact .onUnit (doOviReplayLimit_keeps _ _ same)
  | peerRequestTimeout => exact .next (doPeerRequestTimeout_keeps _ _ _ _ same)
  | creditStall => exact .onUnit (doCreditStall_keeps _ _ _ same)
  | timingSymbolSend => exact .onUnit (doTimingSymbolSend_keeps _ _ same)
  | timingSymbol => exact .onUnit (doTimingSymbol_keeps _ _ _ _ _ _ _ same)
  | alignmentTimeout => exact .next (doAlignmentTimeout_keeps _ same)
  | sustainedDroop => exact .onUnit (doSustainedDroop_keeps _ _ same)
  | generatorLockLost => exact .onUnit (doGeneratorLockLost_keeps _ _ same)
  | fallbackSwitch => exact .onUnit (doFallbackSwitch_keeps _ _ same)
  | divisorStep => exact .onUnit (doDivisorStep_keeps _ _ same)
  | phaseFail => exact .onUnit (doPhaseFail_keeps _ _ _ same)
  | vsensorExclude => exact .onUnit (doVsensorExclude_keeps _ _ _ same)
  | shuntFire => exact .onUnit (doShuntFire_keeps _ _ same)
  | bondSample => exact .onUnit (doBondSample_keeps _ _ _ _ _ same)
  | bondSuspect => exact .onUnit (doBondSuspect_keeps _ _ same)
  | peakLimiterEngage => exact .onUnit (doPeakLimiterEngage_keeps _ _ _ same)
  | peakLimiterRelease => exact .next (doPeakLimiterRelease_keeps _ _ same)
  | shutterRampDone => exact .onUnit (doShutterRampDone_keeps _ _ same)
  | tempSample => exact .next (doTempSample_keeps _ _ same)
  | sensorSuspect => exact .onUnit (doSensorSuspect_keeps _ _ _ same)
  | sensorFail => exact .onUnit (doSensorFail_keeps _ _ _ _ same)
  | tempTrip => exact .onUnit (doTempTrip_keeps _ _ _ same)
  | holdRelease => exact .onUnit (doHoldRelease_keeps _ _ _ same)
  | modelUpdate => exact .next (doModelUpdate_keeps _ _ same)
  | avgSample => exact .next (doAvgSample_keeps _ _ _ _ _ _ same)
  | estimatorSecond => exact .next (doEstimatorSecond_keeps _ _ _ same)
  | coolingEstimate => exact .next (doCoolingEstimate_keeps _ same)
  | evtEnable => exact .next (doEvtEnable_keeps _ _ same)
  | evtDisable => exact .next (doEvtDisable_keeps _ _ same)
  | evtHeadWrite => exact .next (doEvtHeadWrite_keeps _ _ same)
  | evtCoalesceTimeout => exact .next (doEvtCoalesceTimeout_keeps _ same)
  | reportDone => exact .next (doReportDone_keeps _ same)
  | mctpControlMessage => exact .onUnit (doMctpControlMessage_keeps _ _ _ _ same)
  | getSensorReading => exact .onUnit (doGetSensorReading_keeps _ _ _ same)
  | setNumericEffecterValue => exact .onUnit (doSetNumericEffecterValue_keeps _ _ _ _ same)
  | setEventReceiver => exact .onUnit (doSetEventReceiver_keeps _ _ _ _ same)
  | i3cDynamicAddress => exact .next (doI3cDynamicAddress_keeps _ _ same)
  | dbgSelWrite => exact .next (writeDbgSel_keeps _ _ same)
  | dbgStatusClear => exact .next (writeDbgStatus_keeps _ _ same)
  | registerWrite => exact .next (doRegisterWrite_keeps _ _ _ _ same)
  | bringUpComplete => exact .next (doBringUpComplete_keeps _ _ _ same)
  | neighbourIdAnnounce => exact .onUnit (doNeighbourIdAnnounce_keeps _ _ _ same)
  | handoverComplete => exact .onUnit (doHandoverComplete_keeps _ _ same)
  | pcieLinkUp => exact .onUnit (doPcieLinkUp_keeps _ _ _ _ same)
  | inputWarnLeave => exact .next (doInputWarnLeave_keeps _ _ same)
  | dbgCsRead => exact .onUnit (doDbgCsRead_keeps _ _ _ same)

/-! ## A field of a block that was written -/

theorem length_slice (l : List Nat) (off n : Nat) : (slice l off n).length = n := by
  simp only [slice, List.length_append, List.length_replicate, List.length_take, List.length_drop]
  omega

/-- A number is read from its bytes modulo 256 each. -/
theorem leNat_toBytes (l : List Nat) : leNat (toBytes l) = leNat l := by
  induction l with
  | nil => rfl
  | cons b rest ih =>
    calc leNat (toBytes (b :: rest))
        = b % 256 % 256 + 256 * leNat (toBytes rest) := rfl
      _ = leNat (b :: rest) := by rw [ih, Nat.mod_mod, leNat]

/-- Bytes written at the start of a memory are read back as bytes. -/
theorem memBytes_memPutBytes_zero (m : Memory) (l : List Nat) {off n : Nat} (inside : off + n ≤ l.length) :
    memBytes (memPutBytes m 0 l) off n = toBytes ((l.drop off).take n) := by
  apply List.ext_getElem
  · simp only [memBytes, toBytes, List.length_map, List.length_range, List.length_take, List.length_drop]
    omega
  · intro i hi _
    have hin : i < n := by simpa [memBytes] using hi
    have written := memRead_memPutBytes_same m 0 l (i := off + i) (by omega)
    rw [Nat.zero_add] at written
    simp [memBytes, toBytes, written]

/-! ## The floor is a field of the block -/

theorem floor_of_block_eq {s t : State} (block : t.prt.block = s.prt.block) : t.floor = s.floor := by
  simp only [State.floor, State.blockLe, block]

/-- The floor of a block that was written is the number at offset 12 of its bytes (Table 18.4). -/
theorem floor_of_new_block {s : State} {b : List Nat} {off : Nat}
    (block : s.prt.block = memPutBytes [] 0 (slice b off 16384)) : s.floor = leAt (slice b off 16384) 12 4 := by
  have header : 12 + 4 ≤ (slice b off 16384).length := by
    rw [length_slice]
    decide
  rw [State.floor, State.blockLe, block, memBytes_memPutBytes_zero [] _ header, leNat_toBytes, leAt]

/-! ## What the tests of Table 18.8 and of Table 17.4 let pass -/

/-- A code chosen by a test is not `k` where neither of the two is. -/
theorem ite_ne {p : Prop} [Decidable p] {a b k : Nat} (ha : a ≠ k) (hb : b ≠ k) : (if p then a else b) ≠ k := by
  split
  · exact ha
  · exact hb

/-- The eighth test of a change: a new floor below the floor in force fails, if no test before it did. -/
theorem packageResult_of_low_floor {readsOk sigA sigB storeOk : Bool} {pkg : List Nat} {s : State}
    (change : s.prt.running = 2) (low : leAt (slice pkg 32 16384) 12 4 < s.floor) :
    packageResult readsOk pkg sigA sigB storeOk s ≠ 2 := by
  have eighth : (decide (s.prt.running = 2) && decide (leAt (slice pkg 32 16384) 12 4 < s.floor)) = true := by
    rw [change, decide_eq_true low]
    rfl
  unfold packageResult
  dsimp only
  rw [if_pos eighth]
  exact ite_ne (by decide) (ite_ne (by decide) (ite_ne (by decide) (ite_ne (by decide)
    (ite_ne (by decide) (ite_ne (by decide) (by decide))))))

/-- The last test of a firmware file: its version is not below the floor. -/
theorem firmwareResult_of_low_version {r : FetchResult} {s : State} (low : leAt r.file 8 4 < s.floor) :
    firmwareResult r s ≠ 2 := by
  unfold firmwareResult
  rw [if_pos low]
  exact ite_ne (by decide) (ite_ne (by decide) (ite_ne (by decide) (ite_ne (by decide) (by decide))))

/-! ## What the end of a protection command does -/

section CommandDone
variable {readsOk sigA sigB storeOk : Bool} {pkg : List Nat} {s : State}

/-- The new block is in force where all tests pass. -/
theorem doPrtCommandDone_block_committed (change : s.prt.running = 2) (bme : s.hif.bme = true)
    (live : s.kpr.state ≠ .halted) (taken : packageResult readsOk pkg sigA sigB storeOk s = 2) :
    (doPrtCommandDone readsOk pkg sigA sigB storeOk s).prt.block = memPutBytes [] 0 (slice pkg 32 16384) := by
  simp [doPrtCommandDone, change, bme, live, taken]

variable (readsOk sigA sigB storeOk pkg s) in
/-- The block stays, or it is the new block of a change that passed all tests. -/
theorem doPrtCommandDone_block_cases :
    (doPrtCommandDone readsOk pkg sigA sigB storeOk s).prt.block = s.prt.block ∨
      s.prt.running = 2 ∧ packageResult readsOk pkg sigA sigB storeOk s = 2 ∧
        (doPrtCommandDone readsOk pkg sigA sigB storeOk s).prt.block = memPutBytes [] 0 (slice pkg 32 16384) := by
  unfold doPrtCommandDone
  dsimp only
  split
  case isTrue => exact .inl rfl
  case isFalse =>
    rw [raise_prt]
    split
    case isTrue => exact .inl rfl
    case isFalse passed =>
      split
      case isTrue change => exact .inr ⟨change, Decidable.of_not_not passed, rfl⟩
      case isFalse => exact .inl rfl

theorem doPrtCommandDone_result (runs : s.prt.running ≠ 0) (bme : s.hif.bme = true) (live : s.kpr.state ≠ .halted) :
    (doPrtCommandDone readsOk pkg sigA sigB storeOk s).prt.result = packageResult readsOk pkg sigA sigB storeOk s := by
  unfold doPrtCommandDone
  dsimp only
  rw [if_neg (by simp [runs, bme, live]), raise_prt]
  split
  · rfl
  · split <;> rfl

theorem doPrtCommandDone_kpr : (doPrtCommandDone readsOk pkg sigA sigB storeOk s).kpr = s.kpr := by
  unfold doPrtCommandDone
  dsimp only
  split
  · rfl
  · rw [raise_kpr]
    split
    · rfl
    · split <;> rfl

/-- A change that is committed puts its new floor in force. -/
theorem floor_doPrtCommandDone_committed (change : s.prt.running = 2) (bme : s.hif.bme = true)
    (live : s.kpr.state ≠ .halted) (taken : packageResult readsOk pkg sigA sigB storeOk s = 2) :
    (doPrtCommandDone readsOk pkg sigA sigB storeOk s).floor = leAt (slice pkg 32 16384) 12 4 :=
  floor_of_new_block (doPrtCommandDone_block_committed change bme live taken)

/-- A change whose new floor is below the floor in force leaves the block as it is. -/
theorem doPrtCommandDone_block_of_low_floor (change : s.prt.running = 2)
    (low : leAt (slice pkg 32 16384) 12 4 < s.floor) :
    (doPrtCommandDone readsOk pkg sigA sigB storeOk s).prt.block = s.prt.block := by
  obtain kept | ⟨_, taken, _⟩ := doPrtCommandDone_block_cases readsOk sigA sigB storeOk pkg s
  · exact kept
  · exact absurd taken (packageResult_of_low_floor change low)

/-- The end of a protection command does not lower the floor. -/
theorem floor_le_doPrtCommandDone : s.floor ≤ (doPrtCommandDone readsOk pkg sigA sigB storeOk s).floor := by
  obtain kept | ⟨change, taken, committed⟩ := doPrtCommandDone_block_cases readsOk sigA sigB storeOk pkg s
  · exact Nat.le_of_eq (floor_of_block_eq kept).symm
  · rw [floor_of_new_block committed]
    exact Nat.le_of_not_lt fun low => packageResult_of_low_floor change low taken

end CommandDone

/-! ## The statement -/

theorem exec_prtCommandDone (readsOk : Bool) (pkg : List Nat) (sigA sigB storeOk : Bool) (s : State) :
    exec (.prtCommandDone readsOk pkg sigA sigB storeOk) s =
      .next (doPrtCommandDone readsOk (toBytes pkg) sigA sigB storeOk s) := rfl

/-- R385 as a step lemma: no command lowers the floor. -/
theorem exec_floor_le {c : Instr} {s t : State} (answers : exec c s = .next t) : s.floor ≤ t.floor := by
  by_cases done : ∃ readsOk pkg sigA sigB storeOk, c = .prtCommandDone readsOk pkg sigA sigB storeOk
  · obtain ⟨readsOk, pkg, sigA, sigB, storeOk, rfl⟩ := done
    rw [exec_prtCommandDone] at answers
    cases answers
    exact floor_le_doPrtCommandDone
  · have other : ∀ readsOk pkg sigA sigB storeOk, c ≠ .prtCommandDone readsOk pkg sigA sigB storeOk :=
      fun readsOk pkg sigA sigB storeOk is => done ⟨readsOk, pkg, sigA, sigB, storeOk, is⟩
    have kept : t.prt.block = s.prt.block := (exec_keeps_block s other t answers).protection rfl
    exact Nat.le_of_eq (floor_of_block_eq kept).symm

/-- Settles O44: the tests refuse a lower floor, so the one command that writes the block keeps or raises the floor. -/
theorem theFloorNeverFalls : Obligations.TheFloorNeverFalls := by
  unfold Obligations.TheFloorNeverFalls
  refine ⟨?step, ?refused, ?committed, ?firmware⟩
  case step =>
    intro c s t answers
    exact exec_floor_le answers
  case refused =>
    intro pkg readsOk sigA sigB storeOk s change low
    refine ⟨_, exec_prtCommandDone .., doPrtCommandDone_block_of_low_floor change low, ?_⟩
    intro bme live
    rw [doPrtCommandDone_result (by omega) bme live]
    exact packageResult_of_low_floor change low
  case committed =>
    intro pkg s change bme live taken
    exact ⟨_, exec_prtCommandDone .., floor_doPrtCommandDone_committed change bme live taken, doPrtCommandDone_kpr⟩
  case firmware =>
    intro r s low
    exact firmwareResult_of_low_version low

end Sys2Proof.Proofs
end

section
/-! What every command does to the machine (chapter 95): it completes where the units it names exist, it stays within its
footprint, and the queue runs on it. -/
namespace Sys2Proof.Proofs
set_option Elab.async false
open Sys2Proof.Machine

/-! ## Completion -/

/-- An outcome is a next state where the command's units exist, and the fault `noSuchUnit` where they do not. -/
def StopsUnless (unitsExist : Bool) (o : Host.Outcome State Fault Refusal) : Prop :=
  (unitsExist = true → ∃ t, o = .next t) ∧ (unitsExist = false → o = .fault .noSuchUnit)

theorem StopsUnless.next (t : State) : StopsUnless true (.next t) :=
  ⟨fun _ => ⟨t, rfl⟩, fun h => absurd h (by decide)⟩

theorem StopsUnless.onUnit (unitsExist : Prop) [Decidable unitsExist] (t : State) :
    StopsUnless (decide unitsExist) (Machine.onUnit unitsExist t) := by
  by_cases h : unitsExist
  · simp [StopsUnless, Machine.onUnit, h]
  · simp [StopsUnless, Machine.onUnit, h]

/-- A command without an operand for a unit completes; one with such operands tests them and completes. -/
theorem exec_stopsUnless_wf (c : Instr) (s : State) : StopsUnless c.wf (exec c s) := by
  cases c with
  | powerOn | lossOfPower | inputWarnBand | vpmShutdown | perstNAssert | perstNRelease | oscWaitExpiry
  | systemPllLockTimeout | systemPllLock | hotReset | haltHoldEnd | keeperWatchdogExpiry | keeperGo
  | firmwareVerified | hingeFifoSettleTimeout | loadImage | loadVerified | unloadImage | enableImage | checkComplete
  | suspendImage | frameEntry | slatBoundary | planPoint | frameEnd | confirmDeadline | statusRecordReceive
  | periodArm | periodWithdraw | limitWrite | limitArm | limitWithdraw | coolBaseWrite | scrubWrite | ceThreshWrite
  | bnkSelWrite | bnkHcmdGo | sqTailDoorbell | cqHeadDoorbell | laneFill | netRead | netWrite | netSend | netReadData
  | netAck | netError | netRequestAged | bar2Read | bar2Write | memrd | memrddata | memwr | memwrptl | memspecrd
  | bar2BaseWrite | busMasterEnableChange | d3hotEntry | d0Return | hostReadFailed | doeDiscovery | cdatRead
  | doeAbort | getIdentity | getCert | getReport | getProtection | identifyMemoryDevice | getSupportedLogs | getLog
  | getEventRecords | clearEventRecords | getHealthInfo | nonceRequest | protectionChange | debugUnlock
  | prtCommandDone | lnkDeviceWrite | raccRead | raccWrite | raccTimeout | peerRequestTimeout | alignmentTimeout
  | peakLimiterRelease | tempSample | modelUpdate | avgSample | estimatorSecond | coolingEstimate | evtEnable
  | evtDisable | evtHeadWrite | evtCoalesceTimeout | reportDone | i3cDynamicAddress | dbgSelWrite | dbgStatusClear
  | registerWrite | bringUpComplete | inputWarnLeave =>
    exact .next _
  | stage1ConverterFail | railOutOfRegulation | fatalCondition | sillResetRequest | refclkLost
  | regionGeneratorLockTimeout | contextSwitchDone | capWrite | qpEnable | qpDisable | openEntry | appendEntry
  | generateEntry | forkEntry | closeEntry | queryEntry | forkCopyDone | poolSetStarved | reqCoalesceTimeout
  | sqFetchRetry | descriptorDispatch | loadDesc | storeDesc | send | recv | matmul | convert | gather | waitCounter
  | waitSlatStart | waitFrameOffset | waitConfirm | waitQuiesce | waitYield | loop | skip | vecAdd | vecSub | vecMul
  | vecMax | vecMin | vecAdds | vecMuls | vecExp | vecRcp | vecRsqrt | vecSigmoid | vecRsum | vecRmax | vecRsumsq
  | vecRargmax | vecRowsub | vecRowmul | vecCsum | vecMaskge | vecMasklt | descriptorComplete | coreParityFence
  | unitWatchdogExpiry | drainHalfDone | paneParityError | flitCreditReturn | flitCrcError | linkReplayLimit
  | ownerSashRequest | bankRefreshDue | tileTempSample | scrubRun | sashStallTimeout | sashRetrainDone
  | bankAccessTimeout | datapathParityFence | ceThreshold | bankCommandStart | microNext | microFetch | microFetchc
  | microCopyout | microPiece | microSegb | microOut | microClear | microJump | microDone | microSelop
  | reservedMicroOp | microOpTimeout | hostCommandTimeout | bankUnitParityFence | pageWalkDone | hdmDecoderCommit
  | hdmDecoderUncommit | toDevice | toHost | poisonedTlp | unsupportedMailboxOpcode | lnkFwdWrite | quiesceSet
  | quiesceClear | datelineWrite | linkTrained | linkTrainRetry | laneDrop | laneAdd | laserFail
  | spareLaserInService | laserAged | cartridgeLeverOpen | oviWriteFlit | oviReadFlit | oviReadDataFlit | oviAckFlit
  | oviStatusFlit | oviIdleFlit | oviFlitError | oviReplayLimit | creditStall | timingSymbolSend | timingSymbol
  | sustainedDroop | generatorLockLost | fallbackSwitch | divisorStep | phaseFail | vsensorExclude | shuntFire
  | bondSample | bondSuspect | peakLimiterEngage | shutterRampDone | sensorSuspect | sensorFail | tempTrip
  | holdRelease | mctpControlMessage | getSensorReading | setNumericEffecterValue | setEventReceiver
  | neighbourIdAnnounce | handoverComplete | pcieLinkUp | dbgCsRead =>
    exact .onUnit _ _

/-- Settles O7: the test of the operands is the only thing that can stop a command. -/
theorem wellFormedCommandsComplete : Obligations.WellFormedCommandsComplete := by
  unfold Obligations.WellFormedCommandsComplete
  intro c s
  exact exec_stopsUnless_wf c s

/-! ## Footprints -/

/-- Each command passes through its meaning's law, which names the parts the meaning may change. -/
theorem exec_keeps (c : Instr) (s : State) : NextKeeps (Untouched.allBut (footprint c)) s (exec c s) := by
  have same : ∀ u, Keeps u s s := fun u => Keeps.refl s
  -- What a law needs to be free is a part of the footprint, which is there by evaluation.
  have free : false = false := rfl
  cases c with
  | powerOn => exact .next (doPowerOn_keeps _ _ _ (same _))
  | lossOfPower => exact .next (doLossOfPower_keeps _ (same _))
  | inputWarnBand => exact .next (doInputWarnBand_keeps _ _ (same _))
  | vpmShutdown => exact .next (doVpmShutdown_keeps _ (same _))
  | stage1ConverterFail => exact .onUnit (doStage1ConverterFail_keeps _ _ (same _))
  | railOutOfRegulation => exact .onUnit (doRailOutOfRegulation_keeps _ _ (same _))
  | perstNAssert => exact .next (doPerstNAssert_keeps _ (same _))
  | perstNRelease => exact .next (doPerstNRelease_keeps _ (same _))
  | oscWaitExpiry => exact .next (doOscWaitExpiry_keeps _ (same _))
  | systemPllLockTimeout => exact .next (doSystemPllLockTimeout_keeps _ (same _))
  | systemPllLock => exact .next (doSystemPllLock_keeps _ (same _))
  | hotReset => exact .next (doHotReset_keeps _ (same _))
  | fatalCondition => exact .onUnit (doFatalCondition_keeps _ _ (same _))
  | haltHoldEnd => exact .next (doHaltHoldEnd_keeps _ (same _))
  | keeperWatchdogExpiry => exact .next (doKeeperWatchdogExpiry_keeps _ (same _))
  | sillResetRequest => exact .onUnit (doSillResetRequest_keeps _ _ (same _))
  | refclkLost => exact .onUnit (doRefclkLost_keeps _ _ _ (same _))
  | keeperGo => exact .next (doKeeperGo_keeps _ (same _))
  | firmwareVerified => exact .next (doFirmwareVerified_keeps _ _ (same _))
  | regionGeneratorLockTimeout => exact .onUnit (doRegionGeneratorLockTimeout_keeps _ _ (same _))
  | hingeFifoSettleTimeout => exact .next (doHingeFifoSettleTimeout_keeps _ (same _))
  | loadImage => exact .next (doLoadImage_keeps _ (same _))
  | loadVerified => exact .next (doLoadVerified_keeps _ _ _ _ (same _))
  | unloadImage => exact .next (doUnloadImage_keeps _ (same _))
  | enableImage => exact .next (doEnableImage_keeps _ (same _))
  | checkComplete => exact .next (doCheckComplete_keeps _ _ _ _ (same _))
  | suspendImage => exact .next (doSuspendImage_keeps _ (same _))
  | frameEntry => exact .next (doFrameEntry_keeps _ _ (same _))
  | slatBoundary => exact .next (doSlatBoundary_keeps _ _ _ (same _))
  | contextSwitchDone => exact .onUnit (doContextSwitchDone_keeps _ _ _ _ _ (same _))
  | planPoint => exact .next (doPlanPoint_keeps _ _ (same _))
  | frameEnd => exact .next (doFrameEnd_keeps _ _ _ _ _ (same _))
  | confirmDeadline => exact .next (doConfirmDeadline_keeps _ (same _))
  | statusRecordReceive => exact .next (doStatusRecordReceive_keeps _ _ (same _))
  | periodArm => exact .next (doPeriodArm_keeps _ _ (same _))
  | periodWithdraw => exact .next (doPeriodWithdraw_keeps _ _ (same _))
  | limitWrite => exact .next (doLimitWrite_keeps _ _ (same _))
  | limitArm => exact .next (doLimitArm_keeps _ _ (same _))
  | limitWithdraw => exact .next (doLimitWithdraw_keeps _ _ (same _))
  | capWrite => exact .onUnit (doCapWrite_keeps _ _ _ (same _))
  | coolBaseWrite => exact .next (doCoolBaseWrite_keeps _ _ (same _))
  | scrubWrite => exact .next (writeScrub_keeps _ _ (same _))
  | ceThreshWrite => exact .next (writeCeThresh_keeps _ _ (same _))
  | bnkSelWrite => exact .next (writeBnkSel_keeps _ _ (same _))
  | bnkHcmdGo => exact .next (doBnkHcmdGo_keeps _ _ (same _))
  | qpEnable => exact .onUnit (doQpEnable_keeps _ _ _ (same _))
  | qpDisable => exact .onUnit (doQpDisable_keeps _ _ _ (same _))
  | sqTailDoorbell => exact .next (doSqTailDoorbell_keeps _ _ _ _ (same _))
  | cqHeadDoorbell => exact .next (doCqHeadDoorbell_keeps _ _ _ _ (same _))
  | openEntry => exact .onUnit (doOpenEntry_keeps _ _ _ (same _))
  | appendEntry => exact .onUnit (doAppendEntry_keeps _ _ _ (same _))
  | generateEntry => exact .onUnit (doGenerateEntry_keeps _ _ _ (same _))
  | forkEntry => exact .onUnit (doForkEntry_keeps _ _ _ (same _))
  | closeEntry => exact .onUnit (doCloseEntry_keeps _ _ _ (same _))
  | queryEntry => exact .onUnit (doQueryEntry_keeps _ _ _ (same _))
  | forkCopyDone => exact .onUnit (doForkCopyDone_keeps _ _ _ _ (same _))
  | laneFill => exact .next (doLaneFill_keeps _ _ _ _ (same _))
  | poolSetStarved => exact .onUnit (doPoolSetStarved_keeps _ _ (same _))
  | reqCoalesceTimeout => exact .onUnit (doReqCoalesceTimeout_keeps _ _ (same _))
  | sqFetchRetry => exact .onUnit (doSqFetchRetry_keeps _ _ (same _))
  | descriptorDispatch => exact .onUnit (doDescriptorDispatch_keeps _ _ _ (same _))
  | loadDesc => exact .onUnit (doLoadDesc_keeps _ _ _ (same _))
  | storeDesc => exact .onUnit (doStoreDesc_keeps _ _ _ _ (same _))
  | send => exact .onUnit (doSend_keeps _ _ _ (same _))
  | recv => exact .onUnit (doRecv_keeps _ _ (same _))
  | matmul => exact .onUnit (doMatmul_keeps _ _ _ _ _ _ (same _))
  | convert => exact .onUnit (doConvert_keeps _ _ _ _ (same _))
  | gather => exact .onUnit (doGather_keeps _ _ (same _))
  | waitCounter => exact .onUnit (doWaitCounter_keeps _ _ (same _))
  | waitSlatStart => exact .onUnit (doWaitSlatStart_keeps _ _ (same _))
  | waitFrameOffset => exact .onUnit (doWaitFrameOffset_keeps _ _ (same _))
  | waitConfirm => exact .onUnit (doWaitConfirm_keeps _ _ (same _))
  | waitQuiesce => exact .onUnit (doWaitQuiesce_keeps _ _ (same _))
  | waitYield => exact .onUnit (doWaitYield_keeps _ _ (same _))
  | loop => exact .onUnit (doLoop_keeps _ _ (same _))
  | skip => exact .onUnit (doSkip_keeps _ _ _ (same _))
  | vecAdd => exact .onUnit (doVecAdd_keeps _ _ _ _ (same _))
  | vecSub => exact .onUnit (doVecSub_keeps _ _ _ _ (same _))
  | vecMul => exact .onUnit (doVecMul_keeps _ _ _ _ (same _))
  | vecMax => exact .onUnit (doVecMax_keeps _ _ _ _ (same _))
  | vecMin => exact .onUnit (doVecMin_keeps _ _ _ _ (same _))
  | vecAdds => exact .onUnit (doVecAdds_keeps _ _ _ _ (same _))
  | vecMuls => exact .onUnit (doVecMuls_keeps _ _ _ _ (same _))
  | vecExp => exact .onUnit (doVecExp_keeps _ _ _ _ (same _))
  | vecRcp => exact .onUnit (doVecRcp_keeps _ _ _ _ (same _))
  | vecRsqrt => exact .onUnit (doVecRsqrt_keeps _ _ _ _ (same _))
  | vecSigmoid => exact .onUnit (doVecSigmoid_keeps _ _ _ _ (same _))
  | vecRsum => exact .onUnit (doVecRsum_keeps _ _ _ _ (same _))
  | vecRmax => exact .onUnit (doVecRmax_keeps _ _ _ _ (same _))
  | vecRsumsq => exact .onUnit (doVecRsumsq_keeps _ _ _ _ (same _))
  | vecRargmax => exact .onUnit (doVecRargmax_keeps _ _ _ _ (same _))
  | vecRowsub => exact .onUnit (doVecRowsub_keeps _ _ _ _ (same _))
  | vecRowmul => exact .onUnit (doVecRowmul_keeps _ _ _ _ (same _))
  | vecCsum => exact .onUnit (doVecCsum_keeps _ _ _ _ (same _))
  | vecMaskge => exact .onUnit (doVecMaskge_keeps _ _ _ _ (same _))
  | vecMasklt => exact .onUnit (doVecMasklt_keeps _ _ _ _ (same _))
  | descriptorComplete => exact .onUnit (doDescriptorComplete_keeps _ _ _ (same _))
  | coreParityFence => exact .onUnit (doCoreParityFence_keeps _ _ (same _))
  | unitWatchdogExpiry => exact .onUnit (doUnitWatchdogExpiry_keeps _ _ _ (same _))
  | drainHalfDone => exact .onUnit (doDrainHalfDone_keeps _ _ _ _ _ _ _ _ _ (same _))
  | paneParityError => exact .onUnit (doPaneParityError_keeps _ _ _ (same _))
  | netRead => exact .next (doNetRead_keeps _ _ _ _ _ (same _))
  | netWrite => exact .next (doNetWrite_keeps _ _ _ _ (same _))
  | netSend => exact .next (doNetSend_keeps _ _ _ (same _))
  | netReadData => exact .next (doNetReadData_keeps _ _ (same _))
  | netAck => exact .next (doNetAck_keeps _ _ (same _))
  | netError => exact .next (doNetError_keeps _ _ (same _))
  | flitCreditReturn => exact .onUnit (doFlitCreditReturn_keeps _ _ _ (same _))
  | flitCrcError => exact .onUnit (doFlitCrcError_keeps _ _ _ (same _))
  | linkReplayLimit => exact .onUnit (doLinkReplayLimit_keeps _ _ (same _))
  | netRequestAged => exact .next (doNetRequestAged_keeps _ _ (same _))
  | ownerSashRequest => exact .onUnit (doOwnerSashRequest_keeps _ _ _ _ _ _ (same _))
  | bankRefreshDue => exact .onUnit (doBankRefreshDue_keeps _ _ _ _ _ (same _))
  | tileTempSample => exact .onUnit (doTileTempSample_keeps _ _ (same _))
  | scrubRun => exact .onUnit (doScrubRun_keeps _ _ _ _ _ (same _))
  | sashStallTimeout => exact .onUnit (doSashStallTimeout_keeps _ _ (same _))
  | sashRetrainDone => exact .onUnit (doSashRetrainDone_keeps _ _ _ (same _))
  | bankAccessTimeout => exact .onUnit (doBankAccessTimeout_keeps _ _ _ (same _))
  | datapathParityFence => exact .onUnit (doDatapathParityFence_keeps _ _ (same _))
  | ceThreshold => exact .onUnit (doCeThreshold_keeps _ _ (same _))
  | bankCommandStart => exact .onUnit (doBankCommandStart_keeps _ _ _ _ (same _))
  | microNext => exact .onUnit (doMicroNext_keeps _ _ _ _ _ (same _))
  | microFetch => exact .onUnit (doMicroFetch_keeps _ _ _ _ _ (same _))
  | microFetchc => exact .onUnit (doMicroFetchc_keeps _ _ _ _ _ (same _))
  | microCopyout => exact .onUnit (doMicroCopyout_keeps _ _ _ _ (same _))
  | microPiece => exact .onUnit (doMicroPiece_keeps _ _ _ (same _))
  | microSegb => exact .onUnit (doMicroSegb_keeps _ _ _ (same _))
  | microOut => exact .onUnit (doMicroOut_keeps _ _ _ _ (same _))
  | microClear => exact .onUnit (doMicroClear_keeps _ _ _ (same _))
  | microJump => exact .onUnit (doMicroJump_keeps _ _ _ (same _))
  | microDone => exact .onUnit (doMicroDone_keeps _ _ _ (same _))
  | microSelop => exact .onUnit (doMicroSelop_keeps _ _ _ (same _))
  | reservedMicroOp => exact .onUnit (doReservedMicroOp_keeps _ _ _ (same _))
  | microOpTimeout => exact .onUnit (doMicroOpTimeout_keeps _ _ _ (same _))
  | hostCommandTimeout => exact .onUnit (doHostCommandTimeout_keeps _ _ _ (same _))
  | bankUnitParityFence => exact .onUnit (doBankUnitParityFence_keeps _ _ _ (same _))
  | pageWalkDone => exact .onUnit (doPageWalkDone_keeps _ _ _ _ _ _ _ (same _))
  | bar2Read => exact .next (doBar2Read_keeps _ _ _ _ _ (same _))
  | bar2Write => exact .next (doBar2Write_keeps _ _ _ _ _ (same _))
  | memrd => exact .next (doMemrd_keeps _ _ _ _ (same _))
  | memrddata => exact .next (doMemrddata_keeps _ _ _ _ (same _))
  | memwr => exact .next (doMemwr_keeps _ _ _ _ _ (same _))
  | memwrptl => exact .next (doMemwrptl_keeps _ _ _ _ _ _ (same _))
  | memspecrd => exact .next (doMemspecrd_keeps _ _ (same _))
  | hdmDecoderCommit => exact .onUnit (doHdmDecoderCommit_keeps _ _ _ _ _ _ _ (same _))
  | hdmDecoderUncommit => exact .onUnit (doHdmDecoderUncommit_keeps _ _ (same _))
  | toDevice => exact .onUnit (doToDevice_keeps _ _ _ (same _))
  | toHost => exact .onUnit (doToHost_keeps _ _ _ (same _))
  | bar2BaseWrite => exact .next (writeBar2Base_keeps _ _ (same _))
  | poisonedTlp => exact .onUnit (doPoisonedTlp_keeps _ _ _ (same _))
  | busMasterEnableChange => exact .next (doBusMasterEnableChange_keeps _ _ (same _))
  | d3hotEntry => exact .next (doD3hotEntry_keeps _ (same _))
  | d0Return => exact .next (doD0Return_keeps _ (same _))
  | hostReadFailed => exact .next (doHostReadFailed_keeps _ _ _ (same _))
  | doeDiscovery => exact .next (doDoeDiscovery_keeps _ _ _ _ (same _))
  | cdatRead => exact .next (doCdatRead_keeps _ _ _ _ (same _))
  | doeAbort => exact .next (doDoeAbort_keeps _ (same _))
  | getIdentity => exact .next (doGetIdentity_keeps _ (same _))
  | getCert => exact .next (doGetCert_keeps _ _ (same _))
  | getReport => exact .next (doGetReport_keeps _ _ (same _))
  | getProtection => exact .next (doGetProtection_keeps _ (same _))
  | identifyMemoryDevice => exact .next (doIdentifyMemoryDevice_keeps _ (same _))
  | getSupportedLogs => exact .next (doGetSupportedLogs_keeps _ (same _))
  | getLog => exact .next (doGetLog_keeps _ _ _ (same _))
  | getEventRecords => exact .next (doGetEventRecords_keeps _ (same _))
  | clearEventRecords => exact .next (doClearEventRecords_keeps _ _ (same _))
  | getHealthInfo => exact .next (doGetHealthInfo_keeps _ (same _))
  | unsupportedMailboxOpcode => exact .onUnit (doUnsupportedMailboxOpcode_keeps _ _ (same _))
  | nonceRequest => exact .next (doNonceRequest_keeps _ (same _))
  | protectionChange => exact .next (doProtectionChange_keeps _ (same _))
  | debugUnlock => exact .next (doDebugUnlock_keeps _ (same _))
  | prtCommandDone => exact .next (doPrtCommandDone_keeps _ _ _ _ _ _ (same _))
  | lnkDeviceWrite => exact .next (writeLnkDevice_keeps _ _ (same _))
  | lnkFwdWrite => exact .onUnit (writeFwd_keeps _ _ _ (same _))
  | quiesceSet => exact .onUnit (doQuiesceSet_keeps _ _ (same _))
  | quiesceClear => exact .onUnit (doQuiesceClear_keeps _ _ (same _))
  | datelineWrite => exact .onUnit (doDatelineWrite_keeps _ _ _ (same _))
  | raccRead => exact .next (doRaccRead_keeps _ _ (same _))
  | raccWrite => exact .next (doRaccWrite_keeps _ _ (same _))
  | raccTimeout => exact .next (doRaccTimeout_keeps _ (same _))
  | linkTrained => exact .onUnit (doLinkTrained_keeps _ _ _ _ _ _ (same _))
  | linkTrainRetry => exact .onUnit (doLinkTrainRetry_keeps _ _ _ (same _))
  | laneDrop => exact .onUnit (doLaneDrop_keeps _ _ _ _ _ (same _))
  | laneAdd => exact .onUnit (doLaneAdd_keeps _ _ _ (same _))
  | laserFail => exact .onUnit (doLaserFail_keeps _ _ _ (same _))
  | spareLaserInService => exact .onUnit (doSpareLaserInService_keeps _ _ _ (same _))
  | laserAged => exact .onUnit (doLaserAged_keeps _ _ _ (same _))
  | cartridgeLeverOpen => exact .onUnit (doCartridgeLeverOpen_keeps _ _ (same _))
  | oviWriteFlit => exact .onUnit (doOviWriteFlit_keeps _ _ _ _ (same _))
  | oviReadFlit => exact .onUnit (doOviReadFlit_keeps _ _ _ _ _ (same _))
  | oviReadDataFlit => exact .onUnit (doOviReadDataFlit_keeps _ _ _ (same _))
  | oviAckFlit => exact .onUnit (doOviAckFlit_keeps _ _ _ _ (same _))
  | oviStatusFlit => exact .onUnit (doOviStatusFlit_keeps _ _ _ (same _))
  | oviIdleFlit => exact .onUnit (doOviIdleFlit_keeps _ _ _ (same _))
  | oviFlitError => exact .onUnit (doOviFlitError_keeps _ _ _ (same _))
  | oviReplayLimit => exact .onUnit (doOviReplayLimit_keeps _ _ (same _))
  | peerRequestTimeout => exact .next (doPeerRequestTimeout_keeps _ _ _ _ (same _))
  | creditStall => exact .onUnit (doCreditStall_keeps _ _ _ (same _))
  | timingSymbolSend => exact .onUnit (doTimingSymbolSend_keeps _ _ (same _))
  | timingSymbol => exact .onUnit (doTimingSymbol_keeps _ _ _ _ _ _ _ (same _))
  | alignmentTimeout => exact .next (doAlignmentTimeout_keeps _ (same _))
  | sustainedDroop => exact .onUnit (doSustainedDroop_keeps _ _ (same _))
  | generatorLockLost => exact .onUnit (doGeneratorLockLost_keeps _ _ (same _))
  | fallbackSwitch => exact .onUnit (doFallbackSwitch_keeps _ _ (same _))
  | divisorStep => exact .onUnit (doDivisorStep_keeps _ _ (same _))
  | phaseFail => exact .onUnit (doPhaseFail_keeps _ _ _ (same _))
  | vsensorExclude => exact .onUnit (doVsensorExclude_keeps _ _ _ (same _))
  | shuntFire => exact .onUnit (doShuntFire_keeps _ _ (same _))
  | bondSample => exact .onUnit (doBondSample_keeps _ _ _ _ _ (same _))
  | bondSuspect => exact .onUnit (doBondSuspect_keeps _ _ (same _))
  | peakLimiterEngage => exact .onUnit (doPeakLimiterEngage_keeps _ _ _ (same _))
  | peakLimiterRelease => exact .next (doPeakLimiterRelease_keeps _ _ (same _))
  | shutterRampDone => exact .onUnit (doShutterRampDone_keeps _ _ (same _))
  | tempSample => exact .next (doTempSample_keeps _ _ (same _))
  | sensorSuspect => exact .onUnit (doSensorSuspect_keeps _ _ _ (same _))
  | sensorFail => exact .onUnit (doSensorFail_keeps _ _ _ _ (same _))
  | tempTrip => exact .onUnit (doTempTrip_keeps _ _ _ (same _))
  | holdRelease => exact .onUnit (doHoldRelease_keeps _ _ _ (same _))
  | modelUpdate => exact .next (doModelUpdate_keeps _ _ (same _))
  | avgSample => exact .next (doAvgSample_keeps _ _ _ _ _ _ (same _))
  | estimatorSecond => exact .next (doEstimatorSecond_keeps _ _ _ (same _))
  | coolingEstimate => exact .next (doCoolingEstimate_keeps _ (same _))
  | evtEnable => exact .next (doEvtEnable_keeps _ _ (same _))
  | evtDisable => exact .next (doEvtDisable_keeps _ _ (same _))
  | evtHeadWrite => exact .next (doEvtHeadWrite_keeps _ _ (same _))
  | evtCoalesceTimeout => exact .next (doEvtCoalesceTimeout_keeps _ (same _))
  | reportDone => exact .next (doReportDone_keeps _ (same _))
  | mctpControlMessage => exact .onUnit (doMctpControlMessage_keeps _ _ _ _ (same _))
  | getSensorReading => exact .onUnit (doGetSensorReading_keeps _ _ _ (same _))
  | setNumericEffecterValue => exact .onUnit (doSetNumericEffecterValue_keeps _ _ _ _ (same _))
  | setEventReceiver => exact .onUnit (doSetEventReceiver_keeps _ _ _ _ (same _))
  | i3cDynamicAddress => exact .next (doI3cDynamicAddress_keeps _ _ (same _))
  | dbgSelWrite => exact .next (writeDbgSel_keeps _ _ (same _))
  | dbgStatusClear => exact .next (writeDbgStatus_keeps _ _ (same _))
  | registerWrite => exact .next (doRegisterWrite_keeps _ _ _ _ (same _))
  | bringUpComplete => exact .next (doBringUpComplete_keeps _ _ _ (same _))
  | neighbourIdAnnounce => exact .onUnit (doNeighbourIdAnnounce_keeps _ _ _ (same _))
  | handoverComplete => exact .onUnit (doHandoverComplete_keeps _ _ (same _))
  | pcieLinkUp => exact .onUnit (doPcieLinkUp_keeps _ _ _ _ (same _))
  | inputWarnLeave => exact .next (doInputWarnLeave_keeps _ _ (same _))
  | dbgCsRead => exact .onUnit (doDbgCsRead_keeps _ _ _ (same _))

/-- Settles O6: each command's meaning keeps all but its footprint. -/
theorem everyCommandStaysInItsFootprint : Obligations.EveryCommandStaysInItsFootprint := by
  unfold Obligations.EveryCommandStaysInItsFootprint
  intro c s t answers
  exact exec_keeps c s t answers

/-! ## Steps -/

/-- Settles O1: the front of the queue is what a step takes. -/
theorem stepRunsTheFrontCommand : Obligations.StepRunsTheFrontCommand := by
  unfold Obligations.StepRunsTheFrontCommand
  intro c rest s
  rfl

theorem step_of_front {s : State} {c : Instr} {rest : List Instr} (queue : s.pending = c :: rest) :
    step s = exec c { s with pending := rest } := by
  rw [step, queue]

theorem step_of_empty {s : State} (queue : s.pending = []) : step s = .next (tick s) := by
  rw [step, queue]

/-- Settles O2: an empty queue leaves the tick of the time counter. -/
theorem emptyQueueTakesOneTc : Obligations.EmptyQueueTakesOneTc := by
  unfold Obligations.EmptyQueueTakesOneTc
  intro s queue
  rw [step_of_empty queue]
  refine ⟨fun runs => ?_, fun stands => ?_⟩
  · rw [tick, if_pos runs]
  · rw [tick, if_neg (by rw [stands]; decide)]

/-- Settles O3: the table of decodings is empty (log 8). -/
theorem noWordSpellsACommand : Obligations.NoWordSpellsACommand := by
  unfold Obligations.NoWordSpellsACommand
  intro nbits w s
  exact ⟨rfl, rfl⟩

/-- Settles O5: the reset state is written out, and each register reads off it. -/
theorem resetHasTheInvariant : Obligations.ResetHasTheInvariant := by
  unfold Obligations.ResetHasTheInvariant
  refine ⟨rfl, rfl, rfl, rfl, rfl, rfl, rfl, rfl, rfl, rfl, rfl, rfl, ?queuePairs, rfl, rfl, rfl, rfl, rfl, rfl, rfl,
    rfl, rfl, rfl⟩
  case queuePairs =>
    intro q
    rfl

/-- The time counter is no part of the invariant. -/
theorem tick_keeps_invariant (s : State) :
    (tick s).memoryOk = s.memoryOk ∧ (tick s).fuses = s.fuses ∧ (tick s).pending = s.pending := by
  unfold tick
  split
  · exact ⟨rfl, rfl, rfl⟩
  · exact ⟨rfl, rfl, rfl⟩

/-- Settles O4: the command at the front keeps the invariant by its footprint, and the tick of an empty queue by its
one field. -/
theorem stepKeepsTheInvariant : Obligations.StepKeepsTheInvariant := by
  unfold Obligations.StepKeepsTheInvariant
  intro s t answers
  cases queue : s.pending with
  | nil =>
    rw [step_of_empty queue] at answers
    cases answers
    obtain ⟨memory, fuses, pending⟩ := tick_keeps_invariant s
    exact ⟨fun ok => memory.trans ok, fuses, pending.trans queue⟩
  | cons c rest =>
    rw [step_of_front queue] at answers
    have kept := exec_keeps c _ t answers
    exact ⟨kept.memoryOk, kept.fuses, kept.pending⟩

/-- A step on a queue of well-formed commands answers a state whose queue is one too. -/
theorem step_keeps_queueOk {s : State} (ok : s.queueOk = true) : ∃ t, step s = .next t ∧ t.queueOk = true := by
  cases queue : s.pending with
  | nil =>
    refine ⟨_, step_of_empty queue, ?_⟩
    rw [State.queueOk, (tick_keeps_invariant s).2.2]
    exact ok
  | cons c rest =>
    have front : c.wf = true ∧ rest.all (fun c => c.wf) = true := by simpa [State.queueOk, queue] using ok
    obtain ⟨t, answers⟩ := (exec_stopsUnless_wf c { s with pending := rest }).1 front.1
    refine ⟨t, (step_of_front queue).trans answers, ?_⟩
    rw [State.queueOk, (exec_keeps c _ t answers).pending]
    exact front.2

/-- Settles O8, by induction on the number of steps. -/
theorem wellFormedQueuesRunSafely : Obligations.WellFormedQueuesRunSafely := by
  unfold Obligations.WellFormedQueuesRunSafely
  intro n
  induction n with
  | zero => exact fun _ _ => trivial
  | succ n ih =>
    intro s ok
    obtain ⟨t, answers, stillOk⟩ := step_keeps_queueOk ok
    exact ⟨t, answers, ih t stillOk⟩

end Sys2Proof.Proofs
end

section
/-! DEV.STATE follows Table 17.2: resets end in ROM, fatal conditions in HALTED, and the few other changes of state are
those of the table. -/
namespace Sys2Proof.Proofs
set_option Elab.async false
open Sys2Proof.Machine

/-! ## What the table lets follow -/

theorem mayFollow_self (a : DevState) : a.mayFollow a = true := by simp [DevState.mayFollow]

theorem mayFollow_rom (a : DevState) : a.mayFollow .rom = true := by simp [DevState.mayFollow]

theorem mayFollow_halted (a : DevState) : a.mayFollow .halted = true := by simp [DevState.mayFollow]

/-- DEV.STATE of the second state is that of the first, or one the table lets follow it. -/
def Follows (s t : State) : Prop := s.kpr.state.mayFollow t.kpr.state = true

section Follows
variable {s t : State}

theorem Follows.refl (s : State) : Follows s s := mayFollow_self _

theorem Follows.of_state_eq (kept : t.kpr.state = s.kpr.state) : Follows s t := by
  rw [Follows, kept]
  exact mayFollow_self _

theorem Follows.of_rom (rom : t.kpr.state = .rom) : Follows s t := by
  rw [Follows, rom]
  exact mayFollow_rom _

theorem Follows.of_halted (halted : t.kpr.state = .halted) : Follows s t := by
  rw [Follows, halted]
  exact mayFollow_halted _

/-- One line of the table. -/
theorem Follows.of_states {a b : DevState} (before : s.kpr.state = a) (after : t.kpr.state = b)
    (line : a.mayFollow b = true) : Follows s t := by
  rw [Follows, before, after]
  exact line

theorem Follows.ite {p : Prop} [Decidable p] {t' : State} (h : p → Follows s t) (h' : ¬p → Follows s t') :
    Follows s (if p then t else t') := by
  split
  · exact h ‹_›
  · exact h' ‹_›

end Follows

/-! ## What leaves DEV.STATE alone -/

/-- Every part but DEV.STATE. -/
def partsBesideState : List Part := .protection :: wholeDevice.filter (fun p => decide (p ≠ .state))

/-- What keeps DEV.STATE, whatever else it does. -/
abbrev KeepsState (s t : State) : Prop := Keeps (Untouched.allBut partsBesideState) s t

theorem KeepsState.eq {s t : State} (h : KeepsState s t) : t.kpr.state = s.kpr.state := h.state rfl

/-! ## Resets and fatal conditions -/

theorem wholeReset_state (cause halt : Nat) (perst : Bool) (s : State) :
    (wholeReset cause halt perst s).kpr.state = .rom := rfl

theorem fatalTell_state (tell : Bool) (cause : Nat) (s : State) : (fatalTell tell cause s).kpr.state = .halted := by
  by_cases halted : s.kpr.state = .halted
  · rw [fatalTell, if_pos halted, halted]
  · rw [fatalTell_kpr tell cause s halted]

theorem fatal_state (cause : Nat) (s : State) : (fatal cause s).kpr.state = .halted := fatalTell_state true cause s

theorem Follows.fatal {s : State} (cause : Nat) (t : State) : Follows s (Machine.fatal cause t) := .of_halted (fatal_state _ _)

/-- DEV.STATE stays, or it is HALTED. -/
def SameOrHalted (s t : State) : Prop := t.kpr.state = s.kpr.state ∨ t.kpr.state = .halted

theorem SameOrHalted.trans {a b c : State} (h : SameOrHalted a b) (k : SameOrHalted b c) : SameOrHalted a c := by
  obtain same | halted := k
  · rw [SameOrHalted, same]
    exact h
  · exact .inr halted

theorem SameOrHalted.follows {s t : State} (h : SameOrHalted s t) : Follows s t := by
  obtain same | halted := h
  · exact .of_state_eq same
  · exact .of_halted halted

theorem SameOrHalted.foldl {α : Type _} {f : State → α → State} (each : ∀ t a, SameOrHalted t (f t a)) (l : List α) (s : State) :
    SameOrHalted s (l.foldl f s) := by
  induction l generalizing s with
  | nil => exact .inl rfl
  | cons a l ih => exact (each s a).trans (ih _)

/-- R14: a lane block that cannot be read is the one thing a page walker halts for. -/
theorem openWalker_sameOrHalted (r : Nat) (s : State) : SameOrHalted s (openWalker r s) := by
  have free : false = false := rfl
  unfold openWalker
  dsimp only
  split
  case h_1 => exact .inl rfl
  case h_2 p _ =>
    split
    case h_1 _ t read =>
      have kept : KeepsState s t := Keeps.snd read (readBytes_keeps _ _ _ _ _ (setWalker_keeps _ _ _ (Keeps.refl s)))
      exact .inl kept.eq
    case h_2 => exact .inr (fatal_state _ _)

theorem openPools_sameOrHalted (i : Image) (s : State) : SameOrHalted s (openPools i s) := by
  unfold openPools
  exact SameOrHalted.foldl (fun t p => openWalker_sameOrHalted _ t) _ s

/-! ## The image (chapter 11) -/

theorem leaveRunning_state (s : State) : (leaveRunning s).kpr.state = s.kpr.state := by
  have free : false = false := rfl
  exact KeepsState.eq (leaveRunning_keeps s (Keeps.refl s))

theorem enterSuspended_state (s : State) : (enterSuspended s).kpr.state = .suspended := by
  simp only [enterSuspended, leaveRunning_state, raiseFull_kpr]

theorem requestSuspend_follows {s : State} (running : s.kpr.state = .running) : Follows s (requestSuspend s) :=
  .ite (fun _ => .refl s) fun _ => .of_states running (enterSuspended_state s) rfl

theorem unloadNow_follows (s : State) : Follows s (unloadNow s) := by
  have free : false = false := rfl
  have kept : KeepsState s (withoutImage (showImage none (forgetImage s))) :=
    withoutImage_keeps _ (showImage_keeps _ _ (forgetImage_keeps _ (Keeps.refl s)))
  have toReady : ∀ t, KeepsState t (toBringUpPoint t) := fun t => toBringUpPoint_keeps _ (Keeps.refl t)
  unfold unloadNow readyIfSuspended
  split
  case isTrue suspended =>
    refine .of_states (kept.eq.symm.trans suspended) (b := .ready) ?_ rfl
    rw [(toReady _).eq, setState_state]
  case isFalse => exact .of_state_eq kept.eq

theorem startCheck_follows {s : State} (idle : s.inStates [.ready, .suspended] = true) : Follows s (startCheck s) := by
  have after : (startCheck s).kpr.state = .checking := setState_state _ _
  have before : s.kpr.state = .ready ∨ s.kpr.state = .suspended := by
    simp only [State.inStates, List.any_cons, List.any_nil, Bool.or_false, Bool.or_eq_true, beq_iff_eq] at idle
    exact idle.imp Eq.symm Eq.symm
  obtain ready | suspended := before
  · exact .of_states ready after rfl
  · exact .of_states suspended after rfl

/-- A register write that is refused leaves DEV.STATE alone, and so does one before the keeper runs. -/
theorem regWrite_follows {off v rw ro : Nat} {body : State → State} {s : State} (h : Follows s (body s)) :
    Follows s (regWrite off v rw ro body s) :=
  .ite (fun _ => .refl s) fun _ => .ite (fun _ => .of_state_eq (by rw [refuse_kpr])) fun _ => h

theorem refuse_follows (off v reason : Nat) (s : State) : Follows s (refuse off v reason s) :=
  .of_state_eq (by rw [refuse_kpr])

theorem refuseCtrl_follows (v reason : Nat) (s : State) : Follows s (refuseCtrl v reason s) := refuse_follows _ _ _ _

/-- Table 11.7: the four commands of DEV.CTRL. -/
theorem writeDevCtrl_follows (v : Nat) (s : State) : Follows s (writeDevCtrl v s) := by
  refine regWrite_follows ?_
  refine .ite (fun _ => refuseCtrl_follows _ _ _) fun _ => .ite (fun _ => .refl s) fun _ => ?_
  refine .ite (fun _ => .ite requestSuspend_follows fun _ => refuseCtrl_follows _ _ _) fun _ => ?_
  refine .ite (fun _ => refuseCtrl_follows _ _ _) fun idle => ?_
  refine .ite (fun _ => .refl s) fun _ => .ite (fun _ => refuseCtrl_follows _ _ _) fun _ => ?_
  refine .ite (fun _ => unloadNow_follows s) fun _ => startCheck_follows ?_
  simp only [Bool.not_eq_true', Bool.not_eq_false, Bool.and_eq_true] at idle
  exact idle.1

theorem refuseCheck_follows {s : State} (c : CheckRun) (sect code detail : Nat) (checking : s.kpr.state = .checking) :
    Follows s (refuseCheck c sect code detail s) := by
  have after : (refuseCheck c sect code detail s).kpr.state = if c.fromSuspended then .suspended else .ready := by
    simp [refuseCheck]
  refine .of_states checking after ?_
  split <;> rfl

theorem applyImage_state (i : Image) (resume : Bool) (f : Forecast) (s : State) :
    (applyImage i resume f s).kpr.state = .running := by
  rw [applyImage, setState_state]

theorem doCheckComplete_follows (hops fibre : Nat) (f : Forecast) (s : State) : Follows s (doCheckComplete hops fibre f s) := by
  unfold doCheckComplete
  split
  case h_1 c i _ _ =>
    refine .ite (fun _ => .refl s) fun checked => ?_
    have checking : s.kpr.state = .checking := by simp at checked; exact checked.2
    refine .ite (fun _ => refuseCheck_follows _ _ _ _ checking) fun _ => ?_
    dsimp only
    split
    · exact refuseCheck_follows _ _ _ _ checking
    · exact .of_states checking (applyImage_state _ _ _ _) rfl
  case h_2 => exact .refl s

/-! ## The frame cycle (chapter 2) -/

theorem enterFrame_sameOrHalted (i : Image) (paths : SMap Nat) (s : State) : SameOrHalted s (enterFrame i paths s) := by
  have free : false = false := rfl
  have before : KeepsState s (enterRegions i paths (tellMissing s.nextLevel.2
      (beginFrame i s.nextLevel.1 s.nextLevel.2.isSome (rewriteForLevel i s.nextLevel.1 s)))) :=
    enterRegions_keeps _ _ _ (tellMissing_keeps _ _ (beginFrame_keeps _ _ _ _ (rewriteForLevel_keeps _ _ _ (Keeps.refl s))))
  have after : ∀ t, KeepsState t (dropIfDue (admissionPass (damagePass t))) := fun t =>
    dropIfDue_keeps _ (admissionPass_keeps _ (damagePass_keeps _ (Keeps.refl t)))
  exact (SameOrHalted.trans (.inl before.eq) (openPools_sameOrHalted i _)).trans (.inl (after _).eq)

theorem doFrameEntry_follows (paths : SMap Nat) (s : State) : Follows s (doFrameEntry paths s) := by
  unfold doFrameEntry
  split
  case h_1 => exact .refl s
  case h_2 i _ =>
    refine .ite (fun due => ?_) fun _ => .refl s
    have running : s.kpr.state = .running := by simp at due; exact due.1.1.2
    exact .ite (fun _ => .of_states running (enterSuspended_state s) rfl) fun _ => (enterFrame_sameOrHalted i paths s).follows

theorem doShutterRampDone_follows (r : Nat) (s : State) : Follows s (doShutterRampDone r s) := by
  have free : false = false := rfl
  refine SameOrHalted.follows ?_
  unfold doShutterRampDone
  extract_lets g closed opened
  split
  case isFalse => exact .inl rfl
  case isTrue =>
    have kept : KeepsState s opened := by
      have shut : KeepsState s closed := setGroup_keeps _ _ _ (Keeps.refl s)
      unfold opened
      split
      · exact setClk_keeps _ _ _ (moveSetpoint_keeps _ _ _ shut)
      · exact startClocks_keeps _ _ _ shut
    clear_value opened
    refine SameOrHalted.trans (.inl kept.eq) ?_
    split
    case h_1 => exact .inl rfl
    case h_2 i _ =>
      split
      case isFalse => exact .inl rfl
      case isTrue =>
        extract_lets running
        have restarted : KeepsState opened running :=
          Keeps.foldl _ (Keeps.refl _) fun x n hx => Keeps.foldl _ hx fun y k hy => restartContext_keeps _ _ _ _ _ hy
        clear_value running
        split
        · exact SameOrHalted.trans (.inl restarted.eq) (openWalker_sameOrHalted r _)
        · exact .inl restarted.eq

theorem suspendIfDue_state (i : Image) (s : State) :
    (suspendIfDue i s).kpr.state = s.kpr.state ∨ (suspendIfDue i s).kpr.state = .suspended := by
  have free : false = false := rfl
  unfold suspendIfDue
  extract_lets rebound due left
  change left.kpr.state = _ ∨ left.kpr.state = _
  unfold left
  split
  · exact .inr (enterSuspended_state _)
  · exact .inl rfl

theorem doFrameEnd_follows (losses : List (Nat × Nat × Nat)) (drained flips : List (Nat × Nat)) (bad : List Nat) (s : State) :
    Follows s (doFrameEnd losses drained flips bad s) := by
  have free : false = false := rfl
  unfold doFrameEnd
  split
  case h_1 => exact .refl s
  case h_2 i _ =>
    refine .ite (fun due => ?_) fun _ => .refl s
    have running : s.kpr.state = .running := by simp at due; exact due.1.1.1.2
    unfold withBadPaths
    extract_lets _ ended
    have kept : ∀ u : State, KeepsState u (endOutcome (prepareReport (shiftCounters (passFrame (stopWork
        (endSlat u.frm.period losses (drainBefore drained (flipSymbols 0 flips u)))))))) := fun u =>
      endOutcome_keeps _ (prepareReport_keeps _ (shiftCounters_keeps _ (passFrame_keeps _ (stopWork_keeps _
        (endSlat_keeps _ _ _ (drainBefore_keeps _ _ (flipSymbols_keeps _ _ _ (Keeps.refl u))))))))
    have states : ended.kpr.state = s.kpr.state ∨ ended.kpr.state = .suspended := by
      unfold ended
      refine (suspendIfDue_state i _).imp_left fun same => same.trans ?_
      rw [(kept _).eq]
    exact states.elim (fun same => .of_state_eq same) fun suspended => .of_states running suspended rfl

/-! ## Bring-up (chapter 17) -/

theorem stepClocks_sameOrHalted (r : FetchResult) (s : State) : SameOrHalted s (stepClocks r s) := by
  have free : false = false := rfl
  unfold stepClocks
  split
  · exact .inr (fatal_state _ _)
  · exact .inl (KeepsState.eq (Keeps.foldl _ (writeStepFour_keeps _ _ (startTime_keeps _ (Keeps.refl s)))
      fun x k hx => startClocks_keeps _ _ _ hx))

theorem stagingGoesOn_state (r : FetchResult) (s : State) : (stagingGoesOn r s).kpr.state = s.kpr.state := by
  have free : false = false := rfl
  exact KeepsState.eq (stagingGoesOn_keeps _ _ (Keeps.refl s))

/-- R362: a verified file leads from ROM to STAGING, or to HALTED where a PLL does not lock. -/
theorem enterStaging_state (r : FetchResult) (s : State) :
    (enterStaging r s).kpr.state = .staging ∨ (enterStaging r s).kpr.state = .halted := by
  have free : false = false := rfl
  have licensed : ∀ t, KeepsState t (stepLicences r (fuseFences t)) := fun t =>
    stepLicences_keeps _ _ (fuseFences_keeps _ (Keeps.refl t))
  rw [enterStaging, stagingGoesOn_state]
  refine (stepClocks_sameOrHalted r _).imp_left fun same => same.trans ?_
  rw [(licensed _).eq, setState_state]

theorem doFirmwareVerified_follows (r : FetchResult) (s : State) : Follows s (doFirmwareVerified r s) := by
  unfold doFirmwareVerified
  refine .ite (fun _ => .refl s) fun due => ?_
  have rom : s.kpr.state = .rom := by simp at due; exact due.1.1.2
  refine .ite (fun _ => ?_) fun _ => .of_state_eq rfl
  obtain staging | halted := enterStaging_state r { s with kpr := { s.kpr with
    fwResult := firmwareResult r s, fetched := (r.file.length + r.bundle.length) % 2 ^ 32 } }
  · exact .of_states rom staging rfl
  · exact .of_halted halted

theorem stepNine_state (s : State) : (stepNine s).kpr.state = s.kpr.state := rfl

theorem doBringUpComplete_follows (cores : List Nat) (panes : List (Nat × Nat)) (s : State) :
    Follows s (doBringUpComplete cores panes s) := by
  refine .ite (fun due => ?_) fun _ => .refl s
  have staging : s.kpr.state = .staging := by simp at due; exact due.1.2
  have ready : ∀ t, (stepNine (setState .ready t)).kpr.state = .ready := fun t => by
    rw [stepNine_state, setState_state]
  exact .of_states staging (ready _) rfl

/-! ## Power and fatal conditions -/

theorem losePower_follows (s t : State) : Follows s (losePower t) := .of_rom rfl

theorem doStage1ConverterFail_follows (j : Nat) (s : State) : Follows s (doStage1ConverterFail j s) := by
  refine .ite (fun _ => .ite (fun _ => losePower_follows _ _) fun _ => ?_) fun _ => .refl s
  exact .of_state_eq (by rw [raise_kpr])

theorem doRailOutOfRegulation_follows (k : Nat) (s : State) : Follows s (doRailOutOfRegulation k s) :=
  .ite (fun _ => .ite (fun _ => .fatal _ _) fun _ => .of_state_eq rfl) fun _ => .refl s

theorem doRefclkLost_follows (what : Nat) (host : Bool) (s : State) : Follows s (doRefclkLost what host s) :=
  .ite (fun _ => .of_halted (fatalTell_state _ _ _)) fun _ => .refl s

/-! ## Register writes (chapter 20) -/

theorem writeReg_follows (off v : Nat) (s : State) : Follows s (writeReg off v s) := by
  have free : false = false := rfl
  have same : KeepsState s s := Keeps.refl s
  unfold writeReg
  split
  case h_1 => exact writeDevCtrl_follows v s
  all_goals refine .of_state_eq (KeepsState.eq ?_)
  case h_2 => exact writeImageBase_keeps _ _ same
  case h_3 => exact writeImageLen_keeps _ _ same
  case h_4 => exact writeRingBase_keeps _ _ same
  case h_5 => exact writeEvtCtrl_keeps _ _ same
  case h_6 => exact writeEvtHead_keeps _ _ same
  case h_7 => exact writeReportBase_keeps _ _ same
  case h_8 => exact writeReportCtrl_keeps _ _ same
  case h_9 => exact writeAmaxSel_keeps _ _ same
  case h_10 => exact writeKprCmd_keeps _ _ same
  case h_11 => exact writeFwAddr_keeps _ _ same
  case h_12 => exact writeFwLen_keeps _ _ same
  case h_13 => exact writeLicAddr_keeps _ _ same
  case h_14 => exact writeLicLen_keeps _ _ same
  case h_15 => exact writeStart_keeps _ _ same
  case h_16 => exact writeLatch_keeps _ _ same
  case h_17 => exact writeNext_keeps _ _ same
  case h_18 => exact writeBar2Base_keeps _ _ same
  case h_19 => exact writeLnkDevice_keeps _ _ same
  case h_20 => exact writeRaccCmd_keeps _ _ same
  case h_21 => exact writeRaccAddr_keeps _ _ same
  case h_22 => exact writeClkLimit_keeps _ _ same
  case h_23 => exact writeClkNext_keeps _ _ same
  case h_24 => exact writeCap_keeps _ _ _ same
  case h_25 => exact writeCap_keeps _ _ _ same
  case h_26 => exact writeCoolBase_keeps _ _ same
  case h_27 => exact writePrtCmd_keeps _ _ same
  case h_28 => exact writePkgAddr_keeps _ _ same
  case h_29 => exact writePkgLen_keeps _ _ same
  case h_30 => exact writeScrub_keeps _ _ same
  case h_31 => exact writeCeThresh_keeps _ _ same
  case h_32 => exact writeBnkSel_keeps _ _ same
  case h_33 => exact writeHcmd0_keeps _ _ same
  case h_34 => exact writeHcmd1_keeps _ _ same
  case h_35 => exact writeDbgStatus_keeps _ _ same
  case h_36 => exact writeDbgSel_keeps _ _ same
  case h_37 => exact writeArrays_keeps _ _ _ same

theorem doRegisterWrite_follows (off width v : Nat) (s : State) : Follows s (doRegisterWrite off width v s) := by
  have free : false = false := rfl
  have aer : Follows s (writeAer (off - 0x1000000) v s) := .of_state_eq (KeepsState.eq (writeAer_keeps _ _ _ (Keeps.refl s)))
  refine .ite (fun _ => .ite (fun _ => aer) fun _ => .refl s) fun _ => .ite (fun _ => .refl s) fun _ => ?_
  refine .ite (fun _ => refuse_follows _ _ _ _) fun _ => .ite (fun _ => writeReg_follows _ _ _) fun _ => ?_
  exact writeReg_follows _ _ _

/-! ## Every command -/

/-- Where an outcome is a next state, its DEV.STATE follows. -/
def NextFollows (s : State) (o : Host.Outcome State Fault Refusal) : Prop := ∀ t, o = .next t → Follows s t

theorem NextFollows.next {s t : State} (h : Follows s t) : NextFollows s (.next t) := by
  rintro _ ⟨⟩
  exact h

theorem NextFollows.onUnit {unitExists : Prop} [Decidable unitExists] {s t : State} (h : Follows s t) :
    NextFollows s (Machine.onUnit unitExists t) := by
  intro t' answers
  unfold Machine.onUnit at answers
  split at answers
  · exact NextFollows.next h t' answers
  · contradiction

/-- The commands whose footprint holds DEV.STATE, each by what it does to it. -/
theorem exec_follows_of_changing (c : Instr) (s : State) (changing : (footprint c).contains .state = true) :
    NextFollows s (exec c s) := by
  have halting : ∀ {p : Prop} [Decidable p] (cause : Nat), Follows s (if p then fatal cause s else s) :=
    fun _ => .ite (fun _ => .fatal _ _) fun _ => .refl s
  have resetting : ∀ {p : Prop} [Decidable p] (cause halt : Nat) (perst : Bool),
      Follows s (if p then wholeReset cause halt perst s else s) :=
    fun _ _ _ => .ite (fun _ => .of_rom rfl) fun _ => .refl s
  cases c with
  | powerOn => exact .next (.ite (fun _ => .refl s) fun _ => .of_rom rfl)
  | lossOfPower => exact .next (losePower_follows _ _)
  | vpmShutdown => exact .next (.ite (fun _ => losePower_follows _ _) fun _ => .refl s)
  | stage1ConverterFail => exact .onUnit (doStage1ConverterFail_follows _ s)
  | railOutOfRegulation => exact .onUnit (doRailOutOfRegulation_follows _ s)
  | perstNAssert => exact .next (resetting _ _ _)
  | hotReset => exact .next (resetting _ _ _)
  | fatalCondition => exact .onUnit (halting _)
  | haltHoldEnd => exact .next (resetting _ _ _)
  | keeperWatchdogExpiry => exact .next (halting _)
  | sillResetRequest => exact .onUnit (halting _)
  | refclkLost => exact .onUnit (doRefclkLost_follows _ _ s)
  | firmwareVerified => exact .next (doFirmwareVerified_follows _ s)
  | hingeFifoSettleTimeout => exact .next (halting _)
  | loadImage => exact .next (writeDevCtrl_follows _ s)
  | unloadImage => exact .next (writeDevCtrl_follows _ s)
  | enableImage => exact .next (writeDevCtrl_follows _ s)
  | checkComplete => exact .next (doCheckComplete_follows _ _ _ s)
  | suspendImage => exact .next (writeDevCtrl_follows _ s)
  | frameEntry => exact .next (doFrameEntry_follows _ s)
  | frameEnd => exact .next (doFrameEnd_follows _ _ _ _ s)
  | linkReplayLimit => exact .onUnit (halting _)
  | shutterRampDone => exact .onUnit (doShutterRampDone_follows _ s)
  | tempTrip => exact .onUnit (halting _)
  | registerWrite => exact .next (doRegisterWrite_follows _ _ _ s)
  | bringUpComplete => exact .next (doBringUpComplete_follows _ _ s)
  | _ => exact absurd changing Bool.false_ne_true

/-- Settles O45: outside the commands above the footprint holds DEV.STATE still. -/
theorem statesFollowTheTable : Obligations.StatesFollowTheTable := by
  unfold Obligations.StatesFollowTheTable
  intro c s t answers
  by_cases changing : (footprint c).contains .state = true
  · exact exec_follows_of_changing c s changing t answers
  · have promised : (Untouched.allBut (footprint c)).state = true := by
      simpa [Untouched.allBut] using changing
    exact Follows.of_state_eq ((exec_keeps c s t answers).state promised)

end Sys2Proof.Proofs
end

section
/-! The code word of chapter 6 (R132, R133). A byte is a vector of bits, multiplication by α is a linear map of it, and the
syndromes are sums of powers of that map. -/
namespace Sys2Proof.Proofs
set_option Elab.async false
open Sys2Proof.Machine

/-! ## Multiplication by α -/

/-- `gfDouble` on a byte: multiplication by α. -/
def timesAlpha (a : BitVec 8) : BitVec 8 := (a <<< 1) ^^^ (if a.msb then 0x1D#8 else 0#8)

theorem gfDouble_toNat (a : BitVec 8) : gfDouble a.toNat = (timesAlpha a).toNat := by
  have shifted : (a <<< 1).toNat = 2 * a.toNat % 256 := by simp [Nat.shiftLeft_eq, Nat.mul_comm]
  by_cases small : a.toNat < 128
  · have low : a.msb = false := BitVec.msb_eq_false_iff_two_mul_lt.mpr (by omega)
    rw [gfDouble, if_pos small, timesAlpha, low, BitVec.toNat_xor, shifted]
    simp only [Bool.false_eq_true, if_false, BitVec.toNat_ofNat, Nat.zero_mod, Nat.xor_zero]
    omega
  · have high : a.msb = true := BitVec.msb_eq_true_iff_two_mul_ge.mpr (by omega)
    rw [gfDouble, if_neg small, timesAlpha, high, BitVec.toNat_xor, shifted]
    rfl

theorem timesAlpha_xor (a b : BitVec 8) : timesAlpha (a ^^^ b) = timesAlpha a ^^^ timesAlpha b := by
  have shift : (a ^^^ b) <<< 1 = (a <<< 1) ^^^ (b <<< 1) := BitVec.shiftLeft_xor_distrib ..
  simp only [timesAlpha, shift, BitVec.msb_xor]
  cases a.msb <;> cases b.msb <;> ext <;> simp <;> grind

theorem timesAlpha_zero : timesAlpha 0#8 = 0#8 := by decide

/-- α^p as a map of bytes. -/
def alphaPow : Nat → BitVec 8 → BitVec 8
  | 0, a => a
  | p + 1, a => timesAlpha (alphaPow p a)

theorem alphaPow_zero (p : Nat) : alphaPow p 0#8 = 0#8 := by
  induction p with
  | zero => rfl
  | succ p ih => rw [alphaPow, ih, timesAlpha_zero]

theorem alphaPow_xor (p : Nat) (a b : BitVec 8) : alphaPow p (a ^^^ b) = alphaPow p a ^^^ alphaPow p b := by
  induction p with
  | zero => rfl
  | succ p ih => rw [alphaPow, ih, timesAlpha_xor, alphaPow, alphaPow]

theorem alphaPow_add (p q : Nat) (a : BitVec 8) : alphaPow (p + q) a = alphaPow p (alphaPow q a) := by
  induction p with
  | zero => rw [Nat.zero_add, alphaPow]
  | succ p ih => rw [Nat.succ_add, alphaPow, ih, alphaPow]

theorem alphaPow_comm (p q : Nat) (a : BitVec 8) : alphaPow p (alphaPow q a) = alphaPow q (alphaPow p a) := by
  rw [← alphaPow_add, ← alphaPow_add, Nat.add_comm]

/-! ## The product -/

/-- `gfMulFrom` on a byte: the sum of α^k times the byte over the bits k of the second factor. -/
def alphaSum : Nat → Nat → BitVec 8 → BitVec 8
  | 0, _, _ => 0#8
  | n + 1, b, a => (if b % 2 = 1 then a else 0#8) ^^^ alphaSum n (b / 2) (timesAlpha a)

theorem gfMulFrom_toNat (n b : Nat) (a : BitVec 8) : gfMulFrom n a.toNat b = (alphaSum n b a).toNat := by
  induction n generalizing b a with
  | zero => rfl
  | succ n ih =>
    rw [gfMulFrom, gfDouble_toNat, ih, alphaSum, BitVec.toNat_xor]
    split <;> rfl

theorem gfMul_toNat (b : Nat) (a : BitVec 8) : gfMul a.toNat b = (alphaSum 8 b a).toNat := gfMulFrom_toNat 8 b a

/-- A power of α passes through such a sum. -/
theorem alphaPow_alphaSum (p n b : Nat) (a : BitVec 8) : alphaPow p (alphaSum n b a) = alphaSum n b (alphaPow p a) := by
  induction n generalizing b a with
  | zero => exact alphaPow_zero p
  | succ n ih =>
    have turned : alphaPow p (timesAlpha a) = timesAlpha (alphaPow p a) := alphaPow_comm p 1 a
    rw [alphaSum, alphaSum, alphaPow_xor, ih, turned, apply_ite (alphaPow p), alphaPow_zero]

theorem alphaSum_xor (n b : Nat) (x y : BitVec 8) : alphaSum n b (x ^^^ y) = alphaSum n b x ^^^ alphaSum n b y := by
  induction n generalizing b x y with
  | zero => exact BitVec.xor_self.symm
  | succ n ih =>
    simp only [alphaSum, timesAlpha_xor, ih]
    split <;> grind

theorem alphaSum_zero (n b : Nat) : alphaSum n b 0#8 = 0#8 := by
  have twice := alphaSum_xor n b 0#8 0#8
  rwa [BitVec.xor_self, BitVec.xor_self] at twice

theorem alphaSum_comm (n b m c : Nat) (a : BitVec 8) : alphaSum n b (alphaSum m c a) = alphaSum m c (alphaSum n b a) := by
  induction m generalizing c a with
  | zero => exact alphaSum_zero n b
  | succ m ih =>
    have turned : alphaSum n b (timesAlpha a) = timesAlpha (alphaSum n b a) := (alphaPow_alphaSum 1 n b a).symm
    rw [alphaSum, alphaSum, alphaSum_xor, ih, turned, apply_ite (alphaSum n b), alphaSum_zero]

set_option maxRecDepth 4000 in
/-- A byte is the sum of the powers of α at its bits. -/
theorem alphaSum_one_of_lt : ∀ b < 256, alphaSum 8 b 1 = BitVec.ofNat 8 b := by decide

theorem alphaSum_one (a : BitVec 8) : alphaSum 8 a.toNat 1 = a := by
  rw [alphaSum_one_of_lt _ a.isLt, BitVec.ofNat_toNat, BitVec.setWidth_eq]

theorem gfPow_toNat (p : Nat) : gfPow p = (alphaPow p 1).toNat := by
  induction p with
  | zero => rfl
  | succ p ih =>
    rw [gfPow, ih, gfDouble_toNat]
    rfl

/-- Multiplication by α^p: both maps are sums of powers of α, and they agree at 1. -/
theorem gfMul_gfPow (p : Nat) (a : BitVec 8) : gfMul a.toNat (gfPow p) = (alphaPow p a).toNat := by
  have same : alphaSum 8 (gfPow p) a = alphaPow p a :=
    calc alphaSum 8 (gfPow p) a
        = alphaSum 8 (gfPow p) (alphaSum 8 a.toNat 1) := by rw [alphaSum_one]
      _ = alphaSum 8 a.toNat (alphaSum 8 (gfPow p) 1) := alphaSum_comm ..
      _ = alphaSum 8 a.toNat (alphaPow p 1) := by rw [gfPow_toNat, alphaSum_one]
      _ = alphaPow p (alphaSum 8 a.toNat 1) := (alphaPow_alphaSum ..).symm
      _ = alphaPow p a := by rw [alphaSum_one]
  rw [gfMul_toNat, same]

/-! ## The order of α -/

set_option maxRecDepth 4000 in
theorem alphaPow_255_one : alphaPow 255 1 = 1 := by decide

theorem alphaPow_255 (a : BitVec 8) : alphaPow 255 a = a := by
  rw [← alphaSum_one a, alphaPow_alphaSum, alphaPow_255_one]

set_option maxRecDepth 4000 in
theorem eq_zero_of_alphaPow_15 : ∀ a : BitVec 8, alphaPow 15 a = a → a = 0#8 := by decide

set_option maxRecDepth 4000 in
theorem eq_zero_of_alphaPow_17 : ∀ a : BitVec 8, alphaPow 17 a = a → a = 0#8 := by decide

/-- Powers of α count modulo 255. -/
theorem alphaPow_mod (n : Nat) (a : BitVec 8) : alphaPow (n % 255) a = alphaPow n a := by
  have rounds (k : Nat) : alphaPow (255 * k) a = a := by
    induction k with
    | zero => rfl
    | succ k ih => rw [Nat.mul_succ, alphaPow_add, alphaPow_255, ih]
  have split := alphaPow_add (n % 255) (255 * (n / 255)) a
  rw [Nat.mod_add_div, rounds] at split
  exact split.symm

theorem alphaPow_mul_fixed {q : Nat} {a : BitVec 8} (fixed : alphaPow q a = a) (k : Nat) : alphaPow (k * q) a = a := by
  induction k with
  | zero => rw [Nat.zero_mul, alphaPow]
  | succ k ih => rw [Nat.succ_mul, alphaPow_add, fixed, ih]

set_option maxRecDepth 4000 in
/-- A multiple of each number from 1 to 35 is 15 or 17 modulo 255. -/
theorem multiple_mod_255 : ∀ q < 36, 0 < q → ∃ k ∈ List.range 255, k * q % 255 = 15 ∨ k * q % 255 = 17 := by decide

/-- The order of α is 255, so no power from 1 to 35 fixes a byte but 0: some multiple of it is 15 or 17 modulo 255. -/
theorem eq_zero_of_alphaPow_fixed {q : Nat} (pos : 0 < q) (small : q < 36) {a : BitVec 8} (fixed : alphaPow q a = a) :
    a = 0#8 := by
  obtain ⟨k, -, at15 | at17⟩ := multiple_mod_255 q small pos
  · exact eq_zero_of_alphaPow_15 a (by rw [← at15, alphaPow_mod, alphaPow_mul_fixed fixed])
  · exact eq_zero_of_alphaPow_17 a (by rw [← at17, alphaPow_mod, alphaPow_mul_fixed fixed])

theorem timesAlpha_injective {a b : BitVec 8} (same : timesAlpha a = timesAlpha b) : a = b :=
  calc a = alphaPow 254 (timesAlpha a) := ((alphaPow_add 254 1 a).symm.trans (alphaPow_255 a)).symm
    _ = alphaPow 254 (timesAlpha b) := by rw [same]
    _ = b := (alphaPow_add 254 1 b).symm.trans (alphaPow_255 b)

theorem alphaPow_injective (p : Nat) {a b : BitVec 8} (same : alphaPow p a = alphaPow p b) : a = b := by
  induction p with
  | zero => exact same
  | succ p ih => exact ih (timesAlpha_injective same)

theorem eq_zero_of_alphaPow_eq_of_lt {p q : Nat} (hq : q < 36) (less : p < q) {a : BitVec 8}
    (same : alphaPow p a = alphaPow q a) : a = 0#8 := by
  have fixed : alphaPow (q - p) a = a := by
    apply alphaPow_injective p
    rw [← alphaPow_add, Nat.add_sub_cancel' (Nat.le_of_lt less), same]
  exact eq_zero_of_alphaPow_fixed (by omega) (by omega) fixed

/-- Two different powers below 36 agree at 0 alone. -/
theorem eq_zero_of_alphaPow_eq {p q : Nat} (hp : p < 36) (hq : q < 36) (ne : p ≠ q) {a : BitVec 8}
    (same : alphaPow p a = alphaPow q a) : a = 0#8 := by
  obtain less | less := Nat.lt_or_gt_of_ne ne
  · exact eq_zero_of_alphaPow_eq_of_lt hq less same
  · exact eq_zero_of_alphaPow_eq_of_lt hp less same.symm

/-! ## Syndromes -/

/-- Horner's rule at α^j, from an accumulator. -/
def hornerFrom (j : Nat) (acc : BitVec 8) (word : List Nat) : BitVec 8 :=
  word.foldl (fun a c => alphaPow j a ^^^ BitVec.ofNat 8 c) acc

/-- The syndrome S_j of a word. -/
def syndrome (j : Nat) (word : List Nat) : BitVec 8 := hornerFrom j 0#8 word

theorem rsEval_gfPow (j : Nat) (word : List Nat) : rsEval (gfPow j) word = (syndrome j word).toNat := by
  have fold : ∀ acc : BitVec 8, word.foldl (fun a c => Nat.xor (gfMul a (gfPow j)) (c % 256)) acc.toNat =
      (hornerFrom j acc word).toNat := by
    induction word with
    | nil => exact fun _ => rfl
    | cons c word ih =>
      intro acc
      have head : Nat.xor (gfMul acc.toNat (gfPow j)) (c % 256) = (alphaPow j acc ^^^ BitVec.ofNat 8 c).toNat := by
        rw [gfMul_gfPow, BitVec.toNat_xor, BitVec.toNat_ofNat]
        rfl
      rw [List.foldl_cons, head, ih, hornerFrom, hornerFrom, List.foldl_cons]
  exact fold 0#8

theorem hornerFrom_append (j : Nat) (acc : BitVec 8) (l m : List Nat) :
    hornerFrom j acc (l ++ m) = hornerFrom j (hornerFrom j acc l) m := List.foldl_append ..

/-- What the accumulator adds is moved up by the length of the word. -/
theorem hornerFrom_xor (j : Nat) (acc e : BitVec 8) (word : List Nat) :
    hornerFrom j (acc ^^^ e) word = hornerFrom j acc word ^^^ alphaPow (j * word.length) e := by
  induction word generalizing acc e with
  | nil => rfl
  | cons c word ih =>
    have regroup : alphaPow j acc ^^^ alphaPow j e ^^^ BitVec.ofNat 8 c =
        alphaPow j acc ^^^ BitVec.ofNat 8 c ^^^ alphaPow j e := by grind
    have moved : alphaPow (j * word.length) (alphaPow j e) = alphaPow (j * (c :: word).length) e := by
      rw [← alphaPow_add, List.length_cons, Nat.mul_succ]
    calc hornerFrom j (acc ^^^ e) (c :: word)
        = hornerFrom j (alphaPow j (acc ^^^ e) ^^^ BitVec.ofNat 8 c) word := rfl
      _ = hornerFrom j (alphaPow j acc ^^^ BitVec.ofNat 8 c ^^^ alphaPow j e) word := by rw [alphaPow_xor, regroup]
      _ = hornerFrom j acc (c :: word) ^^^ alphaPow (j * (c :: word).length) e := by rw [ih, moved]; rfl

/-! ## The check bytes -/

/-- A remainder of the division by g, with the coefficient of x³ first. -/
def remNat (r : BitVec 8 × BitVec 8 × BitVec 8 × BitVec 8) : Nat × Nat × Nat × Nat :=
  (r.1.toNat, r.2.1.toNat, r.2.2.1.toNat, r.2.2.2.toNat)

/-- `rsStep` on bytes. -/
def remStep (r : BitVec 8 × BitVec 8 × BitVec 8 × BitVec 8) (c : Nat) : BitVec 8 × BitVec 8 × BitVec 8 × BitVec 8 :=
  let f := r.1 ^^^ BitVec.ofNat 8 c
  (r.2.1 ^^^ alphaSum 8 0x0F f, r.2.2.1 ^^^ alphaSum 8 0x36 f, r.2.2.2 ^^^ alphaSum 8 0x78 f, alphaSum 8 0x40 f)

theorem rsStep_remNat (r : BitVec 8 × BitVec 8 × BitVec 8 × BitVec 8) (c : Nat) :
    rsStep (remNat r) (c % 256) = remNat (remStep r c) := by
  have f : Nat.xor r.1.toNat (c % 256) = (r.1 ^^^ BitVec.ofNat 8 c).toNat := by
    rw [BitVec.toNat_xor, BitVec.toNat_ofNat]
    rfl
  simp only [rsStep, remNat, f, gfMul_toNat]
  simp only [remStep, BitVec.toNat_xor]
  rfl

/-- The value of a remainder at α^j. -/
def remAt (j : Nat) (r : BitVec 8 × BitVec 8 × BitVec 8 × BitVec 8) : BitVec 8 :=
  alphaPow (j * 3) r.1 ^^^ alphaPow (j * 2) r.2.1 ^^^ alphaPow j r.2.2.1 ^^^ r.2.2.2

/-- R132: g has the roots 1, α, α² and α³. -/
theorem generator_root {j : Nat} (hj : j < 4) (f : BitVec 8) : alphaPow (j * 4) f =
    alphaPow (j * 3) (alphaSum 8 0x0F f) ^^^ alphaPow (j * 2) (alphaSum 8 0x36 f) ^^^ alphaPow j (alphaSum 8 0x78 f) ^^^
      alphaSum 8 0x40 f := by
  have one : ∀ j < 4, alphaPow (j * 4) 1 = alphaPow (j * 3) (alphaSum 8 0x0F 1) ^^^ alphaPow (j * 2) (alphaSum 8 0x36 1) ^^^
      alphaPow j (alphaSum 8 0x78 1) ^^^ alphaSum 8 0x40 1 := by decide
  have at_f := congrArg (alphaSum 8 f.toNat) (one j hj)
  simpa only [alphaSum_xor, ← alphaPow_alphaSum, alphaSum_comm 8 f.toNat, alphaSum_one] using at_f

/-- One more data byte: the remainder at α^j is the value of the data moved up by four places. -/
theorem remAt_remStep {j : Nat} (hj : j < 4) (r : BitVec 8 × BitVec 8 × BitVec 8 × BitVec 8) (c : Nat) :
    remAt j (remStep r c) = alphaPow j (remAt j r) ^^^ alphaPow (j * 4) (BitVec.ofNat 8 c) := by
  obtain ⟨r3, r2, r1, r0⟩ := r
  have root := generator_root hj (r3 ^^^ BitVec.ofNat 8 c)
  have up : ∀ k x, alphaPow j (alphaPow (j * k) x) = alphaPow (j * (k + 1)) x := fun k x => by
    rw [← alphaPow_add, Nat.mul_succ, Nat.add_comm]
  have up1 : alphaPow j (alphaPow j r1) = alphaPow (j * 2) r1 := by rw [← alphaPow_add, Nat.mul_two]
  simp only [alphaPow_xor] at root
  simp only [remAt, remStep, alphaPow_xor, up, up1]
  grind

theorem remAt_foldl {j : Nat} (hj : j < 4) (data : List Nat) (r : BitVec 8 × BitVec 8 × BitVec 8 × BitVec 8) (acc : BitVec 8)
    (start : remAt j r = alphaPow (j * 4) acc) :
    remAt j (data.foldl remStep r) = alphaPow (j * 4) (hornerFrom j acc data) := by
  induction data generalizing r acc with
  | nil => exact start
  | cons c data ih =>
    refine ih _ _ ?_
    rw [remAt_remStep hj, start, alphaPow_xor, alphaPow_comm]

/-- The remainder of a word's data. -/
def remOf (data : List Nat) : BitVec 8 × BitVec 8 × BitVec 8 × BitVec 8 := data.foldl remStep (0#8, 0#8, 0#8, 0#8)

theorem rsCheck_eq (data : List Nat) : rsCheck data =
    [(remOf data).1.toNat, (remOf data).2.1.toNat, (remOf data).2.2.1.toNat, (remOf data).2.2.2.toNat] := by
  have fold : ∀ r, data.foldl (fun r d => rsStep r (d % 256)) (remNat r) = remNat (data.foldl remStep r) := by
    induction data with
    | nil => exact fun _ => rfl
    | cons c data ih =>
      intro r
      rw [List.foldl_cons, List.foldl_cons, rsStep_remNat, ih]
  have all := fold (0#8, 0#8, 0#8, 0#8)
  change [_, _, _, _] = _
  rw [show ((0, 0, 0, 0) : Nat × Nat × Nat × Nat) = remNat (0#8, 0#8, 0#8, 0#8) from rfl, all]
  rfl

theorem length_rsCheck (data : List Nat) : (rsCheck data).length = 4 := rfl

/-- R132: every syndrome of a word with its check bytes is 0. -/
theorem syndrome_of_codeWord {j : Nat} (hj : j < 4) (data : List Nat) : syndrome j (data ++ rsCheck data) = 0#8 := by
  have remainder : remAt j (remOf data) = alphaPow (j * 4) (syndrome j data) :=
    remAt_foldl hj data _ 0#8 (by simp only [remAt, alphaPow_zero, BitVec.xor_self])
  have bytes : ∀ x : BitVec 8, BitVec.ofNat 8 x.toNat = x := fun x => by simp
  have up : ∀ k x, alphaPow j (alphaPow (j * k) x) = alphaPow (j * (k + 1)) x := fun k x => by
    rw [← alphaPow_add, Nat.mul_succ, Nat.add_comm]
  have up1 : ∀ x, alphaPow j (alphaPow j x) = alphaPow (j * 2) x := fun x => by rw [← alphaPow_add, Nat.mul_two]
  rw [syndrome, hornerFrom_append, rsCheck_eq]
  change hornerFrom j (syndrome j data) _ = 0#8
  simp only [hornerFrom, List.foldl_cons, List.foldl_nil, bytes, alphaPow_xor, up1, up]
  simp only [remAt] at remainder
  rw [← remainder]
  grind

/-! ## Changed symbols -/

theorem length_setNth {α : Type} (l : List α) (i : Nat) (v : α) : (setNth l i v).length = l.length := by
  induction l generalizing i with
  | nil => rfl
  | cons a l ih =>
    cases i with
    | zero => rfl
    | succ i => rw [setNth, List.length_cons, ih, List.length_cons]

theorem nth_setNth_same {α : Type} (d : α) {l : List α} {i : Nat} (v : α) (inside : i < l.length) :
    nth d (setNth l i v) i = v := by
  induction l generalizing i with
  | nil => contradiction
  | cons a l ih =>
    cases i with
    | zero => rfl
    | succ i =>
      rw [List.length_cons] at inside
      exact ih (by omega)

theorem nth_setNth_other {α : Type} (d : α) (l : List α) {i j : Nat} (v : α) (ne : j ≠ i) : nth d (setNth l i v) j = nth d l j := by
  induction l generalizing i j with
  | nil => rfl
  | cons a l ih =>
    cases i with
    | zero =>
      cases j with
      | zero => contradiction
      | succ j => rfl
    | succ i =>
      cases j with
      | zero => rfl
      | succ j => exact ih (by omega)

theorem setNth_setNth {α : Type} (l : List α) (i : Nat) (v w : α) : setNth (setNth l i v) i w = setNth l i w := by
  induction l generalizing i with
  | nil => rfl
  | cons a l ih =>
    cases i with
    | zero => rfl
    | succ i => rw [setNth, setNth, ih, setNth]

theorem setNth_nth {α : Type} (d : α) (l : List α) (i : Nat) : setNth l i (nth d l i) = l := by
  induction l generalizing i with
  | nil => rfl
  | cons a l ih =>
    cases i with
    | zero => rfl
    | succ i => exact congrArg (a :: ·) (ih i)

/-- A word with the bits `e` of symbol `i` changed. -/
def changed (word : List Nat) (i e : Nat) : List Nat := setNth word i (Nat.xor (nth 0 word i) e)

theorem length_changed (word : List Nat) (i e : Nat) : (changed word i e).length = word.length := length_setNth ..

theorem hornerFrom_changed (j : Nat) (acc : BitVec 8) {word : List Nat} {i : Nat} (e : Nat) (inside : i < word.length) :
    hornerFrom j acc (changed word i e) =
      hornerFrom j acc word ^^^ alphaPow (j * (word.length - 1 - i)) (BitVec.ofNat 8 e) := by
  induction word generalizing acc i with
  | nil => contradiction
  | cons c word ih =>
    rw [List.length_cons] at inside
    cases i with
    | zero =>
      have symbol : BitVec.ofNat 8 (Nat.xor c e) = BitVec.ofNat 8 c ^^^ BitVec.ofNat 8 e := BitVec.ofNat_xor ..
      change hornerFrom j (alphaPow j acc ^^^ BitVec.ofNat 8 (Nat.xor c e)) word = _
      rw [symbol, ← BitVec.xor_assoc, hornerFrom_xor]
      rfl
    | succ i =>
      have place : (c :: word).length - 1 - (i + 1) = word.length - 1 - i := by
        rw [List.length_cons]
        omega
      rw [place]
      exact ih _ (by omega)

/-- A change of symbol i of a word of 36 adds α^(j (35 − i)) times its bits to S_j. -/
theorem syndrome_changed (j : Nat) {word : List Nat} {i : Nat} (e : Nat) (length : word.length = 36) (inside : i < 36) :
    syndrome j (changed word i e) = syndrome j word ^^^ alphaPow (j * (35 - i)) (BitVec.ofNat 8 e) := by
  have moved := hornerFrom_changed j 0#8 e (word := word) (i := i) (by omega)
  rwa [length] at moved

/-! ## The decoder -/

theorem alphaPow_eq_toNat {p : Nat} {a b : BitVec 8} : b.toNat = gfMul a.toNat (gfPow p) ↔ b = alphaPow p a := by
  rw [gfMul_gfPow, BitVec.toNat_inj]

/-- The test of position p. -/
def located (s0 s1 s2 s3 : BitVec 8) (p : Nat) : Prop := s1 = alphaPow p s0 ∧ s2 = alphaPow p s1 ∧ s3 = alphaPow p s2

/-- The test of position p, as the decoder makes it. -/
theorem located_iff {s0 s1 s2 s3 : BitVec 8} {p : Nat} : (decide (s1.toNat = gfMul s0.toNat (gfPow p)) &&
    decide (s2.toNat = gfMul s1.toNat (gfPow p)) && decide (s3.toNat = gfMul s2.toNat (gfPow p))) = true ↔
    located s0 s1 s2 s3 p := by
  rw [Bool.and_eq_true, Bool.and_eq_true, decide_eq_true_eq, decide_eq_true_eq, decide_eq_true_eq, alphaPow_eq_toNat,
    alphaPow_eq_toNat, alphaPow_eq_toNat, located, and_assoc]

theorem rsLocate_some {s0 s1 s2 s3 : BitVec 8} {p : Nat} (nonzero : s0 ≠ 0#8) (small : p < 36) (here : located s0 s1 s2 s3 p)
    (alone : ∀ q < p, ¬ located s0 s1 s2 s3 q) : rsLocate s0.toNat s1.toNat s2.toNat s3.toNat = some p := by
  have nonzero' : s0.toNat ≠ 0 := fun zero => nonzero (BitVec.eq_of_toNat_eq zero)
  rw [rsLocate, if_neg nonzero', List.head?_filter, List.find?_range_eq_some]
  refine ⟨located_iff.2 here, List.mem_range.mpr small, fun q less => ?_⟩
  rw [Bool.not_eq_true', ← Bool.not_eq_true]
  exact fun there => alone q less (located_iff.1 there)

theorem rsLocate_none {s0 s1 s2 s3 : BitVec 8} (nowhere : ∀ p < 36, ¬ located s0 s1 s2 s3 p ∨ s0 = 0#8) :
    rsLocate s0.toNat s1.toNat s2.toNat s3.toNat = none := by
  unfold rsLocate
  split
  case isTrue => rfl
  case isFalse nonzero =>
    rw [List.head?_filter, List.find?_eq_none]
    intro p small there
    obtain other | zero := nowhere p (List.mem_range.mp small)
    · exact other (located_iff.1 there)
    · exact absurd (congrArg BitVec.toNat zero) nonzero

theorem rsEval_syndromes (word : List Nat) : rsEval 1 word = (syndrome 0 word).toNat ∧ rsEval 2 word = (syndrome 1 word).toNat ∧
    rsEval 4 word = (syndrome 2 word).toNat ∧ rsEval 8 word = (syndrome 3 word).toNat :=
  ⟨rsEval_gfPow 0 word, rsEval_gfPow 1 word, rsEval_gfPow 2 word, rsEval_gfPow 3 word⟩

theorem rsDecode_good {word : List Nat} (zero : ∀ j < 4, syndrome j word = 0#8) : rsDecode word = .good (word.take 32) := by
  obtain ⟨e0, e1, e2, e3⟩ := rsEval_syndromes word
  simp [rsDecode, e0, e1, e2, e3, zero]

/-- Where the locator names a position, that symbol is put right by S_0. -/
theorem rsDecode_corrected {word : List Nat} {p : Nat} (nonzero : syndrome 0 word ≠ 0#8)
    (here : rsLocate (syndrome 0 word).toNat (syndrome 1 word).toNat (syndrome 2 word).toNat (syndrome 3 word).toNat = some p) :
    rsDecode word = .corrected ((changed word (35 - p) (syndrome 0 word).toNat).take 32) (35 - p) := by
  obtain ⟨e0, e1, e2, e3⟩ := rsEval_syndromes word
  have wrong : ¬ (rsEval 1 word = 0 ∧ rsEval 2 word = 0 ∧ rsEval 4 word = 0 ∧ rsEval 8 word = 0) := fun all =>
    nonzero (BitVec.eq_of_toNat_eq (e0.symm.trans all.1))
  rw [e0, e1, e2, e3] at wrong
  simp only [rsDecode, e0, e1, e2, e3, if_neg wrong, here]
  rfl

theorem rsDecode_uncorrectable {word : List Nat} (nonzero : syndrome 0 word ≠ 0#8 ∨ syndrome 1 word ≠ 0#8)
    (nowhere : rsLocate (syndrome 0 word).toNat (syndrome 1 word).toNat (syndrome 2 word).toNat (syndrome 3 word).toNat = none) :
    rsDecode word = .uncorrectable (rsSyndromeField word) := by
  obtain ⟨e0, e1, e2, e3⟩ := rsEval_syndromes word
  have wrong : ¬ (rsEval 1 word = 0 ∧ rsEval 2 word = 0 ∧ rsEval 4 word = 0 ∧ rsEval 8 word = 0) := by
    rintro ⟨z0, z1, -, -⟩
    exact nonzero.elim (fun n => n (BitVec.eq_of_toNat_eq (e0.symm.trans z0))) fun n => n (BitVec.eq_of_toNat_eq (e1.symm.trans z1))
  rw [e0, e1, e2, e3] at wrong
  simp only [rsDecode, e0, e1, e2, e3, if_neg wrong, nowhere]

/-! ## No error, one error, two errors -/

section CodeWord
variable {data : List Nat} (length : data.length = 32)
include length

theorem length_codeWord : (data ++ rsCheck data).length = 36 := by
  rw [List.length_append, length, length_rsCheck]

/-- R132: a word with its check bytes decodes to its data. -/
theorem rsDecode_codeWord : rsDecode (data ++ rsCheck data) = .good data := by
  rw [rsDecode_good fun j hj => syndrome_of_codeWord hj data, List.take_left' length]

theorem syndrome_one_error {j i e : Nat} (hj : j < 4) (hi : i < 36) :
    syndrome j (changed (data ++ rsCheck data) i e) = alphaPow (j * (35 - i)) (BitVec.ofNat 8 e) := by
  rw [syndrome_changed j e (length_codeWord length) hi, syndrome_of_codeWord hj, BitVec.zero_xor]

theorem syndrome_two_errors {j i k e f : Nat} (hj : j < 4) (hi : i < 36) (hk : k < 36) :
    syndrome j (changed (changed (data ++ rsCheck data) i e) k f) =
      alphaPow (j * (35 - i)) (BitVec.ofNat 8 e) ^^^ alphaPow (j * (35 - k)) (BitVec.ofNat 8 f) := by
  rw [syndrome_changed j f (by rw [length_changed, length_codeWord length]) hk, syndrome_one_error length hj hi]

end CodeWord

theorem ofNat_ne_zero {e : Nat} (pos : 0 < e) (small : e < 256) : BitVec.ofNat 8 e ≠ 0#8 := by
  intro zero
  have value := congrArg BitVec.toNat zero
  rw [BitVec.toNat_ofNat, Nat.mod_eq_of_lt small] at value
  exact absurd value (by simp; omega)

/-- A changed symbol comes back when its bits are changed again. -/
theorem changed_changed {word : List Nat} {i : Nat} (e : Nat) (inside : i < word.length) :
    changed (changed word i e) i e = word := by
  have back : Nat.xor (Nat.xor (nth 0 word i) e) e = nth 0 word i := by
    change nth 0 word i ^^^ e ^^^ e = _
    rw [Nat.xor_assoc, Nat.xor_self, Nat.xor_zero]
  rw [changed, changed, nth_setNth_same 0 _ inside, setNth_setNth, back, setNth_nth]

/-- R133: the powers of one position alone fit the syndromes of one error. -/
theorem rsDecode_one_error {data : List Nat} {i e : Nat} (length : data.length = 32) (hi : i < 36) (pos : 0 < e)
    (small : e < 256) : rsDecode (changed (data ++ rsCheck data) i e) = .corrected data i := by
  have error := ofNat_ne_zero pos small
  have s := fun j hj => syndrome_one_error length (j := j) (e := e) hj hi
  have s0 := s 0 (by decide)
  have s1 := s 1 (by decide)
  have s2 := s 2 (by decide)
  have s3 := s 3 (by decide)
  rw [Nat.zero_mul] at s0
  rw [Nat.one_mul] at s1
  have here : located (syndrome 0 (changed (data ++ rsCheck data) i e)) (syndrome 1 (changed (data ++ rsCheck data) i e))
      (syndrome 2 (changed (data ++ rsCheck data) i e)) (syndrome 3 (changed (data ++ rsCheck data) i e)) (35 - i) := by
    rw [s0, s1, s2, s3]
    refine ⟨rfl, ?_, ?_⟩ <;> rw [← alphaPow_add] <;> congr 1 <;> omega
  have alone : ∀ q < 35 - i, ¬ located (syndrome 0 (changed (data ++ rsCheck data) i e))
      (syndrome 1 (changed (data ++ rsCheck data) i e)) (syndrome 2 (changed (data ++ rsCheck data) i e))
      (syndrome 3 (changed (data ++ rsCheck data) i e)) q := by
    rintro q less ⟨there, -, -⟩
    rw [s0, s1] at there
    exact error (eq_zero_of_alphaPow_eq (by omega) (by omega) (by omega) there)
  have nonzero : syndrome 0 (changed (data ++ rsCheck data) i e) ≠ 0#8 := by
    rw [s0]
    exact error
  have place : 35 - (35 - i) = i := by omega
  have bits : (BitVec.ofNat 8 e).toNat = e := by rw [BitVec.toNat_ofNat, Nat.mod_eq_of_lt small]
  rw [rsDecode_corrected nonzero (rsLocate_some nonzero (by omega) here alone), place, s0]
  change Decoded.corrected (List.take 32 (changed _ i (BitVec.ofNat 8 e).toNat)) i = _
  rw [bits, changed_changed e (by rw [length_codeWord length]; exact hi), List.take_left' length]

theorem xor_swap {a b c d : BitVec 8} (same : a ^^^ b = c ^^^ d) : a ^^^ c = b ^^^ d := by
  ext i hi
  have bits := congrArg (fun x : BitVec 8 => x[i]) same
  have bools : ∀ w x y z : Bool, (w ^^ x) = (y ^^ z) → (w ^^ y) = (x ^^ z) := by decide
  simp only [BitVec.getElem_xor] at bits ⊢
  exact bools _ _ _ _ bits

/-- R133: the syndromes of two errors fit no position, for a position that fitted would be that of both. -/
theorem not_located_two_errors {x y : BitVec 8} {p q r : Nat} (hp : p < 36) (hq : q < 36) (hr : r < 36) (ne : p ≠ q)
    (error : x ≠ 0#8) (error' : y ≠ 0#8) {s3 : BitVec 8} :
    ¬ located (x ^^^ y) (alphaPow p x ^^^ alphaPow q y) (alphaPow (2 * p) x ^^^ alphaPow (2 * q) y) s3 r := by
  rintro ⟨first, second, -⟩
  rw [alphaPow_xor] at first second
  have twice : ∀ k a, alphaPow (2 * k) a = alphaPow k (alphaPow k a) := fun k a => by rw [← alphaPow_add, Nat.two_mul]
  rw [twice, twice, alphaPow_comm r p, alphaPow_comm r q] at second
  -- What the two errors leave at the position is the same byte, and the second syndrome moves it by p and by q.
  have same : alphaPow p x ^^^ alphaPow r x = alphaPow q y ^^^ alphaPow r y := xor_swap first
  have moved : alphaPow p (alphaPow p x ^^^ alphaPow r x) = alphaPow q (alphaPow q y ^^^ alphaPow r y) := by
    rw [alphaPow_xor, alphaPow_xor]
    exact xor_swap second
  rw [← same] at moved
  have none_left := eq_zero_of_alphaPow_eq hp hq ne moved
  have at_p : alphaPow p x = alphaPow r x := BitVec.xor_eq_zero_iff.mp none_left
  have at_q : alphaPow q y = alphaPow r y := BitVec.xor_eq_zero_iff.mp (same ▸ none_left)
  by_cases is_p : p = r
  · exact error' (eq_zero_of_alphaPow_eq hq hr (by omega) at_q)
  · exact error (eq_zero_of_alphaPow_eq hp hr is_p at_p)

theorem rsDecode_two_errors {data : List Nat} {i e k f : Nat} (length : data.length = 32) (less : i < k) (hk : k < 36)
    (pos : 0 < e) (small : e < 256) (pos' : 0 < f) (small' : f < 256) :
    ∃ x, rsDecode (changed (changed (data ++ rsCheck data) i e) k f) = .uncorrectable x := by
  have error := ofNat_ne_zero pos small
  have error' := ofNat_ne_zero pos' small'
  have s := fun j hj => syndrome_two_errors length (j := j) (i := i) (e := e) (k := k) (f := f) hj (by omega) hk
  have s0 := s 0 (by decide)
  have s1 := s 1 (by decide)
  have s2 := s 2 (by decide)
  rw [Nat.zero_mul, Nat.zero_mul] at s0
  rw [Nat.one_mul, Nat.one_mul] at s1
  refine ⟨_, rsDecode_uncorrectable ?nonzero (rsLocate_none fun r hr => .inl ?nowhere)⟩
  case nonzero =>
    rw [s0, s1]
    by_cases equal : BitVec.ofNat 8 e = BitVec.ofNat 8 f
    · rw [← equal]
      exact .inr fun zero =>
        error (eq_zero_of_alphaPow_eq (by omega) (by omega) (by omega) (BitVec.xor_eq_zero_iff.mp zero))
    · exact .inl fun zero => equal (BitVec.xor_eq_zero_iff.mp zero)
  case nowhere =>
    rw [s0, s1, s2]
    exact not_located_two_errors (by omega) (by omega) hr (by omega) error error'

/-- Settles O58, by the linearity of the syndromes and the order of α. -/
theorem codeWordsDecode : Obligations.CodeWordsDecode := by
  unfold Obligations.CodeWordsDecode
  refine ⟨?good, ?one, ?two⟩
  case good =>
    intro d length _
    exact rsDecode_codeWord length
  case one =>
    intro d i e length _ hi pos small
    exact rsDecode_one_error length hi pos small
  case two =>
    intro d i e j f length _ less hj pos small pos' small'
    have apart : nth 0 (setNth (d ++ rsCheck d) i (Nat.xor (nth 0 (d ++ rsCheck d) i) e)) j = nth 0 (d ++ rsCheck d) j :=
      nth_setNth_other 0 _ _ (by omega)
    rw [← apart]
    exact rsDecode_two_errors length less hj pos small pos' small'

end Sys2Proof.Proofs
end


section
/-! Device memory through the host interface (chapters 6 and 13): what the network adds to an access, what a write of
whole code words stores, what a read of a word answers. -/
namespace Sys2Proof.Proofs
set_option Elab.async false
open Sys2Proof.Machine

/-! ## Bytes written and read -/

theorem memPutBytes_append (m : Memory) (a : Nat) (l r : List Nat) :
    memPutBytes m a (l ++ r) = memPutBytes (memPutBytes m a l) (a + l.length) r := by
  induction l generalizing m a with
  | nil => rfl
  | cons b l ih =>
    rw [List.cons_append, memPutBytes, ih, memPutBytes, List.length_cons, show a + 1 + l.length = a + (l.length + 1) by omega]

/-- Memory takes bytes modulo 256. -/
@[simp] theorem memPutBytes_toBytes (m : Memory) (a : Nat) (l : List Nat) : memPutBytes m a (toBytes l) = memPutBytes m a l := by
  induction l generalizing m a with
  | nil => rfl
  | cons b l ih =>
    have same : BitVec.ofNat 8 (b % 256) = BitVec.ofNat 8 b := BitVec.eq_of_toNat_eq (by simp)
    have rest := ih (memWrite m a (BitVec.ofNat 8 b)) (a + 1)
    rw [toBytes] at rest
    rw [toBytes, List.map_cons, memPutBytes, memPutBytes, same, rest]

@[simp] theorem length_toBytes (l : List Nat) : (toBytes l).length = l.length := List.length_map ..

theorem toBytes_of_bytes {l : List Nat} (bytes : l.all (fun b => decide (b < 256)) = true) : toBytes l = l := by
  have each : ∀ b ∈ l, b % 256 = b := fun b hb => Nat.mod_eq_of_lt (of_decide_eq_true (List.all_eq_true.1 bytes b hb))
  rw [toBytes, List.map_congr_left each, List.map_id']

@[simp] theorem length_memBytes (m : Memory) (a n : Nat) : (memBytes m a n).length = n := by simp [memBytes]

/-- Bytes written are read back. -/
theorem memBytes_memPutBytes_same (m : Memory) (a : Nat) {n : Nat} {l : List Nat} (length : l.length = n) :
    memBytes (memPutBytes m a l) a n = toBytes l := by
  subst length
  refine List.ext_getElem (by simp) fun i inside _ => ?_
  have inL : i < l.length := by simpa using inside
  simp [memBytes, toBytes, memRead_memPutBytes_same m a l inL]

/-- Bytes beside those written stay. -/
theorem memBytes_memPutBytes_apart (m : Memory) (a : Nat) (l : List Nat) {b n : Nat} (apart : b + n ≤ a ∨ a + l.length ≤ b) :
    memBytes (memPutBytes m a l) b n = memBytes m b n := by
  refine List.map_congr_left fun i inside => ?_
  have less : i < n := List.mem_range.1 inside
  rw [memRead_memPutBytes_other m a l (by omega)]

theorem slice_append_drop (l : List Nat) {k : Nat} (enough : k ≤ l.length) : slice l 0 k ++ l.drop k = l := by
  have whole : k - (l.take k).length = 0 := by rw [List.length_take]; omega
  rw [slice, List.drop_zero, whole, List.replicate_zero, List.append_nil, List.take_append_drop]

theorem slice_all {l : List Nat} {n : Nat} (length : l.length = n) : slice l 0 n = l := by
  have parts := slice_append_drop l (k := n) (by omega)
  rwa [List.drop_of_length_le (by omega), List.append_nil] at parts

/-! ## What the network adds to an access (R172, R187) -/

/-- `t` is `s` but for the on-device network. -/
def OnlyNet (s t : State) : Prop := ∃ net, t = { s with net := net }

theorem OnlyNet.refl (s : State) : OnlyNet s s := ⟨s.net, rfl⟩

theorem OnlyNet.trans {s t u : State} (first : OnlyNet s t) (second : OnlyNet t u) : OnlyNet s u := by
  obtain ⟨_, rfl⟩ := first
  obtain ⟨net, rfl⟩ := second
  exact ⟨net, rfl⟩

theorem OnlyNet.ite {c : Prop} [Decidable c] {s t u : State} (yes : OnlyNet s t) (no : OnlyNet s u) :
    OnlyNet s (if c then t else u) := by
  split
  · exact yes
  · exact no

theorem setNet_onlyNet (r : Nat) (f : NetRec → NetRec) (s : State) : OnlyNet s (setNet r f s) := ⟨_, rfl⟩

theorem setSillNet_onlyNet (k : Nat) (f : SillRec → SillRec) (s : State) : OnlyNet s (setSillNet k f s) := ⟨_, rfl⟩

theorem countFlits_onlyNet (l flits : Nat) (s : State) : OnlyNet s (countFlits l flits s) := by
  unfold countFlits
  exact .ite (.refl s) (.ite (.ite (.refl s) (setNet_onlyNet ..)) (.ite (.refl s) (.ite (setNet_onlyNet ..)
    (.ite (setSillNet_onlyNet ..) (.refl s)))))

theorem foldl_countFlits_onlyNet (route : List (Nat × Bool)) (flits : Nat) (s : State) :
    OnlyNet s (route.foldl (fun s l => countFlits l.1 flits s) s) := by
  induction route generalizing s with
  | nil => exact .refl s
  | cons l route ih => exact (countFlits_onlyNet l.1 flits s).trans (ih _)

theorem crossNet_onlyNet (src dst flits : Nat) (s : State) : OnlyNet s (crossNet src dst flits s) :=
  foldl_countFlits_onlyNet _ _ _

/-- An access crosses the network, which counts its flits and changes nothing else. -/
theorem netAccess_onlyNet (w : Who) (a len : Nat) (write : Bool) (s : State) : OnlyNet s (netAccess w a len write s) := by
  unfold netAccess
  split
  · exact (crossNet_onlyNet ..).trans (crossNet_onlyNet ..)
  · exact .refl s

/-! ## Writing whole code words (R134) -/

@[simp] theorem emit_out (o : Output) (s : State) : (emit o s).out = o :: s.out := rfl

@[simp] theorem openRow_dram (a : Nat) (s : State) : (openRow a s).mem.dram = s.mem.dram := rfl
@[simp] theorem openRow_check (a : Nat) (s : State) : (openRow a s).mem.check = s.mem.check := rfl
@[simp] theorem openRow_out (a : Nat) (s : State) : (openRow a s).out = s.out := rfl

/-- Storing code words changes the stored bytes and symbols and the rows that are open, and nothing else. -/
theorem storeWords_frame (n a : Nat) (bytes : List Nat) (s : State) : ∃ dram check rows,
    storeWords n a bytes s = { s with mem := { s.mem with dram := dram, check := check, openRows := rows } } := by
  induction n generalizing a bytes s with
  | zero => exact ⟨_, _, _, rfl⟩
  | succ n ih =>
    obtain ⟨dram, check, rows, eq⟩ := ih (a + 32) (bytes.drop 32) (storeWord a (slice bytes 0 32) s)
    exact ⟨dram, check, rows, eq⟩

/-- The bytes of whole code words are stored at their address. -/
theorem storeWords_dram {n : Nat} (a : Nat) {bytes : List Nat} (s : State) (length : bytes.length = 32 * n) :
    (storeWords n a bytes s).mem.dram = memPutBytes s.mem.dram a bytes := by
  induction n generalizing a bytes s with
  | zero =>
    obtain rfl : bytes = [] := List.eq_nil_of_length_eq_zero (by omega)
    rfl
  | succ n ih =>
    have here : (storeWord a (slice bytes 0 32) s).mem.dram = memPutBytes s.mem.dram a (slice bytes 0 32) := rfl
    have parts := memPutBytes_append s.mem.dram a (slice bytes 0 32) (bytes.drop 32)
    rw [slice_append_drop bytes (by omega), length_slice] at parts
    rw [storeWords, ih (a + 32) _ (by rw [List.length_drop]; omega), here, parts]

/-- The staging lock is a matter of DEV, not of the network. -/
theorem lockedIn_net (s : State) (net : NetBlk) (a n : Nat) : State.lockedIn { s with net := net } a n = s.lockedIn a n := by
  induction n generalizing a with
  | zero => rfl
  | succ n ih => rw [State.lockedIn, ih, State.lockedIn]; rfl

/-- Holes and fences are a matter of the floor plan, not of the network. -/
theorem blockedIn_net (s : State) (net : NetBlk) (a n : Nat) : State.blockedIn { s with net := net } a n = s.blockedIn a n := by
  induction n generalizing a with
  | zero => rfl
  | succ n ih => rw [State.blockedIn, ih, State.blockedIn]; rfl

/-- A write that meets no staging lock, no hole, no fence and no parity error stores its words. -/
theorem writeBytes_stores (w : Who) {a : Nat} {bytes : List Nat} {s : State} (path : s.mem.dpBad = [])
    (unlocked : s.lockedIn a (bytes.length / 32) = false) (open_ : s.blockedIn a (bytes.length / 32) = none) :
    ∃ net, writeBytes w false a bytes s = (none, storeWords (bytes.length / 32) a bytes { s with net := net }) := by
  obtain ⟨net, eq⟩ := netAccess_onlyNet w a bytes.length true s
  have good : State.pathBad { s with net := net } a = false := by simp [State.pathBad, path]
  refine ⟨net, ?_⟩
  unfold writeBytes
  simp only [eq, lockedIn_net, unlocked, blockedIn_net, open_, good]
  rfl

/-! ## Reading one code word (R133) -/

/-- What a code word decodes to without an error is its own data bytes. -/
theorem data_of_rsDecode_good {word e : List Nat} (good : rsDecode word = .good e) : e = word.take 32 := by
  simp only [rsDecode] at good
  split at good
  · injection good with eq
    exact eq.symm
  · split at good <;> cases good

theorem length_codeWord_of_state (s : State) (a : Nat) : (s.codeWord a).length = 36 := by
  unfold State.codeWord
  split <;> simp [State.storedWord]

/-- A word that is open and decodes without an error is answered as it decodes, and its row is opened. -/
theorem readWord_good (w : Who) {a : Nat} {s : State} {e : List Nat} (path : s.mem.dpBad = [])
    (open_ : s.wordBlocked a = none) (good : rsDecode (s.codeWord a) = .good e) :
    readWord w false a s = (.data e, openRow a s) := by
  have whole : State.pathBad (openRow a s) a = false := by simp [State.pathBad, openRow, path]
  have stored : (openRow a s).codeWord a = s.codeWord a := rfl
  simp [readWord, open_, whole, stored, good]

/-- An access of one whole aligned word is answered as that word decodes. -/
theorem readBytes_word (w : Who) {a : Nat} {s : State} {e : List Nat} (aligned : a % 32 = 0) (path : s.mem.dpBad = [])
    (open_ : s.wordBlocked a = none) (good : rsDecode (s.codeWord a) = .good e) :
    ∃ net, readBytes w false a 32 s = (.data e, openRow a { s with net := net }) := by
  obtain ⟨net, eq⟩ := netAccess_onlyNet w a 32 false s
  have one : (a + 32 + 31) / 32 - a / 32 = 1 := by omega
  have first : a / 32 * 32 = a := by omega
  have read : readWord w false a { s with net := net } = (.data e, openRow a { s with net := net }) :=
    readWord_good w path open_ good
  have length : e.length = 32 := by rw [data_of_rsDecode_good good, List.length_take, length_codeWord_of_state]; rfl
  refine ⟨net, ?_⟩
  simp [readBytes, eq, one, first, readWords, read, slice_all length]

/-! ## The commands of BAR2 (R290) -/

/-- A length of 1 to 4,096 bytes that stays in the aperture is taken as it is. -/
theorem apertureLen_fits {off len : Nat} (some_ : 0 < len) (short : len ≤ 4096) (inside : off + len ≤ 2 ^ 36) :
    apertureLen off len = len := by
  unfold apertureLen
  omega

theorem exec_bar2Read {off len : Nat} (flips : List (Nat × Nat)) (parity : Bool) (s : State) (some_ : 0 < len)
    (short : len ≤ 4096) (inside : off + len ≤ 2 ^ 36) :
    exec (.bar2Read off len flips parity) s = .next (doBar2Read off len flips parity s) := by
  change Host.Outcome.next (doBar2Read (off % 2 ^ 36) (apertureLen off len) flips parity s) = _
  rw [apertureLen_fits some_ short inside, Nat.mod_eq_of_lt (by omega)]

theorem exec_bar2Write {off : Nat} {bytes : List Nat} (enabled parity : Bool) (s : State) (some_ : 0 < bytes.length)
    (short : bytes.length ≤ 4096) (inside : off + bytes.length ≤ 2 ^ 36) :
    exec (.bar2Write off bytes enabled parity) s = .next (doBar2Write off (toBytes bytes) enabled parity s) := by
  change Host.Outcome.next (doBar2Write (off % 2 ^ 36) (toBytes (bytes.take (apertureLen off bytes.length))) enabled parity s) = _
  rw [apertureLen_fits some_ short inside, Nat.mod_eq_of_lt (by omega), List.take_length]

theorem serveBar2Read_data {a len : Nat} {parity : Bool} {s t : State} {d : List Nat}
    (read : readBytes { code := 3, source := 0, unit := some hostEndpoint } parity a len s = (.data d, t)) :
    serveBar2Read a len parity s = emit (.data d) t := by
  rw [serveBar2Read, read]

theorem serveBar2Read_error {a len c : Nat} {parity : Bool} {s t : State}
    (read : readBytes { code := 3, source := 0, unit := some hostEndpoint } parity a len s = (.error c, t)) :
    serveBar2Read a len parity s = bar2Abort a len t := by
  rw [serveBar2Read, read]

/-- Where BAR2 decodes, a read without new errors is served, or held by a tile that retrains. -/
theorem doBar2Read_live {off len : Nat} {s : State} (live : s.bar2Live = true) :
    doBar2Read off len [] false s = if s.tileHolds (s.bar2Addr off)
      then holdRequest (s.bar2Addr off) (.bar2Read (s.bar2Addr off) len false) s
      else serveBar2Read (s.bar2Addr off) len false s := by
  simp [doBar2Read, live, flipSymbols]

/-- Where BAR2 decodes, a write of whole code words is served, or held by a tile that retrains. -/
theorem doBar2Write_live {off : Nat} {bytes : List Nat} {s : State} (live : s.bar2Live = true) (parity : Bool)
    (aligned : off % 32 = 0) (whole : bytes.length % 32 = 0) :
    doBar2Write off bytes true parity s = if s.tileHolds (s.bar2Addr off)
      then holdRequest (s.bar2Addr off) (.bar2Write (s.bar2Addr off) bytes parity) s
      else serveBar2Write (s.bar2Addr off) bytes parity s := by
  simp [doBar2Write, live, bar2Narrow, aligned, whole]

/-! ## What is written is read back -/

/-- What the answer of BAR2 for the word at `b` depends on is the same in both states. -/
structure SameRead (b : Nat) (s t : State) : Prop where
  live : t.bar2Live = s.bar2Live
  base : t.hif.baseGib = s.hif.baseGib
  holds : t.tileHolds b = s.tileHolds b
  blocked : t.wordBlocked b = s.wordBlocked b
  path : t.mem.dpBad = s.mem.dpBad
  codeWord : t.codeWord b = s.codeWord b

/-- A read of a word that decodes without an error is answered with it. -/
theorem bar2Read_word {off : Nat} {s : State} {e : List Nat} (inside : off + 32 ≤ 2 ^ 36) (aligned : off % 32 = 0)
    (live : s.bar2Live = true) (path : s.mem.dpBad = []) (serves : s.tileHolds (s.bar2Addr off) = false)
    (open_ : s.wordBlocked (s.bar2Addr off) = none) (good : rsDecode (s.codeWord (s.bar2Addr off)) = .good e) :
    ∃ u, exec (.bar2Read off 32 [] false) s = .next u ∧ u.out = .data e :: s.out ∧ u.mem.dram = s.mem.dram := by
  have word : s.bar2Addr off % 32 = 0 := by unfold State.bar2Addr; omega
  obtain ⟨net, read⟩ := readBytes_word { code := 3, source := 0, unit := some hostEndpoint } word path open_ good
  have served : doBar2Read off 32 [] false s = emit (.data e) (openRow (s.bar2Addr off) { s with net := net }) := by
    rw [doBar2Read_live live, serves, if_neg Bool.false_ne_true, serveBar2Read_data read]
  refine ⟨_, (exec_bar2Read [] false s (by omega) (by omega) inside).trans (congrArg _ served), ?_, ?_⟩
  · rw [emit_out, openRow_out]
  · rw [emit_mem, openRow_dram]

/-- The read answers the same where nothing that it depends on has changed. -/
theorem bar2Read_same {off : Nat} {s t : State} {e : List Nat} (same : SameRead (s.bar2Addr off) s t)
    (inside : off + 32 ≤ 2 ^ 36) (aligned : off % 32 = 0) (live : s.bar2Live = true) (path : s.mem.dpBad = [])
    (serves : s.tileHolds (s.bar2Addr off) = false) (open_ : s.wordBlocked (s.bar2Addr off) = none)
    (good : rsDecode (s.codeWord (s.bar2Addr off)) = .good e) :
    ∃ u, exec (.bar2Read off 32 [] false) t = .next u ∧ u.out = .data e :: t.out ∧ u.mem.dram = t.mem.dram := by
  have addr : t.bar2Addr off = s.bar2Addr off := by rw [State.bar2Addr, same.base, State.bar2Addr]
  have there : rsDecode (t.codeWord (s.bar2Addr off)) = .good e := (congrArg rsDecode same.codeWord).trans good
  refine bar2Read_word inside aligned (same.live.trans live) (same.path.trans path) ?_ ?_ ?_ <;> rw [addr]
  · exact same.holds.trans serves
  · exact same.blocked.trans open_
  · exact there

/-- The word written is the one that memory then holds, with its check bytes. -/
theorem codeWord_storeWord_same {a : Nat} {d : List Nat} {s : State} (soft : s.mem.hard = [])
    (length : d.length = 32) (bytes : d.all (fun b => decide (b < 256)) = true) :
    (storeWord a d s).codeWord a = d ++ toBytes (rsCheck d) := by
  have hard : (storeWord a d s).mem.hard = [] := soft
  have dram : (storeWord a d s).mem.dram = memPutBytes s.mem.dram a d := rfl
  have check : (storeWord a d s).mem.check = memPutBytes s.mem.check (a / 32 * 4) (rsCheck d) := rfl
  simp [State.codeWord, State.storedWord, hard, dram, check, memBytes_memPutBytes_same _ _ length,
    memBytes_memPutBytes_same _ _ (length_rsCheck d), toBytes_of_bytes bytes]

/-- Every other word stays. -/
theorem codeWord_storeWord_other {a b : Nat} {d : List Nat} (s : State) (length : d.length = 32) (aligned : a % 32 = 0)
    (alignedToo : b % 32 = 0) (other : b ≠ a) : (storeWord a d s).codeWord b = s.codeWord b := by
  have hard : (storeWord a d s).mem.hard = s.mem.hard := rfl
  have dram : memBytes (storeWord a d s).mem.dram b 32 = memBytes s.mem.dram b 32 :=
    memBytes_memPutBytes_apart _ _ _ (by omega)
  have check : memBytes (storeWord a d s).mem.check (b / 32 * 4) 4 = memBytes s.mem.check (b / 32 * 4) 4 :=
    memBytes_memPutBytes_apart _ _ _ (by rw [length_rsCheck]; omega)
  simp only [State.codeWord, State.storedWord, hard, dram, check]

/-- Nothing that the answer depends on has changed where these fields of the blocks stay. -/
theorem SameRead.of_fields {b : Nat} {s t : State} (kpr : t.kpr = s.kpr) (flp : t.flp = s.flp) (prt : t.prt = s.prt)
    (win : t.hif.win = s.hif.win) (d3hot : t.hif.d3hot = s.hif.d3hot) (base : t.hif.baseGib = s.hif.baseGib)
    (retraining : ∀ n, (t.tileRec n).retraining = (s.tileRec n).retraining) (path : t.mem.dpBad = s.mem.dpBad)
    (codeWord : t.codeWord b = s.codeWord b) : SameRead b s t where
  live := by simp only [State.bar2Live, State.keeperUp, State.inStates, State.prtFlag, kpr, prt, win, d3hot]
  base := base
  holds := by simp only [State.tileHolds, retraining]
  blocked := by
    have fenced : t.bankFenced = s.bankFenced := by
      funext n b
      simp only [State.bankFenced, State.fence, flp]
    rw [State.wordBlocked, fenced, State.wordBlocked]
  path := path
  codeWord := codeWord

theorem sameRead_net (b : Nat) (s : State) (net : NetBlk) : SameRead b s { s with net := net } :=
  .of_fields rfl rfl rfl rfl rfl rfl (fun _ => rfl) rfl rfl

theorem SameRead.trans {b : Nat} {s t u : State} (first : SameRead b s t) (second : SameRead b t u) : SameRead b s u where
  live := second.live.trans first.live
  base := second.base.trans first.base
  holds := second.holds.trans first.holds
  blocked := second.blocked.trans first.blocked
  path := second.path.trans first.path
  codeWord := second.codeWord.trans first.codeWord

theorem retraining_holdRequest (a : Nat) (q : HeldReq) (s : State) (n : Nat) :
    ((holdRequest a q s).tileRec n).retraining = (s.tileRec n).retraining := by
  unfold holdRequest
  by_cases here : n = tileOf a
  · rw [here, setTile_tileRec_same]
  · rw [setTile_tileRec_other _ _ _ here]

theorem sameRead_holdRequest (b a : Nat) (q : HeldReq) (s : State) : SameRead b s (holdRequest a q s) :=
  .of_fields rfl rfl rfl rfl rfl rfl (retraining_holdRequest a q s) rfl rfl

theorem sameRead_busError (b : Nat) (w : Who) (a c syn : Nat) (write : Bool) (s : State) :
    SameRead b s (busError w a c syn write s) :=
  .of_fields rfl rfl rfl rfl rfl rfl (fun _ => rfl) rfl rfl

theorem sameRead_storeWord {a b : Nat} {d : List Nat} (s : State) (length : d.length = 32) (aligned : a % 32 = 0)
    (alignedToo : b % 32 = 0) (other : b ≠ a) : SameRead b s (storeWord a d s) :=
  .of_fields rfl rfl rfl rfl rfl rfl (fun _ => rfl) rfl (codeWord_storeWord_other s length aligned alignedToo other)

/-- A write discarded for the staging lock leaves memory and the blocks that decide on an access. -/
theorem sameRead_stagingDiscard (b a : Nat) (s : State) : SameRead b s (stagingDiscard a s) := by
  have mem : (stagingDiscard a s).mem = s.mem := by
    simp only [stagingDiscard, discardEvent]
    split <;> simp
  refine .of_fields ?_ ?_ ?_ ?_ ?_ ?_ (fun n => ?_) (by rw [mem]) ?_
  case refine_7 => rw [State.tileRec, mem, State.tileRec]
  case refine_8 => simp only [State.codeWord, State.storedWord, mem]
  all_goals
    simp only [stagingDiscard, discardEvent]
    split <;> simp

/-- A write of one whole code word is discarded for the staging lock, refused by a hole or a fence, or stored. -/
theorem serveBar2Write_word {a : Nat} {d : List Nat} {s : State} (length : d.length = 32) (path : s.mem.dpBad = []) :
    ∃ net, serveBar2Write a d false s = stagingDiscard a { s with net := net } ∨
      (∃ w b c, serveBar2Write a d false s = busError w b c 0 true { s with net := net }) ∨
      serveBar2Write a d false s = storeWord a d { s with net := net } := by
  obtain ⟨net, eq⟩ := netAccess_onlyNet { code := 3, source := 0, unit := some hostEndpoint } a d.length true s
  have good : State.pathBad { s with net := net } a = false := by simp [State.pathBad, path]
  have one : d.length / 32 = 1 := by rw [length]
  have stored : storeWords 1 a d { s with net := net } = storeWord a d { s with net := net } := by
    rw [storeWords, storeWords, slice_all length]
  refine ⟨net, ?_⟩
  unfold serveBar2Write writeBytes
  simp only [eq, good, one, stored]
  split
  · exact .inl rfl
  · split
    · exact .inr (.inl ⟨_, _, _, rfl⟩)
    · exact .inr (.inr rfl)

/-- A write of a code word leaves what the read of another word depends on. -/
theorem sameRead_doBar2Write {off b : Nat} {d : List Nat} {s : State} (length : d.length = 32) (aligned : off % 32 = 0)
    (live : s.bar2Live = true) (path : s.mem.dpBad = []) (alignedToo : b % 32 = 0) (other : b ≠ s.bar2Addr off) :
    SameRead b s (doBar2Write off d true false s) := by
  have word : s.bar2Addr off % 32 = 0 := by unfold State.bar2Addr; omega
  rw [doBar2Write_live live false aligned (by rw [length])]
  split
  · exact sameRead_holdRequest ..
  · obtain ⟨net, discarded | ⟨w, a, c, refused⟩ | stored⟩ := serveBar2Write_word (a := s.bar2Addr off) length path
    · exact discarded ▸ (sameRead_net b s net).trans (sameRead_stagingDiscard ..)
    · exact refused ▸ (sameRead_net b s net).trans (sameRead_busError ..)
    · exact stored ▸ (sameRead_net b s net).trans (sameRead_storeWord _ length word alignedToo other)

/-- A word written where nothing stands in the way is stored. -/
theorem doBar2Write_stores {off : Nat} {bytes : List Nat} {s : State} (live : s.bar2Live = true) (aligned : off % 32 = 0)
    (whole : bytes.length % 32 = 0) (serves : s.tileHolds (s.bar2Addr off) = false) (path : s.mem.dpBad = [])
    (unlocked : s.lockedIn (s.bar2Addr off) (bytes.length / 32) = false)
    (open_ : s.blockedIn (s.bar2Addr off) (bytes.length / 32) = none) :
    ∃ net, doBar2Write off bytes true false s = storeWords (bytes.length / 32) (s.bar2Addr off) bytes { s with net := net } := by
  obtain ⟨net, write⟩ := writeBytes_stores { code := 3, source := 0, unit := some hostEndpoint } path unlocked open_
  refine ⟨net, ?_⟩
  rw [doBar2Write_live live false aligned whole, serves, if_neg Bool.false_ne_true, serveBar2Write, write]

theorem exec_bar2Write_word {off : Nat} {d : List Nat} (s : State) (length : d.length = 32)
    (bytes : d.all (fun b => decide (b < 256)) = true) (inside : off + 32 ≤ 2 ^ 36) :
    exec (.bar2Write off d true false) s = .next (doBar2Write off d true false s) := by
  rw [exec_bar2Write true false s (by omega) (by omega) (by omega), toBytes_of_bytes bytes]

/-- A word written is the word that is read. -/
theorem bar2Read_after_bar2Write {off : Nat} {d : List Nat} {s : State} (length : d.length = 32)
    (bytes : d.all (fun b => decide (b < 256)) = true) (inside : off + 32 ≤ 2 ^ 36) (aligned : off % 32 = 0)
    (live : s.bar2Live = true) (soft : s.mem.hard = []) (path : s.mem.dpBad = [])
    (serves : s.tileHolds (s.bar2Addr off) = false) (unlocked : s.lockedIn (s.bar2Addr off) 1 = false)
    (open_ : s.wordBlocked (s.bar2Addr off) = none) :
    ∃ t u, exec (.bar2Write off d true false) s = .next t ∧ exec (.bar2Read off 32 [] false) t = .next u ∧
      u.out = .data d :: t.out ∧ u.mem.dram = t.mem.dram ∧ t.mem.dram = memPutBytes s.mem.dram (s.bar2Addr off) d := by
  have one : d.length / 32 = 1 := by rw [length]
  have free : s.blockedIn (s.bar2Addr off) 1 = none := by rw [State.blockedIn, open_]; rfl
  obtain ⟨net, stores⟩ := doBar2Write_stores live aligned (by rw [length]) serves path (one ▸ unlocked) (one ▸ free)
  have stored : doBar2Write off d true false s = storeWord (s.bar2Addr off) d { s with net := net } := by
    rw [stores, one, storeWords, storeWords, slice_all length]
  have word := codeWord_storeWord_same (a := s.bar2Addr off) (s := { s with net := net }) soft length bytes
  have checkBytes : (rsCheck d).all (fun b => decide (b < 256)) = true := by
    rw [rsCheck_eq]
    have small : ∀ x : BitVec 8, decide (x.toNat < 256) = true := fun x => decide_eq_true x.isLt
    simp only [List.all_cons, List.all_nil, small, Bool.and_self]
  have good : rsDecode (State.codeWord (storeWord (s.bar2Addr off) d { s with net := net }) (s.bar2Addr off)) = .good d := by
    rw [word, toBytes_of_bytes checkBytes, rsDecode_codeWord length]
  obtain ⟨u, read, out, dram⟩ := bar2Read_word (s := storeWord (s.bar2Addr off) d { s with net := net }) inside aligned
    live path serves open_ good
  exact ⟨_, u, (exec_bar2Write_word s length bytes inside).trans (congrArg _ stored), read, out, dram, rfl⟩

/-- Settles O59: a word written is stored with its check bytes, and decodes to itself; of another word the write changes
nothing that its read depends on. -/
theorem whatIsWrittenIsRead : Obligations.WhatIsWrittenIsRead := by
  unfold Obligations.WhatIsWrittenIsRead
  constructor
  · intro s off d length bytes inside aligned live soft path serves unlocked open_
    exact bar2Read_after_bar2Write length bytes inside aligned live soft path serves unlocked open_
  · intro s off away d e length bytes inside aligned insideToo alignedToo ne live path serves open_ good
    have word : s.bar2Addr away % 32 = 0 := by unfold State.bar2Addr; omega
    have other : s.bar2Addr away ≠ s.bar2Addr off := by unfold State.bar2Addr; omega
    obtain ⟨u, read, out, dram⟩ := bar2Read_same (sameRead_doBar2Write length aligned live path word other) insideToo
      alignedToo live path serves open_ good
    exact ⟨_, u, exec_bar2Write_word s length bytes inside, read, out, dram⟩

end Sys2Proof.Proofs
end


section
/-! The host's reads and writes of device memory through BAR2 and CXL.mem, and the windows (chapter 13). -/
namespace Sys2Proof.Proofs
set_option Elab.async false
open Sys2Proof.Machine Sys2Proof.Laws

/-! ## Whole blocks that an operation keeps -/

theorem cores_of_keeps {u : Untouched} {s t : State} (kept : Keeps u s t) (store : u.store = true) (cores : u.cores = true) :
    t.cores = s.cores := by
  have bytes := kept.store store
  have rest := kept.cores cores
  calc t.cores = { { t.cores with store := [] } with store := t.cores.store } := rfl
    _ = { { s.cores with store := [] } with store := s.cores.store } := by rw [rest, bytes]
    _ = s.cores := rfl

theorem mem_of_keeps {u : Untouched} {s t : State} (kept : Keeps u s t) (stacked : u.stacked = true) (mem : u.mem = true) :
    t.mem = s.mem := by
  obtain ⟨dram, check⟩ := kept.stacked stacked
  have rest := kept.mem mem
  calc t.mem = { { t.mem with dram := [], check := [] } with dram := t.mem.dram, check := t.mem.check } := rfl
    _ = { { s.mem with dram := [], check := [] } with dram := s.mem.dram, check := s.mem.check } := by rw [rest, dram, check]
    _ = s.mem := rfl

theorem hif_of_keeps {u : Untouched} {s t : State} (kept : Keeps u s t) (reports : u.reports = true) (hif : u.hif = true) :
    t.hif = s.hif := by
  obtain ⟨-, -, pba, -⟩ := kept.reports reports
  have rest := kept.hif hif
  calc t.hif = { { t.hif with pba := 0 } with pba := t.hif.pba } := rfl
    _ = { { s.hif with pba := 0 } with pba := s.hif.pba } := by rw [rest, pba]
    _ = s.hif := rfl

theorem prt_of_keeps {u : Untouched} {s t : State} (kept : Keeps u s t) (protection : u.protection = true)
    (prt : u.prt = true) : t.prt = s.prt := by
  have block := kept.protection protection
  have rest := kept.prt prt
  calc t.prt = { { t.prt with block := [] } with block := t.prt.block } := rfl
    _ = { { s.prt with block := [] } with block := s.prt.block } := by rw [rest, block]
    _ = s.prt := rfl

/-! ## BAR2 where it does not decode, and narrow writes -/

/-- An AER error keeps the counters and the last error of the host interface. -/
theorem aerError_hif (b : Nat) (header : List Nat) (s : State) :
    ∃ aer, (aerError b header s).hif = { s.hif with aer := aer } := by
  obtain ⟨aer, out, eq, -⟩ := aerError_only b header s
  exact ⟨aer, by rw [eq]⟩

theorem bar2Unsupported_records (ty off len : Nat) (s : State) :
    (bar2Unsupported ty off len s).hif.unsupported = satAdd 12 s.hif.unsupported 1 ∧
      (bar2Unsupported ty off len s).hif.errKind = 4 ∧ (bar2Unsupported ty off len s).hif.errAddr = off % 2 ^ 40 ∧
      (bar2Unsupported ty off len s).mem = s.mem := by
  unfold bar2Unsupported
  obtain ⟨aer, hif⟩ := aerError_hif aerUnsupported (aerHeader ty off len)
    (lastErr 4 0 off { s with hif := { s.hif with unsupported := satAdd 12 s.hif.unsupported 1 } })
  rw [hif, aerError_mem]
  exact ⟨rfl, rfl, rfl, rfl⟩

theorem narrowWrite_records (entrance source addr : Nat) (s : State) :
    (narrowWrite entrance source addr s).mem.dram = s.mem.dram ∧
      (narrowWrite entrance source addr s).mem.narrowCount = satAdd 32 s.mem.narrowCount 1 ∧
      (narrowWrite entrance source addr s).mem.narrowEntrance = entrance ∧
      (narrowWrite entrance source addr s).mem.narrowAddr = addr % 2 ^ 40 := by
  simp only [narrowWrite]
  split
  · rw [raiseFull_mem]
    exact ⟨rfl, rfl, rfl, rfl⟩
  · exact ⟨rfl, rfl, rfl, rfl⟩

/-- `t` is `s` but for the bytes and check symbols of stacked memory. -/
def OnlyBytes (s t : State) : Prop := ∃ dram check, t = { s with mem := { s.mem with dram := dram, check := check } }

theorem OnlyBytes.refl (s : State) : OnlyBytes s s := ⟨_, _, rfl⟩

theorem OnlyBytes.trans {s t u : State} (first : OnlyBytes s t) (second : OnlyBytes t u) : OnlyBytes s u := by
  obtain ⟨_, _, rfl⟩ := first
  obtain ⟨dram, check, rfl⟩ := second
  exact ⟨dram, check, rfl⟩

theorem OnlyBytes.foldl {α : Type} {step : State → α → State} (each : ∀ s x, OnlyBytes s (step s x)) (l : List α) (s : State) :
    OnlyBytes s (l.foldl step s) := by
  induction l generalizing s with
  | nil => exact .refl s
  | cons x l ih => exact (each s x).trans (ih (step s x))

/-- The errors that come into stored symbols change those and nothing else. -/
theorem flipSymbols_onlyBytes (a : Nat) (flips : List (Nat × Nat)) (s : State) : OnlyBytes s (flipSymbols a flips s) := by
  refine OnlyBytes.foldl (fun s f => ?_) flips s
  dsimp only
  split
  · exact ⟨_, _, rfl⟩
  · exact ⟨_, _, rfl⟩

theorem tileHolds_flipSymbols (b a : Nat) (flips : List (Nat × Nat)) (s : State) :
    (flipSymbols a flips s).tileHolds b = s.tileHolds b := by
  obtain ⟨_, _, eq⟩ := flipSymbols_onlyBytes a flips s
  rw [eq]
  rfl

theorem doBar2Read_serves {off len : Nat} {flips : List (Nat × Nat)} {parity : Bool} {s : State} (live : s.bar2Live = true)
    (serves : s.tileHolds (s.bar2Addr off) = false) :
    doBar2Read off len flips parity s = serveBar2Read (s.bar2Addr off) len parity (flipSymbols (s.bar2Addr off) flips s) := by
  simp only [doBar2Read, live, Bool.not_true, Bool.false_eq_true, if_false, tileHolds_flipSymbols, serves]

theorem doBar2Read_held {off len : Nat} {flips : List (Nat × Nat)} {parity : Bool} {s : State} (live : s.bar2Live = true)
    (holds : s.tileHolds (s.bar2Addr off) = true) :
    doBar2Read off len flips parity s = holdRequest (s.bar2Addr off) (.bar2Read (s.bar2Addr off) len parity)
      (flipSymbols (s.bar2Addr off) flips s) := by
  simp only [doBar2Read, live, Bool.not_true, Bool.false_eq_true, if_false, tileHolds_flipSymbols, holds, if_true]

theorem doBar2Read_dead {off len : Nat} {flips : List (Nat × Nat)} {parity : Bool} {s : State} (up : s.keeperUp = true)
    (dead : s.bar2Live = false) :
    doBar2Read off len flips parity s = emit .unsupportedRequest (bar2Unsupported 0 off len s) := by
  simp only [doBar2Read, dead, up, Bool.not_false, if_true]

theorem doBar2Write_dead {off : Nat} {bytes : List Nat} {enabled parity : Bool} {s : State} (up : s.keeperUp = true)
    (dead : s.bar2Live = false) : doBar2Write off bytes enabled parity s = bar2Unsupported 1 off bytes.length s := by
  simp only [doBar2Write, dead, up, Bool.not_false, if_true]

theorem doBar2Write_narrow {off : Nat} {bytes : List Nat} {enabled parity : Bool} {s : State} (live : s.bar2Live = true)
    (narrow : bar2Narrow off bytes enabled = true) (unlocked : s.lockedSpan (s.bar2Addr off) bytes.length = false) :
    doBar2Write off bytes enabled parity s = narrowWrite 3 0 (s.bar2Addr off) s := by
  simp only [doBar2Write, live, narrow, unlocked, Bool.not_true, Bool.false_eq_true, if_false, if_true]

/-- A served read leaves the bytes of device memory and the cores. -/
theorem serveBar2Read_frame (a len : Nat) (parity : Bool) (s : State) :
    (serveBar2Read a len parity s).mem.dram = s.mem.dram ∧ (serveBar2Read a len parity s).mem.check = s.mem.check ∧
      (serveBar2Read a len parity s).cores = s.cores := by
  have free : false = false := rfl
  have kept : Keeps (Untouched.allBut [.reports, .hif, .mem, .net]) s (serveBar2Read a len parity s) :=
    serveBar2Read_keeps a len parity s (Keeps.refl s)
  exact ⟨(kept.stacked rfl).1, (kept.stacked rfl).2, cores_of_keeps kept rfl rfl⟩

/-! ## CXL.mem (R299, R303) -/

/-- A line that a window holds, read while the device is not HALTED: the errors come in, then ownership decides. -/
theorem cxlRead_in_window {hpa i : Nat} {flips : List (Nat × Nat)} {parity : Bool} {s : State} (runs : s.kpr.state ≠ .halted)
    (window : s.winAt hpa = some i) :
    cxlRead hpa flips parity s =
      if (s.window i).deviceOwned then ownedRead i (s.winAddr i hpa) (flipSymbols (s.winAddr i hpa) flips s)
      else if s.tileHolds (s.winAddr i hpa) then
        holdRequest (s.winAddr i hpa) (.cxlRead (s.winAddr i hpa) parity) (flipSymbols (s.winAddr i hpa) flips s)
      else serveCxlRead (s.winAddr i hpa) parity (flipSymbols (s.winAddr i hpa) flips s) := by
  have sameWindow : (flipSymbols (s.winAddr i hpa) flips s).window i = s.window i := by
    obtain ⟨_, _, eq⟩ := flipSymbols_onlyBytes (s.winAddr i hpa) flips s
    rw [eq]
    rfl
  simp only [cxlRead, runs, if_false, window, sameWindow, tileHolds_flipSymbols]

theorem cxlRead_served {hpa i : Nat} {flips : List (Nat × Nat)} {parity : Bool} {s : State} (runs : s.kpr.state ≠ .halted)
    (window : s.winAt hpa = some i) (owned : (s.window i).deviceOwned = false)
    (serves : s.tileHolds (s.winAddr i hpa) = false) :
    cxlRead hpa flips parity s = serveCxlRead (s.winAddr i hpa) parity (flipSymbols (s.winAddr i hpa) flips s) := by
  rw [cxlRead_in_window runs window, owned, serves, if_neg Bool.false_ne_true, if_neg Bool.false_ne_true]

theorem cxlRead_owned {hpa i : Nat} {parity : Bool} {s : State} (runs : s.kpr.state ≠ .halted)
    (window : s.winAt hpa = some i) (owned : (s.window i).deviceOwned = true) :
    cxlRead hpa [] parity s = ownedRead i (s.winAddr i hpa) s := by
  rw [cxlRead_in_window runs window, owned, if_pos rfl]
  rfl

theorem serveCxlRead_data {a : Nat} {parity : Bool} {s t : State} {d : List Nat}
    (read : readBytes { code := 4, source := 0, unit := some hostEndpoint } parity a 64 s = (.data d, t)) :
    serveCxlRead a parity s = emit (.data d) t := by
  rw [serveCxlRead, read]

theorem serveCxlRead_error {a c : Nat} {parity : Bool} {s t : State}
    (read : readBytes { code := 4, source := 0, unit := some hostEndpoint } parity a 64 s = (.error c, t)) :
    serveCxlRead a parity s = emit .poison t := by
  rw [serveCxlRead, read]

theorem cxlRead_outside {hpa : Nat} {flips : List (Nat × Nat)} {parity : Bool} {s : State} (runs : s.kpr.state ≠ .halted)
    (outside : s.winAt hpa = none) : cxlRead hpa flips parity s = s := by
  simp only [cxlRead, runs, if_false, outside]

theorem cxlRead_halted {hpa : Nat} {flips : List (Nat × Nat)} {parity : Bool} {s : State} (halted : s.kpr.state = .halted) :
    cxlRead hpa flips parity s = emit .poison s := by
  simp only [cxlRead, halted, if_true]

theorem cxlWrite_outside {hpa : Nat} {parts : Nat → Option (List (Nat × List Nat))} {poison parity : Bool} {s : State}
    (runs : s.kpr.state ≠ .halted) (outside : s.winAt hpa = none) : cxlWrite hpa parts poison parity s = s := by
  simp only [cxlWrite, runs, if_false, outside]

theorem cxlWrite_halted {hpa : Nat} {parts : Nat → Option (List (Nat × List Nat))} {poison parity : Bool} {s : State}
    (halted : s.kpr.state = .halted) : cxlWrite hpa parts poison parity s = emit .done s := by
  simp only [cxlWrite, halted, if_true]

/-- The window takes no write: it is device-owned or moves to the device (Table 13.10). -/
theorem cxlWrite_owned {hpa i : Nat} {parts : Nat → Option (List (Nat × List Nat))} {poison parity : Bool} {s : State}
    (runs : s.kpr.state ≠ .halted) (window : s.winAt hpa = some i)
    (closed : (s.window i).deviceOwned = true ∨ (s.window i).owner = 2) :
    cxlWrite hpa parts poison parity s = ownedWrite i (s.winAddr i hpa) s := by
  have discards : ((s.window i).deviceOwned || decide ((s.window i).owner = 2)) = true := by simpa using closed
  simp only [cxlWrite, runs, if_false, window, discards, if_true]

/-- The window is the host's: the write goes by poison, by its byte enables and by its tile. -/
theorem cxlWrite_open {hpa i : Nat} {parts : Nat → Option (List (Nat × List Nat))} {poison parity : Bool} {s : State}
    (runs : s.kpr.state ≠ .halted) (window : s.winAt hpa = some i) (host : (s.window i).owner = 0) :
    cxlWrite hpa parts poison parity s =
      if poison then emit .done (poisonedWrite (s.winAddr i hpa) s)
      else match parts (s.winAddr i hpa) with
        | none => emit .done (if s.lockedSpan (s.winAddr i hpa) 64 then stagingDiscard (s.winAddr i hpa) s
            else narrowWrite 4 0 (s.winAddr i hpa) s)
        | some l => if s.tileHolds (s.winAddr i hpa) then holdRequest (s.winAddr i hpa) (.cxlWrite (s.winAddr i hpa) l parity) s
            else emit .done (writeParts parity l s) := by
  have takes : ((s.window i).deviceOwned || decide ((s.window i).owner = 2)) = false := by simp [Win.deviceOwned, host]
  simp only [cxlWrite, runs, if_false, window, takes, Bool.false_eq_true] <;> rfl

theorem cxlWrite_poisoned {hpa i : Nat} {parts : Nat → Option (List (Nat × List Nat))} {parity : Bool} {s : State}
    (runs : s.kpr.state ≠ .halted) (window : s.winAt hpa = some i) (host : (s.window i).owner = 0) :
    cxlWrite hpa parts true parity s = emit .done (poisonedWrite (s.winAddr i hpa) s) := by
  rw [cxlWrite_open runs window host, if_pos rfl]

/-- One span of whole code words that nothing stands in the way of is stored. -/
theorem cxlWrite_stores {hpa i a n : Nat} {bytes : List Nat} {parts : Nat → Option (List (Nat × List Nat))} {s : State}
    (runs : s.kpr.state ≠ .halted) (window : s.winAt hpa = some i) (host : (s.window i).owner = 0)
    (span : parts (s.winAddr i hpa) = some [(a, bytes)]) (length : bytes.length = 32 * n)
    (serves : s.tileHolds (s.winAddr i hpa) = false) (path : s.mem.dpBad = []) (unlocked : s.lockedIn a n = false)
    (open_ : s.blockedIn a n = none) :
    ∃ net, cxlWrite hpa parts false false s = emit .done (storeWords n a bytes { s with net := net }) := by
  have count : bytes.length / 32 = n := by omega
  obtain ⟨net, write⟩ := writeBytes_stores { code := 4, source := 0, unit := some hostEndpoint } path (count ▸ unlocked)
    (count ▸ open_)
  refine ⟨net, ?_⟩
  have part : writeParts false [(a, bytes)] s = storeWords n a bytes { s with net := net } := by
    simp only [writeParts, write, count]
  rw [cxlWrite_open runs window host, if_neg Bool.false_ne_true, span]
  simp only [serves, Bool.false_eq_true, if_false, part]

/-- What a write of whole code words leaves: the bytes, its answer, the host interface and the cores. -/
theorem emit_storeWords {a n : Nat} {bytes : List Nat} (s : State) (net : NetBlk) (length : bytes.length = 32 * n) :
    (emit .done (storeWords n a bytes { s with net := net })).mem.dram = memPutBytes s.mem.dram a bytes ∧
      (emit .done (storeWords n a bytes { s with net := net })).out = .done :: s.out ∧
      (emit .done (storeWords n a bytes { s with net := net })).hif = s.hif ∧
      (emit .done (storeWords n a bytes { s with net := net })).cores = s.cores := by
  obtain ⟨dram, check, rows, frame⟩ := storeWords_frame n a bytes { s with net := net }
  have stored := storeWords_dram a { s with net := net } length
  rw [emit_mem, stored, emit_out, emit_hif, emit_cores, frame]
  exact ⟨rfl, rfl, rfl, rfl⟩

theorem ownedRead_records (i a : Nat) (s : State) : (ownedRead i a s).out = .poison :: s.out ∧
    (ownedRead i a s).hif.poisonReturned = satAdd 12 s.hif.poisonReturned 1 ∧ (ownedRead i a s).hif.errKind = 2 ∧
    (ownedRead i a s).hif.errWindow = i ∧ (ownedRead i a s).mem = s.mem ∧ (ownedRead i a s).hif.win = s.hif.win :=
  ⟨rfl, rfl, rfl, rfl, rfl, rfl⟩

theorem ownedWrite_records (i a : Nat) (s : State) : (ownedWrite i a s).mem = s.mem ∧
    (ownedWrite i a s).out.head? = some .done ∧
    (ownedWrite i a s).hif.ownedDiscards = satAdd 12 s.hif.ownedDiscards 1 ∧ (ownedWrite i a s).hif.errKind = 1 ∧
    (ownedWrite i a s).hif.win = s.hif.win := by
  simp only [ownedWrite, discardEvent]
  split <;> simp [lastErr]

theorem poisonedWrite_records (a : Nat) (s : State) : (poisonedWrite a s).hif.aer = s.hif.aer ∧
    (poisonedWrite a s).hif.poisonedIn = satAdd 16 s.hif.poisonedIn 1 ∧ (poisonedWrite a s).hif.errKind = 5 ∧
    (poisonedWrite a s).mem = s.mem ∧ (poisonedWrite a s).cores = s.cores := by
  simp [poisonedWrite, lastErr]

/-- A poisoned write through a BAR is counted and recorded (R304). -/
theorem exec_poisonedTlp {bar off : Nat} {s : State} (which : bar = 0 ∨ bar = 2 ∨ bar = 4) (inside : off < barSize bar)
    (powered : s.powered = true) (up : s.hostUp = true) :
    exec (.poisonedTlp bar off) s = .next (poisonedWrite (if bar = 2 then s.bar2Addr off else off)
      (aerError aerPoisoned (aerHeader 1 off 0) s)) := by
  change onUnit (bar = 0 ∨ bar = 2 ∨ bar = 4) (doPoisonedTlp bar (off % barSize bar) s) = _
  simp only [onUnit, if_pos which, Nat.mod_eq_of_lt inside, doPoisonedTlp, powered, up, Bool.and_self, if_true]

/-- A line of 64 bytes is taken as it is. -/
theorem memwr_span {bytes : List Nat} (length : bytes.length = 64) (a : Nat) :
    (fun a => some [(a, lineBytes bytes)]) a = some [(a, bytes)] := by
  simp only [lineBytes, slice_all length]

/-- With the upper half enabled the second code word of the line is written. -/
theorem enabledHalves_upper {bytes : List Nat} (length : bytes.length = 64) (a : Nat) :
    enabledHalves bytes (2 ^ 64 - 2 ^ 32) a = some [(a + 32, bytes.drop 32)] := by
  have lower : halfEnabled (2 ^ 64 - 2 ^ 32) 0 = some false := by decide
  have upper : halfEnabled (2 ^ 64 - 2 ^ 32) 1 = some true := by decide
  have rest : slice bytes 32 32 = bytes.drop 32 := by
    have all := slice_all (l := bytes.drop 32) (n := 32) (by rw [List.length_drop]; omega)
    exact all
  rw [enabledHalves, lower, upper, rest]
  rfl

/-- Settles O42: BAR2 and CXL.mem serve, hold or discard a request by ownership, width and tile; what is stored are the
bytes of whole code words. -/
theorem hostReachesMemory : Obligations.HostReachesMemory := by
  unfold Obligations.HostReachesMemory
  refine ⟨?deadRead, ?deadWrite, ?data, ?frame, ?abort, ?store, ?narrow, ?held, ?cxlData, ?cxlPoison, ?owned, ?ownedRecords,
    ?memwr, ?ownedWr, ?ownedPtl, ?upper, ?narrowPtl, ?poisoned, ?outside, ?halted, ?spec, ?poisonedTlp⟩
  case deadRead =>
    intro s off len fl pa some_ short inside up dead
    obtain ⟨count, kind, addr, mem⟩ := bar2Unsupported_records 0 off len s
    exact ⟨_, (exec_bar2Read fl pa s some_ short inside).trans (congrArg _ (doBar2Read_dead up dead)), rfl, count, kind, addr, mem⟩
  case deadWrite =>
    intro s off bytes en pa some_ short inside up dead
    rw [exec_bar2Write en pa s some_ short inside, doBar2Write_dead up dead, length_toBytes]
  case data =>
    intro s s2 off len d fl pa some_ short inside live serves read
    rw [exec_bar2Read fl pa s some_ short inside, doBar2Read_serves live serves, serveBar2Read_data read]
  case frame =>
    intro s off len pa some_ short inside live serves
    refine ⟨_, exec_bar2Read [] pa s some_ short inside, ?_⟩
    rw [doBar2Read_serves live serves]
    exact serveBar2Read_frame _ _ _ _
  case abort =>
    intro s s2 off len c fl pa some_ short inside live serves read
    rw [exec_bar2Read fl pa s some_ short inside, doBar2Read_serves live serves, serveBar2Read_error read]
  case store =>
    intro s off bytes some_ short inside live aligned whole serves path unlocked open_
    obtain ⟨net, stored⟩ := doBar2Write_stores (bytes := toBytes bytes) live aligned (by rwa [length_toBytes]) serves path
      (by rwa [length_toBytes]) (by rwa [length_toBytes])
    have length : (toBytes bytes).length = 32 * ((toBytes bytes).length / 32) := by rw [length_toBytes]; omega
    have dram := storeWords_dram (s.bar2Addr off) { s with net := net } length
    rw [memPutBytes_toBytes] at dram
    obtain ⟨_, _, _, frame⟩ := storeWords_frame ((toBytes bytes).length / 32) (s.bar2Addr off) (toBytes bytes) { s with net := net }
    refine ⟨_, (exec_bar2Write true false s some_ short inside).trans (congrArg _ stored), dram, ?_⟩
    rw [frame]
    exact ⟨rfl, rfl, rfl, rfl⟩
  case narrow =>
    intro s off bytes en pa some_ short inside live partly unlocked
    have narrow : bar2Narrow off (toBytes bytes) en = true := by
      simpa [bar2Narrow, or_assoc] using partly
    have discarded := doBar2Write_narrow (bytes := toBytes bytes) (parity := pa) live narrow (by rwa [length_toBytes])
    exact ⟨_, (exec_bar2Write en pa s some_ short inside).trans (congrArg _ discarded), rfl, narrowWrite_records 3 0 _ s⟩
  case held =>
    intro s off len fl pa some_ short inside live holds
    rw [exec_bar2Read fl pa s some_ short inside, doBar2Read_held live holds]
  case cxlData =>
    intro s s2 i hpa d fl pa runs window owned serves read
    have served := (cxlRead_served (parity := pa) (flips := fl) runs window owned serves).trans (serveCxlRead_data read)
    exact ⟨congrArg Host.Outcome.next served, congrArg Host.Outcome.next served⟩
  case cxlPoison =>
    intro s s2 i hpa c fl pa runs window owned serves read
    have served := (cxlRead_served (parity := pa) (flips := fl) runs window owned serves).trans (serveCxlRead_error read)
    exact ⟨congrArg Host.Outcome.next served, congrArg Host.Outcome.next served⟩
  case owned =>
    intro s i hpa pa runs window owned
    have poison := cxlRead_owned (parity := pa) runs window owned
    exact ⟨congrArg Host.Outcome.next poison, congrArg Host.Outcome.next poison⟩
  case ownedRecords =>
    intro s i hpa runs window owned
    have poison := cxlRead_owned (parity := false) runs window owned
    exact ⟨_, congrArg Host.Outcome.next poison, rfl, rfl, rfl, rfl, rfl⟩
  case memwr =>
    intro s i hpa bytes runs window host length serves path unlocked open_
    obtain ⟨net, stored⟩ := cxlWrite_stores (parts := fun a => some [(a, lineBytes bytes)]) runs window host
      (memwr_span length _) length serves path unlocked open_
    exact ⟨_, congrArg Host.Outcome.next stored, emit_storeWords s net length⟩
  case ownedWr =>
    intro s i hpa bytes po pa runs window closed
    have discarded := cxlWrite_owned (parts := fun a => some [(a, lineBytes bytes)]) (poison := po) (parity := pa) runs window closed
    obtain ⟨mem, done, count, kind, -⟩ := ownedWrite_records i (s.winAddr i (hpa / 64 * 64)) s
    exact ⟨_, congrArg Host.Outcome.next discarded, rfl, mem, done, count, kind⟩
  case ownedPtl =>
    intro s i hpa mask bytes po pa runs window closed
    exact congrArg Host.Outcome.next
      (cxlWrite_owned (parts := enabledHalves bytes mask) (poison := po) (parity := pa) runs window closed)
  case upper =>
    intro s i hpa bytes runs window host length serves path unlocked open_
    have half : (bytes.drop 32).length = 32 * 1 := by rw [List.length_drop]; omega
    obtain ⟨net, stored⟩ := cxlWrite_stores runs window host (enabledHalves_upper length _) half serves path unlocked open_
    obtain ⟨dram, done, -, cores⟩ := emit_storeWords (a := s.winAddr i (hpa / 64 * 64) + 32) s net half
    exact ⟨_, congrArg Host.Outcome.next stored, dram, done, cores⟩
  case narrowPtl =>
    intro s i hpa mask bytes pa runs window host partly unlocked
    have discarded : cxlWrite (hpa / 64 * 64) (enabledHalves bytes mask) false pa s =
        emit .done (narrowWrite 4 0 (s.winAddr i (hpa / 64 * 64)) s) := by
      rw [cxlWrite_open runs window host, if_neg Bool.false_ne_true, partly, unlocked]
      rfl
    exact congrArg Host.Outcome.next discarded
  case poisoned =>
    intro s i hpa bytes mask pa runs window host
    exact ⟨congrArg Host.Outcome.next (cxlWrite_poisoned runs window host),
      congrArg Host.Outcome.next (cxlWrite_poisoned runs window host)⟩
  case outside =>
    intro s hpa mask bytes fl po pa runs outside
    exact ⟨congrArg Host.Outcome.next (cxlRead_outside runs outside), congrArg Host.Outcome.next (cxlRead_outside runs outside),
      congrArg Host.Outcome.next (cxlWrite_outside runs outside), congrArg Host.Outcome.next (cxlWrite_outside runs outside)⟩
  case halted =>
    intro s hpa mask bytes fl po pa halted
    exact ⟨congrArg Host.Outcome.next (cxlRead_halted halted), congrArg Host.Outcome.next (cxlRead_halted halted),
      congrArg Host.Outcome.next (cxlWrite_halted halted), congrArg Host.Outcome.next (cxlWrite_halted halted)⟩
  case spec => exact fun s hpa => rfl
  case poisonedTlp =>
    intro s bar off place powered up
    have which : bar = 0 ∨ bar = 2 ∨ bar = 4 := by omega
    have inside : off < barSize bar := by
      obtain ⟨rfl, h⟩ | ⟨rfl, h⟩ | ⟨rfl, h⟩ := place <;> exact h
    obtain ⟨aer, count, kind, mem, cores⟩ := poisonedWrite_records (if bar = 2 then s.bar2Addr off else off)
      (aerError aerPoisoned (aerHeader 1 off 0) s)
    obtain ⟨_, hif⟩ := aerError_hif aerPoisoned (aerHeader 1 off 0) s
    refine ⟨_, exec_poisonedTlp which inside powered up, ?_, ?_, kind, mem.trans (aerError_mem ..), cores.trans (aerError_cores ..)⟩
    · rw [aer, aerError_status]
    · rw [count, hif]

/-! ## Windows and hand-overs (R300 to R302) -/

/-- A value whose bits are all writable fits the mask of a register. -/
theorem fits_mask {v rw ro : Nat} (writable : v &&& rw = v) (small : v < 2 ^ 64) :
    v &&& ((2 ^ 64 - 1) ^^^ (rw ||| ro)) = 0 := by
  refine Nat.eq_of_testBit_eq fun i => ?_
  rw [Nat.testBit_and, Nat.zero_testBit, Nat.testBit_xor, Nat.testBit_two_pow_sub_one, Nat.testBit_or]
  by_cases set : v.testBit i = true
  · have inside : i < 64 := by
      refine Nat.lt_of_not_ge fun beyond => ?_
      have none_ := Nat.testBit_lt_two_pow (Nat.lt_of_lt_of_le small (Nat.pow_le_pow_right (by decide) beyond))
      exact absurd set (by simp [none_])
    have both := congrArg (fun x => x.testBit i) writable
    simp only [Nat.testBit_and, set, Bool.true_and] at both
    simp [inside, both]
  · simp [set]

/-- Bits 1 and 0 and the striped bit are what a write of `HIF.WIN[i]` may set. -/
theorem window_value_fits (striped : Bool) {k : Nat} (small : k < 4) (ro : Nat) :
    (256 * b2n striped + k) &&& ((2 ^ 64 - 1) ^^^ (0x103 ||| ro)) = 0 := by
  have both : ∀ b : Bool, ∀ k < 4, (256 * b2n b + k) &&& 0x103 = 256 * b2n b + k := by decide
  refine fits_mask (both striped k small) ?_
  have := Bool.toNat_lt striped
  cases striped <;> simp only [b2n, if_true, Bool.false_eq_true, if_false] <;> omega

theorem bit_eight_window : ∀ (striped : Bool) (k : Nat), k < 4 → bit (256 * b2n striped + k) 8 = striped := by decide

theorem bits_of_window : ∀ (striped : Bool) (k : Nat), k < 4 →
    bit (256 * b2n striped + k) 0 = bit k 0 ∧ bit (256 * b2n striped + k) 1 = bit k 1 := by decide

/-- A write of `HIF.WIN[i]` that sets neither or one of the two hand-over bits runs the body of the register. -/
theorem writeWin_value (i : Nat) (striped : Bool) {k : Nat} (small : k < 4) {s : State} (up : s.hostUp = true) :
    writeWin i (256 * b2n striped + k) s =
      if !s.inStates memStates then refuse (0x500100 + 8 * i) (256 * b2n striped + k) 0x0120 s
      else if bit k 0 || bit k 1 then
        if bit k 0 && bit k 1 then refuse (0x500100 + 8 * i) (256 * b2n striped + k) 0x0120 s
        else if !s.inStates [.ready, .running, .suspended] || !(s.window i).committed || striped != (s.window i).striped then
          refuse (0x500100 + 8 * i) (256 * b2n striped + k) 0x0120 s
        else if bit k 0 then (if (s.window i).owner = 0 then setWin i (fun w => { w with owner := 2 }) s
          else refuse (0x500100 + 8 * i) (256 * b2n striped + k) 0x0120 s)
        else (if (s.window i).owner = 1 then setWin i (fun w => { w with owner := 3 }) s
          else refuse (0x500100 + 8 * i) (256 * b2n striped + k) 0x0120 s)
      else if (s.window i).committed then refuse (0x500100 + 8 * i) (256 * b2n striped + k) 0x0120 s
      else setWin i (fun w => { w with striped := striped }) s := by
  obtain ⟨zero, one⟩ := bits_of_window striped k small
  simp only [writeWin]
  rw [regWrite_runs up (window_value_fits striped small _)]
  simp only [zero, one, bit_eight_window striped k small]

theorem exec_toDevice {i : Nat} (striped : Bool) {k : Nat} (which : i < 4) (small : k < 4) (s : State) :
    exec (.toDevice i (256 * b2n striped + k)) s = .next (writeWin i (256 * b2n striped + 1) s) := by
  change onUnit (i < 4) (writeWin i ((256 * b2n striped + k) % 2 ^ 64 / 4 * 4 + 1) s) = _
  have value : ∀ b : Bool, ∀ k < 4, (256 * b2n b + k) % 2 ^ 64 / 4 * 4 + 1 = 256 * b2n b + 1 := by decide
  rw [value striped k small, onUnit, if_pos which]

theorem exec_toHost {i : Nat} (striped : Bool) {k : Nat} (which : i < 4) (small : k < 4) (s : State) :
    exec (.toHost i (256 * b2n striped + k)) s = .next (writeWin i (256 * b2n striped + 2) s) := by
  change onUnit (i < 4) (writeWin i ((256 * b2n striped + k) % 2 ^ 64 / 4 * 4 + 2) s) = _
  have value : ∀ b : Bool, ∀ k < 4, (256 * b2n b + k) % 2 ^ 64 / 4 * 4 + 2 = 256 * b2n b + 2 := by decide
  rw [value striped k small, onUnit, if_pos which]

/-- The states that take a hand-over are among those in which device memory is open. -/
theorem inStates_mem_of_handover {s : State} (h : s.inStates [.ready, .running, .suspended] = true) :
    s.inStates memStates = true := by
  simp only [State.inStates, memStates, List.any_cons, List.any_nil, Bool.or_false, Bool.or_eq_true] at h ⊢
  exact h.imp_right .inr

/-- A hand-over that its state, its window or its owner does not allow is refused. -/
theorem writeWin_refuses {i : Nat} (striped : Bool) {k : Nat} (which : k = 1 ∨ k = 2) {s : State} (up : s.hostUp = true)
    (barred : s.inStates [.ready, .running, .suspended] = false ∨ (s.window i).committed = false ∨
      striped ≠ (s.window i).striped ∨ (s.window i).owner ≠ k - 1) :
    writeWin i (256 * b2n striped + k) s = refuse (0x500100 + 8 * i) (256 * b2n striped + k) 0x0120 s := by
  have zero : bit 1 0 = true ∧ bit 1 1 = false ∧ bit 2 0 = false ∧ bit 2 1 = true := by decide
  rw [writeWin_value i striped (by omega) up]
  obtain rfl | rfl := which <;> simp only [zero, Bool.or_true, Bool.true_or, if_true, Bool.and_false, Bool.and_true,
    Bool.false_eq_true, if_false, ite_eq_left_iff] <;> intro _ closed <;> simp at closed <;>
    exact if_neg (by simpa [closed] using barred)

theorem writeReg_window {i : Nat} (which : i < 4) (v : Nat) (s : State) : writeReg (0x500100 + 8 * i) v s = writeWin i v s := by
  match i, which with
  | 0, _ => rfl
  | 1, _ => rfl
  | 2, _ => rfl
  | 3, _ => rfl

/-- A window that was set alone differs from the others. -/
theorem window_setWin_other {i j : Nat} (f : Win → Win) (s : State) (ne : j ≠ i) : (setWin i f s).window j = s.window j := by
  rw [State.window, setWin]
  exact nth_setNth_other {} s.hif.win _ ne

theorem window_setWin_same {i : Nat} (f : Win → Win) (s : State) (inside : i < s.hif.win.length) :
    (setWin i f s).window i = f (s.window i) := by
  rw [State.window, setWin]
  exact nth_setNth_same {} _ inside

/-- A decoder that may commit gives a host-owned window. -/
theorem exec_hdmDecoderCommit {i hpa dpa size : Nat} (lock : Bool) {s : State} (which : i < 4) (hpaFits : hpa < 2 ^ 64)
    (dpaFits : dpa < 2 ^ 64) (sizeFits : size < 2 ^ 64) (powered : s.powered = true) (free : (s.window i).committed = false)
    (may : s.canCommit i dpa size 1 = true) :
    exec (.hdmDecoderCommit i hpa dpa size 1 lock) s = .next (setWin i (fun w => { w with
      committed := true, owner := 0, hpa := hpa, dpa := dpa, size := size, error := false, lock := lock }) s) := by
  change onUnit (i < 4) (doHdmDecoderCommit i (hpa % 2 ^ 64) (dpa % 2 ^ 64) (size % 2 ^ 64) 1 lock s) = _
  rw [Nat.mod_eq_of_lt hpaFits, Nat.mod_eq_of_lt dpaFits, Nat.mod_eq_of_lt sizeFits, onUnit, if_pos which]
  simp only [doHdmDecoderCommit, powered, free, may, Bool.not_true, Bool.or_self, Bool.false_eq_true, if_false, if_true]

/-- Settles O57: a hand-over needs its state, a committed window of its owner and the striped bit as it stands; while it
runs the owner in force decides on reads, and no write is taken. -/
theorem handOversAreCommands : Obligations.HandOversAreCommands := by
  unfold Obligations.HandOversAreCommands
  have bits : bit 1 0 = true ∧ bit 1 1 = false ∧ bit 2 0 = false ∧ bit 2 1 = true ∧ bit 3 0 = true ∧ bit 3 1 = true := by decide
  refine ⟨?toDevice, ?toHost, ?noDevice, ?noHost, ?striped, ?both, ?down, ?reads, ?poison, ?writes, ?uncommit, ?commit⟩
  case toDevice =>
    intro s i k which _ up small state committed owner
    rw [exec_toDevice _ which small, writeWin_value i _ (by decide) up]
    simp [bits, state, inStates_mem_of_handover state, committed, owner]
  case toHost =>
    intro s i k which _ up small state committed owner
    rw [exec_toHost _ which small, writeWin_value i _ (by decide) up]
    simp [bits, state, inStates_mem_of_handover state, committed, owner]
  case noDevice =>
    intro s i which _ up barred
    have written := exec_toDevice (i := i) (s.window i).striped (k := 0) which (by decide) s
    rw [Nat.add_zero] at written
    rw [written, writeWin_refuses _ (.inl rfl) up (barred.imp_right fun other => other.imp_right .inr)]
  case noHost =>
    intro s i which _ up barred
    have written := exec_toHost (i := i) (s.window i).striped (k := 0) which (by decide) s
    rw [Nat.add_zero] at written
    rw [written, writeWin_refuses _ (.inr rfl) up (barred.imp_right fun other => other.imp_right .inr)]
  case striped =>
    intro s i which _ up _
    have differs : (!(s.window i).striped) ≠ (s.window i).striped := by simp
    have device := exec_toDevice (i := i) (!(s.window i).striped) (k := 0) which (by decide) s
    have host := exec_toHost (i := i) (!(s.window i).striped) (k := 0) which (by decide) s
    rw [Nat.add_zero] at device host
    rw [device, host, writeWin_refuses _ (.inl rfl) up (.inr (.inr (.inl differs))),
      writeWin_refuses _ (.inr rfl) up (.inr (.inr (.inl differs)))]
    exact ⟨rfl, rfl⟩
  case both =>
    intro s i which _ up
    have small : 256 * b2n (s.window i).striped + 3 < 2 ^ 64 := by
      cases (s.window i).striped <;> decide
    rw [exec_registerWrite_eight up (by omega) (by omega) small, writeReg_window which, writeWin_value i _ (by decide) up]
    simp [bits]
  case down =>
    intro s i v which down
    constructor
    · change onUnit (i < 4) (writeWin i _ s) = _
      rw [onUnit, if_pos which, writeWin, regWrite_down down]
    · change onUnit (i < 4) (writeWin i _ s) = _
      rw [onUnit, if_pos which, writeWin, regWrite_down down]
  case reads =>
    intro s s2 i hpa d runs window owner serves read
    have host : (s.window i).deviceOwned = false := by simp [Win.deviceOwned, owner]
    exact congrArg Host.Outcome.next ((cxlRead_served (flips := []) runs window host serves).trans (serveCxlRead_data read))
  case poison =>
    intro s i hpa runs window owner
    have device : (s.window i).deviceOwned = true := by simp [Win.deviceOwned, owner]
    exact ⟨_, congrArg Host.Outcome.next (cxlRead_owned runs window device), rfl, rfl, rfl⟩
  case writes =>
    intro s i hpa b runs window owner
    have closed : (s.window i).deviceOwned = true ∨ (s.window i).owner = 2 :=
      owner.elim .inr fun three => .inl (by simp [Win.deviceOwned, three])
    have discarded := cxlWrite_owned (parts := fun a => some [(a, lineBytes b)]) (poison := false) (parity := false) runs window closed
    obtain ⟨mem, -, count, -, win⟩ := ownedWrite_records i (s.winAddr i (hpa / 64 * 64)) s
    exact ⟨_, congrArg Host.Outcome.next discarded, mem, win, count⟩
  case uncommit =>
    intro s i which powered committed unlocked
    change onUnit (i < 4) (doHdmDecoderUncommit i s) = _
    simp only [onUnit, if_pos which, doHdmDecoderUncommit, powered, committed, unlocked, Bool.not_false, Bool.and_self, if_true]
  case commit =>
    intro s i hpa dpa size which four hpaFits dpaFits sizeFits powered free may
    have same := window_setWin_same (fun w => { w with
      committed := true, owner := 0, hpa := hpa, dpa := dpa, size := size, error := false, lock := false }) s (four ▸ which)
    refine ⟨_, exec_hdmDecoderCommit false which hpaFits dpaFits sizeFits powered free may, ?_, ?_, ?_, fun j ne => window_setWin_other _ s ne⟩
    · rw [same]
    · rw [same]
    · rw [same]

end Sys2Proof.Proofs
end


section
/-! Fences (R15, R20 to R22), and power delivery (chapter 15): power on and off, regulator groups, the limiter and the
averages. -/
namespace Sys2Proof.Proofs
set_option Elab.async false
open Sys2Proof.Machine Sys2Proof.Laws

/-! ## What a fence does to the tables -/

/-- The tables of the floor plan with a fence taken. -/
def takeFence (cause : Nat) (p : FlpBlk) (f : FenceItem) : FlpBlk :=
  if f.kind = 5 then { p with dark := mapSet false p.dark f.unit true }
  else { p with cores := mapMod coreFence0 p.cores f.unit (fun e => e.fenced cause f) }

/-- A unit is fenced in the tables of a floor plan. -/
def fencedIn (p : FlpBlk) (f : FenceItem) : Bool :=
  match f.kind with
  | 1 => if f.sub = 0 then (mapGet coreFence0 p.cores f.unit).pane0 else (mapGet coreFence0 p.cores f.unit).pane1
  | 2 => (mapGet coreFence0 p.cores f.unit).core
  | 3 => (mapGet coreFence0 p.cores f.unit).tile
  | 4 => bit (mapGet coreFence0 p.cores f.unit).banks f.sub
  | _ => mapGet false p.dark f.unit

/-- `fencedIn` reads what the model's test of a unit reads. -/
theorem fencedAlready_eq (s : State) (f : FenceItem) : s.fencedAlready f = fencedIn s.flp f := rfl

theorem paneFenced_eq (s : State) (n p : Nat) : s.paneFenced n p = fencedIn s.flp { kind := 1, unit := n, sub := p } := rfl

theorem coreFenced_eq (s : State) (n : Nat) : s.coreFenced n = fencedIn s.flp { kind := 2, unit := n } := rfl

theorem tileFenced_eq (s : State) (n : Nat) : s.tileFenced n = fencedIn s.flp { kind := 3, unit := n } := rfl

theorem dark_eq (s : State) (r : Nat) : s.dark r = fencedIn s.flp { kind := 5, unit := r } := rfl

theorem fenceTable_flp (cause : Nat) (f : FenceItem) (s : State) : (fenceTable cause f s).flp = takeFence cause s.flp f := by
  unfold fenceTable takeFence
  split <;> rfl

theorem fenceDbg_flp (f : FenceItem) (s : State) : (fenceDbg f s).flp = s.flp := by
  unfold fenceDbg
  split <;> rfl

theorem foldl_fenceTable_flp (cause : Nat) (l : List FenceItem) (s : State) :
    (l.foldl (fun s f => fenceDbg f (fenceTable cause f s)) s).flp = l.foldl (takeFence cause) s.flp := by
  induction l generalizing s with
  | nil => rfl
  | cons f l ih => rw [List.foldl_cons, ih, fenceDbg_flp, fenceTable_flp, List.foldl_cons]

theorem foldl_fenceDelta_tables (gen cause : Nat) (l : List FenceItem) (s : State) :
    (l.foldl (fun s f => fenceDelta gen cause f s) s).flp.cores = s.flp.cores ∧
      (l.foldl (fun s f => fenceDelta gen cause f s) s).flp.dark = s.flp.dark := by
  induction l generalizing s with
  | nil => exact ⟨rfl, rfl⟩
  | cons f l ih => exact ih (fenceDelta gen cause f s)

theorem foldl_raise_flp {α : Type} (kind severity : Nat) (unit : α → Nat) (data : α → List Nat) (l : List α) (s : State) :
    (l.foldl (fun s f => raise kind severity (unit f) (data f) s) s).flp = s.flp := by
  induction l generalizing s with
  | nil => rfl
  | cons f l ih => rw [List.foldl_cons, ih, raise_flp]

/-- Fencing units takes each one that is not fenced yet into the tables; the delta log and the events are beside them. -/
theorem fenceUnits_tables (cause : Nat) (l : List FenceItem) (s : State) :
    (fenceUnits cause l s).flp.cores = ((l.filter (fun f => !s.fencedAlready f)).foldl (takeFence cause) s.flp).cores ∧
      (fenceUnits cause l s).flp.dark = ((l.filter (fun f => !s.fencedAlready f)).foldl (takeFence cause) s.flp).dark := by
  simp only [fenceUnits]
  generalize l.filter (fun f => !s.fencedAlready f) = fresh
  have tables := foldl_fenceTable_flp cause fresh s
  split
  case isTrue none_ =>
    rw [List.isEmpty_iff.1 none_]
    exact ⟨rfl, rfl⟩
  case isFalse =>
    split
    · exact ⟨congrArg FlpBlk.cores tables, congrArg FlpBlk.dark tables⟩
    · split
      all_goals
        simp only [raise_flp, foldl_raise_flp, foldl_fenceDelta_tables, tables]
        exact ⟨trivial, trivial⟩

theorem bit_eq_testBit (v i : Nat) : bit v i = v.testBit i := by
  rw [bit, Nat.testBit_eq_decide_div_mod_eq]
  rfl

/-- The unit that is fenced reads fenced. -/
theorem fencedIn_takeFence_same (cause : Nat) (p : FlpBlk) {f : FenceItem} (kind : 1 ≤ f.kind ∧ f.kind ≤ 5) :
    fencedIn (takeFence cause p f) f = true := by
  obtain ⟨k, unit, sub⟩ := f
  have five : k = 1 ∨ k = 2 ∨ k = 3 ∨ k = 4 ∨ k = 5 := by simp only at kind; omega
  obtain rfl | rfl | rfl | rfl | rfl := five <;>
    simp only [takeFence, fencedIn, Nat.reduceEqDiff, if_false, mapGet_mapMod_same, mapGet_mapSet_same, CoreFence.fenced, if_true]
  · split <;> rfl
  · simp only [bit_eq_testBit, Nat.testBit_or, Nat.testBit_two_pow_self, Bool.or_true]

/-- The entry of a core keeps every fence it has. -/
theorem fenced_keeps (e : CoreFence) (cause : Nat) (f : FenceItem) :
    (e.pane0 = true → (e.fenced cause f).pane0 = true) ∧ (e.pane1 = true → (e.fenced cause f).pane1 = true) ∧
      (e.core = true → (e.fenced cause f).core = true) ∧ (e.tile = true → (e.fenced cause f).tile = true) ∧
      (∀ b, bit e.banks b = true → bit (e.fenced cause f).banks b = true) := by
  unfold CoreFence.fenced
  split
  · split <;> simp
  · simp
  · simp
  · simp +contextual [bit_eq_testBit]

/-- A unit that is fenced stays so. -/
theorem fencedIn_takeFence_of_fenced {cause : Nat} {p : FlpBlk} {f g : FenceItem} (fenced : fencedIn p g = true) :
    fencedIn (takeFence cause p f) g = true := by
  unfold takeFence
  split
  · revert fenced
    unfold fencedIn
    split <;> simp only [mapGet_mapSet, imp_self]
    intro dark
    rw [dark, ite_self]
  · by_cases here : g.unit = f.unit
    · obtain ⟨pane0, pane1, core, tile, banks⟩ := fenced_keeps (mapGet coreFence0 p.cores f.unit) cause f
      revert fenced
      unfold fencedIn
      split <;> simp only [here, mapGet_mapMod_same, imp_self]
      · split
        · exact pane0
        · exact pane1
      · exact core
      · exact tile
      · exact banks g.sub
    · revert fenced
      unfold fencedIn
      split <;> simp only [mapGet_mapMod_other _ _ _ here, imp_self]

theorem fencedIn_foldl_of_fenced {cause : Nat} (l : List FenceItem) {p : FlpBlk} {g : FenceItem} (fenced : fencedIn p g = true) :
    fencedIn (l.foldl (takeFence cause) p) g = true := by
  induction l generalizing p with
  | nil => exact fenced
  | cons f l ih => exact ih (fencedIn_takeFence_of_fenced fenced)

theorem fencedIn_foldl_of_mem {cause : Nat} {l : List FenceItem} {p : FlpBlk} {f : FenceItem} (here : f ∈ l)
    (kind : 1 ≤ f.kind ∧ f.kind ≤ 5) : fencedIn (l.foldl (takeFence cause) p) f = true := by
  induction l generalizing p with
  | nil => exact absurd here List.not_mem_nil
  | cons g l ih =>
    rcases List.mem_cons.1 here with rfl | inRest
    · exact fencedIn_foldl_of_fenced l (fencedIn_takeFence_same cause p kind)
    · exact ih inRest

theorem fencedIn_congr {p q : FlpBlk} (cores : q.cores = p.cores) (dark : q.dark = p.dark) (f : FenceItem) :
    fencedIn q f = fencedIn p f := by
  simp only [fencedIn, cores, dark]

theorem fencedIn_fenceUnits (cause : Nat) (l : List FenceItem) (s : State) (f : FenceItem) :
    fencedIn (fenceUnits cause l s).flp f = fencedIn ((l.filter (fun f => !s.fencedAlready f)).foldl (takeFence cause) s.flp) f :=
  fencedIn_congr (fenceUnits_tables cause l s).1 (fenceUnits_tables cause l s).2 f

/-- A unit that is fenced stays so. -/
theorem fencedAlready_fenceUnits_of_fenced {cause : Nat} (l : List FenceItem) {s : State} {g : FenceItem}
    (fenced : s.fencedAlready g = true) : (fenceUnits cause l s).fencedAlready g = true := by
  rw [fencedAlready_eq, fencedIn_fenceUnits]
  exact fencedIn_foldl_of_fenced _ fenced

/-- Every unit of the list is fenced in the end. -/
theorem fencedAlready_fenceUnits_of_mem {cause : Nat} {l : List FenceItem} {s : State} {f : FenceItem} (here : f ∈ l)
    (kind : 1 ≤ f.kind ∧ f.kind ≤ 5) : (fenceUnits cause l s).fencedAlready f = true := by
  by_cases fenced : s.fencedAlready f = true
  · exact fencedAlready_fenceUnits_of_fenced l fenced
  · rw [fencedAlready_eq, fencedIn_fenceUnits]
    exact fencedIn_foldl_of_mem (List.mem_filter.2 ⟨here, by simpa using fenced⟩) kind

/-! ## A region that goes dark (R15, R334) -/

theorem groupOf_congr {s t : State} (sup : t.sup = s.sup) (r : Nat) : t.groupOf r = s.groupOf r :=
  congrArg (fun b => mapGet group0 (SupBlk.groups b) r) sup

theorem clkOf_congr {s t : State} (clk : t.clk = s.clk) (r : Nat) : t.clkOf r = s.clkOf r :=
  congrArg (fun b => mapGet clkRegion0 (ClkBlk.regions b) r) clk

@[simp] theorem raise_groupOf (kind severity unit : Nat) (data : List Nat) (s : State) (r : Nat) :
    (raise kind severity unit data s).groupOf r = s.groupOf r := groupOf_congr (raise_sup ..) r

@[simp] theorem raise_clkOf (kind severity unit : Nat) (data : List Nat) (s : State) (r : Nat) :
    (raise kind severity unit data s).clkOf r = s.clkOf r := clkOf_congr (raise_clk ..) r

theorem darken_sup (r : Nat) (s : State) :
    (darken r s).sup = (setGroup r (fun g => { g with shutter := 3, wantOpen := false }) s).sup := rfl

theorem darken_clk (r : Nat) (s : State) :
    (darken r s).clk = (setClk r (fun c => { c with source := 2, divisor := 0, target := 0 }) s).clk := rfl

/-- What follows the fences of a dark region, the answers to what waits at its tiles, leaves the fences, the regulator
groups and the clocks. -/
theorem goDark_frame (r : Nat) (s : State) : (goDark r s).flp = (fenceRegion r (darken r s)).flp ∧
    (goDark r s).sup = (darken r s).sup ∧ (goDark r s).clk = (darken r s).clk := by
  have free : false = false := rfl
  have fences : Keeps (Untouched.allBut [.reports, .flp, .dbg, .dev, .frm]) (darken r s) (fenceRegion r (darken r s)) :=
    fenceRegion_keeps r _ (Keeps.refl _)
  have answers : Keeps (Untouched.allBut [.stacked, .reports, .hif, .frm, .cores, .mem, .net, .bnk, .walkers, .req, .lnk])
      (fenceRegion r (darken r s)) (goDark r s) := by
    unfold goDark
    exact Keeps.foldl _ (Keeps.refl _) fun x n h => answerWaiting_keeps n anySpan _ (setTile_keeps _ _ _ (failBanks_keeps n x h))
  exact ⟨answers.flp rfl, (answers.sup rfl).trans (fences.sup rfl), (answers.clk rfl).trans (fences.clk rfl)⟩

/-- The shutter is closed, the clocks are stopped, and the region with its cores and tiles is fenced. -/
theorem goDark_effect (r : Nat) (s : State) :
    (goDark r s).groupOf r = { s.groupOf r with shutter := 3, wantOpen := false } ∧ ((goDark r s).clkOf r).source = 2 ∧
      (goDark r s).dark r = true ∧
      ∀ n, n ∈ coresOf r → (goDark r s).coreFenced n = true ∧ (goDark r s).tileFenced n = true := by
  obtain ⟨flp, sup, clk⟩ := goDark_frame r s
  have fenced : ∀ f, f ∈ [{ kind := 5, unit := r }] ++ (coresOf r).map (fun n => ({ kind := 2, unit := n } : FenceItem))
      ++ (coresOf r).map (fun n => { kind := 3, unit := n }) → 1 ≤ f.kind ∧ f.kind ≤ 5 → fencedIn (goDark r s).flp f = true := by
    intro f here kind
    rw [flp, ← fencedAlready_eq, fenceRegion]
    exact fencedAlready_fenceUnits_of_mem here kind
  have group := (groupOf_congr (sup.trans (darken_sup r s)) r).trans (setGroup_groupOf_same ..)
  have clock := (clkOf_congr (clk.trans (darken_clk r s)) r).trans (setClk_clkOf_same ..)
  refine ⟨group, congrArg ClkRegion.source clock, ?_, fun n here => ⟨?_, ?_⟩⟩
  · rw [dark_eq]
    exact fenced _ (by simp) (by simp)
  · rw [coreFenced_eq]
    exact fenced _ (by simp [here]) (by simp)
  · rw [tileFenced_eq]
    exact fenced _ (by simp [here]) (by simp)

end Sys2Proof.Proofs
end


section
/-! Power delivery (chapter 15): power on and off, the regulator groups, the limiter and the averages. -/
namespace Sys2Proof.Proofs
set_option Elab.async false
open Sys2Proof.Machine Sys2Proof.Laws

theorem onUnit_runs {p : Prop} [Decidable p] {t : State} (there : p) : onUnit p t = .next t := if_pos there

/-! ## Power on and off (R326, R327, R329) -/

theorem losePower_eq (s : State) : losePower s = s.unpowered := rfl

theorem doPowerOn_down {osc maddr : Nat} {s : State} (down : s.kpr.railsUp = false) :
    doPowerOn osc maddr s = { s.afterReset with kpr := { kprReset with oscWait := osc, maddr := maddr } } := by
  rw [doPowerOn, down]
  rfl

theorem doStage1ConverterFail_runs {i : Nat} {s : State} (up : s.kpr.railsUp = true) (good : bit s.sup.stage1Ok i = true) :
    doStage1ConverterFail i s = if s.sup.stage1Ok - 2 ^ i = 0 then losePower s
      else raise 0x0059 1 i [] { s with sup := { s.sup with stage1Ok := s.sup.stage1Ok - 2 ^ i, capLimited := true } } := by
  simp only [doStage1ConverterFail, up, good, Bool.and_self, if_true]

/-- Settles O9: the command of each case is one branch of its definition, and what is left without power is what a reset keeps. -/
theorem powerComesAndGoes : Obligations.PowerComesAndGoes := by
  unfold Obligations.PowerComesAndGoes
  refine ⟨?on, ?onAgain, ?loss, ?shutdown, ?noShutdown, ?first, ?second, ?again⟩
  case on =>
    intro s osc maddr down
    exact congrArg Host.Outcome.next (doPowerOn_down down)
  case onAgain =>
    intro s osc maddr up
    change Host.Outcome.next (doPowerOn (osc % 8) (maddr % 4) s) = _
    rw [doPowerOn, up, if_pos rfl]
  case loss => exact fun s => congrArg Host.Outcome.next (losePower_eq s)
  case shutdown =>
    intro s up
    change Host.Outcome.next (doVpmShutdown s) = _
    rw [doVpmShutdown, up, if_pos rfl, losePower_eq]
  case noShutdown =>
    intro s down
    change Host.Outcome.next (doVpmShutdown s) = _
    rw [doVpmShutdown, down, if_neg Bool.false_ne_true]
  case first =>
    intro s i which up both
    have good : ∀ i < 2, bit 3 i = true ∧ 3 - 2 ^ i ≠ 0 := by decide
    obtain ⟨here, left⟩ := good i which
    change onUnit (i < 2) (doStage1ConverterFail i s) = _
    rw [onUnit_runs which, doStage1ConverterFail_runs up (both ▸ here), both, if_neg left]
  case second =>
    intro s i which up last
    have good : ∀ i < 2, bit (2 ^ i) i = true := by decide
    change onUnit (i < 2) (doStage1ConverterFail i s) = _
    rw [onUnit_runs which, doStage1ConverterFail_runs up (last ▸ good i which), last, if_pos (Nat.sub_self _), losePower_eq]
  case again =>
    intro s i which failed
    change onUnit (i < 2) (doStage1ConverterFail i s) = _
    rw [onUnit_runs which]
    simp [doStage1ConverterFail, failed]

/-! ## Regulator groups (R332 to R337) -/

theorem dark_congr {s t : State} (flp : t.flp = s.flp) (r : Nat) : t.dark r = s.dark r :=
  congrArg (fun p => mapGet false (FlpBlk.dark p) r) flp

theorem doPhaseFail_runs {r p : Nat} {s : State} (powered : s.powered = true)
    (good : bit (s.groupOf r).phasesFailed p = false) :
    doPhaseFail r p s =
      let failed := (s.groupOf r).phasesFailed + 2 ^ p
      let t := raise 0x005A 1 r [failed] (setGroup r (fun g =>
        { g with phasesFailed := failed, dutyLimited := g.dutyLimited || decide (popcount 4 failed = 2) }) s)
      if 3 ≤ popcount 4 failed && !t.dark r then goDark r t else t := by
  simp only [doPhaseFail, powered, good, Bool.not_false, Bool.and_self, if_true]

/-- The third phase of a group that fails takes its region down. -/
theorem doPhaseFail_third {r p : Nat} {s : State} (powered : s.powered = true)
    (good : bit (s.groupOf r).phasesFailed p = false)
    (three : popcount 4 ((s.groupOf r).phasesFailed + 2 ^ p) = 3) (lit : s.dark r = false) :
    ∃ t, doPhaseFail r p s = goDark r t ∧ t.dark r = false ∧
      (t.groupOf r).phasesFailed = (s.groupOf r).phasesFailed + 2 ^ p := by
  rw [doPhaseFail_runs powered good]
  extract_lets failed t
  have flp : t.flp = s.flp := (raise_flp ..).trans (setGroup_flp ..)
  have stillLit : t.dark r = false := (dark_congr flp r).trans lit
  have goes : (decide (3 ≤ popcount 4 failed) && !t.dark r) = true := by
    rw [stillLit, three]
    rfl
  exact ⟨t, if_pos goes, stillLit, by rw [raise_groupOf, setGroup_groupOf_same]⟩

theorem exec_phaseFail {r p : Nat} (s : State) (region : r < regionCount) (phase : p < 4) :
    exec (.phaseFail r p) s = .next (doPhaseFail r p s) := onUnit_runs ⟨region, phase⟩

/-- What a sample of the bonds leaves of a group. -/
theorem doBondSample_group {r vOut vMin cur : Nat} {s : State} (powered : s.powered = true) :
    ∃ n model since, (doBondSample r vOut vMin cur s).groupOf r = { s.groupOf r with
      vOut := vOut, vMin := vMin, current := cur, irSamples := n, irModel := model, excessSince := since } := by
  simp only [doBondSample, powered, if_true]
  split <;> simp only [setGroup_groupOf_same] <;> exact ⟨_, _, _, rfl⟩

/-- A sample below 1.00 A teaches the model nothing; it is compared with the model learned. -/
theorem doBondSample_low {r vOut vMin cur : Nat} {s : State} (powered : s.powered = true) (low : cur < 100)
    (learned : (s.groupOf r).irSamples = 1000) :
    (doBondSample r vOut vMin cur s).groupOf r = { s.groupOf r with
      vOut := vOut, vMin := vMin, current := cur,
      excessSince := if 25 < (vOut : Int) - vMin - ((s.groupOf r).irModel * cur / 10000 : Nat) then
        (if (s.groupOf r).excessSince = 0 then s.frm.tc + 1 else (s.groupOf r).excessSince) else 0 } := by
  have small : decide (100 ≤ cur) = false := decide_eq_false (by omega)
  simp only [doBondSample, powered, if_true, small, Bool.false_and, Bool.false_eq_true, if_false, setGroup_groupOf_same, learned,
    decide_true, Bool.true_and, excessDrop, decide_eq_true_eq]

/-- Settles O10: the third failed phase closes the shutter and fences the region (`goDark_effect`), every other case is one branch. -/
theorem regulatorGroups : Obligations.RegulatorGroups := by
  unfold Obligations.RegulatorGroups
  refine ⟨?phase, ?dark, ?sensor, ?shunt, ?sample, ?excess, ?suspect⟩
  case phase =>
    intro s r p region phase powered good few
    have enough : decide (3 ≤ popcount 4 ((s.groupOf r).phasesFailed + 2 ^ p)) = false := decide_eq_false (by omega)
    rw [exec_phaseFail s region phase, doPhaseFail_runs powered good]
    simp only [enough, Bool.false_and, Bool.false_eq_true, if_false]
  case dark =>
    intro s r p region phase powered good three lit
    obtain ⟨t, runs, dark, phases⟩ := doPhaseFail_third powered good three lit
    obtain ⟨group, source, fenced, cores⟩ := goDark_effect r t
    refine ⟨_, (exec_phaseFail s region phase).trans (congrArg _ runs), ?_, ?_, source, fenced, cores⟩
    · rw [group, phases]
    · rw [group]
  case sensor =>
    intro s r k region which powered good
    change onUnit (r < regionCount ∧ k < 4) (doVsensorExclude r k s) = _
    rw [onUnit_runs ⟨region, which⟩]
    simp only [doVsensorExclude, powered, good, Bool.not_false, Bool.and_self, if_true]
  case shunt =>
    intro s r region powered
    change onUnit (r < regionCount) (doShuntFire r s) = _
    rw [onUnit_runs region, doShuntFire, if_pos powered]
  case sample =>
    intro s r vOut vMin cur region powered
    obtain ⟨_, _, _, group⟩ := doBondSample_group (vOut := vOut % 2 ^ 12) (vMin := vMin % 2 ^ 12) (cur := cur % 2 ^ 12) (r := r) powered
    exact ⟨_, onUnit_runs region, congrArg Group.vOut group, congrArg Group.vMin group, congrArg Group.current group⟩
  case excess =>
    intro s r vOut vMin cur region powered low minFits outFits learned
    have group := doBondSample_low (vOut := vOut) (vMin := vMin) (r := r) powered low learned
    refine ⟨doBondSample r vOut vMin cur s, ?_, by rw [group], by rw [group]⟩
    change onUnit (r < regionCount) (doBondSample r (vOut % 2 ^ 12) (vMin % 2 ^ 12) (cur % 2 ^ 12) s) = _
    have out : vOut % 2 ^ 12 = vOut := Nat.mod_eq_of_lt outFits
    have least : vMin % 2 ^ 12 = vMin := Nat.mod_eq_of_lt minFits
    have current : cur % 2 ^ 12 = cur := Nat.mod_eq_of_lt (by omega)
    rw [onUnit_runs region, out, least, current]
  case suspect =>
    intro s r region powered fresh started long
    have stood : decide ((s.groupOf r).excessSince + 10 * tcMs ≤ s.frm.tc + 1) = true := decide_eq_true long
    change onUnit (r < regionCount) (doBondSuspect r s) = _
    rw [onUnit_runs region]
    simp only [doBondSuspect, powered, fresh, stood, started, ne_eq, not_false_eq_true, decide_true, Bool.not_false, Bool.and_self, if_true]

/-! ## The limiter, the averages and the estimator (R327, R338, R349, R351) -/

theorem doPeakLimiterEngage_sup {m v : Nat} {s : State} (powered : s.powered = true) (idle : s.sup.limiting = false)
    (above : peakThreshold s.oneConverter m < v) :
    (doPeakLimiterEngage m v s).sup = { s.sup with
      limiting := true, engagements := satAdd 32 s.sup.engagements 1, engagedAt := s.frm.tc,
      limitMs := s.frm.tc / 1000000 + 1 } := by
  simp only [doPeakLimiterEngage, powered, idle, above, Bool.not_false, Bool.and_self, decide_true, if_true]
  split
  · rw [raise_sup]
    rfl
  · rfl

theorem exec_peakLimiterEngage {m : Nat} (v : Nat) (s : State) (low : 1 ≤ m) (high : m ≤ 4) :
    exec (.peakLimiterEngage m v) s = .next (doPeakLimiterEngage m v s) := onUnit_runs ⟨low, high⟩

theorem judgeAverage_frame (window avg cap : Nat) (s : State) : ∃ events sec,
    (judgeAverage window avg cap s).pwr = { s.pwr with overEvents := events, overSec := sec } ∧
      (judgeAverage window avg cap s).sup = s.sup ∧ (judgeAverage window avg cap s).kpr = s.kpr := by
  simp only [judgeAverage]
  split
  · split
    · rw [raise_pwr, raise_sup, raise_kpr]
      exact ⟨_, _, rfl, rfl, rfl⟩
    · exact ⟨_, _, rfl, rfl, rfl⟩
  · exact ⟨_, _, rfl, rfl, rfl⟩

/-- Judging the averages counts and reports what lies above a cap, and nothing else. -/
theorem judgeAverages_frame (s : State) : ∃ events sec,
    (judgeAverages s).pwr = { s.pwr with overEvents := events, overSec := sec } ∧ (judgeAverages s).sup = s.sup := by
  unfold judgeAverages
  split
  · obtain ⟨_, _, pwr1, sup1, -⟩ := judgeAverage_frame 1 s.pwr.avg1 s.pwr.force1 s
    obtain ⟨events, sec, pwr8, sup8, -⟩ := judgeAverage_frame 8 s.pwr.avg8 s.pwr.force8 (judgeAverage 1 s.pwr.avg1 s.pwr.force1 s)
    refine ⟨events, sec, ?_, sup8.trans sup1⟩
    rw [pwr8, pwr1]
  · exact ⟨_, _, rfl, rfl⟩

theorem exec_avgSample {p v c k : Nat} (rails : List (Nat × Nat)) (s : State) (pFits : p < 2 ^ 16) (vFits : v < 2 ^ 16)
    (cFits : c < 2 ^ 16) (kFits : k < 2 ^ 16) (up : s.kpr.railsUp = true) :
    exec (.avgSample p v c k rails) s = .next (judgeAverages (takeSample p v c k ((padTo 4 (0, 0) rails).take 4) s)) := by
  change Host.Outcome.next (doAvgSample (p % 2 ^ 16) (v % 2 ^ 16) (c % 2 ^ 16) (k % 2 ^ 16) _ s) = _
  rw [Nat.mod_eq_of_lt pFits, Nat.mod_eq_of_lt vFits, Nat.mod_eq_of_lt cFits, Nat.mod_eq_of_lt kFits, doAvgSample, if_pos up]

theorem exec_estimatorSecond {m e : Nat} (s : State) (mFits : m < 2 ^ 16) (eFits : e < 2 ^ 16) :
    exec (.estimatorSecond m e) s = .next (doEstimatorSecond m e s) := by
  change Host.Outcome.next (doEstimatorSecond (m % 2 ^ 16) (e % 2 ^ 16) s) = _
  rw [Nat.mod_eq_of_lt mFits, Nat.mod_eq_of_lt eFits]

/-- Settles O11: the judgement of the averages and the events touch nothing of what is stated. -/
theorem limiterAndAverages : Obligations.LimiterAndAverages := by
  unfold Obligations.LimiterAndAverages
  refine ⟨?engage, ?below, ?both, ?one, ?release, ?average, ?near, ?above, ?warn, ?leave, ?rail⟩
  case engage =>
    intro s m v low high powered idle above
    exact ⟨_, exec_peakLimiterEngage v s low high, doPeakLimiterEngage_sup powered idle above⟩
  case below =>
    intro s m v low high below
    rw [exec_peakLimiterEngage v s low high]
    simp only [doPeakLimiterEngage, decide_eq_false (Nat.not_lt.2 below), Bool.and_false, Bool.false_eq_true, if_false]
  case both =>
    intro s v powered idle two above
    have threshold : peakThreshold s.oneConverter 2 < v := by simpa [State.oneConverter, two, peakThreshold] using above
    exact ⟨_, exec_peakLimiterEngage v s (by decide) (by decide), congrArg SupBlk.limiting (doPeakLimiterEngage_sup powered idle threshold)⟩
  case one =>
    intro s v powered idle single above
    have threshold : peakThreshold s.oneConverter 2 < v := by simpa [State.oneConverter, single, peakThreshold] using above
    exact ⟨_, exec_peakLimiterEngage v s (by decide) (by decide), congrArg SupBlk.limiting (doPeakLimiterEngage_sup powered idle threshold)⟩
  case release =>
    intro s v powered limiting low
    have below : v < peakRelease s.oneConverter := by
      unfold peakRelease State.oneConverter
      split <;> simp at * <;> omega
    change Host.Outcome.next (doPeakLimiterRelease v s) = _
    simp only [doPeakLimiterRelease, powered, limiting, below, decide_true, Bool.and_self, if_true]
    rfl
  case average =>
    intro s p v c k rails pFits vFits cFits kFits up
    obtain ⟨_, _, pwr, sup⟩ := judgeAverages_frame (takeSample p v c k ((padTo 4 (0, 0) rails).take 4) s)
    refine ⟨_, exec_avgSample rails s pFits vFits cFits kFits up, ?_⟩
    rw [pwr, sup]
    exact ⟨rfl, rfl, rfl, rfl, rfl, rfl, rfl, rfl⟩
  case near =>
    intro s m e mFits eFits powered notAbove notBelow
    rw [exec_estimatorSecond s mFits eFits]
    simp only [doEstimatorSecond, powered, if_true, Nat.not_lt.2 notAbove, Nat.not_lt.2 notBelow, if_false]
  case above =>
    intro s m e mFits eFits powered some_ above
    refine ⟨_, exec_estimatorSecond s mFits eFits, ?_⟩
    simp only [doEstimatorSecond, powered, if_true, above, Nat.ne_of_gt some_, if_false, raise_pwr]
  case warn =>
    intro s v band up quiet
    have fits : v < 2 ^ 16 := by omega
    have inBand : inWarnBand v = true := by simpa [inWarnBand] using band
    change Host.Outcome.next (doInputWarnBand (v % 2 ^ 16) s) = _
    rw [Nat.mod_eq_of_lt fits]
    simp only [doInputWarnBand, up, inBand, quiet, Bool.not_false, Bool.and_self, if_true]
  case leave =>
    intro s v low high up
    have fits : v < 2 ^ 16 := by omega
    change Host.Outcome.next (doInputWarnLeave (v % 2 ^ 16) s) = _
    rw [Nat.mod_eq_of_lt fits]
    simp only [doInputWarnLeave, up, low, high, decide_true, Bool.and_self, if_true]
  case rail =>
    intro s k which powered good
    have up : s.kpr.railsUp = true := by
      simp only [State.powered, Bool.and_eq_true] at powered
      exact powered.1.1
    change onUnit (k < 4) (doRailOutOfRegulation k s) = _
    rw [onUnit_runs which]
    simp only [doRailOutOfRegulation, up, good, if_true]
    exact congrArg Host.Outcome.next (if_pos powered)

end Sys2Proof.Proofs
end


section
/-! Resets, fatal conditions and region clocks (chapters 14 and 17). -/
namespace Sys2Proof.Proofs
set_option Elab.async false
open Sys2Proof.Machine Sys2Proof.Laws

theorem powered_iff (s : State) : s.powered = true ↔
    s.kpr.railsUp = true ∧ s.kpr.boot = .romRuns ∧ s.kpr.state ≠ .halted := by
  simp [State.powered, and_assoc]

theorem railsUp_of_powered {s : State} (powered : s.powered = true) : s.kpr.railsUp = true :=
  ((powered_iff s).1 powered).1

theorem not_halted_of_powered {s : State} (powered : s.powered = true) : s.kpr.state ≠ .halted :=
  ((powered_iff s).1 powered).2.2

theorem not_powered_of_halted {s : State} (halted : s.kpr.state = .halted) : s.powered = false := by
  simp [State.powered, halted]

/-! ## The reset pin and the PLLs (R310, R311, R360, R369) -/

/-- A whole-device reset leaves what `afterReset` says, beside the keeper, the supply and the management endpoint. -/
theorem wholeReset_eq (cause halt : Nat) (perst : Bool) (s : State) : wholeReset cause halt perst s =
    { s.afterReset with
      kpr := (wholeReset cause halt perst s).kpr, sup := (wholeReset cause halt perst s).sup,
      tel := { s.tel with pemSec := 0, pemN := 0 } } := rfl

theorem doPerstNAssert_runs {s : State} (up : s.kpr.railsUp = true) (released : s.kpr.perst = true) :
    doPerstNAssert s = wholeReset 1 0 false s := by
  rw [doPerstNAssert, up, released]
  rfl

/-- No shutter is closed after a reset. -/
theorem wholeReset_shutters (cause halt : Nat) (perst : Bool) (s : State) :
    (wholeReset cause halt perst s).sup.groups.all (fun e => decide (e.2.shutter = 0)) = true := by
  have groups : (wholeReset cause halt perst s).sup.groups = s.sup.groups.filterMap (fun e =>
      if e.2.sensorsExcluded = 0 then none else some (e.1, { group0 with
        sensorsExcluded := e.2.sensorsExcluded, dutyLimited := decide (e.2.sensorsExcluded = 15) })) := rfl
  rw [groups, List.all_eq_true]
  intro g here
  obtain ⟨e, -, eq⟩ := List.mem_filterMap.1 here
  split at eq
  · cases eq
  · injection eq with eq
    rw [← eq]
    rfl

theorem exec_perstNAssert (s : State) : exec .perstNAssert s = .next (doPerstNAssert s) := rfl
theorem exec_perstNRelease (s : State) : exec .perstNRelease s = .next (doPerstNRelease s) := rfl
theorem exec_oscWaitExpiry (s : State) : exec .oscWaitExpiry s = .next (doOscWaitExpiry s) := rfl
theorem exec_systemPllLockTimeout (s : State) : exec .systemPllLockTimeout s = .next (doSystemPllLockTimeout s) := rfl
theorem exec_systemPllLock (s : State) : exec .systemPllLock s = .next (doSystemPllLock s) := rfl

/-- Settles O12: each of the five commands is a test of the pin or of the stage that the start has reached. -/
theorem resetPinAndPllSequence : Obligations.ResetPinAndPllSequence := by
  unfold Obligations.ResetPinAndPllSequence
  refine ⟨?assert, ?noAssert, ?release, ?noRelease, ?wait, ?retry, ?give, ?lock, ?turn⟩
  case assert =>
    intro s up released
    refine ⟨_, (exec_perstNAssert s).trans (congrArg _ (doPerstNAssert_runs up released)), rfl, ?_, wholeReset_shutters .., rfl⟩
    have kpr : (wholeReset 1 0 false s).kpr = { kprReset with
      resetCause := 1, oscWait := s.kpr.oscWait, maddr := s.kpr.maddr, railsUp := s.kpr.railsUp } := rfl
    rw [kpr, up]
    rfl
  case noAssert =>
    intro s barred
    have neither : (s.kpr.railsUp && s.kpr.perst) = false := Bool.and_eq_false_iff.2 barred
    rw [exec_perstNAssert, doPerstNAssert, neither, if_neg Bool.false_ne_true]
  case release =>
    intro s up held
    rw [exec_perstNRelease, doPerstNRelease, up, held]
    rfl
  case noRelease =>
    intro s barred
    have neither : (s.kpr.railsUp && !s.kpr.perst) = false := by
      rcases barred with down | released
      · rw [down, Bool.false_and]
      · rw [released, Bool.not_true, Bool.and_false]
    rw [exec_perstNRelease, doPerstNRelease, neither, if_neg Bool.false_ne_true]
  case wait =>
    intro s stage
    rw [exec_oscWaitExpiry, doOscWaitExpiry, if_pos stage]
  case retry =>
    intro s stage few
    rw [exec_systemPllLockTimeout, doSystemPllLockTimeout, if_pos stage, if_pos (by omega : s.kpr.pllTries + 1 < 3), ← stage]
  case give =>
    intro s stage two
    rw [exec_systemPllLockTimeout, doSystemPllLockTimeout, if_pos stage, two, if_neg (by decide)]
  case lock =>
    intro s stage
    rw [exec_systemPllLock, doSystemPllLock, if_pos stage]
  case turn =>
    intro s notWait notStart
    rw [exec_oscWaitExpiry, exec_systemPllLockTimeout, exec_systemPllLock, doOscWaitExpiry, doSystemPllLockTimeout,
      doSystemPllLock, if_neg notWait, if_neg notStart, if_neg notStart]
    exact ⟨rfl, rfl, rfl⟩

/-! ## Fatal conditions (R370) -/

/-- A fatal condition in a device that is not HALTED yet. -/
theorem fatal_halts (cause : Nat) {s : State} (runs : s.kpr.state ≠ .halted) :
    (fatal cause s).kpr = { s.kpr with state := .halted, prev := s.kpr.state, haltCause := cause, blanked := true } ∧
      (fatal cause s).frm = { s.frm with phase := .idle } ∧
      (fatal cause s).hif.aer.status = s.hif.aer.status ||| 2 ^ 22 ∧ (fatal cause s).mem = s.mem ∧
      (fatal cause s).cores = s.cores ∧ (fatal cause s).prt = s.prt ∧ (fatal cause s).thm = s.thm :=
  ⟨fatalTell_kpr true cause s runs, fatalTell_frm true cause s runs, fatalTell_status cause s runs, fatalTell_mem ..,
    fatalTell_cores .., fatalTell_prt .., fatalTell_thm ..⟩

theorem exec_fatalCondition {cause : Nat} (low : 1 ≤ cause) (high : cause ≤ 7) (s : State) :
    exec (.fatalCondition cause) s = .next (if s.powered then fatal cause s else s) := onUnit_runs ⟨low, high⟩

theorem exec_keeperWatchdogExpiry (s : State) :
    exec .keeperWatchdogExpiry s = .next (if s.powered && decide (s.kpr.state ≠ .rom) then fatal 5 s else s) := rfl

theorem exec_sillResetRequest {sill : Nat} (which : sill < 4) (s : State) :
    exec (.sillResetRequest sill) s = .next (if s.powered then fatal 6 s else s) := onUnit_runs which

theorem exec_refclkLost {what : Nat} (host : Bool) (which : what < 4) (s : State) :
    exec (.refclkLost what host) s = .next (doRefclkLost what host s) := onUnit_runs which

theorem exec_hingeFifoSettleTimeout (s : State) :
    exec .hingeFifoSettleTimeout s = .next (if s.powered && decide (s.kpr.state = .staging) then fatal 1 s else s) := rfl

theorem exec_tempTrip {cls u : Nat} (unit : (cls < 2 ∧ u < 512) ∨ (cls = 2 ∧ u < 4)) (s : State) :
    exec (.tempTrip cls u) s = .next (doTempTrip cls u s) := onUnit_runs unit

theorem exec_linkReplayLimit {l : Nat} (link : linkExists l = true) (s : State) :
    exec (.linkReplayLimit l) s = .next (doLinkReplayLimit l s) := onUnit_runs link

theorem doRefclkLost_runs {what : Nat} {host : Bool} {s : State} (powered : s.powered = true) :
    doRefclkLost what host s = fatalTell host 3 { s with clk := { s.clk with
      refOk := s.clk.refOk && decide (what ≠ 0), sillLocked := s.clk.sillLocked && decide (what = 3),
      tcLocked := s.clk.tcLocked && decide (what ≠ 0) && decide (what ≠ 3) } } := if_pos powered

/-- With the host path stopped the device halts and tells nobody. -/
theorem fatalTell_silent {cause : Nat} {s : State} (runs : s.kpr.state ≠ .halted) : fatalTell false cause s = haltNow cause s := by
  rw [fatalTell, if_neg runs]
  rfl

theorem exec_haltHoldEnd (s : State) : exec .haltHoldEnd s = .next (doHaltHoldEnd s) := rfl
theorem exec_hotReset (s : State) : exec .hotReset s = .next (doHotReset s) := rfl

theorem doHotReset_runs {s : State} (up : s.kpr.railsUp = true) (released : s.kpr.perst = true) (link : s.hif.linkUp = true) :
    doHotReset s = wholeReset 2 s.kpr.haltCause true s := by
  rw [doHotReset, up, released, link]
  rfl

theorem doHaltHoldEnd_runs {s : State} (halted : s.kpr.state = .halted) :
    doHaltHoldEnd s = wholeReset 3 s.kpr.haltCause true s := if_pos halted

/-- Settles O13: every condition runs `fatal` where the clocks run, which HALTED excludes, and the two resets are
`wholeReset`. -/
theorem fatalConditionsHalt : Obligations.FatalConditionsHalt := by
  unfold Obligations.FatalConditionsHalt
  refine ⟨?condition, ?watchdog, ?sill, ?clock, ?silent, ?hinge, ?trip, ?replay, ?again, ?hold, ?hot, ?noHold, ?noHot⟩
  case condition =>
    intro s cause low high powered
    have runs := (exec_fatalCondition low high s).trans (congrArg Host.Outcome.next (if_pos powered))
    exact ⟨_, runs, fatal_halts cause (not_halted_of_powered powered)⟩
  case watchdog =>
    intro s powered late
    have due : (s.powered && decide (s.kpr.state ≠ .rom)) = true := by rw [powered, decide_eq_true late]; rfl
    exact ⟨_, (exec_keeperWatchdogExpiry s).trans (congrArg Host.Outcome.next (if_pos due)),
      fatal_halts 5 (not_halted_of_powered powered)⟩
  case sill =>
    intro s sill which powered
    have runs := (exec_sillResetRequest which s).trans (congrArg Host.Outcome.next (if_pos powered))
    exact ⟨_, runs, fatal_halts 6 (not_halted_of_powered powered)⟩
  case clock =>
    intro s what which powered
    have runs := (exec_refclkLost true which s).trans (congrArg Host.Outcome.next (doRefclkLost_runs powered))
    obtain ⟨kpr, frm, status, mem, cores, prt, thm⟩ := fatal_halts 3 (s := { s with clk := { s.clk with
      refOk := s.clk.refOk && decide (what ≠ 0), sillLocked := s.clk.sillLocked && decide (what = 3),
      tcLocked := s.clk.tcLocked && decide (what ≠ 0) && decide (what ≠ 3) } }) (not_halted_of_powered powered)
    refine ⟨_, runs, kpr, frm, status, mem, cores, prt, thm, ?_, ?_⟩
    · rintro rfl
      rw [fatalTell_clk]
      simp
    · rintro rfl
      rw [fatalTell_clk]
      simp
  case silent =>
    intro s what which powered
    have runs := (exec_refclkLost false which s).trans (congrArg Host.Outcome.next
      ((doRefclkLost_runs powered).trans (fatalTell_silent (not_halted_of_powered powered))))
    exact ⟨_, runs, rfl, rfl, rfl, rfl, rfl, rfl, rfl, rfl, rfl⟩
  case hinge =>
    intro s powered staging
    have due : (s.powered && decide (s.kpr.state = .staging)) = true := by rw [powered, decide_eq_true staging]; rfl
    exact ⟨_, (exec_hingeFifoSettleTimeout s).trans (congrArg Host.Outcome.next (if_pos due)),
      fatal_halts 1 (not_halted_of_powered powered)⟩
  case trip =>
    intro s cls u unit powered started since long
    have due : (s.powered && s.thm.started && heldFor (tripSinceOf cls u s) s.frm.tc (100 * tcUs)) = true := by
      rw [powered, started, heldFor, decide_eq_true since, decide_eq_true (show _ + 100 * tcUs ≤ _ from long)]
      rfl
    exact ⟨_, (exec_tempTrip unit s).trans (congrArg Host.Outcome.next (if_pos due)),
      fatal_halts 4 (not_halted_of_powered powered)⟩
  case replay =>
    intro s l link powered four
    have due : (s.powered && (mapGet linkReplay0 s.net.replay l).failed) = true := by
      rw [powered, LinkReplay.failed, decide_eq_true four]
      rfl
    exact ⟨_, (exec_linkReplayLimit link s).trans (congrArg Host.Outcome.next (if_pos due)),
      fatal_halts 1 (not_halted_of_powered powered)⟩
  case again =>
    intro s c k l cls u what host halted low high which link unit clock
    have down := not_powered_of_halted halted
    rw [exec_fatalCondition low high, exec_keeperWatchdogExpiry, exec_sillResetRequest which, exec_refclkLost host clock,
      exec_hingeFifoSettleTimeout, exec_tempTrip unit, exec_linkReplayLimit link, doRefclkLost, doTempTrip, doLinkReplayLimit]
    simp only [down, Bool.false_and, Bool.false_eq_true, if_false, and_self]
  case hold =>
    intro s halted
    exact ⟨_, (exec_haltHoldEnd s).trans (congrArg _ (doHaltHoldEnd_runs halted)), wholeReset_eq 3 s.kpr.haltCause true s,
      rfl, rfl, rfl, rfl, rfl, rfl⟩
  case hot =>
    intro s up released link
    exact ⟨_, (exec_hotReset s).trans (congrArg _ (doHotReset_runs up released link)), wholeReset_eq 2 s.kpr.haltCause true s,
      rfl, rfl, rfl, rfl, rfl, rfl⟩
  case noHold =>
    intro s runs
    rw [exec_haltHoldEnd, doHaltHoldEnd, if_neg runs]
  case noHot =>
    intro s down
    rw [exec_hotReset, doHotReset, down, Bool.and_false, if_neg Bool.false_ne_true]

/-! ## Region clocks (R312 to R318, R340) -/

theorem inForceImage_congr {s t : State} (dev : t.dev = s.dev) : t.inForceImage = s.inForceImage := by
  rw [State.inForceImage, dev, State.inForceImage]

@[simp] theorem setClk_groupOf (r : Nat) (f : ClkRegion → ClkRegion) (s : State) (k : Nat) :
    (setClk r f s).groupOf k = s.groupOf k := groupOf_congr (setClk_sup ..) k

theorem moveSetpoint_groupOf (r d : Nat) (s : State) : (moveSetpoint r d s).groupOf r =
    { s.groupOf r with setpoint := s.setpointAt r d } := setGroup_groupOf_same ..

@[simp] theorem moveSetpoint_clkOf (r d : Nat) (s : State) (k : Nat) : (moveSetpoint r d s).clkOf k = s.clkOf k :=
  clkOf_congr (s := s) (setGroup_clk ..) k

/-- A region whose clocks are not stopped moves to the mesh at /8; no other region changes. -/
theorem toFallback_effect (r cause : Nat) {s : State} (clocked : (s.clkOf r).source ≠ 2) :
    (toFallback r cause s).clkOf r = { s.clkOf r with lockLost := true, holding := false, source := 1, divisor := 8, target := 8 } ∧
      ((toFallback r cause s).groupOf r).setpoint = 650 + mapGet 0 s.fuses.binTrim r ∧
      ∀ k, k ≠ r → (toFallback r cause s).clkOf k = s.clkOf k := by
  have notStopped : decide ((s.clkOf r).source = 2) = false := decide_eq_false clocked
  simp only [toFallback, notStopped, Bool.false_eq_true, if_false, raise_clkOf, raise_groupOf, moveSetpoint_clkOf,
    moveSetpoint_groupOf, setClk_clkOf_same]
  refine ⟨trivial, ?_, fun k other => setClk_clkOf_other _ _ _ other⟩
  have eight : setpointOf 8 = 650 := rfl
  rw [State.setpointAt, eight, setClk_fuses]

theorem exec_regionGeneratorLockTimeout {r : Nat} (region : r < regionCount) (s : State) :
    exec (.regionGeneratorLockTimeout r) s = .next (doRegionGeneratorLockTimeout r s) := onUnit_runs region

theorem exec_sustainedDroop {r : Nat} (region : r < regionCount) (s : State) :
    exec (.sustainedDroop r) s = .next (doSustainedDroop r s) := onUnit_runs region

theorem exec_generatorLockLost {r : Nat} (region : r < regionCount) (s : State) :
    exec (.generatorLockLost r) s = .next (doGeneratorLockLost r s) := onUnit_runs region

theorem exec_fallbackSwitch {r : Nat} (region : r < regionCount) (s : State) :
    exec (.fallbackSwitch r) s = .next (doFallbackSwitch r s) := onUnit_runs region

theorem exec_divisorStep {r : Nat} (region : r < regionCount) (s : State) :
    exec (.divisorStep r) s = .next (doDivisorStep r s) := onUnit_runs region

theorem exec_shutterRampDone {r : Nat} (region : r < regionCount) (s : State) :
    exec (.shutterRampDone r) s = .next (doShutterRampDone r s) := onUnit_runs region

theorem doGeneratorLockLost_runs {r : Nat} {s : State} (powered : s.powered = true) (own : (s.clkOf r).source = 0) :
    doGeneratorLockLost r s = setClk r (fun c => { c with holding := true, lockLost := true }) s := by
  rw [doGeneratorLockLost, powered, decide_eq_true own]
  rfl

/-- No core of a region runs whose clocks are held. -/
theorem coreRuns_of_held {s : State} {n : Nat} (held : (s.clkOf (regionOf n)).holding = true) : s.coreRuns n = false := by
  simp [State.coreRuns, State.clocksHeld, held]

theorem doDivisorStep_runs {r : Nat} {s : State} (powered : s.powered = true) (own : (s.clkOf r).source = 0)
    (free : (s.clkOf r).holding = false) (moving : (s.clkOf r).divisor ≠ (s.clkOf r).target)
    (due : (s.clkOf r).nextStep ≤ s.frm.tc) :
    (doDivisorStep r s).clkOf r = { s.clkOf r with
        divisor := stepToward (s.clkOf r).divisor (s.clkOf r).target, nextStep := (s.clkOf r).nextStep + 1000 } ∧
      ∀ k, k ≠ r → (doDivisorStep r s).clkOf k = s.clkOf k := by
  have goes : (s.powered && decide ((s.clkOf r).source = 0) && !(s.clkOf r).holding &&
      decide ((s.clkOf r).divisor ≠ (s.clkOf r).target) && decide ((s.clkOf r).nextStep ≤ s.frm.tc)) = true := by
    rw [powered, decide_eq_true own, free, decide_eq_true moving, decide_eq_true due]
    rfl
  simp only [doDivisorStep, goes, if_true]
  split
  · exact ⟨by rw [setClk_clkOf_same, moveSetpoint_clkOf], fun k other => by rw [setClk_clkOf_other _ _ _ other, moveSetpoint_clkOf]⟩
  · exact ⟨setClk_clkOf_same .., fun k other => setClk_clkOf_other _ _ _ other⟩

/-- The clocks of an opened region start at /8: on the mesh where its generator has lost lock, else on its own. -/
def clockOnOpening (r : Nat) (s : State) : ClkRegion :=
  if (s.clkOf r).lockLost then { s.clkOf r with source := 1, divisor := 8, target := 8 }
  else { s.clkOf r with source := 0, divisor := 8, target := s.pointNow r, nextStep := s.frm.tc + 1000, holding := false }

/-- With no image in force an opened shutter only starts the region's clocks. -/
theorem doShutterRampDone_runs {r : Nat} {s : State} (powered : s.powered = true) (opening : (s.groupOf r).shutter = 2)
    (due : (s.groupOf r).openAt + 4000 ≤ s.frm.tc) (none_ : s.inForceImage = none) :
    ((doShutterRampDone r s).groupOf r).shutter = 0 ∧ (doShutterRampDone r s).clkOf r = clockOnOpening r s ∧
      ∀ k, k ≠ r → (doShutterRampDone r s).clkOf k = s.clkOf k := by
  have goes : (s.powered && decide ((s.groupOf r).shutter = 2) && decide ((s.groupOf r).openAt + 4000 ≤ s.frm.tc)) = true := by
    rw [powered, decide_eq_true opening, decide_eq_true due]
    rfl
  unfold doShutterRampDone
  extract_lets _ opened clocked
  rw [if_pos goes]
  have clock : ∀ k, opened.clkOf k = s.clkOf k := fun k => clkOf_congr (setGroup_clk ..) k
  have open_ : (opened.groupOf r).shutter = 0 := congrArg Group.shutter (setGroup_groupOf_same ..)
  have point : opened.pointNow r = s.pointNow r := rfl
  have dev : clocked.dev = s.dev := by
    simp only [clocked]
    split <;> rfl
  rw [inForceImage_congr dev, none_]
  simp only [clocked, clockOnOpening, clock, point]
  split
  · refine ⟨?_, ?_, fun k other => ?_⟩
    · rw [setClk_groupOf, moveSetpoint_groupOf, open_]
    · rw [setClk_clkOf_same, moveSetpoint_clkOf, clock]
    · rw [setClk_clkOf_other _ _ _ other, moveSetpoint_clkOf, clock]
  · refine ⟨?_, ?_, fun k other => ?_⟩
    · rw [startClocks, setClk_groupOf, moveSetpoint_groupOf, open_]
    · rw [startClocks, setClk_clkOf_same, moveSetpoint_clkOf, clock]
      rfl
    · rw [startClocks, setClk_clkOf_other _ _ _ other, moveSetpoint_clkOf, clock]

/-- Settles O14: each command changes the record of its own region alone (`setClk`). -/
theorem regionClocks : Obligations.RegionClocks := by
  unfold Obligations.RegionClocks
  refine ⟨?timeout, ?droop, ?lost, ?stopped, ?switch, ?step, ?opened⟩
  case timeout =>
    intro s r region powered staging started own
    have runs : doRegionGeneratorLockTimeout r s = toFallback r 1 s := by
      rw [doRegionGeneratorLockTimeout, powered, started, decide_eq_true staging, decide_eq_true own]
      rfl
    obtain ⟨clock, setpoint, others⟩ := toFallback_effect r 1 (s := s) (by rw [own]; decide)
    refine ⟨_, (exec_regionGeneratorLockTimeout region s).trans (congrArg _ runs), ?_, ?_, ?_, ?_, setpoint, others⟩ <;> rw [clock]
  case droop =>
    intro s r region powered clocked
    have runs : doSustainedDroop r s = raise 0x0051 1 r [] (setClk r (fun c => { c with droopEvents := satAdd 8 c.droopEvents 1 }) s) := by
      rw [doSustainedDroop, powered, decide_eq_true clocked]
      rfl
    refine ⟨_, (exec_sustainedDroop region s).trans (congrArg _ runs), ?_, fun k other => ?_⟩
    · rw [raise_clkOf, setClk_clkOf_same]
    · rw [raise_clkOf, setClk_clkOf_other _ _ _ other]
  case lost =>
    intro s r region powered own
    rw [exec_generatorLockLost region, doGeneratorLockLost_runs powered own]
  case stopped =>
    intro s r region powered own
    refine ⟨_, (exec_generatorLockLost region s).trans (congrArg _ (doGeneratorLockLost_runs powered own)), fun n here => ?_⟩
    exact coreRuns_of_held (by rw [here, setClk_clkOf_same])
  case switch =>
    intro s r region powered clocked held
    have runs : doFallbackSwitch r s = toFallback r 2 s := by
      rw [doFallbackSwitch, powered, held]
      rfl
    obtain ⟨clock, setpoint, others⟩ := toFallback_effect r 2 (s := s) (by omega)
    refine ⟨_, (exec_fallbackSwitch region s).trans (congrArg _ runs), ?_, ?_, ?_, ?_, ?_, setpoint, others⟩ <;> rw [clock]
  case step =>
    intro s r region powered own free moving due
    exact ⟨_, exec_divisorStep region s, doDivisorStep_runs powered own free moving due⟩
  case opened =>
    intro s r region powered opening due none_
    obtain ⟨shutter, clock, others⟩ := doShutterRampDone_runs powered opening due none_
    refine ⟨_, exec_shutterRampDone region s, shutter, ?_, fun lost => ?_, fun kept => ?_, others⟩
    · rw [clock, clockOnOpening]
      split <;> rfl
    · rw [clock, clockOnOpening, if_pos lost]
    · rw [clock, clockOnOpening, if_neg (by rw [kept]; decide)]
      exact ⟨rfl, rfl⟩

end Sys2Proof.Proofs
end


section
/-! The keeper's bring-up (R361 to R367): the fetch, steps 3 to 6 with a verified file, and the end of bring-up. -/
namespace Sys2Proof.Proofs
set_option Elab.async false
open Sys2Proof.Machine Sys2Proof.Laws

/-! ## The fetch -/

theorem exec_keeperGo_open {s : State} (open_ : s.kprOpen = true) :
    exec .keeperGo s = .next { s with kpr := { s.kpr with fwResult := 1, fetched := 0 } } := by
  have up : s.hostUp = true := by
    simp only [State.kprOpen, Bool.and_eq_true] at open_
    exact open_.1.1.1
  have go : bit 1 0 = true := by decide
  change Host.Outcome.next (writeKprCmd 1 s) = _
  rw [writeKprCmd, kprWrite, regWrite_runs up (by decide), if_pos open_, if_pos go]

/-- The fetch has ended: the device is in ROM, the keeper fetches and may master the bus. -/
structure FetchEnds (s : State) : Prop where
  powered : s.powered = true
  rom : s.kpr.state = .rom
  running : s.kpr.fwResult = 1
  bme : s.hif.bme = true

/-- What the keeper shows of a fetch that has ended. -/
def fetchShown (r : FetchResult) (s : State) : State :=
  { s with kpr := { s.kpr with fwResult := firmwareResult r s, fetched := (r.file.length + r.bundle.length) % 2 ^ 32 } }

theorem exec_firmwareVerified {r : FetchResult} {s : State} (ends : FetchEnds s) :
    exec (.firmwareVerified r) s = .next
      (if firmwareResult r.narrow s = 2 then enterStaging r.narrow (fetchShown r.narrow s) else fetchShown r.narrow s) := by
  change Host.Outcome.next (doFirmwareVerified r.narrow s) = _
  have goes : (!s.powered || decide (s.kpr.state ≠ .rom) || decide (s.kpr.fwResult ≠ 1) || !s.hif.bme) = false := by
    rw [ends.powered, ends.rom, ends.running, ends.bme]
    rfl
  rw [doFirmwareVerified, goes, if_neg Bool.false_ne_true]
  rfl

theorem narrow_file {r : FetchResult} (bytes : toBytes r.file = r.file) : r.narrow.file = r.file := bytes

theorem firmwareResult_narrow {r : FetchResult} (bytes : toBytes r.file = r.file) (s : State) :
    firmwareResult r.narrow s = firmwareResult r s := by
  have file := narrow_file bytes
  have reads : r.narrow.readsOk = r.readsOk := rfl
  have sig : r.narrow.fwSig = r.fwSig := rfl
  simp only [firmwareResult, file, reads, sig]

/-! ## What fences leave of the frame block -/

theorem foldl_fenceTable_frm (cause : Nat) (l : List FenceItem) (s : State) :
    (l.foldl (fun s f => fenceDbg f (fenceTable cause f s)) s).frm = s.frm := by
  induction l generalizing s with
  | nil => rfl
  | cons f l ih =>
    have one : (fenceDbg f (fenceTable cause f s)).frm = s.frm := by
      unfold fenceDbg fenceTable
      split <;> split <;> rfl
    rw [List.foldl_cons, ih, one]

theorem foldl_fenceDelta_frm (gen cause : Nat) (l : List FenceItem) (s : State) :
    (l.foldl (fun s f => fenceDelta gen cause f s) s).frm = s.frm := by
  induction l generalizing s with
  | nil => rfl
  | cons f l ih => exact ih (fenceDelta gen cause f s)

theorem foldl_raise_frm {α : Type} (kind severity : Nat) (unit : α → Nat) (data : α → List Nat) (l : List α) (s : State) :
    (l.foldl (fun s f => raise kind severity (unit f) (data f) s) s).frm = s.frm := by
  induction l generalizing s with
  | nil => rfl
  | cons f l ih => rw [List.foldl_cons, ih, raise_frm]

/-- Of the frame block a fence changes what notes the fences of the frame, and nothing else. -/
theorem fenceUnits_frm (cause : Nat) (l : List FenceItem) (s : State) :
    ∃ noted now, (fenceUnits cause l s).frm = { s.frm with fencedNow := noted, now := now } := by
  simp only [fenceUnits]
  split
  · exact ⟨_, _, rfl⟩
  · split
    · simp only [foldl_fenceTable_frm]
      exact ⟨_, _, rfl⟩
    · split
      all_goals
        simp only [raise_frm, foldl_raise_frm, foldl_fenceDelta_frm, foldl_fenceTable_frm]
        exact ⟨_, _, rfl⟩

/-! ## The fused fences (R15, R19) -/

/-- A core that is fenced, or that a fused fence fences, is fenced with the fused fences in the tables. -/
theorem core_foldl_withFused {l : List (Nat × CoreFence)} {m : SMap CoreFence} {n : Nat}
    (fenced : (mapGet coreFence0 m n).core = true ∨ ∃ e, e ∈ l ∧ e.1 = n ∧ e.2.core = true) :
    (mapGet coreFence0 (l.foldl (fun m e => mapMod coreFence0 m e.1 (fun c => CoreFence.withFused c e.2)) m) n).core = true := by
  induction l generalizing m with
  | nil =>
    rcases fenced with h | ⟨e, here, -⟩
    · exact h
    · exact absurd here List.not_mem_nil
  | cons e l ih =>
    refine ih ?_
    rw [mapGet_mapMod]
    rcases fenced with h | ⟨f, here, at_, fused⟩
    · refine .inl ?_
      split
      · rename_i same
        rw [← same, CoreFence.withFused, h, Bool.or_true]
      · exact h
    · rcases List.mem_cons.1 here with rfl | inRest
      · rw [if_pos at_.symm]
        exact .inl (by rw [CoreFence.withFused, fused, Bool.true_or])
      · exact .inr ⟨f, inRest, at_, fused⟩

theorem coreFenced_fuseFences {s : State} {n : Nat}
    (fenced : s.coreFenced n = true ∨ ∃ e, e ∈ s.fuses.fences ∧ e.1 = n ∧ e.2.core = true) :
    (fuseFences s).coreFenced n = true := core_foldl_withFused fenced

/-! ## Steps 3 to 6 -/

theorem stepLicences_frame (r : FetchResult) (s : State) :
    Keeps (Untouched.allBut [.reports, .kpr, .prt]) s (stepLicences r s) := by
  have free : false = false := rfl
  exact stepLicences_keeps r s (Keeps.refl s)

/-- Starting the regions' clocks changes the clocks and the regulator groups. -/
theorem foldl_startClocks_frame (l : List Nat) (s : State) :
    Keeps (Untouched.allBut [.clk, .sup]) s (l.foldl (fun s k => startClocks k 4 s) s) ∧
      (l.foldl (fun s k => startClocks k 4 s) s).sup.params = s.sup.params := by
  have free : false = false := rfl
  refine ⟨Keeps.foldl l (Keeps.refl s) fun x k h => startClocks_keeps k 4 x h, ?_⟩
  induction l generalizing s with
  | nil => rfl
  | cons k l ih => exact ih (startClocks k 4 s)

/-- Step 4 with every PLL locked: the time counter starts at 0 and the units have the tables of the file. -/
theorem stepClocks_locked {r : FetchResult} (locked : r.sillPllOk = true) (s : State) :
    (stepClocks r s).kpr = { s.kpr with step := 4 } ∧ (stepClocks r s).frm = { s.frm with tc := 0, tcRuns := true } ∧
      (stepClocks r s).flp = s.flp ∧ (stepClocks r s).pwr.energies = unitTables r.file 1 ∧
      (stepClocks r s).sup.params = unitTables r.file 3 ∧ (stepClocks r s).prt = s.prt := by
  have starts : stepClocks r s = ((List.range regionCount).filter (fun k => !s.dark k)).foldl (fun s k => startClocks k 4 s)
      (writeStepFour r (startTime s)) := by
    rw [stepClocks, locked]
    rfl
  obtain ⟨kept, params⟩ := foldl_startClocks_frame ((List.range regionCount).filter (fun k => !s.dark k))
    (writeStepFour r (startTime s))
  have prt := prt_of_keeps kept rfl rfl
  rw [starts]
  exact ⟨kept.kpr rfl, kept.frm rfl, kept.flp rfl, congrArg PwrBlk.energies (kept.pwr rfl), params, prt⟩

/-- Step 5: the tiles that failed are fenced, the memory is ready; what was fenced stays so. -/
theorem stepMemory_effect (r : FetchResult) (s : State) :
    (stepMemory r s).kpr = { s.kpr with step := 5 } ∧ (stepMemory r s).frm.tc = s.frm.tc ∧
      (stepMemory r s).frm.tcRuns = s.frm.tcRuns ∧ (stepMemory r s).mem.ready = true ∧
      (stepMemory r s).flp = (fenceUnits 2 (r.deadTiles.map (fun n => { kind := 3, unit := n })) s).flp ∧
      (stepMemory r s).pwr = s.pwr ∧ (stepMemory r s).sup = s.sup ∧ (stepMemory r s).prt = s.prt := by
  have free : false = false := rfl
  have fenced : Keeps (Untouched.allBut [.reports, .flp, .dbg, .dev, .frm]) s
      (fenceUnits 2 (r.deadTiles.map (fun n => { kind := 3, unit := n })) s) := fenceUnits_keeps _ _ s (Keeps.refl s)
  obtain ⟨_, _, frm⟩ := fenceUnits_frm 2 (r.deadTiles.map (fun n => { kind := 3, unit := n })) s
  have read : Keeps (Untouched.allBut [.stacked, .mem]) (fenceUnits 2 (r.deadTiles.map (fun n => { kind := 3, unit := n })) s)
      (readBackZeros r.readBack (fenceUnits 2 (r.deadTiles.map (fun n => { kind := 3, unit := n })) s)) :=
    readBackZeros_keeps _ _ (Keeps.refl _)
  unfold stepMemory
  generalize fenceUnits 2 (r.deadTiles.map (fun n => { kind := 3, unit := n })) s = f at fenced frm read ⊢
  generalize readBackZeros r.readBack f = z at read ⊢
  have kpr := (read.kpr rfl).trans (fenced.kpr rfl)
  have time : z.frm = _ := (read.frm rfl).trans frm
  refine ⟨?_, ?_, ?_, rfl, read.flp rfl, (read.pwr rfl).trans (fenced.pwr rfl), (read.sup rfl).trans (fenced.sup rfl),
    (prt_of_keeps read rfl rfl).trans (prt_of_keeps fenced rfl rfl)⟩
  · calc (updateMemActive (memoryStands z)).kpr = { z.kpr with step := 5 } := rfl
      _ = { s.kpr with step := 5 } := by rw [kpr]
  · have tc : z.frm.tc = s.frm.tc := by rw [time]
    exact tc
  · have runs : z.frm.tcRuns = s.frm.tcRuns := by rw [time]
    exact runs

theorem foldl_training_presets (l : List Nat) (s : State) :
    (l.foldl (fun s l => setLink l (fun x => { x with state := .training }) s) s).lnk.presets = s.lnk.presets := by
  induction l generalizing s with
  | nil => rfl
  | cons n l ih => exact ih (setLink n (fun x => { x with state := .training }) s)

/-- Step 6 begins: the lasers are lit, the light engines have their presets. -/
theorem startLinks_effect (file : List Nat) (s : State) :
    Keeps (Untouched.allBut [.kpr, .lnk]) s (startLinks file s) ∧
      (startLinks file s).kpr = { s.kpr with blanked := false } ∧ (startLinks file s).lnk.presets = unitTables file 2 := by
  have free : false = false := rfl
  refine ⟨startLinks_keeps file s (Keeps.refl s), ?_, foldl_training_presets _ _⟩
  have links : Keeps (Untouched.allBut [.lnk])
      { s with kpr := { s.kpr with blanked := false }, lnk := { s.lnk with presets := unitTables file 2 } } (startLinks file s) :=
    Keeps.foldl _ (Keeps.refl _) fun x l h => setLink_keeps l _ x h
  exact links.kpr rfl

/-- The state in which step 3 ends: STAGING has been entered and the fused fences and the licences are read. -/
def licensed (r : FetchResult) (s : State) : State :=
  stepLicences r (fuseFences (setState .staging (takeFirmware r.file s)))

theorem licensed_effect (r : FetchResult) (s : State) : (licensed r s).kpr.state = .staging ∧
    (licensed r s).prt.block = s.prt.block ∧
    ∀ n, (s.coreFenced n = true ∨ ∃ e, e ∈ s.fuses.fences ∧ e.1 = n ∧ e.2.core = true) → (licensed r s).coreFenced n = true := by
  have kept := stepLicences_frame r (fuseFences (setState .staging (takeFirmware r.file s)))
  have flp : (setState .staging (takeFirmware r.file s)).flp = s.flp := setState_flp ..
  have fuses : (setState .staging (takeFirmware r.file s)).fuses = s.fuses := setState_fuses ..
  have prt : (setState .staging (takeFirmware r.file s)).prt = s.prt := setState_prt ..
  refine ⟨(kept.state rfl).trans (setState_state ..), (kept.protection rfl).trans (congrArg PrtBlk.block prt), fun n fenced => ?_⟩
  have before : (setState .staging (takeFirmware r.file s)).coreFenced n = s.coreFenced n := by
    rw [coreFenced_eq, flp, coreFenced_eq]
  have fused := coreFenced_fuseFences (s := setState .staging (takeFirmware r.file s)) (n := n) (by rw [before, fuses]; exact fenced)
  rw [coreFenced_eq] at fused ⊢
  rw [licensed, kept.flp rfl]
  exact fused

theorem enterStaging_eq (r : FetchResult) (s : State) : enterStaging r s = stagingGoesOn r (stepClocks r (licensed r s)) := rfl

/-- A verified file with every PLL locked brings the device to step 5 of bring-up. -/
theorem enterStaging_locked {r : FetchResult} (locked : r.sillPllOk = true) (s : State) :
    (enterStaging r s).kpr.state = .staging ∧ (enterStaging r s).kpr.step = 5 ∧ (enterStaging r s).frm.tc = 0 ∧
      (enterStaging r s).frm.tcRuns = true ∧ (enterStaging r s).mem.ready = true ∧
      (∀ n, (s.coreFenced n = true ∨ ∃ e, e ∈ s.fuses.fences ∧ e.1 = n ∧ e.2.core = true) →
        (enterStaging r s).coreFenced n = true) ∧
      (∀ n, n ∈ r.deadTiles → (enterStaging r s).tileFenced n = true) ∧
      (enterStaging r s).pwr.energies = unitTables r.file 1 ∧ (enterStaging r s).lnk.presets = unitTables r.file 2 ∧
      (enterStaging r s).sup.params = unitTables r.file 3 ∧ (enterStaging r s).prt.block = s.prt.block := by
  obtain ⟨state3, block3, fenced3⟩ := licensed_effect r s
  obtain ⟨kpr4, frm4, flp4, energies4, params4, prt4⟩ := stepClocks_locked locked (licensed r s)
  obtain ⟨kpr5, tc5, runs5, ready5, flp5, pwr5, sup5, prt5⟩ := stepMemory_effect r (stepClocks r (licensed r s))
  obtain ⟨kept6, kpr6, presets6⟩ := startLinks_effect r.file (stepMemory r (stepClocks r (licensed r s)))
  have goesOn : enterStaging r s = startLinks r.file (stepMemory r (stepClocks r (licensed r s))) := by
    rw [enterStaging_eq, stagingGoesOn, if_pos]
    rw [kpr4]
    exact state3
  have flp : (enterStaging r s).flp =
      (fenceUnits 2 (r.deadTiles.map (fun n => { kind := 3, unit := n })) (stepClocks r (licensed r s))).flp := by
    rw [goesOn, kept6.flp rfl, flp5]
  have fenced : ∀ f, fencedIn (enterStaging r s).flp f =
      (fenceUnits 2 (r.deadTiles.map (fun n => { kind := 3, unit := n })) (stepClocks r (licensed r s))).fencedAlready f :=
    fun f => by rw [flp, fencedAlready_eq]
  have kpr : (enterStaging r s).kpr = { (licensed r s).kpr with step := 5, blanked := false } := by
    rw [goesOn, kpr6, kpr5, kpr4]
  have frm : (enterStaging r s).frm = (stepMemory r (stepClocks r (licensed r s))).frm := by rw [goesOn, kept6.frm rfl]
  have mem : (enterStaging r s).mem = (stepMemory r (stepClocks r (licensed r s))).mem := by
    rw [goesOn, mem_of_keeps kept6 rfl rfl]
  refine ⟨by rw [kpr]; exact state3, by rw [kpr], by rw [frm, tc5, frm4], by rw [frm, runs5, frm4], by rw [mem, ready5],
    fun n here => ?_, fun n here => ?_, by rw [goesOn, kept6.pwr rfl, pwr5, energies4], by rw [goesOn, presets6],
    by rw [goesOn, kept6.sup rfl, sup5, params4], by rw [goesOn, kept6.protection rfl, prt5, prt4, block3]⟩
  · rw [coreFenced_eq, fenced]
    refine fencedAlready_fenceUnits_of_fenced _ ?_
    rw [fencedAlready_eq, flp4, ← coreFenced_eq]
    exact fenced3 n here
  · rw [tileFenced_eq, fenced]
    exact fencedAlready_fenceUnits_of_mem (List.mem_map.2 ⟨n, here, rfl⟩) (by simp)

/-- A PLL that has not locked halts the device. -/
theorem enterStaging_unlocked {r : FetchResult} (unlocked : r.sillPllOk = false) (s : State) :
    (enterStaging r s).kpr.state = .halted ∧ (enterStaging r s).kpr.haltCause = 1 := by
  obtain ⟨staging, -, -⟩ := licensed_effect r s
  obtain ⟨kpr, -⟩ := fatal_halts 1 (s := licensed r s) (by rw [staging]; decide)
  have halts : enterStaging r s = fatal 1 (licensed r s) := by
    have clocks : stepClocks r (licensed r s) = fatal 1 (licensed r s) := by
      rw [stepClocks, unlocked]
      rfl
    rw [enterStaging_eq, clocks, stagingGoesOn, if_neg]
    rw [kpr]
    simp
  rw [halts, kpr]
  exact ⟨rfl, rfl⟩

/-! ## The end of bring-up (R366, R367) -/

theorem linkOf_setLink_same {l : Nat} (f : Link → Link) {s : State} (inside : l < s.lnk.links.length) :
    (setLink l f s).linkOf l = f (s.linkOf l) := by
  rw [State.linkOf, setLink]
  exact nth_setNth_same {} _ inside

theorem linkOf_setLink_other {l k : Nat} (f : Link → Link) (s : State) (other : k ≠ l) : (setLink l f s).linkOf k = s.linkOf k := by
  rw [State.linkOf, setLink]
  exact nth_setNth_other {} s.lnk.links _ other

theorem length_setLink (l : Nat) (f : Link → Link) (s : State) : (setLink l f s).lnk.links.length = s.lnk.links.length :=
  length_setNth ..

/-- A link that does not train does not come to train at the end of the window. -/
theorem endTraining_untrained {l k : Nat} {s : State} (inside : l < s.lnk.links.length)
    (still : (s.linkOf k).state ≠ .training ∨ k = l) : ((endTraining l s).linkOf k).state ≠ .training := by
  unfold endTraining
  by_cases same : k = l
  · rw [same, linkOf_setLink_same _ inside]
    split
    · split <;> simp
    · assumption
  · rw [linkOf_setLink_other _ _ same]
    exact still.resolve_right same

theorem foldl_endTraining {l : List Nat} {s : State} {k : Nat} (inside : ∀ j ∈ l, j < s.lnk.links.length)
    (still : (s.linkOf k).state ≠ .training ∨ k ∈ l) :
    ((l.foldl (fun s l => endTraining l s) s).linkOf k).state ≠ .training := by
  induction l generalizing s with
  | nil => exact still.resolve_right List.not_mem_nil
  | cons j l ih =>
    have here := inside j (List.mem_cons_self ..)
    have length : (endTraining j s).lnk.links.length = s.lnk.links.length := length_setLink ..
    refine ih (fun i hi => length ▸ inside i (List.mem_cons_of_mem _ hi)) ?_
    rcases still with ended | inList
    · exact .inl (endTraining_untrained here (.inl ended))
    · rcases List.mem_cons.1 inList with rfl | inRest
      · exact .inl (endTraining_untrained here (.inr rfl))
      · exact .inr inRest

/-- The floor plan is published: it is valid, with generation 2, and its fences are those of the tables. -/
theorem publishFloorPlan_effect (s : State) : (publishFloorPlan s).flp = { s.flp with gen := 2, valid := true } ∧
    (publishFloorPlan s).kpr.state = s.kpr.state ∧ (publishFloorPlan s).lnk = s.lnk ∧ (publishFloorPlan s).mem = s.mem ∧
    (publishFloorPlan s).cores = s.cores ∧ (publishFloorPlan s).clk = s.clk := by
  simp only [publishFloorPlan]
  split
  · simp only [raise_flp, raise_kpr, raise_lnk, raise_mem, raise_cores, raise_clk, and_self]
  · exact ⟨rfl, rfl, rfl, rfl, rfl, rfl⟩

/-- The device as steps 8 and 9 leave it. -/
theorem stepNine_effect (s : State) : ∃ u, stepNine (setState .ready (publishFloorPlan s)) = u ∧ u.kpr.state = .ready ∧
    u.kpr.prev = s.kpr.state ∧ u.kpr.step = 9 ∧ u.flp = { s.flp with gen := 2, valid := true } ∧ u.lnk = s.lnk ∧
    u.mem = s.mem ∧ u.cores = s.cores ∧ u.clk = s.clk := by
  obtain ⟨flp, state, lnk, mem, cores, clk⟩ := publishFloorPlan_effect s
  exact ⟨_, rfl, setState_state .ready (publishFloorPlan s), (setState_prev ..).trans state, rfl, (setState_flp ..).trans flp,
    (setState_lnk ..).trans lnk, (setState_mem ..).trans mem, (setState_cores ..).trans cores, (setState_clk ..).trans clk⟩

/-- The units that failed in the units' own tests. -/
def failedUnits (cores : List Nat) (panes : List (Nat × Nat)) : List FenceItem :=
  panes.map (fun p => { kind := 1, unit := p.1, sub := p.2 }) ++ cores.map (fun n => { kind := 2, unit := n })

/-- The device as step 7 leaves it: no link trains, what failed is fenced. -/
def testedUnits (cores : List Nat) (panes : List (Nat × Nat)) (s : State) : State :=
  fenceUnits 2 (failedUnits cores panes) ((List.range 32).foldl (fun s l => endTraining l s) s)

theorem testedUnits_frame (cores : List Nat) (panes : List (Nat × Nat)) (s : State) :
    Keeps (Untouched.allBut [.reports, .flp, .dbg, .dev, .frm]) ((List.range 32).foldl (fun s l => endTraining l s) s)
        (testedUnits cores panes s) ∧
      Keeps (Untouched.allBut [.lnk]) s ((List.range 32).foldl (fun s l => endTraining l s) s) := by
  have free : false = false := rfl
  exact ⟨fenceUnits_keeps _ _ _ (Keeps.refl _), Keeps.foldl _ (Keeps.refl s) fun x l h => endTraining_keeps l x h⟩

theorem exec_bringUpComplete {cores : List Nat} {panes : List (Nat × Nat)} {s : State} (powered : s.powered = true)
    (staging : s.kpr.state = .staging) (five : s.kpr.step = 5) :
    exec (.bringUpComplete cores panes) s = .next (stepNine (setState .ready (publishFloorPlan
      (testedUnits (cores.filter (fun n => decide (n < coreCount)))
        (panes.filter (fun p => decide (p.1 < coreCount) && decide (p.2 < 2))) s)))) := by
  have goes : (s.powered && decide (s.kpr.state = .staging) && decide (s.kpr.step = 5)) = true := by
    rw [powered, staging, five]
    rfl
  change Host.Outcome.next (doBringUpComplete _ _ s) = _
  rw [doBringUpComplete, if_pos goes]
  rfl

/-- Settles O15: a fetch that fails shows its result and no more; a verified file runs steps 3 to 5 (`enterStaging_locked`),
or halts at a PLL; the end of bring-up fences what failed and publishes the floor plan. -/
theorem keeperBringUp : Obligations.KeeperBringUp := by
  unfold Obligations.KeeperBringUp
  refine ⟨fun s => exec_keeperGo_open, ?fails, ?locked, ?unlocked, ?done⟩
  case fails =>
    intro r s file bundle powered rom running bme bad
    have bundleLength : r.narrow.bundle.length = r.bundle.length := length_toBytes r.bundle
    rw [exec_firmwareVerified ⟨powered, rom, running, bme⟩, firmwareResult_narrow file, if_neg bad, fetchShown,
      firmwareResult_narrow file, narrow_file file, bundleLength]
  case locked =>
    intro r s file powered rom running bme good locked
    obtain ⟨state, step, tc, runs, ready, fenced, dead, energies, presets, params, block⟩ :=
      enterStaging_locked (r := r.narrow) locked (fetchShown r.narrow s)
    rw [narrow_file file] at energies presets params
    refine ⟨_, (exec_firmwareVerified ⟨powered, rom, running, bme⟩).trans (congrArg _ (if_pos ?_)), state, step, tc, runs, ready,
      fun e here fused => fenced e.1 (.inr ⟨e, here, rfl, fused⟩), fun n here small => dead n ?_, fun n before => fenced n (.inl before),
      energies, presets, params, block⟩
    · rw [firmwareResult_narrow file, good]
    · exact List.mem_filter.2 ⟨here, decide_eq_true small⟩
  case unlocked =>
    intro r s file powered rom running bme good unlocked
    refine ⟨_, (exec_firmwareVerified ⟨powered, rom, running, bme⟩).trans (congrArg _ (if_pos ?_)),
      enterStaging_unlocked (r := r.narrow) unlocked _⟩
    rw [firmwareResult_narrow file, good]
  case done =>
    intro cores panes s powered staging five
    refine ⟨_, exec_bringUpComplete powered staging five, ?_⟩
    obtain ⟨fences, links⟩ := testedUnits_frame (cores.filter (fun n => decide (n < coreCount)))
      (panes.filter (fun p => decide (p.1 < coreCount) && decide (p.2 < 2))) s
    have fenced : ∀ f, f ∈ failedUnits (cores.filter (fun n => decide (n < coreCount)))
        (panes.filter (fun p => decide (p.1 < coreCount) && decide (p.2 < 2))) → 1 ≤ f.kind ∧ f.kind ≤ 5 →
        fencedIn (testedUnits (cores.filter (fun n => decide (n < coreCount)))
          (panes.filter (fun p => decide (p.1 < coreCount) && decide (p.2 < 2))) s).flp f = true := fun f here kind => by
      rw [testedUnits, ← fencedAlready_eq]
      exact fencedAlready_fenceUnits_of_mem here kind
    generalize testedUnits (cores.filter (fun n => decide (n < coreCount)))
      (panes.filter (fun p => decide (p.1 < coreCount) && decide (p.2 < 2))) s = t at fences fenced ⊢
    obtain ⟨u, ends, state, prev, step, flpEnd, lnk, mem, cores', clk⟩ := stepNine_effect t
    rw [ends]
    have lnkEnd : u.lnk = ((List.range 32).foldl (fun s l => endTraining l s) s).lnk := lnk.trans (fences.lnk rfl)
    have memEnd : u.mem = s.mem := mem.trans ((mem_of_keeps fences rfl rfl).trans (mem_of_keeps links rfl rfl))
    have coresEnd : u.cores = s.cores := cores'.trans ((cores_of_keeps fences rfl rfl).trans (cores_of_keeps links rfl rfl))
    have clkEnd : u.clk = s.clk := clk.trans ((fences.clk rfl).trans (links.clk rfl))
    have before : t.kpr.state = .staging := by rw [fences.kpr rfl, links.kpr rfl, staging]
    have all : ∀ f, fencedIn t.flp f = true → fencedIn u.flp f = true := fun f h => by
      rw [flpEnd]
      exact h
    refine ⟨state, prev.trans before, step, by rw [flpEnd],
      by rw [flpEnd], fun n here small => ?_, fun p here small sub => ?_, fun l small length => ?_, memEnd, coresEnd, clkEnd⟩
    · rw [coreFenced_eq]
      exact all _ (fenced _ (List.mem_append_right _ (List.mem_map.2 ⟨n, List.mem_filter.2 ⟨here, decide_eq_true small⟩, rfl⟩)) (by simp))
    · rw [paneFenced_eq]
      have good : (decide (p.1 < coreCount) && decide (p.2 < 2)) = true := by
        rw [decide_eq_true sub, Bool.and_true]
        exact decide_eq_true small
      exact all _ (fenced _ (List.mem_append_left _ (List.mem_map.2 ⟨p, List.mem_filter.2 ⟨here, good⟩, rfl⟩)) (by simp))
    · have window : u.linkOf l = ((List.range 32).foldl (fun s l => endTraining l s) s).linkOf l := by
        rw [State.linkOf, lnkEnd, State.linkOf]
      rw [window]
      exact foldl_endTraining (fun j here => by rw [length]; exact List.mem_range.1 here) (.inr (List.mem_range.2 small))

end Sys2Proof.Proofs
end


section
/-! Writes of the frame, clock, cap, cooling and memory registers (chapters 2, 6, 14 and 16). -/
namespace Sys2Proof.Proofs
set_option Elab.async false
open Sys2Proof.Machine Sys2Proof.Laws

theorem inStates_of_mem {s : State} {l : List DevState} (here : s.kpr.state ∈ l) : s.inStates l = true :=
  List.any_eq_true.2 ⟨_, here, beq_self_eq_true _⟩

/-! ## `FRM.NEXT` with nothing armed (R32) -/

theorem field_of_period {p : Nat} (fits : p < 2 ^ 27) : field p 0 27 = p ∧ field (2 ^ 63 + p) 0 27 = p := by
  constructor <;> simp only [field] <;> omega

section Unarmed
variable {s : State} {p : Nat} (up : s.hostUp = true) (running : s.kpr.state = .running) (unarmed : s.frm.nextArm = false)
  (fits : p < 2 ^ 27)
include up running unarmed fits

theorem writeNext_arm : writeNext (2 ^ 63 + p) s =
    if !s.latchOk then refuse 0x300038 (2 ^ 63 + p) 0x0134 s
    else if p < 1000 || 67108864 < p || p ≤ s.frm.planLead + 128 then refuse 0x300038 (2 ^ 63 + p) 0x0131 s
    else { s with frm := { s.frm with nextArm := true, nextPeriod := p } } := by
  have period := (field_of_period fits).2
  rw [writeNext, regWrite_runs up (arm_add_period_fits_next fits), inState_runs up (inStates_running running)]
  simp only [unarmed, bit_arm_of_arm_add_period fits, period, Bool.not_true, Bool.false_eq_true, if_false]

theorem writeNext_period : writeNext p s = { s with frm := { s.frm with nextPeriod := p } } := by
  have period := (field_of_period fits).1
  rw [writeNext, regWrite_runs up (period_fits_next fits), inState_runs up (inStates_running running)]
  simp only [unarmed, bit_arm_of_period fits, period, Bool.not_false, Bool.false_eq_true, if_false, if_true]

end Unarmed

theorem latchOk_eq_false_iff {s : State} : s.latchOk = false ↔
    ¬ (s.frm.frameStart + 2 * s.frm.period ≤ s.frm.latch ∧ (s.frm.latch - s.frm.frameStart) % max 1 s.frm.period = 0 ∧
      0 < s.frm.period) := by
  simp only [State.latchOk, ← Bool.not_eq_true, Bool.and_eq_true, decide_eq_true_eq, and_assoc]

/-! ## `CLK.LIMIT` and `CLK.NEXT` (R323) -/

/-- A value of `n` bits fits a register whose low `n` bits are writable. -/
theorem fits_low {v n rw : Nat} (ro : Nat) (small : v < 2 ^ n) (writable : rw % 2 ^ n = 2 ^ n - 1) (short : n ≤ 64) :
    v &&& ((2 ^ 64 - 1) ^^^ (rw ||| ro)) = 0 := by
  refine fits_mask ?_ (Nat.lt_of_lt_of_le small (Nat.pow_le_pow_right (by decide) short))
  have low : v &&& rw % 2 ^ n = v := by rw [writable, Nat.and_two_pow_sub_one_eq_mod, Nat.mod_eq_of_lt small]
  refine Nat.eq_of_testBit_eq fun i => ?_
  have bits := congrArg (fun x => x.testBit i) low
  simp only [Nat.testBit_and, Nat.testBit_mod_two_pow] at bits
  rw [Nat.testBit_and]
  by_cases set : v.testBit i = true
  · simp only [set, Bool.true_and, Bool.and_eq_true, decide_eq_true_eq] at bits
    rw [set, bits.2, Bool.and_self]
  · rw [Bool.eq_false_iff.2 set, Bool.false_and]

theorem limit_states {s : State} (idle : s.kpr.state = .ready ∨ s.kpr.state = .suspended) :
    s.inStates [.ready, .running, .suspended] = true ∧ s.kpr.state ≠ .running := by
  rcases idle with h | h
  · exact ⟨inStates_of_mem (by rw [h]; decide), by rw [h]; decide⟩
  · exact ⟨inStates_of_mem (by rw [h]; decide), by rw [h]; decide⟩

theorem exec_limitWrite {d : Nat} (small : d < 16) (s : State) : exec (.limitWrite d) s = .next (writeClkLimit d s) := by
  change Host.Outcome.next (writeClkLimit (d % 2 ^ 64) s) = _
  rw [Nat.mod_eq_of_lt (by omega)]

theorem writeClkLimit_idle {d : Nat} {s : State} (small : d < 16) (up : s.hostUp = true)
    (idle : s.kpr.state = .ready ∨ s.kpr.state = .suspended) :
    writeClkLimit d s = if !limitOk d then refuse 0x700010 d 0x0123 s else { s with clk := { s.clk with limit := d } } := by
  obtain ⟨takes, notRunning⟩ := limit_states idle
  rw [writeClkLimit, regWrite_runs up (fits_low (n := 4) _ small (by decide) (by decide)), inState_runs up takes]
  simp only [decide_eq_false notRunning, Bool.false_and, Bool.false_eq_true, if_false]

/-- `CLK.NEXT` takes arm and a divisor. -/
theorem clkNext_fits {d : Nat} (small : d < 16) :
    d &&& ((2 ^ 64 - 1) ^^^ ((2 ^ 63 + 15) ||| 0)) = 0 ∧ (2 ^ 63 + d) &&& ((2 ^ 64 - 1) ^^^ ((2 ^ 63 + 15) ||| 0)) = 0 := by
  revert small d
  decide

theorem fields_of_limit {d : Nat} (small : d < 16) :
    field d 0 4 = d ∧ field (2 ^ 63 + d) 0 4 = d ∧ bit d 63 = false ∧ bit (2 ^ 63 + d) 63 = true := by
  revert small d
  decide

theorem exec_limitArm {d : Nat} (small : d < 16) (s : State) : exec (.limitArm d) s = .next (writeClkNext (2 ^ 63 + d) s) := by
  change Host.Outcome.next (writeClkNext (d % 2 ^ 64 % 2 ^ 63 + 2 ^ 63) s) = _
  have value : d % 2 ^ 64 % 2 ^ 63 + 2 ^ 63 = 2 ^ 63 + d := by omega
  rw [value]

theorem exec_limitWithdraw {d : Nat} (small : d < 16) (s : State) : exec (.limitWithdraw d) s = .next (writeClkNext d s) := by
  change Host.Outcome.next (writeClkNext (d % 2 ^ 64 % 2 ^ 63) s) = _
  have value : d % 2 ^ 64 % 2 ^ 63 = d := by omega
  rw [value]

theorem inStates_limit_running {s : State} (running : s.kpr.state = .running) :
    s.inStates [.ready, .running, .suspended] = true :=
  inStates_of_mem (by rw [running]; decide)

/-- Arming the limit in RUNNING needs a usable latch. -/
theorem writeClkNext_arm {d : Nat} {s : State} (low : 4 ≤ d) (high : d ≤ 8) (up : s.hostUp = true)
    (running : s.kpr.state = .running) (unarmed : s.clk.nextArm = false) :
    writeClkNext (2 ^ 63 + d) s = if !s.latchOk then refuse 0x700018 (2 ^ 63 + d) 0x0134 s
      else { s with clk := { s.clk with nextArm := true, nextDivisor := d } } := by
  have small : d < 16 := by omega
  obtain ⟨-, divisor, -, arm⟩ := fields_of_limit small
  have ok : limitOk d = true := by rw [limitOk, decide_eq_true low, decide_eq_true high]; rfl
  rw [writeClkNext, regWrite_runs up (clkNext_fits small).2, inState_runs up (inStates_limit_running running)]
  simp only [unarmed, divisor, arm, ok, running, ne_eq, not_true_eq_false, decide_false, Bool.false_or, Bool.not_true,
    Bool.false_eq_true, if_false]

theorem writeClkNext_withdraw {d : Nat} {s : State} (small : d < 16) (up : s.hostUp = true)
    (running : s.kpr.state = .running) (armed : s.clk.nextArm = true) (early : s.frm.tc + s.frm.planLead < s.frm.latch) :
    writeClkNext d s = { s with clk := { s.clk with nextArm := false } } := by
  obtain ⟨-, -, keep, -⟩ := fields_of_limit small
  have before : s.beforeLatchPlan = true := decide_eq_true early
  rw [writeClkNext, regWrite_runs up (clkNext_fits small).1, inState_runs up (inStates_limit_running running)]
  simp only [armed, keep, before, Bool.not_true, Bool.or_self, Bool.false_eq_true, if_false, if_true]

/-- Settles O19: each write runs the body of its register, whose tests come in the order of the cases. -/
theorem frameRegisterWrites : Obligations.FrameRegisterWrites := by
  unfold Obligations.FrameRegisterWrites
  refine ⟨?arm, ?period, ?latch, ?rearm, ?early, ?late, ?field, ?limit, ?badLimit, ?limitArm, ?limitLatch, ?limitOff⟩
  case arm =>
    intro s p up running low high lead unarmed latch
    have inRange : (decide (p < 1000) || decide (67108864 < p) || decide (p ≤ s.frm.planLead + 128)) = false := by
      simp only [Bool.or_eq_false_iff, decide_eq_false_iff_not]
      omega
    rw [exec_periodArm s (by omega), writeNext_arm up running unarmed (by omega), latch, inRange]
    rfl
  case period =>
    intro s p up running fits outside unarmed latch
    have outOfRange : (decide (p < 1000) || decide (67108864 < p) || decide (p ≤ s.frm.planLead + 128)) = true := by
      simp only [Bool.or_eq_true, decide_eq_true_eq]
      omega
    rw [exec_periodArm s (by omega), writeNext_arm up running unarmed fits, latch, outOfRange]
    rfl
  case latch =>
    intro s p up running fits unarmed bad some_
    have unusable : s.latchOk = false := by
      rw [latchOk_eq_false_iff, Nat.max_eq_right some_]
      omega
    rw [exec_periodArm s (by omega), writeNext_arm up running unarmed fits, unusable]
    rfl
  case rearm =>
    intro s p up running fits armed
    rw [exec_periodArm s (by omega), writeNext_rearm up running armed fits]
  case early =>
    intro s p up running fits armed early
    rw [exec_periodWithdraw s (by omega), writeNext_withdraw_early up running armed fits early]
  case late =>
    intro s p up running fits armed late
    rw [exec_periodWithdraw s (by omega), writeNext_withdraw_late up running armed fits late]
  case field =>
    intro s p up running fits unarmed
    rw [exec_periodWithdraw s (by omega), writeNext_period up running unarmed fits]
  case limit =>
    intro s d up idle low high
    have ok : limitOk d = true := by rw [limitOk, decide_eq_true low, decide_eq_true high]; rfl
    rw [exec_limitWrite (by omega), writeClkLimit_idle (by omega) up idle, ok]
    rfl
  case badLimit =>
    intro s d up idle outside small
    have bad : limitOk d = false := by
      simp only [limitOk, Bool.and_eq_false_iff, decide_eq_false_iff_not]
      omega
    rw [exec_limitWrite small, writeClkLimit_idle small up idle, bad]
    rfl
  case limitArm =>
    intro s d up running low high unarmed latch
    rw [exec_limitArm (by omega), writeClkNext_arm low high up running unarmed, latch]
    rfl
  case limitLatch =>
    intro s d up running low high unarmed latch
    rw [exec_limitArm (by omega), writeClkNext_arm low high up running unarmed, latch]
    rfl
  case limitOff =>
    intro s d up running small armed early
    rw [exec_limitWithdraw small, writeClkNext_withdraw small up running armed early]

/-! ## The caps and the cooling baseline (R348, R357) -/

theorem exec_capWrite {which c : Nat} (exists_ : which < 2) (small : c < 2 ^ 16) {s : State} (up : s.hostUp = true)
    (takes : s.inStates capStates = true) : exec (.capWrite which c) s = .next (setCap which c s) := by
  have value : c % 2 ^ 64 = c := Nat.mod_eq_of_lt (by omega)
  change onUnit (which < 2) (writeCap which (c % 2 ^ 64) s) = _
  rw [onUnit_runs exists_, value, writeCap, regWrite_runs up (fits_low (n := 16) _ small (by decide) (by decide)),
    inState_runs up takes]

/-- A new 1 s cap is judged with the 8 s cap as it stands. -/
theorem setCap_zero {c : Nat} (small : c < 2 ^ 16) (s : State) :
    setCap 0 c s = if s.pwr.cap8 < 600 ∨ c < s.pwr.cap8 ∨ 1600 < c then refuse 0x800000 c 0x0123 s
      else { s with pwr := { s.pwr with cap1 := c } } := by
  have value : c % 2 ^ 16 = c := Nat.mod_eq_of_lt small
  simp only [setCap, value, if_true, Bool.or_eq_true, decide_eq_true_eq, or_assoc]
  rfl

/-- A new 8 s cap is judged with the 1 s cap as it stands. -/
theorem setCap_one {c : Nat} (small : c < 2 ^ 16) (s : State) :
    setCap 1 c s = if c < 600 ∨ s.pwr.cap1 < c ∨ 1600 < s.pwr.cap1 then refuse 0x800008 c 0x0123 s
      else { s with pwr := { s.pwr with cap8 := c } } := by
  have value : c % 2 ^ 16 = c := Nat.mod_eq_of_lt small
  simp only [setCap, value, Nat.one_ne_zero, if_false, Bool.or_eq_true, decide_eq_true_eq, or_assoc]
  rfl

theorem exec_coolBaseWrite {v : Nat} (small : v < 2 ^ 16) {s : State} (up : s.hostUp = true)
    (takes : s.inStates capStates = true) : exec (.coolBaseWrite v) s = .next
      { s with thm := { s.thm with base := v, baseValid := decide (v ≠ 0), selfCaptured := false } } := by
  have value : v % 2 ^ 64 = v := Nat.mod_eq_of_lt (by omega)
  change Host.Outcome.next (writeCoolBase (v % 2 ^ 64) s) = _
  rw [value, writeCoolBase, regWrite_runs up (fits_low (n := 16) _ small (by decide) (by decide)), inState_runs up takes]

/-! ## `MEM.SCRUB` and `MEM.CE_THRESH` (R144, R145) -/

/-- The fields of a scrub value: enable at bit 8, the period below it. -/
theorem scrub_fields (on : Bool) {h : Nat} (small : h < 256) :
    256 * b2n on + h < 2 ^ 9 ∧ field (256 * b2n on + h) 0 8 = h ∧ bit (256 * b2n on + h) 8 = on := by
  cases on
  · have zero : h / 2 ^ 8 = 0 := Nat.div_eq_of_lt small
    refine ⟨?_, ?_, ?_⟩ <;> simp only [b2n, field, bit, Bool.false_eq_true, if_false, Nat.mul_zero, Nat.zero_add]
    · omega
    · omega
    · rw [zero]
      rfl
  · have one : (256 + h) / 2 ^ 8 = 1 := by omega
    refine ⟨?_, ?_, ?_⟩ <;> simp only [b2n, field, bit, if_true, Nat.mul_one]
    · omega
    · omega
    · rw [one]
      rfl

theorem exec_scrubWrite (on : Bool) {h : Nat} (small : h < 256) {s : State} (up : s.hostUp = true)
    (takes : s.inStates memWriteStates = true) : exec (.scrubWrite (256 * b2n on + h)) s = .next
      (if h = 0 ∨ 168 < h then refuse 0xC00008 (256 * b2n on + h) 0x0320 s
        else { s with mem := { s.mem with scrubEnable := on, scrubPeriod := h } }) := by
  obtain ⟨nine, period, enable⟩ := scrub_fields on small
  have value : (256 * b2n on + h) % 2 ^ 64 = 256 * b2n on + h := Nat.mod_eq_of_lt (by omega)
  change Host.Outcome.next (writeScrub ((256 * b2n on + h) % 2 ^ 64) s) = _
  rw [value, writeScrub, regWrite_runs up (fits_low (n := 9) _ nine (by decide) (by decide))]
  simp only [takes, period, enable, Bool.not_true, Bool.false_or, Bool.or_eq_true, decide_eq_true_eq]

/-- The fields of a threshold value: the window at bit 32, the count below it. -/
theorem threshold_fields {w n : Nat} (window : w < 2 ^ 16) (count : n < 2 ^ 24) :
    field (2 ^ 32 * w + n) 32 16 = w ∧ field (2 ^ 32 * w + n) 0 24 = n := by
  constructor <;> simp only [field] <;> omega

/-- A field at bit `k` meets no bit of a mask that is clear there. -/
theorem and_shifted_eq_zero {a k m c : Nat} (small : a < 2 ^ m) (clear : c / 2 ^ k % 2 ^ m = 0) : 2 ^ k * a &&& c = 0 := by
  refine Nat.eq_of_testBit_eq fun i => ?_
  rw [Nat.testBit_and, Nat.zero_testBit, Nat.testBit_two_pow_mul]
  by_cases high : k ≤ i
  · have bits := congrArg (fun x => x.testBit (i - k)) (and_eq_zero_of_low small clear)
    simp only [Nat.testBit_and, Nat.zero_testBit, Nat.testBit_div_two_pow, Nat.sub_add_cancel high] at bits
    rw [Bool.and_assoc, bits, Bool.and_false]
  · rw [decide_eq_false high, Bool.false_and, Bool.false_and]

theorem threshold_fits {w n : Nat} (window : w < 2 ^ 16) (count : n < 2 ^ 24) :
    (2 ^ 32 * w + n) &&& ((2 ^ 64 - 1) ^^^ (0xFFFF00FFFFFF ||| 0)) = 0 := by
  exact and_eq_zero_of_parts (by omega) (and_eq_zero_of_low count (by decide)) (and_shifted_eq_zero window (by decide))

/-- A value without reserved bits runs the body of `MEM.CE_THRESH`. -/
theorem exec_ceThreshWrite {w n : Nat} (window : w < 2 ^ 16) (count : n < 2 ^ 24) {s : State} (up : s.hostUp = true)
    (takes : s.inStates memWriteStates = true) : exec (.ceThreshWrite (2 ^ 32 * w + n)) s = .next
      (if w = 0 ∨ n = 0 then refuse 0xC00010 (2 ^ 32 * w + n) 0x0320 s
        else { s with mem := { s.mem with ceWindow := w, ceCount := n } }) := by
  obtain ⟨upper, lower⟩ := threshold_fields window count
  have value : (2 ^ 32 * w + n) % 2 ^ 64 = 2 ^ 32 * w + n := Nat.mod_eq_of_lt (by omega)
  change Host.Outcome.next (writeCeThresh ((2 ^ 32 * w + n) % 2 ^ 64) s) = _
  rw [value, writeCeThresh, regWrite_runs up (threshold_fits window count)]
  simp only [takes, upper, lower, Bool.not_true, Bool.false_or, Bool.or_eq_true, decide_eq_true_eq]

/-- Settles O20: each write that fits its register runs the body, which takes a value in its range and refuses another. -/
theorem capCoolAndMemoryRegisters : Obligations.CapCoolAndMemoryRegisters := by
  unfold Obligations.CapCoolAndMemoryRegisters
  refine ⟨?cap1, ?cap8, ?badCap8, ?badCap1, ?cool, ?scrub, ?badScrub, ?threshold, ?badThreshold⟩
  case cap1 =>
    intro s c up takes high order floor
    rw [exec_capWrite (by decide) (by omega) up takes, setCap_zero (by omega), if_neg (by omega)]
  case cap8 =>
    intro s c up takes floor order high
    rw [exec_capWrite (by decide) (by omega) up takes, setCap_one (by omega), if_neg (by omega)]
  case badCap8 =>
    intro s c up takes small outside
    rw [exec_capWrite (by decide) small up takes, setCap_one small, if_pos (by omega)]
  case badCap1 =>
    intro s c up takes small outside
    rw [exec_capWrite (by decide) small up takes, setCap_zero small, if_pos (by omega)]
  case cool => exact fun s v up takes small => exec_coolBaseWrite small up takes
  case scrub =>
    intro s h on up takes low high
    rw [exec_scrubWrite on (by omega) up takes, if_neg (by omega)]
  case badScrub =>
    intro s h on up takes outside small
    rw [exec_scrubWrite on small up takes, if_pos outside]
  case threshold =>
    intro s w n up takes someWindow window someCount count
    rw [exec_ceThreshWrite window count up takes, if_neg (by omega)]
  case badThreshold =>
    intro s w n up takes window count zero
    rw [exec_ceThreshWrite window count up takes, if_pos zero]

end Sys2Proof.Proofs
end


section
/-! Writes of the bank, debug and BAR2 registers, and the rules every register write keeps (chapters 7, 13 and 20). -/
namespace Sys2Proof.Proofs
set_option Elab.async false
open Sys2Proof.Machine Sys2Proof.Laws

/-! ## `BNK.SEL` (R291) -/

theorem bnkSel_fields {n b : Nat} (tile : n < 16384) (bank : b < 32) :
    field (32 * n + b) 5 14 = n ∧ field (32 * n + b) 0 5 = b := by
  constructor <;> simp only [field] <;> omega

theorem exec_bnkSelWrite {n b : Nat} (tile : n < 16384) (bank : b < 32) {s : State} (up : s.hostUp = true)
    (takes : s.inStates [.ready, .running, .suspended] = true) :
    exec (.bnkSelWrite (32 * n + b)) s = .next
      (if coreCount ≤ n || bankCount ≤ b then refuse 0xD00008 (32 * n + b) 0x0333 s
        else { s with bnk := { s.bnk with selTile := n, selBank := b } }) := by
  obtain ⟨upper, lower⟩ := bnkSel_fields tile bank
  have value : (32 * n + b) % 2 ^ 64 = 32 * n + b := Nat.mod_eq_of_lt (by omega)
  change Host.Outcome.next (writeBnkSel ((32 * n + b) % 2 ^ 64) s) = _
  rw [value, writeBnkSel, regWrite_runs up (fits_low (n := 19) 0 (by omega) (by decide) (by decide)), inState_runs up takes]
  simp only [upper, lower]

/-! ## `BNK.HCMD0` (Table 20.6) -/

/-- The word a start of a host command writes. -/
def hcmdWord (entry op fmt row cm : Nat) : Nat :=
  2 ^ 48 + 2 ^ 40 * entry + 2 ^ 36 * op + 2 ^ 34 * fmt + 2 ^ 24 * row + cm

/-- A field at bit `k` lies inside a mask that has its bits. -/
theorem shifted_and_eq_self {a k m c : Nat} (small : a < 2 ^ m) (inside : c / 2 ^ k % 2 ^ m = 2 ^ m - 1) :
    2 ^ k * a &&& c = 2 ^ k * a := by
  have low : a &&& c / 2 ^ k = a := by
    rw [show a &&& c / 2 ^ k = a &&& c / 2 ^ k % 2 ^ m from ?_, inside, Nat.and_two_pow_sub_one_eq_mod, Nat.mod_eq_of_lt small]
    rw [← Nat.and_two_pow_sub_one_eq_mod (c / 2 ^ k), Nat.and_comm (c / 2 ^ k) (2 ^ m - 1), ← Nat.and_assoc, Nat.and_two_pow_sub_one_eq_mod,
      Nat.mod_eq_of_lt small]
  refine Nat.eq_of_testBit_eq fun i => ?_
  rw [Nat.testBit_and, Nat.testBit_two_pow_mul]
  by_cases high : k ≤ i
  · have bits := congrArg (fun x => x.testBit (i - k)) low
    simp only [Nat.testBit_and, Nat.testBit_div_two_pow, Nat.sub_add_cancel high] at bits
    rw [Bool.and_assoc, bits]
  · rw [decide_eq_false high, Bool.false_and, Bool.false_and]

theorem and_eq_self_of_parts {a v n c : Nat} (small : v < 2 ^ n) (lower : v &&& c = v) (upper : 2 ^ n * a &&& c = 2 ^ n * a) :
    (2 ^ n * a + v) &&& c = 2 ^ n * a + v := by
  rw [Nat.two_pow_add_eq_or_of_lt small, Nat.and_or_distrib_right, lower, upper]

section Word
variable {entry op fmt row cm : Nat} (hentry : entry < 256) (hop : op < 16) (hfmt : fmt < 4) (hrow : row < 256)
  (hcm : cm < 2 ^ 16)
include hentry hop hfmt hrow hcm

theorem hcmdWord_writable : hcmdWord entry op fmt row cm &&& 0x1FFFCFF00FFFF = hcmdWord entry op fmt row cm := by
  have parts : hcmdWord entry op fmt row cm = 2 ^ 34 * (2 ^ 14 + 2 ^ 6 * entry + 2 ^ 2 * op + fmt) + (2 ^ 24 * row + 2 ^ 0 * cm) := by
    rw [hcmdWord]
    omega
  rw [parts]
  exact and_eq_self_of_parts (by omega)
    (and_eq_self_of_parts (by omega) (shifted_and_eq_self hcm (by decide)) (shifted_and_eq_self (m := 8) hrow (by decide)))
    (shifted_and_eq_self (m := 15) (by omega) (by decide))

theorem hcmdWord_small : hcmdWord entry op fmt row cm < 2 ^ 64 := by
  rw [hcmdWord]
  omega

theorem hcmdWord_fields : field (hcmdWord entry op fmt row cm) 40 8 = entry ∧ field (hcmdWord entry op fmt row cm) 36 4 = op ∧
    field (hcmdWord entry op fmt row cm) 34 2 = fmt ∧ field (hcmdWord entry op fmt row cm) 24 8 = row ∧
    field (hcmdWord entry op fmt row cm) 0 16 = cm ∧ bit (hcmdWord entry op fmt row cm) 48 = true := by
  refine ⟨?_, ?_, ?_, ?_, ?_, ?_⟩
  case refine_6 =>
    rw [bit_eq_testBit, Nat.testBit_eq_decide_div_mod_eq, decide_eq_true_eq, hcmdWord]
    omega
  all_goals
    simp only [field, hcmdWord]
    omega

/-- BNK_HCMD_GO writes the word with go set, whose bits are all writable. -/
theorem exec_bnkHcmdGo (s : State) :
    exec (.bnkHcmdGo (2 ^ 40 * entry + 2 ^ 36 * op + 2 ^ 34 * fmt + 2 ^ 24 * row + cm)) s =
      .next (writeHcmd0 (hcmdWord entry op fmt row cm) s) := by
  have value : (2 ^ 40 * entry + 2 ^ 36 * op + 2 ^ 34 * fmt + 2 ^ 24 * row + cm) % 2 ^ 64 =
      2 ^ 40 * entry + 2 ^ 36 * op + 2 ^ 34 * fmt + 2 ^ 24 * row + cm := Nat.mod_eq_of_lt (by omega)
  have idle : bit (2 ^ 40 * entry + 2 ^ 36 * op + 2 ^ 34 * fmt + 2 ^ 24 * row + cm) 48 = false := by
    rw [bit_eq_testBit, Nat.testBit_eq_decide_div_mod_eq, decide_eq_false_iff_not]
    omega
  have word : 2 ^ 40 * entry + 2 ^ 36 * op + 2 ^ 34 * fmt + 2 ^ 24 * row + cm + 2 ^ 48 = hcmdWord entry op fmt row cm := by
    rw [hcmdWord]
    omega
  change Host.Outcome.next (doBnkHcmdGo ((2 ^ 40 * entry + 2 ^ 36 * op + 2 ^ 34 * fmt + 2 ^ 24 * row + cm) % 2 ^ 64) s) = _
  rw [value, doBnkHcmdGo, idle, if_neg Bool.false_ne_true, word]

/-- What the host slot takes of the word. -/
def hostSlot (entry op fmt row cm : Nat) (x : Slot) : Slot :=
  { x with entry := entry, op := op, accFmt := fmt, rowLen := row, countM1 := cm }

/-- The host slot is queued with the fields of the word and its progress cleared. -/
def queueHost (n b entry op fmt row cm : Nat) (s : State) : State :=
  queueSlot n b 6 (setSlot n b 6 (fun x => { x with entriesDone := 0, resultUsed := 0, nan := false, sat := false })
    (setSlot n b 6 (hostSlot entry op fmt row cm) s))

theorem writeHcmd0_go {s : State} (up : s.hostUp = true) : writeHcmd0 (hcmdWord entry op fmt row cm) s =
    if !s.inStates [.ready, .running, .suspended] then refuse 0xD00200 (hcmdWord entry op fmt row cm) 0x0331 s
    else if !((s.unitOf s.bnk.selTile s.bnk.selBank).slot 6).free then refuse 0xD00200 (hcmdWord entry op fmt row cm) 0x0330 s
    else if s.bankFenced s.bnk.selTile s.bnk.selBank then refuse 0xD00200 (hcmdWord entry op fmt row cm) 0x0332 s
    else queueHost s.bnk.selTile s.bnk.selBank entry op fmt row cm s := by
  obtain ⟨fentry, fop, ffmt, frow, fcm, go⟩ := hcmdWord_fields hentry hop hfmt hrow hcm
  rw [writeHcmd0]
  rw [regWrite_runs up (fits_mask (hcmdWord_writable hentry hop hfmt hrow hcm) (hcmdWord_small hentry hop hfmt hrow hcm))]
  simp only [fentry, fop, ffmt, frow, fcm, go, if_true, Bool.true_and]
  rfl

end Word

theorem slot_free_eq_false {x : Slot} (busy : x.state = 1 ∨ x.state = 2) : x.free = false := by
  rcases busy with h | h <;> simp [Slot.free, h]

theorem units_setUnit_other {n b k : Nat} (f : BankUnit → BankUnit) (s : State) (ne : k ≠ n * 32 + b) :
    mapGet bankUnit0 (setUnit n b f s).bnk.units k = mapGet bankUnit0 s.bnk.units k := mapGet_mapMod_other _ _ f ne

theorem unitOf_setSlot (n b i : Nat) (f : Slot → Slot) (s : State) : (setSlot n b i f s).unitOf n b =
    { (s.unitOf n b) with slots := setNth (s.unitOf n b).slots i (f ((s.unitOf n b).slot i)) } := setUnit_unitOf_same ..

theorem unitOf_queueHost (n b entry op fmt row cm : Nat) {s : State} (eight : (s.unitOf n b).slots.length = 8) :
    (queueHost n b entry op fmt row cm s).unitOf n b = { (s.unitOf n b) with
      order := (s.unitOf n b).order ++ [6]
      slots := setNth (s.unitOf n b).slots 6 { (s.unitOf n b).slot 6 with
        state := 1, cause := 0, changedTc := s.frm.tc, entry := entry, op := op, accFmt := fmt, rowLen := row, countM1 := cm,
        entriesDone := 0, resultUsed := 0, nan := false, sat := false } } := by
  rw [queueHost, queueSlot, setUnit_unitOf_same, slotState, unitOf_setSlot, unitOf_setSlot, unitOf_setSlot]
  have inside : 6 < (s.unitOf n b).slots.length := by omega
  simp only [BankUnit.slot, setNth_setNth, nth_setNth_same, inside, hostSlot]
  rfl

theorem units_queueHost_other {n b k : Nat} (entry op fmt row cm : Nat) (s : State) (ne : k ≠ n * 32 + b) :
    mapGet bankUnit0 (queueHost n b entry op fmt row cm s).bnk.units k = mapGet bankUnit0 s.bnk.units k := by
  simp only [queueHost, queueSlot, slotState, setSlot, units_setUnit_other _ _ ne]

theorem queueHost_frame (n b entry op fmt row cm : Nat) (s : State) : queueHost n b entry op fmt row cm s =
    { s with bnk := { s.bnk with units := (queueHost n b entry op fmt row cm s).bnk.units } } := by
  simp only [queueHost, queueSlot, slotState, setSlot, setUnit]

/-! ## `DBG.SEL` and `DBG.STATUS` (R389) -/

theorem dbgSel_fits {core slot base : Nat} (hcore : core < 16384) (hslot : slot < 4) (hbase : base < 0x8000) :
    (2 ^ 34 * core + 2 ^ 32 * slot + base) &&& ((2 ^ 64 - 1) ^^^ ((0xFFFF * 2 ^ 32 + 0x7FFF) ||| 0)) = 0 := by
  have parts : 2 ^ 34 * core + 2 ^ 32 * slot + base = 2 ^ 32 * (4 * core + slot) + 2 ^ 0 * base := by omega
  refine fits_mask ?_ (by omega)
  rw [parts]
  exact and_eq_self_of_parts (by omega) (shifted_and_eq_self (m := 15) hbase (by decide))
    (shifted_and_eq_self (m := 16) (by omega) (by decide))

theorem dbgSel_fields {core slot base : Nat} (hcore : core < 16384) (hslot : slot < 4) (hbase : base < 0x8000) :
    field (2 ^ 34 * core + 2 ^ 32 * slot + base) 34 14 = core ∧ field (2 ^ 34 * core + 2 ^ 32 * slot + base) 32 2 = slot ∧
    field (2 ^ 34 * core + 2 ^ 32 * slot + base) 0 15 = base := by
  refine ⟨?_, ?_, ?_⟩
  all_goals
    simp only [field]
    omega

theorem exec_dbgSelWrite {core slot base : Nat} (hcore : core < 16384) (hslot : slot < 4) (hbase : base < 0x8000) {s : State}
    (up : s.hostUp = true) : exec (.dbgSelWrite (2 ^ 34 * core + 2 ^ 32 * slot + base)) s = .next
      (if !s.dbgOpen then refuse 0xF00008 (2 ^ 34 * core + 2 ^ 32 * slot + base) 0x0120 s
        else if coreCount ≤ core || 0x7F80 < base then refuse 0xF00008 (2 ^ 34 * core + 2 ^ 32 * slot + base) 0x0123 s
        else { s with dbg := { s.dbg with core := core, slot := slot, csBase := base } }) := by
  obtain ⟨fcore, fslot, fbase⟩ := dbgSel_fields hcore hslot hbase
  have value : (2 ^ 34 * core + 2 ^ 32 * slot + base) % 2 ^ 64 = 2 ^ 34 * core + 2 ^ 32 * slot + base :=
    Nat.mod_eq_of_lt (by omega)
  change Host.Outcome.next (writeDbgSel ((2 ^ 34 * core + 2 ^ 32 * slot + base) % 2 ^ 64) s) = _
  rw [value, writeDbgSel, regWrite_runs up (dbgSel_fits hcore hslot hbase)]
  simp only [fcore, fslot, fbase]

theorem exec_dbgStatusClear {v : Nat} (small : v < 4) {s : State} (up : s.hostUp = true) :
    exec (.dbgStatusClear v) s = .next (if !s.dbgOpen then refuse 0xF00000 v 0x0120 s
      else { s with dbg := { s.dbg with
        paritySeen := s.dbg.paritySeen && !bit v 1, selChanged := s.dbg.selChanged && !bit v 0 } }) := by
  have value : v % 2 ^ 64 = v := Nat.mod_eq_of_lt (by omega)
  change Host.Outcome.next (writeDbgStatus (v % 2 ^ 64) s) = _
  rw [value, writeDbgStatus, regWrite_runs up (fits_low (n := 2) _ small (by decide) (by decide))]

theorem two_bits (a b : Bool) : bit (2 * b2n a + b2n b) 1 = a ∧ bit (2 * b2n a + b2n b) 0 = b ∧ 2 * b2n a + b2n b < 4 := by
  revert a b
  decide

/-! ## `HIF.BAR2_BASE` -/

theorem exec_bar2BaseWrite {v : Nat} (small : v < 1024) {s : State} (up : s.hostUp = true) : exec (.bar2BaseWrite v) s = .next
    (if v ≤ 704 ∧ s.inStates memStates then { s with hif := { s.hif with baseGib := v } } else refuse 0x500008 v 0x0120 s) := by
  have value : v % 2 ^ 64 = v := Nat.mod_eq_of_lt (by omega)
  change Host.Outcome.next (writeBar2Base (v % 2 ^ 64) s) = _
  rw [value, writeBar2Base, regWrite_runs up (fits_low (n := 10) _ small (by decide) (by decide))]

/-- Settles O21: every word fits its register, and the body's tests come in the order of the cases. -/
theorem bankAndDebugRegisters : Obligations.BankAndDebugRegisters := by
  unfold Obligations.BankAndDebugRegisters
  refine ⟨?sel, ?selBad, ?busy, ?fenced, ?early, ?queued, ?dbg, ?dbgBad, ?clear, ?locked, ?base, ?baseHigh⟩
  case sel =>
    intro s n b up takes tile bank
    have exists_ : (coreCount ≤ n || bankCount ≤ b) = false := by
      rw [decide_eq_false (show ¬ coreCount ≤ n from Nat.not_le.2 tile), decide_eq_false (show ¬ bankCount ≤ b from Nat.not_le.2 bank)]
      rfl
    rw [exec_bnkSelWrite (by omega) (by omega) up takes, exists_, if_neg Bool.false_ne_true]
  case selBad =>
    intro s n b up takes tile bank missing
    have none_ : (coreCount ≤ n || bankCount ≤ b) = true := by
      rw [Bool.or_eq_true, decide_eq_true_eq, decide_eq_true_eq]
      exact missing
    rw [exec_bnkSelWrite tile bank up takes, none_, if_pos rfl]
  case busy =>
    intro s entry op fmt row cm up takes hentry hop hfmt hrow hcm busy
    rw [exec_bnkHcmdGo hentry hop hfmt hrow hcm, writeHcmd0_go hentry hop hfmt hrow hcm up, takes, slot_free_eq_false busy]
    rfl
  case fenced =>
    intro s entry op fmt row cm up takes hentry hop hfmt hrow hcm free fenced
    rw [exec_bnkHcmdGo hentry hop hfmt hrow hcm, writeHcmd0_go hentry hop hfmt hrow hcm up, takes, free, fenced]
    rfl
  case early =>
    intro s entry op fmt row cm up takes hentry hop hfmt hrow hcm
    rw [exec_bnkHcmdGo hentry hop hfmt hrow hcm, writeHcmd0_go hentry hop hfmt hrow hcm up, takes]
    rfl
  case queued =>
    intro s entry op fmt row cm up takes hentry hop hfmt hrow hcm free eight live
    refine ⟨queueHost s.bnk.selTile s.bnk.selBank entry op fmt row cm s, ?_, unitOf_queueHost _ _ _ _ _ _ _ eight,
      fun k ne => units_queueHost_other _ _ _ _ _ s ne, queueHost_frame ..⟩
    rw [exec_bnkHcmdGo hentry hop hfmt hrow hcm, writeHcmd0_go hentry hop hfmt hrow hcm up, takes, free, live]
    rfl
  case dbg =>
    intro s core slot base up opened hcore hslot hbase
    have exists_ : (coreCount ≤ core || 0x7F80 < base) = false := by
      rw [decide_eq_false (show ¬ coreCount ≤ core from Nat.not_le.2 hcore), decide_eq_false (Nat.not_lt.2 hbase)]
      rfl
    rw [exec_dbgSelWrite (by omega) hslot (by omega) up, opened, exists_]
    rfl
  case dbgBad =>
    intro s core slot base up opened hcore hslot hbase missing
    have none_ : (coreCount ≤ core || 0x7F80 < base) = true := by
      rw [Bool.or_eq_true, decide_eq_true_eq, decide_eq_true_eq]
      exact missing
    rw [exec_dbgSelWrite hcore hslot hbase up, opened, none_]
    rfl
  case clear =>
    intro s a b up opened
    obtain ⟨high, low, small⟩ := two_bits a b
    rw [exec_dbgStatusClear small up, opened, high, low]
    rfl
  case locked =>
    intro s core slot base v up closed hcore hslot hbase small
    constructor
    · rw [exec_dbgSelWrite hcore hslot hbase up, closed]
      rfl
    · rw [exec_dbgStatusClear small up, closed]
      rfl
  case base =>
    intro s v up takes low
    rw [exec_bar2BaseWrite (by omega) up, if_pos ⟨low, takes⟩]
  case baseHigh =>
    intro s v up high small
    rw [exec_bar2BaseWrite small up, if_neg (fun h => absurd h.1 (by omega))]

/-! ## Widths and offsets of a register write (R414) -/

theorem exec_registerWrite_high {off w v : Nat} (high : 0x1000000 ≤ off) (small : v < 2 ^ 64) {s : State}
    (link : s.hif.linkUp = true) : exec (.registerWrite off w v) s = .next (writeAer (off - 0x1000000) v s) := by
  change Host.Outcome.next (doRegisterWrite off w (v % 2 ^ 64) s) = _
  rw [Nat.mod_eq_of_lt small, doRegisterWrite, if_pos high, if_pos link]

theorem exec_registerWrite_refused {off w v : Nat} (low : off < 0x1000000) (small : v < 2 ^ 64) {s : State} (up : s.hostUp = true)
    (odd : (w ≠ 4 && w ≠ 8) ∨ off % w ≠ 0) : exec (.registerWrite off w v) s = .next (refuse off v 0 s) := by
  have refuses : ((w ≠ 4 && w ≠ 8) || off % w ≠ 0) = true := by simpa using odd
  change Host.Outcome.next (doRegisterWrite off w (v % 2 ^ 64) s) = _
  rw [Nat.mod_eq_of_lt small, doRegisterWrite, if_neg (Nat.not_le.2 low), up, refuses]
  rfl

theorem exec_registerWrite_down {off w v : Nat} (low : off < 0x1000000) {s : State} (down : s.hostUp = false) :
    exec (.registerWrite off w v) s = .next s := by
  change Host.Outcome.next (doRegisterWrite off w (v % 2 ^ 64) s) = _
  rw [doRegisterWrite, if_neg (Nat.not_le.2 low), down]
  rfl

/-- A 32-bit write is a 64-bit write of the register with one half replaced. -/
theorem exec_registerWrite_four {off v : Nat} (low : off < 0x1000000) (aligned : off % 4 = 0) (small : v < 2 ^ 32) {s : State}
    (up : s.hostUp = true) : exec (.registerWrite off 4 v) s = .next (writeReg (off / 8 * 8) (s.merged off v) s) := by
  have value : v % 2 ^ 64 = v := Nat.mod_eq_of_lt (by omega)
  change Host.Outcome.next (doRegisterWrite off 4 (v % 2 ^ 64) s) = _
  rw [value, doRegisterWrite, if_neg (Nat.not_le.2 low), up, Nat.mod_eq_of_lt small, aligned]
  rfl

theorem widths_small {w v : Nat} (width : w = 1 ∨ w = 2 ∨ w = 4 ∨ w = 8) (small : v < 2 ^ (8 * w)) : v < 2 ^ 64 :=
  Nat.lt_of_lt_of_le small (Nat.pow_le_pow_right (by decide) (by omega))

/-! ## `FRM.START` (R414) -/

theorem writeReg_start (v : Nat) {s : State} (up : s.hostUp = true) : writeReg 0x300028 v s =
    if s.inStates [.ready, .suspended] then { s with frm := { s.frm with startReg := v } } else refuse 0x300028 v 0x0120 s := by
  have start : writeReg 0x300028 v s = writeStart v s := rfl
  rw [start, writeStart, inState, up]
  rfl

theorem merged_start {s : State} (suspended : s.kpr.state = .suspended) (small : s.frm.startReg < 2 ^ 64) (v : Nat) :
    s.merged 0x300028 v = s.frm.startReg / 2 ^ 32 * 2 ^ 32 + v ∧ s.merged 0x30002C v = s.frm.startReg % 2 ^ 32 + v * 2 ^ 32 := by
  have kept : s.frm.startReg &&& (2 ^ 64 - 1) = s.frm.startReg := by
    rw [Nat.and_two_pow_sub_one_eq_mod, Nat.mod_eq_of_lt small]
  have reads : s.inStates (blockReads 3) = true := inStates_of_mem (by rw [suspended]; decide)
  have start : s.readReg 0x300028 = s.frm.startReg := by
    change (if !s.inStates (blockReads 3) || decide (0x300028 % 8 ≠ 0) then 0 else s.readFrm 0x28) = _
    rw [reads]
    rfl
  have all : keepMask 0x300028 = 2 ^ 64 - 1 := by decide
  constructor
  · rw [State.merged, if_pos (by decide), show 0x300028 / 8 * 8 = 0x300028 from rfl, start, all, kept]
  · rw [State.merged, if_neg (by decide), show 0x30002C / 8 * 8 = 0x300028 from rfl, start, all, kept]

/-- Settles O22: REGISTER_WRITE tests the place, the host, the width and the offset in this order and then writes the register. -/
theorem registerWriteRules : Obligations.RegisterWriteRules := by
  unfold Obligations.RegisterWriteRules
  refine ⟨?narrow, ?unaligned, ?readOnly, ?start, ?running, ?halves, ?down, ?mask, ?status⟩
  case narrow =>
    intro s off w v up low width small
    exact exec_registerWrite_refused low (widths_small (by omega) small) up (.inl (by
      rw [decide_eq_true (show w ≠ 4 by omega), decide_eq_true (show w ≠ 8 by omega)]
      rfl))
  case unaligned =>
    intro s off w v up low width odd small
    exact exec_registerWrite_refused low (widths_small (by omega) small) up (.inr odd)
  case readOnly =>
    intro s v up small
    constructor
    · rw [exec_registerWrite_eight up (by decide) (by decide) small]
      change Host.Outcome.next (if !s.hostUp || decide (0x000008 = 0x509000) then s else refuse 0x000008 v 0x0123 s) = _
      rw [up]
      rfl
    · rw [exec_registerWrite_eight up (by decide) (by decide) small]
      change Host.Outcome.next (if !s.hostUp || decide (0x300000 = 0x509000) then s else refuse 0x300000 v 0x0123 s) = _
      rw [up]
      rfl
  case start =>
    intro s v up small idle
    have takes : s.inStates [.ready, .suspended] = true := inStates_of_mem (by rcases idle with h | h <;> simp [h])
    rw [exec_registerWrite_eight up (by decide) (by decide) small, writeReg_start v up, if_pos takes]
  case running =>
    intro s v up small running
    have refuses : s.inStates [.ready, .suspended] = false := by simp [State.inStates, running]
    rw [exec_registerWrite_eight up (by decide) (by decide) small, writeReg_start v up, refuses, if_neg Bool.false_ne_true]
  case halves =>
    intro s lo hi up hlo hhi suspended small
    have takes : s.inStates [.ready, .suspended] = true := inStates_of_mem (by simp [suspended])
    constructor
    · rw [exec_registerWrite_four (by decide) (by decide) hlo up, (merged_start suspended small lo).1]
      exact congrArg _ ((writeReg_start _ up).trans (if_pos takes))
    · rw [exec_registerWrite_four (by decide) (by decide) hhi up, (merged_start suspended small hi).2]
      exact congrArg _ ((writeReg_start _ up).trans (if_pos takes))
  case down =>
    intro s off w v down low _ _
    exact exec_registerWrite_down low down
  case mask =>
    intro s v link small
    constructor
    · rw [exec_registerWrite_high (by decide) (by omega) link]
      change Host.Outcome.next { s with hif := { s.hif with aer := { s.hif.aer with mask := v % 2 ^ 32 } } } = _
      rw [Nat.mod_eq_of_lt small]
    · rw [exec_registerWrite_high (by decide) (by omega) link]
      change Host.Outcome.next { s with hif := { s.hif with aer := { s.hif.aer with severity := v % 2 ^ 32 } } } = _
      rw [Nat.mod_eq_of_lt small]
  case status =>
    intro s v link small
    refine ⟨_, exec_registerWrite_high (by decide) (by omega) link, ?_, rfl, rfl⟩
    change s.hif.aer.status &&& (0xFFFFFFFF ^^^ (v % 2 ^ 32)) = _
    rw [Nat.mod_eq_of_lt small]

end Sys2Proof.Proofs
end


section
/-! Commands of an image and the end of the consistency check (chapter 11). -/
namespace Sys2Proof.Proofs
set_option Elab.async false
open Sys2Proof.Machine Sys2Proof.Laws

/-! ## `DEV.CTRL` (R252, Table 11.7) -/

/-- One command bit of `DEV.CTRL` runs the command. -/
theorem writeDevCtrl_one {v : Nat} {s : State} (one : v = 1 ∨ v = 2 ∨ v = 4 ∨ v = 8) (up : s.hostUp = true) :
    writeDevCtrl v s =
      if v = 8 then (if s.kpr.state = .running then requestSuspend s else refuseCtrl v 0x0120 s)
      else if !(s.inStates [.ready, .suspended] && s.dev.loadRun.isNone) then refuseCtrl v 0x0120 s
      else if v = 2 then startLoad s
      else if s.dev.image.isNone then refuseCtrl v (if v = 1 then 0x0110 else 0x0120) s
      else if v = 4 then unloadNow s
      else startCheck s := by
  have small : v < 2 ^ 4 := by omega
  have single : ¬ 1 < popcount 4 v ∧ v ≠ 0 := by
    rcases one with rfl | rfl | rfl | rfl <;> decide
  rw [writeDevCtrl, regWrite_runs up (fits_low (n := 4) 0 small (by decide) (by decide)), if_neg single.1, if_neg single.2]

theorem idle_takes {s : State} (idle : s.kpr.state = .ready ∨ s.kpr.state = .suspended) (free : s.dev.loadRun = none) :
    (s.inStates [.ready, .suspended] && s.dev.loadRun.isNone) = true := by
  have takes : s.inStates [.ready, .suspended] = true := inStates_of_mem (by rcases idle with h | h <;> simp [h])
  rw [takes, free]
  rfl

section Idle
variable {s : State} (up : s.hostUp = true) (idle : s.kpr.state = .ready ∨ s.kpr.state = .suspended)
  (free : s.dev.loadRun = none)
include up idle free

theorem exec_loadImage_idle : exec .loadImage s = .next (startLoad s) := by
  change Host.Outcome.next (writeDevCtrl 2 s) = _
  rw [writeDevCtrl_one (by decide) up, idle_takes idle free]
  simp only [Nat.reduceEqDiff, if_false, if_true, Bool.not_true, Bool.false_eq_true]

theorem exec_unloadImage_idle : exec .unloadImage s =
    .next (if s.dev.image.isNone then refuseCtrl 4 0x0120 s else unloadNow s) := by
  change Host.Outcome.next (writeDevCtrl 4 s) = _
  rw [writeDevCtrl_one (by decide) up, idle_takes idle free]
  simp only [Nat.reduceEqDiff, if_false, if_true, Bool.not_true, Bool.false_eq_true]

theorem exec_enableImage_idle : exec .enableImage s =
    .next (if s.dev.image.isNone then refuseCtrl 1 0x0110 s else startCheck s) := by
  change Host.Outcome.next (writeDevCtrl 1 s) = _
  rw [writeDevCtrl_one (by decide) up, idle_takes idle free]
  simp only [Nat.reduceEqDiff, if_false, if_true, Bool.not_true, Bool.false_eq_true]

end Idle

theorem exec_suspendImage_running {s : State} (up : s.hostUp = true) (running : s.kpr.state = .running) :
    exec .suspendImage s = .next (requestSuspend s) := by
  change Host.Outcome.next (writeDevCtrl 8 s) = _
  rw [writeDevCtrl_one (by decide) up, if_pos rfl, if_pos running]

/-! ## What an unload and an enable leave (R244, R251) -/

/-- Of the loading and the frame block an image that is discarded takes what is its own. -/
theorem forgetImage_blocks (s : State) :
    (forgetImage s).dev = { s.dev with inForce := false, rebinds := [], spareUsed := [], lastRole := 0 } ∧
    (forgetImage s).frm = { s.frm with awaiting := [], completionsNext := [], dropNext := false, count := 0 } := by
  have free : false = false := rfl
  have kept : Keeps (Untouched.allBut [.reports, .req]) s (freeAll s) := freeAll_keeps s (Keeps.refl s)
  constructor
  · change { (freeAll s).dev with inForce := false, rebinds := [], spareUsed := [], lastRole := 0 } = _
    rw [kept.dev rfl]
  · change { (freeAll s).frm with awaiting := [], completionsNext := [], dropNext := false, count := 0 } = _
    rw [kept.frm rfl]

theorem readyIfSuspended_blocks {s : State} (idle : s.kpr.state = .ready ∨ s.kpr.state = .suspended) :
    (readyIfSuspended s).kpr.state = .ready ∧ (readyIfSuspended s).dev = s.dev ∧ (readyIfSuspended s).frm = s.frm := by
  have free : false = false := rfl
  rcases idle with ready | suspended
  · rw [readyIfSuspended, if_neg (by rw [ready]; decide)]
    exact ⟨ready, rfl, rfl⟩
  · rw [readyIfSuspended, if_pos suspended]
    have kept : Keeps (Untouched.allBut [.clk, .sup]) (setState .ready s) (toBringUpPoint (setState .ready s)) :=
      toBringUpPoint_keeps _ (Keeps.refl _)
    exact ⟨(congrArg (·.state) (kept.kpr rfl)).trans (setState_state ..), (kept.dev rfl).trans (setState_dev ..),
      (kept.frm rfl).trans (setState_frm ..)⟩

theorem without_effect {s : State} (idle : s.kpr.state = .ready ∨ s.kpr.state = .suspended) :
    (readyIfSuspended (withoutImage (showImage none s))).dev = { s.dev with image := none, lock := none, staged := none } ∧
    (readyIfSuspended (withoutImage (showImage none s))).frm.period = 0 ∧
    (readyIfSuspended (withoutImage (showImage none s))).frm.members = 0 ∧
    (readyIfSuspended (withoutImage (showImage none s))).kpr.state = .ready := by
  obtain ⟨ready, dev, frm⟩ := readyIfSuspended_blocks (s := withoutImage (showImage none s)) idle
  exact ⟨dev, congrArg (·.period) frm, congrArg (·.members) frm, ready⟩

theorem unloadNow_effect {s : State} (idle : s.kpr.state = .ready ∨ s.kpr.state = .suspended) :
    (unloadNow s).dev.image = none ∧ (unloadNow s).dev.inForce = false ∧ (unloadNow s).dev.rebinds = [] ∧
    (unloadNow s).frm.period = 0 ∧ (unloadNow s).frm.members = 0 ∧ (unloadNow s).kpr.state = .ready := by
  have free : false = false := rfl
  have forgot : Keeps (Untouched.allBut [.reports, .cycle, .dev, .frm, .req]) s (forgetImage s) :=
    forgetImage_keeps s (Keeps.refl s)
  have still : (forgetImage s).kpr.state = .ready ∨ (forgetImage s).kpr.state = .suspended := by
    rw [forgot.kpr rfl]
    exact idle
  obtain ⟨dev, period, members, ready⟩ := without_effect still
  rw [unloadNow, dev, (forgetImage_blocks s).1]
  exact ⟨rfl, rfl, rfl, period, members, ready⟩

theorem startCheck_effect (s : State) : (startCheck s).kpr.state = .checking ∧
    (startCheck s).dev = { s.dev with result := 4, sect := 255, detail := 0, reason := 0, checkRun := some { fromSuspended := decide (s.kpr.state = .suspended), acceptedTc := s.frm.tc, fenced := false } } ∧
    (startCheck s).frm = s.frm ∧ (startCheck s).mem = s.mem ∧ (startCheck s).cores = s.cores := by
  unfold startCheck
  simp only [setState_state, setState_dev, setState_frm, setState_mem, setState_cores, and_self]

/-! ## LOAD_VERIFIED (R239 to R241) -/

theorem concludeLoad_refused (code sect detail : Nat) (s : State) :
    (concludeLoad (.refused code sect detail) s).dev =
      { s.dev with loadRun := none, lock := none, result := 3, sect := sect, detail := detail, reason := code } := by
  rw [concludeLoad, refuseLoad, raiseFull_dev]

theorem concludeLoad_loaded (i : Image) (s : State) : (concludeLoad (.loaded i) s).dev.loadRun = none ∧
    (concludeLoad (.loaded i) s).dev.result = 2 ∧ (concludeLoad (.loaded i) s).dev.reason = 0 ∧
    (concludeLoad (.loaded i) s).dev.image = some i := ⟨rfl, rfl, rfl, rfl⟩

section Judged
variable {l : LoadRun} {sigOk : Bool} {x : List Nat × State}

theorem judgeLoad_refused {code sect detail : Nat} (answer : x.2.loadAnswer l.first l.length x.1 sigOk = .refused code sect detail) :
    (judgeLoad l sigOk x).dev =
      { x.2.dev with loadRun := none, lock := none, result := 3, sect := sect, detail := detail, reason := code } := by
  rw [judgeLoad, answer, concludeLoad_refused]

theorem judgeLoad_loaded {i : Image} (answer : x.2.loadAnswer l.first l.length x.1 sigOk = .loaded i) :
    (judgeLoad l sigOk x).dev.result = 2 ∧ (judgeLoad l sigOk x).dev.reason = 0 ∧ (judgeLoad l sigOk x).dev.image = some i := by
  rw [judgeLoad, answer]
  exact (concludeLoad_loaded i x.2).2

end Judged

theorem judgeLoad_loadRun (l : LoadRun) (sigOk : Bool) (x : List Nat × State) : (judgeLoad l sigOk x).dev.loadRun = none := by
  rw [judgeLoad]
  cases x.2.loadAnswer l.first l.length x.1 sigOk with
  | refused code sect detail => rw [concludeLoad_refused]
  | loaded i => exact (concludeLoad_loaded i x.2).1

theorem exec_loadVerified (sigOk : Bool) (flips : List (Nat × Nat)) (bad : List Nat) (s : State) :
    exec (.loadVerified sigOk flips bad) s = .next (doLoadVerified sigOk flips bad s) := rfl

/-- The state with every datapath in order again. -/
def pathsMended (s : State) : State := { s with mem := { s.mem with dpBad := [] } }

theorem pathsMended_blocks (s : State) : (pathsMended s).dev = s.dev ∧ (pathsMended s).kpr = s.kpr ∧
    (pathsMended s).cores = s.cores ∧ (pathsMended s).frm = s.frm := ⟨rfl, rfl, rfl, rfl⟩

theorem withBadPaths_eq (tiles : List Nat) (f : State → State) (s : State) :
    withBadPaths tiles f s = pathsMended (f { s with mem := { s.mem with dpBad := tiles } }) := rfl

/-- Where a load runs, LOAD_VERIFIED judges the bytes read. -/
theorem doLoadVerified_judges {l : LoadRun} {sigOk : Bool} {flips : List (Nat × Nat)} {bad : List Nat} {x : List Nat × State}
    {s : State} (powered : s.powered = true) (runs : s.dev.loadRun = some l)
    (read : x = readImage l (flipSymbols 0 flips { s with mem := { s.mem with dpBad := bad } })) :
    doLoadVerified sigOk flips bad s = pathsMended (judgeLoad l sigOk x) := by
  have free : false = false := rfl
  have kept : Keeps (Untouched.allBut [.stacked]) { s with mem := { s.mem with dpBad := bad } }
      (flipSymbols 0 flips { s with mem := { s.mem with dpBad := bad } }) := flipSymbols_keeps _ _ _ (Keeps.refl _)
  have run : (flipSymbols 0 flips { s with mem := { s.mem with dpBad := bad } }).dev.loadRun = some l := by
    rw [kept.dev rfl]
    exact runs
  have live : (flipSymbols 0 flips { s with mem := { s.mem with dpBad := bad } }).powered = true := by
    rw [State.powered, kept.kpr rfl]
    exact powered
  have ends : loadEnds sigOk (flipSymbols 0 flips { s with mem := { s.mem with dpBad := bad } }) = judgeLoad l sigOk x := by
    rw [loadEnds, run, read]
    simp only [live, Bool.not_true, Bool.false_eq_true, if_false]
  rw [doLoadVerified, withBadPaths_eq, ends]

/-! ## What touches the frame block by a fault alone -/

/-- Of the frame block only the account of the present frame differs. -/
def OnlyNow (s t : State) : Prop := ∃ now, t.frm = { s.frm with now := now }

theorem OnlyNow.of_eq {s t : State} (same : t.frm = s.frm) : OnlyNow s t := ⟨s.frm.now, same⟩

theorem OnlyNow.trans {a b c : State} (h : OnlyNow a b) (k : OnlyNow b c) : OnlyNow a c := by
  obtain ⟨_, first⟩ := h
  obtain ⟨now, second⟩ := k
  exact ⟨now, by rw [second, first]⟩

theorem OnlyNow.foldl {α : Type} {f : State → α → State} (l : List α) (s : State) (each : ∀ x a, OnlyNow x (f x a)) :
    OnlyNow s (l.foldl f s) := by
  induction l generalizing s with
  | nil => exact .of_eq rfl
  | cons a l ih => exact (each s a).trans (ih (f s a))

theorem onlyNow_of_keeps {u : Untouched} {s t : State} (kept : Keeps u s t) (frm : u.frm = true) : OnlyNow s t :=
  .of_eq (kept.frm frm)

theorem onlyNow_descFault (n k role idx code : Nat) (s : State) : OnlyNow s (descFault n k role idx code s) := by
  unfold descFault
  split
  · exact ⟨_, by rw [raise_frm]; rfl⟩
  · exact ⟨_, by rw [raise_frm]; rfl⟩

theorem onlyNow_faultEntry (n : Nat) (e : QEntry) (code : Nat) (s : State) : OnlyNow s (faultEntry n e code s) :=
  (OnlyNow.of_eq (t := dropEntry n e.uid s) rfl).trans (onlyNow_descFault ..)

theorem onlyNow_ownAnswer (endpoint tag status : Nat) (data : List Nat) (s : State) :
    OnlyNow s (ownAnswer endpoint tag status data s) := by
  unfold ownAnswer
  split
  next => exact .of_eq rfl
  next r _ =>
    have dropped : OnlyNow s (dropRequest r s) := .of_eq rfl
    simp only
    split
    · exact .of_eq rfl
    · split
      · exact dropped
      next e _ =>
        split
        · exact .of_eq rfl
        · split
          · exact dropped
          · exact dropped.trans (onlyNow_faultEntry ..)

theorem onlyNow_loseFlit (own : Bool) (f : Flit) (s : State) : OnlyNow s (loseFlit own f s) := by
  have free : false = false := rfl
  unfold loseFlit
  split
  · exact .of_eq rfl
  · split
    · exact onlyNow_ownAnswer ..
    · have sent : Keeps (Untouched.allBut [.lnk]) s (sendResponse (ackFlit s.lnk.id f 6) s) := sendResponse_keeps _ s (Keeps.refl s)
      exact onlyNow_of_keeps sent rfl

theorem onlyNow_discardFlit (own : Bool) (f : Flit) (s : State) : OnlyNow s (discardFlit own f s) :=
  (OnlyNow.of_eq (t := countUnreachable s) rfl).trans (onlyNow_loseFlit ..)

theorem onlyNow_discardAll (l : List Flit) (s : State) : OnlyNow s (discardAll l s) := by
  induction l generalizing s with
  | nil => exact .of_eq rfl
  | cons f l ih => exact (onlyNow_loseFlit ..).trans (ih _)

theorem onlyNow_reroute (l : List OutFlit) (s : State) : OnlyNow s (reroute l s) := by
  have free : false = false := rfl
  induction l generalizing s with
  | nil => exact .of_eq rfl
  | cons o l ih =>
    rw [reroute]
    refine OnlyNow.trans ?_ (ih _)
    split
    next link _ =>
      have queued : Keeps (Untouched.allBut [.lnk]) s (queueFrom o.from_ link o.flit s) := queueFrom_keeps _ _ _ s (Keeps.refl s)
      exact onlyNow_of_keeps queued rfl
    next =>
      have freed : Keeps (Untouched.allBut [.lnk]) (discardFlit (s.ownFlit o.flit) o.flit s)
          (freeBuffer o.from_ (discardFlit (s.ownFlit o.flit) o.flit s)) := freeBuffer_keeps _ _ (Keeps.refl _)
      exact (onlyNow_discardFlit ..).trans (onlyNow_of_keeps freed rfl)

theorem onlyNow_noteLoss (l : Nat) (s : State) : OnlyNow s (noteLoss l s) := .of_eq rfl

theorem onlyNow_linkDown (l : Nat) (st : LinkState) (s : State) : OnlyNow s (linkDown l st s) := by
  unfold linkDown
  extract_lets x s1 s2
  have cleared : OnlyNow s s2 := .of_eq rfl
  exact ((cleared.trans (onlyNow_discardAll ..)).trans (onlyNow_reroute ..)).trans (onlyNow_noteLoss ..)

theorem onlyNow_rewidth (l : Nat) (s : State) : OnlyNow s (rewidth l s) := by
  unfold rewidth
  extract_lets x w narrower s1 s2
  have counted : OnlyNow s s2 := by
    by_cases drop : narrower = true
    · exact .of_eq (by simp only [s2, drop, if_true, raise_frm]; rfl)
    · exact .of_eq (by simp only [s2, drop]; rfl)
  split
  · split
    · exact .of_eq rfl
    · split
      · exact counted.trans (onlyNow_linkDown ..)
      · exact counted.trans (onlyNow_noteLoss ..)
  · exact .of_eq rfl

theorem onlyNow_addWaiting (l : Nat) (s : State) : OnlyNow s (addWaiting l s) := by
  unfold addWaiting
  split
  · exact .of_eq rfl
  · exact (OnlyNow.of_eq rfl).trans (onlyNow_rewidth ..)

theorem onlyNow_leaveRunning (s : State) : OnlyNow s (leaveRunning s) := by
  have free : false = false := rfl
  have added : OnlyNow s ((List.range 32).foldl (fun s l => addWaiting l s) s) := .foldl _ _ fun x l => onlyNow_addWaiting l x
  have dropped : Keeps (Untouched.allBut [.sup]) ((List.range 32).foldl (fun s l => addWaiting l s) s) (leaveRunning s) :=
    dropPlanned_keeps _ (Keeps.refl _)
  exact added.trans (onlyNow_of_keeps dropped rfl)

/-- The device as SUSPENDED is entered, before it tells and leaves RUNNING. -/
def asSuspended (s : State) : State :=
  { s with
    kpr := { s.kpr with state := .suspended, prev := s.kpr.state }
    frm := { s.frm with phase := .idle, nextArm := false, planned := false, votes := [] }
    clk := { s.clk with nextArm := false }
    dev := { s.dev with suspendReq := false } }

theorem enterSuspended_eq (s : State) : enterSuspended s =
    leaveRunning (raiseFull 0x0001 0 (if s.frm.nextArm || s.clk.nextArm then 0x0135 else 0) noUnit 0
      [5, s.kpr.state.code, s.kpr.haltCause] (asSuspended s)) := rfl

/-- Between frames SUSPENDED is entered at once, and pending changes of period and limit are discarded (R31, R34). -/
theorem enterSuspended_effect (s : State) : (enterSuspended s).kpr = (asSuspended s).kpr ∧
    (∃ now, (enterSuspended s).frm = { (asSuspended s).frm with now := now }) ∧
    (enterSuspended s).clk = (asSuspended s).clk ∧ (enterSuspended s).dev = (asSuspended s).dev := by
  have free : false = false := rfl
  rw [enterSuspended_eq]
  generalize told : raiseFull 0x0001 0 (if s.frm.nextArm || s.clk.nextArm then 0x0135 else 0) noUnit 0
    [5, s.kpr.state.code, s.kpr.haltCause] (asSuspended s) = t
  have kept : Keeps (Untouched.allBut [.reports, .frm, .cores, .lnk, .sup]) t (leaveRunning t) := leaveRunning_keeps t (Keeps.refl t)
  obtain ⟨now, frm⟩ := onlyNow_leaveRunning t
  refine ⟨?_, ⟨now, ?_⟩, ?_, ?_⟩
  · rw [kept.kpr rfl, ← told, raiseFull_kpr]
  · rw [frm, ← told, raiseFull_frm]
  · rw [kept.clk rfl, ← told, raiseFull_clk]
  · rw [kept.dev rfl, ← told, raiseFull_dev]

/-- Settles O16: each command of `DEV.CTRL` runs in its state, and what each block keeps follows step by step. -/
theorem imageCommands : Obligations.ImageCommands := by
  unfold Obligations.ImageCommands
  have free : false = false := rfl
  refine ⟨?load, ?verified, ?unload, ?enable, ?none_, ?later, ?now⟩
  case load =>
    intro s up idle noLoad
    exact exec_loadImage_idle up idle noLoad
  case verified =>
    intro l sigOk flips bad x s powered runs read
    have flipped : Keeps (Untouched.allBut [.stacked, .reports, .mem]) { s with mem := { s.mem with dpBad := bad } }
        (flipSymbols 0 flips { s with mem := { s.mem with dpBad := bad } }) := flipSymbols_keeps _ _ _ (Keeps.refl _)
    have kept : Keeps (Untouched.allBut [.stacked, .reports, .mem]) { s with mem := { s.mem with dpBad := bad } } x.2 := by
      rw [read]
      exact readImage_keeps _ _ flipped
    have judged : Keeps (Untouched.allBut [.reports, .cycle, .dev, .frm, .req]) x.2 (judgeLoad l sigOk x) :=
      judgeLoad_keeps l sigOk x (Keeps.refl _)
    have state : (judgeLoad l sigOk x).kpr = s.kpr := (judged.kpr rfl).trans (kept.kpr rfl)
    have store : (judgeLoad l sigOk x).cores.store = s.cores.store := (judged.store rfl).trans (kept.store rfl)
    have ends : (judgeLoad l sigOk x).dev.loadRun = none := judgeLoad_loadRun l sigOk x
    have refused {code sect detail} := judgeLoad_refused (l := l) (sigOk := sigOk) (x := x) (code := code) (sect := sect) (detail := detail)
    have loaded {i} := judgeLoad_loaded (l := l) (sigOk := sigOk) (x := x) (i := i)
    have dev : x.2.dev = s.dev := kept.dev rfl
    rw [dev] at refused
    refine ⟨_, (exec_loadVerified ..).trans (congrArg Host.Outcome.next (doLoadVerified_judges powered runs read)), ?_⟩
    obtain ⟨dev1, kpr1, cores1, -⟩ := pathsMended_blocks (judgeLoad l sigOk x)
    rw [dev1, kpr1, cores1]
    refine ⟨ends, congrArg KprBlk.state state, store, fun code sect detail answer => ?_, fun i answer => loaded answer⟩
    have after := refused answer
    exact ⟨congrArg (·.result) after, congrArg (·.reason) after, congrArg (·.sect) after, congrArg (·.detail) after,
      congrArg (·.lock) after, congrArg (·.image) after⟩
  case unload =>
    intro i s up idle noLoad held
    have kept : Keeps (Untouched.allBut [.reports, .state, .cycle, .kpr, .dev, .frm, .req, .clk, .sup]) s (unloadNow s) :=
      unloadNow_keeps s (Keeps.refl s)
    obtain ⟨image, force, rebinds, period, members, ready⟩ := unloadNow_effect idle
    have mem : (unloadNow s).mem.dram = s.mem.dram ∧ (unloadNow s).mem.check = s.mem.check := kept.stacked rfl
    refine ⟨_, (exec_unloadImage_idle up idle noLoad).trans (congrArg _ (if_neg ?_)), image, force, rebinds, period, members, ready,
      mem.1, mem.2, kept.store rfl⟩
    rw [held]
    exact Bool.false_ne_true
  case enable =>
    intro i s up idle noLoad held
    refine ⟨_, (exec_enableImage_idle up idle noLoad).trans (congrArg _ (if_neg ?_)), startCheck_effect s⟩
    rw [held]
    exact Bool.false_ne_true
  case none_ =>
    intro s up idle noLoad noImage
    have missing : s.dev.image.isNone = true := by rw [noImage]; rfl
    exact ⟨(exec_enableImage_idle up idle noLoad).trans (congrArg _ (if_pos missing)),
      (exec_unloadImage_idle up idle noLoad).trans (congrArg _ (if_pos missing))⟩
  case later =>
    intro s up running inFrame
    exact (exec_suspendImage_running up running).trans (congrArg _ (if_pos inFrame))
  case now =>
    intro s up running waiting
    obtain ⟨kpr, ⟨now, frm⟩, clk, -⟩ := enterSuspended_effect s
    have between : ¬ s.frm.phase = .inFrame := by rw [waiting]; decide
    refine ⟨_, (exec_suspendImage_running up running).trans (congrArg _ (if_neg between)), ?_, ?_, ?_, ?_, ?_⟩
    · exact congrArg (·.state) kpr
    · exact (congrArg (·.prev) kpr).trans running
    · exact congrArg (·.phase) frm
    · exact congrArg (·.nextArm) frm
    · exact congrArg (·.nextArm) clk

/-! ## CHECK_COMPLETE (R244, R245) -/

theorem exec_checkComplete (hops fibre : Nat) (f : Forecast) (s : State) : exec (.checkComplete hops fibre f) s =
    .next (doCheckComplete (max 1 (hops % 2 ^ 16)) (fibre % 2 ^ 16) f.narrow s) := rfl

theorem refuseCheck_effect (c : CheckRun) (sect code detail : Nat) (s : State) :
    (refuseCheck c sect code detail s).kpr.state = (if c.fromSuspended then .suspended else .ready) ∧
    (refuseCheck c sect code detail s).dev =
      { s.dev with checkRun := none, result := 6, sect := sect, detail := detail % 2 ^ 32, reason := code } ∧
    (refuseCheck c sect code detail s).mem = s.mem ∧ (refuseCheck c sect code detail s).cores = s.cores ∧
    (refuseCheck c sect code detail s).frm = s.frm := by
  unfold refuseCheck
  simp only [raiseFull_kpr, raiseFull_dev, raiseFull_mem, raiseFull_cores, raiseFull_frm, setState_state, setState_dev,
    setState_mem, setState_cores, setState_frm, and_self]

section Check
variable {c : CheckRun} {i : Image} {s : State} (hops fibre : Nat) (f : Forecast) (powered : s.powered = true)
  (checking : s.kpr.state = .checking) (image : s.dev.image = some i) (run : s.dev.checkRun = some c)
include powered checking image run

theorem doCheckComplete_fenced (fenced : c.fenced = true) : doCheckComplete hops fibre f s = refuseCheck c 255 0x0210 0 s := by
  simp only [doCheckComplete, run, image, powered, checking, fenced, ne_eq, not_true_eq_false, decide_false, Bool.not_true,
    Bool.or_self, Bool.false_eq_true, if_false, if_true]

theorem doCheckComplete_refused {sect code detail : Nat} (clear : c.fenced = false)
    (fails : s.checkImage { i := i, resume := s.dev.inForce, accepted := c.acceptedTc, hops := hops, fibre := fibre } =
      some (sect, code, detail)) : doCheckComplete hops fibre f s = refuseCheck c sect code detail s := by
  simp only [doCheckComplete, run, image, powered, checking, clear, fails, ne_eq, not_true_eq_false, decide_false, Bool.not_true,
    Bool.or_self, Bool.false_eq_true, if_false]

theorem doCheckComplete_passes (clear : c.fenced = false)
    (passes : s.checkImage { i := i, resume := s.dev.inForce, accepted := c.acceptedTc, hops := hops, fibre := fibre } = none) :
    doCheckComplete hops fibre f s = applyImage i s.dev.inForce f s := by
  simp only [doCheckComplete, run, image, powered, checking, clear, passes, ne_eq, not_true_eq_false, decide_false, Bool.not_true,
    Bool.or_self, Bool.false_eq_true, if_false]

end Check

theorem narrow_of_small {n : Nat} (low : 1 ≤ n) (high : n < 2 ^ 16) : max 1 (n % 2 ^ 16) = n := by
  rw [Nat.mod_eq_of_lt high, Nat.max_eq_right low]

/-- What of an enable that succeeds comes after the first frame is set waiting leaves the keeper, the loading and the
frame block. -/
theorem afterAwait_blocks (i : Image) (resume : Bool) (f : Forecast) (s : State) :
    (raiseSetpoints i f (planFirst i f (openService resume s))).kpr = s.kpr ∧
    (raiseSetpoints i f (planFirst i f (openService resume s))).dev = s.dev ∧
    (raiseSetpoints i f (planFirst i f (openService resume s))).frm = s.frm := by
  have free : false = false := rfl
  have kept : Keeps (Untouched.allBut [.stacked, .reports, .hif, .mem, .net, .pwr, .sup, .thm]) s
      (raiseSetpoints i f (planFirst i f (openService resume s))) :=
    raiseSetpoints_keeps i f _ (planFirst_keeps i f _ (openService_keeps resume s (Keeps.refl s)))
  exact ⟨kept.kpr rfl, kept.dev rfl, kept.frm rfl⟩

theorem writeImage_blocks (i : Image) (resume : Bool) (s : State) : (writeImage i resume (enterForce s)).kpr = s.kpr ∧
    (writeImage i resume (enterForce s)).dev = (enterForce s).dev ∧ (writeImage i resume (enterForce s)).frm = s.frm := by
  have free : false = false := rfl
  have kept : Keeps (Untouched.allBut [.stacked, .reports, .hif, .cores, .mem, .net, .bnk, .req, .lnk]) (enterForce s)
      (writeImage i resume (enterForce s)) := writeImage_keeps i resume _ (Keeps.refl _)
  exact ⟨kept.kpr rfl, kept.dev rfl, kept.frm rfl⟩

theorem awaitFirst_blocks (resume : Bool) (s : State) : (awaitFirst resume s).kpr = s.kpr ∧ (awaitFirst resume s).dev = s.dev ∧
    (awaitFirst resume s).frm.phase = .waiting ∧ (awaitFirst resume s).frm.nextAt = s.firstStart ∧
    (resume = false → (awaitFirst resume s).frm.nextNumber = 0) :=
  ⟨rfl, rfl, rfl, rfl, fun new => by rw [new]; rfl⟩

theorem firstStart_congr {s t : State} (frm : t.frm = s.frm) : t.firstStart = s.firstStart := by
  rw [State.firstStart, State.firstStart, frm]

theorem applyImage_effect (i : Image) (resume : Bool) (f : Forecast) (s : State) :
    (applyImage i resume f s).kpr.state = .running ∧ (applyImage i resume f s).kpr.prev = s.kpr.state ∧
    (applyImage i resume f s).dev = (enterForce s).dev ∧ (applyImage i resume f s).frm.phase = .waiting ∧
    (applyImage i resume f s).frm.nextAt = s.firstStart ∧ (resume = false → (applyImage i resume f s).frm.nextNumber = 0) := by
  obtain ⟨kpr1, dev1, frm1⟩ := writeImage_blocks i resume s
  obtain ⟨kpr2, dev2, phase2, next2, number2⟩ := awaitFirst_blocks resume (writeImage i resume (enterForce s))
  obtain ⟨kpr3, dev3, frm3⟩ := afterAwait_blocks i resume f (awaitFirst resume (writeImage i resume (enterForce s)))
  rw [applyImage, setState_state, setState_prev, setState_dev, setState_frm, kpr3, dev3, frm3, kpr2, dev2, kpr1, dev1]
  exact ⟨rfl, rfl, rfl, phase2, next2.trans (firstStart_congr frm1), number2⟩

/-- Settles O17: CHECK_COMPLETE tests the fences first and then the image, and what comes of it is said of each block. -/
theorem checkEnds : Obligations.CheckEnds := by
  unfold Obligations.CheckEnds
  refine ⟨?fenced, ?refused, ?passes⟩
  case fenced =>
    intro c i hops fibre f s powered checking image run fenced
    exact ⟨_, (exec_checkComplete ..).trans (congrArg _ (doCheckComplete_fenced _ _ _ powered checking image run fenced)),
      refuseCheck_effect c 255 0x0210 0 s⟩
  case refused =>
    intro c i hops fibre f sect code detail s low high short powered checking image run clear fails
    refine ⟨_, (exec_checkComplete ..).trans (congrArg _ (doCheckComplete_refused _ _ _ powered checking image run clear ?_)),
      refuseCheck_effect c sect code detail s⟩
    rw [narrow_of_small low high, Nat.mod_eq_of_lt short, fails]
  case passes =>
    intro c i hops fibre f s low high short powered checking image run clear passes
    obtain ⟨state, prev, dev, phase, next, number⟩ := applyImage_effect i s.dev.inForce f.narrow s
    have force : (enterForce s).dev = { s.dev with inForce := true, checkRun := none, lock := none, result := 5, sect := 255, detail := 0, reason := 0 } := rfl
    rw [force] at dev
    refine ⟨_, (exec_checkComplete ..).trans (congrArg _ (doCheckComplete_passes _ _ _ powered checking image run clear ?_)),
      state, prev.trans checking, congrArg (·.inForce) dev, (congrArg (·.image) dev).trans image, congrArg (·.result) dev,
      congrArg (·.checkRun) dev, congrArg (·.lock) dev, phase, next, number⟩
    rw [narrow_of_small low high, Nat.mod_eq_of_lt short, passes]

end Sys2Proof.Proofs
end


section
/-! The frame cycle: entry, slats, plan point and end of a frame (chapter 2). -/
namespace Sys2Proof.Proofs
set_option Elab.async false
open Sys2Proof.Machine Sys2Proof.Laws

/-! ## What leaves the keeper, the time and the frame cycle alone -/

/-- The keeper, the time counter and the place of the frame cycle are as before. -/
def SamePlace (s t : State) : Prop := t.kpr = s.kpr ∧ t.frm.tc = s.frm.tc ∧ t.frm.cycle = s.frm.cycle

theorem samePlace_of_keeps {u : Untouched} {s t : State} (kept : Keeps u s t) (kpr : u.kpr = true) (tc : u.tc = true)
    (cycle : u.cycle = true) : SamePlace s t := ⟨kept.kpr kpr, kept.tc tc, kept.cycle cycle⟩

theorem SamePlace.trans {a b c : State} (h : SamePlace a b) (k : SamePlace b c) : SamePlace a c :=
  ⟨k.1.trans h.1, k.2.1.trans h.2.1, k.2.2.trans h.2.2⟩

/-! ## FRAME_ENTRY (R28) -/

theorem exec_frameEntry (paths : SMap Nat) (s : State) :
    exec (.frameEntry paths) s = .next (doFrameEntry (toMap (paths.filter (fun e => decide (e.1 < 512)))) s) := rfl

section Cycle
variable {i : Image} {s : State} (image : s.inForceImage = some i) (powered : s.powered = true) (running : s.kpr.state = .running)

include image powered running in
theorem doFrameEntry_enters (paths : SMap Nat) (waiting : s.frm.phase = .waiting) (due : s.frm.nextAt ≤ s.frm.tc)
    (stays : s.dev.suspendReq = false) : doFrameEntry paths s = enterFrame i paths s := by
  simp only [doFrameEntry, image, powered, running, waiting, due, stays, decide_true, Bool.and_self, Bool.false_eq_true, if_true,
    if_false]

/-- The place of a frame that begins. -/
theorem beginFrame_place (level : Nat) (faulted : Bool) (s : State) : (beginFrame i level faulted s).kpr = s.kpr ∧
    (beginFrame i level faulted s).frm.tc = s.frm.tc ∧ (beginFrame i level faulted s).frm.cycle =
      (.inFrame, s.frm.nextNumber, s.frm.nextAt, s.nextPeriodNow, 0, s.frm.nextAt + s.nextPeriodNow, s.frm.nextNumber + 1, false) :=
  ⟨rfl, rfl, rfl⟩

theorem rewriteForLevel_blocks (i : Image) (level : Nat) (s : State) : (rewriteForLevel i level s).kpr = s.kpr ∧
    (rewriteForLevel i level s).frm = s.frm := by
  have free : false = false := rfl
  have kept : Keeps (Untouched.allBut [.stacked, .reports, .hif, .mem, .net, .req]) s (rewriteForLevel i level s) :=
    rewriteForLevel_keeps i level s (Keeps.refl s)
  exact ⟨kept.kpr rfl, kept.frm rfl⟩

theorem openPools_none (noPools : i.pools = []) (s : State) : openPools i s = s := by
  rw [openPools, noPools]
  rfl

theorem samePlace_enter (paths : SMap Nat) (bad : Option (Nat × Nat)) (noPools : i.pools = []) (s : State) :
    SamePlace s (dropIfDue (admissionPass (damagePass (openPools i (enterRegions i paths (tellMissing bad s)))))) := by
  have free : false = false := rfl
  rw [openPools_none noPools]
  have kept : Keeps (Untouched.allBut [.stacked, .store, .reports, .hif, .dev, .frm, .cores, .mem, .net, .bnk, .walkers, .req, .lnk,
      .clk, .sup, .thm]) s (dropIfDue (admissionPass (damagePass (enterRegions i paths (tellMissing bad s))))) :=
    dropIfDue_keeps _ (admissionPass_keeps _ (damagePass_keeps _ (enterRegions_keeps _ _ _ (tellMissing_keeps _ _ (Keeps.refl s)))))
  exact samePlace_of_keeps kept rfl rfl rfl

theorem nextPeriodNow_congr {s t : State} (frm : t.frm = s.frm) : t.nextPeriodNow = s.nextPeriodNow := by
  rw [State.nextPeriodNow, State.nextPeriodNow, frm]

theorem enterFrame_place (paths : SMap Nat) (noPools : i.pools = []) (s : State) : (enterFrame i paths s).kpr = s.kpr ∧
    (enterFrame i paths s).frm.tc = s.frm.tc ∧ (enterFrame i paths s).frm.cycle =
      (.inFrame, s.frm.nextNumber, s.frm.nextAt, s.nextPeriodNow, 0, s.frm.nextAt + s.nextPeriodNow, s.frm.nextNumber + 1, false) := by
  obtain ⟨kpr1, frm1⟩ := rewriteForLevel_blocks i s.nextLevel.1 s
  obtain ⟨kpr2, tc2, cycle2⟩ := beginFrame_place (i := i) s.nextLevel.1 s.nextLevel.2.isSome (rewriteForLevel i s.nextLevel.1 s)
  obtain ⟨kpr3, tc3, cycle3⟩ := samePlace_enter paths s.nextLevel.2 noPools
    (beginFrame i s.nextLevel.1 s.nextLevel.2.isSome (rewriteForLevel i s.nextLevel.1 s))
  rw [nextPeriodNow_congr frm1, frm1] at cycle2
  rw [frm1] at tc2
  rw [enterFrame, kpr3, tc3, cycle3]
  exact ⟨kpr2.trans kpr1, tc2, cycle2⟩

/-! ## SLAT_BOUNDARY (R35, R36) -/

theorem exec_slatBoundary (losses : List (Nat × Nat × Nat)) (drained : List (Nat × Nat)) (s : State) :
    exec (.slatBoundary losses drained) s = .next (doSlatBoundary (narrowLosses losses) drained s) := rfl

include powered running in
theorem doSlatBoundary_passes (losses : List (Nat × Nat × Nat)) (drained : List (Nat × Nat)) (inFrame : s.frm.phase = .inFrame)
    (more : s.frm.slat + 1 ≤ s.frm.slatsM1) (inside : (nth (0, 0) s.frm.slats (s.frm.slat + 1)).2 < s.frm.period)
    (due : s.frm.frameStart + (nth (0, 0) s.frm.slats (s.frm.slat + 1)).2 ≤ s.frm.tc) : doSlatBoundary losses drained s =
      openShutters (s.frm.frameStart + (nth (0, 0) s.frm.slats (s.frm.slat + 1)).2) (switchContexts (s.frm.slat + 1)
        (withSlat (s.frm.slat + 1) (endSlat (nth (0, 0) s.frm.slats (s.frm.slat + 1)).2 losses (drainBefore drained s)))) := by
  simp only [doSlatBoundary, powered, running, inFrame, more, inside, due, decide_true, Bool.and_self, if_true]

theorem samePlace_endSlat (till : Nat) (losses : List (Nat × Nat × Nat)) (drained : List (Nat × Nat)) (s : State) :
    SamePlace s (endSlat till losses (drainBefore drained s)) := by
  have free : false = false := rfl
  have kept : Keeps (Untouched.allBut [.store, .reports, .frm, .cores, .clk]) s (endSlat till losses (drainBefore drained s)) :=
    endSlat_keeps _ _ _ (drainBefore_keeps _ _ (Keeps.refl s))
  exact samePlace_of_keeps kept rfl rfl rfl

theorem samePlace_openAfterSwitch (b j : Nat) (s : State) : SamePlace s (openShutters b (switchContexts j s)) := by
  have free : false = false := rfl
  have kept : Keeps (Untouched.allBut [.reports, .frm, .cores, .mem, .net, .bnk, .walkers, .sup]) s
      (openShutters b (switchContexts j s)) := openShutters_keeps _ _ (switchContexts_keeps _ _ (Keeps.refl s))
  exact samePlace_of_keeps kept rfl rfl rfl

theorem withSlat_place (j : Nat) (s : State) : (withSlat j s).kpr = s.kpr ∧ (withSlat j s).frm.tc = s.frm.tc ∧
    (withSlat j s).frm.cycle = (s.frm.phase, s.frm.count, s.frm.frameStart, s.frm.period, j, s.frm.nextAt, s.frm.nextNumber,
      s.frm.planned) := ⟨rfl, rfl, rfl⟩

/-! ## PLAN_POINT (R29) -/

theorem exec_planPoint (f : Forecast) (s : State) : exec (.planPoint f) s = .next (doPlanPoint f.narrow s) := rfl

include image powered running in
theorem doPlanPoint_plans (f : Forecast) (inFrame : s.frm.phase = .inFrame) (unplanned : s.frm.planned = false)
    (due : s.frm.nextAt ≤ s.frm.tc + s.frm.planLead) :
    doPlanPoint f s = trimLanes i (sendVote (raiseSetpoints i f (markPlanned (planNext i f (latchLimit s))))) := by
  simp only [doPlanPoint, image, powered, running, inFrame, unplanned, due, decide_true, Bool.not_false, Bool.and_self, if_true]

theorem samePlace_planNext (i : Image) (f : Forecast) (s : State) : SamePlace s (planNext i f (latchLimit s)) := by
  have free : false = false := rfl
  have kept : Keeps (Untouched.allBut [.pwr, .sup, .thm, .clk]) s (planNext i f (latchLimit s)) :=
    planNext_keeps _ _ _ (latchLimit_keeps _ (Keeps.refl s))
  exact samePlace_of_keeps kept rfl rfl rfl

theorem samePlace_afterPlan (i : Image) (f : Forecast) (s : State) :
    SamePlace s (trimLanes i (sendVote (raiseSetpoints i f s))) := by
  have free : false = false := rfl
  have kept : Keeps (Untouched.allBut [.stacked, .reports, .hif, .mem, .net, .req, .lnk, .sup]) s
      (trimLanes i (sendVote (raiseSetpoints i f s))) :=
    trimLanes_keeps _ _ (sendVote_keeps _ (raiseSetpoints_keeps _ _ _ (Keeps.refl s)))
  exact samePlace_of_keeps kept rfl rfl rfl

theorem markPlanned_place (s : State) : (markPlanned s).kpr = s.kpr ∧ (markPlanned s).frm.tc = s.frm.tc ∧
    (markPlanned s).frm.cycle = (s.frm.phase, s.frm.count, s.frm.frameStart, s.frm.period, s.frm.slat, s.frm.nextAt,
      s.frm.nextNumber, true) := ⟨rfl, rfl, rfl⟩

/-! ## FRAME_END (R40, R250) -/

theorem exec_frameEnd (losses : List (Nat × Nat × Nat)) (drained flips : List (Nat × Nat)) (bad : List Nat) (s : State) :
    exec (.frameEnd losses drained flips bad) s = .next (doFrameEnd (narrowLosses losses) drained flips bad s) := rfl

/-- The frame that ends, its counters and report taken and its outcome judged, before a suspension. -/
def frameEnded (till : Nat) (losses : List (Nat × Nat × Nat)) (drained flips : List (Nat × Nat)) (s : State) : State :=
  endOutcome (prepareReport (shiftCounters (passFrame (stopWork (endSlat till losses (drainBefore drained (flipSymbols 0 flips s)))))))

include image powered running in
theorem doFrameEnd_ends (losses : List (Nat × Nat × Nat)) (drained flips : List (Nat × Nat)) (bad : List Nat)
    (inFrame : s.frm.phase = .inFrame) (planned : s.frm.planned = true) (due : s.frm.nextAt ≤ s.frm.tc) :
    doFrameEnd losses drained flips bad s =
      pathsMended (suspendIfDue i (frameEnded s.frm.period losses drained flips { s with mem := { s.mem with dpBad := bad } })) := by
  simp only [doFrameEnd, image, powered, running, inFrame, planned, due, decide_true, Bool.and_self, if_true, withBadPaths_eq]
  rfl

end Cycle

/-- The first steps of the end of a frame. -/
theorem stopped_blocks (till : Nat) (losses : List (Nat × Nat × Nat)) (drained flips : List (Nat × Nat)) (s : State) :
    SamePlace s (stopWork (endSlat till losses (drainBefore drained (flipSymbols 0 flips s)))) ∧
    (stopWork (endSlat till losses (drainBefore drained (flipSymbols 0 flips s)))).dev = s.dev := by
  have free : false = false := rfl
  have kept : Keeps (Untouched.allBut [.stacked, .store, .reports, .frm, .cores, .mem, .net, .bnk, .walkers, .clk]) s
      (stopWork (endSlat till losses (drainBefore drained (flipSymbols 0 flips s)))) :=
    stopWork_keeps _ (endSlat_keeps _ _ _ (drainBefore_keeps _ _ (flipSymbols_keeps _ _ _ (Keeps.refl s))))
  exact ⟨samePlace_of_keeps kept rfl rfl rfl, kept.dev rfl⟩

theorem passFrame_place (s : State) : (passFrame s).kpr = s.kpr ∧ (passFrame s).dev = s.dev ∧ (passFrame s).frm.tc = s.frm.tc ∧
    (passFrame s).frm.cycle = (.waiting, s.frm.count, s.frm.frameStart, s.frm.period, s.frm.slat, s.frm.nextAt, s.frm.nextNumber,
      s.frm.planned) := ⟨rfl, rfl, rfl, rfl⟩

theorem judged_blocks (s : State) : SamePlace s (endOutcome (prepareReport (shiftCounters s))) ∧
    (endOutcome (prepareReport (shiftCounters s))).dev = s.dev := by
  have free : false = false := rfl
  have kept : Keeps (Untouched.allBut [.stacked, .reports, .hif, .frm, .cores, .mem, .net, .bnk, .walkers, .req, .lnk, .clk, .sup]) s
      (endOutcome (prepareReport (shiftCounters s))) :=
    endOutcome_keeps _ (prepareReport_keeps _ (shiftCounters_keeps _ (Keeps.refl s)))
  exact ⟨samePlace_of_keeps kept rfl rfl rfl, kept.dev rfl⟩

theorem cycle_fields {s t : State} (same : t.frm.cycle = s.frm.cycle) : t.frm.count = s.frm.count ∧
    t.frm.frameStart = s.frm.frameStart ∧ t.frm.period = s.frm.period ∧ t.frm.slat = s.frm.slat ∧ t.frm.nextAt = s.frm.nextAt ∧
    t.frm.nextNumber = s.frm.nextNumber ∧ t.frm.planned = s.frm.planned ∧ t.frm.phase = s.frm.phase := by
  simp only [FrmBlk.cycle, Prod.mk.injEq] at same
  obtain ⟨phase, count, start, period, slat, next, number, planned⟩ := same
  exact ⟨count, start, period, slat, next, number, planned, phase⟩

theorem frameEnded_blocks (till : Nat) (losses : List (Nat × Nat × Nat)) (drained flips : List (Nat × Nat)) (s : State) :
    (frameEnded till losses drained flips s).kpr = s.kpr ∧ (frameEnded till losses drained flips s).dev = s.dev ∧
    (frameEnded till losses drained flips s).frm.tc = s.frm.tc ∧ (frameEnded till losses drained flips s).frm.cycle =
      (.waiting, s.frm.count, s.frm.frameStart, s.frm.period, s.frm.slat, s.frm.nextAt, s.frm.nextNumber, s.frm.planned) := by
  obtain ⟨⟨kpr1, tc1, cycle1⟩, dev1⟩ := stopped_blocks till losses drained flips s
  obtain ⟨count, start, period, slat, next, number, planned, -⟩ := cycle_fields cycle1
  obtain ⟨kpr2, dev2, tc2, cycle2⟩ := passFrame_place (stopWork (endSlat till losses (drainBefore drained (flipSymbols 0 flips s))))
  obtain ⟨⟨kpr3, tc3, cycle3⟩, dev3⟩ :=
    judged_blocks (passFrame (stopWork (endSlat till losses (drainBefore drained (flipSymbols 0 flips s)))))
  rw [count, start, period, slat, next, number, planned] at cycle2
  exact ⟨kpr3.trans (kpr2.trans kpr1), dev3.trans (dev2.trans dev1), tc3.trans (tc2.trans tc1), cycle3.trans cycle2⟩

/-- The fences noted for the frame are forgotten. -/
def fencesForgotten (s : State) : State := { s with frm := { s.frm with fencedNow := [] } }

theorem fencesForgotten_blocks (s : State) : (fencesForgotten s).kpr = s.kpr ∧ (fencesForgotten s).dev = s.dev ∧
    (fencesForgotten s).frm.tc = s.frm.tc ∧ (fencesForgotten s).frm.cycle = s.frm.cycle := ⟨rfl, rfl, rfl, rfl⟩

theorem suspendIfDue_eq (i : Image) (s : State) : suspendIfDue i s = fencesForgotten
    (if ((rebindLost i s).unserved i).isSome || !(rebindLost i s).lostLinks.isEmpty || s.dev.suspendReq
      then enterSuspended (damagePass (tellSuspended i (rebindLost i s))) else s) := rfl

/-- Where a suspension was asked for, the device is SUSPENDED at E. -/
theorem suspendIfDue_asked (i : Image) {s : State} (asked : s.dev.suspendReq = true) :
    (suspendIfDue i s).kpr.state = .suspended ∧ (suspendIfDue i s).frm.phase = .idle ∧
    (suspendIfDue i s).dev.suspendReq = false ∧ (suspendIfDue i s).frm.tc = s.frm.tc := by
  have free : false = false := rfl
  have told : Keeps (Untouched.allBut [.reports, .dev, .cores, .req]) s (damagePass (tellSuspended i (rebindLost i s))) :=
    damagePass_keeps _ (tellSuspended_keeps _ _ (rebindLost_keeps _ _ (Keeps.refl s)))
  obtain ⟨kpr, ⟨now, frm⟩, -, dev⟩ := enterSuspended_effect (damagePass (tellSuspended i (rebindLost i s)))
  have due : (((rebindLost i s).unserved i).isSome || !(rebindLost i s).lostLinks.isEmpty || s.dev.suspendReq) = true := by
    rw [asked, Bool.or_true]
  have tc := told.tc rfl
  rw [suspendIfDue_eq, if_pos due]
  generalize enterSuspended (damagePass (tellSuspended i (rebindLost i s))) = t at kpr frm dev ⊢
  obtain ⟨kpr1, dev1, tc1, cycle1⟩ := fencesForgotten_blocks t
  refine ⟨?_, (cycle_fields cycle1).2.2.2.2.2.2.2.trans (congrArg (·.phase) frm), ?_, tc1.trans ((congrArg (·.tc) frm).trans tc)⟩
  · rw [kpr1, kpr]
    rfl
  · rw [dev1, dev]
    rfl

/-- Settles O18: each command of the cycle tests its time, and what it does beside its own mark keeps the place. -/
theorem frameCycle : Obligations.FrameCycle := by
  unfold Obligations.FrameCycle
  refine ⟨?entry, ?slat, ?plan, ?ends, ?suspends, ?early⟩
  case entry =>
    intro i paths s image powered running waiting due stays noPools
    obtain ⟨kpr, tc, cycle⟩ := enterFrame_place (i := i) (toMap (paths.filter (fun e => decide (e.1 < 512)))) noPools s
    exact ⟨_, (exec_frameEntry ..).trans (congrArg _ (doFrameEntry_enters image powered running _ waiting due stays)), cycle, tc, kpr⟩
  case slat =>
    intro i losses drained s _ powered running inFrame more inside due
    obtain ⟨kpr1, tc1, cycle1⟩ := samePlace_endSlat (nth (0, 0) s.frm.slats (s.frm.slat + 1)).2 (narrowLosses losses) drained s
    obtain ⟨count, start, period, -, next, number, planned, phase⟩ := cycle_fields cycle1
    obtain ⟨kpr2, tc2, cycle2⟩ := withSlat_place (s.frm.slat + 1)
      (endSlat (nth (0, 0) s.frm.slats (s.frm.slat + 1)).2 (narrowLosses losses) (drainBefore drained s))
    rw [phase, count, start, period, next, number, planned, inFrame] at cycle2
    obtain ⟨kpr3, tc3, cycle3⟩ := samePlace_openAfterSwitch (s.frm.frameStart + (nth (0, 0) s.frm.slats (s.frm.slat + 1)).2)
      (s.frm.slat + 1) (withSlat (s.frm.slat + 1)
        (endSlat (nth (0, 0) s.frm.slats (s.frm.slat + 1)).2 (narrowLosses losses) (drainBefore drained s)))
    exact ⟨_, (exec_slatBoundary ..).trans (congrArg _ (doSlatBoundary_passes powered running _ _ inFrame more inside due)),
      cycle3.trans cycle2, tc3.trans (tc2.trans tc1), kpr3.trans (kpr2.trans kpr1)⟩
  case plan =>
    intro i f s image powered running inFrame unplanned due
    obtain ⟨kpr1, tc1, cycle1⟩ := samePlace_planNext i f.narrow s
    obtain ⟨count, start, period, slat, next, number, -, phase⟩ := cycle_fields cycle1
    obtain ⟨kpr2, tc2, cycle2⟩ := markPlanned_place (planNext i f.narrow (latchLimit s))
    rw [phase, count, start, period, slat, next, number, inFrame] at cycle2
    obtain ⟨kpr3, tc3, cycle3⟩ := samePlace_afterPlan i f.narrow (markPlanned (planNext i f.narrow (latchLimit s)))
    exact ⟨_, (exec_planPoint ..).trans (congrArg _ (doPlanPoint_plans image powered running _ inFrame unplanned due)),
      cycle3.trans cycle2, tc3.trans (tc2.trans tc1), kpr3.trans (kpr2.trans kpr1)⟩
  case ends =>
    intro i losses drained flips bad u s image powered running inFrame planned due stays lost served links
    obtain ⟨kpr, dev, tc, cycle⟩ :=
      frameEnded_blocks s.frm.period (narrowLosses losses) drained flips { s with mem := { s.mem with dpBad := bad } }
    have rebound : rebindLost i (frameEnded s.frm.period (narrowLosses losses) drained flips
        { s with mem := { s.mem with dpBad := bad } }) = u := lost.symm
    have ends := doFrameEnd_ends image powered running (narrowLosses losses) drained flips bad inFrame planned due
    generalize frameEnded s.frm.period (narrowLosses losses) drained flips { s with mem := { s.mem with dpBad := bad } } = e
      at kpr dev tc cycle rebound ends
    have notDue : ((u.unserved i).isSome || !u.lostLinks.isEmpty || e.dev.suspendReq) = false := by
      rw [served, links, dev, stays]
      rfl
    rw [suspendIfDue_eq, rebound, notDue, if_neg Bool.false_ne_true] at ends
    refine ⟨_, (exec_frameEnd ..).trans (congrArg _ ends), ?_, ?_, ?_⟩
    · rw [(pathsMended_blocks _).2.2.2, (fencesForgotten_blocks e).2.2.2, cycle, planned]
    · rw [(pathsMended_blocks _).2.2.2, (fencesForgotten_blocks e).2.2.1, tc]
    · rw [(pathsMended_blocks _).2.1, (fencesForgotten_blocks e).1, kpr]
  case suspends =>
    intro i losses drained flips bad s image powered running inFrame planned due asked
    obtain ⟨-, dev, tc, -⟩ :=
      frameEnded_blocks s.frm.period (narrowLosses losses) drained flips { s with mem := { s.mem with dpBad := bad } }
    have ends := doFrameEnd_ends image powered running (narrowLosses losses) drained flips bad inFrame planned due
    generalize frameEnded s.frm.period (narrowLosses losses) drained flips { s with mem := { s.mem with dpBad := bad } } = e
      at dev tc ends
    obtain ⟨state, phase, req, tc1⟩ := suspendIfDue_asked i (s := e) (by rw [dev, asked])
    refine ⟨_, (exec_frameEnd ..).trans (congrArg _ ends), ?_, ?_, ?_, ?_⟩
    · rw [(pathsMended_blocks _).2.1, state]
    · rw [(pathsMended_blocks _).2.2.2, phase]
    · rw [(pathsMended_blocks _).1, req]
    · rw [(pathsMended_blocks _).2.2.2, tc1, tc]
  case early =>
    intro i paths losses drained flips bad f s image before slat
    have notNext : ¬ s.frm.nextAt ≤ s.frm.tc := by omega
    have notPlan : ¬ s.frm.nextAt ≤ s.frm.tc + s.frm.planLead := by omega
    refine ⟨congrArg Host.Outcome.next ?_, congrArg Host.Outcome.next ?_, congrArg Host.Outcome.next ?_, congrArg Host.Outcome.next ?_⟩
    · simp only [doFrameEntry, image, notNext, decide_false, Bool.and_false, Bool.false_eq_true, if_false]
    · simp only [doPlanPoint, image, notPlan, decide_false, Bool.and_false, Bool.false_eq_true, if_false]
    · simp only [doFrameEnd, image, notNext, decide_false, Bool.and_false, Bool.false_eq_true, if_false]
    · simp only [doSlatBoundary, Nat.not_le.2 slat, decide_false, Bool.and_false, Bool.false_eq_true, if_false]

end Sys2Proof.Proofs
end


section
/-! The commands of the protection block (chapter 18). -/
namespace Sys2Proof.Proofs
set_option Elab.async false
open Sys2Proof.Machine Sys2Proof.Laws

/-! ## `PRT.CMD` (R371) -/

/-- The three commands are writes of `PRT.CMD` with go set. -/
theorem writePrtCmd_go {op : Nat} (which : op = 1 ∨ op = 2 ∨ op = 3) {s : State} (up : s.hostUp = true) :
    writePrtCmd (2 ^ 63 + op) s =
      if !s.prtOpen || (decide (op = 3) && decide (s.kpr.state ≠ .ready)) then refuse 0xA00008 (2 ^ 63 + op) 0x0120 s
      else if op = 1 then useFresh { s with prt := { s.prt with op := op, nonce := some (entropy 32 s), result := 2 } }
      else { s with prt := { s.prt with op := op, result := 1, running := op } } := by
  have word : (2 ^ 63 + op) &&& ((2 ^ 64 - 1) ^^^ ((2 ^ 63 + 3) ||| 0)) = 0 ∧ (2 ^ 63 + op) % 4 = op ∧
      bit (2 ^ 63 + op) 63 = true ∧ op ≠ 0 := by
    rcases which with rfl | rfl | rfl <;> decide
  obtain ⟨fits, low, go, some_⟩ := word
  rw [writePrtCmd]
  simp only [low, go, decide_eq_false some_, Bool.false_or, Bool.true_and, Bool.not_true, Bool.false_eq_true, if_false]
  rw [regWrite_runs up fits]

theorem prtOpen_iff (s : State) : s.prtOpen = true ↔
    (s.kpr.state = .ready ∨ s.kpr.state = .suspended) ∧ s.prt.result ≠ 1 := by
  rw [State.prtOpen, Bool.and_eq_true, decide_eq_true_eq, State.inStates]
  simp only [List.any_cons, List.any_nil, Bool.or_false, Bool.or_eq_true, beq_iff_eq, eq_comm (b := s.kpr.state)]

/-! ## PRT_COMMAND_DONE (Table 18.8) -/

section Done
variable {readsOk : Bool} {pkg : List Nat} {sigA sigB storeOk : Bool} {s : State} (runs : s.prt.running ≠ 0)
  (bme : s.hif.bme = true) (live : s.kpr.state ≠ .halted)
include runs bme live

theorem prtDone_passes : (decide (s.prt.running = 0) || !s.hif.bme || decide (s.kpr.state = .halted)) = false := by
  rw [decide_eq_false runs, bme, decide_eq_false live]
  rfl

theorem doPrtCommandDone_fails (fails : packageResult readsOk pkg sigA sigB storeOk s ≠ 2) :
    doPrtCommandDone readsOk pkg sigA sigB storeOk s = raise 0x0006 1 noUnit
      [s.prt.running, packageResult readsOk pkg sigA sigB storeOk s]
      { s with prt := { s.prt with result := packageResult readsOk pkg sigA sigB storeOk s, running := 0, nonce := none } } := by
  simp only [doPrtCommandDone, prtDone_passes runs bme live, fails, Bool.false_eq_true, if_false, ne_eq, not_false_eq_true, if_true]

theorem doPrtCommandDone_commits (change : s.prt.running = 2) (good : packageResult readsOk pkg sigA sigB storeOk s = 2) :
    doPrtCommandDone readsOk pkg sigA sigB storeOk s = raise 0x0006 0 noUnit [2, 2] { s with prt := { s.prt with
      block := memPutBytes [] 0 (slice pkg 32 16384), seqNo := s.prt.seqNo + 1
      scope := if bit (leAt (slice pkg 32 16384) 16 1) 1 then s.prt.scope else 0, result := 2, running := 0, nonce := none } } := by
  have passes := prtDone_passes runs bme live
  rw [change] at passes
  simp only [doPrtCommandDone, change, passes, good, Bool.false_eq_true, if_false, ne_eq, not_true_eq_false, if_true]

theorem doPrtCommandDone_unlocks (unlock : s.prt.running = 3) (good : packageResult readsOk pkg sigA sigB storeOk s = 2) :
    doPrtCommandDone readsOk pkg sigA sigB storeOk s = raise 0x0006 0 noUnit [3, 2] { s with prt := { s.prt with
      scope := leAt pkg 40 1, result := 2, running := 0, nonce := none } } := by
  have passes := prtDone_passes runs bme live
  rw [unlock] at passes
  simp only [doPrtCommandDone, unlock, passes, good, Bool.false_eq_true, if_false, ne_eq, not_true_eq_false, if_true,
    show ¬ (3 = 2) by decide]

end Done

theorem exec_prtDone (readsOk : Bool) (pkg : List Nat) (sigA sigB storeOk : Bool) (s : State) :
    exec (.prtCommandDone readsOk pkg sigA sigB storeOk) s = .next (doPrtCommandDone readsOk (toBytes pkg) sigA sigB storeOk s) :=
  rfl

/-- Settles O46: each write of `PRT.CMD` runs or is refused by its state, and the end of a command has three forms. -/
theorem protectionCommandsAct : Obligations.ProtectionCommandsAct := by
  unfold Obligations.ProtectionCommandsAct
  refine ⟨?nonce, ?change, ?unlock, ?locked, ?closed, ?fails, ?unlocks, ?commits, ?nothing⟩
  case nonce =>
    intro s up opened
    change Host.Outcome.next (writePrtCmd (2 ^ 63 + 1) s) = _
    rw [writePrtCmd_go (by decide) up, opened]
    rfl
  case change =>
    intro s up opened
    change Host.Outcome.next (writePrtCmd (2 ^ 63 + 2) s) = _
    rw [writePrtCmd_go (by decide) up, opened]
    rfl
  case unlock =>
    intro s up ready idle
    change Host.Outcome.next (writePrtCmd (2 ^ 63 + 3) s) = _
    rw [writePrtCmd_go (by decide) up, (prtOpen_iff s).2 ⟨.inl ready, idle⟩, ready]
    rfl
  case locked =>
    intro s up locked
    have refuses : (!s.prtOpen || (decide (3 = 3) && decide (s.kpr.state ≠ .ready))) = true := by
      rcases locked with elsewhere | busy
      · rw [decide_eq_true elsewhere, Bool.and_true, decide_eq_true rfl, Bool.or_true]
      · rw [Bool.eq_false_iff.2 (fun opened => ((prtOpen_iff s).1 opened).2 busy)]
        rfl
    change Host.Outcome.next (writePrtCmd (2 ^ 63 + 3) s) = _
    rw [writePrtCmd_go (by decide) up, if_pos refuses]
  case closed =>
    intro s up closed
    constructor
    · change Host.Outcome.next (writePrtCmd (2 ^ 63 + 1) s) = _
      rw [writePrtCmd_go (by decide) up, closed]
      rfl
    · change Host.Outcome.next (writePrtCmd (2 ^ 63 + 2) s) = _
      rw [writePrtCmd_go (by decide) up, closed]
      rfl
  case fails =>
    intro readsOk sigA sigB storeOk pkg s runs bme live fails
    exact (exec_prtDone ..).trans (congrArg _ (doPrtCommandDone_fails runs bme live fails))
  case unlocks =>
    intro sigA sigB storeOk pkg s unlock bme live good
    exact (exec_prtDone ..).trans (congrArg _ (doPrtCommandDone_unlocks (by rw [unlock]; decide) bme live unlock good))
  case commits =>
    intro sigA sigB storeOk pkg s change bme live good
    exact (exec_prtDone ..).trans (congrArg _ (doPrtCommandDone_commits (by rw [change]; decide) bme live change good))
  case nothing =>
    intro readsOk sigA sigB storeOk pkg s idle
    have stays : (decide (s.prt.running = 0) || !s.hif.bme || decide (s.kpr.state = .halted)) = true := by
      rcases idle with h | h | h <;> simp [h]
    exact (exec_prtDone ..).trans (congrArg _ (if_pos stays))

end Sys2Proof.Proofs
end


section
/-! Temperature samples, suspect and failed sensors, holds, models and the cooling estimate (chapter 16). -/
namespace Sys2Proof.Proofs
set_option Elab.async false
open Sys2Proof.Machine Sys2Proof.Laws

/-! ## Folds that leave a value alone -/

/-- A value that every step of a fold leaves alone is as before. -/
theorem foldl_value {α β : Type} {g : State → β} {f : State → α → State} (l : List α) (s : State)
    (each : ∀ e ∈ l, ∀ x, g (f x e) = g x) : g (l.foldl f s) = g s := by
  induction l generalizing s with
  | nil => rfl
  | cons e l ih =>
    rw [List.foldl_cons, ih _ fun e' inside => each e' (List.mem_cons_of_mem _ inside)]
    exact each e List.mem_cons_self s

/-! ## Records of the pairs and the sills -/

theorem pairOf_congr {s t : State} (same : t.thm.regions = s.thm.regions) (q : Nat) : t.pairOf q = s.pairOf q := by
  rw [State.pairOf, State.pairOf, same]

theorem memPairOf_congr {s t : State} (same : t.thm.mems = s.thm.mems) (q : Nat) : t.memPairOf q = s.memPairOf q := by
  rw [State.memPairOf, State.memPairOf, same]

theorem setPair_congr {r : Nat} {f g : Pair → Pair} {s : State} (same : f (s.pairOf r) = g (s.pairOf r)) :
    setPair r f s = setPair r g s := by
  have regions : mapMod pair0 s.thm.regions r f = mapMod pair0 s.thm.regions r g := by
    rw [mapMod, mapMod]
    exact congrArg (mapSet pair0 s.thm.regions r) same
  rw [setPair, setPair, regions]

theorem setMemPair_congr {r : Nat} {f g : Pair → Pair} {s : State} (same : f (s.memPairOf r) = g (s.memPairOf r)) :
    setMemPair r f s = setMemPair r g s := by
  have mems : mapMod pair0 s.thm.mems r f = mapMod pair0 s.thm.mems r g := by
    rw [mapMod, mapMod]
    exact congrArg (mapSet pair0 s.thm.mems r) same
  rw [setMemPair, setMemPair, mems]

theorem setSill_pairOf (i : Nat) (f : SillHeat → SillHeat) (s : State) (q : Nat) : (setSill i f s).pairOf q = s.pairOf q := rfl
theorem setSill_memPairOf (i : Nat) (f : SillHeat → SillHeat) (s : State) (q : Nat) : (setSill i f s).memPairOf q = s.memPairOf q := rfl
theorem setMemPair_pairOf (r : Nat) (f : Pair → Pair) (s : State) (q : Nat) : (setMemPair r f s).pairOf q = s.pairOf q := rfl
theorem setPair_memPairOf (r : Nat) (f : Pair → Pair) (s : State) (q : Nat) : (setPair r f s).memPairOf q = s.memPairOf q := rfl

/-! ## What a judgement can change (R346) -/

/-- Of the temperatures only the pairs of regions and the counts of events differ. -/
def OnlyPairs (s t : State) : Prop := t.kpr = s.kpr ∧ t.frm = s.frm ∧ ∃ regions holds flagged events,
  t.thm = { s.thm with regions := regions, holds := holds, flagged := flagged, modelEvents := events }

/-- Of the temperatures only the pairs of footprints and the counts of events differ. -/
def OnlyMemPairs (s t : State) : Prop := t.kpr = s.kpr ∧ t.frm = s.frm ∧ ∃ mems holds flagged,
  t.thm = { s.thm with mems := mems, holds := holds, flagged := flagged }

/-- Of the temperatures only the sills and the counts of events differ. -/
def OnlySills (s t : State) : Prop := t.kpr = s.kpr ∧ t.frm = s.frm ∧ ∃ sills holds flagged,
  t.thm = { s.thm with sills := sills, holds := holds, flagged := flagged }

theorem OnlyPairs.trans {a b c : State} (h : OnlyPairs a b) (k : OnlyPairs b c) : OnlyPairs a c := by
  obtain ⟨kpr, frm, _, _, _, _, thm⟩ := h
  obtain ⟨kpr2, frm2, regions, holds, flagged, events, thm2⟩ := k
  exact ⟨kpr2.trans kpr, frm2.trans frm, regions, holds, flagged, events, by rw [thm2, thm]⟩

theorem OnlySills.trans {a b c : State} (h : OnlySills a b) (k : OnlySills b c) : OnlySills a c := by
  obtain ⟨kpr, frm, _, _, _, thm⟩ := h
  obtain ⟨kpr2, frm2, sills, holds, flagged, thm2⟩ := k
  exact ⟨kpr2.trans kpr, frm2.trans frm, sills, holds, flagged, by rw [thm2, thm]⟩

theorem OnlyMemPairs.trans {a b c : State} (h : OnlyMemPairs a b) (k : OnlyMemPairs b c) : OnlyMemPairs a c := by
  obtain ⟨kpr, frm, _, _, _, thm⟩ := h
  obtain ⟨kpr2, frm2, mems, holds, flagged, thm2⟩ := k
  exact ⟨kpr2.trans kpr, frm2.trans frm, mems, holds, flagged, by rw [thm2, thm]⟩

theorem onlyPairs_setPair (r : Nat) (f : Pair → Pair) (s : State) : OnlyPairs s (setPair r f s) :=
  ⟨rfl, rfl, _, _, _, _, rfl⟩

theorem onlyMemPairs_setMemPair (r : Nat) (f : Pair → Pair) (s : State) : OnlyMemPairs s (setMemPair r f s) :=
  ⟨rfl, rfl, _, _, _, rfl⟩

theorem onlySills_setSill (i : Nat) (f : SillHeat → SillHeat) (s : State) : OnlySills s (setSill i f s) :=
  ⟨rfl, rfl, _, _, _, rfl⟩

/-- A hold that begins is counted and told, and nothing else of the temperatures changes. -/
theorem holdBegins_blocks (unit temp : Nat) (s : State) : (holdBegins unit temp s).kpr = s.kpr ∧
    (holdBegins unit temp s).frm = s.frm ∧ (holdBegins unit temp s).thm = { s.thm with holds := satAdd 16 s.thm.holds 1 } := by
  rw [holdBegins, raise_kpr, raise_frm, raise_thm]
  exact ⟨rfl, rfl, rfl⟩

theorem onlyPairs_holdBegins (unit temp : Nat) (s : State) : OnlyPairs s (holdBegins unit temp s) := by
  obtain ⟨kpr, frm, thm⟩ := holdBegins_blocks unit temp s
  exact ⟨kpr, frm, _, _, _, _, thm⟩

theorem onlyMemPairs_holdBegins (unit temp : Nat) (s : State) : OnlyMemPairs s (holdBegins unit temp s) := by
  obtain ⟨kpr, frm, thm⟩ := holdBegins_blocks unit temp s
  exact ⟨kpr, frm, _, _, _, thm⟩

theorem onlySills_holdBegins (unit temp : Nat) (s : State) : OnlySills s (holdBegins unit temp s) := by
  obtain ⟨kpr, frm, thm⟩ := holdBegins_blocks unit temp s
  exact ⟨kpr, frm, _, _, _, thm⟩

theorem holdBegins_pairOf (unit temp : Nat) (s : State) (q : Nat) : (holdBegins unit temp s).pairOf q = s.pairOf q :=
  pairOf_congr (by rw [(holdBegins_blocks unit temp s).2.2]) q

theorem holdBegins_memPairOf (unit temp : Nat) (s : State) (q : Nat) : (holdBegins unit temp s).memPairOf q = s.memPairOf q :=
  memPairOf_congr (by rw [(holdBegins_blocks unit temp s).2.2]) q

theorem holdBegins_sills (unit temp : Nat) (s : State) : (holdBegins unit temp s).thm.sills = s.thm.sills := by
  rw [(holdBegins_blocks unit temp s).2.2]

/-- What a pair reads and its model. -/
def SameReadings (p q : Pair) : Prop := q.a = p.a ∧ q.b = p.b ∧ q.stateA = p.stateA ∧ q.stateB = p.stateB ∧ q.model = p.model

theorem pairReading_congr {p q : Pair} (same : SameReadings p q) : pairReading q = pairReading p := by
  obtain ⟨a, b, stateA, stateB, -⟩ := same
  rw [pairReading, pairReading, a, b, stateA, stateB]

theorem regionTemp_congr {s t : State} {r : Nat} (same : SameReadings (s.pairOf r) (t.pairOf r)) :
    t.regionTemp r = s.regionTemp r := by
  simp only [State.regionTemp, pairReading_congr same, same.2.2.2.2]

theorem begins_or_held (held hot : Bool) : (held || (!held && hot)) = (held || hot) := by
  revert held hot
  decide

/-- A judged region is held where it was or is too hot, and reads as before. -/
theorem judgeRegion_same (r : Nat) (s : State) : SameReadings (s.pairOf r) ((judgeRegion r s).pairOf r) ∧
    ((judgeRegion r s).pairOf r).held = ((s.pairOf r).held || decide (1648 < s.regionTemp r)) := by
  rw [judgeRegion]
  split
  · rw [holdBegins_pairOf, setPair_pairOf_same]
    exact ⟨⟨rfl, rfl, rfl, rfl, rfl⟩, begins_or_held ..⟩
  · rw [setPair_pairOf_same]
    exact ⟨⟨rfl, rfl, rfl, rfl, rfl⟩, begins_or_held ..⟩

theorem judgeRegion_other {r q : Nat} (ne : q ≠ r) (s : State) : (judgeRegion r s).pairOf q = s.pairOf q := by
  rw [judgeRegion]
  split
  · rw [holdBegins_pairOf, setPair_pairOf_other _ _ _ ne]
  · rw [setPair_pairOf_other _ _ _ ne]

theorem onlyPairs_judgeRegion (r : Nat) (s : State) : OnlyPairs s (judgeRegion r s) := by
  rw [judgeRegion]
  split
  · exact (onlyPairs_setPair ..).trans (onlyPairs_holdBegins ..)
  · exact onlyPairs_setPair ..

theorem judgeMem_same (r : Nat) (s : State) : SameReadings (s.memPairOf r) ((judgeMem r s).memPairOf r) ∧
    ((judgeMem r s).memPairOf r).held = ((s.memPairOf r).held || decide (1520 < s.memTemp r)) := by
  rw [judgeMem]
  split
  · rw [holdBegins_memPairOf, setMemPair_memPairOf_same]
    exact ⟨⟨rfl, rfl, rfl, rfl, rfl⟩, begins_or_held ..⟩
  · rw [setMemPair_memPairOf_same]
    exact ⟨⟨rfl, rfl, rfl, rfl, rfl⟩, begins_or_held ..⟩

theorem judgeMem_other {r q : Nat} (ne : q ≠ r) (s : State) : (judgeMem r s).memPairOf q = s.memPairOf q := by
  rw [judgeMem]
  split
  · rw [holdBegins_memPairOf, setMemPair_memPairOf_other _ _ _ ne]
  · rw [setMemPair_memPairOf_other _ _ _ ne]

theorem onlyMemPairs_judgeMem (r : Nat) (s : State) : OnlyMemPairs s (judgeMem r s) := by
  rw [judgeMem]
  split
  · exact (onlyMemPairs_setMemPair ..).trans (onlyMemPairs_holdBegins ..)
  · exact onlyMemPairs_setMemPair ..

theorem sills_setSill (i : Nat) (f : SillHeat → SillHeat) (s : State) :
    (setSill i f s).thm.sills = setNth s.thm.sills i (f (nth {} s.thm.sills i)) := rfl

theorem judgeSill_other {i j : Nat} (ne : j ≠ i) (s : State) : nth {} (judgeSill i s).thm.sills j = nth {} s.thm.sills j := by
  rw [judgeSill]
  split
  · rw [holdBegins_sills, sills_setSill, nth_setNth_other _ _ _ ne]
  · rw [sills_setSill, nth_setNth_other _ _ _ ne]

theorem judgeSill_same {i : Nat} {s : State} (inside : i < s.thm.sills.length) :
    (nth {} (judgeSill i s).thm.sills i).readings = (nth {} s.thm.sills i).readings ∧
    (nth {} (judgeSill i s).thm.sills i).failed = (nth {} s.thm.sills i).failed ∧
    (nth {} (judgeSill i s).thm.sills i).held = ((nth {} s.thm.sills i).held || decide (1648 < s.sillTemp i)) := by
  rw [judgeSill]
  split
  · rw [holdBegins_sills, sills_setSill, nth_setNth_same _ _ inside]
    exact ⟨rfl, rfl, begins_or_held ..⟩
  · rw [sills_setSill, nth_setNth_same _ _ inside]
    exact ⟨rfl, rfl, begins_or_held ..⟩

theorem onlySills_judgeSill (i : Nat) (s : State) : OnlySills s (judgeSill i s) := by
  rw [judgeSill]
  split
  · exact (onlySills_setSill ..).trans (onlySills_holdBegins ..)
  · exact onlySills_setSill ..

theorem onlySills_judgeSills (s : State) : OnlySills s ((List.range 4).foldl (fun s i => judgeSill i s) s) := by
  have all (l : List Nat) (s : State) : OnlySills s (l.foldl (fun s i => judgeSill i s) s) := by
    induction l generalizing s with
    | nil => exact ⟨rfl, rfl, _, _, _, rfl⟩
    | cons i l ih => exact (onlySills_judgeSill i s).trans (ih _)
  exact all _ s

/-! ## A sensor that fails (R344) -/

theorem doSensorFail_fails {cls u k : Nat} {s : State} (powered : s.powered = true) (started : s.thm.started = true)
    (works : sensorState cls u k s ≠ 2) : doSensorFail cls u k s =
      raise 0x0060 1 (if cls = 3 then noUnit else u + 0x1000 * cls) [k, 2]
        (if sensorState cls u k s = 0 then
          { failSensor cls u k s with thm := { (failSensor cls u k s).thm with flagged := satAdd 16 (failSensor cls u k s).thm.flagged 1 } }
        else failSensor cls u k s) := by
  simp only [doSensorFail, powered, started, decide_eq_true works, Bool.and_self, if_true, decide_eq_true_eq]

theorem doSensorFail_stays {cls u k : Nat} {s : State}
    (idle : s.powered = false ∨ s.thm.started = false ∨ sensorState cls u k s = 2) : doSensorFail cls u k s = s := by
  have none_ : (s.powered && s.thm.started && decide (sensorState cls u k s ≠ 2)) = false := by
    rcases idle with h | h | h <;> simp [h]
  rw [doSensorFail, none_, if_neg Bool.false_ne_true]

/-- The pair with one sensor excluded. -/
def excluded (k : Nat) (p : Pair) : Pair := if k = 0 then { p with stateA := 2, a := 0 } else { p with stateB := 2, b := 0 }

/-- The temperatures after a sensor failed are those with it excluded, and the count of flags. -/
theorem doSensorFail_thm {cls u k : Nat} {s : State} (powered : s.powered = true) (started : s.thm.started = true)
    (works : sensorState cls u k s ≠ 2) : (doSensorFail cls u k s).thm = { (failSensor cls u k s).thm with
      flagged := if sensorState cls u k s = 0 then satAdd 16 (failSensor cls u k s).thm.flagged 1 else (failSensor cls u k s).thm.flagged } := by
  rw [doSensorFail_fails powered started works, raise_thm]
  split
  · rfl
  · rfl

theorem failSensor_region (u k : Nat) (s : State) : failSensor 0 u k s = setPair u (excluded k) s := rfl
theorem failSensor_mem (u k : Nat) (s : State) : failSensor 1 u k s = setMemPair u (excluded k) s := rfl
theorem failSensor_sill (u k : Nat) (s : State) : failSensor 2 u k s =
    setSill u (fun h => { h with failed := h.failed ||| 2 ^ k, readings := setNth h.readings k 0 }) s := rfl

theorem doSensorFail_thm_cases (cls u k : Nat) (s : State) : ∃ flagged,
    (doSensorFail cls u k s).thm = { s.thm with flagged := flagged } ∨
    (doSensorFail cls u k s).thm = { (failSensor cls u k s).thm with flagged := flagged } := by
  by_cases idle : s.powered = false ∨ s.thm.started = false ∨ sensorState cls u k s = 2
  · exact ⟨s.thm.flagged, .inl (by rw [doSensorFail_stays idle])⟩
  · simp only [not_or, Bool.not_eq_false] at idle
    obtain ⟨powered, started, works⟩ := idle
    exact ⟨_, .inr (doSensorFail_thm powered started works)⟩

theorem doSensorFail_pairOf_other {cls u k q : Nat} (elsewhere : cls = 0 → u ≠ q) (s : State) :
    (doSensorFail cls u k s).pairOf q = s.pairOf q := by
  obtain ⟨_, thm | thm⟩ := doSensorFail_thm_cases cls u k s
  · exact pairOf_congr (by rw [thm]) q
  · rw [pairOf_congr (s := failSensor cls u k s) (by rw [thm])]
    match cls, elsewhere with
    | 0, elsewhere => exact setPair_pairOf_other _ _ _ fun eq => elsewhere rfl eq.symm
    | 1, _ => rfl
    | 2, _ => rfl
    | n + 3, _ => rfl

theorem doSensorFail_memPairOf_other {cls u k q : Nat} (elsewhere : cls = 1 → u ≠ q) (s : State) :
    (doSensorFail cls u k s).memPairOf q = s.memPairOf q := by
  obtain ⟨_, thm | thm⟩ := doSensorFail_thm_cases cls u k s
  · exact memPairOf_congr (by rw [thm]) q
  · rw [memPairOf_congr (s := failSensor cls u k s) (by rw [thm])]
    match cls, elsewhere with
    | 0, _ => rfl
    | 1, elsewhere => exact setMemPair_memPairOf_other _ _ _ fun eq => elsewhere rfl eq.symm
    | 2, _ => rfl
    | n + 3, _ => rfl

theorem failHot_value {β : Type} {g : State → β} {cls u k : Nat} (x : Nat) {s : State}
    (same : g (doSensorFail cls u k s) = g s) : g (failHot cls u k x s) = g s := by
  rw [failHot]
  split
  · exact same
  · rfl

/-! ## Samples (R343) -/

theorem exec_tempSample (x : TempReadings) (s : State) : exec (.tempSample x) s = .next (doTempSample x.narrow s) := rfl

/-- The units sampled are judged. -/
def sampleJudged (t : TempReadings) (s : State) : State :=
  (List.range 4).foldl (fun s i => judgeSill i s)
    (t.mems.foldl (fun s e => judgeMem e.1 s) (t.regions.foldl (fun s e => judgeRegion e.1 s) s))

theorem doTempSample_runs (t : TempReadings) {s : State} (powered : s.powered = true) (started : s.thm.started = true) :
    doTempSample t s = sampleJudged t (takeReadings t (failReadings t s)) := by
  rw [doTempSample, powered, started]
  rfl

theorem onlyPairs_judgeRegions (l : List (Nat × Nat × Nat)) (s : State) :
    OnlyPairs s (l.foldl (fun s e => judgeRegion e.1 s) s) := by
  induction l generalizing s with
  | nil => exact ⟨rfl, rfl, _, _, _, _, rfl⟩
  | cons e l ih => exact (onlyPairs_judgeRegion e.1 s).trans (ih _)

theorem onlyMemPairs_judgeMems (l : List (Nat × Nat × Nat)) (s : State) :
    OnlyMemPairs s (l.foldl (fun s e => judgeMem e.1 s) s) := by
  induction l generalizing s with
  | nil => exact ⟨rfl, rfl, _, _, _, rfl⟩
  | cons e l ih => exact (onlyMemPairs_judgeMem e.1 s).trans (ih _)

/-- The judgement of a sample changes pairs, sills and counts. -/
theorem sampleJudged_thm (t : TempReadings) (s : State) : ∃ regions mems sills holds flagged events,
    (sampleJudged t s).thm = { s.thm with regions := regions, mems := mems, sills := sills, holds := holds, flagged := flagged, modelEvents := events } := by
  obtain ⟨-, -, regions, _, _, events, thm1⟩ := onlyPairs_judgeRegions t.regions s
  obtain ⟨-, -, mems, _, _, thm2⟩ := onlyMemPairs_judgeMems t.mems (t.regions.foldl (fun s e => judgeRegion e.1 s) s)
  obtain ⟨-, -, sills, holds, flagged, thm3⟩ :=
    onlySills_judgeSills (t.mems.foldl (fun s e => judgeMem e.1 s) (t.regions.foldl (fun s e => judgeRegion e.1 s) s))
  exact ⟨regions, mems, sills, holds, flagged, events, by rw [sampleJudged, thm3, thm2, thm1]⟩

/-- Pairs of regions after the judgement of the footprints and the sills. -/
theorem sampleJudged_regions (t : TempReadings) (s : State) :
    (sampleJudged t s).thm.regions = (t.regions.foldl (fun s e => judgeRegion e.1 s) s).thm.regions := by
  obtain ⟨-, -, mems, _, _, thm2⟩ := onlyMemPairs_judgeMems t.mems (t.regions.foldl (fun s e => judgeRegion e.1 s) s)
  obtain ⟨-, -, sills, holds, flagged, thm3⟩ :=
    onlySills_judgeSills (t.mems.foldl (fun s e => judgeMem e.1 s) (t.regions.foldl (fun s e => judgeRegion e.1 s) s))
  rw [sampleJudged, thm3, thm2]

theorem sampleJudged_mems (t : TempReadings) (s : State) : (sampleJudged t s).thm.mems =
    (t.mems.foldl (fun s e => judgeMem e.1 s) (t.regions.foldl (fun s e => judgeRegion e.1 s) s)).thm.mems := by
  obtain ⟨-, -, sills, holds, flagged, thm3⟩ :=
    onlySills_judgeSills (t.mems.foldl (fun s e => judgeMem e.1 s) (t.regions.foldl (fun s e => judgeRegion e.1 s) s))
  rw [sampleJudged, thm3]

theorem failReadings_pairOf_other (t : TempReadings) (s : State) {q : Nat} (unnamed : ∀ e ∈ t.regions, e.1 ≠ q) :
    (failReadings t s).pairOf q = s.pairOf q := by
  rw [failReadings]
  rw [failHot_value (g := fun x => x.pairOf q) _ (doSensorFail_pairOf_other (fun h => absurd h (by decide)) _)]
  rw [foldl_value (g := fun x => x.pairOf q) t.sills _ fun e _ x =>
    failHot_value (g := fun x => x.pairOf q) _ (doSensorFail_pairOf_other (fun h => absurd h (by decide)) x)]
  rw [foldl_value (g := fun x => x.pairOf q) t.mems _ fun e _ x =>
    (failHot_value (g := fun x => x.pairOf q) _ (doSensorFail_pairOf_other (fun h => absurd h (by decide)) _)).trans
      (failHot_value (g := fun x => x.pairOf q) _ (doSensorFail_pairOf_other (fun h => absurd h (by decide)) x))]
  exact foldl_value (g := fun x => x.pairOf q) t.regions _ fun e named x =>
    (failHot_value (g := fun x => x.pairOf q) _ (doSensorFail_pairOf_other (fun _ => unnamed e named) _)).trans
      (failHot_value (g := fun x => x.pairOf q) _ (doSensorFail_pairOf_other (fun _ => unnamed e named) x))

theorem failReadings_memPairOf_other (t : TempReadings) (s : State) {q : Nat} (unnamed : ∀ e ∈ t.mems, e.1 ≠ q) :
    (failReadings t s).memPairOf q = s.memPairOf q := by
  rw [failReadings]
  rw [failHot_value (g := fun x => x.memPairOf q) _ (doSensorFail_memPairOf_other (fun h => absurd h (by decide)) _)]
  rw [foldl_value (g := fun x => x.memPairOf q) t.sills _ fun e _ x =>
    failHot_value (g := fun x => x.memPairOf q) _ (doSensorFail_memPairOf_other (fun h => absurd h (by decide)) x)]
  rw [foldl_value (g := fun x => x.memPairOf q) t.mems _ fun e named x =>
    (failHot_value (g := fun x => x.memPairOf q) _ (doSensorFail_memPairOf_other (fun _ => unnamed e named) _)).trans
      (failHot_value (g := fun x => x.memPairOf q) _ (doSensorFail_memPairOf_other (fun _ => unnamed e named) x))]
  exact foldl_value (g := fun x => x.memPairOf q) t.regions _ fun e _ x =>
    (failHot_value (g := fun x => x.memPairOf q) _ (doSensorFail_memPairOf_other (fun h => absurd h (by decide)) _)).trans
      (failHot_value (g := fun x => x.memPairOf q) _ (doSensorFail_memPairOf_other (fun h => absurd h (by decide)) x))

/-- The pair after a reading of both sensors is taken. -/
def readPair (a b : Nat) (p : Pair) : Pair :=
  { p with a := if p.stateA = 2 then 0 else a, b := if p.stateB = 2 then 0 else b }

/-- The sill after a reading is taken. -/
def readSill (k v : Nat) (h : SillHeat) : SillHeat := { h with readings := setNth h.readings k (if bit h.failed k then 0 else v) }

/-- The state after the readings of the pairs and sills, before that of the inlet. -/
def pairsRead (t : TempReadings) (s : State) : State :=
  t.sills.foldl (fun s e => setSill e.1 (readSill e.2.1 e.2.2) s)
    (t.mems.foldl (fun s e => setMemPair e.1 (readPair e.2.1 e.2.2) s)
      (t.regions.foldl (fun s e => setPair e.1 (readPair e.2.1 e.2.2) s) s))

theorem takeReadings_eq (t : TempReadings) (s : State) : takeReadings t s = { pairsRead t s with
    thm := { (pairsRead t s).thm with ready := true, inlet := if (pairsRead t s).thm.inletFailed then 0 else t.inlet.getD (pairsRead t s).thm.inlet } } :=
  rfl

theorem pairsRead_pairOf_other (t : TempReadings) (s : State) {q : Nat} (unnamed : ∀ e ∈ t.regions, e.1 ≠ q) :
    (pairsRead t s).pairOf q = s.pairOf q := by
  rw [pairsRead, foldl_value (g := fun x => x.pairOf q) t.sills _ fun e _ x => setSill_pairOf e.1 (readSill e.2.1 e.2.2) x q,
    foldl_value (g := fun x => x.pairOf q) t.mems _ fun e _ x => setMemPair_pairOf e.1 (readPair e.2.1 e.2.2) x q]
  exact foldl_value (g := fun x => x.pairOf q) t.regions _ fun e named x =>
    setPair_pairOf_other _ _ _ fun eq => unnamed e named eq.symm

theorem pairsRead_memPairOf_other (t : TempReadings) (s : State) {q : Nat} (unnamed : ∀ e ∈ t.mems, e.1 ≠ q) :
    (pairsRead t s).memPairOf q = s.memPairOf q := by
  rw [pairsRead, foldl_value (g := fun x => x.memPairOf q) t.sills _ fun e _ x => setSill_memPairOf e.1 (readSill e.2.1 e.2.2) x q,
    foldl_value (g := fun x => x.memPairOf q) t.mems _ fun e named x =>
      setMemPair_memPairOf_other _ _ _ fun eq => unnamed e named eq.symm]
  exact foldl_value (g := fun x => x.memPairOf q) t.regions _ fun e _ x => setPair_memPairOf e.1 (readPair e.2.1 e.2.2) x q

theorem takeReadings_pairs (t : TempReadings) (s : State) : (takeReadings t s).thm.regions = (pairsRead t s).thm.regions ∧
    (takeReadings t s).thm.mems = (pairsRead t s).thm.mems ∧ (takeReadings t s).thm.sills = (pairsRead t s).thm.sills ∧
    (takeReadings t s).thm.ready = true ∧
    (takeReadings t s).thm.inlet = (if (pairsRead t s).thm.inletFailed then 0 else t.inlet.getD (pairsRead t s).thm.inlet) := by
  rw [takeReadings_eq]
  exact ⟨rfl, rfl, rfl, rfl, rfl⟩

theorem sampleJudged_pairOf_other (t : TempReadings) (s : State) {q : Nat} (unnamed : ∀ e ∈ t.regions, e.1 ≠ q) :
    (sampleJudged t s).pairOf q = s.pairOf q :=
  (pairOf_congr (sampleJudged_regions t s) q).trans
    (foldl_value (g := fun x => x.pairOf q) t.regions s fun e named x =>
      judgeRegion_other (fun eq => unnamed e named eq.symm) x)

theorem onlyPairs_memPairOf {s t : State} (only : OnlyPairs s t) (q : Nat) : t.memPairOf q = s.memPairOf q := by
  obtain ⟨-, -, _, _, _, _, thm⟩ := only
  exact memPairOf_congr (by rw [thm]) q

theorem sampleJudged_memPairOf_other (t : TempReadings) (s : State) {q : Nat} (unnamed : ∀ e ∈ t.mems, e.1 ≠ q) :
    (sampleJudged t s).memPairOf q = s.memPairOf q :=
  ((memPairOf_congr (sampleJudged_mems t s) q).trans
    (foldl_value (g := fun x => x.memPairOf q) t.mems _ fun e named x =>
      judgeMem_other (fun eq => unnamed e named eq.symm) x)).trans (onlyPairs_memPairOf (onlyPairs_judgeRegions t.regions s) q)

/-- Names of the pairs that a sample narrowed to existing units still names. -/
theorem narrow_unnamed {x : TempReadings} {q : Nat} : ((∀ e ∈ x.regions, e.1 ≠ q) → ∀ e ∈ x.narrow.regions, e.1 ≠ q) ∧
    ((∀ e ∈ x.mems, e.1 ≠ q) → ∀ e ∈ x.narrow.mems, e.1 ≠ q) := by
  constructor
  all_goals
    intro unnamed e named
    simp only [TempReadings.narrow, List.mem_map, List.mem_filter] at named
    obtain ⟨e', ⟨inside, -⟩, rfl⟩ := named
    exact unnamed e' inside

theorem tempSample_keeps (x : TempReadings) (s : State) : (doTempSample x s).mem = s.mem ∧ (doTempSample x s).cores = s.cores ∧
    (doTempSample x s).frm = s.frm ∧ (doTempSample x s).pwr = s.pwr ∧ (doTempSample x s).clk = s.clk := by
  have free : false = false := rfl
  have kept : Keeps (Untouched.allBut [.reports, .thm]) s (doTempSample x s) := doTempSample_keeps x s (Keeps.refl s)
  exact ⟨mem_of_keeps kept rfl rfl, cores_of_keeps kept rfl rfl, kept.frm rfl, kept.pwr rfl, kept.clk rfl⟩

theorem sample_all (x : TempReadings) {s : State} (powered : s.powered = true) (started : s.thm.started = true) :
    (doTempSample x s).thm.ready = true ∧
    (∀ q, (∀ e ∈ x.regions, e.1 ≠ q) → (doTempSample x s).pairOf q = s.pairOf q) ∧
    (∀ q, (∀ e ∈ x.mems, e.1 ≠ q) → (doTempSample x s).memPairOf q = s.memPairOf q) := by
  rw [doTempSample_runs x powered started]
  obtain ⟨regions, mems, -, ready, -⟩ := takeReadings_pairs x (failReadings x s)
  refine ⟨?_, fun q unnamed => ?_, fun q unnamed => ?_⟩
  · obtain ⟨_, _, _, _, _, _, thm⟩ := sampleJudged_thm x (takeReadings x (failReadings x s))
    rw [thm]
    exact ready
  · rw [sampleJudged_pairOf_other x _ unnamed, pairOf_congr regions, pairsRead_pairOf_other x _ unnamed,
      failReadings_pairOf_other x s unnamed]
  · rw [sampleJudged_memPairOf_other x _ unnamed, memPairOf_congr mems, pairsRead_memPairOf_other x _ unnamed,
      failReadings_memPairOf_other x s unnamed]

end Sys2Proof.Proofs
end


section
/-! The statement about temperatures and cooling (chapter 16). -/
namespace Sys2Proof.Proofs
set_option Elab.async false
open Sys2Proof.Machine Sys2Proof.Laws

/-! ## A sample of one pair -/

/-- A sample of one region's pair. -/
def regionSample (r a b : Nat) : TempReadings := { regions := [(r, a, b)], mems := [], sills := [], inlet := none }

/-- A sample of one footprint's pair. -/
def memSample (r a b : Nat) : TempReadings := { regions := [], mems := [(r, a, b)], sills := [], inlet := none }

/-- A sample of one sensor of a sill and of the inlet. -/
def sillSample (u k v x : Nat) : TempReadings := { regions := [], mems := [], sills := [(u, k, v)], inlet := some x }

theorem narrow_regionSample {r a b : Nat} (unit : r < 512) (ha : a < 4096) (hb : b < 4096) :
    (regionSample r a b).narrow = regionSample r a b := by
  simp [TempReadings.narrow, regionSample, unit, Nat.mod_eq_of_lt ha, Nat.mod_eq_of_lt hb]

theorem narrow_memSample {r a b : Nat} (unit : r < 512) (ha : a < 4096) (hb : b < 4096) :
    (memSample r a b).narrow = memSample r a b := by
  simp [TempReadings.narrow, memSample, unit, Nat.mod_eq_of_lt ha, Nat.mod_eq_of_lt hb]

theorem narrow_sillSample {u k v x : Nat} (unit : u < 4) (sensor : k < 16) (hv : v < 4096) (hx : x < 4096) :
    (sillSample u k v x).narrow = sillSample u k v x := by
  simp [TempReadings.narrow, sillSample, unit, sensor, Nat.mod_eq_of_lt hv, Nat.mod_eq_of_lt hx]

theorem failHot_cool {cls u k x : Nat} (s : State) (cool : x ≤ 2400) : failHot cls u k x s = s := if_neg (Nat.not_lt.2 cool)

theorem failReadings_regionSample (r a b : Nat) (s : State) :
    failReadings (regionSample r a b) s = failHot 0 r 1 b (failHot 0 r 0 a s) := failHot_cool _ (Nat.zero_le 2400)

theorem failReadings_memSample (r a b : Nat) (s : State) :
    failReadings (memSample r a b) s = failHot 1 r 1 b (failHot 1 r 0 a s) := failHot_cool _ (Nat.zero_le 2400)

theorem failReadings_sillSample (u k v x : Nat) (s : State) :
    failReadings (sillSample u k v x) s = failHot 3 0 0 x (failHot 2 u k v s) := rfl

theorem OnlyPairs.mems {s t : State} (only : OnlyPairs s t) : t.thm.mems = s.thm.mems := by
  obtain ⟨-, -, _, _, _, _, thm⟩ := only
  rw [thm]

/-- What a region's pair is once its readings are taken and judged. -/
theorem judged_regionSample (r a b : Nat) (s : State) :
    SameReadings (readPair a b (s.pairOf r)) ((sampleJudged (regionSample r a b) (takeReadings (regionSample r a b) s)).pairOf r) ∧
    ((sampleJudged (regionSample r a b) (takeReadings (regionSample r a b) s)).pairOf r).held = ((s.pairOf r).held ||
      decide (1648 < (sampleJudged (regionSample r a b) (takeReadings (regionSample r a b) s)).regionTemp r)) ∧
    (sampleJudged (regionSample r a b) (takeReadings (regionSample r a b) s)).thm.mems = s.thm.mems ∧
    (sampleJudged (regionSample r a b) (takeReadings (regionSample r a b) s)).thm.inlet =
      (if s.thm.inletFailed then 0 else s.thm.inlet) := by
  have taken : (takeReadings (regionSample r a b) s).pairOf r = readPair a b (s.pairOf r) := setPair_pairOf_same r (readPair a b) s
  have mems : (takeReadings (regionSample r a b) s).thm.mems = s.thm.mems := rfl
  have inlet : (takeReadings (regionSample r a b) s).thm.inlet = (if s.thm.inletFailed then 0 else s.thm.inlet) := rfl
  generalize takeReadings (regionSample r a b) s = u at taken mems inlet ⊢
  obtain ⟨same, held⟩ := judgeRegion_same r u
  have pair : (sampleJudged (regionSample r a b) u).pairOf r = (judgeRegion r u).pairOf r :=
    pairOf_congr (sampleJudged_regions _ _) r
  have keptMems : (sampleJudged (regionSample r a b) u).thm.mems = u.thm.mems :=
    (sampleJudged_mems _ _).trans (onlyPairs_judgeRegion r u).mems
  obtain ⟨_, _, _, _, _, _, thm⟩ := sampleJudged_thm (regionSample r a b) u
  have temp : (sampleJudged (regionSample r a b) u).regionTemp r = u.regionTemp r := by
    refine regionTemp_congr ?_
    rw [pair]
    exact same
  rw [temp, pair, keptMems, held, ← taken, congrArg ThmBlk.inlet thm]
  refine ⟨same, ?_, mems, inlet⟩
  rw [taken]
  rfl

theorem memTemp_congr {s t : State} {r : Nat} (same : SameReadings (s.memPairOf r) (t.memPairOf r))
    (regions : t.thm.regions = s.thm.regions) : t.memTemp r = s.memTemp r := by
  have temp : t.regionTemp r = s.regionTemp r := by
    rw [State.regionTemp, State.regionTemp, pairOf_congr regions]
  rw [State.memTemp, State.memTemp, pairReading_congr same, temp]

theorem judged_memSample (r a b : Nat) (s : State) :
    SameReadings (readPair a b (s.memPairOf r)) ((sampleJudged (memSample r a b) (takeReadings (memSample r a b) s)).memPairOf r) ∧
    ((sampleJudged (memSample r a b) (takeReadings (memSample r a b) s)).memPairOf r).held = ((s.memPairOf r).held ||
      decide (1520 < (sampleJudged (memSample r a b) (takeReadings (memSample r a b) s)).memTemp r)) ∧
    (sampleJudged (memSample r a b) (takeReadings (memSample r a b) s)).thm.regions = s.thm.regions := by
  have taken : (takeReadings (memSample r a b) s).memPairOf r = readPair a b (s.memPairOf r) :=
    setMemPair_memPairOf_same r (readPair a b) s
  have regions : (takeReadings (memSample r a b) s).thm.regions = s.thm.regions := rfl
  generalize takeReadings (memSample r a b) s = u at taken regions ⊢
  obtain ⟨same, held⟩ := judgeMem_same r u
  have pair : (sampleJudged (memSample r a b) u).memPairOf r = (judgeMem r u).memPairOf r :=
    memPairOf_congr (sampleJudged_mems _ _) r
  have keptRegions : (sampleJudged (memSample r a b) u).thm.regions = u.thm.regions := sampleJudged_regions _ _
  have temp : (sampleJudged (memSample r a b) u).memTemp r = u.memTemp r := by
    refine memTemp_congr ?_ keptRegions
    rw [pair]
    exact same
  rw [temp, pair, keptRegions, held, ← taken]
  refine ⟨same, ?_, regions⟩
  rw [taken]
  rfl

/-! ## A sample of a sill and the inlet -/

theorem sillTemp_congr {s t : State} {i : Nat} (readings : (nth {} t.thm.sills i).readings = (nth {} s.thm.sills i).readings)
    (failed : (nth {} t.thm.sills i).failed = (nth {} s.thm.sills i).failed) (regions : t.thm.regions = s.thm.regions) :
    t.sillTemp i = s.sillTemp i := by
  have temp (r : Nat) : t.regionTemp r = s.regionTemp r := by
    rw [State.regionTemp, State.regionTemp, pairOf_congr regions]
  have valid : validSill (nth {} t.thm.sills i) = validSill (nth {} s.thm.sills i) := by
    rw [validSill, validSill, readings, failed]
  simp only [State.sillTemp, valid, temp]

theorem judgeSills_other {l : List Nat} {u : Nat} (s : State) (absent : u ∉ l) :
    nth {} (l.foldl (fun s i => judgeSill i s) s).thm.sills u = nth {} s.thm.sills u :=
  foldl_value (g := fun x => nth {} x.thm.sills u) l s fun i inside x => judgeSill_other (fun eq => absent (by rw [eq]; exact inside)) x

theorem onlySills_foldl (l : List Nat) (s : State) : OnlySills s (l.foldl (fun s i => judgeSill i s) s) := by
  induction l generalizing s with
  | nil => exact ⟨rfl, rfl, _, _, _, rfl⟩
  | cons i l ih => exact (onlySills_judgeSill i s).trans (ih _)

theorem OnlySills.regions {s t : State} (only : OnlySills s t) : t.thm.regions = s.thm.regions := by
  obtain ⟨-, -, _, _, _, thm⟩ := only
  rw [thm]

theorem length_judgeSills (l : List Nat) (s : State) : (l.foldl (fun s i => judgeSill i s) s).thm.sills.length = s.thm.sills.length :=
  foldl_value (g := fun x => x.thm.sills.length) l s fun i _ x => by
    rw [judgeSill]
    split
    · rw [holdBegins_sills, sills_setSill, length_setNth]
    · rw [sills_setSill, length_setNth]

theorem judgeSills_same {l m : List Nat} {u : Nat} {s : State} (inside : u < s.thm.sills.length) (before : u ∉ l) (after : u ∉ m) :
    (nth {} ((l ++ u :: m).foldl (fun s i => judgeSill i s) s).thm.sills u).readings = (nth {} s.thm.sills u).readings ∧
    (nth {} ((l ++ u :: m).foldl (fun s i => judgeSill i s) s).thm.sills u).held = ((nth {} s.thm.sills u).held ||
      decide (1648 < ((l ++ u :: m).foldl (fun s i => judgeSill i s) s).sillTemp u)) := by
  have regions := (onlySills_foldl (l ++ u :: m) s).regions
  have regions1 := (onlySills_foldl l s).regions
  rw [List.foldl_append, List.foldl_cons] at regions ⊢
  have first := judgeSills_other s before
  have length := length_judgeSills l s
  generalize l.foldl (fun s i => judgeSill i s) s = x at regions regions1 first length ⊢
  obtain ⟨readings, failed, held⟩ := judgeSill_same (s := x) (i := u) (by rw [length]; exact inside)
  have last := judgeSills_other (judgeSill u x) after
  have temp : (m.foldl (fun s i => judgeSill i s) (judgeSill u x)).sillTemp u = x.sillTemp u :=
    sillTemp_congr (by rw [last, readings]) (by rw [last, failed]) (regions.trans regions1.symm)
  rw [temp, last, readings, held, first]
  exact ⟨rfl, rfl⟩

theorem judgeFour_same {u : Nat} {s : State} (unit : u < 4) (inside : u < s.thm.sills.length) :
    (nth {} ((List.range 4).foldl (fun s i => judgeSill i s) s).thm.sills u).readings = (nth {} s.thm.sills u).readings ∧
    (nth {} ((List.range 4).foldl (fun s i => judgeSill i s) s).thm.sills u).held = ((nth {} s.thm.sills u).held ||
      decide (1648 < ((List.range 4).foldl (fun s i => judgeSill i s) s).sillTemp u)) := by
  match u, unit with
  | 0, _ => exact judgeSills_same (l := []) (m := [1, 2, 3]) inside (by decide) (by decide)
  | 1, _ => exact judgeSills_same (l := [0]) (m := [2, 3]) inside (by decide) (by decide)
  | 2, _ => exact judgeSills_same (l := [0, 1]) (m := [3]) inside (by decide) (by decide)
  | 3, _ => exact judgeSills_same (l := [0, 1, 2]) (m := []) inside (by decide) (by decide)

theorem judged_sillSample {u k v x : Nat} {s : State} (unit : u < 4) (sensor : k < 16) (sills : s.thm.sills.length = 4)
    (sixteen : (nth {} s.thm.sills u).readings.length = 16) :
    nth 0 (nth {} (sampleJudged (sillSample u k v x) (takeReadings (sillSample u k v x) s)).thm.sills u).readings k =
      (if bit (nth {} s.thm.sills u).failed k then 0 else v) ∧
    (nth {} (sampleJudged (sillSample u k v x) (takeReadings (sillSample u k v x) s)).thm.sills u).held =
      ((nth {} s.thm.sills u).held ||
        decide (1648 < (sampleJudged (sillSample u k v x) (takeReadings (sillSample u k v x) s)).sillTemp u)) ∧
    (sampleJudged (sillSample u k v x) (takeReadings (sillSample u k v x) s)).thm.inlet = (if s.thm.inletFailed then 0 else x) ∧
    (sampleJudged (sillSample u k v x) (takeReadings (sillSample u k v x) s)).thm.regions = s.thm.regions ∧
    (sampleJudged (sillSample u k v x) (takeReadings (sillSample u k v x) s)).thm.mems = s.thm.mems := by
  have inside : u < s.thm.sills.length := by omega
  have taken : (takeReadings (sillSample u k v x) s).thm.sills = setNth s.thm.sills u (readSill k v (nth {} s.thm.sills u)) := rfl
  have inlet : (takeReadings (sillSample u k v x) s).thm.inlet = (if s.thm.inletFailed then 0 else x) := rfl
  have regions : (takeReadings (sillSample u k v x) s).thm.regions = s.thm.regions := rfl
  have mems : (takeReadings (sillSample u k v x) s).thm.mems = s.thm.mems := rfl
  generalize takeReadings (sillSample u k v x) s = t at taken inlet regions mems ⊢
  have at_ : nth {} t.thm.sills u = readSill k v (nth {} s.thm.sills u) := by rw [taken, nth_setNth_same _ _ inside]
  obtain ⟨readings, held⟩ := judgeFour_same (s := t) unit (by rw [taken, length_setNth]; exact inside)
  obtain ⟨-, -, _, _, _, thm⟩ := onlySills_judgeSills t
  have same : sampleJudged (sillSample u k v x) t = (List.range 4).foldl (fun s i => judgeSill i s) t := rfl
  rw [same, readings, held, at_, thm]
  exact ⟨nth_setNth_same _ _ (by omega), rfl, inlet, regions, mems⟩

/-! ## The cooling estimate (R356) -/

theorem judgeCooling_blocks (s : State) : ∃ warning warnedAt,
    (judgeCooling s).thm = { s.thm with warning := warning, warnedAt := warnedAt } := by
  rw [judgeCooling]
  split
  · split
    · exact ⟨_, _, raise_thm ..⟩
    · exact ⟨_, _, rfl⟩
  · split
    · exact ⟨_, _, rfl⟩
    · exact ⟨_, _, rfl⟩

theorem captureBase_fields (t : ThmBlk) : (captureBase t).recent = t.recent ∧ (captureBase t).theta = t.theta ∧
    (captureBase t).qualS = t.qualS ∧ (captureBase t).regions = t.regions ∧
    (captureBase t).base = (if t.base = 0 ∧ t.qualS = 600 ∧ t.theta ≠ 0 then t.theta else t.base) := by
  rw [captureBase]
  by_cases stands : t.base = 0 ∧ t.qualS = 600 ∧ t.theta ≠ 0
  · obtain ⟨none_, count, some_⟩ := stands
    rw [if_pos (by simp [none_, count, some_]), if_pos ⟨none_, count, some_⟩]
    exact ⟨rfl, rfl, rfl, rfl, rfl⟩
  · rw [if_neg (by simpa [and_assoc] using stands), if_neg stands]
    exact ⟨rfl, rfl, rfl, rfl, rfl⟩

theorem coolingEstimate_keeps (s : State) : (doCoolingEstimate s).mem = s.mem ∧ (doCoolingEstimate s).cores = s.cores ∧
    (doCoolingEstimate s).frm = s.frm ∧ (doCoolingEstimate s).pwr = s.pwr ∧ (doCoolingEstimate s).clk = s.clk := by
  have free : false = false := rfl
  have kept : Keeps (Untouched.allBut [.reports, .thm]) s (doCoolingEstimate s) := doCoolingEstimate_keeps s (Keeps.refl s)
  exact ⟨mem_of_keeps kept rfl rfl, cores_of_keeps kept rfl rfl, kept.frm rfl, kept.pwr rfl, kept.clk rfl⟩

/-- The state with the second's average noted. -/
def powerNoted (s : State) : State := { s with thm := { s.thm with powers := (s.pwr.avg1 :: s.thm.powers).take 60 } }

/-- The temperatures after a qualifying second, before the warning is judged. -/
def qualified (s : State) : ThmBlk :=
  captureBase { (powerNoted s).thm with
    recent := (coolResistance s.topTemp s.thm.inlet s.pwr.avg1 :: s.thm.recent).take 600
    theta := clampTo 16 (meanOf ((coolResistance s.topTemp s.thm.inlet s.pwr.avg1 :: s.thm.recent).take 600))
    qualS := satAdd 20 s.thm.qualS 1 }

section Estimate
variable {s : State} (powered : s.powered = true) (started : s.thm.started = true) (inlet : s.thm.inletFailed = false)
include powered started inlet

theorem doCoolingEstimate_low
    (low : ¬ (800 ≤ s.pwr.avg1 ∧ steadyPower s.pwr.avg1 ((s.pwr.avg1 :: s.thm.powers).take 60) = true)) :
    doCoolingEstimate s = judgeCooling (powerNoted s) := by
  have unsteady : (decide (800 ≤ s.pwr.avg1) && steadyPower s.pwr.avg1 ((s.pwr.avg1 :: s.thm.powers).take 60)) = false := by
    rw [Bool.eq_false_iff, ne_eq, Bool.and_eq_true, decide_eq_true_eq]
    exact low
  have refuses : ¬ (decide (800 ≤ s.pwr.avg1) && steadyPower s.pwr.avg1 ((s.pwr.avg1 :: s.thm.powers).take 60)) = true := by
    rw [unsteady]
    exact Bool.false_ne_true
  rw [doCoolingEstimate, powered, started, inlet]
  exact if_neg refuses

theorem doCoolingEstimate_steady (high : 800 ≤ s.pwr.avg1)
    (steady : steadyPower s.pwr.avg1 ((s.pwr.avg1 :: s.thm.powers).take 60) = true) : ∃ below,
    doCoolingEstimate s = judgeCooling { s with thm := { qualified s with below := below } } := by
  have takes : (decide (800 ≤ s.pwr.avg1) && steadyPower s.pwr.avg1 ((s.pwr.avg1 :: s.thm.powers).take 60)) = true := by
    rw [decide_eq_true high, steady]
    rfl
  refine ⟨if coolResistance s.topTemp s.thm.inlet s.pwr.avg1 * 100 < (qualified s).base * 110 then (qualified s).below + 1 else 0, ?_⟩
  rw [doCoolingEstimate, powered, started, inlet]
  exact if_pos takes

end Estimate

/-! ## Models (R345) -/

/-- The region's model after an update, from its power. -/
def modelOf (r mw : Nat) (s : State) : Nat := clampTo 12 (s.boundTemp r + mapGet 0 s.fuses.theta r * (mw * s.pwr.k / 4096) / 2000)

theorem updateModel_other {r q : Nat} (ne : q ≠ r) (mw : Nat) (s : State) : (updateModel r mw s).pairOf q = s.pairOf q := by
  unfold updateModel
  extract_lets t s1 p governs sec event s2
  have same : s2.pairOf q = s.pairOf q := by
    rw [setPair_pairOf_other _ _ _ ne, setPair_pairOf_other _ _ _ ne]
  split
  · exact (pairOf_congr (congrArg ThmBlk.regions (raise_thm ..)) q).trans same
  · exact same

theorem updateModel_same (r mw : Nat) (s : State) : ((updateModel r mw s).pairOf r).model = modelOf r mw s ∧
    ((updateModel r mw s).pairOf r).a = (s.pairOf r).a ∧ ((updateModel r mw s).pairOf r).b = (s.pairOf r).b ∧
    ((updateModel r mw s).pairOf r).held = (s.pairOf r).held := by
  unfold updateModel
  extract_lets t s1 p governs sec event s2
  have same : s2.pairOf r = { (s.pairOf r) with model := modelOf r mw s, modelGoverns := governs, modelSec := if event then sec else (s.pairOf r).modelSec } := by
    rw [setPair_pairOf_same, setPair_pairOf_same]
    rfl
  split
  · rw [pairOf_congr (congrArg ThmBlk.regions (raise_thm ..))]
    change (s2.pairOf r).model = _ ∧ (s2.pairOf r).a = _ ∧ (s2.pairOf r).b = _ ∧ (s2.pairOf r).held = _
    rw [same]
    exact ⟨rfl, rfl, rfl, rfl⟩
  · rw [same]
    exact ⟨rfl, rfl, rfl, rfl⟩

theorem onlyPairs_updateModel (r mw : Nat) (s : State) : OnlyPairs s (updateModel r mw s) := by
  unfold updateModel
  extract_lets t s1 p governs sec event s2
  have only : OnlyPairs s s2 := (onlyPairs_setPair r _ s).trans (onlyPairs_setPair r _ s1)
  split
  · refine only.trans ⟨raise_kpr .., raise_frm .., _, _, _, _, raise_thm ..⟩
  · exact only

end Sys2Proof.Proofs
end


section
/-! Temperatures and cooling, assembled (chapter 16). -/
namespace Sys2Proof.Proofs
set_option Elab.async false
open Sys2Proof.Machine Sys2Proof.Laws

/-! ## Suspect sensors (R344) -/

theorem exec_sensorSuspect (m : Bool) {r : Nat} (unit : r < 512) (s : State) :
    exec (.sensorSuspect m r) s = .next (doSensorSuspect m r s) := onUnit_runs unit

/-- The pair with the lower sensor flagged. -/
def flagLower (p : Pair) : Pair := if p.a < p.b then { p with stateA := 1 } else { p with stateB := 1 }

/-- The pair with sensor `k` flagged. -/
def flagAt (k : Nat) (p : Pair) : Pair := if k = 0 then { p with stateA := 1 } else { p with stateB := 1 }

theorem flagAt_lower (p : Pair) : flagAt (if p.a < p.b then 0 else 1) p = flagLower p := by
  unfold flagLower flagAt
  by_cases lower : p.a < p.b
  · rw [if_pos lower, if_pos lower]
    rfl
  · rw [if_neg lower, if_neg lower]
    rfl

theorem lower_state (p : Pair) : (if (if p.a < p.b then 0 else 1) = 0 then p.stateA else p.stateB) =
    if p.a < p.b then p.stateA else p.stateB := by
  by_cases lower : p.a < p.b
  · rw [if_pos lower, if_pos lower, if_pos rfl]
  · rw [if_neg lower, if_neg lower, if_neg (by decide)]

/-- One more sensor is flagged. -/
def countFlag (s : State) : State := { s with thm := { s.thm with flagged := satAdd 16 s.thm.flagged 1 } }

section Suspect
variable {r : Nat} {s : State} (powered : s.powered = true) (started : s.thm.started = true)
include powered started

theorem doSensorSuspect_region (held : heldFor (s.pairOf r).differSince s.frm.tc (100 * tcMs) = true)
    (good : (if (s.pairOf r).a < (s.pairOf r).b then (s.pairOf r).stateA else (s.pairOf r).stateB) = 0) :
    doSensorSuspect false r s =
      raise 0x0060 0 r [if (s.pairOf r).a < (s.pairOf r).b then 0 else 1, 1] (countFlag (setPair r flagLower s)) := by
  rw [← lower_state] at good
  have goes : (s.powered && s.thm.started && heldFor (s.pairOf r).differSince s.frm.tc (100 * tcMs) &&
      decide ((if (if (s.pairOf r).a < (s.pairOf r).b then 0 else 1) = 0 then (s.pairOf r).stateA else (s.pairOf r).stateB) = 0)) = true := by
    rw [powered, started, held, decide_eq_true good]
    rfl
  rw [← setPair_congr (flagAt_lower (s.pairOf r))]
  exact if_pos goes

theorem doSensorSuspect_mem (held : heldFor (s.memPairOf r).differSince s.frm.tc (100 * tcMs) = true)
    (good : (if (s.memPairOf r).a < (s.memPairOf r).b then (s.memPairOf r).stateA else (s.memPairOf r).stateB) = 0) :
    doSensorSuspect true r s = raise 0x0060 0 (r + 0x1000) [if (s.memPairOf r).a < (s.memPairOf r).b then 0 else 1, 1]
      (countFlag (setMemPair r flagLower s)) := by
  rw [← lower_state] at good
  have goes : (s.powered && s.thm.started && heldFor (s.memPairOf r).differSince s.frm.tc (100 * tcMs) &&
      decide ((if (if (s.memPairOf r).a < (s.memPairOf r).b then 0 else 1) = 0 then (s.memPairOf r).stateA else (s.memPairOf r).stateB) = 0)) = true := by
    rw [powered, started, held, decide_eq_true good]
    rfl
  rw [← setMemPair_congr (flagAt_lower (s.memPairOf r))]
  exact if_pos goes

end Suspect

theorem doSensorSuspect_stays {m : Bool} {r : Nat} {s : State} (idle : s.powered = false ∨ s.thm.started = false ∨
    heldFor (if m then s.memPairOf r else s.pairOf r).differSince s.frm.tc (100 * tcMs) = false ∨
    (s.pairOf r).stateA = 1 ∧ (s.pairOf r).stateB = 1 ∧ (s.memPairOf r).stateA = 1 ∧ (s.memPairOf r).stateB = 1) :
    doSensorSuspect m r s = s := by
  unfold doSensorSuspect
  extract_lets p k flagged f
  have stays : (s.powered && s.thm.started && heldFor p.differSince s.frm.tc (100 * tcMs) && decide (flagged = 0)) = false := by
    rcases idle with h | h | h | ⟨h1, h2, h3, h4⟩
    · rw [h]; rfl
    · rw [h, Bool.and_false]; rfl
    · rw [show heldFor p.differSince s.frm.tc (100 * tcMs) = false from h, Bool.and_false]; rfl
    · have known : flagged = 1 := by
        cases m with
        | false => simp only [flagged, p, Bool.false_eq_true, if_false, h1, h2, ite_self]
        | true => simp only [flagged, p, if_true, h3, h4, ite_self]
      rw [known, Bool.and_comm]
      rfl
  rw [stays, if_neg Bool.false_ne_true]

/-! ## Failed sensors -/

theorem exec_sensorFail {cls u k : Nat} (exists_ : cls < 2 ∧ u < 512 ∧ k < 2 ∨ cls = 2 ∧ u < 4 ∧ k < 16 ∨ cls = 3 ∧ u = 0 ∧ k = 0)
    (s : State) : exec (.sensorFail cls u k) s = .next (doSensorFail cls u k s) := onUnit_runs exists_

theorem sensorFail_keeps (cls u k : Nat) (s : State) : (doSensorFail cls u k s).mem = s.mem ∧
    (doSensorFail cls u k s).cores = s.cores ∧ (doSensorFail cls u k s).frm = s.frm ∧ (doSensorFail cls u k s).pwr = s.pwr ∧
    (doSensorFail cls u k s).clk = s.clk := by
  have free : false = false := rfl
  have kept : Keeps (Untouched.allBut [.reports, .thm]) s (doSensorFail cls u k s) := doSensorFail_keeps cls u k s (Keeps.refl s)
  exact ⟨mem_of_keeps kept rfl rfl, cores_of_keeps kept rfl rfl, kept.frm rfl, kept.pwr rfl, kept.clk rfl⟩

theorem excluded_eq (k : Nat) (p : Pair) : excluded k p = { p with
    stateA := if k = 0 then 2 else p.stateA, a := if k = 0 then 0 else p.a
    stateB := if k = 0 then p.stateB else 2, b := if k = 0 then p.b else 0 } := by
  unfold excluded
  by_cases first : k = 0
  · simp only [first, if_true]
  · simp only [first, if_false]

theorem bit_or_two_pow (v k : Nat) : bit (v ||| 2 ^ k) k = true := by
  rw [bit_eq_testBit, Nat.testBit_or, Nat.testBit_two_pow_self, Bool.or_true]

theorem sensorState_sill {u k : Nat} {s : State} (works : bit (nth {} s.thm.sills u).failed k = false) :
    sensorState 2 u k s ≠ 2 := by
  simp only [sensorState, works, Bool.false_eq_true, if_false]
  split
  · decide
  · decide

theorem nth_setNth_self {l : List Nat} (k : Nat) : nth 0 (setNth l k 0) k = 0 := by
  by_cases inside : k < l.length
  · exact nth_setNth_same 0 _ inside
  · have none_ : (setNth l k 0)[k]? = none := List.getElem?_eq_none (by rw [length_setNth]; omega)
    rw [nth, none_]
    rfl

section Fails
variable {u k : Nat} {s : State} (powered : s.powered = true) (started : s.thm.started = true)
include powered started

theorem failed_region (works : sensorState 0 u k s ≠ 2) : (doSensorFail 0 u k s).pairOf u = excluded k (s.pairOf u) ∧
    (∀ q, q ≠ u → (doSensorFail 0 u k s).pairOf q = s.pairOf q) ∧ (doSensorFail 0 u k s).thm.mems = s.thm.mems ∧
    (doSensorFail 0 u k s).thm.flagged = (if sensorState 0 u k s = 0 then satAdd 16 s.thm.flagged 1 else s.thm.flagged) := by
  have thm := doSensorFail_thm powered started works
  rw [failSensor_region] at thm
  refine ⟨?_, fun q ne => doSensorFail_pairOf_other (fun _ eq => ne eq.symm) s, ?_, ?_⟩
  · rw [pairOf_congr (s := setPair u (excluded k) s) (by rw [thm]), setPair_pairOf_same]
  · rw [thm]
    rfl
  · rw [thm]
    rfl

theorem failed_mem (works : sensorState 1 u k s ≠ 2) : (doSensorFail 1 u k s).memPairOf u = excluded k (s.memPairOf u) ∧
    (∀ q, q ≠ u → (doSensorFail 1 u k s).memPairOf q = s.memPairOf q) ∧ (doSensorFail 1 u k s).thm.regions = s.thm.regions ∧
    (doSensorFail 1 u k s).thm.sills = s.thm.sills ∧
    (doSensorFail 1 u k s).thm.flagged = (if sensorState 1 u k s = 0 then satAdd 16 s.thm.flagged 1 else s.thm.flagged) := by
  have thm := doSensorFail_thm powered started works
  rw [failSensor_mem] at thm
  refine ⟨?_, fun q ne => doSensorFail_memPairOf_other (fun _ eq => ne eq.symm) s, ?_, ?_, ?_⟩
  · rw [memPairOf_congr (s := setMemPair u (excluded k) s) (by rw [thm]), setMemPair_memPairOf_same]
  all_goals
    rw [thm]
    rfl

theorem failed_sill (inside : u < s.thm.sills.length) (works : bit (nth {} s.thm.sills u).failed k = false) :
    bit (nth {} (doSensorFail 2 u k s).thm.sills u).failed k = true ∧
    nth 0 (nth {} (doSensorFail 2 u k s).thm.sills u).readings k = 0 ∧
    (∀ j, j ≠ u → nth {} (doSensorFail 2 u k s).thm.sills j = nth {} s.thm.sills j) ∧
    (doSensorFail 2 u k s).thm.regions = s.thm.regions ∧ (doSensorFail 2 u k s).thm.mems = s.thm.mems := by
  have thm := doSensorFail_thm powered started (sensorState_sill works)
  rw [failSensor_sill] at thm
  have sills : (doSensorFail 2 u k s).thm.sills = setNth s.thm.sills u { (nth {} s.thm.sills u) with
      failed := (nth {} s.thm.sills u).failed ||| 2 ^ k, readings := setNth (nth {} s.thm.sills u).readings k 0 } := by
    rw [thm]
    rfl
  refine ⟨?_, ?_, fun j ne => ?_, ?_, ?_⟩
  · rw [sills, nth_setNth_same _ _ inside]
    exact bit_or_two_pow ..
  · rw [sills, nth_setNth_same _ _ inside]
    exact nth_setNth_self k
  · rw [sills, nth_setNth_other _ _ _ ne]
  all_goals
    rw [thm]
    rfl

theorem failed_inlet (works : s.thm.inletFailed = false) : (doSensorFail 3 0 0 s).thm =
    { s.thm with inletFailed := true, inlet := 0, flagged := satAdd 16 s.thm.flagged 1 } := by
  have state : sensorState 3 0 0 s = 0 := by
    simp only [sensorState, works, Bool.false_eq_true, if_false]
  rw [doSensorFail_thm powered started (by rw [state]; decide), state, if_pos rfl]
  rfl

end Fails

/-! ## Holds -/

theorem exec_holdRelease {cls u : Nat} (exists_ : cls < 2 ∧ u < 512 ∨ cls = 2 ∧ u < 4) (s : State) :
    exec (.holdRelease cls u) s = .next (doHoldRelease cls u s) := onUnit_runs exists_

section Release
variable {u : Nat} {s : State} (powered : s.powered = true) (started : s.thm.started = true)
include powered started

theorem holdRelease_runs : (s.powered && s.thm.started) = true := by rw [powered, started]; rfl

theorem doHoldRelease_region (held : (s.pairOf u).held = true) (cool : heldFor (s.pairOf u).coolSince s.frm.tc tcMs = true) :
    doHoldRelease 0 u s = setPair u (fun p => { p with held := false }) s := by
  have ends : ((s.pairOf u).held && heldFor (s.pairOf u).coolSince s.frm.tc tcMs) = true := by rw [held, cool]; rfl
  exact (if_pos (holdRelease_runs powered started)).trans (if_pos ends)

theorem doHoldRelease_mem (held : (s.memPairOf u).held = true) (cool : heldFor (s.memPairOf u).coolSince s.frm.tc tcMs = true) :
    doHoldRelease 1 u s = setMemPair u (fun p => { p with held := false }) s := by
  have ends : ((s.memPairOf u).held && heldFor (s.memPairOf u).coolSince s.frm.tc tcMs) = true := by rw [held, cool]; rfl
  exact (if_pos (holdRelease_runs powered started)).trans (if_pos ends)

theorem doHoldRelease_sill (held : (nth {} s.thm.sills u).held = true)
    (cool : heldFor (nth {} s.thm.sills u).coolSince s.frm.tc tcMs = true) :
    doHoldRelease 2 u s = setSill u (fun h => { h with held := false }) s := by
  have ends : ((nth {} s.thm.sills u).held && heldFor (nth {} s.thm.sills u).coolSince s.frm.tc tcMs) = true := by
    rw [held, cool]
    rfl
  exact (if_pos (holdRelease_runs powered started)).trans (if_pos ends)

end Release

theorem doHoldRelease_stays {u : Nat} {s : State} (idle : s.powered = false ∨ s.thm.started = false ∨
    heldFor (s.pairOf u).coolSince s.frm.tc tcMs = false ∧ heldFor (s.memPairOf u).coolSince s.frm.tc tcMs = false ∧
    heldFor (nth {} s.thm.sills u).coolSince s.frm.tc tcMs = false) :
    doHoldRelease 0 u s = s ∧ doHoldRelease 1 u s = s ∧ doHoldRelease 2 u s = s := by
  by_cases runs : (s.powered && s.thm.started) = true
  · have warm : heldFor (s.pairOf u).coolSince s.frm.tc tcMs = false ∧ heldFor (s.memPairOf u).coolSince s.frm.tc tcMs = false ∧
        heldFor (nth {} s.thm.sills u).coolSince s.frm.tc tcMs = false := by
      rw [Bool.and_eq_true] at runs
      rcases idle with h | h | h
      · exact absurd runs.1 (by rw [h]; decide)
      · exact absurd runs.2 (by rw [h]; decide)
      · exact h
    obtain ⟨region, mem, sill⟩ := warm
    refine ⟨(if_pos runs).trans (if_neg ?_), (if_pos runs).trans (if_neg ?_), (if_pos runs).trans (if_neg ?_)⟩
    · rw [region, Bool.and_false]
      exact Bool.false_ne_true
    · rw [mem, Bool.and_false]
      exact Bool.false_ne_true
    · rw [sill, Bool.and_false]
      exact Bool.false_ne_true
  · exact ⟨if_neg runs, if_neg runs, if_neg runs⟩

/-! ## Models -/

theorem exec_modelUpdate (l : List (Nat × Nat)) (s : State) :
    exec (.modelUpdate l) s = .next (doModelUpdate (l.filter (fun e => decide (e.1 < 512))) s) := rfl

theorem doModelUpdate_runs (l : List (Nat × Nat)) {s : State} (powered : s.powered = true) (started : s.thm.started = true) :
    doModelUpdate l s = l.foldl (fun s e => judgeRegion e.1 s) (l.foldl (fun s e => updateModel e.1 e.2 s) s) := by
  rw [doModelUpdate, powered, started]
  rfl

theorem modelUpdate_keeps (l : List (Nat × Nat)) (s : State) : (doModelUpdate l s).mem = s.mem ∧
    (doModelUpdate l s).cores = s.cores ∧ (doModelUpdate l s).frm = s.frm ∧ (doModelUpdate l s).pwr = s.pwr ∧
    (doModelUpdate l s).clk = s.clk := by
  have free : false = false := rfl
  have kept : Keeps (Untouched.allBut [.reports, .thm]) s (doModelUpdate l s) := doModelUpdate_keeps l s (Keeps.refl s)
  exact ⟨mem_of_keeps kept rfl rfl, cores_of_keeps kept rfl rfl, kept.frm rfl, kept.pwr rfl, kept.clk rfl⟩

theorem onlyPairs_foldl {α : Type} {f : State → α → State} (each : ∀ x e, OnlyPairs x (f x e)) (l : List α) (s : State) :
    OnlyPairs s (l.foldl f s) := by
  induction l generalizing s with
  | nil => exact ⟨rfl, rfl, _, _, _, _, rfl⟩
  | cons e l ih => exact (each s e).trans (ih _)

theorem OnlyPairs.sills_inlet {s t : State} (only : OnlyPairs s t) : t.thm.sills = s.thm.sills ∧ t.thm.inlet = s.thm.inlet := by
  obtain ⟨-, -, _, _, _, _, thm⟩ := only
  rw [thm]
  exact ⟨rfl, rfl⟩

theorem models_blocks (l : List (Nat × Nat)) {s : State} (powered : s.powered = true) (started : s.thm.started = true) :
    (∀ q, (∀ e ∈ l, e.1 ≠ q) → (doModelUpdate l s).pairOf q = s.pairOf q) ∧ OnlyPairs s (doModelUpdate l s) := by
  rw [doModelUpdate_runs l powered started]
  refine ⟨fun q unnamed => ?_, ?_⟩
  · have judged : ∀ e ∈ l, ∀ x, (judgeRegion e.1 x).pairOf q = x.pairOf q :=
      fun e named x => judgeRegion_other (fun eq => unnamed e named eq.symm) x
    have updated : ∀ e ∈ l, ∀ x, (updateModel e.1 e.2 x).pairOf q = x.pairOf q :=
      fun e named x => updateModel_other (fun eq => unnamed e named eq.symm) e.2 x
    exact (foldl_value (g := fun x : State => x.pairOf q) (f := fun (s : State) (e : Nat × Nat) => judgeRegion e.1 s) l _ judged).trans
      (foldl_value (g := fun x : State => x.pairOf q) (f := fun (s : State) (e : Nat × Nat) => updateModel e.1 e.2 s) l s updated)
  · exact (onlyPairs_foldl (f := fun (s : State) (e : Nat × Nat) => updateModel e.1 e.2 s) (fun x e => onlyPairs_updateModel e.1 e.2 x) l s).trans
      (onlyPairs_foldl (f := fun (s : State) (e : Nat × Nat) => judgeRegion e.1 s) (fun x e => onlyPairs_judgeRegion e.1 x) l _)

theorem model_one (r mw : Nat) {s : State} (powered : s.powered = true) (started : s.thm.started = true) :
    ((doModelUpdate [(r, mw)] s).pairOf r).model = modelOf r mw s ∧
    ((doModelUpdate [(r, mw)] s).pairOf r).a = (s.pairOf r).a ∧ ((doModelUpdate [(r, mw)] s).pairOf r).b = (s.pairOf r).b ∧
    ((doModelUpdate [(r, mw)] s).pairOf r).held =
      ((s.pairOf r).held || decide (1648 < (doModelUpdate [(r, mw)] s).regionTemp r)) := by
  have runs : doModelUpdate [(r, mw)] s = judgeRegion r (updateModel r mw s) := doModelUpdate_runs [(r, mw)] powered started
  obtain ⟨model, a, b, held⟩ := updateModel_same r mw s
  obtain ⟨same, heldNow⟩ := judgeRegion_same r (updateModel r mw s)
  have temp := regionTemp_congr same
  obtain ⟨a2, b2, -, -, model2⟩ := same
  rw [runs, temp, model2, a2, b2, heldNow, model, a, b, held]
  exact ⟨rfl, rfl, rfl, rfl⟩

/-! ## The statement -/

theorem exec_coolingEstimate (s : State) : exec .coolingEstimate s = .next (doCoolingEstimate s) := rfl

theorem doTempSample_idle {x : TempReadings} {s : State} (idle : s.powered = false ∨ s.thm.started = false) :
    doTempSample x s = if s.kpr.railsUp && !s.thm.inletFailed then
      { s with thm := { s.thm with inlet := if 2400 < x.inlet.getD 0 then s.thm.inlet else x.inlet.getD s.thm.inlet } } else s := by
  have down : ¬ (s.powered && s.thm.started) = true := by
    rcases idle with h | h <;> simp [h]
  rw [doTempSample, if_neg down]

theorem narrow_inlet (x : TempReadings) : x.narrow.inlet.getD 0 = x.inlet.getD 0 % 4096 ∧
    x.narrow.inlet = x.inlet.map (fun v => v % 4096) := by
  constructor
  · change (x.inlet.map (fun v => v % 2 ^ 12)).getD 0 = _
    cases x.inlet with
    | none => rfl
    | some v => rfl
  · rfl

/-- Settles O52: a sample, a failed sensor and a model change the units named, which their judgement leaves reading as before. -/
theorem temperaturesAndCooling : Obligations.TemperaturesAndCooling := by
  unfold Obligations.TemperaturesAndCooling
  refine ⟨?all, ?region, ?mem, ?sill, ?inlet, ?nothing, ?hot, ?suspect, ?suspectMem, ?unsuspected, ?failRegion, ?failMem,
    ?failSill, ?failInlet, ?failNot, ?release, ?releaseMem, ?releaseSill, ?notReleased, ?model, ?models, ?noModel, ?unsteady,
    ?steady, ?noEstimate⟩
  case all =>
    intro s x powered started
    obtain ⟨ready, pairs, mems⟩ := sample_all x.narrow powered started
    exact ⟨_, exec_tempSample x s, ready, fun q unnamed => pairs q (narrow_unnamed.1 unnamed),
      fun q unnamed => mems q (narrow_unnamed.2 unnamed), tempSample_keeps x.narrow s⟩
  case region =>
    intro s r a b powered started unit ha hb
    have runs : doTempSample (regionSample r a b) s =
        sampleJudged (regionSample r a b) (takeReadings (regionSample r a b) s) := by
      rw [doTempSample_runs _ powered started, failReadings_regionSample, failHot_cool _ ha, failHot_cool _ hb]
    obtain ⟨same, held, mems, inlet⟩ := judged_regionSample r a b s
    refine ⟨_, (exec_tempSample (regionSample r a b) s).trans (congrArg _ ?_), same.1, same.2.1, held, mems, inlet⟩
    rw [narrow_regionSample unit (by omega) (by omega), runs]
  case mem =>
    intro s r a b powered started unit ha hb
    have runs : doTempSample (memSample r a b) s = sampleJudged (memSample r a b) (takeReadings (memSample r a b) s) := by
      rw [doTempSample_runs _ powered started, failReadings_memSample, failHot_cool _ ha, failHot_cool _ hb]
    obtain ⟨same, held, regions⟩ := judged_memSample r a b s
    refine ⟨_, (exec_tempSample (memSample r a b) s).trans (congrArg _ ?_), same.1, same.2.1, held, regions⟩
    rw [narrow_memSample unit (by omega) (by omega), runs]
  case sill =>
    intro s u k v x powered started unit sensor hv hx sills sixteen
    have runs : doTempSample (sillSample u k v x) s =
        sampleJudged (sillSample u k v x) (takeReadings (sillSample u k v x) s) := by
      rw [doTempSample_runs _ powered started, failReadings_sillSample, failHot_cool _ hv, failHot_cool _ hx]
    refine ⟨_, (exec_tempSample (sillSample u k v x) s).trans (congrArg _ ?_), judged_sillSample unit sensor sills sixteen⟩
    rw [narrow_sillSample unit sensor (by omega) (by omega), runs]
  case inlet =>
    intro s x idle rails works
    have takes : (s.kpr.railsUp && !s.thm.inletFailed) = true := by rw [rails, works]; rfl
    refine (exec_tempSample x s).trans (congrArg _ ((doTempSample_idle idle).trans ((if_pos takes).trans ?_)))
    rw [(narrow_inlet x).1, (narrow_inlet x).2]
  case nothing =>
    intro s x idle off
    have stays : ¬ (s.kpr.railsUp && !s.thm.inletFailed) = true := by
      rcases off with h | h <;> simp [h]
    exact (exec_tempSample x s).trans (congrArg _ ((doTempSample_idle idle).trans (if_neg stays)))
  case hot =>
    intro s r a b powered started unit hot small hb works
    have fails : failHot 0 r 0 a s = doSensorFail 0 r 0 s := if_pos hot
    have runs : doTempSample (regionSample r a b) s =
        sampleJudged (regionSample r a b) (takeReadings (regionSample r a b) (doSensorFail 0 r 0 s)) := by
      rw [doTempSample_runs _ powered started, failReadings_regionSample, failHot_cool _ hb, fails]
    obtain ⟨⟨ra, rb, rstate, -⟩, -⟩ := judged_regionSample r a b (doSensorFail 0 r 0 s)
    obtain ⟨pair, -⟩ := failed_region (k := 0) powered started works
    rw [pair] at ra rb rstate
    refine ⟨_, (exec_tempSample (regionSample r a b) s).trans (congrArg _ ?_), rstate, ra, rb⟩
    rw [narrow_regionSample unit small (by omega), runs]
  case suspect =>
    intro s r powered started unit held good
    exact (exec_sensorSuspect false unit s).trans (congrArg _ (doSensorSuspect_region powered started held good))
  case suspectMem =>
    intro s r powered started unit held good
    exact (exec_sensorSuspect true unit s).trans (congrArg _ (doSensorSuspect_mem powered started held good))
  case unsuspected =>
    intro s m r unit idle
    exact (exec_sensorSuspect m unit s).trans (congrArg _ (doSensorSuspect_stays idle))
  case failRegion =>
    intro s u k powered started unit sensor works
    obtain ⟨pair, others, mems, flagged⟩ := failed_region powered started works
    exact ⟨_, exec_sensorFail (.inl ⟨by decide, unit, sensor⟩) s, pair.trans (excluded_eq ..), others, mems, flagged,
      sensorFail_keeps 0 u k s⟩
  case failMem =>
    intro s u k powered started unit sensor works
    obtain ⟨pair, others, regions, sills, flagged⟩ := failed_mem powered started works
    exact ⟨_, exec_sensorFail (.inl ⟨by decide, unit, sensor⟩) s, pair.trans (excluded_eq ..), others, regions, sills, flagged,
      sensorFail_keeps 1 u k s⟩
  case failSill =>
    intro s u k powered started unit sensor sills works
    obtain ⟨failed, reading, others, regions, mems⟩ := failed_sill powered started (by omega) works
    exact ⟨_, exec_sensorFail (.inr (.inl ⟨rfl, unit, sensor⟩)) s, failed, reading, others, regions, mems, sensorFail_keeps 2 u k s⟩
  case failInlet =>
    intro s powered started works
    exact ⟨_, exec_sensorFail (.inr (.inr ⟨rfl, rfl, rfl⟩)) s, failed_inlet powered started works, sensorFail_keeps 3 0 0 s⟩
  case failNot =>
    intro s c u k exists_ idle
    exact (exec_sensorFail exists_ s).trans (congrArg _ (doSensorFail_stays idle))
  case release =>
    intro s u powered started unit held cool
    exact (exec_holdRelease (.inl ⟨by decide, unit⟩) s).trans (congrArg _ (doHoldRelease_region powered started held cool))
  case releaseMem =>
    intro s u powered started unit held cool
    exact (exec_holdRelease (.inl ⟨by decide, unit⟩) s).trans (congrArg _ (doHoldRelease_mem powered started held cool))
  case releaseSill =>
    intro s u powered started unit held cool
    exact (exec_holdRelease (.inr ⟨rfl, unit⟩) s).trans (congrArg _ (doHoldRelease_sill powered started held cool))
  case notReleased =>
    intro s u unit idle
    obtain ⟨region, mem, sill⟩ := doHoldRelease_stays idle
    exact ⟨(exec_holdRelease (.inl ⟨by decide, by omega⟩) s).trans (congrArg _ region),
      (exec_holdRelease (.inl ⟨by decide, by omega⟩) s).trans (congrArg _ mem),
      (exec_holdRelease (.inr ⟨rfl, unit⟩) s).trans (congrArg _ sill)⟩
  case model =>
    intro s r mw powered started unit
    refine ⟨_, (exec_modelUpdate [(r, mw)] s).trans (congrArg _ ?_), model_one r mw powered started⟩
    have named : [(r, mw)].filter (fun e => decide (e.1 < 512)) = [(r, mw)] := List.filter_cons_of_pos (decide_eq_true unit)
    rw [named]
  case models =>
    intro s l powered started
    obtain ⟨others, only⟩ := models_blocks (l.filter (fun e => decide (e.1 < 512))) powered started
    exact ⟨_, exec_modelUpdate l s, fun q unnamed => others q fun e named => unnamed e (List.mem_filter.1 named).1,
      only.mems, only.sills_inlet.1, only.sills_inlet.2, modelUpdate_keeps _ s⟩
  case noModel =>
    intro s l idle
    have down : ¬ (s.powered && s.thm.started) = true := by
      rcases idle with h | h <;> simp [h]
    exact (exec_modelUpdate l s).trans (congrArg _ (if_neg down))
  case unsteady =>
    intro s powered started inlet low
    have kept := coolingEstimate_keeps s
    have runs := doCoolingEstimate_low powered started inlet low
    obtain ⟨_, _, thm⟩ := judgeCooling_blocks (powerNoted s)
    rw [← runs] at thm
    refine ⟨_, exec_coolingEstimate s, ?_, ?_, ?_, ?_, ?_, ?_, ?_, kept⟩
    all_goals
      rw [thm]
      rfl
  case steady =>
    intro s powered started inlet high steady
    have kept := coolingEstimate_keeps s
    obtain ⟨below, runs⟩ := doCoolingEstimate_steady powered started inlet high steady
    obtain ⟨_, _, thm⟩ := judgeCooling_blocks { s with thm := { qualified s with below := below } }
    rw [← runs] at thm
    obtain ⟨recent, theta, qualS, regions, base⟩ := captureBase_fields { (powerNoted s).thm with
      recent := (coolResistance s.topTemp s.thm.inlet s.pwr.avg1 :: s.thm.recent).take 600
      theta := clampTo 16 (meanOf ((coolResistance s.topTemp s.thm.inlet s.pwr.avg1 :: s.thm.recent).take 600))
      qualS := satAdd 20 s.thm.qualS 1 }
    have recent1 := (congrArg ThmBlk.recent thm).trans recent
    have theta1 := (congrArg ThmBlk.theta thm).trans theta
    have qualS1 := (congrArg ThmBlk.qualS thm).trans qualS
    have base1 := (congrArg ThmBlk.base thm).trans base
    refine ⟨_, exec_coolingEstimate s, recent1, ?_, qualS1, ?_, (congrArg ThmBlk.regions thm).trans regions, kept⟩
    · rw [theta1, recent1]
    · rw [base1, theta1, qualS1]
      rfl
  case noEstimate =>
    intro s idle
    have down : ¬ (s.powered && s.thm.started && !s.thm.inletFailed) = true := by
      rcases idle with h | h | h <;> simp [h]
    exact (exec_coolingEstimate s).trans (congrArg _ (if_neg down))

end Sys2Proof.Proofs
end


section
/-! The event ring, its registers and the reports (chapter 19). -/
namespace Sys2Proof.Proofs
set_option Elab.async false
open Sys2Proof.Machine Sys2Proof.Laws

/-! ## `EVT.CTRL` -/

/-- The fields of `EVT.CTRL` in a word without enable. -/
def evtWord (vec n us sev : Nat) : Nat := vec * 2 ^ 40 + n * 2 ^ 32 + us * 2 ^ 16 + sev

section Word
variable {vec n us sev : Nat} (hvec : vec < 256) (hn : n < 256) (hus : us < 65536) (hsev : sev < 4)
include hvec hn hus hsev

theorem evtWord_small : evtWord vec n us sev < 2 ^ 63 := by
  rw [evtWord]
  omega

theorem evtWord_writable : evtWord vec n us sev &&& (2 ^ 63 + (2 ^ 48 - 2 ^ 16) + 3) = evtWord vec n us sev ∧
    (evtWord vec n us sev + 2 ^ 63) &&& (2 ^ 63 + (2 ^ 48 - 2 ^ 16) + 3) = evtWord vec n us sev + 2 ^ 63 := by
  have parts : evtWord vec n us sev = 2 ^ 16 * (2 ^ 24 * vec + 2 ^ 16 * n + us) + 2 ^ 0 * sev := by
    rw [evtWord]
    omega
  have low : (2 ^ 16 * (2 ^ 24 * vec + 2 ^ 16 * n + us) + 2 ^ 0 * sev) &&& (2 ^ 63 + (2 ^ 48 - 2 ^ 16) + 3) =
      2 ^ 16 * (2 ^ 24 * vec + 2 ^ 16 * n + us) + 2 ^ 0 * sev :=
    and_eq_self_of_parts (by omega) (shifted_and_eq_self (m := 2) hsev (by decide))
      (shifted_and_eq_self (m := 32) (by omega) (by decide))
  have set : evtWord vec n us sev + 2 ^ 63 = 2 ^ 63 * 1 + (2 ^ 16 * (2 ^ 24 * vec + 2 ^ 16 * n + us) + 2 ^ 0 * sev) := by
    rw [parts]
    omega
  rw [set, parts]
  exact ⟨low, and_eq_self_of_parts (by omega) low (by decide)⟩

theorem evtWord_fields : field (evtWord vec n us sev) 40 8 = vec ∧ field (evtWord vec n us sev) 32 8 = n ∧
    field (evtWord vec n us sev) 16 16 = us ∧ field (evtWord vec n us sev) 0 2 = sev ∧ bit (evtWord vec n us sev) 63 = false := by
  rw [bit_eq_testBit, Nat.testBit_eq_decide_div_mod_eq, decide_eq_false_iff_not]
  simp only [field, evtWord]
  omega

theorem evtWord_enable_fields : field (evtWord vec n us sev + 2 ^ 63) 40 8 = vec ∧ field (evtWord vec n us sev + 2 ^ 63) 32 8 = n ∧
    field (evtWord vec n us sev + 2 ^ 63) 16 16 = us ∧ field (evtWord vec n us sev + 2 ^ 63) 0 2 = sev ∧
    bit (evtWord vec n us sev + 2 ^ 63) 63 = true := by
  rw [bit_eq_testBit, Nat.testBit_eq_decide_div_mod_eq, decide_eq_true_eq]
  simp only [field, evtWord]
  omega

theorem exec_evtEnable (s : State) :
    exec (.evtEnable (evtWord vec n us sev)) s = .next (writeEvtCtrl (evtWord vec n us sev + 2 ^ 63) s) := by
  have small := evtWord_small hvec hn hus hsev
  have value : evtWord vec n us sev % 2 ^ 64 % 2 ^ 63 = evtWord vec n us sev := by omega
  change Host.Outcome.next (writeEvtCtrl (evtWord vec n us sev % 2 ^ 64 % 2 ^ 63 + 2 ^ 63) s) = _
  rw [value]

theorem exec_evtDisable (s : State) :
    exec (.evtDisable (evtWord vec n us sev)) s = .next (writeEvtCtrl (evtWord vec n us sev) s) := by
  have small := evtWord_small hvec hn hus hsev
  have value : evtWord vec n us sev % 2 ^ 64 % 2 ^ 63 = evtWord vec n us sev := by omega
  change Host.Outcome.next (writeEvtCtrl (evtWord vec n us sev % 2 ^ 64 % 2 ^ 63) s) = _
  rw [value]

end Word

theorem evtStates {s : State} (live : s.kpr.state ≠ .halted) :
    s.inStates [.rom, .staging, .ready, .checking, .running, .suspended] = true := by
  refine inStates_of_mem ?_
  match state : s.kpr.state with
  | .halted => exact absurd state live
  | .rom | .staging | .ready | .checking | .running | .suspended => decide

/-- A value of writable bits runs the body outside HALTED. -/
theorem evtWrite_runs {off v rw ro : Nat} {body : State → State} {s : State} (up : s.hostUp = true) (live : s.kpr.state ≠ .halted)
    (fits : v &&& ((2 ^ 64 - 1) ^^^ (rw ||| ro)) = 0) : evtWrite off v rw ro body s = body s := by
  rw [evtWrite, regWrite_runs up fits, inState_runs up (evtStates live)]

theorem evtWrite_halted {off v rw ro : Nat} {body : State → State} {s : State} (up : s.hostUp = true) (halted : s.kpr.state = .halted)
    (fits : v &&& ((2 ^ 64 - 1) ^^^ (rw ||| ro)) = 0) : evtWrite off v rw ro body s = refuse off v 0x0120 s := by
  have closed : s.inStates [.rom, .staging, .ready, .checking, .running, .suspended] = false := by
    rw [State.inStates, halted]
    decide
  rw [evtWrite, regWrite_runs up fits, inState_refuses up closed]

/-- The ring starts at slot 0. -/
def ringStarted (s : State) : State := { s with evt := { s.evt with tail := 0, head := 0, phase := true } }

/-- `EVT.CTRL` takes its fields. -/
def ctrlTaken (enable : Bool) (vec n us sev : Nat) (s : State) : State :=
  { s with evt := { s.evt with enable := enable, vector := vec, coalN := n, coalUs := us, minSev := sev } }

/-- What a write of `EVT.CTRL` does, by its fields. -/
theorem writeEvtCtrl_fields {v vec n us sev : Nat} {enable : Bool} {s : State} (up : s.hostUp = true) (live : s.kpr.state ≠ .halted)
    (fits : v &&& ((2 ^ 64 - 1) ^^^ ((2 ^ 63 + (2 ^ 48 - 2 ^ 16) + 3) ||| 0)) = 0)
    (fields : field v 40 8 = vec ∧ field v 32 8 = n ∧ field v 16 16 = us ∧ field v 0 2 = sev ∧ bit v 63 = enable) :
    writeEvtCtrl v s = if 64 ≤ vec then refuse 0x100008 v 0x0123 s
      else if (enable && !s.evt.enable) && (decide (s.evt.sizeLog2 < 6) || decide (16 < s.evt.sizeLog2) || decide (s.evt.ringAddr = 0)) then
        refuse 0x100008 v 0x0123 s
      else if enable && !s.evt.enable then flushEvents (ringStarted (ctrlTaken enable vec n us sev s))
      else ctrlTaken enable vec n us sev s := by
  obtain ⟨rfl, rfl, rfl, rfl, rfl⟩ := fields
  rw [writeEvtCtrl, evtWrite_runs up live fits]
  rfl

section Control
variable {vec n us sev : Nat} (hn : n < 256) (hus : us < 65536) (hsev : sev < 4) {s : State} (up : s.hostUp = true)
include hn hus hsev up

theorem exec_evtEnable_runs (hvec : vec < 256) (live : s.kpr.state ≠ .halted) : exec (.evtEnable (evtWord vec n us sev)) s = .next
    (if 64 ≤ vec then refuse 0x100008 (evtWord vec n us sev + 2 ^ 63) 0x0123 s
      else if (true && !s.evt.enable) && (decide (s.evt.sizeLog2 < 6) || decide (16 < s.evt.sizeLog2) || decide (s.evt.ringAddr = 0)) then
        refuse 0x100008 (evtWord vec n us sev + 2 ^ 63) 0x0123 s
      else if true && !s.evt.enable then flushEvents (ringStarted (ctrlTaken true vec n us sev s)) else ctrlTaken true vec n us sev s) := by
  have small := evtWord_small hvec hn hus hsev
  rw [exec_evtEnable hvec hn hus hsev, writeEvtCtrl_fields up live
    (fits_mask (evtWord_writable hvec hn hus hsev).2 (by omega)) (evtWord_enable_fields hvec hn hus hsev)]

theorem exec_evtDisable_runs (hvec : vec < 256) (live : s.kpr.state ≠ .halted) : exec (.evtDisable (evtWord vec n us sev)) s = .next
    (if 64 ≤ vec then refuse 0x100008 (evtWord vec n us sev) 0x0123 s else ctrlTaken false vec n us sev s) := by
  have small := evtWord_small hvec hn hus hsev
  rw [exec_evtDisable hvec hn hus hsev, writeEvtCtrl_fields up live
    (fits_mask (evtWord_writable hvec hn hus hsev).1 (by omega)) (evtWord_fields hvec hn hus hsev)]
  rfl

theorem exec_evtCtrl_halted (hvec : vec < 256) (halted : s.kpr.state = .halted) :
    exec (.evtEnable (evtWord vec n us sev)) s = .next (refuse 0x100008 (evtWord vec n us sev + 2 ^ 63) 0x0120 s) ∧
    exec (.evtDisable (evtWord vec n us sev)) s = .next (refuse 0x100008 (evtWord vec n us sev) 0x0120 s) := by
  have small := evtWord_small hvec hn hus hsev
  constructor
  · rw [exec_evtEnable hvec hn hus hsev, writeEvtCtrl,
      evtWrite_halted up halted (fits_mask (evtWord_writable hvec hn hus hsev).2 (by omega))]
  · rw [exec_evtDisable hvec hn hus hsev, writeEvtCtrl,
      evtWrite_halted up halted (fits_mask (evtWord_writable hvec hn hus hsev).1 (by omega))]

end Control

/-! ## `EVT.HEAD` -/

theorem exec_evtHeadWrite {v : Nat} (small : v < 65536) {s : State} (up : s.hostUp = true) (live : s.kpr.state ≠ .halted) :
    exec (.evtHeadWrite v) s = .next (if s.ringSize ≤ v ||
        (s.evt.tail + s.ringSize - s.evt.head % s.ringSize) % s.ringSize < (v + s.ringSize - s.evt.head % s.ringSize) % s.ringSize
      then refuse 0x100010 v 0x0123 s else flushEvents { s with evt := { s.evt with head := v } }) := by
  have value : v % 2 ^ 64 = v := Nat.mod_eq_of_lt (by omega)
  change Host.Outcome.next (writeEvtHead (v % 2 ^ 64) s) = _
  rw [value, writeEvtHead, evtWrite_runs up live (fits_low (n := 16) 0 small (by decide) (by decide))]

/-! ## An event that is told -/

/-- The record of an event. -/
def recordOf (kind severity reason unit count : Nat) (data : List Nat) (s : State) : EvtRec :=
  { tc := s.frm.tc, frame := s.frm.count % 2 ^ 32, kind := kind, severity := severity, seq := s.evt.nextSeq % 2 ^ 32
    reason := reason, unit := unit % 2 ^ 32, count := count % 2 ^ 32, data := data.map (fun d => d % 2 ^ 32) }

/-- An event takes the next sequence number. -/
def numbered (s : State) : State := { s with evt := { s.evt with nextSeq := s.evt.nextSeq + 1 } }

/-- Only the kinds of the management endpoint go to it. -/
theorem sendPem_other {r : EvtRec} (other : pemKinds.contains r.kind = false) (s : State) : sendPem r s = s := by
  rw [sendPem, other]
  rfl

/-- What becomes of an event after the management endpoint had its turn. -/
def afterPem (kind severity : Nat) (r : EvtRec) (s : State) : State :=
  if severity < s.evt.minSev && decide (severity ≠ 3) then
    { s with evt := { s.evt with filtered := satAdd 8 s.evt.filtered 1 } }
  else
    let sec := s.frm.tc / tcSec
    let n := if s.evt.refusedSec = sec then s.evt.refusedN else 0
    if kind = 2 && decide (1000 ≤ n) then
      { s with evt := { s.evt with limited := satAdd 8 s.evt.limited 1 } }
    else
      flushEvents (holdRecord r (numbered
        (if kind = 2 then { s with evt := { s.evt with refusedSec := sec, refusedN := n + 1 } } else s)))

theorem raise_eq (kind severity unit : Nat) (data : List Nat) (s : State) : raise kind severity unit data s =
    afterPem kind severity (recordOf kind severity 0 unit 0 data s) (sendPem (recordOf kind severity 0 unit 0 data s) s) := rfl

/-- An event that is neither filtered nor a refusal, of a kind the management endpoint does not take, is held and the ring
takes what it can. -/
theorem raise_held {kind severity unit : Nat} {data : List Nat} {s : State} (other : pemKinds.contains kind = false)
    (taken : s.evt.minSev ≤ severity) (noRefusal : kind ≠ 2) : raise kind severity unit data s =
      flushEvents (holdRecord (recordOf kind severity 0 unit 0 data s) (numbered s)) := by
  have passes : (decide (severity < s.evt.minSev) && decide (severity ≠ 3)) = false := by
    rw [decide_eq_false (Nat.not_lt.2 taken), Bool.false_and]
  rw [raise_eq, sendPem_other other, afterPem, passes, if_neg Bool.false_ne_true]
  simp only [noRefusal, decide_false, Bool.false_and, Bool.false_eq_true, if_false]

/-- The only record held. -/
def heldOne (r : EvtRec) (s : State) : State := { s with evt := { s.evt with hold := [r] } }

theorem holdRecord_first {s : State} (none_ : s.evt.hold = []) (r : EvtRec) : holdRecord r s = heldOne r s := by
  rw [holdRecord, none_]
  rfl

/-- Nothing is held back. -/
def heldNone (s : State) : State := { s with evt := { s.evt with hold := [] } }

theorem flushEvents_heldOne (r : EvtRec) (s : State) : flushEvents (heldOne r s) =
    if s.ringOpen then heldNone (writeRecord r (heldOne r s)) else heldOne r s := rfl

theorem signalMsix_records (v : Nat) (s : State) : (signalMsix v s).evt = s.evt ∧ (signalMsix v s).hostMem = s.hostMem := by
  unfold signalMsix
  split
  · exact ⟨rfl, rfl⟩
  · exact ⟨rfl, rfl⟩

/-- The bytes of a record in its slot. -/
def recordBytes (r : EvtRec) (s : State) : State :=
  hostPut (s.evt.ringAddr * 4096 + 64 * s.evt.tail) (evtHead r (b2n s.evt.phase + 2 * b2n s.evt.lostFlag))
    (hostPut (s.evt.ringAddr * 4096 + 64 * s.evt.tail + 16) (evtMid r ++ evtData r) s)

/-- The ring after a record, with the count and time of those not signalled. -/
def ringMoved (n at_ : Nat) (s : State) : State :=
  { s with evt := { s.evt with
    tail := (s.evt.tail + 1) % s.ringSize, phase := if (s.evt.tail + 1) % s.ringSize = 0 then !s.evt.phase else s.evt.phase,
    written := satAdd 32 s.evt.written 1, lostFlag := false, unsignalled := n, unsignalledAt := at_ } }

theorem writeRecord_cases (r : EvtRec) (s : State) : ∃ n at_, writeRecord r s = ringMoved n at_ (recordBytes r s) ∨
    writeRecord r s = signalMsix s.evt.vector (ringMoved n at_ (recordBytes r s)) := by
  by_cases now : (decide (2 ≤ r.severity) || decide (max 1 s.evt.coalN ≤ s.evt.unsignalled + 1)) = true
  · exact ⟨_, _, .inr (if_pos now)⟩
  · exact ⟨_, _, .inl (if_neg now)⟩

theorem ringMoved_fields (n at_ : Nat) (s : State) : (ringMoved n at_ s).hostMem = s.hostMem ∧
    (ringMoved n at_ s).evt.tail = (s.evt.tail + 1) % s.ringSize ∧
    (ringMoved n at_ s).evt.phase = (if (ringMoved n at_ s).evt.tail = 0 then !s.evt.phase else s.evt.phase) ∧
    (ringMoved n at_ s).evt.written = satAdd 32 s.evt.written 1 ∧ (ringMoved n at_ s).evt.head = s.evt.head ∧
    (ringMoved n at_ s).evt.lostFlag = false ∧ (ringMoved n at_ s).evt.nextSeq = s.evt.nextSeq := ⟨rfl, rfl, rfl, rfl, rfl, rfl, rfl⟩

theorem ringSize_congr {s t : State} (same : t.evt = s.evt) : t.ringSize = s.ringSize := by
  rw [State.ringSize, State.ringSize, same]

theorem recordBytes_fields (r : EvtRec) (s : State) : (recordBytes r s).evt = s.evt ∧ (recordBytes r s).ringSize = s.ringSize ∧
    (recordBytes r s).hostMem = memPutBytes (memPutBytes s.hostMem (s.evt.ringAddr * 4096 + 64 * s.evt.tail + 16) (evtMid r ++ evtData r))
      (s.evt.ringAddr * 4096 + 64 * s.evt.tail) (evtHead r (b2n s.evt.phase + 2 * b2n s.evt.lostFlag)) := by
  refine ⟨rfl, ringSize_congr rfl, ?_⟩
  rw [recordBytes, hostPut, hostPut]

/-- A record goes to the slot at the tail, which moves on. -/
theorem writeRecord_fields (r : EvtRec) (s : State) :
    (writeRecord r s).hostMem = memPutBytes (memPutBytes s.hostMem (s.evt.ringAddr * 4096 + 64 * s.evt.tail + 16) (evtMid r ++ evtData r))
      (s.evt.ringAddr * 4096 + 64 * s.evt.tail) (evtHead r (b2n s.evt.phase + 2 * b2n s.evt.lostFlag)) ∧
    (writeRecord r s).evt.tail = (s.evt.tail + 1) % s.ringSize ∧
    (writeRecord r s).evt.phase = (if (writeRecord r s).evt.tail = 0 then !s.evt.phase else s.evt.phase) ∧
    (writeRecord r s).evt.written = satAdd 32 s.evt.written 1 ∧ (writeRecord r s).evt.head = s.evt.head ∧
    (writeRecord r s).evt.lostFlag = false ∧ (writeRecord r s).evt.nextSeq = s.evt.nextSeq := by
  obtain ⟨evt, size, host⟩ := recordBytes_fields r s
  obtain ⟨n, at_, written⟩ := writeRecord_cases r s
  have fields := ringMoved_fields n at_ (recordBytes r s)
  rw [evt, size, host] at fields
  rcases written with plain | signalled
  · rw [plain]
    exact fields
  · rw [signalled, (signalMsix_records ..).1, (signalMsix_records ..).2]
    exact fields

/-! ## LASER_AGED -/

theorem doLaserAged_tells {k w : Nat} {s : State} (powered : s.powered = true) (present : (nth {} s.lnk.carts k).present = true)
    (fresh : bit (nth {} s.lnk.carts k).aged w = false) :
    doLaserAged k w s = raise 0x0041 0 k [w, 4] (setCart k (fun c => { c with aged := c.aged ||| 2 ^ w }) s) := by
  have goes : (!s.powered || !(nth {} s.lnk.carts k).present || bit (nth {} s.lnk.carts k).aged w) = false := by
    rw [powered, present, fresh]
    rfl
  rw [doLaserAged, goes, if_neg Bool.false_ne_true]

theorem ringOpen_numbered (k : Nat) (f : Cart → Cart) (s : State) : (numbered (setCart k f s)).ringOpen = s.ringOpen := rfl

/-- The event of an aged laser, where nothing was held. -/
theorem raise_aged {k w : Nat} (f : Cart → Cart) {s : State} (all : s.evt.minSev = 0) (none_ : s.evt.hold = []) :
    raise 0x0041 0 k [w, 4] (setCart k f s) =
      if s.ringOpen then heldNone (writeRecord (recordOf 0x0041 0 0 k 0 [w, 4] s)
        (heldOne (recordOf 0x0041 0 0 k 0 [w, 4] s) (numbered (setCart k f s))))
      else heldOne (recordOf 0x0041 0 0 k 0 [w, 4] s) (numbered (setCart k f s)) := by
  have record : recordOf 0x0041 0 0 k 0 [w, 4] (setCart k f s) = recordOf 0x0041 0 0 k 0 [w, 4] s := rfl
  have empty : (numbered (setCart k f s)).evt.hold = [] := none_
  rw [raise_held (s := setCart k f s) (by decide) (Nat.le_of_eq all) (by decide), record, holdRecord_first empty, flushEvents_heldOne,
    ringOpen_numbered]

theorem aged_bytes {k w : Nat} (unit : k < 4) (laser : w < 16) (s : State) :
    evtMid (recordOf 0x0041 0 0 k 0 [w, 4] s) ++ evtData (recordOf 0x0041 0 0 k 0 [w, 4] s) =
      leBytes 4 (s.evt.nextSeq % 2 ^ 32) ++ leBytes 2 0 ++ [0, 0] ++ leBytes 4 k ++ leBytes 4 0 ++
        (leBytes 4 w ++ leBytes 4 4 ++ List.replicate 24 0) := by
  have hk : k % 2 ^ 32 = k := Nat.mod_eq_of_lt (by omega)
  have hw : w % 2 ^ 32 = w := Nat.mod_eq_of_lt (by omega)
  have data : evtData (recordOf 0x0041 0 0 k 0 [w, 4] s) = leBytes 4 w ++ leBytes 4 4 ++ List.replicate 24 0 := by
    simp only [evtData, recordOf, List.map_cons, List.map_nil, hw]
    rfl
  rw [data]
  simp only [evtMid, recordOf, hk] <;> rfl

theorem aged_head (k w flags : Nat) (s : State) : evtHead (recordOf 0x0041 0 0 k 0 [w, 4] s) flags =
    leBytes 8 s.frm.tc ++ leBytes 4 (s.frm.count % 2 ^ 32) ++ leBytes 2 0x0041 ++ [0, flags] := rfl

theorem heldOne_setCart_blocks (r : EvtRec) (k : Nat) (f : Cart → Cart) (s : State) :
    (heldOne r (numbered (setCart k f s))).hostMem = s.hostMem ∧
    (heldOne r (numbered (setCart k f s))).evt = { s.evt with nextSeq := s.evt.nextSeq + 1, hold := [r] } := ⟨rfl, rfl⟩

theorem heldNone_blocks (s : State) : (heldNone s).hostMem = s.hostMem ∧ (heldNone s).evt = { s.evt with hold := [] } := ⟨rfl, rfl⟩

/-! ## The coalescing timer and the reports -/

theorem exec_evtCoalesceTimeout (s : State) : exec .evtCoalesceTimeout s = .next (doEvtCoalesceTimeout s) := rfl

theorem exec_reportDone (s : State) : exec .reportDone s = .next (doReportDone s) := rfl

theorem exec_laserAged {k w : Nat} (cart : k < 4) (laser : w < 16) (s : State) :
    exec (.laserAged k w) s = .next (doLaserAged k w s) := onUnit_runs ⟨cart, laser⟩

/-- Settles O53: each register write runs the body of its fields, and an event held alone goes to the ring where it is open. -/
theorem eventsAndReports : Obligations.EventsAndReports := by
  unfold Obligations.EventsAndReports
  refine ⟨?starts, ?startsEmpty, ?badRing, ?badVector, ?halted, ?again, ?disable, ?head, ?badHead, ?signals, ?waits, ?written,
    ?held, ?report, ?noReport⟩
  case starts =>
    intro s vec n us sev up live hvec hn hus hsev off low high addr
    have valid : (true && !s.evt.enable) = true ∧ ((true && !s.evt.enable) &&
        (decide (s.evt.sizeLog2 < 6) || decide (16 < s.evt.sizeLog2) || decide (s.evt.ringAddr = 0))) = false := by
      rw [off, decide_eq_false (Nat.not_lt.2 low), decide_eq_false (Nat.not_lt.2 high), decide_eq_false addr]
      exact ⟨rfl, rfl⟩
    refine (exec_evtEnable_runs hn hus hsev up (by omega) live).trans ?_
    rw [if_neg (by omega), valid.2, valid.1, if_neg Bool.false_ne_true, if_pos rfl]
    rfl
  case startsEmpty =>
    intro s vec n us sev up live hvec hn hus hsev off low high addr none_
    have valid : (true && !s.evt.enable) = true ∧ ((true && !s.evt.enable) &&
        (decide (s.evt.sizeLog2 < 6) || decide (16 < s.evt.sizeLog2) || decide (s.evt.ringAddr = 0))) = false := by
      rw [off, decide_eq_false (Nat.not_lt.2 low), decide_eq_false (Nat.not_lt.2 high), decide_eq_false addr]
      exact ⟨rfl, rfl⟩
    have empty : (ringStarted (ctrlTaken true vec n us sev s)).evt.hold = [] := none_
    refine (exec_evtEnable_runs hn hus hsev up (by omega) live).trans ?_
    rw [if_neg (by omega), valid.2, valid.1, if_neg Bool.false_ne_true, if_pos rfl, flushEvents, empty]
    rfl
  case badRing =>
    intro s vec n us sev up live hvec hn hus hsev off bad
    have invalid : ((true && !s.evt.enable) &&
        (decide (s.evt.sizeLog2 < 6) || decide (16 < s.evt.sizeLog2) || decide (s.evt.ringAddr = 0))) = true := by
      rw [off]
      rcases bad with h | h | h <;> simp [h]
    refine (exec_evtEnable_runs hn hus hsev up (by omega) live).trans ?_
    rw [if_neg (by omega), invalid, if_pos rfl]
    rfl
  case badVector =>
    intro s vec n us sev up live high hvec hn hus hsev
    exact ⟨(exec_evtEnable_runs hn hus hsev up hvec live).trans (congrArg _ (if_pos high)),
      (exec_evtDisable_runs hn hus hsev up hvec live).trans (congrArg _ (if_pos high))⟩
  case halted =>
    intro s vec n us sev up halted hvec hn hus hsev
    exact exec_evtCtrl_halted hn hus hsev up (by omega) halted
  case again =>
    intro s vec n us sev up live hvec hn hus hsev on
    have runs : (true && !s.evt.enable) = false := by rw [on]; rfl
    refine (exec_evtEnable_runs hn hus hsev up (by omega) live).trans ?_
    rw [if_neg (by omega), runs, Bool.false_and, if_neg Bool.false_ne_true, if_neg Bool.false_ne_true]
    rfl
  case disable =>
    intro s vec n us sev up live hvec hn hus hsev
    exact (exec_evtDisable_runs hn hus hsev up (by omega) live).trans (congrArg _ (if_neg (by omega)))
  case head =>
    intro s v up live small inside hinside tinside order
    have ok : (decide (s.ringSize ≤ v) || decide ((s.evt.tail + s.ringSize - s.evt.head % s.ringSize) % s.ringSize <
        (v + s.ringSize - s.evt.head % s.ringSize) % s.ringSize)) = false := by
      rw [Nat.mod_eq_of_lt hinside, decide_eq_false (Nat.not_le.2 inside), decide_eq_false (Nat.not_lt.2 order)]
      rfl
    rw [exec_evtHeadWrite small up live, ok, if_neg Bool.false_ne_true]
  case badHead =>
    intro s v up live small bad
    have refuses : (decide (s.ringSize ≤ v) || decide ((s.evt.tail + s.ringSize - s.evt.head % s.ringSize) % s.ringSize <
        (v + s.ringSize - s.evt.head % s.ringSize) % s.ringSize)) = true := by
      by_cases beyond : s.ringSize ≤ v
      · rw [decide_eq_true beyond, Bool.true_or]
      · obtain ⟨order, past, inside⟩ := bad.resolve_left beyond
        have tail : (s.evt.tail + s.ringSize - s.evt.head) % s.ringSize = s.evt.tail - s.evt.head := by
          rw [show s.evt.tail + s.ringSize - s.evt.head = s.evt.tail - s.evt.head + s.ringSize by omega, Nat.add_mod_right,
            Nat.mod_eq_of_lt (by omega)]
        have new : (v + s.ringSize - s.evt.head) % s.ringSize = v - s.evt.head := by
          rw [show v + s.ringSize - s.evt.head = v - s.evt.head + s.ringSize by omega, Nat.add_mod_right,
            Nat.mod_eq_of_lt (by omega)]
        rw [Nat.mod_eq_of_lt (show s.evt.head < s.ringSize by omega), tail, new, decide_eq_true (show s.evt.tail - s.evt.head < v - s.evt.head by omega),
          Bool.or_true]
    rw [exec_evtHeadWrite small up live, refuses, if_pos rfl]
  case signals =>
    intro s some_ timed due
    have goes : (decide (0 < s.evt.unsignalled) && decide (0 < s.evt.coalUs) &&
        decide (s.evt.unsignalledAt + s.evt.coalUs * tcUs ≤ s.frm.tc)) = true := by
      rw [decide_eq_true some_, decide_eq_true timed, decide_eq_true due]
      rfl
    exact (exec_evtCoalesceTimeout s).trans (congrArg _ (if_pos goes))
  case waits =>
    intro s early
    have stays : ¬ (decide (0 < s.evt.unsignalled) && decide (0 < s.evt.coalUs) &&
        decide (s.evt.unsignalledAt + s.evt.coalUs * tcUs ≤ s.frm.tc)) = true := by
      simp only [Bool.and_eq_true, decide_eq_true_eq]
      omega
    exact (exec_evtCoalesceTimeout s).trans (congrArg _ (if_neg stays))
  case written =>
    intro s k w cart laser powered present fresh all none_ opened
    have told := (doLaserAged_tells powered present fresh).trans (raise_aged _ all none_)
    rw [opened, if_pos rfl] at told
    refine ⟨_, (exec_laserAged cart laser s).trans (congrArg _ told), ?_⟩
    obtain ⟨host, tail, phase, written, head, lost, next⟩ := writeRecord_fields (recordOf 0x0041 0 0 k 0 [w, 4] s)
      (heldOne (recordOf 0x0041 0 0 k 0 [w, 4] s) (numbered (setCart k (fun c => { c with aged := c.aged ||| 2 ^ w }) s)))
    obtain ⟨host0, evt0⟩ := heldOne_setCart_blocks (recordOf 0x0041 0 0 k 0 [w, 4] s) k (fun c => { c with aged := c.aged ||| 2 ^ w }) s
    generalize heldOne (recordOf 0x0041 0 0 k 0 [w, 4] s) (numbered (setCart k (fun c => { c with aged := c.aged ||| 2 ^ w }) s)) = x
      at host tail phase written head lost next host0 evt0 ⊢
    have size : x.ringSize = s.ringSize := by rw [State.ringSize, State.ringSize, evt0]
    rw [aged_bytes cart laser, aged_head, host0] at host
    obtain ⟨host1, evt1⟩ := heldNone_blocks (writeRecord (recordOf 0x0041 0 0 k 0 [w, 4] s) x)
    rw [size] at tail
    rw [host1, evt1]
    rw [evt0] at host tail phase written head next
    exact ⟨next, tail, phase, written, head, rfl, lost, host⟩
  case held =>
    intro s k w cart laser powered present fresh all none_ closed
    have told := (doLaserAged_tells powered present fresh).trans (raise_aged _ all none_)
    rw [closed, if_neg Bool.false_ne_true] at told
    obtain ⟨host0, evt0⟩ := heldOne_setCart_blocks (recordOf 0x0041 0 0 k 0 [w, 4] s) k (fun c => { c with aged := c.aged ||| 2 ^ w }) s
    refine ⟨_, (exec_laserAged cart laser s).trans (congrArg _ told), ?_⟩
    rw [host0, evt0]
    have unit : k % 2 ^ 32 = k := Nat.mod_eq_of_lt (by omega)
    refine ⟨rfl, rfl, rfl, ?_, rfl⟩
    simp only [List.map_cons, List.map_nil, recordOf, unit]
  case report =>
    intro s r running bme live
    have goes : ¬ ((!s.hif.bme || decide (s.kpr.state = .halted)) = true) := by
      rw [bme, decide_eq_false live]
      decide
    refine (exec_reportDone s).trans (congrArg _ ?_)
    rw [doReportDone, running]
    exact if_neg goes
  case noReport =>
    intro s idle
    refine (exec_reportDone s).trans (congrArg _ ?_)
    rw [doReportDone]
    cases running : s.evt.running with
    | none => rfl
    | some r =>
      have stays : (!s.hif.bme || decide (s.kpr.state = .halted)) = true := by
        rcases idle with h | h | h
        · rw [running] at h
          exact absurd h (by simp)
        · rw [h]; rfl
        · rw [h, Bool.or_comm]; rfl
      exact if_pos stays

end Sys2Proof.Proofs
end


section
/-! The management endpoint and the debug window (R410, R411, R422, R428). -/
namespace Sys2Proof.Proofs
set_option Elab.async false
open Sys2Proof.Machine Sys2Proof.Laws

/-! ## MCTP control messages -/

theorem collectWaiting_nothing {bus : Nat} {s : State} (keeps : bus ≠ 0 ∨ s.tel.polls = false) : collectWaiting bus s = s := by
  refine if_neg fun collects => ?_
  obtain ⟨smbus, polls⟩ := Bool.and_eq_true_iff.1 collects
  rcases keeps with other | silent
  · exact other (of_decide_eq_true smbus)
  · exact absurd (silent.symm.trans polls) (by decide)

/-- Messages collected one after the other stand newest first in front of the outputs. -/
theorem foldl_emit_pem (messages : List (Nat × List Nat)) : ∀ s : State,
    messages.foldl (fun (s : State) (e : Nat × List Nat) => emit (.pem e.1 e.2) s) s
      = { s with out := messages.reverse.map (fun e => Output.pem e.1 e.2) ++ s.out } := by
  induction messages with
  | nil => exact fun s => rfl
  | cons e rest ih =>
    intro s
    rw [List.foldl_cons, ih, List.reverse_cons, List.map_append, List.append_assoc]
    rfl

/-- The state after a poller has collected what waits. -/
def collected (s : State) : State :=
  { s with tel := { s.tel with waiting := [], alert := false }
           out := s.tel.waiting.reverse.map (fun e => Output.pem e.1 e.2) ++ s.out }

theorem collectWaiting_polls {s : State} (polls : s.tel.polls = true) : collectWaiting 0 s = collected s := by
  have goes : (decide (0 = 0) && s.tel.polls) = true := by rw [polls]; rfl
  refine (if_pos goes).trans ?_
  rw [foldl_emit_pem]
  rfl

theorem exec_mctp {bus cmd : Nat} {d : List Nat} {s : State} (there : bus < 3) (live : s.busLive bus = true) :
    exec (.mctpControlMessage bus cmd d) s
      = .next (controlAnswer (cmd % 256) (toBytes (d.take 64)) (collectWaiting bus s)) :=
  (onUnit_runs there).trans (congrArg _ (if_pos live))

theorem controlAnswer_unknown {cmd : Nat} (d : List Nat) (s : State) (unknown : cmd = 0 ∨ 6 ≤ cmd) :
    controlAnswer cmd d s = emit (.mctp [cmd, 5]) s := by
  match cmd, unknown with
  | 0, _ => rfl
  | 1, h | 2, h | 3, h | 4, h | 5, h => omega
  | _ + 6, _ => rfl

section NotPolled
variable {s : State} {bus : Nat} (there : bus < 3) (live : s.busLive bus = true) (keeps : bus ≠ 0 ∨ s.tel.polls = false)
include there live keeps

theorem exec_mctp_answers (cmd : Nat) (d : List Nat) :
    exec (.mctpControlMessage bus cmd d) s = .next (controlAnswer (cmd % 256) (toBytes (d.take 64)) s) := by
  rw [exec_mctp there live, collectWaiting_nothing keeps]

theorem endpointId_kept {eid : Nat} (small : eid < 256) :
    exec (.mctpControlMessage bus 1 [0, eid]) s
      = .next (emit (.mctp [1, 0, 0, eid, 0]) { s with tel := { s.tel with eid := eid } }) := by
  have value : nth 0 (toBytes ([0, eid].take 64)) 1 = eid := Nat.mod_eq_of_lt small
  rw [exec_mctp_answers there live keeps]
  refine congrArg _ ?_
  unfold controlAnswer
  simp only [value]

end NotPolled

/-! ## Sensors and effecters -/

theorem exec_getSensorReading {bus id : Nat} {s : State} (there : bus < 3) (live : s.busLive bus = true) :
    exec (.getSensorReading bus id) s = .next (emit (.reading (id % 65536) (s.sensor (id % 65536))) s) :=
  (onUnit_runs there).trans (congrArg _ (if_pos live))

theorem sensor_reads {bus id : Nat} {v : Option Int} {s : State} (there : bus < 3) (live : s.busLive bus = true)
    (small : id < 65536) (value : s.sensor id = v) :
    exec (.getSensorReading bus id) s = .next (emit (.reading id v) s) := by
  rw [exec_getSensorReading there live, Nat.mod_eq_of_lt small, value]

theorem sensor_served {id : Nat} {s : State}
    (served : s.inStates [.rom, .halted] = false ∨ basicSensors.contains id = true) :
    ¬ (s.inStates [.rom, .halted] && !basicSensors.contains id) = true := by
  refine Bool.eq_false_iff.1 ?_
  rcases served with outside | basic
  · rw [outside]; rfl
  · rw [basic, Bool.not_true, Bool.and_false]

/-- A sensor number that Table 19.9 does not list, or one not served in ROM and HALTED. -/
theorem sensor_unavailable {id : Nat} {s : State}
    (absent : id = 0 ∨ 13 < id ∨ id ∈ [5, 6, 7, 9, 11, 12, 13] ∧ s.inStates [.rom, .halted] = true) :
    s.sensor id = none := by
  unfold State.sensor
  split
  · rfl
  · rename_i served
    rcases absent with zero | beyond | ⟨listed, early⟩
    · rw [zero]; rfl
    · match id, beyond with
      | _ + 14, _ => rfl
    · refine absurd ?_ served
      rw [early, Bool.true_and]
      revert listed
      simp only [List.mem_cons, List.not_mem_nil, or_false]
      rintro (rfl | rfl | rfl | rfl | rfl | rfl | rfl) <;> rfl

section Effecter
variable {s : State} {bus which c : Nat} (there : bus < 3) (live : s.busLive bus = true) (up : s.keeperUp = true)
include there live up

theorem exec_setEffecter (one : which ≤ 1) (small : c < 65536) :
    exec (.setNumericEffecterValue bus (which + 1) c) s
      = .next (if s.inStates capStates then setCap which c s else refuse (capOff which) c 0x0120 s) := by
  have wide : c % 2 ^ 64 = c := Nat.mod_eq_of_lt (by omega)
  have cap : (s.busLive bus && (decide (which + 1 = 1) || decide (which + 1 = 2))) = true := by
    simp only [live, Bool.true_and, Bool.or_eq_true, decide_eq_true_eq]
    omega
  have off : ¬ (!s.keeperUp) = true := by rw [up]; decide
  have fits : c &&& ((2 ^ 64 - 1) ^^^ (0xFFFF ||| s.capForce which)) = 0 :=
    fits_low (n := 16) _ small (by decide) (by decide)
  refine (onUnit_runs there).trans (congrArg _ ?_)
  rw [wide]
  refine (if_pos cap).trans ?_
  rw [Nat.add_sub_cancel, writeCapAside, if_neg off, if_neg (fun wrong => wrong fits)]

end Effecter

/-! ## The debug window -/

theorem exec_dbgCsRead {k : Nat} {p : Bool} {s : State} (there : k < 512) :
    exec (.dbgCsRead k p) s = .next (doDbgCsRead k p s) := onUnit_runs there

section Window
variable {s : State} (k : Nat) (p : Bool)

theorem dbgCsRead_open (up : s.hostUp = true) (open_ : s.dbgOpen = true) :
    doDbgCsRead k p s = if p && s.csReadable then
        emit (.data (leBytes 8 0)) { s with dbg := { s.dbg with paritySeen := true } }
      else emit (.data (leBytes 8 (s.dbgCs k))) s := by
  obtain ⟨keeper, d0⟩ : s.keeperUp = true ∧ s.hif.d3hot = false := by
    simpa only [State.hostUp, Bool.and_eq_true, Bool.not_eq_true'] using up
  simp only [doDbgCsRead, keeper, d0, open_, Bool.not_true, Bool.false_eq_true, if_false]

theorem dbgCsRead_locked (up : s.hostUp = true) (locked : s.dbgOpen = false) :
    doDbgCsRead k p s = emit (.data (leBytes 8 0)) s := by
  obtain ⟨keeper, d0⟩ : s.keeperUp = true ∧ s.hif.d3hot = false := by
    simpa only [State.hostUp, Bool.and_eq_true, Bool.not_eq_true'] using up
  simp only [doDbgCsRead, keeper, d0, locked, Bool.not_true, Bool.not_false, Bool.false_eq_true, if_false, if_true]

theorem dbgCsRead_unsupported (up : s.keeperUp = true) (d3 : s.hif.d3hot = true) :
    doDbgCsRead k p s = emit .unsupportedRequest s := by
  simp only [doDbgCsRead, up, d3, Bool.not_true, Bool.false_eq_true, if_false, if_true]

theorem dbgCs_unreadable (closed : s.csReadable = false) : s.dbgCs k = 0 := by
  rw [State.dbgCs, closed, if_neg Bool.false_ne_true]

theorem dbgCs_readable (readable : s.csReadable = true) :
    s.dbgCs k = leNat (s.storeBytes s.dbg.core (s.dbg.csBase * 32 + 8 * k) 8) := if_pos readable

end Window

/-- Settles O54: each message reaches its answer behind the bus test and, for a poller, behind the messages it collects;
effecters share `setCap` with the host's writes. -/
theorem managementEndpoint : Obligations.ManagementEndpoint := by
  unfold Obligations.ManagementEndpoint
  refine ⟨fun s bus eid there live small keeps => ?_, fun s bus there live keeps => ?_,
    fun s bus cmd d there live unknown keeps => ?_, fun s live polls => ?_,
    fun s bus cmd id c d r p there dead => ?_, fun s bus there live => ?_, fun s bus id there live absent => ?_,
    fun s bus there live outside => ?_, fun s bus c there live up takes high low floor => ?_,
    fun s bus c there live up takes low high ceiling => ?_, fun s bus c there live up off small => ?_,
    fun s bus id c there live one two => ?_, fun s bus r p there live => ?_, fun s a up => ?_, fun s a down => ?_,
    fun s k p there up locked => ?_, fun s k there up open_ readable => ?_, fun s k p there up open_ closed => ?_,
    fun s k there up open_ readable => ?_, fun s k p there up d3 => ?_, fun s k p there down => ?_⟩
  · exact ⟨endpointId_kept there live keeps small, exec_mctp_answers there live keeps 2 [],
      exec_mctp_answers there live keeps 5 []⟩
  · exact ⟨_, _, exec_mctp_answers there live keeps 3 [], exec_mctp_answers there live keeps 4 [], by simp, by simp⟩
  · rw [exec_mctp_answers there live keeps, controlAnswer_unknown _ _ unknown]
  · refine ⟨emit (.mctp [2, 0, s.tel.eid, 0, 0]) (collected s), ?_, rfl, rfl⟩
    rw [exec_mctp (by decide) live, collectWaiting_polls polls]
    rfl
  · have dead' : ¬ s.busLive bus = true := Bool.eq_false_iff.1 dead
    have off : ¬ (s.busLive bus && (decide (id = 1) || decide (id = 2))) = true := by rw [dead]; exact Bool.false_ne_true
    exact ⟨(onUnit_runs there).trans (congrArg _ (if_neg dead')), (onUnit_runs there).trans (congrArg _ (if_neg dead')),
      (onUnit_runs there).trans (congrArg _ (if_neg off)), (onUnit_runs there).trans (congrArg _ (if_neg dead'))⟩
  · have reads {id : Nat} {v : Option Int} (small : id < 65536) := sensor_reads (v := v) there live small
    have basic {id : Nat} (listed : basicSensors.contains id = true) := sensor_served (s := s) (.inr listed)
    exact ⟨reads (by decide) (if_neg (basic (id := 1) rfl)), reads (by decide) (if_neg (basic (id := 2) rfl)),
      reads (by decide) (if_neg (basic (id := 3) rfl)), reads (by decide) (if_neg (basic (id := 4) rfl)),
      reads (by decide) (if_neg (basic (id := 8) rfl)), reads (by decide) (if_neg (basic (id := 10) rfl))⟩
  · rw [exec_getSensorReading there live, sensor_unavailable absent]
  · have reads {id : Nat} {v : Option Int} (small : id < 65536) := sensor_reads (v := v) there live small
    have served (id : Nat) := sensor_served (id := id) (.inl outside)
    exact ⟨reads (by decide) (if_neg (served 5)), reads (by decide) (if_neg (served 6)),
      reads (by decide) (if_neg (served 7)), reads (by decide) (if_neg (served 9)), reads (by decide) (if_neg (served 11)),
      reads (by decide) (if_neg (served 12)), reads (by decide) (if_neg (served 13))⟩
  · rw [exec_setEffecter (which := 0) there live up (by decide) (by omega), if_pos takes, setCap_zero (by omega),
      if_neg (by omega)]
  · rw [exec_setEffecter (which := 1) there live up (by decide) (by omega), if_pos takes, setCap_one (by omega),
      if_neg (by omega)]
  · have off' : ¬ s.inStates capStates = true := Bool.eq_false_iff.1 off
    exact ⟨(exec_setEffecter (which := 0) there live up (by decide) small).trans (congrArg _ (if_neg off')),
      (exec_setEffecter (which := 1) there live up (by decide) small).trans (congrArg _ (if_neg off'))⟩
  · have no : ¬ (s.busLive bus && (decide (id = 1) || decide (id = 2))) = true := by
      rw [decide_eq_false one, decide_eq_false two, Bool.or_self, Bool.and_false]
      exact Bool.false_ne_true
    exact (onUnit_runs there).trans (congrArg _ (if_neg no))
  · refine (onUnit_runs there).trans (congrArg _ ((if_pos live).trans ?_))
    rw [Option.isSome_map]
  · exact congrArg _ (if_pos up)
  · exact congrArg _ (if_neg (Bool.eq_false_iff.1 down))
  · rw [exec_dbgCsRead there, dbgCsRead_locked k p up locked]
  · rw [exec_dbgCsRead there, dbgCsRead_open k false up open_, Bool.false_and, if_neg Bool.false_ne_true,
      dbgCs_readable k readable]
  · rw [exec_dbgCsRead there, dbgCsRead_open k p up open_, closed, Bool.and_false, if_neg Bool.false_ne_true,
      dbgCs_unreadable k closed]
  · rw [exec_dbgCsRead there, dbgCsRead_open k true up open_, readable, Bool.true_and, if_pos rfl]
  · rw [exec_dbgCsRead there, dbgCsRead_unsupported k p up d3]
  · rw [exec_dbgCsRead there]
    exact congrArg _ (if_pos (by rw [down]; rfl))

end Sys2Proof.Proofs
end


section
/-! The bank units: what a change of one unit leaves, how a command ends, and the micro-ops that touch no memory
(chapter 7). -/
namespace Sys2Proof.Proofs
set_option Elab.async false
open Sys2Proof.Machine Sys2Proof.Laws

/-! ## One unit changes -/

/-- The bank units other than one are untouched. -/
def OtherUnits (n b : Nat) (s t : State) : Prop :=
  ∀ k, k ≠ n * 32 + b → mapGet bankUnit0 t.bnk.units k = mapGet bankUnit0 s.bnk.units k

theorem OtherUnits.trans {n b : Nat} {s t u : State} (first : OtherUnits n b s t) (second : OtherUnits n b t u) :
    OtherUnits n b s u := fun k ne => (second k ne).trans (first k ne)

theorem otherUnits_of_bnk {n b : Nat} {s t : State} (same : t.bnk = s.bnk) : OtherUnits n b s t := fun _ _ => by rw [same]

theorem otherUnits_setUnit (n b : Nat) (f : BankUnit → BankUnit) (s : State) : OtherUnits n b s (setUnit n b f s) :=
  fun _ ne => units_setUnit_other f s ne

theorem otherUnits_setRun (n b : Nat) (f : BankRun → BankRun) (s : State) : OtherUnits n b s (setRun n b f s) :=
  otherUnits_setUnit n b _ s

theorem otherUnits_setSlot (n b i : Nat) (f : Slot → Slot) (s : State) : OtherUnits n b s (setSlot n b i f s) :=
  otherUnits_setUnit n b _ s

theorem unitOf_congr {s t : State} (n b : Nat) (same : t.bnk = s.bnk) : t.unitOf n b = s.unitOf n b := by
  rw [State.unitOf, same]; rfl

theorem unitOf_setRun (n b : Nat) (f : BankRun → BankRun) (s : State) :
    (setRun n b f s).unitOf n b = { (s.unitOf n b) with run := (s.unitOf n b).run.map f } := setUnit_unitOf_same ..

/-- The micro-program, the selection and the totals stay where one unit changes. -/
theorem setUnit_frame (n b : Nat) (f : BankUnit → BankUnit) (s : State) :
    setUnit n b f s = { s with bnk := { s.bnk with units := (setUnit n b f s).bnk.units } } := rfl

/-! ## The end of a command -/

/-- A command's slot closed, before its core is told. -/
def closeSlot (n b i cause : Nat) (s : State) : State :=
  setSlot n b i (fun x => { x with uid1 := 0 })
    (setUnit n b (fun u =>
      { u with
        order := u.order.filter (fun k => decide (k ≠ i)), yielded := u.yielded.filter (fun r => decide (r.slot ≠ i))
        run := match u.run with | some r => if r.slot = i then none else some r | none => none })
      (countEnd (causeState cause) (slotState n b i (causeState cause) cause s)))

theorem endSlot_eq (n b i cause : Nat) (s : State) :
    endSlot n b i cause s = tellCore n ((s.unitOf n b).slot i) cause (closeSlot n b i cause s) := rfl

theorem tellCore_bnk (n : Nat) (x : Slot) (cause : Nat) (s : State) : (tellCore n x cause s).bnk = s.bnk := by
  have free : false = false := rfl
  exact (tellCore_keeps n x cause s (Keeps.refl s) : Keeps (Untouched.allBut [.reports, .frm, .cores]) s _).bnk rfl

/-- The slot of a command that has ended. -/
def endedSlot (cause tc : Nat) (x : Slot) : Slot :=
  { x with state := causeState cause, cause := cause, changedTc := tc, uid1 := 0 }

/-- A unit after one of its commands has ended. -/
def endedUnit (i cause tc : Nat) (u : BankUnit) : BankUnit :=
  { u with
    slots := setNth u.slots i (endedSlot cause tc (u.slot i))
    order := u.order.filter (fun k => decide (k ≠ i)), yielded := u.yielded.filter (fun r => decide (r.slot ≠ i))
    run := match u.run with | some r => if r.slot = i then none else some r | none => none }

theorem unitOf_countEnd (n b st : Nat) (s : State) : (countEnd st s).unitOf n b = s.unitOf n b := rfl

theorem units_countEnd (st : Nat) (s : State) : (countEnd st s).bnk.units = s.bnk.units := rfl

theorem unitOf_endSlot {n b i cause : Nat} {s : State} (inside : i < (s.unitOf n b).slots.length) :
    (endSlot n b i cause s).unitOf n b = endedUnit i cause s.frm.tc (s.unitOf n b) := by
  rw [endSlot_eq, unitOf_congr n b (tellCore_bnk _ _ _ _), closeSlot, unitOf_setSlot, setUnit_unitOf_same,
    unitOf_countEnd, slotState, unitOf_setSlot]
  simp only [BankUnit.slot, setNth_setNth, nth_setNth_same _ _ inside]
  rfl

theorem otherUnits_endSlot (n b i cause : Nat) (s : State) : OtherUnits n b s (endSlot n b i cause s) := by
  intro k ne
  rw [endSlot_eq, tellCore_bnk, closeSlot, otherUnits_setSlot n b i _ _ k ne, units_setUnit_other _ _ ne, units_countEnd,
    slotState, otherUnits_setSlot n b i _ _ k ne]

/-- The totals count a command by the state it ends in. -/
theorem endSlot_totals (n b i cause : Nat) (s : State) :
    (endSlot n b i cause s).bnk.done = satAdd 32 s.bnk.done (b2n (decide (causeState cause = 3))) ∧
    (endSlot n b i cause s).bnk.refused = satAdd 16 s.bnk.refused (b2n (decide (causeState cause = 4))) := by
  rw [endSlot_eq, tellCore_bnk]
  exact ⟨rfl, rfl⟩

theorem endSlot_silent (n b i cause : Nat) (s : State) :
    Keeps (Untouched.allBut [.reports, .frm, .cores, .bnk]) s (endSlot n b i cause s) := by
  have free : false = false := rfl
  exact endSlot_keeps n b i cause s (Keeps.refl s)

theorem endSlot_mem (n b i cause : Nat) (s : State) : (endSlot n b i cause s).mem = s.mem :=
  mem_of_keeps (endSlot_silent n b i cause s) rfl rfl

theorem endSlot_store (n b i cause : Nat) (s : State) : (endSlot n b i cause s).cores.store = s.cores.store :=
  (endSlot_silent n b i cause s).store rfl

section EndRun
variable {s : State} {n b : Nat} {r : BankRun} (runs : (s.unitOf n b).run = some r)
include runs

theorem endRun_eq (cause : Nat) : endRun n b cause s = endSlot n b r.slot cause s := by
  rw [endRun, runs]

theorem endRun_mem (cause : Nat) : (endRun n b cause s).mem = s.mem := by
  rw [endRun_eq runs, endSlot_mem]

/-- The running command has ended: its slot has the cause, and nothing runs. -/
theorem endRun_unit (inside : r.slot < (s.unitOf n b).slots.length) (cause : Nat) :
    ((endRun n b cause s).unitOf n b).run = none ∧
    ((endRun n b cause s).unitOf n b).slot r.slot = endedSlot cause s.frm.tc ((s.unitOf n b).slot r.slot) := by
  rw [endRun_eq runs, unitOf_endSlot inside]
  refine ⟨?_, nth_setNth_same _ _ inside⟩
  simp only [endedUnit, runs, if_true]

end EndRun

/-! ## Where a command stands -/

theorem run_of_microRun {s : State} {n b : Nat} {r : BankRun} (ready : s.microRun n b = some r) :
    (s.unitOf n b).run = some r := by
  unfold State.microRun at ready
  split at ready
  · exact absurd ready (by simp)
  · exact (Option.filter_eq_some_iff.1 ready).1

theorem live_of_microRun {s : State} {n b : Nat} {r : BankRun} (ready : s.microRun n b = some r) :
    s.bankLive n b = true := by
  unfold State.microRun at ready
  split at ready
  · exact absurd ready (by simp)
  · rename_i may
    rw [Bool.or_eq_true, not_or] at may
    simpa using may.1

/-- The command that stands at a micro-op is the one that runs, with its slot's fields. -/
theorem standing_of_microAt {s : State} {n b code : Nat} {m : Micro} (at_ : s.microAt n b code = some m) :
    s.microRun n b = some m.r ∧ m.x = (s.unitOf n b).slot m.r.slot := by
  unfold State.microAt at at_
  split at at_
  · exact absurd at_ (by simp)
  · rename_i r ready
    split at at_
    · exact absurd at_ (by simp)
    · split at at_
      · cases at_
        exact ⟨ready, rfl⟩
      · exact absurd at_ (by simp)

theorem run_of_microAt {s : State} {n b code : Nat} {m : Micro} (at_ : s.microAt n b code = some m) :
    (s.unitOf n b).run = some m.r := run_of_microRun (standing_of_microAt at_).1

theorem micro_runs {s : State} {n b code : Nat} {m : Micro} (at_ : s.microAt n b code = some m)
    (body : Micro → State → State) : micro code n b body s = body m s := by
  rw [micro, at_]

/-- Nothing runs that may start, or it stands at a word that is not loaded. -/
theorem micro_idle {s : State} {n b : Nat}
    (idle : s.microRun n b = none ∨ ((s.microRun n b).map (fun r => (s.microWord r.pc).isSome)) = some false)
    (code : Nat) (body : Micro → State → State) : micro code n b body s = s := by
  have nowhere : s.microAt n b code = none := by
    rcases idle with none_ | unloaded
    · rw [State.microAt, none_]
    · obtain ⟨r, ready, word⟩ := Option.map_eq_some_iff.1 unloaded
      have empty : s.microWord r.pc = none := by simpa using word
      simp only [State.microAt, ready, empty]
  rw [micro, nowhere]

/-! ## The micro-ops that touch no memory (Table 7.5) -/

/-- The list entry at the front of the buffer, taken. -/
def entryTaken (buf : List Nat) (r : BankRun) : BankRun :=
  { r with
    index := field (leAt buf 0 8) 0 16, weight := field (leAt buf 0 8) 32 32, segEnd := bit (leAt buf 0 8) 31,
    remaining := r.remaining - 1, taken := r.taken + 1, segCount := r.segCount + 1, buf := buf.drop 8 }

/-- The run and the slot of a unit whose command takes an entry. -/
theorem unitOf_takeEntry {s : State} {n b : Nat} {m : Micro} (runs : (s.unitOf n b).run = some m.r) (buf : List Nat) :
    (takeEntry n b m buf s).unitOf n b = { (s.unitOf n b) with
      run := some { entryTaken buf m.r with pc := m.r.pc + 1 }
      slots := setNth (s.unitOf n b).slots m.r.slot { ((s.unitOf n b).slot m.r.slot) with
        entriesDone := ((s.unitOf n b).slot m.r.slot).entriesDone + 1 } } := by
  rw [takeEntry, nextWord, goWord, unitOf_setRun, unitOf_setSlot, unitOf_setRun, runs]
  rfl

theorem otherUnits_takeEntry (n b : Nat) (m : Micro) (buf : List Nat) (s : State) :
    OtherUnits n b s (takeEntry n b m buf s) :=
  ((otherUnits_setRun n b _ s).trans (otherUnits_setSlot n b _ _ _)).trans (otherUnits_setRun n b _ _)

theorem takeEntry_frame (n b : Nat) (m : Micro) (buf : List Nat) (s : State) :
    takeEntry n b m buf s = { s with bnk := { s.bnk with units := (takeEntry n b m buf s).bnk.units } } := rfl

/-- Settles O38: `micro` runs the body of the micro-op at which the command stands, and each body changes the run of its
own unit alone; DONE is the end of a command. -/
theorem microOpsMove : Obligations.MicroOpsMove := by
  unfold Obligations.MicroOpsMove
  refine ⟨fun s n b m tile bank at_ => ?_, fun s n b m tile bank at_ => ?_, fun s n b m tile bank at_ => ?_,
    fun s n b m tile bank at_ => ?_, fun s n b m tile bank at_ => ?_, fun s n b m p fl tile bank at_ last => ?_,
    fun s n b m fl tile bank at_ more buffered inside => ?_, fun s n b m tile bank at_ inside => ?_,
    fun s n b pa pw fl tile bank idle => ?_⟩
  · exact (onUnit_runs ⟨tile, bank⟩).trans (congrArg _ (micro_runs at_ _))
  · refine (onUnit_runs ⟨tile, bank⟩).trans (congrArg _ ((micro_runs at_ _).trans ?_))
    split <;> rfl
  · refine (onUnit_runs ⟨tile, bank⟩).trans (congrArg _ ((micro_runs at_ _).trans ?_))
    simp only [Bool.and_eq_true, Bool.not_eq_true', decide_eq_true_eq]
    split <;> rfl
  · refine ⟨_, (onUnit_runs ⟨tile, bank⟩).trans (congrArg _ (micro_runs at_ _)), fun more => ?_, fun last => ?_, ?_, ?_⟩
    · rw [if_pos more, goWord, unitOf_setRun, unitOf_setRun, run_of_microAt at_]
      rfl
    · rw [if_neg (Nat.not_lt.2 last), nextWord, goWord, unitOf_setRun, unitOf_setRun, run_of_microAt at_]
      rfl
    · split <;> exact (otherUnits_setRun n b _ s).trans (otherUnits_setRun n b _ _)
    · split <;> rfl
  · refine ⟨_, (onUnit_runs ⟨tile, bank⟩).trans (congrArg _ (micro_runs at_ _)), ?_,
      (otherUnits_setRun n b _ s).trans (otherUnits_setRun n b _ _), rfl⟩
    rw [nextWord, goWord, unitOf_setRun, unitOf_setRun, run_of_microAt at_]
    rfl
  · exact (onUnit_runs ⟨tile, bank⟩).trans (congrArg _ ((micro_runs at_ _).trans (if_pos last)))
  · have takes : microNext n b false fl m s = takeEntry n b m m.r.buf s := by
      rw [microNext, if_neg more, if_neg Bool.false_ne_true, if_neg buffered]
    refine ⟨_, (onUnit_runs ⟨tile, bank⟩).trans (congrArg _ ((micro_runs at_ _).trans takes)), ?_, ?_,
      otherUnits_takeEntry n b m _ s, takeEntry_frame ..⟩
    · rw [unitOf_takeEntry (run_of_microAt at_)]
      rfl
    · rw [unitOf_takeEntry (run_of_microAt at_), (standing_of_microAt at_).2]
      exact congrArg Slot.entriesDone (nth_setNth_same _ _ inside)
  · have runs := run_of_microAt at_
    obtain ⟨ended, slot⟩ := endRun_unit runs inside 0
    refine ⟨_, (onUnit_runs ⟨tile, bank⟩).trans (congrArg _ (micro_runs at_ _)), ended, ?_, ?_, ?_, ?_, endRun_mem runs 0,
      ?_⟩
    · rw [slot]; rfl
    · rw [slot]; rfl
    · rw [endRun_eq runs]
      exact (endSlot_totals ..).1
    · rw [endRun_eq runs]
      exact otherUnits_endSlot n b _ _ s
    · rw [endRun_eq runs]
      exact endSlot_store ..
  · have idles {code : Nat} {body : Micro → State → State} : onUnit (n < coreCount ∧ b < bankCount) (micro code n b body s)
        = .next s := (onUnit_runs ⟨tile, bank⟩).trans (congrArg _ (micro_idle idle code body))
    exact ⟨idles, idles, idles, idles, idles, idles, idles, idles, idles, idles, idles⟩

end Sys2Proof.Proofs
end


section
/-! The micro-ops that read and write the bank (R154 to R156, R162, R166). -/
namespace Sys2Proof.Proofs
set_option Elab.async false
open Sys2Proof.Machine Sys2Proof.Laws

/-! ## Reads -/

/-- What a read of a bank leaves: the units, the cores, and without errors in the words the stacked memory. -/
theorem bankRead_leaves {w : Who} {a len : Nat} {flips : List (Nat × Nat)} {s s2 : State} {ans : MemAns}
    (read : readBytes w false a len (flipSymbols a flips s) = (ans, s2)) :
    s2.bnk = s.bnk ∧ s2.cores = s.cores ∧ (flips = [] → s2.mem.dram = s.mem.dram) ∧ s2.frm = s.frm := by
  have free : false = false := rfl
  have flipped : Keeps (Untouched.allBut [.stacked]) s (flipSymbols a flips s) := flipSymbols_keeps a flips s (Keeps.refl s)
  have taken : Keeps (Untouched.allBut [.reports, .mem, .net]) (flipSymbols a flips s) s2 :=
    Keeps.snd read (readBytes_keeps w false a len _ (Keeps.refl _))
  refine ⟨(taken.bnk rfl).trans (flipped.bnk rfl), ?_, fun none_ => ?_, (taken.frm rfl).trans (flipped.frm rfl)⟩
  · exact (cores_of_keeps taken rfl rfl).trans (cores_of_keeps flipped rfl rfl)
  · rw [(taken.stacked rfl).1, none_]
    rfl

/-- A piece combined into the accumulator: its new codes, and whether each of them saturated. -/
def combined (m : Micro) (d : List Nat) : List (Nat × Bool) :=
  m.combineAll (m.elems m.r.piece) ((List.range (m.elems m.n)).map (packedAt d m.bits))

/-- A piece of the row in the row buffer. -/
def rowTaken (n b : Nat) (d : List Nat) (s : State) : State := setRun n b (fun r => { r with row := d }) s

/-- The accumulator with a piece of the row combined. -/
def accTaken (n b : Nat) (m : Micro) (d : List Nat) (s : State) : State :=
  setRun n b (fun r => { r with acc := r.putAcc (m.elems m.r.piece) ((combined m d).map Prod.fst) }) (rowTaken n b d s)

/-- A piece of the row in the row buffer and, where asked, in the accumulator. -/
def fetched (n b : Nat) (combine : Bool) (m : Micro) (d : List Nat) (s : State) : State :=
  if combine && decide (m.x.op ≠ 0) then
    if (combined m d).any Prod.snd then setSlot n b m.r.slot (fun x => { x with sat := true }) (accTaken n b m d s)
    else accTaken n b m d s
  else rowTaken n b d s

section Fetched
variable {s : State} {n b : Nat} {m : Micro} (runs : (s.unitOf n b).run = some m.r) (d : List Nat)
include runs

theorem run_fetched_plain {combine : Bool} (plain : (combine && decide (m.x.op ≠ 0)) = false) :
    ((nextWord n b m (fetched n b combine m d s)).unitOf n b).run = some { m.r with row := d, pc := m.r.pc + 1 } := by
  have only : fetched n b combine m d s = rowTaken n b d s := if_neg (Bool.eq_false_iff.1 plain)
  rw [nextWord, goWord, unitOf_setRun, only, rowTaken, unitOf_setRun, runs]
  rfl

theorem run_fetched_combined (op : m.x.op ≠ 0) :
    ((nextWord n b m (fetched n b true m d s)).unitOf n b).run = some { m.r with
      row := d
      acc := ({ m.r with row := d } : BankRun).putAcc (m.elems m.r.piece)
        ((m.combineAll (m.elems m.r.piece) ((List.range (m.elems m.n)).map (packedAt d m.bits))).map Prod.fst)
      pc := m.r.pc + 1 } := by
  have combines : (true && decide (m.x.op ≠ 0)) = true := by rw [Bool.true_and, decide_eq_true op]
  have acc : (accTaken n b m d s).unitOf n b = { (s.unitOf n b) with run := some { m.r with
      row := d, acc := ({ m.r with row := d } : BankRun).putAcc (m.elems m.r.piece) ((combined m d).map Prod.fst) } } := by
    rw [accTaken, unitOf_setRun, rowTaken, unitOf_setRun, runs]
    rfl
  have only : ((fetched n b true m d s).unitOf n b).run = ((accTaken n b m d s).unitOf n b).run := by
    rw [fetched, if_pos combines]
    split
    · rw [unitOf_setSlot]
    · rfl
  rw [nextWord, goWord, unitOf_setRun, only, acc]
  rfl

end Fetched

theorem otherUnits_fetched (n b : Nat) (combine : Bool) (m : Micro) (d : List Nat) (s : State) :
    OtherUnits n b s (nextWord n b m (fetched n b combine m d s)) := by
  have row := otherUnits_setRun n b (fun r => { r with row := d }) s
  have acc : OtherUnits n b s (accTaken n b m d s) := row.trans (otherUnits_setRun n b _ _)
  refine OtherUnits.trans ?_ (otherUnits_setRun n b _ _)
  unfold fetched
  split
  · split
    · exact acc.trans (otherUnits_setSlot n b _ _ _)
    · exact acc
  · exact row

theorem fetched_leaves (n b : Nat) (combine : Bool) (m : Micro) (d : List Nat) (s : State) :
    (nextWord n b m (fetched n b combine m d s)).mem = s.mem ∧ (nextWord n b m (fetched n b combine m d s)).cores = s.cores := by
  have both : (fetched n b combine m d s).mem = s.mem ∧ (fetched n b combine m d s).cores = s.cores := by
    unfold fetched
    split
    · split <;> exact ⟨rfl, rfl⟩
    · exact ⟨rfl, rfl⟩
  exact both

/-- The source a bank unit's accesses are counted for. -/
def unitAccess (b : Nat) : Who := { code := 6, source := b }

section BankRead
variable {s s2 : State} {n b unit len : Nat} {flips : List (Nat × Nat)} (k : List Nat → State → State)

theorem bankRead_data {d : List Nat} (read : readBytes (unitAccess b) false (bankBase n b + 32 * unit) (32 * len)
    (flipSymbols (bankBase n b + 32 * unit) flips s) = (.data d, s2)) : bankRead n b unit len flips k s = k d s2 :=
  congrArg (bankTake n b k) read

theorem bankRead_error {c : Nat} (read : readBytes (unitAccess b) false (bankBase n b + 32 * unit) (32 * len)
    (flipSymbols (bankBase n b + 32 * unit) flips s) = (.error c, s2)) :
    bankRead n b unit len flips k s = endRun n b (if c = 1 || c = 2 then 4 else 0x0B) s2 :=
  congrArg (bankTake n b k) read

end BankRead

/-- The sub-arrays that a piece of the row lies in. -/
def pieceRows (n b : Nat) (m : Micro) : List Nat :=
  let at_ (u : Nat) : Nat := rowOf (bankBase n b + 32 * u) % 4
  let row := m.x.tableOff + m.r.index * m.x.rowLen
  [at_ (row + m.r.piece), at_ (row + m.r.piece + m.n - 1)]

/-- The rows ahead are opened, then the buffers take the piece. -/
def takePiece (n b : Nat) (combine : Bool) (m : Micro) (d : List Nat) (s : State) : State :=
  nextWord n b m (fetched n b combine m d (openAhead n b m 4 m.r.buf (pieceRows n b m) s))

theorem fetchPiece_eq (n b : Nat) (combine parity : Bool) (flips : List (Nat × Nat)) (m : Micro) (s : State) :
    fetchPiece n b combine parity flips m s =
      if 65536 < m.x.tableOff + m.r.index * m.x.rowLen + m.x.rowLen then endRun n b 1 s
      else if parity then bufferParity n b s
      else bankRead n b (m.x.tableOff + m.r.index * m.x.rowLen + m.r.piece) m.n flips (takePiece n b combine m) s := rfl

section Fetch
variable {s s2 : State} {n b : Nat} {m : Micro} {flips : List (Nat × Nat)}

theorem fetchPiece_beyond (combine parity : Bool) (beyond : 65536 < m.x.tableOff + m.r.index * m.x.rowLen + m.x.rowLen) :
    fetchPiece n b combine parity flips m s = endRun n b 1 s := by
  rw [fetchPiece_eq, if_pos beyond]

variable (inBank : ¬ 65536 < m.x.tableOff + m.r.index * m.x.rowLen + m.x.rowLen)
include inBank

theorem fetchPiece_parity (combine : Bool) : fetchPiece n b combine true flips m s = bufferParity n b s := by
  rw [fetchPiece_eq, if_neg inBank, if_pos rfl]

theorem fetchPiece_unspoiled (combine : Bool) : fetchPiece n b combine false flips m s =
    bankRead n b (m.x.tableOff + m.r.index * m.x.rowLen + m.r.piece) m.n flips (takePiece n b combine m) s := by
  rw [fetchPiece_eq, if_neg inBank, if_neg Bool.false_ne_true]

/-- FETCH and FETCHC of a piece that is read. -/
theorem fetchPiece_reads {d : List Nat} (combine : Bool)
    (read : readBytes (unitAccess b) false (bankBase n b + 32 * (m.x.tableOff + m.r.index * m.x.rowLen + m.r.piece)) (32 * m.n)
      (flipSymbols (bankBase n b + 32 * (m.x.tableOff + m.r.index * m.x.rowLen + m.r.piece)) flips s) = (.data d, s2)) :
    ∃ s3, s3.bnk = s.bnk ∧ s3.cores = s.cores ∧ (flips = [] → s3.mem.dram = s.mem.dram) ∧
      fetchPiece n b combine false flips m s = nextWord n b m (fetched n b combine m d s3) := by
  have free : false = false := rfl
  obtain ⟨units, cores, dram, -⟩ := bankRead_leaves read
  have ahead : Keeps (Untouched.allBut [.mem]) s2 (openAhead n b m 4 m.r.buf (pieceRows n b m) s2) :=
    openAhead_keeps n b m 4 _ _ s2 (Keeps.refl s2)
  refine ⟨_, (ahead.bnk rfl).trans units, (cores_of_keeps ahead rfl rfl).trans cores,
    fun none_ => (ahead.stacked rfl).1.trans (dram none_), ?_⟩
  rw [fetchPiece_unspoiled inBank, bankRead_data _ read, takePiece]

end Fetch

/-! ## Parity in a unit buffer -/

theorem unitOf_noteParity (n b : Nat) (s : State) :
    ((noteParity n b s).unitOf n b).run = (s.unitOf n b).run ∧ ((noteParity n b s).unitOf n b).slots = (s.unitOf n b).slots := by
  rw [noteParity, setUnit_unitOf_same]
  exact ⟨rfl, rfl⟩

theorem bufferParity_unit {s : State} {n b : Nat} {r : BankRun} (runs : (s.unitOf n b).run = some r)
    (inside : r.slot < (s.unitOf n b).slots.length) :
    ((bufferParity n b s).unitOf n b).run = none ∧ (((bufferParity n b s).unitOf n b).slot r.slot).state = 5 ∧
    (((bufferParity n b s).unitOf n b).slot r.slot).cause = 5 ∧ (bufferParity n b s).mem = s.mem := by
  obtain ⟨run, slots⟩ := unitOf_noteParity n b s
  have runs' := run.trans runs
  obtain ⟨ended, slot⟩ := endRun_unit runs' (by rw [slots]; exact inside) 5
  refine ⟨ended, ?_, ?_, (endRun_mem runs' 5).trans rfl⟩
  · rw [bufferParity, slot]; rfl
  · rw [bufferParity, slot]; rfl

/-! ## Writes at the result cursor -/

/-- No window has given a word of the piece at the result cursor to the host. -/
def PieceOwned (n b : Nat) (m : Micro) (s : State) : Prop :=
  (List.range m.n).any (fun i =>
    match s.windowOf (bankBase n b + 32 * m.r.cursor + 32 * i) with
    | some w => !w.workOwned
    | none => false) = false

theorem hostOwned_of_window {s : State} {n b i : Nat} {m : Micro} {w : Win} (small : i < m.n)
    (window : s.windowOf (bankBase n b + 32 * m.r.cursor + 32 * i) = some w) (given : w.workOwned = false) :
    (List.range m.n).any (fun i =>
      match s.windowOf (bankBase n b + 32 * m.r.cursor + 32 * i) with
      | some w => !w.workOwned
      | none => false) = true := by
  refine List.any_eq_true.2 ⟨i, List.mem_range.2 small, ?_⟩
  rw [window]
  show (!w.workOwned) = true
  rw [given]
  rfl

/-- A write to a tile whose data path is in order, that meets no staging lock, hole or fence. -/
theorem writeBytes_good (w : Who) {a : Nat} {bytes : List Nat} {s : State} (path : s.pathBad a = false)
    (unlocked : s.lockedIn a (bytes.length / 32) = false) (open_ : s.blockedIn a (bytes.length / 32) = none) :
    ∃ net, writeBytes w false a bytes s = (none, storeWords (bytes.length / 32) a bytes { s with net := net }) := by
  obtain ⟨net, eq⟩ := netAccess_onlyNet w a bytes.length true s
  have good : State.pathBad { s with net := net } a = false := path
  refine ⟨net, ?_⟩
  unfold writeBytes
  simp only [eq, lockedIn_net, unlocked, blockedIn_net, open_, good]
  rfl

/-- The first `k` words of a piece may be written. -/
structure CanWrite (n b k : Nat) (m : Micro) (s : State) : Prop where
  unlocked : s.lockedIn (bankBase n b + 32 * m.r.cursor) k = false
  open_ : s.blockedIn (bankBase n b + 32 * m.r.cursor) k = none
  path : s.pathBad (bankBase n b + 32 * m.r.cursor) = false

/-- A unit whose command has written `k` words of a piece. -/
def advancedUnit (k : Nat) (m : Micro) (u : BankUnit) : BankUnit :=
  { u with
    run := u.run.map (fun r => { r with cursor := r.cursor + k })
    slots := setNth u.slots m.r.slot { (u.slot m.r.slot) with resultUsed := (u.slot m.r.slot).resultUsed + k } }

theorem writeUnits_good {s : State} {n b k : Nat} {m : Micro} (bytes : List Nat) (may : CanWrite n b k m s) :
    ∃ t, writeUnits n b k bytes m s = (none, t) ∧
      t.mem.dram = memPutBytes s.mem.dram (bankBase n b + 32 * m.r.cursor) (slice bytes 0 (32 * k)) ∧
      t.unitOf n b = advancedUnit k m (s.unitOf n b) ∧ OtherUnits n b s t ∧ t.cores = s.cores := by
  have length : (slice bytes 0 (32 * k)).length = 32 * k := length_slice ..
  have words : (slice bytes 0 (32 * k)).length / 32 = k := by omega
  obtain ⟨net, stores⟩ := writeBytes_good { code := 6, source := b } may.path (bytes := slice bytes 0 (32 * k))
    (by rw [words]; exact may.unlocked) (by rw [words]; exact may.open_)
  have dram := storeWords_dram (bankBase n b + 32 * m.r.cursor) { s with net := net } length
  obtain ⟨_, _, _, frame⟩ := storeWords_frame k (bankBase n b + 32 * m.r.cursor) (slice bytes 0 (32 * k)) { s with net := net }
  rw [words] at stores
  have bnk := congrArg State.bnk frame
  have cores := congrArg State.cores frame
  generalize storeWords k (bankBase n b + 32 * m.r.cursor) (slice bytes 0 (32 * k)) { s with net := net } = z at stores dram bnk cores
  refine ⟨setSlot n b m.r.slot (fun x => { x with resultUsed := x.resultUsed + k })
    (setRun n b (fun r => { r with cursor := r.cursor + k }) z), by rw [writeUnits, stores], dram, ?_, ?_, cores⟩
  · rw [unitOf_setSlot, unitOf_setRun, unitOf_congr n b (s := s) bnk]
    rfl
  · intro j ne
    rw [otherUnits_setSlot n b _ _ _ j ne, otherUnits_setRun n b _ _ j ne, bnk]

section WritePiece
variable {s : State} {n b : Nat} {m : Micro} (bytes : List Nat)

theorem writePiece_past (parity : Option Nat) (past : m.x.resultOff + m.x.resultLen < m.r.cursor + m.n) :
    writePiece n b parity bytes m s = endRun n b 2 s := if_pos past

variable (within : m.r.cursor + m.n ≤ m.x.resultOff + m.x.resultLen)
include within

theorem writePiece_given {i : Nat} {w : Win} (parity : Option Nat) (small : i < m.n)
    (window : s.windowOf (bankBase n b + 32 * m.r.cursor + 32 * i) = some w) (given : w.workOwned = false) :
    writePiece n b parity bytes m s = endRun n b 3 s :=
  (if_neg (Nat.not_lt.2 within)).trans (if_pos (hostOwned_of_window small window given))

variable (owned : PieceOwned n b m s)
include owned

theorem writePiece_whole : writePiece n b none bytes m s = match writeUnits n b m.n bytes m s with
    | (some _, s) => endRun n b 0x0B s
    | (none, s) => nextWord n b m s :=
  (if_neg (Nat.not_lt.2 within)).trans (if_neg (Bool.eq_false_iff.1 owned))

theorem writePiece_parity {i : Nat} (small : i < m.n) :
    writePiece n b (some i) bytes m s = bufferParity n b (writeUnits n b i bytes m s).2 := by
  refine (if_neg (Nat.not_lt.2 within)).trans ((if_neg (Bool.eq_false_iff.1 owned)).trans ?_)
  have first : (some i).filter (fun i => decide (i < m.n)) = some i := by
    rw [Option.filter_some, decide_eq_true small, if_pos rfl]
  rw [first]

variable (runs : (s.unitOf n b).run = some m.r) (inside : m.r.slot < (s.unitOf n b).slots.length)
include runs inside

/-- The whole piece is written and the cursor moves on. -/
theorem writePiece_done (may : CanWrite n b m.n m s) (slot : m.x = (s.unitOf n b).slot m.r.slot) :
    (writePiece n b none bytes m s).mem.dram
        = memPutBytes s.mem.dram (bankBase n b + 32 * m.r.cursor) (slice bytes 0 (32 * m.n)) ∧
    ((writePiece n b none bytes m s).unitOf n b).run = some { m.r with cursor := m.r.cursor + m.n, pc := m.r.pc + 1 } ∧
    ((writePiece n b none bytes m s).unitOf n b).slot m.r.slot = { m.x with resultUsed := m.x.resultUsed + m.n } ∧
    ((writePiece n b none bytes m s).unitOf n b).slots.length = (s.unitOf n b).slots.length ∧
    OtherUnits n b s (writePiece n b none bytes m s) ∧ (writePiece n b none bytes m s).cores = s.cores := by
  obtain ⟨t, written, dram, unit, others, cores⟩ := writeUnits_good bytes may
  rw [writePiece_whole bytes within owned, written]
  have after : (nextWord n b m t).unitOf n b = { advancedUnit m.n m (s.unitOf n b) with
      run := some { m.r with cursor := m.r.cursor + m.n, pc := m.r.pc + 1 } } := by
    rw [nextWord, goWord, unitOf_setRun, unit, advancedUnit, runs]
    rfl
  refine ⟨dram, by rw [after], ?_, ?_, others.trans (otherUnits_setRun n b _ t), cores⟩
  · rw [after, slot]
    exact nth_setNth_same _ _ inside
  · rw [after]
    exact length_setNth ..

/-- The words before the one that fails parity are written, and the command ends. -/
theorem writePiece_stops {i : Nat} (small : i < m.n) (may : CanWrite n b i m s) :
    (writePiece n b (some i) bytes m s).mem.dram
        = memPutBytes s.mem.dram (bankBase n b + 32 * m.r.cursor) (slice bytes 0 (32 * i)) ∧
    ((writePiece n b (some i) bytes m s).unitOf n b).run = none ∧
    (((writePiece n b (some i) bytes m s).unitOf n b).slot m.r.slot).state = 5 ∧
    (((writePiece n b (some i) bytes m s).unitOf n b).slot m.r.slot).cause = 5 := by
  obtain ⟨t, written, dram, unit, -, -⟩ := writeUnits_good bytes may
  rw [writePiece_parity bytes within owned small, written]
  have running : (t.unitOf n b).run = some { m.r with cursor := m.r.cursor + i } := by
    rw [unit, advancedUnit, runs]
    rfl
  have length : (t.unitOf n b).slots.length = (s.unitOf n b).slots.length := by
    rw [unit]
    exact length_setNth ..
  obtain ⟨ended, state, cause, mem⟩ := bufferParity_unit running (by rw [length]; exact inside)
  exact ⟨(congrArg MemBlk.dram mem).trans dram, ended, state, cause⟩

end WritePiece

/-! ## OUT -/

section Out
variable {s : State} {n b : Nat} {m : Micro}

theorem microOut_eq (n b : Nat) (parity : Option Nat) (m : Micro) (s : State) : microOut n b parity m s =
    if m.outBytes.2 && decide (((writePiece n b parity m.outBytes.1 m s).unitOf n b).run.map (fun r => r.cursor)
        ≠ some m.r.cursor) && ((writePiece n b parity m.outBytes.1 m s).unitOf n b).run.isSome then
      setSlot n b m.r.slot (fun x => { x with nan := true }) (writePiece n b parity m.outBytes.1 m s)
    else writePiece n b parity m.outBytes.1 m s := rfl

/-- OUT notes nothing where the piece leaves the cursor or ends the command. -/
theorem microOut_plain {parity : Option Nat}
    (still : m.outBytes.2 = false ∨ ((writePiece n b parity m.outBytes.1 m s).unitOf n b).run = none ∨
      ((writePiece n b parity m.outBytes.1 m s).unitOf n b).run.map (fun r => r.cursor) = some m.r.cursor) :
    microOut n b parity m s = writePiece n b parity m.outBytes.1 m s := by
  rw [microOut_eq]
  refine if_neg fun notes => ?_
  obtain ⟨first, some_⟩ := Bool.and_eq_true_iff.1 notes
  obtain ⟨nan, moved⟩ := Bool.and_eq_true_iff.1 first
  rcases still with none_ | ended | stays
  · exact absurd (none_.symm.trans nan) (by decide)
  · rw [ended] at some_
    exact absurd some_ (by decide)
  · exact of_decide_eq_true moved stays

theorem microOut_nan {parity : Option Nat} {r : BankRun} (nan : m.outBytes.2 = true)
    (run : ((writePiece n b parity m.outBytes.1 m s).unitOf n b).run = some r) (moved : r.cursor ≠ m.r.cursor) :
    microOut n b parity m s
      = setSlot n b m.r.slot (fun x => { x with nan := true }) (writePiece n b parity m.outBytes.1 m s) := by
  rw [microOut_eq]
  refine if_pos ?_
  have other : some r.cursor ≠ some m.r.cursor := fun same => moved (Option.some.inj same)
  rw [nan, run, Option.map_some, decide_eq_true other]
  rfl

end Out

/-! ## The obligation -/

/-- The words that a window leaves to the device's own work. -/
theorem pieceOwned_of_all {s : State} {n b : Nat} {m : Micro}
    (all : ∀ i < m.n, ∀ w, s.windowOf (bankBase n b + 32 * m.r.cursor + 32 * i) = some w → w.workOwned = true) :
    PieceOwned n b m s := by
  refine List.any_eq_false.2 fun i small => ?_
  cases window : s.windowOf (bankBase n b + 32 * m.r.cursor + 32 * i) with
  | none => exact Bool.false_ne_true
  | some w =>
    show ¬ (!w.workOwned) = true
    rw [all i (List.mem_range.1 small) w window]
    decide

/-- Settles O39: a read leaves the units as they are and its bytes to the buffers; a write goes through `writeUnits` to
the words at the cursor; whatever stops either one ends the command that runs. -/
theorem microOpsReadAndWrite : Obligations.MicroOpsReadAndWrite := by
  unfold Obligations.MicroOpsReadAndWrite
  refine ⟨fun s s2 n b m d fl tile bank at_ inBank read => ?_, fun s s2 n b m d fl tile bank at_ op inBank read => ?_,
    fun s s2 n b m d fl tile bank at_ copy inBank read => ?_, fun s n b m p fl tile bank at_ beyond inside => ?_,
    fun s s2 n b m fl tile bank at_ inBank read inside => ?_, fun s s2 n b m d fl tile bank at_ more empty inside read => ?_,
    fun s n b m tile bank at_ within all unlocked open_ path inside => ?_,
    fun s n b m tile bank at_ within all unlocked open_ path inside => ?_,
    fun s n b m p tile bank at_ past inside => ?_, fun s n b m p tile bank at_ past inside => ?_,
    fun s n b i m w p tile bank at_ within small window given inside => ?_,
    fun s n b i m tile bank at_ within small all unlocked open_ path inside => ?_,
    fun s n b i m tile bank at_ within small all unlocked open_ path inside => ?_,
    fun s n b m fl tile bank at_ inBank inside => ?_⟩
  · obtain ⟨s3, units, cores, dram, eq⟩ := fetchPiece_reads (Nat.not_lt.2 inBank) false read
    obtain ⟨mem', cores'⟩ := fetched_leaves n b false m d s3
    have runs : (s3.unitOf n b).run = some m.r := by rw [unitOf_congr n b units, run_of_microAt at_]
    refine ⟨_, (onUnit_runs ⟨tile, bank⟩).trans (congrArg _ ((micro_runs at_ _).trans eq)), run_fetched_plain runs d rfl,
      (otherUnits_of_bnk units).trans (otherUnits_fetched n b false m d s3), fun none_ => ?_, cores'.trans cores⟩
    rw [mem', dram none_]
  · obtain ⟨s3, units, cores, dram, eq⟩ := fetchPiece_reads (Nat.not_lt.2 inBank) true read
    obtain ⟨mem', cores'⟩ := fetched_leaves n b true m d s3
    have runs : (s3.unitOf n b).run = some m.r := by rw [unitOf_congr n b units, run_of_microAt at_]
    refine ⟨_, (onUnit_runs ⟨tile, bank⟩).trans (congrArg _ ((micro_runs at_ _).trans eq)), run_fetched_combined runs d op,
      (otherUnits_of_bnk units).trans (otherUnits_fetched n b true m d s3), fun none_ => ?_, cores'.trans cores⟩
    rw [mem', dram none_]
  · obtain ⟨s3, units, cores, dram, eq⟩ := fetchPiece_reads (Nat.not_lt.2 inBank) true read
    obtain ⟨mem', cores'⟩ := fetched_leaves n b true m d s3
    have runs : (s3.unitOf n b).run = some m.r := by rw [unitOf_congr n b units, run_of_microAt at_]
    refine ⟨_, (onUnit_runs ⟨tile, bank⟩).trans (congrArg _ ((micro_runs at_ _).trans eq)), run_fetched_plain runs d ?_,
      (otherUnits_of_bnk units).trans (otherUnits_fetched n b true m d s3), fun none_ => ?_, cores'.trans cores⟩
    · rw [copy]; rfl
    · rw [mem', dram none_]
  · have runs := run_of_microAt at_
    obtain ⟨ended, slot⟩ := endRun_unit runs inside 1
    refine ⟨_, (onUnit_runs ⟨tile, bank⟩).trans (congrArg _ ((micro_runs at_ _).trans (fetchPiece_beyond false p beyond))),
      ended, by rw [slot]; rfl, by rw [slot]; rfl, endRun_mem runs 1⟩
  · obtain ⟨units, -, -, -⟩ := bankRead_leaves read
    have runs : (s2.unitOf n b).run = some m.r := by rw [unitOf_congr n b units, run_of_microAt at_]
    obtain ⟨ended, slot⟩ := endRun_unit runs (by rw [unitOf_congr n b units]; exact inside) 4
    exact ⟨endRun n b 4 s2, (onUnit_runs ⟨tile, bank⟩).trans (congrArg _ ((micro_runs at_ _).trans
        ((fetchPiece_unspoiled (Nat.not_lt.2 inBank) false).trans (bankRead_error _ read)))), ended, by rw [slot]; rfl, by rw [slot]; rfl⟩
  · obtain ⟨units, cores, dram, -⟩ := bankRead_leaves read
    have runs : (s2.unitOf n b).run = some m.r := by rw [unitOf_congr n b units, run_of_microAt at_]
    have takes : microNext n b false fl m s = takeEntry n b m d s2 := by
      rw [microNext, if_neg more, if_neg Bool.false_ne_true, if_pos empty, bankRead_data _ read]
    refine ⟨_, (onUnit_runs ⟨tile, bank⟩).trans (congrArg _ ((micro_runs at_ _).trans takes)), ?_, dram, cores⟩
    rw [unitOf_takeEntry runs]
    rfl
  · have owned : PieceOwned n b m s := pieceOwned_of_all fun i small w window => by
      have own := List.all_eq_true.1 all i (List.mem_range.2 small)
      rw [window] at own
      exact own
    obtain ⟨dram, run, slot, -, others, cores⟩ := writePiece_done (m.r.rowBytes (32 * m.n)) within owned
      (run_of_microAt at_) inside ⟨unlocked, open_, path⟩ (standing_of_microAt at_).2
    exact ⟨_, (onUnit_runs ⟨tile, bank⟩).trans (congrArg _ (micro_runs at_ _)), dram, run, by rw [slot], others, cores⟩
  · have owned : PieceOwned n b m s := pieceOwned_of_all fun i small w window => by
      have own := List.all_eq_true.1 all i (List.mem_range.2 small)
      rw [window] at own
      exact own
    obtain ⟨dram, run, slot, length, others, cores⟩ := writePiece_done m.outBytes.1 within owned
      (run_of_microAt at_) inside ⟨unlocked, open_, path⟩ (standing_of_microAt at_).2
    refine ⟨_, (onUnit_runs ⟨tile, bank⟩).trans (congrArg _ (micro_runs at_ _)), ?_⟩
    by_cases notes : m.outBytes.2 = true ∧ 0 < m.n
    · obtain ⟨nan, some_⟩ := notes
      have moved : m.r.cursor + m.n ≠ m.r.cursor := by omega
      rw [microOut_nan nan run moved]
      refine ⟨dram, by rw [unitOf_setSlot]; exact run, fun _ => ?_, others.trans (otherUnits_setSlot n b _ _ _), cores⟩
      rw [unitOf_setSlot, BankUnit.slot, nth_setNth_same _ _ (by rw [length]; exact inside), nan, Bool.or_true]
    · have still : m.outBytes.2 = false ∨ ((writePiece n b none m.outBytes.1 m s).unitOf n b).run = none ∨
          ((writePiece n b none m.outBytes.1 m s).unitOf n b).run.map (fun r => r.cursor) = some m.r.cursor := by
        by_cases nan : m.outBytes.2 = true
        · have zero : m.n = 0 := by
            exact Nat.eq_zero_of_not_pos fun some_ => notes ⟨nan, some_⟩
          have stays : m.r.cursor + m.n = m.r.cursor := by omega
          refine .inr (.inr ?_)
          rw [run]
          exact congrArg some stays
        · exact .inl (Bool.eq_false_iff.2 nan)
      rw [microOut_plain still]
      refine ⟨dram, run, fun some_ => ?_, others, cores⟩
      have clean : m.outBytes.2 = false := Bool.eq_false_iff.2 fun nan => notes ⟨nan, some_⟩
      rw [slot, clean, Bool.or_false]
  · have runs := run_of_microAt at_
    obtain ⟨ended, slot⟩ := endRun_unit runs inside 2
    have piece := writePiece_past (n := n) (b := b) (s := s) m.outBytes.1 p past
    have plain : microOut n b p m s = endRun n b 2 s :=
      (microOut_plain (.inr (.inl (by rw [piece]; exact ended)))).trans piece
    exact ⟨_, (onUnit_runs ⟨tile, bank⟩).trans (congrArg _ ((micro_runs at_ _).trans plain)),
      ended, by rw [slot]; rfl, by rw [slot]; rfl, endRun_mem runs 2⟩
  · have runs := run_of_microAt at_
    obtain ⟨ended, slot⟩ := endRun_unit runs inside 2
    exact ⟨_, (onUnit_runs ⟨tile, bank⟩).trans (congrArg _ ((micro_runs at_ _).trans (writePiece_past _ p past))),
      ended, by rw [slot]; rfl, by rw [slot]; rfl, endRun_mem runs 2⟩
  · have runs := run_of_microAt at_
    obtain ⟨ended, slot⟩ := endRun_unit runs inside 3
    exact ⟨_, (onUnit_runs ⟨tile, bank⟩).trans (congrArg _ ((micro_runs at_ _).trans
        (writePiece_given _ within p small window given))),
      ended, by rw [slot]; rfl, by rw [slot]; rfl, endRun_mem runs 3⟩
  · have owned : PieceOwned n b m s := pieceOwned_of_all fun i small w window => by
      have own := List.all_eq_true.1 all i (List.mem_range.2 small)
      rw [window] at own
      exact own
    exact ⟨_, (onUnit_runs ⟨tile, bank⟩).trans (congrArg _ (micro_runs at_ _)),
      writePiece_stops _ within owned (run_of_microAt at_) inside small ⟨unlocked, open_, path⟩⟩
  · have owned : PieceOwned n b m s := pieceOwned_of_all fun i small w window => by
      have own := List.all_eq_true.1 all i (List.mem_range.2 small)
      rw [window] at own
      exact own
    have stops := writePiece_stops m.outBytes.1 within owned (run_of_microAt at_) inside small ⟨unlocked, open_, path⟩
    have plain : microOut n b (some i) m s = writePiece n b (some i) m.outBytes.1 m s :=
      microOut_plain (.inr (.inl stops.2.1))
    exact ⟨_, (onUnit_runs ⟨tile, bank⟩).trans (congrArg _ ((micro_runs at_ _).trans plain)), stops⟩
  · exact ⟨_, (onUnit_runs ⟨tile, bank⟩).trans (congrArg _ ((micro_runs at_ _).trans (fetchPiece_parity (Nat.not_lt.2 inBank) false))),
      bufferParity_unit (run_of_microAt at_) inside⟩

end Sys2Proof.Proofs
end


section
/-! The start of a bank command and what stops it (R152, R156, R166, R168, R442). -/
namespace Sys2Proof.Proofs
set_option Elab.async false
open Sys2Proof.Machine Sys2Proof.Laws

/-! ## One unit alone changes -/

/-- Nothing but one bank unit has changed. -/
structure OnlyUnit (n b : Nat) (s t : State) : Prop where
  others : OtherUnits n b s t
  frame : t = { s with bnk := { s.bnk with units := t.bnk.units } }

theorem OnlyUnit.refl (n b : Nat) (s : State) : OnlyUnit n b s s := ⟨fun _ _ => rfl, rfl⟩

/-- A state with other units, and that with one of them changed. -/
theorem setUnit_withUnits (n b : Nat) (f : BankUnit → BankUnit) (units : SMap BankUnit) (s : State) :
    setUnit n b f { s with bnk := { s.bnk with units := units } }
      = { s with bnk := { s.bnk with units := mapMod bankUnit0 units (n * 32 + b) f } } := rfl

theorem OnlyUnit.setUnit {n b : Nat} {s t : State} (only : OnlyUnit n b s t) (f : BankUnit → BankUnit) :
    OnlyUnit n b s (setUnit n b f t) := by
  refine ⟨only.others.trans (otherUnits_setUnit n b f t), ?_⟩
  rw [only.frame, setUnit_withUnits]

theorem OnlyUnit.blocks {n b : Nat} {s t : State} (only : OnlyUnit n b s t) :
    t.mem = s.mem ∧ t.cores = s.cores ∧ t.frm = s.frm := by
  rw [only.frame]
  exact ⟨rfl, rfl, rfl⟩

/-- The same commands wait, run and have yielded. -/
structure SameCommands (u v : BankUnit) : Prop where
  slots : v.slots = u.slots
  order : v.order = u.order
  run : v.run = u.run
  yielded : v.yielded = u.yielded

theorem slotCause_of_onlyUnit {n b : Nat} {s t : State} (only : OnlyUnit n b s t) (x : Slot) :
    t.slotCause x = s.slotCause x := by
  rw [only.frame]
  rfl

/-! ## Before a command starts -/

theorem noteParity_only {n b : Nat} {s t : State} (only : OnlyUnit n b s t)
    (same : SameCommands (s.unitOf n b) (t.unitOf n b)) :
    OnlyUnit n b s (noteParity n b t) ∧ SameCommands (s.unitOf n b) ((noteParity n b t).unitOf n b) := by
  refine ⟨only.setUnit _, ?_⟩
  rw [noteParity, setUnit_unitOf_same]
  exact ⟨same.slots, same.order, same.run, same.yielded⟩

theorem foldl_noteParity {n b : Nat} {s : State} (buffers : List Nat) : ∀ {t : State}, OnlyUnit n b s t →
    SameCommands (s.unitOf n b) (t.unitOf n b) →
    OnlyUnit n b s (buffers.foldl (fun t _ => noteParity n b t) t) ∧
      SameCommands (s.unitOf n b) ((buffers.foldl (fun t _ => noteParity n b t) t).unitOf n b) := by
  induction buffers with
  | nil => exact fun only same => ⟨only, same⟩
  | cons _ rest ih => exact fun only same => ih (noteParity_only only same).1 (noteParity_only only same).2

/-- R166: errors found in idle buffers leave the commands as they are. -/
theorem idleParity_only (n b : Nat) (buffers : List Nat) (s : State) :
    OnlyUnit n b s (idleParity n b buffers s) ∧ SameCommands (s.unitOf n b) ((idleParity n b buffers s).unitOf n b) := by
  unfold idleParity
  split
  · exact ⟨.refl n b s, ⟨rfl, rfl, rfl, rfl⟩⟩
  · obtain ⟨only, same⟩ := foldl_noteParity buffers (OnlyUnit.refl n b s) ⟨rfl, rfl, rfl, rfl⟩
    refine ⟨only.setUnit _, ?_⟩
    rw [setUnit_unitOf_same]
    exact ⟨same.slots, same.order, same.run, same.yielded⟩

/-- The state in which the next command is picked. -/
def readied (n b : Nat) (idle : List Nat) (s : State) : State := yieldRun n b (idleParity n b idle s)

theorem readied_only (n b : Nat) (idle : List Nat) (s : State) : OnlyUnit n b s (readied n b idle s) :=
  (idleParity_only n b idle s).1.setUnit _

theorem readied_idle {n b : Nat} (idle : List Nat) {s : State} (none_ : (s.unitOf n b).run = none) :
    SameCommands (s.unitOf n b) ((readied n b idle s).unitOf n b) := by
  obtain ⟨-, same⟩ := idleParity_only n b idle s
  have stays : (readied n b idle s).unitOf n b = (idleParity n b idle s).unitOf n b := by
    rw [readied, yieldRun, setUnit_unitOf_same]
    simp only [same.run, none_]
  rw [stays]
  exact same

/-- R152: a host command that runs yields to a core command that waits. -/
theorem readied_yields {n b i : Nat} {r : BankRun} (idle : List Nat) {s : State} (runs : (s.unitOf n b).run = some r)
    (host : 6 ≤ r.slot) (waits : (s.unitOf n b).order.find? (fun i => decide (i < 6)) = some i) :
    (readied n b idle s).unitOf n b = { (s.unitOf n b) with
      run := none
      yielded := (s.unitOf n b).yielded ++ [{ r with ranTc := r.ranTc + (s.frm.tc - r.sinceTc) }] } := by
  have busy : idleParity n b idle s = s := if_pos (by rw [runs]; rfl)
  have core : (s.unitOf n b).coreWaits = true :=
    List.any_eq_true.2 ⟨i, List.mem_of_find?_eq_some waits, List.find?_some (p := fun i => decide (i < 6)) waits⟩
  have yields : (decide (6 ≤ r.slot) && (s.unitOf n b).coreWaits) = true := by rw [decide_eq_true host, core]; rfl
  rw [readied, busy, yieldRun, setUnit_unitOf_same]
  simp only [runs, yields, if_true]

/-- What the unit takes of the commands that wait. -/
def takeNext (n b : Nat) (s : State) : State :=
  if (s.unitOf n b).run.isSome then s
  else match (s.unitOf n b).order.find? (fun i => decide (i < 6)), (s.unitOf n b).yielded, (s.unitOf n b).order with
    | some i, _, _ => startSlot n b i s
    | none, r :: t, _ => setUnit n b (fun u => { u with run := some { r with sinceTc := s.frm.tc }, yielded := t }) s
    | none, [], i :: _ => startSlot n b i s
    | none, [], [] => s

theorem doBankCommandStart_live {n b : Nat} {idle : List Nat} {s : State} (live : s.bankLive n b = true) :
    doBankCommandStart n b idle s = takeNext n b (readied n b idle s) := by
  refine (if_neg ?_).trans rfl
  rw [live]
  decide

/-- Slot `i` is the one a unit takes. -/
def TakesSlot (u : BankUnit) (i : Nat) : Prop :=
  u.order.find? (fun i => decide (i < 6)) = some i ∨
    (u.order.find? (fun i => decide (i < 6)) = none ∧ u.yielded = [] ∧ u.order.head? = some i)

theorem takeNext_starts {n b i : Nat} {s : State} (none_ : (s.unitOf n b).run = none) (next_ : TakesSlot (s.unitOf n b) i) :
    takeNext n b s = startSlot n b i s := by
  have free : ¬ (s.unitOf n b).run.isSome = true := by rw [none_]; decide
  refine (if_neg free).trans ?_
  rcases next_ with core | ⟨noCore, noYielded, head⟩
  · rw [core]
  · obtain ⟨rest, order⟩ := List.head?_eq_some_iff.1 head
    rw [noCore, noYielded, order]

/-! ## A command starts -/

/-- The run of a command that starts. -/
def firstRun (i key tc : Nat) (x : Slot) : BankRun :=
  { slot := i, pc := x.entry, remaining := x.countM1 + 1, cursor := x.resultOff, sinceTc := tc, key := key }

/-- A queued command whose fields are in order starts. -/
def started (n b i : Nat) (s : State) : State :=
  slotState n b i 2 0 (setUnit n b (fun u =>
      { u with run := some ((firstRun i s.fresh s.frm.tc ((s.unitOf n b).slot i)).cleared u.unclean), unclean := [] })
    { setUnit n b (fun u => { u with order := u.order.filter (fun k => decide (k ≠ i)) }) s with fresh := s.fresh + 2 })

/-- The command leaves the queue of its unit. -/
def unqueued (n b i : Nat) (s : State) : State :=
  setUnit n b (fun u => { u with order := u.order.filter (fun k => decide (k ≠ i)) }) s

theorem startSlot_eq (n b i : Nat) (s : State) : startSlot n b i s =
    if (unqueued n b i s).slotCause ((s.unitOf n b).slot i) ≠ 0 then
      endSlot n b i ((unqueued n b i s).slotCause ((s.unitOf n b).slot i)) (unqueued n b i s)
    else started n b i s := rfl

theorem unqueued_only (n b i : Nat) (s : State) : OnlyUnit n b s (unqueued n b i s) := (OnlyUnit.refl n b s).setUnit _

theorem unitOf_unqueued (n b i : Nat) (s : State) : (unqueued n b i s).unitOf n b =
    { (s.unitOf n b) with order := (s.unitOf n b).order.filter (fun k => decide (k ≠ i)) } := setUnit_unitOf_same ..

theorem unitOf_fresh (n b k : Nat) (s : State) : State.unitOf { s with fresh := k } n b = s.unitOf n b := rfl

theorem unitOf_started (n b i : Nat) (s : State) : (started n b i s).unitOf n b = { (s.unitOf n b) with
    order := (s.unitOf n b).order.filter (fun k => decide (k ≠ i))
    run := some ((firstRun i s.fresh s.frm.tc ((s.unitOf n b).slot i)).cleared (s.unitOf n b).unclean)
    unclean := []
    slots := setNth (s.unitOf n b).slots i { ((s.unitOf n b).slot i) with state := 2, cause := 0, changedTc := s.frm.tc } } := by
  rw [started, slotState, unitOf_setSlot, setUnit_unitOf_same, unitOf_fresh, setUnit_unitOf_same]
  rfl

theorem otherUnits_started (n b i : Nat) (s : State) : OtherUnits n b s (started n b i s) := by
  intro k ne
  rw [started, slotState, otherUnits_setSlot n b i _ _ k ne, otherUnits_setUnit n b _ _ k ne]
  exact otherUnits_setUnit n b _ s k ne

theorem started_leaves (n b i : Nat) (s : State) : (started n b i s).mem = s.mem ∧ (started n b i s).cores = s.cores :=
  ⟨rfl, rfl⟩

section Start
variable {s z : State} {n b i : Nat} (only : OnlyUnit n b s z)
include only

theorem startSlot_runs (good : s.slotCause ((z.unitOf n b).slot i) = 0) : startSlot n b i z = started n b i z := by
  rw [startSlot_eq, slotCause_of_onlyUnit (unqueued_only n b i z), slotCause_of_onlyUnit only, good]
  exact if_neg (fun wrong => wrong rfl)

theorem startSlot_refused (bad : s.slotCause ((z.unitOf n b).slot i) ≠ 0) :
    startSlot n b i z = endSlot n b i (s.slotCause ((z.unitOf n b).slot i)) (unqueued n b i z) := by
  rw [startSlot_eq, slotCause_of_onlyUnit (unqueued_only n b i z), slotCause_of_onlyUnit only]
  exact if_pos bad

end Start

/-- R442: whatever refuses a command's fields counts as a refusal. -/
theorem slotCause_refuses (s : State) (x : Slot) : s.slotCause x ≠ 0 → causeState (s.slotCause x) = 4 := by
  unfold State.slotCause
  split
  · exact fun _ => rfl
  · split
    · exact fun _ => rfl
    · split
      · exact fun _ => rfl
      · exact fun wrong => absurd rfl wrong

/-! ## The bank is fenced -/

theorem run_endSlot (n b i cause : Nat) (s : State) :
    ((endSlot n b i cause s).unitOf n b).run = (s.unitOf n b).run.filter (fun r => decide (r.slot ≠ i)) := by
  rw [endSlot_eq, unitOf_congr n b (tellCore_bnk _ _ _ _), closeSlot, unitOf_setSlot, setUnit_unitOf_same, unitOf_countEnd,
    slotState, unitOf_setSlot]
  cases (s.unitOf n b).run with
  | none => rfl
  | some r =>
    by_cases here : r.slot = i
    · simp [here, Option.filter]
    · simp [here, Option.filter]

theorem run_endSlots (n b cause : Nat) (l : List Nat) : ∀ s : State,
    ((endSlots n b cause l s).unitOf n b).run = (s.unitOf n b).run.filter (fun r => decide (r.slot ∉ l)) := by
  induction l with
  | nil =>
    intro s
    rw [endSlots]
    cases (s.unitOf n b).run <;> simp [Option.filter]
  | cons i rest ih =>
    intro s
    rw [endSlots, ih, run_endSlot, Option.filter_filter]
    refine congrArg (fun p => (s.unitOf n b).run.filter p) (funext fun r => ?_)
    rw [Bool.eq_iff_iff]
    simp only [Bool.and_eq_true, decide_eq_true_eq, List.mem_cons, not_or]

/-- R168: no command of a fenced bank runs on. -/
theorem run_failBank {n b : Nat} {s : State}
    (known : (s.unitOf n b).run.all (fun r => decide (r.slot < 8) && !((s.unitOf n b).slot r.slot).free) = true) :
    ((failBank n b s).unitOf n b).run = none := by
  rw [failBank, run_endSlots]
  cases run : (s.unitOf n b).run with
  | none => rfl
  | some r =>
    rw [run, Option.all_some, Bool.and_eq_true, decide_eq_true_eq] at known
    refine Option.filter_eq_none_iff.2 fun r' same => ?_
    cases same
    have busy : r.slot ∈ (s.unitOf n b).busySlots (fun _ _ => true) :=
      List.mem_filter.2 ⟨List.mem_range.2 known.1, by rw [known.2]; rfl⟩
    rw [decide_eq_true_eq]
    exact not_not_intro busy

/-- One unit that is not fenced yet is fenced: its entry takes the fence with its cause. -/
theorem fence_fenceUnits_one (cause : Nat) {f : FenceItem} {s : State} (kind : f.kind ≠ 5)
    (open_ : s.fencedAlready f = false) :
    (fenceUnits cause [f] s).fence f.unit = (s.fence f.unit).fenced cause f := by
  have fresh : [f].filter (fun f => !s.fencedAlready f) = [f] :=
    (List.filter_cons_of_pos (p := fun f => !s.fencedAlready f) (l := []) (by rw [open_]; rfl)).trans rfl
  have tables := (fenceUnits_tables cause [f] s).1
  rw [fresh, List.foldl_cons, List.foldl_nil, takeFence, if_neg kind] at tables
  exact (congrArg (fun l => mapGet coreFence0 l f.unit) tables).trans
    (mapGet_mapMod_same coreFence0 s.flp.cores f.unit (fun e => e.fenced cause f))

theorem fence_congr {s t : State} (same : t.flp = s.flp) (n : Nat) : t.fence n = s.fence n := by
  rw [State.fence, same]
  rfl

theorem bankFenced_congr {s t : State} {n : Nat} (same : t.fence n = s.fence n) (b : Nat) :
    t.bankFenced n b = s.bankFenced n b := by
  rw [State.bankFenced, State.bankFenced, same]

/-- A bank that is in service is fenced with a cause, and its commands end. -/
theorem fenceBank_effect {n b : Nat} (cause : Nat) {s : State} (service : s.bankFenced n b = false)
    (known : (s.unitOf n b).run.all (fun r => decide (r.slot < 8) && !((s.unitOf n b).slot r.slot).free) = true) :
    (fenceBank n b cause s).bankFenced n b = true ∧ ((fenceBank n b cause s).fence n).tileCause = cause ∧
    ((fenceBank n b cause s).unitOf n b).run = none ∧ (fenceBank n b cause s).mem = s.mem := by
  have free : false = false := rfl
  have fenced : Keeps (Untouched.allBut [.reports, .flp, .dbg, .dev, .frm]) s
      (fenceUnits cause [{ kind := 4, unit := n, sub := b }] s) := fenceUnits_keeps cause _ s (Keeps.refl s)
  have failed : Keeps (Untouched.allBut [.reports, .frm, .cores, .bnk])
      (fenceUnits cause [{ kind := 4, unit := n, sub := b }] s) (fenceBank n b cause s) :=
    failBank_keeps n b _ (Keeps.refl _)
  have clear : s.fencedAlready { kind := 4, unit := n, sub := b } = false := (Bool.or_eq_false_iff.1 service).2
  have entry : (fenceBank n b cause s).fence n = (s.fence n).fenced cause { kind := 4, unit := n, sub := b } :=
    (fence_congr (failed.flp rfl) n).trans
      (fence_fenceUnits_one cause (f := { kind := 4, unit := n, sub := b }) (fun (five : 4 = 5) => absurd five (by decide)) clear)
  have unit : (fenceUnits cause [{ kind := 4, unit := n, sub := b }] s).unitOf n b = s.unitOf n b :=
    unitOf_congr n b (fenced.bnk rfl)
  refine ⟨?_, by rw [entry]; rfl, run_failBank (by rw [unit]; exact known),
    (mem_of_keeps failed rfl rfl).trans (mem_of_keeps fenced rfl rfl)⟩
  have bit_ : bit ((s.fence n).banks ||| 2 ^ b) b = true := by
    rw [bit_eq_testBit, Nat.testBit_or, Nat.testBit_two_pow_self, Bool.or_true]
  rw [State.bankFenced, entry]
  exact Bool.or_eq_true_iff.2 (.inr bit_)

theorem service_of_live {s : State} {n b : Nat} (live : s.bankLive n b = true) : s.bankFenced n b = false := by
  rw [State.bankLive, Bool.and_eq_true, Bool.not_eq_true'] at live
  exact live.2

/-! ## The obligation -/

/-- Settles O40: a start first notes idle parity and lets a host command yield, then picks by `TakesSlot`; what stops a command
is `endRun` with its cause, and a fenced bank ends every command that its slots hold. -/
theorem bankCommandsStartAndEnd : Obligations.BankCommandsStartAndEnd := by
  unfold Obligations.BankCommandsStartAndEnd
  refine ⟨?_, ?_, ?_, ?_, ?_, ?_, ?_, ?_, ?_⟩
  · rintro s n b i u idle tile bank live rfl none_ next_ inside good
    have only := readied_only n b idle s
    have same := readied_idle idle none_
    have slot : ((readied n b idle s).unitOf n b).slot i = (s.unitOf n b).slot i := by
      rw [BankUnit.slot, same.slots]; rfl
    have next' : TakesSlot ((readied n b idle s).unitOf n b) i := by rw [TakesSlot, same.order, same.yielded]; exact next_
    have runs : doBankCommandStart n b idle s = started n b i (readied n b idle s) := by
      rw [doBankCommandStart_live live, takeNext_starts (same.run.trans none_) next',
        startSlot_runs only (by rw [slot]; exact good)]
    obtain ⟨mem, cores⟩ := started_leaves n b i (readied n b idle s)
    refine ⟨_, (onUnit_runs ⟨tile, bank⟩).trans (congrArg _ runs), ?_, ?_, ?_,
      only.others.trans (otherUnits_started n b i _), mem.trans only.blocks.1,
      cores.trans only.blocks.2.1⟩
    · rw [unitOf_started, slot]
      rfl
    · rw [unitOf_started]
      exact congrArg Slot.state (nth_setNth_same _ _ (by rw [same.slots]; exact inside))
    · rw [unitOf_started, same.order]
  · rintro s n b i u idle tile bank live rfl none_ next_ inside bad
    have only := readied_only n b idle s
    have same := readied_idle idle none_
    have slot : ((readied n b idle s).unitOf n b).slot i = (s.unitOf n b).slot i := by
      rw [BankUnit.slot, same.slots]; rfl
    have next' : TakesSlot ((readied n b idle s).unitOf n b) i := by rw [TakesSlot, same.order, same.yielded]; exact next_
    have runs : doBankCommandStart n b idle s
        = endSlot n b i (s.slotCause ((s.unitOf n b).slot i)) (unqueued n b i (readied n b idle s)) := by
      rw [doBankCommandStart_live live, takeNext_starts (same.run.trans none_) next',
        startSlot_refused only (by rw [slot]; exact bad), slot]
    have length : i < ((unqueued n b i (readied n b idle s)).unitOf n b).slots.length := by
      rw [unitOf_unqueued, same.slots]; exact inside
    have unit := unitOf_endSlot (cause := s.slotCause ((s.unitOf n b).slot i)) length
    refine ⟨_, (onUnit_runs ⟨tile, bank⟩).trans (congrArg _ runs), ?_, ?_, ?_, ?_, ?_⟩
    · rw [unit, unitOf_unqueued]
      simp only [endedUnit, same.run, none_]
    · rw [unit]
      exact congrArg Slot.state (nth_setNth_same _ _ length)
    · rw [unit]
      exact congrArg Slot.cause (nth_setNth_same _ _ length)
    · rw [(endSlot_totals ..).2, slotCause_refuses _ _ bad, (unqueued_only n b i _).frame, only.frame]
      rfl
    · rw [endSlot_mem, (unqueued_only n b i _).frame, only.frame]
  · rintro s n b u r rest idle tile bank live rfl none_ noCore yielded
    have only := readied_only n b idle s
    have same := readied_idle idle none_
    have free : ¬ ((readied n b idle s).unitOf n b).run.isSome = true := by rw [same.run, none_]; decide
    have tc : (readied n b idle s).frm.tc = s.frm.tc := congrArg FrmBlk.tc only.blocks.2.2
    have runs : doBankCommandStart n b idle s
        = setUnit n b (fun u => { u with run := some { r with sinceTc := s.frm.tc }, yielded := rest }) (readied n b idle s) := by
      rw [doBankCommandStart_live live]
      refine (if_neg free).trans ?_
      rw [same.order, same.yielded, noCore, yielded, ← tc]
    have all := only.setUnit (fun u => { u with run := some { r with sinceTc := s.frm.tc }, yielded := rest })
    refine ⟨_, (onUnit_runs ⟨tile, bank⟩).trans (congrArg _ runs), ?_, ?_, ?_, all.others, all.blocks.1,
      all.blocks.2.1⟩
    · rw [setUnit_unitOf_same]
    · rw [setUnit_unitOf_same]
    · rw [setUnit_unitOf_same]
      exact same.slots
  · rintro s n b i u r idle tile bank live rfl run host waits inside good
    have only := readied_only n b idle s
    have unit := readied_yields idle run host waits
    have slot : ((readied n b idle s).unitOf n b).slot i = (s.unitOf n b).slot i := by rw [unit]; rfl
    have runs : doBankCommandStart n b idle s = started n b i (readied n b idle s) := by
      rw [doBankCommandStart_live live, takeNext_starts (i := i) (by rw [unit]) (by rw [unit]; exact .inl waits),
        startSlot_runs only (by rw [slot]; exact good)]
    obtain ⟨mem, cores⟩ := started_leaves n b i (readied n b idle s)
    refine ⟨_, (onUnit_runs ⟨tile, bank⟩).trans (congrArg _ runs), ?_, ?_,
      only.others.trans (otherUnits_started n b i _), mem.trans only.blocks.1,
      cores.trans only.blocks.2.1⟩
    · rw [unitOf_started]
      rfl
    · rw [unitOf_started, unit]
  · intro s n b r tile bank ready reserved inside
    have runs := run_of_microRun ready
    obtain ⟨ended, slot⟩ := endRun_unit runs inside 7
    have stops : doReservedMicroOp n b s = endRun n b 7 s := by
      rw [doReservedMicroOp, ready]
      rcases reserved with unloaded | code
      · simp only [unloaded]
      · obtain ⟨w, word, test⟩ := Option.any_eq_true _ _ |>.1 code
        simp only [word, Bool.or_eq_true, decide_eq_true_eq]
        exact if_pos (of_decide_eq_true test)
    exact ⟨_, (onUnit_runs ⟨tile, bank⟩).trans (congrArg _ stops), ended, by rw [slot]; rfl, by rw [slot]; rfl,
      endRun_mem runs 7⟩
  · intro s n b r tile bank live runs inside host late
    obtain ⟨ended, slot⟩ := endRun_unit runs inside 8
    have stops : doHostCommandTimeout n b s = endRun n b 8 s := by
      rw [doHostCommandTimeout, runs]
      refine if_pos ?_
      rw [live, decide_eq_true host]
      exact decide_eq_true late
    exact ⟨_, (onUnit_runs ⟨tile, bank⟩).trans (congrArg _ stops), ended, by rw [slot]; rfl, by rw [slot]; rfl,
      endRun_mem runs 8⟩
  · intro s n b r tile bank runs early
    have waits : doHostCommandTimeout n b s = s := by
      rw [doHostCommandTimeout, runs]
      refine if_neg fun due => ?_
      rw [Bool.and_eq_true, Bool.and_eq_true, decide_eq_true_eq, decide_eq_true_eq] at due
      obtain ⟨⟨-, host⟩, late⟩ := due
      have limit : 100 * tcMs = 100000000 := rfl
      rcases early with core | short
      · exact absurd host (Nat.not_le.2 core)
      · exact absurd (limit ▸ late) (Nat.not_le.2 short)
    exact (onUnit_runs ⟨tile, bank⟩).trans (congrArg _ waits)
  · intro s n b r tile bank live runs small busy
    have goes : (s.bankLive n b && (s.unitOf n b).run.isSome) = true := by rw [live, runs]; rfl
    refine ⟨_, (onUnit_runs ⟨tile, bank⟩).trans (congrArg _ (if_pos goes)),
      fenceBank_effect 4 (service_of_live live) ?_⟩
    rw [runs, Option.all_some, decide_eq_true small, busy]
    rfl
  · intro s n b tile bank live due known
    have goes : (s.bankLive n b && (s.unitOf n b).parityDue) = true := by rw [live, due]; rfl
    exact ⟨_, (onUnit_runs ⟨tile, bank⟩).trans (congrArg _ (if_pos goes)),
      fenceBank_effect 3 (service_of_live live) known⟩

end Sys2Proof.Proofs
end


section
/-! The sequencer of a core: dispatch and completion, WAIT, LOOP and SKIP, and a descriptor's fault (R57, R64 to R69,
R76). -/
namespace Sys2Proof.Proofs
set_option Elab.async false
open Sys2Proof.Machine Sys2Proof.Laws

/-! ## One context changes twice -/

theorem mapPut_mapPut {α : Type} (m : SMap α) (k : Nat) (v w : α) : mapPut (mapPut m k v) k w = mapPut m k w := by
  induction m with
  | nil => simp [mapPut]
  | cons e rest ih =>
    obtain ⟨a, u⟩ := e
    simp only [mapPut]
    by_cases before : k < a
    · simp [before, mapPut]
    · by_cases here : k = a
      · simp [here, mapPut]
      · simp [before, here, mapPut, ih]

theorem mapDel_mapPut {α : Type} (m : SMap α) (k : Nat) (v : α) : mapDel (mapPut m k v) k = mapDel m k := by
  induction m with
  | nil => simp [mapPut, mapDel]
  | cons e rest ih =>
    obtain ⟨a, u⟩ := e
    simp only [mapPut]
    by_cases before : k < a
    · simp [before, mapDel]
    · by_cases here : k = a
      · simp [here, mapDel]
      · have apart : (a != k) = true := by simpa using Ne.symm here
        simp only [before, here, if_false, mapDel, List.filter_cons, apart, if_true]
        exact congrArg _ ih

/-- Two changes of one entry are one, where the first leaves it listed. -/
theorem mapMod_mapMod {α : Type} [DecidableEq α] {d : α} {m : SMap α} {k : Nat} {f : α → α} (g : α → α)
    (listed : f (mapGet d m k) ≠ d) : mapMod d (mapMod d m k f) k g = mapMod d m k (fun x => g (f x)) := by
  have between : mapGet d (mapMod d m k f) k = f (mapGet d m k) := mapGet_mapMod_same ..
  rw [mapMod, between]
  simp only [mapMod, mapSet, listed, if_false]
  split
  · exact mapDel_mapPut ..
  · exact mapPut_mapPut ..

theorem setCtx_setCtx {n k : Nat} {f : Ctx → Ctx} {s : State} (g : Ctx → Ctx) (listed : f (s.ctxOf n k) ≠ ctx0) :
    setCtx n k g (setCtx n k f s) = setCtx n k (fun c => g (f c)) s := by
  have twice := mapMod_mapMod g listed
  rw [setCtx, setCtx, setCtx]
  exact congrArg (fun ctx => { s with cores := { s.cores with ctx := ctx } }) twice

theorem ctx_setCtx_other {n k j : Nat} (f : Ctx → Ctx) (s : State) (ne : j ≠ n * 4 + k) :
    mapGet ctx0 (setCtx n k f s).cores.ctx j = mapGet ctx0 s.cores.ctx j := mapGet_mapMod_other _ _ f ne

/-! ## What the sequencer stands before -/

/-- The descriptor that the sequencer stands before is one of a context that a binding gives its places. -/
theorem bound_of_nextDesc {s : State} {n : Nat} {d : Next} (next_ : s.nextDesc n = some d) :
    (s.ctxOf n d.slot).role1 ≠ 0 ∧ ∃ b, s.bindingOf d.role = some b := by
  unfold State.nextDesc at next_
  extract_lets c k x at next_
  split at next_
  · exact absurd next_ (by simp)
  · split at next_
    · exact absurd next_ (by simp)
    · rename_i holds
      split at next_
      · exact absurd next_ (by simp)
      · rename_i b binding
        cases next_
        refine ⟨fun none_ => holds ?_, b, binding⟩
        rw [show x.role1 = 0 from none_]
        rfl

theorem consumePre_role1 (c : Ctx) (w0 : Nat) : (c.consumePre w0).role1 = c.role1 := by
  unfold Ctx.consumePre
  split <;> rfl

theorem consumePre_loops (c : Ctx) (w0 : Nat) : (c.consumePre w0).loops = c.loops := by
  unfold Ctx.consumePre
  split <;> rfl

theorem consumePre_listed {s : State} {n : Nat} {d : Next} (next_ : s.nextDesc n = some d) :
    (s.ctxOf n d.slot).consumePre d.w0 ≠ ctx0 := by
  intro default
  have role := congrArg Ctx.role1 default
  rw [consumePre_role1] at role
  exact (bound_of_nextDesc next_).1 role

/-! ## A descriptor's fault (R76) -/

/-- The context stops, and its core notes the frame of a parity fault. -/
def stopped (n k code idx : Nat) (s : State) : State :=
  if code = 1 || code = 0x0C then
    setCore n (fun c => if c.faultFrames.head? = some s.frm.count then c
        else { c with faultFrames := (s.frm.count :: c.faultFrames).take 16 })
      (setCtx n k (fun c => { c with stopped := true, fault := code, faultIdx := idx }) s)
  else setCtx n k (fun c => { c with stopped := true, fault := code, faultIdx := idx }) s

/-- One more descriptor has faulted in this frame. -/
def faultCounted (s : State) : State :=
  { s with frm := { s.frm with now := { s.frm.now with faults := s.frm.now.faults + 1 } } }

theorem descFault_eq (n k role idx code : Nat) (s : State) :
    descFault n k role idx code s = raise 0x0021 2 n [role, idx, k, code] (faultCounted (stopped n k code idx s)) := rfl

theorem stopped_ctx (n k code idx : Nat) (s : State) : (stopped n k code idx s).cores.ctx =
    (setCtx n k (fun c => { c with stopped := true, fault := code, faultIdx := idx }) s).cores.ctx := by
  unfold stopped
  split <;> rfl

theorem stopped_leaves (n k code idx : Nat) (s : State) : (stopped n k code idx s).frm = s.frm ∧
    (stopped n k code idx s).mem = s.mem ∧ (stopped n k code idx s).cores.store = s.cores.store := by
  unfold stopped
  split <;> exact ⟨rfl, rfl, rfl⟩

theorem stopped_queue (n k code idx : Nat) (s : State) (m : Nat) :
    ((stopped n k code idx s).coreRec m).queue = (s.coreRec m).queue := by
  unfold stopped
  split
  · by_cases here : m = n
    · rw [here, setCore_coreRec_same]
      split <;> rfl
    · rw [setCore_coreRec_other n _ _ here]
      rfl
  · rfl

theorem ctxOf_congr {s t : State} (same : t.cores.ctx = s.cores.ctx) (n k : Nat) : t.ctxOf n k = s.ctxOf n k := by
  rw [State.ctxOf, same]
  rfl

theorem coreRec_congr {s t : State} (same : t.cores = s.cores) (m : Nat) : t.coreRec m = s.coreRec m := by
  rw [State.coreRec, same]
  rfl

theorem descFault_cores (n k role idx code : Nat) (s : State) :
    (descFault n k role idx code s).cores = (stopped n k code idx s).cores := by
  rw [descFault_eq, raise_cores]
  rfl

/-- Everything a descriptor's fault changes but what its event writes. -/
theorem descFault_effect (n k role idx code : Nat) (s : State) :
    (descFault n k role idx code s).ctxOf n k = { s.ctxOf n k with stopped := true, fault := code, faultIdx := idx } ∧
    (∀ j, j ≠ n * 4 + k → mapGet ctx0 (descFault n k role idx code s).cores.ctx j = mapGet ctx0 s.cores.ctx j) ∧
    (descFault n k role idx code s).frm
      = { s.frm with now := { s.frm.now with faults := s.frm.now.faults + 1 } } ∧
    (∀ m, ((descFault n k role idx code s).coreRec m).queue = (s.coreRec m).queue) ∧
    (descFault n k role idx code s).cores.store = s.cores.store ∧ (descFault n k role idx code s).mem = s.mem := by
  have cores := descFault_cores n k role idx code s
  have ctx := (congrArg CoresBlk.ctx cores).trans (stopped_ctx n k code idx s)
  obtain ⟨frm, mem, store⟩ := stopped_leaves n k code idx s
  refine ⟨?_, fun j ne => ?_, ?_, fun m => ?_, (congrArg CoresBlk.store cores).trans store, ?_⟩
  · rw [ctxOf_congr ctx, setCtx_ctxOf_same]
  · rw [ctx]
    exact ctx_setCtx_other _ s ne
  · rw [descFault_eq, raise_frm, faultCounted, frm]
  · rw [coreRec_congr cores, stopped_queue]
  · rw [descFault_eq, raise_mem]
    exact mem

/-! ## Dispatch and completion (R64, R65) -/

section Dispatch
variable {s : State} {n : Nat} {d : Next}

theorem dispatch_none (parity : Bool) (none_ : s.nextDesc n = none) : doDescriptorDispatch n parity s = s := by
  rw [doDescriptorDispatch, none_]

variable (next_ : s.nextDesc n = some d)
include next_

theorem dispatch_parity : doDescriptorDispatch n true s = descFault n d.slot d.role d.idx 0x0C s := by
  rw [doDescriptorDispatch, next_]
  rfl

theorem dispatch_queue {q : UnitQ} (queue : queueOf d.w0 = some q) :
    doDescriptorDispatch n false s = if (s.coreRec n).waiting q < 8 then pushEntry n d q s else s := by
  simp only [doDescriptorDispatch, next_, queue, Bool.false_eq_true, if_false]

theorem dispatch_nowhere (queue : queueOf d.w0 = none) : doDescriptorDispatch n false s = s := by
  simp only [doDescriptorDispatch, next_, queue, Bool.false_eq_true, if_false]

end Dispatch

theorem signalDesc_silent {w0 : Nat} (n k role idx : Nat) (s : State) (silent : bit w0 36 = false) :
    signalDesc n k role idx w0 s = s := if_neg (Bool.eq_false_iff.1 silent)

theorem signalDesc_full {n k w0 : Nat} {s : State} (role idx : Nat) (signals : bit w0 36 = true)
    (full : (s.ctxOf n k).ctr (field w0 32 4) = 65535) : signalDesc n k role idx w0 s = descFault n k role idx 5 s :=
  (if_pos signals).trans (if_pos full)

theorem signalDesc_counts {n k w0 : Nat} {s : State} (role idx : Nat) (signals : bit w0 36 = true)
    (room : (s.ctxOf n k).ctr (field w0 32 4) ≠ 65535) : signalDesc n k role idx w0 s
      = setCtx n k (fun c => { c with ctrs := setNth c.ctrs (field w0 32 4) (c.ctr (field w0 32 4) + 1) }) s :=
  (if_pos signals).trans (if_neg room)

theorem complete_first {s : State} {n qi : Nat} {e : QEntry} (runs : s.coreRuns n = true)
    (first : (s.coreRec n).queue.find? (fun e => decide (e.q = queueAt qi) && e.done) = some e) :
    doDescriptorComplete n qi s = signalDesc n e.slot e.role e.idx e.w0 (dropEntry n e.uid s) := by
  rw [doDescriptorComplete, first]
  exact if_pos runs

/-- Settles O28: dispatch and completion by what the sequencer stands before and by the first finished entry; a fault
stops its own context and leaves the queues. -/
theorem descriptorsAreDispatched : Obligations.DescriptorsAreDispatched := by
  unfold Obligations.DescriptorsAreDispatched
  refine ⟨fun s n d q there next_ queue room => ?_, fun s n d q there next_ queue full => ?_,
    fun s n d there next_ queue => ?_, fun s n p there none_ => ?_, fun s n d there next_ => ?_,
    fun s n qi e there unit runs first silent => ?_, fun s n qi e there unit runs first signals room => ?_,
    fun s n qi e there unit runs first signals full => ?_, fun s n qi there unit none_ => ?_, fun s n k role idx code => ?_⟩
  · exact (onUnit_runs there).trans (congrArg _ ((dispatch_queue next_ queue).trans (if_pos room)))
  · exact (onUnit_runs there).trans (congrArg _ ((dispatch_queue next_ queue).trans (if_neg (Nat.not_lt.2 full))))
  · exact (onUnit_runs there).trans (congrArg _ (dispatch_nowhere next_ queue))
  · exact (onUnit_runs there).trans (congrArg _ (dispatch_none p none_))
  · exact (onUnit_runs there).trans (congrArg _ (dispatch_parity next_))
  · exact (onUnit_runs ⟨there, unit⟩).trans (congrArg _ ((complete_first runs first).trans
      (signalDesc_silent n _ _ _ _ silent)))
  · exact (onUnit_runs ⟨there, unit⟩).trans (congrArg _ ((complete_first runs first).trans
      (signalDesc_counts _ _ signals room)))
  · exact (onUnit_runs ⟨there, unit⟩).trans (congrArg _ ((complete_first runs first).trans
      (signalDesc_full _ _ signals full)))
  · refine (onUnit_runs ⟨there, unit⟩).trans (congrArg _ ?_)
    rw [doDescriptorComplete, none_]
  · rw [Nat.mul_comm 4 n]
    exact descFault_effect n k role idx code s

/-! ## WAIT (R56, R67) -/

section PassWait
variable {s : State} {n cond : Nat} {met : State → Next → Bool} {after : Next → Ctx → Ctx}

theorem passWait_none (none_ : s.nextDesc n = none) : passWait n cond met after s = s := by
  rw [passWait, none_]

variable {d : Next} (next_ : s.nextDesc n = some d)
include next_

theorem passWait_passes (kind : kindOf d.w0 = 9) (code : field d.w0 28 4 = cond)
    (pre : (s.ctxOf n d.slot).preMet d.w0 = true) (holds : met s d = true) : passWait n cond met after s =
      signalDesc n d.slot d.role d.idx d.w0
        (setCtx n d.slot (fun c => (after d (c.consumePre d.w0)).goTo (d.idx + 1) d.len) s) := by
  rw [passWait, next_]
  refine if_pos ?_
  rw [kind, code, pre, holds, decide_eq_true rfl, decide_eq_true rfl]
  rfl

theorem passWait_waits (fails : met s d = false) : passWait n cond met after s = s := by
  rw [passWait, next_]
  refine if_neg ?_
  rw [fails, Bool.and_false]
  exact Bool.false_ne_true

theorem passWait_unmet (unmet : (s.ctxOf n d.slot).preMet d.w0 = false) : passWait n cond met after s = s := by
  rw [passWait, next_]
  refine if_neg ?_
  rw [unmet, Bool.and_false, Bool.false_and]
  exact Bool.false_ne_true

end PassWait

/-- A yield as a `passWait`: whether the core has one context is judged before. -/
theorem doWaitYield_eq (n : Nat) (s : State) : doWaitYield n s = passWait n 5 (fun s d => s.quiet n d.slot)
    (fun _ c => { c with yielded := !decide ((s.contexts n).length ≤ 1) }) s := rfl

/-- Settles O29: the six commands are `passWait` with their conditions. -/
theorem waitsPass : Obligations.WaitsPass := by
  unfold Obligations.WaitsPass
  refine ⟨fun s n d there next_ kind code pre met => ?_, fun s n d there next_ kind code pre met => ?_,
    fun s n d there next_ kind code pre met => ?_, fun s n d there next_ kind code pre met => ?_,
    fun s n d there next_ kind code pre met => ?_, fun s n d there next_ kind code pre met => ?_,
    fun s n k role idx w0 silent => signalDesc_silent n k role idx s silent,
    fun s n k role idx w0 signals room => signalDesc_counts role idx signals room,
    fun s n k role idx w0 signals full => signalDesc_full role idx signals full,
    fun s n d there next_ below => ?_, fun s n d there next_ early => ?_, fun s n d there next_ early => ?_,
    fun s n there lockstep open_ => ?_, fun s n d there next_ busy => ?_, fun s n d there next_ unmet => ?_,
    fun s n there none_ => ?_⟩
  · exact (onUnit_runs there).trans (congrArg _ (passWait_passes next_ kind code pre (decide_eq_true met)))
  · exact (onUnit_runs there).trans (congrArg _ (passWait_passes next_ kind code pre (decide_eq_true met)))
  · exact (onUnit_runs there).trans (congrArg _ (passWait_passes next_ kind code pre (decide_eq_true met)))
  · have confirmed : (!s.frm.ended.lockstep || s.frm.ended.confirmed) = true := by
      rcases met with alone | all
      · rw [alone]; rfl
      · rw [all, Bool.or_true]
    exact (onUnit_runs there).trans (congrArg _ (passWait_passes next_ kind code pre confirmed))
  · exact (onUnit_runs there).trans (congrArg _ (passWait_passes next_ kind code pre met))
  · exact (onUnit_runs there).trans (congrArg _ ((doWaitYield_eq n s).trans (passWait_passes next_ kind code pre met)))
  · exact (onUnit_runs there).trans (congrArg _ (passWait_waits next_ (decide_eq_false (Nat.not_le.2 below))))
  · exact (onUnit_runs there).trans (congrArg _ (passWait_waits next_ (decide_eq_false (Nat.not_le.2 early))))
  · exact (onUnit_runs there).trans (congrArg _ (passWait_waits next_ (decide_eq_false (Nat.not_le.2 early))))
  · have unconfirmed : (!s.frm.ended.lockstep || s.frm.ended.confirmed) = false := by rw [lockstep, open_]; rfl
    refine (onUnit_runs there).trans (congrArg _ ?_)
    cases next_ : s.nextDesc n with
    | none => exact passWait_none next_
    | some d => exact passWait_waits next_ unconfirmed
  · exact ⟨(onUnit_runs there).trans (congrArg _ (passWait_waits next_ busy)),
      (onUnit_runs there).trans (congrArg _ ((doWaitYield_eq n s).trans (passWait_waits next_ busy)))⟩
  · have waits {cond : Nat} {met : State → Next → Bool} {after : Next → Ctx → Ctx} :
        onUnit (n < coreCount) (passWait n cond met after s) = .next s :=
      (onUnit_runs there).trans (congrArg _ (passWait_unmet next_ unmet))
    exact ⟨waits, waits, waits, waits, waits,
      (onUnit_runs there).trans (congrArg _ ((doWaitYield_eq n s).trans (passWait_unmet next_ unmet)))⟩
  · have stays {cond : Nat} {met : State → Next → Bool} {after : Next → Ctx → Ctx} :
        onUnit (n < coreCount) (passWait n cond met after s) = .next s :=
      (onUnit_runs there).trans (congrArg _ (passWait_none none_))
    exact ⟨stays, stays, stays, stays, stays,
      (onUnit_runs there).trans (congrArg _ ((doWaitYield_eq n s).trans (passWait_none none_)))⟩

/-! ## LOOP and SKIP (R68, R69) -/

/-- What a SKIP does once its precondition has been taken. -/
def skipOn (n : Nat) (d : Next) (parity : Bool) (s : State) : State :=
  if parity then descFault n d.slot d.role d.idx 1 s
  else if maskAny (s.storeBytes n (32 * field d.w1 49 15) ((field d.w1 36 13 + 1 + 7) / 8)) (field d.w1 36 13 + 1) then
    setCtx n d.slot (fun c => c.goTo (d.idx + 1) d.len) s
  else
    match s.bindingOf d.role with
    | none => s
    | some b =>
      (skipCounts (s.descOf b) (field d.w0 24 8) (d.idx + 1) []).foldl
        (fun s e => signalMany n d.slot d.role e.1 e.2.1 e.2.2 s)
        (setCtx n d.slot (fun c => c.goTo (d.idx + 1 + field d.w0 24 8) d.len) s)

section Skip
variable {s : State} {n : Nat} {d : Next} (next_ : s.nextDesc n = some d)
include next_

theorem doSkip_taken (parity : Bool) (kind : kindOf d.w0 = 11) (pre : (s.ctxOf n d.slot).preMet d.w0 = true) :
    doSkip n parity s = skipOn n d parity (setCtx n d.slot (fun c => c.consumePre d.w0) s) := by
  rw [doSkip, next_]
  refine (if_pos ?_).trans rfl
  rw [kind, pre]
  rfl

theorem doSkip_other (parity : Bool) (kind : kindOf d.w0 ≠ 11) : doSkip n parity s = s := by
  rw [doSkip, next_]
  refine if_neg ?_
  rw [decide_eq_false kind, Bool.false_and]
  exact Bool.false_ne_true

theorem doLoop_other (kind : kindOf d.w0 ≠ 10) : doLoop n s = s := by
  rw [doLoop, next_]
  refine if_neg ?_
  rw [decide_eq_false kind, Bool.false_and]
  exact Bool.false_ne_true

/-- Moving a context whose precondition has been taken is one change of it. -/
theorem goTo_consumed (pos : Nat) :
    setCtx n d.slot (fun c => c.goTo pos d.len) (setCtx n d.slot (fun c => c.consumePre d.w0) s)
      = setCtx n d.slot (fun c => (c.consumePre d.w0).goTo pos d.len) s :=
  setCtx_setCtx _ (consumePre_listed next_)

end Skip

/-- Settles O30: a consuming precondition and the move after it are one change of the context, because a context that a
role is bound to is listed. -/
theorem loopsAndSkips : Obligations.LoopsAndSkips := by
  unfold Obligations.LoopsAndSkips
  refine ⟨fun s n d there next_ kind pre => ?_, fun s n d there next_ kind pre set_ => ?_,
    fun s n d there next_ kind pre clear => ?_, fun s n d there next_ kind pre => ?_,
    fun s n d p there next_ notLoop notSkip => ?_⟩
  · refine (onUnit_runs there).trans (congrArg _ ?_)
    have goes : (decide (kindOf d.w0 = 10) && (s.ctxOf n d.slot).preMet d.w0) = true := by rw [kind, pre]; rfl
    simp only [doLoop, next_, goes, if_true, consumePre_loops]
  · have any : maskAny ((setCtx n d.slot (fun c => c.consumePre d.w0) s).storeBytes n (32 * field d.w1 49 15)
        ((field d.w1 36 13 + 1 + 7) / 8)) (field d.w1 36 13 + 1) = true := set_
    refine (onUnit_runs there).trans (congrArg _ ((doSkip_taken next_ false kind pre).trans ?_))
    rw [skipOn, if_neg Bool.false_ne_true, if_pos any, goTo_consumed next_]
  · have none_ : ¬ maskAny ((setCtx n d.slot (fun c => c.consumePre d.w0) s).storeBytes n (32 * field d.w1 49 15)
        ((field d.w1 36 13 + 1 + 7) / 8)) (field d.w1 36 13 + 1) = true := Bool.eq_false_iff.1 clear
    obtain ⟨-, b, binding⟩ := bound_of_nextDesc next_
    have binding' : (setCtx n d.slot (fun c => c.consumePre d.w0) s).bindingOf d.role = some b := binding
    refine ⟨_, (onUnit_runs there).trans (congrArg _ (doSkip_taken next_ false kind pre)), ?_⟩
    rw [skipOn, if_neg Bool.false_ne_true, if_neg none_, binding', binding, goTo_consumed next_]
    rfl
  · exact (onUnit_runs there).trans (congrArg _ ((doSkip_taken next_ true kind pre).trans (if_pos rfl)))
  · exact ⟨(onUnit_runs there).trans (congrArg _ (doLoop_other next_ notLoop)),
      (onUnit_runs there).trans (congrArg _ (doSkip_other next_ p notSkip))⟩

end Sys2Proof.Proofs
end


section
/-! The on-device network: what moving flits leaves of the packets, and the packets at their destinations (chapter 8). -/
namespace Sys2Proof.Proofs
set_option Elab.async false
open Sys2Proof.Machine Sys2Proof.Laws

/-! ## Moving flits -/

/-- A state with other packets and records of the network. -/
def withNet (s : State) (packets : List Packet) (regions : SMap NetRec) (sills : List SillRec) : State :=
  { s with net := { s.net with packets := packets, regions := regions, sills := sills } }

/-- Flits move: every packet keeps all but where its flits stand, and of the network only the records count. -/
def Flows (s t : State) : Prop :=
  ∃ packets regions sills, packets.map Packet.content = s.net.packets.map Packet.content ∧ t = withNet s packets regions sills

theorem Flows.refl (s : State) : Flows s s := ⟨s.net.packets, s.net.regions, s.net.sills, rfl, rfl⟩

theorem Flows.trans {s t u : State} (first : Flows s t) (second : Flows t u) : Flows s u := by
  obtain ⟨p, r, k, content, rfl⟩ := first
  obtain ⟨p', r', k', content', rfl⟩ := second
  exact ⟨p', r', k', content'.trans content, rfl⟩

theorem Flows.ite {c : Prop} [Decidable c] {s t u : State} (yes : Flows s t) (no : Flows s u) :
    Flows s (if c then t else u) := by
  split
  · exact yes
  · exact no

theorem flows_setNet (r : Nat) (f : NetRec → NetRec) (s : State) : Flows s (setNet r f s) := ⟨_, _, s.net.sills, rfl, rfl⟩

theorem flows_setSillNet (k : Nat) (f : SillRec → SillRec) (s : State) : Flows s (setSillNet k f s) :=
  ⟨_, s.net.regions, _, rfl, rfl⟩

theorem flows_countFlits (l flits : Nat) (s : State) : Flows s (countFlits l flits s) := by
  unfold countFlits
  exact .ite (.refl s) (.ite (.ite (.refl s) (flows_setNet ..)) (.ite (.refl s) (.ite (flows_setNet ..)
    (.ite (flows_setSillNet ..) (.refl s)))))

theorem flows_countHops (before after : List (Nat × Nat)) (s : State) : Flows s (countHops before after s) := by
  induction before generalizing after s with
  | nil => exact .refl s
  | cons h rest ih =>
    cases after with
    | nil => exact .refl s
    | cons g after => exact (flows_countFlits ..).trans (ih after _)

theorem flows_crossNet (src dst flits : Nat) (s : State) : Flows s (crossNet src dst flits s) := by
  unfold crossNet
  induction s.routeOf src dst generalizing s with
  | nil => exact .refl s
  | cons l route ih => exact (flows_countFlits l.1 flits s).trans (ih _)

theorem flows_netAccess (w : Who) (a len : Nat) (write : Bool) (s : State) : Flows s (netAccess w a len write s) := by
  unfold netAccess
  split
  · exact (flows_crossNet ..).trans (flows_crossNet ..)
  · exact .refl s

/-- Packets changed in what does not belong to their content. -/
theorem content_map {f : Packet → Packet} (same : ∀ q, (f q).content = q.content) (l : List Packet) :
    (l.map f).map Packet.content = l.map Packet.content := by
  rw [List.map_map]
  exact List.map_congr_left fun q _ => same q

theorem flows_flowPacket (id : Nat) (s : State) : Flows s (flowPacket id s) := by
  unfold flowPacket
  split
  · exact .refl s
  · refine Flows.trans ⟨_, s.net.regions, s.net.sills, content_map (fun q => ?_) s.net.packets, rfl⟩ (flows_countHops ..)
    split <;> rfl

theorem flows_foldl {α : Type} {f : State → α → State} (each : ∀ s a, Flows s (f s a)) (l : List α) (s : State) :
    Flows s (l.foldl f s) := by
  induction l generalizing s with
  | nil => exact .refl s
  | cons a rest ih => exact (each s a).trans (ih _)

theorem flows_flowAll (s : State) : Flows s (flowAll s) :=
  flows_foldl (fun s _ => flows_foldl (fun s id => flows_flowPacket id s) _ s) _ s

theorem Flows.content {s t : State} (flows : Flows s t) :
    t.net.packets.map Packet.content = s.net.packets.map Packet.content := by
  obtain ⟨_, _, _, content, rfl⟩ := flows
  exact content

theorem Flows.nextId {s t : State} (flows : Flows s t) : t.net.nextId = s.net.nextId := by
  obtain ⟨_, _, _, _, rfl⟩ := flows
  rfl

theorem Flows.held {s t : State} (flows : Flows s t) : t.net.held = s.net.held := by
  obtain ⟨_, _, _, _, rfl⟩ := flows
  rfl

theorem Flows.onlyNet {s t : State} (flows : Flows s t) : OnlyNet s t := by
  obtain ⟨_, _, _, _, rfl⟩ := flows
  exact ⟨_, rfl⟩

theorem OnlyNet.frame {s t : State} (only : OnlyNet s t) : t = { s with net := t.net } := by
  obtain ⟨_, rfl⟩ := only
  rfl

theorem OnlyNet.blocks {s t : State} (only : OnlyNet s t) : t.mem = s.mem ∧ t.cores = s.cores ∧ t.walkers = s.walkers := by
  obtain ⟨_, rfl⟩ := only
  exact ⟨rfl, rfl, rfl⟩

theorem entryOf_congr {s t : State} (cores : t.cores = s.cores) (n uid : Nat) : t.entryOf n uid = s.entryOf n uid := by
  rw [State.entryOf, coreRec_congr cores]
  rfl

/-! ## Packets come and go -/

/-- The contents of the packets in flight. -/
def contents (s : State) : List Packet := s.net.packets.map Packet.content

/-- A packet joins those in flight. -/
def joined (p : Packet) (s : State) : State :=
  { s with net := { s.net with
    packets := s.net.packets ++ [{ p with
      id := s.net.nextId, unsent := if (s.hopsOf p).isEmpty then 0 else p.flits, hops := s.hopsOf p, arrived := 0, done := 0 }]
    nextId := s.net.nextId + 1 } }

theorem flows_inject (p : Packet) (s : State) : Flows (joined p s) (inject p s) := flows_flowPacket ..

theorem inject_contents (p : Packet) (s : State) :
    contents (inject p s) = contents s ++ [({ p with id := s.net.nextId } : Packet).content] := by
  rw [contents, (flows_inject p s).content]
  exact List.map_append

theorem inject_onlyNet (p : Packet) (s : State) : OnlyNet s (inject p s) :=
  OnlyNet.trans ⟨_, rfl⟩ (flows_inject p s).onlyNet

/-- The packets in flight without one of them. -/
def without (id : Nat) (s : State) : State :=
  { s with net := { s.net with packets := s.net.packets.filter (fun p => decide (p.id ≠ id)) } }

theorem flows_takePacket (id : Nat) (s : State) : Flows (without id s) (takePacket id s) := flows_flowAll _

theorem content_filter (id : Nat) (l : List Packet) : (l.filter (fun p => decide (p.id ≠ id))).map Packet.content
    = (l.map Packet.content).filter (fun p => decide (p.id ≠ id)) := by
  rw [List.filter_map]
  rfl

theorem takePacket_contents (id : Nat) (s : State) :
    contents (takePacket id s) = (contents s).filter (fun p => decide (p.id ≠ id)) := by
  rw [contents, (flows_takePacket id s).content]
  exact content_filter ..

theorem takePacket_onlyNet (id : Nat) (s : State) : OnlyNet s (takePacket id s) :=
  OnlyNet.trans ⟨_, rfl⟩ (flows_takePacket id s).onlyNet

theorem takePacket_nextId (id : Nat) (s : State) : (takePacket id s).net.nextId = s.net.nextId :=
  (flows_takePacket id s).nextId

theorem takePacket_held (id : Nat) (s : State) : (takePacket id s).net.held = s.net.held :=
  (flows_takePacket id s).held

theorem answer_onlyNet (p : Packet) (k : PktKind) (bytes : List Nat) (err : Option ErrCause) (s : State) :
    OnlyNet s (answer p k bytes err s) := inject_onlyNet ..

/-- A packet answered in a state that the network aside is as its contents and its next number say. -/
theorem answer_contents (p : Packet) (k : PktKind) (bytes : List Nat) (err : Option ErrCause) (s : State) :
    contents (answer p k bytes err s) = contents s ++ [({ p with
      id := s.net.nextId, kind := k, src := p.dst, dst := p.src, bytes := bytes, err := err, aged := false,
      asked := decide (p.kind = .read) } : Packet).content] := inject_contents ..

theorem reachArbiter_onlyNet (p : Packet) (s : State) : OnlyNet s (reachArbiter p s) := by
  unfold reachArbiter
  split
  · exact .refl s
  · exact OnlyNet.trans ⟨_, rfl⟩ (flows_flowAll _).onlyNet

theorem reachArbiter_nextId (p : Packet) (s : State) : (reachArbiter p s).net.nextId = s.net.nextId := by
  unfold reachArbiter
  split
  · rfl
  · exact (flows_flowAll _).nextId

/-- At the arbiter a packet moves behind the others, which stay as they are. -/
theorem reachArbiter_contents (p : Packet) (s : State) :
    (contents (reachArbiter p s)).filter (fun q => decide (q.id ≠ p.id)) = (contents s).filter (fun q => decide (q.id ≠ p.id)) := by
  unfold reachArbiter
  split
  · rfl
  · rw [contents, (flows_flowAll _).content, ← content_filter, List.filter_append, List.filter_filter]
    have gone : [{ p with arrived := s.frm.tc + 1, hops := [] }].filter (fun q => decide (q.id ≠ p.id)) = [] := by simp
    rw [gone, List.append_nil]
    simp only [Bool.and_self]
    exact content_filter ..

/-! ## Packets that arrive -/

theorem arrivable_packet {s : State} {id : Nat} {k : PktKind} {p : Packet} (arrives : s.arrivable id k = some p) :
    p.id = id ∧ p.kind = k := by
  unfold State.arrivable at arrives
  split at arrives
  · exact absurd arrives (by simp)
  · rename_i q found
    extract_lets before waits queued held at arrives
    split at arrives
    · exact absurd arrives (by simp)
    · cases arrives
      have both := List.find?_some found
      rwa [Bool.and_eq_true, decide_eq_true_eq, decide_eq_true_eq] at both

/-- Reading takes nothing out of the network and puts nothing into it. -/
theorem readBytes_flows {w : Who} {parity : Bool} {a len : Nat} {s t : State} {ans : MemAns}
    (read : readBytes w parity a len s = (ans, t)) : contents t = contents s ∧ t.net.nextId = s.net.nextId := by
  have free : false = false := rfl
  have flows := flows_netAccess w a len false s
  have words : Keeps (Untouched.allBut [.reports, .mem]) (netAccess w a len false s)
      (readWords w parity ((a + len + 31) / 32 - a / 32) (a / 32 * 32) [] (netAccess w a len false s)).2 :=
    readWords_keeps w parity _ _ _ _ (Keeps.refl _)
  have same : t = (readWords w parity ((a + len + 31) / 32 - a / 32) (a / 32 * 32) [] (netAccess w a len false s)).2 := by
    rw [readBytes] at read
    split at read
    · rename_i _ d s' words'
      rw [words']
      exact ((Prod.ext_iff.1 read).2).symm
    · exact ((Prod.ext_iff.1 read).2).symm
  rw [same]
  exact ⟨by rw [contents, words.net rfl]; exact flows.content, by rw [words.net rfl]; exact flows.nextId⟩

/-- What a read without errors in the words leaves of memory and of the cores. -/
theorem readBytes_leaves {w : Who} {parity : Bool} {a len : Nat} {s t : State} {ans : MemAns}
    (read : readBytes w parity a len s = (ans, t)) :
    t.mem.dram = s.mem.dram ∧ t.mem.check = s.mem.check ∧ t.cores = s.cores ∧ t.walkers = s.walkers := by
  have free : false = false := rfl
  have kept : Keeps (Untouched.allBut [.reports, .mem, .net]) s t :=
    Keeps.snd read (readBytes_keeps w parity a len s (Keeps.refl s))
  exact ⟨(kept.stacked rfl).1, (kept.stacked rfl).2, cores_of_keeps kept rfl rfl, kept.walkers rfl⟩

section Read
variable {s s2 : State} {id beats : Nat} {parity : Bool} {flips : List (Nat × Nat)} {p : Packet}
  (arrives : s.arrivable id .read = some p)
include arrives

theorem netRead_waits (turn : (reachArbiter p s).netTurn id p.dst = false) :
    doNetRead id beats parity flips s = reachArbiter p s := by
  simp only [doNetRead, arrives, turn, Bool.false_eq_true, if_false]

variable (turn : (reachArbiter p s).netTurn id p.dst = true)
include turn

theorem netRead_serves : doNetRead id beats parity flips s = serveNetRead p beats parity flips (reachArbiter p s) := by
  simp only [doNetRead, arrives, turn, if_true]

theorem netRead_data {d : List Nat}
    (read : readBytes { code := 2, source := p.core } parity (p.addr + p.done) (min (32 * beats) (p.len - p.done))
      (flipSymbols p.addr flips (reachArbiter p s)) = (.data d, s2)) : doNetRead id beats parity flips s =
      if p.done + min (32 * beats) (p.len - p.done) = p.len then answer p .readData (p.bytes ++ d) none (takePacket id s2)
      else servedPart id (min (32 * beats) (p.len - p.done)) (p.bytes ++ d) s2 := by
  rw [netRead_serves arrives turn, serveNetRead, read, (arrivable_packet arrives).1]

theorem netRead_error {c : Nat}
    (read : readBytes { code := 2, source := p.core } parity (p.addr + p.done) (min (32 * beats) (p.len - p.done))
      (flipSymbols p.addr flips (reachArbiter p s)) = (.error c, s2)) :
    doNetRead id beats parity flips s = answer p .error [] (some (errOf c)) (takePacket id s2) := by
  rw [netRead_serves arrives turn, serveNetRead, read, (arrivable_packet arrives).1]

end Read

section Write
variable {s s2 : State} {id beats : Nat} {parity : Bool} {p : Packet} (arrives : s.arrivable id .write = some p)
include arrives

theorem netWrite_late (late : s.tagged p = false) :
    doNetWrite id beats parity s = suppress (regionOf p.dst) (takePacket id s) := by
  simp only [doNetWrite, arrives, late, Bool.not_false, if_true]

variable (mine : s.tagged p = true) (turn : (reachArbiter p s).netTurn id p.dst = true)
include mine turn

theorem netWrite_serves : doNetWrite id beats parity s = serveNetWrite p beats parity (reachArbiter p s) := by
  simp only [doNetWrite, arrives, mine, turn, Bool.not_true, Bool.false_eq_true, if_false, if_true]

theorem netWrite_done
    (write : writeBytes { code := 2, source := p.core } parity (p.addr + p.done)
      (slice p.bytes p.done (min (32 * beats) (p.len - p.done))) (reachArbiter p s) = (none, s2))
    (whole : p.done + min (32 * beats) (p.len - p.done) = p.len) :
    doNetWrite id beats parity s = answer p .ack [] none (takePacket id s2) := by
  rw [netWrite_serves arrives mine turn, serveNetWrite, write, (arrivable_packet arrives).1]
  exact if_pos whole

theorem netWrite_error {c : Nat}
    (write : writeBytes { code := 2, source := p.core } parity (p.addr + p.done)
      (slice p.bytes p.done (min (32 * beats) (p.len - p.done))) (reachArbiter p s) = (some c, s2)) :
    doNetWrite id beats parity s = answer p .error [] (some (errOf c)) (takePacket id s2) := by
  rw [netWrite_serves arrives mine turn, serveNetWrite, write, (arrivable_packet arrives).1]

end Write

/-- What a write that is stored leaves of the network. -/
theorem storeWords_net (n a : Nat) (bytes : List Nat) (s : State) :
    (storeWords n a bytes s).net = s.net ∧ (storeWords n a bytes s).cores = s.cores ∧
      (storeWords n a bytes s).mem.busErrors = s.mem.busErrors ∧ (storeWords n a bytes s).mem.tiles = s.mem.tiles ∧
      (storeWords n a bytes s).walkers = s.walkers := by
  obtain ⟨_, _, _, frame⟩ := storeWords_frame n a bytes s
  rw [frame]
  exact ⟨rfl, rfl, rfl, rfl, rfl⟩

end Sys2Proof.Proofs
end


section
/-! What the packets of the network do at their destinations, and the network's own commands (R130, R131, R178 to R180,
R184 to R187). -/
namespace Sys2Proof.Proofs
set_option Elab.async false
open Sys2Proof.Machine Sys2Proof.Laws

/-! ## A WRITE that is stored whole -/

/-- A write that is stored: the network counts its flits, then the words stand in memory. -/
theorem writeBytes_flows (w : Who) {a : Nat} {bytes : List Nat} {s : State} (path : s.pathBad a = false)
    (unlocked : s.lockedIn a (bytes.length / 32) = false) (open_ : s.blockedIn a (bytes.length / 32) = none) :
    ∃ z, Flows s z ∧ writeBytes w false a bytes s = (none, storeWords (bytes.length / 32) a bytes z) := by
  have flows := flows_netAccess w a bytes.length true s
  refine ⟨_, flows, ?_⟩
  obtain ⟨net, eq⟩ := flows.onlyNet
  have good : State.pathBad { s with net := net } a = false := path
  unfold writeBytes
  simp only [eq, lockedIn_net, unlocked, blockedIn_net, open_, good]
  rfl

theorem net_pathBad {s t : State} (only : OnlyNet s t) (a : Nat) : t.pathBad a = s.pathBad a := by
  obtain ⟨_, rfl⟩ := only
  rfl

theorem net_lockedIn {s t : State} (only : OnlyNet s t) (a n : Nat) : t.lockedIn a n = s.lockedIn a n := by
  obtain ⟨net, rfl⟩ := only
  exact lockedIn_net s net a n

theorem net_blockedIn {s t : State} (only : OnlyNet s t) (a n : Nat) : t.blockedIn a n = s.blockedIn a n := by
  obtain ⟨net, rfl⟩ := only
  exact blockedIn_net s net a n

/-! ## Waiting transfers of a core -/

/-- No transfer of the core waits for an answer. -/
theorem resumeReads_idle {n : Nat} {s : State} (ready : (s.walkerOf (regionOf n)).ready = [])
    (none_ : (s.coreRec n).queue.find? (fun e => e.started && !e.done && decide (kindOf e.w0 = 1) && decide (e.issued < e.need))
      = none) : resumeReads n s = setWalker (regionOf n) (fun w => { w with ready := [] }) s := by
  have same (t : State) (eq : t.cores = s.cores) : (t.coreRec n).queue.find?
      (fun e => e.started && !e.done && decide (kindOf e.w0 = 1) && decide (e.issued < e.need)) = none := by
    rw [coreRec_congr eq]; exact none_
  unfold resumeReads
  extract_lets r l z
  have plain : z = setWalker (regionOf n) (fun w => { w with ready := [] }) s := by
    show resumePieces (s.walkerOf (regionOf n)).ready _ = _
    rw [ready]
    rfl
  rw [plain, same (setWalker (regionOf n) (fun w => { w with ready := [] }) s) rfl]

theorem walkerOf_congr {s t : State} (same : t.walkers = s.walkers) (r : Nat) : t.walkerOf r = s.walkerOf r := by
  rw [State.walkerOf, same]
  rfl

/-! ## Answers at their requester -/

section Answers
variable {s : State} {id : Nat} {p : Packet}

theorem entryOf_takePacket (id n uid : Nat) (s : State) : (takePacket id s).entryOf n uid = s.entryOf n uid :=
  entryOf_congr (takePacket_onlyNet id s).blocks.2.1 n uid

theorem netReadData_gone (arrives : s.arrivable id .readData = some p) (gone : s.entryOf p.core p.uid = none) :
    doNetReadData id s = resumeReads p.core (suppress (regionOf p.core) (takePacket id s)) := by
  simp only [doNetReadData, arrives, entryOf_takePacket, gone]

theorem netReadData_data {e : QEntry} (arrives : s.arrivable id .readData = some p)
    (there : s.entryOf p.core p.uid = some e) :
    doNetReadData id s = resumeReads p.core (gotPiece p.core p.uid (putStore p.core p.local_ p.bytes (takePacket id s))) := by
  simp only [doNetReadData, arrives, entryOf_takePacket, there]

theorem netAck_gone (arrives : s.arrivable id .ack = some p) (gone : s.entryOf p.core p.uid = none) :
    doNetAck id s = suppress (regionOf p.core) (takePacket id s) := by
  simp only [doNetAck, arrives, entryOf_takePacket, gone]

theorem netAck_counts {e : QEntry} (arrives : s.arrivable id .ack = some p) (there : s.entryOf p.core p.uid = some e) :
    doNetAck id s = gotPiece p.core p.uid (takePacket id s) := by
  simp only [doNetAck, arrives, entryOf_takePacket, there]

theorem netError_gone (arrives : s.arrivable id .error = some p) (gone : s.entryOf p.core p.uid = none) :
    doNetError id s = resumeReads p.core (suppress (regionOf p.core) (takePacket id s)) := by
  simp only [doNetError, arrives, entryOf_takePacket, gone]

theorem netError_faults {e : QEntry} {c : ErrCause} (arrives : s.arrivable id .error = some p)
    (there : s.entryOf p.core p.uid = some e) (cause : p.err = some c) :
    doNetError id s = resumeReads p.core (faultEntry p.core e (errFault c) (takePacket id s)) := by
  simp only [doNetError, arrives, entryOf_takePacket, there, cause]

end Answers

theorem uid_of_entryOf {s : State} {n uid : Nat} {e : QEntry} (there : s.entryOf n uid = some e) : e.uid = uid :=
  of_decide_eq_true (List.find?_some (p := fun e : QEntry => decide (e.uid = uid)) there)

theorem queue_updEntry (n uid : Nat) (f : QEntry → QEntry) (s : State) :
    ((updEntry n uid f s).coreRec n).queue = (s.coreRec n).queue.map (fun e => if e.uid = uid then f e else e) := by
  rw [updEntry, setCore_coreRec_same]

theorem queue_dropEntry (n uid : Nat) (s : State) :
    ((dropEntry n uid s).coreRec n).queue = (s.coreRec n).queue.filter (fun e => decide (e.uid ≠ uid)) := by
  rw [dropEntry, setCore_coreRec_same]

/-! ## A SEND that fills its buffer (R58) -/

section Deliver
variable {s : State} {n k : Nat} {p : Packet} {b : Posted} (posted : (s.ctxOf n k).posted = [b]) (free : b.taken = none)
  (whole : b.len = p.total) (got : b.got = 0) (first : p.off = 0) (length : p.bytes.length = p.total)
include posted free whole got first length

/-- A SEND of one packet takes the only buffer that is posted, fills it and is done. -/
theorem deliver_whole : deliver n k p b s = doneEntry n b.uid
    (setCtx n k (fun c => { c with posted := c.posted.filter (fun x => decide (x.uid ≠ b.uid)) })
      (putStore n b.addr p.bytes
        (setCtx n k (fun c => { c with posted := c.posted.map (fun x =>
          if x.uid = b.uid then { x with taken := some (p.core, p.uid), bad := false } else x) }) s))) := by
  have same : decide (b.len ≠ p.total) = false := by rw [whole]; simp
  have found : (s.ctxOf n k).posted.find? (fun x => decide (x.uid = b.uid)) = some b := by
    rw [posted, List.find?_cons_of_pos (by simp)]
  have took : takePosted n k b.uid p.total (p.core, p.uid) s
      = setCtx n k (fun c => { c with posted := c.posted.map (fun x =>
          if x.uid = b.uid then { x with taken := some (p.core, p.uid), bad := false } else x) }) s := by
    simp only [takePosted, found, same, Bool.false_eq_true, if_false]
  have one : ((setCtx n k (fun c => { c with posted := c.posted.map (fun x =>
      if x.uid = b.uid then { x with taken := some (p.core, p.uid), bad := false } else x) }) s).ctxOf n k).posted.find?
        (fun x => decide (x.uid = b.uid)) = some { b with taken := some (p.core, p.uid), bad := false } := by
    rw [setCtx_ctxOf_same, posted, List.map_singleton, if_pos rfl, List.find?_cons_of_pos (by simp)]
  have full : ¬ 0 + p.total < p.total := by omega
  rw [deliver, if_pos free, took, fillPosted, one]
  simp only [Bool.false_eq_true, if_false, first, Nat.add_zero, got, length, full]

end Deliver

/-! ## A SEND at its destination (R58, R59, R180) -/

section Send
variable {s : State} {id : Nat} {parity : Bool} {p : Packet} (arrives : s.arrivable id .send = some p)
include arrives

theorem netSend_late (late : s.tagged p = false) :
    doNetSend id parity s = suppress (regionOf p.dst) (takePacket id s) := by
  simp only [doNetSend, arrives, late, Bool.not_false, if_true]

variable (mine : s.tagged p = true)
include mine

theorem netSend_fenced (fenced : s.coreFenced p.dst = true) :
    doNetSend id parity s = answer p .error [] (some .fenced) (takePacket id s) := by
  simp only [doNetSend, arrives, mine, fenced, Bool.not_true, Bool.false_eq_true, if_false, if_true]

variable (good : s.coreFenced p.dst = false)
include good

theorem netSend_away (away : s.resident p.dst p.slot = false) :
    doNetSend id parity s = savePacket p parity (takePacket id s) := by
  simp only [doNetSend, arrives, mine, good, away, Bool.not_true, Bool.not_false, Bool.false_eq_true, if_false, if_true]

variable (here : s.resident p.dst p.slot = true)
include here

theorem netSend_fills {b : Posted} (buffer : ((s.ctxOf p.dst p.slot).bufferFor p.addr (p.core, p.uid)).filter
      (fun b => b.open_ (s.heldFor p.dst p.slot p.addr)) = some b) :
    doNetSend id parity s = answer p .ack [] none (deliver p.dst p.slot p b (takePacket id s)) := by
  simp only [doNetSend, arrives, mine, good, here, buffer, Bool.not_true, Bool.false_eq_true, if_false]

theorem netSend_unposted (none_ : (s.ctxOf p.dst p.slot).posted = []) : doNetSend id parity s =
    if (s.heldFor p.dst p.slot p.addr).length < 4 then
      { takePacket id s with net := { (takePacket id s).net with held := (takePacket id s).net.held ++ [p] } }
    else s := by
  have nowhere : (s.ctxOf p.dst p.slot).bufferFor p.addr (p.core, p.uid) = none := by
    rw [Ctx.bufferFor, none_]
    rfl
  simp only [doNetSend, arrives, mine, good, here, nowhere, Option.filter_none, Bool.not_true, Bool.false_eq_true, if_false]

end Send

/-- The buffer posted for the channel of a SEND, where nothing is held for the channel. -/
theorem bufferFor_only {s : State} {p : Packet} {b : Posted} (posted : (s.ctxOf p.dst p.slot).posted = [b])
    (channel : b.channel = p.addr) (free : b.taken = none) (held : s.heldFor p.dst p.slot p.addr = []) :
    ((s.ctxOf p.dst p.slot).bufferFor p.addr (p.core, p.uid)).filter
      (fun b => b.open_ (s.heldFor p.dst p.slot p.addr)) = some b := by
  simp [Ctx.bufferFor, posted, channel, free, held, Posted.open_, Option.filter]

end Sys2Proof.Proofs
end


section
/-! The packets of the network at their destinations: the statement as a whole (chapter 8). -/
namespace Sys2Proof.Proofs
set_option Elab.async false
open Sys2Proof.Machine Sys2Proof.Laws

/-! ## Whole requests -/

/-- A READ whose last word is read is answered, and leaves memory and the cores. -/
theorem netRead_answers {s : State} {id beats : Nat} {p : Packet} {d : List Nat} (arrives : s.arrivable id .read = some p)
    (turn : (reachArbiter p s).netTurn id p.dst = true) (whole : p.done + min (32 * beats) (p.len - p.done) = p.len)
    (data : (readBytes { code := 2, source := p.core } false (p.addr + p.done) (min (32 * beats) (p.len - p.done))
      (reachArbiter p s)).1 = .data d) :
    ∃ t, doNetRead id beats false [] s = t ∧
      contents t = (contents s).filter (fun x => decide (x.id ≠ id)) ++ [({ p with
        id := s.net.nextId, kind := .readData, src := p.dst, dst := p.src, bytes := p.bytes ++ d, err := none, aged := false,
        asked := true } : Packet).content] ∧
      t.mem.dram = s.mem.dram ∧ t.mem.check = s.mem.check ∧ t.cores = s.cores := by
  obtain ⟨ident, kind⟩ := arrivable_packet arrives
  obtain ⟨mem, cores, -⟩ := (reachArbiter_onlyNet p s).blocks
  have next_ := reachArbiter_nextId p s
  have others := reachArbiter_contents p s
  rw [ident] at others
  generalize atArbiter : reachArbiter p s = z at turn data mem cores next_ others
  cases read : readBytes { code := 2, source := p.core } false (p.addr + p.done) (min (32 * beats) (p.len - p.done)) z with
  | mk ans s2 =>
    rw [read] at data
    obtain rfl : ans = .data d := data
    have serves := netRead_data (flips := []) arrives (by rw [atArbiter]; exact turn) (by rw [atArbiter]; exact read)
    obtain ⟨contents2, next2⟩ := readBytes_flows read
    obtain ⟨dram, check, cores2, -⟩ := readBytes_leaves read
    obtain ⟨memT, coresT, -⟩ := ((takePacket_onlyNet id s2).trans (answer_onlyNet p .readData (p.bytes ++ d) none _)).blocks
    refine ⟨_, serves.trans (if_pos whole), ?_, ?_, ?_, ?_⟩
    · rw [answer_contents, takePacket_contents, takePacket_nextId, contents2, next2, next_, others, kind]
      rfl
    · rw [memT, dram, mem]
    · rw [memT, check, mem]
    · rw [coresT, cores2, cores]

section WholeWrite
variable {s : State} {id beats : Nat} {p : Packet} (arrives : s.arrivable id .write = some p) (mine : s.tagged p = true)
  (turn : (reachArbiter p s).netTurn id p.dst = true)
include arrives mine turn

/-- A WRITE served at once stores its bytes and is acknowledged. -/
theorem netWrite_stores (fresh : p.done = 0) (length : p.len = p.bytes.length) (fits : p.len ≤ 32 * beats)
    (words : p.bytes.length % 32 = 0) (unlocked : s.lockedIn p.addr (p.bytes.length / 32) = false)
    (open_ : s.blockedIn p.addr (p.bytes.length / 32) = none) (path : s.pathBad p.addr = false) :
    ∃ t, doNetWrite id beats false s = t ∧ t.mem.dram = memPutBytes s.mem.dram p.addr p.bytes ∧
      contents t = (contents s).filter (fun x => decide (x.id ≠ id)) ++ [({ p with
        id := s.net.nextId, kind := .ack, src := p.dst, dst := p.src, bytes := [], err := none, aged := false,
        asked := false } : Packet).content] ∧
      t.cores = s.cores ∧ t.mem.busErrors = s.mem.busErrors := by
  obtain ⟨ident, kind⟩ := arrivable_packet arrives
  have only := reachArbiter_onlyNet p s
  obtain ⟨mem, cores, -⟩ := only.blocks
  have next_ := reachArbiter_nextId p s
  have others := reachArbiter_contents p s
  rw [ident] at others
  have all : min (32 * beats) (p.len - p.done) = p.bytes.length := by omega
  have whole : p.done + min (32 * beats) (p.len - p.done) = p.len := by omega
  have bytes : slice p.bytes p.done (min (32 * beats) (p.len - p.done)) = p.bytes := by rw [all, fresh, slice_all rfl]
  obtain ⟨z, flows, stores⟩ := writeBytes_flows { code := 2, source := p.core } (a := p.addr) (bytes := p.bytes)
    ((net_pathBad only p.addr).trans path) ((net_lockedIn only _ _).trans unlocked) ((net_blockedIn only _ _).trans open_)
  obtain ⟨net2, cores2, errors2, -, -⟩ := storeWords_net (p.bytes.length / 32) p.addr p.bytes z
  have dram2 := storeWords_dram (n := p.bytes.length / 32) (bytes := p.bytes) p.addr z (by omega)
  obtain ⟨memZ, coresZ, -⟩ := flows.onlyNet.blocks
  have done := netWrite_done (beats := beats) arrives mine turn (by rw [bytes, fresh]; exact stores) whole
  generalize storeWords (p.bytes.length / 32) p.addr p.bytes z = u at done net2 cores2 errors2 dram2
  obtain ⟨memT, coresT, -⟩ := ((takePacket_onlyNet id u).trans (answer_onlyNet p .ack [] none _)).blocks
  refine ⟨_, done, ?_, ?_, ?_, ?_⟩
  · rw [memT, dram2, memZ, mem]
  · rw [answer_contents, takePacket_contents, takePacket_nextId, contents, net2, flows.content, flows.nextId, next_,
      ← contents, others, kind]
    rfl
  · rw [coresT, cores2, coresZ, cores]
  · rw [memT, errors2, memZ, mem]

end WholeWrite

/-! ## Responses -/

/-- Nothing of a queue whose only transfer is done waits for an answer. -/
theorem find_waiting_done {e : QEntry} (done : e.done = true) : [e].find?
    (fun e => e.started && !e.done && decide (kindOf e.w0 = 1) && decide (e.issued < e.need)) = none := by
  rw [List.find?_cons_of_neg (by rw [done]; simp)]
  rfl

theorem netReadData_last {s : State} {id : Nat} {p : Packet} {e : QEntry} (arrives : s.arrivable id .readData = some p)
    (there : s.entryOf p.core p.uid = some e) (last : e.got + 1 = e.need) (queue : (s.coreRec p.core).queue = [e])
    (ready : (s.walkerOf (regionOf p.core)).ready = []) :
    ∃ t, doNetReadData id s = t ∧
      t.cores.store = memPutBytes s.cores.store (p.core * storeSize + p.local_) (p.bytes.take (storeSize - p.local_)) ∧
      (t.coreRec p.core).queue = [{ e with got := e.got + 1, done := true }] ∧ t.mem = s.mem ∧
      contents t = (contents s).filter (fun x => decide (x.id ≠ id)) := by
  obtain ⟨mem, cores, walkers⟩ := (takePacket_onlyNet id s).blocks
  have uid := uid_of_entryOf there
  have queue' : ((gotPiece p.core p.uid (putStore p.core p.local_ p.bytes (takePacket id s))).coreRec p.core).queue
      = [{ e with got := e.got + 1, done := true }] := by
    rw [gotPiece, queue_updEntry, putStore_coreRec, coreRec_congr cores, queue, List.map_singleton, if_pos uid,
      decide_eq_true last]
  have idle := resumeReads_idle (n := p.core) (s := gotPiece p.core p.uid (putStore p.core p.local_ p.bytes (takePacket id s)))
    ((congrArg Walker.ready (walkerOf_congr (s := s) (t := takePacket id s) walkers (regionOf p.core))).trans ready)
    (by rw [queue']; exact find_waiting_done rfl)
  have runs := (netReadData_data arrives there).trans idle
  have packets := takePacket_contents id s
  generalize takePacket id s = z at runs queue' mem cores packets
  refine ⟨_, runs, ?_, queue', mem, packets⟩
  rw [← cores]
  rfl

theorem netError_ends {s : State} {id : Nat} {p : Packet} {e : QEntry} {c : ErrCause} (arrives : s.arrivable id .error = some p)
    (there : s.entryOf p.core p.uid = some e) (cause : p.err = some c) (queue : (s.coreRec p.core).queue = [e])
    (ready : (s.walkerOf (regionOf p.core)).ready = []) :
    ∃ t, doNetError id s = t ∧ (t.ctxOf p.core e.slot).stopped = true ∧ (t.ctxOf p.core e.slot).fault = errFault c ∧
      (t.coreRec p.core).queue = [] ∧ t.mem = s.mem ∧ t.cores.store = s.cores.store ∧
      contents t = (contents s).filter (fun x => decide (x.id ≠ id)) := by
  have free : false = false := rfl
  obtain ⟨mem, cores, walkers⟩ := (takePacket_onlyNet id s).blocks
  have runs := netError_faults arrives there cause
  have packets := takePacket_contents id s
  generalize takePacket id s = z at runs mem cores walkers packets
  have kept : Keeps (Untouched.allBut [.reports, .frm, .cores]) z (faultEntry p.core e (errFault c) z) :=
    faultEntry_keeps p.core e (errFault c) z (Keeps.refl z)
  obtain ⟨ctx, -, -, queues, -, -⟩ := descFault_effect p.core e.slot e.role e.idx (errFault c) (dropEntry p.core e.uid z)
  have empty : ((faultEntry p.core e (errFault c) z).coreRec p.core).queue = [] := by
    rw [faultEntry, queues p.core, queue_dropEntry, coreRec_congr cores, queue, List.filter_cons_of_neg (by simp)]
    rfl
  have idle := resumeReads_idle (n := p.core) (s := faultEntry p.core e (errFault c) z)
    (by rw [walkerOf_congr (kept.walkers rfl), walkerOf_congr (s := s) walkers]; exact ready) (by rw [empty]; rfl)
  have ctx' : (faultEntry p.core e (errFault c) z).ctxOf p.core e.slot = _ := ctx
  have memory := mem_of_keeps kept rfl rfl
  have store := kept.store rfl
  have net := kept.net rfl
  rw [idle] at runs
  generalize faultEntry p.core e (errFault c) z = y at runs ctx' empty memory store net
  refine ⟨_, runs, ?_, ?_, empty, memory.trans mem, store.trans (congrArg CoresBlk.store cores), ?_⟩
  · exact congrArg Ctx.stopped ctx'
  · exact congrArg Ctx.fault ctx'
  · rw [← packets, contents, contents, ← net]
    rfl

/-! ## A SEND of one packet -/

section WholeSend
variable {s : State} {id : Nat} {parity : Bool} {p : Packet} {b : Posted} (arrives : s.arrivable id .send = some p)
  (mine : s.tagged p = true) (good : s.coreFenced p.dst = false) (here : s.resident p.dst p.slot = true)
include arrives mine good here

theorem netSend_delivers (held : s.heldFor p.dst p.slot p.addr = []) (posted : (s.ctxOf p.dst p.slot).posted = [b])
    (channel : b.channel = p.addr) (free : b.taken = none) (got : b.got = 0) (whole : b.len = p.total) (first : p.off = 0)
    (length : p.bytes.length = p.total) :
    ∃ t, doNetSend id parity s = t ∧
      t.cores.store = memPutBytes s.cores.store (p.dst * storeSize + b.addr) (p.bytes.take (storeSize - b.addr)) ∧
      (t.ctxOf p.dst p.slot).posted = [] ∧
      (t.coreRec p.dst).queue = (s.coreRec p.dst).queue.map (fun e => if e.uid = b.uid then { e with done := true } else e) ∧
      t.mem = s.mem ∧
      contents t = (contents s).filter (fun x => decide (x.id ≠ id)) ++ [({ p with
        id := s.net.nextId, kind := .ack, src := p.dst, dst := p.src, bytes := [], err := none, aged := false,
        asked := false } : Packet).content] := by
  have kind := (arrivable_packet arrives).2
  obtain ⟨mem, cores, -⟩ := (takePacket_onlyNet id s).blocks
  have runs := netSend_fills (parity := parity) arrives mine good here (bufferFor_only posted channel free held)
  have packets := takePacket_contents id s
  have next_ := takePacket_nextId id s
  generalize takePacket id s = z at runs mem cores packets next_
  have posted' : (z.ctxOf p.dst p.slot).posted = [b] := by rw [ctxOf_congr (congrArg CoresBlk.ctx cores)]; exact posted
  rw [deliver_whole posted' free whole got first length] at runs
  have taken : ((setCtx p.dst p.slot (fun c => { c with posted := c.posted.map (fun x =>
      if x.uid = b.uid then { x with taken := some (p.core, p.uid), bad := false } else x) }) z).ctxOf p.dst p.slot).posted
      = [{ b with taken := some (p.core, p.uid), bad := false }] := by
    rw [setCtx_ctxOf_same, posted', List.map_singleton, if_pos rfl]
  obtain ⟨memT, coresT, -⟩ := (answer_onlyNet p .ack [] none (doneEntry p.dst b.uid
    (setCtx p.dst p.slot (fun c => { c with posted := c.posted.filter (fun x => decide (x.uid ≠ b.uid)) })
      (putStore p.dst b.addr p.bytes
        (setCtx p.dst p.slot (fun c => { c with posted := c.posted.map (fun x =>
          if x.uid = b.uid then { x with taken := some (p.core, p.uid), bad := false } else x) }) z))))).blocks
  refine ⟨_, runs, ?_, ?_, ?_, memT.trans mem, ?_⟩
  · rw [coresT, ← cores]
    rfl
  · rw [ctxOf_congr (congrArg CoresBlk.ctx coresT)]
    show ((setCtx p.dst p.slot (fun c => { c with posted := c.posted.filter (fun x => decide (x.uid ≠ b.uid)) }) _).ctxOf
      p.dst p.slot).posted = []
    rw [setCtx_ctxOf_same, putStore_ctxOf, taken]
    simp
  · rw [coreRec_congr coresT, doneEntry, queue_updEntry, setCtx_coreRec, putStore_coreRec, setCtx_coreRec, coreRec_congr cores]
  · rw [answer_contents, kind, ← next_, ← packets]
    rfl

end WholeSend

/-! ## The network's own commands -/

theorem creditReturn_takes {s : State} {link vc : Nat} {p : Packet} (powered : s.powered = true)
    (oldest : s.net.packets.find? (fun p => decide (p.lastHop = some (4 * link + vc)) && decide (p.inBuffer (4 * link + vc) ≠ 0))
      = some p) :
    doFlitCreditReturn link vc s = flowAll { s with net := { s.net with packets := s.net.packets.map (fun q =>
      if q.id = p.id then { q with hops := q.hops.map (fun h => if h.1 = 4 * link + vc then (h.1, h.2 - 1) else h) } else q) } } := by
  rw [doFlitCreditReturn, oldest]
  refine if_neg ?_
  rw [powered]
  decide

theorem flows_credit (id key : Nat) (s : State) : Flows s { s with net := { s.net with packets := s.net.packets.map (fun q =>
    if q.id = id then { q with hops := q.hops.map (fun h => if h.1 = key then (h.1, h.2 - 1) else h) } else q) } } := by
  refine ⟨_, s.net.regions, s.net.sills, content_map (fun q => ?_) s.net.packets, rfl⟩
  split <;> rfl

theorem setNet_replays (r : Nat) (s : State) :
    (mapGet netRec0 (setNet r (fun x => { x with replays := satAdd 32 x.replays 1 }) s).net.regions r).replays
      = satAdd 32 (mapGet netRec0 s.net.regions r).replays 1 := by
  rw [setNet, mapGet_mapMod_same]

/-- A replay is counted in the record of its link's region or sill. -/
theorem countReplay_effect (l : Nat) (s : State) :
    (l < 0xC000 → (mapGet netRec0 (countReplay l s).net.regions (regionOf (l / 4))).replays
      = satAdd 32 (mapGet netRec0 s.net.regions (regionOf (l / 4))).replays 1) ∧
    (0xC000 ≤ l → l < 0xC200 → (mapGet netRec0 (countReplay l s).net.regions (l - 0xC000)).replays
      = satAdd 32 (mapGet netRec0 s.net.regions (l - 0xC000)).replays 1) ∧
    countReplay l s = withNet s s.net.packets (countReplay l s).net.regions (countReplay l s).net.sills := by
  unfold countReplay
  split
  · rename_i port
    exact ⟨fun _ => setNet_replays _ s, fun hinge => absurd port (Nat.not_lt.2 hinge), rfl⟩
  · rename_i notPort
    split
    · exact ⟨fun port => absurd port notPort, fun _ _ => setNet_replays _ s, rfl⟩
    · rename_i notHinge
      exact ⟨fun port => absurd port notPort, fun _ hinge => absurd hinge notHinge, rfl⟩

/-- A link's replays with one more. -/
def replayed (l : Nat) (again : Bool) (s : State) : State :=
  { s with net := { s.net with replay := mapMod linkReplay0 s.net.replay l (fun x =>
    { inRow := if again then x.inRow + 1 else 1, sec := s.frm.tc / 1000000000
      inSec := if x.sec = s.frm.tc / 1000000000 then x.inSec + 1 else 1 }) } }

theorem replayed_same (l : Nat) (again : Bool) (s : State) : mapGet linkReplay0 (replayed l again s).net.replay l =
    { inRow := if again then (mapGet linkReplay0 s.net.replay l).inRow + 1 else 1, sec := s.frm.tc / 1000000000
      inSec := if (mapGet linkReplay0 s.net.replay l).sec = s.frm.tc / 1000000000 then
        (mapGet linkReplay0 s.net.replay l).inSec + 1 else 1 } := by
  rw [replayed, mapGet_mapMod_same]

theorem replayed_other {l k : Nat} (again : Bool) (s : State) (ne : k ≠ l) :
    mapGet linkReplay0 (replayed l again s).net.replay k = mapGet linkReplay0 s.net.replay k := by
  rw [replayed, mapGet_mapMod_other _ _ _ ne]

theorem crcError_counts {s : State} {l : Nat} {again : Bool} (powered : s.powered = true) :
    doFlitCrcError l again s = countReplay l (replayed l again s) := (if_pos powered).trans rfl

/-- A request with its age marked, counted in the region of its tile. -/
def agedState (id r : Nat) (s : State) : State :=
  setNet r (fun x => { x with aged := satAdd 32 x.aged 1 })
    { s with net := { s.net with packets := s.net.packets.map (fun q => if q.id = id then { q with aged := true } else q) } }

theorem agedState_regions (id r : Nat) (s : State) :
    (mapGet netRec0 (agedState id r s).net.regions r).aged = satAdd 32 (mapGet netRec0 s.net.regions r).aged 1 ∧
    ∀ k, k ≠ r → mapGet netRec0 (agedState id r s).net.regions k = mapGet netRec0 s.net.regions k := by
  refine ⟨?_, fun k ne => ?_⟩
  · rw [agedState, setNet, mapGet_mapMod_same]
  · rw [agedState, setNet, mapGet_mapMod_other _ _ _ ne]

theorem requestAged_marks {s : State} {id : Nat} {p : Packet} (powered : s.powered = true)
    (found : s.net.packets.find? (fun p => decide (p.id = id)) = some p) (young : p.aged = false) (waits : p.arrived ≠ 0)
    (due : p.arrived + s.agingTime (regionOf p.dst) ≤ s.frm.tc + 1) :
    doNetRequestAged id s = agedState id (regionOf p.dst) s := by
  rw [doNetRequestAged, found]
  refine if_pos ?_
  rw [powered, young, decide_eq_true waits, decide_eq_true due]
  rfl

theorem requestAged_early {s : State} {id : Nat} {p : Packet} (found : s.net.packets.find? (fun p => decide (p.id = id)) = some p)
    (early : p.arrived = 0 ∨ p.aged = true ∨ s.frm.tc + 1 < p.arrived + s.agingTime (regionOf p.dst)) :
    doNetRequestAged id s = s := by
  rw [doNetRequestAged, found]
  refine if_neg fun due => ?_
  simp only [Bool.and_eq_true, Bool.not_eq_true', decide_eq_true_eq] at due
  obtain ⟨⟨⟨-, young⟩, waits⟩, late⟩ := due
  rcases early with zero | aged | short
  · exact waits zero
  · exact absurd (young.symm.trans aged) (by decide)
  · exact absurd late (Nat.not_le.2 short)

/-- Settles O32: requests by the arbiter's turn, responses by the entry they answer, a SEND by its buffer; moving flits
keeps every packet's content. -/
theorem packetsArrive : Obligations.PacketsArrive := by
  unfold Obligations.PacketsArrive
  refine ⟨fun s s2 id beats pa fl p d arrives turn read whole => ?_, fun s s2 id beats pa fl p d arrives turn read part => ?_,
    fun s s2 id beats pa fl p c arrives turn read => congrArg _ (netRead_error arrives turn read),
    fun s id beats p d arrives turn whole data => ?_,
    fun s id beats pa fl p arrives turn => congrArg _ (netRead_waits arrives turn),
    fun s s2 id beats pa p arrives mine turn write whole => congrArg _ (netWrite_done arrives mine turn write whole),
    fun s s2 id beats pa p c arrives mine turn write => congrArg _ (netWrite_error arrives mine turn write),
    fun s id beats p arrives mine turn fresh length fits words _ unlocked open_ path => ?_,
    fun s id beats pa p arrives late => congrArg _ (netWrite_late arrives late),
    fun s id p e arrives there last _ queue ready => ?_,
    fun s id p arrives gone => congrArg _ (netReadData_gone arrives gone),
    fun s id p e arrives there => congrArg _ (netAck_counts arrives there),
    fun s id p arrives gone => congrArg _ (netAck_gone arrives gone),
    fun s id p e c arrives there cause queue ready => ?_,
    fun s id p arrives gone => congrArg _ (netError_gone arrives gone),
    fun s id pa p b arrives mine good here held posted channel free got _ whole first length => ?_,
    fun s id pa p arrives mine fenced => congrArg _ (netSend_fenced arrives mine fenced),
    fun s id pa p arrives mine good away => congrArg _ (netSend_away arrives mine good away),
    fun s id pa p arrives mine good here none_ room => ?_, fun s id pa p arrives mine good here none_ full => ?_,
    fun s id pa p arrives late => congrArg _ (netSend_late arrives late),
    fun s id beats pa fl noRead noWrite noSend noData noAck noError => ?_,
    fun s link vc p port class_ powered oldest => ?_, fun s link vc port class_ none_ => ?_,
    fun s l again exists_ powered => ?_, fun s id p powered found young waits due => ?_,
    fun s id p found early => congrArg _ (requestAged_early found early)⟩
  · exact congrArg _ ((netRead_data arrives turn read).trans (if_pos whole))
  · exact congrArg _ ((netRead_data arrives turn read).trans (if_neg part))
  · obtain ⟨t, runs, packets, dram, check, cores⟩ := netRead_answers arrives turn whole data
    exact ⟨t, congrArg _ runs, by rw [content_filter]; exact packets, dram, check, cores⟩
  · obtain ⟨t, runs, dram, packets, cores, errors⟩ :=
      netWrite_stores arrives mine turn fresh length fits words unlocked open_ path
    exact ⟨t, congrArg _ runs, dram, by rw [content_filter]; exact packets, cores, errors⟩
  · obtain ⟨t, runs, store, entry, mem, packets⟩ := netReadData_last arrives there last queue ready
    exact ⟨t, congrArg _ runs, store, entry, mem, by rw [content_filter]; exact packets⟩
  · obtain ⟨t, runs, stopped_, fault, entry, mem, store, packets⟩ := netError_ends arrives there cause queue ready
    exact ⟨t, congrArg _ runs, stopped_, fault, entry, mem, store, by rw [content_filter]; exact packets⟩
  · obtain ⟨t, runs, store, buffers, entry, mem, packets⟩ :=
      netSend_delivers (parity := pa) arrives mine good here held posted channel free got whole first length
    exact ⟨t, congrArg _ runs, store, buffers, entry, mem, by rw [content_filter]; exact packets⟩
  · obtain ⟨mem, cores, -⟩ := (takePacket_onlyNet id s).blocks
    refine ⟨_, congrArg Host.Outcome.next ((netSend_unposted arrives mine good here none_).trans (if_pos room)), ?_, ?_, cores, mem⟩
    · show (takePacket id s).net.held ++ [p] = _
      rw [takePacket_held]
    · rw [content_filter]
      exact takePacket_contents id s
  · exact congrArg _ ((netSend_unposted arrives mine good here none_).trans (if_neg (Nat.not_lt.2 full)))
  · refine ⟨congrArg Host.Outcome.next ?_, congrArg Host.Outcome.next ?_, congrArg Host.Outcome.next ?_,
      congrArg Host.Outcome.next ?_, congrArg Host.Outcome.next ?_, congrArg Host.Outcome.next ?_⟩
    · rw [doNetRead, noRead]
    · rw [doNetWrite, noWrite]
    · rw [doNetSend, noSend]
    · rw [doNetReadData, noData]
    · rw [doNetAck, noAck]
    · rw [doNetError, noError]
  · have flows := (flows_credit p.id (4 * link + vc) s).trans (flows_flowAll _)
    exact ⟨_, (onUnit_runs ⟨port, class_⟩).trans (congrArg _ (creditReturn_takes powered oldest)), rfl, flows.content,
      flows.onlyNet.frame⟩
  · refine (onUnit_runs ⟨port, class_⟩).trans (congrArg _ ?_)
    rw [doFlitCreditReturn, none_]
  · obtain ⟨ports, hinges, frame⟩ := countReplay_effect l (replayed l again s)
    have replay := congrArg (fun t => t.net.replay) frame
    refine ⟨_, (onUnit_runs exists_).trans (congrArg _ (crcError_counts powered)), rfl, ports, hinges, ?_, fun k ne => ?_, ?_⟩
    · exact (congrArg (fun m => mapGet linkReplay0 m l) replay).trans (replayed_same l again s)
    · exact (congrArg (fun m => mapGet linkReplay0 m k) replay).trans (replayed_other again s ne)
    · rw [replay]
      exact frame
  · obtain ⟨counts, others⟩ := agedState_regions id (regionOf p.dst) s
    exact ⟨_, congrArg Host.Outcome.next (requestAged_marks powered found young waits due), rfl, counts, others, rfl⟩

end Sys2Proof.Proofs
end


section
/-! The owning core's requests on its sash (R130). -/
namespace Sys2Proof.Proofs
set_option Elab.async false
open Sys2Proof.Machine Sys2Proof.Laws

/-! ## Accesses that cross no network -/

section Local
variable {w : Who} (local_ : w.unit = none)
include local_

theorem netAccess_local (a len : Nat) (write : Bool) (s : State) : netAccess w a len write s = s := by
  rw [netAccess, local_]

theorem writeBytes_local {a : Nat} {bytes : List Nat} {s : State} (path : s.pathBad a = false)
    (unlocked : s.lockedIn a (bytes.length / 32) = false) (open_ : s.blockedIn a (bytes.length / 32) = none) :
    writeBytes w false a bytes s = (none, storeWords (bytes.length / 32) a bytes s) := by
  unfold writeBytes
  simp only [netAccess_local local_, unlocked, open_, path]
  rfl

theorem readBytes_local {parity : Bool} {a len : Nat} {s t : State} {ans : MemAns}
    (read : readBytes w parity a len s = (ans, t)) :
    t = (readWords w parity ((a + len + 31) / 32 - a / 32) (a / 32 * 32) [] s).2 := by
  rw [readBytes, netAccess_local local_] at read
  split at read
  · rename_i _ d s' words
    rw [words]
    exact ((Prod.ext_iff.1 read).2).symm
  · exact ((Prod.ext_iff.1 read).2).symm

theorem readBytes_local_net {parity : Bool} {a len : Nat} {s t : State} {ans : MemAns}
    (read : readBytes w parity a len s = (ans, t)) : t.net = s.net := by
  have free : false = false := rfl
  have words : Keeps (Untouched.allBut [.reports, .mem]) s
      (readWords w parity ((a + len + 31) / 32 - a / 32) (a / 32 * 32) [] s).2 := readWords_keeps w parity _ _ _ _ (Keeps.refl _)
  rw [readBytes_local local_ read]
  exact words.net rfl

end Local

/-! ## Reading leaves the arbiters' queues -/

/-- What waits at the tiles is the same. -/
def SameQueues (s t : State) : Prop := ∀ n, (t.tileRec n).queue = (s.tileRec n).queue

theorem SameQueues.refl (s : State) : SameQueues s s := fun _ => rfl

theorem SameQueues.trans {s t u : State} (first : SameQueues s t) (second : SameQueues t u) : SameQueues s u :=
  fun n => (second n).trans (first n)

theorem sameQueues_of_tiles {s t : State} (same : t.mem.tiles = s.mem.tiles) : SameQueues s t := fun n => by
  rw [State.tileRec, same]
  rfl

theorem sameQueues_setTile {n : Nat} {f : Tile → Tile} (keeps : ∀ x, (f x).queue = x.queue) (s : State) :
    SameQueues s (setTile n f s) := fun m => by
  by_cases here : m = n
  · rw [here, setTile_tileRec_same, keeps]
  · rw [setTile_tileRec_other n f s here]

theorem sameQueues_countCorrected (n : Nat) (s : State) : SameQueues s (countCorrected n s) := by
  unfold countCorrected
  refine SameQueues.trans (t := { s with mem := { s.mem with corrected := satAdd 32 s.mem.corrected 1 } })
    (sameQueues_of_tiles rfl) (sameQueues_setTile (fun x => ?_) _)
  split <;> rfl

theorem sameQueues_readWord {w : Who} {parity : Bool} {a : Nat} {s t : State} {d : List Nat}
    (read : readWord w parity a s = (.data d, t)) : SameQueues s t := by
  unfold readWord at read
  split at read
  · exact absurd (Prod.ext_iff.1 read).1 (by simp)
  · extract_lets z at read
    split at read
    · exact absurd (Prod.ext_iff.1 read).1 (by simp)
    · split at read
      · have after : z = t := (Prod.mk.inj read).2
        rw [← after]
        exact sameQueues_of_tiles rfl
      · have after : countCorrected (tileOf a) z = t := (Prod.mk.inj read).2
        rw [← after]
        exact SameQueues.trans (t := z) (sameQueues_of_tiles rfl) (sameQueues_countCorrected _ z)
      · exact absurd (Prod.ext_iff.1 read).1 (by simp)

theorem sameQueues_readWords {w : Who} {parity : Bool} {n : Nat} : ∀ {a : Nat} {acc d : List Nat} {s t : State},
    readWords w parity n a acc s = (.data d, t) → SameQueues s t := by
  induction n with
  | zero =>
    intro a acc d s t read
    have after : s = t := congrArg Prod.snd read
    rw [← after]
    exact .refl s
  | succ n ih =>
    intro a acc d s t read
    rw [readWords] at read
    split at read
    · rename_i _ e s' word
      exact (sameQueues_readWord word).trans (ih read)
    · exact absurd (Prod.ext_iff.1 read).1 (by simp)

theorem sameQueues_readBytes {w : Who} (local_ : w.unit = none) {parity : Bool} {a len : Nat} {s t : State} {d : List Nat}
    (read : readBytes w parity a len s = (.data d, t)) : SameQueues s t := by
  rw [readBytes, netAccess_local local_] at read
  split at read
  · rename_i _ e s' words
    have after : s' = t := (Prod.mk.inj read).2
    rw [← after]
    exact sameQueues_readWords words
  · rename_i fails
    exact absurd read (fails _ _)

/-! ## The first request at a tile -/

/-- The requester of an owning core's accesses. -/
def owner (n : Nat) : Who := { code := 1, source := n }

section Serve
variable {s : State} {n beats : Nat} {parity store : Bool} {flips : List (Nat × Nat)} {q : SashReq} {rest : List SashReq}

theorem ownerRequest_waits (waits : (s.tileRec n).retraining = true ∨ s.agedWaits n = true ∨ s.coreRuns n = false ∨
    (s.tileRec n).queue = []) : doOwnerSashRequest n beats parity store flips s = s := by
  unfold doOwnerSashRequest
  split
  · rfl
  · rename_i goes
    simp only [Bool.or_eq_true, Bool.not_eq_true', not_or] at goes
    obtain ⟨⟨runs, trained⟩, unaged⟩ := goes
    rcases waits with retrains | aged | still | empty
    · exact absurd retrains trained
    · exact absurd aged unaged
    · exact absurd still runs
    · rw [empty]

variable (runs : s.coreRuns n = true) (trained : (s.tileRec n).retraining = false) (unaged : s.agedWaits n = false)
  (queue : (s.tileRec n).queue = q :: rest)
include runs trained unaged queue

omit queue in
theorem ownerRequest_goes : (!s.coreRuns n || (s.tileRec n).retraining || s.agedWaits n) = false := by
  rw [runs, trained, unaged]
  rfl

theorem ownerRequest_gone (gone : s.entryOf n q.uid = none) :
    doOwnerSashRequest n beats parity store flips s = setTile n (fun x => { x with queue := rest }) s := by
  simp only [doOwnerSashRequest, ownerRequest_goes runs trained unaged, queue, gone, Bool.false_eq_true, if_false]

variable {e : QEntry} (there : s.entryOf n q.uid = some e)
include there

theorem ownerRequest_store (write : q.write = true) :
    doOwnerSashRequest n beats parity true flips s = failOwner n 1 e s := by
  simp only [doOwnerSashRequest, ownerRequest_goes runs trained unaged, queue, there, write, Bool.false_eq_true,
    if_false, if_true]

variable {s2 : State}

theorem ownerRequest_written (write : q.write = true) (stores : writeBytes (owner n) parity (q.addr + q.done)
      (s.storeBytes n (q.local_ + q.done) (min (32 * beats) (q.len - q.done))) s = (none, s2)) :
    doOwnerSashRequest n beats parity false flips s = servedOwner n (min (32 * beats) (q.len - q.done)) q s2 := by
  rw [owner] at stores
  simp only [doOwnerSashRequest, ownerRequest_goes runs trained unaged, queue, there, write, stores, Bool.false_eq_true,
    if_false, if_true]

theorem ownerRequest_unwritten {c : Nat} (write : q.write = true) (stores : writeBytes (owner n) parity (q.addr + q.done)
      (s.storeBytes n (q.local_ + q.done) (min (32 * beats) (q.len - q.done))) s = (some c, s2)) :
    doOwnerSashRequest n beats parity false flips s = failOwner n (inFlightFault c) e s2 := by
  rw [owner] at stores
  simp only [doOwnerSashRequest, ownerRequest_goes runs trained unaged, queue, there, write, stores, Bool.false_eq_true,
    if_false, if_true]

theorem ownerRequest_read {d : List Nat} (write : q.write = false) (read : readBytes (owner n) parity (q.addr + q.done)
      (min (32 * beats) (q.len - q.done)) (flipSymbols q.addr flips s) = (.data d, s2)) :
    doOwnerSashRequest n beats parity store flips s
      = servedOwner n (min (32 * beats) (q.len - q.done)) q (putStore n (q.local_ + q.done) d s2) := by
  rw [owner] at read
  simp only [doOwnerSashRequest, ownerRequest_goes runs trained unaged, queue, there, write, read, Bool.false_eq_true,
    if_false]

theorem ownerRequest_unread {c : Nat} (write : q.write = false) (read : readBytes (owner n) parity (q.addr + q.done)
      (min (32 * beats) (q.len - q.done)) (flipSymbols q.addr flips s) = (.error c, s2)) :
    doOwnerSashRequest n beats parity store flips s = failOwner n (inFlightFault c) e s2 := by
  rw [owner] at read
  simp only [doOwnerSashRequest, ownerRequest_goes runs trained unaged, queue, there, write, read, Bool.false_eq_true,
    if_false]

end Serve

/-- The state after the last bytes of the first request of a tile, whose descriptor nothing else waits for. -/
theorem servedOwner_last {n k : Nat} {q : SashReq} {rest : List SashReq} {e : QEntry} {z : State} (last : q.done + k = q.len)
    (waiting : (z.tileRec n).queue = q :: rest) (queue : (z.coreRec n).queue = [e]) (uid : e.uid = q.uid)
    (issued : e.issued = e.need) (ready : (z.walkerOf (regionOf n)).ready = []) :
    (servedOwner n k q z).mem.dram = z.mem.dram ∧ (servedOwner n k q z).cores.store = z.cores.store ∧
    ((servedOwner n k q z).tileRec n).queue = rest ∧
    ((servedOwner n k q z).coreRec n).queue = [{ e with got := e.got + 1, done := decide (e.got + 1 = e.need) }] ∧
    (servedOwner n k q z).net = z.net := by
  have served : ((gotPiece n q.uid (setTile n (fun x => { x with queue := x.queue.tail }) z)).coreRec n).queue
      = [{ e with got := e.got + 1, done := decide (e.got + 1 = e.need) }] := by
    rw [gotPiece, queue_updEntry]
    show (z.coreRec n).queue.map _ = _
    rw [queue, List.map_singleton, if_pos uid]
  have none_ : [({ e with got := e.got + 1, done := decide (e.got + 1 = e.need) } : QEntry)].find?
      (fun e => e.started && !e.done && decide (kindOf e.w0 = 1) && decide (e.issued < e.need)) = none := by
    refine List.find?_cons_of_neg ?_
    have all : ¬ e.issued < e.need := by omega
    simp [all]
  have idle := resumeReads_idle (n := n) (s := gotPiece n q.uid (setTile n (fun x => { x with queue := x.queue.tail }) z))
    ready (by rw [served]; exact none_)
  have tail : ((setTile n (fun x => { x with queue := x.queue.tail }) z).tileRec n).queue = rest := by
    rw [setTile_tileRec_same, waiting]
    rfl
  have eq : servedOwner n k q z = setWalker (regionOf n) (fun w => { w with ready := [] })
      (gotPiece n q.uid (setTile n (fun x => { x with queue := x.queue.tail }) z)) := (if_pos last).trans idle
  rw [eq]
  exact ⟨rfl, rfl, tail, served, rfl⟩

/-- Settles O33: the first request of the tile is served through `writeBytes` or `readBytes`; its last word counts for the
descriptor. -/
theorem ownerRequests : Obligations.OwnerRequests := by
  unfold Obligations.OwnerRequests
  refine ⟨fun s s2 n beats pa fl q rest e there runs trained unaged queue entry write stores => ?_,
    fun s s2 n beats pa fl q rest e d there runs trained unaged queue entry write read => ?_,
    fun s s2 n beats pa fl q rest e c there runs trained unaged queue entry write stores => ?_,
    fun s s2 n beats pa fl q rest e c there runs trained unaged queue entry write read => ?_,
    fun s n beats pa fl q rest e there runs trained unaged queue entry write => ?_,
    fun s n beats pa st fl q rest there runs trained unaged queue gone => ?_,
    fun s n beats q rest e there runs trained unaged queue cores issued ready fresh fits uid write addr words unlocked
      open_ path => ?_,
    fun s n beats q rest e d there runs trained unaged queue cores issued ready fresh fits uid write data => ?_,
    fun s n beats pa st fl there waits => ?_⟩
  · exact (onUnit_runs there).trans (congrArg _ (ownerRequest_written runs trained unaged queue entry write stores))
  · exact (onUnit_runs there).trans (congrArg _ (ownerRequest_read runs trained unaged queue entry write read))
  · exact (onUnit_runs there).trans (congrArg _ (ownerRequest_unwritten runs trained unaged queue entry write stores))
  · exact (onUnit_runs there).trans (congrArg _ (ownerRequest_unread runs trained unaged queue entry write read))
  · exact (onUnit_runs there).trans (congrArg _ (ownerRequest_store runs trained unaged queue entry write))
  · exact (onUnit_runs there).trans (congrArg _ (ownerRequest_gone runs trained unaged queue gone))
  · have entry : s.entryOf n q.uid = some e := by
      rw [State.entryOf, cores, List.find?_cons_of_pos (by rw [uid]; simp)]
    have all : min (32 * beats) (q.len - q.done) = q.len := by omega
    have length : (s.storeBytes n (q.local_ + q.done) (min (32 * beats) (q.len - q.done))).length = q.len := by
      rw [State.storeBytes, length_memBytes, all]
    have stores := writeBytes_local (w := owner n) rfl (a := q.addr + q.done)
      (bytes := s.storeBytes n (q.local_ + q.done) (min (32 * beats) (q.len - q.done))) (s := s) (by rw [fresh]; exact path)
      (by rw [length, fresh]; exact unlocked) (by rw [length, fresh]; exact open_)
    have dram := storeWords_dram (n := (s.storeBytes n (q.local_ + q.done) (min (32 * beats) (q.len - q.done))).length / 32)
      (bytes := s.storeBytes n (q.local_ + q.done) (min (32 * beats) (q.len - q.done))) (q.addr + q.done) s
      (by rw [length]; omega)
    obtain ⟨net, cores', -, tiles, walkers⟩ := storeWords_net
      ((s.storeBytes n (q.local_ + q.done) (min (32 * beats) (q.len - q.done))).length / 32) (q.addr + q.done)
      (s.storeBytes n (q.local_ + q.done) (min (32 * beats) (q.len - q.done))) s
    have serves := ownerRequest_written (flips := []) runs trained unaged queue entry write stores
    generalize storeWords _ (q.addr + q.done) _ s = z at serves dram net cores' tiles walkers
    rw [all, fresh] at dram
    obtain ⟨dram', store, tile, entries, net'⟩ := servedOwner_last (z := z) (k := min (32 * beats) (q.len - q.done)) (rest := rest)
      (by omega) ((sameQueues_of_tiles tiles n).trans queue) (by rw [coreRec_congr cores']; exact cores) uid issued
      (by rw [walkerOf_congr walkers]; exact ready)
    exact ⟨_, (onUnit_runs there).trans (congrArg _ serves), dram'.trans dram, store.trans (congrArg CoresBlk.store cores'),
      tile, entries, net'.trans net⟩
  · have entry : s.entryOf n q.uid = some e := by
      rw [State.entryOf, cores, List.find?_cons_of_pos (by rw [uid]; simp)]
    have all : min (32 * beats) (q.len - q.done) = q.len := by omega
    cases read : readBytes (owner n) false q.addr q.len s with
    | mk ans z =>
      obtain rfl : ans = .data d := (congrArg Prod.fst read).symm.trans data
      have read' : readBytes (owner n) false (q.addr + q.done) (min (32 * beats) (q.len - q.done)) (flipSymbols q.addr [] s)
          = (.data d, z) := by rw [all, fresh]; exact read
      obtain ⟨dram, -, cores', walkers⟩ := readBytes_leaves read
      have net := readBytes_local_net (w := owner n) rfl read
      have serves := ownerRequest_read (store := false) runs trained unaged queue entry write read'
      have waiting : ((putStore n (q.local_ + q.done) d z).tileRec n).queue = q :: rest :=
        (sameQueues_readBytes (w := owner n) rfl read n).trans queue
      obtain ⟨dram', store, tile, entries, net'⟩ := servedOwner_last (z := putStore n (q.local_ + q.done) d z)
        (k := min (32 * beats) (q.len - q.done)) (rest := rest) (by omega) waiting
        (by rw [putStore_coreRec, coreRec_congr cores']; exact cores) uid issued
        ((congrArg Walker.ready (walkerOf_congr (s := s) (t := z) walkers (regionOf n))).trans ready)
      refine ⟨_, (onUnit_runs there).trans (congrArg _ serves), store.trans ?_, dram'.trans dram, tile, entries, net'.trans net⟩
      rw [fresh, ← cores']
      rfl
  · exact (onUnit_runs there).trans (congrArg _ (ownerRequest_waits waits))

end Sys2Proof.Proofs
end


section
/-! The start of LOAD, STORE, SEND and RECV on their units (R58, R63, R64, R172). -/
namespace Sys2Proof.Proofs
set_option Elab.async false
open Sys2Proof.Machine Sys2Proof.Laws

/-! ## The head of a queue starts -/

section RunUnit
variable {s : State} {n : Nat} {q : UnitQ} {is_ : QEntry → Bool} {parity : Bool} {body : QEntry → State → State}

theorem runUnit_idle (none_ : s.startable n q = none) : runUnit n q is_ parity body s = s := by
  rw [runUnit, none_]

variable {e : QEntry} (head : s.startable n q = some e)
include head

theorem runUnit_starts (kind : is_ e = true) : runUnit n q is_ parity body s =
    if parity then faultEntry n e 1 (startEntry n e s) else body { e with started := true } (startEntry n e s) := by
  rw [runUnit, head]
  exact if_pos kind

theorem runUnit_other (kind : is_ e = false) : runUnit n q is_ parity body s = s := by
  rw [runUnit, head]
  exact if_neg (Bool.eq_false_iff.1 kind)

end RunUnit

theorem queue_startEntry (n : Nat) (e : QEntry) (s : State) : ((startEntry n e s).coreRec n).queue =
    (s.coreRec n).queue.map (fun x => if x.uid = e.uid then { x with started := true, since := s.frm.tc } else x) :=
  queue_updEntry ..

theorem ctxOf_startEntry (n : Nat) (e : QEntry) (s : State) :
    (startEntry n e s).ctxOf n e.slot = (s.ctxOf n e.slot).consumePre e.w0 := by
  show (setCtx n e.slot (fun c => c.consumePre e.w0) s).ctxOf n e.slot = _
  rw [setCtx_ctxOf_same]

/-- A change of an entry that keeps its number. -/
theorem entryOf_updEntry {n uid : Nat} {f : QEntry → QEntry} {s : State} (keeps : ∀ x, (f x).uid = x.uid) {e : QEntry}
    (there : s.entryOf n uid = some e) : (updEntry n uid f s).entryOf n uid = some (f e) := by
  have ident := uid_of_entryOf there
  have same : (fun x : QEntry => decide (x.uid = uid)) ∘ (fun x => if x.uid = uid then f x else x)
      = fun x => decide (x.uid = uid) := by
    funext x
    by_cases here : x.uid = uid
    · simp only [Function.comp, here, if_true, keeps]
    · simp only [Function.comp, here, if_false]
  rw [State.entryOf, queue_updEntry, List.find?_map, same]
  refine (congrArg (Option.map _) there).trans ?_
  rw [Option.map_some, if_pos ident]

/-! ## A transfer of one piece -/

/-- Only the cores' queues and contexts and the walkers differ. -/
def OnlyQueues (s t : State) : Prop :=
  ∃ core ctx walkers, t = { s with cores := { s.cores with core := core, ctx := ctx }, walkers := walkers }

theorem OnlyQueues.trans {s t u : State} (first : OnlyQueues s t) (second : OnlyQueues t u) : OnlyQueues s u := by
  obtain ⟨_, _, _, rfl⟩ := first
  obtain ⟨core, ctx, walkers, rfl⟩ := second
  exact ⟨core, ctx, walkers, rfl⟩

theorem onlyQueues_updEntry (n uid : Nat) (f : QEntry → QEntry) (s : State) : OnlyQueues s (updEntry n uid f s) :=
  ⟨_, s.cores.ctx, s.walkers, rfl⟩

theorem onlyQueues_startEntry (n : Nat) (e : QEntry) (s : State) : OnlyQueues s (startEntry n e s) :=
  ⟨_, _, s.walkers, rfl⟩

theorem onlyQueues_discardLooks (r : Nat) (l : List Nat) (s : State) : OnlyQueues s (discardLooks r l s) := by
  unfold discardLooks
  split
  · exact ⟨s.cores.core, s.cores.ctx, s.walkers, rfl⟩
  · exact ⟨s.cores.core, s.cores.ctx, _, rfl⟩

theorem discardLooks_cores (r : Nat) (l : List Nat) (s : State) : (discardLooks r l s).cores = s.cores := by
  unfold discardLooks
  split <;> rfl

theorem blockedIn_of_flp {s t : State} (same : t.flp = s.flp) (a n : Nat) : t.blockedIn a n = s.blockedIn a n := by
  have word (b : Nat) : t.wordBlocked b = s.wordBlocked b := by
    rw [State.wordBlocked, State.wordBlocked, State.bankFenced, fence_congr same]
    rfl
  induction n generalizing a with
  | zero => rfl
  | succ n ih => rw [State.blockedIn, State.blockedIn, word, ih]

/-- What the queue holds of an entry whose single piece is issued. -/
def issuedEntry (tc : Nat) (e : QEntry) : QEntry := { e with started := true, since := tc, need := 1, issued := e.issued + 1 }

/-- The state in which the single piece of a transfer is issued. -/
def oneIssued (n : Nat) (looks : List Nat) (e : QEntry) (s : State) : State :=
  updEntry n e.uid (fun x => { x with issued := x.issued + 1 })
    (discardLooks (regionOf n) looks (updEntry n e.uid (fun x => { x with need := 1 }) (startEntry n e s)))

theorem onlyQueues_oneIssued (n : Nat) (looks : List Nat) (e : QEntry) (s : State) :
    OnlyQueues s (oneIssued n looks e s) :=
  (((onlyQueues_startEntry n e s).trans (onlyQueues_updEntry n e.uid _ _)).trans (onlyQueues_discardLooks _ _ _)).trans
    (onlyQueues_updEntry n e.uid _ _)

theorem queue_oneIssued (n : Nat) (looks : List Nat) (e : QEntry) (s : State) :
    ((oneIssued n looks e s).coreRec n).queue
      = (s.coreRec n).queue.map (fun x => if x.uid = e.uid then issuedEntry s.frm.tc x else x) := by
  rw [oneIssued, queue_updEntry, coreRec_congr (discardLooks_cores _ _ _), queue_updEntry, queue_startEntry, List.map_map,
    List.map_map]
  refine List.map_congr_left fun x _ => ?_
  by_cases here : x.uid = e.uid
  · simp only [Function.comp, here, if_true, issuedEntry]
  · simp only [Function.comp, here, if_false]

theorem ctxOf_oneIssued (n : Nat) (looks : List Nat) (e : QEntry) (s : State) :
    (oneIssued n looks e s).ctxOf n e.slot = (s.ctxOf n e.slot).consumePre e.w0 := by
  rw [← ctxOf_startEntry]
  have same := congrArg CoresBlk.ctx (discardLooks_cores (regionOf n) looks
    (updEntry n e.uid (fun x => { x with need := 1 }) (startEntry n e s)))
  exact ctxOf_congr (s := startEntry n e s) (t := oneIssued n looks e s) same n e.slot

section OnePiece
variable {s : State} {n : Nat} {e : QEntry} {p : Piece} (there : s.entryOf n e.uid = some e) (fresh : e.issued = 0)
  (pieces : transferPieces e.w0 e.w1 = [p])
include there fresh pieces

/-- A transfer of one piece issues it at once, a LOAD while fewer than 32 READs are out. -/
theorem startTransfer_one (looks : List Nat) (may : (decide (kindOf e.w0 = 1) && decide (32 ≤ s.readsOut n)) = false) :
    startTransfer n looks { e with started := true } (startEntry n e s) =
      issuePiece n { e with started := true, since := s.frm.tc, need := 1 } p (oneIssued n looks e s) := by
  have need : ∀ z, updEntry n e.uid (fun x => { x with need := (transferPieces e.w0 e.w1).length }) z
      = updEntry n e.uid (fun x => { x with need := 1 }) z := by rw [pieces]; exact fun _ => rfl
  have entry1 : (startEntry n e s).entryOf n e.uid = some { e with started := true, since := s.frm.tc } :=
    entryOf_updEntry (f := fun x => { x with started := true, since := s.frm.tc })
      (s := setCtx n e.slot (fun c => c.consumePre e.w0) s) (fun _ => rfl) there
  have entry2 := entryOf_updEntry (f := fun x => { x with need := 1 }) (fun _ => rfl) entry1
  have entry3 : (discardLooks (regionOf n) looks (updEntry n e.uid (fun x => { x with need := 1 }) (startEntry n e s))).entryOf
      n e.uid = some { e with started := true, since := s.frm.tc, need := 1 } :=
    (entryOf_congr (discardLooks_cores ..) n e.uid).trans entry2
  have out : (discardLooks (regionOf n) looks (updEntry n e.uid (fun x => { x with need := 1 }) (startEntry n e s))).readsOut n
      = s.readsOut n := by
    obtain ⟨_, _, _, eq⟩ := ((onlyQueues_startEntry n e s).trans (onlyQueues_updEntry n e.uid (fun x => { x with need := 1 })
      (startEntry n e s))).trans (onlyQueues_discardLooks (regionOf n) looks _)
    rw [eq]
    rfl
  show issueRest n e.uid (discardLooks (regionOf n) looks (updEntry n e.uid
    (fun x => { x with need := (transferPieces e.w0 e.w1).length }) (startEntry n e s))) = _
  rw [need, issueRest, entry3]
  show issueMore n e.uid ((transferPieces e.w0 e.w1).drop e.issued) _ = _
  rw [pieces, fresh, List.drop_zero, issueMore, entry3, out]
  exact if_neg (Bool.eq_false_iff.1 may)

end OnePiece

section IssueAt
variable {n : Nat} {e : QEntry} {write : Bool} {a len local_ : Nat} {s : State}

theorem issueAt_own (clear : s.issueBlocked a len = none) (own : tileOf a = n) : issueAt n e write a len local_ s =
    setTile n (fun t => { t with queue := t.queue ++ [
      { core := n, uid := e.uid, write := write, addr := a, len := len, local_ := local_ }] }) s := by
  rw [issueAt, clear]
  exact if_pos own

/-- The request packet of a piece. -/
def request (n : Nat) (e : QEntry) (write : Bool) (a len local_ : Nat) (s : State) : Packet :=
  { id := 0, kind := if write then .write else .read, src := n, dst := tileOf a, tag := some s.frameTag, addr := a
    len := len, bytes := if write then s.storeBytes n local_ len else [], slot := 0, core := n, uid := e.uid
    local_ := local_, off := 0, total := len, err := none, unsent := 0, hops := [], aged := false }

theorem issueAt_away (clear : s.issueBlocked a len = none) (away : tileOf a ≠ n) :
    issueAt n e write a len local_ s = inject (request n e write a len local_ s) s := by
  rw [issueAt, clear]
  exact if_neg away

theorem issuePiece_physical {p : Piece} (physical : isKv p.addr = false) :
    issuePiece n e p s = issueAt n e (decide (kindOf e.w0 = 2)) p.addr p.len p.local_ s :=
  if_neg (Bool.eq_false_iff.1 physical)

end IssueAt

/-- A piece on the own tile waits at the tile's arbiter. -/
theorem ownPiece_effect (n : Nat) (q : SashReq) {s z : State} (only : OnlyQueues s z) :
    ((setTile n (fun t => { t with queue := t.queue ++ [q] }) z).tileRec n).queue = (s.tileRec n).queue ++ [q] ∧
    setTile n (fun t => { t with queue := t.queue ++ [q] }) z = { s with
      mem := { s.mem with tiles := (setTile n (fun t => { t with queue := t.queue ++ [q] }) z).mem.tiles }
      cores := { s.cores with core := z.cores.core, ctx := z.cores.ctx }, walkers := z.walkers } := by
  obtain ⟨_, _, _, rfl⟩ := only
  refine ⟨?_, rfl⟩
  rw [setTile_tileRec_same]
  rfl

/-- A piece for another tile enters the network. -/
theorem awayPiece_effect {n : Nat} {e : QEntry} {write : Bool} {a len local_ : Nat} {s z : State} (only : OnlyQueues s z) :
    contents (inject (request n e write a len local_ z) z)
        = contents s ++ [({ request n e write a len local_ s with id := s.net.nextId } : Packet).content] ∧
    inject (request n e write a len local_ z) z = { s with
      net := { s.net with
        packets := (inject (request n e write a len local_ z) z).net.packets, nextId := s.net.nextId + 1
        regions := (inject (request n e write a len local_ z) z).net.regions
        sills := (inject (request n e write a len local_ z) z).net.sills }
      cores := { s.cores with core := z.cores.core, ctx := z.cores.ctx }, walkers := z.walkers } := by
  have same : request n e write a len local_ z = request n e write a len local_ s := by
    obtain ⟨_, _, _, rfl⟩ := only
    rfl
  have packets := inject_contents (request n e write a len local_ z) z
  obtain ⟨_, _, _, _, flows⟩ := flows_inject (request n e write a len local_ z) z
  refine ⟨?_, ?_⟩
  · rw [packets, same]
    obtain ⟨_, _, _, rfl⟩ := only
    rfl
  · rw [flows]
    obtain ⟨_, _, _, rfl⟩ := only
    rfl

/-! ## The commands -/

section Transfer
variable {s : State} {n : Nat} {looks : List Nat} {e : QEntry} (there : n < 12288) (head : s.startable n .transfer = some e)
include there head

theorem exec_loadDesc (kind : kindOf e.w0 = 1) : exec (.loadDesc n looks) s
    = .next (startTransfer n looks { e with started := true } (startEntry n e s)) :=
  (onUnit_runs there).trans (congrArg _ ((runUnit_starts head (decide_eq_true kind)).trans (if_neg Bool.false_ne_true)))

theorem exec_storeDesc (kind : kindOf e.w0 = 2) : exec (.storeDesc n looks false) s
    = .next (startTransfer n looks { e with started := true } (startEntry n e s)) :=
  (onUnit_runs there).trans (congrArg _ ((runUnit_starts head (decide_eq_true kind)).trans (if_neg Bool.false_ne_true)))

variable {p : Piece} (entry : s.entryOf n e.uid = some e) (fresh : e.issued = 0) (pieces : transferPieces e.w0 e.w1 = [p])
  (physical : isKv p.addr = false)
include entry fresh pieces physical

theorem loadDesc_issues (kind : kindOf e.w0 = 1) (room : s.readsOut n < 32) : exec (.loadDesc n looks) s = .next
    (issueAt n { e with started := true, since := s.frm.tc, need := 1 } false p.addr p.len p.local_ (oneIssued n looks e s)) := by
  have may : (decide (kindOf e.w0 = 1) && decide (32 ≤ s.readsOut n)) = false := by
    rw [decide_eq_false (Nat.not_le.2 room), Bool.and_false]
  have read : decide (kindOf e.w0 = 2) = false := by rw [kind]; rfl
  rw [exec_loadDesc there head kind, startTransfer_one entry fresh pieces looks may, issuePiece_physical physical, read]

theorem storeDesc_issues (kind : kindOf e.w0 = 2) : exec (.storeDesc n looks false) s = .next
    (issueAt n { e with started := true, since := s.frm.tc, need := 1 } true p.addr p.len p.local_ (oneIssued n looks e s)) := by
  have may : (decide (kindOf e.w0 = 1) && decide (32 ≤ s.readsOut n)) = false := by rw [kind]; rfl
  rw [exec_storeDesc there head kind, startTransfer_one entry fresh pieces looks may, issuePiece_physical physical,
    decide_eq_true kind]

end Transfer

theorem issueBlocked_oneIssued (n : Nat) (looks : List Nat) (e : QEntry) (s : State) (a len : Nat) :
    (oneIssued n looks e s).issueBlocked a len = s.issueBlocked a len := by
  obtain ⟨_, _, _, eq⟩ := onlyQueues_oneIssued n looks e s
  exact blockedIn_of_flp (by rw [eq]) _ _

section Effects
variable {s : State} {n : Nat} (looks : List Nat) (e : QEntry) (write : Bool) {p : Piece}
  (clear : s.issueBlocked p.addr p.len = none)
include clear

/-- What issuing the only piece of a transfer to the own tile leaves. -/
theorem issueAt_own_effect (own : tileOf p.addr = n) : ∃ t,
    issueAt n { e with started := true, since := s.frm.tc, need := 1 } write p.addr p.len p.local_ (oneIssued n looks e s) = t ∧
    (t.tileRec n).queue = (s.tileRec n).queue ++ [
      { core := n, uid := e.uid, write := write, addr := p.addr, len := p.len, local_ := p.local_ }] ∧
    (t.coreRec n).queue = (s.coreRec n).queue.map (fun x => if x.uid = e.uid then
      { x with started := true, since := s.frm.tc, need := 1, issued := x.issued + 1 } else x) ∧
    t.ctxOf n e.slot = (s.ctxOf n e.slot).consumePre e.w0 ∧
    t = { s with
      mem := { s.mem with tiles := t.mem.tiles }, cores := { s.cores with core := t.cores.core, ctx := t.cores.ctx }
      walkers := t.walkers } := by
  have queue := queue_oneIssued n looks e s
  have ctx := ctxOf_oneIssued n looks e s
  have runs := issueAt_own (e := { e with started := true, since := s.frm.tc, need := 1 }) (write := write) (local_ := p.local_)
    ((issueBlocked_oneIssued n looks e s p.addr p.len).trans clear) own
  obtain ⟨tile, frame⟩ := ownPiece_effect n
    { core := n, uid := e.uid, write := write, addr := p.addr, len := p.len, local_ := p.local_ } (onlyQueues_oneIssued n looks e s)
  generalize oneIssued n looks e s = z at runs queue ctx tile frame
  exact ⟨_, runs, tile, queue, ctx, frame⟩

/-- What issuing the only piece of a transfer into the network leaves. -/
theorem issueAt_away_effect (away : tileOf p.addr ≠ n) : ∃ t,
    issueAt n { e with started := true, since := s.frm.tc, need := 1 } write p.addr p.len p.local_ (oneIssued n looks e s) = t ∧
    contents t = contents s ++ [({ request n e write p.addr p.len p.local_ s with id := s.net.nextId } : Packet).content] ∧
    (t.coreRec n).queue = (s.coreRec n).queue.map (fun x => if x.uid = e.uid then
      { x with started := true, since := s.frm.tc, need := 1, issued := x.issued + 1 } else x) ∧
    t.ctxOf n e.slot = (s.ctxOf n e.slot).consumePre e.w0 ∧
    t = { s with
      net := { s.net with
        packets := t.net.packets, nextId := s.net.nextId + 1, regions := t.net.regions, sills := t.net.sills }
      cores := { s.cores with core := t.cores.core, ctx := t.cores.ctx }, walkers := t.walkers } := by
  have queue := queue_oneIssued n looks e s
  have ctx := ctxOf_oneIssued n looks e s
  have runs := issueAt_away (e := { e with started := true, since := s.frm.tc, need := 1 }) (write := write) (local_ := p.local_)
    ((issueBlocked_oneIssued n looks e s p.addr p.len).trans clear) away
  obtain ⟨packets, frame⟩ := awayPiece_effect (n := n) (e := { e with started := true, since := s.frm.tc, need := 1 })
    (write := write) (a := p.addr) (len := p.len) (local_ := p.local_) (onlyQueues_oneIssued n looks e s)
  generalize oneIssued n looks e s = z at runs queue ctx packets frame
  obtain ⟨-, cores, walkers⟩ :=
    (inject_onlyNet (request n { e with started := true, since := s.frm.tc, need := 1 } write p.addr p.len p.local_ z) z).blocks
  rw [← cores, ← walkers] at frame
  exact ⟨_, runs, packets, by rw [coreRec_congr cores]; exact queue,
    by rw [ctxOf_congr (congrArg CoresBlk.ctx cores)]; exact ctx, frame⟩

end Effects

/-- A piece that meets a hole or a fence faults its descriptor. -/
theorem issueAt_blocked {s : State} {n : Nat} (looks : List Nat) (e : QEntry) (write : Bool) {p : Piece}
    (blocked : (s.issueBlocked p.addr p.len).isSome = true) : ∃ t,
    issueAt n { e with started := true, since := s.frm.tc, need := 1 } write p.addr p.len p.local_ (oneIssued n looks e s) = t ∧
    (t.ctxOf n e.slot).stopped = true ∧ (t.ctxOf n e.slot).fault = 3 ∧
    (t.coreRec n).queue.all (fun x => decide (x.uid ≠ e.uid)) = true ∧ t.cores.store = s.cores.store ∧
    t.mem.dram = s.mem.dram ∧ t.net = s.net := by
  have free : false = false := rfl
  obtain ⟨⟨b, c⟩, found⟩ := Option.isSome_iff_exists.1 blocked
  obtain ⟨_, _, _, only⟩ := onlyQueues_oneIssued n looks e s
  have store : (oneIssued n looks e s).cores.store = s.cores.store := by rw [only]
  have mem : (oneIssued n looks e s).mem = s.mem := by rw [only]
  have net : (oneIssued n looks e s).net = s.net := by rw [only]
  have found' := (issueBlocked_oneIssued n looks e s p.addr p.len).trans found
  generalize oneIssued n looks e s = z at found' store mem net
  generalize entry : ({ e with started := true, since := s.frm.tc, need := 1 } : QEntry) = e'
  have slot : e'.slot = e.slot := by rw [← entry]
  have uid : e'.uid = e.uid := by rw [← entry]
  generalize who : ({ code := if tileOf p.addr = n then 1 else 2, source := n } : Who) = w
  have error : (busError w b c 0 write z).mem.dram = z.mem.dram := rfl
  have same : (busError w b c 0 write z).cores = z.cores ∧ (busError w b c 0 write z).net = z.net := ⟨rfl, rfl⟩
  have runs : issueAt n e' write p.addr p.len p.local_ z = faultEntry n e' 3 (busError w b c 0 write z) := by
    rw [issueAt, found', ← who]
  generalize busError w b c 0 write z = y at runs error same
  have kept : Keeps (Untouched.allBut [.reports, .frm, .cores]) y (faultEntry n e' 3 y) := faultEntry_keeps n e' 3 y (Keeps.refl y)
  obtain ⟨ctx, -, -, queues, -, -⟩ := descFault_effect n e'.slot e'.role e'.idx 3 (dropEntry n e'.uid y)
  refine ⟨_, runs, ?_, ?_, ?_, (kept.store rfl).trans ((congrArg CoresBlk.store same.1).trans store),
    (kept.stacked rfl).1.trans (error.trans (congrArg MemBlk.dram mem)), (kept.net rfl).trans (same.2.trans net)⟩
  · rw [← slot, faultEntry, ctx]
  · rw [← slot, faultEntry, ctx]
  · rw [faultEntry, queues n, queue_dropEntry, uid]
    exact List.all_eq_true.2 fun x inside => (List.mem_filter.1 inside).2

/-! ## SEND to a role -/

/-- The packet of one piece of a SEND. -/
def sendPacket (n : Nat) (e : QEntry) (b : Binding) (s : State) (p : Piece) : Packet :=
  { id := 0, kind := .send, src := n, dst := b.core, tag := some s.frameTag, addr := field e.w1 44 4, len := p.len
    bytes := s.storeBytes n p.local_ p.len, slot := b.slot, core := n, uid := e.uid, local_ := p.local_
    off := p.addr, total := 32 * field e.w0 5 12, err := none, unsent := 0, hops := [], aged := false }

/-- What the pieces of a SEND carry. -/
def carried (p : Packet) : PktKind × Nat × Nat × Nat × Nat × List Nat := (p.kind, p.dst, p.slot, p.addr, p.off, p.bytes)

/-- The packets of a SEND join those in flight one after the other. -/
theorem foldl_inject_send (n : Nat) (e : QEntry) (b : Binding) (pieces : List Piece) : ∀ s : State,
    OnlyNet s (pieces.foldl (fun s p => inject (sendPacket n e b s p) s) s) ∧
    ∃ sent, contents (pieces.foldl (fun s p => inject (sendPacket n e b s p) s) s) = contents s ++ sent ∧
      sent.map carried = pieces.map (fun p => carried (sendPacket n e b s p)) := by
  induction pieces with
  | nil => exact fun s => ⟨.refl s, [], (List.append_nil _).symm, rfl⟩
  | cons p rest ih =>
    intro s
    have first := inject_onlyNet (sendPacket n e b s p) s
    obtain ⟨only, sent, packets, carries⟩ := ih (inject (sendPacket n e b s p) s)
    have same : ∀ q, carried (sendPacket n e b (inject (sendPacket n e b s p) s) q) = carried (sendPacket n e b s q) := by
      obtain ⟨net, eq⟩ := first
      rw [eq]
      exact fun q => rfl
    refine ⟨first.trans only, ({ sendPacket n e b s p with id := s.net.nextId } : Packet).content :: sent, ?_, ?_⟩
    · rw [List.foldl_cons, packets, inject_contents, List.append_assoc]
      rfl
    · rw [List.map_cons, List.map_cons, carries]
      refine congrArg (carried (sendPacket n e b s p) :: ·) (List.map_congr_left fun q _ => same q)

theorem sendToRole_bound {n : Nat} {e : QEntry} {b : Binding} {s : State} (bound : s.bindingOf (field e.w1 48 16) = some b) :
    sendToRole n e s = (sendPieces e.w0).foldl (fun s p => inject (sendPacket n e b s p) s)
      (updEntry n e.uid (fun x => { x with need := (sendPieces e.w0).length, issued := (sendPieces e.w0).length }) s) := by
  rw [sendToRole, bound]
  rfl

theorem map_carried_content (l : List Packet) : (l.map Packet.content).map carried = l.map carried := by
  rw [List.map_map]
  rfl

/-! ## RECV -/

theorem consumePre_arrivals (c : Ctx) (w0 : Nat) : (c.consumePre w0).arrivals = c.arrivals := by
  unfold Ctx.consumePre
  split <;> rfl

/-- A RECV for which nothing has arrived posts its buffer. -/
theorem recvBody_posts {n : Nat} {e : QEntry} {s : State} (arrivals : (s.ctxOf n e.slot).arrivals = []) (held : s.net.held = []) :
    recvBody n e s = setCtx n e.slot (fun c => { c with posted := c.posted ++ [
      { channel := field e.w0 1 4, uid := e.uid, addr := 32 * field e.w0 17 15, len := 32 * field e.w0 5 12 }] }) s := by
  unfold recvBody
  extract_lets channel z y
  have none_ : (z.ctxOf n e.slot).arrivals = [] := by
    show ((setCtx n e.slot _ s).ctxOf n e.slot).arrivals = []
    rw [setCtx_ctxOf_same]
    exact arrivals
  have saved : y = z := by
    show feedSaved n e.slot z = z
    rw [feedSaved, none_]
    rfl
  have empty : z.heldFor n e.slot channel = [] := by
    show s.net.held.filter _ = []
    rw [held]
    rfl
  rw [saved, empty, feedPosted]

/-- Settles O31: the head that may start does, its only piece goes through `issueAt`, and the packets of a SEND join those
in flight in their order. -/
theorem transfersAreIssued : Obligations.TransfersAreIssued := by
  unfold Obligations.TransfersAreIssued
  refine ⟨fun s n looks e there head kind => exec_loadDesc there head kind, fun s n looks e there head kind => ⟨?_, ?_⟩,
    fun s n looks e p there head kind entry fresh pieces physical clear own room => ?_,
    fun s n looks e p there head kind entry fresh pieces physical clear away room => ?_,
    fun s n looks e p there head kind entry fresh pieces physical clear own => ?_,
    fun s n looks e p there head kind entry fresh pieces physical clear away => ?_,
    fun s n looks e p there head kind entry fresh pieces physical blocked => ?_,
    fun s n e b there head kind role bound => ?_, fun s n e there head kind role unbound => ?_,
    fun s n e there head kind => ?_, fun s n e there head kind arrivals held => ?_,
    fun s n looks p there noTransfer noMessage => ?_⟩
  · exact exec_storeDesc there head kind
  · exact (onUnit_runs there).trans (congrArg _ ((runUnit_starts head (decide_eq_true kind)).trans (if_pos rfl)))
  · obtain ⟨t, issues, effect⟩ := issueAt_own_effect looks e false clear own
    exact ⟨t, (loadDesc_issues there head entry fresh pieces physical kind room).trans (congrArg _ issues), effect⟩
  · obtain ⟨t, issues, effect⟩ := issueAt_away_effect looks e false clear away
    exact ⟨t, (loadDesc_issues there head entry fresh pieces physical kind room).trans (congrArg _ issues), effect⟩
  · obtain ⟨t, issues, effect⟩ := issueAt_own_effect looks e true clear own
    exact ⟨t, (storeDesc_issues there head entry fresh pieces physical kind).trans (congrArg _ issues), effect⟩
  · obtain ⟨t, issues, effect⟩ := issueAt_away_effect looks e true clear away
    exact ⟨t, (storeDesc_issues there head entry fresh pieces physical kind).trans (congrArg _ issues), effect⟩
  · obtain ⟨t, issues, effect⟩ := issueAt_blocked looks e true blocked
    exact ⟨t, (storeDesc_issues there head entry fresh pieces physical kind).trans (congrArg _ issues), effect⟩
  · have ctx := ctxOf_startEntry n e s
    have only := onlyQueues_startEntry n e s
    have bound' : (startEntry n e s).bindingOf (field e.w1 48 16) = some b := bound
    have sends := sendToRole_bound (e := { e with started := true }) bound' (n := n)
    have only' := only.trans (onlyQueues_updEntry n e.uid
      (fun x => { x with need := (sendPieces e.w0).length, issued := (sendPieces e.w0).length }) (startEntry n e s))
    generalize entry : ({ e with started := true } : QEntry) = e' at sends
    have w0 : e'.w0 = e.w0 := by rw [← entry]
    have w1 : e'.w1 = e.w1 := by rw [← entry]
    have uid : e'.uid = e.uid := by rw [← entry]
    rw [w0, uid] at sends
    have runs : doSend n false s = sendToRole n e' (startEntry n e s) :=
      (runUnit_starts head (decide_eq_true kind)).trans
        ((if_neg Bool.false_ne_true).trans ((if_pos role).trans (congrArg (fun x => sendToRole n x _) entry)))
    have ctx' : (updEntry n e.uid (fun x => { x with
        need := (sendPieces e.w0).length, issued := (sendPieces e.w0).length }) (startEntry n e s)).ctxOf n e.slot
        = (s.ctxOf n e.slot).consumePre e.w0 := ctx
    generalize updEntry n e.uid (fun x => { x with
      need := (sendPieces e.w0).length, issued := (sendPieces e.w0).length }) (startEntry n e s) = z at sends only' ctx'
    obtain ⟨net, sent, packets, carries⟩ := foldl_inject_send n e' b (sendPieces e.w0) z
    rw [← sends, ← runs] at packets net
    have start : contents z = contents s := by obtain ⟨_, _, _, rfl⟩ := only'; rfl
    have store : z.cores.store = s.cores.store := by obtain ⟨_, _, _, rfl⟩ := only'; rfl
    have mem : z.mem = s.mem := by obtain ⟨_, _, _, rfl⟩ := only'; rfl
    have length : (contents s).length = s.net.packets.length := List.length_map ..
    rw [start] at packets
    obtain ⟨memT, coresT, -⟩ := net.blocks
    refine ⟨_, (onUnit_runs there).trans rfl, ?_, ?_, ?_, (congrArg CoresBlk.store coresT).trans store, memT.trans mem⟩
    · show ((doSend n false s).net.packets.drop s.net.packets.length).map carried = _
      rw [← map_carried_content, List.map_drop, ← contents, packets, ← length, List.drop_left, carries]
      refine List.map_congr_left fun p _ => ?_
      rw [carried, sendPacket, w1, State.storeBytes, store]
      rfl
    · rw [List.map_take, ← contents, packets, ← length, List.take_left]
      rfl
    · rw [ctxOf_congr (congrArg CoresBlk.ctx coresT)]
      exact ctx'
  · have unbound' : (startEntry n e s).bindingOf (field ({ e with started := true } : QEntry).w1 48 16) = none := unbound
    have faults : sendToRole n { e with started := true } (startEntry n e s)
        = faultEntry n { e with started := true } 3 (startEntry n e s) := by rw [sendToRole, unbound']
    exact (onUnit_runs there).trans (congrArg _ ((runUnit_starts head (decide_eq_true kind)).trans
      ((if_neg Bool.false_ne_true).trans ((if_pos role).trans faults))))
  · exact (onUnit_runs there).trans (congrArg _ ((runUnit_starts head (decide_eq_true kind)).trans (if_pos rfl)))
  · have arrivals' : ((startEntry n e s).ctxOf n e.slot).arrivals = [] := by
      rw [ctxOf_startEntry, consumePre_arrivals, arrivals]
    have posts := recvBody_posts (e := { e with started := true }) (s := startEntry n e s) (n := n) arrivals' held
    exact (onUnit_runs there).trans (congrArg _ ((runUnit_starts head (decide_eq_true kind)).trans
      ((if_neg Bool.false_ne_true).trans posts)))
  · exact ⟨(onUnit_runs there).trans (congrArg _ (runUnit_idle noTransfer)),
      (onUnit_runs there).trans (congrArg _ (runUnit_idle noTransfer)),
      (onUnit_runs there).trans (congrArg _ (runUnit_idle noMessage)),
      (onUnit_runs there).trans (congrArg _ (runUnit_idle noMessage))⟩

end Sys2Proof.Proofs
end


section
/-! Counterexamples about the units of a core. What a row of the vector unit counts, it counts in every entry of the
number of the descriptor (R78), so that of two entries of one number the other goes on from its own count. A pane that
fails faults every MATMUL that waits there (R125), also one of the context whose MATMUL the watchdog has just faulted. -/
namespace Sys2Proof.Proofs
set_option Elab.async false
open Sys2Proof.Machine Sys2Proof.Laws

/-! ## A queue with two entries of one number -/

/-- A VEC (kind 6) or CONVERT (kind 7) of one row without elements, of which nothing is done. -/
def firstTwin (w0 : Nat) : QEntry := { uid := 0, q := .vector, slot := 0, role := 0, idx := 0, w0 := w0, w1 := 0 }

/-- An entry of the same number in another queue, of which one piece is done. -/
def secondTwin : QEntry := { uid := 0, q := .bank, slot := 0, role := 0, idx := 1, w0 := 0, w1 := 0, got := 1 }

/-- A device in a running frame, 1 ms after the time counter started, whose core 0 holds a queue. -/
def runningWith (queue : List QEntry) : State := { State.reset with
  kpr := { State.reset.kpr with railsUp := true, boot := .romRuns, state := .running }
  frm := { State.reset.frm with phase := .inFrame, tc := 1000000 }
  clk := { State.reset.clk with regions := mapPut [] 0 { clkRegion0 with source := 0 } }
  cores := { State.reset.cores with core := mapPut [] 0 { (State.reset.coreRec 0) with queue := queue } } }

/-- A device whose core 0 holds the two. -/
def twins (w0 : Nat) : State := runningWith [firstTwin w0, secondTwin]

/-- What the entries of core 0 have done after a command. -/
def gotAfter (o : Host.Outcome State Fault Refusal) : List Nat :=
  match o with
  | .next t => (t.coreRec 0).queue.map (fun x => x.got)
  | _ => []

/-- VEC ADD of one row of no elements. -/
def vecWord : Nat := 6 * 2 ^ 60 + 1 * 2 ^ 24

/-- CONVERT of one row of no elements. -/
def convWord : Nat := 7 * 2 ^ 60

/-- The queue that the statements claim after the first row: of every entry of the number one row is done. -/
def claimedQueue (w0 rows : Nat) : List QEntry :=
  ((twins w0).coreRec 0).queue.map (fun x =>
    if x.uid = (firstTwin w0).uid then
      { x with started := true, since := (twins w0).frm.tc, need := rows, got := 1, done := decide (1 = rows) }
    else x)

theorem gotAfter_of_claim {o : Host.Outcome State Fault Refusal} {t : State} {w0 rows : Nat} (next : o = .next t)
    (queue : (t.coreRec 0).queue = claimedQueue w0 rows) :
    gotAfter o = (claimedQueue w0 rows).map (fun x => x.got) := by
  rw [next, gotAfter, queue]

/-- Refutes O34, its clause on the first row of ADD: `nextRows` adds the row to the count that each entry of the number
holds, so that the second twin, of which 1 was done, stands at 2 and not at 1. -/
theorem not_vectorOperations : ¬ Obligations.VectorOperations := by
  unfold Obligations.VectorOperations
  rintro ⟨_, _, firstRow, _⟩
  obtain ⟨t, next, _, queue, _⟩ := firstRow (twins vecWord) 0 1 false (0x01, Instr.vecAdd 0 1 false) (firstTwin vecWord)
    (vecDesc (firstTwin vecWord).w0 (firstTwin vecWord).w1) (by decide) (by decide) (by decide) (by decide)
    (List.mem_cons_self ..) (by decide) rfl rfl rfl rfl
  exact absurd (gotAfter_of_claim next queue) (by decide)

/-- Refutes O37, its clause on the first row of a CONVERT, by the same queue. -/
theorem not_conversionsAndGathers : ¬ Obligations.ConversionsAndGathers := by
  unfold Obligations.ConversionsAndGathers
  rintro ⟨_, _, firstRow, _⟩
  obtain ⟨t, next, _, _, _, queue⟩ := firstRow (twins convWord) 0 (firstTwin convWord)
    (convDesc (firstTwin convWord).w0 (firstTwin convWord).w1) (by decide) (by decide) (by decide) (by decide)
    rfl rfl (by decide) (by decide) (by decide) (by decide)
  exact absurd (gotAfter_of_claim next queue) (by decide)

/-! ## A pane with two MATMULs of one context -/

/-- A MATMUL under way on pane 0 since tc 0. -/
def firstMatmul : QEntry :=
  { uid := 0, q := .pane 0, slot := 0, role := 0, idx := 0, w0 := 5 * 2 ^ 60, w1 := 0, started := true }

/-- The next MATMUL of the same context, which waits behind it. -/
def secondMatmul : QEntry := { uid := 1, q := .pane 0, slot := 0, role := 0, idx := 1, w0 := 5 * 2 ^ 60, w1 := 0 }

/-- The fault code that context 0 of core 0 shows after a command. -/
def faultAfter (o : Host.Outcome State Fault Refusal) : Nat :=
  match o with
  | .next t => (t.ctxOf 0 0).fault
  | _ => 0

/-- The watchdog faults the first with 0x0B and the failure of the pane then the second with 0x0A, which the context
shows. -/
theorem faultAfter_watchdog :
    faultAfter (exec (.unitWatchdogExpiry 0 2) (runningWith [firstMatmul, secondMatmul])) = 0x0A := by
  decide

/-- Refutes O35, its clause on the watchdog of a pane: where a second MATMUL of the context waits on the pane, the
context shows 0x0A and not 0x0B. -/
theorem not_parityStopsACore : ¬ Obligations.ParityStopsACore := by
  unfold Obligations.ParityStopsACore
  rintro ⟨_, _, _, _, _, _, pane, _⟩
  obtain ⟨t, next, _, fault, _⟩ := pane (runningWith [firstMatmul, secondMatmul]) 0 2 firstMatmul (by decide)
    (Or.inl rfl) (by decide) (by decide) (by decide)
  have shown := faultAfter_watchdog
  rw [next] at shown
  exact absurd (fault.symm.trans shown) (by decide)

end Sys2Proof.Proofs
end


section
/-! The panes (chapter 5): MATMUL starts and goes on, a half is filled and drained, a pane fails. -/
namespace Sys2Proof.Proofs
set_option Elab.async false
open Sys2Proof.Machine Sys2Proof.Laws

/-! ## A descriptor's fault leaves its queue -/

theorem stopped_pane (n k code idx : Nat) (s : State) : (stopped n k code idx s).cores.pane = s.cores.pane := by
  unfold stopped
  split <;> rfl

theorem paneOf_congr {s t : State} (same : t.cores.pane = s.cores.pane) (n p : Nat) : t.paneOf n p = s.paneOf n p := by
  rw [State.paneOf, same]
  rfl

/-- What the fault of an entry leaves of its core. -/
theorem faultEntry_effect (n : Nat) (e : QEntry) (code : Nat) (s : State) :
    ((faultEntry n e code s).ctxOf n e.slot).stopped = true ∧ ((faultEntry n e code s).ctxOf n e.slot).fault = code ∧
    ((faultEntry n e code s).coreRec n).queue.all (fun x => x.uid != e.uid) = true ∧
    (faultEntry n e code s).cores.store = s.cores.store ∧ (faultEntry n e code s).mem = s.mem ∧
    (faultEntry n e code s).cores.pane = s.cores.pane := by
  obtain ⟨ctx, _, _, queue, store, mem⟩ := descFault_effect n e.slot e.role e.idx code (dropEntry n e.uid s)
  refine ⟨congrArg Ctx.stopped ctx, congrArg Ctx.fault ctx, ?_, store, mem, ?_⟩
  · rw [faultEntry, queue n, queue_dropEntry, List.all_filter]
    refine List.all_eq_true.2 fun x _ => ?_
    by_cases here : x.uid = e.uid
    · simp only [here, ne_eq, not_true_eq_false, decide_false, Bool.not_false, Bool.true_or]
    · simp only [here, ne_eq, not_false_eq_true, decide_true, Bool.not_true, Bool.false_or, bne_iff_ne]
  · exact (congrArg CoresBlk.pane (descFault_cores ..)).trans (stopped_pane n e.slot code e.idx (dropEntry n e.uid s))

/-! ## A MATMUL starts -/

/-- A MATMUL has started, with the halves it is to fill. -/
def begun (n : Nat) (e : QEntry) (s : State) : State :=
  updEntry n e.uid (fun x => { x with need := (matDesc e.w0 e.w1).halves }) (startEntry n e s)

section Starts
variable {s : State} {n p cycle blocks : Nat} {parity : Bool} {e : QEntry}
  (idle : s.paneRunning n p = none) (next_ : s.paneNext n p = some e)
include idle

theorem doMatmul_idle (none_ : s.paneNext n p = none) : doMatmul n p cycle blocks parity s = s := by
  rw [doMatmul, idle, none_]

include next_

theorem doMatmul_fenced (fenced : s.paneFenced n p = true) :
    doMatmul n p cycle blocks parity s = faultEntry n e 0x0A (startEntry n e s) := by
  rw [doMatmul, idle, next_]
  exact if_pos fenced

variable (good : s.paneFenced n p = false)
include good

theorem doMatmul_refused (header : s.headerOk n (matDesc e.w0 e.w1) = false) : doMatmul n p cycle blocks parity s
    = faultEntry n e 8 (recordExcs n e.slot p e.idx [⟨5, 0, 0, 0⟩] (startEntry n e s)) := by
  have bad : (!s.headerOk n (matDesc e.w0 e.w1)) = true := by rw [header]; rfl
  rw [doMatmul, idle, next_]
  exact (if_neg (Bool.eq_false_iff.1 good)).trans (if_pos bad)

theorem doMatmul_starts (header : s.headerOk n (matDesc e.w0 e.w1) = true) :
    doMatmul n p cycle blocks parity s = runMatmul n p cycle blocks parity e (begun n e s) := by
  have fine : (!s.headerOk n (matDesc e.w0 e.w1)) = false := by rw [header]; rfl
  rw [doMatmul, idle, next_]
  exact (if_neg (Bool.eq_false_iff.1 good)).trans (if_neg (Bool.eq_false_iff.1 fine))

end Starts

section Runs
variable {s : State} {n p cycle blocks : Nat} {parity : Bool} {e : QEntry}

theorem doMatmul_goesOn (running : s.paneRunning n p = some e) (runs : s.coreRuns n = true) :
    doMatmul n p cycle blocks parity s = runMatmul n p cycle blocks parity e s := by
  rw [doMatmul, running]
  exact if_pos runs

theorem runMatmul_parity : runMatmul n p cycle blocks true e s
    = setPane n p (fun x => { x with fill := none }) (faultEntry n e 1 s) := rfl

theorem runMatmul_issues (may : s.mayIssue n p cycle = true) :
    runMatmul n p cycle blocks false e s = feedPane n p blocks s :=
  (if_neg Bool.false_ne_true).trans (if_pos may)

theorem runMatmul_held (may : s.mayIssue n p cycle = false) : runMatmul n p cycle blocks false e s
    = setPane n p (fun x => { x with ctr := { x.ctr with held := satAdd 32 x.ctr.held 1 } }) s :=
  (if_neg Bool.false_ne_true).trans (if_neg (Bool.eq_false_iff.1 may))

end Runs

/-! ## A half is filled (R108) -/

theorem recordExcs_paneOf (n k pane desc : Nat) (xs : List Exc) (s : State) (m q : Nat) :
    (recordExcs n k pane desc xs s).paneOf m q = s.paneOf m q := rfl

/-- A fill whose next k-block has been taken, with what its outputs are then. -/
def Fill.taken (f : Fill) (outs : List FillOut) : Fill := { f with block := f.block + 1, outs := outs }

/-- The state in which a k-block has been taken. -/
def blockTaken (n p : Nat) (e : QEntry) (f : Fill) (read : List FillOut × List Exc) (s : State) : State :=
  setPane n p (fun x => { x with
      fill := some (Fill.taken f read.1)
      ctr := { x.ctr with
        issue := satAdd 32 x.ctr.issue ((matDesc e.w0 e.w1).tileRows (f.index / (matDesc e.w0 e.w1).nb)).length } })
    (updEntry n e.uid (fun x => { x with since := s.frm.tc }) (recordExcs n e.slot p e.idx read.2 s))

theorem fillBlock_eq {n p : Nat} {e : QEntry} {f : Fill} {s : State} {read : List FillOut × List Exc}
    (taken : (matDesc e.w0 e.w1).takeBlock (fun a len => s.storeBytes n a len) (f.index % (matDesc e.w0 e.w1).nb)
      f.block f.outs = read) :
    fillBlock n p e f s = if f.block + 1 = (matDesc e.w0 e.w1).kb
      then closeFill n p e (Fill.taken f read.1) (blockTaken n p e f read s) else blockTaken n p e f read s := by
  rw [fillBlock, taken]
  rfl

theorem closeFill_pane (n p : Nat) (e : QEntry) (f : Fill) (s : State) :
    ((closeFill n p e f s).paneOf n p).halves = (s.paneOf n p).halves ++ [{
      uid := f.uid, half := f.half, outs := ((matDesc e.w0 e.w1).sumHalf s.fresh f.outs).1 }] ∧
    ((closeFill n p e f s).paneOf n p).fill = none := by
  rw [closeFill]
  generalize (matDesc e.w0 e.w1).sumHalf s.fresh f.outs = sums
  obtain ⟨outs, xs⟩ := sums
  show ((setPane n p _ _).paneOf n p).halves = _ ∧ ((setPane n p _ _).paneOf n p).fill = none
  rw [setPane_paneOf_same]
  exact ⟨rfl, rfl⟩

/-- The last k-block of a half closes it: its sums wait for the drain. -/
theorem fillBlock_closes {n p : Nat} {e : QEntry} {f : Fill} {s : State} (last : f.block + 1 = (matDesc e.w0 e.w1).kb) :
    ((fillBlock n p e f s).paneOf n p).halves = (s.paneOf n p).halves ++ [{
      uid := f.uid, half := f.half
      outs := ((matDesc e.w0 e.w1).sumHalf s.fresh ((matDesc e.w0 e.w1).takeBlock (fun a len => s.storeBytes n a len)
        (f.index % (matDesc e.w0 e.w1).nb) f.block f.outs).1).1 }] ∧
    ((fillBlock n p e f s).paneOf n p).fill = none := by
  generalize taken : (matDesc e.w0 e.w1).takeBlock (fun a len => s.storeBytes n a len) (f.index % (matDesc e.w0 e.w1).nb)
    f.block f.outs = read
  have before : ((blockTaken n p e f read s).paneOf n p).halves = (s.paneOf n p).halves := by
    rw [blockTaken, setPane_paneOf_same]
    rfl
  have pane := closeFill_pane n p e (Fill.taken f read.1) (blockTaken n p e f read s)
  rw [fillBlock_eq taken, if_pos last, ← before]
  exact pane

/-- What a pane is filling when it opens the next half of a MATMUL. -/
def nextFill (n p : Nat) (e : QEntry) (s : State) : Fill :=
  { uid := e.uid, half := 1 - (s.paneOf n p).lastHalf, index := e.issued, block := 0
    outs := (matDesc e.w0 e.w1).startOuts e.issued }

theorem openFill_halves (n p : Nat) (e : QEntry) (s : State) :
    ((openFill n p e s).paneOf n p).halves = (s.paneOf n p).halves := by
  rw [openFill, setPane_paneOf_same]
  rfl

theorem feedStep_opens {n p : Nat} {e : QEntry} {s : State} (none_ : (s.paneOf n p).fill = none)
    (room : (s.paneOf n p).halves.length < 2)
    (first : (s.coreRec n).queue.find? (fun e => decide (e.q = .pane p) && e.started && decide (e.issued < e.need)) = some e) :
    feedStep n p s = fillBlock n p e (nextFill n p e s) (openFill n p e s) := by
  have opened : ((openFill n p e s).paneOf n p).fill = some (nextFill n p e s) := by
    rw [openFill, setPane_paneOf_same]
    rfl
  rw [feedStep, none_]
  refine (if_neg (Nat.not_le.2 room)).trans ?_
  rw [first]
  show (match ((openFill n p e s).paneOf n p).fill with
    | some f => fillBlock n p e f (openFill n p e s)
    | none => openFill n p e s) = _
  rw [opened]

/-! ## A half is drained (R111) -/

section Drain
variable {s : State} {n p : Nat}

theorem length_leBytes (k v : Nat) : (leBytes k v).length = k := by
  induction k generalizing v with
  | zero => rfl
  | succ k ih => rw [leBytes, List.length_cons, ih]

/-- A byte of the core stores outside a write of a core store. -/
theorem memRead_putStore_away {a x : Nat} {bytes : List Nat}
    (away : x < n * storeSize + a ∨ n * storeSize + a + bytes.length ≤ x) :
    memRead (putStore n a bytes s).cores.store x = memRead s.cores.store x := by
  have short : (bytes.take (storeSize - a)).length ≤ bytes.length := by
    rw [List.length_take]
    exact Nat.min_le_right ..
  exact memRead_memPutBytes_other _ _ _ (away.imp id (Nat.le_trans (Nat.add_le_add_left short _)))

/-- What a drain of outputs keeps: everything but the core store. -/
theorem drainOuts_store (n : Nat) (d : MatDesc) (outs : List (Nat × Nat × Nat)) (s : State) (xs : List Exc) :
    ∃ store, (outs.foldl (fun st o => drainOut n d o st) (s, xs)).1 = { s with cores := { s.cores with store := store } } := by
  induction outs generalizing s xs with
  | nil => exact ⟨s.cores.store, rfl⟩
  | cons o outs ih =>
    obtain ⟨store, eq⟩ := ih (drainOut n d o (s, xs)).1 (drainOut n d o (s, xs)).2
    exact ⟨store, eq⟩

theorem memRead_drainOuts {n : Nat} {d : MatDesc} {x : Nat} (outs : List (Nat × Nat × Nat)) (s : State) (xs : List Exc)
    (away : ∀ o ∈ outs, x < n * storeSize + d.outAt o.1 o.2.1 ∨ n * storeSize + d.outAt o.1 o.2.1 + d.outBytes ≤ x) :
    memRead (outs.foldl (fun st o => drainOut n d o st) (s, xs)).1.cores.store x = memRead s.cores.store x := by
  induction outs generalizing s xs with
  | nil => rfl
  | cons o outs ih =>
    refine (ih (drainOut n d o (s, xs)).1 (drainOut n d o (s, xs)).2 fun o' here => away o' (List.mem_cons_of_mem _ here)).trans ?_
    refine memRead_putStore_away ?_
    rw [length_leBytes]
    exact away o (List.mem_cons_self ..)

/-- The state in which outputs of the oldest half have been drained: `out` is what the drain left, `left` the outputs
that the half still holds. -/
def wordsDrained (n p : Nat) (e : QEntry) (h : HalfAcc) (rest : List HalfAcc) (left : List (Nat × Nat × Nat))
    (out : State × List Exc) : State :=
  setPane n p (fun x => { x with halves := { h with outs := left } :: rest })
    (updEntry n e.uid (fun x => { x with since := out.1.frm.tc }) (recordExcs n e.slot p e.idx out.2 out.1))

variable {h : HalfAcc} {rest : List HalfAcc} {e : QEntry} (halves : (s.paneOf n p).halves = h :: rest)
  (entry : s.entryOf n h.uid = some e)
include halves entry

theorem drainWords_eq (k : Nat) : drainWords n p k s = wordsDrained n p e h rest (h.outs.drop k)
    ((h.outs.take k).foldl (fun st o => drainOut n (matDesc e.w0 e.w1) o st) (s, [])) := by
  rw [drainWords, halves]
  show (match s.entryOf n h.uid with
    | none => s
    | some e => _) = _
  rw [entry]
  rfl

/-- What the drain of a whole half leaves before the half goes. -/
theorem drainWords_whole : ∃ t, drainWords n p h.outs.length s = t ∧
    t.cores.store = (h.outs.foldl (fun st o => drainOut n (matDesc e.w0 e.w1) o st) (s, [])).1.cores.store ∧
    (t.paneOf n p).halves.tail = rest ∧ t.entryOf n h.uid = some { e with since := s.frm.tc } ∧ t.mem = s.mem ∧
    t.net = s.net := by
  refine ⟨_, drainWords_eq halves entry _, ?_⟩
  rw [List.take_length]
  obtain ⟨store, eq⟩ := drainOuts_store n (matDesc e.w0 e.w1) h.outs s []
  generalize h.outs.foldl (fun st o => drainOut n (matDesc e.w0 e.w1) o st) (s, []) = out at eq
  obtain ⟨z, xs⟩ := out
  subst eq
  refine ⟨rfl, ?_, ?_, rfl, rfl⟩
  · rw [wordsDrained, setPane_paneOf_same]
    rfl
  · have ident := uid_of_entryOf entry
    rw [← ident]
    rw [← ident] at entry
    exact entryOf_updEntry (f := fun x => { x with since := s.frm.tc }) (fun _ => rfl)
      (s := recordExcs n e.slot p e.idx xs { s with cores := { s.cores with store := store } }) entry

end Drain

/-- The oldest half leaves the pane. -/
def halfGone (n p held fa fb fd tail : Nat) (last : Bool) (s : State) : State :=
  setPane n p (fun x =>
    { x with
      halves := x.halves.tail
      ctr := if last then { x.ctr.addCycles held fa fb fd tail with matmuls := satAdd 32 (x.ctr.addCycles held fa fb fd tail).matmuls 1 }
        else x.ctr.addCycles held fa fb fd tail }) s

section HalfDone
variable {s : State} {n p held fa fb fd tail : Nat} {parity : Bool}

theorem doDrainHalfDone_idle (idle : (s.paneOf n p).halves = [] ∨ s.coreRuns n = false ∨ s.paneFenced n p = true) :
    doDrainHalfDone n p held fa fb fd tail parity s = s := by
  cases halves : (s.paneOf n p).halves with
  | nil => rw [doDrainHalfDone, halves]
  | cons h rest =>
    rw [doDrainHalfDone, halves]
    refine if_pos ?_
    rcases idle with empty | stands | fenced
    · exact absurd (halves.symm.trans empty) (List.cons_ne_nil h rest)
    · rw [stands]; rfl
    · rw [fenced, Bool.or_true]

variable {h : HalfAcc} {rest : List HalfAcc} {e : QEntry} (halves : (s.paneOf n p).halves = h :: rest)
  (entry : s.entryOf n h.uid = some e) (runs : s.coreRuns n = true) (good : s.paneFenced n p = false)
include halves entry runs good

theorem doDrainHalfDone_eq : doDrainHalfDone n p held fa fb fd tail parity s =
    if parity && (matDesc e.w0 e.w1).acc then faultEntry n e 1 (halfGone n p held fa fb fd tail false s)
    else halfGone n p held fa fb fd tail (decide (e.got + 1 = e.need))
      (updEntry n e.uid (fun x => { x with got := x.got + 1, done := decide (e.got + 1 = e.need) })
        (drainWords n p h.outs.length s)) := by
  have open_ : (!s.coreRuns n || s.paneFenced n p) = false := by rw [runs, good]; rfl
  rw [doDrainHalfDone, halves]
  refine (if_neg (Bool.eq_false_iff.1 open_)).trans ?_
  show (match s.entryOf n h.uid with
    | none => _
    | some e => _) = _
  rw [entry]
  rfl

end HalfDone

/-! ## A pane fails (R125) -/

/-- A fence of one unit leaves the entries of the other positions. -/
theorem fence_fenceUnits_other (cause : Nat) {f : FenceItem} {s : State} (kind : f.kind ≠ 5)
    (open_ : s.fencedAlready f = false) {m : Nat} (ne : m ≠ f.unit) : (fenceUnits cause [f] s).fence m = s.fence m := by
  have fresh : [f].filter (fun f => !s.fencedAlready f) = [f] :=
    (List.filter_cons_of_pos (p := fun f => !s.fencedAlready f) (l := []) (by rw [open_]; rfl)).trans rfl
  have tables := (fenceUnits_tables cause [f] s).1
  rw [fresh, List.foldl_cons, List.foldl_nil, takeFence, if_neg kind] at tables
  exact (congrArg (fun l => mapGet coreFence0 l m) tables).trans
    (mapGet_mapMod_other coreFence0 s.flp.cores (fun e => e.fenced cause f) ne)

theorem failPane_effect (n p : Nat) (s : State) : ((failPane n p s).paneOf n p).halves = [] ∧
    ((failPane n p s).paneOf n p).fill = none ∧ (failPane n p s).cores.store = s.cores.store ∧
    (failPane n p s).mem = s.mem ∧ (failPane n p s).flp = s.flp := by
  have free : false = false := rfl
  have kept : Keeps (Untouched.allBut [.reports, .frm, .cores]) s (failPane n p s) := failPane_keeps n p s (Keeps.refl s)
  refine ⟨?_, ?_, kept.store rfl, mem_of_keeps kept rfl rfl, kept.flp rfl⟩
  · rw [failPane, setPane_paneOf_same]
  · rw [failPane, setPane_paneOf_same]

/-- The entry of a position whose pane is fenced. -/
theorem fenced_pane (x : CoreFence) (cause n p : Nat) :
    (if p = 0 then (x.fenced cause { kind := 1, unit := n, sub := p }).pane0
      else (x.fenced cause { kind := 1, unit := n, sub := p }).pane1) = true ∧
    (x.fenced cause { kind := 1, unit := n, sub := p }).core = x.core ∧
    (x.fenced cause { kind := 1, unit := n, sub := p }).tile = x.tile := by
  by_cases zero : p = 0 <;> simp only [CoreFence.fenced, zero, if_true, if_false, and_self]

theorem doPaneParityError_fences {n p : Nat} {s : State} (powered : s.powered = true) (good : s.paneGood n p = true) : ∃ t,
    doPaneParityError n p s = t ∧ t.paneFenced n p = true ∧ (t.paneOf n p).halves = [] ∧
    (t.paneOf n p).fill = none ∧ (t.fence n).core = (s.fence n).core ∧ (t.fence n).tile = (s.fence n).tile ∧
    (∀ m, m ≠ n → t.fence m = s.fence m) ∧ t.cores.store = s.cores.store ∧ t.mem = s.mem := by
  have both : (s.powered && s.paneGood n p) = true := by rw [powered, good]; rfl
  have open_ : s.paneFenced n p = false := by
    have goods : (!s.coreFenced n && !s.paneFenced n p) = true := good
    rw [Bool.and_eq_true, Bool.not_eq_true', Bool.not_eq_true'] at goods
    exact goods.2
  have free : false = false := rfl
  have fenced : Keeps (Untouched.allBut [.reports, .flp, .dbg, .dev, .frm]) s
      (fenceUnits 3 [{ kind := 1, unit := n, sub := p }] s) := fenceUnits_keeps 3 _ s (Keeps.refl s)
  have entry : (fenceUnits 3 [{ kind := 1, unit := n, sub := p }] s).fence n = _ :=
    fence_fenceUnits_one 3 (f := { kind := 1, unit := n, sub := p }) (fun (five : 1 = 5) => absurd five (by decide)) open_
  obtain ⟨pane, core, tile⟩ := fenced_pane (s.fence n) 3 n p
  obtain ⟨halves, fill, store, mem, flp⟩ := failPane_effect n p (fenceUnits 3 [{ kind := 1, unit := n, sub := p }] s)
  refine ⟨_, if_pos both, ?_, halves, fill, ?_, ?_, fun m ne => ?_, store.trans (fenced.store rfl),
    mem.trans (mem_of_keeps fenced rfl rfl)⟩
  · rw [State.paneFenced, fence_congr flp, entry]
    exact pane
  · rw [fence_congr flp, entry]
    exact core
  · rw [fence_congr flp, entry]
    exact tile
  · rw [fence_congr flp]
    exact fence_fenceUnits_other 3 (f := { kind := 1, unit := n, sub := p }) (fun (five : 1 = 5) => absurd five (by decide)) open_ ne

/-! ## The first k-block of a MATMUL of one k-block -/

/-- What the queue holds of a MATMUL that has started. -/
def begunEntry (tc : Nat) (e : QEntry) : QEntry :=
  { e with started := true, since := tc, need := (matDesc e.w0 e.w1).halves }

theorem feedPane_once (n p : Nat) (s : State) : feedPane n p 1 s = feedStep n p s := rfl

theorem begun_paneOf (n : Nat) (e : QEntry) (s : State) (m p : Nat) : (begun n e s).paneOf m p = s.paneOf m p := rfl

theorem begun_storeBytes (n : Nat) (e : QEntry) (s : State) (m a len : Nat) :
    (begun n e s).storeBytes m a len = s.storeBytes m a len := rfl

theorem begun_fresh (n : Nat) (e : QEntry) (s : State) : (begun n e s).fresh = s.fresh := rfl

theorem openFill_storeBytes (n p : Nat) (e : QEntry) (s : State) (m a len : Nat) :
    (openFill n p e s).storeBytes m a len = s.storeBytes m a len := rfl

theorem openFill_fresh (n p : Nat) (e : QEntry) (s : State) : (openFill n p e s).fresh = s.fresh := rfl

theorem begunEntry_words (tc : Nat) (e : QEntry) :
    matDesc (begunEntry tc e).w0 (begunEntry tc e).w1 = matDesc e.w0 e.w1 := rfl

theorem queue_begun {n : Nat} {e : QEntry} {s : State} (queue : (s.coreRec n).queue = [e]) :
    ((begun n e s).coreRec n).queue = [begunEntry s.frm.tc e] := by
  rw [begun, queue_updEntry, queue_startEntry, queue]
  simp only [List.map_cons, List.map_nil, if_true, begunEntry]

theorem q_of_paneNext {s : State} {n p : Nat} {e : QEntry} (next_ : s.paneNext n p = some e) : e.q = .pane p := by
  unfold State.paneNext at next_
  split at next_
  · cases next_
  · simp only at next_
    split at next_
    · cases next_
    · next x found =>
      split at next_
      · cases next_
        have here := List.mem_of_find?_eq_some found
        have kind := (List.mem_filter.1 here).2
        rw [Bool.and_eq_true] at kind
        exact of_decide_eq_true kind.1
      · cases next_

/-- The first half of a MATMUL of one k-block, when its k-block is taken in a pane without halves. -/
theorem firstFill_closes {n p uid half : Nat} {x : QEntry} {d : MatDesc} {s z : State} (words : matDesc x.w0 x.w1 = d)
    (single : d.kb = 1) (before : (z.paneOf n p).halves = []) (bytes : ∀ a len, z.storeBytes n a len = s.storeBytes n a len)
    (free : z.fresh = s.fresh) :
    ((fillBlock n p x { uid := uid, half := half, index := 0, block := 0, outs := d.startOuts 0 } z).paneOf n p).halves = [{
      uid := uid, half := half
      outs := (d.sumHalf s.fresh (d.takeBlock (fun a len => s.storeBytes n a len) 0 0 (d.startOuts 0)).1).1 }] ∧
    ((fillBlock n p x { uid := uid, half := half, index := 0, block := 0, outs := d.startOuts 0 } z).paneOf n p).fill = none := by
  subst words
  have same : (fun a len => z.storeBytes n a len) = fun a len => s.storeBytes n a len := by
    funext a len
    exact bytes a len
  obtain ⟨halves, fill⟩ := fillBlock_closes (n := n) (p := p) (e := x) (s := z)
    (f := { uid := uid, half := half, index := 0, block := 0, outs := (matDesc x.w0 x.w1).startOuts 0 }) single.symm
  rw [before, same, free, List.nil_append, Nat.zero_mod] at halves
  exact ⟨halves, fill⟩

/-- A MATMUL of one k-block fills its first half with it. -/
theorem feedPane_one {s : State} {n p : Nat} {e : QEntry} (next_ : s.paneNext n p = some e)
    (single : (matDesc e.w0 e.w1).kb = 1) (some_ : 0 < (matDesc e.w0 e.w1).halves) (empty : (s.paneOf n p).halves = [])
    (none_ : (s.paneOf n p).fill = none) (queue : (s.coreRec n).queue = [e]) (fresh : e.issued = 0) :
    ((feedPane n p 1 (begun n e s)).paneOf n p).halves = [{
      uid := e.uid, half := 1 - (s.paneOf n p).lastHalf
      outs := ((matDesc e.w0 e.w1).sumHalf s.fresh ((matDesc e.w0 e.w1).takeBlock (fun a len => s.storeBytes n a len) 0 0
        ((matDesc e.w0 e.w1).startOuts 0)).1).1 }] ∧
    ((feedPane n p 1 (begun n e s)).paneOf n p).fill = none := by
  have wanted : (decide ((begunEntry s.frm.tc e).q = .pane p) && (begunEntry s.frm.tc e).started
      && decide ((begunEntry s.frm.tc e).issued < (begunEntry s.frm.tc e).need)) = true := by
    have less : e.issued < (matDesc e.w0 e.w1).halves := by rw [fresh]; exact some_
    show (decide (e.q = .pane p) && true && decide (e.issued < (matDesc e.w0 e.w1).halves)) = true
    rw [decide_eq_true (q_of_paneNext next_), decide_eq_true less]
    rfl
  have first : ((begun n e s).coreRec n).queue.find? (fun e => decide (e.q = .pane p) && e.started && decide (e.issued < e.need))
      = some (begunEntry s.frm.tc e) := by
    rw [queue_begun queue]
    exact List.find?_cons_of_pos wanted
  have pane := begun_paneOf n e s n p
  rw [feedPane_once, feedStep_opens (by rw [pane]; exact none_) (by rw [pane, empty]; exact Nat.zero_lt_two) first, nextFill,
    pane]
  have index : (begunEntry s.frm.tc e).issued = 0 := fresh
  rw [index, begunEntry_words]
  exact firstFill_closes (begunEntry_words s.frm.tc e) single (by rw [openFill_halves, pane, empty])
    (fun a len => by rw [openFill_storeBytes, begun_storeBytes]) (by rw [openFill_fresh, begun_fresh])

/-! ## What the commands leave -/

theorem feedPane_begun_leaves (n p blocks : Nat) (e : QEntry) (s : State) :
    (feedPane n p blocks (begun n e s)).cores.store = s.cores.store ∧
    (feedPane n p blocks (begun n e s)).mem = s.mem ∧ (feedPane n p blocks (begun n e s)).net = s.net := by
  have free : false = false := rfl
  have kept : Keeps (Untouched.allBut [.cores]) s (feedPane n p blocks (begun n e s)) :=
    feedPane_keeps n p blocks _ (updEntry_keeps n e.uid _ _ (startEntry_keeps n e s (Keeps.refl s)))
  exact ⟨kept.store rfl, mem_of_keeps kept rfl rfl, kept.net rfl⟩

section MatmulEffects
variable {s : State} {n p cycle blocks : Nat} {e : QEntry} (idle : s.paneRunning n p = none)
  (next_ : s.paneNext n p = some e) (good : s.paneFenced n p = false)
  (header : s.headerOk n (matDesc e.w0 e.w1) = true)
include idle next_ good header

theorem doMatmul_issues (may : s.mayIssue n p cycle = true) :
    doMatmul n p cycle blocks false s = feedPane n p blocks (begun n e s) :=
  (doMatmul_starts idle next_ good header).trans (runMatmul_issues (s := begun n e s) may)

theorem doMatmul_parity : ∃ t, doMatmul n p cycle blocks true s = t ∧ (t.ctxOf n e.slot).stopped = true ∧
    (t.ctxOf n e.slot).fault = 1 ∧ (t.coreRec n).queue.all (fun x => x.uid != e.uid) = true ∧
    t.cores.store = s.cores.store ∧ t.mem = s.mem ∧ (t.paneOf n p).fill = none ∧
    (t.paneOf n p).halves = (s.paneOf n p).halves := by
  obtain ⟨stopped, code, queue, store, mem, panes⟩ := faultEntry_effect n e 1 (begun n e s)
  refine ⟨_, doMatmul_starts idle next_ good header, stopped, code, queue, store, mem, ?_, ?_⟩
  · rw [runMatmul_parity, setPane_paneOf_same]
  · rw [runMatmul_parity, setPane_paneOf_same]
    show ((faultEntry n e 1 (begun n e s)).paneOf n p).halves = _
    rw [paneOf_congr panes, begun_paneOf]

end MatmulEffects

section DrainEffects
variable {s : State} {n p held fa fb fd tail : Nat} {parity : Bool} {h : HalfAcc} {rest : List HalfAcc} {e : QEntry}
  (halves : (s.paneOf n p).halves = h :: rest) (entry : s.entryOf n h.uid = some e) (runs : s.coreRuns n = true)
  (good : s.paneFenced n p = false)
include halves entry runs good

theorem doDrainHalfDone_drains (fine : parity = false ∨ (matDesc e.w0 e.w1).acc = false) : ∃ t,
    doDrainHalfDone n p held fa fb fd tail parity s = t ∧
    t.cores.store = (h.outs.foldl (fun st o => drainOut n (matDesc e.w0 e.w1) o st) (s, [])).1.cores.store ∧
    (t.paneOf n p).halves = rest ∧
    (t.entryOf n h.uid).map (fun x => (x.got, x.done)) = some (e.got + 1, decide (e.got + 1 = e.need)) ∧
    t.mem = s.mem ∧ t.net = s.net := by
  have whole : (parity && (matDesc e.w0 e.w1).acc) = false := by
    rcases fine with clean | fresh
    · rw [clean]; rfl
    · rw [fresh, Bool.and_false]
  obtain ⟨z, drained, store, gone, entry', mem, net⟩ := drainWords_whole halves entry
  have left := entryOf_updEntry (f := fun x => { x with got := x.got + 1, done := decide (e.got + 1 = e.need) })
    (fun _ => rfl) entry'
  rw [doDrainHalfDone_eq halves entry runs good, if_neg (Bool.eq_false_iff.1 whole), drained]
  refine ⟨_, rfl, store, ?_, ?_, mem, net⟩
  · rw [halfGone, setPane_paneOf_same]
    exact gone
  · rw [← uid_of_entryOf entry] at left ⊢
    exact congrArg (Option.map fun x => (x.got, x.done)) left

theorem doDrainHalfDone_faults (acc : (matDesc e.w0 e.w1).acc = true) : ∃ t,
    doDrainHalfDone n p held fa fb fd tail true s = t ∧ (t.ctxOf n e.slot).stopped = true ∧
    (t.ctxOf n e.slot).fault = 1 ∧ (t.coreRec n).queue.all (fun x => x.uid != e.uid) = true ∧
    t.cores.store = s.cores.store ∧ (t.paneOf n p).halves = rest := by
  have bad : (true && (matDesc e.w0 e.w1).acc) = true := by rw [acc]; rfl
  obtain ⟨stopped, code, queue, store, _, panes⟩ := faultEntry_effect n e 1 (halfGone n p held fa fb fd tail false s)
  rw [doDrainHalfDone_eq halves entry runs good, if_pos bad]
  refine ⟨_, rfl, stopped, code, queue, store, ?_⟩
  rw [paneOf_congr panes, halfGone, setPane_paneOf_same, halves]
  rfl

end DrainEffects

/-! ## The obligation -/

theorem exec_matmul {n p : Nat} (core : n < 12288) (pane : p < 2) (cycle blocks : Nat) (parity : Bool) (s : State) :
    exec (.matmul n p cycle blocks parity) s = .next (doMatmul n p cycle blocks parity s) := onUnit_runs ⟨core, pane⟩

theorem exec_drainHalfDone {n p : Nat} (core : n < 12288) (pane : p < 2) (a b c f g : Nat) (parity : Bool) (s : State) :
    exec (.drainHalfDone n p a b c f g parity) s = .next (doDrainHalfDone n p a b c f g parity s) := onUnit_runs ⟨core, pane⟩

/-- Settles O36: `doMatmul` by the pane's state, the k-blocks through `feedPane`, the drain through `drainWords`, and the
fence through the fence table. -/
theorem panesWork : Obligations.PanesWork := by
  unfold Obligations.PanesWork
  refine ⟨?starts, ?held, ?parity, ?goesOn, ?closes, ?fenced, ?header, ?idle, ?drained, ?old, ?undrained, ?fails⟩
  case starts =>
    intro s n p cycle blocks parity e core pane idle next_ good header clean may
    rw [exec_matmul core pane, clean, doMatmul_issues idle next_ good header may]
    rfl
  case held =>
    intro s n p cycle blocks parity e core pane idle next_ good header clean may
    rw [exec_matmul core pane, clean, doMatmul_starts idle next_ good header, runMatmul_held (s := begun n e s) may]
    rfl
  case parity =>
    intro s n p cycle blocks parity e core pane idle next_ good header bad
    obtain ⟨t, runs, effect⟩ := doMatmul_parity (cycle := cycle) (blocks := blocks) idle next_ good header
    rw [exec_matmul core pane, bad, runs]
    exact ⟨t, rfl, effect⟩
  case goesOn =>
    intro s n p cycle blocks e core pane running runs may
    rw [exec_matmul core pane, doMatmul_goesOn running runs, runMatmul_issues may]
  case closes =>
    rintro s n p cycle e _ core pane idle next_ good header may rfl single some_ empty none_ queue fresh
    obtain ⟨halves, fill⟩ := feedPane_one next_ single some_ empty none_ queue fresh
    obtain ⟨store, mem, net⟩ := feedPane_begun_leaves n p 1 e s
    rw [exec_matmul core pane, doMatmul_issues idle next_ good header may]
    exact ⟨_, rfl, halves, fill, store, mem, net⟩
  case fenced =>
    intro s n p cycle blocks parity e core pane idle next_ fenced
    rw [exec_matmul core pane, doMatmul_fenced idle next_ fenced]
    exact ⟨_, rfl, faultEntry_effect n e 0x0A (startEntry n e s)⟩
  case header =>
    intro s n p cycle blocks parity e core pane idle next_ good header
    rw [exec_matmul core pane, doMatmul_refused idle next_ good header]
    exact ⟨_, rfl, faultEntry_effect n e 8 (recordExcs n e.slot p e.idx [⟨5, 0, 0, 0⟩] (startEntry n e s))⟩
  case idle =>
    intro s n p cycle blocks parity core pane idle none_
    rw [exec_matmul core pane, doMatmul_idle idle none_]
  case drained =>
    intro s n p a b c f g par h rest e core pane runs good halves entry fine
    obtain ⟨t, drains, store, gone, counted, mem, net⟩ := doDrainHalfDone_drains (held := a) (fa := b) (fb := c) (fd := f)
      (tail := g) halves entry runs good fine
    rw [exec_drainHalfDone core pane, drains]
    refine ⟨t, rfl, store, fun x away => ?_, gone, counted, mem, net⟩
    rw [store]
    exact memRead_drainOuts h.outs s [] away
  case old =>
    intro s n p a b c f g h rest e core pane runs good halves entry acc
    obtain ⟨t, faults, effect⟩ := doDrainHalfDone_faults (held := a) (fa := b) (fb := c) (fd := f) (tail := g) halves entry
      runs good acc
    rw [exec_drainHalfDone core pane, faults]
    exact ⟨t, rfl, effect⟩
  case undrained =>
    intro s n p a b c f g par core pane idle
    rw [exec_drainHalfDone core pane, doDrainHalfDone_idle idle]
  case fails =>
    intro s n p core pane powered good
    obtain ⟨t, fails, effect⟩ := doPaneParityError_fences powered good
    exact ⟨t, (onUnit_runs ⟨core, pane⟩).trans (congrArg Host.Outcome.next fails), effect⟩

end Sys2Proof.Proofs
end


section
/-! Queue pairs (chapter 10): what a completion writes, the registers, the doorbells and failed reads (R209 to R217,
R236, R305). -/
namespace Sys2Proof.Proofs
set_option Elab.async false
open Sys2Proof.Machine Sys2Proof.Laws

/-! ## What completing leaves -/

/-- Of the request engine only one queue pair differs. -/
def OnlyPair (q : Nat) (s t : State) : Prop :=
  (∃ qp, t.req = { s.req with qp := qp }) ∧ ∀ j, j ≠ q → t.qpOf j = s.qpOf j

theorem OnlyPair.refl (q : Nat) (s : State) : OnlyPair q s s := ⟨⟨s.req.qp, rfl⟩, fun _ _ => rfl⟩

theorem qpOf_congr {s t : State} (same : t.req = s.req) (j : Nat) : t.qpOf j = s.qpOf j := by
  rw [State.qpOf, same]
  rfl

theorem seqOf_congr {s t : State} (same : t.req.seqs = s.req.seqs) (n : Nat) : t.seqOf n = s.seqOf n := by
  rw [State.seqOf, same]
  rfl

theorem OnlyPair.of_req {q : Nat} {s t : State} (same : t.req = s.req) : OnlyPair q s t :=
  ⟨⟨s.req.qp, same⟩, fun j _ => qpOf_congr same j⟩

theorem OnlyPair.trans {q : Nat} {s t u : State} (first : OnlyPair q s t) (second : OnlyPair q t u) : OnlyPair q s u := by
  obtain ⟨⟨_, left⟩, others⟩ := first
  obtain ⟨⟨qp, right⟩, others'⟩ := second
  refine ⟨⟨qp, ?_⟩, fun j ne => (others' j ne).trans (others j ne)⟩
  rw [right, left]

theorem OnlyPair.seqs {q : Nat} {s t : State} (only : OnlyPair q s t) : t.req.seqs = s.req.seqs := by
  obtain ⟨⟨_, eq⟩, _⟩ := only
  rw [eq]

theorem OnlyPair.forks {q : Nat} {s t : State} (only : OnlyPair q s t) : t.req.forks = s.req.forks := by
  obtain ⟨⟨_, eq⟩, _⟩ := only
  rw [eq]

theorem onlyPair_setQp (q : Nat) (f : QPair → QPair) (s : State) : OnlyPair q s (setQp q f s) :=
  ⟨⟨_, rfl⟩, fun _ ne => setQp_qpOf_other q f s ne⟩

/-- The pair after one completion has been written. -/
def tookCqe (tc : Nat) (p : QPair) : QPair :=
  { p with
    cqTail := (p.cqTail + 1) % p.size, phase := if (p.cqTail + 1) % p.size = 0 then !p.phase else p.phase
    unsignalled := if decide (max 1 p.coalN ≤ p.unsignalled + 1) then 0 else p.unsignalled + 1
    unsignalledAt := if p.unsignalled = 0 then tc else p.unsignalledAt }

/-- A completion in the host's memory: bytes 16 to 63, then bytes 0 to 15. -/
def withCqe (q : Nat) (c : Cqe) (s : State) : State :=
  { s with
    hostMem := memPutBytes (memPutBytes s.hostMem ((s.qpOf q).cqBase * 4096 + 64 * (s.qpOf q).cqTail + 16) (cqeRest c))
      ((s.qpOf q).cqBase * 4096 + 64 * (s.qpOf q).cqTail) (cqeHead c (s.qpOf q).sqHead (s.qpOf q).phase) }

/-- The pair's fields that a completion moves, from the values read before it. -/
def cqeMoves (tc : Nat) (p x : QPair) : QPair :=
  { x with
    cqTail := (p.cqTail + 1) % p.size, phase := if (p.cqTail + 1) % p.size = 0 then !x.phase else x.phase
    unsignalled := if decide (max 1 p.coalN ≤ p.unsignalled + 1) then 0 else p.unsignalled + 1
    unsignalledAt := if x.unsignalled = 0 then tc else x.unsignalledAt }

theorem writeCqe_eq (q : Nat) (c : Cqe) (s : State) : writeCqe q c s =
    if decide (max 1 (s.qpOf q).coalN ≤ (s.qpOf q).unsignalled + 1)
    then signalMsix (s.qpOf q).vector (setQp q (cqeMoves s.frm.tc (s.qpOf q)) (withCqe q c s))
    else setQp q (cqeMoves s.frm.tc (s.qpOf q)) (withCqe q c s) := rfl

theorem signalMsix_hostMem (v : Nat) (s : State) : (signalMsix v s).hostMem = s.hostMem := by
  unfold signalMsix
  split <;> rfl

theorem signalMsix_bme (v : Nat) (s : State) : (signalMsix v s).hif.bme = s.hif.bme := by
  unfold signalMsix
  split <;> rfl

/-- What one completion written leaves. -/
theorem writeCqe_effect (q : Nat) (c : Cqe) (s : State) :
    OnlyPair q s (writeCqe q c s) ∧ (writeCqe q c s).qpOf q = tookCqe s.frm.tc (s.qpOf q) ∧
    (writeCqe q c s).hostMem = (withCqe q c s).hostMem ∧ (writeCqe q c s).hif.bme = s.hif.bme := by
  have moved : OnlyPair q s (setQp q (cqeMoves s.frm.tc (s.qpOf q)) (withCqe q c s)) :=
    (OnlyPair.of_req rfl).trans (onlyPair_setQp q _ (withCqe q c s))
  have pair : (setQp q (cqeMoves s.frm.tc (s.qpOf q)) (withCqe q c s)).qpOf q = tookCqe s.frm.tc (s.qpOf q) :=
    setQp_qpOf_same ..
  rw [writeCqe_eq]
  split
  · exact ⟨moved.trans (OnlyPair.of_req (signalMsix_req _ _)), (qpOf_congr (signalMsix_req _ _) q).trans pair,
      signalMsix_hostMem _ _, signalMsix_bme _ _⟩
  · exact ⟨moved, pair, rfl, rfl⟩

theorem onlyPair_flushCqes (q : Nat) (l : List Cqe) (s : State) : OnlyPair q s (flushCqes q l s) := by
  induction l generalizing s with
  | nil => exact onlyPair_setQp q _ s
  | cons c l ih =>
    rw [flushCqes]
    split
    · exact (writeCqe_effect q c s).1.trans (ih _)
    · exact onlyPair_setQp q _ s

theorem onlyPair_complete (q : Nat) (c : Cqe) (s : State) : OnlyPair q s (complete q c s) := by
  unfold complete
  split
  · exact (onlyPair_setQp q _ s).trans (onlyPair_flushCqes q _ _)
  · exact OnlyPair.refl q s

theorem seqs_complete (q : Nat) (c : Cqe) (s : State) : (complete q c s).req.seqs = s.req.seqs :=
  (onlyPair_complete q c s).seqs

theorem seqOf_complete (q : Nat) (c : Cqe) (s : State) (n : Nat) : (complete q c s).seqOf n = s.seqOf n :=
  seqOf_congr (seqs_complete q c s) n

theorem freeSlots_congr {s t : State} {q : Nat} (bme : t.hif.bme = s.hif.bme) (size : (t.qpOf q).sizeLog2 = (s.qpOf q).sizeLog2)
    (head : (t.qpOf q).cqHead = (s.qpOf q).cqHead) (tail : (t.qpOf q).cqTail = (s.qpOf q).cqTail) :
    t.freeSlots q = s.freeSlots q := by
  simp only [State.freeSlots, QPair.usedSlots, QPair.size, bme, size, head, tail]

theorem freeSlots_setQp {q : Nat} {f : QPair → QPair} {s : State} (size : (f (s.qpOf q)).sizeLog2 = (s.qpOf q).sizeLog2)
    (head : (f (s.qpOf q)).cqHead = (s.qpOf q).cqHead) (tail : (f (s.qpOf q)).cqTail = (s.qpOf q).cqTail) :
    (setQp q f s).freeSlots q = s.freeSlots q := by
  have pair : (setQp q f s).qpOf q = f (s.qpOf q) := setQp_qpOf_same ..
  exact freeSlots_congr rfl (by rw [pair, size]) (by rw [pair, head]) (by rw [pair, tail])

/-! ## A completion of a pair that holds none -/

section Complete
variable {q : Nat} {s : State} (c : Cqe)

theorem complete_out_of_service (off : (s.qpOf q).enable = false) : complete q c s = s :=
  if_neg (Bool.eq_false_iff.1 off)

variable (on : (s.qpOf q).enable = true)
include on

/-- The completion joins those held, which are then written as far as there is space. -/
theorem complete_in_service : complete q c s
    = flushCqes q ((s.qpOf q).held ++ [c]) (setQp q (fun p => { p with held := p.held ++ [c] }) s) := by
  have held : ((setQp q (fun p => { p with held := p.held ++ [c] }) s).qpOf q).held = (s.qpOf q).held ++ [c] := by
    rw [setQp_qpOf_same]
  rw [complete, if_pos on, flushCq, held]

/-- Without a free slot the completion joins those held. -/
theorem complete_held (full : s.freeSlots q = 0) :
    complete q c s = setQp q (fun p => { p with held := (s.qpOf q).held ++ [c] })
      (setQp q (fun p => { p with held := p.held ++ [c] }) s) := by
  have same : (setQp q (fun p => { p with held := p.held ++ [c] }) s).freeSlots q = 0 := by
    rw [freeSlots_setQp rfl rfl rfl, full]
  rw [complete_in_service c on]
  cases (s.qpOf q).held with
  | nil =>
    rw [List.nil_append, flushCqes, same]
    rfl
  | cons d l =>
    rw [List.cons_append, flushCqes, same]
    rfl

/-- With a free slot and none held it is written at once. -/
theorem complete_written (none_ : (s.qpOf q).held = []) (room : 0 < s.freeSlots q) :
    complete q c s = setQp q (fun p => { p with held := [] })
      (writeCqe q c (setQp q (fun p => { p with held := p.held ++ [c] }) s)) := by
  have same : 0 < (setQp q (fun p => { p with held := p.held ++ [c] }) s).freeSlots q := by
    rw [freeSlots_setQp rfl rfl rfl]
    exact room
  rw [complete_in_service c on, none_, List.nil_append, flushCqes, if_pos same, flushCqes]

end Complete

/-- Settles O26: `complete` by the pair being in service and having a free slot; `writeCqe` once for what it writes. -/
theorem completionsReachTheHost : Obligations.CompletionsReachTheHost := by
  unfold Obligations.CompletionsReachTheHost
  intro q c s
  have free : false = false := rfl
  have kept : Keeps (Untouched.allBut [.reports, .req]) s (complete q c s) := complete_keeps q c s (Keeps.refl s)
  refine ⟨fun on none_ room => ?written, fun on none_ full => ?held, fun off => complete_out_of_service c off,
    (onlyPair_complete q c s).2, seqs_complete q c s, mem_of_keeps kept rfl rfl⟩
  case written =>
    obtain ⟨_, pair, host, _⟩ := writeCqe_effect q c (setQp q (fun p => { p with held := p.held ++ [c] }) s)
    have before : (setQp q (fun p => { p with held := p.held ++ [c] }) s).qpOf q
        = { s.qpOf q with held := (s.qpOf q).held ++ [c] } := setQp_qpOf_same ..
    rw [complete_written c on none_ room, setQp_qpOf_same, pair, before]
    refine ⟨host.trans ?_, rfl, rfl, rfl⟩
    rw [withCqe, before]
    rfl
  case held =>
    rw [complete_held c on full, setQp_qpOf_same, none_]
    refine ⟨rfl, rfl, ?_⟩
    rw [setQp_qpOf_same]

end Sys2Proof.Proofs
end


section
/-! The registers and doorbells of a queue pair, its timers, and reads of host memory that fail (R209 to R217, R236,
R305). -/
namespace Sys2Proof.Proofs
set_option Elab.async false
open Sys2Proof.Machine Sys2Proof.Laws

/-! ## Word 2 (R236) -/

theorem exec_qpEnable {q : Nat} (pair : q < 256) (v : Nat) (s : State) :
    exec (.qpEnable q v) s = .next (writeQp2 q (v % 2 ^ 63 + 2 ^ 63) s) := by
  have low : v % 2 ^ 64 % 2 ^ 63 = v % 2 ^ 63 := Nat.mod_mod_of_dvd v ⟨2, rfl⟩
  rw [← low]
  exact onUnit_runs pair

theorem exec_qpDisable {q : Nat} (pair : q < 256) (v : Nat) (s : State) :
    exec (.qpDisable q v) s = .next (writeQp2 q (v % 2 ^ 63) s) := by
  have low : v % 2 ^ 64 % 2 ^ 63 = v % 2 ^ 63 := Nat.mod_mod_of_dvd v ⟨2, rfl⟩
  rw [← low]
  exact onUnit_runs pair

section Word2
variable {s : State} {q v : Nat} (up : s.hostUp = true) (state : s.inStates qpStates = true)
include up state

section Sets
variable (set : bit v 63 = true)
include set

theorem writeQp2_unlicensed (off : s.kpr.features.req = false) : writeQp2 q v s = refuse (qpOff q 2) v 0x0610 s := by
  simp only [writeQp2, up, state, set, off, Bool.not_true, Bool.not_false, Bool.false_eq_true, if_false, if_true]

variable (on : s.kpr.features.req = true)
include on

theorem writeQp2_bad (bad : qpWord2Ok v = false ∨ field v 0 4 = 0) : writeQp2 q v s = refuse (qpOff q 2) v 0x0730 s := by
  have refused : (!qpWord2Ok v || decide (field v 0 4 = 0)) = true := by
    rcases bad with word | size
    · rw [word]; rfl
    · rw [decide_eq_true size, Bool.or_true]
  simp only [writeQp2, up, state, set, on, refused, Bool.true_or, Bool.not_true, Bool.false_eq_true, if_false, if_true]

theorem writeQp2_enables (word : qpWord2Ok v = true) (size : field v 0 4 ≠ 0) (sq : (s.qpOf q).sqBase ≠ 0)
    (cq : (s.qpOf q).cqBase ≠ 0) (idle : (s.qpOf q).enable = false) (settled : (s.qpOf q).busy = false) :
    writeQp2 q v s = setQp q (fun p => { p.takeWord2 v with
      enable := true, sqHead := 0, sqTail := 0, cqTail := 0, cqHead := 0, phase := true, held := [], parked := []
      unsignalled := 0, fetchFailed := 0 }) s := by
  simp only [writeQp2, up, state, set, on, word, size, sq, cq, idle, settled, decide_false, Bool.or_self, Bool.false_and,
    Bool.not_true, Bool.false_eq_true, if_false]

end Sets

theorem writeQp2_disables (clear : bit v 63 = false) (on : (s.qpOf q).enable = true) : writeQp2 q v s = disableQp q s := by
  simp only [writeQp2, up, state, clear, on, Bool.not_true, Bool.not_false, Bool.false_eq_true, if_false, if_true]

end Word2

/-- A word 2 that gives its fields in range. -/
theorem qpWord2_fields {vec n us sz : Nat} (vector : vec < 64) (count : n < 256) (micros : us < 2 ^ 16) (least : 4 ≤ sz)
    (most : sz ≤ 12) {v : Nat} (word : v = 2 ^ 40 * vec + 2 ^ 32 * n + 2 ^ 16 * us + sz + 2 ^ 63) :
    bit v 63 = true ∧ qpWord2Ok v = true ∧ field v 0 4 = sz ∧ field v 16 16 = us ∧ field v 32 8 = n ∧ field v 40 8 = vec := by
  have f0 : v / 2 ^ 0 % 2 ^ 4 = sz := by omega
  have f16 : v / 2 ^ 16 % 2 ^ 16 = us := by omega
  have f32 : v / 2 ^ 32 % 2 ^ 8 = n := by omega
  have f40 : v / 2 ^ 40 % 2 ^ 8 = vec := by omega
  have f48 : v / 2 ^ 48 % 2 ^ 15 = 0 := by omega
  have f4 : v / 2 ^ 4 % 2 ^ 12 = 0 := by omega
  have top : v / 2 ^ 63 % 2 = 1 := by omega
  refine ⟨?_, ?_, f0, f16, f32, f40⟩
  · rw [bit, top]
    rfl
  · simp only [qpWord2Ok, field, f0, f4, f40, f48, vector, least, most, decide_true, Bool.and_self, Bool.or_true]

/-! ## Out of service (R236) -/

theorem settleBusy_settles {q : Nat} {s : State} (none_ : s.req.seqs.all (fun e => decide (e.2.qp ≠ q)) = true) :
    settleBusy q s = setQp q (fun p => { p with busy := false }) s := by
  refine if_neg ?_
  rw [Bool.not_eq_true, List.any_eq_false]
  intro e here
  have other := of_decide_eq_true (List.all_eq_true.1 none_ e here)
  simp only [other, decide_false, Bool.false_and, Bool.false_eq_true, not_false_eq_true]

/-- A pair as it is taken out of service. -/
def retired (p : QPair) : QPair :=
  { p with enable := false, busy := true, held := [], parked := [], unsignalled := 0, fetchFailed := 0 }

/-- The OPENs of a pair that wait go. -/
def withoutOpens (q : Nat) (s : State) : State :=
  { s with req := { s.req with opens := s.req.opens.filter (fun o => decide (o.qp ≠ q)) } }

/-- A pair without sequences and forks leaves service at once. -/
theorem disableQp_alone {q : Nat} {s : State} (none_ : s.req.seqs.all (fun e => decide (e.2.qp ≠ q)) = true)
    (noFork : s.req.forks.all (fun f => decide (f.qp ≠ q)) = true) :
    disableQp q s = setQp q (fun p => { p with busy := false }) (withoutOpens q (setQp q retired s)) := by
  have forks : s.req.forks.filter (fun f => decide (f.qp ≠ q)) = s.req.forks := List.filter_eq_self.2 (List.all_eq_true.1 noFork)
  have kids : s.req.forks.filter (fun f => decide (f.qp = q)) = [] := by
    refine List.filter_eq_nil_iff.2 fun f here => ?_
    have other := of_decide_eq_true (List.all_eq_true.1 noFork f here)
    simp only [other, decide_false, Bool.false_eq_true, not_false_eq_true]
  have own : s.req.seqs.filter (fun e => decide (e.2.qp = q)) = [] := by
    refine List.filter_eq_nil_iff.2 fun e here => ?_
    have other := of_decide_eq_true (List.all_eq_true.1 none_ e here)
    simp only [other, decide_false, Bool.false_eq_true, not_false_eq_true]
  have out : disableQp q s = settleBusy q (withoutOpens q (setQp q retired s)) := by
    simp only [disableQp, setQp, withoutOpens, kids, forks, own, List.map_nil, List.foldl_nil]
    rfl
  rw [out]
  exact settleBusy_settles none_

theorem disableQp_alone_effect {q : Nat} {s : State} (none_ : s.req.seqs.all (fun e => decide (e.2.qp ≠ q)) = true)
    (noFork : s.req.forks.all (fun f => decide (f.qp ≠ q)) = true) : ∃ t, disableQp q s = t ∧
    t.qpOf q = { s.qpOf q with
      enable := false, busy := false, held := [], parked := [], unsignalled := 0, fetchFailed := 0 } ∧
    (∀ j, j ≠ q → t.qpOf j = s.qpOf j) ∧
    t = { s with req := { s.req with qp := t.req.qp, opens := s.req.opens.filter (fun o => decide (o.qp ≠ q)) } } := by
  refine ⟨_, disableQp_alone none_ noFork, ?_, fun j ne => ?_, rfl⟩
  · rw [setQp_qpOf_same]
    have before : (withoutOpens q (setQp q retired s)).qpOf q = retired (s.qpOf q) := setQp_qpOf_same q retired s
    rw [before, retired]
  · rw [setQp_qpOf_other _ _ _ ne]
    exact setQp_qpOf_other q retired s ne

/-! ## Doorbells (R210, R215, R289) -/

section Doorbells
variable {s : State} {q v : Nat}

theorem sqTail_refused (bad : (s.qpOf q).enable = false ∨ (s.qpOf q).size ≤ v % 4096) :
    sqTail q v s = refuse bar4Unit v 0x0731 s := by
  refine if_pos ?_
  rcases bad with off | past
  · rw [off]; rfl
  · rw [decide_eq_true past, Bool.or_true]

theorem cqHead_refused (bad : (s.qpOf q).enable = false ∨ (s.qpOf q).size ≤ v % 4096) :
    cqHead q v s = refuse bar4Unit v 0x0731 s := by
  refine if_pos ?_
  rcases bad with off | past
  · rw [off]; rfl
  · rw [decide_eq_true past, Bool.or_true]

theorem cqHead_ahead (on : (s.qpOf q).enable = true) (inside : v % 4096 < (s.qpOf q).size)
    (ahead : (s.qpOf q).usedSlots < (v % 4096 + (s.qpOf q).size - (s.qpOf q).cqHead) % (s.qpOf q).size) :
    cqHead q v s = refuse bar4Unit v 0x0732 s := by
  have known : (!(s.qpOf q).enable || decide ((s.qpOf q).size ≤ v % 4096)) = false := by
    rw [on, decide_eq_false (Nat.not_le.2 inside)]; rfl
  exact (if_neg (Bool.eq_false_iff.1 known)).trans (if_pos ahead)

/-- A pair that holds nothing back: space that comes back moves nothing but its own record. -/
theorem releaseCq_idle (held : (s.qpOf q).held = []) (parked : (s.qpOf q).parked = []) : ∃ qp,
    releaseCq q s = { s with req := { s.req with qp := qp } } := by
  have waiting : ((flushCq q s).qpOf q).parked = [] := by rw [flushCq_qpOf_of_none_held held, parked]
  have flushed : flushCq q s = setQp q (fun p => { p with held := [] }) s := by rw [flushCq, held, flushCqes]
  rw [releaseCq, waiting, flushed, unpark]
  exact ⟨_, rfl⟩

theorem bar4Write_ignored {off w : Nat} (bad : s.bar4Live = false ∨ (w ≠ 4 ∧ w ≠ 8) ∨ off % w ≠ 0 ∨
    (off % 4096 ≠ 0 ∧ off % 4096 ≠ 8)) : bar4Write off w v s = s := by
  rcases bad with dead | width | aligned | ⟨notSq, notCq⟩
  · refine if_pos ?_
    rw [dead]; rfl
  · refine if_pos ?_
    have wrong : barWidth off w = false := by rw [barWidth, decide_eq_false width.1, decide_eq_false width.2]; rfl
    rw [wrong, Bool.not_false, Bool.or_true]
  · refine if_pos ?_
    have wrong : barWidth off w = false := by rw [barWidth, decide_eq_false aligned, Bool.and_false]
    rw [wrong, Bool.not_false, Bool.or_true]
  · exact bar4Write_no_doorbell notSq notCq w v s

/-- The head of a pair that holds nothing back moves, and nothing else. -/
theorem releaseCq_cqHead_effect (on : (s.qpOf q).enable = true) (inside : v % 4096 < (s.qpOf q).size)
    (used : (v % 4096 + (s.qpOf q).size - (s.qpOf q).cqHead) % (s.qpOf q).size ≤ (s.qpOf q).usedSlots)
    (held : (s.qpOf q).held = []) (parked : (s.qpOf q).parked = []) : ∃ t, releaseCq q (cqHead q v s) = t ∧
    t.qpOf q = { s.qpOf q with cqHead := v % 4096 } ∧ (∀ j, j ≠ q → t.qpOf j = s.qpOf j) ∧
    t = { s with req := { s.req with qp := t.req.qp } } := by
  have moved := cqHead_qpOf_of_none_held on inside used held
  have head : cqHead q v s = setQp q (fun p => { p with held := [] }) (setQp q (fun p => { p with cqHead := v % 4096 }) s) := by
    have none_ : ((setQp q (fun p => { p with cqHead := v % 4096 }) s).qpOf q).held = [] := by
      rw [setQp_qpOf_same]; exact held
    rw [cqHead_accepted on inside used, flushCq, none_, flushCqes]
  have onlyHead : OnlyPair q s (cqHead q v s) := by
    rw [head]
    exact (onlyPair_setQp q _ s).trans (onlyPair_setQp q _ _)
  have onlyRest : OnlyPair q (cqHead q v s) (releaseCq q (cqHead q v s)) := by
    have waiting : ((flushCq q (cqHead q v s)).qpOf q).parked = [] := by
      rw [flushCq_qpOf_of_none_held (by rw [moved]; exact held), moved]; exact parked
    rw [releaseCq, waiting, unpark]
    exact (onlyPair_flushCqes q _ _).trans (onlyPair_setQp q _ _)
  obtain ⟨_, rest⟩ := releaseCq_idle (s := cqHead q v s) (q := q) (by rw [moved]; exact held) (by rw [moved]; exact parked)
  refine ⟨_, rfl, releaseCq_cqHead_qpOf on inside used held parked, (onlyHead.trans onlyRest).2, ?_⟩
  rw [rest, head]
  rfl

end Doorbells

/-! ## Timers (R217, R305) -/

section Timers
variable {s : State} {q : Nat} (on : (s.qpOf q).enable = true)
include on

theorem doReqCoalesceTimeout_signals (some_ : 0 < (s.qpOf q).unsignalled) (wanted : 0 < (s.qpOf q).coalUs)
    (due : (s.qpOf q).unsignalledAt + (s.qpOf q).coalUs * 1000 ≤ s.frm.tc) :
    doReqCoalesceTimeout q s = signalMsix (s.qpOf q).vector (setQp q (fun p => { p with unsignalled := 0 }) s) := by
  refine if_pos ?_
  have late : (s.qpOf q).unsignalledAt + (s.qpOf q).coalUs * tcUs ≤ s.frm.tc := due
  rw [on, decide_eq_true some_, decide_eq_true wanted, decide_eq_true late]
  rfl

theorem doSqFetchRetry_retries (failed : (s.qpOf q).fetchFailed = 1) (due : (s.qpOf q).failedAt + 1000000 ≤ s.frm.tc) :
    doSqFetchRetry q s = setQp q (fun p => { p with fetchFailed := 2 }) s := by
  refine if_pos ?_
  have late : (s.qpOf q).failedAt + tcMs ≤ s.frm.tc := due
  rw [on, decide_eq_true failed, decide_eq_true late]
  rfl

end Timers

/-! ## Reads of host memory that fail (R305) -/

theorem canFetch_congr {s t : State} (req : t.req = s.req) (bme : t.hif.bme = s.hif.bme) (state : t.kpr.state = s.kpr.state)
    (q : Nat) : t.canFetch q = s.canFetch q := by
  have entry : t.hasEntry = s.hasEntry := by
    funext j
    simp only [State.hasEntry, State.inStates, qpOf_congr req, bme, state]
  rw [State.canFetch, State.nextPair, entry, req]
  rfl

/-- What AER and the event of a failed read leave. -/
def readFailed (e : ReadEnd) (pair : Nat) (s : State) : State :=
  raise 0x0072 1 pair [e.code] (aerError e.aerBit (aerHeader 2 0 0) s)

theorem aerError_leaves (b : Nat) (header : List Nat) (s : State) : (aerError b header s).req = s.req ∧
    (aerError b header s).hif.bme = s.hif.bme ∧ (aerError b header s).kpr = s.kpr ∧
    (aerError b header s).hif.aer.status = s.hif.aer.status ||| 2 ^ b ∧ (aerError b header s).dev = s.dev := by
  unfold aerError
  by_cases masked : bit s.hif.aer.mask b = true
  · rw [if_pos masked]
    exact ⟨rfl, rfl, rfl, rfl, rfl⟩
  · rw [if_neg masked]
    by_cases first : bit s.hif.aer.status s.hif.aer.first = true
    · rw [if_pos first]
      exact ⟨rfl, rfl, rfl, rfl, rfl⟩
    · rw [if_neg first]
      exact ⟨rfl, rfl, rfl, rfl, rfl⟩

theorem readFailed_leaves (e : ReadEnd) (pair : Nat) (s : State) : (readFailed e pair s).req = s.req ∧
    (readFailed e pair s).hif.bme = s.hif.bme ∧ (readFailed e pair s).kpr = s.kpr ∧
    (readFailed e pair s).hif.aer.status = s.hif.aer.status ||| 2 ^ e.aerBit ∧ (readFailed e pair s).dev = s.dev := by
  obtain ⟨req, bme, kpr, status, dev⟩ := aerError_leaves e.aerBit (aerHeader 2 0 0) s
  refine ⟨(raise_req ..).trans req, (raise_hif_bme ..).trans bme, (raise_kpr ..).trans kpr, ?_, (raise_dev ..).trans dev⟩
  have kept := raise_keeps 0x0072 1 pair [e.code] (aerError e.aerBit (aerHeader 2 0 0) s)
    (pt := Untouched.allBut [.reports]) (Keeps.refl _) rfl
  exact (congrArg (fun h : HifBlk => h.aer.status) (kept.hif rfl)).trans status

theorem exec_hostReadFailed (r : HostReader) (e : ReadEnd) (s : State) :
    exec (.hostReadFailed r e) s = .next (doHostReadFailed r e s) := rfl

theorem doHostReadFailed_fails {r : HostReader} {e : ReadEnd} {s : State} (powered : s.powered = true)
    (bme : s.hif.bme = true) : doHostReadFailed r e s = readerFails r (readFailed e (s.readerPair r) s) := by
  refine if_neg ?_
  rw [powered, bme]
  decide

theorem doHostReadFailed_none {r : HostReader} {e : ReadEnd} {s : State} (none_ : s.powered = false ∨ s.hif.bme = false) :
    doHostReadFailed r e s = s := by
  refine if_pos ?_
  rcases none_ with off | off <;> rw [off]
  · rfl
  · exact Bool.or_true _

theorem readerFails_fetch {q : Nat} {e : ReadEnd} {s : State} (reads : s.canFetch q = true) :
    readerFails (.fetch q) (readFailed e q s) = setQp q (fun p =>
      if p.fetchFailed = 2 then { p with fetchFailed := 3 } else { p with fetchFailed := 1, failedAt := s.frm.tc })
      (readFailed e q s) := by
  obtain ⟨req, bme, kpr, _, _⟩ := readFailed_leaves e q s
  have still : (readFailed e q s).canFetch q = true :=
    (canFetch_congr req bme (congrArg KprBlk.state kpr) q).trans reads
  have tc : (readFailed e q s).frm.tc = s.frm.tc := by
    have kept := raise_keeps 0x0072 1 q [e.code] (aerError e.aerBit (aerHeader 2 0 0) s)
      (pt := Untouched.allBut [.reports, .hif]) (aerError_keeps e.aerBit (aerHeader 2 0 0) s (Keeps.refl s) rfl) rfl
    exact congrArg FrmBlk.tc (kept.frm rfl)
  rw [readerFails, fetchFails, if_pos still, tc]

/-! ## The buffer of an APPEND (R218, log 116) -/

theorem known_withKnown (x : Seq) (l : List (Option Nat)) : (x.withKnown l).known = l := by
  unfold Seq.withKnown
  split
  · rfl
  · rfl

theorem len_withKnown (x : Seq) (l : List (Option Nat)) : (x.withKnown l).len = x.len := by
  unfold Seq.withKnown
  split
  · by_cases some_ : x.pending.isSome = true
    · simp only [some_, if_true]
    · simp only [some_, Bool.false_eq_true, if_false, Seq.remember]
  · rfl

theorem work_withKnown (x : Seq) (l : List (Option Nat)) : (x.withKnown l).work = x.work := by
  unfold Seq.withKnown
  split
  · by_cases some_ : x.pending.isSome = true
    · simp only [some_, if_true]
    · simp only [some_, Bool.false_eq_true, if_false, Seq.remember]
  · rfl

/-- Where no work waits, advancing a sequence changes nothing of it. -/
theorem advance_seqOf_idle {n : Nat} {s : State} (none_ : (s.seqOf n).work = []) :
    (advance n s).seqOf n = s.seqOf n := by
  unfold advance
  split
  · rw [none_, startWork, setSeq_seqOf_same]
    exact congrArg (fun w => { s.seqOf n with work := w }) none_.symm
  · rfl

/-- A sequence whose only APPEND ends at the read that failed. -/
def appendLost (a : AppendRun) (i : Nat) (x : Seq) : Seq :=
  { x.withKnown (x.known.take i ++ x.known.drop (a.left + 1)) with appends := [] }

section Buffer
variable {s : State} {n i : Nat} {a : AppendRun} (one : (s.seqOf n).appends = [a])
  (next_ : (s.seqOf n).known.findIdx (fun t => t.isNone) = i) (own : i ≤ a.left) (unread : i < (s.seqOf n).known.length)
include one next_ own unread

theorem hostFault_seqOf (none_ : (s.seqOf n).work = []) : (hostFault n s).seqOf n = appendLost a i (s.seqOf n) := by
  have found : (s.seqOf n).appends.find? (fun a => decide ((s.seqOf n).known.findIdx (fun t => t.isNone) ≤ a.left)) = some a := by
    rw [one, next_]
    exact List.find?_cons_of_pos (decide_eq_true own)
  have short : ¬ (s.seqOf n).known.length ≤ (s.seqOf n).known.findIdx (fun t => t.isNone) := by
    rw [next_]
    exact Nat.not_le.2 unread
  have gone : (s.seqOf n).appends.filter (fun c => decide (c.left ≠ a.left)) = [] := by
    rw [one]
    simp only [List.filter, ne_eq, not_true_eq_false, decide_false]
  rw [hostFault]
  simp only [found, if_neg short]
  have work : ∀ l, ((s.seqOf n).withKnown l).work = [] := fun l => by rw [work_withKnown, none_]
  rw [advance_seqOf_idle, seqOf_complete, setSeq_seqOf_same, gone, next_, appendLost, List.map_nil]
  rw [seqOf_complete, setSeq_seqOf_same]
  exact work _

end Buffer

/-- What the failed read of an APPEND's buffer leaves. -/
theorem bufferFails_effect {n i : Nat} {e : ReadEnd} {a : AppendRun} {s : State} (one : (s.seqOf n).appends = [a])
    (next_ : (s.seqOf n).known.findIdx (fun t => t.isNone) = i) (own : i ≤ a.left)
    (unread : i < (s.seqOf n).known.length) (none_ : (s.seqOf n).work = []) : ∃ t,
    readerFails (.buffer n) (readFailed e (s.readerPair (.buffer n)) s) = t ∧
    (t.seqOf n).appends = [] ∧ (t.seqOf n).known = (s.seqOf n).known.take i ++ (s.seqOf n).known.drop (a.left + 1) ∧
    (t.seqOf n).len = (s.seqOf n).len ∧ t.hif.aer.status = s.hif.aer.status ||| 2 ^ e.aerBit ∧ t.mem = s.mem ∧
    t.frm = s.frm := by
  have free : false = false := rfl
  have failed : Keeps (Untouched.allBut [.reports, .hif]) s (readFailed e (s.readerPair (.buffer n)) s) :=
    raise_keeps _ _ _ _ _ (aerError_keeps e.aerBit (aerHeader 2 0 0) s (Keeps.refl s))
  obtain ⟨req, _, _, status, _⟩ := readFailed_leaves e (s.readerPair (.buffer n)) s
  generalize readFailed e (s.readerPair (.buffer n)) s = z at failed req status ⊢
  have same : z.seqOf n = s.seqOf n := seqOf_congr (congrArg ReqBlk.seqs req) n
  rw [← same] at one next_ unread none_ ⊢
  have seq := hostFault_seqOf one next_ own unread none_
  have kept : Keeps (Untouched.allBut [.reports, .req]) z (hostFault n z) := hostFault_keeps n z (Keeps.refl z)
  have aer : (hostFault n z).hif.aer = z.hif.aer := by
    have aer := congrArg (fun h : HifBlk => h.aer) (kept.hif rfl)
    exact aer
  refine ⟨hostFault n z, rfl, ?_, ?_, ?_, ?_, (mem_of_keeps kept rfl rfl).trans (mem_of_keeps failed rfl rfl),
    (kept.frm rfl).trans (failed.frm rfl)⟩
  · rw [seq, appendLost]
  · rw [seq, appendLost]
    exact known_withKnown _ _
  · rw [seq, appendLost]
    exact len_withKnown _ _
  · rw [aer, status]

/-! ## The obligation -/

/-- Settles O23: word 2 by its bits, the doorbells by the index, the timers by their conditions, and a failed read by the
unit that made it. -/
theorem queuePairRegisters : Obligations.QueuePairRegisters := by
  unfold Obligations.QueuePairRegisters
  refine ⟨?enable, ?unlicensed, ?size, ?disable, ?sqTail, ?sqRefused, ?cqRefused, ?cqAhead, ?cqHead, ?ignored, ?coalesce,
    ?retry, ?fetch, ?keeper, ?buffer, ?none_⟩
  case enable =>
    intro s q vec n us sz up state pair vector count micros least most on idle settled sq cq
    have small : 2 ^ 40 * vec + 2 ^ 32 * n + 2 ^ 16 * us + sz < 2 ^ 63 := by omega
    obtain ⟨set, word, f0, f16, f32, f40⟩ := qpWord2_fields vector count micros least most rfl
    rw [exec_qpEnable pair, Nat.mod_eq_of_lt small, writeQp2_enables up state set on word (by rw [f0]; omega) sq cq idle settled]
    simp only [QPair.takeWord2, f0, f16, f32, f40]
  case unlicensed =>
    intro s q v up state pair small off
    have set : bit (v + 2 ^ 63) 63 = true := by
      have top : (v + 2 ^ 63) / 2 ^ 63 % 2 = 1 := by omega
      rw [bit, top]; rfl
    rw [exec_qpEnable pair, Nat.mod_eq_of_lt small, writeQp2_unlicensed up state set off]
  case size =>
    intro s q sz up state pair bad small on
    have set : bit (sz + 2 ^ 63) 63 = true := by
      have top : (sz + 2 ^ 63) / 2 ^ 63 % 2 = 1 := by omega
      rw [bit, top]; rfl
    have f0 : field (sz + 2 ^ 63) 0 4 = sz := by
      show (sz + 2 ^ 63) / 2 ^ 0 % 2 ^ 4 = sz
      omega
    have wrong : qpWord2Ok (sz + 2 ^ 63) = false ∨ field (sz + 2 ^ 63) 0 4 = 0 := by
      rw [qpWord2Ok, f0]
      by_cases zero : sz = 0
      · exact Or.inr zero
      · refine Or.inl ?_
        have range : (decide (4 ≤ sz) && decide (sz ≤ 12)) = false := by
          rw [Bool.and_eq_false_iff, decide_eq_false_iff_not, decide_eq_false_iff_not]
          omega
        rw [decide_eq_false zero, range]
        simp only [Bool.or_self, Bool.and_false]
    rw [exec_qpEnable pair, Nat.mod_eq_of_lt (by omega), writeQp2_bad up state set on wrong]
  case disable =>
    intro s q v up state pair small on none_ noFork
    have clear : bit v 63 = false := by
      have top : v / 2 ^ 63 % 2 = 0 := by omega
      rw [bit, top]; rfl
    obtain ⟨t, out, effect⟩ := disableQp_alone_effect none_ noFork
    refine ⟨t, ?_, effect⟩
    rw [exec_qpDisable pair, Nat.mod_eq_of_lt small, writeQp2_disables up state clear on, out]
  case sqTail =>
    intro s q w v live pair width on inside
    rw [exec_sqTailDoorbell_pair live width pair, sqTail_accepted on inside]
  case sqRefused =>
    intro s q w v live pair width bad
    rw [exec_sqTailDoorbell_pair live width pair, sqTail_refused bad]
  case cqRefused =>
    intro s q w v live pair width bad
    refine ⟨_, exec_cqHeadDoorbell_pair live width pair v, ?_⟩
    rw [cqHead_refused bad]
  case cqAhead =>
    intro s q w v live pair width on inside ahead
    rw [exec_cqHeadDoorbell_pair live width pair, cqHead_ahead on inside ahead]
  case cqHead =>
    intro s q w v live pair width on inside used held parked
    obtain ⟨t, moved, effect⟩ := releaseCq_cqHead_effect on inside used held parked
    exact ⟨t, (exec_cqHeadDoorbell_pair live width pair v).trans (congrArg Host.Outcome.next moved), effect⟩
  case ignored =>
    intro s off w v bad inside
    rw [exec_sqTailDoorbell, exec_cqHeadDoorbell, Nat.mod_eq_of_lt inside, bar4Write_ignored bad]
    exact ⟨rfl, rfl⟩
  case coalesce =>
    intro s q pair on some_ wanted due
    exact (onUnit_runs pair).trans (congrArg Host.Outcome.next (doReqCoalesceTimeout_signals on some_ wanted due))
  case retry =>
    intro s q pair on failed due
    exact (onUnit_runs pair).trans (congrArg Host.Outcome.next (doSqFetchRetry_retries on failed due))
  case fetch =>
    intro s q e powered bme reads
    rw [exec_hostReadFailed, doHostReadFailed_fails powered bme]
    exact congrArg Host.Outcome.next (readerFails_fetch reads)
  case keeper =>
    intro s e powered bme
    rw [exec_hostReadFailed, doHostReadFailed_fails powered bme]
    rfl
  case buffer =>
    intro s n e a i powered bme one next_ own unread none_
    obtain ⟨t, fails, effect⟩ := bufferFails_effect (e := e) one next_ own unread none_
    refine ⟨t, ?_, effect⟩
    rw [exec_hostReadFailed, doHostReadFailed_fails powered bme, fails]
  case none_ =>
    intro s r e none_
    rw [exec_hostReadFailed, doHostReadFailed_none none_]

end Sys2Proof.Proofs
end


section
/-! Entries of a submission queue (chapter 10): acceptance, OPEN, APPEND, GENERATE and what refuses an entry (R212, R213,
R218, R221, R223, R232, R235). -/
namespace Sys2Proof.Proofs
set_option Elab.async false
open Sys2Proof.Machine Sys2Proof.Laws

/-! ## The head passes -/

section PassHead
variable (q : Nat) (s : State)

theorem passHead_qpOf : (passHead q s).qpOf q =
    { s.qpOf q with sqHead := ((s.qpOf q).sqHead + 1) % (s.qpOf q).size, fetchFailed := 0 } :=
  setQp_qpOf_same q _ { s with req := { s.req with
    turn := q, taken := if decide (s.req.turn = q) && decide (s.req.taken < 16) then s.req.taken + 1 else 1 } }

theorem passHead_parked : ((passHead q s).qpOf q).parked = (s.qpOf q).parked := by rw [passHead_qpOf]

theorem passHead_held : ((passHead q s).qpOf q).held = (s.qpOf q).held := by rw [passHead_qpOf]

theorem passHead_freeSlots : (passHead q s).freeSlots q = s.freeSlots q :=
  freeSlots_congr rfl (by rw [passHead_qpOf]) (by rw [passHead_qpOf]) (by rw [passHead_qpOf])

theorem passHead_seqOf (n : Nat) : (passHead q s).seqOf n = s.seqOf n := rfl

theorem passHead_forks : (passHead q s).req.forks = s.req.forks := rfl

theorem passHead_stateReason (anyTime : Bool) : (passHead q s).stateReason anyTime = s.stateReason anyTime := rfl

end PassHead

/-! ## Acceptance -/

section Accept
variable {q : Nat} {e : List Nat} {s : State}

theorem accept_none (reads : s.canFetch q = false) : accept q e s = s := by
  refine if_pos ?_
  rw [reads]; rfl

variable (reads : s.canFetch q = true)
include reads

theorem accept_cases : accept q e s = if (passHead q s).parks q e (runEntry q e (passHead q s))
    then setQp q (fun p => { p with parked := p.parked ++ [e] }) (passHead q s) else runEntry q e (passHead q s) := by
  refine if_neg ?_
  rw [reads]
  decide

theorem accept_waits (behind : (s.qpOf q).parked.any (sameSeq e) = true) :
    accept q e s = setQp q (fun p => { p with parked := p.parked ++ [e] }) (passHead q s) := by
  rw [accept_cases reads]
  refine if_pos ?_
  rw [State.parks, passHead_parked, behind]
  rfl

/-- An entry that completes waits while its pair has no free slot. -/
theorem accept_parked (on : (s.qpOf q).enable = true) (full : s.freeSlots q = 0)
    (longer : (s.qpOf q).held.length < ((runEntry q e (passHead q s)).qpOf q).held.length) :
    accept q e s = setQp q (fun p => { p with parked := p.parked ++ [e] }) (passHead q s) := by
  rw [accept_cases reads]
  refine if_pos ?_
  have enable : ((passHead q s).qpOf q).enable = true := by rw [passHead_qpOf]; exact on
  rw [State.parks, State.cqFull, passHead_freeSlots, passHead_held, enable, decide_eq_true full, decide_eq_true longer]
  simp only [Bool.and_self, Bool.or_true]

variable (apart : (s.qpOf q).parked.any (sameSeq e) = false)
include apart

/-- An entry is served where its pair has a free slot. -/
theorem accept_served (room : 0 < s.freeSlots q) : accept q e s = runEntry q e (passHead q s) := by
  rw [accept_cases reads]
  refine if_neg ?_
  have open_ : (passHead q s).cqFull q = false := by
    rw [State.cqFull, passHead_freeSlots, decide_eq_false (Nat.ne_of_gt room), Bool.and_false]
  rw [State.parks, passHead_parked, apart, open_, Bool.false_and]
  decide

/-- An entry that completes nothing is served whatever its pair has. -/
theorem accept_silent (silent : ((runEntry q e (passHead q s)).qpOf q).held = (s.qpOf q).held) :
    accept q e s = runEntry q e (passHead q s) := by
  rw [accept_cases reads]
  refine if_neg ?_
  rw [State.parks, passHead_parked, apart, silent, passHead_held, decide_eq_false (Nat.lt_irrefl _), Bool.and_false]
  decide

end Accept

/-! ## Serving an entry -/

section Serve
variable {q : Nat} {b : List Nat} {anyTime known : Bool} {reserved : List (Nat × Nat)} {run : State → State} {s : State}

theorem serve_in_other_state (reason : s.stateReason anyTime ≠ 0) : serve q b anyTime reserved known run s
    = complete q (lastCqe (entryTag b) (entrySeq b) (s.stateReason anyTime) 0x01 0) s := if_pos reason

variable (reason : s.stateReason anyTime = 0)
include reason

theorem serve_invalid (bad : known = false ∨ allZero b reserved = false) : serve q b anyTime reserved known run s
    = complete q (lastCqe (entryTag b) (entrySeq b) 0x0720 0x02 0) s := by
  refine (if_neg (not_not_intro reason)).trans (if_pos ?_)
  rcases bad with op | bytes
  · rw [op]; rfl
  · rw [bytes, Bool.not_false, Bool.or_true]

theorem serve_runs (listed : known = true) (zero : allZero b reserved = true) : serve q b anyTime reserved known run s = run s := by
  refine (if_neg (not_not_intro reason)).trans (if_neg ?_)
  rw [listed, zero]
  decide

end Serve

section WithSeq
variable {q : Nat} {b : List Nat} {run : Nat → Seq → State → State} {s : State}

theorem withSeq_unknown (bad : (s.seqOf (entrySeq b)).state = .free ∨ (s.seqOf (entrySeq b)).qp ≠ q) :
    withSeq q b run s = complete q (lastCqe (entryTag b) (entrySeq b) 0x0721 0x04 0) s := by
  refine if_pos ?_
  rcases bad with free | other
  · rw [decide_eq_true free]; rfl
  · rw [decide_eq_true other, Bool.or_true, Bool.true_or]

theorem withSeq_own (listed : (s.seqOf (entrySeq b)).state ≠ .free) (own : (s.seqOf (entrySeq b)).qp = q)
    (noFork : s.req.forks.all (fun f => decide (f.child ≠ entrySeq b) && decide (f.parent ≠ entrySeq b)) = true) :
    withSeq q b run s = run (entrySeq b) (s.seqOf (entrySeq b)) s := by
  have child : s.req.forks.any (fun f => decide (f.child = entrySeq b)) = false := by
    refine List.any_eq_false.2 fun f here => ?_
    have both := List.all_eq_true.1 noFork f here
    rw [Bool.and_eq_true] at both
    rw [decide_eq_true_eq]
    exact of_decide_eq_true both.1
  refine if_neg ?_
  rw [decide_eq_false listed, decide_eq_false (not_not_intro own), child]
  decide

theorem forkFrom_none {n : Nat} (noFork : s.req.forks.all (fun f => decide (f.child ≠ n) && decide (f.parent ≠ n)) = true) :
    s.forkFrom n = false := by
  refine List.any_eq_false.2 fun f here => ?_
  have both := List.all_eq_true.1 noFork f here
  rw [Bool.and_eq_true] at both
  rw [decide_eq_true_eq]
  exact of_decide_eq_true both.2

end WithSeq

/-- The opcode of an entry. -/
theorem entryBytes_opcode (op : Nat) (b : List Nat) : nth 0 (entryBytes op b) 0 = op % 256 := rfl

section RunEntry
variable (q : Nat) (b : List Nat) (s : State)

theorem runEntry_open : runEntry q (entryBytes 1 b) s = serve q (entryBytes 1 b) false [(1, 3), (12, 4), (17, 1), (20, 44)] true
    (openBody q (entryBytes 1 b)) s := rfl

theorem runEntry_append : runEntry q (entryBytes 2 b) s = serve q (entryBytes 2 b) false [(1, 3), (12, 4), (20, 4)] true
    (appendBody q (entryBytes 2 b)) s := rfl

theorem runEntry_generate : runEntry q (entryBytes 3 b) s = serve q (entryBytes 3 b) false
    [(1, 3), (12, 4), (37, 3), (48, 16)] true (generateBody q (entryBytes 3 b)) s := rfl

theorem runEntry_fork : runEntry q (entryBytes 4 b) s = serve q (entryBytes 4 b) false [(1, 3), (12, 52)] true
    (forkBody q (entryBytes 4 b)) s := rfl

theorem runEntry_close : runEntry q (entryBytes 5 b) s = serve q (entryBytes 5 b) true [(2, 2), (12, 52)]
    (decide (nth 0 (entryBytes 5 b) 1 < 2)) (closeBody q (entryBytes 5 b)) s := rfl

end RunEntry

/-! ## Work starts (R221, R232) -/

/-- Two changes of one sequence are one, where the first leaves it listed. -/
theorem setSeq_setSeq {n : Nat} {f g : Seq → Seq} {s : State} (listed : f (s.seqOf n) ≠ seq0) :
    setSeq n g (setSeq n f s) = setSeq n (fun x => g (f x)) s :=
  congrArg (fun seqs => { s with req := { s.req with seqs := seqs } }) (mapMod_mapMod g listed)

section Queue
variable {q n : Nat} {w : Work} {s : State} (idle : (s.seqOf n).state = .idle)
include idle

theorem ne_seq0_of_idle : s.seqOf n ≠ seq0 := fun default => by
  rw [default] at idle
  cases idle

/-- A sequence that is idle and not copied from starts the work that can start. -/
theorem advance_idle (still : s.forkFrom n = false) : advance n s = startWork n (s.seqOf n).work s := by
  refine if_pos ?_
  rw [decide_eq_true idle, still]
  rfl

/-- Work that an entry names joins the queue of its sequence, and what can start does. -/
theorem queueWork_joins {b : List Nat} {bad : Nat} {long : Seq → State → Bool} (named : entrySeq b = n)
    (own : (s.seqOf n).qp = q)
    (noFork : s.req.forks.all (fun f => decide (f.child ≠ n) && decide (f.parent ≠ n)) = true)
    (room : (s.seqOf n).workUsed < 4) (fine : bad = 0) (fits : long (s.seqOf n) s = false) :
    queueWork q b bad w long s
      = startWork n ((s.seqOf n).work ++ [w]) (setSeq n (fun x => { x with work := x.work ++ [w] }) s) := by
  subst named
  have listed : (s.seqOf (entrySeq b)).state ≠ .free := by rw [idle]; decide
  have notDamaged : (s.seqOf (entrySeq b)).state ≠ .damaged := by rw [idle]; decide
  have joined : (setSeq (entrySeq b) (fun x => { x with work := x.work ++ [w] }) s).seqOf (entrySeq b)
      = { s.seqOf (entrySeq b) with work := (s.seqOf (entrySeq b)).work ++ [w] } := setSeq_seqOf_same ..
  have still : (setSeq (entrySeq b) (fun x => { x with work := x.work ++ [w] }) s).forkFrom (entrySeq b) = false :=
    forkFrom_none (s := s) noFork
  rw [queueWork, withSeq_own listed own noFork, if_neg notDamaged, if_neg (not_not_intro idle), if_neg (Nat.not_le.2 room),
    if_neg (not_not_intro fine), if_neg (Bool.eq_false_iff.1 fits), advance_idle (by rw [joined]; exact idle) still, joined]

end Queue

section StartWork
variable {n tag : Nat} {s : State}

theorem startWork_append_waits {l : List (Option Nat)} {a : Nat} (t : List Work) (busy : (s.seqOf n).gen.isSome = true) :
    startWork n (.append tag l a :: t) s = setSeq n (fun x => { x with work := .append tag l a :: t }) s := by
  rw [startWork]
  exact if_pos busy

/-- The sequence in which an APPEND has started. -/
def appended (tag a : Nat) (l : List (Option Nat)) (x : Seq) : Seq :=
  { x.addTokens l with appends := x.appends ++ [{ tag := tag, left := x.known.length + l.length - 1, buffer := a }] }

theorem startWork_append_starts {l : List (Option Nat)} {a : Nat} (t : List Work) (free : (s.seqOf n).gen = none)
    (fits : (s.seqOf n).len + (s.seqOf n).known.length + l.length - 1 ≤ s.maxLen (s.seqOf n).poolSet) :
    startWork n (.append tag l a :: t) s = startWork n t (completeAppends n
      (appended tag a l (s.seqOf n)).appends
      (setSeq n (fun x => { x.addTokens l with appends := x.appends ++ [
        { tag := tag, left := (s.seqOf n).known.length + l.length - 1, buffer := a }] }) s)) := by
  have none_ : ¬ (s.seqOf n).gen.isSome = true := by rw [free]; decide
  rw [startWork]
  simp only [if_neg none_, if_neg (Nat.not_lt.2 fits), setSeq_seqOf_same, appended]

theorem startWork_generate_starts {p : GenParams} (t : List Work) (free : (s.seqOf n).gen = none)
    (pending : (s.seqOf n).pending.isSome = true) (done : (s.seqOf n).unprocessed = [])
    (fits : (s.seqOf n).len + 1 ≤ s.maxLen (s.seqOf n).poolSet) :
    startWork n (.generate tag p :: t) s = setSeq n (fun x => { x with
      work := t, gen := some { tag := tag, p := p, remaining := p.n, proposals := [], first := true } }) s := by
  have ready : ((s.seqOf n).gen.isSome || (s.seqOf n).pending.isNone || !(s.seqOf n).unprocessed.isEmpty) = false := by
    rw [free, done, ← Option.not_isSome, pending]
    rfl
  rw [startWork]
  simp only [ready, Bool.false_eq_true, if_false, if_neg (Nat.not_lt.2 fits)]

end StartWork

/-- A sequence without tags has no work. -/
theorem no_work_of_tags {x : Seq} (none_ : x.tags = []) : x.appends = [] ∧ x.gen = none ∧ x.work = [] := by
  rw [Seq.tags, List.append_eq_nil_iff, List.append_eq_nil_iff] at none_
  obtain ⟨⟨appends, gen⟩, work⟩ := none_
  refine ⟨List.map_eq_nil_iff.1 appends, ?_, List.map_eq_nil_iff.1 work⟩
  cases running : x.gen with
  | none => rfl
  | some g =>
    rw [running] at gen
    exact absurd gen (List.cons_ne_nil _ _)

end Sys2Proof.Proofs
end


section
/-! The obligation on OPEN, APPEND and GENERATE (R221, R223, R232, R235). -/
namespace Sys2Proof.Proofs
set_option Elab.async false
open Sys2Proof.Machine Sys2Proof.Laws

/-! ## What each entry runs -/

section Bodies
variable {q : Nat} {b : List Nat} {s : State}

theorem openBody_waits (set : leAt b 16 1 = 0xFF ∨ leAt b 16 1 ∈ s.serviceSets) : openBody q b s =
    { s with req := { s.req with opens := s.req.opens ++ [
      { tag := entryTag b, qp := q, poolSet := leAt b 16 1, wait := leAt b 18 2, frame := s.frm.count }] } } := by
  refine if_neg ?_
  rcases set with any | used
  · rw [decide_eq_false (not_not_intro any), Bool.false_and]
    decide
  · rw [List.contains_iff_mem.2 used, Bool.not_true, Bool.and_false]
    decide

theorem appendBody_fine (some_ : 1 ≤ leAt b 16 4) (most : leAt b 16 4 ≤ 65535) (aligned : 8 < leAt b 16 4 → leAt b 24 8 % 4 = 0) :
    appendBody q b s = queueWork q b 0 (.append (entryTag b) (appendTokens b) (leAt b 24 8)) (appendTooLong (leAt b 16 4)) s := by
  have fine : (decide (leAt b 16 4 = 0) || decide (65535 < leAt b 16 4)
      || (decide (8 < leAt b 16 4) && decide (leAt b 24 8 % 4 ≠ 0))) = false := by
    rw [decide_eq_false (Nat.ne_of_gt some_), decide_eq_false (Nat.not_lt.2 most)]
    by_cases long : 8 < leAt b 16 4
    · rw [decide_eq_false (not_not_intro (aligned long)), Bool.and_false]
      rfl
    · rw [decide_eq_false long]
      rfl
  unfold appendBody
  simp only [fine, Bool.false_eq_true, if_false, if_true]

theorem generateBody_fine (ok : s.genOk (parseGen b) = true) :
    generateBody q b s = queueWork q b 0 (.generate (entryTag b) (parseGen b)) (fun _ _ => false) s := by
  rw [generateBody]
  simp only [ok, if_true]

end Bodies

theorem accept_runs {q : Nat} {e : List Nat} {s t : State} (reads : s.canFetch q = true)
    (apart : (s.qpOf q).parked.any (sameSeq e) = false) (run : runEntry q e (passHead q s) = t)
    (silent : t.req.qp = (passHead q s).req.qp) : accept q e s = t := by
  have pair : t.qpOf q = (passHead q s).qpOf q := by
    rw [State.qpOf, silent]
    rfl
  rw [accept_silent reads apart (by rw [run, pair, passHead_held]), run]

/-! ## APPEND -/

section Append
variable {s : State} {q : Nat} {b : List Nat} (reads : s.canFetch q = true)
  (apart : (s.qpOf q).parked.any (sameSeq (entryBytes 2 b)) = false) (reason : s.stateReason false = 0)
  (zero : allZero (entryBytes 2 b) [(1, 3), (12, 4), (20, 4)] = true)
  (idle : (s.seqOf (entrySeq (entryBytes 2 b))).state = .idle) (own : (s.seqOf (entrySeq (entryBytes 2 b))).qp = q)
  (noFork : s.req.forks.all (fun f => decide (f.child ≠ entrySeq (entryBytes 2 b))
    && decide (f.parent ≠ entrySeq (entryBytes 2 b))) = true)
  (some_ : 1 ≤ leAt (entryBytes 2 b) 16 4) (most : leAt (entryBytes 2 b) 16 4 ≤ 65535)
  (aligned : 8 < leAt (entryBytes 2 b) 16 4 → leAt (entryBytes 2 b) 24 8 % 4 = 0)
  (room : (s.seqOf (entrySeq (entryBytes 2 b))).workUsed < 4)
  (fits : appendTooLong (leAt (entryBytes 2 b) 16 4) (s.seqOf (entrySeq (entryBytes 2 b))) s = false)
  (none_ : (s.seqOf (entrySeq (entryBytes 2 b))).work = [])
include reason zero idle own noFork some_ most aligned room fits none_

theorem runAppend : runEntry q (entryBytes 2 b) (passHead q s) = startWork (entrySeq (entryBytes 2 b))
    [.append (entryTag (entryBytes 2 b)) (appendTokens (entryBytes 2 b)) (leAt (entryBytes 2 b) 24 8)]
    (setSeq (entrySeq (entryBytes 2 b)) (fun x => { x with work := x.work ++ [
      .append (entryTag (entryBytes 2 b)) (appendTokens (entryBytes 2 b)) (leAt (entryBytes 2 b) 24 8)] }) (passHead q s)) := by
  rw [runEntry_append, serve_runs (s := passHead q s) reason rfl zero, appendBody_fine some_ most aligned,
    queueWork_joins (s := passHead q s) idle rfl own noFork room rfl fits, passHead_seqOf, none_, List.nil_append]

include reads apart

/-- Behind a GENERATE the APPEND waits in the work queue. -/
theorem append_waits (busy : (s.seqOf (entrySeq (entryBytes 2 b))).gen.isSome = true) :
    accept q (entryBytes 2 b) s = setSeq (entrySeq (entryBytes 2 b)) (fun x => { x with work := [
      .append (entryTag (entryBytes 2 b)) (appendTokens (entryBytes 2 b)) (leAt (entryBytes 2 b) 24 8)] }) (passHead q s) := by
  have listed : ({ s.seqOf (entrySeq (entryBytes 2 b)) with work := (s.seqOf (entrySeq (entryBytes 2 b))).work ++ [
      .append (entryTag (entryBytes 2 b)) (appendTokens (entryBytes 2 b)) (leAt (entryBytes 2 b) 24 8)] } : Seq) ≠ seq0 := by
    intro default
    have state := congrArg Seq.state default
    exact absurd (idle.symm.trans state) (by decide)
  have run := runAppend reason zero idle own noFork some_ most aligned room fits none_
  rw [startWork_append_waits _ (by rw [setSeq_seqOf_same]; exact busy)] at run
  exact accept_runs reads apart (run.trans (setSeq_setSeq (s := passHead q s) listed)) rfl

end Append

/-- A sequence without tokens whose first are known. -/
theorem addTokens_first {x : Seq} (t : Nat) (u : List (Option Nat)) (none_ : x.pending = none) (empty : x.unprocessed = []) :
    (x.addTokens (some t :: u)).pending = some t ∧ (x.addTokens (some t :: u)).unprocessed = u ∧
    (x.addTokens (some t :: u)).gen = x.gen ∧ (x.addTokens (some t :: u)).len = x.len := by
  have known : x.known = [] := by
    rw [Seq.known, none_, empty]
    rfl
  have absent : ¬ x.pending.isSome = true := by rw [none_]; decide
  rw [Seq.addTokens, known, List.nil_append, Seq.withKnown]
  simp only [if_neg absent, Seq.remember, and_self]

theorem setSeq_req_qp (n : Nat) (f : Seq → Seq) (s : State) : (setSeq n f s).req.qp = s.req.qp := rfl

theorem setSeq_hostMem (n : Nat) (f : Seq → Seq) (s : State) : (setSeq n f s).hostMem = s.hostMem := rfl

theorem setSeq_mem (n : Nat) (f : Seq → Seq) (s : State) : (setSeq n f s).mem = s.mem := rfl

/-- A sequence takes an APPEND's tokens. -/
def takesTokens (tag a left : Nat) (l : List (Option Nat)) (x : Seq) : Seq :=
  { x.addTokens l with appends := x.appends ++ [{ tag := tag, left := left, buffer := a }] }

section Starts
variable {n tag a t : Nat} {u : List (Option Nat)} {s : State} (free : (s.seqOf n).gen = none)
    (none_ : (s.seqOf n).pending = none) (empty : (s.seqOf n).unprocessed = [])
include free none_ empty

theorem startWork_first_append (alone : (s.seqOf n).appends = []) (more : u ≠ []) (fits : (s.seqOf n).len + u.length ≤ s.maxLen (s.seqOf n).poolSet) :
    startWork n [.append tag (some t :: u) a] s = setSeq n (fun x => { x with work := [] })
      (setSeq n (fun x => { x with appends := [{ tag := tag, left := u.length, buffer := a }] })
        (setSeq n (takesTokens tag a u.length (some t :: u)) s)) := by
  have known : (s.seqOf n).known = [] := by
    rw [Seq.known, none_, empty]
    rfl
  have length : (s.seqOf n).len + (s.seqOf n).known.length + (some t :: u).length - 1 = (s.seqOf n).len + u.length := by
    rw [known, List.length_nil, List.length_cons]
    omega
  have left : (s.seqOf n).known.length + (some t :: u).length - 1 = u.length := by
    rw [known, List.length_nil, List.length_cons]
    omega
  have unfinished : ¬ u.length = 0 := fun nil => more (List.length_eq_zero_iff.1 nil)
  rw [startWork_append_starts [] free (by rw [length]; exact fits), appended, alone, left, List.nil_append, completeAppends,
    if_neg unfinished, startWork]
  rfl

/-- What a sequence that had no tokens is then. -/
theorem seqOf_first_append {z : State} (starts : z = setSeq n (fun x => { x with work := [] })
      (setSeq n (fun x => { x with appends := [{ tag := tag, left := u.length, buffer := a }] })
        (setSeq n (takesTokens tag a u.length (some t :: u)) s))) :
    (z.seqOf n).pending = some t ∧ (z.seqOf n).unprocessed = u ∧ (z.seqOf n).tags = [tag] ∧
    (z.seqOf n).len = (s.seqOf n).len := by
  obtain ⟨pending, unprocessed, gen, len⟩ := addTokens_first t u none_ empty
  have seq : z.seqOf n = { takesTokens tag a u.length (some t :: u) (s.seqOf n) with
      appends := [{ tag := tag, left := u.length, buffer := a }], work := [] } := by
    rw [starts, setSeq_seqOf_same, setSeq_seqOf_same, setSeq_seqOf_same]
  have noGen : (takesTokens tag a u.length (some t :: u) (s.seqOf n)).gen = none := gen.trans free
  rw [seq]
  refine ⟨pending, unprocessed, ?_, len⟩
  rw [Seq.tags, noGen]
  rfl

/-- The same of an APPEND that has just joined the queue. -/
theorem queued_append_starts (alone : (s.seqOf n).appends = []) (more : u ≠ [])
    (fits : (s.seqOf n).len + u.length ≤ s.maxLen (s.seqOf n).poolSet) : ∃ z,
    startWork n [.append tag (some t :: u) a]
      (setSeq n (fun x => { x with work := x.work ++ [.append tag (some t :: u) a] }) s) = z ∧
    (z.seqOf n).pending = some t ∧ (z.seqOf n).unprocessed = u ∧ (z.seqOf n).tags = [tag] ∧
    (z.seqOf n).len = (s.seqOf n).len ∧ z.req.qp = s.req.qp ∧ z.hostMem = s.hostMem ∧ z.mem = s.mem := by
  have joined := setSeq_seqOf_same n (fun x => { x with work := x.work ++ [.append tag (some t :: u) a] }) s
  have qp : (setSeq n (fun x => { x with work := x.work ++ [.append tag (some t :: u) a] }) s).req.qp = s.req.qp := rfl
  have host : (setSeq n (fun x => { x with work := x.work ++ [.append tag (some t :: u) a] }) s).hostMem = s.hostMem := rfl
  have mem : (setSeq n (fun x => { x with work := x.work ++ [.append tag (some t :: u) a] }) s).mem = s.mem := rfl
  have most : (setSeq n (fun x => { x with work := x.work ++ [.append tag (some t :: u) a] }) s).maxLen = s.maxLen := rfl
  generalize setSeq n (fun x => { x with work := x.work ++ [.append tag (some t :: u) a] }) s = y
    at joined qp host mem most ⊢
  have free' : (y.seqOf n).gen = none := by rw [joined]; exact free
  have none' : (y.seqOf n).pending = none := by rw [joined]; exact none_
  have empty' : (y.seqOf n).unprocessed = [] := by rw [joined]; exact empty
  have starts := startWork_first_append (tag := tag) (a := a) (t := t) free' none' empty' (by rw [joined]; exact alone) more
    (by rw [joined, most]; exact fits)
  obtain ⟨pending, unprocessed, tags, len⟩ := seqOf_first_append free' none' empty' rfl
  refine ⟨_, starts, pending, unprocessed, tags, len.trans ?_, ?_, ?_, ?_⟩
  · rw [joined]
  · rw [setSeq_req_qp, setSeq_req_qp, setSeq_req_qp, qp]
  · rw [setSeq_hostMem, setSeq_hostMem, setSeq_hostMem, host]
  · rw [setSeq_mem, setSeq_mem, setSeq_mem, mem]

end Starts

/-- The tokens of an APPEND of 2 to 8, whose first is there. -/
theorem appendTokens_inline {b : List Nat} (least : 2 ≤ leAt b 16 4) (most : leAt b 16 4 ≤ 8) : ∃ u, u ≠ [] ∧
    u.length + 1 = leAt b 16 4 ∧ appendTokens b = some (leAt b 32 4) :: u ∧
    ((List.range (leAt b 16 4)).map (fun i => some (leAt b (32 + 4 * i) 4))).tail = u := by
  obtain ⟨k, eq⟩ : ∃ k, leAt b 16 4 = k + 1 := ⟨leAt b 16 4 - 1, by omega⟩
  have inline : appendTokens b = (List.range (leAt b 16 4)).map (fun i => some (leAt b (32 + 4 * i) 4)) := if_pos most
  rw [inline, eq, List.range_succ_eq_map, List.map_cons]
  refine ⟨_, ?_, ?_, rfl, rfl⟩
  · intro nil
    have none_ := congrArg List.length nil
    rw [List.length_map, List.length_map, List.length_range, List.length_nil] at none_
    omega
  · rw [List.length_map, List.length_map, List.length_range]

theorem appendTokens_short {b : List Nat} (most : leAt b 16 4 ≤ 8) :
    appendTokens b = (List.range (leAt b 16 4)).map (fun i => some (leAt b (32 + 4 * i) 4)) := if_pos most

theorem appendTokens_long {b : List Nat} (long : 8 < leAt b 16 4) : appendTokens b = List.replicate (leAt b 16 4) none :=
  if_neg (Nat.not_le.2 long)

/-- APPEND to a sequence without work or tokens. -/
theorem append_starts {s : State} {q : Nat} {b : List Nat} (reads : s.canFetch q = true)
    (apart : (s.qpOf q).parked.any (sameSeq (entryBytes 2 b)) = false) (reason : s.stateReason false = 0)
    (zero : allZero (entryBytes 2 b) [(1, 3), (12, 4), (20, 4)] = true)
    (idle : (s.seqOf (entrySeq (entryBytes 2 b))).state = .idle) (own : (s.seqOf (entrySeq (entryBytes 2 b))).qp = q)
    (noFork : s.req.forks.all (fun f => decide (f.child ≠ entrySeq (entryBytes 2 b))
      && decide (f.parent ≠ entrySeq (entryBytes 2 b))) = true)
    (least : 2 ≤ leAt (entryBytes 2 b) 16 4) (most : leAt (entryBytes 2 b) 16 4 ≤ 8)
    (fits : appendTooLong (leAt (entryBytes 2 b) 16 4) (s.seqOf (entrySeq (entryBytes 2 b))) s = false)
    (noWork : (s.seqOf (entrySeq (entryBytes 2 b))).tags = [])
    (none_ : (s.seqOf (entrySeq (entryBytes 2 b))).pending = none)
    (empty : (s.seqOf (entrySeq (entryBytes 2 b))).unprocessed = []) : ∃ t, accept q (entryBytes 2 b) s = t ∧
    (t.seqOf (entrySeq (entryBytes 2 b))).pending = some (leAt (entryBytes 2 b) 32 4) ∧
    (t.seqOf (entrySeq (entryBytes 2 b))).unprocessed
      = ((List.range (leAt (entryBytes 2 b) 16 4)).map (fun i => some (leAt (entryBytes 2 b) (32 + 4 * i) 4))).tail ∧
    (t.seqOf (entrySeq (entryBytes 2 b))).tags = [entryTag (entryBytes 2 b)] ∧
    (t.seqOf (entrySeq (entryBytes 2 b))).len = (s.seqOf (entrySeq (entryBytes 2 b))).len ∧
    t.req.qp = (passHead q s).req.qp ∧ t.hostMem = s.hostMem ∧ t.mem = s.mem := by
  obtain ⟨alone, free, work⟩ := no_work_of_tags noWork
  obtain ⟨u, more, length, tokens, tail⟩ := appendTokens_inline least most
  have room : (s.seqOf (entrySeq (entryBytes 2 b))).workUsed < 4 := by rw [Seq.workUsed, noWork]; decide
  have run := runAppend reason zero idle own noFork (Nat.le_of_succ_le least) (Nat.le_trans most (by decide))
    (fun long => absurd long (Nat.not_lt.2 most)) room fits work
  have queued : (s.seqOf (entrySeq (entryBytes 2 b))).queuedTokens = 0 := by rw [Seq.queuedTokens, work]; rfl
  have space : (s.seqOf (entrySeq (entryBytes 2 b))).len + u.length
      ≤ s.maxLen (s.seqOf (entrySeq (entryBytes 2 b))).poolSet := by
    rw [appendTooLong, decide_eq_false_iff_not, empty, queued, List.length_nil] at fits
    omega
  rw [tokens] at run
  obtain ⟨z, starts, pending, unprocessed, tags, len, qp, host, mem⟩ := queued_append_starts
    (tag := entryTag (entryBytes 2 b)) (a := leAt (entryBytes 2 b) 24 8) (t := leAt (entryBytes 2 b) 32 4)
    (s := passHead q s) free none_ empty alone more space
  exact ⟨z, accept_runs reads apart (run.trans starts) qp, pending, unprocessed.trans tail.symm, tags, len, qp, host, mem⟩

/-! ## GENERATE -/

/-- GENERATE for a sequence whose tokens are all processed but the pending one. -/
theorem generate_starts {s : State} {q : Nat} {b : List Nat} (reads : s.canFetch q = true)
    (apart : (s.qpOf q).parked.any (sameSeq (entryBytes 3 b)) = false) (reason : s.stateReason false = 0)
    (zero : allZero (entryBytes 3 b) [(1, 3), (12, 4), (37, 3), (48, 16)] = true)
    (idle : (s.seqOf (entrySeq (entryBytes 3 b))).state = .idle) (own : (s.seqOf (entrySeq (entryBytes 3 b))).qp = q)
    (noFork : s.req.forks.all (fun f => decide (f.child ≠ entrySeq (entryBytes 3 b))
      && decide (f.parent ≠ entrySeq (entryBytes 3 b))) = true)
    (ok : s.genOk (parseGen (entryBytes 3 b)) = true)
    (noWork : (s.seqOf (entrySeq (entryBytes 3 b))).tags = [])
    (pending : (s.seqOf (entrySeq (entryBytes 3 b))).pending.isSome = true)
    (empty : (s.seqOf (entrySeq (entryBytes 3 b))).unprocessed = [])
    (space : (s.seqOf (entrySeq (entryBytes 3 b))).len + 1 ≤ s.maxLen (s.seqOf (entrySeq (entryBytes 3 b))).poolSet) : ∃ t,
    accept q (entryBytes 3 b) s = t ∧
    t.seqOf (entrySeq (entryBytes 3 b)) = { s.seqOf (entrySeq (entryBytes 3 b)) with gen := some {
      tag := entryTag (entryBytes 3 b), p := parseGen (entryBytes 3 b), remaining := leAt (entryBytes 3 b) 16 4
      proposals := [], first := true } } ∧
    (∀ n, n ≠ entrySeq (entryBytes 3 b) → t.seqOf n = s.seqOf n) ∧
    t = { passHead q s with req := { (passHead q s).req with seqs := t.req.seqs } } := by
  obtain ⟨_, free, work⟩ := no_work_of_tags noWork
  have room : (s.seqOf (entrySeq (entryBytes 3 b))).workUsed < 4 := by rw [Seq.workUsed, noWork]; decide
  have run : runEntry q (entryBytes 3 b) (passHead q s) = startWork (entrySeq (entryBytes 3 b))
      ([] ++ [.generate (entryTag (entryBytes 3 b)) (parseGen (entryBytes 3 b))])
      (setSeq (entrySeq (entryBytes 3 b)) (fun x => { x with work := x.work ++ [
        .generate (entryTag (entryBytes 3 b)) (parseGen (entryBytes 3 b))] }) (passHead q s)) := by
    rw [runEntry_generate, serve_runs (s := passHead q s) reason rfl zero, generateBody_fine (s := passHead q s) ok,
      queueWork_joins (s := passHead q s) idle rfl own noFork room rfl rfl, passHead_seqOf, work]
  have joined := setSeq_seqOf_same (entrySeq (entryBytes 3 b)) (fun x => { x with work := x.work ++ [
    .generate (entryTag (entryBytes 3 b)) (parseGen (entryBytes 3 b))] }) (passHead q s)
  rw [passHead_seqOf] at joined
  have starts := run.trans (startWork_generate_starts [] (by rw [joined]; exact free) (by rw [joined]; exact pending)
    (by rw [joined]; exact empty) (by rw [joined]; exact space))
  refine ⟨_, accept_runs reads apart starts rfl, ?_, fun n ne => ?_, rfl⟩
  · rw [setSeq_seqOf_same, joined, ← work]
    rfl
  · rw [setSeq_seqOf_other _ _ _ ne, setSeq_seqOf_other _ _ _ ne, passHead_seqOf]

/-! ## The obligation -/

/-- Settles O24: an accepted entry is served after the head has passed; `queueWork` puts the work of APPEND and GENERATE
in the queue of the sequence, and `startWork` starts it. -/
theorem entriesAreAccepted : Obligations.EntriesAreAccepted := by
  unfold Obligations.EntriesAreAccepted
  refine ⟨?open_, ?waits, ?buffer, ?starts, ?generate, ?state, ?reserved, ?unknown, ?none_⟩
  case open_ =>
    rintro s q b e pair rfl reads apart reason zero set
    refine (onUnit_runs pair).trans (congrArg Host.Outcome.next (accept_runs reads apart ?_ rfl))
    rw [runEntry_open, serve_runs (s := passHead q s) reason rfl zero]
    exact openBody_waits (s := passHead q s) set
  case waits =>
    rintro s q b e pair rfl reads apart reason zero idle own noFork some_ most room fits busy none_
    refine (onUnit_runs pair).trans (congrArg Host.Outcome.next ?_)
    rw [← appendTokens_short most]
    exact append_waits reads apart reason zero idle own noFork some_ (Nat.le_trans most (by decide))
      (fun long => absurd long (Nat.not_lt.2 most)) room fits none_ busy
  case buffer =>
    rintro s q b e pair rfl reads apart reason zero idle own noFork long most aligned room fits busy none_
    refine (onUnit_runs pair).trans (congrArg Host.Outcome.next ?_)
    rw [← appendTokens_long long]
    exact append_waits reads apart reason zero idle own noFork (by omega) most (fun _ => aligned) room fits none_ busy
  case starts =>
    rintro s q b e pair rfl reads apart reason zero idle own noFork least most fits noWork none_ empty
    obtain ⟨t, accepted, effect⟩ := append_starts reads apart reason zero idle own noFork least most fits noWork none_ empty
    exact ⟨t, (onUnit_runs pair).trans (congrArg Host.Outcome.next accepted), effect⟩
  case generate =>
    rintro s q b e pair rfl reads apart reason zero idle own noFork ok noWork pending empty space
    obtain ⟨t, accepted, effect⟩ := generate_starts reads apart reason zero idle own noFork ok noWork pending empty space
    exact ⟨t, (onUnit_runs pair).trans (congrArg Host.Outcome.next accepted), effect⟩
  case state =>
    rintro s q b e pair rfl reads apart room reason
    refine (onUnit_runs pair).trans (congrArg Host.Outcome.next ((accept_served reads apart room).trans ?_))
    exact serve_in_other_state (s := passHead q s) reason
  case reserved =>
    rintro s q b e pair rfl reads apart room reason bad
    refine (onUnit_runs pair).trans (congrArg Host.Outcome.next ((accept_served reads apart room).trans ?_))
    exact serve_invalid (s := passHead q s) reason (Or.inr bad)
  case unknown =>
    rintro s q b e pair rfl reads apart reason zero room bad
    refine (onUnit_runs pair).trans (congrArg Host.Outcome.next ((accept_served reads apart room).trans ?_))
    rw [runEntry_fork, serve_runs (s := passHead q s) reason rfl zero]
    exact withSeq_unknown (s := passHead q s) bad
  case none_ =>
    rintro s q b e pair rfl reads
    exact (onUnit_runs pair).trans (congrArg Host.Outcome.next (accept_none reads))

end Sys2Proof.Proofs
end


section
/-! FORK, FORK_COPY_DONE, CLOSE and QUERY (R218, R219, R237). -/
namespace Sys2Proof.Proofs
set_option Elab.async false
open Sys2Proof.Machine Sys2Proof.Laws

/-! ## A sequence that is freed -/

theorem dropGroups_req (l : List Nat) (s : State) :
    ∃ groups, (l.foldl (fun s k => dropGroup k s) s).req = { s.req with usedGroups := groups } := by
  induction l generalizing s with
  | nil => exact ⟨s.req.usedGroups, rfl⟩
  | cons k l ih =>
    obtain ⟨groups, eq⟩ := ih (dropGroup k s)
    refine ⟨groups, ?_⟩
    rw [List.foldl_cons, eq]
    rfl

theorem settleBusy_req (q : Nat) (s : State) : ∃ qp, (settleBusy q s).req = { s.req with qp := qp } := by
  unfold settleBusy
  split
  · exact ⟨s.req.qp, rfl⟩
  · exact ⟨_, rfl⟩

/-- What freeing a context leaves of the request engine. -/
theorem freeSeq_req (n : Nat) (s : State) : ∃ groups qp, (freeSeq n s).req = { s.req with
    usedGroups := groups, qp := qp, seqs := mapDel s.req.seqs n
    rings := mapMod [] s.req.rings (s.seqOf n).poolSet (fun l => l.filter (fun m => decide (m ≠ n))) } := by
  rw [freeSeq]
  obtain ⟨groups, dropped⟩ := dropGroups_req ((s.seqKeys (s.seqOf n)).filter (fun k => !s.keyFenced (s.seqOf n) k)) s
  generalize ((s.seqKeys (s.seqOf n)).filter (fun k => !s.keyFenced (s.seqOf n) k)).foldl (fun s k => dropGroup k s) s = z
    at dropped
  obtain ⟨qp, settled⟩ := settleBusy_req (s.seqOf n).qp { z with req := { z.req with
    seqs := mapDel z.req.seqs n
    rings := mapMod [] z.req.rings (s.seqOf n).poolSet (fun l => l.filter (fun m => decide (m ≠ n))) } }
  refine ⟨groups, qp, settled.trans ?_⟩
  rw [dropped]

section FreeSeq
variable (n : Nat) (s : State)

theorem freeSeq_seqOf_same : (freeSeq n s).seqOf n = seq0 := by
  obtain ⟨_, _, eq⟩ := freeSeq_req n s
  rw [State.seqOf, eq]
  exact mapGet_mapDel_same ..

theorem freeSeq_seqOf_other {m : Nat} (ne : m ≠ n) : (freeSeq n s).seqOf m = s.seqOf m := by
  obtain ⟨_, _, eq⟩ := freeSeq_req n s
  rw [State.seqOf, eq]
  exact mapGet_mapDel_other _ _ ne

theorem freeSeq_forks : (freeSeq n s).req.forks = s.req.forks := by
  obtain ⟨_, _, eq⟩ := freeSeq_req n s
  rw [eq]

theorem not_mem_ring_freeSeq : n ∉ mapGet [] (freeSeq n s).req.rings (s.seqOf n).poolSet := by
  obtain ⟨_, _, eq⟩ := freeSeq_req n s
  rw [eq]
  have ring := mapGet_mapMod_same [] s.req.rings (s.seqOf n).poolSet (fun l => l.filter (fun m => decide (m ≠ n)))
  intro here
  rw [ring, List.mem_filter] at here
  exact of_decide_eq_true here.2 rfl

end FreeSeq

/-! ## The work of a sequence ends -/

/-- Of the request engine only queue pairs and sequences differ. -/
def OnlySeqs (s t : State) : Prop := ∃ qp seqs, t.req = { s.req with qp := qp, seqs := seqs }

theorem OnlySeqs.trans {s t u : State} (first : OnlySeqs s t) (second : OnlySeqs t u) : OnlySeqs s u := by
  obtain ⟨_, _, left⟩ := first
  obtain ⟨qp, seqs, right⟩ := second
  exact ⟨qp, seqs, by rw [right, left]⟩

theorem OnlySeqs.forks {s t : State} (only : OnlySeqs s t) : t.req.forks = s.req.forks := by
  obtain ⟨_, _, eq⟩ := only
  rw [eq]

theorem OnlyPair.onlySeqs {q : Nat} {s t : State} (only : OnlyPair q s t) : OnlySeqs s t := by
  obtain ⟨⟨qp, eq⟩, _⟩ := only
  exact ⟨qp, s.req.seqs, eq⟩

theorem onlySeqs_setSeq (n : Nat) (f : Seq → Seq) (s : State) : OnlySeqs s (setSeq n f s) := ⟨s.req.qp, _, rfl⟩

/-- Completions of one pair, one for each of a list. -/
theorem onlyPair_completions {α : Type} (q : Nat) (c : α → Cqe) (l : List α) (s : State) :
    OnlyPair q s (l.foldl (fun s t => complete q (c t) s) s) := by
  induction l generalizing s with
  | nil => exact OnlyPair.refl q s
  | cons t l ih => exact (onlyPair_complete q (c t) s).trans (ih _)

/-- A sequence whose work has ended; `x0` is the sequence before the completions. -/
def workEnded (x0 x : Seq) : Seq :=
  { x with
    work := [], appends := [], gen := none
    unprocessed := x.unprocessed.take (((x0.steps.filter (fun t => !t.decode)).map (fun t => t.n)).foldl max 0)
    steps := x.steps.map (fun t => { t with dead := true, gen := if t.dead then t.gen else x.gen }) }

theorem workEnded_poolSet (x0 x : Seq) : (workEnded x0 x).poolSet = x.poolSet := rfl

theorem workEnded_life (x0 x : Seq) : (workEnded x0 x).tags = [] ∧ (workEnded x0 x).state = x.state ∧
    (workEnded x0 x).len = x.len ∧ (workEnded x0 x).pages = x.pages := ⟨rfl, rfl, rfl, rfl⟩

section EndWork
variable (n reason status : Nat) (s : State)

theorem onlySeqs_endWork : OnlySeqs s (endWork n reason status s) :=
  (onlyPair_completions (s.seqOf n).qp (fun t => lastCqe t n reason status (s.seqOf n).len) (s.seqOf n).tags s).onlySeqs.trans
    (onlySeqs_setSeq n _ _)

theorem endWork_eq : endWork n reason status s = setSeq n (workEnded (s.seqOf n))
    ((s.seqOf n).tags.foldl (fun z t => complete (s.seqOf n).qp (lastCqe t n reason status (s.seqOf n).len) z) s) := rfl

theorem endWork_seqOf_same : (endWork n reason status s).seqOf n = workEnded (s.seqOf n) (s.seqOf n) := by
  have before := seqOf_congr (onlyPair_completions (s.seqOf n).qp (fun t => lastCqe t n reason status (s.seqOf n).len)
    (s.seqOf n).tags s).seqs n
  rw [endWork_eq, setSeq_seqOf_same, before]

theorem endWork_seqOf_other {m : Nat} (ne : m ≠ n) : (endWork n reason status s).seqOf m = s.seqOf m :=
  (setSeq_seqOf_other _ _ _ ne).trans (seqOf_congr (onlyPair_completions (s.seqOf n).qp
    (fun t => lastCqe t n reason status (s.seqOf n).len) (s.seqOf n).tags s).seqs m)

end EndWork

/-! ## A closing sequence becomes free (R237) -/

section FinishClose
variable {n : Nat} {s : State}

theorem finishClose_open (open_ : (s.seqOf n).state ≠ .closing) : finishClose n s = s := by
  refine if_neg ?_
  rw [decide_eq_false open_, Bool.false_and, Bool.false_and]
  decide

/-- A closing sequence is freed after the completions of what it had to complete. -/
theorem finishClose_ends
    (ends : (decide ((s.seqOf n).state = .closing) && (s.seqOf n).steps.isEmpty && !s.forkFrom n) = true) : ∃ z,
    finishClose n s = freeSeq n z ∧ OnlySeqs s z ∧ (z.seqOf n).poolSet = (s.seqOf n).poolSet ∧
    ∀ m, m ≠ n → z.seqOf m = s.seqOf m := by
  have pool : ((endWork n 0 0x07 s).seqOf n).poolSet = (s.seqOf n).poolSet := by
    rw [endWork_seqOf_same, workEnded_poolSet]
  have other := fun m ne => endWork_seqOf_other n 0 0x07 s (m := m) ne
  have only := onlySeqs_endWork n 0 0x07 s
  rw [finishClose, if_pos ends]
  split
  · exact ⟨s, rfl, ⟨_, _, rfl⟩, rfl, fun _ _ => rfl⟩
  · generalize endWork n 0 0x07 s = z at pool other only ⊢
    split
    · next t _ =>
      refine ⟨_, rfl, only.trans (onlyPair_complete _ _ _).onlySeqs, ?_, fun m ne => ?_⟩
      · rw [seqOf_complete, pool]
      · rw [seqOf_complete, other m ne]
    · exact ⟨z, rfl, only, pool, other⟩

theorem finishClose_frees (closing : (s.seqOf n).state = .closing) (none_ : (s.seqOf n).steps = [])
    (noFork : s.forkFrom n = false) : ∃ z, finishClose n s = freeSeq n z ∧ OnlySeqs s z ∧
    (z.seqOf n).poolSet = (s.seqOf n).poolSet ∧ ∀ m, m ≠ n → z.seqOf m = s.seqOf m := by
  refine finishClose_ends ?_
  rw [decide_eq_true closing, none_, noFork]
  rfl

end FinishClose

end Sys2Proof.Proofs
end


section
/-! The obligation on FORK, FORK_COPY_DONE, CLOSE and QUERY (R218, R219, R237). -/
namespace Sys2Proof.Proofs
set_option Elab.async false
open Sys2Proof.Machine Sys2Proof.Laws

/-! ## What advancing a sequence keeps of every sequence -/

/-- The forks, and of every sequence the state and the committed length, are the same. -/
def SameLife (s t : State) : Prop :=
  t.req.forks = s.req.forks ∧ ∀ m, (t.seqOf m).state = (s.seqOf m).state ∧ (t.seqOf m).len = (s.seqOf m).len

theorem SameLife.refl (s : State) : SameLife s s := ⟨rfl, fun _ => ⟨rfl, rfl⟩⟩

theorem SameLife.trans {s t u : State} (first : SameLife s t) (second : SameLife t u) : SameLife s u :=
  ⟨second.1.trans first.1, fun m => ⟨(second.2 m).1.trans (first.2 m).1, (second.2 m).2.trans (first.2 m).2⟩⟩

theorem sameLife_complete (q : Nat) (c : Cqe) (s : State) : SameLife s (complete q c s) :=
  ⟨(onlyPair_complete q c s).forks, fun m => by rw [seqOf_complete]; exact ⟨rfl, rfl⟩⟩

/-- A change of a sequence that keeps its state and length. -/
theorem sameLife_setSeq {n : Nat} {f : Seq → Seq} {s : State} (state : (f (s.seqOf n)).state = (s.seqOf n).state)
    (len : (f (s.seqOf n)).len = (s.seqOf n).len) : SameLife s (setSeq n f s) := by
  refine ⟨rfl, fun m => ?_⟩
  by_cases here : m = n
  · rw [here, setSeq_seqOf_same]
    exact ⟨state, len⟩
  · rw [setSeq_seqOf_other _ _ _ here]
    exact ⟨rfl, rfl⟩

theorem sameLife_completeAppends (n : Nat) (l : List AppendRun) (s : State) : SameLife s (completeAppends n l s) := by
  induction l generalizing s with
  | nil => exact sameLife_setSeq rfl rfl
  | cons a l ih =>
    rw [completeAppends]
    split
    · exact (sameLife_complete _ _ s).trans (ih _)
    · exact sameLife_setSeq rfl rfl

theorem state_withKnown (x : Seq) (l : List (Option Nat)) : (x.withKnown l).state = x.state := by
  unfold Seq.withKnown
  split
  · by_cases some_ : x.pending.isSome = true
    · simp only [some_, if_true]
    · simp only [some_, Bool.false_eq_true, if_false, Seq.remember]
  · rfl

theorem sameLife_startWork (n : Nat) (l : List Work) (s : State) : SameLife s (startWork n l s) := by
  induction l generalizing s with
  | nil => exact sameLife_setSeq rfl rfl
  | cons w l ih =>
    cases w with
    | append tag tokens a =>
      rw [startWork]
      split
      · exact sameLife_setSeq rfl rfl
      · split
        · exact (sameLife_complete _ _ s).trans (ih _)
        · exact (sameLife_setSeq (state_withKnown _ _) (len_withKnown _ _)).trans
            ((sameLife_completeAppends n _ _).trans (ih _))
    | generate tag p =>
      rw [startWork]
      split
      · exact sameLife_setSeq rfl rfl
      · split
        · exact (sameLife_complete _ _ s).trans (ih _)
        · exact sameLife_setSeq rfl rfl

theorem sameLife_advance (n : Nat) (s : State) : SameLife s (advance n s) := by
  unfold advance
  split
  · exact sameLife_startWork n _ s
  · exact SameLife.refl s

/-- Where a sequence may close, one that is not closing keeps its life. -/
theorem finishClose_keeps_life {n m : Nat} {s : State} (alive : (s.seqOf m).state ≠ .closing) :
    (finishClose n s).req.forks = s.req.forks ∧ ((finishClose n s).seqOf m).state = (s.seqOf m).state ∧
    ((finishClose n s).seqOf m).len = (s.seqOf m).len := by
  by_cases ends : (decide ((s.seqOf n).state = .closing) && (s.seqOf n).steps.isEmpty && !s.forkFrom n) = true
  · have closing : (s.seqOf n).state = .closing := by
      rw [Bool.and_eq_true, Bool.and_eq_true] at ends
      exact of_decide_eq_true ends.1.1
    have ne : m ≠ n := fun here => alive (here ▸ closing)
    obtain ⟨z, eq, only, _, other⟩ := finishClose_ends ends
    rw [eq, freeSeq_forks, freeSeq_seqOf_other n z ne, only.forks, other m ne]
    exact ⟨rfl, rfl, rfl⟩
  · have stays : finishClose n s = s := if_neg ends
    rw [stays]
    exact ⟨rfl, rfl, rfl⟩

/-! ## FORK_COPY_DONE (R219) -/

theorem dropGroup_req (k : Nat) (s : State) : ∃ groups, (dropGroup k s).req = { s.req with usedGroups := groups } := ⟨_, rfl⟩

theorem shareGroups_req (l : List Nat) (s : State) : ∃ groups, (shareGroups l s).req = { s.req with usedGroups := groups } := by
  unfold shareGroups
  induction l generalizing s with
  | nil => exact ⟨s.req.usedGroups, rfl⟩
  | cons k l ih =>
    obtain ⟨groups, eq⟩ := ih { s with req := { s.req with
      usedGroups := mapSet 0 s.req.usedGroups k (mapGet 0 s.req.usedGroups k + 1) } }
    refine ⟨groups, ?_⟩
    rw [List.foldl_cons, eq]

theorem reshare_req (pools : List (Nat × PoolRec)) (i : Nat) (ps cs : List Page) (s : State) :
    ∃ groups, (reshare pools i ps cs s).req = { s.req with usedGroups := groups } := by
  induction ps generalizing i cs s with
  | nil => exact ⟨s.req.usedGroups, by rw [reshare]⟩
  | cons p ps ih =>
    cases cs with
    | nil => exact ⟨s.req.usedGroups, by rw [reshare]⟩
    | cons c cs =>
      rw [reshare]
      split
      · obtain ⟨_, dropped⟩ := dropGroups_req (pageKeys pools i c.groups) s
        obtain ⟨_, shared⟩ := shareGroups_req (pageKeys pools i p.groups)
          ((pageKeys pools i c.groups).foldl (fun s k => dropGroup k s) s)
        obtain ⟨groups, rest⟩ := ih (i + 1) cs (shareGroups (pageKeys pools i p.groups)
          ((pageKeys pools i c.groups).foldl (fun s k => dropGroup k s) s))
        exact ⟨groups, by rw [rest, shared, dropped]⟩
      · exact ih (i + 1) cs s

/-- The child of a fork has the parent's life, and the fork is over. -/
def childJoined (child poolSet : Nat) (x : Seq) (pages : List Page) (s : State) : State :=
  { joinRing poolSet child (setSeq child (fun y => { y with
      state := .idle, pages := pages, len := x.len, pending := x.pending, recent := x.recent }) s) with
    req := { (joinRing poolSet child (setSeq child (fun y => { y with
        state := .idle, pages := pages, len := x.len, pending := x.pending, recent := x.recent }) s)).req with
      forks := s.req.forks.filter (fun g => decide (g.child ≠ child)) } }

theorem childJoined_seqOf (child poolSet : Nat) (x : Seq) (pages : List Page) (s : State) :
    (childJoined child poolSet x pages s).seqOf child = { s.seqOf child with
      state := .idle, pages := pages, len := x.len, pending := x.pending, recent := x.recent } :=
  setSeq_seqOf_same child (fun y => { y with
    state := .idle, pages := pages, len := x.len, pending := x.pending, recent := x.recent }) s

theorem childJoined_forks (child poolSet : Nat) (x : Seq) (pages : List Page) (s : State) :
    (childJoined child poolSet x pages s).req.forks = s.req.forks.filter (fun g => decide (g.child ≠ child)) := rfl

section ForkCopied
variable {s : State} {f : ForkRun} {child : Nat} (run : s.req.forks.find? (fun g => decide (g.child = child)) = some f)
  (powered : s.powered = true) (settled : (s.seqOf f.parent).steps = [])
include run powered settled

theorem forkCopied_eq : ∃ z pages c, forkCopied child s = finishClose f.parent (advance f.parent (complete f.qp c
      (childJoined child (s.seqOf f.parent).poolSet (s.seqOf f.parent) pages z))) ∧ z.req.forks = s.req.forks := by
  have goes : (!s.powered || !(s.seqOf f.parent).steps.isEmpty) = false := by rw [powered, settled]; rfl
  have free : false = false := rfl
  obtain ⟨_, shared⟩ := reshare_req (s.poolsOf (s.seqOf f.parent).poolSet) 0 (s.seqOf f.parent).pages (s.seqOf child).pages s
  generalize shares : reshare (s.poolsOf (s.seqOf f.parent).poolSet) 0 (s.seqOf f.parent).pages (s.seqOf child).pages s = y at shared
  have kept : Keeps (Untouched.allBut [.stacked, .reports, .hif, .mem, .net]) y
      (copyPages (s.poolsOf (s.seqOf f.parent).poolSet) 0 (s.seqOf f.parent).pages
        (forkedPages (s.seqOf f.parent).pages (s.seqOf child).pages) y) := copyPages_keeps _ _ _ _ y (Keeps.refl y)
  refine ⟨copyPages (s.poolsOf (s.seqOf f.parent).poolSet) 0 (s.seqOf f.parent).pages
    (forkedPages (s.seqOf f.parent).pages (s.seqOf child).pages) y,
    forkedPages (s.seqOf f.parent).pages (s.seqOf child).pages,
    { lastCqe f.tag child 0 0 ((childJoined child (s.seqOf f.parent).poolSet (s.seqOf f.parent)
        (forkedPages (s.seqOf f.parent).pages (s.seqOf child).pages)
        (copyPages (s.poolsOf (s.seqOf f.parent).poolSet) 0 (s.seqOf f.parent).pages
          (forkedPages (s.seqOf f.parent).pages (s.seqOf child).pages) y)).seqOf child).len with
      data := leBytes 4 f.parent }, ?_, ?_⟩
  · rw [forkCopied, run]
    refine (if_neg (Bool.eq_false_iff.1 goes)).trans ?_
    rw [← shares]
    rfl
  · rw [kept.req rfl, shared]

/-- The child is open with the parent's length, and its fork is over. -/
theorem forkCopied_effect : ((forkCopied child s).seqOf child).state = .idle ∧
    ((forkCopied child s).seqOf child).len = (s.seqOf f.parent).len ∧
    (forkCopied child s).req.forks = s.req.forks.filter (fun g => decide (g.child ≠ child)) := by
  obtain ⟨z, pages, c, eq, forks⟩ := forkCopied_eq run powered settled
  have seq := childJoined_seqOf child (s.seqOf f.parent).poolSet (s.seqOf f.parent) pages z
  have left := childJoined_forks child (s.seqOf f.parent).poolSet (s.seqOf f.parent) pages z
  rw [eq]
  generalize childJoined child (s.seqOf f.parent).poolSet (s.seqOf f.parent) pages z = j at seq left
  obtain ⟨forks', life⟩ := (sameLife_complete f.qp c j).trans (sameLife_advance f.parent (complete f.qp c j))
  have state := (life child).1
  have len := (life child).2
  rw [seq] at state len
  obtain ⟨forks'', state', len'⟩ := finishClose_keeps_life (n := f.parent) (m := child)
    (s := advance f.parent (complete f.qp c j)) (by rw [state]; exact (show SeqState.idle ≠ .closing by decide))
  exact ⟨state'.trans state, len'.trans len, forks''.trans (forks'.trans (left.trans (by rw [forks])))⟩

end ForkCopied

theorem doForkCopyDone_effect {s : State} {f : ForkRun} {child : Nat} (flips : List (Nat × Nat)) (bad : List Nat)
    (run : s.req.forks.find? (fun g => decide (g.child = child)) = some f) (powered : s.powered = true)
    (settled : (s.seqOf f.parent).steps = []) : ((doForkCopyDone child flips bad s).seqOf child).state = .idle ∧
    ((doForkCopyDone child flips bad s).seqOf child).len = (s.seqOf f.parent).len ∧
    (doForkCopyDone child flips bad s).req.forks = s.req.forks.filter (fun g => decide (g.child ≠ child)) := by
  have free : false = false := rfl
  have kept : Keeps (Untouched.allBut [.stacked]) { s with mem := { s.mem with dpBad := bad } }
      (flipSymbols 0 flips { s with mem := { s.mem with dpBad := bad } }) := flipSymbols_keeps 0 flips _ (Keeps.refl _)
  have req := kept.req rfl
  have kpr := kept.kpr rfl
  have eq : doForkCopyDone child flips bad s
      = pathsMended (forkCopied child (flipSymbols 0 flips { s with mem := { s.mem with dpBad := bad } })) := rfl
  rw [eq]
  generalize flipSymbols 0 flips { s with mem := { s.mem with dpBad := bad } } = z at req kpr ⊢
  have parent : z.seqOf f.parent = s.seqOf f.parent := seqOf_congr (congrArg ReqBlk.seqs req) _
  have on : z.powered = true := by
    rw [State.powered, kpr]
    exact powered
  have forks : z.req.forks = s.req.forks := congrArg ReqBlk.forks req
  rw [← parent] at settled ⊢
  rw [← forks] at run ⊢
  exact forkCopied_effect run on settled

/-! ## FORK (R219) -/

theorem accept_open {q : Nat} {e : List Nat} {s : State} (reads : s.canFetch q = true)
    (apart : (s.qpOf q).parked.any (sameSeq e) = false) (open_ : s.cqFull q = false) :
    accept q e s = runEntry q e (passHead q s) := by
  rw [accept_cases reads]
  refine if_neg ?_
  have still : (passHead q s).cqFull q = false := by
    rw [State.cqFull, passHead_freeSlots, passHead_qpOf]
    exact open_
  rw [State.parks, passHead_parked, apart, still, Bool.false_and]
  decide

/-- The child of an accepted fork. -/
def forkChild (x : Seq) (pages : List Page) (slot : Nat) : Seq :=
  { x with
    state := .forking, pages := pages, slot := slot, steps := [], unprocessed := [], spareSeal := none, placed := 0
    closeTag := none }

section Fork
variable {s s2 : State} {q : Nat} {b : List Nat} {pages : List Page} (idle : (s.seqOf (entrySeq b)).state = .idle)
  (own : (s.seqOf (entrySeq b)).qp = q)
  (noFork : s.req.forks.all (fun f => decide (f.child ≠ entrySeq b) && decide (f.parent ≠ entrySeq b)) = true)
  (noWork : (s.seqOf (entrySeq b)).tags = []) (shares : s.sharesFull (s.seqOf (entrySeq b)) = false)
  (contexts : s.freeContexts ≠ []) (tables : s.freeTables (s.seqOf (entrySeq b)).poolSet ≠ [])
  (forked : forkPages (s.poolsOf (s.seqOf (entrySeq b)).poolSet) 0 (s.seqOf (entrySeq b)).pages [] s = some (pages, s2))
include idle own noFork noWork shares contexts tables forked

/-- A fork whose copy starts. -/
theorem forkBody_starts : ∃ t slot, forkBody q b s = t ∧
    t.req.forks = s2.req.forks ++ [
      { tag := entryTag b, qp := q, parent := entrySeq b, child := pick s2.fresh 0 s.freeContexts }] ∧
    t.seqOf (pick s2.fresh 0 s.freeContexts) = forkChild (s.seqOf (entrySeq b)) pages slot ∧ t.hostMem = s2.hostMem := by
  have listed : (s.seqOf (entrySeq b)).state ≠ .free := by rw [idle]; decide
  have notDamaged : (s.seqOf (entrySeq b)).state ≠ .damaged := by rw [idle]; decide
  have ready : (decide ((s.seqOf (entrySeq b)).state ≠ .idle) || !(s.seqOf (entrySeq b)).tags.isEmpty
      || s.forkFrom (entrySeq b)) = false := by
    rw [decide_eq_false (not_not_intro idle), noWork, forkFrom_none noFork]
    rfl
  obtain ⟨c, cs, free⟩ := List.exists_cons_of_ne_nil contexts
  obtain ⟨u, us, slots⟩ := List.exists_cons_of_ne_nil tables
  rw [forkBody, withSeq_own listed own noFork, if_neg notDamaged, if_neg (Bool.eq_false_iff.1 ready),
    if_neg (Bool.eq_false_iff.1 shares), free, slots, forked]
  exact ⟨_, pick s2.fresh 1 (u :: us), rfl, rfl, setSeq_seqOf_same _ (fun _ => forkChild (s.seqOf (entrySeq b)) pages
    (pick s2.fresh 1 (u :: us))) (useFresh s2), rfl⟩

end Fork

/-! ## CLOSE (R237) -/

section Close
variable {s : State} {q : Nat} {b : List Nat} (idle : (s.seqOf (entrySeq b)).state = .idle)
  (own : (s.seqOf (entrySeq b)).qp = q)
  (noFork : s.req.forks.all (fun f => decide (f.child ≠ entrySeq b) && decide (f.parent ≠ entrySeq b)) = true)
include idle own noFork

theorem closeBody_cancels (cancel : bit (nth 0 b 1) 0 = true) : closeBody q b s
    = complete q (lastCqe (entryTag b) (entrySeq b) 0 0 (s.seqOf (entrySeq b)).len) (endWork (entrySeq b) 0 0x07 s) := by
  have listed : (s.seqOf (entrySeq b)).state ≠ .free := by rw [idle]; decide
  have open_ : (s.seqOf (entrySeq b)).state ≠ .closing := by rw [idle]; decide
  rw [closeBody, withSeq_own listed own noFork]
  exact (if_neg open_).trans (if_pos cancel)

theorem closeBody_closes (whole : bit (nth 0 b 1) 0 = false) : closeBody q b s
    = finishClose (entrySeq b) (setSeq (entrySeq b) (fun x => { x with
        state := .closing, closeTag := some (entryTag b), steps := x.steps.map (fun t => { t with dead := true }) }) s) := by
  have listed : (s.seqOf (entrySeq b)).state ≠ .free := by rw [idle]; decide
  have open_ : (s.seqOf (entrySeq b)).state ≠ .closing := by rw [idle]; decide
  rw [closeBody, withSeq_own listed own noFork]
  exact (if_neg open_).trans (if_neg (Bool.eq_false_iff.1 whole))

/-- CLOSE with cancel_only ends the work of the sequence, which stays open. -/
theorem closeBody_cancels_effect (cancel : bit (nth 0 b 1) 0 = true) : ∃ t, closeBody q b s = t ∧
    (t.seqOf (entrySeq b)).tags = [] ∧ (t.seqOf (entrySeq b)).state = .idle ∧
    (t.seqOf (entrySeq b)).len = (s.seqOf (entrySeq b)).len ∧
    (t.seqOf (entrySeq b)).pages = (s.seqOf (entrySeq b)).pages ∧ (∀ n, n ≠ entrySeq b → t.seqOf n = s.seqOf n) := by
  obtain ⟨tags, state, len, pages⟩ := workEnded_life (s.seqOf (entrySeq b)) (s.seqOf (entrySeq b))
  refine ⟨_, closeBody_cancels idle own noFork cancel, ?_, ?_, ?_, ?_, fun n ne => ?_⟩
  · rw [seqOf_complete, endWork_seqOf_same, tags]
  · rw [seqOf_complete, endWork_seqOf_same, state, idle]
  · rw [seqOf_complete, endWork_seqOf_same, len]
  · rw [seqOf_complete, endWork_seqOf_same, pages]
  · rw [seqOf_complete, endWork_seqOf_other _ _ _ _ ne]

/-- CLOSE of a sequence without a step under way frees it. -/
theorem closeBody_closes_effect (whole : bit (nth 0 b 1) 0 = false) (none_ : (s.seqOf (entrySeq b)).steps = []) : ∃ t,
    closeBody q b s = t ∧ t.seqOf (entrySeq b) = seq0 ∧
    (entrySeq b) ∉ mapGet [] t.req.rings (s.seqOf (entrySeq b)).poolSet ∧
    (∀ n, n ≠ entrySeq b → t.seqOf n = s.seqOf n) := by
  have closing := setSeq_seqOf_same (entrySeq b) (fun x => { x with
    state := .closing, closeTag := some (entryTag b), steps := x.steps.map (fun t => { t with dead := true }) }) s
  have others : ∀ n, n ≠ entrySeq b → (setSeq (entrySeq b) (fun x => { x with
      state := .closing, closeTag := some (entryTag b), steps := x.steps.map (fun t => { t with dead := true }) }) s).seqOf n
      = s.seqOf n := fun n ne => setSeq_seqOf_other _ _ _ ne
  have still : (setSeq (entrySeq b) (fun x => { x with
      state := .closing, closeTag := some (entryTag b), steps := x.steps.map (fun t => { t with dead := true }) }) s).forkFrom
      (entrySeq b) = false := forkFrom_none (s := s) noFork
  rw [closeBody_closes idle own noFork whole]
  generalize setSeq (entrySeq b) (fun x => { x with
    state := .closing, closeTag := some (entryTag b), steps := x.steps.map (fun t => { t with dead := true }) }) s = y
    at closing others still ⊢
  obtain ⟨z, eq, _, pool, other⟩ := finishClose_frees (by rw [closing]) (by rw [closing, none_, List.map_nil]) still
  rw [closing] at pool
  refine ⟨_, rfl, ?_, ?_, fun n ne => ?_⟩
  · rw [eq, freeSeq_seqOf_same]
  · rw [eq, ← pool]
    exact not_mem_ring_freeSeq _ z
  · rw [eq, freeSeq_seqOf_other _ z ne, other n ne, others n ne]

end Close

/-! ## QUERY (R218) -/

section Query
variable {q : Nat} {b : List Nat} {s : State}

theorem runEntry_query (op : nth 0 b 0 = 6) :
    runEntry q b s = serve q b true [(1, 3), (12, 52)] true (queryBody q b) s := by
  rw [runEntry, op]
  rfl

theorem runEntry_unlisted (op : nth 0 b 0 = 0 ∨ 6 < nth 0 b 0) : runEntry q b s = serve q b true [] false id s := by
  unfold runEntry
  split
  case h_7 => rfl
  all_goals omega

/-- Whatever refuses a QUERY or answers it, one completion is all. -/
theorem runEntry_query_completes (op : nth 0 b 0 = 6 ∨ nth 0 b 0 = 0 ∨ 6 < nth 0 b 0) : ∃ c,
    runEntry q b s = complete q c s := by
  rcases op with query | unlisted
  · rw [runEntry_query query, serve]
    split
    · exact ⟨_, rfl⟩
    · split
      · exact ⟨_, rfl⟩
      · rw [queryBody, withSeq]
        split
        · exact ⟨_, rfl⟩
        · exact ⟨_, rfl⟩
  · rw [runEntry_unlisted unlisted]
    by_cases reason : s.stateReason true = 0
    · exact ⟨_, serve_invalid reason (Or.inl rfl)⟩
    · exact ⟨_, serve_in_other_state reason⟩

theorem enabled_of_canFetch (reads : s.canFetch q = true) : (s.qpOf q).enable = true := by
  have next_ : s.nextPair = some q := of_decide_eq_true reads
  have entry : s.hasEntry q = true := by
    unfold State.nextPair at next_
    split at next_
    · next turn =>
      cases next_
      rw [Bool.and_eq_true] at turn
      exact turn.1
    · exact List.find?_some next_
  simp only [State.hasEntry, Bool.and_eq_true] at entry
  exact entry.1.1.1.1

end Query

theorem queryOpcode_query (b : List Nat) : nth 0 (entryBytes (queryOpcode b) b) 0 = 6 ∨
    nth 0 (entryBytes (queryOpcode b) b) 0 = 0 ∨ 6 < nth 0 (entryBytes (queryOpcode b) b) 0 := by
  rw [entryBytes_opcode, queryOpcode]
  have small := Nat.mod_lt (nth 0 b 0) (show 0 < 256 by decide)
  generalize nth 0 b 0 % 256 = o at small
  by_cases listed : 1 ≤ o ∧ o ≤ 5
  · exact Or.inl (congrArg (· % 256) (if_pos listed))
  · have same : (if 1 ≤ o ∧ o ≤ 5 then 6 else o) % 256 = o := by
      rw [if_neg listed]
      exact Nat.mod_eq_of_lt small
    simp only [same]
    omega

/-- Zero bytes 1 to 3 of a CLOSE: cancel_only is 0, and its reserved bytes 2 and 3 are too. -/
theorem close_zero_bytes {b : List Nat} (zero : allZero b [(1, 3), (12, 52)] = true) :
    nth 0 b 1 = 0 ∧ allZero b [(2, 2), (12, 52)] = true := by
  simp only [allZero, List.all_cons, List.all_nil, Bool.and_true, Bool.and_eq_true] at zero
  obtain ⟨first, rest⟩ := zero
  simp only [allZero, List.all_cons, List.all_nil, Bool.and_true, Bool.and_eq_true]
  match b with
  | [] => exact ⟨rfl, rfl, rest⟩
  | [a] => exact ⟨rfl, rfl, rest⟩
  | [a, c] =>
    have head : c = 0 := of_decide_eq_true (Bool.and_eq_true_iff.1 first).1
    exact ⟨head, rfl, rest⟩
  | [a, c, d] =>
    simp only [slice, List.drop_succ_cons, List.drop_zero, List.take_succ_cons, List.take_nil, List.length_cons,
      List.length_nil, List.cons_append, List.all_cons, Bool.and_eq_true] at first
    refine ⟨of_decide_eq_true first.1, ?_, rest⟩
    simp only [slice, List.drop_succ_cons, List.drop_zero, List.take_succ_cons, List.take_nil, List.length_cons,
      List.length_nil, List.cons_append, List.all_cons, Bool.and_eq_true]
    exact first.2
  | a :: c :: d :: f :: l =>
    simp only [slice, List.drop_succ_cons, List.drop_zero, List.take_succ_cons, List.take_zero, List.length_cons,
      List.length_nil, List.cons_append, List.all_cons, Bool.and_eq_true] at first
    refine ⟨of_decide_eq_true first.1, ?_, rest⟩
    simp only [slice, List.drop_succ_cons, List.drop_zero, List.take_succ_cons, List.take_zero, List.length_cons,
      List.length_nil, List.cons_append, List.all_cons, Bool.and_eq_true]
    exact first.2

/-! ## The obligation -/

/-- Settles O25: the fork through `forkBody` and `forkCopied`, CLOSE through `endWork` and `freeSeq`, and QUERY, which
completes in each of its branches and so waits where its pair has no space. -/
theorem sequencesForkAndClose : Obligations.SequencesForkAndClose := by
  unfold Obligations.SequencesForkAndClose
  refine ⟨?fork, ?copied, ?cancel, ?close, ?query, ?unlisted, ?waits⟩
  case fork =>
    rintro s s2 q b e pages pair rfl reads apart reason zero open_ idle own noFork noWork shares contexts tables forked
    obtain ⟨t, slot, run, forks, seq, host⟩ := forkBody_starts (s := passHead q s) idle own noFork noWork shares contexts
      tables forked
    have accepted : accept q (entryBytes 4 b) s = t := by
      rw [accept_open reads apart open_, runEntry_fork, serve_runs (s := passHead q s) reason rfl zero, run]
    refine ⟨t, (onUnit_runs pair).trans (congrArg Host.Outcome.next accepted), forks, ?_, ?_, ?_, host⟩
    · exact congrArg Seq.state seq
    · exact congrArg Seq.pages seq
    · have len := congrArg Seq.len seq
      exact len
  case copied =>
    intro s f child flips bad pair run powered settled
    exact ⟨_, onUnit_runs pair, doForkCopyDone_effect flips bad run powered settled⟩
  case cancel =>
    rintro s q b e pair rfl reads apart reason zero room cancel idle own noFork
    obtain ⟨t, run, effect⟩ := closeBody_cancels_effect (s := passHead q s) idle own noFork (by rw [cancel]; rfl)
    have listed : decide (nth 0 (entryBytes 5 b) 1 < 2) = true := by rw [cancel]; rfl
    have accepted : accept q (entryBytes 5 b) s = t := by
      rw [accept_served reads apart room, runEntry_close, serve_runs (s := passHead q s) reason listed zero, run]
    exact ⟨t, (onUnit_runs pair).trans (congrArg Host.Outcome.next accepted), effect⟩
  case close =>
    rintro s q b e pair rfl reads apart reason zero room idle own noFork none_
    obtain ⟨whole, zero'⟩ := close_zero_bytes zero
    obtain ⟨t, run, effect⟩ := closeBody_closes_effect (s := passHead q s) idle own noFork (by rw [whole]; rfl) none_
    have listed : decide (nth 0 (entryBytes 5 b) 1 < 2) = true := by rw [whole]; rfl
    have accepted : accept q (entryBytes 5 b) s = t := by
      rw [accept_served reads apart room, runEntry_close, serve_runs (s := passHead q s) reason listed zero', run]
    exact ⟨t, (onUnit_runs pair).trans (congrArg Host.Outcome.next accepted), effect⟩
  case query =>
    rintro s q b e pair rfl reads apart reason zero op room listed own noFork
    refine (onUnit_runs pair).trans (congrArg Host.Outcome.next ?_)
    show accept q _ s = _
    rw [accept_served reads apart room, runEntry_query op, serve_runs (s := passHead q s) reason rfl zero, queryBody,
      withSeq_own (s := passHead q s) listed own noFork]
    rfl
  case unlisted =>
    rintro s q b e pair rfl op reads apart room reason
    refine (onUnit_runs pair).trans (congrArg Host.Outcome.next ?_)
    show accept q _ s = _
    rw [accept_served reads apart room, runEntry_unlisted op]
    exact serve_invalid (s := passHead q s) reason (Or.inl rfl)
  case waits =>
    rintro s q b e pair rfl reads full
    refine (onUnit_runs pair).trans (congrArg Host.Outcome.next ?_)
    by_cases behind : (s.qpOf q).parked.any (sameSeq (entryBytes (queryOpcode b) b)) = true
    · exact accept_waits reads behind
    · have none_ : s.freeSlots q = 0 := full.resolve_left behind
      have on := enabled_of_canFetch reads
      refine accept_parked reads on none_ ?_
      obtain ⟨c, completes⟩ := runEntry_query_completes (q := q) (s := passHead q s) (queryOpcode_query b)
      rw [completes, complete_held c (by rw [passHead_qpOf]; exact on) (by rw [passHead_freeSlots, none_]), setQp_qpOf_same,
        passHead_held, List.length_append]
      exact Nat.lt_succ_self _

end Sys2Proof.Proofs
end


section
/-! Lane filling and starved pool sets (R225 to R229). -/
namespace Sys2Proof.Proofs
set_option Elab.async false
open Sys2Proof.Machine Sys2Proof.Laws

/-! ## What the filling of lanes leaves -/

/-- Of the request engine only sequences, rings, counts of fills and groups differ, the image and its lock are the same,
and where no span is locked host memory is. -/
def FillsOnly (s t : State) : Prop :=
  (∃ seqs rings starved groups,
    t.req = { s.req with seqs := seqs, rings := rings, starved := starved, usedGroups := groups }) ∧
  t.dev = s.dev ∧ (s.dev.lock = none → t.hostMem = s.hostMem)

theorem FillsOnly.of_req {s t : State} (req : t.req = s.req) (dev : t.dev = s.dev)
    (host : s.dev.lock = none → t.hostMem = s.hostMem) : FillsOnly s t :=
  ⟨⟨s.req.seqs, s.req.rings, s.req.starved, s.req.usedGroups, req⟩, dev, host⟩

theorem FillsOnly.refl (s : State) : FillsOnly s s := FillsOnly.of_req rfl rfl fun _ => rfl

theorem FillsOnly.trans {s t u : State} (first : FillsOnly s t) (second : FillsOnly t u) : FillsOnly s u := by
  obtain ⟨⟨_, _, _, _, left⟩, dev, host⟩ := first
  obtain ⟨⟨seqs, rings, starved, groups, right⟩, dev', host'⟩ := second
  refine ⟨⟨seqs, rings, starved, groups, by rw [right, left]⟩, dev'.trans dev, fun none_ => ?_⟩
  rw [host' (by rw [dev]; exact none_), host none_]

theorem FillsOnly.foldl {α : Type} {f : State → α → State} (step : ∀ s x, FillsOnly s (f s x)) (l : List α) (s : State) :
    FillsOnly s (l.foldl f s) := by
  induction l generalizing s with
  | nil => exact FillsOnly.refl s
  | cons x l ih => exact (step s x).trans (ih (f s x))

theorem fillsOnly_setSeq (n : Nat) (f : Seq → Seq) (s : State) : FillsOnly s (setSeq n f s) :=
  ⟨⟨_, s.req.rings, s.req.starved, s.req.usedGroups, rfl⟩, rfl, fun _ => rfl⟩

/-! ## The engine's writes -/

theorem lockedIn_unlocked {s : State} (none_ : s.dev.lock = none) (a n : Nat) : s.lockedIn a n = false := by
  induction n generalizing a with
  | zero => rfl
  | succ n ih =>
    rw [State.lockedIn, ih, State.lockedByte, none_]
    rfl

theorem lockedSpan_unlocked {s : State} (none_ : s.dev.lock = none) (a len : Nat) : s.lockedSpan a len = false := by
  rw [State.lockedSpan, none_]

/-- Where no span is locked, what a write refuses it refuses without an event. -/
theorem writeBytes_hostMem (w : Who) (parity : Bool) (a : Nat) (bytes : List Nat) {s : State} (none_ : s.dev.lock = none) :
    (writeBytes w parity a bytes s).2.hostMem = s.hostMem := by
  obtain ⟨net, eq⟩ := netAccess_onlyNet w a bytes.length true s
  rw [writeBytes]
  generalize netAccess w a bytes.length true s = z at eq ⊢
  have unlocked : z.dev.lock = none := by rw [eq]; exact none_
  have same : z.hostMem = s.hostMem := by rw [eq]
  simp only [lockedIn_unlocked unlocked, Bool.false_eq_true, if_false]
  split
  · exact same
  · split
    · exact same
    · obtain ⟨_, _, _, stored⟩ := storeWords_frame (bytes.length / 32) a bytes z
      rw [stored]
      exact same

theorem fillsOnly_writeBytes (w : Who) (parity : Bool) (a : Nat) (bytes : List Nat) (s : State) :
    FillsOnly s (writeBytes w parity a bytes s).2 := by
  have free : false = false := rfl
  have kept : Keeps (Untouched.allBut [.stacked, .reports, .hif, .mem, .net]) s (writeBytes w parity a bytes s).2 :=
    writeBytes_keeps w parity a bytes s (Keeps.refl s)
  exact FillsOnly.of_req (kept.req rfl) (kept.dev rfl) (writeBytes_hostMem w parity a bytes)

theorem zeroPiece_hostMem (a len : Nat) {s : State} (none_ : s.dev.lock = none) : (zeroPiece a len s).hostMem = s.hostMem := by
  obtain ⟨net, eq⟩ := netAccess_onlyNet engineWho a len true s
  rw [zeroPiece]
  generalize netAccess engineWho a len true s = z at eq ⊢
  have unlocked : z.dev.lock = none := by rw [eq]; exact none_
  have same : z.hostMem = s.hostMem := by rw [eq]
  simp only [lockedSpan_unlocked unlocked, Bool.false_eq_true, if_false]
  split
  · exact same
  · split
    · exact same
    · exact same

theorem fillsOnly_zeroPieces (fuel a len : Nat) (s : State) : FillsOnly s (zeroPieces fuel a len s) := by
  have free : false = false := rfl
  induction fuel generalizing a len s with
  | zero => exact FillsOnly.refl s
  | succ fuel ih =>
    rw [zeroPieces]
    split
    · exact FillsOnly.refl s
    · have kept : Keeps (Untouched.allBut [.stacked, .reports, .hif, .mem, .net]) s (zeroPiece a (min len (2048 - a % 2048)) s) :=
        zeroPiece_keeps _ _ s (Keeps.refl s)
      exact (FillsOnly.of_req (kept.req rfl) (kept.dev rfl) (zeroPiece_hostMem _ _)).trans (ih _ _ _)

theorem fillsOnly_writeTables (n : Nat) (s : State) : FillsOnly s (writeTables n s) :=
  FillsOnly.foldl (fun s _ => FillsOnly.foldl (fun s _ => fillsOnly_writeBytes _ _ _ _ s) _ s) _ s

theorem fillsOnly_clearBlocks (frame : Nat) (s : State) : FillsOnly s (clearBlocks frame s) := by
  unfold clearBlocks
  split
  · exact FillsOnly.refl s
  · exact FillsOnly.foldl (fun s p => FillsOnly.foldl (fun s _ => fillsOnly_writeBytes _ _ _ _ s) _ s) _ s

/-! ## Groups and pages -/

theorem fillsOnly_takeGroup (pool : Nat) (p : PoolRec) (i g : Nat) (s : State) : FillsOnly s (takeGroup pool p i g s) :=
  FillsOnly.trans ⟨⟨s.req.seqs, s.req.rings, s.req.starved, _, rfl⟩, rfl, fun _ => rfl⟩ (fillsOnly_zeroPieces _ _ _ _)

theorem fillsOnly_takePage {i : Nat} {l : List (Nat × PoolRec)} {acc g : List Nat} {s t : State}
    (taken : takePage i l acc s = some (g, t)) : FillsOnly s t := by
  induction l generalizing acc s with
  | nil =>
    obtain ⟨_, rfl⟩ := Prod.mk.inj (Option.some.inj taken)
    exact FillsOnly.refl _
  | cons e l ih =>
    rw [takePage] at taken
    split at taken
    · cases taken
    · exact ((FillsOnly.of_req (t := useFresh s) rfl rfl fun _ => rfl).trans (fillsOnly_takeGroup _ _ _ _ (useFresh s))).trans
        (ih taken)

theorem fillsOnly_takePages {pools : List (Nat × PoolRec)} {n i : Nat} {acc g : List Page} {s t : State}
    (taken : takePages pools n i acc s = some (g, t)) : FillsOnly s t := by
  induction n generalizing i acc s with
  | zero =>
    obtain ⟨_, rfl⟩ := Prod.mk.inj (Option.some.inj taken)
    exact FillsOnly.refl _
  | succ n ih =>
    rw [takePages] at taken
    split at taken
    · cases taken
    · next page =>
      exact (fillsOnly_takePage page).trans (ih taken)

theorem fillsOnly_takeSeal (x : Seq) (pools : List (Nat × PoolRec)) (s : State) : FillsOnly s (takeSeal x pools s).2 := by
  unfold takeSeal
  split
  · exact FillsOnly.refl s
  · split
    · split
      · exact FillsOnly.refl s
      · exact FillsOnly.refl s
    · split
      · exact FillsOnly.refl s
      · next page => exact fillsOnly_takePage page

/-! ## Lanes -/

/-- What a lane is given in memory: the sequence's page tables, its records and its tokens. -/
theorem fillsOnly_lane (n frame lane : Nat) (x : Seq) (tokens : List Nat) (l : List (Nat × Nat × PoolRec))
    (record : Nat × Nat × PoolRec → List Nat) (s : State) :
    FillsOnly s (writeTokens frame lane tokens (l.foldl (fun s e =>
      writeRecordOf e.2.2 frame (lane - e.2.2.laneBase) (record e) s) (writeTables n (setSeq n (fun _ => x) s)))) :=
  ((fillsOnly_setSeq n _ s).trans (fillsOnly_writeTables n _)).trans
    ((FillsOnly.foldl (fun s _ => fillsOnly_writeBytes _ _ _ _ s) l _).trans (fillsOnly_writeBytes _ _ _ _ _))

theorem fillsOnly_placeSeq {n frame lane : Nat} {tokens : List Nat} {s t : State}
    (placed : placeSeq n frame lane tokens s = some t) : FillsOnly s t := by
  rw [placeSeq] at placed
  generalize s.planStep (s.seqOf n) = plan at placed
  obtain ⟨len, drafts, decode⟩ := plan
  simp only at placed
  split at placed
  · cases placed
  · next pages z taken =>
    have sealed := fillsOnly_takeSeal { s.seqOf n with pages := pages } (s.poolsOf (s.seqOf n).poolSet) z
    rw [← Option.some.inj placed]
    exact (fillsOnly_takePages taken).trans (sealed.trans (fillsOnly_lane ..))

theorem fillsOnly_walkRing (late : List Nat) (reads : SMap (List Nat)) (frame j : Nat) (ring lanes : List Nat) (acc : Nat)
    (s : State) : FillsOnly s (walkRing late reads frame j ring lanes acc s).2 := by
  induction ring generalizing lanes acc s with
  | nil => rw [walkRing]; exact FillsOnly.refl s
  | cons n ring ih =>
    cases lanes with
    | nil =>
      rw [walkRing]
      · exact FillsOnly.refl s
      · exact fun nil => absurd nil (List.cons_ne_nil n ring)
    | cons lane lanes =>
      rw [walkRing]
      split
      · split
        · exact ih _ _ _
        · next z placed =>
          exact (fillsOnly_placeSeq placed).trans (FillsOnly.trans
            ⟨⟨z.req.seqs, _, z.req.starved, z.req.usedGroups, rfl⟩, rfl, fun _ => rfl⟩ (ih _ _ _))
      · exact ih _ _ _

theorem fillsOnly_fillSet (late : List Nat) (reads : SMap (List Nat)) (frame count j : Nat) (a : Nat × State) :
    FillsOnly a.2 (fillSet late reads frame count j a).2 :=
  (fillsOnly_walkRing late reads frame j (mapGet [] a.2.req.rings j) (a.2.lanesOf j count) a.1 a.2).trans
    ⟨⟨_, _, _, _, rfl⟩, rfl, fun _ => rfl⟩

theorem fillsOnly_fillSets (late : List Nat) (reads : SMap (List Nat)) (frame count : Nat) (l : List Nat) (a : Nat × State) :
    FillsOnly a.2 (l.foldl (fun a j => fillSet late reads frame count j a) a).2 := by
  induction l generalizing a with
  | nil => exact FillsOnly.refl a.2
  | cons j l ih => exact (fillsOnly_fillSet late reads frame count j a).trans (ih _)

/-! ## A fill (R225) -/

section Fill
variable {late : List Nat} {reads : SMap (List Nat)} {s : State}

/-- What a fill begins with: idle lane blocks, and the late sequences counted. -/
def fillBegun (late : List Nat) (s : State) : State :=
  { clearBlocks (s.frm.count + 1) s with req := { (clearBlocks (s.frm.count + 1) s).req with
    settleLate := satAdd 16 (clearBlocks (s.frm.count + 1) s).req.settleLate late.length } }

/-- The lanes of every pool set of the service. -/
def setsFilled (late : List Nat) (reads : SMap (List Nat)) (s : State) : Nat × State :=
  (fillBegun late s).serviceSets.foldl (fun a j => fillSet late reads (s.frm.count + 1) (fillBegun late s).planLanes j a)
    (0, fillBegun late s)

theorem fillLanes_idle (idle : s.req.filled = s.frm.count + 2 ∨ s.kpr.state ≠ .running ∨ s.frm.phase ≠ .inFrame) :
    fillLanes late reads s = s := by
  refine if_neg ?_
  rcases idle with filled | stopped | outside
  · rw [decide_eq_false (not_not_intro filled), Bool.and_false]
    decide
  · have none_ : s.inStates [.running] = false := by
      rw [State.inStates, List.any_cons, List.any_nil, Bool.or_false]
      exact beq_eq_false_iff_ne.2 fun same => stopped same.symm
    rw [none_, Bool.and_false, Bool.false_and, Bool.false_and, Bool.false_and]
    decide
  · rw [decide_eq_false outside, Bool.and_false, Bool.false_and, Bool.false_and]
    decide

variable (powered : s.powered = true) (running : s.kpr.state = .running) (inFrame : s.frm.phase = .inFrame)
  (settled : s.req.serving = false ∨ s.frm.count ≤ s.req.settled) (unfilled : s.req.filled ≠ s.frm.count + 2)
include powered running inFrame settled unfilled

theorem fillLanes_fills : fillLanes late reads s = { (setsFilled late reads s).2 with
    req := { (setsFilled late reads s).2.req with filled := s.frm.count + 2, pageWait := (setsFilled late reads s).1 } } := by
  have state : s.inStates [.running] = true := by
    rw [State.inStates, List.any_cons, running]
    rfl
  have ready : (!s.req.serving || decide (s.frm.count ≤ s.req.settled)) = true := by
    rcases settled with none_ | done
    · rw [none_]; rfl
    · rw [decide_eq_true done, Bool.or_true]
  have goes : (s.powered && s.inStates [.running] && decide (s.frm.phase = .inFrame)
      && (!s.req.serving || decide (s.frm.count ≤ s.req.settled)) && decide (s.req.filled ≠ s.frm.count + 1 + 1)) = true := by
    rw [powered, state, decide_eq_true inFrame, ready, decide_eq_true unfilled]
    rfl
  exact if_pos goes

theorem fillLanes_effect : (fillLanes late reads s).req.filled = s.frm.count + 2 ∧
    (fillLanes late reads s).req.settled = s.req.settled ∧
    (fillLanes late reads s).req.settleLate = satAdd 16 s.req.settleLate late.length ∧
    (fillLanes late reads s).req.qp = s.req.qp ∧
    (s.dev.lock = none → (fillLanes late reads s).hostMem = s.hostMem) := by
  obtain ⟨⟨_, _, _, _, cleared⟩, dev, host⟩ := fillsOnly_clearBlocks (s.frm.count + 1) s
  obtain ⟨⟨_, _, _, _, sets⟩, _, host'⟩ := fillsOnly_fillSets late reads (s.frm.count + 1) (fillBegun late s).planLanes
    (fillBegun late s).serviceSets (0, fillBegun late s)
  have begun : (fillBegun late s).req = { (clearBlocks (s.frm.count + 1) s).req with
    settleLate := satAdd 16 (clearBlocks (s.frm.count + 1) s).req.settleLate late.length } := rfl
  have all : (setsFilled late reads s).2.req = _ := sets
  rw [fillLanes_fills powered running inFrame settled unfilled, all, begun, cleared]
  refine ⟨rfl, rfl, rfl, rfl, fun none_ => ?_⟩
  exact (host' (by rw [show (fillBegun late s).dev = (clearBlocks (s.frm.count + 1) s).dev from rfl, dev]; exact none_)).trans
    (host none_)

end Fill

/-! ## The obligation -/

/-- The state with data paths that give nothing. -/
def pathsBroken (bad : List Nat) (s : State) : State := { s with mem := { s.mem with dpBad := bad } }

theorem exec_laneFill (late : List Nat) (reads : List (Nat × List Nat)) (bad : List Nat) (s : State) :
    exec (.laneFill late reads bad) s =
      .next (pathsMended (fillLanes (late.filter (fun n => decide (n < 16384))) reads (pathsBroken bad s))) := rfl

theorem pathsBroken_powered (bad : List Nat) (s : State) : (pathsBroken bad s).powered = s.powered := rfl
theorem pathsBroken_kpr (bad : List Nat) (s : State) : (pathsBroken bad s).kpr = s.kpr := rfl
theorem pathsBroken_frm (bad : List Nat) (s : State) : (pathsBroken bad s).frm = s.frm := rfl
theorem pathsBroken_req (bad : List Nat) (s : State) : (pathsBroken bad s).req = s.req := rfl
theorem pathsBroken_cores (bad : List Nat) (s : State) : (pathsBroken bad s).cores = s.cores := rfl
theorem pathsBroken_dev (bad : List Nat) (s : State) : (pathsBroken bad s).dev = s.dev := rfl
theorem pathsBroken_hostMem (bad : List Nat) (s : State) : (pathsBroken bad s).hostMem = s.hostMem := rfl
theorem pathsMended_req (s : State) : (pathsMended s).req = s.req := rfl
theorem pathsMended_frm (s : State) : (pathsMended s).frm = s.frm := rfl
theorem pathsMended_cores (s : State) : (pathsMended s).cores = s.cores := rfl
theorem pathsMended_hostMem (s : State) : (pathsMended s).hostMem = s.hostMem := rfl

/-- Settles O27: a fill through `fillLanes`, whose writes raise no event where no span is locked; a starved set by its
count of fills. -/
theorem lanesAndStarvation : Obligations.LanesAndStarvation := by
  unfold Obligations.LanesAndStarvation
  refine ⟨?fills, ?idle, ?starved, ?fed⟩
  case fills =>
    intro s late reads bad powered running inFrame settled unfilled
    have free : false = false := rfl
    generalize broken : pathsBroken bad s = z
    have frm : z.frm = s.frm := by rw [← broken, pathsBroken_frm]
    have req : z.req = s.req := by rw [← broken, pathsBroken_req]
    have dev : z.dev = s.dev := by rw [← broken, pathsBroken_dev]
    generalize kept_late : late.filter (fun n => decide (n < 16384)) = few
    have kept : Keeps (Untouched.allBut [.stacked, .reports, .hif, .mem, .net, .req]) z (fillLanes few reads z) :=
      fillLanes_keeps _ _ _ (Keeps.refl z)
    have filled := fillLanes_effect (late := few) (reads := reads) (s := z)
      (by rw [← broken, pathsBroken_powered]; exact powered) (by rw [← broken, pathsBroken_kpr]; exact running)
      (by rw [frm]; exact inFrame) (by rw [frm, req]; exact settled) (by rw [frm, req]; exact unfilled)
    rw [exec_laneFill, broken, kept_late]
    refine ⟨_, rfl, ?_⟩
    rw [pathsMended_req, pathsMended_frm, pathsMended_cores, pathsMended_hostMem, kept.frm rfl, cores_of_keeps kept rfl rfl]
    obtain ⟨filled, settled', settleLate, qp, host⟩ := filled
    rw [filled, settled', settleLate, qp, frm, req]
    refine ⟨rfl, rfl, rfl, rfl, ?_, rfl, fun none_ => ?_⟩
    · rw [← broken, pathsBroken_cores]
    · rw [host (by rw [dev]; exact none_), ← broken, pathsBroken_hostMem]
  case idle =>
    intro s late reads bad idle mended
    rw [exec_laneFill, fillLanes_idle (s := pathsBroken bad s)
      (by rw [pathsBroken_req, pathsBroken_frm, pathsBroken_kpr]; exact idle)]
    refine congrArg Host.Outcome.next ?_
    rw [pathsMended, pathsBroken, ← mended]
  case starved =>
    intro s j set powered due
    refine (onUnit_runs set).trans (congrArg Host.Outcome.next (if_pos ?_))
    rw [powered, decide_eq_true due]
    rfl
  case fed =>
    intro s j set fed
    refine (onUnit_runs set).trans (congrArg Host.Outcome.next (if_neg ?_))
    rw [decide_eq_false (Nat.not_le.2 fed), Bool.and_false]
    decide

end Sys2Proof.Proofs
end


section
/-! The CXL mailbox, DOE and attestation (R286, R287, R393). -/
namespace Sys2Proof.Proofs
set_option Elab.async false
open Sys2Proof.Machine Sys2Proof.Laws

/-! ## The mailbox -/

section Mailbox
variable {s : State}

theorem mailbox_live (live : s.mailboxLive = true) (code : Nat) (bytes : List Nat) :
    mailbox code bytes s = emit (.mailbox code bytes) s := if_pos live

theorem mailbox_dead (dead : s.mailboxLive = false) (code : Nat) (bytes : List Nat) : mailbox code bytes s = s :=
  if_neg (Bool.eq_false_iff.1 dead)

theorem clearEventRecords_live (live : s.mailboxLive = true) (handles : List Nat) :
    doClearEventRecords handles s = emit (.mailbox 0 []) { s with hif := { s.hif with
      cxlEvents := if handles.isEmpty then [] else s.hif.cxlEvents.filter (fun h => !handles.contains h) } } :=
  (if_pos live).trans (if_pos live)

theorem clearEventRecords_dead (dead : s.mailboxLive = false) (handles : List Nat) : doClearEventRecords handles s = s :=
  if_neg (Bool.eq_false_iff.1 dead)

theorem getHealthInfo_live (live : s.mailboxLive = true) : doGetHealthInfo s =
    emit (.mailbox 0 ((List.range 18).map (fun i => Config.unstated s.fresh i % 256))) (useFresh s) :=
  (if_pos live).trans (if_pos live)

theorem getHealthInfo_dead (dead : s.mailboxLive = false) : doGetHealthInfo s = s := if_neg (Bool.eq_false_iff.1 dead)

theorem exec_unsupportedMailboxOpcode {op : Nat} (unserved : op % 65536 ∉ mailboxOpcodes) (s : State) :
    exec (.unsupportedMailboxOpcode op) s = .next (mailbox 3 [] s) :=
  onUnit_runs fun served => unserved (List.contains_iff_mem.1 served)

end Mailbox

/-! ## The DOE mailbox -/

section Doe
variable {s : State}

theorem doeAnswer_answers (rails : s.kpr.railsUp = true) (link : s.hif.linkUp = true) (clean : s.hif.doeError = false)
    (bytes : List Nat) : doeAnswer bytes s = { emit (.doe bytes) s with hif := { s.hif with doeOut := bytes } } :=
  if_pos (by rw [rails, link, clean]; rfl)

theorem doeAnswer_silent (silent : s.kpr.railsUp = false ∨ s.hif.linkUp = false ∨ s.hif.doeError = true) (bytes : List Nat) :
    doeAnswer bytes s = s := by
  refine if_neg ?_
  rcases silent with rails | link | error
  · rw [rails, Bool.false_and, Bool.false_and]; decide
  · rw [link, Bool.and_false, Bool.false_and]; decide
  · rw [error, Bool.not_true, Bool.and_false]; decide

theorem doeRefuse_refuses (rails : s.kpr.railsUp = true) (link : s.hif.linkUp = true) :
    doeRefuse s = { s with hif := { s.hif with doeError := true, doeOut := [] } } := if_pos (by rw [rails, link]; rfl)

theorem doeTakes_taken {carried len : Nat} (short : len ≤ 65536) : doeTakes carried carried len = true := by
  rw [doeTakes, decide_eq_true rfl, decide_eq_true short]
  rfl

theorem doeTakes_refused {carried ty len : Nat} (wrong : ty ≠ carried ∨ 65536 < len) : doeTakes carried ty len = false := by
  rw [doeTakes]
  rcases wrong with type | long
  · rw [decide_eq_false type, Bool.false_and]
  · rw [decide_eq_false (Nat.not_le.2 long), Bool.and_false]

theorem doeDiscovery_answers {len : Nat} (short : len ≤ 65536) (i : Nat) : doDoeDiscovery i 0 len s =
    doeAnswer (if i < s.doeProtocols.length
      then nth [] s.doeProtocols i ++ [if i + 1 < s.doeProtocols.length then i + 1 else 0] else [0xFF, 0xFF, 0, 0]) s :=
  if_neg (by rw [doeTakes_taken short]; decide)

theorem cdatRead_answers {i len : Nat} (entry : i < cdatEntries.length) (cxl : 2 ≤ s.hif.mode) (short : len ≤ 65536) :
    doCdatRead i 2 len s = doeAnswer
      ([0, 0] ++ leBytes 2 (if i + 1 < cdatEntries.length then i + 1 else 0xFFFF) ++ nth [] cdatEntries i) s :=
  if_neg (by rw [decide_eq_false (Nat.not_lt.2 cxl), doeTakes_taken short, decide_eq_false (Nat.not_le.2 entry)]; decide)

theorem cdatRead_refuses {i ty len : Nat}
    (wrong : s.hif.mode < 2 ∨ ty ≠ 2 ∨ 65536 < len ∨ cdatEntries.length ≤ i) : doCdatRead i ty len s = doeRefuse s := by
  refine if_pos ?_
  rcases wrong with mode | type | long | entry
  · rw [decide_eq_true mode, Bool.true_or, Bool.true_or]
  · rw [doeTakes_refused (Or.inl type), Bool.not_false, Bool.or_true, Bool.true_or]
  · rw [doeTakes_refused (Or.inr long), Bool.not_false, Bool.or_true, Bool.true_or]
  · rw [decide_eq_true entry, Bool.or_true]

end Doe

/-! ## Attestation requests -/

section Attest
variable {s : State}

theorem attest_awake (awake : s.kpr.state ≠ .halted) (code status : Nat) (data : List Nat) :
    attest code status data s = doeAnswer ([code + 0x80, status, 0, 0] ++ data) s := if_neg awake

theorem attest_silent
    (silent : s.kpr.railsUp = false ∨ s.hif.linkUp = false ∨ s.hif.doeError = true ∨ s.kpr.state = .halted)
    (code status : Nat) (data : List Nat) : attest code status data s = s := by
  unfold attest
  split
  · rfl
  · next awake =>
    exact doeAnswer_silent (silent.imp_right fun rest => rest.imp_right fun rest => rest.resolve_right awake) _

theorem getCert_silent (silent : ∀ code status data, attest code status data s = s) (i : Nat) : doGetCert i s = s := by
  unfold doGetCert
  split
  · exact silent ..
  · exact silent ..

theorem getReport_unprovisioned (none_ : s.prt.identity = false) (nonce : List Nat) :
    doGetReport nonce s = attest 0x03 2 [] s := if_pos (by rw [none_]; rfl)

theorem getReport_provisioned (identity : s.prt.identity = true) (nonce : List Nat) : doGetReport nonce s =
    attest 0x03 0 (s.reportBody nonce ++ (List.range 3309).map (fun i => Config.signature s.fresh i % 256)) (useFresh s) :=
  if_neg (by rw [identity]; decide)

/-- The report carries the verifier's nonce at byte 16 of its body. -/
theorem reportBody_nonce (s : State) (nonce : List Nat) :
    ∃ head tail, head.length = 16 ∧ s.reportBody nonce = head ++ (slice nonce 0 32 ++ tail) := by
  exact ⟨leBytes 2 (Config.vendorId % 65536) ++ leBytes 2 0x4C56 ++ [s.fuses.grade, s.kpr.state.code, s.prt.scope,
    match s.dev.image with | none => 0 | some i => 1 + 2 * b2n s.dev.inForce + 4 * b2n (decide (i.keySlot = 1))]
    ++ leBytes 8 s.fuses.serial, _, by simp only [List.length_append, length_leBytes, List.length_cons, List.length_nil],
    by
      unfold State.reportBody
      simp only [List.append_assoc]
      rfl⟩

end Attest

/-- The bytes of a report: its head, and the nonce. -/
theorem report_bytes (s : State) {nonce : List Nat} (length : nonce.length = 32) (signature : List Nat) :
    ([0x83, 0, 0, 0] ++ (s.reportBody nonce ++ signature)).take 4 = [0x83, 0, 0, 0] ∧
    (([0x83, 0, 0, 0] ++ (s.reportBody nonce ++ signature)).drop 20).take 32 = nonce := by
  obtain ⟨head, tail, long, body⟩ := reportBody_nonce s nonce
  refine ⟨rfl, ?_⟩
  rw [body, slice_all length, List.append_assoc, List.append_assoc, ← List.append_assoc [0x83, 0, 0, 0] head,
    List.drop_left' (by rw [List.length_append, long]; rfl), List.take_left' length]

/-! ## The obligation -/

/-- Settles O47: the mailbox through `mailbox`, DOE through `doeAnswer` and `doeRefuse`, attestation through `attest`. -/
theorem mailboxAndDoe : Obligations.MailboxAndDoe := by
  unfold Obligations.MailboxAndDoe
  refine ⟨?mailbox, ?unserved, ?log, ?clearAll, ?clear, ?dead, ?protocol, ?noProtocol, ?cdat, ?badDiscovery, ?badCdat, ?abort,
    ?records, ?cert, ?noReport, ?report, ?silent, ?noAbort, ?unattested⟩
  case mailbox =>
    intro s live
    exact ⟨_, _, _, _, congrArg Host.Outcome.next (mailbox_live live _ _), congrArg Host.Outcome.next (mailbox_live live _ _),
      congrArg Host.Outcome.next (mailbox_live live _ _), congrArg Host.Outcome.next (getHealthInfo_live live), rfl, rfl⟩
  case unserved =>
    intro s op live unserved
    rw [exec_unsupportedMailboxOpcode unserved, mailbox_live live]
  case log =>
    intro s off len live
    exact congrArg Host.Outcome.next (mailbox_live live _ _)
  case clearAll =>
    intro s live
    exact congrArg Host.Outcome.next (clearEventRecords_live live [])
  case clear =>
    intro s l live some_
    refine (congrArg Host.Outcome.next (clearEventRecords_live live (l.map (fun x => x % 65536)))).trans ?_
    rw [if_neg (by rw [List.isEmpty_iff, List.map_eq_nil_iff]; exact some_)]
  case dead =>
    intro s l op off len dead unserved
    refine ⟨congrArg Host.Outcome.next (mailbox_dead dead _ _), congrArg Host.Outcome.next (mailbox_dead dead _ _),
      congrArg Host.Outcome.next (mailbox_dead dead _ _), congrArg Host.Outcome.next (getHealthInfo_dead dead),
      congrArg Host.Outcome.next (clearEventRecords_dead dead _), congrArg Host.Outcome.next (mailbox_dead dead _ _), ?_⟩
    rw [exec_unsupportedMailboxOpcode unserved, mailbox_dead dead]
  case protocol =>
    intro s i len rails link clean known byte short
    have answer := (doeDiscovery_answers (s := s) short i).trans (doeAnswer_answers rails link clean _)
    rw [if_pos known, ← Nat.mod_eq_of_lt byte] at answer
    rw [Nat.mod_eq_of_lt byte] at answer
    refine Eq.trans ?_ (congrArg Host.Outcome.next answer)
    exact congrArg (fun n => Host.Outcome.next (doDoeDiscovery n 0 len s)) (Nat.mod_eq_of_lt byte)
  case noProtocol =>
    intro s i len rails link clean byte unknown short
    have answer := (doeDiscovery_answers (s := s) short i).trans (doeAnswer_answers rails link clean _)
    rw [if_neg (Nat.not_lt.2 unknown)] at answer
    refine Eq.trans ?_ (congrArg Host.Outcome.next answer)
    exact congrArg (fun n => Host.Outcome.next (doDoeDiscovery n 0 len s)) (Nat.mod_eq_of_lt byte)
  case cdat =>
    intro s i len rails link clean entry cxl short
    exact congrArg Host.Outcome.next ((cdatRead_answers entry cxl short).trans (doeAnswer_answers rails link clean _))
  case badDiscovery =>
    intro s i ty len rails link wrong
    exact congrArg Host.Outcome.next
      ((if_pos (by rw [doeTakes_refused wrong]; rfl)).trans (doeRefuse_refuses rails link))
  case badCdat =>
    intro s i ty len rails link wrong
    exact congrArg Host.Outcome.next ((cdatRead_refuses wrong).trans (doeRefuse_refuses rails link))
  case abort =>
    intro s rails link
    exact congrArg Host.Outcome.next (if_pos (by rw [rails, link]; rfl))
  case records =>
    intro s rails link clean awake
    exact ⟨congrArg Host.Outcome.next ((attest_awake awake _ _ _).trans (doeAnswer_answers rails link clean _)),
      congrArg Host.Outcome.next ((attest_awake awake _ _ _).trans (doeAnswer_answers rails link clean _))⟩
  case cert =>
    intro s i rails link clean awake byte
    refine (congrArg (fun n => Host.Outcome.next (doGetCert n s)) (Nat.mod_eq_of_lt byte)).trans
      (congrArg Host.Outcome.next ?_)
    unfold doGetCert
    split
    · exact (attest_awake awake _ _ _).trans (doeAnswer_answers rails link clean _)
    · exact (attest_awake awake _ _ _).trans (doeAnswer_answers rails link clean _)
  case noReport =>
    intro s l rails link clean awake none_
    exact congrArg Host.Outcome.next ((getReport_unprovisioned none_ _).trans
      ((attest_awake awake _ _ _).trans (doeAnswer_answers rails link clean _)))
  case report =>
    intro s l rails link clean awake length bytes identity
    have nonce : toBytes (slice l 0 32) = l := by rw [slice_all length, toBytes_of_bytes bytes]
    have answer := (getReport_provisioned identity l).trans ((attest_awake (s := useFresh s) awake _ _ _).trans
      (doeAnswer_answers (s := useFresh s) rails link clean _))
    have report := report_bytes s length ((List.range 3309).map (fun i => Config.signature s.fresh i % 256))
    generalize s.reportBody l ++ (List.range 3309).map (fun i => Config.signature s.fresh i % 256) = body at answer report
    exact ⟨_, (congrArg (fun l => Host.Outcome.next (doGetReport l s)) nonce).trans (congrArg Host.Outcome.next answer), rfl,
      report.1, report.2⟩
  case silent =>
    intro s i len silent short entry cxl
    exact ⟨congrArg Host.Outcome.next ((doeDiscovery_answers short _).trans (doeAnswer_silent silent _)),
      congrArg Host.Outcome.next ((cdatRead_answers entry cxl short).trans (doeAnswer_silent silent _))⟩
  case noAbort =>
    intro s dark
    refine congrArg Host.Outcome.next (if_neg ?_)
    rcases dark with rails | link
    · rw [rails, Bool.false_and]; decide
    · rw [link, Bool.and_false]; decide
  case unattested =>
    intro s i l silent
    exact ⟨congrArg Host.Outcome.next (attest_silent silent ..), congrArg Host.Outcome.next (getCert_silent (attest_silent silent) _),
      congrArg Host.Outcome.next (attest_silent silent ..), congrArg Host.Outcome.next
        ((getReport_unprovisioned (s := { s with prt := { s.prt with identity := false } }) rfl _).trans
          (attest_silent (s := { s with prt := { s.prt with identity := false } }) silent ..))⟩

end Sys2Proof.Proofs
end


section
/-! A counterexample about votes: the ring takes no event below `EVT.CTRL.min_severity` (R396). -/
namespace Sys2Proof.Proofs
set_option Elab.async false
open Sys2Proof.Machine Sys2Proof.Laws

/-- An image of a lockstep group of one other member, device 1. -/
def pairImage : Image where
  version := 1
  length := 0
  sigOff := 0
  keySlot := 0
  minFw := 0
  imageId := 0
  roundSeed := 0
  sections := [{ ty := 0x0B, records := 34, offset := 0, size := 1088
                 bytes := [0, 0, 0, 0, 1] ++ List.replicate 1051 0 ++ [1] }]
  digest := []

/-- A device of the group in RUNNING whose ring takes fatal events only. -/
def deafMember : State := { State.reset with
  kpr := { State.reset.kpr with railsUp := true, boot := .romRuns, state := .running }
  dev := { State.reset.dev with inForce := true, image := some pairImage }
  evt := { State.reset.evt with minSev := 3 } }

/-- A vote of device 1 for frame 0 with a start that is not this device's. -/
def otherStart : List Nat := [1, 0, 1] ++ List.replicate 13 0 ++ [1]

/-- The sequence number of the next event after a command. -/
def nextSeqAfter (o : Host.Outcome State Fault Refusal) : Nat :=
  match o with
  | .next t => t.evt.nextSeq
  | _ => 0

theorem nextSeqAfter_otherStart :
    nextSeqAfter (exec (.statusRecordReceive otherStart) deafMember) = deafMember.evt.nextSeq := by decide +kernel

/-- Refutes O51, its clause on a vote with other timing: the event has severity 2 (error), and where
`EVT.CTRL.min_severity` is 3 it is filtered (log 101 has no such case), so that the sequence number stays. -/
theorem not_alignmentAndLockstep : ¬ Obligations.AlignmentAndLockstep := by
  unfold Obligations.AlignmentAndLockstep
  rintro ⟨_, _, _, _, _, _, _, _, _, _, _, _, _, _, _, divergent, _⟩
  obtain ⟨t, next, _, _, _, _, nextSeq, _⟩ := divergent deafMember otherStart (by decide +kernel) (by decide) rfl
    (by decide) (Or.inl (by decide))
  have shown := nextSeqAfter_otherStart
  rw [next] at shown
  exact absurd (nextSeq.symm.trans shown) (by decide)

end Sys2Proof.Proofs
end


section
/-! Link outputs and links that go down (R259, R266, R267, R274). -/
namespace Sys2Proof.Proofs
set_option Elab.async false
open Sys2Proof.Machine Sys2Proof.Laws

/-! ## One link -/

theorem setLink_self {l : Nat} {f : Link → Link} {s : State} (same : f (s.linkOf l) = s.linkOf l) : setLink l f s = s := by
  have links : setNth s.lnk.links l (f (nth {} s.lnk.links l)) = s.lnk.links := by
    rw [show f (nth {} s.lnk.links l) = nth {} s.lnk.links l from same, setNth_nth]
  rw [setLink, links]

theorem setLink_congr {l : Nat} {f g : Link → Link} {s : State} (same : f (s.linkOf l) = g (s.linkOf l)) :
    setLink l f s = setLink l g s := by
  rw [setLink, setLink]
  exact congrArg (fun x => { s with lnk := { s.lnk with links := setNth s.lnk.links l x } }) same

theorem setLink_setLink {l : Nat} (f g : Link → Link) {s : State} (inside : l < s.lnk.links.length) :
    setLink l g (setLink l f s) = setLink l (fun x => g (f x)) s := by
  have there : nth {} (setNth s.lnk.links l (f (nth {} s.lnk.links l))) l = f (nth {} s.lnk.links l) :=
    nth_setNth_same {} _ inside
  rw [setLink, setLink, setLink]
  simp only [there, setNth_setNth]

/-- A link that is not as an absent one stands in the list. -/
theorem link_inside {s : State} {l : Nat} (real : s.linkOf l ≠ {}) : l < s.lnk.links.length := by
  refine Nat.lt_of_not_ge fun outside => real ?_
  rw [State.linkOf, nth, List.getElem?_eq_none outside]
  rfl

theorem link_inside_of_state {s : State} {l : Nat} {st : LinkState} (state : (s.linkOf l).state = st)
    (real : st ≠ .unlicensed) : l < s.lnk.links.length :=
  link_inside fun absent => real (by rw [← state, absent])

theorem trained_state {x : Link} (trained : x.trained = true) : x.state = .up ∨ x.state = .wrongNeighbour := by
  rw [Link.trained, Bool.or_eq_true, decide_eq_true_eq, decide_eq_true_eq] at trained
  exact trained

theorem link_inside_of_trained {s : State} {l : Nat} (trained : (s.linkOf l).trained = true) : l < s.lnk.links.length := by
  rcases trained_state trained with up | wrong
  · exact link_inside_of_state up (by decide)
  · exact link_inside_of_state wrong (by decide)

theorem usable_up {x : Link} (usable : x.usable = true) : x.state = .up := by
  rw [Link.usable, Bool.and_eq_true, decide_eq_true_eq] at usable
  exact usable.1

theorem mem_of_pick {ls : List Nat} {i l : Nat}
    (pick : (match ls with | [] => none | _ => ls[i % ls.length]?) = some l) : l ∈ ls := by
  cases ls with
  | nil => cases pick
  | cons a t => exact List.mem_of_getElem? pick

theorem routeTo_usable {s : State} {dest endpoint l : Nat} (route : s.routeTo dest endpoint = some l) :
    (s.linkOf l).usable = true :=
  ((Bool.and_eq_true _ _).mp (List.mem_filter.1 (mem_of_pick route)).2).2

/-! ## What sending changes of a link -/

/-- The second link is the first but for its buffers, credits and the number of the next flit. -/
def SameLink (x y : Link) : Prop :=
  y = { x with sendSeq := y.sendSeq, replay := y.replay, owed := y.owed, usedCredits := y.usedCredits, waiting := y.waiting }

theorem SameLink.refl (x : Link) : SameLink x x := rfl

theorem SameLink.trans {x y z : Link} (first : SameLink x y) (second : SameLink y z) : SameLink x z := by
  unfold SameLink at *
  rw [second, first]

theorem SameLink.state {x y : Link} (same : SameLink x y) : y.state = x.state := by rw [same]
theorem SameLink.width {x y : Link} (same : SameLink x y) : y.width = x.width := by rw [same]
theorem SameLink.lanesGood {x y : Link} (same : SameLink x y) : y.lanesGood = x.lanesGood := by rw [same]
theorem SameLink.expectSeq {x y : Link} (same : SameLink x y) : y.expectSeq = x.expectSeq := by rw [same]
theorem SameLink.quiesce {x y : Link} (same : SameLink x y) : y.quiesce = x.quiesce := by rw [same]
theorem SameLink.usable {x y : Link} (same : SameLink x y) : y.usable = x.usable := by
  rw [Link.usable, Link.usable, same.state, same.quiesce]

/-- The links stand as before but for what links that are up send. -/
def LinksKept (s t : State) : Prop :=
  t.lnk.links.length = s.lnk.links.length ∧ (∀ l, SameLink (s.linkOf l) (t.linkOf l)) ∧
  (∀ l, (s.linkOf l).state ≠ .up → t.linkOf l = s.linkOf l) ∧
  t.lnk.carts = s.lnk.carts ∧ t.lnk.fwd = s.lnk.fwd ∧ t.lnk.id = s.lnk.id ∧ t.lnk.assigned = s.lnk.assigned

theorem linkOf_congr {s t : State} (links : t.lnk.links = s.lnk.links) (l : Nat) : t.linkOf l = s.linkOf l := by
  rw [State.linkOf, State.linkOf, links]

theorem LinksKept.of_links {s t : State} (links : t.lnk.links = s.lnk.links) (carts : t.lnk.carts = s.lnk.carts)
    (fwd : t.lnk.fwd = s.lnk.fwd) (id : t.lnk.id = s.lnk.id) (assigned : t.lnk.assigned = s.lnk.assigned) : LinksKept s t :=
  ⟨by rw [links], fun l => by rw [linkOf_congr links]; exact SameLink.refl _, fun l _ => linkOf_congr links l, carts, fwd, id,
    assigned⟩

theorem LinksKept.of_lnk {s t : State} (lnk : t.lnk = s.lnk) : LinksKept s t :=
  LinksKept.of_links (by rw [lnk]) (by rw [lnk]) (by rw [lnk]) (by rw [lnk]) (by rw [lnk])

theorem LinksKept.refl (s : State) : LinksKept s s := LinksKept.of_lnk rfl

theorem LinksKept.trans {s t u : State} (first : LinksKept s t) (second : LinksKept t u) : LinksKept s u := by
  obtain ⟨length, same, still, carts, fwd, id, assigned⟩ := first
  obtain ⟨length', same', still', carts', fwd', id', assigned'⟩ := second
  refine ⟨length'.trans length, fun l => (same l).trans (same' l), fun l down => ?_, carts'.trans carts, fwd'.trans fwd,
    id'.trans id, assigned'.trans assigned⟩
  rw [still' l (by rw [(same l).state]; exact down), still l down]

theorem LinksKept.foldl {α : Type} {f : State → α → State} (step : ∀ s x, LinksKept s (f s x)) (l : List α) (s : State) :
    LinksKept s (l.foldl f s) := by
  induction l generalizing s with
  | nil => exact LinksKept.refl s
  | cons x l ih => exact (step s x).trans (ih (f s x))

theorem LinksKept.routeTo {s t : State} (kept : LinksKept s t) (dest endpoint : Nat) :
    t.routeTo dest endpoint = s.routeTo dest endpoint := by
  obtain ⟨_, same, _, _, fwd, _⟩ := kept
  have set : t.fwdSet dest = s.fwdSet dest := by rw [State.fwdSet, State.fwdSet, fwd]
  have links : (fun l => bit (t.fwdSet dest) l && (t.linkOf l).usable) = fun l => bit (s.fwdSet dest) l && (s.linkOf l).usable :=
    funext fun l => by rw [set, (same l).usable]
  unfold State.routeTo
  simp only [links]

/-- Besides the links only the outputs differ, and of the links what sending changes. -/
def SendsOnly (s t : State) : Prop :=
  (∃ links out, t = { s with lnk := { s.lnk with links := links }, out := out }) ∧ LinksKept s t

theorem SendsOnly.refl (s : State) : SendsOnly s s := ⟨⟨s.lnk.links, s.out, rfl⟩, LinksKept.refl s⟩

theorem SendsOnly.trans {s t u : State} (first : SendsOnly s t) (second : SendsOnly t u) : SendsOnly s u := by
  obtain ⟨⟨_, _, left⟩, kept⟩ := first
  obtain ⟨⟨links, out, right⟩, kept'⟩ := second
  exact ⟨⟨links, out, by rw [right, left]⟩, kept.trans kept'⟩

theorem SendsOnly.kept {s t : State} (sends : SendsOnly s t) : LinksKept s t := sends.2

theorem linksKept_setLink {l : Nat} {f : Link → Link} {s : State} (same : SameLink (s.linkOf l) (f (s.linkOf l)))
    (up : (s.linkOf l).state = .up) : LinksKept s (setLink l f s) := by
  have inside := link_inside_of_state up (by decide)
  refine ⟨length_setLink .., fun k => ?_, fun k down => ?_, rfl, rfl, rfl, rfl⟩
  · by_cases this : k = l
    · rw [this, linkOf_setLink_same f inside]; exact same
    · rw [linkOf_setLink_other f s this]; exact SameLink.refl _
  · exact linkOf_setLink_other f s fun this => down (by rw [this]; exact up)

theorem sendsOnly_setLink {l : Nat} {f : Link → Link} {s : State} (same : SameLink (s.linkOf l) (f (s.linkOf l)))
    (up : (s.linkOf l).state = .up) : SendsOnly s (setLink l f s) := ⟨⟨_, s.out, rfl⟩, linksKept_setLink same up⟩

theorem SendsOnly.emit {s t : State} (sends : SendsOnly s t) (o : Output) : SendsOnly s (emit o t) := by
  obtain ⟨⟨links, out, eq⟩, kept⟩ := sends
  exact ⟨⟨links, o :: out, by rw [eq]; rfl⟩, kept.trans (LinksKept.of_lnk rfl)⟩

/-! ## Sending -/

section Sending
variable {s : State} {l : Nat} (up : (s.linkOf l).state = .up)
include up

theorem sendsOnly_transmit (f : Flit) : SendsOnly s (transmit l f s) :=
  (sendsOnly_setLink (by rw [SameLink]) up).emit _

theorem sendsOnly_sendIdle : SendsOnly s (sendIdle l s) := (sendsOnly_setLink (by rw [SameLink]) up).emit _

theorem sendsOnly_oweCredit (c : Nat) : SendsOnly s (oweCredit l c s) := sendsOnly_setLink (by rw [SameLink]) up

end Sending

theorem sendsOnly_freeBuffer (p : Option (Nat × Nat)) (s : State) : SendsOnly s (freeBuffer p s) := by
  cases p with
  | none => exact SendsOnly.refl s
  | some p =>
    unfold freeBuffer
    split
    · next l c eq =>
      split
      · next up =>
        have owed := sendsOnly_oweCredit up c
        exact owed.trans (sendsOnly_sendIdle (by rw [(owed.kept.2.1 l).state]; exact up))
      · exact SendsOnly.refl s
    · exact SendsOnly.refl s

theorem canSend_up {x : Link} {f : Flit} (can : x.canSend f = true) : x.state = .up := by
  rw [Link.canSend, Bool.and_eq_true, Bool.and_eq_true, decide_eq_true_eq] at can
  exact can.1.1

/-- A flit that may go out waits there, and the link is up. -/
theorem nextOut_mem {x : Link} {o : OutFlit} (next : x.nextOut = some o) :
    o ∈ x.waiting ∧ x.canSend (x.leaving o.flit) = true := by
  have ready : o ∈ x.waiting.filter (fun o => x.canSend (x.leaving o.flit)) := by
    unfold Link.nextOut at next
    extract_lets ready at next
    split at next
    · next found => exact Option.some.inj next ▸ List.mem_of_find?_eq_some found
    · split at next
      · next found => exact Option.some.inj next ▸ List.mem_of_find?_eq_some found
      · exact List.mem_of_mem_head? next
  exact List.mem_filter.1 ready

theorem sendsOnly_drainLink (l n : Nat) (s : State) : SendsOnly s (drainLink l n s) := by
  induction n generalizing s with
  | zero => exact SendsOnly.refl s
  | succ n ih =>
    rw [drainLink]
    split
    · exact SendsOnly.refl s
    · next o next =>
      have up := canSend_up (nextOut_mem next).2
      have taken : SendsOnly s (setLink l (fun x => { x with waiting := dropOut o x.waiting }) s) :=
        sendsOnly_setLink (by rw [SameLink]) up
      have sent := taken.trans (sendsOnly_transmit (by rw [(taken.kept.2.1 l).state]; exact up) ((s.linkOf l).leaving o.flit))
      exact sent.trans ((sendsOnly_freeBuffer _ _).trans (ih _))

theorem nextOut_empty {x : Link} (empty : x.waiting = []) : x.nextOut = none := by
  unfold Link.nextOut
  rw [empty]
  rfl

theorem drainLink_empty {s : State} {l : Nat} (n : Nat) (empty : (s.linkOf l).waiting = []) : drainLink l n s = s := by
  cases n with
  | zero => rfl
  | succ n => rw [drainLink, nextOut_empty empty]

theorem nextOut_down {x : Link} (down : x.state ≠ .up) : x.nextOut = none := by
  cases next : x.nextOut with
  | none => rfl
  | some o => exact absurd (canSend_up (nextOut_mem next).2) down

theorem drainLink_down {s : State} {l : Nat} (n : Nat) (down : (s.linkOf l).state ≠ .up) : drainLink l n s = s := by
  cases n with
  | zero => rfl
  | succ n => rw [drainLink, nextOut_down down]

theorem sendsOnly_queueFrom (p : Option (Nat × Nat)) {l : Nat} (f : Flit) {s : State} (up : (s.linkOf l).state = .up) :
    SendsOnly s (queueFrom p l f s) :=
  (sendsOnly_setLink (by rw [SameLink]) up).trans (sendsOnly_drainLink ..)

theorem linksKept_sendResponse (f : Flit) (s : State) : LinksKept s (sendResponse f s) := by
  unfold sendResponse
  split
  · next l route => exact (sendsOnly_queueFrom none f (usable_up (routeTo_usable route))).kept
  · exact LinksKept.of_links rfl rfl rfl rfl rfl

/-! ## What is lost when a link goes down -/

theorem linksKept_ownAnswer (endpoint tag status : Nat) (data : List Nat) (s : State) :
    LinksKept s (ownAnswer endpoint tag status data s) := by
  have free : false = false := rfl
  unfold ownAnswer
  split
  · exact LinksKept.refl s
  · next r _ =>
    extract_lets t d
    have dropped : LinksKept s t := LinksKept.of_links rfl rfl rfl rfl rfl
    refine dropped.trans ?_
    split
    · exact LinksKept.of_links rfl rfl rfl rfl rfl
    · split
      · exact LinksKept.refl t
      · next e _ =>
        split
        · have kept : Keeps (Untouched.allBut [.cores]) t (gotPiece r.core r.uid t) := gotPiece_keeps _ _ t (Keeps.refl t)
          exact LinksKept.of_lnk (kept.lnk rfl)
        · split
          · exact LinksKept.refl t
          · have kept : Keeps (Untouched.allBut [.reports, .hif, .frm, .cores]) t (faultEntry r.core e (statusFault status) t) :=
              faultEntry_keeps _ _ _ t (Keeps.refl t)
            exact LinksKept.of_lnk (kept.lnk rfl)

theorem linksKept_loseFlit (own : Bool) (f : Flit) (s : State) : LinksKept s (loseFlit own f s) := by
  unfold loseFlit
  split
  · exact LinksKept.refl s
  · split
    · exact linksKept_ownAnswer ..
    · exact linksKept_sendResponse ..

theorem linksKept_discardFlit (own : Bool) (f : Flit) (s : State) : LinksKept s (discardFlit own f s) :=
  (LinksKept.of_links (t := countUnreachable s) rfl rfl rfl rfl rfl).trans (linksKept_loseFlit ..)

theorem linksKept_discardAll (l : List Flit) (s : State) : LinksKept s (discardAll l s) := by
  induction l generalizing s with
  | nil => exact LinksKept.refl s
  | cons f l ih => exact (linksKept_loseFlit ..).trans (ih _)

theorem linksKept_reroute (l : List OutFlit) (s : State) : LinksKept s (reroute l s) := by
  induction l generalizing s with
  | nil => exact LinksKept.refl s
  | cons o l ih =>
    rw [reroute]
    refine LinksKept.trans ?_ (ih _)
    split
    · next l route => exact (sendsOnly_queueFrom _ _ (usable_up (routeTo_usable route))).kept
    · exact (linksKept_discardFlit ..).trans (sendsOnly_freeBuffer _ _).kept

/-! ## A link goes down -/

/-- A link as it goes down. -/
def downed (st : LinkState) (x : Link) : Link := { x with
  state := st, width := 0, lanesUsed := 0, replay := [], waiting := [], usedCredits := [0, 0, 0, 0], owed := [0, 0],
  sendSeq := 0, expectSeq := 0, again := 0, symbol := none, addLanes := 0, newLanes := 0, newAt := []
  neighbourKnown := false }

/-- A waiting flit, which stands in no receiver buffer of link `l` any more. -/
def released (l : Nat) (o : OutFlit) : OutFlit :=
  if o.from_.any (fun p => decide (p.1 = l)) then { o with from_ := none } else o

/-- Link `l` is down, and nothing waits for its receiver buffers. -/
def cleared (l : Nat) (st : LinkState) (s : State) : State := leaveBuffers l (setLink l (downed st) s)

theorem linkDown_eq (l : Nat) (st : LinkState) (s : State) : linkDown l st s =
    noteLoss l (reroute ((s.linkOf l).waiting.map (released l))
      (discardAll ((s.linkOf l).replay.map (fun f => f.flit)) (cleared l st s))) := rfl

theorem linkOf_leaveBuffers (l k : Nat) (s : State) :
    (leaveBuffers l s).linkOf k = { s.linkOf k with waiting := (s.linkOf k).waiting.map (released l) } := by
  rw [State.linkOf, State.linkOf, leaveBuffers, nth, nth, List.getElem?_map]
  cases s.lnk.links[k]? with
  | none => rfl
  | some x => rfl

section Down
variable {s : State} {l : Nat} (inside : l < s.lnk.links.length) (st : LinkState)

include inside in
theorem linkOf_cleared_same : (cleared l st s).linkOf l = downed st (s.linkOf l) := by
  rw [cleared, linkOf_leaveBuffers, linkOf_setLink_same _ inside]
  rfl

theorem linkOf_cleared_other {k : Nat} (other : k ≠ l) :
    (cleared l st s).linkOf k = { s.linkOf k with waiting := (s.linkOf k).waiting.map (released l) } := by
  rw [cleared, linkOf_leaveBuffers, linkOf_setLink_other _ _ other]

theorem length_cleared : (cleared l st s).lnk.links.length = s.lnk.links.length := by
  rw [cleared, leaveBuffers]
  exact (List.length_map ..).trans (length_setLink ..)

theorem linkOf_noteLoss_other {k : Nat} (other : k ≠ l) : (noteLoss l s).linkOf k = s.linkOf k :=
  linkOf_setLink_other _ _ other

include inside in
theorem linkOf_noteLoss_same : ∃ lost, (noteLoss l s).linkOf l = { s.linkOf l with lost := lost } :=
  ⟨_, linkOf_setLink_same _ inside⟩

/-- A link that goes down stays as it was left, but for a note of its loss. -/
theorem linkDown_same (inside : l < s.lnk.links.length) (down : st ≠ .up) :
    ∃ lost, (linkDown l st s).linkOf l = { downed st (s.linkOf l) with lost := lost } := by
  have kept := (linksKept_discardAll ((s.linkOf l).replay.map (fun f => f.flit)) (cleared l st s)).trans
    (linksKept_reroute ((s.linkOf l).waiting.map (released l)) _)
  rw [linkDown_eq]
  generalize reroute ((s.linkOf l).waiting.map (released l))
    (discardAll ((s.linkOf l).replay.map (fun f => f.flit)) (cleared l st s)) = z at kept ⊢
  obtain ⟨length, _, still, _⟩ := kept
  have here := linkOf_cleared_same inside st
  have same : z.linkOf l = downed st (s.linkOf l) := by rw [still l (by rw [here]; exact down), here]
  rw [← same]
  exact linkOf_noteLoss_same (by rw [length, length_cleared]; exact inside)

theorem linkDown_other {k : Nat} (other : k ≠ l) : SameLink (s.linkOf k) ((linkDown l st s).linkOf k) := by
  obtain ⟨_, same, _⟩ := (linksKept_discardAll ((s.linkOf l).replay.map (fun f => f.flit)) (cleared l st s)).trans
    (linksKept_reroute ((s.linkOf l).waiting.map (released l)) _)
  rw [linkDown_eq, linkOf_noteLoss_other other]
  have left : SameLink (s.linkOf k) ((cleared l st s).linkOf k) := by rw [linkOf_cleared_other st other, SameLink]
  exact left.trans (same k)

theorem linkDown_length : (linkDown l st s).lnk.links.length = s.lnk.links.length := by
  obtain ⟨length, _⟩ := (linksKept_discardAll ((s.linkOf l).replay.map (fun f => f.flit)) (cleared l st s)).trans
    (linksKept_reroute ((s.linkOf l).waiting.map (released l)) _)
  rw [linkDown_eq]
  exact (length_setLink ..).trans (length.trans (length_cleared st))

theorem linkDown_carts : (linkDown l st s).lnk.carts = s.lnk.carts := by
  obtain ⟨_, _, _, carts, _⟩ := (linksKept_discardAll ((s.linkOf l).replay.map (fun f => f.flit)) (cleared l st s)).trans
    (linksKept_reroute ((s.linkOf l).waiting.map (released l)) _)
  rw [linkDown_eq]
  exact carts

/-- A link with nothing in it goes down alone. -/
theorem linkDown_empty (replay : (s.linkOf l).replay = []) (waiting : (s.linkOf l).waiting = []) :
    linkDown l st s = noteLoss l (cleared l st s) := by
  rw [linkDown_eq, replay, waiting]
  rfl

end Down

end Sys2Proof.Proofs
end


section
/-! The registers of the links, remote access and the neighbours' announcements (R264, R266, R272, R275, R276, R284). -/
namespace Sys2Proof.Proofs
set_option Elab.async false
open Sys2Proof.Machine Sys2Proof.Laws

/-! ## `LNK.DEVICE` and `LNK.FWD` -/

/-- The device's ID, and the routes it has. -/
def SameDevice (s t : State) : Prop :=
  t.lnk.assigned = s.lnk.assigned ∧ t.lnk.id = s.lnk.id ∧ t.lnk.fwd = s.lnk.fwd

theorem SameDevice.trans {s t u : State} (first : SameDevice s t) (second : SameDevice t u) : SameDevice s u :=
  ⟨second.1.trans first.1, second.2.1.trans first.2.1, second.2.2.trans first.2.2⟩

theorem sameDevice_loseAlignment (s : State) : SameDevice s (loseAlignment s) := by
  unfold loseAlignment
  split
  · exact ⟨rfl, rfl, rfl⟩
  · have free : false = false := rfl
    have kept : Keeps (Untouched.allBut [.reports, .hif])
        { s with lnk := { s.lnk with locked := false }, frm := { s.frm with voteBad := true } }
        (raise 0x0044 1 s.lnk.upstream [ofSigned 32 s.lnk.offset]
          { s with lnk := { s.lnk with locked := false }, frm := { s.frm with voteBad := true } }) :=
      raise_keeps _ _ _ _ _ (Keeps.refl _) rfl
    have lnk := kept.lnk rfl
    exact ⟨by rw [lnk], by rw [lnk], by rw [lnk]⟩

theorem sameDevice_judgeMaster (s : State) : SameDevice s (judgeMaster s) := by
  unfold judgeMaster
  split
  · exact (sameDevice_loseAlignment s).trans ⟨rfl, rfl, rfl⟩
  · split
    · split
      · exact (sameDevice_loseAlignment s).trans ⟨rfl, rfl, rfl⟩
      · exact ⟨rfl, rfl, rfl⟩
    · next l y _ =>
      extract_lets own m changed t u
      have told : SameDevice s t := by
        unfold t
        split
        · exact sameDevice_loseAlignment s
        · exact ⟨rfl, rfl, rfl⟩
      split
      · split
        · exact told.trans ⟨rfl, rfl, rfl⟩
        · exact told.trans ⟨rfl, rfl, rfl⟩
      · exact told.trans ⟨rfl, rfl, rfl⟩

/-- The device with another ID. -/
def named (v : Nat) (s : State) : State := { s with lnk := { s.lnk with assigned := bit v 16, id := field v 0 16 } }

section Device
variable {s : State} {v : Nat} (up : s.hostUp = true)
include up

theorem writeLnkDevice_writes (here : s.inStates [.rom, .ready] = true) (small : v < 2 ^ 17) :
    writeLnkDevice v s = judgeMaster (announce (named v s)) :=
  (regWrite_runs up (fits_low 0 small (by decide) (by decide))).trans (inState_runs up here)

theorem writeLnkDevice_refused (elsewhere : s.inStates [.rom, .ready] = false) (small : v < 2 ^ 17) :
    writeLnkDevice v s = refuse 0x600008 v 0x0120 s :=
  (regWrite_runs up (fits_low 0 small (by decide) (by decide))).trans (inState_refuses up elsewhere)

/-- A bit above the writable ones does not fit. -/
theorem writeLnkDevice_reserved (small : v < 2 ^ 64) (reserved : 2 ^ 17 ≤ v) :
    writeLnkDevice v s = refuse 0x600008 v 0x0123 s := by
  refine regWrite_refuses up fun clear => ?_
  have none_ : v / 2 ^ 17 &&& (2 ^ 47 - 1) = 0 := by
    refine Nat.eq_of_testBit_eq fun i => ?_
    have bits := congrArg (fun x => x.testBit (i + 17)) clear
    simp only [Nat.testBit_and, Nat.testBit_xor, Nat.zero_testBit, Nat.testBit_two_pow_sub_one, Nat.or_zero] at bits
    rw [show (0x1FFFF : Nat) = 2 ^ 17 - 1 from rfl, Nat.testBit_two_pow_sub_one] at bits
    rw [Nat.testBit_and, Nat.testBit_div_two_pow, Nat.testBit_two_pow_sub_one, Nat.zero_testBit]
    by_cases low : i < 47
    · rw [decide_eq_true (by omega : i + 17 < 64), decide_eq_false (by omega : ¬ i + 17 < 17)] at bits
      rw [decide_eq_true low]
      exact bits
    · rw [decide_eq_false low, Bool.and_false]
  rw [Nat.and_two_pow_sub_one_eq_mod, Nat.mod_eq_of_lt (by omega)] at none_
  omega

theorem writeFwd_writes {j : Nat} (here : s.inStates lnkStates = true) :
    writeFwd j v s = { s with lnk := { s.lnk with fwd := mapSet 0 s.lnk.fwd j v } } := by
  unfold writeFwd
  rw [inState_runs up here]

theorem writeFwd_refused {j : Nat} (elsewhere : s.inStates lnkStates = false) :
    writeFwd j v s = refuse (0x640000 + 8 * j) v 0x0120 s := by
  unfold writeFwd
  rw [inState_refuses up elsewhere]

end Device

theorem exec_lnkDeviceWrite {v : Nat} (small : v < 2 ^ 64) (s : State) :
    exec (.lnkDeviceWrite v) s = .next (writeLnkDevice v s) :=
  congrArg (fun v => Host.Outcome.next (writeLnkDevice v s)) (Nat.mod_eq_of_lt small)

theorem exec_lnkFwdWrite {j : Nat} (entry : j < 32768) (v : Nat) (s : State) :
    exec (.lnkFwdWrite j v) s = .next (writeFwd j (v % 2 ^ 64) s) := onUnit_runs entry

theorem field_mod {v lo w n : Nat} (inside : lo + w ≤ n) : field (v % 2 ^ n) lo w = field v lo w := by
  rw [field, field]
  have split : 2 ^ n = 2 ^ lo * 2 ^ (n - lo) := by rw [← Nat.pow_add, Nat.add_sub_cancel' (by omega)]
  rw [split, Nat.mod_mul_right_div_self, Nat.mod_mod_of_dvd _ (Nat.pow_dvd_pow 2 (by omega))]

/-! ## Quiesce and dateline (R266, R276) -/

/-- The dateline bit of a link. -/
def datelined (l : Nat) (d : Bool) (s : State) : State := setLink l (fun x => { x with dateline := d }) s

theorem datelined_self (l : Nat) (s : State) : datelined l (s.linkOf l).dateline s = s := setLink_self rfl

/-- A write of the two writable bits of word 1 of `LNK.LINK[l]`. -/
theorem writeLinkWord1_bits {s : State} (up : s.hostUp = true) (l : Nat) (d q : Bool) :
    writeLinkWord1 l (2 * b2n d + b2n q) s =
      if !s.inStates lnkStates || (d != (s.linkOf l).dateline && !s.inStates [.ready, .suspended]) then
        refuse (0x601008 + 32 * l) (2 * b2n d + b2n q) 0x0120 s
      else if q && !(s.linkOf l).quiesce then setQuiesce l (datelined l d s)
      else if !q && (s.linkOf l).quiesce then clearQuiesce l (datelined l d s)
      else datelined l d s := by
  have bits : ∀ d q : Bool, bit (2 * b2n d + b2n q) 1 = d ∧ bit (2 * b2n d + b2n q) 0 = q ∧ 2 * b2n d + b2n q < 2 ^ 2 := by
    decide
  obtain ⟨high, low, small⟩ := bits d q
  unfold writeLinkWord1
  extract_lets off x
  rw [regWrite_runs (rw := 3) up (fits_low _ small (by decide) (by decide))]
  simp only [high, low]
  rfl

section Bits
variable {s : State} {l : Nat} (up : s.hostUp = true)
include up

theorem writeLinkWord1_kept (q : Bool) (here : s.inStates lnkStates = true) :
    writeLinkWord1 l (2 * b2n (s.linkOf l).dateline + b2n q) s =
      if q && !(s.linkOf l).quiesce then setQuiesce l s else if !q && (s.linkOf l).quiesce then clearQuiesce l s else s := by
  rw [writeLinkWord1_bits up, here, bne_self_eq_false, Bool.not_true, Bool.false_and, Bool.or_false, if_neg Bool.false_ne_true,
    datelined_self]

theorem writeLinkWord1_elsewhere (d q : Bool) (elsewhere : s.inStates lnkStates = false) :
    writeLinkWord1 l (2 * b2n d + b2n q) s = refuse (0x601008 + 32 * l) (2 * b2n d + b2n q) 0x0120 s := by
  rw [writeLinkWord1_bits up, elsewhere, Bool.not_false, Bool.true_or, if_pos rfl]

end Bits

theorem exec_quiesceSet {l : Nat} (link : l < 32) (s : State) :
    exec (.quiesceSet l) s = .next (writeLinkWord1 l (2 * b2n (s.linkOf l).dateline + b2n true) s) := onUnit_runs link

theorem exec_quiesceClear {l : Nat} (link : l < 32) (s : State) :
    exec (.quiesceClear l) s = .next (writeLinkWord1 l (2 * b2n (s.linkOf l).dateline + b2n false) s) := onUnit_runs link

theorem exec_datelineWrite {l : Nat} (link : l < 32) (on : Bool) (s : State) :
    exec (.datelineWrite l on) s = .next (writeLinkWord1 l (2 * b2n on + b2n (s.linkOf l).quiesce) s) := onUnit_runs link

/-- A link with the quiesce bit. -/
def quieted (l : Nat) (s : State) : State := setLink l (fun x => { x with quiesce := true }) s

/-- A link without the quiesce bit. -/
def unquieted (l : Nat) (s : State) : State := setLink l (fun x => { x with quiesce := false }) s

section Quiesce
variable {s : State} {l : Nat}

/-- A link with nothing in it is held down at once. -/
theorem setQuiesce_empty (inside : l < s.lnk.links.length) (licensed : (s.linkOf l).state ≠ .unlicensed)
    (replay : (s.linkOf l).replay = []) (waiting : (s.linkOf l).waiting = []) :
    setQuiesce l s = noteLoss l (cleared l .quiesced (quieted l s)) := by
  have link : (quieted l s).linkOf l = { s.linkOf l with quiesce := true } := linkOf_setLink_same _ inside
  have empty := linkDown_empty (s := quieted l s) (l := l) .quiesced (by rw [link]; exact replay) (by rw [link]; exact waiting)
  refine (if_neg licensed).trans ?_
  by_cases trained : (s.linkOf l).trained = true
  · refine (if_pos trained).trans (Eq.trans (if_pos ?_) empty)
    have state : (decide ((s.linkOf l).state = .up) || decide ((s.linkOf l).state = .wrongNeighbour)) = true := trained
    change (((quieted l s).linkOf l).quiesce && (decide (((quieted l s).linkOf l).state = .up) ||
      decide (((quieted l s).linkOf l).state = .wrongNeighbour)) && ((quieted l s).linkOf l).replay.isEmpty &&
      ((quieted l s).linkOf l).waiting.isEmpty) = true
    rw [link, replay, waiting]
    simp only [state]
    rfl
  · exact (if_neg trained).trans empty

/-- One without a licence, or with flits in it, only shows the bit. -/
theorem setQuiesce_shown (full : (s.linkOf l).state = .unlicensed ∨ (s.linkOf l).trained = true ∧
    ((s.linkOf l).replay ≠ [] ∨ (s.linkOf l).waiting ≠ [])) : setQuiesce l s = quieted l s := by
  rcases full with unlicensed | ⟨trained, full⟩
  · exact if_pos unlicensed
  · have inside := link_inside_of_trained trained
    have link : (quieted l s).linkOf l = { s.linkOf l with quiesce := true } := linkOf_setLink_same _ inside
    refine (if_neg ?_).trans ((if_pos trained).trans (if_neg ?_))
    · intro unlicensed
      rw [Link.trained, unlicensed] at trained
      exact absurd trained (by decide)
    · change ¬ (((quieted l s).linkOf l).quiesce && (decide (((quieted l s).linkOf l).state = .up) ||
        decide (((quieted l s).linkOf l).state = .wrongNeighbour)) && ((quieted l s).linkOf l).replay.isEmpty &&
        ((quieted l s).linkOf l).waiting.isEmpty) = true
      rw [link]
      rcases full with full | full
      · simp only [List.isEmpty_eq_false_iff.2 full, Bool.and_false, Bool.false_and, Bool.false_eq_true, not_false_iff]
      · simp only [List.isEmpty_eq_false_iff.2 full, Bool.and_false, Bool.false_eq_true, not_false_iff]

theorem clearQuiesce_clears (quiet : (s.linkOf l).quiesce = true) (counted : s.inStates [.rom, .staging] = false) :
    clearQuiesce l s = if (s.linkOf l).state = .quiesced
      then setLink l (fun x => { x with quiesce := false, state := .training, retrains := satAdd 16 x.retrains 1 }) s
      else setLink l (fun x => { x with quiesce := false }) s := by
  have inside : l < s.lnk.links.length := link_inside fun absent => by rw [absent] at quiet; exact absurd quiet (by decide)
  have link : (unquieted l s).linkOf l = { s.linkOf l with quiesce := false } := linkOf_setLink_same _ inside
  have same : (unquieted l s).inStates [.rom, .staging] = false := counted
  have began : beginTraining l (unquieted l s) =
      setLink l (fun x => { x with quiesce := false, state := .training, retrains := satAdd 16 x.retrains 1 }) s := by
    rw [beginTraining, same]
    simp only [Bool.false_eq_true, if_false]
    rw [unquieted, setLink_setLink _ _ inside]
  change (if ((unquieted l s).linkOf l).state = .quiesced then beginTraining l (unquieted l s) else unquieted l s) = _
  rw [link, began, unquieted]

end Quiesce

/-! ## Remote access (R272) -/

/-- The value of `LNK.RACC_CMD` that starts an access. -/
def raccWord (write : Bool) (p : Nat) : Nat := 2 ^ 63 + (2 ^ 32 * b2n write + p)

theorem raccWord_fits {p : Nat} (peer : p < 65536) (write : Bool) (ro : Nat) :
    raccWord write p &&& ((2 ^ 64 - 1) ^^^ ((2 ^ 63 + 2 ^ 32 + 0xFFFF) ||| ro)) = 0 := by
  have bound : b2n write ≤ 1 := by cases write <;> decide
  have low : p &&& (2 ^ 63 + 2 ^ 32 + 0xFFFF) = p := by
    have fits := shifted_and_eq_self (k := 0) (c := 2 ^ 63 + 2 ^ 32 + 0xFFFF) (m := 16) peer (by decide)
    rwa [Nat.pow_zero, Nat.one_mul] at fits
  have mid : 2 ^ 32 * b2n write &&& (2 ^ 63 + 2 ^ 32 + 0xFFFF) = 2 ^ 32 * b2n write := by cases write <;> decide
  have lower := and_eq_self_of_parts (n := 32) (by omega) low mid
  have all := and_eq_self_of_parts (n := 63) (a := 1) (by omega) lower (by decide)
  exact fits_mask all (by rw [raccWord]; omega)

theorem raccWord_fields {p : Nat} (peer : p < 65536) (write : Bool) :
    bit (raccWord write p) 63 = true ∧ bit (raccWord write p) 32 = write ∧ field (raccWord write p) 0 16 = p := by
  simp only [raccWord, bit, field, beq_iff_eq]
  cases write with
  | true =>
    simp only [b2n, if_true, beq_iff_eq]
    omega
  | false =>
    refine ⟨?_, beq_eq_false_iff_ne.2 ?_, ?_⟩ <;> simp only [b2n, Bool.false_eq_true, if_false] <;> omega

/-- A request to the peer as it is issued: the registers of the access, and the request under the next tag. -/
def raccBegun (write : Bool) (p : Nat) (s : State) : State := { s with lnk := { s.lnk with
  raccWrite := write, raccPeer := p, raccState := 1, raccStatus := 0, raccAt := s.frm.tc } }

/-- The request's flit. -/
def raccFlit (write : Bool) (p : Nat) (s : State) : Flit :=
  { dest := p, src := s.lnk.id, endpoint := hostEndpoint, ty := if write then 1 else 2, scheduled := false
    vc := 0, lenM1 := 0, hops := 48, frame := 0, tag := s.lnk.nextTag, addr := s.lnk.raccAddr * 32
    payload := if write then (s.lnk.raccData.map (leBytes 8)).flatten else [] }

/-- The request, which waits for its answer. -/
def raccAsked (write : Bool) (p : Nat) (s : State) : State :=
  { raccBegun write p s with lnk := { (raccBegun write p s).lnk with
    nextTag := (s.lnk.nextTag + 1) % 65536
    requests := s.lnk.requests ++ [{ endpoint := hostEndpoint, tag := s.lnk.nextTag, device := p, core := 0, uid := 0,
                                     racc := true, at_ := s.frm.tc }] } }

section Racc
variable {s : State} {p : Nat} (peer : p < 65536) (up : s.hostUp = true) (write : Bool)
include peer up

theorem writeRaccCmd_goes (free_ : s.raccOpen = true) :
    writeRaccCmd (raccWord write p) s = startRacc { s with lnk := { s.lnk with raccWrite := write, raccPeer := p } } := by
  obtain ⟨go, dir, device⟩ := raccWord_fields peer write
  unfold writeRaccCmd
  extract_lets off
  rw [regWrite_runs up (raccWord_fits peer write _), free_, go, dir, device]
  exact (if_neg (by decide)).trans (if_pos rfl)

theorem writeRaccCmd_refused (busy : s.raccOpen = false) :
    writeRaccCmd (raccWord write p) s = refuse 0x600020 (raccWord write p) 0x0120 s := by
  unfold writeRaccCmd
  extract_lets off
  rw [regWrite_runs up (raccWord_fits peer write _), busy]
  exact if_pos rfl

theorem writeRaccCmd_waits (free_ : s.raccOpen = true) (nameless : s.lnk.assigned = false) :
    writeRaccCmd (raccWord write p) s = raccBegun write p s := by
  rw [writeRaccCmd_goes peer up write free_]
  exact if_pos (by rw [nameless]; rfl)

theorem writeRaccCmd_asks (free_ : s.raccOpen = true) (named : s.lnk.assigned = true) :
    writeRaccCmd (raccWord write p) s = sendRequest (raccFlit write p s) (raccAsked write p s) := by
  rw [writeRaccCmd_goes peer up write free_]
  exact if_neg (by rw [named]; decide)

end Racc

theorem exec_raccRead {p : Nat} (peer : p < 65536) (s : State) :
    exec (.raccRead p) s = .next (writeRaccCmd (raccWord false p) s) := by
  refine (congrArg (fun p => Host.Outcome.next (doRaccRead p s)) (Nat.mod_eq_of_lt peer)).trans ?_
  rw [doRaccRead, raccWord]
  exact congrArg (fun n => Host.Outcome.next (writeRaccCmd (2 ^ 63 + n) s)) (Nat.zero_add p).symm

theorem exec_raccWrite {p : Nat} (peer : p < 65536) (s : State) :
    exec (.raccWrite p) s = .next (writeRaccCmd (raccWord true p) s) := by
  refine (congrArg (fun p => Host.Outcome.next (doRaccWrite p s)) (Nat.mod_eq_of_lt peer)).trans ?_
  rw [doRaccWrite, raccWord, Nat.add_assoc]
  rfl

theorem linksKept_raccAsked (write : Bool) (p : Nat) (s : State) : LinksKept s (raccAsked write p s) :=
  LinksKept.of_links rfl rfl rfl rfl rfl

/-! ## A flit at an output where none waits (R267) -/

/-- A flit as a link sends it. -/
def framed (f : Flit) (x : Link) : LinkFlit :=
  { flit := f, seq := x.sendSeq, credU := min 15 (nth 0 x.owed 0), ack := (x.expectSeq + 4095) % 4096
    credS := min 15 (nth 0 x.owed 1) }

/-- A link that has sent a flit; `y` is the link as it was. -/
def sentOn (f : Flit) (y x : Link) : Link := { x with
  sendSeq := (x.sendSeq + 1) % 4096
  replay := x.replay ++ [framed f y]
  owed := [nth 0 x.owed 0 - min 15 (nth 0 y.owed 0), nth 0 x.owed 1 - min 15 (nth 0 y.owed 1)]
  usedCredits := setNth x.usedCredits f.lane (nth 0 x.usedCredits f.lane + 1) }

theorem transmit_eq (l : Nat) (f : Flit) (s : State) :
    ∃ o, transmit l f s = emit o (setLink l (sentOn f (s.linkOf l)) s) := ⟨_, rfl⟩

section Output
variable {s : State} {l : Nat} {f : Flit} (p : Option (Nat × Nat))

theorem nextOut_single {x : Link} {o : OutFlit} (only : x.waiting = [o]) :
    x.nextOut = if x.canSend (x.leaving o.flit) then some o else none := by
  unfold Link.nextOut
  rw [only]
  by_cases can : x.canSend (x.leaving o.flit) = true
  · have ready : [o].filter (fun o => x.canSend (x.leaving o.flit)) = [o] := List.filter_cons_of_pos can
    rw [ready, if_pos can]
    by_cases status : decide (o.flit.ty = 5) = true
    · have found : [o].find? (fun o => decide (o.flit.ty = 5)) = some o := List.find?_cons_of_pos status
      simp only [found]
    · have other : [o].find? (fun o => decide (o.flit.ty = 5)) = none := List.find?_cons_of_neg status
      by_cases scheduled : o.flit.scheduled = true
      · have found : [o].find? (fun o => o.flit.scheduled) = some o := List.find?_cons_of_pos scheduled
        simp only [other, found]
      · have last : [o].find? (fun o => o.flit.scheduled) = none := List.find?_cons_of_neg scheduled
        simp only [other, last, List.head?_cons]
  · have none_ : [o].filter (fun o => x.canSend (x.leaving o.flit)) = [] := List.filter_cons_of_neg can
    rw [none_, if_neg can]
    rfl

/-- A link where one flit waits. -/
def waits (l : Nat) (o : OutFlit) (s : State) : State := setLink l (fun x => { x with waiting := [o] }) s

theorem linkOf_waits (inside : l < s.lnk.links.length) (o : OutFlit) :
    (waits l o s).linkOf l = { s.linkOf l with waiting := [o] } := linkOf_setLink_same _ inside

theorem waits_gone (inside : l < s.lnk.links.length) (clear : (s.linkOf l).waiting = []) (o : OutFlit) :
    setLink l (fun x => { x with waiting := dropOut o x.waiting }) (waits l o s) = s := by
  rw [waits, setLink_setLink _ _ inside]
  refine setLink_self ?_
  rw [show dropOut o [o] = [] from if_pos rfl, ← clear]

/-- Where no flit waits, a flit leaves at once where a credit is there, and waits otherwise. -/
theorem queueFrom_clear (inside : l < s.lnk.links.length) (clear : (s.linkOf l).waiting = []) :
    queueFrom p l f s = if (s.linkOf l).canSend ((s.linkOf l).leaving f)
      then freeBuffer p (transmit l ((s.linkOf l).leaving f) s)
      else waits l { flit := f, since := s.frm.tc, from_ := p } s := by
  have queued : queueFrom p l f s = drainLink l 1 (waits l { flit := f, since := s.frm.tc, from_ := p } s) := by
    rw [queueFrom, waits, setLink_congr (g := fun x => { x with waiting := [{ flit := f, since := s.frm.tc, from_ := p }] })
      (by rw [clear]; rfl), clear]
    rfl
  have link := linkOf_waits inside { flit := f, since := s.frm.tc, from_ := p }
  have gone := waits_gone inside clear { flit := f, since := s.frm.tc, from_ := p }
  rw [queued, drainLink]
  generalize waits l { flit := f, since := s.frm.tc, from_ := p } s = z at link gone ⊢
  by_cases can : (s.linkOf l).canSend ((s.linkOf l).leaving f) = true
  · have next : (z.linkOf l).nextOut = some { flit := f, since := s.frm.tc, from_ := p } := by
      rw [link, nextOut_single rfl]
      exact if_pos can
    rw [next, if_pos can]
    change drainLink l 0 (freeBuffer p (transmit l ((z.linkOf l).leaving f) (setLink l _ z))) = _
    rw [gone, link]
    rfl
  · have next : (z.linkOf l).nextOut = none := by
      rw [link, nextOut_single rfl]
      exact if_neg can
    rw [next, if_neg can]

theorem linkOf_transmit_other {k : Nat} (other : k ≠ l) : (transmit l f s).linkOf k = s.linkOf k := by
  obtain ⟨o, eq⟩ := transmit_eq l f s
  rw [eq]
  exact linkOf_setLink_other (sentOn f (s.linkOf l)) s other

theorem replay_transmit (inside : l < s.lnk.links.length) :
    ((transmit l f s).linkOf l).replay = (s.linkOf l).replay ++ [framed f (s.linkOf l)] := by
  obtain ⟨o, eq⟩ := transmit_eq l f s
  rw [eq]
  exact congrArg Link.replay (linkOf_setLink_same (sentOn f (s.linkOf l)) inside)

theorem queueOn_clear_other {k : Nat} (inside : l < s.lnk.links.length) (clear : (s.linkOf l).waiting = []) (other : k ≠ l) :
    (queueOn l f s).linkOf k = s.linkOf k := by
  rw [queueOn, queueFrom_clear none inside clear]
  split
  · exact linkOf_transmit_other other
  · exact linkOf_setLink_other _ _ other

/-- With a credit the flit is the last of the replay buffer. -/
theorem queueOn_clear_sends (inside : l < s.lnk.links.length) (clear : (s.linkOf l).waiting = [])
    (can : (s.linkOf l).canSend ((s.linkOf l).leaving f) = true) :
    ((queueOn l f s).linkOf l).replay.getLast? = some (framed ((s.linkOf l).leaving f) (s.linkOf l)) := by
  rw [queueOn, queueFrom_clear none inside clear, if_pos can, freeBuffer, replay_transmit inside]
  exact List.getLast?_concat

end Output

theorem canSend_of {x : Link} {f : Flit} (up : x.state = .up) (credit : x.classUsed f < linkDepth)
    (room : x.replay.length < 4096) : x.canSend (x.leaving f) = true := by
  have same : x.classUsed (x.leaving f) = x.classUsed f := by
    unfold Link.leaving
    split <;> rfl
  rw [Link.canSend, same, decide_eq_true up, decide_eq_true credit, decide_eq_true room]
  rfl

end Sys2Proof.Proofs
end


section
/-! The registers of the links: the obligation (R264, R266, R272, R275, R276, R284). -/
namespace Sys2Proof.Proofs
set_option Elab.async false
open Sys2Proof.Machine Sys2Proof.Laws

/-! ## Remote access -/

theorem exec_raccRead_mod (p : Nat) (s : State) : exec (.raccRead p) s = exec (.raccRead (p % 65536)) s :=
  congrArg (fun p => Host.Outcome.next (doRaccRead p s)) (Nat.mod_mod p 65536).symm

theorem exec_raccWrite_mod (p : Nat) (s : State) : exec (.raccWrite p) s = exec (.raccWrite (p % 65536)) s :=
  congrArg (fun p => Host.Outcome.next (doRaccWrite p s)) (Nat.mod_mod p 65536).symm

/-- A flit leaves as it is but for its channel. -/
theorem leaving_eq (x : Link) (f : Flit) : ∃ vc, x.leaving f = { f with vc := vc } := by
  unfold Link.leaving
  split
  · exact ⟨1, rfl⟩
  · exact ⟨f.vc, rfl⟩

theorem mem_of_inStates {s : State} {l : List DevState} (here : s.inStates l = true) : s.kpr.state ∈ l := by
  obtain ⟨d, mem, same⟩ := List.any_eq_true.1 here
  rw [← beq_iff_eq.1 same]
  exact mem

section Racc
variable {s : State} {p l : Nat}

/-- What a request that has a route changes: links, network and outputs. -/
theorem sendRequest_routed {f : Flit} (route : s.routeTo f.dest f.endpoint = some l) :
    ∃ net, sendRequest f s = queueOn l f { s with net := net } := by
  obtain ⟨net, crossed⟩ := crossNet_onlyNet f.endpoint (linkEndpoint l) f.netFlits s
  refine ⟨net, ?_⟩
  rw [← crossed]
  unfold sendRequest
  rw [route]

theorem sendsOnly_lnk {z t : State} (sends : SendsOnly z t) : ∃ links, t.lnk = { z.lnk with links := links } := by
  obtain ⟨⟨links, out, eq⟩, _⟩ := sends
  exact ⟨links, by rw [eq]⟩

/-- A request of the remote access that leaves: the registers and the links. -/
theorem raccSent (write : Bool) (route : s.routeTo p hostEndpoint = some l) :
    ∃ net links out, (sendRequest (raccFlit write p s) (raccAsked write p s)) =
      { s with lnk := { (raccAsked write p s).lnk with links := links }, net := net, out := out } ∧
      sendRequest (raccFlit write p s) (raccAsked write p s) =
        queueOn l (raccFlit write p s) { raccAsked write p s with net := net } := by
  have kept := linksKept_raccAsked write p s
  have route' : (raccAsked write p s).routeTo (raccFlit write p s).dest (raccFlit write p s).endpoint = some l :=
    (kept.routeTo _ _).trans route
  obtain ⟨net, sent⟩ := sendRequest_routed route'
  have up : ((raccAsked write p s).linkOf l).state = .up := usable_up (routeTo_usable route')
  obtain ⟨⟨links, out, eq⟩, _⟩ := sendsOnly_queueFrom none (raccFlit write p s)
    (s := { raccAsked write p s with net := net }) up
  refine ⟨net, links, out, ?_, sent⟩
  rw [sent, queueOn, eq]
  rfl

/-- An answer to the only request, which is the remote access's, ends the access. -/
theorem ownAnswer_racc {r : PeerReq} (only : s.lnk.requests = [r]) (racc : r.racc = true) (status : Nat) (data : List Nat) :
    ownAnswer r.endpoint r.tag status data s = { s with lnk := { s.lnk with
      requests := []
      raccState := if status = 0 then 2 else 3
      raccStatus := status
      raccData := if status = 0 && !s.lnk.raccWrite then (List.range 4).map (fun i => leAt data (8 * i) 8) else s.lnk.raccData } } := by
  have matches_ : (decide (r.endpoint = r.endpoint) && decide (r.tag = r.tag)) = true := by
    rw [decide_eq_true rfl, decide_eq_true rfl]
    rfl
  have found : [r].find? (fun q => decide (q.endpoint = r.endpoint) && decide (q.tag = r.tag)) = some r :=
    List.find?_cons_of_pos matches_
  have left : [r].filter (fun q => !(decide (q.endpoint = r.endpoint) && decide (q.tag = r.tag))) = [] :=
    List.filter_cons_of_neg (by rw [matches_]; decide)
  unfold ownAnswer
  rw [only, found]
  unfold dropRequest
  simp only [only, left, racc, if_true]

theorem ownAnswer_racc_failed {r : PeerReq} (only : s.lnk.requests = [r]) (racc : r.racc = true) {status : Nat}
    (failed : status ≠ 0) (data : List Nat) : ownAnswer r.endpoint r.tag status data s =
      { s with lnk := { s.lnk with requests := [], raccState := 3, raccStatus := status } } := by
  rw [ownAnswer_racc only racc, if_neg failed, decide_eq_false failed, Bool.false_and, if_neg Bool.false_ne_true]

theorem discardFlit_own {f : Flit} (request : f.request = true) :
    discardFlit true f s = ownAnswer f.endpoint f.tag 6 [] (countUnreachable s) := by
  rw [discardFlit, loseFlit, request]
  exact if_neg (by decide)

/-- The request of an access. -/
def raccRequest (p : Nat) (s : State) : PeerReq :=
  { endpoint := hostEndpoint, tag := s.lnk.nextTag, device := p, core := 0, uid := 0, racc := true, at_ := s.frm.tc }

/-- Without a route the access ends at once. -/
theorem raccLost (none_ : s.routeTo p hostEndpoint = none) (idle : s.lnk.requests = []) :
    sendRequest (raccFlit true p s) (raccAsked true p s) = { countUnreachable (raccAsked true p s) with
      lnk := { (countUnreachable (raccAsked true p s)).lnk with requests := [], raccState := 3, raccStatus := 6 } } := by
  have route : (raccAsked true p s).routeTo (raccFlit true p s).dest (raccFlit true p s).endpoint = none :=
    ((linksKept_raccAsked true p s).routeTo _ _).trans none_
  have asked : (countUnreachable (raccAsked true p s)).lnk.requests = [raccRequest p s] := by
    change s.lnk.requests ++ [raccRequest p s] = _
    rw [idle, List.nil_append]
  unfold sendRequest
  rw [route]
  exact (discardFlit_own rfl).trans (ownAnswer_racc_failed asked rfl (by decide) [])

theorem raccWrite_sends (route : s.routeTo p hostEndpoint = some l) (clear : (s.linkOf l).waiting = [])
    (room : (s.linkOf l).replay.length < 4096)
    (credit : nth 0 (s.linkOf l).usedCredits 0 + nth 0 (s.linkOf l).usedCredits 1 < linkDepth) :
    let t := sendRequest (raccFlit true p s) (raccAsked true p s)
    t.lnk.raccState = 1 ∧ t.lnk.raccWrite = true ∧
      ((t.linkOf l).replay.getLast?).map (fun r => (r.flit.ty, r.flit.dest, r.flit.tag, r.flit.addr,
        r.flit.payload)) = some (1, p, s.lnk.nextTag, s.lnk.raccAddr * 32, (s.lnk.raccData.map (leBytes 8)).flatten) ∧
      (∀ m, m ≠ l → t.linkOf m = s.linkOf m) ∧ t = { s with lnk := t.lnk, net := t.net, out := t.out } := by
  intro t
  obtain ⟨net, links, out, sent, queued⟩ := raccSent (l := l) true route
  have state := usable_up (routeTo_usable route)
  have inside := link_inside_of_state state (by decide)
  refine ⟨by unfold t; rw [sent]; rfl, by unfold t; rw [sent]; rfl, ?_, fun m other => ?_, by unfold t; rw [sent]⟩
  · unfold t
    rw [queued, queueOn_clear_sends (s := { raccAsked true p s with net := net }) inside clear
      (canSend_of (x := s.linkOf l) (f := raccFlit true p s) state credit room), Option.map_some]
    obtain ⟨vc, leaving⟩ := leaving_eq (s.linkOf l) (raccFlit true p s)
    exact congrArg (fun f : Flit => some (f.ty, f.dest, f.tag, f.addr, f.payload)) leaving
  · unfold t
    rw [queued]
    exact queueOn_clear_other inside clear other

theorem raccWrite_lost (none_ : s.routeTo p hostEndpoint = none) (idle : s.lnk.requests = []) :
    let t := sendRequest (raccFlit true p s) (raccAsked true p s)
    t.lnk.raccState = 3 ∧ t.lnk.raccStatus = 6 ∧ t.lnk.raccWrite = true ∧ t.lnk.requests = [] ∧
      t.lnk.links = s.lnk.links ∧ t.lnk.unreachable = satAdd 16 s.lnk.unreachable 1 ∧ t = { s with lnk := t.lnk } := by
  intro t
  have lost : t = _ := raccLost none_ idle
  have begun : ∃ lnk, countUnreachable (raccAsked true p s) = { s with lnk := lnk } ∧ lnk.raccWrite = true ∧
      lnk.links = s.lnk.links ∧ lnk.unreachable = satAdd 16 s.lnk.unreachable 1 := ⟨_, rfl, rfl, rfl, rfl⟩
  obtain ⟨lnk, eq, write, links, unreachable⟩ := begun
  rw [lost, eq]
  exact ⟨rfl, rfl, write, rfl, links, unreachable, rfl⟩

end Racc

/-! ## The neighbour (R264) -/

section Neighbour
variable {s : State} {l : Nat}

/-- A link with what its neighbour announces. -/
def announced (n : Option Nat) (x : Link) : Link := { x with neighbourKnown := n.isSome, neighbour := n.getD 0 }

theorem exec_neighbourIdAnnounce (link : l < 32) (n : Option Nat) (s : State) :
    exec (.neighbourIdAnnounce l n) s = .next (doNeighbourIdAnnounce l (n.map (fun n => n % 2 ^ 16)) s) := onUnit_runs link

theorem neighbourIdAnnounce_trained (powered : s.powered = true) (trained : (s.linkOf l).trained = true) (n : Option Nat) :
    doNeighbourIdAnnounce l n s = drainLink l
      (((judgeNeighbour l (setLink l (announced n) s)).linkOf l).waiting.length + 1) (judgeNeighbour l (setLink l (announced n) s)) :=
  if_pos (by rw [powered, trained]; rfl)

theorem neighbourIdAnnounce_idle (idle : s.powered = false ∨ (s.linkOf l).trained = false) (n : Option Nat) :
    doNeighbourIdAnnounce l n s = s := by
  refine if_neg ?_
  rcases idle with dark | untrained
  · rw [dark, Bool.false_and]; decide
  · rw [untrained, Bool.and_false]; decide

/-- An accepted neighbour has a trained link up. -/
theorem judgeNeighbour_accepts (trained : (s.linkOf l).trained = true)
    (accepts : (s.linkOf l).accepts = true) : judgeNeighbour l s = setLink l (fun x => { x with state := .up }) s := by
  unfold judgeNeighbour
  extract_lets x
  rw [if_neg (by unfold x; rw [accepts, Bool.not_true, Bool.and_false]; decide)]
  rcases trained_state trained with up | wrong
  · rw [if_neg (by unfold x; rw [up, show decide (LinkState.up = .wrongNeighbour) = false from rfl, Bool.false_and]; decide)]
    exact (setLink_self (by rw [← up])).symm
  · exact if_pos (by unfold x; rw [wrong, accepts]; rfl)

/-- Another neighbour has it in state wrong neighbour. -/
theorem judgeNeighbour_refuses (inside : l < s.lnk.links.length) (trained : (s.linkOf l).trained = true)
    (other : (s.linkOf l).accepts = false) :
    ∃ lost, judgeNeighbour l s = setLink l (fun x => { x with state := .wrongNeighbour, lost := lost }) s := by
  unfold judgeNeighbour
  extract_lets x
  rcases trained_state trained with up | wrong
  · rw [if_pos (by unfold x; rw [up, other]; rfl), noteLoss, setLink_setLink _ _ inside]
    exact ⟨_, setLink_congr rfl⟩
  · rw [if_neg (by unfold x; rw [wrong, show decide (LinkState.wrongNeighbour = .up) = false from rfl, Bool.false_and]; decide), if_neg (by unfold x; rw [wrong, other]; decide)]
    exact ⟨(s.linkOf l).lost, (setLink_self (by rw [← wrong])).symm⟩

theorem announced_trained {n : Option Nat} {x : Link} (trained : x.trained = true) : (announced n x).trained = true := trained

theorem neighbour_accepted {n : Nat} (powered : s.powered = true) (trained : (s.linkOf l).trained = true)
    (clear : (s.linkOf l).waiting = []) (accepts : (s.linkOf l).expectAny = true ∨ (s.linkOf l).expected = n) :
    doNeighbourIdAnnounce l (some n) s =
      setLink l (fun x => { x with state := .up, neighbour := n, neighbourKnown := true }) s := by
  have inside := link_inside_of_trained trained
  have link : (setLink l (announced (some n)) s).linkOf l = announced (some n) (s.linkOf l) := linkOf_setLink_same _ inside
  have agrees : (announced (some n) (s.linkOf l)).accepts = true := by
    change (true && ((s.linkOf l).expectAny || decide (n = (s.linkOf l).expected))) = true
    rcases accepts with any | same
    · rw [any]; rfl
    · rw [decide_eq_true same.symm, Bool.or_true]; rfl
  have judged := judgeNeighbour_accepts (s := setLink l (announced (some n)) s) (l := l) (by rw [link]; exact announced_trained trained) (by rw [link]; exact agrees)
  rw [setLink_setLink _ _ inside] at judged
  rw [neighbourIdAnnounce_trained powered trained, judged, drainLink_empty]
  · rfl
  · rw [linkOf_setLink_same _ inside]
    exact clear

theorem neighbour_refused {n : Option Nat} (powered : s.powered = true) (trained : (s.linkOf l).trained = true)
    (other : (announced n (s.linkOf l)).accepts = false) :
    ∃ lost, doNeighbourIdAnnounce l n s = setLink l (fun x => { x with
      state := .wrongNeighbour, lost := lost, neighbourKnown := n.isSome, neighbour := n.getD 0 }) s := by
  have inside := link_inside_of_trained trained
  have link : (setLink l (announced n) s).linkOf l = announced n (s.linkOf l) := linkOf_setLink_same _ inside
  obtain ⟨lost, judged⟩ := judgeNeighbour_refuses (s := setLink l (announced n) s) (l := l)
    (by rw [length_setLink]; exact inside) (by rw [link]; exact announced_trained trained) (by rw [link]; exact other)
  rw [setLink_setLink _ _ inside] at judged
  refine ⟨lost, ?_⟩
  rw [neighbourIdAnnounce_trained powered trained, judged, drainLink_down]
  · rfl
  · rw [linkOf_setLink_same _ inside]
    exact LinkState.noConfusion

end Neighbour

/-! ## The obligation -/

/-- Settles O48: the registers through their writes, an output through `queueFrom_clear`, a neighbour through
`judgeNeighbour`. -/
theorem linkRegisters : Obligations.LinkRegisters := by
  unfold Obligations.LinkRegisters
  refine ⟨?device, ?deviceElsewhere, ?reserved, ?fwd, ?fwdElsewhere, ?quiesce, ?shown, ?clear, ?same, ?quiesceElsewhere,
    ?dateline, ?datelineElsewhere, ?nameless, ?read, ?write, ?lost, ?busy, ?timeout, ?early, ?accepted, ?wrong, ?gone, ?untrained⟩
  case device =>
    intro s v up here small
    have free : false = false := rfl
    have told : SameDevice (named v s) (judgeMaster (announce (named v s))) := by
      have announced : Keeps (Untouched.allBut []) (named v s) (announce (named v s)) := announce_keeps _ (Keeps.refl _)
      have told := sameDevice_judgeMaster (announce (named v s))
      rw [SameDevice, announced.lnk rfl] at told
      exact told
    have kept : Keeps (Untouched.allBut [.reports, .hif, .frm, .lnk]) (named v s) (judgeMaster (announce (named v s))) :=
      judgeMaster_keeps _ (announce_keeps _ (Keeps.refl _))
    refine ⟨_, (exec_lnkDeviceWrite (by omega) s).trans (congrArg Host.Outcome.next (writeLnkDevice_writes up here small)), rfl, ?_⟩
    generalize judgeMaster (announce (named v s)) = z at told kept ⊢
    obtain ⟨assigned, id, fwd⟩ := told
    refine ⟨assigned, id.trans ?_, fwd, (mem_of_keeps kept rfl rfl : z.mem = (named v s).mem),
      (cores_of_keeps kept rfl rfl : z.cores = (named v s).cores), kept.kpr rfl, kept.dev rfl, kept.req rfl⟩
    exact congrArg (fun x => x % 65536) (Nat.div_one v)
  case deviceElsewhere =>
    intro s v up elsewhere small
    rw [exec_lnkDeviceWrite (by omega), writeLnkDevice_refused up elsewhere small]
  case reserved =>
    intro s v up small reserved
    rw [exec_lnkDeviceWrite small, writeLnkDevice_reserved up small reserved]
  case fwd =>
    intro s j v up here entry
    refine ⟨_, (exec_lnkFwdWrite entry v s).trans (congrArg Host.Outcome.next (writeFwd_writes up here)), rfl, ?_, ?_, ?_⟩
    · change field (mapGet 0 (mapSet 0 s.lnk.fwd j (v % 2 ^ 64)) (2 * j / 2)) (32 * (2 * j % 2)) 32 = _
      rw [show 2 * j / 2 = j by omega, show 32 * (2 * j % 2) = 0 by omega, mapGet_mapSet_same, field_mod (by decide), field,
        Nat.pow_zero, Nat.div_one]
    · change field (mapGet 0 (mapSet 0 s.lnk.fwd j (v % 2 ^ 64)) ((2 * j + 1) / 2)) (32 * ((2 * j + 1) % 2)) 32 = _
      rw [show (2 * j + 1) / 2 = j by omega, show 32 * ((2 * j + 1) % 2) = 32 by omega, mapGet_mapSet_same,
        field_mod (by decide), field]
    · intro d other
      change field (mapGet 0 (mapSet 0 s.lnk.fwd j (v % 2 ^ 64)) (d / 2)) _ _ = _
      rw [mapGet_mapSet_other _ _ _ other]
      rfl
  case fwdElsewhere =>
    intro s j v up elsewhere entry small
    rw [exec_lnkFwdWrite entry, Nat.mod_eq_of_lt small]
    exact congrArg Host.Outcome.next (writeFwd_refused up elsewhere)
  case quiesce =>
    intro s l up link length here quiet licensed replay waiting
    have inside : l < s.lnk.links.length := by omega
    have lit : (quieted l s).linkOf l = { s.linkOf l with quiesce := true } := linkOf_setLink_same _ inside
    have inside' : l < (quieted l s).lnk.links.length := by rw [quieted, length_setLink]; exact inside
    have run : exec (.quiesceSet l) s = .next (noteLoss l (cleared l .quiesced (quieted l s))) := by
      rw [exec_quiesceSet link, writeLinkWord1_kept up true here, quiet, if_pos (by decide),
        setQuiesce_empty inside licensed replay waiting]
    obtain ⟨lost, down⟩ := linkOf_noteLoss_same (s := cleared l .quiesced (quieted l s)) (l := l)
      (by rw [length_cleared]; exact inside')
    rw [linkOf_cleared_same inside', lit] at down
    refine ⟨_, run, by rw [down]; rfl, by rw [down]; rfl, by rw [down]; rfl, fun m other clear => ?_, rfl⟩
    rw [linkOf_noteLoss_other other, linkOf_cleared_other .quiesced other, quieted, linkOf_setLink_other _ _ other, clear,
      List.map_nil, ← clear]
  case shown =>
    intro s l up link here quiet full
    rw [exec_quiesceSet link, writeLinkWord1_kept up true here, quiet, if_pos (by decide), setQuiesce_shown full]
    rfl
  case clear =>
    intro s l up link here quiet
    have counted : s.inStates [.rom, .staging] = false := by
      have state := mem_of_inStates here
      rw [State.inStates]
      revert state
      generalize s.kpr.state = d
      cases d <;> decide
    rw [exec_quiesceClear link, writeLinkWord1_kept up false here, quiet, if_neg (by decide), if_pos (by decide),
      clearQuiesce_clears quiet counted]
  case same =>
    intro s l up link _ here
    refine ⟨fun quiet => ?_, fun quiet => ?_⟩
    · rw [exec_quiesceSet link, writeLinkWord1_kept up true here, quiet, if_neg (by decide), if_neg (by decide)]
    · rw [exec_quiesceClear link, writeLinkWord1_kept up false here, quiet, if_neg (by decide), if_neg (by decide)]
  case quiesceElsewhere =>
    intro s l up link elsewhere
    rw [exec_quiesceSet link, exec_quiesceClear link, writeLinkWord1_elsewhere up _ _ elsewhere,
      writeLinkWord1_elsewhere up _ _ elsewhere]
    exact ⟨rfl, rfl⟩
  case dateline =>
    intro s l on up link allowed
    have here : s.inStates lnkStates = true := by
      rcases allowed with idle | ⟨running, _⟩
      · refine inStates_of_mem ?_
        have state := mem_of_inStates idle
        revert state
        generalize s.kpr.state = d
        cases d <;> decide
      · exact inStates_of_mem (by rw [running]; decide)
    have fits : (on != (s.linkOf l).dateline && !s.inStates [.ready, .suspended]) = false := by
      rcases allowed with idle | ⟨_, same⟩
      · rw [idle, Bool.not_true, Bool.and_false]
      · rw [same, bne_self_eq_false, Bool.false_and]
    rw [exec_datelineWrite link, writeLinkWord1_bits up, here, fits, if_neg (by decide), Bool.and_not_self,
      if_neg (by decide), Bool.not_and_self, if_neg (by decide)]
    rfl
  case datelineElsewhere =>
    intro s l on up link elsewhere changed
    have refused : (!s.inStates lnkStates || (on != (s.linkOf l).dateline && !s.inStates [.ready, .suspended])) = true := by
      rw [elsewhere, Bool.not_false, Bool.and_true]
      rcases changed with state | changed
      · have none_ : s.inStates lnkStates = false := by
          rw [State.inStates] at elsewhere ⊢
          revert state elsewhere
          generalize s.kpr.state = d
          cases d <;> decide
        rw [none_]
        rfl
      · rw [(bne_iff_ne (a := on)).2 changed.symm, Bool.or_true]
    rw [exec_datelineWrite link, writeLinkWord1_bits up, refused, if_pos rfl]
  case nameless =>
    intro s p up free_ nameless
    have peer : p % 65536 < 65536 := Nat.mod_lt _ (by decide)
    have read := (exec_raccRead peer s).trans (congrArg Host.Outcome.next (writeRaccCmd_waits peer up false free_ nameless))
    have write := (exec_raccWrite peer s).trans (congrArg Host.Outcome.next (writeRaccCmd_waits peer up true free_ nameless))
    exact ⟨(exec_raccRead_mod p s).trans read, (exec_raccWrite_mod p s).trans write⟩
  case read =>
    intro s p l up peer free_ named route
    obtain ⟨net, links, out, sent, queued⟩ := raccSent (l := l) false route
    have run := (exec_raccRead peer s).trans (congrArg Host.Outcome.next (writeRaccCmd_asks peer up false free_ named))
    refine ⟨_, run, ?_⟩
    refine ⟨by rw [sent]; rfl, by rw [sent]; rfl, by rw [sent]; rfl, by rw [sent]; rfl, by rw [sent]; rfl, by rw [sent]; rfl,
      fun clear m other => ?_, by rw [sent]⟩
    rw [queued]
    exact queueOn_clear_other (link_inside_of_state (usable_up (routeTo_usable route)) (by decide)) clear other
  case write =>
    intro s p l up peer free_ named route clear room credit
    exact ⟨_, (exec_raccWrite peer s).trans (congrArg Host.Outcome.next (writeRaccCmd_asks peer up true free_ named)),
      raccWrite_sends route clear room credit⟩
  case lost =>
    intro s p up peer free_ named idle none_
    exact ⟨_, (exec_raccWrite peer s).trans (congrArg Host.Outcome.next (writeRaccCmd_asks peer up true free_ named)),
      raccWrite_lost none_ idle⟩
  case busy =>
    intro s p up peer busy
    rw [exec_raccRead peer, exec_raccWrite peer, writeRaccCmd_refused peer up _ busy, writeRaccCmd_refused peer up _ busy]
    refine ⟨?_, ?_⟩
    · rw [raccWord]
      exact congrArg (fun n => Host.Outcome.next (refuse 0x600020 (2 ^ 63 + n) 0x0120 s)) (Nat.zero_add p)
    · rw [raccWord, ← Nat.add_assoc]
      rfl
  case timeout =>
    intro s powered waiting due
    refine congrArg Host.Outcome.next (if_pos ?_)
    rw [powered, decide_eq_true waiting, decide_eq_true due]
    rfl
  case early =>
    intro s idle
    refine congrArg Host.Outcome.next (if_neg ?_)
    rcases idle with dark | done | early
    · rw [dark, Bool.false_and, Bool.false_and]; decide
    · rw [decide_eq_false done, Bool.and_false, Bool.false_and]; decide
    · rw [decide_eq_false (Nat.not_le.2 early), Bool.and_false]; decide
  case accepted =>
    intro s l n link powered trained clear accepts
    rw [exec_neighbourIdAnnounce link, Option.map_some]
    exact congrArg Host.Outcome.next (neighbour_accepted powered trained clear accepts)
  case wrong =>
    intro s l n link length powered trained picky other
    have refuses : (announced (some (n % 2 ^ 16)) (s.linkOf l)).accepts = false := by
      change (true && ((s.linkOf l).expectAny || decide (n % 2 ^ 16 = (s.linkOf l).expected))) = false
      rw [picky, decide_eq_false fun same => other same.symm]
      rfl
    obtain ⟨lost, judged⟩ := neighbour_refused powered trained refuses
    have here := linkOf_setLink_same (fun x : Link => { x with
      state := .wrongNeighbour, lost := lost, neighbourKnown := (some (n % 2 ^ 16)).isSome, neighbour := (some (n % 2 ^ 16)).getD 0 })
      (link_inside_of_trained trained)
    refine ⟨_, (exec_neighbourIdAnnounce link (some n) s).trans (congrArg Host.Outcome.next judged), by rw [here], by rw [here]; rfl,
      by rw [here], fun m away => linkOf_setLink_other _ _ away, rfl⟩
  case gone =>
    intro s l link length powered trained
    obtain ⟨lost, judged⟩ := neighbour_refused (n := none) powered trained (by rw [announced, Link.accepts]; rfl)
    have here := linkOf_setLink_same (fun x : Link => { x with
      state := .wrongNeighbour, lost := lost, neighbourKnown := (none : Option Nat).isSome, neighbour := (none : Option Nat).getD 0 })
      (link_inside_of_trained trained)
    refine ⟨_, (exec_neighbourIdAnnounce link none s).trans (congrArg Host.Outcome.next judged), by rw [here], by rw [here]; rfl,
      by rw [here], fun m away => linkOf_setLink_other _ _ away, rfl⟩
  case untrained =>
    intro s l n link idle
    rw [exec_neighbourIdAnnounce link, neighbourIdAnnounce_idle idle]

end Sys2Proof.Proofs
end


section
/-! Training, lanes, lasers and cartridges (R257 to R262, R433). -/
namespace Sys2Proof.Proofs
set_option Elab.async false
open Sys2Proof.Machine Sys2Proof.Laws

/-! ## Widths -/

theorem widthFor_pos {n : Nat} (enough : 4 ≤ n) : widthFor n ≠ 0 := by
  unfold widthFor
  split
  · decide
  · split
    · decide
    · decide

theorem widthFor_few {n : Nat} (few : n < 4) : widthFor n = 0 := by
  rw [widthFor, if_neg (by omega), if_neg (by omega), if_neg (by omega)]

/-- The width that a link's lanes allow. -/
def newWidth (x : Link) : Nat := widthFor (popcount 16 x.ready)

/-- A link of another width; a reduction is counted. -/
def resized (x : Link) : Link := { x with
  width := newWidth x
  lanesUsed := lowestLanes x.ready (newWidth x)
  widthDrops := if decide (newWidth x < x.width) then satAdd 16 x.widthDrops 1 else x.widthDrops }

/-- A link that has taken another width, told where it is a reduction. -/
def widened (l : Nat) (s : State) : State :=
  if decide (newWidth (s.linkOf l) < (s.linkOf l).width) then
    raise 0x0040 0 l [(s.linkOf l).width, newWidth (s.linkOf l)] (setLink l (fun _ => resized (s.linkOf l)) s)
  else setLink l (fun _ => resized (s.linkOf l)) s

section Rewidth
variable {s : State} {l : Nat}

theorem widened_parts : (widened l s).lnk = (setLink l (fun _ => resized (s.linkOf l)) s).lnk ∧ (widened l s).mem = s.mem ∧
    (widened l s).cores = s.cores ∧ (widened l s).frm = s.frm := by
  unfold widened
  split
  · exact ⟨raise_lnk .., (raise_mem ..).trans rfl, (raise_cores ..).trans rfl, (raise_frm ..).trans rfl⟩
  · exact ⟨rfl, rfl, rfl, rfl⟩

theorem linkOf_of_lnk {s t : State} (lnk : t.lnk = s.lnk) (k : Nat) : t.linkOf k = s.linkOf k := linkOf_congr (by rw [lnk]) k

theorem linkOf_widened_same (inside : l < s.lnk.links.length) : (widened l s).linkOf l = resized (s.linkOf l) := by
  rw [linkOf_of_lnk widened_parts.1, linkOf_setLink_same _ inside]

theorem linkOf_widened_other {k : Nat} (other : k ≠ l) : (widened l s).linkOf k = s.linkOf k := by
  rw [linkOf_of_lnk widened_parts.1, linkOf_setLink_other _ _ other]

theorem length_widened : (widened l s).lnk.links.length = s.lnk.links.length := by
  rw [widened_parts.1]
  exact length_setLink ..

theorem rewidth_trained (trained : (s.linkOf l).trained = true) : rewidth l s =
    if newWidth (s.linkOf l) = (s.linkOf l).width then
      setLink l (fun x => { x with lanesUsed := lowestLanes x.ready (newWidth (s.linkOf l)) }) s
    else if newWidth (s.linkOf l) = 0 then linkDown l .down (widened l s) else noteLoss l (widened l s) :=
  if_pos trained

theorem rewidth_untrained (untrained : (s.linkOf l).trained = false) : rewidth l s = s :=
  if_neg (Bool.eq_false_iff.1 untrained)

/-- A link that stays trained: its width is that of its lanes, its lanes and its state stay. -/
theorem rewidth_stays (trained : (s.linkOf l).trained = true) (wide : newWidth (s.linkOf l) ≠ 0) :
    ∃ drops lost, (rewidth l s).linkOf l = { s.linkOf l with
      width := newWidth (s.linkOf l), lanesUsed := lowestLanes (s.linkOf l).ready (newWidth (s.linkOf l)), widthDrops := drops,
      lost := lost } := by
  have inside := link_inside_of_trained trained
  rw [rewidth_trained trained]
  by_cases same : newWidth (s.linkOf l) = (s.linkOf l).width
  · rw [if_pos same, linkOf_setLink_same _ inside]
    refine ⟨(s.linkOf l).widthDrops, (s.linkOf l).lost, ?_⟩
    rw [same]
  · rw [if_neg same, if_neg wide]
    obtain ⟨lost, noted⟩ := linkOf_noteLoss_same (s := widened l s) (l := l) (by rw [length_widened]; exact inside)
    rw [noted, linkOf_widened_same inside]
    exact ⟨_, lost, rfl⟩

theorem rewidth_stays_parts (trained : (s.linkOf l).trained = true) (wide : newWidth (s.linkOf l) ≠ 0) :
    (∀ m, m ≠ l → (rewidth l s).linkOf m = s.linkOf m) ∧ (rewidth l s).mem = s.mem ∧ (rewidth l s).cores = s.cores ∧
      (rewidth l s).frm = s.frm := by
  rw [rewidth_trained trained]
  split
  · exact ⟨fun m other => linkOf_setLink_other _ _ other, rfl, rfl, rfl⟩
  · obtain ⟨_, mem, cores, frm⟩ := widened_parts (s := s) (l := l)
    exact ⟨fun m other => (linkOf_noteLoss_other other).trans (linkOf_widened_other other), mem, cores, frm⟩

/-- Without four lanes a link that had a width goes down. -/
theorem rewidth_down (trained : (s.linkOf l).trained = true) (narrow : newWidth (s.linkOf l) = 0)
    (had : (s.linkOf l).width ≠ 0) : ((rewidth l s).linkOf l).state = .down ∧ ((rewidth l s).linkOf l).width = 0 ∧
      ((rewidth l s).linkOf l).lanesGood = (s.linkOf l).lanesGood := by
  have inside := link_inside_of_trained trained
  rw [rewidth_trained trained, if_neg (by rw [narrow]; exact had.symm), if_pos narrow]
  obtain ⟨lost, down⟩ := linkDown_same (s := widened l s) (l := l) .down (by rw [length_widened]; exact inside) (by decide)
  rw [down, linkOf_widened_same inside]
  exact ⟨rfl, rfl, rfl⟩

end Rewidth

/-! ## Good lanes -/

/-- The lanes that are good, and the cartridges, are the same. -/
def SameLanes (s t : State) : Prop :=
  t.lnk.links.length = s.lnk.links.length ∧ t.lnk.carts = s.lnk.carts ∧ ∀ m, (t.linkOf m).lanesGood = (s.linkOf m).lanesGood

theorem SameLanes.refl (s : State) : SameLanes s s := ⟨rfl, rfl, fun _ => rfl⟩

theorem SameLanes.trans {s t u : State} (first : SameLanes s t) (second : SameLanes t u) : SameLanes s u :=
  ⟨second.1.trans first.1, second.2.1.trans first.2.1, fun m => (second.2.2 m).trans (first.2.2 m)⟩

theorem sameLanes_setLink {l : Nat} {f : Link → Link} {s : State} (same : (f (s.linkOf l)).lanesGood = (s.linkOf l).lanesGood) :
    SameLanes s (setLink l f s) := by
  refine ⟨length_setLink .., rfl, fun m => ?_⟩
  by_cases here : m = l
  · by_cases inside : l < s.lnk.links.length
    · rw [here, linkOf_setLink_same f inside, same]
    · rw [here, State.linkOf, State.linkOf, nth, nth, List.getElem?_eq_none (by rw [length_setLink]; omega),
        List.getElem?_eq_none (by omega)]
  · rw [linkOf_setLink_other f s here]

theorem sameLanes_linkDown {l : Nat} {s : State} (inside : l < s.lnk.links.length) : SameLanes s (linkDown l .down s) := by
  refine ⟨linkDown_length .down, linkDown_carts .down, fun m => ?_⟩
  by_cases here : m = l
  · obtain ⟨lost, down⟩ := linkDown_same (s := s) .down inside (by decide)
    rw [here, down]
    rfl
  · exact (linkDown_other .down here).lanesGood

theorem sameLanes_rewidth (l : Nat) (s : State) : SameLanes s (rewidth l s) := by
  cases trained : (s.linkOf l).trained with
  | false => rw [rewidth_untrained trained]; exact SameLanes.refl s
  | true =>
    have inside := link_inside_of_trained trained
    have wide : SameLanes s (widened l s) := by
      have set : SameLanes s (setLink l (fun _ => resized (s.linkOf l)) s) := sameLanes_setLink rfl
      obtain ⟨lnk, _⟩ := widened_parts (s := s) (l := l)
      exact ⟨by rw [lnk]; exact set.1, by rw [lnk]; exact set.2.1, fun m => by rw [linkOf_of_lnk lnk]; exact set.2.2 m⟩
    rw [rewidth_trained trained]
    split
    · exact sameLanes_setLink rfl
    · split
      · exact wide.trans (sameLanes_linkDown (by rw [length_widened]; exact inside))
      · exact wide.trans (sameLanes_setLink rfl)

theorem bit_sub_two_pow {v i : Nat} (set : bit v i = true) : bit (v - 2 ^ i) i = false := by
  rw [bit, beq_iff_eq] at set
  have split := Nat.div_add_mod v (2 ^ i)
  have low : v % 2 ^ i < 2 ^ i := Nat.mod_lt _ (Nat.two_pow_pos i)
  obtain ⟨q, hq⟩ : ∃ q, v / 2 ^ i = q + 1 := 
    Nat.exists_eq_succ_of_ne_zero fun zero => by rw [zero] at set; cases set
  have rest : v - 2 ^ i = 2 ^ i * q + v % 2 ^ i := by
    rw [hq, Nat.mul_add, Nat.mul_one] at split
    omega
  rw [bit, rest, Nat.mul_add_div (Nat.two_pow_pos i), Nat.div_eq_of_lt low, beq_eq_false_iff_ne]
  omega

/-! ## A lane that is no longer good (R261) -/

section Drop
variable {s : State} {l i : Nat}

/-- A link without a lane. -/
def lostLane (i : Nat) (x : Link) : Link := { x with
  lanesGood := x.lanesGood - 2 ^ i
  addLanes := if bit x.addLanes i then x.addLanes - 2 ^ i else x.addLanes
  newLanes := if bit x.newLanes i then x.newLanes - 2 ^ i else x.newLanes
  newAt := mapSet 0 x.newAt i 0 }

theorem dropLane_good (good : bit (s.linkOf l).lanesGood i = true) : dropLane l i s = rewidth l (setLink l (lostLane i) s) :=
  if_pos good

theorem dropLane_dark (dark : bit (s.linkOf l).lanesGood i = false) : dropLane l i s = s := if_neg (Bool.eq_false_iff.1 dark)

theorem dropLane_parts (l i : Nat) (s : State) : (dropLane l i s).lnk.links.length = s.lnk.links.length ∧
    (dropLane l i s).lnk.carts = s.lnk.carts ∧ bit ((dropLane l i s).linkOf l).lanesGood i = false ∧
    ∀ m, m ≠ l → ((dropLane l i s).linkOf m).lanesGood = (s.linkOf m).lanesGood := by
  cases good : bit (s.linkOf l).lanesGood i with
  | false => rw [dropLane_dark good]; exact ⟨rfl, rfl, good, fun _ _ => rfl⟩
  | true =>
    have inside : l < s.lnk.links.length := link_inside fun absent => by
      rw [absent] at good
      exact absurd good (by rw [show ({} : Link).lanesGood = 0 from rfl, bit, Nat.zero_div]; decide)
    rw [dropLane_good good]
    obtain ⟨length, carts, lanes⟩ := sameLanes_rewidth l (setLink l (lostLane i) s)
    refine ⟨length.trans (length_setLink ..), carts, ?_, fun m other => ?_⟩
    · rw [lanes, linkOf_setLink_same _ inside]
      exact bit_sub_two_pow good
    · rw [lanes, linkOf_setLink_other _ _ other]

theorem foldl_dropLane (w : Nat) (ls : List Nat) (s : State) :
    (ls.foldl (fun s l => dropLane l w s) s).lnk.carts = s.lnk.carts ∧
    ∀ m, m ∈ ls ∨ bit (s.linkOf m).lanesGood w = false →
      bit ((ls.foldl (fun s l => dropLane l w s) s).linkOf m).lanesGood w = false := by
  induction ls generalizing s with
  | nil => exact ⟨rfl, fun m dark => dark.resolve_left List.not_mem_nil⟩
  | cons l ls ih =>
    obtain ⟨_, carts, here, away⟩ := dropLane_parts l w s
    obtain ⟨carts', dark⟩ := ih (dropLane l w s)
    refine ⟨carts'.trans carts, fun m which => dark m ?_⟩
    by_cases same : m = l
    · exact Or.inr (by rw [same]; exact here)
    · rcases which with mem | was
      · exact Or.inl ((List.mem_cons.1 mem).resolve_left same)
      · exact Or.inr (by rw [away m same]; exact was)

/-- Lanes that may carry flits where none waits to be added. -/
theorem ready_settled {x : Link} (added : x.addLanes = 0) (fresh : x.newLanes = 0) : x.ready = x.lanesGood &&& 0xFFFF := by
  rw [Link.ready, added, fresh]
  rfl

theorem lostLane_settled {x : Link} (added : x.addLanes = 0) (fresh : x.newLanes = 0) (i : Nat) :
    newWidth (lostLane i x) = widthFor (popcount 16 ((x.lanesGood - 2 ^ i) &&& 0xFFFF)) := by
  have none_ : bit 0 i = false := by rw [bit, Nat.zero_div]; rfl
  rw [newWidth, ready_settled (x := lostLane i x)]
  · rfl
  · change (if bit x.addLanes i then x.addLanes - 2 ^ i else x.addLanes) = 0
    rw [added, none_, if_neg Bool.false_ne_true]
  · change (if bit x.newLanes i then x.newLanes - 2 ^ i else x.newLanes) = 0
    rw [fresh, none_, if_neg Bool.false_ne_true]

/-- A link with what its FEC has found. -/
def withFec (u c : Nat) (x : Link) : Link :=
  { x with fecUncorrectable := satAdd 16 x.fecUncorrectable u, fecCorrected := satAdd 32 x.fecCorrected c }

theorem exec_laneDrop (link : l < 32) (lane : i < 16) (u c : Nat) (s : State) :
    exec (.laneDrop l i u c) s = .next (doLaneDrop l i u c s) := onUnit_runs ⟨link, lane⟩

theorem laneDrop_drops {u c : Nat} (powered : s.powered = true) (trained : (s.linkOf l).trained = true)
    (used : bit (s.linkOf l).lanesUsed i = true) (good : bit (s.linkOf l).lanesGood i = true) :
    doLaneDrop l i u c s = rewidth l (setLink l (fun x => lostLane i (withFec u c x)) s) := by
  have inside := link_inside_of_trained trained
  refine (if_pos (by rw [powered, used]; rfl)).trans ?_
  have here : (setLink l (withFec u c) s).linkOf l = withFec u c (s.linkOf l) := linkOf_setLink_same _ inside
  refine (dropLane_good (s := setLink l (withFec u c) s) (by rw [here]; exact good)).trans ?_
  rw [setLink_setLink _ _ inside]

end Drop

/-! ## Cartridges -/

theorem cart_setCart_same {k : Nat} {s : State} (f : Cart → Cart) (inside : k < s.lnk.carts.length) :
    nth {} (setCart k f s).lnk.carts k = f (nth {} s.lnk.carts k) := nth_setNth_same {} _ inside

theorem cart_setCart_other {j k : Nat} (f : Cart → Cart) (s : State) (other : j ≠ k) :
    nth {} (setCart k f s).lnk.carts j = nth {} s.lnk.carts j := nth_setNth_other {} s.lnk.carts _ other

theorem linkOf_setCart (k : Nat) (f : Cart → Cart) (s : State) (l : Nat) : (setCart k f s).linkOf l = s.linkOf l := rfl

theorem mem_cartLinks {k l : Nat} (of : l / 8 = k) : l ∈ cartLinks k :=
  List.mem_map.2 ⟨l % 8, List.mem_range.2 (Nat.mod_lt _ (by decide)), by omega⟩

theorem foldl_raise_lnk {α : Type} (kind sev : Nat) (unit : Nat) (data : α → List Nat) (l : List α) (s : State) :
    (l.foldl (fun s w => raise kind sev unit (data w) s) s).lnk = s.lnk := by
  induction l generalizing s with
  | nil => rfl
  | cons w l ih => exact (ih _).trans (raise_lnk ..)

/-- A link of an open cartridge. -/
def Dark (x : Link) : Prop :=
  (x.state = .down ∨ x.state = .unlicensed ∨ x.state = .quiesced) ∧ x.lanesGood = 0

/-- What the opening of a lever does to a link. -/
def darken (s : State) (l : Nat) : State :=
  let s := setLink l (fun x => { x with lanesGood := 0 }) s
  if (s.linkOf l).state = .unlicensed || (s.linkOf l).state = .quiesced then s else linkDown l .down s

theorem darken_parts {l : Nat} {s : State} (inside : l < s.lnk.links.length) :
    (darken s l).lnk.links.length = s.lnk.links.length ∧ (darken s l).lnk.carts = s.lnk.carts ∧ Dark ((darken s l).linkOf l) ∧
    ∀ m, m ≠ l → SameLink (s.linkOf m) ((darken s l).linkOf m) := by
  unfold darken
  extract_lets z
  have length : z.lnk.links.length = s.lnk.links.length := length_setLink ..
  have here : z.linkOf l = { s.linkOf l with lanesGood := 0 } := linkOf_setLink_same _ inside
  have away : ∀ m, m ≠ l → z.linkOf m = s.linkOf m := fun m other => linkOf_setLink_other _ _ other
  split
  · next held =>
    rw [Bool.or_eq_true, decide_eq_true_eq, decide_eq_true_eq] at held
    exact ⟨length, rfl, ⟨Or.inr held, by rw [here]⟩, fun m other => by rw [away m other]; exact SameLink.refl _⟩
  · obtain ⟨lost, down⟩ := linkDown_same (s := z) (l := l) .down (by rw [length]; exact inside) (by decide)
    refine ⟨(linkDown_length .down).trans length, linkDown_carts .down, ⟨Or.inl (by rw [down]; rfl), by rw [down, here]; rfl⟩,
      fun m other => ?_⟩
    have same := linkDown_other (s := z) .down other
    rw [away m other] at same
    exact same

theorem SameLink.dark {x y : Link} (same : SameLink x y) (dark : Dark x) : Dark y := by
  rw [Dark, same.state, same.lanesGood]
  exact dark

theorem foldl_darken (ls : List Nat) (s : State) (inside : ∀ l ∈ ls, l < s.lnk.links.length) :
    (ls.foldl darken s).lnk.carts = s.lnk.carts ∧
    ∀ m, m ∈ ls ∨ Dark (s.linkOf m) → Dark ((ls.foldl darken s).linkOf m) := by
  induction ls generalizing s with
  | nil => exact ⟨rfl, fun m dark => dark.resolve_left List.not_mem_nil⟩
  | cons l ls ih =>
    obtain ⟨length, carts, here, away⟩ := darken_parts (inside l (List.mem_cons_self ..))
    obtain ⟨carts', dark⟩ := ih (darken s l) fun m mem => by rw [length]; exact inside m (List.mem_cons_of_mem _ mem)
    refine ⟨carts'.trans carts, fun m which => dark m ?_⟩
    by_cases same : m = l
    · exact Or.inr (by rw [same]; exact here)
    · rcases which with mem | was
      · exact Or.inl ((List.mem_cons.1 mem).resolve_left same)
      · exact Or.inr ((away m same).dark was)

end Sys2Proof.Proofs
end


section
/-! Training, lanes, lasers and cartridges: the obligation (R257 to R262, R433). -/
namespace Sys2Proof.Proofs
set_option Elab.async false
open Sys2Proof.Machine Sys2Proof.Laws

/-! ## Training (R259, R264) -/

section Training
variable {s : State} {l : Nat}

/-- A link as its training ends with `good` lanes. -/
def trainedWith (good : Nat) (n : Option Nat) (m : Nat) (light : Bool) (x : Link) : Link := { x with
  lanesGood := good
  addLanes := 0
  newLanes := 0
  newAt := []
  light := light
  neighbourKnown := decide (widthFor (popcount 16 good) ≠ 0) && n.isSome
  neighbour := n.getD 0
  lengthM := min m 255
  width := widthFor (popcount 16 good)
  lanesUsed := lowestLanes good (widthFor (popcount 16 good))
  state := if widthFor (popcount 16 good) ≠ 0 then .up else if light then .down else .noLight }

theorem exec_linkTrained (link : l < 32) (lanes m : Nat) (n : Option Nat) (light : Bool) (s : State) :
    exec (.linkTrained l lanes n m light) s =
      .next (doLinkTrained l (lanes % 65536) (n.map (fun n => n % 65536)) m light s) := onUnit_runs link

theorem linkTrained_idle (idle : s.powered = false ∨ (s.linkOf l).state ≠ .training) (lanes m : Nat) (n : Option Nat)
    (light : Bool) : doLinkTrained l lanes n m light s = s := by
  refine if_pos ?_
  rcases idle with dark | other
  · rw [dark]; rfl
  · rw [decide_eq_true other, Bool.or_true]

/-- A link that is up with `good` lanes. -/
def trainedUp (good n m : Nat) (x : Link) : Link := { x with
  lanesGood := good, addLanes := 0, newLanes := 0, newAt := [], light := true, neighbourKnown := true, neighbour := n,
  lengthM := min m 255, width := widthFor (popcount 16 good),
  lanesUsed := lowestLanes good (widthFor (popcount 16 good)), state := .up }

theorem trainedWith_up {good : Nat} (enough : 4 ≤ popcount 16 good) (n : Nat) (m : Nat) (x : Link) :
    trainedWith good (some n) m true x = trainedUp good n m x := by
  have wide := widthFor_pos enough
  rw [trainedWith, decide_eq_true wide, if_pos wide]
  rfl

variable (powered : s.powered = true) (training : (s.linkOf l).state = .training)
include powered training

theorem linkTrained_ends (lanes m : Nat) (n : Option Nat) (light : Bool) : doLinkTrained l lanes n m light s =
    if widthFor (popcount 16 (if light then lanes &&& (s.cartOf l).lit else 0)) = 0
    then noteLoss l (setLink l (trainedWith (if light then lanes &&& (s.cartOf l).lit else 0) n m light) s)
    else judgeNeighbour l (setLink l (trainedWith (if light then lanes &&& (s.cartOf l).lit else 0) n m light) s) :=
  if_neg (by rw [powered, decide_eq_false (not_not_intro training)]; decide)

/-- Enough lanes, and what the neighbour announces is judged. -/
theorem linkTrained_wide {good : Nat} (m : Nat) (n : Option Nat) {lanes : Nat} (lit : lanes &&& (s.cartOf l).lit = good)
    (enough : 4 ≤ popcount 16 good) :
    doLinkTrained l lanes n m true s = judgeNeighbour l (setLink l (trainedWith good n m true) s) := by
  rw [linkTrained_ends powered training, if_pos rfl, lit, if_neg (widthFor_pos enough)]

theorem linkTrained_narrow {lanes m : Nat} {n : Option Nat} {light : Bool}
    (few : light = false ∨ popcount 16 (lanes &&& (s.cartOf l).lit) < 4) :
    ((doLinkTrained l lanes n m light s).linkOf l).state = (if light then .down else .noLight) ∧
    ((doLinkTrained l lanes n m light s).linkOf l).width = 0 ∧
    (∀ m_1, m_1 ≠ l → (doLinkTrained l lanes n m light s).linkOf m_1 = s.linkOf m_1) ∧
    doLinkTrained l lanes n m light s = { s with lnk := (doLinkTrained l lanes n m light s).lnk } := by
  have inside := link_inside_of_state training (by decide)
  have narrow : widthFor (popcount 16 (if light then lanes &&& (s.cartOf l).lit else 0)) = 0 := by
    rcases few with dark | few
    · rw [dark, if_neg Bool.false_ne_true]; decide
    · cases light with
      | true => exact widthFor_few few
      | false => rw [if_neg Bool.false_ne_true]; decide
  rw [linkTrained_ends powered training, if_pos narrow]
  generalize (if light then lanes &&& (s.cartOf l).lit else 0) = good at narrow ⊢
  obtain ⟨lost, noted⟩ := linkOf_noteLoss_same (s := setLink l (trainedWith good n m light) s) (l := l)
    (by rw [length_setLink]; exact inside)
  rw [noted, linkOf_setLink_same _ inside]
  exact ⟨if_neg (not_not_intro narrow), narrow, fun k other => (linkOf_noteLoss_other other).trans (linkOf_setLink_other _ _ other),
    rfl⟩

end Training

/-! ## The registers of lanes and lasers -/

section Lanes
variable {s : State} {l i : Nat}

theorem exec_linkTrainRetry (link : l < 32) (light : Bool) (s : State) :
    exec (.linkTrainRetry l light) s = .next (doLinkTrainRetry l light s) := onUnit_runs link

theorem linkTrainRetry_idle (idle : s.powered = false ∨ (s.linkOf l).quiesce = true ∨ (s.cartOf l).present = false ∨
    (s.linkOf l).state ≠ .down ∧ (s.linkOf l).state ≠ .noLight) (light : Bool) : doLinkTrainRetry l light s = s := by
  refine if_pos ?_
  rcases idle with dark | quiet | absent | ⟨notDown, lit⟩
  · rw [dark]; rfl
  · rw [quiet, Bool.or_true]; rfl
  · rw [absent, Bool.not_false, Bool.or_true]; rfl
  · rw [decide_eq_false notDown, decide_eq_false lit, Bool.or_false, Bool.not_false, Bool.or_true]

/-- A link that is down tries again with light, and shows that it has none without. -/
theorem linkTrainRetry_tries (powered : s.powered = true) (quiet : (s.linkOf l).quiesce = false)
    (present : (s.cartOf l).present = true) (down : (s.linkOf l).state = .down ∨ (s.linkOf l).state = .noLight) :
    doLinkTrainRetry l true s = setLink l (fun x => { x with
      light := true
      state := .training
      retrains := if s.inStates [.rom, .staging] then x.retrains else satAdd 16 x.retrains 1 }) s ∧
    doLinkTrainRetry l false s = setLink l (fun x => { x with light := false, state := .noLight }) s := by
  have inside : l < s.lnk.links.length := by
    rcases down with down | down <;> exact link_inside_of_state down (by decide)
  have state : (decide ((s.linkOf l).state = .down) || decide ((s.linkOf l).state = .noLight)) = true := by
    rw [Bool.or_eq_true, decide_eq_true_eq, decide_eq_true_eq]
    exact down
  have goes : ¬ (!s.powered || (s.linkOf l).quiesce || !(s.cartOf l).present ||
      !(decide ((s.linkOf l).state = .down) || decide ((s.linkOf l).state = .noLight))) = true := by
    rw [powered, quiet, present, state]
    decide
  refine ⟨(if_neg goes).trans ?_, if_neg goes⟩
  change beginTraining l (setLink l (fun x => { x with light := true, state := .down }) s) = _
  rw [beginTraining, setLink_setLink _ _ inside]
  rfl

theorem exec_laneAdd (link : l < 32) (lane : i < 16) (s : State) : exec (.laneAdd l i) s = .next (doLaneAdd l i s) :=
  onUnit_runs ⟨link, lane⟩

section Lit
variable (powered : s.powered = true) (trained : (s.linkOf l).trained = true) (lit : bit (s.cartOf l).lit i = true)
include powered trained lit

theorem laneAdd_lights (dark : bit (s.linkOf l).lanesGood i = false) : doLaneAdd l i s = lightLane l i s :=
  (if_pos (by rw [powered, trained, lit]; rfl)).trans (if_pos (by rw [dark]; rfl))

theorem laneAdd_admits (good : bit (s.linkOf l).lanesGood i = true) (fresh : bit (s.linkOf l).newLanes i = true)
    (due : mapGet 0 (s.linkOf l).newAt i + tcSec ≤ s.frm.tc) : doLaneAdd l i s = admitLane l i s :=
  (if_pos (by rw [powered, trained, lit]; rfl)).trans ((if_neg (by rw [good]; decide)).trans
    (if_pos (by rw [fresh, decide_eq_true due]; rfl)))

end Lit

theorem laneAdd_idle (idle : s.powered = false ∨ (s.linkOf l).trained = false ∨ bit (s.cartOf l).lit i = false ∨
    bit (s.linkOf l).lanesGood i = true ∧
      (bit (s.linkOf l).newLanes i = false ∨ s.frm.tc < mapGet 0 (s.linkOf l).newAt i + tcSec)) : doLaneAdd l i s = s := by
  unfold doLaneAdd
  extract_lets x
  split
  · next goes =>
    simp only [Bool.and_eq_true] at goes
    obtain ⟨⟨powered, trained⟩, lit⟩ := goes
    rcases idle with dark | untrained | unlit | ⟨good, old⟩
    · rw [dark] at powered; cases powered
    · exact absurd trained (by unfold x; rw [untrained]; decide)
    · rw [unlit] at lit; cases lit
    · rw [if_neg (by unfold x; rw [good]; decide), if_neg]
      rcases old with old | early
      · unfold x
        rw [old, Bool.false_and]
        decide
      · unfold x
        rw [decide_eq_false (Nat.not_le.2 early), Bool.and_false]
        decide
  · rfl

/-- A link one of whose lanes has been good for 1 s. -/
def settled (i : Nat) (x : Link) : Link := { x with newLanes := x.newLanes - 2 ^ i, newAt := mapSet 0 x.newAt i 0 }

theorem admitLane_idle (idle : s.kpr.state ≠ .running) : admitLane l i s = rewidth l (setLink l (settled i) s) := if_neg idle

theorem settled_width {x : Link} (added : x.addLanes = 0) (i : Nat) :
    (settled i x).ready = x.lanesGood &&& (0xFFFF ^^^ (x.newLanes - 2 ^ i)) := by
  change x.lanesGood &&& (0xFFFF ^^^ (x.addLanes ||| (x.newLanes - 2 ^ i))) = _
  rw [added, Nat.zero_or]

end Lanes

section Lasers
variable {s : State} {k w : Nat}

theorem exec_laserFail (cart : k < 4) (laser : w < 16) (s : State) : exec (.laserFail k w) s = .next (doLaserFail k w s) :=
  onUnit_runs ⟨cart, laser⟩

theorem exec_spareLaserInService (cart : k < 4) (laser : w < 16) (s : State) :
    exec (.spareLaserInService k w) s = .next (doSpareLaserInService k w s) := onUnit_runs ⟨cart, laser⟩

theorem exec_cartridgeLeverOpen (cart : k < 4) (s : State) :
    exec (.cartridgeLeverOpen k) s = .next (doCartridgeLeverOpen k s) := onUnit_runs cart

/-- The group of a laser has no spare left. -/
def spent (w : Nat) (c : Cart) : Bool := bit c.spareUsed (w / 4) || decide (field c.tuning (w / 4 * 4) 4 ≠ 0)

/-- A cartridge one of whose lasers has failed. -/
def failedLaser (w : Nat) (c : Cart) : Cart :=
  { c with failed := c.failed ||| 2 ^ w, tuning := if spent w c then c.tuning else c.tuning ||| 2 ^ w }

theorem laserFail_fails (powered : s.powered = true) (present : (nth {} s.lnk.carts k).present = true)
    (works : bit (nth {} s.lnk.carts k).failed w = false) : doLaserFail k w s =
      (cartLinks k).foldl (fun s l => dropLane l w s)
        (raise 0x0041 1 k [w, if spent w (nth {} s.lnk.carts k) then 3 else 1]
          (setCart k (fun _ => failedLaser w (nth {} s.lnk.carts k)) s)) :=
  if_neg (by rw [powered, present, works]; decide)

theorem laserFail_idle (idle : s.powered = false ∨ (nth {} s.lnk.carts k).present = false ∨
    bit (nth {} s.lnk.carts k).failed w = true) : doLaserFail k w s = s := by
  refine if_pos ?_
  rcases idle with dark | absent | failed
  · rw [dark]; rfl
  · rw [absent, Bool.not_false, Bool.or_true]; rfl
  · rw [failed, Bool.or_true]

/-- A cartridge whose spare has taken a wavelength. -/
def spareTaken (w : Nat) (c : Cart) : Cart := { c with
  failed := c.failed - 2 ^ w
  tuning := c.tuning - 2 ^ w
  spareUsed := c.spareUsed ||| 2 ^ (w / 4)
  spareMap := c.spareMap - field c.spareMap (2 * (w / 4)) 2 * 2 ^ (2 * (w / 4)) + w % 4 * 2 ^ (2 * (w / 4)) }

theorem spareLaser_takes (powered : s.powered = true) (present : (nth {} s.lnk.carts k).present = true)
    (tuning : bit (nth {} s.lnk.carts k).tuning w = true) :
    doSpareLaserInService k w s = raise 0x0041 1 k [w, 2] (setCart k (fun _ => spareTaken w (nth {} s.lnk.carts k)) s) :=
  if_neg (by rw [powered, present, tuning]; decide)

theorem spareLaser_idle (idle : s.powered = false ∨ (nth {} s.lnk.carts k).present = false ∨
    bit (nth {} s.lnk.carts k).tuning w = false) : doSpareLaserInService k w s = s := by
  refine if_pos ?_
  rcases idle with dark | absent | none_
  · rw [dark]; rfl
  · rw [absent, Bool.not_false, Bool.or_true]; rfl
  · rw [none_, Bool.not_false, Bool.or_true]

/-- A field of two bits that is replaced. -/
theorem field_replaced (m g : Nat) {v : Nat} (small : v < 4) :
    field (m - field m g 2 * 2 ^ g + v * 2 ^ g) g 2 = v := by
  have split := Nat.div_add_mod m (2 ^ g)
  have low : m % 2 ^ g < 2 ^ g := Nat.mod_lt _ (Nat.two_pow_pos g)
  have parts := Nat.div_add_mod (m / 2 ^ g) 4
  have value : m - field m g 2 * 2 ^ g + v * 2 ^ g = 2 ^ g * (4 * (m / 2 ^ g / 4) + v) + m % 2 ^ g := by
    rw [field, Nat.mul_add, Nat.mul_comm v, Nat.mul_comm (_ % _) (2 ^ g)]
    have whole : 2 ^ g * (m / 2 ^ g) = 2 ^ g * (4 * (m / 2 ^ g / 4)) + 2 ^ g * (m / 2 ^ g % 4) := by
      rw [← Nat.mul_add, parts]
    rw [show (2 : Nat) ^ 2 = 4 from rfl]
    omega
  rw [field, value, Nat.mul_add_div (Nat.two_pow_pos g), Nat.div_eq_of_lt low]
  omega

theorem laserAged_idle (idle : s.powered = false ∨ (nth {} s.lnk.carts k).present = false ∨
    bit (nth {} s.lnk.carts k).aged w = true) : doLaserAged k w s = s := by
  refine if_pos ?_
  rcases idle with dark | absent | aged
  · rw [dark]; rfl
  · rw [absent, Bool.not_false, Bool.or_true]; rfl
  · rw [aged, Bool.or_true]

/-- A cartridge whose lever is open. -/
def opened (c : Cart) : Cart := { c with present := false, blanked := true, tuning := 0, failed := 0xFFFF }

theorem leverOpen_opens (powered : s.powered = true) (present : (nth {} s.lnk.carts k).present = true) :
    doCartridgeLeverOpen k s = (cartLinks k).foldl darken
      (((List.range 16).filter (fun w => !bit (nth {} s.lnk.carts k).failed w)).foldl (fun s w => raise 0x0041 1 k [w, 3] s)
        (setCart k opened s)) :=
  if_neg (by rw [powered, present]; decide)

theorem leverOpen_idle (idle : s.powered = false ∨ (nth {} s.lnk.carts k).present = false) : doCartridgeLeverOpen k s = s := by
  refine if_pos ?_
  rcases idle with dark | absent
  · rw [dark]; rfl
  · rw [absent, Bool.not_false, Bool.or_true]

end Lasers

/-! ## The obligation -/

/-- Settles O49: training through `judgeNeighbour`, a width through `rewidth`, a link that goes down through `linkDown`. -/
theorem linkHardware : Obligations.LinkHardware := by
  unfold Obligations.LinkHardware
  refine ⟨?up, ?wrong, ?narrow, ?untrained, ?retry, ?noRetry, ?drop, ?dropDown, ?noDrop, ?light, ?wait, ?settle, ?noAdd, ?fail,
    ?noFail, ?spare, ?noSpare, ?aged, ?notAged, ?lever, ?noLever⟩
  case up =>
    intro s l lanes n m link powered training accepts enough
    have inside := link_inside_of_state training (by decide)
    rw [exec_linkTrained link, Option.map_some, linkTrained_wide powered training m _ rfl enough]
    generalize (lanes % 65536) &&& (s.cartOf l).lit = good at enough ⊢
    rw [setLink_congr (g := trainedUp good (n % 65536) m) (trainedWith_up enough (n % 65536) m (s.linkOf l)),
      judgeNeighbour_accepts, setLink_setLink _ _ inside]
    · rfl
    · rw [linkOf_setLink_same _ inside]; rfl
    · rw [linkOf_setLink_same _ inside]
      change (true && ((s.linkOf l).expectAny || decide (n % 65536 = (s.linkOf l).expected))) = true
      rcases accepts with any | same
      · rw [any]; rfl
      · rw [decide_eq_true same.symm, Bool.or_true]; rfl
  case wrong =>
    intro s l lanes n m link length powered training picky other enough
    have inside := link_inside_of_state training (by decide)
    have run := (exec_linkTrained link lanes m (some n) true s).trans
      (congrArg Host.Outcome.next (linkTrained_wide powered training m (some (n % 65536)) rfl enough))
    generalize (lanes % 65536) &&& (s.cartOf l).lit = good at enough run ⊢
    rw [setLink_congr (g := trainedUp good (n % 65536) m) (trainedWith_up enough (n % 65536) m (s.linkOf l))] at run
    obtain ⟨lost, judged⟩ := judgeNeighbour_refuses (s := setLink l (trainedUp good (n % 65536) m) s) (l := l)
      (by rw [length_setLink]; exact inside) (by rw [linkOf_setLink_same _ inside]; rfl) (by
        rw [linkOf_setLink_same _ inside]
        change (true && ((s.linkOf l).expectAny || decide (n % 65536 = (s.linkOf l).expected))) = false
        rw [picky, decide_eq_false fun same => other same.symm]
        rfl)
    rw [judged, setLink_setLink _ _ inside] at run
    exact ⟨_, run, by rw [linkOf_setLink_same _ inside], by rw [linkOf_setLink_same _ inside]; rfl,
      by rw [linkOf_setLink_same _ inside]; rfl, fun m away => linkOf_setLink_other _ _ away, rfl⟩
  case narrow =>
    intro s l lanes m n light link length powered training few
    exact ⟨_, exec_linkTrained link lanes m n light s, linkTrained_narrow powered training few⟩
  case untrained =>
    intro s l lanes m n light link idle
    rw [exec_linkTrained link, linkTrained_idle idle]
  case retry =>
    intro s l link powered quiet present down
    obtain ⟨lit, unlit⟩ := linkTrainRetry_tries powered quiet present down
    rw [exec_linkTrainRetry link, exec_linkTrainRetry link, lit, unlit]
    exact ⟨rfl, rfl⟩
  case noRetry =>
    intro s l light link idle
    rw [exec_linkTrainRetry link, linkTrainRetry_idle idle]
  case drop =>
    intro s l i u c link length lane powered trained used good added fresh enough
    have inside := link_inside_of_trained trained
    have run := (exec_laneDrop link lane u c s).trans (congrArg Host.Outcome.next (laneDrop_drops powered trained used good))
    have here : (setLink l (fun x => lostLane i (withFec u c x)) s).linkOf l = lostLane i (withFec u c (s.linkOf l)) :=
      linkOf_setLink_same _ inside
    have width : newWidth (lostLane i (withFec u c (s.linkOf l))) = _ := lostLane_settled added fresh i
    have trained' : ((setLink l (fun x => lostLane i (withFec u c x)) s).linkOf l).trained = true := by
      rw [here]; exact trained
    have wide : newWidth ((setLink l (fun x => lostLane i (withFec u c x)) s).linkOf l) ≠ 0 := by
      rw [here, width]; exact widthFor_pos enough
    obtain ⟨drops, lost, link'⟩ := rewidth_stays trained' wide
    obtain ⟨away, mem, cores, frm⟩ := rewidth_stays_parts trained' wide
    rw [here] at link'
    refine ⟨_, run, by rw [link']; rfl, by rw [link', width], by rw [link']; rfl, by rw [link']; rfl, by rw [link']; rfl,
      fun m other => (away m other).trans (linkOf_setLink_other _ _ other), mem, cores, frm⟩
  case dropDown =>
    intro s l i u c link length lane powered trained had used good added fresh few
    have inside := link_inside_of_trained trained
    have free : false = false := rfl
    have run := (exec_laneDrop link lane u c s).trans (congrArg Host.Outcome.next (laneDrop_drops powered trained used good))
    have here : (setLink l (fun x => lostLane i (withFec u c x)) s).linkOf l = lostLane i (withFec u c (s.linkOf l)) :=
      linkOf_setLink_same _ inside
    have narrow : newWidth (lostLane i (withFec u c (s.linkOf l))) = 0 :=
      (lostLane_settled added fresh i).trans (widthFor_few few)
    obtain ⟨state, width, lanes⟩ := rewidth_down (s := setLink l (fun x => lostLane i (withFec u c x)) s) (l := l)
      (by rw [here]; exact trained) (by rw [here]; exact narrow) (by rw [here]; exact had)
    rw [here] at lanes
    have kept : Keeps (Untouched.allBut [.reports, .hif, .frm, .cores, .lnk]) s
        (rewidth l (setLink l (fun x => lostLane i (withFec u c x)) s)) := rewidth_keeps _ _ (setLink_keeps _ _ _ (Keeps.refl _))
    exact ⟨_, run, lanes, state, width, (kept.stacked rfl).1⟩
  case noDrop =>
    intro s l i u c link lane idle
    rw [exec_laneDrop link lane]
    refine congrArg Host.Outcome.next (if_neg ?_)
    rcases idle with dark | unused
    · rw [dark, Bool.false_and]; decide
    · rw [unused, Bool.and_false]; decide
  case light =>
    intro s l i link lane powered trained lit dark
    rw [exec_laneAdd link lane, laneAdd_lights powered trained lit dark, lightLane]
  case wait =>
    intro s l i link lane powered trained lit good fresh due running
    rw [exec_laneAdd link lane, laneAdd_admits powered trained lit good fresh due]
    exact congrArg Host.Outcome.next (if_pos running)
  case settle =>
    intro s l i link lane powered trained lit good fresh due length idle added enough
    have inside := link_inside_of_trained trained
    have here : (setLink l (settled i) s).linkOf l = settled i (s.linkOf l) := linkOf_setLink_same _ inside
    have run := (exec_laneAdd link lane s).trans (congrArg Host.Outcome.next
      ((laneAdd_admits powered trained lit good fresh due).trans (admitLane_idle idle)))
    have ready := settled_width added i
    have width : newWidth (settled i (s.linkOf l)) = widthFor (popcount 16
        ((s.linkOf l).lanesGood &&& (0xFFFF ^^^ ((s.linkOf l).newLanes - 2 ^ i)))) := by rw [newWidth, ready]
    have trained' : ((setLink l (settled i) s).linkOf l).trained = true := by rw [here]; exact trained
    have wide : newWidth ((setLink l (settled i) s).linkOf l) ≠ 0 := by rw [here, width]; exact widthFor_pos enough
    obtain ⟨drops, lost, link'⟩ := rewidth_stays trained' wide
    obtain ⟨away, mem, cores, _⟩ := rewidth_stays_parts trained' wide
    rw [here] at link'
    exact ⟨_, run, by rw [link']; rfl, by rw [link']; rfl, by rw [link', width], by rw [link', width, ready],
      fun m other => (away m other).trans (linkOf_setLink_other _ _ other), mem, cores⟩
  case noAdd =>
    intro s l i link lane idle
    rw [exec_laneAdd link lane, laneAdd_idle idle]
  case fail =>
    intro s k w cart laser length powered present works _
    have inside : k < s.lnk.carts.length := by omega
    have free : false = false := rfl
    have run := (exec_laserFail cart laser s).trans (congrArg Host.Outcome.next (laserFail_fails powered present works))
    have kept : Keeps (Untouched.allBut [.reports, .hif, .frm, .cores, .lnk]) s (doLaserFail k w s) :=
      doLaserFail_keeps _ _ _ (Keeps.refl _)
    rw [laserFail_fails powered present works] at kept
    have lnk := raise_lnk 0x0041 1 k [w, if spent w (nth {} s.lnk.carts k) then 3 else 1]
      (setCart k (fun _ => failedLaser w (nth {} s.lnk.carts k)) s)
    generalize raise 0x0041 1 k [w, if spent w (nth {} s.lnk.carts k) then 3 else 1]
      (setCart k (fun _ => failedLaser w (nth {} s.lnk.carts k)) s) = z at run kept lnk
    obtain ⟨carts, dark⟩ := foldl_dropLane w (cartLinks k) z
    have cart' : nth {} ((cartLinks k).foldl (fun s l => dropLane l w s) z).lnk.carts k =
        failedLaser w (nth {} s.lnk.carts k) := by
      rw [carts, lnk]
      exact cart_setCart_same _ inside
    refine ⟨_, run, by rw [cart']; rfl, fun unused idle => ?_, fun used => ?_, fun l of => dark l (Or.inl (mem_cartLinks of)),
      fun j other => ?_, (kept.stacked rfl).1⟩
    · rw [cart', failedLaser, spent, unused, decide_eq_false (not_not_intro idle)]
      rfl
    · rw [cart', failedLaser, spent, used]
      rfl
    · rw [carts, lnk]
      exact cart_setCart_other _ _ other
  case noFail =>
    intro s k w cart laser idle
    rw [exec_laserFail cart laser, laserFail_idle idle]
  case spare =>
    intro s k w cart laser length powered present tuning failed
    have inside : k < s.lnk.carts.length := by omega
    have run := (exec_spareLaserInService cart laser s).trans
      (congrArg Host.Outcome.next (spareLaser_takes powered present tuning))
    have cart' : nth {} (raise 0x0041 1 k [w, 2] (setCart k (fun _ => spareTaken w (nth {} s.lnk.carts k)) s)).lnk.carts k =
        spareTaken w (nth {} s.lnk.carts k) := by
      rw [raise_lnk]
      exact cart_setCart_same _ inside
    refine ⟨_, run, ?_⟩
    rw [cart']
    exact ⟨rfl, rfl, bit_sub_two_pow failed, bit_sub_two_pow tuning, bit_or_two_pow _ _,
      field_replaced _ _ (Nat.mod_lt _ (by decide))⟩
  case noSpare =>
    intro s k w cart laser idle
    rw [exec_spareLaserInService cart laser, spareLaser_idle idle]
  case aged =>
    intro s k w cart laser powered present fresh
    rw [exec_laserAged cart laser, doLaserAged_tells powered present fresh]
  case notAged =>
    intro s k w cart laser idle
    rw [exec_laserAged cart laser, laserAged_idle idle]
  case lever =>
    intro s k cart length powered present links
    have inside : k < s.lnk.carts.length := by omega
    have free : false = false := rfl
    have run := (exec_cartridgeLeverOpen cart s).trans (congrArg Host.Outcome.next (leverOpen_opens powered present))
    have kept : Keeps (Untouched.allBut [.reports, .hif, .frm, .cores, .lnk]) s (doCartridgeLeverOpen k s) :=
      doCartridgeLeverOpen_keeps _ _ (Keeps.refl _)
    rw [leverOpen_opens powered present] at kept
    have lnk := foldl_raise_lnk 0x0041 1 k (fun w => [w, 3]) ((List.range 16).filter (fun w => !bit (nth {} s.lnk.carts k).failed w))
      (setCart k opened s)
    generalize ((List.range 16).filter (fun w => !bit (nth {} s.lnk.carts k).failed w)).foldl
      (fun s w => raise 0x0041 1 k [w, 3] s) (setCart k opened s) = z at run kept lnk
    obtain ⟨carts, dark⟩ := foldl_darken (cartLinks k) z fun l mem => by
      rw [lnk]
      change l < s.lnk.links.length
      obtain ⟨j, small, rfl⟩ := List.mem_map.1 mem
      have := List.mem_range.1 small
      omega
    have cart' : nth {} ((cartLinks k).foldl darken z).lnk.carts k = opened (nth {} s.lnk.carts k) := by
      rw [carts, lnk]
      exact cart_setCart_same _ inside
    refine ⟨_, run, by rw [cart']; rfl, by rw [cart']; rfl, by rw [cart']; rfl, fun l of => dark l (Or.inl (mem_cartLinks of)),
      fun j other => ?_, (kept.stacked rfl).1⟩
    rw [carts, lnk]
    exact cart_setCart_other _ _ other
  case noLever =>
    intro s k cart idle
    rw [exec_cartridgeLeverOpen cart, leverOpen_idle idle]

end Sys2Proof.Proofs
end


section
/-! Flits that arrive on a link (R266, R267, R274). -/
namespace Sys2Proof.Proofs
set_option Elab.async false
open Sys2Proof.Machine Sys2Proof.Laws

/-! ## What a flit's trailer does where nothing waits -/

/-- A link that has taken a flit's trailer. -/
def trailed (f : LinkFlit) (x : Link) : Link := { x with
  replay := ackedReplay f.ack x.replay
  again := if (ackedReplay f.ack x.replay).length < x.replay.length then 0 else x.again
  usedCredits := returnCredits (returnCredits x.usedCredits 0 f.credU) 1 f.credS }

section Trailer
variable {s : State} {l : Nat} {f : LinkFlit}

theorem settleQuiesce_open (open_ : (s.linkOf l).quiesce = false) : settleQuiesce l s = s := by
  refine if_neg ?_
  rw [open_, Bool.false_and, Bool.false_and, Bool.false_and]
  exact Bool.false_ne_true

theorem takeTrailer_clear (inside : l < s.lnk.links.length) (open_ : (s.linkOf l).quiesce = false)
    (clear : (s.linkOf l).waiting = []) : takeTrailer l f s = setLink l (trailed f) s := by
  have link : (setLink l (trailed f) s).linkOf l = trailed f (s.linkOf l) := linkOf_setLink_same _ inside
  change settleQuiesce l (drainLink l _ (setLink l (trailed f) s)) = _
  rw [drainLink_empty _ (by rw [link]; exact clear), settleQuiesce_open (by rw [link]; exact open_)]

end Trailer

/-! ## A flit is taken -/

/-- A link that has taken the flit it expected. -/
def taken (f : LinkFlit) (x : Link) : Link := trailed f { x with expectSeq := (x.expectSeq + 1) % 4096 }

/-- The acknowledgement that goes out where nothing else has. -/
def acknowledged (l sent : Nat) (s : State) : State :=
  if (s.linkOf l).state = .up && decide ((s.linkOf l).sendSeq = sent) then sendIdle l s else s

theorem sendsOnly_acknowledged (l sent : Nat) (s : State) : SendsOnly s (acknowledged l sent s) := by
  unfold acknowledged
  split
  · next goes =>
    rw [Bool.and_eq_true, decide_eq_true_eq] at goes
    exact sendsOnly_sendIdle goes.1
  · exact SendsOnly.refl s

/-- An IDLE flit takes no place in a replay buffer. -/
theorem replay_setLink {l : Nat} {g : Link → Link} {s : State} (same : ∀ x, (g x).replay = x.replay) (k : Nat) :
    ((setLink l g s).linkOf k).replay = (s.linkOf k).replay := by
  by_cases here : k = l
  · by_cases inside : l < s.lnk.links.length
    · rw [here, linkOf_setLink_same g inside, same]
    · rw [here, State.linkOf, State.linkOf, nth, nth, List.getElem?_eq_none (by rw [length_setLink]; omega),
        List.getElem?_eq_none (by omega)]
  · rw [linkOf_setLink_other g s here]

/-- A link that has returned the credits it owed, as far as a flit carries them. -/
def repaid (y x : Link) : Link :=
  { x with owed := [nth 0 x.owed 0 - min 15 (nth 0 y.owed 0), nth 0 x.owed 1 - min 15 (nth 0 y.owed 1)] }

theorem sendIdle_eq (l : Nat) (s : State) : ∃ o, sendIdle l s = emit o (setLink l (repaid (s.linkOf l)) s) := ⟨_, rfl⟩

theorem replay_sendIdle (l k : Nat) (s : State) : ((sendIdle l s).linkOf k).replay = (s.linkOf k).replay := by
  obtain ⟨o, eq⟩ := sendIdle_eq l s
  rw [eq]
  exact replay_setLink (l := l) (g := repaid (s.linkOf l)) (s := s) (fun _ => rfl) k

theorem replay_acknowledged (l sent k : Nat) (s : State) : ((acknowledged l sent s).linkOf k).replay = (s.linkOf k).replay := by
  unfold acknowledged
  split
  · exact replay_sendIdle l k s
  · rfl

section Receive
variable {s : State} {l : Nat} {f : LinkFlit} (powered : s.powered = true) (up : (s.linkOf l).state = .up)
include powered up

theorem receive_early (early : f.seq ≠ (s.linkOf l).expectSeq) (body : State → State) : receive l f body s = sendIdle l s :=
  (if_neg (by rw [powered, decide_eq_false (not_not_intro up)]; decide)).trans (if_pos early)

variable (open_ : (s.linkOf l).quiesce = false) (clear : (s.linkOf l).waiting = []) (next : f.seq = (s.linkOf l).expectSeq)
include open_ clear next

theorem receive_takes (body : State → State) :
    receive l f body s = acknowledged l (s.linkOf l).sendSeq (body (setLink l (taken f) s)) := by
  have inside := link_inside_of_state up (by decide)
  have stepped : (setLink l (fun x => { x with expectSeq := (x.expectSeq + 1) % 4096 }) s).linkOf l =
      { s.linkOf l with expectSeq := ((s.linkOf l).expectSeq + 1) % 4096 } := linkOf_setLink_same _ inside
  have trailer : takeTrailer l f (setLink l (fun x => { x with expectSeq := (x.expectSeq + 1) % 4096 }) s) =
      setLink l (taken f) s := by
    rw [takeTrailer_clear (by rw [length_setLink]; exact inside) (by rw [stepped]; exact open_) (by rw [stepped]; exact clear),
      setLink_setLink _ _ inside]
    rfl
  have sent : ((setLink l (taken f) s).linkOf l).sendSeq = (s.linkOf l).sendSeq := by
    rw [linkOf_setLink_same _ inside]
    rfl
  refine (if_neg (by rw [powered, decide_eq_false (not_not_intro up)]; decide)).trans
    ((if_neg (not_not_intro next)).trans ?_)
  change acknowledged l ((takeTrailer l f (setLink l _ s)).linkOf l).sendSeq (body (takeTrailer l f (setLink l _ s))) = _
  rw [trailer, sent]

end Receive

theorem receive_idle {l : Nat} {s : State} (idle : s.powered = false ∨ (s.linkOf l).state ≠ .up) (f : LinkFlit)
    (body : State → State) : receive l f body s = s := by
  refine if_pos ?_
  rcases idle with dark | other
  · rw [dark]; rfl
  · rw [decide_eq_true other, Bool.or_true]

/-! ## Delivery -/

/-- A link that has taken a flit whose receiver buffer is free again. -/
def arrived (f : LinkFlit) (x : Link) : Link :=
  { taken f x with owed := setNth x.owed (b2n f.flit.scheduled) (nth 0 x.owed (b2n f.flit.scheduled) + 1) }

section Deliver
variable {s : State} {l : Nat} {f : LinkFlit} (powered : s.powered = true) (up : (s.linkOf l).state = .up)
  (open_ : (s.linkOf l).quiesce = false) (clear : (s.linkOf l).waiting = []) (next : f.seq = (s.linkOf l).expectSeq)
  (assigned : s.lnk.assigned = true)
include powered up open_ clear next assigned

/-- A flit for this device. -/
theorem receive_delivers (own : f.flit.dest = s.lnk.id) (body : State → State) :
    receive l f (route l f.flit body) s = acknowledged l (s.linkOf l).sendSeq (body (setLink l (arrived f) s)) := by
  have inside := link_inside_of_state up (by decide)
  rw [receive_takes powered up open_ clear next]
  refine congrArg (acknowledged l _) ?_
  have routed : route l f.flit body (setLink l (taken f) s) =
      body (oweCredit l (b2n f.flit.scheduled) (setLink l (taken f) s)) :=
    (if_neg (by rw [show (setLink l (taken f) s).lnk.assigned = s.lnk.assigned from rfl, assigned]; decide)).trans (if_pos own)
  rw [routed, oweCredit, setLink_setLink _ _ inside]
  rfl

/-- A flit for another device. -/
theorem receive_forwards (other : f.flit.dest ≠ s.lnk.id) (body : State → State) :
    receive l f (route l f.flit body) s = acknowledged l (s.linkOf l).sendSeq (forward l f.flit (setLink l (taken f) s)) := by
  rw [receive_takes powered up open_ clear next]
  refine congrArg (acknowledged l _) ?_
  exact (if_neg (by rw [show (setLink l (taken f) s).lnk.assigned = s.lnk.assigned from rfl, assigned]; decide)).trans
    (if_neg other)

end Deliver

/-- What has been answered keeps the number of the flit expected next. -/
theorem expectSeq_acknowledged {s t : State} {l sent : Nat} {f : LinkFlit} (inside : l < s.lnk.links.length)
    (kept : LinksKept (setLink l (arrived f) s) t) :
    ((acknowledged l sent t).linkOf l).expectSeq = ((s.linkOf l).expectSeq + 1) % 4096 := by
  rw [((sendsOnly_acknowledged l sent t).kept.2.1 l).expectSeq, (kept.2.1 l).expectSeq, linkOf_setLink_same _ inside]
  rfl

/-- Routes look at the states of the links only. -/
theorem routeTo_setLink {s : State} {l : Nat} {g : Link → Link} (state : ∀ x, (g x).state = x.state)
    (quiesce : ∀ x, (g x).quiesce = x.quiesce) (dest endpoint : Nat) :
    (setLink l g s).routeTo dest endpoint = s.routeTo dest endpoint := by
  have usable : ∀ k, ((setLink l g s).linkOf k).usable = (s.linkOf k).usable := by
    intro k
    by_cases here : k = l
    · by_cases inside : l < s.lnk.links.length
      · rw [here, linkOf_setLink_same g inside, Link.usable, Link.usable, state, quiesce]
      · rw [here, State.linkOf, State.linkOf, nth, nth, List.getElem?_eq_none (by rw [length_setLink]; omega),
          List.getElem?_eq_none (by omega)]
    · rw [linkOf_setLink_other g s here]
  have set : (setLink l g s).fwdSet dest = s.fwdSet dest := rfl
  unfold State.routeTo
  simp only [usable, set]

/-! ## Memory does not look at the links -/

/-- The state with another block of links. -/
def relinked (lnk : LnkBlk) (s : State) : State := { s with lnk := lnk }

theorem setLink_relinked (l : Nat) (g : Link → Link) (s : State) : setLink l g s = relinked (setLink l g s).lnk s := rfl

theorem countFlits_relinked (l flits : Nat) (lnk : LnkBlk) (s : State) :
    countFlits l flits (relinked lnk s) = relinked lnk (countFlits l flits s) := by
  unfold countFlits
  extract_lets out
  repeat' split
  all_goals rfl

theorem crossNet_relinked (src dst flits : Nat) (lnk : LnkBlk) (s : State) :
    crossNet src dst flits (relinked lnk s) = relinked lnk (crossNet src dst flits s) := by
  unfold crossNet
  rw [show (relinked lnk s).routeOf src dst = s.routeOf src dst from rfl]
  generalize s.routeOf src dst = route
  induction route generalizing s with
  | nil => rfl
  | cons e route ih => rw [List.foldl_cons, List.foldl_cons, countFlits_relinked, ih]

theorem netAccess_relinked (w : Who) (a len : Nat) (write : Bool) (lnk : LnkBlk) (s : State) :
    netAccess w a len write (relinked lnk s) = relinked lnk (netAccess w a len write s) := by
  unfold netAccess
  split
  · unfold crossAccess
    simp only [crossNet_relinked]
  · rfl

theorem readWord_relinked {w : Who} {parity : Bool} {a : Nat} {s t : State} {d : List Nat}
    (read : readWord w parity a s = (.data d, t)) (lnk : LnkBlk) :
    readWord w parity a (relinked lnk s) = (.data d, relinked lnk t) := by
  unfold readWord at read ⊢
  rw [show (relinked lnk s).wordBlocked a = s.wordBlocked a from rfl]
  split at read
  · exact absurd (Prod.mk.inj read).1 (by simp)
  · rw [show openRow a (relinked lnk s) = relinked lnk (openRow a s) from rfl]
    generalize openRow a s = z at read ⊢
    simp only at read
    simp only [show (relinked lnk z).pathBad a = z.pathBad a from rfl,
      show (relinked lnk z).codeWord a = z.codeWord a from rfl]
    split at read
    · exact absurd (Prod.mk.inj read).1 (by simp)
    · next good =>
      rw [if_neg good]
      generalize rsDecode (z.codeWord a) = answer at read ⊢
      cases answer with
      | good e =>
        obtain ⟨data, rfl⟩ := Prod.mk.inj read
        rw [← data]
      | corrected e i =>
        obtain ⟨data, rfl⟩ := Prod.mk.inj read
        rw [← data]
        rfl
      | uncorrectable syn => exact absurd (Prod.mk.inj read).1 (by simp)

theorem readWords_relinked {w : Who} {parity : Bool} {n a : Nat} {acc : List Nat} {s t : State} {d : List Nat}
    (read : readWords w parity n a acc s = (.data d, t)) (lnk : LnkBlk) :
    readWords w parity n a acc (relinked lnk s) = (.data d, relinked lnk t) := by
  induction n generalizing a acc s with
  | zero =>
    obtain ⟨data, rfl⟩ := Prod.mk.inj read
    rw [← data]
    rfl
  | succ n ih =>
    rw [readWords] at read ⊢
    split at read
    · next e z word =>
      rw [readWord_relinked word lnk]
      exact ih read
    · exact absurd (Prod.mk.inj read).1 (by simp)

theorem readBytes_relinked {w : Who} {parity : Bool} {a len : Nat} {s t : State} {d : List Nat}
    (read : readBytes w parity a len s = (.data d, t)) (lnk : LnkBlk) :
    readBytes w parity a len (relinked lnk s) = (.data d, relinked lnk t) := by
  unfold readBytes at read ⊢
  simp only [netAccess_relinked] at read ⊢
  split at read
  · next e y words =>
    obtain ⟨data, rfl⟩ := Prod.mk.inj read
    rw [readWords_relinked words lnk, ← data]
  · next fails => exact absurd read (fails _ _)

end Sys2Proof.Proofs
end


section
/-! Flits that arrive on a link: the bodies of each type (R269 to R274). -/
namespace Sys2Proof.Proofs
set_option Elab.async false
open Sys2Proof.Machine Sys2Proof.Laws

/-! ## Answers -/

/-- Besides the links and the count of what found no route only the outputs differ. -/
def Answered (s t : State) : Prop :=
  ∃ links unreachable out, t = { s with lnk := { s.lnk with links := links, unreachable := unreachable }, out := out }

theorem Answered.trans {s t u : State} (first : Answered s t) (second : Answered t u) : Answered s u := by
  obtain ⟨_, _, _, rfl⟩ := first
  obtain ⟨links, unreachable, out, rfl⟩ := second
  exact ⟨links, unreachable, out, rfl⟩

section Answered
variable {s t : State} (answered : Answered s t)
include answered

theorem Answered.mem : t.mem = s.mem := by obtain ⟨_, _, _, rfl⟩ := answered; rfl
theorem Answered.cores : t.cores = s.cores := by obtain ⟨_, _, _, rfl⟩ := answered; rfl
theorem Answered.frm : t.frm = s.frm := by obtain ⟨_, _, _, rfl⟩ := answered; rfl
theorem Answered.req : t.req = s.req := by obtain ⟨_, _, _, rfl⟩ := answered; rfl
theorem Answered.fwd : t.lnk.fwd = s.lnk.fwd := by obtain ⟨_, _, _, rfl⟩ := answered; rfl
theorem Answered.notAdmitted : t.lnk.notAdmitted = s.lnk.notAdmitted := by obtain ⟨_, _, _, rfl⟩ := answered; rfl
theorem Answered.requests : t.lnk.requests = s.lnk.requests := by obtain ⟨_, _, _, rfl⟩ := answered; rfl
theorem Answered.racc : t.lnk.raccState = s.lnk.raccState ∧ t.lnk.raccStatus = s.lnk.raccStatus ∧
    t.lnk.raccData = s.lnk.raccData := by obtain ⟨_, _, _, rfl⟩ := answered; exact ⟨rfl, rfl, rfl⟩

end Answered

theorem SendsOnly.answered {s t : State} (sends : SendsOnly s t) : Answered s t := by
  obtain ⟨⟨links, out, eq⟩, _⟩ := sends
  exact ⟨links, s.lnk.unreachable, out, eq⟩

theorem answered_sendResponse (f : Flit) (s : State) : Answered s (sendResponse f s) := by
  unfold sendResponse
  split
  · next l route => exact (sendsOnly_queueFrom none f (usable_up (routeTo_usable route))).answered
  · exact ⟨s.lnk.links, _, s.out, rfl⟩

theorem answered_acknowledged (l sent : Nat) (s : State) : Answered s (acknowledged l sent s) :=
  (sendsOnly_acknowledged l sent s).answered

theorem sendResponse_routed {f : Flit} {s : State} {l : Nat} (route : s.routeTo f.dest f.endpoint = some l) :
    sendResponse f s = queueOn l f s := by
  unfold sendResponse
  rw [route]

/-! ## A WRITE or READ addressed to this device (R273) -/

theorem wordBlocked_of_blockedIn {s : State} {a n : Nat} (open_ : s.blockedIn a (n + 1) = none) : s.wordBlocked a = none := by
  rw [State.blockedIn] at open_
  split at open_
  · cases open_
  · assumption

section Peer
variable {w : State} {f : Flit}

theorem peerWrite_performs (l : Nat) (parity : Bool) (allowed : w.peerAllowed f = true) (plain : f.scheduled = false)
    (trained : w.tileHolds f.addr = false) : peerWrite l parity f w = answerWrite l parity f w :=
  (if_neg (by rw [allowed]; decide)).trans ((if_neg (by rw [plain, Bool.false_and]; decide)).trans
    (if_neg (by rw [trained]; decide)))

theorem peerWrite_held (l : Nat) (parity : Bool) (allowed : w.peerAllowed f = true) (plain : f.scheduled = false)
    (held : w.tileHolds f.addr = true) : peerWrite l parity f w = holdRequest f.addr (.peerWrite l f parity) w :=
  (if_neg (by rw [allowed]; decide)).trans ((if_neg (by rw [plain, Bool.false_and]; decide)).trans (if_pos held))

theorem peerWrite_refused (l : Nat) (parity : Bool) (barred : w.peerAllowed f = false) :
    peerWrite l parity f w = sendResponse (ackFlit w.lnk.id f 5) (notAdmitted f w) := if_pos (by rw [barred]; rfl)

theorem peerRead_performs (l : Nat) (parity : Bool) (allowed : w.peerAllowed f = true) (trained : w.tileHolds f.addr = false) :
    peerRead l parity f w = performRead l parity f w :=
  (if_neg (by rw [allowed]; decide)).trans (if_neg (by rw [trained]; decide))

/-- A WRITE that meets no lock, hole or fence stores its words and is answered. -/
theorem answerWrite_stores (l : Nat) (aligned : f.addr % 32 = 0) (path : w.mem.dpBad = [])
    (unlocked : w.lockedIn f.addr (f.lenM1 + 1) = false) (open_ : w.blockedIn f.addr (f.lenM1 + 1) = none) :
    ∃ z, answerWrite l false f w = sendResponse (ackFlit z.lnk.id f 0) z ∧
      z.mem.dram = memPutBytes w.mem.dram f.addr (slice f.payload 0 f.len) ∧ z.cores = w.cores ∧ z.frm = w.frm ∧
      z.req = w.req ∧ z.lnk = w.lnk := by
  have length : (slice f.payload 0 f.len).length = 32 * (f.lenM1 + 1) := length_slice ..
  have words : (slice f.payload 0 f.len).length / 32 = f.lenM1 + 1 := by rw [length]; omega
  obtain ⟨net, written⟩ := writeBytes_stores (peerWho l f) (a := f.addr) (bytes := slice f.payload 0 f.len) path
    (by rw [words]; exact unlocked) (by rw [words]; exact open_)
  obtain ⟨dram, check, rows, stored⟩ := storeWords_frame (f.lenM1 + 1) f.addr (slice f.payload 0 f.len) { w with net := net }
  have bytes := storeWords_dram (n := f.lenM1 + 1) f.addr { w with net := net } length
  rw [words] at written
  have cores := congrArg State.cores stored
  have frm := congrArg State.frm stored
  have req := congrArg State.req stored
  have lnk := congrArg State.lnk stored
  generalize storeWords (f.lenM1 + 1) f.addr (slice f.payload 0 f.len) { w with net := net } = z
    at written bytes cores frm req lnk
  refine ⟨z, ?_, bytes, cores, frm, req, lnk⟩
  have performed : performWrite l false f w = (0, z) := by
    unfold performWrite
    extract_lets who
    rw [wordBlocked_of_blockedIn open_]
    simp only [who, if_neg (not_not_intro aligned), written]
  rw [answerWrite, performed]

theorem notAdmitted_parts (f : Flit) (w : State) : (notAdmitted f w).lnk.notAdmitted = satAdd 32 w.lnk.notAdmitted 1 ∧
    (notAdmitted f w).mem = w.mem ∧ (notAdmitted f w).cores = w.cores ∧ (notAdmitted f w).frm = w.frm ∧
    LinksKept w (notAdmitted f w) := by
  unfold notAdmitted
  extract_lets sec counted
  split
  · exact ⟨rfl, rfl, rfl, rfl, LinksKept.of_links rfl rfl rfl rfl rfl⟩
  · rw [raise_lnk, raise_mem, raise_cores, raise_frm]
    refine ⟨rfl, rfl, rfl, rfl, LinksKept.of_links ?_ ?_ ?_ ?_ ?_⟩ <;> rw [raise_lnk]

/-- A READ that is performed is answered with its bytes. -/
theorem performRead_answers {l : Nat} {parity : Bool} {d : List Nat} {z : State}
    (read : readBytes (peerWho l f) parity f.addr f.len w = (.data d, z)) : performRead l parity f w =
      sendResponse { ackFlit z.lnk.id f 0 with ty := 3, lenM1 := f.lenM1, payload := d } z := by
  unfold performRead
  rw [read]

end Peer

/-! ## Credits that return, and flits that are acknowledged -/

theorem nth_setNth_le {u : List Nat} {i v : Nat} (less : v ≤ nth 0 u i) (j : Nat) : nth 0 (setNth u i v) j ≤ nth 0 u j := by
  by_cases here : j = i
  · by_cases inside : i < u.length
    · rw [here, nth_setNth_same 0 v inside]; exact less
    · rw [here, nth, List.getElem?_eq_none (by rw [length_setNth]; omega)]
      exact Nat.zero_le _
  · exact Nat.le_of_eq (nth_setNth_other 0 u v here)

theorem returnCredits_le (u : List Nat) (c n j : Nat) : nth 0 (returnCredits u c n) j ≤ nth 0 u j := by
  unfold returnCredits
  extract_lets a
  have first := nth_setNth_le (u := u) (i := 2 * c) (Nat.sub_le (nth 0 u (2 * c)) a)
  refine Nat.le_trans (nth_setNth_le (i := 2 * c + 1) ?_ j) (first j)
  rw [nth_setNth_other 0 u _ (by omega : 2 * c + 1 ≠ 2 * c)]
  exact Nat.sub_le _ _

theorem ackedReplay_length (ack : Nat) (l : List LinkFlit) : (ackedReplay ack l).length ≤ l.length := by
  unfold ackedReplay
  split
  · exact Nat.le_refl _
  · extract_lets n
    split
    · rw [List.length_drop]; exact Nat.sub_le _ _
    · exact Nat.le_refl _

/-- A link that has taken a flit can send where it could before. -/
theorem arrived_canSend {x : Link} {f : LinkFlit} {g : Flit} (up : x.state = .up) (credit : x.classUsed g < linkDepth)
    (room : x.replay.length < 4096) : (arrived f x).canSend ((arrived f x).leaving g) = true := by
  refine canSend_of up ?_ ?_
  · refine Nat.lt_of_le_of_lt (Nat.add_le_add ?_ ?_) credit
    · exact Nat.le_trans (returnCredits_le ..) (returnCredits_le ..)
    · exact Nat.le_trans (returnCredits_le ..) (returnCredits_le ..)
  · exact Nat.lt_of_le_of_lt (ackedReplay_length ..) room

/-! ## A flit for another device (R274) -/

theorem forward_goes {i m : Nat} {f : Flit} {s : State} (hops : f.hops - 1 ≠ 0)
    (route : s.routeTo f.dest f.endpoint = some m) : ∃ net, forward i f s =
      queueFrom (some (i, b2n f.scheduled)) m { f with hops := f.hops - 1 } { s with net := net } := by
  obtain ⟨net, crossed⟩ := crossNet_onlyNet (linkEndpoint i) (linkEndpoint m) ({ f with hops := f.hops - 1 } : Flit).netFlits s
  refine ⟨net, ?_⟩
  rw [← crossed]
  unfold forward
  extract_lets c g
  rw [if_neg hops, show s.routeTo g.dest g.endpoint = some m from route]

theorem replay_freeBuffer (p : Option (Nat × Nat)) (k : Nat) (s : State) :
    ((freeBuffer p s).linkOf k).replay = (s.linkOf k).replay := by
  unfold freeBuffer
  split
  · next l c =>
    split
    · rw [replay_sendIdle]
      exact replay_setLink (l := l) (s := s) (g := fun x => { x with owed := setNth x.owed c (nth 0 x.owed c + 1) })
        (fun _ => rfl) k
    · rfl
  · rfl

/-! ## Answers to this device's requests (R271, R272) -/

theorem resumePeer_idle {n : Nat} {s : State} (idle : (s.coreRec n).queue = []) (parity : Bool) : resumePeer n parity s = s := by
  rw [resumePeer, idle]
  rfl

theorem takeAnswer_racc {w : State} {r : PeerReq} (only : w.lnk.requests = [r]) (racc : r.racc = true)
    (idle : (w.coreRec r.endpoint).queue = []) (l status : Nat) (data : List Nat) (parity : Bool) :
    ∃ net, takeAnswer l r.endpoint r.tag status data parity w = { w with
      net := net
      lnk := { w.lnk with
        requests := []
        raccState := if status = 0 then 2 else 3
        raccStatus := status
        raccData := if status = 0 && !w.lnk.raccWrite then (List.range 4).map (fun i => leAt data (8 * i) 8)
          else w.lnk.raccData } } := by
  obtain ⟨net, crossed⟩ := crossNet_onlyNet (linkEndpoint l) r.endpoint (1 + (data.length + 63) / 64) w
  have asked : w.asked r.endpoint r.tag = true := by
    rw [State.asked, only, List.any_cons, decide_eq_true rfl, decide_eq_true rfl]
    rfl
  have answer := ownAnswer_racc (s := { w with net := net }) only racc status data
  refine ⟨net, ?_⟩
  rw [← answer]
  unfold takeAnswer
  rw [asked, if_pos rfl, crossed]
  have idle' : ((ownAnswer r.endpoint r.tag status data { w with net := net }).coreRec r.endpoint).queue = [] := by
    rw [answer]
    exact idle
  exact resumePeer_idle idle' parity

theorem takeAnswer_racc_parts {w : State} {r : PeerReq} (only : w.lnk.requests = [r]) (racc : r.racc = true)
    (idle : (w.coreRec r.endpoint).queue = []) (l status : Nat) (data : List Nat) (parity : Bool) :
    ∃ z, takeAnswer l r.endpoint r.tag status data parity w = z ∧ LinksKept w z ∧ z.lnk.requests = [] ∧
      z.lnk.raccState = (if status = 0 then 2 else 3) ∧ z.lnk.raccStatus = status ∧
      z.lnk.raccData = (if status = 0 && !w.lnk.raccWrite then (List.range 4).map (fun i => leAt data (8 * i) 8)
        else w.lnk.raccData) ∧ z.mem = w.mem ∧ z.cores = w.cores ∧ z.frm = w.frm := by
  obtain ⟨net, taken⟩ := takeAnswer_racc only racc idle l status data parity
  exact ⟨_, taken, LinksKept.of_links rfl rfl rfl rfl rfl, rfl, rfl, rfl, rfl, rfl, rfl, rfl⟩

theorem leAt_leBytes_two {v : Nat} (small : v < 65536) (rest : List Nat) : leAt (leBytes 2 v ++ rest) 0 2 = v := by
  change v % 256 % 256 + 256 * (v / 256 % 256 % 256 + 256 * 0) = v
  omega

/-- The record of an ACK flit gives back what stands in it. -/
theorem ackRecord_fields {e g st : Nat} (endpoint : e < 65536) (tag : g < 65536) (status : st < 256) :
    leAt (leBytes 2 e ++ leBytes 2 g ++ [st, 0, 0, 0]) 0 2 = e ∧ leAt (leBytes 2 e ++ leBytes 2 g ++ [st, 0, 0, 0]) 2 2 = g ∧
    leAt (leBytes 2 e ++ leBytes 2 g ++ [st, 0, 0, 0]) 4 1 = st := by
  refine ⟨?_, ?_, ?_⟩
  · rw [List.append_assoc]
    exact leAt_leBytes_two endpoint _
  · exact leAt_leBytes_two (rest := [st, 0, 0, 0]) tag
  · change st % 256 + 256 * 0 = st
    omega

/-! ## Frame-status records (R270) -/

theorem absorbRecord_stranger {b : List Nat} {s : State} (stranger : s.otherMembers.contains (leAt b 0 2) = false) :
    absorbRecord b s = s := if_pos (by rw [stranger]; rfl)

theorem foldl_absorbRecord_strangers {l : List Nat} {record : Nat → List Nat} {s : State}
    (strangers : l.all (fun i => !s.otherMembers.contains (leAt (record i) 0 2)) = true) :
    l.foldl (fun s i => absorbRecord (record i) s) s = s := by
  induction l with
  | nil => rfl
  | cons i l ih =>
    rw [List.all_cons, Bool.and_eq_true] at strangers
    rw [List.foldl_cons, absorbRecord_stranger (by simpa using strangers.1)]
    exact ih strangers.2

/-- The vote of a record. -/
def voteOf (b : List Nat) : Vote :=
  { flags := leAt b 3 1, frame := leAt b 4 8, level := leAt b 12 1 % 8, start := leAt b 16 8, period := leAt b 24 4, present := true }

/-- A vote for the next frame with this device's timing is noted. -/
theorem absorbRecord_vote {b : List Nat} {s : State} (member : s.otherMembers.contains (leAt b 0 2) = true)
    (kind : leAt b 2 1 = 1) (running : s.kpr.state = .running) (frame : leAt b 4 8 = s.frm.nextNumber)
    (start : leAt b 16 8 = (s.ownTiming (leAt b 4 8)).1) (period : leAt b 24 4 = (s.ownTiming (leAt b 4 8)).2) :
    absorbRecord b s = { s with frm := { s.frm with votes := mapSet vote0 s.frm.votes (leAt b 0 2) (voteOf b) } } := by
  unfold absorbRecord
  rw [member, if_neg (by decide), kind]
  change (if s.kpr.state = .running then takeVote b s else s) = _
  rw [if_pos running]
  unfold takeVote
  extract_lets d v own noted
  have agrees : ¬ (decide (v.start ≠ own.1) || decide (v.period ≠ own.2)) = true := by
    rw [decide_eq_false (not_not_intro start), decide_eq_false (not_not_intro period)]
    decide
  rw [if_neg agrees]
  exact if_pos frame

end Sys2Proof.Proofs
end


section
/-! Flits that arrive on a link: the obligation (R266, R267, R269 to R274, R276). -/
namespace Sys2Proof.Proofs
set_option Elab.async false
open Sys2Proof.Machine Sys2Proof.Laws

/-! ## A flit for this device -/

theorem linksKept_sendResponse_of {s z : State} (kept : LinksKept s z) (f : Flit) : LinksKept s (sendResponse f z) :=
  kept.trans (linksKept_sendResponse f z)

theorem lockedIn_of_dev {s t : State} (same : t.dev = s.dev) (a n : Nat) : t.lockedIn a n = s.lockedIn a n := by
  induction n generalizing a with
  | zero => rfl
  | succ n ih => rw [State.lockedIn, ih, State.lockedIn, State.lockedByte, same, State.lockedByte]

/-- What a tile holds does not look at the links. -/
theorem holdRequest_relinked (a : Nat) (q : HeldReq) (lnk : LnkBlk) (s : State) :
    (holdRequest a q (relinked lnk s)).mem = (holdRequest a q s).mem ∧ (holdRequest a q (relinked lnk s)).cores = s.cores ∧
    (holdRequest a q (relinked lnk s)).frm = s.frm ∧ (holdRequest a q (relinked lnk s)).lnk = lnk := ⟨rfl, rfl, rfl, rfl⟩

/-- The flit that answers a READ. -/
def dataFlit (own : Nat) (f : Flit) (d : List Nat) : Flit := { ackFlit own f 0 with ty := 3, lenM1 := f.lenM1, payload := d }

/-- READ_DATA that goes out at once stands last in the replay buffer. -/
theorem data_sent {z : State} {l own sent : Nat} {f : LinkFlit} {d : List Nat} (inside : l < z.lnk.links.length)
    (clear : (z.linkOf l).waiting = []) (can : (z.linkOf l).canSend ((z.linkOf l).leaving f.flit) = true)
    (routed : z.routeTo f.flit.src f.flit.endpoint = some l) :
    Answered z (acknowledged l sent (sendResponse (dataFlit own f.flit d) z)) ∧
    LinksKept z (sendResponse (dataFlit own f.flit d) z) ∧
    (((acknowledged l sent (sendResponse (dataFlit own f.flit d) z)).linkOf l).replay.getLast?).map
      (fun r => (r.flit.ty, r.flit.dest, r.flit.tag, r.flit.payload)) = some (3, f.flit.src, f.flit.tag, d) := by
  have can' : (z.linkOf l).canSend ((z.linkOf l).leaving (dataFlit own f.flit d)) = true := by
    obtain ⟨_, leaving⟩ := leaving_eq (z.linkOf l) f.flit
    obtain ⟨_, leaving'⟩ := leaving_eq (z.linkOf l) (dataFlit own f.flit d)
    rw [leaving] at can
    rw [leaving']
    exact can
  refine ⟨(answered_sendResponse _ z).trans (answered_acknowledged l sent _), linksKept_sendResponse _ z, ?_⟩
  rw [replay_acknowledged, sendResponse_routed (f := dataFlit own f.flit d) (l := l) routed,
    queueOn_clear_sends inside clear can', Option.map_some]
  obtain ⟨vc, leaving⟩ := leaving_eq (z.linkOf l) (dataFlit own f.flit d)
  rw [framed, leaving]
  rfl

section Own
variable {s : State} {l : Nat} {f : LinkFlit} (powered : s.powered = true) (up : (s.linkOf l).state = .up)
  (open_ : (s.linkOf l).quiesce = false) (next : f.seq = (s.linkOf l).expectSeq) (assigned : s.lnk.assigned = true)
  (own : f.flit.dest = s.lnk.id) (clear : (s.linkOf l).waiting = [])
include powered up open_ next assigned own clear

theorem write_stores (plain : f.flit.scheduled = false) (allowed : s.peerAllowed f.flit = true)
    (aligned : f.flit.addr % 32 = 0) (trained : s.tileHolds f.flit.addr = false) (path : s.mem.dpBad = [])
    (unlocked : s.lockedIn f.flit.addr (f.flit.lenM1 + 1) = false)
    (unblocked : s.blockedIn f.flit.addr (f.flit.lenM1 + 1) = none) :
    ∃ t, receive l f (route l f.flit (peerWrite l false f.flit)) s = t ∧
      (t.linkOf l).expectSeq = ((s.linkOf l).expectSeq + 1) % 4096 ∧
      t.mem.dram = memPutBytes s.mem.dram f.flit.addr (slice f.flit.payload 0 f.flit.len) ∧
      t.cores = s.cores ∧ t.frm = s.frm ∧ t.req = s.req ∧ t.lnk.fwd = s.lnk.fwd := by
  have inside := link_inside_of_state up (by decide)
  rw [receive_delivers powered up open_ clear next assigned own]
  have locks := (lockedIn_of_dev (s := s) (t := setLink l (arrived f) s) rfl f.flit.addr (f.flit.lenM1 + 1)).trans unlocked
  have holes := (blockedIn_of_flp (s := s) (t := setLink l (arrived f) s) rfl f.flit.addr (f.flit.lenM1 + 1)).trans unblocked
  obtain ⟨z, answered, dram, cores, frm, req, lnk⟩ := answerWrite_stores (w := setLink l (arrived f) s) l aligned path locks holes
  rw [peerWrite_performs (w := setLink l (arrived f) s) l false allowed plain trained, answered]
  have kept := linksKept_sendResponse_of (LinksKept.of_lnk lnk) (ackFlit z.lnk.id f.flit 0)
  have done := (answered_sendResponse (ackFlit z.lnk.id f.flit 0) z).trans (answered_acknowledged l (s.linkOf l).sendSeq _)
  exact ⟨_, rfl, expectSeq_acknowledged inside kept, by rw [done.mem]; exact dram, done.cores.trans cores, done.frm.trans frm,
    done.req.trans req, by rw [done.fwd, lnk]; rfl⟩

theorem write_refused (parity : Bool) (barred : s.peerAllowed f.flit = false) :
    ∃ t, receive l f (route l f.flit (peerWrite l parity f.flit)) s = t ∧
      (t.linkOf l).expectSeq = ((s.linkOf l).expectSeq + 1) % 4096 ∧
      t.lnk.notAdmitted = satAdd 32 s.lnk.notAdmitted 1 ∧ t.mem = s.mem ∧ t.cores = s.cores ∧ t.frm = s.frm := by
  have inside := link_inside_of_state up (by decide)
  rw [receive_delivers powered up open_ clear next assigned own, peerWrite_refused (w := setLink l (arrived f) s) l parity barred]
  obtain ⟨count, mem, cores, frm, kept⟩ := notAdmitted_parts f.flit (setLink l (arrived f) s)
  generalize notAdmitted f.flit (setLink l (arrived f) s) = z at count mem cores frm kept ⊢
  generalize ackFlit (setLink l (arrived f) s).lnk.id f.flit 5 = g
  have done := (answered_sendResponse g z).trans (answered_acknowledged l (s.linkOf l).sendSeq _)
  exact ⟨_, rfl, expectSeq_acknowledged inside (linksKept_sendResponse_of kept g), done.notAdmitted.trans count,
    done.mem.trans mem, done.cores.trans cores, done.frm.trans frm⟩

theorem write_held (parity : Bool) (allowed : s.peerAllowed f.flit = true) (plain : f.flit.scheduled = false)
    (held : s.tileHolds f.flit.addr = true) :
    ∃ t, receive l f (route l f.flit (peerWrite l parity f.flit)) s = t ∧
      (t.linkOf l).expectSeq = ((s.linkOf l).expectSeq + 1) % 4096 ∧
      t.mem = (holdRequest f.flit.addr (.peerWrite l f.flit parity) s).mem ∧ t.cores = s.cores ∧ t.frm = s.frm := by
  have inside := link_inside_of_state up (by decide)
  rw [receive_delivers powered up open_ clear next assigned own, peerWrite_held (w := setLink l (arrived f) s) l parity allowed plain held]
  obtain ⟨mem, cores, frm, lnk⟩ := holdRequest_relinked f.flit.addr (.peerWrite l f.flit parity) (setLink l (arrived f) s).lnk s
  rw [← setLink_relinked] at mem cores frm lnk
  have kept := LinksKept.of_lnk lnk
  generalize holdRequest f.flit.addr (.peerWrite l f.flit parity) (setLink l (arrived f) s) = z at mem cores frm kept ⊢
  have done := answered_acknowledged l (s.linkOf l).sendSeq z
  have advanced := expectSeq_acknowledged (sent := (s.linkOf l).sendSeq) inside kept
  exact ⟨_, rfl, advanced, done.mem.trans mem, done.cores.trans cores, done.frm.trans frm⟩

theorem read_answers {parity : Bool} {d : List Nat} {s2 : State} (allowed : s.peerAllowed f.flit = true)
    (trained : s.tileHolds f.flit.addr = false) (routed : s.routeTo f.flit.src f.flit.endpoint = some l)
    (room : (s.linkOf l).replay.length < 4096) (credit : (s.linkOf l).classUsed f.flit < linkDepth)
    (read : readBytes (peerWho l f.flit) parity f.flit.addr f.flit.len s = (.data d, s2)) :
    ∃ t, receive l f (route l f.flit (fun s => peerRead l parity f.flit (flipSymbols f.flit.addr [] s))) s = t ∧
      (t.linkOf l).expectSeq = ((s.linkOf l).expectSeq + 1) % 4096 ∧ t.mem.dram = s.mem.dram ∧ t.cores = s.cores ∧
      ((t.linkOf l).replay.getLast?).map (fun r => (r.flit.ty, r.flit.dest, r.flit.tag, r.flit.payload)) =
        some (3, f.flit.src, f.flit.tag, d) := by
  have inside := link_inside_of_state up (by decide)
  have here : (setLink l (arrived f) s).linkOf l = arrived f (s.linkOf l) := linkOf_setLink_same _ inside
  have inside' : l < (setLink l (arrived f) s).lnk.links.length := by rw [length_setLink]; exact inside
  have route' : (setLink l (arrived f) s).routeTo f.flit.src f.flit.endpoint = some l :=
    (routeTo_setLink (g := arrived f) (fun _ => rfl) (fun _ => rfl) f.flit.src f.flit.endpoint).trans routed
  obtain ⟨dram, _, cores, _⟩ := readBytes_leaves read
  have reads : readBytes (peerWho l f.flit) parity f.flit.addr f.flit.len (setLink l (arrived f) s) =
      (.data d, relinked (setLink l (arrived f) s).lnk s2) := readBytes_relinked read (setLink l (arrived f) s).lnk
  rw [receive_delivers powered up open_ clear next assigned own]
  change ∃ t, acknowledged l _ (peerRead l parity f.flit (setLink l (arrived f) s)) = t ∧ _
  rw [peerRead_performs (w := setLink l (arrived f) s) l parity allowed trained, performRead_answers reads]
  have lnk : (relinked (setLink l (arrived f) s).lnk s2).lnk = (setLink l (arrived f) s).lnk := rfl
  have mem : (relinked (setLink l (arrived f) s).lnk s2).mem.dram = s.mem.dram := dram
  have cores' : (relinked (setLink l (arrived f) s).lnk s2).cores = s.cores := cores
  generalize relinked (setLink l (arrived f) s).lnk s2 = z at lnk mem cores' ⊢
  have kept := LinksKept.of_lnk lnk
  have link : z.linkOf l = arrived f (s.linkOf l) := (linkOf_of_lnk lnk l).trans here
  obtain ⟨done, kept', sent⟩ := data_sent (f := f) (sent := (s.linkOf l).sendSeq) (d := d) (by rw [lnk]; exact inside')
    (by rw [link]; exact clear) (by rw [link]; exact arrived_canSend up credit room) ((kept.routeTo _ _).trans route')
  have memory := congrArg MemBlk.dram done.mem
  exact ⟨_, rfl, expectSeq_acknowledged inside (kept.trans kept'), memory.trans mem, done.cores.trans cores', sent⟩

theorem readData_ends {r : PeerReq} (only : s.lnk.requests = [r]) (racc : r.racc = true) (endpoint : r.endpoint = f.flit.endpoint)
    (tag : r.tag = f.flit.tag) (write : s.lnk.raccWrite = false) (idle : (s.coreRec f.flit.endpoint).queue = []) :
    ∃ t, receive l f (route l f.flit
        (fun s => takeAnswer l f.flit.endpoint f.flit.tag 0 (slice f.flit.payload 0 f.flit.len) false s)) s = t ∧
      (t.linkOf l).expectSeq = ((s.linkOf l).expectSeq + 1) % 4096 ∧ t.lnk.raccState = 2 ∧ t.lnk.raccStatus = 0 ∧
      t.lnk.raccData = (List.range 4).map (fun i => leAt (slice f.flit.payload 0 f.flit.len) (8 * i) 8) ∧
      t.lnk.requests = [] ∧ t.mem = s.mem ∧ t.cores = s.cores ∧ t.frm = s.frm := by
  have inside := link_inside_of_state up (by decide)
  rw [receive_delivers powered up open_ clear next assigned own, ← endpoint, ← tag]
  obtain ⟨z, taken, kept, requests, state, status, data, mem, cores, frm⟩ := takeAnswer_racc_parts
    (w := setLink l (arrived f) s) only racc (by rw [endpoint]; exact idle) l 0 (slice f.flit.payload 0 f.flit.len) false
  have none_ : (setLink l (arrived f) s).lnk.raccWrite = false := write
  rw [none_, if_pos (by decide)] at data
  rw [taken]
  have done := answered_acknowledged l (s.linkOf l).sendSeq z
  obtain ⟨state', status', data'⟩ := done.racc
  exact ⟨_, rfl, expectSeq_acknowledged inside kept, state'.trans state, status'.trans status, data'.trans data,
    done.requests.trans requests, done.mem.trans mem, done.cores.trans cores, done.frm.trans frm⟩

theorem ack_ends {r : PeerReq} {st : Nat} (parity : Bool) (only : s.lnk.requests = [r]) (racc : r.racc = true)
    (endpoint : r.endpoint < 65536) (tag : r.tag < 65536) (status : st < 256)
    (record : ackRecords f.flit = [leBytes 2 r.endpoint ++ leBytes 2 r.tag ++ [st, 0, 0, 0]]) (idle : (s.coreRec r.endpoint).queue = []) :
    ∃ t, receive l f (route l f.flit (fun s =>
        (ackRecords f.flit).foldl (fun s r => takeAnswer l (leAt r 0 2) (leAt r 2 2) (leAt r 4 1) [] parity s) s)) s = t ∧
      (t.linkOf l).expectSeq = ((s.linkOf l).expectSeq + 1) % 4096 ∧ t.lnk.raccState = (if st = 0 then 2 else 3) ∧
      t.lnk.raccStatus = st ∧ t.lnk.requests = [] ∧ t.mem = s.mem ∧ t.cores = s.cores ∧ t.frm = s.frm := by
  have inside := link_inside_of_state up (by decide)
  obtain ⟨e, g, k⟩ := ackRecord_fields endpoint tag status
  rw [receive_delivers powered up open_ clear next assigned own, record, List.foldl_cons, List.foldl_nil, e, g, k]
  obtain ⟨z, taken, kept, requests, state, shown, _, mem, cores, frm⟩ := takeAnswer_racc_parts
    (w := setLink l (arrived f) s) only racc idle l st [] parity
  rw [taken]
  have done := answered_acknowledged l (s.linkOf l).sendSeq z
  obtain ⟨state', shown', _⟩ := done.racc
  exact ⟨_, rfl, expectSeq_acknowledged inside kept, state'.trans state, shown'.trans shown,
    done.requests.trans requests, done.mem.trans mem, done.cores.trans cores, done.frm.trans frm⟩

/-- What a STATUS flit does, where its records leave all but the frame block. -/
theorem status_absorbed {frm : FrmBlk} (absorbs : ∀ net : NetBlk,
    (List.range (f.flit.lenM1 + 1)).foldl (fun s i => absorbRecord (slice f.flit.payload (32 * i) 32) s)
      { setLink l (arrived f) s with net := net } = { setLink l (arrived f) s with net := net, frm := frm }) :
    ∃ t, receive l f (route l f.flit (fun s =>
        (List.range (f.flit.lenM1 + 1)).foldl (fun s i => absorbRecord (slice f.flit.payload (32 * i) 32) s)
          (crossNet (linkEndpoint l) plannerEndpoint f.flit.netFlits s))) s = t ∧
      (t.linkOf l).expectSeq = ((s.linkOf l).expectSeq + 1) % 4096 ∧ t.frm = frm ∧ t.mem = s.mem ∧ t.cores = s.cores := by
  have inside := link_inside_of_state up (by decide)
  rw [receive_delivers powered up open_ clear next assigned own]
  obtain ⟨net, crossed⟩ := crossNet_onlyNet (linkEndpoint l) plannerEndpoint f.flit.netFlits (setLink l (arrived f) s)
  rw [crossed, absorbs net]
  have done := answered_acknowledged l (s.linkOf l).sendSeq ({ setLink l (arrived f) s with net := net, frm := frm } : State)
  exact ⟨_, rfl, expectSeq_acknowledged inside (LinksKept.of_links rfl rfl rfl rfl rfl), done.frm, done.mem, done.cores⟩

end Own

end Sys2Proof.Proofs
end


section
/-! Flits that arrive on a link: one that goes on, and the types that carry no request (R267, R269, R274). -/
namespace Sys2Proof.Proofs
set_option Elab.async false
open Sys2Proof.Machine Sys2Proof.Laws

/-! ## A flit that goes on -/

/-- A flit with one hop less. -/
def hopped (f : Flit) : Flit := { f with hops := f.hops - 1 }

theorem forwarded_waits {i m : Nat} {f : Flit} {s : State} (hops : f.hops - 1 ≠ 0)
    (route : s.routeTo f.dest f.endpoint = some m) (clear : (s.linkOf m).waiting = [])
    (credit : (s.linkOf m).classUsed f < linkDepth) (room : (s.linkOf m).replay.length < 4096) :
    ∃ z, forward i f s = z ∧ LinksKept s z ∧ z.mem = s.mem ∧ z.cores = s.cores ∧ z.frm = s.frm ∧
      ((z.linkOf m).replay.getLast?).map
        (fun r => (r.flit.ty, r.flit.dest, r.flit.src, r.flit.hops, r.flit.tag, r.flit.payload)) =
        some (f.ty, f.dest, f.src, f.hops - 1, f.tag, f.payload) := by
  obtain ⟨net, goes⟩ := forward_goes (i := i) hops route
  have up := usable_up (routeTo_usable route)
  have inside := link_inside_of_state up (by decide)
  have can : (s.linkOf m).canSend ((s.linkOf m).leaving (hopped f)) = true := canSend_of up credit room
  have netted : LinksKept s { s with net := net } := LinksKept.of_lnk rfl
  have sends := sendsOnly_queueFrom (some (i, b2n f.scheduled)) (hopped f) (s := { s with net := net }) (l := m) up
  have queued : queueFrom (some (i, b2n f.scheduled)) m (hopped f) { s with net := net } =
      freeBuffer (some (i, b2n f.scheduled)) (transmit m ((s.linkOf m).leaving (hopped f)) { s with net := net }) :=
    (queueFrom_clear (s := { s with net := net }) _ inside clear).trans (if_pos can)
  obtain ⟨vc, leaving⟩ := leaving_eq (s.linkOf m) (hopped f)
  refine ⟨_, goes, netted.trans sends.kept, sends.answered.mem, sends.answered.cores, sends.answered.frm, ?_⟩
  change ((queueFrom (some (i, b2n f.scheduled)) m (hopped f) { s with net := net }).linkOf m).replay.getLast?.map _ = _
  rw [queued, replay_freeBuffer, replay_transmit (s := { s with net := net }) inside, List.getLast?_concat, Option.map_some,
    framed, leaving]
  rfl

section Forward
variable {s : State} {l m : Nat} {f : LinkFlit} (powered : s.powered = true) (up : (s.linkOf l).state = .up)
  (open_ : (s.linkOf l).quiesce = false) (next : f.seq = (s.linkOf l).expectSeq) (assigned : s.lnk.assigned = true)
  (clear : (s.linkOf l).waiting = [])

theorem linkOf_taken_other (other : m ≠ l) : (setLink l (taken f) s).linkOf m = s.linkOf m :=
  linkOf_setLink_other (taken f) s other

include powered up open_ next assigned clear

theorem request_goes_on (other : f.flit.dest ≠ s.lnk.id) (hops : f.flit.hops - 1 ≠ 0) (body : State → State)
    (route : s.routeTo f.flit.dest f.flit.endpoint = some m) (away : m ≠ l) (empty : (s.linkOf m).waiting = [])
    (credit : (s.linkOf m).classUsed f.flit < linkDepth) (room : (s.linkOf m).replay.length < 4096) :
    ∃ t, receive l f (Machine.route l f.flit body) s = t ∧
      (t.linkOf l).expectSeq = ((s.linkOf l).expectSeq + 1) % 4096 ∧
      ((t.linkOf m).replay.getLast?).map
        (fun r => (r.flit.ty, r.flit.dest, r.flit.src, r.flit.hops, r.flit.tag, r.flit.payload)) =
        some (f.flit.ty, f.flit.dest, f.flit.src, f.flit.hops - 1, f.flit.tag, f.flit.payload) ∧
      t.mem = s.mem ∧ t.cores = s.cores ∧ t.frm = s.frm := by
  have inside := link_inside_of_state up (by decide)
  have here : (setLink l (taken f) s).linkOf l = taken f (s.linkOf l) := linkOf_setLink_same _ inside
  have there := linkOf_taken_other (f := f) (s := s) away
  have route' : (setLink l (taken f) s).routeTo f.flit.dest f.flit.endpoint = some m :=
    (routeTo_setLink (g := taken f) (fun _ => rfl) (fun _ => rfl) f.flit.dest f.flit.endpoint).trans route
  obtain ⟨z, goes, kept, mem, cores, frm, last⟩ := forwarded_waits (i := l) (s := setLink l (taken f) s) hops route'
    (by rw [there]; exact empty) (by rw [there]; exact credit) (by rw [there]; exact room)
  rw [receive_forwards powered up open_ clear next assigned other, goes]
  have done := answered_acknowledged l (s.linkOf l).sendSeq z
  have advanced : ((acknowledged l (s.linkOf l).sendSeq z).linkOf l).expectSeq = ((s.linkOf l).expectSeq + 1) % 4096 := by
    rw [((sendsOnly_acknowledged l _ z).kept.2.1 l).expectSeq, (kept.2.1 l).expectSeq, here]
    rfl
  exact ⟨_, rfl, advanced, by rw [replay_acknowledged]; exact last, done.mem.trans mem, done.cores.trans cores,
    done.frm.trans frm⟩

end Forward

/-! ## STATUS flits (R270) -/

/-- The frame block with the vote of a record noted. -/
def voted (b : List Nat) (frm : FrmBlk) : FrmBlk := { frm with votes := mapSet vote0 frm.votes (leAt b 0 2) (voteOf b) }

section Status
variable {s : State} {l : Nat} {f : LinkFlit} (powered : s.powered = true) (up : (s.linkOf l).state = .up)
  (open_ : (s.linkOf l).quiesce = false) (next : f.seq = (s.linkOf l).expectSeq) (assigned : s.lnk.assigned = true)
  (own : f.flit.dest = s.lnk.id) (clear : (s.linkOf l).waiting = [])
include powered up open_ next assigned own clear

theorem strangers_change_nothing
    (strangers : (List.range (f.flit.lenM1 + 1)).all
      (fun i => !s.otherMembers.contains (leAt (slice f.flit.payload (32 * i) 32) 0 2)) = true) :
    ∃ t, doOviStatusFlit l f s = t ∧ (t.linkOf l).expectSeq = ((s.linkOf l).expectSeq + 1) % 4096 ∧
      t.frm = s.frm ∧ t.mem = s.mem ∧ t.cores = s.cores :=
  status_absorbed powered up open_ next assigned own clear (frm := s.frm) fun net =>
    foldl_absorbRecord_strangers (s := { setLink l (arrived f) s with net := net })
      (record := fun i => slice f.flit.payload (32 * i) 32) strangers

theorem vote_is_noted (single : f.flit.lenM1 = 0) (member : s.otherMembers.contains (leAt (slice f.flit.payload 0 32) 0 2) = true)
    (running : s.kpr.state = .running) (kind : leAt (slice f.flit.payload 0 32) 2 1 = 1)
    (frame : leAt (slice f.flit.payload 0 32) 4 8 = s.frm.nextNumber) (later : s.frm.nextNumber ≠ s.frm.count)
    (start : leAt (slice f.flit.payload 0 32) 16 8 = s.frm.nextAt)
    (period : leAt (slice f.flit.payload 0 32) 24 4 = s.nextPeriodNow) :
    ∃ t, doOviStatusFlit l f s = t ∧ (t.linkOf l).expectSeq = ((s.linkOf l).expectSeq + 1) % 4096 ∧
      t.frm = voted (slice f.flit.payload 0 32) s.frm ∧ t.mem = s.mem ∧ t.cores = s.cores := by
  refine status_absorbed powered up open_ next assigned own clear fun net => ?_
  have timing : s.ownTiming (leAt (slice f.flit.payload 0 32) 4 8) = (s.frm.nextAt, s.nextPeriodNow) := by
    rw [State.ownTiming, frame, decide_eq_false later, Bool.and_false]
    rfl
  rw [single]
  exact absorbRecord_vote (s := { setLink l (arrived f) s with net := net }) member kind running frame
    (start.trans (congrArg Prod.fst timing).symm) (period.trans (congrArg Prod.snd timing).symm)

end Status

end Sys2Proof.Proofs
end


section
/-! Bad flits, resends, requests without an answer and credits that do not come (R266, R271, R276), and the obligation. -/
namespace Sys2Proof.Proofs
set_option Elab.async false
open Sys2Proof.Machine Sys2Proof.Laws

/-! ## Bad flits and resends (R266) -/

/-- Everything not acknowledged goes out again. -/
theorem foldl_emit {α : Type} (o : α → Output) (l : List α) (s : State) :
    l.foldl (fun s x => emit (o x) s) s = { s with out := (l.foldl (fun s x => emit (o x) s) s).out } ∧
    (l.foldl (fun s x => emit (o x) s) s).out.length = s.out.length + l.length := by
  induction l generalizing s with
  | nil => exact ⟨rfl, rfl⟩
  | cons x l ih =>
    obtain ⟨only, length⟩ := ih (emit (o x) s)
    rw [List.foldl_cons]
    refine ⟨only, length.trans ?_⟩
    change s.out.length + 1 + l.length = s.out.length + (l.length + 1)
    omega

/-- A link that sends its replay buffer once more. -/
def resent (x : Link) : Link := { x with replays := satAdd 32 x.replays x.replay.length, again := x.again + 1 }

/-- A flit of the replay buffer on its way out again. -/
def resentFlit (l : Nat) (x : Link) (f : LinkFlit) : Output :=
  .link l (b2n f.flit.scheduled) (laneBytes x.lanesUsed (flitBytes f))

section Errors
variable {s : State} {l : Nat}

theorem flitError_sent (powered : s.powered = true) (up : (s.linkOf l).state = .up) (held : (s.linkOf l).replay ≠ []) :
    doOviFlitError l true s = { setLink l resent s with out := (doOviFlitError l true s).out } ∧
    (doOviFlitError l true s).out.length = s.out.length + (s.linkOf l).replay.length := by
  have sends : doOviFlitError l true s =
      (s.linkOf l).replay.foldl (fun z f => emit (resentFlit l (s.linkOf l) f) z) (setLink l resent s) := by
    refine (if_neg (by rw [powered, decide_eq_false (not_not_intro up)]; decide)).trans ((if_neg (by decide)).trans (if_neg ?_))
    rw [List.isEmpty_iff]
    exact held
  rw [sends]
  exact foldl_emit (resentFlit l (s.linkOf l)) (s.linkOf l).replay (setLink l resent s)

theorem flitError_received (powered : s.powered = true) (up : (s.linkOf l).state = .up) :
    doOviFlitError l false s = sendIdle l s :=
  (if_neg (by rw [powered, decide_eq_false (not_not_intro up)]; decide)).trans (if_pos rfl)

theorem flitError_empty (empty : (s.linkOf l).replay = []) : doOviFlitError l true s = s := by
  unfold doOviFlitError
  extract_lets x z
  split
  · rfl
  · exact (if_neg (by decide)).trans (if_pos (by rw [show x.replay = [] from empty]; rfl))

theorem flitError_idle (idle : s.powered = false ∨ (s.linkOf l).state ≠ .up) (sent : Bool) : doOviFlitError l sent s = s := by
  refine if_pos ?_
  rcases idle with dark | other
  · rw [dark]; rfl
  · rw [decide_eq_true other, Bool.or_true]

theorem replayLimit_idle (idle : s.powered = false ∨ (s.linkOf l).state ≠ .up ∨ (s.linkOf l).again < 4) :
    doOviReplayLimit l s = s := by
  refine if_neg ?_
  rw [Bool.and_eq_true, Bool.and_eq_true, decide_eq_true_eq, decide_eq_true_eq]
  rintro ⟨⟨powered, up⟩, four⟩
  rcases idle with dark | other | few
  · rw [dark] at powered; cases powered
  · exact other up
  · omega

theorem replayLimit_ends (inside : l < s.lnk.links.length) (powered : s.powered = true) (up : (s.linkOf l).state = .up)
    (four : 4 ≤ (s.linkOf l).again) : doOviReplayLimit l s = linkDown l .down s ∧
      ((linkDown l .down s).linkOf l).state = .down ∧ ((linkDown l .down s).linkOf l).replay = [] ∧
      ((linkDown l .down s).linkOf l).waiting = [] ∧ (linkDown l .down s).mem.dram = s.mem.dram := by
  have free : false = false := rfl
  have kept : Keeps (Untouched.allBut [.reports, .frm, .cores, .lnk]) s (linkDown l .down s) :=
    linkDown_keeps l .down s (Keeps.refl s)
  obtain ⟨lost, link⟩ := linkDown_same (st := .down) inside (by decide)
  rw [link]
  exact ⟨if_pos (by rw [powered, decide_eq_true up, decide_eq_true four]; rfl), rfl, rfl, rfl, (kept.stacked rfl).1⟩

theorem idleFlit_takes (inside : l < s.lnk.links.length) {f : LinkFlit} (powered : s.powered = true) (up : (s.linkOf l).state = .up)
    (open_ : (s.linkOf l).quiesce = false) (clear : (s.linkOf l).waiting = []) :
    doOviIdleFlit l f s = setLink l (trailed f) s :=
  (if_pos (by rw [powered, decide_eq_true up]; rfl)).trans (takeTrailer_clear inside open_ clear)

theorem idleFlit_ignored {f : LinkFlit} (idle : s.powered = false ∨ (s.linkOf l).state ≠ .up) : doOviIdleFlit l f s = s := by
  refine if_neg ?_
  rw [Bool.and_eq_true, decide_eq_true_eq]
  rintro ⟨powered, up⟩
  rcases idle with dark | other
  · rw [dark] at powered; cases powered
  · exact other up

end Errors

/-! ## Requests without an answer (R271) -/

theorem peerRequestTimeout_ends {s : State} {e : QEntry} {r : PeerReq} (parity : Bool) (powered : s.powered = true)
    (only : s.lnk.requests = [r]) (core : r.racc = false) (endpoint : r.core = r.endpoint) (uid : r.uid = e.uid)
    (single : (s.coreRec r.core).queue = [e]) (late : r.at_ + tcMs ≤ s.frm.tc) :
    doPeerRequestTimeout r.endpoint r.tag parity s = faultEntry r.core e 7 (dropRequest r s) := by
  have found : s.lnk.requests.find? (fun q => decide (q.endpoint = r.endpoint) && decide (q.tag = r.tag) && !q.racc) = some r := by
    rw [only, List.find?_cons_of_pos]
    rw [decide_eq_true rfl, decide_eq_true rfl, core]
    rfl
  have entry : (dropRequest r s).entryOf r.core r.uid = some e := by
    have queue : ((dropRequest r s).coreRec r.core).queue = [e] := single
    rw [State.entryOf, queue, List.find?_cons_of_pos (by rw [uid, decide_eq_true rfl])]
  have gone : ((faultEntry r.core e 7 (dropRequest r s)).coreRec r.endpoint).queue = [] := by
    rw [← endpoint, faultEntry, (descFault_effect ..).2.2.2.1 r.core, queue_dropEntry,
      show ((dropRequest r s).coreRec r.core).queue = [e] from single]
    exact List.filter_cons_of_neg (by rw [decide_eq_false (not_not_intro rfl)]; decide)
  unfold doPeerRequestTimeout
  rw [found]
  refine (if_neg (by rw [powered, decide_eq_false (by omega)]; decide)).trans ?_
  simp only [entry]
  exact resumePeer_idle gone parity

theorem peerRequestTimeout_waits {s : State} {e g : Nat} (parity : Bool)
    (none_ : s.lnk.requests.all (fun r => r.racc || decide (r.endpoint ≠ e) || decide (r.tag ≠ g) ||
      decide (s.frm.tc < r.at_ + tcMs)) = true) : doPeerRequestTimeout e g parity s = s := by
  unfold doPeerRequestTimeout
  split
  · rfl
  · next r found =>
    have one := List.all_eq_true.1 none_ r (List.mem_of_find?_eq_some found)
    have match_ := List.find?_some found
    simp only [Bool.and_eq_true, decide_eq_true_eq, Bool.not_eq_true'] at match_
    obtain ⟨⟨endpoint, tag⟩, core⟩ := match_
    rw [core, decide_eq_false (not_not_intro endpoint), decide_eq_false (not_not_intro tag),
      Bool.false_or, Bool.false_or, Bool.false_or] at one
    exact if_pos (by rw [one, Bool.or_true])

/-! ## Credits that do not come (R276) -/

theorem beq_flag (a b : Bool) : (a == b) = decide (a = b) := by cases a <;> cases b <;> rfl

theorem creditStall_fires {s : State} {l : Nat} {b : Bool} (powered : s.powered = true)
    (stalled : (s.linkOf l).waiting.any (fun o => decide (o.flit.scheduled = b) && decide (o.since + 10 * tcMs ≤ s.frm.tc)) = true) :
    doCreditStall l b s = raise 0x0043 1 l [b2n b] (setLink l (fun x => { x with
      creditStalls := satAdd 16 x.creditStalls 1
      waiting := x.waiting.map (fun o => if o.flit.scheduled = b then { o with since := s.frm.tc } else o) }) s) := by
  unfold doCreditStall
  simp only [beq_flag, decide_eq_true_eq]
  exact if_pos (by rw [powered, stalled]; rfl)

theorem creditStall_waits {s : State} {l : Nat} {b : Bool} (idle : s.powered = false ∨
    (s.linkOf l).waiting.any (fun o => decide (o.flit.scheduled = b) && decide (o.since + 10 * tcMs ≤ s.frm.tc)) = false) :
    doCreditStall l b s = s := by
  unfold doCreditStall
  simp only [beq_flag]
  refine if_neg ?_
  rw [Bool.and_eq_true]
  rintro ⟨powered, stalled⟩
  rcases idle with dark | none_
  · rw [dark] at powered; cases powered
  · rw [none_] at stalled; cases stalled

end Sys2Proof.Proofs
end


section
/-! Flits that arrive on a link: the obligation. -/
namespace Sys2Proof.Proofs
set_option Elab.async false
open Sys2Proof.Machine Sys2Proof.Laws

section Exec
variable {l : Nat} (link : l < 32) (f : LinkFlit) (s : State)
include link

theorem exec_oviWriteFlit (p : Bool) : exec (.oviWriteFlit l f p) s = .next (doOviWriteFlit l (f.narrow 1) p s) := onUnit_runs link
theorem exec_oviReadFlit (p : Bool) (fl : List (Nat × Nat)) :
    exec (.oviReadFlit l f p fl) s = .next (doOviReadFlit l (f.narrow 2) p fl s) := onUnit_runs link
theorem exec_oviReadDataFlit : exec (.oviReadDataFlit l f) s = .next (doOviReadDataFlit l (f.narrow 3) s) := onUnit_runs link
theorem exec_oviAckFlit (p : Bool) : exec (.oviAckFlit l f p) s = .next (doOviAckFlit l (f.narrow 4) p s) := onUnit_runs link
theorem exec_oviStatusFlit : exec (.oviStatusFlit l f) s = .next (doOviStatusFlit l (f.narrow 5) s) := onUnit_runs link
theorem exec_oviIdleFlit : exec (.oviIdleFlit l f) s = .next (doOviIdleFlit l (f.narrow 0) s) := onUnit_runs link

end Exec

/-- R266: a flit out of order repeats the acknowledgement, and a link that is not up takes none. -/
theorem flits_early {s : State} {l : Nat} {f : LinkFlit} (p : Bool) (fl : List (Nat × Nat)) (link : l < 32)
    (powered : s.powered = true) (up : (s.linkOf l).state = .up) (early : f.seq % 4096 ≠ (s.linkOf l).expectSeq) :
    exec (.oviWriteFlit l f p) s = .next (sendIdle l s) ∧ exec (.oviReadFlit l f p fl) s = .next (sendIdle l s) ∧
    exec (.oviReadDataFlit l f) s = .next (sendIdle l s) ∧ exec (.oviAckFlit l f p) s = .next (sendIdle l s) ∧
    exec (.oviStatusFlit l f) s = .next (sendIdle l s) := by
  have repeats (k : Nat) (body : State → State) : receive l (f.narrow k) body s = sendIdle l s :=
    receive_early powered up (f := f.narrow k) early body
  rw [exec_oviWriteFlit link, exec_oviReadFlit link, exec_oviReadDataFlit link, exec_oviAckFlit link, exec_oviStatusFlit link]
  exact ⟨congrArg _ (repeats 1 _), congrArg _ (repeats 2 _), congrArg _ (repeats 3 _), congrArg _ (repeats 4 _),
    congrArg _ (repeats 5 _)⟩

theorem flits_ignored {s : State} {l : Nat} {f : LinkFlit} (p : Bool) (fl : List (Nat × Nat)) (link : l < 32)
    (idle : s.powered = false ∨ (s.linkOf l).state ≠ .up) :
    exec (.oviWriteFlit l f p) s = .next s ∧ exec (.oviReadFlit l f p fl) s = .next s ∧
    exec (.oviReadDataFlit l f) s = .next s ∧ exec (.oviAckFlit l f p) s = .next s ∧
    exec (.oviStatusFlit l f) s = .next s ∧ exec (.oviIdleFlit l f) s = .next s ∧
    exec (.oviFlitError l p) s = .next s ∧ exec (.oviReplayLimit l) s = .next s := by
  have ignores (k : Nat) (body : State → State) : receive l (f.narrow k) body s = s := receive_idle idle (f.narrow k) body
  rw [exec_oviWriteFlit link, exec_oviReadFlit link, exec_oviReadDataFlit link, exec_oviAckFlit link, exec_oviStatusFlit link,
    exec_oviIdleFlit link]
  have limit : doOviReplayLimit l s = s := replayLimit_idle (idle.imp id Or.inl)
  exact ⟨congrArg _ (ignores 1 _), congrArg _ (ignores 2 _), congrArg _ (ignores 3 _), congrArg _ (ignores 4 _),
    congrArg _ (ignores 5 _), congrArg _ (idleFlit_ignored idle), (onUnit_runs link).trans (congrArg _ (flitError_idle idle p)),
    (onUnit_runs link).trans (congrArg _ limit)⟩

/-- A command that does `f` ends in what `f` leaves. -/
theorem ends_next {o : Host.Outcome State Fault Refusal} {z : State} {P : State → Prop} (runs : o = .next z)
    (holds : ∃ t, z = t ∧ P t) : ∃ t, o = .next t ∧ P t := by
  obtain ⟨t, rfl, here⟩ := holds
  exact ⟨z, runs, here⟩

/-- R271: a request of a core without an answer stops its context. -/
theorem peerRequest_faults {s : State} {e : QEntry} {r : PeerReq} (p : Bool) (endpoint : r.endpoint < 65536) (tag : r.tag < 65536)
    (powered : s.powered = true) (only : s.lnk.requests = [r]) (core : r.racc = false) (own : r.core = r.endpoint)
    (uid : r.uid = e.uid) (single : (s.coreRec r.core).queue = [e]) (late : r.at_ + tcMs ≤ s.frm.tc) :
    ∃ t, exec (.peerRequestTimeout r.endpoint r.tag p) s = .next t ∧ t.lnk.requests = [] ∧ (t.coreRec r.core).queue = [] ∧
      (t.ctxOf r.core e.slot).stopped = true ∧ (t.ctxOf r.core e.slot).fault = 7 ∧
      (t.ctxOf r.core e.slot).faultIdx = e.idx ∧ t.lnk.links = s.lnk.links ∧ t.mem.dram = s.mem.dram := by
  have free : false = false := rfl
  have runs : exec (.peerRequestTimeout r.endpoint r.tag p) s = .next (faultEntry r.core e 7 (dropRequest r s)) := by
    change Host.Outcome.next (doPeerRequestTimeout (r.endpoint % 65536) (r.tag % 65536) p s) = _
    rw [Nat.mod_eq_of_lt endpoint, Nat.mod_eq_of_lt tag, peerRequestTimeout_ends p powered only core own uid single late]
  have kept : Keeps (Untouched.allBut [.reports, .frm, .cores]) (dropRequest r s) (faultEntry r.core e 7 (dropRequest r s)) :=
    faultEntry_keeps r.core e 7 (dropRequest r s) (Keeps.refl _)
  obtain ⟨ctx, _, _, queue, _, mem⟩ := descFault_effect r.core e.slot e.role e.idx 7 (dropEntry r.core e.uid (dropRequest r s))
  have none_ : (dropRequest r s).lnk.requests = [] := by
    change s.lnk.requests.filter _ = []
    rw [only, List.filter_cons_of_neg (by simp), List.filter_nil]
  have lnk := kept.lnk rfl
  refine ⟨_, runs, by rw [lnk]; exact none_, ?_, congrArg Ctx.stopped ctx, congrArg Ctx.fault ctx, congrArg Ctx.faultIdx ctx,
    by rw [lnk]; rfl, congrArg MemBlk.dram mem⟩
  rw [faultEntry, queue r.core, queue_dropEntry, show ((dropRequest r s).coreRec r.core).queue = [e] from single]
  exact List.filter_cons_of_neg (by rw [decide_eq_false (not_not_intro rfl)]; decide)

/-- Settles O50: the flit that a link expects advances its number, whatever its body does; each type's body is one lemma,
from the write that stores to the vote that is noted. -/
theorem oviFlits : Obligations.OviFlits := by
  unfold Obligations.OviFlits
  refine ⟨?_, ?_, ?_, ?_, ?_, ?_, ?_, ?_, ?_, ?_, ?_, ?_, ?_, ?_, ?_, ?_, ?_, ?_, ?_, ?_, ?_⟩
  · intro s l f p fl link powered up early
    exact flits_early p fl link powered up early
  · intro s l f p fl link idle
    exact flits_ignored p fl link idle
  · intro s l f link powered up open_ next assigned own clear plain allowed aligned trained path unlocked unblocked
    exact ends_next (exec_oviWriteFlit link f s false) (write_stores (f := f.narrow 1) powered up open_ next assigned own clear plain
      allowed aligned trained path unlocked unblocked)
  · intro s l f p link powered up open_ next assigned own clear barred
    exact ends_next (exec_oviWriteFlit link f s p) (write_refused (f := f.narrow 1) powered up open_ next assigned own clear p barred)
  · intro s l f p link powered up open_ next assigned own clear allowed plain held
    exact ends_next (exec_oviWriteFlit link f s p)
      (write_held (f := f.narrow 1) powered up open_ next assigned own clear p allowed plain held)
  · intro s l f s2 d p link powered up open_ next assigned own clear allowed trained routed room credit read
    exact ends_next (exec_oviReadFlit link f s p []) (read_answers (f := f.narrow 2) powered up open_ next assigned own clear allowed
      trained routed room credit read)
  · intro s l f m p link powered up open_ next assigned other hops clear route away empty room credit
    have left_ : (f.narrow 1).flit.hops - 1 ≠ 0 := by
      change f.flit.hops % 64 - 1 ≠ 0
      omega
    exact ends_next (exec_oviWriteFlit link f s p) (request_goes_on (f := f.narrow 1) powered up open_ next assigned clear other left_
      (peerWrite l p (f.narrow 1).flit) route away empty credit room)
  · intro s l f r link powered up open_ next assigned own clear only racc endpoint tag write idle
    exact ends_next (exec_oviReadDataFlit link f s)
      (readData_ends (f := f.narrow 3) powered up open_ next assigned own clear only racc endpoint tag write idle)
  · intro s l f r st p link powered up open_ next assigned own clear only racc endpoint tag status record write idle
    exact ends_next (exec_oviAckFlit link f s p)
      (ack_ends (f := f.narrow 4) powered up open_ next assigned own clear p only racc endpoint tag status record idle)
  · intro s l f link powered up open_ next assigned own clear strangers
    exact ends_next (exec_oviStatusFlit link f s)
      (strangers_change_nothing (f := f.narrow 5) powered up open_ next assigned own clear strangers)
  · intro s l f link powered up open_ next assigned own clear single member running kind frame later start period
    exact ends_next (exec_oviStatusFlit link f s)
      (vote_is_noted (f := f.narrow 5) powered up open_ next assigned own clear single member running kind frame later start period)
  · intro s l f link length powered up open_ clear
    exact (exec_oviIdleFlit link f s).trans (congrArg _ (idleFlit_takes (by omega) powered up open_ clear))
  · intro s l link powered up
    exact (onUnit_runs link).trans (congrArg _ (flitError_received powered up))
  · intro s l link empty
    exact (onUnit_runs link).trans (congrArg _ (flitError_empty empty))
  · intro s l link length powered up held
    exact ⟨_, onUnit_runs link, flitError_sent powered up held⟩
  · intro s l link length powered up four
    obtain ⟨ends, facts⟩ := replayLimit_ends (by omega) powered up four
    exact ⟨_, (onUnit_runs link).trans (congrArg _ ends), rfl, facts⟩
  · intro s l link few
    exact (onUnit_runs link).trans (congrArg _ (replayLimit_idle (Or.inr (Or.inr few))))
  · intro s e r p endpoint tag powered only core own uid slot single late
    exact peerRequest_faults p endpoint tag powered only core own uid single late
  · intro s e g p none_
    exact congrArg Host.Outcome.next (peerRequestTimeout_waits p none_)
  · intro s l b link powered stalled
    exact (onUnit_runs link).trans (congrArg _ (creditStall_fires powered stalled))
  · intro s l b link idle
    exact (onUnit_runs link).trans (congrArg _ (creditStall_waits idle))

end Sys2Proof.Proofs
end


section
/-! Memory upkeep: refresh, scrub and error thresholds (R141 to R145). -/
namespace Sys2Proof.Proofs
set_option Elab.async false
open Sys2Proof.Machine Sys2Proof.Laws

theorem tileRec_of_mem {s t : State} (same : t.mem = s.mem) (n : Nat) : t.tileRec n = s.tileRec n := by
  rw [State.tileRec, same]
  rfl

/-! ## Refresh (R141, R142) -/

section Refresh
variable {s : State} {n b : Nat}

theorem refreshBank_owes : mapGet 0 (refreshBank n b s).mem.owed (n * 32 + b) = 0 :=
  mapGet_mapSet_same 0 s.mem.owed (n * 32 + b) 0

theorem refreshBank_closes {j : Nat} (inside : j < 4) : mapGet 0 (refreshBank n b s).mem.openRows ((n * 32 + b) * 4 + j) = 0 := by
  have filtered := mapGet_filter 0 s.mem.openRows (fun k => decide (k / 4 ≠ n * 32 + b)) ((n * 32 + b) * 4 + j)
  rw [decide_eq_false (by omega)] at filtered
  exact filtered

/-- A bank whose refresh is postponed. -/
def postponed (n b : Nat) (s : State) : State :=
  setTile n (fun t => { t with maxOwed := max t.maxOwed (mapGet 0 s.mem.owed (n * 32 + b) + 1) })
    { s with mem := { s.mem with owed := mapSet 0 s.mem.owed (n * 32 + b) (mapGet 0 s.mem.owed (n * 32 + b) + 1) } }

theorem postponed_owes :
    mapGet 0 (postponed n b s).mem.owed (n * 32 + b) = mapGet 0 s.mem.owed (n * 32 + b) + 1 :=
  mapGet_mapSet_same 0 s.mem.owed (n * 32 + b) (mapGet 0 s.mem.owed (n * 32 + b) + 1)

theorem postponed_tile : ((postponed n b s).tileRec n).maxOwed =
    max (s.tileRec n).maxOwed (mapGet 0 s.mem.owed (n * 32 + b) + 1) := by
  rw [postponed, setTile_tileRec_same]
  rfl

section Live
variable (live : s.tileLive n = true) (service : s.bankFenced n b = false)
include live service

/-- What a refresh that falls due does to a bank that has repaid, or not, what it owed. -/
theorem refreshDue_eq (serving idled : Bool) {z : State} (repaid : (if idled then refreshBank n b s else s) = z) :
    doBankRefreshDue n b serving idled s =
      if serving && decide (mapGet 0 z.mem.owed (n * 32 + b) < 4) then postponed n b z else refreshBank n b z := by
  rw [← repaid]
  exact if_pos (by rw [live, service]; rfl)

theorem refreshDue_postpones (few : mapGet 0 s.mem.owed (n * 32 + b) < 4) :
    doBankRefreshDue n b true false s = postponed n b s :=
  (refreshDue_eq live service true false (z := s) rfl).trans (if_pos (by rw [decide_eq_true few]; rfl))

theorem refreshDue_idled : doBankRefreshDue n b true true s = postponed n b (refreshBank n b s) :=
  (refreshDue_eq live service true true (z := refreshBank n b s) rfl).trans (if_pos (by rw [refreshBank_owes]; rfl))

theorem refreshDue_refreshes {serving idled : Bool}
    (due : serving = false ∨ (idled = false ∧ 4 ≤ mapGet 0 s.mem.owed (n * 32 + b))) :
    doBankRefreshDue n b serving idled s = refreshBank n b s ∨
    doBankRefreshDue n b serving idled s = refreshBank n b (refreshBank n b s) := by
  rcases due with idle | ⟨kept, four⟩
  · rw [idle]
    cases idled
    · exact Or.inl (refreshDue_eq live service false false rfl)
    · exact Or.inr (refreshDue_eq live service false true rfl)
  · rw [kept]
    exact Or.inl ((refreshDue_eq live service serving false (z := s) rfl).trans
      (if_neg (by rw [decide_eq_false (by omega), Bool.and_false]; decide)))

end Live

theorem refreshDue_dead (dead : s.tileLive n = false ∨ s.bankFenced n b = true) (serving idled : Bool) :
    doBankRefreshDue n b serving idled s = s := by
  refine if_neg ?_
  rcases dead with gone | fenced
  · rw [gone, Bool.false_and]; decide
  · rw [fenced, Bool.not_true, Bool.and_false]; decide

end Refresh

/-! ## Scrub runs (R144) -/

theorem scrubPeriod_scrubBad (n a syn : Nat) (s : State) : (scrubBad n a syn s).mem.scrubPeriod = s.mem.scrubPeriod := by
  rw [scrubBad, raise_mem]
  rfl

theorem scrubPeriod_countCorrected (n : Nat) (s : State) : (countCorrected n s).mem.scrubPeriod = s.mem.scrubPeriod := rfl

theorem scrubPeriod_scrubAgain (n a i : Nat) (s : State) : (scrubAgain n a i s).mem.scrubPeriod = s.mem.scrubPeriod := by
  unfold scrubAgain
  split
  · rfl
  · next d j _ =>
    by_cases stuck : i = j
    · simp only [if_pos stuck]
      exact scrubPeriod_countCorrected n s
    · simp only [if_neg stuck]
      exact scrubPeriod_countCorrected n s
  · exact scrubPeriod_scrubBad ..

theorem scrubPeriod_flipSymbols (a : Nat) (flips : List (Nat × Nat)) (s : State) :
    (flipSymbols a flips s).mem.scrubPeriod = s.mem.scrubPeriod := by
  rw [flipSymbols]
  induction flips generalizing s with
  | nil => rfl
  | cons f flips ih =>
    rw [List.foldl_cons, ih]
    extract_lets w i
    split <;> rfl

theorem scrubPeriod_scrubWord (n a : Nat) (parity : Bool) (again : List (Nat × Nat)) (s : State) :
    (scrubWord n a parity again s).mem.scrubPeriod = s.mem.scrubPeriod := by
  unfold scrubWord
  split
  · rw [raise_mem]
    rfl
  · split
    · rfl
    · next d i _ =>
      rw [scrubPeriod_scrubAgain, scrubPeriod_flipSymbols]
      exact scrubPeriod_countCorrected n s
    · exact scrubPeriod_scrubBad ..

/-- The 64 words of a scrub run at `base`. -/
def scrubbed (n base : Nat) (fl ag : List (Nat × Nat)) (pa : List Nat) (s : State) : State :=
  (List.range 64).foldl (fun x i => scrubWord n (base + 32 * i) (pa.contains i) (flipsOf i ag) x)
    (openRow base (flipSymbols base fl s))

theorem scrubPeriod_scrubbed (n base : Nat) (fl ag : List (Nat × Nat)) (pa : List Nat) (s : State) :
    (scrubbed n base fl ag pa s).mem.scrubPeriod = s.mem.scrubPeriod := by
  have first : (openRow base (flipSymbols base fl s)).mem.scrubPeriod = s.mem.scrubPeriod := scrubPeriod_flipSymbols base fl s
  rw [scrubbed]
  generalize openRow base (flipSymbols base fl s) = z at first ⊢
  generalize List.range 64 = l
  induction l generalizing z with
  | nil => exact first
  | cons i l ih =>
    rw [List.foldl_cons]
    exact ih _ ((scrubPeriod_scrubWord ..).trans first)

theorem scrubbed_keeps (n base : Nat) (fl ag : List (Nat × Nat)) (pa : List Nat) (s : State) :
    Keeps (Untouched.allBut [.stacked, .reports, .mem]) s (scrubbed n base fl ag pa s) := by
  have free : false = false := rfl
  have first : Keeps (Untouched.allBut [.stacked, .reports, .mem]) s (openRow base (flipSymbols base fl s)) :=
    openRow_keeps base _ (flipSymbols_keeps base fl s (Keeps.refl s))
  rw [scrubbed]
  generalize openRow base (flipSymbols base fl s) = z at first ⊢
  generalize List.range 64 = l
  induction l generalizing z with
  | nil => exact first
  | cons i l ih => exact ih _ (scrubWord_keeps n (base + 32 * i) (pa.contains i) (flipsOf i ag) z first)

/-- A tile that goes on to its next run, `k` being the present one and `tc` the time of the next. -/
def nextRun (k tc : Nat) (t : Tile) : Tile :=
  if k + 1 < 24576 then { t with scrubNext := tc, run := k + 1 }
  else { t with scrubNext := tc, run := 0, passes := satAdd 32 t.passes 1 }

theorem nextRun_run (k tc : Nat) (t : Tile) : (nextRun k tc t).run = (if k + 1 < 24576 then k + 1 else 0) := by
  unfold nextRun
  split <;> rfl

theorem nextRun_scrubNext (k tc : Nat) (t : Tile) : (nextRun k tc t).scrubNext = tc := by
  unfold nextRun
  split <;> rfl

theorem nextRun_passes (k tc : Nat) (t : Tile) :
    (nextRun k tc t).passes = (if k + 1 < 24576 then t.passes else satAdd 32 t.passes 1) := by
  unfold nextRun
  split <;> rfl

/-- Where the present run of a tile stands. -/
def runBase (s : State) (n : Nat) : Nat :=
  n * slotSize + (s.tileRec n).run / 1024 * bankData + (s.tileRec n).run % 1024 * 2048

section Scrub
variable {s : State} {n : Nat} (fl ag : List (Nat × Nat)) (pa : List Nat)

/-- A run that is due: the words of an open bank, then the next run. -/
theorem scrubRun_due (due : s.scrubDue n = true) {z : State}
    (words : (if s.bankFenced n ((s.tileRec n).run / 1024) then s else scrubbed n (runBase s n) fl ag pa s) = z) :
    doScrubRun n fl ag pa s = setTile n (nextRun (s.tileRec n).run (z.frm.tc + z.scrubStep)) z := by
  rw [← words]
  exact if_pos due

theorem scrubRun_open (due : s.scrubDue n = true) (service : s.bankFenced n ((s.tileRec n).run / 1024) = false) :
    doScrubRun n fl ag pa s =
      setTile n (nextRun (s.tileRec n).run (s.frm.tc + s.scrubStep)) (scrubbed n (runBase s n) fl ag pa s) := by
  have kept := scrubbed_keeps n (runBase s n) fl ag pa s
  have period := scrubPeriod_scrubbed n (runBase s n) fl ag pa s
  rw [scrubRun_due fl ag pa due (if_neg (by rw [service]; decide)), kept.frm rfl, State.scrubStep, State.scrubStep, period]

theorem scrubRun_fenced (due : s.scrubDue n = true) (fenced : s.bankFenced n ((s.tileRec n).run / 1024) = true) :
    doScrubRun n fl ag pa s = setTile n (nextRun (s.tileRec n).run (s.frm.tc + s.scrubStep)) s :=
  scrubRun_due fl ag pa due (if_pos fenced)

theorem scrubRun_waits (early : s.scrubDue n = false) : doScrubRun n fl ag pa s = s := if_neg (by rw [early]; decide)

end Scrub

/-- A word decodes. -/
def decodes (s : State) (a : Nat) : Bool := match rsDecode (s.codeWord a) with
  | .good _ => true
  | _ => false

theorem scrubWord_clean {s : State} {a : Nat} (clean : decodes s a = true) (n : Nat) (again : List (Nat × Nat)) :
    scrubWord n a false again s = s := by
  unfold decodes at clean
  unfold scrubWord
  rw [if_neg (by decide)]
  split at clean
  · next d good => rw [good]
  · cases clean

/-- Over words that decode a run reads and changes nothing but the row that is open. -/
theorem scrubbed_clean {s : State} {n base : Nat}
    (clean : (List.range 64).all (fun i => decodes s (base + 32 * i)) = true) : scrubbed n base [] [] [] s = openRow base s := by
  have still : (List.range 64).all (fun i => decodes (openRow base s) (base + 32 * i)) = true := clean
  change (List.range 64).foldl _ (openRow base s) = _
  generalize openRow base s = z at still ⊢
  generalize List.range 64 = l at still ⊢
  induction l with
  | nil => rfl
  | cons i l ih =>
    rw [List.all_cons, Bool.and_eq_true] at still
    obtain ⟨one, rest⟩ := still
    rw [List.foldl_cons, show ([] : List Nat).contains i = false from rfl, scrubWord_clean one]
    exact ih rest

/-! ## The threshold of corrected errors (R145) -/

section Threshold
variable {s : State} {n : Nat}

theorem ceThreshold_raises (live : s.tileLive n = true)
    (window : (s.tileRec n).window = s.frm.tc / (max 1 s.mem.ceWindow * 1000000000)) (fresh : (s.tileRec n).windowRaised = false)
    (many : s.mem.ceCount ≤ (s.tileRec n).windowCorrected) : doCeThreshold n s =
      raise 0x0033 1 n [(s.tileRec n).windowCorrected] (setTile n (fun x => { x with windowRaised := true }) s) :=
  if_pos (by rw [live, show tcSec = 1000000000 from rfl, decide_eq_true window, fresh, decide_eq_true many]; rfl)

theorem ceThreshold_done (raised : (s.tileRec n).windowRaised = true) : doCeThreshold n s = s := by
  refine if_neg ?_
  rw [raised, Bool.not_true, Bool.and_false, Bool.false_and]
  decide

end Threshold

/-! ## Temperature (R141) -/

theorem nextRefresh_hot {t : Tile} {temp : Nat} (hot : 1520 < temp) (tc : Nat) :
    (nextRefresh t temp tc).refresh = 2 ∧ (nextRefresh t temp tc).queue = t.queue := by
  unfold nextRefresh
  rw [if_pos hot]
  exact ⟨rfl, rfl⟩

/-- A sample sets the refresh state; besides the tile only the event's own parts differ. -/
theorem tileTempSample_samples {s : State} {n : Nat} (live : s.tileLive n = true) :
    ∃ t, doTileTempSample n s = t ∧
      t.mem = (setTile n (fun t => nextRefresh t (s.memTemp (regionOf n)) s.frm.tc) s).mem ∧ t.clk = s.clk := by
  refine ⟨_, rfl, ?_⟩
  rw [doTileTempSample, if_pos live]
  extract_lets temp old z new
  have clk : z.clk = s.clk := rfl
  have mem : z.mem = (setTile n (fun t => nextRefresh t (s.memTemp (regionOf n)) s.frm.tc) s).mem := rfl
  split
  · rw [raise_mem, raise_clk]
    exact ⟨mem, clk⟩
  · split
    · rw [raise_mem, raise_clk]
      exact ⟨mem, clk⟩
    · exact ⟨mem, clk⟩

end Sys2Proof.Proofs
end


section
/-! Memory upkeep: sashes, banks and tiles that fail (R140, R148), page walks (R200), and the obligation. -/
namespace Sys2Proof.Proofs
set_option Elab.async false
open Sys2Proof.Machine Sys2Proof.Laws

/-! ## What waits at a tile is answered (R148) -/

theorem failRequests_mem (n : Nat) (l : List SashReq) (s : State) : (failRequests n l s).mem = s.mem := by
  have free : false = false := rfl
  have kept : Keeps (Untouched.allBut [.reports, .frm, .cores]) s (failRequests n l s) := failRequests_keeps n l s (Keeps.refl s)
  exact mem_of_keeps kept rfl rfl

theorem failPackets_mem (n : Nat) (hit : Nat → Nat → Bool) (s : State) : (failPackets n hit s).mem = s.mem := by
  have free : false = false := rfl
  have kept : Keeps (Untouched.allBut [.net]) s (failPackets n hit s) := failPackets_keeps n hit s (Keeps.refl s)
  exact mem_of_keeps kept rfl rfl

theorem failWalks_mem (n : Nat) (hit : Nat → Nat → Bool) (s : State) : (failWalks n hit s).mem = s.mem := by
  have free : false = false := rfl
  have kept : Keeps (Untouched.allBut [.reports, .frm, .cores, .walkers]) s (failWalks n hit s) :=
    failWalks_keeps n hit s (Keeps.refl s)
  exact mem_of_keeps kept rfl rfl

/-- A tile without the owner requests whose spans a test picks. -/
def answeredQueue (hit : Nat → Nat → Bool) (t : Tile) : Tile := { t with queue := t.queue.filter (fun q => !hit q.addr q.len) }

theorem failWaiting_mem (n : Nat) (hit : Nat → Nat → Bool) (s : State) :
    (failWaiting n hit s).mem = (setTile n (answeredQueue hit) s).mem := failRequests_mem n _ (setTile n (answeredQueue hit) s)

/-- A tile without the requests it held whose spans a test picks. -/
def unheld (hit : Nat → Nat → Bool) (t : Tile) : Tile :=
  { t with holds := t.holds.filter (fun q => !hit q.span.1 q.span.2) }

/-- A tile that holds nothing serves nothing. -/
theorem serveHolds_empty {n : Nat} {s : State} (empty : (s.tileRec n).holds = []) (hit : Nat → Nat → Bool) :
    serveHolds n hit s = setTile n (unheld hit) s := by
  have none_ : (s.tileRec n).holds.filter (fun q => hit q.span.1 q.span.2) = [] := by rw [empty]; rfl
  change ((s.tileRec n).holds.filter (fun q => hit q.span.1 q.span.2)).foldl (fun s q => serveHeld q s)
    (setTile n (unheld hit) s) = _
  rw [none_]
  rfl

theorem answerWaiting_effect {n : Nat} {s : State} (empty : (s.tileRec n).holds = []) (hit : Nat → Nat → Bool) :
    ((answerWaiting n hit s).tileRec n).queue = (s.tileRec n).queue.filter (fun q => !hit q.addr q.len) ∧
    ((answerWaiting n hit s).tileRec n).retraining = (s.tileRec n).retraining ∧
    (answerWaiting n hit s).mem.dram = s.mem.dram ∧ (answerWaiting n hit s).flp = s.flp := by
  have free : false = false := rfl
  have kept : Keeps (Untouched.allBut [.stacked, .reports, .hif, .frm, .cores, .mem, .net, .bnk, .walkers, .req, .lnk]) s
      (answerWaiting n hit s) := answerWaiting_keeps n hit s (Keeps.refl s)
  have flp := kept.flp rfl
  have mem : (failWalks n hit (failPackets n hit (failWaiting n hit s))).mem = (setTile n (answeredQueue hit) s).mem := by
    rw [failWalks_mem, failPackets_mem, failWaiting_mem]
  rw [answerWaiting] at flp ⊢
  generalize failWalks n hit (failPackets n hit (failWaiting n hit s)) = z at mem flp ⊢
  have tile : z.tileRec n = answeredQueue hit (s.tileRec n) := (tileRec_of_mem mem n).trans (setTile_tileRec_same ..)
  rw [serveHolds_empty (by rw [tile]; exact empty)] at flp ⊢
  rw [setTile_tileRec_same, tile]
  have bytes : z.mem.dram = s.mem.dram := by rw [mem]; rfl
  exact ⟨rfl, rfl, bytes, flp⟩

/-! ## Tiles that are fenced (R140, R148) -/

theorem failBanks_parts (n : Nat) (s : State) : (failBanks n s).mem = s.mem ∧ (failBanks n s).flp = s.flp := by
  have free : false = false := rfl
  have kept : Keeps (Untouched.allBut [.reports, .frm, .cores, .bnk]) s (failBanks n s) := failBanks_keeps n s (Keeps.refl s)
  exact ⟨mem_of_keeps kept rfl rfl, kept.flp rfl⟩

theorem fenceUnits_mem (cause : Nat) (l : List FenceItem) (s : State) : (fenceUnits cause l s).mem = s.mem := by
  have free : false = false := rfl
  have kept : Keeps (Untouched.allBut [.reports, .flp, .dbg, .dev, .frm]) s (fenceUnits cause l s) :=
    fenceUnits_keeps cause l s (Keeps.refl s)
  exact mem_of_keeps kept rfl rfl

/-- The fence of a tile as a whole. -/
def tileItem (n : Nat) : FenceItem := { kind := 3, unit := n }

theorem fenceTile_effect {n : Nat} (cause : Nat) {s : State} (service : s.tileFenced n = false) (empty : (s.tileRec n).holds = []) :
    ((fenceTile n cause s).fence n).tile = true ∧ ((fenceTile n cause s).fence n).tileCause = cause ∧
    ((fenceTile n cause s).tileRec n).queue = [] ∧ ((fenceTile n cause s).tileRec n).retraining = false ∧
    (∀ m, m ≠ n → (fenceTile n cause s).fence m = s.fence m) ∧ (fenceTile n cause s).mem.dram = s.mem.dram := by
  obtain ⟨mem, flp⟩ := failBanks_parts n (fenceUnits cause [tileItem n] s)
  have memory := mem.trans (fenceUnits_mem cause [tileItem n] s)
  have entry : (fenceUnits cause [tileItem n] s).fence n = (s.fence n).fenced cause (tileItem n) :=
    fence_fenceUnits_one cause (f := tileItem n) (fun (five : 3 = 5) => absurd five (by decide)) service
  have others (m : Nat) (ne : m ≠ n) : (fenceUnits cause [tileItem n] s).fence m = s.fence m :=
    fence_fenceUnits_other cause (f := tileItem n) (fun (five : 3 = 5) => absurd five (by decide)) service ne
  have parts : fenceTile n cause s = answerWaiting n anySpan (setTile n (fun t => { t with retraining := false })
      (failBanks n (fenceUnits cause [tileItem n] s))) := rfl
  rw [parts]
  generalize failBanks n (fenceUnits cause [tileItem n] s) = z at memory flp
  have tile : z.tileRec n = s.tileRec n := tileRec_of_mem memory n
  obtain ⟨queue, retraining, dram, fences⟩ := answerWaiting_effect (n := n)
    (s := setTile n (fun t => { t with retraining := false }) z) (by rw [setTile_tileRec_same, tile]; exact empty) anySpan
  have same : (answerWaiting n anySpan (setTile n (fun t => { t with retraining := false }) z)).flp =
      (fenceUnits cause [tileItem n] s).flp := fences.trans flp
  have bytes : z.mem.dram = s.mem.dram := congrArg MemBlk.dram memory
  refine ⟨?_, ?_, ?_, ?_, ?_, dram.trans bytes⟩
  · rw [fence_congr same, entry]
    rfl
  · rw [fence_congr same, entry]
    rfl
  · exact queue.trans (List.filter_eq_nil_iff.2 fun q _ => by rw [anySpan]; decide)
  · rw [retraining, setTile_tileRec_same]
  · intro m ne
    rw [fence_congr same, others m ne]

theorem tileFenced_of_live {s : State} {n : Nat} (live : s.tileLive n = true) : s.tileFenced n = false := by
  rw [State.tileLive, Bool.and_eq_true, Bool.not_eq_true'] at live
  exact live.2

/-! ## Sashes and banks that fail (R148) -/

section Sash
variable {s : State} {n : Nat} (live : s.tileLive n = true)
include live

theorem sashStall_retrains (trained : (s.tileRec n).retraining = false) :
    doSashStallTimeout n s = setTile n (fun t => { t with retraining := true }) s := if_pos (by rw [live, trained]; rfl)

variable (retraining : (s.tileRec n).retraining = true)
include retraining

theorem retrainDone_serves : doSashRetrainDone n true s =
    serveHolds n anySpan (raise 0x0035 0 n [] (setTile n (fun x => { x with retraining := false }) s)) :=
  (if_pos (by rw [live, retraining]; rfl)).trans (if_pos rfl)

theorem retrainDone_fences : doSashRetrainDone n false s = fenceTile n 5 (setTile n (fun x => { x with retraining := false }) s) :=
  (if_pos (by rw [live, retraining]; rfl)).trans (if_neg (by decide))

end Sash

theorem retrained_serves {s : State} {n : Nat} (empty : (s.tileRec n).holds = []) :
    ((serveHolds n anySpan (raise 0x0035 0 n [] (setTile n (fun x => { x with retraining := false }) s))).tileRec n).retraining = false ∧
    ((serveHolds n anySpan (raise 0x0035 0 n [] (setTile n (fun x => { x with retraining := false }) s))).tileRec n).queue =
      (s.tileRec n).queue ∧
    (serveHolds n anySpan (raise 0x0035 0 n [] (setTile n (fun x => { x with retraining := false }) s))).mem.dram = s.mem.dram := by
  have mem := raise_mem 0x0035 0 n [] (setTile n (fun x => { x with retraining := false }) s)
  generalize raise 0x0035 0 n [] (setTile n (fun x => { x with retraining := false }) s) = z at mem ⊢
  have tile : z.tileRec n = { s.tileRec n with retraining := false } := (tileRec_of_mem mem n).trans (setTile_tileRec_same ..)
  rw [serveHolds_empty (by rw [tile]; exact empty), setTile_tileRec_same, tile]
  have bytes : z.mem.dram = s.mem.dram := by rw [mem]; rfl
  exact ⟨rfl, rfl, bytes⟩

/-- A bank that does not answer is fenced, and what waits for it at the tile is answered. -/
theorem bankAccessTimeout_fences {s : State} {n b : Nat} (live : s.bankLive n b = true) (empty : (s.tileRec n).holds = []) :
    ∃ t, doBankAccessTimeout n b s = t ∧ t.bankFenced n b = true ∧ (t.fence n).tileCause = 4 ∧
      (t.fence n).tile = (s.fence n).tile ∧
      (t.tileRec n).queue = (s.tileRec n).queue.filter (fun q => !inBank b q.addr q.len) ∧ t.mem.dram = s.mem.dram := by
  have free : false = false := rfl
  have clear : s.fencedAlready { kind := 4, unit := n, sub := b } = false := (Bool.or_eq_false_iff.1 (service_of_live live)).2
  have fenced := fence_fenceUnits_one 4 (f := { kind := 4, unit := n, sub := b })
    (fun (five : 4 = 5) => absurd five (by decide)) clear
  have failed : Keeps (Untouched.allBut [.reports, .frm, .cores, .bnk])
      (fenceUnits 4 [{ kind := 4, unit := n, sub := b }] s) (fenceBank n b 4 s) := failBank_keeps n b _ (Keeps.refl _)
  have memory : (fenceBank n b 4 s).mem = s.mem := (mem_of_keeps failed rfl rfl).trans (fenceUnits_mem 4 _ s)
  have entry : (fenceBank n b 4 s).fence n = (s.fence n).fenced 4 { kind := 4, unit := n, sub := b } :=
    (fence_congr (failed.flp rfl) n).trans fenced
  have tile := tileRec_of_mem memory n
  generalize held : fenceBank n b 4 s = z at memory entry tile
  obtain ⟨queue, _, dram, flp⟩ := answerWaiting_effect (n := n) (s := z) (by rw [tile]; exact empty) (inBank b)
  have same : (answerWaiting n (inBank b) z).fence n = (s.fence n).fenced 4 { kind := 4, unit := n, sub := b } :=
    (fence_congr flp n).trans entry
  refine ⟨answerWaiting n (inBank b) z, ?_, ?_, by rw [same]; rfl, by rw [same]; rfl, by rw [queue, tile],
    dram.trans (congrArg MemBlk.dram memory)⟩
  · rw [doBankAccessTimeout, if_pos live, held]
  · have bit_ : bit ((s.fence n).banks ||| 2 ^ b) b = true := by
      rw [bit_eq_testBit, Nat.testBit_or, Nat.testBit_two_pow_self, Bool.or_true]
    rw [State.bankFenced, same]
    exact Bool.or_eq_true_iff.2 (.inr bit_)

theorem parityFence_fences {s : State} {n : Nat} (live : s.tileLive n = true) (due : (s.tileRec n).parityDue = true) :
    doDatapathParityFence n s = fenceTile n 3 s := if_pos (by rw [live, due]; rfl)

/-! ## Page walks (R200) -/

/-- Region `r` without the walk of a word, which counts as a miss. -/
def walked (r lane word cyc : Nat) (s : State) : State := setWalker r (fun x =>
  { x with
    walks := startWalks (x.walks.filter (fun y => !(decide (y.lane = lane) && decide (y.word = word))))
    ctr := { x.ctr with misses := satAdd 32 x.ctr.misses 1, cycles := satAdd 32 x.ctr.cycles cyc } }) s

section Walks
variable {s s2 : State} {r lane word cyc : Nat} {parity : Bool} {flips : List (Nat × Nat)} {w : Walk}

/-- The walks of region `r` for a word that have started. -/
def walkOf (s : State) (r lane word : Nat) : Option Walk :=
  (s.walkerOf r).walks.find? (fun x => decide (x.lane = lane) && decide (x.word = word) && x.started)

/-- The address of a page-table word. -/
def tableWord (s : State) (r lane word : Nat) : Nat := (nth {} (s.walkerOf r).lanes lane).ptBase + 32 * word

section Performed
variable (found : walkOf s r lane word = some w) (powered : s.powered = true)
  (trained : (s.tileRec (tileOf (tableWord s r lane word))).retraining = false)
include found powered trained

theorem pageWalkDone_reads {b : List Nat} (read : readBytes (walkerWho r) parity (tableWord s r lane word) 32
      (flipSymbols (tableWord s r lane word) flips (walked r lane word cyc s)) = (.data b, s2)) :
    doPageWalkDone r lane word cyc parity flips s = resumePieces w.pieces (setWalker r (fun x => { x with
      looks := (touchLook { lane := lane, word := word, entries := (List.range 16).map (fun j => leAt b (2 * j) 2) } x.looks).take 128 })
      s2) := by
  have open_ : ¬ (!s.powered || (s.tileRec (tileOf (tableWord s r lane word))).retraining) = true := by
    rw [powered, trained]; decide
  rw [walkOf] at found
  rw [walked] at read
  unfold doPageWalkDone
  rw [found]
  refine (if_neg open_).trans ?_
  unfold tableWord at read
  simp only [read]

theorem pageWalkDone_fails {c : Nat} (read : readBytes (walkerWho r) parity (tableWord s r lane word) 32
      (flipSymbols (tableWord s r lane word) flips (walked r lane word cyc s)) = (.error c, s2)) :
    doPageWalkDone r lane word cyc parity flips s = failPieces (if c = 4 then 3 else 2) w.pieces s2 := by
  have open_ : ¬ (!s.powered || (s.tileRec (tileOf (tableWord s r lane word))).retraining) = true := by
    rw [powered, trained]; decide
  rw [walkOf] at found
  rw [walked] at read
  unfold doPageWalkDone
  rw [found]
  refine (if_neg open_).trans ?_
  unfold tableWord at read
  simp only [read]

end Performed

theorem pageWalkDone_waits (idle : walkOf s r lane word = none ∨
    (s.tileRec (tileOf (tableWord s r lane word))).retraining = true) : doPageWalkDone r lane word cyc parity flips s = s := by
  unfold doPageWalkDone
  split
  · rfl
  · next w found =>
    rcases idle with none_ | held
    · rw [walkOf, found] at none_
      cases none_
    · exact if_pos (by rw [show (s.tileRec (tileOf ((nth {} (s.walkerOf r).lanes lane).ptBase + 32 * word))).retraining = true
        from held, Bool.or_true])

end Walks

/-! ## The obligation -/

/-- Every symbol error named lies in the run. -/
theorem filter_inside {l : List (Nat × Nat)} (inside : l.all (fun f => decide (f.1 < 2304)) = true) :
    l.filter (fun f => decide (f.1 < 2304)) = l := List.filter_eq_self.2 fun f here => List.all_eq_true.1 inside f here

theorem exec_scrubRun {n : Nat} (tile : n < 12288) (fl ag : List (Nat × Nat)) (pa : List Nat) (s : State) :
    exec (.scrubRun n fl ag pa) s = .next (doScrubRun n (fl.filter (fun f => decide (f.1 < 2304)))
      (ag.filter (fun f => decide (f.1 < 2304))) pa s) := onUnit_runs tile

theorem openRow_parts (a : Nat) (s : State) : (openRow a s).mem.dram = s.mem.dram ∧ (openRow a s).mem.check = s.mem.check ∧
    (openRow a s).mem.corrected = s.mem.corrected ∧ (openRow a s).mem.tiles = s.mem.tiles ∧ (openRow a s).cores = s.cores :=
  ⟨rfl, rfl, rfl, rfl, rfl⟩

section ScrubRun
variable {s : State} {n : Nat} (due : s.scrubDue n = true) (service : s.bankFenced n ((s.tileRec n).run / 1024) = false)
include due service

theorem scrubRun_words (fl ag : List (Nat × Nat)) (pa : List Nat) : ∃ t, doScrubRun n fl ag pa s = t ∧
    t.mem.dram = (scrubbed n (runBase s n) fl ag pa s).mem.dram ∧
    (t.tileRec n).run = (if (s.tileRec n).run + 1 < 24576 then (s.tileRec n).run + 1 else 0) ∧
    (t.tileRec n).scrubNext = s.frm.tc + s.scrubStep ∧ t.cores = s.cores := by
  have kept := scrubbed_keeps n (runBase s n) fl ag pa s
  have cores : (scrubbed n (runBase s n) fl ag pa s).cores = s.cores := cores_of_keeps kept rfl rfl
  refine ⟨_, scrubRun_open fl ag pa due service, rfl, ?_, ?_, cores⟩
  · rw [setTile_tileRec_same, nextRun_run]
  · rw [setTile_tileRec_same, nextRun_scrubNext]

/-- A run whose words change nothing but the row that is open. -/
theorem scrubRun_leaves {z : State} (words : scrubbed n (runBase s n) [] [] [] s = z) (dram : z.mem.dram = s.mem.dram)
    (check : z.mem.check = s.mem.check) (corrected : z.mem.corrected = s.mem.corrected)
    (tile : z.tileRec n = s.tileRec n) (cores : z.cores = s.cores) :
    ∃ t, doScrubRun n [] [] [] s = t ∧ t.mem.dram = s.mem.dram ∧ t.mem.check = s.mem.check ∧
    t.mem.corrected = s.mem.corrected ∧
    (t.tileRec n).run = (if (s.tileRec n).run + 1 < 24576 then (s.tileRec n).run + 1 else 0) ∧
    (t.tileRec n).passes = (if (s.tileRec n).run + 1 < 24576 then (s.tileRec n).passes else satAdd 32 (s.tileRec n).passes 1) ∧
    t.cores = s.cores := by
  have runs := scrubRun_open [] [] [] due service
  rw [words] at runs
  refine ⟨_, runs, dram, check, corrected, ?_, ?_, cores⟩
  · rw [setTile_tileRec_same, nextRun_run]
  · rw [setTile_tileRec_same, nextRun_passes, tile]

theorem scrubRun_clean (clean : (List.range 64).all (fun i => decodes s (runBase s n + 32 * i)) = true) :
    ∃ t, doScrubRun n [] [] [] s = t ∧ t.mem.dram = s.mem.dram ∧ t.mem.check = s.mem.check ∧
    t.mem.corrected = s.mem.corrected ∧
    (t.tileRec n).run = (if (s.tileRec n).run + 1 < 24576 then (s.tileRec n).run + 1 else 0) ∧
    (t.tileRec n).passes = (if (s.tileRec n).run + 1 < 24576 then (s.tileRec n).passes else satAdd 32 (s.tileRec n).passes 1) ∧
    t.cores = s.cores := by
  obtain ⟨dram, check, corrected, tiles, cores⟩ := openRow_parts (runBase s n) s
  exact scrubRun_leaves due service (scrubbed_clean clean) dram check corrected (congrArg (fun m => mapGet tile0 m n) tiles) cores

end ScrubRun

/-- Settles O41: a refresh is `postponed` or `refreshBank`, a scrub run `scrubbed` and then `nextRun`, and a fence at a tile
that holds nothing answers its queue and leaves its bytes. -/
theorem memoryUpkeep : Obligations.MemoryUpkeep := by
  unfold Obligations.MemoryUpkeep
  refine ⟨?_, ?_, ?_, ?_, ?_, ?_, ?_, ?_, ?_, ?_, ?_, ?_, ?_, ?_, ?_, ?_, ?_, ?_⟩
  · intro s n b tile bank live service few
    exact ⟨_, (onUnit_runs ⟨tile, bank⟩).trans (congrArg _ (refreshDue_postpones live service few)), postponed_owes,
      postponed_tile, rfl⟩
  · intro s n b serving idled tile bank live service due
    rcases refreshDue_refreshes live service due with once | twice
    · exact ⟨_, (onUnit_runs ⟨tile, bank⟩).trans (congrArg _ once), refreshBank_owes, fun j => refreshBank_closes, rfl⟩
    · exact ⟨_, (onUnit_runs ⟨tile, bank⟩).trans (congrArg _ twice), refreshBank_owes, fun j => refreshBank_closes, rfl⟩
  · intro s n b tile bank live service
    have owes : mapGet 0 (refreshBank n b s).mem.owed (n * 32 + b) = 0 := refreshBank_owes
    refine ⟨_, (onUnit_runs ⟨tile, bank⟩).trans (congrArg _ (refreshDue_idled live service)), ?_, ?_, ?_, rfl⟩
    · rw [postponed_owes, owes]
    · intro j inside
      exact refreshBank_closes (s := s) inside
    · rw [postponed_tile, owes]
      rfl
  · intro s n b serving idled tile bank dead
    exact (onUnit_runs ⟨tile, bank⟩).trans (congrArg _ (refreshDue_dead dead serving idled))
  · intro s n fl ag pa tile due service flips again
    obtain ⟨t, runs, dram, facts⟩ := scrubRun_words due service fl ag pa
    refine ⟨t, ?_, ?_, facts⟩
    · rw [exec_scrubRun tile, filter_inside flips, filter_inside again, runs]
    · rw [dram, scrubbed, runBase]
  · intro s n fl ag pa tile due fenced
    refine ⟨_, (exec_scrubRun tile fl ag pa s).trans (congrArg _ (scrubRun_fenced _ _ pa due fenced)), ?_, rfl⟩
    rw [setTile_tileRec_same, nextRun_run]
  · intro s n tile due service clean
    exact ends_next (exec_scrubRun tile [] [] [] s) (scrubRun_clean due service clean)
  · intro s n fl ag pa tile early
    exact (exec_scrubRun tile fl ag pa s).trans (congrArg _ (scrubRun_waits _ _ pa early))
  · intro s n tile live window fresh many
    have raised : ((raise 0x0033 1 n [(s.tileRec n).windowCorrected]
        (setTile n (fun x => { x with windowRaised := true }) s)).tileRec n).windowRaised = true := by
      rw [tileRec_of_mem (raise_mem ..), setTile_tileRec_same]
    exact ⟨_, (onUnit_runs tile).trans (congrArg _ (ceThreshold_raises live window fresh many)), rfl, raised,
      (onUnit_runs tile).trans (congrArg _ (ceThreshold_done raised))⟩
  · intro s n tile live trained
    exact (onUnit_runs tile).trans (congrArg _ (sashStall_retrains live trained))
  · intro s n tile live retraining
    exact ⟨_, (onUnit_runs tile).trans (congrArg _ (retrainDone_serves live retraining)), rfl,
      fun empty => (retrained_serves empty).1, fun empty => (retrained_serves empty).2.1, fun empty => (retrained_serves empty).2.2⟩
  · intro s n tile live retraining empty
    have held : ((setTile n (fun x => { x with retraining := false }) s).tileRec n).holds = [] := by
      rw [setTile_tileRec_same]
      exact empty
    exact ⟨_, (onUnit_runs tile).trans (congrArg _ (retrainDone_fences live retraining)),
      fenceTile_effect 5 (s := setTile n (fun x => { x with retraining := false }) s) (tileFenced_of_live live) held⟩
  · intro s n b tile bank live empty
    exact ends_next (onUnit_runs ⟨tile, bank⟩) (bankAccessTimeout_fences live empty)
  · intro s n tile live due empty
    obtain ⟨fenced, cause, queue, _, _, dram⟩ := fenceTile_effect 3 (tileFenced_of_live live) empty
    exact ⟨_, (onUnit_runs tile).trans (congrArg _ (parityFence_fences live due)), fenced, cause, queue, dram⟩
  · intro s n tile live hot
    obtain ⟨t, samples, mem, clk⟩ := tileTempSample_samples live
    obtain ⟨refresh, queue⟩ := nextRefresh_hot (t := s.tileRec n) hot s.frm.tc
    have here := (tileRec_of_mem mem n).trans (setTile_tileRec_same n _ s)
    refine ⟨t, (onUnit_runs tile).trans (congrArg _ samples), by rw [here]; exact refresh, by rw [here]; exact queue,
      fun m ne => (tileRec_of_mem mem m).trans (setTile_tileRec_other n _ s ne), ?_, clk⟩
    rw [mem]
    rfl
  · intro s s2 r lane word cyc parity flips w b region lanes found powered trained read
    exact (onUnit_runs ⟨region, lanes⟩).trans (congrArg _ (pageWalkDone_reads found powered trained read))
  · intro s s2 r lane word cyc parity flips w c region lanes found powered trained read
    exact (onUnit_runs ⟨region, lanes⟩).trans (congrArg _ (pageWalkDone_fails found powered trained read))
  · intro s r lane word cyc parity flips region lanes idle
    exact (onUnit_runs ⟨region, lanes⟩).trans (congrArg _ (pageWalkDone_waits idle))

end Sys2Proof.Proofs
end
